-- ==== Sys2Proof/Word.lean ====
section
/-! DEFINITION. The word type of the control window, field descriptors of registers, and the plainest arithmetic. -/

namespace Sys2Proof.Machine

/-- One 64-bit word: a register value, a mailbox message, a word of HBM. -/
abbrev Word := BitVec 64

/-- One byte. -/
abbrev Byte := BitVec 8

/-- A register field: the slot of its page, the byte offset of its register, its lowest bit, its width and its
reset value (the field tables of the spec). -/
structure Fld where
  slot : Nat
  off : Nat
  lo : Nat
  w : Nat
  reset : Nat
  deriving DecidableEq, Repr

/-- The key under which the state holds a field's value. -/
def Fld.key (f : Fld) : Nat := (f.slot * 4096 + f.off) * 64 + f.lo

/-- Access kinds of the field tables: read only, read and write, write 1 to clear, write 1 to set, cleared or
consumed by a read, write only. -/
inductive Acc where
  | ro | rw | w1c | w1s | rc | wo
  deriving DecidableEq, Repr

/-- Field classes of R10 to R12: none, S (static), L (latched at a beat boundary), V (volatile). -/
inductive Cls where
  | fixed | stat | latched | vola
  deriving DecidableEq, Repr

/-- A field as a register row lists it. -/
structure FDef where
  lo : Nat
  w : Nat
  reset : Nat
  acc : Acc
  cls : Cls
  deriving DecidableEq, Repr

/-- A register, or an array of `cnt` registers 8 bytes apart, on pages `pLo` to `pHi` of every unit of the
block with code `code`. -/
structure RegRow where
  code : Nat
  pLo : Nat
  pHi : Nat
  off : Nat
  cnt : Nat
  fds : List FDef
  deriving DecidableEq, Repr

/-- A map entry (Table 6.2): all-zero, deallocated, foreign, or block `index` of a chunk. -/
structure MapEnt where
  z : Bool := false
  u : Bool := true
  f : Bool := false
  chunk : Nat := 0
  index : Nat := 0
  deriving DecidableEq, Repr

/-- A chunk-table entry (Table 6.3), with the content its units hold on flash: the chunk's blocks as numbers of
32,768 bits. -/
structure CtbEnt where
  count : Nat := 0
  len : Nat := 0
  raw : Bool := true
  dynamic : Bool := false
  keyGen : Nat := 0
  fpTag : Nat := 0
  band : Nat := 0
  offset : Nat := 0
  vat : Nat := 0
  orig : Nat := 0
  fp : Nat := 0
  data : List Nat := []
  /-- the bytes of its DEFLATE stream (R199); none for a raw chunk, or one that another head compressed -/
  deflated : List Nat := []
  /-- `NONCE` and `TAG` of its header (R202, Table 4.6) -/
  nonce : Nat := 0
  gtag : Nat := 0
  deriving DecidableEq, Repr

/-- What an update record writes (Tables 4.7 and 6.7, R268). -/
inductive UVal where
  | map (vol lba : Nat) (e : MapEnt) (entryBeat : Nat)
  | page (vol lba : Nat) (z : Bool) (entryBeat : Nat)
  | ctb (chunk : Nat) (e : CtbEnt)
  | delta (chunk : Nat) (d : Int)
  | release (chunk band offset len : Nat)
  | bandState (band st : Nat) (dense isMeta : Bool) (shard d p rows : Nat)
  | bandMembers (band first : Nat) (members : List Nat)
  deriving DecidableEq, Repr

/-- A record as MIRROR carries it: a data record's slot, descriptor words 0 to 6 (Table 4.2) and encrypted unit, with its journal
generation, the record count of its command and its place there; an update record; or the cursor of a replication cycle: volume,
snapshot and page (R561). -/
inductive MirrorRec where
  | data (slot : Nat) (desc : List Nat) (gen count idx unit : Nat)
  | update (useq : Nat) (val : UVal)
  | cursor (vol snap page : Nat)
  deriving DecidableEq, Repr

/-- The header of an LDT packet as it arrives (Table 11.1): the connection identity it names, its numbers, and what the
receiver found: header fields legal, tag verified, CE-marked, and the path it came on. -/
structure LdtHdr where
  dcid : Nat
  psn : Nat
  msn : Nat := 0
  mlen : Nat := 0
  off : Nat := 0
  plen : Nat := 0
  last : Bool := false
  ackreq : Bool := false
  kgen : Nat := 0
  path : Nat := 0
  ce : Bool := false
  hdrOk : Bool := true
  tagOk : Bool := true
  deriving DecidableEq, Repr

/-- A frame as a host port receives it (R415): bytes, destination address, tag, kind (0 ARP, 1 neighbour discovery, 2 ICMP
or ICMPv6 echo, 3 TCP, 4 UDP, 5 PTP over Ethernet, 6 IEEE 802.3x pause, 7 other), IP version and destination, and what
the port found. -/
structure Frame where
  bytes : Nat
  dst : Nat
  /-- a multicast group the head has joined -/
  joined : Bool := false
  vid : Option Nat := none
  kind : Nat
  /-- 0 none, 4 or 6 -/
  ipv : Nat := 0
  ip : Nat := 0
  csumOk : Bool := true
  frag : Bool := false
  /-- a bad check sequence or a length out of range -/
  err : Bool := false
  prio : Nat := 0
  /-- the part of its priority is full (R420) -/
  full : Bool := false
  /-- RS-FEC codewords corrected and uncorrectable since the last frame (R411) -/
  fecCorr : Nat := 0
  fecBad : Nat := 0
  deriving DecidableEq, Repr

/-- Bits `lo` to `lo + w - 1` of a number. -/
def bitsOf (v lo w : Nat) : Nat := v / 2 ^ lo % 2 ^ w

/-- Bit `i` of a number. -/
def bitOf (v i : Nat) : Bool := v / 2 ^ i % 2 == 1

/-- A Bool as a field value. -/
def b2n (b : Bool) : Nat := if b then 1 else 0

/-- Saturating addition at the top of a `w`-bit counter. -/
def satAdd (w a b : Nat) : Nat := min (2 ^ w - 1) (a + b)

/-- The signed value of the low `w` bits. -/
def sgn (w v : Nat) : Int :=
  let u := v % 2 ^ w
  if u < 2 ^ (w - 1) then (u : Int) else (u : Int) - (2 ^ w : Nat)

/-- A signed value as `w` bits. -/
def unsgn (w : Nat) (v : Int) : Nat := (v % ((2 ^ w : Nat) : Int)).toNat

/-- Rounding up division. -/
def ceilDiv (a b : Nat) : Nat := (a + b - 1) / b

end Sys2Proof.Machine
end

