-- ==== Sys2Proof/Syntax.lean ====
section
/-! DEFINITION. The commands of the head: one constructor per row of the opcode table. The docstring of each names its
row and the rule that gives its effect. Operands of an event row carry what the event brings from outside the head. -/

namespace Sys2Proof

open Machine (Word)

/-- A command: a write or read of a register, a message that arrives, a pin event, or an event of one of the head's own
engines. -/
inductive Instr where
  /-- `PORST_N_ASSERT` (R698): `PORST_N` held low for `ns` nanoseconds. -/
  | porstNAssert (ns : Nat)
  /-- `PORST_N_RELEASE` (R698): `PORST_N` goes high with the supplies in range; `fuse` 0 when every fuse row is right, 1 when one was corrected, 2 when one cannot be corrected. -/
  | porstNRelease (fuse : Nat)
  /-- `SRST_N_ASSERT` (R699): `SRST_N` held low for `ns` nanoseconds. -/
  | srstNAssert (ns : Nat)
  /-- `SRST_N_RELEASE` (R699): `SRST_N` goes high; `fuse` as for PORST_N_RELEASE. -/
  | srstNRelease (fuse : Nat)
  /-- `INTERNAL_RESET` (R721): 25 K1 cycles of an internal reset have passed; `fuse` as for PORST_N_RELEASE. -/
  | internalReset (fuse : Nat)
  /-- `BEAT_BOUNDARY` (R38): `k2` K2 cycles and `k0` real-time-clock edges pass, up to the next beat boundary. -/
  | beatBoundary (k2 k0 : Nat)
  /-- `EGRESS_STALL_RESET` (R59): ADM finds the stall count of an NVT or LDT connection. -/
  | egressStallReset (nvt : Bool) (conn : Nat)
  /-- `BUDGET_ESCALATED` (R54): ADM looks at the lateness of a request. -/
  | budgetEscalated (tag : Nat)
  /-- `ADM_LATE_Q_READ` (R55): master `m` reads `ADM_LATE_Q`. -/
  | admLateQRead (m : Nat)
  /-- `BEAT_MARK_EXCHANGE` (R23): the 16-beat interval of the beat marks ends. -/
  | beatMarkExchange
  /-- `PEER_BEAT_MARK_RX` (R512): a BEAT_MARK arrives, sent at `t1` on the peer's time base. -/
  | peerBeatMarkRx (t1 : Nat)
  /-- `PEER_BEAT_REPLY_RX` (R23): a BEAT_REPLY arrives with its times; the peer's `BEAT_WALL_OFS` and `COARSE` stand with them. -/
  | peerBeatReplyRx (t1 t2 t3 : Nat) (wallOfs : Nat) (coarse : Bool)
  /-- `STEP_HOLD_END` (R24): K2 cycles pass in a backward hold, until the time of the peer reaches the held time base. -/
  | stepHoldEnd (k2 : Nat)
  /-- `PTP_SYNC_RX` (R424): a Sync and its Follow_Up on a host port, sent at `t1`, `accepted` under R424; the Delay_Req that answers it arrives at `t4` (R425; log entry 122). -/
  | ptpSyncRx (port dom : Nat) (accepted : Bool) (t1 t4 : Nat)
  /-- `PTP_SYNC_TIMEOUT` (R30): BEAT looks at the time since the last Sync. -/
  | ptpSyncTimeout
  /-- `BEAT_TB_READ` (R21): master `m` reads `BEAT_TB`. -/
  | beatTbRead (m : Nat)
  /-- `REGISTER_WRITE` (R716): master `m` writes `size` bytes at a physical address. -/
  | registerWrite (m addr size : Nat) (v : Word)
  /-- `PAGE_ENABLE` (R75): master `m` writes `PAGE_CTL` of a page with `ENABLE` 1 and `QUIESCE` as given. -/
  | pageEnable (m slot : Nat) (quiesce : Bool)
  /-- `PAGE_DISABLE` (R74): master `m` writes `PAGE_CTL` with `ENABLE` 0. -/
  | pageDisable (m slot : Nat)
  /-- `PAGE_QUIESCE` (R73): master `m` writes `PAGE_CTL` with `ENABLE` and `QUIESCE` 1. -/
  | pageQuiesce (m slot : Nat)
  /-- `INSTANCE_QUIESCED` (R73): no admitted work remains in a quiescing unit of a block. -/
  | instanceQuiesced (code unit : Nat)
  /-- `PAGE_RESET` (R76): master `m` writes `PAGE_CTL` with `RESET` 1. -/
  | pageReset (m slot : Nat) (enable quiesce : Bool)
  /-- `PAGE_COMMIT` (R11): master `m` writes `PAGE_COMMIT.COMMIT`. -/
  | pageCommit (m slot : Nat) (allPages : Bool)
  /-- `PAGE_DISCARD` (R79): master `m` writes `PAGE_COMMIT.DISCARD`. -/
  | pageDiscard (m slot : Nat) (allPages : Bool)
  /-- `PAGE_ERRQ_READ` (R667): master `m` reads `PAGE_ERRQ`. -/
  | pageErrqRead (m slot : Nat)
  /-- `PAGE_ERRQ_ACK` (R83): master `m` writes 1 to `PAGE_ERRQ_ACK.ACK`. -/
  | pageErrqAck (m slot : Nat)
  /-- `IRT_CLAIM` (R89): core `m` reads `IRT_CLAIM`. -/
  | irtClaim (m : Nat)
  /-- `IRT_DONE` (R90): core `m` writes a slot to `IRT_DONE`. -/
  | irtDone (m slot : Nat)
  /-- `IRT_ROUTE_WRITE` (R92): master `m` writes `IRT_ROUTE[r]`. -/
  | irtRouteWrite (m r : Nat) (v : Word)
  /-- `PAGE_LOCK_SET` (R99): master `m` writes `PAGE_LOCK` with `LOCKED` 1 and `WRITERS`. -/
  | pageLockSet (m slot writers : Nat)
  /-- `READ_COMMAND` (R104): RDP resolves a complete read; `words` are map entries as the cache gave them (LBA, 64-bit entry), any not named coming out as it was written. -/
  | readCommand (tag : Nat) (words : List (Nat × Nat))
  /-- `MAP_PAGE_FETCH_DONE` (R107): a map page read from flash arrives; `ok` when the page passes its `CRC`; `words` are entries as they came (LBA, 64-bit entry). -/
  | mapPageFetchDone (page : Nat) (ok : Bool) (words : List (Nat × Nat))
  /-- `CTB_PAGE_FETCH_DONE` (R109): a chunk-table page read from flash arrives; `ok` when it passes its `CRC`. -/
  | ctbPageFetchDone (page : Nat) (ok : Bool)
  /-- `PEER_PAGE_REQ_RX` (R266): a PAGE_REQ for a map or chunk-table page. -/
  | peerPageReqRx (ctb : Bool) (key : Nat)
  /-- `PEER_PAGE_DATA_RX` (R266): a PAGE_DATA: whether the peer holds the page, its stamp, and its entries by LBA offset or chunk. -/
  | peerPageDataRx (ctb : Bool) (key : Nat) (held : Bool) (stamp : Nat) (maps : List (Nat × Machine.MapEnt)) (chunks : List (Nat × Machine.CtbEnt))
  /-- `RDP_SLOW_Q_READ` (R113): master `m` reads `RDP_SLOW_Q`. -/
  | rdpSlowQRead (m : Nat)
  /-- `RDP_RESUME_RETRY` (R114): master `m` writes `RDP_RESUME` with `ACTION` 0. -/
  | rdpResumeRetry (m tag : Nat)
  /-- `RDP_RESUME_FAIL_MEDIA` (R114): `ACTION` 1. -/
  | rdpResumeFailMedia (m tag : Nat)
  /-- `RDP_RESUME_FAIL_KEY` (R114): `ACTION` 2. -/
  | rdpResumeFailKey (m tag : Nat)
  /-- `RDP_RESUME_FAIL_INTERNAL` (R114): `ACTION` 3. -/
  | rdpResumeFailInternal (m tag : Nat)
  /-- `READ_SLOW_TIMEOUT` (R116): RDP looks at the time a read has waited in the slow path. -/
  | readSlowTimeout (tag : Nat)
  /-- `RECONSTRUCT_START` (R126): RDP looks for a queued reconstruct that can start. -/
  | reconstructStart
  /-- `HEDGE_START` (R127): RDP looks at a direct read against its hedge point. -/
  | hedgeStart (fetch : Nat)
  /-- `BRICK_READ_DATA_RX` (R323): a READ_DATA reply. -/
  | brickReadDataRx (ln tag status corrected retries : Nat)
  /-- `SLICE_TAG_CHECK` (R366): the decrypt pass of a copy gets its segments: a chunk (`cid`; from 2^52 on a foreign one), or a journal record where `cid` is 2^40 plus its slot. `hVat`, `hGen` and `hTag` are `VAT`, `KEY_GEN` and the fingerprint tag of the header that came; `tagOk` says that the GCM tag verifies. -/
  | sliceTagCheck (tag cid hVat hGen hTag : Nat) (tagOk : Bool)
  /-- `INFLATE_JOB_END` (R402): the inflate job of a chunk gets its segments and ends as its stream decides; `slow` is a segment that used up its cycles with `bitOff` bits read and `outBytes` bytes written (R398). -/
  | inflateJobEnd (tag cid : Nat) (slow : Bool) (bitOff outBytes : Nat)
  /-- `DELIVERY_EGRESS` (R138): the network takes what stands ready of a read, the last of it with the completion. -/
  | deliveryEgress (tag : Nat)
  /-- `MAP_INVAL` (R166): master `m` writes `MAP_INVAL`. -/
  | mapInval (m vol : Nat) (all : Bool)
  /-- `MAP_INVAL_DONE` (R166): the invalidation has passed over the cache. -/
  | mapInvalDone
  /-- `RCH_INVAL` (R167): master `m` writes `RCH_INVAL`. -/
  | rchInval (m vat : Nat) (all : Bool)
  /-- `RCH_INVAL_DONE` (R167): the invalidation has passed over the cache. -/
  | rchInvalDone
  /-- `PFX_REC_ARM` (R151): master `m` writes `PFX_REC_CTL` with `ARM` 1. -/
  | pfxRecArm (m profile vol window : Nat) (filter : Bool)
  /-- `PFX_REC_DISARM` (R154): master `m` writes `PFX_REC_CTL` with `ARM` 0. -/
  | pfxRecDisarm (m : Nat)
  /-- `PFX_RECORD_WINDOW_END` (R154): PFX looks at the recording window. -/
  | pfxRecordWindowEnd
  /-- `PFX_LOAD` (R155): master `m` writes `PFX_LOAD` with `OP` 1. -/
  | pfxLoad (m profile : Nat)
  /-- `PFX_UNLOAD` (R156): master `m` writes `PFX_LOAD` with `OP` 2. -/
  | pfxUnload (m profile : Nat)
  /-- `PFX_LOAD_DONE` (R157): the running load or unload ends. -/
  | pfxLoadDone
  /-- `PFX_EXTENT_DUE` (R160): PFX looks at the next extent of a replay against its due beat. -/
  | pfxExtentDue (replay : Nat)
  /-- `PFX_EXTENT_SKIP` (R161): PFX looks at the next extent of a replay against its recorded beat. -/
  | pfxExtentSkip (replay : Nat)
  /-- `WRITE_COMMAND` (R168): WRP checks a complete Write, Write Zeroes or deallocate. -/
  | writeCommand (tag : Nat)
  /-- `PEER_MIRROR_RX` (R180): a MIRROR record arrives; `ok` when the check of an update record or cursor holds (a data record's is computed). -/
  | peerMirrorRx (rec : Machine.MirrorRec) (ok : Bool)
  /-- `PEER_MIRROR_ACK_RX` (R181): a MIRROR_ACK names data slots and update records stored at the peer, and those whose check failed there. -/
  | peerMirrorAckRx (slots useqs bad badUseqs : List Nat)
  /-- `WRITE_ACKNOWLEDGE` (R182): the beat after a write's entry: NVT or LBC takes its completion. -/
  | writeAcknowledge (tag : Nat)
  /-- `JNL_MIRROR_TIMEOUT` (R184): JNL looks at how long a write's records have waited. -/
  | jnlMirrorTimeout (tag : Nat)
  /-- `CHUNK_RUN` (R191): CHK takes the entered DATA records of a command part; `failed` are the slots whose record fails authentication. -/
  | chunkRun (tag : Nat) (failed : List Nat)
  /-- `PEER_SWX_QUERY_RX` (R195): a SWX_QUERY arrives for a fingerprint. -/
  | peerSwxQueryRx (qtag fp vat : Nat)
  /-- `PEER_SWX_ANSWER_RX` (R195): the peer's SWX_ANSWER for a chunk. -/
  | peerSwxAnswerRx (job : Nat) (hit : Bool) (recipe : Nat)
  /-- `RECIPE_PAGE_LOADED` (R196): a recipe page has been loaded; `ok` when its `CHECK` holds. For a page of the peer, its `VAT` and its entries: fingerprint, chunk identity, blocks. -/
  | recipePageLoaded (job : Nat) (ok : Bool) (vat : Nat) (entries : List (Nat × Nat × Nat))
  /-- `RECIPE_PAGE_CLOSE` (R198): CHK looks at an open recipe page. -/
  | recipePageClose (page : Nat)
  /-- `COMPRESS_JOB_END` (R393): the deflater of a chunk gets its segments and ends; `stream` are the bytes it writes, one past the limit meaning OUTPUT_FULL. -/
  | compressJobEnd (job : Nat) (stream : List Nat)
  /-- `ROW_WAIT_EXPIRE` (R204): BND looks at the age of the open row. -/
  | rowWaitExpire
  /-- `BRICK_STATUS_RX` (R323): a STATUS reply with its code of Table 7.6. -/
  | brickStatusRx (ln tag status : Nat)
  /-- `UPDATE_RECORD_APPLY` (R265): MAP or CTB takes an entered update record; `bad` when it fails its check with no mirror copy. -/
  | updateRecordApply (useq : Nat) (bad : Bool)
  /-- `PEER_ENTRY_RX` (R264): an ENTRY message. -/
  | peerEntryRx (beat : Nat) (slots : List Nat)
  /-- `PEER_HORIZON_RX` (R265): a HORIZON message. -/
  | peerHorizonRx (beat : Nat)
  /-- `PEER_RETIRE_RX` (R209): a RETIRE notice. -/
  | peerRetireRx (slots : List Nat)
  /-- `PEER_PIN_RX` (R112): a PIN message: kind 0 a journal slot, 1 a band. -/
  | peerPinRx (kind id : Nat)
  /-- `PEER_UNPIN_RX` (R112): an UNPIN message. -/
  | peerUnpinRx (kind id : Nat)
  /-- `PEER_REC_FETCH_RX` (R136): a REC_FETCH for a record. -/
  | peerRecFetchRx (slot : Nat)
  /-- `PEER_REC_DATA_RX` (R136): a REC_DATA with the mirror copy of a record; `ok` when it verifies. -/
  | peerRecDataRx (slot data : Nat) (ok : Bool)
  /-- `JNL_DEF_Q_READ` (R217): master `m` reads `JNL_DEF_Q`. -/
  | jnlDefQRead (m : Nat)
  /-- `CREATE_VAT` (R222): master `m` writes `VAT_CMD` with OP 1 for a vat; its arguments stand in `VAT_CMD_ARG0`, its apply beat in `VAT_CMD_BEAT`. -/
  | createVat (m vat : Nat)
  /-- `SET_VAT_OPTIONS` (R221): `VAT_CMD` OP 2. -/
  | setVatOptions (m vat : Nat)
  /-- `REKEY` (R224): `VAT_CMD` OP 3. -/
  | rekey (m vat : Nat)
  /-- `FREEZE` (R248): `VAT_CMD` OP 4. -/
  | freeze (m vat : Nat)
  /-- `DELETE_VAT` (R234): `VAT_CMD` OP 5. -/
  | deleteVat (m vat : Nat)
  /-- `CREATE_VOLUME` (R232): `VAT_CMD` OP 6. -/
  | createVolume (m vol : Nat)
  /-- `RESIZE_VOLUME` (R232): `VAT_CMD` OP 7. -/
  | resizeVolume (m vol : Nat)
  /-- `SET_PROFILE` (R42): `VAT_CMD` OP 8. -/
  | setProfile (m vol : Nat)
  /-- `DELETE_VOLUME` (R233): `VAT_CMD` OP 9. -/
  | deleteVolume (m vol : Nat)
  /-- `REDYE_RESUME` (R230): `VAT_CMD` OP 10. -/
  | redyeResume (m vat : Nat)
  /-- `SNP_CREATE_GROUP` (R241): `SNP_CMD` OP 1 with a list of `count` words at `SNP_CMD_ARG`. -/
  | snpCreateGroup (m count : Nat)
  /-- `SNP_DELETE` (R245): `SNP_CMD` OP 2. -/
  | snpDelete (m snap : Nat)
  /-- `SNP_CLONE` (R246): `SNP_CMD` OP 3. -/
  | snpClone (m snap vol : Nat)
  /-- `PEER_TABLE_CMD_RX` (R239): a TABLE_CMD message. -/
  | peerTableCmdRx (snp : Bool) (op target beat : Nat) (args : List Nat)
  /-- `PEER_TABLE_ACK_RX` (R239): a TABLE_ACK message. -/
  | peerTableAckRx (snp : Bool)
  /-- `TABLE_CMD_ACK_TIMEOUT` (R239): the head looks for a command not acknowledged 16 beats before its apply beat. -/
  | tableCmdAckTimeout
  /-- `TABLE_CMD_APPLY` (R240): the first K3 cycle after a boundary: commands whose apply beat has come. -/
  | tableCmdApply
  /-- `PEER_TABLES_RX` (R240): a TABLES message: vats, volumes and snapshots by identity. -/
  | peerTablesRx (vats : List (Nat × List Nat)) (vols : List (Nat × List Nat)) (snaps : List (Nat × List Nat))
  /-- `REDYE_SWEEP_STEP` (R225): the sweep takes its next band; `failed` are the chunks whose copies all fail; whether the sweep of the peer has ended, and with how many failed chunks. -/
  | redyeSweepStep (failed : List Nat) (peerEnded : Bool) (peerFailed : Nat)
  /-- `VOLUME_REF_RELEASE` (R233): the background release of a deleted volume takes up to `n` pages. -/
  | volumeRefRelease (vol n : Nat)
  /-- `SNAPSHOT_REF_RELEASE` (R262): the background release of a deleted snapshot takes up to `n` page entries. -/
  | snapshotRefRelease (snap n : Nat)
  /-- `FTL_DIR_LOAD` (R258): master `m` writes `FTL_DIR_LOAD`. -/
  | ftlDirLoad (m kind : Nat) (pin snap : Bool) (space leaf : Nat)
  /-- `FTL_DIR_LOAD_DONE` (R258): the load of a leaf ends; `readOk` when it could be read. -/
  | ftlDirLoadDone (readOk : Bool)
  /-- `PAGE_WRITE_BACK` (R267): the home head looks at a dirty metadata page of a kind: 1 map, 2 chunk table, 3 band summary. -/
  | pageWriteBack (kind key : Nat)
  /-- `CHECKPOINT_WRITE` (R269): FTL looks whether a checkpoint is due; whether its write succeeds; the replay point of the peer's latest durable checkpoint. -/
  | checkpointWrite (ok : Bool) (peerReplay : Nat)
  /-- `CHUNK_RELEASE` (R271): CTB looks at a chunk whose count is zero. -/
  | chunkRelease (cid : Nat)
  /-- `RELOCATION_START` (R281): the head looks for a band to relocate. -/
  | relocationStart
  /-- `BAND_ERASE` (R278): BND looks at an ERASABLE band. -/
  | bandErase (b : Nat)
  /-- `SCAN_READ` (R293): the media firmware scan-reads a strip-page of a sealed band. -/
  | scanRead (b member row : Nat)
  /-- `VAULT_DUMP_END` (R299): the vault dump has written its rows, or no room or too few bricks are left. -/
  | vaultDumpEnd (ok : Bool) (rows rewritten : Nat)
  /-- `FTL_RECOVER` (R302): FTL takes its next phase of recovery; `lost` are the slots of entered records that are missing or fail. -/
  | ftlRecover (lost : List Nat)
  /-- `LIVE_COUNT_RECOMPUTE` (R303): the background recomputation of live counts ends. -/
  | liveCountRecompute
  /-- `MDL_LINK_ENABLE` (R315): master `m` writes `MDL_LINK_CTL.ENABLE` of a lane. -/
  | mdlLinkEnable (m ln : Nat) (en : Bool)
  /-- `MDL_LINK_RETRAIN` (R315): master `m` writes `MDL_LINK_CTL.RETRAIN`. -/
  | mdlLinkRetrain (m ln : Nat)
  /-- `MDL_LINK_DOWN` (R341): master `m` writes `MDL_LINK_CTL.DOWN`. -/
  | mdlLinkDown (m ln : Nat)
  /-- `TRAINING_BLOCK_RX` (R314): a training block of Table 7.1; `ownEq` when this head's own receiver is satisfied. -/
  | trainingBlockRx (ln : Nat) (valid : Bool) (phase : Nat) (eqDone ownEq : Bool) (port reqPre reqPost reqPreset : Nat)
  /-- `LINK_TRAIN_TIMEOUT` (R315): MDL looks at the time a lane has spent in DETECT, EQUALISE or ALIGN. -/
  | linkTrainTimeout (ln : Nat)
  /-- `MEDIA_FLIT_RX` (R320): a flit on a media lane, its 272 bytes as they came from the lane, byte 0 lowest. -/
  | mediaFlitRx (ln flit : Nat)
  /-- `MEDIA_NAK_RX` (R321): a NAK flit on a media lane. -/
  | mediaNakRx (ln ack : Nat)
  /-- `MEDIA_REPLAY_TIMER` (R321): MDL looks at the time since `ACK` last advanced. -/
  | mediaReplayTimer (ln : Nat)
  /-- `LINK_RECOVER_TIMEOUT` (R341): MDL looks at the time a lane has spent in RECOVER. -/
  | linkRecoverTimeout (ln : Nat)
  /-- `BRICK_IDENT_RX` (R339): an IDENT reply (Table 7.7). -/
  | brickIdentRx (ln tag vendor serial arrayId dieMask fid fver fcheck cmdCredits wdataCredits port : Nat) (other : Bool)
  /-- `BRICK_OWNER_RX` (R339): an OWNER reply. -/
  | brickOwnerRx (ln tag epochA epochB sideA sideB : Nat)
  /-- `BRICK_CREDIT_RX` (R322): a CREDIT message. -/
  | brickCreditRx (ln cmd wdata : Nat)
  /-- `BRICK_EVENT_RX` (R342): an EVENT message. -/
  | brickEventRx (ln code die : Nat)
  /-- `MEDIA_OP_TIMEOUT` (R337): MDL looks at an outstanding request's deadline. -/
  | mediaOpTimeout (ln tag : Nat)
  /-- `IDENT_RETRY` (R339): the head looks at a brick whose check timed out. -/
  | identRetry (k : Nat)
  /-- `SIDEBAND_ALERT` (R338): the alert of brick `k`; what the reads answer. -/
  | sidebandAlert (k : Nat) (answered : Bool) (status temp : Nat)
  /-- `SIDEBAND_POLL` (R338): the poll of brick `k`; what the reads answer. -/
  | sidebandPoll (k : Nat) (answered : Bool) (status temp : Nat)
  /-- `BRICK_ADOPT` (R340): master `m` writes `BRK_CMD` with OP 1. -/
  | brickAdopt (m k : Nat)
  /-- `BRICK_RELEASE` (R343): OP 2. -/
  | brickRelease (m k : Nat)
  /-- `BRICK_FAIL` (R342): OP 3. -/
  | brickFail (m k : Nat)
  /-- `BRICK_ATTN_ON` (R343): OP 4; whether the sideband write is acknowledged. -/
  | brickAttnOn (m k : Nat) (acked : Bool)
  /-- `BRICK_ATTN_OFF` (R343): OP 5. -/
  | brickAttnOff (m k : Nat) (acked : Bool)
  /-- `BRICK_REFRESH` (R339): OP 6. -/
  | brickRefresh (m k : Nat)
  /-- `DFM_LOAD` (R344): master `m` writes `DFM_CTL` of slot `f` with OP 1. -/
  | dfmLoad (m f : Nat)
  /-- `DFM_UNLOAD` (R344): OP 2. -/
  | dfmUnload (m f : Nat)
  /-- `DIGEST_SUBMIT` (R371): master `m` writes `DSL_DIG_SUBMIT` of slice `sl` with a descriptor's address. -/
  | digestSubmit (m sl addr : Nat)
  /-- `DIGEST_JOB_END` (R376): an admitted digest or HMAC job has run its last segment. -/
  | digestJobEnd (tag : Nat)
  /-- `DIG_DONE_Q_READ` (R376): master `m` reads `DSL_DIG_DONE_Q`. -/
  | digDoneQRead (m sl : Nat)
  /-- `KEY_FETCH_DONE` (R356): the key of handle `h` reaches slice `sl`. -/
  | keyFetchDone (sl h : Nat)
  /-- `KEY_HANDLE_REMOVE` (R358): KEY looks at a handle whose removal has been requested. -/
  | keyHandleRemove (h : Nat)
  /-- `SLICE_RNG_RESEED` (R363): slice `sl` has encrypted 2^20 blocks. -/
  | sliceRngReseed (sl : Nat)
  /-- `SEC_HARDEN_WRITE` (R364): master `m` writes `SEC_HARDEN`. -/
  | secHardenWrite (m dummy : Nat) (shuffle : Bool)
  /-- `PORT_LINK_CHANGE` (R411): port `port` gains or loses alignment lock. -/
  | portLinkChange (port : Nat) (up : Bool)
  /-- `HFI_DETECT_STEP` (R410): quad `q` looks at how long its mode has been held. -/
  | hfiDetectStep (q : Nat)
  /-- `HFI_FRAME_RX` (R415): a frame arrives on a port. -/
  | hfiFrameRx (port : Nat) (f : Machine.Frame)
  /-- `PFC_XOFF` (R419): the occupancy of a priority's part rises to `bytes`. -/
  | pfcXoff (port prio bytes : Nat)
  /-- `PFC_REFRESH` (R419): HFI looks at a priority for which a PFC frame stands, its occupancy `bytes`. -/
  | pfcRefresh (port prio bytes : Nat)
  /-- `PFC_XON` (R419): the occupancy of a priority's part falls to `bytes`. -/
  | pfcXon (port prio bytes : Nat)
  /-- `PFC_FRAME_RX` (R421): a PFC frame names priorities with their quanta. -/
  | pfcFrameRx (port : Nat) (quanta : List (Nat × Nat))
  /-- `PFC_PAUSE_EXPIRE` (R421): HFI looks at a received pause. -/
  | pfcPauseExpire (port prio : Nat)
  /-- `TCP_SYN_RX` (R427): a SYN to interface `iface` of group `u` and TCP port `port`, from a MAC address. -/
  | tcpSynRx (u iface port mac : Nat) (v6 ecn : Bool) (window : Nat)
  /-- `TCP_RETRANSMIT_TIMEOUT` (R422): connection `c` (unit times 32,768 plus context) looks at its retransmission time-out. -/
  | tcpRetransmitTimeout (c : Nat)
  /-- `TCP_TIME_WAIT_EXPIRE` (R427): connection `c` looks at its TIME-WAIT. -/
  | tcpTimeWaitExpire (c : Nat)
  /-- `NVT_ICREQ_RX` (R429): an ICReq arrives. -/
  | nvtIcreqRx (c pfv hpda : Nat) (hdgst ddgst : Bool)
  /-- `NVT_ICREQ_TIMEOUT` (R429): connection `c` looks at how long it has waited for ICReq. -/
  | nvtIcreqTimeout (c : Nat)
  /-- `NVME_CONNECT_ADMIN` (R431): a Connect for an admin queue with its 1,024 bytes of data. -/
  | nvmeConnectAdmin (c cid flags sqsize kato : Nat) (data : List Nat)
  /-- `NVME_CONNECT_IO` (R432): a Connect for I/O queue `qid`. -/
  | nvmeConnectIo (c cid flags qid sqsize : Nat) (data : List Nat)
  /-- `NVT_CONNECT_Q_READ` (R431): master `m` reads `NVT_CONNECT_Q` of unit `u`. -/
  | nvtConnectQRead (m u : Nat)
  /-- `NVT_CONNECT_ACCEPT` (R431): master `m` writes `NVT_CONNECT_ANS` with `ACTION` 1. -/
  | nvtConnectAccept (m u slot : Nat)
  /-- `NVT_CONNECT_REFUSE_HOST` (R431): `ACTION` 2. -/
  | nvtConnectRefuseHost (m u slot : Nat)
  /-- `NVT_CONNECT_REFUSE_BUSY` (R431): `ACTION` 3. -/
  | nvtConnectRefuseBusy (m u slot : Nat)
  /-- `NVT_CONNECT_TIMEOUT` (R431): NVT looks at how long a Connect has waited. -/
  | nvtConnectTimeout (u slot : Nat)
  /-- `KEEP_ALIVE_EXPIRED` (R435): NVT looks at the keep-alive timer of controller `k` (unit times 1,024 plus index). -/
  | keepAliveExpired (k : Nat)
  /-- `NVT_CTRL_TEARDOWN` (R436): master `m` writes `NVT_CTRL_CMD` with `OP` 1. -/
  | nvtCtrlTeardown (m u idx : Nat)
  /-- `NVT_ATTACH_CHANGED` (R434): master `m` writes `NVT_CTRL_CMD` with `OP` 2. -/
  | nvtAttachChanged (m u idx : Nat)
  /-- `NVME_IDENTIFY` (R447): an Identify; `flags` is the command's FUSE and PSDT byte. -/
  | nvmeIdentify (c cid flags nsid cns : Nat)
  /-- `NVME_GET_FEATURES` (R426): a Get Features. -/
  | nvmeGetFeatures (c cid flags fid : Nat)
  /-- `NVME_SET_FEATURES` (R426): a Set Features with its value. -/
  | nvmeSetFeatures (c cid flags fid v : Nat)
  /-- `NVME_GET_LOG_PAGE` (R449): a Get Log Page for `len` bytes from offset `off`. -/
  | nvmeGetLogPage (c cid flags nsid lid off len : Nat) (rae : Bool)
  /-- `NVME_DEVICE_SELF_TEST` (R452): a Device Self-test. -/
  | nvmeDeviceSelfTest (c cid flags nsid code : Nat)
  /-- `NVME_ABORT` (R445): an Abort of command `acid` of queue `sqid`. -/
  | nvmeAbort (c cid flags sqid acid : Nat)
  /-- `NVME_KEEP_ALIVE` (R435): a Keep Alive. -/
  | nvmeKeepAlive (c cid flags : Nat)
  /-- `NVME_ASYNC_EVENT_REQUEST` (R448): an Asynchronous Event Request. -/
  | nvmeAsyncEventRequest (c cid flags : Nat)
  /-- `NVME_PROPERTY_GET` (R426): a Property Get. -/
  | nvmePropertyGet (c cid flags ofs : Nat)
  /-- `NVME_PROPERTY_SET` (R426): a Property Set. -/
  | nvmePropertySet (c cid flags ofs v : Nat)
  /-- `NVME_DISCONNECT` (R436): a Disconnect. -/
  | nvmeDisconnect (c cid flags : Nat)
  /-- `NVME_READ` (R438): a Read of `blocks` blocks with an SGL of `sgl` bytes. -/
  | nvmeRead (c cid flags nsid lba blocks sgl : Nat)
  /-- `NVME_WRITE` (R438): a Write; `icd` are the blocks of in-capsule data, none without it. -/
  | nvmeWrite (c cid flags nsid lba blocks sgl : Nat) (icd : List Nat)
  /-- `NVME_FLUSH` (R441): a Flush. -/
  | nvmeFlush (c cid flags nsid : Nat)
  /-- `NVME_WRITE_ZEROES` (R438): a Write Zeroes. -/
  | nvmeWriteZeroes (c cid flags nsid lba blocks : Nat)
  /-- `NVME_DATASET_MANAGEMENT` (R438): a Dataset Management with its ranges. -/
  | nvmeDatasetManagement (c cid flags nsid : Nat) (ad : Bool) (ranges : List (Nat × Nat))
  /-- `NVME_INVALID_OPCODE` (R426): a command with an opcode that Table 10.4 does not list. -/
  | nvmeInvalidOpcode (c cid : Nat)
  /-- `NVT_H2C_DATA_RX` (R442): an H2CData PDU, or a PDU whose header is not legal or fails its digest. -/
  | nvtH2cDataRx (c ttag off len data : Nat) (last hdrOk hdgstOk ddgstOk : Bool)
  /-- `NVT_H2C_TERM_REQ_RX` (R442): an H2CTermReq. -/
  | nvtH2cTermReqRx (c : Nat)
  /-- `SELFTEST_TIMEOUT` (R453): NVT looks at how long a short self-test has run. -/
  | selftestTimeout
  /-- `SELFTEST_SEGMENT` (R453): a segment of the self-test is due; `ok` when what it runs passes. -/
  | selftestSegment (ok : Bool)
  /-- `LDT_HELLO_RX` (R467): a whole HELLO arrives at group `u` on an interface, from an address; `data` are its bytes. -/
  | ldtHelloRx (u iface addr : Nat) (v6 : Bool) (data : List Nat)
  /-- `LDT_ACCEPT_Q_READ` (R467): master `m` reads `LDT_ACCEPT_Q` of unit `u`. -/
  | ldtAcceptQRead (m u : Nat)
  /-- `LDT_ACCEPT` (R468): master `m` writes `LDT_ACCEPT_ANS` with `ACTION` 1. -/
  | ldtAccept (m u slot : Nat)
  /-- `LDT_REFUSE` (R468): `ACTION` 2. -/
  | ldtRefuse (m u slot : Nat)
  /-- `LDT_REFUSE_BUSY` (R468): `ACTION` 3. -/
  | ldtRefuseBusy (m u slot : Nat)
  /-- `LDT_ACCEPT_TIMEOUT` (R467): LDT looks at how long an accept slot has waited. -/
  | ldtAcceptTimeout (u slot : Nat)
  /-- `LDT_HELLO_RESP_RX` (R470): a whole HELLO_RESP arrives; `ok`: its signatures hold. -/
  | ldtHelloRespRx (u dcid : Nat) (data : List Nat) (ok : Bool)
  /-- `LDT_FINISH_RX` (R470): a whole FINISH arrives; `ok`: its signatures hold. -/
  | ldtFinishRx (u dcid : Nat) (tagOk ok : Bool)
  /-- `LDT_SETUP_TIMEOUT` (R470): LDT looks at how long connection `n` has waited for FINISH. -/
  | ldtSetupTimeout (n : Nat)
  /-- `LDT_SEND_RX` (R481): a SEND packet arrives at unit `u`, its payload as a number. -/
  | ldtSendRx (u : Nat) (hdr : Machine.LdtHdr) (data : Nat)
  /-- `LDT_WRITE_RX` (R487): a WRITE packet. -/
  | ldtWriteRx (u : Nat) (hdr : Machine.LdtHdr) (addr mkey data : Nat)
  /-- `LDT_READ_REQ_RX` (R487): a READ_REQ packet. -/
  | ldtReadReqRx (u : Nat) (hdr : Machine.LdtHdr) (addr mkey : Nat)
  /-- `LDT_READ_RESP_RX` (R483): a READ_RESP packet. -/
  | ldtReadRespRx (u : Nat) (hdr : Machine.LdtHdr) (data : Nat)
  /-- `LDT_ACK_RX` (R479): an ACK: `CUM`, the PSNs its `SACK` names, its counts by path, `SEND_LIMIT`. -/
  | ldtAckRx (u : Nat) (hdr : Machine.LdtHdr) (cum : Nat) (sack ece : List Nat) (limit : Nat)
  /-- `LDT_CLOSE_RX` (R475): a CTRL CLOSE. -/
  | ldtCloseRx (u : Nat) (hdr : Machine.LdtHdr)
  /-- `LDT_MSG_FAIL_RX` (R485): a CTRL MSG_FAIL. -/
  | ldtMsgFailRx (u : Nat) (hdr : Machine.LdtHdr) (msn cond : Nat)
  /-- `LDT_KEEPALIVE_RX` (R474): a CTRL KEEPALIVE. -/
  | ldtKeepaliveRx (u : Nat) (hdr : Machine.LdtHdr)
  /-- `LDT_CONN_CLOSE` (R475): master `m` writes `LDT_CONN_CMD` with `OP` 1 for place `n` of unit `u`. -/
  | ldtConnClose (m u n : Nat)
  /-- `LDT_CONN_REKEY` (R472): `OP` 2. -/
  | ldtConnRekey (m u n : Nat)
  /-- `LDT_REKEY_DUE` (R472): connection `n` looks at its key generation. -/
  | ldtRekeyDue (n : Nat)
  /-- `LDT_KEEPALIVE_SEND` (R474): connection `n` looks at how long it has sent nothing. -/
  | ldtKeepaliveSend (n : Nat)
  /-- `LDT_IDLE_TIMEOUT` (R474): connection `n` looks at how long it has received nothing. -/
  | ldtIdleTimeout (n : Nat)
  /-- `LDT_ACK_DELAY_EXPIRE` (R477): connection `n` looks at its unacknowledged packets. -/
  | ldtAckDelayExpire (n : Nat)
  /-- `LDT_RTO_EXPIRE` (R479): connection `n` looks at the retransmission time-out of a packet. -/
  | ldtRtoExpire (n psn : Nat)
  /-- `LDT_MSG_TIMEOUT` (R482): connection `n` looks at a message it sends. -/
  | ldtMsgTimeout (n ptype msn : Nat)
  /-- `LDT_RX_MSG_TIMEOUT` (R485): connection `n` looks at a message it receives; `resp`: a READ_RESP. -/
  | ldtRxMsgTimeout (n msn : Nat) (resp : Bool)
  /-- `LDT_RATE_INCREASE` (R489): connection `n` looks at the rate of path `k`. -/
  | ldtRateIncrease (n k : Nat)
  /-- `LDT_PATH_RETURN` (R490): connection `n` looks at its disabled path `k`. -/
  | ldtPathReturn (n k : Nat)
  /-- `LDT_CTX_FETCH_DONE` (R491): the context of connection `n` has come from HBM. -/
  | ldtCtxFetchDone (n : Nat)
  /-- `LBC_READ` (R493): the oldest capsule of connection `n` is a READ. -/
  | lbcRead (n : Nat)
  /-- `LBC_WRITE` (R493): a WRITE. -/
  | lbcWrite (n : Nat)
  /-- `LBC_WRITE_ZEROES` (R493): a WRITE_ZEROES. -/
  | lbcWriteZeroes (n : Nat)
  /-- `LBC_DEALLOCATE` (R493): a DEALLOCATE. -/
  | lbcDeallocate (n : Nat)
  /-- `LBC_FLUSH` (R493): a FLUSH. -/
  | lbcFlush (n : Nat)
  /-- `LBC_ABORT` (R494): an ABORT. -/
  | lbcAbort (n : Nat)
  /-- `LBC_GET_HEALTH` (R493): a GET_HEALTH. -/
  | lbcGetHealth (n : Nat)
  /-- `LBC_GET_DEFERRED` (R493): a GET_DEFERRED. -/
  | lbcGetDeferred (n : Nat)
  /-- `LBC_FETCH` (R551): the oldest capsule of connection `n` is a FETCH. -/
  | lbcFetch (n : Nat)
  /-- `LBC_REP_POLL` (R556): a REP_POLL. -/
  | lbcRepPoll (n : Nat)
  /-- `LBC_REP_RECIPE` (R559): a REP_RECIPE. -/
  | lbcRepRecipe (n : Nat)
  /-- `LBC_REP_CHUNKS` (R560): a REP_CHUNKS. -/
  | lbcRepChunks (n : Nat)
  /-- `LBC_REP_DONE` (R558): a REP_DONE. -/
  | lbcRepDone (n : Nat)
  /-- `LSE_MODE_REQ_SERVICE` (R502): master `m` writes `LSE_MODE_REQ` with `OP` 1. -/
  | lseModeReqService (m : Nat)
  /-- `HANDOVER_DRAINED` (R502): LSE looks whether the admitted writes of a hand-over have entered or ended. -/
  | handoverDrained
  /-- `LSE_MODE_REQ_SERVICE_RELEASE` (R501): master `m` writes `LSE_MODE_REQ` with `OP` 2. -/
  | lseModeReqServiceRelease (m : Nat)
  /-- `LSE_MODE_REQ_REBOOT` (R721): master `m` writes `LSE_MODE_REQ` with `OP` 3. -/
  | lseModeReqReboot (m : Nat)
  /-- `PEER_BUNDLE_ACTIVE` (R505): all 16 lanes of bundle `b` have passed ALIGN with these skews in UI. -/
  | peerBundleActive (b : Nat) (skews : List Nat)
  /-- `PEER_FLIT_RX` (R506 to R508): the 1,088 bytes of a flit arrive on the lanes of bundle `b`. -/
  | peerFlitRx (b flit : Nat)
  /-- `PEER_REPLAY_TIMER` (R508): the replay timer of bundle `b`. -/
  | peerReplayTimer (b : Nat)
  /-- `PEER_BUNDLE_LEAVE_ACTIVE` (R510): bundle `b` loses its receiver and leaves ACTIVE. -/
  | peerBundleLeaveActive (b : Nat)
  /-- `PEER_HELLO_RX` (R513): a HELLO message. -/
  | peerHelloRx (hid arrayId layout format : Nat)
  /-- `PEER_MODE_RX` (R514): a MODE message. -/
  | peerModeRx (mode : Nat) (holdsA holdsB : Bool) (epochA epochB jgen : Nat)
  /-- `PEER_MODE_SEND` (R513): PRL looks whether MODE is due. -/
  | peerModeSend
  /-- `PEER_MODE_TIMEOUT` (R513): PRL looks how long no MODE has arrived. -/
  | peerModeTimeout
  /-- `PEER_LOSS_TIMEOUT` (R514): PRL looks how long no good flit has arrived. -/
  | peerLossTimeout
  /-- `PEER_KEY_WRAP_RX` (R590): a KEY_WRAP message: journal generation and wrapped key. -/
  | peerKeyWrapRx (jgen wrapped : Nat)
  /-- `PEER_SYNC_DATA_RX` (R527): a SYNC_DATA record, and whether it has entered at the peer. -/
  | peerSyncDataRx (rec : Machine.MirrorRec) (entered : Bool)
  /-- `PEER_HANDOVER_RX` (R502): a HANDOVER message. -/
  | peerHandoverRx
  /-- `PEER_MAILBOX_RX` (R613): a MAILBOX message of a kind for channel `c`. -/
  | peerMailboxRx (kind w epoch c : Nat)
  /-- `PEER_RUB_RX` (R531): a RUB message naming bundle `b`; `echo` when it is this head's own, returned. -/
  | peerRubRx (b : Nat) (echo : Bool)
  /-- `LEASE_FENCE_POINT` (R515): LSE compares the count of shard `sh` with its fence point. -/
  | leaseFencePoint (sh : Nat)
  /-- `LEASE_RENEW_DUE` (R517): LSE looks whether RENEW is due for shard `sh`. -/
  | leaseRenewDue (sh : Nat)
  /-- `WITNESS_RETRY` (R517): LSE looks whether the request for shard `sh` goes out again. -/
  | witnessRetry (sh : Nat)
  /-- `WITNESS_GRANT_RX` (R516): a GRANT frame's bytes arrive over `WIT_*`. -/
  | witnessGrantRx (frame : List Nat)
  /-- `WITNESS_WAIT_RX` (R524): a WAIT frame's bytes arrive over `WIT_*`. -/
  | witnessWaitRx (frame : List Nat)
  /-- `WITNESS_WAIT_EXPIRE` (R524): LSE looks whether the WAIT for shard `sh` has run out. -/
  | witnessWaitExpire (sh : Nat)
  /-- `WITNESS_DENY_RX` (R515): a DENY frame's bytes arrive over `WIT_*`. -/
  | witnessDenyRx (frame : List Nat)
  /-- `WITNESS_STATUS_RX` (R526): a STATUS frame's bytes arrive over `WIT_*`. -/
  | witnessStatusRx (frame : List Nat)
  /-- `WITNESS_RELEASED_RX` (R518): a RELEASED frame's bytes arrive over `WIT_*`. -/
  | witnessReleasedRx (frame : List Nat)
  /-- `WITNESS_REPORT_SEND` (R523): LSE looks whether a REPORT is due. -/
  | witnessReportSend
  /-- `HOME_ACQUIRE` (R529): a head in BOOT asks for its home shard. -/
  | homeAcquire
  /-- `BOOT_WAIT_EXPIRE` (R524): LSE looks whether `BOOT_WAIT` has passed. -/
  | bootWaitExpire
  /-- `FENCED_PROBE` (R526): LSE looks whether a PROBE is due. -/
  | fencedProbe
  /-- `HANDBACK_RELEASE` (R527): JNL looks whether the returning head's ring is empty. -/
  | handbackRelease
  /-- `HANDBACK_TIMEOUT` (R528): PRL looks whether the hand-back has run out of time. -/
  | handbackTimeout
  /-- `RUB_TEST` (R531): a standby audit is due; what its reads of the peer's ring and checkpoint find. -/
  | rubTest (ringOk ckptOk : Bool)
  /-- `RUB_PROBE_END` (R531): PRL looks how long a probe has had no answer. -/
  | rubProbeEnd (probe : Nat)
  /-- `LSE_WIT_RX_WRITE` (R534): master `m` writes a length to `LSE_WIT_RX`. -/
  | lseWitRxWrite (m len : Nat)
  /-- `LSE_WIT_TX_READ` (R534): master `m` reads `LSE_WIT_TX`. -/
  | lseWitTxRead (m : Nat)
  /-- `FAB_HELLO_SEND` (R537): FAB looks at when its last hello went. -/
  | fabHelloSend
  /-- `FAB_HELLO_RX` (R538 to R541): the bytes of a fabric hello arrive (Table 13.1). -/
  | fabHelloRx (frame : List Nat)
  /-- `FAB_LEAVE_RX` (R538, R539): the bytes of a fabric LEAVE arrive. -/
  | fabLeaveRx (frame : List Nat)
  /-- `FAB_MEMBER_MISS` (R539): FAB looks at a member's last hello. -/
  | fabMemberMiss (hid : Nat)
  /-- `FAB_PLACE_HOLD_EXPIRE` (R547): FAB looks at how long the home pairs have stood. -/
  | fabPlaceHoldExpire
  /-- `FAB_PLACE_SWAP` (R547): a beat boundary at which a computed placement copy may take force. -/
  | fabPlaceSwap
  /-- `FAB_FETCH_TIMEOUT` (R552): FAB looks at a fetch, by vat and `CHUNK`. -/
  | fabFetchTimeout (key : Nat)
  /-- `REP_LINK_LOAD` (R556): master `m` writes `REP_LINK_CMD` with `OP` 1. -/
  | repLinkLoad (m link : Nat)
  /-- `REP_LINK_STOP` (R567): `OP` 2. -/
  | repLinkStop (m link : Nat)
  /-- `REP_LINK_OFFER` (R558): `OP` 3. -/
  | repLinkOffer (m link snap : Nat)
  /-- `REP_LINK_RESYNC` (R565): `OP` 4. -/
  | repLinkResync (m link : Nat)
  /-- `REP_POLL_DUE` (R559): a target link looks at its period. -/
  | repPollDue (link : Nat)
  /-- `REP_SYNC_TIMEOUT` (R564): a synchronous command looks at its time. -/
  | repSyncTimeout (id : Nat)
  /-- `ENTROPY_STARTUP_TEST` (R594): the 1,024 raw samples of a start-up test. -/
  | entropyStartupTest (samples : List Nat)
  /-- `BOOT_LOADER_VERIFY` (R572): what the ROM finds in the loader copy it tries: keys hash to `ROOT_D`, both signatures verify, its security version, every block matches, and the digest of its header. -/
  | bootLoaderVerify (keysOk sigsOk : Bool) (svn : Nat) (blocksOk : Bool) (digest : Nat)
  /-- `BOOT_LOADER_TIMEOUT` (R574). -/
  | bootLoaderTimeout
  /-- `BUNDLE_CHECK` (R575): the recovery loader chooses the image and checks its partitions. -/
  | bundleCheck
  /-- `FIRMWARE_START` (R576): whether both boot-count sectors take the count, and whether the settings slot in use is sound. -/
  | firmwareStart (countOk settingsOk : Bool)
  /-- `SETTINGS_MIGRATE` (R632): whether the current slot can be read, every item converted and the new slot written. -/
  | settingsMigrate (readable converts writes : Bool)
  /-- `HBM_TRAIN` (R715): pseudo-channels of a stack that train, as a 32-bit mask, and the beats it took. -/
  | hbmTrain (stack ok beats : Nat)
  /-- `MSR_EXTEND` (R580): master `m` writes `MSR_EXTEND` for register `k`. -/
  | msrExtend (m k addr : Nat)
  /-- `MSR_LOCK` (R581): master `m` writes `MSR_EXTEND` with `LOCK` 1. -/
  | msrLock (m k : Nat)
  /-- `INSTALL_VAT_KEY` (R223): the secure cores run the first waiting request. -/
  | installVatKey
  /-- `REMOVE_VAT_KEY` (R358). -/
  | removeVatKey
  /-- `INSTALL_SLOT` (R589). -/
  | installSlot
  /-- `IMPORT_KEK` (R589): slot, `USE` and key as the blob gives them; whether its checks pass. -/
  | importKek (slot use key : Nat) (authOk : Bool)
  /-- `REMOVE_SLOT` (R358). -/
  | removeSlot
  /-- `SALT_EXPORT` (R591). -/
  | saltExport
  /-- `SALT_IMPORT` (R591). -/
  | saltImport
  /-- `INSTALL_FABRIC_SALT` (R591). -/
  | installFabricSalt
  /-- `SET_PAIR_KEY` (R590). -/
  | setPairKey
  /-- `QUOTE` (R592). -/
  | quote
  /-- `IDENTITY` (R584). -/
  | identity
  /-- `RANDOM` (R596). -/
  | random
  /-- `HMAC` (R593). -/
  | hmac
  /-- `ENTROPY_TEST_FAIL` (R595): a continuous test fails: repetition count, else adaptive proportion. -/
  | entropyTestFail (rct : Bool)
  /-- `ENTROPY_RECOVERED` (R595). -/
  | entropyRecovered
  /-- `DRBG_RESEED` (R596). -/
  | drbgReseed
  /-- `FUSE_SVN_D` (R577): master `m` writes `SEC_FUSE_PROG`; `ok` when the bit reads back as 1. -/
  | fuseSvnD (m : Nat) (ok : Bool)
  /-- `FUSE_SVN_I` (R577). -/
  | fuseSvnI (m : Nat) (ok : Bool)
  /-- `FUSE_ROOT_I` (R571). -/
  | fuseRootI (m addr : Nat) (ok : Bool)
  /-- `FUSE_DEBUG_DISABLE` (R571). -/
  | fuseDebugDisable (m : Nat) (ok : Bool)
  /-- `FUSE_DEBUG_ROOT` (R571). -/
  | fuseDebugRoot (m : Nat) (ok : Bool)
  /-- `DBG_CHAL` (R597). -/
  | dbgChal
  /-- `DBG_TOKEN` (R597): the token, without its byte count. -/
  | dbgToken (bytes : List Nat)
  /-- `DBG_STAT` (R708). -/
  | dbgStat
  /-- `DBG_MEM` (R708). -/
  | dbgMem (write : Bool) (addr : Nat) (data : Word)
  /-- `IDCODE` (R708). -/
  | idcode
  /-- `SAMPLE_PRELOAD` (R708): levels at the pins, first cell in bit 0; what is shifted in. -/
  | samplePreload (levels value : Nat)
  /-- `EXTEST` (R708). -/
  | extest (levels value : Nat)
  /-- `EXTEST_PULSE` (R708). -/
  | extestPulse (levels value : Nat)
  /-- `EXTEST_TRAIN` (R708). -/
  | extestTrain (levels value : Nat)
  /-- `CLAMP` (R708). -/
  | clamp
  /-- `HIGHZ` (R708). -/
  | highz
  /-- `BYPASS` (R708): 0xFF, or any code of no other instruction. -/
  | bypass (code : Nat)
  /-- `TAP_RESET` (R709). -/
  | tapReset
  /-- `MBX_POST` (R603): master `m` writes `MBX_POST` of channel `c`. -/
  | mbxPost (m c : Nat) (w : Word)
  /-- `MBX_TAKE` (R604): master `m` reads `MBX_TAKE` of channel `c`. -/
  | mbxTake (m c : Nat)
  /-- `MBX_STAT_WRITE` (R605): master `m` writes `MBX_STAT` of channel `c`. -/
  | mbxStatWrite (m c : Nat) (v : Word)
  /-- `MBX_BIND_WRITE` (R602): master `m` writes `MBX_BIND` of channel `c`. -/
  | mbxBindWrite (m c : Nat) (valid : Bool) (snd rcv : Nat)
  /-- `MBX_BIND_LOCK` (R602): master `m` sets `MBX_BIND_LOCK.LOCKED`. -/
  | mbxBindLock (m : Nat)
  /-- `MBX_LOCK_READ` (R615): master `m` reads `MBX_LOCK[k]`. -/
  | mbxLockRead (m k : Nat)
  /-- `MBX_UNLOCK` (R616): master `m` writes `MBX_UNLOCK` with lock `k`. -/
  | mbxUnlock (m k : Nat)
  /-- `UPD_BEGIN` (R622): UPD runs the first waiting request. -/
  | updBegin
  /-- `UPD_BLOCKS` (R623). -/
  | updBlocks
  /-- `UPD_VERIFY` (R625): outcome for a loader section: 0 passes, 1 keys or signatures, 2 version, 3 a block. -/
  | updVerify (loader : Nat)
  /-- `UPD_SCHEDULE` (R627). -/
  | updSchedule
  /-- `UPD_CANCEL` (R622). -/
  | updCancel
  /-- `UPD_CONFIRM` (R630). -/
  | updConfirm
  /-- `UPD_STATUS` (R622). -/
  | updStatus
  /-- `UPD_SETTINGS` (R633). -/
  | updSettings
  /-- `UPD_FUSE` (R571). -/
  | updFuse
  /-- `UPD_ACTIVATE_CHECK` (R627). -/
  | updActivateCheck
  /-- `UPD_ACTIVATE_EXPIRED` (R627). -/
  | updActivateExpired
  /-- `UPD_TRIAL_TIMEOUT` (R631). -/
  | updTrialTimeout
  /-- `KSL_CHALLENGE_REQ` (R636): the frame's bytes from the KSL header to its trailer. -/
  | kslChallengeReq (frame : List Nat)
  /-- `KSL_AUTH` (R636). -/
  | kslAuth (frame : List Nat)
  /-- `KSL_REQ` (R637). -/
  | kslReq (frame : List Nat)
  /-- `KSL_DATA` (R637). -/
  | kslData (frame : List Nat)
  /-- `KSL_READ` (R637): a `READ` frame of the service link. -/
  | kslRead (frame : List Nat)
  /-- `KSL_LOADER` (R574): `done` when the loader is complete; the rest as for BOOT_LOADER_VERIFY. -/
  | kslLoader (frame : List Nat) (done keysOk sigsOk : Bool) (svn : Nat) (blocksOk : Bool) (digest : Nat)
  /-- `KSL_SESSION_TIMEOUT` (R636). -/
  | kslSessionTimeout
  /-- `PWR_DOM_SET_STATE` (R642): master `m` writes `PWR_DOM_REQ[d]` with a target state code. -/
  | pwrDomSetState (m d target : Nat)
  /-- `PWR_DOM_RESET_CORES` (R644): master `m` writes `PWR_DOM_REQ[d]` with `OP` 2 and `CORES`. -/
  | pwrDomResetCores (m d cores : Nat)
  /-- `PWR_ENTRY_QUIESCED` (R643): `wfi` when every core of the domains is in WFI; `wake` 0, or the bit plus 1 of a source that asserts after the commit point. -/
  | pwrEntryQuiesced (wfi : Bool) (wake : Nat)
  /-- `PWR_QUIESCE_TIMEOUT` (R642). -/
  | pwrQuiesceTimeout
  /-- `PWR_EXIT_DONE` (R647). -/
  | pwrExitDone
  /-- `AUTO_IDLE_ENTER` (R645): domain. -/
  | autoIdleEnter (d : Nat)
  /-- `AUTO_IDLE_EXIT` (R645): domain. -/
  | autoIdleExit (d : Nat)
  /-- `WAKE_SOURCE_ASSERT` (R646, R647): bit of Table 17.7, or 9 for an access to the pages of a domain; for sources 8 and 9 the domain
  it wakes, 31 for none of its own. -/
  | wakeSourceAssert (source dom : Nat)
  /-- `DOZE_REQUEST` (R653): master `m` writes `PWR_DOZE_CTL` with `REQ` 1. -/
  | dozeRequest (m : Nat) (oscStop : Bool)
  /-- `DOZE_WAKE` (R654): edges of the real-time clock since the capture; the oscillator's start time. -/
  | dozeWake (ticks startUs : Nat)
  /-- `DOZE_EXIT_DONE` (R655). -/
  | dozeExitDone
  /-- `DOZE_EXIT_SLOW` (R654). -/
  | dozeExitSlow
  /-- `PLL_UNLOCK` (R650): PLL number. -/
  | pllUnlock (n : Nat)
  /-- `CLK_REF_LOSS` (R651): reference, in the order of R662. -/
  | clkRefLoss (k : Nat)
  /-- `CLK_REF_RETURN` (R651): reference. -/
  | clkRefReturn (k : Nat)
  /-- `PFAIL_RECOGNISED` (R657): `PFAIL_N` low for `ns` nanoseconds; from DOZE, as for DOZE_WAKE. -/
  | pfailRecognised (ns ticks startUs : Nat)
  /-- `AON_SRST_REQ` (R663): master `m` writes `AON_SRST_REQ.REQ`. -/
  | aonSrstReq (m : Nat)
  /-- `FATAL_RESET_TIMER` (R673). -/
  | fatalResetTimer
  /-- `ERQ_INJECT` (R674): master `m` writes `ERQ_INJECT`. -/
  | erqInject (m slot cond : Nat)
  /-- `MEMORY_ECC_ERROR` (R670): `kind` 0 SRAM corrected, 1 SRAM uncorrectable, 2 HBM corrected, 3 HBM uncorrectable, 4 spine parity; the page concerned; the address; the command tag of the request whose job read the word, 0 for none; a spare row is left. -/
  | memoryEccError (kind slot addr tag : Nat) (spare : Bool)
  /-- `EVR_EPOCH_END` (R678): copies whose write failed and went to another brick; whether one was written by the end of the next epoch. -/
  | evrEpochEnd (fails : Nat) (written : Bool)
  /-- `EVR_SAMPLE` (R687): master `m` writes `EVR_SAMPLE`. -/
  | evrSample (m metric value : Nat)
  /-- `EVR_CURSOR_WRITE` (R680): master `m` writes `EVR_CURSOR`. -/
  | evrCursorWrite (m area epoch metric : Nat)
  /-- `EVR_WINDOW_LOADED` (R680). -/
  | evrWindowLoaded
  /-- `EVR_WIN_READ` (R680): master `m` reads `EVR_WIN[k]`. -/
  | evrWinRead (m k : Nat)
  /-- `EVR_CLR_CHAL_READ` (R681): master `m` reads `EVR_CLR_CHAL[0]`. -/
  | evrClrChalRead (m : Nat)
  /-- `EVR_CLR_REQ` (R681): master `m` writes the address of a token to `EVR_CLR_REQ`. -/
  | evrClrReq (m addr : Nat)
  /-- `EVR_SEC_CLEAR` (R682): secure master `m` writes `EVR_SEC_CMD` with `OP` 1; a copy of the log entry is written. -/
  | evrSecClear (m : Nat) (written : Bool)
  /-- `AGE_SAMPLE` (R683): monitor; its normalised margin in ps. -/
  | ageSample (n margin : Nat)
  /-- `THERMAL_WARNING` (R706): die sensor n as n, HBM stack n as 20 + n; its reading in degrees C. -/
  | thermalWarning (sensor : Nat) (temp : Int)
  /-- `THERMAL_SHUTDOWN` (R706). -/
  | thermalShutdown (sensor : Nat) (temp : Int)
  /-- `THERMAL_TRIP` (R707). -/
  | thermalTrip (sensor : Nat) (temp : Int)
  /-- `TST_RUN` (R710): master `m` writes `TST_CTL` of quad `q` with `RUN` 1. -/
  | tstRun (m q : Nat)
  /-- `TST_STOP` (R710): master `m` writes `RUN` 0; errors of each lane since its counters were last brought up. -/
  | tstStop (m q : Nat) (errs : List Nat)
  /-- `TST_CLEAR` (R712): master `m` writes `CLEAR` 1 with `RUN` as it stands. -/
  | tstClear (m q : Nat)
  /-- `TST_LOCK_LOSS` (R712): quad, lane and its errors since its counters were last brought up. -/
  | tstLockLoss (q n errs : Nat)
  /-- `TST_EYE_SCAN` (R713): master `m` writes `EYE` 1 with `RUN` as it stands. -/
  | tstEyeScan (m q : Nat)
  /-- `TST_EYE_DONE` (R713): the error counts in the order of the result area. -/
  | tstEyeDone (q : Nat) (counts : List Nat)
  /-- `SUPPLY_LOSS` (R500): the supplies fall; `aonLost` when VDD_AON goes too. -/
  | supplyLoss (aonLost : Bool)
  /-- `PEER_LINK_ENABLE` (R505): master `m` writes `PRL_CTL.ENABLE`. -/
  | peerLinkEnable (m : Nat) (en : Bool)
  /-- `PEER_BUNDLE_RETRAIN` (R505): master `m` writes `PRL_CTL.RETRAIN`. -/
  | peerBundleRetrain (m mask : Nat)
  /-- `TCP_SEGMENT_RX` (R422): a segment acknowledges `ack` bytes and advertises a window. -/
  | tcpSegmentRx (c ack window : Nat) (dup fin rst ce ece cwr : Bool)
  /-- `THERMAL_WARNING_CLEAR` (R706). -/
  | thermalWarningClear (sensor : Nat) (temp : Int)
  /-- `TST_CHECKER_LOCK` (R712): quad and lane. -/
  | tstCheckerLock (q n : Nat)
  deriving DecidableEq, Repr

end Sys2Proof
end

