-- ==== Sys2Proof/WellFormed.lean ====
section
/-! DEFINITION. Well-formed commands: every operand within the width or range the spec gives it. -/

namespace Sys2Proof

/-- A command is well formed when each operand fits the field or the range the spec gives it: a master number (Table
2.15), a page slot (Table 2.17), the number of a lane, brick, slice, domain or priority, a vat or volume number, or the
width of a command field of NVMe. -/
def Instr.wf : Instr → Bool
  | .beatBoundary _ _ => true
  | .egressStallReset _ _ => true
  | .budgetEscalated _ => true
  | .admLateQRead m => decide (m < 64)
  | .beatMarkExchange => true
  | .peerBeatMarkRx _ => true
  | .peerBeatReplyRx _ _ _ _ _ => true
  | .stepHoldEnd _ => true
  | .ptpSyncRx _ _ _ _ _ => true
  | .ptpSyncTimeout => true
  | .beatTbRead m => decide (m < 64)
  | .registerWrite m addr size _ => decide (m < 64) && decide (addr < 2 ^ 44) && (size == 1 || size == 2 || size == 4 || size == 8)
  | .pageEnable m slot _ => decide (m < 64) && decide (slot < 1024)
  | .pageDisable m slot => decide (m < 64) && decide (slot < 1024)
  | .pageQuiesce m slot => decide (m < 64) && decide (slot < 1024)
  | .instanceQuiesced code _ => decide (code < 256)
  | .pageReset m slot _ _ => decide (m < 64) && decide (slot < 1024)
  | .pageCommit m slot _ => decide (m < 64) && decide (slot < 1024)
  | .pageDiscard m slot _ => decide (m < 64) && decide (slot < 1024)
  | .pageErrqRead m slot => decide (m < 64) && decide (slot < 1024)
  | .pageErrqAck m slot => decide (m < 64) && decide (slot < 1024)
  | .irtClaim m => decide (m < 64)
  | .irtDone m slot => decide (m < 64) && decide (slot < 1024)
  | .irtRouteWrite m r _ => decide (m < 64) && decide (r < 1024)
  | .pageLockSet m slot _ => decide (m < 64) && decide (slot < 1024)
  | .readCommand _ ws => ws.all (fun q => decide (q.2 < 2 ^ 64))
  | .mapPageFetchDone _ _ ws => ws.all (fun q => decide (q.2 < 2 ^ 64))
  | .ctbPageFetchDone _ _ => true
  | .peerPageReqRx _ _ => true
  | .peerPageDataRx _ _ _ _ _ _ => true
  | .rdpSlowQRead m => decide (m < 64)
  | .rdpResumeRetry m _ => decide (m < 64)
  | .rdpResumeFailMedia m _ => decide (m < 64)
  | .rdpResumeFailKey m _ => decide (m < 64)
  | .rdpResumeFailInternal m _ => decide (m < 64)
  | .readSlowTimeout _ => true
  | .reconstructStart => true
  | .hedgeStart _ => true
  | .sliceTagCheck _ cid hVat hGen hTag _ =>
    decide (cid < 2 ^ 53) && decide (hVat < 4096) && decide (hGen < 256) && decide (hTag < 65536)
  | .inflateJobEnd _ cid _ bitOff outBytes => decide (cid < 2 ^ 53) && decide (bitOff < 2 ^ 20) && decide (outBytes ≤ 65536)
  | .deliveryEgress _ => true
  | .mapInval m vol _ => decide (m < 64) && decide (vol < 2 ^ 16)
  | .mapInvalDone => true
  | .rchInval m vat _ => decide (m < 64) && decide (vat < 4096)
  | .rchInvalDone => true
  | .pfxRecArm m _ vol _ _ => decide (m < 64) && decide (vol < 2 ^ 16)
  | .pfxRecDisarm m => decide (m < 64)
  | .pfxRecordWindowEnd => true
  | .pfxLoad m _ => decide (m < 64)
  | .pfxUnload m _ => decide (m < 64)
  | .pfxLoadDone => true
  | .pfxExtentDue _ => true
  | .pfxExtentSkip _ => true
  | .writeCommand _ => true
  | .peerMirrorRx _ _ => true
  | .peerMirrorAckRx _ _ _ _ => true
  | .writeAcknowledge _ => true
  | .jnlMirrorTimeout _ => true
  | .chunkRun _ _ => true
  | .peerSwxQueryRx _ _ vat => decide (vat < 4096)
  | .peerSwxAnswerRx _ _ _ => true
  | .recipePageLoaded _ _ vat es => decide (vat < 4096) && decide (es.length ≤ 256)
  | .recipePageClose _ => true
  | .compressJobEnd _ stream => stream.all (fun b => decide (b < 256))
  | .rowWaitExpire => true
  | .updateRecordApply _ _ => true
  | .peerEntryRx _ _ => true
  | .peerHorizonRx _ => true
  | .peerRetireRx _ => true
  | .peerPinRx kind _ => decide (kind < 2)
  | .peerUnpinRx kind _ => decide (kind < 2)
  | .peerRecFetchRx _ => true
  | .peerRecDataRx _ _ _ => true
  | .jnlDefQRead m => decide (m < 64)
  | .createVat m vat => decide (m < 64) && decide (vat < 4096)
  | .setVatOptions m vat => decide (m < 64) && decide (vat < 4096)
  | .rekey m vat => decide (m < 64) && decide (vat < 4096)
  | .freeze m vat => decide (m < 64) && decide (vat < 4096)
  | .deleteVat m vat => decide (m < 64) && decide (vat < 4096)
  | .createVolume m vol => decide (m < 64) && decide (vol < 2 ^ 16)
  | .resizeVolume m vol => decide (m < 64) && decide (vol < 2 ^ 16)
  | .setProfile m vol => decide (m < 64) && decide (vol < 2 ^ 16)
  | .deleteVolume m vol => decide (m < 64) && decide (vol < 2 ^ 16)
  | .redyeResume m vat => decide (m < 64) && decide (vat < 4096)
  | .snpCreateGroup m _ => decide (m < 64)
  | .snpDelete m _ => decide (m < 64)
  | .snpClone m _ vol => decide (m < 64) && decide (vol < 2 ^ 16)
  | .peerTableCmdRx _ _ _ _ _ => true
  | .peerTableAckRx _ => true
  | .tableCmdAckTimeout => true
  | .tableCmdApply => true
  | .peerTablesRx _ _ _ => true
  | .redyeSweepStep _ _ _ => true
  | .volumeRefRelease vol _ => decide (vol < 2 ^ 16)
  | .snapshotRefRelease _ _ => true
  | .ftlDirLoad m _ _ _ _ _ => decide (m < 64)
  | .ftlDirLoadDone _ => true
  | .pageWriteBack _ _ => true
  | .checkpointWrite _ _ => true
  | .chunkRelease _ => true
  | .relocationStart => true
  | .bandErase _ => true
  | .scanRead _ _ _ => true
  | .vaultDumpEnd _ _ _ => true
  | .ftlRecover _ => true
  | .liveCountRecompute => true
  | .mediaFlitRx ln flit => decide (ln < 128) && decide (flit < 256 ^ 272)
  | .mediaNakRx ln _ => decide (ln < 128)
  | .mediaReplayTimer ln => decide (ln < 128)
  | .mdlLinkEnable m ln _ => decide (m < 64) && decide (ln < 128)
  | .mdlLinkRetrain m ln => decide (m < 64) && decide (ln < 128)
  | .mdlLinkDown m ln => decide (m < 64) && decide (ln < 128)
  | .trainingBlockRx ln _ _ _ _ _ _ _ _ => decide (ln < 128)
  | .linkTrainTimeout ln => decide (ln < 128)
  | .linkRecoverTimeout ln => decide (ln < 128)
  | .brickCreditRx ln _ _ => decide (ln < 128)
  | .mediaOpTimeout ln _ => decide (ln < 128)
  | .brickIdentRx ln _ _ _ _ _ _ _ _ _ _ _ _ => decide (ln < 128)
  | .brickOwnerRx ln _ _ _ _ _ => decide (ln < 128)
  | .identRetry k => decide (k < 128)
  | .brickStatusRx ln _ _ => decide (ln < 128)
  | .brickReadDataRx ln _ _ _ _ => decide (ln < 128)
  | .brickEventRx ln _ die => decide (ln < 128) && decide (die < 64)
  | .sidebandAlert k _ _ _ => decide (k < 128)
  | .sidebandPoll k _ _ _ => decide (k < 128)
  | .brickAdopt m k => decide (m < 64) && decide (k < 128)
  | .brickRelease m k => decide (m < 64) && decide (k < 128)
  | .brickFail m k => decide (m < 64) && decide (k < 128)
  | .brickAttnOn m k _ => decide (m < 64) && decide (k < 128)
  | .brickAttnOff m k _ => decide (m < 64) && decide (k < 128)
  | .brickRefresh m k => decide (m < 64) && decide (k < 128)
  | .dfmLoad m _ => decide (m < 64)
  | .dfmUnload m _ => decide (m < 64)
  | .digestSubmit m sl _ => decide (m < 64) && decide (sl < 16)
  | .digestJobEnd _ => true
  | .digDoneQRead m sl => decide (m < 64) && decide (sl < 16)
  | .keyFetchDone sl _ => decide (sl < 16)
  | .keyHandleRemove _ => true
  | .sliceRngReseed sl => decide (sl < 16)
  | .secHardenWrite m _ _ => decide (m < 64)
  | .portLinkChange port _ => decide (port < 96)
  | .hfiDetectStep q => decide (q < 24)
  | .hfiFrameRx port _ => decide (port < 96)
  | .pfcXoff port prio _ => decide (port < 96) && decide (prio < 8)
  | .pfcRefresh port prio _ => decide (port < 96) && decide (prio < 8)
  | .pfcXon port prio _ => decide (port < 96) && decide (prio < 8)
  | .pfcFrameRx port _ => decide (port < 96)
  | .pfcPauseExpire port prio => decide (port < 96) && decide (prio < 8)
  | .tcpSynRx u _ _ _ _ _ _ => decide (u < 2)
  | .tcpRetransmitTimeout _ => true
  | .tcpTimeWaitExpire _ => true
  | .nvtIcreqRx _ _ _ _ _ => true
  | .nvtIcreqTimeout _ => true
  | .nvmeConnectAdmin _ cid flags sqsize kato _ => decide (cid < 2 ^ 16) && decide (flags < 256) && decide (sqsize < 2 ^ 16) && decide (kato < 2 ^ 32)
  | .nvmeConnectIo _ cid flags qid sqsize _ => decide (cid < 2 ^ 16) && decide (flags < 256) && decide (qid < 2 ^ 16) && decide (sqsize < 2 ^ 16)
  | .nvtConnectQRead m u => decide (m < 64) && decide (u < 2)
  | .nvtConnectAccept m u slot => decide (m < 64) && decide (u < 2) && decide (slot < 64)
  | .nvtConnectRefuseHost m u slot => decide (m < 64) && decide (u < 2) && decide (slot < 64)
  | .nvtConnectRefuseBusy m u slot => decide (m < 64) && decide (u < 2) && decide (slot < 64)
  | .nvtConnectTimeout u slot => decide (u < 2) && decide (slot < 64)
  | .keepAliveExpired _ => true
  | .nvtCtrlTeardown m u _ => decide (m < 64) && decide (u < 2)
  | .nvtAttachChanged m u _ => decide (m < 64) && decide (u < 2)
  | .nvmeIdentify _ cid flags nsid cns => decide (cid < 2 ^ 16) && decide (flags < 256) && decide (nsid < 2 ^ 32) && decide (cns < 256)
  | .nvmeGetFeatures _ cid flags fid => decide (cid < 2 ^ 16) && decide (flags < 256) && decide (fid < 256)
  | .nvmeSetFeatures _ cid flags fid _ => decide (cid < 2 ^ 16) && decide (flags < 256) && decide (fid < 256)
  | .nvmeGetLogPage _ cid flags nsid lid off len _ => decide (cid < 2 ^ 16) && decide (flags < 256) && decide (nsid < 2 ^ 32) && decide (lid < 256) && decide (off < 2 ^ 64) && decide (len < 2 ^ 34)
  | .nvmeDeviceSelfTest _ cid flags nsid _ => decide (cid < 2 ^ 16) && decide (flags < 256) && decide (nsid < 2 ^ 32)
  | .nvmeAbort _ cid flags sqid acid => decide (cid < 2 ^ 16) && decide (flags < 256) && decide (sqid < 2 ^ 16) && decide (acid < 2 ^ 16)
  | .nvmeKeepAlive _ cid flags => decide (cid < 2 ^ 16) && decide (flags < 256)
  | .nvmeAsyncEventRequest _ cid flags => decide (cid < 2 ^ 16) && decide (flags < 256)
  | .nvmePropertyGet _ cid flags ofs => decide (cid < 2 ^ 16) && decide (flags < 256) && decide (ofs < 2 ^ 32)
  | .nvmePropertySet _ cid flags ofs _ => decide (cid < 2 ^ 16) && decide (flags < 256) && decide (ofs < 2 ^ 32)
  | .nvmeDisconnect _ cid flags => decide (cid < 2 ^ 16) && decide (flags < 256)
  | .nvmeRead _ cid flags nsid lba _ _ => decide (cid < 2 ^ 16) && decide (flags < 256) && decide (nsid < 2 ^ 32) && decide (lba < 2 ^ 64)
  | .nvmeWrite _ cid flags nsid lba _ _ _ => decide (cid < 2 ^ 16) && decide (flags < 256) && decide (nsid < 2 ^ 32) && decide (lba < 2 ^ 64)
  | .nvmeFlush _ cid flags nsid => decide (cid < 2 ^ 16) && decide (flags < 256) && decide (nsid < 2 ^ 32)
  | .nvmeWriteZeroes _ cid flags nsid lba _ => decide (cid < 2 ^ 16) && decide (flags < 256) && decide (nsid < 2 ^ 32) && decide (lba < 2 ^ 64)
  | .nvmeDatasetManagement _ cid flags nsid _ _ => decide (cid < 2 ^ 16) && decide (flags < 256) && decide (nsid < 2 ^ 32)
  | .nvmeInvalidOpcode _ cid => decide (cid < 2 ^ 16)
  | .nvtH2cDataRx _ ttag off len _ _ _ _ _ => decide (ttag < 2 ^ 16) && decide (off < 2 ^ 64) && decide (len < 2 ^ 34)
  | .nvtH2cTermReqRx _ => true
  | .selftestTimeout => true
  | .selftestSegment _ => true
  | .tcpSegmentRx _ _ _ _ _ _ _ _ _ => true
  | .ldtHelloRx u _ _ _ _ => decide (u < 2)
  | .ldtAcceptQRead m u => decide (m < 64) && decide (u < 2)
  | .ldtAccept m u slot => decide (m < 64) && decide (u < 2) && decide (slot < 64)
  | .ldtRefuse m u slot => decide (m < 64) && decide (u < 2) && decide (slot < 64)
  | .ldtRefuseBusy m u slot => decide (m < 64) && decide (u < 2) && decide (slot < 64)
  | .ldtAcceptTimeout u slot => decide (u < 2) && decide (slot < 64)
  | .ldtHelloRespRx u dcid _ _ => decide (u < 2) && decide (dcid < 2 ^ 32)
  | .ldtFinishRx u dcid _ _ => decide (u < 2) && decide (dcid < 2 ^ 32)
  | .ldtSetupTimeout _ => true
  | .ldtSendRx u _ _ => decide (u < 2)
  | .ldtWriteRx u _ _ _ _ => decide (u < 2)
  | .ldtReadReqRx u _ _ _ => decide (u < 2)
  | .ldtReadRespRx u _ _ => decide (u < 2)
  | .ldtAckRx u _ _ _ _ _ => decide (u < 2)
  | .ldtCloseRx u _ => decide (u < 2)
  | .ldtMsgFailRx u _ _ _ => decide (u < 2)
  | .ldtKeepaliveRx u _ => decide (u < 2)
  | .ldtConnClose m u _ => decide (m < 64) && decide (u < 2)
  | .ldtConnRekey m u _ => decide (m < 64) && decide (u < 2)
  | .ldtRekeyDue _ => true
  | .ldtKeepaliveSend _ => true
  | .ldtIdleTimeout _ => true
  | .ldtAckDelayExpire _ => true
  | .ldtRtoExpire _ _ => true
  | .ldtMsgTimeout _ _ _ => true
  | .ldtRxMsgTimeout _ _ _ => true
  | .ldtRateIncrease _ _ => true
  | .ldtPathReturn _ _ => true
  | .ldtCtxFetchDone _ => true
  | .lbcRead _ => true
  | .lbcWrite _ => true
  | .lbcWriteZeroes _ => true
  | .lbcDeallocate _ => true
  | .lbcFlush _ => true
  | .lbcAbort _ => true
  | .lbcGetHealth _ => true
  | .lbcGetDeferred _ => true
  | .lseModeReqService m => decide (m < 64)
  | .handoverDrained => true
  | .lseModeReqServiceRelease m => decide (m < 64)
  | .lseModeReqReboot m => decide (m < 64)
  | .peerBundleActive b _ => decide (b < 2)
  | .peerFlitRx b flit => decide (b < 2) && decide (flit < 256 ^ 1088)
  | .peerReplayTimer b => decide (b < 2)
  | .peerBundleLeaveActive b => decide (b < 2)
  | .peerHelloRx hid _ _ _ => decide (hid < 2 ^ 16)
  | .peerModeRx _ _ _ _ _ _ => true
  | .peerModeSend => true
  | .peerModeTimeout => true
  | .peerLossTimeout => true
  | .peerKeyWrapRx _ _ => true
  | .peerSyncDataRx _ _ => true
  | .peerHandoverRx => true
  | .peerMailboxRx _ _ _ c => decide (c < 128)
  | .peerRubRx b _ => decide (b < 2)
  | .leaseFencePoint sh => decide (sh < 2)
  | .leaseRenewDue sh => decide (sh < 2)
  | .witnessRetry sh => decide (sh < 2)
  | .witnessGrantRx _ => true
  | .witnessWaitRx _ => true
  | .witnessWaitExpire sh => decide (sh < 2)
  | .witnessDenyRx _ => true
  | .witnessStatusRx _ => true
  | .witnessReleasedRx _ => true
  | .witnessReportSend => true
  | .homeAcquire => true
  | .bootWaitExpire => true
  | .fencedProbe => true
  | .handbackRelease => true
  | .handbackTimeout => true
  | .rubTest _ _ => true
  | .rubProbeEnd _ => true
  | .lseWitRxWrite m _ => decide (m < 64)
  | .lseWitTxRead m => decide (m < 64)
  | .peerLinkEnable m _ => decide (m < 64)
  | .peerBundleRetrain m _ => decide (m < 64)
  | .lbcFetch _ => true
  | .lbcRepPoll _ => true
  | .lbcRepRecipe _ => true
  | .lbcRepChunks _ => true
  | .lbcRepDone _ => true
  | .fabHelloSend => true
  | .fabHelloRx frame => frame.all (fun b => decide (b < 256))
  | .fabLeaveRx frame => frame.all (fun b => decide (b < 256))
  | .fabMemberMiss hid => decide (hid < 2 ^ 16)
  | .fabPlaceHoldExpire => true
  | .fabPlaceSwap => true
  | .fabFetchTimeout _ => true
  | .repLinkLoad m _ => decide (m < 64)
  | .repLinkStop m _ => decide (m < 64)
  | .repLinkOffer m _ _ => decide (m < 64)
  | .repLinkResync m _ => decide (m < 64)
  | .repPollDue _ => true
  | .repSyncTimeout _ => true
  | .msrExtend m _ _ => decide (m < 64)
  | .msrLock m _ => decide (m < 64)
  | .installVatKey => true
  | .removeVatKey => true
  | .installSlot => true
  | .importKek _ _ _ _ => true
  | .removeSlot => true
  | .saltExport => true
  | .saltImport => true
  | .installFabricSalt => true
  | .setPairKey => true
  | .quote => true
  | .identity => true
  | .random => true
  | .hmac => true
  | .entropyStartupTest samples => decide (samples.length = 1024)
  | .entropyTestFail _ => true
  | .entropyRecovered => true
  | .drbgReseed => true
  | .fuseSvnD m _ => decide (m < 64)
  | .fuseSvnI m _ => decide (m < 64)
  | .fuseRootI m _ _ => decide (m < 64)
  | .fuseDebugDisable m _ => decide (m < 64)
  | .fuseDebugRoot m _ => decide (m < 64)
  | .mbxPost m c _ => decide (m < 64) && decide (c < 128)
  | .mbxTake m c => decide (m < 64) && decide (c < 128)
  | .mbxStatWrite m c _ => decide (m < 64) && decide (c < 128)
  | .mbxBindWrite m c _ _ _ => decide (m < 64) && decide (c < 128)
  | .mbxBindLock m => decide (m < 64)
  | .mbxLockRead m _ => decide (m < 64)
  | .mbxUnlock m _ => decide (m < 64)
  | .bootLoaderVerify _ _ _ _ _ => true
  | .bootLoaderTimeout => true
  | .bundleCheck => true
  | .firmwareStart _ _ => true
  | .settingsMigrate _ _ _ => true
  | .hbmTrain _ _ _ => true
  | .updBegin => true
  | .updBlocks => true
  | .updVerify loader => decide (loader < 4)
  | .updSchedule => true
  | .updCancel => true
  | .updConfirm => true
  | .updStatus => true
  | .updSettings => true
  | .updFuse => true
  | .updActivateCheck => true
  | .updActivateExpired => true
  | .updTrialTimeout => true
  | .kslChallengeReq _ => true
  | .kslAuth _ => true
  | .kslReq _ => true
  | .kslData _ => true
  | .kslLoader _ _ _ _ _ _ _ => true
  | .kslSessionTimeout => true
  | .kslRead _ => true
  | .pwrDomSetState m d _ => decide (m < 64) && decide (d < 20)
  | .pwrDomResetCores m d _ => decide (m < 64) && decide (d < 20)
  | .pwrEntryQuiesced _ _ => true
  | .pwrQuiesceTimeout => true
  | .pwrExitDone => true
  | .autoIdleEnter d => decide (d < 20)
  | .autoIdleExit d => decide (d < 20)
  | .wakeSourceAssert _ _ => true
  | .dozeRequest m _ => decide (m < 64)
  | .dozeWake _ _ => true
  | .dozeExitDone => true
  | .dozeExitSlow => true
  | .pllUnlock _ => true
  | .clkRefLoss k => decide (k < 7)
  | .clkRefReturn k => decide (k < 7)
  | .pfailRecognised _ _ _ => true
  | .aonSrstReq m => decide (m < 64)
  | .fatalResetTimer => true
  | .erqInject m slot _ => decide (m < 64) && decide (slot < 1024)
  | .memoryEccError kind _ _ _ _ => decide (kind < 5)
  | .evrEpochEnd _ _ => true
  | .evrSample m _ _ => decide (m < 64)
  | .evrCursorWrite m _ _ _ => decide (m < 64)
  | .evrWindowLoaded => true
  | .evrWinRead m _ => decide (m < 64)
  | .evrClrChalRead m => decide (m < 64)
  | .evrClrReq m _ => decide (m < 64)
  | .evrSecClear m _ => decide (m < 64)
  | .ageSample n _ => decide (n < 20)
  | .thermalWarning sensor _ => decide (sensor < 24)
  | .thermalWarningClear sensor _ => decide (sensor < 24)
  | .thermalShutdown sensor _ => decide (sensor < 24)
  | .thermalTrip sensor _ => decide (sensor < 24)
  | .idcode => true
  | .samplePreload _ _ => true
  | .extest _ _ => true
  | .extestPulse _ _ => true
  | .extestTrain _ _ => true
  | .clamp => true
  | .highz => true
  | .bypass code => decide (code < 256)
  | .tapReset => true
  | .dbgChal => true
  | .dbgToken _ => true
  | .dbgStat => true
  | .dbgMem _ _ _ => true
  | .tstRun m q => decide (m < 64) && decide (q < 64)
  | .tstStop m q _ => decide (m < 64) && decide (q < 64)
  | .tstClear m q => decide (m < 64) && decide (q < 64)
  | .tstEyeScan m q => decide (m < 64) && decide (q < 64)
  | .tstEyeDone q _ => decide (q < 64)
  | .tstCheckerLock q n => decide (q < 64) && decide (n < 4)
  | .tstLockLoss q n _ => decide (q < 64) && decide (n < 4)
  | .porstNAssert _ => true
  | .porstNRelease fuse => decide (fuse < 3)
  | .srstNAssert _ => true
  | .srstNRelease fuse => decide (fuse < 3)
  | .internalReset fuse => decide (fuse < 3)
  | .supplyLoss _ => true

end Sys2Proof
end

