-- ==== Sys2Proof/Machine/Assoc.lean ====
section
/-! DEFINITION. Association lists keyed by numbers, kept in rising order of their keys: the one shape in which the
state holds sparse tables (register fields, pages, memory bytes, connections, chunks). -/

namespace Sys2Proof.Machine.AL

variable {α : Type}

/-- The value listed under a key. -/
def get (k : Nat) : List (Nat × α) → Option α
  | [] => none
  | (j, a) :: t => if j = k then some a else get k t

/-- The value under a key, or `d` where none is listed. -/
def getD (k : Nat) (d : α) (m : List (Nat × α)) : α := (get k m).getD d

/-- List a value under a key, in place of what stood there. -/
def put (k : Nat) (a : α) : List (Nat × α) → List (Nat × α)
  | [] => [(k, a)]
  | (j, b) :: t => if j < k then (j, b) :: put k a t else if j = k then (k, a) :: t else (k, a) :: (j, b) :: t

/-- List nothing under a key. -/
def del (k : Nat) (m : List (Nat × α)) : List (Nat × α) := m.filter (fun p => p.1 != k)

/-- Change the value under a key, starting from `d` where none is listed. -/
def upd (k : Nat) (d : α) (f : α → α) (m : List (Nat × α)) : List (Nat × α) := put k (f (getD k d m)) m

/-- Whether a key is listed. -/
def has (k : Nat) (m : List (Nat × α)) : Bool := (get k m).isSome

/-- Change every listed value. -/
def mapV (f : Nat → α → α) (m : List (Nat × α)) : List (Nat × α) := m.map (fun p => (p.1, f p.1 p.2))

/-- The values, in key order. -/
def vals (m : List (Nat × α)) : List α := m.map (·.2)

/-- Keys strictly rising. -/
def sorted : List (Nat × α) → Bool
  | [] => true
  | [_] => true
  | (j, _) :: (k, b) :: t => decide (j < k) && sorted ((k, b) :: t)

end Sys2Proof.Machine.AL

namespace Sys2Proof.Machine.Mem

/-- What a byte that nothing has written reads as. -/
def blank : BitVec 8 := 0

/-- The byte at an address. -/
def rd (a : Nat) (m : List Host.Cell) : BitVec 8 := AL.getD a blank m

/-- Write one byte; writing `blank` lists nothing, so equal memories are equal lists. -/
def wr (a : Nat) (b : BitVec 8) (m : List Host.Cell) : List Host.Cell :=
  if b = blank then AL.del a m else AL.put a b m

/-- The canonical form: addresses strictly rising and no entry equal to `blank`. -/
def wf (m : List Host.Cell) : Bool := AL.sorted m && m.all (fun p => p.2 != blank)

/-- Write bytes at rising addresses. -/
def wrs (a : Nat) : List (BitVec 8) → List Host.Cell → List Host.Cell
  | [], m => m
  | b :: t, m => wrs (a + 1) t (wr a b m)

/-- `n` bytes from an address. -/
def rds (a n : Nat) (m : List Host.Cell) : List (BitVec 8) := (List.range n).map (fun i => rd (a + i) m)

/-- `n` bytes from an address as one little-endian number. -/
def rdLE (a : Nat) : Nat → List Host.Cell → Nat
  | 0, _ => 0
  | n + 1, m => (rd a m).toNat + 256 * rdLE (a + 1) n m

/-- The `n` little-endian bytes of a number. -/
def leBytes : Nat → Nat → List (BitVec 8)
  | 0, _ => []
  | n + 1, v => BitVec.ofNat 8 v :: leBytes n (v / 256)

/-- Write a number as `n` little-endian bytes. -/
def wrLE (a n v : Nat) (m : List Host.Cell) : List Host.Cell := wrs a (leBytes n v) m

end Sys2Proof.Machine.Mem

namespace Sys2Proof.Machine

variable {α : Type}

/-- Insert by a rising key, after equals. -/
def insertBy (key : α → Nat) (a : α) : List α → List α
  | [] => [a]
  | b :: t => if key a < key b then a :: b :: t else b :: insertBy key a t

/-- Sort by a rising key; equals keep their order. -/
def sortBy (key : α → Nat) (l : List α) : List α := l.foldl (fun acc a => insertBy key a acc) []

/-- The first element with the least key. -/
def minBy (key : α → Nat) (l : List α) : Option α :=
  l.foldl (fun m a => match m with
    | none => some a
    | some b => if key a < key b then some a else some b) none

/-- The first element with the greatest key. -/
def maxBy (key : α → Nat) (l : List α) : Option α :=
  l.foldl (fun m a => match m with
    | none => some a
    | some b => if key b < key a then some a else some b) none

end Sys2Proof.Machine
end

