-- ==== Sys2Proof/Machine/Crc.lean ====
section
/-! DEFINITION. CRC-32C (Castagnoli) over bytes, as the spec's `CHECK` fields use it: 64-bit words taken least
significant byte first. -/

namespace Sys2Proof.Machine

/-- One bit of the reflected Castagnoli polynomial. -/
def crcBit (c : Nat) : Nat := if c % 2 = 1 then (c / 2) ^^^ 0x82F63B78 else c / 2

/-- One byte. -/
def crcByte (c b : Nat) : Nat := (List.range 8).foldl (fun c _ => crcBit c) (c ^^^ b)

/-- CRC-32C of bytes. -/
def crc32c (bytes : List Nat) : Nat := (bytes.foldl crcByte 0xFFFFFFFF) ^^^ 0xFFFFFFFF

/-- The bytes of words, least significant byte of each first. -/
def wordBytes (ws : List Nat) : List Nat := ws.flatMap (fun w => (List.range 8).map (fun i => w / 256 ^ i % 256))

/-- CRC-32C of words. -/
def crcWords (ws : List Nat) : Nat := crc32c (wordBytes ws)

end Sys2Proof.Machine
end

