-- ==== Sys2Proof/Machine/State.lean ====
section
/-! DEFINITION. The state of the head, as plain data: every register field, page header, memory byte and piece of
hidden state the spec gives it, the queue of waiting commands, and the reasons a step can stop. -/

namespace Sys2Proof.Machine

/-! ### What the head sends -/

/-- Where something that leaves the head goes. -/
inductive Dest where
  | peer | witness | brick (lane : Nat) | tcp (conn : Nat) | ldt (conn : Nat) | port (n : Nat)
  | service | core (master : Nat) | tap | flash
  deriving DecidableEq, Repr

/-- One message, frame or response that leaves the head: its destination, its type code in the spec's own table for
that link (peer `MTYPE`, witness `TYPE`, brick message, PDU type, packet type, KSL `TYPE`) and its argument fields. -/
structure Out where
  dest : Dest
  kind : Nat
  args : List Nat
  /-- the priority of its frame on a host port (R417) -/
  prio : Nat := 0
  /-- its IP ECN code point, plus 4 where its TCP header has ECE and 8 where it has CWR (R422) -/
  ecn : Nat := 0
  /-- the address and UDP port it goes to, and the next hop on the way where that is another (R543) -/
  addr : Nat := 0
  udp : Nat := 0
  hop : Nat := 0
  /-- the MAC address that a TCP segment goes to (R416) -/
  mac : Nat := 0
  deriving DecidableEq, Repr

/-! ### Pages, units and conditions (chapters 2 and 18) -/

/-- An entry of a page's error queue (Table 2.10, R667). -/
structure ErrEntry where
  cond : Nat
  severity : Nat
  escalated : Bool
  beat : Nat
  handled : Bool
  deriving DecidableEq, Repr

/-- A capture: `PAGE_ERR_FIRST`, `PAGE_ERR_LAST` or `ERQ_HEAD_FIRST` with its `_INFO` register (R86, R669). -/
structure ErrCap where
  valid : Bool := false
  cond : Nat := 0
  severity : Nat := 0
  escalated : Bool := false
  beat : Nat := 0
  slot : Nat := 0
  info : Nat := 0
  deriving DecidableEq, Repr

/-- The header of one page (Table 2.3) but for what its unit holds. -/
structure PageHdr where
  errq : List ErrEntry := []
  first : ErrCap := {}
  last : ErrCap := {}
  irqStat : Nat := 0
  irqMask : Nat := 0
  irqForce : Nat := 0
  locked : Bool := false
  writers : Nat := 0x7F
  staticRefused : Nat := 0
  denied : Nat := 0
  errqOvf : Nat := 0
  commitPending : Bool := false
  shadowDirty : Bool := false
  deriving DecidableEq, Repr

/-- The enable and quiesce bits of one unit of a block (R72, R73). -/
structure BlockUnit where
  enable : Bool := false
  quiesce : Bool := false
  quiesced : Bool := false
  deriving DecidableEq, Repr

/-- The interrupt router: interrupts in service by the core that claimed them, and the thresholds (R88 to R91). -/
structure IrtSt where
  inService : List (Nat × Nat) := []
  thresh : List (Nat × Nat) := []
  deriving DecidableEq, Repr

/-! ### Time (chapter 1) -/

/-- The time base and its sources. -/
structure TimeSt where
  /-- the time base in units of 2^-16 ns (R14) -/
  tbFx : Nat := 0
  /-- the part of the rate gain below 2^-16 ns, in units of 2^-48 ns (R28; log entry 120) -/
  rateRem : Nat := 0
  /-- K2 cycles since power-on, from which K1 is counted (20 K2 cycles are one K1 cycle) -/
  k2 : Nat := 0
  /-- where a backward step holds the time base until (R24): the ns of the peer's time still to be made up -/
  holdLeft : Option Nat := none
  /-- offset to the peer not yet removed by slewing, ns (R25) -/
  slewLeft : Int := 0
  /-- what has been slewed of the next nanosecond, in units of 2^-48 ns (log entry 120) -/
  slewAcc : Nat := 0
  /-- the source's own rate correction, without a slew (R28, R31) -/
  baseRate : Int := 0
  /-- good grandmaster offsets in a row, up to 16 (R30) -/
  ptpGood : Nat := 0
  /-- beat of the last accepted Sync -/
  ptpSyncBeat : Option Nat := none
  /-- port and domain of that Sync (R22) -/
  ptpSyncPort : Nat := 0
  ptpSyncDom : Nat := 0
  /-- the time base when the last Sync was received and when the last Delay_Req was sent (R425) -/
  ptpRx : Nat := 0
  ptpTx : Nat := 0
  /-- send time of the beat mark in flight (R23) -/
  markT1 : Option Nat := none
  /-- the peer's `COARSE` as last reported -/
  peerCoarse : Bool := false
  deriving DecidableEq, Repr

/-! ### Requests and admission (chapters 1, 3 and 4) -/

/-- Who gave the head a request. -/
inductive Origin where
  | nvt (conn cid : Nat) | ldt (conn tag : Nat) | prefetch | internal | selftest
  deriving DecidableEq, Repr

/-- What a request is. -/
inductive ReqKind where
  | read | write | zeroes | dealloc | flush | digest | hmac | prefetch | admin | fetch | repChunks | move | redye
  deriving DecidableEq, Repr

/-- Where a request stands (R54, R104 to R138, R168 to R186). -/
inductive ReqStage where
  | resolving | slow (reason : Nat) | held | waiting | fetching | slice | delivering | awaitData
  | awaitMirror | entered | acked | completing | done
  deriving DecidableEq, Repr

/-- What a block of a read resolved to (R106). -/
inductive Source where
  | zero | journal (rec : Nat) | peerJournal (rec : Nat) | chunk (cid : Nat) | foreign (cid : Nat) | lost
  deriving DecidableEq, Repr

/-- A record of a compressed delivery (R141, Table 3.7): its first LBA, the blocks it covers, its descriptor and its stream. -/
structure CdRec where
  lba : Nat
  count : Nat
  desc : Nat
  len : Nat
  stream : Nat
  deriving DecidableEq, Repr

/-- A job of a slice's engines: the copy of a chunk or record that a read decrypts, what a read delivers, the chunk run of a
command's part, a chunk being stored and its compressed output. -/
inductive JobKey where
  | copy (tag cid : Nat) | rebuild (tag fetch : Nat) | deliver (tag : Nat) | run (tag part : Nat) | chunk (job : Nat) | out (job : Nat)
  deriving DecidableEq, Repr

/-- One host or internal request, from the beat its command is complete to its completion. -/
structure Req where
  tag : Nat
  kind : ReqKind
  origin : Origin
  vol : Nat := 0
  lba : Nat := 0
  blocks : Nat := 0
  /-- class code of Table 1.16: 0 H, 1 M, 2 MQ, 3 X, 4 W, 5 F, 6 A -/
  cls : Nat := 0
  stage : ReqStage := .resolving
  /-- the profile's budgets H, M, MQ, X, W, F, A in beats as they stood when the count began (R42) -/
  budgets : List Nat := []
  countBeat : Nat := 0
  deadline : Nat := 0
  /-- arrival number (R41) -/
  seq : Nat := 0
  /-- (pool, entries) reserved (R39) -/
  held : List (Nat × Nat) := []
  slice : Nat := 0
  /-- blocks resolved and not yet through the slice -/
  sources : List (Nat × Source) := []
  /-- index in its chunk of each block, as its map entry gave it -/
  idxs : List (Nat × Nat) := []
  /-- blocks verified so far -/
  verified : List Nat := []
  /-- blocks delivered so far (R138) -/
  delivered : Nat := 0
  bytesIn : Nat := 0
  /-- journal slots of its records and those acknowledged by the peer (R180, R181) -/
  recs : List Nat := []
  mirrorAcks : List Nat := []
  late : Bool := false
  escalated : Bool := false
  cond : Nat := 0
  compressed : Bool := false
  ordered : Bool := false
  pfxName : Nat := 0
  /-- commands it waits for under R145 or R148 -/
  waitsOn : List Nat := []
  slowSince : Nat := 0
  aborted : Bool := false
  /-- beat of the decision that ended it (R720) -/
  endBeat : Nat := 0
  /-- the connection's grant covers the volume's vat (chapter 11) -/
  granted : Bool := false
  /-- host association (chapters 10 and 11) -/
  assoc : Nat := 0
  /-- first part not yet admitted, of the parts of R45 -/
  part : Nat := 0
  /-- the last data byte of a write has arrived (R42) -/
  dataIn : Bool := false
  /-- data of a write's blocks as received, by block index, once its record has landed; and blocks that wait for their slice -/
  content : List (Nat × Nat) := []
  inWait : List (Nat × Nat) := []
  /-- ranges of a deallocate -/
  ranges : List (Nat × Nat) := []
  /-- units of band space reserved (R169) -/
  rsv : Nat := 0
  /-- blocks whose copies have inflated and stand ready, with their content -/
  ready : List (Nat × Nat) := []
  rchHit : Bool := false
  jnlHit : Bool := false
  /-- members whose strip failed for a chunk of this read: (chunk, member descriptor) (R125) -/
  failedAt : List (Nat × Nat) := []
  /-- records of a compressed delivery not yet delivered (R141) -/
  cdRecs : List CdRec := []
  /-- LBAs of zero blocks not yet delivered -/
  zeroAt : List Nat := []
  /-- parts whose WRITE message has begun (R494) -/
  sentParts : Nat := 0
  /-- in-capsule data, in blocks (R439) -/
  icd : List Nat := []
  /-- it is an Abort; Dword 0 or word 2 of its completion -/
  isAbort : Bool := false
  dw0 : Nat := 0
  /-- host buffer of an LBC command -/
  bufAddr : Nat := 0
  bufLen : Nat := 0
  /-- bytes placed in it -/
  placed : Nat := 0
  /-- the snapshot it reads, for a replication command (R559) -/
  space : Option Nat := none
  /-- it has been given to a synchronous link (R562) -/
  synced : Bool := false
  /-- journal slots whose own copy failed for this read: it waits for the peer's (R136) -/
  recWait : List Nat := []
  /-- what each block resolved to, kept once its data has come (R141) -/
  resolvedAs : List (Nat × Source) := []
  /-- the chunk-table entry of each chunk as resolution found it, with the band that the read pins (R109, R112) -/
  ents : List (Nat × CtbEnt) := []
  /-- blocks whose data has left (R138) -/
  sent : List Nat := []
  /-- the slice of each admitted part (R172) -/
  partSlices : List Nat := []
  /-- the space that each part still to enter has reserved (R169, R205) -/
  rsvs : List (Nat × Nat) := []
  /-- `MSN` of the WRITE message of each part that has begun (R494) -/
  msgs : List (Nat × Nat) := []
  deriving DecidableEq, Repr

/-- A completion that the network has not taken yet (Table 1.4, stage 1; R54). -/
structure Egress where
  tag : Nat
  nvt : Bool
  conn : Nat
  /-- its command identifier on NVT; the `MSN` of its message on LDT -/
  id : Nat
  cls : Nat
  deadline : Nat
  escalated : Bool := false
  /-- the completion slots it holds (R46) -/
  slots : Nat := 0
  deriving DecidableEq, Repr

/-- Data of a read that the network has still to take (R46): on NVT of a command, on LDT of a message, with the delivery units it holds; of
a compressed delivery all of them until the message has left. -/
structure Leaving where
  nvt : Bool
  conn : Nat
  id : Nat
  units : Nat
  whole : Bool := false
  deriving DecidableEq, Repr

/-- A record of `ADM_LATE_Q` (Table 1.16). -/
structure LateRec where
  cls : Nat
  stage : Nat
  late : Nat
  tag : Nat
  deriving DecidableEq, Repr

/-- Admission. -/
structure AdmSt where
  reqs : List (Nat × Req) := []
  nextTag : Nat := 1
  nextSeq : Nat := 0
  lateQ : List LateRec := []
  /-- units of pool 6's reserve in use (R40) -/
  reserveUsed : Nat := 0
  /-- completions that wait for the network (R54) -/
  egress : List Egress := []
  /-- read data that waits for the network, with its delivery units (R46) -/
  leaving : List Leaving := []
  /-- pool 7 slots that chunking and committing work has taken in this beat (R188) -/
  workSlots : Nat := 0
  deriving DecidableEq, Repr

/-! ### The read path (chapter 3) -/

/-- A map page of a map space: `OWN_GEN` and the entries that are not deallocated (R257, R261). -/
structure MapPage where
  ownGen : Nat := 0
  ents : List (Nat × MapEnt) := []
  deriving DecidableEq, Repr

/-- A metadata page (map page, chunk-table page or leaf) as a cache holds it (R107, R109, R254, R258). -/
structure MetaPage where
  resident : Bool := false
  dirty : Bool := false
  pins : Nat := 0
  fetching : Bool := false
  /-- the second fetch under R108 is the one in progress or done -/
  refetched : Bool := false
  fetchBeat : Nat := 0
  stamp : Nat := 0
  useBeat : Nat := 0
  /-- the directory holds its location on flash: band and offset -/
  onFlash : Bool := false
  band : Nat := 0
  offset : Nat := 0
  /-- the highest USEQ applied to it (R267) -/
  top : Nat := 0
  /-- ranges of the fetch in progress still to arrive -/
  left : Nat := 0
  /-- the fetch waits for a fetch place -/
  queued : Bool := false
  /-- a range came back bad -/
  bad : Bool := false
  /-- the fetch is the second reading, by reconstruct (R260) -/
  again : Bool := false
  /-- both copies failed their `CRC` (R260) -/
  broken : Bool := false
  deriving DecidableEq, Repr

/-- An entry of the read cache (R129, R130, R162). -/
structure RchEnt where
  units : Nat
  vat : Nat := 0
  refBit : Bool := false
  pins : Nat := 0
  pfx : Bool := false
  deriving DecidableEq, Repr

/-- How a strip range of a chunk is read (Table 3.3, R127). -/
inductive FetchMode where
  | direct | recon | hedge | foreign | cache
  deriving DecidableEq, Repr

/-- A fetch in progress for a read: one strip range of one chunk. -/
structure Fetch where
  tag : Nat
  cid : Nat
  strip : Nat
  mode : FetchMode
  queued : Bool := false
  limit : Nat := 0
  /-- ranges still to arrive and reserve units drawn (R126) -/
  left : Nat := 1
  reserve : Nat := 0
  /-- first unit in the strip and units -/
  unit : Nat := 0
  units : Nat := 0
  row : Nat := 0
  done : Bool := false
  failed : Bool := false
  /-- order of arrival among completed fetches (R128) -/
  came : Nat := 0
  /-- columns of the strips that a reconstruct reads (R378) -/
  cols : List Nat := []
  deriving DecidableEq, Repr

/-- A record of `RDP_SLOW_Q`. -/
structure SlowRec where
  reason : Nat
  vol : Nat
  tag : Nat
  lba : Nat
  deriving DecidableEq, Repr

/-- An extent of a load profile (Table 3.10). -/
structure Extent where
  delay : Nat
  lenM1 : Nat
  lba : Nat
  deriving DecidableEq, Repr

/-- A loaded profile (R155). -/
structure Profile where
  vol : Nat
  trigLba : Nat
  trigLen : Nat
  extents : Nat
  lastTrig : Option Nat := none
  deriving DecidableEq, Repr

/-- A replay in progress (R159 to R161). -/
structure Replay where
  profile : Nat
  trigBeat : Nat
  /-- extent records neither issued nor skipped -/
  left : List Nat := []
  deriving DecidableEq, Repr

/-- RDP, MAP, CTB, RCH and PFX. -/
structure ReadSt where
  /-- map pages of their own, by space * 2^29 + page; a snapshot's space is 65,536 plus its identity -/
  map : List (Nat × MapPage) := []
  mapPages : List (Nat × MetaPage) := []
  ctb : List (Nat × CtbEnt) := []
  ctbPages : List (Nat × MetaPage) := []
  rch : List (Nat × RchEnt) := []
  rchHand : Nat := 0
  /-- foreign chunks as FAB fetched them, until the slice has had them -/
  foreign : List (Nat × CtbEnt) := []
  fetches : List (Nat × Fetch) := []
  nextFetch : Nat := 0
  nextCame : Nat := 1
  slowQ : List SlowRec := []
  /-- invalidations running: volume or vat, or none for all (R166, R167) -/
  mapInval : Option (Option Nat) := none
  rchInval : Option (Option Nat) := none
  /-- the recording: trigger range, extents newest first -/
  recExtents : List Extent := []
  recTrigLba : Nat := 0
  recTrigLen : Nat := 0
  recTrigBeat : Nat := 0
  recEnd : Nat := 0
  loaded : List (Nat × Profile) := []
  /-- operation running on PFX_LOAD: (OP, profile) -/
  loadOp : Option (Nat × Nat) := none
  replays : List Replay := []
  /-- chunks that requests of an issued extent have taken already: (name of the extent, chunk, tag of the request) (R162) -/
  pfxTaken : List (Nat × Nat × Nat) := []
  issuedBeat : Nat := 0
  issuedNow : Nat := 0
  deriving DecidableEq, Repr

/-! ### The write path (chapter 4) -/

/-- A journal record: its descriptor (Table 4.2) and content. -/
structure JRec where
  seq : Nat
  /-- 1 DATA, 2 ZERO, 3 DEALLOC -/
  typ : Nat
  vol : Nat
  lba : Nat
  assoc : Nat := 0
  tag : Nat := 0
  /-- (first LBA, blocks) for ZERO and DEALLOC -/
  ranges : List (Nat × Nat) := []
  /-- blocks of those ranges that a record entered later covers (R186, R210, R214) -/
  holes : List (Nat × Nat) := []
  beat : Nat := 0
  /-- 1 landed, 2 entered, 3 superseded, 4 lost, 5 retiring -/
  state : Nat := 1
  data : Nat := 0
  /-- its GCM tag (R178, Table 4.2) -/
  gtag : Nat := 0
  /-- of this head's own ring -/
  own : Bool := true
  gen : Nat := 0
  mirrored : Bool := false
  /-- order of entry, 0 before -/
  entryNo : Nat := 0
  pins : Nat := 0
  /-- the command's record count and this record's index, as MIRROR carries them -/
  cmdCount : Nat := 1
  cmdIdx : Nat := 0
  chunked : Bool := false
  tmoRaised : Bool := false
  /-- beat of its entry -/
  entBeat : Nat := 0
  /-- CHK waits for the peer's mirror copy (R189) -/
  fetchWait : Bool := false
  deriving DecidableEq, Repr

/-- An update record of the update log (R206, R263 to R266). -/
structure URec where
  val : UVal
  own : Bool := true
  acked : Bool := false
  entered : Bool := false
  applied : Bool := false
  retired : Bool := false
  beat : Nat := 0
  /-- journal slot it commits -/
  slot : Option Nat := none
  /-- the commit it belongs to, whose records apply only once all have entered (R209) -/
  group : Nat := 0
  deriving DecidableEq, Repr

/-- An entry of the deferred-error log (R213). -/
structure DefEnt where
  cause : Nat
  vol : Nat
  lba : Nat
  count : Nat
  beat : Nat
  queued : Bool := true
  deriving DecidableEq, Repr

/-- A chunk from its cut to its commit (R191 to R211). -/
inductive CStage where
  | decide | peerAsked | recipeLoad (page : Nat) | compress | placed | programmed | committing | awaitRecord
  deriving DecidableEq, Repr

/-- A chunk being stored. -/
structure CJob where
  tag : Nat := 0
  vol : Nat
  vat : Nat := 0
  slots : List Nat
  fp : Nat
  stage : CStage
  cid : Nat := 0
  dup : Bool := false
  insertSwatch : Bool := false
  band : Nat := 0
  offset : Nat := 0
  units : Nat := 0
  raw : Bool := true
  dynamic : Bool := false
  rsv : Nat := 0
  slice : Nat := 0
  /-- a chunk that replication brings: 1 + its link, whether only references are written, its blocks, the entries that name
  it (LBA, index) and the content of its record (R559, R560) -/
  link : Nat := 0
  refOnly : Bool := false
  orig : Nat := 0
  lbas : List (Nat × Nat) := []
  data : List Nat := []
  /-- part of the command it was cut from -/
  part : Nat := 0
  /-- effort of its compress job, 0 before one is bound (R384) -/
  effort : Nat := 0
  /-- the bytes its compress job wrote -/
  deflated : List Nat := []
  /-- wrap count of its identity, and the key generation under which it is encrypted (R201, R202) -/
  wrap : Nat := 0
  keyGen : Nat := 0
  /-- it has been encrypted, with this nonce, which a second placement from the row buffers keeps (R202, R287) -/
  enc : Bool := false
  nonce : Nat := 0
  deriving DecidableEq, Repr

/-- A chunk entry of a stream or recipe page: fingerprint, chunk identity, blocks (Table 4.4). -/
structure RcpEnt where
  fp : Nat
  cid : Nat
  blocks : Nat
  deriving DecidableEq, Repr

/-- A recipe page (Table 4.4). -/
structure RcpPage where
  swatchFp : Nat
  vat : Nat
  vol : Nat
  pos : Nat
  entries : List RcpEnt
  isOpen : Bool := false
  dirty : Bool := false
  resident : Bool := true
  lastBeat : Nat := 0
  deriving DecidableEq, Repr

/-- A swatch record (Table 4.3). -/
structure Swatch where
  key : Nat
  recipe : Nat
  vat : Nat
  hits : Nat
  deriving DecidableEq, Repr

/-- A stream of CHK: its last entries newest first, its recipe set oldest first, its open pages. -/
structure CStream where
  last : List RcpEnt := []
  set : List Nat := []
  openPages : List Nat := []
  useBeat : Nat := 0
  deriving DecidableEq, Repr

/-- The associations that have written to a volume (R215). -/
structure Writers where
  assocs : List Nat := []
  ovf : Bool := false
  deriving DecidableEq, Repr

/-- JNL, WRP, CHK and SWX. -/
structure WriteSt where
  recs : List (Nat × JRec) := []
  nextEntry : Nat := 1
  /-- next record sequence number -/
  nextSeq : Nat := 0
  upd : List (Nat × URec) := []
  /-- update index within the beat (R263) -/
  updBeat : Nat := 0
  updIdx : Nat := 0
  /-- the deferred-error log (R213) -/
  defLog : List DefEnt := []
  /-- notices: (association, namespace or none for any) -/
  notices : List (Nat × Option Nat) := []
  noticesOvf : List Nat := []
  writers : List (Nat × Writers) := []
  jobs : List (Nat × CJob) := []
  nextJob : Nat := 0
  streams : List (Nat × CStream) := []
  recipes : List (Nat × RcpPage) := []
  nextRecipe : Nat := 0
  swatches : List (Nat × Swatch) := []
  /-- range-overlay entries taken, by command tag (R171) -/
  ranges : List Nat := []
  /-- band-space reservation of each entered part: tag * 65536 + part (R169, R205) -/
  rsv : List (Nat × Nat) := []
  /-- the commit whose records land now (R209) -/
  nextGroup : Nat := 1
  /-- the record and unit the next own record takes -/
  nextSlot : Nat := 0
  /-- slots that entered in this beat, for the ENTRY notice (R264) -/
  enteredNow : List Nat := []
  /-- digest contexts held for CHK: the slice of each entered part not yet chunked, by tag * 65536 + part (R172) -/
  digests : List (Nat × Nat) := []
  /-- slots freed at the peer by retire notices still to be sent -/
  retireNotes : List Nat := []
  deriving DecidableEq, Repr
/-! ### Vats, volumes and snapshots (chapter 5) -/

/-- A vat (Tables 5.1 and 5.2). -/
structure Vat where
  /-- 1 ACTIVE, 2 FROZEN, 3 DELETING; a FREE vat is not listed -/
  state : Nat := 1
  isSealed : Bool := false
  published : Bool := false
  cdAllow : Bool := false
  comp : Nat := 0
  keyGen : Nat := 0
  oldLive : Bool := false
  oldGen : Nat := 0
  /-- the 32-byte salt, held in KEY (R222) -/
  salt : Nat := 0
  deriving DecidableEq, Repr

/-- A volume (R232). -/
structure Vol where
  /-- 1 active, 2 deleting; a free volume is not listed -/
  state : Nat := 1
  vat : Nat
  profile : Nat := 0
  sizeM1 : Nat
  /-- the snapshot a clone came from (R246) -/
  origin : Option Nat := none
  /-- beats of its snapshots, newest first; their number is the snapshot generation (R261) -/
  snapBeats : List Nat := []
  deriving DecidableEq, Repr

/-- A snapshot. -/
structure Snap where
  /-- 1 live, 2 reclaiming; a free identity is not listed -/
  state : Nat := 1
  vol : Nat
  beat : Nat
  /-- size of its volume then, less one block (R246) -/
  sizeM1 : Nat := 0
  deriving DecidableEq, Repr

/-- A table command from acceptance to its apply beat (R238 to R240). -/
structure TCmd where
  snp : Bool
  op : Nat
  target : Nat
  args : List Nat
  applyBeat : Nat
  /-- accepted by this head, not received from the peer -/
  own : Bool
  acked : Bool
  deriving DecidableEq, Repr

/-- VAT and SNP. -/
structure VatSt where
  vats : List (Nat × Vat) := []
  vols : List (Nat × Vol) := []
  snaps : List (Nat × Snap) := []
  cmds : List TCmd := []
  /-- applied FREEZE whose last admitted write has not committed: its vat and apply beat (R248) -/
  freezing : Option (Nat × Nat) := none
  /-- bands the sweep has still to pass, and whether it runs (R224) -/
  sweepLeft : List Nat := []
  /-- the vat of a re-dye that has not ended, as the journal's cursor records it (R229) -/
  sweepVat : Option Nat := none
  /-- chunks this sweep left at the old generation (R227) -/
  sweepBad : List Nat := []
  /-- chunks the sweep began in a beat (R228) -/
  sweepBeat : Nat := 0
  sweepNow : Nat := 0
  /-- the peer's sweep has ended, with this many failed chunks (R230) -/
  peerSweep : Option Nat := none
  ownEnded : Bool := false
  deriving DecidableEq, Repr

/-! ### Flash translation (chapter 6) -/

/-- A member of a band (Table 6.7). -/
structure Member where
  brick : Nat
  die : Nat
  block : Nat
  deriving DecidableEq, Repr

/-- A row that takes strips: the first unit in it not yet programmed, and the beat its first chunk was placed. -/
structure OpenRow where
  row : Nat
  startBeat : Nat
  deriving DecidableEq, Repr

/-- A row issued to its bricks: members still to answer (R204, R287). -/
structure IssuedRow where
  band : Nat
  row : Nat
  left : Nat
  failed : Bool := false
  deriving DecidableEq, Repr

/-- A band (R272, Tables 6.7 and 6.8). -/
structure Band where
  state : Nat := 1
  dense : Bool := false
  isMeta : Bool := false
  shard : Nat
  d : Nat
  p : Nat
  members : List Member := []
  /-- rows written -/
  rows : Nat := 0
  /-- strip-pages per member in the band's mode -/
  maxRows : Nat := 4096
  /-- next free unit -/
  next : Nat := 0
  row : Option OpenRow := none
  /-- live-unit hint -/
  live : Nat := 0
  /-- the summary: (chunk, offset), and placements made -/
  summary : List (Nat × Nat) := []
  placements : Nat := 0
  /-- placements neither committed nor abandoned -/
  pendingPl : Nat := 0
  /-- the row buffers: (first unit, units, bytes) of placements whose rows are not all programmed (R287) -/
  buffers : List (Nat × Nat × Nat) := []
  openBeat : Nat := 0
  erasableBeat : Nat := 0
  /-- reason of Table 6.9 while under or queued for relocation -/
  reason : Nat := 0
  /-- chunks a relocation could not read (R285) -/
  stuck : List Nat := []
  /-- members whose block is retiring (R287) -/
  retiring : List Nat := []
  /-- erases still to answer (R278) -/
  erasing : Nat := 0
  /-- members whose block has retired or gone back to the free pool (R286, R288) -/
  gone : List Nat := []
  deriving DecidableEq, Repr

/-- A die's blocks (R279, R289): (block, erases) free in each pool, spares. -/
structure DieSt where
  shard : Nat := 0
  slcFree : List (Nat × Nat) := []
  denseFree : List (Nat × Nat) := []
  slcTotal : Nat := 0
  denseTotal : Nat := 0
  spares : Nat := 0
  sparesAtFormat : Nat := 0
  retired : Nat := 0
  failed : Bool := false
  /-- blocks of the die; the spares left are the highest -/
  top : Nat := 0
  /-- blocks to erase before their first use (R340) -/
  unerased : List Nat := []
  deriving DecidableEq, Repr

/-- A leaf of the directory as the leaf cache holds it (R256, R258). -/
structure Leaf where
  resident : Bool := false
  pin : Bool := false
  dirty : Bool := false
  useBeat : Nat := 0
  /-- it has a location on flash: its band and its offset there (Table 6.4) -/
  onFlash : Bool := false
  band : Nat := 0
  offset : Nat := 0
  /-- the root segment that holds its entry -/
  seg : Option Nat := none
  deriving DecidableEq, Repr

/-- The location of a segment of the root or the band table on flash, and its CRC-32C (R269). -/
structure SegLoc where
  band : Nat
  offset : Nat := 0
  crc : Nat := 0
  deriving DecidableEq, Repr

/-- A checkpoint record (R269). -/
structure Ckpt where
  seq : Nat := 0
  beat : Nat := 0
  hid : Nat := 0
  /-- the shards held, each with its lease epoch -/
  epochs : List (Nat × Nat) := []
  /-- the USEQ through which the band table holds kind 4 records -/
  bandUseq : Nat := 0
  /-- the root and band-table segments by key -/
  segs : List (Nat × SegLoc) := []
  replay : Nat := 0
  deriving DecidableEq, Repr

/-- A vault header (R299). -/
structure VaultHdr where
  seq : Nat := 0
  hid : Nat := 0
  side : Nat := 0
  jgen : Nat := 0
  /-- the shards held at the power failure, each with its lease epoch -/
  epochs : List (Nat × Nat) := []
  dv : Nat := 0
  /-- rows of the dump in the vault area: how many, and the first of them there -/
  rowMap : List (Nat × Nat) := []
  crc : Nat := 0
  deriving DecidableEq, Repr

/-- Where a summary page lies on flash, and the highest USEQ entered in it (R267). -/
structure SumLoc where
  band : Nat
  offset : Nat := 0
  stamp : Nat := 0
  deriving DecidableEq, Repr

/-- A record of `BND_RETIRE_Q`. -/
structure RetireRec where
  cause : Nat
  member : Nat
  erases : Nat
  beat : Nat
  deriving DecidableEq, Repr

/-- A placement whose rows are not all programmed yet: a chunk being stored, a chunk being moved, or a metadata page. -/
structure Placement where
  /-- 0 a store job, 1 a move, 2 a map page, 3 a chunk-table page, 4 a summary page -/
  kind : Nat
  /-- the job, the chunk or the page key -/
  owner : Nat
  band : Nat
  offset : Nat
  len : Nat
  /-- the open band it goes to: 0 host data, 1 metadata, 2 dense relocation -/
  cls : Nat
  shard : Nat
  deriving DecidableEq, Repr

/-- A chunk on the move (R225, R282, R284). -/
structure Move where
  src : Nat
  /-- the place that was read (R226) -/
  band : Nat := 0
  off : Nat := 0
  redye : Bool := false
  /-- 0 reading, 1 placed, 2 its record landed, 3 waiting for admission -/
  stage : Nat := 0
  /-- the class A request that carries it (R228, R281) -/
  tag : Nat := 0
  left : Nat := 0
  rebuilt : Bool := false
  deriving DecidableEq, Repr

/-- FTL and BND. -/
structure FtlSt where
  bands : List (Nat × Band) := []
  nextBand : Nat := 0
  dies : List (Nat × DieSt) := []
  issued : List IssuedRow := []
  /-- the band that takes placements, by shard * 4 + class -/
  openB : List (Nat × Nat) := []
  placements : List Placement := []
  moves : List (Nat × Move) := []
  /-- folding and GC go on until their stop marks (Table 6.9), by shard -/
  folding : List Nat := []
  collecting : List Nat := []
  /-- shards for which SPACE_LOW has been set -/
  spaceLow : List Nat := []
  /-- reads per block, by member descriptor (R293) -/
  reads : List (Nat × Nat) := []
  /-- erase count per block, by member descriptor, SLC and dense -/
  wearSlc : List (Nat × Nat) := []
  wearDense : List (Nat × Nat) := []
  relocQ : List (Nat × Nat) := []
  /-- chunks pinned by a relocation or re-dye (R284) -/
  movers : List Nat := []
  leaves : List (Nat × Leaf) := []
  loadKey : Option (Nat × Bool) := none
  /-- the leaf has failed its `CRC` once and is read by reconstruct (R260) -/
  loadAgain : Bool := false
  retireQ : List RetireRec := []
  /-- chunks at zero count awaiting release: (chunk, beat) (R271) -/
  zeroed : List (Nat × Nat) := []
  saturated : List Nat := []
  /-- summary pages changed and not yet written back: band * 2,048 + index (R255, R267) -/
  sums : List Nat := []
  /-- summary pages whose copy is being written, with the highest USEQ entered in the copy (R267) -/
  sumCopies : List (Nat × Nat) := []
  /-- where each summary page lies on flash -/
  sumAt : List (Nat × SumLoc) := []
  /-- the highest USEQ entered in each summary page (R267) -/
  sumTop : List (Nat × Nat) := []
  ckptBeat : Nat := 0
  /-- the last durable checkpoint record (R269) -/
  ckpt : Option Ckpt := none
  /-- root and band-table segments changed since they were written, by key: twice the number of a root segment, one more for a
  band-table segment (R269) -/
  segDirty : List Nat := []
  /-- where each such segment lies, by the same key -/
  segAt : List (Nat × SegLoc) := []
  /-- the highest USEQ entered in the band table (R269) -/
  bandTop : Nat := 0
  /-- the rows of the latest dump in this side's vault area, those written first and those written again, each with the first of its rows
  there; and the next free row of the area (R296, R298) -/
  vaultMap : List (Nat × Nat) := []
  vaultNext : Nat := 0
  /-- the last fold of a full log has been reported -/
  logFullSaid : Bool := false
  /-- replay points of the last durable checkpoint, own and peer's (R269, R270) -/
  replayOwn : Nat := 0
  replayPeer : Nat := 0
  /-- the vault dump: rows still to write, strips of a row, start beat -/
  dumpSeq : Nat := 0
  dumpStart : Nat := 0
  dumpActive : Bool := false
  dumpDv : Nat := 0
  /-- the header of the dump that the bricks' vault area holds -/
  heldDump : Option VaultHdr := none
  /-- journal keys that the journal header of the dump holds wrapped, by handle -/
  heldKeys : List (Nat × Nat) := []
  heldRecs : List (Nat × JRec) := []
  heldUpd : List (Nat × URec) := []
  /-- sequence of the latest start marker -/
  dumpMark : Nat := 0
  /-- bricks reachable since the start of the dump (R297) -/
  dumpBricks : List Nat := []
  /-- a hold-up too short has been reported (R300) -/
  holdupSaid : Bool := false
  /-- the dump ended with VAULT_FAILED -/
  dumpFailed : Bool := false
  recoverBeat : Nat := 0
  liveCountsGood : Bool := true
  /-- USEQ below which the survivor has replayed the peer's records at a takeover (R304) -/
  replayedPeer : Bool := false
  deriving DecidableEq, Repr

/-! ### Bricks, media links and formulas (chapter 7) -/

/-- What a request to a brick is for. -/
inductive Purpose where
  | fetch (id : Nat)
  | page (kind key : Nat)
  | program (band row member : Nat)
  | erase (band member : Nat)
  | move (cid : Nat)
  | scan (band : Nat)
  | setOwner (shard epoch : Nat)
  | setArray
  | formula (slot : Nat)
  | ident
  | owner
  | vault (row : Nat)
  | sys
  | audit
  | preErase (band member : Nat)
  deriving DecidableEq, Repr

/-- A request to a brick: waiting for credits, or outstanding with its `TAG` (R322, R337). -/
structure MOp where
  tag : Nat := 0
  mtype : Nat
  die : Nat := 0
  block : Nat := 0
  spage : Nat := 0
  offset : Nat := 0
  len : Nat := 0
  op : Nat := 0
  epoch : Nat := 0
  arg : Nat := 0
  urgent : Bool := false
  deadline : Nat := 0
  /-- beat in which the head's model of the die has it start or resume, none while it stands behind another; suspends so far (R334,
  R336) -/
  start : Option Nat := none
  susps : Nat := 0
  /-- time it has run before its last suspend, in units of 100 ns -/
  ran : Nat := 0
  /-- the bytes that a program carries -/
  strip : Nat := 0
  purpose : Purpose
  deriving DecidableEq, Repr

/-- A media lane beyond its registers (R314 to R323). -/
structure LinkSt where
  stateBeat : Nat := 0
  /-- valid training blocks in a row, blocks with both `EQ_DONE` in a row, `PHASE` 3 blocks in a row -/
  tbRun : Nat := 0
  eqRun : Nat := 0
  p3Run : Nat := 0
  preset : Nat := 0
  pre : Int := 0
  post : Int := 0
  txSeq : Nat := 0
  /-- oldest unacknowledged sequence, and beat of the last advance -/
  ackedTo : Nat := 0
  ackBeat : Nat := 0
  rxExp : Nat := 0
  nakSent : Bool := false
  badRun : Nat := 0
  timerRun : Nat := 0
  nextTag : Nat := 0
  /-- the scramblers of both directions (R317) -/
  scrTx : Nat := 2147483647
  scrRx : Nat := 2147483647
  /-- flits sent since the last SKIP flit (R313), and the replay buffer: sequence, `START` and slots (R319) -/
  sent : Nat := 0
  held : List (Nat × Nat × Nat) := []
  ops : List MOp := []
  waiting : List MOp := []
  /-- tags of timed-out requests still in use (R337) -/
  lateTags : List Nat := []
  deriving DecidableEq, Repr

/-- A brick beyond its registers (R339). -/
structure BrickSt where
  /-- 0 no check runs, 1 IDENT awaited, 2 formula STATUS awaited, 3 OWNER awaited, 4 a reply timed out -/
  step : Nat := 0
  stepBeat : Nat := 0
  dieMask : Nat := 0
  fid : Nat := 0
  fver : Nat := 0
  fcheck : Nat := 0
  otherActive : Bool := false
  /-- shards for which the brick has answered SET_OWNER with OK at the epoch held (R327) -/
  owned : List Nat := []
  /-- the brick uses the formula slot that `BRK_STAT.SLOT` names (R344) -/
  slotUsed : Bool := false
  /-- operation running on `BRK_CMD`, 0 none -/
  cmd : Nat := 0
  /-- SET_OWNER answers ADOPT still waits for -/
  cmdLeft : Nat := 0
  /-- uncorrectable reads per block, by member descriptor (R288) -/
  readFails : List (Nat × Nat) := []
  /-- beat of the last poll of `SB_STATUS` -/
  sbBeat : Option Nat := none
  deriving DecidableEq, Repr

/-- MDL, BRK and DFM. -/
structure MediaSt where
  links : List (Nat × LinkSt) := []
  bricks : List (Nat × BrickSt) := []
  formulas : List (Nat × List Nat) := []
  /-- shards whose programs stopped under R329 -/
  refusedShards : List Nat := []
  deriving DecidableEq, Repr


/-! ### Slices (chapters 8 and 9) -/

/-- An entry of a slice's key cache (R356, R357): resident, being fetched, or waiting for one of the 16 fetches. -/
structure KeyEnt where
  resident : Bool := false
  fetching : Bool := false
  /-- tags of the jobs that pin it -/
  tags : List Nat := []
  useBeat : Nat := 0
  deriving DecidableEq, Repr

/-- A record of `DSL_DIG_DONE_Q` with its byte count. -/
structure DigRec where
  cond : Nat
  jobTag : Nat
  bytes : Nat
  deriving DecidableEq, Repr

/-- Staging units that a job holds: their contents, and the beat that filled them (R350, R351). A unit that no job holds is zero
(R352). -/
structure Staged where
  units : List Nat
  beat : Nat
  deriving DecidableEq, Repr

/-- A read bound to an inflater, with the segments reserved for each of its compressed chunks (R381, R382, R396). -/
structure InflBind where
  tag : Nat
  rsv : List (Nat × Nat) := []
  deriving DecidableEq, Repr

/-- A slice beyond its registers. -/
structure SliceSt where
  keys : List (Nat × KeyEnt) := []
  doneQ : List DigRec := []
  /-- segments reserved in the current beat: cipher, erasure, chunker, SHA-512, SHA-256, pool 7 slots, inflater, deflater -/
  load : List Nat := []
  /-- segments of each compression unit in the current beat: inflaters 0 to 23, deflaters from 24 (Table 9.1) -/
  unitLoad : List (Nat × Nat) := []
  /-- segments reserved in this beat and not yet run, by tag and kind -/
  booked : List (Nat × Nat) := []
  /-- segments run of the pass in progress of each job (R345) -/
  segs : List (JobKey × Nat) := []
  staged : List (JobKey × Staged) := []
  /-- jobs bound to inflaters and to deflaters (R381) -/
  infl : List (Nat × InflBind) := []
  defl : List (Nat × Nat) := []
  deriving DecidableEq, Repr
/-! ### Host ports and NVMe over TCP (chapter 10) -/

/-- An interface in force (Table 10.3); `port` is the port number 0 to 95. -/
structure Iface where
  v4 : Bool := false
  v6 : Bool := false
  tagged : Bool := false
  pcp : Nat := 0
  vid : Nat := 0
  frameMax : Nat := 1518
  v6Plen : Nat := 0
  v4Plen : Nat := 0
  port : Nat := 0
  v4Addr : Nat := 0
  v6Addr : Nat := 0
  deriving DecidableEq, Repr

/-- An R2T that has not had all its data (R439, R442 to R444); `buf` holds the bytes of a block not yet whole. -/
structure R2t where
  ttag : Nat
  tag : Nat
  off : Nat
  len : Nat
  got : Nat := 0
  buf : Nat := 0
  /-- its command has failed: what still arrives is discarded (R444) -/
  dead : Bool := false
  deriving DecidableEq, Repr

/-- A PDU or segment waiting for the connection's window: its kind, its fields and its bytes on the wire. -/
structure TcpOut where
  kind : Nat
  args : List Nat
  bytes : Nat
  deriving DecidableEq, Repr

/-- A frame that a received PFC frame holds back at a port (R421). -/
structure HeldFrame where
  port : Nat
  out : Out
  bytes : Nat
  deriving DecidableEq, Repr

/-- A TCP context of NVT (R427, Table 10.15). -/
structure TcpConn where
  /-- 1 SYN received, 2 established, 3 closing, 4 TIME-WAIT -/
  tcp : Nat := 1
  /-- 0 none, 1 awaiting ICReq, 2 awaiting Connect, 3 admin queue, 4 I/O queue, 5 terminating -/
  nvt : Nat := 0
  iface : Nat := 0
  mac : Nat := 0
  v6 : Bool := false
  /-- it came to a listener with `DISC` (R433) -/
  disc : Bool := false
  hdgst : Bool := false
  ddgst : Bool := false
  ecn : Bool := false
  qid : Nat := 0
  cntlid : Nat := 0
  sqsize : Nat := 0
  /-- a Connect waits for its answer, with its command identifier -/
  connectCid : Option Nat := none
  sqhd : Nat := 0
  /-- beat of the last change of `nvt` or `tcp` -/
  stateBeat : Nat := 0
  /-- the head closed first -/
  active : Bool := false
  /-- receive window of the host, bytes in flight, congestion window and threshold (R422) -/
  window : Nat := 0
  inFlight : Nat := 0
  cwnd : Nat := 0
  ssthresh : Nat := 1073741824
  dupAcks : Nat := 0
  /-- in fast recovery: bytes to be acknowledged before it ends (RFC 6582) -/
  recover : Option Nat := none
  /-- congestion has been seen: ECE goes back until CWR comes (RFC 3168) -/
  ece : Bool := false
  /-- the window was halved on ECE: CWR is still to be sent, and bytes to be acknowledged before it is halved again (RFC 3168) -/
  cwr : Bool := false
  cwrLeft : Nat := 0
  outQ : List TcpOut := []
  /-- bytes of the oldest PDU sent and not acknowledged, and its time -/
  sentNs : Option Nat := none
  srtt : Nat := 0
  rttvar : Nat := 0
  /-- beat at which the retransmission time-out runs out, its length in beats, and retransmissions made -/
  rtoBeat : Option Nat := none
  rto : Nat := 0
  retries : Nat := 0
  /-- stall count, beat of the last byte sent, beat from which egress data has been pending (R58) -/
  stall : Nat := 0
  sentBeat : Option Nat := none
  pendBeat : Option Nat := none
  r2ts : List R2t := []
  nextTtag : Nat := 0
  deriving DecidableEq, Repr

/-- A controller (R430 to R436). -/
structure Ctrl where
  /-- 1 connecting, 2 live, 3 tearing down -/
  st : Nat := 1
  disc : Bool := false
  /-- connection of its admin queue -/
  admin : Nat := 0
  hostNqn : List Nat := []
  hostId : List Nat := []
  granted : Nat := 0
  /-- keep-alive time-out in ms, and beat of the last command -/
  kato : Nat := 0
  lastBeat : Nat := 0
  /-- command identifiers of the event requests outstanding -/
  aers : List Nat := []
  /-- events queued: type, information, log page -/
  events : List (Nat × Nat × Nat) := []
  /-- events reported whose log page has not been read: type, information -/
  masked : List (Nat × Nat) := []
  /-- Asynchronous Event Configuration -/
  evCfg : Nat := 0
  /-- volumes attached -/
  attach : List Nat := []
  /-- Changed Namespace List -/
  changed : List Nat := []
  /-- the `CC` property -/
  cc : Nat := 0
  deriving DecidableEq, Repr

/-- An admin Connect that waits for array software (R431). -/
structure ConnectSlot where
  conn : Nat
  ctrl : Nat
  kato : Nat
  beat : Nat
  queued : Bool := true
  deriving DecidableEq, Repr

/-- The head's self-test (R452, R453). -/
structure SelfTest where
  code : Nat
  nsid : Nat
  scope : List Nat
  cntlid : Nat
  segment : Nat := 1
  failed : Nat := 0
  beat : Nat := 0
  /-- segment 5: the blocks, as (volume, LBA), by which chunks are still to be read, once it has begun, and the read that runs -/
  todo : Option (List (Nat × Nat)) := none
  read : Option Nat := none
  deriving DecidableEq, Repr

/-- An entry of the Device Self-test log (R454). -/
structure StResult where
  code : Nat
  result : Nat
  segment : Nat
  nsid : Nat
  hours : Nat
  deriving DecidableEq, Repr

/-- HFI and NVT. -/
structure HostSt where
  /-- interfaces in force, by group * 128 + number -/
  ifaces : List (Nat × Iface) := []
  /-- priorities for which a PFC frame stands, by port * 8 + priority: beat of the last frame -/
  xoff : List (Nat × Nat) := []
  /-- priorities that a received PFC frame stops: ns at which the pause ends -/
  paused : List (Nat × Nat) := []
  /-- frames that wait for such a pause to end, oldest first -/
  held : List HeldFrame := []
  /-- quads in speed detection: beat from which the mode in force is held -/
  detect : List (Nat × Nat) := []
  /-- TCP contexts, by unit * 32,768 + context -/
  conns : List (Nat × TcpConn) := []
  /-- controllers, by unit * 1,024 + index -/
  ctrls : List (Nat × Ctrl) := []
  /-- waiting Connects, by unit * 64 + slot -/
  slots : List (Nat × ConnectSlot) := []
  /-- `NVT_CONNECT_Q`: slots in order of arrival -/
  connectQ : List Nat := []
  /-- controllers whose teardown keeps `NVT_CTRL_CMD_STAT.BUSY` set, by unit -/
  cmdBusy : List (Nat × Nat) := []
  /-- ANA state last seen and its changes (R450) -/
  anaSeen : Nat := 0
  anaCount : Nat := 0
  selftest : Option SelfTest := none
  stLog : List StResult := []
  /-- 512-byte units read and written by NVT, its read and write commands, and completions with MEDIA_INTEGRITY (R455) -/
  unitsRead : Nat := 0
  unitsWritten : Nat := 0
  reads : Nat := 0
  writes : Nat := 0
  mediaErrs : Nat := 0
  deriving DecidableEq, Repr

/-! ### Lumvas Direct Transport (chapter 11) -/

/-- A data packet sent and not yet covered by `CUM` or `SACK` (R478, R479). -/
structure LdtPkt where
  psn : Nat
  ptype : Nat
  msn : Nat
  mlen : Nat
  off : Nat
  len : Nat
  last : Bool := false
  addr : Nat := 0
  data : Nat := 0
  kgen : Nat := 0
  path : Nat := 0
  /-- beat and time of the last sending -/
  sentBeat : Nat := 0
  sentNs : Nat := 0
  sacked : Bool := false
  /-- its fast retransmission has been made -/
  fast : Bool := false
  again : Bool := false
  deriving DecidableEq, Repr

/-- A message being sent (R480, R482, R484, R486). -/
structure LdtTx where
  msn : Nat
  ptype : Nat
  mlen : Nat
  addr : Nat := 0
  data : Nat := 0
  /-- offsets of the segments cut into packets; of a WRITE message whose blocks come one by one, the blocks that are in (R138, R494) -/
  cuts : List Nat := []
  blocksIn : Option (List Nat) := none
  begun : Bool := false
  /-- beat of its first packet, or of the last expiry, and expiries -/
  beat : Nat := 0
  expiries : Nat := 0
  deriving DecidableEq, Repr

/-- A message being received (R481, R485). -/
structure LdtRx where
  ptype : Nat := 0
  mlen : Nat := 0
  /-- segments held: offset, length, content -/
  segs : List (Nat × Nat × Nat) := []
  lastBeat : Nat := 0
  done : Bool := false
  failed : Bool := false
  /-- of a READ_REQ: source address and memory key -/
  addr : Nat := 0
  key : Nat := 0
  deriving DecidableEq, Repr

/-- A READ_REQ of the head that awaits its READ_RESP: the command, the offset in its data, its length; `landed` are the
blocks of it that have landed. -/
structure LdtReq where
  tag : Nat
  off : Nat
  len : Nat
  landed : List Nat := []
  deriving DecidableEq, Repr

/-- A path of a connection (R488 to R490). -/
structure LdtPath where
  idx : Nat := 0
  /-- beat at which a disabled path returns -/
  offUntil : Option Nat := none
  offSince : Nat := 0
  rtoRun : Nat := 0
  decBeat : Option Nat := none
  /-- beat from which no CE report has come, and whether packets were carried since -/
  quietBeat : Nat := 0
  used : Bool := false
  /-- the rate allows no packet before this time -/
  nextNs : Nat := 0
  /-- CE-marked packets received since the last ACK sent -/
  ce : Nat := 0
  deriving DecidableEq, Repr

/-- A verified or unverified packet as it waits for its connection's context (R491): `PTYPE` (CTRL subtypes are 0x61 to
0x63), header, further fields, payload. -/
structure LdtIn where
  kind : Nat
  hdr : LdtHdr
  args : List Nat := []
  data : Nat := 0
  deriving DecidableEq, Repr

/-- An LDT connection. -/
structure LdtConn where
  /-- Table 11.6 -/
  state : Nat := 0
  reuse : Nat := 0
  initiator : Bool := false
  /-- the other end: its address, and for an initiator the head it is, the next-hop entries of the paths and the secrets
  of the set-up -/
  peerAddr : Nat := 0
  hid : Nat := 0
  hops : List Nat := []
  secret : Nat := 0
  iface : Nat := 0
  v6 : Bool := false
  scid : Nat := 0
  sportBase : Nat := 0
  rport : Nat := 0
  /-- the UDP port of the other end: that its HELLO names, or that a head announces (R543) -/
  dport : Nat := 0
  paths : Nat := 0
  seg : Nat := 0
  qdepth : Nat := 0
  mkey : Nat := 0
  nonce : Nat := 0
  slot : Option Nat := none
  hello : List Nat := []
  resp : List Nat := []
  prk : Nat := 0
  th : Nat := 0
  grants : List Nat := []
  /-- the initiator's signature keys (Table 11.7) -/
  sigKeys : List Nat := []
  /-- current generation of both directions of this end, and of what it sends; beat it began; a re-key is ordered -/
  kgen : Nat := 0
  txGen : Nat := 0
  genBeat : Nat := 0
  rekey : Bool := false
  /-- a verified packet of the sending generation has come -/
  heard : Bool := true
  txPsn : Nat := 0
  ackPsn : Nat := 0
  txMsn : Nat := 0
  pkts : List LdtPkt := []
  msgs : List LdtTx := []
  sends : Nat := 0
  peerLimit : Nat := 0
  /-- `CUM` + 1, and PSNs above it received -/
  rxNext : Nat := 0
  rxSet : List Nat := []
  rxMsgs : List (Nat × LdtRx) := []
  /-- READ_RESP messages, by the MSN of their READ_REQ -/
  rxResps : List (Nat × LdtRx) := []
  rxReport : Nat := 0
  sendsIn : Nat := 0
  completed : Nat := 0
  ownLimit : Nat := 0
  reads : List (Nat × LdtReq) := []
  /-- messages reported and not yet taken by LBC or FAB: length and content -/
  inbox : List (Nat × Nat) := []
  /-- data placed by WRITE messages at an initiator: address, length, content -/
  placed : List (Nat × Nat × Nat) := []
  lastTx : Nat := 0
  lastRx : Nat := 0
  /-- data packets since the last ACK, and beat of the first of them -/
  ackCnt : Nat := 0
  ackBeat : Nat := 0
  pathSt : List (Nat × LdtPath) := []
  nextPath : Nat := 0
  /-- smoothed round-trip time, ns -/
  srtt : Nat := 0
  stall : Nat := 0
  sentBeat : Option Nat := none
  pendBeat : Option Nat := none
  stateBeat : Nat := 0
  /-- context on chip, its last use, packets in the miss queue and time the fetch began -/
  resident : Bool := false
  useNs : Nat := 0
  missQ : List LdtIn := []
  missNs : Nat := 0
  deriving DecidableEq, Repr

/-- An accept slot (R467). -/
structure AcceptSlot where
  conn : Nat
  credLen : Nat
  beat : Nat
  /-- accepted, and waits for random bits (R595) -/
  yes : Bool := false
  deriving DecidableEq, Repr

/-- LDT and LBC. -/
structure LdtSt where
  /-- connections by number; a CLOSED one keeps its reuse count -/
  conns : List (Nat × LdtConn) := []
  /-- accept slots in use, by unit * 64 + slot -/
  slots : List (Nat × AcceptSlot) := []
  /-- `LDT_ACCEPT_Q`: slots in order -/
  acceptQ : List Nat := []
  deriving DecidableEq, Repr


/-! ### Modes, leases and the peer (chapter 12) -/

/-- The head's modes with the codes of `LSE_MODE.MODE`; OFF has code 0 here, which no running head reads. -/
inductive Mode where
  | off | boot | service | paired | solo | doze | vault | fenced
  deriving DecidableEq, Repr

/-- What the lease logic keeps in AON beside `LSE_SHARD` (R515 to R518). -/
structure Lease where
  /-- L, in beats -/
  len : Nat := 0
  /-- K1 count at which the first copy of the granted request left -/
  start : Nat := 0
  /-- request awaiting its answer: 0 none, else the frame `TYPE` -/
  req : Nat := 0
  purpose : Nat := 0
  reqId : Nat := 0
  reqStart : Nat := 0
  reqBeat : Nat := 0
  /-- beat at which a WAIT runs out -/
  waitUntil : Option Nat := none
  deriving DecidableEq, Repr

/-- A message to the peer that waits, or lies in flits not all acknowledged (R509, R510): class, `CSEQ`, type, slots,
arguments, and the sequence of its last flit. -/
structure PeerMsg where
  cls : Nat
  cseq : Nat
  mtype : Nat
  slots : Nat
  args : List Nat
  last : Nat := 0
  /-- it goes out again on the other bundle as well (R510) -/
  again : Bool := false
  deriving DecidableEq, Repr

/-- The header of a message of the peer (Table 12.4): `MTYPE`, `CLASS`, `CSEQ`, and its slots with the header's. -/
structure PeerHdr where
  mtype : Nat
  cls : Nat
  cseq : Nat
  slots : Nat
  deriving DecidableEq, Repr

/-- One end of a peer bundle (R505 to R510). -/
structure Bundle where
  txSeq : Nat := 0
  rxExp : Nat := 0
  /-- oldest unacknowledged flit -/
  ackedTo : Nat := 0
  nakSent : Bool := false
  badRun : Nat := 0
  timerRun : Nat := 0
  /-- messages not wholly in acknowledged flits, oldest first -/
  inFlight : List PeerMsg := []
  /-- DATA flits held for replay: number, `START`, slots (R319, R508) -/
  held : List (Nat × Nat × Nat) := []
  /-- flits sent since the last SKIP flit (R313) -/
  sent : Nat := 0
  lastFlitBeat : Nat := 0
  /-- beat of the last advance of the acknowledged flits, and of the last change of state -/
  ackBeat : Nat := 0
  stateBeat : Nat := 0
  /-- deskew of each lane, UI -/
  skews : List Nat := []
  /-- the message whose slots go on in the next DATA flit, with the slots it lacks -/
  rxMsg : Option (PeerHdr × Nat) := none
  /-- states of the scramblers (R317, R507) -/
  scrTx : Nat := 2147483647
  scrRx : Nat := 2147483647
  deriving DecidableEq, Repr

/-- Phases of a planned hand-over or hand-back. -/
inductive HandPhase where
  | none | handoverDraining | handbackDraining | handbackReleased
  deriving DecidableEq, Repr

/-- LSE and PRL. -/
structure PairSt where
  /-- side of this head in its pair: 0 A, 1 B (log entry 11) -/
  side : Nat := 0
  arrayId : Nat := 0
  leases : List (Nat × Lease) := []
  reqCount : Nat := 0
  serialOkBeat : Option Nat := none
  udpOkBeat : Option Nat := none
  bootBeat : Nat := 0
  /-- the beat in which the peer was last reachable -/
  downBeat : Nat := 0
  homeGranted : Bool := false
  /-- epoch the head last held of each shard is in `LSE_SHARD`; answers of SET_OWNER awaited, by brick -/
  ownersLeft : List Nat := []
  /-- bricks whose OWNER a standby audit awaits -/
  auditLeft : List Nat := []
  hand : HandPhase := .none
  /-- beat of the GRANT that began a hand-back (Table 18.4, metric 35) -/
  handBeat : Nat := 0
  handDeadline : Nat := 0
  tkoStart : Nat := 0
  tkoWaitEnd : Nat := 0
  lastProbe : Nat := 0
  lastReport : Nat := 0
  lastRub : Nat := 0
  rubPending : Nat := 0
  rubSentBeat : Nat := 0
  rubFailed : Nat := 0
  bundles : List (Nat × Bundle) := []
  /-- messages that wait for credits or a bundle, oldest first, and credits in use by class (R509) -/
  waitQ : List PeerMsg := []
  credUsed : List (Nat × Nat) := []
  helloMatched : Bool := false
  lastModeBeat : Option Nat := none
  lastModeSent : Nat := 0
  everReachable : Bool := false
  /-- settings format the peer last told -/
  peerFormat : Nat := 0
  /-- the peer is lost and the takeover has not ended (R514, Table 10.10) -/
  lost : Bool := false
  /-- the beat up to which every ENTRY notice of the peer is held (R264) -/
  entryBeat : Nat := 0
  /-- later beats for which one is held -/
  entryMore : List Nat := []
  /-- sequence of the next message sent by class, and of the messages delivered: by class, all below a number and those
  above it -/
  cseqTx : List (Nat × Nat) := []
  delivered : List (Nat × Nat × List Nat) := []
  /-- the receive slots of each class have been advertised to the peer (R509) -/
  advertised : Bool := false
  /-- the standing hold of pool 5 for the peer's ring is in force (R175) -/
  hold : Bool := false
  /-- what follows a hand-over: 0 SERVICE only, 1 an activation (R628), 2 the reset of a trial (R631) -/
  after : Nat := 0
  /-- `REQ_ID` of the latest PROBE or REPORT, and the transports whose answer an audit awaits -/
  probeId : Nat := 0
  /-- host ports the head last reported as up, and reachability and mode with them (R523) -/
  reported : Option Nat := none
  modeSent : Option (List Nat) := none
  /-- next brick the standby audit samples -/
  rubNext : Nat := 0
  peerEpochA : Nat := 0
  peerEpochB : Nat := 0
  peerHolds : List Nat := []
  /-- pins the peer holds here: (band or slot kind, id) -/
  peerPins : List (Nat × Nat) := []
  ownPins : List (Nat × Nat) := []
  /-- ENTRY notices of the peer: beat and slots -/
  peerEntries : List (Nat × List Nat) := []
  deriving DecidableEq, Repr
/-! ### The fabric and replication (chapter 13) -/

/-- A member of the fabric (R539). -/
structure FabMember where
  /-- 1 claiming, 2 live, 3 lost -/
  st : Nat := 1
  home : Bool := false
  arrayId : Nat := 0
  chip : Nat := 0
  held : Nat := 0
  ldtPort : Nat := 0
  v4 : Option Nat := none
  v6 : Option Nat := none
  beat : Nat := 0
  /-- `FAB_NO_ROUTE` has been raised for it (R544) -/
  noRoute : Bool := false
  deriving DecidableEq, Repr

/-- A route in force (Table 13.2). -/
structure RouteEnt where
  lo : Nat
  hi : Nat
  npath : Nat
  first : Nat
  deriving DecidableEq, Repr

/-- What a command that this head sent to another is for. -/
inductive HeadWhat where
  | fetch (key : Nat)
  | poll (link : Nat)
  | recipe (link : Nat)
  | chunks (link : Nat)
  | repDone (link : Nat)
  | sync (id : Nat)
  | abort
  deriving DecidableEq, Repr

/-- A command of this head to another: its capsule, and the connection it went out on. -/
structure HeadCmd where
  hid : Nat
  what : HeadWhat
  words : List Nat
  buf : Nat := 0
  /-- what this head answers to a READ_REQ of the buffer, and its length -/
  data : Nat := 0
  dataLen : Nat := 0
  conn : Option Nat := none
  beat : Nat := 0
  /-- its connection waits for random bits to open (R595) -/
  waits : Bool := false
  deriving DecidableEq, Repr

/-- A foreign fetch in progress, by `vat` * 2^40 + `CHUNK` (R550). -/
structure FabFetch where
  vol : Nat
  lba : Nat
  index : Nat
  /-- heads still to be asked, in order (R549) -/
  left : List Nat := []
  ctag : Nat := 0
  beat : Nat := 0
  /-- the copy has come and no slice has verified it yet -/
  arrived : Bool := false
  deriving DecidableEq, Repr

/-- A cycle of a target link (R559). -/
structure RepCycle where
  /-- snapshot applied by it -/
  snap : Nat
  /-- which recipe buffer it has -/
  idx : Nat := 0
  /-- 0 a recipe is asked, 1 entries are being decided and stored, 2 chunks are asked, 3 the snapshot is taken, 4 REP_DONE sent -/
  stage : Nat := 0
  page : Nat := 0
  /-- next page as the source answered; none when no page is left -/
  next : Option Nat := none
  retries : Nat := 0
  /-- fingerprints decided in this cycle, with the chunk that holds them -/
  known : List (Nat × Nat) := []
  /-- store jobs whose chunk records are asked -/
  asked : List Nat := []
  deriving DecidableEq, Repr

/-- A loaded link (Table 13.6). -/
structure RepLink where
  target : Bool
  mode : Nat
  localVol : Nat
  remoteVol : Nat
  remoteHid : Nat
  period : Nat := 0
  /-- `REP_LINK_VIEW.STATE` -/
  st : Nat := 1
  offered : Option Nat := none
  base : Option Nat := none
  applied : Option Nat := none
  pollBeat : Nat := 0
  polling : Bool := false
  cursor : Nat := 0
  cycle : Option RepCycle := none
  /-- a snapshot of this head's own is being taken to be offered -/
  snapWait : Bool := false
  deriving DecidableEq, Repr

/-- A command of a synchronous link (R562 to R564). -/
structure SyncCmd where
  link : Nat
  /-- the host's request -/
  tag : Nat
  vol : Nat
  op : Nat
  lba : Nat
  blocks : Nat
  ranges : List (Nat × Nat) := []
  recs : List Nat := []
  ctag : Option Nat := none
  sentBeat : Nat := 0
  deriving DecidableEq, Repr

/-- FAB and REP. -/
structure FabSt where
  members : List (Nat × FabMember) := []
  /-- last `SEQ` accepted from each `CHIP` (R538) -/
  seqs : List (Nat × Nat) := []
  txSeq : Nat := 0
  /-- claim hellos sent, hello periods since the claim completed, and beat of the last hello -/
  claims : Nat := 0
  held : Nat := 0
  helloBeat : Nat := 0
  /-- the member that won a conflict stands until a new `FAB_ID` is written (R541) -/
  idWritten : Bool := true
  routes : List RouteEnt := []
  /-- next-hop entries in force, by number: words 0 to 3 of Table 13.3 -/
  hops : List (Nat × (Nat × Nat × Nat × Nat)) := []
  /-- home pairs, seed and replicas of the placement copy in force, and of the one being computed -/
  homes : List Nat := []
  seed : Nat := 0
  replicas : Nat := 0
  seen : List Nat := []
  holdSince : Option Nat := none
  computing : Option (List Nat × Nat) := none
  fetches : List (Nat × FabFetch) := []
  nextTag : Nat := 0
  out : List (Nat × HeadCmd) := []
  /-- connections to heads: HID, connection, beat of last use -/
  conns : List (Nat × Nat × Nat) := []
  /-- links by entry -/
  links : List (Nat × RepLink) := []
  /-- commands of synchronous links (R562 to R564) -/
  sync : List (Nat × SyncCmd) := []
  nextSync : Nat := 0
  /-- cursors of replication cycles as the journal holds them: volume, snapshot and page (R561) -/
  cursors : List (Nat × (Nat × Nat)) := []
  deriving DecidableEq, Repr

/-! ### Security, keys and measurement (chapter 14) -/

/-- A key that KEY holds under a handle (R358, R585 to R587). -/
structure KeyH where
  /-- its removal has been requested: every check treats it as absent (R234, R358) -/
  removing : Bool := false
  /-- `USE` of a slot: WRAP, HMAC, WITNESS, FABRIC, PERSIST from bit 4 down -/
  use : Nat := 0
  /-- a 64-byte key -/
  long : Bool := false
  value : Nat := 0
  uses : Nat := 0
  deriving DecidableEq, Repr

/-- A measurement register (R578). -/
structure Msr where
  value : Nat := 0
  locked : Bool := false
  extends_ : Nat := 0
  deriving DecidableEq, Repr

/-- The fuses that are written after Derist test, and the debug fuses (Table 14.1). -/
structure Fuses where
  rootI : Option Nat := none
  svnD : Nat := 0
  svnI : Nat := 0
  debugDisable : Bool := false
  debugRoot : Bool := false
  /-- a row was corrected (R570) -/
  corrected : Bool := false
  deriving DecidableEq, Repr

/-- SEC, KEY and MSR. -/
structure SecSt where
  /-- JTAG is secure after a signed debug unlock (R95, R598) -/
  jtagSecure : Bool := false
  /-- keys by handle -/
  handles : List (Nat × KeyH) := []
  /-- outputs drawn from the random generator -/
  drbgCount : Nat := 0
  reseedBeat : Nat := 0
  msr : List (Nat × Msr) := []
  fuses : Fuses := {}
  /-- the pair key, the vault and identity keys derived, the store key drawn at BOOT (Table 14.4) -/
  pairKey : Option Nat := none
  devKeys : Bool := false
  storeKey : Option Nat := none
  /-- access to `UDS` is closed by a debug unlock (R569) -/
  udsClosed : Bool := false
  /-- start-up entropy tests failed in this boot (R594) -/
  entFails : Nat := 0
  /-- loader copies abandoned in this boot (R572) -/
  copiesBad : List Nat := []
  /-- slots for which KEY has raised `KEY_SLOT_EMPTY` for LSE or FAB -/
  emptySaid : List Nat := []
  /-- the key service request that runs as a keyed HMAC: its command tag -/
  hmacTag : Option Nat := none
  /-- the fuse command that may be programmed: operation and value (R571) -/
  fuseGrant : Option (Nat × Nat) := none
  /-- nonce of the debug challenge in force -/
  dbgNonce : Option Nat := none
  deriving DecidableEq, Repr


/-! ### Mailboxes and the services behind them (chapters 14 to 16) -/

/-- MBX beyond its registers, and the requests the secure cores have taken: (channel, word); 128 is no channel. -/
structure MbxSt where
  /-- epochs of the masters (R606) -/
  epochs : List (Nat × Nat) := []
  /-- key service requests, the first one running -/
  keyQ : List (Nat × Nat) := []
  /-- update service requests -/
  updQ : List (Nat × Nat) := []
  deriving DecidableEq, Repr

/-! ### The boot flash, updates and settings (chapter 16) -/

/-- A bank of the boot flash: its descriptor marks and blocks (R624). -/
structure Bank where
  /-- 0 EMPTY, 1 INCOMPLETE, 2 DOWNLOADED, 3 VERIFIED, 4 FAILED -/
  state : Nat := 0
  id : Nat := 0
  blocks : Nat := 0
  /-- the content key, which the descriptor holds wrapped under the vault key -/
  ckey : Nat := 0
  /-- blocks with a progress byte -/
  done : Nat := 0
  /-- content of the blocks programmed, by number, first byte least significant -/
  data : List (Nat × Nat) := []
  svnD : Nat := 0
  svnI : Nat := 0
  format : Nat := 0
  deriving DecidableEq, Repr

/-- A pointer record (Table 16.5). -/
structure Ptr where
  seq : Nat := 0
  curBank : Nat := 0
  curSlot : Nat := 0
  next : Option (Nat × Nat) := none
  tries : Nat := 0
  soloOk : Bool := false
  autoConfirm : Bool := false
  fellBack : Bool := false
  nextId : Nat := 0
  deriving DecidableEq, Repr

/-- A settings slot (chapter 16): header and items. -/
structure Settings where
  ok : Bool := true
  format : Nat := 0
  seq : Nat := 0
  changes : Nat := 0
  sourceSeq : Nat := 0
  /-- (identity, value, bytes) -/
  items : List (Nat × Nat × Nat) := []
  deriving DecidableEq, Repr

/-- The open session of the Kenlum Service Link (R636). -/
structure KslSession where
  id : Nat
  scope : Nat
  key : Nat
  lastBeat : Nat
  deriving DecidableEq, Repr

/-- The boot flash, UPD and SVC. -/
structure FlashSt where
  banks : List (Nat × Bank) := []
  /-- the pointer record in force (R626) -/
  ptr : Ptr := {}
  /-- the record that each pointer sector holds, byte by byte (Table 16.5) -/
  sectors : List (Nat × List Nat) := []
  slots : List (Nat × Settings) := []
  /-- recovery loader copies rewritten since manufacture: copy, `BUNDLE_ID` of the bundle it came from -/
  loaders : List (Nat × Nat) := []
  /-- bank whose image the recovery loader has chosen in this boot, once it has passed (R629) -/
  chosen : Option Nat := none
  bootCount : Nat := 0
  /-- settings slot in use in this boot -/
  slot : Nat := 0
  trial : Bool := false
  deadline : Nat := 0
  migrated : Bool := false
  /-- schedule: time in ms TAI, window, and whether `UPD_ACTIVATE_DEFERRED` has been raised -/
  sched : Option (Nat × Nat × Bool) := none
  schedSolo : Bool := false
  schedAuto : Bool := false
  /-- activation waits for the hand-over of R628 step 1 -/
  activating : Bool := false
  /-- security versions owed to the fuses after a confirmation (R577) -/
  owedD : Nat := 0
  owedI : Nat := 0
  /-- source of the staging: 0 none, 1 update service, 2 KSL -/
  source : Nat := 0
  nonce : Option Nat := none
  /-- the `SEQ` of a challenge request that waits for random bits (R595) -/
  chalSeq : Option Nat := none
  session : Option KslSession := none
  /-- responses sent since the last challenge: `SEQ`, then what the response carried -/
  resps : List (Nat × List Nat) := []
  /-- requests received over the link and not yet run: `SEQ`, `OP`, arguments -/
  kslQ : List (Nat × Nat × List Nat) := []
  /-- DATA frames received of blocks in flight: (block, frame, content) -/
  frames : List (Nat × Nat × Nat) := []
  /-- the KSL `BLOCKS` request running: next block, blocks left, `SEQ` -/
  kslBlocks : Option (Nat × Nat × Nat) := none
  deriving DecidableEq, Repr

/-! ### Power domains and wake (chapter 17) -/

/-- A request or sequence of PWR that runs (R641, R653): the domain (31 for DOZE), its target state and how far it is. -/
structure PwrReq where
  dom : Nat
  target : Nat
  /-- beat at which quiescing began -/
  since : Nat := 0
  deriving DecidableEq, Repr

/-- PWR, CLK and AON beyond their registers. -/
structure PwrSt where
  req : Option PwrReq := none
  /-- an exit that runs: domain, and whether a request asked for it -/
  exit : Option (Nat × Bool) := none
  /-- domains that a wake source brings back once PWR is free (R647) -/
  domWake : List Nat := []
  /-- units whose `QUIESCE` PWR set and has not cleared, by domain (R643) -/
  quiet : List (Nat × List Nat) := []
  /-- the wake source that ends the DOZE, and whether it was latched and replayed (R647) -/
  woken : Option (Nat × Bool) := none
  /-- states of the domains before the DOZE -/
  prior : List (Nat × Nat) := []
  /-- beat at which the DOZE exit began -/
  wakeBeat : Nat := 0
  /-- the exit was late and has been reported -/
  slowSaid : Bool := false
  /-- beats spent, by domain * 4 + state, and the beat of each domain's last change in full -/
  spent : List (Nat × Nat) := []
  since : List (Nat × Nat) := []
  /-- references out of tolerance, in the order of R662, and the beat from which each was back within it -/
  refBad : List Nat := []
  /-- PLLs without lock -/
  pllBad : List Nat := []
  /-- P0 and the oscillator stand still for DOZE: the time base as captured (R32) -/
  capture : Option Nat := none
  /-- units whose registers all read as at reset since a `RESET` or their domain's OFF, till they are enabled again
  (R76, R82; log entry 161) -/
  blank : List Nat := []
  deriving DecidableEq, Repr

/-! ### Events and health (chapter 18) -/

/-- A metric record of the event recorder (Table 18.5). -/
structure EvrRec where
  bins : List (Nat × Nat) := []
  count : Nat := 0
  sum : Nat := 0
  minV : Nat := 0
  minBeat : Nat := 0
  maxV : Nat := 0
  maxBeat : Nat := 0
  deriving DecidableEq, Repr

/-- An entry of the clear log (R682). -/
structure ClearEnt where
  seq : Nat
  root : Nat
  beat : Nat
  boot : Nat
  first : Nat
  last : Nat
  hash : List Nat
  deriving DecidableEq, Repr

/-- What the recorder holds of one epoch: its records of metrics with samples, and `GAP` (R677). -/
structure EvrEpoch where
  gap : Bool := false
  recs : List (Nat × EvrRec) := []
  deriving DecidableEq, Repr

/-- ERQ, EVR and AGE. -/
structure HealthSt where
  /-- beats at which the FATAL entries to FENCED are judged (R673) -/
  fatalDue : List Nat := []
  /-- a FATAL raise halted the boot chain (R671) -/
  bootHalted : Bool := false
  /-- ERQ_HEAD_FIRST -/
  headFirst : ErrCap := {}
  /-- metric records of the epoch in progress -/
  cur : List (Nat × EvrRec) := []
  /-- the epoch in progress is lost (R678); its records carry `GAP` -/
  lost : Bool := false
  gap : Bool := false
  /-- permanent area, by epoch -/
  perm : List (Nat × EvrEpoch) := []
  /-- circulating area, by slot: epoch and what is held of it -/
  circ : List (Nat × Nat × EvrEpoch) := []
  clearLog : List ClearEnt := []
  /-- the words that `EVR_WIN` shows while `WIN_READY` is 1 -/
  win : List Nat := []
  /-- the clear nonce in force -/
  nonce : Option Nat := none
  /-- a read of `EVR_CLR_CHAL[0]` waits for random bits (R595) -/
  chalWait : Bool := false
  /-- a request whose token was accepted waits for the clear -/
  clearBusy : Bool := false
  /-- last readings of the die sensors and the HBM stacks, in °C -/
  dieTemp : List (Nat × Int) := []
  hbmTemp : List (Nat × Int) := []
  /-- warnings standing: die sensor n as n, HBM stack n as 20 + n -/
  warned : List Nat := []
  deriving DecidableEq, Repr

/-! ### Pins, JTAG and test (chapter 19) -/

/-- A lane test of one quad (R710 to R713). -/
structure TstSt where
  /-- beat at which `RUN` was set -/
  runBeat : Option Nat := none
  /-- time base at which a lane's checker locked, or its counters were last brought up -/
  lockTb : List (Nat × Nat) := []
  /-- address, lane and dwell of the eye scan that runs -/
  eye : Option (Nat × Nat × Nat) := none
  deriving DecidableEq, Repr

/-- Pins, resets in progress, the trip latch, the TAP and the lane tests. -/
structure PinSt where
  /-- a reset by the pin is in force -/
  porstLow : Bool := false
  srstLow : Bool := false
  /-- an internal reset is in progress (R721) -/
  internalHeld : Bool := false
  /-- the thermal trip holds the head (R707), and its latch in AON -/
  tripped : Bool := false
  tripLatch : Bool := false
  /-- TAP instruction register, and what boundary scan holds (R708) -/
  tapIr : Nat := 1
  scan : Nat := 0
  tests : List (Nat × TstSt) := []
  deriving DecidableEq, Repr

/-! ### The whole head -/

/-- The state of the head. -/
structure State where
  /-- register fields that differ from their reset values or have been written, by `Fld.key` -/
  fields : List (Nat × Nat) := []
  /-- shadowed L fields written and not yet committed, by `Fld.key` (R11, R77) -/
  shadows : List (Nat × Nat) := []
  /-- page headers, by slot -/
  pages : List (Nat × PageHdr) := []
  /-- enable and quiesce bits, by `unitKey` -/
  units : List (Nat × BlockUnit) := []
  /-- HBM and core-local SRAM, by physical address (R61) -/
  mem : List Host.Cell := []
  time : TimeSt := {}
  irt : IrtSt := {}
  adm : AdmSt := {}
  read : ReadSt := {}
  write : WriteSt := {}
  vat : VatSt := {}
  ftl : FtlSt := {}
  media : MediaSt := {}
  pair : PairSt := {}
  health : HealthSt := {}
  slices : List (Nat × SliceSt) := []
  mbx : MbxSt := {}
  host : HostSt := {}
  ldt : LdtSt := {}
  fab : FabSt := {}
  flash : FlashSt := {}
  sec : SecSt := {}
  pins : PinSt := {}
  pwr : PwrSt := {}
  /-- the model's own: data of the last control-window read (log entry 4) -/
  busData : Word := 0
  /-- the model's own: what has left the head, newest first (log entry 4) -/
  sent : List Out := []
  /-- the model's own: how many free values have been drawn (log entry 5) -/
  freshCount : Nat := 0
  /-- commands waiting, first in first out -/
  pending : List Instr := []
  deriving DecidableEq, Repr

/-- Why the machine stops with a fault. No meaning of this model faults (log entry 3). -/
inductive Fault where
  /-- Raised by no meaning. Safe: the machine never stops here. -/
  | unreachable
  deriving DecidableEq, Repr

/-- Why a command is refused. -/
inductive Refusal where
  /-- Raised by the arm of a command that has no meaning yet. Safe: no claim is made of such a command. -/
  | notModelled (mnemonic : String)
  deriving DecidableEq, Repr

/-- The head right after reset: every register field at its reset value, memory and the queue empty, all pages and
units at reset. -/
def State.reset : State := {}

end Sys2Proof.Machine
end

