-- ==== Sys2Proof/Machine/Codes.lean ====
section
/-! DEFINITION. The codes of chapters 6 to 8 and 12: the map check (R252), GF(2^8), the parity of a row (R377), the Reed-Solomon
code of a flit and its scrambler (R316, R317). -/

namespace Sys2Proof.Machine

/-! ### The map check (R252, R253, Table 6.2) -/

/-- One bit of CRC-16 with polynomial 0x1021, most significant bit first. -/
def crc16Bit (c : Nat) : Nat := if 32768 ≤ c then (2 * c % 65536) ^^^ 0x1021 else 2 * c

/-- One byte of it. -/
def crc16Byte (c b : Nat) : Nat := (List.range 8).foldl (fun c _ => crc16Bit c) (c ^^^ (b * 256))

/-- The map check of entry bits 63:16 for an LBA: six bytes and five, each most significant first (R252). -/
def mapCheck (high lba : Nat) : Nat :=
  (((List.range 6).map (fun i => high / 256 ^ (5 - i) % 256)) ++ ((List.range 5).map (fun i => lba / 256 ^ (4 - i) % 256))).foldl crc16Byte 0xFFFF

/-- Bits 63:16 of a map entry (Table 6.2). -/
def MapEnt.high (e : MapEnt) : Nat := e.chunk * 2 ^ 8 + e.index * 2 ^ 4 + b2n e.z * 8 + b2n e.u * 4 + b2n e.f * 2

/-- A map entry as its page holds it. -/
def MapEnt.word (e : MapEnt) (lba : Nat) : Nat := e.high * 65536 + mapCheck e.high lba

/-- A 64-bit word passes the map check of an LBA: its `CHECK` fits, and no two of Z, U and F exclude each other (R252, R253). -/
def mapWordOk (lba w : Nat) : Bool :=
  w % 65536 == mapCheck (w / 65536) lba && !(bitOf w 19 && bitOf w 18) && !(bitOf w 17 && (bitOf w 19 || bitOf w 18))

/-! ### GF(2^8) with x^8 + x^4 + x^3 + x^2 + 1 (R316, R377) -/

/-- A field element times 0x02. -/
def gfX (a : Nat) : Nat := if 128 ≤ a then (2 * a) ^^^ 0x11D else 2 * a

/-- The product of two field elements. -/
def gfMul (a b : Nat) : Nat :=
  ((List.range 8).foldl (fun (q : Nat × Nat) i => (if bitOf b i then q.1 ^^^ q.2 else q.1, gfX q.2)) (0, a)).1

/-- The power 0x02^n. -/
def gfPow (n : Nat) : Nat := (List.range n).foldl (fun a _ => gfX a) 1

/-- The inverse of an element; 0 has none. -/
def gfInv (a : Nat) : Nat := ((List.range 256).find? (fun b => gfMul a b == 1)).getD 0

/-! ### The parity of a row (R377) -/

/-- Byte of parity column D + j over the bytes of the data columns: the sum of g^(i × j) × d_i. -/
def parityByte (j : Nat) (d : List Nat) : Nat := (d.zipIdx).foldl (fun a (q : Nat × Nat) => a ^^^ gfMul (gfPow (q.2 * j % 255)) q.1) 0

/-- Parity column D + j of `n` bytes of data columns, each a number with byte 0 lowest. -/
def parityCol (n j : Nat) (cols : List Nat) : Nat :=
  (List.range n).foldl (fun v b => v + parityByte j (cols.map (fun c => c / 256 ^ b % 256)) * 256 ^ b) 0

/-- A byte of each missing data column from as many parity bytes, by elimination: rows are (coefficients, value). -/
def gfSolve : Nat → List (List Nat × Nat) → Option (List Nat)
  | 0, _ => some []
  | n + 1, rows =>
    match rows.find? (fun r => r.1.headD 0 != 0) with
    | none => none
    | some (cs, v) =>
      let k := gfInv (cs.headD 0)
      let cs := (cs.map (fun c => gfMul k c))
      let v := gfMul k v
      let rest := (rows.erase (rows.find? (fun r => r.1.headD 0 != 0) |>.getD ([], 0))).map (fun r =>
        let f := r.1.headD 0
        ((r.1.zip cs).map (fun q => q.1 ^^^ gfMul f q.2) |>.drop 1, r.2 ^^^ gfMul f v))
      match gfSolve n rest with
      | none => none
      | some xs => some ((((cs.drop 1).zip xs).foldl (fun a q => a ^^^ gfMul q.1 q.2) v) :: xs)

/-- The coefficient of data column `i` in column `c` of a row of D data columns. -/
def colCoef (d c i : Nat) : Nat := if c < d then b2n (c == i) else gfPow (i * (c - d) % 255)

/-- Byte of column `want` from D surviving columns of a row, each with its byte: `none` where they do not determine it. -/
def rebuildByte (d want : Nat) (have_ : List (Nat × Nat)) : Option Nat :=
  (gfSolve d (have_.map (fun q => ((List.range d).map (fun i => colCoef d q.1 i), q.2)))).map (fun xs =>
    (xs.zipIdx).foldl (fun a (q : Nat × Nat) => a ^^^ gfMul (colCoef d want q.2) q.1) 0)

/-- A rebuild job is sound: at least D survivors, at most P missing columns, and no column twice (R379). -/
def erasurePattern (d p : Nat) (surv miss : List Nat) : Bool :=
  decide (d ≤ surv.length) && decide (miss.length ≤ p) && decide ((surv ++ miss).Nodup)

/-! ### The Reed-Solomon code of a flit (R316, R507) -/

/-- One symbol through the division by (x − α^0)(x − α^1)(x − α^2)(x − α^3); the register holds the highest degree first. -/
def rsStep (r : Nat × Nat × Nat × Nat) (d : Nat) : Nat × Nat × Nat × Nat :=
  let f := d ^^^ r.1
  (r.2.1 ^^^ gfMul f 15, r.2.2.1 ^^^ gfMul f 54, r.2.2.2 ^^^ gfMul f 120, gfMul f 64)

/-- The four parity symbols of data symbols, highest degree first. -/
def rsParity (data : List Nat) : List Nat :=
  let r := data.foldl rsStep (0, 0, 0, 0)
  [r.1, r.2.1, r.2.2.1, r.2.2.2]

/-- Syndrome `i` of a codeword. -/
def rsSyn (i : Nat) (c : List Nat) : Nat := c.foldl (fun a s => gfMul a (gfPow i) ^^^ s) 0

/-- Add `e` to the symbol of degree `p` of a codeword. -/
def rsFix (c : List Nat) (p e : Nat) : List Nat := (c.zipIdx).map (fun q => if q.2 + p + 1 = c.length then q.1 ^^^ e else q.1)

/-- Correct a codeword with up to 2 byte errors: the codeword and the errors corrected, or none (R316). -/
def rsDecode (c : List Nat) : Option (List Nat × Nat) :=
  let s0 := rsSyn 0 c
  let s1 := rsSyn 1 c
  let s2 := rsSyn 2 c
  let s3 := rsSyn 3 c
  let at_ (x : Nat) : Option Nat := (List.range c.length).find? (fun p => gfPow p == x)
  if s0 = 0 ∧ s1 = 0 ∧ s2 = 0 ∧ s3 = 0 then some (c, 0)
  else if s0 ≠ 0 ∧ gfMul s1 s1 = gfMul s0 s2 ∧ gfMul s1 s2 = gfMul s0 s3 then
    (at_ (gfMul s1 (gfInv s0))).map (fun p => (rsFix c p s0, 1))
  else
    let k := gfInv (gfMul s1 s1 ^^^ gfMul s0 s2)
    let a := gfMul k (gfMul s1 s2 ^^^ gfMul s0 s3)
    let b := gfMul k (gfMul s1 s3 ^^^ gfMul s2 s2)
    match (List.range c.length).filter (fun p => gfMul (gfPow p) (gfPow p) ^^^ gfMul a (gfPow p) ^^^ b == 0) with
    | [p, q] =>
      let e := gfMul (gfInv (gfPow p ^^^ gfPow q)) (s1 ^^^ gfMul s0 (gfPow q))
      if k = 0 then none else some (rsFix (rsFix c p e) q (s0 ^^^ e), 2)
    | _ => none

/-- Codeword `j` of a flit of `n` interleaved codewords: 132 data bytes and 4 of parity (R316, R507). -/
def codeword (n j : Nat) (bytes : List Nat) : List Nat := (List.range 136).map (fun i => bytes.getD (n * i + j) 0)

/-- The bytes that a flit of `n` codewords carries once all of them decode, and the errors corrected. -/
def flitDecode (n : Nat) (bytes : List Nat) : Option (List Nat × Nat) :=
  ((List.range n).foldl (fun (acc : Option (List (List Nat) × Nat)) j => match acc, rsDecode (codeword n j bytes) with
    | some (l, k), some (c, e) => some (l ++ [c], k + e)
    | _, _ => none) (some ([], 0))).map (fun q => ((List.range (132 * n)).map (fun b => (q.1.getD (b % n) []).getD (b / n) 0), q.2))

/-- The bytes of a flit with its parity. -/
def flitEncode (n : Nat) (data : List Nat) : List Nat :=
  let ps := (List.range n).map (fun j => rsParity ((List.range 132).map (fun i => data.getD (n * i + j) 0)))
  data ++ (List.range 4).flatMap (fun k => ps.map (fun p => p.getD k 0))

/-! ### The scrambler (R317) -/

/-- The scrambler's state at the first bit of the first flit. -/
def scrStart : Nat := 2147483647

/-- The additive scrambler x^31 + x^28 + 1 over `n` bits: the bits it adds, least significant first, and its state after them
(log entry 128). -/
def scramble (n st : Nat) : Nat × Nat :=
  (List.range n).foldl (fun (q : Nat × Nat) i =>
    let b := (q.2 / 2 ^ 30 + q.2 / 2 ^ 27) % 2
    (q.1 + b * 2 ^ i, (2 * q.2 + b) % 2 ^ 31)) (0, st)

/-! ### CRC-32 and the header of a flit (Tables 7.1 and 7.3) -/

/-- One bit of CRC-32 as the Ethernet frame check sequence has it. -/
def crc32Bit (c : Nat) : Nat := if c % 2 = 1 then (c / 2) ^^^ 0xEDB88320 else c / 2

/-- CRC-32 of bytes. -/
def crc32 (bytes : List Nat) : Nat :=
  (bytes.foldl (fun c b => (List.range 8).foldl (fun c _ => crc32Bit c) (c ^^^ b)) 0xFFFFFFFF) ^^^ 0xFFFFFFFF

/-- Bytes of a number, least significant first. -/
def numBytes (n v : Nat) : List Nat := (List.range n).map (fun i => v / 256 ^ i % 256)

/-- The number of bytes, least significant first. -/
def bytesNum (l : List Nat) : Nat := l.foldr (fun b a => b + 256 * a) 0

/-- A media flit as a sender codes it: header, slots, `CRC` and parity (Table 7.3, R316). -/
def mediaFlit (typ start ackValid ack seq slots : Nat) : Nat :=
  let d := numBytes 4 (typ * 2 ^ 29 + start * 2 ^ 25 + ackValid * 2 ^ 24 + ack * 2 ^ 12 + seq) ++ numBytes 256 slots
  bytesNum (flitEncode 2 (d ++ numBytes 4 (crc32 d)))

/-- What a receiver finds in a descrambled flit: whether its codewords decode, whether its `CRC` matches, the bytes
corrected, and its header. -/
structure FlitIn where
  decoded : Bool
  crcOk : Bool
  corrected : Nat
  header : Nat
  deriving DecidableEq, Repr

/-- Decode and check a descrambled media flit (R316, R318). -/
def mediaFlitIn (flit : Nat) : FlitIn :=
  match flitDecode 2 (numBytes 272 flit) with
  | none => ⟨false, false, 0, 0⟩
  | some (d, k) => ⟨true, bytesNum (d.drop 260) == crc32 (d.take 260), k, bytesNum (d.take 4)⟩

/-! ### Peer flits (Tables 12.3 and 12.4, R506, R507) -/

/-- A peer flit as a sender codes it: header, credits, slots, `CRC` and parity. -/
def peerFlitOut (typ start ackValid ack seq credits slots : Nat) : Nat :=
  let d := numBytes 8 (typ * 2 ^ 61 + start * 2 ^ 55 + ackValid * 2 ^ 54 + ack * 2 ^ 32 + seq * 2 ^ 16) ++ numBytes 8 credits
    ++ numBytes 1024 slots ++ numBytes 12 0
  bytesNum (flitEncode 8 (d ++ numBytes 4 (crc32 d)))

/-- What a receiver finds in a descrambled peer flit: the judgement with header word 0, and the bytes up to its slots' end. -/
def peerFlitIn (flit : Nat) : FlitIn × List Nat :=
  match flitDecode 8 (numBytes 1088 flit) with
  | none => (⟨false, false, 0, 0⟩, [])
  | some (d, k) => (⟨true, bytesNum (d.drop 1052) == crc32 (d.take 1052), k, bytesNum (d.take 8)⟩, d.take 1040)

/-- The header that slot `k` of a flit's bytes holds. -/
def peerHdr (bytes : List Nat) (k : Nat) : PeerHdr :=
  let w0 := bytesNum ((bytes.drop (16 + 32 * k)).take 8)
  let w1 := bytesNum ((bytes.drop (24 + 32 * k)).take 8)
  ⟨w0 / 2 ^ 56 % 256, w0 / 2 ^ 53 % 8, w1 / 2 ^ 32 % 2 ^ 32, 1 + (w0 % 2 ^ 24 + 31) / 32⟩

/-- The messages that begin from slot `k` on: those that end in the flit, and the one that goes on after it with the slots it
still lacks. A header with `MTYPE` 0 is padding to the end. -/
def peerParse (bytes : List Nat) : Nat → Nat → List PeerHdr × Option (PeerHdr × Nat)
  | 0, _ => ([], none)
  | n + 1, k =>
    if 32 ≤ k then ([], none)
    else
      let h := peerHdr bytes k
      if h.mtype = 0 then ([], none)
      else if 32 < k + h.slots then ([], some (h, k + h.slots - 32))
      else
        let (l, r) := peerParse bytes n (k + h.slots)
        (h :: l, r)

/-- What a DATA flit completes after a message that goes on into it: messages begin at `START` (63: none). -/
def peerMsgs (bytes : List Nat) (start : Nat) (cur : Option (PeerHdr × Nat)) : List PeerHdr × Option (PeerHdr × Nat) :=
  match cur with
  | some (h, left) =>
    if 32 < left then ([], some (h, left - 32))
    else
      let (l, r) := if start < 32 then peerParse bytes 32 start else ([], none)
      (h :: l, r)
  | none => if start < 32 then peerParse bytes 32 start else ([], none)

end Sys2Proof.Machine
end

