-- ==== Sys2Proof/Config.lean ====
section
/-! DEFINITION. What an implementation fixes, what standards outside the spec compute, and the free values: constants
with no body, so that a claim about them holds whatever they are. -/

namespace Sys2Proof.Machine.Config

/-- A value the spec leaves open, a fresh one for each count of `State.freshCount` (log entry 5). -/
opaque freeValue : Nat → BitVec 64

/-- SHA-256 of a byte string (FIPS 180-4), as a 256-bit number, first digest byte most significant (log entry 6). -/
opaque sha256 : List Nat → BitVec 256

/-- SHA-384 of a byte string (FIPS 180-4). -/
opaque sha384 : List Nat → BitVec 384

/-- SHA-512 of a byte string (FIPS 180-4). -/
opaque sha512 : List Nat → BitVec 512

/-- HMAC under a key (FIPS 198-1): key, algorithm code, data. -/
opaque hmac : Nat → Nat → List Nat → BitVec 512

/-- The value of 64-bit word `k` of the `n`-th output of the head's random generator (SP 800-90A; log entry 6). -/
opaque drbg : Nat → Nat → BitVec 64

/-- How many segments the directory's root has (Table 6.4; log entry 174). -/
opaque rootSegs : Nat

/-- The die's chip identity, fixed in its fuses (chapter 14). -/
opaque chip : BitVec 64

/-- The silicon stepping in `PAGE_VER.STEP` (Table 2.5: per die). -/
opaque step : BitVec 16

/-- AES key unwrap (RFC 3394) of a wrapped value under a key; none where its integrity check fails. -/
opaque keyUnwrap : Nat → Nat → Option Nat

/-- AES key wrap (RFC 3394) of a key of a number of bytes under a key, as a number of 8 bytes more, first byte most
significant. -/
opaque keyWrap : Nat → Nat → Nat → Nat

/-- Byte `k` of a signature under an identity key: 0 ECDSA P-384, 1 ML-DSA-87, of a byte string. -/
opaque signature : Nat → List Nat → Nat → BitVec 8

/-- Byte `k` of an identity public key: 0 ECDSA, 1 ECDH, 2 ML-DSA, 3 ML-KEM (R584). -/
opaque pubKey : Nat → Nat → BitVec 8

/-- Byte `i` of a structure that the head reports to hosts where the spec states no value: an Identify structure by its
CNS, the health log as 0x102, the capabilities property as 0x200 (log entry 44). -/
opaque reported : Nat → Nat → BitVec 8

/-- Byte `k` of the public value that a set-up secret gives: 0 a P-384 point, 1 an ML-KEM-1024 encapsulation key (log
entry 6). -/
opaque setupPublic : Nat → Nat → Nat → BitVec 8

/-- The P-384 shared secret of a set-up secret and the other end's point. -/
opaque ecShared : Nat → List Nat → BitVec 384

/-- Byte `k` of an ML-KEM-1024 ciphertext to an encapsulation key, and the secret it carries. -/
opaque kemCipher : Nat → List Nat → Nat → BitVec 8

/-- The ML-KEM-1024 shared secret at the end that encapsulates. -/
opaque kemShared : Nat → List Nat → BitVec 256

/-- The ML-KEM-1024 shared secret at the end that holds the decapsulation key. -/
opaque kemOpened : Nat → List Nat → BitVec 256

/-- The ciphertext of a chunk's payload, as one number: AES-256-CTR of GCM (R202, R359) under the key of a vat and generation and a nonce,
of the chunk's stream padded with zeros (log entry 6). -/
opaque storedPayload : Nat → Nat → Nat → Nat → Nat

/-- Block `k` of the content of a stored payload: vat, key generation, fingerprint, payload. -/
opaque openedBlock : Nat → Nat → Nat → Nat → Nat → BitVec 32768

/-- The stream of a chunk in its stored form, decrypted (R560): fingerprint, blocks. -/
opaque plainStream : Nat → List Nat → Nat

/-- Block `k` of such a stream. -/
opaque streamBlock : Nat → Nat → Nat → BitVec 32768

/-- SHA-384 of every fuse row except `UDS`, by what the rows that are written after Derist test hold (Table 14.2). -/
opaque fuseRows : List Nat → BitVec 384

/-- `ROOT_D` of the fuses (Table 14.1). -/
opaque rootD : BitVec 384

/-- A key derived from `UDS` (R584): 0 the vault key, 1 ECDSA, 2 ECDH, 3 ML-DSA, 4 ML-KEM. -/
opaque deviceKey : Nat → BitVec 512

/-- AES-256-GCM tag under a key and IV of additional data and a ciphertext. -/
opaque gcmTag : Nat → Nat → List Nat → List Nat → BitVec 128

/-- AES-256-GCM tag that sealing gives: key, IV, additional data and plaintext, each as one number (log entry 6). -/
opaque gcmSeal : Nat → Nat → Nat → Nat → BitVec 128

/-- The AES-256-CTR key stream of GCM under a key and IV, of a number of bytes, as one number: a ciphertext is the plaintext
XOR it (R178, R359). -/
opaque gcmStream : Nat → Nat → Nat → Nat

/-- Byte `k` of the plaintext of a ciphertext under a key and IV. -/
opaque gcmPlain : Nat → Nat → List Nat → Nat → BitVec 8

/-- A signature of an algorithm (0 ECDSA P-384, 1 ML-DSA-87) by a public key over bytes verifies. -/
opaque sigValid : Nat → List Nat → List Nat → List Nat → Bool

end Sys2Proof.Machine.Config
end

