-- ==== Sys2Proof/Machine/Cond.lean ====
section
/-! DEFINITION. The 16-bit condition values of Table 18.3 (R664, R675): block code times 0x100 plus the low byte,
whose bits 7:5 give the base severity. -/

namespace Sys2Proof.Machine.Cond

def STATIC_WRITE_REFUSED : Nat := 0x0020
def ACCESS_SIZE_REFUSED : Nat := 0x0021
def DISABLE_NOT_QUIESCED : Nat := 0x0022
def RESET_WHILE_ENABLED : Nat := 0x0023
def SECURE_ACCESS_DENIED : Nat := 0x0024
def PAGE_LOCK_REFUSED : Nat := 0x0025
def SRAM_ECC_CORRECTED : Nat := 0x0040
def SRAM_ECC_FAULT : Nat := 0x0080
def POWER_FAIL : Nat := 0x0140
def BEAT_ALIGN_LOST : Nat := 0x0240
def PWR_PROTECTED : Nat := 0x0320
def PWR_BUSY : Nat := 0x0321
def PWR_MODE_REFUSED : Nat := 0x0322
def PWR_DEPENDENT : Nat := 0x0323
def DOZE_LEASE_HELD : Nat := 0x0324
def PWR_WORK_PENDING : Nat := 0x0325
def PWR_ENTRY_ABORTED : Nat := 0x0326
def PWR_CFG_INVALID : Nat := 0x0327
def DOZE_EXIT_SLOW : Nat := 0x0340
def CLK_CFG_INVALID : Nat := 0x0420
def CLK_REF_LOSS : Nat := 0x0440
def PLL_UNLOCK : Nat := 0x04C0
def BUS_UNMAPPED : Nat := 0x0520
def PAGE_DOMAIN_OFF : Nat := 0x0521
def NOC_PARITY : Nat := 0x05A0
def IRT_DONE_MISMATCH : Nat := 0x0620
def IRT_ROUTE_INVALID : Nat := 0x0621
def MBX_BIND_INVALID : Nat := 0x0720
def MBX_BIND_LOCKED : Nat := 0x0721
def MBX_POST_FULL : Nat := 0x0722
def MBX_NOT_BOUND : Nat := 0x0723
def MBX_PEER_ABSENT : Nat := 0x0724
def MBX_LOCK_NOT_OWNER : Nat := 0x0725
def FUSE_PROG_REFUSED : Nat := 0x0820
def DEBUG_UNLOCK_REFUSED : Nat := 0x0821
def DEBUG_TOKEN_INVALID : Nat := 0x0822
def KEY_SERVICE_BUSY : Nat := 0x0823
def HBM_PROTECTED : Nat := 0x0824
def BOOT_HEADER_FAIL : Nat := 0x0840
def BOOT_ROLLBACK : Nat := 0x0841
def BOOT_BLOCK_FAIL : Nat := 0x0842
def BUNDLE_ROOT_BLANK : Nat := 0x0843
def DEBUG_ACTIVE : Nat := 0x0844
def ENTROPY_FAIL : Nat := 0x0845
def DEBUG_KEYS_ERASED : Nat := 0x0860
def BOOT_LOADER_FAIL : Nat := 0x0880
def BOOT_BUNDLE_FAIL : Nat := 0x0881
def BOOT_COUNT_WRITE_FAIL : Nat := 0x0882
def FUSE_PROG_FAIL : Nat := 0x0883
def FUSE_CHECK_FAIL : Nat := 0x08C0
def KEY_USE_REFUSED : Nat := 0x0920
def KEY_SLOT_EMPTY : Nat := 0x0921
def KEY_UNWRAP_FAIL : Nat := 0x0922
def KEY_EXISTS : Nat := 0x0923
def KEY_REQ_INVALID : Nat := 0x0924
def KEY_IMPORT_AUTH_FAIL : Nat := 0x0925
def SALT_IMPORT_REFUSED : Nat := 0x0926
def FABRIC_SALT_IN_USE : Nat := 0x0927
def VAT_KEY_ABSENT : Nat := 0x0960
def KEY_STORE_CORRUPT : Nat := 0x0980
def PAIR_KEY_MISMATCH : Nat := 0x0981
def MSR_EXTEND_REFUSED : Nat := 0x0A20
def MSR_LOCKED : Nat := 0x0A21
def MSR_BUSY : Nat := 0x0A22
def MSR_ALG_MISMATCH : Nat := 0x0A60
def EVR_CLEAR_TOKEN_INVALID : Nat := 0x0B20
def EVR_CLEAR_BUSY : Nat := 0x0B21
def EVR_CLEAR_LOG_FULL : Nat := 0x0B22
def EVR_SAMPLE_REFUSED : Nat := 0x0B23
def EVR_WRITE_FAIL : Nat := 0x0B40
def EVR_EPOCH_GAP : Nat := 0x0B41
def ERQ_INJECT_REFUSED : Nat := 0x0C20
def AGE_CFG_INVALID : Nat := 0x0D20
def AGE_EOL_NEAR : Nat := 0x0D40
def THERMAL_WARNING : Nat := 0x0D41
def THERMAL_SHUTDOWN : Nat := 0x0DC0
def HFI_CFG_INVALID : Nat := 0x0E20
def HFI_IF_INVALID : Nat := 0x0E21
def NVT_CFG_INVALID : Nat := 0x0F20
def NVT_CONNECT_MISMATCH : Nat := 0x0F21
def NVT_CTRL_CMD_BUSY : Nat := 0x0F22
def NVT_CONNECT_TIMEOUT : Nat := 0x0F40
def KEEP_ALIVE_EXPIRED : Nat := 0x0F41
def NVT_TRANSPORT_FATAL : Nat := 0x0F42
def SELFTEST_TIMEOUT : Nat := 0x0F43
def NVT_SGL_LENGTH : Nat := 0x0F60
def NVT_DATA_SHORT : Nat := 0x0F61
def NVT_DATA_DIGEST : Nat := 0x0F62
def ANA_INACCESSIBLE : Nat := 0x0F63
def ANA_TRANSITION : Nat := 0x0F64
def LDT_CFG_INVALID : Nat := 0x1020
def LDT_ACCEPT_MISMATCH : Nat := 0x1021
def LDT_CONN_CMD_BUSY : Nat := 0x1022
def LDT_FRAME_TOO_SMALL : Nat := 0x1023
def LDT_ACCEPT_TIMEOUT : Nat := 0x1040
def LDT_SETUP_TIMEOUT : Nat := 0x1041
def LDT_SETUP_AUTH_FAIL : Nat := 0x1042
def LDT_IDLE_TIMEOUT : Nat := 0x1043
def LDT_MSG_TIMEOUT : Nat := 0x1044
def LDT_PROTOCOL_ERROR : Nat := 0x1045
def LENGTH_MISMATCH : Nat := 0x1060
def LDT_CREDIT_EXCEEDED : Nat := 0x1061
def LDT_REMOTE_ACCESS : Nat := 0x1062
def LBC_CMD_INVALID : Nat := 0x1160
def ADM_BUDGET_INVALID : Nat := 0x1220
def BUDGET_ESCALATED : Nat := 0x1240
def EGRESS_STALL_RESET : Nat := 0x1241
def RDP_CFG_INVALID : Nat := 0x1320
def RDP_RESUME_MISMATCH : Nat := 0x1321
def MEDIA_INTEGRITY : Nat := 0x1360
def READ_INTERNAL_ERROR : Nat := 0x1361
def READ_SLOW_TIMEOUT : Nat := 0x1362
def COMPRESSED_NOT_ALLOWED : Nat := 0x1363
def DELIVERY_BUFFER_SHORT : Nat := 0x1364
def LBA_OUT_OF_RANGE : Nat := 0x1365
def DEFERRED_ERROR : Nat := 0x1366
def WRP_CFG_INVALID : Nat := 0x1420
def NO_SPACE : Nat := 0x1460
def JNL_CFG_INVALID : Nat := 0x1520
def JNL_MIRROR_TIMEOUT : Nat := 0x1540
def CHK_CFG_INVALID : Nat := 0x1620
def SWX_CFG_INVALID : Nat := 0x1720
def MAP_CFG_INVALID : Nat := 0x1820
def MAP_INVAL_BUSY : Nat := 0x1821
def MAP_CHECK_FAIL : Nat := 0x1840
def CTB_CFG_INVALID : Nat := 0x1920
def CTB_ANOMALY : Nat := 0x1940
def REF_COUNT_SATURATED : Nat := 0x1941
def RCH_CFG_INVALID : Nat := 0x1A20
def RCH_INVAL_BUSY : Nat := 0x1A21
def PFX_CFG_INVALID : Nat := 0x1B20
def PFX_RECORD_BUSY : Nat := 0x1B21
def PFX_PROFILE_BUSY : Nat := 0x1B22
def PFX_RECORD_INVALID : Nat := 0x1B23
def PFX_LOAD_BUSY : Nat := 0x1B24
def PFX_PROFILE_INVALID : Nat := 0x1B25
def PFX_TRIGGER_OVERLAP : Nat := 0x1B26
def DSL_CFG_INVALID : Nat := 0x1C20
def DIGEST_SUBMIT_REFUSED : Nat := 0x1C21
def AUTH_FAIL : Nat := 0x1C40
def OUTPUT_FULL : Nat := 0x1C41
def DIGEST_JOB_INVALID : Nat := 0x1C60
def DIGEST_LENGTH_MISMATCH : Nat := 0x1C61
def ERC_PATTERN_INVALID : Nat := 0x1C62
def INFLATE_BAD_BLOCK : Nat := 0x1C63
def INFLATE_BAD_STORED : Nat := 0x1C64
def INFLATE_BAD_TABLE : Nat := 0x1C65
def INFLATE_BAD_SYMBOL : Nat := 0x1C66
def INFLATE_BAD_DISTANCE : Nat := 0x1C67
def OUTPUT_LIMIT : Nat := 0x1C68
def INFLATE_INPUT_END : Nat := 0x1C69
def INFLATE_LENGTH_SHORT : Nat := 0x1C6A
def INFLATE_SLOW : Nat := 0x1C6B
def FTL_CFG_INVALID : Nat := 0x1D20
def DIR_LOAD_BUSY : Nat := 0x1D21
def META_CHECK_FAIL : Nat := 0x1D40
def CKPT_WRITE_FAIL : Nat := 0x1D41
def UPDATE_LOG_FULL : Nat := 0x1D42
def VAULT_HOLDUP_SHORT : Nat := 0x1D43
def VAULT_OBSOLETE : Nat := 0x1D44
def VAULT_INCOMPLETE : Nat := 0x1D45
def VAULT_FAILED : Nat := 0x1D80
def BND_CFG_INVALID : Nat := 0x1E20
def BAND_FORM_FAIL : Nat := 0x1E40
def PROGRAM_FAIL : Nat := 0x1E41
def ERASE_FAIL : Nat := 0x1E42
def BLOCK_RETIRED : Nat := 0x1E43
def SPARES_EXHAUSTED : Nat := 0x1E44
def RELOC_CHUNK_FAIL : Nat := 0x1E45
def MEDIA_LINK_EQ_FAIL : Nat := 0x1F40
def MEDIA_LINK_DOWN : Nat := 0x1F41
def MEDIA_OP_TIMEOUT : Nat := 0x1F42
def MEDIA_UNCORRECTABLE : Nat := 0x1F43
def BRICK_PROTOCOL_ERROR : Nat := 0x1F44
def BRICK_CMD_BUSY : Nat := 0x2020
def BRICK_CMD_INVALID : Nat := 0x2021
def BRICK_EPOCH_REFUSED : Nat := 0x2040
def DIE_FAILED : Nat := 0x2041
def BRICK_PORT_MISMATCH : Nat := 0x2042
def BRICK_FOREIGN : Nat := 0x2043
def BRICK_REMOVED : Nat := 0x2044
def SIDEBAND_NAK : Nat := 0x2045
def FORMULA_INVALID : Nat := 0x2120
def FORMULA_IN_USE : Nat := 0x2121
def FORMULA_BUSY : Nat := 0x2122
def FORMULA_ABSENT : Nat := 0x2140
def FORMULA_CONFLICT : Nat := 0x2141
def PRL_CFG_INVALID : Nat := 0x2220
def PEER_PROTOCOL_ERROR : Nat := 0x2240
def PAIR_MISMATCH : Nat := 0x2241
def PEER_LOST : Nat := 0x2242
def TAKEOVER_SLOW : Nat := 0x2243
def HANDBACK_TIMEOUT : Nat := 0x2244
def RUB_TEST_FAIL : Nat := 0x2245
def LSE_CFG_INVALID : Nat := 0x2320
def MODE_REQ_INVALID : Nat := 0x2321
def MODE_REQ_BUSY : Nat := 0x2322
def HANDOVER_PEER_ABSENT : Nat := 0x2323
def SERVICE_WOULD_STOP_ARRAY : Nat := 0x2324
def WITNESS_UNREACHABLE : Nat := 0x2340
def LEASE_LOST : Nat := 0x2341
def LEASE_DENIED : Nat := 0x2342
def FAB_CFG_INVALID : Nat := 0x2420
def FAB_HID_CONFLICT : Nat := 0x2440
def FAB_NO_ROUTE : Nat := 0x2441
def FOREIGN_UNAVAILABLE : Nat := 0x2460
def FOREIGN_NOT_HELD : Nat := 0x2461
def REP_CFG_INVALID : Nat := 0x2520
def REP_CMD_BUSY : Nat := 0x2521
def REP_LINK_INVALID : Nat := 0x2522
def REP_SALT_MISMATCH : Nat := 0x2540
def REP_CYCLE_FAIL : Nat := 0x2541
def REP_SYNC_BROKEN : Nat := 0x2542
def REP_TARGET_READ_ONLY : Nat := 0x2560
def SNP_CMD_INVALID : Nat := 0x2620
def SNP_ABSENT : Nat := 0x2621
def SNP_VOLUME_FULL : Nat := 0x2622
def SNP_TABLE_FULL : Nat := 0x2623
def VAT_CFG_INVALID : Nat := 0x2720
def TABLE_CMD_NOT_COORDINATOR : Nat := 0x2721
def TABLE_CMD_BUSY : Nat := 0x2722
def TABLE_CMD_BEAT_INVALID : Nat := 0x2723
def TABLE_CMD_PEER_NO_ACK : Nat := 0x2724
def VAT_EXISTS : Nat := 0x2725
def VAT_CMD_INVALID : Nat := 0x2726
def VAT_ABSENT : Nat := 0x2727
def VAT_REDYE_BUSY : Nat := 0x2728
def VOLUME_EXISTS : Nat := 0x2729
def VOLUME_HAS_SNAPSHOTS : Nat := 0x272A
def REDYE_CHUNK_FAIL : Nat := 0x2740
def VAT_IMMUTABLE : Nat := 0x2760
def VOLUME_ABSENT : Nat := 0x2761
def VAT_SEALED : Nat := 0x2762
def VAT_NOT_GRANTED : Nat := 0x2763
def UPD_BUSY : Nat := 0x2820
def UPD_STATE_INVALID : Nat := 0x2821
def UPD_BUNDLE_INVALID : Nat := 0x2822
def UPD_ENVELOPE_ABSENT : Nat := 0x2823
def UPD_BLOCK_CHECK_FAIL : Nat := 0x2824
def UPD_CONFIRM_REFUSED : Nat := 0x2825
def UPD_REQ_INVALID : Nat := 0x2826
def SETTINGS_ITEM_INVALID : Nat := 0x2827
def UPD_SIGNATURE_FAIL : Nat := 0x2840
def UPD_ROLLBACK : Nat := 0x2841
def UPD_BLOCK_HASH_FAIL : Nat := 0x2842
def UPD_ACTIVATE_EXPIRED : Nat := 0x2843
def UPD_ACTIVATE_DEFERRED : Nat := 0x2844
def UPD_TRIAL_FALLBACK : Nat := 0x2845
def UPD_TRIAL_TIMEOUT : Nat := 0x2846
def SETTINGS_MIGRATION_FAILED : Nat := 0x2847
def SETTINGS_CORRUPT : Nat := 0x2848
def KSL_AUTH_FAIL : Nat := 0x2920
def KSL_SESSION_ABSENT : Nat := 0x2921
def TST_CFG_INVALID : Nat := 0x2A20
def TST_BUSY : Nat := 0x2A21
def TST_PATTERN_LOSS : Nat := 0x2A40
def HBM_ECC_CORRECTED : Nat := 0x2B40
def HBM_ECC_UNCORR : Nat := 0x2BA0
def HBM_TRAIN_FAIL : Nat := 0x2BC0

/-- Every value of Table 18.3, by which R674 judges an injected condition. -/
def all : List Nat :=
  [0x0020, 0x0021, 0x0022, 0x0023, 0x0024, 0x0025, 0x0040, 0x0080, 0x0140, 0x0240, 0x0320, 0x0321] ++
  [0x0322, 0x0323, 0x0324, 0x0325, 0x0326, 0x0327, 0x0340, 0x0420, 0x0440, 0x04C0, 0x0520, 0x0521] ++
  [0x05A0, 0x0620, 0x0621, 0x0720, 0x0721, 0x0722, 0x0723, 0x0724, 0x0725, 0x0820, 0x0821, 0x0822] ++
  [0x0823, 0x0824, 0x0840, 0x0841, 0x0842, 0x0843, 0x0844, 0x0845, 0x0860, 0x0880, 0x0881, 0x0882] ++
  [0x0883, 0x08C0, 0x0920, 0x0921, 0x0922, 0x0923, 0x0924, 0x0925, 0x0926, 0x0927, 0x0960, 0x0980] ++
  [0x0981, 0x0A20, 0x0A21, 0x0A22, 0x0A60, 0x0B20, 0x0B21, 0x0B22, 0x0B23, 0x0B40, 0x0B41, 0x0C20] ++
  [0x0D20, 0x0D40, 0x0D41, 0x0DC0, 0x0E20, 0x0E21, 0x0F20, 0x0F21, 0x0F22, 0x0F40, 0x0F41, 0x0F42] ++
  [0x0F43, 0x0F60, 0x0F61, 0x0F62, 0x0F63, 0x0F64, 0x1020, 0x1021, 0x1022, 0x1023, 0x1040, 0x1041] ++
  [0x1042, 0x1043, 0x1044, 0x1045, 0x1060, 0x1061, 0x1062, 0x1160, 0x1220, 0x1240, 0x1241, 0x1320] ++
  [0x1321, 0x1360, 0x1361, 0x1362, 0x1363, 0x1364, 0x1365, 0x1366, 0x1420, 0x1460, 0x1520, 0x1540] ++
  [0x1620, 0x1720, 0x1820, 0x1821, 0x1840, 0x1920, 0x1940, 0x1941, 0x1A20, 0x1A21, 0x1B20, 0x1B21] ++
  [0x1B22, 0x1B23, 0x1B24, 0x1B25, 0x1B26, 0x1C20, 0x1C21, 0x1C40, 0x1C41, 0x1C60, 0x1C61, 0x1C62] ++
  [0x1C63, 0x1C64, 0x1C65, 0x1C66, 0x1C67, 0x1C68, 0x1C69, 0x1C6A, 0x1C6B, 0x1D20, 0x1D21, 0x1D40] ++
  [0x1D41, 0x1D42, 0x1D43, 0x1D44, 0x1D45, 0x1D80, 0x1E20, 0x1E40, 0x1E41, 0x1E42, 0x1E43, 0x1E44] ++
  [0x1E45, 0x1F40, 0x1F41, 0x1F42, 0x1F43, 0x1F44, 0x2020, 0x2021, 0x2040, 0x2041, 0x2042, 0x2043] ++
  [0x2044, 0x2045, 0x2120, 0x2121, 0x2122, 0x2140, 0x2141, 0x2220, 0x2240, 0x2241, 0x2242, 0x2243] ++
  [0x2244, 0x2245, 0x2320, 0x2321, 0x2322, 0x2323, 0x2324, 0x2340, 0x2341, 0x2342, 0x2420, 0x2440] ++
  [0x2441, 0x2460, 0x2461, 0x2520, 0x2521, 0x2522, 0x2540, 0x2541, 0x2542, 0x2560, 0x2620, 0x2621] ++
  [0x2622, 0x2623, 0x2720, 0x2721, 0x2722, 0x2723, 0x2724, 0x2725, 0x2726, 0x2727, 0x2728, 0x2729] ++
  [0x272A, 0x2740, 0x2760, 0x2761, 0x2762, 0x2763, 0x2820, 0x2821, 0x2822, 0x2823, 0x2824, 0x2825] ++
  [0x2826, 0x2827, 0x2840, 0x2841, 0x2842, 0x2843, 0x2844, 0x2845, 0x2846, 0x2847, 0x2848, 0x2920] ++
  [0x2921, 0x2A20, 0x2A21, 0x2A40, 0x2B40, 0x2BA0, 0x2BC0]

end Sys2Proof.Machine.Cond
end

