-- ==== Sys2Proof/Machine/Fields.lean ====
section
/-! DEFINITION. The register fields of the head, one name each, as the field tables of the spec give
them (chapters 1, 3-19; page slots by Table 2.17). `F.<register>_<field>` is the field's place (slot of its
page, byte offset of its register, lowest bit), its width and its reset value. Arguments are indices: `k`
an array index, `i` an instance, `g` a host group, `q` a quad, `n` a lane slot or stack, `ln` a media lane,
`c` a mailbox channel, `s` an interrupt slot, `p` a page. -/

namespace Sys2Proof.Machine.F


/-! ### BEAT -/
def BEAT_TB_NS : Fld := ⟨2, 256, 0, 64, 0⟩
def BEAT_TB_FRAC_FRAC : Fld := ⟨2, 264, 0, 16, 0⟩
def BEAT_NUM_NUM : Fld := ⟨2, 272, 0, 48, 0⟩
def BEAT_STAT_STEP_ACTIVE : Fld := ⟨2, 280, 7, 1, 0⟩
def BEAT_STAT_PTP_LOCK : Fld := ⟨2, 280, 6, 1, 0⟩
def BEAT_STAT_ALIGN_LOST : Fld := ⟨2, 280, 5, 1, 0⟩
def BEAT_STAT_COARSE : Fld := ⟨2, 280, 4, 1, 0⟩
def BEAT_STAT_SOURCE : Fld := ⟨2, 280, 0, 2, 0⟩
def BEAT_CFG_PTP_DOMAIN : Fld := ⟨2, 288, 40, 8, 0⟩
def BEAT_CFG_RTC_PPM : Fld := ⟨2, 288, 32, 8, 50⟩
def BEAT_CFG_PTP_PORT : Fld := ⟨2, 288, 16, 7, 0⟩
def BEAT_CFG_PEER_ALIGN_EN : Fld := ⟨2, 288, 1, 1, 1⟩
def BEAT_CFG_PTP_EN : Fld := ⟨2, 288, 0, 1, 0⟩
def BEAT_UNC_NS : Fld := ⟨2, 296, 0, 32, 0⟩
def BEAT_RATE_ADJ_ADJ : Fld := ⟨2, 304, 0, 32, 0⟩
def BEAT_RATE_EFF_ADJ : Fld := ⟨2, 312, 0, 32, 0⟩
def BEAT_WALL_OFS_NS : Fld := ⟨2, 320, 0, 64, 0⟩
def BEAT_WALL_NS : Fld := ⟨2, 328, 0, 64, 0⟩
def BEAT_PEER_OFS_NS : Fld := ⟨2, 336, 0, 64, 0⟩
def BEAT_PEER_ASYM_NS : Fld := ⟨2, 344, 0, 32, 0⟩
def BEAT_DOZE_TICKS_TICKS : Fld := ⟨2, 352, 0, 64, 0⟩

/-! ### ADM -/
def ADM_LOAD_WAITING : Fld := ⟨116, 256, 32, 16, 0⟩
def ADM_LOAD_PEAK_PCT : Fld := ⟨116, 256, 16, 8, 0⟩
def ADM_LOAD_LOAD_PCT : Fld := ⟨116, 256, 0, 8, 0⟩
def ADM_STAT_LATE_Q_OVF : Fld := ⟨116, 264, 48, 16, 0⟩
def ADM_STAT_EGRESS_RESETS : Fld := ⟨116, 264, 32, 16, 0⟩
def ADM_STAT_BUDGET_REFUSED : Fld := ⟨116, 264, 16, 16, 0⟩
def ADM_LATE_Q_VALID : Fld := ⟨116, 272, 63, 1, 0⟩
def ADM_LATE_Q_CLASS : Fld := ⟨116, 272, 60, 3, 0⟩
def ADM_LATE_Q_STAGE : Fld := ⟨116, 272, 57, 3, 0⟩
def ADM_LATE_Q_LATE_BEATS : Fld := ⟨116, 272, 32, 16, 0⟩
def ADM_LATE_Q_CMD_TAG : Fld := ⟨116, 272, 0, 32, 0⟩
def ADM_POOL_CAP (k : Nat) : Fld := ⟨116, (384 + 8 * k), 32, 32, ([131072, 4096, 1024, 16384, 65536, 4063232, 32768, 3072].getD k 0)⟩
def ADM_POOL_USED (k : Nat) : Fld := ⟨116, (384 + 8 * k), 0, 32, 0⟩
def ADM_BUDGET_CFG_A (k : Nat) : Fld := ⟨116, (1024 + 8 * k), 55, 9, 64⟩
def ADM_BUDGET_CFG_F (k : Nat) : Fld := ⟨116, (1024 + 8 * k), 46, 9, 8⟩
def ADM_BUDGET_CFG_W (k : Nat) : Fld := ⟨116, (1024 + 8 * k), 38, 8, 4⟩
def ADM_BUDGET_CFG_X (k : Nat) : Fld := ⟨116, (1024 + 8 * k), 28, 10, 40⟩
def ADM_BUDGET_CFG_MQ (k : Nat) : Fld := ⟨116, (1024 + 8 * k), 18, 10, 32⟩
def ADM_BUDGET_CFG_M (k : Nat) : Fld := ⟨116, (1024 + 8 * k), 8, 10, 20⟩
def ADM_BUDGET_CFG_H (k : Nat) : Fld := ⟨116, (1024 + 8 * k), 0, 8, 3⟩

/-! ### IRT -/
def IRT_CLAIM_VALID : Fld := ⟨15, 256, 63, 1, 0⟩
def IRT_CLAIM_PRIORITY : Fld := ⟨15, 256, 10, 3, 0⟩
def IRT_CLAIM_SLOT : Fld := ⟨15, 256, 0, 10, 0⟩
def IRT_DONE_SLOT : Fld := ⟨15, 264, 0, 10, 0⟩
def IRT_THRESH_THRESH : Fld := ⟨15, 272, 0, 3, 0⟩
def IRT_PEND_BITS (k : Nat) : Fld := ⟨15, (384 + 8 * k), 0, 64, 0⟩
def IRT_ROUTE_WAKE (s : Nat) : Fld := ⟨(16 + s / 480), (256 + 8 * (s % 480)), 14, 1, 0⟩
def IRT_ROUTE_PRIORITY (s : Nat) : Fld := ⟨(16 + s / 480), (256 + 8 * (s % 480)), 11, 3, 0⟩
def IRT_ROUTE_TARGET (s : Nat) : Fld := ⟨(16 + s / 480), (256 + 8 * (s % 480)), 0, 6, 0⟩

/-! ### RDP -/
def RDP_CFG_SLICE_EN : Fld := ⟨117, 256, 16, 16, 65535⟩
def RDP_CFG_COMPRESSED_EN : Fld := ⟨117, 256, 3, 1, 1⟩
def RDP_CFG_HEDGE_EN : Fld := ⟨117, 256, 2, 1, 1⟩
def RDP_CFG_RECON_EARLY_EN : Fld := ⟨117, 256, 1, 1, 1⟩
def RDP_STAT_SLOW_WAIT : Fld := ⟨117, 264, 32, 16, 0⟩
def RDP_STAT_RECON_ACTIVE : Fld := ⟨117, 264, 16, 16, 0⟩
def RDP_STAT_RECON_QUEUED : Fld := ⟨117, 264, 0, 16, 0⟩
def RDP_RECON_CFG_HEDGE_MARGIN : Fld := ⟨117, 272, 40, 8, 4⟩
def RDP_RECON_CFG_TAIL : Fld := ⟨117, 272, 32, 4, 3⟩
def RDP_RECON_CFG_MAX_ACTIVE : Fld := ⟨117, 272, 0, 13, 512⟩
def RDP_HAZ_STAT_HELD : Fld := ⟨117, 280, 32, 32, 0⟩
def RDP_HAZ_STAT_ENTRIES : Fld := ⟨117, 280, 0, 32, 0⟩
def RDP_SLOW_Q_VALID : Fld := ⟨117, 288, 63, 1, 0⟩
def RDP_SLOW_Q_REASON : Fld := ⟨117, 288, 56, 4, 0⟩
def RDP_SLOW_Q_VOLUME : Fld := ⟨117, 288, 40, 16, 0⟩
def RDP_SLOW_Q_CMD_TAG : Fld := ⟨117, 288, 0, 32, 0⟩
def RDP_SLOW_INFO_LBA : Fld := ⟨117, 296, 0, 38, 0⟩
def RDP_RESUME_ACTION : Fld := ⟨117, 304, 32, 4, 0⟩
def RDP_RESUME_CMD_TAG : Fld := ⟨117, 304, 0, 32, 0⟩
def RDP_SLOW_TMO_BEATS : Fld := ⟨117, 312, 0, 32, 131072⟩
def RDP_CNT_HIT_COUNT : Fld := ⟨118, 256, 0, 64, 0⟩
def RDP_CNT_JNL_COUNT : Fld := ⟨118, 264, 0, 64, 0⟩
def RDP_CNT_MEDIA_COUNT : Fld := ⟨118, 272, 0, 64, 0⟩
def RDP_CNT_RECON_COUNT : Fld := ⟨118, 280, 0, 64, 0⟩
def RDP_CNT_HEDGE_COUNT : Fld := ⟨118, 288, 0, 64, 0⟩
def RDP_CNT_HEDGE_WON_COUNT : Fld := ⟨118, 296, 0, 64, 0⟩
def RDP_CNT_AUTH_COUNT : Fld := ⟨118, 304, 0, 64, 0⟩
def RDP_CNT_FAILED_COUNT : Fld := ⟨118, 312, 0, 64, 0⟩
def RDP_CNT_ZERO_COUNT : Fld := ⟨118, 320, 0, 64, 0⟩
def RDP_CNT_FOREIGN_COUNT : Fld := ⟨118, 328, 0, 64, 0⟩

/-! ### MAP -/
def MAP_BASE_BASE : Fld := ⟨126, 256, 30, 8, 0⟩
def MAP_SIZE_GIB : Fld := ⟨126, 264, 0, 8, 48⟩
def MAP_STAT_PINNED : Fld := ⟨126, 272, 32, 32, 0⟩
def MAP_STAT_RESIDENT : Fld := ⟨126, 272, 0, 32, 0⟩
def MAP_DIRTY_PAGES : Fld := ⟨126, 280, 0, 32, 0⟩
def MAP_FETCH_STAT_MAX : Fld := ⟨126, 288, 32, 16, 0⟩
def MAP_FETCH_STAT_ACTIVE : Fld := ⟨126, 288, 0, 13, 0⟩
def MAP_FETCH_LIMIT_LIMIT : Fld := ⟨126, 296, 0, 13, 2048⟩
def MAP_INVAL_VOLUME : Fld := ⟨126, 304, 32, 16, 0⟩
def MAP_INVAL_ALL : Fld := ⟨126, 304, 0, 1, 0⟩
def MAP_INVAL_STAT_BUSY : Fld := ⟨126, 312, 0, 1, 0⟩
def MAP_CNT_LOOKUP_COUNT : Fld := ⟨127, 256, 0, 64, 0⟩
def MAP_CNT_HIT_COUNT : Fld := ⟨127, 264, 0, 64, 0⟩
def MAP_CNT_MISS_COUNT : Fld := ⟨127, 272, 0, 64, 0⟩
def MAP_CNT_SLOW_COUNT : Fld := ⟨127, 280, 0, 64, 0⟩
def MAP_CNT_CHECK_FAIL_COUNT : Fld := ⟨127, 288, 0, 64, 0⟩
def MAP_CNT_EVICT_COUNT : Fld := ⟨127, 296, 0, 64, 0⟩
def MAP_CNT_INVAL_COUNT : Fld := ⟨127, 304, 0, 64, 0⟩
def MAP_CNT_REFETCH_COUNT : Fld := ⟨127, 312, 0, 64, 0⟩

/-! ### CTB -/
def CTB_BASE_BASE : Fld := ⟨128, 256, 30, 8, 0⟩
def CTB_SIZE_GIB : Fld := ⟨128, 264, 0, 8, 16⟩
def CTB_STAT_PINNED : Fld := ⟨128, 272, 32, 32, 0⟩
def CTB_STAT_RESIDENT : Fld := ⟨128, 272, 0, 32, 0⟩
def CTB_DIRTY_PAGES : Fld := ⟨128, 280, 0, 32, 0⟩
def CTB_FETCH_STAT_MAX : Fld := ⟨128, 288, 32, 16, 0⟩
def CTB_FETCH_STAT_ACTIVE : Fld := ⟨128, 288, 0, 13, 0⟩
def CTB_FETCH_LIMIT_LIMIT : Fld := ⟨128, 296, 0, 13, 2048⟩
def CTB_CNT_LOOKUP_COUNT : Fld := ⟨129, 256, 0, 64, 0⟩
def CTB_CNT_HIT_COUNT : Fld := ⟨129, 264, 0, 64, 0⟩
def CTB_CNT_MISS_COUNT : Fld := ⟨129, 272, 0, 64, 0⟩
def CTB_CNT_SLOW_COUNT : Fld := ⟨129, 280, 0, 64, 0⟩
def CTB_CNT_ANOMALY_COUNT : Fld := ⟨129, 288, 0, 64, 0⟩
def CTB_CNT_EVICT_COUNT : Fld := ⟨129, 296, 0, 64, 0⟩
def CTB_CNT_KEY_SLOW_COUNT : Fld := ⟨129, 304, 0, 64, 0⟩
def CTB_CNT_REFETCH_COUNT : Fld := ⟨129, 312, 0, 64, 0⟩

/-! ### RCH -/
def RCH_BASE_BASE : Fld := ⟨130, 256, 30, 8, 0⟩
def RCH_SIZE_GIB : Fld := ⟨130, 264, 0, 8, 56⟩
def RCH_CFG_PFX_SHARE_PCT : Fld := ⟨130, 272, 8, 8, 25⟩
def RCH_CFG_INSERT_FOREIGN : Fld := ⟨130, 272, 2, 1, 1⟩
def RCH_CFG_INSERT_MEDIA : Fld := ⟨130, 272, 1, 1, 1⟩
def RCH_CFG_INSERT_RECON : Fld := ⟨130, 272, 0, 1, 1⟩
def RCH_STAT_CHUNKS : Fld := ⟨130, 280, 32, 32, 0⟩
def RCH_STAT_UNITS : Fld := ⟨130, 280, 0, 32, 0⟩
def RCH_OCC_PFX_UNITS : Fld := ⟨130, 288, 0, 32, 0⟩
def RCH_INVAL_VAT : Fld := ⟨130, 296, 32, 12, 0⟩
def RCH_INVAL_ALL : Fld := ⟨130, 296, 0, 1, 0⟩
def RCH_INVAL_STAT_BUSY : Fld := ⟨130, 304, 0, 1, 0⟩
def RCH_CNT_LOOKUP_COUNT : Fld := ⟨131, 256, 0, 64, 0⟩
def RCH_CNT_HIT_COUNT : Fld := ⟨131, 264, 0, 64, 0⟩
def RCH_CNT_MISS_COUNT : Fld := ⟨131, 272, 0, 64, 0⟩
def RCH_CNT_INSERT_COUNT : Fld := ⟨131, 280, 0, 64, 0⟩
def RCH_CNT_EVICT_COUNT : Fld := ⟨131, 288, 0, 64, 0⟩
def RCH_CNT_DROP_COUNT : Fld := ⟨131, 296, 0, 64, 0⟩
def RCH_CNT_INVAL_COUNT : Fld := ⟨131, 304, 0, 64, 0⟩
def RCH_CNT_PFX_HIT_COUNT : Fld := ⟨131, 312, 0, 64, 0⟩
def RCH_CNT_PFX_EVICT_COUNT : Fld := ⟨131, 320, 0, 64, 0⟩

/-! ### PFX -/
def PFX_BASE_BASE : Fld := ⟨132, 256, 21, 27, 0⟩
def PFX_CFG_REARM : Fld := ⟨132, 264, 48, 16, 1024⟩
def PFX_CFG_MAX_LOAD_PCT : Fld := ⟨132, 264, 40, 8, 60⟩
def PFX_CFG_ISSUE_MAX : Fld := ⟨132, 264, 16, 11, 256⟩
def PFX_CFG_LEAD : Fld := ⟨132, 264, 0, 16, 512⟩
def PFX_STAT_ACTIVE : Fld := ⟨132, 272, 32, 9, 0⟩
def PFX_STAT_DUE : Fld := ⟨132, 272, 0, 32, 0⟩
def PFX_REC_CTL_ARM : Fld := ⟨132, 280, 63, 1, 0⟩
def PFX_REC_CTL_FILTER : Fld := ⟨132, 280, 62, 1, 0⟩
def PFX_REC_CTL_PROFILE : Fld := ⟨132, 280, 48, 12, 0⟩
def PFX_REC_CTL_VOLUME : Fld := ⟨132, 280, 32, 16, 0⟩
def PFX_REC_CTL_WINDOW : Fld := ⟨132, 280, 0, 8, 0⟩
def PFX_REC_CONN_ASSOC : Fld := ⟨132, 288, 0, 32, 0⟩
def PFX_REC_STAT_STATE : Fld := ⟨132, 296, 62, 2, 0⟩
def PFX_REC_STAT_END : Fld := ⟨132, 296, 60, 2, 0⟩
def PFX_REC_STAT_EXTENTS : Fld := ⟨132, 296, 32, 14, 0⟩
def PFX_REC_STAT_TRIG_BEAT : Fld := ⟨132, 296, 0, 32, 0⟩
def PFX_LOAD_OP : Fld := ⟨132, 304, 62, 2, 0⟩
def PFX_LOAD_PROFILE : Fld := ⟨132, 304, 48, 12, 0⟩
def PFX_LOAD_STAT_BUSY : Fld := ⟨132, 312, 63, 1, 0⟩
def PFX_LOAD_STAT_RESULT : Fld := ⟨132, 312, 60, 3, 0⟩
def PFX_LOAD_STAT_PROFILE : Fld := ⟨132, 312, 48, 12, 0⟩
def PFX_LOAD_STAT_LOADED : Fld := ⟨132, 312, 0, 13, 0⟩
def PFX_CNT_TRIG_COUNT : Fld := ⟨133, 256, 0, 64, 0⟩
def PFX_CNT_TRIG_DROP_COUNT : Fld := ⟨133, 264, 0, 64, 0⟩
def PFX_CNT_ISSUED_COUNT : Fld := ⟨133, 272, 0, 64, 0⟩
def PFX_CNT_SKIP_COUNT : Fld := ⟨133, 280, 0, 64, 0⟩
def PFX_CNT_FAIL_COUNT : Fld := ⟨133, 288, 0, 64, 0⟩
def PFX_CNT_USED_COUNT : Fld := ⟨133, 296, 0, 64, 0⟩

/-! ### JNL -/
def JNL_BASE_BASE : Fld := ⟨121, 256, 34, 4, 0⟩
def JNL_CFG_MIRROR_TMO : Fld := ⟨121, 264, 32, 16, 64⟩
def JNL_CFG_FLUSH_HIGH_PCT : Fld := ⟨121, 264, 8, 8, 50⟩
def JNL_STAT_RINGS : Fld := ⟨121, 272, 62, 2, 0⟩
def JNL_STAT_PEER_UNITS : Fld := ⟨121, 272, 32, 21, 0⟩
def JNL_STAT_OWN_UNITS : Fld := ⟨121, 272, 0, 22, 0⟩
def JNL_SEQ_NEXT : Fld := ⟨121, 280, 0, 64, 0⟩
def JNL_OLDEST_SEQ : Fld := ⟨121, 288, 0, 64, 0⟩
def JNL_KEY_STAT_JGEN : Fld := ⟨121, 296, 32, 16, 0⟩
def JNL_KEY_STAT_PEER_JGEN : Fld := ⟨121, 296, 16, 16, 0⟩
def JNL_KEY_STAT_PEER_KEY : Fld := ⟨121, 296, 1, 1, 0⟩
def JNL_KEY_STAT_KEY : Fld := ⟨121, 296, 0, 1, 0⟩
def JNL_MIRROR_STAT_CREDITS : Fld := ⟨121, 304, 32, 16, 0⟩
def JNL_MIRROR_STAT_INFLIGHT : Fld := ⟨121, 304, 0, 32, 0⟩
def JNL_RANGE_STAT_USED : Fld := ⟨121, 312, 0, 13, 0⟩
def JNL_OVL_STAT_LOST : Fld := ⟨121, 320, 32, 32, 0⟩
def JNL_OVL_STAT_USED : Fld := ⟨121, 320, 0, 32, 0⟩
def JNL_DEF_Q_VALID : Fld := ⟨122, 256, 63, 1, 0⟩
def JNL_DEF_Q_CAUSE : Fld := ⟨122, 256, 60, 3, 0⟩
def JNL_DEF_Q_VOLUME : Fld := ⟨122, 256, 32, 16, 0⟩
def JNL_DEF_Q_BEAT : Fld := ⟨122, 256, 0, 32, 0⟩
def JNL_DEF_INFO_COUNT : Fld := ⟨122, 264, 38, 26, 0⟩
def JNL_DEF_INFO_LBA : Fld := ⟨122, 264, 0, 38, 0⟩
def JNL_DEF_STAT_OVF : Fld := ⟨122, 272, 48, 16, 0⟩
def JNL_DEF_STAT_ENTRIES : Fld := ⟨122, 272, 0, 9, 0⟩
def JNL_CNT_LAND_COUNT : Fld := ⟨122, 280, 0, 64, 0⟩
def JNL_CNT_MIRROR_COUNT : Fld := ⟨122, 288, 0, 64, 0⟩
def JNL_CNT_RETIRE_COUNT : Fld := ⟨122, 296, 0, 64, 0⟩
def JNL_CNT_SUPERSEDE_COUNT : Fld := ⟨122, 304, 0, 64, 0⟩
def JNL_CNT_AUTH_COUNT : Fld := ⟨122, 312, 0, 64, 0⟩
def JNL_CNT_DEFERRED_COUNT : Fld := ⟨122, 320, 0, 64, 0⟩

/-! ### WRP -/
def WRP_CFG_ROW_WAIT : Fld := ⟨119, 256, 48, 16, 256⟩
def WRP_CFG_SLICE_EN : Fld := ⟨119, 256, 16, 16, 65535⟩
def WRP_STAT_WAIT_ENTRY : Fld := ⟨119, 264, 32, 32, 0⟩
def WRP_STAT_UNCOMMITTED : Fld := ⟨119, 264, 0, 32, 0⟩
def WRP_SPACE_FREE_UNITS : Fld := ⟨119, 272, 0, 64, 0⟩
def WRP_SPACE_RSV_UNITS : Fld := ⟨119, 280, 0, 64, 0⟩
def WRP_CID_NEXT_WRAP : Fld := ⟨119, 288, 40, 24, 0⟩
def WRP_CID_NEXT_NEXT : Fld := ⟨119, 288, 0, 40, 0⟩
def WRP_NOTICE_STAT_OVF : Fld := ⟨119, 296, 48, 16, 0⟩
def WRP_NOTICE_STAT_PENDING : Fld := ⟨119, 296, 0, 13, 0⟩
def WRP_CNT_NOSPACE_COUNT : Fld := ⟨119, 304, 0, 64, 0⟩
def WRP_CNT_REF_SAT_COUNT : Fld := ⟨119, 312, 0, 64, 0⟩
def WRP_CNT_WRITES_COUNT : Fld := ⟨120, 256, 0, 64, 0⟩
def WRP_CNT_BLOCKS_COUNT : Fld := ⟨120, 264, 0, 64, 0⟩
def WRP_CNT_CHUNKS_COUNT : Fld := ⟨120, 272, 0, 64, 0⟩
def WRP_CNT_DEDUP_COUNT : Fld := ⟨120, 280, 0, 64, 0⟩
def WRP_CNT_NEW_COUNT : Fld := ⟨120, 288, 0, 64, 0⟩
def WRP_CNT_RAW_COUNT : Fld := ⟨120, 296, 0, 64, 0⟩
def WRP_CNT_BYTES_IN_COUNT : Fld := ⟨120, 304, 0, 64, 0⟩
def WRP_CNT_BYTES_STORED_COUNT : Fld := ⟨120, 312, 0, 64, 0⟩

/-! ### CHK -/
def CHK_CFG_MASK_BITS : Fld := ⟨123, 256, 16, 3, 2⟩
def CHK_CFG_MIN_BLOCKS : Fld := ⟨123, 256, 8, 5, 1⟩
def CHK_CFG_MAX_BLOCKS : Fld := ⟨123, 256, 0, 5, 16⟩
def CHK_RECIPE_CFG_CLOSE : Fld := ⟨123, 264, 32, 32, 16384⟩
def CHK_RECIPE_CFG_SET_PAGES : Fld := ⟨123, 264, 0, 5, 8⟩
def CHK_STAT_STREAMS : Fld := ⟨123, 272, 32, 16, 0⟩
def CHK_STAT_OPEN_RECIPES : Fld := ⟨123, 272, 0, 15, 0⟩
def CHK_BACKLOG_RECORDS : Fld := ⟨123, 280, 0, 32, 0⟩
def CHK_CNT_CHUNKS_COUNT : Fld := ⟨123, 288, 0, 64, 0⟩
def CHK_CNT_BLOCKS_COUNT : Fld := ⟨123, 296, 0, 64, 0⟩
def CHK_CNT_SWATCH_COUNT : Fld := ⟨123, 304, 0, 64, 0⟩
def CHK_CNT_RECIPE_COUNT : Fld := ⟨123, 312, 0, 64, 0⟩

/-! ### SWX -/
def SWX_BASE_BASE : Fld := ⟨124, 256, 30, 8, 0⟩
def SWX_SIZE_GIB : Fld := ⟨124, 264, 0, 8, 40⟩
def SWX_CFG_PEER_QUERY_EN : Fld := ⟨124, 272, 1, 1, 1⟩
def SWX_CFG_INSERT_EN : Fld := ⟨124, 272, 0, 1, 1⟩
def SWX_STAT_FULL_BUCKETS : Fld := ⟨124, 280, 32, 32, 0⟩
def SWX_STAT_RECORDS : Fld := ⟨124, 280, 0, 32, 0⟩
def SWX_RCP_BASE_BASE : Fld := ⟨124, 288, 30, 8, 0⟩
def SWX_RCP_SIZE_GIB : Fld := ⟨124, 296, 0, 8, 8⟩
def SWX_RCP_STAT_DIRTY : Fld := ⟨124, 304, 32, 32, 0⟩
def SWX_RCP_STAT_RESIDENT : Fld := ⟨124, 304, 0, 32, 0⟩
def SWX_CNT_LOOKUP_COUNT : Fld := ⟨125, 256, 0, 64, 0⟩
def SWX_CNT_HIT_COUNT : Fld := ⟨125, 264, 0, 64, 0⟩
def SWX_CNT_INSERT_COUNT : Fld := ⟨125, 272, 0, 64, 0⟩
def SWX_CNT_EVICT_COUNT : Fld := ⟨125, 280, 0, 64, 0⟩
def SWX_CNT_PEER_QUERY_COUNT : Fld := ⟨125, 288, 0, 64, 0⟩
def SWX_CNT_RCP_LOAD_COUNT : Fld := ⟨125, 296, 0, 64, 0⟩
def SWX_CNT_RCP_MATCH_COUNT : Fld := ⟨125, 304, 0, 64, 0⟩

/-! ### VAT -/
def VAT_TBL_BASE_BASE : Fld := ⟨284, 256, 26, 12, 0⟩
def VAT_CMD_OP : Fld := ⟨284, 264, 60, 4, 0⟩
def VAT_CMD_TARGET : Fld := ⟨284, 264, 0, 16, 0⟩
def VAT_CMD_ARG0_VAT : Fld := ⟨284, 272, 52, 12, 0⟩
def VAT_CMD_ARG0_PROFILE : Fld := ⟨284, 272, 44, 8, 0⟩
def VAT_CMD_ARG0_SEALED : Fld := ⟨284, 272, 43, 1, 0⟩
def VAT_CMD_ARG0_PUBLISHED : Fld := ⟨284, 272, 42, 1, 0⟩
def VAT_CMD_ARG0_CD_ALLOW : Fld := ⟨284, 272, 41, 1, 0⟩
def VAT_CMD_ARG0_COMP : Fld := ⟨284, 272, 39, 2, 0⟩
def VAT_CMD_ARG0_KEY_GEN : Fld := ⟨284, 272, 31, 8, 0⟩
def VAT_CMD_ARG1_SIZE_M1 : Fld := ⟨284, 280, 0, 38, 0⟩
def VAT_CMD_BEAT_BEAT : Fld := ⟨284, 288, 0, 48, 0⟩
def VAT_CMD_STAT_BUSY : Fld := ⟨284, 296, 63, 1, 0⟩
def VAT_CMD_STAT_RESULT : Fld := ⟨284, 296, 60, 3, 0⟩
def VAT_CMD_STAT_CONDITION : Fld := ⟨284, 296, 32, 16, 0⟩
def VAT_CMD_STAT_BEAT : Fld := ⟨284, 296, 0, 32, 0⟩
def VAT_STAT_VATS : Fld := ⟨284, 304, 32, 13, 0⟩
def VAT_STAT_VOLUMES : Fld := ⟨284, 304, 0, 17, 0⟩
def VAT_REDYE_CFG_MAX_LOAD_PCT : Fld := ⟨284, 312, 40, 8, 50⟩
def VAT_REDYE_CFG_RATE : Fld := ⟨284, 312, 0, 11, 64⟩
def VAT_REDYE_STAT_ACTIVE : Fld := ⟨285, 256, 63, 1, 0⟩
def VAT_REDYE_STAT_INCOMPLETE : Fld := ⟨285, 256, 62, 1, 0⟩
def VAT_REDYE_STAT_VAT : Fld := ⟨285, 256, 48, 12, 0⟩
def VAT_REDYE_STAT_FROM_GEN : Fld := ⟨285, 256, 40, 8, 0⟩
def VAT_REDYE_STAT_TO_GEN : Fld := ⟨285, 256, 32, 8, 0⟩
def VAT_REDYE_STAT_FAILED : Fld := ⟨285, 256, 0, 32, 0⟩
def VAT_REDYE_CURSOR_BAND : Fld := ⟨285, 264, 32, 32, 0⟩
def VAT_REDYE_CURSOR_BANDS_LEFT : Fld := ⟨285, 264, 0, 32, 0⟩
def VAT_QUERY_VOLUME : Fld := ⟨285, 272, 16, 16, 0⟩
def VAT_QUERY_VAT : Fld := ⟨285, 272, 0, 12, 0⟩
def VAT_QUERY_VAT_STATE : Fld := ⟨285, 280, 62, 2, 0⟩
def VAT_QUERY_VAT_SEALED : Fld := ⟨285, 280, 61, 1, 0⟩
def VAT_QUERY_VAT_PUBLISHED : Fld := ⟨285, 280, 60, 1, 0⟩
def VAT_QUERY_VAT_CD_ALLOW : Fld := ⟨285, 280, 59, 1, 0⟩
def VAT_QUERY_VAT_COMP : Fld := ⟨285, 280, 57, 2, 0⟩
def VAT_QUERY_VAT_OLD_LIVE : Fld := ⟨285, 280, 56, 1, 0⟩
def VAT_QUERY_VAT_KEY_GEN : Fld := ⟨285, 280, 48, 8, 0⟩
def VAT_QUERY_VAT_OLD_GEN : Fld := ⟨285, 280, 40, 8, 0⟩
def VAT_QUERY_VAT_VOLUMES : Fld := ⟨285, 280, 0, 17, 0⟩
def VAT_QUERY_VOL_STATE : Fld := ⟨285, 288, 62, 2, 0⟩
def VAT_QUERY_VOL_VAT : Fld := ⟨285, 288, 50, 12, 0⟩
def VAT_QUERY_VOL_PROFILE : Fld := ⟨285, 288, 42, 8, 0⟩
def VAT_QUERY_VOL_SIZE_M1 : Fld := ⟨285, 288, 0, 38, 0⟩
def VAT_CNT_CMD_COUNT : Fld := ⟨285, 296, 0, 64, 0⟩
def VAT_CNT_REFUSED_COUNT : Fld := ⟨285, 304, 0, 64, 0⟩
def VAT_CNT_REDYE_CHUNKS_COUNT : Fld := ⟨285, 312, 0, 64, 0⟩

/-! ### SNP -/
def SNP_CMD_OP : Fld := ⟨282, 256, 60, 4, 0⟩
def SNP_CMD_COUNT : Fld := ⟨282, 256, 48, 9, 0⟩
def SNP_CMD_VOLUME : Fld := ⟨282, 256, 32, 16, 0⟩
def SNP_CMD_SNAP : Fld := ⟨282, 256, 0, 20, 0⟩
def SNP_CMD_ARG_ADDR : Fld := ⟨282, 264, 3, 45, 0⟩
def SNP_CMD_BEAT_BEAT : Fld := ⟨282, 272, 0, 48, 0⟩
def SNP_CMD_STAT_BUSY : Fld := ⟨282, 280, 63, 1, 0⟩
def SNP_CMD_STAT_RESULT : Fld := ⟨282, 280, 60, 3, 0⟩
def SNP_CMD_STAT_CONDITION : Fld := ⟨282, 280, 32, 16, 0⟩
def SNP_CMD_STAT_BEAT : Fld := ⟨282, 280, 0, 32, 0⟩
def SNP_STAT_RECLAIMING : Fld := ⟨282, 288, 32, 21, 0⟩
def SNP_STAT_USED : Fld := ⟨282, 288, 0, 21, 0⟩
def SNP_RECLAIM_STAT_PAGES : Fld := ⟨282, 296, 0, 64, 0⟩
def SNP_QUERY_STATE : Fld := ⟨282, 304, 62, 2, 0⟩
def SNP_QUERY_SNAP : Fld := ⟨282, 304, 0, 20, 0⟩
def SNP_QUERY_ENT_VOLUME : Fld := ⟨282, 312, 48, 16, 0⟩
def SNP_QUERY_ENT_BEAT : Fld := ⟨282, 312, 0, 48, 0⟩
def SNP_CNT_CREATE_COUNT : Fld := ⟨283, 256, 0, 64, 0⟩
def SNP_CNT_DELETE_COUNT : Fld := ⟨283, 264, 0, 64, 0⟩
def SNP_CNT_CLONE_COUNT : Fld := ⟨283, 272, 0, 64, 0⟩
def SNP_CNT_REFUSED_COUNT : Fld := ⟨283, 280, 0, 64, 0⟩
def SNP_CNT_PAGE_COPY_COUNT : Fld := ⟨283, 288, 0, 64, 0⟩
def SNP_CNT_RECLAIM_COUNT : Fld := ⟨283, 296, 0, 64, 0⟩

/-! ### FTL -/
def FTL_BASE_BASE : Fld := ⟨214, 256, 28, 10, 0⟩
def FTL_ROOT_SIZE_UNITS : Fld := ⟨214, 264, 0, 5, 8⟩
def FTL_LEAF_SIZE_UNITS : Fld := ⟨214, 272, 0, 5, 8⟩
def FTL_CFG_LOG_PCT : Fld := ⟨214, 280, 40, 8, 50⟩
def FTL_CFG_CKPT_BEATS : Fld := ⟨214, 280, 0, 16, 2048⟩
def FTL_STAT_RECOVERING : Fld := ⟨214, 288, 63, 1, 0⟩
def FTL_STAT_LOG_HOLD : Fld := ⟨214, 288, 62, 1, 0⟩
def FTL_STAT_CKPT_ACTIVE : Fld := ⟨214, 288, 61, 1, 0⟩
def FTL_STAT_LOG_RECORDS : Fld := ⟨214, 288, 32, 21, 0⟩
def FTL_STAT_DIRTY_PAGES : Fld := ⟨214, 288, 0, 32, 0⟩
def FTL_DIR_LOAD_KIND : Fld := ⟨214, 296, 62, 2, 0⟩
def FTL_DIR_LOAD_PIN : Fld := ⟨214, 296, 61, 1, 0⟩
def FTL_DIR_LOAD_SNAP : Fld := ⟨214, 296, 60, 1, 0⟩
def FTL_DIR_LOAD_SPACE : Fld := ⟨214, 296, 40, 20, 0⟩
def FTL_DIR_LOAD_LEAF : Fld := ⟨214, 296, 0, 36, 0⟩
def FTL_DIR_STAT_BUSY : Fld := ⟨214, 304, 63, 1, 0⟩
def FTL_DIR_STAT_RESULT : Fld := ⟨214, 304, 60, 3, 0⟩
def FTL_DIR_STAT_PINNED : Fld := ⟨214, 304, 32, 20, 0⟩
def FTL_DIR_STAT_RESIDENT : Fld := ⟨214, 304, 0, 20, 0⟩
def FTL_CKPT_STAT_SEQ : Fld := ⟨214, 312, 32, 32, 0⟩
def FTL_CKPT_STAT_BEAT : Fld := ⟨214, 312, 0, 32, 0⟩
def FTL_SLC_CFG_SLC_PCT : Fld := ⟨215, 256, 32, 8, 4⟩
def FTL_SLC_CFG_FOLD_START : Fld := ⟨215, 256, 16, 8, 25⟩
def FTL_SLC_CFG_FOLD_STOP : Fld := ⟨215, 256, 8, 8, 50⟩
def FTL_SLC_CFG_BYPASS_EN : Fld := ⟨215, 256, 0, 1, 1⟩
def FTL_GC_CFG_MAX_LOAD_PCT : Fld := ⟨215, 264, 32, 8, 60⟩
def FTL_GC_CFG_URGENT_PCT : Fld := ⟨215, 264, 16, 8, 2⟩
def FTL_GC_CFG_START_PCT : Fld := ⟨215, 264, 8, 8, 5⟩
def FTL_GC_CFG_STOP_PCT : Fld := ⟨215, 264, 0, 8, 8⟩
def FTL_MAINT_CFG_WL_GAP : Fld := ⟨215, 272, 32, 16, 256⟩
def FTL_MAINT_CFG_WL_EN : Fld := ⟨215, 272, 2, 1, 1⟩
def FTL_MAINT_CFG_SCAN_EN : Fld := ⟨215, 272, 1, 1, 1⟩
def FTL_MAINT_CFG_RDIST_EN : Fld := ⟨215, 272, 0, 1, 1⟩
def FTL_LIFE_WORST_BRICK : Fld := ⟨215, 280, 40, 8, 0⟩
def FTL_LIFE_SPARE_PCT : Fld := ⟨215, 280, 16, 8, 0⟩
def FTL_LIFE_WEAR_PCT : Fld := ⟨215, 280, 8, 8, 0⟩
def FTL_LIFE_PCT : Fld := ⟨215, 280, 0, 8, 0⟩
def FTL_LIFE_SEL_BRICK : Fld := ⟨215, 288, 0, 7, 0⟩
def FTL_LIFE_BRICK_SPARE_TOTAL : Fld := ⟨215, 296, 48, 16, 0⟩
def FTL_LIFE_BRICK_SPARE_USED : Fld := ⟨215, 296, 32, 16, 0⟩
def FTL_LIFE_BRICK_SPARE_PCT : Fld := ⟨215, 296, 16, 8, 0⟩
def FTL_LIFE_BRICK_WEAR_PCT : Fld := ⟨215, 296, 8, 8, 0⟩
def FTL_LIFE_BRICK_PCT : Fld := ⟨215, 296, 0, 8, 0⟩
def FTL_VAULT_CFG_HOLDUP_BEATS : Fld := ⟨216, 256, 0, 32, 0⟩
def FTL_VAULT_STAT_STATE : Fld := ⟨216, 264, 62, 2, 0⟩
def FTL_VAULT_STAT_EXPECT_BEATS : Fld := ⟨216, 264, 32, 24, 0⟩
def FTL_VAULT_STAT_LAST_BEATS : Fld := ⟨216, 264, 0, 32, 0⟩
def FTL_RECOVER_STAT_PHASE : Fld := ⟨216, 272, 62, 2, 0⟩
def FTL_RECOVER_STAT_DEFERRED : Fld := ⟨216, 272, 32, 24, 0⟩
def FTL_RECOVER_STAT_BEATS : Fld := ⟨216, 272, 0, 32, 0⟩
def FTL_SAT_STAT_CHUNKS : Fld := ⟨216, 280, 0, 32, 0⟩
def FTL_CNT_MAP_WB_COUNT : Fld := ⟨217, 256, 0, 64, 0⟩
def FTL_CNT_CTB_WB_COUNT : Fld := ⟨217, 264, 0, 64, 0⟩
def FTL_CNT_SUM_WB_COUNT : Fld := ⟨217, 272, 0, 64, 0⟩
def FTL_CNT_LEAF_WB_COUNT : Fld := ⟨217, 280, 0, 64, 0⟩
def FTL_CNT_CKPT_COUNT : Fld := ⟨217, 288, 0, 64, 0⟩
def FTL_CNT_DIR_MISS_COUNT : Fld := ⟨217, 296, 0, 64, 0⟩
def FTL_CNT_DIR_LOAD_COUNT : Fld := ⟨217, 304, 0, 64, 0⟩
def FTL_CNT_DIR_EVICT_COUNT : Fld := ⟨217, 312, 0, 64, 0⟩
def FTL_CNT_RELEASE_COUNT : Fld := ⟨217, 320, 0, 64, 0⟩
def FTL_CNT_REPLAY_COUNT : Fld := ⟨217, 328, 0, 64, 0⟩
def FTL_CNT_SCAN_COUNT : Fld := ⟨217, 336, 0, 64, 0⟩
def FTL_CNT_REFRESH_RD_COUNT : Fld := ⟨217, 344, 0, 64, 0⟩
def FTL_CNT_REFRESH_RET_COUNT : Fld := ⟨217, 352, 0, 64, 0⟩
def FTL_CNT_WL_COUNT : Fld := ⟨217, 360, 0, 64, 0⟩
def FTL_CNT_PEER_PAGE_COUNT : Fld := ⟨217, 368, 0, 64, 0⟩
def FTL_CNT_LOG_HOLD_COUNT : Fld := ⟨217, 376, 0, 64, 0⟩
def FTL_CNT_VAULT_ROWS_COUNT : Fld := ⟨217, 384, 0, 64, 0⟩
def FTL_CNT_VAULT_REWRITE_COUNT : Fld := ⟨217, 392, 0, 64, 0⟩

/-! ### BND -/
def BND_CFG_D_B : Fld := ⟨218, 256, 24, 6, 16⟩
def BND_CFG_P_B : Fld := ⟨218, 256, 16, 2, 3⟩
def BND_CFG_D_A : Fld := ⟨218, 256, 8, 6, 16⟩
def BND_CFG_P_A : Fld := ⟨218, 256, 0, 2, 3⟩
def BND_STAT_OPEN : Fld := ⟨218, 264, 48, 16, 0⟩
def BND_STAT_VICTIM : Fld := ⟨218, 264, 32, 16, 0⟩
def BND_STAT_ERASABLE : Fld := ⟨218, 264, 16, 16, 0⟩
def BND_STAT_HELD : Fld := ⟨218, 264, 0, 16, 0⟩
def BND_SPACE_A_FREE_PCT : Fld := ⟨218, 272, 56, 8, 0⟩
def BND_SPACE_A_UNITS : Fld := ⟨218, 272, 0, 56, 0⟩
def BND_SPACE_B_FREE_PCT : Fld := ⟨218, 280, 56, 8, 0⟩
def BND_SPACE_B_UNITS : Fld := ⟨218, 280, 0, 56, 0⟩
def BND_SLC_STAT_FREE_PCT_A : Fld := ⟨218, 288, 56, 8, 0⟩
def BND_SLC_STAT_FREE_PCT_B : Fld := ⟨218, 288, 48, 8, 0⟩
def BND_SLC_STAT_LIVE_UNITS : Fld := ⟨218, 288, 0, 48, 0⟩
def BND_RELOC_STAT_ACTIVE : Fld := ⟨218, 296, 48, 16, 0⟩
def BND_RELOC_STAT_QUEUED : Fld := ⟨218, 296, 32, 16, 0⟩
def BND_RELOC_STAT_PINNED : Fld := ⟨218, 296, 0, 32, 0⟩
def BND_QUERY_MEMBER : Fld := ⟨219, 256, 32, 5, 0⟩
def BND_QUERY_BAND : Fld := ⟨219, 256, 0, 32, 0⟩
def BND_QUERY_ENT_STATE : Fld := ⟨219, 264, 60, 4, 0⟩
def BND_QUERY_ENT_MODE : Fld := ⟨219, 264, 59, 1, 0⟩
def BND_QUERY_ENT_KIND : Fld := ⟨219, 264, 58, 1, 0⟩
def BND_QUERY_ENT_SHARD : Fld := ⟨219, 264, 57, 1, 0⟩
def BND_QUERY_ENT_D : Fld := ⟨219, 264, 51, 6, 0⟩
def BND_QUERY_ENT_P : Fld := ⟨219, 264, 49, 2, 0⟩
def BND_QUERY_ENT_ROWS : Fld := ⟨219, 264, 36, 13, 0⟩
def BND_QUERY_ENT_LIVE_UNITS : Fld := ⟨219, 264, 0, 24, 0⟩
def BND_QUERY_MEM_MEMBER : Fld := ⟨219, 272, 0, 32, 0⟩
def BND_BRICK_SEL_BRICK : Fld := ⟨219, 280, 0, 7, 0⟩
def BND_BRICK_STAT_EXHAUSTED : Fld := ⟨219, 288, 63, 1, 0⟩
def BND_BRICK_STAT_PRESENT : Fld := ⟨219, 288, 62, 1, 0⟩
def BND_BRICK_STAT_FREE_BLOCKS : Fld := ⟨219, 288, 32, 20, 0⟩
def BND_BRICK_STAT_SPARES_LEFT : Fld := ⟨219, 288, 16, 16, 0⟩
def BND_BRICK_STAT_RETIRED : Fld := ⟨219, 288, 0, 16, 0⟩
def BND_RETIRE_Q_VALID : Fld := ⟨219, 296, 63, 1, 0⟩
def BND_RETIRE_Q_CAUSE : Fld := ⟨219, 296, 60, 3, 0⟩
def BND_RETIRE_Q_MEMBER : Fld := ⟨219, 296, 0, 32, 0⟩
def BND_RETIRE_INFO_ERASES : Fld := ⟨220, 256, 48, 16, 0⟩
def BND_RETIRE_INFO_BEAT : Fld := ⟨220, 256, 0, 48, 0⟩
def BND_ERASE_STAT_QUEUED : Fld := ⟨220, 264, 32, 32, 0⟩
def BND_ERASE_STAT_WAITING : Fld := ⟨220, 264, 0, 32, 0⟩
def BND_CNT_OPEN_COUNT : Fld := ⟨220, 272, 0, 64, 0⟩
def BND_CNT_SEAL_COUNT : Fld := ⟨220, 280, 0, 64, 0⟩
def BND_CNT_ERASE_COUNT : Fld := ⟨220, 288, 0, 64, 0⟩
def BND_CNT_GC_COUNT : Fld := ⟨220, 296, 0, 64, 0⟩
def BND_CNT_FOLD_COUNT : Fld := ⟨220, 304, 0, 64, 0⟩
def BND_CNT_BYPASS_COUNT : Fld := ⟨220, 312, 0, 64, 0⟩
def BND_CNT_RELOC_CHUNKS_COUNT : Fld := ⟨221, 256, 0, 64, 0⟩
def BND_CNT_RELOC_UNITS_COUNT : Fld := ⟨221, 264, 0, 64, 0⟩
def BND_CNT_PROG_FAIL_COUNT : Fld := ⟨221, 272, 0, 64, 0⟩
def BND_CNT_ERASE_FAIL_COUNT : Fld := ⟨221, 280, 0, 64, 0⟩
def BND_CNT_RETIRE_COUNT : Fld := ⟨221, 288, 0, 64, 0⟩
def BND_CNT_REPLACE_COUNT : Fld := ⟨221, 296, 0, 64, 0⟩
def BND_CNT_ORPHAN_UNITS_COUNT : Fld := ⟨221, 304, 0, 64, 0⟩
def BND_CNT_ZERO_UNITS_COUNT : Fld := ⟨221, 312, 0, 64, 0⟩
def BND_CNT_NOBAND_COUNT : Fld := ⟨221, 320, 0, 64, 0⟩
def BND_CNT_RSV_DRAW_COUNT : Fld := ⟨221, 328, 0, 64, 0⟩
def BND_CNT_SUM_PAGES_COUNT : Fld := ⟨221, 336, 0, 64, 0⟩
def BND_CNT_ROWS_COUNT : Fld := ⟨221, 344, 0, 64, 0⟩

/-! ### MDL -/
def MDL_LINK_CFG_RECOVER_TMO (ln : Nat) : Fld := ⟨(222 + ln / 4), (256 + 8 * (ln % 4)), 8, 8, 8⟩
def MDL_LINK_CFG_TX_PRESET (ln : Nat) : Fld := ⟨(222 + ln / 4), (256 + 8 * (ln % 4)), 4, 4, 0⟩
def MDL_LINK_CFG_URGENT_EN (ln : Nat) : Fld := ⟨(222 + ln / 4), (256 + 8 * (ln % 4)), 1, 1, 1⟩
def MDL_LINK_CTL_RETRAIN (ln : Nat) : Fld := ⟨(222 + ln / 4), (288 + 8 * (ln % 4)), 2, 1, 0⟩
def MDL_LINK_CTL_DOWN (ln : Nat) : Fld := ⟨(222 + ln / 4), (288 + 8 * (ln % 4)), 1, 1, 0⟩
def MDL_LINK_CTL_ENABLE (ln : Nat) : Fld := ⟨(222 + ln / 4), (288 + 8 * (ln % 4)), 0, 1, 0⟩
def MDL_LINK_STAT_STATE (ln : Nat) : Fld := ⟨(222 + ln / 4), (320 + 8 * (ln % 4)), 61, 3, 0⟩
def MDL_LINK_STAT_PORT (ln : Nat) : Fld := ⟨(222 + ln / 4), (320 + 8 * (ln % 4)), 60, 1, 0⟩
def MDL_LINK_STAT_OTHER (ln : Nat) : Fld := ⟨(222 + ln / 4), (320 + 8 * (ln % 4)), 59, 1, 0⟩
def MDL_LINK_STAT_DETECTS (ln : Nat) : Fld := ⟨(222 + ln / 4), (320 + 8 * (ln % 4)), 32, 16, 0⟩
def MDL_LINK_STAT_UP_BEAT (ln : Nat) : Fld := ⟨(222 + ln / 4), (320 + 8 * (ln % 4)), 0, 32, 0⟩
def MDL_FEC_CNT_CORRECTED (ln : Nat) : Fld := ⟨(222 + ln / 4), (352 + 8 * (ln % 4)), 32, 32, 0⟩
def MDL_FEC_CNT_UNCORR (ln : Nat) : Fld := ⟨(222 + ln / 4), (352 + 8 * (ln % 4)), 0, 32, 0⟩
def MDL_REPLAY_CNT_CRC_FAIL (ln : Nat) : Fld := ⟨(222 + ln / 4), (384 + 8 * (ln % 4)), 32, 32, 0⟩
def MDL_REPLAY_CNT_NAKS (ln : Nat) : Fld := ⟨(222 + ln / 4), (384 + 8 * (ln % 4)), 16, 16, 0⟩
def MDL_REPLAY_CNT_TIMER (ln : Nat) : Fld := ⟨(222 + ln / 4), (384 + 8 * (ln % 4)), 0, 16, 0⟩
def MDL_CREDIT_CMD_ADV (ln : Nat) : Fld := ⟨(222 + ln / 4), (416 + 8 * (ln % 4)), 48, 16, 0⟩
def MDL_CREDIT_CMD_AVAIL (ln : Nat) : Fld := ⟨(222 + ln / 4), (416 + 8 * (ln % 4)), 32, 16, 0⟩
def MDL_CREDIT_WDATA_ADV (ln : Nat) : Fld := ⟨(222 + ln / 4), (416 + 8 * (ln % 4)), 16, 16, 0⟩
def MDL_CREDIT_WDATA_AVAIL (ln : Nat) : Fld := ⟨(222 + ln / 4), (416 + 8 * (ln % 4)), 0, 16, 0⟩
def MDL_OPS_OUTSTANDING (ln : Nat) : Fld := ⟨(222 + ln / 4), (448 + 8 * (ln % 4)), 48, 16, 0⟩
def MDL_OPS_TIMEOUTS (ln : Nat) : Fld := ⟨(222 + ln / 4), (448 + 8 * (ln % 4)), 32, 16, 0⟩
def MDL_OPS_URGENT (ln : Nat) : Fld := ⟨(222 + ln / 4), (448 + 8 * (ln % 4)), 0, 32, 0⟩

/-! ### BRK -/
def BRK_STAT_STATE (k : Nat) : Fld := ⟨(254 + k / 16), (256 + 8 * (k % 16)), 60, 4, 0⟩
def BRK_STAT_SB_PRESENT (k : Nat) : Fld := ⟨(254 + k / 16), (256 + 8 * (k % 16)), 59, 1, 0⟩
def BRK_STAT_SIDE_A (k : Nat) : Fld := ⟨(254 + k / 16), (256 + 8 * (k % 16)), 58, 1, 0⟩
def BRK_STAT_SIDE_B (k : Nat) : Fld := ⟨(254 + k / 16), (256 + 8 * (k % 16)), 57, 1, 0⟩
def BRK_STAT_SLOT (k : Nat) : Fld := ⟨(254 + k / 16), (256 + 8 * (k % 16)), 48, 4, 0⟩
def BRK_STAT_TEMP (k : Nat) : Fld := ⟨(254 + k / 16), (256 + 8 * (k % 16)), 40, 8, 0⟩
def BRK_STAT_DIES (k : Nat) : Fld := ⟨(254 + k / 16), (256 + 8 * (k % 16)), 0, 7, 0⟩
def BRK_ID_VENDOR (k : Nat) : Fld := ⟨(254 + k / 16), (384 + 8 * (k % 16)), 48, 16, 0⟩
def BRK_ID_SERIAL (k : Nat) : Fld := ⟨(254 + k / 16), (384 + 8 * (k % 16)), 0, 48, 0⟩
def BRK_ARRAY_ID (k : Nat) : Fld := ⟨(254 + k / 16), (512 + 8 * (k % 16)), 0, 64, 0⟩
def BRK_OWN_EPOCH_A (k : Nat) : Fld := ⟨(254 + k / 16), (640 + 8 * (k % 16)), 32, 32, 0⟩
def BRK_OWN_EPOCH_B (k : Nat) : Fld := ⟨(254 + k / 16), (640 + 8 * (k % 16)), 0, 32, 0⟩
def BRK_CMD_OP (k : Nat) : Fld := ⟨(254 + k / 16), (768 + 8 * (k % 16)), 60, 4, 0⟩
def BRK_CMD_STAT_BUSY (k : Nat) : Fld := ⟨(254 + k / 16), (896 + 8 * (k % 16)), 63, 1, 0⟩
def BRK_CMD_STAT_RESULT (k : Nat) : Fld := ⟨(254 + k / 16), (896 + 8 * (k % 16)), 60, 3, 0⟩
def BRK_CMD_STAT_CONDITION (k : Nat) : Fld := ⟨(254 + k / 16), (896 + 8 * (k % 16)), 32, 16, 0⟩
def BRK_CMD_STAT_BEAT (k : Nat) : Fld := ⟨(254 + k / 16), (896 + 8 * (k % 16)), 0, 32, 0⟩
def BRK_SB_STATUS (k : Nat) : Fld := ⟨(254 + k / 16), (1024 + 8 * (k % 16)), 56, 8, 0⟩
def BRK_SB_ATTN (k : Nat) : Fld := ⟨(254 + k / 16), (1024 + 8 * (k % 16)), 48, 8, 0⟩
def BRK_SB_NAKS (k : Nat) : Fld := ⟨(254 + k / 16), (1024 + 8 * (k % 16)), 0, 16, 0⟩
def BRK_CNT_REFUSED (k : Nat) : Fld := ⟨(254 + k / 16), (1152 + 8 * (k % 16)), 32, 32, 0⟩
def BRK_CNT_UNCORR (k : Nat) : Fld := ⟨(254 + k / 16), (1152 + 8 * (k % 16)), 0, 32, 0⟩

/-! ### DSL -/
def DSL_CPH_HARDEN_DUMMY (i : Nat) : Fld := ⟨(134 + 5 * i), 256, 1, 3, 4⟩
def DSL_CPH_HARDEN_SHUFFLE (i : Nat) : Fld := ⟨(134 + 5 * i), 256, 0, 1, 1⟩
def DSL_CPH_STAT_CTX_USED (i : Nat) : Fld := ⟨(134 + 5 * i), 264, 32, 9, 0⟩
def DSL_CPH_STAT_LANES_BUSY (i : Nat) : Fld := ⟨(134 + 5 * i), 264, 0, 8, 0⟩
def DSL_CPH_KEY_STAT_RESIDENT (i : Nat) : Fld := ⟨(134 + 5 * i), 272, 32, 10, 0⟩
def DSL_CPH_KEY_STAT_PINNED (i : Nat) : Fld := ⟨(134 + 5 * i), 272, 16, 9, 0⟩
def DSL_CPH_KEY_STAT_FETCHING (i : Nat) : Fld := ⟨(134 + 5 * i), 272, 0, 5, 0⟩
def DSL_CPH_CNT_SEG_COUNT (i : Nat) : Fld := ⟨(134 + 5 * i), 280, 0, 64, 0⟩
def DSL_CPH_CNT_AUTH_COUNT (i : Nat) : Fld := ⟨(134 + 5 * i), 288, 0, 64, 0⟩
def DSL_CPH_CNT_KEY_MISS_COUNT (i : Nat) : Fld := ⟨(134 + 5 * i), 296, 0, 64, 0⟩
def DSL_CPH_CNT_ZERO_COUNT (i : Nat) : Fld := ⟨(134 + 5 * i), 304, 0, 64, 0⟩
def DSL_DIG_CFG_SW_SEGS (i : Nat) : Fld := ⟨(135 + 5 * i), 256, 16, 5, 4⟩
def DSL_DIG_CFG_SW_CTX (i : Nat) : Fld := ⟨(135 + 5 * i), 256, 0, 6, 8⟩
def DSL_DIG_SUBMIT_ADDR (i : Nat) : Fld := ⟨(135 + 5 * i), 264, 6, 42, 0⟩
def DSL_DIG_STAT_CTX_USED (i : Nat) : Fld := ⟨(135 + 5 * i), 272, 32, 7, 0⟩
def DSL_DIG_STAT_SW_RUNNING (i : Nat) : Fld := ⟨(135 + 5 * i), 272, 16, 6, 0⟩
def DSL_DIG_STAT_DONE_QUEUED (i : Nat) : Fld := ⟨(135 + 5 * i), 272, 0, 6, 0⟩
def DSL_DIG_DONE_Q_VALID (i : Nat) : Fld := ⟨(135 + 5 * i), 280, 63, 1, 0⟩
def DSL_DIG_DONE_Q_CONDITION (i : Nat) : Fld := ⟨(135 + 5 * i), 280, 32, 16, 0⟩
def DSL_DIG_DONE_Q_JOB_TAG (i : Nat) : Fld := ⟨(135 + 5 * i), 280, 0, 32, 0⟩
def DSL_DIG_DONE_INFO_BYTES (i : Nat) : Fld := ⟨(135 + 5 * i), 288, 0, 40, 0⟩
def DSL_DIG_CNT_JOBS_COUNT (i : Nat) : Fld := ⟨(135 + 5 * i), 296, 0, 64, 0⟩
def DSL_DIG_CNT_BYTES_COUNT (i : Nat) : Fld := ⟨(135 + 5 * i), 304, 0, 64, 0⟩
def DSL_DIG_CNT_FAIL_COUNT (i : Nat) : Fld := ⟨(135 + 5 * i), 312, 0, 64, 0⟩
def DSL_CMP_CFG_INFL_EN (i : Nat) : Fld := ⟨(136 + 5 * i), 256, 32, 24, 16777215⟩
def DSL_CMP_CFG_DEFL_EN (i : Nat) : Fld := ⟨(136 + 5 * i), 256, 24, 8, 255⟩
def DSL_CMP_CFG_EFFORT (i : Nat) : Fld := ⟨(136 + 5 * i), 256, 0, 2, 2⟩
def DSL_CMP_STAT_INFL_BUSY (i : Nat) : Fld := ⟨(136 + 5 * i), 264, 32, 24, 0⟩
def DSL_CMP_STAT_DEFL_BUSY (i : Nat) : Fld := ⟨(136 + 5 * i), 264, 24, 8, 0⟩
def DSL_CMP_STAT_DEFL_SEGS (i : Nat) : Fld := ⟨(136 + 5 * i), 264, 16, 6, 0⟩
def DSL_CMP_STAT_INFL_SEGS (i : Nat) : Fld := ⟨(136 + 5 * i), 264, 8, 8, 0⟩
def DSL_CMP_FAIL_CONDITION (i : Nat) : Fld := ⟨(136 + 5 * i), 272, 48, 16, 0⟩
def DSL_CMP_FAIL_OUT_BYTES (i : Nat) : Fld := ⟨(136 + 5 * i), 272, 31, 17, 0⟩
def DSL_CMP_FAIL_BIT_OFFSET (i : Nat) : Fld := ⟨(136 + 5 * i), 272, 0, 20, 0⟩
def DSL_CMP_CNT_INFL_COUNT (i : Nat) : Fld := ⟨(136 + 5 * i), 280, 0, 64, 0⟩
def DSL_CMP_CNT_DEFL_COUNT (i : Nat) : Fld := ⟨(136 + 5 * i), 288, 0, 64, 0⟩
def DSL_CMP_CNT_OUTCOME_FULL (i : Nat) : Fld := ⟨(136 + 5 * i), 296, 32, 32, 0⟩
def DSL_CMP_CNT_OUTCOME_INFL_FAIL (i : Nat) : Fld := ⟨(136 + 5 * i), 296, 0, 32, 0⟩
def DSL_ERC_STAT_ACTIVE (i : Nat) : Fld := ⟨(137 + 5 * i), 256, 0, 6, 0⟩
def DSL_ERC_CNT_JOBS_COUNT (i : Nat) : Fld := ⟨(137 + 5 * i), 264, 0, 64, 0⟩
def DSL_ERC_CNT_ENC_COUNT (i : Nat) : Fld := ⟨(137 + 5 * i), 272, 0, 64, 0⟩
def DSL_ERC_CNT_REBUILD_COUNT (i : Nat) : Fld := ⟨(137 + 5 * i), 280, 0, 64, 0⟩
def DSL_ERC_CNT_FAIL_COUNT (i : Nat) : Fld := ⟨(137 + 5 * i), 288, 0, 64, 0⟩
def DSL_CTX_STAGE_PEAK (i : Nat) : Fld := ⟨(138 + 5 * i), 256, 32, 11, 0⟩
def DSL_CTX_STAGE_USED (i : Nat) : Fld := ⟨(138 + 5 * i), 256, 0, 11, 0⟩
def DSL_CTX_LOAD_CIPHER (i : Nat) : Fld := ⟨(138 + 5 * i), 264, 47, 9, 0⟩
def DSL_CTX_LOAD_ERC (i : Nat) : Fld := ⟨(138 + 5 * i), 264, 41, 6, 0⟩
def DSL_CTX_LOAD_CHUNKER (i : Nat) : Fld := ⟨(138 + 5 * i), 264, 35, 6, 0⟩
def DSL_CTX_LOAD_SHA512 (i : Nat) : Fld := ⟨(138 + 5 * i), 264, 30, 5, 0⟩
def DSL_CTX_LOAD_SHA256 (i : Nat) : Fld := ⟨(138 + 5 * i), 264, 25, 5, 0⟩
def DSL_CTX_LOAD_SLOTS (i : Nat) : Fld := ⟨(138 + 5 * i), 264, 0, 8, 0⟩
def DSL_CTX_SEL_KIND (i : Nat) : Fld := ⟨(138 + 5 * i), 272, 8, 1, 0⟩
def DSL_CTX_SEL_INDEX (i : Nat) : Fld := ⟨(138 + 5 * i), 272, 0, 8, 0⟩
def DSL_CTX_VIEW_STATE (i : Nat) : Fld := ⟨(138 + 5 * i), 280, 62, 2, 0⟩
def DSL_CTX_VIEW_USER (i : Nat) : Fld := ⟨(138 + 5 * i), 280, 58, 4, 0⟩
def DSL_CTX_VIEW_SEGS_DONE (i : Nat) : Fld := ⟨(138 + 5 * i), 280, 32, 16, 0⟩
def DSL_CTX_VIEW_TAG (i : Nat) : Fld := ⟨(138 + 5 * i), 280, 0, 32, 0⟩

/-! ### HFI -/
def HFI_IF_BASE_BASE (g : Nat) : Fld := ⟨(56 + 13 * g), 256, 13, 35, 0⟩
def HFI_GRP_CFG_PFC_EN (g : Nat) : Fld := ⟨(56 + 13 * g), 264, 56, 8, 24⟩
def HFI_GRP_CFG_IF_CNT (g : Nat) : Fld := ⟨(56 + 13 * g), 264, 40, 8, 0⟩
def HFI_PRIO_MAP_CTL (g : Nat) : Fld := ⟨(56 + 13 * g), 272, 12, 3, 6⟩
def HFI_PRIO_MAP_PTP (g : Nat) : Fld := ⟨(56 + 13 * g), 272, 9, 3, 7⟩
def HFI_PRIO_MAP_FAB (g : Nat) : Fld := ⟨(56 + 13 * g), 272, 6, 3, 6⟩
def HFI_PRIO_MAP_LDT (g : Nat) : Fld := ⟨(56 + 13 * g), 272, 3, 3, 4⟩
def HFI_PRIO_MAP_NVT (g : Nat) : Fld := ⟨(56 + 13 * g), 272, 0, 3, 3⟩
def HFI_GRP_STAT_IF_VALID (g : Nat) : Fld := ⟨(56 + 13 * g), 280, 40, 8, 0⟩
def HFI_GRP_STAT_IF_REJECTED (g : Nat) : Fld := ⟨(56 + 13 * g), 280, 32, 8, 0⟩
def HFI_GRP_STAT_PORTS_UP (g : Nat) : Fld := ⟨(56 + 13 * g), 280, 16, 6, 0⟩
def HFI_GRP_STAT_PORTS (g : Nat) : Fld := ⟨(56 + 13 * g), 280, 0, 6, 0⟩
def HFI_CNT_RX_DROP_COUNT (g : Nat) : Fld := ⟨(56 + 13 * g), 288, 0, 64, 0⟩
def HFI_CNT_VLAN_DROP_COUNT (g : Nat) : Fld := ⟨(56 + 13 * g), 296, 0, 64, 0⟩
def HFI_CNT_ADDR_DROP_COUNT (g : Nat) : Fld := ⟨(56 + 13 * g), 304, 0, 64, 0⟩
def HFI_CNT_CSUM_DROP_COUNT (g : Nat) : Fld := ⟨(56 + 13 * g), 312, 0, 64, 0⟩
def HFI_CNT_FRAG_DROP_COUNT (g : Nat) : Fld := ⟨(56 + 13 * g), 320, 0, 64, 0⟩
def HFI_CNT_PAUSE_8023X_COUNT (g : Nat) : Fld := ⟨(56 + 13 * g), 328, 0, 64, 0⟩
def HFI_CNT_ARP_ND_COUNT (g : Nat) : Fld := ⟨(56 + 13 * g), 336, 0, 64, 0⟩
def HFI_CNT_ICMP_COUNT (g : Nat) : Fld := ⟨(56 + 13 * g), 344, 0, 64, 0⟩
def HFI_Q_CFG_DETECT (g q : Nat) : Fld := ⟨(57 + 13 * g + q), 256, 8, 1, 0⟩
def HFI_Q_CFG_PORT_EN (g q : Nat) : Fld := ⟨(57 + 13 * g + q), 256, 4, 4, 15⟩
def HFI_Q_CFG_MEDIUM (g q : Nat) : Fld := ⟨(57 + 13 * g + q), 256, 3, 1, 0⟩
def HFI_Q_CFG_QMODE (g q : Nat) : Fld := ⟨(57 + 13 * g + q), 256, 0, 3, 0⟩
def HFI_Q_PFC_XOFF_PCT (g q : Nat) : Fld := ⟨(57 + 13 * g + q), 264, 8, 8, 75⟩
def HFI_Q_PFC_XON_PCT (g q : Nat) : Fld := ⟨(57 + 13 * g + q), 264, 0, 8, 50⟩
def HFI_Q_STAT_LINK_UP (g q : Nat) : Fld := ⟨(57 + 13 * g + q), 272, 8, 4, 0⟩
def HFI_Q_STAT_DETECTING (g q : Nat) : Fld := ⟨(57 + 13 * g + q), 272, 3, 1, 0⟩
def HFI_Q_STAT_MODE (g q : Nat) : Fld := ⟨(57 + 13 * g + q), 272, 0, 3, 0⟩
def HFI_PORT_STAT_STATE (g q n : Nat) : Fld := ⟨(57 + 13 * g + q), (280 + 8 * n), 60, 4, 0⟩
def HFI_PORT_STAT_WIDTH (g q n : Nat) : Fld := ⟨(57 + 13 * g + q), (280 + 8 * n), 56, 4, 0⟩
def HFI_PORT_STAT_FLAPS (g q n : Nat) : Fld := ⟨(57 + 13 * g + q), (280 + 8 * n), 32, 16, 0⟩
def HFI_PORT_STAT_UP_BEAT (g q n : Nat) : Fld := ⟨(57 + 13 * g + q), (280 + 8 * n), 0, 32, 0⟩
def HFI_FEC_CNT_CORRECTED (g q n : Nat) : Fld := ⟨(57 + 13 * g + q), (312 + 8 * n), 32, 32, 0⟩
def HFI_FEC_CNT_UNCORR (g q n : Nat) : Fld := ⟨(57 + 13 * g + q), (312 + 8 * n), 0, 32, 0⟩
def HFI_CNT_RX_FRAMES_COUNT (g q n : Nat) : Fld := ⟨(57 + 13 * g + q), (344 + 8 * n), 0, 64, 0⟩
def HFI_CNT_TX_FRAMES_COUNT (g q n : Nat) : Fld := ⟨(57 + 13 * g + q), (376 + 8 * n), 0, 64, 0⟩
def HFI_CNT_RX_BYTES_COUNT (g q n : Nat) : Fld := ⟨(57 + 13 * g + q), (408 + 8 * n), 0, 64, 0⟩
def HFI_CNT_TX_BYTES_COUNT (g q n : Nat) : Fld := ⟨(57 + 13 * g + q), (440 + 8 * n), 0, 64, 0⟩
def HFI_CNT_RX_ERR_COUNT (g q n : Nat) : Fld := ⟨(57 + 13 * g + q), (472 + 8 * n), 0, 64, 0⟩
def HFI_CNT_PFC_RX_COUNT (g q n : Nat) : Fld := ⟨(57 + 13 * g + q), (504 + 8 * n), 0, 64, 0⟩
def HFI_CNT_PFC_TX_COUNT (g q n : Nat) : Fld := ⟨(57 + 13 * g + q), (536 + 8 * n), 0, 64, 0⟩

/-! ### NVT -/
def NVT_CFG_MAX_IOQ (i : Nat) : Fld := ⟨(82 + 8 * i), 256, 56, 8, 128⟩
def NVT_CFG_CONNECT_TMO (i : Nat) : Fld := ⟨(82 + 8 * i), 256, 32, 16, 128⟩
def NVT_CFG_ICREQ_TMO (i : Nat) : Fld := ⟨(82 + 8 * i), 256, 16, 16, 128⟩
def NVT_CFG_ECN_EN (i : Nat) : Fld := ⟨(82 + 8 * i), 256, 0, 1, 1⟩
def NVT_TCP_CFG_RTO_MAX (i : Nat) : Fld := ⟨(82 + 8 * i), 264, 48, 16, 128⟩
def NVT_TCP_CFG_RTO_MIN (i : Nat) : Fld := ⟨(82 + 8 * i), 264, 32, 16, 25⟩
def NVT_TCP_CFG_RETRIES (i : Nat) : Fld := ⟨(82 + 8 * i), 264, 24, 8, 15⟩
def NVT_TCP_CFG_TIME_WAIT (i : Nat) : Fld := ⟨(82 + 8 * i), 264, 0, 16, 8⟩
def NVT_CTRL_BASE_BASE (i : Nat) : Fld := ⟨(82 + 8 * i), 272, 24, 24, 0⟩
def NVT_STAT_CTRLS (i : Nat) : Fld := ⟨(82 + 8 * i), 280, 48, 11, 0⟩
def NVT_STAT_IOQ (i : Nat) : Fld := ⟨(82 + 8 * i), 280, 32, 12, 0⟩
def NVT_STAT_TCP (i : Nat) : Fld := ⟨(82 + 8 * i), 280, 0, 16, 0⟩
def NVT_ANA_STAT_STATE (i : Nat) : Fld := ⟨(82 + 8 * i), 288, 60, 4, 0⟩
def NVT_ANA_STAT_CHANGES (i : Nat) : Fld := ⟨(82 + 8 * i), 288, 0, 32, 0⟩
def NVT_ST_STAT_RUNNING (i : Nat) : Fld := ⟨(82 + 8 * i), 296, 63, 1, 0⟩
def NVT_ST_STAT_PAUSED (i : Nat) : Fld := ⟨(82 + 8 * i), 296, 62, 1, 0⟩
def NVT_ST_STAT_CODE (i : Nat) : Fld := ⟨(82 + 8 * i), 296, 56, 4, 0⟩
def NVT_ST_STAT_PCT (i : Nat) : Fld := ⟨(82 + 8 * i), 296, 48, 8, 0⟩
def NVT_ST_STAT_SEGMENT (i : Nat) : Fld := ⟨(82 + 8 * i), 296, 40, 8, 0⟩
def NVT_ST_STAT_CNTLID (i : Nat) : Fld := ⟨(82 + 8 * i), 296, 0, 16, 0⟩
def NVT_CNT_SYN_COUNT (i : Nat) : Fld := ⟨(82 + 8 * i), 304, 0, 64, 0⟩
def NVT_CNT_SYN_REFUSED_COUNT (i : Nat) : Fld := ⟨(82 + 8 * i), 312, 0, 64, 0⟩
def NVT_CNT_CONN_CLOSED_COUNT (i : Nat) : Fld := ⟨(82 + 8 * i), 320, 0, 64, 0⟩
def NVT_CNT_TERM_SENT_COUNT (i : Nat) : Fld := ⟨(82 + 8 * i), 328, 0, 64, 0⟩
def NVT_CNT_KATO_COUNT (i : Nat) : Fld := ⟨(82 + 8 * i), 336, 0, 64, 0⟩
def NVT_LISTEN_EN (i k : Nat) : Fld := ⟨(82 + 8 * i), (384 + 8 * k), 63, 1, 0⟩
def NVT_LISTEN_IF (i k : Nat) : Fld := ⟨(82 + 8 * i), (384 + 8 * k), 56, 7, 0⟩
def NVT_LISTEN_DISC (i k : Nat) : Fld := ⟨(82 + 8 * i), (384 + 8 * k), 55, 1, 0⟩
def NVT_LISTEN_TCP_PORT (i k : Nat) : Fld := ⟨(82 + 8 * i), (384 + 8 * k), 0, 16, 4420⟩
def NVT_CONNECT_Q_VALID (i : Nat) : Fld := ⟨(83 + 8 * i), 256, 63, 1, 0⟩
def NVT_CONNECT_Q_CTRL (i : Nat) : Fld := ⟨(83 + 8 * i), 256, 48, 10, 0⟩
def NVT_CONNECT_Q_SLOT (i : Nat) : Fld := ⟨(83 + 8 * i), 256, 42, 6, 0⟩
def NVT_CONNECT_Q_CNTLID (i : Nat) : Fld := ⟨(83 + 8 * i), 256, 0, 16, 0⟩
def NVT_CONNECT_INFO_IF (i : Nat) : Fld := ⟨(83 + 8 * i), 264, 57, 7, 0⟩
def NVT_CONNECT_INFO_V6 (i : Nat) : Fld := ⟨(83 + 8 * i), 264, 56, 1, 0⟩
def NVT_CONNECT_INFO_KATO (i : Nat) : Fld := ⟨(83 + 8 * i), 264, 0, 32, 0⟩
def NVT_CONNECT_ANS_ACTION (i : Nat) : Fld := ⟨(83 + 8 * i), 272, 62, 2, 0⟩
def NVT_CONNECT_ANS_SLOT (i : Nat) : Fld := ⟨(83 + 8 * i), 272, 42, 6, 0⟩
def NVT_CTRL_SEL_CTRL (i : Nat) : Fld := ⟨(83 + 8 * i), 280, 0, 10, 0⟩
def NVT_CTRL_VIEW_STATE (i : Nat) : Fld := ⟨(83 + 8 * i), 288, 62, 2, 0⟩
def NVT_CTRL_VIEW_IOQ (i : Nat) : Fld := ⟨(83 + 8 * i), 288, 54, 8, 0⟩
def NVT_CTRL_VIEW_GRANTED (i : Nat) : Fld := ⟨(83 + 8 * i), 288, 46, 8, 0⟩
def NVT_CTRL_VIEW_AER (i : Nat) : Fld := ⟨(83 + 8 * i), 288, 40, 4, 0⟩
def NVT_CTRL_VIEW_CNTLID (i : Nat) : Fld := ⟨(83 + 8 * i), 288, 0, 16, 0⟩
def NVT_CTRL_CMD_OP (i : Nat) : Fld := ⟨(83 + 8 * i), 296, 60, 4, 0⟩
def NVT_CTRL_CMD_CTRL (i : Nat) : Fld := ⟨(83 + 8 * i), 296, 0, 10, 0⟩
def NVT_CTRL_CMD_STAT_BUSY (i : Nat) : Fld := ⟨(83 + 8 * i), 304, 63, 1, 0⟩
def NVT_CTRL_CMD_STAT_RESULT (i : Nat) : Fld := ⟨(83 + 8 * i), 304, 60, 3, 0⟩
def NVT_CTRL_CMD_STAT_CONDITION (i : Nat) : Fld := ⟨(83 + 8 * i), 304, 32, 16, 0⟩
def NVT_CNT_CONNECT_COUNT (i : Nat) : Fld := ⟨(83 + 8 * i), 312, 0, 64, 0⟩
def NVT_CNT_CONNECT_REFUSED_COUNT (i : Nat) : Fld := ⟨(83 + 8 * i), 320, 0, 64, 0⟩
def NVT_CNT_TEARDOWN_COUNT (i : Nat) : Fld := ⟨(83 + 8 * i), 328, 0, 64, 0⟩
def NVT_CNT_AEN_COUNT (i : Nat) : Fld := ⟨(83 + 8 * i), 336, 0, 64, 0⟩
def NVT_CNT_ADMIN_COUNT (i : Nat) : Fld := ⟨(83 + 8 * i), 344, 0, 64, 0⟩
def NVT_CONN_SEL_CONN (i : Nat) : Fld := ⟨(84 + 8 * i), 256, 0, 15, 0⟩
def NVT_CONN_VIEW_TCP_STATE (i : Nat) : Fld := ⟨(84 + 8 * i), 264, 60, 4, 0⟩
def NVT_CONN_VIEW_NVT_STATE (i : Nat) : Fld := ⟨(84 + 8 * i), 264, 56, 4, 0⟩
def NVT_CONN_VIEW_HDGST (i : Nat) : Fld := ⟨(84 + 8 * i), 264, 55, 1, 0⟩
def NVT_CONN_VIEW_DDGST (i : Nat) : Fld := ⟨(84 + 8 * i), 264, 54, 1, 0⟩
def NVT_CONN_VIEW_ECN (i : Nat) : Fld := ⟨(84 + 8 * i), 264, 53, 1, 0⟩
def NVT_CONN_VIEW_QID (i : Nat) : Fld := ⟨(84 + 8 * i), 264, 32, 16, 0⟩
def NVT_CONN_VIEW_CNTLID (i : Nat) : Fld := ⟨(84 + 8 * i), 264, 16, 16, 0⟩
def NVT_CONN_VIEW_SQSIZE (i : Nat) : Fld := ⟨(84 + 8 * i), 264, 0, 10, 0⟩
def NVT_CONN_TCP_STALL (i : Nat) : Fld := ⟨(84 + 8 * i), 272, 48, 16, 0⟩
def NVT_CONN_TCP_OUTSTANDING (i : Nat) : Fld := ⟨(84 + 8 * i), 272, 32, 16, 0⟩
def NVT_CONN_TCP_SRTT (i : Nat) : Fld := ⟨(84 + 8 * i), 272, 0, 32, 0⟩
def NVT_CNT_PDU_RX_COUNT (i : Nat) : Fld := ⟨(84 + 8 * i), 280, 0, 64, 0⟩
def NVT_CNT_PDU_TX_COUNT (i : Nat) : Fld := ⟨(84 + 8 * i), 288, 0, 64, 0⟩
def NVT_CNT_HDGST_ERR_COUNT (i : Nat) : Fld := ⟨(84 + 8 * i), 296, 0, 64, 0⟩
def NVT_CNT_DDGST_ERR_COUNT (i : Nat) : Fld := ⟨(84 + 8 * i), 304, 0, 64, 0⟩
def NVT_CNT_R2T_COUNT (i : Nat) : Fld := ⟨(84 + 8 * i), 312, 0, 64, 0⟩
def NVT_CNT_ICD_COUNT (i : Nat) : Fld := ⟨(84 + 8 * i), 320, 0, 64, 0⟩
def NVT_CNT_RETRANS_COUNT (i : Nat) : Fld := ⟨(84 + 8 * i), 328, 0, 64, 0⟩
def NVT_CNT_ECN_CE_COUNT (i : Nat) : Fld := ⟨(84 + 8 * i), 336, 0, 64, 0⟩
def NVT_CNT_RST_RX_COUNT (i : Nat) : Fld := ⟨(84 + 8 * i), 344, 0, 64, 0⟩
def NVT_STS_SEL_KIND (i p : Nat) : Fld := ⟨(82 + 8 * i + p), 256, 60, 4, 0⟩
def NVT_STS_SEL_ID (i p : Nat) : Fld := ⟨(82 + 8 * i + p), 256, 0, 20, 0⟩
def NVT_STS_CMDS_COUNT (i p : Nat) : Fld := ⟨(82 + 8 * i + p), 264, 0, 64, 0⟩
def NVT_STS_READS_COUNT (i p : Nat) : Fld := ⟨(82 + 8 * i + p), 272, 0, 64, 0⟩
def NVT_STS_WRITES_COUNT (i p : Nat) : Fld := ⟨(82 + 8 * i + p), 280, 0, 64, 0⟩
def NVT_STS_READ_BLOCKS_COUNT (i p : Nat) : Fld := ⟨(82 + 8 * i + p), 288, 0, 64, 0⟩
def NVT_STS_WRITE_BLOCKS_COUNT (i p : Nat) : Fld := ⟨(82 + 8 * i + p), 296, 0, 64, 0⟩
def NVT_STS_FAILED_COUNT (i p : Nat) : Fld := ⟨(82 + 8 * i + p), 304, 0, 64, 0⟩
def NVT_STS_ABORTED_COUNT (i p : Nat) : Fld := ⟨(82 + 8 * i + p), 312, 0, 64, 0⟩
def NVT_STS_DEFERRED_COUNT (i p : Nat) : Fld := ⟨(82 + 8 * i + p), 320, 0, 64, 0⟩
def NVT_STS_ANA_REFUSED_COUNT (i p : Nat) : Fld := ⟨(82 + 8 * i + p), 328, 0, 64, 0⟩
def NVT_STS_LATE_COUNT (i p : Nat) : Fld := ⟨(82 + 8 * i + p), 336, 0, 64, 0⟩
def NVT_STS_XPORT_ERR_COUNT (i p : Nat) : Fld := ⟨(82 + 8 * i + p), 344, 0, 64, 0⟩

/-! ### LDT -/
def LDT_CFG_UDP_PORT (i : Nat) : Fld := ⟨(98 + 8 * i), 256, 48, 16, 7744⟩
def LDT_CFG_MAX_PATHS (i : Nat) : Fld := ⟨(98 + 8 * i), 256, 44, 4, 8⟩
def LDT_CFG_SEG (i : Nat) : Fld := ⟨(98 + 8 * i), 256, 42, 2, 2⟩
def LDT_CFG_ECN_EN (i : Nat) : Fld := ⟨(98 + 8 * i), 256, 32, 1, 1⟩
def LDT_CFG_REKEY_BEATS (i : Nat) : Fld := ⟨(98 + 8 * i), 256, 16, 16, 1024⟩
def LDT_CFG_QDEPTH_MAX (i : Nat) : Fld := ⟨(98 + 8 * i), 256, 0, 11, 1024⟩
def LDT_TMO_CFG_IDLE_TMO (i : Nat) : Fld := ⟨(98 + 8 * i), 264, 48, 16, 64⟩
def LDT_TMO_CFG_RX_MSG_TMO (i : Nat) : Fld := ⟨(98 + 8 * i), 264, 32, 16, 8192⟩
def LDT_TMO_CFG_MSG_TMO (i : Nat) : Fld := ⟨(98 + 8 * i), 264, 16, 16, 2048⟩
def LDT_TMO_CFG_MSG_RETRIES (i : Nat) : Fld := ⟨(98 + 8 * i), 264, 8, 8, 4⟩
def LDT_TMO_CFG_ACCEPT_TMO (i : Nat) : Fld := ⟨(98 + 8 * i), 264, 0, 8, 128⟩
def LDT_ACK_CFG_RTO_MIN (i : Nat) : Fld := ⟨(98 + 8 * i), 272, 56, 8, 8⟩
def LDT_ACK_CFG_RTO_MAX (i : Nat) : Fld := ⟨(98 + 8 * i), 272, 40, 16, 256⟩
def LDT_ACK_CFG_DUP_THRESH (i : Nat) : Fld := ⟨(98 + 8 * i), 272, 32, 8, 3⟩
def LDT_ACK_CFG_ACK_EVERY (i : Nat) : Fld := ⟨(98 + 8 * i), 272, 24, 8, 8⟩
def LDT_ACK_CFG_ACK_DELAY (i : Nat) : Fld := ⟨(98 + 8 * i), 272, 16, 8, 1⟩
def LDT_ACK_CFG_WINDOW (i : Nat) : Fld := ⟨(98 + 8 * i), 272, 0, 13, 4096⟩
def LDT_CTX_BASE_BASE (i : Nat) : Fld := ⟨(98 + 8 * i), 280, 30, 18, 0⟩
def LDT_ACC_BASE_BASE (i : Nat) : Fld := ⟨(98 + 8 * i), 288, 21, 27, 0⟩
def LDT_STAT_SERVING (i : Nat) : Fld := ⟨(98 + 8 * i), 296, 63, 1, 0⟩
def LDT_STAT_CONNS (i : Nat) : Fld := ⟨(98 + 8 * i), 296, 32, 20, 0⟩
def LDT_STAT_ACCEPT_WAIT (i : Nat) : Fld := ⟨(98 + 8 * i), 296, 0, 7, 0⟩
def LDT_CTX_STAT_RESIDENT (i : Nat) : Fld := ⟨(98 + 8 * i), 304, 32, 15, 0⟩
def LDT_CTX_STAT_MISSQ (i : Nat) : Fld := ⟨(98 + 8 * i), 304, 16, 13, 0⟩
def LDT_CTX_STAT_FETCH_MAX_NS (i : Nat) : Fld := ⟨(98 + 8 * i), 304, 0, 16, 0⟩
def LDT_LISTEN_EN (i k : Nat) : Fld := ⟨(98 + 8 * i), (320 + 8 * k), 63, 1, 0⟩
def LDT_LISTEN_IF (i k : Nat) : Fld := ⟨(98 + 8 * i), (320 + 8 * k), 56, 7, 0⟩
def LDT_CNT_CTX_FETCH_COUNT (i : Nat) : Fld := ⟨(98 + 8 * i), 384, 0, 64, 0⟩
def LDT_CNT_MISS_DROP_COUNT (i : Nat) : Fld := ⟨(98 + 8 * i), 392, 0, 64, 0⟩
def LDT_CNT_NO_CONN_COUNT (i : Nat) : Fld := ⟨(98 + 8 * i), 400, 0, 64, 0⟩
def LDT_ACCEPT_Q_VALID (i : Nat) : Fld := ⟨(99 + 8 * i), 256, 63, 1, 0⟩
def LDT_ACCEPT_Q_SLOT (i : Nat) : Fld := ⟨(99 + 8 * i), 256, 32, 6, 0⟩
def LDT_ACCEPT_Q_CONN (i : Nat) : Fld := ⟨(99 + 8 * i), 256, 0, 20, 0⟩
def LDT_ACCEPT_INFO_IF (i : Nat) : Fld := ⟨(99 + 8 * i), 264, 57, 7, 0⟩
def LDT_ACCEPT_INFO_V6 (i : Nat) : Fld := ⟨(99 + 8 * i), 264, 56, 1, 0⟩
def LDT_ACCEPT_INFO_CRED_LEN (i : Nat) : Fld := ⟨(99 + 8 * i), 264, 32, 16, 0⟩
def LDT_ACCEPT_INFO_SCID (i : Nat) : Fld := ⟨(99 + 8 * i), 264, 0, 32, 0⟩
def LDT_ACCEPT_ANS_ACTION (i : Nat) : Fld := ⟨(99 + 8 * i), 272, 62, 2, 0⟩
def LDT_ACCEPT_ANS_SLOT (i : Nat) : Fld := ⟨(99 + 8 * i), 272, 42, 6, 0⟩
def LDT_CONN_SEL_CONN (i : Nat) : Fld := ⟨(99 + 8 * i), 280, 0, 19, 0⟩
def LDT_CONN_VIEW_STATE (i : Nat) : Fld := ⟨(99 + 8 * i), 288, 60, 4, 0⟩
def LDT_CONN_VIEW_KGEN (i : Nat) : Fld := ⟨(99 + 8 * i), 288, 52, 8, 0⟩
def LDT_CONN_VIEW_PATHS (i : Nat) : Fld := ⟨(99 + 8 * i), 288, 48, 4, 0⟩
def LDT_CONN_VIEW_RESIDENT (i : Nat) : Fld := ⟨(99 + 8 * i), 288, 47, 1, 0⟩
def LDT_CONN_VIEW_PINNED (i : Nat) : Fld := ⟨(99 + 8 * i), 288, 46, 1, 0⟩
def LDT_CONN_VIEW_OUTSTANDING (i : Nat) : Fld := ⟨(99 + 8 * i), 288, 32, 11, 0⟩
def LDT_CONN_VIEW_STALL (i : Nat) : Fld := ⟨(99 + 8 * i), 288, 16, 16, 0⟩
def LDT_CONN_VIEW_QDEPTH (i : Nat) : Fld := ⟨(99 + 8 * i), 288, 0, 11, 0⟩
def LDT_CONN_PATH_EN (i : Nat) : Fld := ⟨(99 + 8 * i), 296, 40, 8, 0⟩
def LDT_CONN_PATH_IDX (i : Nat) : Fld := ⟨(99 + 8 * i), 296, 0, 40, 0⟩
def LDT_CONN_CMD_OP (i : Nat) : Fld := ⟨(99 + 8 * i), 304, 60, 4, 0⟩
def LDT_CONN_CMD_CONN (i : Nat) : Fld := ⟨(99 + 8 * i), 304, 0, 19, 0⟩
def LDT_CONN_CMD_STAT_BUSY (i : Nat) : Fld := ⟨(99 + 8 * i), 312, 63, 1, 0⟩
def LDT_CONN_CMD_STAT_RESULT (i : Nat) : Fld := ⟨(99 + 8 * i), 312, 60, 3, 0⟩
def LDT_CONN_CMD_STAT_CONDITION (i : Nat) : Fld := ⟨(99 + 8 * i), 312, 32, 16, 0⟩
def LDT_CNT_SETUP_COUNT (i : Nat) : Fld := ⟨(99 + 8 * i), 320, 0, 64, 0⟩
def LDT_CNT_SETUP_REFUSED_COUNT (i : Nat) : Fld := ⟨(99 + 8 * i), 328, 0, 64, 0⟩
def LDT_CNT_REKEY_COUNT (i : Nat) : Fld := ⟨(99 + 8 * i), 336, 0, 64, 0⟩
def LDT_RATE_CFG_DOWN_STEP (i : Nat) : Fld := ⟨(100 + 8 * i), 256, 56, 8, 4⟩
def LDT_RATE_CFG_DEC_HOLD (i : Nat) : Fld := ⟨(100 + 8 * i), 256, 48, 8, 4⟩
def LDT_RATE_CFG_INC_BEATS (i : Nat) : Fld := ⟨(100 + 8 * i), 256, 40, 8, 16⟩
def LDT_RATE_CFG_RTO_STEP (i : Nat) : Fld := ⟨(100 + 8 * i), 256, 32, 8, 8⟩
def LDT_RATE_CFG_START_IDX (i : Nat) : Fld := ⟨(100 + 8 * i), 256, 24, 8, 16⟩
def LDT_RATE_CFG_PATH_FAIL (i : Nat) : Fld := ⟨(100 + 8 * i), 256, 16, 8, 3⟩
def LDT_RATE_CFG_PATH_OFF (i : Nat) : Fld := ⟨(100 + 8 * i), 256, 0, 16, 16384⟩
def LDT_CNT_RATE_DOWN_COUNT (i : Nat) : Fld := ⟨(100 + 8 * i), 264, 0, 64, 0⟩
def LDT_CNT_RATE_UP_COUNT (i : Nat) : Fld := ⟨(100 + 8 * i), 272, 0, 64, 0⟩
def LDT_CNT_RTO_COUNT (i : Nat) : Fld := ⟨(100 + 8 * i), 280, 0, 64, 0⟩
def LDT_CNT_PATH_DISABLE_COUNT (i : Nat) : Fld := ⟨(100 + 8 * i), 288, 0, 64, 0⟩
def LDT_CNT_WINDOW_STALL_COUNT (i : Nat) : Fld := ⟨(100 + 8 * i), 296, 0, 64, 0⟩
def LDT_CNT_STALL_RESET_COUNT (i : Nat) : Fld := ⟨(100 + 8 * i), 304, 0, 64, 0⟩
def LDT_CNT_MSG_TMO_COUNT (i : Nat) : Fld := ⟨(100 + 8 * i), 312, 0, 64, 0⟩
def LDT_CNT_LENGTH_MISMATCH_COUNT (i : Nat) : Fld := ⟨(100 + 8 * i), 320, 0, 64, 0⟩
def LDT_CNT_BAD_HDR_COUNT (i : Nat) : Fld := ⟨(100 + 8 * i), 328, 0, 64, 0⟩
def LDT_RATE_CURVE_RATE (i k : Nat) : Fld := ⟨(100 + 8 * i), (384 + 8 * k), 0, 16, ([8, 32, 72, 128, 200, 288, 392, 512, 648, 800, 968, 1152, 1352, 1568, 1800, 2048, 2312, 2592, 2888, 3200, 3528, 3872, 4232, 4608, 5000, 5408, 5832, 6272, 6728, 7200, 7688, 8192].getD k 0)⟩
def LDT_STS_SEL_KIND (i p : Nat) : Fld := ⟨(98 + 8 * i + p), 256, 60, 4, 0⟩
def LDT_STS_SEL_ID (i p : Nat) : Fld := ⟨(98 + 8 * i + p), 256, 0, 19, 0⟩
def LDT_STS_RX_PKT_COUNT (i p : Nat) : Fld := ⟨(98 + 8 * i + p), 264, 0, 64, 0⟩
def LDT_STS_TX_PKT_COUNT (i p : Nat) : Fld := ⟨(98 + 8 * i + p), 272, 0, 64, 0⟩
def LDT_STS_RX_BYTES_COUNT (i p : Nat) : Fld := ⟨(98 + 8 * i + p), 280, 0, 64, 0⟩
def LDT_STS_TX_BYTES_COUNT (i p : Nat) : Fld := ⟨(98 + 8 * i + p), 288, 0, 64, 0⟩
def LDT_STS_DUP_COUNT (i p : Nat) : Fld := ⟨(98 + 8 * i + p), 296, 0, 64, 0⟩
def LDT_STS_AUTH_COUNT (i p : Nat) : Fld := ⟨(98 + 8 * i + p), 304, 0, 64, 0⟩
def LDT_STS_RETX_COUNT (i p : Nat) : Fld := ⟨(98 + 8 * i + p), 312, 0, 64, 0⟩
def LDT_STS_MSG_DONE_COUNT (i p : Nat) : Fld := ⟨(98 + 8 * i + p), 320, 0, 64, 0⟩
def LDT_STS_MSG_FAIL_COUNT (i p : Nat) : Fld := ⟨(98 + 8 * i + p), 328, 0, 64, 0⟩
def LDT_STS_CE_COUNT (i p : Nat) : Fld := ⟨(98 + 8 * i + p), 336, 0, 64, 0⟩

/-! ### LBC -/
def LBC_CFG_PFX_NAME_EN : Fld := ⟨114, 256, 1, 1, 1⟩
def LBC_CFG_PFX_SUPPRESS_EN : Fld := ⟨114, 256, 0, 1, 1⟩
def LBC_STAT_ABORTS : Fld := ⟨114, 264, 32, 16, 0⟩
def LBC_STAT_OUTSTANDING : Fld := ⟨114, 264, 0, 32, 0⟩
def LBC_CNT_CMDS_COUNT : Fld := ⟨114, 272, 0, 64, 0⟩
def LBC_CNT_READS_COUNT : Fld := ⟨114, 280, 0, 64, 0⟩
def LBC_CNT_WRITES_COUNT : Fld := ⟨114, 288, 0, 64, 0⟩
def LBC_CNT_COMPRESSED_COUNT : Fld := ⟨114, 296, 0, 64, 0⟩
def LBC_CNT_ORDERED_COUNT : Fld := ⟨114, 304, 0, 64, 0⟩
def LBC_CNT_PFX_NAMED_COUNT : Fld := ⟨114, 312, 0, 64, 0⟩
def LBC_CNT_FAILED_COUNT : Fld := ⟨115, 256, 0, 64, 0⟩
def LBC_CNT_ABORT_WON_COUNT : Fld := ⟨115, 264, 0, 64, 0⟩
def LBC_CNT_ABORT_LOST_COUNT : Fld := ⟨115, 272, 0, 64, 0⟩
def LBC_CNT_DEFERRED_COUNT : Fld := ⟨115, 280, 0, 64, 0⟩
def LBC_CNT_NOT_SERVING_COUNT : Fld := ⟨115, 288, 0, 64, 0⟩
def LBC_CNT_INVALID_COUNT : Fld := ⟨115, 296, 0, 64, 0⟩
def LBC_CNT_LATE_COUNT : Fld := ⟨115, 304, 0, 64, 0⟩
def LBC_CNT_HEALTH_COUNT : Fld := ⟨115, 312, 0, 64, 0⟩

/-! ### PRL -/
def PRL_CFG_BUNDLE_EN : Fld := ⟨270, 256, 32, 2, 3⟩
def PRL_CFG_TX_PRESET : Fld := ⟨270, 256, 24, 4, 0⟩
def PRL_CFG_RECOVER_TMO : Fld := ⟨270, 256, 16, 8, 8⟩
def PRL_CFG_PEER_LOSS_TMO : Fld := ⟨270, 256, 0, 16, 256⟩
def PRL_CTL_RETRAIN : Fld := ⟨270, 264, 1, 2, 0⟩
def PRL_CTL_ENABLE : Fld := ⟨270, 264, 0, 1, 0⟩
def PRL_STAT_REACHABLE : Fld := ⟨270, 272, 63, 1, 0⟩
def PRL_STAT_CTL_BUNDLE : Fld := ⟨270, 272, 62, 1, 0⟩
def PRL_STAT_PEER_HID : Fld := ⟨270, 272, 32, 16, 0⟩
def PRL_STAT_LOSS_BEAT : Fld := ⟨270, 272, 0, 32, 0⟩
def PRL_BUNDLE_STAT_STATE (k : Nat) : Fld := ⟨270, (280 + 8 * k), 61, 3, 0⟩
def PRL_BUNDLE_STAT_LANES_OK (k : Nat) : Fld := ⟨270, (280 + 8 * k), 32, 16, 0⟩
def PRL_BUNDLE_STAT_UP_BEAT (k : Nat) : Fld := ⟨270, (280 + 8 * k), 0, 32, 0⟩
def PRL_LANE_SEL_LANE : Fld := ⟨270, 296, 0, 5, 0⟩
def PRL_LANE_STAT_STATE : Fld := ⟨270, 304, 61, 3, 0⟩
def PRL_LANE_STAT_DETECTS : Fld := ⟨270, 304, 32, 16, 0⟩
def PRL_LANE_STAT_SKEW : Fld := ⟨270, 304, 8, 8, 0⟩
def PRL_LANE_STAT_PRESET : Fld := ⟨270, 304, 0, 4, 0⟩
def PRL_FEC_CNT_CORRECTED (k : Nat) : Fld := ⟨270, (312 + 8 * k), 32, 32, 0⟩
def PRL_FEC_CNT_UNCORR (k : Nat) : Fld := ⟨270, (312 + 8 * k), 0, 32, 0⟩
def PRL_REPLAY_CNT_CRC_FAIL (k : Nat) : Fld := ⟨270, (328 + 8 * k), 32, 32, 0⟩
def PRL_REPLAY_CNT_NAKS (k : Nat) : Fld := ⟨270, (328 + 8 * k), 16, 16, 0⟩
def PRL_REPLAY_CNT_TIMER (k : Nat) : Fld := ⟨270, (328 + 8 * k), 0, 16, 0⟩
def PRL_CNT_LOSS_COUNT : Fld := ⟨270, 344, 0, 64, 0⟩
def PRL_CLASS_CFG_SLOTS (k : Nat) : Fld := ⟨271, (256 + 8 * k), 0, 32, ([16384, 524288, 16384, 131072, 1024].getD k 0)⟩
def PRL_CREDIT_ADV (k : Nat) : Fld := ⟨271, (296 + 8 * k), 32, 32, 0⟩
def PRL_CREDIT_AVAIL (k : Nat) : Fld := ⟨271, (296 + 8 * k), 0, 32, 0⟩
def PRL_MSG_CNT_TX_COUNT (k : Nat) : Fld := ⟨271, (336 + 8 * k), 0, 64, 0⟩
def PRL_MSG_CNT_RX_COUNT (k : Nat) : Fld := ⟨271, (376 + 8 * k), 0, 64, 0⟩
def PRL_CNT_DUP_COUNT : Fld := ⟨271, 416, 0, 64, 0⟩
def PRL_CNT_RESEND_COUNT : Fld := ⟨271, 424, 0, 64, 0⟩
def PRL_CNT_BAD_MSG_COUNT : Fld := ⟨271, 432, 0, 64, 0⟩
def PRL_BEAT_MARK_RTT_NS : Fld := ⟨271, 440, 0, 32, 0⟩
def PRL_PEER_INFO_MODE : Fld := ⟨271, 448, 60, 4, 0⟩
def PRL_PEER_INFO_HOLDS_A : Fld := ⟨271, 448, 59, 1, 0⟩
def PRL_PEER_INFO_HOLDS_B : Fld := ⟨271, 448, 58, 1, 0⟩
def PRL_PEER_INFO_JGEN : Fld := ⟨271, 448, 32, 16, 0⟩
def PRL_PEER_INFO_LAYOUT : Fld := ⟨271, 448, 0, 16, 0⟩
def PRL_PAIR_STAT_PHASE : Fld := ⟨272, 256, 61, 3, 0⟩
def PRL_PAIR_STAT_KEY_SYNCED : Fld := ⟨272, 256, 60, 1, 0⟩
def PRL_PAIR_STAT_TABLES_SYNCED : Fld := ⟨272, 256, 59, 1, 0⟩
def PRL_PAIR_STAT_MISMATCH : Fld := ⟨272, 256, 58, 1, 0⟩
def PRL_HANDBACK_CFG_HANDBACK_TMO : Fld := ⟨272, 264, 0, 32, 131072⟩
def PRL_SYNC_STAT_RECORDS_LEFT : Fld := ⟨272, 272, 0, 32, 0⟩
def PRL_HORIZON_BEAT : Fld := ⟨272, 280, 0, 48, 0⟩
def PRL_PEER_HORIZON_BEAT : Fld := ⟨272, 288, 0, 48, 0⟩
def PRL_PIN_STAT_PEER_PINS : Fld := ⟨272, 296, 32, 32, 0⟩
def PRL_PIN_STAT_OWN_PINS : Fld := ⟨272, 296, 0, 32, 0⟩
def PRL_CNT_SWX_Q_COUNT : Fld := ⟨272, 304, 0, 64, 0⟩
def PRL_CNT_PAGE_REQ_COUNT : Fld := ⟨272, 312, 0, 64, 0⟩
def PRL_CNT_REC_FETCH_COUNT : Fld := ⟨272, 320, 0, 64, 0⟩
def PRL_TKO_STAT_PHASE : Fld := ⟨273, 256, 61, 3, 0⟩
def PRL_TKO_STAT_BRICKS_LEFT : Fld := ⟨273, 256, 40, 8, 0⟩
def PRL_TKO_STAT_PARTIAL : Fld := ⟨273, 256, 0, 32, 0⟩
def PRL_TKO_BEATS_WAIT : Fld := ⟨273, 264, 32, 32, 0⟩
def PRL_TKO_BEATS_T1_T0 : Fld := ⟨273, 264, 0, 32, 0⟩
def PRL_RUB_CFG_SAMPLE : Fld := ⟨273, 272, 32, 8, 8⟩
def PRL_RUB_CFG_MASK : Fld := ⟨273, 272, 0, 10, 1023⟩
def PRL_RUB_RESULT_RUNNING : Fld := ⟨273, 280, 63, 1, 0⟩
def PRL_RUB_RESULT_FAILED : Fld := ⟨273, 280, 0, 10, 0⟩
def PRL_RUB_FAIL_INFO_BEAT : Fld := ⟨273, 288, 32, 32, 0⟩
def PRL_RUB_FAIL_INFO_FAILED : Fld := ⟨273, 288, 0, 10, 0⟩
def PRL_CNT_RUB_COUNT : Fld := ⟨273, 296, 0, 64, 0⟩
def PRL_CNT_RUB_FAIL_COUNT : Fld := ⟨273, 304, 0, 64, 0⟩
def PRL_CNT_TAKEOVER_COUNT : Fld := ⟨273, 312, 0, 64, 0⟩
def PRL_CNT_HANDBACK_COUNT : Fld := ⟨273, 320, 0, 64, 0⟩

/-! ### LSE -/
def LSE_CFG_AUTO_REJOIN : Fld := ⟨274, 256, 63, 1, 1⟩
def LSE_CFG_LEASE_K : Fld := ⟨274, 256, 40, 8, 64⟩
def LSE_CFG_BOOT_WAIT : Fld := ⟨274, 256, 16, 16, 256⟩
def LSE_CFG_WIT_RETRY : Fld := ⟨274, 256, 0, 16, 128⟩
def LSE_MODE_MODE : Fld := ⟨274, 264, 60, 4, 1⟩
def LSE_MODE_PREV : Fld := ⟨274, 264, 56, 4, 0⟩
def LSE_MODE_REASON : Fld := ⟨274, 264, 32, 16, 0⟩
def LSE_MODE_BEAT : Fld := ⟨274, 264, 0, 32, 0⟩
def LSE_MODE_REQ_OP : Fld := ⟨274, 272, 60, 4, 0⟩
def LSE_MODE_REQ_STAT_BUSY : Fld := ⟨274, 280, 63, 1, 0⟩
def LSE_MODE_REQ_STAT_RESULT : Fld := ⟨274, 280, 60, 3, 0⟩
def LSE_MODE_REQ_STAT_CONDITION : Fld := ⟨274, 280, 32, 16, 0⟩
def LSE_MODE_REQ_STAT_BEAT : Fld := ⟨274, 280, 0, 32, 0⟩
def LSE_SHARD_STATE (k : Nat) : Fld := ⟨274, (288 + 8 * k), 61, 3, 0⟩
def LSE_SHARD_HOME (k : Nat) : Fld := ⟨274, (288 + 8 * k), 60, 1, 0⟩
def LSE_SHARD_HANDBACK (k : Nat) : Fld := ⟨274, (288 + 8 * k), 59, 1, 0⟩
def LSE_SHARD_EPOCH (k : Nat) : Fld := ⟨274, (288 + 8 * k), 0, 32, 0⟩
def LSE_REMAIN_FENCE_IN (k : Nat) : Fld := ⟨274, (304 + 8 * k), 32, 32, 0⟩
def LSE_REMAIN_EXPIRE_IN (k : Nat) : Fld := ⟨274, (304 + 8 * k), 0, 32, 0⟩
def LSE_FENCE_B : Fld := ⟨274, 320, 4, 3, 7⟩
def LSE_FENCE_A : Fld := ⟨274, 320, 0, 3, 7⟩
def LSE_LAST_LOSS_CAUSE : Fld := ⟨274, 328, 60, 4, 0⟩
def LSE_LAST_LOSS_SHARD : Fld := ⟨274, 328, 59, 1, 0⟩
def LSE_LAST_LOSS_DENY : Fld := ⟨274, 328, 40, 8, 0⟩
def LSE_LAST_LOSS_BEAT : Fld := ⟨274, 328, 0, 32, 0⟩
def LSE_CNT_FENCE_COUNT : Fld := ⟨274, 336, 0, 64, 0⟩
def LSE_WIT_CFG_UDP_PORT : Fld := ⟨275, 256, 48, 16, 7745⟩
def LSE_WIT_CFG_UDP_EN : Fld := ⟨275, 256, 33, 1, 0⟩
def LSE_WIT_CFG_SERIAL_EN : Fld := ⟨275, 256, 32, 1, 1⟩
def LSE_WIT_CFG_KEY_SLOT : Fld := ⟨275, 256, 0, 12, 0⟩
def LSE_WIT_STAT_SERIAL_OK : Fld := ⟨275, 264, 63, 1, 0⟩
def LSE_WIT_STAT_UDP_OK : Fld := ⟨275, 264, 62, 1, 0⟩
def LSE_WIT_STAT_LAST_DENY : Fld := ⟨275, 264, 40, 8, 0⟩
def LSE_WIT_STAT_HOLDOFF_LEFT : Fld := ⟨275, 264, 0, 32, 0⟩
def LSE_WIT_BUF_BASE : Fld := ⟨275, 272, 9, 39, 0⟩
def LSE_WIT_RX_LEN : Fld := ⟨275, 280, 0, 8, 0⟩
def LSE_WIT_TX_LEN : Fld := ⟨275, 288, 0, 8, 0⟩
def LSE_CNT_REQ_COUNT : Fld := ⟨275, 296, 0, 64, 0⟩
def LSE_CNT_GRANT_COUNT : Fld := ⟨275, 304, 0, 64, 0⟩
def LSE_CNT_DENY_COUNT : Fld := ⟨275, 312, 0, 64, 0⟩
def LSE_CNT_WIT_BAD_COUNT : Fld := ⟨275, 320, 0, 64, 0⟩

/-! ### FAB -/
def FAB_BASE_BASE : Fld := ⟨276, 256, 23, 25, 0⟩
def FAB_CFG_HOME : Fld := ⟨276, 264, 63, 1, 0⟩
def FAB_CFG_MISS_LIMIT : Fld := ⟨276, 264, 40, 8, 3⟩
def FAB_CFG_CLAIM_HELLOS : Fld := ⟨276, 264, 32, 8, 32⟩
def FAB_CFG_UDP_PORT : Fld := ⟨276, 264, 16, 16, 7746⟩
def FAB_CFG_KEY_SLOT : Fld := ⟨276, 264, 0, 12, 0⟩
def FAB_ID_HID : Fld := ⟨276, 272, 0, 16, 0⟩
def FAB_STAT_STATE : Fld := ⟨276, 280, 61, 3, 0⟩
def FAB_STAT_MEMBERS : Fld := ⟨276, 280, 32, 17, 0⟩
def FAB_STAT_HOME_PAIRS : Fld := ⟨276, 280, 16, 16, 0⟩
def FAB_HELLO_CFG_IF_E_EN : Fld := ⟨276, 288, 63, 1, 0⟩
def FAB_HELLO_CFG_IF_E : Fld := ⟨276, 288, 56, 7, 0⟩
def FAB_HELLO_CFG_IF_W_EN : Fld := ⟨276, 288, 55, 1, 0⟩
def FAB_HELLO_CFG_IF_W : Fld := ⟨276, 288, 48, 7, 0⟩
def FAB_HELLO_CFG_TTL : Fld := ⟨276, 288, 40, 8, 16⟩
def FAB_MCAST_V4_GROUP : Fld := ⟨276, 296, 0, 32, 0⟩
def FAB_MCAST_V6_HI_GROUP : Fld := ⟨276, 304, 0, 64, 0⟩
def FAB_MCAST_V6_LO_GROUP : Fld := ⟨276, 312, 0, 64, 0⟩
def FAB_MEMBER_SEL_HID : Fld := ⟨277, 256, 0, 16, 0⟩
def FAB_MEMBER_VIEW_STATE : Fld := ⟨277, 264, 61, 3, 0⟩
def FAB_MEMBER_VIEW_HOME : Fld := ⟨277, 264, 60, 1, 0⟩
def FAB_MEMBER_VIEW_ROUTED : Fld := ⟨277, 264, 59, 1, 0⟩
def FAB_MEMBER_VIEW_LAST_BEAT : Fld := ⟨277, 264, 0, 32, 0⟩
def FAB_CONFLICT_VALID : Fld := ⟨277, 272, 63, 1, 0⟩
def FAB_CONFLICT_WON : Fld := ⟨277, 272, 62, 1, 0⟩
def FAB_CONFLICT_HID : Fld := ⟨277, 272, 32, 16, 0⟩
def FAB_CONFLICT_BEAT : Fld := ⟨277, 272, 0, 32, 0⟩
def FAB_CNT_HELLO_TX_COUNT : Fld := ⟨277, 280, 0, 64, 0⟩
def FAB_CNT_HELLO_RX_COUNT : Fld := ⟨277, 288, 0, 64, 0⟩
def FAB_CNT_HELLO_BAD_COUNT : Fld := ⟨277, 296, 0, 64, 0⟩
def FAB_CNT_JOIN_COUNT : Fld := ⟨277, 304, 0, 64, 0⟩
def FAB_CNT_LEAVE_COUNT : Fld := ⟨277, 312, 0, 64, 0⟩
def FAB_ROUTE_STAT_VALID : Fld := ⟨278, 256, 32, 13, 0⟩
def FAB_ROUTE_STAT_REJECTED : Fld := ⟨278, 256, 16, 13, 0⟩
def FAB_PLACE_CFG_HOLD : Fld := ⟨278, 264, 16, 16, 16⟩
def FAB_PLACE_CFG_REPLICAS : Fld := ⟨278, 264, 0, 3, 2⟩
def FAB_PLACE_SEED_SEED : Fld := ⟨278, 272, 0, 64, 0⟩
def FAB_PLACE_STAT_BUSY : Fld := ⟨278, 280, 63, 1, 0⟩
def FAB_PLACE_STAT_COPY : Fld := ⟨278, 280, 62, 1, 0⟩
def FAB_PLACE_STAT_PAIRS : Fld := ⟨278, 280, 32, 16, 0⟩
def FAB_PLACE_STAT_BEAT : Fld := ⟨278, 280, 0, 32, 0⟩
def FAB_CNT_NO_ROUTE_COUNT : Fld := ⟨278, 288, 0, 64, 0⟩
def FAB_CNT_RECOMPUTE_COUNT : Fld := ⟨278, 296, 0, 64, 0⟩
def FAB_FETCH_CFG_FETCH_TMO : Fld := ⟨279, 256, 48, 16, 64⟩
def FAB_FETCH_CFG_MAX_CONN : Fld := ⟨279, 256, 32, 11, 256⟩
def FAB_FETCH_STAT_CONNS : Fld := ⟨279, 264, 48, 16, 0⟩
def FAB_FETCH_STAT_OUTSTANDING : Fld := ⟨279, 264, 0, 32, 0⟩
def FAB_CNT_FETCH_COUNT : Fld := ⟨279, 272, 0, 64, 0⟩
def FAB_CNT_FETCH_RETRY_COUNT : Fld := ⟨279, 280, 0, 64, 0⟩
def FAB_CNT_FETCH_FAIL_COUNT : Fld := ⟨279, 288, 0, 64, 0⟩
def FAB_CNT_SERVED_COUNT : Fld := ⟨279, 296, 0, 64, 0⟩

/-! ### REP -/
def REP_BASE_BASE : Fld := ⟨280, 256, 23, 25, 0⟩
def REP_CFG_SYNC_TMO : Fld := ⟨280, 264, 48, 16, 384⟩
def REP_CFG_SWITCH_PAGES : Fld := ⟨280, 264, 32, 16, 64⟩
def REP_CFG_CYCLES : Fld := ⟨280, 264, 24, 8, 4⟩
def REP_CFG_CHUNKS : Fld := ⟨280, 264, 16, 8, 16⟩
def REP_STAT_LINKS : Fld := ⟨280, 272, 48, 9, 0⟩
def REP_STAT_CYCLES : Fld := ⟨280, 272, 40, 5, 0⟩
def REP_STAT_SYNC_WAIT : Fld := ⟨280, 272, 0, 32, 0⟩
def REP_LINK_SEL_LINK : Fld := ⟨280, 280, 0, 8, 0⟩
def REP_LINK_VIEW_STATE : Fld := ⟨280, 288, 60, 4, 0⟩
def REP_LINK_VIEW_SNAP : Fld := ⟨280, 288, 40, 20, 0⟩
def REP_LINK_VIEW_CURSOR : Fld := ⟨280, 288, 0, 32, 0⟩
def REP_LINK_CMD_OP : Fld := ⟨280, 296, 60, 4, 0⟩
def REP_LINK_CMD_SNAP : Fld := ⟨280, 296, 40, 20, 0⟩
def REP_LINK_CMD_LINK : Fld := ⟨280, 296, 0, 8, 0⟩
def REP_LINK_CMD_STAT_BUSY : Fld := ⟨280, 304, 63, 1, 0⟩
def REP_LINK_CMD_STAT_RESULT : Fld := ⟨280, 304, 60, 3, 0⟩
def REP_LINK_CMD_STAT_CONDITION : Fld := ⟨280, 304, 32, 16, 0⟩
def REP_SYNC_STAT_MAX_BEATS : Fld := ⟨280, 312, 32, 32, 0⟩
def REP_SYNC_STAT_OUTSTANDING : Fld := ⟨280, 312, 0, 32, 0⟩
def REP_CNT_CYCLES_COUNT : Fld := ⟨281, 256, 0, 64, 0⟩
def REP_CNT_RECIPE_ENTRIES_COUNT : Fld := ⟨281, 264, 0, 64, 0⟩
def REP_CNT_CHUNKS_NEEDED_COUNT : Fld := ⟨281, 272, 0, 64, 0⟩
def REP_CNT_BYTES_COUNT : Fld := ⟨281, 280, 0, 64, 0⟩
def REP_CNT_SYNC_WRITES_COUNT : Fld := ⟨281, 288, 0, 64, 0⟩
def REP_CNT_SYNC_LATE_COUNT : Fld := ⟨281, 296, 0, 64, 0⟩
def REP_CNT_BREAKS_COUNT : Fld := ⟨281, 304, 0, 64, 0⟩
def REP_CNT_SERVED_COUNT : Fld := ⟨281, 312, 0, 64, 0⟩

/-! ### SEC -/
def SEC_BOOT_STAT_STAGE : Fld := ⟨23, 256, 60, 4, 0⟩
def SEC_BOOT_STAT_COPY : Fld := ⟨23, 256, 56, 4, 0⟩
def SEC_BOOT_STAT_CONDITION : Fld := ⟨23, 256, 32, 16, 0⟩
def SEC_BOOT_INFO_D_SVN : Fld := ⟨23, 264, 32, 32, 0⟩
def SEC_BOOT_INFO_I_SVN : Fld := ⟨23, 264, 0, 32, 0⟩
def SEC_FUSE_STAT_ROOT_I_SET : Fld := ⟨23, 272, 63, 1, 0⟩
def SEC_FUSE_STAT_DEBUG_DISABLE : Fld := ⟨23, 272, 62, 1, 0⟩
def SEC_FUSE_STAT_DEBUG_ROOT : Fld := ⟨23, 272, 61, 1, 0⟩
def SEC_FUSE_STAT_CORRECTED : Fld := ⟨23, 272, 60, 1, 0⟩
def SEC_SVN_D : Fld := ⟨23, 280, 32, 32, 0⟩
def SEC_SVN_I : Fld := ⟨23, 280, 0, 32, 0⟩
def SEC_CHIP_CHIP : Fld := ⟨23, 288, 0, 64, 0⟩
def SEC_BOOT_COUNT_COUNT : Fld := ⟨23, 296, 0, 32, 0⟩
def SEC_BOOT_BEATS_LOADER : Fld := ⟨23, 304, 32, 32, 0⟩
def SEC_BOOT_BEATS_FIRMWARE : Fld := ⟨23, 304, 0, 32, 0⟩
def SEC_ENT_CFG_APT_CUTOFF : Fld := ⟨24, 256, 32, 16, 600⟩
def SEC_ENT_CFG_RCT_CUTOFF : Fld := ⟨24, 256, 0, 8, 40⟩
def SEC_ENT_STAT_STATE : Fld := ⟨24, 264, 62, 2, 0⟩
def SEC_ENT_STAT_FAILS : Fld := ⟨24, 264, 0, 16, 0⟩
def SEC_DRBG_STAT_READY : Fld := ⟨24, 272, 63, 1, 0⟩
def SEC_DRBG_STAT_SINCE_RESEED : Fld := ⟨24, 272, 0, 17, 0⟩
def SEC_ENT_CNT_RCT_COUNT : Fld := ⟨24, 280, 0, 64, 0⟩
def SEC_ENT_CNT_APT_COUNT : Fld := ⟨24, 288, 0, 64, 0⟩
def SEC_CNT_RESEED_COUNT : Fld := ⟨24, 296, 0, 64, 0⟩
def SEC_HARDEN_DUMMY : Fld := ⟨25, 256, 1, 3, 4⟩
def SEC_HARDEN_SHUFFLE : Fld := ⟨25, 256, 0, 1, 1⟩
def SEC_SVC_STAT_BUSY : Fld := ⟨25, 264, 63, 1, 0⟩
def SEC_SVC_STAT_QUEUED : Fld := ⟨25, 264, 40, 7, 0⟩
def SEC_SVC_LAST_OP : Fld := ⟨25, 272, 56, 8, 0⟩
def SEC_SVC_LAST_CONDITION : Fld := ⟨25, 272, 32, 16, 0⟩
def SEC_SVC_LAST_BEAT : Fld := ⟨25, 272, 0, 32, 0⟩
def SEC_CNT_REQ_COUNT : Fld := ⟨25, 280, 0, 64, 0⟩
def SEC_CNT_REFUSED_COUNT : Fld := ⟨25, 288, 0, 64, 0⟩
def SEC_DBG_STAT_STATE : Fld := ⟨26, 256, 62, 2, 0⟩
def SEC_DBG_STAT_FORCED : Fld := ⟨26, 256, 61, 1, 0⟩
def SEC_DBG_STAT_BEAT : Fld := ⟨26, 256, 0, 32, 0⟩
def SEC_DBG_CNT_TRIES : Fld := ⟨26, 264, 32, 32, 0⟩
def SEC_DBG_CNT_FAILS : Fld := ⟨26, 264, 0, 32, 0⟩
def SEC_FUSE_PROG_OP : Fld := ⟨26, 272, 60, 4, 0⟩
def SEC_FUSE_PROG_ADDR : Fld := ⟨26, 272, 6, 42, 0⟩
def SEC_FUSE_PROG_STAT_BUSY : Fld := ⟨26, 280, 63, 1, 0⟩
def SEC_FUSE_PROG_STAT_RESULT : Fld := ⟨26, 280, 60, 3, 0⟩
def SEC_FUSE_PROG_STAT_CONDITION : Fld := ⟨26, 280, 32, 16, 0⟩
def SEC_PROT_WIN0_SIZE : Fld := ⟨26, 288, 48, 16, 0⟩
def SEC_PROT_WIN0_BASE : Fld := ⟨26, 288, 21, 27, 0⟩
def SEC_PROT_WIN1_SIZE : Fld := ⟨26, 296, 48, 16, 0⟩
def SEC_PROT_WIN1_BASE : Fld := ⟨26, 296, 21, 27, 0⟩
def SEC_PROT_STAT_MASTER : Fld := ⟨26, 304, 48, 6, 0⟩
def SEC_PROT_STAT_ADDR : Fld := ⟨26, 304, 0, 48, 0⟩
def SEC_PROT_CNT_VAL : Fld := ⟨26, 312, 0, 64, 0⟩

/-! ### KEY -/
def KEY_STORE_BASE_BASE : Fld := ⟨27, 256, 21, 27, 0⟩
def KEY_STAT_STATE : Fld := ⟨27, 264, 62, 2, 0⟩
def KEY_STAT_CONN_KEYS : Fld := ⟨27, 264, 32, 22, 0⟩
def KEY_STAT_VAT_KEYS : Fld := ⟨27, 264, 18, 14, 0⟩
def KEY_STAT_SLOTS : Fld := ⟨27, 264, 0, 13, 0⟩
def KEY_CMD_OP : Fld := ⟨27, 272, 56, 8, 0⟩
def KEY_CMD_ARG_ADDR : Fld := ⟨27, 280, 8, 40, 0⟩
def KEY_CMD_STAT_BUSY : Fld := ⟨27, 288, 63, 1, 0⟩
def KEY_CMD_STAT_RESULT : Fld := ⟨27, 288, 60, 3, 0⟩
def KEY_CMD_STAT_CONDITION : Fld := ⟨27, 288, 32, 16, 0⟩
def KEY_SLOT_SEL_SLOT : Fld := ⟨28, 256, 0, 12, 0⟩
def KEY_SLOT_VIEW_FILLED : Fld := ⟨28, 264, 63, 1, 0⟩
def KEY_SLOT_VIEW_USE : Fld := ⟨28, 264, 58, 5, 0⟩
def KEY_SLOT_VIEW_LEN : Fld := ⟨28, 264, 57, 1, 0⟩
def KEY_SLOT_VIEW_USES : Fld := ⟨28, 264, 0, 32, 0⟩
def KEY_JNL_STAT_OWN : Fld := ⟨28, 272, 48, 16, 0⟩
def KEY_JNL_STAT_OWN_PREV : Fld := ⟨28, 272, 32, 16, 0⟩
def KEY_JNL_STAT_PEER : Fld := ⟨28, 272, 16, 16, 0⟩
def KEY_JNL_STAT_HELD : Fld := ⟨28, 272, 0, 4, 0⟩
def KEY_BUS_STAT_REMOVALS : Fld := ⟨28, 280, 32, 16, 0⟩
def KEY_BUS_STAT_FETCHES : Fld := ⟨28, 280, 0, 16, 0⟩
def KEY_HMAC_CFG_SLICE_EN : Fld := ⟨29, 256, 16, 16, 65535⟩
def KEY_CNT_FETCH_COUNT : Fld := ⟨29, 264, 0, 64, 0⟩
def KEY_CNT_UNWRAP_FAIL_COUNT : Fld := ⟨29, 272, 0, 64, 0⟩
def KEY_CNT_REMOVE_COUNT : Fld := ⟨29, 280, 0, 64, 0⟩
def KEY_CNT_USE_REFUSED_COUNT : Fld := ⟨29, 288, 0, 64, 0⟩

/-! ### MSR -/
def MSR_SEL_WORD : Fld := ⟨30, 256, 8, 3, 0⟩
def MSR_SEL_REG : Fld := ⟨30, 256, 0, 5, 0⟩
def MSR_VALUE_BYTES : Fld := ⟨30, 264, 0, 64, 0⟩
def MSR_INFO_ALG : Fld := ⟨30, 272, 62, 2, 0⟩
def MSR_INFO_LOCKED : Fld := ⟨30, 272, 61, 1, 0⟩
def MSR_INFO_EXTENDS : Fld := ⟨30, 272, 0, 32, 0⟩
def MSR_EXTEND_LOCK : Fld := ⟨30, 280, 63, 1, 0⟩
def MSR_EXTEND_REG : Fld := ⟨30, 280, 58, 5, 0⟩
def MSR_EXTEND_ADDR : Fld := ⟨30, 280, 3, 45, 0⟩
def MSR_EXTEND_STAT_BUSY : Fld := ⟨30, 288, 63, 1, 0⟩
def MSR_EXTEND_STAT_RESULT : Fld := ⟨30, 288, 60, 3, 0⟩
def MSR_EXTEND_STAT_CONDITION : Fld := ⟨30, 288, 32, 16, 0⟩
def MSR_CNT_COUNT : Fld := ⟨30, 296, 0, 64, 0⟩

/-! ### MBX -/
def MBX_POST_WORD (c : Nat) : Fld := ⟨(19 + c / 32), (256 + 8 * (c % 32)), 0, 64, 0⟩
def MBX_TAKE_WORD (c : Nat) : Fld := ⟨(19 + c / 32), (512 + 8 * (c % 32)), 0, 64, 0⟩
def MBX_STAT_FULL (c : Nat) : Fld := ⟨(19 + c / 32), (768 + 8 * (c % 32)), 63, 1, 0⟩
def MBX_STAT_DROPPED (c : Nat) : Fld := ⟨(19 + c / 32), (768 + 8 * (c % 32)), 62, 1, 0⟩
def MBX_STAT_REFUSED (c : Nat) : Fld := ⟨(19 + c / 32), (768 + 8 * (c % 32)), 61, 1, 0⟩
def MBX_STAT_DB_EN (c : Nat) : Fld := ⟨(19 + c / 32), (768 + 8 * (c % 32)), 60, 1, 0⟩
def MBX_STAT_MSG_EPOCH (c : Nat) : Fld := ⟨(19 + c / 32), (768 + 8 * (c % 32)), 48, 8, 0⟩
def MBX_STAT_SEPOCH (c : Nat) : Fld := ⟨(19 + c / 32), (768 + 8 * (c % 32)), 40, 8, 0⟩
def MBX_STAT_REPOCH (c : Nat) : Fld := ⟨(19 + c / 32), (768 + 8 * (c % 32)), 32, 8, 0⟩
def MBX_STAT_ORIG_EPOCH (c : Nat) : Fld := ⟨(19 + c / 32), (768 + 8 * (c % 32)), 24, 8, 0⟩
def MBX_STAT_POST_BEAT (c : Nat) : Fld := ⟨(19 + c / 32), (768 + 8 * (c % 32)), 0, 24, 0⟩
def MBX_BIND_VALID (c : Nat) : Fld := ⟨(19 + c / 32), (1024 + 8 * (c % 32)), 63, 1, 0⟩
def MBX_BIND_SENDER (c : Nat) : Fld := ⟨(19 + c / 32), (1024 + 8 * (c % 32)), 8, 6, 0⟩
def MBX_BIND_RECEIVER (c : Nat) : Fld := ⟨(19 + c / 32), (1024 + 8 * (c % 32)), 0, 6, 0⟩
def MBX_FULL_BITS (p : Nat) : Fld := ⟨(19 + p), 1280, 0, 32, 0⟩
def MBX_CNT_DROP_COUNT (p : Nat) : Fld := ⟨(19 + p), 1288, 0, 64, 0⟩
def MBX_BIND_LOCK_LOCKED : Fld := ⟨19, 1296, 63, 1, 0⟩
def MBX_LOCK_OWNER (k : Nat) : Fld := ⟨20, (1296 + 8 * k), 0, 6, 0⟩
def MBX_UNLOCK_LOCK : Fld := ⟨20, 1424, 0, 4, 0⟩
def MBX_LOCK_STAT_HELD : Fld := ⟨20, 1432, 16, 16, 0⟩
def MBX_LOCK_STAT_BROKEN : Fld := ⟨20, 1432, 0, 16, 0⟩

/-! ### UPD -/
def UPD_CMD_OP : Fld := ⟨286, 256, 56, 8, 0⟩
def UPD_CMD_ARG_ADDR : Fld := ⟨286, 264, 8, 40, 0⟩
def UPD_CMD_STAT_BUSY : Fld := ⟨286, 272, 63, 1, 0⟩
def UPD_CMD_STAT_RESULT : Fld := ⟨286, 272, 60, 3, 0⟩
def UPD_CMD_STAT_CONDITION : Fld := ⟨286, 272, 32, 16, 0⟩
def UPD_STAT_STAGE : Fld := ⟨286, 280, 60, 4, 0⟩
def UPD_STAT_SOURCE : Fld := ⟨286, 280, 58, 2, 0⟩
def UPD_STAT_CONDITION : Fld := ⟨286, 280, 32, 16, 0⟩
def UPD_STAT_BEAT : Fld := ⟨286, 280, 0, 32, 0⟩
def UPD_PTR_NEXT_VALID : Fld := ⟨286, 288, 63, 1, 0⟩
def UPD_PTR_CUR_BANK : Fld := ⟨286, 288, 62, 1, 0⟩
def UPD_PTR_NEXT_BANK : Fld := ⟨286, 288, 61, 1, 0⟩
def UPD_PTR_CUR_SLOT : Fld := ⟨286, 288, 60, 1, 0⟩
def UPD_PTR_NEXT_SLOT : Fld := ⟨286, 288, 59, 1, 0⟩
def UPD_PTR_TRY : Fld := ⟨286, 288, 56, 3, 0⟩
def UPD_PTR_FELL_BACK : Fld := ⟨286, 288, 55, 1, 0⟩
def UPD_PTR_SEQ : Fld := ⟨286, 288, 0, 32, 0⟩
def UPD_BANK_STAT_STATE (k : Nat) : Fld := ⟨286, (296 + 8 * k), 60, 4, 0⟩
def UPD_BANK_STAT_DONE (k : Nat) : Fld := ⟨286, (296 + 8 * k), 32, 12, 0⟩
def UPD_BANK_STAT_ID (k : Nat) : Fld := ⟨286, (296 + 8 * k), 0, 32, 0⟩
def UPD_SCHED_WINDOW : Fld := ⟨286, 312, 48, 16, 0⟩
def UPD_SCHED_TIME_MS : Fld := ⟨286, 312, 0, 48, 0⟩
def UPD_TRIAL_SOLO_OK : Fld := ⟨286, 320, 63, 1, 0⟩
def UPD_TRIAL_AUTO_CONFIRM : Fld := ⟨286, 320, 62, 1, 0⟩
def UPD_TRIAL_DEADLINE : Fld := ⟨286, 320, 0, 48, 0⟩
def UPD_SETTINGS_STAT_FORMAT : Fld := ⟨286, 328, 48, 16, 0⟩
def UPD_SETTINGS_STAT_LOST : Fld := ⟨286, 328, 32, 16, 0⟩
def UPD_SETTINGS_STAT_MIGRATED : Fld := ⟨286, 328, 1, 1, 0⟩
def UPD_SETTINGS_STAT_SLOT : Fld := ⟨286, 328, 0, 1, 0⟩
def UPD_CNT_BLOCKS : Fld := ⟨286, 336, 32, 32, 0⟩
def UPD_CNT_FAILS : Fld := ⟨286, 336, 0, 32, 0⟩

/-! ### SVC -/
def SVC_CFG_MODE : Fld := ⟨287, 256, 1, 1, 0⟩
def SVC_CFG_READ_OPEN : Fld := ⟨287, 256, 0, 1, 1⟩
def SVC_STAT_LINK : Fld := ⟨287, 264, 63, 1, 0⟩
def SVC_STAT_SESSION : Fld := ⟨287, 264, 61, 2, 0⟩
def SVC_STAT_CONDITION : Fld := ⟨287, 264, 32, 16, 0⟩
def SVC_STAT_BEAT : Fld := ⟨287, 264, 0, 32, 0⟩
def SVC_SESSION_SCOPE : Fld := ⟨287, 272, 56, 3, 0⟩
def SVC_SESSION_ID : Fld := ⟨287, 272, 0, 32, 0⟩
def SVC_CNT_RX_COUNT : Fld := ⟨287, 280, 0, 64, 0⟩
def SVC_CNT_TX_COUNT : Fld := ⟨287, 288, 0, 64, 0⟩
def SVC_CNT_BAD_COUNT : Fld := ⟨287, 296, 0, 64, 0⟩
def SVC_CNT_AUTH_COUNT : Fld := ⟨287, 304, 0, 64, 0⟩
def SVC_CNT_READ_COUNT : Fld := ⟨287, 312, 0, 64, 0⟩

/-! ### PWR -/
def PWR_CFG_QUIESCE_TMO : Fld := ⟨3, 256, 32, 16, 1024⟩
def PWR_CFG_IDLE_DELAY : Fld := ⟨3, 256, 0, 16, 256⟩
def PWR_REQ_STAT_BUSY : Fld := ⟨3, 264, 63, 1, 0⟩
def PWR_REQ_STAT_RESULT : Fld := ⟨3, 264, 60, 3, 0⟩
def PWR_REQ_STAT_REFUSER : Fld := ⟨3, 264, 56, 4, 0⟩
def PWR_REQ_STAT_DOMAIN : Fld := ⟨3, 264, 48, 5, 0⟩
def PWR_REQ_STAT_CONDITION : Fld := ⟨3, 264, 32, 16, 0⟩
def PWR_REQ_STAT_BEAT : Fld := ⟨3, 264, 0, 32, 0⟩
def PWR_AUTO_IDLE_EN : Fld := ⟨3, 272, 2, 12, 4092⟩
def PWR_DOZE_CTL_REQ : Fld := ⟨3, 280, 63, 1, 0⟩
def PWR_DOZE_CTL_OSC_STOP : Fld := ⟨3, 280, 0, 1, 1⟩
def PWR_DOZE_STAT_PHASE : Fld := ⟨3, 288, 62, 2, 0⟩
def PWR_DOZE_STAT_WAKE_SRC : Fld := ⟨3, 288, 48, 4, 0⟩
def PWR_DOZE_STAT_EXIT_BEATS : Fld := ⟨3, 288, 0, 16, 0⟩
def PWR_WAKE_EN_EN : Fld := ⟨3, 296, 1, 8, 239⟩
def PWR_WAKE_EN_WAKE_N : Fld := ⟨3, 296, 0, 1, 1⟩
def PWR_WAKE_STAT_ASSERTED : Fld := ⟨3, 304, 0, 9, 0⟩
def PWR_WAKE_LATCH_LATCHED : Fld := ⟨3, 312, 0, 9, 0⟩
def PWR_REFUSE_LAST_REFUSER : Fld := ⟨3, 320, 60, 4, 0⟩
def PWR_REFUSE_LAST_DOMAIN : Fld := ⟨3, 320, 48, 5, 0⟩
def PWR_REFUSE_LAST_CONDITION : Fld := ⟨3, 320, 32, 16, 0⟩
def PWR_REFUSE_LAST_BEAT : Fld := ⟨3, 320, 0, 32, 0⟩
def PWR_VAULT_STAT_PHASE : Fld := ⟨3, 328, 61, 3, 0⟩
def PWR_VAULT_STAT_PFAIL_BEAT : Fld := ⟨3, 328, 0, 32, 0⟩
def PWR_DOM_REQ_OP (k : Nat) : Fld := ⟨3, (512 + 8 * k), 60, 4, 0⟩
def PWR_DOM_REQ_TARGET (k : Nat) : Fld := ⟨3, (512 + 8 * k), 58, 2, 0⟩
def PWR_DOM_REQ_CORES (k : Nat) : Fld := ⟨3, (512 + 8 * k), 0, 16, 0⟩
def PWR_DOM_STAT_STATE (k : Nat) : Fld := ⟨3, (768 + 8 * k), 62, 2, ([3, 3, 3, 3, 3, 3, 3, 3, 3, 3, 3, 3, 3, 3, 3, 3, 3, 3, 3, 3].getD k 0)⟩
def PWR_DOM_STAT_MOVING (k : Nat) : Fld := ⟨3, (768 + 8 * k), 61, 1, 0⟩
def PWR_DOM_STAT_CLAMPED (k : Nat) : Fld := ⟨3, (768 + 8 * k), 60, 1, 0⟩
def PWR_DOM_STAT_AUTO (k : Nat) : Fld := ⟨3, (768 + 8 * k), 59, 1, 0⟩
def PWR_DOM_STAT_BEAT (k : Nat) : Fld := ⟨3, (768 + 8 * k), 0, 32, 0⟩
def PWR_DOM_SEL_STATE : Fld := ⟨4, 256, 5, 2, 0⟩
def PWR_DOM_SEL_DOMAIN : Fld := ⟨4, 256, 0, 5, 0⟩
def PWR_DOM_TIME_BEATS : Fld := ⟨4, 264, 0, 64, 0⟩
def PWR_REFUSE_CNT_COUNT (k : Nat) : Fld := ⟨4, (320 + 8 * k), 0, 64, 0⟩
def PWR_CNT_ENTRY_COUNT : Fld := ⟨4, 384, 0, 64, 0⟩
def PWR_CNT_EXIT_COUNT : Fld := ⟨4, 392, 0, 64, 0⟩
def PWR_CNT_ABORT_COUNT : Fld := ⟨4, 400, 0, 64, 0⟩
def PWR_CNT_REPLAY_COUNT : Fld := ⟨4, 408, 0, 64, 0⟩
def PWR_CNT_DOZE_COUNT : Fld := ⟨4, 416, 0, 64, 0⟩
def PWR_CNT_DOZE_REFUSED_COUNT : Fld := ⟨4, 424, 0, 64, 0⟩
def PWR_CNT_AUTO_IDLE_COUNT : Fld := ⟨4, 432, 0, 64, 0⟩
def PWR_CNT_WAKE_COUNT : Fld := ⟨4, 440, 0, 64, 0⟩
def PWR_CNT_VAULT_COUNT : Fld := ⟨4, 448, 0, 64, 0⟩

/-! ### CLK -/
def CLK_PLL_STAT_RUN : Fld := ⟨5, 256, 16, 9, 0⟩
def CLK_PLL_STAT_LOCK : Fld := ⟨5, 256, 0, 9, 0⟩
def CLK_REF_STAT_OK : Fld := ⟨5, 264, 0, 7, 0⟩
def CLK_OSC_STAT_RUNNING : Fld := ⟨5, 272, 63, 1, 1⟩
def CLK_OSC_STAT_STOPPED_LAST : Fld := ⟨5, 272, 62, 1, 0⟩
def CLK_OSC_STAT_START_US : Fld := ⟨5, 272, 0, 16, 0⟩
def CLK_MON_CFG_EN : Fld := ⟨5, 280, 16, 7, 127⟩
def CLK_MON_CFG_TOL_PPM : Fld := ⟨5, 280, 0, 16, 1000⟩
def CLK_MON_STAT_FAIL : Fld := ⟨5, 288, 0, 7, 0⟩
def CLK_MEAS_SEL_DOMAIN : Fld := ⟨5, 296, 0, 5, 0⟩
def CLK_MEAS_KHZ : Fld := ⟨5, 304, 0, 32, 0⟩
def CLK_DOM_CFG_MHZ (k : Nat) : Fld := ⟨5, (512 + 8 * k), 32, 12, ([0, 25, 500, 1600, 2600, 2600, 2600, 2600, 1000, 1600, 1600, 1500, 1500, 1500, 1500, 1600, 1250, 1250, 1000, 1000, 1250, 800, 125, 0, 800].getD k 0)⟩
def CLK_DOM_CFG_GATE_EN (k : Nat) : Fld := ⟨5, (512 + 8 * k), 0, 1, 1⟩
def CLK_DOM_STAT_RUNNING (k : Nat) : Fld := ⟨5, (768 + 8 * k), 63, 1, 0⟩
def CLK_DOM_STAT_MHZ (k : Nat) : Fld := ⟨5, (768 + 8 * k), 32, 12, 0⟩
def CLK_CNT_FREQ_CHANGE_COUNT : Fld := ⟨6, 256, 0, 64, 0⟩
def CLK_CNT_FREQ_REFUSED_COUNT : Fld := ⟨6, 264, 0, 64, 0⟩
def CLK_CNT_PLL_UNLOCK_COUNT : Fld := ⟨6, 272, 0, 64, 0⟩
def CLK_CNT_PLL_RELOCK_COUNT : Fld := ⟨6, 280, 0, 64, 0⟩
def CLK_CNT_REF_LOSS_COUNT : Fld := ⟨6, 288, 0, 64, 0⟩
def CLK_CNT_REF_RETURN_COUNT : Fld := ⟨6, 296, 0, 64, 0⟩
def CLK_CNT_MON_FAIL_COUNT : Fld := ⟨6, 304, 0, 64, 0⟩
def CLK_CNT_OSC_STOP_COUNT : Fld := ⟨6, 312, 0, 64, 0⟩
def CLK_CNT_OSC_START_COUNT : Fld := ⟨6, 320, 0, 64, 0⟩
def CLK_CNT_GATE_COUNT : Fld := ⟨6, 328, 0, 64, 0⟩
def CLK_CNT_UNGATE_COUNT : Fld := ⟨6, 336, 0, 64, 0⟩

/-! ### AON -/
def AON_STAT_PFAIL : Fld := ⟨0, 256, 63, 1, 0⟩
def AON_STAT_WAKE : Fld := ⟨0, 256, 62, 1, 0⟩
def AON_RESET_CAUSE_TRIP : Fld := ⟨0, 264, 8, 1, 0⟩
def AON_RESET_CAUSE_CAUSE : Fld := ⟨0, 264, 0, 8, 1⟩
def AON_PFAIL_STAT_SEEN : Fld := ⟨0, 272, 63, 1, 0⟩
def AON_PFAIL_STAT_BEAT : Fld := ⟨0, 272, 0, 32, 0⟩
def AON_RTC_TICKS : Fld := ⟨0, 280, 0, 64, 0⟩
def AON_ALARM_EN : Fld := ⟨0, 288, 63, 1, 0⟩
def AON_ALARM_TICKS : Fld := ⟨0, 288, 0, 48, 0⟩
def AON_GPIO_WAKE_LEVEL : Fld := ⟨0, 296, 32, 32, 0⟩
def AON_GPIO_WAKE_EN : Fld := ⟨0, 296, 0, 32, 0⟩
def AON_TB_SAVE_NS : Fld := ⟨0, 304, 0, 64, 0⟩
def AON_CNT_PFAIL_COUNT : Fld := ⟨0, 312, 0, 64, 0⟩
def AON_CNT_WAKE_COUNT : Fld := ⟨0, 320, 0, 64, 0⟩
def AON_CNT_RESET_COUNT : Fld := ⟨0, 328, 0, 64, 0⟩
def AON_PFAIL_CFG_EN : Fld := ⟨1, 256, 0, 1, 1⟩
def AON_SRST_REQ_REQ : Fld := ⟨1, 264, 0, 1, 0⟩
def AON_BOOT_FLAGS_FLAGS : Fld := ⟨1, 272, 0, 64, 0⟩
def AON_EVR_EPOCH_EPOCH : Fld := ⟨1, 280, 0, 32, 0⟩
def AON_EVR_START_BEAT : Fld := ⟨1, 288, 0, 48, 0⟩
def AON_SCRATCH_DATA (k : Nat) : Fld := ⟨1, (320 + 8 * k), 0, 64, 0⟩
def AON_CORE_VEC_ADDR (k : Nat) : Fld := ⟨1, (384 + 8 * k), 2, 46, 0⟩
def AON_CNT_SRST_REQ_COUNT : Fld := ⟨1, 416, 0, 64, 0⟩

/-! ### ERQ -/
def ERQ_CFG_FATAL_RESET : Fld := ⟨35, 256, 8, 1, 0⟩
def ERQ_CFG_SUM_MIN : Fld := ⟨35, 256, 0, 3, 2⟩
def ERQ_STAT_HOLD : Fld := ⟨35, 264, 63, 1, 0⟩
def ERQ_STAT_FATAL : Fld := ⟨35, 264, 62, 1, 0⟩
def ERQ_STAT_RECOVERY : Fld := ⟨35, 264, 61, 1, 0⟩
def ERQ_STAT_WORST : Fld := ⟨35, 264, 56, 3, 0⟩
def ERQ_STAT_UNC : Fld := ⟨35, 264, 32, 8, 0⟩
def ERQ_STAT_HANDLING : Fld := ⟨35, 264, 0, 16, 0⟩
def ERQ_SUM_BITS (k : Nat) : Fld := ⟨35, (272 + 8 * k), 0, 64, 0⟩
def ERQ_HEAD_FIRST_VALID : Fld := ⟨35, 320, 63, 1, 0⟩
def ERQ_HEAD_FIRST_SEVERITY : Fld := ⟨35, 320, 60, 3, 0⟩
def ERQ_HEAD_FIRST_ESCALATED : Fld := ⟨35, 320, 59, 1, 0⟩
def ERQ_HEAD_FIRST_SLOT : Fld := ⟨35, 320, 48, 10, 0⟩
def ERQ_HEAD_FIRST_CONDITION : Fld := ⟨35, 320, 32, 16, 0⟩
def ERQ_HEAD_FIRST_BEAT : Fld := ⟨35, 320, 0, 32, 0⟩
def ERQ_HEAD_FIRST_INFO_INFO : Fld := ⟨35, 328, 0, 64, 0⟩
def ERQ_WORST_SLOT_SLOT : Fld := ⟨35, 336, 0, 10, 0⟩
def ERQ_INJECT_SLOT : Fld := ⟨35, 344, 48, 10, 0⟩
def ERQ_INJECT_CONDITION : Fld := ⟨35, 344, 32, 16, 0⟩
def ERQ_CNT_ESCALATED : Fld := ⟨35, 352, 32, 32, 0⟩
def ERQ_CNT_RAISED : Fld := ⟨35, 352, 0, 32, 0⟩

/-! ### EVR -/
def EVR_CFG_EN : Fld := ⟨31, 256, 0, 1, 1⟩
def EVR_STAT_WIN_READY : Fld := ⟨31, 264, 63, 1, 0⟩
def EVR_STAT_WIN_VALID : Fld := ⟨31, 264, 62, 1, 0⟩
def EVR_STAT_WRITING : Fld := ⟨31, 264, 61, 1, 0⟩
def EVR_STAT_EPOCH : Fld := ⟨31, 264, 0, 32, 0⟩
def EVR_CURSOR_AREA : Fld := ⟨31, 272, 62, 2, 0⟩
def EVR_CURSOR_EPOCH : Fld := ⟨31, 272, 8, 32, 0⟩
def EVR_CURSOR_METRIC : Fld := ⟨31, 272, 0, 8, 0⟩
def EVR_SAMPLE_METRIC : Fld := ⟨31, 280, 56, 8, 0⟩
def EVR_SAMPLE_VALUE : Fld := ⟨31, 280, 0, 56, 0⟩
def EVR_CNT_WRITE_COUNT : Fld := ⟨31, 288, 0, 64, 0⟩
def EVR_CNT_WRITE_FAIL_COUNT : Fld := ⟨31, 296, 0, 64, 0⟩
def EVR_CNT_GAP_COUNT : Fld := ⟨31, 304, 0, 64, 0⟩
def EVR_CNT_READ_COUNT : Fld := ⟨31, 312, 0, 64, 0⟩
def EVR_WIN_WORD (k : Nat) : Fld := ⟨31, (512 + 8 * k), 0, 64, 0⟩
def EVR_MET_CFG_EN (k : Nat) : Fld := ⟨32, (256 + 8 * k), 0, 1, 1⟩
def EVR_LIVE_SEL_METRIC : Fld := ⟨32, 2304, 0, 8, 0⟩
def EVR_LIVE_CNT_VAL : Fld := ⟨32, 2312, 0, 64, 0⟩
def EVR_LIVE_SUM_VAL : Fld := ⟨32, 2320, 0, 64, 0⟩
def EVR_LIVE_MIN_VAL : Fld := ⟨32, 2328, 0, 64, 0⟩
def EVR_LIVE_MAX_VAL : Fld := ⟨32, 2336, 0, 64, 0⟩
def EVR_CLR_CHAL_NONCE (k : Nat) : Fld := ⟨33, (256 + 8 * k), 0, 64, 0⟩
def EVR_CLR_REQ_ADDR : Fld := ⟨33, 288, 3, 45, 0⟩
def EVR_CLR_STAT_BUSY : Fld := ⟨33, 296, 63, 1, 0⟩
def EVR_CLR_STAT_RESULT : Fld := ⟨33, 296, 60, 3, 0⟩
def EVR_CLR_STAT_CONDITION : Fld := ⟨33, 296, 32, 16, 0⟩
def EVR_CLR_STAT_LOG_USED : Fld := ⟨33, 296, 0, 7, 0⟩
def EVR_CLR_LOG_SEL_ENTRY : Fld := ⟨33, 304, 0, 6, 0⟩
def EVR_CLR_LOG_WORD (k : Nat) : Fld := ⟨33, (320 + 8 * k), 0, 64, 0⟩
def EVR_CNT_CLR_COUNT : Fld := ⟨33, 384, 0, 64, 0⟩
def EVR_CNT_CLR_REFUSED_COUNT : Fld := ⟨33, 392, 0, 64, 0⟩
def EVR_SEC_CMD_OP : Fld := ⟨34, 256, 60, 4, 0⟩
def EVR_SEC_RANGE_FIRST : Fld := ⟨34, 264, 32, 32, 0⟩
def EVR_SEC_RANGE_LAST : Fld := ⟨34, 264, 0, 32, 0⟩
def EVR_SEC_HASH_WORD (k : Nat) : Fld := ⟨34, (272 + 8 * k), 0, 64, 0⟩
def EVR_SEC_STAT_BUSY : Fld := ⟨34, 320, 63, 1, 0⟩
def EVR_SEC_STAT_RESULT : Fld := ⟨34, 320, 60, 3, 0⟩
def EVR_SEC_PERM_STAT_PERM_EPOCHS : Fld := ⟨34, 328, 32, 9, 0⟩
def EVR_SEC_PERM_STAT_OLDEST : Fld := ⟨34, 328, 0, 32, 0⟩
def EVR_SEC_CLR_SEQ_SEQ : Fld := ⟨34, 336, 0, 7, 0⟩
def EVR_CNT_SEC_CMD_COUNT : Fld := ⟨34, 344, 0, 64, 0⟩
def EVR_CNT_SEC_FAIL_COUNT : Fld := ⟨34, 352, 0, 64, 0⟩

/-! ### AGE -/
def AGE_CFG_EOL_PS (n : Nat) : Fld := ⟨(36 + n), 256, 32, 16, 20⟩
def AGE_CFG_WARN_MONTHS (n : Nat) : Fld := ⟨(36 + n), 256, 0, 12, 120⟩
def AGE_STAT_MARGIN_PS (n : Nat) : Fld := ⟨(36 + n), 264, 16, 16, 0⟩
def AGE_STAT_DEGRADE_PS (n : Nat) : Fld := ⟨(36 + n), 264, 0, 16, 0⟩
def AGE_BASE_BASE_PS (n : Nat) : Fld := ⟨(36 + n), 272, 0, 16, 0⟩
def AGE_HOURS_HOURS (n : Nat) : Fld := ⟨(36 + n), 280, 0, 32, 0⟩
def AGE_PRED_VALID (n : Nat) : Fld := ⟨(36 + n), 288, 63, 1, 0⟩
def AGE_PRED_HIGH (n : Nat) : Fld := ⟨(36 + n), 288, 24, 12, 0⟩
def AGE_PRED_MONTHS (n : Nat) : Fld := ⟨(36 + n), 288, 12, 12, 0⟩
def AGE_PRED_LOW (n : Nat) : Fld := ⟨(36 + n), 288, 0, 12, 0⟩
def AGE_CNT_SAMPLE_COUNT (n : Nat) : Fld := ⟨(36 + n), 296, 0, 64, 0⟩

/-! ### TST -/
def TST_CFG_LOOP (q : Nat) : Fld := ⟨(288 + q), 256, 48, 4, 0⟩
def TST_CFG_PATTERN (q : Nat) : Fld := ⟨(288 + q), 256, 40, 4, 0⟩
def TST_CFG_INVERT (q : Nat) : Fld := ⟨(288 + q), 256, 32, 4, 0⟩
def TST_CFG_GEN_EN (q : Nat) : Fld := ⟨(288 + q), 256, 8, 4, 0⟩
def TST_CFG_CHK_EN (q : Nat) : Fld := ⟨(288 + q), 256, 0, 4, 0⟩
def TST_CTL_EYE (q : Nat) : Fld := ⟨(288 + q), 264, 2, 1, 0⟩
def TST_CTL_CLEAR (q : Nat) : Fld := ⟨(288 + q), 264, 1, 1, 0⟩
def TST_CTL_RUN (q : Nat) : Fld := ⟨(288 + q), 264, 0, 1, 0⟩
def TST_STAT_LOCK (q : Nat) : Fld := ⟨(288 + q), 272, 60, 4, 0⟩
def TST_STAT_LOSS (q : Nat) : Fld := ⟨(288 + q), 272, 56, 4, 0⟩
def TST_STAT_TAKEN (q : Nat) : Fld := ⟨(288 + q), 272, 52, 4, 0⟩
def TST_STAT_EYE_STATE (q : Nat) : Fld := ⟨(288 + q), 272, 50, 2, 0⟩
def TST_STAT_EYE_PCT (q : Nat) : Fld := ⟨(288 + q), 272, 40, 8, 0⟩
def TST_STAT_RUN_BEATS (q : Nat) : Fld := ⟨(288 + q), 272, 0, 32, 0⟩
def TST_EYE_CFG_LANE (q : Nat) : Fld := ⟨(288 + q), 280, 62, 2, 0⟩
def TST_EYE_CFG_DWELL (q : Nat) : Fld := ⟨(288 + q), 280, 58, 4, 4⟩
def TST_EYE_CFG_ADDR (q : Nat) : Fld := ⟨(288 + q), 280, 12, 36, 0⟩
def TST_ERR_CNT_ERRORS (q n : Nat) : Fld := ⟨(288 + q), (288 + 8 * n), 0, 48, 0⟩
def TST_BIT_CNT_BITS (q n : Nat) : Fld := ⟨(288 + q), (320 + 8 * n), 0, 64, 0⟩

/-! ### HBM -/
def HBM_STAT_STATE (n p : Nat) : Fld := ⟨(352 + 4 * n + p), 256, 62, 2, 0⟩
def HBM_STAT_PC_OK (n p : Nat) : Fld := ⟨(352 + 4 * n + p), 256, 48, 8, 0⟩
def HBM_STAT_TRAIN_BEATS (n p : Nat) : Fld := ⟨(352 + 4 * n + p), 256, 0, 32, 0⟩
def HBM_ECC_UNCORR (n p : Nat) : Fld := ⟨(352 + 4 * n + p), 264, 48, 16, 0⟩
def HBM_ECC_CORR (n p : Nat) : Fld := ⟨(352 + 4 * n + p), 264, 16, 32, 0⟩
def HBM_THERM_STACK (n p : Nat) : Fld := ⟨(352 + 4 * n + p), 272, 56, 8, 0⟩
def HBM_THERM_DIE (n p : Nat) : Fld := ⟨(352 + 4 * n + p), 272, 8, 40, 0⟩
def HBM_THERM_HOTTEST (n p : Nat) : Fld := ⟨(352 + 4 * n + p), 272, 0, 8, 0⟩

/-! ### DFM -/
def DFM_BASE_BASE (f : Nat) : Fld := ⟨(262 + f), 256, 12, 36, 0⟩
def DFM_CTL_OP (f : Nat) : Fld := ⟨(262 + f), 264, 62, 2, 0⟩
def DFM_STAT_BUSY (f : Nat) : Fld := ⟨(262 + f), 272, 63, 1, 0⟩
def DFM_STAT_RESULT (f : Nat) : Fld := ⟨(262 + f), 272, 60, 3, 0⟩
def DFM_STAT_BRICKS (f : Nat) : Fld := ⟨(262 + f), 272, 48, 8, 0⟩
def DFM_STAT_CONDITION (f : Nat) : Fld := ⟨(262 + f), 272, 32, 16, 0⟩
def DFM_HDR_WORD0 (f : Nat) : Fld := ⟨(262 + f), 280, 0, 64, 0⟩
def DFM_CHECK_CHECK (f : Nat) : Fld := ⟨(262 + f), 288, 0, 32, 0⟩
def DFM_CNT_RETRY_READS (f : Nat) : Fld := ⟨(262 + f), 296, 32, 32, 0⟩
def DFM_CNT_UNCORR (f : Nat) : Fld := ⟨(262 + f), 296, 0, 32, 0⟩

end Sys2Proof.Machine.F
end

