-- ==== Sys2Proof/Machine/RegTable.lean ====
section
/-! DEFINITION. The registers of every block by block code (Table 2.17), pages, offset and array length, with
each field's place, width, reset value, access and class as the field tables of the spec give them. The bus
(Machine/Bus.lean) reads it for an access to a register without behaviour of its own (R716, R718). Bits that
no field names are reserved: RO, zero. -/

namespace Sys2Proof.Machine

def regTableBeat : List RegRow := [
  ⟨2, 0, 0, 256, 1, [⟨0, 64, 0, .ro, .fixed⟩]⟩,
  ⟨2, 0, 0, 264, 1, [⟨0, 16, 0, .ro, .fixed⟩]⟩,
  ⟨2, 0, 0, 272, 1, [⟨0, 48, 0, .ro, .fixed⟩]⟩,
  ⟨2, 0, 0, 280, 1, [⟨7, 1, 0, .ro, .fixed⟩, ⟨6, 1, 0, .ro, .fixed⟩, ⟨5, 1, 0, .ro, .fixed⟩, ⟨4, 1, 0, .ro, .fixed⟩, ⟨0, 2, 0, .ro, .fixed⟩]⟩,
  ⟨2, 0, 0, 288, 1, [⟨40, 8, 0, .rw, .latched⟩, ⟨32, 8, 50, .rw, .latched⟩, ⟨16, 7, 0, .rw, .latched⟩, ⟨1, 1, 1, .rw, .latched⟩, ⟨0, 1, 0, .rw, .latched⟩]⟩,
  ⟨2, 0, 0, 296, 1, [⟨0, 32, 0, .ro, .fixed⟩]⟩,
  ⟨2, 0, 0, 304, 1, [⟨0, 32, 0, .rw, .vola⟩]⟩,
  ⟨2, 0, 0, 312, 1, [⟨0, 32, 0, .ro, .fixed⟩]⟩,
  ⟨2, 0, 0, 320, 1, [⟨0, 64, 0, .rw, .vola⟩]⟩,
  ⟨2, 0, 0, 328, 1, [⟨0, 64, 0, .ro, .fixed⟩]⟩,
  ⟨2, 0, 0, 336, 1, [⟨0, 64, 0, .ro, .fixed⟩]⟩,
  ⟨2, 0, 0, 344, 1, [⟨0, 32, 0, .rw, .latched⟩]⟩,
  ⟨2, 0, 0, 352, 1, [⟨0, 64, 0, .ro, .fixed⟩]⟩]

def regTableAdm : List RegRow := [
  ⟨18, 0, 0, 256, 1, [⟨32, 16, 0, .ro, .fixed⟩, ⟨16, 8, 0, .rc, .fixed⟩, ⟨0, 8, 0, .ro, .fixed⟩]⟩,
  ⟨18, 0, 0, 264, 1, [⟨48, 16, 0, .rc, .fixed⟩, ⟨32, 16, 0, .rc, .fixed⟩, ⟨16, 16, 0, .rc, .fixed⟩]⟩,
  ⟨18, 0, 0, 272, 1, [⟨63, 1, 0, .rc, .fixed⟩, ⟨60, 3, 0, .rc, .fixed⟩, ⟨57, 3, 0, .rc, .fixed⟩, ⟨32, 16, 0, .rc, .fixed⟩, ⟨0, 32, 0, .rc, .fixed⟩]⟩,
  ⟨18, 0, 0, 384, 1, [⟨32, 32, 131072, .ro, .fixed⟩, ⟨0, 32, 0, .ro, .fixed⟩]⟩,
  ⟨18, 0, 0, 392, 1, [⟨32, 32, 4096, .ro, .fixed⟩, ⟨0, 32, 0, .ro, .fixed⟩]⟩,
  ⟨18, 0, 0, 400, 1, [⟨32, 32, 1024, .ro, .fixed⟩, ⟨0, 32, 0, .ro, .fixed⟩]⟩,
  ⟨18, 0, 0, 408, 1, [⟨32, 32, 16384, .ro, .fixed⟩, ⟨0, 32, 0, .ro, .fixed⟩]⟩,
  ⟨18, 0, 0, 416, 1, [⟨32, 32, 65536, .ro, .fixed⟩, ⟨0, 32, 0, .ro, .fixed⟩]⟩,
  ⟨18, 0, 0, 424, 1, [⟨32, 32, 4063232, .ro, .fixed⟩, ⟨0, 32, 0, .ro, .fixed⟩]⟩,
  ⟨18, 0, 0, 432, 1, [⟨32, 32, 32768, .ro, .fixed⟩, ⟨0, 32, 0, .ro, .fixed⟩]⟩,
  ⟨18, 0, 0, 440, 1, [⟨32, 32, 3072, .ro, .fixed⟩, ⟨0, 32, 0, .ro, .fixed⟩]⟩,
  ⟨18, 0, 0, 1024, 256, [⟨55, 9, 64, .rw, .latched⟩, ⟨46, 9, 8, .rw, .latched⟩, ⟨38, 8, 4, .rw, .latched⟩, ⟨28, 10, 40, .rw, .latched⟩, ⟨18, 10, 32, .rw, .latched⟩, ⟨8, 10, 20, .rw, .latched⟩, ⟨0, 8, 3, .rw, .latched⟩]⟩]

def regTableIrt : List RegRow := [
  ⟨6, 0, 0, 256, 1, [⟨63, 1, 0, .rc, .fixed⟩, ⟨10, 3, 0, .rc, .fixed⟩, ⟨0, 10, 0, .rc, .fixed⟩]⟩,
  ⟨6, 0, 0, 264, 1, [⟨0, 10, 0, .wo, .fixed⟩]⟩,
  ⟨6, 0, 0, 272, 1, [⟨0, 3, 0, .rw, .vola⟩]⟩,
  ⟨6, 0, 0, 384, 16, [⟨0, 64, 0, .ro, .fixed⟩]⟩,
  ⟨6, 1, 2, 256, 480, [⟨14, 1, 0, .rw, .vola⟩, ⟨11, 3, 0, .rw, .vola⟩, ⟨0, 6, 0, .rw, .vola⟩]⟩,
  ⟨6, 3, 3, 256, 64, [⟨14, 1, 0, .rw, .vola⟩, ⟨11, 3, 0, .rw, .vola⟩, ⟨0, 6, 0, .rw, .vola⟩]⟩]

def regTableRdp : List RegRow := [
  ⟨19, 0, 0, 256, 1, [⟨16, 16, 65535, .rw, .latched⟩, ⟨3, 1, 1, .rw, .latched⟩, ⟨2, 1, 1, .rw, .latched⟩, ⟨1, 1, 1, .rw, .latched⟩]⟩,
  ⟨19, 0, 0, 264, 1, [⟨32, 16, 0, .ro, .fixed⟩, ⟨16, 16, 0, .ro, .fixed⟩, ⟨0, 16, 0, .ro, .fixed⟩]⟩,
  ⟨19, 0, 0, 272, 1, [⟨40, 8, 4, .rw, .latched⟩, ⟨32, 4, 3, .rw, .latched⟩, ⟨0, 13, 512, .rw, .latched⟩]⟩,
  ⟨19, 0, 0, 280, 1, [⟨32, 32, 0, .ro, .fixed⟩, ⟨0, 32, 0, .ro, .fixed⟩]⟩,
  ⟨19, 0, 0, 288, 1, [⟨63, 1, 0, .rc, .fixed⟩, ⟨56, 4, 0, .rc, .fixed⟩, ⟨40, 16, 0, .rc, .fixed⟩, ⟨0, 32, 0, .rc, .fixed⟩]⟩,
  ⟨19, 0, 0, 296, 1, [⟨0, 38, 0, .ro, .fixed⟩]⟩,
  ⟨19, 0, 0, 304, 1, [⟨32, 4, 0, .wo, .fixed⟩, ⟨0, 32, 0, .wo, .fixed⟩]⟩,
  ⟨19, 0, 0, 312, 1, [⟨0, 32, 131072, .rw, .latched⟩]⟩,
  ⟨19, 1, 1, 256, 1, [⟨0, 64, 0, .rc, .fixed⟩]⟩,
  ⟨19, 1, 1, 264, 1, [⟨0, 64, 0, .rc, .fixed⟩]⟩,
  ⟨19, 1, 1, 272, 1, [⟨0, 64, 0, .rc, .fixed⟩]⟩,
  ⟨19, 1, 1, 280, 1, [⟨0, 64, 0, .rc, .fixed⟩]⟩,
  ⟨19, 1, 1, 288, 1, [⟨0, 64, 0, .rc, .fixed⟩]⟩,
  ⟨19, 1, 1, 296, 1, [⟨0, 64, 0, .rc, .fixed⟩]⟩,
  ⟨19, 1, 1, 304, 1, [⟨0, 64, 0, .rc, .fixed⟩]⟩,
  ⟨19, 1, 1, 312, 1, [⟨0, 64, 0, .rc, .fixed⟩]⟩,
  ⟨19, 1, 1, 320, 1, [⟨0, 64, 0, .rc, .fixed⟩]⟩,
  ⟨19, 1, 1, 328, 1, [⟨0, 64, 0, .rc, .fixed⟩]⟩]

def regTableMap : List RegRow := [
  ⟨24, 0, 0, 256, 1, [⟨30, 8, 0, .rw, .stat⟩]⟩,
  ⟨24, 0, 0, 264, 1, [⟨0, 8, 48, .rw, .stat⟩]⟩,
  ⟨24, 0, 0, 272, 1, [⟨32, 32, 0, .ro, .fixed⟩, ⟨0, 32, 0, .ro, .fixed⟩]⟩,
  ⟨24, 0, 0, 280, 1, [⟨0, 32, 0, .ro, .fixed⟩]⟩,
  ⟨24, 0, 0, 288, 1, [⟨32, 16, 0, .rc, .fixed⟩, ⟨0, 13, 0, .ro, .fixed⟩]⟩,
  ⟨24, 0, 0, 296, 1, [⟨0, 13, 2048, .rw, .latched⟩]⟩,
  ⟨24, 0, 0, 304, 1, [⟨32, 16, 0, .wo, .fixed⟩, ⟨0, 1, 0, .wo, .fixed⟩]⟩,
  ⟨24, 0, 0, 312, 1, [⟨0, 1, 0, .ro, .fixed⟩]⟩,
  ⟨24, 1, 1, 256, 1, [⟨0, 64, 0, .rc, .fixed⟩]⟩,
  ⟨24, 1, 1, 264, 1, [⟨0, 64, 0, .rc, .fixed⟩]⟩,
  ⟨24, 1, 1, 272, 1, [⟨0, 64, 0, .rc, .fixed⟩]⟩,
  ⟨24, 1, 1, 280, 1, [⟨0, 64, 0, .rc, .fixed⟩]⟩,
  ⟨24, 1, 1, 288, 1, [⟨0, 64, 0, .rc, .fixed⟩]⟩,
  ⟨24, 1, 1, 296, 1, [⟨0, 64, 0, .rc, .fixed⟩]⟩,
  ⟨24, 1, 1, 304, 1, [⟨0, 64, 0, .rc, .fixed⟩]⟩,
  ⟨24, 1, 1, 312, 1, [⟨0, 64, 0, .rc, .fixed⟩]⟩]

def regTableCtb : List RegRow := [
  ⟨25, 0, 0, 256, 1, [⟨30, 8, 0, .rw, .stat⟩]⟩,
  ⟨25, 0, 0, 264, 1, [⟨0, 8, 16, .rw, .stat⟩]⟩,
  ⟨25, 0, 0, 272, 1, [⟨32, 32, 0, .ro, .fixed⟩, ⟨0, 32, 0, .ro, .fixed⟩]⟩,
  ⟨25, 0, 0, 280, 1, [⟨0, 32, 0, .ro, .fixed⟩]⟩,
  ⟨25, 0, 0, 288, 1, [⟨32, 16, 0, .rc, .fixed⟩, ⟨0, 13, 0, .ro, .fixed⟩]⟩,
  ⟨25, 0, 0, 296, 1, [⟨0, 13, 2048, .rw, .latched⟩]⟩,
  ⟨25, 1, 1, 256, 1, [⟨0, 64, 0, .rc, .fixed⟩]⟩,
  ⟨25, 1, 1, 264, 1, [⟨0, 64, 0, .rc, .fixed⟩]⟩,
  ⟨25, 1, 1, 272, 1, [⟨0, 64, 0, .rc, .fixed⟩]⟩,
  ⟨25, 1, 1, 280, 1, [⟨0, 64, 0, .rc, .fixed⟩]⟩,
  ⟨25, 1, 1, 288, 1, [⟨0, 64, 0, .rc, .fixed⟩]⟩,
  ⟨25, 1, 1, 296, 1, [⟨0, 64, 0, .rc, .fixed⟩]⟩,
  ⟨25, 1, 1, 304, 1, [⟨0, 64, 0, .rc, .fixed⟩]⟩,
  ⟨25, 1, 1, 312, 1, [⟨0, 64, 0, .rc, .fixed⟩]⟩]

def regTableRch : List RegRow := [
  ⟨26, 0, 0, 256, 1, [⟨30, 8, 0, .rw, .stat⟩]⟩,
  ⟨26, 0, 0, 264, 1, [⟨0, 8, 56, .rw, .stat⟩]⟩,
  ⟨26, 0, 0, 272, 1, [⟨8, 8, 25, .rw, .latched⟩, ⟨2, 1, 1, .rw, .latched⟩, ⟨1, 1, 1, .rw, .latched⟩, ⟨0, 1, 1, .rw, .latched⟩]⟩,
  ⟨26, 0, 0, 280, 1, [⟨32, 32, 0, .ro, .fixed⟩, ⟨0, 32, 0, .ro, .fixed⟩]⟩,
  ⟨26, 0, 0, 288, 1, [⟨0, 32, 0, .ro, .fixed⟩]⟩,
  ⟨26, 0, 0, 296, 1, [⟨32, 12, 0, .wo, .fixed⟩, ⟨0, 1, 0, .wo, .fixed⟩]⟩,
  ⟨26, 0, 0, 304, 1, [⟨0, 1, 0, .ro, .fixed⟩]⟩,
  ⟨26, 1, 1, 256, 1, [⟨0, 64, 0, .rc, .fixed⟩]⟩,
  ⟨26, 1, 1, 264, 1, [⟨0, 64, 0, .rc, .fixed⟩]⟩,
  ⟨26, 1, 1, 272, 1, [⟨0, 64, 0, .rc, .fixed⟩]⟩,
  ⟨26, 1, 1, 280, 1, [⟨0, 64, 0, .rc, .fixed⟩]⟩,
  ⟨26, 1, 1, 288, 1, [⟨0, 64, 0, .rc, .fixed⟩]⟩,
  ⟨26, 1, 1, 296, 1, [⟨0, 64, 0, .rc, .fixed⟩]⟩,
  ⟨26, 1, 1, 304, 1, [⟨0, 64, 0, .rc, .fixed⟩]⟩,
  ⟨26, 1, 1, 312, 1, [⟨0, 64, 0, .rc, .fixed⟩]⟩,
  ⟨26, 1, 1, 320, 1, [⟨0, 64, 0, .rc, .fixed⟩]⟩]

def regTablePfx : List RegRow := [
  ⟨27, 0, 0, 256, 1, [⟨21, 27, 0, .rw, .stat⟩]⟩,
  ⟨27, 0, 0, 264, 1, [⟨48, 16, 1024, .rw, .latched⟩, ⟨40, 8, 60, .rw, .latched⟩, ⟨16, 11, 256, .rw, .latched⟩, ⟨0, 16, 512, .rw, .latched⟩]⟩,
  ⟨27, 0, 0, 272, 1, [⟨32, 9, 0, .ro, .fixed⟩, ⟨0, 32, 0, .ro, .fixed⟩]⟩,
  ⟨27, 0, 0, 280, 1, [⟨63, 1, 0, .rw, .vola⟩, ⟨62, 1, 0, .rw, .vola⟩, ⟨48, 12, 0, .rw, .vola⟩, ⟨32, 16, 0, .rw, .vola⟩, ⟨0, 8, 0, .rw, .vola⟩]⟩,
  ⟨27, 0, 0, 288, 1, [⟨0, 32, 0, .rw, .vola⟩]⟩,
  ⟨27, 0, 0, 296, 1, [⟨62, 2, 0, .ro, .fixed⟩, ⟨60, 2, 0, .ro, .fixed⟩, ⟨32, 14, 0, .ro, .fixed⟩, ⟨0, 32, 0, .ro, .fixed⟩]⟩,
  ⟨27, 0, 0, 304, 1, [⟨62, 2, 0, .wo, .fixed⟩, ⟨48, 12, 0, .wo, .fixed⟩]⟩,
  ⟨27, 0, 0, 312, 1, [⟨63, 1, 0, .ro, .fixed⟩, ⟨60, 3, 0, .ro, .fixed⟩, ⟨48, 12, 0, .ro, .fixed⟩, ⟨0, 13, 0, .ro, .fixed⟩]⟩,
  ⟨27, 1, 1, 256, 1, [⟨0, 64, 0, .rc, .fixed⟩]⟩,
  ⟨27, 1, 1, 264, 1, [⟨0, 64, 0, .rc, .fixed⟩]⟩,
  ⟨27, 1, 1, 272, 1, [⟨0, 64, 0, .rc, .fixed⟩]⟩,
  ⟨27, 1, 1, 280, 1, [⟨0, 64, 0, .rc, .fixed⟩]⟩,
  ⟨27, 1, 1, 288, 1, [⟨0, 64, 0, .rc, .fixed⟩]⟩,
  ⟨27, 1, 1, 296, 1, [⟨0, 64, 0, .rc, .fixed⟩]⟩]

def regTableJnl : List RegRow := [
  ⟨21, 0, 0, 256, 1, [⟨34, 4, 0, .rw, .stat⟩]⟩,
  ⟨21, 0, 0, 264, 1, [⟨32, 16, 64, .rw, .latched⟩, ⟨8, 8, 50, .rw, .latched⟩]⟩,
  ⟨21, 0, 0, 272, 1, [⟨62, 2, 0, .ro, .fixed⟩, ⟨32, 21, 0, .ro, .fixed⟩, ⟨0, 22, 0, .ro, .fixed⟩]⟩,
  ⟨21, 0, 0, 280, 1, [⟨0, 64, 0, .ro, .fixed⟩]⟩,
  ⟨21, 0, 0, 288, 1, [⟨0, 64, 0, .ro, .fixed⟩]⟩,
  ⟨21, 0, 0, 296, 1, [⟨32, 16, 0, .ro, .fixed⟩, ⟨16, 16, 0, .ro, .fixed⟩, ⟨1, 1, 0, .ro, .fixed⟩, ⟨0, 1, 0, .ro, .fixed⟩]⟩,
  ⟨21, 0, 0, 304, 1, [⟨32, 16, 0, .ro, .fixed⟩, ⟨0, 32, 0, .ro, .fixed⟩]⟩,
  ⟨21, 0, 0, 312, 1, [⟨0, 13, 0, .ro, .fixed⟩]⟩,
  ⟨21, 0, 0, 320, 1, [⟨32, 32, 0, .ro, .fixed⟩, ⟨0, 32, 0, .ro, .fixed⟩]⟩,
  ⟨21, 1, 1, 256, 1, [⟨63, 1, 0, .rc, .fixed⟩, ⟨60, 3, 0, .rc, .fixed⟩, ⟨32, 16, 0, .rc, .fixed⟩, ⟨0, 32, 0, .rc, .fixed⟩]⟩,
  ⟨21, 1, 1, 264, 1, [⟨38, 26, 0, .ro, .fixed⟩, ⟨0, 38, 0, .ro, .fixed⟩]⟩,
  ⟨21, 1, 1, 272, 1, [⟨48, 16, 0, .rc, .fixed⟩, ⟨0, 9, 0, .ro, .fixed⟩]⟩,
  ⟨21, 1, 1, 280, 1, [⟨0, 64, 0, .rc, .fixed⟩]⟩,
  ⟨21, 1, 1, 288, 1, [⟨0, 64, 0, .rc, .fixed⟩]⟩,
  ⟨21, 1, 1, 296, 1, [⟨0, 64, 0, .rc, .fixed⟩]⟩,
  ⟨21, 1, 1, 304, 1, [⟨0, 64, 0, .rc, .fixed⟩]⟩,
  ⟨21, 1, 1, 312, 1, [⟨0, 64, 0, .rc, .fixed⟩]⟩,
  ⟨21, 1, 1, 320, 1, [⟨0, 64, 0, .rc, .fixed⟩]⟩]

def regTableWrp : List RegRow := [
  ⟨20, 0, 0, 256, 1, [⟨48, 16, 256, .rw, .latched⟩, ⟨16, 16, 65535, .rw, .latched⟩]⟩,
  ⟨20, 0, 0, 264, 1, [⟨32, 32, 0, .ro, .fixed⟩, ⟨0, 32, 0, .ro, .fixed⟩]⟩,
  ⟨20, 0, 0, 272, 1, [⟨0, 64, 0, .ro, .fixed⟩]⟩,
  ⟨20, 0, 0, 280, 1, [⟨0, 64, 0, .ro, .fixed⟩]⟩,
  ⟨20, 0, 0, 288, 1, [⟨40, 24, 0, .ro, .fixed⟩, ⟨0, 40, 0, .ro, .fixed⟩]⟩,
  ⟨20, 0, 0, 296, 1, [⟨48, 16, 0, .rc, .fixed⟩, ⟨0, 13, 0, .ro, .fixed⟩]⟩,
  ⟨20, 0, 0, 304, 1, [⟨0, 64, 0, .rc, .fixed⟩]⟩,
  ⟨20, 0, 0, 312, 1, [⟨0, 64, 0, .rc, .fixed⟩]⟩,
  ⟨20, 1, 1, 256, 1, [⟨0, 64, 0, .rc, .fixed⟩]⟩,
  ⟨20, 1, 1, 264, 1, [⟨0, 64, 0, .rc, .fixed⟩]⟩,
  ⟨20, 1, 1, 272, 1, [⟨0, 64, 0, .rc, .fixed⟩]⟩,
  ⟨20, 1, 1, 280, 1, [⟨0, 64, 0, .rc, .fixed⟩]⟩,
  ⟨20, 1, 1, 288, 1, [⟨0, 64, 0, .rc, .fixed⟩]⟩,
  ⟨20, 1, 1, 296, 1, [⟨0, 64, 0, .rc, .fixed⟩]⟩,
  ⟨20, 1, 1, 304, 1, [⟨0, 64, 0, .rc, .fixed⟩]⟩,
  ⟨20, 1, 1, 312, 1, [⟨0, 64, 0, .rc, .fixed⟩]⟩]

def regTableChk : List RegRow := [
  ⟨22, 0, 0, 256, 1, [⟨16, 3, 2, .rw, .latched⟩, ⟨8, 5, 1, .rw, .latched⟩, ⟨0, 5, 16, .rw, .latched⟩]⟩,
  ⟨22, 0, 0, 264, 1, [⟨32, 32, 16384, .rw, .latched⟩, ⟨0, 5, 8, .rw, .latched⟩]⟩,
  ⟨22, 0, 0, 272, 1, [⟨32, 16, 0, .ro, .fixed⟩, ⟨0, 15, 0, .ro, .fixed⟩]⟩,
  ⟨22, 0, 0, 280, 1, [⟨0, 32, 0, .ro, .fixed⟩]⟩,
  ⟨22, 0, 0, 288, 1, [⟨0, 64, 0, .rc, .fixed⟩]⟩,
  ⟨22, 0, 0, 296, 1, [⟨0, 64, 0, .rc, .fixed⟩]⟩,
  ⟨22, 0, 0, 304, 1, [⟨0, 64, 0, .rc, .fixed⟩]⟩,
  ⟨22, 0, 0, 312, 1, [⟨0, 64, 0, .rc, .fixed⟩]⟩]

def regTableSwx : List RegRow := [
  ⟨23, 0, 0, 256, 1, [⟨30, 8, 0, .rw, .stat⟩]⟩,
  ⟨23, 0, 0, 264, 1, [⟨0, 8, 40, .rw, .stat⟩]⟩,
  ⟨23, 0, 0, 272, 1, [⟨1, 1, 1, .rw, .latched⟩, ⟨0, 1, 1, .rw, .latched⟩]⟩,
  ⟨23, 0, 0, 280, 1, [⟨32, 32, 0, .ro, .fixed⟩, ⟨0, 32, 0, .ro, .fixed⟩]⟩,
  ⟨23, 0, 0, 288, 1, [⟨30, 8, 0, .rw, .stat⟩]⟩,
  ⟨23, 0, 0, 296, 1, [⟨0, 8, 8, .rw, .stat⟩]⟩,
  ⟨23, 0, 0, 304, 1, [⟨32, 32, 0, .ro, .fixed⟩, ⟨0, 32, 0, .ro, .fixed⟩]⟩,
  ⟨23, 1, 1, 256, 1, [⟨0, 64, 0, .rc, .fixed⟩]⟩,
  ⟨23, 1, 1, 264, 1, [⟨0, 64, 0, .rc, .fixed⟩]⟩,
  ⟨23, 1, 1, 272, 1, [⟨0, 64, 0, .rc, .fixed⟩]⟩,
  ⟨23, 1, 1, 280, 1, [⟨0, 64, 0, .rc, .fixed⟩]⟩,
  ⟨23, 1, 1, 288, 1, [⟨0, 64, 0, .rc, .fixed⟩]⟩,
  ⟨23, 1, 1, 296, 1, [⟨0, 64, 0, .rc, .fixed⟩]⟩,
  ⟨23, 1, 1, 304, 1, [⟨0, 64, 0, .rc, .fixed⟩]⟩]

def regTableVat : List RegRow := [
  ⟨39, 0, 0, 256, 1, [⟨26, 12, 0, .rw, .stat⟩]⟩,
  ⟨39, 0, 0, 264, 1, [⟨60, 4, 0, .wo, .fixed⟩, ⟨0, 16, 0, .wo, .fixed⟩]⟩,
  ⟨39, 0, 0, 272, 1, [⟨52, 12, 0, .rw, .vola⟩, ⟨44, 8, 0, .rw, .vola⟩, ⟨43, 1, 0, .rw, .vola⟩, ⟨42, 1, 0, .rw, .vola⟩, ⟨41, 1, 0, .rw, .vola⟩, ⟨39, 2, 0, .rw, .vola⟩, ⟨31, 8, 0, .rw, .vola⟩]⟩,
  ⟨39, 0, 0, 280, 1, [⟨0, 38, 0, .rw, .vola⟩]⟩,
  ⟨39, 0, 0, 288, 1, [⟨0, 48, 0, .rw, .vola⟩]⟩,
  ⟨39, 0, 0, 296, 1, [⟨63, 1, 0, .ro, .fixed⟩, ⟨60, 3, 0, .ro, .fixed⟩, ⟨32, 16, 0, .ro, .fixed⟩, ⟨0, 32, 0, .ro, .fixed⟩]⟩,
  ⟨39, 0, 0, 304, 1, [⟨32, 13, 0, .ro, .fixed⟩, ⟨0, 17, 0, .ro, .fixed⟩]⟩,
  ⟨39, 0, 0, 312, 1, [⟨40, 8, 50, .rw, .latched⟩, ⟨0, 11, 64, .rw, .latched⟩]⟩,
  ⟨39, 1, 1, 256, 1, [⟨63, 1, 0, .ro, .fixed⟩, ⟨62, 1, 0, .ro, .fixed⟩, ⟨48, 12, 0, .ro, .fixed⟩, ⟨40, 8, 0, .ro, .fixed⟩, ⟨32, 8, 0, .ro, .fixed⟩, ⟨0, 32, 0, .ro, .fixed⟩]⟩,
  ⟨39, 1, 1, 264, 1, [⟨32, 32, 0, .ro, .fixed⟩, ⟨0, 32, 0, .ro, .fixed⟩]⟩,
  ⟨39, 1, 1, 272, 1, [⟨16, 16, 0, .rw, .vola⟩, ⟨0, 12, 0, .rw, .vola⟩]⟩,
  ⟨39, 1, 1, 280, 1, [⟨62, 2, 0, .ro, .fixed⟩, ⟨61, 1, 0, .ro, .fixed⟩, ⟨60, 1, 0, .ro, .fixed⟩, ⟨59, 1, 0, .ro, .fixed⟩, ⟨57, 2, 0, .ro, .fixed⟩, ⟨56, 1, 0, .ro, .fixed⟩, ⟨48, 8, 0, .ro, .fixed⟩, ⟨40, 8, 0, .ro, .fixed⟩, ⟨0, 17, 0, .ro, .fixed⟩]⟩,
  ⟨39, 1, 1, 288, 1, [⟨62, 2, 0, .ro, .fixed⟩, ⟨50, 12, 0, .ro, .fixed⟩, ⟨42, 8, 0, .ro, .fixed⟩, ⟨0, 38, 0, .ro, .fixed⟩]⟩,
  ⟨39, 1, 1, 296, 1, [⟨0, 64, 0, .rc, .fixed⟩]⟩,
  ⟨39, 1, 1, 304, 1, [⟨0, 64, 0, .rc, .fixed⟩]⟩,
  ⟨39, 1, 1, 312, 1, [⟨0, 64, 0, .rc, .fixed⟩]⟩]

def regTableSnp : List RegRow := [
  ⟨38, 0, 0, 256, 1, [⟨60, 4, 0, .wo, .fixed⟩, ⟨48, 9, 0, .wo, .fixed⟩, ⟨32, 16, 0, .wo, .fixed⟩, ⟨0, 20, 0, .wo, .fixed⟩]⟩,
  ⟨38, 0, 0, 264, 1, [⟨3, 45, 0, .rw, .vola⟩]⟩,
  ⟨38, 0, 0, 272, 1, [⟨0, 48, 0, .rw, .vola⟩]⟩,
  ⟨38, 0, 0, 280, 1, [⟨63, 1, 0, .ro, .fixed⟩, ⟨60, 3, 0, .ro, .fixed⟩, ⟨32, 16, 0, .ro, .fixed⟩, ⟨0, 32, 0, .ro, .fixed⟩]⟩,
  ⟨38, 0, 0, 288, 1, [⟨32, 21, 0, .ro, .fixed⟩, ⟨0, 21, 0, .ro, .fixed⟩]⟩,
  ⟨38, 0, 0, 296, 1, [⟨0, 64, 0, .ro, .fixed⟩]⟩,
  ⟨38, 0, 0, 304, 1, [⟨62, 2, 0, .ro, .fixed⟩, ⟨0, 20, 0, .rw, .vola⟩]⟩,
  ⟨38, 0, 0, 312, 1, [⟨48, 16, 0, .ro, .fixed⟩, ⟨0, 48, 0, .ro, .fixed⟩]⟩,
  ⟨38, 1, 1, 256, 1, [⟨0, 64, 0, .rc, .fixed⟩]⟩,
  ⟨38, 1, 1, 264, 1, [⟨0, 64, 0, .rc, .fixed⟩]⟩,
  ⟨38, 1, 1, 272, 1, [⟨0, 64, 0, .rc, .fixed⟩]⟩,
  ⟨38, 1, 1, 280, 1, [⟨0, 64, 0, .rc, .fixed⟩]⟩,
  ⟨38, 1, 1, 288, 1, [⟨0, 64, 0, .rc, .fixed⟩]⟩,
  ⟨38, 1, 1, 296, 1, [⟨0, 64, 0, .rc, .fixed⟩]⟩]

def regTableFtl0 : List RegRow := [
  ⟨29, 0, 0, 256, 1, [⟨28, 10, 0, .rw, .stat⟩]⟩,
  ⟨29, 0, 0, 264, 1, [⟨0, 5, 8, .rw, .stat⟩]⟩,
  ⟨29, 0, 0, 272, 1, [⟨0, 5, 8, .rw, .stat⟩]⟩,
  ⟨29, 0, 0, 280, 1, [⟨40, 8, 50, .rw, .latched⟩, ⟨0, 16, 2048, .rw, .latched⟩]⟩,
  ⟨29, 0, 0, 288, 1, [⟨63, 1, 0, .ro, .fixed⟩, ⟨62, 1, 0, .ro, .fixed⟩, ⟨61, 1, 0, .ro, .fixed⟩, ⟨32, 21, 0, .ro, .fixed⟩, ⟨0, 32, 0, .ro, .fixed⟩]⟩,
  ⟨29, 0, 0, 296, 1, [⟨62, 2, 0, .wo, .fixed⟩, ⟨61, 1, 0, .wo, .fixed⟩, ⟨60, 1, 0, .wo, .fixed⟩, ⟨40, 20, 0, .wo, .fixed⟩, ⟨0, 36, 0, .wo, .fixed⟩]⟩,
  ⟨29, 0, 0, 304, 1, [⟨63, 1, 0, .ro, .fixed⟩, ⟨60, 3, 0, .ro, .fixed⟩, ⟨32, 20, 0, .ro, .fixed⟩, ⟨0, 20, 0, .ro, .fixed⟩]⟩,
  ⟨29, 0, 0, 312, 1, [⟨32, 32, 0, .ro, .fixed⟩, ⟨0, 32, 0, .ro, .fixed⟩]⟩,
  ⟨29, 1, 1, 256, 1, [⟨32, 8, 4, .rw, .stat⟩, ⟨16, 8, 25, .rw, .latched⟩, ⟨8, 8, 50, .rw, .latched⟩, ⟨0, 1, 1, .rw, .latched⟩]⟩,
  ⟨29, 1, 1, 264, 1, [⟨32, 8, 60, .rw, .latched⟩, ⟨16, 8, 2, .rw, .latched⟩, ⟨8, 8, 5, .rw, .latched⟩, ⟨0, 8, 8, .rw, .latched⟩]⟩,
  ⟨29, 1, 1, 272, 1, [⟨32, 16, 256, .rw, .latched⟩, ⟨2, 1, 1, .rw, .latched⟩, ⟨1, 1, 1, .rw, .latched⟩, ⟨0, 1, 1, .rw, .latched⟩]⟩,
  ⟨29, 1, 1, 280, 1, [⟨40, 8, 0, .ro, .fixed⟩, ⟨16, 8, 0, .ro, .fixed⟩, ⟨8, 8, 0, .ro, .fixed⟩, ⟨0, 8, 0, .ro, .fixed⟩]⟩,
  ⟨29, 1, 1, 288, 1, [⟨0, 7, 0, .rw, .vola⟩]⟩,
  ⟨29, 1, 1, 296, 1, [⟨48, 16, 0, .ro, .fixed⟩, ⟨32, 16, 0, .ro, .fixed⟩, ⟨16, 8, 0, .ro, .fixed⟩, ⟨8, 8, 0, .ro, .fixed⟩, ⟨0, 8, 0, .ro, .fixed⟩]⟩,
  ⟨29, 2, 2, 256, 1, [⟨0, 32, 0, .rw, .latched⟩]⟩,
  ⟨29, 2, 2, 264, 1, [⟨62, 2, 0, .ro, .fixed⟩, ⟨32, 24, 0, .ro, .fixed⟩, ⟨0, 32, 0, .ro, .fixed⟩]⟩,
  ⟨29, 2, 2, 272, 1, [⟨62, 2, 0, .ro, .fixed⟩, ⟨32, 24, 0, .ro, .fixed⟩, ⟨0, 32, 0, .ro, .fixed⟩]⟩,
  ⟨29, 2, 2, 280, 1, [⟨0, 32, 0, .ro, .fixed⟩]⟩,
  ⟨29, 3, 3, 256, 1, [⟨0, 64, 0, .rc, .fixed⟩]⟩,
  ⟨29, 3, 3, 264, 1, [⟨0, 64, 0, .rc, .fixed⟩]⟩,
  ⟨29, 3, 3, 272, 1, [⟨0, 64, 0, .rc, .fixed⟩]⟩,
  ⟨29, 3, 3, 280, 1, [⟨0, 64, 0, .rc, .fixed⟩]⟩,
  ⟨29, 3, 3, 288, 1, [⟨0, 64, 0, .rc, .fixed⟩]⟩,
  ⟨29, 3, 3, 296, 1, [⟨0, 64, 0, .rc, .fixed⟩]⟩,
  ⟨29, 3, 3, 304, 1, [⟨0, 64, 0, .rc, .fixed⟩]⟩,
  ⟨29, 3, 3, 312, 1, [⟨0, 64, 0, .rc, .fixed⟩]⟩,
  ⟨29, 3, 3, 320, 1, [⟨0, 64, 0, .rc, .fixed⟩]⟩,
  ⟨29, 3, 3, 328, 1, [⟨0, 64, 0, .rc, .fixed⟩]⟩,
  ⟨29, 3, 3, 336, 1, [⟨0, 64, 0, .rc, .fixed⟩]⟩,
  ⟨29, 3, 3, 344, 1, [⟨0, 64, 0, .rc, .fixed⟩]⟩]

def regTableFtl1 : List RegRow := [
  ⟨29, 3, 3, 352, 1, [⟨0, 64, 0, .rc, .fixed⟩]⟩,
  ⟨29, 3, 3, 360, 1, [⟨0, 64, 0, .rc, .fixed⟩]⟩,
  ⟨29, 3, 3, 368, 1, [⟨0, 64, 0, .rc, .fixed⟩]⟩,
  ⟨29, 3, 3, 376, 1, [⟨0, 64, 0, .rc, .fixed⟩]⟩,
  ⟨29, 3, 3, 384, 1, [⟨0, 64, 0, .rc, .fixed⟩]⟩,
  ⟨29, 3, 3, 392, 1, [⟨0, 64, 0, .rc, .fixed⟩]⟩]

def regTableBnd0 : List RegRow := [
  ⟨30, 0, 0, 256, 1, [⟨24, 6, 16, .rw, .stat⟩, ⟨16, 2, 3, .rw, .stat⟩, ⟨8, 6, 16, .rw, .stat⟩, ⟨0, 2, 3, .rw, .stat⟩]⟩,
  ⟨30, 0, 0, 264, 1, [⟨48, 16, 0, .ro, .fixed⟩, ⟨32, 16, 0, .ro, .fixed⟩, ⟨16, 16, 0, .ro, .fixed⟩, ⟨0, 16, 0, .ro, .fixed⟩]⟩,
  ⟨30, 0, 0, 272, 1, [⟨56, 8, 0, .ro, .fixed⟩, ⟨0, 56, 0, .ro, .fixed⟩]⟩,
  ⟨30, 0, 0, 280, 1, [⟨56, 8, 0, .ro, .fixed⟩, ⟨0, 56, 0, .ro, .fixed⟩]⟩,
  ⟨30, 0, 0, 288, 1, [⟨56, 8, 0, .ro, .fixed⟩, ⟨48, 8, 0, .ro, .fixed⟩, ⟨0, 48, 0, .ro, .fixed⟩]⟩,
  ⟨30, 0, 0, 296, 1, [⟨48, 16, 0, .ro, .fixed⟩, ⟨32, 16, 0, .ro, .fixed⟩, ⟨0, 32, 0, .ro, .fixed⟩]⟩,
  ⟨30, 1, 1, 256, 1, [⟨32, 5, 0, .rw, .vola⟩, ⟨0, 32, 0, .rw, .vola⟩]⟩,
  ⟨30, 1, 1, 264, 1, [⟨60, 4, 0, .ro, .fixed⟩, ⟨59, 1, 0, .ro, .fixed⟩, ⟨58, 1, 0, .ro, .fixed⟩, ⟨57, 1, 0, .ro, .fixed⟩, ⟨51, 6, 0, .ro, .fixed⟩, ⟨49, 2, 0, .ro, .fixed⟩, ⟨36, 13, 0, .ro, .fixed⟩, ⟨0, 24, 0, .ro, .fixed⟩]⟩,
  ⟨30, 1, 1, 272, 1, [⟨0, 32, 0, .ro, .fixed⟩]⟩,
  ⟨30, 1, 1, 280, 1, [⟨0, 7, 0, .rw, .vola⟩]⟩,
  ⟨30, 1, 1, 288, 1, [⟨63, 1, 0, .ro, .fixed⟩, ⟨62, 1, 0, .ro, .fixed⟩, ⟨32, 20, 0, .ro, .fixed⟩, ⟨16, 16, 0, .ro, .fixed⟩, ⟨0, 16, 0, .ro, .fixed⟩]⟩,
  ⟨30, 1, 1, 296, 1, [⟨63, 1, 0, .rc, .fixed⟩, ⟨60, 3, 0, .rc, .fixed⟩, ⟨0, 32, 0, .rc, .fixed⟩]⟩,
  ⟨30, 2, 2, 256, 1, [⟨48, 16, 0, .ro, .fixed⟩, ⟨0, 48, 0, .ro, .fixed⟩]⟩,
  ⟨30, 2, 2, 264, 1, [⟨32, 32, 0, .ro, .fixed⟩, ⟨0, 32, 0, .ro, .fixed⟩]⟩,
  ⟨30, 2, 2, 272, 1, [⟨0, 64, 0, .rc, .fixed⟩]⟩,
  ⟨30, 2, 2, 280, 1, [⟨0, 64, 0, .rc, .fixed⟩]⟩,
  ⟨30, 2, 2, 288, 1, [⟨0, 64, 0, .rc, .fixed⟩]⟩,
  ⟨30, 2, 2, 296, 1, [⟨0, 64, 0, .rc, .fixed⟩]⟩,
  ⟨30, 2, 2, 304, 1, [⟨0, 64, 0, .rc, .fixed⟩]⟩,
  ⟨30, 2, 2, 312, 1, [⟨0, 64, 0, .rc, .fixed⟩]⟩,
  ⟨30, 3, 3, 256, 1, [⟨0, 64, 0, .rc, .fixed⟩]⟩,
  ⟨30, 3, 3, 264, 1, [⟨0, 64, 0, .rc, .fixed⟩]⟩,
  ⟨30, 3, 3, 272, 1, [⟨0, 64, 0, .rc, .fixed⟩]⟩,
  ⟨30, 3, 3, 280, 1, [⟨0, 64, 0, .rc, .fixed⟩]⟩,
  ⟨30, 3, 3, 288, 1, [⟨0, 64, 0, .rc, .fixed⟩]⟩,
  ⟨30, 3, 3, 296, 1, [⟨0, 64, 0, .rc, .fixed⟩]⟩,
  ⟨30, 3, 3, 304, 1, [⟨0, 64, 0, .rc, .fixed⟩]⟩,
  ⟨30, 3, 3, 312, 1, [⟨0, 64, 0, .rc, .fixed⟩]⟩,
  ⟨30, 3, 3, 320, 1, [⟨0, 64, 0, .rc, .fixed⟩]⟩,
  ⟨30, 3, 3, 328, 1, [⟨0, 64, 0, .rc, .fixed⟩]⟩]

def regTableBnd1 : List RegRow := [
  ⟨30, 3, 3, 336, 1, [⟨0, 64, 0, .rc, .fixed⟩]⟩,
  ⟨30, 3, 3, 344, 1, [⟨0, 64, 0, .rc, .fixed⟩]⟩]

def regTableMdl : List RegRow := [
  ⟨31, 0, 15, 256, 4, [⟨8, 8, 8, .rw, .latched⟩, ⟨4, 4, 0, .rw, .stat⟩, ⟨1, 1, 1, .rw, .latched⟩]⟩,
  ⟨31, 0, 15, 288, 4, [⟨2, 1, 0, .wo, .fixed⟩, ⟨1, 1, 0, .wo, .fixed⟩, ⟨0, 1, 0, .rw, .vola⟩]⟩,
  ⟨31, 0, 15, 320, 4, [⟨61, 3, 0, .ro, .fixed⟩, ⟨60, 1, 0, .ro, .fixed⟩, ⟨59, 1, 0, .ro, .fixed⟩, ⟨32, 16, 0, .ro, .fixed⟩, ⟨0, 32, 0, .ro, .fixed⟩]⟩,
  ⟨31, 0, 15, 352, 4, [⟨32, 32, 0, .rc, .fixed⟩, ⟨0, 32, 0, .rc, .fixed⟩]⟩,
  ⟨31, 0, 15, 384, 4, [⟨32, 32, 0, .rc, .fixed⟩, ⟨16, 16, 0, .rc, .fixed⟩, ⟨0, 16, 0, .rc, .fixed⟩]⟩,
  ⟨31, 0, 15, 416, 4, [⟨48, 16, 0, .ro, .fixed⟩, ⟨32, 16, 0, .ro, .fixed⟩, ⟨16, 16, 0, .ro, .fixed⟩, ⟨0, 16, 0, .ro, .fixed⟩]⟩,
  ⟨31, 0, 15, 448, 4, [⟨48, 16, 0, .ro, .fixed⟩, ⟨32, 16, 0, .rc, .fixed⟩, ⟨0, 32, 0, .rc, .fixed⟩]⟩]

def regTableBrk : List RegRow := [
  ⟨32, 0, 7, 256, 16, [⟨60, 4, 0, .ro, .fixed⟩, ⟨59, 1, 0, .ro, .fixed⟩, ⟨58, 1, 0, .ro, .fixed⟩, ⟨57, 1, 0, .ro, .fixed⟩, ⟨48, 4, 0, .ro, .fixed⟩, ⟨40, 8, 0, .ro, .fixed⟩, ⟨0, 7, 0, .ro, .fixed⟩]⟩,
  ⟨32, 0, 7, 384, 16, [⟨48, 16, 0, .ro, .fixed⟩, ⟨0, 48, 0, .ro, .fixed⟩]⟩,
  ⟨32, 0, 7, 512, 16, [⟨0, 64, 0, .ro, .fixed⟩]⟩,
  ⟨32, 0, 7, 640, 16, [⟨32, 32, 0, .ro, .fixed⟩, ⟨0, 32, 0, .ro, .fixed⟩]⟩,
  ⟨32, 0, 7, 768, 16, [⟨60, 4, 0, .wo, .fixed⟩]⟩,
  ⟨32, 0, 7, 896, 16, [⟨63, 1, 0, .ro, .fixed⟩, ⟨60, 3, 0, .ro, .fixed⟩, ⟨32, 16, 0, .ro, .fixed⟩, ⟨0, 32, 0, .ro, .fixed⟩]⟩,
  ⟨32, 0, 7, 1024, 16, [⟨56, 8, 0, .ro, .fixed⟩, ⟨48, 8, 0, .ro, .fixed⟩, ⟨0, 16, 0, .rc, .fixed⟩]⟩,
  ⟨32, 0, 7, 1152, 16, [⟨32, 32, 0, .rc, .fixed⟩, ⟨0, 32, 0, .rc, .fixed⟩]⟩]

def regTableDsl : List RegRow := [
  ⟨28, 0, 0, 256, 1, [⟨1, 3, 4, .ro, .fixed⟩, ⟨0, 1, 1, .ro, .fixed⟩]⟩,
  ⟨28, 0, 0, 264, 1, [⟨32, 9, 0, .ro, .fixed⟩, ⟨0, 8, 0, .ro, .fixed⟩]⟩,
  ⟨28, 0, 0, 272, 1, [⟨32, 10, 0, .ro, .fixed⟩, ⟨16, 9, 0, .ro, .fixed⟩, ⟨0, 5, 0, .ro, .fixed⟩]⟩,
  ⟨28, 0, 0, 280, 1, [⟨0, 64, 0, .rc, .fixed⟩]⟩,
  ⟨28, 0, 0, 288, 1, [⟨0, 64, 0, .rc, .fixed⟩]⟩,
  ⟨28, 0, 0, 296, 1, [⟨0, 64, 0, .rc, .fixed⟩]⟩,
  ⟨28, 0, 0, 304, 1, [⟨0, 64, 0, .rc, .fixed⟩]⟩,
  ⟨28, 1, 1, 256, 1, [⟨16, 5, 4, .rw, .latched⟩, ⟨0, 6, 8, .rw, .latched⟩]⟩,
  ⟨28, 1, 1, 264, 1, [⟨6, 42, 0, .wo, .fixed⟩]⟩,
  ⟨28, 1, 1, 272, 1, [⟨32, 7, 0, .ro, .fixed⟩, ⟨16, 6, 0, .ro, .fixed⟩, ⟨0, 6, 0, .ro, .fixed⟩]⟩,
  ⟨28, 1, 1, 280, 1, [⟨63, 1, 0, .rc, .fixed⟩, ⟨32, 16, 0, .rc, .fixed⟩, ⟨0, 32, 0, .rc, .fixed⟩]⟩,
  ⟨28, 1, 1, 288, 1, [⟨0, 40, 0, .ro, .fixed⟩]⟩,
  ⟨28, 1, 1, 296, 1, [⟨0, 64, 0, .rc, .fixed⟩]⟩,
  ⟨28, 1, 1, 304, 1, [⟨0, 64, 0, .rc, .fixed⟩]⟩,
  ⟨28, 1, 1, 312, 1, [⟨0, 64, 0, .rc, .fixed⟩]⟩,
  ⟨28, 2, 2, 256, 1, [⟨32, 24, 16777215, .rw, .latched⟩, ⟨24, 8, 255, .rw, .latched⟩, ⟨0, 2, 2, .rw, .latched⟩]⟩,
  ⟨28, 2, 2, 264, 1, [⟨32, 24, 0, .ro, .fixed⟩, ⟨24, 8, 0, .ro, .fixed⟩, ⟨16, 6, 0, .ro, .fixed⟩, ⟨8, 8, 0, .ro, .fixed⟩]⟩,
  ⟨28, 2, 2, 272, 1, [⟨48, 16, 0, .ro, .fixed⟩, ⟨31, 17, 0, .ro, .fixed⟩, ⟨0, 20, 0, .ro, .fixed⟩]⟩,
  ⟨28, 2, 2, 280, 1, [⟨0, 64, 0, .rc, .fixed⟩]⟩,
  ⟨28, 2, 2, 288, 1, [⟨0, 64, 0, .rc, .fixed⟩]⟩,
  ⟨28, 2, 2, 296, 1, [⟨32, 32, 0, .rc, .fixed⟩, ⟨0, 32, 0, .rc, .fixed⟩]⟩,
  ⟨28, 3, 3, 256, 1, [⟨0, 6, 0, .ro, .fixed⟩]⟩,
  ⟨28, 3, 3, 264, 1, [⟨0, 64, 0, .rc, .fixed⟩]⟩,
  ⟨28, 3, 3, 272, 1, [⟨0, 64, 0, .rc, .fixed⟩]⟩,
  ⟨28, 3, 3, 280, 1, [⟨0, 64, 0, .rc, .fixed⟩]⟩,
  ⟨28, 3, 3, 288, 1, [⟨0, 64, 0, .rc, .fixed⟩]⟩,
  ⟨28, 4, 4, 256, 1, [⟨32, 11, 0, .rc, .fixed⟩, ⟨0, 11, 0, .ro, .fixed⟩]⟩,
  ⟨28, 4, 4, 264, 1, [⟨47, 9, 0, .ro, .fixed⟩, ⟨41, 6, 0, .ro, .fixed⟩, ⟨35, 6, 0, .ro, .fixed⟩, ⟨30, 5, 0, .ro, .fixed⟩, ⟨25, 5, 0, .ro, .fixed⟩, ⟨0, 8, 0, .ro, .fixed⟩]⟩,
  ⟨28, 4, 4, 272, 1, [⟨8, 1, 0, .rw, .vola⟩, ⟨0, 8, 0, .rw, .vola⟩]⟩,
  ⟨28, 4, 4, 280, 1, [⟨62, 2, 0, .ro, .fixed⟩, ⟨58, 4, 0, .ro, .fixed⟩, ⟨32, 16, 0, .ro, .fixed⟩, ⟨0, 32, 0, .ro, .fixed⟩]⟩]

def regTableHfi : List RegRow := [
  ⟨14, 0, 0, 256, 1, [⟨13, 35, 0, .rw, .latched⟩]⟩,
  ⟨14, 0, 0, 264, 1, [⟨56, 8, 24, .rw, .latched⟩, ⟨40, 8, 0, .rw, .latched⟩]⟩,
  ⟨14, 0, 0, 272, 1, [⟨12, 3, 6, .rw, .latched⟩, ⟨9, 3, 7, .rw, .latched⟩, ⟨6, 3, 6, .rw, .latched⟩, ⟨3, 3, 4, .rw, .latched⟩, ⟨0, 3, 3, .rw, .latched⟩]⟩,
  ⟨14, 0, 0, 280, 1, [⟨40, 8, 0, .ro, .fixed⟩, ⟨32, 8, 0, .ro, .fixed⟩, ⟨16, 6, 0, .ro, .fixed⟩, ⟨0, 6, 0, .ro, .fixed⟩]⟩,
  ⟨14, 0, 0, 288, 1, [⟨0, 64, 0, .rc, .fixed⟩]⟩,
  ⟨14, 0, 0, 296, 1, [⟨0, 64, 0, .rc, .fixed⟩]⟩,
  ⟨14, 0, 0, 304, 1, [⟨0, 64, 0, .rc, .fixed⟩]⟩,
  ⟨14, 0, 0, 312, 1, [⟨0, 64, 0, .rc, .fixed⟩]⟩,
  ⟨14, 0, 0, 320, 1, [⟨0, 64, 0, .rc, .fixed⟩]⟩,
  ⟨14, 0, 0, 328, 1, [⟨0, 64, 0, .rc, .fixed⟩]⟩,
  ⟨14, 0, 0, 336, 1, [⟨0, 64, 0, .rc, .fixed⟩]⟩,
  ⟨14, 0, 0, 344, 1, [⟨0, 64, 0, .rc, .fixed⟩]⟩,
  ⟨14, 1, 12, 256, 1, [⟨8, 1, 0, .rw, .latched⟩, ⟨4, 4, 15, .rw, .latched⟩, ⟨3, 1, 0, .rw, .latched⟩, ⟨0, 3, 0, .rw, .latched⟩]⟩,
  ⟨14, 1, 12, 264, 1, [⟨8, 8, 75, .rw, .latched⟩, ⟨0, 8, 50, .rw, .latched⟩]⟩,
  ⟨14, 1, 12, 272, 1, [⟨8, 4, 0, .ro, .fixed⟩, ⟨3, 1, 0, .ro, .fixed⟩, ⟨0, 3, 0, .ro, .fixed⟩]⟩,
  ⟨14, 1, 12, 280, 4, [⟨60, 4, 0, .ro, .fixed⟩, ⟨56, 4, 0, .ro, .fixed⟩, ⟨32, 16, 0, .rc, .fixed⟩, ⟨0, 32, 0, .ro, .fixed⟩]⟩,
  ⟨14, 1, 12, 312, 4, [⟨32, 32, 0, .rc, .fixed⟩, ⟨0, 32, 0, .rc, .fixed⟩]⟩,
  ⟨14, 1, 12, 344, 4, [⟨0, 64, 0, .rc, .fixed⟩]⟩,
  ⟨14, 1, 12, 376, 4, [⟨0, 64, 0, .rc, .fixed⟩]⟩,
  ⟨14, 1, 12, 408, 4, [⟨0, 64, 0, .rc, .fixed⟩]⟩,
  ⟨14, 1, 12, 440, 4, [⟨0, 64, 0, .rc, .fixed⟩]⟩,
  ⟨14, 1, 12, 472, 4, [⟨0, 64, 0, .rc, .fixed⟩]⟩,
  ⟨14, 1, 12, 504, 4, [⟨0, 64, 0, .rc, .fixed⟩]⟩,
  ⟨14, 1, 12, 536, 4, [⟨0, 64, 0, .rc, .fixed⟩]⟩]

def regTableNvt0 : List RegRow := [
  ⟨15, 0, 0, 256, 1, [⟨56, 8, 128, .rw, .latched⟩, ⟨32, 16, 128, .rw, .latched⟩, ⟨16, 16, 128, .rw, .latched⟩, ⟨0, 1, 1, .rw, .latched⟩]⟩,
  ⟨15, 0, 0, 264, 1, [⟨48, 16, 128, .rw, .latched⟩, ⟨32, 16, 25, .rw, .latched⟩, ⟨24, 8, 15, .rw, .latched⟩, ⟨0, 16, 8, .rw, .latched⟩]⟩,
  ⟨15, 0, 0, 272, 1, [⟨24, 24, 0, .rw, .stat⟩]⟩,
  ⟨15, 0, 0, 280, 1, [⟨48, 11, 0, .ro, .fixed⟩, ⟨32, 12, 0, .ro, .fixed⟩, ⟨0, 16, 0, .ro, .fixed⟩]⟩,
  ⟨15, 0, 0, 288, 1, [⟨60, 4, 0, .ro, .fixed⟩, ⟨0, 32, 0, .ro, .fixed⟩]⟩,
  ⟨15, 0, 0, 296, 1, [⟨63, 1, 0, .ro, .fixed⟩, ⟨62, 1, 0, .ro, .fixed⟩, ⟨56, 4, 0, .ro, .fixed⟩, ⟨48, 8, 0, .ro, .fixed⟩, ⟨40, 8, 0, .ro, .fixed⟩, ⟨0, 16, 0, .ro, .fixed⟩]⟩,
  ⟨15, 0, 0, 304, 1, [⟨0, 64, 0, .rc, .fixed⟩]⟩,
  ⟨15, 0, 0, 312, 1, [⟨0, 64, 0, .rc, .fixed⟩]⟩,
  ⟨15, 0, 0, 320, 1, [⟨0, 64, 0, .rc, .fixed⟩]⟩,
  ⟨15, 0, 0, 328, 1, [⟨0, 64, 0, .rc, .fixed⟩]⟩,
  ⟨15, 0, 0, 336, 1, [⟨0, 64, 0, .rc, .fixed⟩]⟩,
  ⟨15, 0, 0, 384, 8, [⟨63, 1, 0, .rw, .latched⟩, ⟨56, 7, 0, .rw, .latched⟩, ⟨55, 1, 0, .rw, .latched⟩, ⟨0, 16, 4420, .rw, .latched⟩]⟩,
  ⟨15, 1, 1, 256, 1, [⟨63, 1, 0, .rc, .fixed⟩, ⟨48, 10, 0, .rc, .fixed⟩, ⟨42, 6, 0, .rc, .fixed⟩, ⟨0, 16, 0, .rc, .fixed⟩]⟩,
  ⟨15, 1, 1, 264, 1, [⟨57, 7, 0, .ro, .fixed⟩, ⟨56, 1, 0, .ro, .fixed⟩, ⟨0, 32, 0, .ro, .fixed⟩]⟩,
  ⟨15, 1, 1, 272, 1, [⟨62, 2, 0, .wo, .fixed⟩, ⟨42, 6, 0, .wo, .fixed⟩]⟩,
  ⟨15, 1, 1, 280, 1, [⟨0, 10, 0, .rw, .vola⟩]⟩,
  ⟨15, 1, 1, 288, 1, [⟨62, 2, 0, .ro, .fixed⟩, ⟨54, 8, 0, .ro, .fixed⟩, ⟨46, 8, 0, .ro, .fixed⟩, ⟨40, 4, 0, .ro, .fixed⟩, ⟨0, 16, 0, .ro, .fixed⟩]⟩,
  ⟨15, 1, 1, 296, 1, [⟨60, 4, 0, .wo, .fixed⟩, ⟨0, 10, 0, .wo, .fixed⟩]⟩,
  ⟨15, 1, 1, 304, 1, [⟨63, 1, 0, .ro, .fixed⟩, ⟨60, 3, 0, .ro, .fixed⟩, ⟨32, 16, 0, .ro, .fixed⟩]⟩,
  ⟨15, 1, 1, 312, 1, [⟨0, 64, 0, .rc, .fixed⟩]⟩,
  ⟨15, 1, 1, 320, 1, [⟨0, 64, 0, .rc, .fixed⟩]⟩,
  ⟨15, 1, 1, 328, 1, [⟨0, 64, 0, .rc, .fixed⟩]⟩,
  ⟨15, 1, 1, 336, 1, [⟨0, 64, 0, .rc, .fixed⟩]⟩,
  ⟨15, 1, 1, 344, 1, [⟨0, 64, 0, .rc, .fixed⟩]⟩,
  ⟨15, 2, 2, 256, 1, [⟨0, 15, 0, .rw, .vola⟩]⟩,
  ⟨15, 2, 2, 264, 1, [⟨60, 4, 0, .ro, .fixed⟩, ⟨56, 4, 0, .ro, .fixed⟩, ⟨55, 1, 0, .ro, .fixed⟩, ⟨54, 1, 0, .ro, .fixed⟩, ⟨53, 1, 0, .ro, .fixed⟩, ⟨32, 16, 0, .ro, .fixed⟩, ⟨16, 16, 0, .ro, .fixed⟩, ⟨0, 10, 0, .ro, .fixed⟩]⟩,
  ⟨15, 2, 2, 272, 1, [⟨48, 16, 0, .ro, .fixed⟩, ⟨32, 16, 0, .ro, .fixed⟩, ⟨0, 32, 0, .ro, .fixed⟩]⟩,
  ⟨15, 2, 2, 280, 1, [⟨0, 64, 0, .rc, .fixed⟩]⟩,
  ⟨15, 2, 2, 288, 1, [⟨0, 64, 0, .rc, .fixed⟩]⟩,
  ⟨15, 2, 2, 296, 1, [⟨0, 64, 0, .rc, .fixed⟩]⟩]

def regTableNvt1 : List RegRow := [
  ⟨15, 2, 2, 304, 1, [⟨0, 64, 0, .rc, .fixed⟩]⟩,
  ⟨15, 2, 2, 312, 1, [⟨0, 64, 0, .rc, .fixed⟩]⟩,
  ⟨15, 2, 2, 320, 1, [⟨0, 64, 0, .rc, .fixed⟩]⟩,
  ⟨15, 2, 2, 328, 1, [⟨0, 64, 0, .rc, .fixed⟩]⟩,
  ⟨15, 2, 2, 336, 1, [⟨0, 64, 0, .rc, .fixed⟩]⟩,
  ⟨15, 2, 2, 344, 1, [⟨0, 64, 0, .rc, .fixed⟩]⟩,
  ⟨15, 3, 7, 256, 1, [⟨60, 4, 0, .rw, .vola⟩, ⟨0, 20, 0, .rw, .vola⟩]⟩,
  ⟨15, 3, 7, 264, 1, [⟨0, 64, 0, .rc, .fixed⟩]⟩,
  ⟨15, 3, 7, 272, 1, [⟨0, 64, 0, .rc, .fixed⟩]⟩,
  ⟨15, 3, 7, 280, 1, [⟨0, 64, 0, .rc, .fixed⟩]⟩,
  ⟨15, 3, 7, 288, 1, [⟨0, 64, 0, .rc, .fixed⟩]⟩,
  ⟨15, 3, 7, 296, 1, [⟨0, 64, 0, .rc, .fixed⟩]⟩,
  ⟨15, 3, 7, 304, 1, [⟨0, 64, 0, .rc, .fixed⟩]⟩,
  ⟨15, 3, 7, 312, 1, [⟨0, 64, 0, .rc, .fixed⟩]⟩,
  ⟨15, 3, 7, 320, 1, [⟨0, 64, 0, .rc, .fixed⟩]⟩,
  ⟨15, 3, 7, 328, 1, [⟨0, 64, 0, .rc, .fixed⟩]⟩,
  ⟨15, 3, 7, 336, 1, [⟨0, 64, 0, .rc, .fixed⟩]⟩,
  ⟨15, 3, 7, 344, 1, [⟨0, 64, 0, .rc, .fixed⟩]⟩]

def regTableLdt0 : List RegRow := [
  ⟨16, 0, 0, 256, 1, [⟨48, 16, 7744, .rw, .stat⟩, ⟨44, 4, 8, .rw, .latched⟩, ⟨42, 2, 2, .rw, .latched⟩, ⟨32, 1, 1, .rw, .latched⟩, ⟨16, 16, 1024, .rw, .latched⟩, ⟨0, 11, 1024, .rw, .latched⟩]⟩,
  ⟨16, 0, 0, 264, 1, [⟨48, 16, 64, .rw, .latched⟩, ⟨32, 16, 8192, .rw, .latched⟩, ⟨16, 16, 2048, .rw, .latched⟩, ⟨8, 8, 4, .rw, .latched⟩, ⟨0, 8, 128, .rw, .latched⟩]⟩,
  ⟨16, 0, 0, 272, 1, [⟨56, 8, 8, .rw, .latched⟩, ⟨40, 16, 256, .rw, .latched⟩, ⟨32, 8, 3, .rw, .latched⟩, ⟨24, 8, 8, .rw, .latched⟩, ⟨16, 8, 1, .rw, .latched⟩, ⟨0, 13, 4096, .rw, .latched⟩]⟩,
  ⟨16, 0, 0, 280, 1, [⟨30, 18, 0, .rw, .stat⟩]⟩,
  ⟨16, 0, 0, 288, 1, [⟨21, 27, 0, .rw, .stat⟩]⟩,
  ⟨16, 0, 0, 296, 1, [⟨63, 1, 0, .ro, .fixed⟩, ⟨32, 20, 0, .ro, .fixed⟩, ⟨0, 7, 0, .ro, .fixed⟩]⟩,
  ⟨16, 0, 0, 304, 1, [⟨32, 15, 0, .ro, .fixed⟩, ⟨16, 13, 0, .ro, .fixed⟩, ⟨0, 16, 0, .rc, .fixed⟩]⟩,
  ⟨16, 0, 0, 320, 8, [⟨63, 1, 0, .rw, .latched⟩, ⟨56, 7, 0, .rw, .latched⟩]⟩,
  ⟨16, 0, 0, 384, 1, [⟨0, 64, 0, .rc, .fixed⟩]⟩,
  ⟨16, 0, 0, 392, 1, [⟨0, 64, 0, .rc, .fixed⟩]⟩,
  ⟨16, 0, 0, 400, 1, [⟨0, 64, 0, .rc, .fixed⟩]⟩,
  ⟨16, 1, 1, 256, 1, [⟨63, 1, 0, .rc, .fixed⟩, ⟨32, 6, 0, .rc, .fixed⟩, ⟨0, 20, 0, .rc, .fixed⟩]⟩,
  ⟨16, 1, 1, 264, 1, [⟨57, 7, 0, .ro, .fixed⟩, ⟨56, 1, 0, .ro, .fixed⟩, ⟨32, 16, 0, .ro, .fixed⟩, ⟨0, 32, 0, .ro, .fixed⟩]⟩,
  ⟨16, 1, 1, 272, 1, [⟨62, 2, 0, .wo, .fixed⟩, ⟨42, 6, 0, .wo, .fixed⟩]⟩,
  ⟨16, 1, 1, 280, 1, [⟨0, 19, 0, .rw, .vola⟩]⟩,
  ⟨16, 1, 1, 288, 1, [⟨60, 4, 0, .ro, .fixed⟩, ⟨52, 8, 0, .ro, .fixed⟩, ⟨48, 4, 0, .ro, .fixed⟩, ⟨47, 1, 0, .ro, .fixed⟩, ⟨46, 1, 0, .ro, .fixed⟩, ⟨32, 11, 0, .ro, .fixed⟩, ⟨16, 16, 0, .ro, .fixed⟩, ⟨0, 11, 0, .ro, .fixed⟩]⟩,
  ⟨16, 1, 1, 296, 1, [⟨40, 8, 0, .ro, .fixed⟩, ⟨0, 40, 0, .ro, .fixed⟩]⟩,
  ⟨16, 1, 1, 304, 1, [⟨60, 4, 0, .wo, .fixed⟩, ⟨0, 19, 0, .wo, .fixed⟩]⟩,
  ⟨16, 1, 1, 312, 1, [⟨63, 1, 0, .ro, .fixed⟩, ⟨60, 3, 0, .ro, .fixed⟩, ⟨32, 16, 0, .ro, .fixed⟩]⟩,
  ⟨16, 1, 1, 320, 1, [⟨0, 64, 0, .rc, .fixed⟩]⟩,
  ⟨16, 1, 1, 328, 1, [⟨0, 64, 0, .rc, .fixed⟩]⟩,
  ⟨16, 1, 1, 336, 1, [⟨0, 64, 0, .rc, .fixed⟩]⟩,
  ⟨16, 2, 2, 256, 1, [⟨56, 8, 4, .rw, .latched⟩, ⟨48, 8, 4, .rw, .latched⟩, ⟨40, 8, 16, .rw, .latched⟩, ⟨32, 8, 8, .rw, .latched⟩, ⟨24, 8, 16, .rw, .latched⟩, ⟨16, 8, 3, .rw, .latched⟩, ⟨0, 16, 16384, .rw, .latched⟩]⟩,
  ⟨16, 2, 2, 264, 1, [⟨0, 64, 0, .rc, .fixed⟩]⟩,
  ⟨16, 2, 2, 272, 1, [⟨0, 64, 0, .rc, .fixed⟩]⟩,
  ⟨16, 2, 2, 280, 1, [⟨0, 64, 0, .rc, .fixed⟩]⟩,
  ⟨16, 2, 2, 288, 1, [⟨0, 64, 0, .rc, .fixed⟩]⟩,
  ⟨16, 2, 2, 296, 1, [⟨0, 64, 0, .rc, .fixed⟩]⟩,
  ⟨16, 2, 2, 304, 1, [⟨0, 64, 0, .rc, .fixed⟩]⟩,
  ⟨16, 2, 2, 312, 1, [⟨0, 64, 0, .rc, .fixed⟩]⟩]

def regTableLdt1 : List RegRow := [
  ⟨16, 2, 2, 320, 1, [⟨0, 64, 0, .rc, .fixed⟩]⟩,
  ⟨16, 2, 2, 328, 1, [⟨0, 64, 0, .rc, .fixed⟩]⟩,
  ⟨16, 2, 2, 384, 1, [⟨0, 16, 8, .rw, .latched⟩]⟩,
  ⟨16, 2, 2, 392, 1, [⟨0, 16, 32, .rw, .latched⟩]⟩,
  ⟨16, 2, 2, 400, 1, [⟨0, 16, 72, .rw, .latched⟩]⟩,
  ⟨16, 2, 2, 408, 1, [⟨0, 16, 128, .rw, .latched⟩]⟩,
  ⟨16, 2, 2, 416, 1, [⟨0, 16, 200, .rw, .latched⟩]⟩,
  ⟨16, 2, 2, 424, 1, [⟨0, 16, 288, .rw, .latched⟩]⟩,
  ⟨16, 2, 2, 432, 1, [⟨0, 16, 392, .rw, .latched⟩]⟩,
  ⟨16, 2, 2, 440, 1, [⟨0, 16, 512, .rw, .latched⟩]⟩,
  ⟨16, 2, 2, 448, 1, [⟨0, 16, 648, .rw, .latched⟩]⟩,
  ⟨16, 2, 2, 456, 1, [⟨0, 16, 800, .rw, .latched⟩]⟩,
  ⟨16, 2, 2, 464, 1, [⟨0, 16, 968, .rw, .latched⟩]⟩,
  ⟨16, 2, 2, 472, 1, [⟨0, 16, 1152, .rw, .latched⟩]⟩,
  ⟨16, 2, 2, 480, 1, [⟨0, 16, 1352, .rw, .latched⟩]⟩,
  ⟨16, 2, 2, 488, 1, [⟨0, 16, 1568, .rw, .latched⟩]⟩,
  ⟨16, 2, 2, 496, 1, [⟨0, 16, 1800, .rw, .latched⟩]⟩,
  ⟨16, 2, 2, 504, 1, [⟨0, 16, 2048, .rw, .latched⟩]⟩,
  ⟨16, 2, 2, 512, 1, [⟨0, 16, 2312, .rw, .latched⟩]⟩,
  ⟨16, 2, 2, 520, 1, [⟨0, 16, 2592, .rw, .latched⟩]⟩,
  ⟨16, 2, 2, 528, 1, [⟨0, 16, 2888, .rw, .latched⟩]⟩,
  ⟨16, 2, 2, 536, 1, [⟨0, 16, 3200, .rw, .latched⟩]⟩,
  ⟨16, 2, 2, 544, 1, [⟨0, 16, 3528, .rw, .latched⟩]⟩,
  ⟨16, 2, 2, 552, 1, [⟨0, 16, 3872, .rw, .latched⟩]⟩,
  ⟨16, 2, 2, 560, 1, [⟨0, 16, 4232, .rw, .latched⟩]⟩,
  ⟨16, 2, 2, 568, 1, [⟨0, 16, 4608, .rw, .latched⟩]⟩,
  ⟨16, 2, 2, 576, 1, [⟨0, 16, 5000, .rw, .latched⟩]⟩,
  ⟨16, 2, 2, 584, 1, [⟨0, 16, 5408, .rw, .latched⟩]⟩,
  ⟨16, 2, 2, 592, 1, [⟨0, 16, 5832, .rw, .latched⟩]⟩,
  ⟨16, 2, 2, 600, 1, [⟨0, 16, 6272, .rw, .latched⟩]⟩]

def regTableLdt2 : List RegRow := [
  ⟨16, 2, 2, 608, 1, [⟨0, 16, 6728, .rw, .latched⟩]⟩,
  ⟨16, 2, 2, 616, 1, [⟨0, 16, 7200, .rw, .latched⟩]⟩,
  ⟨16, 2, 2, 624, 1, [⟨0, 16, 7688, .rw, .latched⟩]⟩,
  ⟨16, 2, 2, 632, 1, [⟨0, 16, 8192, .rw, .latched⟩]⟩,
  ⟨16, 3, 7, 256, 1, [⟨60, 4, 0, .rw, .vola⟩, ⟨0, 19, 0, .rw, .vola⟩]⟩,
  ⟨16, 3, 7, 264, 1, [⟨0, 64, 0, .rc, .fixed⟩]⟩,
  ⟨16, 3, 7, 272, 1, [⟨0, 64, 0, .rc, .fixed⟩]⟩,
  ⟨16, 3, 7, 280, 1, [⟨0, 64, 0, .rc, .fixed⟩]⟩,
  ⟨16, 3, 7, 288, 1, [⟨0, 64, 0, .rc, .fixed⟩]⟩,
  ⟨16, 3, 7, 296, 1, [⟨0, 64, 0, .rc, .fixed⟩]⟩,
  ⟨16, 3, 7, 304, 1, [⟨0, 64, 0, .rc, .fixed⟩]⟩,
  ⟨16, 3, 7, 312, 1, [⟨0, 64, 0, .rc, .fixed⟩]⟩,
  ⟨16, 3, 7, 320, 1, [⟨0, 64, 0, .rc, .fixed⟩]⟩,
  ⟨16, 3, 7, 328, 1, [⟨0, 64, 0, .rc, .fixed⟩]⟩,
  ⟨16, 3, 7, 336, 1, [⟨0, 64, 0, .rc, .fixed⟩]⟩]

def regTableLbc : List RegRow := [
  ⟨17, 0, 0, 256, 1, [⟨1, 1, 1, .rw, .latched⟩, ⟨0, 1, 1, .rw, .latched⟩]⟩,
  ⟨17, 0, 0, 264, 1, [⟨32, 16, 0, .ro, .fixed⟩, ⟨0, 32, 0, .ro, .fixed⟩]⟩,
  ⟨17, 0, 0, 272, 1, [⟨0, 64, 0, .rc, .fixed⟩]⟩,
  ⟨17, 0, 0, 280, 1, [⟨0, 64, 0, .rc, .fixed⟩]⟩,
  ⟨17, 0, 0, 288, 1, [⟨0, 64, 0, .rc, .fixed⟩]⟩,
  ⟨17, 0, 0, 296, 1, [⟨0, 64, 0, .rc, .fixed⟩]⟩,
  ⟨17, 0, 0, 304, 1, [⟨0, 64, 0, .rc, .fixed⟩]⟩,
  ⟨17, 0, 0, 312, 1, [⟨0, 64, 0, .rc, .fixed⟩]⟩,
  ⟨17, 1, 1, 256, 1, [⟨0, 64, 0, .rc, .fixed⟩]⟩,
  ⟨17, 1, 1, 264, 1, [⟨0, 64, 0, .rc, .fixed⟩]⟩,
  ⟨17, 1, 1, 272, 1, [⟨0, 64, 0, .rc, .fixed⟩]⟩,
  ⟨17, 1, 1, 280, 1, [⟨0, 64, 0, .rc, .fixed⟩]⟩,
  ⟨17, 1, 1, 288, 1, [⟨0, 64, 0, .rc, .fixed⟩]⟩,
  ⟨17, 1, 1, 296, 1, [⟨0, 64, 0, .rc, .fixed⟩]⟩,
  ⟨17, 1, 1, 304, 1, [⟨0, 64, 0, .rc, .fixed⟩]⟩,
  ⟨17, 1, 1, 312, 1, [⟨0, 64, 0, .rc, .fixed⟩]⟩]

def regTablePrl0 : List RegRow := [
  ⟨34, 0, 0, 256, 1, [⟨32, 2, 3, .rw, .latched⟩, ⟨24, 4, 0, .rw, .stat⟩, ⟨16, 8, 8, .rw, .latched⟩, ⟨0, 16, 256, .rw, .latched⟩]⟩,
  ⟨34, 0, 0, 264, 1, [⟨1, 2, 0, .wo, .fixed⟩, ⟨0, 1, 0, .rw, .vola⟩]⟩,
  ⟨34, 0, 0, 272, 1, [⟨63, 1, 0, .ro, .fixed⟩, ⟨62, 1, 0, .ro, .fixed⟩, ⟨32, 16, 0, .ro, .fixed⟩, ⟨0, 32, 0, .ro, .fixed⟩]⟩,
  ⟨34, 0, 0, 280, 2, [⟨61, 3, 0, .ro, .fixed⟩, ⟨32, 16, 0, .ro, .fixed⟩, ⟨0, 32, 0, .ro, .fixed⟩]⟩,
  ⟨34, 0, 0, 296, 1, [⟨0, 5, 0, .rw, .vola⟩]⟩,
  ⟨34, 0, 0, 304, 1, [⟨61, 3, 0, .ro, .fixed⟩, ⟨32, 16, 0, .ro, .fixed⟩, ⟨8, 8, 0, .ro, .fixed⟩, ⟨0, 4, 0, .ro, .fixed⟩]⟩,
  ⟨34, 0, 0, 312, 2, [⟨32, 32, 0, .rc, .fixed⟩, ⟨0, 32, 0, .rc, .fixed⟩]⟩,
  ⟨34, 0, 0, 328, 2, [⟨32, 32, 0, .rc, .fixed⟩, ⟨16, 16, 0, .rc, .fixed⟩, ⟨0, 16, 0, .rc, .fixed⟩]⟩,
  ⟨34, 0, 0, 344, 1, [⟨0, 64, 0, .rc, .fixed⟩]⟩,
  ⟨34, 1, 1, 256, 1, [⟨0, 32, 16384, .rw, .latched⟩]⟩,
  ⟨34, 1, 1, 264, 1, [⟨0, 32, 524288, .rw, .latched⟩]⟩,
  ⟨34, 1, 1, 272, 1, [⟨0, 32, 16384, .rw, .latched⟩]⟩,
  ⟨34, 1, 1, 280, 1, [⟨0, 32, 131072, .rw, .latched⟩]⟩,
  ⟨34, 1, 1, 288, 1, [⟨0, 32, 1024, .rw, .latched⟩]⟩,
  ⟨34, 1, 1, 296, 5, [⟨32, 32, 0, .ro, .fixed⟩, ⟨0, 32, 0, .ro, .fixed⟩]⟩,
  ⟨34, 1, 1, 336, 5, [⟨0, 64, 0, .rc, .fixed⟩]⟩,
  ⟨34, 1, 1, 376, 5, [⟨0, 64, 0, .rc, .fixed⟩]⟩,
  ⟨34, 1, 1, 416, 1, [⟨0, 64, 0, .rc, .fixed⟩]⟩,
  ⟨34, 1, 1, 424, 1, [⟨0, 64, 0, .rc, .fixed⟩]⟩,
  ⟨34, 1, 1, 432, 1, [⟨0, 64, 0, .rc, .fixed⟩]⟩,
  ⟨34, 1, 1, 440, 1, [⟨0, 32, 0, .ro, .fixed⟩]⟩,
  ⟨34, 1, 1, 448, 1, [⟨60, 4, 0, .ro, .fixed⟩, ⟨59, 1, 0, .ro, .fixed⟩, ⟨58, 1, 0, .ro, .fixed⟩, ⟨32, 16, 0, .ro, .fixed⟩, ⟨0, 16, 0, .ro, .fixed⟩]⟩,
  ⟨34, 2, 2, 256, 1, [⟨61, 3, 0, .ro, .fixed⟩, ⟨60, 1, 0, .ro, .fixed⟩, ⟨59, 1, 0, .ro, .fixed⟩, ⟨58, 1, 0, .ro, .fixed⟩]⟩,
  ⟨34, 2, 2, 264, 1, [⟨0, 32, 131072, .rw, .latched⟩]⟩,
  ⟨34, 2, 2, 272, 1, [⟨0, 32, 0, .ro, .fixed⟩]⟩,
  ⟨34, 2, 2, 280, 1, [⟨0, 48, 0, .ro, .fixed⟩]⟩,
  ⟨34, 2, 2, 288, 1, [⟨0, 48, 0, .ro, .fixed⟩]⟩,
  ⟨34, 2, 2, 296, 1, [⟨32, 32, 0, .ro, .fixed⟩, ⟨0, 32, 0, .ro, .fixed⟩]⟩,
  ⟨34, 2, 2, 304, 1, [⟨0, 64, 0, .rc, .fixed⟩]⟩,
  ⟨34, 2, 2, 312, 1, [⟨0, 64, 0, .rc, .fixed⟩]⟩]

def regTablePrl1 : List RegRow := [
  ⟨34, 2, 2, 320, 1, [⟨0, 64, 0, .rc, .fixed⟩]⟩,
  ⟨34, 3, 3, 256, 1, [⟨61, 3, 0, .ro, .fixed⟩, ⟨40, 8, 0, .ro, .fixed⟩, ⟨0, 32, 0, .ro, .fixed⟩]⟩,
  ⟨34, 3, 3, 264, 1, [⟨32, 32, 0, .ro, .fixed⟩, ⟨0, 32, 0, .ro, .fixed⟩]⟩,
  ⟨34, 3, 3, 272, 1, [⟨32, 8, 8, .rw, .latched⟩, ⟨0, 10, 1023, .rw, .latched⟩]⟩,
  ⟨34, 3, 3, 280, 1, [⟨63, 1, 0, .ro, .fixed⟩, ⟨0, 10, 0, .ro, .fixed⟩]⟩,
  ⟨34, 3, 3, 288, 1, [⟨32, 32, 0, .ro, .fixed⟩, ⟨0, 10, 0, .ro, .fixed⟩]⟩,
  ⟨34, 3, 3, 296, 1, [⟨0, 64, 0, .rc, .fixed⟩]⟩,
  ⟨34, 3, 3, 304, 1, [⟨0, 64, 0, .rc, .fixed⟩]⟩,
  ⟨34, 3, 3, 312, 1, [⟨0, 64, 0, .rc, .fixed⟩]⟩,
  ⟨34, 3, 3, 320, 1, [⟨0, 64, 0, .rc, .fixed⟩]⟩]

def regTableLse : List RegRow := [
  ⟨35, 0, 0, 256, 1, [⟨63, 1, 1, .rw, .latched⟩, ⟨40, 8, 64, .rw, .latched⟩, ⟨16, 16, 256, .rw, .latched⟩, ⟨0, 16, 128, .rw, .latched⟩]⟩,
  ⟨35, 0, 0, 264, 1, [⟨60, 4, 1, .ro, .fixed⟩, ⟨56, 4, 0, .ro, .fixed⟩, ⟨32, 16, 0, .ro, .fixed⟩, ⟨0, 32, 0, .ro, .fixed⟩]⟩,
  ⟨35, 0, 0, 272, 1, [⟨60, 4, 0, .wo, .fixed⟩]⟩,
  ⟨35, 0, 0, 280, 1, [⟨63, 1, 0, .ro, .fixed⟩, ⟨60, 3, 0, .ro, .fixed⟩, ⟨32, 16, 0, .ro, .fixed⟩, ⟨0, 32, 0, .ro, .fixed⟩]⟩,
  ⟨35, 0, 0, 288, 2, [⟨61, 3, 0, .ro, .fixed⟩, ⟨60, 1, 0, .ro, .fixed⟩, ⟨59, 1, 0, .ro, .fixed⟩, ⟨0, 32, 0, .ro, .fixed⟩]⟩,
  ⟨35, 0, 0, 304, 2, [⟨32, 32, 0, .ro, .fixed⟩, ⟨0, 32, 0, .ro, .fixed⟩]⟩,
  ⟨35, 0, 0, 320, 1, [⟨4, 3, 7, .ro, .fixed⟩, ⟨0, 3, 7, .ro, .fixed⟩]⟩,
  ⟨35, 0, 0, 328, 1, [⟨60, 4, 0, .ro, .fixed⟩, ⟨59, 1, 0, .ro, .fixed⟩, ⟨40, 8, 0, .ro, .fixed⟩, ⟨0, 32, 0, .ro, .fixed⟩]⟩,
  ⟨35, 0, 0, 336, 1, [⟨0, 64, 0, .rc, .fixed⟩]⟩,
  ⟨35, 1, 1, 256, 1, [⟨48, 16, 7745, .rw, .stat⟩, ⟨33, 1, 0, .rw, .latched⟩, ⟨32, 1, 1, .rw, .latched⟩, ⟨0, 12, 0, .rw, .stat⟩]⟩,
  ⟨35, 1, 1, 264, 1, [⟨63, 1, 0, .ro, .fixed⟩, ⟨62, 1, 0, .ro, .fixed⟩, ⟨40, 8, 0, .ro, .fixed⟩, ⟨0, 32, 0, .ro, .fixed⟩]⟩,
  ⟨35, 1, 1, 272, 1, [⟨9, 39, 0, .rw, .stat⟩]⟩,
  ⟨35, 1, 1, 280, 1, [⟨0, 8, 0, .wo, .fixed⟩]⟩,
  ⟨35, 1, 1, 288, 1, [⟨0, 8, 0, .rc, .fixed⟩]⟩,
  ⟨35, 1, 1, 296, 1, [⟨0, 64, 0, .rc, .fixed⟩]⟩,
  ⟨35, 1, 1, 304, 1, [⟨0, 64, 0, .rc, .fixed⟩]⟩,
  ⟨35, 1, 1, 312, 1, [⟨0, 64, 0, .rc, .fixed⟩]⟩,
  ⟨35, 1, 1, 320, 1, [⟨0, 64, 0, .rc, .fixed⟩]⟩]

def regTableFab : List RegRow := [
  ⟨36, 0, 0, 256, 1, [⟨23, 25, 0, .rw, .stat⟩]⟩,
  ⟨36, 0, 0, 264, 1, [⟨63, 1, 0, .rw, .latched⟩, ⟨40, 8, 3, .rw, .latched⟩, ⟨32, 8, 32, .rw, .latched⟩, ⟨16, 16, 7746, .rw, .stat⟩, ⟨0, 12, 0, .rw, .stat⟩]⟩,
  ⟨36, 0, 0, 272, 1, [⟨0, 16, 0, .rw, .stat⟩]⟩,
  ⟨36, 0, 0, 280, 1, [⟨61, 3, 0, .ro, .fixed⟩, ⟨32, 17, 0, .ro, .fixed⟩, ⟨16, 16, 0, .ro, .fixed⟩]⟩,
  ⟨36, 0, 0, 288, 1, [⟨63, 1, 0, .rw, .latched⟩, ⟨56, 7, 0, .rw, .latched⟩, ⟨55, 1, 0, .rw, .latched⟩, ⟨48, 7, 0, .rw, .latched⟩, ⟨40, 8, 16, .rw, .latched⟩]⟩,
  ⟨36, 0, 0, 296, 1, [⟨0, 32, 0, .rw, .latched⟩]⟩,
  ⟨36, 0, 0, 304, 1, [⟨0, 64, 0, .rw, .latched⟩]⟩,
  ⟨36, 0, 0, 312, 1, [⟨0, 64, 0, .rw, .latched⟩]⟩,
  ⟨36, 1, 1, 256, 1, [⟨0, 16, 0, .rw, .vola⟩]⟩,
  ⟨36, 1, 1, 264, 1, [⟨61, 3, 0, .ro, .fixed⟩, ⟨60, 1, 0, .ro, .fixed⟩, ⟨59, 1, 0, .ro, .fixed⟩, ⟨0, 32, 0, .ro, .fixed⟩]⟩,
  ⟨36, 1, 1, 272, 1, [⟨63, 1, 0, .w1c, .fixed⟩, ⟨62, 1, 0, .ro, .fixed⟩, ⟨32, 16, 0, .ro, .fixed⟩, ⟨0, 32, 0, .ro, .fixed⟩]⟩,
  ⟨36, 1, 1, 280, 1, [⟨0, 64, 0, .rc, .fixed⟩]⟩,
  ⟨36, 1, 1, 288, 1, [⟨0, 64, 0, .rc, .fixed⟩]⟩,
  ⟨36, 1, 1, 296, 1, [⟨0, 64, 0, .rc, .fixed⟩]⟩,
  ⟨36, 1, 1, 304, 1, [⟨0, 64, 0, .rc, .fixed⟩]⟩,
  ⟨36, 1, 1, 312, 1, [⟨0, 64, 0, .rc, .fixed⟩]⟩,
  ⟨36, 2, 2, 256, 1, [⟨32, 13, 0, .ro, .fixed⟩, ⟨16, 13, 0, .ro, .fixed⟩]⟩,
  ⟨36, 2, 2, 264, 1, [⟨16, 16, 16, .rw, .latched⟩, ⟨0, 3, 2, .rw, .latched⟩]⟩,
  ⟨36, 2, 2, 272, 1, [⟨0, 64, 0, .rw, .stat⟩]⟩,
  ⟨36, 2, 2, 280, 1, [⟨63, 1, 0, .ro, .fixed⟩, ⟨62, 1, 0, .ro, .fixed⟩, ⟨32, 16, 0, .ro, .fixed⟩, ⟨0, 32, 0, .ro, .fixed⟩]⟩,
  ⟨36, 2, 2, 288, 1, [⟨0, 64, 0, .rc, .fixed⟩]⟩,
  ⟨36, 2, 2, 296, 1, [⟨0, 64, 0, .rc, .fixed⟩]⟩,
  ⟨36, 3, 3, 256, 1, [⟨48, 16, 64, .rw, .latched⟩, ⟨32, 11, 256, .rw, .latched⟩]⟩,
  ⟨36, 3, 3, 264, 1, [⟨48, 16, 0, .ro, .fixed⟩, ⟨0, 32, 0, .ro, .fixed⟩]⟩,
  ⟨36, 3, 3, 272, 1, [⟨0, 64, 0, .rc, .fixed⟩]⟩,
  ⟨36, 3, 3, 280, 1, [⟨0, 64, 0, .rc, .fixed⟩]⟩,
  ⟨36, 3, 3, 288, 1, [⟨0, 64, 0, .rc, .fixed⟩]⟩,
  ⟨36, 3, 3, 296, 1, [⟨0, 64, 0, .rc, .fixed⟩]⟩]

def regTableRep : List RegRow := [
  ⟨37, 0, 0, 256, 1, [⟨23, 25, 0, .rw, .stat⟩]⟩,
  ⟨37, 0, 0, 264, 1, [⟨48, 16, 384, .rw, .latched⟩, ⟨32, 16, 64, .rw, .latched⟩, ⟨24, 8, 4, .rw, .latched⟩, ⟨16, 8, 16, .rw, .latched⟩]⟩,
  ⟨37, 0, 0, 272, 1, [⟨48, 9, 0, .ro, .fixed⟩, ⟨40, 5, 0, .ro, .fixed⟩, ⟨0, 32, 0, .ro, .fixed⟩]⟩,
  ⟨37, 0, 0, 280, 1, [⟨0, 8, 0, .rw, .vola⟩]⟩,
  ⟨37, 0, 0, 288, 1, [⟨60, 4, 0, .ro, .fixed⟩, ⟨40, 20, 0, .ro, .fixed⟩, ⟨0, 32, 0, .ro, .fixed⟩]⟩,
  ⟨37, 0, 0, 296, 1, [⟨60, 4, 0, .wo, .fixed⟩, ⟨40, 20, 0, .wo, .fixed⟩, ⟨0, 8, 0, .wo, .fixed⟩]⟩,
  ⟨37, 0, 0, 304, 1, [⟨63, 1, 0, .ro, .fixed⟩, ⟨60, 3, 0, .ro, .fixed⟩, ⟨32, 16, 0, .ro, .fixed⟩]⟩,
  ⟨37, 0, 0, 312, 1, [⟨32, 32, 0, .rc, .fixed⟩, ⟨0, 32, 0, .ro, .fixed⟩]⟩,
  ⟨37, 1, 1, 256, 1, [⟨0, 64, 0, .rc, .fixed⟩]⟩,
  ⟨37, 1, 1, 264, 1, [⟨0, 64, 0, .rc, .fixed⟩]⟩,
  ⟨37, 1, 1, 272, 1, [⟨0, 64, 0, .rc, .fixed⟩]⟩,
  ⟨37, 1, 1, 280, 1, [⟨0, 64, 0, .rc, .fixed⟩]⟩,
  ⟨37, 1, 1, 288, 1, [⟨0, 64, 0, .rc, .fixed⟩]⟩,
  ⟨37, 1, 1, 296, 1, [⟨0, 64, 0, .rc, .fixed⟩]⟩,
  ⟨37, 1, 1, 304, 1, [⟨0, 64, 0, .rc, .fixed⟩]⟩,
  ⟨37, 1, 1, 312, 1, [⟨0, 64, 0, .rc, .fixed⟩]⟩]

def regTableSec : List RegRow := [
  ⟨8, 0, 0, 256, 1, [⟨60, 4, 0, .ro, .fixed⟩, ⟨56, 4, 0, .ro, .fixed⟩, ⟨32, 16, 0, .ro, .fixed⟩]⟩,
  ⟨8, 0, 0, 264, 1, [⟨32, 32, 0, .ro, .fixed⟩, ⟨0, 32, 0, .ro, .fixed⟩]⟩,
  ⟨8, 0, 0, 272, 1, [⟨63, 1, 0, .ro, .fixed⟩, ⟨62, 1, 0, .ro, .fixed⟩, ⟨61, 1, 0, .ro, .fixed⟩, ⟨60, 1, 0, .ro, .fixed⟩]⟩,
  ⟨8, 0, 0, 280, 1, [⟨32, 32, 0, .ro, .fixed⟩, ⟨0, 32, 0, .ro, .fixed⟩]⟩,
  ⟨8, 0, 0, 288, 1, [⟨0, 64, 0, .ro, .fixed⟩]⟩,
  ⟨8, 0, 0, 296, 1, [⟨0, 32, 0, .ro, .fixed⟩]⟩,
  ⟨8, 0, 0, 304, 1, [⟨32, 32, 0, .ro, .fixed⟩, ⟨0, 32, 0, .ro, .fixed⟩]⟩,
  ⟨8, 1, 1, 256, 1, [⟨32, 16, 600, .rw, .latched⟩, ⟨0, 8, 40, .rw, .latched⟩]⟩,
  ⟨8, 1, 1, 264, 1, [⟨62, 2, 0, .ro, .fixed⟩, ⟨0, 16, 0, .ro, .fixed⟩]⟩,
  ⟨8, 1, 1, 272, 1, [⟨63, 1, 0, .ro, .fixed⟩, ⟨0, 17, 0, .ro, .fixed⟩]⟩,
  ⟨8, 1, 1, 280, 1, [⟨0, 64, 0, .rc, .fixed⟩]⟩,
  ⟨8, 1, 1, 288, 1, [⟨0, 64, 0, .rc, .fixed⟩]⟩,
  ⟨8, 1, 1, 296, 1, [⟨0, 64, 0, .rc, .fixed⟩]⟩,
  ⟨8, 2, 2, 256, 1, [⟨1, 3, 4, .rw, .vola⟩, ⟨0, 1, 1, .rw, .vola⟩]⟩,
  ⟨8, 2, 2, 264, 1, [⟨63, 1, 0, .ro, .fixed⟩, ⟨40, 7, 0, .ro, .fixed⟩]⟩,
  ⟨8, 2, 2, 272, 1, [⟨56, 8, 0, .ro, .fixed⟩, ⟨32, 16, 0, .ro, .fixed⟩, ⟨0, 32, 0, .ro, .fixed⟩]⟩,
  ⟨8, 2, 2, 280, 1, [⟨0, 64, 0, .rc, .fixed⟩]⟩,
  ⟨8, 2, 2, 288, 1, [⟨0, 64, 0, .rc, .fixed⟩]⟩,
  ⟨8, 3, 3, 256, 1, [⟨62, 2, 0, .ro, .fixed⟩, ⟨61, 1, 0, .ro, .fixed⟩, ⟨0, 32, 0, .ro, .fixed⟩]⟩,
  ⟨8, 3, 3, 264, 1, [⟨32, 32, 0, .rc, .fixed⟩, ⟨0, 32, 0, .rc, .fixed⟩]⟩,
  ⟨8, 3, 3, 272, 1, [⟨60, 4, 0, .wo, .fixed⟩, ⟨6, 42, 0, .wo, .fixed⟩]⟩,
  ⟨8, 3, 3, 280, 1, [⟨63, 1, 0, .ro, .fixed⟩, ⟨60, 3, 0, .ro, .fixed⟩, ⟨32, 16, 0, .ro, .fixed⟩]⟩,
  ⟨8, 3, 3, 288, 1, [⟨48, 16, 0, .rw, .stat⟩, ⟨21, 27, 0, .rw, .stat⟩]⟩,
  ⟨8, 3, 3, 296, 1, [⟨48, 16, 0, .rw, .stat⟩, ⟨21, 27, 0, .rw, .stat⟩]⟩,
  ⟨8, 3, 3, 304, 1, [⟨48, 6, 0, .ro, .fixed⟩, ⟨0, 48, 0, .ro, .fixed⟩]⟩,
  ⟨8, 3, 3, 312, 1, [⟨0, 64, 0, .rc, .fixed⟩]⟩]

def regTableKey : List RegRow := [
  ⟨9, 0, 0, 256, 1, [⟨21, 27, 0, .rw, .stat⟩]⟩,
  ⟨9, 0, 0, 264, 1, [⟨62, 2, 0, .ro, .fixed⟩, ⟨32, 22, 0, .ro, .fixed⟩, ⟨18, 14, 0, .ro, .fixed⟩, ⟨0, 13, 0, .ro, .fixed⟩]⟩,
  ⟨9, 0, 0, 272, 1, [⟨56, 8, 0, .wo, .fixed⟩]⟩,
  ⟨9, 0, 0, 280, 1, [⟨8, 40, 0, .rw, .vola⟩]⟩,
  ⟨9, 0, 0, 288, 1, [⟨63, 1, 0, .ro, .fixed⟩, ⟨60, 3, 0, .ro, .fixed⟩, ⟨32, 16, 0, .ro, .fixed⟩]⟩,
  ⟨9, 1, 1, 256, 1, [⟨0, 12, 0, .rw, .vola⟩]⟩,
  ⟨9, 1, 1, 264, 1, [⟨63, 1, 0, .ro, .fixed⟩, ⟨58, 5, 0, .ro, .fixed⟩, ⟨57, 1, 0, .ro, .fixed⟩, ⟨0, 32, 0, .ro, .fixed⟩]⟩,
  ⟨9, 1, 1, 272, 1, [⟨48, 16, 0, .ro, .fixed⟩, ⟨32, 16, 0, .ro, .fixed⟩, ⟨16, 16, 0, .ro, .fixed⟩, ⟨0, 4, 0, .ro, .fixed⟩]⟩,
  ⟨9, 1, 1, 280, 1, [⟨32, 16, 0, .ro, .fixed⟩, ⟨0, 16, 0, .ro, .fixed⟩]⟩,
  ⟨9, 2, 2, 256, 1, [⟨16, 16, 65535, .rw, .latched⟩]⟩,
  ⟨9, 2, 2, 264, 1, [⟨0, 64, 0, .rc, .fixed⟩]⟩,
  ⟨9, 2, 2, 272, 1, [⟨0, 64, 0, .rc, .fixed⟩]⟩,
  ⟨9, 2, 2, 280, 1, [⟨0, 64, 0, .rc, .fixed⟩]⟩,
  ⟨9, 2, 2, 288, 1, [⟨0, 64, 0, .rc, .fixed⟩]⟩]

def regTableMsr : List RegRow := [
  ⟨10, 0, 0, 256, 1, [⟨8, 3, 0, .rw, .vola⟩, ⟨0, 5, 0, .rw, .vola⟩]⟩,
  ⟨10, 0, 0, 264, 1, [⟨0, 64, 0, .ro, .fixed⟩]⟩,
  ⟨10, 0, 0, 272, 1, [⟨62, 2, 0, .ro, .fixed⟩, ⟨61, 1, 0, .ro, .fixed⟩, ⟨0, 32, 0, .ro, .fixed⟩]⟩,
  ⟨10, 0, 0, 280, 1, [⟨63, 1, 0, .wo, .fixed⟩, ⟨58, 5, 0, .wo, .fixed⟩, ⟨3, 45, 0, .wo, .fixed⟩]⟩,
  ⟨10, 0, 0, 288, 1, [⟨63, 1, 0, .ro, .fixed⟩, ⟨60, 3, 0, .ro, .fixed⟩, ⟨32, 16, 0, .ro, .fixed⟩]⟩,
  ⟨10, 0, 0, 296, 1, [⟨0, 64, 0, .rc, .fixed⟩]⟩]

def regTableMbx : List RegRow := [
  ⟨7, 0, 3, 256, 32, [⟨0, 64, 0, .wo, .fixed⟩]⟩,
  ⟨7, 0, 3, 512, 32, [⟨0, 64, 0, .rc, .fixed⟩]⟩,
  ⟨7, 0, 3, 768, 32, [⟨63, 1, 0, .ro, .fixed⟩, ⟨62, 1, 0, .w1c, .fixed⟩, ⟨61, 1, 0, .w1c, .fixed⟩, ⟨60, 1, 0, .rw, .vola⟩, ⟨48, 8, 0, .ro, .fixed⟩, ⟨40, 8, 0, .ro, .fixed⟩, ⟨32, 8, 0, .ro, .fixed⟩, ⟨24, 8, 0, .ro, .fixed⟩, ⟨0, 24, 0, .ro, .fixed⟩]⟩,
  ⟨7, 0, 3, 1024, 32, [⟨63, 1, 0, .rw, .vola⟩, ⟨8, 6, 0, .rw, .vola⟩, ⟨0, 6, 0, .rw, .vola⟩]⟩,
  ⟨7, 0, 3, 1280, 1, [⟨0, 32, 0, .ro, .fixed⟩]⟩,
  ⟨7, 0, 3, 1288, 1, [⟨0, 64, 0, .rc, .fixed⟩]⟩,
  ⟨7, 0, 0, 1296, 1, [⟨63, 1, 0, .w1s, .vola⟩]⟩,
  ⟨7, 1, 1, 1296, 16, [⟨0, 6, 0, .ro, .fixed⟩]⟩,
  ⟨7, 1, 1, 1424, 1, [⟨0, 4, 0, .wo, .fixed⟩]⟩,
  ⟨7, 1, 1, 1432, 1, [⟨16, 16, 0, .ro, .fixed⟩, ⟨0, 16, 0, .w1c, .fixed⟩]⟩]

def regTableUpd : List RegRow := [
  ⟨40, 0, 0, 256, 1, [⟨56, 8, 0, .wo, .fixed⟩]⟩,
  ⟨40, 0, 0, 264, 1, [⟨8, 40, 0, .rw, .vola⟩]⟩,
  ⟨40, 0, 0, 272, 1, [⟨63, 1, 0, .ro, .fixed⟩, ⟨60, 3, 0, .ro, .fixed⟩, ⟨32, 16, 0, .ro, .fixed⟩]⟩,
  ⟨40, 0, 0, 280, 1, [⟨60, 4, 0, .ro, .fixed⟩, ⟨58, 2, 0, .ro, .fixed⟩, ⟨32, 16, 0, .ro, .fixed⟩, ⟨0, 32, 0, .ro, .fixed⟩]⟩,
  ⟨40, 0, 0, 288, 1, [⟨63, 1, 0, .ro, .fixed⟩, ⟨62, 1, 0, .ro, .fixed⟩, ⟨61, 1, 0, .ro, .fixed⟩, ⟨60, 1, 0, .ro, .fixed⟩, ⟨59, 1, 0, .ro, .fixed⟩, ⟨56, 3, 0, .ro, .fixed⟩, ⟨55, 1, 0, .ro, .fixed⟩, ⟨0, 32, 0, .ro, .fixed⟩]⟩,
  ⟨40, 0, 0, 296, 2, [⟨60, 4, 0, .ro, .fixed⟩, ⟨32, 12, 0, .ro, .fixed⟩, ⟨0, 32, 0, .ro, .fixed⟩]⟩,
  ⟨40, 0, 0, 312, 1, [⟨48, 16, 0, .ro, .fixed⟩, ⟨0, 48, 0, .ro, .fixed⟩]⟩,
  ⟨40, 0, 0, 320, 1, [⟨63, 1, 0, .ro, .fixed⟩, ⟨62, 1, 0, .ro, .fixed⟩, ⟨0, 48, 0, .ro, .fixed⟩]⟩,
  ⟨40, 0, 0, 328, 1, [⟨48, 16, 0, .ro, .fixed⟩, ⟨32, 16, 0, .ro, .fixed⟩, ⟨1, 1, 0, .ro, .fixed⟩, ⟨0, 1, 0, .ro, .fixed⟩]⟩,
  ⟨40, 0, 0, 336, 1, [⟨32, 32, 0, .rc, .fixed⟩, ⟨0, 32, 0, .rc, .fixed⟩]⟩]

def regTableSvc : List RegRow := [
  ⟨41, 0, 0, 256, 1, [⟨1, 1, 0, .rw, .stat⟩, ⟨0, 1, 1, .rw, .latched⟩]⟩,
  ⟨41, 0, 0, 264, 1, [⟨63, 1, 0, .ro, .fixed⟩, ⟨61, 2, 0, .ro, .fixed⟩, ⟨32, 16, 0, .ro, .fixed⟩, ⟨0, 32, 0, .ro, .fixed⟩]⟩,
  ⟨41, 0, 0, 272, 1, [⟨56, 3, 0, .ro, .fixed⟩, ⟨0, 32, 0, .ro, .fixed⟩]⟩,
  ⟨41, 0, 0, 280, 1, [⟨0, 64, 0, .rc, .fixed⟩]⟩,
  ⟨41, 0, 0, 288, 1, [⟨0, 64, 0, .rc, .fixed⟩]⟩,
  ⟨41, 0, 0, 296, 1, [⟨0, 64, 0, .rc, .fixed⟩]⟩,
  ⟨41, 0, 0, 304, 1, [⟨0, 64, 0, .rc, .fixed⟩]⟩,
  ⟨41, 0, 0, 312, 1, [⟨0, 64, 0, .rc, .fixed⟩]⟩]

def regTablePwr0 : List RegRow := [
  ⟨3, 0, 0, 256, 1, [⟨32, 16, 1024, .rw, .latched⟩, ⟨0, 16, 256, .rw, .latched⟩]⟩,
  ⟨3, 0, 0, 264, 1, [⟨63, 1, 0, .ro, .fixed⟩, ⟨60, 3, 0, .ro, .fixed⟩, ⟨56, 4, 0, .ro, .fixed⟩, ⟨48, 5, 0, .ro, .fixed⟩, ⟨32, 16, 0, .ro, .fixed⟩, ⟨0, 32, 0, .ro, .fixed⟩]⟩,
  ⟨3, 0, 0, 272, 1, [⟨2, 12, 4092, .rw, .vola⟩]⟩,
  ⟨3, 0, 0, 280, 1, [⟨63, 1, 0, .wo, .fixed⟩, ⟨0, 1, 1, .rw, .vola⟩]⟩,
  ⟨3, 0, 0, 288, 1, [⟨62, 2, 0, .ro, .fixed⟩, ⟨48, 4, 0, .ro, .fixed⟩, ⟨0, 16, 0, .ro, .fixed⟩]⟩,
  ⟨3, 0, 0, 296, 1, [⟨1, 8, 239, .rw, .vola⟩, ⟨0, 1, 1, .ro, .fixed⟩]⟩,
  ⟨3, 0, 0, 304, 1, [⟨0, 9, 0, .ro, .fixed⟩]⟩,
  ⟨3, 0, 0, 312, 1, [⟨0, 9, 0, .ro, .fixed⟩]⟩,
  ⟨3, 0, 0, 320, 1, [⟨60, 4, 0, .ro, .fixed⟩, ⟨48, 5, 0, .ro, .fixed⟩, ⟨32, 16, 0, .ro, .fixed⟩, ⟨0, 32, 0, .ro, .fixed⟩]⟩,
  ⟨3, 0, 0, 328, 1, [⟨61, 3, 0, .ro, .fixed⟩, ⟨0, 32, 0, .ro, .fixed⟩]⟩,
  ⟨3, 0, 0, 512, 20, [⟨60, 4, 0, .wo, .fixed⟩, ⟨58, 2, 0, .wo, .fixed⟩, ⟨0, 16, 0, .wo, .fixed⟩]⟩,
  ⟨3, 0, 0, 768, 1, [⟨62, 2, 3, .ro, .fixed⟩, ⟨61, 1, 0, .ro, .fixed⟩, ⟨60, 1, 0, .ro, .fixed⟩, ⟨59, 1, 0, .ro, .fixed⟩, ⟨0, 32, 0, .ro, .fixed⟩]⟩,
  ⟨3, 0, 0, 776, 1, [⟨62, 2, 3, .ro, .fixed⟩, ⟨61, 1, 0, .ro, .fixed⟩, ⟨60, 1, 0, .ro, .fixed⟩, ⟨59, 1, 0, .ro, .fixed⟩, ⟨0, 32, 0, .ro, .fixed⟩]⟩,
  ⟨3, 0, 0, 784, 1, [⟨62, 2, 3, .ro, .fixed⟩, ⟨61, 1, 0, .ro, .fixed⟩, ⟨60, 1, 0, .ro, .fixed⟩, ⟨59, 1, 0, .ro, .fixed⟩, ⟨0, 32, 0, .ro, .fixed⟩]⟩,
  ⟨3, 0, 0, 792, 1, [⟨62, 2, 3, .ro, .fixed⟩, ⟨61, 1, 0, .ro, .fixed⟩, ⟨60, 1, 0, .ro, .fixed⟩, ⟨59, 1, 0, .ro, .fixed⟩, ⟨0, 32, 0, .ro, .fixed⟩]⟩,
  ⟨3, 0, 0, 800, 1, [⟨62, 2, 3, .ro, .fixed⟩, ⟨61, 1, 0, .ro, .fixed⟩, ⟨60, 1, 0, .ro, .fixed⟩, ⟨59, 1, 0, .ro, .fixed⟩, ⟨0, 32, 0, .ro, .fixed⟩]⟩,
  ⟨3, 0, 0, 808, 1, [⟨62, 2, 3, .ro, .fixed⟩, ⟨61, 1, 0, .ro, .fixed⟩, ⟨60, 1, 0, .ro, .fixed⟩, ⟨59, 1, 0, .ro, .fixed⟩, ⟨0, 32, 0, .ro, .fixed⟩]⟩,
  ⟨3, 0, 0, 816, 1, [⟨62, 2, 3, .ro, .fixed⟩, ⟨61, 1, 0, .ro, .fixed⟩, ⟨60, 1, 0, .ro, .fixed⟩, ⟨59, 1, 0, .ro, .fixed⟩, ⟨0, 32, 0, .ro, .fixed⟩]⟩,
  ⟨3, 0, 0, 824, 1, [⟨62, 2, 3, .ro, .fixed⟩, ⟨61, 1, 0, .ro, .fixed⟩, ⟨60, 1, 0, .ro, .fixed⟩, ⟨59, 1, 0, .ro, .fixed⟩, ⟨0, 32, 0, .ro, .fixed⟩]⟩,
  ⟨3, 0, 0, 832, 1, [⟨62, 2, 3, .ro, .fixed⟩, ⟨61, 1, 0, .ro, .fixed⟩, ⟨60, 1, 0, .ro, .fixed⟩, ⟨59, 1, 0, .ro, .fixed⟩, ⟨0, 32, 0, .ro, .fixed⟩]⟩,
  ⟨3, 0, 0, 840, 1, [⟨62, 2, 3, .ro, .fixed⟩, ⟨61, 1, 0, .ro, .fixed⟩, ⟨60, 1, 0, .ro, .fixed⟩, ⟨59, 1, 0, .ro, .fixed⟩, ⟨0, 32, 0, .ro, .fixed⟩]⟩,
  ⟨3, 0, 0, 848, 1, [⟨62, 2, 3, .ro, .fixed⟩, ⟨61, 1, 0, .ro, .fixed⟩, ⟨60, 1, 0, .ro, .fixed⟩, ⟨59, 1, 0, .ro, .fixed⟩, ⟨0, 32, 0, .ro, .fixed⟩]⟩,
  ⟨3, 0, 0, 856, 1, [⟨62, 2, 3, .ro, .fixed⟩, ⟨61, 1, 0, .ro, .fixed⟩, ⟨60, 1, 0, .ro, .fixed⟩, ⟨59, 1, 0, .ro, .fixed⟩, ⟨0, 32, 0, .ro, .fixed⟩]⟩,
  ⟨3, 0, 0, 864, 1, [⟨62, 2, 3, .ro, .fixed⟩, ⟨61, 1, 0, .ro, .fixed⟩, ⟨60, 1, 0, .ro, .fixed⟩, ⟨59, 1, 0, .ro, .fixed⟩, ⟨0, 32, 0, .ro, .fixed⟩]⟩,
  ⟨3, 0, 0, 872, 1, [⟨62, 2, 3, .ro, .fixed⟩, ⟨61, 1, 0, .ro, .fixed⟩, ⟨60, 1, 0, .ro, .fixed⟩, ⟨59, 1, 0, .ro, .fixed⟩, ⟨0, 32, 0, .ro, .fixed⟩]⟩,
  ⟨3, 0, 0, 880, 1, [⟨62, 2, 3, .ro, .fixed⟩, ⟨61, 1, 0, .ro, .fixed⟩, ⟨60, 1, 0, .ro, .fixed⟩, ⟨59, 1, 0, .ro, .fixed⟩, ⟨0, 32, 0, .ro, .fixed⟩]⟩,
  ⟨3, 0, 0, 888, 1, [⟨62, 2, 3, .ro, .fixed⟩, ⟨61, 1, 0, .ro, .fixed⟩, ⟨60, 1, 0, .ro, .fixed⟩, ⟨59, 1, 0, .ro, .fixed⟩, ⟨0, 32, 0, .ro, .fixed⟩]⟩,
  ⟨3, 0, 0, 896, 1, [⟨62, 2, 3, .ro, .fixed⟩, ⟨61, 1, 0, .ro, .fixed⟩, ⟨60, 1, 0, .ro, .fixed⟩, ⟨59, 1, 0, .ro, .fixed⟩, ⟨0, 32, 0, .ro, .fixed⟩]⟩,
  ⟨3, 0, 0, 904, 1, [⟨62, 2, 3, .ro, .fixed⟩, ⟨61, 1, 0, .ro, .fixed⟩, ⟨60, 1, 0, .ro, .fixed⟩, ⟨59, 1, 0, .ro, .fixed⟩, ⟨0, 32, 0, .ro, .fixed⟩]⟩,
  ⟨3, 0, 0, 912, 1, [⟨62, 2, 3, .ro, .fixed⟩, ⟨61, 1, 0, .ro, .fixed⟩, ⟨60, 1, 0, .ro, .fixed⟩, ⟨59, 1, 0, .ro, .fixed⟩, ⟨0, 32, 0, .ro, .fixed⟩]⟩]

def regTablePwr1 : List RegRow := [
  ⟨3, 0, 0, 920, 1, [⟨62, 2, 3, .ro, .fixed⟩, ⟨61, 1, 0, .ro, .fixed⟩, ⟨60, 1, 0, .ro, .fixed⟩, ⟨59, 1, 0, .ro, .fixed⟩, ⟨0, 32, 0, .ro, .fixed⟩]⟩,
  ⟨3, 1, 1, 256, 1, [⟨5, 2, 0, .rw, .vola⟩, ⟨0, 5, 0, .rw, .vola⟩]⟩,
  ⟨3, 1, 1, 264, 1, [⟨0, 64, 0, .ro, .fixed⟩]⟩,
  ⟨3, 1, 1, 320, 8, [⟨0, 64, 0, .rc, .fixed⟩]⟩,
  ⟨3, 1, 1, 384, 1, [⟨0, 64, 0, .rc, .fixed⟩]⟩,
  ⟨3, 1, 1, 392, 1, [⟨0, 64, 0, .rc, .fixed⟩]⟩,
  ⟨3, 1, 1, 400, 1, [⟨0, 64, 0, .rc, .fixed⟩]⟩,
  ⟨3, 1, 1, 408, 1, [⟨0, 64, 0, .rc, .fixed⟩]⟩,
  ⟨3, 1, 1, 416, 1, [⟨0, 64, 0, .rc, .fixed⟩]⟩,
  ⟨3, 1, 1, 424, 1, [⟨0, 64, 0, .rc, .fixed⟩]⟩,
  ⟨3, 1, 1, 432, 1, [⟨0, 64, 0, .rc, .fixed⟩]⟩,
  ⟨3, 1, 1, 440, 1, [⟨0, 64, 0, .rc, .fixed⟩]⟩,
  ⟨3, 1, 1, 448, 1, [⟨0, 64, 0, .rc, .fixed⟩]⟩]

def regTableClk0 : List RegRow := [
  ⟨4, 0, 0, 256, 1, [⟨16, 9, 0, .ro, .fixed⟩, ⟨0, 9, 0, .ro, .fixed⟩]⟩,
  ⟨4, 0, 0, 264, 1, [⟨0, 7, 0, .ro, .fixed⟩]⟩,
  ⟨4, 0, 0, 272, 1, [⟨63, 1, 1, .ro, .fixed⟩, ⟨62, 1, 0, .ro, .fixed⟩, ⟨0, 16, 0, .ro, .fixed⟩]⟩,
  ⟨4, 0, 0, 280, 1, [⟨16, 7, 127, .rw, .latched⟩, ⟨0, 16, 1000, .rw, .latched⟩]⟩,
  ⟨4, 0, 0, 288, 1, [⟨0, 7, 0, .w1c, .fixed⟩]⟩,
  ⟨4, 0, 0, 296, 1, [⟨0, 5, 0, .rw, .vola⟩]⟩,
  ⟨4, 0, 0, 304, 1, [⟨0, 32, 0, .ro, .fixed⟩]⟩,
  ⟨4, 0, 0, 512, 1, [⟨32, 12, 0, .ro, .latched⟩, ⟨0, 1, 1, .rw, .vola⟩]⟩,
  ⟨4, 0, 0, 520, 1, [⟨32, 12, 25, .ro, .latched⟩, ⟨0, 1, 1, .rw, .vola⟩]⟩,
  ⟨4, 0, 0, 528, 1, [⟨32, 12, 500, .ro, .latched⟩, ⟨0, 1, 1, .rw, .vola⟩]⟩,
  ⟨4, 0, 0, 536, 1, [⟨32, 12, 1600, .ro, .latched⟩, ⟨0, 1, 1, .rw, .vola⟩]⟩,
  ⟨4, 0, 0, 544, 1, [⟨32, 12, 2600, .rw, .latched⟩, ⟨0, 1, 1, .rw, .vola⟩]⟩,
  ⟨4, 0, 0, 552, 1, [⟨32, 12, 2600, .rw, .latched⟩, ⟨0, 1, 1, .rw, .vola⟩]⟩,
  ⟨4, 0, 0, 560, 1, [⟨32, 12, 2600, .rw, .latched⟩, ⟨0, 1, 1, .rw, .vola⟩]⟩,
  ⟨4, 0, 0, 568, 1, [⟨32, 12, 2600, .rw, .latched⟩, ⟨0, 1, 1, .rw, .vola⟩]⟩,
  ⟨4, 0, 0, 576, 1, [⟨32, 12, 1000, .ro, .latched⟩, ⟨0, 1, 1, .rw, .vola⟩]⟩,
  ⟨4, 0, 0, 584, 1, [⟨32, 12, 1600, .ro, .latched⟩, ⟨0, 1, 1, .rw, .vola⟩]⟩,
  ⟨4, 0, 0, 592, 1, [⟨32, 12, 1600, .ro, .latched⟩, ⟨0, 1, 1, .rw, .vola⟩]⟩,
  ⟨4, 0, 0, 600, 1, [⟨32, 12, 1500, .rw, .latched⟩, ⟨0, 1, 1, .rw, .vola⟩]⟩,
  ⟨4, 0, 0, 608, 1, [⟨32, 12, 1500, .rw, .latched⟩, ⟨0, 1, 1, .rw, .vola⟩]⟩,
  ⟨4, 0, 0, 616, 1, [⟨32, 12, 1500, .rw, .latched⟩, ⟨0, 1, 1, .rw, .vola⟩]⟩,
  ⟨4, 0, 0, 624, 1, [⟨32, 12, 1500, .rw, .latched⟩, ⟨0, 1, 1, .rw, .vola⟩]⟩,
  ⟨4, 0, 0, 632, 1, [⟨32, 12, 1600, .ro, .latched⟩, ⟨0, 1, 1, .rw, .vola⟩]⟩,
  ⟨4, 0, 0, 640, 1, [⟨32, 12, 1250, .ro, .latched⟩, ⟨0, 1, 1, .rw, .vola⟩]⟩,
  ⟨4, 0, 0, 648, 1, [⟨32, 12, 1250, .ro, .latched⟩, ⟨0, 1, 1, .rw, .vola⟩]⟩,
  ⟨4, 0, 0, 656, 1, [⟨32, 12, 1000, .ro, .latched⟩, ⟨0, 1, 1, .rw, .vola⟩]⟩,
  ⟨4, 0, 0, 664, 1, [⟨32, 12, 1000, .ro, .latched⟩, ⟨0, 1, 1, .rw, .vola⟩]⟩,
  ⟨4, 0, 0, 672, 1, [⟨32, 12, 1250, .ro, .latched⟩, ⟨0, 1, 1, .rw, .vola⟩]⟩,
  ⟨4, 0, 0, 680, 1, [⟨32, 12, 800, .ro, .latched⟩, ⟨0, 1, 1, .rw, .vola⟩]⟩,
  ⟨4, 0, 0, 688, 1, [⟨32, 12, 125, .ro, .latched⟩, ⟨0, 1, 1, .rw, .vola⟩]⟩]

def regTableClk1 : List RegRow := [
  ⟨4, 0, 0, 696, 1, [⟨32, 12, 0, .ro, .latched⟩, ⟨0, 1, 1, .rw, .vola⟩]⟩,
  ⟨4, 0, 0, 704, 1, [⟨32, 12, 800, .ro, .latched⟩, ⟨0, 1, 1, .rw, .vola⟩]⟩,
  ⟨4, 0, 0, 768, 25, [⟨63, 1, 0, .ro, .fixed⟩, ⟨32, 12, 0, .ro, .fixed⟩]⟩,
  ⟨4, 1, 1, 256, 1, [⟨0, 64, 0, .rc, .fixed⟩]⟩,
  ⟨4, 1, 1, 264, 1, [⟨0, 64, 0, .rc, .fixed⟩]⟩,
  ⟨4, 1, 1, 272, 1, [⟨0, 64, 0, .rc, .fixed⟩]⟩,
  ⟨4, 1, 1, 280, 1, [⟨0, 64, 0, .rc, .fixed⟩]⟩,
  ⟨4, 1, 1, 288, 1, [⟨0, 64, 0, .rc, .fixed⟩]⟩,
  ⟨4, 1, 1, 296, 1, [⟨0, 64, 0, .rc, .fixed⟩]⟩,
  ⟨4, 1, 1, 304, 1, [⟨0, 64, 0, .rc, .fixed⟩]⟩,
  ⟨4, 1, 1, 312, 1, [⟨0, 64, 0, .rc, .fixed⟩]⟩,
  ⟨4, 1, 1, 320, 1, [⟨0, 64, 0, .rc, .fixed⟩]⟩,
  ⟨4, 1, 1, 328, 1, [⟨0, 64, 0, .rc, .fixed⟩]⟩,
  ⟨4, 1, 1, 336, 1, [⟨0, 64, 0, .rc, .fixed⟩]⟩]

def regTableAon : List RegRow := [
  ⟨1, 0, 0, 256, 1, [⟨63, 1, 0, .ro, .fixed⟩, ⟨62, 1, 0, .ro, .fixed⟩]⟩,
  ⟨1, 0, 0, 264, 1, [⟨8, 1, 0, .ro, .fixed⟩, ⟨0, 8, 1, .ro, .fixed⟩]⟩,
  ⟨1, 0, 0, 272, 1, [⟨63, 1, 0, .ro, .fixed⟩, ⟨0, 32, 0, .ro, .fixed⟩]⟩,
  ⟨1, 0, 0, 280, 1, [⟨0, 64, 0, .ro, .fixed⟩]⟩,
  ⟨1, 0, 0, 288, 1, [⟨63, 1, 0, .rw, .vola⟩, ⟨0, 48, 0, .rw, .vola⟩]⟩,
  ⟨1, 0, 0, 296, 1, [⟨32, 32, 0, .rw, .vola⟩, ⟨0, 32, 0, .rw, .vola⟩]⟩,
  ⟨1, 0, 0, 304, 1, [⟨0, 64, 0, .ro, .fixed⟩]⟩,
  ⟨1, 0, 0, 312, 1, [⟨0, 64, 0, .rc, .fixed⟩]⟩,
  ⟨1, 0, 0, 320, 1, [⟨0, 64, 0, .rc, .fixed⟩]⟩,
  ⟨1, 0, 0, 328, 1, [⟨0, 64, 0, .rc, .fixed⟩]⟩,
  ⟨1, 1, 1, 256, 1, [⟨0, 1, 1, .rw, .vola⟩]⟩,
  ⟨1, 1, 1, 264, 1, [⟨0, 1, 0, .wo, .fixed⟩]⟩,
  ⟨1, 1, 1, 272, 1, [⟨0, 64, 0, .rw, .vola⟩]⟩,
  ⟨1, 1, 1, 280, 1, [⟨0, 32, 0, .rw, .vola⟩]⟩,
  ⟨1, 1, 1, 288, 1, [⟨0, 48, 0, .rw, .vola⟩]⟩,
  ⟨1, 1, 1, 320, 8, [⟨0, 64, 0, .rw, .vola⟩]⟩,
  ⟨1, 1, 1, 384, 4, [⟨2, 46, 0, .rw, .vola⟩]⟩,
  ⟨1, 1, 1, 416, 1, [⟨0, 64, 0, .rc, .fixed⟩]⟩]

def regTableErq : List RegRow := [
  ⟨12, 0, 0, 256, 1, [⟨8, 1, 0, .rw, .latched⟩, ⟨0, 3, 2, .rw, .latched⟩]⟩,
  ⟨12, 0, 0, 264, 1, [⟨63, 1, 0, .ro, .fixed⟩, ⟨62, 1, 0, .ro, .fixed⟩, ⟨61, 1, 0, .ro, .fixed⟩, ⟨56, 3, 0, .ro, .fixed⟩, ⟨32, 8, 0, .ro, .fixed⟩, ⟨0, 16, 0, .ro, .fixed⟩]⟩,
  ⟨12, 0, 0, 272, 6, [⟨0, 64, 0, .ro, .fixed⟩]⟩,
  ⟨12, 0, 0, 320, 1, [⟨63, 1, 0, .w1c, .fixed⟩, ⟨60, 3, 0, .ro, .fixed⟩, ⟨59, 1, 0, .ro, .fixed⟩, ⟨48, 10, 0, .ro, .fixed⟩, ⟨32, 16, 0, .ro, .fixed⟩, ⟨0, 32, 0, .ro, .fixed⟩]⟩,
  ⟨12, 0, 0, 328, 1, [⟨0, 64, 0, .ro, .fixed⟩]⟩,
  ⟨12, 0, 0, 336, 1, [⟨0, 10, 0, .ro, .fixed⟩]⟩,
  ⟨12, 0, 0, 344, 1, [⟨48, 10, 0, .wo, .fixed⟩, ⟨32, 16, 0, .wo, .fixed⟩]⟩,
  ⟨12, 0, 0, 352, 1, [⟨32, 32, 0, .rc, .fixed⟩, ⟨0, 32, 0, .rc, .fixed⟩]⟩]

def regTableEvr : List RegRow := [
  ⟨11, 0, 0, 256, 1, [⟨0, 1, 1, .rw, .vola⟩]⟩,
  ⟨11, 0, 0, 264, 1, [⟨63, 1, 0, .ro, .fixed⟩, ⟨62, 1, 0, .ro, .fixed⟩, ⟨61, 1, 0, .ro, .fixed⟩, ⟨0, 32, 0, .ro, .fixed⟩]⟩,
  ⟨11, 0, 0, 272, 1, [⟨62, 2, 0, .rw, .vola⟩, ⟨8, 32, 0, .rw, .vola⟩, ⟨0, 8, 0, .rw, .vola⟩]⟩,
  ⟨11, 0, 0, 280, 1, [⟨56, 8, 0, .wo, .fixed⟩, ⟨0, 56, 0, .wo, .fixed⟩]⟩,
  ⟨11, 0, 0, 288, 1, [⟨0, 64, 0, .rc, .fixed⟩]⟩,
  ⟨11, 0, 0, 296, 1, [⟨0, 64, 0, .rc, .fixed⟩]⟩,
  ⟨11, 0, 0, 304, 1, [⟨0, 64, 0, .rc, .fixed⟩]⟩,
  ⟨11, 0, 0, 312, 1, [⟨0, 64, 0, .rc, .fixed⟩]⟩,
  ⟨11, 0, 0, 512, 64, [⟨0, 64, 0, .ro, .fixed⟩]⟩,
  ⟨11, 1, 1, 256, 256, [⟨0, 1, 1, .rw, .latched⟩]⟩,
  ⟨11, 1, 1, 2304, 1, [⟨0, 8, 0, .rw, .vola⟩]⟩,
  ⟨11, 1, 1, 2312, 1, [⟨0, 64, 0, .ro, .fixed⟩]⟩,
  ⟨11, 1, 1, 2320, 1, [⟨0, 64, 0, .ro, .fixed⟩]⟩,
  ⟨11, 1, 1, 2328, 1, [⟨0, 64, 0, .ro, .fixed⟩]⟩,
  ⟨11, 1, 1, 2336, 1, [⟨0, 64, 0, .ro, .fixed⟩]⟩,
  ⟨11, 2, 2, 256, 4, [⟨0, 64, 0, .ro, .fixed⟩]⟩,
  ⟨11, 2, 2, 288, 1, [⟨3, 45, 0, .wo, .fixed⟩]⟩,
  ⟨11, 2, 2, 296, 1, [⟨63, 1, 0, .ro, .fixed⟩, ⟨60, 3, 0, .ro, .fixed⟩, ⟨32, 16, 0, .ro, .fixed⟩, ⟨0, 7, 0, .ro, .fixed⟩]⟩,
  ⟨11, 2, 2, 304, 1, [⟨0, 6, 0, .rw, .vola⟩]⟩,
  ⟨11, 2, 2, 320, 8, [⟨0, 64, 0, .ro, .fixed⟩]⟩,
  ⟨11, 2, 2, 384, 1, [⟨0, 64, 0, .rc, .fixed⟩]⟩,
  ⟨11, 2, 2, 392, 1, [⟨0, 64, 0, .rc, .fixed⟩]⟩,
  ⟨11, 3, 3, 256, 1, [⟨60, 4, 0, .wo, .fixed⟩]⟩,
  ⟨11, 3, 3, 264, 1, [⟨32, 32, 0, .rw, .vola⟩, ⟨0, 32, 0, .rw, .vola⟩]⟩,
  ⟨11, 3, 3, 272, 6, [⟨0, 64, 0, .rw, .vola⟩]⟩,
  ⟨11, 3, 3, 320, 1, [⟨63, 1, 0, .ro, .fixed⟩, ⟨60, 3, 0, .ro, .fixed⟩]⟩,
  ⟨11, 3, 3, 328, 1, [⟨32, 9, 0, .ro, .fixed⟩, ⟨0, 32, 0, .ro, .fixed⟩]⟩,
  ⟨11, 3, 3, 336, 1, [⟨0, 7, 0, .ro, .fixed⟩]⟩,
  ⟨11, 3, 3, 344, 1, [⟨0, 64, 0, .rc, .fixed⟩]⟩,
  ⟨11, 3, 3, 352, 1, [⟨0, 64, 0, .rc, .fixed⟩]⟩]

def regTableAge : List RegRow := [
  ⟨13, 0, 0, 256, 1, [⟨32, 16, 20, .rw, .latched⟩, ⟨0, 12, 120, .rw, .latched⟩]⟩,
  ⟨13, 0, 0, 264, 1, [⟨16, 16, 0, .ro, .fixed⟩, ⟨0, 16, 0, .ro, .fixed⟩]⟩,
  ⟨13, 0, 0, 272, 1, [⟨0, 16, 0, .ro, .fixed⟩]⟩,
  ⟨13, 0, 0, 280, 1, [⟨0, 32, 0, .ro, .fixed⟩]⟩,
  ⟨13, 0, 0, 288, 1, [⟨63, 1, 0, .ro, .fixed⟩, ⟨24, 12, 0, .ro, .fixed⟩, ⟨12, 12, 0, .ro, .fixed⟩, ⟨0, 12, 0, .ro, .fixed⟩]⟩,
  ⟨13, 0, 0, 296, 1, [⟨0, 64, 0, .rc, .fixed⟩]⟩]

def regTableTst : List RegRow := [
  ⟨42, 0, 0, 256, 1, [⟨48, 4, 0, .rw, .latched⟩, ⟨40, 4, 0, .rw, .latched⟩, ⟨32, 4, 0, .rw, .latched⟩, ⟨8, 4, 0, .rw, .latched⟩, ⟨0, 4, 0, .rw, .latched⟩]⟩,
  ⟨42, 0, 0, 264, 1, [⟨2, 1, 0, .wo, .fixed⟩, ⟨1, 1, 0, .wo, .fixed⟩, ⟨0, 1, 0, .rw, .vola⟩]⟩,
  ⟨42, 0, 0, 272, 1, [⟨60, 4, 0, .ro, .fixed⟩, ⟨56, 4, 0, .w1c, .fixed⟩, ⟨52, 4, 0, .ro, .fixed⟩, ⟨50, 2, 0, .ro, .fixed⟩, ⟨40, 8, 0, .ro, .fixed⟩, ⟨0, 32, 0, .ro, .fixed⟩]⟩,
  ⟨42, 0, 0, 280, 1, [⟨62, 2, 0, .rw, .vola⟩, ⟨58, 4, 4, .rw, .vola⟩, ⟨12, 36, 0, .rw, .vola⟩]⟩,
  ⟨42, 0, 0, 288, 4, [⟨0, 48, 0, .ro, .fixed⟩]⟩,
  ⟨42, 0, 0, 320, 4, [⟨0, 64, 0, .ro, .fixed⟩]⟩]

def regTableHbm : List RegRow := [
  ⟨43, 0, 3, 256, 1, [⟨62, 2, 0, .ro, .fixed⟩, ⟨48, 8, 0, .ro, .fixed⟩, ⟨0, 32, 0, .ro, .fixed⟩]⟩,
  ⟨43, 0, 3, 264, 1, [⟨48, 16, 0, .rc, .fixed⟩, ⟨16, 32, 0, .rc, .fixed⟩]⟩,
  ⟨43, 0, 3, 272, 1, [⟨56, 8, 0, .ro, .fixed⟩, ⟨8, 40, 0, .ro, .fixed⟩, ⟨0, 8, 0, .ro, .fixed⟩]⟩]

def regTableDfm : List RegRow := [
  ⟨33, 0, 7, 256, 1, [⟨12, 36, 0, .rw, .stat⟩]⟩,
  ⟨33, 0, 7, 264, 1, [⟨62, 2, 0, .wo, .fixed⟩]⟩,
  ⟨33, 0, 7, 272, 1, [⟨63, 1, 0, .ro, .fixed⟩, ⟨60, 3, 0, .ro, .fixed⟩, ⟨48, 8, 0, .ro, .fixed⟩, ⟨32, 16, 0, .ro, .fixed⟩]⟩,
  ⟨33, 0, 7, 280, 1, [⟨0, 64, 0, .ro, .fixed⟩]⟩,
  ⟨33, 0, 7, 288, 1, [⟨0, 32, 0, .ro, .fixed⟩]⟩,
  ⟨33, 0, 7, 296, 1, [⟨32, 32, 0, .rc, .fixed⟩, ⟨0, 32, 0, .rc, .fixed⟩]⟩]

/-- Every register row of the head (2,611 of the 2,659 registers; the spec gives no layout for the 48 of NOC). -/
def regTable : List RegRow :=
  regTableBeat ++ regTableAdm ++ regTableIrt ++ regTableRdp ++ regTableMap ++ regTableCtb ++
  regTableRch ++ regTablePfx ++ regTableJnl ++ regTableWrp ++ regTableChk ++ regTableSwx ++
  regTableVat ++ regTableSnp ++ regTableFtl0 ++ regTableFtl1 ++ regTableBnd0 ++ regTableBnd1 ++
  regTableMdl ++ regTableBrk ++ regTableDsl ++ regTableHfi ++ regTableNvt0 ++ regTableNvt1 ++
  regTableLdt0 ++ regTableLdt1 ++ regTableLdt2 ++ regTableLbc ++ regTablePrl0 ++ regTablePrl1 ++
  regTableLse ++ regTableFab ++ regTableRep ++ regTableSec ++ regTableKey ++ regTableMsr ++
  regTableMbx ++ regTableUpd ++ regTableSvc ++ regTablePwr0 ++ regTablePwr1 ++ regTableClk0 ++
  regTableClk1 ++ regTableAon ++ regTableErq ++ regTableEvr ++ regTableAge ++ regTableTst ++
  regTableHbm ++ regTableDfm

end Sys2Proof.Machine
end

