-- ==== Sys2Proof/Machine/Slot.lean ====
section
/-! DEFINITION. The first page slot of each block (Table 2.17), by the block's name, and its block code. -/

namespace Sys2Proof.Machine

/-- First slot of AON. -/
def Slot.AON : Nat := 0
/-- Block code of AON. -/
def Blk.AON : Nat := 0x01
/-- First slot of BEAT. -/
def Slot.BEAT : Nat := 2
/-- Block code of BEAT. -/
def Blk.BEAT : Nat := 0x02
/-- First slot of PWR. -/
def Slot.PWR : Nat := 3
/-- Block code of PWR. -/
def Blk.PWR : Nat := 0x03
/-- First slot of CLK. -/
def Slot.CLK : Nat := 5
/-- Block code of CLK. -/
def Blk.CLK : Nat := 0x04
/-- First slot of NOC. -/
def Slot.NOC : Nat := 7
/-- Block code of NOC. -/
def Blk.NOC : Nat := 0x05
/-- First slot of IRT. -/
def Slot.IRT : Nat := 15
/-- Block code of IRT. -/
def Blk.IRT : Nat := 0x06
/-- First slot of MBX. -/
def Slot.MBX : Nat := 19
/-- Block code of MBX. -/
def Blk.MBX : Nat := 0x07
/-- First slot of SEC. -/
def Slot.SEC : Nat := 23
/-- Block code of SEC. -/
def Blk.SEC : Nat := 0x08
/-- First slot of KEY. -/
def Slot.KEY : Nat := 27
/-- Block code of KEY. -/
def Blk.KEY : Nat := 0x09
/-- First slot of MSR. -/
def Slot.MSR : Nat := 30
/-- Block code of MSR. -/
def Blk.MSR : Nat := 0x0A
/-- First slot of EVR. -/
def Slot.EVR : Nat := 31
/-- Block code of EVR. -/
def Blk.EVR : Nat := 0x0B
/-- First slot of ERQ. -/
def Slot.ERQ : Nat := 35
/-- Block code of ERQ. -/
def Blk.ERQ : Nat := 0x0C
/-- First slot of AGE. -/
def Slot.AGE : Nat := 36
/-- Block code of AGE. -/
def Blk.AGE : Nat := 0x0D
/-- First slot of HFI. -/
def Slot.HFI : Nat := 56
/-- Block code of HFI. -/
def Blk.HFI : Nat := 0x0E
/-- First slot of NVT. -/
def Slot.NVT : Nat := 82
/-- Block code of NVT. -/
def Blk.NVT : Nat := 0x0F
/-- First slot of LDT. -/
def Slot.LDT : Nat := 98
/-- Block code of LDT. -/
def Blk.LDT : Nat := 0x10
/-- First slot of LBC. -/
def Slot.LBC : Nat := 114
/-- Block code of LBC. -/
def Blk.LBC : Nat := 0x11
/-- First slot of ADM. -/
def Slot.ADM : Nat := 116
/-- Block code of ADM. -/
def Blk.ADM : Nat := 0x12
/-- First slot of RDP. -/
def Slot.RDP : Nat := 117
/-- Block code of RDP. -/
def Blk.RDP : Nat := 0x13
/-- First slot of WRP. -/
def Slot.WRP : Nat := 119
/-- Block code of WRP. -/
def Blk.WRP : Nat := 0x14
/-- First slot of JNL. -/
def Slot.JNL : Nat := 121
/-- Block code of JNL. -/
def Blk.JNL : Nat := 0x15
/-- First slot of CHK. -/
def Slot.CHK : Nat := 123
/-- Block code of CHK. -/
def Blk.CHK : Nat := 0x16
/-- First slot of SWX. -/
def Slot.SWX : Nat := 124
/-- Block code of SWX. -/
def Blk.SWX : Nat := 0x17
/-- First slot of MAP. -/
def Slot.MAP : Nat := 126
/-- Block code of MAP. -/
def Blk.MAP : Nat := 0x18
/-- First slot of CTB. -/
def Slot.CTB : Nat := 128
/-- Block code of CTB. -/
def Blk.CTB : Nat := 0x19
/-- First slot of RCH. -/
def Slot.RCH : Nat := 130
/-- Block code of RCH. -/
def Blk.RCH : Nat := 0x1A
/-- First slot of PFX. -/
def Slot.PFX : Nat := 132
/-- Block code of PFX. -/
def Blk.PFX : Nat := 0x1B
/-- First slot of DSL. -/
def Slot.DSL : Nat := 134
/-- Block code of DSL. -/
def Blk.DSL : Nat := 0x1C
/-- First slot of FTL. -/
def Slot.FTL : Nat := 214
/-- Block code of FTL. -/
def Blk.FTL : Nat := 0x1D
/-- First slot of BND. -/
def Slot.BND : Nat := 218
/-- Block code of BND. -/
def Blk.BND : Nat := 0x1E
/-- First slot of MDL. -/
def Slot.MDL : Nat := 222
/-- Block code of MDL. -/
def Blk.MDL : Nat := 0x1F
/-- First slot of BRK. -/
def Slot.BRK : Nat := 254
/-- Block code of BRK. -/
def Blk.BRK : Nat := 0x20
/-- First slot of DFM. -/
def Slot.DFM : Nat := 262
/-- Block code of DFM. -/
def Blk.DFM : Nat := 0x21
/-- First slot of PRL. -/
def Slot.PRL : Nat := 270
/-- Block code of PRL. -/
def Blk.PRL : Nat := 0x22
/-- First slot of LSE. -/
def Slot.LSE : Nat := 274
/-- Block code of LSE. -/
def Blk.LSE : Nat := 0x23
/-- First slot of FAB. -/
def Slot.FAB : Nat := 276
/-- Block code of FAB. -/
def Blk.FAB : Nat := 0x24
/-- First slot of REP. -/
def Slot.REP : Nat := 280
/-- Block code of REP. -/
def Blk.REP : Nat := 0x25
/-- First slot of SNP. -/
def Slot.SNP : Nat := 282
/-- Block code of SNP. -/
def Blk.SNP : Nat := 0x26
/-- First slot of VAT. -/
def Slot.VAT : Nat := 284
/-- Block code of VAT. -/
def Blk.VAT : Nat := 0x27
/-- First slot of UPD. -/
def Slot.UPD : Nat := 286
/-- Block code of UPD. -/
def Blk.UPD : Nat := 0x28
/-- First slot of SVC. -/
def Slot.SVC : Nat := 287
/-- Block code of SVC. -/
def Blk.SVC : Nat := 0x29
/-- First slot of TST. -/
def Slot.TST : Nat := 288
/-- Block code of TST. -/
def Blk.TST : Nat := 0x2A
/-- First slot of HBM. -/
def Slot.HBM : Nat := 352
/-- Block code of HBM. -/
def Blk.HBM : Nat := 0x2B

end Sys2Proof.Machine
end

