-- ==== Sys2Proof/Machine/Ops.lean ====
section
/-! DEFINITION. The shared operations: register fields, pages and units, time, what the head sends, error
conditions with their escalation (chapter 18), lease fencing (R515) and the judging of control-window accesses
(R716). -/

namespace Sys2Proof.Machine

/-- What a meaning answers. -/
abbrev Res := Host.Outcome State Fault Refusal

/-! ### Register fields -/

/-- The value of a register field: what the state lists, or its reset value. -/
def State.get (s : State) (f : Fld) : Nat := AL.getD f.key f.reset s.fields

/-- Write a register field; only its own bits count. -/
def State.set (s : State) (f : Fld) (v : Nat) : State :=
  { s with fields := AL.put f.key (v % 2 ^ f.w) s.fields }

/-- Add to a counter that saturates. -/
def State.satInc (s : State) (f : Fld) (n : Nat) : State := s.set f (satAdd f.w (s.get f) n)

/-- Add to a 64-bit event counter. -/
def State.bump (s : State) (f : Fld) (n : Nat := 1) : State := s.set f (s.get f + n)

/-- Subtract from a count held in a field. -/
def State.drop (s : State) (f : Fld) (n : Nat) : State := s.set f (s.get f - n)

/-- Set a list of fields in turn. -/
def State.setAll (s : State) : List (Fld × Nat) → State
  | [] => s
  | (f, v) :: t => (s.set f v).setAll t

/-- A fresh free value of `w` bits (log entry 5). -/
def State.free (s : State) (w : Nat) : Nat × State :=
  ((Config.freeValue s.freshCount).toNat % 2 ^ w, { s with freshCount := s.freshCount + 1 })

/-! ### The page directory (Table 2.17, R102, R103) -/

/-- (block code, units, pages of each, first slot) of Table 2.17. -/
def directory : List (Nat × Nat × Nat × Nat) :=
  [(0x01, 1, 2, 0), (0x02, 1, 1, 2), (0x03, 1, 2, 3), (0x04, 1, 2, 5), (0x05, 1, 8, 7), (0x06, 1, 4, 15),
   (0x07, 1, 4, 19), (0x08, 1, 4, 23), (0x09, 1, 3, 27), (0x0A, 1, 1, 30), (0x0B, 1, 4, 31), (0x0C, 1, 1, 35),
   (0x0D, 20, 1, 36), (0x0E, 2, 13, 56), (0x0F, 2, 8, 82), (0x10, 2, 8, 98), (0x11, 1, 2, 114), (0x12, 1, 1, 116),
   (0x13, 1, 2, 117), (0x14, 1, 2, 119), (0x15, 1, 2, 121), (0x16, 1, 1, 123), (0x17, 1, 2, 124), (0x18, 1, 2, 126),
   (0x19, 1, 2, 128), (0x1A, 1, 2, 130), (0x1B, 1, 2, 132), (0x1C, 16, 5, 134), (0x1D, 1, 4, 214), (0x1E, 1, 4, 218),
   (0x1F, 2, 16, 222), (0x20, 1, 8, 254), (0x21, 1, 8, 262), (0x22, 1, 4, 270), (0x23, 1, 2, 274), (0x24, 1, 4, 276),
   (0x25, 1, 2, 280), (0x26, 1, 2, 282), (0x27, 1, 2, 284), (0x28, 1, 1, 286), (0x29, 1, 1, 287), (0x2A, 64, 1, 288),
   (0x2B, 4, 4, 352)]

/-- The block code, unit number and page number of a slot; none where the slot holds no page (R63). -/
def pageOf (slot : Nat) : Option (Nat × Nat × Nat) :=
  (directory.find? (fun (_, u, p, f) => decide (f ≤ slot) && decide (slot < f + u * p))).map
    (fun (c, _, p, f) => (c, (slot - f) / p, (slot - f) % p))

/-- A block's unit as a key: code and unit number. -/
def unitKey (code i : Nat) : Nat := code * 256 + i

/-- The key of the unit whose page a slot holds. -/
def slotUnit (slot : Nat) : Option Nat := (pageOf slot).map (fun (c, i, _) => unitKey c i)

/-- The slots of a unit's pages. -/
def unitSlots (code i : Nat) : List Nat :=
  match directory.find? (fun (c, _, _, _) => c == code) with
  | some (_, _, p, f) => (List.range p).map (fun k => f + i * p + k)
  | none => []

/-- The power domain of a slot's page (Table 2.17, R103). -/
def slotDomain (slot : Nat) : Nat :=
  match pageOf slot with
  | none => 0
  | some (c, i, _) =>
    if c = 0x01 || c = 0x03 || c = 0x04 || c = 0x23 then 0
    else if c = 0x08 || c = 0x09 || c = 0x0A || c = 0x28 then 1
    else if c = 0x29 then 2
    else if c = 0x0D then i
    else if c = 0x0E || c = 0x0F || c = 0x10 then 14 + i
    else if c = 0x17 || c = 0x18 || c = 0x19 || c = 0x1A then 9
    else if c = 0x1C then 10 + i / 4
    else if c = 0x1D || c = 0x1E || c = 0x20 || c = 0x21 then 8
    else if c = 0x1F then 16 + i
    else if c = 0x22 then 18
    else if c = 0x2A then
      (if i < 12 then 14 else if i < 24 then 15 else if i < 40 then 16 else if i < 56 then 17 else 18)
    else if c = 0x2B then 19
    else 3

/-- Secure pages (Table 2.17). -/
def slotSecure (slot : Nat) : Bool :=
  slot == 1 || slot == 19 || (decide (23 ≤ slot) && decide (slot ≤ 29)) || slot == 34 || slot == 286 || slot == 287

/-! ### Pages and units -/

/-- A page's header. -/
def State.hdr (s : State) (slot : Nat) : PageHdr := AL.getD slot {} s.pages

/-- Change a page's header. -/
def State.modHdr (s : State) (slot : Nat) (f : PageHdr → PageHdr) : State :=
  { s with pages := AL.upd slot {} f s.pages }

/-- A unit's enable and quiesce bits. -/
def State.unit (s : State) (key : Nat) : BlockUnit := AL.getD key {} s.units

/-- Set a unit's bits. -/
def State.setUnit (s : State) (key : Nat) (u : BlockUnit) : State := { s with units := AL.put key u s.units }

/-- Whether a unit is enabled and accepts new work (R73). -/
def State.accepts (s : State) (code i : Nat) : Bool :=
  (s.unit (unitKey code i)).enable && !(s.unit (unitKey code i)).quiesce

/-- Set an interrupt source bit of a page. -/
def State.irq (s : State) (slot bit : Nat) : State :=
  s.modHdr slot (fun h => { h with irqStat := h.irqStat ||| (2 ^ bit) })

/-- Clear an interrupt source bit of a page. -/
def State.irqOff (s : State) (slot bit : Nat) : State :=
  s.modHdr slot (fun h => { h with irqStat := if bitOf h.irqStat bit then h.irqStat - 2 ^ bit else h.irqStat })

/-- Drive a read-only interrupt source bit. -/
def State.irqIs (s : State) (slot bit : Nat) (b : Bool) : State := if b then s.irq slot bit else s.irqOff slot bit

/-- State code of a domain (Table 17.1: 3 ON, 2 IDLE, 1 RET, 0 OFF). -/
def State.dom (s : State) (d : Nat) : Nat := s.get (F.PWR_DOM_STAT_STATE d)

/-- Whether a domain is ON or IDLE and not between states. -/
def State.domUp (s : State) (d : Nat) : Bool :=
  decide (2 ≤ s.dom d) && s.get (F.PWR_DOM_STAT_MOVING d) == 0

/-! ### Time (R14, R17, R20) -/

/-- The time base in nanoseconds. -/
def State.tb (s : State) : Nat := s.time.tbFx / 65536 % 2 ^ 64

/-- The fraction of the time base. -/
def State.tbFrac (s : State) : Nat := s.time.tbFx % 65536

/-- The beat number (R17). -/
def State.beat (s : State) : Nat := s.tb / 8000 % 2 ^ 48

/-- Bits 31:0 of the beat number, as most registers record it. -/
def State.beat32 (s : State) : Nat := s.beat % 2 ^ 32

/-- K1 cycles since power-on: K1 is the 25 MHz oscillator and K2 its 20-fold. -/
def State.k1 (s : State) : Nat := s.time.k2 / 20

/-- Wall time (R20). -/
def State.wall (s : State) : Nat := (s.tb + s.get F.BEAT_WALL_OFS_NS) % 2 ^ 64

/-! ### Modes and what leaves the head -/

/-- The code of a mode in `LSE_MODE.MODE`. -/
def Mode.code : Mode → Nat
  | .off => 0 | .boot => 1 | .service => 2 | .paired => 3 | .solo => 4 | .doze => 5 | .vault => 6 | .fenced => 7

/-- The mode of a code. -/
def Mode.ofCode : Nat → Mode
  | 1 => .boot | 2 => .service | 3 => .paired | 4 => .solo | 5 => .doze | 6 => .vault | 7 => .fenced | _ => .off

/-- The head's mode (R500). -/
def State.mode (s : State) : Mode := Mode.ofCode (s.get F.LSE_MODE_MODE)

/-- This head's side: 0 A, 1 B. -/
def State.side (s : State) : Nat := s.pair.side % 2

/-- A reset holds every domain but D0 (R698, R699, R721). -/
def State.inReset (s : State) : Bool := s.pins.porstLow || s.pins.srstLow || s.pins.internalHeld

/-- `HEAD_ALIVE` is high in PAIRED and SOLO (R703), low in a reset and after a trip (Table 19.8, R707). -/
def State.headAlive (s : State) : Bool := (s.mode == .paired || s.mode == .solo) && !s.pins.tripped && !s.inReset

/-- The media fence of a shard is closed (`LSE_FENCE`). -/
def State.fenceBits (s : State) (sh : Nat) : Nat := if sh = 0 then s.get F.LSE_FENCE_A else s.get F.LSE_FENCE_B

/-- Peer messages that FENCED allows (R503): HELLO, MODE, BEAT_MARK, BEAT_REPLY, MAILBOX. -/
def peerAllowedFenced (k : Nat) : Bool := k == 1 || k == 2 || k == 3 || k == 4 || k == 0x20

/-- Peer messages that the mirror fence of every shard stops (R515): MIRROR, ENTRY, HORIZON. -/
def peerMirrorKind (k : Nat) : Bool := k == 0x10 || k == 9 || k == 0xA

/-- Brick messages that FENCED allows (R503): GET_OWNER, IDENT_GET, READ. -/
def brickAllowedFenced (k : Nat) : Bool := k == 1 || k == 6 || k == 9

/-- Whether a message may leave (R503, R513, R515). In FENCED, HFI sends no frame, MDL, PRL and LSE only what R503
names, in flits (kinds from 0x100 on are the links' own); HFI sends nothing in OFF, DOZE and VAULT either, and its stop at a fence point is that of FENCED, since a head that has
released its leases still serves its hosts as Table 10.10 has it (log entry 139); after a HELLO mismatch PRL sends only HELLO. -/
def State.maySend (s : State) (d : Dest) (k : Nat) : Bool :=
  match d with
  | .peer =>
    if 0x100 ≤ k then true
    else if s.get F.PRL_PAIR_STAT_MISMATCH = 1 then k == 1
    else if s.mode == .fenced then peerAllowedFenced k
    else !(peerMirrorKind k && bitOf (s.fenceBits 0) 0 && bitOf (s.fenceBits 1) 0)
  | .witness => s.mode != .fenced || k == 5
  | .brick _ => s.mode != .fenced || decide (0x100 ≤ k) || brickAllowedFenced k
  | .tcp _ | .ldt _ | .port _ => s.mode == .boot || s.mode == .service || s.mode == .paired || s.mode == .solo
  | _ => true

/-- Send what may leave; the state lists what was sent, newest first (log entry 4). -/
def State.sendOut (s : State) (o : Out) : State := if s.maySend o.dest o.kind then { s with sent := o :: s.sent } else s

/-- Send a message. -/
def State.send (s : State) (d : Dest) (k : Nat) (args : List Nat) : State := s.sendOut { dest := d, kind := k, args := args }

/-- Answer a control-window read, on the read bus (log entry 4). -/
def State.answer (s : State) (v : Nat) : State := { s with busData := BitVec.ofNat 64 v }

/-! ### Messages to the peer (R509, R510) -/

/-- Data bytes of a message: a record's descriptor and unit for MIRROR, SYNC_DATA and REC_DATA, a page and its header for
PAGE_DATA, else what does not fit the two argument words (log entry 52). -/
def peerLen (mtype : Nat) (args : List Nat) : Nat :=
  if mtype = 0x10 ∨ mtype = 0x13 ∨ mtype = 0x15 ∨ mtype = 0x16 then 4160 else 8 * (args.length - 2)

/-- A bundle of the peer link is ACTIVE. -/
def State.bundleActive (s : State) (b : Nat) : Bool := s.get (F.PRL_BUNDLE_STAT_STATE b) == 4

/-- The control bundle: the lowest-numbered in ACTIVE (R510). -/
def State.ctlBundle (s : State) : Option Nat := [0, 1].find? (fun b => s.bundleActive b)

/-- One end of a bundle. -/
def State.bundle (s : State) (b : Nat) : Bundle := AL.getD b {} s.pair.bundles

/-- Change it. -/
def State.modBundle (s : State) (b : Nat) (f : Bundle → Bundle) : State :=
  { s with pair := { s.pair with bundles := AL.upd b {} f s.pair.bundles } }

/-- The bundle a message of a class begins on: CONTROL and MAILBOX take the control bundle, the others the ACTIVE bundle
with fewer messages in flight (R510; log entry 53). -/
def State.pickBundle (s : State) (cls : Nat) : Option Nat :=
  match s.ctlBundle with
  | none => none
  | some b => if cls = 0 ∨ cls = 4 ∨ b = 1 ∨ !s.bundleActive 1 then some b
    else if (s.bundle 1).inFlight.length < (s.bundle 0).inFlight.length then some 1 else some 0

/-- Bits of a peer flit. -/
def peerFlitBits : Nat := 8 * 1088

/-- A flit as it leaves a bundle: coded, with the latest `ACK`, and scrambled (R506 to R508). -/
def State.bundleFlit (s : State) (b typ start seq credits slots : Nat) : State :=
  let (k, st) := scramble peerFlitBits (s.bundle b).scrTx
  (s.modBundle b (fun x => { x with scrTx := st, sent := x.sent + 1 })).send .peer 0x105
    [b, peerFlitOut typ start 1 (((s.bundle b).rxExp + 65535) % 65536) seq credits slots ^^^ k]

/-- A SKIP flit follows every 4,095 others (R313, R505). -/
def State.bundleSkip (s : State) (b : Nat) : State :=
  if (s.bundle b).sent < 4095 then s else (s.bundleFlit b 3 63 0 0 0).modBundle b (fun x => { x with sent := 0 })

/-- Send a flit on a bundle. -/
def State.putPeer (s : State) (b typ start seq credits slots : Nat) : State := (s.bundleFlit b typ start seq credits slots).bundleSkip b

/-- Send the next DATA flit of a bundle: it is numbered, and held until it is acknowledged (R319, R508). -/
def State.putPeerData (s : State) (b start slots : Nat) : State :=
  let q := (s.bundle b).txSeq
  (s.modBundle b (fun x => { x with txSeq := q + 1, held := x.held ++ [(q, start, slots)] })).putPeer b 1 start (q % 65536) 0 slots

/-- Return receive slots of a class to the peer (R509): an IDLE flit on the control bundle carries them, up to twice 8,191 (Table 12.3). -/
def State.peerReturn (s : State) (cls n : Nat) : State :=
  let s := s.send .peer 0x104 [cls, n]
  match s.ctlBundle with
  | none => s
  | some b => (List.range ((n + 16381) / 16382)).foldl (fun (s : State) i =>
      let k := min 16382 (n - 16382 * i)
      s.putPeer b 0 63 0 ((cls * 2 ^ 13 + min k 8191) * 2 ^ 48 + (cls * 2 ^ 13 + (k - 8191)) * 2 ^ 32) 0) s

/-- The bytes of a message as one number: its header, `TAG` its first argument, then its data: the words that do not fit the header's, and
of one that carries a unit or page that at byte 64 (Table 12.4; log entry 52). -/
def PeerMsg.image (m : PeerMsg) : Nat :=
  let len := peerLen m.mtype m.args
  let words (l : List Nat) : Nat := l.foldr (fun w a => w % 2 ^ 64 + a * 2 ^ 64) 0
  let head := words [m.mtype * 2 ^ 56 + m.cls * 2 ^ 53 + len, m.cseq * 2 ^ 32 + m.args.getD 0 0 % 2 ^ 32, m.args.getD 0 0, m.args.getD 1 0]
  let data := if len = 4160 then words ((m.args.drop 2).dropLast.take 8) + m.args.getLastD 0 % 256 ^ 4096 * 256 ^ 64 else words (m.args.drop 2)
  head + data * 256 ^ 32

/-- Begin a message on a bundle: it runs through the slots of the flits that follow those sent, the last filled up with padding, and its
credits are in use until the peer returns them (R508, R509; log entry 175). -/
def State.peerBegin (s : State) (b : Nat) (m : PeerMsg) : State :=
  let n := (m.slots + 31) / 32
  let last := (s.bundle b).txSeq + n - 1
  let s := s.modBundle b (fun x => { x with
    ackBeat := if x.ackedTo = x.txSeq then s.beat else x.ackBeat
    inFlight := x.inFlight ++ [{ m with last := last, again := false }] })
  let s := (List.range n).foldl (fun (s : State) i => s.putPeerData b (if i = 0 then 0 else 63) (m.image / 256 ^ (1024 * i) % 256 ^ 1024)) s
  let s := s.send .peer m.mtype (m.cls :: m.cseq :: m.args)
  let s : State := { s with pair := { s.pair with credUsed := AL.upd m.cls 0 (fun n => n + m.slots) s.pair.credUsed } }
  s.drop (F.PRL_CREDIT_AVAIL m.cls) m.slots

/-- Begin what waits and can now begin, with credits for all its slots and room in the replay buffer of 4,096 flits (R508,
R509); within a class order is kept. -/
def State.peerPump (s : State) : State :=
  let go : State × List Nat → PeerMsg → State × List Nat := fun a m =>
    if a.2.contains m.cls ∨ !a.1.maySend .peer m.mtype then a
    else match a.1.pickBundle m.cls with
      | none => (a.1, a.2 ++ [m.cls])
      | some b =>
        if a.1.get (F.PRL_CREDIT_AVAIL m.cls) < m.slots ∨ (a.1.bundle b).ackedTo + 4096 < (a.1.bundle b).txSeq + (m.slots + 31) / 32 then
          (a.1, a.2 ++ [m.cls])
        else ({ a.1 with pair := { a.1.pair with waitQ := a.1.pair.waitQ.filter (fun x => !(x.cls == m.cls && x.cseq == m.cseq)) } }.peerBegin b m, a.2)
  (s.pair.waitQ.foldl go (s, [])).1

/-- Send a message to the peer, counted where its kind is, with the next `CSEQ` of its class (Table 12.4): it begins once the class has credits and a
bundle is ACTIVE (R509). With no bundle ACTIVE and no peer that has been reachable it goes nowhere. -/
def State.sendPeer (s : State) (mtype cls : Nat) (args : List Nat) : State :=
  if s.maySend .peer mtype && (s.ctlBundle.isSome || s.pair.everReachable) then
    let q := AL.getD cls 0 s.pair.cseqTx
    let s := if mtype = 0xE then s.bump F.PRL_CNT_SWX_Q_COUNT else if mtype = 0x14 then s.bump F.PRL_CNT_PAGE_REQ_COUNT
      else if mtype = 0x12 then s.bump F.PRL_CNT_REC_FETCH_COUNT else s
    let m : PeerMsg := { cls := cls, cseq := q, mtype := mtype, slots := 1 + (peerLen mtype args + 31) / 32, args := args }
    let s : State := { s with pair := { s.pair with cseqTx := AL.put cls ((q + 1) % 2 ^ 32) s.pair.cseqTx, waitQ := s.pair.waitQ ++ [m] } }
    (s.bump (F.PRL_MSG_CNT_TX_COUNT cls)).peerPump
  else s

/-! ### The event recorder's samples (R676, R677) -/

/-- The bin of a value (R677). -/
def evrBin (v : Nat) : Nat := if v = 0 then 0 else min 31 (Nat.log2 v + 1)

/-- Add a value to a metric record (R677, Table 18.5). -/
def EvrRec.add (r : EvrRec) (v beat : Nat) : EvrRec :=
  { r with
    bins := AL.upd (evrBin v) 0 (fun n => min (2 ^ 32 - 1) (n + 1)) r.bins
    count := r.count + 1
    sum := min (2 ^ 64 - 1) (r.sum + v)
    minV := if r.count = 0 || v < r.minV then v else r.minV
    minBeat := if r.count = 0 || v < r.minV then beat else r.minBeat
    maxV := if r.count = 0 || v > r.maxV then v else r.maxV
    maxBeat := if r.count = 0 || v > r.maxV then beat else r.maxBeat }

/-- Sample a metric while `EVR_CFG.EN` and its own enable are set (R676). -/
def State.sample (s : State) (m v : Nat) : State :=
  if s.get F.EVR_CFG_EN = 1 ∧ s.get (F.EVR_MET_CFG_EN m) = 1 then
    { s with health := { s.health with cur := AL.upd m {} (fun r => r.add v s.beat) s.health.cur } }
  else s

/-! ### Leases and the way to FENCED (R503, R515, R671, R672) -/

/-- A shard's lease is held or renewing. -/
def State.leaseHeld (s : State) (sh : Nat) : Bool :=
  s.get (F.LSE_SHARD_STATE sh) == 2 || s.get (F.LSE_SHARD_STATE sh) == 3

/-- The head holds a lease in the sense of chapter 17: acquiring, held, renewing or releasing. -/
def State.anyLease (s : State) : Bool :=
  [0, 1].any (fun sh => let v := s.get (F.LSE_SHARD_STATE sh); decide (1 ≤ v) && decide (v ≤ 4))

/-- Set a lease state; any change sets `LEASE_CHANGE`. -/
def State.setLease (s : State) (sh v : Nat) : State :=
  if s.get (F.LSE_SHARD_STATE sh) = v then s else (s.set (F.LSE_SHARD_STATE sh) v).irq 274 2

/-- Close or open the three fences of a shard. -/
def State.setFence (s : State) (sh v : Nat) : State :=
  if sh = 0 then s.set F.LSE_FENCE_A v else s.set F.LSE_FENCE_B v

/-- Close MDL, HFI and PRL for a shard and count the fence (R515). -/
def State.fence (s : State) (sh : Nat) : State :=
  let s := (s.setFence sh 7).bump F.LSE_CNT_FENCE_COUNT
  { s.setLease sh 5 with pair := { s.pair with leases := AL.upd sh {} (fun l => { l with req := 0, waitUntil := none }) s.pair.leases } }

/-- Fence a held lease as a loss with its cause (Table 12.16). -/
def State.fenceLoss (s : State) (sh cause deny : Nat) : State :=
  if s.leaseHeld sh then
    (s.fence sh).setAll [(F.LSE_LAST_LOSS_CAUSE, cause), (F.LSE_LAST_LOSS_SHARD, sh), (F.LSE_LAST_LOSS_DENY, deny),
      (F.LSE_LAST_LOSS_BEAT, s.beat32)]
  else s

/-- Fence every lease held. -/
def State.fenceAll (s : State) (cause : Nat) : State := (s.fenceLoss 0 cause 0).fenceLoss 1 cause 0

/-- A write of `PAGE_LOCK` that the bus lets through (Table 2.16): `WRITERS` takes effect while the page is not locked;
`LOCKED` only sets. -/
def State.pageLock (s : State) (slot writers : Nat) (lock : Bool) : State :=
  s.modHdr slot (fun h => { h with
    writers := if h.locked then h.writers else writers % 128
    locked := h.locked || lock })

/-- `WRITERS` of each page as SEC locks it before BOOT ends (R101): bits 1 management, 2 application, 3 media, 5 SVC,
6 JTAG of the lock groups. -/
def bootWriters (slot : Nat) : Nat :=
  if slotSecure slot then 0
  else match pageOf slot with
    | none => 0
    | some (c, _, p) =>
      if c = Blk.AON || c = Blk.PWR || c = Blk.CLK || c = Blk.NOC || c = Blk.LSE || c = Blk.AGE || c = Blk.HBM
          || c = Blk.PRL then 0x01
      else if c = Blk.FTL || c = Blk.BND || c = Blk.MDL || c = Blk.BRK || c = Blk.DFM then 0x05
      else if (c = Blk.IRT && p = 0) || (c = Blk.MBX) then 0x07
      else if c = Blk.TST then 0x33
      else 0x03

/-- SEC locks every page (R101). -/
def State.lockAllPages (s : State) : State :=
  (List.range 368).foldl (fun s p => s.pageLock p (bootWriters p) true) s

/-- Change the mode and report it (R500); the mailbox bindings and every page are locked as the head leaves BOOT (R602, R101);
FENCED recovery ends in PAIRED and SOLO (R672). -/
def State.setMode (s : State) (m : Mode) : State :=
  if s.mode = m then s else
  let s1 := (s.setAll [(F.LSE_MODE_PREV, s.get F.LSE_MODE_MODE), (F.LSE_MODE_MODE, m.code),
    (F.LSE_MODE_BEAT, s.beat32)]).irq 274 1
  let s2 := if s.mode = .boot then (s1.set F.MBX_BIND_LOCK_LOCKED 1).lockAllPages else s1
  if m = .paired ∨ m = .solo then s2.set F.ERQ_STAT_RECOVERY 0 else s2

/-- Requests that an entry to FENCED or VAULT leaves alone: digest jobs and HMAC passes (R719). -/
def Req.internalOnly (r : Req) : Bool := r.kind == .digest || r.kind == .hmac

/-- A chunk whose data units a slice still holds: it is being decided, compressed or encrypted (R386). -/
def CJob.unstored (x : CJob) : Bool :=
  match x.stage with
  | .decide | .peerAsked | .recipeLoad _ | .compress => true
  | .placed => x.rsv == 0
  | _ => false

/-- What the slices' jobs hold is zeroed and each zeroing counted (R370); a chunk that was not yet stored is chunked anew from its
records (R394). -/
def State.zeroJobs (s : State) : State :=
  let gone := s.write.jobs.filter (fun q => q.2.unstored)
  let s := s.slices.foldl (fun (s : State) q => if q.2.staged = [] then s else s.bump (F.DSL_CPH_CNT_ZERO_COUNT q.1) q.2.staged.length) s
  { s with
    slices := AL.mapV (fun _ x => { x with staged := [], segs := [], booked := [], infl := [], defl := [] }) s.slices
    write := { s.write with
      jobs := s.write.jobs.filter (fun q => !q.2.unstored)
      recs := AL.mapV (fun k j => if gone.any (fun q => q.2.slots.contains k) then { j with chunked := false } else j) s.write.recs } }

/-- Every LDT connection ends silently when the head enters FENCED, VAULT or OFF (R475): nothing is sent, its number is free, its keys
are asked to be removed (R358), and its association's deferred notices go (R215). What was asked over it of another head is forgotten. -/
def State.ldtSilent (s : State) : State :=
  let s := { s with
    ldt := { s.ldt with conns := AL.mapV (fun _ x => { reuse := x.reuse }) s.ldt.conns, slots := [], acceptQ := [] }
    fab := { s.fab with conns := [], out := [] }
    sec := { s.sec with handles := AL.mapV (fun h k => if h / 2 ^ 28 = 4 then { k with removing := true } else k) s.sec.handles }
    write := { s.write with
      writers := AL.mapV (fun _ x => { x with assocs := x.assocs.filter (fun a => decide (a < 0x100000)) }) s.write.writers
      notices := s.write.notices.filter (fun n => decide (n.1 < 0x100000)), noticesOvf := s.write.noticesOvf.filter (fun a => decide (a < 0x100000)) } }
  (s.irqIs (Slot.LDT + 1) 1 false).irqIs (Slot.LDT + 9) 1 false

/-- What R719 and Tables 3.11 and 4.10 end at an entry to FENCED or VAULT: every other request ends without completion
and holds nothing; landed records that have not entered are discarded (R184); nothing waits in the slow path (R113); LDT connections
end (R475). -/
def State.endWork (s : State) : State :=
  let s := s.ldtSilent.zeroJobs.irqIs Slot.RDP 1 false
  let gone := s.adm.reqs.filter (fun p => !p.2.internalOnly)
  let back (n : Nat) : Nat := (gone.map (fun p => (AL.getD n 0 p.2.held))).sum +
    (if n = 4 then (s.adm.egress.map (·.slots)).sum else if n = 3 then (s.adm.leaving.map (·.units)).sum else 0)
  let s := { s with
    adm := { s.adm with reqs := s.adm.reqs.filter (fun p => p.2.internalOnly), reserveUsed := 0, egress := [], leaving := [] }
    read := { s.read with fetches := [], slowQ := [] }
    ftl := { s.ftl with moves := [], movers := [] }
    write := { s.write with recs := s.write.recs.filter (fun p => !(p.2.own && p.2.state == 1)), rsv := [], ranges := [] } }
  let s := (List.range 8).foldl (fun s n => s.drop (F.ADM_POOL_USED n) (back n)) s
  s.setAll [(F.ADM_LOAD_WAITING, (s.adm.reqs.filter (fun p => p.2.stage == .waiting)).length),
    (F.RDP_STAT_SLOW_WAIT, 0), (F.RDP_STAT_RECON_ACTIVE, 0), (F.RDP_STAT_RECON_QUEUED, 0),
    (F.RDP_HAZ_STAT_HELD, 0), (F.RDP_HAZ_STAT_ENTRIES, 0), (F.JNL_MIRROR_STAT_INFLIGHT, 0),
    (F.WRP_STAT_WAIT_ENTRY, 0), (F.WRP_SPACE_RSV_UNITS, 0), (F.JNL_RANGE_STAT_USED, 0)]

/-- Enter FENCED with the condition that caused it (R503, R672, R719). -/
def State.enterFenced (s : State) (cond : Nat) : State :=
  (((s.setMode .fenced).set F.LSE_MODE_REASON cond).set F.ERQ_STAT_RECOVERY 1).endWork

/-- A lease held is lost with a condition (R515): its fences close, and the head enters FENCED. -/
def State.loseLease (s : State) (sh cause deny cond : Nat) : State :=
  if s.leaseHeld sh then
    let s := s.fenceLoss sh cause deny
    if s.mode == .boot || s.mode == .paired || s.mode == .solo then s.enterFenced cond else s
  else s

/-- The boot chain has not started Derist firmware (R671). -/
def State.beforeFirmware (s : State) : Bool := s.mode == .boot && decide (s.get F.SEC_BOOT_STAT_STAGE ≤ 1)

/-- A FATAL raise (R671). -/
def State.fatal (s : State) (cond : Nat) : State :=
  let s := (s.set F.ERQ_STAT_FATAL 1).irq 35 2
  if s.beforeFirmware then { s with health := { s.health with bootHalted := true } }
  else if s.mode == .vault then s
  else
    let s := s.fenceAll 4
    if s.mode == .boot || s.mode == .paired || s.mode == .solo then
      let s := s.enterFenced cond
      { s with health := { s.health with fatalDue := s.health.fatalDue ++ [s.beat + 1024] } }
    else s

/-- An UNCONTAINED or FATAL raise during FENCED recovery (R672). -/
def State.recoveryRaise (s : State) (cond sev : Nat) : State :=
  let s := s.set F.ERQ_STAT_HOLD 1
  if sev = 6 then s
  else if s.mode == .boot then
    (if s.beforeFirmware then { s with health := { s.health with bootHalted := true } }
     else (s.fenceAll 4).enterFenced cond)
  else s

/-! ### Conditions (R83 to R86, R664 to R669) -/

/-- A condition's base severity, bits 7:5 of its value (R664). -/
def baseSeverity (cond : Nat) : Nat := cond / 32 % 8

/-- Every unacknowledged entry of the head, with its slot. -/
def State.entries (s : State) : List (Nat × ErrEntry) :=
  s.pages.flatMap (fun p => p.2.errq.map (fun e => (p.1, e)))

/-- The highest severity among unacknowledged entries at or above `SUM_MIN` (R669). -/
def State.worst (s : State) : Nat :=
  ((s.entries.filter (fun p => s.get F.ERQ_CFG_SUM_MIN ≤ p.2.severity)).map (fun p => p.2.severity)).foldl max 0

/-- An entry of BLOCK or higher severity of the slot's unit is being handled (R667, R668). -/
def State.unitHandling (s : State) (slot : Nat) : Bool :=
  s.entries.any (fun p => slotUnit p.1 == slotUnit slot && p.2.handled && decide (4 ≤ p.2.severity))

/-- The severity a raise takes, and whether escalation moved it (R666, R668). -/
def State.escalate (s : State) (slot sev : Nat) : Nat × Bool :=
  let r := if sev = 4 ∧ s.unitHandling slot then (5, true)
    else if sev = 5 ∧ s.entries.any (fun p => decide (5 ≤ p.2.severity)) then (6, true)
    else (sev, false)
  if 5 ≤ r.1 ∧ 8 ≤ (s.hdr slot).errq.length then (6, r.2) else r

/-- Put a raised condition on its page: the queue or the overflow count, and the captures (R83, R84, R86). -/
def PageHdr.record (h : PageHdr) (e : ErrEntry) (info : Nat) : PageHdr :=
  let cap : ErrCap := ⟨true, e.cond, e.severity, e.escalated, e.beat, 0, info⟩
  { h with
    errq := if h.errq.length < 8 then h.errq ++ [e] else h.errq
    errqOvf := if h.errq.length < 8 then h.errqOvf else satAdd 16 h.errqOvf 1
    first := if h.first.valid then h.first else cap
    last := cap }

/-- Drive `ERQ_STAT` from the queues; a rise of `WORST` sets its interrupt source (R669, R687). -/
def State.erqUpdate (s : State) (before : Nat) : State :=
  let w := s.worst
  let s := s.setAll [(F.ERQ_STAT_WORST, w),
    (F.ERQ_STAT_UNC, min 255 ((s.entries.filter (fun p => p.2.severity == 5)).length)),
    (F.ERQ_STAT_HANDLING, (s.entries.filter (fun p => p.2.handled)).length)]
  if before < w then s.irq 35 1 else s

/-- Raise a condition on a page at a given base severity: queueing, escalation, captures, the event recorder, and at
FATAL the way to FENCED (R664 to R672). -/
def State.raiseAt (s : State) (slot cond info sev0 : Nat) : State :=
  let r := s.escalate slot sev0
  let full := decide (8 ≤ (s.hdr slot).errq.length)
  let w0 := s.worst
  let e : ErrEntry := ⟨cond, r.1, r.2, s.beat32, false⟩
  let s1 := s.modHdr slot (fun h => h.record e info)
  let s1 := s1.satInc F.ERQ_CNT_RAISED 1
  let s1 := if r.2 then s1.satInc F.ERQ_CNT_ESCALATED 1 else s1
  let s1 := if 5 ≤ r.1 ∧ !s1.health.headFirst.valid then
      { s1 with health := { s1.health with headFirst := ⟨true, cond, r.1, r.2, s.beat32, slot, info⟩ } } else s1
  let s1 := (s1.erqUpdate w0).sample (42 + r.1) slot
  let s1 := if full then s1.sample 49 slot else s1
  let rec0 := s1.get F.ERQ_STAT_RECOVERY
  let s2 := if r.1 = 6 then s1.fatal cond else s1
  if 5 ≤ r.1 ∧ rec0 = 1 then s2.recoveryRaise cond r.1 else s2

/-- Raise a condition at its base severity (R666). -/
def State.raise (s : State) (slot cond : Nat) (info : Nat := 0) : State := s.raiseAt slot cond info (baseSeverity cond)

/-! ### Domains (R638, R639, R82) -/

/-- Every register of a domain's pages returns to its reset value, and its pages and units with them; `PAGE_LOCK` alone is
kept (R82). -/
def State.domRegsLost (s : State) (d : Nat) : State :=
  let mine (slot : Nat) : Bool := slotDomain slot == d
  let units := ((List.range 368).filter mine).filterMap slotUnit
  let w0 := s.worst
  let s := { s with
    fields := s.fields.filter (fun p => !mine (p.1 / 64 / 4096))
    shadows := s.shadows.filter (fun p => !mine (p.1 / 64 / 4096))
    pages := s.pages.map (fun (p : Nat × PageHdr) => if mine p.1 then (p.1, { locked := p.2.locked, writers := p.2.writers }) else p)
    units := s.units.filter (fun p => !units.contains p.1)
    pwr := { s.pwr with blank := (s.pwr.blank ++ units).eraseDups } }
  s.erqUpdate w0

/-- A cached metadata page as a lost cache leaves it: only what flash holds of it. -/
def MetaPage.cold (p : MetaPage) : MetaPage := { onFlash := p.onFlash, band := p.band, offset := p.offset, stamp := p.stamp }

/-- Recipe pages once their cache is lost: those written back, on flash. -/
def coldRecipes (l : List (Nat × RcpPage)) : List (Nat × RcpPage) :=
  (l.filter (fun p => !p.2.isOpen && !p.2.dirty)).map (fun p => (p.1, { p.2 with resident := false }))

/-- A reset of a unit of D9, or its domain in OFF, loses the cache whose counts its registers show, which read as at reset from then
on (R76, R82; log entry 93). -/
def State.cachesLost (s : State) (c : Nat) : State :=
  if c = Blk.MAP then { s with read := { s.read with mapPages := AL.mapV (fun _ p => p.cold) s.read.mapPages } }
  else if c = Blk.CTB then { s with read := { s.read with ctbPages := AL.mapV (fun _ p => p.cold) s.read.ctbPages } }
  else if c = Blk.RCH then { s with read := { s.read with rch := [], rchHand := 0 } }
  else if c = Blk.SWX then { s with write := { s.write with swatches := [], recipes := coldRecipes s.write.recipes } }
  else s

/-- A slice quad's domain leaves for RET or OFF: its slices' staging, contexts and key caches are zeroed (R353). -/
def State.slicesWipe (s : State) (d : Nat) : State :=
  if d < 10 ∨ 13 < d then s else
  let gone := s.write.digests.filter (fun q => q.2 / 4 == d - 10)
  let s := s.drop (F.ADM_POOL_USED 2) gone.length
  { s with
    slices := s.slices.filter (fun q => q.1 / 4 != d - 10)
    write := { s.write with digests := s.write.digests.filter (fun q => q.2 / 4 != d - 10) } }

/-- Beats a domain has spent in a state (`PWR_DOM_TIME`). -/
def State.domBeats (s : State) (d st : Nat) : Nat :=
  AL.getD (4 * d + st) 0 s.pwr.spent + (if s.dom d = st then s.beat - AL.getD d 0 s.pwr.since else 0)

/-- A domain takes a state and shows it (R638, R639); its clock is gated when it leaves ON; in OFF its registers are lost. -/
def State.domPut (s : State) (d st : Nat) : State :=
  let was := s.dom d
  let s := s.setAll [(F.PWR_DOM_STAT_MOVING d, 0), (F.PWR_DOM_STAT_CLAMPED d, b2n (decide (st ≤ 1))), (F.PWR_DOM_STAT_AUTO d, 0)]
  if was = st then s
  else
    let s := { s with pwr := { s.pwr with
      spent := AL.put (4 * d + was) (s.domBeats d was) s.pwr.spent, since := AL.put d s.beat s.pwr.since } }
    let s := s.setAll [(F.PWR_DOM_STAT_STATE d, st), (F.PWR_DOM_STAT_BEAT d, s.beat32)]
    let s := if was = 3 then s.bump F.CLK_CNT_GATE_COUNT else if st = 3 then s.bump F.CLK_CNT_UNGATE_COUNT else s
    if st = 0 then s.domRegsLost d else s

/-- A lane reference is within tolerance (R651, R662): 2 HOSTW, 3 HOSTE, 4 MEDN, 5 MEDS, 6 PEER. -/
def State.refOk (s : State) (k : Nat) : Bool := !s.pwr.refBad.contains k

/-- A lane is held by a test: lane slot `n` of quad `q` (R710). -/
def State.laneTaken (s : State) (q n : Nat) : Bool := bitOf (s.get (F.TST_STAT_TAKEN q)) n

/-- A media lane is free of tests (R103, R710). -/
def State.mediaFree (s : State) (ln : Nat) : Bool := !s.laneTaken (24 + ln / 4) (ln % 4)

/-- The lanes of a port are free of tests. -/
def State.portFree (s : State) (p w : Nat) : Bool := (List.range w).all (fun i => !s.laneTaken ((p + i) / 4) ((p + i) % 4))

/-- The lanes of a bundle are free of tests. -/
def State.bundleFree (s : State) (b : Nat) : Bool := (List.range 4).all (fun i => s.get (F.TST_STAT_TAKEN (56 + 4 * b + i)) == 0)

/-! ### Judging a control-window access (R61 to R65, R95 to R100, R716) -/

/-- Base address of the control window. -/
def windowBase : Nat := 0x010000000000

/-- The slot of an address in the control window, whose base is a multiple of its 1,024 pages of 4,096 bytes. -/
def slotOf (a : Nat) : Nat := a / 4096 % 1024

/-- The byte offset of an address in its page. -/
def offOf (a : Nat) : Nat := a % 4096

/-- The address of a register. -/
def addrOf (slot off : Nat) : Nat := windowBase + slot * 4096 + off

/-- Secure masters: 1, 2, and JTAG after a signed unlock (R95). -/
def State.secureMaster (s : State) (m : Nat) : Bool := m == 1 || m == 2 || (m == 62 && s.sec.jtagSecure)

/-- The lock group bit of a master (Table 2.15). -/
def lockGroup (m : Nat) : Nat :=
  if m ≤ 2 then 0 else if m ≤ 6 then 1 else if m ≤ 54 then 2 else if m ≤ 58 then 3
  else if m = 59 then 4 else if m = 60 then 5 else if m = 62 then 6 else 7

/-- Count a denied access on its page and raise the condition there, or on the first NOC page while the page's domain
is not up, uncounted (R716). -/
def State.deny (s : State) (slot cond : Nat) : State :=
  if s.domUp (slotDomain slot) then
    (s.modHdr slot (fun h => { h with denied := satAdd 16 h.denied 1 })).raise slot cond
  else s.raise 7 cond

/-- `PAGE_ID` of a page (Table 2.4). -/
def State.pageId (s : State) (slot : Nat) : Nat :=
  match pageOf slot with
  | none => 0
  | some (c, i, p) => c * 2 ^ 40 + i * 2 ^ 32 + p * 2 ^ 24 + slotDomain slot * 2 ^ 16 +
      b2n (slotSecure slot) * 2 ^ 15 + b2n (s.domUp (slotDomain slot)) * 2 ^ 14 + slot

/-- Checks 1 to 5 of R716. `none`: the access is performed (check 6); `some t`: it is not, and `t` is the state it
leaves. A refused read answers zero, or the page's identity under R70. -/
def State.judge (s : State) (m slot off : Nat) (size64 isWrite : Bool) : Option State :=
  match pageOf slot with
  | none => some (s.answer 0)
  | some _ =>
    if !(size64 && off % 8 == 0) then some ((s.answer 0).deny slot Cond.ACCESS_SIZE_REFUSED)
    else if !s.secureMaster m && (slotSecure slot || (isWrite && off == 0x50)) then
      some ((s.answer 0).deny slot Cond.SECURE_ACCESS_DENIED)
    else if !s.domUp (slotDomain slot) then
      some (((s.answer (if !isWrite && off == 0 then s.pageId slot else 0))).raise 7 Cond.PAGE_DOMAIN_OFF)
    else if isWrite && decide (0x10 ≤ off) && (s.hdr slot).locked && !s.secureMaster m
        && !bitOf (s.hdr slot).writers (lockGroup m - 1) then
      some (s.deny slot Cond.PAGE_LOCK_REFUSED)
    else none
/-- Perform a control-window write by a master where R716 lets it. -/
def State.busWr (s : State) (m slot off : Nat) (f : State → State) : State := (s.judge m slot off true true).getD (f s)

/-- Perform a control-window read by a master where R716 lets it. -/
def State.busRd (s : State) (m slot off : Nat) (f : State → State) : State := (s.judge m slot off true false).getD (f s)

/-! ### Memory -/

/-- Write a number as `n` little-endian bytes of memory. -/
def State.wrLE (s : State) (a n v : Nat) : State := { s with mem := Mem.wrLE a n v s.mem }

/-- Write bytes at rising addresses. -/
def State.wrBytes (s : State) (a : Nat) (l : List Nat) : State := { s with mem := Mem.wrs a (l.map (BitVec.ofNat 8)) s.mem }

/-- Write bytes to memory. -/
def State.putBytes (s : State) (a : Nat) (l : List Nat) : State := s.wrBytes a l

/-- `n` bytes of memory. -/
def State.bytesAt (s : State) (a n : Nat) : List Nat := (Mem.rds a n s.mem).map (·.toNat)

/-- The bytes of a number, most significant first. -/
def beBytes (n v : Nat) : List Nat := (List.range n).map (fun i => v / 256 ^ (n - 1 - i) % 256)

/-- A number from bytes, most significant first. -/
def ofBytes (l : List Nat) : Nat := l.foldl (fun a b => a * 256 + b) 0

/-- The size of HBM. -/
def hbmSize : Nat := 0x003000000000

/-- An area lies in HBM. -/
def inHbm (a n : Nat) : Bool := decide (a + n ≤ hbmSize)

/-! ### Bytes -/

/-- Bytes of a number, least significant first. -/
def leNat (n v : Nat) : List Nat := (List.range n).map (fun i => v / 256 ^ i % 256)

/-- The number of a byte list, least significant first. -/
def leOf (l : List Nat) : Nat := l.foldr (fun b acc => b % 256 + 256 * acc) 0

/-- The number whose bytes are those of a value most significant first. -/
def swapBytes (n v : Nat) : Nat := leOf (beBytes n v)

/-- Bytes `a` to `a + n - 1` of a list as a number, least significant first. -/
def bytesNat (l : List Nat) (a n : Nat) : Nat := leOf ((l.drop a).take n)

/-! ### Requests and pools (R39, R46) -/

/-- A request by its tag. -/
def State.req (s : State) (tag : Nat) : Option Req := AL.get tag s.adm.reqs

/-- Change a request. -/
def State.modReq (s : State) (tag : Nat) (f : Req → Req) : State :=
  match s.req tag with
  | some r => { s with adm := { s.adm with reqs := AL.put tag (f r) s.adm.reqs } }
  | none => s

/-- Reserve entries of a pool. -/
def State.poolTake (s : State) (n k : Nat) : State := s.set (F.ADM_POOL_USED n) (s.get (F.ADM_POOL_USED n) + k)

/-- Return entries of a pool (R46). -/
def State.poolGive (s : State) (n k : Nat) : State := s.drop (F.ADM_POOL_USED n) k

/-- Free entries of a pool. -/
def State.poolFree (s : State) (n : Nat) : Nat := s.get (F.ADM_POOL_CAP n) - s.get (F.ADM_POOL_USED n)

/-- Return one pool's entries of a request. -/
def State.reqGive (s : State) (tag n : Nat) : State :=
  match s.req tag with
  | some r => (s.poolGive n (AL.getD n 0 r.held)).modReq tag (fun r => { r with held := AL.del n r.held })
  | none => s

/-- Return everything a request holds. -/
def State.reqGiveAll (s : State) (tag : Nat) : State := (List.range 8).foldl (fun s n => s.reqGive tag n) s

/-- Whether the peer reports PAIRED or SOLO over a link that is up (R513). -/
def State.peerUp (s : State) : Bool :=
  s.get F.PRL_STAT_REACHABLE == 1 && (s.get F.PRL_PEER_INFO_MODE == 3 || s.get F.PRL_PEER_INFO_MODE == 4)

/-- This head is in PAIRED or SOLO. -/
def State.serving (s : State) : Bool := s.mode == .paired || s.mode == .solo

end Sys2Proof.Machine
end

