-- ==== Sys2Proof/Machine/Map.lean ====
section
/-! DEFINITION. Chapter 6: the map and the chunk table, pages shared with snapshots, and the update log whose records
change them. -/

namespace Sys2Proof.Machine

/-! ### Parts of the state -/

/-- Change the read path's part. -/
def State.modRead (s : State) (f : ReadSt → ReadSt) : State := { s with read := f s.read }

/-- Change the write path's part. -/
def State.modWrite (s : State) (f : WriteSt → WriteSt) : State := { s with write := f s.write }

/-- Change the vat tables. -/
def State.modVat (s : State) (f : VatSt → VatSt) : State := { s with vat := f s.vat }

/-- Change the flash-translation part. -/
def State.modFtl (s : State) (f : FtlSt → FtlSt) : State := { s with ftl := f s.ftl }

/-- Change the media part. -/
def State.modMedia (s : State) (f : MediaSt → MediaSt) : State := { s with media := f s.media }

/-- Change the pair's part. -/
def State.modPair (s : State) (f : PairSt → PairSt) : State := { s with pair := f s.pair }

/-! ### Map pages (R257, R261, Table 6.6) -/

/-- The space of a snapshot. -/
def snapSpace (sn : Nat) : Nat := 65536 + sn

/-- The key of page `p` of a map space. -/
def mapKey (space p : Nat) : Nat := space * 2 ^ 29 + p

/-- The page of an LBA. -/
def lbaPage (lba : Nat) : Nat := lba / 512

/-- The home side of a map page: bit 0 of LBA >> 16 (Table 6.1). -/
def mapHome (key : Nat) : Nat := key % 2 ^ 29 / 128 % 2

/-- The key of the chunk-table page of a chunk: side and page number (Table 6.1). -/
def ctbKey (cid : Nat) : Nat := cid / 512 * 2 + cid % 2

/-- The home side of a chunk-table page. -/
def ctbHome (key : Nat) : Nat := key % 2

/-- The snapshots of a volume, oldest first. -/
def State.snapsOf (s : State) (v : Nat) : List (Nat × Snap) :=
  sortBy (fun p => p.2.beat) (s.vat.snaps.filter (fun p => p.2.vol == v))

/-- A space has a page of its own. -/
def State.ownPage (s : State) (space p : Nat) : Bool := AL.has (mapKey space p) s.read.map

/-- The key of the page by which page `p` of a space resolves, by Table 6.6; none where the page is absent. -/
def State.resolvePage (s : State) : Nat → Nat → Nat → Option Nat
  | 0, _, _ => none
  | n + 1, space, p =>
    if s.ownPage space p then some (mapKey space p)
    else if space < 65536 then
      match (AL.get space s.vat.vols).bind (·.origin) with
      | some sn => s.resolvePage n (snapSpace sn) p
      | none => none
    else
      match AL.get (space - 65536) s.vat.snaps with
      | none => none
      | some sp =>
        match (s.snapsOf sp.vol).find? (fun q => decide (sp.beat < q.2.beat) && s.ownPage (snapSpace q.1) p) with
        | some q => some (mapKey (snapSpace q.1) p)
        | none => s.resolvePage n sp.vol p

/-- Steps within which every page resolves: a clone takes two for each snapshot that it passes. -/
def State.spaceDepth (s : State) : Nat := 2 * s.vat.snaps.length + 2

/-- The page by which page `p` of a space resolves. -/
def State.spacePage (s : State) (space p : Nat) : Option Nat := s.resolvePage s.spaceDepth space p

/-- The page by which a volume's page resolves. -/
def State.volPage (s : State) (v p : Nat) : Option Nat := s.spacePage v p

/-- The spaces that the resolution of page `p` of a space passes through, with the one that has the page (Table 6.6). -/
def State.spaceWalk (s : State) : Nat → Nat → Nat → List Nat
  | 0, _, _ => []
  | n + 1, space, p =>
    space :: (if s.ownPage space p then [] else
      if space < 65536 then
        match (AL.get space s.vat.vols).bind (·.origin) with
        | some sn => s.spaceWalk n (snapSpace sn) p
        | none => []
      else
        match AL.get (space - 65536) s.vat.snaps with
        | none => []
        | some sp =>
          let newer := (s.snapsOf sp.vol).filter (fun q => decide (sp.beat < q.2.beat))
          let gone := newer.takeWhile (fun q => !s.ownPage (snapSpace q.1) p)
          gone.map (fun q => snapSpace q.1) ++ (match newer.drop gone.length with
            | q :: _ => [snapSpace q.1]
            | [] => s.spaceWalk n sp.vol p))

/-- Another space resolves through a page (R262, R268). -/
def State.otherNeeds (s : State) (key : Nat) : Bool :=
  ((s.vat.vols.map (·.1)) ++ (s.vat.snaps.map (fun q => snapSpace q.1))).any (fun sp =>
    sp != key / 2 ^ 29 && s.spacePage sp (key % 2 ^ 29) == some key)

/-- The entries of a page by its key. -/
def State.pageAt (s : State) (key : Nat) : MapPage := AL.getD key {} s.read.map

/-- The map entry of a block of a volume (R106, R257). -/
def State.mapEnt (s : State) (v lba : Nat) : MapEnt :=
  match s.volPage v (lbaPage lba) with
  | some k => AL.getD (lba % 512) {} (s.pageAt k).ents
  | none => {}

/-- An entry names a chunk of this array: Z, U and F clear. -/
def MapEnt.named (e : MapEnt) : Bool := !e.z && !e.u && !e.f

/-- Put an entry on a page; a deallocated entry is not listed. -/
def MapPage.put (g : MapPage) (i : Nat) (e : MapEnt) : MapPage :=
  { g with ents := if e = {} then AL.del i g.ents else AL.put i e g.ents }

/-! ### The chunk table -/

/-- The chunk-table entry of a chunk; a free one where none is listed (R254). -/
def State.ctbEnt (s : State) (cid : Nat) : CtbEnt := AL.getD cid {} (if 2 ^ 52 ≤ cid then s.read.foreign else s.read.ctb)

/-- The name a foreign chunk of a vat has among the chunks of this head: above every chunk identity (R548). -/
def foreignKey (vat chunk : Nat) : Nat := (4096 + vat) * 2 ^ 40 + chunk

/-- A band of the band table. -/
def State.band (s : State) (b : Nat) : Option Band := AL.get b s.ftl.bands

/-- Change a band. -/
def State.modBand (s : State) (b : Nat) (f : Band → Band) : State :=
  match s.band b with
  | some x => s.modFtl (fun t => { t with bands := AL.put b (f x) t.bands })
  | none => s

/-- A band is live: OPEN, CLOSED, SEALED, VICTIM or HELD (Table 6.8). -/
def State.bandLive (s : State) (b : Nat) : Bool :=
  match s.band b with
  | some x => decide (1 ≤ x.state) && decide (x.state ≤ 5)
  | none => false

/-- The largest reference count, at which a count is saturated (R254). -/
def refMax : Nat := 16777215

/-- This head applies the count of a chunk as its home: its side equals bit 0 of the identity, or it is in SOLO
(R208). -/
def State.ctbMine (s : State) (cid : Nat) : Bool := cid % 2 == s.side || s.mode == .solo

/-- Apply a reference delta (R208, R254, R271): a saturated count ignores it; a count that reaches zero waits for its
release; a count that rises from zero no longer does. -/
def State.ctbDelta (s : State) (cid : Nat) (d : Int) : State :=
  match AL.get cid s.read.ctb with
  | none => s
  | some e =>
    if e.count = refMax then s else
    let n := ((e.count : Int) + d).toNat
    let s := s.modRead (fun r => { r with ctb := AL.put cid { e with count := min n refMax } r.ctb })
    if refMax ≤ n then
      (if s.ftl.saturated.contains cid then s
       else ((s.modFtl (fun t => { t with saturated := t.saturated ++ [cid] })).satInc F.FTL_SAT_STAT_CHUNKS 1).raise
         Slot.CTB Cond.REF_COUNT_SATURATED cid)
    else if n = 0 then
      (if s.ctbMine cid then s.modFtl (fun t => { t with zeroed := (t.zeroed.filter (fun q => q.1 != cid)) ++ [(cid, s.beat)] })
       else s)
    else s.modFtl (fun t => { t with zeroed := t.zeroed.filter (fun q => q.1 != cid) })

/-- Chunks at zero count that no list holds yet wait for their release: after a reset, and of the peer's half once it is this head's
(R271). -/
def State.zeroScan (s : State) : State :=
  let l := (s.read.ctb.filter (fun q => q.2.count == 0 && q.2.len != 0 && s.ctbMine q.1 && !AL.has q.1 s.ftl.zeroed)).map (fun q => (q.1, s.beat))
  s.modFtl (fun t => { t with zeroed := t.zeroed ++ l })

/-- Add to the count of every chunk that a page names. -/
def State.pageDelta (s : State) (g : MapPage) (d : Int) : State :=
  g.ents.foldl (fun s q => if q.2.named then s.ctbDelta q.2.chunk d else s) s

/-- A record is applied to a metadata page: to what is resident of it, or to a page that has no copy on flash, which begins in the cache;
the home head holds it dirty, and fetches it where it is not resident (R266). -/
def MetaPage.changed (g : MetaPage) (home : Bool) (beat : Nat) : MetaPage :=
  if g.resident || !g.onFlash then { g with resident := true, dirty := g.dirty || home, useBeat := beat } else { g with dirty := home }

/-- The same, of a map page. -/
def State.touch (s : State) (key : Nat) (home : Bool) : State :=
  s.modRead (fun r => { r with mapPages := AL.upd key {} (fun g => g.changed home s.beat) r.mapPages })

/-- The same, of a chunk-table page. -/
def State.touchCtb (s : State) (key : Nat) (home : Bool) : State :=
  s.modRead (fun r => { r with ctbPages := AL.upd key {} (fun g => g.changed home s.beat) r.ctbPages })

/-- This head is the home of pages of a side: its own, and the peer's in SOLO (R266, R304). -/
def State.homeOf (s : State) (side : Nat) : Bool := side == s.side || s.mode == .solo

/-! ### The directory (R256 to R259, Tables 6.4 and 6.5) -/

/-- A metadata page's cache record: a map page, or a chunk-table page. -/
def State.metaPage (s : State) (ctb : Bool) (key : Nat) : Option MetaPage :=
  AL.get key (if ctb then s.read.ctbPages else s.read.mapPages)

/-- Change it. -/
def State.modMeta (s : State) (ctb : Bool) (key : Nat) (f : MetaPage → MetaPage) : State :=
  s.modRead (fun r => if ctb then { r with ctbPages := AL.upd key {} f r.ctbPages } else { r with mapPages := AL.upd key {} f r.mapPages })

/-- The key of a directory leaf: its kind, space and number (Table 6.4). -/
def leafKey (kind space leaf : Nat) : Nat := kind * 2 ^ 60 + space * 2 ^ 36 + leaf

/-- The leaf that names a metadata page: 128 map pages of one space, or 128 chunk-table pages of one side. -/
def metaLeaf (ctb : Bool) (key : Nat) : Nat :=
  if ctb then leafKey 2 (key % 2) (key / 2 / 128) else leafKey 1 (key / 2 ^ 29) (key % 2 ^ 29 / 128)

/-- A leaf is in the leaf cache. -/
def State.leafHere (s : State) (k : Nat) : Bool := ((AL.get k s.ftl.leaves).map (·.resident)).getD false

/-- The home side of a metadata page. -/
def metaHome (ctb : Bool) (key : Nat) : Nat := if ctb then ctbHome key else mapHome key

/-- The root names a leaf: the leaf has been written, or a page that it names has a location (R256, R258, Table 6.4). -/
def State.rootHas (s : State) (k : Nat) : Bool :=
  ((AL.get k s.ftl.leaves).map (·.onFlash)).getD false
    || s.read.mapPages.any (fun q => q.2.onFlash && metaLeaf false q.1 == k) || s.read.ctbPages.any (fun q => q.2.onFlash && metaLeaf true q.1 == k)
    || s.ftl.sumAt.any (fun q => leafKey 3 0 (q.1 / 2048 * 16 + q.1 % 2048 / 128) == k)

/-- The key of the band-table segment that holds a band: 32 bands of 128 bytes to 4 KiB (log entry 174). -/
def bandSeg (b : Nat) : Nat := b / 32 * 2 + 1

/-- A segment changes, where it is of this head's home (R269). -/
def State.segMark (s : State) (k : Nat) (mine : Bool) : State :=
  if mine && !s.ftl.segDirty.contains k then s.modFtl (fun t => { t with segDirty := t.segDirty ++ [k] }) else s

/-- A leaf has a root entry but is not in the leaf cache: a lookup that needs it goes to the slow path (R256). -/
def State.dirGap (s : State) (k : Nat) : Bool := s.rootHas k && !s.leafHere k

/-- Leaves the leaf cache holds. -/
def State.leafCap (s : State) : Nat := s.get F.FTL_LEAF_SIZE_UNITS * 16384

/-- Make room for a leaf: the least recently used clean, unpinned leaf goes; none where there is no such leaf (R259). -/
def State.leafRoom (s : State) : Option State :=
  let here := s.ftl.leaves.filter (fun q => q.2.resident)
  if here.length < s.leafCap then some s
  else (minBy (fun q => q.2.useBeat) (here.filter (fun q => !q.2.pin && !q.2.dirty))).map (fun q =>
    (s.modFtl (fun t => { t with leaves := AL.put q.1 { q.2 with resident := false } t.leaves })).bump F.FTL_CNT_DIR_EVICT_COUNT)

/-- A leaf entry changes: its leaf is dirty in the cache, in place of the least recently used clean leaf where the cache is full (R259,
R267); with no leaf to evict it stays dirty outside the cache until a checkpoint writes it (log entry 168). -/
def State.leafDirty (s : State) (k : Nat) : State :=
  let room := if s.leafHere k then some s else s.leafRoom
  (room.getD s).modFtl (fun t => { t with leaves := AL.upd k {} (fun l =>
    { l with resident := l.resident || room.isSome, dirty := true, useBeat := s.beat }) t.leaves })

/-- A lookup uses a leaf of the cache (R256, R259). -/
def State.leafUse (s : State) (k : Nat) : State :=
  s.modFtl (fun t => { t with leaves := t.leaves.map (fun q => if q.1 = k ∧ q.2.resident then (q.1, { q.2 with useBeat := s.beat }) else q) })

/-- A chunk-table entry as its page holds it (Table 6.3). -/
def CtbEnt.word (e : CtbEnt) : Nat :=
  if e.len = 0 then 0 else
    e.band % 2 ^ 32 * 2 ^ 96 + e.offset % 2 ^ 24 * 2 ^ 72 + e.len % 256 * 2 ^ 64 + b2n e.raw * 2 ^ 63 + b2n e.dynamic * 2 ^ 62
      + e.keyGen % 256 * 2 ^ 54 + e.count % 2 ^ 24 * 2 ^ 30 + e.fpTag % 65536 * 2 ^ 14

/-- The 4 KiB of a metadata page: kind 1 map, 2 chunk table, 3 band summary (Tables 6.1 to 6.3, R255). -/
def State.metaBytes (s : State) (kind key : Nat) : Nat :=
  let words (n w : Nat) (f : Nat → Nat) : Nat := (List.range n).foldl (fun v i => v + f i * 2 ^ (w * i)) 0
  if kind = 1 then
    let lba (i : Nat) : Nat := key % 2 ^ 29 * 512 + i
    words 512 64 (fun i => (AL.getD i {} (s.pageAt key).ents).word (lba i))
  else if kind = 2 then words 256 128 (fun i => (s.ctbEnt (key / 2 * 512 + 2 * i + key % 2)).word)
  else
    let sum := ((s.band (key / 2048)).map (·.summary)).getD []
    words 512 64 (fun i => match sum[key % 2048 * 512 + i]? with
      | some q => q.1 % 2 ^ 40 * 2 ^ 24 + q.2 % 2 ^ 24
      | none => 2 ^ 64 - 1)

/-! ### Changes of the map (R243, R244, R261) -/

/-- The snapshot generation of a volume at a beat (R261). -/
def Vol.genAt (v : Vol) (beat : Nat) : Nat := (v.snapBeats.filter (fun b => decide (b ≤ beat))).length

/-- Write an entry on the page of a key. -/
def State.putEnt (s : State) (key lba : Nat) (e : MapEnt) : State :=
  (s.modRead (fun r => { r with map := AL.put key ((s.pageAt key).put (lba % 512) e) r.map })).touch key (s.homeOf (mapHome key))

/-- The newest snapshot of a volume that a change of a beat does not reach. -/
def State.newestBefore (s : State) (v entryBeat : Nat) : Option Nat :=
  (((s.snapsOf v).filter (fun q => decide (q.2.beat ≤ entryBeat))).getLast?).map (·.1)

/-- The leaf entry of a volume's page passes to a snapshot, with the copy on flash that it names; the volume's own copy is new in the
cache (R261). A copy whose write-back is under way stays the volume's, and the snapshot's is new (log entry 169). -/
def State.pageShift (s : State) (key dst : Nat) : State :=
  let fresh : MetaPage := { resident := true, dirty := s.homeOf (mapHome key), useBeat := s.beat }
  match s.metaPage false key with
  | none => s
  | some g =>
    let s := if g.pins = 0 ∧ !g.fetching then
        s.modRead (fun r => { r with mapPages := AL.put key fresh (AL.put dst g r.mapPages) })
      else s.modRead (fun r => { r with mapPages := AL.put dst fresh r.mapPages })
    (s.leafDirty (metaLeaf false dst)).leafDirty (metaLeaf false key)

/-- Put a page of its own on a space, each of its chunks named once more (R244). -/
def State.pageGive (s : State) (key : Nat) (g : MapPage) : State :=
  ((s.modRead (fun r => { r with map := AL.put key g r.map })).pageDelta g 1).bump F.SNP_CNT_PAGE_COPY_COUNT

/-- Give a volume a page of its own for a change that entered at a beat (R244, R261). A page shared with its snapshots passes to the
newest of them that the change does not reach; a clone's page is copied from its origin, and a page that no space has is empty: the newest
snapshot takes it too where it has none of its own. Each copy counts its chunks once more. -/
def State.ownCopy (s : State) (v p entryBeat : Nat) : State :=
  match AL.get v s.vat.vols with
  | none => s
  | some vol =>
    let gen := vol.genAt entryBeat
    let key := mapKey v p
    let old := (s.newestBefore v entryBeat).filter (fun q => !s.ownPage (snapSpace q) p)
    match AL.get key s.read.map with
    | some g =>
      if g.ownGen < gen then
        let s := match old with
          | some q => (s.pageGive (mapKey (snapSpace q) p) g).pageShift key (mapKey (snapSpace q) p)
          | none => s
        s.modRead (fun r => { r with map := AL.put key { g with ownGen := gen } r.map })
      else s
    | none =>
      let g := ((s.volPage v p).map s.pageAt).getD {}
      let s := match old with
        | some q => (s.pageGive (mapKey (snapSpace q) p) g).touch (mapKey (snapSpace q) p) (s.homeOf (mapHome key))
        | none => s
      if (s.volPage v p).isSome then s.pageGive key { g with ownGen := gen }
      else s.modRead (fun r => { r with map := AL.put key { ownGen := gen } r.map })

/-- The snapshots later than a change whose page has diverged from the volume's: they take the change too (R243). An older
snapshot that resolved through such a page keeps what it saw in a page of its own. -/
def State.laterPages (s : State) (v p entryBeat : Nat) : List Nat :=
  ((s.snapsOf v).filter (fun q => decide (entryBeat < q.2.beat) && s.ownPage (snapSpace q.1) p)).map (·.1)

/-- Keep the view of the newest snapshot at or before a beat before a later snapshot's page changes. -/
def State.keepOlder (s : State) (v p entryBeat : Nat) : State :=
  match (s.newestBefore v entryBeat).filter (fun q => !s.ownPage (snapSpace q) p) with
  | some q =>
    let sk := mapKey (snapSpace q) p
    (s.pageGive sk (((s.spacePage (snapSpace q) p).map s.pageAt).getD {})).touch sk (s.homeOf (mapHome sk))
  | none => s

/-- Change the entry of a diverged snapshot page, with its own reference deltas (R243). -/
def State.snapChange (s : State) (sn p lba : Nat) (e : MapEnt) : State :=
  let k := mapKey (snapSpace sn) p
  let old := AL.getD (lba % 512) {} (s.pageAt k).ents
  let s := s.putEnt k lba e
  let s := if e.named then s.ctbDelta e.chunk 1 else s
  if old.named then s.ctbDelta old.chunk (-1) else s

/-- Change the entry of a block for a record that entered at a beat. -/
def State.changeEnt (s : State) (v lba : Nat) (e : MapEnt) (entryBeat : Nat) : State :=
  let p := lbaPage lba
  let later := s.laterPages v p entryBeat
  let s := if later = [] then s else s.keepOlder v p entryBeat
  let s := later.foldl (fun s sn => s.snapChange sn p lba e) s
  (s.ownCopy v p entryBeat).putEnt (mapKey v p) lba e

/-! ### Applying update records (R255, R265, R268, R271, R283) -/

/-- The summary page of a band that holds its `n`th entry (Table 6.1). -/
def sumKey (band n : Nat) : Nat := band * 2048 + n / 512

/-- A kind 2 record enters a chunk's place into the band's summary and live units; its placement is no longer pending
(R255). The home of the band holds the summary page dirty until it is written back (R266, R267). -/
def State.bandPlaced (s : State) (cid : Nat) (e : CtbEnt) : State :=
  match s.band e.band with
  | none => s
  | some b =>
    let n := b.summary.length
    let s := s.modBand e.band (fun b => { b with
      summary := b.summary ++ [(cid, e.offset)], live := b.live + e.len, pendingPl := b.pendingPl - 1 })
    let s := if n % 512 = 0 then s.bump F.BND_CNT_SUM_PAGES_COUNT else s
    if s.homeOf (e.band % 2) ∧ !s.ftl.sums.contains (sumKey e.band n) then
      s.modFtl (fun t => { t with sums := t.sums ++ [sumKey e.band n] })
    else s

/-- The summary page that holds a chunk's place is not yet on flash as it stands (R269). -/
def State.sumOpen (s : State) (cid : Nat) (e : CtbEnt) : Bool :=
  match s.band e.band with
  | none => false
  | some b =>
    let k := sumKey e.band (b.summary.findIdx (fun q => q == (cid, e.offset)))
    s.ftl.sums.contains k || AL.has k s.ftl.sumCopies

/-- Units of a chunk leave a band. -/
def State.bandDead (s : State) (band len : Nat) : State := s.modBand band (fun b => { b with live := b.live - len })

/-- The member descriptor of Table 6.7. -/
def Member.word (m : Member) : Nat := m.brick * 2 ^ 25 + m.die * 2 ^ 19 + m.block

/-- A block has been erased in a mode: its erase count rises and its read count clears (R293, R294). -/
def State.countErase (s : State) (dense : Bool) (word : Nat) : State :=
  s.modFtl (fun t => { t with
    reads := AL.del word t.reads
    wearDense := if dense then AL.upd word 0 (· + 1) t.wearDense else t.wearDense
    wearSlc := if dense then t.wearSlc else AL.upd word 0 (· + 1) t.wearSlc })

/-- The members of a band whose block has not retired. -/
def Band.left (x : Band) : List Member :=
  ((List.range x.members.length).filter (fun i => !x.gone.contains i)).filterMap (fun i => x.members[i]?)

/-- Change the die of each member. -/
def State.eachDie (s : State) (l : List Member) (f : Member → DieSt → DieSt) : State :=
  l.foldl (fun (s : State) m =>
    let key := m.brick * 64 + m.die
    match AL.get key s.ftl.dies with
    | some d => s.modFtl (fun t => { t with dies := AL.put key (f m d) t.dies })
    | none => s) s

/-- Blocks that have become members leave their dies' free pools. -/
def State.poolsWithout (s : State) (l : List Member) : State :=
  s.eachDie l (fun m d => { d with
    slcFree := d.slcFree.filter (fun q => q.1 != m.block)
    denseFree := d.denseFree.filter (fun q => q.1 != m.block)
    unerased := d.unerased.filter (· != m.block) })

/-- Blocks of a band that has been erased return to their dies' free pools (R278). -/
def State.poolsWith (s : State) (dense : Bool) (l : List Member) : State :=
  let wear := if dense then s.ftl.wearDense else s.ftl.wearSlc
  let add (f : List (Nat × Nat)) (m : Member) : List (Nat × Nat) := (f.filter (fun q => q.1 != m.block)) ++ [(m.block, AL.getD m.word 0 wear)]
  s.eachDie l (fun m d => if dense then { d with denseFree := add d.denseFree m } else { d with slcFree := add d.slcFree m })

/-- The effect of an update record. A relocation to another key generation is a re-dye's: the chunk has its new nonce and tag, and RCH
drops it (R225). -/
def State.applyVal (s : State) : UVal → State
  | .map v lba e eb => s.changeEnt v lba e eb
  | .page v lba z eb => (List.range 512).foldl (fun s i => s.changeEnt v (lba + i) { z := z, u := !z } eb) s
  | .ctb cid e =>
    let old := s.ctbEnt cid
    let s := s.touchCtb (ctbKey cid) (s.homeOf (ctbHome (ctbKey cid)))
    if e.count = 0 then
      (if old.len = 0 then s else
        let dyed := e.keyGen != old.keyGen
        let new : CtbEnt := { old with
          band := e.band, offset := e.offset, len := e.len, raw := e.raw, dynamic := e.dynamic, keyGen := e.keyGen
          nonce := if dyed then e.nonce else old.nonce, gtag := if dyed then e.gtag else old.gtag }
        ((s.modRead (fun r => { r with ctb := AL.put cid new r.ctb, rch := if dyed then AL.del cid r.rch else r.rch })).bandDead
          old.band old.len).bandPlaced cid e)
    else (s.modRead (fun r => { r with ctb := AL.put cid e r.ctb })).bandPlaced cid e
  | .delta cid d => (s.touchCtb (ctbKey cid) (s.homeOf (ctbHome (ctbKey cid)))).ctbDelta cid d
  | .release cid band _ len =>
    if (s.ctbEnt cid).count = 0 then
      ((s.modRead (fun r => { r with ctb := AL.del cid r.ctb })).touchCtb (ctbKey cid)
        (s.homeOf (ctbHome (ctbKey cid)))).bandDead band len
    else s
  | .bandState b st dense isMeta shard d p rows =>
    let own := s.leaseHeld shard && (s.band b).isSome
    let s := match s.band b with
      | some x => if st = 0 then
          (if s.leaseHeld shard then s else x.members.foldl (fun (s : State) (m : Member) => s.countErase dense m.word) s).poolsWith dense x.left
        else s
      | none => s
    s.modFtl (fun t => { t with bands := AL.upd b { shard := shard, d := d, p := p } (fun x =>
      { x with
        state := st, dense := dense, isMeta := isMeta, rows := if own then x.rows else rows
        erasableBeat := if st = 6 then s.beat else x.erasableBeat }) t.bands })
  | .bandMembers b m ms =>
    let l : List Member := ms.map (fun m => ⟨m / 2 ^ 25, m / 2 ^ 19 % 64, m % 2 ^ 19⟩)
    (s.modBand b (fun x => { x with members := x.members.take m ++ l ++ x.members.drop (m + l.length) })).poolsWithout l

/-! ### The update log (R206, R263, R265, R270) -/

/-- Own update records not retired. -/
def State.logOwn (s : State) : Nat := (s.write.upd.filter (fun q => q.2.own && !q.2.retired)).length

/-- The log half holds as many records as it can. -/
def State.logFull (s : State) : Bool := decide (1572864 ≤ s.logOwn)

/-- The words of an update record's value as MIRROR carries them. -/
def UVal.words : UVal → List Nat
  | .map v lba e eb => [1, v, lba, b2n e.z + 2 * b2n e.u + 4 * b2n e.f, e.chunk, e.index, eb]
  | .page v lba z eb => [1, v, lba, b2n z, eb]
  | .ctb cid e => [2, cid, e.count, e.len, b2n e.raw, b2n e.dynamic, e.keyGen, e.fpTag, e.band, e.offset]
  | .delta cid d => [3, cid, unsgn 32 d]
  | .release cid b o l => [4, 1, cid, b, o, l]
  | .bandState b st dn m sh d p r => [4, 2, b, st, b2n dn, b2n m, sh, d, p, r]
  | .bandMembers b m ms => 4 :: 3 :: b :: m :: ms

/-- The index of the next own update record, counted from the present beat: a beat takes 32,768 records, and those after them fall to the
next (R263; log entry 135). -/
def State.updNext (s : State) : Nat := s.write.updIdx - 32768 * (s.beat - s.write.updBeat)

/-- The USEQ that the next own update record takes (R263). -/
def State.nextUseq (s : State) : Nat := (s.beat + s.updNext / 32768) * 65536 + s.side * 32768 + s.updNext % 32768

/-- Land an update record (R263): its USEQ, its place in the log and, in PAIRED, its mirror; in any other mode it enters at
once. `slot` is the data record it commits. -/
def State.land (s : State) (v : UVal) (slot : Option Nat) : State :=
  let i := s.updNext
  let useq := s.nextUseq
  let rec0 : URec := { val := v, own := true, entered := s.mode != .paired, beat := s.beat + i / 32768, slot := slot }
  let s := s.modWrite (fun w => { w with upd := AL.put useq rec0 w.upd, updBeat := s.beat, updIdx := i + 1 })
  if s.mode = .paired then s.sendPeer 0x10 1 (useq :: v.words) else s

/-- Whether records of the peer are waited for: not in SOLO, nor after a takeover replay (R265). -/
def State.waitsPeer (s : State) : Bool := s.mode == .paired


/-- The own update records landed from a USEQ on are those of one commit (R209). -/
def State.groupFrom (s : State) (useq : Nat) : State :=
  s.modWrite (fun w => { w with
    nextGroup := w.nextGroup + 1
    upd := w.upd.map (fun q => if q.2.own && decide (useq ≤ q.1) then (q.1, { q.2 with group := w.nextGroup }) else q) })

/-- An entered record may be applied: the others of its commit have entered (R209), every lower USEQ is applied and the peer's horizon
has passed its beat (R265). -/
def State.canApply (s : State) (useq : Nat) (r : URec) : Bool :=
  r.entered && !r.applied
    && (r.group == 0 || s.write.upd.all (fun q => q.2.group != r.group || q.2.entered))
    && s.write.upd.all (fun q => decide (useq ≤ q.1) || q.2.applied || (!q.2.own && !s.waitsPeer))
    && (!s.waitsPeer || decide (r.beat < s.get F.PRL_PEER_HORIZON_BEAT))

/-- The metadata page an update record changes. -/
def UVal.target (v : UVal) : Option (Bool × Nat) :=
  match v with
  | .map v l _ _ | .page v l _ _ => some (false, mapKey v (lbaPage l))
  | .ctb c _ | .delta c _ | .release c .. => some (true, ctbKey c)
  | _ => none

/-- The page that a record has changed holds its effect: its USEQ is the highest that the page, or the summary page of the place it enters,
has taken (R267). -/
def State.topMark (s : State) (v : UVal) (useq : Nat) : State :=
  let s := match v.target with
    | some (ctb, key) => if (s.metaPage ctb key).isSome then s.modMeta ctb key (fun g => { g with top := max g.top useq }) else s
    | none => s
  match v with
  | .ctb cid e => match s.band e.band with
    | some b => s.modFtl (fun t => { t with sumTop := AL.upd (sumKey e.band (b.summary.findIdx (fun q => q == (cid, e.offset)))) 0 (max useq) t.sumTop })
    | none => s
  | .bandState b .. | .bandMembers b .. => (s.modFtl (fun t => { t with bandTop := max t.bandTop useq })).segMark (bandSeg b) (s.homeOf (b % 2))
  | .release .. => s.modFtl (fun t => { t with bandTop := max t.bandTop useq })
  | _ => s

/-- Apply a record and mark it. -/
def State.applyRec (s : State) (useq : Nat) : State :=
  match AL.get useq s.write.upd with
  | some r => ((s.applyVal r.val).topMark r.val useq).modWrite (fun w => { w with upd := AL.put useq { r with applied := true } w.upd })
  | none => s

/-- Land the change of a band's state; it takes effect when the record is applied (R276). -/
def State.bandTo (s : State) (b st : Nat) : State :=
  match s.band b with
  | some x => s.land (.bandState b st x.dense x.isMeta x.shard x.d x.p x.rows) none
  | none => s

end Sys2Proof.Machine
end

