-- ==== Sys2Proof/Machine/Engine.lean ====
section
/-! DEFINITION. Chapters 8 and 9: the engines of the slices. Segments and their capacity in a beat (R345 to R348, R383), the staging
units that jobs hold (R350 to R352, R370), and the inflaters and deflaters (R381 to R385). -/

namespace Sys2Proof.Machine

/-- Units of one ring of the journal. -/
def ringUnits : Nat := 2031616

/-- The CPH page of a slice; its DIG, CMP, ERC and CTX pages follow. -/
def dslSlot (i : Nat) : Nat := Slot.DSL + 5 * i

/-- A slice. -/
def State.slice (s : State) (i : Nat) : SliceSt := AL.getD i {} s.slices

/-- Change a slice. -/
def State.modSlice (s : State) (i : Nat) (f : SliceSt → SliceSt) : State := { s with slices := AL.upd i {} f s.slices }

/-! ### What a slice takes in a beat (R345, R346, R383) -/

/-- K11 cycles of a slice's quad in a beat, at the rate in force. -/
def State.sliceCycles (s : State) (i : Nat) : Nat := 8 * s.get (F.CLK_DOM_CFG_MHZ (11 + i / 4))

/-- Cycles that a deflater reserves for a segment at an effort (Table 9.1). -/
def deflCycles (effort : Nat) : Nat := if effort = 1 then 2560 else if effort = 2 then 5760 else 11520

/-- Segments a slice takes in a beat, by kind: 0 cipher, 1 erasure, 2 chunker, 3 SHA-512, 4 SHA-256, 5 pool 7 slots, 6 inflater, 7
deflater (R346, Tables 8.1 and 9.1). -/
def State.sliceCaps (s : State) (i : Nat) : List Nat :=
  let c := s.sliceCycles i
  [8 * (c / 320), 4 * (c / 896), c / 272, 2 * (c / 1328), 6 * (c / 2128), 192, 24 * (c / 1440), 8 * (c / 2560)]

/-- Room left of a kind in this beat. -/
def State.sliceRoom (s : State) (i kind : Nat) : Nat := (s.sliceCaps i).getD kind 0 - (s.slice i).load.getD kind 0

/-- Pool 7 slots left for chunking and committing work. -/
def State.slotsLeft (s : State) : Nat := s.get (F.ADM_POOL_CAP 7) - s.get (F.ADM_POOL_USED 7)

/-- Pool 7 slots that admission may still reserve in this beat: 768 are held back for chunking and committing work in SOLO, and
while the own ring is filled beyond `FLUSH_HIGH_PCT`, of which that work may have taken some already (R188). -/
def State.slotRoom (s : State) : Nat :=
  let own := (s.write.recs.filter (fun q => q.2.own && q.1 / ringUnits == s.side)).length
  let back := if s.mode = .solo ∨ s.get F.JNL_CFG_FLUSH_HIGH_PCT * ringUnits < 100 * own then 768 - s.adm.workSlots else 0
  s.slotsLeft - back

/-- `LOAD_PCT` and `PEAK_PCT` follow the slots reserved in the beat (Table 1.14). -/
def State.slotShow (s : State) : State :=
  let pct := s.get (F.ADM_POOL_USED 7) * 100 / 3072
  s.setAll [(F.ADM_LOAD_LOAD_PCT, pct), (F.ADM_LOAD_PEAK_PCT, max pct (s.get F.ADM_LOAD_PEAK_PCT))]

/-- Reserve `n` segments of some kinds on a slice, each with one slot. -/
def State.segCharge (s : State) (i : Nat) (kinds : List Nat) (n : Nat) : State :=
  let at_ (l : List Nat) (k : Nat) : Nat := l.getD k 0 + (if kinds.contains k ∨ k = 5 then n else 0)
  ((s.modSlice i (fun x => { x with load := (List.range 8).map (at_ x.load) })).poolTake 7 n).slotShow

/-- Segments of some kinds that a pass of a slice may still have in this beat (R346); `work` is chunking and committing work. -/
def State.segRoom (s : State) (i : Nat) (kinds : List Nat) (work : Bool) : Nat :=
  (kinds.map (fun k => s.sliceRoom i k)).foldl min (min (s.sliceRoom i 5) (if work then s.slotsLeft else s.slotRoom))

/-- Count pool 7 slots that chunking and committing work takes (R188). -/
def State.workNote (s : State) (work : Bool) (n : Nat) : State :=
  if work then { s with adm := { s.adm with workSlots := s.adm.workSlots + n } } else s

/-- The name of a booking: a request and the kind of engine its pass begins with. -/
def bookKey (tag : Nat) (kinds : List Nat) : Nat := tag * 8 + kinds.headD 0

/-- Segments booked for a request's pass in this beat. -/
def State.bookedFor (s : State) (i tag : Nat) (kinds : List Nat) : Nat := AL.getD (bookKey tag kinds) 0 (s.slice i).booked

/-- Book segments for a request's pass in this beat (R39, R351). -/
def State.book (s : State) (i tag : Nat) (kinds : List Nat) (n : Nat) (work : Bool) : State :=
  if n = 0 then s
  else ((s.segCharge i kinds n).workNote work n).modSlice i (fun x => { x with booked := AL.upd (bookKey tag kinds) 0 (· + n) x.booked })

/-- Booked segments are used. -/
def State.unbook (s : State) (i tag : Nat) (kinds : List Nat) (b : Nat) : State :=
  if b = 0 then s else s.modSlice i (fun x => { x with
    booked := AL.put (bookKey tag kinds) (AL.getD (bookKey tag kinds) 0 x.booked - b) x.booked })

/-- Segments of a job's pass that have run. -/
def SliceSt.ran (x : SliceSt) (k : JobKey) : Nat := ((x.segs.find? (fun q => q.1 == k)).map (·.2)).getD 0

/-- A slice is up: its domain ON or IDLE, its instance enabled and not quiescing. -/
def State.sliceUp (s : State) (i : Nat) : Bool := s.domUp (10 + i / 4) && s.accepts Blk.DSL i

/-- A slice with room for `n` segments of some kinds in this beat, looked for from slice `k` on: parity passes and LDT packets are of no
slice by any rule (log entry 176). -/
def State.roomySlice (s : State) (kinds : List Nat) (n : Nat) (work : Bool) (k : Nat) : Option Nat :=
  ((List.range 16).map (fun i => (k + i) % 16)).find? (fun i => s.sliceUp i && decide (n ≤ s.segRoom i kinds work))

/-- Run a pass of `need` segments as far as this beat allows: booked segments first, then what the slice has room for; the rest runs
in later beats (R345 to R348). True once the pass has run whole. -/
def State.segRun (s : State) (i : Nat) (kinds : List Nat) (k : JobKey) (need tag : Nat) (work : Bool) : Bool × State :=
  let left := need - (s.slice i).ran k
  let b := min left (s.bookedFor i tag kinds)
  let n := min (left - b) (s.segRoom i kinds work)
  let s := ((if n = 0 then s else (s.segCharge i kinds n).workNote work n).unbook i tag kinds b).modSlice i (fun x => { x with
    segs := x.segs.filter (fun q => q.1 != k) ++ (if left = b + n then [] else [(k, need - (left - b - n))]) })
  (left == b + n, s)

/-! ### The stored form of a chunk (Table 4.6) -/

/-- The stream length of a chunk in a compressed delivery (R403). -/
def CtbEnt.streamLen (e : CtbEnt) : Nat := if e.raw then 4096 * e.orig else 512 * e.len - 64

/-- The DEFLATE stream of a chunk as a number: the bytes that its deflater wrote, or, for a chunk that another head compressed, those of
its stored form. -/
def CtbEnt.plain (e : CtbEnt) : Nat :=
  if e.deflated = [] then Config.plainStream e.fp e.data / 2 ^ 512 % 256 ^ e.streamLen else bytesNum e.deflated % 256 ^ e.streamLen

/-- The stream of a chunk (R141): its DEFLATE stream, or its stored data. -/
def CtbEnt.stream (e : CtbEnt) : Nat :=
  if e.raw then (e.data.zipIdx).foldl (fun v (q : Nat × Nat) => v + q.1 * 256 ^ (4096 * q.2)) 0
  else e.plain

/-- Bytes 44 to 47 of a chunk header. -/
def CtbEnt.hdrWord (e : CtbEnt) : Nat :=
  e.vat % 4096 * 2 ^ 20 + e.keyGen % 256 * 4096 + e.orig % 32 * 128 + b2n e.raw * 64 + b2n e.dynamic * 32

/-- Header bytes 0 to 47 of a chunk (Table 4.6): `FP` in digest order and `NONCE` most significant byte first (R192, R202; log entry
162). -/
def CtbEnt.header (e : CtbEnt) : Nat := swapBytes 32 e.fp + swapBytes 12 (e.nonce % 2 ^ 96) * 2 ^ 256 + e.hdrWord * 2 ^ 352

/-- A stored chunk: header and payload (Table 4.6). -/
def CtbEnt.stored (e : CtbEnt) : Nat :=
  (e.header + e.gtag % 2 ^ 128 * 2 ^ 384 + Config.storedPayload e.vat e.keyGen e.nonce e.stream * 2 ^ 512) % 2 ^ (8 * 512 * e.len)

/-- The first `n` pieces of 4 KiB of a number of bytes. -/
def pieces (n v : Nat) : List Nat := (List.range n).map (fun i => v / 2 ^ (32768 * i) % 2 ^ 32768)

/-! ### Staging (R350 to R352, R370) -/

/-- Staging units in use on a slice. -/
def State.stagedUnits (s : State) (i : Nat) : Nat := ((s.slice i).staged.map (fun q => q.2.units.length)).sum

/-- Segments write their output to staging units, which the job holds until its next pass has consumed them (R350). -/
def State.stage (s : State) (i : Nat) (k : JobKey) (units : List Nat) : State :=
  if units = [] then s else
    let s := s.modSlice i (fun x => { x with staged := x.staged.filter (fun q => q.1 != k) ++ [(k, ⟨units, s.beat⟩)] })
    s.set (F.DSL_CTX_STAGE_PEAK i) (max (s.get (F.DSL_CTX_STAGE_PEAK i)) (s.stagedUnits i))

/-- A job's units are consumed, or its job has ended: they are overwritten with zeros and released (R350, R352). -/
def State.unstage (s : State) (i : Nat) (k : JobKey) : State :=
  s.modSlice i (fun x => { x with staged := x.staged.filter (fun q => q.1 != k) })

/-- A job is of a request. -/
def JobKey.ofTag (t : Nat) : JobKey → Bool
  | .copy u _ => u == t
  | .rebuild u _ => u == t
  | .deliver u => u == t
  | .run u _ => u == t
  | _ => false

/-- The jobs of a request end in a slice before they have handed on what they hold: it is zeroed, and each zeroing is counted; its
inflater is free (R370, R381). -/
def State.sliceJobsEnd (s : State) (i tag : Nat) : State :=
  let n := ((s.slice i).staged.filter (fun q => q.1.ofTag tag)).length
  let s := if n = 0 then s else s.bump (F.DSL_CPH_CNT_ZERO_COUNT i) n
  s.modSlice i (fun x => { x with
    staged := x.staged.filter (fun q => !q.1.ofTag tag), segs := x.segs.filter (fun q => !q.1.ofTag tag)
    infl := x.infl.filter (fun q => q.2.tag != tag), booked := x.booked.filter (fun q => q.1 / 8 != tag) })

/-- The jobs of a request end in every slice that has any. -/
def State.jobsEnd (s : State) (tag : Nat) : State :=
  (s.slices.filter (fun q => q.2.staged.any (fun x => x.1.ofTag tag) || q.2.segs.any (fun x => x.1.ofTag tag)
    || q.2.infl.any (fun x => x.2.tag == tag) || q.2.booked.any (fun x => x.1 / 8 == tag))).foldl (fun s q => s.sliceJobsEnd q.1 tag) s

/-! ### Inflaters (R381, R382, R396) -/

/-- An enabled inflater with no job bound; DESIGN CHOICE: the lowest-numbered (log entry 156). -/
def State.freeInfl (s : State) (i : Nat) : Option Nat :=
  (List.range 24).find? (fun n => bitOf (s.get (F.DSL_CMP_CFG_INFL_EN i)) n && !AL.has n (s.slice i).infl)

/-- The inflater that a read is bound to. -/
def State.inflOf (s : State) (i tag : Nat) : Option (Nat × InflBind) := (s.slice i).infl.find? (fun q => q.2.tag == tag)

/-- Bind a read to an inflater, or add to what it has reserved there: 16 segments for each chunk (R382, R396). DESIGN CHOICE: the chunks of
one read share one (log entry 157). -/
def State.bindInfl (s : State) (i tag : Nat) (cids : List Nat) : State :=
  if cids = [] then s else
    match ((s.inflOf i tag).map (·.1)) <|> (s.freeInfl i) with
    | none => s
    | some n =>
      s.modSlice i (fun x => { x with
        infl := AL.upd n { tag := tag } (fun b => { b with rsv := cids.foldl (fun m c => AL.put c 16 m) b.rsv }) x.infl })

/-- The header check returns the segments beyond the chunk's blocks (R396); a raw chunk needs none. -/
def State.inflTrim (s : State) (i tag cid n : Nat) : State :=
  match s.inflOf i tag with
  | some (u, b) =>
    let l := if n = 0 then AL.del cid b.rsv else AL.put cid n b.rsv
    s.modSlice i (fun x => { x with infl := if l = [] then AL.del u x.infl else AL.put u { b with rsv := l } x.infl })
  | none => s

/-- An inflate job has ended; the unit is free once the read has no other there. -/
def State.inflDone (s : State) (i tag cid : Nat) : State :=
  match s.inflOf i tag with
  | some (u, b) =>
    let l := AL.del cid b.rsv
    s.modSlice i (fun x => { x with infl := if l = [] then AL.del u x.infl else AL.put u { b with rsv := l } x.infl })
  | none => s

/-- Segments a compression unit has had in this beat: inflaters 0 to 23, deflaters from 24. -/
def State.unitLoad (s : State) (i u : Nat) : Nat := AL.getD u 0 (s.slice i).unitLoad

/-- Run an inflate or compress job on its unit as far as the unit's capacity and the slice's slots of this beat allow, booked ones first
(R351, R382, R383). True once the job has run whole. -/
def State.unitRun (s : State) (i u cap kind : Nat) (k : JobKey) (need tag : Nat) (work : Bool) : Bool × State :=
  let left := min (need - (s.slice i).ran k) (cap - s.unitLoad i u)
  let b := min left (s.bookedFor i tag [kind])
  let n := min (left - b) (s.segRoom i [kind] work)
  let done := need - (s.slice i).ran k == b + n
  let s := ((if n = 0 then s else (s.segCharge i [kind] n).workNote work n).unbook i tag [kind] b).modSlice i (fun x => { x with
    unitLoad := AL.upd u 0 (· + (b + n)) x.unitLoad
    segs := x.segs.filter (fun q => q.1 != k) ++ (if done then [] else [(k, x.ran k + b + n)]) })
  (done, s)

/-! ### Deflaters (R381, R384, R385) -/

/-- An enabled deflater with no job bound; DESIGN CHOICE: the lowest-numbered (log entry 156). -/
def State.freeDefl (s : State) (i : Nat) : Option Nat :=
  (List.range 8).find? (fun n => bitOf (s.get (F.DSL_CMP_CFG_DEFL_EN i)) n && !AL.has n (s.slice i).defl)

/-- The deflater that a compress job is bound to. -/
def State.deflOf (s : State) (i j : Nat) : Option Nat := ((s.slice i).defl.find? (fun q => q.2 == j)).map (·.1)

/-- A compress job leaves its deflater. -/
def State.deflDone (s : State) (i j : Nat) : State := s.modSlice i (fun x => { x with defl := x.defl.filter (fun q => q.2 != j) })

/-- The busy bits of units. -/
def busyBits (l : List Nat) : Nat := l.eraseDups.foldl (fun a n => a + 2 ^ n) 0

/-! ### A new beat -/

/-- Nothing is reserved yet in a new beat. -/
def State.freshSlots (s : State) : State :=
  { s.set (F.ADM_POOL_USED 7) 0 with
    slices := AL.mapV (fun _ x => { x with load := [], unitLoad := [], booked := [] }) s.slices
    adm := { s.adm with workSlots := 0 } }

/-- The request to which a staged job belongs. -/
def JobKey.tagOf (s : State) : JobKey → Nat
  | .copy t _ => t
  | .rebuild t _ => t
  | .deliver t => t
  | .run t _ => t
  | .chunk j => ((AL.get j s.write.jobs).map (·.tag)).getD 0
  | .out j => ((AL.get j s.write.jobs).map (·.tag)).getD 0

/-- The engine with which the next pass of a staged job begins (Table 8.2): an inflater where its stream waits for one, a deflater for
a chunk that waits for one, else a cipher lane. -/
def JobKey.nextKind (s : State) (i : Nat) : JobKey → Nat
  | .copy t c => if (s.slice i).infl.any (fun q => q.2.tag == t && AL.has c q.2.rsv) then 6 else 0
  | .chunk j => if ((AL.get j s.write.jobs).map (fun x => x.stage == .compress)).getD false then 7 else 0
  | _ => 0

/-- The next passes of jobs that hold staging units filled in an earlier beat have their segments before any other request: no later
than the second beat after (R351). Those of chunks are chunking work (R188). -/
def State.bookStaged (s : State) : State :=
  s.slices.foldl (fun s q => (q.2.staged.filter (fun x => decide (x.2.beat < s.beat))).foldl (fun s x =>
    let k := x.1.nextKind s q.1
    let work := match x.1 with | .chunk _ | .out _ => true | _ => false
    s.book q.1 (x.1.tagOf s) [k] (min x.2.units.length (s.segRoom q.1 [k] work)) work) s) s

end Sys2Proof.Machine
end

