-- ==== Sys2Proof/Machine/Adm.lean ====
section
/-! DEFINITION. Chapter 1, admission: requests with their budgets and deadlines, hazards between commands (chapter 3), how
requests end, and late work. -/

namespace Sys2Proof.Machine

/-! ### Budgets and deadlines (R41, R42, R49, Table 1.3) -/

/-- A profile's budgets H, M, MQ, X, W, F, A in beats. -/
def State.budgets (s : State) (p : Nat) : List Nat :=
  [s.get (F.ADM_BUDGET_CFG_H p), s.get (F.ADM_BUDGET_CFG_M p), s.get (F.ADM_BUDGET_CFG_MQ p), s.get (F.ADM_BUDGET_CFG_X p),
   s.get (F.ADM_BUDGET_CFG_W p), s.get (F.ADM_BUDGET_CFG_F p), 16 * s.get (F.ADM_BUDGET_CFG_A p)]

/-- The budget profile of a volume; profile 0 where it names none (R42). -/
def State.profileOf (s : State) (v : Option Nat) : Nat :=
  match v.bind (fun v => AL.get v s.vat.vols) with
  | some vol => vol.profile
  | none => 0

/-- Parts of a request. -/
def Req.parts (r : Req) : Nat := max 1 (ceilDiv r.blocks 64)

/-- Take in a request: its tag, arrival number, the budgets it keeps and its deadline (R42). Data that came in the command's capsule
has arrived with it (Table 1.3, R439). -/
def State.newReq (s : State) (r : Req) (named : Bool) : Nat × State :=
  let b := s.budgets (s.profileOf (if named then some r.vol else none))
  let t := s.adm.nextTag
  let r := { r with tag := t, budgets := b, countBeat := s.beat, deadline := s.beat + b.getD r.cls 0, seq := s.adm.nextSeq
                    dataIn := r.dataIn || r.icd != [] }
  (t, { s with adm := { s.adm with reqs := AL.put t r s.adm.reqs, nextTag := (t + 1) % 2 ^ 32, nextSeq := s.adm.nextSeq + 1 } })

/-- A read's working class rises to a contribution, and its deadline with it; it never falls (R42, R120). -/
def Req.raiseClass (r : Req) (c : Nat) : Req :=
  if c ≤ r.cls then r else { r with cls := c, deadline := r.countBeat + r.budgets.getD c 0 }

/-- The order of classes among equal deadlines: W, F, H, X, M, MQ, A (R41). -/
def classRank (c : Nat) : Nat := [2, 4, 5, 3, 0, 1, 6].getD c 7

/-- A request is not yet admitted. -/
def Req.unadmitted (r : Req) : Bool :=
  match r.stage with
  | .resolving | .slow _ | .held | .waiting => true
  | _ => false

/-- Requests waiting in ADM (R44, `ADM_LOAD.WAITING`). -/
def State.waitingCount (s : State) : Nat := (s.adm.reqs.filter (fun q => q.2.unadmitted)).length

/-- ADM holds as many waiting requests as it can: the engines take no new command (R44). -/
def State.admFull (s : State) : Bool := decide (32768 ≤ s.waitingCount)

/-! ### Hazards (R145, R146, R148, R149) -/

/-- A request has reached its resolve point: a read when the resolution of its last part has ended with its pins taken (R146). -/
def Req.resolved (r : Req) : Bool :=
  match r.kind, r.stage with
  | .read, .resolving | .read, .slow _ | .read, .held => false
  | .read, .waiting => decide (r.parts ≤ r.part + 1)
  | .fetch, .resolving | .fetch, .slow _ | .fetch, .held => false
  | .repChunks, .resolving | .repChunks, .slow _ | .repChunks, .held | .repChunks, .awaitData => false
  | .write, .entered | .zeroes, .entered | .dealloc, .entered => true
  | .write, .acked | .zeroes, .acked | .dealloc, .acked => true
  | .write, .completing | .zeroes, .completing | .dealloc, .completing => true
  | .write, .done | .zeroes, .done | .dealloc, .done => true
  | .write, _ | .zeroes, _ | .dealloc, _ => false
  | _, _ => true

/-- A command that names blocks and is resolved as a read: a read, and the FETCH and REP_CHUNKS of another head (R551, R560). -/
def Req.readLike (r : Req) : Bool := r.kind == .read || r.kind == .fetch || r.kind == .repChunks

/-- A command whose order with others is kept: one resolved as a read, a write, Write Zeroes or deallocate. -/
def Req.ranged (r : Req) : Bool := r.readLike || r.kind == .write || r.kind == .zeroes || r.kind == .dealloc

/-- Two requests came from one submission queue or one LDT connection. -/
def Req.sameQueue (a b : Req) : Bool :=
  match a.origin, b.origin with
  | .nvt c _, .nvt d _ => c == d
  | .ldt c _, .ldt d _ => c == d
  | _, _ => false

/-- The LBA ranges of a request; until the list of a deallocate or of REP_CHUNKS has come they may be any (R145, R492, R560). -/
def Req.lbas (r : Req) : List (Nat × Nat) :=
  if r.ranges = [] then (if r.kind = .dealloc ∨ r.kind = .repChunks then [(0, 2 ^ 38)] else [(r.lba, r.blocks)]) else r.ranges

/-- Two requests overlap on one volume. -/
def Req.overlaps (a b : Req) : Bool :=
  a.vol == b.vol && a.lbas.any (fun x => b.lbas.any (fun y => decide (x.1 < y.1 + y.2) && decide (y.1 < x.1 + x.2)))

/-- A request is held: an earlier one of its queue that overlaps it has not reached its resolve point (R145), or an ORDERED
command stands between (R148). -/
def State.isHeld (s : State) (r : Req) : Bool :=
  s.adm.reqs.any (fun q => decide (q.2.seq < r.seq) && q.2.sameQueue r && q.2.ranged && !q.2.resolved &&
    (q.2.overlaps r || r.ordered || q.2.ordered))

/-! ### Sources and pins (R106, R112) -/

/-- The distinct chunks that sources name. -/
def srcChunks (l : List (Nat × Source)) : List Nat :=
  (l.filterMap (fun q => match q.2 with | .chunk c => some c | _ => none)).eraseDups

/-- The distinct foreign chunks. -/
def srcForeign (l : List (Nat × Source)) : List Nat :=
  (l.filterMap (fun q => match q.2 with | .foreign c => some c | _ => none)).eraseDups

/-- The distinct journal records. -/
def srcRecs (l : List (Nat × Source)) : List Nat :=
  (l.filterMap (fun q => match q.2 with | .journal k => some k | .peerJournal k => some k | _ => none)).eraseDups

/-- The band in which a read found a chunk (R112). -/
def Req.bandOf (r : Req) (cid : Nat) : Nat := (AL.getD cid {} r.ents).band

/-- The sources that a read still pins: a chunk's pin goes when its data has entered the slice and proved good (R112). -/
def Req.pinned (r : Req) : List (Nat × Source) :=
  r.sources.filter (fun q => match q.2 with | .chunk c => !r.verified.contains c | _ => true)

/-- The peer is told of pins and their release: one for each record, and one for each chunk, naming the band in which the read found it
(R112). -/
def State.pinNote (s : State) (mtype : Nat) (r : Req) (l : List (Nat × Source)) : State :=
  if s.mode = .paired then
    let s := (srcRecs l).foldl (fun s k => s.sendPeer mtype 0 [0, k]) s
    (srcChunks l).foldl (fun s c => s.sendPeer mtype 0 [1, r.bandOf c]) s
  else s

/-- Retire or erase what a pin held back may now proceed; the peer is told (R112). -/
def State.unpin (s : State) (r : Req) (l : List (Nat × Source)) : State := s.pinNote 0xD r l

/-- Draw units from the reserve of pool 6: `ADM_POOL[6].USED` does not show them (log entry 130). -/
def State.reserveTake (s : State) (k : Nat) : State := { s with adm := { s.adm with reserveUsed := s.adm.reserveUsed + k } }

/-- Return them. -/
def State.reserveGive (s : State) (k : Nat) : State := { s with adm := { s.adm with reserveUsed := s.adm.reserveUsed - k } }

/-- Drive the slow-path interrupt source from its queue (R113). -/
def State.slowIrq (s : State) : State := s.irqIs Slot.RDP 1 (!s.read.slowQ.isEmpty)

/-! ### How requests end (R46, R53, R720) -/

/-- Requests waiting in the slow path. -/
def State.slowCount (s : State) : Nat :=
  (s.adm.reqs.filter (fun q => match q.2.stage with | .slow _ => true | _ => false)).length

/-- Discard the records of a command that have landed and not entered (R170, R182, R183). -/
def State.dropLanded (s : State) (tag : Nat) : State :=
  s.modWrite (fun w => { w with recs := w.recs.filter (fun q => !(q.2.own && q.2.tag == tag && q.2.state == 1)) })

/-- The fetches of a request stop: the reserve units they drew return (R40, R126), and what its jobs hold in a slice is zeroed
(R370). -/
def State.dropFetches (s : State) (tag : Nat) : State :=
  let mine := s.read.fetches.filter (fun q => q.2.tag == tag)
  let s := s.reserveGive ((mine.map (fun q => q.2.reserve)).sum)
  (s.modRead (fun r => { r with fetches := r.fetches.filter (fun q => q.2.tag != tag) })).jobsEnd tag

/-- What a command that ends before its entry gives back: its pins, the space it reserved and its place in the range overlay; one that
has entered keeps that place for its commit (R211). -/
def State.unhold (s : State) (tag : Nat) : State :=
  match s.req tag with
  | some r => ((s.unpin r r.pinned).drop F.WRP_SPACE_RSV_UNITS r.rsv).modWrite (fun w => { w with
      ranges := if r.stage = .entered then w.ranges else w.ranges.filter (· != tag) })
  | none => s

/-- End a request by a decision of the head: everything it holds but its completion slot returns, its fetches stop, and its
completion leaves in the next beat (R46, R720). Condition 0 is success. -/
def State.finish (s : State) (tag cond : Nat) : State :=
  let s := [1, 2, 3, 5, 6, 7].foldl (fun s n => s.reqGive tag n) s
  let s := ((s.dropFetches tag).dropLanded tag).unhold tag
  s.modReq tag (fun r => { r with stage := .completing, cond := cond, endBeat := s.beat, sources := [], rsv := 0, rsvs := [], content := [], inWait := [] })

/-- A request is judged late only against its final deadline: a Write's stands once its last data byte has arrived (R42). -/
def Req.judged (r : Req) : Bool := r.kind != .write || r.dataIn

/-- Latency samples of a completion, on its class (R53, Table 18.4). -/
def State.sampleDone (s : State) (r : Req) : State :=
  let s := s.sample r.cls (s.beat - r.countBeat)
  if r.judged ∧ r.deadline < s.beat then s.sample (7 + r.cls) (s.beat - r.deadline) else s

/-- Forget a request: it returns whatever it still holds. -/
def State.dropReq (s : State) (tag : Nat) : State :=
  let s := (s.reqGiveAll tag).dropFetches tag
  let s := (s.modRead (fun r => { r with slowQ := r.slowQ.filter (fun q => q.tag != tag) })).slowIrq
  let s := (s.dropLanded tag).unhold tag
  { s with adm := { s.adm with reqs := AL.del tag s.adm.reqs } }

/-! ### Late work (R54, R55) -/

/-- The fetch of a request that an operation in a media command queue serves. -/
def MOp.fetchOf (s : State) (tag : Nat) (o : MOp) : Bool :=
  match o.purpose with
  | .fetch id => ((AL.get id s.read.fetches).map (fun f => f.tag == tag)).getD false
  | .move cid => ((s.req tag).map (fun r => (r.kind == .move || r.kind == .redye) && r.lba == cid)).getD false
  | _ => false

/-- A request has work in an engine of its slice: a pass of one of its jobs has begun, or its output is staged. -/
def State.inEngine (s : State) (r : Req) : Bool :=
  (s.slice r.slice).segs.any (fun q => q.1.ofTag r.tag) || (s.slice r.slice).staged.any (fun q => q.1.ofTag r.tag)

/-- The stage a late record gives (R54, Table 1.4): work that is being fetched stands in a media command queue while one of its
operations waits there, and in the reply buffers while its data is to come; with all its data there it stands before an engine's input,
or in none of the stages once an engine has begun on it. A move with no read outstanding is being written. -/
def State.lateStage (s : State) (r : Req) : Nat :=
  match r.stage with
  | .resolving | .slow _ | .held | .waiting => 6
  | .completing => 1
  | .delivering => 2
  | .fetching =>
    if s.media.links.any (fun l => l.2.waiting.any (fun o => o.fetchOf s r.tag)) then 4
    else if s.media.links.any (fun l => l.2.ops.any (fun o => o.fetchOf s r.tag))
      || (s.read.fetches.filter (fun q => q.2.tag == r.tag)).any (fun q => !q.2.done) then 3
    else if r.kind = .move ∨ r.kind = .redye ∨ s.inEngine r then 0 else 5
  | _ => 0

/-- A request past its escalation point (R54): more than 256 beats past its deadline and not yet recorded. -/
def State.overdue (s : State) (tag : Nat) : Option LateRec :=
  let age (d : Nat) : Nat := min 65535 (s.beat - d)
  match s.req tag with
  | some r => if r.judged ∧ !r.escalated ∧ r.deadline + 256 < s.beat then some ⟨r.cls, s.lateStage r, age r.deadline, tag⟩ else none
  | none =>
    match s.adm.egress.find? (fun e => e.tag == tag) with
    | some e => if !e.escalated ∧ e.deadline + 256 < s.beat then some ⟨e.cls, 1, age e.deadline, tag⟩ else none
    | none => none

/-- `BUDGET_ESCALATED` (R54, R55): a request more than 256 beats past its deadline pushes one late record, or the record is
discarded and counted; the condition is raised. -/
def execBudgetEscalated (tag : Nat) (s : State) : Res :=
  .next (match s.overdue tag with
    | none => s
    | some rec0 =>
      let s := s.modReq tag (fun r => { r with escalated := true, late := true })
      let s : State := { s with adm := { s.adm with
        egress := s.adm.egress.map (fun e => if e.tag = tag then { e with escalated := true } else e) } }
      let s := if s.adm.lateQ.length < 256 then
          ({ s with adm := { s.adm with lateQ := s.adm.lateQ ++ [rec0] } }).irq Slot.ADM 1
        else s.satInc F.ADM_STAT_LATE_Q_OVF 1
      s.raise Slot.ADM Cond.BUDGET_ESCALATED tag)

/-- A late record as `ADM_LATE_Q` shows it (Table 1.16). -/
def LateRec.word (r : LateRec) : Nat := 2 ^ 63 + r.cls * 2 ^ 60 + r.stage * 2 ^ 57 + r.late * 2 ^ 32 + r.tag

/-- `ADM_LATE_Q_READ` (R55, Table 1.16): the oldest record is answered and removed; `LATE` follows the queue. -/
def execAdmLateQRead (m : Nat) (s : State) : Res :=
  .next (s.busRd m Slot.ADM 0x110 (fun s =>
    match s.adm.lateQ with
    | [] => s.answer 0
    | r :: t => ({ s.answer r.word with adm := { s.adm with lateQ := t } }).irqIs Slot.ADM 1 (!t.isEmpty)))

end Sys2Proof.Machine
end

