-- ==== Sys2Proof/Machine/Link.lean ====
section
/-! DEFINITION. Chapter 7: requests to bricks with their credits, tags and deadlines, the replay of media flits, and the
die formulas they are shaped by. -/

namespace Sys2Proof.Machine

/-! ### Parts of the state -/

/-- A media lane. -/
def State.link (s : State) (ln : Nat) : LinkSt := AL.getD ln {} s.media.links

/-- Change a media lane. -/
def State.modLink (s : State) (ln : Nat) (f : LinkSt → LinkSt) : State :=
  s.modMedia (fun m => { m with links := AL.upd ln {} f m.links })

/-- A brick. -/
def State.brick (s : State) (k : Nat) : BrickSt := AL.getD k {} s.media.bricks

/-- Change a brick. -/
def State.modBrick (s : State) (k : Nat) (f : BrickSt → BrickSt) : State :=
  s.modMedia (fun m => { m with bricks := AL.upd k {} f m.bricks })

/-- The page of a media lane's registers. -/
def mdlSlot (ln : Nat) : Nat := Slot.MDL + ln / 4

/-- The page of a brick's registers. -/
def brkSlot (k : Nat) : Nat := Slot.BRK + k / 16

/-- A link is ACTIVE. -/
def State.linkActive (s : State) (ln : Nat) : Bool := s.get (F.MDL_LINK_STAT_STATE ln) == 4

/-- Set a link's state; any change sets `LINK_CHANGE`, entry to ACTIVE its beat (Table 7.16), and the first flit after ALIGN or
RECOVER finds both scramblers at all ones (R317). A brick whose link leaves ACTIVE is no longer reachable for a running dump (R297). -/
def State.linkTo (s : State) (ln st : Nat) : State :=
  let s := if s.get (F.MDL_LINK_STAT_STATE ln) = st then s else s.irq (mdlSlot ln) 1
  let s := if st = 4 then s else s.modFtl (fun t => { t with dumpBricks := t.dumpBricks.filter (· != ln) })
  let s := (s.set (F.MDL_LINK_STAT_STATE ln) st).modLink ln (fun l => { l with stateBeat := s.beat, tbRun := 0, eqRun := 0, p3Run := 0, badRun := 0, timerRun := 0 })
  if st = 4 then (s.set (F.MDL_LINK_STAT_UP_BEAT ln) s.beat32).modLink ln (fun l => { l with
    ackBeat := s.beat, scrTx := scrStart, scrRx := scrStart }) else s

/-- Set a brick's state; any change sets `BRICK_CHANGE` (Table 7.14). -/
def State.brickTo (s : State) (k st : Nat) : State :=
  if s.get (F.BRK_STAT_STATE k) = st then s else (s.set (F.BRK_STAT_STATE k) st).irq (brkSlot k) 1

/-! ### Die formulas (Tables 7.10 and 7.11) -/

/-- Word `i` of the formula in a slot; zero where the slot is empty. -/
def State.formWord (s : State) (slot i : Nat) : Nat := ((AL.getD slot [] s.media.formulas).getD i 0)

/-- The first operation entry of a kind that serves a mode (1 SLC, 2 dense, 0 either). -/
def State.formOp (s : State) (slot kind mode : Nat) : Option Nat :=
  (List.range 64).find? (fun i =>
    let w := s.formWord slot (16 + 4 * i)
    bitsOf w 60 4 == kind && (bitsOf w 56 4 == 0 || mode == 0 || bitsOf w 56 4 == mode))

/-- `T_MAX` of an entry, in units of 100 ns. -/
def State.formTmax (s : State) (slot op : Nat) : Nat := bitsOf (s.formWord slot (16 + 4 * op + 2)) 32 32

/-- The slot of the formula that a brick uses. -/
def State.slotOfBrick (s : State) (k : Nat) : Nat := s.get (F.BRK_STAT_SLOT k)

/-- Strip-pages per block in a mode (Table 7.10). -/
def State.spp (s : State) (k : Nat) (dense : Bool) : Nat :=
  bitsOf (s.formWord (s.slotOfBrick k) 2) (if dense then 38 else 51) 13

/-- Erase blocks of the system area. -/
def State.sysBlocks (s : State) (k : Nat) : Nat := bitsOf (s.formWord (s.slotOfBrick k) 1) 8 12

/-- The brick's dies are QLC (`CELL` 2). -/
def State.isQlc (s : State) (k : Nat) : Bool := bitsOf (s.formWord (s.slotOfBrick k) 0) 24 4 == 2

/-! ### Sending requests (R322, R327, R329, R337) -/

/-- Flits of a message with `len` data bytes: its header and data slots, eight to a flit. -/
def msgFlits (len : Nat) : Nat := ceilDiv (1 + ceilDiv len 32) 8

/-- Data bytes a request carries (Table 7.5). -/
def MOp.data (o : MOp) : Nat :=
  if o.mtype = 2 ∨ o.mtype = 0xA then 65536 else if o.mtype = 8 then 2304 else 0

/-- A request that changes a die of a shard: PROGRAM, ERASE or DIE_RESET. -/
def MOp.changes (o : MOp) : Bool := o.mtype == 2 || o.mtype == 3 || o.mtype == 0xC

/-- A request runs an operation entry of the formula on a die. -/
def MOp.onNand (o : MOp) : Bool := decide (1 ≤ o.mtype) && decide (o.mtype ≤ 4) || decide (0xA ≤ o.mtype) && decide (o.mtype ≤ 0xC)

/-- The media fence of a shard is closed (bit 1 of its fence bits; R515). -/
def State.mediaFenced (s : State) (sh : Nat) : Bool := bitOf (s.fenceBits sh) 1

/-- A request may leave now: the link is ACTIVE, its credits are held, but for the IDENT_GET whose answer brings the first, the replay buffer has room, and a request that changes
a die has its shard unfenced, owned by this head at the brick and not refused (R319, R322, R327, R329). -/
def State.canSend (s : State) (ln : Nat) (o : MOp) : Bool :=
  let l := s.link ln
  s.linkActive ln && s.maySend (.brick ln) o.mtype
    && decide (1 ≤ s.get (F.MDL_CREDIT_CMD_AVAIL ln) ∨ o.mtype = 9 ∧ s.get (F.MDL_CREDIT_CMD_ADV ln) = 0)
    && (o.data < 65536 || decide (16 ≤ s.get (F.MDL_CREDIT_WDATA_AVAIL ln)))
    && decide ((l.txSeq + 4096 - l.ackedTo) % 4096 + msgFlits o.data ≤ 1024)
    && (!o.changes || (!s.mediaFenced (o.die % 2) && (s.brick ln).owned.contains (o.die % 2)
        && !s.media.refusedShards.contains (o.die % 2)))

/-- A tag that no outstanding or timed-out request of the link uses (R322, R337). -/
def LinkSt.freeTag (l : LinkSt) : Nat → Nat → Nat
  | 0, t => t
  | n + 1, t => if l.lateTags.contains t || l.ops.any (fun o => o.tag == t) then l.freeTag n ((t + 1) % 65536) else t

/-- The beat after which an operation has timed out (R337): its own `T_MAX`, those of the operations ahead of it on the die,
and 64 beats; 64 beats alone for one that names no die. -/
def State.opDeadline (s : State) (ln : Nat) (o : MOp) : Nat :=
  if !o.onNand then s.beat + 64 else
  let slot := s.slotOfBrick ln
  let ahead := ((s.link ln).ops.filter (fun q => q.die == o.die && q.onNand)).map (fun q => s.formTmax slot q.op)
  s.beat + ceilDiv (s.formTmax slot o.op + ahead.sum) 80 + 64

/-! ### The head's model of a die's queue (R333, R334, R336) -/

/-- A time of a formula entry, in units of 100 ns: `T_TYP`. -/
def State.formTtyp (s : State) (slot op : Nat) : Nat := bitsOf (s.formWord slot (16 + 4 * op + 2)) 0 32

/-- A request occupies a die as a program, an erase or a reset does. -/
def MOp.occupies (o : MOp) : Bool := o.changes || o.mtype == 0xA || o.mtype == 0xB

/-- Requests of a link that stand on a die. -/
def LinkSt.onDie (l : LinkSt) (die : Nat) : List MOp := l.ops.filter (fun o => o.die == die)

/-- The operation that the head's model has running on a die, beside reads. -/
def LinkSt.running (l : LinkSt) (die : Nat) : Option MOp := (l.onDie die).find? MOp.occupies

/-- URGENT reads stand on a die, for which what runs there is suspended. -/
def LinkSt.urgentOn (l : LinkSt) (die : Nat) : Bool := (l.onDie die).any (fun o => o.mtype == 1 && o.urgent)

/-- The entry of an operation lets it be suspended once more (R334). -/
def State.maySuspend (s : State) (slot : Nat) (o : MOp) : Bool :=
  bitOf (s.formWord slot (16 + 4 * o.op)) 55 && decide (o.susps < bitsOf (s.formWord slot (16 + 4 * o.op + 3)) 44 4)

/-- Time in units of 100 ns that an operation has run since it started or resumed. -/
def MOp.ranNow (o : MOp) (beat : Nat) : Nat :=
  match o.start with
  | some b => 80 * (beat - b)
  | none => 0

/-- Time in units of 100 ns until a die can begin a read that is sent now: what is left of the operation that runs there, or the
suspend latency after the rest of `MIN_RUN` where R334 allows a suspend; nothing while it is suspended already (log entry 24). -/
def State.dieBusy (s : State) (ln die : Nat) (urgent : Bool) : Nat :=
  let l := s.link ln
  let slot := s.slotOfBrick ln
  match l.running die with
  | none => 0
  | some o =>
    let now := o.ranNow s.beat
    let w := s.formWord slot (16 + 4 * o.op + 3)
    if urgent ∧ l.urgentOn die ∧ o.susps ≠ 0 then 0
    else if urgent ∧ s.maySuspend slot o then bitsOf w 48 16 + (bitsOf w 28 16 - now)
    else s.formTtyp slot o.op - (o.ran + now)

/-- E_d: the beat by which a range of `units` on a die would be in reply buffers if it were read now (R336). -/
def State.readBy (s : State) (ln die op units : Nat) (urgent : Bool) : Nat :=
  let l := s.link ln
  let slot := s.slotOfBrick ln
  let ahead := (((l.onDie die ++ l.waiting.filter (fun o => o.die == die)).filter (fun o => o.mtype == 1)).map (fun o => s.formTtyp slot o.op)).sum
  let t := ahead + s.dieBusy ln die urgent + s.formTtyp slot op
  let rate := bitsOf (s.formWord slot 0) 12 12
  let bytes := 512 * units
  s.beat + ceilDiv (625 * rate * t + 6250 * bytes + rate * bytes) (50000 * rate)

/-- An operation joins a die's queue in the head's model: it starts at once where nothing runs; an URGENT read suspends what runs. -/
def State.joinDie (s : State) (ln : Nat) (o : MOp) : State :=
  let l := s.link ln
  let slot := s.slotOfBrick ln
  let susp := o.mtype == 1 && o.urgent && !l.urgentOn o.die
  let o := { o with start := if (l.running o.die).isNone then some s.beat else none }
  let hit := (l.running o.die).map (·.tag)
  s.modLink ln (fun l => { l with
    ops := l.ops.map (fun q => if susp ∧ hit = some q.tag ∧ s.maySuspend slot q then
      { q with susps := q.susps + 1, ran := q.ran + q.ranNow s.beat, start := none } else q) ++ [o] })

/-- An operation leaves a die's queue: after the last URGENT read what was suspended resumes, and what stood behind it starts. -/
def State.leaveDie (s : State) (ln : Nat) (o : MOp) : State :=
  let l := s.link ln
  let moves := o.occupies || (o.mtype == 1 && o.urgent && !l.urgentOn o.die)
  let hit := (l.running o.die).map (·.tag)
  if moves then s.modLink ln (fun l => { l with ops := l.ops.map (fun q =>
    if hit = some q.tag then { q with start := q.start <|> some s.beat } else q) }) else s

/-! ### Flits out (R313, R316 to R319) -/

/-- Bits of a flit. -/
def flitBits : Nat := 8 * 272

/-- Put a flit on a lane: the scrambler is added and advances over it (R317). -/
def State.scrambled (s : State) (ln flit : Nat) : Nat × State :=
  let (x, st) := scramble flitBits (s.link ln).scrTx
  (flit ^^^ x, s.modLink ln (fun l => { l with scrTx := st }))

/-- The last DATA flit accepted, which every flit sent names (R319). -/
def LinkSt.lastRx (l : LinkSt) : Nat := (l.rxExp + 4095) % 4096

/-- A flit as it leaves: coded, with the latest `ACK`, and scrambled (R316, R317, R319). -/
def State.flitOut (s : State) (ln typ start seq slots : Nat) : State :=
  let (x, s) := s.scrambled ln (mediaFlit typ start 1 (s.link ln).lastRx seq slots)
  (s.modLink ln (fun l => { l with sent := l.sent + 1 })).send (.brick ln) 0x104 [x]

/-- A SKIP flit follows every 4,095 others (R313). -/
def State.skipGo (s : State) (ln : Nat) : State :=
  if (s.link ln).sent < 4095 then s else (s.flitOut ln 3 15 0 0).modLink ln (fun l => { l with sent := 0 })

/-- Send a flit. -/
def State.putFlit (s : State) (ln typ start seq slots : Nat) : State := (s.flitOut ln typ start seq slots).skipGo ln

/-- Send the next DATA flit of a lane: it is numbered, and held until it is acknowledged (R319). -/
def State.putData (s : State) (ln start slots : Nat) : State :=
  let q := (s.link ln).txSeq
  (s.modLink ln (fun l => { l with txSeq := (q + 1) % 4096, held := l.held ++ [(q, start, slots)] })).putFlit ln 1 start q slots

/-- The bytes that a request carries: a strip, or a formula's image. -/
def State.opBytes (s : State) (o : MOp) : Nat :=
  if o.mtype = 8 then bytesNum (wordBytes ((List.range 288).map (fun i => s.formWord o.arg i))) else o.strip

/-- The header of a request (Table 7.4): SET_ARRAY has its argument in word 3, SET_OWNER in word 2. -/
def MOp.header (o : MOp) : List Nat :=
  [o.mtype * 2 ^ 56 + b2n o.urgent * 2 ^ 55 + o.tag % 65536 * 2 ^ 32 + (if o.data = 0 then o.len else o.data) % 2 ^ 24,
   o.die % 64 * 2 ^ 58 + o.block % 2 ^ 19 * 2 ^ 39 + o.spage % 4096 * 2 ^ 26 + o.op % 64 * 2 ^ 20 + o.offset % 128 * 2 ^ 13,
   o.epoch % 2 ^ 32 * 2 ^ 32 + (if o.mtype = 5 then o.arg % 2 ^ 32 else 0), if o.mtype = 7 then o.arg else 0]

/-- Send a message: its header and data run through the slots of DATA flits, the last one filled up with padding, whose `MTYPE` is 0 (R318;
log entry 175). -/
def State.putMsg (s : State) (ln : Nat) (o : MOp) : State :=
  let m := bytesNum (wordBytes o.header) + s.opBytes o * 2 ^ 256
  (List.range (msgFlits o.data)).foldl (fun (s : State) i => s.putData ln (if i = 0 then 0 else 15) (m / 2 ^ (2048 * i) % 2 ^ 2048)) s

/-- Send a request now. -/
def State.emitOp (s : State) (ln : Nat) (o : MOp) : State :=
  let l := s.link ln
  let t := l.freeTag (l.ops.length + l.lateTags.length + 1) l.nextTag
  let o := { o with tag := t, deadline := s.opDeadline ln o, epoch := if o.changes then s.get (F.LSE_SHARD_EPOCH (o.die % 2)) else o.epoch }
  let s := (s.joinDie ln o).modLink ln (fun l => { l with
    nextTag := (t + 1) % 65536
    ackBeat := if l.txSeq = l.ackedTo then s.beat else l.ackBeat })
  let s := (s.putMsg ln o).drop (F.MDL_CREDIT_CMD_AVAIL ln) 1
  let s := if 65536 ≤ o.data then s.drop (F.MDL_CREDIT_WDATA_AVAIL ln) 16 else s
  let s := if o.urgent then s.satInc (F.MDL_OPS_URGENT ln) 1 else s
  s.send (.brick ln) o.mtype [t, o.die, o.block, o.spage, o.op, o.offset, o.len, o.epoch, o.arg, b2n o.urgent, o.strip]

/-- Send what waits and can now leave. -/
def State.pumpLink (s : State) (ln : Nat) : State :=
  let w := (s.link ln).waiting
  w.foldl (fun s o => if s.canSend ln o then s.emitOp ln o else s.modLink ln (fun l => { l with waiting := l.waiting ++ [o] }))
    (s.modLink ln (fun l => { l with waiting := [] }))

/-- Send a request, or let it wait for its credits in order of arrival. -/
def State.brickSend (s : State) (ln : Nat) (o : MOp) : State :=
  (s.modLink ln (fun l => { l with waiting := l.waiting ++ [o] })).pumpLink ln

/-- Take the outstanding request a reply's tag names. -/
def State.takeOp (s : State) (ln tag : Nat) : Option (MOp × State) :=
  ((s.link ln).ops.find? (fun o => o.tag == tag)).map (fun o =>
    (o, (s.modLink ln (fun l => { l with ops := l.ops.filter (fun q => q.tag != tag) })).leaveDie ln o))

/-- A brick returns the command credit with its reply (R322). -/
def State.replyCredit (s : State) (ln : Nat) : State :=
  s.set (F.MDL_CREDIT_CMD_AVAIL ln) (min (s.get (F.MDL_CREDIT_CMD_ADV ln)) (s.get (F.MDL_CREDIT_CMD_AVAIL ln) + 1))

/-- A reply frees the tag of a request that had timed out, brings its credit back and is discarded; one that names none is a protocol
error (R322, R324, R337). -/
def State.strayReply (s : State) (ln tag : Nat) : State :=
  if (s.link ln).lateTags.contains tag then
    ((s.replyCredit ln).modLink ln (fun l => { l with lateTags := l.lateTags.filter (· != tag) })).pumpLink ln
  else s.raise (mdlSlot ln) Cond.BRICK_PROTOCOL_ERROR tag

/-! ### Flits and replay (R318 to R321) -/
/-- Send one NAK naming the last flit accepted, and none again until a flit is accepted (R320); it leaves coded and scrambled
(R316, R317). -/
def State.sendNak (s : State) (ln : Nat) : State :=
  if (s.link ln).nakSent then s else
    ((((s.modLink ln (fun l => { l with nakSent := true })).satInc (F.MDL_REPLAY_CNT_NAKS ln) 1).send (.brick ln) 0x102
      [(s.link ln).lastRx])).putFlit ln 2 15 0 0

/-- An `ACK` advances over the flits it names (R319). -/
def State.ackFlits (s : State) (ln ack : Nat) : State :=
  let l := s.link ln
  let n := (ack + 1 + 4096 - l.ackedTo) % 4096
  if 0 < n ∧ n ≤ (l.txSeq + 4096 - l.ackedTo) % 4096 then
    (s.modLink ln (fun l => { l with
      ackedTo := (ack + 1) % 4096, ackBeat := s.beat, timerRun := 0
      held := l.held.filter (fun q => decide (n ≤ (q.1 + 4096 - l.ackedTo) % 4096)) })).pumpLink ln
  else s

/-- Resend what the replay buffer holds from a sequence number on (R321). -/
def State.resendFrom (s : State) (ln seq : Nat) : State :=
  let l := s.link ln
  if seq = l.txSeq then s
  else (l.held.filter (fun q => decide ((seq + 4096 - l.ackedTo) % 4096 ≤ (q.1 + 4096 - l.ackedTo) % 4096))).foldl
    (fun (s : State) q => s.putFlit ln 1 q.2.1 q.1 q.2.2) (s.send (.brick ln) 0x103 [seq])

/-- An IDLE flit, which carries the latest `ACK` where nothing else leaves (R319; log entry 175). -/
def State.idleFlit (s : State) (ln : Nat) : State := s.putFlit ln 0 15 0 0

/-- A received flit, decoded and judged (R318 to R320). -/
def State.flitRx (s : State) (ln : Nat) (decoded crcOk ackValid : Bool) (corrected typ ack seq : Nat) : State :=
  if !decoded then
    let s := (s.satInc (F.MDL_FEC_CNT_UNCORR ln) 1).modLink ln (fun l => { l with badRun := l.badRun + 1 })
    let s := s.sendNak ln
    if 8 ≤ (s.link ln).badRun then s.linkTo ln 5 else s
  else
    let s := (s.satInc (F.MDL_FEC_CNT_CORRECTED ln) corrected).modLink ln (fun l => { l with badRun := 0 })
    if !crcOk || decide (3 < typ) then (s.satInc (F.MDL_REPLAY_CNT_CRC_FAIL ln) 1).sendNak ln
    else
      let s := if ackValid then s.ackFlits ln ack else s
      if typ = 1 then
        let l := s.link ln
        if seq = l.rxExp then s.modLink ln (fun l => { l with rxExp := (l.rxExp + 1) % 4096, nakSent := false })
        else if (l.rxExp + 4096 - seq) % 4096 ≤ 2048 then s
        else s.sendNak ln
      else if typ = 2 then s.resendFrom ln ((ack + 1) % 4096)
      else s

/-- A flit off a lane, descrambled: the scrambler advances over it whatever it holds (R317). -/
def State.descrambled (s : State) (ln flit : Nat) : Nat × State :=
  let (x, st) := scramble flitBits (s.link ln).scrRx
  (flit ^^^ x, s.modLink ln (fun l => { l with scrRx := st }))

/-- A flit of a lane in ACTIVE: descrambled, decoded and checked, and what its header says (R316 to R320, Table 7.3). -/
def State.mediaFlit (s : State) (ln flit : Nat) : State :=
  let (x, s) := s.descrambled ln flit
  let f := mediaFlitIn x
  let h := f.header
  s.flitRx ln f.decoded f.crcOk (bitOf h 24) f.corrected (bitsOf h 29 3) (bitsOf h 12 12) (bitsOf h 0 12)

/-- `MEDIA_FLIT_RX` (R316 to R320): the 272 bytes of a flit as the lane carries them, while the link is ACTIVE. -/
def execMediaFlitRx (ln flit : Nat) (s : State) : Res := .next (if s.linkActive ln then s.mediaFlit ln flit else s)

/-- `MEDIA_NAK_RX` (R321): a NAK flit, over which the descrambler advances as over any (R317). -/
def execMediaNakRx (ln ack : Nat) (s : State) : Res :=
  .next (if s.linkActive ln then ((s.descrambled ln 0).2.ackFlits ln ack).resendFrom ln ((ack + 1) % 4096) else s)

/-- `MEDIA_REPLAY_TIMER` (R321, Table 7.2): 2 beats with unacknowledged flits and no advance; the eighth time in a row the
link leaves ACTIVE for RECOVER. -/
def execMediaReplayTimer (ln : Nat) (s : State) : Res :=
  .next (
    let l := s.link ln
    if s.linkActive ln ∧ l.txSeq ≠ l.ackedTo ∧ l.ackBeat + 2 ≤ s.beat then
      let s := (s.satInc (F.MDL_REPLAY_CNT_TIMER ln) 1).modLink ln (fun l => { l with timerRun := l.timerRun + 1, ackBeat := s.beat })
      let s := s.resendFrom ln l.ackedTo
      if 8 ≤ (s.link ln).timerRun then s.linkTo ln 5 else s
    else s)

/-! ### Reads and programs of members -/

/-- The mode code of a band for the formula: 1 SLC, 2 dense. -/
def modeCode (dense : Bool) : Nat := if dense then 2 else 1

/-- A request of one kind on a member's block, with the formula entry for the band's mode. -/
def State.memberOp (s : State) (m : Member) (mtype kind : Nat) (dense : Bool) (p : Purpose) : MOp :=
  { mtype := mtype, die := m.die, block := m.block, op := (s.formOp (s.slotOfBrick m.brick) kind (modeCode dense)).getD 0,
    purpose := p }

/-- The epoch of the lease held on a shard, for requests that carry one. -/
def State.epochOf (s : State) (sh : Nat) : Nat := s.get (F.LSE_SHARD_EPOCH sh)

/-- Count a read of a member's block (R293). -/
def State.countRead (s : State) (m : Member) : State :=
  s.modFtl (fun t => { t with reads := AL.upd m.word 0 (· + 1) t.reads })

/-- Read a range of a strip-page of a member. -/
def State.readMember (s : State) (m : Member) (dense : Bool) (spage offset units : Nat) (urgent : Bool) (p : Purpose) : State :=
  (s.countRead m).brickSend m.brick { s.memberOp m 1 1 dense p with
    spage := spage, offset := offset, len := units * 512
    urgent := urgent && s.get (F.MDL_LINK_CFG_URGENT_EN m.brick) == 1 }

/-- Program a strip-page of a member with 64 KiB under the lease's epoch. -/
def State.programMember (s : State) (m : Member) (dense : Bool) (shard spage strip : Nat) (p : Purpose) : State :=
  s.brickSend m.brick { s.memberOp m 2 2 dense p with spage := spage, len := 65536, epoch := s.epochOf shard, strip := strip }

/-- Erase a member's block under the lease's epoch. -/
def State.eraseMember (s : State) (m : Member) (dense : Bool) (shard : Nat) (p : Purpose) : State :=
  s.brickSend m.brick { s.memberOp m 3 3 dense p with epoch := s.epochOf shard }

end Sys2Proof.Machine
end

