-- ==== Sys2Proof/Machine/Band.lean ====
section
/-! DEFINITION. Chapter 6: forming bands, placing chunks in rows of strips, programming rows, space, relocation and
erases. -/

namespace Sys2Proof.Machine

/-! ### Space and pools (R279, R289 to R295) -/

/-- The key of a die. -/
def dieKey (brick die : Nat) : Nat := brick * 64 + die

/-- The dies of a brick. -/
def State.diesOf (s : State) (k : Nat) : List (Nat × DieSt) := s.ftl.dies.filter (fun q => q.1 / 64 == k)

/-- Change a die. -/
def State.modDie (s : State) (key : Nat) (f : DieSt → DieSt) : State :=
  match AL.get key s.ftl.dies with
  | some d => s.modFtl (fun t => { t with dies := AL.put key (f d) t.dies })
  | none => s

/-- A brick with no spare left on any die (R290). -/
def State.exhausted (s : State) (k : Nat) : Bool :=
  !(s.diesOf k).isEmpty && ((s.diesOf k).map (fun q => q.2.spares)).sum == 0

/-- A brick is present: any state but ABSENT. -/
def State.brickPresent (s : State) (k : Nat) : Bool := s.get (F.BRK_STAT_STATE k) != 0

/-- The free blocks of a die in a mode: (block, erases). -/
def DieSt.free (d : DieSt) (dense : Bool) : List (Nat × Nat) := if dense then d.denseFree else d.slcFree

/-- The dies of a brick that hold a free block in the mode for a shard. -/
def State.freeDies (s : State) (k sh : Nat) (dense : Bool) : List (Nat × DieSt) :=
  (s.diesOf k).filter (fun q => q.2.shard == sh && !q.2.failed && !(q.2.free dense).isEmpty)

/-- Free blocks of a brick in a mode on dies of a shard. -/
def State.freeBlocks (s : State) (k sh : Nat) (dense : Bool) : Nat :=
  ((s.freeDies k sh dense).map (fun q => (q.2.free dense).length)).sum

/-- The dies of a shard that count for its capacity (R291). -/
def State.shardDies (s : State) (sh : Nat) : List (Nat × DieSt) :=
  s.ftl.dies.filter (fun q => q.2.shard == sh && s.brickPresent (q.1 / 64) && !s.exhausted (q.1 / 64))

/-- Free dense blocks of a shard, percent of its dense-pool blocks. -/
def State.densePct (s : State) (sh : Nat) : Nat :=
  let ds := s.shardDies sh
  (ds.map (fun q => q.2.denseFree.length)).sum * 100 / max 1 (ds.map (fun q => q.2.denseTotal)).sum

/-- Free SLC blocks of a shard, percent of its pool. -/
def State.slcPct (s : State) (sh : Nat) : Nat :=
  let ds := s.shardDies sh
  (ds.map (fun q => q.2.slcFree.length)).sum * 100 / max 1 (ds.map (fun q => q.2.slcTotal)).sum

/-- The capacity C of a shard in units (R291): a dense strip-page holds 128. -/
def State.capacity (s : State) (sh : Nat) : Nat :=
  ((s.shardDies sh).map (fun q => q.2.denseTotal * s.spp (q.1 / 64) true * 128)).sum

/-- Units with their parity share. -/
def withParity (n d p : Nat) : Nat := ceilDiv (n * (d + p)) (max 1 d)

/-- The live units L of a shard (R291). -/
def State.liveUnits (s : State) (sh : Nat) : Nat :=
  ((s.ftl.bands.filter (fun q => q.2.shard == sh)).map (fun q => withParity q.2.live q.2.d q.2.p)).sum

/-- The free units above the reserve of a shard (R291). -/
def State.shardSpace (s : State) (sh : Nat) : Nat :=
  s.capacity sh - s.liveUnits sh - ceilDiv (s.capacity sh) 200

/-- `WRP_SPACE_FREE`: the sum over the shards held under lease. -/
def State.spaceFree (s : State) : Nat :=
  (([0, 1].filter (fun sh => s.leaseHeld sh)).map (fun sh => s.shardSpace sh)).sum

/-- D and P of a shard (`BND_CFG`). -/
def State.bandD (s : State) (sh : Nat) : Nat := if sh = 0 then s.get F.BND_CFG_D_A else s.get F.BND_CFG_D_B

/-- P of a shard. -/
def State.bandP (s : State) (sh : Nat) : Nat := if sh = 0 then s.get F.BND_CFG_P_A else s.get F.BND_CFG_P_B

/-! ### Forming a band (R272, R274, R276, R277, R279) -/

/-- The bricks that qualify, those with the most free blocks first, the lowest position among equals. -/
def State.qualified (s : State) (sh : Nat) (dense : Bool) : List Nat :=
  let ks := (List.range 128).filter (fun k =>
    s.get (F.BRK_STAT_STATE k) == 4 && s.linkActive k && !s.exhausted k && decide (0 < s.freeBlocks k sh dense))
  sortBy (fun k => 2 ^ 40 - s.freeBlocks k sh dense) ks

/-- A band for host data can be formed above the reserve (R228, R277, R279). -/
def State.canForm (s : State) (sh : Nat) : Bool :=
  let n := s.bandD sh + s.bandP sh
  decide (0 < s.shardSpace sh) && (decide (n ≤ (s.qualified sh false).length)
    || (s.get F.FTL_SLC_CFG_BYPASS_EN == 1 && decide (n ≤ (s.qualified sh true).length)))

/-- Take the least-erased free block of the die of a brick with the most free blocks (log entry 21). -/
def State.takeBlock (s : State) (k sh : Nat) (dense : Bool) : Option (Member × State) :=
  match maxBy (fun q => (q.2.free dense).length) (s.freeDies k sh dense) with
  | none => none
  | some (key, d) =>
    match minBy (fun b => b.2) (d.free dense) with
    | none => none
    | some b =>
      some (⟨k, key % 64, b.1⟩, s.modDie key (fun d =>
        if dense then { d with denseFree := d.denseFree.filter (fun q => q.1 != b.1) }
        else { d with slcFree := d.slcFree.filter (fun q => q.1 != b.1) }))

/-- Take a block from each of some bricks. -/
def State.takeBlocks (s : State) (sh : Nat) (dense : Bool) (ks : List Nat) : List Member × State :=
  ks.foldl (fun (ms, s) k => match s.takeBlock k sh dense with
    | some (m, s') => (ms ++ [m], s')
    | none => (ms, s)) ([], s)

/-- The kind 4 OP 3 records of a band's members from index `m`: ten to a record (R276, Table 6.7). -/
def memberRecs (band : Nat) : Nat → Nat → List Nat → List UVal
  | 0, _, _ => []
  | n + 1, m, l => if l = [] then [] else .bandMembers band m (l.take 10) :: memberRecs band n (m + 10) (l.drop 10)

/-- Blocks of an adopted brick are erased before their first use (R340). -/
def State.eraseFirst (s : State) (id : Nat) (b : Band) : State :=
  (List.range b.members.length).foldl (fun (s : State) i => match b.members[i]? with
    | none => s
    | some m =>
      let key := dieKey m.brick m.die
      if ((AL.get key s.ftl.dies).map (fun d => d.unerased.contains m.block)).getD false then
        (s.modDie key (fun d => { d with unerased := d.unerased.filter (· != m.block) })).eraseMember m b.dense b.shard (.preErase id i)
      else s) s

/-- A band that has been formed opens: its records land (R274, R276). -/
def State.bandOpen (s : State) (id cls : Nat) (b : Band) : State :=
  let s := s.modFtl (fun t => { t with
    bands := AL.put id b t.bands, nextBand := t.nextBand + 1, openB := AL.put (b.shard * 4 + cls) id t.openB })
  let s := (s.eraseFirst id b).land (.bandState id 1 b.dense b.isMeta b.shard b.d b.p 0) none
  ((memberRecs id 4 0 (b.members.map Member.word)).foldl (fun (s : State) v => s.land v none) s).bump F.BND_CNT_OPEN_COUNT

/-- Form a band in one mode from qualifying bricks; none where fewer than D + P qualify (R277). -/
def State.formIn (s : State) (sh cls : Nat) (dense : Bool) : Option (Nat × State) :=
  let d := s.bandD sh
  let p := s.bandP sh
  let ks := (s.qualified sh dense).take (d + p)
  if ks.length < d + p then none else
    let (ms, s) := s.takeBlocks sh dense ks
    let id := 2 * s.ftl.nextBand + s.side
    let rows := (ms.map (fun m => s.spp m.brick dense)).foldl min 4096
    let b : Band := {
      state := 0, dense := dense, isMeta := cls % 2 == 1, shard := sh, d := d, p := p, members := ms
      maxRows := max 1 rows, openBeat := s.beat }
    some (id, s.bandOpen id cls b)

/-- No band can be formed (R277). -/
def State.formFail (s : State) : State :=
  ((s.raise Slot.BND Cond.BAND_FORM_FAIL).irq Slot.BND 2).bump F.BND_CNT_NOBAND_COUNT

/-- Form the band of a class: 0 host data, 1 metadata, 2 relocated data, 3 relocated metadata. Relocations go to dense mode (R280), the
others open in SLC, or in dense mode with `BYPASS_EN` (R279). -/
def State.formBand (s : State) (sh cls : Nat) : Option Nat × State :=
  if 2 ≤ cls then
    match s.formIn sh cls true with
    | some (id, s) => (some id, s)
    | none => (none, s.formFail)
  else match s.formIn sh cls false with
    | some (id, s) => (some id, s)
    | none =>
      if s.get F.FTL_SLC_CFG_BYPASS_EN = 1 then
        match s.formIn sh cls true with
        | some (id, s) => (some id, s.bump F.BND_CNT_BYPASS_COUNT)
        | none => (none, s.formFail)
      else (none, s.formFail)

/-! ### Placing and rows (R203, R204, R273, R275) -/

/-- Units of a row. -/
def Band.rowUnits (b : Band) : Nat := b.d * 128

/-- Units of a band's data strips. -/
def Band.units (b : Band) : Nat := b.maxRows * b.rowUnits

/-- The member index of column `c` of row `r` (R273). -/
def Band.memberIdx (b : Band) (c r : Nat) : Nat := (c + r) % max 1 (b.d + b.p)

/-- Close a band: it takes no more strips (R275). -/
def State.closeBand (s : State) (id : Nat) : State :=
  let s := s.modFtl (fun t => { t with openB := t.openB.filter (fun q => q.2 != id) })
  s.bandTo id 2

/-- The bytes of units `lo` to `lo + n - 1` of a band as the row buffers hold them; padding is zeros (R204, R287). -/
def Band.bytes (b : Band) (lo n : Nat) : Nat :=
  ((b.buffers.filter (fun q => decide (q.1 < lo + n) && decide (lo < q.1 + q.2.1))).map (fun q =>
    (if q.1 ≤ lo then q.2.2 / 256 ^ (512 * (lo - q.1)) else q.2.2 * 256 ^ (512 * (q.1 - lo))) % 256 ^ (512 * n))).sum

/-- The 64 KiB of a column of a row: data, or the parity of the row's data columns (R204, R273, R377). -/
def Band.columnBytes (b : Band) (r c : Nat) : Nat :=
  let data := (List.range b.d).map (fun k => b.bytes (r * b.rowUnits + 128 * k) 128)
  if c < b.d then data.getD c 0 else parityCol 65536 (c - b.d) data

/-- The column of row `r` that a member holds, by its index (R273). -/
def Band.columnAt (b : Band) (i r : Nat) : Nat :=
  let w := max 1 (b.d + b.p)
  (i + w - r % w) % w

/-- Strip-pages that a brick's dies program together (`GROUP`, Table 7.10). -/
def State.groupOf (s : State) (k : Nat) : Nat := bitsOf (s.formWord (s.slotOfBrick k) 1) 40 4

/-- Rows of a band that go to its members together: in dense mode the fewest that leave no member's program group in part (R335). -/
def State.rowGroup (s : State) (b : Band) : Nat :=
  if b.dense then max 1 (min ((b.members.map (fun m => max 1 (s.groupOf m.brick))).foldl Nat.lcm 1) (b.maxRows - b.rows)) else 1

/-- The parity passes of `n` rows, of 16 segments each, run in slices that have room for them in this beat, looked for from one that a
free value names; none where one finds no room (R345, R346, R378; log entry 176). -/
def State.parityRun : Nat → State → Option State
  | 0, s => some s
  | n + 1, s =>
    let (k, s) := s.free 4
    match s.roomySlice [1] 16 true k with
    | none => none
    | some i => ((((s.segCharge i [1] 16).workNote true 16).bump (F.DSL_ERC_CNT_JOBS_COUNT i)).bump (F.DSL_ERC_CNT_ENC_COUNT i) 16).parityRun n

/-- Rows that are issued: each counts, and waits for the replies of its members. -/
def State.rowsOut (s : State) (id n : Nat) (b : Band) : State :=
  let s := s.modFtl (fun t => { t with issued := t.issued ++ (List.range n).map (fun i => ⟨id, b.rows + i, b.d + b.p, false⟩) })
  (s.modBand id (fun b => { b with rows := b.rows + n, row := none })).bump F.BND_CNT_ROWS_COUNT n

/-- Program every member's strips of the next `n` rows, data and parity, those of a member in consecutive messages (R204, R335). -/
def State.issueRows (s : State) (id n : Nat) : State :=
  match s.band id with
  | none => s
  | some b =>
    (List.range (b.d + b.p)).foldl (fun s i => match b.members[i]? with
      | some m => (List.range n).foldl (fun (s : State) j =>
          let r := b.rows + j
          s.programMember m b.dense b.shard r (b.columnBytes r (b.columnAt i r)) (.program id r i)) s
      | none => s) (s.rowsOut id n b)

/-- The first rows of a band not yet issued, as many as go together, are full. -/
def State.rowFull (s : State) (b : Band) : Bool := decide ((b.rows + s.rowGroup b) * b.rowUnits ≤ b.next)

/-- Issue every row, or group of rows, that has become full, from the first row not yet issued; a row whose parity finds no room in this
beat waits, and those behind it (R345). -/
def State.issueFull (s : State) : Nat → Nat → State
  | 0, _ => s
  | n + 1, id =>
    match s.band id with
    | none => s
    | some b =>
      if !s.rowFull b then s
      else match s.parityRun (s.rowGroup b) with
        | none => s
        | some t => (t.issueRows id (s.rowGroup b)).issueFull n id

/-- Full rows that found no room for their parity try again. -/
def State.rowsGoOn (s : State) : State :=
  (s.ftl.bands.filter (fun q => decide (q.2.state ≤ 3 ∧ q.2.rows < q.2.maxRows) && s.rowFull q.2)).foldl (fun s q => s.issueFull (q.2.maxRows + 1) q.1) s

/-- Pad the row in progress with zero units, with those of its program group, and issue it (R204, R335). -/
def State.padRow (s : State) (id : Nat) : State :=
  match s.band id with
  | none => s
  | some b =>
    if b.next ≤ b.rows * b.rowUnits ∨ s.rowFull b then s else
      let rows := b.rows + s.rowGroup b
      let stop := rows * b.rowUnits
      let s := (s.modBand id (fun b => { b with next := stop })).bump F.BND_CNT_ZERO_UNITS_COUNT (stop - b.next)
      let s := s.issueFull 1 id
      if b.maxRows ≤ rows then s.closeBand id else s

/-- Close a band that a placement does not fit: what is left of its units is written as zeros (R203, R275). -/
def State.endBand (s : State) (id : Nat) : State :=
  match s.band id with
  | none => s
  | some b =>
    let s := (s.modBand id (fun b => { b with next := b.units })).bump F.BND_CNT_ZERO_UNITS_COUNT (b.units - b.next)
    (s.issueFull (b.maxRows + 1) id).closeBand id

/-- The open band of a class, forming one where none is open. -/
def State.openBandFor (s : State) (sh cls : Nat) : Option Nat × State :=
  match AL.get (sh * 4 + cls) s.ftl.openB with
  | some id => (some id, s)
  | none => s.formBand sh cls

/-- The row in progress of a band starts its wait, where a part of it has been taken (R204). -/
def State.rowBegin (s : State) (id : Nat) : State :=
  match s.band id with
  | some b => if b.next ≤ b.rows * b.rowUnits then s
      else s.modBand id (fun b => { b with row := b.row <|> some ⟨b.next / max 1 b.rowUnits, s.beat⟩ })
  | none => s

/-- Append units at the next free offset of a band, with their bytes, which may depend on the band; the rows they fill are issued (R203,
R204). -/
def State.appendUnits (s : State) (id len : Nat) (bytes : Nat → Nat) : Option (Nat × Nat) × State :=
  match s.band id with
  | none => (none, s)
  | some b =>
    let s := (s.modBand id (fun b => { b with
      next := b.next + len, placements := b.placements + 1, pendingPl := b.pendingPl + 1
      buffers := b.buffers ++ [(b.next, len, bytes id)]
      row := b.row <|> some ⟨b.next / max 1 b.rowUnits, s.beat⟩ })).issueFull (len / max 1 b.rowUnits + 2) id
    (some (id, b.next), if b.units ≤ b.next + len then (s.rowBegin id).closeBand id
      else if b.placements + 1 = 1048576 then s.endBand id else s.rowBegin id)

/-- Append units at the next free offset of the open band of a class (R203); none while no band can be formed. -/
def State.placeUnits (s : State) (sh cls len : Nat) (bytes : Nat → Nat) : Option (Nat × Nat) × State :=
  match s.openBandFor sh cls with
  | (none, s) => (none, s)
  | (some id, s) =>
    match s.band id with
    | none => (none, s)
    | some b =>
      if b.next + len ≤ b.units then s.appendUnits id len bytes
      else
        match (s.endBand id).formBand sh cls with
        | (none, s) => (none, s)
        | (some id, s) => s.appendUnits id len bytes

/-- Place something and remember it until its rows are programmed. -/
def State.place (s : State) (kind owner sh cls len : Nat) (bytes : Nat → Nat) : Option (Nat × Nat) × State :=
  match s.placeUnits sh cls len bytes with
  | (none, s) => (none, s)
  | (some (b, o), s) =>
    (some (b, o), s.modFtl (fun t => { t with placements := t.placements ++ [⟨kind, owner, b, o, len, cls, sh⟩] }))

/-- The rows of a placement. -/
def Placement.rows (p : Placement) (b : Band) : List Nat :=
  let first := p.offset / max 1 b.rowUnits
  let last := (p.offset + p.len - 1) / max 1 b.rowUnits
  (List.range (last + 1 - first)).map (· + first)

/-- Every row of a placement is programmed on every member (R209 step 1). -/
def State.programmed (s : State) (p : Placement) : Bool :=
  match s.band p.band with
  | none => false
  | some b => (p.rows b).all (fun r => decide (r < b.rows) && !s.ftl.issued.any (fun i => i.band == p.band && i.row == r))

/-- Take the placements that are wholly programmed; the row buffers let go of them (R287). -/
def State.takeProgrammed (s : State) : List Placement × State :=
  let done := s.ftl.placements.filter (fun p => s.programmed p)
  let s := s.modFtl (fun t => { t with placements := t.placements.filter (fun p => !s.programmed p) })
  (done, done.foldl (fun s p => s.modBand p.band (fun b => { b with buffers := b.buffers.filter (fun q => q.1 != p.offset) })) s)

/-- `ROW_WAIT_EXPIRE` (R204): rows whose first chunk has waited `ROW_WAIT` beats are padded and written. -/
def execRowWaitExpire (s : State) : Res :=
  .next (s.ftl.openB.foldl (fun s q => match (s.band q.2).bind (·.row) with
    | some r => if r.startBeat + s.get F.WRP_CFG_ROW_WAIT ≤ s.beat then s.padRow q.2 else s
    | none => s) s)

/-! ### Retiring blocks (R288 to R290) -/

/-- Queue a band for relocation with a reason, unless it already is (Table 6.9). -/
def State.queueReloc (s : State) (b reason : Nat) : State :=
  if s.ftl.relocQ.any (fun q => q.1 == b && decide (q.2 ≤ reason)) then s
  else s.modFtl (fun t => { t with relocQ := (t.relocQ.filter (fun q => q.1 != b)) ++ [(b, reason)] })

/-- A band holds strips and is not under relocation: `OPEN` to `SEALED`, on its way to `OPEN`, or `HELD`. -/
def Band.holds (b : Band) : Bool := (decide (b.state ≤ 3) || b.state == 5) && !b.members.isEmpty

/-- Every band with a member on a brick, or on one die of it, counts as having failed a scan read (R342); it starts once it is
closed to placements, a HELD one once R285 lets it. -/
def State.bandsOn (s : State) (brick : Nat) (die : Option Nat) : State :=
  (s.ftl.bands.filter (fun q => q.2.holds && s.leaseHeld q.2.shard &&
    q.2.members.any (fun m => m.brick == brick && (match die with | none => true | some d => m.die == d)))).foldl
    (fun s q => s.queueReloc q.1 3) s

/-- A brick has no spare left: it is reported, and its data is to be relocated off it (R290; log entry 172). -/
def State.exhaust (s : State) (k : Nat) : State := (s.raise Slot.BND Cond.SPARES_EXHAUSTED k).bandsOn k none

/-- Retire a block: a spare of its die takes its place in the pool, or the pool shrinks; its wear no longer counts, and the record goes
to `BND_RETIRE_Q` (R288 to R290, R294). -/
def State.retireBlock (s : State) (m : Member) (dense : Bool) (cause : Nat) : State :=
  let key := dieKey m.brick m.die
  let was := s.exhausted m.brick
  let erases := AL.getD m.word 0 s.ftl.wearDense + AL.getD m.word 0 s.ftl.wearSlc
  let s := s.modDie key (fun d =>
    if 0 < d.spares then
      let d := { d with spares := d.spares - 1, retired := d.retired + 1 }
      let b := d.top - d.spares - 1
      if dense then { d with denseFree := d.denseFree ++ [(b, 0)] } else { d with slcFree := d.slcFree ++ [(b, 0)] }
    else if dense then { d with retired := d.retired + 1, denseTotal := d.denseTotal - 1 }
    else { d with retired := d.retired + 1, slcTotal := d.slcTotal - 1 })
  let s := s.modFtl (fun t => { t with
    retireQ := t.retireQ ++ [⟨cause, m.word, erases, s.beat⟩]
    reads := AL.del m.word t.reads, wearDense := AL.del m.word t.wearDense, wearSlc := AL.del m.word t.wearSlc })
  let s := s.irqIs (Slot.BND + 1) 1 true
  let s := (s.raise Slot.BND Cond.BLOCK_RETIRED m.word).bump F.BND_CNT_RETIRE_COUNT
  if !was && s.exhausted m.brick then s.exhaust m.brick else s

/-! ### Relocation (R281, R282, R284, R285) -/

/-- Strips of a band that hold units `o` to `o + n - 1`: (strip, first unit, units) (R122, R123). -/
def stripRanges (o n : Nat) : List (Nat × Nat × Nat) :=
  let k := o / 128
  let first := min n (128 - o % 128)
  if n ≤ first then [(k, o % 128, n)] else [(k, o % 128, first), (k + 1, 0, n - first)]

/-- The member and row of a data strip (R122, R273). -/
def Band.stripMember (b : Band) (k : Nat) : Option Member × Nat :=
  let r := k / max 1 b.d
  (b.members[b.memberIdx (k % max 1 b.d) r]?, r)

/-- A member cannot be read: its brick is absent or failed, its link is down, or its die has failed (R125). DESIGN CHOICE: a link is down
here in every state but ACTIVE (log entry 149). -/
def State.memberFailed (s : State) (m : Member) : Bool :=
  let st := s.get (F.BRK_STAT_STATE m.brick)
  !s.linkActive m.brick || st == 0 || st == 6 || ((AL.get (dieKey m.brick m.die) s.ftl.dies).map (·.failed)).getD false

/-- The members of a row other than one that can be read, in column order. -/
def State.otherStrips (s : State) (b : Band) (m : Member) : List Member :=
  b.members.filter (fun x => x != m && !s.memberFailed x)

/-- Read a live chunk for a move where the chunk table names it: each strip directly, or by reconstruct from D others where its member
cannot be read; none where too few can (R285). -/
def State.moveReads (s : State) (cid : Nat) (rebuild : Bool) : Option (Nat × State) :=
  let e := s.ctbEnt cid
  match s.band e.band with
  | none => none
  | some b =>
    (stripRanges e.offset e.len).foldl (fun acc (k, u, n) =>
      match acc, b.stripMember k with
      | some (left, s), (some m, r) =>
        if !rebuild && !s.memberFailed m then some (left + 1, s.readMember m b.dense r u n false (.move cid))
        else
          let others := (s.otherStrips b m).take b.d
          if others.length < b.d then none
          else some (left + b.d, others.foldl (fun s x => s.readMember x b.dense r u n false (.move cid)) s)
      | _, _ => none) (some (0, s))

/-- A chunk the sweep cannot read stays at the old generation, and is counted (R227). -/
def State.redyeFail (s : State) (cid : Nat) : State :=
  ((s.raise (Slot.VAT + 1) Cond.REDYE_CHUNK_FAIL cid).satInc F.VAT_REDYE_STAT_FAILED 1).modVat
    (fun t => { t with sweepBad := t.sweepBad ++ [cid] })

/-- Start moving a chunk away from where the chunk table names it: it is pinned, and waits for admission as class A work (R228, R281,
R282). -/
def State.startMove (s : State) (cid src : Nat) (redye : Bool) : State :=
  let (t, s) := s.newReq { tag := 0, kind := if redye then .redye else .move, origin := .internal, lba := cid, blocks := 1, cls := 6, stage := .waiting } false
  s.modFtl (fun f => { f with
    moves := AL.put cid { src := src, band := (s.ctbEnt cid).band, off := (s.ctbEnt cid).offset, redye := redye, stage := 3, tag := t } f.moves
    movers := (f.movers.filter (· != cid)) ++ [cid] })

/-- A chunk no longer moves: its pin drops, and its request ends with what it holds. -/
def State.moveOver (s : State) (cid : Nat) : State :=
  let tag := (AL.get cid s.ftl.moves).map (·.tag)
  let s := s.modFtl (fun t => { t with moves := AL.del cid t.moves, movers := t.movers.filter (· != cid) })
  match tag.bind (fun t => (s.req t).map (fun r => (t, r))) with
  | some (t, r) => (s.sampleDone r).dropReq t
  | none => s

/-- A chunk that cannot be read stays where it is (R227, R285). -/
def State.moveFail (s : State) (cid : Nat) : State :=
  match AL.get cid s.ftl.moves with
  | none => s
  | some m =>
    let s := s.moveOver cid
    if m.redye then s.redyeFail cid
    else (s.raise Slot.BND Cond.RELOC_CHUNK_FAIL cid).modBand m.src (fun b => { b with stuck := b.stuck ++ [cid] })

/-- The chunks of a band still live in it: summary entries that the chunk table names with a count above zero. -/
def State.liveIn (s : State) (b : Nat) : List Nat :=
  match s.band b with
  | none => []
  | some x => (x.summary.filter (fun q =>
      let e := s.ctbEnt q.1
      e.band == b && e.offset == q.2 && decide (0 < e.count))).map (·.1) |>.eraseDups

/-- A metadata page has its location in a band: a map or chunk-table page, a summary page, a leaf, or a segment of the root or the band
table. -/
def State.metaIn (s : State) (b : Nat) : Bool :=
  s.read.mapPages.any (fun q => q.2.onFlash && q.2.band == b) || s.read.ctbPages.any (fun q => q.2.onFlash && q.2.band == b)
    || s.ftl.sumAt.any (fun q => q.2.band == b) || s.ftl.leaves.any (fun q => q.2.onFlash && q.2.band == b)
    || s.ftl.segAt.any (fun q => q.2.band == b)

/-- Step 2 of R282, once VICTIM has taken effect: every live chunk that no mover holds is to move, as far as ADM takes requests; only the
holder of the shard's lease moves them (R281). -/
def State.movesOf (s : State) (b : Nat) : State :=
  match s.band b with
  | none => s
  | some x =>
    if x.state ≠ 4 ∨ !s.leaseHeld x.shard then s
    else (s.liveIn b).foldl (fun s cid => if s.ftl.movers.contains cid || x.stuck.contains cid || s.admFull then s else s.startMove cid b false) s

/-- A band is on its way to a state: the record has landed and is not applied (R276). -/
def State.bandSaid (s : State) (b st : Nat) : Bool :=
  s.write.upd.any (fun q => !q.2.applied && (match q.2.val with | .bandState c st' .. => c == b && st' == st | _ => false))

/-- Steps 5 of R282 and R285: a victim with nothing left to move becomes ERASABLE, or HELD when chunks could not be
read. -/
def State.victimCheck (s : State) (b : Nat) : State :=
  match s.band b with
  | none => s
  | some x =>
    if x.state = 4 ∧ s.leaseHeld x.shard ∧ !s.ftl.moves.any (fun q => q.2.src == b && !q.2.redye) ∧ !s.bandSaid b 5 ∧ !s.bandSaid b 6 then
      let live := s.liveIn b
      if s.metaIn b then s
      else if live = [] then (s.modFtl (fun t => { t with relocQ := t.relocQ.filter (fun q => q.1 != b) })).bandTo b 6
      else if live.all (fun c => x.stuck.contains c) then s.bandTo b 5
      else s
    else s

/-- A HELD band with no live chunk left re-enters VICTIM (R285). -/
def State.heldCheck (s : State) (b : Nat) : State :=
  match s.band b with
  | some x => if x.state = 5 ∧ s.leaseHeld x.shard ∧ s.liveIn b = [] ∧ !s.bandSaid b 4 then s.bandTo b 4 else s
  | none => s

/-- The read of a move begins, once it is admitted or again: a chunk no longer used does not move; one that cannot be read stays. -/
def State.moveGo (s : State) (cid : Nat) (rebuild : Bool) : State :=
  match AL.get cid s.ftl.moves with
  | none => s
  | some m =>
    if (s.ctbEnt cid).count = 0 then (s.moveOver cid).victimCheck m.src
    else match s.moveReads cid rebuild with
      | some (n, s) =>
        let m := { m with band := (s.ctbEnt cid).band, off := (s.ctbEnt cid).offset, stage := 0, left := n, rebuilt := rebuild }
        s.modFtl (fun t => { t with moves := AL.put cid m t.moves })
      | none => (s.moveFail cid).victimCheck m.src

/-- Bands under relocation by this head, those on their way there among them. -/
def State.relocActive (s : State) : Nat :=
  (s.ftl.bands.filter (fun q => (q.2.state == 4 || s.bandSaid q.1 4) && s.leaseHeld q.2.shard)).length

/-- The admission load, of the 3,072 slots of the beat, is at most a percentage (R48). -/
def State.loadAtMost (s : State) (pct : Nat) : Bool := decide (s.get (F.ADM_POOL_USED 7) * 100 ≤ pct * 3072)

/-- SEALED bands of a shard in a mode. -/
def State.sealedBands (s : State) (sh : Nat) (dense : Bool) : List (Nat × Band) :=
  s.ftl.bands.filter (fun q => q.2.state == 3 && q.2.shard == sh && q.2.dense == dense && !s.bandSaid q.1 4)

/-- The GC victim: the band with the fewest live units, the oldest among equals; by age alone while live counts are being
recomputed (R303). -/
def State.gcVictim (s : State) (sh : Nat) : Option Nat :=
  (minBy (fun q => if s.ftl.liveCountsGood then q.2.live * 2 ^ 48 + q.2.openBeat else q.2.openBeat) (s.sealedBands sh true)).map (·.1)

/-- The oldest SEALED SLC band. -/
def State.foldVictim (s : State) (sh : Nat) : Option Nat :=
  (minBy (fun q => q.2.openBeat) (s.sealedBands sh false)).map (·.1)

/-- A band whose block's read count has reached the formula's limit (reason 2). -/
def State.disturbed (s : State) (sh : Nat) : Option Nat :=
  (s.ftl.bands.find? (fun q => (q.2.state == 3 || q.2.state == 2 && q.2.pendingPl == 0) && q.2.shard == sh && !s.bandSaid q.1 4 &&
    q.2.members.any (fun m =>
      let lim := bitsOf (s.formWord (s.slotOfBrick m.brick) 4) 32 32
      decide (0 < lim) && decide (lim ≤ AL.getD m.word 0 s.ftl.reads)))).map (·.1)

/-- Erases of a block. -/
def State.wearOf (s : State) (m : Member) : Nat := AL.getD m.word 0 s.ftl.wearSlc + AL.getD m.word 0 s.ftl.wearDense

/-- The good blocks of a die: free ones, and members of bands. -/
def State.dieBlocks (s : State) (brick die : Nat) : List Member :=
  (((AL.get (dieKey brick die) s.ftl.dies).map (fun d => (d.slcFree ++ d.denseFree).map (fun b => (⟨brick, die, b.1⟩ : Member)))).getD [])
    ++ (s.ftl.bands.flatMap (fun q => q.2.members)).filter (fun m => m.brick == brick && m.die == die)

/-- A band holding the least-erased block of a die whose erase counts differ by more than `WL_GAP` (reason 7). -/
def State.wornDie (s : State) (sh : Nat) : Option Nat :=
  (s.ftl.bands.find? (fun q => q.2.state == 3 && q.2.shard == sh && !s.bandSaid q.1 4 && q.2.members.any (fun m =>
    let die := s.dieBlocks m.brick m.die
    die.all (fun x => decide (s.wearOf m ≤ s.wearOf x)) &&
      die.any (fun x => decide (s.wearOf m + s.get F.FTL_MAINT_CFG_WL_GAP < s.wearOf x))))).map (·.1)

/-- The victim of a queued reason that can start: the band is closed to placements (R287). -/
def State.queuedVictim (s : State) (sh reason : Nat) : Option Nat :=
  (s.ftl.relocQ.find? (fun q => q.2 == reason && !s.bandSaid q.1 4 &&
    ((s.band q.1).map (fun b => b.shard == sh && (b.state == 3 || b.state == 2 && b.pendingPl == 0))).getD false)).map (·.1)

/-- The first reason of Table 6.9 with a victim on a shard: (reason, band). -/
def State.relocChoice (s : State) (sh : Nat) : Option (Nat × Nat) :=
  let lim := s.loadAtMost (s.get F.FTL_GC_CFG_MAX_LOAD_PCT)
  let cand : List (Nat × Option Nat) :=
    [(1, s.queuedVictim sh 1),
     (2, (s.queuedVictim sh 2) <|> (if s.get F.FTL_MAINT_CFG_RDIST_EN = 1 then s.disturbed sh else none)),
     (3, s.queuedVictim sh 3),
     (4, if s.densePct sh < s.get F.FTL_GC_CFG_URGENT_PCT then s.gcVictim sh else none),
     (5, if lim && s.ftl.folding.contains sh then s.foldVictim sh else none),
     (6, if lim && s.ftl.collecting.contains sh then s.gcVictim sh else none),
     (7, if lim && s.get F.FTL_MAINT_CFG_WL_EN == 1 then s.wornDie sh else none)]
  cand.findSome? (fun (r, v) => v.map (fun b => (r, b)))

/-- The marks of folding, GC and low space of a shard (Table 6.9, `SPACE_LOW`). -/
def State.relocMarks (s : State) (sh : Nat) : State :=
  let mark (l : List Nat) (on off : Bool) : List Nat :=
    if on then (l.filter (· != sh)) ++ [sh] else if off then l.filter (· != sh) else l
  let low := decide (s.densePct sh < s.get F.FTL_GC_CFG_URGENT_PCT)
  let newLow := low && !s.ftl.spaceLow.contains sh
  let s1 := s.modFtl (fun t => { t with
    folding := mark t.folding (decide (s.slcPct sh < s.get F.FTL_SLC_CFG_FOLD_START)) (decide (s.get F.FTL_SLC_CFG_FOLD_STOP < s.slcPct sh))
    collecting := mark t.collecting (decide (s.densePct sh < s.get F.FTL_GC_CFG_START_PCT)) (decide (s.get F.FTL_GC_CFG_STOP_PCT < s.densePct sh))
    spaceLow := mark t.spaceLow low (!low) })
  if newLow then s1.irq Slot.BND 1 else s1

/-- Start the relocation of one band of a shard held under lease. -/
def State.relocStart (s : State) (sh : Nat) : State :=
  if !s.leaseHeld sh then s else
    let s := s.relocMarks sh
    if 64 ≤ s.relocActive then s else
      match s.relocChoice sh with
      | none => s
      | some (r, b) =>
        let s := s.modFtl (fun t => { t with relocQ := t.relocQ.filter (fun q => q.1 != b) })
        let s := (s.modBand b (fun x => { x with reason := r, stuck := [] })).bandTo b 4
        if r = 5 then s.bump F.BND_CNT_FOLD_COUNT
        else if r = 4 ∨ r = 6 then s.bump F.BND_CNT_GC_COUNT
        else if r = 2 then s.bump F.FTL_CNT_REFRESH_RD_COUNT
        else if r = 3 then s.bump F.FTL_CNT_REFRESH_RET_COUNT
        else if r = 7 then s.bump F.FTL_CNT_WL_COUNT
        else s

/-- `RELOCATION_START` (R281, Table 6.9): for each shard held under lease. -/
def execRelocationStart (s : State) : Res := .next ((s.relocStart 0).relocStart 1)

/-! ### Erases (R278) -/

/-- A block has reached its formula's read-failure limit (R288). -/
def State.readLimit (s : State) (m : Member) : Bool :=
  let n := AL.getD m.word 0 (s.brick m.brick).readFails
  let lim := bitsOf (s.formWord (s.slotOfBrick m.brick) 4) 16 16
  decide (0 < n) && decide (lim ≤ n)

/-- A read pins a band: a chunk that a read, a replication command or a prefetch still has to have from it, or the peer pins it (R112,
R278). -/
def State.bandPinned (s : State) (b : Nat) : Bool :=
  s.pair.peerPins.contains (1, b) || s.adm.reqs.any (fun q => (srcChunks q.2.pinned).any (fun c => (AL.get c q.2.ents).map (·.band) == some b))

/-- An ERASABLE band waits: for a pin, or, when it holds metadata, for a checkpoint taken since (R278). -/
def State.eraseWaits (s : State) (b : Nat) (x : Band) : Bool :=
  s.bandPinned b || (x.isMeta && decide (s.ftl.ckptBeat ≤ x.erasableBeat))

/-- The members of a band that an erase is for: all but those whose block has retired already. -/
def Band.toErase (x : Band) : List Nat := (List.range x.members.length).filter (fun i => !x.gone.contains i)

/-- A member's block has retired. -/
def State.memberGone (s : State) (b i : Nat) : State := s.modBand b (fun x => { x with gone := (x.gone.filter (· != i)) ++ [i] })

/-- The end of a band's erase: blocks marked retiring retire, and the band becomes FREE, with which the others return to their dies'
pools (R278, R287, R288). -/
def State.eraseEnd (s : State) (b : Nat) : State :=
  match s.band b with
  | none => s
  | some x =>
    let s := (x.retiring.filter (fun i => !x.gone.contains i)).foldl (fun (s : State) i => match x.members[i]? with
      | none => s
      | some m => (s.retireBlock m x.dense (if s.readLimit m then 3 else 1)).memberGone b i) s
    (s.bandTo b 0).bump F.BND_CNT_ERASE_COUNT

/-- Erase a band on every member; one with no block left to erase is FREE at once. -/
def State.eraseBand (s : State) (b : Nat) (x : Band) : State :=
  if x.toErase = [] then s.eraseEnd b
  else x.toErase.foldl (fun s i => match x.members[i]? with
    | some m => s.eraseMember m x.dense x.shard (.erase b i)
    | none => s) (s.modBand b (fun x => { x with erasing := x.toErase.length }))

/-- `BAND_ERASE` (R278): an ERASABLE band of a shard held that nothing holds back is erased on every member. -/
def execBandErase (b : Nat) (s : State) : Res :=
  .next (match s.band b with
    | none => s
    | some x =>
      if x.state = 6 ∧ x.erasing = 0 ∧ s.leaseHeld x.shard ∧ !s.eraseWaits b x ∧ !s.bandSaid b 0 then s.eraseBand b x else s)

/-- An erase has failed: the block retires (R288). -/
def State.eraseFail (s : State) (b i : Nat) (m : Member) (dense : Bool) : State :=
  (((s.raise Slot.BND Cond.ERASE_FAIL m.word).bump F.BND_CNT_ERASE_FAIL_COUNT).retireBlock m dense 2).memberGone b i

/-- The erase of a block before its band takes strips has failed (R288, R340): the band takes no more, and is queued for relocation. -/
def State.preEraseFail (s : State) (b i : Nat) : State :=
  match s.band b with
  | none => s
  | some x =>
    match x.members[i]? with
    | none => s
    | some m =>
      let s := s.eraseFail b i m x.dense
      (if s.ftl.openB.any (fun q => q.2 == b) then s.closeBand b else s).queueReloc b 1

/-- One member of a band has been erased, or its erase has failed and its block retires; when the last is done the erase ends (R278,
R288). -/
def State.eraseDone (s : State) (b i : Nat) (ok : Bool) : State :=
  match s.band b with
  | none => s
  | some x =>
    match x.members[i]? with
    | none => s
    | some m =>
      let s := s.countErase x.dense m.word
      let s := if ok then s else s.eraseFail b i m x.dense
      let s := s.modBand b (fun x => { x with erasing := x.erasing - 1 })
      if x.erasing = 1 then s.eraseEnd b else s

end Sys2Proof.Machine
end

