-- ==== Sys2Proof/Machine/Tcp.lean ====
section
/-! DEFINITION. Chapter 10: host ports and their frames, priority flow control, the TCP contexts of NVT as they send, events
toward controllers and the ANA state. -/

namespace Sys2Proof.Machine

/-- Change the host data. -/
def State.modHost (s : State) (f : HostSt → HostSt) : State := { s with host := f s.host }

/-! ### Quads and ports (R405 to R412) -/

/-- The group and the quad in it of a quad 0 to 23 (R103). -/
def quadOf (q : Nat) : Nat × Nat := (q / 12, q % 12)

/-- The HFI page of a quad. -/
def quadSlot (q : Nat) : Nat := Slot.HFI + 13 * (q / 12) + 1 + q % 12

/-- The lanes of each port slot in a mode; 0 where the mode gives the slot no port (Table 10.1). -/
def modeWidths (mode : Nat) : List Nat :=
  match mode with
  | 1 => [1, 1, 1, 1]
  | 2 => [2, 0, 2, 0]
  | 3 => [4, 0, 0, 0]
  | 4 => [8, 0, 0, 0]
  | 5 => [1, 1, 2, 0]
  | _ => [0, 0, 0, 0]

/-- The state of a port: 0 no port, 1 down, 2 training, 3 up. -/
def State.portState (s : State) (p : Nat) : Nat := s.get (F.HFI_PORT_STAT_STATE (p / 48) (p / 4 % 12) (p % 4))

/-- A port is up. -/
def State.portUp (s : State) (p : Nat) : Bool := s.portState p == 3

/-- The rate of a port in units of 100 Gb/s: its lanes. -/
def State.portWidth (s : State) (p : Nat) : Nat := s.get (F.HFI_PORT_STAT_WIDTH (p / 48) (p / 4 % 12) (p % 4))

/-- The counts of ports configured and up follow the ports of a group (Table 10.13). -/
def State.groupCounts (s : State) (g : Nat) : State :=
  let ps := (List.range 48).map (fun i => 48 * g + i)
  s.setAll [(F.HFI_GRP_STAT_PORTS g, (ps.filter (fun p => s.portState p != 0)).length),
    (F.HFI_GRP_STAT_PORTS_UP g, (ps.filter (fun p => s.portUp p)).length)]

/-- A port changes state: `UP_BEAT`, `FLAPS`, `LINK_UP` and `LINK_CHANGE` (Table 10.13, R456). Frames held back at a port that is not up
are lost. -/
def State.setPort (s : State) (p st width : Nat) : State :=
  let g := p / 48
  let q := p / 4 % 12
  let n := p % 4
  let old := s.portState p
  let s := s.setAll [(F.HFI_PORT_STAT_STATE g q n, st), (F.HFI_PORT_STAT_WIDTH g q n, width)]
  if old = st then s
  else
    let s := if old = 3 then s.satInc (F.HFI_PORT_STAT_FLAPS g q n) 1 else s
    let s := if st = 3 then s.set (F.HFI_PORT_STAT_UP_BEAT g q n) s.beat32 else s.modHost (fun h => { h with held := h.held.filter (fun o => o.port != p) })
    let up := s.get (F.HFI_Q_STAT_LINK_UP g q)
    let s := s.set (F.HFI_Q_STAT_LINK_UP g q) (if st = 3 then up ||| 2 ^ n else if bitOf up n then up - 2 ^ n else up)
    (s.irq (quadSlot (p / 4)) 1).groupCounts g

/-- Put a quad into a mode: every port of it goes down and the ports of the mode that are enabled train (R408, R409). -/
def State.quadMode (s : State) (q mode : Nat) : State :=
  let (g, k) := quadOf q
  let en := s.get (F.HFI_Q_CFG_PORT_EN g k)
  let s := s.set (F.HFI_Q_STAT_MODE g k) mode
  (List.range 4).foldl (fun (s : State) n =>
    let w := (modeWidths mode).getD n 0
    let s := s.setPort (4 * q + n) (if w = 0 then 0 else 1) w
    if w ≠ 0 ∧ bitOf en n ∧ s.portFree (4 * q + n) w then s.setPort (4 * q + n) 2 w else s) s

/-- Modes that speed detection tries, in order (R410). -/
def detectNext (mode : Nat) : Nat := if mode = 3 then 2 else if mode = 2 then 5 else if mode = 5 then 1 else 3

/-- A commit of a quad's configuration takes effect (R409, R410). -/
def State.quadApply (s : State) (q : Nat) : State :=
  let (g, k) := quadOf q
  let mode := s.get (F.HFI_Q_CFG_QMODE g k)
  let s := if s.get (F.HFI_Q_STAT_MODE g k) = 4 then s.quadMode (q + 1) (s.get (F.HFI_Q_CFG_QMODE g (k + 1))) else s
  if s.get (F.HFI_Q_CFG_DETECT g k) = 1 ∧ mode ≠ 0 then
    ((s.set (F.HFI_Q_STAT_DETECTING g k) 1).modHost (fun h => { h with detect := AL.put q s.beat h.detect })).quadMode q 3
  else ((s.set (F.HFI_Q_STAT_DETECTING g k) 0).modHost (fun h => { h with detect := AL.del q h.detect })).quadMode q mode

/-! ### Interfaces and priorities (R413, R417, R418) -/

/-- The interface of a group by its number, where it is in force. -/
def State.iface (s : State) (g n : Nat) : Option Iface := AL.get (g * 128 + n) s.host.ifaces

/-- The base MAC address of the settings (R412). -/
def State.baseMac (s : State) : Nat :=
  let x := AL.getD s.flash.slot {} s.flash.slots
  ((x.items.find? (fun q => q.1 == 2)).map (fun q => q.2.1)).getD 0

/-- Priorities with PFC enabled on a group's ports. -/
def State.pfcOn (s : State) (g p : Nat) : Bool := bitOf (s.get (F.HFI_GRP_CFG_PFC_EN g)) p

/-- Bytes of one part of a port's receive share (R418). -/
def State.pfcPart (s : State) (port : Nat) : Nat :=
  let n := ((List.range 8).filter (fun p => s.pfcOn (port / 48) p)).length
  s.portWidth port * 1048576 / (n + 1)

/-- A received pause stops a priority of a port. -/
def State.pfcStopped (s : State) (port prio : Nat) : Bool := AL.has (port * 8 + prio) s.host.paused

/-- The priority of a service's frames on an interface: DEDUCED, its PCP where it is tagged (R417; log entry 158). -/
def Iface.prio (i : Iface) (mapped : Nat) : Nat := if i.tagged then i.pcp else mapped

/-- HFI sends and takes frames in this mode (Table 10.10). -/
def State.hfiLive (s : State) : Bool := s.mode == .boot || s.mode == .service || s.mode == .paired || s.mode == .solo

/-- Frames may leave an interface with a service's priority now. -/
def State.mayLeave (s : State) (i : Iface) (mapped : Nat) : Bool :=
  s.hfiLive && s.portUp i.port && !s.pfcStopped i.port (i.prio mapped)

/-- Count frames that leave a port. -/
def State.countTx (s : State) (port frames bytes : Nat) : State :=
  let g := port / 48
  let q := port / 4 % 12
  (s.bump (F.HFI_CNT_TX_FRAMES_COUNT g q (port % 4)) frames).bump (F.HFI_CNT_TX_BYTES_COUNT g q (port % 4)) bytes

/-- A frame leaves a port that is up with the priority of its service, or waits there while a received PFC frame stops that priority
(R417, R421); in a mode in which HFI sends no frame it is lost (Table 10.10). -/
def State.frameOut (s : State) (port : Nat) (o : Out) (bytes : Nat) : State :=
  if !s.hfiLive || !s.portUp port then s
  else if s.pfcStopped port o.prio then s.modHost (fun h => { h with held := h.held ++ [⟨port, o, bytes⟩] })
  else (s.sendOut o).countTx port 1 bytes

/-- A frame of HFI itself, of PTP or of the fabric's control leaves a port. -/
def State.hfiSend (s : State) (port prio kind : Nat) (args : List Nat) (bytes : Nat) : State :=
  s.frameOut port { dest := .port port, kind := kind, args := args, prio := prio } bytes


/-! ### TCP contexts (R422, R427, R436) -/

/-- The unit of a connection. -/
def connUnit (c : Nat) : Nat := c / 32768

/-- A TCP context. -/
def State.conn (s : State) (c : Nat) : Option TcpConn := AL.get c s.host.conns

/-- Change a TCP context. -/
def State.modConn (s : State) (c : Nat) (f : TcpConn → TcpConn) : State :=
  match s.conn c with
  | some x => s.modHost (fun h => { h with conns := AL.put c (f x) h.conns })
  | none => s

/-- Frames that were held back at a port leave in their order, those whose priority is still stopped excepted; a connection whose frame
leaves has sent (R58). -/
def State.heldGo (s : State) (port : Nat) : State :=
  let (go, stay) := s.host.held.partition (fun o => o.port == port && !s.pfcStopped port o.out.prio)
  go.foldl (fun (s : State) o =>
    let s := s.frameOut o.port o.out o.bytes
    match o.out.dest with
    | .tcp c => s.modConn c (fun x => { x with sentBeat := some s.beat })
    | _ => s) (s.modHost (fun h => { h with held := stay }))

/-- The interface of a connection. -/
def State.connIface (s : State) (c : Nat) : Option Iface := (s.conn c).bind (fun x => s.iface (connUnit c) x.iface)

/-- Largest segment of a connection: `FRAME_MAX` less Ethernet, VLAN, IP and TCP headers with timestamps (log entry 40). -/
def Iface.mss (i : Iface) (v6 : Bool) : Nat := i.frameMax - 18 - (if i.tagged then 4 else 0) - (if v6 then 40 else 20) - 32

/-- A connection may send now: its port and priority, the host's window and the congestion window allow it. -/
def State.tcpMay (s : State) (c : Nat) (x : TcpConn) : Bool :=
  match s.iface (connUnit c) x.iface with
  | some i => s.mayLeave i (s.get (F.HFI_PRIO_MAP_NVT (connUnit c))) && decide (x.inFlight < min x.window x.cwnd)
  | none => false

/-- The retransmission time-out in beats: RFC 6298 within `RTO_MIN` and `RTO_MAX` (log entry 40). -/
def State.rtoOf (s : State) (u : Nat) (x : TcpConn) : Nat :=
  let lo := s.get (F.NVT_TCP_CFG_RTO_MIN u)
  min (1024 * s.get (F.NVT_TCP_CFG_RTO_MAX u)) (max lo (ceilDiv (x.srtt + 4 * x.rttvar) 8000))

/-- Codes of segments that carry no PDU, as the model lists them in `sent`. -/
def Tcp.synAck : Nat := 0x101
/-- A reset. -/
def Tcp.rst : Nat := 0x102
/-- A FIN. -/
def Tcp.fin : Nat := 0x103
/-- A retransmission. -/
def Tcp.again : Nat := 0x104

/-- The ECN marks of a connection's segment (R422): data leaves with ECT(0), code point 2, while ECN is in use and enabled; ECE answers CE,
and CWR says once that the window was halved. A retransmission is not ECT (RFC 3168). -/
def State.ecnOf (s : State) (c kind : Nat) (x : TcpConn) : Nat :=
  if x.ecn then
    (if kind < 0x100 ∧ s.get (F.NVT_CFG_ECN_EN (connUnit c)) = 1 then 2 + 8 * b2n x.cwr else 0) + 4 * b2n x.ece
  else 0

/-- A segment of a connection as it leaves, to the MAC address from which its first one came (R416). -/
def State.tcpOut (s : State) (c kind : Nat) (args : List Nat) (x : TcpConn) : Out :=
  { dest := .tcp c, kind := kind, args := args, ecn := s.ecnOf c kind x, mac := x.mac
    prio := ((s.iface (connUnit c) x.iface).map (fun i => i.prio (s.get (F.HFI_PRIO_MAP_NVT (connUnit c))))).getD 0 }

/-- A single segment without data of the connection's own stream leaves: a reset or a retransmission; with its interface gone it still
leaves. -/
def State.tcpFrame (s : State) (c kind : Nat) (x : TcpConn) : State :=
  match s.iface (connUnit c) x.iface with
  | some i => s.frameOut i.port (s.tcpOut c kind [] x) (if kind = Tcp.again then i.mss x.v6 else 64)
  | none => if s.hfiLive then s.sendOut (s.tcpOut c kind [] x) else s

/-- Hand one waiting PDU to the port. -/
def State.tcpEmit (s : State) (c : Nat) (x : TcpConn) (o : TcpOut) : State :=
  let s := s.sendOut (s.tcpOut c o.kind o.args x)
  let s := match s.iface (connUnit c) x.iface with
    | some i => s.countTx i.port (max 1 (ceilDiv o.bytes (max 1 (i.mss x.v6)))) o.bytes
    | none => s
  let s := if o.kind < 0x100 then s.bump (F.NVT_CNT_PDU_TX_COUNT (connUnit c)) else s
  s.modConn c (fun x => { x with
    inFlight := x.inFlight + o.bytes, sentBeat := some s.beat, cwr := if o.kind < 0x100 then false else x.cwr
    sentNs := x.sentNs <|> some s.tb
    rto := if x.rtoBeat.isSome then x.rto else s.rtoOf (connUnit c) x
    rtoBeat := x.rtoBeat <|> some (s.beat + s.rtoOf (connUnit c) x) })

/-- A read of a connection has its next block ready: its data is pending too (R58, R138). -/
def State.dataWaits (s : State) (c : Nat) : Bool :=
  s.adm.reqs.any (fun q => (match q.2.origin with | .nvt d _ => d == c | _ => false) && q.2.kind == .read && q.2.stage != .completing
    && q.2.ready.any (fun b => b.1 == q.2.lba + q.2.delivered))

/-- A block that is ready and next in order is egress data of its NVT connection from now on (R58, R138). -/
def State.dataPends (s : State) (tag : Nat) : State :=
  match (s.req tag).map (fun (r : Req) => r.origin) with
  | some (.nvt c _) => if s.dataWaits c then s.modConn c (fun x => { x with pendBeat := x.pendBeat <|> some s.beat }) else s
  | _ => s

/-- Send what waits, as long as the connection may send. -/
def State.tcpPump : Nat → Nat → State → State
  | 0, _, s => s
  | n + 1, c, s =>
    match s.conn c with
    | none => s
    | some x =>
      match x.outQ with
      | [] => if s.dataWaits c then s else s.modConn c (fun x => { x with pendBeat := none })
      | o :: t =>
        if s.tcpMay c x then State.tcpPump n c ((s.tcpEmit c x o).modConn c (fun y => { y with outQ := t }))
        else s

/-- Let a connection send. -/
def State.tcpGo (s : State) (c : Nat) : State :=
  match s.conn c with
  | some x => State.tcpPump (x.outQ.length + 1) c s
  | none => s

/-- Queue a PDU of a connection, and send what may leave. -/
def State.tcpSend (s : State) (c kind : Nat) (args : List Nat) (bytes : Nat) : State :=
  (s.modConn c (fun x => { x with outQ := x.outQ ++ [⟨kind, args, bytes⟩], pendBeat := x.pendBeat <|> some s.beat })).tcpGo c

/-- Frames held back at a port and the connections on it go on when it may send again. -/
def State.portGoOn (s : State) (port : Nat) : State :=
  let s := s.heldGo port
  (s.host.conns.filter (fun q => ((s.iface (connUnit q.1) q.2.iface).map (fun i => i.port == port)).getD false)).foldl
    (fun (s : State) q => s.tcpGo q.1) s

/-! ### Capsules -/

/-- Bytes of digests on a PDU. -/
def TcpConn.dgst (x : TcpConn) (data : Bool) : Nat := (if x.hdgst then 4 else 0) + (if x.ddgst && data then 4 else 0)

/-- The 15 status bits of a completion: SC in bits 7:0, SCT in 10:8, DNR in 14. -/
def nvmeStatus (sct sc : Nat) (dnr : Bool) : Nat := sc + 256 * sct + 16384 * b2n dnr

/-- A response capsule: command identifier, submission queue head, status, Dwords 0 and 1. -/
def State.nvmeResp (s : State) (c cid status dw0 dw1 : Nat) : State :=
  match s.conn c with
  | some x => s.tcpSend c 5 [cid, x.sqhd, status, dw0, dw1] (24 + x.dgst false)
  | none => s

/-- Data of an admin command that fits one C2HData PDU, then its response. -/
def State.nvmeData (s : State) (c cid : Nat) (bytes : List Nat) : State :=
  match s.conn c with
  | some x =>
    let s := if bytes = [] then s else s.tcpSend c 7 ([cid, 0, bytes.length, 1] ++ bytes) (24 + bytes.length + x.dgst true)
    s.nvmeResp c cid 0 0 0
  | none => s

/-- Conditions and outcome codes with their status (Table 10.9). Outcomes that carry no condition have codes of the model's
own, 0x10000 and the status (log entry 41). -/
def nvmeOf (cond : Nat) : Nat :=
  if 0x10000 ≤ cond then cond - 0x10000
  else if cond = 0 then 0
  else if cond = Cond.LBA_OUT_OF_RANGE then nvmeStatus 0 0x80 true
  else if cond = Cond.NO_SPACE then nvmeStatus 0 0x81 false
  else if cond = Cond.VOLUME_ABSENT then nvmeStatus 0 0x0B true
  else if cond = Cond.VAT_IMMUTABLE ∨ cond = Cond.REP_TARGET_READ_ONLY then nvmeStatus 0 0x20 true
  else if cond = Cond.VAT_SEALED ∨ cond = Cond.VAT_KEY_ABSENT then nvmeStatus 2 0x86 true
  else if cond = Cond.MEDIA_INTEGRITY ∨ cond = Cond.FOREIGN_UNAVAILABLE then nvmeStatus 2 0x81 true
  else if cond = Cond.NVT_DATA_SHORT then nvmeStatus 0 0x04 false
  else if cond = Cond.NVT_DATA_DIGEST then nvmeStatus 0 0x22 false
  else if cond = Cond.NVT_SGL_LENGTH then nvmeStatus 0 0x0F true
  else if cond = Cond.ANA_INACCESSIBLE then nvmeStatus 3 0x02 false
  else if cond = Cond.ANA_TRANSITION then nvmeStatus 3 0x03 false
  else if cond = Cond.DEFERRED_ERROR then nvmeStatus 7 0xC0 false
  else nvmeStatus 0 0x06 false

/-- The outcome code of a status that carries no condition. -/
def outcome (status : Nat) : Nat := 0x10000 + status

/-- Command Abort Requested. -/
def outAborted : Nat := outcome (nvmeStatus 0 0x07 false)

/-- Invalid Field in Command. -/
def outField : Nat := outcome (nvmeStatus 0 0x02 true)

/-! ### Statistics sets (R459) -/

/-- A statistics page of NVT counts a command of a connection and volume. -/
def State.stsMatch (s : State) (c vol p : Nat) : Bool :=
  let u := connUnit c
  let id := s.get (F.NVT_STS_SEL_ID u p)
  match s.get (F.NVT_STS_SEL_KIND u p), s.conn c with
  | 0, _ => true
  | 1, some x => x.cntlid % 1024 == id && x.cntlid != 0
  | 2, _ => vol == id
  | 3, some x => x.iface == id
  | 4, _ => c % 32768 == id
  | _, _ => false

/-- Count on the statistics pages that match. -/
def State.sts (s : State) (c vol : Nat) (f : Nat → Nat → Fld) (n : Nat := 1) : State :=
  ((List.range 5).filter (fun k => s.stsMatch c vol (3 + k))).foldl (fun (s : State) k => s.bump (f (connUnit c) (3 + k)) n) s

/-! ### Events toward controllers (R434, R448, R450) -/

/-- A controller. -/
def State.ctrl (s : State) (k : Nat) : Option Ctrl := AL.get k s.host.ctrls

/-- Change a controller. -/
def State.modCtrl (s : State) (k : Nat) (f : Ctrl → Ctrl) : State :=
  match s.ctrl k with
  | some x => s.modHost (fun h => { h with ctrls := AL.put k (f x) h.ctrls })
  | none => s

/-- The controller ID of a controller (R430). -/
def State.cntlid (s : State) (k : Nat) : Nat := 0x1000 + 2048 * s.side + k

/-- The controller with a controller ID of this head. -/
def State.ctrlOf (s : State) (id : Nat) : Option Nat :=
  if 0x1000 + 2048 * s.side ≤ id ∧ id < 0x1000 + 2048 * s.side + 2048 then some (id - 0x1000 - 2048 * s.side) else none

/-- An event may be reported: its notice is configured and it is not masked (log entry 42). -/
def Ctrl.reports (x : Ctrl) (e : Nat × Nat × Nat) : Bool :=
  !x.masked.contains (e.1, e.2.1) &&
    (if e.1 = 2 ∧ e.2.1 = 0 then bitOf x.evCfg 8 else if e.1 = 2 ∧ e.2.1 = 3 then bitOf x.evCfg 11 else true)

/-- Report a queued event with an outstanding event request. -/
def State.eventGo (s : State) (k : Nat) : State :=
  match s.ctrl k with
  | some x =>
    match x.aers, x.events.find? (fun e => x.reports e) with
    | cid :: rest, some e =>
      let s := s.modCtrl k (fun x => { x with aers := rest, events := x.events.erase e, masked := x.masked ++ [(e.1, e.2.1)] })
      (s.bump (F.NVT_CNT_AEN_COUNT (k / 1024))).nvmeResp x.admin cid 0 (e.1 + e.2.1 * 256 + e.2.2 * 65536) 0
    | _, _ => s
  | none => s

/-- Queue an event for a live controller. -/
def State.queueEvent (s : State) (k : Nat) (e : Nat × Nat × Nat) : State :=
  match s.ctrl k with
  | some x =>
    if x.st ≠ 2 ∨ x.disc then s
    else (s.modCtrl k (fun x => { x with events := if x.events.contains e then x.events else x.events ++ [e] })).eventGo k
  | none => s

/-! ### ANA (R450, Table 10.10) -/

/-- The ANA state of the head's group: 1 Optimized, 3 Inaccessible, 0xF Change, 0 while NVT does not listen. It is Change
from the loss of the peer on, in a hand-over (R502) and in a hand-back until the returning head is in PAIRED (R529). -/
def State.anaState (s : State) : Nat :=
  match s.mode with
  | .service => 3
  | .paired => if s.pair.lost ∨ s.pair.hand ≠ .none then 0xF else 1
  | .solo => if s.pair.hand = .handbackDraining ∨ s.pair.hand = .handbackReleased then 0xF else 1
  | _ => 0

/-- The condition with which the ANA state refuses new I/O, 0 for none. -/
def State.anaRefusal (s : State) : Nat :=
  let a := s.anaState
  if a = 1 then 0 else if a = 0xF then Cond.ANA_TRANSITION else Cond.ANA_INACCESSIBLE

/-- The change of the ANA state is counted and told to every controller (R450). -/
def State.anaCheck (s : State) : State :=
  let a := s.anaState
  if a = s.host.anaSeen then s
  else
    let s := s.modHost (fun h => { h with anaSeen := a, anaCount := h.anaCount + 1 })
    let s := s.setAll [(F.NVT_ANA_STAT_STATE 0, a), (F.NVT_ANA_STAT_STATE 1, a),
      (F.NVT_ANA_STAT_CHANGES 0, s.host.anaCount), (F.NVT_ANA_STAT_CHANGES 1, s.host.anaCount)]
    let s := (s.irq Slot.NVT 1).irq (Slot.NVT + 8) 1
    s.host.ctrls.foldl (fun (s : State) q => s.queueEvent q.1 (2, 3, 0x0C)) s

/-! ### Associations that can see a volume (R215) -/

/-- The vats whose sealed state keeps a connection out: none where the volume's vat is not sealed or granted. -/
def State.ldtSees (s : State) (x : LdtConn) (vol : Nat) : Bool :=
  match AL.get vol s.vat.vols with
  | some v => match AL.get v.vat s.vat.vats with
    | some t => x.state == 3 && (!t.isSealed || x.grants.contains v.vat)
    | none => false
  | none => false

/-- Associations that can see a volume: those of NVT with the namespace attached, and LDT connections that may read it. -/
def State.assocsWith (s : State) (vol : Nat) : List Nat :=
  (s.host.ctrls.filter (fun q => q.2.st == 2 && q.2.attach.contains vol)).map (fun q => s.cntlid q.1)
    ++ (s.ldt.conns.filter (fun q => s.ldtSees q.2 vol)).map (fun q => 0x100000 + q.1)

end Sys2Proof.Machine
end

