-- ==== Sys2Proof/Machine/Beat.lean ====
section
/-! DEFINITION. Chapter 1, the time base: its sources, the exchange of beat marks with the peer, PTP, and reads of
`BEAT_TB`. -/

namespace Sys2Proof.Machine

/-- 500 ppm in units of 2^-32: the limit of any rate correction (R25, Table 1.11). -/
def ratePpm500 : Int := 2147483

/-- A correction held to plus or minus 500 ppm. -/
def clampRate (a : Int) : Int := max (-ratePpm500) (min ratePpm500 a)

/-- Change the time data. -/
def State.modTime (s : State) (f : TimeSt → TimeSt) : State := { s with time := f s.time }

/-- The signed rate in force: 500 ppm toward the peer while a slew is left, else the rate of the source (R23 to R31). -/
def TimeSt.rate (t : TimeSt) : Int :=
  if 0 < t.slewLeft then ratePpm500 else if t.slewLeft < 0 then -ratePpm500 else t.baseRate

/-- Write the rate in force to `BEAT_RATE_EFF`. -/
def State.rateOut (s : State) : State := s.set F.BEAT_RATE_EFF_ADJ (unsgn 32 s.time.rate)

/-- Add nanoseconds to the time base (a forward step of R24). DESIGN CHOICE: of the beats it passes over no boundary work runs (log entry
147). -/
def State.stepForward (s : State) (ns : Nat) : State := s.modTime (fun t => { t with tbFx := t.tbFx + ns * 65536 })

/-- `COARSE` clears and the uncertainty returns to zero (R36). -/
def State.clearCoarse (s : State) : State := (s.set F.BEAT_STAT_COARSE 0).set F.BEAT_UNC_NS 0

/-- End a backward hold. -/
def State.endHold (s : State) : State := (s.modTime (fun t => { t with holdLeft := none })).set F.BEAT_STAT_STEP_ACTIVE 0

/-- Hold the time base for `ns` nanoseconds of the peer's time (R24). -/
def State.beginHold (s : State) (ns : Nat) : State :=
  (s.modTime (fun t => { t with holdLeft := some ns })).set F.BEAT_STAT_STEP_ACTIVE 1

/-- Correct an offset to the peer (R24, R25): by a step with ADM disabled and more than 2,000 ns, else by a slew. -/
def State.correctOffset (s : State) (ofs : Int) : State :=
  if (s.unit (unitKey Blk.ADM 0)).enable = false ∧ 2000 < ofs.natAbs then
    if 0 < ofs then (s.endHold.stepForward ofs.toNat).modTime (fun t => { t with slewLeft := 0 })
    else (s.beginHold ofs.natAbs).modTime (fun t => { t with slewLeft := 0 })
  else (s.modTime (fun t => { t with slewLeft := ofs })).rateOut

/-- `ALIGN_LOST` follows the offset while both heads are in PAIRED or SOLO; its rise raises the condition (R26). -/
def State.alignCheck (s : State) (ofs : Int) : State :=
  if ofs.natAbs ≤ 200 then s.set F.BEAT_STAT_ALIGN_LOST 0
  else if s.serving ∧ s.peerUp ∧ s.get F.BEAT_STAT_ALIGN_LOST = 0 then
    (s.set F.BEAT_STAT_ALIGN_LOST 1).raise Slot.BEAT Cond.BEAT_ALIGN_LOST (unsgn 64 ofs)
  else s

/-- The offset of the four beat-mark times (R23): peer time minus own time, in ns; an odd difference is halved rounding down
(DESIGN CHOICE, log entry 121). -/
def beatOffset (t1 t2 t3 t4 : Nat) (asym : Int) : Int :=
  (((t2 : Int) - t1) - ((t4 : Int) - t3)) / 2 + asym

/-- `BEAT_TB_READ` (R21): the read answers the time base and copies the fraction of the same cycle. -/
def execBeatTbRead (m : Nat) (s : State) : Res :=
  .next (s.busRd m Slot.BEAT 0x100 (fun s => (s.answer s.tb).set F.BEAT_TB_FRAC_FRAC s.tbFrac))

/-- `BEAT_MARK_EXCHANGE` (R23, R512): a BEAT_MARK leaves with its send time. -/
def execBeatMarkExchange (s : State) : Res :=
  .next (if s.maySend .peer 3 then (s.sendPeer 3 0 [s.tb]).modTime (fun t => { t with markT1 := some s.tb }) else s)

/-- `PEER_BEAT_MARK_RX` (R512): answered with BEAT_REPLY carrying t1, t2 and t3, with the wall offset and `COARSE` this
head's peer takes from it (log entry 20). -/
def execPeerBeatMarkRx (t1 : Nat) (s : State) : Res :=
  .next (s.sendPeer 4 0 [t1, s.tb, s.tb, s.get F.BEAT_WALL_OFS_NS, s.get F.BEAT_STAT_COARSE])

/-- `PEER_BEAT_REPLY_RX` (R23 to R27, R36): the offset is measured against the mark in flight; under source peer it is
reported, corrected, and moves the wall offset. -/
def execPeerBeatReplyRx (t1 t2 t3 wallOfs : Nat) (coarse : Bool) (s : State) : Res :=
  .next (if s.time.markT1 ≠ some t1 then s else
    let t4 := s.tb
    let ofs := beatOffset t1 t2 t3 t4 (sgn 32 (s.get F.BEAT_PEER_ASYM_NS))
    let s := (s.modTime (fun t => { t with markT1 := none, peerCoarse := coarse })).sample 37 ofs.natAbs
    let s := s.set F.PRL_BEAT_MARK_RTT_NS (unsgn 32 (((t4 : Int) - t1) - ((t3 : Int) - t2)))
    let s := if s.get F.BEAT_STAT_SOURCE = 1 then
        let s := s.setAll [(F.BEAT_PEER_OFS_NS, unsgn 64 ofs), (F.BEAT_WALL_OFS_NS, unsgn 64 ((wallOfs : Int) + ofs))]
        let s := s.correctOffset ofs
        if ofs.natAbs ≤ 200 then s.clearCoarse else s
      else s
    s.alignCheck ofs)

/-- `STEP_HOLD_END` (R24): K2 cycles pass with the time base held; when they make up the offset, the hold ends. -/
def execStepHoldEnd (k2 : Nat) (s : State) : Res :=
  .next (match s.time.holdLeft with
    | none => s
    | some h =>
      let s := s.modTime (fun t => { t with k2 := t.k2 + k2, holdLeft := some (h - 2 * k2) })
      if h ≤ 2 * k2 then s.endHold else s)

/-- `PTP_LOCK` clears and the offsets measured before no longer count (R30). -/
def State.ptpUnlock (s : State) : State :=
  (s.modTime (fun t => { t with ptpGood := 0 })).set F.BEAT_STAT_PTP_LOCK 0

/-- A timestamp of the port hardware: the time base with a resolution of 2 ns (R425). -/
def State.ptpStamp (s : State) : Nat := s.tb / 2 * 2

/-- The grandmaster offset (R30) of one exchange, in ns: `t1` and `t4` are the grandmaster's times of the Sync and of the Delay_Req,
this head's two times are its timestamp moved to wall time (R20, R425; log entry 122). -/
def State.ptpOffset (s : State) (t1 t4 : Nat) : Int :=
  let t : Nat := (s.ptpStamp + s.get F.BEAT_WALL_OFS_NS) % 2 ^ 64
  (((t : Int) - t1) - ((t4 : Int) - t)) / 2

/-- A Sync is received and its Delay_Req sent: both are timestamped (R425). -/
def State.ptpExchange (s : State) (port dom : Nat) : State :=
  (s.modTime (fun t => { t with
    ptpSyncBeat := some s.beat, ptpSyncPort := port, ptpSyncDom := dom, ptpRx := s.ptpStamp, ptpTx := s.ptpStamp })).hfiSend port
      (s.get (F.HFI_PRIO_MAP_PTP (port / 48))) 5 [s.ptpStamp] 64

/-- `PTP_SYNC_RX` (R30, R424, R425): an accepted Sync of `PTP_DOMAIN` on `PTP_PORT`, with the exchange it begins (log entry 122):
its offset counts toward the lock. -/
def execPtpSyncRx (port dom : Nat) (accepted : Bool) (t1 t4 : Nat) (s : State) : Res :=
  .next (if s.get F.BEAT_CFG_PTP_EN = 1 ∧ port = s.get F.BEAT_CFG_PTP_PORT ∧ dom = s.get F.BEAT_CFG_PTP_DOMAIN ∧ accepted then
      let ofs := s.ptpOffset t1 t4
      let s := s.ptpExchange port dom
      if ofs.natAbs ≤ 1000 then
        let s := s.modTime (fun t => { t with ptpGood := min 16 (t.ptpGood + 1) })
        if s.time.ptpGood = 16 then s.set F.BEAT_STAT_PTP_LOCK 1 else s
      else s.ptpUnlock
    else s)

/-- A Sync of the domain and on the port in force has arrived within the last 16,384 beats (R22, R30). -/
def State.ptpRecent (s : State) : Bool :=
  match s.time.ptpSyncBeat with
  | some b => decide (s.beat - b < 16384) && s.time.ptpSyncPort == s.get F.BEAT_CFG_PTP_PORT &&
      s.time.ptpSyncDom == s.get F.BEAT_CFG_PTP_DOMAIN
  | none => false

/-- `PTP_SYNC_TIMEOUT` (R30). -/
def execPtpSyncTimeout (s : State) : Res := .next (if s.ptpRecent then s else s.ptpUnlock)

/-- This head is the follower: the one with the higher HID (R22). -/
def State.follower (s : State) : Bool := decide (s.get F.PRL_STAT_PEER_HID < s.get F.FAB_ID_HID)

/-- The first row of Table 1.1 that applies (R22): 0 free, 1 peer, 2 PTP. -/
def State.chooseSource (s : State) : Nat :=
  let ptp := s.get F.BEAT_CFG_PTP_EN == 1 && s.ptpRecent
  let align := s.get F.BEAT_CFG_PEER_ALIGN_EN == 1
  let lead := s.get F.BEAT_STAT_COARSE == 1 && !s.time.peerCoarse
  if s.peerUp && align && (s.follower || lead) then 1
  else if ptp then 2
  else 0

/-- Take the source at a boundary: the rate it sets, and the end of a slew when the source becomes free (R28, R31);
`COARSE` clears under PTP with the lock (R36). Under the peer, `BEAT_RATE_ADJ` has no effect: without a slew the rate is nominal
(DESIGN CHOICE, log entry 123). -/
def State.takeSource (s : State) : State :=
  let n := s.chooseSource
  let s := if n = 0 ∧ s.get F.BEAT_STAT_SOURCE ≠ 0 then s.modTime (fun t => { t with slewLeft := 0 }) else s
  let s := if n = 2 then s.modTime (fun t => { t with slewLeft := 0, baseRate := clampRate (sgn 32 (s.get F.BEAT_RATE_ADJ_ADJ)) })
    else if n = 1 then s.modTime (fun t => { t with baseRate := 0 })
    else s
  let s := (s.set F.BEAT_STAT_SOURCE n).rateOut
  if n = 2 ∧ s.get F.BEAT_STAT_PTP_LOCK = 1 then s.clearCoarse else s

/-- What one K2 cycle of a slew removes of the offset, in units of 2^-48 ns: 2 ns at 500 ppm (R25). -/
def slewUnit : Nat := 131072 * 2147483

/-- The K2 cycles until the slew in progress ends. -/
def TimeSt.slewCycles (t : TimeSt) : Nat := ceilDiv (t.slewLeft.natAbs * 2 ^ 48 - t.slewAcc % 2 ^ 48) slewUnit

/-- `k` K2 cycles of 2 ns at the rate in force (R14, R28); what the gain leaves below 2^-16 ns is carried (log entry 120). -/
def TimeSt.run (t : TimeSt) (k : Nat) : TimeSt :=
  let g := ((k * 131072 : Nat) : Int) * t.rate + (t.rateRem % 4294967296 : Nat)
  { t with
    tbFx := max t.tbFx (((t.tbFx + k * 131072 : Nat) : Int) + g / 4294967296).toNat
    rateRem := (g % 4294967296).toNat
    k2 := t.k2 + k }

/-- `k` K2 cycles of a slew that they do not end (R25). -/
def TimeSt.slew (t : TimeSt) (k : Nat) : TimeSt :=
  let a := t.slewAcc % 2 ^ 48 + k * slewUnit
  let used : Int := (a / 2 ^ 48 : Nat)
  { t.run k with slewAcc := a % 2 ^ 48, slewLeft := if 0 < t.slewLeft then t.slewLeft - used else t.slewLeft + used }

/-- `k` K2 cycles: a slew ends in the cycle in which its offset is removed, and the rate of the source holds from then on. -/
def TimeSt.pass (t : TimeSt) (k : Nat) : TimeSt :=
  if t.slewLeft = 0 then t.run k
  else if k < t.slewCycles then t.slew k
  else ({ t.run t.slewCycles with slewLeft := 0, slewAcc := 0 } : TimeSt).run (k - t.slewCycles)

/-- Advance the time base and the K2 count, with the slew it removes (R14, R25). -/
def State.advance (s : State) (k2 : Nat) : State := (s.modTime (fun t => t.pass k2)).rateOut

end Sys2Proof.Machine
end

