-- ==== Sys2Proof/Machine/Deflate.lean ====
section
/-! DEFINITION. Chapter 9: what an inflater makes of a DEFLATE stream (R397 to R401), and which streams a deflater writes (R387 to
R392). A stream is a number whose bit 0 is bit 0 of its first byte. -/

namespace Sys2Proof.Machine

/-- `n` bits of a stream from bit `pos`. -/
def bitsAt (v pos n : Nat) : Nat := v / 2 ^ pos % 2 ^ n

/-! ### Codes -/

/-- The symbols of a code by the length of their word, from 1 up to the longest. -/
def codeTab (ls : List Nat) : List (List Nat) :=
  (List.range (ls.foldl max 0)).map (fun l => (ls.zipIdx).filterMap (fun (q : Nat × Nat) => if q.1 = l + 1 then some q.2 else none))

/-- The symbol whose word stands at a bit, and the bit after it. -/
def codeSym (v : Nat) : List (List Nat) → Nat → Nat → Nat → Option (Nat × Nat)
  | [], _, _, _ => none
  | syms :: t, pos, code, first =>
    let c := code + bitsAt v pos 1
    if c < first + syms.length then some (syms.getD (c - first) 0, pos + 1)
    else codeSym v t (pos + 1) (2 * c) (2 * (first + syms.length))

/-- A code is complete: its words leave no bit pattern unassigned, and none is assigned twice. -/
def codeFull (ls : List Nat) : Bool := (ls.map (fun l => if l = 0 then 0 else 2 ^ (15 - l))).sum == 2 ^ 15

/-- A code that a block may have: complete, or one word of length 1 (R397). -/
def codeOk (ls : List Nat) : Bool := codeFull ls || ls.filter (· != 0) == [1]

/-- Lengths of the static literal/length code (RFC 1951). -/
def staticLit : List Nat := List.replicate 144 8 ++ List.replicate 112 9 ++ List.replicate 24 7 ++ List.replicate 8 8

/-- Lengths of the static distance code. -/
def staticDist : List Nat := List.replicate 30 5

/-- Extra bits and first length of symbols 257 to 285. -/
def lenOf (sym : Nat) : Nat × Nat :=
  let k := sym - 257
  if sym = 285 then (0, 258) else if k < 8 then (0, k + 3) else (k / 4 - 1, (4 + k % 4) * 2 ^ (k / 4 - 1) + 3)

/-- Extra bits and first distance of distance symbols. -/
def distOf (sym : Nat) : Nat × Nat := if sym < 4 then (0, sym + 1) else (sym / 2 - 1, (2 + sym % 2) * 2 ^ (sym / 2 - 1) + 1)

/-! ### The inflater (R397 to R401, Table 9.3) -/

/-- A block as the inflater met it: its type, the bytes written when it ended, the lengths of its codes, the words of its
code-length sequence, and the distance symbols it used. -/
structure InflBlock where
  typ : Nat
  upTo : Nat := 0
  lits : List Nat := []
  dists : List Nat := []
  seqn : List Nat := []
  clens : List Nat := []
  used : List Nat := []
  deriving DecidableEq, Repr

/-- An inflate job: the next bit, the bytes written and their content, the blocks and the matches (bytes written before, length,
distance) newest first, and the condition that ended it with its bit offset. -/
structure Infl where
  pos : Nat := 0
  n : Nat := 0
  out : Nat := 0
  blocks : List InflBlock := []
  copies : List (Nat × Nat × Nat) := []
  cond : Nat := 0
  bit : Nat := 0
  deriving DecidableEq, Repr

/-- The job ends with a condition. -/
def Infl.fail (s : Infl) (cond bit : Nat) : Infl := { s with cond := cond, bit := bit }

/-- Copy `ln` bytes from `d` bytes back. -/
def lzCopy : Nat → Nat → Nat → Nat → Nat → Nat
  | 0, _, _, _, out => out
  | fuel + 1, ln, d, n, out =>
    if ln = 0 then out
    else
      let k := min ln d
      lzCopy fuel (ln - k) d (n + k) (out + out / 256 ^ (n - d) % 256 ^ k * 256 ^ n)

/-- Literals and matches of a block up to its end-of-block code; `len` is the payload in bits, `limit` the output limit in bytes. -/
def inflSyms (v len limit : Nat) (lt dt : List (List Nat)) : Nat → Infl → Infl
  | 0, s => s.fail Cond.INFLATE_INPUT_END len
  | fuel + 1, s =>
    match codeSym v lt s.pos 0 0 with
    | none => if len < s.pos + lt.length then s.fail Cond.INFLATE_INPUT_END len else s.fail Cond.INFLATE_BAD_SYMBOL s.pos
    | some (sym, p) =>
      if len < p then s.fail Cond.INFLATE_INPUT_END len
      else if sym < 256 then
        if limit ≤ s.n then s.fail Cond.OUTPUT_LIMIT s.pos
        else inflSyms v len limit lt dt fuel { s with pos := p, n := s.n + 1, out := s.out + sym * 256 ^ s.n }
      else if sym = 256 then { s with pos := p }
      else if 285 < sym then s.fail Cond.INFLATE_BAD_SYMBOL s.pos
      else
        let (eb, l0) := lenOf sym
        let ln := l0 + bitsAt v p eb
        match codeSym v dt (p + eb) 0 0 with
        | none => if len < p + eb + dt.length then s.fail Cond.INFLATE_INPUT_END len else s.fail Cond.INFLATE_BAD_SYMBOL (p + eb)
        | some (ds, q) =>
          let (db, d0) := distOf ds
          let d := d0 + bitsAt v q db
          if len < q then s.fail Cond.INFLATE_INPUT_END len
          else if 29 < ds then s.fail Cond.INFLATE_BAD_SYMBOL (p + eb)
          else if len < q + db then s.fail Cond.INFLATE_INPUT_END len
          else if s.n < d then s.fail Cond.INFLATE_BAD_DISTANCE s.pos
          else if limit < s.n + ln then s.fail Cond.OUTPUT_LIMIT s.pos
          else inflSyms v len limit lt dt fuel { s with
            pos := q + db, n := s.n + ln, out := lzCopy ln ln d s.n s.out, copies := (s.n, ln, d) :: s.copies
            blocks := match s.blocks with
              | b :: t => { b with used := ds :: b.used } :: t
              | [] => [] }

/-- The code lengths of a dynamic block: symbols of the code-length code until `want` lengths stand, with the sequence sent; none where a
check fails. The bit after the last one read goes with either. -/
def inflLens (v want : Nat) (ct : List (List Nat)) : Nat → Nat → List Nat → List Nat → Option (List Nat × List Nat) × Nat
  | 0, pos, _, _ => (none, pos)
  | fuel + 1, pos, acc, sq =>
    if want ≤ acc.length then (if acc.length = want then some (acc, sq) else none, pos)
    else match codeSym v ct pos 0 0 with
      | none => (none, pos)
      | some (y, p) =>
        if y < 16 then inflLens v want ct fuel p (acc ++ [y]) (sq ++ [y])
        else if y = 16 then
          match acc.getLast? with
          | none => (none, p)
          | some x => inflLens v want ct fuel (p + 2) (acc ++ List.replicate (3 + bitsAt v p 2) x) (sq ++ [16])
        else if y = 17 then inflLens v want ct fuel (p + 3) (acc ++ List.replicate (3 + bitsAt v p 3) 0) (sq ++ [17])
        else inflLens v want ct fuel (p + 7) (acc ++ List.replicate (11 + bitsAt v p 7) 0) (sq ++ [18])

/-- The order in which the lengths of the code-length code are sent. -/
def clenOrder : List Nat := [16, 17, 18, 0, 8, 7, 9, 6, 10, 5, 11, 4, 12, 3, 13, 2, 14, 1, 15]

/-- The header of a dynamic block at bit `p`: its block, none where a check of its table fails, and the bit after the last one read. -/
def inflTable (v p : Nat) : Option InflBlock × Nat :=
  let hlit := bitsAt v p 5 + 257
  let hdist := bitsAt v (p + 5) 5 + 1
  let hclen := bitsAt v (p + 10) 4 + 4
  let sent := (List.range hclen).map (fun i => bitsAt v (p + 14 + 3 * i) 3)
  let cl := (List.range 19).map (fun y => sent.getD (clenOrder.findIdx (· == y)) 0)
  if 286 < hlit then (none, p + 5)
  else if 30 < hdist then (none, p + 10)
  else if !codeFull cl then (none, p + 14 + 3 * hclen)
  else match inflLens v (hlit + hdist) (codeTab cl) (hlit + hdist + 1) (p + 14 + 3 * hclen) [] [] with
    | (none, q) => (none, q)
    | (some (ls, sq), q) =>
      let lits := ls.take hlit
      let dists := ls.drop hlit
      if lits.getD 256 0 = 0 ∨ !codeOk lits ∨ !codeOk dists then (none, q)
      else (some { typ := 2, lits := lits, dists := dists, seqn := sq, clens := sent }, q)

/-- Close the block in progress. -/
def Infl.endBlock (s : Infl) : Infl :=
  { s with blocks := match s.blocks with
    | b :: t => { b with upTo := s.n } :: t
    | [] => [] }

/-- One block after another, up to the final one. DESIGN CHOICE: of a stored block that runs past the payload's end no byte is written
(log entry 155). -/
def inflBlocks (v len limit : Nat) : Nat → Infl → Infl
  | 0, s => s.fail Cond.INFLATE_INPUT_END len
  | fuel + 1, s =>
    let typ := bitsAt v (s.pos + 1) 2
    let p := s.pos + 3
    let s' :=
      if len < p then s.fail Cond.INFLATE_INPUT_END len
      else if typ = 3 then s.fail Cond.INFLATE_BAD_BLOCK s.pos
      else if typ = 0 then
        let a := (p + 7) / 8 * 8
        let k := bitsAt v a 16
        if len < a + 32 then s.fail Cond.INFLATE_INPUT_END len
        else if k + bitsAt v (a + 16) 16 ≠ 65535 then s.fail Cond.INFLATE_BAD_STORED a
        else if limit < s.n + k then s.fail Cond.OUTPUT_LIMIT (a + 32)
        else if len < a + 32 + 8 * k then s.fail Cond.INFLATE_INPUT_END len
        else { s with pos := a + 32 + 8 * k, n := s.n + k, out := s.out + bitsAt v (a + 32) (8 * k) * 256 ^ s.n, blocks := { typ := 0 } :: s.blocks }
      else if typ = 1 then
        inflSyms v len limit (codeTab staticLit) (codeTab staticDist) (len + 1) { s with pos := p, blocks := { typ := 1 } :: s.blocks }
      else match inflTable v p with
        | (b, q) =>
          if len < q then s.fail Cond.INFLATE_INPUT_END len
          else match b with
            | none => s.fail Cond.INFLATE_BAD_TABLE s.pos
            | some b => inflSyms v len limit (codeTab b.lits) (codeTab b.dists) (len + 1) { s with pos := q, blocks := b :: s.blocks }
    if s'.cond ≠ 0 then s'
    else if bitsAt v s.pos 1 = 1 then s'.endBlock
    else inflBlocks v len limit fuel s'.endBlock

/-- An inflate job over a payload of `bytes` bytes with its output limit: what it wrote, or the condition of Table 9.3 that ended
it. Bytes after the final block are not looked at (R401). -/
def inflate (v bytes limit : Nat) : Infl :=
  let s := inflBlocks v (8 * bytes) limit (8 * bytes + 1) {}
  if s.cond = 0 ∧ s.n < limit then s.fail Cond.INFLATE_LENGTH_SHORT s.pos else s

/-- Block headers met per segment of 4,096 bytes of output: a segment with more than one may run out of cycles (R398). -/
def Infl.crowded (s : Infl) : Bool := !decide ((s.blocks.map (fun b => (b.upTo - 1) / 4096)).Nodup)

/-! ### The deflater (R387 to R392) -/

/-- The window of an effort (Table 9.2). -/
def deflWindow (effort : Nat) : Nat := if effort = 1 then 8192 else 32768

/-- No code-length symbol sent could have been saved by a repeat: no three zeros, and no length with three repeats of it, one by
one. -/
def repeatsUsed : List Nat → Bool
  | a :: b :: c :: d :: t =>
    !(a == 0 && b == 0 && c == 0) && !(decide (a < 16) && a == b && b == c && c == d) && repeatsUsed (b :: c :: d :: t)
  | [a, b, c] => !(a == 0 && b == 0 && c == 0)
  | _ => true

/-- The tables of a dynamic block are as small as R388 asks, and its distance code is as R388 gives it. -/
def InflBlock.tight (b : InflBlock) : Bool :=
  (b.lits.length == 257 || b.lits.getLast? != some 0) && (b.dists.length == 1 || b.dists.getLast? != some 0)
    && (b.clens.length == 4 || b.clens.getLast? != some 0) && repeatsUsed b.seqn
    && (match b.used.eraseDups with
      | [] => b.dists == [1]
      | [d] => b.dists == List.replicate d 0 ++ [1]
      | _ => true)

/-- A deflater may write a stream for data of `blocks` 4 KiB blocks: one block of the form that `comp` names for each segment, matches
within the window and within their segment, tight tables, and zero bits up to the byte (R387 to R389, R391). -/
def deflates (comp effort blocks data v bytes : Nat) : Bool :=
  let s := inflate v bytes (4096 * blocks)
  s.cond == 0 && s.out == data && ceilDiv s.pos 8 == bytes && v / 2 ^ s.pos == 0
    && (s.blocks.reverse.map (fun b => (b.typ, b.upTo))) == (List.range blocks).map (fun i => (comp, 4096 * (i + 1)))
    && s.copies.all (fun c => decide (c.2.2 ≤ deflWindow effort) && c.1 / 4096 == (c.1 + c.2.1 - 1) / 4096)
    && (comp != 2 || s.blocks.all (fun b => b.tight))

end Sys2Proof.Machine
end

