-- ==== Sys2Proof/Machine/Record.lean ====
section
/-! DEFINITION. Chapter 3, load profiles: the profile area, and how a recording ends. -/

namespace Sys2Proof.Machine

/-! ### The profile area (R150, Tables 3.9 and 3.10) -/

/-- Address of a profile's header. -/
def State.pfxHdr (s : State) (p : Nat) : Nat := s.get F.PFX_BASE_BASE * 2097152 + p * 0x40

/-- Address of extent record `e` of a profile. -/
def State.pfxExt (s : State) (p e : Nat) : Nat := s.get F.PFX_BASE_BASE * 2097152 + 0x40000 + p * 0x10000 + 8 * e

/-- An extent record as a word. -/
def Extent.word (e : Extent) : Nat := e.delay * 2 ^ 48 + e.lenM1 * 2 ^ 38 + e.lba

/-- The extent of a word. -/
def Extent.ofWord (w : Nat) : Extent := ⟨bitsOf w 48 16, bitsOf w 38 10, bitsOf w 0 38⟩

/-- Write a recording's header and extents. -/
def State.pfxWrite (s : State) (p vol lba len trig : Nat) (es : List Extent) : State :=
  let w0 := 2 ^ 60 + vol * 2 ^ 32 + es.length
  let w1 := (len - 1) * 2 ^ 38 + lba
  let w2 := trig
  let ws := es.map Extent.word
  let w3 := crcWords ([w0, w1, w2] ++ ws)
  let a := s.pfxHdr p
  let b := s.pfxExt p
  let s := ([w0, w1, w2, w3].zipIdx).foldl (fun (s : State) q => s.wrLE (a + 8 * q.2) 8 q.1) s
  (ws.zipIdx).foldl (fun (s : State) q => s.wrLE (b q.2) 8 q.1) s

/-! ### The end of a recording (R154) -/

/-- The recording's state: 0 idle, 1 armed, 2 recording, 3 ended. -/
def State.recState (s : State) : Nat := s.get F.PFX_REC_STAT_STATE

/-- End a recording for a reason; with a trigger, its profile is written. Without one `STATE` returns to 0; `ARM` reads 0 from either end on
(R154; log entry 130). -/
def State.recEnd (s : State) (why : Nat) : State :=
  let st := s.recState
  if st = 1 then s.setAll [(F.PFX_REC_STAT_STATE, 0), (F.PFX_REC_CTL_ARM, 0)]
  else if st = 2 then
    let s := s.pfxWrite (s.get F.PFX_REC_CTL_PROFILE) (s.get F.PFX_REC_CTL_VOLUME) s.read.recTrigLba s.read.recTrigLen s.read.recTrigBeat
      s.read.recExtents.reverse
    (s.setAll [(F.PFX_REC_STAT_STATE, 3), (F.PFX_REC_STAT_END, why), (F.PFX_REC_CTL_ARM, 0)]).irq Slot.PFX 1
  else s

/-- End a volume's recording (R154). -/
def State.recVolumeGone (s : State) (v : Nat) : State := if s.get F.PFX_REC_CTL_VOLUME = v then s.recEnd 3 else s

end Sys2Proof.Machine
end

