-- ==== Sys2Proof/Machine/Vat.lean ====
section
/-! DEFINITION. Chapter 5: the vat, volume and snapshot tables, the pair-wide commands that change them, and the release of
what deleted volumes and snapshots held. -/

namespace Sys2Proof.Machine

/-! ### Keys by handle -/

/-- The handle of a vat key (Table 8.4, kind 1). -/
def hVat (v gen : Nat) : Nat := 2 ^ 28 + v * 256 + gen

/-- The handle of a vat's salt (kind 2); those of the fabric's vats resolve to the fabric salt. -/
def hSalt (v : Nat) : Nat := 2 * 2 ^ 28 + (if 0xF00 ≤ v then 0xF00 else v)

/-- The handle of the journal key of a head and generation (kind 3, R586). -/
def hJnl (hid gen : Nat) : Nat := 3 * 2 ^ 28 + gen % 4096 * 65536 + hid

/-- The handle of a connection key (kind 4). -/
def hConn (c : Nat) : Nat := 4 * 2 ^ 28 + c

/-- The handle of a KEY slot (kind 5). -/
def hSlot (k : Nat) : Nat := 5 * 2 ^ 28 + k

/-- The kind of a handle. -/
def hKind (h : Nat) : Nat := h / 2 ^ 28

/-- KEY holds a handle whose removal has not been requested (R234, R358). -/
def State.keyHeld (s : State) (h : Nat) : Bool :=
  match AL.get h s.sec.handles with
  | some k => !k.removing
  | none => false

/-- Request a handle's removal: from then on every check treats it as absent (R358). -/
def State.keyRemove (s : State) (h : Nat) : State :=
  match AL.get h s.sec.handles with
  | some k => { s with sec := { s.sec with handles := AL.put h { k with removing := true } s.sec.handles } }
  | none => s

/-- The salt of a vat: the fabric salt for the fabric's vats (Table 8.4). -/
def State.saltOf (s : State) (v : Nat) : Nat :=
  if 0xF00 ≤ v then ((AL.get (hSalt v) s.sec.handles).map (·.value)).getD 0 else ((AL.get v s.vat.vats).map (·.salt)).getD 0

/-! ### The key store (R587, Table 14.5) -/

/-- The key that a handle names, and its length in bytes. -/
def State.keyOf (s : State) (h : Nat) : Nat × Nat :=
  if hKind h = 2 then (s.saltOf (h % 4096), 32)
  else match AL.get h s.sec.handles with
    | some k => (k.value, if k.long then 64 else 32)
    | none => (0, 32)

/-- The entry of a journal key: own current, own previous, peer current, peer previous. -/
def State.jnlEntry (s : State) (h : Nat) : Nat :=
  let gen := h / 65536 % 4096
  if h % 65536 = s.get F.FAB_ID_HID then (if gen = s.get F.KEY_JNL_STAT_OWN % 4096 then 0 else 1)
  else if gen = s.get F.KEY_JNL_STAT_PEER % 4096 then 2 else 3

/-- The address of a handle's entry in the key store. -/
def State.keyEntry (s : State) (h : Nat) : Nat :=
  s.get F.KEY_STORE_BASE_BASE * 2 ^ 21 +
    (match hKind h with
    | 1 => 0x8000000 + 64 * (h / 256 % 4096 * 2 + h % 2)
    | 2 => 0x8100000 + 64 * (h % 4096)
    | 3 => 0x8140000 + 64 * s.jnlEntry h
    | 4 => 64 * (h % 2 ^ 20 * 2 + h / 2 ^ 20 % 2)
    | _ => 0x8080000 + 128 * (h % 4096))

/-- The bytes of a handle's entry: its key wrapped under the store key. -/
def State.keyWrapped (s : State) (h store : Nat) : List Nat :=
  beBytes ((s.keyOf h).2 + 8) (Config.keyWrap store (s.keyOf h).1 (s.keyOf h).2)

/-- KEY writes the entry of a handle's key into the key store, once a store key has been drawn. -/
def State.keyStore (s : State) (h : Nat) : State :=
  match s.sec.storeKey with
  | some k => if inHbm (s.keyEntry h) 128 then s.putBytes (s.keyEntry h) (s.keyWrapped h k) else s
  | none => s

/-- The salts of the vats stand in the key store. -/
def State.saltsStore (s : State) : State :=
  s.vat.vats.foldl (fun (s : State) q => if q.1 < 0xF00 then s.keyStore (hSalt q.1) else s) s

/-- The unwrap of a handle's entry passes its integrity check: the entry stands as KEY wrote it, or it is another whole wrap
under the store key. -/
def State.keyIntact (s : State) (h : Nat) : Bool :=
  match s.sec.storeKey with
  | some k =>
    let l := s.bytesAt (s.keyEntry h) ((s.keyOf h).2 + 8)
    l == s.keyWrapped h k || (Config.keyUnwrap k (ofBytes l)).isSome
  | none => false

/-- KEY holds a key under a handle. -/
def State.keyPut (s : State) (h : Nat) (k : KeyH) : State :=
  { s with sec := { s.sec with handles := AL.put h k s.sec.handles } }.keyStore h

/-- The head's own journal keys are named by its HID (Table 8.4): a new HID renames their handles (R177; log entry 164). -/
def State.hidMove (s : State) (old : Nat) : State :=
  let new := s.get F.FAB_ID_HID
  if new = old then s else
  [s.get F.KEY_JNL_STAT_OWN_PREV, s.get F.JNL_KEY_STAT_JGEN].foldl (fun (s : State) g =>
    match AL.get (hJnl old g) s.sec.handles with
    | some k => { s with sec := { s.sec with handles := AL.del (hJnl old g) s.sec.handles } }.keyPut (hJnl new g) k
    | none => s) s

/-- The generator gives output; what would draw while it recovers waits (R595). -/
def State.mayDraw (s : State) : Bool := s.get F.SEC_DRBG_STAT_READY == 1

/-- 256 random bits of the DRBG (R596). -/
def State.draw256 (s : State) : Nat × State :=
  let n := s.sec.drbgCount
  let w (k : Nat) : Nat := (Config.drbg n k).toNat
  (w 0 + w 1 * 2 ^ 64 + w 2 * 2 ^ 128 + w 3 * 2 ^ 192,
    { s with sec := { s.sec with drbgCount := n + 1 } }.satInc F.SEC_DRBG_STAT_SINCE_RESEED 1)

/-! ### The tables -/

/-- A vat that is neither FREE nor DELETING. -/
def State.liveVat (s : State) (v : Nat) : Option Vat := (AL.get v s.vat.vats).filter (fun x => x.state != 3)

/-- A volume that is neither free nor being deleted. -/
def State.liveVol (s : State) (v : Nat) : Option Vol := (AL.get v s.vat.vols).filter (fun x => x.state == 1)

/-- A live snapshot. -/
def State.liveSnap (s : State) (n : Nat) : Option Snap := (AL.get n s.vat.snaps).filter (fun x => x.state == 1)

/-- Change a vat. -/
def State.setVat (s : State) (v : Nat) (x : Vat) : State := s.modVat (fun t => { t with vats := AL.put v x t.vats })

/-- Change a volume. -/
def State.setVol (s : State) (v : Nat) (x : Vol) : State := s.modVat (fun t => { t with vols := AL.put v x t.vols })

/-- A re-dye runs in the pair: a vat's old generation is live and a sweep has not ended (R231). -/
def State.redyeRuns (s : State) : Bool := s.get F.VAT_REDYE_STAT_ACTIVE == 1 || s.vat.ownEnded || s.vat.sweepVat.isSome

/-! ### Accepting a command (R235 to R238) -/

/-- The page of a table command: VAT page 0 or SNP page 0. -/
def tblSlot (snp : Bool) : Nat := if snp then Slot.SNP else Slot.VAT

/-- This head takes table commands: side A in PAIRED, or the head in SOLO (R235). -/
def State.coordinator (s : State) : Bool := (s.mode == .paired && s.side == 0) || s.mode == .solo

/-- Set a command's outcome: BUSY clears, RESULT, CONDITION and beat are written, CMD_DONE is set (R238). -/
def State.tblResult (s : State) (snp : Bool) (result cond beat : Nat) : State :=
  (if snp then s.setAll [(F.SNP_CMD_STAT_BUSY, 0), (F.SNP_CMD_STAT_RESULT, result), (F.SNP_CMD_STAT_CONDITION, cond),
      (F.SNP_CMD_STAT_BEAT, beat)]
   else s.setAll [(F.VAT_CMD_STAT_BUSY, 0), (F.VAT_CMD_STAT_RESULT, result), (F.VAT_CMD_STAT_CONDITION, cond),
      (F.VAT_CMD_STAT_BEAT, beat)]).irq (tblSlot snp) 1

/-- The first refusal of Table 5.4 that a vat or volume command meets; 0 for none. DESIGN CHOICE: a snapshot still reclaiming counts as one
of its volume (log entry 151). `args` are `VAT`, `PROFILE`, `SEALED`,
`PUBLISHED`, `CD_ALLOW`, `COMP`, `KEY_GEN` and `SIZE_M1`. -/
def State.vatRefusal (s : State) (op t : Nat) (args : List Nat) : Nat :=
  let a (i : Nat) : Nat := args.getD i 0
  let v := t % 4096
  match op with
  | 1 =>
    if (AL.get v s.vat.vats).isSome then Cond.VAT_EXISTS
    else if (a 3 == 1) != decide (3840 ≤ v) || a 5 == 3 then Cond.VAT_CMD_INVALID
    else if !s.keyHeld (hVat v (a 6)) then Cond.VAT_KEY_ABSENT else 0
  | 2 =>
    match s.liveVat v with
    | none => Cond.VAT_ABSENT
    | some x => if x.state = 2 then Cond.VAT_IMMUTABLE else if a 5 = 3 then Cond.VAT_CMD_INVALID else 0
  | 3 =>
    match s.liveVat v with
    | none => Cond.VAT_ABSENT
    | some x =>
      if x.published then Cond.VAT_IMMUTABLE
      else if s.redyeRuns || x.oldLive then Cond.VAT_REDYE_BUSY
      else if !s.keyHeld (hVat v ((x.keyGen + 1) % 256)) then Cond.VAT_KEY_ABSENT else 0
  | 4 =>
    match s.liveVat v with
    | none => Cond.VAT_ABSENT
    | some x => if !x.published then Cond.VAT_CMD_INVALID else if x.state = 2 then Cond.VAT_IMMUTABLE else 0
  | 5 => if (s.liveVat v).isNone then Cond.VAT_ABSENT else 0
  | 6 =>
    if (AL.get t s.vat.vols).isSome then Cond.VOLUME_EXISTS
    else match s.liveVat (a 0) with
      | none => Cond.VAT_ABSENT
      | some x => if x.state = 2 then Cond.VAT_IMMUTABLE else 0
  | 7 =>
    match s.liveVol t with
    | none => Cond.VOLUME_ABSENT
    | some x =>
      if ((s.liveVat x.vat).map (fun y => y.state == 2)).getD false then Cond.VAT_IMMUTABLE
      else if a 7 ≤ x.sizeM1 then Cond.VAT_CMD_INVALID else 0
  | 8 => if (s.liveVol t).isNone then Cond.VOLUME_ABSENT else 0
  | 9 =>
    if (s.liveVol t).isNone then Cond.VOLUME_ABSENT
    else if s.vat.snaps.any (fun q => q.2.vol == t) then Cond.VOLUME_HAS_SNAPSHOTS else 0
  | 10 =>
    match s.liveVat v with
    | none => Cond.VAT_ABSENT
    | some x => if !x.oldLive then Cond.VAT_CMD_INVALID else if s.redyeRuns then Cond.VAT_REDYE_BUSY else 0
  | _ => Cond.VAT_CMD_INVALID

/-- The first refusal of Table 5.5, with the count of snapshots of log entry 151 (DESIGN CHOICE); `args` are the listed volumes of CREATE_GROUP (after `COUNT`), or the volume of
CLONE. -/
def State.snpRefusal (s : State) (op t : Nat) (args : List Nat) : Nat :=
  match op with
  | 1 =>
    let n := args.headD 0
    let vols := args.tail
    if n = 0 ∨ 256 < n ∨ vols.eraseDups.length < vols.length then Cond.SNP_CMD_INVALID
    else if vols.any (fun v => (s.liveVol v).isNone) then Cond.VOLUME_ABSENT
    else if vols.any (fun v => decide (4096 ≤ (s.vat.snaps.filter (fun q => q.2.vol == v)).length)) then Cond.SNP_VOLUME_FULL
    else if 1048576 < s.vat.snaps.length + n then Cond.SNP_TABLE_FULL else 0
  | 2 =>
    if (s.liveSnap t).isNone || s.fab.links.any (fun q => !q.2.target && (q.2.offered == some t || q.2.base == some t)) then Cond.SNP_ABSENT
    else 0
  | 3 =>
    match s.liveSnap t with
    | none => Cond.SNP_ABSENT
    | some sp =>
      if (AL.get (args.headD 0) s.vat.vols).isSome then Cond.VOLUME_EXISTS
      else if (((AL.get sp.vol s.vat.vols).bind (fun v => s.liveVat v.vat))).isNone then Cond.VAT_ABSENT else 0
  | _ => Cond.SNP_CMD_INVALID

/-- The apply beat a command names: the beat register, or 64 beats on when it is 0; none when it is out of its range
(R237). -/
def State.applyBeat (s : State) (b : Nat) : Option Nat :=
  let b' := if b = 0 then (s.beat + 64) % 2 ^ 48 else b
  let d := (b' + 2 ^ 48 - s.beat) % 2 ^ 48
  if 64 ≤ d ∧ d ≤ 65536 then some b' else none

/-- The `n` lowest free snapshot identities (R241). -/
def State.freeSnaps (s : State) : Nat → Nat → List Nat
  | 0, _ => []
  | n + 1, i =>
    let used := (s.vat.snaps.filter (fun q => decide (i ≤ q.1))).map (·.1)
    let j := used.foldl (fun j u => if u = j then j + 1 else j) i
    j :: s.freeSnaps n (j + 1)

/-- A `CREATE_VAT` of a vat that is not published whose salt is still to be drawn. -/
def TCmd.unsalted (c : TCmd) : Bool := !c.snp && c.op == 1 && c.args.getD 3 0 != 1 && decide (c.args.length < 9)

/-- The arguments with which an accepted command is held: `CREATE_VAT` of a vat that is not published has its salt drawn here, for both
heads (R222; log entry 131). -/
def State.tblDraw (s : State) (c : TCmd) : TCmd × State :=
  if c.unsalted ∧ s.mayDraw then
    let (salt, s) := s.draw256
    ({ c with args := c.args.take 8 ++ [salt] }, s)
  else (c, s)

/-- Tell the peer of an accepted command (R239). -/
def State.tblTell (s : State) (c : TCmd) : State := s.sendPeer 7 0 ([b2n c.snp, c.op, c.target, c.applyBeat] ++ c.args)

/-- Accept a command: BUSY sets, and in PAIRED the peer is told (R238, R239). -/
def State.tblAccept (s : State) (c : TCmd) : State :=
  let (c, s) := s.tblDraw c
  let s := s.modVat (fun t => { t with cmds := t.cmds ++ [{ c with acked := s.mode != .paired && !c.unsalted }] })
  let s := if c.snp then s.set F.SNP_CMD_STAT_BUSY 1 else (s.set F.VAT_CMD_STAT_BUSY 1).bump F.VAT_CNT_CMD_COUNT
  if s.mode = .paired ∧ !c.unsalted then s.tblTell c else s

/-- Salts that waited for the generator are drawn, and the commands go on (R595, R238, R239). -/
def State.saltsGo (s : State) : State :=
  if !s.mayDraw then s else
  (s.vat.cmds.filter (fun c => c.own && c.unsalted)).foldl (fun (s : State) c =>
    let (d, s) := s.tblDraw c
    let s := s.modVat (fun t => { t with cmds := t.cmds.map (fun x => if x = c then { d with acked := s.mode != .paired } else x) })
    if s.mode = .paired then s.tblTell d else s) s
/-- Refuse a command (R238). -/
def State.tblRefuse (s : State) (snp : Bool) (cond beat : Nat) : State :=
  (s.tblResult snp 2 cond beat).bump (if snp then F.SNP_CNT_REFUSED_COUNT else F.VAT_CNT_REFUSED_COUNT)

/-- A command written to `VAT_CMD` or `SNP_CMD` that the bus lets through (R235 to R238, R241). -/
def State.tblCommand (s : State) (snp : Bool) (op target : Nat) (args : List Nat) : State :=
  let slot := tblSlot snp
  if !s.coordinator then s.raise slot Cond.TABLE_CMD_NOT_COORDINATOR
  else if s.get F.VAT_CMD_STAT_BUSY = 1 ∨ s.get F.SNP_CMD_STAT_BUSY = 1 then s.raise slot Cond.TABLE_CMD_BUSY
  else
    let b := if snp then s.get F.SNP_CMD_BEAT_BEAT else s.get F.VAT_CMD_BEAT_BEAT
    match s.applyBeat b with
    | none => s.tblRefuse snp Cond.TABLE_CMD_BEAT_INVALID b
    | some ab =>
      let c := if snp then s.snpRefusal op target args else s.vatRefusal op target args
      if c ≠ 0 then s.tblRefuse snp c ab
      else if snp ∧ op = 1 then
        let vols := args.tail
        let ids := s.freeSnaps vols.length 0
        let base := s.get F.SNP_CMD_ARG_ADDR * 8
        let s := ((vols.zip ids).zipIdx).foldl (fun (s : State) q => s.wrLE (base + 8 * q.2) 8 (q.1.1 + q.1.2 * 2 ^ 32)) s
        s.tblAccept ⟨true, 1, target, (vols.zip ids).map (fun (q : Nat × Nat) => q.1 + q.2 * 65536), ab, true, false⟩
      else s.tblAccept ⟨snp, op, target, args, ab, true, false⟩

/-- The arguments of `VAT_CMD_ARG0` and `VAT_CMD_ARG1`. -/
def State.vatArgs (s : State) : List Nat :=
  [s.get F.VAT_CMD_ARG0_VAT, s.get F.VAT_CMD_ARG0_PROFILE, s.get F.VAT_CMD_ARG0_SEALED, s.get F.VAT_CMD_ARG0_PUBLISHED,
   s.get F.VAT_CMD_ARG0_CD_ALLOW, s.get F.VAT_CMD_ARG0_COMP, s.get F.VAT_CMD_ARG0_KEY_GEN, s.get F.VAT_CMD_ARG1_SIZE_M1]

/-- A write of `VAT_CMD`. -/
def State.vatCmdWrite (s : State) (op target : Nat) : State := s.tblCommand false op target s.vatArgs

/-- A write of `SNP_CMD`: CREATE_GROUP reads its list at `SNP_CMD_ARG` (R241). -/
def State.snpCmdWrite (s : State) (op count vol snap : Nat) : State :=
  let base := s.get F.SNP_CMD_ARG_ADDR * 8
  let args := if op = 1 then count :: (List.range (min count 256)).map (fun i => Mem.rdLE (base + 8 * i) 8 s.mem % 65536)
    else [vol]
  s.tblCommand true op snap args

/-- A master's write of `VAT_CMD`. -/
def vatCmdBus (m op target : Nat) (s : State) : Res :=
  .next (s.busWr m Slot.VAT 0x108 (fun s => s.vatCmdWrite op target))

/-- `CREATE_VAT` (Table 5.4, R222). -/
def execCreateVat (m vat : Nat) (s : State) : Res := vatCmdBus m 1 vat s

/-- `SET_VAT_OPTIONS` (Table 5.4, R221). -/
def execSetVatOptions (m vat : Nat) (s : State) : Res := vatCmdBus m 2 vat s

/-- `REKEY` (Table 5.4, R224). -/
def execRekey (m vat : Nat) (s : State) : Res := vatCmdBus m 3 vat s

/-- `FREEZE` (Table 5.4, R248). -/
def execFreeze (m vat : Nat) (s : State) : Res := vatCmdBus m 4 vat s

/-- `DELETE_VAT` (Table 5.4, R234). -/
def execDeleteVat (m vat : Nat) (s : State) : Res := vatCmdBus m 5 vat s

/-- `CREATE_VOLUME` (Table 5.4, R232). -/
def execCreateVolume (m vol : Nat) (s : State) : Res := vatCmdBus m 6 vol s

/-- `RESIZE_VOLUME` (Table 5.4). -/
def execResizeVolume (m vol : Nat) (s : State) : Res := vatCmdBus m 7 vol s

/-- `SET_PROFILE` (Table 5.4, R42). -/
def execSetProfile (m vol : Nat) (s : State) : Res := vatCmdBus m 8 vol s

/-- `DELETE_VOLUME` (Table 5.4, R233). -/
def execDeleteVolume (m vol : Nat) (s : State) : Res := vatCmdBus m 9 vol s

/-- `REDYE_RESUME` (Table 5.4, R230). -/
def execRedyeResume (m vat : Nat) (s : State) : Res := vatCmdBus m 10 vat s

/-- `SNP_CREATE_GROUP` (Table 5.5, R241). -/
def execSnpCreateGroup (m count : Nat) (s : State) : Res :=
  .next (s.busWr m Slot.SNP 0x100 (fun s => s.snpCmdWrite 1 count 0 0))

/-- `SNP_DELETE` (Table 5.5, R245). -/
def execSnpDelete (m snap : Nat) (s : State) : Res :=
  .next (s.busWr m Slot.SNP 0x100 (fun s => s.snpCmdWrite 2 0 0 snap))

/-- `SNP_CLONE` (Table 5.5, R246). -/
def execSnpClone (m snap vol : Nat) (s : State) : Res :=
  .next (s.busWr m Slot.SNP 0x100 (fun s => s.snpCmdWrite 3 0 vol snap))

/-- `PEER_TABLE_CMD_RX` (R239): the head holds the command for its apply beat and acknowledges it, as long as the acknowledgement can
count; operation 0 withdraws one that the sender will not apply (log entry 167). -/
def execPeerTableCmdRx (snp : Bool) (op target beat : Nat) (args : List Nat) (s : State) : Res :=
  .next (if op = 0 then s.modVat (fun t => { t with cmds := t.cmds.filter (fun c => c.own || c.snp != snp || c.applyBeat != beat) })
    else if beat ≤ s.beat + 16 then s
    else (s.modVat (fun t => { t with cmds := t.cmds ++ [⟨snp, op, target, args, beat, false, true⟩] })).sendPeer 8 0
    [b2n snp, beat])

/-- `PEER_TABLE_ACK_RX` (R239): before the boundary at which beat (apply beat - 16) begins. -/
def execPeerTableAckRx (snp : Bool) (s : State) : Res :=
  .next (s.modVat (fun t => { t with cmds := t.cmds.map (fun c =>
    if c.own && c.snp == snp && decide (s.beat + 16 < c.applyBeat) then { c with acked := true } else c) }))

/-- `TABLE_CMD_ACK_TIMEOUT` (R239): neither head applies a command not acknowledged in time, which is withdrawn at the peer. -/
def execTableCmdAckTimeout (s : State) : Res :=
  .next (match s.vat.cmds.find? (fun c => c.own && !c.acked && !(c.unsalted && s.mode != .paired) && decide (c.applyBeat ≤ s.beat + 16)) with
    | some c =>
      let s := (s.modVat (fun t => { t with cmds := t.cmds.filter (· != c) })).tblResult c.snp 3 Cond.TABLE_CMD_PEER_NO_ACK c.applyBeat
      if s.mode = .paired then s.sendPeer 7 0 [b2n c.snp, 0, c.target, c.applyBeat] else s
    | none => s)

/-! ### Applying a command (R221 to R224, R233, R234, R240 to R248) -/

/-- A vat that is DELETING becomes FREE once no volume or snapshot of it is left (R234). -/
def State.vatFreeCheck (s : State) (v : Nat) : State :=
  match AL.get v s.vat.vats with
  | some x => if x.state = 3 ∧ !s.vat.vols.any (fun q => q.2.vat == v) then s.modVat (fun t => { t with vats := AL.del v t.vats }) else s
  | none => s

/-- Delete a volume at the apply beat (R233): commands not yet admitted end with `VOLUME_ABSENT`; its uncommitted records
retire without being chunked. -/
def State.volumeGone (s : State) (v : Nat) : State :=
  match AL.get v s.vat.vols with
  | none => s
  | some x =>
    let s := s.setVol v { x with state := 2 }
    let tags := (s.adm.reqs.filter (fun q => q.2.vol == v && q.2.ranged && q.2.unadmitted)).map (·.1)
    let s := tags.foldl (fun s t => s.finish t Cond.VOLUME_ABSENT) s
    (s.modWrite (fun w => { w with recs := AL.mapV (fun _ r =>
      if r.vol == v && (r.state == 2 || r.state == 3) then { r with state := 5, chunked := true } else r) w.recs })).recVolumeGone v

/-- Delete a snapshot: its identity stays reclaiming until its pages are released (R245, R262). -/
def State.snapGone (s : State) (n : Nat) : State :=
  match AL.get n s.vat.snaps with
  | none => s
  | some x => (s.modVat (fun t => { t with snaps := AL.put n { x with state := 2 } t.snaps })).bump F.SNP_CNT_DELETE_COUNT

/-- Bands of the shards held under lease, in rising identity: what a sweep passes (R224). -/
def State.sweepBands (s : State) : List Nat :=
  (s.ftl.bands.filter (fun q => s.leaseHeld q.2.shard && decide (1 ≤ q.2.state) && decide (q.2.state ≤ 5) && !q.2.isMeta)).map (·.1)

/-- Start a sweep of a vat's chunks at its old generation (R224, R230). -/
def State.startSweep (s : State) (v : Nat) (x : Vat) : State :=
  let bs := s.sweepBands
  (s.modVat (fun t => { t with sweepLeft := bs, sweepVat := some v, sweepBad := [], ownEnded := false, peerSweep := none })).setAll
    [(F.VAT_REDYE_STAT_ACTIVE, 1), (F.VAT_REDYE_STAT_VAT, v), (F.VAT_REDYE_STAT_FROM_GEN, x.oldGen),
     (F.VAT_REDYE_STAT_TO_GEN, x.keyGen), (F.VAT_REDYE_STAT_FAILED, 0), (F.VAT_REDYE_CURSOR_BAND, bs.headD 0),
     (F.VAT_REDYE_CURSOR_BANDS_LEFT, bs.length)]

/-- The condition that refuses host I/O on a volume, 0 for none. `ldt`: on LBC, with its grant; `write`, `comp` the
operation. -/
def State.ioRefusal (s : State) (vol : Nat) (ldt granted write comp : Bool) : Nat :=
  match s.liveVol vol with
  | none => Cond.VOLUME_ABSENT
  | some x =>
    match s.liveVat x.vat with
    | none => Cond.VOLUME_ABSENT
    | some v =>
      let keyless : Nat := if write && !s.keyHeld (hVat x.vat v.keyGen) then Cond.VAT_KEY_ABSENT else 0
      if ldt then
        if v.isSealed && !granted then Cond.VAT_NOT_GRANTED
        else if comp && !(v.cdAllow && s.get F.RDP_CFG_COMPRESSED_EN == 1) then Cond.COMPRESSED_NOT_ALLOWED
        else if write && v.state == 2 then Cond.VAT_IMMUTABLE
        else keyless
      else if !write && v.isSealed then Cond.VAT_SEALED
      else if write && v.state == 2 then Cond.VAT_IMMUTABLE
      else if v.isSealed then Cond.VAT_SEALED
      else keyless

/-- Writes that ADM has not admitted as their vat's rules change are judged again (R248, Table 5.7). -/
def State.vatJudge (s : State) (v : Nat) : State :=
  let waits := s.adm.reqs.filter (fun q => (q.2.kind == .write || q.2.kind == .zeroes || q.2.kind == .dealloc) && q.2.unadmitted &&
    ((AL.get q.2.vol s.vat.vols).map (fun x => x.vat == v)).getD false)
  waits.foldl (fun (s : State) q =>
    let ldt := match q.2.origin with | .ldt _ _ => true | _ => false
    let c := s.ioRefusal q.2.vol ldt q.2.granted true false
    if c = 0 then s else s.finish q.1 c) s

/-- The sweep of a vat that is deleted ends: its moves that ADM has not admitted go, and the identity's chunks are left to their release
(log entry 152). -/
def State.sweepDrop (s : State) : State :=
  let s := (s.ftl.moves.filter (fun q => q.2.redye && q.2.stage == 3)).foldl (fun (s : State) q => s.moveOver q.1) s
  (s.modVat (fun t => { t with sweepVat := none, sweepLeft := [], peerSweep := none, ownEnded := false })).set F.VAT_REDYE_STAT_ACTIVE 0

/-- The effect of a vat or volume command at its apply beat. -/
def State.applyVat (s : State) (op t : Nat) (args : List Nat) : State :=
  let a (i : Nat) : Nat := args.getD i 0
  let v := t % 4096
  match op with
  | 1 =>
    let salt := if a 3 = 1 then 0 else a 8
    let s := s.setVat v { isSealed := a 2 == 1, published := a 3 == 1, cdAllow := a 4 == 1, comp := a 5, keyGen := a 6, salt := salt }
    if v < 0xF00 then s.keyStore (hSalt v) else s
  | 2 => match AL.get v s.vat.vats with
    | some x => s.setVat v { x with cdAllow := a 4 == 1, comp := a 5 }
    | none => s
  | 3 => match AL.get v s.vat.vats with
    | some x =>
      let y := { x with keyGen := (x.keyGen + 1) % 256, oldLive := true, oldGen := x.keyGen }
      (s.setVat v y).startSweep v y
    | none => s
  | 4 => match AL.get v s.vat.vats with
    | some x => (s.setVat v { x with state := 2 }).vatJudge v
    | none => s
  | 5 => match AL.get v s.vat.vats with
    | some x =>
      let s := s.setVat v { x with state := 3 }
      let vols := (s.vat.vols.filter (fun q => q.2.vat == v && q.2.state == 1)).map (·.1)
      let s := vols.foldl (fun s w => s.volumeGone w) s
      let s := ((s.vat.snaps.filter (fun q => ((AL.get q.2.vol s.vat.vols).map (fun w => w.vat == v)).getD false && q.2.state == 1)).map (·.1)).foldl
        (fun s n => s.snapGone n) s
      let s := ((s.sec.handles.filter (fun q => hKind q.1 == 1 && q.1 / 256 % 4096 == v)).map (·.1)).foldl (fun s h => s.keyRemove h) s
      let s := s.modRead (fun r => { r with rch := r.rch.filter (fun q => q.2.vat != v || decide (0 < q.2.pins)) })
      (if s.vat.sweepVat = some v then s.sweepDrop else s).vatFreeCheck v
    | none => s
  | 6 => s.setVol t { vat := a 0, profile := a 1, sizeM1 := a 7 }
  | 7 => match AL.get t s.vat.vols with
    | some x => s.setVol t { x with sizeM1 := a 7 }
    | none => s
  | 8 => match AL.get t s.vat.vols with
    | some x => s.setVol t { x with profile := a 1 }
    | none => s
  | 9 => s.volumeGone t
  | 10 => match AL.get v s.vat.vats with
    | some x => s.startSweep v x
    | none => s
  | _ => s

/-- The effect of a snapshot command at its apply beat `b` (R242, R245, R246). -/
def State.applySnp (s : State) (op t b : Nat) (args : List Nat) : State :=
  match op with
  | 1 => args.foldl (fun s q =>
      let v := q % 65536
      let new : Snap := { vol := v, beat := b, sizeM1 := ((AL.get v s.vat.vols).map (·.sizeM1)).getD 0 }
      let s := s.modVat (fun x => { x with snaps := AL.put (q / 65536) new x.snaps })
      (match AL.get v s.vat.vols with
        | some x => s.setVol v { x with snapBeats := b :: x.snapBeats }
        | none => s).bump F.SNP_CNT_CREATE_COUNT) s
  | 2 => s.snapGone t
  | 3 =>
    match (AL.get t s.vat.snaps).bind (fun sp => (AL.get sp.vol s.vat.vols).map (fun x => (sp, x))) with
    | some (sp, x) => (s.setVol (args.headD 0) { vat := x.vat, sizeM1 := sp.sizeM1, origin := some t }).bump F.SNP_CNT_CLONE_COUNT
    | none => s
  | _ => s

/-- Admitted writes of a vat that have not committed, this head's and, by their mirrored records, the peer's (R248). -/
def State.vatWritesLeft (s : State) (v : Nat) : Bool :=
  let inVat (vol : Nat) : Bool := ((AL.get vol s.vat.vols).map (fun x => x.vat == v)).getD false
  s.adm.reqs.any (fun q => q.2.ranged && q.2.kind != .read && !q.2.unadmitted && inVat q.2.vol && !q.2.resolved)
    || s.write.recs.any (fun q => inVat q.2.vol && (q.2.state == 1 || q.2.state == 2))

/-- Apply one held command in a mode that applies it, else drop it with RESULT 0 (R240). RESULT 1 of a FREEZE waits for the
last admitted write to commit (R248). -/
def State.applyCmd (s : State) (c : TCmd) : State :=
  let s := s.modVat (fun t => { t with cmds := t.cmds.filter (· != c) })
  if s.serving then
    let s := if c.snp then s.applySnp c.op c.target c.applyBeat c.args else s.applyVat c.op c.target c.args
    if !c.own then s
    else if !c.snp ∧ c.op = 4 ∧ s.vatWritesLeft (c.target % 4096) then
      s.modVat (fun t => { t with freezing := some (c.target % 4096, c.applyBeat) })
    else s.tblResult c.snp 1 0 c.applyBeat
  else if c.own then s.tblResult c.snp 0 0 c.applyBeat else s

/-- The RESULT of a FREEZE once its last write has committed (R248). -/
def State.freezeCheck (s : State) : State :=
  match s.vat.freezing with
  | some (v, b) => if s.vatWritesLeft v then s else (s.modVat (fun t => { t with freezing := none })).tblResult false 1 0 b
  | none => s

/-- A held command is due: acknowledged, and its apply beat has begun. -/
def TCmd.due (c : TCmd) (beat : Nat) : Bool := c.acked && decide (c.applyBeat ≤ beat)

/-- `TABLE_CMD_APPLY` (R240): every command due is applied. -/
def execTableCmdApply (s : State) : Res :=
  .next (((s.vat.cmds.filter (fun c => c.due s.beat)).foldl (fun s c => s.applyCmd c) s).freezeCheck)

/-- `PEER_TABLES_RX` (R240): the peer's tables replace this head's; a vat's salt is wrapped under the pair key (Table 14.4). -/
def execPeerTablesRx (vats : List (Nat × List Nat)) (vols : List (Nat × List Nat)) (snaps : List (Nat × List Nat))
    (s : State) : Res :=
  .next ((s.modVat (fun t => { t with
    vats := vats.foldl (fun m q => AL.put q.1 (let a (i : Nat) : Nat := q.2.getD i 0
      { state := a 0, isSealed := a 1 == 1, published := a 2 == 1, cdAllow := a 3 == 1, comp := a 4, keyGen := a 5,
        oldLive := a 6 == 1, oldGen := a 7, salt := ((s.sec.pairKey).bind (fun k => Config.keyUnwrap k (a 8))).getD 0 : Vat }) m) []
    vols := vols.foldl (fun m q => AL.put q.1 (let a (i : Nat) : Nat := q.2.getD i 0
      { state := a 0, vat := a 1, profile := a 2, sizeM1 := a 3, origin := if a 4 = 0 then none else some (a 4 - 1),
        snapBeats := q.2.drop 5 : Vol }) m) []
    snaps := snaps.foldl (fun m q => AL.put q.1 (let a (i : Nat) : Nat := q.2.getD i 0
      { state := a 0, vol := a 1, beat := a 2, sizeM1 := a 3 : Snap }) m) [] })).saltsStore.set F.PRL_PAIR_STAT_TABLES_SYNCED 1)

/-! ### Background release (R233, R234, R245, R262) -/
/-- Pages of its own in a space. -/
def State.spacePages (s : State) (space : Nat) : List Nat := (s.read.map.filter (fun q => q.1 / 2 ^ 29 == space)).map (·.1)

/-- Release a page: each chunk it names loses a reference, through the update log (R245, R262). -/
def State.releasePage (s : State) (key : Nat) : State :=
  let g := s.pageAt key
  let s := g.ents.foldl (fun s q => if q.2.named then s.land (.delta q.2.chunk (-1)) none else s) s
  let s := match s.metaPage false key with
    | some g => if g.onFlash then (s.bandDead g.band 8).leafDirty (metaLeaf false key) else s
    | none => s
  (s.modRead (fun r => { r with map := AL.del key r.map, mapPages := AL.del key r.mapPages })).bump F.SNP_CNT_RECLAIM_COUNT

/-- A kind 1 record of a volume. -/
def UVal.ofVol (v : UVal) (vol : Nat) : Bool :=
  match v with
  | .map x .. | .page x .. => x == vol
  | _ => false

/-- `VOLUME_REF_RELEASE` (R233): up to `n` pages of a volume being deleted are released; when none is left, nor a landed record that
would make one, its identity is FREE, and with the last one its vat. -/
def execVolumeRefRelease (vol n : Nat) (s : State) : Res :=
  .next (match AL.get vol s.vat.vols with
    | some x =>
      if x.state ≠ 2 ∨ s.vat.snaps.any (fun q => q.2.vol == vol) then s else
        let s := ((s.spacePages vol).take n).foldl (fun s k => s.releasePage k) s
        if s.spacePages vol = [] ∧ !s.write.upd.any (fun q => !q.2.applied && q.2.val.ofVol vol) then (s.modVat (fun t => { t with vols := AL.del vol t.vols })).vatFreeCheck x.vat else s
    | none => s)

/-- A clone resolves a page through a snapshot: its origin is that snapshot, or an older one that passes through it, and it
has no page of its own (R262). -/
def State.cloneNeeds (s : State) (key : Nat) : Bool :=
  let p := key % 2 ^ 29
  s.vat.vols.any (fun q => q.2.origin.isSome && !s.ownPage q.1 p && s.volPage q.1 p == some key)

/-- A page with the leaf entry that names it passes from one space to another (R262). -/
def State.pagePass (s : State) (key dst : Nat) : State :=
  let g := s.metaPage false key
  let s := s.modRead (fun r => { r with
    map := AL.put dst (s.pageAt key) (AL.del key r.map)
    mapPages := match g with
      | some g => AL.put dst g (AL.del key r.mapPages)
      | none => r.mapPages })
  (s.leafDirty (metaLeaf false dst)).leafDirty (metaLeaf false key)

/-- Handle one page entry of a deleted snapshot in the first way of R262 that applies. -/
def State.reclaimPage (s : State) (n key : Nat) : State :=
  match AL.get n s.vat.snaps with
  | none => s
  | some x =>
    let p := key % 2 ^ 29
    let older := ((s.snapsOf x.vol).filter (fun q => decide (q.2.beat < x.beat))).getLast?
    match older with
    | some q =>
      if s.ownPage (snapSpace q.1) p then (if s.cloneNeeds key then s else s.releasePage key)
      else s.pagePass key (mapKey (snapSpace q.1) p)
    | none => if s.cloneNeeds key then s else s.releasePage key

/-- `SNAPSHOT_REF_RELEASE` (R245, R262): up to `n` page entries of a deleted snapshot are handled; when none is left, and no
clone names it as its origin, its identity is free. -/
def execSnapshotRefRelease (snap n : Nat) (s : State) : Res :=
  .next (match AL.get snap s.vat.snaps with
    | some x =>
      if x.state ≠ 2 then s else
        let s := ((s.spacePages (snapSpace snap)).take n).foldl (fun s k => s.reclaimPage snap k) s
        if s.spacePages (snapSpace snap) = [] ∧ !s.vat.vols.any (fun q => q.2.origin == some snap) then
          s.modVat (fun t => { t with snaps := AL.del snap t.snaps })
        else s
    | none => s)

/-! ### Host I/O against vat rules (R249, R250, Table 5.7) -/

end Sys2Proof.Machine
end

