-- ==== Sys2Proof/Machine/Resolve.lean ====
section
/-! DEFINITION. Chapter 3, resolution: tracing each block of a read to its source, the metadata page caches, the slow
path and pins. -/

namespace Sys2Proof.Machine

/-! ### The overlay index (R106, R186, R214) -/

/-- A record covers a block. -/
def JRec.covers (r : JRec) (vol lba : Nat) : Bool :=
  r.vol == vol && (if r.typ = 1 then r.lba == lba
    else r.ranges.any (fun q => decide (q.1 ≤ lba) && decide (lba < q.1 + q.2)) && !r.holes.any (fun q => decide (q.1 ≤ lba) && decide (lba < q.1 + q.2)))

/-- The record to which the overlay points for a block: the one that entered last, as long as it is entered or lost; one that is
superseded, or that has committed and retires, is named no more (R181, R186, R209, R214). A block of a range that a later record has
taken is no longer the range's (R210). -/
def State.overlay (s : State) (vol lba : Nat) : Option (Nat × JRec) :=
  maxBy (fun q => q.2.entryNo) (s.write.recs.filter (fun q =>
    (q.2.state == 2 || q.2.state == 4) && decide (0 < q.2.entryNo) && q.2.covers vol lba))

/-! ### Metadata pages (R107 to R109, R256, R260, R266) -/

/-- How a lookup of a metadata page ends. -/
inductive Look where
  | hit | wait | miss | dir | broken
  deriving DecidableEq, Repr

/-- Pages of the peer's side are not read from flash before a takeover has applied what the peer's records change in them (R304). -/
def State.tkoHolds (s : State) (side : Nat) : Bool :=
  let ph := s.get F.PRL_TKO_STAT_PHASE
  side != s.side && (s.pair.lost || decide (1 ≤ ph) && decide (ph ≤ 4))

/-- Look a page up. A page the directory names no copy of has its content in the cache or none at all (R257); the lookup of one that is
not in the cache needs the leaf that would name it (R256). -/
def State.look (s : State) (ctb : Bool) (key : Nat) : Look :=
  let absent : Look := if s.dirGap (metaLeaf ctb key) then .dir else .hit
  match s.metaPage ctb key with
  | none => absent
  | some g =>
    if g.broken then .broken
    else if g.resident then .hit
    else if g.fetching then .wait
    else if !s.homeOf (metaHome ctb key) && s.peerUp then .miss
    else if !g.onFlash then absent
    else if s.tkoHolds (metaHome ctb key) then .wait
    else if !s.leafHere (metaLeaf ctb key) then .dir
    else .miss

/-- The resolution of page `p` of a request passes a space whose leaf is not in the leaf cache (R256, R257). -/
def State.pathGap (s : State) (r : Req) (p : Nat) : Bool :=
  (s.spaceWalk s.spaceDepth ((r.space.map snapSpace).getD r.vol) p).any (fun sp =>
    !s.ownPage sp p && s.dirGap (metaLeaf false (mapKey sp p)))

/-- Fetches of metadata pages in progress. -/
def State.metaFetching (s : State) (ctb : Bool) : Nat :=
  ((if ctb then s.read.ctbPages else s.read.mapPages).filter (fun q => q.2.fetching && !q.2.queued)).length

/-- The fetch limit of a cache. -/
def State.metaLimit (s : State) (ctb : Bool) : Nat :=
  if ctb then s.get F.CTB_FETCH_LIMIT_LIMIT else s.get F.MAP_FETCH_LIMIT_LIMIT

/-! ### Reads that fail or go to the slow path (R113 to R117) -/

/-- A read fails: the condition is raised on RDP with its capture, and the completion leaves in the next beat. -/
def State.readFail (s : State) (tag cond info : Nat) : State :=
  ((s.raise Slot.RDP cond info).bump F.RDP_CNT_FAILED_COUNT).finish tag cond

/-- A prefetch that meets a slow-path case is dropped with its whole extent, counted once (R162); the requests of an extent share the
name of its replay and place. -/
def State.dropPfx (s : State) (r : Req) : State :=
  (s.adm.reqs.filter (fun q => q.2.kind == .prefetch && q.2.pfxName == r.pfxName)).foldl (fun s q => s.dropReq q.1) (s.bump F.PFX_CNT_FAIL_COUNT)

/-- A read reaches the slow path with a reason and the first block concerned (R113, R117); a prefetch is dropped instead
(R162). -/
def State.goSlow (s : State) (tag reason lba : Nat) : State :=
  match s.req tag with
  | none => s
  | some r =>
    if r.kind = .prefetch then s.dropPfx r
    else if 4096 ≤ s.slowCount then s.readFail tag Cond.READ_INTERNAL_ERROR 0
    else
      let s := s.modReq tag (fun r => { r with stage := .slow reason, slowSince := s.beat })
      (s.modRead (fun x => { x with slowQ := x.slowQ ++ [⟨reason, r.vol, tag, lba⟩] })).slowIrq

/-! ### Resolving a part (R104 to R112) -/

/-- Blocks of a part: 64 blocks are 256 KiB (R45). -/
def Req.partBlocks (r : Req) (p : Nat) : List Nat :=
  let first := 64 * p
  (List.range (min 64 (r.blocks - first))).map (fun i => r.lba + first + i)

/-- Every block of a Write's part has landed. -/
def Req.partLanded (r : Req) (p : Nat) : Bool := (r.partBlocks p).all (fun l => r.content.any (fun q => q.1 == l - r.lba))

/-- The blocks a resolution looks up: those of a part not yet sent, or those of a replication command's list. -/
def Req.readLbas (r : Req) : List Nat :=
  if r.kind = .repChunks then r.ranges.map (·.1) else (r.partBlocks r.part).filter (fun l => !r.sent.contains l)

/-- The page by which a request's block resolves: of its volume, or of the snapshot it reads. -/
def State.reqPage (s : State) (r : Req) (p : Nat) : Option Nat :=
  match r.space with
  | some sn => s.spacePage (snapSpace sn) p
  | none => s.volPage r.vol p

/-- The record that gives a request's block; a snapshot is read from the maps alone. -/
def State.reqOverlay (s : State) (r : Req) (lba : Nat) : Option (Nat × JRec) := if r.space.isSome then none else s.overlay r.vol lba

/-- Map pages a list of blocks needs: those the overlay does not give. -/
def State.neededPages (s : State) (r : Req) (lbas : List Nat) : List (Nat × Nat) :=
  (lbas.filterMap (fun l => if (s.reqOverlay r l).isSome then none else (s.reqPage r (lbaPage l)).map (fun k => (k, l)))).foldl
    (fun acc q => if acc.any (fun x => x.1 == q.1) then acc else acc ++ [q]) []

/-- The source of a block whose map page is held (Table 3.1). -/
def State.sourceOf (s : State) (r : Req) (lba : Nat) : Source :=
  match s.reqOverlay r lba with
  | some (k, j) => if j.state = 4 then .lost else if j.typ ≠ 1 then .zero else if j.own then .journal k else .peerJournal k
  | none =>
    let e : MapEnt := match s.reqPage r (lbaPage lba) with
      | some k => AL.getD (lba % 512) {} (s.pageAt k).ents
      | none => {}
    if e.z || e.u then .zero
    else if e.f then .foreign (foreignKey (((AL.get r.vol s.vat.vols).map (·.vat)).getD 0) e.chunk) else .chunk e.chunk

/-- The index of a request's block in its chunk, as its map entry gives it. -/
def State.indexOf (s : State) (r : Req) (lba : Nat) : Nat :=
  match s.reqPage r (lbaPage lba) with
  | some k => (AL.getD (lba % 512) {} (s.pageAt k).ents).index
  | none => 0

/-- A chunk-table entry is anomalous (R110). -/
def State.anomalous (s : State) (cid : Nat) : Bool :=
  let e := s.ctbEnt cid
  e.count == 0 || e.len == 0 || decide (129 < e.len) || !s.bandLive e.band

/-- The contribution of a page that came from flash: M, or MQ from a QLC brick (R51, R120). -/
def State.pageClass (s : State) (ctb : Bool) (key : Nat) : Nat :=
  match s.metaPage ctb key with
  | none => 0
  | some g =>
    match (s.band g.band).bind (fun b => ((stripRanges g.offset 8).head?).bind (fun q => (b.stripMember q.1).1)) with
    | some m => if s.isQlc m.brick then 2 else 1
    | none => 1

/-- A read that is being resolved waits on a metadata page: a map page of its blocks, or a chunk-table page of chunks that its map pages,
all there, name. -/
def State.waitsPage (s : State) (ctb : Bool) (key : Nat) (r : Req) : Bool :=
  let lbas := r.readLbas
  let pages := s.neededPages r lbas
  r.kind == .read && r.stage == .resolving &&
    (if ctb then pages.all (fun q => s.look false q.1 == .hit) && (srcChunks (lbas.map (fun l => (l, s.sourceOf r l)))).any (fun c => ctbKey c == key)
     else pages.any (fun q => q.1 == key))

/-- Reads that wait on a page as it is read from flash take its contribution (R42, R51, R120). -/
def State.pageRaise (s : State) (ctb : Bool) (key : Nat) : State :=
  let c := s.pageClass ctb key
  (s.adm.reqs.filter (fun q => s.waitsPage ctb key q.2)).foldl (fun (s : State) q => s.modReq q.1 (fun r => r.raiseClass c)) s

/-- Read a metadata page's copy on flash: directly, or by reconstruct from D other strips of the row (R260); the reads that wait on it take
its contribution (R120). -/
def State.metaRead (s : State) (ctb : Bool) (key : Nat) (rebuild : Bool) : State :=
  let s := s.pageRaise ctb key
  match s.metaPage ctb key with
  | none => s
  | some g =>
    match s.band g.band with
    | none => s
    | some b =>
      match (stripRanges g.offset 8).head? with
      | none => s
      | some (k, u, n) =>
        match b.stripMember k with
        | (none, _) => s
        | (some m, r) =>
          let p : Purpose := .page (b2n ctb) key
          if rebuild || s.memberFailed m then
            let ms := (s.otherStrips b m).take b.d
            ms.foldl (fun s x => s.readMember x b.dense r u n true p) (s.modMeta ctb key (fun g => { g with left := ms.length }))
          else (s.modMeta ctb key (fun g => { g with left := 1 })).readMember m b.dense r u n true p

/-- Fetch a page: from the peer when this head is not its home, else from flash, within the fetch limit. -/
def State.metaFetch (s : State) (ctb : Bool) (key : Nat) : State :=
  let q := decide (s.metaLimit ctb ≤ s.metaFetching ctb)
  let s := s.modMeta ctb key (fun g => { g with fetching := true, queued := q, bad := false, again := false, left := 0, fetchBeat := s.beat })
  if q then s
  else if !s.homeOf (metaHome ctb key) && s.peerUp then (s.bump F.FTL_CNT_PEER_PAGE_COUNT).sendPeer 0x14 0 [b2n ctb, key]
  else s.metaRead ctb key false

/-- Look a page up and count it; a miss starts the fetch. -/
def State.metaNeed (s : State) (ctb : Bool) (key : Nat) : State :=
  let s1 := (s.bump (if ctb then F.CTB_CNT_LOOKUP_COUNT else F.MAP_CNT_LOOKUP_COUNT)).leafUse
    (if ((s.metaPage ctb key).map (·.resident)).getD false then 0 else metaLeaf ctb key)
  match s.look ctb key with
  | .hit => (s1.bump (if ctb then F.CTB_CNT_HIT_COUNT else F.MAP_CNT_HIT_COUNT)).modRead (fun r =>
      if ctb then { r with ctbPages := r.ctbPages.map (fun q => if q.1 = key then (q.1, { q.2 with useBeat := s.beat }) else q) }
      else { r with mapPages := r.mapPages.map (fun q => if q.1 = key then (q.1, { q.2 with useBeat := s.beat }) else q) })
  | .miss => (s1.bump (if ctb then F.CTB_CNT_MISS_COUNT else F.MAP_CNT_MISS_COUNT)).metaFetch ctb key
  | .dir => ((s1.bump (if ctb then F.CTB_CNT_MISS_COUNT else F.MAP_CNT_MISS_COUNT)).bump
      (if ctb then F.CTB_CNT_SLOW_COUNT else F.MAP_CNT_SLOW_COUNT)).bump F.FTL_CNT_DIR_MISS_COUNT
  | .wait => if ((s.metaPage ctb key).map (fun g => decide (0 < g.left))).getD false then s1.pageRaise ctb key else s1
  | _ => s1

/-- The blocks whose entry, as it came, fails its map check (R252, R253). -/
def badWords (words : List (Nat × Nat)) : List Nat := (words.filter (fun q => !mapWordOk q.1 q.2)).map (·.1)

/-- The blocks that fail their map check among those of a page (R108). -/
def State.badOn (s : State) (vol : Nat) (bad : List Nat) (key : Nat) : List Nat :=
  bad.filter (fun l => s.volPage vol (lbaPage l) == some key)

/-- A page whose entries fail is discarded and fetched once more (R108). -/
def State.refetch (s : State) (ctb : Bool) (key : Nat) : State :=
  let s := s.modMeta ctb key (fun g => { g with resident := false, refetched := true, dirty := false })
  (s.bump (if ctb then F.CTB_CNT_REFETCH_COUNT else F.MAP_CNT_REFETCH_COUNT)).metaFetch ctb key

/-- A page can be fetched: flash holds a copy, or its home, where that is the peer. -/
def State.metaElsewhere (s : State) (ctb : Bool) (key : Nat) : Bool :=
  ((s.metaPage ctb key).map (·.onFlash)).getD false || (!s.homeOf (metaHome ctb key) && s.peerUp)
/-- Map check failures of a part: none, a page to fetch once more, or the slow path with reason 2 (R108). The mark of a page fetched once
more stands until every read that waited for it has been looked at (`State.metaHere`); a page of which no copy can be fetched has failed
with its first check (log entry 159). -/
def State.badCheck (s : State) (r : Req) (bad : List Nat) (pages : List (Nat × Nat)) : Option (State) :=
  match pages.find? (fun q => s.badOn r.vol bad q.1 != []) with
  | none => none
  | some q =>
    let s := (s.raise Slot.MAP Cond.MAP_CHECK_FAIL ((s.badOn r.vol bad q.1).headD 0)).bump F.MAP_CNT_CHECK_FAIL_COUNT
    if ((s.metaPage false q.1).map (·.refetched)).getD false || !s.metaElsewhere false q.1 then
      some (s.goSlow r.tag 2 ((s.badOn r.vol bad q.1).headD q.2))
    else some (s.refetch false q.1)

/-- A compressed read delivers each chunk once: blocks of a chunk taken for an earlier part need nothing more (R142). -/
def Req.twice (r : Req) (x : Source) : Bool :=
  match x with
  | .chunk _ | .foreign _ => r.compressed && r.resolvedAs.any (fun q => q.2 == x)
  | _ => false

/-- The last step of resolution: chunk-table entries, anomalies, keys; then the sources are taken and pinned, and the part
waits for admission (R109 to R112). -/
def State.resolveChunks (s : State) (r : Req) (srcs : List (Nat × Source)) : State :=
  let cids := srcChunks srcs
  let keys := (cids.map ctbKey).eraseDups
  let s := keys.foldl (fun s k => s.metaNeed true k) s
  let lbaOf (c : Nat) : Nat := ((srcs.find? (fun q => q.2 == .chunk c)).map (·.1)).getD r.lba
  match cids.find? (fun c => s.look true (ctbKey c) == .dir) with
  | some c => s.goSlow r.tag 3 (lbaOf c)
  | none =>
  match cids.find? (fun c => s.look true (ctbKey c) == .broken) with
  | some c => s.goSlow r.tag 4 (lbaOf c)
  | none =>
  if cids.any (fun c => s.look true (ctbKey c) != .hit) then s else
  match cids.find? (fun c => s.anomalous c) with
  | some c => ((s.raise Slot.CTB Cond.CTB_ANOMALY c).bump F.CTB_CNT_ANOMALY_COUNT).goSlow r.tag 4 (lbaOf c)
  | none =>
  let vat := ((AL.get r.vol s.vat.vols).map (·.vat)).getD 0
  match cids.find? (fun c => !s.keyHeld (hVat vat (s.ctbEnt c).keyGen)) with
  | some c => (s.bump F.CTB_CNT_KEY_SLOW_COUNT).goSlow r.tag 5 (lbaOf c)
  | none =>
  if r.kind ≠ .prefetch ∧ srcs.any (fun q => q.2 == .lost) then s.readFail r.tag Cond.MEDIA_INTEGRITY 0 else
  let all := srcs.map (fun q => (q.1, q.2))
  let srcs := srcs.filter (fun q => !r.twice q.2)
  let x := !(srcForeign srcs).isEmpty
  let new := srcs.filter (fun q => !r.sources.any (fun y => y.2 == q.2))
  let s := s.modReq r.tag (fun r => { (if x then r.raiseClass 3 else r) with
    sources := r.sources ++ srcs, idxs := r.idxs ++ all.map (fun q => (q.1, s.indexOf r q.1)), stage := .waiting
    resolvedAs := r.resolvedAs ++ all
    ents := (srcChunks new).foldl (fun m c => AL.put c (s.ctbEnt c) m) r.ents
    jnlHit := r.jnlHit || !(srcRecs srcs).isEmpty })
  match s.req r.tag with
  | some r => s.pinNote 0xC r new
  | none => s

/-- Resolve the next part of a read; `bad` are blocks whose map entry fails its check. -/
def State.resolve (s : State) (tag : Nat) (bad : List Nat) : State :=
  match s.req tag with
  | none => s
  | some r =>
    if s.isHeld r && r.part == 0 then s.modReq tag (fun r => { r with stage := .held }) else
    let s := s.modReq tag (fun r => { r with stage := .resolving })
    let lbas := r.readLbas
    let pages := s.neededPages r lbas
    let s := pages.foldl (fun s q => s.metaNeed false q.1) s
    match pages.find? (fun q => s.look false q.1 == .dir) with
    | some q => s.goSlow tag 1 q.2
    | none =>
    match lbas.find? (fun l => (s.reqOverlay r l).isNone && s.pathGap r (lbaPage l)) with
    | some l => ((s.bump F.MAP_CNT_SLOW_COUNT).bump F.FTL_CNT_DIR_MISS_COUNT).goSlow tag 1 l
    | none =>
    match pages.find? (fun q => s.look false q.1 == .broken) with
    | some q => s.goSlow tag 2 q.2
    | none =>
    if pages.any (fun q => s.look false q.1 != .hit) then s else
    match s.badCheck r (bad.filter lbas.contains) pages with
    | some t => t
    | none => s.resolveChunks r (lbas.map (fun l => (l, s.sourceOf r l)))

/-- Commands held under R145 or R148 go on when what held them has reached its resolve point (R146). -/
def State.wakeHeld (s : State) : State :=
  (s.adm.reqs.filter (fun q => q.2.stage == .held)).foldl (fun s q =>
    if s.isHeld q.2 then s
    else if q.2.readLike then s.resolve q.1 [] else s.modReq q.1 (fun r => { r with stage := .resolving })) s

/-- `READ_COMMAND` (R104 to R112, R145): a read that is complete and not yet resolved. An entry that came with a good check of another
value than was written is taken as written (log entry 129). -/
def execReadCommand (tag : Nat) (words : List (Nat × Nat)) (s : State) : Res :=
  .next (match s.req tag with
    | some r => if r.readLike ∧ (r.stage = .resolving ∨ r.stage = .held) then (s.resolve tag (badWords words)).wakeHeld else s
    | none => s)

/-! ### Pages that arrive -/

/-- The size of a cache in pages of 4 KiB. -/
def State.metaCap (s : State) (ctb : Bool) : Nat := (if ctb then s.get F.CTB_SIZE_GIB else s.get F.MAP_SIZE_GIB) * 262144

/-- A full cache lets the least recently used clean, unpinned page go (log entry 22). -/
def State.metaEvict (s : State) (ctb : Bool) : State :=
  let ps := (if ctb then s.read.ctbPages else s.read.mapPages).filter (fun q => q.2.resident)
  if ps.length ≤ s.metaCap ctb then s else
    match minBy (fun q => q.2.useBeat) (ps.filter (fun q => !q.2.dirty && q.2.pins == 0 && q.2.onFlash)) with
    | some q => (s.modMeta ctb q.1 (fun g => { g with resident := false, refetched := false })).bump
        (if ctb then F.CTB_CNT_EVICT_COUNT else F.MAP_CNT_EVICT_COUNT)
    | none => s

/-- Start the longest-waiting fetch held back by the limit. -/
def State.metaNext (s : State) (ctb : Bool) : State :=
  match (if ctb then s.read.ctbPages else s.read.mapPages).find? (fun q => q.2.fetching && q.2.queued) with
  | some q => s.metaFetch ctb q.1
  | none => s

/-- Resolution goes on for every read that waits on pages. -/
def State.resolveWaiting (s : State) (bad : List Nat) : State :=
  (s.adm.reqs.filter (fun q => (q.2.kind == .read || q.2.kind == .prefetch || q.2.kind == .fetch || q.2.kind == .repChunks) && q.2.stage == .resolving)).foldl
    (fun s q => s.resolve q.1 bad) s

/-- A page has come: it is resident, and the fetch's time is kept (`MAP_FETCH_STAT.MAX`). -/
def State.metaHere (s : State) (ctb : Bool) (key : Nat) (bad : List Nat) : State :=
  let age := s.beat - ((s.metaPage ctb key).map (·.fetchBeat)).getD 0
  let f := if ctb then F.CTB_FETCH_STAT_MAX else F.MAP_FETCH_STAT_MAX
  let s := s.set f (min 65535 (max (s.get f) age))
  let s := s.modMeta ctb key (fun g => { g with resident := true, fetching := false, queued := false, useBeat := s.beat })
  let s := ((s.metaEvict ctb).metaNext ctb).resolveWaiting bad
  s.modMeta ctb key (fun g => { g with refetched := g.refetched && g.fetching })

/-- A page read from flash is complete: good, or read once more by reconstruct, or broken (R260). -/
def State.metaDone (s : State) (ctb : Bool) (key : Nat) (ok : Bool) (bad : List Nat) : State :=
  match s.metaPage ctb key with
  | none => s
  | some g =>
    if !g.fetching || g.queued || g.left != 0 then s
    else if ok && !g.bad then s.metaHere ctb key bad
    else if g.again then
      ((s.modMeta ctb key (fun g => { g with fetching := false, broken := true })).metaNext ctb).resolveWaiting []
    else ((s.raise Slot.FTL Cond.META_CHECK_FAIL key).modMeta ctb key (fun g => { g with bad := false, again := true })).metaRead ctb key true

/-- `MAP_PAGE_FETCH_DONE` (R107, R108, R260). -/
def execMapPageFetchDone (page : Nat) (ok : Bool) (words : List (Nat × Nat)) (s : State) : Res :=
  .next (s.metaDone false page ok (badWords words))

/-- `CTB_PAGE_FETCH_DONE` (R109, R260). -/
def execCtbPageFetchDone (page : Nat) (ok : Bool) (s : State) : Res := .next (s.metaDone true page ok [])

/-- `PEER_PAGE_REQ_RX` (R266): the page is answered when this head holds it; else the answer says it does not (log entry
23). -/
def execPeerPageReqRx (ctb : Bool) (key : Nat) (s : State) : Res :=
  .next (match s.metaPage ctb key with
    | some g =>
      if g.resident then s.sendPeer 0x15 3 [b2n ctb, key, 1, g.top, s.metaBytes (if ctb then 2 else 1) key]
      else s.sendPeer 0x15 3 [b2n ctb, key, 0, 0]
    | none => s.sendPeer 0x15 3 [b2n ctb, key, 0, 0])

/-- A chunk-table entry that arrives, as a record applied here since its page's stamp leaves it. -/
def ctbAgain (cid : Nat) (e : Option CtbEnt) (v : UVal) : Option CtbEnt :=
  match v with
  | .ctb c x =>
    if c ≠ cid then e else if x.count ≠ 0 then some x else
      e.map (fun o => { o with band := x.band, offset := x.offset, len := x.len, raw := x.raw, dynamic := x.dynamic, keyGen := x.keyGen })
  | .delta c d => if c ≠ cid then e else e.map (fun o => if o.count = refMax then o else { o with count := min refMax ((o.count : Int) + d).toNat })
  | .release c .. => if c ≠ cid then e else e.filter (fun o => o.count != 0)
  | _ => e

/-- Records applied here since a page's stamp. -/
def State.appliedAfter (s : State) (stamp : Nat) : List UVal := (s.write.upd.filter (fun q => q.2.applied && decide (stamp < q.1))).map (·.2.val)

/-- A map page that arrives: the records applied since its stamp are applied to it, in order (R266). -/
def State.mapCame (s : State) (key stamp : Nat) (maps : List (Nat × MapEnt)) : State :=
  let g0 : MapPage := { s.pageAt key with ents := maps.foldl (fun m q => AL.put q.1 q.2 m) [] }
  let g := (s.appliedAfter stamp).foldl (fun (g : MapPage) v => match v with
    | .map v lba e _ => if mapKey v (lbaPage lba) = key then g.put (lba % 512) e else g
    | .page v lba z _ => if mapKey v (lbaPage lba) = key then (List.range 512).foldl (fun g i => g.put i { z := z, u := !z }) g else g
    | _ => g) g0
  s.modRead (fun r => { r with map := AL.put key g r.map })

/-- A chunk-table page that arrives: entries that this head has kept up to date stand; the records applied since its stamp are applied to
the others, in order (R266). -/
def State.ctbCame (s : State) (stamp : Nat) (chunks : List (Nat × CtbEnt)) : State :=
  let vs := s.appliedAfter stamp
  let add (m : List (Nat × CtbEnt)) (q : Nat × CtbEnt) : List (Nat × CtbEnt) :=
    if AL.has q.1 m then m else match vs.foldl (ctbAgain q.1) (some q.2) with
      | some e => AL.put q.1 e m
      | none => m
  s.modRead (fun r => { r with ctb := chunks.foldl add r.ctb })

/-- `PEER_PAGE_DATA_RX` (R266): the page the peer holds becomes resident; where it does not hold it, the copy on flash is
read. -/
def execPeerPageDataRx (ctb : Bool) (key : Nat) (held : Bool) (stamp : Nat) (maps : List (Nat × MapEnt)) (chunks : List (Nat × CtbEnt))
    (s : State) : Res :=
  .next (match s.metaPage ctb key with
    | some g =>
      if !g.fetching then s
      else if !held then
        (if s.leafHere (metaLeaf ctb key) then s.metaRead ctb key false
         else (s.modMeta ctb key (fun g => { g with fetching := false, resident := g.resident || !g.onFlash })).resolveWaiting [])
      else
        let s := s.modMeta ctb key (fun g => { g with stamp := stamp, top := max g.top stamp })
        (if ctb then s.ctbCame stamp chunks else s.mapCame key stamp maps).metaHere ctb key []
    | none => s)

/-! ### Answers from array software (R113 to R116) -/

/-- `RDP_SLOW_Q_READ` (R113). -/
def execRdpSlowQRead (m : Nat) (s : State) : Res :=
  .next (s.busRd m Slot.RDP 0x120 (fun s =>
    match s.read.slowQ with
    | [] => s.answer 0
    | q :: t => (((s.answer (2 ^ 63 + q.reason * 2 ^ 56 + q.vol * 2 ^ 40 + q.tag)).modRead (fun r => { r with slowQ := t })).set
        F.RDP_SLOW_INFO_LBA q.lba).slowIrq))

/-- A write of `RDP_RESUME` that the bus lets through (R114, R115). The read's record leaves `RDP_SLOW_Q` with it where software has not
read it yet (log entry 127). -/
def State.rdpResume (s : State) (action tag : Nat) : State :=
  let waiting := ((s.req tag).map (fun r => match r.stage with | .slow _ => true | _ => false)).getD false
  if !waiting || decide (3 < action) then s.raise Slot.RDP Cond.RDP_RESUME_MISMATCH tag
  else
    let s := (s.modRead (fun r => { r with slowQ := r.slowQ.filter (fun q => q.tag != tag) })).slowIrq
    match action with
    | 0 => (s.modReq tag (fun r => { r with stage := .resolving })).resolve tag []
    | 1 => (s.readFail tag Cond.MEDIA_INTEGRITY 0).wakeHeld
    | 2 => (s.readFail tag Cond.VAT_KEY_ABSENT 0).wakeHeld
    | _ => (s.readFail tag Cond.READ_INTERNAL_ERROR 0).wakeHeld

/-- A master's write of `RDP_RESUME`. -/
def resumeBus (m action tag : Nat) (s : State) : Res := .next (s.busWr m Slot.RDP 0x130 (fun s => s.rdpResume action tag))

/-- `RDP_RESUME_RETRY` (R114). -/
def execRdpResumeRetry (m tag : Nat) (s : State) : Res := resumeBus m 0 tag s

/-- `RDP_RESUME_FAIL_MEDIA` (R114). -/
def execRdpResumeFailMedia (m tag : Nat) (s : State) : Res := resumeBus m 1 tag s

/-- `RDP_RESUME_FAIL_KEY` (R114). -/
def execRdpResumeFailKey (m tag : Nat) (s : State) : Res := resumeBus m 2 tag s

/-- `RDP_RESUME_FAIL_INTERNAL` (R114). -/
def execRdpResumeFailInternal (m tag : Nat) (s : State) : Res := resumeBus m 3 tag s

/-- `READ_SLOW_TIMEOUT` (R116): no limit applies while `BEATS` is 0. -/
def execReadSlowTimeout (tag : Nat) (s : State) : Res :=
  .next (match s.req tag with
    | some r => match r.stage with
      | .slow _ =>
        let lim := s.get F.RDP_SLOW_TMO_BEATS
        if 0 < lim ∧ r.slowSince + lim < s.beat then
          ((s.modRead (fun x => { x with slowQ := x.slowQ.filter (fun q => q.tag != tag) })).slowIrq.readFail tag
            Cond.READ_SLOW_TIMEOUT 0).wakeHeld
        else s
      | _ => s
    | none => s)

/-! ### Invalidation of the map cache (R166) -/

/-- A page that the cache can do without: flash or its home holds it, or it holds nothing (R166). -/
def State.mapElsewhere (s : State) (q : Nat × MetaPage) : Bool := q.2.onFlash || !s.homeOf (mapHome q.1) || (s.pageAt q.1).ents.isEmpty

/-- A page that an invalidation names: of a volume, or of all. -/
def mapNamed (v : Option Nat) (q : Nat × MetaPage) : Bool :=
  q.2.resident && (match v with | none => true | some x => q.1 / 2 ^ 29 == x)

/-- Invalidate what can be: clean, unpinned pages of a volume, or of all; one that the cache alone holds is dirty, to be written back
first (log entry 163). -/
def State.mapPass (s : State) (v : Option Nat) : State :=
  let clean (q : Nat × MetaPage) : Bool := mapNamed v q && !q.2.dirty && q.2.pins == 0
  let n := (s.read.mapPages.filter (fun q => clean q && s.mapElsewhere q)).length
  (s.modRead (fun r => { r with mapPages := r.mapPages.map (fun q =>
    if !clean q then q else if s.mapElsewhere q then (q.1, { q.2 with resident := false }) else (q.1, { q.2 with dirty := true })) })).bump
    F.MAP_CNT_INVAL_COUNT n

/-- A write of `MAP_INVAL` that the bus lets through. -/
def State.mapInvalWrite (s : State) (vol : Nat) (all : Bool) : State :=
  if s.read.mapInval.isSome then s.raise Slot.MAP Cond.MAP_INVAL_BUSY
  else
    let v := if all then none else some vol
    ((s.modRead (fun r => { r with mapInval := some v })).set F.MAP_INVAL_STAT_BUSY 1).mapPass v

/-- `MAP_INVAL` (R166). -/
def execMapInval (m vol : Nat) (all : Bool) (s : State) : Res :=
  .next (s.busWr m Slot.MAP 0x130 (fun s => s.mapInvalWrite vol all))

/-- `MAP_INVAL_DONE` (R166): the invalidation ends once no page it names is resident still, dirty ones written back and
pinned ones unpinned. -/
def execMapInvalDone (s : State) : Res :=
  .next (match s.read.mapInval with
    | none => s
    | some v =>
      let s := s.mapPass v
      if s.read.mapPages.any (mapNamed v) then s
      else ((s.modRead (fun r => { r with mapInval := none })).set F.MAP_INVAL_STAT_BUSY 0).irq Slot.MAP 1)

end Sys2Proof.Machine
end

