-- ==== Sys2Proof/Machine/Fetch.lean ====
section
/-! DEFINITION. Chapter 3, fetching: the read cache, direct reads and reconstructs, hedges, and what the slice makes of a
copy. -/

namespace Sys2Proof.Machine

/-- The chunk-table entry by which a request has a chunk: the one its resolution found, whose band it pins (R109, R112). -/
def State.entOf (s : State) (tag cid : Nat) : CtbEnt := ((s.req tag).bind (fun r => AL.get cid r.ents)).getD (s.ctbEnt cid)

/-! ### The read cache (R121, R129, R130, R162, R163, R167) -/

/-- Units of the read cache in use. -/
def State.rchUnits (s : State) : Nat := (s.read.rch.map (fun q => q.2.units)).sum

/-- Units of chunks that still carry the prefetch mark. -/
def State.rchPfx (s : State) : Nat := ((s.read.rch.filter (fun q => q.2.pfx)).map (fun q => q.2.units)).sum

/-- The size of the read cache in 512-byte units. -/
def State.rchCap (s : State) : Nat := s.get F.RCH_SIZE_GIB * 2097152

/-- An entry is pinned: a read that hit it has not had it through the slice. -/
def State.rchPinned (s : State) (cid : Nat) : Bool :=
  s.read.fetches.any (fun q => q.2.cid == cid && q.2.mode == .cache)

/-- One step of the clock: clear a set bit, or evict an entry with its bit clear and no pin; the hand passes on, from chunk identity to
chunk identity (R130; log entry 130). -/
def State.rchSweep : Nat → State → State
  | 0, s => s
  | n + 1, s =>
    match (s.read.rch.find? (fun q => decide (s.read.rchHand ≤ q.1))) <|> s.read.rch.head? with
    | none => s
    | some (c, e) =>
      let s := s.modRead (fun r => { r with rchHand := c + 1 })
      if e.refBit then (s.modRead (fun r => { r with rch := AL.put c { e with refBit := false } r.rch })).rchSweep n
      else if s.rchPinned c then s.rchSweep n
      else
        let s := (s.modRead (fun r => { r with rch := AL.del c r.rch })).bump F.RCH_CNT_EVICT_COUNT
        if e.pfx then s.bump F.RCH_CNT_PFX_EVICT_COUNT else s

/-- Evict until a chunk fits. -/
def State.rchRoom : Nat → Nat → State → State
  | 0, _, s => s
  | n + 1, u, s => if s.rchUnits + u ≤ s.rchCap then s else State.rchRoom n u (s.rchSweep (2 * s.read.rch.length + 1))

/-- Insert a chunk in its at-rest form, its reference bit clear (log entry 130). -/
def State.rchInsert (s : State) (cid units vat : Nat) (pfx : Bool) : State :=
  if AL.has cid s.read.rch || !(s.unit (unitKey Blk.RCH 0)).enable then s else
    let s := s.rchRoom (s.read.rch.length + 1) units
    if s.rchUnits + units ≤ s.rchCap then
      (s.modRead (fun r => { r with rch := AL.put cid { units := units, vat := vat, pfx := pfx } r.rch })).bump F.RCH_CNT_INSERT_COUNT
    else s

/-- A hit: the reference bit sets; the first hit on a prefetched entry clears its mark. -/
def State.rchHit (s : State) (cid : Nat) (e : RchEnt) : State :=
  let s := (s.modRead (fun r => { r with rch := AL.put cid { e with refBit := true, pfx := false } r.rch })).bump F.RCH_CNT_HIT_COUNT
  if e.pfx then (s.bump F.RCH_CNT_PFX_HIT_COUNT).bump F.PFX_CNT_USED_COUNT else s

/-- Invalidate the unpinned entries of a vat, or all. -/
def State.rchPass (s : State) (v : Option Nat) : State :=
  let hit (q : Nat × RchEnt) : Bool := !s.rchPinned q.1 && (match v with | none => true | some x => q.2.vat == x)
  let n := (s.read.rch.filter hit).length
  (s.modRead (fun r => { r with rch := r.rch.filter (fun q => !hit q) })).bump F.RCH_CNT_INVAL_COUNT n

/-- A write of `RCH_INVAL` that the bus lets through. -/
def State.rchInvalWrite (s : State) (vat : Nat) (all : Bool) : State :=
  if s.read.rchInval.isSome then s.raise Slot.RCH Cond.RCH_INVAL_BUSY
  else
    let v := if all then none else some vat
    ((s.modRead (fun r => { r with rchInval := some v })).set F.RCH_INVAL_STAT_BUSY 1).rchPass v

/-- `RCH_INVAL` (R167). -/
def execRchInval (m vat : Nat) (all : Bool) (s : State) : Res :=
  .next (s.busWr m Slot.RCH 0x128 (fun s => s.rchInvalWrite vat all))

/-- `RCH_INVAL_DONE` (R167). -/
def execRchInvalDone (s : State) : Res :=
  .next (match s.read.rchInval with
    | none => s
    | some v =>
      let s := s.rchPass v
      if s.read.rch.any (fun q => match v with | none => true | some x => q.2.vat == x) then s
      else ((s.modRead (fun r => { r with rchInval := none })).set F.RCH_INVAL_STAT_BUSY 0).irq Slot.RCH 1)

/-! ### Pool 6 (R40, R46, R118, R121, R126) -/

/-- Pool 6 units of a chunk of `n` 512-byte units. -/
def replyUnits (n : Nat) : Nat := ceilDiv n 8

/-- Return part of what a request holds in a pool. -/
def State.givePart (s : State) (tag n k : Nat) : State :=
  match s.req tag with
  | some r =>
    let have0 := AL.getD n 0 r.held
    (s.poolGive n (min k have0)).modReq tag (fun r => { r with held := AL.put n (have0 - min k have0) r.held })
  | none => s

/-- Draw units of a pool for a request again: a chunk whose cached copy failed is fetched, and its reply units had returned with the
hit (R121, R133; log entry 130). -/
def State.takePart (s : State) (tag n k : Nat) : State :=
  match s.req tag with
  | some r => (s.poolTake n k).modReq tag (fun x => { x with held := AL.put n (AL.getD n 0 r.held + k) x.held })
  | none => s

/-- Reconstructs running. -/
def State.reconActive (s : State) : Nat :=
  (s.read.fetches.filter (fun q => (q.2.mode == .recon || q.2.mode == .hedge) && !q.2.queued && !q.2.done)).length

/-! ### Direct read or reconstruct (Table 3.3, R125 to R128) -/

/-- A strip is failed for a chunk of a read (R125). -/
def State.stripFailed (s : State) (r : Req) (cid : Nat) (m : Member) : Bool :=
  s.memberFailed m || r.failedAt.contains (cid, m.word)

/-- Other members of the row not failed for the chunk. -/
def State.survivors (s : State) (r : Req) (cid : Nat) (b : Band) (m : Member) : List Member :=
  (s.otherStrips b m).filter (fun x => !s.stripFailed r cid x)

/-- E_d of a member for `units` of a strip (R336). -/
def State.memberBy (s : State) (m : Member) (dense : Bool) (units : Nat) (urgent : Bool) : Nat :=
  s.readBy m.brick m.die (s.memberOp m 1 1 dense .sys).op units (urgent && s.get (F.MDL_LINK_CFG_URGENT_EN m.brick) == 1)

/-- The D survivors of a row with the earliest estimates (R126), the lower member first among equals. -/
def State.chosen (s : State) (r : Req) (cid : Nat) (b : Band) (m : Member) (units : Nat) : List Member :=
  (sortBy (fun x => s.memberBy x b.dense units true) (s.survivors r cid b m)).take b.d

/-- E_r: the beat by which the range would be in from the D chosen strips, and one beat for the erasure unit. -/
def State.reconBy (s : State) (r : Req) (cid : Nat) (b : Band) (m : Member) (units : Nat) : Nat :=
  ((s.chosen r cid b m units).map (fun x => s.memberBy x b.dense units true)).foldl max 0 + 1

/-- The column of a row that a member holds (R273). -/
def Band.columnOf (b : Band) (m : Member) (row : Nat) : Nat :=
  ((List.range (b.d + b.p)).find? (fun c => b.members[b.memberIdx c row]? == some m)).getD 0

/-- The reserve and `MAX_ACTIVE` allow a reconstruct of `n` units now (R126). -/
def State.reconAllowed (s : State) (d n : Nat) : Bool :=
  decide (s.adm.reserveUsed + d * replyUnits n ≤ 4096) && decide (s.reconActive < s.get F.RDP_RECON_CFG_MAX_ACTIVE)

/-- The limit of a strip on a brick: arrival plus the M or MQ budget minus `TAIL`. -/
def State.stripLimit (s : State) (r : Req) (m : Member) : Nat :=
  r.countBeat + r.budgets.getD (if s.isQlc m.brick then 2 else 1) 0 - s.get F.RDP_RECON_CFG_TAIL

/-- Add a fetch. -/
def State.addFetch (s : State) (f : Fetch) : Nat × State :=
  (s.read.nextFetch, s.modRead (fun r => { r with fetches := r.fetches ++ [(r.nextFetch, f)], nextFetch := r.nextFetch + 1 }))

/-- Change a fetch. -/
def State.modFetch (s : State) (id : Nat) (f : Fetch → Fetch) : State :=
  s.modRead (fun r => { r with fetches := r.fetches.map (fun q => if q.1 = id then (q.1, f q.2) else q) })

/-- Read the D chosen strips of a reconstruct, those with the earliest estimates (R126). -/
def State.reconGo (s : State) (r : Req) (id : Nat) (f : Fetch) : State :=
  match s.band (s.entOf f.tag f.cid).band with
  | none => s
  | some b =>
    match (b.stripMember f.strip).1 with
    | none => s
    | some m =>
      let ms := s.chosen r f.cid b m f.units
      let k := b.d * replyUnits f.units
      let s := (s.reserveTake k).modFetch id (fun f => { f with
        queued := false, left := ms.length, reserve := k, cols := ms.map (fun x => b.columnOf x f.row) })
      ms.foldl (fun s x => s.readMember x b.dense f.row f.unit f.units true (.fetch id)) s

/-- Begin a reconstruct of a strip range, or queue it. A hedge raises the class only when its copy is the one used (R120). -/
def State.startRecon (s : State) (r : Req) (cid k row u n : Nat) (mode : FetchMode) (now : Bool) : State :=
  let f : Fetch := { tag := r.tag, cid := cid, strip := k, mode := mode, queued := !now, unit := u, units := n, row := row }
  match s.addFetch f with
  | (id, s) =>
    let s := if mode == .recon then s.modReq r.tag (fun r => r.raiseClass 3) else s
    if now then s.reconGo r id f else s

/-- A prefetch is done with a chunk: its pin is released (R112). -/
def State.dropChunk (s : State) (tag cid : Nat) : State :=
  match s.req tag with
  | some r => (s.unpin r (r.sources.filter (fun q => q.2 == .chunk cid))).modReq tag (fun r => { r with
      sources := r.sources.filter (fun q => q.2 != .chunk cid) })
  | none => s

/-- A prefetch gives up a chunk that it would have to rebuild or whose read failed: its units return and the others go on (R162). -/
def State.pfxChunkDrop (s : State) (tag cid : Nat) : State :=
  let had := s.read.fetches.any (fun q => q.2.tag == tag && q.2.cid == cid)
  let s := (s.bump F.PFX_CNT_FAIL_COUNT).givePart tag 6 (replyUnits (s.entOf tag cid).len)
  let s := if had then s.modRead (fun r => { r with fetches := r.fetches.filter (fun q => !(q.2.tag == tag && q.2.cid == cid)) }) else s
  let s := s.dropChunk tag cid
  if ((s.req tag).map (fun r => (srcChunks r.sources).isEmpty)).getD false then s.dropReq tag else s

/-- Decide one strip range by Table 3.3, with E_d and E_r as the head's model of the dies gives them (R125, R336). -/
def State.startStrip (s : State) (tag cid k u n : Nat) : State :=
  match s.req tag, s.band (s.entOf tag cid).band with
  | some r, some b =>
    match b.stripMember k with
    | (none, _) => s.readFail tag Cond.MEDIA_INTEGRITY 0
    | (some m, row) =>
      let enough := decide (b.d ≤ (s.survivors r cid b m).length)
      let allowed := s.reconAllowed b.d n
      if s.stripFailed r cid m then
        if r.kind = .prefetch then s.pfxChunkDrop tag cid
        else if !enough then (s.readFail tag Cond.MEDIA_INTEGRITY 0).wakeHeld
        else s.startRecon r cid k row u n .recon allowed
      else
        let urgent := r.kind != .prefetch && r.origin != .selftest
        let ed := s.memberBy m b.dense n urgent
        if r.kind ≠ .prefetch ∧ s.stripLimit r m < ed ∧ s.reconBy r cid b m n < ed ∧ s.get F.RDP_CFG_RECON_EARLY_EN = 1 ∧ enough ∧ allowed then
          s.startRecon r cid k row u n .recon true
        else
          let f : Fetch := { tag := tag, cid := cid, strip := k, mode := .direct, unit := u, units := n, row := row, limit := s.stripLimit r m }
          match s.addFetch f with
          | (id, s) =>
            (s.modReq tag (fun r => if r.kind = .prefetch then r else r.raiseClass (if s.isQlc m.brick then 2 else 1))).readMember m b.dense row u n
              urgent (.fetch id)
  | _, _ => s

/-- Start the strips of a chunk; a read that has ended, or a chunk that a prefetch gave up, starts no more of them. -/
def State.startStrips (s : State) (tag cid : Nat) (l : List (Nat × Nat × Nat)) : State :=
  l.foldl (fun s q =>
    if ((s.req tag).map (fun r => r.stage != .completing && r.sources.any (fun x => x.2 == .chunk cid))).getD false then s.startStrip tag cid q.1 q.2.1 q.2.2
    else s) s

/-- Fetch a chunk after admission: from the read cache, or strip by strip (R121 to R123). -/
def State.startChunk (s : State) (tag cid : Nat) (useCache : Bool) : State :=
  let e := s.entOf tag cid
  let s := if useCache then s.bump F.RCH_CNT_LOOKUP_COUNT else s
  match (if useCache then AL.get cid s.read.rch else none) with
  | some c =>
    let s := (s.rchHit cid c).givePart tag 6 (replyUnits e.len)
    ((s.addFetch { tag := tag, cid := cid, strip := 0, mode := .cache, left := 0, done := true }).2).modReq tag (fun r => { r with rchHit := true })
  | none =>
    let s := if useCache then s.bump F.RCH_CNT_MISS_COUNT else s
    s.startStrips tag cid (stripRanges e.offset e.len)

/-- A block belongs to a part of a read (R45). -/
def Req.inPart (r : Req) (p lba : Nat) : Bool := r.kind != .read || (decide (r.lba + 64 * p ≤ lba) && decide (lba < r.lba + 64 * (p + 1)))

/-- A chunk is on its way to the slice already, or in it, for an earlier part of its read. -/
def State.underway (s : State) (r : Req) (p cid : Nat) (src : Source) : Bool :=
  s.read.fetches.any (fun q => q.2.tag == r.tag && q.2.cid == cid && !(q.2.failed && !q.2.done))
    || (r.verified.contains cid && r.sources.any (fun q => q.2 == src && !r.inPart p q.1))

/-- Chunks of a part that its read does not fetch yet. -/
def State.newChunks (s : State) (r : Req) (p : Nat) : List Nat :=
  (srcChunks (r.sources.filter (fun q => r.inPart p q.1))).filter (fun c => !s.underway r p c (.chunk c))

/-- Foreign chunks of a part that its read does not fetch yet. -/
def State.newForeign (s : State) (r : Req) (p : Nat) : List Nat :=
  (srcForeign (r.sources.filter (fun q => r.inPart p q.1))).filter (fun c => !s.underway r p c (.foreign c))

/-- Start the fetches of an admitted part: its chunks; foreign chunks wait for FAB, journal records go to the slice, and
zero blocks need nothing. -/
def State.startPart (s : State) (tag : Nat) : State :=
  match s.req tag with
  | none => s
  | some r =>
    let chunks := s.newChunks r (r.part - 1)
    let far := s.newForeign r (r.part - 1)
    let zs := r.sources.filter (fun q => q.2 == .zero)
    let s := s.modReq tag (fun r => { r with
      stage := if r.kind = .read ∧ r.part < r.parts then .resolving else .fetching
      sources := r.sources.filter (fun q => q.2 != .zero)
      ready := r.ready ++ zs.map (fun q => (q.1, 0)), zeroAt := r.zeroAt ++ zs.map (·.1) })
    let s := (s.bump F.RDP_CNT_ZERO_COUNT zs.length).dataPends tag
    let s := chunks.foldl (fun s c => s.startChunk tag c (r.kind == .read)) s
    far.foldl (fun s c =>
      match AL.get c s.read.rch with
      | some e =>
        let s := (((s.bump F.RCH_CNT_LOOKUP_COUNT).rchHit c e).givePart tag 6 17).modReq tag (fun r => { r with rchHit := true })
        (s.addFetch { tag := tag, cid := c, strip := 0, mode := .cache, left := 0, done := true }).2
      | none => ((s.bump F.RCH_CNT_LOOKUP_COUNT).bump F.RCH_CNT_MISS_COUNT).addFetch { tag := tag, cid := c, strip := 0, mode := .foreign } |>.2) s

/-! ### Data that arrives -/

/-- The fetches of a chunk of a read. -/
def State.fetchesOf (s : State) (tag cid : Nat) : List (Nat × Fetch) :=
  s.read.fetches.filter (fun q => q.2.tag == tag && q.2.cid == cid)

/-- The copy of a strip that passes to the slice: the first whose whole range has come (R128). -/
def State.stripCopy (s : State) (tag cid k : Nat) : Option Fetch :=
  (minBy (fun q => q.2.came) ((s.fetchesOf tag cid).filter (fun q => q.2.strip == k && q.2.done && !q.2.failed))).map (·.2)

/-- The strips of a chunk of a request. -/
def State.chunkStrips (s : State) (tag cid : Nat) : List (Nat × Nat × Nat) :=
  stripRanges (s.entOf tag cid).offset (s.entOf tag cid).len

/-- A copy of the chunk is whole: cached, foreign, or every strip. -/
def State.copyReady (s : State) (tag cid : Nat) : Bool :=
  (s.fetchesOf tag cid).any (fun q => (q.2.mode == .cache || q.2.mode == .foreign) && q.2.done)
    || (!(s.fetchesOf tag cid).isEmpty && (s.chunkStrips tag cid).all (fun q => (s.stripCopy tag cid q.1).isSome))

/-- The copy that passes to the slice has a rebuilt strip. -/
def State.copyRebuilt (s : State) (tag cid : Nat) : Bool :=
  (s.chunkStrips tag cid).any (fun q => match s.stripCopy tag cid q.1 with
    | some f => f.mode == .recon || f.mode == .hedge
    | none => false)

/-- A prefetched chunk that has come enters the read cache with its mark set, without a slice (R162); its reply units return (R46). -/
def State.prefetchDone (s : State) (tag cid : Nat) : State :=
  let s := (s.rchInsert cid (s.entOf tag cid).len (s.entOf tag cid).vat true).givePart tag 6 (replyUnits (s.entOf tag cid).len)
  let s := (s.dropChunk tag cid).modRead
    (fun r => { r with fetches := r.fetches.filter (fun q => !(q.2.tag == tag && q.2.cid == cid)) })
  match s.req tag with
  | some r => if (srcChunks r.sources).isEmpty then (s.sampleDone r).dropReq tag else s
  | none => s

/-- A reconstruct reads strips of a row to rebuild one. -/
def Fetch.rebuilds (f : Fetch) : Bool := f.mode == .recon || f.mode == .hedge

/-- The pool 6 units of its read that a fetch's range takes of those reserved for the chunk: the first strip of two takes its own, the
second what is left (R118, R123). -/
def State.shareOf (s : State) (f : Fetch) : Nat :=
  let e := s.entOf f.tag f.cid
  if f.units = e.len ∨ f.unit = e.offset % 128 then replyUnits f.units else replyUnits e.len - replyUnits (e.len - f.units)

/-- The units that a fetch holds return: those of the reserve, or those of the read (R128). -/
def State.fetchUnits (s : State) (f : Fetch) : State :=
  if f.rebuilds then s.reserveGive f.reserve else s.givePart f.tag 6 (s.shareOf f)

/-- The whole range of a fetch is there (R128): one that another has beaten is discarded and its units return; a rebuilt one has given
its units back, and is staged for the decrypt pass. -/
def State.rangeCame (s : State) (id : Nat) (f : Fetch) : State :=
  let beaten := (s.fetchesOf f.tag f.cid).any (fun q => q.1 != id && q.2.strip == f.strip && q.2.done && !q.2.failed)
  let s := if f.mode == .hedge ∧ !beaten then s.bump F.RDP_CNT_HEDGE_WON_COUNT else s
  let s := if f.rebuilds ∨ beaten then s.fetchUnits f else s
  let s := (s.modFetch id (fun f => { f with left := 0, done := true, failed := beaten, came := s.read.nextCame, reserve := 0 })).modRead
    (fun r => { r with nextCame := r.nextCame + 1 })
  if ((s.req f.tag).map (fun r => r.kind == .prefetch)).getD false ∧ s.copyReady f.tag f.cid then s.prefetchDone f.tag f.cid
  else s

/-- The page of a slice's erasure unit. -/
def ercSlot (i : Nat) : Nat := dslSlot i + 3

/-- The rebuild job of a reconstruct whose strips are all in (R377 to R379): one that may not run ends the read; it runs as the erasure
unit has room (R346), and writes the range to staging units (R350). -/
def State.rebuildGo (s : State) (id : Nat) : State :=
  match AL.get id s.read.fetches with
  | none => s
  | some f =>
    match s.req f.tag, s.band (s.entOf f.tag f.cid).band with
    | some r, some b =>
      let i := r.slice
      if !f.rebuilds ∨ f.done ∨ f.failed ∨ f.queued ∨ f.left ≠ 0 then s
      else if !erasurePattern b.d b.p f.cols [f.strip % max 1 b.d] then
        let s := (s.raise (ercSlot i) Cond.ERC_PATTERN_INVALID f.cid).bump (F.DSL_ERC_CNT_FAIL_COUNT i)
        (s.readFail f.tag Cond.MEDIA_INTEGRITY 0).wakeHeld
      else
        let n := replyUnits f.units
        let (ran, s) := s.segRun i [1] (.rebuild f.tag id) n f.tag false
        if !ran then s else
          let s := (s.bump (F.DSL_ERC_CNT_JOBS_COUNT i)).bump (F.DSL_ERC_CNT_REBUILD_COUNT i) n
          let from_ := if f.unit = (s.entOf f.tag f.cid).offset % 128 then 0 else (s.entOf f.tag f.cid).len - f.units
          (s.stage i (.rebuild f.tag id) (pieces n ((s.entOf f.tag f.cid).stored / 256 ^ (512 * from_)))).rangeCame id f
    | _, _ => s

/-- The rebuild jobs that wait for the erasure unit go on in a new beat. -/
def State.rebuildsGo (s : State) : State := (s.read.fetches.map (·.1)).foldl (fun s id => s.rebuildGo id) s

/-- A range of a fetch has come. One of a copy whose chunk has been through the slice is discarded (R128). -/
def State.fetchGot (s : State) (id : Nat) : State :=
  match AL.get id s.read.fetches with
  | none => s
  | some f =>
    if 1 < f.left then s.modFetch id (fun f => { f with left := f.left - 1 })
    else if f.failed then (s.fetchUnits f).modRead (fun r => { r with fetches := r.fetches.filter (fun q => q.1 != id) })
    else if f.rebuilds then (s.modFetch id (fun f => { f with left := 0 })).rebuildGo id
    else s.rangeCame id f

/-- A copy of a strip has come or is to come. -/
def State.stripUnderway (s : State) (tag cid k : Nat) : Bool := (s.fetchesOf tag cid).any (fun q => q.2.strip == k && !q.2.failed)

/-- A read of a fetch's strip has failed (R125): the member is failed for the chunk, and the strip is decided anew. -/
def State.fetchBad (s : State) (id : Nat) (m : Member) : State :=
  match AL.get id s.read.fetches with
  | none => s
  | some f =>
    let s := (s.reserveGive f.reserve).modRead (fun r => { r with fetches := r.fetches.filter (fun q => q.1 != id) })
    let s := s.modReq f.tag (fun r => { r with failedAt := r.failedAt ++ [(f.cid, m.word)] })
    if f.failed then s
    else if ((s.req f.tag).map (fun r => r.kind == .prefetch)).getD false then s.pfxChunkDrop f.tag f.cid
    else if s.stripUnderway f.tag f.cid f.strip then s
    else s.startStrip f.tag f.cid f.strip f.unit f.units

/-- `RECONSTRUCT_START` (R126): the queued reconstruct with the earliest deadline starts once it may. -/
def execReconstructStart (s : State) : Res :=
  .next (
    let dl (f : Fetch) : Nat := ((s.req f.tag).map (·.deadline)).getD 0
    match minBy (fun q => dl q.2) (s.read.fetches.filter (fun q => q.2.mode == .recon && q.2.queued)) with
    | none => s
    | some (id, f) =>
      match s.req f.tag, s.band (s.entOf f.tag f.cid).band with
      | some r, some b =>
        let ok := ((b.stripMember f.strip).1.map (fun m => decide (b.d ≤ (s.survivors r f.cid b m).length))).getD false
        if !ok then (s.readFail f.tag Cond.MEDIA_INTEGRITY 0).wakeHeld
        else if s.reconAllowed b.d f.units then s.reconGo r id f else s
      | _, _ => s)

/-- `HEDGE_START` (R127). -/
def execHedgeStart (fetch : Nat) (s : State) : Res :=
  .next (match AL.get fetch s.read.fetches with
    | none => s
    | some f =>
      match s.req f.tag, s.band (s.entOf f.tag f.cid).band with
      | some r, some b =>
        let enough := ((b.stripMember f.strip).1.map (fun m => decide (b.d ≤ (s.survivors r f.cid b m).length))).getD false
        let none0 := !(s.fetchesOf f.tag f.cid).any (fun q => q.2.strip == f.strip && q.2.mode == .hedge)
        if s.get F.RDP_CFG_HEDGE_EN = 1 ∧ f.mode = .direct ∧ !f.done ∧ !f.failed ∧ none0 ∧ r.kind = .read
            ∧ f.limit ≤ s.beat + s.get F.RDP_RECON_CFG_HEDGE_MARGIN ∧ enough ∧ s.reconAllowed b.d f.units then
          (s.startRecon r f.cid f.strip f.row f.unit f.units .hedge true).bump F.RDP_CNT_HEDGE_COUNT
        else s
      | _, _ => s)

/-! ### In the slice (R131 to R136, R366, R367) -/

/-- A copy fails its tag or header check: zeroing, `AUTH_FAIL` with the chunk or sequence number, the counts (R367). -/
def State.authFail (s : State) (slice info : Nat) : State :=
  (((s.raise (dslSlot slice) Cond.AUTH_FAIL info).irq (dslSlot slice) 1).bump (F.DSL_CPH_CNT_AUTH_COUNT slice)).bump
    (F.DSL_CPH_CNT_ZERO_COUNT slice)

/-- What rebuilt ranges of a chunk hold in staging has been consumed (R350). -/
def State.unstageRebuilt (s : State) (i tag cid : Nat) : State :=
  ((s.fetchesOf tag cid).filter (fun q => q.2.rebuilds)).foldl (fun s q => s.unstage i (.rebuild tag q.1)) s

/-- A chunk has come through the slice: its reply units return, but for those of a copy still to come, which return with it (R128). -/
def State.copyUsed (s : State) (tag cid : Nat) : State :=
  let fs := s.fetchesOf tag cid
  let s := s.unstageRebuilt (((s.req tag).map (·.slice)).getD 0) tag cid
  let later := ((fs.filter (fun q => q.2.mode == .direct && (q.2.failed || !q.2.done))).map (fun q => s.shareOf q.2)).sum
  let s := if fs.any (fun q => q.2.mode == .cache) then s
    else s.givePart tag 6 (if 2 ^ 52 ≤ cid then 17 else replyUnits (s.entOf tag cid).len - later)
  s.modRead (fun r => { r with fetches := r.fetches.filterMap (fun q =>
    if q.2.tag = tag ∧ q.2.cid = cid then (if q.2.done then none else some (q.1, { q.2 with failed := true })) else some q) })

/-- Insert a verified copy as `RCH_CFG` says (R129). -/
def State.cacheCopy (s : State) (tag cid vat : Nat) : State :=
  let fs := s.fetchesOf tag cid
  let en := if fs.any (fun q => q.2.mode == .cache) then 0
    else if fs.any (fun q => q.2.mode == .foreign) then s.get F.RCH_CFG_INSERT_FOREIGN
    else if s.copyRebuilt tag cid then s.get F.RCH_CFG_INSERT_RECON
    else s.get F.RCH_CFG_INSERT_MEDIA
  if en = 1 then s.rchInsert cid (s.entOf tag cid).len vat false else s

/-- The index of a block in its chunk, as resolution found it. -/
def Req.blockIndex (r : Req) (lba : Nat) : Nat := ((r.idxs.find? (fun q => q.1 == lba)).map (·.2)).getD 0

/-- The blocks of a read that a chunk gives, with their index in it. -/
def Req.blocksOf (r : Req) (src : Source) : List (Nat × Nat) :=
  (r.sources.filter (fun q => q.2 == src)).map (fun q => (q.1, r.blockIndex q.1))

/-- Hand on a chunk's blocks, once verified and inflated: an index past the original length fails the read (R135). -/
def State.handOn (s : State) (r : Req) (src : Source) (e : CtbEnt) : State :=
  let bs := r.blocksOf src
  if bs.any (fun q => decide (e.orig ≤ q.2)) then (s.readFail r.tag Cond.MEDIA_INTEGRITY 0).wakeHeld
  else
    (s.modReq r.tag (fun r => { r with
      sources := r.sources.filter (fun q => q.2 != src), verified := r.verified.filter (fun c => Source.chunk c != src && Source.foreign c != src)
      ready := r.ready ++ bs.map (fun q => (q.1, e.data.getD q.2 0))
      stage := if r.stage = .fetching then .delivering else r.stage })).dataPends r.tag

/-- A read's data stays in staging after it is verified or inflated, for the pass that encrypts it for an LDT connection (R137, R350);
for NVT it leaves for the delivery buffer. -/
def State.stageData (s : State) (r : Req) (cid : Nat) (data : List Nat) : State :=
  match r.origin with
  | .ldt _ _ => s.stage r.slice (.copy r.tag cid) data
  | _ => s.unstage r.slice (.copy r.tag cid)

/-- The descriptor of a record as one number (Table 3.7): `code` is `ORIG_BLOCKS` and `FIRST`, `flags` are `RAW`, `DYNAMIC`
and `ZERO`. -/
def cdDesc (len code count flags lba : Nat) : Nat :=
  len % 2 ^ 32 * 2 ^ 96 + code % 1024 * 2 ^ 86 + count % 32 * 2 ^ 81 + flags % 8 * 2 ^ 78 + lba % 2 ^ 38

/-- What a block of a read resolved to, and its index; a block of a part not yet resolved as it stands now. -/
def State.resolution (s : State) (r : Req) (lba : Nat) : Source × Nat :=
  match r.resolvedAs.find? (fun q => q.1 == lba) with
  | some q => (q.2, r.blockIndex lba)
  | none => (s.sourceOf r lba, s.indexOf r lba)

/-- Blocks of a request from one of a chunk's on, as long as they name the chunk's following blocks. -/
def State.runLen (s : State) (r : Req) (src : Source) (lba idx : Nat) : Nat → Nat
  | 0 => 0
  | n + 1 =>
    if lba < r.lba + r.blocks ∧ s.resolution r lba = (src, idx) then 1 + s.runLen r src (lba + 1) (idx + 1) n else 0

/-- The record of a chunk in a compressed delivery (R142, R403). -/
def State.cdChunk (s : State) (r : Req) (src : Source) (e : CtbEnt) (bs : List (Nat × Nat)) : CdRec :=
  let (lba, idx) := bs.headD (0, 0)
  let n := 1 + s.runLen r src (lba + 1) (idx + 1) 15
  { lba := lba, count := n, len := e.streamLen, stream := e.stream
    desc := cdDesc e.streamLen (e.orig * 32 + idx) n (4 * b2n e.raw + 2 * b2n e.dynamic) lba }

/-- A copy that verified (R112, R129, R134, R142): its data is in the slice, so its pin is released; a raw chunk or a compressed delivery is
handed on, any other waits for its inflater; the chunks of a replication command stay until all of them leave (R560). -/
def State.copyGood (s : State) (r : Req) (cid : Nat) (src : Source) (e : CtbEnt) (vat : Nat) : State :=
  let s := if s.copyRebuilt r.tag cid then s.modReq r.tag (fun r => r.raiseClass 3) else s
  let s := (s.cacheCopy r.tag cid vat).copyUsed r.tag cid
  let s := (s.unpin r (r.sources.filter (fun q => q.2 == .chunk cid))).modReq r.tag (fun r => { r with verified := r.verified ++ [cid] })
  let out := pieces (ceilDiv e.streamLen 4096) e.stream
  if r.kind = .repChunks then s.stage r.slice (.copy r.tag cid) out
  else if r.compressed then
    let rec0 := s.cdChunk r src e (r.blocksOf src)
    ((s.stageData r cid out).modReq r.tag (fun x => { x with cdRecs := x.cdRecs ++ [rec0] })).handOn r src e
  else if e.raw then ((s.inflTrim r.slice r.tag cid 0).stageData r cid out).handOn r src e
  else (s.inflTrim r.slice r.tag cid e.orig).stage r.slice (.copy r.tag cid) out

/-- A strip of a copy that failed in the slice: the copy used goes, and another that is still to come takes its place (R128). -/
def State.stripUsedBad (s : State) (r : Req) (cid k : Nat) : State :=
  s.modRead (fun x => { x with fetches := x.fetches.filter (fun f => !(f.2.tag == r.tag && f.2.cid == cid && f.2.strip == k && f.2.done)) })

/-- A copy that failed (R128, R133): a rebuilt one gives way to another that is still to come, else it ends the read; the strips of a
direct one are failed for the chunk. -/
def State.copyBad (s : State) (r : Req) (cid : Nat) : State :=
  let s := ((s.authFail r.slice cid).bump F.RDP_CNT_AUTH_COUNT).unstageRebuilt r.slice r.tag cid
  let fs := s.fetchesOf r.tag cid
  let coming (k : Nat) : Bool := fs.any (fun q => q.2.strip == k && !q.2.done && !q.2.failed)
  if fs.any (fun q => q.2.mode == .cache) then
    let s := (s.modRead (fun x => { x with rch := AL.del cid x.rch, fetches := x.fetches.filter (fun q => !(q.2.tag == r.tag && q.2.cid == cid)) })).bump
      F.RCH_CNT_DROP_COUNT
    (s.takePart r.tag 6 (replyUnits (s.entOf r.tag cid).len)).startChunk r.tag cid false
  else if s.copyRebuilt r.tag cid then
    let again := (s.chunkStrips r.tag cid).filter (fun q => coming q.1)
    if again = [] then (s.readFail r.tag Cond.MEDIA_INTEGRITY 0).wakeHeld else again.foldl (fun s q => s.stripUsedBad r cid q.1) s
  else
    let b := s.band (s.entOf r.tag cid).band
    let s := (s.chunkStrips r.tag cid).foldl (fun s q =>
      let m := (b.bind (fun b => (b.stripMember q.1).1)).getD ⟨0, 0, 0⟩
      (s.stripUsedBad r cid q.1).modReq r.tag (fun x => { x with failedAt := x.failedAt ++ [(cid, m.word)] })) s
    s.startStrips r.tag cid ((s.chunkStrips r.tag cid).filter (fun q => !coming q.1))

/-- The code of a journal record among the copies a slice checks. -/
def recCid (slot : Nat) : Nat := 2 ^ 40 + slot

/-- A journal record of a read that verified: its block is ready (R136). -/
def State.recGood (s : State) (r : Req) (slot data : Nat) : State :=
  let own := r.sources.filter (fun q => q.2 == .journal slot || q.2 == .peerJournal slot)
  let s := s.stageData r (recCid slot) [data]
  ((s.unpin r own).modReq r.tag (fun r => { r with
    sources := r.sources.filter (fun q => !(q.2 == .journal slot || q.2 == .peerJournal slot))
    ready := r.ready ++ own.map (fun q => (q.1, data))
    cdRecs := if r.compressed then r.cdRecs ++ own.map (fun q => { lba := q.1, count := 1, desc := cdDesc 4096 32 1 4 q.1, len := 4096, stream := data }) else r.cdRecs
    stage := if r.stage = .fetching then .delivering else r.stage })).dataPends r.tag

/-- A read's journal record has been checked: one that fails is fetched from the peer's mirror (R136). -/
def State.recChecked (s : State) (r : Req) (slot : Nat) (ok : Bool) : State :=
  match AL.get slot s.write.recs with
  | none => s
  | some j =>
    if ok then s.recGood r slot j.data
    else
      let s := ((s.authFail r.slice j.seq).bump F.RDP_CNT_AUTH_COUNT).bump F.JNL_CNT_AUTH_COUNT
      if s.mode = .paired ∧ s.get F.PRL_PEER_INFO_MODE = 3 then
        (s.modReq r.tag (fun r => { r with recWait := r.recWait.filter (· != slot) ++ [slot] })).sendPeer 0x12 0 [slot]
      else (s.readFail r.tag Cond.MEDIA_INTEGRITY 0).wakeHeld

/-! ### Inflation (R134, R395 to R402) -/

/-- The CMP page records and raises an inflater's condition (R402). -/
def State.inflFail (s : State) (slice cid cond bitOff outBytes : Nat) : State :=
  let s := s.setAll [(F.DSL_CMP_FAIL_CONDITION slice, cond), (F.DSL_CMP_FAIL_OUT_BYTES slice, outBytes), (F.DSL_CMP_FAIL_BIT_OFFSET slice, bitOff)]
  ((s.raise (dslSlot slice + 2) cond (bitOff * 2 ^ 44 + cid)).irq (dslSlot slice + 2) 1).satInc (F.DSL_CMP_CNT_OUTCOME_INFL_FAIL slice) 1

/-! ### Reads complete -/

/-- Counters of a read that has delivered everything, by its class and sources (Table 3.14). -/
def State.readCount (s : State) (r : Req) : State :=
  let s := if r.cls = 0 ∧ r.rchHit then s.bump F.RDP_CNT_HIT_COUNT else s
  let s := if r.jnlHit then s.bump F.RDP_CNT_JNL_COUNT else s
  let s := if r.cls = 1 ∨ r.cls = 2 then s.bump F.RDP_CNT_MEDIA_COUNT else s
  if r.cls = 3 then s.bump F.RDP_CNT_RECON_COUNT else s

end Sys2Proof.Machine
end

