-- ==== Sys2Proof/Machine/Check.lean ====
section
/-! DEFINITION. The checks that a block's chapter makes when its unit is enabled and when a commit transfers its shadow
(R81): what is refused, and with which condition. -/

namespace Sys2Proof.Machine

/-- A region of HBM (Table 2.1) lies within its 192 GiB. -/
def fitsHbm (a n : Nat) : Bool := decide (a + n ≤ 0x003000000000)

/-- Two regions do not overlap. -/
def apart (a n b k : Nat) : Bool := decide (a + n ≤ b) || decide (b + k ≤ a)

/-- A value lies in a range. -/
def within (v lo hi : Nat) : Bool := decide (lo ≤ v) && decide (v ≤ hi)

/-- A base register of GiB granularity with a size register in GiB (R164). -/
def gibRegion (base gib lo hi : Nat) : Bool := within gib lo hi && fitsHbm (base * 2 ^ 30) (gib * 2 ^ 30)

/-- The journal region (chapter 4). -/
def State.jnlBase (s : State) : Nat := s.get F.JNL_BASE_BASE * 2 ^ 34

/-- The FTL region: 512 MiB, the root and the leaf cache (R305). -/
def State.ftlRegion (s : State) : Nat × Nat :=
  (s.get F.FTL_BASE_BASE * 2 ^ 28, 2 ^ 29 + (s.get F.FTL_ROOT_SIZE_UNITS + s.get F.FTL_LEAF_SIZE_UNITS) * 2 ^ 26)

/-- What a write that enables a unit is refused for: none, or the condition (R164, R219, R251, R305, R306, R457, R497, R535,
R566, R567). -/
def State.enableBad (s : State) (code i : Nat) : Option Nat :=
  let bad (ok : Bool) (c : Nat) : Option Nat := if ok then none else some c
  if code = Blk.MAP then bad (gibRegion (s.get F.MAP_BASE_BASE) (s.get F.MAP_SIZE_GIB) 16 96) Cond.MAP_CFG_INVALID
  else if code = Blk.CTB then bad (gibRegion (s.get F.CTB_BASE_BASE) (s.get F.CTB_SIZE_GIB) 8 48) Cond.CTB_CFG_INVALID
  else if code = Blk.RCH then bad (gibRegion (s.get F.RCH_BASE_BASE) (s.get F.RCH_SIZE_GIB) 8 112) Cond.RCH_CFG_INVALID
  else if code = Blk.PFX then bad (fitsHbm (s.get F.PFX_BASE_BASE * 2 ^ 21) 0x10040000) Cond.PFX_CFG_INVALID
  else if code = Blk.JNL then bad (fitsHbm s.jnlBase (2 ^ 34)) Cond.JNL_CFG_INVALID
  else if code = Blk.SWX then
    bad (gibRegion (s.get F.SWX_BASE_BASE) (s.get F.SWX_SIZE_GIB) 8 96 &&
      gibRegion (s.get F.SWX_RCP_BASE_BASE) (s.get F.SWX_RCP_SIZE_GIB) 2 40 &&
      apart (s.get F.SWX_BASE_BASE) (s.get F.SWX_SIZE_GIB) (s.get F.SWX_RCP_BASE_BASE) (s.get F.SWX_RCP_SIZE_GIB)) Cond.SWX_CFG_INVALID
  else if code = Blk.VAT then bad (fitsHbm (s.get F.VAT_TBL_BASE_BASE * 2 ^ 26) (2 ^ 26)) Cond.VAT_CFG_INVALID
  else if code = Blk.FTL then
    bad (fitsHbm s.ftlRegion.1 s.ftlRegion.2 && apart s.ftlRegion.1 s.ftlRegion.2 s.jnlBase (2 ^ 34)) Cond.FTL_CFG_INVALID
  else if code = Blk.BND then
    bad (within (s.get F.BND_CFG_D_A) 8 24 && within (s.get F.BND_CFG_D_B) 8 24 && within (s.get F.BND_CFG_P_A) 2 3 &&
      within (s.get F.BND_CFG_P_B) 2 3) Cond.BND_CFG_INVALID
  else if code = Blk.NVT then bad (fitsHbm (s.get (F.NVT_CTRL_BASE_BASE i) * 2 ^ 24) (2 ^ 24)) Cond.NVT_CFG_INVALID
  else if code = Blk.LDT then
    bad (fitsHbm (s.get (F.LDT_CTX_BASE_BASE i) * 2 ^ 30) (2 ^ 30) && fitsHbm (s.get (F.LDT_ACC_BASE_BASE i) * 2 ^ 21) (2 ^ 21))
      Cond.LDT_CFG_INVALID
  else if code = Blk.FAB then
    bad (fitsHbm (s.get F.FAB_BASE_BASE * 2 ^ 23) (2 ^ 23) && s.get F.FAB_ID_HID % 2 == s.side &&
      ((s.get F.FAB_ID_HID ^^^ 1) == s.get F.PRL_STAT_PEER_HID || !(s.pair.helloMatched || s.get F.PRL_PAIR_STAT_MISMATCH == 1))) Cond.FAB_CFG_INVALID
  else if code = Blk.REP then bad (fitsHbm (s.get F.REP_BASE_BASE * 2 ^ 23) (2 ^ 23)) Cond.REP_CFG_INVALID
  else none

/-- A budget profile keeps R49 and the limits of Table 1.3. -/
def State.budgetOk (s : State) (k : Nat) : Bool :=
  let h := s.get (F.ADM_BUDGET_CFG_H k)
  let m := s.get (F.ADM_BUDGET_CFG_M k)
  let q := s.get (F.ADM_BUDGET_CFG_MQ k)
  let x := s.get (F.ADM_BUDGET_CFG_X k)
  within h 2 16 && within m 8 512 && within q 8 512 && within x 16 1023 && within (s.get (F.ADM_BUDGET_CFG_W k)) 3 64 &&
    within (s.get (F.ADM_BUDGET_CFG_F k)) 4 256 && within (s.get (F.ADM_BUDGET_CFG_A k)) 4 511 &&
    decide (h < m) && decide (m ≤ q) && decide (q < x)

/-- The values never decrease. -/
def rising : List Nat → Bool
  | a :: b :: t => decide (a ≤ b) && rising (b :: t)
  | _ => true

/-- A quad's mode and detection are valid in its group (R407, R410, R456). -/
def State.quadOk (s : State) (g q : Nat) : Bool :=
  let mode := s.get (F.HFI_Q_CFG_QMODE g q)
  decide (mode ≤ 5) && !(mode == 4 && !(q % 2 == 0 && decide (q + 1 < 12) && s.get (F.HFI_Q_CFG_QMODE g (q + 1)) == 0)) &&
    !(s.get (F.HFI_Q_CFG_DETECT g q) == 1 && mode == 4) &&
    decide (s.get (F.HFI_Q_PFC_XON_PCT g q) < s.get (F.HFI_Q_PFC_XOFF_PCT g q)) && decide (s.get (F.HFI_Q_PFC_XOFF_PCT g q) ≤ 95)

/-- Enabled listeners of an NVT unit differ in interface or TCP port (R457). -/
def State.listenersOk (s : State) (i : Nat) : Bool :=
  let l := ((List.range 8).filter (fun k => s.get (F.NVT_LISTEN_EN i k) == 1)).map
    (fun k => s.get (F.NVT_LISTEN_IF i k) * 65536 + s.get (F.NVT_LISTEN_TCP_PORT i k))
  l.eraseDups.length == l.length

/-- What a commit is refused for, on the state `s` its shadows would give, against the state in force `old`: none, or the
condition and the capture's detail (R50, R165, R218, R251, R305, R380, R404, R456, R457, R497, R532, R533, R566, R567, R661,
R662, R687, R714). -/
def State.commitBad (s old : State) (code i : Nat) : Option (Nat × Nat) :=
  let bad (ok : Bool) (c : Nat) : Option (Nat × Nat) := if ok then none else some (c, 0)
  if code = Blk.ADM then
    ((List.range 256).find? (fun k => !s.budgetOk k)).map (fun k => (Cond.ADM_BUDGET_INVALID, k))
  else if code = Blk.RDP then
    bad (s.get F.RDP_CFG_SLICE_EN != 0 && s.get F.RDP_RECON_CFG_TAIL != 0 && s.get F.RDP_RECON_CFG_HEDGE_MARGIN != 0 &&
      within (s.get F.RDP_RECON_CFG_MAX_ACTIVE) 1 4096) Cond.RDP_CFG_INVALID
  else if code = Blk.MAP then bad (within (s.get F.MAP_FETCH_LIMIT_LIMIT) 1 4096) Cond.MAP_CFG_INVALID
  else if code = Blk.CTB then bad (within (s.get F.CTB_FETCH_LIMIT_LIMIT) 1 4096) Cond.CTB_CFG_INVALID
  else if code = Blk.RCH then bad (decide (s.get F.RCH_CFG_PFX_SHARE_PCT ≤ 100)) Cond.RCH_CFG_INVALID
  else if code = Blk.PFX then
    bad (within (s.get F.PFX_CFG_ISSUE_MAX) 1 1024 && decide (s.get F.PFX_CFG_MAX_LOAD_PCT ≤ 100)) Cond.PFX_CFG_INVALID
  else if code = Blk.JNL then
    bad (s.get F.JNL_CFG_MIRROR_TMO != 0 && within (s.get F.JNL_CFG_FLUSH_HIGH_PCT) 1 100) Cond.JNL_CFG_INVALID
  else if code = Blk.CHK then
    bad (decide (s.get F.CHK_CFG_MASK_BITS ≤ 4) && within (s.get F.CHK_CFG_MAX_BLOCKS) 1 16 &&
      within (s.get F.CHK_CFG_MIN_BLOCKS) 1 (s.get F.CHK_CFG_MAX_BLOCKS) && within (s.get F.CHK_RECIPE_CFG_SET_PAGES) 1 16 &&
      s.get F.CHK_RECIPE_CFG_CLOSE != 0) Cond.CHK_CFG_INVALID
  else if code = Blk.WRP then bad (s.get F.WRP_CFG_SLICE_EN != 0 && s.get F.WRP_CFG_ROW_WAIT != 0) Cond.WRP_CFG_INVALID
  else if code = Blk.VAT then
    bad (within (s.get F.VAT_REDYE_CFG_RATE) 1 1024 && decide (s.get F.VAT_REDYE_CFG_MAX_LOAD_PCT ≤ 100)) Cond.VAT_CFG_INVALID
  else if code = Blk.FTL then
    bad (decide (256 ≤ s.get F.FTL_CFG_CKPT_BEATS) && within (s.get F.FTL_CFG_LOG_PCT) 10 90 &&
      decide (s.get F.FTL_SLC_CFG_FOLD_START < s.get F.FTL_SLC_CFG_FOLD_STOP) &&
      decide (s.get F.FTL_GC_CFG_URGENT_PCT < s.get F.FTL_GC_CFG_START_PCT) &&
      decide (s.get F.FTL_GC_CFG_START_PCT < s.get F.FTL_GC_CFG_STOP_PCT) && decide (s.get F.FTL_GC_CFG_STOP_PCT ≤ 50) &&
      decide (s.get F.FTL_GC_CFG_MAX_LOAD_PCT ≤ 100)) Cond.FTL_CFG_INVALID
  else if code = Blk.DSL then
    bad (within (s.get (F.DSL_DIG_CFG_SW_CTX i)) 1 32 && within (s.get (F.DSL_DIG_CFG_SW_SEGS i)) 1 30 &&
      s.get (F.DSL_CMP_CFG_EFFORT i) != 0 && s.get (F.DSL_CMP_CFG_INFL_EN i) != 0 && s.get (F.DSL_CMP_CFG_DEFL_EN i) != 0)
      Cond.DSL_CFG_INVALID
  else if code = Blk.HFI then
    bad ((List.range 12).all (fun q => s.quadOk i q) && decide (s.get (F.HFI_GRP_CFG_IF_CNT i) ≤ 128) &&
      fitsHbm (s.get (F.HFI_IF_BASE_BASE i) * 2 ^ 13) (2 ^ 13)) Cond.HFI_CFG_INVALID
  else if code = Blk.NVT then
    bad (within (s.get (F.NVT_CFG_MAX_IOQ i)) 1 128 && s.get (F.NVT_CFG_ICREQ_TMO i) != 0 && s.get (F.NVT_CFG_CONNECT_TMO i) != 0 &&
      within (s.get (F.NVT_TCP_CFG_RTO_MIN i)) 1 (1024 * s.get (F.NVT_TCP_CFG_RTO_MAX i)) && s.listenersOk i) Cond.NVT_CFG_INVALID
  else if code = Blk.LDT then
    bad (within (s.get (F.LDT_CFG_MAX_PATHS i)) 1 8 && s.get (F.LDT_CFG_SEG i) != 3 && within (s.get (F.LDT_CFG_QDEPTH_MAX i)) 1 1024 &&
      within (s.get (F.LDT_ACK_CFG_RTO_MIN i)) 1 (s.get (F.LDT_ACK_CFG_RTO_MAX i)) && s.get (F.LDT_ACK_CFG_ACK_EVERY i) != 0 &&
      s.get (F.LDT_ACK_CFG_DUP_THRESH i) != 0 && s.get (F.LDT_TMO_CFG_MSG_RETRIES i) != 0 && s.get (F.LDT_RATE_CFG_DOWN_STEP i) != 0 &&
      within (s.get (F.LDT_ACK_CFG_WINDOW i)) 1 4096 && decide (s.get (F.LDT_RATE_CFG_START_IDX i) ≤ 31) &&
      s.get (F.LDT_RATE_CURVE_RATE i 0) != 0 && rising ((List.range 32).map (fun k => s.get (F.LDT_RATE_CURVE_RATE i k))))
      Cond.LDT_CFG_INVALID
  else if code = Blk.PRL then
    bad (decide (64 ≤ s.get F.PRL_CFG_PEER_LOSS_TMO) && s.get F.PRL_CFG_RECOVER_TMO != 0 && s.get F.PRL_CFG_BUNDLE_EN != 0 &&
      decide (16384 ≤ s.get F.PRL_HANDBACK_CFG_HANDBACK_TMO) &&
      !(old.get F.PRL_STAT_REACHABLE == 1 &&
        (List.range 5).any (fun k => s.get (F.PRL_CLASS_CFG_SLOTS k) != old.get (F.PRL_CLASS_CFG_SLOTS k)))) Cond.PRL_CFG_INVALID
  else if code = Blk.LSE then
    bad (within (s.get F.LSE_CFG_LEASE_K) 16 128 && within (s.get F.LSE_CFG_WIT_RETRY) 1 1024 && s.get F.LSE_CFG_BOOT_WAIT != 0 &&
      (s.get F.LSE_WIT_CFG_SERIAL_EN == 1 || s.get F.LSE_WIT_CFG_UDP_EN == 1)) Cond.LSE_CFG_INVALID
  else if code = Blk.FAB then
    bad (decide (2 ≤ s.get F.FAB_CFG_MISS_LIMIT) && decide (8 ≤ s.get F.FAB_CFG_CLAIM_HELLOS) &&
      (s.get F.FAB_HELLO_CFG_IF_E_EN == 1 || s.get F.FAB_HELLO_CFG_IF_W_EN == 1) && within (s.get F.FAB_PLACE_CFG_REPLICAS) 1 4 &&
      s.get F.FAB_PLACE_CFG_HOLD != 0 && s.get F.FAB_FETCH_CFG_FETCH_TMO != 0 && within (s.get F.FAB_FETCH_CFG_MAX_CONN) 1 1024)
      Cond.FAB_CFG_INVALID
  else if code = Blk.REP then
    bad (within (s.get F.REP_CFG_CYCLES) 1 16 && within (s.get F.REP_CFG_CHUNKS) 1 16 && s.get F.REP_CFG_SYNC_TMO != 0)
      Cond.REP_CFG_INVALID
  else if code = Blk.PWR then
    bad (s.get F.PWR_CFG_QUIESCE_TMO != 0 && decide (16 ≤ s.get F.PWR_CFG_IDLE_DELAY)) Cond.PWR_CFG_INVALID
  else if code = Blk.CLK then
    bad (within (s.get F.CLK_MON_CFG_TOL_PPM) 100 10000 &&
      [4, 5, 6, 7].all (fun k => within (s.get (F.CLK_DOM_CFG_MHZ k)) 400 2600 && s.get (F.CLK_DOM_CFG_MHZ k) % 100 == 0) &&
      [11, 12, 13, 14].all (fun k => within (s.get (F.CLK_DOM_CFG_MHZ k)) 500 1500 && s.get (F.CLK_DOM_CFG_MHZ k) % 100 == 0))
      Cond.CLK_CFG_INVALID
  else if code = Blk.AGE then bad (s.get (F.AGE_CFG_EOL_PS i) != 0) Cond.AGE_CFG_INVALID
  else if code = Blk.TST then
    if old.get (F.TST_CTL_RUN i) = 1 then some (Cond.TST_BUSY, 0)
    else bad (decide (s.get (F.TST_CFG_PATTERN i) ≤ 9) && s.get (F.TST_CFG_LOOP i) != 3) Cond.TST_CFG_INVALID
  else none

end Sys2Proof.Machine
end

