-- ==== Sys2Proof/Machine/Pages.lean ====
section
/-! DEFINITION. Chapter 2: page headers (enable, quiesce, commit, errors, locks) and the interrupt router. -/

namespace Sys2Proof.Machine

/-- The unit of the slot's page, with 0 for a slot that holds no page. -/
def unitOfSlot (slot : Nat) : Nat := (slotUnit slot).getD 0

/-- A `PAGE_CTL` write without `RESET` (R72 to R75); an enable that its chapter refuses raises the condition on the page written
and changes nothing (log entry 80). -/
def State.pageCtl (s : State) (slot : Nat) (en qu : Bool) : State :=
  let k := unitOfSlot slot
  let u := s.unit k
  if !u.enable then
    (if en then
      match s.enableBad (k / 256) (k % 256) with
      | some c => s.raise slot c
      | none => s.setUnit k ⟨true, false, false⟩
     else s)
  else if en then s.setUnit k ⟨true, qu, u.quiesced && qu⟩
  else if u.quiesced then s.setUnit k { u with enable := false }
  else s.raise slot Cond.DISABLE_NOT_QUIESCED

/-- `PAGE_ENABLE` (R75): `PAGE_CTL` written with `ENABLE` 1 and `RESET` 0. -/
def execPageEnable (m slot : Nat) (quiesce : Bool) (s : State) : Res :=
  .next (s.busWr m slot 0x10 (fun s => s.pageCtl slot true quiesce))

/-- `PAGE_DISABLE` (R74): `PAGE_CTL` written with `ENABLE` 0. -/
def execPageDisable (m slot : Nat) (s : State) : Res :=
  .next (s.busWr m slot 0x10 (fun s => s.pageCtl slot false false))

/-- `PAGE_QUIESCE` (R73, R75): `PAGE_CTL` written with `ENABLE` and `QUIESCE` 1; a disabled unit is enabled, with
`QUIESCE` clear. -/
def execPageQuiesce (m slot : Nat) (s : State) : Res :=
  .next (s.busWr m slot 0x10 (fun s => s.pageCtl slot true true))

/-- The slots a `PAGE_COMMIT` acts on (R80). -/
def commitSlots (slot : Nat) (allPages : Bool) : List Nat :=
  match pageOf slot with
  | some (c, i, _) => if allPages then unitSlots c i else [slot]
  | none => []

/-- `COMMIT` sets `COMMIT_PENDING` (R11, R78). -/
def State.commitAsk (s : State) (slots : List Nat) : State :=
  slots.foldl (fun s p => s.modHdr p (fun h => { h with commitPending := true })) s

/-- The slot of the register a field key belongs to. -/
def keySlot (k : Nat) : Nat := k / 64 / 4096

/-- The offset of the register a field key belongs to. -/
def keyOff (k : Nat) : Nat := k / 64 % 4096

/-- Drop the shadows of some pages: the shadow takes the value in force (R79). -/
def State.dropShadows (s : State) (slots : List Nat) : State :=
  let s := { s with shadows := s.shadows.filter (fun p => !slots.contains (keySlot p.1)) }
  slots.foldl (fun s p => s.modHdr p (fun h => { h with commitPending := false, shadowDirty := false })) s

/-- `PAGE_COMMIT` (R11, R80). -/
def execPageCommit (m slot : Nat) (allPages : Bool) (s : State) : Res :=
  .next (s.busWr m slot 0x20 (fun s => s.commitAsk (commitSlots slot allPages)))

/-- `PAGE_DISCARD` (R79, R80). -/
def execPageDiscard (m slot : Nat) (allPages : Bool) (s : State) : Res :=
  .next (s.busWr m slot 0x20 (fun s => s.dropShadows (commitSlots slot allPages)))

/-- An error entry as `PAGE_ERRQ` shows it, with the queue's depth (Table 2.10). -/
def ErrEntry.word (e : ErrEntry) (depth : Nat) : Nat :=
  2 ^ 63 + e.severity * 2 ^ 60 + b2n e.escalated * 2 ^ 59 + depth * 2 ^ 52 + e.cond * 2 ^ 32 + e.beat

/-- A capture as its register shows it (Table 2.10). -/
def ErrCap.word (c : ErrCap) : Nat :=
  b2n c.valid * 2 ^ 63 + c.severity * 2 ^ 60 + b2n c.escalated * 2 ^ 59 + c.cond * 2 ^ 32 + c.beat

/-- `PAGE_ERRQ` (R83). -/
def PageHdr.errqWord (h : PageHdr) : Nat :=
  match h.errq with
  | [] => 0
  | e :: _ => e.word h.errq.length

/-- Mark the oldest entry as being handled (R667). -/
def PageHdr.handle (h : PageHdr) : PageHdr :=
  match h.errq with
  | [] => h
  | e :: t => { h with errq := { e with handled := true } :: t }

/-- `PAGE_ERRQ_READ` (R83, R667): the oldest entry; a read by a core starts its handling. -/
def execPageErrqRead (m slot : Nat) (s : State) : Res :=
  .next (s.busRd m slot 0x28 (fun s =>
    let s := s.answer (s.hdr slot).errqWord
    if m ≤ 58 then (s.modHdr slot PageHdr.handle).erqUpdate s.worst else s))

/-- `PAGE_ERRQ_ACK` (R83): the oldest entry is removed. -/
def execPageErrqAck (m slot : Nat) (s : State) : Res :=
  .next (s.busWr m slot 0x30 (fun s =>
    (s.modHdr slot (fun h => { h with errq := h.errq.tail })).erqUpdate s.worst))

/-! ### The interrupt router -/

/-- `PAGE_IRQ_STAT`: the block sources, and bit 0 while the error queue holds an entry (Table 2.12). -/
def PageHdr.irqWord (h : PageHdr) : Nat := (h.irqStat / 2 * 2) + b2n (!h.errq.isEmpty)

/-- A page's interrupt is asserted (R87). -/
def PageHdr.asserted (h : PageHdr) : Bool :=
  decide (((h.irqWord ||| h.irqForce) &&& (0xFFFFFFFF - h.irqMask % 2 ^ 32)) ≠ 0)

/-- The doorbell of mailbox channel c is interrupt slot 896 + c: asserted while its binding is valid, it is full, `DB_EN`
is set and its receiver is a core (R611). -/
def State.doorbell (s : State) (slot : Nat) : Bool :=
  let c := slot - 896
  decide (896 ≤ slot) && decide (slot < 1024)
    && s.get (F.MBX_BIND_VALID c) == 1 && s.get (F.MBX_STAT_FULL c) == 1 && s.get (F.MBX_STAT_DB_EN c) == 1
    && decide (1 ≤ s.get (F.MBX_BIND_RECEIVER c)) && decide (s.get (F.MBX_BIND_RECEIVER c) ≤ 58)

/-- An interrupt slot's source is asserted: a doorbell's, or a page's whose power domain is up, since the clamps of a domain in
RET or OFF deassert its page interrupts (Table 17.2). -/
def State.irqAsserted (s : State) (slot : Nat) : Bool := 
  if 896 ≤ slot then s.doorbell slot else s.domUp (slotDomain slot) && (s.hdr slot).asserted

/-- The core a slot is routed to: its route's target, for a doorbell its channel's receiver (R611). -/
def State.irqTarget (s : State) (slot : Nat) : Nat :=
  if s.doorbell slot then s.get (F.MBX_BIND_RECEIVER (slot - 896)) else s.get (F.IRT_ROUTE_TARGET slot)

/-- The interrupt of a slot is pending at a core (R88, R91): asserted, routed to it above its threshold, not in
service. -/
def State.irqPending (s : State) (core slot : Nat) : Bool :=
  s.irqAsserted slot && s.irqTarget slot == core
    && decide (AL.getD core 0 s.irt.thresh < s.get (F.IRT_ROUTE_PRIORITY slot))
    && !s.irt.inService.any (fun p => p.1 == slot)

/-- The pending interrupt of a core with the highest priority, the lowest slot among equals (R89). -/
def State.claimable (s : State) (core : Nat) : Option Nat :=
  (s.pages.map (fun (p : Nat × PageHdr) => p.1) ++ (List.range 128).map (fun i => i + 896)).foldl (fun best slot =>
    if s.irqPending core slot then
      match best with
      | none => some slot
      | some b => if s.get (F.IRT_ROUTE_PRIORITY b) < s.get (F.IRT_ROUTE_PRIORITY slot) then some slot else some b
    else best) none

/-- A core's external interrupt input (R88): asserted while the core has a pending interrupt. -/
def State.extIrq (s : State) (core : Nat) : Bool := (s.claimable core).isSome

/-- `IRT_CLAIM` (R89): the core's pending interrupt is answered and put in service. -/
def execIrtClaim (m : Nat) (s : State) : Res :=
  .next (s.busRd m Slot.IRT 0x100 (fun s =>
    match s.claimable m with
    | none => s.answer 0
    | some slot =>
      { s.answer (2 ^ 63 + s.get (F.IRT_ROUTE_PRIORITY slot) * 1024 + slot) with
        irt := { s.irt with inService := s.irt.inService ++ [(slot, m)] } }))

/-- `IRT_DONE` (R90): the slot leaves service, or the write is ignored with `IRT_DONE_MISMATCH`. -/
def execIrtDone (m slot : Nat) (s : State) : Res :=
  .next (s.busWr m Slot.IRT 0x108 (fun s =>
    if s.irt.inService.contains (slot, m) then
      { s with irt := { s.irt with inService := s.irt.inService.filter (fun p => p != (slot, m)) } }
    else s.raise Slot.IRT Cond.IRT_DONE_MISMATCH))

/-- The IRT page that holds a route (Table 2.13). -/
def routePage (r : Nat) : Nat := if r < 480 then 1 else if r < 960 then 2 else 3

/-- The offset of a route in its page. -/
def routeOff (r : Nat) : Nat := 0x100 + 8 * (r - 480 * (routePage r - 1))

/-- The route of a secure page, or of a doorbell of SEC's channels 0 to 31 (R94, R611). -/
def routeSecure (r : Nat) : Bool := slotSecure r || (decide (896 ≤ r) && decide (r < 928))

/-- A write to a route that the bus lets through: a non-secure write to the route of a secure page is denied, a target
outside 1 to 58 is refused (R92, R94). DESIGN CHOICE: where both hold, the denial alone (log entry 148). -/
def State.routeWrite (s : State) (m r : Nat) (v : Word) : State :=
  let t := bitsOf v.toNat 0 6
  if routeSecure r && !s.secureMaster m then s.deny (Slot.IRT + routePage r) Cond.SECURE_ACCESS_DENIED
  else if t < 1 ∨ 58 < t then s.raise (Slot.IRT + routePage r) Cond.IRT_ROUTE_INVALID
  else s.setAll [(F.IRT_ROUTE_TARGET r, t), (F.IRT_ROUTE_PRIORITY r, bitsOf v.toNat 11 3),
    (F.IRT_ROUTE_WAKE r, bitsOf v.toNat 14 1)]

/-- `IRT_ROUTE_WRITE` (R92, R94). -/
def execIrtRouteWrite (m r : Nat) (v : Word) (s : State) : Res :=
  .next (s.busWr m (Slot.IRT + routePage r) (routeOff r) (fun s => s.routeWrite m r v))

/-! ### Page locks -/

/-- `PAGE_LOCK_SET` (R99, R100). -/
def execPageLockSet (m slot writers : Nat) (s : State) : Res :=
  .next (s.busWr m slot 0x50 (fun s => s.pageLock slot writers true))

end Sys2Proof.Machine
end

