-- ==== Sys2Proof/Machine/Mailbox.lean ====
section
/-! DEFINITION. Chapter 15: mailbox channels, doorbells, the channels to the peer and the hardware locks. A channel's word
stands in `MBX_TAKE[n]`, its other state in `MBX_STAT[n]` and `MBX_BIND[n]`. -/

namespace Sys2Proof.Machine

/-- Change the mailbox data. -/
def State.modMbx (s : State) (f : MbxSt → MbxSt) : State := { s with mbx := f s.mbx }

/-- The page of a channel. -/
def mbxSlot (c : Nat) : Nat := Slot.MBX + c / 32

/-- A master's epoch (R606). -/
def State.mbxEpoch (s : State) (m : Nat) : Nat := AL.getD m 0 s.mbx.epochs

/-- A channel's binding is in force. -/
def State.mbxBound (s : State) (c : Nat) : Bool := s.get (F.MBX_BIND_VALID c) == 1

/-- A channel holds a word. -/
def State.mbxFull (s : State) (c : Nat) : Bool := s.get (F.MBX_STAT_FULL c) == 1

/-- `DROPPED` sets, with its interrupt and count (R607). -/
def State.mbxDropped (s : State) (c : Nat) : State :=
  ((s.setAll [(F.MBX_TAKE_WORD c, 0), (F.MBX_STAT_FULL c, 0), (F.MBX_STAT_DROPPED c, 1)]).irq (mbxSlot c) 1).bump
    (F.MBX_CNT_DROP_COUNT (c / 32))

/-- `REFUSED` sets, with its interrupt and the condition. -/
def State.mbxRefused (s : State) (c cond : Nat) : State :=
  ((s.set (F.MBX_STAT_REFUSED c) 1).irq (mbxSlot c) 2).raise (mbxSlot c) cond c

/-- A word enters a channel (R603). -/
def State.mbxPlace (s : State) (c w epoch : Nat) : State :=
  s.setAll [(F.MBX_TAKE_WORD c, w), (F.MBX_STAT_FULL c, 1), (F.MBX_STAT_MSG_EPOCH c, epoch), (F.MBX_STAT_POST_BEAT c, s.beat)]

/-- A MAILBOX message to the peer (Table 15.4): the word, the kind, the epoch and the channel at the other head. -/
def State.mbxSend (s : State) (w kind epoch c : Nat) : State := s.sendPeer 0x20 4 [w, kind, epoch, c]

/-- A post by a master (R603, R612). -/
def State.mbxPost (s : State) (m c w : Nat) : State :=
  if !s.mbxBound c then s
  else if s.get (F.MBX_BIND_SENDER c) ≠ m then s.raise (mbxSlot c) Cond.MBX_NOT_BOUND c
  else if s.mbxFull c then s.mbxRefused c Cond.MBX_POST_FULL
  else if 112 ≤ c ∧ c < 120 then
    if s.get F.PRL_STAT_REACHABLE = 1 then (s.mbxPlace c w (s.mbxEpoch m)).mbxSend w 0 (s.mbxEpoch m) (c + 8)
    else s.mbxRefused c Cond.MBX_PEER_ABSENT
  else s.mbxPlace c w (s.mbxEpoch m)

/-- A take by a master (R604, R613): the word and the state after it. -/
def State.mbxTake (s : State) (m c : Nat) : Nat × State :=
  if !s.mbxBound c then (0, s)
  else if s.get (F.MBX_BIND_RECEIVER c) ≠ m then (0, s.raise (mbxSlot c) Cond.MBX_NOT_BOUND c)
  else if !s.mbxFull c then (0, s)
  else
    let w := s.get (F.MBX_TAKE_WORD c)
    let s := s.setAll [(F.MBX_TAKE_WORD c, 0), (F.MBX_STAT_FULL c, 0)]
    (w, if 120 ≤ c then s.mbxSend 0 1 0 (c - 8) else s)

/-- UPD (59) and SVC (60) reach channels 0 to 31 and the locks through ports of their own; every other master goes through
the control window (R601). -/
def State.mbxBus (s : State) (m slot off : Nat) (isWrite : Bool) (f : State → State) : State :=
  if m = 59 ∨ m = 60 then (if slot = Slot.MBX ∨ slot = Slot.MBX + 1 ∧ 0x510 ≤ off then f s else s)
  else if isWrite then s.busWr m slot off f else s.busRd m slot off f

/-- `MBX_POST` (R603). -/
def execMbxPost (m c : Nat) (w : Word) (s : State) : Res :=
  .next (s.mbxBus m (mbxSlot c) (0x100 + 8 * (c % 32)) true (fun s => s.mbxPost m c w.toNat))

/-- Post an answer back to the master whose request came on a channel (R591): on the channel from `m` to that master. -/
def State.mbxAnswer (s : State) (m c w : Nat) : State :=
  let who := s.get (F.MBX_BIND_SENDER c)
  match (List.range 128).find? (fun k => s.mbxBound k && s.get (F.MBX_BIND_SENDER k) == m && s.get (F.MBX_BIND_RECEIVER k) == who) with
  | some k => s.mbxPost m k w
  | none => s

/-- Write the condition of a request into its block (R591): word 0, bits 47:32. -/
def State.blockCond (s : State) (addr cond : Nat) : State := s.wrLE (addr + 4) 2 cond

/-- A request word posted to the secure cores joins their queue as they take it: master 1 the key service, master 2 the
update service. A request that finds 64 waiting fails (R591, R622). -/
def State.svcTaken (s : State) (m c w : Nat) : State :=
  let fail (s : State) : State :=
    ((s.blockCond w Cond.KEY_SERVICE_BUSY).raise (Slot.SEC + 2) Cond.KEY_SERVICE_BUSY w).mbxAnswer m c (w + 1)
  if w % 256 ≠ 0 then s
  else if m = 1 then (if 65 ≤ s.mbx.keyQ.length then fail s else s.modMbx (fun x => { x with keyQ := x.keyQ ++ [(c, w)] }))
  else if m = 2 then (if 65 ≤ s.mbx.updQ.length then fail s else s.modMbx (fun x => { x with updQ := x.updQ ++ [(c, w)] }))
  else s

/-- `MBX_TAKE` (R604). -/
def execMbxTake (m c : Nat) (s : State) : Res :=
  .next (s.mbxBus m (mbxSlot c) (0x200 + 8 * (c % 32)) false (fun s =>
    let had := s.mbxBound c && s.get (F.MBX_BIND_RECEIVER c) == m && s.mbxFull c
    let (w, s) := s.mbxTake m c
    let s := s.answer w
    if had then s.svcTaken m c w else s))

/-- A write of `MBX_STAT[n]` (R605). -/
def State.mbxStat (s : State) (m c v : Nat) : State :=
  if !s.mbxBound c then s
  else
    let isS := s.get (F.MBX_BIND_SENDER c) == m
    let isR := s.get (F.MBX_BIND_RECEIVER c) == m
    if !isS && !isR then s.raise (mbxSlot c) Cond.MBX_NOT_BOUND c
    else
      let s := if isS && bitOf v 62 then s.set (F.MBX_STAT_DROPPED c) 0 else s
      let s := if isS && bitOf v 61 then s.set (F.MBX_STAT_REFUSED c) 0 else s
      if isR then s.set (F.MBX_STAT_DB_EN c) (bitsOf v 60 1) else s

/-- `MBX_STAT_WRITE` (R605). -/
def execMbxStatWrite (m c : Nat) (v : Word) (s : State) : Res :=
  .next (s.mbxBus m (mbxSlot c) (0x300 + 8 * (c % 32)) true (fun s => s.mbxStat m c v.toNat))

/-- Table 15.1: a sender and a receiver a channel may have (R601). -/
def bindOk (c snd rcv : Nat) : Bool :=
  let own (m : Nat) : Bool := m == 1 || m == 2 || m == 59 || m == 60
  let core (m : Nat) : Bool := decide (1 ≤ m) && decide (m ≤ 58)
  snd != rcv &&
    (if c < 32 then own snd && own rcv
     else if c < 112 then core snd && core rcv
     else if c < 120 then core snd && rcv == 61
     else snd == 61 && core rcv)

/-- A secure write of a binding (R602). -/
def State.mbxBind (s : State) (c : Nat) (valid : Bool) (snd rcv : Nat) : State :=
  if s.get F.MBX_BIND_LOCK_LOCKED = 1 then s.raise (mbxSlot c) Cond.MBX_BIND_LOCKED c
  else if s.mbxFull c || (valid && !bindOk c snd rcv) then s.raise (mbxSlot c) Cond.MBX_BIND_INVALID c
  else s.setAll [(F.MBX_BIND_VALID c, b2n valid), (F.MBX_BIND_SENDER c, snd), (F.MBX_BIND_RECEIVER c, rcv)]

/-- `MBX_BIND_WRITE` (R602). -/
def execMbxBindWrite (m c : Nat) (valid : Bool) (snd rcv : Nat) (s : State) : Res :=
  .next (s.busWr m (mbxSlot c) (0x400 + 8 * (c % 32)) (fun s =>
    if s.secureMaster m then s.mbxBind c valid snd rcv else s.deny (mbxSlot c) Cond.SECURE_ACCESS_DENIED))

/-- `MBX_BIND_LOCK` (R602). -/
def execMbxBindLock (m : Nat) (s : State) : Res :=
  .next (s.busWr m Slot.MBX 0x510 (fun s => s.set F.MBX_BIND_LOCK_LOCKED 1))

/-- `MBX_LOCK_READ` (R615): a free lock goes to the reader, which reads zero; SVC never takes one. -/
def execMbxLockRead (m k : Nat) (s : State) : Res :=
  .next (s.mbxBus m (Slot.MBX + 1) (0x510 + 8 * k) false (fun s =>
    let o := s.get (F.MBX_LOCK_OWNER k)
    let s := s.answer o
    if o = 0 ∧ ((1 ≤ m ∧ m ≤ 59) ∨ m = 62) then s.set (F.MBX_LOCK_OWNER k) m else s))

/-- `MBX_UNLOCK` (R616). -/
def execMbxUnlock (m k : Nat) (s : State) : Res :=
  .next (s.mbxBus m (Slot.MBX + 1) 0x590 true (fun s =>
    if s.get (F.MBX_LOCK_OWNER k) = m ∧ m ≠ 0 then s.set (F.MBX_LOCK_OWNER k) 0
    else s.raise (Slot.MBX + 1) Cond.MBX_LOCK_NOT_OWNER k))

/-! ### The peer's channels and resets of masters (R606 to R617) -/

/-- A MAILBOX message of the peer: a post fills an inbound channel; taken and dropped empty an outbound one (R612, R613). -/
def State.mbxFromPeer (s : State) (w kind epoch c : Nat) : State :=
  if kind = 0 then
    if 120 ≤ c ∧ c < 128 ∧ s.mbxBound c then
      if s.mbxFull c then s.mbxRefused c Cond.MBX_POST_FULL
      else (s.mbxPlace c w (s.mbxEpoch 61)).set (F.MBX_STAT_ORIG_EPOCH c) epoch
    else s
  else if 112 ≤ c ∧ c < 120 ∧ s.mbxFull c then
    if kind = 1 then s.setAll [(F.MBX_TAKE_WORD c, 0), (F.MBX_STAT_FULL c, 0)] else s.mbxDropped c
  else s

/-- Flush a full channel whose receiver has been reset (R607, R613). -/
def State.mbxFlush (s : State) (c : Nat) : State :=
  let s := s.mbxDropped c
  if 120 ≤ c ∧ s.get F.PRL_STAT_REACHABLE = 1 then s.mbxSend 0 2 0 (c - 8) else s

/-- A master is reset (R606 to R608, R617): its epoch counts, full channels toward it are flushed, its locks are freed and
broken. -/
def State.masterReset (s : State) (m : Nat) : State :=
  let s := s.modMbx (fun x => { x with epochs := AL.put m ((AL.getD m 0 x.epochs + 1) % 256) x.epochs })
  let s := ((List.range 128).filter (fun c => s.mbxBound c && s.mbxFull c && s.get (F.MBX_BIND_RECEIVER c) == m)).foldl
    (fun s c => s.mbxFlush c) s
  ((List.range 16).filter (fun k => s.get (F.MBX_LOCK_OWNER k) == m)).foldl (fun (s : State) k =>
    (s.set (F.MBX_LOCK_OWNER k) 0).set F.MBX_LOCK_STAT_BROKEN (s.get F.MBX_LOCK_STAT_BROKEN ||| 2 ^ k)) s

end Sys2Proof.Machine
end

