-- ==== Sys2Proof/Machine/Slice.lean ====
section
/-! DEFINITION. Chapters 8 and 14: the slices' key caches, the measurement registers, and digest jobs. -/

namespace Sys2Proof.Machine

/-- Change the security data. -/
def State.modSec (s : State) (f : SecSt → SecSt) : State := { s with sec := f s.sec }

/-! ### Key caches and the key bus (R355 to R358) -/

/-- The name under which a chunk's job pins a key: above every request's tag. -/
def jobPin (j : Nat) : Nat := 2 ^ 40 + j

/-- An entry is pinned by a job that has not ended (R357). -/
def State.keyPinned (s : State) (e : KeyEnt) : Bool :=
  e.tags.any (fun t => (s.req t).isSome || (decide (2 ^ 40 ≤ t) && AL.has (t - 2 ^ 40) s.write.jobs))

/-- The fetches a slice has outstanding. -/
def State.keyFetches (s : State) (i : Nat) : Nat := ((s.slice i).keys.filter (fun q => q.2.fetching)).length

/-- Make room among 512 entries: the unpinned entry used longest ago goes (R357). -/
def State.keyRoom (s : State) (i : Nat) : State :=
  if (s.slice i).keys.length < 512 then s else
    match minBy (fun q => q.2.useBeat) ((s.slice i).keys.filter (fun q => !s.keyPinned q.2 && !q.2.fetching)) with
    | some q => s.modSlice i (fun x => { x with keys := AL.del q.1 x.keys })
    | none => s

/-- Start a key fetch where one of the 16 is free. -/
def State.keyFetch (s : State) (i h : Nat) : State :=
  if 16 ≤ s.keyFetches i then s else
    let s := s.modSlice i (fun x => { x with keys := AL.upd h {} (fun e => { e with fetching := true }) x.keys })
    (s.bump (F.DSL_CPH_CNT_KEY_MISS_COUNT i)).bump F.KEY_CNT_FETCH_COUNT

/-- A job admitted on a slice asks for a key and pins its entry (R356, R357). -/
def State.keyAsk (s : State) (i tag h : Nat) : State :=
  match AL.get h (s.slice i).keys with
  | some e => s.modSlice i (fun x => { x with keys := AL.put h { e with tags := (e.tags.filter (· != tag)) ++ [tag], useBeat := s.beat } x.keys })
  | none =>
    let s := (s.keyRoom i).modSlice i (fun x => { x with keys := AL.put h { tags := [tag], useBeat := s.beat } x.keys })
    s.keyFetch i h

/-- A key is in a slice's cache: segments that name it may start (R356). -/
def State.keyReady (s : State) (i h : Nat) : Bool := ((AL.get h (s.slice i).keys).map (·.resident)).getD false

/-- A pass asks for its key, and goes once it is resident (R356). -/
def State.keyWait (s : State) (i tag h : Nat) : Bool × State := if s.keyReady i h then (true, s) else (false, s.keyAsk i tag h)

/-- KEY can send a handle's key: the handle stands, or is the salt of a vat, which the vat's entry holds (Table 8.4, R222). -/
def State.keyThere (s : State) (h : Nat) : Bool := AL.has h s.sec.handles || (hKind h == 2 && AL.has (h % 4096) s.vat.vats)

/-- The passes that use keys of a slice's cache (Table 8.4). -/
inductive KeyPass where
  | chunk | record | deliver | hmac
  deriving DecidableEq, Repr

/-- The kind of handle that a pass uses: 1 a vat's key, 3 the journal's, 4 a connection's, 5 a slot's (Table 8.4). -/
def KeyPass.kind : KeyPass → Nat
  | .chunk => 1
  | .record => 3
  | .deliver => 4
  | .hmac => 5

/-- A pass may use a handle of its kind only (R354). -/
def KeyPass.allows (p : KeyPass) (h : Nat) : Bool := hKind h == p.kind

/-- A pass that names a handle of another kind ends before its first segment (R354). -/
def State.useRefused (s : State) (h : Nat) : State := (s.raise Slot.KEY Cond.KEY_USE_REFUSED h).bump F.KEY_CNT_USE_REFUSED_COUNT

/-- A read whose key is gone goes to the slow path for want of it: what it holds returns, its pins are released and its fetches stop
(R113, R356). A retry resolves it again from the first part that is not whole (R114). -/
def State.keyGone (s : State) (t : Nat) : State :=
  match s.req t with
  | some r =>
    if r.kind = .read ∧ (r.stage = .fetching ∨ r.stage = .delivering) ∧ r.sources ≠ [] then
      let p := (r.sources.map (fun q => (q.1 - r.lba) / 64)).foldl min (r.part - 1)
      let s := ((s.reqGiveAll t).dropFetches t).unpin r r.pinned
      let before (l : Nat) : Bool := decide (l < r.lba + 64 * p)
      (s.modReq t (fun r => { r with
        sources := [], part := p, verified := [], ready := r.ready.filter (fun q => before q.1), zeroAt := r.zeroAt.filter before
        resolvedAs := r.resolvedAs.filter (fun q => before q.1), idxs := r.idxs.filter (fun q => before q.1)
        cdRecs := r.cdRecs.filter (fun c => before c.lba) })).goSlow t 5 (r.lba + 64 * p)
    else s
  | none => s

/-- A handle's key has been sent on the key bus or used in KEY. -/
def State.keyUsed (s : State) (h : Nat) : State :=
  if AL.has h s.sec.handles then
    s.modSec (fun k => { k with handles := AL.upd h {} (fun y => { y with uses := min (2 ^ 32 - 1) (y.uses + 1) }) k.handles })
  else s

/-- `KEY_FETCH_DONE` (R356, R587): KEY unwraps the entry and the key arrives; an entry whose unwrap fails raises `KEY_STORE_CORRUPT` and its handle is
treated as absent, so that reads that name it take the slow path for want of a key. -/
def execKeyFetchDone (i h : Nat) (s : State) : Res :=
  .next (match AL.get h (s.slice i).keys with
    | none => s
    | some e =>
      if !e.fetching then s
      else
        let s := if s.keyThere h && s.keyIntact h then
            (s.modSlice i (fun x => { x with keys := AL.put h { e with fetching := false, resident := true } x.keys })).keyUsed h
          else
            let s := (s.raise Slot.KEY Cond.KEY_STORE_CORRUPT h).bump F.KEY_CNT_UNWRAP_FAIL_COUNT
            let s := (s.keyRemove h).modSlice i (fun x => { x with keys := AL.del h x.keys })
            e.tags.foldl (fun (s : State) t => s.keyGone t) s
        match (s.slice i).keys.find? (fun q => !q.2.resident && !q.2.fetching) with
        | some q => s.keyFetch i q.1
        | none => s)

/-- The handle of a journal record: the journal key of the head that landed it (R136, R186). -/
def State.recHandle (s : State) (j : JRec) : Nat :=
  hJnl (if j.own ∧ j.tag < 2 ^ 32 then s.get F.FAB_ID_HID else s.get F.PRL_STAT_PEER_HID) j.gen

/-- `KEY_HANDLE_REMOVE` (R358): once no context of any slice names it, the handle goes, and every slice overwrites its entry. -/
def execKeyHandleRemove (h : Nat) (s : State) : Res :=
  .next (match AL.get h s.sec.handles with
    | none => s
    | some k =>
      if !k.removing || s.slices.any (fun q => ((AL.get h q.2.keys).map (fun e => s.keyPinned e)).getD false) then s
      else
        ({ (s.modSec (fun x => { x with handles := AL.del h x.handles })) with
          slices := AL.mapV (fun _ x => { x with keys := AL.del h x.keys }) s.slices }).bump F.KEY_CNT_REMOVE_COUNT)

/-- `SLICE_RNG_RESEED` (R363, R596): a slice's generator takes fresh random bits. -/
def execSliceRngReseed (_i : Nat) (s : State) : Res :=
  .next (if s.get F.SEC_DRBG_STAT_READY = 1 then s.draw256.2 else s)

/-- `DUMMY` and `SHUFFLE` of every slice follow `SEC_HARDEN` (R364). -/
def State.hardenAll (s : State) (dummy shuffle : Nat) : State :=
  let s := s.setAll [(F.SEC_HARDEN_DUMMY, dummy), (F.SEC_HARDEN_SHUFFLE, shuffle)]
  (List.range 16).foldl (fun (s : State) i => s.setAll [(F.DSL_CPH_HARDEN_DUMMY i, dummy), (F.DSL_CPH_HARDEN_SHUFFLE i, shuffle)]) s

/-- `SEC_HARDEN_WRITE` (R364): values above 4 dummy rounds are not defined; the field keeps them as written (log entry 35). -/
def execSecHardenWrite (m dummy : Nat) (shuffle : Bool) (s : State) : Res :=
  .next (s.busWr m (Slot.SEC + 2) 0x100 (fun s => s.hardenAll dummy (b2n shuffle)))

/-! ### Measurement registers (R578 to R583) -/

/-- The 32 bytes of an HMAC-SHA-256 under a key, in digest order. -/
def macBytes (key : Nat) (l : List Nat) : List Nat := beBytes 32 ((Config.hmac key 1 l).toNat % 2 ^ 256)

/-- Output bytes of an algorithm: 1 SHA-256, 2 SHA-384, 3 SHA-512. -/
def digestLen (alg : Nat) : Nat := if alg = 1 then 32 else if alg = 2 then 48 else 64

/-- The digest of bytes by an algorithm. -/
def digestOf (alg : Nat) (l : List Nat) : Nat :=
  if alg = 1 then (Config.sha256 l).toNat else if alg = 2 then (Config.sha384 l).toNat else (Config.sha512 l).toNat

/-- The algorithm of a measurement register (R578). -/
def msrAlg (k : Nat) : Nat := if k < 16 then 2 else 1

/-- A measurement register. -/
def State.msr (s : State) (k : Nat) : Msr := AL.getD k {} s.sec.msr

/-- Extend a register that is not locked: V becomes H(V followed by D) (R578). -/
def State.msrExtend (s : State) (k d : Nat) : State :=
  let x := s.msr k
  let n := digestLen (msrAlg k)
  if x.locked then s else
    (s.modSec (fun z => { z with msr := AL.put k { x with
      value := digestOf (msrAlg k) (beBytes n x.value ++ beBytes n d), extends_ := (x.extends_ + 1) % 2 ^ 32 } z.msr })).bump F.MSR_CNT_COUNT

/-- Lock a register (R581). -/
def State.msrLock (s : State) (k : Nat) : State :=
  s.modSec (fun z => { z with msr := AL.upd k {} (fun x => { x with locked := true }) z.msr })

/-- The result of a write of `MSR_EXTEND`; its interrupt is set when it changes. -/
def State.msrResult (s : State) (result cond : Nat) : State :=
  let was := s.get F.MSR_EXTEND_STAT_RESULT
  let s := s.setAll [(F.MSR_EXTEND_STAT_RESULT, result), (F.MSR_EXTEND_STAT_CONDITION, cond)]
  if was = result then s else s.irq Slot.MSR 1

/-- Why a master may not extend a register: 0 when it may. Registers 0 to 7 are for secure masters, register 7 only for a debug
unlock (R579, R580). -/
def State.msrRefusal (s : State) (secure : Bool) (k : Nat) : Nat :=
  if 23 < k ∨ (k < 8 ∧ !secure) ∨ k = 7 then Cond.MSR_EXTEND_REFUSED
  else if (s.msr k).locked then Cond.MSR_LOCKED else 0

/-- A write of `MSR_EXTEND` (R580, R581). -/
def State.msrWrite (s : State) (m k addr : Nat) (lock : Bool) : State :=
  if s.get F.MSR_EXTEND_STAT_BUSY = 1 then s.raise Slot.MSR Cond.MSR_BUSY k
  else
    let c := s.msrRefusal (s.secureMaster m) k
    if c ≠ 0 then (s.raise Slot.MSR c k).msrResult 2 c
    else if lock then (s.msrLock k).msrResult 1 0
    else (s.msrExtend k (ofBytes (s.bytesAt addr (digestLen (msrAlg k))))).msrResult 1 0

/-- `MSR_EXTEND` (R580). -/
def execMsrExtend (m k addr : Nat) (s : State) : Res :=
  .next (s.busWr m Slot.MSR 0x118 (fun s => s.msrWrite m k addr false))

/-- `MSR_LOCK` (R581). -/
def execMsrLock (m k : Nat) (s : State) : Res :=
  .next (s.busWr m Slot.MSR 0x118 (fun s => s.msrWrite m k 0 true))

/-! ### Digest jobs (R371 to R376, Table 8.6) -/

/-- A 64-bit word of HBM. -/
def State.word (s : State) (a : Nat) : Nat := Mem.rdLE a 8 s.mem

/-- A digest job's descriptor words. -/
def State.descWord (s : State) (a i : Nat) : Nat := s.word (a + 8 * i)

/-- The source list of a descriptor: (address, length) up to `ENTRIES` entries or the first of length 0. -/
def State.srcList (s : State) (a : Nat) : List (Nat × Nat) :=
  let w := s.descWord a 1
  let base := bitsOf w 4 44 * 16
  (((List.range (bitsOf w 56 8)).map (fun i => (bitsOf (s.word (base + 16 * i)) 0 48, bitsOf (s.word (base + 16 * i + 8)) 0 40)))).takeWhile
    (fun q => q.2 != 0)

/-- The measurement register a job names, when its `DEST` is 1. -/
def State.descMsr (s : State) (a : Nat) : Option Nat :=
  let w := s.descWord a 0
  if bitOf w 59 then some (bitsOf w 54 5) else none

/-- The checks of R373 and R582 on a descriptor, first failing first; 0 when all pass. -/
def State.descCheck (s : State) (a : Nat) (secure : Bool) : Nat :=
  let w (i : Nat) : Nat := s.descWord a i
  let alg := bitsOf (w 0) 60 4
  let entries := bitsOf (w 1) 56 8
  let msr := s.descMsr a
  let list := s.srcList a
  let reserved := bitsOf (w 0) 32 22 != 0 || bitsOf (w 1) 48 8 != 0 || bitsOf (w 1) 0 4 != 0 || bitsOf (w 2) 40 24 != 0
    || bitsOf (w 3) 48 16 != 0 || bitsOf (w 3) 0 6 != 0 || bitsOf (w 4) 48 16 != 0 || bitsOf (w 5) 8 56 != 0 || w 6 != 0 || w 7 != 0
  let far := !inHbm (bitsOf (w 1) 4 44 * 16) (16 * entries) || (msr.isNone && !inHbm (bitsOf (w 3) 6 42 * 64) 64)
    || !inHbm (bitsOf (w 4) 0 48) (bitsOf (w 5) 0 8) || list.any (fun q => !inHbm q.1 q.2)
  if alg = 0 ∨ 3 < alg ∨ (msr.map (fun k => decide (23 < k))).getD false ∨ entries = 0 ∨ 64 < entries ∨ 128 < bitsOf (w 5) 0 8
      ∨ reserved ∨ far then Cond.DIGEST_JOB_INVALID
  else if (list.map (·.2)).sum ≠ bitsOf (w 2) 0 40 then Cond.DIGEST_LENGTH_MISMATCH
  else match msr with
    | some k =>
      if alg ≠ msrAlg k then Cond.MSR_ALG_MISMATCH
      else s.msrRefusal secure k
    | none => 0

/-- The message of a job: the prefix and the list's data in order (R374). -/
def State.descBytes (s : State) (a : Nat) : List Nat :=
  s.bytesAt (bitsOf (s.descWord a 4) 0 48) (bitsOf (s.descWord a 5) 0 8) ++ (s.srcList a).flatMap (fun q => s.bytesAt q.1 q.2)

/-- Segments of a digest job's message; a keyed HMAC has one more for its outer digest. -/
def State.digestSegs (s : State) (r : Req) : Nat :=
  max 1 (ceilDiv (bitsOf (s.descWord r.lba 2) 0 40 + bitsOf (s.descWord r.lba 5) 0 8) 4096) + (if r.kind = .hmac then 1 else 0)

/-- Segments that a digest job has run. -/
def State.digestRan (s : State) (r : Req) : Nat := (s.slice r.slice).ran (.run r.tag 0)

/-- A digest job has run what it ends on: its first segment where its descriptor fails a check, else every segment (R373, R374). -/
def State.digestOver (s : State) (r : Req) (cond : Nat) : Bool := decide ((if cond = 0 then s.digestSegs r else 1) ≤ s.digestRan r)

/-- The result goes where `DEST` directs (R374). -/
def State.digestOut (s : State) (a d : Nat) : State :=
  match s.descMsr a with
  | some k => s.msrExtend k d
  | none =>
    let l := beBytes (digestLen (bitsOf (s.descWord a 0) 60 4)) d
    s.putBytes (bitsOf (s.descWord a 3) 6 42 * 64) (l ++ List.replicate (64 - l.length) 0)

/-- The DIG page of a slice. -/
def digSlot (i : Nat) : Nat := dslSlot i + 1

/-- The page a digest job's condition is raised on: the slice's DIG page, or the MSR page for conditions of MSR. -/
def digestCondSlot (i c : Nat) : Nat := if c / 256 = 0x0A then Slot.MSR else digSlot i

/-- A software digest job ends (R375, R376): a record is queued with its condition and bytes. -/
def State.digestEnd (s : State) (r : Req) (cond bytes : Nat) : State :=
  let i := r.slice
  let s := if cond = 0 then s else (s.raise (digestCondSlot i cond) cond r.lba).bump (F.DSL_DIG_CNT_FAIL_COUNT i)
  let s := (s.bump (F.DSL_DIG_CNT_JOBS_COUNT i)).bump (F.DSL_DIG_CNT_BYTES_COUNT i) bytes
  let s := s.modSlice i (fun x => { x with doneQ := x.doneQ ++ [⟨cond, bitsOf (s.descWord r.lba 0) 0 32, bytes⟩] })
  ((s.sampleDone r).dropReq r.tag).irqIs (digSlot i) 1 true

/-- `DIGEST_SUBMIT` (R371): a job for the slice waits in ADM, with the writer's right to the measurement registers. -/
def State.digestSubmit (s : State) (m i addr : Nat) : State :=
  if s.admFull then s.raise (digSlot i) Cond.DIGEST_SUBMIT_REFUSED addr
  else (s.newReq { tag := 0, kind := .digest, origin := .internal, lba := addr, blocks := 0, cls := 6, stage := .waiting, slice := i
                   compressed := s.secureMaster m } false).2

/-- A bus write of `DSL_DIG_SUBMIT`. -/
def execDigestSubmit (m i addr : Nat) (s : State) : Res :=
  .next (s.busWr m (digSlot i) 0x108 (fun s => s.digestSubmit m i addr))

/-- `DIG_DONE_Q_READ` (R376): the oldest record, whose byte count goes to `DSL_DIG_DONE_INFO`. -/
def execDigDoneQRead (m i : Nat) (s : State) : Res :=
  .next (s.busRd m (digSlot i) 0x118 (fun s => match (s.slice i).doneQ with
    | [] => s.answer 0
    | d :: t =>
      let s := (s.answer (2 ^ 63 + d.cond * 2 ^ 32 + d.jobTag)).set (F.DSL_DIG_DONE_INFO_BYTES i) d.bytes
      (s.modSlice i (fun x => { x with doneQ := t })).irqIs (digSlot i) 1 (!t.isEmpty)))

/-- Contexts of a pool (1 cipher, 2 digest) that a request holds on a slice: a Write's parts each on their own, a cipher context until
the part has landed (R46, R172). -/
def Req.ctxOn (r : Req) (pool i : Nat) : Nat :=
  if AL.getD pool 0 r.held = 0 then 0
  else if r.kind = .write then
    ((List.range r.part).filter (fun p => r.partSlices[p]? == some i && (pool == 2 || !r.partLanded p))).length
  else if r.slice = i then AL.getD pool 0 r.held else 0

/-- Contexts of a pool in use on a slice; digest contexts also by entered parts that CHK has not yet fingerprinted (R172). -/
def State.ctxUsed (s : State) (pool i : Nat) : Nat :=
  (s.adm.reqs.map (fun q => q.2.ctxOn pool i)).sum + (if pool = 2 then (s.write.digests.filter (fun q => q.2 == i)).length else 0)


end Sys2Proof.Machine
end

