-- ==== Sys2Proof/Machine/Write.lean ====
section
/-! DEFINITION. Chapter 4: writes before admission, the journal and its mirror, entry and acknowledgement, deferred
errors. -/

namespace Sys2Proof.Machine

/-! ### Checks before admission (R168 to R171) -/

/-- D and P of the home lease's shard; with both shards held, of the shard with the larger (D + P) / D. -/
def State.rsvCode (s : State) : Nat × Nat :=
  let own := (s.bandD s.side, s.bandP s.side)
  let other := (s.bandD (1 - s.side), s.bandP (1 - s.side))
  if s.leaseHeld 0 ∧ s.leaseHeld 1 ∧ (own.1 + own.2) * other.1 < (other.1 + other.2) * own.1 then other else own

/-- Band space for a Write part of `n` blocks: r = ⌈9 × n × (D + P) / D⌉ (R169). -/
def State.rsvUnits (s : State) (n : Nat) : Nat :=
  let (d, p) := s.rsvCode
  ceilDiv (9 * n * (d + p)) (max 1 d)

/-- `NO_SPACE`: the command ends with none of its blocks written (R170). -/
def State.noSpace (s : State) (tag : Nat) : State :=
  ((s.bump F.WRP_CNT_NOSPACE_COUNT).irq Slot.WRP 1).finish tag Cond.NO_SPACE

/-- Reserve space for the next part of a Write, and let it wait for admission (R169, R170). -/
def State.reservePart (s : State) (tag : Nat) : State :=
  match s.req tag with
  | none => s
  | some r =>
    if r.kind ≠ .write then s.modReq tag (fun r => { r with stage := .waiting })
    else
      let n := (r.partBlocks r.part).length
      let k := s.rsvUnits n
      if s.spaceFree < s.get F.WRP_SPACE_RSV_UNITS + k then (s.noSpace tag).wakeHeld
      else
        let s := ((s.set F.WRP_SPACE_RSV_UNITS (s.get F.WRP_SPACE_RSV_UNITS + k)).bump F.WRP_CNT_WRITES_COUNT).bump F.WRP_CNT_BLOCKS_COUNT n
        s.modReq tag (fun r => { r with stage := .waiting, rsv := r.rsv + k, rsvs := r.rsvs ++ [(r.part, k)] })

/-- The volume is the target of a loaded link, and the write does not come from the link's remote head or its peer (R557). -/
def State.targetRefusal (s : State) (r : Req) : Bool :=
  let hid := match r.origin with
    | .ldt n _ => ((AL.get n s.ldt.conns).bind (fun x => (s.fab.members.find? (fun q => q.2.v4 == some x.peerAddr || q.2.v6 == some x.peerAddr)).map (·.1)))
    | _ => none
  s.fab.links.any (fun q => q.2.target && q.2.localVol == r.vol && q.2.st != 6
    && !(match hid with | some h => h / 2 == q.2.remoteHid / 2 | none => false))

/-- The first check of R168 that a command fails, 0 for none. -/
def State.writeRefusal (s : State) (r : Req) : Nat :=
  let ldt := match r.origin with | .ldt _ _ => true | _ => false
  match s.liveVol r.vol with
  | none => Cond.VOLUME_ABSENT
  | some v =>
    if r.lbas.any (fun q => decide (v.sizeM1 + 1 < q.1 + q.2)) then Cond.LBA_OUT_OF_RANGE
    else
      let c := s.ioRefusal r.vol ldt r.granted true false
      if c ≠ 0 then c else if s.targetRefusal r then Cond.REP_TARGET_READ_ONLY else s.anaRefusal

/-- ADM holds new writes to a volume while a link switches (R565). -/
def State.repHolds (s : State) (vol : Nat) : Bool := s.fab.links.any (fun q => !q.2.target && q.2.mode == 1 && q.2.st == 4 && q.2.localVol == vol)

/-- Check a Write, Write Zeroes or deallocate (R168, R171, R145). -/
def State.writeCheck (s : State) (tag : Nat) : State :=
  match s.req tag with
  | none => s
  | some r =>
    if s.isHeld r || s.repHolds r.vol then s.modReq tag (fun r => { r with stage := .held })
    else
      let c := s.writeRefusal r
      if c ≠ 0 then (s.finish tag c).wakeHeld
      else if r.kind = .write then s.reservePart tag
      else if 4096 ≤ s.write.ranges.length then s
      else (s.modWrite (fun w => { w with ranges := w.ranges ++ [tag] })).reservePart tag

/-- A command that changes blocks. -/
def Req.changes (r : Req) : Bool := r.kind == .write || r.kind == .zeroes || r.kind == .dealloc

/-- `WRITE_COMMAND` (R168 to R171). -/
def execWriteCommand (tag : Nat) (s : State) : Res :=
  .next (match s.req tag with
    | some r => if r.changes ∧ (r.stage = .resolving ∨ r.stage = .held) then s.writeCheck tag else s
    | none => s)

/-! ### Landing (R174 to R180) -/

/-- The free slot a record takes: in the own ring, or in either once both are own (R174, R176). -/
def State.freeSlot (s : State) : Nat :=
  let own := s.side * ringUnits
  let both := s.get F.JNL_STAT_RINGS = 2 ∧ s.pair.hand = .none
  let n := if both then 2 * ringUnits else ringUnits
  let base := if both then 0 else own
  let start := s.write.nextSlot
  let cand := (List.range (s.write.recs.length + 1)).map (fun i => base + (start + i) % n)
  (cand.find? (fun k => !AL.has k s.write.recs)).getD own

/-- Descriptor words 0 to 3 of a record (Table 4.2). -/
def JRec.head (j : JRec) : List Nat :=
  [j.seq % 2 ^ 64, j.typ * 2 ^ 60 + j.vol * 2 ^ 38 + j.lba, j.assoc * 2 ^ 32 + j.tag, j.ranges.length * 2 ^ 48 + j.beat % 2 ^ 48]

/-- The same as one number. -/
def JRec.desc (j : JRec) : Nat := (j.head.zipIdx).foldl (fun v (q : Nat × Nat) => v + q.1 * 2 ^ (64 * q.2)) 0

/-- Descriptor words 0 to 6: with `TAG` and `CHECK`, CRC-32C over words 0 to 5 (Table 4.2). -/
def JRec.words (j : JRec) : List Nat :=
  let l := j.head ++ [j.gtag % 2 ^ 64, j.gtag / 2 ^ 64 % 2 ^ 64]
  l ++ [crcWords l]

/-- The unit of a record: its block, or its ranges, 16 bytes each. -/
def JRec.unit (j : JRec) : Nat :=
  if j.typ = 1 then j.data else (j.ranges.zipIdx).foldl (fun v (q : (Nat × Nat) × Nat) => v + (q.1.1 + q.1.2 * 2 ^ 64) * 2 ^ (128 * q.2)) 0

/-- The nonce of a record: HID, journal generation and `SEQ` (R178). -/
def JRec.nonce (j : JRec) (hid : Nat) : Nat := hid % 2 ^ 16 * 2 ^ 80 + j.gen % 2 ^ 16 * 2 ^ 64 + j.seq % 2 ^ 64

/-- The journal key of a head and generation. -/
def State.jnlKey (s : State) (hid gen : Nat) : Nat := ((AL.get (hJnl hid gen) s.sec.handles).map (·.value)).getD 0

/-- Encrypt a record's unit under the journal key of the head that writes it: its descriptor takes the tag (R178). `data` and `ranges`
hold the unit decrypted; the unit as it stands in HBM is `cipher`. -/
def State.sealRec (s : State) (hid : Nat) (j : JRec) : JRec :=
  { j with gtag := (Config.gcmSeal (s.jnlKey hid j.gen) (j.nonce hid) j.desc j.unit).toNat }

/-- A unit under a record's key and nonce: encrypted, or an encrypted one decrypted (R178). -/
def State.cipher (s : State) (hid : Nat) (j : JRec) (unit : Nat) : Nat := unit ^^^ Config.gcmStream (s.jnlKey hid j.gen) (j.nonce hid) 4096

/-- A record of this head as MIRROR carries it: slot, descriptor, the count and the place of its command's records, encrypted unit. -/
def State.mirrorArgs (s : State) (slot : Nat) (j : JRec) : List Nat :=
  [slot + j.gen * 2 ^ 32, j.cmdCount + j.cmdIdx * 2 ^ 32] ++ j.words ++ [s.cipher (s.get F.FAB_ID_HID) j j.unit]
/-- Land one record of a command: its slot, sequence number and, in PAIRED, its mirror (R178, R180). -/
def State.landRec (s : State) (r : Req) (typ lba data idx count : Nat) (ranges : List (Nat × Nat)) : State :=
  let k := s.freeSlot
  let j : JRec := {
    seq := s.write.nextSeq, typ := typ, vol := r.vol, lba := lba, assoc := r.assoc, tag := r.tag, ranges := ranges
    beat := s.beat, state := 1, data := data, own := true, gen := s.get F.JNL_KEY_STAT_JGEN, cmdCount := count, cmdIdx := idx }
  let j := s.sealRec (s.get F.FAB_ID_HID) j
  let s := s.modWrite (fun w => { w with recs := AL.put k j w.recs, nextSeq := w.nextSeq + 1, nextSlot := (k + 1) % (2 * ringUnits) })
  let s := ((s.modReq r.tag (fun r => { r with recs := r.recs ++ [k] })).bump F.JNL_CNT_LAND_COUNT).set F.JNL_SEQ_NEXT s.write.nextSeq
  let s := if typ = 1 then s.bump (F.DSL_CPH_CNT_SEG_COUNT r.slice) else s
  if s.mode = .paired ∨ s.pair.hand = .handbackDraining then s.sendPeer 0x10 1 (s.mirrorArgs k j) else s

/-! ### Entry (R181, R184 to R186) -/

/-- The records a command has in all. -/
def Req.recordCount (r : Req) : Nat := if r.kind = .write then r.blocks else 1

/-- A command's records may enter: all have landed and, in PAIRED, all are mirrored. -/
def State.mayEnter (s : State) (r : Req) : Bool :=
  decide (r.recordCount ≤ r.recs.length) && (s.mode != .paired || r.recs.all (fun k => r.mirrorAcks.contains k))

/-- A record's state. -/
def State.modRec (s : State) (k : Nat) (f : JRec → JRec) : State :=
  match AL.get k s.write.recs with
  | some j => s.modWrite (fun w => { w with recs := AL.put k (f j) w.recs })
  | none => s

/-- A record is pinned: a read of either head uses it (R112). -/
def State.recPinned (s : State) (k : Nat) : Bool :=
  s.pair.peerPins.contains (0, k)
    || s.adm.reqs.any (fun q => q.2.sources.any (fun x => x.2 == .journal k || x.2 == .peerJournal k))

/-- Retire a record: its unit returns to pool 5 and the peer is told (R209). A record of the peer's ring, replayed at a
takeover, took no unit of this head: the standing hold covers it (R175, R176). -/
def State.retireRec (s : State) (k : Nat) : State :=
  match AL.get k s.write.recs with
  | none => s
  | some j =>
    if s.recPinned k then s.modRec k (fun j => { j with state := if j.state = 3 then 3 else 5 })
    else
      let s := s.modWrite (fun w => { w with recs := AL.del k w.recs })
      if j.own then
        let s := (if k / ringUnits = s.side ∨ s.get F.JNL_STAT_RINGS = 2 then s.poolGive 5 1 else s).bump F.JNL_CNT_RETIRE_COUNT
        if s.mode = .paired then s.modWrite (fun w => { w with retireNotes := w.retireNotes ++ [k] }) else s
      else s

/-- Records this head may retire that are not pinned any longer: superseded ones and those that wait in retiring. -/
def State.retireReady (s : State) : State :=
  (s.write.recs.filter (fun q => q.2.own && (q.2.state == 3 || q.2.state == 5) && !q.2.fetchWait)).foldl (fun s q => s.retireRec q.1) s

/-- The blocks of a record. -/
def JRec.blockRanges (j : JRec) : List (Nat × Nat) := if j.typ = 1 then [(j.lba, 1)] else j.ranges

/-- A snapshot of a volume, taken or accepted, lies between two beats: what entered at the first belongs to it, what entered at the second
does not (R242). -/
def State.cutBetween (s : State) (vol b c : Nat) : Bool :=
  s.vat.snaps.any (fun q => q.2.vol == vol && decide (b < q.2.beat) && decide (q.2.beat ≤ c))
    || s.vat.cmds.any (fun x => x.snp && x.op == 1 && x.args.any (fun q => q % 65536 == vol) && decide (b < x.applyBeat) && decide (x.applyBeat ≤ c))

/-- What a record that enters supersedes (R186): earlier DATA records of its blocks, and those blocks of earlier ranges. A record that a
snapshot between the two holds is still to be committed, for the snapshot (R242; log entry 170). -/
def State.supersede (s : State) (k : Nat) (j : JRec) : State :=
  let old := s.write.recs.filter (fun q => q.1 != k && (q.2.state == 2 || q.2.state == 4) && decide (0 < q.2.entryNo) && q.2.entryNo < j.entryNo
    && !(q.2.state == 2 && s.cutBetween q.2.vol q.2.entBeat j.entBeat))
  old.foldl (fun s q =>
    if q.2.typ = 1 then (if j.covers q.2.vol q.2.lba then (s.modRec q.1 (fun x => { x with state := 3 })).bump F.JNL_CNT_SUPERSEDE_COUNT else s)
    else if q.2.vol = j.vol ∧ j.blockRanges.any (fun a => q.2.ranges.any (fun b => decide (a.1 < b.1 + b.2) && decide (b.1 < a.1 + a.2))) then
      s.modRec q.1 (fun x => { x with holes := x.holes ++ j.blockRanges })
    else s) s

/-- One record enters the journal; a record of a volume that is being deleted retires without being chunked (R233). -/
def State.enterRec (s : State) (k : Nat) : State :=
  let s := s.modWrite (fun w => { w with nextEntry := w.nextEntry + 1 })
  let s := s.modRec k (fun j =>
    let gone := ((AL.get j.vol s.vat.vols).map (fun v => v.state == 2)).getD false
    { j with state := if gone then 5 else 2, chunked := j.chunked || gone, entryNo := s.write.nextEntry - 1, entBeat := s.beat })
  match AL.get k s.write.recs with
  | some j => s.supersede k j
  | none => s

/-- An association writes to a volume: it is among the 64 kept, or the overflow mark stands for it (R215). -/
def State.wrote (s : State) (assoc vol : Nat) : State :=
  s.modWrite (fun w => { w with writers := AL.upd vol {} (fun x =>
    if x.assocs.contains assoc then x else if x.assocs.length < 64 then { x with assocs := x.assocs ++ [assoc] } else { x with ovf := true }) w.writers })

/-- What passes from a part of a command that enters to the chunking of its records, by tag and part. -/
def partKey (tag part : Nat) : Nat := tag * 65536 + part

/-- The records of a command enter together, in this beat; it has reached its resolve point (R146, R181), and its association has
written to the volume (R215). The space its parts reserved and their digest contexts pass to the chunking of its records. -/
def State.enterCmd (s : State) (tag : Nat) : State :=
  match s.req tag with
  | none => s
  | some r =>
    let s := r.recs.foldl (fun s k => s.enterRec k) s
    let s := s.modWrite (fun w => { w with
      enteredNow := if s.mode = .paired then w.enteredNow ++ r.recs else w.enteredNow
      rsv := r.rsvs.foldl (fun m q => AL.put (partKey tag q.1) q.2 m) w.rsv
      digests := if r.kind ≠ .write ∨ AL.getD 2 0 r.held = 0 then w.digests
        else (r.partSlices.zipIdx).foldl (fun m (q : Nat × Nat) => AL.put (partKey tag q.2) q.1 m) w.digests })
    let s := if r.kind = .write then s else s.reqGive tag 2
    let s := if r.assoc = 0 then s else s.wrote r.assoc r.vol
    let s := s.modReq tag (fun r => { r with
      stage := .entered, endBeat := s.beat, rsv := 0, rsvs := [], held := AL.del 5 (AL.del 2 r.held), content := [] })
    s.retireReady.wakeHeld

/-- Enter a command's records once they may. -/
def State.tryEnter (s : State) (tag : Nat) : State :=
  match s.req tag with
  | some r => if r.stage = .awaitMirror ∧ s.mayEnter r then s.enterCmd tag else s
  | none => s

/-- A range command waits for its key or a segment. -/
def State.landWait (s : State) (tag : Nat) : State := s.modReq tag (fun r => { r with stage := .awaitData, inWait := [(0, 0)] })

/-- Land the record of a Write Zeroes or deallocate that ADM has admitted, once the journal key is in the slice (R356) and the slice has a
segment for it; till then it waits. -/
def State.landRange (s : State) (tag : Nat) : State :=
  match s.req tag with
  | none => s
  | some r =>
    if !s.keyReady r.slice (hJnl (s.get F.FAB_ID_HID) (s.get F.JNL_KEY_STAT_JGEN)) then s.landWait tag else
      let (ran, s) := s.segRun r.slice [0] (.run tag 0) 1 tag false
      if !ran then s.landWait tag else
        let s := (s.landRec r (if r.kind = .zeroes then 2 else 3) (((r.lbas.head?).map (·.1)).getD r.lba) 0 0 1 r.lbas).reqGive tag 1
        (s.modReq tag (fun r => { r with stage := .awaitMirror, dataIn := true, inWait := [] })).tryEnter tag

/-- A block of a Write has gone through its slice and its record lands; with a part's last block its cipher context returns (R46). -/
def State.landRun (s : State) (r : Req) (idx data : Nat) : State :=
  let s := (s.landRec r 1 (r.lba + idx) data idx r.blocks []).bump F.WRP_CNT_BYTES_IN_COUNT 4096
  let s := s.modReq r.tag (fun r => { r with content := r.content ++ [(idx, 0)], inWait := r.inWait.filter (fun q => q.1 != idx) })
  let s := if ((s.req r.tag).map (fun r => r.partLanded (idx / 64))).getD false then s.givePart r.tag 1 1 else s
  if r.content.length + 1 = r.blocks then (s.modReq r.tag (fun r => { r with stage := .awaitMirror })).tryEnter r.tag else s

/-- The slice of the part that a block belongs to. -/
def Req.sliceOf (r : Req) (idx : Nat) : Nat := r.partSlices.getD (idx / 64) r.slice

/-- The journal pass of a block: it runs once the journal key is in the slice (R356) and the slice has a segment for it (R345 to R347);
till then the block waits. -/
def State.landGo (s : State) (tag idx data : Nat) : State :=
  match s.req tag with
  | none => s
  | some r =>
    let i := r.sliceOf idx
    if !s.keyReady i (hJnl (s.get F.FAB_ID_HID) (s.get F.JNL_KEY_STAT_JGEN)) then s else
      let (ran, s) := s.segRun i [0] (.run tag idx) 1 tag false
      if ran then s.landRun r idx data else s

/-- Blocks and ranges that wait for their slice go on. -/
def State.landsGoOn (s : State) : State :=
  (s.adm.reqs.filter (fun q => q.2.inWait != [])).foldl (fun s q =>
    if q.2.kind = .write then q.2.inWait.foldl (fun s b => s.landGo q.1 b.1 b.2) s else s.landRange q.1) s

/-- A block of a Write's data has come; with the command's last the count of its budget begins (Table 1.3); that of data which came in the
command's capsule has begun with the command. A Write that has ended takes no more data (R183). -/
def State.landBlock (s : State) (tag idx data : Nat) : State :=
  match s.req tag with
  | none => s
  | some r =>
    if (r.content ++ r.inWait).any (fun q => q.1 == idx) || decide (r.blocks ≤ idx) || !(r.stage == .awaitData || r.stage == .waiting) then s else
    let isLast := r.content.length + r.inWait.length + 1 == r.blocks
    let s := s.modReq tag (fun r => { r with inWait := r.inWait ++ [(idx, data)], bytesIn := r.bytesIn + 4096 })
    let s := if isLast then (if r.dataIn then s else s.modReq tag (fun r => { r with
      dataIn := true, countBeat := s.beat, deadline := s.beat + r.budgets.getD 4 0 })) else s
    s.landGo tag idx data

/-- The range overlay gives up the entries of commands whose records have landed their last update record, once it has entered
(R211). -/
def State.rangesTrim (s : State) : State :=
  let landing (t : Nat) : Bool := s.write.recs.any (fun q => q.2.own && q.2.tag == t && q.2.typ != 1 && !q.2.chunked)
  let names (t : Nat) (u : URec) : Bool := match u.slot with
    | some k => ((AL.get k s.write.recs).map (fun j => j.tag == t)).getD false
    | none => false
  let entering (t : Nat) : Bool := s.write.upd.any (fun q => q.2.own && !q.2.entered &&
    (names t q.2 || q.2.group != 0 && s.write.upd.any (fun u => u.2.own && u.2.group == q.2.group && names t u.2)))
  let before (t : Nat) : Bool := ((s.req t).map (fun r => !r.resolved)).getD false
  s.modWrite (fun w => { w with ranges := w.ranges.filter (fun t => before t || landing t || entering t) })

/-- Own update records enter in USEQ order once acknowledged (R206, R263). -/
def State.enterUpdates (s : State) : State :=
  let waiting := s.write.upd.filter (fun q => q.2.own && !q.2.acked && !q.2.entered)
  let lim := (waiting.map (·.1)).head?
  (s.modWrite (fun w => { w with upd := w.upd.map (fun q =>
    if q.2.own && q.2.acked && !q.2.entered && (match lim with | none => true | some l => decide (q.1 < l)) then (q.1, { q.2 with entered := true })
    else q) })).rangesTrim

/-- On the entry to SOLO every landed record enters without a mirror, update records too (R184, R185, R206). -/
def State.enterAll (s : State) : State :=
  let s := (s.modWrite (fun w => { w with upd := w.upd.map (fun q => if q.2.own then (q.1, { q.2 with acked := true }) else q) })).enterUpdates
  (s.adm.reqs.filter (fun q => q.2.stage == .awaitMirror)).foldl (fun s q => s.tryEnter q.1) s
/-! ### Mirrors of the peer (R180, R264, R265) -/

/-- The record that MIRROR or SYNC_DATA brings, decrypted: its descriptor's fields and its unit (Table 4.2, R178). -/
def State.jrecOf (s : State) (d : List Nat) (gen count idx unit : Nat) : JRec :=
  let w (k : Nat) : Nat := d.getD k 0
  let j : JRec := {
    seq := w 0, typ := bitsOf (w 1) 60 4, vol := bitsOf (w 1) 38 16, lba := bitsOf (w 1) 0 38, assoc := bitsOf (w 2) 32 32
    tag := bitsOf (w 2) 0 32, beat := bitsOf (w 3) 0 48, gtag := w 4 % 2 ^ 64 + w 5 % 2 ^ 64 * 2 ^ 64, state := 1, own := false
    gen := gen, cmdCount := count, cmdIdx := idx }
  let p := s.cipher (s.get F.PRL_STAT_PEER_HID) j unit
  if j.typ = 1 then { j with data := p }
  else { j with ranges := (List.range (bitsOf (w 3) 48 9)).map (fun i => (bitsOf p (128 * i) 38, bitsOf p (128 * i + 64) 32)) }

/-- `CHECK` of descriptor words 0 to 6 holds (Table 4.2). -/
def descOk (d : List Nat) : Bool := d.getD 6 0 % 2 ^ 32 == crcWords ((List.range 6).map (fun k => d.getD k 0))

/-- `PEER_MIRROR_RX` (R180): the record is stored at the same slot and acknowledged; one whose check fails is named in the
acknowledgement, to be sent again (log entry 26). A data record's `CHECK` is computed; `ok` says whether that of another holds. -/
def execPeerMirrorRx (rec : MirrorRec) (ok : Bool) (s : State) : Res :=
  .next (match rec with
    | .data slot d gen count idx unit =>
      if descOk d then
        (s.modWrite (fun w => { w with recs := AL.put slot (s.jrecOf d gen count idx unit) w.recs })).sendPeer 0x11 2 [0, slot, 1]
      else s.sendPeer 0x11 2 [0, slot, 0]
    | .update useq v =>
      if ok then (s.modWrite (fun w => { w with upd := AL.put useq { val := v, own := false, beat := useq / 65536 } w.upd })).sendPeer 0x11 2 [1, useq, 1]
      else s.sendPeer 0x11 2 [1, useq, 0]
    | .cursor vol snap page =>
      if ok then ({ s with fab := { s.fab with cursors := AL.put vol (snap, page) s.fab.cursors } }).sendPeer 0x11 2 [2, vol, 1]
      else s.sendPeer 0x11 2 [2, vol, 0])

/-- One data record has its mirror acknowledgement. -/
def State.mirrored (s : State) (k : Nat) : State :=
  match AL.get k s.write.recs with
  | none => s
  | some j =>
    if j.own && !j.mirrored && j.state == 1 then
      let s := (s.modRec k (fun j => { j with mirrored := true })).bump F.JNL_CNT_MIRROR_COUNT
      (s.modReq j.tag (fun r => { r with mirrorAcks := r.mirrorAcks ++ [k] })).tryEnter j.tag
    else s

/-- `PEER_MIRROR_ACK_RX` (R180, R181): records acknowledged enter when their command is whole; those refused are sent
again. -/
def execPeerMirrorAckRx (slots useqs bad badUseqs : List Nat) (s : State) : Res :=
  .next (
    let s := slots.foldl (fun s k => s.mirrored k) s
    let s := s.modWrite (fun w => { w with upd := w.upd.map (fun q =>
      if q.2.own && useqs.contains q.1 then (q.1, { q.2 with acked := true }) else q) })
    let s := s.enterUpdates
    let s := bad.foldl (fun s k => match AL.get k s.write.recs with
      | some j => if j.own && j.state == 1 then s.sendPeer 0x10 1 (s.mirrorArgs k j) else s
      | none => s) s
    badUseqs.foldl (fun s u => match AL.get u s.write.upd with
      | some r => if r.own && !r.acked then s.sendPeer 0x10 1 (u :: r.val.words) else s
      | none => s) s)

/-- `JNL_MIRROR_TIMEOUT` (R184): once per command, when the first of its records has waited `MIRROR_TMO` beats. -/
def execJnlMirrorTimeout (tag : Nat) (s : State) : Res :=
  .next (
    let mine := s.write.recs.filter (fun q => q.2.own && q.2.tag == tag && q.2.state == 1)
    let lateRec := mine.any (fun q => !q.2.mirrored && decide (q.2.beat + s.get F.JNL_CFG_MIRROR_TMO ≤ s.beat))
    if lateRec ∧ !mine.any (fun q => q.2.tmoRaised) ∧ s.mode = .paired then
      let s := s.modWrite (fun w => { w with recs := w.recs.map (fun q =>
        if q.2.own && q.2.tag == tag && q.2.state == 1 then (q.1, { q.2 with tmoRaised := true }) else q) })
      (s.raise Slot.JNL Cond.JNL_MIRROR_TIMEOUT tag).irq Slot.JNL 1
    else s)

/-- The peer's ENTRY notice of a beat is held: the first sets where they begin, and the others carry on from it without a gap (R264). -/
def State.entryNote (s : State) (beat : Nat) : State :=
  s.modPair (fun p =>
    if p.entryBeat = 0 then { p with entryBeat := beat }
    else
      let l := (p.entryMore.filter (· != beat)) ++ [beat]
      let top := (List.range l.length).foldl (fun b _ => if l.contains (b + 1) then b + 1 else b) p.entryBeat
      { p with entryBeat := top, entryMore := l.filter (fun b => decide (top < b)) })

/-- `PEER_ENTRY_RX` (R264): the peer's records that entered in a beat enter here too. -/
def execPeerEntryRx (beat : Nat) (slots : List Nat) (s : State) : Res :=
  .next ((slots.foldl (fun s k => match AL.get k s.write.recs with
    | some j => if !j.own && j.state == 1 then s.enterRec k else s
    | none => s) s).entryNote beat).retireReady

/-- `PEER_HORIZON_RX` (R265): every update record the peer landed up to the horizon has reached this head, and has
entered. -/
def execPeerHorizonRx (beat : Nat) (s : State) : Res :=
  .next (
    let s := s.set F.PRL_PEER_HORIZON_BEAT (max beat (s.get F.PRL_PEER_HORIZON_BEAT))
    s.modWrite (fun w => { w with upd := w.upd.map (fun q =>
      if !q.2.own && decide (q.2.beat ≤ beat) then (q.1, { q.2 with entered := true }) else q) }))

/-- `PEER_RETIRE_RX` (R209): mirror slots of the peer's retired records are freed. -/
def execPeerRetireRx (slots : List Nat) (s : State) : Res :=
  .next (s.modWrite (fun w => { w with recs := w.recs.filter (fun q => q.2.own || !slots.contains q.1) }))

/-- `PEER_PIN_RX` (R112). -/
def execPeerPinRx (kind id : Nat) (s : State) : Res :=
  .next (s.modPair (fun p => { p with peerPins := p.peerPins ++ [(kind, id)] }))

/-- `PEER_UNPIN_RX` (R112): one pin of the peer is released, and what it held back may retire. -/
def execPeerUnpinRx (kind id : Nat) (s : State) : Res :=
  .next ((s.modPair (fun p => { p with peerPins := p.peerPins.erase (kind, id) })).retireReady)

/-- `PEER_REC_FETCH_RX` (R136): answered with this head's copy. -/
def execPeerRecFetchRx (slot : Nat) (s : State) : Res :=
  .next (match AL.get slot s.write.recs with
    | some j => s.sendPeer 0x13 3 [slot, 1, s.cipher (s.get F.PRL_STAT_PEER_HID) j j.unit]
    | none => s.sendPeer 0x13 3 [slot, 0, 0])

/-! ### Deferred errors (R189, R212 to R217) -/

/-- Drive the deferred-error interrupt source and its count (Table 4.11). -/
def State.defIrq (s : State) : State :=
  (s.irqIs (Slot.JNL + 1) 1 (!s.write.defLog.isEmpty)).set F.JNL_DEF_STAT_ENTRIES s.write.defLog.length

/-- Give an association a pending notice for a namespace, or count it where the table is full (R215, R216). -/
def State.notice (s : State) (assoc vol : Nat) : State :=
  if s.write.notices.contains (assoc, some vol) then s
  else if s.write.notices.length < 4096 then s.modWrite (fun w => { w with notices := w.notices ++ [(assoc, some vol)] })
  else (s.modWrite (fun w => { w with noticesOvf := w.noticesOvf ++ [assoc] })).satInc F.WRP_NOTICE_STAT_OVF 1

/-- An association ends: what it has written and what it is still to be told count no longer (R215, R216). -/
def State.assocGone (s : State) (a : Nat) : State :=
  s.modWrite (fun w => { w with
    writers := AL.mapV (fun _ x => { x with assocs := x.assocs.filter (· != a) }) w.writers
    notices := w.notices.filter (fun n => n.1 != a), noticesOvf := w.noticesOvf.filter (· != a) })

/-- The associations that receive a notice for a volume: those that wrote it, or with the overflow mark every association
with the namespace attached (R215). -/
def State.notified (s : State) (vol : Nat) (attached : List Nat) : List Nat :=
  match AL.get vol s.write.writers with
  | some w => if w.ovf then (w.assocs ++ attached).eraseDups else w.assocs
  | none => []

/-- A deferred error for a range (R213, R215, R217). -/
def State.deferError (s : State) (cause vol lba count : Nat) : State :=
  let e : DefEnt := { cause := cause, vol := vol, lba := lba, count := count, beat := s.beat }
  let s := if s.write.defLog.length < 256 then s.modWrite (fun w => { w with defLog := w.defLog ++ [e] })
    else (s.modWrite (fun w => { w with defLog := w.defLog.tail ++ [e] })).satInc F.JNL_DEF_STAT_OVF 1
  let s := ((s.defIrq).bump F.JNL_CNT_DEFERRED_COUNT count).sample 33 count
  (s.notified vol (s.assocsWith vol)).foldl (fun (s : State) a =>
    let s := s.notice a vol
    match s.ctrlOf a with
    | some k => s.queueEvent k (7, 0, 0xC0)
    | none => s) s

/-- The pending notice that an I/O command takes, and the state without it (R216). -/
def State.takeNotice (s : State) (assoc vol : Nat) : Option State :=
  if s.write.notices.contains (assoc, some vol) then
    some (s.modWrite (fun w => { w with notices := w.notices.erase (assoc, some vol) }))
  else if s.write.noticesOvf.contains assoc then
    some (s.modWrite (fun w => { w with noticesOvf := w.noticesOvf.erase assoc }))
  else none

/-- `JNL_DEF_Q_READ` (R217). -/
def execJnlDefQRead (m : Nat) (s : State) : Res :=
  .next (s.busRd m (Slot.JNL + 1) 0x100 (fun s =>
    match s.write.defLog with
    | [] => s.answer 0
    | e :: t => (((s.answer (2 ^ 63 + e.cause * 2 ^ 60 + e.vol * 2 ^ 32 + e.beat % 2 ^ 32)).modWrite (fun w => { w with defLog := t })).setAll
        [(F.JNL_DEF_INFO_COUNT, e.count), (F.JNL_DEF_INFO_LBA, e.lba)]).defIrq))

/-- A record of this head is lost: its blocks read as failed until they are superseded; the log takes an entry for each range (R189,
R213, R214). -/
def State.recLost (s : State) (k : Nat) (cause : Nat) : State :=
  match AL.get k s.write.recs with
  | none => s
  | some j => j.blockRanges.foldl (fun s q => s.deferError cause j.vol q.1 q.2) (s.modRec k (fun j => { j with state := 4, chunked := true, fetchWait := false }))

/-- REC_DATA (R136, R189): the mirror copy, encrypted as it stands in HBM, serves the reads whose own check failed and CHK, or they
fail. -/
def State.recDataCame (s : State) (slot data : Nat) (ok : Bool) : State :=
    let waiting := s.adm.reqs.filter (fun q => q.2.recWait.contains slot)
    let s := waiting.foldl (fun (s : State) q => s.modReq q.1 (fun r => { r with recWait := r.recWait.filter (· != slot) })) s
    match AL.get slot s.write.recs with
    | none => s
    | some j =>
      if ok then
        let data := s.cipher (s.get F.FAB_ID_HID) j data
        let s := s.modRec slot (fun j => { j with data := data, fetchWait := false })
        waiting.foldl (fun s q => s.recGood q.2 slot data) s
      else
        let s := waiting.foldl (fun s q => (s.readFail q.1 Cond.MEDIA_INTEGRITY 0).wakeHeld) s
        if j.fetchWait then s.recLost slot 1 else s

/-- `PEER_REC_DATA_RX` (R136, R189). -/
def execPeerRecDataRx (slot data : Nat) (ok : Bool) (s : State) : Res := .next (s.recDataCame slot data ok)

end Sys2Proof.Machine
end

