-- ==== Sys2Proof/Machine/Chunk.lean ====
section
/-! DEFINITION. Chapter 4: chunking, fingerprints, swatches and recipes, storing a new chunk, and committing. -/

namespace Sys2Proof.Machine

/-! ### Chunking (R189 to R191) -/

/-- Byte `i` of a block. -/
def blockByte (b i : Nat) : Nat := b / 256 ^ i % 256

/-- G[x]: the first four bytes of the SHA-256 digest of the byte x, big-endian (R190). -/
def chunkG (x : Nat) : Nat := (Config.sha256 [x]).toNat / 2 ^ 224

/-- The value h at the end of a block (R190). -/
def chunkH (b : Nat) : Nat := (List.range 4096).foldl (fun h i => (2 * h + chunkG (blockByte b i)) % 2 ^ 32) 0

/-- A chunk of `n` blocks ends after a block (R191). -/
def State.chunkEnds (s : State) (n b : Nat) : Bool :=
  let bits := s.get F.CHK_CFG_MASK_BITS
  decide (s.get F.CHK_CFG_MAX_BLOCKS ≤ n) || bits == 0
    || (decide (s.get F.CHK_CFG_MIN_BLOCKS ≤ n) && chunkH b / 2 ^ (32 - bits) == 0)

/-- Cut a run of (slot, block) pairs into chunks; `acc` is the chunk in progress, newest last. -/
def State.cut (s : State) : List (Nat × Nat) → List (Nat × Nat) → List (List (Nat × Nat))
  | [], acc => if acc = [] then [] else [acc]
  | b :: t, acc =>
    let acc := acc ++ [b]
    if s.chunkEnds acc.length b.2 then acc :: s.cut t [] else s.cut t acc

/-! ### Fingerprints (R192, R193) -/

/-- The fingerprint of blocks under a vat's salt, a published vat's the fabric salt: SHA-256 of the salt's 32 bytes and the data
(R192; log entry 6). -/
def State.fpOf (s : State) (vat : Nat) (blocks : List Nat) : Nat :=
  (Config.sha256 (beBytes 32 (s.saltOf vat) ++ blocks.flatMap (leNat 4096))).toNat

/-- A chunk is a swatch. -/
def isSwatch (fp : Nat) : Bool := fp % 32 == 0

/-- Its index half. -/
def swatchHalf (fp : Nat) : Nat := bitsOf fp 5 1

/-- The fingerprint tag. -/
def fpTag (fp : Nat) : Nat := bitsOf fp 16 16

/-! ### Streams and recipe pages (R196, R198) -/

/-- The stream of a volume. -/
def State.stream (s : State) (v : Nat) : CStream := AL.getD v {} s.write.streams

/-- Close a recipe page. -/
def State.closePage (s : State) (p : Nat) : State :=
  match AL.get p s.write.recipes with
  | some g =>
    if g.isOpen then
      (s.modWrite (fun w => { w with
        recipes := AL.put p { g with isOpen := false } w.recipes
        streams := AL.mapV (fun _ x => { x with openPages := x.openPages.filter (· != p) }) w.streams })).bump F.CHK_CNT_RECIPE_COUNT
    else s
  | none => s

/-- A volume gets a stream: with 4,096 in use the least recently used is replaced, and its open pages close. -/
def State.needStream (s : State) (v : Nat) : State :=
  let s := if AL.has v s.write.streams || decide (s.write.streams.length < 4096) then s else
    match minBy (fun q => q.2.useBeat) s.write.streams with
    | some q =>
      (q.2.openPages.foldl (fun s p => s.closePage p) s).modWrite (fun w => { w with streams := AL.del q.1 w.streams })
    | none => s
  s.modWrite (fun w => { w with streams := AL.upd v {} (fun x => { x with useBeat := s.beat }) w.streams })

/-- A page takes a chunk's entry, and closes at 256 (R198). -/
def State.pageAdd (s : State) (e : RcpEnt) (p : Nat) : State :=
  match AL.get p s.write.recipes with
  | some g =>
    let g := { g with entries := g.entries ++ [e], dirty := true, lastBeat := s.beat }
    let s := s.modWrite (fun w => { w with recipes := AL.put p g w.recipes })
    if 256 ≤ g.entries.length then s.closePage p else s
  | none => s

/-- A chunk's entry joins its stream's last entries and its open pages (R198). -/
def State.streamAdd (s : State) (v : Nat) (e : RcpEnt) : State :=
  let x := s.stream v
  let s := s.modWrite (fun w => { w with streams := AL.put v { x with last := (e :: x.last).take 128 } w.streams })
  x.openPages.foldl (fun s p => s.pageAdd e p) s

/-- Add a recipe page to a stream's set, in place of the oldest when it is full (R196). -/
def State.joinSet (s : State) (v p : Nat) : State :=
  let x := s.stream v
  let set := (x.set.filter (· != p)) ++ [p]
  let set := set.drop (set.length - s.get F.CHK_RECIPE_CFG_SET_PAGES)
  s.modWrite (fun w => { w with streams := AL.put v { x with set := set } w.streams })

/-! ### The swatch index (R193, R197, Table 4.3) -/

/-- Buckets of the index. -/
def State.buckets (s : State) : Nat := max 1 (s.get F.SWX_SIZE_GIB * 8388608)

/-- The bucket of a fingerprint. -/
def State.bucketOf (s : State) (fp : Nat) : Nat := bitsOf fp 96 32 % s.buckets

/-- The record of a fingerprint and vat: its place and content. -/
def State.swatchFind (s : State) (fp vat : Nat) : Option (Nat × Swatch) :=
  s.write.swatches.find? (fun q => q.1 / 8 == s.bucketOf fp && q.2.key == bitsOf fp 128 64 && q.2.vat == vat)

/-- Look a fingerprint up in this head's half. -/
def State.swatchLook (s : State) (fp vat : Nat) : Option (Nat × Swatch) × State :=
  let s := s.bump F.SWX_CNT_LOOKUP_COUNT
  match s.swatchFind fp vat with
  | some (k, r) =>
    (some (k, r), (s.modWrite (fun w => { w with swatches := AL.put k { r with hits := min 15 (r.hits + 1) } w.swatches })).bump F.SWX_CNT_HIT_COUNT)
  | none => (none, s)

/-- Open recipe pages. -/
def State.openPages (s : State) : Nat := (s.write.recipes.filter (fun q => q.2.isOpen)).length

/-- Insert a swatch: its recipe page opens with the stream's preceding entries, and its record takes the first free place of
its bucket or that of the record with the fewest hits (R197, R198). Page numbers carry the head's side in bit 0 (log entry 132). -/
def State.swatchInsert (s : State) (fp vat vol : Nat) : State :=
  if s.get F.SWX_CFG_INSERT_EN = 0 ∨ 16384 ≤ s.openPages then s else
    let x := s.stream vol
    let p := 2 * s.write.nextRecipe + s.side
    let pre := x.last.reverse
    let g : RcpPage := { swatchFp := fp, vat := vat, vol := vol, pos := pre.length, entries := pre, isOpen := true, dirty := true, lastBeat := s.beat }
    let b := s.bucketOf fp
    let used := s.write.swatches.filter (fun q => q.1 / 8 == b)
    let freeAt := (List.range 8).find? (fun i => !used.any (fun q => q.1 == b * 8 + i))
    let place := freeAt.map (fun i => b * 8 + i) |>.getD (((minBy (fun q => q.2.hits) used).map (·.1)).getD (b * 8))
    let s := s.modWrite (fun w => { w with
      recipes := AL.put p g w.recipes, nextRecipe := w.nextRecipe + 1
      streams := AL.put vol { x with openPages := x.openPages ++ [p] } w.streams
      swatches := AL.put place ⟨bitsOf fp 128 64, p, vat, 0⟩ w.swatches })
    let s := s.bump F.SWX_CNT_INSERT_COUNT
    if freeAt.isNone then s.bump F.SWX_CNT_EVICT_COUNT else s

/-! ### Deciding a chunk (R194, Table 4.5) -/

/-- A chunk being stored. -/
def State.job (s : State) (j : Nat) : Option CJob := AL.get j s.write.jobs

/-- Change it. -/
def State.modJob (s : State) (j : Nat) (f : CJob → CJob) : State :=
  match s.job j with
  | some x => s.modWrite (fun w => { w with jobs := AL.put j (f x) w.jobs })
  | none => s

/-- A candidate is valid. -/
def State.validCand (s : State) (cid fp : Nat) : Bool :=
  let e := s.ctbEnt cid
  decide (0 < e.count) && decide (e.count < refMax) && e.fpTag == fpTag fp && s.bandLive e.band

/-- The recipe entry of a page that matches a chunk. -/
def RcpPage.matching (g : RcpPage) (fp vat : Nat) : Option RcpEnt :=
  if g.vat = vat then g.entries.find? (fun e => e.fp == fp) else none

/-- The entry of a stream's recipe set that matches. -/
def State.setMatch (s : State) (vol fp vat : Nat) : Option RcpEnt :=
  (s.stream vol).set.findSome? (fun p => (AL.get p s.write.recipes).bind (fun g => g.matching fp vat))

/-- The next chunk identity, with the wrap count (R201). -/
def State.takeCid (s : State) : Nat × State :=
  let n := s.get F.WRP_CID_NEXT_NEXT
  let n := if n % 2 = s.side then n else n + 1
  if 2 ^ 40 ≤ n + 2 then (n, s.setAll [(F.WRP_CID_NEXT_NEXT, s.side), (F.WRP_CID_NEXT_WRAP, s.get F.WRP_CID_NEXT_WRAP + 1)])
  else (n, s.set F.WRP_CID_NEXT_NEXT (n + 2))

/-- The shard on which this head places: its home shard where it holds that lease, else the other (R203). -/
def State.placeShard (s : State) : Nat := if s.leaseHeld s.side then s.side else 1 - s.side

/-- The shard of a chunk of host data: the home shard, or the other where only that one, held too, has the room above its reserve (R203,
R292). -/
def State.hostShard (s : State) (units : Nat) : Option Nat :=
  [s.side, 1 - s.side].find? (fun sh => s.leaseHeld sh && decide (withParity units (s.bandD sh) (s.bandP sh) ≤ s.shardSpace sh))

/-- The stream a chunk belongs to: its volume's, or that of the link that brings it (R559). -/
def CJob.stream (x : CJob) : Nat := if x.link = 0 then x.vol else 65536 + (x.link - 1)

/-- Blocks of a chunk. -/
def CJob.blocks (x : CJob) : Nat := if x.link = 0 then x.slots.length else x.orig

/-- What is left of a part's space reservation returns once none of its chunks is still to be placed (R205). -/
def State.rsvDone (s : State) (tag part : Nat) : State :=
  let open0 := s.write.recs.any (fun q => q.2.own && q.2.tag == tag && q.2.cmdIdx / 64 == part && q.2.typ == 1 && !q.2.chunked
    && (q.2.state == 1 || q.2.state == 2))
  let jobs := s.write.jobs.any (fun q => q.2.tag == tag && q.2.part == part && q.2.link == 0 && (match q.2.stage with
    | .decide | .peerAsked | .recipeLoad _ | .compress => true
    | .placed => q.2.units == 0 || q.2.rsv == 0
    | _ => false))
  if open0 || jobs then s
  else (s.drop F.WRP_SPACE_RSV_UNITS (AL.getD (partKey tag part) 0 s.write.rsv)).modWrite (fun w => { w with rsv := AL.del (partKey tag part) w.rsv })

/-- Use some of a part's reservation (R205). -/
def State.rsvUse (s : State) (key n : Nat) : State :=
  let have0 := AL.getD key 0 s.write.rsv
  let k := min n have0
  (s.drop F.WRP_SPACE_RSV_UNITS k).modWrite (fun w => { w with rsv := if have0 = k then AL.del key w.rsv else AL.put key (have0 - k) w.rsv })

/-- Segments of a chunk's encrypt pass (Table 8.2). -/
def CJob.encSegs (x : CJob) : Nat := ceilDiv (512 * x.units - 64) 4096

/-- The nonce of a chunk: chunk identity, band and wrap count (R202). -/
def chunkNonce (cid band wrap : Nat) : Nat := cid % 2 ^ 40 * 2 ^ 56 + band % 2 ^ 32 * 2 ^ 24 + wrap % 2 ^ 24


/-- Encrypt a chunk under its vat's key of its generation: the header takes the nonce and the GCM tag (R202). -/
def State.sealChunk (s : State) (nonce : Nat) (e : CtbEnt) : CtbEnt :=
  let e := { e with nonce := nonce }
  let key := ((AL.get (hVat e.vat e.keyGen) s.sec.handles).map (·.value)).getD 0
  { e with gtag := (Config.gcmSeal key nonce e.header e.stream).toNat }

/-- The chunk-table entry of a new chunk, and the chunk as it is stored. -/
def State.newEnt (s : State) (x : CJob) (n : Nat) : CtbEnt :=
  s.sealChunk x.nonce {
    count := n, len := x.units, raw := x.raw, dynamic := x.dynamic, keyGen := x.keyGen
    fpTag := fpTag x.fp, band := x.band, offset := x.offset, vat := x.vat, orig := x.blocks, fp := x.fp, data := x.data
    deflated := if x.raw then [] else x.deflated }

/-- A chunk's encryption begins: it takes the vat's key generation as it stands (R202, R224). -/
def State.encBegin (s : State) (j : Nat) (x : CJob) : State :=
  if (s.slice x.slice).ran (.chunk j) = 0 then s.modJob j (fun x => { x with keyGen := ((AL.get x.vat s.vat.vats).map (·.keyGen)).getD 0 }) else s

/-- The encrypt pass of a chunk on its slice, true once it has run whole: it begins when the vat's key is in the slice (R356); a chunk
placed again from the row buffers has had it (R287). -/
def State.encPass (s : State) (j : Nat) (x : CJob) : Bool × State :=
  if x.enc then (true, s) else
    let s := s.encBegin j x
    let (ready, s) := s.keyWait x.slice (jobPin j) (hVat x.vat (((s.job j).map (·.keyGen)).getD 0))
    if ready then s.segRun x.slice [0] (.chunk j) x.encSegs x.tag true else (false, s)

/-- A job with the nonce that it has, or takes in a band (R202). -/
def CJob.inBand (x : CJob) (b : Nat) : CJob := { x with enc := true, nonce := if x.enc then x.nonce else chunkNonce x.cid b x.wrap }

/-- Place a chunk of a stored length and encrypt it (R202, R203, R205): it waits while no band can be formed, or its slice has no room
for the pass. What it held in staging is consumed (R386). -/
def State.placeJob (s : State) (j : Nat) : State :=
  match s.job j with
  | none => s
  | some x =>
    match s.hostShard x.units with
    | none => s.modJob j (fun x => { x with stage := .placed })
    | some sh =>
    match s.openBandFor sh 0 with
    | (none, s) => s.modJob j (fun x => { x with stage := .placed })
    | (some _, s) =>
      let (ran, s) := s.encPass j x
      let x := (s.job j).getD x
      if !ran then s.modJob j (fun x => { x with stage := .placed }) else
      match s.place 0 j sh 0 x.units (fun b => (s.newEnt (x.inBand b) 0).stored) with
      | (none, s) => s.modJob j (fun x => { x with stage := .placed })
      | (some (b, o), s) =>
        let (d, p) := ((s.band b).map (fun b => (b.d, b.p))).getD (1, 0)
        let u := withParity x.units d p
        let s := (s.modJob j (fun x => { x.inBand b with stage := .placed, band := b, offset := o, rsv := 1 })).rsvUse (partKey x.tag x.part) u
        let s := (s.unstage x.slice (.chunk j)).unstage x.slice (.out j)
        ((s.bump F.WRP_CNT_BYTES_STORED_COUNT u).bump (F.DSL_CPH_CNT_SEG_COUNT x.slice) (if x.enc then 0 else x.encSegs)).rsvDone x.tag x.part

/-- A chunk is stored raw: 8m + 1 units (R200). -/
def State.storeRaw (s : State) (j : Nat) : State :=
  match s.job j with
  | some x => ((s.modJob j (fun x => { x with raw := true, dynamic := false, units := 8 * x.blocks + 1 })).bump F.WRP_CNT_RAW_COUNT).placeJob j
  | none => s

/-- Bind a compress job to a deflater: it keeps the effort and the vat's compression mode of that beat (R221, R382, R384). It waits
while no enabled deflater of its slice is free. -/
def State.bindDefl (s : State) (j : Nat) : State :=
  match s.job j with
  | none => s
  | some x =>
    match s.freeDefl x.slice with
    | none => s
    | some u =>
      let comp := ((AL.get x.vat s.vat.vats).map (·.comp)).getD 0
      if comp = 0 then s.storeRaw j else
      let dyn := comp == 2
      (s.modSlice x.slice (fun y => { y with defl := AL.put u j y.defl })).modJob j (fun x => { x with
        effort := s.get (F.DSL_CMP_CFG_EFFORT x.slice), dynamic := dyn })

/-- What an update record writes for a block, where it writes it. -/
def UVal.entryFor (v : UVal) (vol lba : Nat) : Option MapEnt :=
  match v with
  | .map w l e _ => if w = vol ∧ l = lba then some e else none
  | .page w l z _ => if w = vol ∧ l / 512 = lba / 512 then some { z := z, u := !z } else none
  | _ => none

/-- The map entry of a block once every landed record is applied. -/
def State.namedBefore (s : State) (vol lba : Nat) : MapEnt :=
  (((s.write.upd.filter (fun q => !q.2.applied)).filterMap (fun q => q.2.val.entryFor vol lba)).getLast?).getD (s.mapEnt vol lba)

/-- Land the records of one block: its map entry and the delta of what it named. -/
def State.landMap (s : State) (k : Option Nat) (vol lba : Nat) (e : MapEnt) (entBeat : Nat) : State :=
  let old := s.namedBefore vol lba
  let s := s.land (.map vol lba e entBeat) k
  if old.named then s.land (.delta old.chunk (-1)) none else s

/-- Land the entries of a chunk that replication brings, with the references they replace (Table 13.7). -/
def State.landRefs (s : State) (x : CJob) (e : MapEnt) : State :=
  x.lbas.foldl (fun s q => s.landMap none x.vol q.1 { e with index := q.2 } s.beat) s

/-- A cycle has decided a fingerprint: later entries of it name the same chunk (R559). -/
def State.linkKnown (s : State) (x : CJob) (cid : Nat) : State :=
  { s with fab := { s.fab with links := s.fab.links.map (fun q => if q.1 + 1 = x.link then
      (q.1, { q.2 with cycle := q.2.cycle.map (fun c => { c with known := AL.put x.fp cid c.known }) }) else q) } }

/-- A chunk is new: it takes an identity, and is compressed or placed raw (R199 to R201). -/
def State.newChunk (s : State) (j : Nat) (insert : Bool) : State :=
  match s.job j with
  | none => s
  | some x =>
    if x.refOnly then
      ((s.landRefs x { z := false, u := false, f := true, chunk := x.fp / 2 ^ 216 }).linkKnown x (2 ^ 52)).modWrite (fun w => { w with
        jobs := AL.del j w.jobs })
    else
    let wrap := s.get F.WRP_CID_NEXT_WRAP
    let (cid, s) := s.takeCid
    let s := if insert then s.swatchInsert x.fp x.vat x.stream else s
    let s := (s.streamAdd x.stream ⟨x.fp, cid, x.blocks⟩).bump F.WRP_CNT_NEW_COUNT
    let s := s.modJob j (fun x => { x with cid := cid, dup := false, wrap := wrap })
    if x.link ≠ 0 then (s.modJob j (fun x => { x with stage := .awaitRecord })).bump F.REP_CNT_CHUNKS_NEEDED_COUNT
    else if ((AL.get x.vat s.vat.vats).map (·.comp)).getD 0 = 0 then s.storeRaw j
    else (s.modJob j (fun x => { x with stage := .compress })).bindDefl j

/-- A chunk is a duplicate: its records may commit. -/
def State.dupChunk (s : State) (j cid : Nat) : State :=
  match s.job j with
  | some x => ((((s.streamAdd x.stream ⟨x.fp, cid, x.blocks⟩).bump F.WRP_CNT_DEDUP_COUNT).modJob j
      (fun x => { x with cid := cid, dup := true, stage := .committing })).unstage x.slice (.chunk j)).rsvDone x.tag x.part
  | none => s

/-- A candidate decides: duplicate when valid, else a new chunk; one refused at the largest count is counted. -/
def State.candidate (s : State) (j : Nat) (x : CJob) (e : RcpEnt) : State :=
  if s.validCand e.cid x.fp then s.dupChunk j e.cid
  else
    let s := if (s.ctbEnt e.cid).count = refMax then s.bump F.WRP_CNT_REF_SAT_COUNT else s
    s.newChunk j false

/-- A record hit: its recipe page is loaded (R196). -/
def State.loadPage (s : State) (j p : Nat) : State :=
  (s.bump F.SWX_CNT_RCP_LOAD_COUNT).modJob j (fun x => { x with stage := .recipeLoad p })

/-- Decide a chunk by the first row of Table 4.5 that applies. -/
def State.decideJob (s : State) (j : Nat) : State :=
  match s.job j with
  | none => s
  | some x =>
    match s.setMatch x.stream x.fp x.vat with
    | some e => (s.bump F.SWX_CNT_RCP_MATCH_COUNT).candidate j x e
    | none =>
      if !isSwatch x.fp then s.newChunk j false
      else
        let s := s.bump F.CHK_CNT_SWATCH_COUNT
        if swatchHalf x.fp = s.side then
          match s.swatchLook x.fp x.vat with
          | (some (_, r), s) => s.loadPage j r.recipe
          | (none, s) => s.newChunk j true
        else if s.mode = .paired then
          if s.get F.SWX_CFG_PEER_QUERY_EN = 1 then
            ((s.bump F.SWX_CNT_PEER_QUERY_COUNT).sendPeer 0x0E 0 ([j, x.vat] ++ (List.range 4).map (fun i => x.fp / 2 ^ (64 * i) % 2 ^ 64))).modJob j (fun x => { x with stage := .peerAsked })
          else s.newChunk j true
        else s.newChunk j false

/-- Start a chunk of a run: its blocks stay in staging until it is encrypted or found a duplicate (R386). -/
def State.startJob (s : State) (tag part vol vat slice : Nat) (slots : List Nat) : State :=
  let blocks := slots.map (fun k => ((AL.get k s.write.recs).map (·.data)).getD 0)
  let j := s.write.nextJob
  let x : CJob := { tag := tag, part := part, vol := vol, vat := vat, slots := slots, data := blocks, fp := s.fpOf vat blocks, stage := .decide, slice := slice }
  let s := ((s.modWrite (fun w => { w with jobs := AL.put j x w.jobs, nextJob := j + 1 })).needStream vol).stage slice (.chunk j) blocks
  let s := (((s.bump F.CHK_CNT_CHUNKS_COUNT).bump F.CHK_CNT_BLOCKS_COUNT slots.length).bump F.WRP_CNT_CHUNKS_COUNT).bump
    (F.DSL_DIG_CNT_BYTES_COUNT slice) (32 + 4096 * slots.length)
  (s.bump (F.DSL_CPH_CNT_SEG_COUNT slice) (slots.length + 1)).decideJob j

/-- Start the decision of a chunk that a recipe names: its fingerprint is the source's (R559, R560). -/
def State.startLinkJob (s : State) (link vol vat fp orig : Nat) (refOnly : Bool) (lbas : List (Nat × Nat)) : State :=
  let j := s.write.nextJob
  let x : CJob := { vol := vol, vat := vat, slots := [], fp := fp, stage := .decide, link := link + 1, refOnly := refOnly, orig := orig, lbas := lbas }
  let s := (s.modWrite (fun w => { w with jobs := AL.put j x w.jobs, nextJob := j + 1 })).needStream x.stream
  s.decideJob j

/-! ### Committing (R206 to R211, R264, R268) -/

/-- Two records cover a block in common. -/
def JRec.meets (j x : JRec) : Bool :=
  j.vol == x.vol && j.blockRanges.any (fun a => x.blockRanges.any (fun b => decide (a.1 < b.1 + b.2) && decide (b.1 < a.1 + a.2)))

/-- Update records of kind 1 may land for a record: two beats after its entry, with the peer's entry notices for every earlier beat (R264),
and after those of an earlier record of its blocks that a snapshot still waits for (R242). -/
def State.mayLand (s : State) (k : Nat) : Bool :=
  match AL.get k s.write.recs with
  | some j => decide (j.entBeat + 2 ≤ s.beat) && (s.mode != .paired || decide (s.beat ≤ s.pair.entryBeat + 1))
      && !s.write.recs.any (fun q => q.2.own && q.2.state == 2 && decide (0 < q.2.entryNo) && decide (q.2.entryNo < j.entryNo) && q.2.meets j
        && s.cutBetween j.vol q.2.entBeat j.entBeat)
  | none => true

/-- The overlay still names a record for a block (R210), or a snapshot holds it that every later record of the block is too late for
(R242). -/
def State.stillNames (s : State) (k vol lba : Nat) : Bool :=
  ((s.overlay vol lba).map (·.1)) == some k || (match AL.get k s.write.recs with
    | some j => j.covers vol lba && s.write.recs.all (fun q => q.1 == k || !q.2.covers vol lba || decide (q.2.entryNo ≤ j.entryNo)
        || s.cutBetween vol j.entBeat q.2.entBeat)
    | none => false)

/-- The full update log holds commits back (R206, R270). -/
def State.logHold (s : State) : Bool := s.logFull

/-- A placement is abandoned: its units are dead space in the band (Table 6.10). -/
def State.abandon (s : State) (b units : Nat) : State :=
  (s.modBand b (fun x => { x with pendingPl := x.pendingPl - 1 })).bump F.BND_CNT_ORPHAN_UNITS_COUNT units

/-- Land a chunk's update records (R209 step 2, R210). A new chunk none of whose blocks is still named is abandoned. -/
def State.commitJob (s : State) (j : Nat) : State :=
  match s.job j with
  | none => s
  | some x =>
    let u := s.nextUseq
    if x.stage = .committing ∧ x.link ≠ 0 ∧ !s.logHold then
      let s := if x.dup then s.land (.delta x.cid x.lbas.length) none else s.land (.ctb x.cid (s.newEnt x x.lbas.length)) none
      (((s.landRefs x { z := false, u := false, f := false, chunk := x.cid }).linkKnown x x.cid).modWrite (fun w => { w with jobs := AL.del j w.jobs })).groupFrom u
    else if x.link ≠ 0 || x.stage ≠ .committing || !x.slots.all (fun k => s.mayLand k) || s.logHold then s else
      let place (k : Nat) : Option (Nat × JRec) := (AL.get k s.write.recs).map (fun r => (k, r))
      let live := (x.slots.zipIdx).filterMap (fun (q : Nat × Nat) => (place q.1).bind (fun r =>
        if r.2.state = 2 ∧ s.stillNames q.1 r.2.vol r.2.lba then some (q.2, r) else none))
      let s := if live = [] then (if x.dup then s else s.abandon x.band x.units)
        else if x.dup then s.land (.delta x.cid live.length) none
        else s.land (.ctb x.cid (s.newEnt x live.length)) none
      let s := live.foldl (fun s q => s.landMap (some q.2.1) q.2.2.vol q.2.2.lba { z := false, u := false, f := false, chunk := x.cid, index := q.1 } q.2.2.entBeat) s
      (s.modWrite (fun w => { w with jobs := AL.del j w.jobs })).groupFrom u

/-- Whole map pages of a range. -/
def wholePages (lba n : Nat) : List Nat :=
  let first := ceilDiv lba 512
  let last := (lba + n) / 512
  (List.range (last - first)).map (fun i => (first + i) * 512)

/-- Deltas for the chunks that a page's entries name: one record per distinct chunk (R268). -/
def State.releasePageRefs (s : State) (vol lba : Nat) : State :=
  let cs := (List.range 512).filterMap (fun i => let e := s.namedBefore vol (lba + i); if e.named then some e.chunk else none)
  cs.eraseDups.foldl (fun s c => s.land (.delta c (-(cs.filter (· == c)).length)) none) s

/-- Commit a ZERO or DEALLOC record (R211, R268): whole pages in one record each, the rest block by block. -/
def State.commitRange (s : State) (k : Nat) (j : JRec) : State :=
  let z := j.typ == 2
  let u := s.nextUseq
  let s := j.ranges.foldl (fun s q =>
    let pages := (wholePages q.1 q.2).filter (fun p => (List.range 512).all (fun i => s.stillNames k j.vol (p + i)))
    let s := pages.foldl (fun s p => (s.releasePageRefs j.vol p).land (.page j.vol p z j.entBeat) (some k)) s
    (List.range q.2).foldl (fun s i =>
      let lba := q.1 + i
      if pages.contains (lba / 512 * 512) || !s.stillNames k j.vol lba then s
      else s.landMap (some k) j.vol lba { z := z, u := !z, f := false } j.entBeat) s) s
  ((s.modRec k (fun j => { j with chunked := true })).groupFrom u).rangesTrim

/-- Records of a command whose update records have all been applied retire (R209 step 3). -/
def State.retireCommitted (s : State) (k : Nat) : State :=
  match AL.get k s.write.recs with
  | some j =>
    if j.own && j.chunked && (j.state == 2 || j.state == 5) && !s.write.upd.any (fun q => q.2.own && q.2.slot == some k && !q.2.applied)
        && !s.write.jobs.any (fun q => q.2.slots.contains k) then s.retireRec k
    else s
  | none => s

/-- The slice of a run: the eligible one with the most free digest contexts, the lowest-numbered among equals; the part's own context is
free for it on the slice that holds it. A run that has begun stays where it is. -/
def State.runSlice (s : State) (tag part : Nat) : Nat :=
  let held := AL.getD (partKey tag part) 0 s.write.digests
  if (s.slice held).ran (.run tag part) ≠ 0 then held else
    let en := s.get F.WRP_CFG_SLICE_EN
    let room (i : Nat) : Nat := 64 - s.ctxUsed 2 i + (if i = held then 1 else 0)
    (maxBy room ((List.range 16).filter (fun i => bitOf en i && s.sliceUp i && decide (0 < room i)))).getD held

/-- Segments of a run's chunk pass: those of the SHA-256 input of its chunks, the salt with each (Table 8.2, R192). -/
def runSegs (chunks : List (List (Nat × Nat))) : Nat := (chunks.map (fun c => c.length + 1)).sum

/-- A run of a part goes through its slice: records that fail are fetched from the peer or lost, the others are cut into chunks. -/
def State.runChunks (s : State) (tag part slice : Nat) (j0 : JRec) (failed : List Nat) (run : List (Nat × JRec)) : State :=
  let vat := ((AL.get j0.vol s.vat.vols).map (·.vat)).getD 0
  let bad := run.filter (fun q => failed.contains q.1)
  let s := bad.foldl (fun s q =>
    let s := (s.authFail slice q.2.seq).bump F.JNL_CNT_AUTH_COUNT
    if s.mode = .paired then (s.modRec q.1 (fun j => { j with fetchWait := true })).sendPeer 0x12 0 [q.1] else s.recLost q.1 1) s
  let good := run.filter (fun q => !failed.contains q.1)
  let s := good.foldl (fun s q => s.modRec q.1 (fun j => { j with chunked := true })) s
  let whole := bad = [] || s.mode != .paired
  let s := if whole && AL.has (partKey tag part) s.write.digests then
      (s.poolGive 2 1).modWrite (fun w => { w with digests := AL.del (partKey tag part) w.digests })
    else s
  let chunks := s.cut (good.map (fun q => (q.1, q.2.data))) []
  (chunks.foldl (fun s c => s.startJob tag part j0.vol vat slice (c.map (·.1))) s).rsvDone tag part

/-- The chunk pass of a part's run on its slice: its records' keys and the salt of its vat are asked for, and its segments run as the
slice has room (R356, R345 to R347, R192). -/
def State.runPass (s : State) (tag part : Nat) (j0 : JRec) (failed : List Nat) (run : List (Nat × JRec)) : State :=
  let slice := s.runSlice tag part
  let s := if AL.has (partKey tag part) s.write.digests then s.modWrite (fun w => { w with digests := AL.put (partKey tag part) slice w.digests }) else s
  let keys := run.map (fun q => s.recHandle q.2) ++ [hSalt (((AL.get j0.vol s.vat.vols).map (·.vat)).getD 0)]
  match keys.find? (fun h => !s.keyReady slice h) with
  | some h => if AL.has h (s.slice slice).keys then s else s.keyAsk slice tag h
  | none =>
    let (ran, s) := s.segRun slice [0, 2, 4] (.run tag part) (runSegs (s.cut (run.map (fun q => (q.1, q.2.data))) [])) tag true
    if ran then s.runChunks tag part slice j0 failed run else s

/-- `CHUNK_RUN` (R189 to R191, R211): the entered DATA records of the first part of a command not yet chunked, in LBA order;
or the one record of a Write Zeroes or deallocate commits. -/
def execChunkRun (tag : Nat) (failed : List Nat) (s : State) : Res :=
  .next (
    let mine := s.write.recs.filter (fun q => q.2.own && q.2.tag == tag && q.2.state == 2 && !q.2.chunked && !q.2.fetchWait)
    match mine.find? (fun q => q.2.typ != 1) with
    | some (k, j) =>
      if s.mayLand k && !s.logHold then (s.commitRange k j).retireCommitted k else s
    | none =>
      match minBy (fun q => q.2.cmdIdx) mine with
      | none => s
      | some (_, j0) =>
        let part := j0.cmdIdx / 64
        s.runPass tag part j0 failed (sortBy (fun q => q.2.lba) (mine.filter (fun q => q.2.cmdIdx / 64 == part))))

/-- `PEER_SWX_QUERY_RX` (R195, R197): the record's recipe, or a miss. -/
def execPeerSwxQueryRx (qtag fp vat : Nat) (s : State) : Res :=
  .next (match s.swatchLook fp vat with
    | (some (_, r), s) => s.sendPeer 0x0F 2 [qtag, 1, r.recipe]
    | (none, s) => s.sendPeer 0x0F 2 [qtag, 0, 0])

/-- `PEER_SWX_ANSWER_RX` (R195): a hit loads the recipe page; a miss makes the chunk new and inserts the swatch, as for the own half
(Table 4.5; log entry 25). -/
def execPeerSwxAnswerRx (job : Nat) (hit : Bool) (recipe : Nat) (s : State) : Res :=
  .next (match s.job job with
    | some x => if x.stage = .peerAsked then (if hit then s.loadPage job recipe else s.newChunk job true) else s
    | none => s)

/-- A recipe page of the peer as it is read from flash; the head holds its own. -/
def State.loadedPage (s : State) (p vat : Nat) (entries : List (Nat × Nat × Nat)) : Option RcpPage :=
  if p % 2 = s.side then AL.get p s.write.recipes
  else some { swatchFp := ((entries.head?).map (·.1)).getD 0, vat := vat, vol := 0, pos := 0, entries := entries.map (fun e => ⟨e.1, e.2.1, e.2.2⟩)
              isOpen := false, dirty := false, lastBeat := s.beat }

/-- `RECIPE_PAGE_LOADED` (R196): a good page joins the stream's set and is searched; a bad one is discarded. -/
def execRecipePageLoaded (job : Nat) (ok : Bool) (vat : Nat) (entries : List (Nat × Nat × Nat)) (s : State) : Res :=
  .next (match s.job job with
    | some x =>
      match x.stage with
      | .recipeLoad p =>
        match (if ok then s.loadedPage p vat entries else none) with
        | none => (s.modWrite (fun w => { w with recipes := if ok then w.recipes else AL.del p w.recipes })).newChunk job false
        | some g =>
          let s := (s.modWrite (fun w => { w with recipes := AL.put p { g with resident := true } w.recipes })).joinSet x.stream p
          match g.matching x.fp x.vat with
          | some e => (s.bump F.SWX_CNT_RCP_MATCH_COUNT).candidate job x e
          | none => s.newChunk job false
      | _ => s
    | none => s)

/-- `RECIPE_PAGE_CLOSE` (R198): no chunk of its stream for `CLOSE` beats. -/
def execRecipePageClose (page : Nat) (s : State) : Res :=
  .next (match AL.get page s.write.recipes with
    | some g => if g.isOpen ∧ g.lastBeat + s.get F.CHK_RECIPE_CFG_CLOSE ≤ s.beat then s.closePage page else s
    | none => s)

/-- The output limit of a chunk's compress job, in bytes (R199). -/
def CJob.limit (x : CJob) : Nat := 4096 * x.blocks - 512

/-- A compress job's output: past the limit the job ends with OUTPUT_FULL and the chunk is stored raw (R392, R393); else the bytes are a
stream that its deflater may write (R387 to R391; log entry 6), any other being none of its. -/
def State.compressed (s : State) (j : Nat) (x : CJob) (stream : List Nat) : State :=
  let s := s.deflDone x.slice j
  if x.limit < stream.length then ((s.satInc (F.DSL_CMP_CNT_OUTCOME_FULL x.slice) 1).unstage x.slice (.out j)).storeRaw j
  else
    let out := bytesNum stream
    let s := s.stage x.slice (.out j) (pieces (ceilDiv stream.length 4096) out)
    (s.modJob j (fun x => { x with raw := false, deflated := stream, units := ceilDiv (64 + stream.length) 512 })).placeJob j

/-- Segments that a compress job runs: all of its blocks, or those up to the one in which its output would pass the limit (R392, R393). -/
def CJob.deflSegs (x : CJob) (stream : List Nat) : Nat :=
  if x.limit < stream.length then min x.blocks (((inflate (bytesNum stream) x.limit (4096 * x.blocks)).blocks.filter (fun b => b.upTo != 0)).length + 1)
  else x.blocks

/-- The bytes may be what a compress job writes; past the limit they stand for `OUTPUT_FULL` and are not looked at further (log entry 6). -/
def CJob.mayWrite (x : CJob) (stream : List Nat) : Bool :=
  decide (x.limit < stream.length)
    || deflates (if x.dynamic then 2 else 1) x.effort x.blocks ((x.data.zipIdx).foldl (fun v q => v + q.1 * 256 ^ (4096 * q.2)) 0)
        (bytesNum stream) stream.length

/-- `COMPRESS_JOB_END` (R199, R200, R381 to R393): a bound job runs its segments as its deflater has capacity, and ends stored compressed,
or raw after OUTPUT_FULL. -/
def execCompressJobEnd (job : Nat) (stream : List Nat) (s : State) : Res :=
  .next (match s.job job with
    | some x =>
      match s.deflOf x.slice job with
      | none => s
      | some u =>
        if x.stage ≠ .compress ∨ !x.mayWrite stream then s else
          let (ran, s) := s.unitRun x.slice (24 + u) (s.sliceCycles x.slice / deflCycles x.effort) 7 (.out job) (x.deflSegs stream) x.tag true
          if ran then (s.bump (F.DSL_CMP_CNT_DEFL_COUNT x.slice) (x.deflSegs stream)).compressed job x stream else s
    | none => s)

/-- Parts whose records were all superseded before CHK took them have nothing left to chunk: their digest contexts and space return. -/
def State.partsTrim (s : State) : State :=
  (s.write.digests.filter (fun q => !s.write.recs.any (fun x => x.2.own && partKey x.2.tag (x.2.cmdIdx / 64) == q.1 && x.2.typ == 1 && !x.2.chunked
    && (x.2.state == 1 || x.2.state == 2)))).foldl (fun s q =>
      ((s.poolGive 2 1).modWrite (fun w => { w with digests := AL.del q.1 w.digests })).rsvDone (q.1 / 65536) (q.1 % 65536)) s

/-- Jobs that were held back go on: compress jobs are bound to deflaters that have come free, chunks that found no band are placed, and
those that may commit land their records. -/
def State.jobsGoOn (s : State) : State :=
  let s := s.partsTrim
  let s := (s.write.jobs.filter (fun q => q.2.stage == .compress && (s.deflOf q.2.slice q.1).isNone)).foldl (fun s q => s.bindDefl q.1) s
  let s := (s.write.jobs.filter (fun q => q.2.stage == .placed && q.2.rsv == 0)).foldl (fun s q => s.placeJob q.1) s
  (s.write.jobs.filter (fun q => q.2.stage == .committing)).foldl (fun s q => s.commitJob q.1) s

/-- A store job's rows are all programmed: it commits (R209). -/
def State.jobProgrammed (s : State) (j : Nat) : State := (s.modJob j (fun x => { x with stage := .committing })).commitJob j

end Sys2Proof.Machine
end

