-- ==== Sys2Proof/Machine/Ldt.lean ====
section
/-! DEFINITION. Chapter 11, Lumvas Direct Transport as the head sends: connections, keys, messages, packets, paths and rate,
acknowledgements and how connections end. -/

namespace Sys2Proof.Machine

/-- Change the LDT data. -/
def State.modLdt (s : State) (f : LdtSt → LdtSt) : State := { s with ldt := f s.ldt }

/-- The unit of a connection number: bit 19 (R465). -/
def ldtUnit (n : Nat) : Nat := n / 2 ^ 19 % 2

/-- The LDT page of a unit. -/
def ldtSlot (u p : Nat) : Nat := Slot.LDT + 8 * u + p

/-- A connection by its number. -/
def State.lconn (s : State) (n : Nat) : Option LdtConn := AL.get n s.ldt.conns

/-- Change a connection. -/
def State.modLconn (s : State) (n : Nat) (f : LdtConn → LdtConn) : State :=
  match s.lconn n with
  | some x => s.modLdt (fun t => { t with conns := AL.put n (f x) t.conns })
  | none => s

/-- A connection's identity: its number and its reuse count (R465). -/
def LdtConn.ident (x : LdtConn) (n : Nat) : Nat := n + x.reuse * 2 ^ 20

/-- The association identity of a connection (R466). -/
def ldtAssoc (n : Nat) : Nat := 0x100000 + n

/-- Bytes of a segment code. -/
def segBytes (code : Nat) : Nat := if code = 0 then 1024 else if code = 1 then 4096 else 8192

/-- LDT serves: the unit is enabled and the head is in PAIRED, SOLO or SERVICE (R460). -/
def State.ldtServing (s : State) (u : Nat) : Bool := s.accepts Blk.LDT u && s.anaState != 0

/-! ### Statistics sets (R499) -/

/-- A statistics page counts a packet of a connection on a path. -/
def State.lstsMatch (s : State) (n path p : Nat) : Bool :=
  let u := ldtUnit n
  let id := s.get (F.LDT_STS_SEL_ID u p)
  match s.get (F.LDT_STS_SEL_KIND u p) with
  | 0 => true
  | 1 => n % 2 ^ 19 == id
  | 2 => ((s.lconn n).map (fun x => x.iface % 128 == id)).getD false
  | 3 => path == id
  | _ => false

/-- Count on the statistics pages that match. -/
def State.lsts (s : State) (n path : Nat) (f : Nat → Nat → Fld) (k : Nat := 1) : State :=
  ((List.range 5).filter (fun p => s.lstsMatch n path (3 + p))).foldl (fun (s : State) p => s.bump (f (ldtUnit n) (3 + p)) k) s

/-! ### Keys (R471, R472, R473) -/

/-- The handle of a generation of a connection's key. -/
def ldtHandle (n gen : Nat) : Nat := hConn (n + gen % 2 * 2 ^ 20)

/-- The key of generation `gen` (R471): the first 32 bytes of HMAC-SHA-384 under PRK over "LDT-KEY", T and the generation. -/
def LdtConn.keyOf (x : LdtConn) (gen : Nat) : Nat :=
  (Config.hmac x.prk 2 ([0x4C, 0x44, 0x54, 0x2D, 0x4B, 0x45, 0x59] ++ (List.range 48).map (fun i => x.th / 256 ^ (47 - i) % 256) ++ [gen % 256])).toNat
    / 2 ^ 128 % 2 ^ 256

/-- Hold a generation's key: it takes the handle of the generation two before it, whose key goes from KEY and from every slice (R473,
R358). -/
def State.ldtKey (s : State) (n gen : Nat) : State :=
  match s.lconn n with
  | some x =>
    let h := ldtHandle n gen
    let s := if AL.has h s.sec.handles then
        { s with slices := AL.mapV (fun _ y => { y with keys := AL.del h y.keys }) s.slices }.bump F.KEY_CNT_REMOVE_COUNT
      else s
    s.keyPut h { value := x.keyOf gen }
  | none => s

/-! ### How a packet is written (R461, R462, R489) -/

/-- Bytes, least significant first, of a list of 64-bit words, as one number. -/
def ofWords (ws : List Nat) : Nat := ws.foldr (fun w acc => w % 2 ^ 64 + acc * 2 ^ 64) 0

/-- The header of a packet as it is sent on a connection, as a number of 48 bytes (Table 11.1). The head never sets `ACKREQ` (log entry
138). -/
def LdtConn.header (x : LdtConn) (ptype gen psn msn mlen off plen : Nat) (last : Bool) (addr : Nat) : Nat :=
  let w0 := 2 ^ 60 + ptype % 16 * 2 ^ 56 + b2n last * 2 ^ 55 + gen % 256 * 2 ^ 40 + (if ptype = 0xC then 0 else x.scid % 2 ^ 32)
  ofWords [w0, psn % 2 ^ 48, msn % 2 ^ 32 * 2 ^ 32 + mlen % 2 ^ 32, off % 2 ^ 32 * 2 ^ 32 + plen % 2 ^ 16, addr,
    if ptype = 2 ∨ ptype = 3 then x.mkey else 0]

/-- The IV of a packet that the head sends: direction, space, generation and PSN (R462). -/
def LdtConn.iv (x : LdtConn) (ack : Bool) (gen psn : Nat) : Nat :=
  b2n (!x.initiator) * 2 ^ 95 + b2n ack * 2 ^ 94 + gen % 256 * 2 ^ 80 + psn % 2 ^ 48

/-- The trailer of a protected packet: its GCM tag (R461, R462). -/
def LdtConn.packetTag (x : LdtConn) (ack : Bool) (gen psn header payload : Nat) : Nat :=
  (Config.gcmSeal (x.keyOf gen) (x.iv ack gen psn) header payload).toNat

/-- The packets of a message in clear, HELLO or HELLO_RESP: segments of 1,024 bytes, each with its header and the CRC-32C of both (R461,
Table 11.3). -/
def LdtConn.clearPackets (x : LdtConn) (kind : Nat) (bytes : List Nat) : List (List Nat) :=
  (List.range (ceilDiv bytes.length 1024)).map (fun i =>
    let part := (bytes.drop (1024 * i)).take 1024
    let b := leNat 48 (x.header kind 0 i 0 bytes.length (1024 * i) part.length (decide (bytes.length ≤ 1024 * i + part.length)) 0) ++ part
    b ++ leNat 4 (crc32c b))

/-- Remove both keys of a connection. -/
def State.ldtKeysGone (s : State) (n : Nat) : State := (s.keyRemove (ldtHandle n 0)).keyRemove (ldtHandle n 1)

/-- A generation becomes current for both directions (R473); its key is held already where this end moved to it first. -/
def State.ldtGen (s : State) (n gen : Nat) : State :=
  let there := ((s.lconn n).map (fun x => x.txGen == gen)).getD false
  let s := s.modLconn n (fun x => { x with kgen := gen, txGen := max gen x.txGen, genBeat := if x.txGen = gen then x.genBeat else s.beat })
  (if there then s else s.ldtKey n gen).bump (F.LDT_CNT_REKEY_COUNT (ldtUnit n))

/-- The sender may move to the next generation (R472). -/
def LdtConn.mayRekey (x : LdtConn) : Bool :=
  x.state == 3 && x.txGen == x.kgen && x.heard && !x.pkts.any (fun p => decide (p.kgen < x.txGen))

/-- Move this direction to the next generation. -/
def State.ldtRekey (s : State) (n : Nat) : State :=
  match s.lconn n with
  | some x =>
    if x.mayRekey then
      (s.modLconn n (fun x => { x with txGen := x.txGen + 1, genBeat := s.beat, rekey := false, heard := false })).ldtKey n (x.txGen + 1)
    else s
  | none => s

/-! ### Paths and rate (R488 to R490) -/

/-- A path of a connection. -/
def LdtConn.path (x : LdtConn) (k : Nat) : LdtPath := AL.getD k {} x.pathSt

/-- Change a path. -/
def State.modPath (s : State) (n k : Nat) (f : LdtPath → LdtPath) : State :=
  s.modLconn n (fun x => { x with pathSt := AL.upd k {} f x.pathSt })

/-- The enabled paths of a connection. -/
def LdtConn.enabled (x : LdtConn) : List Nat := (List.range x.paths).filter (fun k => (x.path k).offUntil.isNone)

/-- The interface of a path: that of the connection, or for an initiator that of the path's next hop (R543). -/
def State.pathIf (s : State) (x : LdtConn) (k : Nat) : Nat :=
  match (x.hops[k]?).bind (fun h => AL.get h s.fab.hops) with
  | some w => w.1 % 256
  | none => x.iface

/-- The port of a path. -/
def State.pathPort (s : State) (x : LdtConn) (k : Nat) : Nat := ((AL.get (s.pathIf x k) s.host.ifaces).map (·.port)).getD 0

/-- A packet of LDT as it leaves on a path, to the other end by the path's next hop (R543), with the priority of LDT there, and ECT(0) while `ECN_EN` is 1 (R417, R489). -/
def State.ldtOut (s : State) (n k kind : Nat) (args : List Nat) (x : LdtConn) : Out :=
  { dest := .ldt n, kind := kind, args := args, addr := x.peerAddr, udp := x.dport
    hop := match (x.hops[k]?).bind (fun i => AL.get i s.fab.hops) with
      | some w => if bitOf w.1 61 then x.peerAddr else if bitOf w.1 62 then w.2.2.1 * 2 ^ 64 + w.2.2.2 else w.2.1 % 2 ^ 32
      | none => x.peerAddr
    ecn := 2 * s.get (F.LDT_CFG_ECN_EN (ldtUnit n))
    prio := ((AL.get (s.pathIf x k) s.host.ifaces).map (fun i => i.prio (s.get (F.HFI_PRIO_MAP_LDT (s.pathIf x k / 128))))).getD 0 }

/-- Whether the interface of a path lets LDT frames go. -/
def State.ldtMay (s : State) (x : LdtConn) (k : Nat) : Bool :=
  match AL.get (s.pathIf x k) s.host.ifaces with
  | some i => s.mayLeave i (s.get (F.HFI_PRIO_MAP_LDT (s.pathIf x k / 128)))
  | none => false

/-- The path for the next packet: the enabled paths in turn, skipping those whose rate allows none now. -/
def State.pickPath (s : State) (x : LdtConn) : Option Nat :=
  ((List.range x.paths).map (fun i => (x.nextPath + i) % x.paths)).find? (fun k =>
    (x.path k).offUntil.isNone && decide ((x.path k).nextNs ≤ s.tb) && s.ldtMay x k)

/-- The time a packet takes a path at its rate, in ns: `LDT_RATE_CURVE` is in units of 100 Mb/s, and no path is faster than
its port. -/
def State.packetNs (s : State) (x : LdtConn) (k bytes : Nat) : Nat :=
  let rate := min (s.get (F.LDT_RATE_CURVE_RATE (s.pathIf x k / 128 % 2) (x.path k).idx)) (1000 * s.portWidth (s.pathPort x k))
  ceilDiv (bytes * 80) (max 1 rate)

/-- A path carries a packet. -/
def State.pathUse (s : State) (n k bytes : Nat) : State :=
  match s.lconn n with
  | some x =>
    let d := s.packetNs x k bytes
    (s.modPath n k (fun p => { p with nextNs := max p.nextNs s.tb + d, used := true })).modLconn n (fun x => { x with
      nextPath := k + 1, lastTx := s.beat, sentBeat := some s.beat })
  | none => s

/-- Lower a path's index. -/
def State.pathDown (s : State) (n k step : Nat) : State :=
  (s.modPath n k (fun p => { p with idx := p.idx - step, quietBeat := s.beat, used := false })).bump (F.LDT_CNT_RATE_DOWN_COUNT (ldtUnit n))

/-! ### Packets (R461, R478 to R480) -/

/-- Send one packet on a path: the path, and the packet's header, payload and trailer. -/
def State.ldtWire (s : State) (n path ptype gen psn msn mlen off plen : Nat) (last : Bool) (addr data : Nat) : State :=
  let x := (s.lconn n).getD {}
  let h := x.header ptype gen psn msn mlen off plen last addr
  let v := data % 256 ^ plen
  let s := (s.sendOut (s.ldtOut n path ptype [path, h, v, x.packetTag false gen psn h v] x)).countTx (s.pathPort x path) 1 (plen + 64)
  ((s.pathUse n path (plen + 64)).lsts n path F.LDT_STS_TX_PKT_COUNT).lsts n path F.LDT_STS_TX_BYTES_COUNT plen

/-- Send a data packet again, with identical bytes, on another path where there is one (R479). -/
def State.ldtAgain (s : State) (n psn : Nat) (fast : Bool) : State :=
  match s.lconn n with
  | none => s
  | some x =>
    match x.pkts.find? (fun p => p.psn == psn) with
    | none => s
    | some p =>
      let others := x.enabled.filter (fun k => k != p.path)
      let k := ((minBy (fun k => (x.path k).nextNs) others) <|> x.enabled.head?).getD p.path
      let s := s.modLconn n (fun x => { x with pkts := x.pkts.map (fun q =>
        if q.psn = psn then { q with path := k, sentBeat := s.beat, sentNs := s.tb, fast := q.fast || fast, again := true } else q) })
      (s.ldtWire n k p.ptype p.kgen p.psn p.msn p.mlen p.off p.len p.last p.addr p.data).lsts n k F.LDT_STS_RETX_COUNT

/-- Payload bytes of a message: a READ_REQ has none. -/
def LdtTx.payload (m : LdtTx) : Nat := if m.ptype = 3 then 0 else m.mlen

/-- Offsets of the segments of a message that are still to be cut, in order (R480). -/
def LdtTx.left (m : LdtTx) (seg : Nat) : List Nat :=
  ((List.range (ceilDiv m.payload (max 1 seg))).map (fun i => i * seg)).filter (fun o => !m.cuts.contains o)

/-- Every block that a segment covers is there (R494). -/
def LdtTx.segIn (m : LdtTx) (seg o : Nat) : Bool :=
  match m.blocksIn with
  | none => true
  | some bs => (List.range ((o + min seg (m.payload - o) - 1) / 4096 + 1)).all (fun b => decide (b < o / 4096) || bs.contains b)

/-- The next segment of a message that may be cut. -/
def LdtTx.nextOff (m : LdtTx) (seg : Nat) : Option Nat :=
  if m.payload = 0 then (if m.begun then none else some 0) else (m.left seg).find? (fun o => m.segIn seg o)

/-- A message has packets left to send. -/
def LdtTx.isOpen (m : LdtTx) (seg : Nat) : Bool := !m.begun || m.left seg != []

/-- A message is wholly acknowledged. -/
def LdtConn.msgDone (x : LdtConn) (m : LdtTx) : Bool :=
  !m.isOpen (segBytes x.seg) && !x.pkts.any (fun p => p.msn == m.msn && p.ptype == m.ptype)

/-- A message may begin (R484, R486). -/
def LdtConn.mayBegin (x : LdtConn) (m : LdtTx) : Bool :=
  (m.ptype == 4 || decide (m.msn < ((x.msgs.filter (fun q => q.ptype != 4)).map (·.msn)).foldl min (x.txMsn) + 64))
    && (m.ptype != 1 || decide (x.sends < x.peerLimit))

/-- A message has a packet that is there to be sent. -/
def LdtConn.hasPkt (x : LdtConn) (m : LdtTx) : Bool := (m.nextOff (segBytes x.seg)).isSome

/-- The next message with a packet to send: those begun first, in order. -/
def LdtConn.nextMsg (x : LdtConn) : Option LdtTx :=
  (x.msgs.find? (fun m => m.begun && x.hasPkt m)) <|> ((x.msgs.find? (fun m => x.hasPkt m)).filter (fun m => x.mayBegin m))

/-- Cut and send the next packet of a message on a path. -/
def State.ldtCut (s : State) (n k : Nat) (x : LdtConn) (m : LdtTx) : State :=
  let seg := segBytes x.seg
  let off := (m.nextOff seg).getD 0
  let len := min seg (m.payload - off)
  let d := m.data / 256 ^ off % 256 ^ len
  let p : LdtPkt := {
    psn := x.txPsn, ptype := m.ptype, msn := m.msn, mlen := m.mlen, off := off, len := len
    last := decide (m.payload ≤ off + len), addr := m.addr, data := d, kgen := x.txGen, path := k
    sentBeat := s.beat, sentNs := s.tb }
  let s := s.modLconn n (fun x => { x with
    txPsn := x.txPsn + 1, pkts := x.pkts ++ [p], sends := if m.ptype = 1 ∧ !m.begun then x.sends + 1 else x.sends
    rekey := x.rekey || (x.txPsn + 1) % 2 ^ 40 == 0
    msgs := x.msgs.map (fun q => if q.msn = m.msn ∧ q.ptype = m.ptype then
      { q with cuts := q.cuts ++ [off], begun := true, beat := if q.begun then q.beat else s.beat } else q) })
  s.ldtWire n k p.ptype p.kgen p.psn p.msn p.mlen p.off p.len p.last p.addr p.data

/-- Send what may leave, packet by packet. -/
def State.ldtPump : Nat → Nat → State → State
  | 0, _, s => s
  | f + 1, n, s =>
    match s.lconn n with
    | none => s
    | some x =>
      match x.nextMsg with
      | none => if x.msgs.any (fun m => x.hasPkt m) then s else s.modLconn n (fun x => { x with pendBeat := none })
      | some m =>
        if s.get (F.LDT_ACK_CFG_WINDOW (ldtUnit n)) ≤ x.pkts.length then s.bump (F.LDT_CNT_WINDOW_STALL_COUNT (ldtUnit n))
        else match s.pickPath x with
          | some k => State.ldtPump f n (s.ldtCut n k x m)
          | none => s

/-- Let a connection send. -/
def State.ldtGo (s : State) (n : Nat) : State :=
  match s.lconn n with
  | some x =>
    if x.state = 0 ∨ x.state = 1 then s
    else
      let s := if x.rekey then s.ldtRekey n else s
      State.ldtPump ((x.msgs.map (fun m => m.payload / 1024 + 2)).sum + 1) n s
  | none => s

/-- Queue a message and send what may leave; the message's number is the connection's next (R480, R484). -/
def State.ldtMsg (s : State) (n ptype mlen addr data : Nat) : State :=
  (s.modLconn n (fun x => { x with
    msgs := x.msgs ++ [{ msn := x.txMsn, ptype := ptype, mlen := mlen, addr := addr, data := data }]
    txMsn := x.txMsn + 1, pendBeat := x.pendBeat <|> some s.beat })).ldtGo n

/-- A READ_RESP carries the number of the READ_REQ it answers (Table 11.2). -/
def State.ldtResp (s : State) (n msn mlen data : Nat) : State :=
  (s.modLconn n (fun x => { x with
    msgs := x.msgs ++ [{ msn := msn, ptype := 4, mlen := mlen, data := data }], pendBeat := x.pendBeat <|> some s.beat })).ldtGo n

/-- A CTRL message (Table 11.2). -/
def State.ldtCtrl (s : State) (n sub msn cond : Nat) : State := s.ldtMsg n 6 16 0 (sub + msn * 2 ^ 32 + cond * 2 ^ 64)

/-- Ask the other end for `len` bytes (Table 11.2): the request stands until its READ_RESP. -/
def State.ldtRead (s : State) (n addr len : Nat) (q : LdtReq) : State :=
  match s.lconn n with
  | some x => (s.modLconn n (fun x => { x with reads := AL.put x.txMsn q x.reads })).ldtMsg n 3 len addr (x.mkey)
  | none => s

/-! ### Acknowledgements (R476, R477, R486) -/

/-- The head's own `SEND_LIMIT`: commands completed plus `QDEPTH`; it stands while ADM is full (R486). -/
def State.ldtLimit (s : State) (x : LdtConn) : Nat := if s.admFull then x.ownLimit else max x.ownLimit (x.completed + x.qdepth)

/-- The payload of an ACK: `CUM`, a bit for each PSN received of the 256 above it, CE counts by path and the limit (Table 11.5). -/
def LdtConn.ackPayload (x : LdtConn) (limit : Nat) : Nat :=
  let sack := ((x.rxSet.filter (fun p => decide (p < x.rxNext + 256))).map (fun p => 2 ^ (p - x.rxNext))).sum
  let ece := leOf ((List.range 8).map (fun k => min 255 (x.path k).ce))
  (x.rxNext + 2 ^ 48 - 1) % 2 ^ 48 + sack * 256 ^ 8 + ece * 256 ^ 40 + limit % 2 ^ 32 * 256 ^ 48

/-- Send an ACK under the sender's generation (R462, R472). -/
def State.ldtAck (s : State) (n : Nat) : State :=
  match s.lconn n with
  | none => s
  | some x =>
    let lim := s.ldtLimit x
    let k := (s.pickPath x).getD 0
    let h := x.header 5 x.txGen x.ackPsn 0 0 0 64 false 0
    let v := x.ackPayload lim
    let s := (s.sendOut (s.ldtOut n k 5 [k, h, v, x.packetTag true x.txGen x.ackPsn h v] x)).countTx (s.pathPort x k) 1 128
    let s := (s.pathUse n k 128).lsts n k F.LDT_STS_TX_PKT_COUNT
    s.modLconn n (fun x => { x with
      ackPsn := x.ackPsn + 1, ackCnt := 0, ownLimit := lim, pathSt := x.pathSt.map (fun q => (q.1, { q.2 with ce := 0 })) })

/-! ### How connections end (R475) -/

/-- The commands of a connection end as under R60. -/
def State.ldtCmdsEnd (s : State) (n : Nat) : State :=
  let mine := s.adm.reqs.filter (fun q => match q.2.origin with | .ldt d _ => d == n | _ => false)
  (mine.foldl (fun (s : State) q => s.dropReq q.1) s).wakeHeld

/-- A CLOSING connection of which no command remains is CLOSED: its number and keys are free. -/
def State.ldtClosed (s : State) (n : Nat) : State :=
  match s.lconn n with
  | some x => ((s.ldtKeysGone n).assocGone (ldtAssoc n)).modLdt (fun t => { t with conns := AL.put n { reuse := x.reuse } t.conns })
  | none => s

/-- End a connection: CLOSE is sent where `tell` asks for it, its commands end, and nothing of it remains in the head. A
setup in progress gives its accept slot back. -/
def State.ldtEnd (s : State) (n : Nat) (tell : Bool) : State :=
  match s.lconn n with
  | none => s
  | some x =>
    if x.state = 0 then s
    else
      let s := if tell ∧ 3 ≤ x.state then s.ldtCut n ((s.pickPath x).getD 0) x { msn := x.txMsn, ptype := 6, mlen := 16, data := 1 } else s
      let s := s.ldtCmdsEnd n
      let s := match x.slot with
        | some w =>
          let s := s.modLdt (fun t => { t with slots := AL.del w t.slots, acceptQ := t.acceptQ.filter (· != w) })
          s.irqIs (ldtSlot (w / 64) 1) 1 (s.ldt.acceptQ.any (fun k => k / 64 == w / 64))
        | none => s
      s.ldtClosed n

end Sys2Proof.Machine
end

