-- ==== Sys2Proof/Machine/Ports.lean ====
section
/-! DEFINITION. Chapter 10, host ports: link changes, speed detection, received frames and priority flow control. -/

namespace Sys2Proof.Machine

/-! ### Links (R408 to R411) -/

/-- A port gains or loses alignment lock. -/
def State.portLink (s : State) (p : Nat) (up : Bool) : State :=
  let st := s.portState p
  if up ∧ s.refOk (2 + p / 48) ∧ s.portFree p (s.portWidth p) then (if st = 2 ∨ (st = 1 ∧ bitOf (s.get (F.HFI_Q_CFG_PORT_EN (p / 48) (p / 4 % 12))) (p % 4)) then
      (s.setPort p 3 (s.portWidth p)).portGoOn p else s)
  else if !up ∧ st = 3 then s.setPort p 1 (s.portWidth p) else s

/-- `PORT_LINK_CHANGE` (R411): a port is up while its PCS holds alignment lock. -/
def execPortLinkChange (port : Nat) (up : Bool) (s : State) : Res :=
  .next (if port < 96 then s.portLink port up else s)

/-- Every enabled port of a quad's mode is up. -/
def State.quadUp (s : State) (q : Nat) : Bool :=
  let (g, k) := quadOf q
  (List.range 4).all (fun n =>
    (modeWidths (s.get (F.HFI_Q_STAT_MODE g k))).getD n 0 == 0 || !bitOf (s.get (F.HFI_Q_CFG_PORT_EN g k)) n || s.portUp (4 * q + n))

/-- `HFI_DETECT_STEP` (R410): a mode has been held for 2,048 beats; it is kept, or the next is tried. -/
def execHfiDetectStep (q : Nat) (s : State) : Res :=
  .next (match AL.get q s.host.detect with
    | some b =>
      let (g, k) := quadOf q
      if s.beat < b + 2048 then s
      else if s.quadUp q then (s.set (F.HFI_Q_STAT_DETECTING g k) 0).modHost (fun h => { h with detect := AL.del q h.detect })
      else (s.modHost (fun h => { h with detect := AL.put q s.beat h.detect })).quadMode q (detectNext (s.get (F.HFI_Q_STAT_MODE g k)))
    | none => s)

/-! ### Received frames (R415, R420) -/

/-- The interfaces of a port that carry a frame's VLAN. -/
def State.frameIfaces (s : State) (port : Nat) (f : Frame) : List Iface :=
  ((s.host.ifaces.filter (fun q => q.1 / 128 == port / 48 && q.2.port == port &&
    (match f.vid with | some v => q.2.tagged && q.2.vid == v | none => !q.2.tagged))).map (fun q => q.2))

/-- An interface holds an address. -/
def Iface.holds (i : Iface) (ipv ip : Nat) : Bool := (ipv == 4 && i.v4 && i.v4Addr == ip) || (ipv == 6 && i.v6 && i.v6Addr == ip)

/-- The broadcast address. -/
def macBroadcast : Nat := 2 ^ 48 - 1

/-- The counter of the discard that a frame meets, where it meets one (R415, R420). -/
def State.frameDrop (s : State) (port : Nat) (f : Frame) : Option Fld :=
  let g := port / 48
  let is := s.frameIfaces port f
  if f.kind = 6 then some (F.HFI_CNT_PAUSE_8023X_COUNT g)
  else if !(f.dst == s.baseMac + port || (f.dst == macBroadcast && f.kind == 0) || f.joined) then some (F.HFI_CNT_ADDR_DROP_COUNT g)
  else if is = [] ∧ f.kind ≠ 5 then some (F.HFI_CNT_VLAN_DROP_COUNT g)
  else if f.frag then some (F.HFI_CNT_FRAG_DROP_COUNT g)
  else if f.ipv ≠ 0 ∧ !f.joined ∧ !is.any (fun i => i.holds f.ipv f.ip) then some (F.HFI_CNT_ADDR_DROP_COUNT g)
  else if !f.csumOk then some (F.HFI_CNT_CSUM_DROP_COUNT g)
  else if f.full ∧ !s.pfcOn g f.prio then some (F.HFI_CNT_RX_DROP_COUNT g)
  else none


/-- Codes of the frames that HFI sends of its own, as the model lists them in `sent`. -/
def Hfi.arpNd : Nat := 0x201
/-- An echo reply. -/
def Hfi.echo : Nat := 0x202
/-- A PFC frame: priority and quanta. -/
def Hfi.pfc : Nat := 0x203

/-- The priority of what HFI answers to a frame: that of its own service on the interface that the frame names (R417). -/
def State.ctlPrio (s : State) (port : Nat) (f : Frame) : Nat :=
  let is := s.frameIfaces port f
  (((is.find? (fun i => i.holds f.ipv f.ip)) <|> is.head?).map (fun i => i.prio (s.get (F.HFI_PRIO_MAP_CTL (port / 48))))).getD
    (s.get (F.HFI_PRIO_MAP_CTL (port / 48)))

/-- A frame on a port that is up. -/
def State.frameRx (s : State) (port : Nat) (f : Frame) : State :=
  let g := port / 48
  let q := port / 4 % 12
  let n := port % 4
  let s := (s.satInc (F.HFI_FEC_CNT_CORRECTED g q n) f.fecCorr).satInc (F.HFI_FEC_CNT_UNCORR g q n) f.fecBad
  if f.err then s.bump (F.HFI_CNT_RX_ERR_COUNT g q n)
  else
    let s := (s.bump (F.HFI_CNT_RX_FRAMES_COUNT g q n)).bump (F.HFI_CNT_RX_BYTES_COUNT g q n) f.bytes
    match s.frameDrop port f with
    | some c => s.bump c
    | none =>
      if f.kind ≤ 1 then (s.bump (F.HFI_CNT_ARP_ND_COUNT g)).hfiSend port (s.ctlPrio port f) Hfi.arpNd [f.ip] 64
      else if f.kind = 2 then (s.bump (F.HFI_CNT_ICMP_COUNT g)).hfiSend port (s.ctlPrio port f) Hfi.echo [f.ip] f.bytes
      else s

/-- `HFI_FRAME_RX` (R415): the segment, packet or message that a frame of TCP, UDP or PTP carries is a command of its
own. -/
def execHfiFrameRx (port : Nat) (f : Frame) (s : State) : Res :=
  .next (if s.hfiLive ∧ s.portUp port then s.frameRx port f else s)

/-! ### Priority flow control (R419, R421) -/

/-- Send a PFC frame for a priority; no pause stops it. -/
def State.pfcSend (s : State) (port prio quanta : Nat) : State :=
  ((s.send (.port port) Hfi.pfc [prio, quanta]).countTx port 1 64).bump (F.HFI_CNT_PFC_TX_COUNT (port / 48) (port / 4 % 12) (port % 4))

/-- A percentage of a priority's part. -/
def State.pfcPct (s : State) (port pct bytes : Nat) : Bool := decide (s.pfcPart port * pct ≤ bytes * 100)

/-- `XOFF_PCT` of a port's quad. -/
def State.xoffPct (s : State) (port : Nat) : Nat := s.get (F.HFI_Q_PFC_XOFF_PCT (port / 48) (port / 4 % 12))

/-- `XON_PCT` of a port's quad. -/
def State.xonPct (s : State) (port : Nat) : Nat := s.get (F.HFI_Q_PFC_XON_PCT (port / 48) (port / 4 % 12))

/-- `PFC_XOFF` (R419): the occupancy of an enabled priority's part, `bytes`, has reached `XOFF_PCT`. -/
def execPfcXoff (port prio bytes : Nat) (s : State) : Res :=
  .next (if s.hfiLive ∧ s.portUp port ∧ s.pfcOn (port / 48) prio ∧ s.pfcPct port (s.xoffPct port) bytes ∧ !AL.has (port * 8 + prio) s.host.xoff then
      (s.pfcSend port prio 0xFFFF).modHost (fun h => { h with xoff := AL.put (port * 8 + prio) s.beat h.xoff })
    else s)

/-- `PFC_REFRESH` (R419): every 2 beats while the occupancy stays above `XON_PCT`. -/
def execPfcRefresh (port prio bytes : Nat) (s : State) : Res :=
  .next (match AL.get (port * 8 + prio) s.host.xoff with
    | some b =>
      if b + 2 ≤ s.beat ∧ s.pfcPart port * s.xonPct port < bytes * 100 ∧ s.portUp port then
        (s.pfcSend port prio 0xFFFF).modHost (fun h => { h with xoff := AL.put (port * 8 + prio) s.beat h.xoff })
      else s
    | none => s)

/-- `PFC_XON` (R419): the occupancy has fallen to `XON_PCT` or below. -/
def execPfcXon (port prio bytes : Nat) (s : State) : Res :=
  .next (if AL.has (port * 8 + prio) s.host.xoff ∧ bytes * 100 ≤ s.pfcPart port * s.xonPct port then
      (s.pfcSend port prio 0).modHost (fun h => { h with xoff := AL.del (port * 8 + prio) h.xoff })
    else s)

/-- A received pause of one priority: quanta of 512 bit times at the port's rate, 100 bits a nanosecond and lane; 0 ends
it. -/
def State.pauseFor (s : State) (port prio quanta : Nat) : State :=
  if quanta = 0 then (s.modHost (fun h => { h with paused := AL.del (port * 8 + prio) h.paused })).portGoOn port
  else s.modHost (fun h => { h with paused := AL.put (port * 8 + prio) (s.tb + ceilDiv (quanta * 512) (100 * max 1 (s.portWidth port))) h.paused })

/-- `PFC_FRAME_RX` (R421): (priority, quanta) of each priority the frame names. -/
def execPfcFrameRx (port : Nat) (quanta : List (Nat × Nat)) (s : State) : Res :=
  .next (if s.hfiLive ∧ s.portUp port then
      quanta.foldl (fun (s : State) q => s.pauseFor port q.1 q.2) (s.bump (F.HFI_CNT_PFC_RX_COUNT (port / 48) (port / 4 % 12) (port % 4)))
    else s)

/-- `PFC_PAUSE_EXPIRE` (R421). -/
def execPfcPauseExpire (port prio : Nat) (s : State) : Res :=
  .next (match AL.get (port * 8 + prio) s.host.paused with
    | some t => if t ≤ s.tb then (s.modHost (fun h => { h with paused := AL.del (port * 8 + prio) h.paused })).portGoOn port else s
    | none => s)

end Sys2Proof.Machine
end

