-- ==== Sys2Proof/Machine/Fab.lean ====
section
/-! DEFINITION. Chapter 13, the fabric: members and the claim of the HID, routes, placement, connections to other heads and
foreign fetches. -/

namespace Sys2Proof.Machine

/-- Change the fabric data. -/
def State.modFab (s : State) (f : FabSt → FabSt) : State := { s with fab := f s.fab }

/-- A FAB page. -/
def fabSlot (p : Nat) : Nat := Slot.FAB + p

/-- FAB is enabled and the head is in PAIRED or SOLO (R536). -/
def State.fabMay (s : State) : Bool := (s.unit (unitKey Blk.FAB 0)).enable && s.serving

/-- The head takes part in the fabric: it claims or is a member. -/
def State.fabIn (s : State) : Bool := s.fabMay && (s.get F.FAB_STAT_STATE == 1 || s.get F.FAB_STAT_STATE == 2)

/-! ### The fabric key (R538, Table 13.1) -/

/-- KEY holds the slot with a use, and counts it used; an empty one is reported once. -/
def State.slotFor (s : State) (k useBit : Nat) : Option Nat × State :=
  match AL.get (hSlot k) s.sec.handles with
  | some h =>
    if h.removing then (none, s) else if bitOf h.use useBit then (some h.value, s.keyUsed (hSlot k)) else (none, s)
  | none =>
    if s.sec.emptySaid.contains k then (none, s)
    else (none, (s.modSec (fun x => { x with emptySaid := x.emptySaid ++ [k] })).raise Slot.KEY Cond.KEY_SLOT_EMPTY k)

/-- Bytes 0 to 55 of a hello (Table 13.1): type 1 HELLO, 2 LEAVE. -/
def State.helloBytes (s : State) (typ : Nat) : List Nat :=
  let i := if s.get F.FAB_HELLO_CFG_IF_W_EN = 1 then s.get F.FAB_HELLO_CFG_IF_W else 128 + s.get F.FAB_HELLO_CFG_IF_E
  let x := (AL.get i s.host.ifaces).getD {}
  let flags := s.side + 2 * s.get F.FAB_CFG_HOME + 4 * b2n (s.get F.FAB_STAT_STATE == 1) + 8 * b2n x.v4 + 16 * b2n x.v6
  [0xF4, 0xB1, 1, typ] ++ leNat 2 (s.get F.FAB_ID_HID) ++ [flags, 0] ++ leNat 8 s.pair.arrayId ++ leNat 8 Config.chip.toNat
    ++ leNat 4 s.fab.held ++ leNat 4 s.fab.txSeq ++ leNat 2 (s.get (F.LDT_CFG_UDP_PORT 0)) ++ [0, 0]
    ++ leNat 4 (if x.v4 then x.v4Addr else 0) ++ leNat 16 (if x.v6 then x.v6Addr else 0)

/-- The code under which a fabric hello leaves a port. -/
def Hfi.hello : Nat := 0x204

/-- Send a hello or LEAVE on the interfaces enabled, to each multicast group that is not zero (R536, R537). -/
def State.helloSend (s : State) (typ : Nat) : State :=
  let (key, s) := s.slotFor (s.get F.FAB_CFG_KEY_SLOT) 1
  let (noKey, s) := s.free 64
  let s := s.modFab (fun f => { f with txSeq := (f.txSeq + 1) % 2 ^ 32, helloBeat := s.beat })
  let b := s.helloBytes typ
  let mac := macBytes (key.getD noKey) b
  let groups := (if s.get F.FAB_MCAST_V4_GROUP = 0 then [] else [4]) ++ (if s.get F.FAB_MCAST_V6_HI_GROUP = 0 ∧ s.get F.FAB_MCAST_V6_LO_GROUP = 0 then [] else [6])
  let ifs := (if s.get F.FAB_HELLO_CFG_IF_W_EN = 1 then [s.get F.FAB_HELLO_CFG_IF_W] else [])
    ++ (if s.get F.FAB_HELLO_CFG_IF_E_EN = 1 then [128 + s.get F.FAB_HELLO_CFG_IF_E] else [])
  let s := ifs.foldl (fun (s : State) i => groups.foldl (fun (s : State) g =>
    s.hfiSend (((AL.get i s.host.ifaces).map (·.port)).getD 0) (((AL.get i s.host.ifaces).getD {}).prio (s.get (F.HFI_PRIO_MAP_FAB (i / 128)))) Hfi.hello ([i, g, s.get F.FAB_HELLO_CFG_TTL, s.get F.FAB_CFG_UDP_PORT] ++ b ++ mac) 134) s) s
  s.bump F.FAB_CNT_HELLO_TX_COUNT

/-! ### Routes (R542 to R544) -/

/-- The route to a head: the lowest-numbered entry whose range holds its HID. -/
def State.routeOf (s : State) (hid : Nat) : Option RouteEnt := s.fab.routes.find? (fun r => decide (r.lo ≤ hid) && decide (hid ≤ r.hi))

/-- The base of the fabric's region. -/
def State.fabBase (s : State) : Nat := s.get F.FAB_BASE_BASE * 2 ^ 23

/-- A next-hop entry as the table holds it: words 0 to 3. -/
def State.hopAt (s : State) (i : Nat) : Nat × Nat × Nat × Nat :=
  let a := s.fabBase + 0x508000 + 32 * i
  (Mem.rdLE a 8 s.mem, Mem.rdLE (a + 8) 8 s.mem, Mem.rdLE (a + 16) 8 s.mem, Mem.rdLE (a + 24) 8 s.mem)

/-- A next-hop entry is valid and names a valid interface. -/
def State.hopOk (s : State) (i : Nat) : Bool := bitOf (s.hopAt i).1 63 && (AL.get ((s.hopAt i).1 % 256) s.host.ifaces).isSome

/-- Read both tables, as a commit of FAB page 2 applies (R542). -/
def State.readRoutes (s : State) : State :=
  let words := ((List.range 4096).map (fun i => Mem.rdLE (s.fabBase + 0x500000 + 8 * i) 8 s.mem)).filter (fun w => bitOf w 63)
  let ent (w : Nat) : RouteEnt := { lo := w % 65536, hi := bitsOf w 16 16, npath := bitsOf w 56 4, first := bitsOf w 44 12 }
  let ok (r : RouteEnt) : Bool := decide (r.lo ≤ r.hi) && decide (1 ≤ r.npath) && decide (r.npath ≤ 8) && decide (r.first + r.npath ≤ 4096)
    && (List.range r.npath).all (fun k => s.hopOk (r.first + k))
  let good := (words.map ent).filter ok
  let hops := (good.flatMap (fun r => (List.range r.npath).map (fun k => r.first + k))).eraseDups
  (s.modFab (fun f => { f with routes := good, hops := hops.foldl (fun m i => AL.put i (s.hopAt i) m) [] })).setAll
    [(F.FAB_ROUTE_STAT_VALID, good.length), (F.FAB_ROUTE_STAT_REJECTED, words.length - good.length)]

/-! ### Members and placement (R539, R545 to R547) -/

/-- A member is live. -/
def State.memberLive (s : State) (hid : Nat) : Bool := ((AL.get hid s.fab.members).map (fun m => m.st == 2)).getD false

/-- Count the members (`FAB_STAT`). -/
def State.fabCount (s : State) : State :=
  s.set F.FAB_STAT_MEMBERS ((s.fab.members.filter (fun q => q.2.st == 2)).length)

/-- The home pairs seen: those of which a live, routed head announces HOME, this head's own among them (R544, R545). -/
def State.homePairs (s : State) : List Nat :=
  let far := (s.fab.members.filter (fun q => q.2.st == 2 && q.2.home && (s.routeOf q.1).isSome)).map (fun q => q.1 / 2)
  let own := if s.get F.FAB_CFG_HOME = 1 ∧ s.get F.FAB_STAT_STATE = 2 then [s.get F.FAB_ID_HID / 2] else []
  sortBy id (far ++ own).eraseDups

/-- A change of the home pairs starts the wait anew (R547). -/
def State.homesCheck (s : State) : State :=
  let now := s.homePairs
  let s := s.set F.FAB_STAT_HOME_PAIRS now.length
  if now = s.fab.seen then s
  else (s.modFab (fun f => { f with seen := now, holdSince := some s.beat, computing := none })).set F.FAB_PLACE_STAT_BUSY 1

/-- The weight of a pair for a slot (R546). -/
def weight (seed slot p : Nat) : Nat :=
  let x := seed ^^^ (slot * 65536) ^^^ p
  let x := ((x ^^^ (x / 2 ^ 30)) * 0xBF58476D1CE4E5B9) % 2 ^ 64
  let x := ((x ^^^ (x / 2 ^ 27)) * 0x94D049BB133111EB) % 2 ^ 64
  x ^^^ (x / 2 ^ 31)

/-- The homes of a slot in rank order (R546). -/
def homesOf (seed replicas slot : Nat) (pairs : List Nat) : List Nat :=
  (sortBy (fun p => 2 ^ 64 - weight seed slot p) (sortBy id pairs)).take replicas

/-- `FAB_PLACE_HOLD_EXPIRE` (R547). -/
def execFabPlaceHoldExpire (s : State) : Res :=
  .next (match s.fab.holdSince with
    | some b =>
      if b + 1024 * s.get F.FAB_PLACE_CFG_HOLD ≤ s.beat then s.modFab (fun f => { f with holdSince := none, computing := some (f.seen, s.beat) }) else s
    | none => s)

/-- A slot's entry: bits 16r + 15:16r hold rank r, bit 15 of them marks the rank valid (R546). -/
def slotEntry (seed replicas slot : Nat) (pairs : List Nat) : Nat :=
  ((homesOf seed replicas slot pairs).zipIdx).foldl (fun v (q : Nat × Nat) => v + (32768 + q.1 % 32768) * 2 ^ (16 * q.2)) 0

/-- Write the table of a copy into the fabric's region: copies 0 and 1 at 0x40_0000 and 0x48_0000 (R546, R547). -/
def State.placeWrite (s : State) (copy seed replicas : Nat) (pairs : List Nat) : State :=
  s.putBytes (s.fabBase + 0x400000 + 0x80000 * copy) ((List.range 65536).flatMap (fun k => leNat 8 (slotEntry seed replicas k pairs)))

/-- `FAB_PLACE_SWAP` (R547): 65,536 weights for each home pair, one per K3 cycle of 12,800 in a beat; then the copies change
places. -/
def execFabPlaceSwap (s : State) : Res :=
  .next (match s.fab.computing with
    | some (l, b) =>
      if b + ceilDiv (65536 * l.length) 12800 ≤ s.beat then
        let seed := s.get F.FAB_PLACE_SEED_SEED
        let n := s.get F.FAB_PLACE_CFG_REPLICAS
        let s := (s.placeWrite (1 - s.get F.FAB_PLACE_STAT_COPY) seed n l).modFab (fun f => { f with computing := none, homes := l, seed := seed, replicas := n })
        ((s.setAll [(F.FAB_PLACE_STAT_BUSY, 0), (F.FAB_PLACE_STAT_COPY, 1 - s.get F.FAB_PLACE_STAT_COPY), (F.FAB_PLACE_STAT_PAIRS, l.length),
          (F.FAB_PLACE_STAT_BEAT, s.beat32)]).irq (fabSlot 2) 1).bump F.FAB_CNT_RECOMPUTE_COUNT
      else s
    | none => s)

/-! ### Connections to heads (R543, R544, R549) -/

/-- No route holds a member's HID (R544). -/
def State.noRoute (s : State) (hid : Nat) : State :=
  let s := s.bump F.FAB_CNT_NO_ROUTE_COUNT
  match AL.get hid s.fab.members with
  | some m =>
    if m.noRoute then s
    else (s.modFab (fun f => { f with members := AL.put hid { m with noRoute := true } f.members })).raise (fabSlot 2) Cond.FAB_NO_ROUTE hid
  | none => s

/-- A free connection number of a unit. -/
def State.freeConn (s : State) (u : Nat) : Option Nat :=
  let used := s.ldt.conns.filter (fun q => ldtUnit q.1 == u && q.2.state != 0)
  (List.range (used.length + 1)).map (fun i => u * 2 ^ 19 + i) |>.find? (fun n => decide (n % 2 ^ 19 < 2 ^ 19) && !used.any (fun q => q.1 == n))

/-- The next reuse count of a number: modulo 4,096, skipping 0 (R465). -/
def nextReuse (r : Nat) : Nat := if (r + 1) % 4096 = 0 then 1 else (r + 1) % 4096

/-- The HELLO of an initiator (Table 11.3); the credential comes from the settings (item 4). -/
def State.helloPayload (s : State) (n : Nat) (x : LdtConn) : List Nat :=
  let cred := match (AL.get s.flash.slot s.flash.slots).bind (fun t => t.items.find? (fun i => i.1 == 4)) with
    | some i => leNat i.2.2 i.2.1
    | none => []
  leNat 4 (x.ident n) ++ leNat 2 x.sportBase ++ leNat 2 x.rport ++ [x.paths, x.seg] ++ leNat 2 x.qdepth ++ leNat 8 x.mkey ++ leNat 32 x.nonce
    ++ (List.range 97).map (fun k => (Config.setupPublic 0 x.secret k).toNat) ++ (List.range 1568).map (fun k => (Config.setupPublic 1 x.secret k).toNat)
    ++ leNat 2 cred.length ++ cred

/-- Send a set-up message in clear: type 0xC HELLO, 0xD HELLO_RESP, with its whole payload. -/
def State.ldtClear (s : State) (n kind : Nat) (bytes : List Nat) : State :=
  match s.lconn n with
  | some x => (((x.clearPackets kind bytes).foldl (fun (s : State) p => s.sendOut (s.ldtOut n 0 kind (0 :: p) x)) s).countTx (s.pathPort x 0) (ceilDiv bytes.length 1024) bytes.length).modLconn n (fun x => { x with
      lastTx := s.beat })
  | none => s

/-- Open a connection to a head over its route: the HELLO leaves (R543, R467). -/
def State.headOpen (s : State) (hid : Nat) (r : RouteEnt) : Option Nat × State :=
  let hops := (List.range r.npath).map (fun k => r.first + k)
  let i := ((AL.get r.first s.fab.hops).map (fun w => w.1 % 256)).getD 0
  let u := i / 128
  match s.freeConn u, AL.get hid s.fab.members with
  | some n, some m =>
    let old := ((s.lconn n).map (·.reuse)).getD 0
    let (nonce, s) := s.draw256
    let (secret, s) := s.draw256
    let (mkey, s) := s.draw256
    let (sport, s) := s.free 16
    let x : LdtConn := {
      state := 1, reuse := nextReuse old, initiator := true, iface := i, v6 := m.v4.isNone, sportBase := sport
      rport := s.get (F.LDT_CFG_UDP_PORT u), dport := m.ldtPort, paths := r.npath, seg := s.get (F.LDT_CFG_SEG u), qdepth := s.get (F.LDT_CFG_QDEPTH_MAX u)
      mkey := mkey % 2 ^ 64, nonce := nonce, secret := secret, peerAddr := (m.v4 <|> m.v6).getD 0, hid := hid, hops := hops
      resident := true, lastRx := s.beat, lastTx := s.beat, stateBeat := s.beat }
    let x := { x with hello := s.helloPayload n x }
    let s := s.modLdt (fun t => { t with conns := AL.put n x t.conns })
    (some n, (s.modFab (fun f => { f with conns := f.conns ++ [(hid, n, s.beat)] })).ldtClear n 0xC x.hello)
  | _, _ => (none, s)

/-- The connection to a head, opened where none stands; with `MAX_CONN` held the least recently used closes first (R549). -/
def State.headConn (s : State) (hid : Nat) : Option Nat × State :=
  match s.fab.conns.find? (fun q => q.1 == hid) with
  | some (_, n, _) => (some n, s.modFab (fun f => { f with conns := f.conns.map (fun q => if q.1 = hid then (hid, n, s.beat) else q) }))
  | none =>
    match s.routeOf hid with
    | none => (none, s.noRoute hid)
    | some r =>
      let s := if s.fab.conns.length < s.get F.FAB_FETCH_CFG_MAX_CONN then s else
        match minBy (fun q => q.2.2) s.fab.conns with
        | some q => (s.modFab (fun f => { f with conns := f.conns.filter (fun c => c.2.1 != q.2.1) })).ldtEnd q.2.1 true
        | none => s
      s.headOpen hid r

/-! ### Commands to other heads (Table 13.5) -/

/-- Open the connections that waited for random bits (R595). -/
def State.headsOpen (s : State) : State :=
  if !s.mayDraw then s else
  (s.fab.out.filter (fun q => q.2.waits)).foldl (fun (s : State) q =>
    ((s.modFab (fun f => { f with out := AL.put q.1 { q.2 with waits := false } f.out })).headConn q.2.hid).2) s

/-- Send the commands that wait for a connection now established. -/
def State.headGo (s : State) : State :=
  s.fab.out.foldl (fun (s : State) q =>
    if q.2.conn.isSome then s else
      match s.fab.conns.find? (fun c => c.1 == q.2.hid) with
      | some (_, n, _) =>
        if ((s.lconn n).map (fun x => x.state == 3)).getD false then
          (s.modFab (fun f => { f with out := AL.put q.1 { q.2 with conn := some n } f.out })).ldtMsg n 1 64 0 (ofWords q.2.words)
        else s
      | none => s) s

/-- A command for another head: its tag is in word 0 and the model's name of its reply buffer in word 3. -/
def State.headSend (s : State) (hid opc : Nat) (what : HeadWhat) (w1 w2 : Nat) (buf : Option Nat) (len w5 w6 : Nat) (data : Nat := 0)
    (dataLen : Nat := 0) : Nat × State :=
  let t := s.fab.nextTag
  let b := buf.getD (2 ^ 63 + t * 2 ^ 24)
  let c : HeadCmd := {
    hid := hid, what := what, words := [opc * 2 ^ 56 + t, w1, w2, b, len * 2 ^ 32, w5, w6, 0], buf := b, data := data
    dataLen := dataLen, beat := s.beat, waits := !s.mayDraw && !s.fab.conns.any (fun q => q.1 == hid) }
  let s := s.modFab (fun f => { f with out := AL.put t c f.out, nextTag := (t + 1) % 2 ^ 32 })
  (t, (if c.waits then s else (s.headConn hid).2).headGo)

/-- Data placed by WRITE messages at a buffer. -/
def LdtConn.placedAt (x : LdtConn) (buf len : Nat) : Nat :=
  (x.placed.filter (fun q => decide (buf ≤ q.1) && decide (q.1 < buf + len))).foldl (fun v q => v + q.2.2 * 256 ^ (q.1 - buf)) 0

/-- Forget a command and what was placed for it. -/
def State.headForget (s : State) (t : Nat) : State :=
  match AL.get t s.fab.out with
  | some c =>
    let s := s.modFab (fun f => { f with out := AL.del t f.out })
    match c.conn with
    | some n => s.modLconn n (fun x => { x with placed := x.placed.filter (fun q => !(decide (c.buf ≤ q.1) && decide (q.1 < c.buf + 2 ^ 24))) })
    | none => s
  | none => s

/-! ### Foreign fetches (R548 to R554) -/

/-- The head of a home pair that is asked for a chunk (R549). -/
def State.homeHead (s : State) (p chunk : Nat) : Nat :=
  let h := 2 * p + chunk % 2
  if s.memberLive h && (s.routeOf h).isSome then h else 2 * p + (1 - chunk % 2)

/-- The reads that wait for a foreign chunk. -/
def State.foreignWaiters (s : State) (key : Nat) : List Nat :=
  ((s.read.fetches.filter (fun q => q.2.cid == key && q.2.mode == .foreign && !q.2.done)).map (fun q => q.2.tag)).eraseDups

/-- Every rank has failed (R554). -/
def State.foreignFail (s : State) (key : Nat) : State :=
  let s := ((s.modFab (fun f => { f with fetches := AL.del key f.fetches })).raise (fabSlot 3) Cond.FOREIGN_UNAVAILABLE (key % 2 ^ 40)).bump F.FAB_CNT_FETCH_FAIL_COUNT
  ((s.foreignWaiters key).foldl (fun (s : State) t => (s.bump F.RDP_CNT_FAILED_COUNT).finish t Cond.FOREIGN_UNAVAILABLE) s).wakeHeld

/-- Ask the next home for a chunk (R549, R552): a member without a route is treated as lost; a head that does not take part in the
fabric can ask none (R536). -/
def State.fabAsk : Nat → Nat → State → State
  | 0, _, s => s
  | f + 1, key, s =>
    match AL.get key s.fab.fetches with
    | none => s
    | some x =>
      match x.left with
      | [] => s.foreignFail key
      | p :: t =>
        if !s.fabIn then s.foreignFail key else
        let s := s.modFab (fun f => { f with fetches := AL.put key { x with left := t } f.fetches })
        let h := s.homeHead p (key % 2 ^ 40)
        if !s.memberLive h then State.fabAsk f key s
        else if (s.routeOf h).isNone then State.fabAsk f key (s.noRoute h)
        else
          let (tag, s) := s.headSend h 0x40 (.fetch key) (x.vol * 2 ^ 48 + x.lba) (x.index * 2 ^ 40 + key % 2 ^ 40) none 66048
            (s.get F.FAB_ID_HID) 0
          (s.modFab (fun f => { f with fetches := f.fetches.map (fun q => if q.1 = key then (key, { q.2 with ctag := tag, beat := s.beat }) else q) })).bump
            F.FAB_CNT_FETCH_COUNT

/-- Ask the next home after one that failed. -/
def State.fabNext (s : State) (key : Nat) : State :=
  match AL.get key s.fab.fetches with
  | some x => State.fabAsk (x.left.length + 1) key ((s.headForget x.ctag).bump F.FAB_CNT_FETCH_RETRY_COUNT)
  | none => s

/-- Start the fetch of each foreign chunk that a read waits for and none is in progress for (R549, R550). -/
def State.fabNeed (s : State) : State :=
  ((s.read.fetches.filter (fun q => q.2.mode == .foreign && !q.2.done)).foldl (fun (s : State) q =>
    if ((AL.get q.2.cid s.fab.fetches).map (fun x => !x.arrived)).getD false then s else
      match s.req q.2.tag with
      | none => s
      | some r =>
        match r.sources.find? (fun x => x.2 == .foreign q.2.cid) with
        | none => s
        | some (lba, _) =>
          let key := q.2.cid
          let pairs := homesOf s.fab.seed s.fab.replicas (key % 2 ^ 40 / 2 ^ 24) s.fab.homes
          let x : FabFetch := { vol := r.vol, lba := lba, index := r.blockIndex lba, left := pairs, beat := s.beat }
          State.fabAsk (pairs.length + 1) key (s.modFab (fun f => { f with fetches := AL.put key x f.fetches }))) s)


/-- The chunk that a stored copy of `len` bytes holds. -/
def storedEnt (data len : Nat) : CtbEnt :=
  let fp := swapBytes 32 (data % 2 ^ 256)
  let w := bitsOf data 352 32
  let payload := data / 2 ^ 512
  let vat := bitsOf w 20 12
  let gen := bitsOf w 12 8
  let orig := bitsOf w 7 5
  { count := 1, len := len / 512, raw := bitOf w 6, dynamic := bitOf w 5, keyGen := gen, fpTag := bitsOf fp 16 16, vat := vat, orig := orig, fp := fp
    nonce := swapBytes 12 (bitsOf data 256 96), gtag := bitsOf data 384 128
    data := (List.range orig).map (fun k => (Config.openedBlock vat gen fp payload k).toNat) }

/-- A FETCH has completed with SUCCESS: the copy passes to the slices of the reads that wait for it. -/
def State.fetchAnswer (s : State) (key bytes data : Nat) : State :=
  let s := (s.modFab (fun f => { f with fetches := f.fetches.map (fun q => if q.1 = key then (key, { q.2 with arrived := true }) else q) })).modRead (fun r => { r with
    foreign := AL.put key (storedEnt data bytes) r.foreign
    fetches := r.fetches.map (fun q => if q.2.cid = key ∧ q.2.mode = .foreign then (q.1, { q.2 with left := 0, done := true }) else q) })
  s.bump F.RDP_CNT_FOREIGN_COUNT

/-- A FETCH that is not to be waited for any longer, or has failed: ABORT goes to the head asked, and the next home is asked (R552). -/
def State.fetchAbandon (s : State) (key : Nat) : State :=
  match AL.get key s.fab.fetches with
  | some x =>
    match AL.get x.ctag s.fab.out with
    | some c => (if c.conn.isSome ∧ s.fabIn then (s.headSend c.hid 0x06 .abort 0 0 (some 0) 0 x.ctag 0).2 else s).fabNext key
    | none => s.fabNext key
  | none => s

/-- `FAB_FETCH_TIMEOUT` (R552). -/
def execFabFetchTimeout (key : Nat) (s : State) : Res :=
  .next (match AL.get key s.fab.fetches with
    | some x => if !x.arrived ∧ x.beat + s.get F.FAB_FETCH_CFG_FETCH_TMO ≤ s.beat then s.fetchAbandon key else s
    | none => s)

/-- Foreign chunks that neither the read cache nor a read holds are forgotten. -/
def State.foreignTrim (s : State) : State :=
  s.modRead (fun r => { r with foreign := r.foreign.filter (fun q => AL.has q.1 r.rch || r.fetches.any (fun f => f.2.cid == q.1)
    || s.adm.reqs.any (fun x => x.2.sources.any (fun y => y.2 == .foreign q.1))) })

end Sys2Proof.Machine
end

