-- ==== Sys2Proof/Machine/Rep.lean ====
section
/-! DEFINITION. Chapter 13, replication: links, recipe-first cycles, synchronous links; what becomes of commands to other
heads; and the fabric hellos. -/

namespace Sys2Proof.Machine

/-! ### Links (R555 to R558) -/

/-- A loaded link. -/
def State.repLink (s : State) (k : Nat) : Option RepLink := AL.get k s.fab.links

/-- Change a link. -/
def State.modRep (s : State) (k : Nat) (f : RepLink → RepLink) : State :=
  match s.repLink k with
  | some l => s.modFab (fun t => { t with links := AL.put k (f l) t.links })
  | none => s

/-- Change a link's state; `LINK_CHANGE` tells of it. -/
def State.repTo (s : State) (k st : Nat) : State :=
  match s.repLink k with
  | some l => if l.st = st then s else (s.modRep k (fun l => { l with st := st })).irq Slot.REP 1
  | none => s

/-- The peer of a head: its HID with bit 0 inverted. -/
def peerHid (h : Nat) : Nat := if h % 2 = 0 then h + 1 else h - 1

/-- The head that a link's commands go to: its remote head, or that head's peer when it is not live. -/
def State.linkHid (s : State) (l : RepLink) : Nat :=
  if s.memberLive l.remoteHid then l.remoteHid else if s.memberLive (peerHid l.remoteHid) then peerHid l.remoteHid else l.remoteHid

/-- The ASCII bytes "PSITOR-SALT". -/
def saltText : List Nat := [0x50, 0x53, 0x49, 0x54, 0x4F, 0x52, 0x2D, 0x53, 0x41, 0x4C, 0x54]

/-- The salt check of a volume's vat (R556). -/
def State.saltCheck (s : State) (vol : Nat) : Nat :=
  let salt := ((AL.get vol s.vat.vols).bind (fun v => (AL.get v.vat s.vat.vats).map (·.salt))).getD 0
  leOf (beBytes 8 ((Config.hmac salt 1 saltText).toNat % 2 ^ 256 / 2 ^ 192))

/-- REP is enabled and the head takes part in the fabric. -/
def State.repMay (s : State) : Bool := (s.unit (unitKey Blk.REP 0)).enable && s.fabIn

/-- The entry of the link table, as a link (Table 13.6); none where the entry is not in use. -/
def State.linkEntry (s : State) (k : Nat) : Option RepLink :=
  let a := s.get F.REP_BASE_BASE * 2 ^ 23 + 64 * k
  let w := Mem.rdLE a 8 s.mem
  let v := Mem.rdLE (a + 8) 8 s.mem
  if bitOf w 63 then some {
    target := bitOf w 62, mode := bitsOf w 60 2, localVol := bitsOf w 44 16, remoteVol := bitsOf w 28 16, remoteHid := w % 65536
    period := bitsOf v 32 32 }
  else none

/-- The link is refused (R556). -/
def State.linkBad (s : State) (l : RepLink) : Bool :=
  let published := ((s.liveVol l.localVol).bind (fun v => (AL.get v.vat s.vat.vats).map (·.published))).getD false
  l.mode == 3 || (s.liveVol l.localVol).isNone || (l.mode == 2 && !published) || (l.mode == 1 && l.target)
    || s.fab.links.any (fun q => q.2.localVol == l.localVol && q.2.target == l.target)

/-- The outcome of a link command. -/
def State.linkResult (s : State) (result cond : Nat) : State :=
  (s.setAll [(F.REP_LINK_CMD_STAT_BUSY, 0), (F.REP_LINK_CMD_STAT_RESULT, result), (F.REP_LINK_CMD_STAT_CONDITION, cond)]).irq Slot.REP 2

/-- Count the links loaded and the cycles running (`REP_STAT`). -/
def State.repCount (s : State) : State :=
  s.setAll [(F.REP_STAT_LINKS, s.fab.links.length), (F.REP_STAT_CYCLES, (s.fab.links.filter (fun q => q.2.cycle.isSome)).length),
    (F.REP_STAT_SYNC_WAIT, s.fab.sync.length), (F.REP_SYNC_STAT_OUTSTANDING, (s.fab.sync.filter (fun q => q.2.ctag.isSome)).length)]

/-- `OP` 1: load. -/
def State.linkLoad (s : State) (k : Nat) : State :=
  match s.repLink k, s.linkEntry k with
  | none, some l =>
    if s.linkBad l then (s.raise Slot.REP Cond.REP_LINK_INVALID k).linkResult 2 Cond.REP_LINK_INVALID
    else
      let l := { l with st := if l.mode = 1 then 5 else 1, pollBeat := s.beat }
      (((s.modFab (fun t => { t with links := AL.put k l t.links })).irq Slot.REP 1).repCount).linkResult 1 0
  | _, _ => s.linkResult 2 0

/-- The store jobs of a link. -/
def State.linkJobs (s : State) (k : Nat) : List (Nat × CJob) := s.write.jobs.filter (fun q => q.2.link == k + 1)

/-- The cursor of a cycle enters the journal of both heads (R561). -/
def State.cursorPut (s : State) (vol snap page : Nat) : State :=
  let s := s.modFab (fun t => { t with cursors := AL.put vol (snap, page) t.cursors })
  if s.mode = .paired then s.sendPeer 0x10 1 [2 ^ 63, vol, snap, page] else s

/-- End a cycle: jobs that wait for their records go, and its cursor with them. -/
def State.cycleEnd (s : State) (k : Nat) : State :=
  let vol := ((s.repLink k).map (·.localVol)).getD 0
  let s := s.modFab (fun t => { t with cursors := AL.del vol t.cursors })
  let s := s.modWrite (fun w => { w with jobs := w.jobs.filter (fun q => !(q.2.link == k + 1 && q.2.stage == .awaitRecord)) })
  let s := s.modRep k (fun l => { l with cycle := none })
  (if ((s.repLink k).map (fun l => l.target)).getD false then s.repTo k 1 else s).repCount

/-- Break a synchronous link: nothing waits for the remote head any longer (R564). -/
def State.syncDrop (s : State) (k : Nat) : State :=
  ((s.fab.sync.filter (fun q => q.2.link == k)).foldl (fun (s : State) q =>
    let s := match q.2.ctag with | some t => s.headForget t | none => s
    s.modFab (fun t => { t with sync := AL.del q.1 t.sync })) s).repCount

/-- `OP` 2: stop. -/
def State.linkStop (s : State) (k : Nat) : State :=
  if (s.repLink k).isNone then s.linkResult 2 0
  else
    let s := (s.cycleEnd k).syncDrop k
    let s := (s.fab.out.filter (fun q => match q.2.what with
      | .poll l | .recipe l | .chunks l | .repDone l => l == k
      | _ => false)).foldl (fun (s : State) q => s.headForget q.1) s
    (((s.modFab (fun t => { t with links := AL.del k t.links })).irq Slot.REP 1).repCount).linkResult 1 0

/-- `OP` 3: offer a snapshot of the source volume. -/
def State.linkOffer (s : State) (k snap : Nat) : State :=
  match s.repLink k with
  | some l =>
    if l.target ∨ ((s.liveSnap snap).map (fun x => x.vol != l.localVol)).getD true then s.linkResult 2 0
    else (s.modRep k (fun l => { l with offered := some snap })).linkResult 1 0
  | none => s.linkResult 2 0

/-- `OP` 4: a broken synchronous link begins cycles toward sync (R565). -/
def State.linkResync (s : State) (k : Nat) : State :=
  match s.repLink k with
  | some l =>
    if l.target ∨ l.mode ≠ 1 ∨ l.st ≠ 5 then s.linkResult 2 0
    else ((s.modRep k (fun l => { l with snapWait := true })).repTo k 2).linkResult 1 0
  | none => s.linkResult 2 0

/-- A master's write of `REP_LINK_CMD` (R567). -/
def linkCmdBus (m : Nat) (f : State → State) (s : State) : Res :=
  .next (s.busWr m Slot.REP 0x128 (fun s => if s.get F.REP_LINK_CMD_STAT_BUSY = 1 then s.raise Slot.REP Cond.REP_CMD_BUSY else f s))

/-- `REP_LINK_LOAD` (R556). -/
def execRepLinkLoad (m link : Nat) (s : State) : Res := linkCmdBus m (fun s => s.linkLoad link) s

/-- `REP_LINK_STOP`. -/
def execRepLinkStop (m link : Nat) (s : State) : Res := linkCmdBus m (fun s => s.linkStop link) s

/-- `REP_LINK_OFFER` (R558). -/
def execRepLinkOffer (m link snap : Nat) (s : State) : Res := linkCmdBus m (fun s => s.linkOffer link snap) s

/-- `REP_LINK_RESYNC` (R565). -/
def execRepLinkResync (m link : Nat) (s : State) : Res := linkCmdBus m (fun s => s.linkResync link) s

/-! ### Snapshots that replication takes (R559, R565) -/

/-- Take a snapshot of a volume: its identity, or none while the tables run a command. -/
def State.repSnap (s : State) (vol : Nat) : Option (Nat × State) :=
  if s.get F.VAT_CMD_STAT_BUSY = 1 ∨ s.get F.SNP_CMD_STAT_BUSY = 1 ∨ s.snpRefusal 1 0 [1, vol] ≠ 0 then none
  else
    let id := (s.freeSnaps 1 0).headD 0
    some (id, s.tblAccept ⟨true, 1, 0, [vol + id * 65536], (s.beat + 64) % 2 ^ 48, true, false⟩)

/-! ### A target's cycle (R559 to R561, Table 13.7) -/

/-- A recipe page as it travels: header and 512 entries. -/
def recipeBytes : Nat := 20544

/-- The buffer of a recipe (R567). -/
def State.recipeBuf (s : State) (c : Nat) : Nat := s.get F.REP_BASE_BASE * 2 ^ 23 + 0x10000 + c * 0x40000

/-- Ask the recipe pages from `page` on. -/
def State.askRecipe (s : State) (k page : Nat) : State :=
  match s.repLink k with
  | some l =>
    match l.cycle with
    | some c =>
      let s := s.modRep k (fun l => { l with cycle := l.cycle.map (fun c => { c with stage := 0, page := page }) })
      (s.headSend (s.linkHid l) 0x42 (.recipe k) (l.remoteVol * 2 ^ 48 + 512 * page) 8 (some (s.recipeBuf c.idx)) (8 * recipeBytes)
        (s.get F.FAB_ID_HID) 0).2
    | none => s
  | none => s

/-- Where the records of REP_CHUNKS are placed: a step of 66,048 bytes for each. -/
def recordStep : Nat := 66048

/-- Ask the chunks of jobs: a list of one LBA for each. -/
def State.askChunks (s : State) (k : Nat) (js : List (Nat × CJob)) : State :=
  match s.repLink k with
  | some l =>
    let lbas := js.map (fun q => (q.2.lbas.headD (0, 0)).1)
    let s := s.modRep k (fun l => { l with cycle := l.cycle.map (fun c => { c with stage := 2, asked := js.map (·.1) }) })
    (s.headSend (s.linkHid l) 0x43 (.chunks k) (l.remoteVol * 2 ^ 48) js.length none (max (8 * js.length) (recordStep * js.length))
      (s.get F.FAB_ID_HID) 0 (ofWords lbas) (8 * js.length)).2
  | none => s

/-- A recipe entry: fingerprint, kind, index, blocks, foreign chunk (R559). -/
def recipeEnt (data page i : Nat) : Nat × Nat × Nat × Nat × Nat :=
  let b := data / 256 ^ (page * recipeBytes + 64 + 40 * i)
  let w := bitsOf b 256 64
  (b % 2 ^ 256, bitsOf w 62 2, bitsOf w 58 4, bitsOf w 53 5, w % 2 ^ 40)

/-- One chunk of a recipe: a new decision, or another reference to what this cycle has decided. -/
def State.recipeChunk (s : State) (k : Nat) (l : RepLink) (fp orig : Nat) (lbas : List (Nat × Nat)) : State :=
  let vat := ((AL.get l.localVol s.vat.vols).map (·.vat)).getD 0
  let known := (l.cycle.bind (fun c => AL.get fp c.known))
  match known, (s.linkJobs k).find? (fun q => q.2.fp == fp) with
  | some cid, _ =>
    let x : CJob := { vol := l.localVol, vat := vat, slots := [], fp := fp, stage := .committing, lbas := lbas }
    if cid = 2 ^ 52 then s.landRefs x { z := false, u := false, f := true, chunk := fp / 2 ^ 216 }
    else (s.land (.delta cid lbas.length) none).landRefs x { z := false, u := false, f := false, chunk := cid }
  | none, some (j, _) => s.modJob j (fun x => { x with lbas := x.lbas ++ lbas })
  | none, none => s.startLinkJob k l.localVol vat fp orig (l.mode == 2) lbas

/-- Decide the entries of one recipe page by Table 13.7. -/
def State.recipePage (s : State) (k : Nat) (l : RepLink) (data p : Nat) : State :=
  let page := data / 256 ^ (p * recipeBytes) % 2 ^ 64
  let ents := (List.range 512).map (fun i => (512 * page + i, recipeEnt data p i))
  let s := s.bump F.REP_CNT_RECIPE_ENTRIES_COUNT 512
  let s := ents.foldl (fun (s : State) q =>
    let (lba, _, kind, index, _, chunk) := q
    match kind with
    | 1 => s.landMap none l.localVol lba { z := true, u := false, f := false } s.beat
    | 2 => s.landMap none l.localVol lba {} s.beat
    | 3 => s.landMap none l.localVol lba { z := false, u := false, f := true, chunk := chunk, index := index } s.beat
    | _ => s) s
  let blocks := ents.filter (fun q => q.2.2.1 == 0)
  (((blocks.map (fun q => (q.2.1, q.2.2.2.2.1))).eraseDups).foldl (fun (s : State) f =>
    s.recipeChunk k ((s.repLink k).getD l) f.1 f.2 ((blocks.filter (fun q => q.2.1 == f.1)).map (fun q => (q.1, q.2.2.2.1)))) s)

/-- A cycle goes on: chunks are asked while any is wanted; then the next pages; after the last, a snapshot and REP_DONE. -/
def State.cycleGo (s : State) (k : Nat) : State :=
  match s.repLink k with
  | none => s
  | some l =>
    match l.cycle with
    | none => s
    | some c =>
      let js := s.linkJobs k
      let finish (s : State) : State :=
        match s.repSnap l.localVol with
        | none => s.modRep k (fun l => { l with cycle := l.cycle.map (fun c => { c with stage := 3 }) })
        | some (_, s) =>
          let s := s.modRep k (fun l => { l with cycle := l.cycle.map (fun c => { c with stage := 4 }) })
          (s.headSend (s.linkHid l) 0x44 (.repDone k) (l.remoteVol * 2 ^ 48) 0 (some 0) 0 (s.get F.FAB_ID_HID) c.snap).2
      if !s.repMay then s.cycleEnd k
      else if c.stage = 3 then finish s
      else if c.stage ≠ 1 then s
      else if js.any (fun q => match q.2.stage with | .decide | .peerAsked | .recipeLoad _ => true | _ => false) then s
      else
        let want := (js.filter (fun q => q.2.stage == .awaitRecord)).take (s.get F.REP_CFG_CHUNKS)
        if want ≠ [] then s.askChunks k want
        else if js ≠ [] then s
        else
          match c.next with
          | some p => ((s.modRep k (fun l => { l with cursor := p })).cursorPut l.localVol c.snap p).askRecipe k p
          | none => finish s

/-- A recipe or chunk request failed: it is asked again `MSG_RETRIES` times, then the cycle ends (R561). -/
def State.cycleRetry (s : State) (k : Nat) : State :=
  match (s.repLink k).bind (·.cycle) with
  | none => s
  | some c =>
    if c.retries < s.get (F.LDT_TMO_CFG_MSG_RETRIES 0) then
      let s := s.modRep k (fun l => { l with cycle := l.cycle.map (fun c => { c with retries := c.retries + 1 }) })
      if c.stage = 0 then s.askRecipe k c.page else (s.modRep k (fun l => { l with cycle := l.cycle.map (fun c => { c with stage := 1, asked := [] }) })).cycleGo k
    else (s.raise Slot.REP Cond.REP_CYCLE_FAIL k).cycleEnd k

/-- A chunk record has come for a job: what it stores (R560). -/
def State.recordTake (s : State) (j : Nat) (data len : Nat) : State :=
  match s.job j with
  | none => s
  | some x =>
    let published := ((AL.get x.vat s.vat.vats).map (·.published)).getD false
    let e := storedEnt data len
    let blocks := if published then e.data else (List.range x.orig).map (fun k => (Config.streamBlock x.fp (data / 2 ^ 512) k).toNat)
    ((s.modJob j (fun x => { x with raw := e.raw, dynamic := e.dynamic, units := ceilDiv len 512, data := blocks })).bump F.REP_CNT_BYTES_COUNT len).placeJob j

/-- The length of the record placed at a buffer. -/
def LdtConn.placedLen (x : LdtConn) (buf len : Nat) : Nat :=
  ((x.placed.filter (fun q => decide (buf ≤ q.1) && decide (q.1 < buf + len))).map (fun q => q.1 + q.2.1 - buf)).foldl max 0

/-! ### Answers of other heads -/

/-- A REP_POLL was answered (R559): a cycle that a reset or a takeover has cut goes on at the page the journal holds (R561). -/
def State.pollAnswer (s : State) (k status cond result : Nat) : State :=
  let s := s.modRep k (fun l => { l with polling := false })
  if status ≠ 0 then (if cond = Cond.REP_SALT_MISMATCH then s.repTo k 6 else s)
  else match s.repLink k with
    | none => s
    | some l =>
      let offered := bitsOf result 40 20
      let running := s.fab.links.filter (fun q => q.2.cycle.isSome)
      if offered = 0xFFFFF ∨ l.applied = some offered ∨ l.cycle.isSome ∨ s.get F.REP_CFG_CYCLES ≤ running.length then s
      else
        let idx := ((List.range 16).find? (fun i => !running.any (fun q => (q.2.cycle.map (·.idx)) == some i))).getD 0
        let page := match AL.get l.localVol s.fab.cursors with
          | some (sn, p) => if sn = offered then p else 0
          | none => 0
        let s := ((s.modRep k (fun l => { l with cycle := some { snap := offered, idx := idx }, cursor := page })).repTo k 2).bump F.REP_CNT_CYCLES_COUNT
        (s.askRecipe k page).repCount

/-- Recipe pages have come. -/
def State.recipeAnswer (s : State) (k status bytes result data : Nat) : State :=
  if status ≠ 0 then s.cycleRetry k
  else
    let next := if result = 2 ^ 64 - 1 then none else some result
    let s := s.modRep k (fun l => { l with cycle := l.cycle.map (fun c => { c with stage := 1, next := next, retries := 0 }) })
    let s := (List.range (bytes / recipeBytes)).foldl (fun (s : State) p => match s.repLink k with
      | some l => s.recipePage k l data p
      | none => s) s
    s.cycleGo k

/-- Chunk records have come. -/
def State.chunksAnswer (s : State) (k status : Nat) (c : HeadCmd) : State :=
  if status ≠ 0 then s.cycleRetry k
  else
    let x := ((c.conn.bind (fun n => s.lconn n))).getD {}
    let js := (((s.repLink k).bind (·.cycle)).map (·.asked)).getD []
    let s := (js.zipIdx).foldl (fun (s : State) (q : Nat × Nat) =>
      let b := c.buf + recordStep * q.2
      s.recordTake q.1 (x.placedAt b recordStep) (x.placedLen b recordStep)) s
    (s.modRep k (fun l => { l with cycle := l.cycle.map (fun c => { c with stage := 1, asked := [], retries := 0 }) })).cycleGo k

/-- A REP_DONE was answered: the cycle has ended. -/
def State.doneAnswer (s : State) (k status : Nat) : State :=
  match (s.repLink k).bind (·.cycle) with
  | none => s
  | some c =>
    if status = 0 then (s.modRep k (fun l => { l with applied := some c.snap })).cycleEnd k
    else (s.raise Slot.REP Cond.REP_CYCLE_FAIL k).cycleEnd k

/-- Commands of a link whose remote head `hid` is lost or in transition, and not yet completed, go again, in order, to the other head of
its pair (R563). -/
def State.syncTurn (s : State) (k hid : Nat) : State :=
  let s := (s.fab.sync.filter (fun q => q.2.link == k)).foldl (fun (s : State) q => match q.2.ctag with
    | some t => s.headForget t
    | none => s) s
  let s := s.modRep k (fun l => { l with remoteHid := if l.remoteHid = hid then peerHid hid else l.remoteHid })
  s.modFab (fun t => { t with sync := t.sync.map (fun q => if q.2.link = k then (q.1, { q.2 with ctag := none }) else q) })

/-- A synchronous command that head `hid` was sent was answered (R562, R563). -/
def State.syncAnswer (s : State) (id hid status : Nat) : State :=
  match AL.get id s.fab.sync with
  | none => s
  | some c =>
    if status = 0 then
      let d := s.beat - c.sentBeat
      let s := if s.get F.REP_SYNC_STAT_MAX_BEATS < d then s.set F.REP_SYNC_STAT_MAX_BEATS d else s
      (s.modFab (fun t => { t with sync := AL.del id t.sync })).repCount
    else if status = 13 ∨ status = 14 then (s.syncTurn c.link hid).repCount
    else s

/-- The completion of a command that this head sent (Table 11.10). -/
def State.headDone (s : State) (n data : Nat) : State :=
  let t := data % 2 ^ 32
  let status := bitsOf data 48 8
  let cond := bitsOf data 32 16
  let bytes := bitsOf data 96 32
  let result := bitsOf data 128 64
  match AL.get t s.fab.out with
  | none => s
  | some c =>
    if c.conn ≠ some n then s else
    let placed := ((s.lconn n).map (fun x => x.placedAt c.buf (2 ^ 24))).getD 0
    match c.what with
    | .fetch key => if status = 0 then (s.headForget t).fetchAnswer key bytes placed else s.fetchAbandon key
    | .poll k => (s.headForget t).pollAnswer k status cond result
    | .recipe k => (s.headForget t).recipeAnswer k status bytes result placed
    | .chunks k => (s.chunksAnswer k status c).headForget t
    | .repDone k => (s.headForget t).doneAnswer k status
    | .sync id => (s.headForget t).syncAnswer id c.hid status
    | .abort => s.headForget t

/-- Commands for a head that can no longer be asked: they fail or are asked elsewhere (R552, R559, R561, R563); `told`: over a
connection that stands, on which an abandoned FETCH is aborted. -/
def State.headGone (s : State) (l : List (Nat × HeadCmd)) (told : Bool) : State :=
  l.foldl (fun (s : State) q =>
    if !AL.has q.1 s.fab.out then s
    else match q.2.what with
      | .fetch key => if told then s.fetchAbandon key else (s.headForget q.1).fabNext key
      | .poll k => (s.headForget q.1).modRep k (fun l => { l with polling := false })
      | .recipe k | .chunks k | .repDone k => (s.headForget q.1).cycleEnd k
      | .sync id => match AL.get id s.fab.sync with
        | some c => s.syncTurn c.link q.2.hid
        | none => s.headForget q.1
      | .abort => s.headForget q.1) s

/-- A connection to another head has ended, and with it what was asked over it (R474). -/
def State.headLost (s : State) (n : Nat) : State :=
  match s.fab.conns.find? (fun q => q.2.1 == n) with
  | none => s
  | some (hid, _, _) =>
    let s := s.modFab (fun f => { f with conns := f.conns.filter (fun q => q.2.1 != n) })
    s.headGone (s.fab.out.filter (fun q => q.2.conn == some n || (q.2.conn.isNone && q.2.hid == hid))) false

/-- What was asked over a fabric connection that was closed for another (R549) is dealt with as over one that has ended. -/
def State.orphansGo (s : State) : State :=
  s.headGone (s.fab.out.filter (fun q => match q.2.conn with
    | some n => !s.fab.conns.any (fun c => c.2.1 == n)
    | none => false)) false

/-- End a connection and what was asked over it. -/
def State.ldtClose (s : State) (n : Nat) (tell : Bool) : State :=
  let mine := ((s.lconn n).map (·.initiator)).getD false
  let s := s.ldtEnd n tell
  if mine then s.headLost n else s

/-- A connection comes from an address that a member announces. -/
def State.fromMember (s : State) (x : LdtConn) : Bool :=
  s.fab.members.any (fun q => q.2.v4 == some x.peerAddr || q.2.v6 == some x.peerAddr)

/-- End every fabric connection, those that other heads opened among them (R536, R541; log entry 140). -/
def State.fabShut (s : State) : State :=
  let s := s.fab.conns.foldl (fun (s : State) q => s.ldtClose q.2.1 true) s
  (s.ldt.conns.filter (fun q => !q.2.initiator && q.2.state != 0 && s.fromMember q.2)).foldl (fun (s : State) q => s.ldtClose q.1 true) s

/-! ### Polls and synchronous commands -/

/-- `REP_POLL_DUE` (R559). -/
def execRepPollDue (link : Nat) (s : State) : Res :=
  .next (match s.repLink link with
    | some l =>
      if l.target ∧ l.st ≠ 6 ∧ !l.polling ∧ l.cycle.isNone ∧ s.repMay ∧ (s.unit (unitKey Blk.REP 0)).quiesce = false ∧ l.pollBeat + max 1024 l.period ≤ s.beat then
        let s := s.modRep link (fun l => { l with polling := true, pollBeat := s.beat })
        (s.headSend (s.linkHid l) 0x41 (.poll link) (l.remoteVol * 2 ^ 48) 0 (some 0) 0 (s.get F.FAB_ID_HID) (s.saltCheck l.localVol)).2
      else s
    | none => s)

/-- A link on its way to sync offers a snapshot of its own (R565). -/
def State.resyncGo (s : State) : State :=
  (s.fab.links.filter (fun q => q.2.snapWait && (q.2.st == 2 || q.2.st == 4))).foldl (fun (s : State) q =>
    match s.repSnap q.2.localVol with
    | some (id, s) => s.modRep q.1 (fun l => { l with offered := some id, snapWait := false })
    | none => s) s

/-- Two synchronous commands overlap. -/
def SyncCmd.overlaps (a b : SyncCmd) : Bool :=
  let rs (c : SyncCmd) : List (Nat × Nat) := if c.ranges = [] then [(c.lba, c.blocks)] else c.ranges
  (rs a).any (fun x => (rs b).any (fun y => decide (x.1 < y.1 + y.2) && decide (y.1 < x.1 + x.2)))

/-- The ranges of a deallocate as its list travels (R174). -/
def rangeWords (l : List (Nat × Nat)) : List Nat := l.flatMap (fun q => [q.1, q.2])

/-- Host commands of a volume in sync whose records have landed are sent on, none that overlaps an earlier one before its
completion (R562, R563). -/
def State.syncGo (s : State) : State :=
  (s.fab.links.filter (fun q => !q.2.target && q.2.mode == 1 && q.2.st == 3)).foldl (fun (s : State) q =>
    let (k, l) := q
    let new := sortBy (fun (r : Nat × Req) => r.2.seq) (s.adm.reqs.filter (fun r => r.2.kind != .read && r.2.ranged && r.2.vol == l.localVol
      && decide (r.2.recordCount ≤ r.2.recs.length) && (r.2.stage == .awaitMirror || r.2.stage == .entered) && !r.2.synced))
    let s := new.foldl (fun (s : State) r =>
      let c : SyncCmd := { link := k, tag := r.1, vol := l.localVol, op := if r.2.kind = .write then 2 else if r.2.kind = .zeroes then 3 else 4
                           lba := r.2.lba, blocks := r.2.blocks, ranges := r.2.ranges, recs := r.2.recs }
      ((s.modReq r.1 (fun x => { x with synced := true })).modFab (fun t => { t with sync := AL.put t.nextSync c t.sync, nextSync := t.nextSync + 1 })).bump F.REP_CNT_SYNC_WRITES_COUNT) s
    s.fab.sync.foldl (fun (s : State) e =>
      let (id, c) := e
      if c.link ≠ k ∨ c.ctag.isSome ∨ s.fab.sync.any (fun d => d.2.link == k && decide (d.1 < id) && d.2.overlaps c) then s
      else
        let data := if c.op = 4 then ofWords (rangeWords c.ranges)
          else if c.op = 2 then (c.recs.zipIdx).foldl (fun v (r : Nat × Nat) => v + ((AL.get r.1 s.write.recs).map (·.data)).getD 0 * 256 ^ (4096 * r.2)) 0
          else 0
        let len := if c.op = 4 then 16 * c.ranges.length else if c.op = 2 then 4096 * c.blocks else 0
        let (t, s) := s.headSend (s.linkHid l) c.op (.sync id) (l.remoteVol * 2 ^ 48 + c.lba) (if c.op = 4 then c.ranges.length else c.blocks)
          none len 0 0 data len
        s.modFab (fun t' => { t' with sync := AL.put id { c with ctag := some t, sentBeat := if c.sentBeat = 0 then s.beat else c.sentBeat } t'.sync })) s) s |>.repCount

/-- `REP_SYNC_TIMEOUT` (R564): the link breaks and nothing waits for it. -/
def execRepSyncTimeout (id : Nat) (s : State) : Res :=
  .next (match AL.get id s.fab.sync with
    | some c =>
      if (c.ctag.isSome ∨ c.sentBeat ≠ 0) ∧ c.sentBeat + 1024 * s.get F.REP_CFG_SYNC_TMO ≤ s.beat then
        (((s.repTo c.link 5).raise Slot.REP Cond.REP_SYNC_BROKEN c.link).bump F.REP_CNT_BREAKS_COUNT).syncDrop c.link
      else s
    | none => s)

/-! ### Hellos (R536 to R541) -/

/-- The head leaves the fabric when FAB or the mode no longer allows it (R536). -/
def State.fabLeave (s : State) : State :=
  if !s.fabMay ∧ (s.get F.FAB_STAT_STATE = 1 ∨ s.get F.FAB_STAT_STATE = 2) then
    ((s.helloSend 2).set F.FAB_STAT_STATE 4).fabShut
  else s

/-- `FAB_HELLO_SEND` (R537): claim hellos every 1,024 beats, `CLAIM_HELLOS` of them, then hellos every 16,384 beats. -/
def execFabHelloSend (s : State) : Res :=
  .next (
    let st := s.get F.FAB_STAT_STATE
    if !s.fabMay then s.fabLeave
    else if st = 0 ∨ st = 4 ∨ (st = 3 ∧ s.fab.idWritten) then
      (((s.set F.FAB_STAT_STATE 1).modFab (fun f => { f with claims := 1, held := 0 })).helloSend 1).homesCheck
    else if st = 3 then s
    else if st = 1 then
      (if s.beat < s.fab.helloBeat + 1024 then s
       else if s.fab.claims < s.get F.FAB_CFG_CLAIM_HELLOS then (s.modFab (fun f => { f with claims := f.claims + 1 })).helloSend 1
       else ((s.set F.FAB_STAT_STATE 2).helloSend 1).homesCheck)
    else if s.fab.helloBeat + 16384 ≤ s.beat then (s.modFab (fun f => { f with held := min (2 ^ 32 - 1) (f.held + 1) })).helloSend 1
    else s)

/-- What a hello or LEAVE says (Table 13.1). -/
structure FabHello where
  hid : Nat
  flags : Nat
  arrayId : Nat
  chip : Nat
  held : Nat
  seq : Nat
  ldtPort : Nat
  v4 : Nat
  v6 : Nat
  deriving DecidableEq, Repr

/-- Read it from the bytes of its datagram. -/
def helloOf (l : List Nat) : FabHello :=
  ⟨bytesNat l 4 2, l.getD 6 0, bytesNat l 8 8, bytesNat l 16 8, bytesNat l 24 4, bytesNat l 28 4, bytesNat l 32 2, bytesNat l 36 4, bytesNat l 40 16⟩

/-- A datagram is to be discarded under R538: its `MAC` fails under the key, `MAGIC` or `VER` is wrong, a reserved field is not zero, its
side is not that of its HID, or its `SEQ` is not above the last accepted from its `CHIP`. -/
def State.helloBad (s : State) (key : Option Nat) (l : List Nat) : Bool :=
  let x := helloOf l
  l.length != 88 || (match key with | some k => l.drop 56 != macBytes k (l.take 56) | none => true)
    || l.take 3 != [0xF4, 0xB1, 1] || l.getD 7 0 != 0 || bytesNat l 34 2 != 0 || decide (32 ≤ x.flags) || x.hid % 2 != x.flags % 2
    || (match AL.get x.chip s.fab.seqs with | some q => decide (x.seq ≤ q) | none => false)

/-- A member is lost: its `SEQ` is compared afresh later, its pair leaves placement, and what it was asked moves on at once (R539,
R552, R563). -/
def State.memberLost (s : State) (hid : Nat) : State :=
  match AL.get hid s.fab.members with
  | some m =>
    if m.st = 3 then s
    else
      let s := s.modFab (fun f => { f with members := AL.put hid { m with st := 3 } f.members, seqs := AL.del m.chip f.seqs })
      let s := (((s.irq (fabSlot 1) 1).bump F.FAB_CNT_LEAVE_COUNT).fabCount).homesCheck
      s.headGone (s.fab.out.filter (fun q => q.2.hid == hid)) true
  | none => s

/-- A conflict over this head's HID (R540, R541). -/
def State.conflict (s : State) (arrayId chip held : Nat) : State :=
  let me := (s.fab.held, s.pair.arrayId, Config.chip.toNat)
  let won := if me.1 ≠ held then decide (held < me.1) else if me.2.1 ≠ arrayId then decide (me.2.1 < arrayId) else decide (me.2.2 < chip)
  let s := ((s.raise (fabSlot 1) Cond.FAB_HID_CONFLICT (s.get F.FAB_ID_HID)).irq (fabSlot 1) 2).setAll
    [(F.FAB_CONFLICT_VALID, 1), (F.FAB_CONFLICT_WON, b2n won), (F.FAB_CONFLICT_HID, s.get F.FAB_ID_HID), (F.FAB_CONFLICT_BEAT, s.beat32)]
  if won then s
  else ((s.set F.FAB_STAT_STATE 3).modFab (fun f => { f with idWritten := false })).fabShut

/-- Take in a datagram of a type, 1 HELLO or 2 LEAVE, that passes R538; one of another type does not concern the command. -/
def State.helloTake (s : State) (l : List Nat) (typ : Nat) (f : FabHello → State → State) : State :=
  if !s.fabMay ∨ s.get F.FAB_STAT_STATE = 0 ∨ s.get F.FAB_STAT_STATE = 4 ∨ l.getD 3 0 ≠ typ then s
  else
    let (key, s) := s.slotFor (s.get F.FAB_CFG_KEY_SLOT) 1
    let x := helloOf l
    if s.helloBad key l then s.bump F.FAB_CNT_HELLO_BAD_COUNT
    else f x ((s.modFab (fun f => { f with seqs := AL.put x.chip x.seq f.seqs })).bump F.FAB_CNT_HELLO_RX_COUNT)

/-- A hello creates its member or refreshes it (R539). -/
def State.memberSeen (s : State) (x : FabHello) : State :=
  let old := AL.get x.hid s.fab.members
  let fresh := (old.map (fun m => m.st == 3)).getD true
  let m : FabMember := {
    st := if bitOf x.flags 2 then 1 else 2, home := bitOf x.flags 1, arrayId := x.arrayId, chip := x.chip, held := x.held, ldtPort := x.ldtPort
    v4 := if bitOf x.flags 3 then some x.v4 else none, v6 := if bitOf x.flags 4 then some x.v6 else none, beat := s.beat
    noRoute := (old.map (fun m => m.noRoute && !fresh)).getD false }
  let s := s.modFab (fun f => { f with members := AL.put x.hid m f.members })
  let s := if fresh then (s.irq (fabSlot 1) 1).bump F.FAB_CNT_JOIN_COUNT else s
  s.fabCount.homesCheck

/-- `FAB_HELLO_RX` (R538 to R541). A hello of this head comes back to it unseen; one that claims the peer's HID with another
array is only counted. -/
def execFabHelloRx (l : List Nat) (s : State) : Res :=
  .next (s.helloTake l 1 (fun x s =>
    let own := s.get F.FAB_ID_HID
    if x.hid = own then
      (if x.arrayId ≠ s.pair.arrayId ∨ x.chip ≠ Config.chip.toNat then s.conflict x.arrayId x.chip x.held else s)
    else if x.hid = peerHid own ∧ x.arrayId ≠ s.pair.arrayId then s
    else s.memberSeen x))

/-- `FAB_LEAVE_RX` (R539). -/
def execFabLeaveRx (l : List Nat) (s : State) : Res := .next (s.helloTake l 2 (fun x s => s.memberLost x.hid))

/-- `FAB_MEMBER_MISS` (R539): `MISS_LIMIT` hello periods without a valid hello. -/
def execFabMemberMiss (hid : Nat) (s : State) : Res :=
  .next (match AL.get hid s.fab.members with
    | some m => if m.st ≠ 3 ∧ m.beat + 16384 * s.get F.FAB_CFG_MISS_LIMIT ≤ s.beat then s.memberLost hid else s
    | none => s)

end Sys2Proof.Machine
end

