-- ==== Sys2Proof/Machine/LdtRx.lean ====
section
/-! DEFINITION. Chapter 11, Lumvas Direct Transport as the head receives: set-up, packets, messages, acknowledgements, timers
and connection commands. -/

namespace Sys2Proof.Machine

/-! ### Set-up (R467 to R471) -/

/-- The accept slot's area in HBM. -/
def State.acceptArea (s : State) (u slot : Nat) : Nat := s.get (F.LDT_ACC_BASE_BASE u) * 2 ^ 21 + slot * 0x8000

/-- A refusal in answer to a HELLO: it ends at byte 10 (Table 11.4). -/
def State.helloRefuse (s : State) (u iface addr : Nat) (hello : List Nat) (reason : Nat) : State :=
  let (f, s) := s.free 48
  let i := (AL.get iface s.host.ifaces).getD {}
  let x : LdtConn := { scid := bytesNat hello 0 4 }
  ((x.clearPackets 0xD (leNat 4 0 ++ leNat 6 f ++ [reason])).foldl (fun (s : State) p =>
    s.hfiSend i.port (i.prio (s.get (F.HFI_PRIO_MAP_LDT u))) 0xD (addr :: p) 63) s).bump (F.LDT_CNT_SETUP_REFUSED_COUNT u)

/-- Bytes 0 to 19 of a HELLO are in range, and its length is that which it gives (R467, Table 11.3). -/
def helloOk (b : List Nat) : Bool :=
  let at_ (i : Nat) : Nat := b.getD i 0
  decide (1719 ≤ b.length) && decide (b.length = 1719 + bytesNat b 1717 2) && decide (bytesNat b 1717 2 ≤ 16384)
    && bytesNat b 0 4 != 0 && decide (1 ≤ at_ 8) && decide (at_ 8 ≤ 8) && decide (at_ 9 ≤ 2)
    && decide (1 ≤ bytesNat b 10 2) && decide (bytesNat b 10 2 ≤ 1024)

/-- An enabled listener of the unit names the interface (R460). -/
def State.ldtListens (s : State) (u iface : Nat) : Bool :=
  iface / 128 == u && (AL.get iface s.host.ifaces).isSome
    && (List.range 8).any (fun k => s.get (F.LDT_LISTEN_EN u k) == 1 && s.get (F.LDT_LISTEN_IF u k) == iface % 128)

/-- The connection of a HELLO that repeats one held: same initiator identity and nonce. -/
def State.helloHeld (s : State) (u : Nat) (b : List Nat) : Option (Nat × LdtConn) :=
  s.ldt.conns.find? (fun q => ldtUnit q.1 == u && !q.2.initiator && q.2.state != 0 && q.2.scid == bytesNat b 0 4
    && q.2.nonce == bytesNat b 20 32)

/-- A free accept slot of a unit. -/
def State.freeAccept (s : State) (u : Nat) : Option Nat := (List.range 64).find? (fun w => !AL.has (64 * u + w) s.ldt.slots)

/-- Nothing pins a context on chip (R492). -/
def LdtConn.unpinned (x : LdtConn) : Bool :=
  x.state == 3 && x.pkts.isEmpty && x.msgs.isEmpty && x.rxMsgs.isEmpty && x.rxResps.isEmpty && x.reads.isEmpty && x.inbox.isEmpty
    && x.ackCnt == 0 && x.missQ.isEmpty

/-- Commands of a connection that have not completed, the head's own as the initiator among them. -/
def State.ldtOutstanding (s : State) (n : Nat) : Nat :=
  (s.adm.reqs.filter (fun q => match q.2.origin with | .ldt d _ => d == n | _ => false)).length
    + (s.fab.out.filter (fun q => q.2.conn == some n)).length

/-- Make room for one more context of a unit: with 16,384 resident the least recently used that nothing pins goes; false where
none can go. -/
def State.ctxRoom (s : State) (u : Nat) : Bool × State :=
  let here := s.ldt.conns.filter (fun q => ldtUnit q.1 == u && q.2.resident)
  if here.length < 16384 then (true, s)
  else match minBy (fun q => q.2.useNs) (here.filter (fun q => q.2.unpinned && s.ldtOutstanding q.1 == 0)) with
    | some q => (true, s.modLconn q.1 (fun x => { x with resident := false }))
    | none => (false, s)

/-- Reserve a number and an accept slot for a HELLO (R467). -/
def State.helloTakeIn (s : State) (u iface addr : Nat) (v6 : Bool) (b : List Nat) (n w : Nat) : State :=
  let (room, s) := s.ctxRoom u
  let x : LdtConn := {
    state := 1, reuse := nextReuse (((s.lconn n).map (·.reuse)).getD 0), iface := iface, v6 := v6, peerAddr := addr
    scid := bytesNat b 0 4, sportBase := bytesNat b 4 2, rport := bytesNat b 6 2, dport := bytesNat b 6 2, paths := b.getD 8 0, seg := b.getD 9 0
    qdepth := bytesNat b 10 2, mkey := bytesNat b 12 8, nonce := bytesNat b 20 32, slot := some (64 * u + w), hello := b
    resident := room, useNs := s.tb, stateBeat := s.beat, lastRx := s.beat, lastTx := s.beat }
  let s := s.modLdt (fun t => { t with
    conns := AL.put n x t.conns, slots := AL.put (64 * u + w) ⟨n, bytesNat b 1717 2, s.beat, false⟩ t.slots, acceptQ := t.acceptQ ++ [64 * u + w] })
  (s.wrBytes (s.acceptArea u w) b).irq (ldtSlot u 1) 1

/-- `LDT_HELLO_RX` (R460, R467). -/
def execLdtHelloRx (u iface addr : Nat) (v6 : Bool) (data : List Nat) (s : State) : Res :=
  .next (
    let u := u % 2
    if !s.accepts Blk.LDT u || !s.ldtListens u iface then s.bump (F.LDT_CNT_NO_CONN_COUNT u)
    else if !helloOk data then s
    else match s.helloHeld u data with
      | some (n, x) => if x.state = 2 then s.ldtClear n 0xD x.resp else s
      | none =>
        if !s.ldtServing u then s.helloRefuse u iface addr data 3
        else match s.freeConn u, s.freeAccept u with
          | some n, some w => s.helloTakeIn u iface addr v6 data n w
          | _, _ => s.helloRefuse u iface addr data 2)

/-- Drive `ACCEPT` from the queue of a unit (R499). -/
def State.acceptIrq (s : State) (u : Nat) : State := s.irqIs (ldtSlot u 1) 1 (s.ldt.acceptQ.any (fun w => w / 64 == u))

/-- `LDT_ACCEPT_Q_READ` (R467). -/
def execLdtAcceptQRead (m u : Nat) (s : State) : Res :=
  .next (s.busRd m (ldtSlot u 1) 0x100 (fun s =>
    match s.ldt.acceptQ.find? (fun w => w / 64 == u) with
    | none => s.answer 0
    | some w =>
      let a := (AL.get w s.ldt.slots).getD ⟨0, 0, 0, false⟩
      let x := (s.lconn a.conn).getD {}
      let s := (s.answer (2 ^ 63 + w % 64 * 2 ^ 32 + a.conn % 2 ^ 20)).setAll
        [(F.LDT_ACCEPT_INFO_IF u, x.iface % 128), (F.LDT_ACCEPT_INFO_V6 u, b2n x.v6), (F.LDT_ACCEPT_INFO_CRED_LEN u, a.credLen),
         (F.LDT_ACCEPT_INFO_SCID u, x.scid)]
      (s.modLdt (fun t => { t with acceptQ := t.acceptQ.erase w })).acceptIrq u))

/-- An accept slot is answered or has run out: it is free again. -/
def State.acceptGone (s : State) (w : Nat) : State :=
  match AL.get w s.ldt.slots with
  | some a => ((s.modLdt (fun t => { t with slots := AL.del w t.slots, acceptQ := t.acceptQ.filter (· != w) })).modLconn a.conn
      (fun x => { x with slot := none })).acceptIrq (w / 64)
  | none => s

/-- Refuse a waiting HELLO (R468). -/
def State.acceptRefuse (s : State) (w reason : Nat) : State :=
  match AL.get w s.ldt.slots with
  | some a =>
    let x := (s.lconn a.conn).getD {}
    ((s.helloRefuse (w / 64) x.iface x.peerAddr x.hello reason).acceptGone w).ldtEnd a.conn false
  | none => s

/-- The largest segment code that a frame size takes: s + 134 bytes (R469). -/
def segFits (frameMax : Nat) : Option Nat :=
  if 8192 + 134 ≤ frameMax then some 2 else if 4096 + 134 ≤ frameMax then some 1 else if 1024 + 134 ≤ frameMax then some 0 else none

/-- What a HELLO_RESP carries before its signatures (Table 11.4). -/
def State.respHead (s : State) (n : Nat) (x : LdtConn) (sport nonce secret rand : Nat) : List Nat :=
  let cert := match (AL.get s.flash.slot s.flash.slots).bind (fun t => t.items.find? (fun i => i.1 == 3)) with
    | some i => leNat i.2.2 i.2.1
    | none => []
  let ek := (x.hello.drop 149).take 1568
  leNat 4 (x.ident n) ++ leNat 2 sport ++ [x.paths, x.seg] ++ leNat 2 x.qdepth ++ [0, 0] ++ leNat 32 nonce
    ++ (List.range 97).map (fun k => (Config.setupPublic 0 secret k).toNat) ++ (List.range 1568).map (fun k => (Config.kemCipher rand ek k).toNat)
    ++ leNat 2 cert.length ++ cert

/-- The two signatures of a set-up message over a transcript (R470, Table 11.4). -/
def setupSigs (transcript : List Nat) : List Nat :=
  let d := beBytes 48 (Config.sha384 transcript).toNat
  (List.range 96).map (fun k => (Config.signature 0 d k).toNat) ++ (List.range 4627).map (fun k => (Config.signature 1 d k).toNat)

/-- PRK of R471: key `NONCE_I` and `NONCE_H` over the two shared secrets. -/
def setupPrk (nonceI nonceH ec kem : Nat) : Nat :=
  (Config.hmac (ofBytes (leNat 32 nonceI ++ leNat 32 nonceH)) 2 (beBytes 48 ec ++ beBytes 32 kem)).toNat % 2 ^ 384

/-- The paths of a connection as it begins (R489). -/
def State.freshPaths (s : State) (u n : Nat) : List (Nat × LdtPath) :=
  (List.range n).map (fun k => (k, { idx := s.get (F.LDT_RATE_CFG_START_IDX u), quietBeat := s.beat }))

/-- Accept a HELLO: secrets, grants, key of generation 0, and HELLO_RESP (R468, R469, R471). -/
def State.acceptYes (s : State) (w : Nat) : State :=
  match AL.get w s.ldt.slots with
  | none => s
  | some a =>
    let n := a.conn
    let u := w / 64
    let x := (s.lconn n).getD {}
    let area := s.acceptArea u (w % 64) + 0x5000
    let word := Mem.rdLE area 8 s.mem
    match segFits (((AL.get x.iface s.host.ifaces).map (·.frameMax)).getD 0) with
    | none => (s.raise (ldtSlot u 1) Cond.LDT_FRAME_TOO_SMALL n).acceptRefuse w 1
    | some fit =>
      let (nonce, s) := s.draw256
      let (secret, s) := s.draw256
      let (rand, s) := s.draw256
      let (sport, s) := s.free 16
      let x := { x with
        qdepth := min x.qdepth (min (word % 2048) (s.get (F.LDT_CFG_QDEPTH_MAX u)))
        paths := min x.paths (min (bitsOf word 16 4) (s.get (F.LDT_CFG_MAX_PATHS u)))
        seg := min x.seg (min (s.get (F.LDT_CFG_SEG u)) fit) }
      let head := s.respHead n x sport nonce secret rand
      let resp := head ++ setupSigs (x.hello ++ head)
      let prk := setupPrk x.nonce nonce (Config.ecShared secret ((x.hello.drop 52).take 97)).toNat (Config.kemShared rand ((x.hello.drop 149).take 1568)).toNat
      let x := { x with
        state := 2, resp := resp, prk := prk, th := (Config.sha384 (x.hello ++ resp)).toNat, stateBeat := s.beat, slot := none
        grants := (List.range (min 16 (bitsOf word 24 5))).map (fun i => Mem.rdLE (area + 8 + 2 * i) 2 s.mem % 4096)
        sigKeys := s.bytesAt (area + 0x28) 0x61 ++ s.bytesAt (area + 0x90) 0xA20
        pathSt := s.freshPaths u x.paths, ownLimit := x.qdepth, peerLimit := x.qdepth }
      let s := s.modLdt (fun t => { t with conns := AL.put n x t.conns })
      ((s.acceptGone w).ldtKey n 0).ldtClear n 0xD resp

/-- A write of `LDT_ACCEPT_ANS` (R468, R498). -/
def State.acceptAnswer (s : State) (u slot action : Nat) : State :=
  let w := 64 * u + slot
  if !((AL.get w s.ldt.slots).map (fun a => !a.yes)).getD false || action == 0 then s.raise (ldtSlot u 1) Cond.LDT_ACCEPT_MISMATCH slot
  else if action = 1 then
    if s.mayDraw then s.acceptYes w else s.modLdt (fun t => { t with slots := AL.upd w ⟨0, 0, 0, false⟩ (fun a => { a with yes := true }) t.slots })
  else s.acceptRefuse w (if action = 2 then 1 else 2)

/-- Accepted slots that waited for random bits go on (R595). -/
def State.acceptsGo (s : State) : State :=
  if !s.mayDraw then s else (s.ldt.slots.filter (fun q => q.2.yes)).foldl (fun (s : State) q => s.acceptYes q.1) s

/-- A master's write of `LDT_ACCEPT_ANS`. -/
def acceptBus (m u slot action : Nat) (s : State) : Res := .next (s.busWr m (ldtSlot u 1) 0x110 (fun s => s.acceptAnswer u (slot % 64) action))

/-- `LDT_ACCEPT` (R468). -/
def execLdtAccept (m u slot : Nat) (s : State) : Res := acceptBus m (u % 2) slot 1 s

/-- `LDT_REFUSE` (R468). -/
def execLdtRefuse (m u slot : Nat) (s : State) : Res := acceptBus m (u % 2) slot 2 s

/-- `LDT_REFUSE_BUSY` (R468). -/
def execLdtRefuseBusy (m u slot : Nat) (s : State) : Res := acceptBus m (u % 2) slot 3 s

/-- `LDT_ACCEPT_TIMEOUT` (Table 11.6). -/
def execLdtAcceptTimeout (u slot : Nat) (s : State) : Res :=
  .next (match AL.get (64 * (u % 2) + slot % 64) s.ldt.slots with
    | some a =>
      if !a.yes ∧ a.beat + 1024 * s.get (F.LDT_TMO_CFG_ACCEPT_TMO (u % 2)) ≤ s.beat then
        (s.raise (ldtSlot (u % 2) 1) Cond.LDT_ACCEPT_TIMEOUT a.conn).acceptRefuse (64 * (u % 2) + slot % 64) 2
      else s
    | none => s)

/-- The connection that a receiver's identity names in a unit (R463, R465). -/
def State.connNamed (s : State) (u dcid : Nat) : Option (Nat × LdtConn) :=
  let n := dcid % 2 ^ 20
  match s.lconn n with
  | some x => if ldtUnit n = u ∧ x.ident n = dcid ∧ x.state ≠ 0 then some (n, x) else none
  | none => none

/-- `LDT_HELLO_RESP_RX` (R470, R471): the head as initiator takes the grants, derives the keys and sends FINISH; a refusal ends
the attempt. -/
def execLdtHelloRespRx (u dcid : Nat) (data : List Nat) (ok : Bool) (s : State) : Res :=
  .next (match s.connNamed (u % 2) dcid with
    | some (n, x) =>
      if !x.initiator ∨ x.state ≠ 1 then s
      else if data.getD 10 0 ≠ 0 then s.ldtClose n false
      else if !ok then s
      else
        let prk := setupPrk x.nonce (bytesNat data 12 32) (Config.ecShared x.secret ((data.drop 44).take 97)).toNat
          (Config.kemOpened x.secret ((data.drop 141).take 1568)).toNat
        let q := bytesNat data 8 2
        let x := { x with
          state := 3, scid := bytesNat data 0 4, paths := data.getD 6 0, seg := data.getD 7 0, qdepth := q, prk := prk
          th := (Config.sha384 (x.hello ++ data)).toNat, pathSt := s.freshPaths (u % 2) (data.getD 6 0), peerLimit := q, ownLimit := q
          stateBeat := s.beat, lastRx := s.beat }
        let s := ((s.modLdt (fun t => { t with conns := AL.put n x t.conns })).ldtKey n 0).bump (F.LDT_CNT_SETUP_COUNT (u % 2))
        (s.ldtMsg n 0xE 4723 0 (leOf (setupSigs (x.hello ++ data)))).headGo
    | none => s)

/-- `LDT_FINISH_RX` (R470): both signatures hold, or the connection is CLOSED. One that comes again on an ESTABLISHED connection is a
duplicate, acknowledged at once (R476). -/
def execLdtFinishRx (u dcid : Nat) (tagOk ok : Bool) (s : State) : Res :=
  .next (match s.connNamed (u % 2) dcid with
    | some (n, x) =>
      if (x.state ≠ 2 ∧ x.state ≠ 3) ∨ !s.ldtServing (u % 2) ∨ !s.ldtListens (u % 2) x.iface then s.bump (F.LDT_CNT_NO_CONN_COUNT (u % 2))
      else if !tagOk then s.lsts n 0 F.LDT_STS_AUTH_COUNT
      else if x.state = 3 then (if x.initiator then s else (s.lsts n 0 F.LDT_STS_DUP_COUNT).ldtAck n)
      else if !ok then (s.raise (ldtSlot (u % 2) 1) Cond.LDT_SETUP_AUTH_FAIL n).ldtEnd n false
      else
        let k := ceilDiv 4723 (segBytes x.seg)
        (s.modLconn n (fun x => { x with
          state := 3, stateBeat := s.beat, rxNext := k, rxReport := 1, genBeat := s.beat, lastRx := s.beat, heard := true, ackCnt := k
          ackBeat := s.beat })).bump
          (F.LDT_CNT_SETUP_COUNT (u % 2))
    | none => s.bump (F.LDT_CNT_NO_CONN_COUNT (u % 2)))

/-- `LDT_SETUP_TIMEOUT` (Table 11.6). -/
def execLdtSetupTimeout (n : Nat) (s : State) : Res :=
  .next (match s.lconn n with
    | some x =>
      if x.state = 2 ∧ x.stateBeat + 1024 * s.get (F.LDT_TMO_CFG_ACCEPT_TMO (ldtUnit n)) ≤ s.beat then
        (s.raise (ldtSlot (ldtUnit n) 1) Cond.LDT_SETUP_TIMEOUT n).ldtEnd n false
      else s
    | none => s)

/-! ### Messages (R480 to R487) -/

/-- The bytes from `a` that lie in the segments held: those of a range of `n`. -/
def LdtRx.held (m : LdtRx) (a n : Nat) : Nat :=
  (m.segs.map (fun g => min (a + n) (g.1 + g.2.1) - max a g.1)).sum

/-- The content of a message. -/
def LdtRx.content (m : LdtRx) : Nat := m.segs.foldl (fun v g => v + g.2.2 % 256 ^ g.2.1 * 256 ^ g.1) 0

/-- A READ_REQ's command has failed, or its answer has (R495). -/
def State.respFail (s : State) (n msn cond : Nat) : State :=
  match (s.lconn n).bind (fun x => AL.get msn x.reads) with
  | some q =>
    let s := s.modLconn n (fun x => { x with reads := AL.del msn x.reads, rxResps := AL.del msn x.rxResps })
    match s.req q.tag with
    | some r => if r.stage = .completing then s else (s.finish q.tag cond).wakeHeld
    | none => s
  | none => s

/-- A message being received fails: what it held goes, the sender is told, and it counts as reported (R485). -/
def State.rxFail (s : State) (n msn cond : Nat) (resp : Bool) : State :=
  let s := s.modLconn n (fun x =>
    if resp then { x with rxResps := AL.del msn x.rxResps }
    else { x with rxMsgs := AL.put msn { AL.getD msn {} x.rxMsgs with segs := [], done := true, failed := true } x.rxMsgs })
  let s := (if cond = Cond.LENGTH_MISMATCH then s.bump (F.LDT_CNT_LENGTH_MISMATCH_COUNT (ldtUnit n)) else s).lsts n 0 F.LDT_STS_MSG_FAIL_COUNT
  let s := s.ldtCtrl n 2 msn cond
  if resp then s.respFail n msn cond else s

/-- Ranges as a DEALLOC record's list holds them (R174): first block, blocks. -/
def rangesOf (data k : Nat) : List (Nat × Nat) :=
  (List.range k).map (fun i => (bitsOf data (128 * i) 38, bitsOf data (128 * i + 64) 32))

/-- The list that a command asked for has come: a deallocate's ranges, or the LBAs of REP_CHUNKS. -/
def State.listCame (s : State) (tag data : Nat) : State :=
  match s.req tag with
  | some r =>
    if r.stage ≠ .awaitData then s
    else if r.kind = .dealloc then
      let l := rangesOf data (r.bufLen)
      s.modReq tag (fun r => { r with ranges := l, lba := (l.headD (0, 0)).1, blocks := (l.map (·.2)).sum, stage := .resolving })
    else
      let l := (List.range r.bufLen).map (fun i => (bitsOf data (64 * i) 38, 1))
      (s.modReq tag (fun r => { r with ranges := l, stage := .resolving })).resolve tag []
  | none => s

/-- Blocks of a write's data land as their segments come; a list is taken whole (R439, R481). -/
def State.respTake (s : State) (n msn : Nat) (m : LdtRx) : State :=
  match (s.lconn n).bind (fun x => AL.get msn x.reads) with
  | none => s
  | some q =>
    let isWrite := ((s.req q.tag).map (fun r => r.kind == .write)).getD false
    if isWrite then
      let ready := (List.range (q.len / 4096)).filter (fun i => !q.landed.contains i && m.held (4096 * i) 4096 == 4096)
      let v := m.content
      let s := ready.foldl (fun (s : State) i => s.landBlock q.tag (q.off / 4096 + i) (v / 256 ^ (4096 * i) % 256 ^ 4096)) s
      s.modLconn n (fun x => { x with reads := AL.put msn { q with landed := q.landed ++ ready } x.reads })
    else if m.done then s.listCame q.tag m.content else s

/-- The answer to a READ_REQ (R487): the head as initiator gives what its command holds for the buffer. -/
def State.readAnswer (s : State) (n msn : Nat) (m : LdtRx) : State :=
  match s.lconn n with
  | none => s
  | some x =>
    let found := s.fab.out.find? (fun q => q.2.conn == some n && decide (q.2.buf ≤ m.addr) && decide (m.addr + m.mlen ≤ q.2.buf + q.2.dataLen))
    match (if m.key = x.mkey then found else none) with
    | some q => s.ldtResp n msn m.mlen (q.2.data / 256 ^ (m.addr - q.2.buf) % 256 ^ m.mlen)
    | none => s.ldtCtrl n 2 msn Cond.LDT_REMOTE_ACCESS

/-- A message is reported complete (R483). -/
def State.msgReport (s : State) (n msn : Nat) (m : LdtRx) : State :=
  let s := s.lsts n 0 F.LDT_STS_MSG_DONE_COUNT
  let init := ((s.lconn n).map (·.initiator)).getD false
  let d := m.content
  if m.ptype = 1 then
    (if init then s.headDone n d else s.modLconn n (fun x => { x with inbox := x.inbox ++ [(m.mlen, d)] }))
  else if m.ptype = 3 then s.readAnswer n msn m
  else if m.ptype = 6 then
    (if d % 256 = 1 then s.ldtClose n false
     else if d % 256 = 2 then s.respFail n (bitsOf d 32 32) (bitsOf d 64 16)
     else s)
  else s

/-- Report messages in MSN order (R483). -/
def State.msgReports : Nat → Nat → State → State
  | 0, _, s => s
  | f + 1, n, s =>
    match s.lconn n with
    | none => s
    | some x =>
      match AL.get x.rxReport x.rxMsgs with
      | some m =>
        if m.done then
          let s := s.modLconn n (fun x => { x with rxReport := x.rxReport + 1, rxMsgs := AL.del x.rxReport x.rxMsgs })
          State.msgReports f n (if m.failed then s else s.msgReport n x.rxReport m)
        else s
      | none => s

/-- What a data packet brings for its message: the place of its payload, or the failure of the message (R480, R481, R485,
R486). -/
def State.msgTake (s : State) (n : Nat) (x : LdtConn) (p : LdtIn) : State :=
  let h := p.hdr
  let resp := p.kind == 4
  let ptype := if 0x60 ≤ p.kind then 6 else p.kind
  let old := AL.get h.msn (if resp then x.rxResps else x.rxMsgs)
  let m := old.getD { ptype := ptype, mlen := h.mlen, addr := p.args.getD 0 0, key := p.args.getD 1 0, lastBeat := s.beat }
  let fresh := old.isNone && (resp || decide (x.rxReport ≤ h.msn))
  let s := if fresh ∧ ptype = 1 then s.modLconn n (fun x => { x with sendsIn := x.sendsIn + 1 }) else s
  if m.done ∨ (!resp ∧ h.msn < x.rxReport) then s
  else if resp ∧ !AL.has h.msn x.reads then s
  else if m.mlen ≠ h.mlen ∨ h.mlen < h.off + h.plen then s.rxFail n h.msn Cond.LENGTH_MISMATCH resp
  else if fresh ∧ ptype = 1 ∧ x.ownLimit ≤ x.sendsIn then s.rxFail n h.msn Cond.LDT_CREDIT_EXCEEDED resp
  else
    let dupSeg := m.segs.any (fun g => g.1 == h.off)
    let m := if dupSeg then m else { m with segs := m.segs ++ [(h.off, h.plen, p.data)], lastBeat := s.beat }
    let m := { m with done := ptype == 3 || (m.segs.map (fun g => g.2.1)).sum == h.mlen }
    let s := s.modLconn n (fun x => if resp then { x with rxResps := AL.put h.msn m x.rxResps } else { x with rxMsgs := AL.put h.msn m x.rxMsgs })
    let s := if ptype = 2 ∧ !dupSeg ∧ m.key = x.mkey then
        let a := m.addr + h.off
        let s := s.modLconn n (fun x => { x with placed := x.placed ++ [(a, h.plen, p.data % 256 ^ h.plen)] })
        if a < 2 ^ 48 then s.wrLE a h.plen p.data else s
      else s
    if resp then
      let s := s.respTake n h.msn m
      if m.done then (s.modLconn n (fun x => { x with reads := AL.del h.msn x.reads, rxResps := AL.del h.msn x.rxResps })).lsts n 0
        F.LDT_STS_MSG_DONE_COUNT else s
    else s

/-! ### Packets (R463, R464, R473, R476, R477) -/

/-- A verified data packet: duplicates and packets out of range are discarded, the rest is recorded and taken; an
acknowledgement goes where one is due. -/
def State.dataPacket (s : State) (n : Nat) (x : LdtConn) (p : LdtIn) : State :=
  let h := p.hdr
  if h.psn < x.rxNext ∨ x.rxSet.contains h.psn then (s.lsts n h.path F.LDT_STS_DUP_COUNT).ldtAck n
  else if x.rxNext + 4096 ≤ h.psn then s
  else if p.kind ≠ 4 ∧ x.rxReport + 64 ≤ h.msn then s
  else if !x.initiator ∧ (p.kind = 2 ∨ p.kind = 3) then
    (s.raise (ldtSlot (ldtUnit n) 1) Cond.LDT_PROTOCOL_ERROR n).ldtClose n true
  else
    let top := x.rxSet.foldl max (x.rxNext - 1)
    let gap := if x.rxSet = [] then h.psn != x.rxNext else h.psn != top + 1
    let set := h.psn :: x.rxSet
    let next := (List.range (set.length + 1)).foldl (fun k _ => if set.contains k then k + 1 else k) x.rxNext
    let s := s.modLconn n (fun x => { x with
      rxNext := next, rxSet := set.filter (fun q => decide (next ≤ q)), ackCnt := x.ackCnt + 1, ackBeat := if x.ackCnt = 0 then s.beat else x.ackBeat })
    let s := s.msgTake n x p
    let s := match s.lconn n with
      | some y => if h.ackreq || gap || decide (s.get (F.LDT_ACK_CFG_ACK_EVERY (ldtUnit n)) ≤ y.ackCnt) then s.ldtAck n else s
      | none => s
    State.msgReports 64 n s

/-- An acknowledgement: its packets are retired, paths and the send limit follow, fast retransmissions go (R478, R479, R486,
R489). -/
def State.ackPacket (s : State) (n : Nat) (x : LdtConn) (p : LdtIn) : State :=
  let u := ldtUnit n
  let cum := p.args.getD 0 0
  let limit := p.args.getD 1 0
  let nSack := p.args.getD 2 0
  let sack := (p.args.drop 3).take nSack
  let ece := p.args.drop (3 + nSack)
  let covered (k : Nat) : Bool := (cum != 2 ^ 48 - 1 && decide (k ≤ cum)) || sack.contains k
  let gone := x.pkts.filter (fun q => covered q.psn)
  let srtt := (gone.filter (fun q => !q.again)).foldl (fun r q => if r = 0 then s.tb - q.sentNs else (7 * r + (s.tb - q.sentNs)) / 8) x.srtt
  let s := s.modLconn n (fun x =>
    let x := { x with pkts := x.pkts.filter (fun q => !covered q.psn), srtt := srtt, peerLimit := max limit x.peerLimit }
    { x with msgs := x.msgs.filter (fun m => !x.msgDone m)
             pathSt := x.pathSt.map (fun q => if gone.any (fun g => g.path == q.1) then (q.1, { q.2 with rtoRun := 0 }) else q) })
  let s := (List.range 8).foldl (fun (s : State) k =>
    if ece.getD k 0 = 0 ∨ x.paths ≤ k then s
    else
      let held := match (x.path k).decBeat with | some b => decide (s.beat < b + s.get (F.LDT_RATE_CFG_DEC_HOLD u)) | none => false
      if held then s.modPath n k (fun q => { q with quietBeat := s.beat, used := false })
      else (s.pathDown n k (s.get (F.LDT_RATE_CFG_DOWN_STEP u))).modPath n k (fun q => { q with decBeat := some s.beat })) s
  let lost := (((s.lconn n).map (·.pkts)).getD []).filter (fun (q : LdtPkt) => !q.fast && decide (s.get (F.LDT_ACK_CFG_DUP_THRESH u)
    ≤ (sack.filter (fun k => decide (q.psn < k))).length))
  (lost.foldl (fun (s : State) q => s.ldtAgain n q.psn true) s).ldtGo n

/-- The slice that opens a packet, from one that a free value names: a segment for each 4 KiB of its payload in the first that has room.
Where none has, the packet is received all the same (R345, R464, R473; log entry 176). -/
def State.ldtReceive (s : State) (plen : Nat) : Nat × State :=
  let (k, s) := s.free 4
  let n := (plen + 4095) / 4096
  match s.roomySlice [0] n false k with
  | some i => (i, (s.segCharge i [0] n).bump (F.DSL_CPH_CNT_SEG_COUNT i) n)
  | none => (k, s)

/-- A packet whose connection's context is on chip: its tag and generation are checked before anything else (R464, R473).
A failed tag is counted by the slice that took the packet, which the spec leaves open (R369). -/
def State.ldtPacket (s : State) (n : Nat) (p : LdtIn) : State :=
  let (k, s) := s.ldtReceive p.hdr.plen
  match s.lconn n with
  | none => s
  | some x =>
    let h := p.hdr
    let nextGen := h.kgen % 256 == (x.kgen + 1) % 256
    if !h.tagOk || !(h.kgen % 256 == x.kgen % 256 || nextGen) then
      ((s.bump (F.DSL_CPH_CNT_AUTH_COUNT k)).bump (F.DSL_CPH_CNT_ZERO_COUNT k)).lsts n h.path F.LDT_STS_AUTH_COUNT
    else
      let s := if nextGen then s.ldtGen n (x.kgen + 1) else s
      let gen := if nextGen then x.kgen + 1 else x.kgen
      let s := s.modLconn n (fun x => { x with lastRx := s.beat, useNs := s.tb, heard := x.heard || x.txGen == gen })
      let s := (s.lsts n h.path F.LDT_STS_RX_PKT_COUNT).lsts n h.path F.LDT_STS_RX_BYTES_COUNT h.plen
      let s := if h.ce then (s.lsts n h.path F.LDT_STS_CE_COUNT).modPath n h.path (fun q => { q with ce := q.ce + 1 }) else s
      match s.lconn n with
      | none => s
      | some x => (if p.kind = 5 then s.ackPacket n x p else s.dataPacket n x p).ldtGo n

/-- Packets of a unit in its miss queue (R491). -/
def State.missCount (s : State) (u : Nat) : Nat := ((s.ldt.conns.filter (fun q => ldtUnit q.1 == u)).map (fun q => q.2.missQ.length)).sum

/-- A packet arrives at a unit (R460, R463, R491). -/
def State.ldtIn (s : State) (u : Nat) (p : LdtIn) : State :=
  let u := u % 2
  let h := p.hdr
  if !s.ldtServing u then s.bump (F.LDT_CNT_NO_CONN_COUNT u)
  else if !h.hdrOk then s.bump (F.LDT_CNT_BAD_HDR_COUNT u)
  else match s.connNamed u h.dcid with
    | none => s.bump (F.LDT_CNT_NO_CONN_COUNT u)
    | some (n, x) =>
      if (x.state ≠ 3 ∧ x.state ≠ 4) ∨ !s.ldtListens u x.iface then s.bump (F.LDT_CNT_NO_CONN_COUNT u)
      else if x.resident ∧ x.missQ = [] then s.ldtPacket n p
      else if 4096 ≤ s.missCount u then s.bump (F.LDT_CNT_MISS_DROP_COUNT u)
      else s.modLconn n (fun x => { x with missQ := x.missQ ++ [p], missNs := if x.missQ = [] then s.tb else x.missNs })

/-- `LDT_SEND_RX` (R481, R483). -/
def execLdtSendRx (u : Nat) (hdr : LdtHdr) (data : Nat) (s : State) : Res := .next (s.ldtIn u { kind := 1, hdr := hdr, data := data })

/-- `LDT_WRITE_RX` (R481, R487). -/
def execLdtWriteRx (u : Nat) (hdr : LdtHdr) (addr mkey data : Nat) (s : State) : Res :=
  .next (s.ldtIn u { kind := 2, hdr := hdr, args := [addr, mkey], data := data })

/-- `LDT_READ_REQ_RX` (R487). -/
def execLdtReadReqRx (u : Nat) (hdr : LdtHdr) (addr mkey : Nat) (s : State) : Res :=
  .next (s.ldtIn u { kind := 3, hdr := hdr, args := [addr, mkey] })

/-- `LDT_READ_RESP_RX` (R483). -/
def execLdtReadRespRx (u : Nat) (hdr : LdtHdr) (data : Nat) (s : State) : Res := .next (s.ldtIn u { kind := 4, hdr := hdr, data := data })

/-- `LDT_ACK_RX` (Table 11.5). -/
def execLdtAckRx (u : Nat) (hdr : LdtHdr) (cum : Nat) (sack ece : List Nat) (limit : Nat) (s : State) : Res :=
  .next (s.ldtIn u { kind := 5, hdr := hdr, args := [cum, limit, sack.length] ++ sack ++ ece })

/-- `LDT_CLOSE_RX` (R475). -/
def execLdtCloseRx (u : Nat) (hdr : LdtHdr) (s : State) : Res := .next (s.ldtIn u { kind := 0x61, hdr := hdr, data := 1 })

/-- `LDT_MSG_FAIL_RX` (R485, R495). -/
def execLdtMsgFailRx (u : Nat) (hdr : LdtHdr) (msn cond : Nat) (s : State) : Res :=
  .next (s.ldtIn u { kind := 0x62, hdr := hdr, data := 2 + msn * 2 ^ 32 + cond * 2 ^ 64 })

/-- `LDT_KEEPALIVE_RX` (R474). -/
def execLdtKeepaliveRx (u : Nat) (hdr : LdtHdr) (s : State) : Res := .next (s.ldtIn u { kind := 0x63, hdr := hdr, data := 3 })

/-- `LDT_CTX_FETCH_DONE` (R491, R492): the packets of the connection that waited are taken in order; while no context can be
evicted they wait on. -/
def execLdtCtxFetchDone (n : Nat) (s : State) : Res :=
  .next (match s.lconn n with
    | some x =>
      if x.resident ∨ x.missQ = [] then s
      else
        let u := ldtUnit n
        match s.ctxRoom u with
        | (false, s) => s
        | (true, s) =>
          let d := s.tb - x.missNs
          let s := s.bump (F.LDT_CNT_CTX_FETCH_COUNT u)
          let s := if s.get (F.LDT_CTX_STAT_FETCH_MAX_NS u) < d then s.set (F.LDT_CTX_STAT_FETCH_MAX_NS u) (min 65535 d) else s
          let s := s.modLconn n (fun x => { x with resident := true, missQ := [], useNs := s.tb })
          x.missQ.foldl (fun (s : State) p => s.ldtPacket n p) s
    | none => s)

/-! ### Commands and timers -/

/-- A write of `LDT_CONN_CMD` (R498). -/
def State.connCmd (s : State) (u n op : Nat) : State :=
  let k := u * 2 ^ 19 + n % 2 ^ 19
  if s.get (F.LDT_CONN_CMD_STAT_BUSY u) = 1 then s.raise (ldtSlot u 1) Cond.LDT_CONN_CMD_BUSY k
  else
    let est := ((s.lconn k).map (fun x => x.state == 3)).getD false
    let s := if !est then s else if op = 1 then s.ldtClose k true else (s.modLconn k (fun x => { x with rekey := true })).ldtGo k
    (s.setAll [(F.LDT_CONN_CMD_STAT_RESULT u, if est then 1 else 2), (F.LDT_CONN_CMD_STAT_CONDITION u, 0)]).irq (ldtSlot u 1) 2

/-- `LDT_CONN_CLOSE` (R475, R498). -/
def execLdtConnClose (m u n : Nat) (s : State) : Res := .next (s.busWr m (ldtSlot (u % 2) 1) 0x130 (fun s => s.connCmd (u % 2) n 1))

/-- `LDT_CONN_REKEY` (R472, R498). -/
def execLdtConnRekey (m u n : Nat) (s : State) : Res := .next (s.busWr m (ldtSlot (u % 2) 1) 0x130 (fun s => s.connCmd (u % 2) n 2))

/-- `LDT_REKEY_DUE` (R472). -/
def execLdtRekeyDue (n : Nat) (s : State) : Res :=
  .next (match s.lconn n with
    | some x =>
      let k := s.get (F.LDT_CFG_REKEY_BEATS (ldtUnit n))
      if x.rekey ∨ (k ≠ 0 ∧ x.genBeat + 65536 * k ≤ s.beat) then s.ldtRekey n else s
    | none => s)

/-- `LDT_KEEPALIVE_SEND` (R474). -/
def execLdtKeepaliveSend (n : Nat) (s : State) : Res :=
  .next (match s.lconn n with
    | some x =>
      if x.state = 3 ∧ x.lastTx + 4096 * s.get (F.LDT_TMO_CFG_IDLE_TMO (ldtUnit n)) ≤ s.beat then s.ldtCtrl n 3 0 0 else s
    | none => s)

/-- `LDT_IDLE_TIMEOUT` (R474). -/
def execLdtIdleTimeout (n : Nat) (s : State) : Res :=
  .next (match s.lconn n with
    | some x =>
      if x.state = 3 ∧ x.lastRx + 16384 * s.get (F.LDT_TMO_CFG_IDLE_TMO (ldtUnit n)) ≤ s.beat then
        (s.raise (ldtSlot (ldtUnit n) 1) Cond.LDT_IDLE_TIMEOUT n).ldtClose n true
      else s
    | none => s)

/-- `LDT_ACK_DELAY_EXPIRE` (R477). -/
def execLdtAckDelayExpire (n : Nat) (s : State) : Res :=
  .next (match s.lconn n with
    | some x => if x.state = 3 ∧ 0 < x.ackCnt ∧ x.ackBeat + s.get (F.LDT_ACK_CFG_ACK_DELAY (ldtUnit n)) ≤ s.beat then s.ldtAck n else s
    | none => s)

/-- RTO in ns (R479). -/
def State.ldtRto (s : State) (n : Nat) (x : LdtConn) : Nat :=
  min (8000 * s.get (F.LDT_ACK_CFG_RTO_MAX (ldtUnit n))) (max (8000 * s.get (F.LDT_ACK_CFG_RTO_MIN (ldtUnit n))) (2 * x.srtt))

/-- A path is disabled; when every path is, the one disabled longest ago returns at once (R490). -/
def State.pathOff (s : State) (n k : Nat) : State :=
  let u := ldtUnit n
  let s := (s.modPath n k (fun q => { q with offUntil := some (s.beat + s.get (F.LDT_RATE_CFG_PATH_OFF u)), offSince := s.beat, rtoRun := 0 })).bump
    (F.LDT_CNT_PATH_DISABLE_COUNT u)
  match s.lconn n with
  | some x =>
    if x.enabled ≠ [] then s
    else match minBy (fun q => q.2.offSince) x.pathSt with
      | some q => s.modPath n q.1 (fun y => { y with offUntil := none, idx := 0 })
      | none => s
  | none => s

/-- `LDT_RTO_EXPIRE` (R479, R489, R490). -/
def execLdtRtoExpire (n psn : Nat) (s : State) : Res :=
  .next (match s.lconn n with
    | some x =>
      match x.pkts.find? (fun q => q.psn == psn) with
      | some p =>
        if p.sentNs + s.ldtRto n x ≤ s.tb then
          let u := ldtUnit n
          let s := ((s.bump (F.LDT_CNT_RTO_COUNT u)).pathDown n p.path (s.get (F.LDT_RATE_CFG_RTO_STEP u))).modPath n p.path
            (fun q => { q with rtoRun := q.rtoRun + 1 })
          let run := ((s.lconn n).map (fun x => (x.path p.path).rtoRun)).getD 0
          let s := if s.get (F.LDT_RATE_CFG_PATH_FAIL u) ≤ run then s.pathOff n p.path else s
          s.ldtAgain n psn false
        else s
      | none => s
    | none => s)

/-- `LDT_MSG_TIMEOUT` (R482): every unacknowledged packet of the message goes again; after `MSG_RETRIES` such expiries the
connection closes. -/
def execLdtMsgTimeout (n ptype msn : Nat) (s : State) : Res :=
  .next (match s.lconn n with
    | some x =>
      let u := ldtUnit n
      match x.msgs.find? (fun m => m.ptype == ptype && m.msn == msn) with
      | some m =>
        if m.begun ∧ m.beat + s.get (F.LDT_TMO_CFG_MSG_TMO u) ≤ s.beat then
          if s.get (F.LDT_TMO_CFG_MSG_RETRIES u) ≤ m.expiries then (s.raise (ldtSlot u 2) Cond.LDT_MSG_TIMEOUT n).ldtClose n true
          else
            let s := (s.modLconn n (fun x => { x with msgs := x.msgs.map (fun q =>
              if q.ptype = ptype ∧ q.msn = msn then { q with beat := s.beat, expiries := q.expiries + 1 } else q) })).bump (F.LDT_CNT_MSG_TMO_COUNT u)
            (x.pkts.filter (fun p => p.ptype == ptype && p.msn == msn)).foldl (fun (s : State) p => s.ldtAgain n p.psn false) s
        else s
      | none => s
    | none => s)

/-- `LDT_RX_MSG_TIMEOUT` (R485). -/
def execLdtRxMsgTimeout (n msn : Nat) (resp : Bool) (s : State) : Res :=
  .next (match s.lconn n with
    | some x =>
      match AL.get msn (if resp then x.rxResps else x.rxMsgs) with
      | some m =>
        if !m.done ∧ m.lastBeat + s.get (F.LDT_TMO_CFG_RX_MSG_TMO (ldtUnit n)) ≤ s.beat then
          State.msgReports 64 n (s.rxFail n msn Cond.LENGTH_MISMATCH resp)
        else s
      | none => s
    | none => s)

/-- `LDT_RATE_INCREASE` (R489). -/
def execLdtRateIncrease (n k : Nat) (s : State) : Res :=
  .next (match s.lconn n with
    | some x =>
      let p := x.path k
      if k < x.paths ∧ p.used ∧ p.quietBeat + s.get (F.LDT_RATE_CFG_INC_BEATS (ldtUnit n)) ≤ s.beat then
        (s.modPath n k (fun q => { q with idx := min 31 (q.idx + 1), quietBeat := s.beat, used := false })).bump
          (F.LDT_CNT_RATE_UP_COUNT (ldtUnit n))
      else s
    | none => s)

/-- `LDT_PATH_RETURN` (R490). -/
def execLdtPathReturn (n k : Nat) (s : State) : Res :=
  .next (match s.lconn n with
    | some x =>
      match (x.path k).offUntil with
      | some b => if b ≤ s.beat then (s.modPath n k (fun q => { q with offUntil := none, idx := 0 })).ldtGo n else s
      | none => s
    | none => s)

end Sys2Proof.Machine
end

