-- ==== Sys2Proof/Machine/Ftl.lean ====
section
/-! DEFINITION. Chapter 6: applying update records, moves of chunks, the directory, write-back, checkpoints, the vault dump
and recovery; and the re-dye sweep of chapter 5. -/

namespace Sys2Proof.Machine

/-! ### Applying update records (R265, R275, R282, R284) -/

/-- A CLOSED band of a shard held, with every placement committed or abandoned, is sealed. -/
def State.sealCheck (s : State) (b : Nat) : State :=
  match s.band b with
  | some x =>
    if x.state = 2 ∧ x.pendingPl = 0 ∧ s.leaseHeld x.shard ∧ !s.bandSaid b 3 then (s.bandTo b 3).bump F.BND_CNT_SEAL_COUNT else s
  | none => s

/-- A chunk has moved: its pin drops, another victim that waits for it takes it (R284), and its band may be done. -/
def State.moveEnd (s : State) (cid : Nat) : State :=
  let src := ((AL.get cid s.ftl.moves).map (·.src)).getD 0
  let s := s.moveOver cid
  let again := (s.ftl.bands.filter (fun q => q.2.state == 4 && s.leaseHeld q.2.shard && (s.liveIn q.1).contains cid && !q.2.stuck.contains cid)).map (·.1)
  match again.head? with
  | some b => s.startMove cid b false
  | none => (s.movesOf src).victimCheck src

/-- A chunk's count has changed: victims and held bands look again. -/
def State.countChanged (s : State) (cid : Nat) : State :=
  let b := (s.ctbEnt cid).band
  (s.victimCheck b).heldCheck b

/-- The page that a record has changed: fetched where this head holds its change but not the page, and within the capacity of its cache
(R266). -/
def State.changedPage (s : State) (v : UVal) : State :=
  match v.target with
  | none => s
  | some (ctb, key) =>
    match s.metaPage ctb key with
    | none => s
    | some g => if g.dirty && !g.resident && !g.fetching then s.metaFetch ctb key else if g.resident then s.metaEvict ctb else s

/-- What follows from an applied record. -/
def State.applied (s : State) (r : URec) : State :=
  let s := s.changedPage r.val
  match r.val with
  | .bandState b st .. =>
    if st = 4 then (s.movesOf b).victimCheck b
    else if st = 2 then s.sealCheck b
    else if st = 0 then s.modFtl (fun t => { t with bands := AL.del b t.bands })
    else s
  | .bandMembers .. => s
  | .ctb cid e =>
    if e.count = 0 then
      let s := if r.own then (s.bump F.BND_CNT_RELOC_CHUNKS_COUNT).bump F.BND_CNT_RELOC_UNITS_COUNT e.len else s
      (s.moveEnd cid).sealCheck e.band
    else s.sealCheck e.band
  | .delta cid _ => s.countChanged cid
  | .release _ band _ _ => (s.victimCheck band).heldCheck band
  | .map .. | .page .. =>
    match r.slot with
    | some k => s.retireCommitted k
    | none => s

/-- The blocks of volumes whose map entries name one of the chunks given. -/
def State.namers (s : State) (cids : List Nat) : List (Nat × Nat × Nat) :=
  s.read.map.flatMap (fun q => if 65536 ≤ q.1 / 2 ^ 29 then [] else
    (q.2.ents.filter (fun e => e.2.named && cids.contains e.2.chunk)).map (fun e => (q.1 / 2 ^ 29, 512 * (q.1 % 2 ^ 29) + e.1, 1)))

/-- The chunks that a lost record would have placed, or kept placed. -/
def State.chunksOf (s : State) : UVal → List Nat
  | .ctb cid _ | .delta cid _ | .release cid _ _ _ => [cid]
  | .bandState b .. | .bandMembers b .. => (s.read.ctb.filter (fun q => q.2.band == b)).map (·.1)
  | .map .. | .page .. => []

/-- The deferred errors of a lost record: the host ranges of the commit that it was part of, or the blocks that name the chunks of one
that is part of none (R213; log entry 165). -/
def State.groupError (s : State) (r : URec) : State :=
  let l := if r.group = 0 then [] else s.write.upd.filterMap (fun q => if q.2.group = r.group then (match q.2.val with
    | .map v l _ _ => some (v, l, 1)
    | .page v l _ _ => some (v, l, 512)
    | _ => none) else none)
  (if l = [] then s.namers (s.chunksOf r.val) else l).foldl (fun s q => s.deferError 3 q.1 q.2.1 q.2.2) s

/-- `UPDATE_RECORD_APPLY` (R265): an entered record whose turn has come is applied; one that fails its check with no mirror
copy is a deferred error of cause 3 (R213). -/
def execUpdateRecordApply (useq : Nat) (bad : Bool) (s : State) : Res :=
  .next (match AL.get useq s.write.upd with
    | none => s
    | some r =>
      if !s.canApply useq r then s
      else if bad then
        let s := s.modWrite (fun w => { w with upd := AL.put useq { r with applied := true } w.upd })
        match r.val with
        | .map v l _ _ => s.deferError 3 v l 1
        | .page v l _ _ => s.deferError 3 v l 512
        | _ => s.groupError r
      else (s.applyRec useq).applied r)

/-! ### Moves (R225, R226, R282) -/

/-- A chunk as a move places it in a band: unchanged, or re-encrypted by a re-dye at the vat's generation under a new nonce, with the
wrap count it had (R225, R282). -/
def State.movedEnt (s : State) (m : Move) (cid band : Nat) : CtbEnt :=
  let e := s.ctbEnt cid
  if m.redye then
    s.sealChunk (chunkNonce cid band (e.nonce % 2 ^ 24)) { e with keyGen := ((AL.get e.vat s.vat.vats).map (·.keyGen)).getD e.keyGen }
  else e

/-- A re-dye's chunk passes its slice: it is decrypted and encrypted again (R225), once both keys are there (R356); true when both passes
have run whole. -/
def State.dyePass (s : State) (m : Move) (cid : Nat) (e : CtbEnt) : Bool × State :=
  match s.req m.tag with
  | some r =>
    if m.redye then
      let (old, s) := s.keyWait r.slice m.tag (hVat e.vat e.keyGen)
      let (new, s) := s.keyWait r.slice m.tag (hVat e.vat (((AL.get e.vat s.vat.vats).map (·.keyGen)).getD e.keyGen))
      if !(old && new) then (false, s) else
      let n := 2 * ceilDiv (512 * e.len - 64) 4096
      let (ran, s) := s.segRun r.slice [0] (.copy m.tag cid) n m.tag true
      (ran, if ran then s.bump (F.DSL_CPH_CNT_SEG_COUNT r.slice) n else s)
    else (true, s)
  | none => (true, s)

/-- A moved chunk is read whole: it is placed unchanged in a destination band of the same shard, or re-encrypted by a
re-dye, which waits while only the reserve is left (R228, R292). -/
def State.movePlace (s : State) (cid : Nat) : State :=
  let e := s.ctbEnt cid
  match AL.get cid s.ftl.moves, s.band e.band with
  | some m, some b =>
    if m.left ≠ 0 ∨ m.stage ≠ 0 ∨ (m.redye ∧ s.shardSpace b.shard < withParity e.len b.d b.p) then s else
      let (ran, s) := s.dyePass m cid e
      if !ran then s else
      let s := if s.shardSpace b.shard = 0 then s.bump F.BND_CNT_RSV_DRAW_COUNT e.len else s
      match s.place 1 cid b.shard (if m.redye then 0 else 2) e.len (fun b => (s.movedEnt m cid b).stored) with
      | (none, s) => s
      | (some _, s) => s.modFtl (fun t => { t with moves := AL.put cid { m with stage := 1 } t.moves })
  | _, _ => s

/-- A range of a moved chunk has come. -/
def State.moveGot (s : State) (cid : Nat) : State :=
  match AL.get cid s.ftl.moves with
  | some m => (s.modFtl (fun t => { t with moves := AL.put cid { m with left := m.left - 1 } t.moves })).movePlace cid
  | none => s

/-- A range of a moved chunk could not be read: it is read once more by reconstruct, and a rebuild that fails leaves the
chunk where it is (R227, R285). -/
def State.moveBad (s : State) (cid : Nat) : State :=
  match AL.get cid s.ftl.moves with
  | none => s
  | some m =>
    if !m.rebuilt then s.moveGo cid true else (s.moveFail cid).victimCheck m.src

/-- A moved chunk's rows are programmed: its relocation record lands (R282 step 4, R283). A chunk that its entry names elsewhere by now
is read again there, and the copy is dead (R226, R284). -/
def State.moveProgrammed (s : State) (cid band offset len : Nat) : State :=
  match AL.get cid s.ftl.moves with
  | none => s.abandon band len
  | some m =>
    let e := s.ctbEnt cid
    if e.band ≠ m.band ∨ e.offset ≠ m.off then (s.abandon band len).moveGo cid false
    else
      let s := s.modFtl (fun t => { t with moves := AL.put cid { m with stage := 2 } t.moves })
      let s := if m.redye then s.bump F.VAT_CNT_REDYE_CHUNKS_COUNT else s
      s.land (.ctb cid { s.movedEnt m cid band with count := 0, band := band, offset := offset }) none

/-- Bands of the shards held go on to what their states ask for: after a recovery or a takeover a relocation restarts from the summary, and
a CLOSED band with nothing pending is sealed (R286, R302). -/
def State.bandsGoOn (s : State) : State :=
  if !s.serving then s else
    s.ftl.bands.foldl (fun s q =>
      if q.2.state = 2 then s.sealCheck q.1
      else if q.2.state = 4 then (s.movesOf q.1).victimCheck q.1
      else if q.2.state = 5 then s.heldCheck q.1
      else s) s

/-- Moves that found no band, or no room on their slice, go on. -/
def State.movesGoOn (s : State) : State :=
  ((s.ftl.moves.filter (fun q => q.2.stage == 0 && q.2.left == 0)).foldl (fun s q => s.movePlace q.1) s).bandsGoOn

/-! ### The re-dye sweep (R224 to R230) -/

/-- Live chunks of a band still to re-dye: of the vat, at the old generation, not yet on the move. -/
def State.oldChunks (s : State) (b : Nat) : List Nat :=
  (s.liveIn b).filter (fun c =>
    let e := s.ctbEnt c
    e.vat == s.get F.VAT_REDYE_STAT_VAT && e.keyGen == s.get F.VAT_REDYE_STAT_FROM_GEN)

/-- Both sweeps have ended (R230): the old key goes, or is kept with `INCOMPLETE`. -/
def State.redyeEnd (s : State) (peerFailed : Nat) : State :=
  let v := s.get F.VAT_REDYE_STAT_VAT
  let s := (s.modVat (fun t => { t with sweepVat := none, peerSweep := none, ownEnded := false })).set F.VAT_REDYE_STAT_ACTIVE 0
  if s.get F.VAT_REDYE_STAT_FAILED = 0 ∧ peerFailed = 0 then
    let s := s.keyRemove (hVat v (s.get F.VAT_REDYE_STAT_FROM_GEN))
    match AL.get v s.vat.vats with
    | some x => (s.setVat v { x with oldLive := false }).set F.VAT_REDYE_STAT_INCOMPLETE 0
    | none => s
  else s.set F.VAT_REDYE_STAT_INCOMPLETE 1

/-- Bands that the sweep has still to pass after a band, in rising identity: those formed since are among them (R225). Past the last of
them it looks where the entries of chunks that it found pinned name by now (R284). -/
def State.sweepAfter (s : State) (b : Nat) : List Nat :=
  match s.sweepBands.filter (fun c => decide (b < c)) with
  | [] => s.sweepBands.filter (fun c => !(s.oldChunks c).all s.vat.sweepBad.contains)
  | l => l

/-- The cursor stands at the next band (R229). -/
def State.sweepTo (s : State) (l : List Nat) : State :=
  (s.modVat (fun t => { t with sweepLeft := l })).setAll [(F.VAT_REDYE_CURSOR_BAND, l.headD (s.get F.VAT_REDYE_CURSOR_BAND)),
    (F.VAT_REDYE_CURSOR_BANDS_LEFT, l.length)]

/-- A sweep that a reset or a takeover cut goes on from the recorded cursor (R229): its registers show it again. -/
def State.sweepResume (s : State) : State :=
  match s.vat.sweepVat.bind (fun v => (AL.get v s.vat.vats).map (fun x => (v, x))) with
  | some (v, x) =>
    if s.get F.VAT_REDYE_STAT_ACTIVE = 0 ∧ !s.vat.ownEnded ∧ x.oldLive ∧ s.serving then
      s.setAll [(F.VAT_REDYE_STAT_ACTIVE, 1), (F.VAT_REDYE_STAT_VAT, v), (F.VAT_REDYE_STAT_FROM_GEN, x.oldGen),
        (F.VAT_REDYE_STAT_TO_GEN, x.keyGen), (F.VAT_REDYE_STAT_FAILED, s.vat.sweepBad.length),
        (F.VAT_REDYE_CURSOR_BAND, s.vat.sweepLeft.headD 0), (F.VAT_REDYE_CURSOR_BANDS_LEFT, s.vat.sweepLeft.length)]
    else s
  | none => s

/-- Chunks the sweep may still begin in this beat: the rate, less those it has begun; none while no band can be formed above the
reserve (R228). -/
def State.sweepRoom (s : State) (sh : Nat) : Nat :=
  if s.canForm sh then s.get F.VAT_REDYE_CFG_RATE - (if s.vat.sweepBeat = s.beat then s.vat.sweepNow else 0) else 0

/-- Chunks of a band begin to move, counted in this beat. -/
def State.sweepBegin (s : State) (b : Nat) (go : List Nat) : State :=
  if go = [] then s else
    (go.foldl (fun (s : State) c => s.startMove c b true) s).modVat (fun t => { t with
      sweepNow := (if t.sweepBeat = s.beat then t.sweepNow else 0) + go.length, sweepBeat := s.beat })

/-- The sweep at a band (R225, R227, R228): chunks that could not be read are left; others begin to move; a band where all that is left
at the old generation could not be read is passed. -/
def State.sweepBand (s : State) (b : Nat) (failed : List Nat) : State :=
  let old := (s.oldChunks b).filter (fun c => !s.ftl.movers.contains c && !s.vat.sweepBad.contains c)
  let s : State := (old.filter failed.contains).foldl (fun (s : State) c => s.redyeFail c) s
  let go := (old.filter (fun c => !failed.contains c)).take (s.sweepRoom (((s.band b).map (·.shard)).getD s.side))
  let s := s.sweepBegin b go
  if (s.oldChunks b).all s.vat.sweepBad.contains then s.sweepTo (s.sweepAfter b) else s

/-- The head's own sweep has passed its last band (R230). -/
def State.sweepOver (s : State) : State :=
  ((s.modVat (fun t => { t with ownEnded := true })).set F.VAT_REDYE_STAT_ACTIVE 0).irq (Slot.VAT + 1) 1

/-- `REDYE_SWEEP_STEP` (R225 to R230): within the load limit and rate, the chunks of the next band start to move; a band with
none left is passed; when the last is passed and the peer's sweep has ended, the re-dye ends. -/
def execRedyeSweepStep (failed : List Nat) (peerEnded : Bool) (peerFailed : Nat) (s : State) : Res :=
  .next (
    let s := s.sweepResume
    if (s.get F.VAT_REDYE_STAT_ACTIVE = 0 ∧ !s.vat.ownEnded) ∨ !s.serving then s else
    let s : State := if peerEnded then s.modVat (fun t => { t with peerSweep := some peerFailed }) else s
    let s : State := match s.vat.sweepLeft with
      | [] => s
      | b :: _ => if !s.loadAtMost (s.get F.VAT_REDYE_CFG_MAX_LOAD_PCT) then s else s.sweepBand b failed
    let s : State := if s.vat.sweepLeft = [] ∧ !s.vat.ownEnded then s.sweepOver else s
    if s.vat.ownEnded then
      if s.mode = .solo then s.redyeEnd 0
      else match s.vat.peerSweep with
        | some f => s.redyeEnd f
        | none => s
    else s)

/-! ### The directory (R256, R258, R259) -/

/-- A write of `FTL_DIR_LOAD` that the bus lets through (R258). -/
def State.dirLoad (s : State) (kind : Nat) (pin snap : Bool) (space leaf : Nat) : State :=
  if s.get F.FTL_DIR_STAT_BUSY = 1 then s.raise Slot.FTL Cond.DIR_LOAD_BUSY
  else
    let sp := if kind = 1 ∧ snap then snapSpace space else space
    (s.modFtl (fun t => { t with loadKey := some (leafKey kind sp leaf, pin) })).set F.FTL_DIR_STAT_BUSY 1

/-- `FTL_DIR_LOAD` (R258). -/
def execFtlDirLoad (m kind : Nat) (pin snap : Bool) (space leaf : Nat) (s : State) : Res :=
  .next (s.busWr m Slot.FTL 0x128 (fun s => s.dirLoad kind pin snap space leaf))

/-- A load of a leaf ends with a result. -/
def State.dirDone (s : State) (r : Nat) : State :=
  ((s.modFtl (fun t => { t with loadKey := none, loadAgain := false })).setAll [(F.FTL_DIR_STAT_BUSY, 0), (F.FTL_DIR_STAT_RESULT, r)]).irq
    Slot.FTL 1

/-- A leaf is in the leaf cache with its pin. -/
def State.leafPut (s : State) (k : Nat) (pin : Bool) : State :=
  s.modFtl (fun t => { t with leaves := AL.upd k {} (fun l => { l with resident := true, pin := pin, useBeat := s.beat }) t.leaves })

/-- `FTL_DIR_LOAD_DONE` (R258, R259): 0 loaded, 1 absent, 2 read failed, 3 invalid. A leaf that fails its `CRC` is read once more by
reconstruct (R260). -/
def execFtlDirLoadDone (readOk : Bool) (s : State) : Res :=
  .next (match s.ftl.loadKey with
    | none => s
    | some (k, pin) =>
      if k / 2 ^ 60 = 0 then s.dirDone 3
      else if s.leafHere k then (s.leafPut k pin).dirDone 0
      else if !s.rootHas k then s.dirDone 1
      else if !readOk then
        (if s.ftl.loadAgain then s.dirDone 2
         else (s.raise Slot.FTL Cond.META_CHECK_FAIL (k % 2 ^ 36)).modFtl (fun t => { t with loadAgain := true }))
      else match s.leafRoom with
        | none => s.dirDone 2
        | some s => ((s.leafPut k pin).bump F.FTL_CNT_DIR_LOAD_COUNT).dirDone 0)

/-! ### Write-back and checkpoints (R267 to R270) -/

/-- A map page that need not be written: every entry has `U` set and no other space resolves through it (R268). -/
def State.emptyPage (s : State) (key : Nat) : Bool := (s.pageAt key).ents.isEmpty && !s.otherNeeds key

/-- A band is under relocation by this head: what metadata lies in it is to be written elsewhere. -/
def State.victim (s : State) (b : Nat) : Bool := ((s.band b).map (fun x => x.state == 4 && s.leaseHeld x.shard)).getD false

/-- The class of band that a metadata page is written to: a clean one moved off a victim goes to a dense band (R280). -/
def State.metaClass (s : State) (dirty : Bool) (b : Nat) : Nat := if !dirty && s.victim b then 3 else 1

/-- Metadata of `n` units lies in a band, in place of another where it had one (R291). -/
def State.metaMoved (s : State) (old : Option Nat) (band n : Nat) : State :=
  let s := match old with
    | some b => s.bandDead b n
    | none => s
  let s := s.modBand band (fun b => { b with pendingPl := b.pendingPl - 1, live := b.live + n })
  match old with
  | some b => (s.sealCheck band).victimCheck b
  | none => s.sealCheck band

/-- The location of a map page is freed (R268). -/
def State.pageFree (s : State) (key : Nat) (g : MetaPage) : State :=
  let s := s.modMeta false key (fun g => { g with dirty := false, onFlash := false, stamp := g.top })
  if g.onFlash then ((s.bandDead g.band 8).leafDirty (metaLeaf false key)).victimCheck g.band else s

/-- A map or chunk-table page: a dirty resident page of this home is copied and placed in a metadata band (R266 to R268), and so is one
whose band is under relocation (log entry 134). -/
def State.pageBack (s : State) (ctb : Bool) (key : Nat) : State :=
  match s.metaPage ctb key with
  | none => s
  | some g =>
    if g.dirty && !g.resident && s.homeOf (metaHome ctb key) then (if g.fetching then s else s.metaFetch ctb key)
    else if !((g.resident && g.dirty || g.onFlash && s.victim g.band) && g.pins == 0 && s.homeOf (metaHome ctb key)) then s
    else if !ctb && s.emptyPage key then s.pageFree key g
    else match s.place (if ctb then 3 else 2) key s.placeShard (if g.onFlash then s.metaClass g.dirty g.band else 1) 8
        (fun _ => s.metaBytes (if ctb then 2 else 1) key) with
      | (none, s) => s
      | (some _, s) => s.modMeta ctb key (fun g => { g with dirty := false, pins := g.pins + 1, stamp := g.top })

/-- A band summary page (R255, R267). -/
def State.sumBack (s : State) (key : Nat) : State :=
  let cls := match AL.get key s.ftl.sumAt with
    | some l => s.metaClass (s.ftl.sums.contains key) l.band
    | none => 1
  if !(s.ftl.sums.contains key || cls == 3) || AL.has key s.ftl.sumCopies || !s.homeOf (key / 2048 % 2) then s
  else match s.place 4 key s.placeShard cls 8 (fun _ => s.metaBytes 3 key) with
    | (none, s) => s
    | (some _, s) => s.modFtl (fun t => { t with sums := t.sums.filter (· != key), sumCopies := AL.put key (AL.getD key 0 t.sumTop) t.sumCopies })

/-- `PAGE_WRITE_BACK` (R266 to R268) of a page of kind 1 map, 2 chunk table or 3 band summary (Table 6.1). -/
def execPageWriteBack (kind key : Nat) (s : State) : Res :=
  .next (if kind = 1 then s.pageBack false key else if kind = 2 then s.pageBack true key else if kind = 3 then s.sumBack key else s)

/-- A summary page's new copy is programmed: its leaf entry names it (R267, Table 6.4). -/
def State.sumWritten (s : State) (key band offset : Nat) : State :=
  let old := (AL.get key s.ftl.sumAt).map (·.band)
  let s := (s.bump F.FTL_CNT_SUM_WB_COUNT).modFtl (fun t => { t with
    sumCopies := AL.del key t.sumCopies, sumAt := AL.put key ⟨band, offset, AL.getD key 0 t.sumCopies⟩ t.sumAt })
  (s.leafDirty (leafKey 3 0 (key / 2048 * 16 + key % 2048 / 128))).metaMoved old band 8

/-- A metadata page's new copy is programmed: its leaf entry names it (R267). -/
def State.pageWritten (s : State) (ctb : Bool) (key band offset : Nat) : State :=
  let old := (s.metaPage ctb key).bind (fun g => if g.onFlash then some g.band else none)
  let s := s.modMeta ctb key (fun g => { g with onFlash := true, band := band, offset := offset, pins := g.pins - 1 })
  let s := s.bump (if ctb then F.FTL_CNT_CTB_WB_COUNT else F.FTL_CNT_MAP_WB_COUNT)
  (s.leafDirty (metaLeaf ctb key)).metaMoved old band 8

/-- The key of page `i` of a leaf, as the page tables have it: of kind 1 or 2 (Table 6.4). -/
def leafPage (k i : Nat) : Bool × Nat :=
  let leaf := k % 2 ^ 36
  let space := k / 2 ^ 36 % 2 ^ 24
  if k / 2 ^ 60 = 2 then (true, (leaf * 128 + i) * 2 + space % 2) else (false, space * 2 ^ 29 + leaf * 128 + i)

/-- A leaf entry (Table 6.5). -/
def State.leafEntry (s : State) (k i : Nat) : Nat :=
  if k / 2 ^ 60 = 3 then
    (let sum := k % 2 ^ 36 / 16 * 2048 + k % 16 * 128 + i
     match AL.get sum s.ftl.sumAt with
     | some l => l.band % 2 ^ 32 * 2 ^ 32 + l.offset % 2 ^ 24 * 2 ^ 8 + 1 + crc32c (numBytes 4096 (s.metaBytes 3 sum)) % 2 ^ 32 * 2 ^ 96
         + l.stamp % 2 ^ 64 * 2 ^ 128
     | none => 0)
  else
    (let (ctb, key) := leafPage k i
     match s.metaPage ctb key with
     | some g =>
       if g.onFlash then
         g.band % 2 ^ 32 * 2 ^ 32 + g.offset % 2 ^ 24 * 2 ^ 8 + 1
           + (crc32c (numBytes 4096 (s.metaBytes (if ctb then 2 else 1) key)) % 2 ^ 32 * 2 ^ 32 + (if ctb then 0 else (s.pageAt key).ownGen % 2 ^ 32)) * 2 ^ 64
           + g.stamp % 2 ^ 64 * 2 ^ 128
       else 0
     | none => 0)

/-- The 4 KiB of a leaf. -/
def State.leafBytes (s : State) (k : Nat) : Nat := (List.range 128).foldl (fun v i => v + s.leafEntry k i * 2 ^ (256 * i)) 0

/-- Step 1 of a checkpoint: a dirty leaf, or one whose band is under relocation, is placed in a metadata band (R269). -/
def State.leafBack (s : State) (k : Nat) (l : Leaf) : State :=
  if l.dirty || l.onFlash && s.victim l.band then
    ((s.place 5 k s.placeShard (if l.onFlash then s.metaClass l.dirty l.band else 1) 8 (fun _ => s.leafBytes k)).2).modFtl (fun t => { t with
      leaves := AL.put k { l with dirty := false } t.leaves })
  else s

/-- Word 0 of a leaf's root entry (Table 6.4). -/
def rootWord (k : Nat) : Nat :=
  let space := k / 2 ^ 36 % 2 ^ 24
  k / 2 ^ 60 * 2 ^ 62 + (if k / 2 ^ 60 = 1 ∧ 65536 ≤ space then 2 ^ 60 + (space - 65536) * 2 ^ 40 else space * 2 ^ 40) + k % 2 ^ 36

/-- The root segment of a new entry: by the CRC-32C of its word 0, or the next that has room for it: 128 entries fill one (Table 6.4). -/
def State.rootSegOf (s : State) (k : Nat) : Nat :=
  let n := max 1 Config.rootSegs
  let h := crc32c (numBytes 8 (rootWord k))
  let gs := (List.range (s.ftl.leaves.length / 128 + 1)).map (fun i => (h + i) % n)
  (gs.find? (fun g => decide (s.ftl.leaves.countP (fun q => q.2.seg == some g) < 128))).getD (h % n)

/-- The map spaces whose resolution passes through a leaf (Table 6.4). -/
def State.leafShare (s : State) (k : Nat) : Nat :=
  let space := k / 2 ^ 36 % 2 ^ 24
  let page := k % 2 ^ 36 * 128
  if k / 2 ^ 60 = 1 then
    ((s.vat.vols.map (·.1)) ++ (s.vat.snaps.map (fun q => snapSpace q.1))).countP (fun sp =>
      (List.range 128).any (fun i => (s.spaceWalk s.spaceDepth sp (page + i)).contains space))
  else 0

/-- A root entry (Table 6.4). -/
def State.rootEntry (s : State) (k : Nat) (l : Leaf) : List Nat :=
  [rootWord k, l.band % 2 ^ 32 * 2 ^ 32 + l.offset % 2 ^ 24 * 2 ^ 8 + 1,
    crc32c (numBytes 4096 (s.leafBytes k)) % 2 ^ 32 * 2 ^ 32 + s.leafShare k % 65536 * 2 ^ 16, 0]

/-- A band's part of the band table: what its kind 4 records give (Table 6.7; log entry 174). -/
def Band.tableWords (b : Nat) (x : Band) : List Nat :=
  [b, x.state * 2 ^ 60 + b2n x.dense * 2 ^ 59 + b2n x.isMeta * 2 ^ 58 + x.shard * 2 ^ 57 + x.d % 64 * 2 ^ 51 + x.p % 4 * 2 ^ 49 + x.rows % 8192 * 2 ^ 36]
    ++ (List.range 14).map (fun i => ((x.members[2 * i]?).map Member.word).getD 0 + ((x.members[2 * i + 1]?).map Member.word).getD 0 * 2 ^ 32)

/-- The 4 KiB of a segment of the root or the band table, by its key. -/
def State.dirSegBytes (s : State) (k : Nat) : Nat :=
  bytesNum (wordBytes (if k % 2 = 0
    then (s.ftl.leaves.filter (fun q => q.2.onFlash && q.2.seg == some (k / 2))).flatMap (fun q => s.rootEntry q.1 q.2)
    else (s.ftl.bands.filter (fun q => bandSeg q.1 == k)).flatMap (fun q => q.2.tableWords q.1)))

/-- A leaf's new copy is programmed: the root names it (R269, Table 6.4). -/
def State.leafWritten (s : State) (k band offset : Nat) : State :=
  let old := (AL.get k s.ftl.leaves).bind (fun l => if l.onFlash then some l.band else none)
  let seg := ((AL.get k s.ftl.leaves).bind (·.seg)).getD (s.rootSegOf k)
  ((s.modFtl (fun t => { t with leaves := AL.upd k {} (fun l =>
    { l with onFlash := true, band := band, offset := offset, seg := some seg }) t.leaves })).segMark (2 * seg) true).metaMoved old band 8

/-- Step 2 of a checkpoint: a segment that has changed, or whose band is under relocation, is placed in a metadata band (R269). -/
def State.segBack (s : State) (k : Nat) : State :=
  let cls := match AL.get k s.ftl.segAt with
    | some l => s.metaClass (s.ftl.segDirty.contains k) l.band
    | none => 1
  if !(s.ftl.segDirty.contains k || cls == 3) then s
  else match s.place 6 k s.placeShard cls 8 (fun _ => s.dirSegBytes k) with
    | (none, s) => s
    | (some _, s) => s.modFtl (fun t => { t with segDirty := t.segDirty.filter (· != k) })

/-- A segment's new copy is programmed: the next checkpoint record names it (R269). -/
def State.segWritten (s : State) (k band offset : Nat) : State :=
  let old := (AL.get k s.ftl.segAt).map (·.band)
  (s.modFtl (fun t => { t with segAt := AL.put k ⟨band, offset, crc32c (numBytes 4096 (s.dirSegBytes k))⟩ t.segAt })).metaMoved old band 8

/-- The replay point: the lowest USEQ whose effect on some home page is not yet on flash (R269). -/
def State.replayPoint (s : State) : Nat :=
  let open0 := s.write.upd.filter (fun q => !q.2.applied || (match q.2.val.target with
    | some (c, k) => s.homeOf (metaHome c k) && (match s.metaPage c k with
      | some g => (g.dirty || decide (0 < g.pins)) && (decide (g.stamp < q.1) || decide (0 < g.pins))
      | none => false)
    | none => false) || (match q.2.val with
    | .ctb c e => s.homeOf (e.band % 2) && s.sumOpen c e
    | _ => false))
  ((open0.head?).map (·.1)).getD (s.beat * 65536)

/-- SYS_PROGRAM of this side's part of a brick's system area with bytes, by the formula's SLC program entry (R296, R328). -/
def State.sysOp (s : State) (k : Nat) (p : Purpose) (bytes : Nat) : MOp :=
  { mtype := 0xA, die := s.side, op := (s.formOp (s.slotOfBrick k) 2 1).getD 0, len := 65536, purpose := p, strip := bytes }

/-- `m` copies of a record go to the system areas of bricks in service, past the first `n` of them by position: which bricks take them is
open (log entry 153). -/
def State.sysCopies (s : State) (n m : Nat) (words : List Nat) : State :=
  ((((List.range 128).filter (fun k => s.get (F.BRK_STAT_STATE k) == 4 && s.linkActive k)).drop n).take m).foldl (fun s k =>
    s.brickSend k (s.sysOp k .sys (bytesNum (wordBytes words)))) s

/-- The two copies of a record go to the system areas of two bricks in service, past the first `n` (R269, R270, R679). -/
def State.sysWrite (s : State) (n : Nat) (words : List Nat) : State := s.sysCopies n 2 words

/-- The shards held, each with its lease epoch. -/
def State.leaseEpochs (s : State) : List (Nat × Nat) := ([0, 1].filter (fun sh => s.leaseHeld sh)).map (fun sh => (sh, s.epochOf sh))

/-- The checkpoint record of this beat (R269). -/
def State.ckptRec (s : State) : Ckpt :=
  { seq := s.get F.FTL_CKPT_STAT_SEQ + 1, beat := s.beat, hid := s.get F.FAB_ID_HID, epochs := s.leaseEpochs, bandUseq := s.ftl.bandTop
    segs := s.ftl.segAt, replay := s.replayPoint }

/-- The words of a checkpoint record: its items in the order of R269. -/
def Ckpt.words (c : Ckpt) : List Nat :=
  [c.seq, c.beat, c.hid] ++ c.epochs.map (fun q => q.1 * 2 ^ 32 + q.2) ++ [c.bandUseq]
    ++ c.segs.flatMap (fun q => [q.1, q.2.band * 2 ^ 32 + q.2.offset, q.2.crc]) ++ [c.replay]

/-- A checkpoint is written as far as its record: the dirty leaves, the dirty segments, then the two copies (R269). -/
def State.ckptBegin (s : State) : State :=
  let s := s.ftl.leaves.foldl (fun s q => s.leafBack q.1 q.2) s
  let s := (s.ftl.segDirty ++ s.ftl.segAt.map (·.1)).foldl (fun (s : State) k => s.segBack k) s
  s.sysWrite 0 s.ckptRec.words

/-- The checkpoint that has been written is in force (R269). -/
def State.ckptTake (s : State) (peerReplay : Nat) : State :=
  let c := s.ckptRec
  (s.modFtl (fun t => { t with ckpt := some c, ckptBeat := s.beat, replayOwn := c.replay, replayPeer := peerReplay, logFullSaid := false })).setAll
    [(F.FTL_CKPT_STAT_SEQ, c.seq), (F.FTL_CKPT_STAT_BEAT, s.beat32)]

/-- Update records below both replay points retire (R270). -/
def State.retireUpdates (s : State) (lim : Nat) : State :=
  s.modWrite (fun w => { w with upd := w.upd.filter (fun q => !(q.2.applied && decide (q.1 < lim))) })

/-- A checkpoint is due: in SOLO after a quarter of `CKPT_BEATS`, or above half of `LOG_PCT` (R269, R530). -/
def State.ckptDue (s : State) : Bool :=
  let q := if s.mode = .solo then (4, 2) else (1, 1)
  decide (q.1 * (s.beat - s.ftl.ckptBeat) ≥ s.get F.FTL_CFG_CKPT_BEATS) || decide (s.get F.FTL_CFG_LOG_PCT * 1572864 < q.2 * s.logOwn * 100)

/-- `CHECKPOINT_WRITE` (R269, R270, R530): dirty leaves, then the record; a write that fails goes to other bricks, and the previous
checkpoint stays in force. -/
def execCheckpointWrite (ok : Bool) (peerReplay : Nat) (s : State) : Res :=
  .next (
    if !s.serving || !s.ckptDue then s else
    let dirty := (s.ftl.leaves.filter (fun q => q.2.dirty)).length
    let s := s.ckptBegin
    if !ok then (s.raise Slot.FTL Cond.CKPT_WRITE_FAIL).sysWrite 2 s.ckptRec.words
    else
      let rp := s.replayPoint
      let s := ((s.ckptTake peerReplay).bump F.FTL_CNT_CKPT_COUNT).bump F.FTL_CNT_LEAF_WB_COUNT dirty
      s.retireUpdates (if s.mode = .paired then min rp peerReplay else rp))

/-- A full log half holds commits and is reported once (R270). -/
def State.logCheck (s : State) : State :=
  let s := s.set F.FTL_STAT_LOG_HOLD (b2n s.logFull)
  if s.logFull ∧ !s.ftl.logFullSaid then
    ((s.modFtl (fun t => { t with logFullSaid := true })).raise Slot.FTL Cond.UPDATE_LOG_FULL).bump F.FTL_CNT_LOG_HOLD_COUNT
  else s

/-- `CHUNK_RELEASE` (R271). -/
def execChunkRelease (cid : Nat) (s : State) : Res :=
  .next (match s.ftl.zeroed.find? (fun q => q.1 == cid) with
    | none => s
    | some (_, t) =>
      let e := s.ctbEnt cid
      let allApplied := s.write.upd.all (fun q => q.2.applied || decide (t ≤ q.2.beat))
      if e.count = 0 ∧ allApplied ∧ !s.ftl.movers.contains cid ∧ (s.mode != .paired || decide (t ≤ s.get F.PRL_PEER_HORIZON_BEAT)) then
        ((s.land (.release cid e.band e.offset e.len) none).modFtl (fun f => { f with zeroed := f.zeroed.filter (fun q => q.1 != cid) })).bump
          F.FTL_CNT_RELEASE_COUNT
      else s)

/-! ### Scan reads (R293) -/

/-- `SCAN_READ` (R293): a strip-page of a SEALED band is scanned; a band past the retention limit is queued at once. -/
def execScanRead (b member row : Nat) (s : State) : Res :=
  .next (match s.band b with
    | none => s
    | some x =>
      if s.get F.FTL_MAINT_CFG_SCAN_EN = 0 ∨ x.state ≠ 3 ∨ !s.leaseHeld x.shard then s else
      match x.members[member]? with
      | none => s
      | some m =>
        let s := ((s.countRead m).bump F.FTL_CNT_SCAN_COUNT).brickSend m.brick { s.memberOp m 4 1 x.dense (.scan b) with spage := row, len := 65536 }
        let lim := bitsOf (s.formWord (s.slotOfBrick m.brick) 5) 0 32 * 2 ^ 24
        if 0 < lim ∧ x.openBeat + lim < s.beat then s.queueReloc b 3 else s)

/-- The outcome of a scan read against the formula's thresholds. -/
def State.scanResult (s : State) (b brick : Nat) (ok : Bool) (corrected retries : Nat) : State :=
  let w := s.formWord (s.slotOfBrick brick) 6
  if !ok || decide (bitsOf w 48 16 < corrected) || decide (bitsOf w 44 4 < retries) then s.queueReloc b 3 else s


/-! ### The vault dump (R297 to R301) -/

/-- Bricks reachable for the dump (R297). -/
def State.dumpBricks (s : State) : List Nat :=
  (List.range 128).filter (fun k => (s.get (F.BRK_STAT_STATE k) == 4 || s.get (F.BRK_STAT_STATE k) == 5) && s.linkActive k)

/-- How many there are. -/
def State.dumpReach (s : State) : Nat := s.dumpBricks.length

/-- Write both header slots of this side's part of the system area, on two of the bricks given and without an epoch (R296, R297, R299). -/
def State.vaultWrite (s : State) (ks words : List Nat) : State :=
  (ks.take 2).foldl (fun s k => s.brickSend k (s.sysOp k (.vault 0) (bytesNum (wordBytes words)))) s

/-- The items of a vault header that its CRC-32C is over (R299). -/
def VaultHdr.words (h : VaultHdr) : List Nat :=
  [h.seq, h.hid * 2 + h.side, h.jgen] ++ h.epochs.map (fun q => q.1 * 2 ^ 32 + q.2) ++ [h.dv] ++ h.rowMap.flatMap (fun q => [q.1, q.2])

/-- A header names a complete dump: its sequence number and CRC-32C match the start marker (R299). -/
def VaultHdr.complete (h : VaultHdr) (mark : Nat) : Bool := h.seq == mark && h.crc == crcWords h.words

/-- The bricks that row `i` of a dump goes to: D_v + 2 of those reachable in position order, from where the row before ended (R297). -/
def vaultRow (ks : List Nat) (dv i : Nat) : List Nat :=
  (List.range (min ks.length (dv + 2))).filterMap (fun j => ks[(i * (dv + 2) + j) % max 1 ks.length]?)

/-- A row of the dump can be placed on D_v + 2 different bricks that have been reachable since its start (R301). -/
def State.rowPlaceable (s : State) : Bool := (vaultRow s.ftl.dumpBricks s.ftl.dumpDv 0).length == s.ftl.dumpDv + 2

/-- Rows of a dump with `dv` data strips to a row: 16 GiB in strips of 64 KiB (R297). -/
def dumpRows (dv : Nat) : Nat := ceilDiv 262144 (max 1 dv)

/-- The vault area has room for a dump's rows and those written again: it holds two dumps (R296, R298; log entry 133). -/
def State.vaultRoom (s : State) (rows again : Nat) : Bool := decide (s.ftl.vaultNext + rows + again ≤ 2 * dumpRows s.ftl.dumpDv)

/-- `EXPECT_BEATS` for n bricks (R300). -/
def expectBeats (n : Nat) : Nat :=
  if n < 10 then 0xFFFFFF
  else
    let dv := min 16 (n - 2)
    let bytes := if 18 ≤ n then 19327352832 else 17179869184 * (dv + 2) / dv
    min 0xFFFFFF (256 + ceilDiv bytes (n * 50000))

/-- A hold-up is set and is too short for a dump, or fewer than 10 bricks are reachable (R300, R301). -/
def State.holdupShort (s : State) : Bool :=
  let h := s.get F.FTL_VAULT_CFG_HOLDUP_BEATS
  decide (0 < h) && (decide (h < expectBeats s.dumpReach) || decide (s.dumpReach < 10))

/-- Report `EXPECT_BEATS`, and a hold-up that has become too short for it, by either figure (R300, R301). -/
def State.holdupCheck (s : State) : State :=
  let t := (s.set F.FTL_VAULT_STAT_EXPECT_BEATS (expectBeats s.dumpReach)).modFtl (fun t => { t with holdupSaid := s.holdupShort })
  if s.holdupShort && !s.ftl.holdupSaid then (t.raise Slot.FTL Cond.VAULT_HOLDUP_SHORT).irq (Slot.FTL + 2) 2 else t

/-- The beat after the dump: D8, D10, D16 and D17 go to OFF and D3 to IDLE (Table 17.11); the slices of D10 are zeroed first (R353), and
BND's queue is lost with D8 (R82). -/
def State.vaultClose (s : State) (phase : Nat) : State :=
  ((((((s.slicesWipe 10).modFtl (fun t => { t with retireQ := [] })).domPut 8 0).domPut 10 0).domPut 16 0).domPut 17 0 |>.domPut 3 2).set F.PWR_VAULT_STAT_PHASE phase

/-- The dump cannot go on: the start marker stands without a header (R298, R301). -/
def State.dumpFail (s : State) : State :=
  ((s.modFtl (fun t => { t with dumpActive := false, dumpFailed := true })).raise Slot.FTL Cond.VAULT_FAILED).vaultClose 5

/-- FTL begins the dump: the start marker with the next sequence number; with fewer than 3 bricks it ends there (R297,
R301). -/
def State.dumpBegin (s : State) : State :=
  let ks := s.dumpBricks
  let n := ks.length
  let seq := s.ftl.dumpSeq + 1
  let s := s.modFtl (fun t => { t with dumpSeq := seq, dumpMark := seq, dumpStart := s.beat, dumpActive := true, dumpBricks := ks, dumpDv := min 16 (n - 2), dumpFailed := false })
  let s := s.vaultWrite ks [seq]
  if n < 3 then s.dumpFail else s

/-- A running dump of which a row can no longer be placed ends (R301). -/
def State.dumpCheck (s : State) : State := if s.ftl.dumpActive && !s.rowPlaceable then s.dumpFail else s

/-- The header of the dump that ends (R299): the rows written first, then those written again at the next free rows (R298). -/
def State.vaultHdr (s : State) (rows rewritten : Nat) : VaultHdr :=
  let h : VaultHdr := {
    seq := s.ftl.dumpSeq, hid := s.get F.FAB_ID_HID, side := s.side, jgen := s.get F.JNL_KEY_STAT_JGEN, epochs := s.leaseEpochs
    dv := s.ftl.dumpDv, rowMap := [(rows, s.ftl.vaultNext), (rewritten, s.ftl.vaultNext + rows)] }
  { h with crc := crcWords h.words }

/-- `VAULT_DUMP_END` (R296 to R301): the header names the rows, the epochs held and the journal generation; the dump is
complete. It fails where a row cannot be placed, or the area has no room left. -/
def execVaultDumpEnd (ok : Bool) (rows rewritten : Nat) (s : State) : Res :=
  .next (if !s.ftl.dumpActive then s else
    let s := (s.bump F.FTL_CNT_VAULT_ROWS_COUNT rows).bump F.FTL_CNT_VAULT_REWRITE_COUNT rewritten
    let s := s.set F.FTL_VAULT_STAT_LAST_BEATS (s.beat - s.ftl.dumpStart)
    if !ok || !s.rowPlaceable || !s.vaultRoom rows rewritten then s.dumpFail
    else
      let h := s.vaultHdr rows rewritten
      let s := s.vaultWrite s.ftl.dumpBricks (h.words ++ [h.crc])
      (s.modFtl (fun t => { t with
        dumpActive := false
        vaultMap := h.rowMap
        vaultNext := t.vaultNext + rows + rewritten
        heldDump := some h
        heldRecs := s.write.recs
        heldUpd := s.write.upd
        heldKeys := (s.sec.handles.filter (fun q => hKind q.1 == 3)).map (fun q => (q.1, q.2.value)) })).vaultClose 3)

/-! ### Recovery (R302, R303) -/

/-- Epochs of a shard that the bricks hold. -/
def State.brickEpoch (s : State) (sh : Nat) : Nat :=
  ((List.range 128).map (fun k => if sh = 0 then s.get (F.BRK_OWN_EPOCH_A k) else s.get (F.BRK_OWN_EPOCH_B k))).foldl max 0

/-- Steps 1 to 5: the dump is judged and loaded. -/
def State.recoverLoad (s : State) : State :=
  let s := (s.modFtl (fun t => { t with recoverBeat := s.beat, liveCountsGood := false })).setAll [(F.FTL_RECOVER_STAT_PHASE, 1), (F.FTL_STAT_RECOVERING, 1)]
  match s.ftl.heldDump with
  | some h =>
    if !h.complete s.ftl.dumpMark then (s.raise Slot.FTL Cond.VAULT_INCOMPLETE).set F.FTL_VAULT_STAT_STATE 2
    else if h.epochs.any (fun q => decide (q.2 < s.brickEpoch q.1)) then
      ((s.raise Slot.FTL Cond.VAULT_OBSOLETE).set F.FTL_VAULT_STAT_STATE 3).modFtl (fun t => { t with heldDump := none, heldRecs := [], heldUpd := [], heldKeys := [] })
    else
      let s := if s.sec.devKeys then
          s.ftl.heldKeys.foldl (fun (s : State) q => if AL.has q.1 s.sec.handles then s else s.keyPut q.1 { value := q.2 }) s
        else s
      ((s.modWrite (fun w => { w with
        recs := s.ftl.heldRecs.foldl (fun m q => if AL.has q.1 m then m else AL.put q.1 q.2 m) w.recs
        upd := s.ftl.heldUpd.foldl (fun m q => if AL.has q.1 m then m else AL.put q.1 q.2 m) w.upd })).set F.FTL_VAULT_STAT_STATE 1).sample 41
        (s.get F.FTL_VAULT_STAT_LAST_BEATS)
  | none =>
    if 0 < s.ftl.dumpMark then (s.raise Slot.FTL Cond.VAULT_INCOMPLETE).set F.FTL_VAULT_STAT_STATE 2
    else s.set F.FTL_VAULT_STAT_STATE 0

/-- Steps 6 to 8: records are replayed in USEQ order, landed data records are discarded, lost ones reported, CLOSED bands
sealed. -/
def State.recoverReplay (s : State) (lost : List Nat) : State :=
  let todo := s.write.upd.filter (fun q => q.2.entered && !q.2.applied)
  let s := todo.foldl (fun s q => ((s.applyRec q.1).applied q.2).bump F.FTL_CNT_REPLAY_COUNT) s
  let s := s.modWrite (fun w => { w with recs := w.recs.filter (fun q => !(q.2.own && q.2.state == 1)) })
  let bad := lost.filter (fun k => ((AL.get k s.write.recs).map (fun j => j.own && j.state == 2)).getD false)
  let s := bad.foldl (fun s k => s.recLost k 2) s
  let s := s.modWrite (fun w => { w with recs := w.recs.map (fun q => if q.2.state == 2 then (q.1, { q.2 with chunked := false, fetchWait := false }) else q), jobs := [] })
  let s := (s.ftl.bands.map (·.1)).foldl (fun s b => (s.modBand b (fun x => { x with pendingPl := 0 })).sealCheck b) s
  s.setAll [(F.FTL_RECOVER_STAT_PHASE, 2), (F.FTL_RECOVER_STAT_DEFERRED, s.get F.FTL_RECOVER_STAT_DEFERRED + bad.length)]

/-- Step 9: a checkpoint, and the dump is consumed. -/
def State.recoverDone (s : State) : State :=
  let s := s.modFtl (fun t => { t with heldDump := none, heldRecs := [], heldUpd := [], heldKeys := [], dumpMark := 0, vaultMap := [], vaultNext := 0 })
  let s := s.zeroScan
  let s := (s.sysWrite 0 s.ckptRec.words).ckptTake s.ftl.replayPeer
  (s.setAll [(F.FTL_RECOVER_STAT_PHASE, 3), (F.FTL_STAT_RECOVERING, 0), (F.FTL_RECOVER_STAT_BEATS, s.beat - s.ftl.recoverBeat)]).irq
    (Slot.FTL + 2) 1

/-- `FTL_RECOVER` (R302): in BOOT, each command takes recovery one phase on (log entry 27). -/
def execFtlRecover (lost : List Nat) (s : State) : Res :=
  .next (if s.mode ≠ .boot then s else
    match s.get F.FTL_RECOVER_STAT_PHASE with
    | 0 => s.recoverLoad
    | 1 => s.recoverReplay lost
    | 2 => s.recoverDone
    | _ => s)

/-- The live units of a band by the chunk table, and its metadata pages by their locations (R291). -/
def State.liveOf (s : State) (b : Nat) : Nat :=
  ((s.read.ctb.filter (fun q => q.2.band == b)).map (fun q => q.2.len)).sum
    + 8 * (s.read.mapPages.countP (fun q => q.2.onFlash && q.2.band == b) + s.read.ctbPages.countP (fun q => q.2.onFlash && q.2.band == b)
      + s.ftl.sumAt.countP (fun q => q.2.band == b) + s.ftl.leaves.countP (fun q => q.2.onFlash && q.2.band == b)
      + s.ftl.segAt.countP (fun q => q.2.band == b))

/-- `LIVE_COUNT_RECOMPUTE` (R303), after recovery. -/
def execLiveCountRecompute (s : State) : Res :=
  .next (if s.get F.FTL_RECOVER_STAT_PHASE ≠ 3 then s else s.modFtl (fun t => { t with bands := AL.mapV (fun b x => { x with live := s.liveOf b }) t.bands, liveCountsGood := true }))

end Sys2Proof.Machine
end

