-- ==== Sys2Proof/Machine/Life.lean ====
section
/-! DEFINITION. Wear, life and the Critical Warning bits (R294, R295, R455). -/

namespace Sys2Proof.Machine

/-- Spares a brick had at format. -/
def State.spareTotal (s : State) (k : Nat) : Nat := ((s.diesOf k).map (fun q => q.2.sparesAtFormat)).sum

/-- Spares of a brick used since. -/
def State.spareUsed (s : State) (k : Nat) : Nat := s.spareTotal k - ((s.diesOf k).map (fun q => q.2.spares)).sum

/-- A brick's spare percentage (R294). -/
def State.sparePct (s : State) (k : Nat) : Nat := min 255 (100 * s.spareUsed k / max 1 (s.spareTotal k))

/-- Erases of a brick's blocks in a mode. -/
def State.erasesOf (s : State) (k : Nat) (dense : Bool) : Nat :=
  (((if dense then s.ftl.wearDense else s.ftl.wearSlc).filter (fun q => q.1 / 2 ^ 25 == k)).map (·.2)).sum

/-- A brick's wear percentage: 100 times the mean over its good blocks of erases over rated cycles, mode by mode (R294). -/
def State.wearPct (s : State) (k : Nat) : Nat :=
  let w := s.formWord (s.slotOfBrick k) 3
  let rd := max 1 (bitsOf w 32 32)
  let rs := max 1 (bitsOf w 0 32)
  let blocks := ((s.diesOf k).map (fun q => q.2.slcTotal + q.2.denseTotal)).sum
  min 255 (100 * (s.erasesOf k true * rs + s.erasesOf k false * rd) / (rd * rs * max 1 blocks))

/-- A brick's life percentage. -/
def State.brickLife (s : State) (k : Nat) : Nat := max (s.wearPct k) (s.sparePct k)

/-- The bricks present. -/
def State.bricksPresent (s : State) : List Nat := (List.range 128).filter (fun k => s.brickPresent k)

/-- The present brick with the largest life percentage. -/
def State.worstBrick (s : State) : Option Nat := maxBy (fun k => s.brickLife k) s.bricksPresent

/-- The head's life percentage (R295). -/
def State.life (s : State) : Nat := ((s.worstBrick).map (fun k => s.brickLife k)).getD 0

/-- The largest wear percentage among the bricks present. -/
def State.lifeWear (s : State) : Nat := (s.bricksPresent.map (fun k => s.wearPct k)).foldl max 0

/-- The largest spare percentage among the bricks present. -/
def State.lifeSpare (s : State) : Nat := (s.bricksPresent.map (fun k => s.sparePct k)).foldl max 0

/-- A brick is `FAILED`. -/
def State.anyBrickFailed (s : State) : Bool := (List.range 128).any (fun k => s.get (F.BRK_STAT_STATE k) == 6)


/-- The Critical Warning bits (R455). -/
def State.criticalWarning (s : State) : Nat :=
  b2n (decide (100 - s.lifeSpare < 10)) + 2 * b2n (s.health.warned.any (fun k => decide (k < 20)))
    + 4 * b2n (s.anyBrickFailed || s.ftl.dies.any (fun q => q.2.failed) || s.ftl.bands.any (fun q => q.2.state == 5))
    + 16 * b2n s.holdupShort

end Sys2Proof.Machine
end

