-- ==== Sys2Proof/Machine/Nvt.lean ====
section
/-! DEFINITION. Chapter 10, NVMe over TCP: connections from their SYN to their end, ICReq, Connects, controllers, teardown and
keep-alive. -/

namespace Sys2Proof.Machine

/-- The NVT page of a unit. -/
def nvtSlot (u p : Nat) : Nat := Slot.NVT + 8 * u + p

/-! ### How connections and controllers end (R436, R437) -/

/-- The commands of a connection end as under R60: entered records stay, everything else ends without completion. -/
def State.connCmdsEnd (s : State) (c : Nat) : State :=
  let mine := s.adm.reqs.filter (fun q => match q.2.origin with | .nvt d _ => d == c | _ => false)
  (mine.foldl (fun (s : State) q => s.dropReq q.1) s).wakeHeld

/-- A waiting Connect of a connection is forgotten and its controller index is free again. -/
def State.connectGone (s : State) (c : Nat) : State :=
  (s.host.slots.filter (fun q => q.2.conn == c)).foldl (fun (s : State) q =>
    (s.modHost (fun h => { h with slots := AL.del q.1 h.slots, connectQ := h.connectQ.filter (· != q.1), ctrls := AL.del q.2.ctrl h.ctrls })).irqIs
      (nvtSlot (q.1 / 64) 1) 1 ((s.host.connectQ.filter (fun k => k != q.1 && k / 64 == q.1 / 64)) != [])) s

/-- A connection's context is free. -/
def State.connFree (s : State) (c : Nat) : State := s.modHost (fun h => { h with conns := AL.del c h.conns })

/-- End a connection: by a reset, or by what the head still sends and a FIN. -/
def State.connShut (s : State) (c : Nat) (rst : Bool) (pre : List TcpOut) : State :=
  match s.conn c with
  | none => s
  | some x =>
    if x.tcp = 4 ∨ (x.nvt = 5 ∧ !rst) then s
    else
      let s := ((s.connCmdsEnd c).connectGone c).bump (F.NVT_CNT_CONN_CLOSED_COUNT (connUnit c))
      if rst then (s.tcpFrame c Tcp.rst x).connFree c
      else
        (s.modConn c (fun x => { x with
          outQ := pre ++ [⟨Tcp.fin, [], 64⟩], r2ts := [], tcp := 3, nvt := 5, active := true, stateBeat := s.beat
          pendBeat := some s.beat })).tcpGo c

/-- A controller whose connections have all closed leaves its index free; the teardown that was ordered is done (R436). -/
def State.ctrlCheck (s : State) (k : Nat) : State :=
  match s.ctrl k with
  | some x =>
    if x.st = 3 ∧ !s.host.conns.any (fun q => connUnit q.1 == k / 1024 && q.2.cntlid == s.cntlid k && q.2.tcp != 4) then
      let s := (s.assocGone (s.cntlid k)).modHost (fun h => { h with ctrls := AL.del k h.ctrls })
      if AL.get (k / 1024) s.host.cmdBusy = some k then
        ((s.modHost (fun h => { h with cmdBusy := AL.del (k / 1024) h.cmdBusy })).setAll
          [(F.NVT_CTRL_CMD_STAT_BUSY (k / 1024), 0), (F.NVT_CTRL_CMD_STAT_RESULT (k / 1024), 1)]).irq (nvtSlot (k / 1024) 1) 2
      else s
    else s
  | none => s

/-- Power-on hours, as the self-test log gives them: K1 cycles of 40 ns. -/
def State.powerHours (s : State) : Nat := s.k1 / 25000000 / 3600

/-- End the self-test with a result (R452, R453): the log keeps the last 20. A read of it that runs ends. -/
def State.selftestEnd (s : State) (result : Nat) : State :=
  match s.host.selftest with
  | some t =>
    let s := match t.read with
      | some r => s.dropReq r
      | none => s
    let e : StResult := ⟨t.code, result, if result = 7 then t.failed else t.segment, t.nsid, s.powerHours⟩
    (s.modHost (fun h => { h with selftest := none, stLog := (e :: h.stLog).take 20 })).setAll
      [(F.NVT_ST_STAT_RUNNING 0, 0), (F.NVT_ST_STAT_RUNNING 1, 0), (F.NVT_ST_STAT_PAUSED 0, 0), (F.NVT_ST_STAT_PAUSED 1, 0)]
  | none => s

/-- Tear a controller down (R436, R453). -/
def State.teardown (s : State) (k : Nat) : State :=
  match s.ctrl k with
  | none => s
  | some x =>
    if x.st = 3 then s
    else
      let id := s.cntlid k
      let s := (s.modCtrl k (fun x => { x with st := 3, aers := [], events := [] })).bump (F.NVT_CNT_TEARDOWN_COUNT (k / 1024))
      let s := s.assocGone id
      let s := if (s.host.selftest.map (fun t => t.cntlid == id)).getD false then s.selftestEnd 2 else s
      let mine := s.host.conns.filter (fun q => connUnit q.1 == k / 1024 && q.2.cntlid == id)
      (mine.foldl (fun (s : State) q => s.connShut q.1 false []) s).ctrlCheck k

/-- The controller of a connection, where it is connected. -/
def State.connCtrl (s : State) (c : Nat) : Option Nat := (s.conn c).bind (fun x => s.ctrlOf x.cntlid)

/-- A connection ends; that of an admin queue takes its controller with it (R436, R437). -/
def State.connEnd (s : State) (c : Nat) (rst : Bool) (pre : List TcpOut) : State :=
  match s.conn c with
  | none => s
  | some x =>
    let s := s.connShut c rst pre
    match s.ctrlOf x.cntlid with
    | some k => if x.nvt = 3 then s.teardown k else s.ctrlCheck k
    | none => s

/-- A C2HTermReq with its Fatal Error Status, and the connection closes (R429, R442). FES codes are those of NVMe/TCP (log
entry 43). -/
def State.termReq (s : State) (c fes : Nat) : State :=
  (s.bump (F.NVT_CNT_TERM_SENT_COUNT (connUnit c))).connEnd c false [⟨3, [fes], 24⟩]

/-- A fatal transport error (R442). -/
def State.transportFatal (s : State) (c fes : Nat) : State :=
  let s := (s.sts c (2 ^ 20) F.NVT_STS_XPORT_ERR_COUNT).raise (nvtSlot (connUnit c) 2) Cond.NVT_TRANSPORT_FATAL c
  s.termReq c fes

/-! ### TCP (R422, R427, R428) -/

/-- A listener of a unit takes a SYN (R428). -/
def State.listener (s : State) (u iface port : Nat) : Option Nat :=
  if s.anaState = 0 ∨ !s.accepts Blk.NVT u then none
  else (List.range 8).find? (fun k => s.get (F.NVT_LISTEN_EN u k) == 1 && s.get (F.NVT_LISTEN_IF u k) == iface
    && s.get (F.NVT_LISTEN_TCP_PORT u k) == port)

/-- The lowest free number below a limit. -/
def freeKey {α : Type} (base n : Nat) (m : List (Nat × α)) : Option Nat :=
  ((List.range (min n (m.length + 1))).map (fun i => base + i)).find? (fun k => !AL.has k m)

/-- `TCP_SYN_RX` (R427, R428): a SYN to an interface of the group takes a context, or is answered with RST. -/
def execTcpSynRx (u iface port mac : Nat) (v6 ecn : Bool) (window : Nat) (s : State) : Res :=
  .next (
    if !s.hfiLive || decide (2 ≤ u) then s else
    match s.iface u iface with
    | none => s
    | some i =>
      if !s.portUp i.port then s else
      let s := s.bump (F.NVT_CNT_SYN_COUNT u)
      match s.listener u iface port with
      | none => s.hfiSend i.port (i.prio (s.get (F.HFI_PRIO_MAP_NVT u))) Tcp.rst [port, mac] 64
      | some l =>
        match freeKey (32768 * u) 32768 s.host.conns with
        | none => (s.bump (F.NVT_CNT_SYN_REFUSED_COUNT u)).hfiSend i.port (i.prio (s.get (F.HFI_PRIO_MAP_NVT u))) Tcp.rst [port, mac] 64
        | some c =>
          let x : TcpConn := {
            tcp := 1, iface := iface, mac := mac, v6 := v6, disc := s.get (F.NVT_LISTEN_DISC u l) == 1
            ecn := ecn && s.get (F.NVT_CFG_ECN_EN u) == 1, stateBeat := s.beat, window := window, cwnd := 10 * i.mss v6 }
          (s.modHost (fun h => { h with conns := AL.put c x h.conns })).tcpSend c Tcp.synAck [] 64)

/-- The window as `n` bytes are acknowledged (RFC 5681); an acknowledgement that ends fast recovery returns it to the threshold, one of
part of it deflates it (RFC 6582). -/
def TcpConn.grow (x : TcpConn) (n mss : Nat) : TcpConn :=
  match x.recover with
  | some r => if r ≤ n then { x with recover := none, cwnd := x.ssthresh } else { x with recover := some (r - n), cwnd := x.cwnd - n + mss }
  | none => { x with cwnd := if x.cwnd < x.ssthresh then x.cwnd + min n mss else x.cwnd + max 1 (mss * mss / max 1 x.cwnd) }

/-- Bytes acknowledged: the round-trip time, the time-out and the congestion window follow (RFC 6298, 5681, 6582; log entry 40). -/
def State.tcpAcked (s : State) (c n : Nat) : State :=
  let mss := ((s.connIface c).map (fun i => i.mss (((s.conn c).map (·.v6)).getD false))).getD 1448
  s.modConn c (fun x =>
    let n := min n x.inFlight
    if n = 0 then x
    else
      let r := s.tb - x.sentNs.getD s.tb
      let left := x.inFlight - n
      let x := if x.srtt = 0 then { x with srtt := r, rttvar := r / 2 } else
        { x with rttvar := (3 * x.rttvar + ((x.srtt : Int) - r).natAbs) / 4, srtt := (7 * x.srtt + r) / 8 }
      { x.grow n mss with
        inFlight := left, retries := 0, dupAcks := 0, cwrLeft := x.cwrLeft - n
        sentNs := if left = 0 then none else some s.tb
        rto := s.rtoOf (connUnit c) x
        rtoBeat := if left = 0 then none else some (s.beat + s.rtoOf (connUnit c) x) })

/-- A frame of a connection leaves at once: its port is up and its priority is not stopped. -/
def State.leavesNow (s : State) (c : Nat) : Bool :=
  ((s.connIface c).map (fun i => s.mayLeave i (s.get (F.HFI_PRIO_MAP_NVT (connUnit c))))).getD false

/-- The oldest segment of a connection goes again; the connection has sent once the frame leaves (R58). -/
def State.tcpAgain (s : State) (c : Nat) : State :=
  match s.conn c with
  | some x =>
    let s := if s.leavesNow c then s.modConn c (fun x => { x with sentBeat := some s.beat }) else s
    (s.tcpFrame c Tcp.again x).bump (F.NVT_CNT_RETRANS_COUNT (connUnit c))
  | none => s

/-- Bytes acknowledged; in fast recovery what is still missing goes again (RFC 6582). -/
def State.tcpAck (s : State) (c n : Nat) : State :=
  let s := s.tcpAcked c n
  if ((s.conn c).bind (·.recover)).isSome then s.tcpAgain c else s

/-- A duplicate acknowledgement: the third makes a fast retransmission and begins fast recovery, in which each further one lets a segment
more leave (RFC 5681, 6582). -/
def State.tcpDup (s : State) (c : Nat) : State :=
  let mss := ((s.connIface c).map (fun i => i.mss (((s.conn c).map (·.v6)).getD false))).getD 1448
  let s := s.modConn c (fun x => { x with dupAcks := x.dupAcks + 1, cwnd := if x.recover.isSome then x.cwnd + mss else x.cwnd })
  if ((s.conn c).map (fun x => x.dupAcks == 3 && decide (0 < x.inFlight) && x.recover.isNone)).getD false then
    (s.modConn c (fun x =>
      let t := max (x.inFlight / 2) (2 * mss)
      { x with ssthresh := t, cwnd := t + 3 * mss, recover := some x.inFlight })).tcpAgain c
  else s

/-- The marks of ECN on a segment from the host (RFC 3168): CE is answered with ECE till CWR comes; ECE halves the window, once for the
bytes in flight. -/
def TcpConn.ecnRx (x : TcpConn) (ce ece cwr : Bool) : TcpConn :=
  if !x.ecn then x
  else
    let x := { x with ece := ce || (x.ece && !cwr) }
    if ece ∧ x.cwrLeft = 0 then { x with ssthresh := x.cwnd / 2, cwnd := x.cwnd / 2, cwr := true, cwrLeft := x.inFlight } else x

/-- The state of a connection after a segment: established by the host's first acknowledgement, closed by its FIN or by the
last acknowledgement of one already closing. -/
def State.tcpState (s : State) (c : Nat) (fin : Bool) : State :=
  match s.conn c with
  | none => s
  | some x =>
    if x.tcp = 1 ∧ !fin then s.modConn c (fun x => { x with tcp := 2, nvt := 1, stateBeat := s.beat })
    else if (x.tcp = 1 ∨ x.tcp = 2) ∧ fin then
      (s.connEnd c false []).modConn c (fun x => { x with active := false })
    else if x.tcp = 3 ∧ x.active ∧ fin then
      let s := s.modConn c (fun x => { x with tcp := 4, nvt := 0, stateBeat := s.beat, outQ := [] })
      match s.ctrlOf x.cntlid with
      | some k => s.ctrlCheck k
      | none => s
    else if x.tcp = 3 ∧ !x.active ∧ x.inFlight = 0 ∧ x.outQ = [] then
      let s := s.connFree c
      match s.ctrlOf x.cntlid with
      | some k => s.ctrlCheck k
      | none => s
    else s

/-- The controller of a connection that has gone looks at its other connections. -/
def State.ctrlDone (s : State) (id : Nat) : State :=
  match s.ctrlOf id with
  | some k => s.ctrlCheck k
  | none => s

/-- `TCP_SEGMENT_RX` (R422, R436): `ack` bytes newly acknowledged, the window advertised, and the flags of the segment. -/
def execTcpSegmentRx (c ack window : Nat) (dup fin rst ce ece cwr : Bool) (s : State) : Res :=
  .next (match s.conn c with
    | none => s
    | some x =>
      if !s.hfiLive then s
      else if rst then (((s.bump (F.NVT_CNT_RST_RX_COUNT (connUnit c))).connEnd c false []).connFree c).ctrlDone x.cntlid
      else
        let s := if ce ∧ x.ecn then s.bump (F.NVT_CNT_ECN_CE_COUNT (connUnit c)) else s
        let s := s.modConn c (fun x => { x with window := window })
        let s := if 0 < ack then s.tcpAck c ack else if dup then s.tcpDup c else s
        ((s.modConn c (fun x => x.ecnRx ce ece cwr)).tcpState c fin).tcpGo c)

/-- `TCP_RETRANSMIT_TIMEOUT` (R422): the oldest segment is sent again with the time-out doubled, or after `RETRIES` the
connection is reset. A connection that may not send waits for R59. -/
def execTcpRetransmitTimeout (c : Nat) (s : State) : Res :=
  .next (match s.conn c, s.connIface c with
    | some x, some i =>
      let u := connUnit c
      let mss := i.mss x.v6
      if x.inFlight = 0 ∨ !(x.rtoBeat.map (fun b => decide (b ≤ s.beat))).getD false ∨ !s.mayLeave i (s.get (F.HFI_PRIO_MAP_NVT u)) then s
      else if s.get (F.NVT_TCP_CFG_RETRIES u) ≤ x.retries then s.connEnd c true []
      else
        let rto := min (1024 * s.get (F.NVT_TCP_CFG_RTO_MAX u)) (2 * x.rto)
        (s.modConn c (fun x => { x with
          retries := x.retries + 1, rto := rto, rtoBeat := some (s.beat + rto), sentNs := none, recover := none
          ssthresh := max (x.inFlight / 2) (2 * mss), cwnd := mss })).tcpAgain c
    | _, _ => s)

/-- `TCP_TIME_WAIT_EXPIRE` (R427). -/
def execTcpTimeWaitExpire (c : Nat) (s : State) : Res :=
  .next (match s.conn c with
    | some x => if x.tcp = 4 ∧ x.stateBeat + 8192 * s.get (F.NVT_TCP_CFG_TIME_WAIT (connUnit c)) ≤ s.beat then s.connFree c else s
    | none => s)

/-! ### ICReq (R429) -/

/-- `NVT_ICREQ_RX` (R429). -/
def execNvtIcreqRx (c pfv hpda : Nat) (hdgst ddgst : Bool) (s : State) : Res :=
  .next (match s.conn c with
    | some x =>
      if x.nvt ≠ 1 then s
      else
        let s := s.bump (F.NVT_CNT_PDU_RX_COUNT (connUnit c))
        if pfv = 0 ∧ hpda ≤ 31 then
          (s.modConn c (fun x => { x with nvt := 2, hdgst := hdgst, ddgst := ddgst, stateBeat := s.beat })).tcpSend c 1
            [0, 0, b2n hdgst + 2 * b2n ddgst, 65536] 128
        else s.termReq c 6
    | none => s)

/-- `NVT_ICREQ_TIMEOUT` (R429). -/
def execNvtIcreqTimeout (c : Nat) (s : State) : Res :=
  .next (match s.conn c with
    | some x =>
      if x.nvt = 1 ∧ x.stateBeat + 1024 * s.get (F.NVT_CFG_ICREQ_TMO (connUnit c)) ≤ s.beat then s.termReq c 6 else s
    | none => s)

/-! ### Connects (R431 to R433) -/

/-- Base of the controller area. -/
def State.ctrlArea (s : State) (u : Nat) : Nat := s.get (F.NVT_CTRL_BASE_BASE u) * 2 ^ 24

/-- The volumes of a controller's attach bitmap: the bits set in its 8 KiB (R434). -/
def State.readAttach (s : State) (k : Nat) : List Nat :=
  let base := s.ctrlArea (k / 1024) + 0x80000 + k % 1024 * 0x2000
  (s.mem.filter (fun q => decide (base ≤ q.1) && decide (q.1 < base + 0x2000))).flatMap (fun q =>
    ((List.range 8).filter (fun b => q.2.toNat.testBit b)).map (fun b => 8 * (q.1 - base) + b))

/-- Connect Controller Busy. -/
def stBusy : Nat := nvmeStatus 1 0x81 false

/-- A Connect ends without a queue. -/
def State.connectRefuse (s : State) (c cid status : Nat) : State :=
  ((s.modConn c (fun x => { x with connectCid := none })).bump (F.NVT_CNT_CONNECT_REFUSED_COUNT (connUnit c))).nvmeResp c cid status 0 0

/-- The controller of an admin queue is live and the Connect completes with its controller ID. -/
def State.connectDone (s : State) (c cid k sqsize : Nat) : State :=
  let id := s.cntlid k
  let s := s.modConn c (fun x => { x with nvt := 3, cntlid := id, qid := 0, sqsize := sqsize, connectCid := none, stateBeat := s.beat })
  let s := s.modCtrl k (fun x => { x with
    st := 2, admin := c, granted := s.get (F.NVT_CFG_MAX_IOQ (k / 1024)), lastBeat := s.beat, evCfg := 0x900 })
  s.nvmeResp c cid 0 id 0

/-- The FUSE and PSDT fields of a command are in order (R426): `flags` is the command's second byte. -/
def flagsOk (flags : Nat) : Bool := flags % 4 == 0 && (flags / 64 % 4 == 1 || flags / 64 % 4 == 2)

/-- A Connect may be taken on a connection: ICReq is done and none is waiting. -/
def TcpConn.mayConnect (x : TcpConn) : Bool := x.tcp == 2 && x.nvt == 2 && x.connectCid.isNone

/-- `NVME_CONNECT_ADMIN` (R431, R433): `data` are the 1,024 bytes of the Connect data. -/
def execNvmeConnectAdmin (c cid flags sqsize kato : Nat) (data : List Nat) (s : State) : Res :=
  .next (match s.conn c with
    | some x =>
      if !x.mayConnect then s else
      let u := connUnit c
      let s := (s.bump (F.NVT_CNT_PDU_RX_COUNT u)).bump (F.NVT_CNT_CONNECT_COUNT u)
      if !flagsOk flags then s.connectRefuse c cid (nvmeStatus 0 0x02 true) else
      let new : Ctrl := {
        st := 1, disc := x.disc, admin := c, kato := kato, lastBeat := s.beat
        hostId := data.take 16, hostNqn := (data.drop 512).take 256 }
      match freeKey (1024 * u) 1024 s.host.ctrls, freeKey (64 * u) 64 s.host.slots with
      | some k, slot =>
        if x.disc then
          (s.modHost (fun h => { h with ctrls := AL.put k new h.ctrls })).connectDone c cid k sqsize
        else match slot with
          | some w =>
            let s := s.modHost (fun h => { h with
              ctrls := AL.put k new h.ctrls, slots := AL.put w { conn := c, ctrl := k, kato := kato, beat := s.beat } h.slots
              connectQ := h.connectQ ++ [w] })
            let s := s.modConn c (fun x => { x with connectCid := some cid, sqsize := sqsize })
            ((s.putBytes (s.ctrlArea u + 0x20000 + w % 64 * 0x400) (data.take 1024)).irq (nvtSlot u 1) 1)
          | none => s.connectRefuse c cid stBusy
      | none, _ => s.connectRefuse c cid stBusy
    | none => s)

/-- I/O queues connected to a controller. -/
def State.ioQueues (s : State) (k : Nat) : List (Nat × TcpConn) :=
  s.host.conns.filter (fun q => connUnit q.1 == k / 1024 && q.2.nvt == 4 && q.2.cntlid == s.cntlid k)

/-- The checks of an I/O queue's Connect, as a status (R432). -/
def State.connectIoStatus (s : State) (c qid sqsize : Nat) (data : List Nat) : Nat :=
  let u := connUnit c
  let id := data.getD 16 0 + 256 * data.getD 17 0
  let bad := nvmeStatus 1 0x82 true
  match s.ctrlOf id with
  | none => bad
  | some k =>
    match s.ctrl k with
    | none => bad
    | some x =>
      if k / 1024 ≠ u ∨ x.st ≠ 2 ∨ x.disc ∨ x.hostId ≠ data.take 16 ∨ x.hostNqn ≠ (data.drop 512).take 256 then bad
      else if qid = 0 ∨ x.granted < qid ∨ (s.ioQueues k).any (fun q => q.2.qid == qid) ∨ 1023 < sqsize then bad
      else if 2048 ≤ (s.host.conns.filter (fun q => connUnit q.1 == u && q.2.nvt == 4)).length then stBusy
      else 0

/-- `NVME_CONNECT_IO` (R432). -/
def execNvmeConnectIo (c cid flags qid sqsize : Nat) (data : List Nat) (s : State) : Res :=
  .next (match s.conn c with
    | some x =>
      if !x.mayConnect then s else
      let u := connUnit c
      let s := (s.bump (F.NVT_CNT_PDU_RX_COUNT u)).bump (F.NVT_CNT_CONNECT_COUNT u)
      let st := if flagsOk flags then s.connectIoStatus c qid sqsize data else nvmeStatus 0 0x02 true
      if st ≠ 0 then s.connectRefuse c cid st
      else
        let id := data.getD 16 0 + 256 * data.getD 17 0
        let s := s.modConn c (fun x => { x with nvt := 4, cntlid := id, qid := qid, sqsize := sqsize, stateBeat := s.beat })
        let s := match s.ctrlOf id with
          | some k => s.modCtrl k (fun x => { x with lastBeat := s.beat })
          | none => s
        s.nvmeResp c cid 0 id 0
    | none => s)

/-- The record of a waiting Connect as `NVT_CONNECT_Q` shows it (Table 10.15). -/
def State.connectWord (s : State) (w : Nat) (x : ConnectSlot) : Nat :=
  2 ^ 63 + x.ctrl % 1024 * 2 ^ 48 + w % 64 * 2 ^ 42 + s.cntlid x.ctrl

/-- The oldest record of `NVT_CONNECT_Q` is answered and removed, and `NVT_CONNECT_INFO` takes its rest. -/
def State.connectQRead (s : State) (u : Nat) : State :=
  match s.host.connectQ.find? (fun w => w / 64 == u) with
  | none => s.answer 0
  | some w =>
    match AL.get w s.host.slots with
    | none => s.answer 0
    | some x =>
      let i := s.conn x.conn
      let s := (s.answer (s.connectWord w x)).setAll [(F.NVT_CONNECT_INFO_IF u, (i.map (·.iface)).getD 0),
        (F.NVT_CONNECT_INFO_V6 u, b2n ((i.map (·.v6)).getD false)), (F.NVT_CONNECT_INFO_KATO u, x.kato)]
      let s := s.modHost (fun h => { h with connectQ := h.connectQ.filter (· != w) })
      s.irqIs (nvtSlot u 1) 1 (s.host.connectQ.any (fun k => k / 64 == u))

/-- `NVT_CONNECT_Q_READ` (R431, Table 10.15). -/
def execNvtConnectQRead (m u : Nat) (s : State) : Res := .next (s.busRd m (nvtSlot u 1) 0x100 (fun s => s.connectQRead u))

/-- A waiting slot is answered: accept, refuse host or refuse busy (R431). -/
def State.connectAnswer (s : State) (u slot action : Nat) : State :=
  let w := 64 * u + slot
  match AL.get w s.host.slots with
  | none => s.raise (nvtSlot u 1) Cond.NVT_CONNECT_MISMATCH slot
  | some x =>
    let s := s.modHost (fun h => { h with slots := AL.del w h.slots, connectQ := h.connectQ.filter (· != w) })
    let s := s.irqIs (nvtSlot u 1) 1 (s.host.connectQ.any (fun k => k / 64 == u))
    let cid := ((s.conn x.conn).bind (·.connectCid)).getD 0
    if action = 1 then
      (s.modCtrl x.ctrl (fun y => { y with attach := s.readAttach x.ctrl })).connectDone x.conn cid x.ctrl (((s.conn x.conn).map (·.sqsize)).getD 0)
    else (s.modHost (fun h => { h with ctrls := AL.del x.ctrl h.ctrls })).connectRefuse x.conn cid
      (if action = 2 then nvmeStatus 1 0x84 true else stBusy)

/-- A master's write of `NVT_CONNECT_ANS`. -/
def connectAnsBus (m u slot action : Nat) (s : State) : Res := .next (s.busWr m (nvtSlot u 1) 0x110 (fun s => s.connectAnswer u slot action))

/-- `NVT_CONNECT_ACCEPT` (R431, R458). -/
def execNvtConnectAccept (m u slot : Nat) (s : State) : Res := connectAnsBus m u slot 1 s

/-- `NVT_CONNECT_REFUSE_HOST` (R431). -/
def execNvtConnectRefuseHost (m u slot : Nat) (s : State) : Res := connectAnsBus m u slot 2 s

/-- `NVT_CONNECT_REFUSE_BUSY` (R431). -/
def execNvtConnectRefuseBusy (m u slot : Nat) (s : State) : Res := connectAnsBus m u slot 3 s

/-- `NVT_CONNECT_TIMEOUT` (R431). -/
def execNvtConnectTimeout (u slot : Nat) (s : State) : Res :=
  .next (match AL.get (64 * u + slot) s.host.slots with
    | some x =>
      if x.beat + 1024 * s.get (F.NVT_CFG_CONNECT_TMO u) ≤ s.beat then
        (s.connectAnswer u slot 3).raise (nvtSlot u 1) Cond.NVT_CONNECT_TIMEOUT slot
      else s
    | none => s)

/-! ### Controllers (R434 to R436) -/

/-- `KEEP_ALIVE_EXPIRED` (R435). -/
def execKeepAliveExpired (k : Nat) (s : State) : Res :=
  .next (match s.ctrl k with
    | some x =>
      if x.st = 2 ∧ x.kato ≠ 0 ∧ x.lastBeat + 125 * x.kato ≤ s.beat then
        ((s.raise (nvtSlot (k / 1024) 1) Cond.KEEP_ALIVE_EXPIRED (s.cntlid k)).bump (F.NVT_CNT_KATO_COUNT (k / 1024))).teardown k
      else s
    | none => s)

/-- `NVT_CTRL_CMD` refused, or its end. -/
def State.ctrlCmdEnd (s : State) (u result : Nat) : State :=
  (s.setAll [(F.NVT_CTRL_CMD_STAT_BUSY u, 0), (F.NVT_CTRL_CMD_STAT_RESULT u, result)]).irq (nvtSlot u 1) 2

/-- Re-read a controller's attach bitmap (R434): the namespaces that changed join its list and an event is queued. -/
def State.attachChanged (s : State) (k : Nat) : State :=
  match s.ctrl k with
  | none => s
  | some x =>
    let new := s.readAttach k
    let diff := (x.attach.filter (fun v => !new.contains v)) ++ (new.filter (fun v => !x.attach.contains v))
    (s.modCtrl k (fun x => { x with attach := new, changed := (x.changed ++ diff).eraseDups })).queueEvent k (2, 0, 4)

/-- A write of `NVT_CTRL_CMD` that the bus lets through (R458). -/
def State.ctrlCmd (s : State) (u op idx : Nat) : State :=
  let k := 1024 * u + idx
  if s.get (F.NVT_CTRL_CMD_STAT_BUSY u) = 1 then s.raise (nvtSlot u 1) Cond.NVT_CTRL_CMD_BUSY idx
  else match s.ctrl k with
    | some x =>
      if x.st ≠ 2 then s.ctrlCmdEnd u 2
      else if op = 1 then
        ((s.modHost (fun h => { h with cmdBusy := AL.put u k h.cmdBusy })).setAll
          [(F.NVT_CTRL_CMD_STAT_BUSY u, 1), (F.NVT_CTRL_CMD_STAT_RESULT u, 0)]).teardown k
      else if op = 2 then (s.attachChanged k).ctrlCmdEnd u 1
      else s.ctrlCmdEnd u 2
    | none => s.ctrlCmdEnd u 2

/-- `NVT_CTRL_TEARDOWN` (R436). -/
def execNvtCtrlTeardown (m u idx : Nat) (s : State) : Res := .next (s.busWr m (nvtSlot u 1) 0x128 (fun s => s.ctrlCmd u 1 idx))

/-- `NVT_ATTACH_CHANGED` (R434). -/
def execNvtAttachChanged (m u idx : Nat) (s : State) : Res := .next (s.busWr m (nvtSlot u 1) 0x128 (fun s => s.ctrlCmd u 2 idx))

end Sys2Proof.Machine
end

