-- ==== Sys2Proof/Machine/Pfx.lean ====
section
/-! DEFINITION. Chapter 3, load profiles: recording, loading and replaying them. -/

namespace Sys2Proof.Machine

/-! ### Recording (R151 to R154) -/

/-- A write of `PFX_REC_CTL` that the bus lets through: one with `ARM` 0 ends a recording and stores no other field (log entry 130). -/
def State.pfxRecWrite (s : State) (arm filter : Bool) (profile vol window : Nat) : State :=
  if arm then
    if s.recState = 1 ∨ s.recState = 2 then s.raise Slot.PFX Cond.PFX_RECORD_BUSY
    else if AL.has profile s.read.loaded then s.raise Slot.PFX Cond.PFX_PROFILE_BUSY
    else if window = 0 ∨ (s.liveVol vol).isNone then s.raise Slot.PFX Cond.PFX_RECORD_INVALID
    else (s.setAll [(F.PFX_REC_CTL_ARM, 1), (F.PFX_REC_CTL_FILTER, b2n filter), (F.PFX_REC_CTL_PROFILE, profile), (F.PFX_REC_CTL_VOLUME, vol),
        (F.PFX_REC_CTL_WINDOW, window), (F.PFX_REC_STAT_STATE, 1), (F.PFX_REC_STAT_EXTENTS, 0), (F.PFX_REC_STAT_TRIG_BEAT, 0)]).modRead
        (fun r => { r with recExtents := [], recTrigLba := 0, recTrigLen := 0, recTrigBeat := 0 })
  else s.recEnd 2

/-- `PFX_REC_ARM` (R151). -/
def execPfxRecArm (m profile vol window : Nat) (filter : Bool) (s : State) : Res :=
  .next (s.busWr m Slot.PFX 0x118 (fun s => s.pfxRecWrite true filter profile vol window))

/-- `PFX_REC_DISARM` (R154). -/
def execPfxRecDisarm (m : Nat) (s : State) : Res :=
  .next (s.busWr m Slot.PFX 0x118 (fun s => s.pfxRecWrite false false 0 0 0))

/-- The window of a recording has closed (R153). -/
def State.recClosed (s : State) : Bool :=
  s.recState == 2 && decide (s.read.recTrigBeat + s.get F.PFX_REC_CTL_WINDOW * 16384 < s.beat)

/-- `PFX_RECORD_WINDOW_END` (R154). -/
def execPfxRecordWindowEnd (s : State) : Res := .next (if s.recClosed then s.recEnd 0 else s)

/-- Consecutive extents for a range, at most 1,024 blocks each (R153). -/
def cutExtents (delay : Nat) : Nat → Nat → Nat → List Extent
  | 0, _, _ => []
  | n + 1, lba, len => if len = 0 then [] else ⟨delay, min len 1024 - 1, lba⟩ :: cutExtents delay n (lba + 1024) (len - 1024)

/-- Add a matching read to the recording (R153): it lengthens the last extent, or adds extents. -/
def State.recAdd (s : State) (lba len : Nat) : State :=
  let d := (s.beat - s.read.recTrigBeat) / 64
  let es : List Extent := match s.read.recExtents with
    | e :: t => if e.lba + e.lenM1 + 1 = lba ∧ e.lenM1 + 1 + len ≤ 1024 then { e with lenM1 := e.lenM1 + len } :: t
        else (cutExtents d (len / 1024 + 1) lba len).reverse ++ e :: t
    | [] => (cutExtents d (len / 1024 + 1) lba len).reverse
  let es := es.drop (es.length - 8192)
  let s := (s.modRead (fun r => { r with recExtents := es })).set F.PFX_REC_STAT_EXTENTS es.length
  if 8192 ≤ es.length then s.recEnd 1 else s

/-- A complete read as the recording sees it (R152, R153). -/
def State.recRead (s : State) (r : Req) : State :=
  if r.vol = s.get F.PFX_REC_CTL_VOLUME ∧ (s.get F.PFX_REC_CTL_FILTER = 0 ∨ r.assoc = s.get F.PFX_REC_CONN_ASSOC) then
    if s.recState = 1 then
      (s.modRead (fun x => { x with recTrigLba := r.lba, recTrigLen := min r.blocks 1024, recTrigBeat := s.beat })).setAll
        [(F.PFX_REC_STAT_STATE, 2), (F.PFX_REC_STAT_TRIG_BEAT, s.beat32)]
    else if s.recState = 2 ∧ !s.recClosed then s.recAdd r.lba r.blocks
    else s
  else s

/-! ### Loading (R155 to R158) -/

/-- A write of `PFX_LOAD` that the bus lets through. -/
def State.pfxLoadWrite (s : State) (op profile : Nat) : State :=
  if s.get F.PFX_LOAD_STAT_BUSY = 1 then s.raise Slot.PFX Cond.PFX_LOAD_BUSY
  else if op = 1 ∨ op = 2 then
    (s.modRead (fun r => { r with loadOp := some (op, profile) })).setAll [(F.PFX_LOAD_STAT_BUSY, 1), (F.PFX_LOAD_STAT_PROFILE, profile)]
  else s

/-- `PFX_LOAD` (R155, R157). -/
def execPfxLoad (m profile : Nat) (s : State) : Res := .next (s.busWr m Slot.PFX 0x130 (fun s => s.pfxLoadWrite 1 profile))

/-- `PFX_UNLOAD` (R156, R157). -/
def execPfxUnload (m profile : Nat) (s : State) : Res := .next (s.busWr m Slot.PFX 0x130 (fun s => s.pfxLoadWrite 2 profile))

/-- The profile in HBM, where it passes the checks of R155. -/
def State.pfxGood (s : State) (p : Nat) : Option Profile :=
  let w (i : Nat) : Nat := Mem.rdLE (s.pfxHdr p + 8 * i) 8 s.mem
  let n := bitsOf (w 0) 0 14
  let vol := bitsOf (w 0) 32 16
  let lba := bitsOf (w 1) 0 38
  let len := bitsOf (w 1) 38 10 + 1
  let es := (List.range (min n 8192)).map (fun e => Mem.rdLE (s.pfxExt p e) 8 s.mem)
  match s.liveVol vol with
  | none => none
  | some v =>
    if bitsOf (w 0) 60 4 = 1 ∧ n ≤ 8192 ∧ bitsOf (w 3) 0 32 = crcWords ([w 0, w 1, w 2] ++ es) ∧ lba + len ≤ v.sizeM1 + 1 then
      some ⟨vol, lba, len, n, none⟩
    else none

/-- Two block ranges overlap. -/
def overlap (a n b m : Nat) : Bool := decide (a < b + m) && decide (b < a + n)

/-- The result of an operation on `PFX_LOAD` (R157). -/
def State.pfxResult (s : State) (r : Nat) : State :=
  ((s.modRead (fun x => { x with loadOp := none })).setAll [(F.PFX_LOAD_STAT_BUSY, 0), (F.PFX_LOAD_STAT_RESULT, r),
    (F.PFX_LOAD_STAT_LOADED, s.read.loaded.length)]).irq Slot.PFX 2

/-- `PFX_LOAD_DONE` (R155 to R157): the checks of a load decide its result; an unload stops its replay. -/
def execPfxLoadDone (s : State) : Res :=
  .next (match s.read.loadOp with
    | none => s
    | some (op, p) =>
      if op = 2 then
        (s.modRead (fun r => { r with loaded := AL.del p r.loaded, replays := r.replays.filter (fun x => x.profile != p) })).pfxResult 1
      else match s.pfxGood p with
        | none => (s.raise Slot.PFX Cond.PFX_PROFILE_INVALID p).pfxResult 2
        | some f =>
          if s.read.loaded.any (fun q => q.1 != p && q.2.vol == f.vol && overlap q.2.trigLba q.2.trigLen f.trigLba f.trigLen) then
            (s.raise Slot.PFX Cond.PFX_TRIGGER_OVERLAP p).pfxResult 3
          else (s.modRead (fun r => { r with loaded := AL.put p f r.loaded })).pfxResult 0)

/-! ### Triggers and replays (R159 to R162) -/

/-- Trigger a profile, or count why not (R159). -/
def State.trigger (s : State) (p : Nat) (f : Profile) : State :=
  let early := match f.lastTrig with
    | some b => decide (s.beat - b < s.get F.PFX_CFG_REARM * 1024)
    | none => false
  if early || decide (256 ≤ s.read.replays.length) then s.bump F.PFX_CNT_TRIG_DROP_COUNT
  else (s.modRead (fun r => { r with
    loaded := AL.put p { f with lastTrig := some s.beat } r.loaded
    replays := r.replays ++ (if f.extents = 0 then [] else [⟨p, s.beat, List.range f.extents⟩]) })).bump F.PFX_CNT_TRIG_COUNT

/-- What PFX does when a read is complete: recording, and the profiles it triggers. `pfxName` is 0 for the trigger ranges, 1
for none, 2 + p for profile p alone (R496). -/
def State.pfxRead (s : State) (r : Req) : State :=
  if !(s.unit (unitKey Blk.PFX 0)).enable then s else
  let s := s.recRead r
  if r.pfxName = 1 then s
  else if r.pfxName = 0 then
    (s.read.loaded.filter (fun q => q.2.vol == r.vol && overlap q.2.trigLba q.2.trigLen r.lba r.blocks)).foldl (fun s q => s.trigger q.1 q.2) s
  else match AL.get (r.pfxName - 2) s.read.loaded with
    | some f => if f.vol = r.vol then s.trigger (r.pfxName - 2) f else s.bump F.PFX_CNT_TRIG_DROP_COUNT
    | none => s.bump F.PFX_CNT_TRIG_DROP_COUNT

/-- An extent record of a profile (R158). -/
def State.extentAt (s : State) (p e : Nat) : Extent := Extent.ofWord (Mem.rdLE (s.pfxExt p e) 8 s.mem)

/-- The place of a replay's next extent: of those left the one due first, the lower place among equals (R160). -/
def State.nextPlace (s : State) (x : Replay) : Nat := (minBy (fun e => (s.extentAt x.profile e).delay) x.left).getD 0

/-- The next extent of a replay. -/
def State.nextExtent (s : State) (x : Replay) : Extent := s.extentAt x.profile (s.nextPlace x)

/-- The beat an extent is due, and the beat by which it is skipped. -/
def State.dueBeat (s : State) (x : Replay) : Nat := x.trigBeat + 64 * (s.nextExtent x).delay - s.get F.PFX_CFG_LEAD

/-- A replay moves past its extent; one with none left ends. -/
def State.replayNext (s : State) (i : Nat) : State :=
  s.modRead (fun r => { r with replays := ((r.replays.zipIdx).filterMap (fun (q : Replay × Nat) =>
    if q.2 = i then
      (let l := q.1.left.filter (· != s.nextPlace q.1)
       if l = [] then none else some { q.1 with left := l })
    else some q.1)) })

/-- The name that the requests of one issued extent share. -/
def State.extentName (s : State) (x : Replay) : Nat := (x.trigBeat * 4096 + x.profile) * 8192 + s.nextPlace x + 2

/-- Resolve an issued extent: chunks not in the read cache are asked for as class A, a part of 64 blocks at a time; a case that would go
to the slow path drops them all (R162). -/
def State.prefetch (s : State) (name vol lba n : Nat) : State :=
  (List.range (ceilDiv n 64)).foldl (fun (acc : Bool × State) i =>
    let (go, s) := acc
    if !go then acc else
      let r : Req := { tag := 0, kind := .prefetch, origin := .prefetch, vol := vol, lba := lba + 64 * i, blocks := min 64 (n - 64 * i), cls := 6, pfxName := name }
      let (t, s) := s.newReq r true
      let s := s.resolve t []
      ((s.req t).isSome, s)) (true, s) |>.2

/-- What is left of a prefetch once resolved: chunks already cached are marked, other sources are passed over, and of the requests of one
extent only the first to resolve a chunk takes it. -/
def State.prefetchTrim (s : State) (tag : Nat) : State :=
  match s.req tag with
  | none => s
  | some r =>
    if r.kind = .prefetch ∧ r.stage = .waiting then
      let cs := (srcChunks r.sources).filter (fun c => !s.read.pfxTaken.any (fun q => q.1 == r.pfxName && q.2.1 == c && q.2.2 != tag))
      let held := cs.filter (fun c => AL.has c s.read.rch)
      let live (q : Nat × Nat × Nat) : Bool := q.2.2 != tag && s.adm.reqs.any (fun x => x.2.kind == .prefetch && x.2.pfxName == q.1)
      let s := s.modRead (fun x => { x with
        rch := held.foldl (fun m c => AL.upd c { units := 0 } (fun e => { e with refBit := true }) m) x.rch
        pfxTaken := x.pfxTaken.filter live ++ cs.map (fun c => (r.pfxName, c, tag)) })
      let s := s.bump F.PFX_CNT_SKIP_COUNT held.length
      let stays (x : Source) : Bool := match x with | .chunk c => cs.contains c && !held.contains c | _ => false
      let left := r.sources.filter (fun q => stays q.2)
      if left = [] then s.dropReq tag
      else (s.unpin r (r.sources.filter (fun q => !stays q.2))).modReq tag (fun r => { r with sources := left })
    else s

/-- The issue limits of R160. -/
def State.pfxMayIssue (s : State) : Bool :=
  (s.read.issuedBeat != s.beat || decide (s.read.issuedNow < s.get F.PFX_CFG_ISSUE_MAX))
    && s.loadAtMost (s.get F.PFX_CFG_MAX_LOAD_PCT)
    && decide (s.rchPfx * 100 ≤ s.get F.RCH_CFG_PFX_SHARE_PCT * s.rchCap)

/-- `PFX_EXTENT_DUE` (R160): the extent of a replay is issued when it is due before every other and within the limits. -/
def execPfxExtentDue (replay : Nat) (s : State) : Res :=
  .next (match s.read.replays[replay]? with
    | none => s
    | some x =>
      let d := s.dueBeat x
      if d ≤ s.beat ∧ s.beat < x.trigBeat + 64 * (s.nextExtent x).delay ∧ s.pfxMayIssue
          ∧ s.read.replays.all (fun y => decide (d ≤ s.dueBeat y)) then
        match AL.get x.profile s.read.loaded with
        | none => s
        | some f =>
          let e := s.nextExtent x
          let s := (s.bump F.PFX_CNT_ISSUED_COUNT).modRead (fun r => { r with
            issuedNow := if r.issuedBeat = s.beat then r.issuedNow + 1 else 1, issuedBeat := s.beat })
          let s := (s.prefetch (s.extentName x) f.vol e.lba (e.lenM1 + 1)).replayNext replay
          (s.adm.reqs.map (·.1)).foldl (fun s t => s.prefetchTrim t) s
      else s)

/-- `PFX_EXTENT_SKIP` (R161). -/
def execPfxExtentSkip (replay : Nat) (s : State) : Res :=
  .next (match s.read.replays[replay]? with
    | none => s
    | some x =>
      if x.trigBeat + 64 * (s.nextExtent x).delay ≤ s.beat then (s.bump F.PFX_CNT_SKIP_COUNT).replayNext replay else s)

end Sys2Proof.Machine
end

