-- ==== Sys2Proof/Machine/Nvme.lean ====
section
/-! DEFINITION. Chapter 10, NVMe commands: admin commands, I/O commands, data from the host, Abort and the self-test. -/

namespace Sys2Proof.Machine

/-! ### Taking a command (R426, R435, R44) -/

/-- Invalid Command Opcode. -/
def stOpcode : Nat := nvmeStatus 0 0x01 true

/-- Invalid Field in Command. -/
def stField : Nat := nvmeStatus 0 0x02 true

/-- Invalid Namespace or Format. -/
def stNs : Nat := nvmeStatus 0 0x0B true

/-- A command capsule on a connected queue: the submission queue head moves on and the keep-alive timer restarts. The engines
take none while ADM is full (R44), nor a quiescing one (R73). -/
def State.nvmeTake (s : State) (c vol : Nat) (f : State → Nat → TcpConn → Ctrl → State) : State :=
  match s.conn c, s.connCtrl c with
  | some x, some k =>
    match s.ctrl k with
    | some y =>
      if x.tcp ≠ 2 ∨ !(x.nvt == 3 || x.nvt == 4) ∨ y.st ≠ 2 ∨ s.admFull ∨ !s.hfiLive ∨ (s.unit (unitKey Blk.NVT (connUnit c))).quiesce then s
      else
        let s := (s.bump (F.NVT_CNT_PDU_RX_COUNT (connUnit c))).modConn c (fun x => { x with sqhd := (x.sqhd + 1) % (x.sqsize + 1) })
        let s := (s.modCtrl k (fun y => { y with lastBeat := s.beat })).sts c vol F.NVT_STS_CMDS_COUNT
        f s k x y
    | none => s
  | _, _ => s

/-- An admin command: on an admin queue only, its FUSE and PSDT in order; a discovery controller serves few (R426, R433). -/
def State.nvmeAdmin (s : State) (c cid flags : Nat) (disc : Bool) (f : State → Nat → Ctrl → State) : State :=
  s.nvmeTake c (2 ^ 20) (fun s k x y =>
    if x.nvt ≠ 3 ∨ (y.disc ∧ !disc) then s.nvmeResp c cid stOpcode 0 0
    else
      let s := s.bump (F.NVT_CNT_ADMIN_COUNT (connUnit c))
      if !flagsOk flags then s.nvmeResp c cid stField 0 0 else f s k y)

/-! ### Identify (Table 10.5) -/

/-- A structure of `n` bytes: stated fields (offset, bytes), and what the head reports elsewhere. -/
def report (page n : Nat) (fs : List (Nat × List Nat)) : List Nat :=
  (List.range n).map (fun i =>
    match fs.find? (fun f => decide (f.1 ≤ i) && decide (i < f.1 + f.2.length)) with
    | some f => f.2.getD (i - f.1) 0
    | none => (Config.reported page i).toNat)

/-- Identify Controller (Table 10.5). Byte offsets are those of NVM Express (log entry 44). -/
def State.identifyCtrl (s : State) (k : Nat) : List Nat :=
  report 1 4096
    [(76, [0x0A]), (77, [8]), (78, leNat 2 (s.cntlid k)), (80, leNat 4 0x20000), (96, leNat 4 64), (256, leNat 2 0x10), (258, [3, 7]),
     (261, [4]), (316, leNat 2 (max 1 ((Config.reported 1 316).toNat + 256 * (Config.reported 1 317).toNat))), (318, [0]), (320, leNat 2 1),
     (342, [3]), (343, [0x15]), (344, leNat 4 2), (348, leNat 4 2), (512, [0x66, 0x44]), (514, leNat 2 1024), (516, leNat 4 65536),
     (520, leNat 2 0x0C), (525, [0]), (526, leNat 2 0), (528, leNat 2 0), (768, s.bytesAt (s.ctrlArea (k / 1024)) 256),
     (1792, leNat 4 516), (1796, leNat 4 1), (1800, leNat 2 0)]

/-- The NGUID of a volume (Table 10.5). -/
def State.nguid (s : State) (vol : Nat) : List Nat := beBytes 8 s.pair.arrayId ++ beBytes 2 vol ++ List.replicate 6 0

/-- Identify Namespace (Table 10.5). -/
def State.identifyNs (s : State) (vol : Nat) : List Nat :=
  let n := ((s.liveVol vol).map (fun v => v.sizeM1 + 1)).getD 0
  report 0 4096
    [(0, leNat 8 n), (8, leNat 8 n), (16, leNat 8 n), (25, [0]), (26, [0]), (30, [1]), (33, [1]), (92, leNat 4 (1 + s.side)),
     (104, s.nguid vol), (128, leNat 4 (12 * 65536))]

/-- The namespaces attached to a controller whose volume exists, by volume. -/
def State.activeNs (s : State) (y : Ctrl) : List Nat := sortBy id (y.attach.filter (fun v => (s.liveVol v).isSome))

/-- Fill to a length with zeros. -/
def padTo (n : Nat) (l : List Nat) : List Nat := l.take n ++ List.replicate (n - l.length) 0

/-- `NVME_IDENTIFY` (Table 10.5): CNS 0 a namespace, 1 the controller, 2 the active namespaces above `nsid`, 3 the
identification of a namespace; any other is an invalid field. -/
def execNvmeIdentify (c cid flags nsid cns : Nat) (s : State) : Res :=
  .next (s.nvmeAdmin c cid flags true (fun s k y =>
    let here := (s.activeNs y).contains (nsid - 1) && nsid != 0
    if cns = 1 then s.nvmeData c cid (s.identifyCtrl k)
    else if y.disc then s.nvmeResp c cid stField 0 0
    else if cns = 0 then s.nvmeData c cid (if here then s.identifyNs (nsid - 1) else List.replicate 4096 0)
    else if cns = 2 then
      s.nvmeData c cid (padTo 4096 (((s.activeNs y).filter (fun v => decide (nsid < v + 1))).flatMap (fun v => leNat 4 (v + 1))))
    else if cns = 3 ∧ here then s.nvmeData c cid (padTo 4096 ([2, 16, 0, 0] ++ s.nguid (nsid - 1)))
    else s.nvmeResp c cid (if cns = 3 then stNs else stField) 0 0))

/-! ### Features, properties, keep-alive, events -/

/-- `NVME_GET_FEATURES` (R426): 7 Number of Queues, 0xB Asynchronous Event Configuration, 0xF Keep Alive Timer. -/
def execNvmeGetFeatures (c cid flags fid : Nat) (s : State) : Res :=
  .next (s.nvmeAdmin c cid flags false (fun s _ y =>
    if fid = 7 then s.nvmeResp c cid 0 ((y.granted - 1) * 65537) 0
    else if fid = 0x0B then s.nvmeResp c cid 0 y.evCfg 0
    else if fid = 0x0F then s.nvmeResp c cid 0 y.kato 0
    else s.nvmeResp c cid stField 0 0))

/-- `NVME_SET_FEATURES` (R426, R427): queues are granted up to `MAX_IOQ`. -/
def execNvmeSetFeatures (c cid flags fid v : Nat) (s : State) : Res :=
  .next (s.nvmeAdmin c cid flags false (fun s k y =>
    if fid = 7 then
      let g := min (s.get (F.NVT_CFG_MAX_IOQ (connUnit c))) (max (v % 65536) (v / 65536 % 65536) + 1)
      (s.modCtrl k (fun y => { y with granted := g })).nvmeResp c cid 0 ((g - 1) * 65537) 0
    else if fid = 0x0B then ((s.modCtrl k (fun y => { y with evCfg := v })).nvmeResp c cid 0 0 0).eventGo k
    else if fid = 0x0F then (s.modCtrl k (fun y => { y with kato := v })).nvmeResp c cid 0 0 0
    else s.nvmeResp c cid stField 0 0))

/-- `NVME_KEEP_ALIVE` (R435): any command restarts the timer. -/
def execNvmeKeepAlive (c cid flags : Nat) (s : State) : Res :=
  .next (s.nvmeAdmin c cid flags true (fun s _ _ => s.nvmeResp c cid 0 0 0))

/-- `NVME_ASYNC_EVENT_REQUEST` (R448): it waits for an event; one beyond AERL + 1 ends with Asynchronous Event Request Limit
Exceeded (log entry 45). -/
def execNvmeAsyncEventRequest (c cid flags : Nat) (s : State) : Res :=
  .next (s.nvmeAdmin c cid flags false (fun s k y =>
    if 8 ≤ y.aers.length then s.nvmeResp c cid (nvmeStatus 1 0x05 false) 0 0
    else (s.modCtrl k (fun y => { y with aers := y.aers ++ [cid] })).eventGo k))

/-- The capabilities property: MQES 1,023, contiguous queues, the NVM command set (log entry 44). -/
def capProperty : Nat := 1023 + 2 ^ 16 + (Config.reported 0x200 3).toNat * 2 ^ 24 + 2 ^ 37

/-- `NVME_PROPERTY_GET` (R426): CAP at 0x0, VS at 0x8, CC at 0x14, CSTS at 0x1C. -/
def execNvmePropertyGet (c cid flags ofs : Nat) (s : State) : Res :=
  .next (s.nvmeAdmin c cid flags true (fun s _ y =>
    if ofs = 0 then s.nvmeResp c cid 0 (capProperty % 2 ^ 32) (capProperty / 2 ^ 32)
    else if ofs = 8 then s.nvmeResp c cid 0 0x20000 0
    else if ofs = 0x14 then s.nvmeResp c cid 0 y.cc 0
    else if ofs = 0x1C then s.nvmeResp c cid 0 (y.cc % 2 + (if bitsOf y.cc 14 2 = 0 then 0 else 8)) 0
    else s.nvmeResp c cid stField 0 0))

/-- `NVME_PROPERTY_SET` (R426): CC. -/
def execNvmePropertySet (c cid flags ofs v : Nat) (s : State) : Res :=
  .next (s.nvmeAdmin c cid flags true (fun s k _ =>
    if ofs = 0x14 then (s.modCtrl k (fun y => { y with cc := v % 2 ^ 32 })).nvmeResp c cid 0 0 0
    else s.nvmeResp c cid stField 0 0))

/-- `NVME_DISCONNECT` (R436): the command completes and the queue's connection ends; a discovery controller does not serve it (R433). -/
def execNvmeDisconnect (c cid flags : Nat) (s : State) : Res :=
  .next (s.nvmeTake c (2 ^ 20) (fun s _ x y =>
    if y.disc then s.nvmeResp c cid stOpcode 0 0
    else if !flagsOk flags then s.nvmeResp c cid stField 0 0
    else s.connEnd c false [⟨5, [cid, ((s.conn c).map (·.sqhd)).getD 0, 0, 0, 0], 24 + x.dgst false⟩]))

/-- `NVME_INVALID_OPCODE` (R426): on an I/O queue it is a command refused at its first check, which completes in the next beat (R438,
R720). -/
def execNvmeInvalidOpcode (c cid : Nat) (s : State) : Res :=
  .next (s.nvmeTake c (2 ^ 20) (fun s _ x _ =>
    if x.nvt = 4 then
      let (t, s) := s.newReq { tag := 0, kind := .admin, origin := .nvt c cid, vol := 2 ^ 20, cls := 6 } false
      s.finish t (outcome stOpcode)
    else s.nvmeResp c cid stOpcode 0 0))

/-! ### Log pages (R449, R450, R454, R455) -/

/-- The SMART / Health Information log (R455); `kelvin` is the diode's reading. -/
def State.healthLog (s : State) (kelvin : Nat) : List Nat :=
  report 0x102 512
    [(0, [s.criticalWarning]), (1, leNat 2 kelvin), (3, [100 - s.lifeSpare, 10, s.life]),
     (32, leNat 16 (ceilDiv s.host.unitsRead 1000)), (48, leNat 16 (ceilDiv s.host.unitsWritten 1000)), (160, leNat 16 s.host.mediaErrs)]

/-- An entry of the deferred-error log (R449). -/
def DefEnt.bytes (e : DefEnt) (id : Nat) : List Nat :=
  leNat 4 id ++ leNat 8 e.lba ++ leNat 4 e.count ++ [e.cause] ++ List.replicate 7 0 ++ leNat 8 e.beat

/-- The deferred-error log of the entries that a predicate on volumes lets through, newest first (R449). -/
def State.deferredLog (s : State) (sees : Nat → Bool) (nsid : Bool) : List Nat :=
  let es := (s.write.defLog.filter (fun e => sees e.vol)).reverse
  leNat 4 es.length ++ leNat 4 (s.get F.JNL_DEF_STAT_OVF) ++ List.replicate 8 0 ++ es.flatMap (fun e => e.bytes (e.vol + b2n nsid))

/-- The Device Self-test log: 20 results of 28 bytes (R454; layout of NVM Express, log entry 44). -/
def State.selftestLog (s : State) : List Nat :=
  let run := s.host.selftest
  let e (r : StResult) : List Nat := [r.result + 16 * r.code, r.segment, 2, 0] ++ leNat 8 r.hours ++ leNat 4 r.nsid ++ List.replicate 12 0
  padTo 564 ([(run.map (·.code)).getD 0, if run.isSome then s.get (F.NVT_ST_STAT_PCT 0) else 0, 0, 0] ++ s.host.stLog.flatMap e
    ++ (List.replicate (20 - s.host.stLog.length) (0x0F :: List.replicate 27 0)).flatten)

/-- The ANA log: one group, 1 + side, with the namespaces attached (R450). -/
def State.anaLog (s : State) (y : Ctrl) : List Nat :=
  let ns := s.activeNs y
  leNat 8 s.host.anaCount ++ leNat 2 1 ++ List.replicate 6 0 ++ leNat 4 (1 + s.side) ++ leNat 4 ns.length ++ leNat 8 s.host.anaCount
    ++ [s.anaState] ++ List.replicate 15 0 ++ ns.flatMap (fun v => leNat 4 (v + 1))

/-- The event, by type and information, that a read of a log page clears. -/
def pageEvent (lid : Nat) : Nat × Nat :=
  if lid = 4 then (2, 0) else if lid = 0x0C then (2, 3) else if lid = 0xC0 then (7, 0) else (8, 0)

/-- `NVME_GET_LOG_PAGE` (R433, R449 to R455): `len` bytes from offset `off` of a page; with `rae` 0 its event is cleared. -/
def execNvmeGetLogPage (c cid flags nsid lid off len : Nat) (rae : Bool) (s : State) : Res :=
  .next (s.nvmeAdmin c cid flags true (fun s k y =>
    let give (s : State) (l : List Nat) : State :=
      let s := if rae then s else s.modCtrl k (fun y => { y with masked := y.masked.filter (· != pageEvent lid) })
      (s.nvmeData c cid (padTo len l)).eventGo k
    if y.disc then
      (if lid = 0x70 then give s (s.bytesAt (s.ctrlArea (k / 1024) + 0x1000 + off) len) else s.nvmeResp c cid stField 0 0)
    else if lid = 2 then
      (if nsid = 0 ∨ nsid = 0xFFFFFFFF then
        let (t, s) := s.free 16
        give s ((s.healthLog t).drop off)
      else s.nvmeResp c cid stField 0 0)
    else if lid = 4 then
      give (if rae then s else s.modCtrl k (fun y => { y with changed := [] })) ((padTo 4096 (y.changed.flatMap (fun v => leNat 4 (v + 1)))).drop off)
    else if lid = 6 then give s (s.selftestLog.drop off)
    else if lid = 0x0C then give s ((s.anaLog y).drop off)
    else if lid = 0xC0 then give s ((s.deferredLog (fun v => y.attach.contains v) true).drop off)
    else s.nvmeResp c cid stField 0 0))

/-! ### I/O commands (R438, R439, R441) -/

/-- Take in a command as a request, or end it with the first check it fails: a limit, the namespace, a pending notice
(R438, 1 to 3). A command that lives goes on with `f`. -/
def State.nvmeIo (s : State) (c cid flags limit : Nat) (r : Req) (f : State → Nat → Req → State) : State :=
  s.nvmeTake c r.vol (fun s _ x y =>
    let r := { r with origin := .nvt c cid, assoc := x.cntlid }
    let (t, s) := s.newReq r (s.liveVol r.vol).isSome
    if x.nvt ≠ 4 then s.finish t (outcome stOpcode)
    else if !flagsOk flags then s.finish t outField
    else if limit ≠ 0 then s.finish t limit
    else if !y.attach.contains r.vol || (s.liveVol r.vol).isNone then s.finish t Cond.VOLUME_ABSENT
    else match s.takeNotice x.cntlid r.vol with
      | some s => s.finish t Cond.DEFERRED_ERROR
      | none => f s t r)

/-- Checks 4 to 6 of a read (R438). -/
def State.readRefusal (s : State) (r : Req) (ldt : Bool) : Nat :=
  match s.liveVol r.vol with
  | none => Cond.VOLUME_ABSENT
  | some v =>
    if v.sizeM1 + 1 < r.lba + r.blocks then Cond.LBA_OUT_OF_RANGE
    else
      let k := s.ioRefusal r.vol ldt r.granted false r.compressed
      if k ≠ 0 then k else s.anaRefusal

/-- The limits of Read and Write (Table 10.6). -/
def rwLimit (blocks sgl : Nat) : Nat :=
  if blocks = 0 ∨ 256 < blocks then outField else if sgl ≠ blocks * 4096 then Cond.NVT_SGL_LENGTH else 0

/-- The volume of a namespace; NSID 0 names none. -/
def volOf (nsid : Nat) : Nat := if nsid = 0 then 2 ^ 32 else nsid - 1

/-- `NVME_READ` (R438). -/
def execNvmeRead (c cid flags nsid lba blocks sgl : Nat) (s : State) : Res :=
  .next (s.nvmeIo c cid flags (rwLimit blocks sgl)
    { tag := 0, kind := .read, origin := .internal, vol := volOf nsid, lba := lba, blocks := blocks, cls := 0 }
    (fun s t r =>
      let s := ((s.sts c r.vol F.NVT_STS_READS_COUNT).sts c r.vol F.NVT_STS_READ_BLOCKS_COUNT blocks).modHost (fun h => { h with reads := h.reads + 1 })
      let k := s.readRefusal r false
      if k ≠ 0 then s.finish t k else s.pfxRead r))

/-- `NVME_WRITE` (R438, R439): `icd` are the blocks of in-capsule data, none where the data is to be asked for. -/
def execNvmeWrite (c cid flags nsid lba blocks sgl : Nat) (icd : List Nat) (s : State) : Res :=
  .next (s.nvmeIo c cid flags (if icd ≠ [] ∧ 8192 < sgl then outField else rwLimit blocks sgl)
    { tag := 0, kind := .write, origin := .internal, vol := volOf nsid, lba := lba, blocks := blocks, cls := 4, icd := icd }
    (fun s _ r =>
      let s := ((s.sts c r.vol F.NVT_STS_WRITES_COUNT).sts c r.vol F.NVT_STS_WRITE_BLOCKS_COUNT blocks).modHost (fun h => { h with writes := h.writes + 1 })
      if icd = [] then s else s.bump (F.NVT_CNT_ICD_COUNT (connUnit c))))

/-- `NVME_WRITE_ZEROES` (R438): up to 65,536 blocks. -/
def execNvmeWriteZeroes (c cid flags nsid lba blocks : Nat) (s : State) : Res :=
  .next (s.nvmeIo c cid flags (if blocks = 0 ∨ 65536 < blocks then outField else 0)
    { tag := 0, kind := .zeroes, origin := .internal, vol := volOf nsid, lba := lba, blocks := blocks, cls := 4, ranges := [(lba, blocks)] }
    (fun s _ _ => s))

/-- The limits of Dataset Management (Table 10.6): without AD it completes, with nothing done, at its first check (R438). -/
def dsmLimit (ad : Bool) (ranges : List (Nat × Nat)) : Nat :=
  if ranges = [] ∨ 256 < ranges.length then outField else if ad then 0 else outcome 0

/-- `NVME_DATASET_MANAGEMENT` (R438, Table 10.6): the ranges come with the command (log entry 46). -/
def execNvmeDatasetManagement (c cid flags nsid : Nat) (ad : Bool) (ranges : List (Nat × Nat)) (s : State) : Res :=
  .next (s.nvmeIo c cid flags (dsmLimit ad ranges)
    { tag := 0, kind := .dealloc, origin := .internal, vol := volOf nsid, lba := (ranges.headD (0, 0)).1
      blocks := (ranges.map (·.2)).sum, cls := 4, ranges := ranges }
    (fun s _ _ => s))

/-- A Flush over volumes, `ranges` naming them: it waits for the writes before it (R187, R441). -/
def flushReq (vols : List Nat) : Req :=
  { tag := 0, kind := .flush, origin := .internal, vol := vols.headD (2 ^ 32), cls := 5, ranges := vols.map (fun v => (v, 0)) }

/-- Writes of a Flush's queue and volumes that were admitted before it and are not acknowledged (R187). -/
def State.flushWaits (s : State) (r : Req) : List Nat :=
  (s.adm.reqs.filter (fun q => q.2.changes && q.2.sameQueue r && (decide (0 < q.2.part) || !q.2.unadmitted)
    && r.ranges.any (fun v => v.1 == q.2.vol)
    && (match q.2.stage with | .acked | .completing | .done => false | _ => true))).map (·.1)

/-- `NVME_FLUSH` (R441, Table 10.6): one namespace, or with 0xFFFFFFFF every one attached. -/
def execNvmeFlush (c cid flags nsid : Nat) (s : State) : Res :=
  .next (s.nvmeTake c (volOf nsid) (fun s _ x y =>
    let all := nsid == 0xFFFFFFFF
    let vols := if all then y.attach else [volOf nsid]
    let r := { flushReq vols with origin := .nvt c cid, assoc := x.cntlid }
    let (t, s) := s.newReq r (!all && (s.liveVol r.vol).isSome)
    if x.nvt ≠ 4 then s.finish t (outcome stOpcode)
    else if !flagsOk flags then s.finish t outField
    else if !all ∧ (!y.attach.contains (volOf nsid) ∨ (s.liveVol (volOf nsid)).isNone) then s.finish t Cond.VOLUME_ABSENT
    else match vols.findSome? (fun v => s.takeNotice x.cntlid v) with
      | some s => s.finish t Cond.DEFERRED_ERROR
      | none =>
        if s.anaRefusal ≠ 0 then s.finish t s.anaRefusal else s.modReq t (fun r => { r with stage := .waiting })))

/-! ### Abort (R445, R446) -/

/-- A command has passed its point of no return (R445): a read once its data has been handed to delivery, to the delivery buffer on NVT,
where the host port itself makes the zero blocks, or into a message on LDT (R137, R139). -/
def Req.pastReturn (r : Req) : Bool :=
  match r.stage with
  | .completing | .done => true
  | .entered | .acked => r.changes
  | _ => r.kind == .read && (r.sent != [] || (match r.origin with
      | .nvt _ _ => r.ready.any (fun q => !r.zeroAt.contains q.1)
      | _ => false))

/-- Aborts of a controller that have not completed. -/
def State.abortsOut (s : State) (k : Nat) : Nat :=
  (s.adm.reqs.filter (fun q => q.2.isAbort && (match q.2.origin with | .nvt d _ => s.connCtrl d == some k | _ => false))).length

/-- The request that an Abort names: its queue of the controller and its command identifier. -/
def State.abortTarget (s : State) (k sqid acid : Nat) : Option (Nat × Req) :=
  s.adm.reqs.find? (fun q => !q.2.isAbort && (match q.2.origin with
    | .nvt d i => i == acid && s.connCtrl d == some k && ((s.conn d).map (fun x => x.qid == sqid)).getD false
    | _ => false))

/-- The R2Ts of a command that has ended: data that still comes for them is discarded (R183, R443). -/
def State.r2tsEnd (s : State) (tag : Nat) : State :=
  match s.req tag with
  | some r => match r.origin with
    | .nvt d _ => s.modConn d (fun x => { x with r2ts := x.r2ts.map (fun q => if q.tag = tag then { q with dead := true } else q) })
    | _ => s
  | none => s

/-- An Abort is decided: its target ends where the abort won, and the Abort's completion follows in the next beat (R446,
R720). -/
def State.abortDone (s : State) (c cid : Nat) (won : Option Nat) : State :=
  let s := match won with
    | some t => ((s.r2tsEnd t).modReq t (fun r => { r with aborted := true })).finish t outAborted
    | none => s
  let (t, s) := s.newReq { tag := 0, kind := .admin, origin := .nvt c cid, vol := 2 ^ 20, cls := 6, isAbort := true } false
  s.modReq t (fun r => { r with stage := .completing, endBeat := s.beat, dw0 := b2n won.isNone })

/-- `NVME_ABORT` (R445, R446). -/
def execNvmeAbort (c cid flags sqid acid : Nat) (s : State) : Res :=
  .next (s.nvmeAdmin c cid flags false (fun s k y =>
    if 4 ≤ s.abortsOut k then s.nvmeResp c cid (nvmeStatus 1 0x03 false) 0 0
    else if sqid = 0 ∧ y.aers.contains acid then
      let (t, s) := (s.modCtrl k (fun y => { y with aers := y.aers.erase acid })).newReq
        { tag := 0, kind := .admin, origin := .nvt c acid, vol := 2 ^ 20, cls := 6 } false
      s.abortDone c cid (some t)
    else match s.abortTarget k sqid acid with
      | some (t, r) => if r.pastReturn then s.abortDone c cid none else (s.abortDone c cid (some t)).wakeHeld
      | none => s.abortDone c cid none))

/-! ### Data from the host (R442 to R444) -/

/-- Change the R2Ts of a connection. -/
def State.modR2t (s : State) (c ttag : Nat) (f : R2t → Option R2t) : State :=
  s.modConn c (fun x => { x with r2ts := x.r2ts.filterMap (fun r => if r.ttag = ttag then f r else some r) })

/-- Land the whole blocks of bytes that have come, from a byte offset that is a multiple of 4,096 (R439). -/
def State.landBytes (s : State) (tag off n data : Nat) : State :=
  (List.range (n / 4096)).foldl (fun (s : State) i => s.landBlock tag (off / 4096 + i) (data / 256 ^ (4096 * i) % 256 ^ 4096)) s

/-- The command of an R2T fails: nothing of it enters, and its further data is discarded as it comes (R443, R444). -/
def State.dataFail (s : State) (c : Nat) (r : R2t) (cond : Nat) (gone : Bool) : State :=
  let s := s.modR2t c r.ttag (fun r => if gone then none else some { r with dead := true })
  if r.dead then s else (s.finish r.tag cond).wakeHeld

/-- Data that passed its checks. -/
def State.dataTake (s : State) (c : Nat) (r : R2t) (len data : Nat) (last : Bool) : State :=
  let k := r.got % 4096
  let v := r.buf + data % 256 ^ len * 256 ^ k
  let got := r.got + len
  let s := s.modR2t c r.ttag (fun r => if got = r.len then none else some { r with got := got, buf := v / 256 ^ ((k + len) / 4096 * 4096) })
  if r.dead then (if last then s.modR2t c r.ttag (fun _ => none) else s)
  else
    let s := s.landBytes r.tag (r.off + (r.got - k)) (k + len) v
    if last ∧ got ≠ r.len then s.dataFail c r Cond.NVT_DATA_SHORT true else s

/-- `NVT_H2C_DATA_RX` (R442 to R444, Table 10.7): a data PDU, or one whose header is not legal or fails its digest. -/
def execNvtH2cDataRx (c ttag off len data : Nat) (last hdrOk hdgstOk ddgstOk : Bool) (s : State) : Res :=
  .next (match s.conn c with
    | some x =>
      if x.tcp ≠ 2 ∨ !s.hfiLive then s
      else
        let s := s.bump (F.NVT_CNT_PDU_RX_COUNT (connUnit c))
        if !hdgstOk then (s.bump (F.NVT_CNT_HDGST_ERR_COUNT (connUnit c))).transportFatal c 3
        else if !hdrOk then s.transportFatal c 1
        else match x.r2ts.find? (fun r => r.ttag == ttag) with
          | none => s.transportFatal c 2
          | some r =>
            if off ≠ r.off + r.got then s.transportFatal c 2
            else if r.len < r.got + len then s.transportFatal c 4
            else if 65536 < len then s.transportFatal c 5
            else if !ddgstOk then
              ((s.bump (F.NVT_CNT_DDGST_ERR_COUNT (connUnit c))).dataTake c { r with dead := true } len 0 last).dataFail c r Cond.NVT_DATA_DIGEST false
            else s.dataTake c r len data last
    | none => s)

/-- `NVT_H2C_TERM_REQ_RX` (R442): none is sent back. -/
def execNvtH2cTermReqRx (c : Nat) (s : State) : Res :=
  .next (if ((s.conn c).map (fun x => x.tcp == 2)).getD false ∧ s.hfiLive then
      ((((s.bump (F.NVT_CNT_PDU_RX_COUNT (connUnit c))).sts c (2 ^ 20) F.NVT_STS_XPORT_ERR_COUNT).raise (nvtSlot (connUnit c) 2)
        Cond.NVT_TRANSPORT_FATAL c)).connEnd c false []
    else s)

/-! ### The self-test (R48, R452, R453) -/

/-- `NVT_ST_STAT` of both units follows the running test. -/
def State.selftestShow (s : State) (t : SelfTest) (paused : Bool) : State :=
  [0, 1].foldl (fun (s : State) u => s.setAll [(F.NVT_ST_STAT_RUNNING u, 1), (F.NVT_ST_STAT_PAUSED u, b2n paused), (F.NVT_ST_STAT_CODE u, t.code),
    (F.NVT_ST_STAT_PCT u, (t.segment - 1) * 100 / 6), (F.NVT_ST_STAT_SEGMENT u, t.segment), (F.NVT_ST_STAT_CNTLID u, t.cntlid)]) s

/-- `NVME_DEVICE_SELF_TEST` (R452). -/
def execNvmeDeviceSelfTest (c cid flags nsid code : Nat) (s : State) : Res :=
  .next (s.nvmeAdmin c cid flags false (fun s k y =>
    if code = 0xF then (s.selftestEnd 1).nvmeResp c cid 0 0 0
    else if code ≠ 1 ∧ code ≠ 2 then s.nvmeResp c cid stField 0 0
    else if nsid ≠ 0 ∧ nsid ≠ 0xFFFFFFFF ∧ !(s.activeNs y).contains (nsid - 1) then s.nvmeResp c cid stNs 0 0
    else if s.host.selftest.isSome then s.nvmeResp c cid (nvmeStatus 1 0x1D false) 0 0
    else
      let scope := if nsid = 0 then [] else if nsid = 0xFFFFFFFF then s.activeNs y else [nsid - 1]
      let t : SelfTest := { code := code, nsid := nsid, scope := scope, cntlid := s.cntlid k, beat := s.beat }
      ((s.modHost (fun h => { h with selftest := some t })).selftestShow t false).nvmeResp c cid 0 0 0))

/-- What the head itself knows of a segment: 2 the bricks and life, 3 the mirror in PAIRED. -/
def State.segmentKnown (s : State) (n : Nat) : Bool :=
  if n = 2 then !s.anyBrickFailed && decide (s.life < 100)
  else if n = 3 then s.mode != .paired || s.get F.PRL_STAT_REACHABLE == 1
  else true

/-- The blocks by which the self-test reads the mapped chunks of a namespace: one block of each chunk, the lowest, and of the short test
those of 4,096 chunks (R452). -/
def State.testBlocks (s : State) (code v : Nat) : List (Nat × Nat) :=
  let pages := sortBy id ((s.read.map.map (fun q => q.1 % 2 ^ 29)).eraseDups)
  let named := pages.flatMap (fun p => match s.volPage v p with
    | some k => (sortBy (fun q => q.1) ((s.pageAt k).ents.filter (fun q => q.2.named))).map (fun q => (512 * p + q.1, q.2.chunk))
    | none => [])
  let first := named.foldl (fun (m : List (Nat × Nat)) q => if m.any (fun x => x.2 == q.2) then m else m ++ [q]) []
  (if code = 1 then first.take 4096 else first).map (fun q => (v, q.1))

/-- Segment 5 goes on: true once no chunk is left to be read (R452, R453). -/
def State.testData (s : State) (t : SelfTest) : Bool × State :=
  if (t.read.bind s.req).isSome then (false, s) else
    match t.todo.getD (t.scope.flatMap (fun v => s.testBlocks t.code v)) with
    | [] => (true, s)
    | (v, lba) :: rest =>
      let (tag, s) := s.newReq { tag := 0, kind := .read, origin := .selftest, vol := v, lba := lba, blocks := 1, cls := 6 } true
      (false, (s.modHost (fun h => { h with selftest := some { t with todo := some rest, read := some tag } })).resolve tag [])

/-- The deletion of a namespace in scope ends the test (R453). -/
def State.selftestScope (s : State) : State :=
  if (s.host.selftest.map (fun t => t.scope.any (fun v => (s.liveVol v).isNone))).getD false then s.selftestEnd 3 else s

/-- `SELFTEST_SEGMENT` (R48, R452, R453): in a beat of at most 75% load the segment runs, `ok` as it found; in any other the test pauses.
Segment 5 reads its chunks one after another (log entry 137). A deleted namespace in scope ends the test. -/
def execSelftestSegment (ok : Bool) (s : State) : Res :=
  .next (match s.host.selftest with
    | none => s
    | some t =>
      if t.scope.any (fun v => (s.liveVol v).isNone) then s.selftestEnd 3
      else if !s.loadAtMost 75 then s.selftestShow t true
      else
        let (done, s) := if t.segment = 5 then s.testData t else (true, s)
        if !done then s.selftestShow t false else
        let good := ok && s.segmentKnown t.segment
        let t := { t with failed := if good ∨ t.failed ≠ 0 then t.failed else t.segment }
        if t.segment = 6 then (s.modHost (fun h => { h with selftest := some t })).selftestEnd (if t.failed = 0 then 0 else 7)
        else
          let t := { t with segment := t.segment + 1 }
          (s.modHost (fun h => { h with selftest := some t })).selftestShow t false)

/-- `SELFTEST_TIMEOUT` (R453): the short test has 15,000,000 beats. -/
def execSelftestTimeout (s : State) : Res :=
  .next (match s.host.selftest with
    | some t =>
      if t.code = 1 ∧ t.beat + 15000000 ≤ s.beat then (s.raise Slot.NVT Cond.SELFTEST_TIMEOUT t.segment).selftestEnd 8 else s
    | none => s)

end Sys2Proof.Machine
end

