-- ==== Sys2Proof/Machine/Lbc.lean ====
section
/-! DEFINITION. Chapter 11, Lumvas Block Commands, and the commands between heads of chapter 13 at the head that serves
them. -/

namespace Sys2Proof.Machine

/-- A word of a capsule. -/
def capWord (d k : Nat) : Nat := bitsOf d (64 * k) 64

/-- The opcode of a capsule. -/
def capOpc (d : Nat) : Nat := bitsOf d 56 8

/-- Opcodes that Tables 11.11 and 13.5 list. -/
def lbcKnown (o : Nat) : Bool := (decide (1 ≤ o) && decide (o ≤ 8)) || (decide (0x40 ≤ o) && decide (o ≤ 0x44))

/-- Reserved fields of a capsule are zero (Table 11.9): `w2`, `w5`, `w6` are the bits of those words that the command uses. `PFX` 3 is
invalid; `PROFILE` is read only with `PFX` 2 and may hold any value. -/
def capClean (d w2 w5 w6 : Nat) : Bool :=
  bitsOf d 32 20 == 0 && bitsOf d 52 2 != 3 && bitsOf d 102 10 == 0 && decide (capWord d 2 < 2 ^ w2) && bitsOf (capWord d 4) 12 20 == 0
    && decide (capWord d 5 < 2 ^ w5) && decide (capWord d 6 < 2 ^ w6) && capWord d 7 == 0

/-- A connection takes its oldest capsule where it spells the opcode: none while ADM is full (R44, R486) or its unit or LBC quiesces
(R73). A capsule of an
unknown opcode, or not of 64 bytes, ends with `LBC_CMD_INVALID`. -/
def State.lbcTake (s : State) (n opc : Nat) (f : State → LdtConn → Nat → State) : State :=
  match s.lconn n with
  | none => s
  | some x =>
    match x.inbox with
    | [] => s
    | (len, d) :: t =>
      let bad := len != 64 || !lbcKnown (capOpc d)
      if x.initiator || x.state != 3 || s.admFull || (s.unit (unitKey Blk.LDT (ldtUnit n))).quiesce || (s.unit (unitKey Blk.LBC 0)).quiesce || !(bad || capOpc d == opc) then s
      else
        let s := (s.modLconn n (fun x => { x with inbox := t })).bump F.LBC_CNT_CMDS_COUNT
        if bad then
          let (q, s) := s.newReq { tag := 0, kind := .admin, origin := .ldt n (d % 2 ^ 32), cls := 6, assoc := ldtAssoc n } false
          s.finish q Cond.LBC_CMD_INVALID
        else f s x d

/-- The connection's grant covers a volume's vat (R247). -/
def State.grantCovers (s : State) (x : LdtConn) (vol : Nat) : Bool := ((AL.get vol s.vat.vols).map (fun v => x.grants.contains v.vat)).getD false

/-- The request of a capsule. -/
def State.capReq (s : State) (n : Nat) (x : LdtConn) (d : Nat) (kind : ReqKind) (cls : Nat) : Req :=
  { tag := 0, kind := kind, origin := .ldt n (d % 2 ^ 32), vol := bitsOf d 112 16, lba := bitsOf d 64 38, blocks := capWord d 2 % 2 ^ 32
    cls := cls, assoc := ldtAssoc n, ordered := bitOf d 55, bufAddr := capWord d 3, bufLen := capWord d 4 / 2 ^ 32
    granted := s.grantCovers x (bitsOf d 112 16) }

/-- Take a command in, or end it with the first of checks 1 to 3 it fails (R493); `named`: it names a volume. -/
def State.lbcIn (s : State) (r : Req) (valid named : Bool) (f : State → Nat → Req → State) : State :=
  let (t, s) := s.newReq r (named && (s.liveVol r.vol).isSome)
  if !valid then s.finish t Cond.LBC_CMD_INVALID
  else if named ∧ (s.liveVol r.vol).isNone then s.finish t Cond.VOLUME_ABSENT
  else match (if named then s.takeNotice r.assoc r.vol else none) with
    | some s => s.finish t Cond.DEFERRED_ERROR
    | none => f s t r

/-- Counters of a command's flags. -/
def State.lbcFlags (s : State) (d : Nat) : State :=
  let s := if bitOf d 54 then s.bump F.LBC_CNT_COMPRESSED_COUNT else s
  let s := if bitOf d 55 then s.bump F.LBC_CNT_ORDERED_COUNT else s
  if bitsOf d 52 2 = 2 then s.bump F.LBC_CNT_PFX_NAMED_COUNT else s

/-- What a read triggers by its `PFX` field (R496, `LBC_CFG`): 0 by range, 1 nothing, 2 + p profile p. -/
def State.pfxField (s : State) (d : Nat) : Nat :=
  let p := bitsOf d 52 2
  if p = 1 then s.get F.LBC_CFG_PFX_SUPPRESS_EN
  else if p = 2 ∧ s.get F.LBC_CFG_PFX_NAME_EN = 1 then 2 + capWord d 4 % 4096 else 0

/-- `LBC_READ` (R493). -/
def execLbcRead (n : Nat) (s : State) : Res :=
  .next (s.lbcTake n 1 (fun s x d =>
    let s := (s.lbcFlags d).bump F.LBC_CNT_READS_COUNT
    let r : Req := { s.capReq n x d .read 0 with compressed := bitOf d 54, pfxName := s.pfxField d }
    let valid := capClean d 32 0 0 && decide (1 ≤ r.blocks) && decide (r.blocks ≤ 256) && decide ((if r.compressed then 16 else 4096 * r.blocks) ≤ r.bufLen)
    s.lbcIn r valid true (fun s t r =>
      let s := s.modHost (fun h => { h with reads := h.reads + 1 })
      let k := s.readRefusal r true
      if k ≠ 0 then s.finish t k else s.pfxRead r)))

/-- `LBC_WRITE` (R493): its data is asked for part by part, as each is admitted. -/
def execLbcWrite (n : Nat) (s : State) : Res :=
  .next (s.lbcTake n 2 (fun s x d =>
    let s := (s.lbcFlags d).bump F.LBC_CNT_WRITES_COUNT
    let r : Req := s.capReq n x d .write 4
    let valid := capClean d 32 0 0 && decide (1 ≤ r.blocks) && decide (r.blocks ≤ 256) && decide (4096 * r.blocks ≤ r.bufLen)
    s.lbcIn r valid true (fun s _ _ => s.modHost (fun h => { h with writes := h.writes + 1 }))))

/-- `LBC_WRITE_ZEROES` (R493). -/
def execLbcWriteZeroes (n : Nat) (s : State) : Res :=
  .next (s.lbcTake n 3 (fun s x d =>
    let s := (s.lbcFlags d).bump F.LBC_CNT_WRITES_COUNT
    let r : Req := s.capReq n x d .zeroes 4
    let valid := capClean d 32 0 0 && decide (1 ≤ r.blocks) && decide (r.blocks ≤ 65536)
    s.lbcIn { r with ranges := [(r.lba, r.blocks)] } valid true (fun s _ _ => s)))

/-- `LBC_DEALLOCATE` (R493): the range list is asked for first, and checks 4 to 7 follow when it has come. -/
def execLbcDeallocate (n : Nat) (s : State) : Res :=
  .next (s.lbcTake n 4 (fun s x d =>
    let s := (s.lbcFlags d).bump F.LBC_CNT_WRITES_COUNT
    let r : Req := s.capReq n x d .dealloc 4
    let k := r.blocks
    let valid := capClean d 32 0 0 && decide (1 ≤ k) && decide (k ≤ 256) && decide (16 * k ≤ r.bufLen)
    s.lbcIn { r with blocks := 0, bufLen := k, stage := if valid then .awaitData else .resolving } valid true (fun s t r =>
      s.ldtRead n r.bufAddr (16 * k) { tag := t, off := 0, len := 16 * k })))

/-- `LBC_FLUSH` (R493, R187, R441): its volume, or every volume with `ALL`. -/
def execLbcFlush (n : Nat) (s : State) : Res :=
  .next (s.lbcTake n 5 (fun s _ d =>
    let s := s.lbcFlags d
    let all := bitOf (capWord d 5) 0
    let vols := if all then (s.vat.vols.filter (fun v => v.2.state == 1)).map (·.1) else [bitsOf d 112 16]
    let r : Req := { flushReq vols with origin := .ldt n (d % 2 ^ 32), assoc := ldtAssoc n, vol := bitsOf d 112 16, ordered := bitOf d 55 }
    s.lbcIn r (capClean d 32 1 0) (!all) (fun s t r =>
      match (if all then vols.findSome? (fun v => s.takeNotice r.assoc v) else none) with
      | some s => s.finish t Cond.DEFERRED_ERROR
      | none => if s.anaRefusal ≠ 0 then s.finish t s.anaRefusal else s.modReq t (fun r => { r with stage := .waiting }))))

/-- Aborts of a connection that have not completed. -/
def State.lbcAborts (s : State) (n : Nat) : Nat :=
  (s.adm.reqs.filter (fun q => q.2.isAbort && (match q.2.origin with | .ldt d _ => d == n | _ => false))).length

/-- End a command with success in the next beat: its result, and the bytes it placed. -/
def State.lbcDone (s : State) (t result placed : Nat) : State :=
  s.modReq t (fun r => { r with stage := .completing, cond := 0, endBeat := s.beat, dw0 := result, placed := placed })

/-- `LBC_ABORT` (R494, R445). -/
def execLbcAbort (n : Nat) (s : State) : Res :=
  .next (s.lbcTake n 6 (fun s _ d =>
    let r : Req := { tag := 0, kind := .admin, origin := .ldt n (d % 2 ^ 32), cls := 6, assoc := ldtAssoc n, isAbort := true }
    let over4 := decide (4 ≤ s.lbcAborts n)
    s.lbcIn r (capClean d 32 32 0 && !over4) false (fun s t _ =>
      if s.anaRefusal ≠ 0 then s.finish t s.anaRefusal
      else
        let target := s.adm.reqs.find? (fun q => !q.2.isAbort && q.2.origin == .ldt n (capWord d 5 % 2 ^ 32))
        match target with
        | some (v, q) =>
          if q.pastReturn then (s.bump F.LBC_CNT_ABORT_LOST_COUNT).lbcDone t 1 0
          else ((((s.modReq v (fun r => { r with aborted := true })).finish v outAborted).bump F.LBC_CNT_ABORT_WON_COUNT).lbcDone t 0 0).wakeHeld
        | none => (s.bump F.LBC_CNT_ABORT_LOST_COUNT).lbcDone t 1 0)))

/-- `LBC_GET_HEALTH` (Table 11.10). -/
def execLbcGetHealth (n : Nat) (s : State) : Res :=
  .next (s.lbcTake n 7 (fun s _ d =>
    let r : Req := { tag := 0, kind := .admin, origin := .ldt n (d % 2 ^ 32), cls := 6, assoc := ldtAssoc n }
    (s.bump F.LBC_CNT_HEALTH_COUNT).lbcIn r (capClean d 32 0 0) false (fun s t _ =>
      if s.anaRefusal ≠ 0 then s.finish t s.anaRefusal
      else s.lbcDone t (s.life + 256 * s.lifeWear + 65536 * s.lifeSpare + 2 ^ 24 * (s.criticalWarning % 32)) 0)))

/-- `LBC_GET_DEFERRED` (Table 11.11): the entries whose volume the connection could read, as many as the buffer holds. -/
def execLbcGetDeferred (n : Nat) (s : State) : Res :=
  .next (s.lbcTake n 8 (fun s x d =>
    let r : Req := { s.capReq n x d .admin 6 with vol := 0, lba := 0, blocks := 0 }
    s.lbcIn r (capClean d 32 0 0 && decide (16 ≤ r.bufLen)) false (fun s t r =>
      if s.anaRefusal ≠ 0 then s.finish t s.anaRefusal
      else
        let log := s.deferredLog (fun v => s.ioRefusal v true (s.grantCovers x v) false false == 0) false
        let k := (min log.length r.bufLen - 16) / 32
        let b := log.take (16 + 32 * k)
        (s.ldtMsg n 2 b.length r.bufAddr (leOf b)).lbcDone t k b.length)))

/-! ### Commands between heads (R551, R555 to R561) -/

/-- The requester of a capsule is a live member, and its connection comes from an address that it announces (R555). -/
def State.headKnown (s : State) (x : LdtConn) (d : Nat) : Bool :=
  match AL.get (capWord d 5 % 65536) s.fab.members with
  | some m => s.fabIn && m.st == 2 && (m.v4 == some x.peerAddr || m.v6 == some x.peerAddr)
  | none => false

/-- `LBC_FETCH` (R551). -/
def execLbcFetch (n : Nat) (s : State) : Res :=
  .next (s.lbcTake n 0x40 (fun s x d =>
    let r : Req := { s.capReq n x d .fetch 3 with blocks := 1 }
    let valid := s.headKnown x d && capClean d 44 16 0 && decide (66048 ≤ r.bufLen)
    let (t, s) := s.newReq r (s.liveVol r.vol).isSome
    let vat := (s.liveVol r.vol).bind (fun v => AL.get v.vat s.vat.vats)
    let e := s.mapEnt r.vol r.lba
    if !valid then s.finish t Cond.LBC_CMD_INVALID
    else if (s.liveVol r.vol).isNone then s.finish t Cond.VOLUME_ABSENT
    else if s.ioRefusal r.vol true r.granted false false ≠ 0 then s.finish t (s.ioRefusal r.vol true r.granted false false)
    else if s.anaRefusal ≠ 0 then s.finish t s.anaRefusal
    else if !((vat.map (fun v => v.published && v.state == 2)).getD false) then s.finish t Cond.FOREIGN_NOT_HELD
    else if !e.named || e.index != bitsOf (capWord d 2) 40 4 || (s.ctbEnt e.chunk).fp / 2 ^ 216 != capWord d 2 % 2 ^ 40 then
      s.finish t Cond.FOREIGN_NOT_HELD
    else s.resolve t []))

/-- The source link of a volume. -/
def State.sourceLink (s : State) (vol : Nat) : Option (Nat × RepLink) := s.fab.links.find? (fun q => !q.2.target && q.2.localVol == vol)

/-- A replication command: its requester, its capsule and the source link it names, else `LBC_CMD_INVALID`. -/
def State.repIn (s : State) (n opc : Nat) (valid : Nat → Bool) (kind : ReqKind) (f : State → LdtConn → Nat → Nat → Req → Nat → RepLink → State) : State :=
  s.lbcTake n opc (fun s x d =>
    let r : Req := s.capReq n x d kind 6
    let (t, s) := s.newReq r (s.liveVol r.vol).isSome
    if !s.headKnown x d || !valid d || !(s.unit (unitKey Blk.REP 0)).enable then s.finish t Cond.LBC_CMD_INVALID
    else if (s.liveVol r.vol).isNone then s.finish t Cond.VOLUME_ABSENT
    else match s.sourceLink r.vol with
      | none => s.finish t Cond.LBC_CMD_INVALID
      | some (k, l) => f s x d t r k l)

/-- A snapshot identity as REP_POLL answers it: 0xF_FFFF for none. -/
def snapField (s : State) (sn : Option Nat) : Nat :=
  match sn with
  | some k => if (s.liveSnap k).isSome then k else 0xFFFFF
  | none => 0xFFFFF

/-- `LBC_REP_POLL` (R556, Table 13.5). -/
def execLbcRepPoll (n : Nat) (s : State) : Res :=
  .next (s.repIn n 0x41 (fun d => capClean d 32 16 64) .admin (fun s _ d t r k l =>
    if capWord d 6 ≠ s.saltCheck r.vol then (s.raise Slot.REP Cond.REP_SALT_MISMATCH k).finish t Cond.REP_SALT_MISMATCH
    else (s.bump F.REP_CNT_SERVED_COUNT).lbcDone t (snapField s l.offered * 2 ^ 40 + snapField s l.base) 0))

/-- The pages of the offered snapshot whose location differs from that in the base, in order; without a base, those that have
one (R559). -/
def State.changedPages (s : State) (l : RepLink) : List Nat :=
  match l.offered with
  | none => []
  | some o =>
    let at_ (sn p : Nat) : Option Nat := s.spacePage (snapSpace sn) p
    let ps := sortBy id ((s.read.map.map (fun q => q.1 % 2 ^ 29)).eraseDups)
    ps.filter (fun p => match l.base with
      | some b => at_ o p != at_ b p
      | none => (at_ o p).isSome)

/-- A recipe page of a snapshot (R559). -/
def State.recipeOf (s : State) (sn p : Nat) : Nat :=
  let g := ((s.spacePage (snapSpace sn) p).map s.pageAt).getD {}
  let ent (i : Nat) : Nat :=
    let e := AL.getD i {} g.ents
    if e.z then 2 ^ (256 + 62)
    else if e.u then 2 * 2 ^ (256 + 62)
    else if e.f then 3 * 2 ^ (256 + 62) + e.index * 2 ^ (256 + 58) + e.chunk * 2 ^ 256
    else (s.ctbEnt e.chunk).fp + e.index * 2 ^ (256 + 58) + (s.ctbEnt e.chunk).orig * 2 ^ (256 + 53)
  p + (List.range 512).foldl (fun v i => v + ent i * 256 ^ (64 + 40 * i)) 0

/-- `LBC_REP_RECIPE` (R559). -/
def execLbcRepRecipe (n : Nat) (s : State) : Res :=
  .next (s.repIn n 0x42 (fun d => capClean d 32 16 0 && decide (1 ≤ capWord d 2) && decide (capWord d 2 ≤ 8) && bitsOf d 64 9 == 0) .admin
    (fun s _ _ t r _ l =>
      match l.offered.filter (fun o => (s.liveSnap o).isSome) with
      | none => s.finish t Cond.LBC_CMD_INVALID
      | some o =>
        let all := (s.changedPages l).filter (fun p => decide (r.lba / 512 ≤ p))
        let ps := all.take r.blocks
        let next := ((all.drop r.blocks).head?).getD (2 ^ 64 - 1)
        let data := (ps.zipIdx).foldl (fun v (q : Nat × Nat) => v + s.recipeOf o q.1 * 256 ^ (recipeBytes * q.2)) 0
        let len := recipeBytes * ps.length
        let s := if ps = [] then s else s.ldtMsg n 2 len r.bufAddr data
        (s.bump F.REP_CNT_SERVED_COUNT).lbcDone t next len))

/-- `LBC_REP_CHUNKS` (R560): the list of LBAs is asked for; the chunks are read as the offered snapshot maps them. -/
def execLbcRepChunks (n : Nat) (s : State) : Res :=
  .next (s.repIn n 0x43 (fun d => capClean d 32 16 0 && decide (1 ≤ capWord d 2)) .repChunks (fun s _ _ t r _ l =>
    if s.get F.REP_CFG_CHUNKS < r.blocks ∨ (l.offered.bind s.liveSnap).isNone then s.finish t Cond.LBC_CMD_INVALID
    else
      (s.modReq t (fun r => { r with stage := .awaitData, bufLen := r.blocks, space := l.offered })).ldtRead n r.bufAddr (8 * r.blocks)
        { tag := t, off := 0, len := 8 * r.blocks }))

/-- `LBC_REP_DONE` (R558, R565): the offered snapshot becomes the base; a link on its way to sync switches once its change list
was short, and is in sync after the final cycle. -/
def execLbcRepDone (n : Nat) (s : State) : Res :=
  .next (s.repIn n 0x44 (fun d => capClean d 32 16 20) .admin (fun s _ d t _ k l =>
    if l.offered ≠ some (capWord d 6 % 2 ^ 20) then s.finish t Cond.LBC_CMD_INVALID
    else
      let short := decide ((s.changedPages l).length ≤ s.get F.REP_CFG_SWITCH_PAGES)
      let s := s.modRep k (fun l => { l with base := l.offered })
      let s := if l.mode ≠ 1 then s
        else if l.st = 4 then (s.repTo k 3).wakeHeld
        else if l.st = 2 then (if short then s.repTo k 4 else s).modRep k (fun l => { l with snapWait := true })
        else s
      (s.bump F.REP_CNT_SERVED_COUNT).lbcDone t 0 0))

/-! ### Completion (Tables 11.10 and 11.12) -/

/-- The status of an outcome. -/
def lbcOf (cond : Nat) : Nat :=
  if cond = 0 then 0
  else if cond = outAborted then 12
  else if cond = Cond.LBC_CMD_INVALID then 1
  else if cond = Cond.VOLUME_ABSENT then 2
  else if cond = Cond.LBA_OUT_OF_RANGE then 3
  else if cond = Cond.NO_SPACE then 4
  else if cond = Cond.VAT_IMMUTABLE ∨ cond = Cond.REP_TARGET_READ_ONLY then 5
  else if cond = Cond.VAT_NOT_GRANTED ∨ cond = Cond.VAT_KEY_ABSENT then 6
  else if cond = Cond.MEDIA_INTEGRITY ∨ cond = Cond.FOREIGN_UNAVAILABLE then 7
  else if cond = Cond.READ_INTERNAL_ERROR ∨ cond = Cond.READ_SLOW_TIMEOUT then 8
  else if cond = Cond.COMPRESSED_NOT_ALLOWED then 9
  else if cond = Cond.DELIVERY_BUFFER_SHORT then 10
  else if cond = Cond.LENGTH_MISMATCH ∨ cond = Cond.LDT_REMOTE_ACCESS then 11
  else if cond = Cond.ANA_TRANSITION then 13
  else if cond = Cond.ANA_INACCESSIBLE then 14
  else if cond = Cond.DEFERRED_ERROR then 15
  else 1

/-- Send a command's completion capsule and count it (Table 11.16). What a WRITE message of a read that failed has not been given goes as
zeros, so that the completion can follow it (R494; log entry 97). -/
def State.lbcComplete (s : State) (n ctag : Nat) (r : Req) : State :=
  let st := lbcOf r.cond
  let covered := if r.changes then (if r.cond = 0 then r.blocks else 0) else r.delivered
  let w0 := st * 2 ^ 48 + (if 0x10000 ≤ r.cond then 0 else r.cond) * 2 ^ 32 + ctag
  let s := if st = 1 then s.bump F.LBC_CNT_INVALID_COUNT else s
  let s := if st = 13 ∨ st = 14 then s.bump F.LBC_CNT_NOT_SERVING_COUNT else s
  let s := if st = 15 then s.bump F.LBC_CNT_DEFERRED_COUNT else s
  let s := if st = 0 ∨ st = 12 then s else s.bump F.LBC_CNT_FAILED_COUNT
  let s := if r.deadline < s.beat then s.bump F.LBC_CNT_LATE_COUNT else s
  let s := s.modLconn n (fun x => { x with
    completed := x.completed + 1
    msgs := x.msgs.map (fun m => if r.msgs.any (fun q => q.2 == m.msn) && m.ptype == 2 then { m with blocksIn := none } else m) })
  s.ldtMsg n 1 32 0 (ofWords [w0, r.placed * 2 ^ 32 + covered, r.dw0, s.beat % 2 ^ 48])

end Sys2Proof.Machine
end

