-- ==== Sys2Proof/Machine/Deliver.lean ====
section
/-! DEFINITION. Chapters 3, 8 and 9, the end of a request: what a slice finds of a copy, inflation, delivery to the host, write
acknowledgement, completion, and the reset of a stalled connection. -/

namespace Sys2Proof.Machine

/-! ### Completion (R53, R182, R440, R447, R494) -/

/-- Count an NVT completion on the statistics pages (R459). -/
def State.nvtStats (s : State) (c : Nat) (r : Req) : State :=
  let st := nvmeOf r.cond
  let ana := r.cond == Cond.ANA_INACCESSIBLE || r.cond == Cond.ANA_TRANSITION
  let s := if st ≠ 0 ∧ r.cond ≠ outAborted then s.sts c r.vol F.NVT_STS_FAILED_COUNT else s
  let s := if r.cond = outAborted then s.sts c r.vol F.NVT_STS_ABORTED_COUNT else s
  let s := if r.cond = Cond.DEFERRED_ERROR then s.sts c r.vol F.NVT_STS_DEFERRED_COUNT else s
  let s := if ana then s.sts c r.vol F.NVT_STS_ANA_REFUSED_COUNT else s
  if r.deadline < s.beat then s.sts c r.vol F.NVT_STS_LATE_COUNT else s

/-- What the health log counts: units of 512 bytes of NVT data, and completions with a media error (R455). -/
def State.healthCounts (s : State) (r : Req) : State :=
  let nvt := match r.origin with
    | .nvt _ _ => true
    | _ => false
  s.modHost (fun h => { h with
    unitsRead := if nvt && r.kind == .read && r.cond == 0 then h.unitsRead + 8 * r.blocks else h.unitsRead
    unitsWritten := if nvt && r.kind == .write && r.cond == 0 then h.unitsWritten + 8 * r.blocks else h.unitsWritten
    mediaErrs := if r.cond = Cond.MEDIA_INTEGRITY then h.mediaErrs + 1 else h.mediaErrs })

/-- A completion still waits for the network: as a response of an NVT connection, or as a message of an LDT connection that has not
begun. -/
def State.egressWaits (s : State) (e : Egress) : Bool :=
  if e.nvt then ((s.conn e.conn).map (fun x => x.outQ.any (fun o => o.kind == 5 && o.args.head? == some e.id))).getD false
  else ((s.lconn e.conn).map (fun x => x.msgs.any (fun m => m.ptype == 1 && m.msn == e.id && !m.begun))).getD false

/-- A completion that the network has not taken yet is kept in sight, and its completion slot with it (Table 1.4, stage 1; R46, R54). -/
def State.egressKeep (s : State) (r : Req) (nvt : Bool) (conn id : Nat) : State :=
  let e : Egress := ⟨r.tag, nvt, conn, id, r.cls, r.deadline, r.escalated, AL.getD 4 0 r.held⟩
  if s.egressWaits e then
    ({ s with adm := { s.adm with egress := s.adm.egress ++ [e] } } : State).modReq r.tag (fun r => { r with held := AL.del 4 r.held })
  else s

/-- Pieces of 4 KiB of a message that are in it and have not left whole. -/
def LdtTx.unsent (m : LdtTx) (seg : Nat) : Nat :=
  let left := m.left seg
  let piece (b : Nat) : Bool := left.any (fun o => decide (o / 4096 ≤ b) && decide (b ≤ (o + min seg (m.payload - o) - 1) / 4096))
  ((match m.blocksIn with
    | some bs => bs
    | none => List.range (ceilDiv m.payload 4096)).filter piece).length

/-- Delivery units that data on its way out still needs (R46): on NVT for each 4 KiB that waits behind the connection's window, on LDT for
each piece of its message that is not yet cut into packets. -/
def State.unitsLeft (s : State) (e : Leaving) : Nat :=
  if e.nvt then
    min e.units ((((s.conn e.conn).map (fun x => x.outQ.filter (fun o => o.kind == 7 && o.args.head? == some e.id))).getD []).map
      (fun o => o.args.length - 4)).sum
  else match (s.lconn e.conn).bind (fun x => (x.msgs.find? (fun m => m.ptype == 2 && m.msn == e.id)).map (fun m => m.unsent (segBytes x.seg))) with
    | none => 0
    | some 0 => 0
    | some n => if e.whole then e.units else min e.units n

/-- Units of read data return as the network takes it (R46). -/
def State.leavingTrim (s : State) : State :=
  let back := (s.adm.leaving.map (fun e => e.units - s.unitsLeft e)).sum
  let left := (s.adm.leaving.map (fun e => { e with units := s.unitsLeft e })).filter (fun e => e.units != 0)
  ({ s with adm := { s.adm with leaving := left } } : State).poolGive 3 back

/-- Delivery units of a read pass from it to data that leaves (R46). -/
def State.leave (s : State) (tag n : Nat) (nvt : Bool) (conn id : Nat) (whole : Bool) : State :=
  match s.req tag with
  | some r =>
    let k := min n (AL.getD 3 0 r.held)
    let same (e : Leaving) : Bool := e.nvt == nvt && e.conn == conn && e.id == id
    let l := if s.adm.leaving.any same then s.adm.leaving.map (fun e => if same e then { e with units := e.units + k } else e)
      else s.adm.leaving ++ [⟨nvt, conn, id, k, whole⟩]
    ({ s with adm := { s.adm with leaving := l } } : State).modReq tag (fun r => { r with held := AL.put 3 (AL.getD 3 0 r.held - k) r.held })
  | none => s

/-- A read of the self-test did not authenticate: its segment has failed (R452). -/
def State.selftestFailed (s : State) : State :=
  s.modHost (fun h => { h with selftest := h.selftest.map (fun t => { t with failed := if t.failed = 0 then 5 else t.failed }) })

/-- Complete a request: its latency sample, its counts, its completion, and everything it still holds returns. -/
def State.complete (s : State) (tag : Nat) : State :=
  match s.req tag with
  | none => s
  | some r =>
    let s := s.sampleDone r
    let s := if r.kind = .read ∧ r.cond = 0 ∧ r.origin ≠ .selftest then s.readCount r else s
    let s := match r.origin with
      | .nvt c cid => (((s.nvtStats c r).healthCounts r).nvmeResp c cid (nvmeOf r.cond) r.dw0 0).egressKeep r true c cid
      | .ldt n ctag =>
        let msn := ((s.lconn n).map (fun (x : LdtConn) => x.txMsn)).getD 0
        ((s.healthCounts r).lbcComplete n ctag r).egressKeep r false n msn
      | .selftest => if r.cond = 0 then s else s.selftestFailed
      | _ => s
    s.dropReq tag

/-- The completions and the data that the network has taken are done with: their slots and units return (R46). -/
def State.egressTrim (s : State) : State :=
  let (stay, gone) := s.adm.egress.partition (fun e => s.egressWaits e)
  (({ s with adm := { s.adm with egress := stay } } : State).poolGive 4 (gone.map (·.slots)).sum).leavingTrim

/-! ### What the slice finds (R131 to R136, R366 to R368, R553) -/

/-- The handle under which a read's copy is opened: its vat's key of the entry's generation, or for a foreign chunk of the
current one (R132, R553). -/
def State.copyHandle (s : State) (r : Req) (cid : Nat) : Nat :=
  let v := ((AL.get r.vol s.vat.vols).map (·.vat)).getD 0
  hVat v (if 2 ^ 52 ≤ cid then ((AL.get v s.vat.vats).map (·.keyGen)).getD 0 else (s.entOf r.tag cid).keyGen)

/-- A read whose copies a slice decrypts: the chunks of a published vat leave undecrypted for FETCH and REP_CHUNKS (R551,
R560). -/
def State.decrypts (s : State) (r : Req) : Bool :=
  let v := ((AL.get r.vol s.vat.vols).map (·.vat)).getD 0
  r.kind == .read || (r.kind == .repChunks && !((AL.get v s.vat.vats).map (·.published)).getD false)

/-- A foreign copy that failed: one from the read cache is dropped and the chunk is fetched; else the next home is asked
(R133, R553). -/
def State.foreignBad (s : State) (r : Req) (cid : Nat) : State :=
  let s := (s.authFail r.slice (cid % 2 ^ 40)).bump F.RDP_CNT_AUTH_COUNT
  let cached := (s.fetchesOf r.tag cid).any (fun q => q.2.mode == .cache)
  let s := s.modRead (fun x => { x with fetches := x.fetches.map (fun q =>
    if q.2.tag = r.tag ∧ q.2.cid = cid then (q.1, { q.2 with mode := .foreign, left := 1, done := false }) else q) })
  if cached then (((s.modRead (fun x => { x with rch := AL.del cid x.rch })).bump F.RCH_CNT_DROP_COUNT).takePart r.tag 6 17).fabNeed
  else if ((AL.get cid s.fab.fetches).map (·.arrived)).getD false then
    (s.modFab (fun f => { f with fetches := f.fetches.map (fun q => if q.1 = cid then (cid, { q.2 with arrived := false }) else q) })).fabNext cid
  else s.fabNeed

/-- The header of a copy fits (R131): its vat is the volume's, its key generation the entry's, and its fingerprint carries the entry's tag.
Of a foreign copy, which carries its header with it, the fingerprint's first 40 bits are the chunk's name, the key generation is the
vat's current one, and every index read lies in it (R553). -/
def State.headerOk (s : State) (r : Req) (cid vatH genH tagH : Nat) : Bool :=
  let e := s.entOf r.tag cid
  let v := ((AL.get r.vol s.vat.vols).map (·.vat)).getD 0
  if 2 ^ 52 ≤ cid then
    e.fp / 2 ^ 216 == cid % 2 ^ 40 && e.vat == v && e.keyGen == ((AL.get v s.vat.vats).map (·.keyGen)).getD 0
      && (r.blocksOf (.foreign cid)).all (fun q => decide (q.2 < e.orig))
  else vatH == v && genH == e.keyGen && tagH == e.fpTag

/-- A copy's tag and header have been compared, its decrypt pass having run where the header allowed it (R131, R366, R367). -/
def State.chunkChecked (s : State) (r : Req) (cid : Nat) (ok : Bool) : State :=
  let e := s.entOf r.tag cid
  let v := ((AL.get r.vol s.vat.vols).map (·.vat)).getD 0
  let far := decide (2 ^ 52 ≤ cid)
  if ok then
    let s := if far then s.modFab (fun f => { f with fetches := f.fetches.filter (fun q => !(q.1 == cid && q.2.arrived)) }) else s
    s.copyGood r cid (if far then .foreign cid else .chunk cid) e v
  else if far then s.foreignBad r cid
  else s.copyBad r cid

/-- A read's slice work is done: its cipher context returns (R46, R349). A read for an LDT connection has its deliver pass still to run, and
keeps it to its end (R137). A self-test's read is done (R452). -/
def State.sliceDone (s : State) (tag : Nat) : State :=
  match s.req tag with
  | some r =>
    let far := match r.origin with | .ldt _ _ => true | _ => false
    if r.sources = [] ∧ r.parts ≤ r.part ∧ r.kind = .read ∧ far = false then
      if r.origin = .selftest then s.finish tag 0 else s.reqGive tag 1
    else s
  | none => s

/-- A read's pass names a handle that is not for it: it has ended, and the read fails (R354; log entry 130). -/
def State.readRefused (s : State) (tag h : Nat) : State := ((s.useRefused h).readFail tag Cond.MEDIA_INTEGRITY 0).wakeHeld

/-- The decrypt pass of a copy: it runs as its slice has segments, once its key is there, then its tag decides; a copy whose header does
not fit is not decrypted (R131, R132, R345, R356). -/
def State.copyPass (s : State) (r : Req) (cid vatH genH tagH : Nat) (tagOk : Bool) : State :=
  let h := s.copyHandle r cid
  if !s.copyReady r.tag cid then s
  else if !s.headerOk r cid vatH genH tagH then s.chunkChecked r cid false
  else if !KeyPass.chunk.allows h then s.readRefused r.tag h
  else if !s.keyReady r.slice h then s
  else
    let n := replyUnits (s.entOf r.tag cid).len
    let (ran, s) := s.segRun r.slice [0] (.copy r.tag cid) n r.tag false
    if ran then (s.bump (F.DSL_CPH_CNT_SEG_COUNT r.slice) n).chunkChecked r cid tagOk else s

/-- The decrypt pass of a journal record (R136). -/
def State.recPass (s : State) (r : Req) (k : Nat) (tagOk : Bool) : State :=
  match AL.get k s.write.recs with
  | none => s
  | some j =>
    let h := s.recHandle j
    if !r.sources.any (fun q => q.2 == .journal k || q.2 == .peerJournal k) ∨ r.recWait.contains k then s
    else if !KeyPass.record.allows h then s.readRefused r.tag h
    else if !s.keyReady r.slice h then s
    else
      let (ran, s) := s.segRun r.slice [0] (.copy r.tag (recCid k)) 1 r.tag false
      if ran then (s.bump (F.DSL_CPH_CNT_SEG_COUNT r.slice)).recChecked r k tagOk else s

/-- `SLICE_TAG_CHECK` (R131 to R136, R366, R367): once the copy is whole and its key is in the slice (R356). -/
def execSliceTagCheck (tag cid vatH genH tagH : Nat) (tagOk : Bool) (s : State) : Res :=
  .next (match s.req tag with
    | none => s
    | some r =>
      if !s.decrypts r ∨ r.stage = .completing then s
      else if 2 ^ 40 ≤ cid ∧ cid < 2 ^ 52 then (s.recPass r (cid - 2 ^ 40) tagOk).sliceDone tag
      else (s.copyPass r cid vatH genH tagH tagOk).sliceDone tag)

/-! ### Inflation (R134, R368, R395 to R402) -/

/-- What the inflate job of a chunk comes to: its stream decides, and a segment with more than one block header may use up its cycles
(R397 to R400). -/
def CtbEnt.inflated (e : CtbEnt) (slow : Bool) (bitOff outBytes : Nat) : Infl :=
  let x := inflate e.plain e.streamLen (4096 * e.orig)
  if slow ∧ x.crowded then { x with cond := Cond.INFLATE_SLOW, bit := bitOff, n := outBytes } else x

/-- Inflater segments of a job: one for each 4,096 bytes it writes, and the one in which it ends. -/
def Infl.segs (x : Infl) (orig : Nat) : Nat := if x.cond = 0 then orig else min (max 1 orig) (x.n / 4096 + 1)

/-- `INFLATE_JOB_END` (R134, R395 to R402): the inflate job of a chunk, whose tag has verified, runs on its unit; what it wrote is handed
on, or its condition ends the read and what it wrote is zeroed. -/
def execInflateJobEnd (tag cid : Nat) (slow : Bool) (bitOff outBytes : Nat) (s : State) : Res :=
  .next (match s.req tag with
    | none => s
    | some r =>
      let src : Source := if 2 ^ 52 ≤ cid then .foreign cid else .chunk cid
      let e := s.entOf r.tag cid
      let i := r.slice
      if r.kind ≠ .read ∨ r.stage = .completing ∨ r.compressed ∨ e.raw ∨ !r.verified.contains cid ∨ !r.sources.any (fun q => q.2 == src) then s
      else match s.inflOf i tag with
        | none => s
        | some (u, _) =>
          let x := e.inflated slow bitOff outBytes
          let n := x.segs e.orig
          let (ran, s) := s.unitRun i u (s.sliceCycles i / 1440) 6 (.copy tag cid) n tag false
          if !ran then s else
            let s := (s.bump (F.DSL_CMP_CNT_INFL_COUNT i) n).inflDone i tag cid
            if x.cond = 0 then
              let out := pieces e.orig x.out
              ((s.stageData r cid out).handOn r src { e with data := out }).sliceDone tag
            else
              ((s.inflFail i (cid % 2 ^ 40) x.cond x.bit x.n).readFail tag Cond.MEDIA_INTEGRITY x.cond).wakeHeld)

/-! ### Delivery (R137, R138, R141 to R144, R440, R494, R551, R560) -/

/-- A block that stands ready. -/
def Req.readyAt (r : Req) (lba : Nat) : Option Nat := (r.ready.find? (fun q => q.1 == lba)).map (·.2)

/-- Ready blocks in LBA order from the first not yet sent, at most 16 (R138, R440). -/
def Req.readyRun (r : Req) : Nat → Nat → List Nat
  | 0, _ => []
  | n + 1, lba => match r.readyAt lba with
    | some d => d :: r.readyRun n (lba + 1)
    | none => []

/-- Blocks are handed to delivery. -/
def State.handed (s : State) (tag : Nat) (lbas : List Nat) (count bytes : Nat) : State :=
  s.modReq tag (fun r => { r with
    delivered := r.delivered + count, placed := r.placed + bytes, sent := r.sent ++ lbas
    ready := r.ready.filter (fun q => !lbas.contains q.1) })

/-- NVT: one C2HData PDU of the next blocks, when the connection may send; the response follows the last (R440). -/
def State.nvtDeliver (s : State) (c cid : Nat) (r : Req) : State :=
  let at_ := r.lba + r.delivered
  let run := r.readyRun 16 at_
  let n := run.length
  match s.conn c with
  | none => s
  | some x =>
    if n = 0 then s
    else if s.tcpMay c x && x.outQ == [] then
      let isLast := r.delivered + n == r.blocks
      let s := s.handed r.tag ((List.range n).map (at_ + ·)) n 0
      let s := s.tcpSend c 7 ([cid, 4096 * r.delivered, 4096 * n, b2n isLast] ++ run) (24 + 4096 * n + x.dgst true)
      let s := (s.leave r.tag n true c cid false).leavingTrim
      if isLast then s.complete r.tag else s
    else s.modConn c (fun x => { x with pendBeat := x.pendBeat <|> some s.beat })

/-- Every block of a part has come through the slice. -/
def Req.partWhole (r : Req) (p : Nat) : Bool :=
  decide (p < r.part) && decide (64 * p < max 1 r.blocks)
    && !r.sources.any (fun q => decide (r.lba + 64 * p ≤ q.1) && decide (q.1 < r.lba + 64 * p + 64))

/-- The key of a connection is in a slice, for its deliver pass; a generation that has changed meanwhile is asked for (R356, R473). -/
def State.deliverKey (s : State) (n : Nat) (r : Req) : Bool × State :=
  let h := ldtHandle n (((s.lconn n).map (·.txGen)).getD 0)
  if !KeyPass.deliver.allows h then (false, s.readRefused r.tag h)
  else if s.keyReady r.slice h then (true, s)
  else (false, s.keyAsk r.slice r.tag h)

/-- The name in a slice of the copy from which a source's blocks come. -/
def Source.copyName : Source → Option Nat
  | .chunk c => some c
  | .foreign c => some c
  | .journal k => some (recCid k)
  | .peerJournal k => some (recCid k)
  | _ => none

/-- The deliver pass has consumed what a copy held in staging once every block that it gave has left (R350, R352). -/
def State.unstageSent (s : State) (tag : Nat) : State :=
  match s.req tag with
  | none => s
  | some r =>
    let open_ (c : Nat) : Bool := r.resolvedAs.any (fun q => q.2.copyName == some c && !r.sent.contains q.1)
    ((r.resolvedAs.filterMap (fun q => q.2.copyName)).eraseDups.filter (fun c => !open_ c)).foldl (fun s c => s.unstage r.slice (.copy tag c)) s

/-- The WRITE message of a part, which begins with the first of its blocks that is ready (R138, R494). -/
def State.partMsg (s : State) (n : Nat) (r : Req) (p : Nat) : Nat × State :=
  match AL.get p r.msgs, s.lconn n with
  | some m, _ => (m, s)
  | none, some x =>
    let m : LdtTx := { msn := x.txMsn, ptype := 2, mlen := 4096 * (r.partBlocks p).length, addr := r.bufAddr + 262144 * p, blocksIn := some [] }
    (x.txMsn, (s.modLconn n (fun x => { x with msgs := x.msgs ++ [m], txMsn := x.txMsn + 1 })).modReq r.tag (fun r => { r with
      msgs := AL.put p x.txMsn r.msgs, sentParts := r.sentParts + 1 }))
  | none, none => (0, s)

/-- A block is in a message. -/
def State.blockIn (s : State) (n msn b data : Nat) : State :=
  s.modLconn n (fun x => { x with
    pendBeat := x.pendBeat <|> some s.beat
    msgs := x.msgs.map (fun m => if m.ptype = 2 ∧ m.msn = msn then
      { m with data := m.data + data * 256 ^ (4096 * b), blocksIn := m.blocksIn.map (· ++ [b]) } else m) })

/-- The deliver pass of a ready block: as the slice has a segment for it, it is encrypted into the WRITE message of its part (R137,
R138, R345, R494). -/
def State.ldtBlock (s : State) (n tag lba : Nat) : State :=
  match s.req tag with
  | none => s
  | some r =>
    match r.readyAt lba with
    | none => s
    | some d =>
      let (ran, s) := s.segRun r.slice [0] (.deliver tag) 1 tag false
      if !ran then s else
        let (msn, s) := s.partMsg n r ((lba - r.lba) / 64)
        ((((s.bump (F.DSL_CPH_CNT_SEG_COUNT r.slice)).blockIn n msn ((lba - r.lba) % 64) d).handed tag [lba] 1 4096).leave tag 1 false n msn
          false).unstageSent tag

/-- LDT: each block that is ready is placed, in the WRITE message of its part; the completion follows the last (R138, R494). -/
def State.ldtDeliver (s : State) (n : Nat) (r : Req) : State :=
  if r.ready = [] then s else
    match s.deliverKey n r with
    | (false, s) => s
    | (true, s) =>
      let s := (((sortBy id (r.ready.map (·.1))).foldl (fun (s : State) l => s.ldtBlock n r.tag l) s).ldtGo n).leavingTrim
      if ((s.req r.tag).map (fun r => r.delivered == r.blocks)).getD false then s.complete r.tag else s

/-- Runs of up to 16 zero blocks of a list in order: (first, count), the short piece of a longer run first (R142; log entry 130). -/
def zeroRuns : List Nat → List (Nat × Nat)
  | [] => []
  | a :: t => match zeroRuns t with
    | (b, n) :: u => if a + 1 = b ∧ n < 16 then (a, n + 1) :: u else (a, 1) :: (b, n) :: u
    | [] => [(a, 1)]

/-- The record of a run of zero blocks: the fields that name a chunk's length, first index and coding are free values, for
there is no chunk (Table 3.7). -/
def State.cdZero (s : State) (q : Nat × Nat) : CdRec × State :=
  let (v, s) := s.free 12
  ({ lba := q.1, count := q.2, desc := cdDesc 0 (v / 4) q.2 (v % 4 * 2 + 1) q.1, len := 0, stream := 0 }, s)

/-- Bytes of a record: descriptor, stream and padding (R141). -/
def CdRec.bytes (c : CdRec) : Nat := 16 + 8 * ceilDiv c.len 8

/-- The leading whole records that fit in a length (R144). -/
def cdFit : Nat → List CdRec → List CdRec
  | _, [] => []
  | room, c :: t => if c.bytes ≤ room then c :: cdFit (room - c.bytes) t else []

/-- The records of a list as one string of bytes. -/
def cdData : List CdRec → Nat
  | [] => 0
  | c :: t => c.desc + c.stream * 256 ^ 16 + cdData t * 256 ^ c.bytes

/-- The records of a part in LBA order, and the state with the free values they took. -/
def State.cdPart (s : State) (r : Req) (p : Nat) : List CdRec × State :=
  let here (l : Nat) : Bool := decide (r.lba + 64 * p ≤ l) && decide (l < r.lba + 64 * (p + 1))
  let (zs, s) := (zeroRuns (sortBy id (r.zeroAt.filter here))).foldl (fun (acc : List CdRec × State) q =>
    let (c, s) := acc.2.cdZero q
    (acc.1 ++ [c], s)) ([], s)
  (sortBy CdRec.lba (r.cdRecs.filter (fun c => here c.lba) ++ zs), s)

/-- A compressed delivery: the records of one part, once all have come, in one WRITE message after those before it; when the buffer cannot hold
them all the leading whole ones, and the read ends with `DELIVERY_BUFFER_SHORT` (R141 to R144). -/
def State.ldtDeliverCd (s : State) (n : Nat) (r : Req) : State :=
  let p := r.sentParts
  if !r.partWhole p then s else
    match s.deliverKey n r with
    | (false, s) => s
    | (true, s) =>
      let (cs, s) := s.cdPart r p
      let fit := cdFit (r.bufLen - r.placed) cs
      let len := (fit.map CdRec.bytes).sum
      let k := (fit.map (·.count)).sum
      let segs := ceilDiv len 4096
      let (ran, s) := s.segRun r.slice [0] (.deliver r.tag) segs r.tag false
      if !ran then s else
        let msn := ((s.lconn n).map (fun (x : LdtConn) => x.txMsn)).getD 0
        let s := if fit = [] then s
          else (s.bump (F.DSL_CPH_CNT_SEG_COUNT r.slice) segs).ldtMsg n 2 len (r.bufAddr + r.placed) (cdData fit)
        let s := ((s.handed r.tag (r.partBlocks p) k len).modReq r.tag (fun r => { r with sentParts := p + 1 })).unstageSent r.tag
        let s := (s.leave r.tag ((r.partBlocks p).length + 32) false n msn true).leavingTrim
        if fit.length < cs.length then (s.modReq r.tag (fun r => { r with cond := Cond.DELIVERY_BUFFER_SHORT })).complete r.tag
        else if p + 1 = r.parts then (s.modReq r.tag (fun r => { r with delivered := r.blocks })).complete r.tag
        else s

/-- The chunk of a source. -/
def Source.cidOf : Source → Option Nat
  | .chunk c => some c
  | _ => none

/-- A FETCH at the home head: the stored chunk in one WRITE message (R551). -/
def State.fetchDeliver (s : State) (n : Nat) (r : Req) : State :=
  match (r.sources.head?).bind (fun q => q.2.cidOf) with
  | some cid =>
    if r.part = 0 ∨ !s.copyReady r.tag cid then s else
    match s.deliverKey n r with
    | (false, s) => s
    | (true, s) =>
      let e := s.entOf r.tag cid
      let (ran, s) := s.segRun r.slice [0] (.deliver r.tag) (replyUnits e.len) r.tag false
      if !ran then s else
      let msn := ((s.lconn n).map (fun (x : LdtConn) => x.txMsn)).getD 0
      let s := (s.copyUsed r.tag cid).ldtMsg n 2 (512 * e.len) r.bufAddr e.stored
      let s := ((s.bump F.FAB_CNT_SERVED_COUNT).bump (F.DSL_CPH_CNT_SEG_COUNT r.slice) (replyUnits e.len)).modReq r.tag
        (fun r => { r with placed := 512 * e.len, delivered := 1 })
      let s := (s.leave r.tag 17 false n msn true).leavingTrim
      s.complete r.tag
  | none => s

/-- A chunk record of REP_CHUNKS: the stored chunk of a published vat, else the stream in stored form with `NONCE` and `TAG`
zero (R560). -/
def CtbEnt.repRecord (e : CtbEnt) (published : Bool) : Nat :=
  if published then e.stored else { e with nonce := 0 }.header + e.stream * 2 ^ 512

/-- REP_CHUNKS: a WRITE message of one record per LBA, once every chunk has come (R560). -/
def State.repDeliver (s : State) (n : Nat) (r : Req) : State :=
  let pub := !s.decrypts r
  let cids := srcChunks r.sources
  if r.part = 0 ∨ cids.any (fun c => !(if pub then s.copyReady r.tag c else r.verified.contains c)) then s else
    match s.deliverKey n r with
    | (false, s) => s
    | (true, s) =>
    let need := ((r.ranges.filterMap (fun q => (r.sources.find? (fun x => x.1 == q.1)).bind (fun x => x.2.cidOf))).map (fun c => replyUnits (s.entOf r.tag c).len)).sum
    let (ran, s) := s.segRun r.slice [0] (.deliver r.tag) need r.tag false
    if !ran then s else
    let (len, s) := (r.ranges.zipIdx).foldl (fun (acc : Nat × State) (q : (Nat × Nat) × Nat) =>
      match (r.sources.find? (fun x => x.1 == q.1.1)).bind (fun x => x.2.cidOf) with
      | some cid =>
        let e := acc.2.entOf r.tag cid
        let k := 512 * e.len
        let msn := ((acc.2.lconn n).map (fun (x : LdtConn) => x.txMsn)).getD 0
        (acc.1 + k, ((acc.2.bump (F.DSL_CPH_CNT_SEG_COUNT r.slice) (replyUnits e.len)).ldtMsg n 2 k (r.bufAddr + 66048 * q.2) (e.repRecord pub)).leave
          r.tag 17 false n msn true)
      | none => acc) (0, s)
    let s := cids.foldl (fun s c => s.copyUsed r.tag c) s.leavingTrim
    ((s.bump F.REP_CNT_SERVED_COUNT).modReq r.tag (fun r => { r with placed := len, delivered := r.blocks })).complete r.tag

/-- `DELIVERY_EGRESS` (R137, R138): the network takes what is ready of a read. -/
def execDeliveryEgress (tag : Nat) (s : State) : Res :=
  .next (match s.req tag with
    | none => s
    | some r =>
      if r.stage = .completing then s
      else match r.kind, r.origin with
        | .read, .nvt c cid => s.nvtDeliver c cid r
        | .read, .ldt n _ => if r.compressed then s.ldtDeliverCd n r else s.ldtDeliver n r
        | .fetch, .ldt n _ => s.fetchDeliver n r
        | .repChunks, .ldt n _ => s.repDeliver n r
        | _, _ => s)

/-! ### Write acknowledgement (R182, R187, R562) -/

/-- A Flush completes once every write it waits for is acknowledged or has ended (R187, R441). -/
def State.flushGo (s : State) : State :=
  (s.adm.reqs.filter (fun q => q.2.kind == .flush && q.2.stage == .acked)).foldl (fun (s : State) q =>
    if q.2.waitsOn.any (fun t => (s.req t).isSome) then s else s.complete q.1) s

/-- `WRITE_ACKNOWLEDGE` (R182): the beat after a command's records entered; in sync, once the remote head has completed it
too (R562). -/
def execWriteAcknowledge (tag : Nat) (s : State) : Res :=
  .next (match s.req tag with
    | none => s
    | some r =>
      if r.stage ≠ .entered ∨ s.beat ≤ r.endBeat ∨ s.fab.sync.any (fun c => c.2.tag == tag) then s
      else
        let synced := s.fab.links.any (fun l => !l.2.target && l.2.mode == 1 && l.2.st == 3 && l.2.localVol == r.vol)
        let s := if synced ∧ r.deadline < s.beat then s.bump F.REP_CNT_SYNC_LATE_COUNT else s
        (s.complete tag).flushGo)

/-! ### Stalled connections (R59, R60) -/

/-- The stall count of a connection. -/
def State.stallOf (s : State) (nvt : Bool) (conn : Nat) : Nat :=
  if nvt then ((s.conn conn).map (·.stall)).getD 0 else ((s.lconn conn).map (·.stall)).getD 0

/-- `EGRESS_STALL_RESET` (R59): a stall count above 4,096 resets the connection, and its commands end under R60. -/
def execEgressStallReset (nvt : Bool) (conn : Nat) (s : State) : Res :=
  .next (
    let k := s.stallOf nvt conn
    if k ≤ 4096 then s else
      let s := ((s.raise Slot.ADM Cond.EGRESS_STALL_RESET conn).satInc F.ADM_STAT_EGRESS_RESETS 1).sample 32 k
      if nvt then s.connEnd conn true [] else (s.bump (F.LDT_CNT_STALL_RESET_COUNT (ldtUnit conn))).ldtClose conn true)

end Sys2Proof.Machine
end

