-- ==== Sys2Proof/Machine/Keys.lean ====
section
/-! DEFINITION. Chapter 14: the key service, keyed HMACs, quotes, fuses, the random generator and the settings that keep
keys. What RFC 3394, the signatures and the key derivations compute is opaque (log entry 6). -/

namespace Sys2Proof.Machine

/-! ### Settings (Table 16.8, R633) -/

/-- Change the boot flash. -/
def State.modFlash (s : State) (f : FlashSt → FlashSt) : State := { s with flash := f s.flash }

/-- The settings slot in use. -/
def State.settings (s : State) : Settings := AL.getD s.flash.slot {} s.flash.slots

/-- Write an item of the slot in use, and count the change (R633). The key of slot `k` stands as item 0x80000 + k, with its `USE`
above the low 16 bits of its length. -/
def State.putItem (s : State) (id value len : Nat) : State :=
  s.modFlash (fun f => { f with slots := AL.upd f.slot {} (fun x => { x with
    items := (x.items.filter (fun q => q.1 != id)) ++ [(id, value, len)], changes := x.changes + 1 }) f.slots })

/-- An item of the slot in use. -/
def State.item (s : State) (id : Nat) : Option Nat := ((s.settings.items.find? (fun q => q.1 == id)).map (fun q => q.2.1))

/-! ### Requests (R591) -/

/-- Word `i` of a request block. -/
def State.blkWord (s : State) (a i : Nat) : Nat := s.word (a + 8 * i)

/-- An HBM address argument. -/
def State.blkAddr (s : State) (a i : Nat) : Nat := bitsOf (s.blkWord a i) 0 48

/-- A wrapped key of `n` bytes from word `i` of a block, as a number. -/
def State.blkKey (s : State) (a i n : Nat) : Nat := ofBytes (s.bytesAt (a + 8 * i) n)

/-- The operation code of a block. -/
def State.blkOp (s : State) (a : Nat) : Nat := bitsOf (s.blkWord a 0) 56 8

/-- The page a condition belongs to: the first of its block. -/
def condSlot (c : Nat) : Nat := ((directory.find? (fun d => d.1 == c / 256)).map (fun d => d.2.2.2)).getD Slot.SEC

/-- The first request of the key service ends with a condition, 0 on success (R591): the block and the registers show it,
and the word is posted back with bit 0 set. -/
def State.keyEnd (s : State) (cond : Nat) : State :=
  match s.mbx.keyQ with
  | [] => s
  | (c, a) :: t =>
    let op := s.blkOp a
    let s := s.blockCond a cond
    let s := s.setAll [(F.SEC_SVC_LAST_OP, op), (F.SEC_SVC_LAST_CONDITION, cond), (F.SEC_SVC_LAST_BEAT, s.beat32),
      (F.KEY_CMD_STAT_BUSY, 0), (F.KEY_CMD_STAT_RESULT, if cond = 0 then 1 else 2), (F.KEY_CMD_STAT_CONDITION, cond)]
    let s := (s.bump F.SEC_CNT_REQ_COUNT).irq (Slot.SEC + 2) 1
    let s := if cond = 0 then s else (s.raise (condSlot cond) cond op).bump F.SEC_CNT_REFUSED_COUNT
    let s := if cond = Cond.KEY_USE_REFUSED then s.bump F.KEY_CNT_USE_REFUSED_COUNT else s
    let s := if cond = Cond.KEY_UNWRAP_FAIL then s.bump F.KEY_CNT_UNWRAP_FAIL_COUNT else s
    (s.modMbx (fun x => { x with keyQ := t })).mbxAnswer 1 c (a + 1)

/-- Requests at the front whose `OP` is none of Table 14.6 end with `KEY_REQ_INVALID`. -/
def State.keyInvalid : Nat → State → State
  | 0, s => s
  | n + 1, s => match s.mbx.keyQ with
    | (_, a) :: _ => if s.blkOp a = 0 ∨ 13 < s.blkOp a then (s.keyEnd Cond.KEY_REQ_INVALID).keyInvalid n else s
    | [] => s

/-- The word of a block that names the wrapping slot of an operation. -/
def kekWord : Nat → Option Nat
  | 1 => some 3
  | 3 => some 4
  | 6 => some 2
  | 7 => some 2
  | 8 => some 1
  | 9 => some 1
  | _ => none

/-- A wrapping slot has been used in KEY: the operation succeeded, or its unwrap failed. -/
def State.kekUsed (s : State) (a op c : Nat) : State :=
  match kekWord op with
  | some w => if c = 0 ∨ c = Cond.KEY_UNWRAP_FAIL then s.keyUsed (hSlot (s.blkWord a w)) else s
  | none => s

/-- Run the first request of the key service where it is of operation `op` and none runs: `f` gives its condition and the
state it leaves, from the block's address. After a debug unlock every operation fails (R598). -/
def State.keyRun (s : State) (op : Nat) (f : State → Nat → Nat × State) : State :=
  let s := s.keyInvalid s.mbx.keyQ.length
  match s.mbx.keyQ, s.sec.hmacTag with
  | (_, a) :: _, none =>
    if s.blkOp a ≠ op then s
    else if s.get F.SEC_DBG_STAT_STATE = 2 then s.keyEnd Cond.DEBUG_KEYS_ERASED
    else
      let (c, t) := f s a
      if c = 0 then (t.kekUsed a op 0).keyEnd 0 else (s.kekUsed a op c).keyEnd c
  | _, _ => s

/-- The key of a wrapping slot, or why it may not be used: empty, or without WRAP (Table 14.6). -/
def State.kek (s : State) (slot : Nat) : Nat ⊕ Nat :=
  match AL.get (hSlot slot) s.sec.handles with
  | some k => if k.removing then .inr Cond.KEY_SLOT_EMPTY else if bitOf k.use 4 then .inl k.value else .inr Cond.KEY_USE_REFUSED
  | none => .inr Cond.KEY_SLOT_EMPTY

/-- Unwrap a key under a wrapping slot (R589). -/
def State.unwrap (s : State) (slot wrapped : Nat) : Nat ⊕ Nat :=
  match s.kek slot with
  | .inr c => .inr c
  | .inl k => match Config.keyUnwrap k wrapped with
    | some v => .inl v
    | none => .inr Cond.KEY_UNWRAP_FAIL


/-- The generations of a vat that KEY holds. -/
def State.vatGens (s : State) (v : Nat) : List Nat :=
  (s.sec.handles.filter (fun q => hKind q.1 == 1 && q.1 / 256 % 4096 == v)).map (fun q => q.1 % 256)

/-! ### Operations 1 to 9 (Table 14.6; arguments stand in words 1 on, in the table's order: log entry 36) -/

/-- `INSTALL_VAT_KEY` (R223, R585). -/
def execInstallVatKey (s : State) : Res :=
  .next (s.keyRun 1 (fun s a =>
    let v := s.blkWord a 1
    let g := s.blkWord a 2
    if 4095 < v ∨ 255 < g ∨ ((AL.get v s.vat.vats).map (fun x => x.state == 3)).getD false then (Cond.KEY_REQ_INVALID, s)
    else match s.unwrap (s.blkWord a 3) (s.blkKey a 4 40) with
      | .inr c => (c, s)
      | .inl k =>
        let gens := s.vatGens v
        if !gens.contains g && decide (2 ≤ gens.length) then (Cond.KEY_EXISTS, s)
        else (0, s.keyPut (hVat v g) { value := k })))

/-- `REMOVE_VAT_KEY` (R358). -/
def execRemoveVatKey (s : State) : Res :=
  .next (s.keyRun 2 (fun s a =>
    let v := s.blkWord a 1
    let g := s.blkWord a 2
    if 4095 < v ∨ 255 < g ∨ !s.keyHeld (hVat v g) then (Cond.KEY_REQ_INVALID, s) else (0, s.keyRemove (hVat v g))))

/-- `INSTALL_SLOT` (R589); with PERSIST the key is kept in settings. -/
def execInstallSlot (s : State) : Res :=
  .next (s.keyRun 3 (fun s a =>
    let k := s.blkWord a 1
    let len := s.blkWord a 3
    if k = 0 ∨ 4095 < k ∨ 31 < s.blkWord a 2 ∨ (len ≠ 32 ∧ len ≠ 64) then (Cond.KEY_REQ_INVALID, s)
    else match s.unwrap (s.blkWord a 4) (s.blkKey a 5 (len + 8)) with
      | .inr c => (c, s)
      | .inl v =>
        if AL.has (hSlot k) s.sec.handles then (Cond.KEY_EXISTS, s)
        else
          let s := s.keyPut (hSlot k) { use := s.blkWord a 2, long := len == 64, value := v }
          (0, if bitOf (s.blkWord a 2) 0 then s.putItem (0x80000 + k) v (s.blkWord a 2 * 65536 + len) else s)))

/-- `IMPORT_KEK` (R589): slot, `USE` and key as the blob gives them; `authOk` when its root keys hash to `ROOT_I` and both
signatures verify. -/
def execImportKek (slot use key : Nat) (authOk : Bool) (s : State) : Res :=
  .next (s.keyRun 4 (fun s a =>
    if slot = 0 ∨ 4095 < slot ∨ 31 < use ∨ !inHbm (s.blkAddr a 1) (s.blkWord a 2) then (Cond.KEY_REQ_INVALID, s)
    else if AL.has (hSlot slot) s.sec.handles then (Cond.KEY_EXISTS, s)
    else if !authOk || s.sec.fuses.rootI.isNone then (Cond.KEY_IMPORT_AUTH_FAIL, s)
    else
      let s := s.keyPut (hSlot slot) { use := use, value := key }
      (0, if bitOf use 0 then s.putItem (0x80000 + slot) key (use * 65536 + 32) else s)))

/-- `REMOVE_SLOT` (R358). -/
def execRemoveSlot (s : State) : Res :=
  .next (s.keyRun 5 (fun s a =>
    let k := s.blkWord a 1
    if !s.keyHeld (hSlot k) then (Cond.KEY_SLOT_EMPTY, s)
    else
      let s := s.keyRemove (hSlot k)
      (0, s.modFlash (fun f => { f with slots := AL.upd f.slot {} (fun x => { x with
        items := x.items.filter (fun q => q.1 != 0x80000 + k) }) f.slots }))))

/-- `SALT_EXPORT` (R591): 40 bytes of wrapped salt. -/
def execSaltExport (s : State) : Res :=
  .next (s.keyRun 6 (fun s a =>
    let v := s.blkWord a 1
    if !AL.has v s.vat.vats then (Cond.VAT_ABSENT, s)
    else match s.kek (s.blkWord a 2) with
      | .inr c => (c, s)
      | .inl k => (0, s.putBytes (s.blkAddr a 3) (beBytes 40 (Config.keyWrap k (s.saltOf v) 32)))))

/-- `SALT_IMPORT` (R591): only into an ACTIVE vat that is not published and holds no volume. -/
def execSaltImport (s : State) : Res :=
  .next (s.keyRun 7 (fun s a =>
    let v := s.blkWord a 1
    match AL.get v s.vat.vats with
    | none => (Cond.VAT_ABSENT, s)
    | some x =>
      if x.state ≠ 1 ∨ x.published ∨ s.vat.vols.any (fun q => q.2.vat == v) then (Cond.SALT_IMPORT_REFUSED, s)
      else match s.unwrap (s.blkWord a 2) (s.blkKey a 3 40) with
        | .inr c => (c, s)
        | .inl k => (0, (s.setVat v { x with salt := k }).keyStore (hSalt v))))

/-- `INSTALL_FABRIC_SALT` (R591). -/
def execInstallFabricSalt (s : State) : Res :=
  .next (s.keyRun 8 (fun s a =>
    if s.vat.vats.any (fun q => decide (0xF00 ≤ q.1)) then (Cond.FABRIC_SALT_IN_USE, s)
    else match s.unwrap (s.blkWord a 1) (s.blkKey a 2 40) with
      | .inr c => (c, s)
      | .inl k => (0, (s.keyPut (hSalt 0xF00) { value := k }).putItem 7 k 32)))

/-- `SET_PAIR_KEY` (R590). -/
def execSetPairKey (s : State) : Res :=
  .next (s.keyRun 9 (fun s a =>
    if s.mode ≠ .boot ∧ s.mode ≠ .service then (Cond.MODE_REQ_INVALID, s)
    else match s.unwrap (s.blkWord a 1) (s.blkKey a 2 40) with
      | .inr c => (c, s)
      | .inl k => (0, (s.modSec (fun x => { x with pairKey := some k })).putItem 6 k 32)))

/-! ### Operations 10 to 13 -/

/-- Bytes of a signature over bytes. -/
def signBytes (alg n : Nat) (l : List Nat) : List Nat := (List.range n).map (fun i => (Config.signature alg l i).toNat)

/-- The quote under a nonce (R592). -/
def State.quote (s : State) (nonce : List Nat) : List Nat :=
  let regs := (List.range 24).flatMap (fun k =>
    let x := s.msr k
    leNat 4 x.extends_ ++ (let b := beBytes (digestLen (msrAlg k)) x.value; b ++ List.replicate (48 - b.length) 0))
  let body := nonce ++ leNat 8 Config.chip.toNat ++ leNat 4 (s.get F.SEC_BOOT_COUNT_COUNT) ++ [s.get F.SEC_DBG_STAT_STATE] ++ [0, 0, 0] ++ regs
  let d := beBytes 48 (digestOf 2 body)
  body ++ signBytes 0 96 d ++ signBytes 1 4627 d

/-- `QUOTE` (R592): the nonce stands in words 1 to 4. -/
def execQuote (s : State) : Res :=
  .next (s.keyRun 10 (fun s a =>
    let out := s.blkAddr a 5
    if !inHbm out 6019 then (Cond.KEY_REQ_INVALID, s) else (0, s.putBytes out (s.quote (s.bytesAt (a + 8) 32)))))

/-- `IDENTITY` (R584): the ECDSA, ECDH, ML-DSA and ML-KEM public keys, in that order. -/
def execIdentity (s : State) : Res :=
  .next (s.keyRun 11 (fun s a =>
    let key (k n : Nat) : List Nat := (List.range n).map (fun i => (Config.pubKey k i).toNat)
    (0, s.putBytes (s.blkAddr a 1) (key 0 97 ++ key 1 97 ++ key 2 2592 ++ key 3 1568))))

/-- `RANDOM` (R596): while the generator recovers the request waits (R595). -/
def execRandom (s : State) : Res :=
  .next (if s.get F.SEC_ENT_STAT_STATE = 3 then s else s.keyRun 12 (fun s a =>
    let n := s.blkWord a 1
    if s.get F.SEC_DRBG_STAT_READY = 0 then (Cond.ENTROPY_FAIL, s)
    else if n = 0 ∨ 4096 < n ∨ !inHbm (s.blkAddr a 2) n then (Cond.KEY_REQ_INVALID, s)
    else
      let k := s.sec.drbgCount
      let bytes := (List.range n).map (fun i => (Config.drbg k (i / 8)).toNat / 256 ^ (i % 8) % 256)
      (0, (s.draw256.2).putBytes (s.blkAddr a 2) bytes)))

/-- The slice of a keyed HMAC: of those `SLICE_EN` allows and that are enabled, the one with the most free digest contexts
(R593). -/
def State.hmacSlice (s : State) : Option Nat :=
  minBy (fun i => s.ctxUsed 2 i) ((List.range 16).filter (fun i => bitOf (s.get F.KEY_HMAC_CFG_SLICE_EN) i && s.accepts Blk.DSL i))

/-- `HMAC` (R593): the passes are class A work on a slice; the request ends with them. -/
def execHmac (s : State) : Res :=
  .next (
    let s := s.keyInvalid s.mbx.keyQ.length
    match s.mbx.keyQ, s.sec.hmacTag with
    | (_, a) :: _, none =>
      if s.blkOp a ≠ 13 then s
      else if s.get F.SEC_DBG_STAT_STATE = 2 then s.keyEnd Cond.DEBUG_KEYS_ERASED
      else
        let d := s.blkAddr a 2
        let alg := bitsOf (s.descWord d 0) 60 4
        match AL.get (hSlot (s.blkWord a 1)) s.sec.handles with
        | none => s.keyEnd Cond.KEY_SLOT_EMPTY
        | some k =>
          if k.removing then s.keyEnd Cond.KEY_SLOT_EMPTY
          else if !bitOf k.use 3 then s.keyEnd Cond.KEY_USE_REFUSED
          else if (alg ≠ 1 ∧ alg ≠ 2) ∨ bitsOf (s.descWord d 5) 0 8 ≠ 0 then s.keyEnd Cond.DIGEST_JOB_INVALID
          else match s.hmacSlice with
            | none => s
            | some i =>
              let (t, s) := s.newReq { tag := 0, kind := .hmac, origin := .internal, lba := d, blocks := 0, cls := 6, stage := .waiting
                                       slice := i, vol := s.blkWord a 1 } false
              (s.set F.KEY_CMD_STAT_BUSY 1).modSec (fun x => { x with hmacTag := some t })
    | _, _ => s)

/-- A keyed HMAC's passes end (R593): the checks of R373 hold for its descriptor too. -/
def State.hmacEnd (s : State) (r : Req) : State :=
  let a := r.lba
  let c := s.descCheck a false
  let key := ((AL.get (hSlot r.vol) s.sec.handles).map (·.value)).getD 0
  let alg := bitsOf (s.descWord a 0) 60 4
  let msg := s.descBytes a
  let s := (s.bump (F.DSL_DIG_CNT_BYTES_COUNT r.slice) msg.length).modSec (fun x => { x with hmacTag := none })
  let s := (s.sampleDone r).dropReq r.tag
  if c ≠ 0 then s.keyEnd c
  else (s.digestOut a ((Config.hmac key alg msg).toNat % 2 ^ (8 * digestLen alg))).keyEnd 0

/-- `DIGEST_JOB_END` (R373 to R376): an admitted job has run its segments. -/
def execDigestJobEnd (tag : Nat) (s : State) : Res :=
  .next (match s.req tag with
    | none => s
    | some r =>
      if r.stage ≠ .slice then s
      else if r.kind = .hmac then
        (if !KeyPass.hmac.allows (hSlot r.vol) then
          (((s.modSec (fun x => { x with hmacTag := none })).dropReq tag).raise Slot.KEY Cond.KEY_USE_REFUSED (hSlot r.vol)).keyEnd Cond.KEY_USE_REFUSED
         else if s.keyReady r.slice (hSlot r.vol) ∧ s.digestOver r (s.descCheck r.lba false) then s.hmacEnd r else s)
      else if r.kind = .digest then
        let c := s.descCheck r.lba r.compressed
        if !s.digestOver r c then s
        else if c ≠ 0 then s.digestEnd r c 0
        else
          let msg := s.descBytes r.lba
          (s.digestOut r.lba (digestOf (bitsOf (s.descWord r.lba 0) 60 4) msg)).digestEnd r 0 msg.length
      else s)

/-! ### Entropy (R594 to R596) -/

/-- The repetition count test (R594): a sample and how often it has just been repeated, from the sample before; it fails where a run
reaches the cutoff. -/
def rctFails (cutoff : Nat) : Nat → Nat → List Nat → Bool
  | _, _, [] => false
  | last, run, x :: t => let n := if x = last ∧ run ≠ 0 then run + 1 else 1
    decide (cutoff ≤ n) || rctFails cutoff x n t

/-- The adaptive proportion test over a window (R594): it fails where the window's first sample stands in it as often as the cutoff. -/
def aptFails (cutoff : Nat) : List Nat → Bool
  | [] => false
  | x :: t => decide (cutoff ≤ 1 + t.count x)

/-- `ENTROPY_STARTUP_TEST` (R594): 1,024 samples are judged; a fifth failure raises `ENTROPY_FAIL` and the head stays in BOOT. -/
def execEntropyStartupTest (samples : List Nat) (s : State) : Res :=
  .next (
    let rctFail := rctFails (s.get F.SEC_ENT_CFG_RCT_CUTOFF) 0 0 samples
    let aptFail := aptFails (s.get F.SEC_ENT_CFG_APT_CUTOFF) samples
    if s.get F.SEC_ENT_STAT_STATE ≠ 0 then s
    else if !rctFail && !aptFail then
      (s.set F.SEC_ENT_STAT_STATE 1).set F.SEC_DRBG_STAT_READY 1
    else
      let s := if rctFail then s.bump F.SEC_ENT_CNT_RCT_COUNT else s
      let s := if aptFail then s.bump F.SEC_ENT_CNT_APT_COUNT else s
      let s := s.modSec (fun x => { x with entFails := x.entFails + 1 })
      if 5 ≤ s.sec.entFails then
        let s := (s.set F.SEC_ENT_STAT_STATE 2).raise (Slot.SEC + 1) Cond.ENTROPY_FAIL
        { s with health := { s.health with bootHalted := true } }
      else s)

/-- `ENTROPY_TEST_FAIL` (R595): no output until 4,096 samples have passed; the sixteenth failure of an epoch is fatal. -/
def execEntropyTestFail (rct : Bool) (s : State) : Res :=
  .next (if s.get F.SEC_ENT_STAT_STATE ≠ 1 ∧ s.get F.SEC_ENT_STAT_STATE ≠ 3 then s else
    let s := s.bump (if rct then F.SEC_ENT_CNT_RCT_COUNT else F.SEC_ENT_CNT_APT_COUNT)
    let n := s.get F.SEC_ENT_STAT_FAILS + 1
    let s := s.setAll [(F.SEC_ENT_STAT_STATE, 3), (F.SEC_DRBG_STAT_READY, 0), (F.SEC_ENT_STAT_FAILS, n)]
    if n = 16 then s.raiseAt (Slot.SEC + 1) Cond.ENTROPY_FAIL n 6 else s.raise (Slot.SEC + 1) Cond.ENTROPY_FAIL n)

/-- `ENTROPY_RECOVERED` (R595). -/
def execEntropyRecovered (s : State) : Res :=
  .next (if s.get F.SEC_ENT_STAT_STATE = 3 then (s.set F.SEC_ENT_STAT_STATE 1).set F.SEC_DRBG_STAT_READY 1 else s)

/-- `DRBG_RESEED` (R596): after 65,536 requests or 16,384 beats. -/
def execDrbgReseed (s : State) : Res :=
  .next (if s.get F.SEC_ENT_STAT_STATE = 1 ∧ (65536 ≤ s.get F.SEC_DRBG_STAT_SINCE_RESEED ∨ s.sec.reseedBeat + 16384 ≤ s.beat) then
      ((s.set F.SEC_DRBG_STAT_SINCE_RESEED 0).bump F.SEC_CNT_RESEED_COUNT).modSec (fun x => { x with reseedBeat := s.beat })
    else s)

/-! ### Fuses (R571, R577) -/

/-- Change the fuses. -/
def State.modFuses (s : State) (f : Fuses → Fuses) : State := s.modSec (fun x => { x with fuses := f x.fuses })

/-- Result of `SEC_FUSE_PROG`: 1 done, 2 refused, 3 failed. -/
def State.fuseResult (s : State) (result cond : Nat) : State :=
  let s := s.setAll [(F.SEC_FUSE_PROG_STAT_BUSY, 0), (F.SEC_FUSE_PROG_STAT_RESULT, result), (F.SEC_FUSE_PROG_STAT_CONDITION, cond)]
  if cond = 0 then s else s.raise (Slot.SEC + 3) cond

/-- Whether R571 and R577 allow an operation. -/
def State.fuseAllowed (s : State) (op : Nat) : Bool :=
  let f := s.sec.fuses
  let granted := ((s.sec.fuseGrant).map (fun g => g.1 == op)).getD false
  match op with
  | 1 => decide (f.svnD < s.flash.owedD) && !s.flash.trial && decide (f.svnD < 64)
  | 2 => decide (f.svnI < s.flash.owedI) && !s.flash.trial && decide (f.svnI < 64)
  | 3 => granted && f.rootI.isNone
  | 4 => granted
  | 5 => granted && f.rootI.isSome && !f.debugDisable
  | _ => false

/-- Blow what an operation blows. -/
def Fuses.blow (f : Fuses) (op value : Nat) : Fuses :=
  match op with
  | 1 => { f with svnD := f.svnD + 1 }
  | 2 => { f with svnI := f.svnI + 1 }
  | 3 => { f with rootI := some value }
  | 4 => { f with debugDisable := true }
  | 5 => { f with debugRoot := true }
  | _ => f

/-- A write of `SEC_FUSE_PROG` (R571); `ok` when every blown bit reads back as 1. A bit that does not read back leaves the
fuse as it was (log entry 37). -/
def State.fuseProg (s : State) (op value : Nat) (ok : Bool) : State :=
  if !s.fuseAllowed op then s.fuseResult 2 Cond.FUSE_PROG_REFUSED
  else
    let s := s.modSec (fun x => { x with fuseGrant := none })
    if ok then (s.modFuses (fun f => f.blow op value)).fuseResult 1 0 else s.fuseResult 3 Cond.FUSE_PROG_FAIL

/-- A bus write of `SEC_FUSE_PROG` with an operation and the address of `ROOT_I`. -/
def fuseBus (m op addr : Nat) (ok : Bool) (s : State) : Res :=
  .next (s.busWr m (Slot.SEC + 3) 0x110 (fun s => s.fuseProg op (ofBytes (s.bytesAt addr 48)) ok))

/-- `FUSE_SVN_D` (R577). -/
def execFuseSvnD (m : Nat) (ok : Bool) (s : State) : Res := fuseBus m 1 0 ok s

/-- `FUSE_SVN_I` (R577). -/
def execFuseSvnI (m : Nat) (ok : Bool) (s : State) : Res := fuseBus m 2 0 ok s

/-- `FUSE_ROOT_I` (R571). -/
def execFuseRootI (m addr : Nat) (ok : Bool) (s : State) : Res := fuseBus m 3 addr ok s

/-- `FUSE_DEBUG_DISABLE` (R571). -/
def execFuseDebugDisable (m : Nat) (ok : Bool) (s : State) : Res := fuseBus m 4 0 ok s

/-- `FUSE_DEBUG_ROOT` (R571). -/
def execFuseDebugRoot (m : Nat) (ok : Bool) (s : State) : Res := fuseBus m 5 0 ok s

end Sys2Proof.Machine
end

