-- ==== Sys2Proof/Machine/Media.lean ====
section
/-! DEFINITION. Chapter 7: what a reply, a failed program or a link that goes down does to the work above it; training of
media links; credits and time-outs. -/

namespace Sys2Proof.Machine

/-! ### Ownership at the bricks (R327) -/

/-- Send SET_OWNER of a shard to a brick before anything else that waits; until its OK no PROGRAM, ERASE or DIE_RESET of
the shard goes there (R327). -/
def State.sendOwner (s : State) (k sh : Nat) : State :=
  let e := s.epochOf sh
  let o : MOp := { mtype := 5, epoch := e, arg := sh * 2 ^ 31 + s.side * 2 ^ 30, purpose := .setOwner sh e }
  let s := s.modBrick k (fun b => { b with owned := b.owned.filter (· != sh) })
  (s.modLink k (fun l => { l with waiting := o :: l.waiting })).pumpLink k

/-- The shards whose lease this head holds. -/
def State.heldShards (s : State) : List Nat := [0, 1].filter (fun sh => s.leaseHeld sh)

/-- SET_OWNER for each lease held (R327, R340). -/
def State.sendOwners (s : State) (k : Nat) : State := s.heldShards.foldl (fun s sh => s.sendOwner k sh) s

/-- The bricks in READY. -/
def State.readyBricks (s : State) : List Nat := (List.range 128).filter (fun k => s.get (F.BRK_STAT_STATE k) == 4)

/-- A lease has a new epoch: no brick has answered for it yet; SET_OWNER to every brick in READY, whose answers are awaited (R327); what
R329 stopped may go on. -/
def State.ownersToAll (s : State) (sh : Nat) : State :=
  let ks := s.readyBricks
  let s := s.modMedia (fun m => { m with
    refusedShards := m.refusedShards.filter (· != sh), bricks := AL.mapV (fun _ b => { b with owned := b.owned.filter (· != sh) }) m.bricks })
  ks.foldl (fun s k => s.sendOwner k sh) (s.modPair (fun p => { p with ownersLeft := ks }))

/-! ### Results of a `BRK_CMD` (Table 7.18) -/

/-- The result of a brick command: 1 done, 2 refused with its condition. -/
def State.brkResult (s : State) (k result cond : Nat) : State :=
  let was := s.get (F.BRK_CMD_STAT_RESULT k)
  let s := s.setAll [(F.BRK_CMD_STAT_BUSY k, 0), (F.BRK_CMD_STAT_RESULT k, result), (F.BRK_CMD_STAT_CONDITION k, cond),
    (F.BRK_CMD_STAT_BEAT k, s.beat32)]
  let s := s.modBrick k (fun b => { b with cmd := 0, cmdLeft := 0 })
  if was = result then s else s.irq (brkSlot k) 2

/-! ### What ends an operation does (R287, R337, R341) -/

/-- Place again, from the row buffers, what a failed program has lost (R287 step 2). -/
def State.placeAgain (s : State) (p : Placement) : State :=
  let s := s.bump F.BND_CNT_REPLACE_COUNT
  if p.kind = 0 then (s.modJob p.owner (fun x => { x with stage := .placed, rsv := 0 })).placeJob p.owner
  else if p.kind = 1 then
    (s.modFtl (fun t => { t with moves := AL.upd p.owner { src := p.band } (fun m => { m with stage := 0, left := 0 }) t.moves })).movePlace p.owner
  else (s.place p.kind p.owner p.shard p.cls p.len (fun _ => ((s.band p.band).map (fun b => b.bytes p.offset p.len)).getD 0)).2

/-- A strip program fails (R287): the block is marked retiring unless its link went down (R341), what the failed and later
rows held is placed again, the band closes at the row before and is queued for relocation reason 1. -/
def State.programFail (s : State) (b row i : Nat) (retire : Bool) : State :=
  match s.band b with
  | none => s
  | some x =>
    let word := ((x.members[i]?).map Member.word).getD 0
    let s := (s.raise Slot.BND Cond.PROGRAM_FAIL word).bump F.BND_CNT_PROG_FAIL_COUNT
    let s := s.modBand b (fun x => { x with retiring := if retire && !x.retiring.contains i then x.retiring ++ [i] else x.retiring })
    if x.rows ≤ row then s else
    let hit (p : Placement) : Bool := p.band == b && decide (row * x.rowUnits < p.offset + p.len)
    let lost := s.ftl.placements.filter hit
    let s := s.modFtl (fun t => { t with
      placements := t.placements.filter (fun p => !hit p)
      issued := t.issued.filter (fun q => !(q.band == b && decide (row ≤ q.row))) })
    let s := s.modBand b (fun x => { x with
      rows := row, next := row * x.rowUnits, row := none, pendingPl := x.pendingPl - lost.length })
    let s := if s.ftl.openB.any (fun q => q.2 == b) then s.closeBand b else s
    let s := lost.foldl (fun s p => s.placeAgain p) (s.queueReloc b 1)
    (s.modBand b (fun x => { x with buffers := x.buffers.filter (fun q => !lost.any (fun p => p.offset == q.1)) })).sealCheck b

/-- Hand on every placement whose rows are all programmed (R209, R267, R282). -/
def State.rowsProgrammed (s : State) : State :=
  let (done, s) := s.takeProgrammed
  done.foldl (fun s p =>
    if p.kind = 0 then s.jobProgrammed p.owner
    else if p.kind = 1 then s.moveProgrammed p.owner p.band p.offset p.len
    else if p.kind = 4 then s.sumWritten p.owner p.band p.offset
    else if p.kind = 5 then s.leafWritten p.owner p.band p.offset
    else if p.kind = 6 then s.segWritten p.owner p.band p.offset
    else s.pageWritten (p.kind == 3) p.owner p.band p.offset) s

/-- A member of an issued row has answered OK. -/
def State.stripProgrammed (s : State) (b row : Nat) : State :=
  let s := s.modFtl (fun t => { t with issued := t.issued.filterMap (fun q =>
    if q.band = b ∧ q.row = row then (if q.left ≤ 1 then none else some { q with left := q.left - 1 }) else some q) })
  s.rowsProgrammed

/-- Other requests of a purpose that has ended no longer count. -/
def State.orphanOps (s : State) (p : Purpose) : State :=
  s.modMedia (fun m => { m with links := AL.mapV (fun _ l => { l with
    ops := l.ops.map (fun o => if o.purpose = p then { o with purpose := .sys } else o)
    waiting := l.waiting.filter (fun o => o.purpose != p) }) m.links })

/-- A read for an engine of the head has failed (R125, R260, R285, R293). -/
def State.opReadBad (s : State) (ln : Nat) (o : MOp) : State :=
  match o.purpose with
  | .fetch id => s.fetchBad id ⟨ln, o.die, o.block⟩
  | .page kind key => s.modMeta (kind == 1) key (fun g => { g with left := g.left - 1, bad := true })
  | .move cid => (s.orphanOps (.move cid)).moveBad cid
  | .scan b => s.scanResult b ln false 0 0
  | _ => s

/-- A read for an engine of the head has come. -/
def State.opReadGot (s : State) (ln : Nat) (o : MOp) (corrected retries : Nat) : State :=
  match o.purpose with
  | .fetch id => s.fetchGot id
  | .page kind key => s.modMeta (kind == 1) key (fun g => { g with left := g.left - 1 })
  | .move cid => s.moveGot cid
  | .scan b => s.scanResult b ln true corrected retries
  | _ => s

/-- A check under R339 awaits a reply that does not come. -/
def State.checkTimeout (s : State) (k : Nat) : State := s.modBrick k (fun b => { b with step := 4, stepBeat := s.beat })

/-- End one operation of a link that went down (R341). -/
def State.endOp (s : State) (ln : Nat) (o : MOp) : State :=
  match o.purpose with
  | .program b row i => s.programFail b row i false
  | .erase _ _ => s.modLink ln (fun l => { l with waiting := l.waiting ++ [o] })
  | .preErase _ _ => s.modLink ln (fun l => { l with waiting := l.waiting ++ [o] })
  | .setOwner _ _ => s.modLink ln (fun l => { l with waiting := o :: l.waiting })
  | .setArray => s.brkResult ln 2 Cond.MEDIA_LINK_DOWN
  | _ => s.opReadBad ln o

/-- The link of a brick is gone: while the sideband is silent too the brick is absent, and every band on it counts as having
failed a scan read (R341, R342); while the sideband answers it stays, out of service (log entry 30). -/
def State.brickGone (s : State) (k : Nat) : State :=
  if s.get (F.BRK_STAT_STATE k) = 0 then s
  else if s.get (F.BRK_STAT_SB_PRESENT k) = 1 then
    (if s.get (F.BRK_STAT_STATE k) = 6 then s else s.brickTo k 1)
  else ((s.brickTo k 0).raise (brkSlot k) Cond.BRICK_REMOVED k).bandsOn k none

/-- A link goes DOWN (R315, R341): sequence numbers restart, credits are gone and its operations end; with `ENABLE` = 1 it
trains again (log entry 31). -/
def State.linkDown (s : State) (ln : Nat) : State :=
  let l := s.link ln
  let s := s.linkTo ln 0
  let s := s.setAll [(F.MDL_CREDIT_CMD_ADV ln, 0), (F.MDL_CREDIT_CMD_AVAIL ln, 0), (F.MDL_CREDIT_WDATA_ADV ln, 0),
    (F.MDL_CREDIT_WDATA_AVAIL ln, 0)]
  let s := s.modLink ln (fun l => { l with
    txSeq := 0, ackedTo := 0, rxExp := 0, nakSent := false, held := [], ops := [], waiting := [], lateTags := [] })
  let s := s.modBrick ln (fun b => { b with owned := [], step := 0 })
  let s := s.brickGone ln
  let s := (l.ops ++ l.waiting).foldl (fun s o => s.endOp ln o) s
  if s.get (F.MDL_LINK_CTL_ENABLE ln) = 1 ∧ s.refOk (4 + ln / 64) ∧ s.mediaFree ln then s.linkTo ln 1 else s

/-! ### Checks when a link reaches ACTIVE (R339) -/

/-- Send IDENT_GET and start the checks. -/
def State.startIdent (s : State) (k : Nat) : State :=
  ((s.brickTo k 2).modBrick k (fun b => { b with step := 1, stepBeat := s.beat })).brickSend k { mtype := 9, purpose := .ident }

/-- A link reaches ACTIVE, from ALIGN or RECOVER: the brick is checked (R339), and what waits on the link goes on (R315). -/
def State.linkUp (s : State) (ln : Nat) : State := (s.linkTo ln 4).startIdent ln

/-! ### Training (Tables 7.1 and 7.2) -/

/-- An enabled link trains, while its reference is within tolerance (R651) and no test holds its lane (R710). -/
def State.linkTrain (s : State) (ln : Nat) : State := if s.refOk (4 + ln / 64) ∧ s.mediaFree ln then s.linkTo ln 1 else s

/-- A write of `MDL_LINK_CTL`: `ENABLE`, then `DOWN`, then `RETRAIN`. -/
def State.linkCtl (s : State) (ln v : Nat) : State :=
  let s := s.set (F.MDL_LINK_CTL_ENABLE ln) (v % 2)
  let st := s.get (F.MDL_LINK_STAT_STATE ln)
  if v % 2 = 0 then (if st = 0 then s else s.linkDown ln)
  else if bitOf v 1 then (if st = 0 then s.linkTrain ln else s.linkDown ln)
  else if st = 0 then s.linkTrain ln
  else if bitOf v 2 ∧ st = 4 then s.linkTo ln 5
  else s

/-- `MDL_LINK_ENABLE` (Table 7.2). -/
def execMdlLinkEnable (m ln : Nat) (en : Bool) (s : State) : Res :=
  .next (s.busWr m (mdlSlot ln) (0x120 + 8 * (ln % 4)) (fun s => s.linkCtl ln (b2n en)))

/-- `MDL_LINK_RETRAIN`: `RETRAIN` written with `ENABLE` as it stands. -/
def execMdlLinkRetrain (m ln : Nat) (s : State) : Res :=
  .next (s.busWr m (mdlSlot ln) (0x120 + 8 * (ln % 4)) (fun s => s.linkCtl ln (4 + s.get (F.MDL_LINK_CTL_ENABLE ln))))

/-- `MDL_LINK_DOWN`: `DOWN` written with `ENABLE` as it stands (R341). -/
def execMdlLinkDown (m ln : Nat) (s : State) : Res :=
  .next (s.busWr m (mdlSlot ln) (0x120 + 8 * (ln % 4)) (fun s => s.linkCtl ln (2 + s.get (F.MDL_LINK_CTL_ENABLE ln))))

/-- The partner's tap requests of a training block (R314); a fixed `TX_PRESET` ignores them and is held. The result leaves in byte 11
of the next block. -/
def State.taps (s : State) (ln reqPre reqPost reqPreset : Nat) : State :=
  let fixed := s.get (F.MDL_LINK_CFG_TX_PRESET ln)
  if fixed ≠ 0 then (s.modLink ln (fun l => { l with preset := fixed, pre := 0, post := 0 })).send (.brick ln) 0x100 [fixed]
  else if 1 ≤ reqPreset ∧ reqPreset ≤ 8 then
    (s.modLink ln (fun l => { l with preset := reqPreset, pre := 0, post := 0 })).send (.brick ln) 0x100 [reqPreset]
  else
    let step (q : Nat) : Int := if q = 1 then 1 else if q = 2 then -1 else 0
    if step reqPre = 0 ∧ step reqPost = 0 then s
    else (s.modLink ln (fun l => { l with preset := 0, pre := l.pre + step reqPre, post := l.post + step reqPost })).send (.brick ln) 0x100 [0]

/-- A training block's part in leaving a state: 64 valid ones end DETECT, 16 with both `EQ_DONE` end EQUALISE, 8 of
`PHASE` 3 end ALIGN and RECOVER (Table 7.2). -/
def State.trainOn (s : State) (ln phase : Nat) (eqDone ownEq : Bool) : State :=
  let st := s.get (F.MDL_LINK_STAT_STATE ln)
  let s := s.modLink ln (fun l => { l with
    tbRun := l.tbRun + 1, eqRun := if eqDone && ownEq then l.eqRun + 1 else 0, p3Run := if phase = 3 then l.p3Run + 1 else 0 })
  let l := s.link ln
  if st = 1 ∧ 64 ≤ l.tbRun then
    let s := s.linkTo ln 2
    if s.get (F.BRK_STAT_STATE ln) = 6 then s else s.brickTo ln 1
  else if st = 2 ∧ 16 ≤ l.eqRun then s.linkTo ln 3
  else if (st = 3 ∨ st = 5) ∧ 8 ≤ l.p3Run then s.linkUp ln
  else s

/-- `TRAINING_BLOCK_RX` (R314, Tables 7.1 and 7.2). -/
def execTrainingBlockRx (ln : Nat) (valid : Bool) (phase : Nat) (eqDone ownEq : Bool) (port reqPre reqPost reqPreset : Nat)
    (s : State) : Res :=
  .next (
    let st := s.get (F.MDL_LINK_STAT_STATE ln)
    if st = 0 ∨ st = 4 then s
    else if !valid then s.modLink ln (fun l => { l with tbRun := 0, eqRun := 0, p3Run := 0 })
    else ((s.set (F.MDL_LINK_STAT_PORT ln) port).taps ln reqPre reqPost reqPreset).trainOn ln phase eqDone ownEq)

/-- `LINK_TRAIN_TIMEOUT` (Table 7.2): the time limits of DETECT, EQUALISE and ALIGN. -/
def execLinkTrainTimeout (ln : Nat) (s : State) : Res :=
  .next (
    let st := s.get (F.MDL_LINK_STAT_STATE ln)
    let age := s.beat - (s.link ln).stateBeat
    let again (s : State) : State := (s.linkTo ln 1).brickGone ln
    if st = 1 ∧ 256 ≤ age then (s.satInc (F.MDL_LINK_STAT_DETECTS ln) 1).linkTo ln 1
    else if st = 2 ∧ 1024 ≤ age then again (s.raise (mdlSlot ln) Cond.MEDIA_LINK_EQ_FAIL ln)
    else if st = 3 ∧ 16 ≤ age then again s
    else s)

/-- `LINK_RECOVER_TIMEOUT` (R341, Table 7.2): `RECOVER_TMO` units of 64 beats in RECOVER. -/
def execLinkRecoverTimeout (ln : Nat) (s : State) : Res :=
  .next (
    if s.get (F.MDL_LINK_STAT_STATE ln) = 5 ∧ s.get (F.MDL_LINK_CFG_RECOVER_TMO ln) * 64 ≤ s.beat - (s.link ln).stateBeat then
      (s.raise (mdlSlot ln) Cond.MEDIA_LINK_DOWN ln).linkDown ln
    else s)

/-! ### Credits and time-outs (R322, R337) -/

/-- `BRICK_CREDIT_RX` (R322): credits returned, never above those advertised. -/
def execBrickCreditRx (ln cmd wdata : Nat) (s : State) : Res :=
  .next (if s.linkActive ln then
      ((s.set (F.MDL_CREDIT_CMD_AVAIL ln) (min (s.get (F.MDL_CREDIT_CMD_ADV ln)) (s.get (F.MDL_CREDIT_CMD_AVAIL ln) + cmd))).set
        (F.MDL_CREDIT_WDATA_AVAIL ln) (min (s.get (F.MDL_CREDIT_WDATA_ADV ln)) (s.get (F.MDL_CREDIT_WDATA_AVAIL ln) + wdata))).pumpLink ln
    else s)

/-- A request other than a read has not been answered in time, or its die has timed out: a program or an erase counts as
failed, a SET_OWNER is sent again, a check under R339 starts over later (log entry 33). -/
def State.opLate (s : State) (ln : Nat) (o : MOp) : State :=
  match o.purpose with
  | .program b row i => s.programFail b row i true
  | .erase b i => s.eraseDone b i false
  | .preErase b i => s.preEraseFail b i
  | .setOwner sh _ => if s.leaseHeld sh then s.sendOwner ln sh else s
  | .setArray => s.brkResult ln 2 Cond.MEDIA_OP_TIMEOUT
  | .ident => s.checkTimeout ln
  | .owner => s.checkTimeout ln
  | .formula _ => s.checkTimeout ln
  | .audit => s.modPair (fun p => { p with rubFailed := p.rubFailed ||| 32, auditLeft := p.auditLeft.filter (· != ln) })
  | _ => s.opReadBad ln o

/-- `MEDIA_OP_TIMEOUT` (R337): the tag stays in use and a late reply is discarded; a read counts as failed. -/
def execMediaOpTimeout (ln tag : Nat) (s : State) : Res :=
  .next (match (s.link ln).ops.find? (fun o => o.tag == tag) with
    | none => s
    | some o =>
      if s.beat ≤ o.deadline then s else
        let s := s.modLink ln (fun l => { l with
          ops := l.ops.filter (fun q => q.tag != tag), lateTags := l.lateTags ++ [tag] })
        ((s.satInc (F.MDL_OPS_TIMEOUTS ln) 1).raise (mdlSlot ln) Cond.MEDIA_OP_TIMEOUT tag).opLate ln o)

end Sys2Proof.Machine
end

