-- ==== Sys2Proof/Machine/Brick.lean ====
section
/-! DEFINITION. Chapter 7: replies and events of bricks, the checks on the way to READY, brick commands, the sideband and
the die formulas. -/

namespace Sys2Proof.Machine

/-! ### Dies of a brick in service (R279, R289, R340) -/

/-- Bits set in a number below 2^n. -/
def ones (n v : Nat) : List Nat := (List.range n).filter (fun i => bitOf v i)

/-- Enter a brick's dies that this head does not know yet: every block at or above `SYS_BLOCKS` is free, and is erased
before its first use (R340). How many blocks the format holds back as spares is a free value (log entry 34); the SLC pool is a part of all
the die's blocks (R279). -/
def State.dieInit (s : State) (k : Nat) : State :=
  (ones 64 (s.brick k).dieMask).foldl (fun (s : State) d =>
    if AL.has (dieKey k d) s.ftl.dies then s else
    let top := bitsOf (s.formWord (s.slotOfBrick k) 1) 20 20
    let base := s.sysBlocks k
    let n := top - base
    let (v, s) := s.free 20
    let spares := v % (n + 1)
    let slc := min (n - spares) (top * s.get F.FTL_SLC_CFG_SLC_PCT / 100)
    let blocks := (List.range (n - spares)).map (fun i => (base + i, 0))
    s.modFtl (fun t => { t with dies := AL.put (dieKey k d) {
      shard := d % 2, slcFree := blocks.take slc, denseFree := blocks.drop slc, slcTotal := slc
      denseTotal := n - spares - slc, spares := spares, sparesAtFormat := spares, top := top
      unerased := (List.range n).map (· + base) } t.dies })) s

/-- The dies of a brick are entered; a format without a spare leaves the brick spare-exhausted (R290). -/
def State.diesIn (s : State) (k : Nat) : State :=
  let known := !(s.diesOf k).isEmpty
  let s := s.dieInit k
  if !known && s.exhausted k then s.exhaust k else s

/-- A brick enters READY: R327 applies, and what waits for its link goes on. -/
def State.brickReady (s : State) (k : Nat) : State :=
  let s := ((s.brickTo k 4).modBrick k (fun b => { b with step := 0 })).diesIn k
  s.sendOwners k

/-! ### The checks (R331, R332, R339) -/

/-- Formula slots that hold a die type, the highest version first. -/
def State.slotsOfFid (s : State) (fid : Nat) : List Nat :=
  sortBy (fun i => 65536 - bitsOf (s.formWord i 0) 32 16)
    ((List.range 8).filter (fun i => AL.has i s.media.formulas && bitsOf (s.formWord i 0) 48 16 == fid))

/-- Step 3 and 4 of R339: the array identity, then GET_OWNER. -/
def State.checkArray (s : State) (k : Nat) : State :=
  if s.get (F.BRK_ARRAY_ID k) ≠ s.pair.arrayId then
    ((s.brickTo k 3).modBrick k (fun b => { b with step := 0 })).raise (brkSlot k) Cond.BRICK_FOREIGN k
  else (s.modBrick k (fun b => { b with step := 3, stepBeat := s.beat })).brickSend k { mtype := 6, purpose := .owner }

/-- A brick uses the formula of a slot. -/
def State.slotUse (s : State) (k i : Nat) : State := (s.set (F.BRK_STAT_SLOT k) i).modBrick k (fun b => { b with slotUsed := true })

/-- Step 2 of R339: the slot whose formula the brick holds, or the load of the slot with the highest version (R331). With
the other port active and no slot matching, the load would be refused, and the brick stays in IDENT (R332). -/
def State.checkFormula (s : State) (k : Nat) : State :=
  let b := s.brick k
  let slots := s.slotsOfFid b.fid
  match slots.find? (fun i => bitsOf (s.formWord i 0) 32 16 == b.fver && bitsOf (s.formWord i 15) 0 32 == b.fcheck) with
  | some i => (s.slotUse k i).checkArray k
  | none =>
    let s := s.modBrick k (fun b => { b with slotUsed := false })
    match slots.head? with
    | none => (s.modBrick k (fun b => { b with step := 0 })).raise Slot.DFM Cond.FORMULA_ABSENT k
    | some i =>
      if b.otherActive then (s.modBrick k (fun b => { b with step := 0 })).raise (Slot.DFM + i) Cond.FORMULA_CONFLICT k
      else (s.modBrick k (fun b => { b with step := 2, stepBeat := s.beat })).brickSend k { mtype := 8, arg := i, purpose := .formula i }

/-- `BRICK_IDENT_RX` (R339 steps 1 and 2, Table 7.7). -/
def execBrickIdentRx (ln tag vendor serial arrayId dieMask fid fver fcheck cmdCredits wdataCredits port : Nat) (other : Bool)
    (s : State) : Res :=
  .next (match s.takeOp ln tag with
    | none => s.strayReply ln tag
    | some (_, s) =>
      let s := if s.get (F.MDL_CREDIT_CMD_ADV ln) = 0 then
          s.setAll [(F.MDL_CREDIT_CMD_ADV ln, cmdCredits), (F.MDL_CREDIT_CMD_AVAIL ln, cmdCredits),
            (F.MDL_CREDIT_WDATA_ADV ln, wdataCredits), (F.MDL_CREDIT_WDATA_AVAIL ln, wdataCredits)]
        else s.replyCredit ln
      let s := s.setAll [(F.BRK_ID_VENDOR ln, vendor), (F.BRK_ID_SERIAL ln, serial), (F.BRK_ARRAY_ID ln, arrayId),
        (F.BRK_STAT_DIES ln, (ones 64 dieMask).length), (F.MDL_LINK_STAT_OTHER ln, b2n other)]
      let s := s.modBrick ln (fun b => { b with dieMask := dieMask, fid := fid, fver := fver, fcheck := fcheck, otherActive := other })
      let s := if (s.brick ln).step ≠ 1 then s
        else if port ≠ s.side then
          (s.modBrick ln (fun b => { b with step := 0 })).raise (brkSlot ln) Cond.BRICK_PORT_MISMATCH ln
        else s.checkFormula ln
      s.pumpLink ln)

/-- `BRICK_OWNER_RX` (R339 step 4): `BRK_OWN` takes the epochs before the brick enters READY; for a standby audit the
peer's side and epoch are judged (Table 12.12, bit 5). -/
def execBrickOwnerRx (ln tag epochA epochB sideA sideB : Nat) (s : State) : Res :=
  .next (match s.takeOp ln tag with
    | none => s.strayReply ln tag
    | some (o, s) =>
      let s := (s.replyCredit ln).setAll [(F.BRK_OWN_EPOCH_A ln, epochA), (F.BRK_OWN_EPOCH_B ln, epochB),
        (F.BRK_STAT_SIDE_A ln, sideA), (F.BRK_STAT_SIDE_B ln, sideB)]
      let s := if o.purpose = .audit then
          let (e, q, want) := if s.side = 0 then (epochB, sideB, s.pair.peerEpochB) else (epochA, sideA, s.pair.peerEpochA)
          let bad := e != want || q != 1 - s.side
          s.modPair (fun p => { p with
            auditLeft := p.auditLeft.filter (· != ln), rubFailed := if bad then p.rubFailed ||| 32 else p.rubFailed })
        else s
      let s := if o.purpose = .owner ∧ (s.brick ln).step = 3 then s.brickReady ln else s
      s.pumpLink ln)

/-- `IDENT_RETRY` (R339): after a time-out IDENT_GET is sent again every 1,024 beats. -/
def execIdentRetry (k : Nat) (s : State) : Res :=
  .next (if s.get (F.BRK_STAT_STATE k) = 2 ∧ s.linkActive k ∧ (s.brick k).step = 4 ∧ (s.brick k).stepBeat + 1024 ≤ s.beat then
      s.startIdent k else s)

/-! ### Replies (R323 to R329, Table 7.6) -/

/-- A die has failed (R342): its bands are queued for relocation. -/
def State.dieFailed (s : State) (k d : Nat) : State :=
  ((s.raise (brkSlot k) Cond.DIE_FAILED (k * 64 + d)).modDie (dieKey k d) (fun x => { x with failed := true })).bandsOn k (some d)

/-- The condition of a reply's status (Table 7.6), with the counts of `BRK_CNT`; a refusal under the ownership rules of a
shard this head believes it holds stops the shard and is reported to LSE (R329). -/
def State.statusCond (s : State) (ln status : Nat) (o : MOp) : State :=
  let sh := match o.purpose with
    | .setOwner sh _ => sh
    | _ => o.die % 2
  if status = 1 ∨ status = 2 then
    let s := (s.satInc (F.BRK_CNT_REFUSED ln) 1).raise (brkSlot ln) Cond.BRICK_EPOCH_REFUSED ln
    if s.leaseHeld sh then
      (s.modMedia (fun m => { m with refusedShards := (m.refusedShards.filter (· != sh)) ++ [sh] })).loseLease sh 3 0 Cond.BRICK_EPOCH_REFUSED
    else s
  else if status = 3 then (s.satInc (F.BRK_CNT_UNCORR ln) 1).raise (mdlSlot ln) Cond.MEDIA_UNCORRECTABLE o.block
  else if status = 6 then s.raise (mdlSlot ln) Cond.MEDIA_OP_TIMEOUT o.tag
  else if status = 7 ∨ status = 11 ∨ status = 12 then s.raise (mdlSlot ln) Cond.BRICK_PROTOCOL_ERROR o.tag
  else if status = 8 then s.dieFailed ln o.die
  else if status = 9 then s.raise Slot.DFM Cond.FORMULA_ABSENT ln
  else if status = 10 then s.raise (Slot.DFM + s.slotOfBrick ln % 8) Cond.FORMULA_CONFLICT ln
  else s

/-- A SET_OWNER of the epoch held is on its way to a brick. -/
def State.ownerAsked (s : State) (k sh : Nat) : Bool :=
  let l := s.link k
  (l.ops ++ l.waiting).any (fun o => o.purpose == .setOwner sh (s.epochOf sh))

/-- SET_OWNER has answered OK: `BRK_OWN` takes the epoch (Table 7.18), and the shard's programs may go to the brick; where the epoch has
changed since, the one held is sent too (R327). -/
def State.ownerOk (s : State) (k sh epoch : Nat) : State :=
    let s := if sh = 0 then (s.set (F.BRK_OWN_EPOCH_A k) epoch).set (F.BRK_STAT_SIDE_A k) s.side
      else (s.set (F.BRK_OWN_EPOCH_B k) epoch).set (F.BRK_STAT_SIDE_B k) s.side
    if epoch ≠ s.epochOf sh ∧ s.leaseHeld sh then (if s.ownerAsked k sh then s else s.sendOwner k sh) else
    let s := s.modBrick k (fun b => { b with
      owned := if epoch = s.epochOf sh then (b.owned.filter (· != sh)) ++ [sh] else b.owned, cmdLeft := b.cmdLeft - 1 })
    let s := s.modPair (fun p => { p with ownersLeft := p.ownersLeft.filter (· != k) })
    if (s.brick k).cmd = 1 ∧ (s.brick k).cmdLeft = 0 then
      let s := s.brkResult k 1 0
      if s.get (F.BRK_STAT_STATE k) = 3 then (s.brickTo k 4).modBrick k (fun b => { b with step := 0 }) else s
    else s

/-- `ADOPT` goes on after SET_ARRAY (R340): both ownership registers of the brick are zero, every block is free, and
SET_OWNER follows for each lease held. -/
def State.adoptOn (s : State) (k : Nat) : State :=
  let s := s.setAll [(F.BRK_ARRAY_ID k, s.pair.arrayId), (F.BRK_OWN_EPOCH_A k, 0), (F.BRK_OWN_EPOCH_B k, 0),
    (F.BRK_STAT_SIDE_A k, 0), (F.BRK_STAT_SIDE_B k, 0)]
  let s := s.modFtl (fun t => { t with dies := t.dies.filter (fun q => q.1 / 64 != k) })
  let s := (s.diesIn k).modBrick k (fun b => { b with cmdLeft := s.heldShards.length })
  s.sendOwners k

/-- The end of an operation that answers with STATUS. -/
def State.statusEnd (s : State) (ln status : Nat) (o : MOp) : State :=
  let ok := status == 0
  match o.purpose with
  | .program b row i => if ok then s.stripProgrammed b row else s.programFail b row i (status != 1 && status != 2)
  | .erase b i => if status = 1 ∨ status = 2 then s.modBand b (fun x => { x with erasing := 0 }) else s.eraseDone b i ok
  | .preErase b i => if ok then s else s.preEraseFail b i
  | .setOwner sh e => if ok then s.ownerOk ln sh e
      else if (s.brick ln).cmd = 1 then s.brkResult ln 2 Cond.BRICK_EPOCH_REFUSED else s
  | .setArray => if ok then s.adoptOn ln else s.brkResult ln 2 Cond.BRICK_PROTOCOL_ERROR
  | .formula i =>
    if (s.brick ln).step ≠ 2 then s
    else if ok then
      ((s.slotUse ln i).modBrick ln (fun b => { b with
        fver := bitsOf (s.formWord i 0) 32 16, fcheck := bitsOf (s.formWord i 15) 0 32 })).checkArray ln
    else s.modBrick ln (fun b => { b with step := 0 })
  | .sys | .vault _ => if status = 4 then s.raise Slot.BND Cond.PROGRAM_FAIL (ln * 2 ^ 25 + o.die * 2 ^ 19 + o.block) else s
  | _ => s

/-- `BRICK_STATUS_RX` (R323, Table 7.6). -/
def execBrickStatusRx (ln tag status : Nat) (s : State) : Res :=
  .next (match s.takeOp ln tag with
    | none => s.strayReply ln tag
    | some (o, s) => (((s.replyCredit ln).statusCond ln status o).statusEnd ln status o).pumpLink ln)

/-- A read of a block was uncorrectable: at the formula's limit relocation reason 2 moves its band, and the block retires
(R288). -/
def State.readFailed (s : State) (m : Member) : State :=
  let s := s.modBrick m.brick (fun b => { b with readFails := AL.upd m.word 0 (· + 1) b.readFails })
  if !s.readLimit m then s else
    (s.ftl.bands.filter (fun q => decide (1 ≤ q.2.state) && q.2.members.contains m)).foldl (fun (s : State) q =>
      let i := q.2.members.findIdx (· == m)
      (s.modBand q.1 (fun x => { x with retiring := if x.retiring.contains i then x.retiring else x.retiring ++ [i] })).queueReloc q.1 2) s

/-- `BRICK_READ_DATA_RX` (R323, Table 7.5): the metric and counts of the reply, then the engine that asked. -/
def execBrickReadDataRx (ln tag status corrected retries : Nat) (s : State) : Res :=
  .next (match s.takeOp ln tag with
    | none => s.strayReply ln tag
    | some (o, s) =>
      let slot := s.slotOfBrick ln % 8
      let s := ((s.replyCredit ln).sample (50 + ln) corrected).statusCond ln status o
      let s := if 0 < retries then s.satInc (F.DFM_CNT_RETRY_READS slot) 1 else s
      let s := if status = 3 then (s.satInc (F.DFM_CNT_UNCORR slot) 1).readFailed ⟨ln, o.die, o.block⟩ else s
      (if status = 0 then s.opReadGot ln o corrected retries else s.opReadBad ln o).pumpLink ln)

/-- `BRICK_EVENT_RX` (Table 7.5, R342): the other port, ownership, the array identity, a failed die. -/
def execBrickEventRx (ln code die : Nat) (s : State) : Res :=
  .next (
    if !s.linkActive ln then s
    else if code = 1 ∨ code = 2 then
      (s.set (F.MDL_LINK_STAT_OTHER ln) (2 - code)).modBrick ln (fun b => { b with otherActive := code == 1 })
    else if code = 4 then s.startIdent ln
    else if code = 5 then s.dieFailed ln die
    else s)

/-! ### Sideband (R338) -/

/-- A sideband transaction of a brick failed three times. -/
def State.sbFail (s : State) (k : Nat) : State :=
  let s := ((s.satInc (F.BRK_SB_NAKS k) 1).set (F.BRK_STAT_SB_PRESENT k) 0).raise (brkSlot k) Cond.SIDEBAND_NAK k
  if s.linkActive k || decide (2 ≤ s.get (F.MDL_LINK_STAT_STATE k)) then s else s.brickGone k

/-- What a sideband read shows. -/
def State.sbShow (s : State) (k status temp : Nat) : State :=
  let s := s.setAll [(F.BRK_STAT_SB_PRESENT k, 1), (F.BRK_SB_STATUS k, status), (F.BRK_STAT_TEMP k, temp)]
  if s.get (F.BRK_STAT_STATE k) = 0 then s.brickTo k 1 else s

/-- `SIDEBAND_ALERT` (R338): `SB_EVENT` and `SB_STATUS` are read; `answered` when one of three tries of each was good. -/
def execSidebandAlert (k : Nat) (answered : Bool) (status temp : Nat) (s : State) : Res :=
  .next (if answered then s.sbShow k status temp else s.sbFail k)

/-- `SIDEBAND_POLL` (R338): every 16,384 beats. -/
def execSidebandPoll (k : Nat) (answered : Bool) (status temp : Nat) (s : State) : Res :=
  .next (
    if ((s.brick k).sbBeat.map (fun b => decide (s.beat < b + 16384))).getD false then s else
      let s := s.modBrick k (fun b => { b with sbBeat := some s.beat })
      if answered then s.sbShow k status temp else s.sbFail k)

/-! ### Brick commands (R343, Table 7.19) -/

/-- A brick command may run in the brick's state. -/
def State.brkAllowed (s : State) (k op : Nat) : Bool :=
  let st := s.get (F.BRK_STAT_STATE k)
  match op with
  | 1 => st == 3 && !s.heldShards.isEmpty
  | 2 => st == 4
  | 3 => st != 0
  | 4 => st != 0 && s.get (F.BRK_STAT_SB_PRESENT k) == 1
  | 5 => st != 0 && s.get (F.BRK_STAT_SB_PRESENT k) == 1
  | 6 => st != 0
  | _ => false

/-- The effect of an allowed brick command; `acked` is whether the sideband write of `ATTN_ON` or `ATTN_OFF` was good. -/
def State.brkRun (s : State) (k op : Nat) (acked : Bool) : State :=
  match op with
  | 1 => ((s.set (F.BRK_CMD_STAT_BUSY k) 1).modBrick k (fun b => { b with cmd := 1 })).brickSend k
      { mtype := 7, arg := s.pair.arrayId, purpose := .setArray }
  | 2 => (s.brickTo k 5).brkResult k 1 0
  | 3 => (((s.brickTo k 6).modBrick k (fun b => { b with step := 0 })).bandsOn k none).brkResult k 1 0
  | 6 => (if s.linkActive k then s.startIdent k else s).brkResult k 1 0
  | _ => if acked then (s.set (F.BRK_SB_ATTN k) (5 - op)).brkResult k 1 0
      else (s.sbFail k).brkResult k 2 Cond.SIDEBAND_NAK

/-- A write of `BRK_CMD[k]` (R343). -/
def State.brkCmd (s : State) (k op : Nat) (acked : Bool) : State :=
  if s.get (F.BRK_CMD_STAT_BUSY k) = 1 then s.raise (brkSlot k) Cond.BRICK_CMD_BUSY k
  else if s.brkAllowed k op then s.brkRun k op acked
  else (s.raise (brkSlot k) Cond.BRICK_CMD_INVALID k).brkResult k 2 Cond.BRICK_CMD_INVALID

/-- A bus write of `BRK_CMD[k]`. -/
def brkBus (m k op : Nat) (acked : Bool) (s : State) : Res :=
  .next (s.busWr m (brkSlot k) (0x300 + 8 * (k % 16)) (fun s => s.brkCmd k op acked))

/-- `BRICK_ADOPT` (R340). -/
def execBrickAdopt (m k : Nat) (s : State) : Res := brkBus m k 1 true s

/-- `BRICK_RELEASE` (Table 7.19). -/
def execBrickRelease (m k : Nat) (s : State) : Res := brkBus m k 2 true s

/-- `BRICK_FAIL` (R342). -/
def execBrickFail (m k : Nat) (s : State) : Res := brkBus m k 3 true s

/-- `BRICK_ATTN_ON` (Table 7.19). -/
def execBrickAttnOn (m k : Nat) (acked : Bool) (s : State) : Res := brkBus m k 4 acked s

/-- `BRICK_ATTN_OFF` (Table 7.19). -/
def execBrickAttnOff (m k : Nat) (acked : Bool) (s : State) : Res := brkBus m k 5 acked s

/-- `BRICK_REFRESH` (Table 7.19). -/
def execBrickRefresh (m k : Nat) (s : State) : Res := brkBus m k 6 true s

/-! ### Die formulas (R330, R344) -/

/-- The kind of an operation entry's word 0. -/
def opKind (w : Nat) : Nat := bitsOf w 60 4

/-- The 16 sequence codes of an entry. -/
def seqCodes (w : Nat) : List Nat := (List.range 16).map (fun i => bitsOf w (60 - 4 * i) 4)

/-- Operation entry `i` of a formula: its words. -/
def formEntry (ws : List Nat) (i : Nat) : List Nat := (ws.drop (16 + 4 * i)).take 4

/-- An entry's own checks (R330): the entries it suspends and resumes by are of kinds 4 and 5, and its sequence holds no
reserved code and only the data codes of its kind: data out for reads and `get feature`, data in for programs. DESIGN CHOICE: codes after
the end of the sequence are held to the same (log entry 154). -/
def entryOk (ws : List Nat) (i : Nat) : Bool :=
  let e := formEntry ws i
  let w := e.getD 0 0
  let kindOf (j : Nat) : Nat := opKind ((formEntry ws j).getD 0 0)
  let codes := seqCodes (e.getD 1 0)
  opKind w == 0 ||
    ((!bitOf w 55 || (kindOf (bitsOf w 49 6) == 4 && kindOf (bitsOf w 43 6) == 5))
      && codes.all (fun c => decide (c < 12))
      && (opKind w == 1 || opKind w == 8 || !codes.contains 4)
      && (opKind w == 2 || !codes.contains 5))

/-- The checks of R330 over a formula image. -/
def State.formulaOk (s : State) (slot : Nat) (ws : List Nat) : Bool :=
  let w (i : Nat) : Nat := ws.getD i 0
  let kinds := (List.range 64).map (fun i => (formEntry ws i).getD 0 0)
  let has (k mode : Nat) : Bool := kinds.any (fun e => opKind e == k && (mode == 0 || bitsOf e 56 4 == 0 || bitsOf e 56 4 == mode))
  let iface := bitsOf (w 0) 28 4
  let cell := bitsOf (w 0) 24 4
  bitsOf (w 15) 0 32 == crcWords (ws.take 15 ++ ws.drop 16)
    && decide (1 ≤ iface) && decide (iface ≤ 2) && decide (1 ≤ cell) && decide (cell ≤ 2) && decide (bitsOf (w 0) 12 12 ≤ 3600)
    && bitsOf (w 1) 44 4 * bitsOf (w 1) 48 16 == 65536
    && bitsOf (w 1) 40 4 != 0 && bitsOf (w 2) 38 13 % bitsOf (w 1) 40 4 == 0
    && decide (bitsOf (w 1) 8 12 < bitsOf (w 1) 20 20)
    && decide (bitsOf (w 6) 44 4 ≤ bitsOf (w 6) 40 4)
    && [1, 2, 3].all (fun k => has k 1 && has k 2)
    && has 6 0 && has 9 0
    && (List.range 64).all (fun i => entryOk ws i)
    && s.media.formulas.all (fun q => q.1 == slot || bitsOf (q.2.getD 0 0) 32 32 != bitsOf (w 0) 32 32)

/-- Bricks that use a formula slot: those whose check has matched it, in any state but `ABSENT`. -/
def State.slotBricks (s : State) (f : Nat) : Nat :=
  ((List.range 128).filter (fun k => s.slotOfBrick k == f && (s.brick k).slotUsed && s.get (F.BRK_STAT_STATE k) != 0)).length

/-- The result of a formula operation. -/
def State.dfmResult (s : State) (f result cond : Nat) : State :=
  (s.setAll [(F.DFM_STAT_BUSY f, 0), (F.DFM_STAT_RESULT f, result), (F.DFM_STAT_CONDITION f, cond)]).irq (Slot.DFM + f) 1

/-- The formula image at `DFM_BASE`. -/
def State.formImage (s : State) (f : Nat) : List Nat :=
  (List.range 288).map (fun i => Mem.rdLE (s.get (F.DFM_BASE_BASE f) * 4096 + 8 * i) 8 s.mem)

/-- A write of `DFM_CTL` (R344). -/
def State.dfmCtl (s : State) (f op : Nat) : State :=
  if s.get (F.DFM_STAT_BUSY f) = 1 then s.raise (Slot.DFM + f) Cond.FORMULA_BUSY f
  else if op = 1 then
    let ws := s.formImage f
    if s.formulaOk f ws then
      ((s.modMedia (fun m => { m with formulas := AL.put f ws m.formulas })).setAll
        [(F.DFM_HDR_WORD0 f, ws.getD 0 0), (F.DFM_CHECK_CHECK f, ws.getD 15 0)]).dfmResult f 1 0
    else (s.raise (Slot.DFM + f) Cond.FORMULA_INVALID f).dfmResult f 3 Cond.FORMULA_INVALID
  else if op = 2 then
    if 0 < s.slotBricks f then (s.raise (Slot.DFM + f) Cond.FORMULA_IN_USE f).dfmResult f 4 Cond.FORMULA_IN_USE
    else ((s.modMedia (fun m => { m with formulas := AL.del f m.formulas })).setAll
      [(F.DFM_HDR_WORD0 f, 0), (F.DFM_CHECK_CHECK f, 0)]).dfmResult f 2 0
  else s

/-- `DFM_LOAD` (R330, R344). -/
def execDfmLoad (m f : Nat) (s : State) : Res := .next (s.busWr m (Slot.DFM + f) 0x108 (fun s => s.dfmCtl f 1))

/-- `DFM_UNLOAD` (R344). -/
def execDfmUnload (m f : Nat) (s : State) : Res := .next (s.busWr m (Slot.DFM + f) 0x108 (fun s => s.dfmCtl f 2))

end Sys2Proof.Machine
end

