-- ==== Sys2Proof/Machine/Reset.lean ====
section
/-! DEFINITION. Resets of the head (chapter 19, R698 to R701, R721): what each keeps, the hold of the domains and the
release into BOOT. -/

namespace Sys2Proof.Machine

/-- What AON, PWR, CLK and LSE hold lies in D0, which only `PORST_N` resets; with it the time base's own fields of R15,
`ERQ_STAT.RECOVERY`, the unlocked debug state and nothing else of the registers outlives `SRST_N` (R15, R599, R699; log entry
50). -/
def keptKey (k : Nat) : Bool :=
  slotDomain (k / 64 / 4096) == 0 ||
  [F.BEAT_RATE_EFF_ADJ, F.BEAT_WALL_OFS_NS, F.BEAT_STAT_COARSE, F.BEAT_UNC_NS, F.BEAT_DOZE_TICKS_TICKS,
    F.ERQ_STAT_RECOVERY, F.SEC_DBG_STAT_STATE, F.SEC_DBG_STAT_FORCED, F.SEC_DBG_STAT_BEAT].any (fun f => f.key == k)

/-- The headers of D0's pages stay but for `LOCKED` (R99) and, with it, `WRITERS`, which returns to 0x7F (DESIGN CHOICE, log
entry 50: R99 names only `LOCKED`); all others return to reset. -/
def keptHdrs (l : List (Nat × PageHdr)) : List (Nat × PageHdr) :=
  (l.filter (fun p => slotDomain p.1 == 0)).map (fun p => (p.1, { p.2 with locked := false, writers := 0x7F }))

/-- The headers a trip leaves: it holds the other domains in reset but is no reset of R99, so `LOCKED` and `WRITERS` stay on every page
(R99, R707). -/
def tripHdrs (l : List (Nat × PageHdr)) : List (Nat × PageHdr) :=
  l.map (fun p => if slotDomain p.1 = 0 then p else (p.1, { locked := p.2.locked, writers := p.2.writers }))
/-- What flash holds of the metadata outlives a reset; caches, fetches and queues do not (log entry 51). -/
def ReadSt.afterReset (r : ReadSt) : ReadSt :=
  { map := r.map, mapPages := AL.mapV (fun _ p => p.cold) r.mapPages, ctb := r.ctb, ctbPages := AL.mapV (fun _ p => p.cold) r.ctbPages }

/-- Recipe pages written back stay on flash, and the swatch index with them; the rest of the write path is lost. -/
def WriteSt.afterReset (w : WriteSt) : WriteSt :=
  { recipes := coldRecipes w.recipes
    nextRecipe := w.nextRecipe
    swatches := w.swatches
    nextSeq := w.nextSeq }

/-- The tables of vats, volumes and snapshots and the cursor of the sweep lie in the checkpoint and the journal
(R229). -/
def VatSt.afterReset (v : VatSt) : VatSt :=
  { vats := v.vats, vols := v.vols, snaps := v.snaps, sweepLeft := v.sweepLeft, sweepVat := v.sweepVat, sweepBad := v.sweepBad }

/-- Bands, dies and the vault dump lie on flash; placements, moves and programs in progress are lost, with rows not yet issued. -/
def FtlSt.afterReset (t : FtlSt) : FtlSt :=
  { bands := AL.mapV (fun _ b => { b with row := none, next := min b.next (b.rows * b.d * 128), buffers := [], pendingPl := 0, erasing := 0 }) t.bands
    nextBand := t.nextBand
    dies := t.dies
    wearSlc := t.wearSlc
    wearDense := t.wearDense
    saturated := t.saturated
    replayOwn := t.replayOwn
    replayPeer := t.replayPeer
    ckpt := t.ckpt
    segDirty := t.segDirty
    segAt := t.segAt
    bandTop := t.bandTop
    vaultMap := t.vaultMap
    vaultNext := t.vaultNext
    sumTop := t.sumTop
    heldDump := t.heldDump
    heldRecs := t.heldRecs
    heldUpd := t.heldUpd
    heldKeys := t.heldKeys
    dumpSeq := t.dumpSeq
    dumpMark := t.dumpMark
    leaves := AL.mapV (fun _ l => { onFlash := l.onFlash, band := l.band, offset := l.offset, seg := l.seg }) t.leaves
    sumAt := t.sumAt }

/-- The 64 bytes of a pointer record, `CHECK` among them (Table 16.5). -/
def Ptr.bytes (p : Ptr) : List Nat :=
  let l := leNat 8 p.seq ++ [p.curBank + 2 * p.curSlot, ((p.next).map (fun q => 128 + q.1 + 2 * q.2)).getD 0, p.tries,
    b2n p.soloOk + 2 * b2n p.autoConfirm + 4 * b2n p.fellBack] ++ leNat 8 p.nextId ++ List.replicate 40 0
  l ++ leNat 4 (crc32c l)

/-- The record that a pointer sector holds; none where its `CHECK` does not match. -/
def ptrOf (l : List Nat) : Option Ptr :=
  if l.length ≠ 64 ∨ crc32c (l.take 60) ≠ bytesNat l 60 4 then none else
  let c := l.getD 8 0
  let n := l.getD 9 0
  let f := l.getD 11 0
  some {
    seq := bytesNat l 0 8, curBank := c % 2, curSlot := c / 2 % 2, next := if bitOf n 7 then some (n % 2, n / 2 % 2) else none
    tries := l.getD 10 0, soloOk := bitOf f 0, autoConfirm := bitOf f 1, fellBack := bitOf f 2, nextId := bytesNat l 12 8 }

/-- The record in force: the one with the higher `SEQ` among those whose `CHECK` matches (R626). -/
def recordInForce (l : List (Nat × List Nat)) : Ptr :=
  (l.filterMap (fun q => ptrOf q.2)).foldl (fun a p => if a.seq < p.seq then p else a) {}

/-- The boot flash outlives every reset, and the source of a staging lasts to its end (R622); sessions, requests and this boot's marks do
not. The pointer sectors give the record in force (R626). -/
def FlashSt.afterReset (f : FlashSt) : FlashSt :=
  { banks := f.banks, ptr := recordInForce f.sectors, sectors := f.sectors, slots := f.slots, loaders := f.loaders, bootCount := f.bootCount
    owedD := f.owedD, owedI := f.owedI, source := f.source }

/-- Fuses stay; keys, measurements and the state of the generator go. An unlocked debug state stays (R599, R699). -/
def SecSt.afterReset (x : SecSt) : SecSt :=
  { fuses := x.fuses, drbgCount := x.drbgCount, jtagSecure := x.jtagSecure, udsClosed := x.udsClosed }

/-- The event recorder's areas and its clear log lie on the bricks; the epoch in progress is lost, and the next one's
records carry `GAP` (R678, R679). -/
def HealthSt.afterReset (h : HealthSt) : HealthSt :=
  { perm := h.perm, circ := h.circ, clearLog := h.clearLog, lost := true, gap := h.gap, dieTemp := h.dieTemp, hbmTemp := h.hbmTemp }

/-- Change PWR's own data. -/
def State.modPwr (s : State) (f : PwrSt → PwrSt) : State := { s with pwr := f s.pwr }

/-- The restart: the edges of the real-time clock counted since the capture are added to the time base, exactly (R33), and the
uncertainty grows (R34). -/
def State.clocksStart (s : State) (ticks startUs : Nat) : State :=
  let s := (s.setAll [(F.CLK_PLL_STAT_RUN, 511), (F.CLK_PLL_STAT_LOCK, 511)]).bump F.CLK_CNT_PLL_RELOCK_COUNT (8 + b2n s.pwr.capture.isSome)
  match s.pwr.capture with
  | none => s
  | some fx =>
    let s := s.modTime (fun t => { t with tbFx := fx + ticks * 2000000000 })
    let unc := s.get F.BEAT_UNC_NS + 30518 + ceilDiv (ticks * 2000000000 * s.get F.BEAT_CFG_RTC_PPM) (65536 * 1000000)
    let s := s.setAll [(F.BEAT_DOZE_TICKS_TICKS, ticks), (F.BEAT_STAT_COARSE, 1), (F.BEAT_UNC_NS, min unc (2 ^ 32 - 1)),
      (F.CLK_OSC_STAT_RUNNING, 1), (F.CLK_OSC_STAT_START_US, min startUs 65535)]
    ((s.modPwr (fun p => { p with capture := none })).bump F.CLK_CNT_OSC_START_COUNT).bump F.AON_RTC_TICKS ticks

/-- A reset ends a sleep in which K2 stood still: the time base goes on over it (R15, R33). How many edges had been counted and how
long the oscillator takes does not come with the reset: free values (log entry 146). -/
def State.sleepEnds (s : State) : State :=
  if s.pwr.capture.isNone then s
  else
    let (ticks, s) := s.free 32
    let (us, s) := s.free 16
    s.clocksStart ticks us

/-- Every domain except D0 goes to reset (R699): registers, headers, memory, caches and work in progress; leases held are
fenced in the same cycle (Table 12.1). -/
def State.resetHead (s : State) : State :=
  let s := s.sleepEnds
  let s := [0, 1].foldl (fun (s : State) sh => if s.leaseHeld sh then s.fence sh else s) s
  { fields := s.fields.filter (fun p => keptKey p.1)
    shadows := s.shadows.filter (fun p => slotDomain (p.1 / 64 / 4096) == 0)
    pages := keptHdrs s.pages
    units := s.units.filter (fun p => [Blk.AON, Blk.PWR, Blk.CLK, Blk.LSE].any (fun c => unitKey c 0 == p.1))
    time := { tbFx := s.time.tbFx, rateRem := s.time.rateRem, k2 := s.time.k2, baseRate := s.time.baseRate }
    read := s.read.afterReset
    write := s.write.afterReset
    vat := s.vat.afterReset
    ftl := s.ftl.afterReset
    fab := { cursors := s.fab.cursors }
    pair := { side := s.pair.side, arrayId := s.pair.arrayId, leases := s.pair.leases }
    health := s.health.afterReset
    host := { stLog := s.host.stLog }
    flash := s.flash.afterReset
    sec := s.sec.afterReset
    pins := { s.pins with tests := [] }
    pwr := { spent := s.pwr.spent, since := s.pwr.since, blank := s.pwr.blank }
    busData := s.busData
    sent := s.sent
    freshCount := s.freshCount
    pending := s.pending }

/-- Every domain but D0 is held in reset: they read as OFF until the release. -/
def State.holdDomains (s : State) : State :=
  (List.range 20).foldl (fun (s : State) d =>
    s.setAll [(F.PWR_DOM_STAT_STATE d, if d = 0 then 3 else 0), (F.PWR_DOM_STAT_MOVING d, 0), (F.PWR_DOM_STAT_CLAMPED d, 0),
      (F.PWR_DOM_STAT_AUTO d, 0)]) s

/-- A reset that acts as `SRST_N` begins (R699, R721): its cause replaces the others (R663). -/
def State.beginReset (s : State) (cause : Nat) : State :=
  let s := s.resetHead.holdDomains
  (s.setAll [(F.AON_RESET_CAUSE_CAUSE, 2 ^ cause), (F.AON_RESET_CAUSE_TRIP, 0), (F.PWR_REQ_STAT_BUSY, 0),
    (F.PWR_DOZE_STAT_PHASE, 0), (F.LSE_MODE_REQ_STAT_BUSY, 0)]).bump F.AON_CNT_RESET_COUNT

/-- The head resets itself (R721): no such reset acts in VAULT, in OFF or while another reset holds. -/
def State.selfReset (s : State) (cause : Nat) : State :=
  if s.mode = .vault ∨ s.mode = .off ∨ s.inReset ∨ s.pins.tripped then s
  else let s := s.beginReset cause
    { s with pins := { s.pins with internalHeld := true } }

/-- The ROM checks the fuse rows and measures them (R570, Table 14.2): 0 every row is right, 1 a row was corrected, else a row
cannot be corrected and the ROM runs nothing further. -/
def State.fuseCheck (s : State) (fuse : Nat) : State :=
  let f := s.sec.fuses
  if 2 ≤ fuse then
    let s := ((s.set F.SEC_BOOT_STAT_CONDITION Cond.FUSE_CHECK_FAIL).raise Slot.SEC Cond.FUSE_CHECK_FAIL)
    { s with health := { s.health with bootHalted := true } }
  else
    let s := s.msrExtend 1 (Config.fuseRows [f.rootI.getD 0, f.svnD, f.svnI, b2n f.debugDisable, b2n f.debugRoot]).toNat
    s.modSec (fun x => { x with fuses := { x.fuses with corrected := decide (fuse = 1) } })

/-- The release of a reset: every domain is ON, the head enters BOOT (R699, R701), the boot count's own request count
starts again and the ROM checks the fuses. -/
def State.bootFrom (s : State) (fuse : Nat) : State :=
  let s := (List.range 20).foldl (fun (s : State) d => s.setAll [(F.PWR_DOM_STAT_STATE d, 3), (F.PWR_DOM_STAT_BEAT d, s.beat32)]) s
  let s := if s.mode = .boot then s.setAll [(F.LSE_MODE_PREV, s.get F.LSE_MODE_MODE), (F.LSE_MODE_BEAT, s.beat32)] else s.setMode .boot
  let s := { s with pair := { s.pair with bootBeat := s.beat, reqCount := 0 } }
  s.fuseCheck fuse

/-- A pulse on a reset pin acts (R700): from 1 us it does, below 200 ns it does not, and between the two it acts or is
ignored as a whole. -/
def State.pulseActs (s : State) (ns : Nat) : Bool × State :=
  if ns < 200 then (false, s)
  else if 1000 ≤ ns then (true, s)
  else let (v, s) := s.free 1
    (v == 1, s)

/-- `PORST_N` resets every domain (R698): what remains is flash, fuses, the pins and, while VDD_AON lasts, the trip
latch. -/
def State.powerReset (s : State) : State :=
  let r := s.resetHead
  let p : State :=
    { read := r.read, write := r.write, vat := r.vat, ftl := r.ftl, flash := r.flash
      pair := { side := r.pair.side, arrayId := r.pair.arrayId }
      health := { r.health with dieTemp := r.health.dieTemp }
      host := r.host
      sec := { fuses := r.sec.fuses, drbgCount := r.sec.drbgCount }
      pins := { r.pins with srstLow := r.pins.srstLow, internalHeld := false, tripped := false }
      busData := r.busData, sent := r.sent, freshCount := r.freshCount, pending := r.pending }
  (p.set F.LSE_MODE_MODE 0).holdDomains

/-- `PORST_N_ASSERT` (R698, R700): held low for `ns` nanoseconds. -/
def execPorstNAssert (ns : Nat) (s : State) : Res :=
  .next (let (acts, s) := s.pulseActs ns
    if !acts then s else
      let s := s.powerReset
      { s with pins := { s.pins with porstLow := true } })

/-- After `PORST_N` the event recorder numbers the epoch in progress one above the highest that its areas hold, or 0 (R678); the
epoch before it was lost. -/
def State.evrRestart (s : State) : State :=
  let held := s.health.perm.map (fun q => q.1 + 1) ++ s.health.circ.map (fun (q : Nat × Nat × EvrEpoch) => q.2.1 + 1)
  let s := s.setAll [(F.AON_EVR_EPOCH_EPOCH, held.foldl max 0), (F.AON_EVR_START_BEAT, 0)]
  let s := if s.health.lost then (s.raise Slot.EVR Cond.EVR_EPOCH_GAP (held.foldl max 0)).bump F.EVR_CNT_GAP_COUNT else s
  { s with health := { s.health with gap := s.health.lost, lost := false } }

/-- `PORST_N_RELEASE` (R15, R698, R707): the time base starts from zero, registers are at reset and the head enters BOOT;
the trip latch, where kept, is a cause of this reset. -/
def execPorstNRelease (fuse : Nat) (s : State) : Res :=
  .next (if !s.pins.porstLow then s else
    let s := { s with time := {}, pins := { s.pins with porstLow := false } }
    let s := (s.setAll [(F.AON_RESET_CAUSE_CAUSE, 1), (F.AON_RESET_CAUSE_TRIP, b2n s.pins.tripLatch)]).bump F.AON_CNT_RESET_COUNT
    let s := { s with pins := { s.pins with tripLatch := false } }.evrRestart
    if s.inReset then s else (s.bootFrom fuse).set F.LSE_MODE_PREV 0)

/-- `SRST_N_ASSERT` (R699, R700, R660): ignored in VAULT, in OFF and while a trip holds the head. -/
def execSrstNAssert (ns : Nat) (s : State) : Res :=
  .next (if s.mode = .vault ∨ s.mode = .off ∨ s.pins.porstLow ∨ s.pins.tripped then s else
    let (acts, s) := s.pulseActs ns
    if !acts then s else
      let s := s.beginReset 1
      { s with pins := { s.pins with srstLow := true } })

/-- `SRST_N_RELEASE` (R699): the head enters BOOT. -/
def execSrstNRelease (fuse : Nat) (s : State) : Res :=
  .next (if !s.pins.srstLow then s else
    let s := { s with pins := { s.pins with srstLow := false } }
    if s.inReset then s else s.bootFrom fuse)

/-- `INTERNAL_RESET` (R721): the reset that an event began is held for 25 K1 cycles, 1 us, and released into BOOT. -/
def execInternalReset (fuse : Nat) (s : State) : Res :=
  .next (if !s.pins.internalHeld then s else
    let s := ({ s with pins := { s.pins with internalHeld := false } } : State).advance 500
    if s.inReset then s else s.bootFrom fuse)

/-- `SUPPLY_LOSS` (R500, R707): the head passes to OFF from any mode; with VDD_AON the trip latch goes too. -/
def execSupplyLoss (aonLost : Bool) (s : State) : Res :=
  .next (let s := s.powerReset
    { s with pins := { s.pins with porstLow := true, tripLatch := s.pins.tripLatch && !aonLost } })

end Sys2Proof.Machine
end

