-- ==== Sys2Proof/Machine/Pair.lean ====
section
/-! DEFINITION. Chapter 12, the peer: bundles and replay, reachability, loss, pairing and resynchronisation, mode requests,
hand-over, takeover and hand-back, the standby audits. -/

namespace Sys2Proof.Machine

/-! ### Reachability and the pair's phase (R513, Table 12.14) -/

/-- The three conditions of R513. -/
def State.reachNow (s : State) : Bool :=
  s.ctlBundle.isSome && s.pair.helloMatched && ((s.pair.lastModeBeat).map (fun b => decide (s.beat ≤ b + 2048))).getD false

/-- Resynchronisation has ended (R514): keys exchanged, tables copied, recovery done. -/
def State.resynced (s : State) : Bool :=
  s.get F.PRL_PAIR_STAT_KEY_SYNCED == 1 && s.get F.PRL_PAIR_STAT_TABLES_SYNCED == 1 && s.get F.FTL_RECOVER_STAT_PHASE == 3

/-- `PRL_PAIR_STAT.PHASE`. -/
def State.pairPhase (s : State) : Nat :=
  if s.pair.hand = .handbackDraining ∨ s.pair.hand = .handbackReleased then 5
  else if s.get F.PRL_STAT_REACHABLE = 0 then (if s.ctlBundle.isSome then 1 else 0)
  else if s.mode = .paired ∧ s.get F.PRL_PEER_INFO_MODE = 3 then 4
  else if s.resynced then 3 else 2

/-- Show what follows from the bundles, HELLO and MODE: reachability with its interrupt source, the control bundle and the
phase. -/
def State.pairShow (s : State) : State :=
  let was := s.get F.PRL_STAT_REACHABLE
  let now := b2n s.reachNow
  let s := s.set F.PRL_STAT_CTL_BUNDLE ((s.ctlBundle).getD 0)
  let s := if was = now then s else (s.set F.PRL_STAT_REACHABLE now).irq 270 1
  let s := if now = 1 then s.modPair (fun p => { p with everReachable := true, downBeat := s.beat }) else s
  s.set F.PRL_PAIR_STAT_PHASE s.pairPhase

/-! ### Bundles (R505 to R510) -/

/-- Set a bundle's state. -/
def State.bundleTo (s : State) (b st : Nat) : State :=
  (s.set (F.PRL_BUNDLE_STAT_STATE b) st).modBundle b (fun x => { x with stateBeat := s.beat })

/-- HELLO (Table 12.6), sent on each entry to ACTIVE: HID, array identity, `PAGE_VER.LAYOUT`, settings format. -/
def State.sendHello (s : State) : State :=
  s.sendPeer 1 0 [s.get F.FAB_ID_HID, s.pair.arrayId, 1, ((AL.get s.flash.slot s.flash.slots).map (·.format)).getD 0]

/-- A message of an inactive bundle waits again, before all others of its class; the bundle's own flits stay held for replay (R508, R510). -/
def State.requeue (s : State) (b : Nat) : State :=
  let l := (s.bundle b).inFlight.filter (fun m => !m.again)
  let s := (s.modBundle b (fun x => { x with inFlight := x.inFlight.map (fun m => { m with again := true }) })).bump F.PRL_CNT_RESEND_COUNT l.length
  s.modPair (fun p => { p with waitQ := l ++ p.waitQ })

/-- What a bundle had in flight is gone with it: its credits are held again. -/
def State.flightGone (s : State) (b : Nat) : State :=
  (s.bundle b).inFlight.foldl (fun (s : State) m =>
    let s := s.set (F.PRL_CREDIT_AVAIL m.cls) (s.get (F.PRL_CREDIT_AVAIL m.cls) + m.slots)
    s.modPair (fun p => { p with credUsed := AL.upd m.cls 0 (fun n => n - m.slots) p.credUsed })) s

/-- A bundle leaves ACTIVE: what it had not had acknowledged goes out on the other one (R510). -/
def State.bundleLeave (s : State) (b st : Nat) : State :=
  if !s.bundleActive b then s.bundleTo b st
  else
    let s := (s.bundleTo b st).set (F.PRL_BUNDLE_STAT_LANES_OK b) 0
    (s.requeue b).peerPump.pairShow

/-- A bundle is enabled: `PRL_CTL.ENABLE` and its bit of `BUNDLE_EN`, with its reference within tolerance (R651) and no
lane held by a test (R710). -/
def State.bundleOn (s : State) (b : Nat) : Bool := s.get F.PRL_CTL_ENABLE == 1 && s.refOk 6 && s.bundleFree b && bitOf (s.get F.PRL_CFG_BUNDLE_EN) b

/-- Sequence numbers start at 0 again with a bundle that was DOWN (R315, R508). -/
def State.bundleDown (s : State) (b : Nat) : State :=
  ((s.bundleLeave b 0).flightGone b).modBundle b (fun x => { stateBeat := x.stateBeat, lastFlitBeat := x.lastFlitBeat })

/-- A bundle that is enabled and DOWN trains; one that is not is held in DOWN; RECOVER that lasts `RECOVER_TMO` units of 64
beats ends in DOWN (R505, Table 7.2). -/
def State.bundleTimers (s : State) : State :=
  [0, 1].foldl (fun (s : State) b =>
    let st := s.get (F.PRL_BUNDLE_STAT_STATE b)
    if !s.bundleOn b then (if st = 0 then s else s.bundleDown b)
    else if st = 0 then s.bundleTo b 1
    else if st = 5 ∧ (s.bundle b).stateBeat + 64 * s.get F.PRL_CFG_RECOVER_TMO ≤ s.beat then (s.bundleDown b).bundleTo b 1
    else s) s

/-- `PEER_LINK_ENABLE`: a write of `PRL_CTL.ENABLE` (Table 12.14). -/
def execPeerLinkEnable (m : Nat) (en : Bool) (s : State) : Res :=
  .next (s.busWr m 270 0x108 (fun s => (s.set F.PRL_CTL_ENABLE (b2n en)).bundleTimers.pairShow))

/-- `PEER_BUNDLE_RETRAIN`: bit b of `PRL_CTL.RETRAIN` takes bundle b to DOWN, from where it trains (Table 7.2). -/
def execPeerBundleRetrain (m mask : Nat) (s : State) : Res :=
  .next (s.busWr m 270 0x108 (fun s =>
    ([0, 1].foldl (fun (s : State) b => if bitOf mask b && s.bundleOn b then (s.bundleDown b).bundleTo b 1 else s) s).pairShow))

/-- Advertise the receive slots of every class to a peer that has none of them yet (R509). -/
def State.advertise (s : State) : State :=
  if s.pair.advertised then s
  else (List.range 5).foldl (fun (s : State) c => s.peerReturn c (s.get (F.PRL_CLASS_CFG_SLOTS c))) (s.modPair (fun p => { p with advertised := true }))

/-- `PEER_BUNDLE_ACTIVE` (R505): all 16 lanes have passed ALIGN with their skews; more than 64 UI on one holds the bundle in
ALIGN. Messages in flight survive RECOVER (R315). -/
def execPeerBundleActive (b : Nat) (skews : List Nat) (s : State) : Res :=
  .next (if 2 ≤ b ∨ !s.bundleOn b ∨ s.bundleActive b ∨ skews.length ≠ 16 then s
    else if skews.any (fun k => 64 < k) then s.bundleTo b 3
    else
      let s := (s.bundleTo b 4).setAll [(F.PRL_BUNDLE_STAT_LANES_OK b, 0xFFFF), (F.PRL_BUNDLE_STAT_UP_BEAT b, s.beat32)]
      let s := s.modBundle b (fun x => { x with
        skews := skews, badRun := 0, timerRun := 0, nakSent := false, ackBeat := s.beat, lastFlitBeat := s.beat, scrTx := scrStart, scrRx := scrStart })
      s.advertise.sendHello.peerPump.pairShow)

/-- `PEER_BUNDLE_LEAVE_ACTIVE` (R510, Table 7.2): the bundle goes to RECOVER. -/
def execPeerBundleLeaveActive (b : Nat) (s : State) : Res :=
  .next (if b < 2 ∧ s.bundleActive b then s.bundleLeave b 5 else s)

/-- Credits returned by the peer (R509): those in use first; what exceeds them is what the peer advertises. -/
def State.peerCredit (s : State) (cls cnt : Nat) : State :=
  if 5 ≤ cls then s else
    let u := AL.getD cls 0 s.pair.credUsed
    let s := s.modPair (fun p => { p with credUsed := AL.put cls (u - cnt) p.credUsed })
    let s := s.setAll [(F.PRL_CREDIT_ADV cls, s.get (F.PRL_CREDIT_ADV cls) + (cnt - u)),
      (F.PRL_CREDIT_AVAIL cls, s.get (F.PRL_CREDIT_AVAIL cls) + cnt)]
    s.peerPump

/-- Send one NAK naming the last flit accepted, and none again until a flit is accepted (R320, R508). -/
def State.peerNak (s : State) (b : Nat) : State :=
  if (s.bundle b).nakSent then s else
    (((s.modBundle b (fun x => { x with nakSent := true })).satInc (F.PRL_REPLAY_CNT_NAKS b) 1).send .peer 0x102
      [b, ((s.bundle b).rxExp + 65535) % 65536]).putPeer b 2 63 0 0 0

/-- An `ACK` advances over the flits it names; messages wholly in them are done with (R319, R510). -/
def State.peerAck (s : State) (b ack : Nat) : State :=
  let x := s.bundle b
  let n := (ack + 1 + 65536 - x.ackedTo % 65536) % 65536
  if 0 < n ∧ n ≤ x.txSeq - x.ackedTo then
    (s.modBundle b (fun x => { x with
      ackedTo := x.ackedTo + n, ackBeat := s.beat, timerRun := 0
      held := x.held.filter (fun q => decide (x.ackedTo + n ≤ q.1))
      inFlight := x.inFlight.filter (fun m => decide (x.ackedTo + n ≤ m.last)) })).peerPump
  else s

/-- Flits held, from a sequence number on, are sent again (R321). -/
def State.peerResend (s : State) (b seq : Nat) : State :=
  let x := s.bundle b
  if seq = x.txSeq % 65536 then s
  else (x.held.filter (fun q => decide ((seq + 65536 - x.ackedTo % 65536) % 65536 ≤ q.1 - x.ackedTo))).foldl
    (fun (s : State) q => s.putPeer b 1 q.2.1 (q.1 % 65536) 0 q.2.2) (s.send .peer 0x103 [b, seq])

/-- The class of a message type (Table 12.6). -/
def peerClass (mtype : Nat) : Option Nat :=
  if mtype = 0x06 ∨ mtype = 0x13 ∨ mtype = 0x15 ∨ mtype = 0x16 then some 3
  else if mtype = 0x0F ∨ mtype = 0x11 ∨ mtype = 0x21 then some 2
  else if mtype = 0x10 then some 1
  else if mtype = 0x20 then some 4
  else if (1 ≤ mtype ∧ mtype ≤ 0x17) then some 0
  else none

/-- A message is whole (R510, R511): its credits go back to the peer; of a wrong type or class it is discarded as a protocol
error; one delivered before is a duplicate; else it is counted. -/
def State.peerWhole (s : State) (h : PeerHdr) : State :=
  let s := if h.cls < 5 then s.peerReturn h.cls h.slots else s
  if peerClass h.mtype ≠ some h.cls then (s.bump F.PRL_CNT_BAD_MSG_COUNT).raise 270 Cond.PEER_PROTOCOL_ERROR h.mtype
  else
    let d := AL.getD h.cls (0, []) s.pair.delivered
    if h.cseq < d.1 ∨ d.2.contains h.cseq then s.bump F.PRL_CNT_DUP_COUNT
    else
      let low := (List.range (d.2.length + 1)).foldl (fun n _ => if n = h.cseq ∨ d.2.contains n then n + 1 else n) d.1
      (s.modPair (fun p => { p with delivered := AL.put h.cls (low, (d.2 ++ [h.cseq]).filter (fun n => decide (low ≤ n))) p.delivered })).bump
        (F.PRL_MSG_CNT_RX_COUNT h.cls)

/-- The credits that a flit returns, of two classes (Table 12.3); those of a DATA flit that is not accepted come again with it
(log entry 139). -/
def State.peerCredits (s : State) (bytes : List Nat) : State :=
  let w := bytesNum ((bytes.drop 8).take 8)
  (s.peerCredit (bitsOf w 61 3) (bitsOf w 48 13)).peerCredit (bitsOf w 45 3) (bitsOf w 32 13)

/-- A received flit, decoded and judged, with its bytes up to its slots' end (R318 to R321, R508). -/
def State.peerFlitRx (s : State) (b : Nat) (f : FlitIn) (bytes : List Nat) : State :=
  if !f.decoded then
    let s := (s.satInc (F.PRL_FEC_CNT_UNCORR b) 1).modBundle b (fun x => { x with badRun := x.badRun + 1 })
    let s := s.peerNak b
    if 8 ≤ (s.bundle b).badRun then s.bundleLeave b 5 else s
  else
    let typ := bitsOf f.header 61 3
    let ack := bitsOf f.header 32 16
    let seq := bitsOf f.header 16 16
    let s := (s.satInc (F.PRL_FEC_CNT_CORRECTED b) f.corrected).modBundle b (fun x => { x with badRun := 0 })
    if !f.crcOk || decide (3 < typ) then (s.satInc (F.PRL_REPLAY_CNT_CRC_FAIL b) 1).peerNak b
    else
      let s := s.modBundle b (fun x => { x with lastFlitBeat := s.beat })
      let s := if bitOf f.header 54 then s.peerAck b ack else s
      if typ = 1 then
        let x := s.bundle b
        if seq = x.rxExp then
          let (msgs, cur) := peerMsgs bytes (bitsOf f.header 55 6) x.rxMsg
          msgs.foldl (fun (s : State) h => s.peerWhole h)
            ((s.peerCredits bytes).modBundle b (fun x => { x with rxExp := (x.rxExp + 1) % 65536, nakSent := false, rxMsg := cur }))
        else if (x.rxExp + 65536 - seq) % 65536 ≤ 32768 then s
        else s.peerNak b
      else
        let s := s.peerCredits bytes
        if typ = 2 then s.peerResend b ((ack + 1) % 65536) else s

/-- A flit of a bundle in ACTIVE: descrambled, decoded and checked, and what it carries (R506 to R508). -/
def State.peerFlit (s : State) (b flit : Nat) : State :=
  let (x, st) := scramble peerFlitBits (s.bundle b).scrRx
  let (f, bytes) := peerFlitIn (flit ^^^ x)
  (s.modBundle b (fun x => { x with scrRx := st })).peerFlitRx b f bytes

/-- `PEER_FLIT_RX` (R506 to R511): the 1,088 bytes of a flit as the bundle's lanes carry them, while the bundle is ACTIVE. -/
def execPeerFlitRx (b flit : Nat) (s : State) : Res :=
  .next (if b < 2 ∧ s.bundleActive b then s.peerFlit b flit else s)

/-- `PEER_REPLAY_TIMER` (R321, R508): 1 beat with unacknowledged flits and no advance; the eighth time in a row the bundle
leaves ACTIVE. -/
def execPeerReplayTimer (b : Nat) (s : State) : Res :=
  .next (
    let x := s.bundle b
    if b < 2 ∧ s.bundleActive b ∧ x.ackedTo < x.txSeq ∧ x.ackBeat + 1 ≤ s.beat then
      let s := (s.satInc (F.PRL_REPLAY_CNT_TIMER b) 1).modBundle b (fun x => { x with timerRun := x.timerRun + 1, ackBeat := s.beat })
      if 8 ≤ (s.bundle b).timerRun then s.bundleLeave b 5 else s.peerResend b (x.ackedTo % 65536)
    else s)

/-! ### The ring of the peer (R175, R176) -/

/-- Take the standing hold of pool 5. -/
def State.ringHold (s : State) : State :=
  if s.pair.hold then s else ((s.poolTake 5 ringUnits).modPair (fun p => { p with hold := true })).set F.JNL_STAT_RINGS 0

/-- Release it. -/
def State.ringFree (s : State) : State :=
  let s := if s.pair.hold then (s.poolGive 5 ringUnits).modPair (fun p => { p with hold := false }) else s
  s.set F.JNL_STAT_RINGS 2

/-- Records in the peer's ring. -/
def State.peerRing (s : State) : List (Nat × JRec) := s.write.recs.filter (fun q => q.1 / ringUnits != s.side)

/-! ### Witness frames (Tables 12.7 and 12.8, R515 to R520, R534) -/

/-- A shard's lease data. -/
def State.lease (s : State) (sh : Nat) : Lease := AL.getD sh {} s.pair.leases

/-- Change it. -/
def State.modLease (s : State) (sh : Nat) (f : Lease → Lease) : State :=
  s.modPair (fun p => { p with leases := AL.upd sh {} f p.leases })

/-- Bytes of a frame before its `MAC`. -/
def State.witBytes (s : State) (typ reqId : Nat) (body : List Nat) : List Nat :=
  [0xA5, 0x5A, 1, typ] ++ leNat 2 body.length ++ leNat 2 (s.get F.FAB_ID_HID) ++ leNat 8 s.pair.arrayId ++ leNat 8 reqId ++ body

/-- The 32 bytes of a `MAC` under the witness key; with an empty slot it fails to verify anywhere (log entry 54). -/
def State.witMac (s : State) (l : List Nat) : List Nat × State :=
  match s.slotFor (s.get F.LSE_WIT_CFG_KEY_SLOT) 2 with
  | (some k, s) => (macBytes k l, s)
  | (none, s) => let (v, s) := s.free 64
    (beBytes 32 v, s)

/-- Send a frame on every enabled transport (R520); over UDP it stands at `LSE_WIT_BUF` for management firmware (R534). -/
def State.witSend (s : State) (typ reqId : Nat) (body : List Nat) : State :=
  if !s.maySend .witness typ then s else
    let l := s.witBytes typ reqId body
    let (mac, s) := s.witMac l
    let s := s.bump F.LSE_CNT_REQ_COUNT
    let s := if s.get F.LSE_WIT_CFG_SERIAL_EN = 1 then s.send .witness typ (l ++ mac) else s
    if s.get F.LSE_WIT_CFG_UDP_EN = 1 then
      ((s.putBytes (s.get F.LSE_WIT_BUF_BASE * 512) (l ++ mac)).set F.LSE_WIT_TX_LEN (l.length + 32)).irq 275 1
    else s

/-- The next `REQ_ID`: the boot count above a count within the boot. -/
def State.nextReqId (s : State) : Nat × State :=
  let n := s.pair.reqCount + 1
  (s.flash.bootCount % 2 ^ 32 * 2 ^ 32 + n, s.modPair (fun p => { p with reqCount := n }))

/-- The body of a request about a shard: type 1 ACQUIRE, 2 RENEW, 3 RELEASE. -/
def State.reqBody (s : State) (typ sh purpose : Nat) : List Nat :=
  [sh, if typ = 1 then purpose else 0, 0, 0] ++ leNat 4 (s.epochOf sh)

/-- Send a request about a shard for the first time: LSE stamps the cycle of the first copy (R515, R516). -/
def State.witAsk (s : State) (typ sh purpose : Nat) : State :=
  let (id, s) := s.nextReqId
  let s := s.modLease sh (fun l => { l with
    req := typ, purpose := purpose, reqId := id, reqStart := s.k1, reqBeat := s.beat, waitUntil := none })
  s.witSend typ id (s.reqBody typ sh purpose)

/-- Whether a request or probe may be sent at all: the boot chain has started Derist firmware (R576), and no lease is asked for
after a debug unlock (R599). -/
def State.witLive (s : State) : Bool := decide (2 ≤ s.get F.SEC_BOOT_STAT_STAGE) && !s.health.bootHalted

/-- A lease may be asked for. -/
def State.mayAcquire (s : State) : Bool := s.witLive && !s.sec.jtagSecure

/-- Fence a shard held and send RELEASE (R518); a release is no loss. -/
def State.release (s : State) (sh : Nat) : State :=
  if s.leaseHeld sh then ((s.fence sh).setLease sh 4).witAsk 3 sh 0
  else if s.get (F.LSE_SHARD_STATE sh) = 1 then (s.setLease sh 0).modLease sh (fun l => { l with req := 0, waitUntil := none })
  else s

/-- Release every lease. -/
def State.releaseAll (s : State) : State := (s.release 0).release 1

/-! ### MODE (Table 12.6) -/

/-- A host port is up. -/
def State.anyPortUp (s : State) : Bool := s.hfiLive && (List.range 96).any (fun p => s.portUp p)

/-- What MODE carries: mode, leases held with their epochs, host ports up, and the journal generation. -/
def State.modeWords (s : State) : List Nat :=
  [s.get F.LSE_MODE_MODE, b2n (s.leaseHeld 0), b2n (s.leaseHeld 1), s.epochOf 0, s.epochOf 1, b2n s.anyPortUp, s.get F.JNL_KEY_STAT_JGEN]

/-- Send MODE. -/
def State.sendMode (s : State) : State :=
  (s.sendPeer 2 0 s.modeWords).modPair (fun p => { p with lastModeSent := s.beat, modeSent := some s.modeWords })

/-- `PEER_MODE_SEND` (R513): every 1,024 beats and on each change. -/
def execPeerModeSend (s : State) : Res :=
  .next (if s.pair.lastModeSent + 1024 ≤ s.beat ∨ s.pair.modeSent ≠ some s.modeWords then s.sendMode else s)

/-! ### Entering SOLO and PAIRED (Table 12.1) -/

/-- A takeover's phase; a change sets `TKO_CHANGE`. -/
def State.tkoTo (s : State) (ph : Nat) : State :=
  if s.get F.PRL_TKO_STAT_PHASE = ph then s else (s.set F.PRL_TKO_STAT_PHASE ph).irq 273 2

/-- Ask for the peer's shard (R524 step 1). -/
def State.tkoAsk (s : State) : State :=
  let sh := 1 - s.side
  let s := (s.tkoTo 1).modPair (fun p => { p with tkoStart := s.beat, tkoWaitEnd := s.beat })
  (s.setLease sh 1).witAsk 1 sh 2

/-- Commands of the peer's ring whose records are all present enter (R524 step 3); those with a record missing are discarded
(step 4). The records queue for chunking under tags of their own (step 5; log entry 55). -/
def State.tkoReplay (s : State) : State :=
  let mine := s.peerRing.filter (fun q => !q.2.own)
  let landed := mine.filter (fun q => q.2.state == 1)
  let tags := (landed.map (fun q => q.2.tag)).eraseDups
  let whole (t : Nat) : Bool := match (mine.find? (fun q => q.2.tag == t)) with
    | some (_, j) => decide (j.cmdCount ≤ (mine.filter (fun q => q.2.tag == t)).length)
    | none => false
  let good := sortBy (fun q => q.2.seq) (landed.filter (fun q => whole q.2.tag))
  let bad := tags.filter (fun t => !whole t)
  let s := good.foldl (fun (s : State) q => s.enterRec q.1) s
  let s := s.modWrite (fun w => { w with
    recs := (w.recs.filter (fun q => q.1 / ringUnits == s.side || q.2.own || q.2.state != 1)).map (fun q =>
      if q.2.own then q else (q.1, { q.2 with own := true, tag := q.2.tag + 2 ^ 32 })) })
  s.set F.PRL_TKO_STAT_PARTIAL bad.length

/-- SOLO is entered (R524 step 6, R184, R525). -/
def State.tkoSolo (s : State) : State :=
  let t := s.beat - s.pair.tkoStart
  let s := (s.setMode .solo).modPair (fun p => { p with lost := false })
  let s := if s.peerRing = [] then s else s.ringHold
  let s := (s.setAll [(F.PRL_TKO_BEATS_T1_T0, t), (F.JNL_STAT_RINGS, if s.pair.hold then 1 else 2)]).bump F.PRL_CNT_TAKEOVER_COUNT
  let s := s.sample 34 t
  let s := if 312500 < t then s.raise 273 Cond.TAKEOVER_SLOW t else s
  let s := if s.vat.sweepVat.isSome then s.modVat (fun t => { t with
      sweepLeft := t.sweepLeft ++ s.sweepBands.filter (fun b => ((s.band b).map (·.shard)).getD s.side != s.side), ownEnded := false }) else s
  s.zeroScan.enterAll.tkoTo 4

/-- A takeover goes on: once every brick has answered SET_OWNER the ring is replayed and SOLO entered; phase 4 ends with the
last update record of the peer's shard; an empty ring of the peer is this head's own (R176). -/
def State.tkoOn (s : State) : State :=
  let ph := s.get F.PRL_TKO_STAT_PHASE
  let s := if (ph = 2 ∧ s.pair.ownersLeft = []) ∧ (s.mode = .paired ∨ (s.mode = .boot ∧ s.pair.homeGranted ∧ s.get F.FTL_RECOVER_STAT_PHASE = 3)) then
      (s.tkoTo 3).tkoReplay.tkoSolo else s
  let s := if s.get F.PRL_TKO_STAT_PHASE = 4 ∧ !s.write.upd.any (fun q => !q.2.own && q.2.entered && !q.2.applied) then (s.tkoTo 0).resolveWaiting [] else s
  if s.mode = .solo ∧ s.pair.hand = .none ∧ s.get F.JNL_STAT_RINGS = 1 ∧ s.peerRing = [] then s.ringFree else s

/-- BOOT ends in PAIRED (R529, Table 12.1). -/
def State.bootOn (s : State) : State :=
  let home := s.side
  let peerHas := s.pair.peerHolds.contains home
  if s.mode = .boot ∧ s.pair.homeGranted ∧ s.leaseHeld home ∧ s.pair.ownersLeft = [] ∧ s.get F.PRL_STAT_REACHABLE = 1 ∧ s.resynced ∧ !peerHas
      ∧ s.get F.PRL_TKO_STAT_PHASE = 0 then
    (s.ringHold.setMode .paired).sendMode
  else s

/-- What the pair does at beat boundaries. -/
def State.pairOn (s : State) : State := s.bundleTimers.tkoOn.bootOn.pairShow

/-! ### Loss (R514, R524, R528) -/

/-- A page that was asked of the lost peer: it is read from flash, at a takeover once its lookups are no longer held (R304). -/
def State.pageTurn (s : State) (ctb : Bool) (key : Nat) : State :=
  if s.pair.lost then s.modMeta ctb key (fun g => { g with fetching := false }) else s.metaRead ctb key false

/-- The peer is declared lost. In PAIRED the takeover begins; a hand-back is abandoned; the mailbox and what waits for the peer
are dealt with (R614, R184, R195). -/
def State.peerLost (s : State) : State :=
  let s := ((s.raise 270 Cond.PEER_LOST).bump F.PRL_CNT_LOSS_COUNT).set F.PRL_STAT_LOSS_BEAT s.beat32
  let s := s.modPair (fun p => { p with
    entryBeat := 0, entryMore := []
    everReachable := false, advertised := false, lastModeBeat := none, waitQ := [], credUsed := [], peerPins := [], ownPins := [], peerHolds := []
    bundles := AL.mapV (fun _ x => { x with inFlight := [] }) p.bundles })
  let s := (List.range 5).foldl (fun (s : State) c => s.setAll [(F.PRL_CREDIT_AVAIL c, 0), (F.PRL_CREDIT_ADV c, 0)]) s
  let s := ((List.range 8).foldl (fun (s : State) i =>
    if s.mbxBound (112 + i) ∧ s.mbxFull (112 + i) then s.mbxFlush (112 + i) else s) s).masterReset 61
  let s := s.setAll [(F.PRL_PAIR_STAT_KEY_SYNCED, 0), (F.PRL_PAIR_STAT_TABLES_SYNCED, if s.mode = .boot then 0 else s.get F.PRL_PAIR_STAT_TABLES_SYNCED)]
  let s := if s.pair.hand = .handbackDraining then (s.modPair (fun p => { p with hand := .none })).tkoTo 0 else s
  let s := if s.mode = .paired then
      (s.modPair (fun p => { p with lost := true, hand := if p.hand = .handbackReleased then .none else p.hand })).tkoAsk
    else s
  let s := (s.write.jobs.filter (fun q => q.2.stage == .peerAsked)).foldl (fun (s : State) q => s.newChunk q.1 false) s
  let s := (s.write.recs.filter (fun q => q.2.fetchWait || s.adm.reqs.any (fun r => r.2.recWait.contains q.1))).foldl
    (fun (s : State) q => s.recDataCame q.1 0 false) s
  let far (ctb : Bool) (q : Nat × MetaPage) : Bool := q.2.fetching && !q.2.queued && q.2.left == 0 && !s.homeOf (metaHome ctb q.1)
  let s := (s.read.mapPages.filter (far false)).foldl (fun (s : State) q => s.pageTurn false q.1) s
  let s := (s.read.ctbPages.filter (far true)).foldl (fun (s : State) q => s.pageTurn true q.1) s
  s.pairShow

/-- `PEER_LOSS_TIMEOUT` (R514): no good flit on either bundle for `PEER_LOSS_TMO` beats. -/
def execPeerLossTimeout (s : State) : Res :=
  .next (if s.pair.everReachable ∧ [0, 1].all (fun b => decide ((s.bundle b).lastFlitBeat + s.get F.PRL_CFG_PEER_LOSS_TMO ≤ s.beat)) then s.peerLost
    else s)

/-- `PEER_HANDOVER_RX` (R502): as a peer loss. -/
def execPeerHandoverRx (s : State) : Res := .next (if s.pair.everReachable then s.peerLost else s)

/-- `PEER_MODE_TIMEOUT` (R513): no MODE within 2,048 beats. -/
def execPeerModeTimeout (s : State) : Res := .next s.pairShow

/-! ### Pairing (R175, R177, R240, R513, R590) -/

/-- The five words of a 32-byte key as it is wrapped. -/
def wrapWords (w : Nat) : List Nat := (List.range 5).map (fun i => w / 2 ^ (64 * i) % 2 ^ 64)

/-- This head's journal key, wrapped for the peer under the pair key (R177). -/
def State.sendKeyWrap (s : State) : State :=
  let h := hJnl (s.get F.FAB_ID_HID) (s.get F.JNL_KEY_STAT_JGEN)
  match AL.get h s.sec.handles, s.sec.pairKey with
  | some k, some pk => s.sendPeer 5 0 ([s.get F.JNL_KEY_STAT_JGEN, 0] ++ wrapWords (Config.keyWrap pk k.value 32))
  | _, _ => s

/-- The tables as a TABLES message carries them (R240), salts wrapped under the pair key (Table 14.4). -/
def State.sendTables (s : State) : State :=
  let vats := s.vat.vats.flatMap (fun q => [q.1, q.2.state, b2n q.2.isSealed, b2n q.2.published, b2n q.2.cdAllow, q.2.comp, q.2.keyGen, b2n q.2.oldLive,
    q.2.oldGen] ++ wrapWords (match s.sec.pairKey with
    | some k => Config.keyWrap k q.2.salt 32
    | none => 0))
  let vols := s.vat.vols.flatMap (fun q => [q.1, q.2.state, q.2.vat, q.2.profile, q.2.sizeM1, (q.2.origin.map (· + 1)).getD 0, q.2.snapBeats.length] ++ q.2.snapBeats)
  let snaps := s.vat.snaps.flatMap (fun q => [q.1, q.2.state, q.2.vol, q.2.beat, q.2.sizeM1])
  s.sendPeer 6 3 ([s.vat.vats.length] ++ vats ++ [s.vat.vols.length] ++ vols ++ [s.vat.snaps.length] ++ snaps)

/-- Resynchronisation begins with a peer that has become reachable (R514): keys are exchanged; a head in BOOT takes the tables
of one in PAIRED or SOLO, side B those of side A when both are in BOOT. The side whose tables count has them. -/
def State.resyncStart (s : State) : State :=
  let s := s.sendKeyWrap
  let pm := s.get F.PRL_PEER_INFO_MODE
  if pm = 1 ∧ (s.serving ∨ (s.mode = .boot ∧ s.side = 0)) then s.sendTables.set F.PRL_PAIR_STAT_TABLES_SYNCED 1 else s

/-- `PEER_HELLO_RX` (R513): it matches when its array identity and `LAYOUT` are the head's own. After it a head in BOOT holds
the peer's ring (R175). -/
def execPeerHelloRx (hid arrayId layout format : Nat) (s : State) : Res :=
  .next (if s.ctlBundle.isNone then s else
    let s := s.setAll [(F.PRL_STAT_PEER_HID, hid), (F.PRL_PEER_INFO_LAYOUT, layout)]
    if arrayId = s.pair.arrayId ∧ layout = 1 then
      let s := (s.set F.PRL_PAIR_STAT_MISMATCH 0).modPair (fun p => { p with helloMatched := true, peerFormat := format })
      let s := if s.mode = .boot then s.ringHold else s
      s.sendMode.pairShow
    else
      (((s.set F.PRL_PAIR_STAT_MISMATCH 1).modPair (fun p => { p with helloMatched := false })).raise 272 Cond.PAIR_MISMATCH hid).pairShow)

/-- `PEER_MODE_RX` (R513, R514, R529). -/
def execPeerModeRx (mode : Nat) (holdsA holdsB : Bool) (epochA epochB jgen : Nat) (s : State) : Res :=
  .next (if s.ctlBundle.isNone ∨ !s.pair.helloMatched then s else
    let was := s.get F.PRL_STAT_REACHABLE
    let s := s.setAll [(F.PRL_PEER_INFO_MODE, mode), (F.PRL_PEER_INFO_HOLDS_A, b2n holdsA), (F.PRL_PEER_INFO_HOLDS_B, b2n holdsB),
      (F.PRL_PEER_INFO_JGEN, jgen)]
    let s := s.modPair (fun p => { p with
      lastModeBeat := some s.beat, peerEpochA := epochA, peerEpochB := epochB
      peerHolds := (if holdsA then [0] else []) ++ (if holdsB then [1] else []) })
    let s := s.pairShow
    if (mode = 6 ∨ mode = 7) ∧ s.pair.everReachable then s.peerLost
    else
      let s := if was = 0 then s.resyncStart else s
      let s := if s.mode = .paired ∧ s.pair.hand = .handbackReleased ∧ mode = 3 then (s.modPair (fun p => { p with hand := .none })).tkoTo 0 else s
      s.bootOn.pairShow)

/-- KEY keeps the peer's journal keys of the current and the previous generation only (R586). -/
def State.peerKeyOld (s : State) (jgen : Nat) : State :=
  let g := s.get F.JNL_KEY_STAT_PEER_JGEN
  let old := hJnl (s.get F.PRL_STAT_PEER_HID) ((g + 65535) % 65536)
  if g = jgen ∨ old = hJnl (s.get F.PRL_STAT_PEER_HID) jgen then s
  else s.modSec (fun x => { x with handles := AL.del old x.handles })

/-- `PEER_KEY_WRAP_RX` (R177, R590): the peer's journal key, or `PAIR_KEY_MISMATCH`. -/
def execPeerKeyWrapRx (jgen wrapped : Nat) (s : State) : Res :=
  .next (match (s.sec.pairKey).bind (fun k => Config.keyUnwrap k wrapped) with
    | none => (s.set F.PRL_PAIR_STAT_KEY_SYNCED 0).raise Slot.KEY Cond.PAIR_KEY_MISMATCH jgen
    | some v =>
      let h := hJnl (s.get F.PRL_STAT_PEER_HID) jgen
      let s := s.peerKeyOld jgen
      let s := s.setAll [(F.JNL_KEY_STAT_PEER_KEY, 1), (F.JNL_KEY_STAT_PEER_JGEN, jgen), (F.KEY_JNL_STAT_PEER, jgen),
        (F.PRL_PAIR_STAT_KEY_SYNCED, 1)]
      (s.keyPut h { value := v }).bootOn.pairShow)

/-- `PEER_SYNC_DATA_RX` (R527): a record of the peer's own ring, entered there or not, is stored in its ring here. -/
def execPeerSyncDataRx (rec : MirrorRec) (entered : Bool) (s : State) : Res :=
  .next (match rec with
    | .data k d gen count idx unit =>
      let s := s.modWrite (fun w => { w with recs := AL.put k (s.jrecOf d gen count idx unit) w.recs })
      if entered then s.enterRec k else s
    | .update _ _ | .cursor _ _ _ => s)

/-- `PEER_MAILBOX_RX` (R613). -/
def execPeerMailboxRx (kind w epoch c : Nat) (s : State) : Res := .next (s.mbxFromPeer w kind epoch c)

/-! ### Mode requests and the planned hand-over (R501, R502) -/

/-- The result of a mode request: 1 done, 2 refused with a condition. -/
def State.modeResult (s : State) (result cond : Nat) : State :=
  s.setAll [(F.LSE_MODE_REQ_STAT_BUSY, 0), (F.LSE_MODE_REQ_STAT_RESULT, result), (F.LSE_MODE_REQ_STAT_CONDITION, cond),
    (F.LSE_MODE_REQ_STAT_BEAT, s.beat32)]

/-- The first refusal of R501 that applies, 0 for none. -/
def State.modeRefusal (s : State) (op : Nat) : Nat :=
  if op = 1 ∧ s.mode = .paired ∧ !(s.get F.PRL_STAT_REACHABLE = 1 ∧ s.get F.PRL_PEER_INFO_MODE = 3) then Cond.HANDOVER_PEER_ABSENT
  else if op = 1 ∧ s.mode = .solo then Cond.SERVICE_WOULD_STOP_ARRAY
  else if ((op = 1 ∨ op = 2) ∧ !(s.mode = .boot ∨ s.serving)) ∨ (op = 3 ∧ !(s.mode = .service ∨ s.mode = .fenced)) ∨ op = 0 ∨ 3 < op then
    Cond.MODE_REQ_INVALID
  else if s.get F.LSE_MODE_REQ_STAT_BUSY = 1 then Cond.MODE_REQ_BUSY
  else 0

/-- A hand-over begins: ANA moves to Change, and admitted writes drain (R502). -/
def State.handOver (s : State) (after : Nat) : State := s.modPair (fun p => { p with hand := .handoverDraining, after := after })

/-- A write of `LSE_MODE_REQ` (R501, Table 12.1). From BOOT and SOLO the leases are released and SERVICE is entered at once;
PAIRED runs the hand-over. -/
def State.modeReq (s : State) (op : Nat) : State :=
  let c := s.modeRefusal op
  if c ≠ 0 then
    if c = Cond.MODE_REQ_BUSY then s.setAll [(F.LSE_MODE_REQ_STAT_RESULT, 2), (F.LSE_MODE_REQ_STAT_CONDITION, c), (F.LSE_MODE_REQ_STAT_BEAT, s.beat32)]
    else s.modeResult 2 c
  else if op = 3 then (s.modeResult 1 0).selfReset 2
  else if s.mode = .paired then (s.set F.LSE_MODE_REQ_STAT_BUSY 1).handOver 0
  else (s.releaseAll.setMode .service).modeResult 1 0

/-- `LSE_MODE_REQ_SERVICE` (R501, R502). -/
def execLseModeReqService (m : Nat) (s : State) : Res := .next (s.busWr m 274 0x110 (fun s => s.modeReq 1))

/-- `LSE_MODE_REQ_SERVICE_RELEASE` (R501). -/
def execLseModeReqServiceRelease (m : Nat) (s : State) : Res := .next (s.busWr m 274 0x110 (fun s => s.modeReq 2))

/-- `LSE_MODE_REQ_REBOOT` (R501, R721). -/
def execLseModeReqReboot (m : Nat) (s : State) : Res := .next (s.busWr m 274 0x110 (fun s => s.modeReq 3))

/-- Every admitted write has entered the journal or ended (R502 step 2). -/
def State.writesDrained (s : State) : Bool :=
  !s.adm.reqs.any (fun q => q.2.changes && (match q.2.stage with
    | .waiting | .awaitData | .awaitMirror => true
    | _ => false))

/-- UPD writes a pointer record into the other sector: its sequence number is one above that in force (R626). -/
def State.putPtr (s : State) (p : Ptr) : State :=
  let q := { p with seq := s.flash.ptr.seq + 1 }
  { s with flash := { s.flash with ptr := q, sectors := AL.put (q.seq % 2) q.bytes s.flash.sectors } }

/-- The bank that the pointer names neither as current nor as next. -/
def State.staging (s : State) : Option Nat :=
  match s.flash.ptr.next with
  | none => some (1 - s.flash.ptr.curBank)
  | some (b, _) => if b = s.flash.ptr.curBank then some (1 - b) else none

/-- Activation steps 2 and 3, in SERVICE: a record names the staging bank and the free settings slot as next, and the head
resets (R628). -/
def State.activate (s : State) : State :=
  let f := s.flash
  let b := 1 - f.ptr.curBank
  let s := s.putPtr { f.ptr with
    next := some (b, 1 - f.ptr.curSlot), tries := 1, soloOk := f.schedSolo, autoConfirm := f.schedAuto, fellBack := false
    nextId := ((AL.get b f.banks).map (·.id)).getD 0 }
  s.selfReset 2

/-- Whether the hand-over has drained; then HANDOVER leaves, the home shard is fenced and released with any other lease, and
SERVICE is entered (R502 steps 3 to 5). -/
def State.handOverEnd (s : State) : State :=
  let s := s.sendPeer 0x17 0 []
  let s := (s.releaseAll.setMode .service).modPair (fun p => { p with hand := .none, lost := false })
  let s := s.tkoTo 0
  let s := if s.get F.LSE_MODE_REQ_STAT_BUSY = 1 then s.modeResult 1 0 else s
  if s.pair.after = 1 then s.activate else if s.pair.after = 2 then s.selfReset 4 else s

/-- `HANDOVER_DRAINED` (R502). -/
def execHandoverDrained (s : State) : Res :=
  .next (if s.pair.hand = .handoverDraining ∧ s.mode = .paired ∧ s.writesDrained then s.handOverEnd else s)

end Sys2Proof.Machine
end

