-- ==== Sys2Proof/Machine/Lease.lean ====
section
/-! DEFINITION. Chapter 12, leases and the witness: fence points, requests and answers, hand-back, rejoin, reports and the
standby audits (R515 to R534). -/

namespace Sys2Proof.Machine

/-! ### The lease count (R515, R517) -/

/-- K1 cycles of a lease that have run. -/
def State.leaseRun (s : State) (sh : Nat) : Nat := s.k1 - (s.lease sh).start

/-- The guard G of a lease of L beats. -/
def leaseGuard (l : Nat) : Nat := l / 1024 + 64

/-- Beats from the first copy of the request to the fence point. -/
def Lease.fenceAt (l : Lease) : Nat := l.len - leaseGuard l.len

/-- The fence point of a lease held has been reached: 200 K1 cycles a beat (R515). -/
def State.fenceDue (s : State) (sh : Nat) : Bool := decide (200 * (s.lease sh).fenceAt ≤ s.leaseRun sh)

/-- `LEASE_FENCE_POINT` (R515, R517): the fences close, the head enters FENCED and raises `LEASE_LOST`, with
`WITNESS_UNREACHABLE` where a RENEW has had no answer. -/
def execLeaseFencePoint (sh : Nat) (s : State) : Res :=
  .next (if sh < 2 ∧ s.leaseHeld sh ∧ s.fenceDue sh then
      let asked := (s.lease sh).req = 2
      let s := (s.loseLease sh 1 0 Cond.LEASE_LOST).raise 274 Cond.LEASE_LOST sh
      if asked then s.raise 275 Cond.WITNESS_UNREACHABLE sh else s
    else s)

/-- `LEASE_RENEW_DUE` (R517): L / 2 beats or fewer are left. -/
def execLeaseRenewDue (sh : Nat) (s : State) : Res :=
  .next (if sh < 2 ∧ s.get (F.LSE_SHARD_STATE sh) = 2 ∧ 100 * (s.lease sh).len ≤ s.leaseRun sh ∧ !s.fenceDue sh then
      (s.setLease sh 3).witAsk 2 sh 0 else s)

/-- `WITNESS_RETRY` (R517): the same frame again after `WIT_RETRY` beats without an answer. -/
def execWitnessRetry (sh : Nat) (s : State) : Res :=
  .next (
    let l := s.lease sh
    if sh < 2 ∧ l.req ≠ 0 ∧ l.waitUntil = none ∧ l.reqBeat + s.get F.LSE_CFG_WIT_RETRY ≤ s.beat then
      (s.modLease sh (fun l => { l with reqBeat := s.beat })).witSend l.req l.reqId (s.reqBody l.req sh l.purpose)
    else s)

/-! ### Hand-back (R527, R528) -/

/-- The hand-back begins: ANA Change, copies of the unretired own-ring records as SYNC_DATA. -/
def State.handBack (s : State) : State :=
  let s := s.modPair (fun p => { p with
    hand := .handbackDraining, handBeat := s.beat, handDeadline := s.beat + s.get F.PRL_HANDBACK_CFG_HANDBACK_TMO })
  let mine := s.write.recs.filter (fun q => q.2.own && q.1 / ringUnits == s.side && (q.2.state == 1 || q.2.state == 2 || q.2.state == 4))
  let s := mine.foldl (fun (s : State) q => s.sendPeer 0x16 3 (match s.mirrorArgs q.1 q.2 with
    | a :: l => (a + q.2.state * 2 ^ 48) :: l
    | [] => [])) s
  s.tkoTo 5

/-- `HANDBACK_RELEASE` (R527 step 4, R176): the returning head's ring holds no record; its hold is restored, its shard released
and PAIRED entered. -/
def execHandbackRelease (s : State) : Res :=
  .next (if s.mode = .solo ∧ s.pair.hand = .handbackDraining ∧ s.peerRing = [] then
      let s := (s.ringHold.release (1 - s.side)).setMode .paired
      let s := (s.modPair (fun p => { p with hand := .handbackReleased })).sample 35 (s.beat - s.pair.handBeat)
      ((s.bump F.PRL_CNT_HANDBACK_COUNT).tkoTo 6).sendMode.pairShow
    else s)

/-- `HANDBACK_TIMEOUT` (R528): the hand-back is abandoned. -/
def execHandbackTimeout (s : State) : Res :=
  .next (if s.pair.hand = .handbackDraining ∧ s.pair.handDeadline ≤ s.beat then
      (((s.modPair (fun p => { p with hand := .none })).tkoTo 0).raise 272 Cond.HANDBACK_TIMEOUT).pairShow
    else s)

/-! ### Answers of the witness (R516, R519, R520) -/

/-- A frame received whose `MAC`, `VER` and `BLEN` hold (R519). -/
structure WitFrame where
  typ : Nat
  hid : Nat
  arrayId : Nat
  reqId : Nat
  body : List Nat
  deriving DecidableEq, Repr

/-- Body bytes of an answer, where its type fixes them. -/
def witLen (typ blen : Nat) : Bool :=
  if typ = 0x84 then blen == 28
  else if typ = 0x81 then decide (12 ≤ blen) && decide (blen ≤ 64)
  else if typ = 0x83 then decide (2 ≤ blen) && decide (blen ≤ 64)
  else decide (8 ≤ blen) && decide (blen ≤ 64)

/-- Judge the bytes of a frame (R519): none when it is to be discarded. -/
def State.witParse (s : State) (l : List Nat) : Option WitFrame × State :=
  let blen := bytesNat l 4 2
  let head := l.take (24 + blen)
  let bad : Option WitFrame × State := (none, s.bump F.LSE_CNT_WIT_BAD_COUNT)
  if l.take 3 ≠ [0xA5, 0x5A, 1] ∨ l.length ≠ 56 + blen ∨ !witLen (l.getD 3 0) blen then bad
  else match s.slotFor (s.get F.LSE_WIT_CFG_KEY_SLOT) 2 with
    | (some k, s) =>
      if l.drop (24 + blen) = macBytes k head then
        (some ⟨l.getD 3 0, bytesNat l 6 2, bytesNat l 8 8, bytesNat l 16 8, (l.drop 24).take blen⟩, s)
      else (none, s.bump F.LSE_CNT_WIT_BAD_COUNT)
    | (none, s) => (none, s.bump F.LSE_CNT_WIT_BAD_COUNT)

/-- The frame names this head, its array, and the latest request for the shard of its body (R516, R520). -/
def State.witOurs (s : State) (f : WitFrame) (sh : Nat) : Bool :=
  f.hid == s.get F.FAB_ID_HID && f.arrayId == s.pair.arrayId && f.reqId == (s.lease sh).reqId && (s.lease sh).req != 0 && decide (sh < 2)

/-- An answer came over a transport. -/
def State.witOk (s : State) (udp : Bool) : State :=
  s.modPair (fun p => if udp then { p with udpOkBeat := some s.beat } else { p with serialOkBeat := some s.beat })

/-- A GRANT (R515, R516, R524, R527, Table 18.4): it arms or extends the lease unless the fence cycle it leads to, or that of the lease it
renews, has passed. -/
def State.grant (s : State) (f : WitFrame) : State :=
  let sh := f.body.getD 0 0
  let l := s.lease sh
  let epoch := bytesNat f.body 4 4
  let len := min (bytesNat f.body 8 4) (s.get F.LSE_CFG_LEASE_K * 1024)
  let late := decide (200 * (len - leaseGuard len) ≤ s.k1 - l.reqStart) || (l.req == 2 && s.fenceDue sh)
  if !s.witOurs f sh ∨ (l.req ≠ 1 ∧ l.req ≠ 2) ∨ late then s
  else
    let back := bitOf (f.body.getD 1 0) 0
    let s := s.modLease sh (fun l => { l with len := len, start := l.reqStart, req := 0, waitUntil := none })
    let s := ((s.set (F.LSE_SHARD_HANDBACK sh) (b2n back)).bump F.LSE_CNT_GRANT_COUNT).sample 36 ((s.k1 - l.reqStart) / 200)
    let s := s.setLease sh 2
    let s := if l.req = 1 then
        let s := (s.set (F.LSE_SHARD_EPOCH sh) epoch).setFence sh 0
        let s := s.ownersToAll sh
        if l.purpose = 2 then
          (s.set F.PRL_TKO_BEATS_WAIT (s.beat - s.pair.tkoStart)).tkoTo 2
        else s.modPair (fun p => { p with homeGranted := true })
      else s
    let s := if back ∧ s.mode = .solo ∧ sh ≠ s.side ∧ s.pair.hand = .none then s.handBack else s
    s.tkoOn.bootOn.pairShow

/-- A WAIT (R520, R524, Table 12.9): when to ask again, by its first copy. -/
def State.waitFor (s : State) (f : WitFrame) : State :=
  let sh := f.body.getD 0 0
  if !s.witOurs f sh ∨ (s.lease sh).waitUntil.isSome then s
  else s.modLease sh (fun l => { l with waitUntil := some (s.beat + bytesNat f.body 4 4) })

/-- A DENY (R515): for a lease held it is a loss with `LEASE_DENIED`; any other request that is
denied ends. -/
def State.denied (s : State) (f : WitFrame) : State :=
  let sh := f.body.getD 0 0
  let reason := f.body.getD 1 0
  if !s.witOurs f sh then s
  else
    let s := (s.bump F.LSE_CNT_DENY_COUNT).set F.LSE_WIT_STAT_LAST_DENY reason
    if s.leaseHeld sh then (s.loseLease sh 2 reason Cond.LEASE_DENIED).raise 274 Cond.LEASE_DENIED reason
    else
      let s := (s.setLease sh 0).modLease sh (fun l => { l with req := 0, waitUntil := none })
      if sh ≠ s.side ∧ s.get F.PRL_TKO_STAT_PHASE = 1 then s.tkoTo 0 else s

/-- A RELEASED (R518). -/
def State.released (s : State) (f : WitFrame) : State :=
  let sh := f.body.getD 0 0
  if !s.witOurs f sh ∨ (s.lease sh).req ≠ 3 then s
  else (s.setLease sh 0).modLease sh (fun l => { l with req := 0, waitUntil := none })

/-! ### Audits (R531, Table 12.12) -/

/-- Probe bits the audit has still to judge are in `rubPending`; when none is left the audit ends. -/
def State.rubEnd (s : State) : State :=
  let s := if bitOf s.pair.rubPending 5 ∧ s.pair.auditLeft = [] then s.modPair (fun p => { p with rubPending := p.rubPending - 32 }) else s
  if s.get F.PRL_RUB_RESULT_RUNNING = 0 ∨ s.pair.rubPending ≠ 0 then s
  else
    let bad := s.pair.rubFailed
    let s := s.setAll [(F.PRL_RUB_RESULT_RUNNING, 0), (F.PRL_RUB_RESULT_FAILED, bad)]
    if bad = 0 then s
    else
      let s := (s.setAll [(F.PRL_RUB_FAIL_INFO_BEAT, s.beat32), (F.PRL_RUB_FAIL_INFO_FAILED, bad)]).bump F.PRL_CNT_RUB_FAIL_COUNT
      (s.irq 273 1).raise 273 Cond.RUB_TEST_FAIL bad

/-- A probe is judged. -/
def State.rubJudge (s : State) (bit : Nat) (ok : Bool) : State :=
  if bitOf s.pair.rubPending bit then
    (s.modPair (fun p => { p with rubPending := p.rubPending - 2 ^ bit, rubFailed := if ok then p.rubFailed else p.rubFailed ||| 2 ^ bit })).rubEnd
  else s

/-- The peer's shard as a STATUS shows it: holder, epoch. -/
def WitFrame.shard (f : WitFrame) (sh : Nat) : Nat × Nat := (f.body.getD (12 * sh) 0, bytesNat f.body (12 * sh + 4) 4)

/-- A STATUS (R526, Table 12.12). -/
def State.witStatus (s : State) (f : WitFrame) (udp : Bool) : State :=
  if f.hid ≠ s.get F.FAB_ID_HID ∨ f.arrayId ≠ s.pair.arrayId ∨ f.reqId ≠ s.pair.probeId then s
  else
    let s := s.set F.LSE_WIT_STAT_HOLDOFF_LEFT (bytesNat f.body 24 4)
    let far := f.shard (1 - s.side)
    let peerEpoch := if s.side = 0 then s.pair.peerEpochB else s.pair.peerEpochA
    let s := s.rubJudge (if udp then 3 else 2) true
    let s := s.rubJudge 4 (far.1 == 2 - s.side && far.2 == peerEpoch)
    let home := f.shard s.side
    if s.mode = .fenced ∧ s.get F.LSE_CFG_AUTO_REJOIN = 1 ∧ s.get F.ERQ_STAT_HOLD = 0
        ∧ (home.1 = 0 ∨ (home.1 = 2 - s.side ∧ s.epochOf s.side < home.2)) then s.selfReset 5
    else s

/-- A frame from the witness: one of the wanted types acts; any other good frame does not concern this command. -/
def State.witRx (s : State) (l : List Nat) (udp : Bool) (types : List Nat) : State :=
  match s.witParse l with
  | (none, s) => s
  | (some f, s) =>
    if !types.contains f.typ then s
    else
      let s := s.witOk udp
      if f.typ = 0x81 then s.grant f
      else if f.typ = 0x82 then s.waitFor f
      else if f.typ = 0x83 then s.denied f
      else if f.typ = 0x84 then s.witStatus f udp
      else if f.typ = 0x85 then s.released f
      else s

/-- A frame over the serial link acts while that transport is enabled. -/
def State.witSerial (s : State) (l : List Nat) (typ : Nat) : State :=
  if s.get F.LSE_WIT_CFG_SERIAL_EN = 1 then s.witRx l false [typ] else s

/-- `WITNESS_GRANT_RX` (R516). -/
def execWitnessGrantRx (frame : List Nat) (s : State) : Res := .next (s.witSerial frame 0x81)

/-- `WITNESS_WAIT_RX` (R524). -/
def execWitnessWaitRx (frame : List Nat) (s : State) : Res := .next (s.witSerial frame 0x82)

/-- `WITNESS_DENY_RX` (R515). -/
def execWitnessDenyRx (frame : List Nat) (s : State) : Res := .next (s.witSerial frame 0x83)

/-- `WITNESS_STATUS_RX` (R526). -/
def execWitnessStatusRx (frame : List Nat) (s : State) : Res := .next (s.witSerial frame 0x84)

/-- `WITNESS_RELEASED_RX` (R518). -/
def execWitnessReleasedRx (frame : List Nat) (s : State) : Res := .next (s.witSerial frame 0x85)

/-- `WITNESS_WAIT_EXPIRE` (R524): the ACQUIRE goes out again, as a request of its own. -/
def execWitnessWaitExpire (sh : Nat) (s : State) : Res :=
  .next (
    let l := s.lease sh
    if sh < 2 ∧ l.req = 1 ∧ (l.waitUntil.map (fun b => decide (b ≤ s.beat))).getD false then s.witAsk 1 sh l.purpose else s)

/-! ### Requests of the head's own (R523, R526, R529) -/

/-- The bits of a REPORT: peer reachable, resynchronised, a host port up; and the mode. -/
def State.reportWord (s : State) : Nat :=
  s.get F.LSE_MODE_MODE + 256 * (s.get F.PRL_STAT_REACHABLE + 2 * b2n s.resynced + 4 * b2n s.anyPortUp)

/-- Send a PROBE or REPORT under a `REQ_ID` of its own. -/
def State.witTell (s : State) (typ : Nat) (body : List Nat) : State :=
  let (id, s) := s.nextReqId
  (s.modPair (fun p => { p with probeId := id })).witSend typ id body

/-- `WITNESS_REPORT_SEND` (R523): every 4,096 beats and on each change. -/
def execWitnessReportSend (s : State) : Res :=
  .next (if s.witLive ∧ s.mode ≠ .fenced ∧ (s.pair.lastReport + 4096 ≤ s.beat ∨ s.pair.reported ≠ some s.reportWord) then
      let w := s.reportWord
      (s.modPair (fun p => { p with lastReport := s.beat, reported := some w })).witTell 4 (leNat 4 w)
    else s)

/-- `HOME_ACQUIRE` (R529): in BOOT the head asks for its home shard. -/
def execHomeAcquire (s : State) : Res :=
  .next (
    let sh := s.side
    if s.mode = .boot ∧ s.mayAcquire ∧ !s.leaseHeld sh ∧ (s.lease sh).req = 0 then (s.setLease sh 1).witAsk 1 sh 1 else s)

/-- `BOOT_WAIT_EXPIRE` (Table 12.1): in BOOT with its home lease and no reachable peer for `BOOT_WAIT` units of 1,024 beats, the
head asks for the peer's shard. -/
def execBootWaitExpire (s : State) : Res :=
  .next (if s.mode = .boot ∧ s.mayAcquire ∧ s.leaseHeld s.side ∧ s.get F.PRL_STAT_REACHABLE = 0 ∧ s.get F.PRL_TKO_STAT_PHASE = 0
      ∧ max s.pair.bootBeat s.pair.downBeat + 1024 * s.get F.LSE_CFG_BOOT_WAIT ≤ s.beat then s.tkoAsk
    else s)

/-- `FENCED_PROBE` (R526): every 16,384 beats. -/
def execFencedProbe (s : State) : Res :=
  .next (if s.mode = .fenced ∧ s.pair.lastProbe + 16384 ≤ s.beat then
      (s.modPair (fun p => { p with lastProbe := s.beat })).witTell 5 []
    else s)

/-! ### The standby audit's commands -/

/-- Every enabled listener's interface lies on a port that is up (Table 12.12, bit 9). -/
def State.portsOk (s : State) : Bool :=
  let up (u n : Nat) : Bool := ((s.iface u n).map (fun i => s.portUp i.port)).getD false
  [0, 1].all (fun u => (List.range 8).all (fun k => (s.get (F.NVT_LISTEN_EN u k) == 0 || up u (s.get (F.NVT_LISTEN_IF u k)))
    && (s.get (F.LDT_LISTEN_EN u k) == 0 || up u (s.get (F.LDT_LISTEN_IF u k)))))

/-- The next bricks in READY that the audit samples, in rotation. -/
def State.rubBricks (s : State) : List Nat :=
  let l := s.readyBricks
  ((l.filter (fun k => decide (s.pair.rubNext ≤ k))) ++ (l.filter (fun k => decide (k < s.pair.rubNext)))).take (s.get F.PRL_RUB_CFG_SAMPLE)

/-- Send a RUB on a bundle. -/
def State.rubSend (s : State) (b : Nat) (echo : Bool) : State :=
  if s.bundleActive b then s.sendPeer 0x21 2 [b, b2n echo] else s

/-- An audit starts (R531): its probes go out, and those that need none are judged. -/
def State.rubStart (s : State) (ringOk ckptOk : Bool) : State :=
  let mask := s.get F.PRL_RUB_CFG_MASK
  let s := (s.set F.PRL_RUB_RESULT_RUNNING 1).bump F.PRL_CNT_RUB_COUNT
  let s := s.modPair (fun p => { p with lastRub := s.beat, rubSentBeat := s.beat, rubPending := mask, rubFailed := 0 })
  let s := if bitOf mask 0 then s.rubSend 0 false else s
  let s := if bitOf mask 1 then s.rubSend 1 false else s
  let s := if bitOf mask 2 ∨ bitOf mask 3 ∨ bitOf mask 4 then s.witTell 5 [] else s
  let ks := s.rubBricks
  let s := if bitOf mask 5 then
      ks.foldl (fun (s : State) k => s.brickSend k { mtype := 6, purpose := .audit })
        (s.modPair (fun p => { p with auditLeft := ks, rubNext := ((ks.getLast?).map (· + 1)).getD 0 }))
    else s
  let s := if s.get F.LSE_WIT_CFG_SERIAL_EN = 0 then s.rubJudge 2 true else s
  let s := if s.get F.LSE_WIT_CFG_UDP_EN = 0 then s.rubJudge 3 true else s
  ((((s.rubJudge 6 ringOk).rubJudge 7 (s.get F.JNL_KEY_STAT_PEER_KEY == 1)).rubJudge 8 ckptOk).rubJudge 9 s.portsOk).rubEnd

/-- `RUB_TEST` (R531): every 4,096 beats in PAIRED. `ringOk` when 64 descriptors of the peer's ring pass `CHECK`, `ckptOk` when
both copies of the peer's latest checkpoint read and pass their CRC. -/
def execRubTest (ringOk ckptOk : Bool) (s : State) : Res :=
  .next (if s.mode ≠ .paired ∨ s.get F.PRL_RUB_RESULT_RUNNING = 1 ∨ s.beat < s.pair.lastRub + 4096 then s else s.rubStart ringOk ckptOk)

/-- `PEER_RUB_RX` (R531): a RUB of the peer goes back on the bundle it names; an echo within 16 beats passes the probe. -/
def execPeerRubRx (b : Nat) (echo : Bool) (s : State) : Res :=
  .next (if 2 ≤ b then s
    else if !echo then s.rubSend b true
    else if s.beat ≤ s.pair.rubSentBeat + 16 then s.rubJudge b true else s.rubJudge b false)

/-- `RUB_PROBE_END` (R531): a probe whose answer has not come in time has failed: a RUB after 16 beats, a PROBE after
`WIT_RETRY` beats (log entry 56). -/
def execRubProbeEnd (probe : Nat) (s : State) : Res :=
  .next (
    let lim := if probe < 2 then 16 else s.get F.LSE_CFG_WIT_RETRY
    if probe < 5 ∧ s.pair.rubSentBeat + lim < s.beat then (s.rubJudge probe false).rubEnd else s.rubEnd)

/-! ### UDP (R534) -/

/-- `LSE_WIT_RX_WRITE` (R534): the frame at `LSE_WIT_BUF` + 0x100 of the length written is checked. -/
def execLseWitRxWrite (m len : Nat) (s : State) : Res :=
  .next (s.busWr m 275 0x118 (fun s =>
    if s.get F.LSE_WIT_CFG_UDP_EN = 1 then
      s.witRx (s.bytesAt (s.get F.LSE_WIT_BUF_BASE * 512 + 0x100) (len % 256)) true [0x81, 0x82, 0x83, 0x84, 0x85]
    else s))

/-- `LSE_WIT_TX_READ` (R534): the read answers the length and clears it. -/
def execLseWitTxRead (m : Nat) (s : State) : Res :=
  .next (s.busRd m 275 0x120 (fun s => ((s.answer (s.get F.LSE_WIT_TX_LEN)).set F.LSE_WIT_TX_LEN 0).irqOff 275 1))

end Sys2Proof.Machine
end

