-- ==== Sys2Proof/Machine/Power.lean ====
section
/-! DEFINITION. Chapter 17: domain states, requests and refusers, auto idle, DOZE, wake sources, clocks and references, and
the hand-off to VAULT. -/

namespace Sys2Proof.Machine

/-! ### Work of an instance (R73) -/

/-- A request has been admitted and has not ended. -/
def Req.admitted (r : Req) : Bool :=
  match r.stage with
  | .resolving | .slow _ | .held | .waiting | .done => false
  | _ => true

/-- A request that the read path serves. -/
def Req.isRead (r : Req) : Bool :=
  match r.kind with
  | .read | .prefetch | .fetch | .repChunks => true
  | _ => false

/-- A request came by a connection of a host-side unit. -/
def Req.fromUnit (r : Req) (u : Nat) : Bool :=
  match r.origin with
  | .nvt c _ => connUnit c == u
  | .ldt n _ => ldtUnit n == u
  | _ => false

/-- Admitted work remains in a unit of a block. -/
def State.unitBusy (s : State) (code i : Nat) : Bool :=
  let some_ (p : Req → Bool) : Bool := s.adm.reqs.any (fun q => q.2.admitted && p q.2)
  if code = Blk.ADM then some_ (fun _ => true)
  else if code = Blk.RDP ∨ code = Blk.MAP ∨ code = Blk.CTB ∨ code = Blk.RCH ∨ code = Blk.PFX then some_ (·.isRead)
  else if code = Blk.WRP ∨ code = Blk.JNL then some_ (·.changes)
  else if code = Blk.CHK ∨ code = Blk.SWX then s.write.jobs != []
  else if code = Blk.DSL then some_ (fun r => r.slice == i && (r.stage == .slice || r.stage == .fetching) && r.kind != .prefetch && r.kind != .move)
  else if code = Blk.FTL then s.ftl.placements != [] || s.ftl.moves.any (fun q => q.2.stage != 3)
  else if code = Blk.BND then s.ftl.issued != []
  else if code = Blk.MDL then (List.range 64).any (fun k => (s.link (64 * i + k)).ops != [] || (s.link (64 * i + k)).waiting != [])
  else if code = Blk.BRK ∨ code = Blk.DFM then (List.range 128).any (fun k => (s.brick k).cmd != 0)
  else if code = Blk.PRL then s.pair.waitQ != [] || [0, 1].any (fun b => (s.bundle b).inFlight != [])
  else if code = Blk.HFI ∨ code = Blk.NVT ∨ code = Blk.LDT then some_ (·.fromUnit i)
  else if code = Blk.LBC then some_ (fun r => match r.origin with | .ldt _ _ => true | _ => false)
  else if code = Blk.FAB then s.fab.fetches.any (fun q => !q.2.arrived)
  else if code = Blk.REP then s.fab.sync != [] || s.fab.links.any (fun q => q.2.cycle.isSome || q.2.polling)
  else if code = Blk.KEY ∨ code = Blk.SEC then s.mbx.keyQ != []
  else if code = Blk.UPD then s.mbx.updQ != []
  else false

/-- Units whose pages lie in a domain, by key. -/
def domUnits (d : Nat) : List Nat := (((List.range 368).filter (fun p => slotDomain p == d)).filterMap slotUnit).eraseDups

/-! ### Domains (Tables 17.2 and 17.3) -/

/-- Domains that a domain needs (Table 17.3). -/
def domNeeds (d : Nat) : List Nat :=
  if d = 2 ∨ d = 18 then [3] else if d = 3 then [19]
  else if 4 ≤ d ∧ d ≤ 9 then [3, 19] else if 10 ≤ d ∧ d ≤ 13 then [1, 3, 19]
  else if d = 14 ∨ d = 15 then [3, 19] else if d = 16 ∨ d = 17 then [3, 8] else []

/-- States that management may request of a domain. -/
def domMay (d st : Nat) : Bool :=
  if 4 ≤ d ∧ d ≤ 9 then st == 3 || st == 1 || st == 0
  else if d = 2 ∨ (10 ≤ d ∧ d ≤ 18) then st == 3 || st == 0
  else false

/-- Cores that a domain holds, and the master of each (R644, R98). -/
def domCores (d : Nat) : Nat := if d = 3 then 4 else if 4 ≤ d ∧ d ≤ 7 then 12 else if d = 8 then 16 else 0

/-- The master identity of a core. -/
def coreMaster (d k : Nat) : Nat := if d = 3 then 3 + k else if d = 8 then 55 + k / 4 else 7 + 12 * (d - 4) + k

/-- Masters of some cores of a domain, each once. -/
def coreMasters (d mask : Nat) : List Nat :=
  (((List.range (domCores d)).filter (fun k => bitOf mask k)).map (fun k => coreMaster d k)).eraseDups

/-- A core restarts; an application core at the start address of its cluster, `AON_CORE_VEC` (R644). -/
def State.startCore (s : State) (d m : Nat) : State := s.send (.core m) 1 (if 4 ≤ d ∧ d ≤ 7 then [4 * s.get (F.AON_CORE_VEC_ADDR (d - 4))] else [])

/-- Reset cores: each of their masters is reset (R644, Table 15.2). -/
def State.resetCores (s : State) (d mask : Nat) : State :=
  (coreMasters d mask).foldl (fun (s : State) m => (s.startCore d m).masterReset m) s

/-- A domain between ON or IDLE and another state. -/
def State.domReady (s : State) (d : Nat) : Bool := s.domUp d

/-- Refuser MODE of Table 17.3 for lowering a domain below IDLE. -/
def State.domModeNo (s : State) (d : Nat) : Bool :=
  if d = 8 then s.mode == .boot || s.mode == .paired || s.mode == .solo || s.mode == .fenced
  else if d = 9 ∨ d = 18 then s.mode == .paired || s.mode == .solo
  else false

/-- What a domain holds beyond its registers is lost in OFF: connections and ports, media lanes,
peer bundles, the service session, and its cores restart later. -/
def State.domLogicLost (s : State) (d : Nat) : State :=
  if d = 14 ∨ d = 15 then
    let u := d - 14
    let mine := (s.host.conns.map (·.1)).filter (fun c => connUnit c == u)
    let s := mine.foldl (fun (s : State) c => ((s.connCmdsEnd c).connectGone c).connFree c) s
    let s := ((s.ldt.conns.map (·.1)).filter (fun n => ldtUnit n == u)).foldl (fun (s : State) n => s.ldtClose n false) s
    let s := (s.host.ctrls.filter (fun q => q.1 / 1024 == u)).foldl (fun (s : State) q => s.assocGone (s.cntlid q.1)) s
    s.modHost (fun h => { h with
      ctrls := h.ctrls.filter (fun q => q.1 / 1024 != u)
      ifaces := h.ifaces.filter (fun q => q.1 / 128 != u)
      xoff := h.xoff.filter (fun q => q.1 / 8 / 48 != u)
      paused := h.paused.filter (fun q => q.1 / 8 / 48 != u)
      detect := h.detect.filter (fun q => q.1 / 12 != u) })
  else if d = 16 ∨ d = 17 then
    ((List.range 64).map (fun k => 64 * (d - 16) + k)).foldl (fun (s : State) ln =>
      if s.get (F.MDL_LINK_STAT_STATE ln) = 0 then s else ((s.set (F.MDL_LINK_CTL_ENABLE ln) 0).linkDown ln)) s
  else if d = 8 then s.modFtl (fun t => { t with retireQ := [] })
  else if d = 9 then [Blk.MAP, Blk.CTB, Blk.RCH, Blk.SWX].foldl (fun (s : State) c => s.cachesLost c) s
  else if d = 18 then (s.bundleDown 0).bundleDown 1
  else if d = 2 then
    s.modFlash (fun f => { f with session := none, nonce := none, frames := [], resps := [] })
  else s

/-- Move a domain to a state: the key caches and jobs of its slices in RET and OFF (R353), the eye scans of its quads, what it loses, its registers, and the epochs of its masters (R82, R606). -/
def State.domGo (s : State) (d st : Nat) : State :=
  let s := if st ≤ 1 then s.slicesWipe d else s
  let s := if st = 3 ∨ s.dom d ≠ 3 then s else ((List.range 64).filter (fun q => slotDomain (Slot.TST + q) == d)).foldl (fun (s : State) q =>
    if s.get (F.TST_STAT_EYE_STATE q) = 1 then
      { s.set (F.TST_STAT_EYE_STATE q) 3 with pins := { s.pins with tests := AL.upd q {} (fun t => { t with eye := none }) s.pins.tests } }
    else s) s
  let s := if st = 0 ∧ s.dom d ≠ 0 then
      let s := s.domLogicLost d
      let s := (coreMasters d (2 ^ 16 - 1)).foldl (fun (s : State) m => s.masterReset m) s
      if d = 2 then s.masterReset 60 else s
    else s
  let s := (s.domPut d st).hidMove (s.get F.FAB_ID_HID)
  if d = 18 then s.pairShow else s

/-! ### Requests and refusals (R641 to R643) -/

/-- The condition of a refuser (Table 17.4). -/
def refuserCond (r : Nat) : Nat :=
  if r = 1 then Cond.PWR_PROTECTED else if r = 2 then Cond.PWR_BUSY else if r = 3 then Cond.PWR_MODE_REFUSED
  else if r = 4 then Cond.PWR_DEPENDENT else if r = 5 then Cond.DOZE_LEASE_HELD else if r = 6 then Cond.PWR_WORK_PENDING
  else Cond.PWR_ENTRY_ABORTED

/-- A request or sequence runs. -/
def State.pwrRuns (s : State) : Bool := s.pwr.req.isSome || s.pwr.exit.isSome || s.get F.PWR_DOZE_STAT_PHASE != 0 || s.mode == .vault

/-- The outcome of a request: done, or refused by refuser `r` (R641, R642). -/
def State.pwrResult (s : State) (d r : Nat) : State :=
  let c := if r = 0 then 0 else refuserCond r
  let s := (s.setAll [(F.PWR_REQ_STAT_BUSY, b2n s.pwrRuns), (F.PWR_REQ_STAT_RESULT, if r = 0 then 1 else 2), (F.PWR_REQ_STAT_REFUSER, r),
    (F.PWR_REQ_STAT_DOMAIN, d), (F.PWR_REQ_STAT_CONDITION, c), (F.PWR_REQ_STAT_BEAT, s.beat32)]).irq Slot.PWR 1
  if r = 0 then s
  else
    let s := s.setAll [(F.PWR_REFUSE_LAST_REFUSER, r), (F.PWR_REFUSE_LAST_DOMAIN, d), (F.PWR_REFUSE_LAST_CONDITION, c),
      (F.PWR_REFUSE_LAST_BEAT, s.beat32)]
    let s := (s.bump (F.PWR_REFUSE_CNT_COUNT 0)).bump (F.PWR_REFUSE_CNT_COUNT r)
    let s := if d = 31 then s.bump F.PWR_CNT_DOZE_REFUSED_COUNT else s
    let s := if r = 7 then s.bump F.PWR_CNT_ABORT_COUNT else s
    s.raise Slot.PWR c d

/-- A core has an interrupt pending; with `wakeOnly`, one whose route has `WAKE` 1 (R88, R93). -/
def State.coresPend (s : State) (cores : List Nat) (wakeOnly : Bool) : Bool :=
  (s.pages.map (fun (p : Nat × PageHdr) => p.1) ++ (List.range 128).map (fun i => i + 896)).any (fun slot =>
    (!wakeOnly || s.get (F.IRT_ROUTE_WAKE slot) == 1) && cores.any (fun c => s.irqPending c slot))

/-- PWR sets `QUIESCE` on the enabled units of a domain that do not have it (R643). -/
def State.domQuiesce (s : State) (d : Nat) : State :=
  let mine := (domUnits d).filter (fun k => (s.unit k).enable && !(s.unit k).quiesce)
  (mine.foldl (fun (s : State) k => s.setUnit k { s.unit k with quiesce := true }) s).modPwr (fun p => { p with quiet := AL.put d mine p.quiet })

/-- PWR clears the bits that it set. -/
def State.domUnquiesce (s : State) (d : Nat) : State :=
  ((AL.getD d [] s.pwr.quiet).foldl (fun (s : State) k =>
    if (s.unit k).enable then s.setUnit k { s.unit k with quiesce := false, quiesced := false } else s) s).modPwr (fun p => { p with quiet := AL.del d p.quiet })

/-- Every unit of a domain is quiesced; a disabled one counts as quiesced. -/
def State.domQuiet (s : State) (d : Nat) : Bool := (domUnits d).all (fun k => !(s.unit k).enable || (s.unit k).quiesced)

/-- An exit of a domain begins: it moves, with its clamps closed (Table 17.6). -/
def State.exitBegin (s : State) (d : Nat) (asked : Bool) : State :=
  (s.setAll [(F.PWR_DOM_STAT_MOVING d, 1), (F.PWR_DOM_STAT_CLAMPED d, 1), (F.PWR_REQ_STAT_BUSY, 1)]).modPwr (fun p => { p with exit := some (d, asked) })

/-- Once PWR is free, a domain for which a wake was latched comes back (R647). -/
def State.pwrNext (s : State) : State :=
  match s.pwr.domWake with
  | d :: t =>
    if s.pwrRuns then s
    else
      let s := (s.modPwr (fun p => { p with domWake := t })).bump F.PWR_CNT_REPLAY_COUNT
      let s := if t = [] then s.set F.PWR_WAKE_LATCH_LATCHED (s.get F.PWR_WAKE_LATCH_LATCHED % 256) else s
      ((s.bump F.PWR_CNT_WAKE_COUNT).bump F.AON_CNT_WAKE_COUNT).exitBegin d false
  | [] => s

/-- The first of refusers 1 to 5 that applies to a domain request; 0 for none. -/
def State.domRefuser (s : State) (d op target cores : Nat) : Nat :=
  let cur := s.dom d
  let lower := decide (op = 1) && decide (target ≤ 1) && decide (target < cur)
  let rise := decide (op = 1) && decide (cur < target)
  if (op = 1 ∧ (!domMay d target ∨ (target = 1 ∧ cur = 0))) ∨ (op = 2 ∧ 2 ^ domCores d ≤ cores) ∨ op = 0 ∨ 2 < op then 1
  else if s.pwrRuns ∨ s.get (F.PWR_DOM_STAT_MOVING d) = 1 then 2
  else if lower && s.domModeNo d then 3
  else if (rise && (domNeeds d).any (fun n => !s.domReady n)) ||
      (lower && (List.range 20).any (fun e => (domNeeds e).contains d && decide (2 ≤ s.dom e))) then 4
  else if lower && (d == 16 || d == 17) && s.anyLease then 5
  else 0

/-- A write of `PWR_DOM_REQ[d]` (R641, R642, R644). -/
def State.domReq (s : State) (d op target cores : Nat) : State :=
  let r := s.domRefuser d op target cores
  if r ≠ 0 then s.pwrResult d r
  else if op = 2 then (s.resetCores d cores).pwrResult d 0
  else
    let cur := s.dom d
    if target = cur then s.pwrResult d 0
    else if target = 3 ∧ cur = 2 then (s.domGo d 3).pwrResult d 0
    else if cur < target then (s.set F.PWR_REQ_STAT_DOMAIN d).exitBegin d true
    else if cur = 1 then ((s.domGo d 0).bump F.PWR_CNT_ENTRY_COUNT).pwrResult d 0
    else
      let s := (s.domQuiesce d).modPwr (fun p => { p with req := some { dom := d, target := target, since := s.beat } })
      s.setAll [(F.PWR_REQ_STAT_BUSY, 1), (F.PWR_REQ_STAT_DOMAIN, d)]

/-- `PWR_DOM_SET_STATE` (R641, R642): `PWR_DOM_REQ[d]` with `OP` 1. -/
def execPwrDomSetState (m d target : Nat) (s : State) : Res :=
  .next (if 20 ≤ d then s else s.busWr m Slot.PWR (0x200 + 8 * d) (fun s => s.domReq d 1 (target % 4) 0))

/-- `PWR_DOM_RESET_CORES` (R644): `PWR_DOM_REQ[d]` with `OP` 2. -/
def execPwrDomResetCores (m d cores : Nat) (s : State) : Res :=
  .next (if 20 ≤ d then s else s.busWr m Slot.PWR (0x200 + 8 * d) (fun s => s.domReq d 2 0 (cores % 2 ^ 16)))

/-! ### The time base across DOZE (R32 to R34) -/

/-- D7: P1 to P8 stop, and with `OSC_STOP` and a good real-time clock the oscillator too, after the time base is captured;
a wake that arrived first keeps it running. -/
def State.clocksStop (s : State) (wake : Bool) : State :=
  if s.get F.PWR_DOZE_CTL_OSC_STOP = 1 ∧ s.refOk 1 ∧ !wake then
    ((s.modPwr (fun p => { p with capture := some s.time.tbFx })).setAll [(F.AON_TB_SAVE_NS, s.tb), (F.CLK_OSC_STAT_RUNNING, 0),
      (F.CLK_OSC_STAT_STOPPED_LAST, 1), (F.CLK_PLL_STAT_RUN, 0), (F.CLK_PLL_STAT_LOCK, 0)]).bump F.CLK_CNT_OSC_STOP_COUNT
  else s.setAll [(F.CLK_OSC_STAT_STOPPED_LAST, 0), (F.CLK_PLL_STAT_RUN, 1), (F.CLK_PLL_STAT_LOCK, 1)]


/-! ### Entries and exits (Tables 17.5, 17.6, 17.8 and 17.9) -/

/-- An entry ends refused: no domain has moved, and PWR clears the bits it set. -/
def State.entryEnd (s : State) (r : Nat) : State :=
  match s.pwr.req with
  | none => s
  | some q =>
    let s := s.modPwr (fun p => { p with req := none })
    if q.dom = 31 then
      (((List.range 20).foldl (fun (s : State) d => s.domUnquiesce d) s).set F.PWR_DOZE_STAT_PHASE 0).pwrResult 31 r
    else ((s.domUnquiesce q.dom).pwrResult q.dom r).pwrNext

/-- DOZE is entered (Table 17.8, steps D3 to D7). -/
def State.dozeEnter (s : State) (wake : Option Nat) : State :=
  let s := s.modPwr (fun p => { p with req := none, prior := (List.range 20).map (fun d => (d, s.dom d)) })
  let s := [10, 11, 12, 13, 14, 15, 16, 17, 18].foldl (fun (s : State) d => s.domGo d 0) s
  let s := [4, 5, 6, 7, 8, 9].foldl (fun (s : State) d => if s.dom d = 0 then s else s.domGo d 1) s
  let s := s.domGo 19 1
  let s := if s.dom 2 = 3 then s.domGo 2 2 else s
  let s := ((s.domGo 3 1).setMode .doze).set F.PWR_DOZE_STAT_PHASE 2
  let s := (s.clocksStop wake.isSome).pwrResult 31 0
  match wake with
  | some b => (s.modPwr (fun p => { p with woken := some (b, true) })).set F.PWR_WAKE_LATCH_LATCHED (2 ^ b)
  | none => s

/-- `PWR_ENTRY_QUIESCED` (R643, R646, R647): once every unit is quiesced and every core in WFI (`wfi`) with no interrupt pending, the
entry runs through
its commit point to its end; `wake` names a wake source that asserted after the commit point, by its bit plus 1. -/
def execPwrEntryQuiesced (wfi : Bool) (wake : Nat) (s : State) : Res :=
  .next (match s.pwr.req with
    | none => s
    | some q =>
      let doms := if q.dom = 31 then (List.range 16).map (· + 3) else [q.dom]
      let late : Option Nat := if wake = 0 ∨ 9 < wake then none else some (wake - 1)
      if doms.any (fun d => !s.domQuiet d || (decide (domCores d ≠ 0) && (!wfi || s.coresPend (coreMasters d (2 ^ 16 - 1)) false))) then s
      else if q.dom = 31 then s.dozeEnter late
      else
        let s := s.modPwr (fun p => { p with req := none })
        let s := ((s.domGo q.dom q.target).bump F.PWR_CNT_ENTRY_COUNT).pwrResult q.dom 0
        let s := if late.isSome then
            (s.modPwr (fun p => { p with domWake := p.domWake ++ [q.dom] })).set F.PWR_WAKE_LATCH_LATCHED (s.get F.PWR_WAKE_LATCH_LATCHED ||| 256)
          else s
        s.pwrNext)

/-- `PWR_QUIESCE_TIMEOUT` (R642). -/
def execPwrQuiesceTimeout (s : State) : Res :=
  .next (match s.pwr.req with
    | some q => if q.since + s.get F.PWR_CFG_QUIESCE_TMO ≤ s.beat then s.entryEnd 6 else s
    | none => s)

/-- `PWR_EXIT_DONE` (Table 17.6): the domain is ON with its clamps open; cores that come from OFF restart. -/
def execPwrExitDone (s : State) : Res :=
  .next (match s.pwr.exit with
    | none => s
    | some (d, asked) =>
      let wasOff := s.dom d == 0
      let s := (s.modPwr (fun p => { p with exit := none })).domGo d 3
      let s := if wasOff then (List.range (domCores d)).foldl (fun (s : State) k => s.startCore d (coreMaster d k)) s else s
      let s := (s.domUnquiesce d).bump F.PWR_CNT_EXIT_COUNT
      let s := if asked then s.pwrResult d 0 else s.set F.PWR_REQ_STAT_BUSY (b2n s.pwrRuns)
      s.pwrNext)

/-- `AUTO_IDLE_ENTER` (R645): a domain without work whose cores are in WFI for `IDLE_DELAY` cycles. -/
def execAutoIdleEnter (d : Nat) (s : State) : Res :=
  .next (let moved := ((s.pwr.req).map (fun q => q.dom == d || q.dom == 31)).getD false
    if 2 ≤ d ∧ d ≤ 13 ∧ bitOf (s.get F.PWR_AUTO_IDLE_EN) (d - 2) ∧ s.dom d = 3 ∧ s.get (F.PWR_DOM_STAT_MOVING d) = 0 ∧ !moved
        ∧ s.get F.PWR_DOZE_STAT_PHASE = 0 ∧ !(domUnits d).any (fun k => s.unitBusy (k / 256) (k % 256)) then
      ((s.domGo d 2).set (F.PWR_DOM_STAT_AUTO d) 1).bump F.PWR_CNT_AUTO_IDLE_COUNT
    else s)

/-- `AUTO_IDLE_EXIT` (R645). -/
def execAutoIdleExit (d : Nat) (s : State) : Res :=
  .next (if d < 20 ∧ s.dom d = 2 ∧ s.get (F.PWR_DOM_STAT_AUTO d) = 1 then s.domGo d 3 else s)

/-- A source is enabled as a wake source (Table 17.7). -/
def State.wakeOn (s : State) (b : Nat) : Bool :=
  b == 0 || (decide (b ≤ 8) && bitOf (s.get F.PWR_WAKE_EN_EN) (b - 1) && (b != 1 || s.get F.AON_ALARM_EN == 1) &&
    (b != 6 || s.get F.AON_GPIO_WAKE_EN != 0))

/-- A core of a domain, or any core where `d` is 31, has a pending interrupt whose route has `WAKE` 1 (R93, R611). -/
def State.irqWakes (s : State) (d : Nat) : Bool :=
  s.coresPend (if d = 31 then (List.range 58).map (· + 1) else coreMasters d (2 ^ 16 - 1)) true

/-- A wake source asserts (R646, R647, R93): source `b` of Table 17.7 and, for an interrupt (8) or an access to its pages (9; log entry
126), the domain that it wakes, 31 for none of its own. -/
def State.wake (s : State) (b d : Nat) : State :=
  let s := if b ≤ 8 then s.set F.PWR_WAKE_STAT_ASSERTED (s.get F.PWR_WAKE_STAT_ASSERTED ||| 2 ^ b) else s
  let s := if b = 1 ∧ s.get F.AON_ALARM_EN = 1 then s.irq Slot.AON 1 else s
  if !(s.wakeOn b || (b == 8 || b == 9) && d != 31) ∨ s.inReset ∨ s.mode = .vault ∨ s.mode = .off then s
  else if s.get F.PWR_DOZE_STAT_PHASE = 1 then (if s.wakeOn b then s.entryEnd 7 else s)
  else if s.get F.PWR_DOZE_STAT_PHASE = 2 then
    (if !s.wakeOn b then s else if s.pwr.woken.isSome then s.set F.PWR_WAKE_LATCH_LATCHED (s.get F.PWR_WAKE_LATCH_LATCHED ||| 2 ^ b)
     else s.modPwr (fun p => { p with woken := some (b, false) }))
  else if b < 8 ∨ 20 ≤ d ∨ (b = 8 ∧ domCores d = 0) then s
  else if ((s.pwr.req).map (fun q => q.dom == d)).getD false then s.entryEnd 7
  else if s.dom d ≤ 1 ∧ !s.pwr.domWake.contains d ∧ ((s.pwr.exit).map (fun q => q.1 != d)).getD true then
    ((s.modPwr (fun p => { p with domWake := p.domWake ++ [d] })).set F.PWR_WAKE_LATCH_LATCHED (s.get F.PWR_WAKE_LATCH_LATCHED ||| 256)).pwrNext
  else s

/-- `WAKE_SOURCE_ASSERT`: an interrupt wakes only where it is pending and its route has `WAKE` 1 (R93). -/
def execWakeSourceAssert (source dom : Nat) (s : State) : Res :=
  .next (if source = 8 ∧ !s.irqWakes dom then s else s.wake source dom)

/-! ### DOZE (R653 to R655) -/

/-- A write of `PWR_DOZE_CTL` with `REQ` 1: refusers 2, 3 and 5, then the entry begins. -/
def State.dozeReq (s : State) : State :=
  if s.pwrRuns then s.pwrResult 31 2
  else if s.mode ≠ .service then s.pwrResult 31 3
  else if s.anyLease then s.pwrResult 31 5
  else
    let s := ((List.range 16).map (· + 3)).foldl (fun (s : State) d => s.domQuiesce d) s
    (s.modPwr (fun p => { p with req := some { dom := 31, target := 1, since := s.beat }, woken := none })).setAll
      [(F.PWR_DOZE_STAT_PHASE, 1), (F.PWR_REQ_STAT_BUSY, 1), (F.PWR_REQ_STAT_DOMAIN, 31)]

/-- `DOZE_REQUEST` (R653). -/
def execDozeRequest (m : Nat) (oscStop : Bool) (s : State) : Res :=
  .next (s.busWr m Slot.PWR 0x118 (fun s => (s.set F.PWR_DOZE_CTL_OSC_STOP (b2n oscStop)).dozeReq))

/-- `DOZE_WAKE` (R647, R654, Table 17.9): the exit begins; `ticks` edges of the real-time clock since the capture, `startUs` the
oscillator's start time. -/
def execDozeWake (ticks startUs : Nat) (s : State) : Res :=
  .next (match s.pwr.woken with
    | none => s
    | some (_, replayed) =>
      if s.get F.PWR_DOZE_STAT_PHASE ≠ 2 then s
      else
        let s := (s.clocksStart ticks startUs).setAll [(F.PWR_DOZE_STAT_PHASE, 3), (F.PWR_REQ_STAT_BUSY, 1), (F.PWR_WAKE_LATCH_LATCHED, 0)]
        let s := if replayed then s.bump F.PWR_CNT_REPLAY_COUNT else s
        ((s.bump F.PWR_CNT_WAKE_COUNT).bump F.AON_CNT_WAKE_COUNT).modPwr (fun p => { p with wakeBeat := s.beat, slowSaid := false }))

/-- Beats since the exit began. -/
def State.exitBeats (s : State) : Nat := s.beat - s.pwr.wakeBeat

/-- Domains come back to their states from before the DOZE (R655). -/
def State.dozeBack (s : State) : State :=
  let back (s : State) (d : Nat) : State :=
    let st := AL.getD d 3 s.pwr.prior
    (if s.dom d = st then s else s.domGo d st).domUnquiesce d
  [19, 3, 4, 5, 6, 7, 8, 9, 2, 10, 11, 12, 13, 14, 15, 16, 17, 18].foldl back s

/-- `DOZE_EXIT_DONE` (R654, R655): the domains are back and the head is in SERVICE. -/
def execDozeExitDone (s : State) : Res :=
  .next (if s.get F.PWR_DOZE_STAT_PHASE ≠ 3 then s else
    let n := s.exitBeats
    let s := if 2048 < n ∧ !s.pwr.slowSaid then s.raise Slot.PWR Cond.DOZE_EXIT_SLOW n else s
    let s := (s.dozeBack.setMode .service).setAll [(F.PWR_DOZE_STAT_PHASE, 0), (F.PWR_REQ_STAT_BUSY, 0), (F.PWR_DOZE_STAT_EXIT_BEATS, min n 65535),
      (F.PWR_DOZE_STAT_WAKE_SRC, ((s.pwr.woken).map (·.1)).getD 0)]
    let s := (((s.irq Slot.PWR 2).bump F.PWR_CNT_DOZE_COUNT).sample 40 n).modPwr (fun p => { p with woken := none, prior := [] })
    s.pwrNext)

/-- `DOZE_EXIT_SLOW` (R654): more than 2,048 beats. -/
def execDozeExitSlow (s : State) : Res :=
  .next (if s.get F.PWR_DOZE_STAT_PHASE = 3 ∧ 2048 < s.exitBeats ∧ !s.pwr.slowSaid then
      (s.raise Slot.PWR Cond.DOZE_EXIT_SLOW s.exitBeats).modPwr (fun p => { p with slowSaid := true })
    else s)

/-! ### Clocks and references (R650, R651) -/

/-- `PLL_UNLOCK` (R650): PLL `n` loses lock outside DOZE and VAULT. -/
def execPllUnlock (n : Nat) (s : State) : Res :=
  .next (if 9 ≤ n ∨ s.get F.PWR_DOZE_STAT_PHASE ≠ 0 ∨ s.mode = .vault ∨ s.mode = .off ∨ s.inReset ∨ s.pwr.pllBad.contains n then s else
    let s := (s.modPwr (fun p => { p with pllBad := p.pllBad ++ [n] })).set F.CLK_PLL_STAT_LOCK
      ((List.range 9).foldl (fun a k => if k = n ∨ s.pwr.pllBad.contains k then a else a + 2 ^ k) 0)
    (s.bump F.CLK_CNT_PLL_UNLOCK_COUNT).raise Slot.CLK Cond.PLL_UNLOCK n)

/-- The references within tolerance, as `CLK_REF_STAT.OK` shows them. -/
def State.refBits (s : State) : Nat := (List.range 7).foldl (fun a k => if s.refOk k then a + 2 ^ k else a) 0

/-- `CLK_REF_LOSS` (R650, R651): reference `k` in the order of R662. The oscillator's failure is a fatal error; lanes of a group go
DOWN. -/
def execClkRefLoss (k : Nat) (s : State) : Res :=
  .next (if 7 ≤ k ∨ !bitOf (s.get F.CLK_MON_CFG_EN) k ∨ !s.refOk k ∨ s.inReset then s else
    let s := s.modPwr (fun p => { p with refBad := p.refBad ++ [k] })
    let s := s.setAll [(F.CLK_MON_STAT_FAIL, s.get F.CLK_MON_STAT_FAIL ||| 2 ^ k), (F.CLK_REF_STAT_OK, s.refBits)]
    let s := ((s.bump F.CLK_CNT_REF_LOSS_COUNT).bump F.CLK_CNT_MON_FAIL_COUNT).irq Slot.CLK 1
    let s := if k = 2 ∨ k = 3 then ((List.range 48).map (fun p => 48 * (k - 2) + p)).foldl (fun (s : State) p => s.portLink p false) s
      else if k = 4 ∨ k = 5 then ((List.range 64).map (fun n => 64 * (k - 4) + n)).foldl (fun (s : State) ln =>
        if s.get (F.MDL_LINK_STAT_STATE ln) = 0 then s else s.linkDown ln) s
      else if k = 6 then (s.bundleDown 0).bundleDown 1
      else s
    if k = 0 then s.raiseAt Slot.CLK Cond.CLK_REF_LOSS k 6 else s.raise Slot.CLK Cond.CLK_REF_LOSS k)

/-- `CLK_REF_RETURN` (R651): within tolerance for 16 beats; enabled lanes train again. -/
def execClkRefReturn (k : Nat) (s : State) : Res :=
  .next (if s.refOk k then s else
    let s := s.modPwr (fun p => { p with refBad := p.refBad.filter (· != k) })
    let s := (s.set F.CLK_REF_STAT_OK s.refBits).bump F.CLK_CNT_REF_RETURN_COUNT
    if k = 4 ∨ k = 5 then ((List.range 64).map (fun n => 64 * (k - 4) + n)).foldl (fun (s : State) ln =>
        if s.get (F.MDL_LINK_STAT_STATE ln) = 0 ∧ s.get (F.MDL_LINK_CTL_ENABLE ln) = 1 then s.linkTo ln 1 else s) s
    else if k = 6 then s.bundleTimers
    else s)

/-! ### Power loss (R656 to R659) -/

/-- What the hand-off does with requests and sequences that run: they end where they stand. -/
def State.pwrStop (s : State) : State :=
  let dom := match s.pwr.req, s.pwr.exit with
    | some q, _ => some q.dom
    | _, some (d, _) => some d
    | _, _ => if s.get F.PWR_DOZE_STAT_PHASE = 0 then none else some 31
  let s := s.modPwr (fun p => { p with req := none, exit := none, domWake := [], woken := none, quiet := [] })
  match dom with
  | some d => (s.pwrResult d 2).set F.PWR_REQ_STAT_BUSY 0
  | none => s

/-- Table 17.11 from beat p on. -/
def State.vaultGo (s : State) : State :=
  let noDump := s.mode == .boot && decide (s.get F.FTL_RECOVER_STAT_PHASE < 3)
  let held := [0, 1].filter (fun sh => s.leaseHeld sh)
  let s := ((s.setMode .vault).endWork).setAll [(F.PWR_VAULT_STAT_PHASE, 1), (F.PWR_VAULT_STAT_PFAIL_BEAT, s.beat32), (F.PWR_DOZE_STAT_PHASE, 0)]
  let s := (held.foldl (fun (s : State) sh => s.release sh) s).sendMode
  let s := { s with health := { s.health with cur := [], lost := true } }
  let s := [2, 4, 5, 6, 7, 9, 11, 12, 13, 14, 15, 18].foldl (fun (s : State) d => s.domGo d 0) s
  if noDump then s.vaultClose 4 else (s.set F.PWR_VAULT_STAT_PHASE 2).dumpBegin

/-- `PFAIL_RECOGNISED` (R656 to R659, R700): `PFAIL_N` low for `ns` nanoseconds. From DOZE the clocks restart and the domains that
the dump uses come up first. -/
def execPfailRecognised (ns ticks startUs : Nat) (s : State) : Res :=
  .next (if ns < 200 ∨ s.get F.AON_PFAIL_CFG_EN = 0 ∨ s.mode = .vault ∨ s.mode = .off ∨ s.inReset ∨ s.pins.tripped then s else
    let s := if s.mode = .doze then
        [19, 3, 8, 10, 16, 17].foldl (fun (s : State) d => if s.domUp d then s else s.domGo d 3) (s.clocksStart ticks startUs)
      else s
    let s := (s.setAll [(F.AON_STAT_PFAIL, 1), (F.AON_PFAIL_STAT_SEEN, 1), (F.AON_PFAIL_STAT_BEAT, s.beat32)]).raise Slot.AON Cond.POWER_FAIL
    ((s.bump F.AON_CNT_PFAIL_COUNT).bump F.PWR_CNT_VAULT_COUNT).pwrStop.vaultGo)

/-! ### Resets by AON and by a fatal error (R663, R673) -/

/-- `AON_SRST_REQ` (R663). -/
def execAonSrstReq (m : Nat) (s : State) : Res :=
  .next (s.busWr m (Slot.AON + 1) 0x108 (fun s => (s.bump F.AON_CNT_SRST_REQ_COUNT).selfReset 3))

/-- `FATAL_RESET_TIMER` (R673): 1,024 beats after each FATAL entry to FENCED the head judges whether it resets itself. -/
def execFatalResetTimer (s : State) : Res :=
  .next (match s.health.fatalDue.filter (fun b => decide (b ≤ s.beat)) with
    | [] => s
    | _ :: _ =>
      let s := { s with health := { s.health with fatalDue := s.health.fatalDue.filter (fun b => decide (s.beat < b)) } }
      if s.get F.ERQ_CFG_FATAL_RESET = 1 ∧ s.get F.ERQ_STAT_HOLD = 0 ∧ s.mode = .fenced then s.selfReset 7 else s)

end Sys2Proof.Machine
end

