-- ==== Sys2Proof/Machine/Admit.lean ====
section
/-! DEFINITION. The admission pass of a beat (R38 to R48, R118, R119, R162, R172, R188, R346, R372, R382, R396, R439, R551, R560, R719). -/

namespace Sys2Proof.Machine

/-! ### What a request needs (Table 1.2) -/

/-- Reply units of the part that a read is about to have admitted: its distinct chunks by their stored length, 17 for each foreign one
(R118). -/
def State.replyNeed (s : State) (r : Req) : Nat :=
  ((s.newChunks r r.part).map (fun c => replyUnits (s.entOf r.tag c).len)).sum + 17 * (s.newForeign r r.part).length

/-- Entries of each pool but pool 7 that the next part of a request reserves (R118, R143, R162, R172, R372, R551, R560). The
parts of a read after the first share its command context, cipher context and completion slot while it holds them (log entry 81). -/
def State.poolNeed (s : State) (r : Req) : List (Nat × Nat) :=
  let one (p : Nat) : Nat := if AL.getD p 0 r.held = 0 then 1 else 0
  let n := r.readLbas.length
  match r.kind with
  | .read => [(0, one 0), (1, one 1), (3, if r.compressed then n + 32 else n), (4, one 4), (6, s.replyNeed r)]
  | .prefetch => [(0, one 0), (4, one 4), (6, s.replyNeed r)]
  | .fetch => [(0, one 0), (1, one 1), (3, 17), (4, one 4), (6, s.replyNeed r)]
  | .repChunks => [(0, one 0), (1, one 1), (3, 17 * n), (4, one 4), (6, s.replyNeed r)]
  | .write => [(0, 1), (1, 1), (2, 1), (4, 1), (5, (r.partBlocks r.part).length)]
  | .zeroes | .dealloc => [(0, 1), (1, 1), (2, 1), (4, 1), (5, 1)]
  | .move => [(0, 1), (4, 1), (6, replyUnits (s.ctbEnt r.lba).len)]
  | .redye => [(0, 1), (1, 1), (4, 1), (6, replyUnits (s.ctbEnt r.lba).len)]
  | .digest | .hmac => [(0, 1), (2, 1), (4, 1)]
  | .flush | .admin => [(0, 1), (4, 1)]

/-- Cipher segments of a part's first pass, for which slots are reserved in the beat of its admission: the decrypt pass of a read, the
journal pass of a Write (R118, R172, Tables 4.8 and 8.2). A slot for every other segment is reserved in the beat in which it runs. -/
def State.segNeed (s : State) (r : Req) : Nat :=
  match r.kind with
  | .read | .fetch | .repChunks => s.replyNeed r + (srcRecs r.sources).length
  | .write => (r.partBlocks r.part).length
  | .zeroes | .dealloc => 1
  | _ => 0

/-- A request passes a slice. -/
def Req.sliced (r : Req) : Bool := !(r.kind == .prefetch || r.kind == .flush || r.kind == .admin || r.kind == .move)

/-- The chunks of a part for which inflater segments are reserved: those that the chunk table has as compressed, and foreign ones, of
which only the header says it (R396). -/
def State.inflNeed (s : State) (r : Req) : List Nat :=
  if r.kind = .read ∧ !r.compressed then (s.newChunks r r.part).filter (fun c => !(s.entOf r.tag c).raw) ++ s.newForeign r r.part else []

/-! ### Room in a pass (R38, R40) -/

/-- What a pass may still reserve: entries of each pool, and contexts of each slice, as they stood at the end of the beat before, less
what it has reserved so far. What returns during the pass is there for the next (R38). -/
structure PassRoom where
  pools : List Nat
  cipher : List Nat
  digest : List Nat
  deriving DecidableEq, Repr

/-- Free entries of a pool; 4,096 units of pool 6 are kept back (R40). -/
def State.poolLeft (s : State) (n : Nat) : Nat := s.poolFree n - (if n = 6 then 4096 else 0)

/-- Of two accounts of room the lesser in everything. -/
def PassRoom.meet (a b : PassRoom) : PassRoom :=
  ⟨List.zipWith min a.pools b.pools, List.zipWith min a.cipher b.cipher, List.zipWith min a.digest b.digest⟩

/-- The room at a moment. -/
def State.passRoom (s : State) : PassRoom :=
  ⟨(List.range 7).map (fun n => s.poolLeft n), (List.range 16).map (fun i => 256 - s.ctxUsed 1 i), (List.range 16).map (fun i => 64 - s.ctxUsed 2 i)⟩

/-- Pools hold what a request needs. -/
def PassRoom.fits (m : PassRoom) (need : List (Nat × Nat)) : Bool := need.all (fun q => decide (q.2 ≤ m.pools.getD q.1 0))

/-- A list with `k` less at a place. -/
def less (l : List Nat) (i k : Nat) : List Nat := l.set i (l.getD i 0 - k)

/-- What is left once a request has its entries, with its contexts on a slice. -/
def PassRoom.take (m : PassRoom) (need : List (Nat × Nat)) (i : Nat) : PassRoom :=
  { pools := need.foldl (fun l q => less l q.1 q.2) m.pools
    cipher := less m.cipher i (AL.getD 1 0 need)
    digest := less m.digest i (AL.getD 2 0 need) }

/-! ### The slice (R119, R172, R372) -/

/-- The slices a request may take: those its block allows; for a digest the one it was submitted to, for a later part of a read the one
of the first (R119). -/
def State.slicesFor (s : State) (r : Req) : List Nat :=
  let en := if r.changes then s.get F.WRP_CFG_SLICE_EN else s.get F.RDP_CFG_SLICE_EN
  if r.kind = .digest ∨ r.kind = .hmac ∨ (0 < r.part ∧ !r.changes) then [r.slice] else (List.range 16).filter (fun i => bitOf en i)

/-- Segments of a part that are reserved in the beat of its admission, as many as a slice takes in one beat (log entry 81). -/
def State.firstSegs (s : State) (r : Req) (i : Nat) : Nat := min (s.segNeed r) (min 192 ((s.sliceCaps i).getD 0 0))

/-- A slice has room for a part: contexts, segments, and an inflater where it needs one (R119, R346, R382). -/
def State.sliceFits (s : State) (r : Req) (need : List (Nat × Nat)) (m : PassRoom) (i : Nat) : Bool :=
  s.sliceUp i && decide (AL.getD 1 0 need ≤ m.cipher.getD i 0) && decide (AL.getD 2 0 need ≤ m.digest.getD i 0)
    && decide (s.firstSegs r i ≤ s.segRoom i [0] false)
    && (s.inflNeed r == [] || (s.inflOf i r.tag).isSome || (s.freeInfl i).isSome)

/-- The slice chosen: of those with room the one with the most free cipher contexts, the lowest-numbered among equals (R119). -/
def State.pickSlice (s : State) (r : Req) (need : List (Nat × Nat)) (m : PassRoom) : Option Nat :=
  maxBy (fun i => m.cipher.getD i 0) ((s.slicesFor r).filter (fun i => s.sliceFits r need m i))

/-- Software jobs running on a slice and the records of those that ended (R372). -/
def State.digestRoom (s : State) (r : Req) : Bool :=
  r.kind != .digest ||
    decide ((s.adm.reqs.filter (fun q => q.2.kind == .digest && q.2.stage == .slice && q.2.slice == r.slice)).length
      + (s.slice r.slice).doneQ.length < s.get (F.DSL_DIG_CFG_SW_CTX r.slice))

/-! ### Whether a request may be admitted (R39, R73, R439, R719) -/

/-- Units of the media path that a read needs: the link, brick and formula instances of the members that hold its chunks. -/
def State.mediaNeeds (s : State) (r : Req) : List (Nat × Nat) :=
  (s.newChunks r r.part).flatMap (fun c => (stripRanges (s.entOf r.tag c).offset (s.entOf r.tag c).len).flatMap (fun q =>
    match (s.band (s.entOf r.tag c).band).bind (fun b => (b.stripMember q.1).1) with
    | some m => [(Blk.MDL, m.brick / 64), (Blk.BRK, 0), (Blk.DFM, 0)]
    | none => []))

/-- Units that a request needs (R73). -/
def State.needs (s : State) (r : Req) : List (Nat × Nat) :=
  (match r.origin with
    | .nvt c _ => [(Blk.HFI, connUnit c), (Blk.NVT, connUnit c)]
    | .ldt n _ => [(Blk.HFI, ldtUnit n), (Blk.LDT, ldtUnit n), (Blk.LBC, 0)]
    | _ => []) ++
  (match r.kind with
    | .read | .fetch | .repChunks => [(Blk.RDP, 0), (Blk.MAP, 0), (Blk.CTB, 0), (Blk.FTL, 0), (Blk.BND, 0)] ++ s.mediaNeeds r
    | .prefetch => [(Blk.RDP, 0), (Blk.MAP, 0), (Blk.CTB, 0), (Blk.FTL, 0), (Blk.BND, 0), (Blk.RCH, 0), (Blk.PFX, 0)] ++ s.mediaNeeds r
    | .write | .zeroes | .dealloc => [(Blk.WRP, 0), (Blk.JNL, 0)]
    | .move | .redye => [(Blk.FTL, 0), (Blk.BND, 0), (Blk.CTB, 0)]
    | _ => [])

/-- No R2T of the command is outstanding: NVT asks for a part's data once it has that of the part before (R439). -/
def State.noR2t (s : State) (r : Req) : Bool :=
  match r.origin with
  | .nvt c _ => !((s.conn c).map (fun x => x.r2ts.any (fun q => q.tag == r.tag))).getD false
  | _ => true

/-- The load limit of work of class A: of a self-test's read (R48), of a re-dye's move, and of a move that of its band's reason where
Table 6.9 gives one (R228, R281). -/
def State.moveLoad (s : State) (r : Req) : Bool :=
  if r.origin = .selftest then s.loadAtMost 75 else
  match r.kind, AL.get r.lba s.ftl.moves with
  | .redye, _ => s.loadAtMost (s.get F.VAT_REDYE_CFG_MAX_LOAD_PCT)
  | .move, some m => ((s.band m.src).map (fun b => decide (b.reason ≤ 4))).getD true || s.loadAtMost (s.get F.FTL_GC_CFG_MAX_LOAD_PCT)
  | _, _ => true

/-- The key handles that a request's jobs name: of a read those of its copies, and of its connection for the deliver pass on LDT; of a
Write the journal's; of a re-dye the vat's keys of both generations (Table 8.4). -/
def State.keysNamed (s : State) (r : Req) : List Nat :=
  match r.kind with
  | .read | .fetch | .repChunks =>
    (match r.origin with
      | .ldt n _ => [ldtHandle n (((s.lconn n).map (·.txGen)).getD 0)]
      | _ => []) ++
    (if s.decrypts r then (srcChunks r.sources ++ srcForeign r.sources).map (fun c => s.copyHandle r c) else []) ++
    (srcRecs r.sources).filterMap (fun k => (AL.get k s.write.recs).map (fun j => s.recHandle j))
  | .write | .zeroes | .dealloc => [hJnl (s.get F.FAB_ID_HID) (s.get F.JNL_KEY_STAT_JGEN)]
  | .hmac => [hSlot r.vol]
  | .redye =>
    let e := s.ctbEnt r.lba
    [hVat e.vat e.keyGen, hVat e.vat (((AL.get e.vat s.vat.vats).map (·.keyGen)).getD e.keyGen)]
  | .flush | .digest | .prefetch | .move | .admin => []

/-- The removal of a handle has been requested (R358). -/
def State.keyGoing (s : State) (h : Nat) : Bool :=
  match AL.get h s.sec.handles with
  | some k => k.removing
  | none => hKind h == 1 && (s.liveVat (h / 256 % 4096)).isNone

/-- A waiting request is a candidate of the pass: no unit that it needs quiesces, and no key that it names is being removed (R73, R358). -/
def State.candidate1 (s : State) (r : Req) : Bool :=
  r.stage == .waiting && (s.mode != .fenced || r.internalOnly) && (s.needs r).all (fun q => !(s.unit (unitKey q.1 q.2)).quiesce) && s.noR2t r && s.moveLoad r
    && (s.keysNamed r).all (fun h => !s.keyGoing h)

/-- No pass runs while ADM is disabled or quiesces, in VAULT, and from an unlock for debug until the reset that ends it (R38, R73,
R598, R719). -/
def State.passRuns (s : State) : Bool := s.accepts Blk.ADM 0 && s.mode != .vault && s.get F.SEC_DBG_STAT_STATE != 2

/-! ### What follows an admission -/

/-- A part of a Write asks the host for its data: an R2T, or one READ_REQ; in-capsule data lands (R439, R481). -/
def State.askData (s : State) (r : Req) (p : Nat) : State :=
  let off := 262144 * p
  let len := 4096 * (r.partBlocks p).length
  match r.origin with
  | .nvt c cid =>
    if r.icd ≠ [] then (r.icd.zipIdx).foldl (fun (s : State) (q : Nat × Nat) => s.landBlock r.tag q.2 q.1) s
    else match s.conn c with
      | none => s
      | some x =>
        let s := s.modConn c (fun x => { x with nextTtag := (x.nextTtag + 1) % 65536, r2ts := x.r2ts ++ [{ ttag := x.nextTtag, tag := r.tag, off := off, len := len }] })
        (s.bump (F.NVT_CNT_R2T_COUNT (connUnit c))).tcpSend c 9 [cid, x.nextTtag, off, len] (24 + x.dgst false)
  | .ldt n _ => s.ldtRead n (r.bufAddr + off) len { tag := r.tag, off := off, len := len }
  | _ => s

/-- The keys that a request names are asked for on its slice (R356). -/
def State.askKeys (s : State) (r : Req) : State := (s.keysNamed r).foldl (fun s h => s.keyAsk r.slice r.tag h) s

/-- A write part has been admitted; the next part reserves its space and waits (R45, R169). -/
def State.admitWrite (s : State) (r : Req) : State :=
  let s := ((s.askKeys r).modReq r.tag (fun r => { r with stage := .awaitData })).askData r (r.part - 1)
  if r.part < r.parts then s.reservePart r.tag else s


/-- What a request does in the beat of its admission. -/
def State.admitted (s : State) (r : Req) : State :=
  match r.kind with
  | .read | .fetch | .repChunks => ((s.askKeys r).startPart r.tag).sliceDone r.tag
  | .prefetch => s.startPart r.tag
  | .write => s.admitWrite r
  | .zeroes | .dealloc => (s.askKeys r).landRange r.tag
  | .digest => s.modReq r.tag (fun r => { r with stage := .slice })
  | .hmac => (s.askKeys r).modReq r.tag (fun r => { r with stage := .slice })
  | .move | .redye => ((s.askKeys r).modReq r.tag (fun r => { r with stage := .fetching })).moveGo r.lba false
  | .flush => s.modReq r.tag (fun r => { r with stage := .acked, waitsOn := s.flushWaits r })
  | .admin => s.finish r.tag 0

/-- Reserve what a part needs, on its slice (R39), with an inflater for its compressed chunks (R382, R396); an idle slice quad returns to
ON (R119, R645). -/
def State.reserve (s : State) (r : Req) (need : List (Nat × Nat)) (i : Nat) : State :=
  let s := need.foldl (fun (s : State) q => s.poolTake q.1 q.2) s
  let s := if r.sliced then (s.book i r.tag [0] (s.firstSegs r i) false).bindInfl i r.tag (s.inflNeed r) else s
  let s := if r.sliced ∧ s.dom (10 + i / 4) = 2 then s.domPut (10 + i / 4) 3 else s
  s.modReq r.tag (fun r => { r with
    slice := i, part := r.part + 1, partSlices := r.partSlices ++ [i]
    held := need.foldl (fun m q => if q.2 = 0 then m else AL.upd q.1 0 (fun n => n + q.2) m) r.held })

/-- Admit a request, with the room that it leaves, or leave it waiting (R39). -/
def State.letIn (s : State) (tag : Nat) (m : PassRoom) : Option PassRoom × State :=
  match s.req tag with
  | none => (none, s)
  | some r =>
    let need := s.poolNeed r
    if !s.candidate1 r || !m.fits need || !s.digestRoom r then (none, s)
    else
      match (if r.sliced then s.pickSlice r need m else some r.slice) with
      | none => (none, s)
      | some i =>
        let s := s.reserve r need i
        (some (m.take need i), match s.req tag with
          | some r => s.admitted r
          | none => s)

/-- The order of the pass: deadline, class, arrival (R41). -/
def Req.passKey (r : Req) : Nat := (r.deadline * 8 + classRank r.cls) * 2 ^ 64 + r.seq

/-- One pass over the waiting requests, at most 2,048 admitted (R41, R43). -/
def State.passGo : List Nat → Nat → PassRoom → State → State
  | _, 0, _, s => s
  | [], _, _, s => s
  | t :: ts, n + 1, m, s =>
    match s.letIn t m with
    | (some m', s) => State.passGo ts n m' s
    | (none, s) => State.passGo ts (n + 1) m s

/-- A digest job runs segments on its slice's SHA engine, a software job `SW_SEGS` at most in a beat (R372). -/
def State.digestRun (s : State) (r : Req) : State :=
  let i := r.slice
  let kind := if bitsOf (s.descWord r.lba 0) 60 4 = 1 then 4 else 3
  let lim := if r.kind = .digest then s.get (F.DSL_DIG_CFG_SW_SEGS i) else 192
  let n := min (min lim (s.digestSegs r - s.digestRan r)) (s.segRoom i [kind] false)
  if n = 0 then s else
    (s.segCharge i [kind] n).modSlice i (fun x => { x with
      segs := x.segs.filter (fun q => q.1 != .run r.tag 0) ++ [(.run r.tag 0, x.ran (.run r.tag 0) + n)] })

/-- The digest jobs of a kind that run take SHA segments in their order: keyed HMACs with the pass, software jobs at the end of the beat,
from what no other request has reserved (R348, R372). -/
def State.digestGrants (s : State) (kind : ReqKind) : State :=
  (sortBy Req.passKey ((s.adm.reqs.map (·.2)).filter (fun r => r.stage == .slice && r.kind == kind))).foldl (fun (s : State) r => s.digestRun r) s

/-- Book cipher segments for a read, as far as there is room. -/
def State.bookSome (s : State) (r : Req) (n : Nat) : State := s.book r.slice r.tag [0] (min n (s.segRoom r.slice [0] false)) false

/-- Reads whose data is there have their slice segments before any new request is admitted: what moves on from the reply buffers, or
waits in the journal, finds its engine free (R56). -/
def State.bookReady (s : State) : State :=
  (sortBy Req.passKey ((s.adm.reqs.map (·.2)).filter (fun r => s.decrypts r && (r.stage == .fetching || r.stage == .delivering)))).foldl (fun s r =>
    let s := ((srcChunks r.pinned ++ (srcForeign r.sources).filter (fun c => !r.verified.contains c)).filter (fun c => s.copyReady r.tag c)).foldl
      (fun s c => s.bookSome r (replyUnits (s.entOf r.tag c).len)) s
    s.bookSome r ((srcRecs r.sources).filter (fun k => !r.recWait.contains k)).length) s

/-- `ADM_LOAD` after a pass: the admission load, its peak, and the requests that wait. -/
def State.loadShow (s : State) : State := s.slotShow.set F.ADM_LOAD_WAITING s.waitingCount

/-- The admission pass of a beat, with the room at the end of the beat before: before it, jobs that hold staging units have their next
segments, and those that wait for an engine go on; what they return serves the next pass (R38, R351). -/
def State.admissionPass (s : State) (room : PassRoom) : State :=
  let s := (s.adm.reqs.map (·.1)).foldl (fun (s : State) t => s.prefetchTrim t) s
  let s := s.bookStaged.rebuildsGo.landsGoOn.bookReady
  let s := if s.passRuns then
      State.passGo ((sortBy Req.passKey ((s.adm.reqs.map (·.2)).filter (fun r => r.stage == .waiting))).map (·.tag)) 2048 (room.meet s.passRoom) s
    else s
  (s.digestGrants .hmac).loadShow

end Sys2Proof.Machine
end

