-- ==== Sys2Proof/Machine/Commit.lean ====
section
/-! DEFINITION. Commit transfers at a beat boundary (R11, R78 to R81) and what follows from them: the interface tables of the
host ports, quad modes, the routing tables. -/

namespace Sys2Proof.Machine

/-! ### The interface table (R413, R414) -/

/-- Bits of an interface entry that are reserved are zero (Table 10.3). -/
def ifaceClean (w : List Nat) : Bool :=
  bitsOf (w.getD 0 0) 24 7 == 0 && !bitOf (w.getD 0 0) 7 && decide (w.getD 1 0 < 2 ^ 32) && (w.drop 4).all (· == 0)

/-- An entry of the interface table of a group: rejected, not valid, or in force. -/
def State.ifaceEntry (s : State) (g : Nat) (w : List Nat) : Option (Option Iface) :=
  let a := w.getD 0 0
  let port := 48 * g + bitsOf a 0 7
  let i : Iface := {
    v4 := bitOf a 62, v6 := bitOf a 61, tagged := bitOf a 60, pcp := bitsOf a 57 3, vid := bitsOf a 45 12, frameMax := bitsOf a 31 14
    v6Plen := bitsOf a 16 8, v4Plen := bitsOf a 8 8, port := port, v4Addr := w.getD 1 0, v6Addr := w.getD 2 0 * 2 ^ 64 + w.getD 3 0 }
  if !ifaceClean w || decide (47 < bitsOf a 0 7) || s.portState port == 0 || !within i.frameMax 1518 9216 ||
      (i.tagged && (i.vid == 0 || i.vid == 4095)) || (bitOf a 63 && !i.v4 && !i.v6) then none
  else some (if bitOf a 63 then some i else none)

/-- An interface keeps its addresses. -/
def Iface.sameAddr (a b : Iface) : Bool := a.v4 == b.v4 && a.v6 == b.v6 && a.v4Addr == b.v4Addr && a.v6Addr == b.v6Addr

/-- The connections of a group on an interface. -/
def State.connsOn (s : State) (g n : Nat) : List Nat :=
  (s.host.conns.filter (fun q => connUnit q.1 == g && q.2.iface % 128 == n)).map (·.1)

/-- The LDT connections of a group on an interface that has ceased to be valid are closed (R475). -/
def State.ldtIfGone (s : State) (g n : Nat) : State :=
  if (s.iface g n).isSome then s else
    (s.ldt.conns.filter (fun q => ldtUnit q.1 == g && q.2.state != 0 && q.2.iface == g * 128 + n)).foldl (fun (s : State) q => s.ldtClose q.1 true) s

/-- HFI reads the first `IF_CNT` entries (R413); the TCP connections of an interface that ceases to be valid or changes address are
reset, the LDT connections of one that ceases to be valid are closed (R414, R475). -/
def State.hfiLoad (s : State) (g : Nat) : State :=
  let base := s.get (F.HFI_IF_BASE_BASE g) * 2 ^ 13
  let cnt := s.get (F.HFI_GRP_CFG_IF_CNT g)
  let slot := Slot.HFI + 13 * g
  let old := s.host.ifaces.filter (fun q => q.1 / 128 == g)
  let entry (n : Nat) : Option (Option Iface) := s.ifaceEntry g ((List.range 8).map (fun k => s.word (base + 64 * n + 8 * k)))
  let news := (List.range cnt).map (fun n => (n, entry n))
  let ok := news.filterMap (fun q => match q.2 with | some (some i) => some (q.1, i) | _ => none)
  let bad := (news.filter (fun q => q.2.isNone)).map (·.1)
  let table := ok.foldl (fun m q => AL.put (g * 128 + q.1) q.2 m) (s.host.ifaces.filter (fun q => q.1 / 128 != g))
  let s := s.modHost (fun h => { h with ifaces := table })
  let s := s.setAll [(F.HFI_GRP_STAT_IF_VALID g, ok.length), (F.HFI_GRP_STAT_IF_REJECTED g, bad.length)]
  let s := bad.foldl (fun (s : State) n => (s.raise slot Cond.HFI_IF_INVALID n).irq slot 1) s
  let gone := old.filter (fun q => !((s.iface g (q.1 % 128)).map (fun i => i.sameAddr q.2)).getD false)
  gone.foldl (fun (s : State) q =>
    ((s.connsOn g (q.1 % 128)).foldl (fun (s : State) c => s.connEnd c true []) s).ldtIfGone g (q.1 % 128)) s

/-! ### What follows from a commit -/

/-- The fields of a quad whose change retrains it (R409, R410). -/
def State.quadWords (s : State) (g k : Nat) : List Nat :=
  [s.get (F.HFI_Q_CFG_QMODE g k), s.get (F.HFI_Q_CFG_PORT_EN g k), s.get (F.HFI_Q_CFG_MEDIUM g k), s.get (F.HFI_Q_CFG_DETECT g k)]

/-- Clock domains whose rate a commit changes (R649). -/
def State.mhzChanged (s old : State) : Nat :=
  ([4, 5, 6, 7, 11, 12, 13, 14].filter (fun k => s.get (F.CLK_DOM_CFG_MHZ k) != old.get (F.CLK_DOM_CFG_MHZ k))).length

/-- The effects of a transfer of a unit's pages, given the state before it (R409, R413, R542,
R649, R669). -/
def State.commitDone (s old : State) (code i : Nat) (slots : List Nat) : State :=
  if code = Blk.HFI then
    let s := (List.range 12).foldl (fun (s : State) k => if s.quadWords i k = old.quadWords i k then s else s.quadApply (12 * i + k)) s
    if slots.contains (Slot.HFI + 13 * i) then s.hfiLoad i else s
  else if code = Blk.FAB ∧ slots.contains (Slot.FAB + 2) then s.readRoutes
  else if code = Blk.CLK then s.bump F.CLK_CNT_FREQ_CHANGE_COUNT (s.mhzChanged old)
  else if code = Blk.ERQ then s.erqUpdate old.worst
  else s

/-- The shadows of some pages. -/
def State.shadowsOf (s : State) (slots : List Nat) : List (Nat × Nat) := s.shadows.filter (fun p => slots.contains (keySlot p.1))

/-- The state in which the shadows of some pages are in force. -/
def State.withShadows (s : State) (slots : List Nat) : State :=
  { s with fields := (s.shadowsOf slots).foldl (fun m p => AL.put p.1 p.2 m) s.fields }

/-- `COMMIT_PENDING` of some pages clears. -/
def State.commitClear (s : State) (slots : List Nat) : State :=
  slots.foldl (fun (s : State) p => s.modHdr p (fun h => { h with commitPending := false })) s

/-- A commit is refused: nothing is applied, the shadows are kept, and the condition is raised on the first page of the
transfer (R50, R81). -/
def State.commitRefused (s : State) (code cond info : Nat) (slots : List Nat) : State :=
  let s := (s.commitClear slots).raise (slots.headD 0) cond info
  if code = Blk.ADM then s.satInc F.ADM_STAT_BUDGET_REFUSED 1
  else if code = Blk.CLK then s.bump F.CLK_CNT_FREQ_REFUSED_COUNT
  else s

/-- Transfer the pages of one unit whose commit is pending (R78, R80, R81). -/
def State.commitUnit (s : State) (key : Nat) (slots : List Nat) : State :=
  let (code, i) := (key / 256, key % 256)
  let new := s.withShadows slots
  match new.commitBad s code i with
  | some (cond, info) => s.commitRefused code cond info slots
  | none => (new.dropShadows slots).commitDone s code i slots

/-- Pages with `COMMIT_PENDING` set whose domain is up (R78; the transfer of a page whose domain is down or moving waits until it is
up: DESIGN CHOICE, log entry 124). -/
def State.commitSlotsNow (s : State) : List Nat :=
  (s.pages.filter (fun p => p.2.commitPending && s.domUp (slotDomain p.1))).map (·.1)

/-- The transfers of a boundary, unit by unit (R78). -/
def State.commitAll (s : State) : State :=
  let slots := s.commitSlotsNow
  ((slots.filterMap slotUnit).eraseDups).foldl (fun (s : State) k => s.commitUnit k (slots.filter (fun p => slotUnit p == some k))) s

end Sys2Proof.Machine
end

