-- ==== Sys2Proof/Machine/Health.lean ====
section
/-! DEFINITION. Chapter 18: injected conditions, memory errors, the event recorder and its clears, ageing; and the thermal
limits of chapter 19. -/

namespace Sys2Proof.Machine

/-- Change the health data. -/
def State.modHealth (s : State) (f : HealthSt → HealthSt) : State := { s with health := f s.health }

/-! ### Injection and memory errors -/

/-- Why `ERQ_INJECT` is refused (R674). -/
def State.injectNo (s : State) (slot cond : Nat) : Bool :=
  match pageOf slot with
  | none => true
  | some (c, _, _) => !Cond.all.contains cond || (cond / 256 != c && cond / 256 != 0) || (decide (5 ≤ baseSeverity cond) && s.mode != .service)

/-- `ERQ_INJECT` (R674): the condition is raised on the page; no block acts on it. -/
def execErqInject (m slot cond : Nat) (s : State) : Res :=
  .next (s.busWr m Slot.ERQ 0x158 (fun s =>
    if s.injectNo slot cond then s.raise Slot.ERQ Cond.ERQ_INJECT_REFUSED else s.raise slot cond))

/-- The job of a request ended as under R370: a read fails with `READ_INTERNAL_ERROR`, another request ends without
completion (R670). -/
def State.jobFault (s : State) (tag : Nat) : State :=
  match s.req tag with
  | none => s
  | some r =>
    let s := if !s.read.fetches.any (fun q => q.2.tag == tag) && r.sources.isEmpty then s else s.bump (F.DSL_CPH_CNT_ZERO_COUNT r.slice)
    if r.isRead && r.kind != .prefetch then (s.readFail tag Cond.READ_INTERNAL_ERROR 0).wakeHeld else (s.dropReq tag).wakeHeld

/-- `MEMORY_ECC_ERROR` (R670). -/
def execMemoryEccError (kind slot addr tag : Nat) (spare : Bool) (s : State) : Res :=
  .next (match pageOf slot with
    | none => s
    | some (c, i, p) =>
      if !s.domUp (slotDomain slot) then s
      else if kind = 0 then s.raise slot Cond.SRAM_ECC_CORRECTED addr
      else if kind = 1 then
        let s := (s.raise slot Cond.SRAM_ECC_FAULT addr).jobFault tag
        let k := unitKey c i
        if spare ∨ !(s.unit k).enable then s else s.setUnit k { s.unit k with quiesce := true }
      else if kind = 2 ∧ c = Blk.HBM then (s.satInc (F.HBM_ECC_CORR i p) 1).raise slot Cond.HBM_ECC_CORRECTED addr
      else if kind = 3 ∧ c = Blk.HBM then ((s.satInc (F.HBM_ECC_UNCORR i p) 1).raise (slot - p) Cond.HBM_ECC_UNCORR addr).jobFault tag
      else if kind = 4 ∧ c = Blk.NOC then (s.raise slot Cond.NOC_PARITY addr).jobFault tag
      else s)

/-! ### The event recorder (R676 to R680) -/

/-- Slot of an epoch in the circulating area (R679). -/
def circSlot (e : Nat) : Nat := e % 4096

/-- What is held of an epoch in the permanent area. -/
def State.permEpoch (s : State) (e : Nat) : Option EvrEpoch := AL.get e s.health.perm

/-- What is held of an epoch in the circulating area; its slot may hold a later one. -/
def State.circEpoch (s : State) (e : Nat) : Option EvrEpoch :=
  match AL.get (circSlot e) s.health.circ with
  | some (j, x) => if j = e then some x else none
  | none => none

/-- Every epoch held, the permanent ones first, each once. -/
def State.heldEpochs (s : State) : List (Nat × EvrEpoch) :=
  s.health.perm ++ ((s.health.circ.map (fun (q : Nat × Nat × EvrEpoch) => q.2)).filter (fun q => !AL.has q.1 s.health.perm))

/-- Write an epoch's records into the areas (R679). -/
def State.evrStore (s : State) (e : Nat) (x : EvrEpoch) : State :=
  s.modHealth (fun h => { h with
    perm := if e < 256 then AL.put e x h.perm else h.perm
    circ := AL.put (circSlot e) (e, x) h.circ })

/-- The 32 words of a metric's record (Table 18.5). -/
def EvrRec.words (r : EvrRec) (epoch metric : Nat) (gap : Bool) : List Nat :=
  (List.range 16).map (fun k => AL.getD (2 * k) 0 r.bins + 2 ^ 32 * AL.getD (2 * k + 1) 0 r.bins) ++
    [r.count, r.sum, r.minV, r.minBeat, r.maxV, r.maxBeat, epoch % 2 ^ 32 * 2 ^ 32 + metric * 2 ^ 24 + b2n gap] ++ List.replicate 9 0

/-- The records of the epoch in progress as they are written. -/
def State.evrWords (s : State) : List Nat :=
  s.health.cur.flatMap (fun q => q.2.words (s.get F.AON_EVR_EPOCH_EPOCH) q.1 s.health.gap)

/-- The epoch in progress ends: its records go to two bricks, a copy whose write fails to another one, or it is lost and the next one
carries `GAP` (R678, R679). -/
def State.evrEnd (s : State) (fails : Nat) (written : Bool) : State :=
  let e := s.get F.AON_EVR_EPOCH_EPOCH
  let gone := s.health.lost || !written
  let ws := s.evrWords
  let s := if s.health.lost then s else s.sysWrite 0 ws
  let s := (List.range fails).foldl (fun (s : State) i =>
    ((s.raise Slot.EVR Cond.EVR_WRITE_FAIL e).bump F.EVR_CNT_WRITE_FAIL_COUNT).sysCopies (2 + i) 1 ws) s
  let s := if gone then (s.raise Slot.EVR Cond.EVR_EPOCH_GAP e).bump F.EVR_CNT_GAP_COUNT
    else (s.evrStore e { gap := s.health.gap, recs := s.health.cur }).bump F.EVR_CNT_WRITE_COUNT
  let s := s.modHealth (fun h => { h with cur := [], lost := false, gap := gone })
  s.setAll [(F.AON_EVR_EPOCH_EPOCH, e + 1), (F.AON_EVR_START_BEAT, s.get F.AON_EVR_START_BEAT + 2 ^ 24), (F.SEC_ENT_STAT_FAILS, 0)]

/-! ### Ageing (R683 to R686) -/

/-- Integer square root, bit by bit from bit `k` down. -/
def isqrtFrom (n : Nat) : Nat → Nat → Nat
  | 0, r => if (r + 1) * (r + 1) ≤ n then r + 1 else r
  | k + 1, r => isqrtFrom n k (if (r + 2 ^ (k + 1)) * (r + 2 ^ (k + 1)) ≤ n then r + 2 ^ (k + 1) else r)

/-- Integer square root of a number below 2^256. -/
def isqrt (n : Nat) : Nat := isqrtFrom n 127 0

/-- Unit of the fixed-point numbers of the fit (log entry 70). -/
def fxOne : Nat := 2 ^ 64

/-- Time of an epoch in hours, fixed-point: (i + 1) × 0.0372827 (R685). -/
def epochHours (i : Nat) : Nat := (i + 1) * 372827 * fxOne / 10 ^ 7

/-- Hours since the first epoch began: (epoch in progress + 1) × 2^24 × 8 µs (R684). -/
def State.ageHours (s : State) : Nat := (s.get F.AON_EVR_EPOCH_EPOCH + 1) * 2 ^ 24 * 8 / (3600 * 10 ^ 6)

/-- Months until a drift of `x` per hour to the power 1/4, fixed-point, reaches `EOL_PS` (R685). -/
def ageMonths (eol now : Nat) (x : Int) : Nat :=
  if x ≤ 0 then 4095 else
    let d := x.toNat ^ 4
    let h := (eol * fxOne) ^ 4
    if h ≤ now * d then 0 else min 4095 ((h - now * d) / (730 * d))

/-- `fit` of R685 over points (epoch, d in fixed-point ps): MONTHS, LOW and HIGH. -/
def ageFit (eol now : Nat) (pts : List (Nat × Int)) : Nat × Nat × Nat :=
  let r2 (i : Nat) : Nat := isqrt (epochHours i * fxOne)
  let r4 (i : Nat) : Nat := isqrt (r2 i * fxOne)
  let b := (pts.map (fun p => r2 p.1)).sum
  let a := (pts.map (fun p => p.2 * (r4 p.1 : Int))).sum / (max 1 b : Nat)
  let e (p : Nat × Int) : Int := p.2 - a * (r4 p.1 : Int) / (fxOne : Int)
  let ss := (pts.map (fun p => ((e p) * (e p)).toNat)).sum
  let sd := isqrt (ss * fxOne / (max 1 ((pts.length - 1) * b)))
  (ageMonths eol now a, ageMonths eol now (a + 2 * sd), ageMonths eol now (a - 2 * sd))

/-- `BASE_PS` of a monitor: the mean of its metric in epoch 0 of the permanent area (R684). -/
def State.ageBase (s : State) (n : Nat) : Option Nat :=
  match (s.permEpoch 0).bind (fun x => AL.get (192 + n) x.recs) with
  | some r => if r.count = 0 then none else some (r.sum / r.count)
  | none => none

/-- Drive `AGE_BASE` and `DEGRADE_PS` (R683, R684). -/
def State.ageShow (s : State) (n : Nat) : State :=
  let b := (s.ageBase n).getD 0
  s.setAll [(F.AGE_BASE_BASE_PS n, b), (F.AGE_STAT_DEGRADE_PS n, b - s.get (F.AGE_STAT_MARGIN_PS n))]

/-- The fit of a monitor at the end of an epoch (R685, R686). -/
def State.agePredict (s : State) (n : Nat) : State :=
  if !s.domUp n then s else
  let s := s.ageShow n
  let base := (s.ageBase n).getD 0
  let recs := s.heldEpochs.filterMap (fun q => (AL.get (192 + n) q.2.recs).bind (fun (r : EvrRec) =>
    if r.count = 0 then none else some (q.1, ((base * fxOne : Nat) : Int) - ((r.sum * fxOne / r.count : Nat) : Int))))
  let (mid, low, high) := ageFit (s.get (F.AGE_CFG_EOL_PS n)) s.ageHours recs
  let valid := (s.ageBase n).isSome && decide (8 ≤ recs.length)
  let s := s.setAll [(F.AGE_PRED_VALID n, b2n valid), (F.AGE_PRED_MONTHS n, if valid then mid else 0),
    (F.AGE_PRED_LOW n, if valid then low else 0), (F.AGE_PRED_HIGH n, if valid then high else 0), (F.AGE_HOURS_HOURS n, s.ageHours)]
  if valid ∧ low < s.get (F.AGE_CFG_WARN_MONTHS n) then (s.raise (Slot.AGE + n) Cond.AGE_EOL_NEAR low).irq (Slot.AGE + n) 1 else s

/-- `EVR_EPOCH_END` (R678, R679, R685): 2^24 beats after its beginning an epoch ends, once D3 is ON or IDLE. -/
def execEvrEpochEnd (fails : Nat) (written : Bool) (s : State) : Res :=
  .next (if !s.domUp 3 ∨ s.beat < s.get F.AON_EVR_START_BEAT + 2 ^ 24 then s
    else (List.range 20).foldl (fun (s : State) n => s.agePredict n) (s.evrEnd fails written))

/-- `AGE_SAMPLE` (R683). -/
def execAgeSample (n margin : Nat) (s : State) : Res :=
  .next (if 20 ≤ n ∨ !s.domUp n then s else
    let s := (s.set (F.AGE_STAT_MARGIN_PS n) margin).bump (F.AGE_CNT_SAMPLE_COUNT n)
    (s.ageShow n).sample (192 + n) (s.get (F.AGE_STAT_MARGIN_PS n)))

/-! ### The window (R680) -/

/-- `EVR_SAMPLE` (R687): metrics 224 to 255 are software's. -/
def execEvrSample (m metric value : Nat) (s : State) : Res :=
  .next (s.busWr m Slot.EVR 0x118 (fun s =>
    if metric < 224 ∨ 255 < metric then s.raise Slot.EVR Cond.EVR_SAMPLE_REFUSED metric else s.sample metric (value % 2 ^ 56)))

/-- Set the cursor; the window is to be loaded again. -/
def State.cursorTo (s : State) (area epoch metric : Nat) : State :=
  (s.setAll [(F.EVR_CURSOR_AREA, area), (F.EVR_CURSOR_EPOCH, epoch), (F.EVR_CURSOR_METRIC, metric), (F.EVR_STAT_WIN_READY, 0),
    (F.EVR_STAT_WIN_VALID, 0)]).modHealth (fun h => { h with win := [] })

/-- `EVR_CURSOR_WRITE`. -/
def execEvrCursorWrite (m area epoch metric : Nat) (s : State) : Res :=
  .next (s.busWr m Slot.EVR 0x110 (fun s => s.cursorTo area epoch metric))


/-- The epoch that the cursor selects, by number, where it is held. -/
def State.cursorEpoch (s : State) : Option (Nat × EvrEpoch) :=
  let e := s.get F.EVR_CURSOR_EPOCH
  match s.get F.EVR_CURSOR_AREA with
  | 0 => some (s.get F.AON_EVR_EPOCH_EPOCH, { gap := s.health.gap, recs := s.health.cur })
  | 1 => (s.permEpoch e).map (fun x => (e, x))
  | 2 => (s.circEpoch e).map (fun x => (e, x))
  | _ => none

/-- The even metric of the cursor. -/
def State.cursorMetric (s : State) : Nat := s.get F.EVR_CURSOR_METRIC / 2 * 2

/-- `EVR_WINDOW_LOADED`: both records are loaded; what is not held reads as zeros. -/
def execEvrWindowLoaded (s : State) : Res :=
  .next (if !s.domUp 3 ∨ s.get F.EVR_STAT_WIN_READY = 1 then s else
    let k := s.cursorMetric
    let w := match s.cursorEpoch with
      | some (e, x) => (AL.getD k {} x.recs).words e k x.gap ++ (AL.getD (k + 1) {} x.recs).words e (k + 1) x.gap
      | none => List.replicate 64 0
    (s.setAll [(F.EVR_STAT_WIN_READY, 1), (F.EVR_STAT_WIN_VALID, b2n s.cursorEpoch.isSome)]).modHealth (fun h => { h with win := w }))

/-- `EVR_WIN_READ`: a word of the window; the read of the last word moves the cursor on. -/
def execEvrWinRead (m k : Nat) (s : State) : Res :=
  .next (if 64 ≤ k then s else s.busRd m Slot.EVR (0x200 + 8 * k) (fun s =>
    if s.get F.EVR_STAT_WIN_READY = 0 then s.answer 0
    else
      let s := (s.answer (s.health.win.getD k 0)).bump F.EVR_CNT_READ_COUNT
      if k ≠ 63 then s
      else if s.cursorMetric = 254 then s.cursorTo (s.get F.EVR_CURSOR_AREA) (s.get F.EVR_CURSOR_EPOCH + 1) 0
      else s.cursorTo (s.get F.EVR_CURSOR_AREA) (s.get F.EVR_CURSOR_EPOCH) (s.cursorMetric + 2)))

/-! ### Clearing (R681, R682) -/

/-- The EVR page of the clears. -/
def clrSlot : Nat := Slot.EVR + 2

/-- The read of `EVR_CLR_CHAL[0]` draws a fresh nonce (R681). -/
def State.clrChal (s : State) : State :=
  let (v, s) := s.draw256
  let s := (List.range 4).foldl (fun (s : State) k => s.set (F.EVR_CLR_CHAL_NONCE k) (v / 2 ^ (64 * k))) s
  (s.modHealth (fun h => { h with nonce := some v })).answer (v % 2 ^ 64)

/-- `EVR_CLR_CHAL_READ`: a fresh nonce; while the generator recovers the read waits (R595). -/
def execEvrClrChalRead (m : Nat) (s : State) : Res :=
  .next (s.busRd m clrSlot 0x100 (fun s => if s.mayDraw then s.clrChal else s.modHealth (fun h => { h with chalWait := true })))

/-- A clear token passes: nonce, `CHIP` and boot count, keys that hash to the root, both signatures (R681). -/
def State.clrTokenOk (s : State) (t : List Nat) : Bool :=
  let keys := (t.drop 52).take 2689
  let msg := t.take 2741
  match s.health.nonce with
  | none => false
  | some v =>
    t.take 44 == leNat 32 v ++ leNat 8 Config.chip.toNat ++ leNat 4 s.flash.bootCount
      && (Config.sha384 keys).toNat == s.sec.fuses.rootI.getD Config.rootD.toNat
      && Config.sigValid 0 (keys.take 97) msg ((t.drop 2741).take 96) && Config.sigValid 1 (keys.drop 97) msg ((t.drop 2837).take 4627)

/-- The request ends with a result and a condition; `CLEAR_DONE` is set. -/
def State.clrEnd (s : State) (result cond : Nat) : State :=
  let s := (s.setAll [(F.EVR_CLR_STAT_BUSY, 0), (F.EVR_CLR_STAT_RESULT, result), (F.EVR_CLR_STAT_CONDITION, cond)]).irq clrSlot 1
  let s := if result = 1 then s.bump F.EVR_CNT_CLR_COUNT else s.bump F.EVR_CNT_CLR_REFUSED_COUNT
  s.modHealth (fun h => { h with clearBusy := false })

/-- `EVR_CLR_REQ` (R681): on success the secure cores hold the range and the hash ready for `EVR_SEC_CMD`. -/
def execEvrClrReq (m addr : Nat) (s : State) : Res :=
  .next (s.busWr m clrSlot 0x120 (fun s =>
    if s.health.clearBusy then (s.raise clrSlot Cond.EVR_CLEAR_BUSY).bump F.EVR_CNT_CLR_REFUSED_COUNT
    else
      let a := bitsOf addr 3 45 * 8
      let t := s.bytesAt a 7464
      let ok := s.clrTokenOk t
      let s := s.modHealth (fun h => { h with nonce := none })
      if !ok then (s.raise clrSlot Cond.EVR_CLEAR_TOKEN_INVALID).clrEnd 2 Cond.EVR_CLEAR_TOKEN_INVALID
      else if 64 ≤ s.health.clearLog.length then (s.raise clrSlot Cond.EVR_CLEAR_LOG_FULL).clrEnd 2 Cond.EVR_CLEAR_LOG_FULL
      else
        let d := beBytes 48 (Config.sha384 t).toNat
        let s := s.setAll [(F.EVR_SEC_RANGE_FIRST, bytesNat t 44 4), (F.EVR_SEC_RANGE_LAST, bytesNat t 48 4)]
        let s := (List.range 6).foldl (fun (s : State) k => s.set (F.EVR_SEC_HASH_WORD k) (bytesNat d (8 * k) 8)) s
        (s.setAll [(F.EVR_CLR_STAT_BUSY, 1), (F.EVR_CLR_STAT_RESULT, 0), (F.EVR_CLR_STAT_CONDITION, 0)]).modHealth
          (fun h => { h with clearBusy := true })))

/-- A clear that EVR is authorised to run ends (R682): done, or failed with a condition. -/
def State.secClearEnd (s : State) (ok : Bool) (cond : Nat) : State :=
  let s := s.set F.EVR_SEC_STAT_RESULT (if ok then 1 else 2)
  let s := if ok then s else s.bump F.EVR_CNT_SEC_FAIL_COUNT
  if s.health.clearBusy then s.clrEnd (if ok then 1 else 2) cond else s

/-- Words of a clear-log entry (R682). -/
def ClearEnt.words (e : ClearEnt) : List Nat := [e.seq + e.root * 2 ^ 8, e.beat, e.boot, e.last + e.first * 2 ^ 32] ++ e.hash

/-- The clear-log entry of a clear that starts (R682). -/
def State.clearEnt (s : State) : ClearEnt :=
  { seq := s.health.clearLog.length + 1, root := b2n s.sec.fuses.rootI.isSome, beat := s.beat, boot := s.flash.bootCount
    first := s.get F.EVR_SEC_RANGE_FIRST, last := s.get F.EVR_SEC_RANGE_LAST, hash := (List.range 4).map (fun k => s.get (F.EVR_SEC_HASH_WORD k)) }

/-- `EVR_SEC_CLEAR` (R682): the log entry first, then zeros over the circulating records from FIRST to LAST. -/
def execEvrSecClear (m : Nat) (written : Bool) (s : State) : Res :=
  .next (s.busWr m (Slot.EVR + 3) 0x100 (fun s =>
    let s := s.bump F.EVR_CNT_SEC_CMD_COUNT
    if 64 ≤ s.health.clearLog.length then s.secClearEnd false Cond.EVR_CLEAR_LOG_FULL
    else
    let e := s.clearEnt
    let s := s.sysWrite 0 e.words
    if !written then ((s.raise Slot.EVR Cond.EVR_WRITE_FAIL).bump F.EVR_CNT_WRITE_FAIL_COUNT).secClearEnd false Cond.EVR_WRITE_FAIL
    else
      let s := s.modHealth (fun h => { h with
        clearLog := h.clearLog ++ [e]
        circ := h.circ.filter (fun (q : Nat × Nat × EvrEpoch) => !(decide (e.first ≤ q.2.1) && decide (q.2.1 ≤ e.last))) })
      s.secClearEnd true 0))

/-! ### Thermal limits (R706, R707) -/

/-- A reading arrives. -/
def State.tempIs (s : State) (k : Nat) (t : Int) : State :=
  s.modHealth (fun h => if k < 20 then { h with dieTemp := AL.put k t h.dieTemp } else { h with hbmTemp := AL.put (k - 20) t h.hbmTemp })

/-- The limit of a warning (Table 19.11). -/
def warnLimit (k : Nat) : Int := if k < 20 then 100 else 95

/-- The page on which a sensor's conditions are raised: those of the HBM stacks on `AGE.19`. -/
def thermSlot (k : Nat) : Nat := Slot.AGE + min k 19

/-- The INFO of a thermal condition: the reading, as a byte. -/
def tempInfo (t : Int) : Nat := (t % 256).toNat

/-- `THERMAL_WARNING` (R706): the condition, and for a die sensor the wake source and Critical Warning bit 1. -/
def execThermalWarning (sensor : Nat) (temp : Int) (s : State) : Res :=
  .next (if 24 ≤ sensor then s else
    let s := s.tempIs sensor temp
    if temp ≤ warnLimit sensor ∨ s.health.warned.contains sensor then s
    else
      let s := s.modHealth (fun h => { h with warned := h.warned ++ [sensor] })
      let s := if s.domUp (min sensor 19) then s.raise (thermSlot sensor) Cond.THERMAL_WARNING (tempInfo temp) else s
      if sensor < 20 then s.wake 7 31 else s)

/-- `THERMAL_WARNING_CLEAR` (R706): the reading is 5 °C below the limit. -/
def execThermalWarningClear (sensor : Nat) (temp : Int) (s : State) : Res :=
  .next (if 24 ≤ sensor then s else
    let s := s.tempIs sensor temp
    if warnLimit sensor - 5 < temp then s
    else
      let s := s.modHealth (fun h => { h with warned := h.warned.filter (· != sensor) })
      let a := s.get F.PWR_WAKE_STAT_ASSERTED
      if s.health.warned.any (fun k => decide (k < 20)) ∨ !bitOf a 7 then s else s.set F.PWR_WAKE_STAT_ASSERTED (a - 128))

/-- `THERMAL_SHUTDOWN` (R706): a die sensor above 115 °C, at FATAL. -/
def execThermalShutdown (sensor : Nat) (temp : Int) (s : State) : Res :=
  .next (if 20 ≤ sensor ∨ temp ≤ 115 then s else
    let s := s.tempIs sensor temp
    if s.inReset ∨ s.pins.tripped ∨ s.mode = .off then s else s.raise (thermSlot sensor) Cond.THERMAL_SHUTDOWN (tempInfo temp))

/-- `THERMAL_TRIP` (R707): every domain but D0 is held in reset until `PORST_N`; the trip latch is set. -/
def execThermalTrip (sensor : Nat) (temp : Int) (s : State) : Res :=
  .next (if 20 ≤ sensor ∨ temp ≤ 125 then s else
    let s := s.tempIs sensor temp
    if s.pins.tripped ∨ s.pins.porstLow then s else
      let s := (({ s.resetHead with pages := tripHdrs s.pages } : State).holdDomains).set F.AON_RESET_CAUSE_TRIP 1
      { s with pins := { s.pins with tripped := true, tripLatch := true, internalHeld := false } })

end Sys2Proof.Machine
end

