-- ==== Sys2Proof/Machine/Update.lean ====
section
/-! DEFINITION. Bundles, the update service, activation, trial and settings (chapter 16), and the boot chain that runs
what they leave (chapter 14). -/

namespace Sys2Proof.Machine

/-! ### Bundles (Tables 16.2 and 16.3, R619, R620) -/

/-- Bytes `a` to `a + n - 1` of a block, whose content is a number with its first byte least significant. -/
def blkBytes (c a n : Nat) : List Nat := leNat n (c / 256 ^ a)

/-- A little-endian field of a block. -/
def blkNat (c a n : Nat) : Nat := c / 256 ^ a % 256 ^ n

/-- A section of a bundle: 0 loader, 1 Derist partition, 2 integrator partition; its first body block and block count. -/
def sectionOf (c k : Nat) : Nat × Nat := (blkNat c (20 + 4 * k) 2, blkNat c (22 + 4 * k) 2)

/-- The header of a bundle is sound (Table 16.4, `BEGIN`). -/
def bundleOk (c : Nat) : Bool :=
  let n := blkNat c 16 4
  blkNat c 0 4 == 0x4238484C && blkNat c 4 2 == 1 && decide (1 ≤ blkNat c 6 2) && decide (blkNat c 6 2 ≤ 30) &&
    decide (3 ≤ n) && decide (n ≤ 3967) && blkNat c 80 4000 == 0 &&
    decide ((sectionOf c 0).2 + (sectionOf c 1).2 + (sectionOf c 2).2 ≤ n - 2) &&
    [0, 1, 2].all (fun k => decide ((sectionOf c k).1 + (sectionOf c k).2 ≤ n - 2)) &&
    (List.range (blkNat c 6 2)).all (fun e => blkNat c (4097 + 2048 * e) 3 == 0 && blkNat c (5817 + 2048 * e) 327 == 0)

/-- `HDR_TAG` verifies under a content key (R619). -/
def hdrTagOk (c key : Nat) : Bool :=
  (Config.gcmTag key (blkNat c 8 8 * 2 ^ 32 + 0xFFFFFFFF) (blkBytes c 0 4080) []).toNat == blkNat c 4080 16

/-- The ASCII bytes that key the derivation of a bundle's wrapping key. -/
def bundleLabel : List Nat := [0x4C, 0x48, 0x38, 0x2D, 0x42, 0x55, 0x4E, 0x44, 0x4C, 0x45]

/-- Z of R620: the ECDH secret, then the ML-KEM secret, with the head's own identity keys. -/
def sharedZ (point kem : List Nat) : List Nat :=
  beBytes 48 (Config.ecShared (Config.deviceKey 2).toNat point).toNat ++ beBytes 32 (Config.kemOpened (Config.deviceKey 4).toNat kem).toNat

/-- The content key that an envelope gives; none where UPD does not take it or its unwrap fails (R620). -/
def State.envelopeKey (s : State) (c e : Nat) : Option Nat :=
  let a := 4096 + 2048 * e
  let wrapped := ofBytes (blkBytes c (a + 16) 40)
  match blkNat c a 1 with
  | 1 =>
    if blkNat c (a + 8) 8 = Config.chip.toNat ∧ s.sec.devKeys then
      let z := sharedZ (blkBytes c (a + 56) 97) (blkBytes c (a + 153) 1568)
      Config.keyUnwrap ((Config.hmac (ofBytes bundleLabel) 2 (z ++ blkBytes c 8 8)).toNat % 2 ^ 384 / 2 ^ 128) wrapped
    else none
  | 2 =>
    match s.kek (blkNat c (a + 4) 4) with
    | .inl k => Config.keyUnwrap k wrapped
    | .inr _ => none
  | _ => none

/-- The content key of a bundle: of the first envelope whose unwrap succeeds and under whose key `HDR_TAG` verifies. -/
def State.contentKey (s : State) (c : Nat) : Option Nat :=
  ((List.range (blkNat c 6 2)).filterMap (fun e => s.envelopeKey c e)).find? (fun k => hdrTagOk c k)

/-- A block passes the check of R623: the tag table against `TAGS_HASH`, a body block by its tag. -/
def Bank.blockOk (b : Bank) (n c : Nat) : Bool :=
  if n = 1 then (Config.sha384 (leNat 65536 c)).toNat == ofBytes (blkBytes (AL.getD 0 0 b.data) 32 48)
  else (Config.gcmTag b.ckey (b.id * 2 ^ 32 + (n - 2)) [] (leNat 65536 c)).toNat == blkNat (AL.getD 1 0 b.data) (16 * (n - 2)) 16

/-- Byte `o` of a section's plaintext, by the section's first body block. -/
def Bank.plain (b : Bank) (first o : Nat) : Nat :=
  let j := first + o / 65536
  (Config.gcmPlain b.ckey (b.id * 2 ^ 32 + j) (leNat 65536 (AL.getD (j + 2) 0 b.data)) (o % 65536)).toNat

/-- Bytes of a section's plaintext. -/
def Bank.plains (b : Bank) (first o n : Nat) : List Nat := (List.range n).map (fun i => b.plain first (o + i))

/-- The condition of a partition under R621, 0 when it passes: against its root and the count of its security-version
fuse. -/
def Bank.partCheck (b : Bank) (first root svn : Nat) : Nat :=
  let hdr := b.plains first 0 64
  let n := bytesNat hdr 16 4
  let hashes := b.plains first 8192 (48 * n)
  let msg := beBytes 48 (Config.sha384 (hdr ++ hashes)).toNat
  if (Config.sha384 (b.plains first 64 2689)).toNat ≠ root ∨
      !Config.sigValid 0 (b.plains first 64 97) msg (b.plains first 2753 96) ∨
      !Config.sigValid 1 (b.plains first 161 2592) msg (b.plains first 2849 4627) then Cond.UPD_SIGNATURE_FAIL
  else if b.plain first 12 < svn then Cond.UPD_ROLLBACK
  else if (List.range n).any (fun i => (Config.sha384 (b.plains first (65536 * (4 + i)) 65536)).toNat != ofBytes ((hashes.drop (48 * i)).take 48)) then
    Cond.UPD_BLOCK_HASH_FAIL
  else 0

/-- The first section that fails, by its condition: the loader section as a copy (0 passes, 1 signature, 2 version, 3 block),
then the partitions (R621, R625). -/
def State.bundleCheck (s : State) (b : Bank) (loader : Nat) : Nat :=
  let c := AL.getD 0 0 b.data
  let lc := if (sectionOf c 0).2 = 0 then 0 else if loader = 1 then Cond.UPD_SIGNATURE_FAIL else if loader = 2 then Cond.UPD_ROLLBACK
    else if loader = 3 then Cond.UPD_BLOCK_HASH_FAIL else 0
  let dc := b.partCheck (sectionOf c 1).1 Config.rootD.toNat s.sec.fuses.svnD
  if lc ≠ 0 then lc else if dc ≠ 0 then dc
  else match s.sec.fuses.rootI with
    | none => Cond.BUNDLE_ROOT_BLANK
    | some r => b.partCheck (sectionOf c 2).1 r s.sec.fuses.svnI

/-! ### The UPD page (Table 16.11) -/

/-- A bank. -/
def State.bank (s : State) (b : Nat) : Bank := AL.getD b {} s.flash.banks

/-- Change a bank. -/
def State.modBank (s : State) (b : Nat) (f : Bank → Bank) : State := s.modFlash (fun x => { x with banks := AL.upd b {} f x.banks })

/-- `UPD_STAT.STAGE`. -/
def State.updStage (s : State) : Nat :=
  if s.flash.trial then 6
  else if s.flash.sched.isSome then 5
  else match (s.staging).map (fun b => (s.bank b).state) with
    | some 1 => 1
    | some 2 => 2
    | some 3 => 4
    | _ => 0

/-- UPD drives its registers; a change of `STAGE` sets `TRIAL`. -/
def State.updShow (s : State) : State :=
  let f := s.flash
  let was := s.get F.UPD_STAT_STAGE
  let s := s.setAll [(F.UPD_STAT_STAGE, s.updStage), (F.UPD_STAT_SOURCE, f.source), (F.UPD_PTR_NEXT_VALID, b2n f.ptr.next.isSome),
    (F.UPD_PTR_CUR_BANK, f.ptr.curBank), (F.UPD_PTR_NEXT_BANK, ((f.ptr.next).map (·.1)).getD 0), (F.UPD_PTR_CUR_SLOT, f.ptr.curSlot),
    (F.UPD_PTR_NEXT_SLOT, ((f.ptr.next).map (·.2)).getD 0), (F.UPD_PTR_TRY, f.ptr.tries), (F.UPD_PTR_FELL_BACK, b2n f.ptr.fellBack),
    (F.UPD_PTR_SEQ, f.ptr.seq % 2 ^ 32), (F.UPD_SCHED_TIME_MS, ((f.sched).map (·.1)).getD 0), (F.UPD_SCHED_WINDOW, ((f.sched).map (·.2.1)).getD 0),
    (F.UPD_TRIAL_SOLO_OK, b2n (f.trial && f.ptr.soloOk)), (F.UPD_TRIAL_AUTO_CONFIRM, b2n (f.trial && f.ptr.autoConfirm)),
    (F.UPD_TRIAL_DEADLINE, if f.trial then f.deadline % 2 ^ 48 else 0), (F.UPD_SETTINGS_STAT_FORMAT, s.settings.format),
    (F.UPD_SETTINGS_STAT_MIGRATED, b2n f.migrated), (F.UPD_SETTINGS_STAT_SLOT, f.slot)]
  let s := [0, 1].foldl (fun (s : State) b => s.setAll [(F.UPD_BANK_STAT_STATE b, (s.bank b).state), (F.UPD_BANK_STAT_DONE b, (s.bank b).done),
    (F.UPD_BANK_STAT_ID b, (s.bank b).id % 2 ^ 32)]) s
  if s.get F.UPD_STAT_STAGE = was then s else s.irq Slot.UPD 2

/-- A condition that UPD raises. -/
def State.updRaise (s : State) (cond : Nat) (info : Nat := 0) : State :=
  (s.raise (condSlot cond) cond info).setAll [(F.UPD_STAT_CONDITION, cond), (F.UPD_STAT_BEAT, s.beat32)]

/-! ### Requests (R622, R637) -/

/-- A frame leaves by the service link: its type and what it carries (Table 16.10). -/
def State.kslSend (s : State) (typ : Nat) (args : List Nat) : State := (s.send .service typ args).bump F.SVC_CNT_TX_COUNT

/-- A response of a type, kept with it to answer a repeated `SEQ` (R637). -/
def State.kslReply (s : State) (typ seq : Nat) (args : List Nat) : State :=
  (s.kslSend typ (seq :: args)).modFlash (fun f => { f with resps := AL.put seq (typ :: args) f.resps })

/-- A `RESP`. -/
def State.kslResp (s : State) (seq : Nat) (args : List Nat) : State := s.kslReply 5 seq args

/-- Bytes of a request block or of a request's payload on the link. -/
def State.updBytes (s : State) (c a o n : Nat) : List Nat :=
  if c = 129 then (((AL.get a s.flash.kslQ).map (·.2)).getD [] |>.drop o).take n else s.bytesAt (a + o) n

/-- Argument word `i` of a request. -/
def State.updArg (s : State) (c a i : Nat) : Nat := leOf (s.updBytes c a (8 * i) 8)

/-- `OP` of a request. -/
def State.updOp (s : State) (c a : Nat) : Nat := leOf (s.updBytes c a 7 1)

/-- The first request of the update service ends (R622): with its condition, and for the link what the response carries. -/
def State.updEnd (s : State) (cond : Nat) (words : List Nat := []) : State :=
  match s.mbx.updQ with
  | [] => s
  | (c, a) :: t =>
    let s := s.modMbx (fun x => { x with updQ := t })
    let s := if cond = 0 then s else s.updRaise cond
    let s := (s.setAll [(F.UPD_CMD_STAT_BUSY, 0), (F.UPD_CMD_STAT_RESULT, if cond = 0 then 1 else 2), (F.UPD_CMD_STAT_CONDITION, cond)]).irq Slot.UPD 1
    let s := if c = 129 then (s.kslResp a (cond :: words)).modFlash (fun f => { f with kslQ := AL.del a f.kslQ })
      else if c = 128 then s else (s.blockCond a cond).mbxAnswer 2 c (a + 1)
    s.updShow

/-- Requests at the front whose `OP` is none of Table 16.4 end with `UPD_REQ_INVALID`. -/
def State.updInvalid : Nat → State → State
  | 0, s => s
  | n + 1, s => match s.mbx.updQ with
    | (c, a) :: _ => if s.updOp c a = 0 ∨ 9 < s.updOp c a then (s.updEnd Cond.UPD_REQ_INVALID).updInvalid n else s
    | [] => s

/-- Run the first request where it is of operation `op`: `f` gives its condition, the words its response carries and the state
it leaves, from where the request stands and its source (1 the update service, 2 the link); none while it waits for data. -/
def State.updRun (s : State) (op : Nat) (f : State → Nat → Nat → Nat → Option (Nat × List Nat × State)) : State :=
  let s := s.updInvalid s.mbx.updQ.length
  match s.mbx.updQ with
  | (c, a) :: _ =>
    if s.updOp c a ≠ op then s
    else match f s c a (if c = 129 then 2 else 1) with
      | none => s
      | some (cond, words, t) => t.updEnd cond words
  | [] => s

/-! ### Staging (R622 to R625) -/

/-- A block whose 64 frames are all in, as a number. -/
def State.kslBlock (s : State) (n : Nat) : Option Nat :=
  let part (i : Nat) : Option Nat := ((s.flash.frames.find? (fun q => q.1 == n && q.2.1 == i)).map (fun q => q.2.2))
  if (List.range 64).all (fun i => (part i).isSome) then
    some ((List.range 64).foldr (fun i acc => (part i).getD 0 + 256 ^ 1024 * acc) 0)
  else none

/-- Frames of a block are dropped. -/
def State.kslDrop (s : State) (n : Nat) : State := s.modFlash (fun f => { f with frames := f.frames.filter (fun q => q.1 != n) })

/-- The content of block `n` of a request's data: from HBM, or from the link's frames. -/
def State.updBlock (s : State) (src addr k n : Nat) : Option Nat :=
  if src = 2 then s.kslBlock n else some (leOf (s.bytesAt (addr + 65536 * k) 65536))

/-- A bank's block is programmed, read back, and its progress byte with it (R623). -/
def State.putBlock (s : State) (b n c : Nat) : State :=
  (s.modBank b (fun x => { x with
    data := AL.put n c x.data, done := n + 1, state := if n + 1 = x.blocks then 2 else x.state })).satInc F.UPD_CNT_BLOCKS 1

/-- Check a block and program it, or raise nothing and write nothing: its condition (R623). -/
def State.progBlock (s : State) (b n c : Nat) : Nat × State :=
  if (s.bank b).state = 1 ∧ n = (s.bank b).done ∧ (s.bank b).blockOk n c then (0, s.putBlock b n c)
  else (Cond.UPD_BLOCK_CHECK_FAIL, s.satInc F.UPD_CNT_FAILS 1)

/-- Blocks of one request, in order, until one fails. -/
def State.progBlocks (s : State) (b addr first : Nat) : Nat → Nat × State
  | 0 => (0, s)
  | k + 1 =>
    match s.progBlocks b addr first k with
    | (0, s) => s.progBlock b (first + k) (leOf (s.bytesAt (addr + 65536 * k) 65536))
    | r => r

/-- `UPD_BEGIN` (R620, R622): the staging bank is erased and takes block 0. -/
def execUpdBegin (s : State) : Res :=
  .next (s.updRun 1 (fun s c a src =>
    if s.flash.source ≠ 0 ∧ s.flash.source ≠ src then some (Cond.UPD_BUSY, [], s)
    else match s.staging, s.flash.trial with
      | some b, false =>
        if src = 1 ∧ !inHbm (s.updArg c a 1) 65536 then some (Cond.UPD_REQ_INVALID, [], s) else
        match s.updBlock src (s.updArg c a 1) 0 0 with
        | none => none
        | some x =>
          let s := s.kslDrop 0
          if !bundleOk x then some (Cond.UPD_BUNDLE_INVALID, [], s)
          else match s.contentKey x with
            | none => some (Cond.UPD_ENVELOPE_ABSENT, [], s)
            | some k =>
              let s := s.modFlash (fun f => { f with source := src, kslBlocks := none })
              let s := s.modBank b (fun _ => { state := 1, id := blkNat x 8 8, blocks := blkNat x 16 4, ckey := k })
              some (0, [], s.putBlock b 0 x)
      | _, _ => some (Cond.UPD_STATE_INVALID, [], s)))

/-- `UPD_BLOCKS` (R623): the blocks of a request from HBM, or the announcement of those that come as frames. -/
def execUpdBlocks (s : State) : Res :=
  .next (s.updRun 2 (fun s c a src =>
    let first := s.updArg c a 1
    let n := s.updArg c a 2
    match s.staging with
    | some b =>
      if (s.bank b).state ≠ 1 ∨ s.flash.source ≠ src then some (Cond.UPD_STATE_INVALID, [], s)
      else if n = 0 ∨ 64 < n ∨ (src = 1 ∧ !inHbm (s.updArg c a 3) (65536 * n)) then some (Cond.UPD_REQ_INVALID, [], s)
      else if src = 2 then some (0, [], s.modFlash (fun f => { f with kslBlocks := some (first, n, a) }))
      else let (cond, s) := s.progBlocks b (s.updArg c a 3) first n
        some (cond, [], if (s.bank b).state = 2 then s.modFlash (fun f => { f with frames := [] }) else s)
    | none => some (Cond.UPD_STATE_INVALID, [], s)))

/-- `UPD_VERIFY` (R625): `loader` is the outcome of R572's checks of a loader section: 0 passes, 1 keys or signatures, 2 version,
3 a block. -/
def execUpdVerify (loader : Nat) (s : State) : Res :=
  .next (s.updRun 3 (fun s _ _ src =>
    match s.staging with
    | some b =>
      let x := s.bank b
      if x.state ≠ 2 ∨ s.flash.source ≠ src then some (Cond.UPD_STATE_INVALID, [], s)
      else
        let cond := s.bundleCheck x loader
        let c := AL.getD 0 0 x.data
        let s := s.modFlash (fun f => { f with source := 0 })
        if cond = 0 then
          some (0, [], s.modBank b (fun x => { x with
            state := 3, svnD := x.plain (sectionOf c 1).1 12, svnI := x.plain (sectionOf c 2).1 12
            format := bytesNat (x.plains (sectionOf c 1).1 14 2) 0 2 }))
        else some (cond, [], (s.modBank b (fun x => { x with state := 4 })).satInc F.UPD_CNT_FAILS 1)
    | none => some (Cond.UPD_STATE_INVALID, [], s)))

/-- `UPD_SCHEDULE` (R627): time in ms TAI, window, `SOLO_OK`, `AUTO_CONFIRM`. -/
def execUpdSchedule (s : State) : Res :=
  .next (s.updRun 4 (fun s c a _ =>
    if s.flash.trial ∨ ((s.staging).map (fun b => (s.bank b).state)).getD 0 ≠ 3 then some (Cond.UPD_STATE_INVALID, [], s)
    else some (0, [], s.modFlash (fun f => { f with
      sched := some (s.updArg c a 1 % 2 ^ 48, s.updArg c a 2 % 2 ^ 16, false)
      schedSolo := decide (s.updArg c a 3 % 2 = 1), schedAuto := decide (s.updArg c a 4 % 2 = 1) }))))

/-- `UPD_CANCEL` (R622): a schedule is cleared, or else the staging bank erased. -/
def execUpdCancel (s : State) : Res :=
  .next (s.updRun 5 (fun s _ _ _ =>
    match s.flash.ptr.next, s.staging with
    | none, some b =>
      some (0, [], if s.flash.sched.isSome then s.modFlash (fun f => { f with sched := none, activating := false })
        else (s.modBank b (fun _ => {})).modFlash (fun f => { f with source := 0, kslBlocks := none, frames := [] }))
    | _, _ => some (Cond.UPD_STATE_INVALID, [], s)))

/-! ### Confirmation (R577, R630) -/

/-- A trial may be confirmed now. -/
def State.mayConfirm (s : State) : Bool :=
  s.flash.trial && decide (s.beat < s.flash.deadline) && s.flash.migrated &&
    (s.mode == .paired || (s.mode == .solo && s.flash.ptr.soloOk))

/-- A confirmation: the record makes the trial bank and slot current; then fuse bits are owed and both loader copies are
rewritten from a loader section that is present. -/
def State.confirm (s : State) : State :=
  match s.flash.ptr.next with
  | none => s
  | some (b, k) =>
    let x := s.bank b
    let s := s.putPtr { s.flash.ptr with curBank := b, curSlot := k, next := none, tries := 0, nextId := 0, fellBack := false, soloOk := false, autoConfirm := false }
    let hasLoader := decide ((sectionOf (AL.getD 0 0 x.data) 0).2 ≠ 0)
    (s.modFlash (fun f => { f with
      trial := false, owedD := max f.owedD x.svnD, owedI := max f.owedI x.svnI
      loaders := if hasLoader then AL.put 0 x.id (AL.put 1 x.id f.loaders) else f.loaders })).updShow

/-- `UPD_CONFIRM` (R630). -/
def execUpdConfirm (s : State) : Res :=
  .next (s.updRun 6 (fun s _ _ _ => if s.mayConfirm then some (0, [], s.confirm) else some (Cond.UPD_CONFIRM_REFUSED, [], s)))

/-- With `AUTO_CONFIRM` the head confirms as soon as the conditions of R630 hold (at beat boundaries). -/
def State.autoConfirm (s : State) : State := if s.flash.ptr.autoConfirm && s.mayConfirm then s.confirm else s

/-- The five words that `STATUS` copies. -/
def State.updStatus (s : State) : List Nat :=
  let g (f : Fld) : Nat := s.get f * 2 ^ f.lo
  let bank (b : Nat) : Nat := g (F.UPD_BANK_STAT_STATE b) + g (F.UPD_BANK_STAT_DONE b) + g (F.UPD_BANK_STAT_ID b)
  [g F.UPD_STAT_STAGE + g F.UPD_STAT_SOURCE + g F.UPD_STAT_CONDITION + g F.UPD_STAT_BEAT,
   g F.UPD_PTR_NEXT_VALID + g F.UPD_PTR_CUR_BANK + g F.UPD_PTR_NEXT_BANK + g F.UPD_PTR_CUR_SLOT + g F.UPD_PTR_NEXT_SLOT + g F.UPD_PTR_TRY +
     g F.UPD_PTR_FELL_BACK + g F.UPD_PTR_SEQ,
   bank 0, bank 1,
   g F.UPD_SETTINGS_STAT_FORMAT + g F.UPD_SETTINGS_STAT_LOST + g F.UPD_SETTINGS_STAT_MIGRATED + g F.UPD_SETTINGS_STAT_SLOT]

/-- `UPD_STATUS` (R622): to the output address, or in the link's response. -/
def execUpdStatus (s : State) : Res :=
  .next (s.updRun 7 (fun s c a src =>
    let s := s.updShow
    let ws := s.updStatus
    if src = 2 then some (0, ws, s)
    else if inHbm (s.updArg c a 1) 40 then some (0, [], s.putBytes (s.updArg c a 1) (ws.flatMap (leNat 8)))
    else some (Cond.UPD_REQ_INVALID, [], s)))

/-! ### Settings (R632 to R635) -/

/-- An identity of Table 16.8, with a length its item may have. -/
def itemOk (id len : Nat) : Bool :=
  ((decide (1 ≤ id) && decide (id ≤ 8)) || (decide (0x100 ≤ id) && decide (id ≤ 0x7FFF))) && decide (len < 65536) &&
    (id != 1 || len == 8) && (id != 2 || len == 6) && ((id != 6 && id != 7) || len == 40)

/-- An item's value from its bytes: an address is read first byte most significant, as are wrapped keys. -/
def itemValue (id : Nat) (l : List Nat) : Nat := if id = 2 ∨ id = 6 ∨ id = 7 then ofBytes l else leOf l

/-- `UPD_SETTINGS` (R633): an item of the slot in use. -/
def execUpdSettings (s : State) : Res :=
  .next (s.updRun 8 (fun s c a src =>
    let id := s.updArg c a 1
    let len := s.updArg c a 2
    if !itemOk id len ∨ (src = 1 ∧ !inHbm (s.updArg c a 3) len) then some (Cond.SETTINGS_ITEM_INVALID, [], s)
    else if s.flash.trial ∧ !s.flash.migrated then some (Cond.UPD_BUSY, [], s)
    else some (0, [], s.putItem id (itemValue id (if src = 2 then s.updBytes c a 24 len else s.bytesAt (s.updArg c a 3) len)) len)))

/-- `UPD_FUSE` (R571): over the link only; SEC may then program the fuse. -/
def execUpdFuse (s : State) : Res :=
  .next (s.updRun 9 (fun s c a src =>
    let op := s.updArg c a 1
    let f := s.sec.fuses
    let ok := match op with
      | 3 => f.rootI.isNone
      | 4 => true
      | 5 => f.rootI.isSome && !f.debugDisable
      | _ => false
    if src ≠ 2 ∨ !ok then some (Cond.FUSE_PROG_REFUSED, [], s)
    else some (0, [], s.modSec (fun x => { x with fuseGrant := some (op, ofBytes (s.updBytes c a 16 48)) }))))

/-- The vault key (R584). -/
def vaultKey : Nat := (Config.deviceKey 0).toNat / 2 ^ 256

/-- The bindings of channels 32 to 127 that the settings give (item 5): one word of 8 bytes for each, laid out as `MBX_BIND`, taken while
the bindings are not locked (R602; log entry 142). -/
def State.settingsBind (s : State) (value : Nat) : State :=
  if s.get F.MBX_BIND_LOCK_LOCKED = 1 then s
  else (List.range 96).foldl (fun (s : State) i =>
    let w := value / 256 ^ (8 * i) % 2 ^ 64
    if bitOf w 63 then s.mbxBind (32 + i) true (bitsOf w 8 6) (bitsOf w 0 6) else s) s

/-- The settings in use give the head its array identity, mailbox bindings, pair key, fabric salt and slot keys (Table 16.8). An item
of 40 bytes is still wrapped under the vault key. -/
def State.loadSettings (s : State) : State :=
  let st := s.settings
  let item (id : Nat) : Option (Nat × Nat) := (st.items.find? (fun q => q.1 == id)).map (·.2)
  let key (id : Nat) : Option Nat := (item id).bind (fun q =>
    if !s.sec.devKeys then none
    else if q.2 = 40 then Config.keyUnwrap vaultKey q.1 else some q.1)
  let s := s.modPair (fun p => { p with arrayId := ((item 1).map (·.1)).getD 0 })
  let s := match item 5 with
    | some (v, 768) => s.settingsBind v
    | _ => s
  let s := s.modSec (fun x => { x with pairKey := key 6 })
  let s := match key 7 with
    | some k => s.keyPut (hSalt 0xF00) { value := k }
    | none => s
  if s.sec.devKeys then
    (st.items.filter (fun q => decide (0x80000 ≤ q.1))).foldl (fun s q =>
      s.keyPut (hSlot (q.1 % 0x80000)) { use := q.2.2 / 65536, long := q.2.2 % 65536 == 64, value := q.2.1 }) s
  else s

/-- A fallback (R629): a record without `NEXT`, and `FAILED` into the bank that fell back. -/
def State.fallBack (s : State) : State :=
  match s.flash.ptr.next with
  | none => s
  | some (b, _) =>
    let s := s.putPtr { s.flash.ptr with next := none, tries := 0, fellBack := true, nextId := 0, soloOk := false, autoConfirm := false }
    (s.modBank b (fun x => { x with state := 4 })).modFlash (fun f => { f with trial := false })

/-- `SETTINGS_MIGRATE` (R632, R633): whether the current slot can be read, every item converted and the new slot written. -/
def execSettingsMigrate (readable converts writes : Bool) (s : State) : Res :=
  .next (if !s.flash.trial ∨ s.flash.migrated ∨ s.get F.SEC_BOOT_STAT_STAGE < 2 ∨ s.health.bootHalted then s else
    let cur := AL.getD s.flash.ptr.curSlot {} s.flash.slots
    let k := s.flash.slot
    let fmt := ((s.flash.ptr.next).map (fun q => (s.bank q.1).format)).getD 0
    let x := AL.getD k {} s.flash.slots
    let done (s : State) : State := (s.modFlash (fun f => { f with migrated := true })).loadSettings.updShow
    if AL.has k s.flash.slots ∧ x.ok ∧ x.sourceSeq = cur.seq ∧ x.format = fmt then done s
    else if readable && cur.ok && converts && writes then
      done (s.modFlash (fun f => { f with slots := AL.put k { cur with format := fmt, seq := cur.seq + 1, changes := 0, sourceSeq := cur.seq } f.slots }))
    else (s.updRaise Cond.SETTINGS_MIGRATION_FAILED).fallBack.selfReset 6)

/-! ### Activation and trial (R626 to R631) -/

/-- The schedule counts, and its time has been reached: beats since then, in this head's wall time (R627). -/
def State.schedAge (s : State) : Option Nat :=
  match s.flash.sched with
  | some (t, _, _) =>
    let src := s.get F.BEAT_STAT_SOURCE
    if (src = 1 ∨ src = 2) ∧ t * 1000000 ≤ s.wall then some ((s.wall - t * 1000000) / 8000) else none
  | none => none

/-- The conditions of R627 on the bank, the mode and the peer. -/
def State.mayActivate (s : State) : Bool :=
  !s.flash.trial && ((s.staging).map (fun b => (s.bank b).state)).getD 0 == 3 &&
    ((s.mode == .paired && s.get F.PRL_STAT_REACHABLE == 1 && s.get F.PRL_PEER_INFO_MODE == 3) || (s.mode == .solo && s.flash.schedSolo))

/-- `UPD_ACTIVATE_CHECK` (R627, R628): at a boundary of the window. -/
def execUpdActivateCheck (s : State) : Res :=
  .next (match s.schedAge, s.flash.sched with
    | some n, some (t, w, said) =>
      if 1024 * w ≤ n ∨ s.flash.activating then s
      else if !s.mayActivate then
        (if said then s else (s.updRaise Cond.UPD_ACTIVATE_DEFERRED).modFlash (fun f => { f with sched := some (t, w, true) }))
      else
        let c := if s.pair.hand ≠ .none then Cond.MODE_REQ_BUSY else s.modeRefusal (if s.mode = .paired then 1 else 2)
        if c ≠ 0 then ((s.updRaise c).modFlash (fun f => { f with sched := none })).updShow
        else if s.mode = .paired then (s.modFlash (fun f => { f with activating := true })).handOver 1
        else (s.modeReq 2).activate
    | _, _ => s)

/-- `UPD_ACTIVATE_EXPIRED` (R627): the window closes and the bank stays VERIFIED. -/
def execUpdActivateExpired (s : State) : Res :=
  .next (match s.schedAge, s.flash.sched with
    | some n, some (_, w, _) =>
      if 1024 * w ≤ n ∧ !s.flash.activating then
        ((s.updRaise Cond.UPD_ACTIVATE_EXPIRED).modFlash (fun f => { f with sched := none })).updShow
      else s
    | _, _ => s)

/-- `UPD_TRIAL_TIMEOUT` (R631): after a hand-over in PAIRED, the head resets. -/
def execUpdTrialTimeout (s : State) : Res :=
  .next (if !s.flash.trial ∨ s.beat < s.flash.deadline ∨ s.pair.after = 2 then s else
    let s := s.updRaise Cond.UPD_TRIAL_TIMEOUT
    if s.mode = .paired then (s.handOver 2) else s.selfReset 4)

/-! ### The boot chain (R572 to R576, R599, R629, R634, R635) -/

/-- The chain goes on: the head is in BOOT, nothing holds it and no stage has stopped it. -/
def State.chainAt (s : State) (stage : Nat) : Bool :=
  s.mode == .boot && !s.inReset && !s.health.bootHalted && s.get F.SEC_BOOT_STAT_STAGE == stage

/-- A condition of the boot chain. -/
def State.bootRaise (s : State) (cond : Nat) (info : Nat := 0) : State := (s.set F.SEC_BOOT_STAT_CONDITION cond).raise (condSlot cond) cond info

/-- The ROM judges a loader copy (R572, R573): the first check that fails abandons it. -/
def State.loaderJudge (s : State) (copy : Nat) (keysOk sigsOk : Bool) (svn : Nat) (blocksOk : Bool) (digest : Nat) : State :=
  let c := if !keysOk || !sigsOk then Cond.BOOT_HEADER_FAIL else if svn < s.sec.fuses.svnD then Cond.BOOT_ROLLBACK
    else if !blocksOk then Cond.BOOT_BLOCK_FAIL else 0
  if c = 0 then
    (s.setAll [(F.SEC_BOOT_STAT_STAGE, 1), (F.SEC_BOOT_STAT_COPY, copy), (F.SEC_BOOT_BEATS_LOADER, s.beat32)]).msrExtend 0 digest
  else
    let s := s.bootRaise c copy
    let s := s.modSec (fun x => { x with copiesBad := x.copiesBad ++ [copy] })
    if copy = 1 then s.bootRaise Cond.BOOT_LOADER_FAIL else s

/-- `BOOT_LOADER_VERIFY` (R572, R573): copy 0, then copy 1, once the start-up test has passed. -/
def execBootLoaderVerify (keysOk sigsOk : Bool) (svn : Nat) (blocksOk : Bool) (digest : Nat) (s : State) : Res :=
  .next (if !s.chainAt 0 ∨ s.get F.SEC_ENT_STAT_STATE ≠ 1 ∨ s.sec.copiesBad.contains 1 then s
    else s.loaderJudge (if s.sec.copiesBad.contains 0 then 1 else 0) keysOk sigsOk svn blocksOk digest)

/-- `BOOT_LOADER_TIMEOUT` (R574): the ROM waits for a loader over the service link. -/
def execBootLoaderTimeout (s : State) : Res :=
  .next (if s.chainAt 0 ∧ s.pair.bootBeat + 65536 ≤ s.beat ∧ !s.sec.copiesBad.contains 1 then
      (s.bootRaise Cond.BOOT_LOADER_FAIL).modSec (fun x => { x with copiesBad := [0, 1] })
    else s)

/-- The partitions of a bank that the recovery loader runs pass (R575, R621): Derist's, and the integrator's where `ROOT_I` is not
blank. -/
def State.imagePasses (s : State) (b : Bank) : Bool :=
  let c := AL.getD 0 0 b.data
  b.partCheck (sectionOf c 1).1 Config.rootD.toNat s.sec.fuses.svnD == 0 &&
    (match s.sec.fuses.rootI with
    | none => true
    | some r => b.partCheck (sectionOf c 2).1 r s.sec.fuses.svnI == 0)

/-- The bytes of a settings item: identity, length and value, padded to 8; keys stand wrapped under the vault key (Table 16.8). A slot
key's item holds the slot, its `USE` and the wrapped key. -/
def itemBytes (q : Nat × Nat × Nat) : List Nat :=
  let v := q.2.1
  let n := q.2.2
  let (id, l) :=
    if 0x80000 ≤ q.1 then (8, leNat 2 (q.1 % 0x80000) ++ leNat 2 (n / 65536) ++ beBytes (n % 65536 + 8) (Config.keyWrap vaultKey v (n % 65536)))
    else if (q.1 = 6 ∨ q.1 = 7) ∧ n = 32 then (q.1, beBytes 40 (Config.keyWrap vaultKey v 32))
    else if q.1 = 2 ∨ q.1 = 6 ∨ q.1 = 7 then (q.1, beBytes n v)
    else (q.1, leNat n v)
  let x := leNat 2 id ++ leNat 2 l.length ++ l
  x ++ List.replicate ((8 - x.length % 8) % 8) 0

/-- The bytes of a settings slot: its 64-byte header and its items (chapter 16). -/
def Settings.bytes (x : Settings) : List Nat :=
  let items := x.items.flatMap itemBytes
  let hdr := [0x4C, 0x48, 0x38, 0x53] ++ leNat 2 x.format ++ [0, 0] ++ leNat 8 x.seq ++ leNat 4 x.changes ++ leNat 4 items.length ++ leNat 8 x.sourceSeq ++
    List.replicate 28 0
  hdr ++ leNat 4 (crc32c (hdr ++ items)) ++ items

/-- The recovery loader runs a bank's image: measurements 2 to 4, of the partition headers and the settings in use, and the report of
its versions. -/
def State.runImage (s : State) (b : Nat) : State :=
  let x := s.bank b
  let d := (sectionOf (AL.getD 0 0 x.data) 1).1
  let i := (sectionOf (AL.getD 0 0 x.data) 2).1
  let s := s.modBank b (fun x => { x with svnD := x.plain d 12, svnI := x.plain i 12, format := bytesNat (x.plains d 14 2) 0 2 })
  let s := s.modFlash (fun f => { f with chosen := some b })
  let s := s.setAll [(F.SEC_BOOT_INFO_D_SVN, x.plain d 12), (F.SEC_BOOT_INFO_I_SVN, x.plain i 12)]
  let s := s.msrExtend 2 (Config.sha384 (x.plains d 0 262144)).toNat
  let blank := s.sec.fuses.rootI.isNone
  let s := if blank then s else s.msrExtend 3 (Config.sha384 (x.plains i 0 262144)).toNat
  let s := s.msrExtend 4 (Config.sha384 s.settings.bytes).toNat
  if blank then (s.bootRaise Cond.BUNDLE_ROOT_BLANK).setMode .service else s

/-- `BUNDLE_CHECK` (R575, R629): the record in force chooses the bank, whose partitions are checked from what it holds. -/
def execBundleCheck (s : State) : Res :=
  .next (if !s.chainAt 1 ∨ s.flash.chosen.isSome then s else
    let cur (s : State) : State :=
      let s := s.modFlash (fun f => { f with slot := f.ptr.curSlot, trial := false })
      (if s.imagePasses (s.bank s.flash.ptr.curBank) then s.runImage s.flash.ptr.curBank
       else (s.bootRaise Cond.BOOT_BUNDLE_FAIL).setMode .service).updShow
    match s.flash.ptr.next with
    | none => cur s
    | some (b, k) =>
      if s.flash.ptr.tries < 3 ∧ s.imagePasses (s.bank b) then
        let s := s.putPtr { s.flash.ptr with tries := s.flash.ptr.tries + 1 }
        let s := s.modFlash (fun f => { f with slot := k, trial := true, migrated := false, deadline := s.beat - (s.beat - s.get F.SEC_BOOT_BEATS_LOADER) % 2 ^ 32 + 2 ^ 24 })
        (s.runImage b).updShow
      else cur (s.fallBack.updRaise Cond.UPD_TRIAL_FALLBACK))

/-- The keys of a boot (R177, R576, R584): after a debug unlock KEY has no access to `UDS` and draws nothing. -/
def State.bootKeys (s : State) : State :=
  if s.sec.udsClosed then s.set F.KEY_STAT_STATE 2
  else
    let (k, s) := s.draw256
    let s := (s.modSec (fun x => { x with devKeys := true, storeKey := some k })).set F.KEY_STAT_STATE 1
    let (v, s) := s.draw256
    let prev := ((s.ftl.heldDump).map (·.jgen)).getD 0
    let g := (prev + 1) % 65536
    (s.setAll [(F.JNL_KEY_STAT_JGEN, g), (F.JNL_KEY_STAT_KEY, 1), (F.KEY_JNL_STAT_OWN, g), (F.KEY_JNL_STAT_OWN_PREV, prev)]).keyPut
      (hJnl (s.get F.FAB_ID_HID) g) { value := v }

/-- The protected windows (R588): the journal region, 16 GiB at `JNL_BASE`, and the key store, 130 MiB. -/
def State.bootWindows (s : State) : State :=
  s.setAll [(F.SEC_PROT_WIN0_BASE, s.get F.JNL_BASE_BASE * 2 ^ 13), (F.SEC_PROT_WIN0_SIZE, 8192),
    (F.SEC_PROT_WIN1_BASE, s.get F.KEY_STORE_BASE_BASE), (F.SEC_PROT_WIN1_SIZE, 65)]

/-- Once the boot count is written: keys, hardening, windows and settings, and the page locks of R101 at the end of SEC's own work
(R576, R599, R634, R635; log entry 125); `settingsOk` when the header and CRC-32C of the slot in use hold. -/
def State.firmwareUp (s : State) (settingsOk : Bool) : State :=
  let s := s.bootKeys
  let s := (s.hardenAll (s.get F.SEC_HARDEN_DUMMY) (s.get F.SEC_HARDEN_SHUFFLE)).bootWindows.saltsStore
  let s := s.modFlash (fun f => { f with slots := AL.upd f.slot {} (fun x => { x with ok := settingsOk }) f.slots })
  let s := if s.flash.trial then s
    else if s.settings.ok then s.loadSettings
    else ((s.updRaise Cond.SETTINGS_CORRUPT).modPair (fun p => { p with arrayId := 0 })).setMode .service
  let s := if s.flash.trial ∧ !settingsOk then s.updRaise Cond.SETTINGS_CORRUPT else s
  let s := if s.flash.ptr.fellBack ∧ !s.flash.trial then
      let lost := min 65535 (AL.getD (1 - s.flash.ptr.curSlot) {} s.flash.slots).changes
      (s.set F.UPD_SETTINGS_STAT_LOST lost).sample 42 lost
    else s
  let s := if s.get F.SEC_DBG_STAT_STATE = 2 then (s.bootRaise Cond.DEBUG_ACTIVE).setMode .service else s
  s.updShow.lockAllPages

/-- `FIRMWARE_START` (R576): `countOk` when both boot-count sectors take the new count. -/
def execFirmwareStart (countOk settingsOk : Bool) (s : State) : Res :=
  .next (if s.flash.chosen.isNone ∨ s.get F.SEC_BOOT_STAT_STAGE ≠ 1 ∨ s.inReset ∨ s.health.bootHalted ∨ !(s.sec.udsClosed || s.mayDraw)
      ∨ !(s.mode == .boot || s.mode == .service) then s else
    let s := s.setAll [(F.SEC_BOOT_STAT_STAGE, 2), (F.SEC_BOOT_BEATS_FIRMWARE, s.beat32)]
    if !countOk then
      let s := s.bootRaise Cond.BOOT_COUNT_WRITE_FAIL
      { s with health := { s.health with bootHalted := true } }
    else
      ((s.modFlash (fun f => { f with bootCount := s.flash.bootCount + 1 })).set F.SEC_BOOT_COUNT_COUNT ((s.flash.bootCount + 1) % 2 ^ 32)).firmwareUp settingsOk)

/-- `HBM_TRAIN` (R715): the pseudo-channels of a stack that train, page `p` holding channels 8p to 8p + 7, and the beats it
took. -/
def execHbmTrain (stack ok beats : Nat) (s : State) : Res :=
  .next (if 4 ≤ stack ∨ s.inReset ∨ s.get F.SEC_BOOT_STAT_STAGE < 2 ∨ !s.domUp (slotDomain (Slot.HBM + 4 * stack)) then s else
    let s := (List.range 4).foldl (fun (s : State) p =>
      let m := bitsOf ok (8 * p) 8
      s.setAll [(F.HBM_STAT_PC_OK stack p, m), (F.HBM_STAT_STATE stack p, if m = 255 then 2 else 3), (F.HBM_STAT_TRAIN_BEATS stack p, beats)]) s
    if ok % 2 ^ 32 = 2 ^ 32 - 1 then s else s.raise (Slot.HBM + 4 * stack) Cond.HBM_TRAIN_FAIL ok)

/-! ### The Kenlum Service Link (R636, R637) -/

/-- A frame of the service link wakes the head from DOZE, and is discarded (R652, Table 17.7). -/
def State.svcWakes (s : State) : Bool := s.mode == .doze && s.get F.PWR_DOZE_STAT_PHASE == 2 && s.wakeOn 2

/-- The port answers in every mode but OFF and VAULT. -/
def State.svcUp (s : State) : Bool := !s.inReset && s.mode != .off && s.mode != .vault && s.domUp (slotDomain Slot.SVC) && !s.svcWakes

/-- Bytes that a frame's payload may have: an `AUTH` holds every field of R636 (log entry 60). -/
def kslLenOk (typ n : Nat) : Bool := if typ = 3 then n == 9078 else decide (n ≤ 1032)

/-- The trailer of a frame verifies: CRC-32C outside a session, HMAC-SHA-256 under the session key in one. -/
def State.kslTrailerOk (s : State) (body trailer : List Nat) (session : Nat) : Bool :=
  if session = 0 then leOf trailer == crc32c body && trailer.length == 4
  else match s.flash.session with
    | some x => x.id == session && trailer.length == 32 && ofBytes trailer == (Config.hmac x.key 1 body).toNat % 2 ^ 256
    | none => false

/-- A frame of a type arrives: it is counted, and discarded for `MAGIC`, `VER`, length or trailer; `f` handles what it carries,
from its `SEQ`, whether it stands in the open session, and its payload. A frame of another type is none of this command's. -/
def State.kslRx (s : State) (frame : List Nat) (typ : Nat) (f : State → Nat → Bool → List Nat → State) : State :=
  if s.svcWakes then s.wake 2 31 else
  if !s.svcUp ∨ frame.getD 3 0 ≠ typ then s else
  let s := (s.bump F.SVC_CNT_RX_COUNT).set F.SVC_STAT_LINK 1
  let len := bytesNat frame 8 2
  let session := bytesNat frame 12 4
  let body := frame.take (16 + len)
  if frame.getD 0 0 = 0x4B ∧ frame.getD 1 0 = 0x53 ∧ frame.getD 2 0 = 1 ∧ kslLenOk typ len ∧ body.length = 16 + len
      ∧ s.kslTrailerOk body (frame.drop (16 + len)) session then
    let s := s.set F.SVC_STAT_BEAT s.beat32
    let s := if session = 0 then s else s.modFlash (fun x => { x with session := (x.session).map (fun q => { q with lastBeat := s.beat }) })
    f s (bytesNat frame 4 4) (session != 0) (body.drop 16)
  else s.bump F.SVC_CNT_BAD_COUNT

/-- The open session closes. -/
def State.kslClose (s : State) (phase : Nat) : State :=
  let s := if s.flash.session.isSome then s.irq Slot.SVC 1 else s
  (s.modFlash (fun f => { f with session := none })).setAll [(F.SVC_STAT_SESSION, phase), (F.SVC_SESSION_ID, 0), (F.SVC_SESSION_SCOPE, 0)]

/-- A condition of the link. -/
def State.kslRaise (s : State) (cond : Nat) : State := (s.set F.SVC_STAT_CONDITION cond).raise Slot.SVC cond

/-- Answer a challenge request: a fresh nonce; any session closes (R636). -/
def State.kslChallenge (s : State) (seq : Nat) : State :=
  let (v, s) := s.draw256
  let s := (s.kslClose 1).modFlash (fun f => { f with nonce := some v, resps := [], kslQ := f.kslQ, frames := [] })
  s.kslSend 2 [seq, v, Config.chip.toNat, s.flash.bootCount]

/-- `KSL_CHALLENGE_REQ` (R636); while the generator recovers the request waits (R595). -/
def execKslChallengeReq (frame : List Nat) (s : State) : Res :=
  .next (s.kslRx frame 1 (fun s seq _ _ => if s.mayDraw then s.kslChallenge seq else s.modFlash (fun f => { f with chalSeq := some seq })))

/-- A repeated `SEQ` is answered with its earlier response (R637). -/
def State.kslOnce (s : State) (seq : Nat) (f : State → State) : State :=
  match AL.get seq s.flash.resps with
  | some l => s.kslSend (l.headD 5) (seq :: l.tail)
  | none => f s

/-- The ASCII bytes "KSL". -/
def kslLabel : List Nat := [0x4B, 0x53, 0x4C]

/-- `KSL_AUTH` (R636): tool's ECDH key, ML-KEM ciphertext, scope, root keys, ECDSA and ML-DSA signatures. -/
def execKslAuth (frame : List Nat) (s : State) : Res :=
  .next (s.kslRx frame 3 (fun s seq _ p => s.kslOnce seq (fun s =>
    match s.flash.nonce with
    | none => ((s.kslRaise Cond.KSL_AUTH_FAIL).bump F.SVC_CNT_AUTH_COUNT).kslResp seq [Cond.KSL_AUTH_FAIL]
    | some v =>
      let nonce := leNat 32 v
      let roots := (p.drop 1666).take 2689
      let msg := nonce ++ leNat 8 Config.chip.toNat ++ p.take 4355
      let root := s.sec.fuses.rootI.getD Config.rootD.toNat
      if (Config.sha384 roots).toNat = root ∧ Config.sigValid 0 (roots.take 97) msg ((p.drop 4355).take 96)
          ∧ Config.sigValid 1 (roots.drop 97) msg ((p.drop 4451).take 4627) ∧ s.sec.devKeys then
        let key := (Config.hmac (ofBytes nonce) 2 (kslLabel ++ sharedZ (p.take 97) ((p.drop 97).take 1568))).toNat % 2 ^ 384 / 2 ^ 128
        let scope := p.getD 1665 0 % 8
        let (r, s) := s.free 32
        let id := r % (2 ^ 32 - 1) + 1
        let s := s.modFlash (fun f => { f with nonce := none, session := some ⟨id, scope, key, s.beat⟩ })
        let s := (s.setAll [(F.SVC_STAT_SESSION, 2), (F.SVC_SESSION_ID, id), (F.SVC_SESSION_SCOPE, scope)]).irq Slot.SVC 1
        s.kslResp seq [0, id]
      else ((s.kslRaise Cond.KSL_AUTH_FAIL).bump F.SVC_CNT_AUTH_COUNT).kslResp seq [Cond.KSL_AUTH_FAIL])))

/-- The scope bit that an operation needs (R636). -/
def kslScope (op : Nat) : Nat := if op = 8 then 1 else if op = 9 then 2 else 0
/-- `KSL_REQ` (R637): the payload is laid out as a request block; the request joins the update service's queue. -/
def execKslReq (frame : List Nat) (s : State) : Res :=
  .next (s.kslRx frame 4 (fun s seq inSession p => s.kslOnce seq (fun s =>
    let op := p.getD 7 0
    let open_ := decide (op = 7) && s.get F.SVC_CFG_READ_OPEN == 1
    let inScope := inSession && bitOf (((s.flash.session).map (·.scope)).getD 0) (kslScope op)
    if !open_ && !inScope then (s.kslRaise Cond.KSL_SESSION_ABSENT).kslResp seq [Cond.KSL_SESSION_ABSENT]
    else if AL.has seq s.flash.kslQ then s
    else (s.modFlash (fun f => { f with kslQ := AL.put seq (op, p) f.kslQ })).modMbx (fun x => { x with updQ := x.updQ ++ [(129, seq)] }))))

/-- Blocks of a running `BLOCKS` request whose frames are all in are handled in their order, each with its answer. -/
def State.kslTake (seq : Nat) : Nat → State → State
  | 0, s => s
  | k + 1, s =>
    match s.flash.kslBlocks, s.staging with
    | some (n, left, q), some b =>
      match (if left = 0 then none else s.kslBlock n) with
      | none => s
      | some c =>
        let (cond, s) := (s.kslDrop n).progBlock b n c
        let s := if cond = 0 then s.modFlash (fun f => { f with kslBlocks := if left = 1 then none else some (n + 1, left - 1, q) }) else s.updRaise cond
        let s := (s.kslResp seq [cond, n]).updShow
        if cond = 0 then s.kslTake seq k else s
    | _, _ => s

/-- `KSL_DATA` (R637): block index, frame index and 1,024 bytes; at most 8 blocks are in flight. -/
def execKslData (frame : List Nat) (s : State) : Res :=
  .next (s.kslRx frame 6 (fun s seq inSession p => s.kslOnce seq (fun s =>
    let n := bytesNat p 0 4
    let i := bytesNat p 4 2
    let held := (s.flash.frames.map (·.1)).eraseDups
    if !inSession ∨ !bitOf (((s.flash.session).map (·.scope)).getD 0) 0 ∨ 64 ≤ i ∨ p.length ≠ 1030 ∨ (!held.contains n ∧ 8 ≤ held.length) then s
    else
      let s := s.modFlash (fun f => { f with frames := (f.frames.filter (fun q => !(q.1 == n && q.2.1 == i))) ++ [(n, i, leOf (p.drop 6))] })
      s.kslTake seq 8)))

/-- `KSL_LOADER` (R574): the frames of a recovery loader; once `done`, it is checked as copy 2. -/
def execKslLoader (frame : List Nat) (done keysOk sigsOk : Bool) (svn : Nat) (blocksOk : Bool) (digest : Nat) (s : State) : Res :=
  .next (s.kslRx frame 9 (fun s seq _ _ => s.kslOnce seq (fun s =>
    if s.chainAt 0 ∧ s.sec.copiesBad.contains 1 ∧ done then
      let s := s.loaderJudge 2 keysOk sigsOk svn blocksOk digest
      s.kslResp seq [if s.get F.SEC_BOOT_STAT_STAGE = 1 then 0 else s.get F.SEC_BOOT_STAT_CONDITION]
    else s.kslResp seq [0])))

/-- `KSL_SESSION_TIMEOUT` (R636). -/
def execKslSessionTimeout (s : State) : Res :=
  .next (match s.flash.session with
    | some x => if x.lastBeat + 2 ^ 24 ≤ s.beat then s.kslClose 0 else s
    | none => s)

end Sys2Proof.Machine
end

