-- ==== Sys2Proof/Machine/Boundary.lean ====
section
/-! DEFINITION. The beat boundary (R38): commits, the time source, the admission pass, and what every block does once in each
beat. -/

namespace Sys2Proof.Machine

/-! ### Time passes -/

/-- Beats since the time base was zero, not wrapped. -/
def State.beats (s : State) : Nat := s.time.tbFx / 524288000

/-- Edges of the real-time clock pass: `AON_RTC` counts them, and the alarm asserts its wake source when it is reached
(Table 17.7). -/
def State.rtcEdges (s : State) (k0 : Nat) : State :=
  let old := s.get F.AON_RTC_TICKS
  let hit := (s.get F.AON_ALARM_TICKS + 2 ^ 48 - old % 2 ^ 48 - 1) % 2 ^ 48 + 1
  let s := s.bump F.AON_RTC_TICKS k0
  if s.get F.AON_ALARM_EN = 1 ∧ hit ≤ k0 then s.wake 1 31 else s

/-! ### Stall counts (R58) -/

/-- The stall count of a connection at the boundary that ends beat `prev`. -/
def stallNext (prev stall : Nat) (sent pend : Option Nat) : Nat :=
  if (sent.map (fun b => decide (prev ≤ b))).getD false then 0
  else if (pend.map (fun b => decide (b < prev))).getD false then stall + 1
  else stall

/-- The stall counts of every connection. -/
def State.stallTick (s : State) : State :=
  let p := s.beat - 1
  (s.modHost (fun h => { h with conns := AL.mapV (fun _ x => { x with stall := stallNext p x.stall x.sentBeat x.pendBeat }) h.conns })).modLdt
    (fun t => { t with conns := AL.mapV (fun _ x => { x with stall := stallNext p x.stall x.sentBeat x.pendBeat }) t.conns })

/-! ### Notices to the peer (R209, R264, R265) -/

/-- The landing horizon: the last beat all of whose update records have reached the peer. -/
def State.horizon (s : State) : Nat :=
  (s.write.upd.filter (fun q => q.2.own && !q.2.acked && !q.2.entered)).foldl (fun b q => min b (q.2.beat - 1)) (s.beat - 1)

/-- ENTRY for the beat that has ended, HORIZON and RETIRE. -/
def State.peerNotes (s : State) : State :=
  if s.mode = .paired then
    let s := (s.sendPeer 9 0 ((s.beat - 1) :: s.write.enteredNow)).sendPeer 0xA 0 [s.horizon]
    let s := if s.write.retireNotes = [] then s else s.sendPeer 0xB 0 s.write.retireNotes
    s.modWrite (fun w => { w with enteredNow := [], retireNotes := [] })
  else s.modWrite (fun w => { w with enteredNow := [], retireNotes := [] })

/-! ### Completions (R720) -/

/-- Requests that ended by a decision of an earlier beat complete, in order of their tags (R446, R720). -/
def State.completions (s : State) : State :=
  (s.adm.reqs.filter (fun q => q.2.stage == .completing && decide (q.2.endBeat < s.beat))).foldl (fun (s : State) q => s.complete q.1) s

/-! ### Connections -/

/-- NVT connections send what they may. -/
def State.tcpAll (s : State) : State :=
  (s.host.conns.map (·.1)).foldl (fun (s : State) c => s.tcpGo c) s

/-- LDT connections send what they may; an initiator without an answer sends its HELLO again (R467). -/
def State.ldtAll (s : State) : State :=
  s.ldt.conns.foldl (fun (s : State) q =>
    if q.2.state = 3 then s.ldtGo q.1
    else if q.2.initiator ∧ q.2.state = 1 ∧ q.2.lastTx + 1024 ≤ s.beat then s.ldtClear q.1 0xC q.2.hello
    else s) s

/-- An IDLE flit on every media lane and every bundle in ACTIVE (R319, R508; log entry 175). -/
def State.lanesIdle (s : State) : State :=
  let s := (List.range 128).foldl (fun (s : State) ln => if s.linkActive ln then s.idleFlit ln else s) s
  [0, 1].foldl (fun (s : State) b => if s.bundleActive b then s.putPeer b 0 63 0 0 0 else s) s

/-! ### Keys, samples and clocks -/

/-- Key fetches that waited for one of the 16 places start (R356). -/
def State.keysGo (s : State) : State :=
  s.slices.foldl (fun (s : State) q => (q.2.keys.filter (fun e => !e.2.resident && !e.2.fetching)).foldl (fun (s : State) e => s.keyFetch q.1 e.1) s) s

/-- Own records held in the journal (`JNL_STAT.OWN_UNITS`). -/
def State.ownUnits (s : State) : Nat := (s.write.recs.filter (fun q => q.2.own)).length

/-- Entered records that no chunk holds yet (`CHK_BACKLOG.RECORDS`). -/
def State.chkBacklog (s : State) : Nat :=
  (s.write.recs.filter (fun q => q.2.own && q.2.typ == 1 && q.2.state == 2 && decide (0 < q.2.entryNo) && !q.2.chunked)).length

/-- The samples of each beat (Table 18.4). -/
def State.beatSamples (s : State) : State :=
  let s := (s.sample 14 (s.get F.ADM_LOAD_LOAD_PCT)).sample 15 (s.get F.ADM_LOAD_WAITING)
  let s := (List.range 16).foldl (fun (s : State) i => s.sample (16 + i) ((s.slice i).load.getD 5 0)) s
  let s := s.sample 38 s.ownUnits
  if s.beat % 64 = 0 then s.sample 39 s.chkBacklog else s

/-- `CLK_PLL_STAT` and `CLK_REF_STAT` while every clock runs; the pulses of wake sources have ended, but for the thermal alarm. -/
def State.clkShow (s : State) : State :=
  let lock := (List.range 9).foldl (fun a n => if s.pwr.pllBad.contains n then a else a + 2 ^ n) 0
  s.setAll [(F.CLK_PLL_STAT_RUN, 511), (F.CLK_PLL_STAT_LOCK, lock), (F.CLK_REF_STAT_OK, s.refBits),
    (F.PWR_WAKE_STAT_ASSERTED, s.get F.PWR_WAKE_STAT_ASSERTED &&& 128)]

/-! ### The boundary -/

/-- What waited for random bits goes on once the generator gives output (R595). -/
def State.drawsGo (s : State) : State :=
  if !s.mayDraw then s else
  let s := s.saltsGo.acceptsGo.headsOpen
  let s := match s.flash.chalSeq with
    | some q => (s.modFlash (fun f => { f with chalSeq := none })).kslChallenge q
    | none => s
  if s.health.chalWait then (s.modHealth (fun h => { h with chalWait := false })).clrChal else s

/-- What goes on in the fabric and in replication. -/
def State.fabBeat (s : State) : State :=
  let s := s.drawsGo.fabLeave.orphansGo
  let s := (if s.fabIn then s.homesCheck else s).fabNeed.headGo.foreignTrim
  let s := (s.fab.links.map (·.1)).foldl (fun (s : State) k => s.cycleGo k) s
  s.resyncGo.syncGo

/-- What the write path and flash translation do once in each beat. -/
def State.storeBeat (s : State) : State := s.retireReady.jobsGoOn.movesGoOn.logCheck.holdupCheck.dumpCheck.freezeCheck

/-- The work of a boundary, in its order (R38): what the beat that ends leaves over goes to software digests (R348) and what has left
returns its reservations; then commits, the source, the pass, and what the beat brings. -/
def State.boundary (s : State) : State :=
  let s := ((s.digestGrants .digest).egressTrim).modPwr (fun p => { p with blank := p.blank.filter (fun k => !(s.unit k).enable) })
  let room := s.passRoom
  let s := s.stallTick.freshSlots.commitAll.takeSource
  let s := s.peerNotes.rowsGoOn.admissionPass room
  let s := s.completions.flushGo.wakeHeld.storeBeat
  let s := s.selftestScope.anaCheck.tcpAll.ldtAll.egressTrim.fabBeat
  s.pairOn.rubEnd.autoConfirm.keysGo.lanesIdle.beatSamples.clkShow

/-- The head is out of reset and D3 is up: its blocks see the boundary. -/
def State.blocksRun (s : State) : Bool := !s.inReset && !s.pins.tripped && s.mode != .off && s.domUp 3

/-- `BEAT_BOUNDARY` (R38): K2 cycles and edges of the real-time clock pass, up to the next boundary; fewer only move the time
(log entry 82). Nothing happens while the clocks stand still for DOZE (R32), while a backward step holds the time base (R24) or while
`PORST_N` is low (R15), and a command that would pass over a boundary does not occur. -/
def execBeatBoundary (k2 k0 : Nat) (s : State) : Res :=
  .next (
    if s.pwr.capture.isSome ∨ s.time.holdLeft.isSome ∨ s.pins.porstLow then s
    else
      let s' := s.advance k2
      if s.beats + 1 < s'.beats then s
      else
        let t := s'.rtcEdges k0
        if s.beats < s'.beats ∧ t.blocksRun then t.boundary else t)

end Sys2Proof.Machine
end

