-- ==== Sys2Proof/Machine/Test.lean ====
section
/-! DEFINITION. Chapter 19: the link test, and the TAP with debug unlock (R597, R598, R708 to R714). -/

namespace Sys2Proof.Machine

/-! ### Link test (R710 to R713) -/

/-- Change a quad's test. -/
def State.modTest (s : State) (q : Nat) (f : TstSt → TstSt) : State :=
  { s with pins := { s.pins with tests := AL.upd q {} f s.pins.tests } }

/-- A quad's test. -/
def State.tst (s : State) (q : Nat) : TstSt := AL.getD q {} s.pins.tests

/-- The port slot of a quad's lane in a mode: the highest that starts at or below the lane (Table 10.1). -/
def laneSlot (mode n : Nat) : Nat :=
  (((List.range (n + 1)).filter (fun k => (modeWidths mode).getD k 0 != 0)).getLast?).getD 0

/-- The port of a host lane is enabled (R408); in mode 4 the lanes of the next quad belong to the port of this one. -/
def State.hostLaneOn (s : State) (q n : Nat) : Bool :=
  let mode (q : Nat) : Nat := s.get (F.HFI_Q_STAT_MODE (q / 12) (q % 12))
  let en (q k : Nat) : Bool := bitOf (s.get (F.HFI_Q_CFG_PORT_EN (q / 12) (q % 12))) k
  if mode q ≠ 0 then en q (laneSlot (mode q) n)
  else decide (q % 2 = 1) && mode (q - 1) == 4 && en (q - 1) 0

/-- A lane is free for test (R710). -/
def State.laneFree (s : State) (q n : Nat) : Bool :=
  if q < 24 then !s.hostLaneOn q n
  else if q < 56 then s.get (F.MDL_LINK_CTL_ENABLE (4 * (q - 24) + n)) == 0
  else !bitOf (s.get F.PRL_CFG_BUNDLE_EN) ((q - 56) / 4) || s.get F.PRL_CTL_ENABLE == 0

/-- The lanes that a test names: `GEN_EN` or `CHK_EN`. -/
def State.testLanes (s : State) (q : Nat) : Nat := s.get (F.TST_CFG_GEN_EN q) ||| s.get (F.TST_CFG_CHK_EN q)

/-- Bits that a lane receives in a number of nanoseconds: 53.125 Gb/s on media lanes, 106.25 Gb/s on the others. -/
def laneBits (q ns : Nat) : Nat := if 24 ≤ q ∧ q < 56 then ns * 425 / 8 else ns * 425 / 4

/-- Bring a lane's counters up to now: the bits since the last time at the lane's rate while its checker is locked, and the
errors among them (R712). -/
def State.testCount (s : State) (q n errs : Nat) : State :=
  match AL.get n (s.tst q).lockTb with
  | none => s
  | some t =>
    let s := (s.bump (F.TST_BIT_CNT_BITS q n) (laneBits q (s.tb - t))).satInc (F.TST_ERR_CNT_ERRORS q n) errs
    s.modTest q (fun x => { x with lockTb := AL.put n s.tb x.lockTb })

/-- Both counters of every lane return to zero. -/
def State.testZero (s : State) (q : Nat) : State :=
  let s := (List.range 4).foldl (fun (s : State) n => (s.set (F.TST_BIT_CNT_BITS q n) 0).set (F.TST_ERR_CNT_ERRORS q n) 0) s
  s.modTest q (fun x => { x with lockTb := AL.mapV (fun _ _ => s.tb) x.lockTb })

/-- `RUN` written as 1: the lanes named are taken, if all are free. -/
def State.testRun (s : State) (q : Nat) : State :=
  let l := s.testLanes q
  if (List.range 4).any (fun n => bitOf l n && !s.laneFree q n) then s.raise (Slot.TST + q) Cond.TST_BUSY
  else
    let was := s.get (F.TST_CTL_RUN q)
    let s := (s.setAll [(F.TST_CTL_RUN q, 1), (F.TST_STAT_TAKEN q, l)]).testZero q
    if was = 1 then s else (s.set (F.TST_STAT_LOCK q) 0).modTest q (fun x => { x with runBeat := some s.beat, lockTb := [] })

/-- Links of a quad whose enables were written during the test now train (R710). -/
def State.testTrain (s : State) (q : Nat) : State :=
  if q < 24 then
    (List.range 4).foldl (fun (s : State) n =>
      let w := s.portWidth (4 * q + n)
      if w ≠ 0 ∧ s.portState (4 * q + n) = 1 ∧ bitOf (s.get (F.HFI_Q_CFG_PORT_EN (q / 12) (q % 12))) n then s.setPort (4 * q + n) 2 w else s) s
  else if q < 56 then
    (List.range 4).foldl (fun (s : State) n =>
      let ln := 4 * (q - 24) + n
      if s.get (F.MDL_LINK_CTL_ENABLE ln) = 1 ∧ s.get (F.MDL_LINK_STAT_STATE ln) = 0 then s.linkTrain ln else s) s
  else s.bundleTimers

/-- `RUN` written as 0: the checkers stop, the lanes return to their links. -/
def State.testStop (s : State) (q : Nat) (errs : List Nat) : State :=
  if s.get (F.TST_CTL_RUN q) = 0 then s else
    let s := (List.range 4).foldl (fun (s : State) n => s.testCount q n (errs.getD n 0)) s
    let n := s.beat - ((s.tst q).runBeat).getD s.beat
    let s := s.setAll [(F.TST_CTL_RUN q, 0), (F.TST_STAT_TAKEN q, 0), (F.TST_STAT_LOCK q, 0), (F.TST_STAT_RUN_BEATS q, min n (2 ^ 32 - 1))]
    (s.modTest q (fun x => { x with runBeat := none, lockTb := [] })).testTrain q

/-- `EYE` written as 1: a scan of `TST_EYE_CFG.LANE` begins; one runs per quad. -/
def State.testEye (s : State) (q : Nat) : State :=
  if s.get (F.TST_STAT_EYE_STATE q) = 1 then s.raise (Slot.TST + q) Cond.TST_BUSY
  else
    (s.setAll [(F.TST_STAT_EYE_STATE q, 1), (F.TST_STAT_EYE_PCT q, 0)]).modTest q (fun x => { x with
      eye := some (s.get (F.TST_EYE_CFG_ADDR q) * 4096, s.get (F.TST_EYE_CFG_LANE q), s.get (F.TST_EYE_CFG_DWELL q)) })

/-- A write of `TST_CTL`: `RUN`, then `CLEAR`, then `EYE`. -/
def State.testCtl (s : State) (q : Nat) (run clear eye : Bool) (errs : List Nat) : State :=
  let s := if run then s.testRun q else s.testStop q errs
  let s := if clear then s.testZero q else s
  if eye then s.testEye q else s

/-- A bus write of `TST_CTL`; `RUN` as it stands where none is given. -/
def State.testBus (s : State) (m q : Nat) (f : State → State) : State :=
  if 64 ≤ q then s else s.busWr m (Slot.TST + q) 0x108 f

/-- `TST_RUN` (R710). -/
def execTstRun (m q : Nat) (s : State) : Res := .next (s.testBus m q (fun s => s.testCtl q true false false []))

/-- `TST_STOP` (R710). -/
def execTstStop (m q : Nat) (errs : List Nat) (s : State) : Res :=
  .next (s.testBus m q (fun s => s.testCtl q false false false errs))

/-- `TST_CLEAR` (R712): with `RUN` as it stands. -/
def execTstClear (m q : Nat) (s : State) : Res :=
  .next (s.testBus m q (fun s => s.testCtl q (s.get (F.TST_CTL_RUN q) == 1) true false []))

/-- `TST_EYE_SCAN` (R713): with `RUN` as it stands. -/
def execTstEyeScan (m q : Nat) (s : State) : Res :=
  .next (s.testBus m q (fun s => if s.get (F.TST_CTL_RUN q) = 1 then s.testCtl q true false true [] else s.testEye q))

/-- The bytes of an eye scan: 3 eyes of 64 phases of 128 thresholds, each a saturating 16-bit count (R713). -/
def eyeBytes (counts : List Nat) : List Nat :=
  (List.range 24576).flatMap (fun i => leNat 2 (min 65535 (counts.getD i 0)))

/-- `TST_EYE_DONE` (R713). -/
def execTstEyeDone (q : Nat) (counts : List Nat) (s : State) : Res :=
  .next (match (s.tst q).eye with
    | none => s
    | some (a, _, _) =>
      let s := if inHbm a 49152 then s.putBytes a (eyeBytes counts) else s
      let s := (s.setAll [(F.TST_STAT_EYE_STATE q, 2), (F.TST_STAT_EYE_PCT q, 100)]).modTest q (fun x => { x with eye := none })
      s.irq (Slot.TST + q) 2)

/-- `TST_CHECKER_LOCK` (R712). -/
def execTstCheckerLock (q n : Nat) (s : State) : Res :=
  .next (if 64 ≤ q ∨ 4 ≤ n ∨ s.get (F.TST_CTL_RUN q) = 0 ∨ !bitOf (s.get (F.TST_CFG_CHK_EN q)) n ∨ bitOf (s.get (F.TST_STAT_LOCK q)) n then s
    else (s.set (F.TST_STAT_LOCK q) (s.get (F.TST_STAT_LOCK q) ||| 2 ^ n)).modTest q (fun x => { x with lockTb := AL.put n s.tb x.lockTb }))

/-- `TST_LOCK_LOSS` (R712): the counters hold. -/
def execTstLockLoss (q n errs : Nat) (s : State) : Res :=
  .next (if 64 ≤ q ∨ 4 ≤ n ∨ !bitOf (s.get (F.TST_STAT_LOCK q)) n then s
    else
      let s := (s.testCount q n errs).modTest q (fun x => { x with lockTb := AL.del n x.lockTb })
      let s := s.setAll [(F.TST_STAT_LOCK q, s.get (F.TST_STAT_LOCK q) - 2 ^ n), (F.TST_STAT_LOSS q, s.get (F.TST_STAT_LOSS q) ||| 2 ^ n)]
      (s.irq (Slot.TST + q) 1).raise (Slot.TST + q) Cond.TST_PATTERN_LOSS n)

/-! ### The TAP (R708, R709) -/

/-- A TAP instruction is loaded and shifts bits out of its data register. -/
def State.tapOut (s : State) (code : Nat) (args : List Nat) : State :=
  { s with pins := { s.pins with tapIr := code } }.send .tap code args

/-- Instructions that act on the pins take effect only while a reset input is held low or while JTAG is secure (R708). -/
def State.tapPins (s : State) : Bool := s.pins.porstLow || s.pins.srstLow || s.sec.jtagSecure

/-- A boundary scan instruction: its cells capture the pins and take what is shifted in; else it acts as BYPASS. -/
def State.tapScan (s : State) (code levels value : Nat) (acts : Bool) : State :=
  if acts then { s with pins := { s.pins with scan := value } }.tapOut code [levels] else s.tapOut code [0]

/-- `IDCODE`: V4B8A3C7, V from `PAGE_VER.STEP`. -/
def execIdcode (s : State) : Res := .next (s.tapOut 1 [Config.step.toNat % 16 * 2 ^ 28 + 0x4B8A3C7])

/-- `SAMPLE_PRELOAD`. -/
def execSamplePreload (levels value : Nat) (s : State) : Res := .next (s.tapScan 2 levels value true)

/-- `EXTEST`. -/
def execExtest (levels value : Nat) (s : State) : Res := .next (s.tapScan 3 levels value s.tapPins)

/-- `EXTEST_PULSE`. -/
def execExtestPulse (levels value : Nat) (s : State) : Res := .next (s.tapScan 4 levels value s.tapPins)

/-- `EXTEST_TRAIN`. -/
def execExtestTrain (levels value : Nat) (s : State) : Res := .next (s.tapScan 5 levels value s.tapPins)

/-- `CLAMP`: the pins hold what boundary scan holds; the bypass register is selected. -/
def execClamp (s : State) : Res := .next (s.tapOut 6 [0])

/-- `HIGHZ`: the outputs float; the bypass register is selected. -/
def execHighz (s : State) : Res := .next (s.tapOut 7 [0])

/-- `BYPASS`, and every code of no other instruction. -/
def execBypass (code : Nat) (s : State) : Res := .next (s.tapOut (code % 256) [0])

/-- What drives the pins: 0 the head, 1 boundary scan, 2 nothing; recomputed as resets and the unlock change (R708). -/
def State.pinDrive (s : State) : Nat :=
  if !s.tapPins then 0
  else if s.pins.tapIr = 3 ∨ s.pins.tapIr = 4 ∨ s.pins.tapIr = 5 ∨ s.pins.tapIr = 6 then 1
  else if s.pins.tapIr = 7 then 2 else 0

/-- `TAP_RESET` (R709): master 62 is reset; whether JTAG is secure does not change. The instruction register then holds IDCODE
(log entry 71). -/
def execTapReset (s : State) : Res :=
  .next ({ s.masterReset 62 with pins := { s.pins with tapIr := 1 } })

/-! ### Debug unlock (R597, R598) -/

/-- `DBG_STAT`: the register as it stands. -/
def execDbgStat (s : State) : Res :=
  .next (s.tapOut 0x22 [s.get F.SEC_DBG_STAT_STATE * 2 ^ 62 + s.get F.SEC_DBG_STAT_FORCED * 2 ^ 61 + s.get F.SEC_DBG_STAT_BEAT])

/-- `DBG_CHAL`: a fresh nonce, `CHIP` and the boot count. Where SEC issues no challenge, since debug is disabled or no output may be
drawn, the bits shifted out are free values (log entry 72). -/
def execDbgChal (s : State) : Res :=
  .next (if s.sec.fuses.debugDisable ∨ s.inReset ∨ s.pins.tripped ∨ s.mode = .off ∨ s.get F.SEC_DRBG_STAT_READY = 0 then
      let r := (List.range 6).foldl (fun (x : List Nat × State) _ => let (v, t) := x.2.free 64; (x.1 ++ [v], t)) (([] : List Nat), s)
      r.2.tapOut 0x20 r.1
    else
      let (v, s) := s.draw256
      (s.modSec (fun x => { x with dbgNonce := some v })).tapOut 0x20 [v, Config.chip.toNat, s.flash.bootCount])

/-- A debug token passes: challenge, scope, the keys of its root, both signatures (R597; layout: log entry 72). -/
def State.dbgTokenOk (s : State) (t : List Nat) : Bool :=
  let keys := (t.drop 45).take 2689
  let msg := t.take 2734
  let root := if s.sec.fuses.debugRoot then s.sec.fuses.rootI else some Config.rootD.toNat
  match s.sec.dbgNonce, root with
  | some v, some r =>
    t.length == 7457 && t.take 44 == leNat 32 v ++ leNat 8 Config.chip.toNat ++ leNat 4 s.flash.bootCount
      && (Config.sha384 keys).toNat == r
      && Config.sigValid 0 (keys.take 97) msg ((t.drop 2734).take 96) && Config.sigValid 1 (keys.drop 97) msg ((t.drop 2830).take 4627)
  | _, _ => false

/-- A valid token is refused (R597). -/
def State.dbgRefused (s : State) (force : Bool) : Bool :=
  !(s.mode == .boot || s.mode == .service || s.mode == .fenced) || s.leaseHeld 0 || s.leaseHeld 1
    || (!force && !s.write.recs.isEmpty)

/-- Every request of the key service ends with `DEBUG_KEYS_ERASED` (R598). -/
def State.keysEnd : Nat → State → State
  | 0, s => s
  | n + 1, s => (s.keyEnd Cond.DEBUG_KEYS_ERASED).keysEnd n

/-- What an accepted unlock does, in the order of R598. Admission stands still while `SEC_DBG_STAT.STATE` is 2. -/
def State.dbgUnlock (s : State) (t : List Nat) (force : Bool) : State :=
  let s := s.setAll [(F.SEC_DBG_STAT_STATE, 2), (F.SEC_DBG_STAT_FORCED, b2n force), (F.SEC_DBG_STAT_BEAT, s.beat32)]
  let s := match s.sec.hmacTag with
    | some g => (s.dropReq g).modSec (fun x => { x with hmacTag := none })
    | none => s
  let s := s.keysEnd s.mbx.keyQ.length
  let s : State := { s with slices := [] }
  let s := s.modSec (fun x => { x with handles := [], pairKey := none, devKeys := false, storeKey := none, udsClosed := true, dbgNonce := none })
  let s := (s.msrExtend 7 (Config.sha384 t).toNat).msrLock 7
  s.modSec (fun x => { x with jtagSecure := true })

/-- `DBG_TOKEN` (R597): disabled, then invalid, then refused, then the unlock. -/
def execDbgToken (bytes : List Nat) (s : State) : Res :=
  .next (if s.inReset ∨ s.pins.tripped ∨ s.mode = .off then s else
    let s := (s.tapOut 0x21 []).satInc F.SEC_DBG_CNT_TRIES 1
    let force := bitOf (bytes.getD 44 0) 0
    let no (c : Nat) : State := (s.satInc F.SEC_DBG_CNT_FAILS 1).raise (Slot.SEC + 3) c
    if s.sec.fuses.debugDisable then no Cond.DEBUG_UNLOCK_REFUSED
    else if !s.dbgTokenOk bytes then no Cond.DEBUG_TOKEN_INVALID
    else if s.dbgRefused force then no Cond.DEBUG_UNLOCK_REFUSED
    else s.dbgUnlock bytes force)

end Sys2Proof.Machine
end

