-- ==== Sys2Proof/Machine/Views.lean ====
section
/-! DEFINITION. What the status registers show that follow from the rest of the state: for a register, the values of the fields
that the state does not keep as fields of their own, each under its lowest bit. -/

namespace Sys2Proof.Machine

/-- Values of fields by their lowest bits. -/
abbrev View := List (Nat × Nat)

/-- Number of elements with a property. -/
def countIf {α : Type} (p : α → Bool) (l : List α) : Nat := (l.filter p).length

/-- The `k`th free value of this read (log entries 5 and 90). -/
def State.shown (s : State) (k w : Nat) : Nat := (Config.freeValue (s.freshCount + k)).toNat % 2 ^ w

/-- A signed temperature as eight bits. -/
def degree (t : Int) : Nat := (t % 256).toNat

/-! ### Time, interrupts and the read path -/

/-- BEAT (Tables 1.8 to 1.14). -/
def State.viewBeat (s : State) (off : Nat) : View :=
  if off = 0x100 then [(0, s.tb)] else if off = 0x110 then [(0, s.beat)] else if off = 0x148 then [(0, s.wall)] else []

/-- Word `k` of `IRT_PEND`; the slots of secure pages show zero to non-secure masters (Table 2.14). -/
def State.irtPend (s : State) (m k : Nat) : Nat :=
  (List.range 64).foldl (fun a j => if s.irqAsserted (64 * k + j) && (s.secureMaster m || !slotSecure (64 * k + j)) then a + 2 ^ j else a) 0

/-- IRT page 0: the threshold of the core that reads, and the asserted page interrupts (Table 2.13). -/
def State.viewIrt (s : State) (m p off : Nat) : View :=
  if p = 0 ∧ off = 0x110 then [(0, AL.getD m 0 s.irt.thresh)]
  else if p = 0 ∧ 0x180 ≤ off ∧ off < 0x200 then [(0, s.irtPend m ((off - 0x180) / 8))]
  else
    let r := 480 * (p - 1) + (off - 0x100) / 8
    if 1 ≤ p ∧ 0x100 ≤ off ∧ 896 ≤ r ∧ r < 1024 ∧ s.mbxBound (r - 896) then [(0, s.get (F.MBX_BIND_RECEIVER (r - 896)))] else []

/-- RDP page 0: reads in the slow path, reconstructs running and queued, and hazard entries: one for each command from its arrival until
its resolve point (R149). -/
def State.viewRdp (s : State) (p off : Nat) : View :=
  if p ≠ 0 then []
  else if off = 0x108 then [(32, s.slowCount), (16, s.reconActive), (0, countIf (fun q => q.2.rebuilds && q.2.queued) s.read.fetches)]
  else if off = 0x118 then
    [(32, countIf (fun q => q.2.stage == .held) s.adm.reqs), (0, countIf (fun q => q.2.ranged && !q.2.resolved) s.adm.reqs)]
  else []

/-- MAP and CTB page 0: pages pinned, resident and dirty, and fetches in progress. -/
def State.viewMeta (s : State) (ctb : Bool) (p off : Nat) : View :=
  let l := if ctb then s.read.ctbPages else s.read.mapPages
  if p ≠ 0 then []
  else if off = 0x110 then [(32, countIf (fun q => decide (0 < q.2.pins)) l), (0, countIf (fun q => q.2.resident) l)]
  else if off = 0x118 then [(0, countIf (fun q => q.2.dirty) l)]
  else if off = 0x120 then [(0, s.metaFetching ctb)]
  else []

/-- RCH page 0: what the read cache holds. -/
def State.viewRch (s : State) (p off : Nat) : View :=
  if p ≠ 0 then []
  else if off = 0x118 then [(32, s.read.rch.length), (0, s.rchUnits)]
  else if off = 0x120 then [(0, s.rchPfx)]
  else []

/-- Extents of a replay that are due and not yet issued (R160). -/
def State.dueExtents (s : State) (x : Replay) : Nat :=
  countIf (fun e => decide (x.trigBeat + 64 * (s.extentAt x.profile e).delay - s.get F.PFX_CFG_LEAD ≤ s.beat)) x.left

/-- PFX page 0. -/
def State.viewPfx (s : State) (p off : Nat) : View :=
  if p = 0 ∧ off = 0x110 then [(32, s.read.replays.length), (0, (s.read.replays.map (fun x => s.dueExtents x)).sum)] else []

/-! ### The write path -/

/-- Blocks of a range record's own ranges that it still covers. -/
def JRec.rangeBlocks (r : JRec) : Nat :=
  if r.typ = 1 then 0 else (r.ranges.map (fun q => countIf (fun i => r.covers r.vol (q.1 + i)) (List.range q.2))).sum

/-- Blocks whose overlay entry names a record, entered or lost; `lost` counts those held under R214, in ranges too. -/
def State.overlayBlocks (s : State) (lost : Bool) : Nat :=
  let named := s.write.recs.filter (fun q => decide (0 < q.2.entryNo) && (q.2.state == 4 || (!lost && q.2.state == 2)))
  (((named.filter (fun q => q.2.typ == 1)).map (fun q => (q.2.vol, q.2.lba))).eraseDups).length
    + (if lost then (named.map (fun q => q.2.rangeBlocks)).sum else 0)

/-- Records that await a mirror acknowledgement: of commands and of update records, in PAIRED. -/
def State.mirrorsOut (s : State) : Nat :=
  if s.mode = .paired then
    (s.adm.reqs.map (fun q => countIf (fun k => !q.2.mirrorAcks.contains k) (if q.2.changes && !q.2.resolved then q.2.recs else []))).sum
      + countIf (fun q => q.2.own && !q.2.acked && !q.2.entered) s.write.upd
  else 0

/-- JNL. -/
def State.viewJnl (s : State) (p off : Nat) : View :=
  let own := s.write.recs.filter (fun q => q.2.own)
  if p = 0 ∧ off = 0x110 then [(32, countIf (fun q => !q.2.own) s.write.recs), (0, s.ownUnits)]
  else if p = 0 ∧ off = 0x120 then [(0, ((minBy (fun q => q.2.seq) own).map (fun q => q.2.seq)).getD 0)]
  else if p = 0 ∧ off = 0x130 then [(32, min 65535 (s.get (F.PRL_CREDIT_AVAIL 1))), (0, s.mirrorsOut)]
  else if p = 0 ∧ off = 0x138 then [(0, s.write.ranges.length)]
  else if p = 0 ∧ off = 0x140 then [(32, s.overlayBlocks true), (0, s.overlayBlocks false)]
  else []

/-- WRP. -/
def State.viewWrp (s : State) (p off : Nat) : View :=
  if p = 0 ∧ off = 0x108 then
    [(32, countIf (fun q => q.2.changes && !q.2.resolved && decide (0 < q.2.part)) s.adm.reqs),
     (0, countIf (fun q => q.2.own && q.2.typ == 1 && decide (0 < q.2.entryNo)) s.write.recs)]
  else if p = 0 ∧ off = 0x110 then [(0, s.spaceFree)]
  else if p = 0 ∧ off = 0x128 then [(0, s.write.notices.length)]
  else []

/-- CHK. -/
def State.viewChk (s : State) (off : Nat) : View :=
  if off = 0x110 then [(32, s.write.streams.length), (0, s.openPages)] else if off = 0x118 then [(0, s.chkBacklog)] else []

/-- Buckets of the swatch index with eight records (R197); records are kept by bucket and place. -/
def State.fullBuckets (s : State) : Nat :=
  let bs := s.write.swatches.map (fun q => q.1 / 8)
  countIf (fun b => decide (8 ≤ bs.count b)) bs.eraseDups

/-- SWX. -/
def State.viewSwx (s : State) (p off : Nat) : View :=
  if p = 0 ∧ off = 0x118 then [(32, s.fullBuckets), (0, s.write.swatches.length)]
  else if p = 0 ∧ off = 0x130 then
    [(32, countIf (fun q => q.2.dirty) s.write.recipes), (0, countIf (fun q => q.2.resident) s.write.recipes)]
  else []

/-! ### Vats, volumes and snapshots -/

/-- `VAT_QUERY_VAT`. -/
def State.viewVatEnt (s : State) : View :=
  let n := s.get F.VAT_QUERY_VAT
  match AL.get n s.vat.vats with
  | none => []
  | some v => [(62, v.state), (61, b2n v.isSealed), (60, b2n v.published), (59, b2n v.cdAllow), (57, v.comp), (56, b2n v.oldLive),
      (48, v.keyGen), (40, v.oldGen * b2n v.oldLive), (0, countIf (fun q => q.2.vat == n) s.vat.vols)]

/-- VAT. -/
def State.viewVat (s : State) (p off : Nat) : View :=
  if p = 0 ∧ off = 0x130 then [(32, s.vat.vats.length), (0, s.vat.vols.length)]
  else if p = 1 ∧ off = 0x118 then s.viewVatEnt
  else if p = 1 ∧ off = 0x120 then
    match AL.get (s.get F.VAT_QUERY_VOLUME) s.vat.vols with
    | none => []
    | some v => [(62, v.state), (50, v.vat), (42, v.profile), (0, v.sizeM1)]
  else []

/-- Map pages still to release under R233 and R245. -/
def State.reclaimPages (s : State) : Nat :=
  let spaces := (s.vat.vols.filter (fun q => q.2.state == 2)).map (·.1) ++ (s.vat.snaps.filter (fun q => q.2.state == 2)).map (fun q => snapSpace q.1)
  (spaces.map (fun k => (s.spacePages k).length)).sum

/-- SNP. -/
def State.viewSnp (s : State) (p off : Nat) : View :=
  let e := AL.get (s.get F.SNP_QUERY_SNAP) s.vat.snaps
  if p ≠ 0 then []
  else if off = 0x120 then [(32, countIf (fun q => q.2.state == 2) s.vat.snaps), (0, s.vat.snaps.length)]
  else if off = 0x128 then [(0, s.reclaimPages)]
  else if off = 0x130 then [(62, (e.map (·.state)).getD 0)]
  else if off = 0x138 then (match e with
    | none => []
    | some x => [(48, x.vol), (0, x.beat)])
  else []

/-! ### Flash translation and media -/

/-- Dirty pages of this home: map, chunk table and band summary. -/
def State.dirtyHome (s : State) : Nat :=
  countIf (fun q => q.2.dirty && s.homeOf (mapHome q.1)) s.read.mapPages + countIf (fun q => q.2.dirty && s.homeOf (ctbHome q.1)) s.read.ctbPages
    + s.ftl.sums.length

/-- FTL. A checkpoint is one step of this model, so `CKPT_ACTIVE` reads 0 between steps. -/
def State.viewFtl (s : State) (p off : Nat) : View :=
  if p = 0 ∧ off = 0x120 then [(32, s.logOwn), (0, s.dirtyHome)]
  else if p = 0 ∧ off = 0x130 then [(32, countIf (fun q => q.2.pin) s.ftl.leaves), (0, countIf (fun q => q.2.resident) s.ftl.leaves)]
  else if p = 1 ∧ off = 0x118 then [(40, s.worstBrick.getD 0), (16, s.lifeSpare), (8, s.lifeWear), (0, s.life)]
  else if p = 1 ∧ off = 0x128 then
    let k := s.get F.FTL_LIFE_SEL_BRICK
    [(48, s.spareTotal k), (32, s.spareUsed k), (16, s.sparePct k), (8, s.wearPct k), (0, s.brickLife k)]
  else []

/-- Bands in a state. -/
def State.bandsIn (s : State) (st : Nat) : Nat := countIf (fun q => q.2.state == st) s.ftl.bands

/-- `BND_QUERY_ENT`. -/
def State.viewBand (s : State) : View :=
  match s.band (s.get F.BND_QUERY_BAND) with
  | none => []
  | some b => [(60, b.state), (59, b2n b.dense), (58, b2n b.isMeta), (57, b.shard), (51, b.d), (49, b.p), (36, b.rows), (0, b.live)]

/-- `BND_BRICK_STAT`. -/
def State.viewBndBrick (s : State) : View :=
  let k := s.get F.BND_BRICK_SEL_BRICK
  let ds := s.diesOf k
  [(63, b2n (s.exhausted k)), (62, b2n (s.brickPresent k)), (32, (ds.map (fun q => q.2.slcFree.length + q.2.denseFree.length)).sum),
    (16, (ds.map (fun q => q.2.spares)).sum), (0, (ds.map (fun q => q.2.retired)).sum)]

/-- BND. -/
def State.viewBnd (s : State) (p off : Nat) : View :=
  if p = 0 ∧ off = 0x108 then [(48, s.bandsIn 1), (32, s.bandsIn 4), (16, s.bandsIn 6), (0, s.bandsIn 5)]
  else if p = 0 ∧ off = 0x110 then [(56, s.densePct 0), (0, s.shardSpace 0)]
  else if p = 0 ∧ off = 0x118 then [(56, s.densePct 1), (0, s.shardSpace 1)]
  else if p = 0 ∧ off = 0x120 then
    [(56, s.slcPct 0), (48, s.slcPct 1), (0, ((s.ftl.bands.filter (fun q => !q.2.dense && s.bandLive q.1)).map (fun q => q.2.live)).sum)]
  else if p = 0 ∧ off = 0x128 then [(48, s.relocActive), (32, s.ftl.relocQ.length), (0, s.ftl.movers.length)]
  else if p = 1 ∧ off = 0x108 then s.viewBand
  else if p = 1 ∧ off = 0x110 then
    [(0, (((s.band (s.get F.BND_QUERY_BAND)).bind (fun b => b.members[s.get F.BND_QUERY_MEMBER]?)).map Member.word).getD 0)]
  else if p = 1 ∧ off = 0x120 then s.viewBndBrick
  else if p = 2 ∧ off = 0x108 then
    [(32, s.bandsIn 6), (0, countIf (fun q => q.2.state == 6 && s.eraseWaits q.1 q.2) s.ftl.bands)]
  else []

/-- MDL: requests of a lane that await a reply. -/
def State.viewMdl (s : State) (i p off : Nat) : View :=
  if 0x1C0 ≤ off ∧ off < 0x1E0 then [(48, (s.link (64 * i + 4 * p + (off - 0x1C0) / 8)).ops.length)] else []

/-- DFM: bricks that use a slot. -/
def State.viewDfm (s : State) (p off : Nat) : View := if off = 0x110 then [(48, s.slotBricks p)] else []

/-! ### Slices: the lanes that run a segment at this moment, and how far a context's job is, are free values (log entry 90) -/

/-- `USER` of a context by its request. -/
def Req.ctxUser (r : Req) : Nat :=
  match r.kind with
  | .write | .zeroes | .dealloc => 2
  | .digest => 4
  | .hmac => 5
  | .redye => 3
  | .fetch | .repChunks => 6
  | _ => 1

/-- The request that holds a context of a pool on a slice: contexts in order of admission (log entry 90). -/
def State.ctxHolder (s : State) (pool i n : Nat) : Option Req :=
  ((sortBy (fun (r : Req) => r.seq) (s.adm.reqs.map (·.2))).flatMap (fun r => List.replicate (r.ctxOn pool i) r))[n]?

/-- `DSL_CTX_VIEW`. -/
def State.viewCtx (s : State) (i : Nat) : View :=
  let n := s.get (F.DSL_CTX_SEL_INDEX i)
  let dig := s.get (F.DSL_CTX_SEL_KIND i) = 1
  if dig ∧ 63 < n then []
  else match s.ctxHolder (if dig then 2 else 1) i n with
    | none => []
    | some r => [(62, 1 + s.shown 0 1), (58, r.ctxUser), (32, s.shown 1 16), (0, if r.kind = .digest then s.descWord r.lba 0 % 2 ^ 32 else r.tag % 2 ^ 32)]

/-- DSL. -/
def State.viewDsl (s : State) (i p off : Nat) : View :=
  let x := s.slice i
  let ld (k : Nat) : Nat := x.load.getD k 0
  if p = 0 ∧ off = 0x108 then [(32, s.ctxUsed 1 i), (0, s.shown 0 8)]
  else if p = 0 ∧ off = 0x110 then
    [(32, countIf (fun q => q.2.resident) x.keys), (16, countIf (fun q => q.2.resident && s.keyPinned q.2) x.keys), (0, s.keyFetches i)]
  else if p = 1 ∧ off = 0x110 then
    [(32, s.ctxUsed 2 i), (16, countIf (fun q => q.2.kind == .digest && q.2.stage == .slice && q.2.slice == i) s.adm.reqs), (0, x.doneQ.length)]
  else if p = 2 ∧ off = 0x108 then [(32, busyBits (x.infl.map (·.1))), (24, busyBits (x.defl.map (·.1))), (16, ld 7), (8, ld 6)]
  else if p = 3 ∧ off = 0x100 then
    [(0, countIf (fun q => q.2.rebuilds && !q.2.queued && !q.2.done && !q.2.failed && q.2.left == 0
      && ((s.req q.2.tag).map (fun r => r.slice == i)).getD false) s.read.fetches)]
  else if p = 4 ∧ off = 0x100 then [(0, s.stagedUnits i)]
  else if p = 4 ∧ off = 0x108 then [(47, ld 0), (41, ld 1), (35, ld 2), (30, ld 3), (25, ld 4), (0, min 192 (ld 5))]
  else if p = 4 ∧ off = 0x118 then s.viewCtx i
  else []

/-! ### Hosts -/

/-- `NVT_CTRL_VIEW`. -/
def State.viewCtrl (s : State) (u : Nat) : View :=
  let k := 1024 * u + s.get (F.NVT_CTRL_SEL_CTRL u)
  match AL.get k s.host.ctrls with
  | none => []
  | some y => [(62, y.st), (54, (s.ioQueues k).length), (46, y.granted), (40, y.aers.length), (0, k + 1)]

/-- `NVT_CONN_VIEW`. -/
def State.viewConn (s : State) (u : Nat) : View :=
  match s.conn (32768 * u + s.get (F.NVT_CONN_SEL_CONN u)) with
  | none => []
  | some x => [(60, x.tcp), (56, x.nvt), (55, b2n x.hdgst), (54, b2n x.ddgst), (53, b2n x.ecn), (32, x.qid), (16, x.cntlid), (0, x.sqsize)]

/-- Commands of a connection not yet completed. -/
def State.connOutstanding (s : State) (c : Nat) : Nat :=
  countIf (fun q => match q.2.origin with | .nvt d _ => d == c | _ => false) s.adm.reqs

/-- NVT. -/
def State.viewNvt (s : State) (u p off : Nat) : View :=
  let conns := s.host.conns.filter (fun q => connUnit q.1 == u)
  if p = 0 ∧ off = 0x118 then
    [(48, countIf (fun q => q.1 / 1024 == u && q.2.st == 2) s.host.ctrls), (32, countIf (fun q => q.2.nvt == 4) conns), (0, conns.length)]
  else if p = 1 ∧ off = 0x120 then s.viewCtrl u
  else if p = 2 ∧ off = 0x108 then s.viewConn u
  else if p = 2 ∧ off = 0x110 then
    let c := 32768 * u + s.get (F.NVT_CONN_SEL_CONN u)
    (match s.conn c with
     | none => []
     | some x => [(48, min 65535 x.stall), (32, s.connOutstanding c), (0, x.srtt)])
  else []

/-- `LDT_CONN_VIEW` and `LDT_CONN_PATH`. -/
def State.viewLconn (s : State) (u : Nat) (paths : Bool) : View :=
  let n := 2 ^ 19 * u + s.get (F.LDT_CONN_SEL_CONN u)
  match s.lconn n with
  | none => []
  | some x =>
    if x.state = 0 then []
    else if paths then
      [(40, (List.range x.paths).foldl (fun a k => if (x.path k).offUntil.isNone then a + 2 ^ k else a) 0),
       (0, (List.range x.paths).foldl (fun a k => a + (x.path k).idx % 32 * 2 ^ (5 * k)) 0)]
    else [(60, x.state), (52, x.kgen), (48, x.paths), (47, b2n x.resident), (46, b2n (!x.unpinned || s.ldtOutstanding n != 0)), (32, s.ldtOutstanding n),
      (16, min 65535 x.stall), (0, x.qdepth)]

/-- LDT. -/
def State.viewLdt (s : State) (u p off : Nat) : View :=
  let conns := s.ldt.conns.filter (fun q => ldtUnit q.1 == u)
  if p = 0 ∧ off = 0x128 then
    [(63, b2n (s.ldtServing u)), (32, countIf (fun q => q.2.state != 0) conns), (0, countIf (fun q => q.1 / 64 == u) s.ldt.slots)]
  else if p = 0 ∧ off = 0x130 then [(32, countIf (fun q => q.2.resident) conns), (16, s.missCount u)]
  else if p = 1 ∧ off = 0x120 then s.viewLconn u false
  else if p = 1 ∧ off = 0x128 then s.viewLconn u true
  else []

/-- LBC: commands not completed, and ABORT commands among them. -/
def State.viewLbc (s : State) (p off : Nat) : View :=
  let l := s.adm.reqs.filter (fun q => match q.2.origin with | .ldt _ _ => true | _ => false)
  if p = 0 ∧ off = 0x108 then [(32, countIf (fun q => q.2.isAbort) l), (0, l.length)] else []

/-! ### The pair, the fabric and replication -/

/-- PRL: the lane that `PRL_LANE_SEL` names, this head's horizon, pins, and SET_OWNER answers awaited. -/
def State.viewPrl (s : State) (p off : Nat) : View :=
  if p = 0 ∧ off = 0x130 then
    let l := s.get F.PRL_LANE_SEL_LANE
    let fixed := s.get F.PRL_CFG_TX_PRESET
    [(61, s.get (F.PRL_BUNDLE_STAT_STATE (l / 16))), (32, s.shown 0 16), (8, (s.bundle (l / 16)).skews.getD (l % 16) 0),
      (0, if fixed = 0 then s.shown 1 4 else fixed)]
  else if p = 2 ∧ off = 0x110 then [(0, if s.pair.hand = .handbackDraining then s.peerRing.length else 0)]
  else if p = 2 ∧ off = 0x118 then [(0, s.horizon)]
  else if p = 2 ∧ off = 0x128 then [(32, s.pair.peerPins.length), (0, s.pair.ownPins.length)]
  else if p = 3 ∧ off = 0x100 then [(40, s.pair.ownersLeft.length)]
  else []

/-- `LSE_REMAIN`: beats to the fence point and to expiry of a lease held, in K1 cycles of 40 ns (R515). -/
def State.viewRemain (s : State) (sh : Nat) : View :=
  if s.leaseHeld sh then
    let l := s.lease sh
    [(32, (200 * l.fenceAt - s.leaseRun sh) / 200), (0, (200 * l.len - s.leaseRun sh) / 200)]
  else []

/-- A valid answer came within the last 4,096 beats. -/
def State.witFresh (s : State) (b : Option Nat) : Nat := b2n ((b.map (fun x => decide (s.beat - x ≤ 4096))).getD false)

/-- LSE. -/
def State.viewLse (s : State) (p off : Nat) : View :=
  if p = 0 ∧ 0x120 ≤ off ∧ off < 0x130 then [(60, b2n (s.side == (off - 0x120) / 8))]
  else if p = 0 ∧ 0x130 ≤ off ∧ off < 0x140 then s.viewRemain ((off - 0x130) / 8)
  else if p = 1 ∧ off = 0x108 then [(63, s.witFresh s.pair.serialOkBeat), (62, s.witFresh s.pair.udpOkBeat)]
  else []

/-- FAB. -/
def State.viewFab (s : State) (p off : Nat) : View :=
  if p = 1 ∧ off = 0x108 then
    let h := s.get F.FAB_MEMBER_SEL_HID
    (match AL.get h s.fab.members with
     | none => [(59, b2n (s.routeOf h).isSome)]
     | some x => [(61, x.st), (60, b2n x.home), (59, b2n (s.routeOf h).isSome), (0, x.beat % 2 ^ 32)])
  else if p = 3 ∧ off = 0x108 then [(48, s.fab.conns.length), (0, s.fab.fetches.length)]
  else []

/-- REP: the link that `REP_LINK_SEL` names. -/
def State.viewRep (s : State) (p off : Nat) : View :=
  if p = 0 ∧ off = 0x120 then
    (match s.repLink (s.get F.REP_LINK_SEL_LINK) with
     | none => []
     | some l => [(60, l.st), (40, (if l.target then l.applied else l.base).getD 0), (0, l.cursor)])
  else []

/-! ### Security, mailboxes and power -/

/-- SEC. -/
def State.viewSec (s : State) (p off : Nat) : View :=
  let f := s.sec.fuses
  if p = 0 ∧ off = 0x110 then [(63, b2n f.rootI.isSome), (62, b2n f.debugDisable), (61, b2n f.debugRoot), (60, b2n f.corrected)]
  else if p = 0 ∧ off = 0x118 then [(32, f.svnD), (0, f.svnI)]
  else if p = 0 ∧ off = 0x120 then [(0, Config.chip.toNat)]
  else if p = 2 ∧ off = 0x108 then [(63, b2n !s.mbx.keyQ.isEmpty), (40, s.mbx.keyQ.length - 1)]
  else []

/-- Handles of a kind that hold a key. -/
def State.keysOf (s : State) (kind : Nat) : Nat := countIf (fun q => hKind q.1 == kind && !q.2.removing) s.sec.handles

/-- KEY. -/
def State.viewKey (s : State) (p off : Nat) : View :=
  if p = 0 ∧ off = 0x108 then [(32, s.keysOf 4), (18, s.keysOf 1), (0, s.keysOf 5)]
  else if p = 1 ∧ off = 0x108 then
    (match AL.get (hSlot (s.get F.KEY_SLOT_SEL_SLOT)) s.sec.handles with
     | none => []
     | some k => [(63, 1), (58, k.use), (57, b2n k.long), (0, min (2 ^ 32 - 1) k.uses)])
  else if p = 1 ∧ off = 0x110 then
    let held (own : Bool) (gen : Nat) : Nat := b2n (s.keyHeld (hJnl (if own then s.get F.FAB_ID_HID else s.get F.PRL_STAT_PEER_HID) gen))
    let g := s.get F.JNL_KEY_STAT_JGEN
    let h := s.get F.JNL_KEY_STAT_PEER_JGEN
    [(0, 8 * held true g + 4 * held true ((g + 65535) % 65536) + 2 * held false h + held false ((h + 65535) % 65536))]
  else if p = 1 ∧ off = 0x118 then
    [(32, countIf (fun q => q.2.removing) s.sec.handles), (0, ((List.range 16).map (fun i => s.keyFetches i)).sum)]
  else []

/-- MSR: the register and word that `MSR_SEL` names. -/
def State.viewMsr (s : State) (off : Nat) : View :=
  let k := s.get F.MSR_SEL_REG
  let x := s.msr k
  if 23 < k then []
  else if off = 0x108 then
    let l := beBytes (digestLen (msrAlg k)) x.value
    [(0, ofBytes (padTo 8 (l.drop (8 * s.get F.MSR_SEL_WORD))))]
  else if off = 0x110 then [(62, msrAlg k), (61, b2n x.locked), (0, x.extends_)]
  else []

/-- MBX: epochs of a channel's masters (zeros throughout without a binding, R600), the full channels of a page, the locks held. -/
def State.viewMbx (s : State) (p off : Nat) : View :=
  if 0x300 ≤ off ∧ off < 0x400 then
    let c := 32 * p + (off - 0x300) / 8
    if s.mbxBound c then [(40, s.mbxEpoch (s.get (F.MBX_BIND_SENDER c))), (32, s.mbxEpoch (s.get (F.MBX_BIND_RECEIVER c)))]
    else [(63, 0), (62, 0), (61, 0), (60, 0), (48, 0), (40, 0), (32, 0), (24, 0), (0, 0)]
  else if off = 0x500 then [(0, (List.range 32).foldl (fun a n => if s.mbxFull (32 * p + n) then a + 2 ^ n else a) 0)]
  else if p = 1 ∧ off = 0x598 then [(16, (List.range 16).foldl (fun a k => if s.get (F.MBX_LOCK_OWNER k) = 0 then a else a + 2 ^ k) 0)]
  else []

/-- PWR. -/
def State.viewPwr (s : State) (p off : Nat) : View :=
  if p = 1 ∧ off = 0x108 then [(0, s.domBeats (s.get F.PWR_DOM_SEL_DOMAIN) (s.get F.PWR_DOM_SEL_STATE))] else []

/-- CLK: the clock K(11 + q) of a slice quad runs while its domain D(10 + q) is ON (R3, Table 17.1); K21, of the secure cores, always runs, for D1 is always ON (Table 17.3). A measured rate is the board's (a free
value), and so is whether another clock beyond K0 to K2 runs, since the spec does not say which power domain it belongs to (log entry
90). -/
def State.viewClk (s : State) (p off : Nat) : View :=
  if p = 0 ∧ off = 0x130 then [(0, s.shown 0 32)]
  else if p = 0 ∧ 0x300 ≤ off ∧ off < 0x3C8 then
    let k := (off - 0x300) / 8
    [(63, if k < 3 ∨ k = 21 then 1 else if 11 ≤ k ∧ k ≤ 14 then b2n (s.dom (k - 1) == 3) else s.shown 0 1), (32, s.get (F.CLK_DOM_CFG_MHZ k))]
  else []

/-- AON: `WAKE_N` low now. -/
def State.viewAon (s : State) (p off : Nat) : View :=
  if p = 0 ∧ off = 0x100 then [(62, s.get F.PWR_WAKE_STAT_ASSERTED % 2)] else []

/-! ### Errors, events, health -/

/-- The slot holds an unacknowledged entry that `ERQ_SUM` shows (R669). -/
def State.errShown (s : State) (slot min : Nat) : Bool := (s.hdr slot).errq.any (fun e => decide (min ≤ e.severity))

/-- ERQ. -/
def State.viewErq (s : State) (off : Nat) : View :=
  let h := s.health.headFirst
  let w := s.get F.ERQ_STAT_WORST
  if 0x110 ≤ off ∧ off < 0x140 then
    let k := (off - 0x110) / 8
    [(0, (List.range 64).foldl (fun a j => if s.errShown (64 * k + j) (s.get F.ERQ_CFG_SUM_MIN) then a + 2 ^ j else a) 0)]
  else if off = 0x140 then [(63, b2n h.valid), (60, h.severity), (59, b2n h.escalated), (48, h.slot), (32, h.cond), (0, h.beat)]
  else if off = 0x148 then [(0, h.info)]
  else if off = 0x150 then [(0, if w = 0 then 0 else ((s.entries.filter (fun q => q.2.severity == w)).map (·.1)).foldl min 1023)]
  else []


/-- A word of the live record of `EVR_LIVE_SEL`. -/
def State.liveWord (s : State) (k : Nat) : Nat := ((AL.getD (s.get F.EVR_LIVE_SEL_METRIC) {} s.health.cur).words 0 0 false).getD k 0

/-- EVR. A record is written in one step of this model, so `WRITING` reads 0 between steps. -/
def State.viewEvr (s : State) (p off : Nat) : View :=
  if p = 0 ∧ off = 0x108 then [(0, s.get F.AON_EVR_EPOCH_EPOCH)]
  else if p = 1 ∧ off = 0x908 then [(0, s.liveWord 16)]
  else if p = 1 ∧ off = 0x910 then [(0, s.liveWord 17)]
  else if p = 1 ∧ off = 0x918 then [(0, s.liveWord 18)]
  else if p = 1 ∧ off = 0x920 then [(0, s.liveWord 20)]
  else if p = 2 ∧ off = 0x128 then [(0, s.health.clearLog.length)]
  else if p = 2 ∧ 0x140 ≤ off ∧ off < 0x180 then
    [(0, ((s.health.clearLog[s.get F.EVR_CLR_LOG_SEL_ENTRY]?).bind (fun e => e.words[(off - 0x140) / 8]?)).getD 0)]
  else if p = 3 ∧ off = 0x148 then
    [(32, s.health.perm.length), (0, ((minBy id (s.health.circ.map (fun q => q.2.1))).getD 0))]
  else if p = 3 ∧ off = 0x150 then [(0, (s.health.clearLog.map (·.seq)).foldl max 0)]
  else []

/-- AGE. -/
def State.viewAge (s : State) (off : Nat) : View := if off = 0x118 then [(0, s.ageHours)] else []

/-- HBM: temperatures of a stack and of the die sensors it shows (Table 19.12). -/
def State.viewHbm (s : State) (n off : Nat) : View :=
  let die (k : Nat) : Int := AL.getD k 0 s.health.dieTemp
  if off = 0x110 then
    [(56, degree (AL.getD n 0 s.health.hbmTemp)), (8, (List.range 5).foldl (fun a k => a + degree (die (5 * n + k)) * 2 ^ (8 * k)) 0),
     (0, degree ((List.range 20).foldl (fun m k => max m (die k)) (die 0)))]
  else []

/-! ### All of them -/

/-- The view of a register of a block's page: what the state shows in place of the fields it does not keep. -/
def State.view (s : State) (m code i p off : Nat) : View :=
  if code = Blk.BEAT then s.viewBeat off
  else if code = Blk.IRT then s.viewIrt m p off
  else if code = Blk.RDP then s.viewRdp p off
  else if code = Blk.MAP then s.viewMeta false p off
  else if code = Blk.CTB then s.viewMeta true p off
  else if code = Blk.RCH then s.viewRch p off
  else if code = Blk.PFX then s.viewPfx p off
  else if code = Blk.JNL then s.viewJnl p off
  else if code = Blk.WRP then s.viewWrp p off
  else if code = Blk.CHK then s.viewChk off
  else if code = Blk.SWX then s.viewSwx p off
  else if code = Blk.VAT then s.viewVat p off
  else if code = Blk.SNP then s.viewSnp p off
  else if code = Blk.FTL then s.viewFtl p off
  else if code = Blk.BND then s.viewBnd p off
  else if code = Blk.MDL then s.viewMdl i p off
  else if code = Blk.DFM then s.viewDfm p off
  else if code = Blk.DSL then s.viewDsl i p off
  else if code = Blk.NVT then s.viewNvt i p off
  else if code = Blk.LDT then s.viewLdt i p off
  else if code = Blk.LBC then s.viewLbc p off
  else if code = Blk.PRL then s.viewPrl p off
  else if code = Blk.LSE then s.viewLse p off
  else if code = Blk.FAB then s.viewFab p off
  else if code = Blk.REP then s.viewRep p off
  else if code = Blk.SEC then s.viewSec p off
  else if code = Blk.KEY then s.viewKey p off
  else if code = Blk.MSR then s.viewMsr off
  else if code = Blk.MBX then s.viewMbx p off
  else if code = Blk.PWR then s.viewPwr p off
  else if code = Blk.CLK then s.viewClk p off
  else if code = Blk.AON then s.viewAon p off
  else if code = Blk.ERQ then s.viewErq off
  else if code = Blk.EVR then s.viewEvr p off
  else if code = Blk.AGE then s.viewAge off
  else if code = Blk.HBM then s.viewHbm i off
  else []

end Sys2Proof.Machine
end

