-- ==== Sys2Proof/Machine/Bus.lean ====
section
/-! DEFINITION. The bus: control-window accesses by address (R61 to R67, R716), writes by field class (R9 to R13, R718), reads, page
resets (R76), the accesses of JTAG (R708) and of the service link (R637). -/

namespace Sys2Proof.Machine

/-! ### Registers by page and offset -/

/-- The register at an offset of a slot; none where it holds none (R65). -/
def regRow (slot off : Nat) : Option RegRow :=
  match pageOf slot with
  | none => none
  | some (c, _, p) =>
    regTable.find? (fun r => r.code == c && decide (r.pLo ≤ p) && decide (p ≤ r.pHi) && decide (r.off ≤ off) && decide (off < r.off + 8 * r.cnt))

/-- A field of a register at a place. -/
def FDef.fld (d : FDef) (slot off : Nat) : Fld := ⟨slot, off, d.lo, d.w, d.reset⟩

/-! ### Writes by field class -/

/-- A field that this register does not let anyone write: `CLK_DOM_CFG.MHZ` of the clocks with a fixed rate (Table 17.14). -/
def fieldFixed (slot off : Nat) (d : FDef) : Bool :=
  slot == Slot.CLK && decide (0x200 ≤ off) && d.lo == 32 &&
    !([4, 5, 6, 7, 11, 12, 13, 14].contains ((off - 0x200) / 8))

/-- One field takes a written value, by its access and class (Tables 0.7 and 0.8). -/
def State.fieldWrite (s : State) (slot off v : Nat) (d : FDef) : State :=
  let f := d.fld slot off
  let x := bitsOf v d.lo d.w
  match d.acc, d.cls with
  | .rw, .latched => { s with shadows := AL.put f.key x s.shadows }.modHdr slot (fun h => { h with shadowDirty := true })
  | .rw, _ => s.set f x
  | .w1c, _ => s.set f (s.get f - (s.get f &&& x))
  | .w1s, _ => s.set f (s.get f ||| x)
  | _, _ => s

/-- An S field that an enabled block refuses (R718). -/
def State.staticBad (s : State) (slot off v : Nat) (d : FDef) : Bool :=
  d.acc == .rw && d.cls == .stat && (s.unit (unitOfSlot slot)).enable && s.get (d.fld slot off) != bitsOf v d.lo d.w

/-- Count and raise a refused static write, once for the register (R718). -/
def State.staticRefuse (s : State) (slot : Nat) : State :=
  (s.modHdr slot (fun h => { h with staticRefused := satAdd 16 h.staticRefused 1 })).raise slot Cond.STATIC_WRITE_REFUSED

/-- A write of a register without behaviour of its own. -/
def State.regPlain (s : State) (slot off v : Nat) : State :=
  match regRow slot off with
  | none => s
  | some r =>
    let fds := r.fds.filter (fun d => !fieldFixed slot off d)
    let t := (fds.filter (fun d => !s.staticBad slot off v d)).foldl (fun (s : State) d => s.fieldWrite slot off v d) s
    if fds.any (fun d => s.staticBad slot off v d) then t.staticRefuse slot else t

/-! ### Page headers -/

/-- Interrupt sources of a page that are RO: they follow a queue. -/
def roSources (slot : Nat) : Nat :=
  match pageOf slot with
  | none => 0
  | some (c, _, p) =>
    if c = Blk.ADM ∨ (c = Blk.RDP ∧ p = 0) ∨
      (p = 1 ∧ (c = Blk.JNL ∨ c = Blk.BND ∨ c = Blk.DSL ∨ c = Blk.NVT ∨ c = Blk.LDT ∨ c = Blk.LSE)) then 2 else 0

/-- Queues that a unit's registers show stand empty after its registers are reset, and so does what IRT holds for each core. -/
def State.queuesLost (s : State) (c i : Nat) : State :=
  if c = Blk.ADM then { s with adm := { s.adm with lateQ := [] } }
  else if c = Blk.RDP then s.modRead (fun r => { r with slowQ := [] })
  else if c = Blk.JNL then s.modWrite (fun w => { w with defLog := [] })
  else if c = Blk.BND then s.modFtl (fun t => { t with retireQ := [] })
  else if c = Blk.DSL then s.modSlice i (fun x => { x with doneQ := [] })
  else if c = Blk.NVT then s.modHost (fun h => { h with connectQ := h.connectQ.filter (fun w => w / 64 != i) })
  else if c = Blk.LDT then s.modLdt (fun t => { t with acceptQ := t.acceptQ.filter (fun w => w / 64 != i) })
  else if c = Blk.IRT then { s with irt := {} }
  else if c = Blk.ERQ then { s with health := { s.health with headFirst := {} } }
  else if c = Blk.EVR then { s with health := { s.health with cur := [] } }
  else if c = Blk.PWR then s.modPwr (fun p => { p with spent := [], since := (List.range 20).map (fun d => (d, s.beat)) })
  else s.cachesLost c

/-- The registers of a unit return to their reset values, with its shadows and its block source bits (R76). What `PORST_N` or
`SRST_N` alone clears stays (R602); a reset of UPD or SVC is one of its master (Table 15.2). -/
def State.unitReset (s : State) (c i : Nat) : State :=
  let slots := unitSlots c i
  let hid := s.get F.FAB_ID_HID
  let mine (k : Nat) : Bool := slots.contains (keySlot k) && decide (0x100 ≤ keyOff k) && k != F.MBX_BIND_LOCK_LOCKED.key
  let s := { s with
    fields := s.fields.filter (fun p => !mine p.1)
    shadows := s.shadows.filter (fun p => !mine p.1) }
  let s := slots.foldl (fun (s : State) p => s.modHdr p (fun h => { h with irqStat := 0 })) s
  let s := ((s.hidMove hid).queuesLost c i).modPwr (fun p => { p with blank := (unitKey c i :: p.blank).eraseDups })
  if c = Blk.UPD then s.masterReset 59 else if c = Blk.SVC then s.masterReset 60 else s

/-- A write of `PAGE_CTL` with `RESET` 1 (R76). DESIGN CHOICE: the reset comes first, and an enable in the same write is judged by R219 on
the reset values; a refused one leaves the reset as it is (log entry 150). -/
def State.pageReset (s : State) (slot : Nat) (en qu : Bool) : State :=
  match pageOf slot with
  | none => s
  | some (c, i, _) =>
    if (s.unit (unitKey c i)).enable then s.raise slot Cond.RESET_WHILE_ENABLED
    else (s.unitReset c i).pageCtl slot en qu

/-- `PAGE_RESET` (R76). -/
def execPageReset (m slot : Nat) (enable quiesce : Bool) (s : State) : Res :=
  .next (s.busWr m slot 0x10 (fun s => s.pageReset slot enable quiesce))

/-- `INSTANCE_QUIESCED` (R73): `QUIESCED` sets once no admitted work remains in the unit. -/
def execInstanceQuiesced (code unit : Nat) (s : State) : Res :=
  .next (let u := s.unit (unitKey code unit)
    if u.enable && u.quiesce && !s.unitBusy code unit then s.setUnit (unitKey code unit) { u with quiesced := true } else s)

/-- A write of a header register that is performed (Table 2.3). -/
def State.hdrWrite (s : State) (slot off v : Nat) : State :=
  if off = 0x10 then
    (if bitOf v 2 then s.pageReset slot (bitOf v 0) (bitOf v 1) else s.pageCtl slot (bitOf v 0) (bitOf v 1))
  else if off = 0x20 then
    (if bitOf v 1 then s.dropShadows (commitSlots slot (bitOf v 2))
     else if bitOf v 0 then s.commitAsk (commitSlots slot (bitOf v 2)) else s)
  else if off = 0x30 then
    (if bitOf v 0 then (s.modHdr slot (fun h => { h with errq := h.errq.tail })).erqUpdate s.worst else s)
  else if off = 0x38 then
    let x := v % 2 ^ 32
    s.modHdr slot (fun h => { h with irqStat := h.irqStat - (h.irqStat &&& (x - (x &&& roSources slot))) })
  else if off = 0x40 then s.modHdr slot (fun h => { h with irqMask := v % 2 ^ 32 })
  else if off = 0x48 then s.modHdr slot (fun h => { h with irqForce := v % 2 ^ 32 })
  else if off = 0x50 then s.pageLock slot (bitsOf v 1 7) (bitOf v 63)
  else if off = 0x58 then (if bitOf v 63 then s.modHdr slot (fun h => { h with first := { h.first with valid := false } }) else s)
  else if off = 0x68 then (if bitOf v 63 then s.modHdr slot (fun h => { h with last := { h.last with valid := false } }) else s)
  else s

/-- The value of a header register (Tables 2.4 to 2.16). -/
def State.hdrVal (s : State) (slot off : Nat) : Nat :=
  let h := s.hdr slot
  let u := s.unit (unitOfSlot slot)
  if off = 0 then s.pageId slot
  else if off = 0x08 then 0x10000 + Config.step.toNat % 2 ^ 16
  else if off = 0x10 then 2 * b2n (u.enable && u.quiesce) + b2n u.enable
  else if off = 0x18 then h.staticRefused * 2 ^ 48 + h.denied * 2 ^ 32 + h.errqOvf * 2 ^ 16 + 8 * b2n h.commitPending + 4 * b2n h.shadowDirty +
    2 * b2n u.quiesced + b2n u.enable
  else if off = 0x38 then h.irqWord
  else if off = 0x40 then h.irqMask
  else if off = 0x48 then h.irqForce
  else if off = 0x50 then 2 ^ 63 * b2n h.locked + 2 * h.writers + 1
  else if off = 0x58 then h.first.word
  else if off = 0x60 then h.first.info
  else if off = 0x68 then h.last.word
  else if off = 0x70 then h.last.info
  else 0

/-- A read of a header register: `PAGE_ERRQ` has its own meaning, `PAGE_STAT` clears its counters. -/
def State.hdrRead (s : State) (slot off : Nat) : State :=
  let s := s.answer (s.hdrVal slot off)
  if off = 0x18 then s.modHdr slot (fun h => { h with staticRefused := 0, denied := 0, errqOvf := 0 }) else s

/-! ### Writes of registers with behaviour of their own -/

/-- The state a meaning leaves. -/
def Res.left (r : Res) (s : State) : State := match r with
  | .next t => t
  | _ => s

/-- A free Boolean: an outcome that the surroundings decide. -/
def State.coin (s : State) (f : Bool → State → State) : State := let (b, s) := s.free 1; f (b == 1) s

/-- PFX page 0, VAT, SNP, FTL and the read path. -/
def State.ownRead (s : State) (m c p off v : Nat) : Option State :=
  if c = Blk.RDP ∧ p = 0 ∧ off = 0x130 then some (s.rdpResume (bitsOf v 32 4) (bitsOf v 0 32))
  else if c = Blk.MAP ∧ p = 0 ∧ off = 0x130 then some (s.mapInvalWrite (bitsOf v 32 16) (bitOf v 0))
  else if c = Blk.RCH ∧ p = 0 ∧ off = 0x128 then some (s.rchInvalWrite (bitsOf v 32 12) (bitOf v 0))
  else if c = Blk.PFX ∧ p = 0 ∧ off = 0x118 then
    some (s.pfxRecWrite (bitOf v 63) (bitOf v 62) (bitsOf v 48 12) (bitsOf v 32 16) (bitsOf v 0 8))
  else if c = Blk.PFX ∧ p = 0 ∧ off = 0x130 then some (s.pfxLoadWrite (bitsOf v 62 2) (bitsOf v 48 12))
  else if c = Blk.VAT ∧ p = 0 ∧ off = 0x108 then some (s.vatCmdWrite (bitsOf v 60 4) (bitsOf v 0 16))
  else if c = Blk.SNP ∧ p = 0 ∧ off = 0x100 then
    some (s.snpCmdWrite (bitsOf v 60 4) (bitsOf v 48 9) (bitsOf v 32 16) (bitsOf v 0 20))
  else if c = Blk.FTL ∧ p = 0 ∧ off = 0x128 then
    some (s.dirLoad (bitsOf v 62 2) (bitOf v 61) (bitOf v 60) (bitsOf v 40 20) (bitsOf v 0 36))
  else if c = Blk.IRT ∧ p = 0 ∧ off = 0x108 then some ((execIrtDone m (bitsOf v 0 10) s).left s)
  else if c = Blk.IRT ∧ p = 0 ∧ off = 0x110 then some { s with irt := { s.irt with thresh := AL.put m (v % 8) s.irt.thresh } }
  else if c = Blk.IRT ∧ 0 < p ∧ 480 * (p - 1) + (off - 0x100) / 8 < 1024 then some (s.routeWrite m (480 * (p - 1) + (off - 0x100) / 8) (BitVec.ofNat 64 v))
  else none

/-- Media, slices and hosts. -/
def State.ownHost (s : State) (m c i p off v : Nat) : Option State :=
  if c = Blk.MDL ∧ 0x120 ≤ off ∧ off < 0x140 then some (s.linkCtl (64 * i + 4 * p + (off - 0x120) / 8) (v % 8))
  else if c = Blk.BRK ∧ 0x300 ≤ off ∧ off < 0x380 then
    some (s.coin (fun b s => s.brkCmd (16 * p + (off - 0x300) / 8) (bitsOf v 60 4) b))
  else if c = Blk.DFM ∧ off = 0x108 then some (s.dfmCtl p (bitsOf v 62 2))
  else if c = Blk.DSL ∧ p = 1 ∧ off = 0x108 then some (s.digestSubmit m i (bitsOf v 6 42 * 64))
  else if c = Blk.NVT ∧ p = 1 ∧ off = 0x110 then
    some (if bitsOf v 62 2 = 0 then s.raise (nvtSlot i 1) Cond.NVT_CONNECT_MISMATCH (bitsOf v 42 6)
      else s.connectAnswer i (bitsOf v 42 6) (bitsOf v 62 2))
  else if c = Blk.NVT ∧ p = 1 ∧ off = 0x128 then some (s.ctrlCmd i (bitsOf v 60 4) (bitsOf v 0 10))
  else if c = Blk.LDT ∧ p = 1 ∧ off = 0x110 then some (s.acceptAnswer i (bitsOf v 42 6) (bitsOf v 62 2))
  else if c = Blk.LDT ∧ p = 1 ∧ off = 0x130 then some (s.connCmd i (bitsOf v 0 19) (bitsOf v 60 4))
  else none

/-- The pair, the fabric, security, mailboxes. -/
def State.ownPair (s : State) (m c p off v : Nat) : Option State :=
  if c = Blk.PRL ∧ p = 0 ∧ off = 0x108 then
    let s := (execPeerLinkEnable m (bitOf v 0) s).left s
    some (if bitsOf v 1 2 = 0 then s else (execPeerBundleRetrain m (bitsOf v 1 2) s).left s)
  else if c = Blk.LSE ∧ p = 0 ∧ off = 0x110 then some (s.modeReq (bitsOf v 60 4))
  else if c = Blk.LSE ∧ p = 1 ∧ off = 0x118 then some ((execLseWitRxWrite m (bitsOf v 0 8) s).left s)
  else if c = Blk.FAB ∧ p = 1 ∧ off = 0x110 then some (if bitOf v 63 then s.set F.FAB_CONFLICT_VALID 0 else s)
  else if c = Blk.REP ∧ p = 0 ∧ off = 0x128 then
    let k := bitsOf v 0 8
    some (if s.get F.REP_LINK_CMD_STAT_BUSY = 1 then s.raise Slot.REP Cond.REP_CMD_BUSY
      else match bitsOf v 60 4 with
        | 1 => s.linkLoad k
        | 2 => s.linkStop k
        | 3 => s.linkOffer k (bitsOf v 40 20)
        | 4 => s.linkResync k
        | _ => s.linkResult 2 0)
  else if c = Blk.SEC ∧ p = 2 ∧ off = 0x100 then some (s.hardenAll (bitsOf v 1 3) (bitsOf v 0 1))
  else if c = Blk.SEC ∧ p = 3 ∧ off = 0x110 then
    some (s.coin (fun b s => s.fuseProg (bitsOf v 60 4) (ofBytes (s.bytesAt (bitsOf v 6 42 * 64) 48)) b))
  else if c = Blk.KEY ∧ p = 0 ∧ off = 0x110 then
    some (if (s.unit (unitKey Blk.KEY 0)).quiesce then s else (s.set F.KEY_CMD_STAT_BUSY 1).modMbx (fun x => { x with keyQ := x.keyQ ++ [(128, s.get F.KEY_CMD_ARG_ADDR * 256)] }))
  else if c = Blk.UPD ∧ off = 0x100 then
    some (if (s.unit (unitKey Blk.UPD 0)).quiesce then s else (s.set F.UPD_CMD_STAT_BUSY 1).modMbx (fun x => { x with updQ := x.updQ ++ [(128, s.get F.UPD_CMD_ARG_ADDR * 256)] }))
  else if c = Blk.MSR ∧ off = 0x118 then some (s.msrWrite m (bitsOf v 58 5) (bitsOf v 3 45 * 8) (bitOf v 63))
  else if c = Blk.MBX ∧ 0x100 ≤ off ∧ off < 0x200 then some (s.mbxPost m (32 * p + (off - 0x100) / 8) v)
  else if c = Blk.MBX ∧ 0x300 ≤ off ∧ off < 0x400 then some (s.mbxStat m (32 * p + (off - 0x300) / 8) v)
  else if c = Blk.MBX ∧ 0x400 ≤ off ∧ off < 0x500 then
    some ((execMbxBindWrite m (32 * p + (off - 0x400) / 8) (bitOf v 63) (bitsOf v 8 6) (bitsOf v 0 6) s).left s)
  else if c = Blk.MBX ∧ p = 0 ∧ off = 0x510 then some (if bitOf v 63 then s.set F.MBX_BIND_LOCK_LOCKED 1 else s)
  else if c = Blk.MBX ∧ p = 1 ∧ off = 0x590 then some ((execMbxUnlock m (bitsOf v 0 4) s).left s)
  else none

/-- Power, health and test. -/
def State.ownPwr (s : State) (m c i p off v : Nat) : Option State :=
  if c = Blk.PWR ∧ p = 0 ∧ off = 0x118 then
    some (if bitOf v 63 then (execDozeRequest m (bitOf v 0) s).left s else s.set F.PWR_DOZE_CTL_OSC_STOP (v % 2))
  else if c = Blk.PWR ∧ p = 0 ∧ 0x200 ≤ off ∧ off < 0x2A0 then
    some (s.domReq ((off - 0x200) / 8) (bitsOf v 60 4) (bitsOf v 58 2) (bitsOf v 0 16))
  else if c = Blk.AON ∧ p = 1 ∧ off = 0x108 then some (if bitOf v 0 then (execAonSrstReq m s).left s else s)
  else if c = Blk.ERQ ∧ off = 0x140 then
    some (if bitOf v 63 then s.modHealth (fun h => { h with headFirst := { h.headFirst with valid := false } }) else s)
  else if c = Blk.ERQ ∧ off = 0x158 then some ((execErqInject m (bitsOf v 48 10) (bitsOf v 32 16) s).left s)
  else if c = Blk.EVR ∧ p = 0 ∧ off = 0x110 then some (s.cursorTo (bitsOf v 62 2) (bitsOf v 8 32) (bitsOf v 0 8))
  else if c = Blk.EVR ∧ p = 0 ∧ off = 0x118 then some ((execEvrSample m (bitsOf v 56 8) (bitsOf v 0 56) s).left s)
  else if c = Blk.EVR ∧ p = 2 ∧ off = 0x120 then some ((execEvrClrReq m v s).left s)
  else if c = Blk.EVR ∧ p = 3 ∧ off = 0x100 then
    some (if bitsOf v 60 4 = 1 then s.coin (fun b s => (execEvrSecClear m b s).left s) else s)
  else if c = Blk.TST ∧ off = 0x108 then
    let (a, s) := s.free 32
    let (b, s) := s.free 32
    let (d, s) := s.free 32
    let (e, s) := s.free 32
    some (s.testCtl i (bitOf v 0) (bitOf v 1) (bitOf v 2) [a, b, d, e])
  else if c = Blk.TST ∧ off = 0x118 ∧ 8 < bitsOf v 58 4 then some (s.raise (Slot.TST + i) Cond.TST_CFG_INVALID)
  else none

/-- What a write of a register without behaviour of its own entails: the statistics of a new selection count from zero, a new
`FAB_ID` ends a conflict (R541), a rate correction acts at once under PTP (R28). -/
def State.regAfter (s : State) (slot c i p off v : Nat) : State :=
  if c = Blk.NVT ∧ 3 ≤ p ∧ off = 0x100 ∨ c = Blk.LDT ∧ 3 ≤ p ∧ off = 0x100 then
    { s with fields := s.fields.filter (fun q => !(keySlot q.1 == slot && decide (0x108 ≤ keyOff q.1))) }
  else if c = Blk.FAB ∧ p = 0 ∧ off = 0x110 ∧ !(s.unit (unitKey c i)).enable then { s with fab := { s.fab with idWritten := true } }
  else if c = Blk.BEAT ∧ off = 0x130 ∧ s.get F.BEAT_STAT_SOURCE = 2 then
    (s.modTime (fun t => { t with baseRate := clampRate (sgn 32 (v % 2 ^ 32)) })).rateOut
  else s

/-- A write of a block register that is performed. -/
def State.regWrite (s : State) (m slot off v : Nat) : State :=
  match pageOf slot with
  | none => s
  | some (c, i, p) =>
    match s.ownRead m c p off v <|> s.ownHost m c i p off v <|> s.ownPair m c p off v <|> s.ownPwr m c i p off v with
    | some t => t
    | none => ((s.regPlain slot off v).regAfter slot c i p off v).hidMove (s.get F.FAB_ID_HID)

/-! ### Reads -/

/-- The value of a field as a read shows it: a view where the state keeps the value elsewhere, else the field; a write-only field
reads zero. -/
def State.fieldShown (s : State) (vs : View) (slot off : Nat) (d : FDef) : Nat :=
  if d.acc == .wo then 0
  else (((vs.find? (fun q => q.1 == d.lo)).map (·.2)).getD (s.get (d.fld slot off))) % 2 ^ d.w

/-- The value of a block register; after a `RESET` or OFF a unit shows its reset values until it is enabled (R76, R82). A NOC register has no layout in the spec: a free value (log entry 90). -/
def State.regVal (s : State) (m slot off : Nat) : Nat :=
  match pageOf slot with
  | none => 0
  | some (c, i, p) =>
    if c = Blk.NOC then s.shown 0 64
    else match regRow slot off with
      | none => 0
      | some r =>
        let vs := if s.pwr.blank.contains (unitKey c i) then [] else s.view m c i p off
        (r.fds.map (fun d => s.fieldShown vs slot off d * 2 ^ d.lo)).sum

/-- RC fields of a register clear. -/
def State.regClear (s : State) (slot off : Nat) : State :=
  match regRow slot off with
  | none => s
  | some r => (r.fds.filter (fun d => d.acc == .rc)).foldl (fun (s : State) d => s.set (d.fld slot off) 0) s

/-- `BND_RETIRE_Q` (R288): the oldest record is answered and removed. -/
def State.retireRead (s : State) : State :=
  match s.ftl.retireQ with
  | [] => s.answer 0
  | r :: t =>
    let s := (s.answer (2 ^ 63 + r.cause * 2 ^ 60 + r.member)).setAll [(F.BND_RETIRE_INFO_ERASES, r.erases), (F.BND_RETIRE_INFO_BEAT, r.beat)]
    (s.modFtl (fun x => { x with retireQ := t })).irqIs (Slot.BND + 1) 1 (!t.isEmpty)

/-- Reads with behaviour of their own. -/
def ownReadRes (m c i p off : Nat) (s : State) : Option Res :=
  if c = Blk.BEAT ∧ off = 0x100 then some (execBeatTbRead m s)
  else if c = Blk.ADM ∧ off = 0x110 then some (execAdmLateQRead m s)
  else if c = Blk.RDP ∧ p = 0 ∧ off = 0x120 then some (execRdpSlowQRead m s)
  else if c = Blk.JNL ∧ p = 1 ∧ off = 0x100 then some (execJnlDefQRead m s)
  else if c = Blk.BND ∧ p = 1 ∧ off = 0x128 then some (.next s.retireRead)
  else if c = Blk.DSL ∧ p = 1 ∧ off = 0x118 then some (execDigDoneQRead m i s)
  else if c = Blk.NVT ∧ p = 1 ∧ off = 0x100 then some (execNvtConnectQRead m i s)
  else if c = Blk.LDT ∧ p = 1 ∧ off = 0x100 then some (execLdtAcceptQRead m i s)
  else if c = Blk.IRT ∧ p = 0 ∧ off = 0x100 then some (execIrtClaim m s)
  else if c = Blk.MBX ∧ 0x200 ≤ off ∧ off < 0x300 then some (execMbxTake m (32 * p + (off - 0x200) / 8) s)
  else if c = Blk.MBX ∧ p = 1 ∧ 0x510 ≤ off ∧ off < 0x590 then some (execMbxLockRead m ((off - 0x510) / 8) s)
  else if c = Blk.LSE ∧ p = 1 ∧ off = 0x120 then some (execLseWitTxRead m s)
  else if c = Blk.EVR ∧ p = 0 ∧ 0x200 ≤ off ∧ off < 0x400 then some (execEvrWinRead m ((off - 0x200) / 8) s)
  else if c = Blk.EVR ∧ p = 2 ∧ off = 0x100 then some (execEvrClrChalRead m s)
  else none

/-- A read of a block register that is performed; the free values it showed are used up. -/
def State.regRead (s : State) (m slot off : Nat) : State :=
  match (pageOf slot).bind (fun q => ownReadRes m q.1 q.2.1 q.2.2 off s) with
  | some r => r.left s
  | none => { ((s.answer (s.regVal m slot off)).regClear slot off) with freshCount := s.freshCount + 8 }

/-! ### Accesses -/

/-- An address in the control window. -/
def inWindow (a : Nat) : Bool := decide (windowBase ≤ a) && decide (a < windowBase + 1024 * 4096)

/-- A write in the control window, judged first (R716). -/
def State.winWrite (s : State) (m addr size v : Nat) : State :=
  let slot := slotOf addr
  let off := offOf addr
  match s.judge m slot off (size == 8) true with
  | some t => t
  | none => if off < 0x100 then s.hdrWrite slot off v else s.regWrite m slot off v

/-- A read in the control window, judged first (R716); the answer stands in `busData`. -/
def State.winRead (s : State) (m addr size : Nat) : State :=
  let slot := slotOf addr
  let off := offOf addr
  match s.judge m slot off (size == 8) false with
  | some t => t
  | none =>
    if off = 0x28 then (execPageErrqRead m slot s).left s
    else if off < 0x100 then s.hdrRead slot off else s.regRead m slot off

/-- HBM addresses that the protected windows keep from non-secure masters (R588). -/
def State.protHit (s : State) (a : Nat) : Bool :=
  let w (size base : Nat) : Bool := decide (base * 2 ^ 21 ≤ a) && decide (a < (base + size) * 2 ^ 21)
  w (s.get F.SEC_PROT_WIN0_SIZE) (s.get F.SEC_PROT_WIN0_BASE) || w (s.get F.SEC_PROT_WIN1_SIZE) (s.get F.SEC_PROT_WIN1_BASE)

/-- A refused access to a protected window (R588). -/
def State.protRefuse (s : State) (m a : Nat) : State :=
  (((s.setAll [(F.SEC_PROT_STAT_MASTER, m), (F.SEC_PROT_STAT_ADDR, a)]).bump F.SEC_PROT_CNT_VAL).irq (Slot.SEC + 3) 1).raise (Slot.SEC + 3)
    Cond.HBM_PROTECTED

/-- Masters that reach the control window (Table 2.15): SVC reads only. -/
def reaches (m : Nat) (isWrite : Bool) : Bool := (decide (1 ≤ m) && decide (m ≤ 58)) || m == 62 || (m == 60 && !isWrite)

/-- Bytes of a write of up to eight. -/
def State.memWrite (s : State) (a size v : Nat) : State := s.wrLE a (min size 8) v

/-- An access to an address outside Table 2.1 raises its condition (R62). -/
def State.unmapped (s : State) : State := s.raise Slot.NOC Cond.BUS_UNMAPPED

/-- An address outside Table 2.1: neither HBM, nor SRAM, nor the control window. -/
def noRegion (a : Nat) : Bool :=
  decide (0x003000000000 ≤ a) && !(decide (0x020000000000 ≤ a) && decide (a < 0x020000800000)) && !inWindow a

/-- `REGISTER_WRITE` (R716): a write by a master to a physical address. Memory takes the bytes; an address outside Table 2.1 is
unmapped (R62). -/
def execRegisterWrite (m addr size : Nat) (v : Word) (s : State) : Res :=
  .next (
    if inWindow addr then (if reaches m true then s.winWrite m addr size v.toNat else s)
    else if addr < 0x003000000000 then
      (if s.protHit addr && !s.secureMaster m then s.protRefuse m addr else s.memWrite addr size v.toNat)
    else if 0x020000000000 ≤ addr ∧ addr < 0x020000800000 then s.memWrite addr size v.toNat
    else (s.send (.core m) 2 [addr]).unmapped)

/-- `DBG_MEM` (R708): a control-window access of master 62 through the TAP: 48 address bits, then data and `done`. While the head is
held in reset, and at an address outside the window, nothing is done, but for the condition of an address outside Table 2.1 (R62). -/
def execDbgMem (write : Bool) (addr : Nat) (data : Word) (s : State) : Res :=
  .next (
    let a := addr % 2 ^ 48
    if s.inReset then s.tapOut 0x23 [b2n write, a, data.toNat, 0]
    else if !inWindow a then (if noRegion a then s.unmapped else s).tapOut 0x23 [b2n write, a, 0, 1]
    else if write then (s.winWrite 62 a 8 data.toNat).tapOut 0x23 [1, a, data.toNat, 1]
    else
      let s := s.winRead 62 a 8
      s.tapOut 0x23 [0, a, s.busData.toNat, 1])

/-- `KSL_READ` (R637): a `READ` frame names a control-window address; outside a session it is answered only while
`SVC_CFG.READ_OPEN` is 1. -/
def execKslRead (frame : List Nat) (s : State) : Res :=
  .next (s.kslRx frame 7 (fun s seq inSession p => s.kslOnce seq (fun s =>
    if !inSession && s.get F.SVC_CFG_READ_OPEN != 1 then
      (s.kslRaise Cond.KSL_SESSION_ABSENT).kslResp seq [Cond.KSL_SESSION_ABSENT]
    else
      let a := bytesNat p 0 8
      let s := (if inWindow a then s.winRead 60 a 8 else (if noRegion a then s.unmapped else s).answer 0).bump F.SVC_CNT_READ_COUNT
      s.kslReply 8 seq [s.busData.toNat])))

end Sys2Proof.Machine
end

