-- ==== Sys2Proof/Machine/Dispatch.lean ====
section
/-! DEFINITION. Which meaning each command runs: one arm per constructor. -/

namespace Sys2Proof.Machine

/-- A command's effect on everything but the queue. -/
def exec (i : Instr) (s : State) : Host.Outcome State Fault Refusal :=
  match i with
  | .porstNAssert ns => Sys2Proof.Machine.execPorstNAssert ns s
  | .porstNRelease fuse => Sys2Proof.Machine.execPorstNRelease fuse s
  | .srstNAssert ns => Sys2Proof.Machine.execSrstNAssert ns s
  | .srstNRelease fuse => Sys2Proof.Machine.execSrstNRelease fuse s
  | .internalReset fuse => Sys2Proof.Machine.execInternalReset fuse s
  | .beatBoundary k2 k0 => Sys2Proof.Machine.execBeatBoundary k2 k0 s
  | .egressStallReset nvt conn => Sys2Proof.Machine.execEgressStallReset nvt conn s
  | .budgetEscalated tag => Sys2Proof.Machine.execBudgetEscalated tag s
  | .admLateQRead m => Sys2Proof.Machine.execAdmLateQRead m s
  | .beatMarkExchange => Sys2Proof.Machine.execBeatMarkExchange s
  | .peerBeatMarkRx t1 => Sys2Proof.Machine.execPeerBeatMarkRx t1 s
  | .peerBeatReplyRx t1 t2 t3 wallOfs coarse => Sys2Proof.Machine.execPeerBeatReplyRx t1 t2 t3 wallOfs coarse s
  | .stepHoldEnd k2 => Sys2Proof.Machine.execStepHoldEnd k2 s
  | .ptpSyncRx port dom accepted t1 t4 => Sys2Proof.Machine.execPtpSyncRx port dom accepted t1 t4 s
  | .ptpSyncTimeout => Sys2Proof.Machine.execPtpSyncTimeout s
  | .beatTbRead m => Sys2Proof.Machine.execBeatTbRead m s
  | .registerWrite m addr size v => Sys2Proof.Machine.execRegisterWrite m addr size v s
  | .pageEnable m slot quiesce => Sys2Proof.Machine.execPageEnable m slot quiesce s
  | .pageDisable m slot => Sys2Proof.Machine.execPageDisable m slot s
  | .pageQuiesce m slot => Sys2Proof.Machine.execPageQuiesce m slot s
  | .instanceQuiesced code unit => Sys2Proof.Machine.execInstanceQuiesced code unit s
  | .pageReset m slot enable quiesce => Sys2Proof.Machine.execPageReset m slot enable quiesce s
  | .pageCommit m slot allPages => Sys2Proof.Machine.execPageCommit m slot allPages s
  | .pageDiscard m slot allPages => Sys2Proof.Machine.execPageDiscard m slot allPages s
  | .pageErrqRead m slot => Sys2Proof.Machine.execPageErrqRead m slot s
  | .pageErrqAck m slot => Sys2Proof.Machine.execPageErrqAck m slot s
  | .irtClaim m => Sys2Proof.Machine.execIrtClaim m s
  | .irtDone m slot => Sys2Proof.Machine.execIrtDone m slot s
  | .irtRouteWrite m r v => Sys2Proof.Machine.execIrtRouteWrite m r v s
  | .pageLockSet m slot writers => Sys2Proof.Machine.execPageLockSet m slot writers s
  | .readCommand tag words => Sys2Proof.Machine.execReadCommand tag words s
  | .mapPageFetchDone page ok words => Sys2Proof.Machine.execMapPageFetchDone page ok words s
  | .ctbPageFetchDone page ok => Sys2Proof.Machine.execCtbPageFetchDone page ok s
  | .peerPageReqRx ctb key => Sys2Proof.Machine.execPeerPageReqRx ctb key s
  | .peerPageDataRx ctb key held stamp maps chunks => Sys2Proof.Machine.execPeerPageDataRx ctb key held stamp maps chunks s
  | .rdpSlowQRead m => Sys2Proof.Machine.execRdpSlowQRead m s
  | .rdpResumeRetry m tag => Sys2Proof.Machine.execRdpResumeRetry m tag s
  | .rdpResumeFailMedia m tag => Sys2Proof.Machine.execRdpResumeFailMedia m tag s
  | .rdpResumeFailKey m tag => Sys2Proof.Machine.execRdpResumeFailKey m tag s
  | .rdpResumeFailInternal m tag => Sys2Proof.Machine.execRdpResumeFailInternal m tag s
  | .readSlowTimeout tag => Sys2Proof.Machine.execReadSlowTimeout tag s
  | .reconstructStart => Sys2Proof.Machine.execReconstructStart s
  | .hedgeStart fetch => Sys2Proof.Machine.execHedgeStart fetch s
  | .brickReadDataRx ln tag status corrected retries => Sys2Proof.Machine.execBrickReadDataRx ln tag status corrected retries s
  | .sliceTagCheck tag cid hVat hGen hTag tagOk => Sys2Proof.Machine.execSliceTagCheck tag cid hVat hGen hTag tagOk s
  | .inflateJobEnd tag cid slow bitOff outBytes => Sys2Proof.Machine.execInflateJobEnd tag cid slow bitOff outBytes s
  | .deliveryEgress tag => Sys2Proof.Machine.execDeliveryEgress tag s
  | .mapInval m vol all => Sys2Proof.Machine.execMapInval m vol all s
  | .mapInvalDone => Sys2Proof.Machine.execMapInvalDone s
  | .rchInval m vat all => Sys2Proof.Machine.execRchInval m vat all s
  | .rchInvalDone => Sys2Proof.Machine.execRchInvalDone s
  | .pfxRecArm m profile vol window filter => Sys2Proof.Machine.execPfxRecArm m profile vol window filter s
  | .pfxRecDisarm m => Sys2Proof.Machine.execPfxRecDisarm m s
  | .pfxRecordWindowEnd => Sys2Proof.Machine.execPfxRecordWindowEnd s
  | .pfxLoad m profile => Sys2Proof.Machine.execPfxLoad m profile s
  | .pfxUnload m profile => Sys2Proof.Machine.execPfxUnload m profile s
  | .pfxLoadDone => Sys2Proof.Machine.execPfxLoadDone s
  | .pfxExtentDue replay => Sys2Proof.Machine.execPfxExtentDue replay s
  | .pfxExtentSkip replay => Sys2Proof.Machine.execPfxExtentSkip replay s
  | .writeCommand tag => Sys2Proof.Machine.execWriteCommand tag s
  | .peerMirrorRx rec ok => Sys2Proof.Machine.execPeerMirrorRx rec ok s
  | .peerMirrorAckRx slots useqs bad badUseqs => Sys2Proof.Machine.execPeerMirrorAckRx slots useqs bad badUseqs s
  | .writeAcknowledge tag => Sys2Proof.Machine.execWriteAcknowledge tag s
  | .jnlMirrorTimeout tag => Sys2Proof.Machine.execJnlMirrorTimeout tag s
  | .chunkRun tag failed => Sys2Proof.Machine.execChunkRun tag failed s
  | .peerSwxQueryRx qtag fp vat => Sys2Proof.Machine.execPeerSwxQueryRx qtag fp vat s
  | .peerSwxAnswerRx job hit recipe => Sys2Proof.Machine.execPeerSwxAnswerRx job hit recipe s
  | .recipePageLoaded job ok vat entries => Sys2Proof.Machine.execRecipePageLoaded job ok vat entries s
  | .recipePageClose page => Sys2Proof.Machine.execRecipePageClose page s
  | .compressJobEnd job stream => Sys2Proof.Machine.execCompressJobEnd job stream s
  | .rowWaitExpire => Sys2Proof.Machine.execRowWaitExpire s
  | .brickStatusRx ln tag status => Sys2Proof.Machine.execBrickStatusRx ln tag status s
  | .updateRecordApply useq bad => Sys2Proof.Machine.execUpdateRecordApply useq bad s
  | .peerEntryRx beat slots => Sys2Proof.Machine.execPeerEntryRx beat slots s
  | .peerHorizonRx beat => Sys2Proof.Machine.execPeerHorizonRx beat s
  | .peerRetireRx slots => Sys2Proof.Machine.execPeerRetireRx slots s
  | .peerPinRx kind id => Sys2Proof.Machine.execPeerPinRx kind id s
  | .peerUnpinRx kind id => Sys2Proof.Machine.execPeerUnpinRx kind id s
  | .peerRecFetchRx slot => Sys2Proof.Machine.execPeerRecFetchRx slot s
  | .peerRecDataRx slot data ok => Sys2Proof.Machine.execPeerRecDataRx slot data ok s
  | .jnlDefQRead m => Sys2Proof.Machine.execJnlDefQRead m s
  | .createVat m vat => Sys2Proof.Machine.execCreateVat m vat s
  | .setVatOptions m vat => Sys2Proof.Machine.execSetVatOptions m vat s
  | .rekey m vat => Sys2Proof.Machine.execRekey m vat s
  | .freeze m vat => Sys2Proof.Machine.execFreeze m vat s
  | .deleteVat m vat => Sys2Proof.Machine.execDeleteVat m vat s
  | .createVolume m vol => Sys2Proof.Machine.execCreateVolume m vol s
  | .resizeVolume m vol => Sys2Proof.Machine.execResizeVolume m vol s
  | .setProfile m vol => Sys2Proof.Machine.execSetProfile m vol s
  | .deleteVolume m vol => Sys2Proof.Machine.execDeleteVolume m vol s
  | .redyeResume m vat => Sys2Proof.Machine.execRedyeResume m vat s
  | .snpCreateGroup m count => Sys2Proof.Machine.execSnpCreateGroup m count s
  | .snpDelete m snap => Sys2Proof.Machine.execSnpDelete m snap s
  | .snpClone m snap vol => Sys2Proof.Machine.execSnpClone m snap vol s
  | .peerTableCmdRx snp op target beat args => Sys2Proof.Machine.execPeerTableCmdRx snp op target beat args s
  | .peerTableAckRx snp => Sys2Proof.Machine.execPeerTableAckRx snp s
  | .tableCmdAckTimeout => Sys2Proof.Machine.execTableCmdAckTimeout s
  | .tableCmdApply => Sys2Proof.Machine.execTableCmdApply s
  | .peerTablesRx vats vols snaps => Sys2Proof.Machine.execPeerTablesRx vats vols snaps s
  | .redyeSweepStep failed peerEnded peerFailed => Sys2Proof.Machine.execRedyeSweepStep failed peerEnded peerFailed s
  | .volumeRefRelease vol n => Sys2Proof.Machine.execVolumeRefRelease vol n s
  | .snapshotRefRelease snap n => Sys2Proof.Machine.execSnapshotRefRelease snap n s
  | .ftlDirLoad m kind pin snap space leaf => Sys2Proof.Machine.execFtlDirLoad m kind pin snap space leaf s
  | .ftlDirLoadDone readOk => Sys2Proof.Machine.execFtlDirLoadDone readOk s
  | .pageWriteBack kind key => Sys2Proof.Machine.execPageWriteBack kind key s
  | .checkpointWrite ok peerReplay => Sys2Proof.Machine.execCheckpointWrite ok peerReplay s
  | .chunkRelease cid => Sys2Proof.Machine.execChunkRelease cid s
  | .relocationStart => Sys2Proof.Machine.execRelocationStart s
  | .bandErase b => Sys2Proof.Machine.execBandErase b s
  | .scanRead b member row => Sys2Proof.Machine.execScanRead b member row s
  | .vaultDumpEnd ok rows rewritten => Sys2Proof.Machine.execVaultDumpEnd ok rows rewritten s
  | .ftlRecover lost => Sys2Proof.Machine.execFtlRecover lost s
  | .liveCountRecompute => Sys2Proof.Machine.execLiveCountRecompute s
  | .mdlLinkEnable m ln en => Sys2Proof.Machine.execMdlLinkEnable m ln en s
  | .mdlLinkRetrain m ln => Sys2Proof.Machine.execMdlLinkRetrain m ln s
  | .mdlLinkDown m ln => Sys2Proof.Machine.execMdlLinkDown m ln s
  | .trainingBlockRx ln valid phase eqDone ownEq port reqPre reqPost reqPreset => Sys2Proof.Machine.execTrainingBlockRx ln valid phase eqDone ownEq port reqPre reqPost reqPreset s
  | .linkTrainTimeout ln => Sys2Proof.Machine.execLinkTrainTimeout ln s
  | .mediaFlitRx ln flit => Sys2Proof.Machine.execMediaFlitRx ln flit s
  | .mediaNakRx ln ack => Sys2Proof.Machine.execMediaNakRx ln ack s
  | .mediaReplayTimer ln => Sys2Proof.Machine.execMediaReplayTimer ln s
  | .linkRecoverTimeout ln => Sys2Proof.Machine.execLinkRecoverTimeout ln s
  | .brickIdentRx ln tag vendor serial arrayId dieMask fid fver fcheck cmdCredits wdataCredits port other => Sys2Proof.Machine.execBrickIdentRx ln tag vendor serial arrayId dieMask fid fver fcheck cmdCredits wdataCredits port other s
  | .brickOwnerRx ln tag epochA epochB sideA sideB => Sys2Proof.Machine.execBrickOwnerRx ln tag epochA epochB sideA sideB s
  | .brickCreditRx ln cmd wdata => Sys2Proof.Machine.execBrickCreditRx ln cmd wdata s
  | .brickEventRx ln code die => Sys2Proof.Machine.execBrickEventRx ln code die s
  | .mediaOpTimeout ln tag => Sys2Proof.Machine.execMediaOpTimeout ln tag s
  | .identRetry k => Sys2Proof.Machine.execIdentRetry k s
  | .sidebandAlert k answered status temp => Sys2Proof.Machine.execSidebandAlert k answered status temp s
  | .sidebandPoll k answered status temp => Sys2Proof.Machine.execSidebandPoll k answered status temp s
  | .brickAdopt m k => Sys2Proof.Machine.execBrickAdopt m k s
  | .brickRelease m k => Sys2Proof.Machine.execBrickRelease m k s
  | .brickFail m k => Sys2Proof.Machine.execBrickFail m k s
  | .brickAttnOn m k acked => Sys2Proof.Machine.execBrickAttnOn m k acked s
  | .brickAttnOff m k acked => Sys2Proof.Machine.execBrickAttnOff m k acked s
  | .brickRefresh m k => Sys2Proof.Machine.execBrickRefresh m k s
  | .dfmLoad m f => Sys2Proof.Machine.execDfmLoad m f s
  | .dfmUnload m f => Sys2Proof.Machine.execDfmUnload m f s
  | .digestSubmit m sl addr => Sys2Proof.Machine.execDigestSubmit m sl addr s
  | .digestJobEnd tag => Sys2Proof.Machine.execDigestJobEnd tag s
  | .digDoneQRead m sl => Sys2Proof.Machine.execDigDoneQRead m sl s
  | .keyFetchDone sl h => Sys2Proof.Machine.execKeyFetchDone sl h s
  | .keyHandleRemove h => Sys2Proof.Machine.execKeyHandleRemove h s
  | .sliceRngReseed sl => Sys2Proof.Machine.execSliceRngReseed sl s
  | .secHardenWrite m dummy shuffle => Sys2Proof.Machine.execSecHardenWrite m dummy shuffle s
  | .portLinkChange port up => Sys2Proof.Machine.execPortLinkChange port up s
  | .hfiDetectStep q => Sys2Proof.Machine.execHfiDetectStep q s
  | .hfiFrameRx port f => Sys2Proof.Machine.execHfiFrameRx port f s
  | .pfcXoff port prio bytes => Sys2Proof.Machine.execPfcXoff port prio bytes s
  | .pfcRefresh port prio bytes => Sys2Proof.Machine.execPfcRefresh port prio bytes s
  | .pfcXon port prio bytes => Sys2Proof.Machine.execPfcXon port prio bytes s
  | .pfcFrameRx port quanta => Sys2Proof.Machine.execPfcFrameRx port quanta s
  | .pfcPauseExpire port prio => Sys2Proof.Machine.execPfcPauseExpire port prio s
  | .tcpSynRx u iface port mac v6 ecn window => Sys2Proof.Machine.execTcpSynRx u iface port mac v6 ecn window s
  | .tcpRetransmitTimeout c => Sys2Proof.Machine.execTcpRetransmitTimeout c s
  | .tcpTimeWaitExpire c => Sys2Proof.Machine.execTcpTimeWaitExpire c s
  | .nvtIcreqRx c pfv hpda hdgst ddgst => Sys2Proof.Machine.execNvtIcreqRx c pfv hpda hdgst ddgst s
  | .nvtIcreqTimeout c => Sys2Proof.Machine.execNvtIcreqTimeout c s
  | .nvmeConnectAdmin c cid flags sqsize kato data => Sys2Proof.Machine.execNvmeConnectAdmin c cid flags sqsize kato data s
  | .nvmeConnectIo c cid flags qid sqsize data => Sys2Proof.Machine.execNvmeConnectIo c cid flags qid sqsize data s
  | .nvtConnectQRead m u => Sys2Proof.Machine.execNvtConnectQRead m u s
  | .nvtConnectAccept m u slot => Sys2Proof.Machine.execNvtConnectAccept m u slot s
  | .nvtConnectRefuseHost m u slot => Sys2Proof.Machine.execNvtConnectRefuseHost m u slot s
  | .nvtConnectRefuseBusy m u slot => Sys2Proof.Machine.execNvtConnectRefuseBusy m u slot s
  | .nvtConnectTimeout u slot => Sys2Proof.Machine.execNvtConnectTimeout u slot s
  | .keepAliveExpired k => Sys2Proof.Machine.execKeepAliveExpired k s
  | .nvtCtrlTeardown m u idx => Sys2Proof.Machine.execNvtCtrlTeardown m u idx s
  | .nvtAttachChanged m u idx => Sys2Proof.Machine.execNvtAttachChanged m u idx s
  | .nvmeIdentify c cid flags nsid cns => Sys2Proof.Machine.execNvmeIdentify c cid flags nsid cns s
  | .nvmeGetFeatures c cid flags fid => Sys2Proof.Machine.execNvmeGetFeatures c cid flags fid s
  | .nvmeSetFeatures c cid flags fid v => Sys2Proof.Machine.execNvmeSetFeatures c cid flags fid v s
  | .nvmeGetLogPage c cid flags nsid lid off len rae => Sys2Proof.Machine.execNvmeGetLogPage c cid flags nsid lid off len rae s
  | .nvmeDeviceSelfTest c cid flags nsid code => Sys2Proof.Machine.execNvmeDeviceSelfTest c cid flags nsid code s
  | .nvmeAbort c cid flags sqid acid => Sys2Proof.Machine.execNvmeAbort c cid flags sqid acid s
  | .nvmeKeepAlive c cid flags => Sys2Proof.Machine.execNvmeKeepAlive c cid flags s
  | .nvmeAsyncEventRequest c cid flags => Sys2Proof.Machine.execNvmeAsyncEventRequest c cid flags s
  | .nvmePropertyGet c cid flags ofs => Sys2Proof.Machine.execNvmePropertyGet c cid flags ofs s
  | .nvmePropertySet c cid flags ofs v => Sys2Proof.Machine.execNvmePropertySet c cid flags ofs v s
  | .nvmeDisconnect c cid flags => Sys2Proof.Machine.execNvmeDisconnect c cid flags s
  | .nvmeRead c cid flags nsid lba blocks sgl => Sys2Proof.Machine.execNvmeRead c cid flags nsid lba blocks sgl s
  | .nvmeWrite c cid flags nsid lba blocks sgl icd => Sys2Proof.Machine.execNvmeWrite c cid flags nsid lba blocks sgl icd s
  | .nvmeFlush c cid flags nsid => Sys2Proof.Machine.execNvmeFlush c cid flags nsid s
  | .nvmeWriteZeroes c cid flags nsid lba blocks => Sys2Proof.Machine.execNvmeWriteZeroes c cid flags nsid lba blocks s
  | .nvmeDatasetManagement c cid flags nsid ad ranges => Sys2Proof.Machine.execNvmeDatasetManagement c cid flags nsid ad ranges s
  | .nvmeInvalidOpcode c cid => Sys2Proof.Machine.execNvmeInvalidOpcode c cid s
  | .nvtH2cDataRx c ttag off len data last hdrOk hdgstOk ddgstOk => Sys2Proof.Machine.execNvtH2cDataRx c ttag off len data last hdrOk hdgstOk ddgstOk s
  | .nvtH2cTermReqRx c => Sys2Proof.Machine.execNvtH2cTermReqRx c s
  | .selftestTimeout => Sys2Proof.Machine.execSelftestTimeout s
  | .selftestSegment ok => Sys2Proof.Machine.execSelftestSegment ok s
  | .ldtHelloRx u iface addr v6 data => Sys2Proof.Machine.execLdtHelloRx u iface addr v6 data s
  | .ldtAcceptQRead m u => Sys2Proof.Machine.execLdtAcceptQRead m u s
  | .ldtAccept m u slot => Sys2Proof.Machine.execLdtAccept m u slot s
  | .ldtRefuse m u slot => Sys2Proof.Machine.execLdtRefuse m u slot s
  | .ldtRefuseBusy m u slot => Sys2Proof.Machine.execLdtRefuseBusy m u slot s
  | .ldtAcceptTimeout u slot => Sys2Proof.Machine.execLdtAcceptTimeout u slot s
  | .ldtHelloRespRx u dcid data ok => Sys2Proof.Machine.execLdtHelloRespRx u dcid data ok s
  | .ldtFinishRx u dcid tagOk ok => Sys2Proof.Machine.execLdtFinishRx u dcid tagOk ok s
  | .ldtSetupTimeout n => Sys2Proof.Machine.execLdtSetupTimeout n s
  | .ldtSendRx u hdr data => Sys2Proof.Machine.execLdtSendRx u hdr data s
  | .ldtWriteRx u hdr addr mkey data => Sys2Proof.Machine.execLdtWriteRx u hdr addr mkey data s
  | .ldtReadReqRx u hdr addr mkey => Sys2Proof.Machine.execLdtReadReqRx u hdr addr mkey s
  | .ldtReadRespRx u hdr data => Sys2Proof.Machine.execLdtReadRespRx u hdr data s
  | .ldtAckRx u hdr cum sack ece limit => Sys2Proof.Machine.execLdtAckRx u hdr cum sack ece limit s
  | .ldtCloseRx u hdr => Sys2Proof.Machine.execLdtCloseRx u hdr s
  | .ldtMsgFailRx u hdr msn cond => Sys2Proof.Machine.execLdtMsgFailRx u hdr msn cond s
  | .ldtKeepaliveRx u hdr => Sys2Proof.Machine.execLdtKeepaliveRx u hdr s
  | .ldtConnClose m u n => Sys2Proof.Machine.execLdtConnClose m u n s
  | .ldtConnRekey m u n => Sys2Proof.Machine.execLdtConnRekey m u n s
  | .ldtRekeyDue n => Sys2Proof.Machine.execLdtRekeyDue n s
  | .ldtKeepaliveSend n => Sys2Proof.Machine.execLdtKeepaliveSend n s
  | .ldtIdleTimeout n => Sys2Proof.Machine.execLdtIdleTimeout n s
  | .ldtAckDelayExpire n => Sys2Proof.Machine.execLdtAckDelayExpire n s
  | .ldtRtoExpire n psn => Sys2Proof.Machine.execLdtRtoExpire n psn s
  | .ldtMsgTimeout n ptype msn => Sys2Proof.Machine.execLdtMsgTimeout n ptype msn s
  | .ldtRxMsgTimeout n msn resp => Sys2Proof.Machine.execLdtRxMsgTimeout n msn resp s
  | .ldtRateIncrease n k => Sys2Proof.Machine.execLdtRateIncrease n k s
  | .ldtPathReturn n k => Sys2Proof.Machine.execLdtPathReturn n k s
  | .ldtCtxFetchDone n => Sys2Proof.Machine.execLdtCtxFetchDone n s
  | .lbcRead n => Sys2Proof.Machine.execLbcRead n s
  | .lbcWrite n => Sys2Proof.Machine.execLbcWrite n s
  | .lbcWriteZeroes n => Sys2Proof.Machine.execLbcWriteZeroes n s
  | .lbcDeallocate n => Sys2Proof.Machine.execLbcDeallocate n s
  | .lbcFlush n => Sys2Proof.Machine.execLbcFlush n s
  | .lbcAbort n => Sys2Proof.Machine.execLbcAbort n s
  | .lbcGetHealth n => Sys2Proof.Machine.execLbcGetHealth n s
  | .lbcGetDeferred n => Sys2Proof.Machine.execLbcGetDeferred n s
  | .lbcFetch n => Sys2Proof.Machine.execLbcFetch n s
  | .lbcRepPoll n => Sys2Proof.Machine.execLbcRepPoll n s
  | .lbcRepRecipe n => Sys2Proof.Machine.execLbcRepRecipe n s
  | .lbcRepChunks n => Sys2Proof.Machine.execLbcRepChunks n s
  | .lbcRepDone n => Sys2Proof.Machine.execLbcRepDone n s
  | .lseModeReqService m => Sys2Proof.Machine.execLseModeReqService m s
  | .handoverDrained => Sys2Proof.Machine.execHandoverDrained s
  | .lseModeReqServiceRelease m => Sys2Proof.Machine.execLseModeReqServiceRelease m s
  | .lseModeReqReboot m => Sys2Proof.Machine.execLseModeReqReboot m s
  | .peerBundleActive b skews => Sys2Proof.Machine.execPeerBundleActive b skews s
  | .peerFlitRx b flit => Sys2Proof.Machine.execPeerFlitRx b flit s
  | .peerReplayTimer b => Sys2Proof.Machine.execPeerReplayTimer b s
  | .peerBundleLeaveActive b => Sys2Proof.Machine.execPeerBundleLeaveActive b s
  | .peerHelloRx hid arrayId layout format => Sys2Proof.Machine.execPeerHelloRx hid arrayId layout format s
  | .peerModeRx mode holdsA holdsB epochA epochB jgen => Sys2Proof.Machine.execPeerModeRx mode holdsA holdsB epochA epochB jgen s
  | .peerModeSend => Sys2Proof.Machine.execPeerModeSend s
  | .peerModeTimeout => Sys2Proof.Machine.execPeerModeTimeout s
  | .peerLossTimeout => Sys2Proof.Machine.execPeerLossTimeout s
  | .peerKeyWrapRx jgen wrapped => Sys2Proof.Machine.execPeerKeyWrapRx jgen wrapped s
  | .peerSyncDataRx rec entered => Sys2Proof.Machine.execPeerSyncDataRx rec entered s
  | .peerHandoverRx => Sys2Proof.Machine.execPeerHandoverRx s
  | .peerMailboxRx kind w epoch c => Sys2Proof.Machine.execPeerMailboxRx kind w epoch c s
  | .peerRubRx b echo => Sys2Proof.Machine.execPeerRubRx b echo s
  | .leaseFencePoint sh => Sys2Proof.Machine.execLeaseFencePoint sh s
  | .leaseRenewDue sh => Sys2Proof.Machine.execLeaseRenewDue sh s
  | .witnessRetry sh => Sys2Proof.Machine.execWitnessRetry sh s
  | .witnessGrantRx frame => Sys2Proof.Machine.execWitnessGrantRx frame s
  | .witnessWaitRx frame => Sys2Proof.Machine.execWitnessWaitRx frame s
  | .witnessWaitExpire sh => Sys2Proof.Machine.execWitnessWaitExpire sh s
  | .witnessDenyRx frame => Sys2Proof.Machine.execWitnessDenyRx frame s
  | .witnessStatusRx frame => Sys2Proof.Machine.execWitnessStatusRx frame s
  | .witnessReleasedRx frame => Sys2Proof.Machine.execWitnessReleasedRx frame s
  | .witnessReportSend => Sys2Proof.Machine.execWitnessReportSend s
  | .homeAcquire => Sys2Proof.Machine.execHomeAcquire s
  | .bootWaitExpire => Sys2Proof.Machine.execBootWaitExpire s
  | .fencedProbe => Sys2Proof.Machine.execFencedProbe s
  | .handbackRelease => Sys2Proof.Machine.execHandbackRelease s
  | .handbackTimeout => Sys2Proof.Machine.execHandbackTimeout s
  | .rubTest ringOk ckptOk => Sys2Proof.Machine.execRubTest ringOk ckptOk s
  | .rubProbeEnd probe => Sys2Proof.Machine.execRubProbeEnd probe s
  | .lseWitRxWrite m len => Sys2Proof.Machine.execLseWitRxWrite m len s
  | .lseWitTxRead m => Sys2Proof.Machine.execLseWitTxRead m s
  | .fabHelloSend => Sys2Proof.Machine.execFabHelloSend s
  | .fabHelloRx frame => Sys2Proof.Machine.execFabHelloRx frame s
  | .fabLeaveRx frame => Sys2Proof.Machine.execFabLeaveRx frame s
  | .fabMemberMiss hid => Sys2Proof.Machine.execFabMemberMiss hid s
  | .fabPlaceHoldExpire => Sys2Proof.Machine.execFabPlaceHoldExpire s
  | .fabPlaceSwap => Sys2Proof.Machine.execFabPlaceSwap s
  | .fabFetchTimeout key => Sys2Proof.Machine.execFabFetchTimeout key s
  | .repLinkLoad m link => Sys2Proof.Machine.execRepLinkLoad m link s
  | .repLinkStop m link => Sys2Proof.Machine.execRepLinkStop m link s
  | .repLinkOffer m link snap => Sys2Proof.Machine.execRepLinkOffer m link snap s
  | .repLinkResync m link => Sys2Proof.Machine.execRepLinkResync m link s
  | .repPollDue link => Sys2Proof.Machine.execRepPollDue link s
  | .repSyncTimeout id => Sys2Proof.Machine.execRepSyncTimeout id s
  | .entropyStartupTest samples => Sys2Proof.Machine.execEntropyStartupTest samples s
  | .bootLoaderVerify keysOk sigsOk svn blocksOk digest => Sys2Proof.Machine.execBootLoaderVerify keysOk sigsOk svn blocksOk digest s
  | .bootLoaderTimeout => Sys2Proof.Machine.execBootLoaderTimeout s
  | .bundleCheck => Sys2Proof.Machine.execBundleCheck s
  | .firmwareStart countOk settingsOk => Sys2Proof.Machine.execFirmwareStart countOk settingsOk s
  | .settingsMigrate readable converts writes => Sys2Proof.Machine.execSettingsMigrate readable converts writes s
  | .hbmTrain stack ok beats => Sys2Proof.Machine.execHbmTrain stack ok beats s
  | .msrExtend m k addr => Sys2Proof.Machine.execMsrExtend m k addr s
  | .msrLock m k => Sys2Proof.Machine.execMsrLock m k s
  | .installVatKey => Sys2Proof.Machine.execInstallVatKey s
  | .removeVatKey => Sys2Proof.Machine.execRemoveVatKey s
  | .installSlot => Sys2Proof.Machine.execInstallSlot s
  | .importKek slot use key authOk => Sys2Proof.Machine.execImportKek slot use key authOk s
  | .removeSlot => Sys2Proof.Machine.execRemoveSlot s
  | .saltExport => Sys2Proof.Machine.execSaltExport s
  | .saltImport => Sys2Proof.Machine.execSaltImport s
  | .installFabricSalt => Sys2Proof.Machine.execInstallFabricSalt s
  | .setPairKey => Sys2Proof.Machine.execSetPairKey s
  | .quote => Sys2Proof.Machine.execQuote s
  | .identity => Sys2Proof.Machine.execIdentity s
  | .random => Sys2Proof.Machine.execRandom s
  | .hmac => Sys2Proof.Machine.execHmac s
  | .entropyTestFail rct => Sys2Proof.Machine.execEntropyTestFail rct s
  | .entropyRecovered => Sys2Proof.Machine.execEntropyRecovered s
  | .drbgReseed => Sys2Proof.Machine.execDrbgReseed s
  | .fuseSvnD m ok => Sys2Proof.Machine.execFuseSvnD m ok s
  | .fuseSvnI m ok => Sys2Proof.Machine.execFuseSvnI m ok s
  | .fuseRootI m addr ok => Sys2Proof.Machine.execFuseRootI m addr ok s
  | .fuseDebugDisable m ok => Sys2Proof.Machine.execFuseDebugDisable m ok s
  | .fuseDebugRoot m ok => Sys2Proof.Machine.execFuseDebugRoot m ok s
  | .dbgChal => Sys2Proof.Machine.execDbgChal s
  | .dbgToken bytes => Sys2Proof.Machine.execDbgToken bytes s
  | .dbgStat => Sys2Proof.Machine.execDbgStat s
  | .dbgMem write addr data => Sys2Proof.Machine.execDbgMem write addr data s
  | .idcode => Sys2Proof.Machine.execIdcode s
  | .samplePreload levels value => Sys2Proof.Machine.execSamplePreload levels value s
  | .extest levels value => Sys2Proof.Machine.execExtest levels value s
  | .extestPulse levels value => Sys2Proof.Machine.execExtestPulse levels value s
  | .extestTrain levels value => Sys2Proof.Machine.execExtestTrain levels value s
  | .clamp => Sys2Proof.Machine.execClamp s
  | .highz => Sys2Proof.Machine.execHighz s
  | .bypass code => Sys2Proof.Machine.execBypass code s
  | .tapReset => Sys2Proof.Machine.execTapReset s
  | .mbxPost m c w => Sys2Proof.Machine.execMbxPost m c w s
  | .mbxTake m c => Sys2Proof.Machine.execMbxTake m c s
  | .mbxStatWrite m c v => Sys2Proof.Machine.execMbxStatWrite m c v s
  | .mbxBindWrite m c valid snd rcv => Sys2Proof.Machine.execMbxBindWrite m c valid snd rcv s
  | .mbxBindLock m => Sys2Proof.Machine.execMbxBindLock m s
  | .mbxLockRead m k => Sys2Proof.Machine.execMbxLockRead m k s
  | .mbxUnlock m k => Sys2Proof.Machine.execMbxUnlock m k s
  | .updBegin => Sys2Proof.Machine.execUpdBegin s
  | .updBlocks => Sys2Proof.Machine.execUpdBlocks s
  | .updVerify loader => Sys2Proof.Machine.execUpdVerify loader s
  | .updSchedule => Sys2Proof.Machine.execUpdSchedule s
  | .updCancel => Sys2Proof.Machine.execUpdCancel s
  | .updConfirm => Sys2Proof.Machine.execUpdConfirm s
  | .updStatus => Sys2Proof.Machine.execUpdStatus s
  | .updSettings => Sys2Proof.Machine.execUpdSettings s
  | .updFuse => Sys2Proof.Machine.execUpdFuse s
  | .updActivateCheck => Sys2Proof.Machine.execUpdActivateCheck s
  | .updActivateExpired => Sys2Proof.Machine.execUpdActivateExpired s
  | .updTrialTimeout => Sys2Proof.Machine.execUpdTrialTimeout s
  | .kslChallengeReq frame => Sys2Proof.Machine.execKslChallengeReq frame s
  | .kslAuth frame => Sys2Proof.Machine.execKslAuth frame s
  | .kslReq frame => Sys2Proof.Machine.execKslReq frame s
  | .kslData frame => Sys2Proof.Machine.execKslData frame s
  | .kslRead frame => Sys2Proof.Machine.execKslRead frame s
  | .kslLoader frame done keysOk sigsOk svn blocksOk digest => Sys2Proof.Machine.execKslLoader frame done keysOk sigsOk svn blocksOk digest s
  | .kslSessionTimeout => Sys2Proof.Machine.execKslSessionTimeout s
  | .pwrDomSetState m d target => Sys2Proof.Machine.execPwrDomSetState m d target s
  | .pwrDomResetCores m d cores => Sys2Proof.Machine.execPwrDomResetCores m d cores s
  | .pwrEntryQuiesced wfi wake => Sys2Proof.Machine.execPwrEntryQuiesced wfi wake s
  | .pwrQuiesceTimeout => Sys2Proof.Machine.execPwrQuiesceTimeout s
  | .pwrExitDone => Sys2Proof.Machine.execPwrExitDone s
  | .autoIdleEnter d => Sys2Proof.Machine.execAutoIdleEnter d s
  | .autoIdleExit d => Sys2Proof.Machine.execAutoIdleExit d s
  | .wakeSourceAssert source dom => Sys2Proof.Machine.execWakeSourceAssert source dom s
  | .dozeRequest m oscStop => Sys2Proof.Machine.execDozeRequest m oscStop s
  | .dozeWake ticks startUs => Sys2Proof.Machine.execDozeWake ticks startUs s
  | .dozeExitDone => Sys2Proof.Machine.execDozeExitDone s
  | .dozeExitSlow => Sys2Proof.Machine.execDozeExitSlow s
  | .pllUnlock n => Sys2Proof.Machine.execPllUnlock n s
  | .clkRefLoss k => Sys2Proof.Machine.execClkRefLoss k s
  | .clkRefReturn k => Sys2Proof.Machine.execClkRefReturn k s
  | .pfailRecognised ns ticks startUs => Sys2Proof.Machine.execPfailRecognised ns ticks startUs s
  | .aonSrstReq m => Sys2Proof.Machine.execAonSrstReq m s
  | .fatalResetTimer => Sys2Proof.Machine.execFatalResetTimer s
  | .erqInject m slot cond => Sys2Proof.Machine.execErqInject m slot cond s
  | .memoryEccError kind slot addr tag spare => Sys2Proof.Machine.execMemoryEccError kind slot addr tag spare s
  | .evrEpochEnd fails written => Sys2Proof.Machine.execEvrEpochEnd fails written s
  | .evrSample m metric value => Sys2Proof.Machine.execEvrSample m metric value s
  | .evrCursorWrite m area epoch metric => Sys2Proof.Machine.execEvrCursorWrite m area epoch metric s
  | .evrWindowLoaded => Sys2Proof.Machine.execEvrWindowLoaded s
  | .evrWinRead m k => Sys2Proof.Machine.execEvrWinRead m k s
  | .evrClrChalRead m => Sys2Proof.Machine.execEvrClrChalRead m s
  | .evrClrReq m addr => Sys2Proof.Machine.execEvrClrReq m addr s
  | .evrSecClear m written => Sys2Proof.Machine.execEvrSecClear m written s
  | .ageSample n margin => Sys2Proof.Machine.execAgeSample n margin s
  | .thermalWarning sensor temp => Sys2Proof.Machine.execThermalWarning sensor temp s
  | .thermalShutdown sensor temp => Sys2Proof.Machine.execThermalShutdown sensor temp s
  | .thermalTrip sensor temp => Sys2Proof.Machine.execThermalTrip sensor temp s
  | .tstRun m q => Sys2Proof.Machine.execTstRun m q s
  | .tstStop m q errs => Sys2Proof.Machine.execTstStop m q errs s
  | .tstClear m q => Sys2Proof.Machine.execTstClear m q s
  | .tstLockLoss q n errs => Sys2Proof.Machine.execTstLockLoss q n errs s
  | .tstEyeScan m q => Sys2Proof.Machine.execTstEyeScan m q s
  | .tstEyeDone q counts => Sys2Proof.Machine.execTstEyeDone q counts s
  | .supplyLoss aonLost => Sys2Proof.Machine.execSupplyLoss aonLost s
  | .peerLinkEnable m en => Sys2Proof.Machine.execPeerLinkEnable m en s
  | .peerBundleRetrain m mask => Sys2Proof.Machine.execPeerBundleRetrain m mask s
  | .tcpSegmentRx c ack window dup fin rst ce ece cwr => Sys2Proof.Machine.execTcpSegmentRx c ack window dup fin rst ce ece cwr s
  | .thermalWarningClear sensor temp => Sys2Proof.Machine.execThermalWarningClear sensor temp s
  | .tstCheckerLock q n => Sys2Proof.Machine.execTstCheckerLock q n s

end Sys2Proof.Machine
end

