-- ==== Sys2Proof/Machine/Step.lean ====
section
/-! DEFINITION. One step: take the command at the front of the queue and run it. -/

namespace Sys2Proof.Machine

/-- The state with a command in front of its queue. -/
def State.push (s : State) (c : Instr) : State := { s with pending := c :: s.pending }

/-- The state with a given queue. -/
def State.withQueue (s : State) (q : List Instr) : State := { s with pending := q }

/-- Run the command at the front of the queue on the state with the queue's rest; on an empty queue the head idles
(log entry 2). -/
def step (s : State) : Host.Outcome State Fault Refusal :=
  match s.pending with
  | [] => .next s
  | c :: q => exec c (s.withQueue q)

/-- The state with the command that a word spells in front of the queue; no word spells one (log entry 1). -/
def State.withFetchWord (s : State) (nbits w : Nat) : State :=
  match decodeTableWord nbits w with
  | some c => s.push c
  | none => s

end Sys2Proof.Machine
end

