-- ==== Sys2Proof/Safety.lean ====
section
/-! DEFINITION. What a good state is, which commands may touch memory or the fuses, and how far fuses may move. -/

namespace Sys2Proof.Machine

/-- The memory lists rising addresses and no byte equal to what an unlisted address reads as. -/
def State.MemOk (s : State) : Prop := Mem.wf s.mem = true

/-- A later state of the fuses (R571): security versions never sink, and what is blown stays as it is. -/
structure Fuses.Upto (a b : Fuses) : Prop where
  svnD : a.svnD ≤ b.svnD
  svnI : a.svnI ≤ b.svnI
  rootI : a.rootI ≠ none → b.rootI = a.rootI
  debugDisable : a.debugDisable = true → b.debugDisable = true
  debugRoot : a.debugRoot = true → b.debugRoot = true

/-- It is the turn of a request of the key service: the block at `a` is first in its queue, names operation `op`, no
keyed HMAC runs and no debug unlock has erased the keys (R585, R593, R598). -/
abbrev State.KeyTurn (s : State) (op a : Nat) : Prop :=
  (s.mbx.keyQ.map (·.2)).head? = some a ∧ s.blkOp a = op ∧ s.sec.hmacTag = none ∧ s.get F.SEC_DBG_STAT_STATE ≠ 2

/-- It is the turn of a request of the update service: channel `c` and place `a` stand first in its queue and the request
names operation `op` (R622). -/
abbrev State.UpdTurn (s : State) (op c a : Nat) : Prop :=
  s.mbx.updQ.head? = some (c, a) ∧ s.updOp c a = op

/-- A frame of a type stands whole on the service link, its payload of `len` bytes and its session field as given, and the
port answers (R636, R637). -/
abbrev State.KslFrame (s : State) (frame : List Nat) (typ len session : Nat) : Prop :=
  s.svcUp = true ∧ frame.getD 3 0 = typ ∧ frame.getD 0 0 = 0x4B ∧ frame.getD 1 0 = 0x53 ∧ frame.getD 2 0 = 1 ∧
    bytesNat frame 8 2 = len ∧ bytesNat frame 12 4 = session ∧ kslLenOk typ len = true ∧ 16 + len ≤ frame.length

/-- A frame is counted as it arrives (R637). -/
def State.kslHeard (s : State) : State := (s.bump F.SVC_CNT_RX_COUNT).set F.SVC_STAT_LINK 1

/-- A frame whose trailer verifies leaves its beat, in a session as the session's last too (R636, R637). -/
def State.kslSound (s : State) (session : Nat) : State :=
  let s := s.set F.SVC_STAT_BEAT s.beat32
  if session = 0 then s else s.modFlash (fun x => { x with session := (x.session).map (fun q => { q with lastBeat := s.beat }) })

/-- A command capsule of connection `c` is taken (R426): its counts and times, with the submission queue's head moved on. -/
def State.nvmeCounted (s : State) (c k vol : Nat) : State :=
  let u := (s.bump (F.NVT_CNT_PDU_RX_COUNT (connUnit c))).modConn c (fun x => { x with sqhd := (x.sqhd + 1) % (x.sqsize + 1) })
  (u.modCtrl k (fun y => { y with lastBeat := u.beat })).sts c vol F.NVT_STS_CMDS_COUNT

/-- Connection `c`, which is `x`, takes commands for controller `k`, which is `y` (R426, R44, R73). -/
abbrev State.NvmeTurn (s : State) (c k : Nat) (x : TcpConn) (y : Ctrl) : Prop :=
  s.conn c = some x ∧ s.connCtrl c = some k ∧ s.ctrl k = some y ∧ x.tcp = 2 ∧ (x.nvt = 3 ∨ x.nvt = 4) ∧ y.st = 2 ∧
    s.admFull = false ∧ s.hfiLive = true ∧ (s.unit (unitKey Blk.NVT (connUnit c))).quiesce = false

/-- An admin command with sound flags is taken on an admin queue, and `u` is the state after it is counted. -/
abbrev State.AdminTurn (s : State) (c flags k : Nat) (x : TcpConn) (y : Ctrl) (u : State) : Prop :=
  s.NvmeTurn c k x y ∧ x.nvt = 3 ∧ flagsOk flags = true ∧
    u = (s.nvmeCounted c k (2 ^ 20)).bump (F.NVT_CNT_ADMIN_COUNT (connUnit c))

/-- An I/O command of an attached live volume is taken as the request `q`, given tag `t`, with no notice due; `v` is the
state after it entered ADM. -/
abbrev State.IoTurn (s : State) (c cid flags k : Nat) (x : TcpConn) (y : Ctrl) (r q : Req) (t : Nat) (v : State) : Prop :=
  s.NvmeTurn c k x y ∧ x.nvt = 4 ∧ flagsOk flags = true ∧ q = { r with origin := .nvt c cid, assoc := x.cntlid } ∧
    (t, v) = (s.nvmeCounted c k r.vol).newReq q ((s.nvmeCounted c k r.vol).liveVol r.vol).isSome ∧
    y.attach.contains r.vol = true ∧ (v.liveVol r.vol).isSome = true ∧ v.takeNotice x.cntlid r.vol = none

/-- An I/O command is taken as the request `q`, given tag `t`; `v` is the state after it entered ADM. -/
abbrev State.IoIn (s : State) (c cid k : Nat) (x : TcpConn) (y : Ctrl) (r q : Req) (t : Nat) (v : State) : Prop :=
  s.NvmeTurn c k x y ∧ q = { r with origin := .nvt c cid, assoc := x.cntlid } ∧
    (t, v) = (s.nvmeCounted c k r.vol).newReq q ((s.nvmeCounted c k r.vol).liveVol r.vol).isSome

/-- The outcome with which an I/O command for volume `vol` ends before its own effect, or 0: one taken on the admin queue,
with bad flags, outside its own limits (`limit`), or for a volume that is not attached or not live. -/
def State.ioStops (v : State) (flags limit : Nat) (x : TcpConn) (y : Ctrl) (vol : Nat) : Nat :=
  if x.nvt ≠ 4 then outcome stOpcode else if !flagsOk flags then outField else if limit ≠ 0 then limit
  else if !y.attach.contains vol || (v.liveVol vol).isNone then Cond.VOLUME_ABSENT else 0

/-- A sound packet of the current generation of connection `n`, which is `x`, established and on chip, has come to a unit
that serves (R460, R474, R481). -/
abbrev State.LdtTurn (s : State) (u : Nat) (h : LdtHdr) (n : Nat) (x : LdtConn) : Prop :=
  s.ldtServing (u % 2) = true ∧ h.hdrOk = true ∧ s.connNamed (u % 2) h.dcid = some (n, x) ∧ s.lconn n = some x ∧ x.state = 3 ∧
    x.resident = true ∧ x.missQ = [] ∧ h.tagOk = true ∧ h.kgen % 256 = x.kgen % 256 ∧ s.ldtListens (u % 2) x.iface = true

/-- What a packet of the current generation changes before its own effect: the connection is heard, and counts. -/
def State.ldtHeard (s : State) (n : Nat) (x : LdtConn) (h : LdtHdr) : State :=
  let s := (s.ldtReceive h.plen).2
  let v := s.modLconn n (fun y => { y with lastRx := s.beat, useNs := s.tb, heard := y.heard || y.txGen == x.kgen })
  let v := (v.lsts n h.path F.LDT_STS_RX_PKT_COUNT).lsts n h.path F.LDT_STS_RX_BYTES_COUNT h.plen
  if h.ce then (v.lsts n h.path F.LDT_STS_CE_COUNT).modPath n h.path (fun q => { q with ce := q.ce + 1 }) else v

/-- The oldest capsule of connection `n` is `d`, of 64 bytes and opcode `opc`; `u` is the state after it is taken (R73,
R486). -/
abbrev State.LbcTurn (s : State) (n opc : Nat) (x : LdtConn) (d : Nat) (rest : List (Nat × Nat)) (u : State) : Prop :=
  s.lconn n = some x ∧ x.inbox = (64, d) :: rest ∧ capOpc d = opc ∧ lbcKnown opc = true ∧ x.initiator = false ∧ x.state = 3 ∧
    s.admFull = false ∧ (s.unit (unitKey Blk.LDT (ldtUnit n))).quiesce = false ∧ (s.unit (unitKey Blk.LBC 0)).quiesce = false ∧
    u = (s.modLconn n (fun x => { x with inbox := rest })).bump F.LBC_CNT_CMDS_COUNT

/-- A capsule's request `r` enters ADM with tag `t`, giving `v`; where it names a volume, the volume lives and no notice is
due (R493). -/
abbrev State.LbcIn (s : State) (r : Req) (named : Bool) (t : Nat) (v : State) : Prop :=
  (t, v) = s.newReq r (named && (s.liveVol r.vol).isSome) ∧
    (named = true → (v.liveVol r.vol).isNone = false ∧ v.takeNotice r.assoc r.vol = none)

/-- The outcome with which a capsule for volume `vol` ends before its own effect, or 0: one that is not valid, or that names a volume that
is not live (R493). -/
def State.capStops (v : State) (valid named : Bool) (vol : Nat) : Nat :=
  if !valid then Cond.LBC_CMD_INVALID else if named && (v.liveVol vol).isNone then Cond.VOLUME_ABSENT else 0

/-- The same of a replication capsule, which also asks for a known head, REP enabled and a source link of its volume (R556). -/
def State.repStops (v : State) (x : LdtConn) (d vol : Nat) (valid : Bool) : Nat :=
  if !v.headKnown x d || !valid || !(v.unit (unitKey Blk.REP 0)).enable then Cond.LBC_CMD_INVALID
  else if (v.liveVol vol).isNone then Cond.VOLUME_ABSENT else if (v.sourceLink vol).isNone then Cond.LBC_CMD_INVALID else 0

/-- A replication capsule comes from a head that the fabric knows and names a live volume with the source link `l`, number
`k`; its request `r` has tag `t`, and `v` is the state after it entered ADM (R556). -/
abbrev State.RepTurn (s : State) (n opc : Nat) (x : LdtConn) (d : Nat) (rest : List (Nat × Nat)) (u : State) (kind : ReqKind) (r : Req)
    (t : Nat) (v : State) (k : Nat) (l : RepLink) : Prop :=
  s.LbcTurn n opc x d rest u ∧ r = u.capReq n x d kind 6 ∧ (t, v) = u.newReq r (u.liveVol r.vol).isSome ∧ v.headKnown x d = true ∧
    (v.unit (unitKey Blk.REP 0)).enable = true ∧ (v.liveVol r.vol).isNone = false ∧ v.sourceLink r.vol = some (k, l)

/-- An access of a mailbox or lock register reaches it: through the window, where it is judged, or of the secure core and the update
engine through their own ports (R601). -/
abbrev State.MbxMay (s : State) (m slot off : Nat) (isWrite : Bool) : Prop :=
  ((m = 59 ∨ m = 60) ∧ (slot = Slot.MBX ∨ slot = Slot.MBX + 1 ∧ 0x510 ≤ off)) ∨
    (m ≠ 59 ∧ m ≠ 60 ∧ s.judge m slot off true isWrite = none)

/-- What the release of `PORST_N` leaves before the head boots: the time base from zero, its cause, and the event recorder's next epoch
(R15, R663, R678, R698, R707). -/
def State.powerOn (s : State) : State :=
  let u := (({ s with time := {}, pins := { s.pins with porstLow := false } } : State).setAll
    [(F.AON_RESET_CAUSE_CAUSE, 1), (F.AON_RESET_CAUSE_TRIP, b2n s.pins.tripLatch)]).bump F.AON_CNT_RESET_COUNT
  ({ u with pins := { u.pins with tripLatch := false } } : State).evrRestart

/-- A frame of a type that R519 finds sound is heard over the serial link; `u` is the state after the check. -/
abbrev State.WitHeard (s : State) (frame : List Nat) (typ : Nat) (f : WitFrame) (u : State) : Prop :=
  s.get F.LSE_WIT_CFG_SERIAL_EN = 1 ∧ s.witParse frame = (some f, u) ∧ f.typ = typ

/-- A hello (type 1) or LEAVE (type 2) passes R538 at a head that takes part; `u` is the state after its sequence number is held and it is
counted. -/
abbrev State.HelloSound (s : State) (l : List Nat) (typ : Nat) (x : FabHello) (u : State) : Prop :=
  s.fabMay = true ∧ s.get F.FAB_STAT_STATE ≠ 0 ∧ s.get F.FAB_STAT_STATE ≠ 4 ∧ l.getD 3 0 = typ ∧ x = helloOf l ∧
    (s.slotFor (s.get F.FAB_CFG_KEY_SLOT) 1).2.helloBad (s.slotFor (s.get F.FAB_CFG_KEY_SLOT) 1).1 l = false ∧
    u = ((s.slotFor (s.get F.FAB_CFG_KEY_SLOT) 1).2.modFab (fun f => { f with seqs := AL.put x.chip x.seq f.seqs })).bump F.FAB_CNT_HELLO_RX_COUNT

/-- The commands that may change a byte of memory: those that write a result, a page or an entry of the key store there, and those that
may reset the head. -/
def mayTouchMemory : Instr → Bool
  | .porstNAssert _ => true
  | .srstNAssert _ => true
  | .beatBoundary _ _ => true
  | .egressStallReset _ _ => true
  | .registerWrite _ _ _ _ => true
  | .pageReset _ _ _ _ => true
  | .sliceTagCheck _ _ _ _ _ _ => true
  | .deliveryEgress _ => true
  | .pfxRecArm _ _ _ _ _ => true
  | .pfxRecDisarm _ => true
  | .pfxRecordWindowEnd => true
  | .writeAcknowledge _ => true
  | .chunkRun _ _ => true
  | .brickStatusRx _ _ _ => true
  | .updateRecordApply _ _ => true
  | .createVat _ _ => true
  | .setVatOptions _ _ => true
  | .rekey _ _ => true
  | .freeze _ _ => true
  | .deleteVat _ _ => true
  | .createVolume _ _ => true
  | .resizeVolume _ _ => true
  | .setProfile _ _ => true
  | .deleteVolume _ _ => true
  | .redyeResume _ _ => true
  | .snpCreateGroup _ _ => true
  | .snpDelete _ _ => true
  | .snpClone _ _ _ => true
  | .tableCmdApply => true
  | .peerTablesRx _ _ _ => true
  | .volumeRefRelease _ _ => true
  | .checkpointWrite _ _ => true
  | .chunkRelease _ => true
  | .ftlRecover _ => true
  | .mdlLinkEnable _ _ _ => true
  | .mdlLinkRetrain _ _ => true
  | .mdlLinkDown _ _ => true
  | .linkRecoverTimeout _ => true
  | .mediaOpTimeout _ _ => true
  | .digestJobEnd _ => true
  | .nvmeConnectAdmin _ _ _ _ _ _ => true
  | .nvmeRead _ _ _ _ _ _ _ => true
  | .ldtHelloRx _ _ _ _ _ => true
  | .ldtAccept _ _ _ => true
  | .ldtRefuse _ _ _ => true
  | .ldtRefuseBusy _ _ _ => true
  | .ldtHelloRespRx _ _ _ _ => true
  | .ldtSendRx _ _ _ => true
  | .ldtWriteRx _ _ _ _ _ => true
  | .ldtReadReqRx _ _ _ _ => true
  | .ldtReadRespRx _ _ _ => true
  | .ldtAckRx _ _ _ _ _ _ => true
  | .ldtCloseRx _ _ => true
  | .ldtMsgFailRx _ _ _ _ => true
  | .ldtKeepaliveRx _ _ => true
  | .ldtConnClose _ _ _ => true
  | .ldtConnRekey _ _ _ => true
  | .ldtRekeyDue _ => true
  | .ldtKeepaliveSend _ => true
  | .ldtIdleTimeout _ => true
  | .ldtMsgTimeout _ _ _ => true
  | .ldtRxMsgTimeout _ _ _ => true
  | .ldtPathReturn _ _ => true
  | .ldtCtxFetchDone _ => true
  | .lbcRead _ => true
  | .lbcDeallocate _ => true
  | .lbcGetDeferred _ => true
  | .lbcRepRecipe _ => true
  | .lbcRepChunks _ => true
  | .lseModeReqService _ => true
  | .handoverDrained => true
  | .lseModeReqServiceRelease _ => true
  | .lseModeReqReboot _ => true
  | .peerModeRx _ _ _ _ _ _ => true
  | .peerLossTimeout => true
  | .peerKeyWrapRx _ _ => true
  | .peerHandoverRx => true
  | .leaseRenewDue _ => true
  | .witnessRetry _ => true
  | .witnessGrantRx _ => true
  | .witnessWaitRx _ => true
  | .witnessWaitExpire _ => true
  | .witnessDenyRx _ => true
  | .witnessStatusRx _ => true
  | .witnessReleasedRx _ => true
  | .witnessReportSend => true
  | .homeAcquire => true
  | .bootWaitExpire => true
  | .fencedProbe => true
  | .handbackRelease => true
  | .rubTest _ _ => true
  | .lseWitRxWrite _ _ => true
  | .fabHelloSend => true
  | .fabHelloRx _ => true
  | .fabLeaveRx _ => true
  | .fabMemberMiss _ => true
  | .fabPlaceSwap => true
  | .fabFetchTimeout _ => true
  | .repPollDue _ => true
  | .firmwareStart _ _ => true
  | .settingsMigrate _ _ _ => true
  | .installVatKey => true
  | .removeVatKey => true
  | .installSlot => true
  | .importKek _ _ _ _ => true
  | .removeSlot => true
  | .saltExport => true
  | .saltImport => true
  | .installFabricSalt => true
  | .setPairKey => true
  | .quote => true
  | .identity => true
  | .random => true
  | .hmac => true
  | .dbgToken _ => true
  | .dbgMem _ _ _ => true
  | .mbxTake _ _ => true
  | .updBegin => true
  | .updBlocks => true
  | .updVerify _ => true
  | .updSchedule => true
  | .updCancel => true
  | .updConfirm => true
  | .updStatus => true
  | .updSettings => true
  | .updFuse => true
  | .updActivateCheck => true
  | .updTrialTimeout => true
  | .kslRead _ => true
  | .pwrDomSetState _ _ _ => true
  | .pwrDomResetCores _ _ _ => true
  | .pwrEntryQuiesced _ _ => true
  | .pwrExitDone => true
  | .autoIdleEnter _ => true
  | .autoIdleExit _ => true
  | .dozeExitDone => true
  | .clkRefLoss _ => true
  | .pfailRecognised _ _ _ => true
  | .aonSrstReq _ => true
  | .fatalResetTimer => true
  | .thermalTrip _ _ => true
  | .tstEyeDone _ _ => true
  | .supplyLoss _ => true
  | _ => false

/-- The commands that may change a fuse row: the fuse commands, the fuse check after a reset, and the writes that reach
`SEC_FUSE_PROG`. -/
def mayTouchFuses : Instr → Bool
  | .porstNRelease _ => true
  | .srstNRelease _ => true
  | .internalReset _ => true
  | .registerWrite _ _ _ _ => true
  | .fuseSvnD _ _ => true
  | .fuseSvnI _ _ => true
  | .fuseRootI _ _ _ => true
  | .fuseDebugDisable _ _ => true
  | .fuseDebugRoot _ _ => true
  | .dbgMem _ _ _ => true
  | _ => false

end Sys2Proof.Machine
end

