-- ==== Sys2Proof/Certificates/Slice0/Obligations.lean ====
section
/-! DEFINITION. The statements about the head: what each family of commands does, and what every step keeps. -/

open Sys2Proof Sys2Proof.Machine

/-- A step runs the command at the front of the queue on the queue's rest, and idles on an empty queue (rests on spec/00_scope.md, log entry 2). -/
def Obligations.StepRunsTheFrontCommand : Prop :=
  (∀ (c : Instr) (s : State), step (s.push c) = exec c s) ∧
  (∀ (c : Instr) (q : List Instr) (s : State), s.pending = c :: q → step s = exec c (s.withQueue q)) ∧
  (∀ s : State, s.pending = [] → step s = .next s)

/-- Every command answers a next state in every state: none ends in a fault or a refusal (rests on spec/00_scope.md, spec/02_register_pages.md). -/
def Obligations.EveryCommandCompletes : Prop :=
  (∀ (c : Instr) (s : State), ∃ t, exec c s = .next t)

/-- No command adds to, drops from or reorders the waiting commands (rests on spec/00_scope.md, log entry 2). -/
def Obligations.QueueOnlyShrinksByTheFront : Prop :=
  (∀ (c : Instr) (s t : State), exec c s = .next t → t.pending = s.pending) ∧
  (∀ s t : State, step s = .next t → t.pending = s.pending.tail)

/-- Every step keeps the canonical form of memory, from every state that has it (rests on spec/02_register_pages.md, log entry 51). -/
def Obligations.MemoryKeepsItsForm : Prop :=
  (∀ s t : State, s.MemOk → step s = .next t → t.MemOk)

/-- After reset the memory lists nothing, which is its canonical form (rests on spec/02_register_pages.md, log entry 51). -/
def Obligations.ResetMemoryHasItsForm : Prop :=
  (State.reset.MemOk ∧ State.reset.mem = [] ∧ State.reset.pending = [])

/-- Commands outside a named list leave every byte of memory unchanged (rests on R61, R588, spec/02_register_pages.md). -/
def Obligations.MemoryFrame : Prop :=
  (∀ (c : Instr) (s t : State), mayTouchMemory c = false → exec c s = .next t → ∀ a, Mem.rd a t.mem = Mem.rd a s.mem)

/-- No step clears a blown fuse, rewrites the root or lowers a security version (rests on R570, R571, R577, spec/14_secure_core_and_keys.md). -/
def Obligations.FusesOnlyAdvance : Prop :=
  (∀ s t : State, step s = .next t → Fuses.Upto s.sec.fuses t.sec.fuses)

/-- Only the fuse commands, the fuse check after a reset and writes that reach SEC_FUSE_PROG change a fuse row (rests on R571, R598, spec/14_secure_core_and_keys.md). -/
def Obligations.FusesChangeOnlyByTheirCommands : Prop :=
  (∀ (c : Instr) (s t : State), mayTouchFuses c = false → exec c s = .next t → t.sec.fuses = s.sec.fuses)

/-- The first check of R716 that applies decides a control-window access; the last performs it (R63, R64, R70, R96, R100, R716). -/
def Obligations.WindowAccessIsJudgedInOrder : Prop :=
  (∀ (s : State) (m slot off : Nat) (z w : Bool), pageOf slot = none → s.judge m slot off z w = some (s.answer 0)) ∧
  (∀ (s : State) (m slot off : Nat) (z w : Bool) (p : Nat × Nat × Nat), pageOf slot = some p →
    (z = false ∨ off % 8 ≠ 0) → s.judge m slot off z w = some ((s.answer 0).deny slot Cond.ACCESS_SIZE_REFUSED)) ∧
  (∀ (s : State) (m slot off : Nat) (w : Bool) (p : Nat × Nat × Nat), pageOf slot = some p → off % 8 = 0 →
    s.secureMaster m = false → (slotSecure slot = true ∨ (w = true ∧ off = 0x50)) →
    s.judge m slot off true w = some ((s.answer 0).deny slot Cond.SECURE_ACCESS_DENIED)) ∧
  (∀ (s : State) (m slot off : Nat) (w : Bool) (p : Nat × Nat × Nat), pageOf slot = some p → off % 8 = 0 →
    (s.secureMaster m = true ∨ (slotSecure slot = false ∧ ¬ (w = true ∧ off = 0x50))) →
    s.domUp (slotDomain slot) = false →
    s.judge m slot off true w = some ((s.answer (if w = false ∧ off = 0 then s.pageId slot else 0)).raise Slot.NOC Cond.PAGE_DOMAIN_OFF)) ∧
  (∀ (s : State) (m slot off : Nat) (p : Nat × Nat × Nat), pageOf slot = some p → off % 8 = 0 →
    s.secureMaster m = false → slotSecure slot = false → off ≠ 0x50 → s.domUp (slotDomain slot) = true → 0x10 ≤ off →
    (s.hdr slot).locked = true → bitOf (s.hdr slot).writers (lockGroup m - 1) = false →
    s.judge m slot off true true = some (s.deny slot Cond.PAGE_LOCK_REFUSED)) ∧
  (∀ (s : State) (m slot off : Nat) (w : Bool) (p : Nat × Nat × Nat) (f : State → State), pageOf slot = some p →
    off % 8 = 0 → (s.secureMaster m = true ∨ (slotSecure slot = false ∧ ¬ (w = true ∧ off = 0x50))) →
    s.domUp (slotDomain slot) = true →
    (w = false ∨ off < 0x10 ∨ (s.hdr slot).locked = false ∨ s.secureMaster m = true ∨ bitOf (s.hdr slot).writers (lockGroup m - 1) = true) →
    s.judge m slot off true w = none ∧ (w = true → s.busWr m slot off f = f s) ∧
    (w = false → s.busRd m slot off f = f s))

/-- Beat number b begins at time-base value 8,000 × b ns (R5). -/
def Obligations.BeatsAreEightMicroseconds : Prop :=
  (∀ (s : State) (b : Nat), s.beats = b ↔ 8000 * b * 65536 ≤ s.time.tbFx ∧ s.time.tbFx < 8000 * (b + 1) * 65536)

/-- A slot that holds no page reads as zero and ignores writes, and no condition is raised (R63). -/
def Obligations.EmptySlotsIgnoreWrites : Prop :=
  (∀ (m addr size slot off : Nat) (v : Word) (s : State), addr = 0x010000000000 + slot * 0x1000 + off → slot < 1024 →
    off < 0x1000 → pageOf slot = none → reaches m true = true →
    exec (.registerWrite m addr size v) s = .next (s.answer 0)) ∧
  (∀ (s : State) (m slot off : Nat) (f : State → State), pageOf slot = none → s.busRd m slot off f = s.answer 0 ∧
    s.busWr m slot off f = s.answer 0) ∧
  (∀ (s : State) (n : Nat), (s.answer n).fields = s.fields ∧ (s.answer n).pages = s.pages ∧ (s.answer n).mem = s.mem ∧
    (s.answer n).sent = s.sent ∧ (s.answer n).busData = BitVec.ofNat 64 n)

/-- Cycles move the time base, a backward hold keeps it, and one boundary runs at each crossing (rests on R14, R15, R24, R32, R38, spec/01_beat_and_time.md). -/
def Obligations.TimeBaseRuns : Prop :=
  (∀ (k2 k0 : Nat) (s : State), s.pwr.capture = none → s.time.holdLeft = none → s.pins.porstLow = false →
    (s.advance k2).beats = s.beats → exec (.beatBoundary k2 k0) s = .next ((s.advance k2).rtcEdges k0)) ∧
  (∀ (k2 k0 : Nat) (s : State), s.pwr.capture = none → s.time.holdLeft = none → s.pins.porstLow = false →
    (s.advance k2).beats = s.beats + 1 → ((s.advance k2).rtcEdges k0).blocksRun = true →
    exec (.beatBoundary k2 k0) s = .next (((s.advance k2).rtcEdges k0).boundary)) ∧
  (∀ (k2 : Nat) (s : State), s.time.rate = 0 → (s.advance k2).time.tbFx = s.time.tbFx + k2 * 131072 ∧
    (s.advance k2).time.k2 = s.time.k2 + k2) ∧
  (∀ (k2 h : Nat) (s : State), s.time.holdLeft = some h → ∃ t, exec (.stepHoldEnd k2) s = .next t ∧
    t.time.k2 = s.time.k2 + k2 ∧ t.time.tbFx = s.time.tbFx ∧
    (2 * k2 < h → t.time.holdLeft = some (h - 2 * k2) ∧ t.get F.BEAT_STAT_STEP_ACTIVE = s.get F.BEAT_STAT_STEP_ACTIVE) ∧
    (h ≤ 2 * k2 → t.time.holdLeft = none ∧ t.get F.BEAT_STAT_STEP_ACTIVE = 0)) ∧
  (∀ (m : Nat) (s : State), s.judge m Slot.BEAT 0x100 true false = none → ∃ t, exec (.beatTbRead m) s = .next t ∧
    t.busData = BitVec.ofNat 64 s.tb ∧ t.get F.BEAT_TB_FRAC_FRAC = s.tbFrac % 2 ^ 16 ∧ t.time = s.time)

/-- Beat marks measure the peer's time, and PTP locks after sixteen good offsets (rests on R22, R23, R24, R27, R30, R36, R512, spec/01_beat_and_time.md). -/
def Obligations.PeerTimeAlignment : Prop :=
  (∀ s : State, s.maySend .peer 3 = true → ∃ t, exec .beatMarkExchange s = .next t ∧ t.time.markT1 = some s.tb) ∧
  (∀ (t1 : Nat) (s : State), exec (.peerBeatMarkRx t1) s = .next (s.sendPeer 4 0 [t1, s.tb, s.tb, s.get F.BEAT_WALL_OFS_NS, s.get F.BEAT_STAT_COARSE])) ∧
  (∀ (t1 t2 t3 w : Nat) (coarse : Bool) (s : State), s.time.markT1 = some t1 → s.get F.BEAT_STAT_SOURCE = 1 →
    (s.unit (unitKey Blk.ADM 0)).enable = true →
    (beatOffset t1 t2 t3 s.tb (sgn 32 (s.get F.BEAT_PEER_ASYM_NS))).natAbs ≤ 200 →
    ∃ t, exec (.peerBeatReplyRx t1 t2 t3 w coarse) s = .next t ∧ t.time.markT1 = none ∧ t.time.peerCoarse = coarse ∧
    t.time.slewLeft = beatOffset t1 t2 t3 s.tb (sgn 32 (s.get F.BEAT_PEER_ASYM_NS)) ∧ t.time.tbFx = s.time.tbFx ∧
    t.get F.BEAT_STAT_ALIGN_LOST = 0 ∧ t.get F.BEAT_STAT_COARSE = 0 ∧ t.get F.BEAT_UNC_NS = 0) ∧
  (∀ (port dom t1 t4 : Nat) (s : State), s.get F.BEAT_CFG_PTP_EN = 1 → port = s.get F.BEAT_CFG_PTP_PORT →
    dom = s.get F.BEAT_CFG_PTP_DOMAIN → (s.ptpOffset t1 t4).natAbs ≤ 1000 → ∃ t, exec (.ptpSyncRx port dom true t1 t4) s = .next t ∧
    t.time.ptpSyncBeat = some s.beat ∧ t.time.ptpGood = min 16 (s.time.ptpGood + 1) ∧ t.time.ptpTx = s.ptpStamp ∧
    (15 ≤ s.time.ptpGood → t.get F.BEAT_STAT_PTP_LOCK = 1) ∧
    (s.time.ptpGood < 15 → t.get F.BEAT_STAT_PTP_LOCK = s.get F.BEAT_STAT_PTP_LOCK)) ∧
  (∀ (t1 t4 : Nat) (s : State), s.get F.BEAT_CFG_PTP_EN = 1 → 1000 < (s.ptpOffset t1 t4).natAbs →
    ∃ t, exec (.ptpSyncRx (s.get F.BEAT_CFG_PTP_PORT) (s.get F.BEAT_CFG_PTP_DOMAIN) true t1 t4) s = .next t ∧
    t.time.ptpGood = 0 ∧ t.get F.BEAT_STAT_PTP_LOCK = 0) ∧
  (∀ s : State, s.ptpRecent = false → ∃ t, exec .ptpSyncTimeout s = .next t ∧ t.time.ptpGood = 0 ∧
    t.get F.BEAT_STAT_PTP_LOCK = 0)

/-- Late requests are recorded once and read oldest first; a connection that stalls too long is reset (rests on R54, R55, R58, spec/01_beat_and_time.md). -/
def Obligations.LateWorkIsShown : Prop :=
  (∀ (tag : Nat) (s : State) (r : Req), s.req tag = some r → r.judged = true → r.escalated = false →
    r.deadline + 256 < s.beat → s.adm.lateQ.length < 256 →
    exec (.budgetEscalated tag) s = .next (let u := s.modReq tag (fun r => { r with escalated := true, late := true }); (({ u with adm := { u.adm with egress := s.adm.egress.map (fun e => if e.tag = tag then { e with escalated := true } else e), lateQ := s.adm.lateQ ++ [⟨r.cls, s.lateStage r, min 65535 (s.beat - r.deadline), tag⟩] } } : State).irq Slot.ADM 1).raise Slot.ADM Cond.BUDGET_ESCALATED tag)) ∧
  (∀ (m : Nat) (s : State) (r : LateRec) (q : List LateRec), s.judge m Slot.ADM 0x110 true false = none →
    s.adm.lateQ = r :: q → ∃ t, exec (.admLateQRead m) s = .next t ∧ t.busData = BitVec.ofNat 64 r.word ∧
    t.adm.lateQ = q ∧ t.fields = s.fields ∧ t.mem = s.mem) ∧
  (∀ (c : Nat) (s : State), 4096 < s.stallOf true c →
    exec (.egressStallReset true c) s = .next ((((s.raise Slot.ADM Cond.EGRESS_STALL_RESET c).satInc F.ADM_STAT_EGRESS_RESETS 1).sample 32 (s.stallOf true c)).connEnd c true [])) ∧
  (∀ (c : Nat) (s : State), 4096 < s.stallOf false c →
    exec (.egressStallReset false c) s = .next (((((s.raise Slot.ADM Cond.EGRESS_STALL_RESET c).satInc F.ADM_STAT_EGRESS_RESETS 1).sample 32 (s.stallOf false c)).bump (F.LDT_CNT_STALL_RESET_COUNT (ldtUnit c))).ldtClose c true))

/-- A write reaches memory, a page of the control window, or nothing (rests on R61, R62, R588, R716, spec/02_register_pages.md). -/
def Obligations.RegisterWriteReachesItsPlace : Prop :=
  (∀ (m addr size : Nat) (v : Word) (s : State), addr < 0x003000000000 → s.protHit addr = false →
    exec (.registerWrite m addr size v) s = .next (s.wrLE addr (min size 8) v.toNat)) ∧
  (∀ (m addr size : Nat) (v : Word) (s : State), addr < 0x003000000000 → s.protHit addr = true →
    s.secureMaster m = false → exec (.registerWrite m addr size v) s = .next (s.protRefuse m addr)) ∧
  (∀ (m addr size : Nat) (v : Word) (s : State), inWindow addr = true → reaches m true = true →
    exec (.registerWrite m addr size v) s = .next (s.winWrite m addr size v.toNat)) ∧
  (∀ (m addr size : Nat) (v : Word) (s : State), 0x003000000000 ≤ addr → inWindow addr = false →
    (addr < 0x020000000000 ∨ 0x020000800000 ≤ addr) →
    exec (.registerWrite m addr size v) s = .next ((s.send (.core m) 2 [addr]).raise Slot.NOC Cond.BUS_UNMAPPED))

/-- PAGE_CTL enables, quiesces, disables and resets a unit as its state allows (rests on R73, R74, R75, R76, spec/02_register_pages.md). -/
def Obligations.UnitsEnableAndQuiesce : Prop :=
  (∀ (m slot : Nat) (q : Bool) (s : State), s.judge m slot 0x10 true true = none → (s.unit (unitOfSlot slot)).enable = false → s.enableBad (unitOfSlot
    slot / 256) (unitOfSlot slot % 256) = none → exec (.pageEnable m slot q) s = .next (s.setUnit (unitOfSlot slot) ⟨true, false, false⟩)) ∧
  (∀ (m slot : Nat) (q : Bool) (s : State), s.judge m slot 0x10 true true = none → (s.unit (unitOfSlot slot)).enable = true → exec (.pageEnable m slot q)
    s = .next (s.setUnit (unitOfSlot slot) ⟨true, q, (s.unit (unitOfSlot slot)).quiesced && q⟩)) ∧
  (∀ (m slot : Nat) (s : State), s.judge m slot 0x10 true true = none → (s.unit (unitOfSlot slot)).enable = true → exec (.pageQuiesce m slot) s = .next
    (s.setUnit (unitOfSlot slot) ⟨true, true, (s.unit (unitOfSlot slot)).quiesced⟩)) ∧
  (∀ (m slot : Nat) (s : State), s.judge m slot 0x10 true true = none → (s.unit (unitOfSlot slot)).enable = true → (s.unit (unitOfSlot slot)).quiesced =
    true → exec (.pageDisable m slot) s = .next (s.setUnit (unitOfSlot slot) { s.unit (unitOfSlot slot) with enable := false })) ∧
  (∀ (m slot : Nat) (s : State), s.judge m slot 0x10 true true = none → (s.unit (unitOfSlot slot)).enable = true → (s.unit (unitOfSlot slot)).quiesced =
    false → exec (.pageDisable m slot) s = .next (s.raise slot Cond.DISABLE_NOT_QUIESCED)) ∧
  (∀ (code u : Nat) (s : State), (s.unit (unitKey code u)).enable = true → (s.unit (unitKey code u)).quiesce = true → s.unitBusy code u = false → exec
    (.instanceQuiesced code u) s = .next (s.setUnit (unitKey code u) { s.unit (unitKey code u) with quiesced := true })) ∧
  (∀ (m slot c i p : Nat) (en qu : Bool) (s : State), s.judge m slot 0x10 true true = none → pageOf slot = some (c, i, p) → (s.unit (unitKey c i)).enable
    = true → exec (.pageReset m slot en qu) s = .next (s.raise slot Cond.RESET_WHILE_ENABLED)) ∧
  (∀ (m slot c i p : Nat) (qu : Bool) (s : State), s.judge m slot 0x10 true true = none → pageOf slot = some (c, i, p) → (s.unit (unitKey c i)).enable =
    false → unitOfSlot slot = unitKey c i → ((s.unitReset c i).unit (unitKey c i)).enable = false → exec (.pageReset m slot false qu) s = .next
    (s.unitReset c i)) ∧
  (∀ (m slot c : Nat) (q : Bool) (s : State), s.judge m slot 0x10 true true = none → (s.unit (unitOfSlot slot)).enable = false → s.enableBad (unitOfSlot
    slot / 256) (unitOfSlot slot % 256) = some c → exec (.pageEnable m slot q) s = .next (s.raise slot c) ∧ exec (.pageQuiesce m slot) s = .next
    (s.raise slot c)) ∧
  (∀ (m slot c i p : Nat) (en qu : Bool) (s : State), s.judge m slot 0x10 true true = none → pageOf slot = some (c, i, p) → (s.unit (unitKey c i)).enable
    = false → exec (.pageReset m slot en qu) s = .next ((s.unitReset c i).pageCtl slot en qu))

/-- Commit asks, discard drops shadows, the error queue is read oldest first, a lock sets and stays (rests on R11, R79, R80, R83, R99, R100,
R667, spec/02_register_pages.md). -/
def Obligations.HeadersCommitAndAcknowledge : Prop :=
  (∀ (m slot : Nat) (q : Nat × Nat × Nat) (s : State), s.judge m slot 0x20 true true = none → pageOf slot = some q → exec (.pageCommit m slot false) s =
    .next (s.modHdr slot (fun h => { h with commitPending := true }))) ∧
  (∀ (m slot : Nat) (q : Nat × Nat × Nat) (s : State), s.judge m slot 0x20 true true = none → pageOf slot = some q → ∃ t, exec (.pageDiscard m slot
    false) s = .next t ∧ t.fields = s.fields ∧ t.shadows = s.shadows.filter (fun p => keySlot p.1 != slot) ∧ (t.hdr slot).commitPending = false ∧
    (t.hdr slot).shadowDirty = false) ∧
  (∀ (m slot : Nat) (s : State), 58 < m → s.judge m slot 0x28 true false = none → exec (.pageErrqRead m slot) s = .next (s.answer (s.hdr slot).errqWord)) ∧
  (∀ (m slot : Nat) (s : State) (e : ErrEntry) (q : List ErrEntry), m ≤ 58 → s.judge m slot 0x28 true false = none → (s.hdr slot).errq = e :: q → ∃ t,
    exec (.pageErrqRead m slot) s = .next t ∧ t.busData = BitVec.ofNat 64 (e.word (q.length + 1)) ∧ (t.hdr slot).errq = { e with handled := true } ::
    q) ∧
  (∀ (m slot : Nat) (s : State), s.judge m slot 0x30 true true = none → ∃ t, exec (.pageErrqAck m slot) s = .next t ∧ (t.hdr slot).errq = (s.hdr
    slot).errq.tail) ∧
  (∀ (m slot w : Nat) (s : State), s.judge m slot 0x50 true true = none → exec (.pageLockSet m slot w) s = .next (s.modHdr slot (fun h =>
    { h with writers := if h.locked then h.writers else w % 128, locked := true }))) ∧
  (∀ (m slot c i p : Nat) (s : State), s.judge m slot 0x20 true true = none → pageOf slot = some (c, i, p) → exec (.pageCommit m slot true) s = .next
    ((unitSlots c i).foldl (fun s p => s.modHdr p (fun h => { h with commitPending := true })) s) ∧ exec (.pageDiscard m slot true) s = .next
    (s.dropShadows (unitSlots c i)))

/-- A claim puts the best pending interrupt in service, done takes it out, and routes are checked (rests on R88, R89, R90, R92, R94, spec/02_register_pages.md). -/
def Obligations.InterruptRouterServes : Prop :=
  (∀ (m slot : Nat) (s : State), s.judge m Slot.IRT 0x100 true false = none → s.claimable m = some slot →
    ∃ t, exec (.irtClaim m) s = .next t ∧
    t.busData = BitVec.ofNat 64 (2 ^ 63 + s.get (F.IRT_ROUTE_PRIORITY slot) * 1024 + slot) ∧
    t.irt = { s.irt with inService := s.irt.inService ++ [(slot, m)] } ∧ t.fields = s.fields ∧ t.pages = s.pages) ∧
  (∀ (m : Nat) (s : State), s.judge m Slot.IRT 0x100 true false = none → s.claimable m = none →
    exec (.irtClaim m) s = .next (s.answer 0)) ∧
  (∀ (m slot : Nat) (s : State), s.judge m Slot.IRT 0x108 true true = none → s.irt.inService.contains (slot, m) = true →
    exec (.irtDone m slot) s = .next { s with irt := { s.irt with inService := s.irt.inService.filter (fun p => p != (slot, m)) } }) ∧
  (∀ (m slot : Nat) (s : State), s.judge m Slot.IRT 0x108 true true = none →
    s.irt.inService.contains (slot, m) = false →
    exec (.irtDone m slot) s = .next (s.raise Slot.IRT Cond.IRT_DONE_MISMATCH)) ∧
  (∀ (m r : Nat) (v : Word) (s : State), s.judge m (Slot.IRT + routePage r) (routeOff r) true true = none →
    (slotSecure r = false ∨ s.secureMaster m = true) → 1 ≤ bitsOf v.toNat 0 6 → bitsOf v.toNat 0 6 ≤ 58 →
    exec (.irtRouteWrite m r v) s = .next (s.setAll [(F.IRT_ROUTE_TARGET r, bitsOf v.toNat 0 6), (F.IRT_ROUTE_PRIORITY r, bitsOf v.toNat 11 3), (F.IRT_ROUTE_WAKE r, bitsOf v.toNat 14 1)])) ∧
  (∀ (m r : Nat) (v : Word) (s : State), s.judge m (Slot.IRT + routePage r) (routeOff r) true true = none →
    (slotSecure r = false ∨ s.secureMaster m = true) → (bitsOf v.toNat 0 6 < 1 ∨ 58 < bitsOf v.toNat 0 6) →
    exec (.irtRouteWrite m r v) s = .next (s.raise (Slot.IRT + routePage r) Cond.IRT_ROUTE_INVALID))

/-- A read resolves; a slow one is shown, resumed or ended as the firmware answers (rests on R104, R113, R114, R115, R116, R145,
spec/03_read_path.md). -/
def Obligations.ReadsResolveOrEnd : Prop :=
  (∀ (tag : Nat) (words : List (Nat × Nat)) (s : State) (r : Req), s.req tag = some r → r.readLike = true → (r.stage = .resolving ∨ r.stage = .held) →
    exec (.readCommand tag words) s = .next (s.resolve tag (badWords words)).wakeHeld) ∧
  (∀ (m : Nat) (s : State) (q : SlowRec) (l : List SlowRec), s.judge m Slot.RDP 0x120 true false = none → s.read.slowQ = q :: l → ∃ t, exec
    (.rdpSlowQRead m) s = .next t ∧ t.busData = BitVec.ofNat 64 (2 ^ 63 + q.reason * 2 ^ 56 + q.vol * 2 ^ 40 + q.tag) ∧ t.read.slowQ = l ∧ t.get
    F.RDP_SLOW_INFO_LBA = q.lba % 2 ^ F.RDP_SLOW_INFO_LBA.w) ∧
  (∀ (m tag n : Nat) (s : State) (r : Req), s.judge m Slot.RDP 0x130 true true = none → s.req tag = some r → r.stage = .slow n → exec (.rdpResumeRetry m
    tag) s = .next ((((s.modRead (fun r => { r with slowQ := r.slowQ.filter (fun q => q.tag != tag) })).slowIrq.modReq tag (fun r =>
    { r with stage := .resolving }))).resolve tag [])) ∧
  (∀ (m tag n : Nat) (s : State) (r : Req), s.judge m Slot.RDP 0x130 true true = none → s.req tag = some r → r.stage = .slow n → exec
    (.rdpResumeFailMedia m tag) s = .next (((s.modRead (fun r => { r with slowQ := r.slowQ.filter (fun q => q.tag != tag) })).slowIrq.readFail tag
    Cond.MEDIA_INTEGRITY 0).wakeHeld)) ∧
  (∀ (m tag n : Nat) (s : State) (r : Req), s.judge m Slot.RDP 0x130 true true = none → s.req tag = some r → r.stage = .slow n → exec (.rdpResumeFailKey
    m tag) s = .next (((s.modRead (fun r => { r with slowQ := r.slowQ.filter (fun q => q.tag != tag) })).slowIrq.readFail tag Cond.VAT_KEY_ABSENT
    0).wakeHeld)) ∧
  (∀ (m tag n : Nat) (s : State) (r : Req), s.judge m Slot.RDP 0x130 true true = none → s.req tag = some r → r.stage = .slow n → exec
    (.rdpResumeFailInternal m tag) s = .next (((s.modRead (fun r => { r with slowQ := r.slowQ.filter (fun q => q.tag != tag) })).slowIrq.readFail tag
    Cond.READ_INTERNAL_ERROR 0).wakeHeld)) ∧
  (∀ (tag n : Nat) (s : State) (r : Req), s.req tag = some r → r.stage = .slow n → 0 < s.get F.RDP_SLOW_TMO_BEATS → r.slowSince + s.get
    F.RDP_SLOW_TMO_BEATS < s.beat → exec (.readSlowTimeout tag) s = .next ((((s.modRead (fun x =>
    { x with slowQ := x.slowQ.filter (fun q => q.tag != tag) })).slowIrq.readFail tag Cond.READ_SLOW_TIMEOUT 0)).wakeHeld)) ∧
  (∀ (m : Nat) (s : State), s.judge m Slot.RDP 0x120 true false = none → s.read.slowQ = [] → exec (.rdpSlowQRead m) s = .next (s.answer 0)) ∧
  (∀ (m tag : Nat) (s : State), s.judge m Slot.RDP 0x130 true true = none → (∀ r n, s.req tag = some r → r.stage ≠ .slow n) → exec (.rdpResumeRetry m
    tag) s = .next (s.raise Slot.RDP Cond.RDP_RESUME_MISMATCH tag) ∧ exec (.rdpResumeFailMedia m tag) s = .next (s.raise Slot.RDP
    Cond.RDP_RESUME_MISMATCH tag) ∧ exec (.rdpResumeFailKey m tag) s = .next (s.raise Slot.RDP Cond.RDP_RESUME_MISMATCH tag) ∧ exec
    (.rdpResumeFailInternal m tag) s = .next (s.raise Slot.RDP Cond.RDP_RESUME_MISMATCH tag))

/-- A metadata page arrives, is read again or given up as its check says, is given to and taken from the peer, and an invalidation begins, ends
and is refused while one runs (rests on R107, R108, R109, R166, R167, R260, R266, spec/03_read_path.md, log entry 163). -/
def Obligations.MetadataPagesArrive : Prop :=
  (∀ (page : Nat) (words : List (Nat × Nat)) (s : State) (g : MetaPage), s.metaPage false page = some g → g.fetching = true → g.queued = false → g.left =
    0 → g.bad = false → exec (.mapPageFetchDone page true words) s = .next (s.metaHere false page (badWords words))) ∧
  (∀ (page : Nat) (s : State) (g : MetaPage), s.metaPage true page = some g → g.fetching = true → g.queued = false → g.left = 0 → g.bad = false → exec
    (.ctbPageFetchDone page true) s = .next (s.metaHere true page [])) ∧
  (∀ (page : Nat) (ctb ok : Bool) (words : List (Nat × Nat)) (c : Instr) (s : State) (g : MetaPage), (c, ctb) ∈ [(Instr.mapPageFetchDone page ok words,
    false), (.ctbPageFetchDone page ok, true)] → s.metaPage ctb page = some g → g.fetching = true → g.queued = false → g.left = 0 → ok = false ∨ g.bad
    = true → g.again = false → exec c s = .next (((s.raise Slot.FTL Cond.META_CHECK_FAIL page).modMeta ctb page (fun g =>
    { g with bad := false, again := true })).metaRead ctb page true)) ∧
  (∀ (page : Nat) (ctb ok : Bool) (words : List (Nat × Nat)) (c : Instr) (s : State) (g : MetaPage), (c, ctb) ∈ [(Instr.mapPageFetchDone page ok words,
    false), (.ctbPageFetchDone page ok, true)] → s.metaPage ctb page = some g → g.fetching = true → g.queued = false → g.left = 0 → ok = false ∨ g.bad
    = true → g.again = true → exec c s = .next (((s.modMeta ctb page (fun g => { g with fetching := false, broken := true })).metaNext
    ctb).resolveWaiting [])) ∧
  (∀ (ctb : Bool) (key : Nat) (s : State) (g : MetaPage), s.metaPage ctb key = some g → g.resident = true → exec (.peerPageReqRx ctb key) s = .next
    (s.sendPeer 0x15 3 [b2n ctb, key, 1, g.top, s.metaBytes (if ctb then 2 else 1) key])) ∧
  (∀ (ctb : Bool) (key : Nat) (s : State), s.metaPage ctb key = none ∨ (∃ g, s.metaPage ctb key = some g ∧ g.resident = false) → exec (.peerPageReqRx ctb
    key) s = .next (s.sendPeer 0x15 3 [b2n ctb, key, 0, 0])) ∧
  (∀ (key stamp : Nat) (maps : List (Nat × MapEnt)) (chunks : List (Nat × CtbEnt)) (s : State) (g : MetaPage), s.metaPage true key = some g → g.fetching
    = true → exec (.peerPageDataRx true key true stamp maps chunks) s = .next (((s.modMeta true key (fun g =>
    { g with stamp := stamp, top := max g.top stamp })).ctbCame stamp chunks).metaHere true key [])) ∧
  (∀ (key stamp : Nat) (maps : List (Nat × MapEnt)) (chunks : List (Nat × CtbEnt)) (s : State) (g : MetaPage), s.metaPage false key = some g → g.fetching
    = true → exec (.peerPageDataRx false key true stamp maps chunks) s = .next (((s.modMeta false key (fun g =>
    { g with stamp := stamp, top := max g.top stamp })).mapCame key stamp maps).metaHere false key [])) ∧
  (∀ (ctb : Bool) (key stamp : Nat) (maps : List (Nat × MapEnt)) (chunks : List (Nat × CtbEnt)) (s : State) (g : MetaPage), s.metaPage ctb key = some g →
    g.fetching = true → s.leafHere (metaLeaf ctb key) = true → exec (.peerPageDataRx ctb key false stamp maps chunks) s = .next (s.metaRead ctb key
    false)) ∧
  (∀ (m vol : Nat) (all : Bool) (s : State), s.judge m Slot.MAP 0x130 true true = none → s.read.mapInval = none → exec (.mapInval m vol all) s = .next
    (((s.modRead (fun r => { r with mapInval := some (if all then none else some vol) })).set F.MAP_INVAL_STAT_BUSY 1).mapPass (if all then none else
    some vol))) ∧
  (∀ (m vol : Nat) (all : Bool) (s : State), s.judge m Slot.MAP 0x130 true true = none → s.read.mapInval.isSome = true → exec (.mapInval m vol all) s =
    .next (s.raise Slot.MAP Cond.MAP_INVAL_BUSY)) ∧
  (∀ (v : Option Nat) (s : State), s.read.mapInval = some v → (s.mapPass v).read.mapPages.any (mapNamed v) = false → exec .mapInvalDone s = .next
    ((((s.mapPass v).modRead (fun r => { r with mapInval := none })).set F.MAP_INVAL_STAT_BUSY 0).irq Slot.MAP 1)) ∧
  (∀ (m vat : Nat) (all : Bool) (s : State), s.judge m Slot.RCH 0x128 true true = none → s.read.rchInval = none → exec (.rchInval m vat all) s = .next
    (((s.modRead (fun r => { r with rchInval := some (if all then none else some vat) })).set F.RCH_INVAL_STAT_BUSY 1).rchPass (if all then none else
    some vat))) ∧
  (∀ (m vat : Nat) (all : Bool) (s : State), s.judge m Slot.RCH 0x128 true true = none → s.read.rchInval.isSome = true → exec (.rchInval m vat all) s =
    .next (s.raise Slot.RCH Cond.RCH_INVAL_BUSY)) ∧
  (∀ (v : Option Nat) (s : State), s.read.rchInval = some v → (s.rchPass v).read.rch.any (fun q => match v with | none => true | some x => q.2.vat == x)
    = false → exec .rchInvalDone s = .next ((((s.rchPass v).modRead (fun r => { r with rchInval := none })).set F.RCH_INVAL_STAT_BUSY 0).irq Slot.RCH
    1))

/-- A copy is checked under its header, key and slice room; an inflate job hands its data on or ends its read; ready data goes to the connection;
reconstructs and hedges start when they may (rests on R126, R127, R131, R132, R134, R136, R137, R138, R141, R395, R559,
spec/03_read_path.md). -/
def Obligations.SlicesDeliverReads : Prop :=
  (∀ (tag cid v g h : Nat) (ok : Bool) (s : State) (r : Req), s.req tag = some r → s.decrypts r = true → r.stage ≠ .completing → cid < 2 ^ 40 ∨ 2 ^ 52 ≤
    cid → s.copyReady r.tag cid = true → s.headerOk r cid v g h = true → KeyPass.chunk.allows (s.copyHandle r cid) = true → s.keyReady r.slice
    (s.copyHandle r cid) = true → (s.segRun r.slice [0] (.copy r.tag cid) (replyUnits (s.entOf r.tag cid).len) r.tag false).1 = true → exec
    (.sliceTagCheck tag cid v g h ok) s = .next ((((s.segRun r.slice [0] (.copy r.tag cid) (replyUnits (s.entOf r.tag cid).len) r.tag false).2.bump
    (F.DSL_CPH_CNT_SEG_COUNT r.slice) (replyUnits (s.entOf r.tag cid).len)).chunkChecked r cid ok).sliceDone tag)) ∧
  (∀ (tag cid v g h : Nat) (ok : Bool) (s : State) (r : Req), s.req tag = some r → s.decrypts r = true → r.stage ≠ .completing → cid < 2 ^ 40 ∨ 2 ^ 52 ≤
    cid → s.copyReady r.tag cid = true → s.headerOk r cid v g h = false → exec (.sliceTagCheck tag cid v g h ok) s = .next ((s.chunkChecked r cid
    false).sliceDone tag)) ∧
  (∀ (tag k v g h : Nat) (ok : Bool) (j : JRec) (s : State) (r : Req), s.req tag = some r → s.decrypts r = true → r.stage ≠ .completing → k < 2 ^ 52 - 2
    ^ 40 → AL.get k s.write.recs = some j → r.sources.any (fun q => q.2 == .journal k || q.2 == .peerJournal k) = true → r.recWait.contains k = false →
    KeyPass.record.allows (s.recHandle j) = true → s.keyReady r.slice (s.recHandle j) = true → (s.segRun r.slice [0] (.copy r.tag (recCid k)) 1 r.tag
    false).1 = true → exec (.sliceTagCheck tag (2 ^ 40 + k) v g h ok) s = .next ((((s.segRun r.slice [0] (.copy r.tag (recCid k)) 1 r.tag false).2.bump
    (F.DSL_CPH_CNT_SEG_COUNT r.slice)).recChecked r k ok).sliceDone tag)) ∧
  (∀ (tag cid bo ob u : Nat) (slow : Bool) (b : InflBind) (s : State) (r : Req), s.req tag = some r → r.kind = .read → r.stage ≠ .completing →
    r.compressed = false → (s.entOf r.tag cid).raw = false → r.verified.contains cid = true → r.sources.any (fun q => q.2 == (if 2 ^ 52 ≤ cid then
    .foreign cid else .chunk cid)) = true → s.inflOf r.slice tag = some (u, b) → ((s.entOf r.tag cid).inflated slow bo ob).cond = 0 → (s.unitRun
    r.slice u (s.sliceCycles r.slice / 1440) 6 (.copy tag cid) (((s.entOf r.tag cid).inflated slow bo ob).segs (s.entOf r.tag cid).orig) tag false).1 =
    true → exec (.inflateJobEnd tag cid slow bo ob) s = .next
    (let e := s.entOf r.tag cid; let x := e.inflated slow bo ob; let out := pieces e.orig x.out; let v := (s.unitRun r.slice u (s.sliceCycles r.slice / 1440) 6 (.copy tag cid) (x.segs e.orig) tag false).2; ((((v.bump (F.DSL_CMP_CNT_INFL_COUNT r.slice) (x.segs e.orig)).inflDone r.slice tag cid).stageData r cid out).handOn r (if 2 ^ 52 ≤ cid then .foreign cid else .chunk cid) { e with data := out }).sliceDone tag)) ∧
  (∀ (tag cid bo ob u : Nat) (slow : Bool) (b : InflBind) (s : State) (r : Req), s.req tag = some r → r.kind = .read → r.stage ≠ .completing →
    r.compressed = false → (s.entOf r.tag cid).raw = false → r.verified.contains cid = true → r.sources.any (fun q => q.2 == (if 2 ^ 52 ≤ cid then
    .foreign cid else .chunk cid)) = true → s.inflOf r.slice tag = some (u, b) → ((s.entOf r.tag cid).inflated slow bo ob).cond ≠ 0 → (s.unitRun
    r.slice u (s.sliceCycles r.slice / 1440) 6 (.copy tag cid) (((s.entOf r.tag cid).inflated slow bo ob).segs (s.entOf r.tag cid).orig) tag false).1 =
    true → exec (.inflateJobEnd tag cid slow bo ob) s = .next
    (let e := s.entOf r.tag cid; let x := e.inflated slow bo ob; let v := (s.unitRun r.slice u (s.sliceCycles r.slice / 1440) 6 (.copy tag cid) (x.segs e.orig) tag false).2; ((((v.bump (F.DSL_CMP_CNT_INFL_COUNT r.slice) (x.segs e.orig)).inflDone r.slice tag cid).inflFail r.slice (cid % 2 ^ 40) x.cond x.bit x.n).readFail tag Cond.MEDIA_INTEGRITY x.cond).wakeHeld)) ∧
  (∀ (tag c cid n k : Nat) (s : State) (r : Req), s.req tag = some r → r.stage ≠ .completing → (r.kind = .read → r.origin = .nvt c cid → exec
    (.deliveryEgress tag) s = .next (s.nvtDeliver c cid r)) ∧ (r.kind = .read → r.origin = .ldt n k → r.compressed = false → exec (.deliveryEgress tag)
    s = .next (s.ldtDeliver n r)) ∧ (r.kind = .read → r.origin = .ldt n k → r.compressed = true → exec (.deliveryEgress tag) s = .next (s.ldtDeliverCd
    n r)) ∧ (r.kind = .fetch → r.origin = .ldt n k → exec (.deliveryEgress tag) s = .next (s.fetchDeliver n r)) ∧ (r.kind = .repChunks → r.origin =
    .ldt n k → exec (.deliveryEgress tag) s = .next (s.repDeliver n r))) ∧
  (∀ (id : Nat) (f : Fetch) (r : Req) (b : Band) (m : Member) (s : State), minBy (fun q : Nat × Fetch => ((s.req q.2.tag).map (·.deadline)).getD 0)
    (s.read.fetches.filter (fun q => q.2.mode == .recon && q.2.queued)) = some (id, f) → s.req f.tag = some r → s.band (s.entOf f.tag f.cid).band =
    some b → (b.stripMember f.strip).1 = some m → b.d ≤ (s.survivors r f.cid b m).length → s.reconAllowed b.d f.units = true → exec .reconstructStart s
    = .next (s.reconGo r id f)) ∧
  (∀ (id : Nat) (f : Fetch) (r : Req) (b : Band) (m : Member) (s : State), minBy (fun q : Nat × Fetch => ((s.req q.2.tag).map (·.deadline)).getD 0)
    (s.read.fetches.filter (fun q => q.2.mode == .recon && q.2.queued)) = some (id, f) → s.req f.tag = some r → s.band (s.entOf f.tag f.cid).band =
    some b → (b.stripMember f.strip).1 = some m → (s.survivors r f.cid b m).length < b.d → exec .reconstructStart s = .next ((s.readFail f.tag
    Cond.MEDIA_INTEGRITY 0).wakeHeld)) ∧
  (∀ (k : Nat) (f : Fetch) (r : Req) (b : Band) (m : Member) (s : State), AL.get k s.read.fetches = some f → s.req f.tag = some r → s.band (s.entOf f.tag
    f.cid).band = some b → (b.stripMember f.strip).1 = some m → b.d ≤ (s.survivors r f.cid b m).length → (s.fetchesOf f.tag f.cid).any (fun q =>
    q.2.strip == f.strip && q.2.mode == .hedge) = false → s.get F.RDP_CFG_HEDGE_EN = 1 → f.mode = .direct → f.done = false → f.failed = false → r.kind
    = .read → f.limit ≤ s.beat + s.get F.RDP_RECON_CFG_HEDGE_MARGIN → s.reconAllowed b.d f.units = true → exec (.hedgeStart k) s = .next ((s.startRecon
    r f.cid f.strip f.row f.unit f.units .hedge true).bump F.RDP_CNT_HEDGE_COUNT))

/-- A profile is recorded, loaded and replayed extent by extent (rests on R151, R152, R153, R154, R155, R156, R157, R160, R161,
spec/03_read_path.md; a write with ARM 0 stores no other field: log entry 130). -/
def Obligations.PrefetchRecordsAndReplays : Prop :=
  (∀ (m p v w : Nat) (f : Bool) (s : State), s.judge m Slot.PFX 0x118 true true = none → s.recState ≠ 1 → s.recState ≠ 2 → AL.has p s.read.loaded = false
    → 0 < w → (s.liveVol v).isSome = true → exec (.pfxRecArm m p v w f) s = .next ((s.setAll [(F.PFX_REC_CTL_ARM, 1), (F.PFX_REC_CTL_FILTER, b2n f),
    (F.PFX_REC_CTL_PROFILE, p), (F.PFX_REC_CTL_VOLUME, v), (F.PFX_REC_CTL_WINDOW, w), (F.PFX_REC_STAT_STATE, 1), (F.PFX_REC_STAT_EXTENTS, 0),
    (F.PFX_REC_STAT_TRIG_BEAT, 0)]).modRead (fun r => { r with recExtents := [], recTrigLba := 0, recTrigLen := 0, recTrigBeat := 0 }))) ∧
  (∀ (m p v w : Nat) (f : Bool) (s : State), s.judge m Slot.PFX 0x118 true true = none → (s.recState = 1 ∨ s.recState = 2) → exec (.pfxRecArm m p v w f)
    s = .next (s.raise Slot.PFX Cond.PFX_RECORD_BUSY)) ∧
  (∀ (m p v w : Nat) (f : Bool) (s : State), s.judge m Slot.PFX 0x118 true true = none → s.recState ≠ 1 → s.recState ≠ 2 → (AL.has p s.read.loaded = true
    → exec (.pfxRecArm m p v w f) s = .next (s.raise Slot.PFX Cond.PFX_PROFILE_BUSY)) ∧ (AL.has p s.read.loaded = false → w = 0 ∨ (s.liveVol v).isNone
    = true → exec (.pfxRecArm m p v w f) s = .next (s.raise Slot.PFX Cond.PFX_RECORD_INVALID))) ∧
  (∀ (m : Nat) (s : State), s.judge m Slot.PFX 0x118 true true = none → exec (.pfxRecDisarm m) s = .next (s.recEnd 2)) ∧
  (∀ (s : State), s.recClosed = true → exec .pfxRecordWindowEnd s = .next (s.recEnd 0)) ∧
  (∀ (m p : Nat) (s : State), s.judge m Slot.PFX 0x130 true true = none → s.get F.PFX_LOAD_STAT_BUSY ≠ 1 → exec (.pfxLoad m p) s = .next ((s.modRead (fun
    r => { r with loadOp := some (1, p) })).setAll [(F.PFX_LOAD_STAT_BUSY, 1), (F.PFX_LOAD_STAT_PROFILE, p)]) ∧ exec (.pfxUnload m p) s = .next
    ((s.modRead (fun r => { r with loadOp := some (2, p) })).setAll [(F.PFX_LOAD_STAT_BUSY, 1), (F.PFX_LOAD_STAT_PROFILE, p)])) ∧
  (∀ (m p : Nat) (s : State), s.judge m Slot.PFX 0x130 true true = none → s.get F.PFX_LOAD_STAT_BUSY = 1 → exec (.pfxLoad m p) s = .next (s.raise
    Slot.PFX Cond.PFX_LOAD_BUSY) ∧ exec (.pfxUnload m p) s = .next (s.raise Slot.PFX Cond.PFX_LOAD_BUSY)) ∧
  (∀ (p : Nat) (s : State), s.read.loadOp = some (2, p) → exec .pfxLoadDone s = .next ((s.modRead (fun r =>
    { r with loaded := AL.del p r.loaded, replays := r.replays.filter (fun x => x.profile != p) })).pfxResult 1)) ∧
  (∀ (p : Nat) (s : State), s.read.loadOp = some (1, p) → exec .pfxLoadDone s = .next
    (match s.pfxGood p with | none => (s.raise Slot.PFX Cond.PFX_PROFILE_INVALID p).pfxResult 2 | some f => if s.read.loaded.any (fun q => q.1 != p && q.2.vol == f.vol && overlap q.2.trigLba q.2.trigLen f.trigLba f.trigLen) then (s.raise Slot.PFX Cond.PFX_TRIGGER_OVERLAP p).pfxResult 3 else (s.modRead (fun r => { r with loaded := AL.put p f r.loaded })).pfxResult 0)) ∧
  (∀ (i : Nat) (x : Replay) (f : Profile) (s u t : State), s.read.replays[i]? = some x → s.dueBeat x ≤ s.beat → s.beat < x.trigBeat + 64 * (s.nextExtent
    x).delay → s.pfxMayIssue = true → s.read.replays.all (fun y => decide (s.dueBeat x ≤ s.dueBeat y)) = true → AL.get x.profile s.read.loaded = some f
    → u = (s.bump F.PFX_CNT_ISSUED_COUNT).modRead (fun r =>
    { r with issuedNow := if r.issuedBeat = s.beat then r.issuedNow + 1 else 1, issuedBeat := s.beat }) → t = (u.prefetch (u.extentName x) f.vol
    (s.nextExtent x).lba ((s.nextExtent x).lenM1 + 1)).replayNext i → exec (.pfxExtentDue i) s = .next ((t.adm.reqs.map (·.1)).foldl (fun s t =>
    s.prefetchTrim t) t)) ∧
  (∀ (i : Nat) (x : Replay) (s : State), s.read.replays[i]? = some x → x.trigBeat + 64 * (s.nextExtent x).delay ≤ s.beat → exec (.pfxExtentSkip i) s =
    .next ((s.bump F.PFX_CNT_SKIP_COUNT).replayNext i))

/-- A write is checked, its records are mirrored, and it is acknowledged the beat after its entry (rests on R168, R180, R181, R182, R184, R217,
R562, spec/04_write_path.md). -/
def Obligations.WritesAreMirroredAndAcknowledged : Prop :=
  (∀ (tag : Nat) (s : State) (r : Req), s.req tag = some r → r.changes = true → r.stage = .resolving ∨ r.stage = .held → exec (.writeCommand tag) s =
    .next (s.writeCheck tag)) ∧
  (∀ (slot gen count idx unit : Nat) (d : List Nat) (ok : Bool) (s : State), descOk d = true → exec (.peerMirrorRx (.data slot d gen count idx unit) ok)
    s = .next ((s.modWrite (fun w => { w with recs := AL.put slot (s.jrecOf d gen count idx unit) w.recs })).sendPeer 0x11 2 [0, slot, 1])) ∧
  (∀ (slot gen count idx unit : Nat) (d : List Nat) (ok : Bool) (s : State), descOk d = false → exec (.peerMirrorRx (.data slot d gen count idx unit) ok)
    s = .next (s.sendPeer 0x11 2 [0, slot, 0])) ∧
  (∀ (useq vol snap page : Nat) (v : UVal) (s : State), exec (.peerMirrorRx (.update useq v) true) s = .next ((s.modWrite (fun w =>
    { w with upd := AL.put useq { val := v, own := false, beat := useq / 65536 } w.upd })).sendPeer 0x11 2 [1, useq, 1]) ∧ exec (.peerMirrorRx (.update
    useq v) false) s = .next (s.sendPeer 0x11 2 [1, useq, 0]) ∧ exec (.peerMirrorRx (.cursor vol snap page) true) s = .next
    (({ s with fab := { s.fab with cursors := AL.put vol (snap, page) s.fab.cursors } } : State).sendPeer 0x11 2 [2, vol, 1]) ∧ exec (.peerMirrorRx
    (.cursor vol snap page) false) s = .next (s.sendPeer 0x11 2 [2, vol, 0])) ∧
  (∀ (slots useqs bad badU : List Nat) (s : State), exec (.peerMirrorAckRx slots useqs bad badU) s = .next
    (let v := ((slots.foldl (fun s k => s.mirrored k) s).modWrite (fun w => { w with upd := w.upd.map (fun q => if q.2.own && useqs.contains q.1 then (q.1, { q.2 with acked := true }) else q) })).enterUpdates; let x := bad.foldl (fun (s : State) k => match AL.get k s.write.recs with | some j => if j.own && j.state == 1 then s.sendPeer 0x10 1 (s.mirrorArgs k j) else s | none => s) v; badU.foldl (fun (s : State) u => match AL.get u s.write.upd with | some r => if r.own && !r.acked then s.sendPeer 0x10 1 (u :: r.val.words) else s | none => s) x)) ∧
  (∀ (tag : Nat) (s : State) (r : Req), s.req tag = some r → r.stage = .entered → r.endBeat < s.beat → s.fab.sync.any (fun c => c.2.tag == tag) = false →
    exec (.writeAcknowledge tag) s = .next
    (let u := if (s.fab.links.any (fun l => !l.2.target && l.2.mode == 1 && l.2.st == 3 && l.2.localVol == r.vol)) = true ∧ r.deadline < s.beat then s.bump F.REP_CNT_SYNC_LATE_COUNT else s; (u.complete tag).flushGo)) ∧
  (∀ (tag k : Nat) (j : JRec) (s : State), s.mode = .paired → (k, j) ∈ s.write.recs → j.own = true → j.tag = tag → j.state = 1 → j.mirrored = false →
    j.beat + s.get F.JNL_CFG_MIRROR_TMO ≤ s.beat → s.write.recs.all (fun q => !(q.2.own && q.2.tag == tag && q.2.state == 1 && q.2.tmoRaised)) = true →
    exec (.jnlMirrorTimeout tag) s = .next (((s.modWrite (fun w =>
    { w with recs := w.recs.map (fun q => if q.2.own && q.2.tag == tag && q.2.state == 1 then (q.1, { q.2 with tmoRaised := true }) else q) })).raise
    Slot.JNL Cond.JNL_MIRROR_TIMEOUT tag).irq Slot.JNL 1)) ∧
  (∀ (m : Nat) (s : State) (e : DefEnt) (q : List DefEnt), s.judge m (Slot.JNL + 1) 0x100 true false = none → s.write.defLog = e :: q → ∃ t, exec
    (.jnlDefQRead m) s = .next t ∧ t.busData = BitVec.ofNat 64 (2 ^ 63 + e.cause * 2 ^ 60 + e.vol * 2 ^ 32 + e.beat % 2 ^ 32) ∧ t.write.defLog = q ∧
    t.get F.JNL_DEF_INFO_LBA = e.lba % 2 ^ F.JNL_DEF_INFO_LBA.w ∧ t.get F.JNL_DEF_INFO_COUNT = e.count % 2 ^ F.JNL_DEF_INFO_COUNT.w)

/-- Entered blocks are cut, matched against recipes, compressed or stored raw, their rows are closed, and update records apply (rests on R189,
R190, R191, R195, R196, R197, R198, R199, R200, R204, R211, R213, spec/04_write_path.md). -/
def Obligations.ChunksAreMatchedAndStored : Prop :=
  (∀ (tag k : Nat) (failed : List Nat) (j : JRec) (s : State), (s.write.recs.filter (fun q => q.2.own && q.2.tag == tag && q.2.state == 2 && !q.2.chunked
    && !q.2.fetchWait)).find? (fun q => q.2.typ != 1) = some (k, j) → s.mayLand k = true → s.logHold = false → exec (.chunkRun tag failed) s = .next
    ((s.commitRange k j).retireCommitted k)) ∧
  (∀ (tag k : Nat) (failed : List Nat) (j : JRec) (mine : List (Nat × JRec)) (s : State), mine = s.write.recs.filter (fun q => q.2.own && q.2.tag == tag
    && q.2.state == 2 && !q.2.chunked && !q.2.fetchWait) → mine.find? (fun q => q.2.typ != 1) = none → minBy (fun q : Nat × JRec => q.2.cmdIdx) mine =
    some (k, j) → exec (.chunkRun tag failed) s = .next (s.runPass tag (j.cmdIdx / 64) j failed (sortBy (fun q => q.2.lba) (mine.filter (fun q =>
    q.2.cmdIdx / 64 == j.cmdIdx / 64))))) ∧
  (∀ (tag part i : Nat) (failed : List Nat) (j : JRec) (run : List (Nat × JRec)) (s : State), AL.has (partKey tag part) s.write.digests = false → i =
    s.runSlice tag part → (run.map (fun q => s.recHandle q.2) ++ [hSalt (((AL.get j.vol s.vat.vols).map (·.vat)).getD 0)]).all (fun h => s.keyReady i
    h) = true → (s.segRun i [0, 2, 4] (.run tag part) (runSegs (s.cut (run.map (fun q => (q.1, q.2.data))) [])) tag true).1 = true → s.runPass tag part
    j failed run = (s.segRun i [0, 2, 4] (.run tag part) (runSegs (s.cut (run.map (fun q => (q.1, q.2.data))) [])) tag true).2.runChunks tag part i j
    failed run) ∧
  (∀ (tag part i k : Nat) (j : JRec) (s : State), AL.has (partKey tag part) s.write.digests = false → s.runChunks tag part i j [] [(k, j)] =
    (let t := s.modRec k (fun j => { j with chunked := true }); ((t.cut [(k, j.data)] []).foldl (fun u c => u.startJob tag part j.vol (((AL.get j.vol s.vat.vols).map (·.vat)).getD 0) i (c.map (·.1))) t).rsvDone tag part)) ∧
  (∀ (qtag fp vat : Nat) (s t : State) (k : Nat) (r : Swatch), s.swatchLook fp vat = (some (k, r), t) → exec (.peerSwxQueryRx qtag fp vat) s = .next
    (t.sendPeer 0x0F 2 [qtag, 1, r.recipe])) ∧
  (∀ (qtag fp vat : Nat) (s t : State), s.swatchLook fp vat = (none, t) → exec (.peerSwxQueryRx qtag fp vat) s = .next (t.sendPeer 0x0F 2 [qtag, 0, 0])) ∧
  (∀ (job recipe : Nat) (hit : Bool) (x : CJob) (s : State), s.job job = some x → x.stage = .peerAsked → exec (.peerSwxAnswerRx job hit recipe) s = .next
    (if hit then s.loadPage job recipe else s.newChunk job true)) ∧
  (∀ (job p v : Nat) (l : List (Nat × Nat × Nat)) (x : CJob) (g : RcpPage) (s : State), s.job job = some x → x.stage = .recipeLoad p → s.loadedPage p v l
    = some g → exec (.recipePageLoaded job true v l) s = .next
    (let u := (s.modWrite (fun w => { w with recipes := AL.put p { g with resident := true } w.recipes })).joinSet x.stream p; match g.matching x.fp x.vat with | some e => (u.bump F.SWX_CNT_RCP_MATCH_COUNT).candidate job x e | none => u.newChunk job false)) ∧
  (∀ (job p v : Nat) (l : List (Nat × Nat × Nat)) (x : CJob) (s : State), s.job job = some x → x.stage = .recipeLoad p → exec (.recipePageLoaded job
    false v l) s = .next ((s.modWrite (fun w => { w with recipes := AL.del p w.recipes })).newChunk job false)) ∧
  (∀ (page : Nat) (g : RcpPage) (s : State), AL.get page s.write.recipes = some g → g.isOpen = true → g.lastBeat + s.get F.CHK_RECIPE_CFG_CLOSE ≤ s.beat
    → exec (.recipePageClose page) s = .next (s.closePage page)) ∧
  (∀ (job d : Nat) (stream : List Nat) (x : CJob) (s : State), s.job job = some x → x.stage = .compress → s.deflOf x.slice job = some d → x.limit <
    stream.length → (s.unitRun x.slice (24 + d) (s.sliceCycles x.slice / deflCycles x.effort) 7 (.out job) (x.deflSegs stream) x.tag true).1 = true →
    exec (.compressJobEnd job stream) s = .next ((((((s.unitRun x.slice (24 + d) (s.sliceCycles x.slice / deflCycles x.effort) 7 (.out job) (x.deflSegs
    stream) x.tag true).2.bump (F.DSL_CMP_CNT_DEFL_COUNT x.slice) (x.deflSegs stream)).deflDone x.slice job).satInc (F.DSL_CMP_CNT_OUTCOME_FULL
    x.slice) 1).unstage x.slice (.out job)).storeRaw job)) ∧
  (∀ (job d : Nat) (stream : List Nat) (x : CJob) (s : State), s.job job = some x → x.stage = .compress → s.deflOf x.slice job = some d → stream.length ≤
    x.limit → x.mayWrite stream = true → (s.unitRun x.slice (24 + d) (s.sliceCycles x.slice / deflCycles x.effort) 7 (.out job) x.blocks x.tag true).1
    = true → exec (.compressJobEnd job stream) s = .next ((((((s.unitRun x.slice (24 + d) (s.sliceCycles x.slice / deflCycles x.effort) 7 (.out job)
    x.blocks x.tag true).2.bump (F.DSL_CMP_CNT_DEFL_COUNT x.slice) x.blocks).deflDone x.slice job).stage x.slice (.out job) (pieces (ceilDiv
    stream.length 4096) (bytesNum stream))).modJob job (fun y =>
    { y with raw := false, deflated := stream, units := ceilDiv (64 + stream.length) 512 })).placeJob job)) ∧
  (∀ (s : State), exec .rowWaitExpire s = .next (s.ftl.openB.foldl (fun (s : State) (q : Nat × Nat) =>
    (match (s.band q.2).bind (·.row) with | some r => if r.startBeat + s.get F.WRP_CFG_ROW_WAIT ≤ s.beat then s.padRow q.2 else s | none => s)) s)) ∧
  (∀ (useq : Nat) (r : URec) (s : State), AL.get useq s.write.upd = some r → s.canApply useq r = true → exec (.updateRecordApply useq false) s = .next
    ((s.applyRec useq).applied r) ∧ exec (.updateRecordApply useq true) s = .next
    (let u := s.modWrite (fun w => { w with upd := AL.put useq { r with applied := true } w.upd }); match r.val with | .map v l _ _ => u.deferError 3 v l 1 | .page v l _ _ => u.deferError 3 v l 512 | _ => u.groupError r))

/-- Mirrored records enter, retire, are pinned and are fetched as the peer says (rests on R112, R136, R189, R209, R264, R265,
spec/04_write_path.md). -/
def Obligations.PeerRecordsFollowThePeer : Prop :=
  (∀ (beat : Nat) (slots : List Nat) (s : State), exec (.peerEntryRx beat slots) s = .next (((slots.foldl (fun (s : State) k => match AL.get k
    s.write.recs with | some j => if !j.own && j.state == 1 then s.enterRec k else s | none => s) s).entryNote beat).retireReady)) ∧
  (∀ (beat : Nat) (s : State), ∃ t, exec (.peerHorizonRx beat) s = .next t ∧ t.get F.PRL_PEER_HORIZON_BEAT = max beat (s.get F.PRL_PEER_HORIZON_BEAT) % 2
    ^ F.PRL_PEER_HORIZON_BEAT.w ∧ t.write =
    { s.write with upd := s.write.upd.map (fun q => if !q.2.own && decide (q.2.beat ≤ beat) then (q.1, { q.2 with entered := true }) else q) } ∧ t.mem
    = s.mem ∧ t.read = s.read ∧ t.pages = s.pages ∧ t.sent = s.sent) ∧
  (∀ (slots : List Nat) (s : State), exec (.peerRetireRx slots) s = .next
    { s with write := { s.write with recs := s.write.recs.filter (fun q => q.2.own || !slots.contains q.1) } }) ∧
  (∀ (kind id : Nat) (s : State), exec (.peerPinRx kind id) s = .next { s with pair := { s.pair with peerPins := s.pair.peerPins ++ [(kind, id)] } }) ∧
  (∀ (kind id : Nat) (s : State), exec (.peerUnpinRx kind id) s = .next (({ s with pair := { s.pair with peerPins := s.pair.peerPins.erase (kind, id) } }
    : State).retireReady)) ∧
  (∀ (slot : Nat) (j : JRec) (s : State), AL.get slot s.write.recs = some j → exec (.peerRecFetchRx slot) s = .next (s.sendPeer 0x13 3 [slot, 1, s.cipher
    (s.get F.PRL_STAT_PEER_HID) j j.unit])) ∧
  (∀ (slot : Nat) (s : State), AL.get slot s.write.recs = none → exec (.peerRecFetchRx slot) s = .next (s.sendPeer 0x13 3 [slot, 0, 0])) ∧
  (∀ (slot data : Nat) (j : JRec) (s : State), AL.get slot s.write.recs = some j → s.adm.reqs.all (fun q => !q.2.recWait.contains slot) = true → exec
    (.peerRecDataRx slot data true) s = .next (s.modRec slot (fun x => { x with data := s.cipher (s.get F.FAB_ID_HID) j data, fetchWait := false })) ∧
    (j.fetchWait = true → exec (.peerRecDataRx slot data false) s = .next (s.recLost slot 1)) ∧ (j.fetchWait = false → exec (.peerRecDataRx slot data
    false) s = .next s)) ∧
  (∀ (slot data tag : Nat) (j : JRec) (r : Req) (s : State), AL.get slot s.write.recs = some j → s.adm.reqs = [(tag, r)] → r.tag = tag → r.recWait =
    [slot] → j.fetchWait = false →
    (let u := s.modReq tag (fun r => { r with recWait := [] }); exec (.peerRecDataRx slot data true) s = .next ((u.modRec slot (fun x => { x with data := s.cipher (s.get F.FAB_ID_HID) j data, fetchWait := false })).recGood r slot (s.cipher (s.get F.FAB_ID_HID) j data)) ∧ exec (.peerRecDataRx slot data false) s = .next ((u.readFail tag Cond.MEDIA_INTEGRITY 0).wakeHeld)))

/-- A table command that the coordinator takes is held for its apply beat and told to the peer; others are refused with their condition (rests on
R235, R236, R237, R238, R239, R241, spec/05_vats_snapshots_published.md). -/
def Obligations.TableCommandsAreHeldForTheirBeat : Prop :=
  (∀ (m t : Nat) (s : State), s.judge m Slot.VAT 0x108 true true = none → exec (.createVat m t) s = .next (s.tblCommand false 1 t s.vatArgs) ∧ exec
    (.setVatOptions m t) s = .next (s.tblCommand false 2 t s.vatArgs) ∧ exec (.rekey m t) s = .next (s.tblCommand false 3 t s.vatArgs) ∧ exec (.freeze
    m t) s = .next (s.tblCommand false 4 t s.vatArgs) ∧ exec (.deleteVat m t) s = .next (s.tblCommand false 5 t s.vatArgs) ∧ exec (.createVolume m t) s
    = .next (s.tblCommand false 6 t s.vatArgs) ∧ exec (.resizeVolume m t) s = .next (s.tblCommand false 7 t s.vatArgs) ∧ exec (.setProfile m t) s =
    .next (s.tblCommand false 8 t s.vatArgs) ∧ exec (.deleteVolume m t) s = .next (s.tblCommand false 9 t s.vatArgs) ∧ exec (.redyeResume m t) s =
    .next (s.tblCommand false 10 t s.vatArgs)) ∧
  (∀ (m t v n : Nat) (s : State), s.judge m Slot.SNP 0x100 true true = none → exec (.snpCreateGroup m n) s = .next (s.tblCommand true 1 0 (n ::
    (List.range (min n 256)).map (fun i => Mem.rdLE (s.get F.SNP_CMD_ARG_ADDR * 8 + 8 * i) 8 s.mem % 65536))) ∧ exec (.snpDelete m t) s = .next
    (s.tblCommand true 2 t [0]) ∧ exec (.snpClone m t v) s = .next (s.tblCommand true 3 t [v])) ∧
  (∀ (m t ab : Nat) (s : State), s.judge m Slot.VAT 0x108 true true = none → s.coordinator = true → s.get F.VAT_CMD_STAT_BUSY ≠ 1 → s.get
    F.SNP_CMD_STAT_BUSY ≠ 1 → s.applyBeat (s.get F.VAT_CMD_BEAT_BEAT) = some ab → (s.vatRefusal 1 t s.vatArgs = 0 → exec (.createVat m t) s = .next
    (s.tblAccept ⟨false, 1, t, s.vatArgs, ab, true, false⟩)) ∧ (s.vatRefusal 2 t s.vatArgs = 0 → exec (.setVatOptions m t) s = .next (s.tblAccept
    ⟨false, 2, t, s.vatArgs, ab, true, false⟩)) ∧ (s.vatRefusal 3 t s.vatArgs = 0 → exec (.rekey m t) s = .next (s.tblAccept ⟨false, 3, t, s.vatArgs,
    ab, true, false⟩)) ∧ (s.vatRefusal 4 t s.vatArgs = 0 → exec (.freeze m t) s = .next (s.tblAccept ⟨false, 4, t, s.vatArgs, ab, true, false⟩)) ∧
    (s.vatRefusal 5 t s.vatArgs = 0 → exec (.deleteVat m t) s = .next (s.tblAccept ⟨false, 5, t, s.vatArgs, ab, true, false⟩)) ∧ (s.vatRefusal 6 t
    s.vatArgs = 0 → exec (.createVolume m t) s = .next (s.tblAccept ⟨false, 6, t, s.vatArgs, ab, true, false⟩)) ∧ (s.vatRefusal 7 t s.vatArgs = 0 →
    exec (.resizeVolume m t) s = .next (s.tblAccept ⟨false, 7, t, s.vatArgs, ab, true, false⟩)) ∧ (s.vatRefusal 8 t s.vatArgs = 0 → exec (.setProfile m
    t) s = .next (s.tblAccept ⟨false, 8, t, s.vatArgs, ab, true, false⟩)) ∧ (s.vatRefusal 9 t s.vatArgs = 0 → exec (.deleteVolume m t) s = .next
    (s.tblAccept ⟨false, 9, t, s.vatArgs, ab, true, false⟩)) ∧ (s.vatRefusal 10 t s.vatArgs = 0 → exec (.redyeResume m t) s = .next (s.tblAccept
    ⟨false, 10, t, s.vatArgs, ab, true, false⟩))) ∧
  (∀ (snp : Bool) (op t : Nat) (args : List Nat) (s : State), (s.coordinator = false → s.tblCommand snp op t args = s.raise (tblSlot snp)
    Cond.TABLE_CMD_NOT_COORDINATOR) ∧ (s.coordinator = true → (s.get F.VAT_CMD_STAT_BUSY = 1 ∨ s.get F.SNP_CMD_STAT_BUSY = 1) → s.tblCommand snp op t
    args = s.raise (tblSlot snp) Cond.TABLE_CMD_BUSY)) ∧
  (∀ (snp : Bool) (op t b : Nat) (args : List Nat) (s : State), s.coordinator = true → s.get F.VAT_CMD_STAT_BUSY ≠ 1 → s.get F.SNP_CMD_STAT_BUSY ≠ 1 → b
    = (if snp = true then s.get F.SNP_CMD_BEAT_BEAT else s.get F.VAT_CMD_BEAT_BEAT) → (s.applyBeat b = none → s.tblCommand snp op t args = s.tblRefuse
    snp Cond.TABLE_CMD_BEAT_INVALID b) ∧ (∀ ab, s.applyBeat b = some ab → (if snp = true then s.snpRefusal op t args else s.vatRefusal op t args) ≠ 0 →
    s.tblCommand snp op t args = s.tblRefuse snp (if snp = true then s.snpRefusal op t args else s.vatRefusal op t args) ab)) ∧
  (∀ (m t v n ab : Nat) (s : State), s.judge m Slot.SNP 0x100 true true = none → s.coordinator = true → s.get F.VAT_CMD_STAT_BUSY ≠ 1 → s.get
    F.SNP_CMD_STAT_BUSY ≠ 1 → s.applyBeat (s.get F.SNP_CMD_BEAT_BEAT) = some ab → (s.snpRefusal 2 t [0] = 0 → exec (.snpDelete m t) s = .next
    (s.tblAccept ⟨true, 2, t, [0], ab, true, false⟩)) ∧ (s.snpRefusal 3 t [v] = 0 → exec (.snpClone m t v) s = .next (s.tblAccept ⟨true, 3, t, [v], ab,
    true, false⟩)) ∧
    (let vols := (List.range (min n 256)).map (fun i => Mem.rdLE (s.get F.SNP_CMD_ARG_ADDR * 8 + 8 * i) 8 s.mem % 65536); s.snpRefusal 1 0 (n :: vols) = 0 → exec (.snpCreateGroup m n) s = .next ((((vols.zip (s.freeSnaps vols.length 0)).zipIdx).foldl (fun (u : State) q => u.wrLE (s.get F.SNP_CMD_ARG_ADDR * 8 + 8 * q.2) 8 (q.1.1 + q.1.2 * 2 ^ 32)) s).tblAccept ⟨true, 1, 0, (vols.zip (s.freeSnaps vols.length 0)).map (fun (q : Nat × Nat) => q.1 + q.2 * 65536), ab, true, false⟩)))

/-- A held table command is acknowledged, timed out, applied at its beat, or replaced by the peer's tables (rests on R239, R240, R242, R248,
R504, spec/05_vats_snapshots_published.md, log entry 167). -/
def Obligations.TableCommandsApplyInBothHeads : Prop :=
  (∀ (snp : Bool) (op target beat : Nat) (args : List Nat) (s : State), op ≠ 0 → s.beat + 16 < beat → exec (.peerTableCmdRx snp op target beat args) s =
    .next (({ s with vat := { s.vat with cmds := s.vat.cmds ++ [⟨snp, op, target, args, beat, false, true⟩] } } : State).sendPeer 8 0 [b2n snp, beat])) ∧
  (∀ (snp : Bool) (op target beat : Nat) (args : List Nat) (s : State), op ≠ 0 → beat ≤ s.beat + 16 → exec (.peerTableCmdRx snp op target beat args) s =
    .next s) ∧
  (∀ (snp : Bool) (target beat : Nat) (args : List Nat) (s : State), exec (.peerTableCmdRx snp 0 target beat args) s = .next
    { s with vat := { s.vat with cmds := s.vat.cmds.filter (fun c => c.own || c.snp != snp || c.applyBeat != beat) } }) ∧
  (∀ (snp : Bool) (s : State), exec (.peerTableAckRx snp) s = .next
    { s with vat := { s.vat with cmds := s.vat.cmds.map (fun c => if c.own && c.snp == snp && decide (s.beat + 16 < c.applyBeat) then { c with acked := true } else c) } }) ∧
  (∀ (c : TCmd) (s : State), s.vat.cmds.find? (fun c => c.own && !c.acked && decide (c.applyBeat ≤ s.beat + 16)) = some c → exec .tableCmdAckTimeout s =
    .next
    (let u := ({ s with vat := { s.vat with cmds := s.vat.cmds.filter (· != c) } } : State).tblResult c.snp 3 Cond.TABLE_CMD_PEER_NO_ACK c.applyBeat; if u.mode = .paired then u.sendPeer 7 0 [b2n c.snp, 0, c.target, c.applyBeat] else u)) ∧
  (∀ (c : TCmd) (s t : State), s.vat.cmds = [c] → c.due s.beat = true → s.serving = true → c.snp = false → c.op ≠ 4 → t =
    ({ s with vat := { s.vat with cmds := [] } } : State).applyVat c.op c.target c.args → t.vat.freezing = none → exec .tableCmdApply s = .next (if
    c.own = true then t.tblResult false 1 0 c.applyBeat else t)) ∧
  (∀ (c : TCmd) (s t : State), s.vat.cmds = [c] → c.due s.beat = true → s.serving = true → c.snp = true → t =
    ({ s with vat := { s.vat with cmds := [] } } : State).applySnp c.op c.target c.applyBeat c.args → t.vat.freezing = none → exec .tableCmdApply s =
    .next (if c.own = true then t.tblResult true 1 0 c.applyBeat else t)) ∧
  (∀ (c : TCmd) (s t : State), s.vat.cmds = [c] → c.due s.beat = true → s.serving = true → c.snp = false → c.own = true → c.op = 4 → t =
    ({ s with vat := { s.vat with cmds := [] } } : State).applyVat 4 c.target c.args → t.vat.freezing = none → exec .tableCmdApply s = .next (if
    t.vatWritesLeft (c.target % 4096) = true then { t with vat := { t.vat with freezing := some (c.target % 4096, c.applyBeat) } } else t.tblResult
    false 1 0 c.applyBeat)) ∧
  (∀ (c : TCmd) (s : State), s.vat.cmds = [c] → c.due s.beat = true → s.serving = false → s.vat.freezing = none → exec .tableCmdApply s = .next
    (let t : State := { s with vat := { s.vat with cmds := [] } }; if c.own = true then t.tblResult c.snp 0 0 c.applyBeat else t)) ∧
  (∀ (s : State), s.vat.cmds.all (fun c => !c.due s.beat) = true → s.vat.freezing = none → exec .tableCmdApply s = .next s) ∧
  (∀ (v b : Nat) (s : State), s.vat.cmds = [] → s.vat.freezing = some (v, b) → s.vatWritesLeft v = false → exec .tableCmdApply s = .next
    (({ s with vat := { s.vat with freezing := none } } : State).tblResult false 1 0 b)) ∧
  (∀ (vats vols snaps : List (Nat × List Nat)) (s : State), exec (.peerTablesRx vats vols snaps) s = .next ((s.modVat (fun t =>
    { t with vats := vats.foldl (fun m q => AL.put q.1 ({ state := q.2.getD 0 0, isSealed := q.2.getD 1 0 == 1, published := q.2.getD 2 0 == 1, cdAllow := q.2.getD 3 0 == 1, comp := q.2.getD 4 0, keyGen := q.2.getD 5 0, oldLive := q.2.getD 6 0 == 1, oldGen := q.2.getD 7 0, salt := (s.sec.pairKey.bind (fun k => Config.keyUnwrap k (q.2.getD 8 0))).getD 0 } : Vat) m) [], vols := vols.foldl (fun m q => AL.put q.1 ({ state := q.2.getD 0 0, vat := q.2.getD 1 0, profile := q.2.getD 2 0, sizeM1 := q.2.getD 3 0, origin := if q.2.getD 4 0 = 0 then none else some (q.2.getD 4 0 - 1), snapBeats := q.2.drop 5 } : Vol) m) [], snaps := snaps.foldl (fun m q => AL.put q.1 ({ state := q.2.getD 0 0, vol := q.2.getD 1 0, beat := q.2.getD 2 0, sizeM1 := q.2.getD 3 0 } : Snap) m) [] })).saltsStore.set
    F.PRL_PAIR_STAT_TABLES_SYNCED 1))

/-- The sweep of a re-dye passes bands and ends, and a deleted volume or snapshot gives back its pages (rests on R225, R226, R229, R230, R233,
R245, R262, R292, spec/05_vats_snapshots_published.md). -/
def Obligations.DeletedThingsAreReleasedAndReDyed : Prop :=
  (∀ (n : Nat) (failed : List Nat) (s : State), s.get F.VAT_REDYE_STAT_ACTIVE ≠ 0 → s.mode = .paired → s.vat.sweepLeft = [] → s.vat.ownEnded = true →
    exec (.redyeSweepStep failed true n) s = .next ((s.modVat (fun t => { t with peerSweep := some n })).redyeEnd n)) ∧
  (∀ (n : Nat) (failed : List Nat) (s : State), s.get F.VAT_REDYE_STAT_ACTIVE ≠ 0 → s.mode = .solo → s.vat.sweepLeft = [] → s.vat.ownEnded = true → exec
    (.redyeSweepStep failed false n) s = .next (s.redyeEnd 0)) ∧
  (∀ (n b : Nat) (l failed : List Nat) (s : State), s.get F.VAT_REDYE_STAT_ACTIVE ≠ 0 → s.serving = true → s.vat.sweepLeft = b :: l → s.loadAtMost (s.get
    F.VAT_REDYE_CFG_MAX_LOAD_PCT) = true → s.vat.ownEnded = false → s.oldChunks b = [] → s.sweepAfter b ≠ [] → exec (.redyeSweepStep failed false n) s
    = .next (s.sweepTo (s.sweepAfter b))) ∧
  (∀ (n b : Nat) (l failed : List Nat) (s : State), s.get F.VAT_REDYE_STAT_ACTIVE ≠ 0 → s.serving = true → s.vat.sweepLeft = b :: l → s.loadAtMost (s.get
    F.VAT_REDYE_CFG_MAX_LOAD_PCT) = false → s.vat.ownEnded = false → exec (.redyeSweepStep failed false n) s = .next s) ∧
  (∀ (vol n : Nat) (x : Vol) (s t : State), AL.get vol s.vat.vols = some x → x.state = 2 → s.vat.snaps.any (fun q => q.2.vol == vol) = false → t =
    ((s.spacePages vol).take n).foldl (fun s k => s.releasePage k) s → exec (.volumeRefRelease vol n) s = .next (if t.spacePages vol = [] ∧
    !t.write.upd.any (fun q => !q.2.applied && q.2.val.ofVol vol) then (t.modVat (fun t => { t with vols := AL.del vol t.vols })).vatFreeCheck x.vat
    else t)) ∧
  (∀ (n k : Nat) (x : Snap) (s t : State), AL.get n s.vat.snaps = some x → x.state = 2 → t = ((s.spacePages (snapSpace n)).take k).foldl (fun s k =>
    s.reclaimPage n k) s → exec (.snapshotRefRelease n k) s = .next (if t.spacePages (snapSpace n) = [] ∧ !t.vat.vols.any (fun q => q.2.origin == some
    n) then { t with vat := { t.vat with snaps := AL.del n t.vat.snaps } } else t))

/-- Leaves load with their result, dirty pages are written back, checkpoints are taken when due (rests on R255, R258, R259, R260, R266, R267,
R268, R269, R270, R303, spec/06_flash_translation.md, log entries 153 and 174). -/
def Obligations.MetadataIsLoadedWrittenAndChecked : Prop :=
  (∀ (m kind space leaf : Nat) (pin snap : Bool) (s : State), s.judge m Slot.FTL 0x128 true true = none → s.get F.FTL_DIR_STAT_BUSY ≠ 1 → exec
    (.ftlDirLoad m kind pin snap space leaf) s = .next ((s.modFtl (fun t =>
    { t with loadKey := some (leafKey kind (if kind = 1 ∧ snap then snapSpace space else space) leaf, pin) })).set F.FTL_DIR_STAT_BUSY 1)) ∧
  (∀ (m kind space leaf : Nat) (pin snap : Bool) (s : State), s.judge m Slot.FTL 0x128 true true = none → s.get F.FTL_DIR_STAT_BUSY = 1 → exec
    (.ftlDirLoad m kind pin snap space leaf) s = .next (s.raise Slot.FTL Cond.DIR_LOAD_BUSY)) ∧
  (∀ (ok : Bool) (k : Nat) (pin : Bool) (s : State), s.ftl.loadKey = some (k, pin) → (k / 2 ^ 60 = 0 → exec (.ftlDirLoadDone ok) s = .next (s.dirDone 3))
    ∧ (k / 2 ^ 60 ≠ 0 → s.leafHere k = true → exec (.ftlDirLoadDone ok) s = .next ((s.leafPut k pin).dirDone 0)) ∧ (k / 2 ^ 60 ≠ 0 → s.leafHere k =
    false → s.rootHas k = false → exec (.ftlDirLoadDone ok) s = .next (s.dirDone 1))) ∧
  (∀ (k : Nat) (pin : Bool) (s t : State), s.ftl.loadKey = some (k, pin) → k / 2 ^ 60 ≠ 0 → s.leafHere k = false → s.rootHas k = true → (s.ftl.loadAgain
    = true → exec (.ftlDirLoadDone false) s = .next (s.dirDone 2)) ∧ (s.ftl.loadAgain = false → exec (.ftlDirLoadDone false) s = .next ((s.raise
    Slot.FTL Cond.META_CHECK_FAIL (k % 2 ^ 36)).modFtl (fun t => { t with loadAgain := true }))) ∧ (s.leafRoom = none → exec (.ftlDirLoadDone true) s =
    .next (s.dirDone 2)) ∧ (s.leafRoom = some t → exec (.ftlDirLoadDone true) s = .next (((t.leafPut k pin).bump F.FTL_CNT_DIR_LOAD_COUNT).dirDone 0))) ∧
  (∀ (r : Nat) (s : State), (s.dirDone r).ftl = { s.ftl with loadKey := none, loadAgain := false } ∧ (s.dirDone r).get F.FTL_DIR_STAT_BUSY = 0 ∧ (r < 4 →
    (s.dirDone r).get F.FTL_DIR_STAT_RESULT = r)) ∧
  (∀ (key kind : Nat) (ctb : Bool) (g : MetaPage) (s : State), kind = (if ctb = true then 2 else 1) → s.metaPage ctb key = some g → g.resident = true →
    g.dirty = true → g.pins = 0 → s.homeOf (metaHome ctb key) = true → ctb = true ∨ s.emptyPage key = false → exec (.pageWriteBack kind key) s = .next
    (match s.place (if ctb then 3 else 2) key s.placeShard 1 8 (fun _ => s.metaBytes (if ctb then 2 else 1) key) with | (none, u) => u | (some _, u) => u.modMeta ctb key (fun g => { g with dirty := false, pins := g.pins + 1, stamp := g.top }))) ∧
  (∀ (key : Nat) (g : MetaPage) (s : State), s.metaPage false key = some g → g.resident = true → g.dirty = true → g.pins = 0 → s.homeOf (metaHome false
    key) = true → s.emptyPage key = true → exec (.pageWriteBack 1 key) s = .next (s.pageFree key g)) ∧
  (∀ (key : Nat) (s : State), s.ftl.sums.contains key = true → AL.has key s.ftl.sumCopies = false → s.homeOf (key / 2048 % 2) = true → exec
    (.pageWriteBack 3 key) s = .next
    (match s.place 4 key s.placeShard 1 8 (fun _ => s.metaBytes 3 key) with | (none, u) => u | (some _, u) => u.modFtl (fun t => { t with sums := t.sums.filter (· != key), sumCopies := AL.put key (AL.getD key 0 t.sumTop) t.sumCopies }))) ∧
  (∀ (rp : Nat) (s : State), s.serving = true → s.ckptDue = true → exec (.checkpointWrite false rp) s = .next ((s.ckptBegin.raise Slot.FTL
    Cond.CKPT_WRITE_FAIL).sysWrite 2 s.ckptBegin.ckptRec.words) ∧ exec (.checkpointWrite true rp) s = .next
    (let u := s.ckptBegin; let v := ((u.ckptTake rp).bump F.FTL_CNT_CKPT_COUNT).bump F.FTL_CNT_LEAF_WB_COUNT (s.ftl.leaves.filter (fun q => q.2.dirty)).length; v.retireUpdates (if v.mode = .paired then min u.replayPoint rp else u.replayPoint))) ∧
  (∀ (ok : Bool) (rp : Nat) (s : State), s.serving = false ∨ s.ckptDue = false → exec (.checkpointWrite ok rp) s = .next s) ∧
  (∀ (s : State), s.get F.FTL_RECOVER_STAT_PHASE = 3 → exec .liveCountRecompute s = .next
    { s with ftl := { s.ftl with bands := AL.mapV (fun b x => { x with live := s.liveOf b }) s.ftl.bands, liveCountsGood := true } })

/-- Chunks with no reference are released, bands are relocated, erased and scanned, the vault dump ends and is recovered (rests on R271, R278,
R281, R293, R297, R298, R299, R301, R302, spec/06_flash_translation.md, log entry 133). -/
def Obligations.BandsRelocateEraseAndRecover : Prop :=
  (∀ (cid t : Nat) (s : State), s.ftl.zeroed.find? (fun q => q.1 == cid) = some (cid, t) → (s.ctbEnt cid).count = 0 → s.write.upd.all (fun q =>
    q.2.applied || decide (t ≤ q.2.beat)) = true → s.ftl.movers.contains cid = false → s.mode ≠ .paired ∨ t ≤ s.get F.PRL_PEER_HORIZON_BEAT → exec
    (.chunkRelease cid) s = .next (((s.land (.release cid (s.ctbEnt cid).band (s.ctbEnt cid).offset (s.ctbEnt cid).len) none).modFtl (fun f =>
    { f with zeroed := f.zeroed.filter (fun q => q.1 != cid) })).bump F.FTL_CNT_RELEASE_COUNT)) ∧
  (∀ (s : State), exec .relocationStart s = .next ((s.relocStart 0).relocStart 1)) ∧
  (∀ (s : State), s.leaseHeld 0 = false → s.leaseHeld 1 = false → exec .relocationStart s = .next s) ∧
  (∀ (b : Nat) (x : Band) (s : State), s.band b = some x → x.state = 6 → x.erasing = 0 → s.leaseHeld x.shard = true → s.eraseWaits b x = false →
    s.bandSaid b 0 = false → x.toErase ≠ [] → exec (.bandErase b) s = .next (x.toErase.foldl (fun (s : State) i =>
    (match x.members[i]? with | some m => s.eraseMember m x.dense x.shard (.erase b i) | none => s)) (s.modBand b (fun x =>
    { x with erasing := x.toErase.length })))) ∧
  (∀ (b : Nat) (x : Band) (s : State), s.band b = some x → s.eraseWaits b x = true → exec (.bandErase b) s = .next s) ∧
  (∀ (b i row : Nat) (x : Band) (m : Member) (s u : State), s.band b = some x → s.get F.FTL_MAINT_CFG_SCAN_EN ≠ 0 → x.state = 3 → s.leaseHeld x.shard =
    true → x.members[i]? = some m → u = ((s.countRead m).bump F.FTL_CNT_SCAN_COUNT).brickSend m.brick
    { s.memberOp m 4 1 x.dense (.scan b) with spage := row, len := 65536 } → exec (.scanRead b i row) s = .next (if 0 < bitsOf (u.formWord
    (u.slotOfBrick m.brick) 5) 0 32 * 2 ^ 24 ∧ x.openBeat + bitsOf (u.formWord (u.slotOfBrick m.brick) 5) 0 32 * 2 ^ 24 < u.beat then u.queueReloc b 3
    else u)) ∧
  (∀ (b i row : Nat) (x : Band) (s : State), s.band b = some x → s.get F.FTL_MAINT_CFG_SCAN_EN = 0 → exec (.scanRead b i row) s = .next s) ∧
  (∀ (ok : Bool) (rows rw : Nat) (s u : State), s.ftl.dumpActive = true → u = ((s.bump F.FTL_CNT_VAULT_ROWS_COUNT rows).bump
    F.FTL_CNT_VAULT_REWRITE_COUNT rw).set F.FTL_VAULT_STAT_LAST_BEATS (((s.bump F.FTL_CNT_VAULT_ROWS_COUNT rows).bump F.FTL_CNT_VAULT_REWRITE_COUNT
    rw).beat - s.ftl.dumpStart) → ok = false ∨ u.rowPlaceable = false ∨ u.vaultRoom rows rw = false → exec (.vaultDumpEnd ok rows rw) s = .next
    u.dumpFail) ∧
  (∀ (ok : Bool) (rows rw : Nat) (s : State), s.ftl.dumpActive = false → exec (.vaultDumpEnd ok rows rw) s = .next s) ∧
  (∀ (rows rw : Nat) (s u : State), s.ftl.dumpActive = true → u = ((s.bump F.FTL_CNT_VAULT_ROWS_COUNT rows).bump F.FTL_CNT_VAULT_REWRITE_COUNT rw).set
    F.FTL_VAULT_STAT_LAST_BEATS (((s.bump F.FTL_CNT_VAULT_ROWS_COUNT rows).bump F.FTL_CNT_VAULT_REWRITE_COUNT rw).beat - s.ftl.dumpStart) →
    u.rowPlaceable = true → u.vaultRoom rows rw = true → exec (.vaultDumpEnd true rows rw) s = .next
    (let h := u.vaultHdr rows rw; let w := u.vaultWrite u.ftl.dumpBricks (h.words ++ [h.crc]); (w.modFtl (fun t => { t with dumpActive := false, vaultMap := h.rowMap, vaultNext := t.vaultNext + rows + rw, heldDump := some h, heldRecs := w.write.recs, heldUpd := w.write.upd, heldKeys := (w.sec.handles.filter (fun q => hKind q.1 == 3)).map (fun q => (q.1, q.2.value)) })).vaultClose 3)) ∧
  (∀ (lost : List Nat) (s : State), s.mode = .boot → (s.get F.FTL_RECOVER_STAT_PHASE = 0 → exec (.ftlRecover lost) s = .next s.recoverLoad) ∧ (s.get
    F.FTL_RECOVER_STAT_PHASE = 1 → exec (.ftlRecover lost) s = .next (s.recoverReplay lost)) ∧ (s.get F.FTL_RECOVER_STAT_PHASE = 2 → exec (.ftlRecover
    lost) s = .next s.recoverDone))

/-- Flits are judged, acknowledged and resent; links are enabled, trained, retrained and given up by their times (rests on R312, R314, R315,
R318, R319, R320, R321, R322, R337, R341, spec/07_bricks_and_media_links.md). -/
def Obligations.MediaLinksCarryFlits : Prop :=
  (∀ (ln flit : Nat) (f : FlitIn) (s : State), s.linkActive ln = true → f = mediaFlitIn (s.descrambled ln flit).1 → exec (.mediaFlitRx ln flit) s = .next
    ((s.descrambled ln flit).2.flitRx ln f.decoded f.crcOk (bitOf f.header 24) f.corrected (bitsOf f.header 29 3) (bitsOf f.header 12 12) (bitsOf
    f.header 0 12))) ∧
  (∀ (ln k typ ack seq : Nat) (c v : Bool) (s u : State), u = ((s.satInc (F.MDL_FEC_CNT_UNCORR ln) 1).modLink ln (fun l =>
    { l with badRun := l.badRun + 1 })).sendNak ln → s.flitRx ln false c v k typ ack seq = if 8 ≤ (u.link ln).badRun then u.linkTo ln 5 else u) ∧
  (∀ (ln k typ ack seq : Nat) (c v : Bool) (s u : State), u = (s.satInc (F.MDL_FEC_CNT_CORRECTED ln) k).modLink ln (fun l => { l with badRun := 0 }) → (c
    = false ∨ 3 < typ → s.flitRx ln true c v k typ ack seq = (u.satInc (F.MDL_REPLAY_CNT_CRC_FAIL ln) 1).sendNak ln) ∧ (typ = 0 ∨ typ = 3 → s.flitRx ln
    true true v k typ ack seq = (if v then u.ackFlits ln ack else u)) ∧ (s.flitRx ln true true v k 2 ack seq = (if v then u.ackFlits ln ack else
    u).resendFrom ln ((ack + 1) % 4096))) ∧
  (∀ (ln k ack seq : Nat) (v : Bool) (s u : State), u = (if v then ((s.satInc (F.MDL_FEC_CNT_CORRECTED ln) k).modLink ln (fun l =>
    { l with badRun := 0 })).ackFlits ln ack else (s.satInc (F.MDL_FEC_CNT_CORRECTED ln) k).modLink ln (fun l => { l with badRun := 0 })) → (seq =
    (u.link ln).rxExp → s.flitRx ln true true v k 1 ack seq = u.modLink ln (fun l => { l with rxExp := (l.rxExp + 1) % 4096, nakSent := false })) ∧
    (seq ≠ (u.link ln).rxExp → ((u.link ln).rxExp + 4096 - seq) % 4096 ≤ 2048 → s.flitRx ln true true v k 1 ack seq = u) ∧ (seq ≠ (u.link ln).rxExp →
    2048 < ((u.link ln).rxExp + 4096 - seq) % 4096 → s.flitRx ln true true v k 1 ack seq = u.sendNak ln)) ∧
  (∀ (ln ack : Nat) (s : State), s.linkActive ln = true → exec (.mediaNakRx ln ack) s = .next (((s.descrambled ln 0).2.ackFlits ln ack).resendFrom ln
    ((ack + 1) % 4096))) ∧
  (∀ (ln : Nat) (s u : State), s.linkActive ln = true → (s.link ln).txSeq ≠ (s.link ln).ackedTo → (s.link ln).ackBeat + 2 ≤ s.beat → u = ((s.satInc
    (F.MDL_REPLAY_CNT_TIMER ln) 1).modLink ln (fun l => { l with timerRun := l.timerRun + 1, ackBeat := s.beat })).resendFrom ln (s.link ln).ackedTo →
    exec (.mediaReplayTimer ln) s = .next (if 8 ≤ (u.link ln).timerRun then u.linkTo ln 5 else u)) ∧
  (∀ (m ln : Nat) (en : Bool) (s : State), s.judge m (mdlSlot ln) (0x120 + 8 * (ln % 4)) true true = none → exec (.mdlLinkEnable m ln en) s = .next
    (s.linkCtl ln (b2n en)) ∧ exec (.mdlLinkRetrain m ln) s = .next (s.linkCtl ln (4 + s.get (F.MDL_LINK_CTL_ENABLE ln))) ∧ exec (.mdlLinkDown m ln) s
    = .next (s.linkCtl ln (2 + s.get (F.MDL_LINK_CTL_ENABLE ln)))) ∧
  (∀ (ln v : Nat) (s u : State), u = s.set (F.MDL_LINK_CTL_ENABLE ln) (v % 2) → (v % 2 = 0 → s.linkCtl ln v = if u.get (F.MDL_LINK_STAT_STATE ln) = 0
    then u else u.linkDown ln) ∧ (v % 2 = 1 → u.get (F.MDL_LINK_STAT_STATE ln) = 0 → s.linkCtl ln v = u.linkTrain ln) ∧ (v % 2 = 1 → u.get
    (F.MDL_LINK_STAT_STATE ln) ≠ 0 → bitOf v 1 = true → s.linkCtl ln v = u.linkDown ln) ∧ (v % 2 = 1 → u.get (F.MDL_LINK_STAT_STATE ln) = 4 → bitOf v 1
    = false → bitOf v 2 = true → s.linkCtl ln v = u.linkTo ln 5) ∧ (v % 2 = 1 → u.get (F.MDL_LINK_STAT_STATE ln) ≠ 0 → bitOf v 1 = false → (bitOf v 2 =
    false ∨ u.get (F.MDL_LINK_STAT_STATE ln) ≠ 4) → s.linkCtl ln v = u)) ∧
  (∀ (ln phase port a b c : Nat) (x y : Bool) (s : State), s.get (F.MDL_LINK_STAT_STATE ln) ≠ 0 → s.get (F.MDL_LINK_STAT_STATE ln) ≠ 4 → exec
    (.trainingBlockRx ln true phase x y port a b c) s = .next (((s.set (F.MDL_LINK_STAT_PORT ln) port).taps ln a b c).trainOn ln phase x y) ∧ exec
    (.trainingBlockRx ln false phase x y port a b c) s = .next (s.modLink ln (fun l => { l with tbRun := 0, eqRun := 0, p3Run := 0 }))) ∧
  (∀ (ln : Nat) (s : State), s.get (F.MDL_LINK_STAT_STATE ln) = 1 → 256 ≤ s.beat - (s.link ln).stateBeat → exec (.linkTrainTimeout ln) s = .next
    ((s.satInc (F.MDL_LINK_STAT_DETECTS ln) 1).linkTo ln 1)) ∧
  (∀ (ln : Nat) (s : State), s.get (F.MDL_LINK_STAT_STATE ln) = 2 → 1024 ≤ s.beat - (s.link ln).stateBeat → exec (.linkTrainTimeout ln) s = .next
    (((s.raise (mdlSlot ln) Cond.MEDIA_LINK_EQ_FAIL ln).linkTo ln 1).brickGone ln)) ∧
  (∀ (ln : Nat) (s : State), s.get (F.MDL_LINK_STAT_STATE ln) = 3 → 16 ≤ s.beat - (s.link ln).stateBeat → exec (.linkTrainTimeout ln) s = .next
    ((s.linkTo ln 1).brickGone ln)) ∧
  (∀ (ln : Nat) (s : State), s.get (F.MDL_LINK_STAT_STATE ln) = 5 → s.get (F.MDL_LINK_CFG_RECOVER_TMO ln) * 64 ≤ s.beat - (s.link ln).stateBeat → exec
    (.linkRecoverTimeout ln) s = .next ((s.raise (mdlSlot ln) Cond.MEDIA_LINK_DOWN ln).linkDown ln)) ∧
  (∀ (ln cmd wdata : Nat) (s : State), s.linkActive ln = true → exec (.brickCreditRx ln cmd wdata) s = .next (((s.set (F.MDL_CREDIT_CMD_AVAIL ln) (min
    (s.get (F.MDL_CREDIT_CMD_ADV ln)) (s.get (F.MDL_CREDIT_CMD_AVAIL ln) + cmd))).set (F.MDL_CREDIT_WDATA_AVAIL ln) (min (s.get (F.MDL_CREDIT_WDATA_ADV
    ln)) (s.get (F.MDL_CREDIT_WDATA_AVAIL ln) + wdata))).pumpLink ln)) ∧
  (∀ (ln tag : Nat) (o : MOp) (s : State), (s.link ln).ops.find? (fun o => o.tag == tag) = some o → o.deadline < s.beat → exec (.mediaOpTimeout ln tag) s
    = .next ((((s.modLink ln (fun l => { l with ops := l.ops.filter (fun q => q.tag != tag), lateTags := l.lateTags ++ [tag] })).satInc
    (F.MDL_OPS_TIMEOUTS ln) 1).raise (mdlSlot ln) Cond.MEDIA_OP_TIMEOUT tag).opLate ln o))

/-- Replies end their request, a stray one is judged, events and the sideband are shown, BRK_CMD and DFM_CTL run (rests on R323, R324, R331,
R338, R339, R340, R342, R343, R344, spec/07_bricks_and_media_links.md). -/
def Obligations.BricksIdentifyReplyAndObey : Prop :=
  (∀ (ln tag : Nat) (s : State), s.takeOp ln tag = none → (∀ v sr ar dm fi fv fc cc wc po o, exec (.brickIdentRx ln tag v sr ar dm fi fv fc cc wc po o) s
    = .next (s.strayReply ln tag)) ∧ (∀ a b c d, exec (.brickOwnerRx ln tag a b c d) s = .next (s.strayReply ln tag)) ∧ (∀ a, exec (.brickStatusRx ln
    tag a) s = .next (s.strayReply ln tag)) ∧ (∀ a b c, exec (.brickReadDataRx ln tag a b c) s = .next (s.strayReply ln tag)) ∧ ((s.link
    ln).lateTags.contains tag = false → s.strayReply ln tag = s.raise (mdlSlot ln) Cond.BRICK_PROTOCOL_ERROR tag) ∧ ((s.link ln).lateTags.contains tag
    = true → s.strayReply ln tag = ((s.replyCredit ln).modLink ln (fun l => { l with lateTags := l.lateTags.filter (· != tag) })).pumpLink ln)) ∧
  (∀ (ln tag vendor serial arrayId dieMask fid fver fcheck cc wc port : Nat) (other : Bool) (op : MOp) (s u v : State), s.takeOp ln tag = some (op, u) →
    v = ((if u.get (F.MDL_CREDIT_CMD_ADV ln) = 0 then u.setAll [(F.MDL_CREDIT_CMD_ADV ln, cc), (F.MDL_CREDIT_CMD_AVAIL ln, cc), (F.MDL_CREDIT_WDATA_ADV
    ln, wc), (F.MDL_CREDIT_WDATA_AVAIL ln, wc)] else u.replyCredit ln).setAll [(F.BRK_ID_VENDOR ln, vendor), (F.BRK_ID_SERIAL ln, serial),
    (F.BRK_ARRAY_ID ln, arrayId), (F.BRK_STAT_DIES ln, (ones 64 dieMask).length), (F.MDL_LINK_STAT_OTHER ln, b2n other)]).modBrick ln (fun b =>
    { b with dieMask := dieMask, fid := fid, fver := fver, fcheck := fcheck, otherActive := other }) → ((v.brick ln).step ≠ 1 → exec (.brickIdentRx ln
    tag vendor serial arrayId dieMask fid fver fcheck cc wc port other) s = .next (v.pumpLink ln)) ∧ ((v.brick ln).step = 1 → port ≠ v.side → exec
    (.brickIdentRx ln tag vendor serial arrayId dieMask fid fver fcheck cc wc port other) s = .next (((v.modBrick ln (fun b =>
    { b with step := 0 })).raise (brkSlot ln) Cond.BRICK_PORT_MISMATCH ln).pumpLink ln)) ∧ ((v.brick ln).step = 1 → port = v.side → exec (.brickIdentRx
    ln tag vendor serial arrayId dieMask fid fver fcheck cc wc port other) s = .next ((v.checkFormula ln).pumpLink ln))) ∧
  (∀ (ln tag ea eb sa sb : Nat) (op : MOp) (s u v : State), s.takeOp ln tag = some (op, u) → v = (u.replyCredit ln).setAll [(F.BRK_OWN_EPOCH_A ln, ea),
    (F.BRK_OWN_EPOCH_B ln, eb), (F.BRK_STAT_SIDE_A ln, sa), (F.BRK_STAT_SIDE_B ln, sb)] → (op.purpose = .owner → (v.brick ln).step = 3 → exec
    (.brickOwnerRx ln tag ea eb sa sb) s = .next ((v.brickReady ln).pumpLink ln)) ∧ (op.purpose = .owner → (v.brick ln).step ≠ 3 → exec (.brickOwnerRx
    ln tag ea eb sa sb) s = .next (v.pumpLink ln)) ∧ (op.purpose = .audit → v.side = 0 → exec (.brickOwnerRx ln tag ea eb sa sb) s = .next ((v.modPair
    (fun p =>
    { p with auditLeft := p.auditLeft.filter (· != ln), rubFailed := if (eb != v.pair.peerEpochB || sb != 1 - v.side) = true then p.rubFailed ||| 32 else p.rubFailed })).pumpLink
    ln)) ∧ (op.purpose = .audit → v.side ≠ 0 → exec (.brickOwnerRx ln tag ea eb sa sb) s = .next ((v.modPair (fun p =>
    { p with auditLeft := p.auditLeft.filter (· != ln), rubFailed := if (ea != v.pair.peerEpochA || sa != 1 - v.side) = true then p.rubFailed ||| 32 else p.rubFailed })).pumpLink
    ln))) ∧
  (∀ (ln tag st : Nat) (op : MOp) (s u : State), s.takeOp ln tag = some (op, u) → exec (.brickStatusRx ln tag st) s = .next ((((u.replyCredit
    ln).statusCond ln st op).statusEnd ln st op).pumpLink ln)) ∧
  (∀ (ln tag st corrected retries : Nat) (op : MOp) (s u v w : State), s.takeOp ln tag = some (op, u) → v = ((u.replyCredit ln).sample (50 + ln)
    corrected).statusCond ln st op → w = (if 0 < retries then v.satInc (F.DFM_CNT_RETRY_READS (u.slotOfBrick ln % 8)) 1 else v) → (st = 0 → exec
    (.brickReadDataRx ln tag st corrected retries) s = .next ((w.opReadGot ln op corrected retries).pumpLink ln)) ∧ (st = 3 → exec (.brickReadDataRx ln
    tag st corrected retries) s = .next ((((w.satInc (F.DFM_CNT_UNCORR (u.slotOfBrick ln % 8)) 1).readFailed ⟨ln, op.die, op.block⟩).opReadBad ln
    op).pumpLink ln)) ∧ (st ≠ 0 → st ≠ 3 → exec (.brickReadDataRx ln tag st corrected retries) s = .next ((w.opReadBad ln op).pumpLink ln))) ∧
  (∀ (k : Nat) (s : State), s.get (F.BRK_STAT_STATE k) = 2 → s.linkActive k = true → (s.brick k).step = 4 → (s.brick k).stepBeat + 1024 ≤ s.beat → exec
    (.identRetry k) s = .next (s.startIdent k)) ∧
  (∀ (ln die : Nat) (s : State), s.linkActive ln = true → exec (.brickEventRx ln 1 die) s = .next ((s.set (F.MDL_LINK_STAT_OTHER ln) 1).modBrick ln (fun
    b => { b with otherActive := true })) ∧ exec (.brickEventRx ln 2 die) s = .next ((s.set (F.MDL_LINK_STAT_OTHER ln) 0).modBrick ln (fun b =>
    { b with otherActive := false })) ∧ exec (.brickEventRx ln 4 die) s = .next (s.startIdent ln) ∧ exec (.brickEventRx ln 5 die) s = .next
    (s.dieFailed ln die) ∧ (∀ code, code ≠ 1 → code ≠ 2 → code ≠ 4 → code ≠ 5 → exec (.brickEventRx ln code die) s = .next s)) ∧
  (∀ (k status temp : Nat) (s : State), exec (.sidebandAlert k true status temp) s = .next (s.sbShow k status temp) ∧ exec (.sidebandAlert k false status
    temp) s = .next (s.sbFail k)) ∧
  (∀ (k status temp : Nat) (s u : State), ∀ b, (s.brick k).sbBeat = some b → b + 16384 ≤ s.beat → u = s.modBrick k (fun b =>
    { b with sbBeat := some s.beat }) → exec (.sidebandPoll k true status temp) s = .next (u.sbShow k status temp) ∧ exec (.sidebandPoll k false status
    temp) s = .next (u.sbFail k)) ∧
  (∀ (m k : Nat) (acked : Bool) (s : State), s.judge m (brkSlot k) (0x300 + 8 * (k % 16)) true true = none → exec (.brickAdopt m k) s = .next (s.brkCmd k
    1 true) ∧ exec (.brickRelease m k) s = .next (s.brkCmd k 2 true) ∧ exec (.brickFail m k) s = .next (s.brkCmd k 3 true) ∧ exec (.brickAttnOn m k
    acked) s = .next (s.brkCmd k 4 acked) ∧ exec (.brickAttnOff m k acked) s = .next (s.brkCmd k 5 acked) ∧ exec (.brickRefresh m k) s = .next
    (s.brkCmd k 6 true)) ∧
  (∀ (m k : Nat) (s : State), s.judge m (brkSlot k) (0x300 + 8 * (k % 16)) true true = none → s.get (F.BRK_CMD_STAT_BUSY k) ≠ 1 → (s.get
    (F.BRK_STAT_STATE k) = 3 → s.heldShards.isEmpty = false → exec (.brickAdopt m k) s = .next (((s.set (F.BRK_CMD_STAT_BUSY k) 1).modBrick k (fun b =>
    { b with cmd := 1 })).brickSend k { mtype := 7, arg := s.pair.arrayId, purpose := .setArray })) ∧ (s.get (F.BRK_STAT_STATE k) = 4 → exec
    (.brickRelease m k) s = .next ((s.brickTo k 5).brkResult k 1 0)) ∧ (s.get (F.BRK_STAT_STATE k) ≠ 0 → exec (.brickFail m k) s = .next ((((s.brickTo
    k 6).modBrick k (fun b => { b with step := 0 })).bandsOn k none).brkResult k 1 0)) ∧ (s.get (F.BRK_STAT_STATE k) ≠ 0 → exec (.brickRefresh m k) s =
    .next ((if s.linkActive k then s.startIdent k else s).brkResult k 1 0)) ∧ (s.get (F.BRK_STAT_STATE k) ≠ 0 → s.get (F.BRK_STAT_SB_PRESENT k) = 1 →
    exec (.brickAttnOn m k true) s = .next ((s.set (F.BRK_SB_ATTN k) 1).brkResult k 1 0) ∧ exec (.brickAttnOff m k true) s = .next ((s.set
    (F.BRK_SB_ATTN k) 0).brkResult k 1 0) ∧ exec (.brickAttnOn m k false) s = .next ((s.sbFail k).brkResult k 2 Cond.SIDEBAND_NAK) ∧ exec
    (.brickAttnOff m k false) s = .next ((s.sbFail k).brkResult k 2 Cond.SIDEBAND_NAK))) ∧
  (∀ (k op : Nat) (acked : Bool) (s : State), (s.get (F.BRK_CMD_STAT_BUSY k) = 1 → s.brkCmd k op acked = s.raise (brkSlot k) Cond.BRICK_CMD_BUSY k) ∧
    (s.get (F.BRK_CMD_STAT_BUSY k) ≠ 1 → s.brkAllowed k op = false → s.brkCmd k op acked = (s.raise (brkSlot k) Cond.BRICK_CMD_INVALID k).brkResult k 2
    Cond.BRICK_CMD_INVALID)) ∧
  (∀ (m f : Nat) (s : State), s.judge m (Slot.DFM + f) 0x108 true true = none → (s.get (F.DFM_STAT_BUSY f) = 1 → exec (.dfmLoad m f) s = .next (s.raise
    (Slot.DFM + f) Cond.FORMULA_BUSY f) ∧ exec (.dfmUnload m f) s = .next (s.raise (Slot.DFM + f) Cond.FORMULA_BUSY f)) ∧ (s.get (F.DFM_STAT_BUSY f) ≠
    1 → exec (.dfmLoad m f) s = .next (if s.formulaOk f (s.formImage f) = true then ((s.modMedia (fun m =>
    { m with formulas := AL.put f (s.formImage f) m.formulas })).setAll [(F.DFM_HDR_WORD0 f, (s.formImage f).getD 0 0), (F.DFM_CHECK_CHECK f,
    (s.formImage f).getD 15 0)]).dfmResult f 1 0 else (s.raise (Slot.DFM + f) Cond.FORMULA_INVALID f).dfmResult f 3 Cond.FORMULA_INVALID) ∧ exec
    (.dfmUnload m f) s = .next (if 0 < s.slotBricks f then (s.raise (Slot.DFM + f) Cond.FORMULA_IN_USE f).dfmResult f 4 Cond.FORMULA_IN_USE else
    ((s.modMedia (fun m => { m with formulas := AL.del f m.formulas })).setAll [(F.DFM_HDR_WORD0 f, 0), (F.DFM_CHECK_CHECK f, 0)]).dfmResult f 2 0)))

/-- Digest jobs are taken, run and reported; keys arrive and go; hardening and reseeding act as their rules say (rests on R356, R358, R363, R364,
R371, R373, R374, R375, R376, R587, spec/08_cipher_and_digest.md). -/
def Obligations.DigestJobsKeysAndHardening : Prop :=
  (∀ (m i addr : Nat) (s : State), s.judge m (digSlot i) 0x108 true true = none → s.admFull = false → exec (.digestSubmit m i addr) s = .next (s.newReq
    { tag := 0, kind := .digest, origin := .internal, lba := addr, blocks := 0, cls := 6, stage := .waiting, slice := i, compressed := s.secureMaster m }
    false).2) ∧
  (∀ (m i addr : Nat) (s : State), s.judge m (digSlot i) 0x108 true true = none → s.admFull = true → exec (.digestSubmit m i addr) s = .next (s.raise
    (digSlot i) Cond.DIGEST_SUBMIT_REFUSED addr)) ∧
  (∀ (tag : Nat) (r : Req) (s : State), s.req tag = some r → r.stage = .slice → r.kind = .digest → s.digestOver r (s.descCheck r.lba r.compressed) = true
    → (s.descCheck r.lba r.compressed ≠ 0 → exec (.digestJobEnd tag) s = .next (s.digestEnd r (s.descCheck r.lba r.compressed) 0)) ∧ (s.descCheck r.lba
    r.compressed = 0 → exec (.digestJobEnd tag) s = .next ((s.digestOut r.lba (digestOf (bitsOf (s.descWord r.lba 0) 60 4) (s.descBytes
    r.lba))).digestEnd r 0 (s.descBytes r.lba).length))) ∧
  (∀ (tag : Nat) (r : Req) (s : State), s.req tag = some r → r.stage = .slice → r.kind = .hmac → (KeyPass.hmac.allows (hSlot r.vol) = true → s.keyReady
    r.slice (hSlot r.vol) = true → s.digestOver r (s.descCheck r.lba false) = true → exec (.digestJobEnd tag) s = .next (s.hmacEnd r)) ∧
    (KeyPass.hmac.allows (hSlot r.vol) = false → exec (.digestJobEnd tag) s = .next ((((s.modSec (fun x => { x with hmacTag := none })).dropReq
    tag).raise Slot.KEY Cond.KEY_USE_REFUSED (hSlot r.vol)).keyEnd Cond.KEY_USE_REFUSED))) ∧
  (∀ (m i : Nat) (d : DigRec) (t : List DigRec) (s : State), s.judge m (digSlot i) 0x118 true false = none → (s.slice i).doneQ = d :: t → exec
    (.digDoneQRead m i) s = .next ((((s.answer (2 ^ 63 + d.cond * 2 ^ 32 + d.jobTag)).set (F.DSL_DIG_DONE_INFO_BYTES i) d.bytes).modSlice i (fun x =>
    { x with doneQ := t })).irqIs (digSlot i) 1 (!t.isEmpty))) ∧
  (∀ (m i : Nat) (s : State), s.judge m (digSlot i) 0x118 true false = none → (s.slice i).doneQ = [] → exec (.digDoneQRead m i) s = .next (s.answer 0)) ∧
  (∀ (i h : Nat) (e : KeyEnt) (s u : State), AL.get h (s.slice i).keys = some e → e.fetching = true → u = (if (s.keyThere h && s.keyIntact h) = true then
    (s.modSlice i (fun x => { x with keys := AL.put h { e with fetching := false, resident := true } x.keys })).keyUsed h else e.tags.foldl (fun (a :
    State) t => a.keyGone t) ((((s.raise Slot.KEY Cond.KEY_STORE_CORRUPT h).bump F.KEY_CNT_UNWRAP_FAIL_COUNT).keyRemove h).modSlice i (fun x =>
    { x with keys := AL.del h x.keys }))) → ((u.slice i).keys.find? (fun q => !q.2.resident && !q.2.fetching) = none → exec (.keyFetchDone i h) s =
    .next u) ∧ (∀ q, (u.slice i).keys.find? (fun q => !q.2.resident && !q.2.fetching) = some q → exec (.keyFetchDone i h) s = .next (u.keyFetch i
    q.1))) ∧
  (∀ (h : Nat) (k : KeyH) (s : State), AL.get h s.sec.handles = some k → k.removing = true → s.slices.any (fun q => ((AL.get h q.2.keys).map (fun e =>
    s.keyPinned e)).getD false) = false → exec (.keyHandleRemove h) s = .next
    (({ (s.modSec (fun x => { x with handles := AL.del h x.handles })) with slices := AL.mapV (fun _ x => { x with keys := AL.del h x.keys }) s.slices }).bump
    F.KEY_CNT_REMOVE_COUNT)) ∧
  (∀ (i : Nat) (s : State), s.get F.SEC_DRBG_STAT_READY = 1 → exec (.sliceRngReseed i) s = .next s.draw256.2) ∧
  (∀ (m dummy : Nat) (shuffle : Bool) (s : State), s.judge m (Slot.SEC + 2) 0x100 true true = none → exec (.secHardenWrite m dummy shuffle) s = .next
    (s.hardenAll dummy (b2n shuffle)))

/-- Ports follow their lock, detection steps on, frames are counted, dropped or answered, and pauses come and go (rests on R410, R411, R415,
R416, R418, R419, R421, spec/10_host_ports_nvme_tcp.md). -/
def Obligations.PortsFramesAndPausesAct : Prop :=
  (∀ (p : Nat) (s : State), p < 96 → s.refOk (2 + p / 48) = true → s.portFree p (s.portWidth p) = true → s.portState p = 2 ∨ (s.portState p = 1 ∧ bitOf
    (s.get (F.HFI_Q_CFG_PORT_EN (p / 48) (p / 4 % 12))) (p % 4) = true) → exec (.portLinkChange p true) s = .next ((s.setPort p 3 (s.portWidth
    p)).portGoOn p)) ∧
  (∀ (p : Nat) (s : State), p < 96 → s.portState p = 3 → exec (.portLinkChange p false) s = .next (s.setPort p 1 (s.portWidth p))) ∧
  (∀ (q b : Nat) (s : State), AL.get q s.host.detect = some b → b + 2048 ≤ s.beat → (s.quadUp q = true → exec (.hfiDetectStep q) s = .next ((s.set
    (F.HFI_Q_STAT_DETECTING (q / 12) (q % 12)) 0).modHost (fun h => { h with detect := AL.del q h.detect }))) ∧ (s.quadUp q = false → exec
    (.hfiDetectStep q) s = .next ((s.modHost (fun h => { h with detect := AL.put q s.beat h.detect })).quadMode q (detectNext (s.get (F.HFI_Q_STAT_MODE
    (q / 12) (q % 12))))))) ∧
  (∀ (p : Nat) (f : Frame) (s u : State), s.hfiLive = true → s.portUp p = true → u = (s.satInc (F.HFI_FEC_CNT_CORRECTED (p / 48) (p / 4 % 12) (p % 4))
    f.fecCorr).satInc (F.HFI_FEC_CNT_UNCORR (p / 48) (p / 4 % 12) (p % 4)) f.fecBad → f.err = true → exec (.hfiFrameRx p f) s = .next (u.bump
    (F.HFI_CNT_RX_ERR_COUNT (p / 48) (p / 4 % 12) (p % 4)))) ∧
  (∀ (p : Nat) (f : Frame) (s u : State), s.hfiLive = true → s.portUp p = true → f.err = false → u = (((s.satInc (F.HFI_FEC_CNT_CORRECTED (p / 48) (p / 4
    % 12) (p % 4)) f.fecCorr).satInc (F.HFI_FEC_CNT_UNCORR (p / 48) (p / 4 % 12) (p % 4)) f.fecBad).bump (F.HFI_CNT_RX_FRAMES_COUNT (p / 48) (p / 4 %
    12) (p % 4))).bump (F.HFI_CNT_RX_BYTES_COUNT (p / 48) (p / 4 % 12) (p % 4)) f.bytes → (∀ c, u.frameDrop p f = some c → exec (.hfiFrameRx p f) s =
    .next (u.bump c)) ∧ (u.frameDrop p f = none → f.kind ≤ 1 → exec (.hfiFrameRx p f) s = .next ((u.bump (F.HFI_CNT_ARP_ND_COUNT (p / 48))).hfiSend p
    (u.ctlPrio p f) Hfi.arpNd [f.ip] 64)) ∧ (u.frameDrop p f = none → f.kind = 2 → exec (.hfiFrameRx p f) s = .next ((u.bump (F.HFI_CNT_ICMP_COUNT (p /
    48))).hfiSend p (u.ctlPrio p f) Hfi.echo [f.ip] f.bytes)) ∧ (u.frameDrop p f = none → 2 < f.kind → exec (.hfiFrameRx p f) s = .next u)) ∧
  (∀ (p prio bytes : Nat) (s : State), s.hfiLive = true → s.portUp p = true → s.pfcOn (p / 48) prio = true → s.pfcPct p (s.xoffPct p) bytes = true →
    AL.has (p * 8 + prio) s.host.xoff = false → exec (.pfcXoff p prio bytes) s = .next ((s.pfcSend p prio 0xFFFF).modHost (fun h =>
    { h with xoff := AL.put (p * 8 + prio) s.beat h.xoff }))) ∧
  (∀ (p prio bytes b : Nat) (s : State), AL.get (p * 8 + prio) s.host.xoff = some b → b + 2 ≤ s.beat → s.pfcPart p * s.xonPct p < bytes * 100 → s.portUp
    p = true → exec (.pfcRefresh p prio bytes) s = .next ((s.pfcSend p prio 0xFFFF).modHost (fun h =>
    { h with xoff := AL.put (p * 8 + prio) s.beat h.xoff }))) ∧
  (∀ (p prio bytes : Nat) (s : State), AL.has (p * 8 + prio) s.host.xoff = true → bytes * 100 ≤ s.pfcPart p * s.xonPct p → exec (.pfcXon p prio bytes) s
    = .next ((s.pfcSend p prio 0).modHost (fun h => { h with xoff := AL.del (p * 8 + prio) h.xoff }))) ∧
  (∀ (p : Nat) (quanta : List (Nat × Nat)) (s : State), s.hfiLive = true → s.portUp p = true → exec (.pfcFrameRx p quanta) s = .next (quanta.foldl (fun t
    q => t.pauseFor p q.1 q.2) (s.bump (F.HFI_CNT_PFC_RX_COUNT (p / 48) (p / 4 % 12) (p % 4))))) ∧
  (∀ (p prio t : Nat) (s : State), AL.get (p * 8 + prio) s.host.paused = some t → t ≤ s.tb → exec (.pfcPauseExpire p prio) s = .next ((s.modHost (fun h
    => { h with paused := AL.del (p * 8 + prio) h.paused })).portGoOn p))

/-- Connections, queues and controllers open, carry data and end as their rules say (rests on R422, R427, R428, R429, R431, R432, R434, R435,
R436, R442, spec/10_host_ports_nvme_tcp.md). -/
def Obligations.ConnectionsAndQueuesOpenAndEnd : Prop :=
  (∀ (g ifc port mac window l c : Nat) (v6 ecn : Bool) (i : Iface) (s v : State), s.hfiLive = true → g < 2 → s.iface g ifc = some i → s.portUp i.port =
    true → v = s.bump (F.NVT_CNT_SYN_COUNT g) → v.listener g ifc port = some l → freeKey (32768 * g) 32768 v.host.conns = some c → exec (.tcpSynRx g
    ifc port mac v6 ecn window) s = .next ((v.modHost (fun h =>
    { h with conns := AL.put c { tcp := 1, iface := ifc, mac := mac, v6 := v6, disc := v.get (F.NVT_LISTEN_DISC g l) == 1, ecn := ecn && v.get (F.NVT_CFG_ECN_EN g) == 1, stateBeat := v.beat, window := window, cwnd := 10 * i.mss v6 } h.conns })).tcpSend
    c Tcp.synAck [] 64)) ∧
  (∀ (g ifc port mac window l : Nat) (v6 ecn : Bool) (i : Iface) (s v : State), s.hfiLive = true → g < 2 → s.iface g ifc = some i → s.portUp i.port =
    true → v = s.bump (F.NVT_CNT_SYN_COUNT g) → (v.listener g ifc port = none → exec (.tcpSynRx g ifc port mac v6 ecn window) s = .next (v.hfiSend
    i.port (i.prio (v.get (F.HFI_PRIO_MAP_NVT g))) Tcp.rst [port, mac] 64)) ∧ (v.listener g ifc port = some l → freeKey (32768 * g) 32768 v.host.conns
    = none → exec (.tcpSynRx g ifc port mac v6 ecn window) s = .next ((v.bump (F.NVT_CNT_SYN_REFUSED_COUNT g)).hfiSend i.port (i.prio ((v.bump
    (F.NVT_CNT_SYN_REFUSED_COUNT g)).get (F.HFI_PRIO_MAP_NVT g))) Tcp.rst [port, mac] 64))) ∧
  (∀ (c ack window : Nat) (dup fin ce ece cwr : Bool) (x : TcpConn) (s : State), s.conn c = some x → s.hfiLive = true → exec (.tcpSegmentRx c ack window
    dup fin true ce ece cwr) s = .next ((((s.bump (F.NVT_CNT_RST_RX_COUNT (connUnit c))).connEnd c false []).connFree c).ctrlDone x.cntlid)) ∧
  (∀ (c ack window : Nat) (dup fin ce ece cwr : Bool) (x : TcpConn) (s u : State), s.conn c = some x → s.hfiLive = true → u = (if ce = true ∧ x.ecn =
    true then s.bump (F.NVT_CNT_ECN_CE_COUNT (connUnit c)) else s).modConn c (fun x => { x with window := window }) → exec (.tcpSegmentRx c ack window
    dup fin false ce ece cwr) s = .next (((((if 0 < ack then u.tcpAck c ack else if dup then u.tcpDup c else u)).modConn c (fun x => x.ecnRx ce ece
    cwr)).tcpState c fin).tcpGo c)) ∧
  (∀ (c b : Nat) (x : TcpConn) (i : Iface) (s : State), s.conn c = some x → s.connIface c = some i → x.inFlight ≠ 0 → x.rtoBeat = some b → b ≤ s.beat →
    s.mayLeave i (s.get (F.HFI_PRIO_MAP_NVT (connUnit c))) = true → exec (.tcpRetransmitTimeout c) s = .next (if s.get (F.NVT_TCP_CFG_RETRIES (connUnit
    c)) ≤ x.retries then s.connEnd c true [] else let rto := min (1024 * s.get (F.NVT_TCP_CFG_RTO_MAX (connUnit c))) (2 * x.rto); (s.modConn c (fun y
    =>
    { y with retries := y.retries + 1, rto := rto, rtoBeat := some (s.beat + rto), sentNs := none, recover := none, ssthresh := max (y.inFlight / 2) (2 * i.mss x.v6), cwnd := i.mss x.v6 })).tcpAgain
    c)) ∧
  (∀ (c : Nat) (x : TcpConn) (s : State), s.conn c = some x → x.tcp = 4 → x.stateBeat + 8192 * s.get (F.NVT_TCP_CFG_TIME_WAIT (connUnit c)) ≤ s.beat →
    exec (.tcpTimeWaitExpire c) s = .next (s.connFree c)) ∧
  (∀ (c pfv hpda : Nat) (hd dd : Bool) (x : TcpConn) (s v : State), s.conn c = some x → x.nvt = 1 → v = s.bump (F.NVT_CNT_PDU_RX_COUNT (connUnit c)) →
    exec (.nvtIcreqRx c pfv hpda hd dd) s = .next (if pfv = 0 ∧ hpda ≤ 31 then (v.modConn c (fun x =>
    { x with nvt := 2, hdgst := hd, ddgst := dd, stateBeat := v.beat })).tcpSend c 1 [0, 0, b2n hd + 2 * b2n dd, 65536] 128 else v.termReq c 6)) ∧
  (∀ (c : Nat) (x : TcpConn) (s : State), s.conn c = some x → x.nvt = 1 → x.stateBeat + 1024 * s.get (F.NVT_CFG_ICREQ_TMO (connUnit c)) ≤ s.beat → exec
    (.nvtIcreqTimeout c) s = .next (s.termReq c 6)) ∧
  (∀ (c cid flags sqsize kato k w : Nat) (data : List Nat) (x : TcpConn) (s v : State), s.conn c = some x → x.mayConnect = true → flagsOk flags = true →
    v = (s.bump (F.NVT_CNT_PDU_RX_COUNT (connUnit c))).bump (F.NVT_CNT_CONNECT_COUNT (connUnit c)) → freeKey (1024 * connUnit c) 1024 v.host.ctrls =
    some k → (x.disc = false → freeKey (64 * connUnit c) 64 v.host.slots = some w → exec (.nvmeConnectAdmin c cid flags sqsize kato data) s = .next
    (let z := (v.modHost (fun h => { h with ctrls := AL.put k { st := 1, admin := c, kato := kato, lastBeat := v.beat, hostId := data.take 16, hostNqn := (data.drop 512).take 256 } h.ctrls, slots := AL.put w { conn := c, ctrl := k, kato := kato, beat := v.beat } h.slots, connectQ := h.connectQ ++ [w] })).modConn c (fun x => { x with connectCid := some cid, sqsize := sqsize }); (z.putBytes (z.ctrlArea (connUnit c) + 0x20000 + w % 64 * 0x400) (data.take 1024)).irq (nvtSlot (connUnit c) 1) 1))
    ∧ (x.disc = false → freeKey (64 * connUnit c) 64 v.host.slots = none → exec (.nvmeConnectAdmin c cid flags sqsize kato data) s = .next
    (v.connectRefuse c cid stBusy)) ∧ (x.disc = true → exec (.nvmeConnectAdmin c cid flags sqsize kato data) s = .next ((v.modHost (fun h =>
    { h with ctrls := AL.put k { st := 1, disc := true, admin := c, kato := kato, lastBeat := v.beat, hostId := data.take 16, hostNqn := (data.drop 512).take 256 } h.ctrls })).connectDone
    c cid k sqsize))) ∧
  (∀ (c cid flags sqsize kato : Nat) (data : List Nat) (x : TcpConn) (s v : State), s.conn c = some x → x.mayConnect = true → v = (s.bump
    (F.NVT_CNT_PDU_RX_COUNT (connUnit c))).bump (F.NVT_CNT_CONNECT_COUNT (connUnit c)) → (flagsOk flags = false → exec (.nvmeConnectAdmin c cid flags
    sqsize kato data) s = .next (v.connectRefuse c cid (nvmeStatus 0 0x02 true))) ∧ (flagsOk flags = true → freeKey (1024 * connUnit c) 1024
    v.host.ctrls = none → exec (.nvmeConnectAdmin c cid flags sqsize kato data) s = .next (v.connectRefuse c cid stBusy))) ∧
  (∀ (c cid flags qid sqsize id k : Nat) (data : List Nat) (x : TcpConn) (s v : State), s.conn c = some x → x.mayConnect = true → flagsOk flags = true →
    v = (s.bump (F.NVT_CNT_PDU_RX_COUNT (connUnit c))).bump (F.NVT_CNT_CONNECT_COUNT (connUnit c)) → v.connectIoStatus c qid sqsize data = 0 → id =
    data.getD 16 0 + 256 * data.getD 17 0 → (v.modConn c (fun x =>
    { x with nvt := 4, cntlid := id, qid := qid, sqsize := sqsize, stateBeat := v.beat })).ctrlOf id = some k → exec (.nvmeConnectIo c cid flags qid
    sqsize data) s = .next
    (let u := v.modConn c (fun x => { x with nvt := 4, cntlid := id, qid := qid, sqsize := sqsize, stateBeat := v.beat }); (u.modCtrl k (fun x => { x with lastBeat := u.beat })).nvmeResp c cid 0 id 0)) ∧
  (∀ (c cid flags qid sqsize : Nat) (data : List Nat) (x : TcpConn) (s v : State), s.conn c = some x → x.mayConnect = true → v = (s.bump
    (F.NVT_CNT_PDU_RX_COUNT (connUnit c))).bump (F.NVT_CNT_CONNECT_COUNT (connUnit c)) → (flagsOk flags = false → exec (.nvmeConnectIo c cid flags qid
    sqsize data) s = .next (v.connectRefuse c cid (nvmeStatus 0 0x02 true))) ∧ (flagsOk flags = true → v.connectIoStatus c qid sqsize data ≠ 0 → exec
    (.nvmeConnectIo c cid flags qid sqsize data) s = .next (v.connectRefuse c cid (v.connectIoStatus c qid sqsize data)))) ∧
  (∀ (m g w : Nat) (x : ConnectSlot) (s : State), s.judge m (nvtSlot g 1) 0x100 true false = none → s.host.connectQ.find? (fun w => w / 64 == g) = some w
    → AL.get w s.host.slots = some x → exec (.nvtConnectQRead m g) s = .next
    (let u := ((s.answer (s.connectWord w x)).setAll [(F.NVT_CONNECT_INFO_IF g, ((s.conn x.conn).map (·.iface)).getD 0), (F.NVT_CONNECT_INFO_V6 g, b2n (((s.conn x.conn).map (·.v6)).getD false)), (F.NVT_CONNECT_INFO_KATO g, x.kato)]).modHost (fun h => { h with connectQ := h.connectQ.filter (· != w) }); u.irqIs (nvtSlot g 1) 1 (u.host.connectQ.any (fun k => k / 64 == g)))) ∧
  (∀ (m g : Nat) (s : State), s.judge m (nvtSlot g 1) 0x100 true false = none → s.host.connectQ.find? (fun w => w / 64 == g) = none → exec
    (.nvtConnectQRead m g) s = .next (s.answer 0)) ∧
  (∀ (m g slot : Nat) (x : ConnectSlot) (s u v : State), s.judge m (nvtSlot g 1) 0x110 true true = none → AL.get (64 * g + slot) s.host.slots = some x →
    u = s.modHost (fun h => { h with slots := AL.del (64 * g + slot) h.slots, connectQ := h.connectQ.filter (· != 64 * g + slot) }) → v = u.irqIs
    (nvtSlot g 1) 1 (u.host.connectQ.any (fun k => k / 64 == g)) → exec (.nvtConnectAccept m g slot) s = .next ((v.modCtrl x.ctrl (fun y =>
    { y with attach := v.readAttach x.ctrl })).connectDone x.conn (((v.conn x.conn).bind (·.connectCid)).getD 0) x.ctrl (((v.conn x.conn).map
    (·.sqsize)).getD 0)) ∧ exec (.nvtConnectRefuseHost m g slot) s = .next ((v.modHost (fun h =>
    { h with ctrls := AL.del x.ctrl h.ctrls })).connectRefuse x.conn (((v.conn x.conn).bind (·.connectCid)).getD 0) (nvmeStatus 1 0x84 true)) ∧ exec
    (.nvtConnectRefuseBusy m g slot) s = .next ((v.modHost (fun h => { h with ctrls := AL.del x.ctrl h.ctrls })).connectRefuse x.conn (((v.conn
    x.conn).bind (·.connectCid)).getD 0) stBusy)) ∧
  (∀ (m g slot : Nat) (s : State), s.judge m (nvtSlot g 1) 0x110 true true = none → AL.get (64 * g + slot) s.host.slots = none → exec (.nvtConnectAccept
    m g slot) s = .next (s.raise (nvtSlot g 1) Cond.NVT_CONNECT_MISMATCH slot) ∧ exec (.nvtConnectRefuseHost m g slot) s = .next (s.raise (nvtSlot g 1)
    Cond.NVT_CONNECT_MISMATCH slot) ∧ exec (.nvtConnectRefuseBusy m g slot) s = .next (s.raise (nvtSlot g 1) Cond.NVT_CONNECT_MISMATCH slot)) ∧
  (∀ (g slot : Nat) (x : ConnectSlot) (s : State), AL.get (64 * g + slot) s.host.slots = some x → x.beat + 1024 * s.get (F.NVT_CFG_CONNECT_TMO g) ≤
    s.beat → exec (.nvtConnectTimeout g slot) s = .next ((s.connectAnswer g slot 3).raise (nvtSlot g 1) Cond.NVT_CONNECT_TIMEOUT slot)) ∧
  (∀ (k : Nat) (x : Ctrl) (s : State), s.ctrl k = some x → x.st = 2 → x.kato ≠ 0 → x.lastBeat + 125 * x.kato ≤ s.beat → exec (.keepAliveExpired k) s =
    .next (((s.raise (nvtSlot (k / 1024) 1) Cond.KEEP_ALIVE_EXPIRED (s.cntlid k)).bump (F.NVT_CNT_KATO_COUNT (k / 1024))).teardown k)) ∧
  (∀ (m g idx : Nat) (x : Ctrl) (s : State), s.judge m (nvtSlot g 1) 0x128 true true = none → s.get (F.NVT_CTRL_CMD_STAT_BUSY g) ≠ 1 → s.ctrl (1024 * g +
    idx) = some x → x.st = 2 → exec (.nvtCtrlTeardown m g idx) s = .next (((s.modHost (fun h =>
    { h with cmdBusy := AL.put g (1024 * g + idx) h.cmdBusy })).setAll [(F.NVT_CTRL_CMD_STAT_BUSY g, 1), (F.NVT_CTRL_CMD_STAT_RESULT g, 0)]).teardown
    (1024 * g + idx)) ∧ exec (.nvtAttachChanged m g idx) s = .next ((s.attachChanged (1024 * g + idx)).ctrlCmdEnd g 1)) ∧
  (∀ (m g idx : Nat) (s : State), s.judge m (nvtSlot g 1) 0x128 true true = none → (s.get (F.NVT_CTRL_CMD_STAT_BUSY g) = 1 → exec (.nvtCtrlTeardown m g
    idx) s = .next (s.raise (nvtSlot g 1) Cond.NVT_CTRL_CMD_BUSY idx) ∧ exec (.nvtAttachChanged m g idx) s = .next (s.raise (nvtSlot g 1)
    Cond.NVT_CTRL_CMD_BUSY idx)) ∧ (s.get (F.NVT_CTRL_CMD_STAT_BUSY g) ≠ 1 → (∀ x, s.ctrl (1024 * g + idx) = some x → x.st ≠ 2) → exec
    (.nvtCtrlTeardown m g idx) s = .next (s.ctrlCmdEnd g 2) ∧ exec (.nvtAttachChanged m g idx) s = .next (s.ctrlCmdEnd g 2))) ∧
  (∀ (c ttag off len data : Nat) (last : Bool) (x : TcpConn) (r : R2t) (s u : State), s.conn c = some x → x.tcp = 2 → s.hfiLive = true → x.r2ts.find?
    (fun r => r.ttag == ttag) = some r → off = r.off + r.got → r.got + len ≤ r.len → len ≤ 65536 → u = s.bump (F.NVT_CNT_PDU_RX_COUNT (connUnit c)) →
    exec (.nvtH2cDataRx c ttag off len data last true true true) s = .next (u.dataTake c r len data last) ∧ exec (.nvtH2cDataRx c ttag off len data
    last true true false) s = .next (((u.bump (F.NVT_CNT_DDGST_ERR_COUNT (connUnit c))).dataTake c { r with dead := true } len 0 last).dataFail c r
    Cond.NVT_DATA_DIGEST false)) ∧
  (∀ (c ttag off len data : Nat) (last dd : Bool) (x : TcpConn) (s u : State), s.conn c = some x → x.tcp = 2 → s.hfiLive = true → u = s.bump
    (F.NVT_CNT_PDU_RX_COUNT (connUnit c)) → (∀ ho, exec (.nvtH2cDataRx c ttag off len data last ho false dd) s = .next ((u.bump
    (F.NVT_CNT_HDGST_ERR_COUNT (connUnit c))).transportFatal c 3)) ∧ exec (.nvtH2cDataRx c ttag off len data last false true dd) s = .next
    (u.transportFatal c 1) ∧ (x.r2ts.find? (fun r => r.ttag == ttag) = none → exec (.nvtH2cDataRx c ttag off len data last true true dd) s = .next
    (u.transportFatal c 2)) ∧ (∀ r, x.r2ts.find? (fun r => r.ttag == ttag) = some r → (off ≠ r.off + r.got → exec (.nvtH2cDataRx c ttag off len data
    last true true dd) s = .next (u.transportFatal c 2)) ∧ (off = r.off + r.got → r.len < r.got + len → exec (.nvtH2cDataRx c ttag off len data last
    true true dd) s = .next (u.transportFatal c 4)) ∧ (off = r.off + r.got → r.got + len ≤ r.len → 65536 < len → exec (.nvtH2cDataRx c ttag off len
    data last true true dd) s = .next (u.transportFatal c 5)))) ∧
  (∀ (c : Nat) (x : TcpConn) (s : State), s.conn c = some x → x.tcp = 2 → s.hfiLive = true → exec (.nvtH2cTermReqRx c) s = .next ((((s.bump
    (F.NVT_CNT_PDU_RX_COUNT (connUnit c))).sts c (2 ^ 20) F.NVT_STS_XPORT_ERR_COUNT).raise (nvtSlot (connUnit c) 2) Cond.NVT_TRANSPORT_FATAL c).connEnd
    c false []))

/-- Admin commands on a live controller answer with the data, values and states their rules give (rests on R426, R435, R436, R445, R446, R448,
R452, R453, spec/10_host_ports_nvme_tcp.md). -/
def Obligations.AdminCommandsComplete : Prop :=
  (∀ (c cid flags k nsid cns : Nat) (x : TcpConn) (y : Ctrl) (s u : State), s.AdminTurn c flags k x y u → (cns = 1 → exec (.nvmeIdentify c cid flags nsid
    cns) s = .next (u.nvmeData c cid (u.identifyCtrl k))) ∧ (y.disc = true → cns ≠ 1 → exec (.nvmeIdentify c cid flags nsid cns) s = .next (u.nvmeResp
    c cid stField 0 0)) ∧ (y.disc = false → cns = 2 → exec (.nvmeIdentify c cid flags nsid cns) s = .next (u.nvmeData c cid (padTo 4096 (((u.activeNs
    y).filter (fun v => decide (nsid < v + 1))).flatMap (fun v => leNat 4 (v + 1)))))) ∧ (y.disc = false → nsid ≠ 0 → (u.activeNs y).contains (nsid -
    1) = true → (cns = 0 → exec (.nvmeIdentify c cid flags nsid cns) s = .next (u.nvmeData c cid (u.identifyNs (nsid - 1)))) ∧ (cns = 3 → exec
    (.nvmeIdentify c cid flags nsid cns) s = .next (u.nvmeData c cid (padTo 4096 ([2, 16, 0, 0] ++ u.nguid (nsid - 1)))))) ∧ (y.disc = false → (nsid =
    0 ∨ (u.activeNs y).contains (nsid - 1) = false) → (cns = 0 → exec (.nvmeIdentify c cid flags nsid cns) s = .next (u.nvmeData c cid (List.replicate
    4096 0))) ∧ (cns = 3 → exec (.nvmeIdentify c cid flags nsid cns) s = .next (u.nvmeResp c cid stNs 0 0))) ∧ (y.disc = false → 3 < cns → exec
    (.nvmeIdentify c cid flags nsid cns) s = .next (u.nvmeResp c cid stField 0 0))) ∧
  (∀ (c cid flags k fid v : Nat) (x : TcpConn) (y : Ctrl) (s u : State), s.AdminTurn c flags k x y u → y.disc = false → exec (.nvmeGetFeatures c cid
    flags fid) s = .next (if fid = 7 then u.nvmeResp c cid 0 ((y.granted - 1) * 65537) 0 else if fid = 0x0B then u.nvmeResp c cid 0 y.evCfg 0 else if
    fid = 0x0F then u.nvmeResp c cid 0 y.kato 0 else u.nvmeResp c cid stField 0 0) ∧ (fid = 7 → exec (.nvmeSetFeatures c cid flags fid v) s = .next
    (let g := min (u.get (F.NVT_CFG_MAX_IOQ (connUnit c))) (max (v % 65536) (v / 65536 % 65536) + 1); (u.modCtrl k (fun y => { y with granted := g })).nvmeResp c cid 0 ((g - 1) * 65537) 0))
    ∧ (fid = 0x0B → exec (.nvmeSetFeatures c cid flags fid v) s = .next (((u.modCtrl k (fun y => { y with evCfg := v })).nvmeResp c cid 0 0 0).eventGo
    k)) ∧ (fid = 0x0F → exec (.nvmeSetFeatures c cid flags fid v) s = .next ((u.modCtrl k (fun y => { y with kato := v })).nvmeResp c cid 0 0 0)) ∧
    (fid ≠ 7 → fid ≠ 0x0B → fid ≠ 0x0F → exec (.nvmeSetFeatures c cid flags fid v) s = .next (u.nvmeResp c cid stField 0 0))) ∧
  (∀ (c cid flags k nsid lid off len : Nat) (rae : Bool) (x : TcpConn) (y : Ctrl) (s u : State) (give : State → List Nat → State), s.AdminTurn c flags k
    x y u → give = (fun a l => ((if rae then a else a.modCtrl k (fun y => { y with masked := y.masked.filter (· != pageEvent lid) })).nvmeData c cid
    (padTo len l)).eventGo k) → (y.disc = true → exec (.nvmeGetLogPage c cid flags nsid lid off len rae) s = .next (if lid = 0x70 then give u
    (u.bytesAt (u.ctrlArea (k / 1024) + 0x1000 + off) len) else u.nvmeResp c cid stField 0 0)) ∧ (y.disc = false → lid = 2 → nsid = 0 ∨ nsid =
    0xFFFFFFFF → exec (.nvmeGetLogPage c cid flags nsid lid off len rae) s = .next (give (u.free 16).2 (((u.free 16).2.healthLog (u.free 16).1).drop
    off))) ∧ (y.disc = false → lid = 2 → nsid ≠ 0 → nsid ≠ 0xFFFFFFFF → exec (.nvmeGetLogPage c cid flags nsid lid off len rae) s = .next (u.nvmeResp c
    cid stField 0 0)) ∧ (y.disc = false → lid = 4 → exec (.nvmeGetLogPage c cid flags nsid lid off len rae) s = .next (give (if rae then u else
    u.modCtrl k (fun y => { y with changed := [] })) ((padTo 4096 (y.changed.flatMap (fun v => leNat 4 (v + 1)))).drop off))) ∧ (y.disc = false → lid =
    6 → exec (.nvmeGetLogPage c cid flags nsid lid off len rae) s = .next (give u (u.selftestLog.drop off))) ∧ (y.disc = false → lid = 0x0C → exec
    (.nvmeGetLogPage c cid flags nsid lid off len rae) s = .next (give u ((u.anaLog y).drop off))) ∧ (y.disc = false → lid = 0xC0 → exec
    (.nvmeGetLogPage c cid flags nsid lid off len rae) s = .next (give u ((u.deferredLog (fun v => y.attach.contains v) true).drop off))) ∧ (y.disc =
    false → lid ∉ [2, 4, 6, 0x0C, 0xC0] → exec (.nvmeGetLogPage c cid flags nsid lid off len rae) s = .next (u.nvmeResp c cid stField 0 0))) ∧
  (∀ (c cid flags k nsid code : Nat) (x : TcpConn) (y : Ctrl) (s u : State) (t : SelfTest), s.AdminTurn c flags k x y u → y.disc = false → t =
    { code := code, nsid := nsid, scope := if nsid = 0 then [] else if nsid = 0xFFFFFFFF then u.activeNs y else [nsid - 1], cntlid := u.cntlid k, beat := u.beat }
    → (code = 0xF → exec (.nvmeDeviceSelfTest c cid flags nsid code) s = .next ((u.selftestEnd 1).nvmeResp c cid 0 0 0)) ∧ (code ≠ 0xF → code ≠ 1 →
    code ≠ 2 → exec (.nvmeDeviceSelfTest c cid flags nsid code) s = .next (u.nvmeResp c cid stField 0 0)) ∧ ((code = 1 ∨ code = 2) → nsid ≠ 0 → nsid ≠
    0xFFFFFFFF → (u.activeNs y).contains (nsid - 1) = false → exec (.nvmeDeviceSelfTest c cid flags nsid code) s = .next (u.nvmeResp c cid stNs 0 0)) ∧
    ((code = 1 ∨ code = 2) → (nsid = 0 ∨ nsid = 0xFFFFFFFF ∨ (u.activeNs y).contains (nsid - 1) = true) → exec (.nvmeDeviceSelfTest c cid flags nsid
    code) s = .next (if u.host.selftest.isSome = true then u.nvmeResp c cid (nvmeStatus 1 0x1D false) 0 0 else ((u.modHost (fun h =>
    { h with selftest := some t })).selftestShow t false).nvmeResp c cid 0 0 0))) ∧
  (∀ (c cid flags k sqid acid : Nat) (x : TcpConn) (y : Ctrl) (s u : State), s.AdminTurn c flags k x y u → y.disc = false → (4 ≤ u.abortsOut k → exec
    (.nvmeAbort c cid flags sqid acid) s = .next (u.nvmeResp c cid (nvmeStatus 1 0x03 false) 0 0)) ∧ (u.abortsOut k < 4 → sqid = 0 → y.aers.contains
    acid = true → exec (.nvmeAbort c cid flags sqid acid) s = .next
    (let r := (u.modCtrl k (fun y => { y with aers := y.aers.erase acid })).newReq { tag := 0, kind := .admin, origin := .nvt c acid, vol := 2 ^ 20, cls := 6 } false; r.2.abortDone c cid (some r.1)))
    ∧ (u.abortsOut k < 4 → (sqid ≠ 0 ∨ y.aers.contains acid = false) → exec (.nvmeAbort c cid flags sqid acid) s = .next
    (match u.abortTarget k sqid acid with | some (t, r) => if r.pastReturn then u.abortDone c cid none else (u.abortDone c cid (some t)).wakeHeld | none => u.abortDone c cid none))) ∧
  (∀ (c cid flags k : Nat) (x : TcpConn) (y : Ctrl) (s u : State), s.AdminTurn c flags k x y u → exec (.nvmeKeepAlive c cid flags) s = .next (u.nvmeResp
    c cid 0 0 0)) ∧
  (∀ (c cid flags k : Nat) (x : TcpConn) (y : Ctrl) (s u : State), s.AdminTurn c flags k x y u → y.disc = false → (y.aers.length < 8 → exec
    (.nvmeAsyncEventRequest c cid flags) s = .next ((u.modCtrl k (fun y => { y with aers := y.aers ++ [cid] })).eventGo k)) ∧ (8 ≤ y.aers.length → exec
    (.nvmeAsyncEventRequest c cid flags) s = .next (u.nvmeResp c cid (nvmeStatus 1 0x05 false) 0 0))) ∧
  (∀ (c cid flags k ofs v : Nat) (x : TcpConn) (y : Ctrl) (s u : State), s.AdminTurn c flags k x y u → exec (.nvmePropertyGet c cid flags ofs) s = .next
    (if ofs = 0 then u.nvmeResp c cid 0 (capProperty % 2 ^ 32) (capProperty / 2 ^ 32) else if ofs = 8 then u.nvmeResp c cid 0 0x20000 0 else if ofs =
    0x14 then u.nvmeResp c cid 0 y.cc 0 else if ofs = 0x1C then u.nvmeResp c cid 0 (y.cc % 2 + (if bitsOf y.cc 14 2 = 0 then 0 else 8)) 0 else
    u.nvmeResp c cid stField 0 0) ∧ exec (.nvmePropertySet c cid flags ofs v) s = .next (if ofs = 0x14 then (u.modCtrl k (fun y =>
    { y with cc := v % 2 ^ 32 })).nvmeResp c cid 0 0 0 else u.nvmeResp c cid stField 0 0)) ∧
  (∀ (c cid flags k a b : Nat) (x : TcpConn) (y : Ctrl) (s u : State), s.NvmeTurn c k x y → x.nvt = 3 → y.disc = true → u = s.nvmeCounted c k (2 ^ 20) →
    exec (.nvmeGetFeatures c cid flags a) s = .next (u.nvmeResp c cid stOpcode 0 0) ∧ exec (.nvmeSetFeatures c cid flags a b) s = .next (u.nvmeResp c
    cid stOpcode 0 0) ∧ exec (.nvmeDeviceSelfTest c cid flags a b) s = .next (u.nvmeResp c cid stOpcode 0 0) ∧ exec (.nvmeAbort c cid flags a b) s =
    .next (u.nvmeResp c cid stOpcode 0 0) ∧ exec (.nvmeAsyncEventRequest c cid flags) s = .next (u.nvmeResp c cid stOpcode 0 0)) ∧
  (∀ (c cid flags k : Nat) (x : TcpConn) (y : Ctrl) (s u : State), s.NvmeTurn c k x y → u = s.nvmeCounted c k (2 ^ 20) → (y.disc = true → exec
    (.nvmeDisconnect c cid flags) s = .next (u.nvmeResp c cid stOpcode 0 0)) ∧ (y.disc = false → flagsOk flags = true → exec (.nvmeDisconnect c cid
    flags) s = .next (u.connEnd c false [⟨5, [cid, ((u.conn c).map (·.sqhd)).getD 0, 0, 0, 0], 24 + x.dgst false⟩])) ∧ (y.disc = false → flagsOk flags
    = false → exec (.nvmeDisconnect c cid flags) s = .next (u.nvmeResp c cid stField 0 0)) ∧ exec (.nvmeInvalidOpcode c cid) s = .next (if x.nvt = 4
    then (let r := u.newReq { tag := 0, kind := .admin, origin := .nvt c cid, vol := 2 ^ 20, cls := 6 } false; r.2.finish r.1 (outcome stOpcode)) else
    u.nvmeResp c cid stOpcode 0 0)) ∧
  (∀ (ok : Bool) (t : SelfTest) (s : State), s.host.selftest = some t → (t.scope.any (fun v => (s.liveVol v).isNone) = true → exec (.selftestSegment ok)
    s = .next (s.selftestEnd 3)) ∧ (t.scope.any (fun v => (s.liveVol v).isNone) = false → s.loadAtMost 75 = false → exec (.selftestSegment ok) s =
    .next (s.selftestShow t true)) ∧ (t.scope.any (fun v => (s.liveVol v).isNone) = false → s.loadAtMost 75 = true → t.segment = 5 → (t.read.bind
    s.req).isSome = true → exec (.selftestSegment ok) s = .next (s.selftestShow t false))) ∧
  (∀ (ok : Bool) (t z : SelfTest) (s : State), s.host.selftest = some t → t.scope.any (fun v => (s.liveVol v).isNone) = false → s.loadAtMost 75 = true →
    t.segment = 5 → (t.read.bind s.req).isSome = false ∧ t.todo.getD (t.scope.flatMap (fun v => s.testBlocks t.code v)) = [] → z =
    { t with failed := if (ok && s.segmentKnown t.segment) = true ∨ t.failed ≠ 0 then t.failed else t.segment } → (t.segment ≠ 6 → exec
    (.selftestSegment ok) s = .next ((s.modHost (fun h => { h with selftest := some { z with segment := z.segment + 1 } })).selftestShow
    { z with segment := z.segment + 1 } false)) ∧ (t.segment = 6 → exec (.selftestSegment ok) s = .next ((s.modHost (fun h =>
    { h with selftest := some z })).selftestEnd (if z.failed = 0 then 0 else 7)))) ∧
  (∀ (ok : Bool) (t : SelfTest) (v lba tag : Nat) (rest : List (Nat × Nat)) (s u : State), s.host.selftest = some t → t.scope.any (fun v => (s.liveVol
    v).isNone) = false → s.loadAtMost 75 = true → t.segment = 5 → (t.read.bind s.req).isSome = false → t.todo.getD (t.scope.flatMap (fun v =>
    s.testBlocks t.code v)) = (v, lba) :: rest → (tag, u) = s.newReq
    { tag := 0, kind := .read, origin := .selftest, vol := v, lba := lba, blocks := 1, cls := 6 } true → exec (.selftestSegment ok) s = .next
    (((u.modHost (fun h => { h with selftest := some { t with todo := some rest, read := some tag } })).resolve tag []).selftestShow t false)) ∧
  (∀ (t : SelfTest) (s : State), s.host.selftest = some t → t.code = 1 → t.beat + 15000000 ≤ s.beat → exec .selftestTimeout s = .next ((s.raise Slot.NVT
    Cond.SELFTEST_TIMEOUT t.segment).selftestEnd 8))

/-- Read, Write, Write Zeroes, Dataset Management and Flush become requests of ADM, counted by their statistics, or end with the status of what
they lack (rests on R426, R438, R439, R441, spec/10_host_ports_nvme_tcp.md). -/
def Obligations.IoCommandsBecomeRequests : Prop :=
  (∀ (c cid flags k t nsid lba blocks sgl : Nat) (x : TcpConn) (y : Ctrl) (q : Req) (s v : State), s.IoIn c cid k x y
    { tag := 0, kind := .read, origin := .internal, vol := volOf nsid, lba := lba, blocks := blocks, cls := 0 } q t v → v.ioStops flags (rwLimit blocks
    sgl) x y (volOf nsid) = 0 → v.takeNotice x.cntlid (volOf nsid) = none → exec (.nvmeRead c cid flags nsid lba blocks sgl) s = .next
    ((let u := ((v.sts c q.vol F.NVT_STS_READS_COUNT).sts c q.vol F.NVT_STS_READ_BLOCKS_COUNT blocks).modHost (fun h => { h with reads := h.reads + 1 }); if u.readRefusal q false ≠ 0 then u.finish t (u.readRefusal q false) else u.pfxRead q))) ∧
  (∀ (c cid flags k t nsid lba blocks sgl : Nat) (icd : List Nat) (x : TcpConn) (y : Ctrl) (q : Req) (s v : State), s.IoIn c cid k x y
    { tag := 0, kind := .write, origin := .internal, vol := volOf nsid, lba := lba, blocks := blocks, cls := 4, icd := icd } q t v → v.ioStops flags
    (if icd ≠ [] ∧ 8192 < sgl then outField else rwLimit blocks sgl) x y (volOf nsid) = 0 → v.takeNotice x.cntlid (volOf nsid) = none → exec
    (.nvmeWrite c cid flags nsid lba blocks sgl icd) s = .next
    ((let u := ((v.sts c q.vol F.NVT_STS_WRITES_COUNT).sts c q.vol F.NVT_STS_WRITE_BLOCKS_COUNT blocks).modHost (fun h => { h with writes := h.writes + 1 }); if icd = [] then u else u.bump (F.NVT_CNT_ICD_COUNT (connUnit c))))) ∧
  (∀ (c cid flags k t nsid lba blocks : Nat) (x : TcpConn) (y : Ctrl) (q : Req) (s v : State), s.IoIn c cid k x y
    { tag := 0, kind := .zeroes, origin := .internal, vol := volOf nsid, lba := lba, blocks := blocks, cls := 4, ranges := [(lba, blocks)] } q t v →
    v.ioStops flags (if blocks = 0 ∨ 65536 < blocks then outField else 0) x y (volOf nsid) = 0 → v.takeNotice x.cntlid (volOf nsid) = none → exec
    (.nvmeWriteZeroes c cid flags nsid lba blocks) s = .next (v)) ∧
  (∀ (c cid flags k t nsid : Nat) (ad : Bool) (ranges : List (Nat × Nat)) (x : TcpConn) (y : Ctrl) (q : Req) (s v : State), s.IoIn c cid k x y
    { tag := 0, kind := .dealloc, origin := .internal, vol := volOf nsid, lba := (ranges.headD (0, 0)).1, blocks := (ranges.map (·.2)).sum, cls := 4, ranges := ranges }
    q t v → v.ioStops flags (dsmLimit ad ranges) x y (volOf nsid) = 0 → v.takeNotice x.cntlid (volOf nsid) = none → exec (.nvmeDatasetManagement c cid
    flags nsid ad ranges) s = .next v) ∧
  (∀ (c cid flags k t st nsid lba blocks sgl : Nat) (x : TcpConn) (y : Ctrl) (q : Req) (s v : State), s.IoIn c cid k x y
    { tag := 0, kind := .read, origin := .internal, vol := volOf nsid, lba := lba, blocks := blocks, cls := 0 } q t v → v.ioStops flags (rwLimit blocks
    sgl) x y (volOf nsid) = st → st ≠ 0 → exec (.nvmeRead c cid flags nsid lba blocks sgl) s = .next (v.finish t st)) ∧
  (∀ (c cid flags k t st nsid lba blocks sgl : Nat) (icd : List Nat) (x : TcpConn) (y : Ctrl) (q : Req) (s v : State), s.IoIn c cid k x y
    { tag := 0, kind := .write, origin := .internal, vol := volOf nsid, lba := lba, blocks := blocks, cls := 4, icd := icd } q t v → v.ioStops flags
    (if icd ≠ [] ∧ 8192 < sgl then outField else rwLimit blocks sgl) x y (volOf nsid) = st → st ≠ 0 → exec (.nvmeWrite c cid flags nsid lba blocks sgl
    icd) s = .next (v.finish t st)) ∧
  (∀ (c cid flags k t st nsid lba blocks : Nat) (x : TcpConn) (y : Ctrl) (q : Req) (s v : State), s.IoIn c cid k x y
    { tag := 0, kind := .zeroes, origin := .internal, vol := volOf nsid, lba := lba, blocks := blocks, cls := 4, ranges := [(lba, blocks)] } q t v →
    v.ioStops flags (if blocks = 0 ∨ 65536 < blocks then outField else 0) x y (volOf nsid) = st → st ≠ 0 → exec (.nvmeWriteZeroes c cid flags nsid lba
    blocks) s = .next (v.finish t st)) ∧
  (∀ (c cid flags k t st nsid : Nat) (ad : Bool) (ranges : List (Nat × Nat)) (x : TcpConn) (y : Ctrl) (q : Req) (s v : State), s.IoIn c cid k x y
    { tag := 0, kind := .dealloc, origin := .internal, vol := volOf nsid, lba := (ranges.headD (0, 0)).1, blocks := (ranges.map (·.2)).sum, cls := 4, ranges := ranges }
    q t v → v.ioStops flags (dsmLimit ad ranges) x y (volOf nsid) = st → st ≠ 0 → exec (.nvmeDatasetManagement c cid flags nsid ad ranges) s = .next
    (v.finish t st)) ∧
  (∀ (c cid flags k t nsid lba blocks sgl : Nat) (x : TcpConn) (y : Ctrl) (q : Req) (s v w : State), s.IoIn c cid k x y
    { tag := 0, kind := .read, origin := .internal, vol := volOf nsid, lba := lba, blocks := blocks, cls := 0 } q t v → v.ioStops flags (rwLimit blocks
    sgl) x y (volOf nsid) = 0 → v.takeNotice x.cntlid (volOf nsid) = some w → exec (.nvmeRead c cid flags nsid lba blocks sgl) s = .next (w.finish t
    Cond.DEFERRED_ERROR)) ∧
  (∀ (c cid flags k t nsid lba blocks sgl : Nat) (icd : List Nat) (x : TcpConn) (y : Ctrl) (q : Req) (s v w : State), s.IoIn c cid k x y
    { tag := 0, kind := .write, origin := .internal, vol := volOf nsid, lba := lba, blocks := blocks, cls := 4, icd := icd } q t v → v.ioStops flags
    (if icd ≠ [] ∧ 8192 < sgl then outField else rwLimit blocks sgl) x y (volOf nsid) = 0 → v.takeNotice x.cntlid (volOf nsid) = some w → exec
    (.nvmeWrite c cid flags nsid lba blocks sgl icd) s = .next (w.finish t Cond.DEFERRED_ERROR)) ∧
  (∀ (c cid flags k t nsid lba blocks : Nat) (x : TcpConn) (y : Ctrl) (q : Req) (s v w : State), s.IoIn c cid k x y
    { tag := 0, kind := .zeroes, origin := .internal, vol := volOf nsid, lba := lba, blocks := blocks, cls := 4, ranges := [(lba, blocks)] } q t v →
    v.ioStops flags (if blocks = 0 ∨ 65536 < blocks then outField else 0) x y (volOf nsid) = 0 → v.takeNotice x.cntlid (volOf nsid) = some w → exec
    (.nvmeWriteZeroes c cid flags nsid lba blocks) s = .next (w.finish t Cond.DEFERRED_ERROR)) ∧
  (∀ (c cid flags k t nsid : Nat) (ad : Bool) (ranges : List (Nat × Nat)) (x : TcpConn) (y : Ctrl) (q : Req) (s v w : State), s.IoIn c cid k x y
    { tag := 0, kind := .dealloc, origin := .internal, vol := volOf nsid, lba := (ranges.headD (0, 0)).1, blocks := (ranges.map (·.2)).sum, cls := 4, ranges := ranges }
    q t v → v.ioStops flags (dsmLimit ad ranges) x y (volOf nsid) = 0 → v.takeNotice x.cntlid (volOf nsid) = some w → exec (.nvmeDatasetManagement c
    cid flags nsid ad ranges) s = .next (w.finish t Cond.DEFERRED_ERROR)) ∧
  (∀ (c cid flags k nsid t : Nat) (vols : List Nat) (x : TcpConn) (y : Ctrl) (q : Req) (s v : State), s.NvmeTurn c k x y → vols = (if nsid = 0xFFFFFFFF
    then y.attach else [volOf nsid]) → q = { flushReq vols with origin := .nvt c cid, assoc := x.cntlid } → (t, v) = (s.nvmeCounted c k (volOf
    nsid)).newReq q (nsid != 0xFFFFFFFF && ((s.nvmeCounted c k (volOf nsid)).liveVol q.vol).isSome) → x.nvt = 4 → flagsOk flags = true → (nsid =
    0xFFFFFFFF ∨ (y.attach.contains (volOf nsid) = true ∧ (v.liveVol (volOf nsid)).isSome = true)) → exec (.nvmeFlush c cid flags nsid) s = .next
    (match vols.findSome? (fun u => v.takeNotice x.cntlid u) with | some w => w.finish t Cond.DEFERRED_ERROR | none => if v.anaRefusal ≠ 0 then v.finish t v.anaRefusal else v.modReq t (fun r => { r with stage := .waiting }))) ∧
  (∀ (c cid flags k nsid t : Nat) (vols : List Nat) (x : TcpConn) (y : Ctrl) (q : Req) (s v : State), s.NvmeTurn c k x y → vols = (if nsid = 0xFFFFFFFF
    then y.attach else [volOf nsid]) → q = { flushReq vols with origin := .nvt c cid, assoc := x.cntlid } → (t, v) = (s.nvmeCounted c k (volOf
    nsid)).newReq q (nsid != 0xFFFFFFFF && ((s.nvmeCounted c k (volOf nsid)).liveVol q.vol).isSome) → (x.nvt ≠ 4 ∨ flagsOk flags = false) → exec
    (.nvmeFlush c cid flags nsid) s = .next (v.finish t (if x.nvt ≠ 4 then outcome stOpcode else outField))) ∧
  (∀ (c cid flags k nsid t : Nat) (vols : List Nat) (x : TcpConn) (y : Ctrl) (q : Req) (s v : State), s.NvmeTurn c k x y → vols = (if nsid = 0xFFFFFFFF
    then y.attach else [volOf nsid]) → q = { flushReq vols with origin := .nvt c cid, assoc := x.cntlid } → (t, v) = (s.nvmeCounted c k (volOf
    nsid)).newReq q (nsid != 0xFFFFFFFF && ((s.nvmeCounted c k (volOf nsid)).liveVol q.vol).isSome) → x.nvt = 4 → flagsOk flags = true → nsid ≠
    0xFFFFFFFF → (y.attach.contains (volOf nsid) = false ∨ (v.liveVol (volOf nsid)).isNone = true) → exec (.nvmeFlush c cid flags nsid) s = .next
    (v.finish t Cond.VOLUME_ABSENT))

/-- A request of the key service whose turn it is runs its operation, or ends with the condition of the first check it fails (rests on R223,
R358, R584, R585, R589, R590, R591, R592, R593, R596, spec/14_secure_core_and_keys.md). -/
def Obligations.KeyServiceRequestsRun : Prop :=
  (∀ (a : Nat) (s : State), s.KeyTurn 1 a → s.blkWord a 1 ≤ 4095 → s.blkWord a 2 ≤ 255 → ((AL.get (s.blkWord a 1) s.vat.vats).map (fun x => x.state ==
    3)).getD false = false → exec .installVatKey s = .next
    (match s.unwrap (s.blkWord a 3) (s.blkKey a 4 40) with | .inr c => (s.kekUsed a 1 c).keyEnd c | .inl k => if !(s.vatGens (s.blkWord a 1)).contains (s.blkWord a 2) && decide (2 ≤ (s.vatGens (s.blkWord a 1)).length) then s.keyEnd Cond.KEY_EXISTS else ((s.keyPut (hVat (s.blkWord a 1) (s.blkWord a 2)) { value := k }).kekUsed a 1 0).keyEnd 0)) ∧
  (∀ (a : Nat) (s : State), s.KeyTurn 1 a → (4095 < s.blkWord a 1 ∨ 255 < s.blkWord a 2 ∨ ((AL.get (s.blkWord a 1) s.vat.vats).map (fun x => x.state ==
    3)).getD false = true) → exec .installVatKey s = .next (s.keyEnd Cond.KEY_REQ_INVALID)) ∧
  (∀ (a : Nat) (s : State), s.KeyTurn 2 a → exec .removeVatKey s = .next (if 4095 < s.blkWord a 1 ∨ 255 < s.blkWord a 2 ∨ s.keyHeld (hVat (s.blkWord a 1)
    (s.blkWord a 2)) = false then s.keyEnd Cond.KEY_REQ_INVALID else (s.keyRemove (hVat (s.blkWord a 1) (s.blkWord a 2))).keyEnd 0)) ∧
  (∀ (a : Nat) (s : State), s.KeyTurn 3 a → s.blkWord a 1 ≠ 0 → s.blkWord a 1 ≤ 4095 → s.blkWord a 2 ≤ 31 → (s.blkWord a 3 = 32 ∨ s.blkWord a 3 = 64) →
    exec .installSlot s = .next
    (match s.unwrap (s.blkWord a 4) (s.blkKey a 5 (s.blkWord a 3 + 8)) with | .inr c => (s.kekUsed a 3 c).keyEnd c | .inl v => if AL.has (hSlot (s.blkWord a 1)) s.sec.handles then s.keyEnd Cond.KEY_EXISTS else ((let u := s.keyPut (hSlot (s.blkWord a 1)) { use := s.blkWord a 2, long := s.blkWord a 3 == 64, value := v }; if bitOf (s.blkWord a 2) 0 then u.putItem (0x80000 + s.blkWord a 1) v (s.blkWord a 2 * 65536 + s.blkWord a 3) else u).kekUsed a 3 0).keyEnd 0)) ∧
  (∀ (a : Nat) (s : State), s.KeyTurn 3 a → (s.blkWord a 1 = 0 ∨ 4095 < s.blkWord a 1 ∨ 31 < s.blkWord a 2 ∨ (s.blkWord a 3 ≠ 32 ∧ s.blkWord a 3 ≠ 64)) →
    exec .installSlot s = .next (s.keyEnd Cond.KEY_REQ_INVALID)) ∧
  (∀ (slot use key a : Nat) (ok : Bool) (s : State), s.KeyTurn 4 a → exec (.importKek slot use key ok) s = .next (if slot = 0 ∨ 4095 < slot ∨ 31 < use ∨
    inHbm (s.blkAddr a 1) (s.blkWord a 2) = false then s.keyEnd Cond.KEY_REQ_INVALID else if AL.has (hSlot slot) s.sec.handles then s.keyEnd
    Cond.KEY_EXISTS else if ok = false ∨ s.sec.fuses.rootI = none then s.keyEnd Cond.KEY_IMPORT_AUTH_FAIL else
    (let u := s.keyPut (hSlot slot) { use := use, value := key }; if bitOf use 0 then u.putItem (0x80000 + slot) key (use * 65536 + 32) else u).keyEnd
    0)) ∧
  (∀ (a : Nat) (s : State), s.KeyTurn 5 a → exec .removeSlot s = .next (if s.keyHeld (hSlot (s.blkWord a 1)) = false then s.keyEnd Cond.KEY_SLOT_EMPTY
    else ((s.keyRemove (hSlot (s.blkWord a 1))).modFlash (fun f =>
    { f with slots := AL.upd f.slot {} (fun x => { x with items := x.items.filter (fun q => q.1 != 0x80000 + s.blkWord a 1) }) f.slots })).keyEnd 0)) ∧
  (∀ (a : Nat) (s : State), s.KeyTurn 6 a → exec .saltExport s = .next (if AL.has (s.blkWord a 1) s.vat.vats = false then s.keyEnd Cond.VAT_ABSENT else
    (match s.kek (s.blkWord a 2) with | .inr c => s.keyEnd c | .inl k => ((s.putBytes (s.blkAddr a 3) (beBytes 40 (Config.keyWrap k (s.saltOf (s.blkWord a 1)) 32))).kekUsed a 6 0).keyEnd 0))) ∧
  (∀ (a : Nat) (x : Vat) (s : State), s.KeyTurn 7 a → AL.get (s.blkWord a 1) s.vat.vats = some x → x.state = 1 → x.published = false → s.vat.vols.any
    (fun q => q.2.vat == s.blkWord a 1) = false → exec .saltImport s = .next
    (match s.unwrap (s.blkWord a 2) (s.blkKey a 3 40) with | .inr c => (s.kekUsed a 7 c).keyEnd c | .inl k => (((s.setVat (s.blkWord a 1) { x with salt := k }).keyStore (hSalt (s.blkWord a 1))).kekUsed a 7 0).keyEnd 0)) ∧
  (∀ (a : Nat) (s : State), s.KeyTurn 7 a → (AL.get (s.blkWord a 1) s.vat.vats = none → exec .saltImport s = .next (s.keyEnd Cond.VAT_ABSENT)) ∧ (∀ x,
    AL.get (s.blkWord a 1) s.vat.vats = some x → x.state ≠ 1 ∨ x.published = true ∨ s.vat.vols.any (fun q => q.2.vat == s.blkWord a 1) = true → exec
    .saltImport s = .next (s.keyEnd Cond.SALT_IMPORT_REFUSED))) ∧
  (∀ (a : Nat) (s : State), s.KeyTurn 8 a → exec .installFabricSalt s = .next (if s.vat.vats.any (fun q => decide (0xF00 ≤ q.1)) = true then s.keyEnd
    Cond.FABRIC_SALT_IN_USE else
    (match s.unwrap (s.blkWord a 1) (s.blkKey a 2 40) with | .inr c => (s.kekUsed a 8 c).keyEnd c | .inl k => (((s.keyPut (hSalt 0xF00) { value := k }).putItem 7 k 32).kekUsed a 8 0).keyEnd 0))) ∧
  (∀ (a : Nat) (s : State), s.KeyTurn 9 a → exec .setPairKey s = .next (if s.mode ≠ .boot ∧ s.mode ≠ .service then s.keyEnd Cond.MODE_REQ_INVALID else
    (match s.unwrap (s.blkWord a 1) (s.blkKey a 2 40) with | .inr c => (s.kekUsed a 9 c).keyEnd c | .inl k => (((s.modSec (fun x => { x with pairKey := some k })).putItem 6 k 32).kekUsed a 9 0).keyEnd 0))) ∧
  (∀ (a : Nat) (s : State), s.KeyTurn 10 a → exec .quote s = .next (if inHbm (s.blkAddr a 5) 6019 = false then s.keyEnd Cond.KEY_REQ_INVALID else
    (s.putBytes (s.blkAddr a 5) (s.quote (s.bytesAt (a + 8) 32))).keyEnd 0)) ∧
  (∀ (a : Nat) (s : State), s.KeyTurn 11 a → exec .identity s = .next ((s.putBytes (s.blkAddr a 1) ((List.range 97).map (fun i => (Config.pubKey 0
    i).toNat) ++ (List.range 97).map (fun i => (Config.pubKey 1 i).toNat) ++ (List.range 2592).map (fun i => (Config.pubKey 2 i).toNat) ++ (List.range
    1568).map (fun i => (Config.pubKey 3 i).toNat))).keyEnd 0)) ∧
  (∀ (a : Nat) (s : State), s.KeyTurn 12 a → s.get F.SEC_ENT_STAT_STATE ≠ 3 → exec .random s = .next (if s.get F.SEC_DRBG_STAT_READY = 0 then s.keyEnd
    Cond.ENTROPY_FAIL else if s.blkWord a 1 = 0 ∨ 4096 < s.blkWord a 1 ∨ inHbm (s.blkAddr a 2) (s.blkWord a 1) = false then s.keyEnd
    Cond.KEY_REQ_INVALID else ((s.draw256.2).putBytes (s.blkAddr a 2) ((List.range (s.blkWord a 1)).map (fun i => (Config.drbg s.sec.drbgCount (i /
    8)).toNat / 256 ^ (i % 8) % 256))).keyEnd 0)) ∧
  (∀ (s : State), s.get F.SEC_ENT_STAT_STATE = 3 → exec .random s = .next s) ∧
  (∀ (a i : Nat) (k : KeyH) (s : State), s.KeyTurn 13 a → AL.get (hSlot (s.blkWord a 1)) s.sec.handles = some k → k.removing = false → bitOf k.use 3 =
    true → (bitsOf (s.descWord (s.blkAddr a 2) 0) 60 4 = 1 ∨ bitsOf (s.descWord (s.blkAddr a 2) 0) 60 4 = 2) → bitsOf (s.descWord (s.blkAddr a 2) 5) 0
    8 = 0 → s.hmacSlice = some i → exec .hmac s = .next
    (let r := s.newReq { tag := 0, kind := .hmac, origin := .internal, lba := s.blkAddr a 2, blocks := 0, cls := 6, stage := .waiting, slice := i, vol := s.blkWord a 1 } false; (r.2.set F.KEY_CMD_STAT_BUSY 1).modSec (fun x => { x with hmacTag := some r.1 }))) ∧
  (∀ (a : Nat) (s : State), s.KeyTurn 13 a → (∀ k, AL.get (hSlot (s.blkWord a 1)) s.sec.handles = some k → k.removing = true) → exec .hmac s = .next
    (s.keyEnd Cond.KEY_SLOT_EMPTY)) ∧
  (∀ (a : Nat) (k : KeyH) (s : State), s.KeyTurn 13 a → AL.get (hSlot (s.blkWord a 1)) s.sec.handles = some k → k.removing = false → (bitOf k.use 3 =
    false → exec .hmac s = .next (s.keyEnd Cond.KEY_USE_REFUSED)) ∧ (bitOf k.use 3 = true → (bitsOf (s.descWord (s.blkAddr a 2) 0) 60 4 ≠ 1 ∧ bitsOf
    (s.descWord (s.blkAddr a 2) 0) 60 4 ≠ 2) ∨ bitsOf (s.descWord (s.blkAddr a 2) 5) 0 8 ≠ 0 → exec .hmac s = .next (s.keyEnd
    Cond.DIGEST_JOB_INVALID))) ∧
  (∀ (a : Nat) (k : KeyH) (s : State), s.KeyTurn 13 a → AL.get (hSlot (s.blkWord a 1)) s.sec.handles = some k → k.removing = false → bitOf k.use 3 = true
    → (bitsOf (s.descWord (s.blkAddr a 2) 0) 60 4 = 1 ∨ bitsOf (s.descWord (s.blkAddr a 2) 0) 60 4 = 2) → bitsOf (s.descWord (s.blkAddr a 2) 5) 0 8 = 0
    → s.hmacSlice = none → exec .hmac s = .next s)

/-- Entropy tests, reseeds, fuse programming and measurement registers act as their rules say (rests on R571, R577, R578, R579, R580, R581, R594,
R595, R596, spec/14_secure_core_and_keys.md). -/
def Obligations.EntropyFusesAndMeasurementsAct : Prop :=
  (∀ (samples : List Nat) (s : State), s.get F.SEC_ENT_STAT_STATE = 0 → rctFails (s.get F.SEC_ENT_CFG_RCT_CUTOFF) 0 0 samples = false → aptFails (s.get
    F.SEC_ENT_CFG_APT_CUTOFF) samples = false → exec (.entropyStartupTest samples) s = .next ((s.set F.SEC_ENT_STAT_STATE 1).set F.SEC_DRBG_STAT_READY
    1)) ∧
  (∀ (samples : List Nat) (rf af : Bool) (s u : State), s.get F.SEC_ENT_STAT_STATE = 0 → rctFails (s.get F.SEC_ENT_CFG_RCT_CUTOFF) 0 0 samples = rf →
    aptFails (s.get F.SEC_ENT_CFG_APT_CUTOFF) samples = af → (rf = true ∨ af = true) → u = (if af then (if rf then s.bump F.SEC_ENT_CNT_RCT_COUNT else
    s).bump F.SEC_ENT_CNT_APT_COUNT else if rf then s.bump F.SEC_ENT_CNT_RCT_COUNT else s).modSec (fun x => { x with entFails := x.entFails + 1 }) →
    (u.sec.entFails < 5 → exec (.entropyStartupTest samples) s = .next u) ∧ (5 ≤ u.sec.entFails → exec (.entropyStartupTest samples) s = .next
    (let v := (u.set F.SEC_ENT_STAT_STATE 2).raise (Slot.SEC + 1) Cond.ENTROPY_FAIL; { v with health := { v.health with bootHalted := true } }))) ∧
  (∀ (rct : Bool) (s u : State), (s.get F.SEC_ENT_STAT_STATE = 1 ∨ s.get F.SEC_ENT_STAT_STATE = 3) → u = s.bump (if rct then F.SEC_ENT_CNT_RCT_COUNT else
    F.SEC_ENT_CNT_APT_COUNT) → exec (.entropyTestFail rct) s = .next
    (let v := u.setAll [(F.SEC_ENT_STAT_STATE, 3), (F.SEC_DRBG_STAT_READY, 0), (F.SEC_ENT_STAT_FAILS, u.get F.SEC_ENT_STAT_FAILS + 1)]; if u.get F.SEC_ENT_STAT_FAILS + 1 = 16 then v.raiseAt (Slot.SEC + 1) Cond.ENTROPY_FAIL 16 6 else v.raise (Slot.SEC + 1) Cond.ENTROPY_FAIL (u.get F.SEC_ENT_STAT_FAILS + 1))) ∧
  (∀ (s : State), s.get F.SEC_ENT_STAT_STATE = 3 → exec .entropyRecovered s = .next ((s.set F.SEC_ENT_STAT_STATE 1).set F.SEC_DRBG_STAT_READY 1)) ∧
  (∀ (s : State), s.get F.SEC_ENT_STAT_STATE = 1 → (65536 ≤ s.get F.SEC_DRBG_STAT_SINCE_RESEED ∨ s.sec.reseedBeat + 16384 ≤ s.beat) → exec .drbgReseed s
    = .next (((s.set F.SEC_DRBG_STAT_SINCE_RESEED 0).bump F.SEC_CNT_RESEED_COUNT).modSec (fun x => { x with reseedBeat := s.beat }))) ∧
  (∀ (m addr : Nat) (ok : Bool) (s : State), s.judge m (Slot.SEC + 3) 0x110 true true = none → exec (.fuseSvnD m ok) s = .next (if s.fuseAllowed 1 =
    false then s.fuseResult 2 Cond.FUSE_PROG_REFUSED else if ok then ((s.modSec (fun x => { x with fuseGrant := none })).modFuses (fun f => f.blow 1
    (ofBytes (s.bytesAt 0 48)))).fuseResult 1 0 else (s.modSec (fun x => { x with fuseGrant := none })).fuseResult 3 Cond.FUSE_PROG_FAIL) ∧ exec
    (.fuseSvnI m ok) s = .next (if s.fuseAllowed 2 = false then s.fuseResult 2 Cond.FUSE_PROG_REFUSED else if ok then ((s.modSec (fun x =>
    { x with fuseGrant := none })).modFuses (fun f => f.blow 2 (ofBytes (s.bytesAt 0 48)))).fuseResult 1 0 else (s.modSec (fun x =>
    { x with fuseGrant := none })).fuseResult 3 Cond.FUSE_PROG_FAIL) ∧ exec (.fuseRootI m addr ok) s = .next (if s.fuseAllowed 3 = false then
    s.fuseResult 2 Cond.FUSE_PROG_REFUSED else if ok then ((s.modSec (fun x => { x with fuseGrant := none })).modFuses (fun f => f.blow 3 (ofBytes
    (s.bytesAt addr 48)))).fuseResult 1 0 else (s.modSec (fun x => { x with fuseGrant := none })).fuseResult 3 Cond.FUSE_PROG_FAIL) ∧ exec
    (.fuseDebugDisable m ok) s = .next (if s.fuseAllowed 4 = false then s.fuseResult 2 Cond.FUSE_PROG_REFUSED else if ok then ((s.modSec (fun x =>
    { x with fuseGrant := none })).modFuses (fun f => f.blow 4 (ofBytes (s.bytesAt 0 48)))).fuseResult 1 0 else (s.modSec (fun x =>
    { x with fuseGrant := none })).fuseResult 3 Cond.FUSE_PROG_FAIL) ∧ exec (.fuseDebugRoot m ok) s = .next (if s.fuseAllowed 5 = false then
    s.fuseResult 2 Cond.FUSE_PROG_REFUSED else if ok then ((s.modSec (fun x => { x with fuseGrant := none })).modFuses (fun f => f.blow 5 (ofBytes
    (s.bytesAt 0 48)))).fuseResult 1 0 else (s.modSec (fun x => { x with fuseGrant := none })).fuseResult 3 Cond.FUSE_PROG_FAIL)) ∧
  (∀ (m k addr : Nat) (s : State), s.judge m Slot.MSR 0x118 true true = none → s.get F.MSR_EXTEND_STAT_BUSY ≠ 1 → s.msrRefusal (s.secureMaster m) k = 0 →
    exec (.msrExtend m k addr) s = .next ((s.msrExtend k (ofBytes (s.bytesAt addr (digestLen (msrAlg k))))).msrResult 1 0) ∧ exec (.msrLock m k) s =
    .next ((s.msrLock k).msrResult 1 0)) ∧
  (∀ (m k addr : Nat) (s : State), s.judge m Slot.MSR 0x118 true true = none → s.get F.MSR_EXTEND_STAT_BUSY ≠ 1 → (23 < k ∨ k = 7 ∨ (k < 8 ∧
    s.secureMaster m = false)) → exec (.msrExtend m k addr) s = .next ((s.raise Slot.MSR Cond.MSR_EXTEND_REFUSED k).msrResult 2
    Cond.MSR_EXTEND_REFUSED) ∧ exec (.msrLock m k) s = .next ((s.raise Slot.MSR Cond.MSR_EXTEND_REFUSED k).msrResult 2 Cond.MSR_EXTEND_REFUSED)) ∧
  (∀ (m k addr : Nat) (s : State), s.judge m Slot.MSR 0x118 true true = none → s.get F.MSR_EXTEND_STAT_BUSY ≠ 1 → k ≤ 23 → k ≠ 7 → (8 ≤ k ∨
    s.secureMaster m = true) → (s.msr k).locked = true → exec (.msrExtend m k addr) s = .next ((s.raise Slot.MSR Cond.MSR_LOCKED k).msrResult 2
    Cond.MSR_LOCKED) ∧ exec (.msrLock m k) s = .next ((s.raise Slot.MSR Cond.MSR_LOCKED k).msrResult 2 Cond.MSR_LOCKED)) ∧
  (∀ (m k addr : Nat) (s : State), s.judge m Slot.MSR 0x118 true true = none → s.get F.MSR_EXTEND_STAT_BUSY = 1 → exec (.msrExtend m k addr) s = .next
    (s.raise Slot.MSR Cond.MSR_BUSY k) ∧ exec (.msrLock m k) s = .next (s.raise Slot.MSR Cond.MSR_BUSY k))

/-- A reset pin held long enough resets the head, a short pulse does nothing, and a release that leaves no reset boots it (rests on R15, R499,
R663, R678, R698, R699, R700, R707, R721, spec/19_package_clocks_reset_test.md). -/
def Obligations.HeadResetsActAndRelease : Prop :=
  (∀ (ns : Nat) (s : State), 1000 ≤ ns → exec (.porstNAssert ns) s = .next { s.powerReset with pins := { s.powerReset.pins with porstLow := true } }) ∧
  (∀ (ns : Nat) (s : State), ns < 200 → exec (.porstNAssert ns) s = .next s ∧ exec (.srstNAssert ns) s = .next s) ∧
  (∀ (fuse : Nat) (s : State), s.pins.porstLow = true → s.powerOn.inReset = false → exec (.porstNRelease fuse) s = .next ((s.powerOn.bootFrom fuse).set
    F.LSE_MODE_PREV 0)) ∧
  (∀ (ns : Nat) (s : State), 1000 ≤ ns → s.mode ≠ .vault → s.mode ≠ .off → s.pins.porstLow = false → s.pins.tripped = false → exec (.srstNAssert ns) s =
    .next { s.beginReset 1 with pins := { (s.beginReset 1).pins with srstLow := true } }) ∧
  (∀ (ns : Nat) (s : State), s.mode = .vault ∨ s.mode = .off ∨ s.pins.porstLow = true ∨ s.pins.tripped = true → exec (.srstNAssert ns) s = .next s) ∧
  (∀ (fuse : Nat) (s : State), s.pins.srstLow = true → s.pins.porstLow = false → s.pins.internalHeld = false → exec (.srstNRelease fuse) s = .next
    (({ s with pins := { s.pins with srstLow := false } } : State).bootFrom fuse)) ∧
  (∀ (fuse : Nat) (s u : State), s.pins.internalHeld = true → u = ({ s with pins := { s.pins with internalHeld := false } } : State).advance 500 →
    u.inReset = false → exec (.internalReset fuse) s = .next (u.bootFrom fuse)) ∧
  (∀ (aonLost : Bool) (s : State), exec (.supplyLoss aonLost) s = .next
    { s.powerReset with pins := { s.powerReset.pins with porstLow := true, tripLatch := s.powerReset.pins.tripLatch && !aonLost } }) ∧
  (∀ (fuse : Nat) (s u : State), s.pins.porstLow = true → u = s.powerOn → u.inReset = true → exec (.porstNRelease fuse) s = .next u) ∧
  (∀ (fuse : Nat) (s u : State), s.pins.srstLow = true → u = { s with pins := { s.pins with srstLow := false } } → u.inReset = true → exec (.srstNRelease
    fuse) s = .next u) ∧
  (∀ (fuse : Nat) (s u : State), s.pins.internalHeld = true → u = ({ s with pins := { s.pins with internalHeld := false } } : State).advance 500 →
    u.inReset = true → exec (.internalReset fuse) s = .next u)

/-- A HELLO takes a number and an accept slot, an answer accepts or refuses it, and the set-up of either end completes or ends (rests on R460,
R467, R468, R469, R470, R471, R498, R499, spec/11_lumvas_direct_transport.md). -/
def Obligations.DirectTransportSetsUp : Prop :=
  (∀ (u iface addr n w : Nat) (v6 : Bool) (data : List Nat) (s : State), u < 2 → s.ldtServing u = true → s.ldtListens u iface = true → helloOk data =
    true → s.helloHeld u data = none → s.freeConn u = some n → s.freeAccept u = some w → exec (.ldtHelloRx u iface addr v6 data) s = .next
    (s.helloTakeIn u iface addr v6 data n w)) ∧
  (∀ (u iface addr : Nat) (v6 : Bool) (data : List Nat) (s : State), u < 2 → (s.accepts Blk.LDT u = false ∨ s.ldtListens u iface = false → exec
    (.ldtHelloRx u iface addr v6 data) s = .next (s.bump (F.LDT_CNT_NO_CONN_COUNT u))) ∧ (s.accepts Blk.LDT u = true → s.ldtListens u iface = true →
    helloOk data = false → exec (.ldtHelloRx u iface addr v6 data) s = .next s)) ∧
  (∀ (u iface addr n : Nat) (v6 : Bool) (x : LdtConn) (data : List Nat) (s : State), u < 2 → s.accepts Blk.LDT u = true → s.ldtListens u iface = true →
    helloOk data = true → s.helloHeld u data = some (n, x) → exec (.ldtHelloRx u iface addr v6 data) s = .next (if x.state = 2 then s.ldtClear n 0xD
    x.resp else s)) ∧
  (∀ (u iface addr : Nat) (v6 : Bool) (data : List Nat) (s : State), u < 2 → s.accepts Blk.LDT u = true → s.ldtListens u iface = true → helloOk data =
    true → s.helloHeld u data = none → (s.ldtServing u = false → exec (.ldtHelloRx u iface addr v6 data) s = .next (s.helloRefuse u iface addr data 3))
    ∧ (s.ldtServing u = true → s.freeConn u = none ∨ s.freeAccept u = none → exec (.ldtHelloRx u iface addr v6 data) s = .next (s.helloRefuse u iface
    addr data 2))) ∧
  (∀ (m u w : Nat) (s : State), u < 2 → s.judge m (ldtSlot u 1) 0x100 true false = none → s.ldt.acceptQ.find? (fun w => w / 64 == u) = some w → exec
    (.ldtAcceptQRead m u) s = .next
    (let a := (AL.get w s.ldt.slots).getD ⟨0, 0, 0, false⟩; let x := (s.lconn a.conn).getD {}; ((s.answer (2 ^ 63 + w % 64 * 2 ^ 32 + a.conn % 2 ^ 20)).setAll [(F.LDT_ACCEPT_INFO_IF u, x.iface % 128), (F.LDT_ACCEPT_INFO_V6 u, b2n x.v6), (F.LDT_ACCEPT_INFO_CRED_LEN u, a.credLen), (F.LDT_ACCEPT_INFO_SCID u, x.scid)]).modLdt (fun t => { t with acceptQ := t.acceptQ.erase w }) |>.acceptIrq u)) ∧
  (∀ (m u : Nat) (s : State), u < 2 → s.judge m (ldtSlot u 1) 0x100 true false = none → s.ldt.acceptQ.find? (fun w => w / 64 == u) = none → exec
    (.ldtAcceptQRead m u) s = .next (s.answer 0)) ∧
  (∀ (m u slot : Nat) (a : AcceptSlot) (s : State), u < 2 → slot < 64 → s.judge m (ldtSlot u 1) 0x110 true true = none → AL.get (64 * u + slot)
    s.ldt.slots = some a → a.yes = false → exec (.ldtAccept m u slot) s = .next (if s.mayDraw = true then s.acceptYes (64 * u + slot) else s.modLdt
    (fun t => { t with slots := AL.upd (64 * u + slot) ⟨0, 0, 0, false⟩ (fun y => { y with yes := true }) t.slots })) ∧ exec (.ldtRefuse m u slot) s =
    .next (s.acceptRefuse (64 * u + slot) 1) ∧ exec (.ldtRefuseBusy m u slot) s = .next (s.acceptRefuse (64 * u + slot) 2)) ∧
  (∀ (u slot : Nat) (a : AcceptSlot) (s : State), u < 2 → slot < 64 → AL.get (64 * u + slot) s.ldt.slots = some a → a.yes = false → a.beat + 1024 * s.get
    (F.LDT_TMO_CFG_ACCEPT_TMO u) ≤ s.beat → exec (.ldtAcceptTimeout u slot) s = .next ((s.raise (ldtSlot u 1) Cond.LDT_ACCEPT_TIMEOUT
    a.conn).acceptRefuse (64 * u + slot) 2)) ∧
  (∀ (u dcid n : Nat) (data : List Nat) (x : LdtConn) (s : State), u < 2 → s.connNamed u dcid = some (n, x) → x.initiator = true → x.state = 1 →
    data.getD 10 0 = 0 → exec (.ldtHelloRespRx u dcid data true) s = .next
    (let y : LdtConn := { x with state := 3, scid := bytesNat data 0 4, paths := data.getD 6 0, seg := data.getD 7 0, qdepth := bytesNat data 8 2, prk := setupPrk x.nonce (bytesNat data 12 32) (Config.ecShared x.secret ((data.drop 44).take 97)).toNat (Config.kemOpened x.secret ((data.drop 141).take 1568)).toNat, th := (Config.sha384 (x.hello ++ data)).toNat, pathSt := s.freshPaths u (data.getD 6 0), peerLimit := bytesNat data 8 2, ownLimit := bytesNat data 8 2, stateBeat := s.beat, lastRx := s.beat }; ((((s.modLdt (fun t => { t with conns := AL.put n y t.conns })).ldtKey n 0).bump (F.LDT_CNT_SETUP_COUNT u)).ldtMsg n 0xE 4723 0 (leOf (setupSigs (x.hello ++ data)))).headGo)) ∧
  (∀ (u dcid n : Nat) (data : List Nat) (ok : Bool) (x : LdtConn) (s : State), u < 2 → s.connNamed u dcid = some (n, x) → x.initiator = true → x.state =
    1 → (data.getD 10 0 ≠ 0 → exec (.ldtHelloRespRx u dcid data ok) s = .next (s.ldtClose n false)) ∧ (data.getD 10 0 = 0 → exec (.ldtHelloRespRx u
    dcid data false) s = .next s)) ∧
  (∀ (u dcid n : Nat) (ok : Bool) (x : LdtConn) (s : State), u < 2 → (s.connNamed u dcid = some (n, x) → (x.state = 2 ∨ x.state = 3) → s.ldtServing u =
    true → s.ldtListens u x.iface = true → exec (.ldtFinishRx u dcid false ok) s = .next (s.lsts n 0 F.LDT_STS_AUTH_COUNT) ∧ (x.state = 3 → exec
    (.ldtFinishRx u dcid true ok) s = .next (if x.initiator then s else (s.lsts n 0 F.LDT_STS_DUP_COUNT).ldtAck n))) ∧ (s.connNamed u dcid = none ∨
    (s.connNamed u dcid = some (n, x) ∧ ((x.state ≠ 2 ∧ x.state ≠ 3) ∨ s.ldtServing u = false ∨ s.ldtListens u x.iface = false)) → exec (.ldtFinishRx u
    dcid false ok) s = .next (s.bump (F.LDT_CNT_NO_CONN_COUNT u)) ∧ exec (.ldtFinishRx u dcid true ok) s = .next (s.bump (F.LDT_CNT_NO_CONN_COUNT u)))) ∧
  (∀ (u dcid n : Nat) (x : LdtConn) (s : State), u < 2 → s.connNamed u dcid = some (n, x) → x.state = 2 → s.ldtServing u = true → s.ldtListens u x.iface
    = true → exec (.ldtFinishRx u dcid true true) s = .next ((s.modLconn n (fun y => let k := ceilDiv 4723 (segBytes x.seg);
    { y with state := 3, stateBeat := s.beat, rxNext := k, rxReport := 1, genBeat := s.beat, lastRx := s.beat, heard := true, ackCnt := k, ackBeat := s.beat })).bump
    (F.LDT_CNT_SETUP_COUNT u)) ∧ exec (.ldtFinishRx u dcid true false) s = .next ((s.raise (ldtSlot u 1) Cond.LDT_SETUP_AUTH_FAIL n).ldtEnd n false)) ∧
  (∀ (n : Nat) (x : LdtConn) (s : State), s.lconn n = some x → x.state = 2 → x.stateBeat + 1024 * s.get (F.LDT_TMO_CFG_ACCEPT_TMO (ldtUnit n)) ≤ s.beat →
    exec (.ldtSetupTimeout n) s = .next ((s.raise (ldtSlot (ldtUnit n) 1) Cond.LDT_SETUP_TIMEOUT n).ldtEnd n false))

/-- A sound packet is heard and has the effect of its type, and the timers and commands of a connection act when due (rests on R464, R472, R473,
R474, R475, R476, R477, R479, R481, R482, R483, R485, R487, R489, R490, R491, R492, R498, spec/11_lumvas_direct_transport.md). -/
def Obligations.DirectTransportCarriesPackets : Prop :=
  (∀ (u addr mkey msn cond data n : Nat) (h : LdtHdr) (x z : LdtConn) (s v : State), s.LdtTurn u h n x → v = s.ldtHeard n x h → v.lconn n = some z → exec
    (.ldtSendRx u h data) s = .next ((v.dataPacket n z { kind := 1, hdr := h, data := data }).ldtGo n) ∧ exec (.ldtWriteRx u h addr mkey data) s =
    .next ((v.dataPacket n z { kind := 2, hdr := h, args := [addr, mkey], data := data }).ldtGo n) ∧ exec (.ldtReadReqRx u h addr mkey) s = .next
    ((v.dataPacket n z { kind := 3, hdr := h, args := [addr, mkey] }).ldtGo n) ∧ exec (.ldtReadRespRx u h data) s = .next ((v.dataPacket n z
    { kind := 4, hdr := h, data := data }).ldtGo n) ∧ exec (.ldtCloseRx u h) s = .next ((v.dataPacket n z { kind := 0x61, hdr := h, data := 1 }).ldtGo
    n) ∧ exec (.ldtMsgFailRx u h msn cond) s = .next ((v.dataPacket n z { kind := 0x62, hdr := h, data := 2 + msn * 2 ^ 32 + cond * 2 ^ 64 }).ldtGo n)
    ∧ exec (.ldtKeepaliveRx u h) s = .next ((v.dataPacket n z { kind := 0x63, hdr := h, data := 3 }).ldtGo n)) ∧
  (∀ (u cum limit n : Nat) (sack ece : List Nat) (h : LdtHdr) (x z : LdtConn) (s v : State), s.LdtTurn u h n x → v = s.ldtHeard n x h → v.lconn n = some
    z → exec (.ldtAckRx u h cum sack ece limit) s = .next ((v.ackPacket n z
    { kind := 5, hdr := h, args := [cum, limit, sack.length] ++ sack ++ ece }).ldtGo n)) ∧
  (∀ (u addr mkey msn cond data cum limit : Nat) (sack ece : List Nat) (h : LdtHdr) (s : State), u < 2 → (s.ldtServing u = false ∨ (h.hdrOk = true ∧
    s.connNamed u h.dcid = none)) → exec (.ldtSendRx u h data) s = .next (s.bump (F.LDT_CNT_NO_CONN_COUNT u)) ∧ exec (.ldtWriteRx u h addr mkey data) s
    = .next (s.bump (F.LDT_CNT_NO_CONN_COUNT u)) ∧ exec (.ldtReadReqRx u h addr mkey) s = .next (s.bump (F.LDT_CNT_NO_CONN_COUNT u)) ∧ exec
    (.ldtReadRespRx u h data) s = .next (s.bump (F.LDT_CNT_NO_CONN_COUNT u)) ∧ exec (.ldtCloseRx u h) s = .next (s.bump (F.LDT_CNT_NO_CONN_COUNT u)) ∧
    exec (.ldtMsgFailRx u h msn cond) s = .next (s.bump (F.LDT_CNT_NO_CONN_COUNT u)) ∧ exec (.ldtKeepaliveRx u h) s = .next (s.bump
    (F.LDT_CNT_NO_CONN_COUNT u)) ∧ exec (.ldtAckRx u h cum sack ece limit) s = .next (s.bump (F.LDT_CNT_NO_CONN_COUNT u))) ∧
  (∀ (u addr mkey msn cond data cum limit : Nat) (sack ece : List Nat) (h : LdtHdr) (s : State), u < 2 → s.ldtServing u = true → h.hdrOk = false → exec
    (.ldtSendRx u h data) s = .next (s.bump (F.LDT_CNT_BAD_HDR_COUNT u)) ∧ exec (.ldtWriteRx u h addr mkey data) s = .next (s.bump
    (F.LDT_CNT_BAD_HDR_COUNT u)) ∧ exec (.ldtReadReqRx u h addr mkey) s = .next (s.bump (F.LDT_CNT_BAD_HDR_COUNT u)) ∧ exec (.ldtReadRespRx u h data) s
    = .next (s.bump (F.LDT_CNT_BAD_HDR_COUNT u)) ∧ exec (.ldtCloseRx u h) s = .next (s.bump (F.LDT_CNT_BAD_HDR_COUNT u)) ∧ exec (.ldtMsgFailRx u h msn
    cond) s = .next (s.bump (F.LDT_CNT_BAD_HDR_COUNT u)) ∧ exec (.ldtKeepaliveRx u h) s = .next (s.bump (F.LDT_CNT_BAD_HDR_COUNT u)) ∧ exec (.ldtAckRx
    u h cum sack ece limit) s = .next (s.bump (F.LDT_CNT_BAD_HDR_COUNT u))) ∧
  (∀ (u addr mkey msn cond data cum limit n : Nat) (sack ece : List Nat) (h : LdtHdr) (x : LdtConn) (s : State), u < 2 → s.ldtServing u = true → h.hdrOk
    = true → s.connNamed u h.dcid = some (n, x) → ((x.state ≠ 3 ∧ x.state ≠ 4) ∨ s.ldtListens u x.iface = false) → exec (.ldtSendRx u h data) s = .next
    (s.bump (F.LDT_CNT_NO_CONN_COUNT u)) ∧ exec (.ldtWriteRx u h addr mkey data) s = .next (s.bump (F.LDT_CNT_NO_CONN_COUNT u)) ∧ exec (.ldtReadReqRx u
    h addr mkey) s = .next (s.bump (F.LDT_CNT_NO_CONN_COUNT u)) ∧ exec (.ldtReadRespRx u h data) s = .next (s.bump (F.LDT_CNT_NO_CONN_COUNT u)) ∧ exec
    (.ldtCloseRx u h) s = .next (s.bump (F.LDT_CNT_NO_CONN_COUNT u)) ∧ exec (.ldtMsgFailRx u h msn cond) s = .next (s.bump (F.LDT_CNT_NO_CONN_COUNT u))
    ∧ exec (.ldtKeepaliveRx u h) s = .next (s.bump (F.LDT_CNT_NO_CONN_COUNT u)) ∧ exec (.ldtAckRx u h cum sack ece limit) s = .next (s.bump
    (F.LDT_CNT_NO_CONN_COUNT u))) ∧
  (∀ (u addr mkey msn cond data cum limit n : Nat) (sack ece : List Nat) (h : LdtHdr) (x : LdtConn) (s : State), u < 2 → s.ldtServing u = true → h.hdrOk
    = true → s.connNamed u h.dcid = some (n, x) → (x.state = 3 ∨ x.state = 4) → s.ldtListens u x.iface = true → (x.resident = false ∨ x.missQ ≠ []) →
    4096 ≤ s.missCount u → exec (.ldtSendRx u h data) s = .next (s.bump (F.LDT_CNT_MISS_DROP_COUNT u)) ∧ exec (.ldtWriteRx u h addr mkey data) s =
    .next (s.bump (F.LDT_CNT_MISS_DROP_COUNT u)) ∧ exec (.ldtReadReqRx u h addr mkey) s = .next (s.bump (F.LDT_CNT_MISS_DROP_COUNT u)) ∧ exec
    (.ldtReadRespRx u h data) s = .next (s.bump (F.LDT_CNT_MISS_DROP_COUNT u)) ∧ exec (.ldtCloseRx u h) s = .next (s.bump (F.LDT_CNT_MISS_DROP_COUNT
    u)) ∧ exec (.ldtMsgFailRx u h msn cond) s = .next (s.bump (F.LDT_CNT_MISS_DROP_COUNT u)) ∧ exec (.ldtKeepaliveRx u h) s = .next (s.bump
    (F.LDT_CNT_MISS_DROP_COUNT u)) ∧ exec (.ldtAckRx u h cum sack ece limit) s = .next (s.bump (F.LDT_CNT_MISS_DROP_COUNT u))) ∧
  (∀ (u addr mkey msn cond data cum limit n : Nat) (sack ece : List Nat) (h : LdtHdr) (x : LdtConn) (s : State), u < 2 → s.ldtServing u = true → h.hdrOk
    = true → s.connNamed u h.dcid = some (n, x) → (x.state = 3 ∨ x.state = 4) → s.ldtListens u x.iface = true → (x.resident = false ∨ x.missQ ≠ []) →
    s.missCount u < 4096 → exec (.ldtSendRx u h data) s = .next (s.modLconn n (fun x =>
    { x with missQ := x.missQ ++ [{ kind := 1, hdr := h, data := data }], missNs := if x.missQ = [] then s.tb else x.missNs })) ∧ exec (.ldtWriteRx u h
    addr mkey data) s = .next (s.modLconn n (fun x =>
    { x with missQ := x.missQ ++ [{ kind := 2, hdr := h, args := [addr, mkey], data := data }], missNs := if x.missQ = [] then s.tb else x.missNs })) ∧
    exec (.ldtReadReqRx u h addr mkey) s = .next (s.modLconn n (fun x =>
    { x with missQ := x.missQ ++ [{ kind := 3, hdr := h, args := [addr, mkey] }], missNs := if x.missQ = [] then s.tb else x.missNs })) ∧ exec
    (.ldtReadRespRx u h data) s = .next (s.modLconn n (fun x =>
    { x with missQ := x.missQ ++ [{ kind := 4, hdr := h, data := data }], missNs := if x.missQ = [] then s.tb else x.missNs })) ∧ exec (.ldtCloseRx u
    h) s = .next (s.modLconn n (fun x =>
    { x with missQ := x.missQ ++ [{ kind := 0x61, hdr := h, data := 1 }], missNs := if x.missQ = [] then s.tb else x.missNs })) ∧ exec (.ldtMsgFailRx u
    h msn cond) s = .next (s.modLconn n (fun x =>
    { x with missQ := x.missQ ++ [{ kind := 0x62, hdr := h, data := 2 + msn * 2 ^ 32 + cond * 2 ^ 64 }], missNs := if x.missQ = [] then s.tb else x.missNs }))
    ∧ exec (.ldtKeepaliveRx u h) s = .next (s.modLconn n (fun x =>
    { x with missQ := x.missQ ++ [{ kind := 0x63, hdr := h, data := 3 }], missNs := if x.missQ = [] then s.tb else x.missNs })) ∧ exec (.ldtAckRx u h
    cum sack ece limit) s = .next (s.modLconn n (fun x =>
    { x with missQ := x.missQ ++ [{ kind := 5, hdr := h, args := [cum, limit, sack.length] ++ sack ++ ece }], missNs := if x.missQ = [] then s.tb else x.missNs }))) ∧
  (∀ (u addr mkey msn cond data cum limit k n : Nat) (sack ece : List Nat) (h : LdtHdr) (x : LdtConn) (s v : State), u < 2 → s.ldtServing u = true →
    h.hdrOk = true → s.connNamed u h.dcid = some (n, x) → s.lconn n = some x → (x.state = 3 ∨ x.state = 4) → s.ldtListens u x.iface = true → x.resident
    = true → x.missQ = [] → (h.tagOk = false ∨ (h.kgen % 256 ≠ x.kgen % 256 ∧ h.kgen % 256 ≠ (x.kgen + 1) % 256)) → s.ldtReceive h.plen = (k, v) → exec
    (.ldtSendRx u h data) s = .next (((v.bump (F.DSL_CPH_CNT_AUTH_COUNT k)).bump (F.DSL_CPH_CNT_ZERO_COUNT k)).lsts n h.path F.LDT_STS_AUTH_COUNT) ∧
    exec (.ldtWriteRx u h addr mkey data) s = .next (((v.bump (F.DSL_CPH_CNT_AUTH_COUNT k)).bump (F.DSL_CPH_CNT_ZERO_COUNT k)).lsts n h.path
    F.LDT_STS_AUTH_COUNT) ∧ exec (.ldtReadReqRx u h addr mkey) s = .next (((v.bump (F.DSL_CPH_CNT_AUTH_COUNT k)).bump (F.DSL_CPH_CNT_ZERO_COUNT
    k)).lsts n h.path F.LDT_STS_AUTH_COUNT) ∧ exec (.ldtReadRespRx u h data) s = .next (((v.bump (F.DSL_CPH_CNT_AUTH_COUNT k)).bump
    (F.DSL_CPH_CNT_ZERO_COUNT k)).lsts n h.path F.LDT_STS_AUTH_COUNT) ∧ exec (.ldtCloseRx u h) s = .next (((v.bump (F.DSL_CPH_CNT_AUTH_COUNT k)).bump
    (F.DSL_CPH_CNT_ZERO_COUNT k)).lsts n h.path F.LDT_STS_AUTH_COUNT) ∧ exec (.ldtMsgFailRx u h msn cond) s = .next (((v.bump (F.DSL_CPH_CNT_AUTH_COUNT
    k)).bump (F.DSL_CPH_CNT_ZERO_COUNT k)).lsts n h.path F.LDT_STS_AUTH_COUNT) ∧ exec (.ldtKeepaliveRx u h) s = .next (((v.bump
    (F.DSL_CPH_CNT_AUTH_COUNT k)).bump (F.DSL_CPH_CNT_ZERO_COUNT k)).lsts n h.path F.LDT_STS_AUTH_COUNT) ∧ exec (.ldtAckRx u h cum sack ece limit) s =
    .next (((v.bump (F.DSL_CPH_CNT_AUTH_COUNT k)).bump (F.DSL_CPH_CNT_ZERO_COUNT k)).lsts n h.path F.LDT_STS_AUTH_COUNT)) ∧
  (∀ (n : Nat) (x : LdtConn) (s u : State), s.lconn n = some x → x.resident = false → x.missQ ≠ [] → s.ctxRoom (ldtUnit n) = (true, u) → exec
    (.ldtCtxFetchDone n) s = .next
    (let v := u.bump (F.LDT_CNT_CTX_FETCH_COUNT (ldtUnit n)); let w := if v.get (F.LDT_CTX_STAT_FETCH_MAX_NS (ldtUnit n)) < u.tb - x.missNs then v.set (F.LDT_CTX_STAT_FETCH_MAX_NS (ldtUnit n)) (min 65535 (u.tb - x.missNs)) else v; x.missQ.foldl (fun (s : State) p => s.ldtPacket n p) (w.modLconn n (fun x => { x with resident := true, missQ := [], useNs := w.tb })))) ∧
  (∀ (m u n : Nat) (x : LdtConn) (s : State), u < 2 → s.judge m (ldtSlot u 1) 0x130 true true = none → s.get (F.LDT_CONN_CMD_STAT_BUSY u) ≠ 1 → s.lconn
    (u * 2 ^ 19 + n % 2 ^ 19) = some x → x.state = 3 → exec (.ldtConnClose m u n) s = .next (((s.ldtClose (u * 2 ^ 19 + n % 2 ^ 19) true).setAll
    [(F.LDT_CONN_CMD_STAT_RESULT u, 1), (F.LDT_CONN_CMD_STAT_CONDITION u, 0)]).irq (ldtSlot u 1) 2) ∧ exec (.ldtConnRekey m u n) s = .next
    (((((s.modLconn (u * 2 ^ 19 + n % 2 ^ 19) (fun x => { x with rekey := true })).ldtGo (u * 2 ^ 19 + n % 2 ^ 19)).setAll [(F.LDT_CONN_CMD_STAT_RESULT
    u, 1), (F.LDT_CONN_CMD_STAT_CONDITION u, 0)])).irq (ldtSlot u 1) 2)) ∧
  (∀ (m u n : Nat) (s : State), u < 2 → s.judge m (ldtSlot u 1) 0x130 true true = none → (s.get (F.LDT_CONN_CMD_STAT_BUSY u) = 1 → exec (.ldtConnClose m
    u n) s = .next (s.raise (ldtSlot u 1) Cond.LDT_CONN_CMD_BUSY (u * 2 ^ 19 + n % 2 ^ 19)) ∧ exec (.ldtConnRekey m u n) s = .next (s.raise (ldtSlot u
    1) Cond.LDT_CONN_CMD_BUSY (u * 2 ^ 19 + n % 2 ^ 19))) ∧ (s.get (F.LDT_CONN_CMD_STAT_BUSY u) ≠ 1 → (∀ x, s.lconn (u * 2 ^ 19 + n % 2 ^ 19) = some x
    → x.state ≠ 3) → exec (.ldtConnClose m u n) s = .next ((s.setAll [(F.LDT_CONN_CMD_STAT_RESULT u, 2), (F.LDT_CONN_CMD_STAT_CONDITION u, 0)]).irq
    (ldtSlot u 1) 2) ∧ exec (.ldtConnRekey m u n) s = .next ((s.setAll [(F.LDT_CONN_CMD_STAT_RESULT u, 2), (F.LDT_CONN_CMD_STAT_CONDITION u, 0)]).irq
    (ldtSlot u 1) 2))) ∧
  (∀ (n : Nat) (x : LdtConn) (s : State), s.lconn n = some x → x.rekey = true ∨ (s.get (F.LDT_CFG_REKEY_BEATS (ldtUnit n)) ≠ 0 ∧ x.genBeat + 65536 *
    s.get (F.LDT_CFG_REKEY_BEATS (ldtUnit n)) ≤ s.beat) → exec (.ldtRekeyDue n) s = .next (s.ldtRekey n)) ∧
  (∀ (n : Nat) (x : LdtConn) (s : State), s.lconn n = some x → x.state = 3 → x.lastTx + 4096 * s.get (F.LDT_TMO_CFG_IDLE_TMO (ldtUnit n)) ≤ s.beat → exec
    (.ldtKeepaliveSend n) s = .next (s.ldtCtrl n 3 0 0)) ∧
  (∀ (n : Nat) (x : LdtConn) (s : State), s.lconn n = some x → x.state = 3 → x.lastRx + 16384 * s.get (F.LDT_TMO_CFG_IDLE_TMO (ldtUnit n)) ≤ s.beat →
    exec (.ldtIdleTimeout n) s = .next ((s.raise (ldtSlot (ldtUnit n) 1) Cond.LDT_IDLE_TIMEOUT n).ldtClose n true)) ∧
  (∀ (n : Nat) (x : LdtConn) (s : State), s.lconn n = some x → x.state = 3 → 0 < x.ackCnt → x.ackBeat + s.get (F.LDT_ACK_CFG_ACK_DELAY (ldtUnit n)) ≤
    s.beat → exec (.ldtAckDelayExpire n) s = .next (s.ldtAck n)) ∧
  (∀ (n psn : Nat) (x : LdtConn) (p : LdtPkt) (s u : State), s.lconn n = some x → x.pkts.find? (fun q => q.psn == psn) = some p → p.sentNs + s.ldtRto n x
    ≤ s.tb → u = ((s.bump (F.LDT_CNT_RTO_COUNT (ldtUnit n))).pathDown n p.path (s.get (F.LDT_RATE_CFG_RTO_STEP (ldtUnit n)))).modPath n p.path (fun q
    => { q with rtoRun := q.rtoRun + 1 }) → exec (.ldtRtoExpire n psn) s = .next ((if u.get (F.LDT_RATE_CFG_PATH_FAIL (ldtUnit n)) ≤ ((u.lconn n).map
    (fun x => (x.path p.path).rtoRun)).getD 0 then u.pathOff n p.path else u).ldtAgain n psn false)) ∧
  (∀ (n ptype msn : Nat) (x : LdtConn) (m : LdtTx) (s : State), s.lconn n = some x → x.msgs.find? (fun m => m.ptype == ptype && m.msn == msn) = some m →
    m.begun = true → m.beat + s.get (F.LDT_TMO_CFG_MSG_TMO (ldtUnit n)) ≤ s.beat → m.expiries < s.get (F.LDT_TMO_CFG_MSG_RETRIES (ldtUnit n)) → exec
    (.ldtMsgTimeout n ptype msn) s = .next ((x.pkts.filter (fun p => p.ptype == ptype && p.msn == msn)).foldl (fun (s : State) p => s.ldtAgain n p.psn
    false) ((s.modLconn n (fun x =>
    { x with msgs := x.msgs.map (fun q => if q.ptype = ptype ∧ q.msn = msn then { q with beat := s.beat, expiries := q.expiries + 1 } else q) })).bump
    (F.LDT_CNT_MSG_TMO_COUNT (ldtUnit n))))) ∧
  (∀ (n ptype msn : Nat) (x : LdtConn) (m : LdtTx) (s : State), s.lconn n = some x → x.msgs.find? (fun m => m.ptype == ptype && m.msn == msn) = some m →
    m.begun = true → m.beat + s.get (F.LDT_TMO_CFG_MSG_TMO (ldtUnit n)) ≤ s.beat → s.get (F.LDT_TMO_CFG_MSG_RETRIES (ldtUnit n)) ≤ m.expiries → exec
    (.ldtMsgTimeout n ptype msn) s = .next ((s.raise (ldtSlot (ldtUnit n) 2) Cond.LDT_MSG_TIMEOUT n).ldtClose n true)) ∧
  (∀ (n msn : Nat) (resp : Bool) (x : LdtConn) (m : LdtRx) (s : State), s.lconn n = some x → AL.get msn (if resp then x.rxResps else x.rxMsgs) = some m →
    m.done = false → m.lastBeat + s.get (F.LDT_TMO_CFG_RX_MSG_TMO (ldtUnit n)) ≤ s.beat → exec (.ldtRxMsgTimeout n msn resp) s = .next
    (State.msgReports 64 n (s.rxFail n msn Cond.LENGTH_MISMATCH resp))) ∧
  (∀ (n k : Nat) (x : LdtConn) (s : State), s.lconn n = some x → k < x.paths → (x.path k).used = true → (x.path k).quietBeat + s.get
    (F.LDT_RATE_CFG_INC_BEATS (ldtUnit n)) ≤ s.beat → exec (.ldtRateIncrease n k) s = .next ((s.modPath n k (fun q =>
    { q with idx := min 31 (q.idx + 1), quietBeat := s.beat, used := false })).bump (F.LDT_CNT_RATE_UP_COUNT (ldtUnit n)))) ∧
  (∀ (n k b : Nat) (x : LdtConn) (s : State), s.lconn n = some x → (x.path k).offUntil = some b → b ≤ s.beat → exec (.ldtPathReturn n k) s = .next
    ((s.modPath n k (fun q => { q with offUntil := none, idx := 0 })).ldtGo n))

/-- A capsule of an established connection is taken, and ends or becomes a request as Table 11.10 says (rests on R486, R493, R494, R496,
spec/11_lumvas_direct_transport.md). -/
def Obligations.BlockCommandsBecomeRequests : Prop :=
  (∀ (n d t : Nat) (x : LdtConn) (rest : List (Nat × Nat)) (r : Req) (s u v : State), s.LbcTurn n 1 x d rest u → r =
    { ((u.lbcFlags d).bump F.LBC_CNT_READS_COUNT).capReq n x d .read 0 with compressed := bitOf d 54, pfxName := ((u.lbcFlags d).bump F.LBC_CNT_READS_COUNT).pfxField d }
    → (t, v) = ((u.lbcFlags d).bump F.LBC_CNT_READS_COUNT).newReq r (true && (((u.lbcFlags d).bump F.LBC_CNT_READS_COUNT).liveVol r.vol).isSome) →
    v.capStops (capClean d 32 0 0 && decide (1 ≤ r.blocks) && decide (r.blocks ≤ 256) && decide ((if r.compressed then 16 else 4096 * r.blocks) ≤
    r.bufLen)) true r.vol = 0 → v.takeNotice r.assoc r.vol = none → exec (.lbcRead n) s = .next
    ((let w := v.modHost (fun h => { h with reads := h.reads + 1 }); if w.readRefusal r true ≠ 0 then w.finish t (w.readRefusal r true) else w.pfxRead r))) ∧
  (∀ (n d t c : Nat) (x : LdtConn) (rest : List (Nat × Nat)) (r : Req) (s u v : State), s.LbcTurn n 1 x d rest u → r =
    { ((u.lbcFlags d).bump F.LBC_CNT_READS_COUNT).capReq n x d .read 0 with compressed := bitOf d 54, pfxName := ((u.lbcFlags d).bump F.LBC_CNT_READS_COUNT).pfxField d }
    → (t, v) = ((u.lbcFlags d).bump F.LBC_CNT_READS_COUNT).newReq r (true && (((u.lbcFlags d).bump F.LBC_CNT_READS_COUNT).liveVol r.vol).isSome) →
    v.capStops (capClean d 32 0 0 && decide (1 ≤ r.blocks) && decide (r.blocks ≤ 256) && decide ((if r.compressed then 16 else 4096 * r.blocks) ≤
    r.bufLen)) true r.vol = c → c ≠ 0 → exec (.lbcRead n) s = .next (v.finish t c)) ∧
  (∀ (n d t : Nat) (x : LdtConn) (rest : List (Nat × Nat)) (r : Req) (s u v w : State), s.LbcTurn n 1 x d rest u → r =
    { ((u.lbcFlags d).bump F.LBC_CNT_READS_COUNT).capReq n x d .read 0 with compressed := bitOf d 54, pfxName := ((u.lbcFlags d).bump F.LBC_CNT_READS_COUNT).pfxField d }
    → (t, v) = ((u.lbcFlags d).bump F.LBC_CNT_READS_COUNT).newReq r (true && (((u.lbcFlags d).bump F.LBC_CNT_READS_COUNT).liveVol r.vol).isSome) →
    v.capStops (capClean d 32 0 0 && decide (1 ≤ r.blocks) && decide (r.blocks ≤ 256) && decide ((if r.compressed then 16 else 4096 * r.blocks) ≤
    r.bufLen)) true r.vol = 0 → v.takeNotice r.assoc r.vol = some w → exec (.lbcRead n) s = .next (w.finish t Cond.DEFERRED_ERROR)) ∧
  (∀ (n d t : Nat) (x : LdtConn) (rest : List (Nat × Nat)) (r : Req) (s u v : State), s.LbcTurn n 2 x d rest u → r = ((u.lbcFlags d).bump
    F.LBC_CNT_WRITES_COUNT).capReq n x d .write 4 → (t, v) = ((u.lbcFlags d).bump F.LBC_CNT_WRITES_COUNT).newReq r (true && (((u.lbcFlags d).bump
    F.LBC_CNT_WRITES_COUNT).liveVol r.vol).isSome) → v.capStops (capClean d 32 0 0 && decide (1 ≤ r.blocks) && decide (r.blocks ≤ 256) && decide (4096
    * r.blocks ≤ r.bufLen)) true r.vol = 0 → v.takeNotice r.assoc r.vol = none → exec (.lbcWrite n) s = .next (v.modHost (fun h =>
    { h with writes := h.writes + 1 }))) ∧
  (∀ (n d t c : Nat) (x : LdtConn) (rest : List (Nat × Nat)) (r : Req) (s u v : State), s.LbcTurn n 2 x d rest u → r = ((u.lbcFlags d).bump
    F.LBC_CNT_WRITES_COUNT).capReq n x d .write 4 → (t, v) = ((u.lbcFlags d).bump F.LBC_CNT_WRITES_COUNT).newReq r (true && (((u.lbcFlags d).bump
    F.LBC_CNT_WRITES_COUNT).liveVol r.vol).isSome) → v.capStops (capClean d 32 0 0 && decide (1 ≤ r.blocks) && decide (r.blocks ≤ 256) && decide (4096
    * r.blocks ≤ r.bufLen)) true r.vol = c → c ≠ 0 → exec (.lbcWrite n) s = .next (v.finish t c)) ∧
  (∀ (n d t : Nat) (x : LdtConn) (rest : List (Nat × Nat)) (r : Req) (s u v w : State), s.LbcTurn n 2 x d rest u → r = ((u.lbcFlags d).bump
    F.LBC_CNT_WRITES_COUNT).capReq n x d .write 4 → (t, v) = ((u.lbcFlags d).bump F.LBC_CNT_WRITES_COUNT).newReq r (true && (((u.lbcFlags d).bump
    F.LBC_CNT_WRITES_COUNT).liveVol r.vol).isSome) → v.capStops (capClean d 32 0 0 && decide (1 ≤ r.blocks) && decide (r.blocks ≤ 256) && decide (4096
    * r.blocks ≤ r.bufLen)) true r.vol = 0 → v.takeNotice r.assoc r.vol = some w → exec (.lbcWrite n) s = .next (w.finish t Cond.DEFERRED_ERROR)) ∧
  (∀ (n d t : Nat) (x : LdtConn) (rest : List (Nat × Nat)) (r : Req) (s u v : State), s.LbcTurn n 3 x d rest u → r =
    { ((u.lbcFlags d).bump F.LBC_CNT_WRITES_COUNT).capReq n x d .zeroes 4 with ranges := [(bitsOf d 64 38, capWord d 2 % 2 ^ 32)] } → (t, v) =
    ((u.lbcFlags d).bump F.LBC_CNT_WRITES_COUNT).newReq r (true && (((u.lbcFlags d).bump F.LBC_CNT_WRITES_COUNT).liveVol r.vol).isSome) → v.capStops
    (capClean d 32 0 0 && decide (1 ≤ r.blocks) && decide (r.blocks ≤ 65536)) true r.vol = 0 → v.takeNotice r.assoc r.vol = none → exec
    (.lbcWriteZeroes n) s = .next (v)) ∧
  (∀ (n d t c : Nat) (x : LdtConn) (rest : List (Nat × Nat)) (r : Req) (s u v : State), s.LbcTurn n 3 x d rest u → r =
    { ((u.lbcFlags d).bump F.LBC_CNT_WRITES_COUNT).capReq n x d .zeroes 4 with ranges := [(bitsOf d 64 38, capWord d 2 % 2 ^ 32)] } → (t, v) =
    ((u.lbcFlags d).bump F.LBC_CNT_WRITES_COUNT).newReq r (true && (((u.lbcFlags d).bump F.LBC_CNT_WRITES_COUNT).liveVol r.vol).isSome) → v.capStops
    (capClean d 32 0 0 && decide (1 ≤ r.blocks) && decide (r.blocks ≤ 65536)) true r.vol = c → c ≠ 0 → exec (.lbcWriteZeroes n) s = .next (v.finish t
    c)) ∧
  (∀ (n d t : Nat) (x : LdtConn) (rest : List (Nat × Nat)) (r : Req) (s u v w : State), s.LbcTurn n 3 x d rest u → r =
    { ((u.lbcFlags d).bump F.LBC_CNT_WRITES_COUNT).capReq n x d .zeroes 4 with ranges := [(bitsOf d 64 38, capWord d 2 % 2 ^ 32)] } → (t, v) =
    ((u.lbcFlags d).bump F.LBC_CNT_WRITES_COUNT).newReq r (true && (((u.lbcFlags d).bump F.LBC_CNT_WRITES_COUNT).liveVol r.vol).isSome) → v.capStops
    (capClean d 32 0 0 && decide (1 ≤ r.blocks) && decide (r.blocks ≤ 65536)) true r.vol = 0 → v.takeNotice r.assoc r.vol = some w → exec
    (.lbcWriteZeroes n) s = .next (w.finish t Cond.DEFERRED_ERROR)) ∧
  (∀ (n d t : Nat) (x : LdtConn) (rest : List (Nat × Nat)) (r : Req) (s u v : State), s.LbcTurn n 4 x d rest u → r =
    { ((u.lbcFlags d).bump F.LBC_CNT_WRITES_COUNT).capReq n x d .dealloc 4 with blocks := 0, bufLen := capWord d 2 % 2 ^ 32, stage := if capClean d 32 0 0 && decide (1 ≤ capWord d 2 % 2 ^ 32) && decide (capWord d 2 % 2 ^ 32 ≤ 256) && decide (16 * (capWord d 2 % 2 ^ 32) ≤ capWord d 4 / 2 ^ 32) then .awaitData else .resolving }
    → (t, v) = ((u.lbcFlags d).bump F.LBC_CNT_WRITES_COUNT).newReq r (true && (((u.lbcFlags d).bump F.LBC_CNT_WRITES_COUNT).liveVol r.vol).isSome) →
    v.capStops (capClean d 32 0 0 && decide (1 ≤ capWord d 2 % 2 ^ 32) && decide (capWord d 2 % 2 ^ 32 ≤ 256) && decide (16 * (capWord d 2 % 2 ^ 32) ≤
    capWord d 4 / 2 ^ 32)) true r.vol = 0 → v.takeNotice r.assoc r.vol = none → exec (.lbcDeallocate n) s = .next (v.ldtRead n r.bufAddr (16 * (capWord
    d 2 % 2 ^ 32)) { tag := t, off := 0, len := 16 * (capWord d 2 % 2 ^ 32) })) ∧
  (∀ (n d t c : Nat) (x : LdtConn) (rest : List (Nat × Nat)) (r : Req) (s u v : State), s.LbcTurn n 4 x d rest u → r =
    { ((u.lbcFlags d).bump F.LBC_CNT_WRITES_COUNT).capReq n x d .dealloc 4 with blocks := 0, bufLen := capWord d 2 % 2 ^ 32, stage := if capClean d 32 0 0 && decide (1 ≤ capWord d 2 % 2 ^ 32) && decide (capWord d 2 % 2 ^ 32 ≤ 256) && decide (16 * (capWord d 2 % 2 ^ 32) ≤ capWord d 4 / 2 ^ 32) then .awaitData else .resolving }
    → (t, v) = ((u.lbcFlags d).bump F.LBC_CNT_WRITES_COUNT).newReq r (true && (((u.lbcFlags d).bump F.LBC_CNT_WRITES_COUNT).liveVol r.vol).isSome) →
    v.capStops (capClean d 32 0 0 && decide (1 ≤ capWord d 2 % 2 ^ 32) && decide (capWord d 2 % 2 ^ 32 ≤ 256) && decide (16 * (capWord d 2 % 2 ^ 32) ≤
    capWord d 4 / 2 ^ 32)) true r.vol = c → c ≠ 0 → exec (.lbcDeallocate n) s = .next (v.finish t c)) ∧
  (∀ (n d t : Nat) (x : LdtConn) (rest : List (Nat × Nat)) (r : Req) (s u v w : State), s.LbcTurn n 4 x d rest u → r =
    { ((u.lbcFlags d).bump F.LBC_CNT_WRITES_COUNT).capReq n x d .dealloc 4 with blocks := 0, bufLen := capWord d 2 % 2 ^ 32, stage := if capClean d 32 0 0 && decide (1 ≤ capWord d 2 % 2 ^ 32) && decide (capWord d 2 % 2 ^ 32 ≤ 256) && decide (16 * (capWord d 2 % 2 ^ 32) ≤ capWord d 4 / 2 ^ 32) then .awaitData else .resolving }
    → (t, v) = ((u.lbcFlags d).bump F.LBC_CNT_WRITES_COUNT).newReq r (true && (((u.lbcFlags d).bump F.LBC_CNT_WRITES_COUNT).liveVol r.vol).isSome) →
    v.capStops (capClean d 32 0 0 && decide (1 ≤ capWord d 2 % 2 ^ 32) && decide (capWord d 2 % 2 ^ 32 ≤ 256) && decide (16 * (capWord d 2 % 2 ^ 32) ≤
    capWord d 4 / 2 ^ 32)) true r.vol = 0 → v.takeNotice r.assoc r.vol = some w → exec (.lbcDeallocate n) s = .next (w.finish t Cond.DEFERRED_ERROR)) ∧
  (∀ (n d t : Nat) (x : LdtConn) (rest : List (Nat × Nat)) (r : Req) (s u v : State), s.LbcTurn n 5 x d rest u → bitOf (capWord d 5) 0 = false → r =
    { flushReq [bitsOf d 112 16] with origin := .ldt n (d % 2 ^ 32), assoc := ldtAssoc n, vol := bitsOf d 112 16, ordered := bitOf d 55 } → (t, v) =
    (u.lbcFlags d).newReq r (true && ((u.lbcFlags d).liveVol r.vol).isSome) → v.capStops (capClean d 32 1 0) true r.vol = 0 → v.takeNotice r.assoc
    r.vol = none → exec (.lbcFlush n) s = .next (if v.anaRefusal ≠ 0 then v.finish t v.anaRefusal else v.modReq t (fun r =>
    { r with stage := .waiting }))) ∧
  (∀ (n d t c : Nat) (x : LdtConn) (rest : List (Nat × Nat)) (r : Req) (s u v : State), s.LbcTurn n 5 x d rest u → bitOf (capWord d 5) 0 = false → r =
    { flushReq [bitsOf d 112 16] with origin := .ldt n (d % 2 ^ 32), assoc := ldtAssoc n, vol := bitsOf d 112 16, ordered := bitOf d 55 } → (t, v) =
    (u.lbcFlags d).newReq r (true && ((u.lbcFlags d).liveVol r.vol).isSome) → v.capStops (capClean d 32 1 0) true r.vol = c → c ≠ 0 → exec (.lbcFlush
    n) s = .next (v.finish t c)) ∧
  (∀ (n d t : Nat) (x : LdtConn) (rest : List (Nat × Nat)) (r : Req) (s u v w : State), s.LbcTurn n 5 x d rest u → bitOf (capWord d 5) 0 = false → r =
    { flushReq [bitsOf d 112 16] with origin := .ldt n (d % 2 ^ 32), assoc := ldtAssoc n, vol := bitsOf d 112 16, ordered := bitOf d 55 } → (t, v) =
    (u.lbcFlags d).newReq r (true && ((u.lbcFlags d).liveVol r.vol).isSome) → v.capStops (capClean d 32 1 0) true r.vol = 0 → v.takeNotice r.assoc
    r.vol = some w → exec (.lbcFlush n) s = .next (w.finish t Cond.DEFERRED_ERROR)) ∧
  (∀ (n d t : Nat) (x : LdtConn) (rest : List (Nat × Nat)) (r : Req) (s u v : State), s.LbcTurn n 5 x d rest u → bitOf (capWord d 5) 0 = true → r =
    { flushReq (((u.lbcFlags d).vat.vols.filter (fun v => v.2.state == 1)).map (·.1)) with origin := .ldt n (d % 2 ^ 32), assoc := ldtAssoc n, vol := bitsOf d 112 16, ordered := bitOf d 55 }
    → (t, v) = (u.lbcFlags d).newReq r (false && ((u.lbcFlags d).liveVol r.vol).isSome) → v.capStops (capClean d 32 1 0) false r.vol = 0 → exec
    (.lbcFlush n) s = .next
    ((match ((u.lbcFlags d).vat.vols.filter (fun v => v.2.state == 1)).map (·.1) |>.findSome? (fun k => v.takeNotice r.assoc k) with | some w => w.finish t Cond.DEFERRED_ERROR | none => if v.anaRefusal ≠ 0 then v.finish t v.anaRefusal else v.modReq t (fun r => { r with stage := .waiting })))) ∧
  (∀ (n d t c : Nat) (x : LdtConn) (rest : List (Nat × Nat)) (r : Req) (s u v : State), s.LbcTurn n 5 x d rest u → bitOf (capWord d 5) 0 = true → r =
    { flushReq (((u.lbcFlags d).vat.vols.filter (fun v => v.2.state == 1)).map (·.1)) with origin := .ldt n (d % 2 ^ 32), assoc := ldtAssoc n, vol := bitsOf d 112 16, ordered := bitOf d 55 }
    → (t, v) = (u.lbcFlags d).newReq r (false && ((u.lbcFlags d).liveVol r.vol).isSome) → v.capStops (capClean d 32 1 0) false r.vol = c → c ≠ 0 → exec
    (.lbcFlush n) s = .next (v.finish t c)) ∧
  (∀ (n d t : Nat) (x : LdtConn) (rest : List (Nat × Nat)) (r : Req) (s u v : State), s.LbcTurn n 6 x d rest u → r =
    { tag := 0, kind := .admin, origin := .ldt n (d % 2 ^ 32), cls := 6, assoc := ldtAssoc n, isAbort := true } → (t, v) = u.newReq r (false &&
    (u.liveVol r.vol).isSome) → v.capStops (capClean d 32 32 0 && decide (u.lbcAborts n < 4)) false r.vol = 0 → exec (.lbcAbort n) s = .next (if
    v.anaRefusal ≠ 0 then v.finish t v.anaRefusal else
    (match v.adm.reqs.find? (fun q => !q.2.isAbort && q.2.origin == .ldt n (capWord d 5 % 2 ^ 32)) with | some (k, q) => if q.pastReturn then (v.bump F.LBC_CNT_ABORT_LOST_COUNT).lbcDone t 1 0 else ((((v.modReq k (fun r => { r with aborted := true })).finish k outAborted).bump F.LBC_CNT_ABORT_WON_COUNT).lbcDone t 0 0).wakeHeld | none => (v.bump F.LBC_CNT_ABORT_LOST_COUNT).lbcDone t 1 0))) ∧
  (∀ (n d t c : Nat) (x : LdtConn) (rest : List (Nat × Nat)) (r : Req) (s u v : State), s.LbcTurn n 6 x d rest u → r =
    { tag := 0, kind := .admin, origin := .ldt n (d % 2 ^ 32), cls := 6, assoc := ldtAssoc n, isAbort := true } → (t, v) = u.newReq r (false &&
    (u.liveVol r.vol).isSome) → v.capStops (capClean d 32 32 0 && decide (u.lbcAborts n < 4)) false r.vol = c → c ≠ 0 → exec (.lbcAbort n) s = .next
    (v.finish t c)) ∧
  (∀ (n d t : Nat) (x : LdtConn) (rest : List (Nat × Nat)) (r : Req) (s u v : State), s.LbcTurn n 7 x d rest u → r =
    { tag := 0, kind := .admin, origin := .ldt n (d % 2 ^ 32), cls := 6, assoc := ldtAssoc n } → (t, v) = (u.bump F.LBC_CNT_HEALTH_COUNT).newReq r
    (false && ((u.bump F.LBC_CNT_HEALTH_COUNT).liveVol r.vol).isSome) → v.capStops (capClean d 32 0 0) false r.vol = 0 → exec (.lbcGetHealth n) s =
    .next (if v.anaRefusal ≠ 0 then v.finish t v.anaRefusal else v.lbcDone t (v.life + 256 * v.lifeWear + 65536 * v.lifeSpare + 2 ^ 24 *
    (v.criticalWarning % 32)) 0)) ∧
  (∀ (n d t c : Nat) (x : LdtConn) (rest : List (Nat × Nat)) (r : Req) (s u v : State), s.LbcTurn n 7 x d rest u → r =
    { tag := 0, kind := .admin, origin := .ldt n (d % 2 ^ 32), cls := 6, assoc := ldtAssoc n } → (t, v) = (u.bump F.LBC_CNT_HEALTH_COUNT).newReq r
    (false && ((u.bump F.LBC_CNT_HEALTH_COUNT).liveVol r.vol).isSome) → v.capStops (capClean d 32 0 0) false r.vol = c → c ≠ 0 → exec (.lbcGetHealth n)
    s = .next (v.finish t c)) ∧
  (∀ (n d t : Nat) (x : LdtConn) (rest : List (Nat × Nat)) (r : Req) (s u v : State), s.LbcTurn n 8 x d rest u → r =
    { u.capReq n x d .admin 6 with vol := 0, lba := 0, blocks := 0 } → (t, v) = u.newReq r (false && (u.liveVol r.vol).isSome) → v.capStops (capClean d
    32 0 0 && decide (16 ≤ r.bufLen)) false r.vol = 0 → exec (.lbcGetDeferred n) s = .next (if v.anaRefusal ≠ 0 then v.finish t v.anaRefusal else
    (let log := v.deferredLog (fun w => v.ioRefusal w true (v.grantCovers x w) false false == 0) false; let k := (min log.length r.bufLen - 16) / 32; (v.ldtMsg n 2 (log.take (16 + 32 * k)).length r.bufAddr (leOf (log.take (16 + 32 * k)))).lbcDone t k (log.take (16 + 32 * k)).length))) ∧
  (∀ (n d t c : Nat) (x : LdtConn) (rest : List (Nat × Nat)) (r : Req) (s u v : State), s.LbcTurn n 8 x d rest u → r =
    { u.capReq n x d .admin 6 with vol := 0, lba := 0, blocks := 0 } → (t, v) = u.newReq r (false && (u.liveVol r.vol).isSome) → v.capStops (capClean d
    32 0 0 && decide (16 ≤ r.bufLen)) false r.vol = c → c ≠ 0 → exec (.lbcGetDeferred n) s = .next (v.finish t c)) ∧
  (∀ (n d len : Nat) (x : LdtConn) (rest : List (Nat × Nat)) (s u : State), s.lconn n = some x → x.inbox = (len, d) :: rest → (len ≠ 64 ∨ lbcKnown
    (capOpc d) = false) → x.initiator = false → x.state = 3 → s.admFull = false → (s.unit (unitKey Blk.LDT (ldtUnit n))).quiesce = false → (s.unit
    (unitKey Blk.LBC 0)).quiesce = false → u = (s.modLconn n (fun x => { x with inbox := rest })).bump F.LBC_CNT_CMDS_COUNT → exec (.lbcRead n) s =
    .next ((u.newReq { tag := 0, kind := .admin, origin := .ldt n (d % 2 ^ 32), cls := 6, assoc := ldtAssoc n } false).2.finish (u.newReq
    { tag := 0, kind := .admin, origin := .ldt n (d % 2 ^ 32), cls := 6, assoc := ldtAssoc n } false).1 Cond.LBC_CMD_INVALID) ∧ exec (.lbcWrite n) s =
    .next ((u.newReq { tag := 0, kind := .admin, origin := .ldt n (d % 2 ^ 32), cls := 6, assoc := ldtAssoc n } false).2.finish (u.newReq
    { tag := 0, kind := .admin, origin := .ldt n (d % 2 ^ 32), cls := 6, assoc := ldtAssoc n } false).1 Cond.LBC_CMD_INVALID) ∧ exec (.lbcWriteZeroes
    n) s = .next ((u.newReq { tag := 0, kind := .admin, origin := .ldt n (d % 2 ^ 32), cls := 6, assoc := ldtAssoc n } false).2.finish (u.newReq
    { tag := 0, kind := .admin, origin := .ldt n (d % 2 ^ 32), cls := 6, assoc := ldtAssoc n } false).1 Cond.LBC_CMD_INVALID) ∧ exec (.lbcDeallocate n)
    s = .next ((u.newReq { tag := 0, kind := .admin, origin := .ldt n (d % 2 ^ 32), cls := 6, assoc := ldtAssoc n } false).2.finish (u.newReq
    { tag := 0, kind := .admin, origin := .ldt n (d % 2 ^ 32), cls := 6, assoc := ldtAssoc n } false).1 Cond.LBC_CMD_INVALID) ∧ exec (.lbcFlush n) s =
    .next ((u.newReq { tag := 0, kind := .admin, origin := .ldt n (d % 2 ^ 32), cls := 6, assoc := ldtAssoc n } false).2.finish (u.newReq
    { tag := 0, kind := .admin, origin := .ldt n (d % 2 ^ 32), cls := 6, assoc := ldtAssoc n } false).1 Cond.LBC_CMD_INVALID) ∧ exec (.lbcAbort n) s =
    .next ((u.newReq { tag := 0, kind := .admin, origin := .ldt n (d % 2 ^ 32), cls := 6, assoc := ldtAssoc n } false).2.finish (u.newReq
    { tag := 0, kind := .admin, origin := .ldt n (d % 2 ^ 32), cls := 6, assoc := ldtAssoc n } false).1 Cond.LBC_CMD_INVALID) ∧ exec (.lbcGetHealth n)
    s = .next ((u.newReq { tag := 0, kind := .admin, origin := .ldt n (d % 2 ^ 32), cls := 6, assoc := ldtAssoc n } false).2.finish (u.newReq
    { tag := 0, kind := .admin, origin := .ldt n (d % 2 ^ 32), cls := 6, assoc := ldtAssoc n } false).1 Cond.LBC_CMD_INVALID) ∧ exec (.lbcGetDeferred
    n) s = .next ((u.newReq { tag := 0, kind := .admin, origin := .ldt n (d % 2 ^ 32), cls := 6, assoc := ldtAssoc n } false).2.finish (u.newReq
    { tag := 0, kind := .admin, origin := .ldt n (d % 2 ^ 32), cls := 6, assoc := ldtAssoc n } false).1 Cond.LBC_CMD_INVALID))

/-- A known head's fetch and replication capsules are served from the live volume and its source link, or end with what they lack (rests on R551,
R555, R556, R558, R559, R560, R565, spec/13_psitor_fabric.md). -/
def Obligations.ReplicationCommandsAreServed : Prop :=
  (∀ (n d t : Nat) (x : LdtConn) (rest : List (Nat × Nat)) (r : Req) (s u v : State), s.LbcTurn n 0x40 x d rest u → r =
    { u.capReq n x d .fetch 3 with blocks := 1 } → (t, v) = u.newReq r (u.liveVol r.vol).isSome → exec (.lbcFetch n) s = .next (if (u.headKnown x d &&
    capClean d 44 16 0 && decide (66048 ≤ r.bufLen)) = false then v.finish t Cond.LBC_CMD_INVALID else if (v.liveVol r.vol).isNone then v.finish t
    Cond.VOLUME_ABSENT else if v.ioRefusal r.vol true r.granted false false ≠ 0 then v.finish t (v.ioRefusal r.vol true r.granted false false) else if
    v.anaRefusal ≠ 0 then v.finish t v.anaRefusal else if (((v.liveVol r.vol).bind (fun w => AL.get w.vat v.vat.vats)).map (fun a => a.published &&
    a.state == 2)).getD false = false then v.finish t Cond.FOREIGN_NOT_HELD else if (v.mapEnt r.vol r.lba).named = false ∨ (v.mapEnt r.vol r.lba).index
    ≠ bitsOf (capWord d 2) 40 4 ∨ (v.ctbEnt (v.mapEnt r.vol r.lba).chunk).fp / 2 ^ 216 ≠ capWord d 2 % 2 ^ 40 then v.finish t Cond.FOREIGN_NOT_HELD
    else v.resolve t [])) ∧
  (∀ (n d t k : Nat) (x : LdtConn) (rest : List (Nat × Nat)) (r : Req) (l : RepLink) (s u v : State), s.RepTurn n 0x41 x d rest u .admin r t v k l →
    (capClean d 32 16 64) = true → exec (.lbcRepPoll n) s = .next (if capWord d 6 ≠ v.saltCheck r.vol then (v.raise Slot.REP Cond.REP_SALT_MISMATCH
    k).finish t Cond.REP_SALT_MISMATCH else (v.bump F.REP_CNT_SERVED_COUNT).lbcDone t (snapField v l.offered * 2 ^ 40 + snapField v l.base) 0)) ∧
  (∀ (n d t c : Nat) (x : LdtConn) (rest : List (Nat × Nat)) (r : Req) (s u v : State), s.LbcTurn n 0x41 x d rest u → r = u.capReq n x d .admin 6 → (t,
    v) = u.newReq r (u.liveVol r.vol).isSome → v.repStops x d r.vol (capClean d 32 16 64) = c → c ≠ 0 → exec (.lbcRepPoll n) s = .next (v.finish t c)) ∧
  (∀ (n d t k : Nat) (x : LdtConn) (rest : List (Nat × Nat)) (r : Req) (l : RepLink) (s u v : State), s.RepTurn n 0x42 x d rest u .admin r t v k l →
    (capClean d 32 16 0 && decide (1 ≤ capWord d 2) && decide (capWord d 2 ≤ 8) && bitsOf d 64 9 == 0) = true → exec (.lbcRepRecipe n) s = .next
    (match l.offered.filter (fun o => (v.liveSnap o).isSome) with | none => v.finish t Cond.LBC_CMD_INVALID | some o => (let all := (v.changedPages l).filter (fun p => decide (r.lba / 512 ≤ p)); let ps := all.take r.blocks; let len := recipeBytes * ps.length; let data := (ps.zipIdx).foldl (fun w (q : Nat × Nat) => w + v.recipeOf o q.1 * 256 ^ (recipeBytes * q.2)) 0; ((if ps = [] then v else v.ldtMsg n 2 len r.bufAddr data).bump F.REP_CNT_SERVED_COUNT).lbcDone t (((all.drop r.blocks).head?).getD (2 ^ 64 - 1)) len))) ∧
  (∀ (n d t c : Nat) (x : LdtConn) (rest : List (Nat × Nat)) (r : Req) (s u v : State), s.LbcTurn n 0x42 x d rest u → r = u.capReq n x d .admin 6 → (t,
    v) = u.newReq r (u.liveVol r.vol).isSome → v.repStops x d r.vol (capClean d 32 16 0 && decide (1 ≤ capWord d 2) && decide (capWord d 2 ≤ 8) &&
    bitsOf d 64 9 == 0) = c → c ≠ 0 → exec (.lbcRepRecipe n) s = .next (v.finish t c)) ∧
  (∀ (n d t k : Nat) (x : LdtConn) (rest : List (Nat × Nat)) (r : Req) (l : RepLink) (s u v : State), s.RepTurn n 0x43 x d rest u .repChunks r t v k l →
    (capClean d 32 16 0 && decide (1 ≤ capWord d 2)) = true → exec (.lbcRepChunks n) s = .next (if v.get F.REP_CFG_CHUNKS < r.blocks ∨ (l.offered.bind
    v.liveSnap).isNone then v.finish t Cond.LBC_CMD_INVALID else (v.modReq t (fun q =>
    { q with stage := .awaitData, bufLen := q.blocks, space := l.offered })).ldtRead n r.bufAddr (8 * r.blocks)
    { tag := t, off := 0, len := 8 * r.blocks })) ∧
  (∀ (n d t c : Nat) (x : LdtConn) (rest : List (Nat × Nat)) (r : Req) (s u v : State), s.LbcTurn n 0x43 x d rest u → r = u.capReq n x d .repChunks 6 →
    (t, v) = u.newReq r (u.liveVol r.vol).isSome → v.repStops x d r.vol (capClean d 32 16 0 && decide (1 ≤ capWord d 2)) = c → c ≠ 0 → exec
    (.lbcRepChunks n) s = .next (v.finish t c)) ∧
  (∀ (n d t k : Nat) (x : LdtConn) (rest : List (Nat × Nat)) (r : Req) (l : RepLink) (s u v : State), s.RepTurn n 0x44 x d rest u .admin r t v k l →
    (capClean d 32 16 20) = true → exec (.lbcRepDone n) s = .next (if l.offered ≠ some (capWord d 6 % 2 ^ 20) then v.finish t Cond.LBC_CMD_INVALID else
    (let w := v.modRep k (fun l => { l with base := l.offered }); let w := if l.mode ≠ 1 then w else if l.st = 4 then (w.repTo k 3).wakeHeld else if l.st = 2 then (if decide ((v.changedPages l).length ≤ v.get F.REP_CFG_SWITCH_PAGES) then w.repTo k 4 else w).modRep k (fun l => { l with snapWait := true }) else w; (w.bump F.REP_CNT_SERVED_COUNT).lbcDone t 0 0))) ∧
  (∀ (n d t c : Nat) (x : LdtConn) (rest : List (Nat × Nat)) (r : Req) (s u v : State), s.LbcTurn n 0x44 x d rest u → r = u.capReq n x d .admin 6 → (t,
    v) = u.newReq r (u.liveVol r.vol).isSome → v.repStops x d r.vol (capClean d 32 16 20) = c → c ≠ 0 → exec (.lbcRepDone n) s = .next (v.finish t c)) ∧
  (∀ (n d len : Nat) (x : LdtConn) (rest : List (Nat × Nat)) (s u : State), s.lconn n = some x → x.inbox = (len, d) :: rest → (len ≠ 64 ∨ lbcKnown
    (capOpc d) = false) → x.initiator = false → x.state = 3 → s.admFull = false → (s.unit (unitKey Blk.LDT (ldtUnit n))).quiesce = false → (s.unit
    (unitKey Blk.LBC 0)).quiesce = false → u = (s.modLconn n (fun x => { x with inbox := rest })).bump F.LBC_CNT_CMDS_COUNT → exec (.lbcFetch n) s =
    .next ((u.newReq { tag := 0, kind := .admin, origin := .ldt n (d % 2 ^ 32), cls := 6, assoc := ldtAssoc n } false).2.finish (u.newReq
    { tag := 0, kind := .admin, origin := .ldt n (d % 2 ^ 32), cls := 6, assoc := ldtAssoc n } false).1 Cond.LBC_CMD_INVALID) ∧ exec (.lbcRepPoll n) s
    = .next ((u.newReq { tag := 0, kind := .admin, origin := .ldt n (d % 2 ^ 32), cls := 6, assoc := ldtAssoc n } false).2.finish (u.newReq
    { tag := 0, kind := .admin, origin := .ldt n (d % 2 ^ 32), cls := 6, assoc := ldtAssoc n } false).1 Cond.LBC_CMD_INVALID) ∧ exec (.lbcRepRecipe n)
    s = .next ((u.newReq { tag := 0, kind := .admin, origin := .ldt n (d % 2 ^ 32), cls := 6, assoc := ldtAssoc n } false).2.finish (u.newReq
    { tag := 0, kind := .admin, origin := .ldt n (d % 2 ^ 32), cls := 6, assoc := ldtAssoc n } false).1 Cond.LBC_CMD_INVALID) ∧ exec (.lbcRepChunks n)
    s = .next ((u.newReq { tag := 0, kind := .admin, origin := .ldt n (d % 2 ^ 32), cls := 6, assoc := ldtAssoc n } false).2.finish (u.newReq
    { tag := 0, kind := .admin, origin := .ldt n (d % 2 ^ 32), cls := 6, assoc := ldtAssoc n } false).1 Cond.LBC_CMD_INVALID) ∧ exec (.lbcRepDone n) s
    = .next ((u.newReq { tag := 0, kind := .admin, origin := .ldt n (d % 2 ^ 32), cls := 6, assoc := ldtAssoc n } false).2.finish (u.newReq
    { tag := 0, kind := .admin, origin := .ldt n (d % 2 ^ 32), cls := 6, assoc := ldtAssoc n } false).1 Cond.LBC_CMD_INVALID))

/-- Bundles come up and leave, the flits they carry and the messages in them act, and peer messages change the pair (rests on R177, R315, R319,
R321, R502, R505, R508, R510, R513, R514, R527, R529, R590, R613, spec/12_head_pair.md). -/
def Obligations.PeerLinkAndModeMessagesAct : Prop :=
  (∀ (m : Nat) (en : Bool) (s : State), s.judge m 270 0x108 true true = none → exec (.peerLinkEnable m en) s = .next (s.set F.PRL_CTL_ENABLE (b2n
    en)).bundleTimers.pairShow) ∧
  (∀ (m mask : Nat) (s : State), s.judge m 270 0x108 true true = none → exec (.peerBundleRetrain m mask) s = .next ([0, 1].foldl (fun (s : State) b => if
    bitOf mask b && s.bundleOn b then (s.bundleDown b).bundleTo b 1 else s) s).pairShow) ∧
  (∀ (b : Nat) (skews : List Nat) (s : State), b < 2 → s.bundleOn b = true → s.bundleActive b = false → skews.length = 16 → skews.any (fun k => 64 < k) =
    false → exec (.peerBundleActive b skews) s = .next ((((s.bundleTo b 4).setAll [(F.PRL_BUNDLE_STAT_LANES_OK b, 0xFFFF), (F.PRL_BUNDLE_STAT_UP_BEAT
    b, ((s.bundleTo b 4)).beat32)]).modBundle b (fun x =>
    { x with skews := skews, badRun := 0, timerRun := 0, nakSent := false, ackBeat := s.beat, lastFlitBeat := s.beat, scrTx := scrStart, scrRx := scrStart })).advertise.sendHello.peerPump.pairShow)) ∧
  (∀ (b : Nat) (skews : List Nat) (s : State), b < 2 → s.bundleOn b = true → s.bundleActive b = false → skews.length = 16 → skews.any (fun k => 64 < k) =
    true → exec (.peerBundleActive b skews) s = .next (s.bundleTo b 3)) ∧
  (∀ (b : Nat) (s : State), b < 2 → s.bundleActive b = true → exec (.peerBundleLeaveActive b) s = .next (s.bundleLeave b 5)) ∧
  (∀ (b flit : Nat) (s : State), b < 2 → s.bundleActive b = true → exec (.peerFlitRx b flit) s = .next (s.peerFlit b flit)) ∧
  (∀ (b : Nat) (s : State), b < 2 → s.bundleActive b = true → (s.bundle b).ackedTo < (s.bundle b).txSeq → (s.bundle b).ackBeat + 1 ≤ s.beat → (s.bundle
    b).timerRun < 7 → exec (.peerReplayTimer b) s = .next (((s.satInc (F.PRL_REPLAY_CNT_TIMER b) 1).modBundle b (fun x =>
    { x with timerRun := x.timerRun + 1, ackBeat := s.beat })).peerResend b ((s.bundle b).ackedTo % 65536))) ∧
  (∀ (b : Nat) (s : State), b < 2 → s.bundleActive b = true → (s.bundle b).ackedTo < (s.bundle b).txSeq → (s.bundle b).ackBeat + 1 ≤ s.beat → 7 ≤
    (s.bundle b).timerRun → exec (.peerReplayTimer b) s = .next (((s.satInc (F.PRL_REPLAY_CNT_TIMER b) 1).modBundle b (fun x =>
    { x with timerRun := x.timerRun + 1, ackBeat := s.beat })).bundleLeave b 5)) ∧
  (∀ (hid format : Nat) (s u : State), s.ctlBundle.isSome = true → u = ((s.setAll [(F.PRL_STAT_PEER_HID, hid), (F.PRL_PEER_INFO_LAYOUT, 1)]).set
    F.PRL_PAIR_STAT_MISMATCH 0).modPair (fun p => { p with helloMatched := true, peerFormat := format }) → exec (.peerHelloRx hid s.pair.arrayId 1
    format) s = .next ((if u.mode = .boot then u.ringHold else u).sendMode.pairShow)) ∧
  (∀ (hid arrayId layout format : Nat) (s : State), s.ctlBundle.isSome = true → arrayId ≠ s.pair.arrayId ∨ layout ≠ 1 → exec (.peerHelloRx hid arrayId
    layout format) s = .next (((((s.setAll [(F.PRL_STAT_PEER_HID, hid), (F.PRL_PEER_INFO_LAYOUT, layout)]).set F.PRL_PAIR_STAT_MISMATCH 1).modPair (fun
    p => { p with helloMatched := false })).raise 272 Cond.PAIR_MISMATCH hid).pairShow)) ∧
  (∀ (mode epochA epochB jgen : Nat) (holdsA holdsB : Bool) (s u : State), s.ctlBundle.isSome = true → s.pair.helloMatched = true → u = ((s.setAll
    [(F.PRL_PEER_INFO_MODE, mode), (F.PRL_PEER_INFO_HOLDS_A, b2n holdsA), (F.PRL_PEER_INFO_HOLDS_B, b2n holdsB), (F.PRL_PEER_INFO_JGEN, jgen)]).modPair
    (fun p =>
    { p with lastModeBeat := some s.beat, peerEpochA := epochA, peerEpochB := epochB, peerHolds := (if holdsA then [0] else []) ++ (if holdsB then [1] else []) })).pairShow
    → exec (.peerModeRx mode holdsA holdsB epochA epochB jgen) s = .next (if (mode = 6 ∨ mode = 7) ∧ u.pair.everReachable then u.peerLost else
    (let v := if s.get F.PRL_STAT_REACHABLE = 0 then u.resyncStart else u; (if v.mode = .paired ∧ v.pair.hand = .handbackReleased ∧ mode = 3 then (v.modPair (fun p => { p with hand := .none })).tkoTo 0 else v).bootOn.pairShow))) ∧
  (∀ (s : State), s.pair.lastModeSent + 1024 ≤ s.beat ∨ s.pair.modeSent ≠ some s.modeWords → exec .peerModeSend s = .next s.sendMode) ∧
  (∀ (s : State), exec .peerModeTimeout s = .next s.pairShow) ∧
  (∀ (s : State), s.pair.everReachable = true → (s.bundle 0).lastFlitBeat + s.get F.PRL_CFG_PEER_LOSS_TMO ≤ s.beat → (s.bundle 1).lastFlitBeat + s.get
    F.PRL_CFG_PEER_LOSS_TMO ≤ s.beat → exec .peerLossTimeout s = .next s.peerLost) ∧
  (∀ (s : State), s.pair.everReachable = true → exec .peerHandoverRx s = .next s.peerLost) ∧
  (∀ (jgen wrapped : Nat) (s : State), exec (.peerKeyWrapRx jgen wrapped) s = .next
    (match (s.sec.pairKey).bind (fun k => Config.keyUnwrap k wrapped) with | none => (s.set F.PRL_PAIR_STAT_KEY_SYNCED 0).raise Slot.KEY Cond.PAIR_KEY_MISMATCH jgen | some v => ((((s.peerKeyOld jgen).setAll [(F.JNL_KEY_STAT_PEER_KEY, 1), (F.JNL_KEY_STAT_PEER_JGEN, jgen), (F.KEY_JNL_STAT_PEER, jgen), (F.PRL_PAIR_STAT_KEY_SYNCED, 1)]).keyPut (hJnl (s.get F.PRL_STAT_PEER_HID) jgen) { value := v }).bootOn.pairShow))) ∧
  (∀ (k : Nat) (d : List Nat) (gen count idx unit useq vol snap page : Nat) (val : UVal) (e : Bool) (s : State), exec (.peerSyncDataRx (.data k d gen
    count idx unit) false) s = .next (s.modWrite (fun w => { w with recs := AL.put k (s.jrecOf d gen count idx unit) w.recs })) ∧ exec (.peerSyncDataRx
    (.data k d gen count idx unit) true) s = .next ((s.modWrite (fun w => { w with recs := AL.put k (s.jrecOf d gen count idx unit) w.recs })).enterRec
    k) ∧ exec (.peerSyncDataRx (.update useq val) e) s = .next s ∧ exec (.peerSyncDataRx (.cursor vol snap page) e) s = .next s) ∧
  (∀ (w epoch c : Nat) (s : State), 120 ≤ c → c < 128 → s.mbxBound c = true → s.mbxFull c = false → exec (.peerMailboxRx 0 w epoch c) s = .next
    ((s.mbxPlace c w (s.mbxEpoch 61)).set (F.MBX_STAT_ORIG_EPOCH c) epoch)) ∧
  (∀ (s : State), s.pair.everReachable = false → exec .peerHandoverRx s = .next s) ∧
  (∀ (hid arrayId layout format : Nat) (s : State), s.ctlBundle = none → exec (.peerHelloRx hid arrayId layout format) s = .next s) ∧
  (∀ (w epoch c : Nat) (s : State), 120 ≤ c → c < 128 → s.mbxBound c = true → s.mbxFull c = true → exec (.peerMailboxRx 0 w epoch c) s = .next
    (s.mbxRefused c Cond.MBX_POST_FULL)) ∧
  (∀ (kind w epoch c : Nat) (s : State), 112 ≤ c → c < 120 → s.mbxFull c = true → 2 ≤ kind → exec (.peerMailboxRx 1 w epoch c) s = .next (s.setAll
    [(F.MBX_TAKE_WORD c, 0), (F.MBX_STAT_FULL c, 0)]) ∧ exec (.peerMailboxRx kind w epoch c) s = .next (s.mbxDropped c))

/-- A mode request that R501 does not refuse runs: SERVICE at once from BOOT, the hand-over from PAIRED, a reset from SERVICE (rests on R501,
R502, R527, R528, spec/12_head_pair.md). -/
def Obligations.ModeRequestsAndHandOverRun : Prop :=
  (∀ (m : Nat) (s : State), s.judge m 274 0x110 true true = none → s.mode = .boot → s.modeRefusal 1 = 0 → s.modeRefusal 2 = 0 → exec (.lseModeReqService
    m) s = .next ((s.releaseAll.setMode .service).modeResult 1 0) ∧ exec (.lseModeReqServiceRelease m) s = .next ((s.releaseAll.setMode
    .service).modeResult 1 0)) ∧
  (∀ (m : Nat) (s : State), s.judge m 274 0x110 true true = none → s.mode = .solo → s.modeRefusal 2 = 0 → exec (.lseModeReqServiceRelease m) s = .next
    ((s.releaseAll.setMode .service).modeResult 1 0)) ∧
  (∀ (m : Nat) (s : State), s.judge m 274 0x110 true true = none → s.mode = .paired → s.modeRefusal 1 = 0 → s.modeRefusal 2 = 0 → exec
    (.lseModeReqService m) s = .next ((s.set F.LSE_MODE_REQ_STAT_BUSY 1).handOver 0) ∧ exec (.lseModeReqServiceRelease m) s = .next ((s.set
    F.LSE_MODE_REQ_STAT_BUSY 1).handOver 0)) ∧
  (∀ (m : Nat) (s : State), s.judge m 274 0x110 true true = none → s.mode = .service ∨ s.mode = .fenced → s.get F.LSE_MODE_REQ_STAT_BUSY ≠ 1 → exec
    (.lseModeReqReboot m) s = .next ((s.modeResult 1 0).selfReset 2)) ∧
  (∀ (m : Nat) (s : State), s.judge m 274 0x110 true true = none → (s.mode = .paired → (s.get F.PRL_STAT_REACHABLE ≠ 1 ∨ s.get F.PRL_PEER_INFO_MODE ≠ 3)
    → exec (.lseModeReqService m) s = .next (s.modeResult 2 Cond.HANDOVER_PEER_ABSENT)) ∧ (s.mode = .solo → exec (.lseModeReqService m) s = .next
    (s.modeResult 2 Cond.SERVICE_WOULD_STOP_ARRAY)) ∧ (s.mode ≠ .boot → s.mode ≠ .paired → s.mode ≠ .solo → exec (.lseModeReqService m) s = .next
    (s.modeResult 2 Cond.MODE_REQ_INVALID) ∧ exec (.lseModeReqServiceRelease m) s = .next (s.modeResult 2 Cond.MODE_REQ_INVALID)) ∧ (s.mode ≠ .service
    → s.mode ≠ .fenced → exec (.lseModeReqReboot m) s = .next (s.modeResult 2 Cond.MODE_REQ_INVALID))) ∧
  (∀ (m : Nat) (s u : State), s.judge m 274 0x110 true true = none → s.get F.LSE_MODE_REQ_STAT_BUSY = 1 → u = s.setAll [(F.LSE_MODE_REQ_STAT_RESULT, 2),
    (F.LSE_MODE_REQ_STAT_CONDITION, Cond.MODE_REQ_BUSY), (F.LSE_MODE_REQ_STAT_BEAT, s.beat32)] → (s.mode = .boot → exec (.lseModeReqService m) s =
    .next u) ∧ (s.mode = .boot ∨ s.mode = .paired ∨ s.mode = .solo → exec (.lseModeReqServiceRelease m) s = .next u) ∧ (s.mode = .service ∨ s.mode =
    .fenced → exec (.lseModeReqReboot m) s = .next u)) ∧
  (∀ (s : State), s.pair.hand = .handoverDraining → s.mode = .paired → s.writesDrained = true → exec .handoverDrained s = .next s.handOverEnd) ∧
  (∀ (s : State), s.mode = .solo → s.pair.hand = .handbackDraining → s.peerRing = [] → exec .handbackRelease s = .next
    (let u := (s.ringHold.release (1 - s.side)).setMode .paired; (((((u.modPair (fun p => { p with hand := .handbackReleased })).sample 35 (u.beat - u.pair.handBeat)).bump F.PRL_CNT_HANDBACK_COUNT).tkoTo 6).sendMode.pairShow))) ∧
  (∀ (s : State), s.pair.hand = .handbackDraining → s.pair.handDeadline ≤ s.beat → exec .handbackTimeout s = .next ((((s.modPair (fun p =>
    { p with hand := .none })).tkoTo 0).raise 272 Cond.HANDBACK_TIMEOUT).pairShow))

/-- The lease count fences and renews, frames of the witness that verify act, and the head's own requests go out when due (rests on R515, R516,
R517, R518, R519, R520, R523, R524, R526, R529, R531, R534, spec/12_head_pair.md). -/
def Obligations.LeasesFollowTheWitness : Prop :=
  (∀ (sh : Nat) (s : State), sh < 2 → s.leaseHeld sh = true → s.fenceDue sh = true → exec (.leaseFencePoint sh) s = .next
    (let u := (s.loseLease sh 1 0 Cond.LEASE_LOST).raise 274 Cond.LEASE_LOST sh; if (s.lease sh).req = 2 then u.raise 275 Cond.WITNESS_UNREACHABLE sh else u)) ∧
  (∀ (sh : Nat) (s : State), sh < 2 → s.get (F.LSE_SHARD_STATE sh) = 2 → 100 * (s.lease sh).len ≤ s.leaseRun sh → s.fenceDue sh = false → exec
    (.leaseRenewDue sh) s = .next ((s.setLease sh 3).witAsk 2 sh 0)) ∧
  (∀ (sh : Nat) (s : State), sh < 2 → (s.lease sh).req ≠ 0 → (s.lease sh).waitUntil = none → (s.lease sh).reqBeat + s.get F.LSE_CFG_WIT_RETRY ≤ s.beat →
    exec (.witnessRetry sh) s = .next ((s.modLease sh (fun l => { l with reqBeat := s.beat })).witSend (s.lease sh).req (s.lease sh).reqId ((s.modLease
    sh (fun l => { l with reqBeat := s.beat })).reqBody (s.lease sh).req sh (s.lease sh).purpose))) ∧
  (∀ (frame : List Nat) (f : WitFrame) (s u : State), s.WitHeard frame 0x81 f u → exec (.witnessGrantRx frame) s = .next ((u.witOk false).grant f)) ∧
  (∀ (frame : List Nat) (f : WitFrame) (s u : State), s.WitHeard frame 0x82 f u → exec (.witnessWaitRx frame) s = .next ((u.witOk false).waitFor f)) ∧
  (∀ (frame : List Nat) (f : WitFrame) (s u : State), s.WitHeard frame 0x83 f u → exec (.witnessDenyRx frame) s = .next ((u.witOk false).denied f)) ∧
  (∀ (frame : List Nat) (f : WitFrame) (s u : State), s.WitHeard frame 0x84 f u → exec (.witnessStatusRx frame) s = .next ((u.witOk false).witStatus f
    false)) ∧
  (∀ (frame : List Nat) (f : WitFrame) (s u : State), s.WitHeard frame 0x85 f u → exec (.witnessReleasedRx frame) s = .next ((u.witOk false).released f)) ∧
  (∀ (frame : List Nat) (s u : State), s.get F.LSE_WIT_CFG_SERIAL_EN = 1 → s.witParse frame = (none, u) → exec (.witnessGrantRx frame) s = .next u ∧ exec
    (.witnessWaitRx frame) s = .next u ∧ exec (.witnessDenyRx frame) s = .next u ∧ exec (.witnessStatusRx frame) s = .next u ∧ exec (.witnessReleasedRx
    frame) s = .next u) ∧
  (∀ (sh b : Nat) (s : State), sh < 2 → (s.lease sh).req = 1 → (s.lease sh).waitUntil = some b → b ≤ s.beat → exec (.witnessWaitExpire sh) s = .next
    (s.witAsk 1 sh (s.lease sh).purpose)) ∧
  (∀ (s : State), s.witLive = true → s.mode ≠ .fenced → s.pair.lastReport + 4096 ≤ s.beat ∨ s.pair.reported ≠ some s.reportWord → exec .witnessReportSend
    s = .next ((s.modPair (fun p => { p with lastReport := s.beat, reported := some s.reportWord })).witTell 4 (leNat 4 s.reportWord))) ∧
  (∀ (s : State), s.mode = .boot → s.mayAcquire = true → s.leaseHeld s.side = false → (s.lease s.side).req = 0 → exec .homeAcquire s = .next ((s.setLease
    s.side 1).witAsk 1 s.side 1)) ∧
  (∀ (s : State), s.mode = .boot → s.mayAcquire = true → s.leaseHeld s.side = true → s.get F.PRL_STAT_REACHABLE = 0 → s.get F.PRL_TKO_STAT_PHASE = 0 →
    max s.pair.bootBeat s.pair.downBeat + 1024 * s.get F.LSE_CFG_BOOT_WAIT ≤ s.beat → exec .bootWaitExpire s = .next s.tkoAsk) ∧
  (∀ (s : State), s.mode = .fenced → s.pair.lastProbe + 16384 ≤ s.beat → exec .fencedProbe s = .next ((s.modPair (fun p =>
    { p with lastProbe := s.beat })).witTell 5 [])) ∧
  (∀ (ringOk ckptOk : Bool) (s : State), s.mode = .paired → s.get F.PRL_RUB_RESULT_RUNNING ≠ 1 → s.pair.lastRub + 4096 ≤ s.beat → exec (.rubTest ringOk
    ckptOk) s = .next (s.rubStart ringOk ckptOk)) ∧
  (∀ (b : Nat) (s : State), b < 2 → exec (.peerRubRx b false) s = .next (s.rubSend b true) ∧ exec (.peerRubRx b true) s = .next (s.rubJudge b (decide
    (s.beat ≤ s.pair.rubSentBeat + 16)))) ∧
  (∀ (probe : Nat) (s : State), probe < 5 → s.pair.rubSentBeat + (if probe < 2 then 16 else s.get F.LSE_CFG_WIT_RETRY) < s.beat → exec (.rubProbeEnd
    probe) s = .next (s.rubJudge probe false).rubEnd) ∧
  (∀ (m len : Nat) (s : State), s.judge m 275 0x118 true true = none → s.get F.LSE_WIT_CFG_UDP_EN = 1 → exec (.lseWitRxWrite m len) s = .next (s.witRx
    (s.bytesAt (s.get F.LSE_WIT_BUF_BASE * 512 + 0x100) (len % 256)) true [0x81, 0x82, 0x83, 0x84, 0x85])) ∧
  (∀ (m : Nat) (s : State), s.judge m 275 0x120 true false = none → exec (.lseWitTxRead m) s = .next (((s.answer (s.get F.LSE_WIT_TX_LEN)).set
    F.LSE_WIT_TX_LEN 0).irqOff 275 1))

/-- The head announces itself, takes other heads in and loses them, places homes anew, and runs its replication links (rests on R537, R538, R539,
R545, R547, R552, R556, R558, R559, R564, R565, R567, spec/13_psitor_fabric.md). -/
def Obligations.FabricMembershipAndLinksAct : Prop :=
  (∀ (s : State), s.fabMay = true → s.get F.FAB_STAT_STATE = 0 → exec .fabHelloSend s = .next (((s.set F.FAB_STAT_STATE 1).modFab (fun f =>
    { f with claims := 1, held := 0 })).helloSend 1).homesCheck) ∧
  (∀ (s : State), s.fabMay = true → s.get F.FAB_STAT_STATE = 1 → s.fab.helloBeat + 1024 ≤ s.beat → exec .fabHelloSend s = .next (if s.fab.claims < s.get
    F.FAB_CFG_CLAIM_HELLOS then (s.modFab (fun f => { f with claims := f.claims + 1 })).helloSend 1 else ((s.set F.FAB_STAT_STATE 2).helloSend
    1).homesCheck)) ∧
  (∀ (s : State), s.fabMay = true → s.get F.FAB_STAT_STATE = 2 → s.fab.helloBeat + 16384 ≤ s.beat → exec .fabHelloSend s = .next ((s.modFab (fun f =>
    { f with held := min (2 ^ 32 - 1) (f.held + 1) })).helloSend 1)) ∧
  (∀ (s : State), s.fabMay = false → exec .fabHelloSend s = .next s.fabLeave) ∧
  (∀ (l : List Nat) (x : FabHello) (s u : State), s.HelloSound l 1 x u → x.hid ≠ u.get F.FAB_ID_HID → x.hid ≠ peerHid (u.get F.FAB_ID_HID) ∨ x.arrayId =
    u.pair.arrayId → exec (.fabHelloRx l) s = .next
    (let old := AL.get x.hid u.fab.members; let fresh := (old.map (fun m => m.st == 3)).getD true; let v := u.modFab (fun f => { f with members := AL.put x.hid { st := if bitOf x.flags 2 then 1 else 2, home := bitOf x.flags 1, arrayId := x.arrayId, chip := x.chip, held := x.held, ldtPort := x.ldtPort, v4 := if bitOf x.flags 3 then some x.v4 else none, v6 := if bitOf x.flags 4 then some x.v6 else none, beat := u.beat, noRoute := (old.map (fun m => m.noRoute && !fresh)).getD false } f.members }); (if fresh then (v.irq (fabSlot 1) 1).bump F.FAB_CNT_JOIN_COUNT else v).fabCount.homesCheck)) ∧
  (∀ (l : List Nat) (x : FabHello) (s u : State), s.HelloSound l 1 x u → (x.hid = u.get F.FAB_ID_HID → exec (.fabHelloRx l) s = .next (if x.arrayId ≠
    u.pair.arrayId ∨ x.chip ≠ Config.chip.toNat then u.conflict x.arrayId x.chip x.held else u)) ∧ (x.hid ≠ u.get F.FAB_ID_HID → x.hid = peerHid (u.get
    F.FAB_ID_HID) → x.arrayId ≠ u.pair.arrayId → exec (.fabHelloRx l) s = .next u)) ∧
  (∀ (l : List Nat) (typ : Nat) (key : Option Nat) (s u : State), s.fabMay = true → s.get F.FAB_STAT_STATE ≠ 0 → s.get F.FAB_STAT_STATE ≠ 4 → l.getD 3 0
    = typ → (key, u) = s.slotFor (s.get F.FAB_CFG_KEY_SLOT) 1 → u.helloBad key l = true → (typ = 1 → exec (.fabHelloRx l) s = .next (u.bump
    F.FAB_CNT_HELLO_BAD_COUNT)) ∧ (typ = 2 → exec (.fabLeaveRx l) s = .next (u.bump F.FAB_CNT_HELLO_BAD_COUNT))) ∧
  (∀ (l : List Nat) (x : FabHello) (s u : State), s.HelloSound l 2 x u → exec (.fabLeaveRx l) s = .next (u.memberLost x.hid)) ∧
  (∀ (hid : Nat) (m : FabMember) (s u : State), AL.get hid s.fab.members = some m → m.st ≠ 3 → m.beat + 16384 * s.get F.FAB_CFG_MISS_LIMIT ≤ s.beat → u =
    ((((s.modFab (fun f => { f with members := AL.put hid { m with st := 3 } f.members, seqs := AL.del m.chip f.seqs })).irq (fabSlot 1) 1).bump
    F.FAB_CNT_LEAVE_COUNT).fabCount).homesCheck → exec (.fabMemberMiss hid) s = .next (u.headGone (u.fab.out.filter (fun q => q.2.hid == hid)) true)) ∧
  (∀ (b : Nat) (s : State), s.fab.holdSince = some b → b + 1024 * s.get F.FAB_PLACE_CFG_HOLD ≤ s.beat → exec .fabPlaceHoldExpire s = .next (s.modFab (fun
    f => { f with holdSince := none, computing := some (f.seen, s.beat) }))) ∧
  (∀ (l : List Nat) (b : Nat) (s u : State), s.fab.computing = some (l, b) → b + ceilDiv (65536 * l.length) 12800 ≤ s.beat → u = (s.placeWrite (1 - s.get
    F.FAB_PLACE_STAT_COPY) (s.get F.FAB_PLACE_SEED_SEED) (s.get F.FAB_PLACE_CFG_REPLICAS) l).modFab (fun f =>
    { f with computing := none, homes := l, seed := s.get F.FAB_PLACE_SEED_SEED, replicas := s.get F.FAB_PLACE_CFG_REPLICAS }) → exec .fabPlaceSwap s =
    .next (((u.setAll [(F.FAB_PLACE_STAT_BUSY, 0), (F.FAB_PLACE_STAT_COPY, 1 - u.get F.FAB_PLACE_STAT_COPY), (F.FAB_PLACE_STAT_PAIRS, l.length),
    (F.FAB_PLACE_STAT_BEAT, u.beat32)]).irq (fabSlot 2) 1).bump F.FAB_CNT_RECOMPUTE_COUNT)) ∧
  (∀ (key : Nat) (x : FabFetch) (s : State), AL.get key s.fab.fetches = some x → x.arrived = false → x.beat + s.get F.FAB_FETCH_CFG_FETCH_TMO ≤ s.beat →
    exec (.fabFetchTimeout key) s = .next
    ((match AL.get x.ctag s.fab.out with | some c => (if c.conn.isSome ∧ s.fabIn then (s.headSend c.hid 0x06 .abort 0 0 (some 0) 0 x.ctag 0).2 else s) | none => s).fabNext
    key)) ∧
  (∀ (m link : Nat) (l : RepLink) (s : State), s.judge m Slot.REP 0x128 true true = none → s.get F.REP_LINK_CMD_STAT_BUSY ≠ 1 → s.repLink link = none →
    s.linkEntry link = some l → s.linkBad l = false → exec (.repLinkLoad m link) s = .next (((((s.modFab (fun t =>
    { t with links := AL.put link { l with st := if l.mode = 1 then 5 else 1, pollBeat := s.beat } t.links })).irq Slot.REP 1).repCount)).linkResult 1
    0)) ∧
  (∀ (m link : Nat) (l : RepLink) (s : State), s.judge m Slot.REP 0x128 true true = none → s.get F.REP_LINK_CMD_STAT_BUSY ≠ 1 → s.repLink link = some l →
    exec (.repLinkStop m link) s = .next (s.linkStop link)) ∧
  (∀ (m link snap : Nat) (l : RepLink) (x : Snap) (s : State), s.judge m Slot.REP 0x128 true true = none → s.get F.REP_LINK_CMD_STAT_BUSY ≠ 1 → s.repLink
    link = some l → l.target = false → s.liveSnap snap = some x → x.vol = l.localVol → exec (.repLinkOffer m link snap) s = .next ((s.modRep link (fun
    l => { l with offered := some snap })).linkResult 1 0)) ∧
  (∀ (m link : Nat) (l : RepLink) (s : State), s.judge m Slot.REP 0x128 true true = none → s.get F.REP_LINK_CMD_STAT_BUSY ≠ 1 → s.repLink link = some l →
    l.target = false → l.mode = 1 → l.st = 5 → exec (.repLinkResync m link) s = .next (((s.modRep link (fun l => { l with snapWait := true })).repTo
    link 2).linkResult 1 0)) ∧
  (∀ (m link snap : Nat) (s : State), s.judge m Slot.REP 0x128 true true = none → s.get F.REP_LINK_CMD_STAT_BUSY = 1 → exec (.repLinkLoad m link) s =
    .next (s.raise Slot.REP Cond.REP_CMD_BUSY) ∧ exec (.repLinkStop m link) s = .next (s.raise Slot.REP Cond.REP_CMD_BUSY) ∧ exec (.repLinkOffer m link
    snap) s = .next (s.raise Slot.REP Cond.REP_CMD_BUSY) ∧ exec (.repLinkResync m link) s = .next (s.raise Slot.REP Cond.REP_CMD_BUSY)) ∧
  (∀ (m link snap : Nat) (s : State), s.judge m Slot.REP 0x128 true true = none → s.get F.REP_LINK_CMD_STAT_BUSY ≠ 1 → s.repLink link = none →
    (s.linkEntry link = none → exec (.repLinkLoad m link) s = .next (s.linkResult 2 0)) ∧ (∀ l, s.linkEntry link = some l → s.linkBad l = true → exec
    (.repLinkLoad m link) s = .next ((s.raise Slot.REP Cond.REP_LINK_INVALID link).linkResult 2 Cond.REP_LINK_INVALID)) ∧ exec (.repLinkStop m link) s
    = .next (s.linkResult 2 0) ∧ exec (.repLinkOffer m link snap) s = .next (s.linkResult 2 0) ∧ exec (.repLinkResync m link) s = .next (s.linkResult 2
    0)) ∧
  (∀ (m link snap : Nat) (l : RepLink) (s : State), s.judge m Slot.REP 0x128 true true = none → s.get F.REP_LINK_CMD_STAT_BUSY ≠ 1 → s.repLink link =
    some l → exec (.repLinkLoad m link) s = .next (s.linkResult 2 0) ∧ (l.target = true ∨ (∀ x, s.liveSnap snap = some x → x.vol ≠ l.localVol) → exec
    (.repLinkOffer m link snap) s = .next (s.linkResult 2 0)) ∧ (l.target = true ∨ l.mode ≠ 1 ∨ l.st ≠ 5 → exec (.repLinkResync m link) s = .next
    (s.linkResult 2 0))) ∧
  (∀ (link : Nat) (l : RepLink) (s u : State), s.repLink link = some l → l.target = true → l.st ≠ 6 → l.polling = false → l.cycle = none → s.repMay =
    true → (s.unit (unitKey Blk.REP 0)).quiesce = false → l.pollBeat + max 1024 l.period ≤ s.beat → u = s.modRep link (fun l =>
    { l with polling := true, pollBeat := s.beat }) → exec (.repPollDue link) s = .next (u.headSend (u.linkHid l) 0x41 (.poll link) (l.remoteVol * 2 ^
    48) 0 (some 0) 0 (u.get F.FAB_ID_HID) (u.saltCheck l.localVol)).2) ∧
  (∀ (id : Nat) (c : SyncCmd) (s : State), AL.get id s.fab.sync = some c → (c.ctag.isSome = true ∨ c.sentBeat ≠ 0) → c.sentBeat + 1024 * s.get
    F.REP_CFG_SYNC_TMO ≤ s.beat → exec (.repSyncTimeout id) s = .next ((((s.repTo c.link 5).raise Slot.REP Cond.REP_SYNC_BROKEN c.link).bump
    F.REP_CNT_BREAKS_COUNT).syncDrop c.link))

/-- A channel carries a word from its sender to its receiver, its binding is written in secure state, and locks are taken and given back (rests
on R601, R602, R603, R604, R605, R612, R613, R615, R616, spec/15_mailboxes_and_locks.md). -/
def Obligations.MailboxesAndLocksServe : Prop :=
  (∀ (m c : Nat) (w : Word) (s : State), s.MbxMay m (mbxSlot c) (0x100 + 8 * (c % 32)) true → s.mbxBound c = true → s.get (F.MBX_BIND_SENDER c) = m →
    s.mbxFull c = false → c < 112 ∨ 120 ≤ c → m ≠ 59 → m ≠ 60 → exec (.mbxPost m c w) s = .next (s.setAll [(F.MBX_TAKE_WORD c, w.toNat),
    (F.MBX_STAT_FULL c, 1), (F.MBX_STAT_MSG_EPOCH c, s.mbxEpoch m), (F.MBX_STAT_POST_BEAT c, s.beat)])) ∧
  (∀ (m c : Nat) (w : Word) (s : State), s.MbxMay m (mbxSlot c) (0x100 + 8 * (c % 32)) true → exec (.mbxPost m c w) s = .next (if s.mbxBound c = false
    then s else if s.get (F.MBX_BIND_SENDER c) ≠ m then s.raise (mbxSlot c) Cond.MBX_NOT_BOUND c else if s.mbxFull c then s.mbxRefused c
    Cond.MBX_POST_FULL else if 112 ≤ c ∧ c < 120 then (if s.get F.PRL_STAT_REACHABLE = 1 then (s.mbxPlace c w.toNat (s.mbxEpoch m)).mbxSend w.toNat 0
    (s.mbxEpoch m) (c + 8) else s.mbxRefused c Cond.MBX_PEER_ABSENT) else s.mbxPlace c w.toNat (s.mbxEpoch m))) ∧
  (∀ (m c : Nat) (s u : State), s.MbxMay m (mbxSlot c) (0x200 + 8 * (c % 32)) false → s.mbxBound c = true → s.get (F.MBX_BIND_RECEIVER c) = m → s.mbxFull
    c = true → u = s.setAll [(F.MBX_TAKE_WORD c, 0), (F.MBX_STAT_FULL c, 0)] → exec (.mbxTake m c) s = .next (((if 120 ≤ c then u.mbxSend 0 1 0 (c - 8)
    else u).answer (s.get (F.MBX_TAKE_WORD c))).svcTaken m c (s.get (F.MBX_TAKE_WORD c)))) ∧
  (∀ (m c : Nat) (s : State), s.MbxMay m (mbxSlot c) (0x200 + 8 * (c % 32)) false → (s.mbxBound c = false → exec (.mbxTake m c) s = .next (s.answer 0)) ∧
    (s.mbxBound c = true → s.get (F.MBX_BIND_RECEIVER c) ≠ m → exec (.mbxTake m c) s = .next ((s.raise (mbxSlot c) Cond.MBX_NOT_BOUND c).answer 0)) ∧
    (s.mbxBound c = true → s.get (F.MBX_BIND_RECEIVER c) = m → s.mbxFull c = false → exec (.mbxTake m c) s = .next (s.answer 0))) ∧
  (∀ (m c : Nat) (v : Word) (s : State), s.MbxMay m (mbxSlot c) (0x300 + 8 * (c % 32)) true → (s.mbxBound c = false → exec (.mbxStatWrite m c v) s =
    .next s) ∧ (s.mbxBound c = true → s.get (F.MBX_BIND_SENDER c) ≠ m → s.get (F.MBX_BIND_RECEIVER c) ≠ m → exec (.mbxStatWrite m c v) s = .next
    (s.raise (mbxSlot c) Cond.MBX_NOT_BOUND c)) ∧ (s.mbxBound c = true → s.get (F.MBX_BIND_SENDER c) ≠ m → s.get (F.MBX_BIND_RECEIVER c) = m → exec
    (.mbxStatWrite m c v) s = .next (s.set (F.MBX_STAT_DB_EN c) (bitsOf v.toNat 60 1)))) ∧
  (∀ (m c : Nat) (v : Word) (s u w : State), s.MbxMay m (mbxSlot c) (0x300 + 8 * (c % 32)) true → s.mbxBound c = true → s.get (F.MBX_BIND_SENDER c) = m →
    u = (if bitOf v.toNat 62 then s.set (F.MBX_STAT_DROPPED c) 0 else s) → w = (if bitOf v.toNat 61 then u.set (F.MBX_STAT_REFUSED c) 0 else u) → exec
    (.mbxStatWrite m c v) s = .next (if s.get (F.MBX_BIND_RECEIVER c) = m then w.set (F.MBX_STAT_DB_EN c) (bitsOf v.toNat 60 1) else w)) ∧
  (∀ (m c snd rcv : Nat) (valid : Bool) (s : State), s.judge m (mbxSlot c) (0x400 + 8 * (c % 32)) true true = none → exec (.mbxBindWrite m c valid snd
    rcv) s = .next (if s.secureMaster m = false then s.deny (mbxSlot c) Cond.SECURE_ACCESS_DENIED else if s.get F.MBX_BIND_LOCK_LOCKED = 1 then s.raise
    (mbxSlot c) Cond.MBX_BIND_LOCKED c else if s.mbxFull c = true ∨ (valid = true ∧ bindOk c snd rcv = false) then s.raise (mbxSlot c)
    Cond.MBX_BIND_INVALID c else s.setAll [(F.MBX_BIND_VALID c, b2n valid), (F.MBX_BIND_SENDER c, snd), (F.MBX_BIND_RECEIVER c, rcv)])) ∧
  (∀ (m : Nat) (s : State), s.judge m Slot.MBX 0x510 true true = none → exec (.mbxBindLock m) s = .next (s.set F.MBX_BIND_LOCK_LOCKED 1)) ∧
  (∀ (m k : Nat) (s : State), s.MbxMay m (Slot.MBX + 1) (0x510 + 8 * k) false → exec (.mbxLockRead m k) s = .next (if s.get (F.MBX_LOCK_OWNER k) = 0 ∧
    ((1 ≤ m ∧ m ≤ 59) ∨ m = 62) then (s.answer 0).set (F.MBX_LOCK_OWNER k) m else s.answer (s.get (F.MBX_LOCK_OWNER k)))) ∧
  (∀ (m k : Nat) (s : State), s.MbxMay m (Slot.MBX + 1) 0x590 true → exec (.mbxUnlock m k) s = .next (if s.get (F.MBX_LOCK_OWNER k) = m ∧ m ≠ 0 then
    s.set (F.MBX_LOCK_OWNER k) 0 else s.raise (Slot.MBX + 1) Cond.MBX_LOCK_NOT_OWNER k))

/-- TAP instructions shift out what Table 19.5 says and act on the pins where they may, debug unlock runs its steps, and a link test runs, counts
and scans (rests on R597, R598, R708, R709, R710, R712, R713, spec/19_package_clocks_reset_test.md, spec/14_secure_core_and_keys.md). -/
def Obligations.TapAndLinkTestAct : Prop :=
  (∀ (levels value code : Nat) (s : State), exec .idcode s = .next (s.tapOut 1 [Config.step.toNat % 16 * 2 ^ 28 + 0x4B8A3C7]) ∧ exec .clamp s = .next
    (s.tapOut 6 [0]) ∧ exec .highz s = .next (s.tapOut 7 [0]) ∧ exec (.bypass code) s = .next (s.tapOut (code % 256) [0]) ∧ exec .dbgStat s = .next
    (s.tapOut 0x22 [s.get F.SEC_DBG_STAT_STATE * 2 ^ 62 + s.get F.SEC_DBG_STAT_FORCED * 2 ^ 61 + s.get F.SEC_DBG_STAT_BEAT]) ∧ exec .tapReset s = .next
    { s.masterReset 62 with pins := { s.pins with tapIr := 1 } } ∧ exec (.samplePreload levels value) s = .next
    (({ s with pins := { s.pins with scan := value } } : State).tapOut 2 [levels])) ∧
  (∀ (levels value : Nat) (s : State), s.tapPins = true → exec (.extest levels value) s = .next (({ s with pins := { s.pins with scan := value } } :
    State).tapOut 3 [levels]) ∧ exec (.extestPulse levels value) s = .next (({ s with pins := { s.pins with scan := value } } : State).tapOut 4
    [levels]) ∧ exec (.extestTrain levels value) s = .next (({ s with pins := { s.pins with scan := value } } : State).tapOut 5 [levels])) ∧
  (∀ (levels value : Nat) (s : State), s.tapPins = false → exec (.extest levels value) s = .next (s.tapOut 3 [0]) ∧ exec (.extestPulse levels value) s =
    .next (s.tapOut 4 [0]) ∧ exec (.extestTrain levels value) s = .next (s.tapOut 5 [0])) ∧
  (∀ (s u : State) (r : List Nat), s.sec.fuses.debugDisable = true ∨ s.inReset = true ∨ s.pins.tripped = true ∨ s.mode = .off ∨ s.get
    F.SEC_DRBG_STAT_READY = 0 → (r, u) = (List.range 6).foldl (fun (x : List Nat × State) _ => (x.1 ++ [(x.2.free 64).1], (x.2.free 64).2)) (([] : List
    Nat), s) → exec .dbgChal s = .next (u.tapOut 0x20 r)) ∧
  (∀ (s : State), s.sec.fuses.debugDisable = false → s.inReset = false → s.pins.tripped = false → s.mode ≠ .off → s.get F.SEC_DRBG_STAT_READY ≠ 0 → exec
    .dbgChal s = .next ((s.draw256.2.modSec (fun x => { x with dbgNonce := some s.draw256.1 })).tapOut 0x20 [s.draw256.1, Config.chip.toNat,
    s.draw256.2.flash.bootCount])) ∧
  (∀ (bytes : List Nat) (s u : State), u = (s.tapOut 0x21 []).satInc F.SEC_DBG_CNT_TRIES 1 → (s.inReset = true ∨ s.pins.tripped = true ∨ s.mode = .off →
    exec (.dbgToken bytes) s = .next s) ∧ (s.inReset = false → s.pins.tripped = false → s.mode ≠ .off → u.sec.fuses.debugDisable = true → exec
    (.dbgToken bytes) s = .next ((u.satInc F.SEC_DBG_CNT_FAILS 1).raise (Slot.SEC + 3) Cond.DEBUG_UNLOCK_REFUSED))) ∧
  (∀ (bytes : List Nat) (s u : State), s.inReset = false → s.pins.tripped = false → s.mode ≠ .off → u = (s.tapOut 0x21 []).satInc F.SEC_DBG_CNT_TRIES 1 →
    u.sec.fuses.debugDisable = false → exec (.dbgToken bytes) s = .next (if !u.dbgTokenOk bytes then (u.satInc F.SEC_DBG_CNT_FAILS 1).raise (Slot.SEC +
    3) Cond.DEBUG_TOKEN_INVALID else if u.dbgRefused (bitOf (bytes.getD 44 0) 0) then (u.satInc F.SEC_DBG_CNT_FAILS 1).raise (Slot.SEC + 3)
    Cond.DEBUG_UNLOCK_REFUSED else u.dbgUnlock bytes (bitOf (bytes.getD 44 0) 0))) ∧
  (∀ (addr : Nat) (data : Word) (s : State), s.inReset = false → inWindow (addr % 2 ^ 48) = true → exec (.dbgMem true addr data) s = .next ((s.winWrite
    62 (addr % 2 ^ 48) 8 data.toNat).tapOut 0x23 [1, addr % 2 ^ 48, data.toNat, 1]) ∧ exec (.dbgMem false addr data) s = .next ((s.winRead 62 (addr % 2
    ^ 48) 8).tapOut 0x23 [0, addr % 2 ^ 48, (s.winRead 62 (addr % 2 ^ 48) 8).busData.toNat, 1])) ∧
  (∀ (wr : Bool) (addr : Nat) (data : Word) (s : State), (s.inReset = true → exec (.dbgMem wr addr data) s = .next (s.tapOut 0x23 [b2n wr, addr % 2 ^ 48,
    data.toNat, 0])) ∧ (s.inReset = false → inWindow (addr % 2 ^ 48) = false → exec (.dbgMem wr addr data) s = .next ((if noRegion (addr % 2 ^ 48) then
    s.unmapped else s).tapOut 0x23 [b2n wr, addr % 2 ^ 48, 0, 1]))) ∧
  (∀ (m q : Nat) (s : State), q < 64 → s.judge m (Slot.TST + q) 0x108 true true = none → (List.range 4).any (fun n => bitOf (s.testLanes q) n &&
    !s.laneFree q n) = true → exec (.tstRun m q) s = .next (s.raise (Slot.TST + q) Cond.TST_BUSY)) ∧
  (∀ (m q : Nat) (s : State), q < 64 → s.judge m (Slot.TST + q) 0x108 true true = none → (List.range 4).any (fun n => bitOf (s.testLanes q) n &&
    !s.laneFree q n) = false → s.get (F.TST_CTL_RUN q) = 1 → exec (.tstRun m q) s = .next ((s.setAll [(F.TST_CTL_RUN q, 1), (F.TST_STAT_TAKEN q,
    s.testLanes q)]).testZero q)) ∧
  (∀ (m q : Nat) (s : State), q < 64 → s.judge m (Slot.TST + q) 0x108 true true = none → (List.range 4).any (fun n => bitOf (s.testLanes q) n &&
    !s.laneFree q n) = false → s.get (F.TST_CTL_RUN q) ≠ 1 → exec (.tstRun m q) s = .next ((((s.setAll [(F.TST_CTL_RUN q, 1), (F.TST_STAT_TAKEN q,
    s.testLanes q)]).testZero q).set (F.TST_STAT_LOCK q) 0).modTest q (fun x => { x with runBeat := some s.beat, lockTb := [] }))) ∧
  (∀ (m q : Nat) (errs : List Nat) (s : State), q < 64 → s.judge m (Slot.TST + q) 0x108 true true = none → exec (.tstStop m q errs) s = .next (s.testStop
    q errs)) ∧
  (∀ (m q : Nat) (s : State), q < 64 → s.judge m (Slot.TST + q) 0x108 true true = none → s.get (F.TST_CTL_RUN q) = 0 → exec (.tstClear m q) s = .next
    (s.testZero q)) ∧
  (∀ (m q : Nat) (s : State), q < 64 → s.judge m (Slot.TST + q) 0x108 true true = none → s.get (F.TST_CTL_RUN q) = 1 → exec (.tstClear m q) s = .next
    ((s.testRun q).testZero q)) ∧
  (∀ (m q : Nat) (s : State), q < 64 → s.judge m (Slot.TST + q) 0x108 true true = none → s.get (F.TST_STAT_EYE_STATE q) ≠ 1 → s.get (F.TST_CTL_RUN q) = 0
    → exec (.tstEyeScan m q) s = .next ((s.setAll [(F.TST_STAT_EYE_STATE q, 1), (F.TST_STAT_EYE_PCT q, 0)]).modTest q (fun x =>
    { x with eye := some (s.get (F.TST_EYE_CFG_ADDR q) * 4096, s.get (F.TST_EYE_CFG_LANE q), s.get (F.TST_EYE_CFG_DWELL q)) }))) ∧
  (∀ (m q : Nat) (s : State), q < 64 → s.judge m (Slot.TST + q) 0x108 true true = none → (s.get (F.TST_CTL_RUN q) = 1 → exec (.tstEyeScan m q) s = .next
    ((s.testRun q).testEye q)) ∧ (s.get (F.TST_CTL_RUN q) ≠ 1 → s.get (F.TST_STAT_EYE_STATE q) = 1 → exec (.tstEyeScan m q) s = .next (s.raise
    (Slot.TST + q) Cond.TST_BUSY))) ∧
  (∀ (q a lane dwell : Nat) (counts : List Nat) (s : State), (s.tst q).eye = some (a, lane, dwell) → inHbm a 49152 = false → exec (.tstEyeDone q counts)
    s = .next (((s.setAll [(F.TST_STAT_EYE_STATE q, 2), (F.TST_STAT_EYE_PCT q, 100)]).modTest q (fun x => { x with eye := none })).irq (Slot.TST + q)
    2)) ∧
  (∀ (q a lane dwell : Nat) (counts : List Nat) (s : State), (s.tst q).eye = some (a, lane, dwell) → inHbm a 49152 = true → exec (.tstEyeDone q counts) s
    = .next ((((s.putBytes a (eyeBytes counts)).setAll [(F.TST_STAT_EYE_STATE q, 2), (F.TST_STAT_EYE_PCT q, 100)]).modTest q (fun x =>
    { x with eye := none })).irq (Slot.TST + q) 2)) ∧
  (∀ (q n : Nat) (s : State), q < 64 → n < 4 → s.get (F.TST_CTL_RUN q) ≠ 0 → bitOf (s.get (F.TST_CFG_CHK_EN q)) n = true → bitOf (s.get (F.TST_STAT_LOCK
    q)) n = false → exec (.tstCheckerLock q n) s = .next ((s.set (F.TST_STAT_LOCK q) (s.get (F.TST_STAT_LOCK q) ||| 2 ^ n)).modTest q (fun x =>
    { x with lockTb := AL.put n s.tb x.lockTb }))) ∧
  (∀ (q n errs : Nat) (s u : State), q < 64 → n < 4 → bitOf (s.get (F.TST_STAT_LOCK q)) n = true → u = (s.testCount q n errs).modTest q (fun x =>
    { x with lockTb := AL.del n x.lockTb }) → exec (.tstLockLoss q n errs) s = .next (((u.setAll [(F.TST_STAT_LOCK q, u.get (F.TST_STAT_LOCK q) - 2 ^
    n), (F.TST_STAT_LOSS q, u.get (F.TST_STAT_LOSS q) ||| 2 ^ n)]).irq (Slot.TST + q) 1).raise (Slot.TST + q) Cond.TST_PATTERN_LOSS n))

/-- Power requests, entries, exits, automatic IDLE, DOZE, power failure and resets of the clocks act as Chapter 17 says (rests on R641, R642,
R643, R644, R645, R646, R647, R650, R651, R653, R654, R655, R656, R663, R673, R706, spec/17_power_domains_and_wake.md). -/
def Obligations.PowerStatesAndDozeMove : Prop :=
  (∀ (m d target : Nat) (s : State), d < 20 → s.judge m Slot.PWR (0x200 + 8 * d) true true = none → s.domRefuser d 1 (target % 4) 0 = 0 → target % 4 = 3
    → s.dom d = 2 → exec (.pwrDomSetState m d target) s = .next ((s.domGo d 3).pwrResult d 0)) ∧
  (∀ (m d target : Nat) (s : State), d < 20 → s.judge m Slot.PWR (0x200 + 8 * d) true true = none → s.domRefuser d 1 (target % 4) 0 = 0 → s.dom d = 3 →
    target % 4 < 3 → exec (.pwrDomSetState m d target) s = .next (((s.domQuiesce d).modPwr (fun p =>
    { p with req := some { dom := d, target := target % 4, since := (s.domQuiesce d).beat } })).setAll [(F.PWR_REQ_STAT_BUSY, 1),
    (F.PWR_REQ_STAT_DOMAIN, d)])) ∧
  (∀ (m d target : Nat) (s : State), d < 20 → s.judge m Slot.PWR (0x200 + 8 * d) true true = none → s.domRefuser d 1 (target % 4) 0 = 0 → (target % 4 =
    s.dom d → exec (.pwrDomSetState m d target) s = .next (s.pwrResult d 0)) ∧ (s.dom d < target % 4 → s.dom d ≠ 2 → exec (.pwrDomSetState m d target)
    s = .next ((s.set F.PWR_REQ_STAT_DOMAIN d).exitBegin d true)) ∧ (s.dom d = 1 → target % 4 = 0 → exec (.pwrDomSetState m d target) s = .next
    (((s.domGo d 0).bump F.PWR_CNT_ENTRY_COUNT).pwrResult d 0)) ∧ (s.dom d = 2 → target % 4 < 2 → exec (.pwrDomSetState m d target) s = .next
    (((s.domQuiesce d).modPwr (fun p => { p with req := some { dom := d, target := target % 4, since := (s.domQuiesce d).beat } })).setAll
    [(F.PWR_REQ_STAT_BUSY, 1), (F.PWR_REQ_STAT_DOMAIN, d)]))) ∧
  (∀ (m d target cores r : Nat) (s : State), d < 20 → s.judge m Slot.PWR (0x200 + 8 * d) true true = none → r ≠ 0 → (s.domRefuser d 1 (target % 4) 0 = r
    → exec (.pwrDomSetState m d target) s = .next (s.pwrResult d r)) ∧ (s.domRefuser d 2 0 (cores % 2 ^ 16) = r → exec (.pwrDomResetCores m d cores) s
    = .next (s.pwrResult d r))) ∧
  (∀ (m d cores : Nat) (s : State), d < 20 → s.judge m Slot.PWR (0x200 + 8 * d) true true = none → s.domRefuser d 2 0 (cores % 2 ^ 16) = 0 → exec
    (.pwrDomResetCores m d cores) s = .next ((s.resetCores d (cores % 2 ^ 16)).pwrResult d 0)) ∧
  (∀ (wfi : Bool) (wake : Nat) (q : PwrReq) (s u : State), s.pwr.req = some q → q.dom ≠ 31 → s.domQuiet q.dom = true → domCores q.dom = 0 ∨ (wfi = true ∧
    s.coresPend (coreMasters q.dom (2 ^ 16 - 1)) false = false) → u = (((s.modPwr (fun p => { p with req := none })).domGo q.dom q.target).bump
    F.PWR_CNT_ENTRY_COUNT).pwrResult q.dom 0 → exec (.pwrEntryQuiesced wfi wake) s = .next (if 1 ≤ wake ∧ wake ≤ 9 then ((u.modPwr (fun p =>
    { p with domWake := p.domWake ++ [q.dom] })).set F.PWR_WAKE_LATCH_LATCHED (u.get F.PWR_WAKE_LATCH_LATCHED ||| 256)).pwrNext else u.pwrNext)) ∧
  (∀ (wake : Nat) (q : PwrReq) (s : State), s.pwr.req = some q → q.dom = 31 → ((List.range 16).map (· + 3)).any (fun d => !s.domQuiet d || (decide
    (domCores d ≠ 0) && s.coresPend (coreMasters d (2 ^ 16 - 1)) false)) = false → exec (.pwrEntryQuiesced true wake) s = .next (s.dozeEnter (if wake =
    0 ∨ 9 < wake then none else some (wake - 1)))) ∧
  (∀ (q : PwrReq) (s : State), s.pwr.req = some q → q.since + s.get F.PWR_CFG_QUIESCE_TMO ≤ s.beat → exec .pwrQuiesceTimeout s = .next (s.entryEnd 6)) ∧
  (∀ (d : Nat) (asked : Bool) (s v : State), s.pwr.exit = some (d, asked) → v = (if s.dom d = 0 then (List.range (domCores d)).foldl (fun (s : State) k
    => s.startCore d (coreMaster d k)) ((s.modPwr (fun p => { p with exit := none })).domGo d 3) else (s.modPwr (fun p =>
    { p with exit := none })).domGo d 3) → exec .pwrExitDone s = .next
    (let u := ((v.domUnquiesce d).bump F.PWR_CNT_EXIT_COUNT); (if asked then u.pwrResult d 0 else u.set F.PWR_REQ_STAT_BUSY (b2n u.pwrRuns)).pwrNext)) ∧
  (∀ (d : Nat) (s : State), 2 ≤ d → d ≤ 13 → bitOf (s.get F.PWR_AUTO_IDLE_EN) (d - 2) = true → s.dom d = 3 → s.get (F.PWR_DOM_STAT_MOVING d) = 0 → (∀ q,
    s.pwr.req = some q → q.dom ≠ d ∧ q.dom ≠ 31) → s.get F.PWR_DOZE_STAT_PHASE = 0 → (domUnits d).any (fun k => s.unitBusy (k / 256) (k % 256)) = false
    → exec (.autoIdleEnter d) s = .next (((s.domGo d 2).set (F.PWR_DOM_STAT_AUTO d) 1).bump F.PWR_CNT_AUTO_IDLE_COUNT)) ∧
  (∀ (d : Nat) (s : State), d < 20 → s.dom d = 2 → s.get (F.PWR_DOM_STAT_AUTO d) = 1 → exec (.autoIdleExit d) s = .next (s.domGo d 3)) ∧
  (∀ (source dom : Nat) (s : State), source ≠ 8 ∨ s.irqWakes dom = true → exec (.wakeSourceAssert source dom) s = .next (s.wake source dom)) ∧
  (∀ (m : Nat) (oscStop : Bool) (s u : State), s.judge m Slot.PWR 0x118 true true = none → u = s.set F.PWR_DOZE_CTL_OSC_STOP (b2n oscStop) → u.pwrRuns =
    false → u.mode = .service → u.anyLease = false → exec (.dozeRequest m oscStop) s = .next
    (let v := ((List.range 16).map (· + 3)).foldl (fun (s : State) d => s.domQuiesce d) u; (v.modPwr (fun p => { p with req := some { dom := 31, target := 1, since := v.beat }, woken := none })).setAll [(F.PWR_DOZE_STAT_PHASE, 1), (F.PWR_REQ_STAT_BUSY, 1), (F.PWR_REQ_STAT_DOMAIN, 31)])) ∧
  (∀ (m : Nat) (oscStop : Bool) (s u : State), s.judge m Slot.PWR 0x118 true true = none → u = s.set F.PWR_DOZE_CTL_OSC_STOP (b2n oscStop) → (u.pwrRuns =
    true → exec (.dozeRequest m oscStop) s = .next (u.pwrResult 31 2)) ∧ (u.pwrRuns = false → u.mode ≠ .service → exec (.dozeRequest m oscStop) s =
    .next (u.pwrResult 31 3)) ∧ (u.pwrRuns = false → u.mode = .service → u.anyLease = true → exec (.dozeRequest m oscStop) s = .next (u.pwrResult 31
    5))) ∧
  (∀ (ticks startUs b : Nat) (replayed : Bool) (s : State), s.pwr.woken = some (b, replayed) → s.get F.PWR_DOZE_STAT_PHASE = 2 → exec (.dozeWake ticks
    startUs) s = .next
    (let u := (s.clocksStart ticks startUs).setAll [(F.PWR_DOZE_STAT_PHASE, 3), (F.PWR_REQ_STAT_BUSY, 1), (F.PWR_WAKE_LATCH_LATCHED, 0)]; let v := ((if replayed then u.bump F.PWR_CNT_REPLAY_COUNT else u).bump F.PWR_CNT_WAKE_COUNT).bump F.AON_CNT_WAKE_COUNT; v.modPwr (fun p => { p with wakeBeat := v.beat, slowSaid := false }))) ∧
  (∀ (s v : State), s.get F.PWR_DOZE_STAT_PHASE = 3 → v = (if 2048 < s.exitBeats ∧ s.pwr.slowSaid = false then s.raise Slot.PWR Cond.DOZE_EXIT_SLOW
    s.exitBeats else s) → exec .dozeExitDone s = .next
    (let u := (v.dozeBack.setMode .service).setAll [(F.PWR_DOZE_STAT_PHASE, 0), (F.PWR_REQ_STAT_BUSY, 0), (F.PWR_DOZE_STAT_EXIT_BEATS, min s.exitBeats 65535), (F.PWR_DOZE_STAT_WAKE_SRC, ((v.pwr.woken).map (·.1)).getD 0)]; ((((u.irq Slot.PWR 2).bump F.PWR_CNT_DOZE_COUNT).sample 40 s.exitBeats).modPwr (fun p => { p with woken := none, prior := [] })).pwrNext)) ∧
  (∀ (s : State), s.get F.PWR_DOZE_STAT_PHASE = 3 → 2048 < s.exitBeats → s.pwr.slowSaid = false → exec .dozeExitSlow s = .next ((s.raise Slot.PWR
    Cond.DOZE_EXIT_SLOW s.exitBeats).modPwr (fun p => { p with slowSaid := true }))) ∧
  (∀ (n : Nat) (s u : State), n < 9 → s.get F.PWR_DOZE_STAT_PHASE = 0 → s.mode ≠ .vault → s.mode ≠ .off → s.inReset = false → s.pwr.pllBad.contains n =
    false → u = s.modPwr (fun p => { p with pllBad := p.pllBad ++ [n] }) → exec (.pllUnlock n) s = .next (((u.set F.CLK_PLL_STAT_LOCK ((List.range
    9).foldl (fun a k => if k = n ∨ s.pwr.pllBad.contains k then a else a + 2 ^ k) 0)).bump F.CLK_CNT_PLL_UNLOCK_COUNT).raise Slot.CLK Cond.PLL_UNLOCK
    n)) ∧
  (∀ (k : Nat) (s u : State), k = 0 ∨ k = 1 → bitOf (s.get F.CLK_MON_CFG_EN) k = true → s.refOk k = true → s.inReset = false → u = s.modPwr (fun p =>
    { p with refBad := p.refBad ++ [k] }) → exec (.clkRefLoss k) s = .next
    (let v := (((u.setAll [(F.CLK_MON_STAT_FAIL, u.get F.CLK_MON_STAT_FAIL ||| 2 ^ k), (F.CLK_REF_STAT_OK, u.refBits)]).bump F.CLK_CNT_REF_LOSS_COUNT).bump F.CLK_CNT_MON_FAIL_COUNT).irq Slot.CLK 1; if k = 0 then v.raiseAt Slot.CLK Cond.CLK_REF_LOSS k 6 else v.raise Slot.CLK Cond.CLK_REF_LOSS k)) ∧
  (∀ (k : Nat) (s u v : State), 2 ≤ k → k ≤ 5 → bitOf (s.get F.CLK_MON_CFG_EN) k = true → s.refOk k = true → s.inReset = false → u = s.modPwr (fun p =>
    { p with refBad := p.refBad ++ [k] }) → v = (((u.setAll [(F.CLK_MON_STAT_FAIL, u.get F.CLK_MON_STAT_FAIL ||| 2 ^ k), (F.CLK_REF_STAT_OK,
    u.refBits)]).bump F.CLK_CNT_REF_LOSS_COUNT).bump F.CLK_CNT_MON_FAIL_COUNT).irq Slot.CLK 1 → exec (.clkRefLoss k) s = .next ((if k ≤ 3 then
    ((List.range 48).map (fun p => 48 * (k - 2) + p)).foldl (fun (s : State) p => s.portLink p false) v else ((List.range 64).map (fun n => 64 * (k -
    4) + n)).foldl (fun (s : State) ln => if s.get (F.MDL_LINK_STAT_STATE ln) = 0 then s else s.linkDown ln) v).raise Slot.CLK Cond.CLK_REF_LOSS k)) ∧
  (∀ (s u v : State), bitOf (s.get F.CLK_MON_CFG_EN) 6 = true → s.refOk 6 = true → s.inReset = false → u = s.modPwr (fun p =>
    { p with refBad := p.refBad ++ [6] }) → v = (((u.setAll [(F.CLK_MON_STAT_FAIL, u.get F.CLK_MON_STAT_FAIL ||| 2 ^ 6), (F.CLK_REF_STAT_OK,
    u.refBits)]).bump F.CLK_CNT_REF_LOSS_COUNT).bump F.CLK_CNT_MON_FAIL_COUNT).irq Slot.CLK 1 → exec (.clkRefLoss 6) s = .next (((v.bundleDown
    0).bundleDown 1).raise Slot.CLK Cond.CLK_REF_LOSS 6)) ∧
  (∀ (k : Nat) (s u : State), s.refOk k = false → u = s.modPwr (fun p => { p with refBad := p.refBad.filter (· != k) }) → exec (.clkRefReturn k) s =
    .next
    (let v := (u.set F.CLK_REF_STAT_OK u.refBits).bump F.CLK_CNT_REF_RETURN_COUNT; if k = 4 ∨ k = 5 then ((List.range 64).map (fun n => 64 * (k - 4) + n)).foldl (fun (s : State) ln => if s.get (F.MDL_LINK_STAT_STATE ln) = 0 ∧ s.get (F.MDL_LINK_CTL_ENABLE ln) = 1 then s.linkTo ln 1 else s) v else if k = 6 then v.bundleTimers else v)) ∧
  (∀ (ns ticks startUs : Nat) (s u : State), 200 ≤ ns → s.get F.AON_PFAIL_CFG_EN ≠ 0 → s.mode ≠ .vault → s.mode ≠ .off → s.inReset = false →
    s.pins.tripped = false → u = (if s.mode = .doze then [19, 3, 8, 10, 16, 17].foldl (fun (s : State) d => if s.domUp d then s else s.domGo d 3)
    (s.clocksStart ticks startUs) else s) → exec (.pfailRecognised ns ticks startUs) s = .next (((((u.setAll [(F.AON_STAT_PFAIL, 1),
    (F.AON_PFAIL_STAT_SEEN, 1), (F.AON_PFAIL_STAT_BEAT, u.beat32)]).raise Slot.AON Cond.POWER_FAIL).bump F.AON_CNT_PFAIL_COUNT).bump
    F.PWR_CNT_VAULT_COUNT).pwrStop.vaultGo)) ∧
  (∀ (m : Nat) (s : State), s.judge m (Slot.AON + 1) 0x108 true true = none → exec (.aonSrstReq m) s = .next ((s.bump F.AON_CNT_SRST_REQ_COUNT).selfReset
    3)) ∧
  (∀ (b : Nat) (l : List Nat) (s u : State), s.health.fatalDue.filter (fun b => decide (b ≤ s.beat)) = b :: l → u =
    { s with health := { s.health with fatalDue := s.health.fatalDue.filter (fun b => decide (s.beat < b)) } } → u.get F.ERQ_CFG_FATAL_RESET = 1 →
    u.get F.ERQ_STAT_HOLD = 0 → u.mode = .fenced → exec .fatalResetTimer s = .next (u.selfReset 7))

/-- Injected and memory errors are raised, the event recorder's epochs, window and clears act, and age and temperature readings show (rests on
R670, R674, R678, R679, R681, R682, R683, R685, R687, R706, R707, spec/18_errors_events_health.md). -/
def Obligations.ErrorsEventsAndHealthAct : Prop :=
  (∀ (m slot cond : Nat) (s : State), s.judge m Slot.ERQ 0x158 true true = none → s.injectNo slot cond = false → exec (.erqInject m slot cond) s = .next
    (s.raise slot cond)) ∧
  (∀ (m slot cond : Nat) (s : State), s.judge m Slot.ERQ 0x158 true true = none → s.injectNo slot cond = true → exec (.erqInject m slot cond) s = .next
    (s.raise Slot.ERQ Cond.ERQ_INJECT_REFUSED)) ∧
  (∀ (slot addr tag c i p : Nat) (spare : Bool) (s : State), pageOf slot = some (c, i, p) → s.domUp (slotDomain slot) = true → exec (.memoryEccError 0
    slot addr tag spare) s = .next (s.raise slot Cond.SRAM_ECC_CORRECTED addr) ∧ exec (.memoryEccError 1 slot addr tag true) s = .next ((s.raise slot
    Cond.SRAM_ECC_FAULT addr).jobFault tag)) ∧
  (∀ (slot addr tag i p : Nat) (spare : Bool) (s : State), pageOf slot = some (Blk.HBM, i, p) → s.domUp (slotDomain slot) = true → exec (.memoryEccError
    2 slot addr tag spare) s = .next ((s.satInc (F.HBM_ECC_CORR i p) 1).raise slot Cond.HBM_ECC_CORRECTED addr) ∧ exec (.memoryEccError 3 slot addr tag
    spare) s = .next (((s.satInc (F.HBM_ECC_UNCORR i p) 1).raise (slot - p) Cond.HBM_ECC_UNCORR addr).jobFault tag)) ∧
  (∀ (slot addr tag c i p : Nat) (s u : State), pageOf slot = some (c, i, p) → s.domUp (slotDomain slot) = true → u = (s.raise slot Cond.SRAM_ECC_FAULT
    addr).jobFault tag → exec (.memoryEccError 1 slot addr tag false) s = .next (if (u.unit (unitKey c i)).enable then u.setUnit (unitKey c i)
    { u.unit (unitKey c i) with quiesce := true } else u)) ∧
  (∀ (slot addr tag i p : Nat) (spare : Bool) (s : State), pageOf slot = some (Blk.NOC, i, p) → s.domUp (slotDomain slot) = true → exec (.memoryEccError
    4 slot addr tag spare) s = .next ((s.raise slot Cond.NOC_PARITY addr).jobFault tag)) ∧
  (∀ (fails : Nat) (written : Bool) (s : State), s.domUp 3 = true → s.get F.AON_EVR_START_BEAT + 2 ^ 24 ≤ s.beat → exec (.evrEpochEnd fails written) s =
    .next ((List.range 20).foldl (fun (s : State) n => s.agePredict n) (s.evrEnd fails written))) ∧
  (∀ (m metric value : Nat) (s : State), s.judge m Slot.EVR 0x118 true true = none → 224 ≤ metric → metric ≤ 255 → exec (.evrSample m metric value) s =
    .next (s.sample metric (value % 2 ^ 56))) ∧
  (∀ (m metric value : Nat) (s : State), s.judge m Slot.EVR 0x118 true true = none → (metric < 224 ∨ 255 < metric) → exec (.evrSample m metric value) s =
    .next (s.raise Slot.EVR Cond.EVR_SAMPLE_REFUSED metric)) ∧
  (∀ (m area epoch metric : Nat) (s : State), s.judge m Slot.EVR 0x110 true true = none → exec (.evrCursorWrite m area epoch metric) s = .next
    (s.cursorTo area epoch metric)) ∧
  (∀ (s : State), s.domUp 3 = true → s.get F.EVR_STAT_WIN_READY ≠ 1 → exec .evrWindowLoaded s = .next ((s.setAll [(F.EVR_STAT_WIN_READY, 1),
    (F.EVR_STAT_WIN_VALID, b2n s.cursorEpoch.isSome)]).modHealth (fun h =>
    { h with win := match s.cursorEpoch with | some (e, x) => (AL.getD s.cursorMetric {} x.recs).words e s.cursorMetric x.gap ++ (AL.getD (s.cursorMetric + 1) {} x.recs).words e (s.cursorMetric + 1) x.gap | none => List.replicate 64 0 }))) ∧
  (∀ (m k : Nat) (s : State), k < 63 → s.judge m Slot.EVR (0x200 + 8 * k) true false = none → s.get F.EVR_STAT_WIN_READY ≠ 0 → exec (.evrWinRead m k) s =
    .next ((s.answer (s.health.win.getD k 0)).bump F.EVR_CNT_READ_COUNT)) ∧
  (∀ (m k : Nat) (s u : State), s.judge m Slot.EVR (0x200 + 8 * k) true false = none → k < 64 → u = (s.answer (s.health.win.getD 63 0)).bump
    F.EVR_CNT_READ_COUNT → (s.get F.EVR_STAT_WIN_READY = 0 → exec (.evrWinRead m k) s = .next (s.answer 0)) ∧ (k = 63 → s.get F.EVR_STAT_WIN_READY ≠ 0
    → exec (.evrWinRead m k) s = .next (if u.cursorMetric = 254 then u.cursorTo (u.get F.EVR_CURSOR_AREA) (u.get F.EVR_CURSOR_EPOCH + 1) 0 else
    u.cursorTo (u.get F.EVR_CURSOR_AREA) (u.get F.EVR_CURSOR_EPOCH) (u.cursorMetric + 2)))) ∧
  (∀ (m : Nat) (s : State), s.judge m clrSlot 0x100 true false = none → s.mayDraw = true → exec (.evrClrChalRead m) s = .next ((((List.range 4).foldl
    (fun (t : State) k => t.set (F.EVR_CLR_CHAL_NONCE k) (s.draw256.1 / 2 ^ (64 * k))) s.draw256.2).modHealth (fun h =>
    { h with nonce := some s.draw256.1 })).answer (s.draw256.1 % 2 ^ 64))) ∧
  (∀ (m : Nat) (s : State), s.judge m clrSlot 0x100 true false = none → s.mayDraw = false → exec (.evrClrChalRead m) s = .next (s.modHealth (fun h =>
    { h with chalWait := true }))) ∧
  (∀ (m addr : Nat) (s u : State), s.judge m clrSlot 0x120 true true = none → s.health.clearBusy = false → u = s.modHealth (fun h =>
    { h with nonce := none }) → exec (.evrClrReq m addr) s = .next
    (let t := s.bytesAt (bitsOf addr 3 45 * 8) 7464; let d := beBytes 48 (Config.sha384 t).toNat; if !s.clrTokenOk t then (u.raise clrSlot Cond.EVR_CLEAR_TOKEN_INVALID).clrEnd 2 Cond.EVR_CLEAR_TOKEN_INVALID else if 64 ≤ u.health.clearLog.length then (u.raise clrSlot Cond.EVR_CLEAR_LOG_FULL).clrEnd 2 Cond.EVR_CLEAR_LOG_FULL else (((List.range 6).foldl (fun (s : State) k => s.set (F.EVR_SEC_HASH_WORD k) (bytesNat d (8 * k) 8)) (u.setAll [(F.EVR_SEC_RANGE_FIRST, bytesNat t 44 4), (F.EVR_SEC_RANGE_LAST, bytesNat t 48 4)])).setAll [(F.EVR_CLR_STAT_BUSY, 1), (F.EVR_CLR_STAT_RESULT, 0), (F.EVR_CLR_STAT_CONDITION, 0)]).modHealth (fun h => { h with clearBusy := true }))) ∧
  (∀ (m addr : Nat) (s : State), s.judge m clrSlot 0x120 true true = none → s.health.clearBusy = true → exec (.evrClrReq m addr) s = .next ((s.raise
    clrSlot Cond.EVR_CLEAR_BUSY).bump F.EVR_CNT_CLR_REFUSED_COUNT)) ∧
  (∀ (m : Nat) (s u v : State), s.judge m (Slot.EVR + 3) 0x100 true true = none → u = s.bump F.EVR_CNT_SEC_CMD_COUNT → u.health.clearLog.length < 64 → v
    = u.sysWrite 0 u.clearEnt.words → exec (.evrSecClear m true) s = .next ((v.modHealth (fun h =>
    { h with clearLog := h.clearLog ++ [u.clearEnt], circ := h.circ.filter (fun (q : Nat × Nat × EvrEpoch) => !(decide (u.clearEnt.first ≤ q.2.1) && decide (q.2.1 ≤ u.clearEnt.last))) })).secClearEnd
    true 0) ∧ exec (.evrSecClear m false) s = .next (((v.raise Slot.EVR Cond.EVR_WRITE_FAIL).bump F.EVR_CNT_WRITE_FAIL_COUNT).secClearEnd false
    Cond.EVR_WRITE_FAIL)) ∧
  (∀ (m : Nat) (written : Bool) (s u : State), s.judge m (Slot.EVR + 3) 0x100 true true = none → u = s.bump F.EVR_CNT_SEC_CMD_COUNT → 64 ≤
    u.health.clearLog.length → exec (.evrSecClear m written) s = .next (u.secClearEnd false Cond.EVR_CLEAR_LOG_FULL)) ∧
  (∀ (n margin : Nat) (s u : State), n < 20 → s.domUp n = true → u = (s.set (F.AGE_STAT_MARGIN_PS n) margin).bump (F.AGE_CNT_SAMPLE_COUNT n) → exec
    (.ageSample n margin) s = .next ((u.ageShow n).sample (192 + n) (u.get (F.AGE_STAT_MARGIN_PS n)))) ∧
  (∀ (sensor : Nat) (temp : Int) (s u : State), sensor < 24 → u = s.tempIs sensor temp → warnLimit sensor < temp → u.health.warned.contains sensor =
    false → exec (.thermalWarning sensor temp) s = .next
    (let v := u.modHealth (fun h => { h with warned := h.warned ++ [sensor] }); let w := if v.domUp (min sensor 19) then v.raise (thermSlot sensor) Cond.THERMAL_WARNING (tempInfo temp) else v; if sensor < 20 then w.wake 7 31 else w)) ∧
  (∀ (sensor : Nat) (temp : Int) (s u : State), sensor < 20 → 115 < temp → u = s.tempIs sensor temp → u.inReset = false → u.pins.tripped = false → u.mode
    ≠ .off → exec (.thermalShutdown sensor temp) s = .next (u.raise (thermSlot sensor) Cond.THERMAL_SHUTDOWN (tempInfo temp))) ∧
  (∀ (sensor : Nat) (temp : Int) (s u v : State), sensor < 20 → 125 < temp → u = s.tempIs sensor temp → u.pins.tripped = false → u.pins.porstLow = false
    → v = (({ u.resetHead with pages := tripHdrs u.pages } : State).holdDomains).set F.AON_RESET_CAUSE_TRIP 1 → exec (.thermalTrip sensor temp) s =
    .next { v with pins := { v.pins with tripped := true, tripLatch := true, internalHeld := false } }) ∧
  (∀ (sensor : Nat) (temp : Int) (s u v : State), sensor < 24 → u = s.tempIs sensor temp → temp ≤ warnLimit sensor - 5 → v = u.modHealth (fun h =>
    { h with warned := h.warned.filter (· != sensor) }) → exec (.thermalWarningClear sensor temp) s = .next (if v.health.warned.any (fun k => decide (k
    < 20)) ∨ !bitOf (u.get F.PWR_WAKE_STAT_ASSERTED) 7 then v else v.set F.PWR_WAKE_STAT_ASSERTED (u.get F.PWR_WAKE_STAT_ASSERTED - 128)))

/-- The ROM, the recovery loader and the firmware run in their order, and the stacks of HBM and the settings with them (rests on R572, R573,
R574, R575, R576, R629, R632, R633, R715, spec/14_secure_core_and_keys.md). -/
def Obligations.BootChainRuns : Prop :=
  (∀ (keysOk sigsOk blocksOk : Bool) (svn digest : Nat) (s : State), s.chainAt 0 = true → s.get F.SEC_ENT_STAT_STATE = 1 → s.sec.copiesBad.contains 1 =
    false → exec (.bootLoaderVerify keysOk sigsOk svn blocksOk digest) s = .next (s.loaderJudge (if s.sec.copiesBad.contains 0 then 1 else 0) keysOk
    sigsOk svn blocksOk digest)) ∧
  (∀ (s : State), s.chainAt 0 = true → s.sec.copiesBad.contains 1 = false → s.pair.bootBeat + 65536 ≤ s.beat → exec .bootLoaderTimeout s = .next
    ((s.bootRaise Cond.BOOT_LOADER_FAIL).modSec (fun x => { x with copiesBad := [0, 1] }))) ∧
  (∀ (s u : State), s.chainAt 1 = true → s.flash.chosen = none → s.flash.ptr.next = none → u = s.modFlash (fun f =>
    { f with slot := f.ptr.curSlot, trial := false }) → exec .bundleCheck s = .next (if u.imagePasses (u.bank u.flash.ptr.curBank) = true then
    u.runImage u.flash.ptr.curBank else (u.bootRaise Cond.BOOT_BUNDLE_FAIL).setMode .service).updShow) ∧
  (∀ (b k : Nat) (s u : State), s.chainAt 1 = true → s.flash.chosen = none → s.flash.ptr.next = some (b, k) → s.flash.ptr.tries < 3 → u =
    (s.fallBack.updRaise Cond.UPD_TRIAL_FALLBACK).modFlash (fun f => { f with slot := f.ptr.curSlot, trial := false }) → exec .bundleCheck s = .next
    (if s.imagePasses (s.bank b) = true then (((s.putPtr { s.flash.ptr with tries := s.flash.ptr.tries + 1 }).modFlash (fun f =>
    { f with slot := k, trial := true, migrated := false, deadline := s.beat - (s.beat - s.get F.SEC_BOOT_BEATS_LOADER) % 2 ^ 32 + 2 ^ 24 })).runImage
    b).updShow else (if u.imagePasses (u.bank u.flash.ptr.curBank) = true then u.runImage u.flash.ptr.curBank else (u.bootRaise
    Cond.BOOT_BUNDLE_FAIL).setMode .service).updShow)) ∧
  (∀ (b k : Nat) (s u : State), s.chainAt 1 = true → s.flash.chosen = none → s.flash.ptr.next = some (b, k) → 3 ≤ s.flash.ptr.tries → u =
    (s.fallBack.updRaise Cond.UPD_TRIAL_FALLBACK).modFlash (fun f => { f with slot := f.ptr.curSlot, trial := false }) → exec .bundleCheck s = .next
    (if u.imagePasses (u.bank u.flash.ptr.curBank) = true then u.runImage u.flash.ptr.curBank else (u.bootRaise Cond.BOOT_BUNDLE_FAIL).setMode
    .service).updShow) ∧
  (∀ (settingsOk : Bool) (s u : State), s.flash.chosen.isSome = true → s.get F.SEC_BOOT_STAT_STAGE = 1 → s.inReset = false → s.health.bootHalted = false
    → s.mode = .boot ∨ s.mode = .service → (s.sec.udsClosed || s.mayDraw) = true → u = s.setAll [(F.SEC_BOOT_STAT_STAGE, 2),
    (F.SEC_BOOT_BEATS_FIRMWARE, s.beat32)] → exec (.firmwareStart true settingsOk) s = .next (((u.modFlash (fun f =>
    { f with bootCount := s.flash.bootCount + 1 })).set F.SEC_BOOT_COUNT_COUNT ((s.flash.bootCount + 1) % 2 ^ 32)).firmwareUp settingsOk) ∧ exec
    (.firmwareStart false settingsOk) s = .next
    { u.bootRaise Cond.BOOT_COUNT_WRITE_FAIL with health := { (u.bootRaise Cond.BOOT_COUNT_WRITE_FAIL).health with bootHalted := true } }) ∧
  (∀ (stack ok beats : Nat) (s u : State), stack < 4 → s.inReset = false → 2 ≤ s.get F.SEC_BOOT_STAT_STAGE → s.domUp (slotDomain (Slot.HBM + 4 * stack))
    = true → u = (List.range 4).foldl (fun (t : State) p => t.setAll [(F.HBM_STAT_PC_OK stack p, bitsOf ok (8 * p) 8), (F.HBM_STAT_STATE stack p, if
    bitsOf ok (8 * p) 8 = 255 then 2 else 3), (F.HBM_STAT_TRAIN_BEATS stack p, beats)]) s → exec (.hbmTrain stack ok beats) s = .next (if ok % 2 ^ 32 =
    2 ^ 32 - 1 then u else u.raise (Slot.HBM + 4 * stack) Cond.HBM_TRAIN_FAIL ok)) ∧
  (∀ (b k : Nat) (s : State), s.flash.trial = true → s.flash.migrated = false → 2 ≤ s.get F.SEC_BOOT_STAT_STAGE → s.health.bootHalted = false →
    s.flash.ptr.next = some (b, k) → (AL.getD s.flash.ptr.curSlot {} s.flash.slots).ok = true → AL.has s.flash.slot s.flash.slots = false → exec
    (.settingsMigrate true true true) s = .next (((s.modFlash (fun f =>
    { f with slots := AL.put f.slot { (AL.getD s.flash.ptr.curSlot {} s.flash.slots) with format := (s.bank b).format, seq := (AL.getD s.flash.ptr.curSlot {} s.flash.slots).seq + 1, changes := 0, sourceSeq := (AL.getD s.flash.ptr.curSlot {} s.flash.slots).seq } f.slots })).modFlash
    (fun f => { f with migrated := true })).loadSettings).updShow) ∧
  (∀ (readable converts writes : Bool) (b k : Nat) (x : Settings) (s : State), s.flash.trial = true → s.flash.migrated = false → 2 ≤ s.get
    F.SEC_BOOT_STAT_STAGE → s.health.bootHalted = false → s.flash.ptr.next = some (b, k) → AL.get s.flash.slot s.flash.slots = some x → x.ok = true →
    x.sourceSeq = (AL.getD s.flash.ptr.curSlot {} s.flash.slots).seq → x.format = (s.bank b).format → exec (.settingsMigrate readable converts writes)
    s = .next ((s.modFlash (fun f => { f with migrated := true })).loadSettings).updShow) ∧
  (∀ (readable converts writes : Bool) (s : State), s.flash.trial = true → s.flash.migrated = false → 2 ≤ s.get F.SEC_BOOT_STAT_STAGE →
    s.health.bootHalted = false → AL.has s.flash.slot s.flash.slots = false → (readable && converts && writes) = false → exec (.settingsMigrate
    readable converts writes) s = .next ((s.updRaise Cond.SETTINGS_MIGRATION_FAILED).fallBack.selfReset 6))

/-- Each request of the update service, on its turn, does its work and ends (rests on R571, R620, R622, R623, R625, R627, R630, R633,
spec/16_firmware_update.md). -/
def Obligations.UpdateRequestsRun : Prop :=
  (∀ (c a b : Nat) (s u : State), s.UpdTurn 1 c a → c ≠ 129 → s.flash.source = 0 ∨ s.flash.source = 1 → s.staging = some b → s.flash.trial = false →
    inHbm (s.updArg c a 1) 65536 = true → u = s.kslDrop 0 → exec .updBegin s = .next
    (let x := leOf (s.bytesAt (s.updArg c a 1) 65536) ; if bundleOk x = true then (match u.contentKey x with | none => u.updEnd Cond.UPD_ENVELOPE_ABSENT | some k => (((u.modFlash (fun f => { f with source := 1, kslBlocks := none })).modBank b (fun _ => { state := 1, id := blkNat x 8 8, blocks := blkNat x 16 4, ckey := k })).putBlock b 0 x).updEnd 0) else u.updEnd Cond.UPD_BUNDLE_INVALID)) ∧
  (∀ (c a b : Nat) (s : State), s.UpdTurn 2 c a → c ≠ 129 → s.staging = some b → (s.bank b).state = 1 → s.flash.source = 1 → 0 < s.updArg c a 2 →
    s.updArg c a 2 ≤ 64 → inHbm (s.updArg c a 3) (65536 * s.updArg c a 2) = true → exec .updBlocks s = .next ((if ((s.progBlocks b (s.updArg c a 3)
    (s.updArg c a 1) (s.updArg c a 2)).2.bank b).state = 2 then (s.progBlocks b (s.updArg c a 3) (s.updArg c a 1) (s.updArg c a 2)).2.modFlash (fun f
    => { f with frames := [] }) else (s.progBlocks b (s.updArg c a 3) (s.updArg c a 1) (s.updArg c a 2)).2).updEnd (s.progBlocks b (s.updArg c a 3)
    (s.updArg c a 1) (s.updArg c a 2)).1)) ∧
  (∀ (a b : Nat) (s : State), s.UpdTurn 2 129 a → s.staging = some b → (s.bank b).state = 1 → s.flash.source = 2 → 0 < s.updArg 129 a 2 → s.updArg 129 a
    2 ≤ 64 → exec .updBlocks s = .next ((s.modFlash (fun f => { f with kslBlocks := some (s.updArg 129 a 1, s.updArg 129 a 2, a) })).updEnd 0)) ∧
  (∀ (loader c a b : Nat) (s : State), s.UpdTurn 3 c a → s.staging = some b → (s.bank b).state = 2 → s.flash.source = (if c = 129 then 2 else 1) → exec
    (.updVerify loader) s = .next (if s.bundleCheck (s.bank b) loader = 0 then ((s.modFlash (fun f => { f with source := 0 })).modBank b (fun x =>
    { x with state := 3, svnD := x.plain (sectionOf (AL.getD 0 0 (s.bank b).data) 1).1 12, svnI := x.plain (sectionOf (AL.getD 0 0 (s.bank b).data) 2).1 12, format := bytesNat (x.plains (sectionOf (AL.getD 0 0 (s.bank b).data) 1).1 14 2) 0 2 })).updEnd
    0 else (((s.modFlash (fun f => { f with source := 0 })).modBank b (fun x => { x with state := 4 })).satInc F.UPD_CNT_FAILS 1).updEnd (s.bundleCheck
    (s.bank b) loader))) ∧
  (∀ (c a b : Nat) (s : State), s.UpdTurn 4 c a → s.flash.trial = false → s.staging = some b → (s.bank b).state = 3 → exec .updSchedule s = .next
    ((s.modFlash (fun f =>
    { f with sched := some (s.updArg c a 1 % 2 ^ 48, s.updArg c a 2 % 2 ^ 16, false), schedSolo := decide (s.updArg c a 3 % 2 = 1), schedAuto := decide (s.updArg c a 4 % 2 = 1) })).updEnd
    0)) ∧
  (∀ (c a b : Nat) (s : State), s.UpdTurn 5 c a → s.flash.ptr.next = none → s.staging = some b → exec .updCancel s = .next ((if s.flash.sched.isSome =
    true then s.modFlash (fun f => { f with sched := none, activating := false }) else (s.modBank b (fun _ => {})).modFlash (fun f =>
    { f with source := 0, kslBlocks := none, frames := [] })).updEnd 0)) ∧
  (∀ (c a : Nat) (s : State), s.UpdTurn 6 c a → s.mayConfirm = true → exec .updConfirm s = .next (s.confirm.updEnd 0)) ∧
  (∀ (c a : Nat) (s : State), s.UpdTurn 7 c a → exec .updStatus s = .next (if c = 129 then s.updShow.updEnd 0 s.updShow.updStatus else if inHbm
    (s.updShow.updArg c a 1) 40 = true then (s.updShow.putBytes (s.updShow.updArg c a 1) (s.updShow.updStatus.flatMap (leNat 8))).updEnd 0 else
    s.updShow.updEnd Cond.UPD_REQ_INVALID)) ∧
  (∀ (c a : Nat) (s : State), s.UpdTurn 8 c a → itemOk (s.updArg c a 1) (s.updArg c a 2) = true → c = 129 ∨ inHbm (s.updArg c a 3) (s.updArg c a 2) =
    true → s.flash.trial = false ∨ s.flash.migrated = true → exec .updSettings s = .next ((s.putItem (s.updArg c a 1) (itemValue (s.updArg c a 1) (if c
    = 129 then s.updBytes c a 24 (s.updArg c a 2) else s.bytesAt (s.updArg c a 3) (s.updArg c a 2))) (s.updArg c a 2)).updEnd 0)) ∧
  (∀ (a op : Nat) (s : State), s.UpdTurn 9 129 a → op = s.updArg 129 a 1 → (op = 3 ∧ s.sec.fuses.rootI = none) ∨ op = 4 ∨ (op = 5 ∧
    s.sec.fuses.rootI.isSome = true ∧ s.sec.fuses.debugDisable = false) → exec .updFuse s = .next ((s.modSec (fun x =>
    { x with fuseGrant := some (op, ofBytes (s.updBytes 129 a 16 48)) })).updEnd 0)) ∧
  (∀ (c a src : Nat) (s : State), s.UpdTurn 1 c a → src = (if c = 129 then 2 else 1) → (s.flash.source ≠ 0 → s.flash.source ≠ src → exec .updBegin s =
    .next (s.updEnd Cond.UPD_BUSY)) ∧ (s.flash.source = 0 ∨ s.flash.source = src → s.staging = none ∨ s.flash.trial = true → exec .updBegin s = .next
    (s.updEnd Cond.UPD_STATE_INVALID)) ∧ (s.flash.source = 0 ∨ s.flash.source = src → s.staging.isSome = true → s.flash.trial = false → src = 1 → inHbm
    (s.updArg c a 1) 65536 = false → exec .updBegin s = .next (s.updEnd Cond.UPD_REQ_INVALID))) ∧
  (∀ (a b : Nat) (s u : State), s.UpdTurn 1 129 a → s.flash.source = 0 ∨ s.flash.source = 2 → s.staging = some b → s.flash.trial = false → u = s.kslDrop
    0 → exec .updBegin s = .next
    (match s.updBlock 2 (s.updArg 129 a 1) 0 0 with | none => s | some x => if bundleOk x = true then (match u.contentKey x with | none => u.updEnd Cond.UPD_ENVELOPE_ABSENT | some k => (((u.modFlash (fun f => { f with source := 2, kslBlocks := none })).modBank b (fun _ => { state := 1, id := blkNat x 8 8, blocks := blkNat x 16 4, ckey := k })).putBlock b 0 x).updEnd 0) else u.updEnd Cond.UPD_BUNDLE_INVALID)) ∧
  (∀ (c a src : Nat) (s : State), s.UpdTurn 2 c a → src = (if c = 129 then 2 else 1) → (s.staging = none ∨ (∀ b, s.staging = some b → (s.bank b).state ≠
    1) ∨ s.flash.source ≠ src → exec .updBlocks s = .next (s.updEnd Cond.UPD_STATE_INVALID)) ∧ (∀ b, s.staging = some b → (s.bank b).state = 1 →
    s.flash.source = src → s.updArg c a 2 = 0 ∨ 64 < s.updArg c a 2 ∨ (src = 1 ∧ inHbm (s.updArg c a 3) (65536 * s.updArg c a 2) = false) → exec
    .updBlocks s = .next (s.updEnd Cond.UPD_REQ_INVALID))) ∧
  (∀ (c a src loader : Nat) (s : State), s.UpdTurn 3 c a → src = (if c = 129 then 2 else 1) → (∀ b, s.staging = some b → (s.bank b).state ≠ 2 ∨
    s.flash.source ≠ src) → exec (.updVerify loader) s = .next (s.updEnd Cond.UPD_STATE_INVALID)) ∧
  (∀ (c a : Nat) (s : State), s.UpdTurn 4 c a → s.flash.trial = true ∨ (∀ b, s.staging = some b → (s.bank b).state ≠ 3) → exec .updSchedule s = .next
    (s.updEnd Cond.UPD_STATE_INVALID)) ∧
  (∀ (c a : Nat) (s : State), s.UpdTurn 5 c a → s.flash.ptr.next ≠ none ∨ s.staging = none → exec .updCancel s = .next (s.updEnd Cond.UPD_STATE_INVALID)) ∧
  (∀ (c a : Nat) (s : State), s.UpdTurn 6 c a → s.mayConfirm = false → exec .updConfirm s = .next (s.updEnd Cond.UPD_CONFIRM_REFUSED)) ∧
  (∀ (c a : Nat) (s : State), s.UpdTurn 8 c a → (itemOk (s.updArg c a 1) (s.updArg c a 2) = false ∨ (c ≠ 129 ∧ inHbm (s.updArg c a 3) (s.updArg c a 2) =
    false) → exec .updSettings s = .next (s.updEnd Cond.SETTINGS_ITEM_INVALID)) ∧ (itemOk (s.updArg c a 1) (s.updArg c a 2) = true → (c = 129 ∨ inHbm
    (s.updArg c a 3) (s.updArg c a 2) = true) → s.flash.trial = true → s.flash.migrated = false → exec .updSettings s = .next (s.updEnd
    Cond.UPD_BUSY))) ∧
  (∀ (c a op : Nat) (s : State), s.UpdTurn 9 c a → op = s.updArg c a 1 → c ≠ 129 ∨ (op = 3 ∧ s.sec.fuses.rootI ≠ none) ∨ (op = 5 ∧ (s.sec.fuses.rootI =
    none ∨ s.sec.fuses.debugDisable = true)) ∨ op < 3 ∨ 5 < op → exec .updFuse s = .next (s.updEnd Cond.FUSE_PROG_REFUSED))

/-- A schedule within its window activates, is deferred or expires, and a trial that is not confirmed ends (rests on R626, R627, R628, R631,
spec/16_firmware_update.md). -/
def Obligations.ActivationAndTrialMove : Prop :=
  (∀ (n t w : Nat) (said : Bool) (s : State), s.schedAge = some n → s.flash.sched = some (t, w, said) → n < 1024 * w → s.flash.activating = false →
    s.mayActivate = true → s.mode = .paired → s.pair.hand = .none → s.get F.LSE_MODE_REQ_STAT_BUSY = 0 → exec .updActivateCheck s = .next ((s.modFlash
    (fun f => { f with activating := true })).handOver 1)) ∧
  (∀ (n t w : Nat) (said : Bool) (s : State), s.schedAge = some n → s.flash.sched = some (t, w, said) → n < 1024 * w → s.flash.activating = false →
    s.mayActivate = true → s.mode = .solo → s.pair.hand = .none → s.modeRefusal 2 = 0 → exec .updActivateCheck s = .next (s.modeReq 2).activate) ∧
  (∀ (n t w c : Nat) (said : Bool) (s : State), s.schedAge = some n → s.flash.sched = some (t, w, said) → n < 1024 * w → s.flash.activating = false →
    s.mayActivate = true → c = (if s.pair.hand ≠ .none then Cond.MODE_REQ_BUSY else s.modeRefusal (if s.mode = .paired then 1 else 2)) → c ≠ 0 → exec
    .updActivateCheck s = .next ((s.updRaise c).modFlash (fun f => { f with sched := none })).updShow) ∧
  (∀ (n t w : Nat) (s : State), s.schedAge = some n → s.flash.sched = some (t, w, true) → n < 1024 * w → s.mayActivate = false → exec .updActivateCheck s
    = .next s) ∧
  (∀ (n t w : Nat) (s : State), s.schedAge = some n → s.flash.sched = some (t, w, false) → n < 1024 * w → s.flash.activating = false → s.mayActivate =
    false → exec .updActivateCheck s = .next ((s.updRaise Cond.UPD_ACTIVATE_DEFERRED).modFlash (fun f => { f with sched := some (t, w, true) }))) ∧
  (∀ (n t w : Nat) (said : Bool) (s : State), s.schedAge = some n → s.flash.sched = some (t, w, said) → 1024 * w ≤ n → s.flash.activating = false → exec
    .updActivateExpired s = .next ((s.updRaise Cond.UPD_ACTIVATE_EXPIRED).modFlash (fun f => { f with sched := none })).updShow) ∧
  (∀ (s : State), s.flash.trial = true → s.flash.deadline ≤ s.beat → s.pair.after ≠ 2 → exec .updTrialTimeout s = .next (if (s.updRaise
    Cond.UPD_TRIAL_TIMEOUT).mode = .paired then (s.updRaise Cond.UPD_TRIAL_TIMEOUT).handOver 2 else (s.updRaise Cond.UPD_TRIAL_TIMEOUT).selfReset 4))

/-- A frame of the service link whose trailer verifies has its type's effect and else counts as bad; an idle session closes (rests on R574, R636,
R637, spec/16_firmware_update.md). -/
def Obligations.ServiceLinkFramesAct : Prop :=
  (∀ (frame : List Nat) (len session : Nat) (s u : State), s.KslFrame frame 1 len session → u = s.kslHeard.kslSound session → u.mayDraw = true → exec
    (.kslChallengeReq frame) s = .next (if s.kslHeard.kslTrailerOk (frame.take (16 + len)) (frame.drop (16 + len)) session = true then
    ((u.draw256.2.kslClose 1).modFlash (fun f => { f with nonce := some u.draw256.1, resps := [], kslQ := f.kslQ, frames := [] })).kslSend 2 [bytesNat
    frame 4 4, u.draw256.1, Config.chip.toNat, ((u.draw256.2.kslClose 1).modFlash (fun f =>
    { f with nonce := some u.draw256.1, resps := [], kslQ := f.kslQ, frames := [] })).flash.bootCount] else s.kslHeard.bump F.SVC_CNT_BAD_COUNT)) ∧
  (∀ (frame : List Nat) (len session : Nat) (s u : State), s.KslFrame frame 1 len session → u = s.kslHeard.kslSound session → u.mayDraw = false → exec
    (.kslChallengeReq frame) s = .next (if s.kslHeard.kslTrailerOk (frame.take (16 + len)) (frame.drop (16 + len)) session = true then u.modFlash (fun
    f => { f with chalSeq := some (bytesNat frame 4 4) }) else s.kslHeard.bump F.SVC_CNT_BAD_COUNT)) ∧
  (∀ (frame p nonce roots msg : List Nat) (session v key root r : Nat) (s u w : State), s.KslFrame frame 3 9078 session → u = s.kslHeard.kslSound session
    → p = (frame.take 9094).drop 16 → AL.get (bytesNat frame 4 4) u.flash.resps = none → u.flash.nonce = some v → nonce = leNat 32 v → roots = (p.drop
    1666).take 2689 → msg = nonce ++ leNat 8 Config.chip.toNat ++ p.take 4355 → root = u.sec.fuses.rootI.getD Config.rootD.toNat → key = (Config.hmac
    (ofBytes nonce) 2 (kslLabel ++ sharedZ (p.take 97) ((p.drop 97).take 1568))).toNat % 2 ^ 384 / 2 ^ 128 → u.free 32 = (r, w) → exec (.kslAuth frame)
    s = .next (if s.kslHeard.kslTrailerOk (frame.take 9094) (frame.drop 9094) session = true then (if (Config.sha384 roots).toNat = root ∧
    Config.sigValid 0 (roots.take 97) msg ((p.drop 4355).take 96) = true ∧ Config.sigValid 1 (roots.drop 97) msg ((p.drop 4451).take 4627) = true ∧
    u.sec.devKeys = true then ((((w.modFlash (fun f =>
    { f with nonce := none, session := some ⟨r % (2 ^ 32 - 1) + 1, p.getD 1665 0 % 8, key, w.beat⟩ })).setAll [(F.SVC_STAT_SESSION, 2),
    (F.SVC_SESSION_ID, r % (2 ^ 32 - 1) + 1), (F.SVC_SESSION_SCOPE, p.getD 1665 0 % 8)]).irq Slot.SVC 1).kslResp (bytesNat frame 4 4) [0, r % (2 ^ 32 -
    1) + 1]) else ((u.kslRaise Cond.KSL_AUTH_FAIL).bump F.SVC_CNT_AUTH_COUNT).kslResp (bytesNat frame 4 4) [Cond.KSL_AUTH_FAIL]) else s.kslHeard.bump
    F.SVC_CNT_BAD_COUNT)) ∧
  (∀ (frame p : List Nat) (len session : Nat) (s u : State), s.KslFrame frame 4 len session → u = s.kslHeard.kslSound session → p = (frame.take (16 +
    len)).drop 16 → AL.get (bytesNat frame 4 4) u.flash.resps = none → AL.has (bytesNat frame 4 4) u.flash.kslQ = false → (p.getD 7 0 = 7 ∧ u.get
    F.SVC_CFG_READ_OPEN = 1) ∨ (session ≠ 0 ∧ bitOf (((u.flash.session).map (·.scope)).getD 0) (kslScope (p.getD 7 0)) = true) → exec (.kslReq frame) s
    = .next (if s.kslHeard.kslTrailerOk (frame.take (16 + len)) (frame.drop (16 + len)) session = true then (u.modFlash (fun f =>
    { f with kslQ := AL.put (bytesNat frame 4 4) (p.getD 7 0, p) f.kslQ })).modMbx (fun x => { x with updQ := x.updQ ++ [(129, bytesNat frame 4 4)] })
    else s.kslHeard.bump F.SVC_CNT_BAD_COUNT)) ∧
  (∀ (frame p : List Nat) (session : Nat) (s u : State), s.KslFrame frame 6 1030 session → u = s.kslHeard.kslSound session → p = (frame.take 1046).drop
    16 → session ≠ 0 → AL.get (bytesNat frame 4 4) u.flash.resps = none → bitOf (((u.flash.session).map (·.scope)).getD 0) 0 = true → bytesNat p 4 2 <
    64 → (((u.flash.frames.map (·.1)).eraseDups).contains (bytesNat p 0 4) = true ∨ ((u.flash.frames.map (·.1)).eraseDups).length < 8) → exec (.kslData
    frame) s = .next (if s.kslHeard.kslTrailerOk (frame.take 1046) (frame.drop 1046) session = true then (u.modFlash (fun f =>
    { f with frames := (f.frames.filter (fun q => !(q.1 == bytesNat p 0 4 && q.2.1 == bytesNat p 4 2))) ++ [(bytesNat p 0 4, bytesNat p 4 2, leOf (p.drop 6))] })).kslTake
    (bytesNat frame 4 4) 8 else s.kslHeard.bump F.SVC_CNT_BAD_COUNT)) ∧
  (∀ (frame : List Nat) (done keysOk sigsOk blocksOk : Bool) (len session svn digest : Nat) (s u : State), s.KslFrame frame 9 len session → u =
    s.kslHeard.kslSound session → AL.get (bytesNat frame 4 4) u.flash.resps = none → exec (.kslLoader frame done keysOk sigsOk svn blocksOk digest) s =
    .next (if s.kslHeard.kslTrailerOk (frame.take (16 + len)) (frame.drop (16 + len)) session = true then (if u.chainAt 0 = true ∧
    u.sec.copiesBad.contains 1 = true ∧ done = true then (u.loaderJudge 2 keysOk sigsOk svn blocksOk digest).kslResp (bytesNat frame 4 4) [if
    (u.loaderJudge 2 keysOk sigsOk svn blocksOk digest).get F.SEC_BOOT_STAT_STAGE = 1 then 0 else (u.loaderJudge 2 keysOk sigsOk svn blocksOk
    digest).get F.SEC_BOOT_STAT_CONDITION] else u.kslResp (bytesNat frame 4 4) [0]) else s.kslHeard.bump F.SVC_CNT_BAD_COUNT)) ∧
  (∀ (frame : List Nat) (a len session : Nat) (s u v : State), s.KslFrame frame 7 len session → u = s.kslHeard.kslSound session → AL.get (bytesNat frame
    4 4) u.flash.resps = none → session ≠ 0 ∨ u.get F.SVC_CFG_READ_OPEN = 1 → a = bytesNat ((frame.take (16 + len)).drop 16) 0 8 → inWindow a = true →
    v = (u.winRead 60 a 8).bump F.SVC_CNT_READ_COUNT → exec (.kslRead frame) s = .next (if s.kslHeard.kslTrailerOk (frame.take (16 + len)) (frame.drop
    (16 + len)) session = true then v.kslReply 8 (bytesNat frame 4 4) [v.busData.toNat] else s.kslHeard.bump F.SVC_CNT_BAD_COUNT)) ∧
  (∀ (frame : List Nat) (done keysOk sigsOk blocksOk : Bool) (svn digest : Nat) (s : State), s.svcUp = true → ¬ (frame.getD 0 0 = 0x4B ∧ frame.getD 1 0 =
    0x53 ∧ frame.getD 2 0 = 1 ∧ kslLenOk (frame.getD 3 0) (bytesNat frame 8 2) = true ∧ 16 + bytesNat frame 8 2 ≤ frame.length) → (frame.getD 3 0 = 1 →
    exec (.kslChallengeReq frame) s = .next (s.kslHeard.bump F.SVC_CNT_BAD_COUNT)) ∧ (frame.getD 3 0 = 3 → exec (.kslAuth frame) s = .next
    (s.kslHeard.bump F.SVC_CNT_BAD_COUNT)) ∧ (frame.getD 3 0 = 4 → exec (.kslReq frame) s = .next (s.kslHeard.bump F.SVC_CNT_BAD_COUNT)) ∧ (frame.getD
    3 0 = 6 → exec (.kslData frame) s = .next (s.kslHeard.bump F.SVC_CNT_BAD_COUNT)) ∧ (frame.getD 3 0 = 7 → exec (.kslRead frame) s = .next
    (s.kslHeard.bump F.SVC_CNT_BAD_COUNT)) ∧ (frame.getD 3 0 = 9 → exec (.kslLoader frame done keysOk sigsOk svn blocksOk digest) s = .next
    (s.kslHeard.bump F.SVC_CNT_BAD_COUNT))) ∧
  (∀ (frame l : List Nat) (done keysOk sigsOk blocksOk : Bool) (typ len session svn digest : Nat) (s u : State), s.KslFrame frame typ len session → u =
    s.kslHeard.kslSound session → s.kslHeard.kslTrailerOk (frame.take (16 + len)) (frame.drop (16 + len)) session = true → AL.get (bytesNat frame 4 4)
    u.flash.resps = some l → (typ = 3 → exec (.kslAuth frame) s = .next (u.kslSend (l.headD 5) (bytesNat frame 4 4 :: l.tail))) ∧ (typ = 4 → exec
    (.kslReq frame) s = .next (u.kslSend (l.headD 5) (bytesNat frame 4 4 :: l.tail))) ∧ (typ = 6 → exec (.kslData frame) s = .next (u.kslSend (l.headD
    5) (bytesNat frame 4 4 :: l.tail))) ∧ (typ = 7 → exec (.kslRead frame) s = .next (u.kslSend (l.headD 5) (bytesNat frame 4 4 :: l.tail))) ∧ (typ = 9
    → exec (.kslLoader frame done keysOk sigsOk svn blocksOk digest) s = .next (u.kslSend (l.headD 5) (bytesNat frame 4 4 :: l.tail)))) ∧
  (∀ (frame : List Nat) (len session : Nat) (s u : State), s.KslFrame frame 3 len session → u = s.kslHeard.kslSound session → AL.get (bytesNat frame 4 4)
    u.flash.resps = none → u.flash.nonce = none → exec (.kslAuth frame) s = .next (if s.kslHeard.kslTrailerOk (frame.take (16 + len)) (frame.drop (16 +
    len)) session = true then ((u.kslRaise Cond.KSL_AUTH_FAIL).bump F.SVC_CNT_AUTH_COUNT).kslResp (bytesNat frame 4 4) [Cond.KSL_AUTH_FAIL] else
    s.kslHeard.bump F.SVC_CNT_BAD_COUNT)) ∧
  (∀ (frame p : List Nat) (len session : Nat) (s u : State), s.KslFrame frame 4 len session → u = s.kslHeard.kslSound session → p = (frame.take (16 +
    len)).drop 16 → s.kslHeard.kslTrailerOk (frame.take (16 + len)) (frame.drop (16 + len)) session = true → AL.get (bytesNat frame 4 4) u.flash.resps
    = none → ((p.getD 7 0 ≠ 7 ∨ u.get F.SVC_CFG_READ_OPEN ≠ 1) → (session = 0 ∨ bitOf (((u.flash.session).map (·.scope)).getD 0) (kslScope (p.getD 7
    0)) = false) → exec (.kslReq frame) s = .next ((u.kslRaise Cond.KSL_SESSION_ABSENT).kslResp (bytesNat frame 4 4) [Cond.KSL_SESSION_ABSENT])) ∧
    (((p.getD 7 0 = 7 ∧ u.get F.SVC_CFG_READ_OPEN = 1) ∨ (session ≠ 0 ∧ bitOf (((u.flash.session).map (·.scope)).getD 0) (kslScope (p.getD 7 0)) =
    true)) → AL.has (bytesNat frame 4 4) u.flash.kslQ = true → exec (.kslReq frame) s = .next u)) ∧
  (∀ (frame p : List Nat) (session : Nat) (s u : State), s.KslFrame frame 6 1030 session → u = s.kslHeard.kslSound session → p = (frame.take 1046).drop
    16 → AL.get (bytesNat frame 4 4) u.flash.resps = none → session = 0 ∨ bitOf (((u.flash.session).map (·.scope)).getD 0) 0 = false ∨ 64 ≤ bytesNat p
    4 2 ∨ (((u.flash.frames.map (·.1)).eraseDups).contains (bytesNat p 0 4) = false ∧ 8 ≤ ((u.flash.frames.map (·.1)).eraseDups).length) → exec
    (.kslData frame) s = .next (if s.kslHeard.kslTrailerOk (frame.take 1046) (frame.drop 1046) session = true then u else s.kslHeard.bump
    F.SVC_CNT_BAD_COUNT)) ∧
  (∀ (frame : List Nat) (a len session : Nat) (s u v : State), s.KslFrame frame 7 len session → u = s.kslHeard.kslSound session → s.kslHeard.kslTrailerOk
    (frame.take (16 + len)) (frame.drop (16 + len)) session = true → AL.get (bytesNat frame 4 4) u.flash.resps = none → a = bytesNat ((frame.take (16 +
    len)).drop 16) 0 8 → v = (((if noRegion a then u.unmapped else u).answer 0).bump F.SVC_CNT_READ_COUNT) → (session = 0 → u.get F.SVC_CFG_READ_OPEN ≠
    1 → exec (.kslRead frame) s = .next ((u.kslRaise Cond.KSL_SESSION_ABSENT).kslResp (bytesNat frame 4 4) [Cond.KSL_SESSION_ABSENT])) ∧ (session ≠ 0 ∨
    u.get F.SVC_CFG_READ_OPEN = 1 → inWindow a = false → exec (.kslRead frame) s = .next (v.kslReply 8 (bytesNat frame 4 4) [v.busData.toNat]))) ∧
  (∀ (x : KslSession) (s : State), s.flash.session = some x → x.lastBeat + 2 ^ 24 ≤ s.beat → exec .kslSessionTimeout s = .next (s.kslClose 0))
end

