-- ==== Sys2Proof/Laws/State.lean ====
section
/-! SUPPORT. What each named update of the state leaves of each field: true by unfolding, so that no proof unfolds a record
update. -/

namespace Sys2Proof.Machine

variable (s : State)

/-! ### `State.set` -/

@[simp] theorem State.set_fields (f : Fld) (v : Nat) : (s.set f v).fields = AL.put f.key (v % 2 ^ f.w) s.fields := (rfl)
@[simp] theorem State.set_shadows (f : Fld) (v : Nat) : (s.set f v).shadows = s.shadows := (rfl)
@[simp] theorem State.set_pages (f : Fld) (v : Nat) : (s.set f v).pages = s.pages := (rfl)
@[simp] theorem State.set_units (f : Fld) (v : Nat) : (s.set f v).units = s.units := (rfl)
@[simp] theorem State.set_mem (f : Fld) (v : Nat) : (s.set f v).mem = s.mem := (rfl)
@[simp] theorem State.set_time (f : Fld) (v : Nat) : (s.set f v).time = s.time := (rfl)
@[simp] theorem State.set_irt (f : Fld) (v : Nat) : (s.set f v).irt = s.irt := (rfl)
@[simp] theorem State.set_adm (f : Fld) (v : Nat) : (s.set f v).adm = s.adm := (rfl)
@[simp] theorem State.set_read (f : Fld) (v : Nat) : (s.set f v).read = s.read := (rfl)
@[simp] theorem State.set_write (f : Fld) (v : Nat) : (s.set f v).write = s.write := (rfl)
@[simp] theorem State.set_vat (f : Fld) (v : Nat) : (s.set f v).vat = s.vat := (rfl)
@[simp] theorem State.set_ftl (f : Fld) (v : Nat) : (s.set f v).ftl = s.ftl := (rfl)
@[simp] theorem State.set_media (f : Fld) (v : Nat) : (s.set f v).media = s.media := (rfl)
@[simp] theorem State.set_pair (f : Fld) (v : Nat) : (s.set f v).pair = s.pair := (rfl)
@[simp] theorem State.set_health (f : Fld) (v : Nat) : (s.set f v).health = s.health := (rfl)
@[simp] theorem State.set_slices (f : Fld) (v : Nat) : (s.set f v).slices = s.slices := (rfl)
@[simp] theorem State.set_mbx (f : Fld) (v : Nat) : (s.set f v).mbx = s.mbx := (rfl)
@[simp] theorem State.set_host (f : Fld) (v : Nat) : (s.set f v).host = s.host := (rfl)
@[simp] theorem State.set_ldt (f : Fld) (v : Nat) : (s.set f v).ldt = s.ldt := (rfl)
@[simp] theorem State.set_fab (f : Fld) (v : Nat) : (s.set f v).fab = s.fab := (rfl)
@[simp] theorem State.set_flash (f : Fld) (v : Nat) : (s.set f v).flash = s.flash := (rfl)
@[simp] theorem State.set_sec (f : Fld) (v : Nat) : (s.set f v).sec = s.sec := (rfl)
@[simp] theorem State.set_pins (f : Fld) (v : Nat) : (s.set f v).pins = s.pins := (rfl)
@[simp] theorem State.set_pwr (f : Fld) (v : Nat) : (s.set f v).pwr = s.pwr := (rfl)
@[simp] theorem State.set_busData (f : Fld) (v : Nat) : (s.set f v).busData = s.busData := (rfl)
@[simp] theorem State.set_sent (f : Fld) (v : Nat) : (s.set f v).sent = s.sent := (rfl)
@[simp] theorem State.set_freshCount (f : Fld) (v : Nat) : (s.set f v).freshCount = s.freshCount := (rfl)
@[simp] theorem State.set_pending (f : Fld) (v : Nat) : (s.set f v).pending = s.pending := (rfl)

/-! ### `State.modHdr` -/

@[simp] theorem State.modHdr_fields (p : Nat) (f : PageHdr → PageHdr) : (s.modHdr p f).fields = s.fields := (rfl)
@[simp] theorem State.modHdr_shadows (p : Nat) (f : PageHdr → PageHdr) : (s.modHdr p f).shadows = s.shadows := (rfl)
@[simp] theorem State.modHdr_pages (p : Nat) (f : PageHdr → PageHdr) : (s.modHdr p f).pages = AL.upd p {} f s.pages := (rfl)
@[simp] theorem State.modHdr_units (p : Nat) (f : PageHdr → PageHdr) : (s.modHdr p f).units = s.units := (rfl)
@[simp] theorem State.modHdr_mem (p : Nat) (f : PageHdr → PageHdr) : (s.modHdr p f).mem = s.mem := (rfl)
@[simp] theorem State.modHdr_time (p : Nat) (f : PageHdr → PageHdr) : (s.modHdr p f).time = s.time := (rfl)
@[simp] theorem State.modHdr_irt (p : Nat) (f : PageHdr → PageHdr) : (s.modHdr p f).irt = s.irt := (rfl)
@[simp] theorem State.modHdr_adm (p : Nat) (f : PageHdr → PageHdr) : (s.modHdr p f).adm = s.adm := (rfl)
@[simp] theorem State.modHdr_read (p : Nat) (f : PageHdr → PageHdr) : (s.modHdr p f).read = s.read := (rfl)
@[simp] theorem State.modHdr_write (p : Nat) (f : PageHdr → PageHdr) : (s.modHdr p f).write = s.write := (rfl)
@[simp] theorem State.modHdr_vat (p : Nat) (f : PageHdr → PageHdr) : (s.modHdr p f).vat = s.vat := (rfl)
@[simp] theorem State.modHdr_ftl (p : Nat) (f : PageHdr → PageHdr) : (s.modHdr p f).ftl = s.ftl := (rfl)
@[simp] theorem State.modHdr_media (p : Nat) (f : PageHdr → PageHdr) : (s.modHdr p f).media = s.media := (rfl)
@[simp] theorem State.modHdr_pair (p : Nat) (f : PageHdr → PageHdr) : (s.modHdr p f).pair = s.pair := (rfl)
@[simp] theorem State.modHdr_health (p : Nat) (f : PageHdr → PageHdr) : (s.modHdr p f).health = s.health := (rfl)
@[simp] theorem State.modHdr_slices (p : Nat) (f : PageHdr → PageHdr) : (s.modHdr p f).slices = s.slices := (rfl)
@[simp] theorem State.modHdr_mbx (p : Nat) (f : PageHdr → PageHdr) : (s.modHdr p f).mbx = s.mbx := (rfl)
@[simp] theorem State.modHdr_host (p : Nat) (f : PageHdr → PageHdr) : (s.modHdr p f).host = s.host := (rfl)
@[simp] theorem State.modHdr_ldt (p : Nat) (f : PageHdr → PageHdr) : (s.modHdr p f).ldt = s.ldt := (rfl)
@[simp] theorem State.modHdr_fab (p : Nat) (f : PageHdr → PageHdr) : (s.modHdr p f).fab = s.fab := (rfl)
@[simp] theorem State.modHdr_flash (p : Nat) (f : PageHdr → PageHdr) : (s.modHdr p f).flash = s.flash := (rfl)
@[simp] theorem State.modHdr_sec (p : Nat) (f : PageHdr → PageHdr) : (s.modHdr p f).sec = s.sec := (rfl)
@[simp] theorem State.modHdr_pins (p : Nat) (f : PageHdr → PageHdr) : (s.modHdr p f).pins = s.pins := (rfl)
@[simp] theorem State.modHdr_pwr (p : Nat) (f : PageHdr → PageHdr) : (s.modHdr p f).pwr = s.pwr := (rfl)
@[simp] theorem State.modHdr_busData (p : Nat) (f : PageHdr → PageHdr) : (s.modHdr p f).busData = s.busData := (rfl)
@[simp] theorem State.modHdr_sent (p : Nat) (f : PageHdr → PageHdr) : (s.modHdr p f).sent = s.sent := (rfl)
@[simp] theorem State.modHdr_freshCount (p : Nat) (f : PageHdr → PageHdr) : (s.modHdr p f).freshCount = s.freshCount := (rfl)
@[simp] theorem State.modHdr_pending (p : Nat) (f : PageHdr → PageHdr) : (s.modHdr p f).pending = s.pending := (rfl)

/-! ### `State.setUnit` -/

@[simp] theorem State.setUnit_fields (k : Nat) (u : BlockUnit) : (s.setUnit k u).fields = s.fields := (rfl)
@[simp] theorem State.setUnit_shadows (k : Nat) (u : BlockUnit) : (s.setUnit k u).shadows = s.shadows := (rfl)
@[simp] theorem State.setUnit_pages (k : Nat) (u : BlockUnit) : (s.setUnit k u).pages = s.pages := (rfl)
@[simp] theorem State.setUnit_units (k : Nat) (u : BlockUnit) : (s.setUnit k u).units = AL.put k u s.units := (rfl)
@[simp] theorem State.setUnit_mem (k : Nat) (u : BlockUnit) : (s.setUnit k u).mem = s.mem := (rfl)
@[simp] theorem State.setUnit_time (k : Nat) (u : BlockUnit) : (s.setUnit k u).time = s.time := (rfl)
@[simp] theorem State.setUnit_irt (k : Nat) (u : BlockUnit) : (s.setUnit k u).irt = s.irt := (rfl)
@[simp] theorem State.setUnit_adm (k : Nat) (u : BlockUnit) : (s.setUnit k u).adm = s.adm := (rfl)
@[simp] theorem State.setUnit_read (k : Nat) (u : BlockUnit) : (s.setUnit k u).read = s.read := (rfl)
@[simp] theorem State.setUnit_write (k : Nat) (u : BlockUnit) : (s.setUnit k u).write = s.write := (rfl)
@[simp] theorem State.setUnit_vat (k : Nat) (u : BlockUnit) : (s.setUnit k u).vat = s.vat := (rfl)
@[simp] theorem State.setUnit_ftl (k : Nat) (u : BlockUnit) : (s.setUnit k u).ftl = s.ftl := (rfl)
@[simp] theorem State.setUnit_media (k : Nat) (u : BlockUnit) : (s.setUnit k u).media = s.media := (rfl)
@[simp] theorem State.setUnit_pair (k : Nat) (u : BlockUnit) : (s.setUnit k u).pair = s.pair := (rfl)
@[simp] theorem State.setUnit_health (k : Nat) (u : BlockUnit) : (s.setUnit k u).health = s.health := (rfl)
@[simp] theorem State.setUnit_slices (k : Nat) (u : BlockUnit) : (s.setUnit k u).slices = s.slices := (rfl)
@[simp] theorem State.setUnit_mbx (k : Nat) (u : BlockUnit) : (s.setUnit k u).mbx = s.mbx := (rfl)
@[simp] theorem State.setUnit_host (k : Nat) (u : BlockUnit) : (s.setUnit k u).host = s.host := (rfl)
@[simp] theorem State.setUnit_ldt (k : Nat) (u : BlockUnit) : (s.setUnit k u).ldt = s.ldt := (rfl)
@[simp] theorem State.setUnit_fab (k : Nat) (u : BlockUnit) : (s.setUnit k u).fab = s.fab := (rfl)
@[simp] theorem State.setUnit_flash (k : Nat) (u : BlockUnit) : (s.setUnit k u).flash = s.flash := (rfl)
@[simp] theorem State.setUnit_sec (k : Nat) (u : BlockUnit) : (s.setUnit k u).sec = s.sec := (rfl)
@[simp] theorem State.setUnit_pins (k : Nat) (u : BlockUnit) : (s.setUnit k u).pins = s.pins := (rfl)
@[simp] theorem State.setUnit_pwr (k : Nat) (u : BlockUnit) : (s.setUnit k u).pwr = s.pwr := (rfl)
@[simp] theorem State.setUnit_busData (k : Nat) (u : BlockUnit) : (s.setUnit k u).busData = s.busData := (rfl)
@[simp] theorem State.setUnit_sent (k : Nat) (u : BlockUnit) : (s.setUnit k u).sent = s.sent := (rfl)
@[simp] theorem State.setUnit_freshCount (k : Nat) (u : BlockUnit) : (s.setUnit k u).freshCount = s.freshCount := (rfl)
@[simp] theorem State.setUnit_pending (k : Nat) (u : BlockUnit) : (s.setUnit k u).pending = s.pending := (rfl)

/-! ### `State.answer` -/

@[simp] theorem State.answer_fields (v : Nat) : (s.answer v).fields = s.fields := (rfl)
@[simp] theorem State.answer_shadows (v : Nat) : (s.answer v).shadows = s.shadows := (rfl)
@[simp] theorem State.answer_pages (v : Nat) : (s.answer v).pages = s.pages := (rfl)
@[simp] theorem State.answer_units (v : Nat) : (s.answer v).units = s.units := (rfl)
@[simp] theorem State.answer_mem (v : Nat) : (s.answer v).mem = s.mem := (rfl)
@[simp] theorem State.answer_time (v : Nat) : (s.answer v).time = s.time := (rfl)
@[simp] theorem State.answer_irt (v : Nat) : (s.answer v).irt = s.irt := (rfl)
@[simp] theorem State.answer_adm (v : Nat) : (s.answer v).adm = s.adm := (rfl)
@[simp] theorem State.answer_read (v : Nat) : (s.answer v).read = s.read := (rfl)
@[simp] theorem State.answer_write (v : Nat) : (s.answer v).write = s.write := (rfl)
@[simp] theorem State.answer_vat (v : Nat) : (s.answer v).vat = s.vat := (rfl)
@[simp] theorem State.answer_ftl (v : Nat) : (s.answer v).ftl = s.ftl := (rfl)
@[simp] theorem State.answer_media (v : Nat) : (s.answer v).media = s.media := (rfl)
@[simp] theorem State.answer_pair (v : Nat) : (s.answer v).pair = s.pair := (rfl)
@[simp] theorem State.answer_health (v : Nat) : (s.answer v).health = s.health := (rfl)
@[simp] theorem State.answer_slices (v : Nat) : (s.answer v).slices = s.slices := (rfl)
@[simp] theorem State.answer_mbx (v : Nat) : (s.answer v).mbx = s.mbx := (rfl)
@[simp] theorem State.answer_host (v : Nat) : (s.answer v).host = s.host := (rfl)
@[simp] theorem State.answer_ldt (v : Nat) : (s.answer v).ldt = s.ldt := (rfl)
@[simp] theorem State.answer_fab (v : Nat) : (s.answer v).fab = s.fab := (rfl)
@[simp] theorem State.answer_flash (v : Nat) : (s.answer v).flash = s.flash := (rfl)
@[simp] theorem State.answer_sec (v : Nat) : (s.answer v).sec = s.sec := (rfl)
@[simp] theorem State.answer_pins (v : Nat) : (s.answer v).pins = s.pins := (rfl)
@[simp] theorem State.answer_pwr (v : Nat) : (s.answer v).pwr = s.pwr := (rfl)
@[simp] theorem State.answer_busData (v : Nat) : (s.answer v).busData = BitVec.ofNat 64 v := (rfl)
@[simp] theorem State.answer_sent (v : Nat) : (s.answer v).sent = s.sent := (rfl)
@[simp] theorem State.answer_freshCount (v : Nat) : (s.answer v).freshCount = s.freshCount := (rfl)
@[simp] theorem State.answer_pending (v : Nat) : (s.answer v).pending = s.pending := (rfl)

/-! ### `State.wrLE` -/

@[simp] theorem State.wrLE_fields (a n v : Nat) : (s.wrLE a n v).fields = s.fields := (rfl)
@[simp] theorem State.wrLE_shadows (a n v : Nat) : (s.wrLE a n v).shadows = s.shadows := (rfl)
@[simp] theorem State.wrLE_pages (a n v : Nat) : (s.wrLE a n v).pages = s.pages := (rfl)
@[simp] theorem State.wrLE_units (a n v : Nat) : (s.wrLE a n v).units = s.units := (rfl)
@[simp] theorem State.wrLE_mem (a n v : Nat) : (s.wrLE a n v).mem = Mem.wrLE a n v s.mem := (rfl)
@[simp] theorem State.wrLE_time (a n v : Nat) : (s.wrLE a n v).time = s.time := (rfl)
@[simp] theorem State.wrLE_irt (a n v : Nat) : (s.wrLE a n v).irt = s.irt := (rfl)
@[simp] theorem State.wrLE_adm (a n v : Nat) : (s.wrLE a n v).adm = s.adm := (rfl)
@[simp] theorem State.wrLE_read (a n v : Nat) : (s.wrLE a n v).read = s.read := (rfl)
@[simp] theorem State.wrLE_write (a n v : Nat) : (s.wrLE a n v).write = s.write := (rfl)
@[simp] theorem State.wrLE_vat (a n v : Nat) : (s.wrLE a n v).vat = s.vat := (rfl)
@[simp] theorem State.wrLE_ftl (a n v : Nat) : (s.wrLE a n v).ftl = s.ftl := (rfl)
@[simp] theorem State.wrLE_media (a n v : Nat) : (s.wrLE a n v).media = s.media := (rfl)
@[simp] theorem State.wrLE_pair (a n v : Nat) : (s.wrLE a n v).pair = s.pair := (rfl)
@[simp] theorem State.wrLE_health (a n v : Nat) : (s.wrLE a n v).health = s.health := (rfl)
@[simp] theorem State.wrLE_slices (a n v : Nat) : (s.wrLE a n v).slices = s.slices := (rfl)
@[simp] theorem State.wrLE_mbx (a n v : Nat) : (s.wrLE a n v).mbx = s.mbx := (rfl)
@[simp] theorem State.wrLE_host (a n v : Nat) : (s.wrLE a n v).host = s.host := (rfl)
@[simp] theorem State.wrLE_ldt (a n v : Nat) : (s.wrLE a n v).ldt = s.ldt := (rfl)
@[simp] theorem State.wrLE_fab (a n v : Nat) : (s.wrLE a n v).fab = s.fab := (rfl)
@[simp] theorem State.wrLE_flash (a n v : Nat) : (s.wrLE a n v).flash = s.flash := (rfl)
@[simp] theorem State.wrLE_sec (a n v : Nat) : (s.wrLE a n v).sec = s.sec := (rfl)
@[simp] theorem State.wrLE_pins (a n v : Nat) : (s.wrLE a n v).pins = s.pins := (rfl)
@[simp] theorem State.wrLE_pwr (a n v : Nat) : (s.wrLE a n v).pwr = s.pwr := (rfl)
@[simp] theorem State.wrLE_busData (a n v : Nat) : (s.wrLE a n v).busData = s.busData := (rfl)
@[simp] theorem State.wrLE_sent (a n v : Nat) : (s.wrLE a n v).sent = s.sent := (rfl)
@[simp] theorem State.wrLE_freshCount (a n v : Nat) : (s.wrLE a n v).freshCount = s.freshCount := (rfl)
@[simp] theorem State.wrLE_pending (a n v : Nat) : (s.wrLE a n v).pending = s.pending := (rfl)

/-! ### `State.wrBytes` -/

@[simp] theorem State.wrBytes_fields (a : Nat) (l : List Nat) : (s.wrBytes a l).fields = s.fields := (rfl)
@[simp] theorem State.wrBytes_shadows (a : Nat) (l : List Nat) : (s.wrBytes a l).shadows = s.shadows := (rfl)
@[simp] theorem State.wrBytes_pages (a : Nat) (l : List Nat) : (s.wrBytes a l).pages = s.pages := (rfl)
@[simp] theorem State.wrBytes_units (a : Nat) (l : List Nat) : (s.wrBytes a l).units = s.units := (rfl)
@[simp] theorem State.wrBytes_mem (a : Nat) (l : List Nat) : (s.wrBytes a l).mem = Mem.wrs a (l.map (BitVec.ofNat 8)) s.mem := (rfl)
@[simp] theorem State.wrBytes_time (a : Nat) (l : List Nat) : (s.wrBytes a l).time = s.time := (rfl)
@[simp] theorem State.wrBytes_irt (a : Nat) (l : List Nat) : (s.wrBytes a l).irt = s.irt := (rfl)
@[simp] theorem State.wrBytes_adm (a : Nat) (l : List Nat) : (s.wrBytes a l).adm = s.adm := (rfl)
@[simp] theorem State.wrBytes_read (a : Nat) (l : List Nat) : (s.wrBytes a l).read = s.read := (rfl)
@[simp] theorem State.wrBytes_write (a : Nat) (l : List Nat) : (s.wrBytes a l).write = s.write := (rfl)
@[simp] theorem State.wrBytes_vat (a : Nat) (l : List Nat) : (s.wrBytes a l).vat = s.vat := (rfl)
@[simp] theorem State.wrBytes_ftl (a : Nat) (l : List Nat) : (s.wrBytes a l).ftl = s.ftl := (rfl)
@[simp] theorem State.wrBytes_media (a : Nat) (l : List Nat) : (s.wrBytes a l).media = s.media := (rfl)
@[simp] theorem State.wrBytes_pair (a : Nat) (l : List Nat) : (s.wrBytes a l).pair = s.pair := (rfl)
@[simp] theorem State.wrBytes_health (a : Nat) (l : List Nat) : (s.wrBytes a l).health = s.health := (rfl)
@[simp] theorem State.wrBytes_slices (a : Nat) (l : List Nat) : (s.wrBytes a l).slices = s.slices := (rfl)
@[simp] theorem State.wrBytes_mbx (a : Nat) (l : List Nat) : (s.wrBytes a l).mbx = s.mbx := (rfl)
@[simp] theorem State.wrBytes_host (a : Nat) (l : List Nat) : (s.wrBytes a l).host = s.host := (rfl)
@[simp] theorem State.wrBytes_ldt (a : Nat) (l : List Nat) : (s.wrBytes a l).ldt = s.ldt := (rfl)
@[simp] theorem State.wrBytes_fab (a : Nat) (l : List Nat) : (s.wrBytes a l).fab = s.fab := (rfl)
@[simp] theorem State.wrBytes_flash (a : Nat) (l : List Nat) : (s.wrBytes a l).flash = s.flash := (rfl)
@[simp] theorem State.wrBytes_sec (a : Nat) (l : List Nat) : (s.wrBytes a l).sec = s.sec := (rfl)
@[simp] theorem State.wrBytes_pins (a : Nat) (l : List Nat) : (s.wrBytes a l).pins = s.pins := (rfl)
@[simp] theorem State.wrBytes_pwr (a : Nat) (l : List Nat) : (s.wrBytes a l).pwr = s.pwr := (rfl)
@[simp] theorem State.wrBytes_busData (a : Nat) (l : List Nat) : (s.wrBytes a l).busData = s.busData := (rfl)
@[simp] theorem State.wrBytes_sent (a : Nat) (l : List Nat) : (s.wrBytes a l).sent = s.sent := (rfl)
@[simp] theorem State.wrBytes_freshCount (a : Nat) (l : List Nat) : (s.wrBytes a l).freshCount = s.freshCount := (rfl)
@[simp] theorem State.wrBytes_pending (a : Nat) (l : List Nat) : (s.wrBytes a l).pending = s.pending := (rfl)

/-! ### `State.modTime` -/

@[simp] theorem State.modTime_fields (f : TimeSt → TimeSt) : (s.modTime f).fields = s.fields := (rfl)
@[simp] theorem State.modTime_shadows (f : TimeSt → TimeSt) : (s.modTime f).shadows = s.shadows := (rfl)
@[simp] theorem State.modTime_pages (f : TimeSt → TimeSt) : (s.modTime f).pages = s.pages := (rfl)
@[simp] theorem State.modTime_units (f : TimeSt → TimeSt) : (s.modTime f).units = s.units := (rfl)
@[simp] theorem State.modTime_mem (f : TimeSt → TimeSt) : (s.modTime f).mem = s.mem := (rfl)
@[simp] theorem State.modTime_time (f : TimeSt → TimeSt) : (s.modTime f).time = f s.time := (rfl)
@[simp] theorem State.modTime_irt (f : TimeSt → TimeSt) : (s.modTime f).irt = s.irt := (rfl)
@[simp] theorem State.modTime_adm (f : TimeSt → TimeSt) : (s.modTime f).adm = s.adm := (rfl)
@[simp] theorem State.modTime_read (f : TimeSt → TimeSt) : (s.modTime f).read = s.read := (rfl)
@[simp] theorem State.modTime_write (f : TimeSt → TimeSt) : (s.modTime f).write = s.write := (rfl)
@[simp] theorem State.modTime_vat (f : TimeSt → TimeSt) : (s.modTime f).vat = s.vat := (rfl)
@[simp] theorem State.modTime_ftl (f : TimeSt → TimeSt) : (s.modTime f).ftl = s.ftl := (rfl)
@[simp] theorem State.modTime_media (f : TimeSt → TimeSt) : (s.modTime f).media = s.media := (rfl)
@[simp] theorem State.modTime_pair (f : TimeSt → TimeSt) : (s.modTime f).pair = s.pair := (rfl)
@[simp] theorem State.modTime_health (f : TimeSt → TimeSt) : (s.modTime f).health = s.health := (rfl)
@[simp] theorem State.modTime_slices (f : TimeSt → TimeSt) : (s.modTime f).slices = s.slices := (rfl)
@[simp] theorem State.modTime_mbx (f : TimeSt → TimeSt) : (s.modTime f).mbx = s.mbx := (rfl)
@[simp] theorem State.modTime_host (f : TimeSt → TimeSt) : (s.modTime f).host = s.host := (rfl)
@[simp] theorem State.modTime_ldt (f : TimeSt → TimeSt) : (s.modTime f).ldt = s.ldt := (rfl)
@[simp] theorem State.modTime_fab (f : TimeSt → TimeSt) : (s.modTime f).fab = s.fab := (rfl)
@[simp] theorem State.modTime_flash (f : TimeSt → TimeSt) : (s.modTime f).flash = s.flash := (rfl)
@[simp] theorem State.modTime_sec (f : TimeSt → TimeSt) : (s.modTime f).sec = s.sec := (rfl)
@[simp] theorem State.modTime_pins (f : TimeSt → TimeSt) : (s.modTime f).pins = s.pins := (rfl)
@[simp] theorem State.modTime_pwr (f : TimeSt → TimeSt) : (s.modTime f).pwr = s.pwr := (rfl)
@[simp] theorem State.modTime_busData (f : TimeSt → TimeSt) : (s.modTime f).busData = s.busData := (rfl)
@[simp] theorem State.modTime_sent (f : TimeSt → TimeSt) : (s.modTime f).sent = s.sent := (rfl)
@[simp] theorem State.modTime_freshCount (f : TimeSt → TimeSt) : (s.modTime f).freshCount = s.freshCount := (rfl)
@[simp] theorem State.modTime_pending (f : TimeSt → TimeSt) : (s.modTime f).pending = s.pending := (rfl)

/-! ### `State.modHost` -/

@[simp] theorem State.modHost_fields (f : HostSt → HostSt) : (s.modHost f).fields = s.fields := (rfl)
@[simp] theorem State.modHost_shadows (f : HostSt → HostSt) : (s.modHost f).shadows = s.shadows := (rfl)
@[simp] theorem State.modHost_pages (f : HostSt → HostSt) : (s.modHost f).pages = s.pages := (rfl)
@[simp] theorem State.modHost_units (f : HostSt → HostSt) : (s.modHost f).units = s.units := (rfl)
@[simp] theorem State.modHost_mem (f : HostSt → HostSt) : (s.modHost f).mem = s.mem := (rfl)
@[simp] theorem State.modHost_time (f : HostSt → HostSt) : (s.modHost f).time = s.time := (rfl)
@[simp] theorem State.modHost_irt (f : HostSt → HostSt) : (s.modHost f).irt = s.irt := (rfl)
@[simp] theorem State.modHost_adm (f : HostSt → HostSt) : (s.modHost f).adm = s.adm := (rfl)
@[simp] theorem State.modHost_read (f : HostSt → HostSt) : (s.modHost f).read = s.read := (rfl)
@[simp] theorem State.modHost_write (f : HostSt → HostSt) : (s.modHost f).write = s.write := (rfl)
@[simp] theorem State.modHost_vat (f : HostSt → HostSt) : (s.modHost f).vat = s.vat := (rfl)
@[simp] theorem State.modHost_ftl (f : HostSt → HostSt) : (s.modHost f).ftl = s.ftl := (rfl)
@[simp] theorem State.modHost_media (f : HostSt → HostSt) : (s.modHost f).media = s.media := (rfl)
@[simp] theorem State.modHost_pair (f : HostSt → HostSt) : (s.modHost f).pair = s.pair := (rfl)
@[simp] theorem State.modHost_health (f : HostSt → HostSt) : (s.modHost f).health = s.health := (rfl)
@[simp] theorem State.modHost_slices (f : HostSt → HostSt) : (s.modHost f).slices = s.slices := (rfl)
@[simp] theorem State.modHost_mbx (f : HostSt → HostSt) : (s.modHost f).mbx = s.mbx := (rfl)
@[simp] theorem State.modHost_host (f : HostSt → HostSt) : (s.modHost f).host = f s.host := (rfl)
@[simp] theorem State.modHost_ldt (f : HostSt → HostSt) : (s.modHost f).ldt = s.ldt := (rfl)
@[simp] theorem State.modHost_fab (f : HostSt → HostSt) : (s.modHost f).fab = s.fab := (rfl)
@[simp] theorem State.modHost_flash (f : HostSt → HostSt) : (s.modHost f).flash = s.flash := (rfl)
@[simp] theorem State.modHost_sec (f : HostSt → HostSt) : (s.modHost f).sec = s.sec := (rfl)
@[simp] theorem State.modHost_pins (f : HostSt → HostSt) : (s.modHost f).pins = s.pins := (rfl)
@[simp] theorem State.modHost_pwr (f : HostSt → HostSt) : (s.modHost f).pwr = s.pwr := (rfl)
@[simp] theorem State.modHost_busData (f : HostSt → HostSt) : (s.modHost f).busData = s.busData := (rfl)
@[simp] theorem State.modHost_sent (f : HostSt → HostSt) : (s.modHost f).sent = s.sent := (rfl)
@[simp] theorem State.modHost_freshCount (f : HostSt → HostSt) : (s.modHost f).freshCount = s.freshCount := (rfl)
@[simp] theorem State.modHost_pending (f : HostSt → HostSt) : (s.modHost f).pending = s.pending := (rfl)

/-! ### `State.modRead` -/

@[simp] theorem State.modRead_fields (f : ReadSt → ReadSt) : (s.modRead f).fields = s.fields := (rfl)
@[simp] theorem State.modRead_shadows (f : ReadSt → ReadSt) : (s.modRead f).shadows = s.shadows := (rfl)
@[simp] theorem State.modRead_pages (f : ReadSt → ReadSt) : (s.modRead f).pages = s.pages := (rfl)
@[simp] theorem State.modRead_units (f : ReadSt → ReadSt) : (s.modRead f).units = s.units := (rfl)
@[simp] theorem State.modRead_mem (f : ReadSt → ReadSt) : (s.modRead f).mem = s.mem := (rfl)
@[simp] theorem State.modRead_time (f : ReadSt → ReadSt) : (s.modRead f).time = s.time := (rfl)
@[simp] theorem State.modRead_irt (f : ReadSt → ReadSt) : (s.modRead f).irt = s.irt := (rfl)
@[simp] theorem State.modRead_adm (f : ReadSt → ReadSt) : (s.modRead f).adm = s.adm := (rfl)
@[simp] theorem State.modRead_read (f : ReadSt → ReadSt) : (s.modRead f).read = f s.read := (rfl)
@[simp] theorem State.modRead_write (f : ReadSt → ReadSt) : (s.modRead f).write = s.write := (rfl)
@[simp] theorem State.modRead_vat (f : ReadSt → ReadSt) : (s.modRead f).vat = s.vat := (rfl)
@[simp] theorem State.modRead_ftl (f : ReadSt → ReadSt) : (s.modRead f).ftl = s.ftl := (rfl)
@[simp] theorem State.modRead_media (f : ReadSt → ReadSt) : (s.modRead f).media = s.media := (rfl)
@[simp] theorem State.modRead_pair (f : ReadSt → ReadSt) : (s.modRead f).pair = s.pair := (rfl)
@[simp] theorem State.modRead_health (f : ReadSt → ReadSt) : (s.modRead f).health = s.health := (rfl)
@[simp] theorem State.modRead_slices (f : ReadSt → ReadSt) : (s.modRead f).slices = s.slices := (rfl)
@[simp] theorem State.modRead_mbx (f : ReadSt → ReadSt) : (s.modRead f).mbx = s.mbx := (rfl)
@[simp] theorem State.modRead_host (f : ReadSt → ReadSt) : (s.modRead f).host = s.host := (rfl)
@[simp] theorem State.modRead_ldt (f : ReadSt → ReadSt) : (s.modRead f).ldt = s.ldt := (rfl)
@[simp] theorem State.modRead_fab (f : ReadSt → ReadSt) : (s.modRead f).fab = s.fab := (rfl)
@[simp] theorem State.modRead_flash (f : ReadSt → ReadSt) : (s.modRead f).flash = s.flash := (rfl)
@[simp] theorem State.modRead_sec (f : ReadSt → ReadSt) : (s.modRead f).sec = s.sec := (rfl)
@[simp] theorem State.modRead_pins (f : ReadSt → ReadSt) : (s.modRead f).pins = s.pins := (rfl)
@[simp] theorem State.modRead_pwr (f : ReadSt → ReadSt) : (s.modRead f).pwr = s.pwr := (rfl)
@[simp] theorem State.modRead_busData (f : ReadSt → ReadSt) : (s.modRead f).busData = s.busData := (rfl)
@[simp] theorem State.modRead_sent (f : ReadSt → ReadSt) : (s.modRead f).sent = s.sent := (rfl)
@[simp] theorem State.modRead_freshCount (f : ReadSt → ReadSt) : (s.modRead f).freshCount = s.freshCount := (rfl)
@[simp] theorem State.modRead_pending (f : ReadSt → ReadSt) : (s.modRead f).pending = s.pending := (rfl)

/-! ### `State.modWrite` -/

@[simp] theorem State.modWrite_fields (f : WriteSt → WriteSt) : (s.modWrite f).fields = s.fields := (rfl)
@[simp] theorem State.modWrite_shadows (f : WriteSt → WriteSt) : (s.modWrite f).shadows = s.shadows := (rfl)
@[simp] theorem State.modWrite_pages (f : WriteSt → WriteSt) : (s.modWrite f).pages = s.pages := (rfl)
@[simp] theorem State.modWrite_units (f : WriteSt → WriteSt) : (s.modWrite f).units = s.units := (rfl)
@[simp] theorem State.modWrite_mem (f : WriteSt → WriteSt) : (s.modWrite f).mem = s.mem := (rfl)
@[simp] theorem State.modWrite_time (f : WriteSt → WriteSt) : (s.modWrite f).time = s.time := (rfl)
@[simp] theorem State.modWrite_irt (f : WriteSt → WriteSt) : (s.modWrite f).irt = s.irt := (rfl)
@[simp] theorem State.modWrite_adm (f : WriteSt → WriteSt) : (s.modWrite f).adm = s.adm := (rfl)
@[simp] theorem State.modWrite_read (f : WriteSt → WriteSt) : (s.modWrite f).read = s.read := (rfl)
@[simp] theorem State.modWrite_write (f : WriteSt → WriteSt) : (s.modWrite f).write = f s.write := (rfl)
@[simp] theorem State.modWrite_vat (f : WriteSt → WriteSt) : (s.modWrite f).vat = s.vat := (rfl)
@[simp] theorem State.modWrite_ftl (f : WriteSt → WriteSt) : (s.modWrite f).ftl = s.ftl := (rfl)
@[simp] theorem State.modWrite_media (f : WriteSt → WriteSt) : (s.modWrite f).media = s.media := (rfl)
@[simp] theorem State.modWrite_pair (f : WriteSt → WriteSt) : (s.modWrite f).pair = s.pair := (rfl)
@[simp] theorem State.modWrite_health (f : WriteSt → WriteSt) : (s.modWrite f).health = s.health := (rfl)
@[simp] theorem State.modWrite_slices (f : WriteSt → WriteSt) : (s.modWrite f).slices = s.slices := (rfl)
@[simp] theorem State.modWrite_mbx (f : WriteSt → WriteSt) : (s.modWrite f).mbx = s.mbx := (rfl)
@[simp] theorem State.modWrite_host (f : WriteSt → WriteSt) : (s.modWrite f).host = s.host := (rfl)
@[simp] theorem State.modWrite_ldt (f : WriteSt → WriteSt) : (s.modWrite f).ldt = s.ldt := (rfl)
@[simp] theorem State.modWrite_fab (f : WriteSt → WriteSt) : (s.modWrite f).fab = s.fab := (rfl)
@[simp] theorem State.modWrite_flash (f : WriteSt → WriteSt) : (s.modWrite f).flash = s.flash := (rfl)
@[simp] theorem State.modWrite_sec (f : WriteSt → WriteSt) : (s.modWrite f).sec = s.sec := (rfl)
@[simp] theorem State.modWrite_pins (f : WriteSt → WriteSt) : (s.modWrite f).pins = s.pins := (rfl)
@[simp] theorem State.modWrite_pwr (f : WriteSt → WriteSt) : (s.modWrite f).pwr = s.pwr := (rfl)
@[simp] theorem State.modWrite_busData (f : WriteSt → WriteSt) : (s.modWrite f).busData = s.busData := (rfl)
@[simp] theorem State.modWrite_sent (f : WriteSt → WriteSt) : (s.modWrite f).sent = s.sent := (rfl)
@[simp] theorem State.modWrite_freshCount (f : WriteSt → WriteSt) : (s.modWrite f).freshCount = s.freshCount := (rfl)
@[simp] theorem State.modWrite_pending (f : WriteSt → WriteSt) : (s.modWrite f).pending = s.pending := (rfl)

/-! ### `State.modVat` -/

@[simp] theorem State.modVat_fields (f : VatSt → VatSt) : (s.modVat f).fields = s.fields := (rfl)
@[simp] theorem State.modVat_shadows (f : VatSt → VatSt) : (s.modVat f).shadows = s.shadows := (rfl)
@[simp] theorem State.modVat_pages (f : VatSt → VatSt) : (s.modVat f).pages = s.pages := (rfl)
@[simp] theorem State.modVat_units (f : VatSt → VatSt) : (s.modVat f).units = s.units := (rfl)
@[simp] theorem State.modVat_mem (f : VatSt → VatSt) : (s.modVat f).mem = s.mem := (rfl)
@[simp] theorem State.modVat_time (f : VatSt → VatSt) : (s.modVat f).time = s.time := (rfl)
@[simp] theorem State.modVat_irt (f : VatSt → VatSt) : (s.modVat f).irt = s.irt := (rfl)
@[simp] theorem State.modVat_adm (f : VatSt → VatSt) : (s.modVat f).adm = s.adm := (rfl)
@[simp] theorem State.modVat_read (f : VatSt → VatSt) : (s.modVat f).read = s.read := (rfl)
@[simp] theorem State.modVat_write (f : VatSt → VatSt) : (s.modVat f).write = s.write := (rfl)
@[simp] theorem State.modVat_vat (f : VatSt → VatSt) : (s.modVat f).vat = f s.vat := (rfl)
@[simp] theorem State.modVat_ftl (f : VatSt → VatSt) : (s.modVat f).ftl = s.ftl := (rfl)
@[simp] theorem State.modVat_media (f : VatSt → VatSt) : (s.modVat f).media = s.media := (rfl)
@[simp] theorem State.modVat_pair (f : VatSt → VatSt) : (s.modVat f).pair = s.pair := (rfl)
@[simp] theorem State.modVat_health (f : VatSt → VatSt) : (s.modVat f).health = s.health := (rfl)
@[simp] theorem State.modVat_slices (f : VatSt → VatSt) : (s.modVat f).slices = s.slices := (rfl)
@[simp] theorem State.modVat_mbx (f : VatSt → VatSt) : (s.modVat f).mbx = s.mbx := (rfl)
@[simp] theorem State.modVat_host (f : VatSt → VatSt) : (s.modVat f).host = s.host := (rfl)
@[simp] theorem State.modVat_ldt (f : VatSt → VatSt) : (s.modVat f).ldt = s.ldt := (rfl)
@[simp] theorem State.modVat_fab (f : VatSt → VatSt) : (s.modVat f).fab = s.fab := (rfl)
@[simp] theorem State.modVat_flash (f : VatSt → VatSt) : (s.modVat f).flash = s.flash := (rfl)
@[simp] theorem State.modVat_sec (f : VatSt → VatSt) : (s.modVat f).sec = s.sec := (rfl)
@[simp] theorem State.modVat_pins (f : VatSt → VatSt) : (s.modVat f).pins = s.pins := (rfl)
@[simp] theorem State.modVat_pwr (f : VatSt → VatSt) : (s.modVat f).pwr = s.pwr := (rfl)
@[simp] theorem State.modVat_busData (f : VatSt → VatSt) : (s.modVat f).busData = s.busData := (rfl)
@[simp] theorem State.modVat_sent (f : VatSt → VatSt) : (s.modVat f).sent = s.sent := (rfl)
@[simp] theorem State.modVat_freshCount (f : VatSt → VatSt) : (s.modVat f).freshCount = s.freshCount := (rfl)
@[simp] theorem State.modVat_pending (f : VatSt → VatSt) : (s.modVat f).pending = s.pending := (rfl)

/-! ### `State.modFtl` -/

@[simp] theorem State.modFtl_fields (f : FtlSt → FtlSt) : (s.modFtl f).fields = s.fields := (rfl)
@[simp] theorem State.modFtl_shadows (f : FtlSt → FtlSt) : (s.modFtl f).shadows = s.shadows := (rfl)
@[simp] theorem State.modFtl_pages (f : FtlSt → FtlSt) : (s.modFtl f).pages = s.pages := (rfl)
@[simp] theorem State.modFtl_units (f : FtlSt → FtlSt) : (s.modFtl f).units = s.units := (rfl)
@[simp] theorem State.modFtl_mem (f : FtlSt → FtlSt) : (s.modFtl f).mem = s.mem := (rfl)
@[simp] theorem State.modFtl_time (f : FtlSt → FtlSt) : (s.modFtl f).time = s.time := (rfl)
@[simp] theorem State.modFtl_irt (f : FtlSt → FtlSt) : (s.modFtl f).irt = s.irt := (rfl)
@[simp] theorem State.modFtl_adm (f : FtlSt → FtlSt) : (s.modFtl f).adm = s.adm := (rfl)
@[simp] theorem State.modFtl_read (f : FtlSt → FtlSt) : (s.modFtl f).read = s.read := (rfl)
@[simp] theorem State.modFtl_write (f : FtlSt → FtlSt) : (s.modFtl f).write = s.write := (rfl)
@[simp] theorem State.modFtl_vat (f : FtlSt → FtlSt) : (s.modFtl f).vat = s.vat := (rfl)
@[simp] theorem State.modFtl_ftl (f : FtlSt → FtlSt) : (s.modFtl f).ftl = f s.ftl := (rfl)
@[simp] theorem State.modFtl_media (f : FtlSt → FtlSt) : (s.modFtl f).media = s.media := (rfl)
@[simp] theorem State.modFtl_pair (f : FtlSt → FtlSt) : (s.modFtl f).pair = s.pair := (rfl)
@[simp] theorem State.modFtl_health (f : FtlSt → FtlSt) : (s.modFtl f).health = s.health := (rfl)
@[simp] theorem State.modFtl_slices (f : FtlSt → FtlSt) : (s.modFtl f).slices = s.slices := (rfl)
@[simp] theorem State.modFtl_mbx (f : FtlSt → FtlSt) : (s.modFtl f).mbx = s.mbx := (rfl)
@[simp] theorem State.modFtl_host (f : FtlSt → FtlSt) : (s.modFtl f).host = s.host := (rfl)
@[simp] theorem State.modFtl_ldt (f : FtlSt → FtlSt) : (s.modFtl f).ldt = s.ldt := (rfl)
@[simp] theorem State.modFtl_fab (f : FtlSt → FtlSt) : (s.modFtl f).fab = s.fab := (rfl)
@[simp] theorem State.modFtl_flash (f : FtlSt → FtlSt) : (s.modFtl f).flash = s.flash := (rfl)
@[simp] theorem State.modFtl_sec (f : FtlSt → FtlSt) : (s.modFtl f).sec = s.sec := (rfl)
@[simp] theorem State.modFtl_pins (f : FtlSt → FtlSt) : (s.modFtl f).pins = s.pins := (rfl)
@[simp] theorem State.modFtl_pwr (f : FtlSt → FtlSt) : (s.modFtl f).pwr = s.pwr := (rfl)
@[simp] theorem State.modFtl_busData (f : FtlSt → FtlSt) : (s.modFtl f).busData = s.busData := (rfl)
@[simp] theorem State.modFtl_sent (f : FtlSt → FtlSt) : (s.modFtl f).sent = s.sent := (rfl)
@[simp] theorem State.modFtl_freshCount (f : FtlSt → FtlSt) : (s.modFtl f).freshCount = s.freshCount := (rfl)
@[simp] theorem State.modFtl_pending (f : FtlSt → FtlSt) : (s.modFtl f).pending = s.pending := (rfl)

/-! ### `State.modMedia` -/

@[simp] theorem State.modMedia_fields (f : MediaSt → MediaSt) : (s.modMedia f).fields = s.fields := (rfl)
@[simp] theorem State.modMedia_shadows (f : MediaSt → MediaSt) : (s.modMedia f).shadows = s.shadows := (rfl)
@[simp] theorem State.modMedia_pages (f : MediaSt → MediaSt) : (s.modMedia f).pages = s.pages := (rfl)
@[simp] theorem State.modMedia_units (f : MediaSt → MediaSt) : (s.modMedia f).units = s.units := (rfl)
@[simp] theorem State.modMedia_mem (f : MediaSt → MediaSt) : (s.modMedia f).mem = s.mem := (rfl)
@[simp] theorem State.modMedia_time (f : MediaSt → MediaSt) : (s.modMedia f).time = s.time := (rfl)
@[simp] theorem State.modMedia_irt (f : MediaSt → MediaSt) : (s.modMedia f).irt = s.irt := (rfl)
@[simp] theorem State.modMedia_adm (f : MediaSt → MediaSt) : (s.modMedia f).adm = s.adm := (rfl)
@[simp] theorem State.modMedia_read (f : MediaSt → MediaSt) : (s.modMedia f).read = s.read := (rfl)
@[simp] theorem State.modMedia_write (f : MediaSt → MediaSt) : (s.modMedia f).write = s.write := (rfl)
@[simp] theorem State.modMedia_vat (f : MediaSt → MediaSt) : (s.modMedia f).vat = s.vat := (rfl)
@[simp] theorem State.modMedia_ftl (f : MediaSt → MediaSt) : (s.modMedia f).ftl = s.ftl := (rfl)
@[simp] theorem State.modMedia_media (f : MediaSt → MediaSt) : (s.modMedia f).media = f s.media := (rfl)
@[simp] theorem State.modMedia_pair (f : MediaSt → MediaSt) : (s.modMedia f).pair = s.pair := (rfl)
@[simp] theorem State.modMedia_health (f : MediaSt → MediaSt) : (s.modMedia f).health = s.health := (rfl)
@[simp] theorem State.modMedia_slices (f : MediaSt → MediaSt) : (s.modMedia f).slices = s.slices := (rfl)
@[simp] theorem State.modMedia_mbx (f : MediaSt → MediaSt) : (s.modMedia f).mbx = s.mbx := (rfl)
@[simp] theorem State.modMedia_host (f : MediaSt → MediaSt) : (s.modMedia f).host = s.host := (rfl)
@[simp] theorem State.modMedia_ldt (f : MediaSt → MediaSt) : (s.modMedia f).ldt = s.ldt := (rfl)
@[simp] theorem State.modMedia_fab (f : MediaSt → MediaSt) : (s.modMedia f).fab = s.fab := (rfl)
@[simp] theorem State.modMedia_flash (f : MediaSt → MediaSt) : (s.modMedia f).flash = s.flash := (rfl)
@[simp] theorem State.modMedia_sec (f : MediaSt → MediaSt) : (s.modMedia f).sec = s.sec := (rfl)
@[simp] theorem State.modMedia_pins (f : MediaSt → MediaSt) : (s.modMedia f).pins = s.pins := (rfl)
@[simp] theorem State.modMedia_pwr (f : MediaSt → MediaSt) : (s.modMedia f).pwr = s.pwr := (rfl)
@[simp] theorem State.modMedia_busData (f : MediaSt → MediaSt) : (s.modMedia f).busData = s.busData := (rfl)
@[simp] theorem State.modMedia_sent (f : MediaSt → MediaSt) : (s.modMedia f).sent = s.sent := (rfl)
@[simp] theorem State.modMedia_freshCount (f : MediaSt → MediaSt) : (s.modMedia f).freshCount = s.freshCount := (rfl)
@[simp] theorem State.modMedia_pending (f : MediaSt → MediaSt) : (s.modMedia f).pending = s.pending := (rfl)

/-! ### `State.modPair` -/

@[simp] theorem State.modPair_fields (f : PairSt → PairSt) : (s.modPair f).fields = s.fields := (rfl)
@[simp] theorem State.modPair_shadows (f : PairSt → PairSt) : (s.modPair f).shadows = s.shadows := (rfl)
@[simp] theorem State.modPair_pages (f : PairSt → PairSt) : (s.modPair f).pages = s.pages := (rfl)
@[simp] theorem State.modPair_units (f : PairSt → PairSt) : (s.modPair f).units = s.units := (rfl)
@[simp] theorem State.modPair_mem (f : PairSt → PairSt) : (s.modPair f).mem = s.mem := (rfl)
@[simp] theorem State.modPair_time (f : PairSt → PairSt) : (s.modPair f).time = s.time := (rfl)
@[simp] theorem State.modPair_irt (f : PairSt → PairSt) : (s.modPair f).irt = s.irt := (rfl)
@[simp] theorem State.modPair_adm (f : PairSt → PairSt) : (s.modPair f).adm = s.adm := (rfl)
@[simp] theorem State.modPair_read (f : PairSt → PairSt) : (s.modPair f).read = s.read := (rfl)
@[simp] theorem State.modPair_write (f : PairSt → PairSt) : (s.modPair f).write = s.write := (rfl)
@[simp] theorem State.modPair_vat (f : PairSt → PairSt) : (s.modPair f).vat = s.vat := (rfl)
@[simp] theorem State.modPair_ftl (f : PairSt → PairSt) : (s.modPair f).ftl = s.ftl := (rfl)
@[simp] theorem State.modPair_media (f : PairSt → PairSt) : (s.modPair f).media = s.media := (rfl)
@[simp] theorem State.modPair_pair (f : PairSt → PairSt) : (s.modPair f).pair = f s.pair := (rfl)
@[simp] theorem State.modPair_health (f : PairSt → PairSt) : (s.modPair f).health = s.health := (rfl)
@[simp] theorem State.modPair_slices (f : PairSt → PairSt) : (s.modPair f).slices = s.slices := (rfl)
@[simp] theorem State.modPair_mbx (f : PairSt → PairSt) : (s.modPair f).mbx = s.mbx := (rfl)
@[simp] theorem State.modPair_host (f : PairSt → PairSt) : (s.modPair f).host = s.host := (rfl)
@[simp] theorem State.modPair_ldt (f : PairSt → PairSt) : (s.modPair f).ldt = s.ldt := (rfl)
@[simp] theorem State.modPair_fab (f : PairSt → PairSt) : (s.modPair f).fab = s.fab := (rfl)
@[simp] theorem State.modPair_flash (f : PairSt → PairSt) : (s.modPair f).flash = s.flash := (rfl)
@[simp] theorem State.modPair_sec (f : PairSt → PairSt) : (s.modPair f).sec = s.sec := (rfl)
@[simp] theorem State.modPair_pins (f : PairSt → PairSt) : (s.modPair f).pins = s.pins := (rfl)
@[simp] theorem State.modPair_pwr (f : PairSt → PairSt) : (s.modPair f).pwr = s.pwr := (rfl)
@[simp] theorem State.modPair_busData (f : PairSt → PairSt) : (s.modPair f).busData = s.busData := (rfl)
@[simp] theorem State.modPair_sent (f : PairSt → PairSt) : (s.modPair f).sent = s.sent := (rfl)
@[simp] theorem State.modPair_freshCount (f : PairSt → PairSt) : (s.modPair f).freshCount = s.freshCount := (rfl)
@[simp] theorem State.modPair_pending (f : PairSt → PairSt) : (s.modPair f).pending = s.pending := (rfl)

/-! ### `State.modMbx` -/

@[simp] theorem State.modMbx_fields (f : MbxSt → MbxSt) : (s.modMbx f).fields = s.fields := (rfl)
@[simp] theorem State.modMbx_shadows (f : MbxSt → MbxSt) : (s.modMbx f).shadows = s.shadows := (rfl)
@[simp] theorem State.modMbx_pages (f : MbxSt → MbxSt) : (s.modMbx f).pages = s.pages := (rfl)
@[simp] theorem State.modMbx_units (f : MbxSt → MbxSt) : (s.modMbx f).units = s.units := (rfl)
@[simp] theorem State.modMbx_mem (f : MbxSt → MbxSt) : (s.modMbx f).mem = s.mem := (rfl)
@[simp] theorem State.modMbx_time (f : MbxSt → MbxSt) : (s.modMbx f).time = s.time := (rfl)
@[simp] theorem State.modMbx_irt (f : MbxSt → MbxSt) : (s.modMbx f).irt = s.irt := (rfl)
@[simp] theorem State.modMbx_adm (f : MbxSt → MbxSt) : (s.modMbx f).adm = s.adm := (rfl)
@[simp] theorem State.modMbx_read (f : MbxSt → MbxSt) : (s.modMbx f).read = s.read := (rfl)
@[simp] theorem State.modMbx_write (f : MbxSt → MbxSt) : (s.modMbx f).write = s.write := (rfl)
@[simp] theorem State.modMbx_vat (f : MbxSt → MbxSt) : (s.modMbx f).vat = s.vat := (rfl)
@[simp] theorem State.modMbx_ftl (f : MbxSt → MbxSt) : (s.modMbx f).ftl = s.ftl := (rfl)
@[simp] theorem State.modMbx_media (f : MbxSt → MbxSt) : (s.modMbx f).media = s.media := (rfl)
@[simp] theorem State.modMbx_pair (f : MbxSt → MbxSt) : (s.modMbx f).pair = s.pair := (rfl)
@[simp] theorem State.modMbx_health (f : MbxSt → MbxSt) : (s.modMbx f).health = s.health := (rfl)
@[simp] theorem State.modMbx_slices (f : MbxSt → MbxSt) : (s.modMbx f).slices = s.slices := (rfl)
@[simp] theorem State.modMbx_mbx (f : MbxSt → MbxSt) : (s.modMbx f).mbx = f s.mbx := (rfl)
@[simp] theorem State.modMbx_host (f : MbxSt → MbxSt) : (s.modMbx f).host = s.host := (rfl)
@[simp] theorem State.modMbx_ldt (f : MbxSt → MbxSt) : (s.modMbx f).ldt = s.ldt := (rfl)
@[simp] theorem State.modMbx_fab (f : MbxSt → MbxSt) : (s.modMbx f).fab = s.fab := (rfl)
@[simp] theorem State.modMbx_flash (f : MbxSt → MbxSt) : (s.modMbx f).flash = s.flash := (rfl)
@[simp] theorem State.modMbx_sec (f : MbxSt → MbxSt) : (s.modMbx f).sec = s.sec := (rfl)
@[simp] theorem State.modMbx_pins (f : MbxSt → MbxSt) : (s.modMbx f).pins = s.pins := (rfl)
@[simp] theorem State.modMbx_pwr (f : MbxSt → MbxSt) : (s.modMbx f).pwr = s.pwr := (rfl)
@[simp] theorem State.modMbx_busData (f : MbxSt → MbxSt) : (s.modMbx f).busData = s.busData := (rfl)
@[simp] theorem State.modMbx_sent (f : MbxSt → MbxSt) : (s.modMbx f).sent = s.sent := (rfl)
@[simp] theorem State.modMbx_freshCount (f : MbxSt → MbxSt) : (s.modMbx f).freshCount = s.freshCount := (rfl)
@[simp] theorem State.modMbx_pending (f : MbxSt → MbxSt) : (s.modMbx f).pending = s.pending := (rfl)

/-! ### `State.modSec` -/

@[simp] theorem State.modSec_fields (f : SecSt → SecSt) : (s.modSec f).fields = s.fields := (rfl)
@[simp] theorem State.modSec_shadows (f : SecSt → SecSt) : (s.modSec f).shadows = s.shadows := (rfl)
@[simp] theorem State.modSec_pages (f : SecSt → SecSt) : (s.modSec f).pages = s.pages := (rfl)
@[simp] theorem State.modSec_units (f : SecSt → SecSt) : (s.modSec f).units = s.units := (rfl)
@[simp] theorem State.modSec_mem (f : SecSt → SecSt) : (s.modSec f).mem = s.mem := (rfl)
@[simp] theorem State.modSec_time (f : SecSt → SecSt) : (s.modSec f).time = s.time := (rfl)
@[simp] theorem State.modSec_irt (f : SecSt → SecSt) : (s.modSec f).irt = s.irt := (rfl)
@[simp] theorem State.modSec_adm (f : SecSt → SecSt) : (s.modSec f).adm = s.adm := (rfl)
@[simp] theorem State.modSec_read (f : SecSt → SecSt) : (s.modSec f).read = s.read := (rfl)
@[simp] theorem State.modSec_write (f : SecSt → SecSt) : (s.modSec f).write = s.write := (rfl)
@[simp] theorem State.modSec_vat (f : SecSt → SecSt) : (s.modSec f).vat = s.vat := (rfl)
@[simp] theorem State.modSec_ftl (f : SecSt → SecSt) : (s.modSec f).ftl = s.ftl := (rfl)
@[simp] theorem State.modSec_media (f : SecSt → SecSt) : (s.modSec f).media = s.media := (rfl)
@[simp] theorem State.modSec_pair (f : SecSt → SecSt) : (s.modSec f).pair = s.pair := (rfl)
@[simp] theorem State.modSec_health (f : SecSt → SecSt) : (s.modSec f).health = s.health := (rfl)
@[simp] theorem State.modSec_slices (f : SecSt → SecSt) : (s.modSec f).slices = s.slices := (rfl)
@[simp] theorem State.modSec_mbx (f : SecSt → SecSt) : (s.modSec f).mbx = s.mbx := (rfl)
@[simp] theorem State.modSec_host (f : SecSt → SecSt) : (s.modSec f).host = s.host := (rfl)
@[simp] theorem State.modSec_ldt (f : SecSt → SecSt) : (s.modSec f).ldt = s.ldt := (rfl)
@[simp] theorem State.modSec_fab (f : SecSt → SecSt) : (s.modSec f).fab = s.fab := (rfl)
@[simp] theorem State.modSec_flash (f : SecSt → SecSt) : (s.modSec f).flash = s.flash := (rfl)
@[simp] theorem State.modSec_sec (f : SecSt → SecSt) : (s.modSec f).sec = f s.sec := (rfl)
@[simp] theorem State.modSec_pins (f : SecSt → SecSt) : (s.modSec f).pins = s.pins := (rfl)
@[simp] theorem State.modSec_pwr (f : SecSt → SecSt) : (s.modSec f).pwr = s.pwr := (rfl)
@[simp] theorem State.modSec_busData (f : SecSt → SecSt) : (s.modSec f).busData = s.busData := (rfl)
@[simp] theorem State.modSec_sent (f : SecSt → SecSt) : (s.modSec f).sent = s.sent := (rfl)
@[simp] theorem State.modSec_freshCount (f : SecSt → SecSt) : (s.modSec f).freshCount = s.freshCount := (rfl)
@[simp] theorem State.modSec_pending (f : SecSt → SecSt) : (s.modSec f).pending = s.pending := (rfl)

/-! ### `State.modFlash` -/

@[simp] theorem State.modFlash_fields (f : FlashSt → FlashSt) : (s.modFlash f).fields = s.fields := (rfl)
@[simp] theorem State.modFlash_shadows (f : FlashSt → FlashSt) : (s.modFlash f).shadows = s.shadows := (rfl)
@[simp] theorem State.modFlash_pages (f : FlashSt → FlashSt) : (s.modFlash f).pages = s.pages := (rfl)
@[simp] theorem State.modFlash_units (f : FlashSt → FlashSt) : (s.modFlash f).units = s.units := (rfl)
@[simp] theorem State.modFlash_mem (f : FlashSt → FlashSt) : (s.modFlash f).mem = s.mem := (rfl)
@[simp] theorem State.modFlash_time (f : FlashSt → FlashSt) : (s.modFlash f).time = s.time := (rfl)
@[simp] theorem State.modFlash_irt (f : FlashSt → FlashSt) : (s.modFlash f).irt = s.irt := (rfl)
@[simp] theorem State.modFlash_adm (f : FlashSt → FlashSt) : (s.modFlash f).adm = s.adm := (rfl)
@[simp] theorem State.modFlash_read (f : FlashSt → FlashSt) : (s.modFlash f).read = s.read := (rfl)
@[simp] theorem State.modFlash_write (f : FlashSt → FlashSt) : (s.modFlash f).write = s.write := (rfl)
@[simp] theorem State.modFlash_vat (f : FlashSt → FlashSt) : (s.modFlash f).vat = s.vat := (rfl)
@[simp] theorem State.modFlash_ftl (f : FlashSt → FlashSt) : (s.modFlash f).ftl = s.ftl := (rfl)
@[simp] theorem State.modFlash_media (f : FlashSt → FlashSt) : (s.modFlash f).media = s.media := (rfl)
@[simp] theorem State.modFlash_pair (f : FlashSt → FlashSt) : (s.modFlash f).pair = s.pair := (rfl)
@[simp] theorem State.modFlash_health (f : FlashSt → FlashSt) : (s.modFlash f).health = s.health := (rfl)
@[simp] theorem State.modFlash_slices (f : FlashSt → FlashSt) : (s.modFlash f).slices = s.slices := (rfl)
@[simp] theorem State.modFlash_mbx (f : FlashSt → FlashSt) : (s.modFlash f).mbx = s.mbx := (rfl)
@[simp] theorem State.modFlash_host (f : FlashSt → FlashSt) : (s.modFlash f).host = s.host := (rfl)
@[simp] theorem State.modFlash_ldt (f : FlashSt → FlashSt) : (s.modFlash f).ldt = s.ldt := (rfl)
@[simp] theorem State.modFlash_fab (f : FlashSt → FlashSt) : (s.modFlash f).fab = s.fab := (rfl)
@[simp] theorem State.modFlash_flash (f : FlashSt → FlashSt) : (s.modFlash f).flash = f s.flash := (rfl)
@[simp] theorem State.modFlash_sec (f : FlashSt → FlashSt) : (s.modFlash f).sec = s.sec := (rfl)
@[simp] theorem State.modFlash_pins (f : FlashSt → FlashSt) : (s.modFlash f).pins = s.pins := (rfl)
@[simp] theorem State.modFlash_pwr (f : FlashSt → FlashSt) : (s.modFlash f).pwr = s.pwr := (rfl)
@[simp] theorem State.modFlash_busData (f : FlashSt → FlashSt) : (s.modFlash f).busData = s.busData := (rfl)
@[simp] theorem State.modFlash_sent (f : FlashSt → FlashSt) : (s.modFlash f).sent = s.sent := (rfl)
@[simp] theorem State.modFlash_freshCount (f : FlashSt → FlashSt) : (s.modFlash f).freshCount = s.freshCount := (rfl)
@[simp] theorem State.modFlash_pending (f : FlashSt → FlashSt) : (s.modFlash f).pending = s.pending := (rfl)

/-! ### `State.modLdt` -/

@[simp] theorem State.modLdt_fields (f : LdtSt → LdtSt) : (s.modLdt f).fields = s.fields := (rfl)
@[simp] theorem State.modLdt_shadows (f : LdtSt → LdtSt) : (s.modLdt f).shadows = s.shadows := (rfl)
@[simp] theorem State.modLdt_pages (f : LdtSt → LdtSt) : (s.modLdt f).pages = s.pages := (rfl)
@[simp] theorem State.modLdt_units (f : LdtSt → LdtSt) : (s.modLdt f).units = s.units := (rfl)
@[simp] theorem State.modLdt_mem (f : LdtSt → LdtSt) : (s.modLdt f).mem = s.mem := (rfl)
@[simp] theorem State.modLdt_time (f : LdtSt → LdtSt) : (s.modLdt f).time = s.time := (rfl)
@[simp] theorem State.modLdt_irt (f : LdtSt → LdtSt) : (s.modLdt f).irt = s.irt := (rfl)
@[simp] theorem State.modLdt_adm (f : LdtSt → LdtSt) : (s.modLdt f).adm = s.adm := (rfl)
@[simp] theorem State.modLdt_read (f : LdtSt → LdtSt) : (s.modLdt f).read = s.read := (rfl)
@[simp] theorem State.modLdt_write (f : LdtSt → LdtSt) : (s.modLdt f).write = s.write := (rfl)
@[simp] theorem State.modLdt_vat (f : LdtSt → LdtSt) : (s.modLdt f).vat = s.vat := (rfl)
@[simp] theorem State.modLdt_ftl (f : LdtSt → LdtSt) : (s.modLdt f).ftl = s.ftl := (rfl)
@[simp] theorem State.modLdt_media (f : LdtSt → LdtSt) : (s.modLdt f).media = s.media := (rfl)
@[simp] theorem State.modLdt_pair (f : LdtSt → LdtSt) : (s.modLdt f).pair = s.pair := (rfl)
@[simp] theorem State.modLdt_health (f : LdtSt → LdtSt) : (s.modLdt f).health = s.health := (rfl)
@[simp] theorem State.modLdt_slices (f : LdtSt → LdtSt) : (s.modLdt f).slices = s.slices := (rfl)
@[simp] theorem State.modLdt_mbx (f : LdtSt → LdtSt) : (s.modLdt f).mbx = s.mbx := (rfl)
@[simp] theorem State.modLdt_host (f : LdtSt → LdtSt) : (s.modLdt f).host = s.host := (rfl)
@[simp] theorem State.modLdt_ldt (f : LdtSt → LdtSt) : (s.modLdt f).ldt = f s.ldt := (rfl)
@[simp] theorem State.modLdt_fab (f : LdtSt → LdtSt) : (s.modLdt f).fab = s.fab := (rfl)
@[simp] theorem State.modLdt_flash (f : LdtSt → LdtSt) : (s.modLdt f).flash = s.flash := (rfl)
@[simp] theorem State.modLdt_sec (f : LdtSt → LdtSt) : (s.modLdt f).sec = s.sec := (rfl)
@[simp] theorem State.modLdt_pins (f : LdtSt → LdtSt) : (s.modLdt f).pins = s.pins := (rfl)
@[simp] theorem State.modLdt_pwr (f : LdtSt → LdtSt) : (s.modLdt f).pwr = s.pwr := (rfl)
@[simp] theorem State.modLdt_busData (f : LdtSt → LdtSt) : (s.modLdt f).busData = s.busData := (rfl)
@[simp] theorem State.modLdt_sent (f : LdtSt → LdtSt) : (s.modLdt f).sent = s.sent := (rfl)
@[simp] theorem State.modLdt_freshCount (f : LdtSt → LdtSt) : (s.modLdt f).freshCount = s.freshCount := (rfl)
@[simp] theorem State.modLdt_pending (f : LdtSt → LdtSt) : (s.modLdt f).pending = s.pending := (rfl)

/-! ### `State.modFab` -/

@[simp] theorem State.modFab_fields (f : FabSt → FabSt) : (s.modFab f).fields = s.fields := (rfl)
@[simp] theorem State.modFab_shadows (f : FabSt → FabSt) : (s.modFab f).shadows = s.shadows := (rfl)
@[simp] theorem State.modFab_pages (f : FabSt → FabSt) : (s.modFab f).pages = s.pages := (rfl)
@[simp] theorem State.modFab_units (f : FabSt → FabSt) : (s.modFab f).units = s.units := (rfl)
@[simp] theorem State.modFab_mem (f : FabSt → FabSt) : (s.modFab f).mem = s.mem := (rfl)
@[simp] theorem State.modFab_time (f : FabSt → FabSt) : (s.modFab f).time = s.time := (rfl)
@[simp] theorem State.modFab_irt (f : FabSt → FabSt) : (s.modFab f).irt = s.irt := (rfl)
@[simp] theorem State.modFab_adm (f : FabSt → FabSt) : (s.modFab f).adm = s.adm := (rfl)
@[simp] theorem State.modFab_read (f : FabSt → FabSt) : (s.modFab f).read = s.read := (rfl)
@[simp] theorem State.modFab_write (f : FabSt → FabSt) : (s.modFab f).write = s.write := (rfl)
@[simp] theorem State.modFab_vat (f : FabSt → FabSt) : (s.modFab f).vat = s.vat := (rfl)
@[simp] theorem State.modFab_ftl (f : FabSt → FabSt) : (s.modFab f).ftl = s.ftl := (rfl)
@[simp] theorem State.modFab_media (f : FabSt → FabSt) : (s.modFab f).media = s.media := (rfl)
@[simp] theorem State.modFab_pair (f : FabSt → FabSt) : (s.modFab f).pair = s.pair := (rfl)
@[simp] theorem State.modFab_health (f : FabSt → FabSt) : (s.modFab f).health = s.health := (rfl)
@[simp] theorem State.modFab_slices (f : FabSt → FabSt) : (s.modFab f).slices = s.slices := (rfl)
@[simp] theorem State.modFab_mbx (f : FabSt → FabSt) : (s.modFab f).mbx = s.mbx := (rfl)
@[simp] theorem State.modFab_host (f : FabSt → FabSt) : (s.modFab f).host = s.host := (rfl)
@[simp] theorem State.modFab_ldt (f : FabSt → FabSt) : (s.modFab f).ldt = s.ldt := (rfl)
@[simp] theorem State.modFab_fab (f : FabSt → FabSt) : (s.modFab f).fab = f s.fab := (rfl)
@[simp] theorem State.modFab_flash (f : FabSt → FabSt) : (s.modFab f).flash = s.flash := (rfl)
@[simp] theorem State.modFab_sec (f : FabSt → FabSt) : (s.modFab f).sec = s.sec := (rfl)
@[simp] theorem State.modFab_pins (f : FabSt → FabSt) : (s.modFab f).pins = s.pins := (rfl)
@[simp] theorem State.modFab_pwr (f : FabSt → FabSt) : (s.modFab f).pwr = s.pwr := (rfl)
@[simp] theorem State.modFab_busData (f : FabSt → FabSt) : (s.modFab f).busData = s.busData := (rfl)
@[simp] theorem State.modFab_sent (f : FabSt → FabSt) : (s.modFab f).sent = s.sent := (rfl)
@[simp] theorem State.modFab_freshCount (f : FabSt → FabSt) : (s.modFab f).freshCount = s.freshCount := (rfl)
@[simp] theorem State.modFab_pending (f : FabSt → FabSt) : (s.modFab f).pending = s.pending := (rfl)

/-! ### `State.modPwr` -/

@[simp] theorem State.modPwr_fields (f : PwrSt → PwrSt) : (s.modPwr f).fields = s.fields := (rfl)
@[simp] theorem State.modPwr_shadows (f : PwrSt → PwrSt) : (s.modPwr f).shadows = s.shadows := (rfl)
@[simp] theorem State.modPwr_pages (f : PwrSt → PwrSt) : (s.modPwr f).pages = s.pages := (rfl)
@[simp] theorem State.modPwr_units (f : PwrSt → PwrSt) : (s.modPwr f).units = s.units := (rfl)
@[simp] theorem State.modPwr_mem (f : PwrSt → PwrSt) : (s.modPwr f).mem = s.mem := (rfl)
@[simp] theorem State.modPwr_time (f : PwrSt → PwrSt) : (s.modPwr f).time = s.time := (rfl)
@[simp] theorem State.modPwr_irt (f : PwrSt → PwrSt) : (s.modPwr f).irt = s.irt := (rfl)
@[simp] theorem State.modPwr_adm (f : PwrSt → PwrSt) : (s.modPwr f).adm = s.adm := (rfl)
@[simp] theorem State.modPwr_read (f : PwrSt → PwrSt) : (s.modPwr f).read = s.read := (rfl)
@[simp] theorem State.modPwr_write (f : PwrSt → PwrSt) : (s.modPwr f).write = s.write := (rfl)
@[simp] theorem State.modPwr_vat (f : PwrSt → PwrSt) : (s.modPwr f).vat = s.vat := (rfl)
@[simp] theorem State.modPwr_ftl (f : PwrSt → PwrSt) : (s.modPwr f).ftl = s.ftl := (rfl)
@[simp] theorem State.modPwr_media (f : PwrSt → PwrSt) : (s.modPwr f).media = s.media := (rfl)
@[simp] theorem State.modPwr_pair (f : PwrSt → PwrSt) : (s.modPwr f).pair = s.pair := (rfl)
@[simp] theorem State.modPwr_health (f : PwrSt → PwrSt) : (s.modPwr f).health = s.health := (rfl)
@[simp] theorem State.modPwr_slices (f : PwrSt → PwrSt) : (s.modPwr f).slices = s.slices := (rfl)
@[simp] theorem State.modPwr_mbx (f : PwrSt → PwrSt) : (s.modPwr f).mbx = s.mbx := (rfl)
@[simp] theorem State.modPwr_host (f : PwrSt → PwrSt) : (s.modPwr f).host = s.host := (rfl)
@[simp] theorem State.modPwr_ldt (f : PwrSt → PwrSt) : (s.modPwr f).ldt = s.ldt := (rfl)
@[simp] theorem State.modPwr_fab (f : PwrSt → PwrSt) : (s.modPwr f).fab = s.fab := (rfl)
@[simp] theorem State.modPwr_flash (f : PwrSt → PwrSt) : (s.modPwr f).flash = s.flash := (rfl)
@[simp] theorem State.modPwr_sec (f : PwrSt → PwrSt) : (s.modPwr f).sec = s.sec := (rfl)
@[simp] theorem State.modPwr_pins (f : PwrSt → PwrSt) : (s.modPwr f).pins = s.pins := (rfl)
@[simp] theorem State.modPwr_pwr (f : PwrSt → PwrSt) : (s.modPwr f).pwr = f s.pwr := (rfl)
@[simp] theorem State.modPwr_busData (f : PwrSt → PwrSt) : (s.modPwr f).busData = s.busData := (rfl)
@[simp] theorem State.modPwr_sent (f : PwrSt → PwrSt) : (s.modPwr f).sent = s.sent := (rfl)
@[simp] theorem State.modPwr_freshCount (f : PwrSt → PwrSt) : (s.modPwr f).freshCount = s.freshCount := (rfl)
@[simp] theorem State.modPwr_pending (f : PwrSt → PwrSt) : (s.modPwr f).pending = s.pending := (rfl)

/-! ### `State.modHealth` -/

@[simp] theorem State.modHealth_fields (f : HealthSt → HealthSt) : (s.modHealth f).fields = s.fields := (rfl)
@[simp] theorem State.modHealth_shadows (f : HealthSt → HealthSt) : (s.modHealth f).shadows = s.shadows := (rfl)
@[simp] theorem State.modHealth_pages (f : HealthSt → HealthSt) : (s.modHealth f).pages = s.pages := (rfl)
@[simp] theorem State.modHealth_units (f : HealthSt → HealthSt) : (s.modHealth f).units = s.units := (rfl)
@[simp] theorem State.modHealth_mem (f : HealthSt → HealthSt) : (s.modHealth f).mem = s.mem := (rfl)
@[simp] theorem State.modHealth_time (f : HealthSt → HealthSt) : (s.modHealth f).time = s.time := (rfl)
@[simp] theorem State.modHealth_irt (f : HealthSt → HealthSt) : (s.modHealth f).irt = s.irt := (rfl)
@[simp] theorem State.modHealth_adm (f : HealthSt → HealthSt) : (s.modHealth f).adm = s.adm := (rfl)
@[simp] theorem State.modHealth_read (f : HealthSt → HealthSt) : (s.modHealth f).read = s.read := (rfl)
@[simp] theorem State.modHealth_write (f : HealthSt → HealthSt) : (s.modHealth f).write = s.write := (rfl)
@[simp] theorem State.modHealth_vat (f : HealthSt → HealthSt) : (s.modHealth f).vat = s.vat := (rfl)
@[simp] theorem State.modHealth_ftl (f : HealthSt → HealthSt) : (s.modHealth f).ftl = s.ftl := (rfl)
@[simp] theorem State.modHealth_media (f : HealthSt → HealthSt) : (s.modHealth f).media = s.media := (rfl)
@[simp] theorem State.modHealth_pair (f : HealthSt → HealthSt) : (s.modHealth f).pair = s.pair := (rfl)
@[simp] theorem State.modHealth_health (f : HealthSt → HealthSt) : (s.modHealth f).health = f s.health := (rfl)
@[simp] theorem State.modHealth_slices (f : HealthSt → HealthSt) : (s.modHealth f).slices = s.slices := (rfl)
@[simp] theorem State.modHealth_mbx (f : HealthSt → HealthSt) : (s.modHealth f).mbx = s.mbx := (rfl)
@[simp] theorem State.modHealth_host (f : HealthSt → HealthSt) : (s.modHealth f).host = s.host := (rfl)
@[simp] theorem State.modHealth_ldt (f : HealthSt → HealthSt) : (s.modHealth f).ldt = s.ldt := (rfl)
@[simp] theorem State.modHealth_fab (f : HealthSt → HealthSt) : (s.modHealth f).fab = s.fab := (rfl)
@[simp] theorem State.modHealth_flash (f : HealthSt → HealthSt) : (s.modHealth f).flash = s.flash := (rfl)
@[simp] theorem State.modHealth_sec (f : HealthSt → HealthSt) : (s.modHealth f).sec = s.sec := (rfl)
@[simp] theorem State.modHealth_pins (f : HealthSt → HealthSt) : (s.modHealth f).pins = s.pins := (rfl)
@[simp] theorem State.modHealth_pwr (f : HealthSt → HealthSt) : (s.modHealth f).pwr = s.pwr := (rfl)
@[simp] theorem State.modHealth_busData (f : HealthSt → HealthSt) : (s.modHealth f).busData = s.busData := (rfl)
@[simp] theorem State.modHealth_sent (f : HealthSt → HealthSt) : (s.modHealth f).sent = s.sent := (rfl)
@[simp] theorem State.modHealth_freshCount (f : HealthSt → HealthSt) : (s.modHealth f).freshCount = s.freshCount := (rfl)
@[simp] theorem State.modHealth_pending (f : HealthSt → HealthSt) : (s.modHealth f).pending = s.pending := (rfl)

/-! ### `State.modSlice` -/

@[simp] theorem State.modSlice_fields (i : Nat) (f : SliceSt → SliceSt) : (s.modSlice i f).fields = s.fields := (rfl)
@[simp] theorem State.modSlice_shadows (i : Nat) (f : SliceSt → SliceSt) : (s.modSlice i f).shadows = s.shadows := (rfl)
@[simp] theorem State.modSlice_pages (i : Nat) (f : SliceSt → SliceSt) : (s.modSlice i f).pages = s.pages := (rfl)
@[simp] theorem State.modSlice_units (i : Nat) (f : SliceSt → SliceSt) : (s.modSlice i f).units = s.units := (rfl)
@[simp] theorem State.modSlice_mem (i : Nat) (f : SliceSt → SliceSt) : (s.modSlice i f).mem = s.mem := (rfl)
@[simp] theorem State.modSlice_time (i : Nat) (f : SliceSt → SliceSt) : (s.modSlice i f).time = s.time := (rfl)
@[simp] theorem State.modSlice_irt (i : Nat) (f : SliceSt → SliceSt) : (s.modSlice i f).irt = s.irt := (rfl)
@[simp] theorem State.modSlice_adm (i : Nat) (f : SliceSt → SliceSt) : (s.modSlice i f).adm = s.adm := (rfl)
@[simp] theorem State.modSlice_read (i : Nat) (f : SliceSt → SliceSt) : (s.modSlice i f).read = s.read := (rfl)
@[simp] theorem State.modSlice_write (i : Nat) (f : SliceSt → SliceSt) : (s.modSlice i f).write = s.write := (rfl)
@[simp] theorem State.modSlice_vat (i : Nat) (f : SliceSt → SliceSt) : (s.modSlice i f).vat = s.vat := (rfl)
@[simp] theorem State.modSlice_ftl (i : Nat) (f : SliceSt → SliceSt) : (s.modSlice i f).ftl = s.ftl := (rfl)
@[simp] theorem State.modSlice_media (i : Nat) (f : SliceSt → SliceSt) : (s.modSlice i f).media = s.media := (rfl)
@[simp] theorem State.modSlice_pair (i : Nat) (f : SliceSt → SliceSt) : (s.modSlice i f).pair = s.pair := (rfl)
@[simp] theorem State.modSlice_health (i : Nat) (f : SliceSt → SliceSt) : (s.modSlice i f).health = s.health := (rfl)
@[simp] theorem State.modSlice_slices (i : Nat) (f : SliceSt → SliceSt) : (s.modSlice i f).slices = AL.upd i {} f s.slices := (rfl)
@[simp] theorem State.modSlice_mbx (i : Nat) (f : SliceSt → SliceSt) : (s.modSlice i f).mbx = s.mbx := (rfl)
@[simp] theorem State.modSlice_host (i : Nat) (f : SliceSt → SliceSt) : (s.modSlice i f).host = s.host := (rfl)
@[simp] theorem State.modSlice_ldt (i : Nat) (f : SliceSt → SliceSt) : (s.modSlice i f).ldt = s.ldt := (rfl)
@[simp] theorem State.modSlice_fab (i : Nat) (f : SliceSt → SliceSt) : (s.modSlice i f).fab = s.fab := (rfl)
@[simp] theorem State.modSlice_flash (i : Nat) (f : SliceSt → SliceSt) : (s.modSlice i f).flash = s.flash := (rfl)
@[simp] theorem State.modSlice_sec (i : Nat) (f : SliceSt → SliceSt) : (s.modSlice i f).sec = s.sec := (rfl)
@[simp] theorem State.modSlice_pins (i : Nat) (f : SliceSt → SliceSt) : (s.modSlice i f).pins = s.pins := (rfl)
@[simp] theorem State.modSlice_pwr (i : Nat) (f : SliceSt → SliceSt) : (s.modSlice i f).pwr = s.pwr := (rfl)
@[simp] theorem State.modSlice_busData (i : Nat) (f : SliceSt → SliceSt) : (s.modSlice i f).busData = s.busData := (rfl)
@[simp] theorem State.modSlice_sent (i : Nat) (f : SliceSt → SliceSt) : (s.modSlice i f).sent = s.sent := (rfl)
@[simp] theorem State.modSlice_freshCount (i : Nat) (f : SliceSt → SliceSt) : (s.modSlice i f).freshCount = s.freshCount := (rfl)
@[simp] theorem State.modSlice_pending (i : Nat) (f : SliceSt → SliceSt) : (s.modSlice i f).pending = s.pending := (rfl)

/-! ### `State.send` -/

@[simp] theorem State.send_fields (d : Dest) (k : Nat) (l : List Nat) : (s.send d k l).fields = s.fields := by unfold State.send State.sendOut; split <;> rfl
@[simp] theorem State.send_shadows (d : Dest) (k : Nat) (l : List Nat) : (s.send d k l).shadows = s.shadows := by unfold State.send State.sendOut; split <;> rfl
@[simp] theorem State.send_pages (d : Dest) (k : Nat) (l : List Nat) : (s.send d k l).pages = s.pages := by unfold State.send State.sendOut; split <;> rfl
@[simp] theorem State.send_units (d : Dest) (k : Nat) (l : List Nat) : (s.send d k l).units = s.units := by unfold State.send State.sendOut; split <;> rfl
@[simp] theorem State.send_mem (d : Dest) (k : Nat) (l : List Nat) : (s.send d k l).mem = s.mem := by unfold State.send State.sendOut; split <;> rfl
@[simp] theorem State.send_time (d : Dest) (k : Nat) (l : List Nat) : (s.send d k l).time = s.time := by unfold State.send State.sendOut; split <;> rfl
@[simp] theorem State.send_irt (d : Dest) (k : Nat) (l : List Nat) : (s.send d k l).irt = s.irt := by unfold State.send State.sendOut; split <;> rfl
@[simp] theorem State.send_adm (d : Dest) (k : Nat) (l : List Nat) : (s.send d k l).adm = s.adm := by unfold State.send State.sendOut; split <;> rfl
@[simp] theorem State.send_read (d : Dest) (k : Nat) (l : List Nat) : (s.send d k l).read = s.read := by unfold State.send State.sendOut; split <;> rfl
@[simp] theorem State.send_write (d : Dest) (k : Nat) (l : List Nat) : (s.send d k l).write = s.write := by unfold State.send State.sendOut; split <;> rfl
@[simp] theorem State.send_vat (d : Dest) (k : Nat) (l : List Nat) : (s.send d k l).vat = s.vat := by unfold State.send State.sendOut; split <;> rfl
@[simp] theorem State.send_ftl (d : Dest) (k : Nat) (l : List Nat) : (s.send d k l).ftl = s.ftl := by unfold State.send State.sendOut; split <;> rfl
@[simp] theorem State.send_media (d : Dest) (k : Nat) (l : List Nat) : (s.send d k l).media = s.media := by unfold State.send State.sendOut; split <;> rfl
@[simp] theorem State.send_pair (d : Dest) (k : Nat) (l : List Nat) : (s.send d k l).pair = s.pair := by unfold State.send State.sendOut; split <;> rfl
@[simp] theorem State.send_health (d : Dest) (k : Nat) (l : List Nat) : (s.send d k l).health = s.health := by unfold State.send State.sendOut; split <;> rfl
@[simp] theorem State.send_slices (d : Dest) (k : Nat) (l : List Nat) : (s.send d k l).slices = s.slices := by unfold State.send State.sendOut; split <;> rfl
@[simp] theorem State.send_mbx (d : Dest) (k : Nat) (l : List Nat) : (s.send d k l).mbx = s.mbx := by unfold State.send State.sendOut; split <;> rfl
@[simp] theorem State.send_host (d : Dest) (k : Nat) (l : List Nat) : (s.send d k l).host = s.host := by unfold State.send State.sendOut; split <;> rfl
@[simp] theorem State.send_ldt (d : Dest) (k : Nat) (l : List Nat) : (s.send d k l).ldt = s.ldt := by unfold State.send State.sendOut; split <;> rfl
@[simp] theorem State.send_fab (d : Dest) (k : Nat) (l : List Nat) : (s.send d k l).fab = s.fab := by unfold State.send State.sendOut; split <;> rfl
@[simp] theorem State.send_flash (d : Dest) (k : Nat) (l : List Nat) : (s.send d k l).flash = s.flash := by unfold State.send State.sendOut; split <;> rfl
@[simp] theorem State.send_sec (d : Dest) (k : Nat) (l : List Nat) : (s.send d k l).sec = s.sec := by unfold State.send State.sendOut; split <;> rfl
@[simp] theorem State.send_pins (d : Dest) (k : Nat) (l : List Nat) : (s.send d k l).pins = s.pins := by unfold State.send State.sendOut; split <;> rfl
@[simp] theorem State.send_pwr (d : Dest) (k : Nat) (l : List Nat) : (s.send d k l).pwr = s.pwr := by unfold State.send State.sendOut; split <;> rfl
@[simp] theorem State.send_busData (d : Dest) (k : Nat) (l : List Nat) : (s.send d k l).busData = s.busData := by unfold State.send State.sendOut; split <;> rfl
@[simp] theorem State.send_sent (d : Dest) (k : Nat) (l : List Nat) : (s.send d k l).sent = if s.maySend d k then { dest := d, kind := k, args := l } :: s.sent else s.sent := by unfold State.send State.sendOut; split <;> rfl
@[simp] theorem State.send_freshCount (d : Dest) (k : Nat) (l : List Nat) : (s.send d k l).freshCount = s.freshCount := by unfold State.send State.sendOut; split <;> rfl
@[simp] theorem State.send_pending (d : Dest) (k : Nat) (l : List Nat) : (s.send d k l).pending = s.pending := by unfold State.send State.sendOut; split <;> rfl

end Sys2Proof.Machine
end

