-- ==== Sys2Proof/Laws/Access.lean ====
section
/-! SUPPORT. What the named updates leave of what the accessors read: a field, a page header, a unit, a request, a lease, a
connection. True by unfolding. -/

namespace Sys2Proof.Machine

variable (s : State)

/-! ### After `State.set` -/

@[simp] theorem State.hdr_set (f : Fld) (v : Nat) (q : Nat) : (s.set f v).hdr q = s.hdr q := (rfl)
@[simp] theorem State.unit_set (f : Fld) (v : Nat) (u : Nat) : (s.set f v).unit u = s.unit u := (rfl)
@[simp] theorem State.req_set (f : Fld) (v : Nat) (t : Nat) : (s.set f v).req t = s.req t := (rfl)
@[simp] theorem State.lease_set (f : Fld) (v : Nat) (sh : Nat) : (s.set f v).lease sh = s.lease sh := (rfl)
@[simp] theorem State.conn_set (f : Fld) (v : Nat) (n : Nat) : (s.set f v).conn n = s.conn n := (rfl)

/-! ### After `State.modHdr` -/

@[simp] theorem State.get_modHdr (p : Nat) (f : PageHdr → PageHdr) (g : Fld) : (s.modHdr p f).get g = s.get g := (rfl)
@[simp] theorem State.unit_modHdr (p : Nat) (f : PageHdr → PageHdr) (u : Nat) : (s.modHdr p f).unit u = s.unit u := (rfl)
@[simp] theorem State.req_modHdr (p : Nat) (f : PageHdr → PageHdr) (t : Nat) : (s.modHdr p f).req t = s.req t := (rfl)
@[simp] theorem State.lease_modHdr (p : Nat) (f : PageHdr → PageHdr) (sh : Nat) : (s.modHdr p f).lease sh = s.lease sh := (rfl)
@[simp] theorem State.conn_modHdr (p : Nat) (f : PageHdr → PageHdr) (n : Nat) : (s.modHdr p f).conn n = s.conn n := (rfl)

/-! ### After `State.setUnit` -/

@[simp] theorem State.get_setUnit (k : Nat) (x : BlockUnit) (g : Fld) : (s.setUnit k x).get g = s.get g := (rfl)
@[simp] theorem State.hdr_setUnit (k : Nat) (x : BlockUnit) (q : Nat) : (s.setUnit k x).hdr q = s.hdr q := (rfl)
@[simp] theorem State.req_setUnit (k : Nat) (x : BlockUnit) (t : Nat) : (s.setUnit k x).req t = s.req t := (rfl)
@[simp] theorem State.lease_setUnit (k : Nat) (x : BlockUnit) (sh : Nat) : (s.setUnit k x).lease sh = s.lease sh := (rfl)
@[simp] theorem State.conn_setUnit (k : Nat) (x : BlockUnit) (n : Nat) : (s.setUnit k x).conn n = s.conn n := (rfl)

/-! ### After `State.answer` -/

@[simp] theorem State.get_answer (v : Nat) (g : Fld) : (s.answer v).get g = s.get g := (rfl)
@[simp] theorem State.hdr_answer (v : Nat) (q : Nat) : (s.answer v).hdr q = s.hdr q := (rfl)
@[simp] theorem State.unit_answer (v : Nat) (u : Nat) : (s.answer v).unit u = s.unit u := (rfl)
@[simp] theorem State.req_answer (v : Nat) (t : Nat) : (s.answer v).req t = s.req t := (rfl)
@[simp] theorem State.lease_answer (v : Nat) (sh : Nat) : (s.answer v).lease sh = s.lease sh := (rfl)
@[simp] theorem State.conn_answer (v : Nat) (n : Nat) : (s.answer v).conn n = s.conn n := (rfl)

/-! ### After `State.wrLE` -/

@[simp] theorem State.get_wrLE (a n v : Nat) (g : Fld) : (s.wrLE a n v).get g = s.get g := (rfl)
@[simp] theorem State.hdr_wrLE (a n v : Nat) (q : Nat) : (s.wrLE a n v).hdr q = s.hdr q := (rfl)
@[simp] theorem State.unit_wrLE (a n v : Nat) (u : Nat) : (s.wrLE a n v).unit u = s.unit u := (rfl)
@[simp] theorem State.req_wrLE (a n v : Nat) (t : Nat) : (s.wrLE a n v).req t = s.req t := (rfl)
@[simp] theorem State.lease_wrLE (a n v : Nat) (sh : Nat) : (s.wrLE a n v).lease sh = s.lease sh := (rfl)
@[simp] theorem State.conn_wrLE (a n v : Nat) (n : Nat) : (s.wrLE a n v).conn n = s.conn n := (rfl)

/-! ### After `State.wrBytes` -/

@[simp] theorem State.get_wrBytes (a : Nat) (l : List Nat) (g : Fld) : (s.wrBytes a l).get g = s.get g := (rfl)
@[simp] theorem State.hdr_wrBytes (a : Nat) (l : List Nat) (q : Nat) : (s.wrBytes a l).hdr q = s.hdr q := (rfl)
@[simp] theorem State.unit_wrBytes (a : Nat) (l : List Nat) (u : Nat) : (s.wrBytes a l).unit u = s.unit u := (rfl)
@[simp] theorem State.req_wrBytes (a : Nat) (l : List Nat) (t : Nat) : (s.wrBytes a l).req t = s.req t := (rfl)
@[simp] theorem State.lease_wrBytes (a : Nat) (l : List Nat) (sh : Nat) : (s.wrBytes a l).lease sh = s.lease sh := (rfl)
@[simp] theorem State.conn_wrBytes (a : Nat) (l : List Nat) (n : Nat) : (s.wrBytes a l).conn n = s.conn n := (rfl)

/-! ### After `State.modTime` -/

@[simp] theorem State.get_modTime (f : TimeSt → TimeSt) (g : Fld) : (s.modTime f).get g = s.get g := (rfl)
@[simp] theorem State.hdr_modTime (f : TimeSt → TimeSt) (q : Nat) : (s.modTime f).hdr q = s.hdr q := (rfl)
@[simp] theorem State.unit_modTime (f : TimeSt → TimeSt) (u : Nat) : (s.modTime f).unit u = s.unit u := (rfl)
@[simp] theorem State.req_modTime (f : TimeSt → TimeSt) (t : Nat) : (s.modTime f).req t = s.req t := (rfl)
@[simp] theorem State.lease_modTime (f : TimeSt → TimeSt) (sh : Nat) : (s.modTime f).lease sh = s.lease sh := (rfl)
@[simp] theorem State.conn_modTime (f : TimeSt → TimeSt) (n : Nat) : (s.modTime f).conn n = s.conn n := (rfl)

/-! ### After `State.modHost` -/

@[simp] theorem State.get_modHost (f : HostSt → HostSt) (g : Fld) : (s.modHost f).get g = s.get g := (rfl)
@[simp] theorem State.hdr_modHost (f : HostSt → HostSt) (q : Nat) : (s.modHost f).hdr q = s.hdr q := (rfl)
@[simp] theorem State.unit_modHost (f : HostSt → HostSt) (u : Nat) : (s.modHost f).unit u = s.unit u := (rfl)
@[simp] theorem State.req_modHost (f : HostSt → HostSt) (t : Nat) : (s.modHost f).req t = s.req t := (rfl)
@[simp] theorem State.lease_modHost (f : HostSt → HostSt) (sh : Nat) : (s.modHost f).lease sh = s.lease sh := (rfl)

/-! ### After `State.modRead` -/

@[simp] theorem State.get_modRead (f : ReadSt → ReadSt) (g : Fld) : (s.modRead f).get g = s.get g := (rfl)
@[simp] theorem State.hdr_modRead (f : ReadSt → ReadSt) (q : Nat) : (s.modRead f).hdr q = s.hdr q := (rfl)
@[simp] theorem State.unit_modRead (f : ReadSt → ReadSt) (u : Nat) : (s.modRead f).unit u = s.unit u := (rfl)
@[simp] theorem State.req_modRead (f : ReadSt → ReadSt) (t : Nat) : (s.modRead f).req t = s.req t := (rfl)
@[simp] theorem State.lease_modRead (f : ReadSt → ReadSt) (sh : Nat) : (s.modRead f).lease sh = s.lease sh := (rfl)
@[simp] theorem State.conn_modRead (f : ReadSt → ReadSt) (n : Nat) : (s.modRead f).conn n = s.conn n := (rfl)

/-! ### After `State.modWrite` -/

@[simp] theorem State.get_modWrite (f : WriteSt → WriteSt) (g : Fld) : (s.modWrite f).get g = s.get g := (rfl)
@[simp] theorem State.hdr_modWrite (f : WriteSt → WriteSt) (q : Nat) : (s.modWrite f).hdr q = s.hdr q := (rfl)
@[simp] theorem State.unit_modWrite (f : WriteSt → WriteSt) (u : Nat) : (s.modWrite f).unit u = s.unit u := (rfl)
@[simp] theorem State.req_modWrite (f : WriteSt → WriteSt) (t : Nat) : (s.modWrite f).req t = s.req t := (rfl)
@[simp] theorem State.lease_modWrite (f : WriteSt → WriteSt) (sh : Nat) : (s.modWrite f).lease sh = s.lease sh := (rfl)
@[simp] theorem State.conn_modWrite (f : WriteSt → WriteSt) (n : Nat) : (s.modWrite f).conn n = s.conn n := (rfl)

/-! ### After `State.modVat` -/

@[simp] theorem State.get_modVat (f : VatSt → VatSt) (g : Fld) : (s.modVat f).get g = s.get g := (rfl)
@[simp] theorem State.hdr_modVat (f : VatSt → VatSt) (q : Nat) : (s.modVat f).hdr q = s.hdr q := (rfl)
@[simp] theorem State.unit_modVat (f : VatSt → VatSt) (u : Nat) : (s.modVat f).unit u = s.unit u := (rfl)
@[simp] theorem State.req_modVat (f : VatSt → VatSt) (t : Nat) : (s.modVat f).req t = s.req t := (rfl)
@[simp] theorem State.lease_modVat (f : VatSt → VatSt) (sh : Nat) : (s.modVat f).lease sh = s.lease sh := (rfl)
@[simp] theorem State.conn_modVat (f : VatSt → VatSt) (n : Nat) : (s.modVat f).conn n = s.conn n := (rfl)

/-! ### After `State.modFtl` -/

@[simp] theorem State.get_modFtl (f : FtlSt → FtlSt) (g : Fld) : (s.modFtl f).get g = s.get g := (rfl)
@[simp] theorem State.hdr_modFtl (f : FtlSt → FtlSt) (q : Nat) : (s.modFtl f).hdr q = s.hdr q := (rfl)
@[simp] theorem State.unit_modFtl (f : FtlSt → FtlSt) (u : Nat) : (s.modFtl f).unit u = s.unit u := (rfl)
@[simp] theorem State.req_modFtl (f : FtlSt → FtlSt) (t : Nat) : (s.modFtl f).req t = s.req t := (rfl)
@[simp] theorem State.lease_modFtl (f : FtlSt → FtlSt) (sh : Nat) : (s.modFtl f).lease sh = s.lease sh := (rfl)
@[simp] theorem State.conn_modFtl (f : FtlSt → FtlSt) (n : Nat) : (s.modFtl f).conn n = s.conn n := (rfl)

/-! ### After `State.modMedia` -/

@[simp] theorem State.get_modMedia (f : MediaSt → MediaSt) (g : Fld) : (s.modMedia f).get g = s.get g := (rfl)
@[simp] theorem State.hdr_modMedia (f : MediaSt → MediaSt) (q : Nat) : (s.modMedia f).hdr q = s.hdr q := (rfl)
@[simp] theorem State.unit_modMedia (f : MediaSt → MediaSt) (u : Nat) : (s.modMedia f).unit u = s.unit u := (rfl)
@[simp] theorem State.req_modMedia (f : MediaSt → MediaSt) (t : Nat) : (s.modMedia f).req t = s.req t := (rfl)
@[simp] theorem State.lease_modMedia (f : MediaSt → MediaSt) (sh : Nat) : (s.modMedia f).lease sh = s.lease sh := (rfl)
@[simp] theorem State.conn_modMedia (f : MediaSt → MediaSt) (n : Nat) : (s.modMedia f).conn n = s.conn n := (rfl)

/-! ### After `State.modPair` -/

@[simp] theorem State.get_modPair (f : PairSt → PairSt) (g : Fld) : (s.modPair f).get g = s.get g := (rfl)
@[simp] theorem State.hdr_modPair (f : PairSt → PairSt) (q : Nat) : (s.modPair f).hdr q = s.hdr q := (rfl)
@[simp] theorem State.unit_modPair (f : PairSt → PairSt) (u : Nat) : (s.modPair f).unit u = s.unit u := (rfl)
@[simp] theorem State.req_modPair (f : PairSt → PairSt) (t : Nat) : (s.modPair f).req t = s.req t := (rfl)
@[simp] theorem State.conn_modPair (f : PairSt → PairSt) (n : Nat) : (s.modPair f).conn n = s.conn n := (rfl)

/-! ### After `State.modMbx` -/

@[simp] theorem State.get_modMbx (f : MbxSt → MbxSt) (g : Fld) : (s.modMbx f).get g = s.get g := (rfl)
@[simp] theorem State.hdr_modMbx (f : MbxSt → MbxSt) (q : Nat) : (s.modMbx f).hdr q = s.hdr q := (rfl)
@[simp] theorem State.unit_modMbx (f : MbxSt → MbxSt) (u : Nat) : (s.modMbx f).unit u = s.unit u := (rfl)
@[simp] theorem State.req_modMbx (f : MbxSt → MbxSt) (t : Nat) : (s.modMbx f).req t = s.req t := (rfl)
@[simp] theorem State.lease_modMbx (f : MbxSt → MbxSt) (sh : Nat) : (s.modMbx f).lease sh = s.lease sh := (rfl)
@[simp] theorem State.conn_modMbx (f : MbxSt → MbxSt) (n : Nat) : (s.modMbx f).conn n = s.conn n := (rfl)

/-! ### After `State.modSec` -/

@[simp] theorem State.get_modSec (f : SecSt → SecSt) (g : Fld) : (s.modSec f).get g = s.get g := (rfl)
@[simp] theorem State.hdr_modSec (f : SecSt → SecSt) (q : Nat) : (s.modSec f).hdr q = s.hdr q := (rfl)
@[simp] theorem State.unit_modSec (f : SecSt → SecSt) (u : Nat) : (s.modSec f).unit u = s.unit u := (rfl)
@[simp] theorem State.req_modSec (f : SecSt → SecSt) (t : Nat) : (s.modSec f).req t = s.req t := (rfl)
@[simp] theorem State.lease_modSec (f : SecSt → SecSt) (sh : Nat) : (s.modSec f).lease sh = s.lease sh := (rfl)
@[simp] theorem State.conn_modSec (f : SecSt → SecSt) (n : Nat) : (s.modSec f).conn n = s.conn n := (rfl)

/-! ### After `State.modFlash` -/

@[simp] theorem State.get_modFlash (f : FlashSt → FlashSt) (g : Fld) : (s.modFlash f).get g = s.get g := (rfl)
@[simp] theorem State.hdr_modFlash (f : FlashSt → FlashSt) (q : Nat) : (s.modFlash f).hdr q = s.hdr q := (rfl)
@[simp] theorem State.unit_modFlash (f : FlashSt → FlashSt) (u : Nat) : (s.modFlash f).unit u = s.unit u := (rfl)
@[simp] theorem State.req_modFlash (f : FlashSt → FlashSt) (t : Nat) : (s.modFlash f).req t = s.req t := (rfl)
@[simp] theorem State.lease_modFlash (f : FlashSt → FlashSt) (sh : Nat) : (s.modFlash f).lease sh = s.lease sh := (rfl)
@[simp] theorem State.conn_modFlash (f : FlashSt → FlashSt) (n : Nat) : (s.modFlash f).conn n = s.conn n := (rfl)

/-! ### After `State.modLdt` -/

@[simp] theorem State.get_modLdt (f : LdtSt → LdtSt) (g : Fld) : (s.modLdt f).get g = s.get g := (rfl)
@[simp] theorem State.hdr_modLdt (f : LdtSt → LdtSt) (q : Nat) : (s.modLdt f).hdr q = s.hdr q := (rfl)
@[simp] theorem State.unit_modLdt (f : LdtSt → LdtSt) (u : Nat) : (s.modLdt f).unit u = s.unit u := (rfl)
@[simp] theorem State.req_modLdt (f : LdtSt → LdtSt) (t : Nat) : (s.modLdt f).req t = s.req t := (rfl)
@[simp] theorem State.lease_modLdt (f : LdtSt → LdtSt) (sh : Nat) : (s.modLdt f).lease sh = s.lease sh := (rfl)
@[simp] theorem State.conn_modLdt (f : LdtSt → LdtSt) (n : Nat) : (s.modLdt f).conn n = s.conn n := (rfl)

/-! ### After `State.modFab` -/

@[simp] theorem State.get_modFab (f : FabSt → FabSt) (g : Fld) : (s.modFab f).get g = s.get g := (rfl)
@[simp] theorem State.hdr_modFab (f : FabSt → FabSt) (q : Nat) : (s.modFab f).hdr q = s.hdr q := (rfl)
@[simp] theorem State.unit_modFab (f : FabSt → FabSt) (u : Nat) : (s.modFab f).unit u = s.unit u := (rfl)
@[simp] theorem State.req_modFab (f : FabSt → FabSt) (t : Nat) : (s.modFab f).req t = s.req t := (rfl)
@[simp] theorem State.lease_modFab (f : FabSt → FabSt) (sh : Nat) : (s.modFab f).lease sh = s.lease sh := (rfl)
@[simp] theorem State.conn_modFab (f : FabSt → FabSt) (n : Nat) : (s.modFab f).conn n = s.conn n := (rfl)

/-! ### After `State.modPwr` -/

@[simp] theorem State.get_modPwr (f : PwrSt → PwrSt) (g : Fld) : (s.modPwr f).get g = s.get g := (rfl)
@[simp] theorem State.hdr_modPwr (f : PwrSt → PwrSt) (q : Nat) : (s.modPwr f).hdr q = s.hdr q := (rfl)
@[simp] theorem State.unit_modPwr (f : PwrSt → PwrSt) (u : Nat) : (s.modPwr f).unit u = s.unit u := (rfl)
@[simp] theorem State.req_modPwr (f : PwrSt → PwrSt) (t : Nat) : (s.modPwr f).req t = s.req t := (rfl)
@[simp] theorem State.lease_modPwr (f : PwrSt → PwrSt) (sh : Nat) : (s.modPwr f).lease sh = s.lease sh := (rfl)
@[simp] theorem State.conn_modPwr (f : PwrSt → PwrSt) (n : Nat) : (s.modPwr f).conn n = s.conn n := (rfl)

/-! ### After `State.modHealth` -/

@[simp] theorem State.get_modHealth (f : HealthSt → HealthSt) (g : Fld) : (s.modHealth f).get g = s.get g := (rfl)
@[simp] theorem State.hdr_modHealth (f : HealthSt → HealthSt) (q : Nat) : (s.modHealth f).hdr q = s.hdr q := (rfl)
@[simp] theorem State.unit_modHealth (f : HealthSt → HealthSt) (u : Nat) : (s.modHealth f).unit u = s.unit u := (rfl)
@[simp] theorem State.req_modHealth (f : HealthSt → HealthSt) (t : Nat) : (s.modHealth f).req t = s.req t := (rfl)
@[simp] theorem State.lease_modHealth (f : HealthSt → HealthSt) (sh : Nat) : (s.modHealth f).lease sh = s.lease sh := (rfl)
@[simp] theorem State.conn_modHealth (f : HealthSt → HealthSt) (n : Nat) : (s.modHealth f).conn n = s.conn n := (rfl)

/-! ### After `State.modSlice` -/

@[simp] theorem State.get_modSlice (i : Nat) (f : SliceSt → SliceSt) (g : Fld) : (s.modSlice i f).get g = s.get g := (rfl)
@[simp] theorem State.hdr_modSlice (i : Nat) (f : SliceSt → SliceSt) (q : Nat) : (s.modSlice i f).hdr q = s.hdr q := (rfl)
@[simp] theorem State.unit_modSlice (i : Nat) (f : SliceSt → SliceSt) (u : Nat) : (s.modSlice i f).unit u = s.unit u := (rfl)
@[simp] theorem State.req_modSlice (i : Nat) (f : SliceSt → SliceSt) (t : Nat) : (s.modSlice i f).req t = s.req t := (rfl)
@[simp] theorem State.lease_modSlice (i : Nat) (f : SliceSt → SliceSt) (sh : Nat) : (s.modSlice i f).lease sh = s.lease sh := (rfl)
@[simp] theorem State.conn_modSlice (i : Nat) (f : SliceSt → SliceSt) (n : Nat) : (s.modSlice i f).conn n = s.conn n := (rfl)

/-! ### After `State.send` -/

@[simp] theorem State.get_send (d : Dest) (k : Nat) (l : List Nat) (g : Fld) : (s.send d k l).get g = s.get g := by unfold State.send State.sendOut; split <;> rfl
@[simp] theorem State.hdr_send (d : Dest) (k : Nat) (l : List Nat) (q : Nat) : (s.send d k l).hdr q = s.hdr q := by unfold State.send State.sendOut; split <;> rfl
@[simp] theorem State.unit_send (d : Dest) (k : Nat) (l : List Nat) (u : Nat) : (s.send d k l).unit u = s.unit u := by unfold State.send State.sendOut; split <;> rfl
@[simp] theorem State.req_send (d : Dest) (k : Nat) (l : List Nat) (t : Nat) : (s.send d k l).req t = s.req t := by unfold State.send State.sendOut; split <;> rfl
@[simp] theorem State.lease_send (d : Dest) (k : Nat) (l : List Nat) (sh : Nat) : (s.send d k l).lease sh = s.lease sh := by unfold State.send State.sendOut; split <;> rfl
@[simp] theorem State.conn_send (d : Dest) (k : Nat) (l : List Nat) (n : Nat) : (s.send d k l).conn n = s.conn n := by unfold State.send State.sendOut; split <;> rfl

end Sys2Proof.Machine
end

