-- ==== Sys2Proof/Laws/Assoc.lean ====
section
/-! SUPPORT. Association lists and memory: what is read after a write, and that every write keeps the canonical form. -/

namespace Sys2Proof.Machine

variable {α : Type}

/-- What is put under a key is found there. -/
@[simp] theorem AL.get_put_same (k : Nat) (a : α) : ∀ m : List (Nat × α), AL.get k (AL.put k a m) = some a := by
  intro m
  induction m with
  | nil => simp [AL.put, AL.get]
  | cons c t ih =>
    obtain ⟨j, b⟩ := c
    unfold AL.put
    split
    · rename_i h; simp [AL.get, ih, show j ≠ k by omega]
    · split <;> simp [AL.get]

/-- Other keys keep their values. -/
theorem AL.get_put_ne {k l : Nat} (h : l ≠ k) (a : α) : ∀ m : List (Nat × α), AL.get l (AL.put k a m) = AL.get l m := by
  intro m
  induction m with
  | nil => simp [AL.put, AL.get, h.symm]
  | cons c t ih =>
    obtain ⟨j, b⟩ := c
    unfold AL.put
    split
    · simp [AL.get, ih]
    · split
      · rename_i hj; subst hj; simp [AL.get, h.symm]
      · simp [AL.get, h.symm]

/-- Nothing stands under a deleted key. -/
@[simp] theorem AL.get_del_same (k : Nat) : ∀ m : List (Nat × α), AL.get k (AL.del k m) = none := by
  intro m
  induction m with
  | nil => rfl
  | cons c t ih =>
    obtain ⟨j, b⟩ := c
    by_cases h : j = k
    · subst h; simpa [AL.del, List.filter_cons] using ih
    · have : AL.del k ((j, b) :: t) = (j, b) :: AL.del k t := by simp [AL.del, h]
      rw [this]; simp [AL.get, h, ih]

/-- Deleting a key leaves every other one. -/
theorem AL.get_del_ne {k l : Nat} (h : l ≠ k) : ∀ m : List (Nat × α), AL.get l (AL.del k m) = AL.get l m := by
  intro m
  induction m with
  | nil => rfl
  | cons c t ih =>
    obtain ⟨j, b⟩ := c
    by_cases hj : j = k
    · subst hj
      have : AL.del j ((j, b) :: t) = AL.del j t := by simp [AL.del]
      rw [this, ih]; simp [AL.get, h.symm]
    · have : AL.del k ((j, b) :: t) = (j, b) :: AL.del k t := by simp [AL.del, hj]
      rw [this]; simp [AL.get, ih]

/-- What a changed entry holds. -/
@[simp] theorem AL.get_upd_same (k : Nat) (d : α) (f : α → α) (m : List (Nat × α)) : AL.get k (AL.upd k d f m) = some (f (AL.getD k d m)) :=
  AL.get_put_same ..

/-- Changing an entry leaves every other one. -/
theorem AL.get_upd_ne {k l : Nat} (h : l ≠ k) (d : α) (f : α → α) (m : List (Nat × α)) : AL.get l (AL.upd k d f m) = AL.get l m :=
  AL.get_put_ne h ..

/-- Deleting keeps the keys rising. -/
theorem AL.sorted_del {α : Type} (k : Nat) : ∀ {m : List (Nat × α)}, AL.sorted m = true → AL.sorted (AL.del k m) = true := by
  have low : ∀ {m : List (Nat × α)}, AL.sorted m = true → List.Pairwise (fun a b => a.1 < b.1) m := by
    intro m
    induction m with
    | nil => intro _; exact List.Pairwise.nil
    | cons a t ih =>
      intro h
      cases t with
      | nil => exact List.pairwise_singleton _ _
      | cons b u =>
        obtain ⟨h1, h2⟩ := Bool.and_eq_true_iff.mp h
        have h1 : a.1 < b.1 := of_decide_eq_true h1
        have ih := ih h2
        refine List.pairwise_cons.mpr ⟨?_, ih⟩
        intro c hc
        rcases List.mem_cons.mp hc with rfl | hc
        · exact h1
        · exact h1.trans ((List.pairwise_cons.mp ih).1 c hc)
  have up : ∀ {m : List (Nat × α)}, List.Pairwise (fun a b => a.1 < b.1) m → AL.sorted m = true := by
    intro m
    induction m with
    | nil => intro _; rfl
    | cons a t ih =>
      intro h
      cases t with
      | nil => rfl
      | cons b u =>
        obtain ⟨h1, h2⟩ := List.pairwise_cons.mp h
        exact Bool.and_eq_true_iff.mpr ⟨decide_eq_true (h1 b (List.mem_cons_self ..)), ih h2⟩
  intro m h
  exact up ((low h).filter _)

/-- Putting keeps the keys rising. -/
theorem AL.sorted_put {α : Type} (k : Nat) (a : α) : ∀ {m : List (Nat × α)}, AL.sorted m = true → AL.sorted (AL.put k a m) = true := by
  have aux : ∀ (m : List (Nat × α)) (j : Nat) (b : α), j < k → AL.sorted ((j, b) :: m) = true → AL.sorted ((j, b) :: AL.put k a m) = true := by
    intro m
    induction m with
    | nil => intro j b hj _; exact Bool.and_eq_true_iff.mpr ⟨decide_eq_true hj, rfl⟩
    | cons c t ih =>
      intro j b hj h
      obtain ⟨h1, h2⟩ := Bool.and_eq_true_iff.mp h
      obtain ⟨i, d⟩ := c
      unfold AL.put
      split
      · rename_i hi
        exact Bool.and_eq_true_iff.mpr ⟨h1, ih i d hi h2⟩
      · split
        · rename_i hi; subst hi
          cases t with
          | nil => exact Bool.and_eq_true_iff.mpr ⟨h1, rfl⟩
          | cons e u => exact Bool.and_eq_true_iff.mpr ⟨h1, Bool.and_eq_true_iff.mpr (Bool.and_eq_true_iff.mp h2)⟩
        · rename_i n1 n2
          exact Bool.and_eq_true_iff.mpr ⟨decide_eq_true hj, Bool.and_eq_true_iff.mpr ⟨decide_eq_true (by omega), h2⟩⟩
  intro m h
  cases m with
  | nil => rfl
  | cons c t =>
    obtain ⟨i, d⟩ := c
    unfold AL.put
    split
    · rename_i hi; exact aux t i d hi h
    · split
      · rename_i hi; subst hi
        cases t with
        | nil => rfl
        | cons e u => exact Bool.and_eq_true_iff.mpr (Bool.and_eq_true_iff.mp h)
      · rename_i n1 n2
        exact Bool.and_eq_true_iff.mpr ⟨decide_eq_true (by omega), h⟩

/-- Putting a value that has a property keeps the property of all values. -/
theorem AL.all_put {α : Type} (p : α → Bool) (k : Nat) (a : α) (ha : p a = true) :
    ∀ {m : List (Nat × α)}, m.all (fun q => p q.2) = true → (AL.put k a m).all (fun q => p q.2) = true := by
  intro m
  induction m with
  | nil => intro _; simp [AL.put, ha]
  | cons c t ih =>
    intro h
    obtain ⟨i, d⟩ := c
    simp only [List.all_cons, Bool.and_eq_true] at h
    unfold AL.put
    split
    · simp [h.1, ih h.2]
    · split
      · simp [ha, h.2]
      · simp [ha, h.1, h.2]

/-- A write of one byte keeps the canonical form. -/
theorem Mem.wr_wf (a : Nat) (b : BitVec 8) {m : List Host.Cell} (h : Mem.wf m = true) : Mem.wf (Mem.wr a b m) = true := by
  obtain ⟨h1, h2⟩ := Bool.and_eq_true_iff.mp h
  unfold Mem.wr
  split
  · refine Bool.and_eq_true_iff.mpr ⟨AL.sorted_del a h1, ?_⟩
    rw [List.all_eq_true] at h2 ⊢
    intro q hq
    exact h2 q (List.mem_filter.mp hq).1
  · rename_i hb
    exact Bool.and_eq_true_iff.mpr ⟨AL.sorted_put a b h1, AL.all_put (fun x => x != Mem.blank) a b (by simpa using hb) h2⟩

/-- A write of bytes keeps the canonical form. -/
theorem Mem.wrs_wf {l : List (BitVec 8)} {a : Nat} {m : List Host.Cell} (h : Mem.wf m = true) : Mem.wf (Mem.wrs a l m) = true := by
  induction l generalizing a m with
  | nil => exact h
  | cons b t ih => exact ih (Mem.wr_wf a b h)

/-- A little-endian write keeps the canonical form. -/
theorem Mem.wrLE_wf {a n v : Nat} {m : List Host.Cell} (h : Mem.wf m = true) : Mem.wf (Mem.wrLE a n v m) = true := Mem.wrs_wf h

/-- The byte written is read back. -/
@[simp] theorem Mem.rd_wr_same (a : Nat) (b : BitVec 8) (m : List Host.Cell) : Mem.rd a (Mem.wr a b m) = b := by
  unfold Mem.rd Mem.wr AL.getD
  split
  · rename_i h; simp [h]
  · simp

/-- Every other byte stands as before. -/
theorem Mem.rd_wr_ne {a c : Nat} (h : c ≠ a) (b : BitVec 8) (m : List Host.Cell) : Mem.rd c (Mem.wr a b m) = Mem.rd c m := by
  unfold Mem.rd Mem.wr AL.getD
  split
  · rw [AL.get_del_ne h]
  · rw [AL.get_put_ne h]

/-- Bytes outside those written stand as before. -/
theorem Mem.rd_wrs_out {c : Nat} {l : List (BitVec 8)} {a : Nat} (m : List Host.Cell) (h : c < a ∨ a + l.length ≤ c) :
    Mem.rd c (Mem.wrs a l m) = Mem.rd c m := by
  induction l generalizing a m with
  | nil => rfl
  | cons b t ih =>
    simp only [List.length_cons] at h
    rw [Mem.wrs, ih _ (by omega), Mem.rd_wr_ne (by omega)]

/-- A written byte is read back. -/
theorem Mem.rd_wrs_in {l : List (BitVec 8)} {a i : Nat} (m : List Host.Cell) (h : i < l.length) : Mem.rd (a + i) (Mem.wrs a l m) = l[i] := by
  induction l generalizing a i m with
  | nil => simp at h
  | cons b t ih =>
    cases i with
    | zero => rw [Mem.wrs, Nat.add_zero, Mem.rd_wrs_out _ (by omega)]; simp
    | succ i =>
      have h : i < t.length := by simpa using h
      have e : a + (i + 1) = a + 1 + i := by omega
      rw [Mem.wrs, e, ih _ h]; rfl

/-- A number has as many little-endian bytes as asked. -/
@[simp] theorem Mem.leBytes_length (n v : Nat) : (Mem.leBytes n v).length = n := by
  induction n generalizing v with
  | zero => rfl
  | succ n ih => simp [Mem.leBytes, ih]

/-- Bytes outside a little-endian write stand as before. -/
theorem Mem.rd_wrLE_out {c a n v : Nat} (m : List Host.Cell) (h : c < a ∨ a + n ≤ c) : Mem.rd c (Mem.wrLE a n v m) = Mem.rd c m :=
  Mem.rd_wrs_out m (by simpa using h)

/-- The number written is read back. -/
theorem Mem.rdLE_wrLE (a n v : Nat) (m : List Host.Cell) : Mem.rdLE a n (Mem.wrLE a n v m) = v % 256 ^ n := by
  unfold Mem.wrLE
  induction n generalizing a v m with
  | zero => simp [Mem.rdLE, Nat.mod_one]
  | succ n ih =>
    rw [Mem.leBytes, Mem.wrs, Mem.rdLE, ih, Mem.rd_wrs_out _ (by omega), Mem.rd_wr_same, BitVec.toNat_ofNat]
    show v % 256 + 256 * (v / 256 % 256 ^ n) = v % 256 ^ (n + 1)
    rw [Nat.pow_succ, Nat.mul_comm (256 ^ n), Nat.mod_mul]

end Sys2Proof.Machine
end

