-- ==== Sys2Proof/Laws/Exec.lean ====
section
/-! SUPPORT. Which meaning each command runs: one lemma per row, so that no proof unfolds the whole dispatch. -/

namespace Sys2Proof.Machine

@[simp] theorem exec_beatBoundary (k2 k0 : Nat) (s : State) : exec (.beatBoundary k2 k0) s = execBeatBoundary k2 k0 s := (rfl)
@[simp] theorem exec_egressStallReset (nvt : Bool) (conn : Nat) (s : State) : exec (.egressStallReset nvt conn) s = execEgressStallReset nvt conn s := (rfl)
@[simp] theorem exec_budgetEscalated (tag : Nat) (s : State) : exec (.budgetEscalated tag) s = execBudgetEscalated tag s := (rfl)
@[simp] theorem exec_admLateQRead (m : Nat) (s : State) : exec (.admLateQRead m) s = execAdmLateQRead m s := (rfl)
@[simp] theorem exec_beatMarkExchange (s : State) : exec .beatMarkExchange s = execBeatMarkExchange s := (rfl)
@[simp] theorem exec_peerBeatMarkRx (t1 : Nat) (s : State) : exec (.peerBeatMarkRx t1) s = execPeerBeatMarkRx t1 s := (rfl)
@[simp] theorem exec_peerBeatReplyRx (t1 t2 t3 : Nat) (wallOfs : Nat) (coarse : Bool) (s : State) : exec (.peerBeatReplyRx t1 t2 t3 wallOfs coarse) s = execPeerBeatReplyRx t1 t2 t3 wallOfs coarse s := (rfl)
@[simp] theorem exec_stepHoldEnd (k2 : Nat) (s : State) : exec (.stepHoldEnd k2) s = execStepHoldEnd k2 s := (rfl)
@[simp] theorem exec_ptpSyncRx (port dom : Nat) (accepted : Bool) (t1 t4 : Nat) (s : State) : exec (.ptpSyncRx port dom accepted t1 t4) s = execPtpSyncRx port dom accepted t1 t4 s := (rfl)
@[simp] theorem exec_ptpSyncTimeout (s : State) : exec .ptpSyncTimeout s = execPtpSyncTimeout s := (rfl)
@[simp] theorem exec_beatTbRead (m : Nat) (s : State) : exec (.beatTbRead m) s = execBeatTbRead m s := (rfl)
@[simp] theorem exec_registerWrite (m addr size : Nat) (v : Word) (s : State) : exec (.registerWrite m addr size v) s = execRegisterWrite m addr size v s := (rfl)
@[simp] theorem exec_pageEnable (m slot : Nat) (quiesce : Bool) (s : State) : exec (.pageEnable m slot quiesce) s = execPageEnable m slot quiesce s := (rfl)
@[simp] theorem exec_pageDisable (m slot : Nat) (s : State) : exec (.pageDisable m slot) s = execPageDisable m slot s := (rfl)
@[simp] theorem exec_pageQuiesce (m slot : Nat) (s : State) : exec (.pageQuiesce m slot) s = execPageQuiesce m slot s := (rfl)
@[simp] theorem exec_instanceQuiesced (code unit : Nat) (s : State) : exec (.instanceQuiesced code unit) s = execInstanceQuiesced code unit s := (rfl)
@[simp] theorem exec_pageReset (m slot : Nat) (enable quiesce : Bool) (s : State) : exec (.pageReset m slot enable quiesce) s = execPageReset m slot enable quiesce s := (rfl)
@[simp] theorem exec_pageCommit (m slot : Nat) (allPages : Bool) (s : State) : exec (.pageCommit m slot allPages) s = execPageCommit m slot allPages s := (rfl)
@[simp] theorem exec_pageDiscard (m slot : Nat) (allPages : Bool) (s : State) : exec (.pageDiscard m slot allPages) s = execPageDiscard m slot allPages s := (rfl)
@[simp] theorem exec_pageErrqRead (m slot : Nat) (s : State) : exec (.pageErrqRead m slot) s = execPageErrqRead m slot s := (rfl)
@[simp] theorem exec_pageErrqAck (m slot : Nat) (s : State) : exec (.pageErrqAck m slot) s = execPageErrqAck m slot s := (rfl)
@[simp] theorem exec_irtClaim (m : Nat) (s : State) : exec (.irtClaim m) s = execIrtClaim m s := (rfl)
@[simp] theorem exec_irtDone (m slot : Nat) (s : State) : exec (.irtDone m slot) s = execIrtDone m slot s := (rfl)
@[simp] theorem exec_irtRouteWrite (m r : Nat) (v : Word) (s : State) : exec (.irtRouteWrite m r v) s = execIrtRouteWrite m r v s := (rfl)
@[simp] theorem exec_pageLockSet (m slot writers : Nat) (s : State) : exec (.pageLockSet m slot writers) s = execPageLockSet m slot writers s := (rfl)
@[simp] theorem exec_readCommand (tag : Nat) (words : List (Nat × Nat)) (s : State) : exec (.readCommand tag words) s = execReadCommand tag words s := (rfl)
@[simp] theorem exec_mapPageFetchDone (page : Nat) (ok : Bool) (words : List (Nat × Nat)) (s : State) : exec (.mapPageFetchDone page ok words) s = execMapPageFetchDone page ok words s := (rfl)
@[simp] theorem exec_ctbPageFetchDone (page : Nat) (ok : Bool) (s : State) : exec (.ctbPageFetchDone page ok) s = execCtbPageFetchDone page ok s := (rfl)
@[simp] theorem exec_peerPageReqRx (ctb : Bool) (key : Nat) (s : State) : exec (.peerPageReqRx ctb key) s = execPeerPageReqRx ctb key s := (rfl)
@[simp] theorem exec_peerPageDataRx (ctb : Bool) (key : Nat) (held : Bool) (stamp : Nat) (maps : List (Nat × Machine.MapEnt)) (chunks : List (Nat × Machine.CtbEnt)) (s : State) : exec (.peerPageDataRx ctb key held stamp maps chunks) s = execPeerPageDataRx ctb key held stamp maps chunks s := (rfl)
@[simp] theorem exec_rdpSlowQRead (m : Nat) (s : State) : exec (.rdpSlowQRead m) s = execRdpSlowQRead m s := (rfl)
@[simp] theorem exec_rdpResumeRetry (m tag : Nat) (s : State) : exec (.rdpResumeRetry m tag) s = execRdpResumeRetry m tag s := (rfl)
@[simp] theorem exec_rdpResumeFailMedia (m tag : Nat) (s : State) : exec (.rdpResumeFailMedia m tag) s = execRdpResumeFailMedia m tag s := (rfl)
@[simp] theorem exec_rdpResumeFailKey (m tag : Nat) (s : State) : exec (.rdpResumeFailKey m tag) s = execRdpResumeFailKey m tag s := (rfl)
@[simp] theorem exec_rdpResumeFailInternal (m tag : Nat) (s : State) : exec (.rdpResumeFailInternal m tag) s = execRdpResumeFailInternal m tag s := (rfl)
@[simp] theorem exec_readSlowTimeout (tag : Nat) (s : State) : exec (.readSlowTimeout tag) s = execReadSlowTimeout tag s := (rfl)
@[simp] theorem exec_reconstructStart (s : State) : exec .reconstructStart s = execReconstructStart s := (rfl)
@[simp] theorem exec_hedgeStart (fetch : Nat) (s : State) : exec (.hedgeStart fetch) s = execHedgeStart fetch s := (rfl)
@[simp] theorem exec_sliceTagCheck (tag cid hVat hGen hTag : Nat) (tagOk : Bool) (s : State) : exec (.sliceTagCheck tag cid hVat hGen hTag tagOk) s = execSliceTagCheck tag cid hVat hGen hTag tagOk s := (rfl)
@[simp] theorem exec_inflateJobEnd (tag cid : Nat) (slow : Bool) (bitOff outBytes : Nat) (s : State) : exec (.inflateJobEnd tag cid slow bitOff outBytes) s = execInflateJobEnd tag cid slow bitOff outBytes s := (rfl)
@[simp] theorem exec_deliveryEgress (tag : Nat) (s : State) : exec (.deliveryEgress tag) s = execDeliveryEgress tag s := (rfl)
@[simp] theorem exec_mapInval (m vol : Nat) (all : Bool) (s : State) : exec (.mapInval m vol all) s = execMapInval m vol all s := (rfl)
@[simp] theorem exec_mapInvalDone (s : State) : exec .mapInvalDone s = execMapInvalDone s := (rfl)
@[simp] theorem exec_rchInval (m vat : Nat) (all : Bool) (s : State) : exec (.rchInval m vat all) s = execRchInval m vat all s := (rfl)
@[simp] theorem exec_rchInvalDone (s : State) : exec .rchInvalDone s = execRchInvalDone s := (rfl)
@[simp] theorem exec_pfxRecArm (m profile vol window : Nat) (filter : Bool) (s : State) : exec (.pfxRecArm m profile vol window filter) s = execPfxRecArm m profile vol window filter s := (rfl)
@[simp] theorem exec_pfxRecDisarm (m : Nat) (s : State) : exec (.pfxRecDisarm m) s = execPfxRecDisarm m s := (rfl)
@[simp] theorem exec_pfxRecordWindowEnd (s : State) : exec .pfxRecordWindowEnd s = execPfxRecordWindowEnd s := (rfl)
@[simp] theorem exec_pfxLoad (m profile : Nat) (s : State) : exec (.pfxLoad m profile) s = execPfxLoad m profile s := (rfl)
@[simp] theorem exec_pfxUnload (m profile : Nat) (s : State) : exec (.pfxUnload m profile) s = execPfxUnload m profile s := (rfl)
@[simp] theorem exec_pfxLoadDone (s : State) : exec .pfxLoadDone s = execPfxLoadDone s := (rfl)
@[simp] theorem exec_pfxExtentDue (replay : Nat) (s : State) : exec (.pfxExtentDue replay) s = execPfxExtentDue replay s := (rfl)
@[simp] theorem exec_pfxExtentSkip (replay : Nat) (s : State) : exec (.pfxExtentSkip replay) s = execPfxExtentSkip replay s := (rfl)
@[simp] theorem exec_writeCommand (tag : Nat) (s : State) : exec (.writeCommand tag) s = execWriteCommand tag s := (rfl)
@[simp] theorem exec_peerMirrorRx (rec : Machine.MirrorRec) (ok : Bool) (s : State) : exec (.peerMirrorRx rec ok) s = execPeerMirrorRx rec ok s := (rfl)
@[simp] theorem exec_peerMirrorAckRx (slots useqs bad badUseqs : List Nat) (s : State) : exec (.peerMirrorAckRx slots useqs bad badUseqs) s = execPeerMirrorAckRx slots useqs bad badUseqs s := (rfl)
@[simp] theorem exec_writeAcknowledge (tag : Nat) (s : State) : exec (.writeAcknowledge tag) s = execWriteAcknowledge tag s := (rfl)
@[simp] theorem exec_jnlMirrorTimeout (tag : Nat) (s : State) : exec (.jnlMirrorTimeout tag) s = execJnlMirrorTimeout tag s := (rfl)
@[simp] theorem exec_chunkRun (tag : Nat) (failed : List Nat) (s : State) : exec (.chunkRun tag failed) s = execChunkRun tag failed s := (rfl)
@[simp] theorem exec_peerSwxQueryRx (qtag fp vat : Nat) (s : State) : exec (.peerSwxQueryRx qtag fp vat) s = execPeerSwxQueryRx qtag fp vat s := (rfl)
@[simp] theorem exec_peerSwxAnswerRx (job : Nat) (hit : Bool) (recipe : Nat) (s : State) : exec (.peerSwxAnswerRx job hit recipe) s = execPeerSwxAnswerRx job hit recipe s := (rfl)
@[simp] theorem exec_recipePageLoaded (job : Nat) (ok : Bool) (vat : Nat) (entries : List (Nat × Nat × Nat)) (s : State) : exec (.recipePageLoaded job ok vat entries) s = execRecipePageLoaded job ok vat entries s := (rfl)
@[simp] theorem exec_recipePageClose (page : Nat) (s : State) : exec (.recipePageClose page) s = execRecipePageClose page s := (rfl)
@[simp] theorem exec_compressJobEnd (job : Nat) (stream : List Nat) (s : State) : exec (.compressJobEnd job stream) s = execCompressJobEnd job stream s := (rfl)
@[simp] theorem exec_rowWaitExpire (s : State) : exec .rowWaitExpire s = execRowWaitExpire s := (rfl)
@[simp] theorem exec_updateRecordApply (useq : Nat) (bad : Bool) (s : State) : exec (.updateRecordApply useq bad) s = execUpdateRecordApply useq bad s := (rfl)
@[simp] theorem exec_peerEntryRx (beat : Nat) (slots : List Nat) (s : State) : exec (.peerEntryRx beat slots) s = execPeerEntryRx beat slots s := (rfl)
@[simp] theorem exec_peerHorizonRx (beat : Nat) (s : State) : exec (.peerHorizonRx beat) s = execPeerHorizonRx beat s := (rfl)
@[simp] theorem exec_peerRetireRx (slots : List Nat) (s : State) : exec (.peerRetireRx slots) s = execPeerRetireRx slots s := (rfl)
@[simp] theorem exec_peerPinRx (kind id : Nat) (s : State) : exec (.peerPinRx kind id) s = execPeerPinRx kind id s := (rfl)
@[simp] theorem exec_peerUnpinRx (kind id : Nat) (s : State) : exec (.peerUnpinRx kind id) s = execPeerUnpinRx kind id s := (rfl)
@[simp] theorem exec_peerRecFetchRx (slot : Nat) (s : State) : exec (.peerRecFetchRx slot) s = execPeerRecFetchRx slot s := (rfl)
@[simp] theorem exec_peerRecDataRx (slot data : Nat) (ok : Bool) (s : State) : exec (.peerRecDataRx slot data ok) s = execPeerRecDataRx slot data ok s := (rfl)
@[simp] theorem exec_jnlDefQRead (m : Nat) (s : State) : exec (.jnlDefQRead m) s = execJnlDefQRead m s := (rfl)
@[simp] theorem exec_createVat (m vat : Nat) (s : State) : exec (.createVat m vat) s = execCreateVat m vat s := (rfl)
@[simp] theorem exec_setVatOptions (m vat : Nat) (s : State) : exec (.setVatOptions m vat) s = execSetVatOptions m vat s := (rfl)
@[simp] theorem exec_rekey (m vat : Nat) (s : State) : exec (.rekey m vat) s = execRekey m vat s := (rfl)
@[simp] theorem exec_freeze (m vat : Nat) (s : State) : exec (.freeze m vat) s = execFreeze m vat s := (rfl)
@[simp] theorem exec_deleteVat (m vat : Nat) (s : State) : exec (.deleteVat m vat) s = execDeleteVat m vat s := (rfl)
@[simp] theorem exec_createVolume (m vol : Nat) (s : State) : exec (.createVolume m vol) s = execCreateVolume m vol s := (rfl)
@[simp] theorem exec_resizeVolume (m vol : Nat) (s : State) : exec (.resizeVolume m vol) s = execResizeVolume m vol s := (rfl)
@[simp] theorem exec_setProfile (m vol : Nat) (s : State) : exec (.setProfile m vol) s = execSetProfile m vol s := (rfl)
@[simp] theorem exec_deleteVolume (m vol : Nat) (s : State) : exec (.deleteVolume m vol) s = execDeleteVolume m vol s := (rfl)
@[simp] theorem exec_redyeResume (m vat : Nat) (s : State) : exec (.redyeResume m vat) s = execRedyeResume m vat s := (rfl)
@[simp] theorem exec_snpCreateGroup (m count : Nat) (s : State) : exec (.snpCreateGroup m count) s = execSnpCreateGroup m count s := (rfl)
@[simp] theorem exec_snpDelete (m snap : Nat) (s : State) : exec (.snpDelete m snap) s = execSnpDelete m snap s := (rfl)
@[simp] theorem exec_snpClone (m snap vol : Nat) (s : State) : exec (.snpClone m snap vol) s = execSnpClone m snap vol s := (rfl)
@[simp] theorem exec_peerTableCmdRx (snp : Bool) (op target beat : Nat) (args : List Nat) (s : State) : exec (.peerTableCmdRx snp op target beat args) s = execPeerTableCmdRx snp op target beat args s := (rfl)
@[simp] theorem exec_peerTableAckRx (snp : Bool) (s : State) : exec (.peerTableAckRx snp) s = execPeerTableAckRx snp s := (rfl)
@[simp] theorem exec_tableCmdAckTimeout (s : State) : exec .tableCmdAckTimeout s = execTableCmdAckTimeout s := (rfl)
@[simp] theorem exec_tableCmdApply (s : State) : exec .tableCmdApply s = execTableCmdApply s := (rfl)
@[simp] theorem exec_peerTablesRx (vats : List (Nat × List Nat)) (vols : List (Nat × List Nat)) (snaps : List (Nat × List Nat)) (s : State) : exec (.peerTablesRx vats vols snaps) s = execPeerTablesRx vats vols snaps s := (rfl)
@[simp] theorem exec_redyeSweepStep (failed : List Nat) (peerEnded : Bool) (peerFailed : Nat) (s : State) : exec (.redyeSweepStep failed peerEnded peerFailed) s = execRedyeSweepStep failed peerEnded peerFailed s := (rfl)
@[simp] theorem exec_volumeRefRelease (vol n : Nat) (s : State) : exec (.volumeRefRelease vol n) s = execVolumeRefRelease vol n s := (rfl)
@[simp] theorem exec_snapshotRefRelease (snap n : Nat) (s : State) : exec (.snapshotRefRelease snap n) s = execSnapshotRefRelease snap n s := (rfl)
@[simp] theorem exec_ftlDirLoad (m kind : Nat) (pin snap : Bool) (space leaf : Nat) (s : State) : exec (.ftlDirLoad m kind pin snap space leaf) s = execFtlDirLoad m kind pin snap space leaf s := (rfl)
@[simp] theorem exec_ftlDirLoadDone (readOk : Bool) (s : State) : exec (.ftlDirLoadDone readOk) s = execFtlDirLoadDone readOk s := (rfl)
@[simp] theorem exec_pageWriteBack (kind key : Nat) (s : State) : exec (.pageWriteBack kind key) s = execPageWriteBack kind key s := (rfl)
@[simp] theorem exec_checkpointWrite (ok : Bool) (peerReplay : Nat) (s : State) : exec (.checkpointWrite ok peerReplay) s = execCheckpointWrite ok peerReplay s := (rfl)
@[simp] theorem exec_chunkRelease (cid : Nat) (s : State) : exec (.chunkRelease cid) s = execChunkRelease cid s := (rfl)
@[simp] theorem exec_relocationStart (s : State) : exec .relocationStart s = execRelocationStart s := (rfl)
@[simp] theorem exec_bandErase (b : Nat) (s : State) : exec (.bandErase b) s = execBandErase b s := (rfl)
@[simp] theorem exec_scanRead (b member row : Nat) (s : State) : exec (.scanRead b member row) s = execScanRead b member row s := (rfl)
@[simp] theorem exec_vaultDumpEnd (ok : Bool) (rows rewritten : Nat) (s : State) : exec (.vaultDumpEnd ok rows rewritten) s = execVaultDumpEnd ok rows rewritten s := (rfl)
@[simp] theorem exec_ftlRecover (lost : List Nat) (s : State) : exec (.ftlRecover lost) s = execFtlRecover lost s := (rfl)
@[simp] theorem exec_liveCountRecompute (s : State) : exec .liveCountRecompute s = execLiveCountRecompute s := (rfl)
@[simp] theorem exec_mediaFlitRx (ln flit : Nat) (s : State) : exec (.mediaFlitRx ln flit) s = execMediaFlitRx ln flit s := (rfl)
@[simp] theorem exec_mediaNakRx (ln ack : Nat) (s : State) : exec (.mediaNakRx ln ack) s = execMediaNakRx ln ack s := (rfl)
@[simp] theorem exec_mediaReplayTimer (ln : Nat) (s : State) : exec (.mediaReplayTimer ln) s = execMediaReplayTimer ln s := (rfl)
@[simp] theorem exec_mdlLinkEnable (m ln : Nat) (en : Bool) (s : State) : exec (.mdlLinkEnable m ln en) s = execMdlLinkEnable m ln en s := (rfl)
@[simp] theorem exec_mdlLinkRetrain (m ln : Nat) (s : State) : exec (.mdlLinkRetrain m ln) s = execMdlLinkRetrain m ln s := (rfl)
@[simp] theorem exec_mdlLinkDown (m ln : Nat) (s : State) : exec (.mdlLinkDown m ln) s = execMdlLinkDown m ln s := (rfl)
@[simp] theorem exec_trainingBlockRx (ln : Nat) (valid : Bool) (phase : Nat) (eqDone ownEq : Bool) (port reqPre reqPost reqPreset : Nat) (s : State) : exec (.trainingBlockRx ln valid phase eqDone ownEq port reqPre reqPost reqPreset) s = execTrainingBlockRx ln valid phase eqDone ownEq port reqPre reqPost reqPreset s := (rfl)
@[simp] theorem exec_linkTrainTimeout (ln : Nat) (s : State) : exec (.linkTrainTimeout ln) s = execLinkTrainTimeout ln s := (rfl)
@[simp] theorem exec_linkRecoverTimeout (ln : Nat) (s : State) : exec (.linkRecoverTimeout ln) s = execLinkRecoverTimeout ln s := (rfl)
@[simp] theorem exec_brickCreditRx (ln cmd wdata : Nat) (s : State) : exec (.brickCreditRx ln cmd wdata) s = execBrickCreditRx ln cmd wdata s := (rfl)
@[simp] theorem exec_mediaOpTimeout (ln tag : Nat) (s : State) : exec (.mediaOpTimeout ln tag) s = execMediaOpTimeout ln tag s := (rfl)
@[simp] theorem exec_brickIdentRx (ln tag vendor serial arrayId dieMask fid fver fcheck cmdCredits wdataCredits port : Nat) (other : Bool) (s : State) : exec (.brickIdentRx ln tag vendor serial arrayId dieMask fid fver fcheck cmdCredits wdataCredits port other) s = execBrickIdentRx ln tag vendor serial arrayId dieMask fid fver fcheck cmdCredits wdataCredits port other s := (rfl)
@[simp] theorem exec_brickOwnerRx (ln tag epochA epochB sideA sideB : Nat) (s : State) : exec (.brickOwnerRx ln tag epochA epochB sideA sideB) s = execBrickOwnerRx ln tag epochA epochB sideA sideB s := (rfl)
@[simp] theorem exec_identRetry (k : Nat) (s : State) : exec (.identRetry k) s = execIdentRetry k s := (rfl)
@[simp] theorem exec_brickStatusRx (ln tag status : Nat) (s : State) : exec (.brickStatusRx ln tag status) s = execBrickStatusRx ln tag status s := (rfl)
@[simp] theorem exec_brickReadDataRx (ln tag status corrected retries : Nat) (s : State) : exec (.brickReadDataRx ln tag status corrected retries) s = execBrickReadDataRx ln tag status corrected retries s := (rfl)
@[simp] theorem exec_brickEventRx (ln code die : Nat) (s : State) : exec (.brickEventRx ln code die) s = execBrickEventRx ln code die s := (rfl)
@[simp] theorem exec_sidebandAlert (k : Nat) (answered : Bool) (status temp : Nat) (s : State) : exec (.sidebandAlert k answered status temp) s = execSidebandAlert k answered status temp s := (rfl)
@[simp] theorem exec_sidebandPoll (k : Nat) (answered : Bool) (status temp : Nat) (s : State) : exec (.sidebandPoll k answered status temp) s = execSidebandPoll k answered status temp s := (rfl)
@[simp] theorem exec_brickAdopt (m k : Nat) (s : State) : exec (.brickAdopt m k) s = execBrickAdopt m k s := (rfl)
@[simp] theorem exec_brickRelease (m k : Nat) (s : State) : exec (.brickRelease m k) s = execBrickRelease m k s := (rfl)
@[simp] theorem exec_brickFail (m k : Nat) (s : State) : exec (.brickFail m k) s = execBrickFail m k s := (rfl)
@[simp] theorem exec_brickAttnOn (m k : Nat) (acked : Bool) (s : State) : exec (.brickAttnOn m k acked) s = execBrickAttnOn m k acked s := (rfl)
@[simp] theorem exec_brickAttnOff (m k : Nat) (acked : Bool) (s : State) : exec (.brickAttnOff m k acked) s = execBrickAttnOff m k acked s := (rfl)
@[simp] theorem exec_brickRefresh (m k : Nat) (s : State) : exec (.brickRefresh m k) s = execBrickRefresh m k s := (rfl)
@[simp] theorem exec_dfmLoad (m f : Nat) (s : State) : exec (.dfmLoad m f) s = execDfmLoad m f s := (rfl)
@[simp] theorem exec_dfmUnload (m f : Nat) (s : State) : exec (.dfmUnload m f) s = execDfmUnload m f s := (rfl)
@[simp] theorem exec_digestSubmit (m sl addr : Nat) (s : State) : exec (.digestSubmit m sl addr) s = execDigestSubmit m sl addr s := (rfl)
@[simp] theorem exec_digestJobEnd (tag : Nat) (s : State) : exec (.digestJobEnd tag) s = execDigestJobEnd tag s := (rfl)
@[simp] theorem exec_digDoneQRead (m sl : Nat) (s : State) : exec (.digDoneQRead m sl) s = execDigDoneQRead m sl s := (rfl)
@[simp] theorem exec_keyFetchDone (sl h : Nat) (s : State) : exec (.keyFetchDone sl h) s = execKeyFetchDone sl h s := (rfl)
@[simp] theorem exec_keyHandleRemove (h : Nat) (s : State) : exec (.keyHandleRemove h) s = execKeyHandleRemove h s := (rfl)
@[simp] theorem exec_sliceRngReseed (sl : Nat) (s : State) : exec (.sliceRngReseed sl) s = execSliceRngReseed sl s := (rfl)
@[simp] theorem exec_secHardenWrite (m dummy : Nat) (shuffle : Bool) (s : State) : exec (.secHardenWrite m dummy shuffle) s = execSecHardenWrite m dummy shuffle s := (rfl)
@[simp] theorem exec_portLinkChange (port : Nat) (up : Bool) (s : State) : exec (.portLinkChange port up) s = execPortLinkChange port up s := (rfl)
@[simp] theorem exec_hfiDetectStep (q : Nat) (s : State) : exec (.hfiDetectStep q) s = execHfiDetectStep q s := (rfl)
@[simp] theorem exec_hfiFrameRx (port : Nat) (f : Machine.Frame) (s : State) : exec (.hfiFrameRx port f) s = execHfiFrameRx port f s := (rfl)
@[simp] theorem exec_pfcXoff (port prio bytes : Nat) (s : State) : exec (.pfcXoff port prio bytes) s = execPfcXoff port prio bytes s := (rfl)
@[simp] theorem exec_pfcRefresh (port prio bytes : Nat) (s : State) : exec (.pfcRefresh port prio bytes) s = execPfcRefresh port prio bytes s := (rfl)
@[simp] theorem exec_pfcXon (port prio bytes : Nat) (s : State) : exec (.pfcXon port prio bytes) s = execPfcXon port prio bytes s := (rfl)
@[simp] theorem exec_pfcFrameRx (port : Nat) (quanta : List (Nat × Nat)) (s : State) : exec (.pfcFrameRx port quanta) s = execPfcFrameRx port quanta s := (rfl)
@[simp] theorem exec_pfcPauseExpire (port prio : Nat) (s : State) : exec (.pfcPauseExpire port prio) s = execPfcPauseExpire port prio s := (rfl)
@[simp] theorem exec_tcpSynRx (u iface port mac : Nat) (v6 ecn : Bool) (window : Nat) (s : State) : exec (.tcpSynRx u iface port mac v6 ecn window) s = execTcpSynRx u iface port mac v6 ecn window s := (rfl)
@[simp] theorem exec_tcpRetransmitTimeout (c : Nat) (s : State) : exec (.tcpRetransmitTimeout c) s = execTcpRetransmitTimeout c s := (rfl)
@[simp] theorem exec_tcpTimeWaitExpire (c : Nat) (s : State) : exec (.tcpTimeWaitExpire c) s = execTcpTimeWaitExpire c s := (rfl)
@[simp] theorem exec_nvtIcreqRx (c pfv hpda : Nat) (hdgst ddgst : Bool) (s : State) : exec (.nvtIcreqRx c pfv hpda hdgst ddgst) s = execNvtIcreqRx c pfv hpda hdgst ddgst s := (rfl)
@[simp] theorem exec_nvtIcreqTimeout (c : Nat) (s : State) : exec (.nvtIcreqTimeout c) s = execNvtIcreqTimeout c s := (rfl)
@[simp] theorem exec_nvmeConnectAdmin (c cid flags sqsize kato : Nat) (data : List Nat) (s : State) : exec (.nvmeConnectAdmin c cid flags sqsize kato data) s = execNvmeConnectAdmin c cid flags sqsize kato data s := (rfl)
@[simp] theorem exec_nvmeConnectIo (c cid flags qid sqsize : Nat) (data : List Nat) (s : State) : exec (.nvmeConnectIo c cid flags qid sqsize data) s = execNvmeConnectIo c cid flags qid sqsize data s := (rfl)
@[simp] theorem exec_nvtConnectQRead (m u : Nat) (s : State) : exec (.nvtConnectQRead m u) s = execNvtConnectQRead m u s := (rfl)
@[simp] theorem exec_nvtConnectAccept (m u slot : Nat) (s : State) : exec (.nvtConnectAccept m u slot) s = execNvtConnectAccept m u slot s := (rfl)
@[simp] theorem exec_nvtConnectRefuseHost (m u slot : Nat) (s : State) : exec (.nvtConnectRefuseHost m u slot) s = execNvtConnectRefuseHost m u slot s := (rfl)
@[simp] theorem exec_nvtConnectRefuseBusy (m u slot : Nat) (s : State) : exec (.nvtConnectRefuseBusy m u slot) s = execNvtConnectRefuseBusy m u slot s := (rfl)
@[simp] theorem exec_nvtConnectTimeout (u slot : Nat) (s : State) : exec (.nvtConnectTimeout u slot) s = execNvtConnectTimeout u slot s := (rfl)
@[simp] theorem exec_keepAliveExpired (k : Nat) (s : State) : exec (.keepAliveExpired k) s = execKeepAliveExpired k s := (rfl)
@[simp] theorem exec_nvtCtrlTeardown (m u idx : Nat) (s : State) : exec (.nvtCtrlTeardown m u idx) s = execNvtCtrlTeardown m u idx s := (rfl)
@[simp] theorem exec_nvtAttachChanged (m u idx : Nat) (s : State) : exec (.nvtAttachChanged m u idx) s = execNvtAttachChanged m u idx s := (rfl)
@[simp] theorem exec_nvmeIdentify (c cid flags nsid cns : Nat) (s : State) : exec (.nvmeIdentify c cid flags nsid cns) s = execNvmeIdentify c cid flags nsid cns s := (rfl)
@[simp] theorem exec_nvmeGetFeatures (c cid flags fid : Nat) (s : State) : exec (.nvmeGetFeatures c cid flags fid) s = execNvmeGetFeatures c cid flags fid s := (rfl)
@[simp] theorem exec_nvmeSetFeatures (c cid flags fid v : Nat) (s : State) : exec (.nvmeSetFeatures c cid flags fid v) s = execNvmeSetFeatures c cid flags fid v s := (rfl)
@[simp] theorem exec_nvmeGetLogPage (c cid flags nsid lid off len : Nat) (rae : Bool) (s : State) : exec (.nvmeGetLogPage c cid flags nsid lid off len rae) s = execNvmeGetLogPage c cid flags nsid lid off len rae s := (rfl)
@[simp] theorem exec_nvmeDeviceSelfTest (c cid flags nsid code : Nat) (s : State) : exec (.nvmeDeviceSelfTest c cid flags nsid code) s = execNvmeDeviceSelfTest c cid flags nsid code s := (rfl)
@[simp] theorem exec_nvmeAbort (c cid flags sqid acid : Nat) (s : State) : exec (.nvmeAbort c cid flags sqid acid) s = execNvmeAbort c cid flags sqid acid s := (rfl)
@[simp] theorem exec_nvmeKeepAlive (c cid flags : Nat) (s : State) : exec (.nvmeKeepAlive c cid flags) s = execNvmeKeepAlive c cid flags s := (rfl)
@[simp] theorem exec_nvmeAsyncEventRequest (c cid flags : Nat) (s : State) : exec (.nvmeAsyncEventRequest c cid flags) s = execNvmeAsyncEventRequest c cid flags s := (rfl)
@[simp] theorem exec_nvmePropertyGet (c cid flags ofs : Nat) (s : State) : exec (.nvmePropertyGet c cid flags ofs) s = execNvmePropertyGet c cid flags ofs s := (rfl)
@[simp] theorem exec_nvmePropertySet (c cid flags ofs v : Nat) (s : State) : exec (.nvmePropertySet c cid flags ofs v) s = execNvmePropertySet c cid flags ofs v s := (rfl)
@[simp] theorem exec_nvmeDisconnect (c cid flags : Nat) (s : State) : exec (.nvmeDisconnect c cid flags) s = execNvmeDisconnect c cid flags s := (rfl)
@[simp] theorem exec_nvmeRead (c cid flags nsid lba blocks sgl : Nat) (s : State) : exec (.nvmeRead c cid flags nsid lba blocks sgl) s = execNvmeRead c cid flags nsid lba blocks sgl s := (rfl)
@[simp] theorem exec_nvmeWrite (c cid flags nsid lba blocks sgl : Nat) (icd : List Nat) (s : State) : exec (.nvmeWrite c cid flags nsid lba blocks sgl icd) s = execNvmeWrite c cid flags nsid lba blocks sgl icd s := (rfl)
@[simp] theorem exec_nvmeFlush (c cid flags nsid : Nat) (s : State) : exec (.nvmeFlush c cid flags nsid) s = execNvmeFlush c cid flags nsid s := (rfl)
@[simp] theorem exec_nvmeWriteZeroes (c cid flags nsid lba blocks : Nat) (s : State) : exec (.nvmeWriteZeroes c cid flags nsid lba blocks) s = execNvmeWriteZeroes c cid flags nsid lba blocks s := (rfl)
@[simp] theorem exec_nvmeDatasetManagement (c cid flags nsid : Nat) (ad : Bool) (ranges : List (Nat × Nat)) (s : State) : exec (.nvmeDatasetManagement c cid flags nsid ad ranges) s = execNvmeDatasetManagement c cid flags nsid ad ranges s := (rfl)
@[simp] theorem exec_nvmeInvalidOpcode (c cid : Nat) (s : State) : exec (.nvmeInvalidOpcode c cid) s = execNvmeInvalidOpcode c cid s := (rfl)
@[simp] theorem exec_nvtH2cDataRx (c ttag off len data : Nat) (last hdrOk hdgstOk ddgstOk : Bool) (s : State) : exec (.nvtH2cDataRx c ttag off len data last hdrOk hdgstOk ddgstOk) s = execNvtH2cDataRx c ttag off len data last hdrOk hdgstOk ddgstOk s := (rfl)
@[simp] theorem exec_nvtH2cTermReqRx (c : Nat) (s : State) : exec (.nvtH2cTermReqRx c) s = execNvtH2cTermReqRx c s := (rfl)
@[simp] theorem exec_selftestTimeout (s : State) : exec .selftestTimeout s = execSelftestTimeout s := (rfl)
@[simp] theorem exec_selftestSegment (ok : Bool) (s : State) : exec (.selftestSegment ok) s = execSelftestSegment ok s := (rfl)
@[simp] theorem exec_tcpSegmentRx (c ack window : Nat) (dup fin rst ce ece cwr : Bool) (s : State) : exec (.tcpSegmentRx c ack window dup fin rst ce ece cwr) s = execTcpSegmentRx c ack window dup fin rst ce ece cwr s := (rfl)
@[simp] theorem exec_ldtHelloRx (u iface addr : Nat) (v6 : Bool) (data : List Nat) (s : State) : exec (.ldtHelloRx u iface addr v6 data) s = execLdtHelloRx u iface addr v6 data s := (rfl)
@[simp] theorem exec_ldtAcceptQRead (m u : Nat) (s : State) : exec (.ldtAcceptQRead m u) s = execLdtAcceptQRead m u s := (rfl)
@[simp] theorem exec_ldtAccept (m u slot : Nat) (s : State) : exec (.ldtAccept m u slot) s = execLdtAccept m u slot s := (rfl)
@[simp] theorem exec_ldtRefuse (m u slot : Nat) (s : State) : exec (.ldtRefuse m u slot) s = execLdtRefuse m u slot s := (rfl)
@[simp] theorem exec_ldtRefuseBusy (m u slot : Nat) (s : State) : exec (.ldtRefuseBusy m u slot) s = execLdtRefuseBusy m u slot s := (rfl)
@[simp] theorem exec_ldtAcceptTimeout (u slot : Nat) (s : State) : exec (.ldtAcceptTimeout u slot) s = execLdtAcceptTimeout u slot s := (rfl)
@[simp] theorem exec_ldtHelloRespRx (u dcid : Nat) (data : List Nat) (ok : Bool) (s : State) : exec (.ldtHelloRespRx u dcid data ok) s = execLdtHelloRespRx u dcid data ok s := (rfl)
@[simp] theorem exec_ldtFinishRx (u dcid : Nat) (tagOk ok : Bool) (s : State) : exec (.ldtFinishRx u dcid tagOk ok) s = execLdtFinishRx u dcid tagOk ok s := (rfl)
@[simp] theorem exec_ldtSetupTimeout (n : Nat) (s : State) : exec (.ldtSetupTimeout n) s = execLdtSetupTimeout n s := (rfl)
@[simp] theorem exec_ldtSendRx (u : Nat) (hdr : Machine.LdtHdr) (data : Nat) (s : State) : exec (.ldtSendRx u hdr data) s = execLdtSendRx u hdr data s := (rfl)
@[simp] theorem exec_ldtWriteRx (u : Nat) (hdr : Machine.LdtHdr) (addr mkey data : Nat) (s : State) : exec (.ldtWriteRx u hdr addr mkey data) s = execLdtWriteRx u hdr addr mkey data s := (rfl)
@[simp] theorem exec_ldtReadReqRx (u : Nat) (hdr : Machine.LdtHdr) (addr mkey : Nat) (s : State) : exec (.ldtReadReqRx u hdr addr mkey) s = execLdtReadReqRx u hdr addr mkey s := (rfl)
@[simp] theorem exec_ldtReadRespRx (u : Nat) (hdr : Machine.LdtHdr) (data : Nat) (s : State) : exec (.ldtReadRespRx u hdr data) s = execLdtReadRespRx u hdr data s := (rfl)
@[simp] theorem exec_ldtAckRx (u : Nat) (hdr : Machine.LdtHdr) (cum : Nat) (sack ece : List Nat) (limit : Nat) (s : State) : exec (.ldtAckRx u hdr cum sack ece limit) s = execLdtAckRx u hdr cum sack ece limit s := (rfl)
@[simp] theorem exec_ldtCloseRx (u : Nat) (hdr : Machine.LdtHdr) (s : State) : exec (.ldtCloseRx u hdr) s = execLdtCloseRx u hdr s := (rfl)
@[simp] theorem exec_ldtMsgFailRx (u : Nat) (hdr : Machine.LdtHdr) (msn cond : Nat) (s : State) : exec (.ldtMsgFailRx u hdr msn cond) s = execLdtMsgFailRx u hdr msn cond s := (rfl)
@[simp] theorem exec_ldtKeepaliveRx (u : Nat) (hdr : Machine.LdtHdr) (s : State) : exec (.ldtKeepaliveRx u hdr) s = execLdtKeepaliveRx u hdr s := (rfl)
@[simp] theorem exec_ldtConnClose (m u n : Nat) (s : State) : exec (.ldtConnClose m u n) s = execLdtConnClose m u n s := (rfl)
@[simp] theorem exec_ldtConnRekey (m u n : Nat) (s : State) : exec (.ldtConnRekey m u n) s = execLdtConnRekey m u n s := (rfl)
@[simp] theorem exec_ldtRekeyDue (n : Nat) (s : State) : exec (.ldtRekeyDue n) s = execLdtRekeyDue n s := (rfl)
@[simp] theorem exec_ldtKeepaliveSend (n : Nat) (s : State) : exec (.ldtKeepaliveSend n) s = execLdtKeepaliveSend n s := (rfl)
@[simp] theorem exec_ldtIdleTimeout (n : Nat) (s : State) : exec (.ldtIdleTimeout n) s = execLdtIdleTimeout n s := (rfl)
@[simp] theorem exec_ldtAckDelayExpire (n : Nat) (s : State) : exec (.ldtAckDelayExpire n) s = execLdtAckDelayExpire n s := (rfl)
@[simp] theorem exec_ldtRtoExpire (n psn : Nat) (s : State) : exec (.ldtRtoExpire n psn) s = execLdtRtoExpire n psn s := (rfl)
@[simp] theorem exec_ldtMsgTimeout (n ptype msn : Nat) (s : State) : exec (.ldtMsgTimeout n ptype msn) s = execLdtMsgTimeout n ptype msn s := (rfl)
@[simp] theorem exec_ldtRxMsgTimeout (n msn : Nat) (resp : Bool) (s : State) : exec (.ldtRxMsgTimeout n msn resp) s = execLdtRxMsgTimeout n msn resp s := (rfl)
@[simp] theorem exec_ldtRateIncrease (n k : Nat) (s : State) : exec (.ldtRateIncrease n k) s = execLdtRateIncrease n k s := (rfl)
@[simp] theorem exec_ldtPathReturn (n k : Nat) (s : State) : exec (.ldtPathReturn n k) s = execLdtPathReturn n k s := (rfl)
@[simp] theorem exec_ldtCtxFetchDone (n : Nat) (s : State) : exec (.ldtCtxFetchDone n) s = execLdtCtxFetchDone n s := (rfl)
@[simp] theorem exec_lbcRead (n : Nat) (s : State) : exec (.lbcRead n) s = execLbcRead n s := (rfl)
@[simp] theorem exec_lbcWrite (n : Nat) (s : State) : exec (.lbcWrite n) s = execLbcWrite n s := (rfl)
@[simp] theorem exec_lbcWriteZeroes (n : Nat) (s : State) : exec (.lbcWriteZeroes n) s = execLbcWriteZeroes n s := (rfl)
@[simp] theorem exec_lbcDeallocate (n : Nat) (s : State) : exec (.lbcDeallocate n) s = execLbcDeallocate n s := (rfl)
@[simp] theorem exec_lbcFlush (n : Nat) (s : State) : exec (.lbcFlush n) s = execLbcFlush n s := (rfl)
@[simp] theorem exec_lbcAbort (n : Nat) (s : State) : exec (.lbcAbort n) s = execLbcAbort n s := (rfl)
@[simp] theorem exec_lbcGetHealth (n : Nat) (s : State) : exec (.lbcGetHealth n) s = execLbcGetHealth n s := (rfl)
@[simp] theorem exec_lbcGetDeferred (n : Nat) (s : State) : exec (.lbcGetDeferred n) s = execLbcGetDeferred n s := (rfl)
@[simp] theorem exec_lseModeReqService (m : Nat) (s : State) : exec (.lseModeReqService m) s = execLseModeReqService m s := (rfl)
@[simp] theorem exec_handoverDrained (s : State) : exec .handoverDrained s = execHandoverDrained s := (rfl)
@[simp] theorem exec_lseModeReqServiceRelease (m : Nat) (s : State) : exec (.lseModeReqServiceRelease m) s = execLseModeReqServiceRelease m s := (rfl)
@[simp] theorem exec_lseModeReqReboot (m : Nat) (s : State) : exec (.lseModeReqReboot m) s = execLseModeReqReboot m s := (rfl)
@[simp] theorem exec_peerBundleActive (b : Nat) (skews : List Nat) (s : State) : exec (.peerBundleActive b skews) s = execPeerBundleActive b skews s := (rfl)
@[simp] theorem exec_peerFlitRx (b flit : Nat) (s : State) : exec (.peerFlitRx b flit) s = execPeerFlitRx b flit s := (rfl)
@[simp] theorem exec_peerReplayTimer (b : Nat) (s : State) : exec (.peerReplayTimer b) s = execPeerReplayTimer b s := (rfl)
@[simp] theorem exec_peerBundleLeaveActive (b : Nat) (s : State) : exec (.peerBundleLeaveActive b) s = execPeerBundleLeaveActive b s := (rfl)
@[simp] theorem exec_peerHelloRx (hid arrayId layout format : Nat) (s : State) : exec (.peerHelloRx hid arrayId layout format) s = execPeerHelloRx hid arrayId layout format s := (rfl)
@[simp] theorem exec_peerModeRx (mode : Nat) (holdsA holdsB : Bool) (epochA epochB jgen : Nat) (s : State) : exec (.peerModeRx mode holdsA holdsB epochA epochB jgen) s = execPeerModeRx mode holdsA holdsB epochA epochB jgen s := (rfl)
@[simp] theorem exec_peerModeSend (s : State) : exec .peerModeSend s = execPeerModeSend s := (rfl)
@[simp] theorem exec_peerModeTimeout (s : State) : exec .peerModeTimeout s = execPeerModeTimeout s := (rfl)
@[simp] theorem exec_peerLossTimeout (s : State) : exec .peerLossTimeout s = execPeerLossTimeout s := (rfl)
@[simp] theorem exec_peerKeyWrapRx (jgen wrapped : Nat) (s : State) : exec (.peerKeyWrapRx jgen wrapped) s = execPeerKeyWrapRx jgen wrapped s := (rfl)
@[simp] theorem exec_peerSyncDataRx (rec : Machine.MirrorRec) (entered : Bool) (s : State) : exec (.peerSyncDataRx rec entered) s = execPeerSyncDataRx rec entered s := (rfl)
@[simp] theorem exec_peerHandoverRx (s : State) : exec .peerHandoverRx s = execPeerHandoverRx s := (rfl)
@[simp] theorem exec_peerMailboxRx (kind w epoch c : Nat) (s : State) : exec (.peerMailboxRx kind w epoch c) s = execPeerMailboxRx kind w epoch c s := (rfl)
@[simp] theorem exec_peerRubRx (b : Nat) (echo : Bool) (s : State) : exec (.peerRubRx b echo) s = execPeerRubRx b echo s := (rfl)
@[simp] theorem exec_leaseFencePoint (sh : Nat) (s : State) : exec (.leaseFencePoint sh) s = execLeaseFencePoint sh s := (rfl)
@[simp] theorem exec_leaseRenewDue (sh : Nat) (s : State) : exec (.leaseRenewDue sh) s = execLeaseRenewDue sh s := (rfl)
@[simp] theorem exec_witnessRetry (sh : Nat) (s : State) : exec (.witnessRetry sh) s = execWitnessRetry sh s := (rfl)
@[simp] theorem exec_witnessGrantRx (frame : List Nat) (s : State) : exec (.witnessGrantRx frame) s = execWitnessGrantRx frame s := (rfl)
@[simp] theorem exec_witnessWaitRx (frame : List Nat) (s : State) : exec (.witnessWaitRx frame) s = execWitnessWaitRx frame s := (rfl)
@[simp] theorem exec_witnessWaitExpire (sh : Nat) (s : State) : exec (.witnessWaitExpire sh) s = execWitnessWaitExpire sh s := (rfl)
@[simp] theorem exec_witnessDenyRx (frame : List Nat) (s : State) : exec (.witnessDenyRx frame) s = execWitnessDenyRx frame s := (rfl)
@[simp] theorem exec_witnessStatusRx (frame : List Nat) (s : State) : exec (.witnessStatusRx frame) s = execWitnessStatusRx frame s := (rfl)
@[simp] theorem exec_witnessReleasedRx (frame : List Nat) (s : State) : exec (.witnessReleasedRx frame) s = execWitnessReleasedRx frame s := (rfl)
@[simp] theorem exec_witnessReportSend (s : State) : exec .witnessReportSend s = execWitnessReportSend s := (rfl)
@[simp] theorem exec_homeAcquire (s : State) : exec .homeAcquire s = execHomeAcquire s := (rfl)
@[simp] theorem exec_bootWaitExpire (s : State) : exec .bootWaitExpire s = execBootWaitExpire s := (rfl)
@[simp] theorem exec_fencedProbe (s : State) : exec .fencedProbe s = execFencedProbe s := (rfl)
@[simp] theorem exec_handbackRelease (s : State) : exec .handbackRelease s = execHandbackRelease s := (rfl)
@[simp] theorem exec_handbackTimeout (s : State) : exec .handbackTimeout s = execHandbackTimeout s := (rfl)
@[simp] theorem exec_rubTest (ringOk ckptOk : Bool) (s : State) : exec (.rubTest ringOk ckptOk) s = execRubTest ringOk ckptOk s := (rfl)
@[simp] theorem exec_rubProbeEnd (probe : Nat) (s : State) : exec (.rubProbeEnd probe) s = execRubProbeEnd probe s := (rfl)
@[simp] theorem exec_lseWitRxWrite (m len : Nat) (s : State) : exec (.lseWitRxWrite m len) s = execLseWitRxWrite m len s := (rfl)
@[simp] theorem exec_lseWitTxRead (m : Nat) (s : State) : exec (.lseWitTxRead m) s = execLseWitTxRead m s := (rfl)
@[simp] theorem exec_peerLinkEnable (m : Nat) (en : Bool) (s : State) : exec (.peerLinkEnable m en) s = execPeerLinkEnable m en s := (rfl)
@[simp] theorem exec_peerBundleRetrain (m mask : Nat) (s : State) : exec (.peerBundleRetrain m mask) s = execPeerBundleRetrain m mask s := (rfl)
@[simp] theorem exec_lbcFetch (n : Nat) (s : State) : exec (.lbcFetch n) s = execLbcFetch n s := (rfl)
@[simp] theorem exec_lbcRepPoll (n : Nat) (s : State) : exec (.lbcRepPoll n) s = execLbcRepPoll n s := (rfl)
@[simp] theorem exec_lbcRepRecipe (n : Nat) (s : State) : exec (.lbcRepRecipe n) s = execLbcRepRecipe n s := (rfl)
@[simp] theorem exec_lbcRepChunks (n : Nat) (s : State) : exec (.lbcRepChunks n) s = execLbcRepChunks n s := (rfl)
@[simp] theorem exec_lbcRepDone (n : Nat) (s : State) : exec (.lbcRepDone n) s = execLbcRepDone n s := (rfl)
@[simp] theorem exec_fabHelloSend (s : State) : exec .fabHelloSend s = execFabHelloSend s := (rfl)
@[simp] theorem exec_fabHelloRx (frame : List Nat) (s : State) : exec (.fabHelloRx frame) s = execFabHelloRx frame s := (rfl)
@[simp] theorem exec_fabLeaveRx (frame : List Nat) (s : State) : exec (.fabLeaveRx frame) s = execFabLeaveRx frame s := (rfl)
@[simp] theorem exec_fabMemberMiss (hid : Nat) (s : State) : exec (.fabMemberMiss hid) s = execFabMemberMiss hid s := (rfl)
@[simp] theorem exec_fabPlaceHoldExpire (s : State) : exec .fabPlaceHoldExpire s = execFabPlaceHoldExpire s := (rfl)
@[simp] theorem exec_fabPlaceSwap (s : State) : exec .fabPlaceSwap s = execFabPlaceSwap s := (rfl)
@[simp] theorem exec_fabFetchTimeout (key : Nat) (s : State) : exec (.fabFetchTimeout key) s = execFabFetchTimeout key s := (rfl)
@[simp] theorem exec_repLinkLoad (m link : Nat) (s : State) : exec (.repLinkLoad m link) s = execRepLinkLoad m link s := (rfl)
@[simp] theorem exec_repLinkStop (m link : Nat) (s : State) : exec (.repLinkStop m link) s = execRepLinkStop m link s := (rfl)
@[simp] theorem exec_repLinkOffer (m link snap : Nat) (s : State) : exec (.repLinkOffer m link snap) s = execRepLinkOffer m link snap s := (rfl)
@[simp] theorem exec_repLinkResync (m link : Nat) (s : State) : exec (.repLinkResync m link) s = execRepLinkResync m link s := (rfl)
@[simp] theorem exec_repPollDue (link : Nat) (s : State) : exec (.repPollDue link) s = execRepPollDue link s := (rfl)
@[simp] theorem exec_repSyncTimeout (id : Nat) (s : State) : exec (.repSyncTimeout id) s = execRepSyncTimeout id s := (rfl)
@[simp] theorem exec_msrExtend (m k addr : Nat) (s : State) : exec (.msrExtend m k addr) s = execMsrExtend m k addr s := (rfl)
@[simp] theorem exec_msrLock (m k : Nat) (s : State) : exec (.msrLock m k) s = execMsrLock m k s := (rfl)
@[simp] theorem exec_installVatKey (s : State) : exec .installVatKey s = execInstallVatKey s := (rfl)
@[simp] theorem exec_removeVatKey (s : State) : exec .removeVatKey s = execRemoveVatKey s := (rfl)
@[simp] theorem exec_installSlot (s : State) : exec .installSlot s = execInstallSlot s := (rfl)
@[simp] theorem exec_importKek (slot use key : Nat) (authOk : Bool) (s : State) : exec (.importKek slot use key authOk) s = execImportKek slot use key authOk s := (rfl)
@[simp] theorem exec_removeSlot (s : State) : exec .removeSlot s = execRemoveSlot s := (rfl)
@[simp] theorem exec_saltExport (s : State) : exec .saltExport s = execSaltExport s := (rfl)
@[simp] theorem exec_saltImport (s : State) : exec .saltImport s = execSaltImport s := (rfl)
@[simp] theorem exec_installFabricSalt (s : State) : exec .installFabricSalt s = execInstallFabricSalt s := (rfl)
@[simp] theorem exec_setPairKey (s : State) : exec .setPairKey s = execSetPairKey s := (rfl)
@[simp] theorem exec_quote (s : State) : exec .quote s = execQuote s := (rfl)
@[simp] theorem exec_identity (s : State) : exec .identity s = execIdentity s := (rfl)
@[simp] theorem exec_random (s : State) : exec .random s = execRandom s := (rfl)
@[simp] theorem exec_hmac (s : State) : exec .hmac s = execHmac s := (rfl)
@[simp] theorem exec_entropyStartupTest (samples : List Nat) (s : State) : exec (.entropyStartupTest samples) s = execEntropyStartupTest samples s := (rfl)
@[simp] theorem exec_entropyTestFail (rct : Bool) (s : State) : exec (.entropyTestFail rct) s = execEntropyTestFail rct s := (rfl)
@[simp] theorem exec_entropyRecovered (s : State) : exec .entropyRecovered s = execEntropyRecovered s := (rfl)
@[simp] theorem exec_drbgReseed (s : State) : exec .drbgReseed s = execDrbgReseed s := (rfl)
@[simp] theorem exec_fuseSvnD (m : Nat) (ok : Bool) (s : State) : exec (.fuseSvnD m ok) s = execFuseSvnD m ok s := (rfl)
@[simp] theorem exec_fuseSvnI (m : Nat) (ok : Bool) (s : State) : exec (.fuseSvnI m ok) s = execFuseSvnI m ok s := (rfl)
@[simp] theorem exec_fuseRootI (m addr : Nat) (ok : Bool) (s : State) : exec (.fuseRootI m addr ok) s = execFuseRootI m addr ok s := (rfl)
@[simp] theorem exec_fuseDebugDisable (m : Nat) (ok : Bool) (s : State) : exec (.fuseDebugDisable m ok) s = execFuseDebugDisable m ok s := (rfl)
@[simp] theorem exec_fuseDebugRoot (m : Nat) (ok : Bool) (s : State) : exec (.fuseDebugRoot m ok) s = execFuseDebugRoot m ok s := (rfl)
@[simp] theorem exec_mbxPost (m c : Nat) (w : Word) (s : State) : exec (.mbxPost m c w) s = execMbxPost m c w s := (rfl)
@[simp] theorem exec_mbxTake (m c : Nat) (s : State) : exec (.mbxTake m c) s = execMbxTake m c s := (rfl)
@[simp] theorem exec_mbxStatWrite (m c : Nat) (v : Word) (s : State) : exec (.mbxStatWrite m c v) s = execMbxStatWrite m c v s := (rfl)
@[simp] theorem exec_mbxBindWrite (m c : Nat) (valid : Bool) (snd rcv : Nat) (s : State) : exec (.mbxBindWrite m c valid snd rcv) s = execMbxBindWrite m c valid snd rcv s := (rfl)
@[simp] theorem exec_mbxBindLock (m : Nat) (s : State) : exec (.mbxBindLock m) s = execMbxBindLock m s := (rfl)
@[simp] theorem exec_mbxLockRead (m k : Nat) (s : State) : exec (.mbxLockRead m k) s = execMbxLockRead m k s := (rfl)
@[simp] theorem exec_mbxUnlock (m k : Nat) (s : State) : exec (.mbxUnlock m k) s = execMbxUnlock m k s := (rfl)
@[simp] theorem exec_bootLoaderVerify (keysOk sigsOk : Bool) (svn : Nat) (blocksOk : Bool) (digest : Nat) (s : State) : exec (.bootLoaderVerify keysOk sigsOk svn blocksOk digest) s = execBootLoaderVerify keysOk sigsOk svn blocksOk digest s := (rfl)
@[simp] theorem exec_bootLoaderTimeout (s : State) : exec .bootLoaderTimeout s = execBootLoaderTimeout s := (rfl)
@[simp] theorem exec_bundleCheck (s : State) : exec .bundleCheck s = execBundleCheck s := (rfl)
@[simp] theorem exec_firmwareStart (countOk settingsOk : Bool) (s : State) : exec (.firmwareStart countOk settingsOk) s = execFirmwareStart countOk settingsOk s := (rfl)
@[simp] theorem exec_settingsMigrate (readable converts writes : Bool) (s : State) : exec (.settingsMigrate readable converts writes) s = execSettingsMigrate readable converts writes s := (rfl)
@[simp] theorem exec_hbmTrain (stack ok beats : Nat) (s : State) : exec (.hbmTrain stack ok beats) s = execHbmTrain stack ok beats s := (rfl)
@[simp] theorem exec_updBegin (s : State) : exec .updBegin s = execUpdBegin s := (rfl)
@[simp] theorem exec_updBlocks (s : State) : exec .updBlocks s = execUpdBlocks s := (rfl)
@[simp] theorem exec_updVerify (loader : Nat) (s : State) : exec (.updVerify loader) s = execUpdVerify loader s := (rfl)
@[simp] theorem exec_updSchedule (s : State) : exec .updSchedule s = execUpdSchedule s := (rfl)
@[simp] theorem exec_updCancel (s : State) : exec .updCancel s = execUpdCancel s := (rfl)
@[simp] theorem exec_updConfirm (s : State) : exec .updConfirm s = execUpdConfirm s := (rfl)
@[simp] theorem exec_updStatus (s : State) : exec .updStatus s = execUpdStatus s := (rfl)
@[simp] theorem exec_updSettings (s : State) : exec .updSettings s = execUpdSettings s := (rfl)
@[simp] theorem exec_updFuse (s : State) : exec .updFuse s = execUpdFuse s := (rfl)
@[simp] theorem exec_updActivateCheck (s : State) : exec .updActivateCheck s = execUpdActivateCheck s := (rfl)
@[simp] theorem exec_updActivateExpired (s : State) : exec .updActivateExpired s = execUpdActivateExpired s := (rfl)
@[simp] theorem exec_updTrialTimeout (s : State) : exec .updTrialTimeout s = execUpdTrialTimeout s := (rfl)
@[simp] theorem exec_kslChallengeReq (frame : List Nat) (s : State) : exec (.kslChallengeReq frame) s = execKslChallengeReq frame s := (rfl)
@[simp] theorem exec_kslAuth (frame : List Nat) (s : State) : exec (.kslAuth frame) s = execKslAuth frame s := (rfl)
@[simp] theorem exec_kslReq (frame : List Nat) (s : State) : exec (.kslReq frame) s = execKslReq frame s := (rfl)
@[simp] theorem exec_kslData (frame : List Nat) (s : State) : exec (.kslData frame) s = execKslData frame s := (rfl)
@[simp] theorem exec_kslLoader (frame : List Nat) (done keysOk sigsOk : Bool) (svn : Nat) (blocksOk : Bool) (digest : Nat) (s : State) : exec (.kslLoader frame done keysOk sigsOk svn blocksOk digest) s = execKslLoader frame done keysOk sigsOk svn blocksOk digest s := (rfl)
@[simp] theorem exec_kslSessionTimeout (s : State) : exec .kslSessionTimeout s = execKslSessionTimeout s := (rfl)
@[simp] theorem exec_kslRead (frame : List Nat) (s : State) : exec (.kslRead frame) s = execKslRead frame s := (rfl)
@[simp] theorem exec_pwrDomSetState (m d target : Nat) (s : State) : exec (.pwrDomSetState m d target) s = execPwrDomSetState m d target s := (rfl)
@[simp] theorem exec_pwrDomResetCores (m d cores : Nat) (s : State) : exec (.pwrDomResetCores m d cores) s = execPwrDomResetCores m d cores s := (rfl)
@[simp] theorem exec_pwrEntryQuiesced (wfi : Bool) (wake : Nat) (s : State) : exec (.pwrEntryQuiesced wfi wake) s = execPwrEntryQuiesced wfi wake s := (rfl)
@[simp] theorem exec_pwrQuiesceTimeout (s : State) : exec .pwrQuiesceTimeout s = execPwrQuiesceTimeout s := (rfl)
@[simp] theorem exec_pwrExitDone (s : State) : exec .pwrExitDone s = execPwrExitDone s := (rfl)
@[simp] theorem exec_autoIdleEnter (d : Nat) (s : State) : exec (.autoIdleEnter d) s = execAutoIdleEnter d s := (rfl)
@[simp] theorem exec_autoIdleExit (d : Nat) (s : State) : exec (.autoIdleExit d) s = execAutoIdleExit d s := (rfl)
@[simp] theorem exec_wakeSourceAssert (source dom : Nat) (s : State) : exec (.wakeSourceAssert source dom) s = execWakeSourceAssert source dom s := (rfl)
@[simp] theorem exec_dozeRequest (m : Nat) (oscStop : Bool) (s : State) : exec (.dozeRequest m oscStop) s = execDozeRequest m oscStop s := (rfl)
@[simp] theorem exec_dozeWake (ticks startUs : Nat) (s : State) : exec (.dozeWake ticks startUs) s = execDozeWake ticks startUs s := (rfl)
@[simp] theorem exec_dozeExitDone (s : State) : exec .dozeExitDone s = execDozeExitDone s := (rfl)
@[simp] theorem exec_dozeExitSlow (s : State) : exec .dozeExitSlow s = execDozeExitSlow s := (rfl)
@[simp] theorem exec_pllUnlock (n : Nat) (s : State) : exec (.pllUnlock n) s = execPllUnlock n s := (rfl)
@[simp] theorem exec_clkRefLoss (k : Nat) (s : State) : exec (.clkRefLoss k) s = execClkRefLoss k s := (rfl)
@[simp] theorem exec_clkRefReturn (k : Nat) (s : State) : exec (.clkRefReturn k) s = execClkRefReturn k s := (rfl)
@[simp] theorem exec_pfailRecognised (ns ticks startUs : Nat) (s : State) : exec (.pfailRecognised ns ticks startUs) s = execPfailRecognised ns ticks startUs s := (rfl)
@[simp] theorem exec_aonSrstReq (m : Nat) (s : State) : exec (.aonSrstReq m) s = execAonSrstReq m s := (rfl)
@[simp] theorem exec_fatalResetTimer (s : State) : exec .fatalResetTimer s = execFatalResetTimer s := (rfl)
@[simp] theorem exec_erqInject (m slot cond : Nat) (s : State) : exec (.erqInject m slot cond) s = execErqInject m slot cond s := (rfl)
@[simp] theorem exec_memoryEccError (kind slot addr tag : Nat) (spare : Bool) (s : State) : exec (.memoryEccError kind slot addr tag spare) s = execMemoryEccError kind slot addr tag spare s := (rfl)
@[simp] theorem exec_evrEpochEnd (fails : Nat) (written : Bool) (s : State) : exec (.evrEpochEnd fails written) s = execEvrEpochEnd fails written s := (rfl)
@[simp] theorem exec_evrSample (m metric value : Nat) (s : State) : exec (.evrSample m metric value) s = execEvrSample m metric value s := (rfl)
@[simp] theorem exec_evrCursorWrite (m area epoch metric : Nat) (s : State) : exec (.evrCursorWrite m area epoch metric) s = execEvrCursorWrite m area epoch metric s := (rfl)
@[simp] theorem exec_evrWindowLoaded (s : State) : exec .evrWindowLoaded s = execEvrWindowLoaded s := (rfl)
@[simp] theorem exec_evrWinRead (m k : Nat) (s : State) : exec (.evrWinRead m k) s = execEvrWinRead m k s := (rfl)
@[simp] theorem exec_evrClrChalRead (m : Nat) (s : State) : exec (.evrClrChalRead m) s = execEvrClrChalRead m s := (rfl)
@[simp] theorem exec_evrClrReq (m addr : Nat) (s : State) : exec (.evrClrReq m addr) s = execEvrClrReq m addr s := (rfl)
@[simp] theorem exec_evrSecClear (m : Nat) (written : Bool) (s : State) : exec (.evrSecClear m written) s = execEvrSecClear m written s := (rfl)
@[simp] theorem exec_ageSample (n margin : Nat) (s : State) : exec (.ageSample n margin) s = execAgeSample n margin s := (rfl)
@[simp] theorem exec_thermalWarning (sensor : Nat) (temp : Int) (s : State) : exec (.thermalWarning sensor temp) s = execThermalWarning sensor temp s := (rfl)
@[simp] theorem exec_thermalWarningClear (sensor : Nat) (temp : Int) (s : State) : exec (.thermalWarningClear sensor temp) s = execThermalWarningClear sensor temp s := (rfl)
@[simp] theorem exec_thermalShutdown (sensor : Nat) (temp : Int) (s : State) : exec (.thermalShutdown sensor temp) s = execThermalShutdown sensor temp s := (rfl)
@[simp] theorem exec_thermalTrip (sensor : Nat) (temp : Int) (s : State) : exec (.thermalTrip sensor temp) s = execThermalTrip sensor temp s := (rfl)
@[simp] theorem exec_idcode (s : State) : exec .idcode s = execIdcode s := (rfl)
@[simp] theorem exec_samplePreload (levels value : Nat) (s : State) : exec (.samplePreload levels value) s = execSamplePreload levels value s := (rfl)
@[simp] theorem exec_extest (levels value : Nat) (s : State) : exec (.extest levels value) s = execExtest levels value s := (rfl)
@[simp] theorem exec_extestPulse (levels value : Nat) (s : State) : exec (.extestPulse levels value) s = execExtestPulse levels value s := (rfl)
@[simp] theorem exec_extestTrain (levels value : Nat) (s : State) : exec (.extestTrain levels value) s = execExtestTrain levels value s := (rfl)
@[simp] theorem exec_clamp (s : State) : exec .clamp s = execClamp s := (rfl)
@[simp] theorem exec_highz (s : State) : exec .highz s = execHighz s := (rfl)
@[simp] theorem exec_bypass (code : Nat) (s : State) : exec (.bypass code) s = execBypass code s := (rfl)
@[simp] theorem exec_tapReset (s : State) : exec .tapReset s = execTapReset s := (rfl)
@[simp] theorem exec_dbgChal (s : State) : exec .dbgChal s = execDbgChal s := (rfl)
@[simp] theorem exec_dbgToken (bytes : List Nat) (s : State) : exec (.dbgToken bytes) s = execDbgToken bytes s := (rfl)
@[simp] theorem exec_dbgStat (s : State) : exec .dbgStat s = execDbgStat s := (rfl)
@[simp] theorem exec_dbgMem (write : Bool) (addr : Nat) (data : Word) (s : State) : exec (.dbgMem write addr data) s = execDbgMem write addr data s := (rfl)
@[simp] theorem exec_tstRun (m q : Nat) (s : State) : exec (.tstRun m q) s = execTstRun m q s := (rfl)
@[simp] theorem exec_tstStop (m q : Nat) (errs : List Nat) (s : State) : exec (.tstStop m q errs) s = execTstStop m q errs s := (rfl)
@[simp] theorem exec_tstClear (m q : Nat) (s : State) : exec (.tstClear m q) s = execTstClear m q s := (rfl)
@[simp] theorem exec_tstEyeScan (m q : Nat) (s : State) : exec (.tstEyeScan m q) s = execTstEyeScan m q s := (rfl)
@[simp] theorem exec_tstEyeDone (q : Nat) (counts : List Nat) (s : State) : exec (.tstEyeDone q counts) s = execTstEyeDone q counts s := (rfl)
@[simp] theorem exec_tstCheckerLock (q n : Nat) (s : State) : exec (.tstCheckerLock q n) s = execTstCheckerLock q n s := (rfl)
@[simp] theorem exec_tstLockLoss (q n errs : Nat) (s : State) : exec (.tstLockLoss q n errs) s = execTstLockLoss q n errs s := (rfl)
@[simp] theorem exec_porstNAssert (ns : Nat) (s : State) : exec (.porstNAssert ns) s = execPorstNAssert ns s := (rfl)
@[simp] theorem exec_porstNRelease (fuse : Nat) (s : State) : exec (.porstNRelease fuse) s = execPorstNRelease fuse s := (rfl)
@[simp] theorem exec_srstNAssert (ns : Nat) (s : State) : exec (.srstNAssert ns) s = execSrstNAssert ns s := (rfl)
@[simp] theorem exec_srstNRelease (fuse : Nat) (s : State) : exec (.srstNRelease fuse) s = execSrstNRelease fuse s := (rfl)
@[simp] theorem exec_internalReset (fuse : Nat) (s : State) : exec (.internalReset fuse) s = execInternalReset fuse s := (rfl)
@[simp] theorem exec_supplyLoss (aonLost : Bool) (s : State) : exec (.supplyLoss aonLost) s = execSupplyLoss aonLost s := (rfl)

end Sys2Proof.Machine
end

