-- ==== Sys2Proof/Laws/Keeps.lean ====
section
/-! SUPPORT. What every command keeps: a property of the memory, of the fuses and of the queue, and the lemmas its proofs share. -/

set_option linter.all false

namespace Sys2Proof.Machine

/-- What is asked of a state: of its memory, its fuses and the commands that wait. -/
structure Inv where
  mem : List Host.Cell → Prop
  fuses : Fuses → Prop
  queue : List Instr → Prop

/-- Writing a byte of memory keeps it. -/
class Inv.Writes (I : Inv) : Prop where
  wr : ∀ (a : Nat) (b : BitVec 8) {m : List Host.Cell}, I.mem m → I.mem (Mem.wr a b m)

/-- The memory of a reset head has it. -/
class Inv.Clears (I : Inv) : Prop where
  nil : I.mem []

/-- Blowing a fuse as R571 allows keeps it, and so does a row that the ROM corrects. -/
class Inv.Blows (I : Inv) : Prop where
  blow : ∀ {f : Fuses} {op value : Nat}, (op = 3 → f.rootI = none) → I.fuses f → I.fuses (f.blow op value)
  corrected : ∀ {f : Fuses} (b : Bool), I.fuses f → I.fuses { f with corrected := b }

/-- A state has what is asked. -/
structure Keeps (r : Inv) (s : State) : Prop where
  queue : r.queue s.pending
  mem : r.mem s.mem
  fuses : r.fuses s.sec.fuses

theorem Keeps.same {r : Inv} {s t : State} (h : Keeps r s) (q : t.pending = s.pending) (m : t.mem = s.mem) (f : t.sec.fuses = s.sec.fuses) : Keeps r t :=
  ⟨q ▸ h.queue, m ▸ h.mem, f ▸ h.fuses⟩

def ResKeeps (r : Inv) (o : Res) : Prop := ∀ t, o = .next t → Keeps r t

theorem ResKeeps.next {r : Inv} {t : State} (h : Keeps r t) : ResKeeps r (.next t) := fun _ e => Host.Outcome.next.inj e ▸ h

theorem foldl_keeps {α : Type} {r : Inv} {s : State} {l : List α} {g : State → α → State} (h : Keeps r s)
    (hg : ∀ t a, Keeps r t → Keeps r (g t a)) : Keeps r (l.foldl g s) := by
  induction l generalizing s with
  | nil => exact h
  | cons a t ih => exact ih (hg _ _ h)

theorem pair_keeps {α : Type} {r : Inv} {t : State} {a : α} {p : α × State} (e : p = (a, t)) (h : Keeps r p.2) : Keeps r t := by
  subst e; exact h

theorem Keeps.lit {r : Inv} {s : State} {a1 a2 a3 a4 a5 a6 a7 a8 a9 a10 a11 a12 a13 a14 a15 a16 a17 a18 a19 a20 a21 a22 a23 a24 a25 a26 a27 a28} (h : Keeps r s)
   (q : a28 = s.pending) (m : a5 = s.mem) (f : SecSt.fuses a22 = s.sec.fuses) :
  Keeps r ⟨a1, a2, a3, a4, a5, a6, a7, a8, a9, a10, a11, a12, a13, a14, a15, a16, a17, a18, a19, a20, a21, a22, a23, a24, a25, a26, a27, a28⟩ :=
  h.same q m f

theorem keepCut {G : Prop} {r : Inv} {x : State} (h : Keeps r x) (g : Keeps r x → G) : G := g h

theorem ite_keeps {r : Inv} {a b : State} {c : Prop} [Decidable c] (h1 : Keeps r a) (h2 : Keeps r b) : Keeps r (if c then a else b) := by
  split <;> assumption

theorem foldl_fst_keeps {α β : Type} {r : Inv} {l : List α} {g : State × β → α → State × β} {p : State × β} (h : Keeps r p.1)
    (hg : ∀ q a, Keeps r q.1 → Keeps r (g q a).1) : Keeps r (l.foldl g p).1 := by
  induction l generalizing p with
  | nil => exact h
  | cons a t ih => exact ih (hg _ _ h)

theorem foldl_snd_keeps {α β : Type} {r : Inv} {l : List α} {g : β × State → α → β × State} {p : β × State} (h : Keeps r p.2)
    (hg : ∀ q a, Keeps r q.2 → Keeps r (g q a).2) : Keeps r (l.foldl g p).2 := by
  induction l generalizing p with
  | nil => exact h
  | cons a t ih => exact ih (hg _ _ h)

def OptKeeps {β : Type} (r : Inv) (o : Option (β × State)) : Prop := ∀ a t, o = some (a, t) → Keeps r t

theorem foldl_opt_keeps {α β : Type} {r : Inv} {l : List α} {g : Option (β × State) → α → Option (β × State)} {p : Option (β × State)}
    (h : OptKeeps r p) (hg : ∀ q a, OptKeeps r q → OptKeeps r (g q a)) : OptKeeps r (l.foldl g p) := by
  induction l generalizing p with
  | nil => exact h
  | cons a t ih => exact ih (hg _ _ h)

theorem Mem.foldl_wf {α : Type} {l : List α} {g : List Host.Cell → α → List Host.Cell} {m : List Host.Cell} (h : Mem.wf m = true)
    (hg : ∀ m a, Mem.wf m = true → Mem.wf (g m a) = true) : Mem.wf (l.foldl g m) = true := by
  induction l generalizing m with
  | nil => exact h
  | cons a t ih => exact ih (hg _ _ h)

theorem Mem.wrs_inv {r : Inv} [r.Writes] {l : List (BitVec 8)} {a : Nat} {m : List Host.Cell} (h : r.mem m) : r.mem (Mem.wrs a l m) := by
  induction l generalizing a m with
  | nil => exact h
  | cons b t ih => exact ih (Inv.Writes.wr a b h)

theorem snd_ite_keeps {α : Type} {r : Inv} {a b : α × State} {c : Prop} [Decidable c] (h1 : Keeps r a.2) (h2 : Keeps r b.2) :
    Keeps r (if c then a else b).2 := by
  split <;> assumption

theorem snd_mk_keeps {α : Type} {r : Inv} {s : State} {a : α} (h : Keeps r s) : Keeps r (a, s).2 := h

/-- What an operation of the update service leaves keeps what `Keeps` says. -/
def UpdKeeps (r : Inv) (o : Option (Nat × List Nat × State)) : Prop := ∀ x w t, o = some (x, w, t) → Keeps r t

theorem UpdKeeps.none {r : Inv} : UpdKeeps r none := fun _ _ _ e => nomatch e

theorem UpdKeeps.some {r : Inv} {t : State} {x : Nat} {w : List Nat} (h : Keeps r t) : UpdKeeps r (some (x, w, t)) := fun _ _ _ e => by cases e; exact h

theorem UpdKeeps.ite {r : Inv} {c : Prop} [Decidable c] {a b : Option (Nat × List Nat × State)} (h1 : UpdKeeps r a) (h2 : UpdKeeps r b) :
    UpdKeeps r (if c then a else b) := by
  split <;> assumption

/-- An optional state keeps what `Keeps` says. -/
def OptK (r : Inv) (o : Option State) : Prop := ∀ t, o = some t → Keeps r t

theorem OptK.none {r : Inv} : OptK r none := fun _ e => nomatch e

theorem OptK.some {r : Inv} {t : State} (h : Keeps r t) : OptK r (some t) := fun _ e => by cases e; exact h

theorem OptK.ite {r : Inv} {c : Prop} [Decidable c] {a b : Option State} (h1 : OptK r a) (h2 : OptK r b) : OptK r (if c then a else b) := by
  split <;> assumption

theorem OptK.orElse {r : Inv} {a : Option State} {b : Unit → Option State} (h1 : OptK r a) (h2 : OptK r (b ())) : OptK r (a.orElse b) := by
  cases a with
  | none => exact h2
  | some t => exact h1

end Sys2Proof.Machine
end

