-- ==== Sys2Proof/Laws/KeepsOps.lean ====
section
/-! SUPPORT. The operations and commands of Machine/Ops.lean keep what a state is asked (Laws/Keeps.lean). -/

set_option linter.all false

namespace Sys2Proof.Machine

theorem State.set_keeps {st0 : Inv} {s : State} (h : Keeps st0 s) {f : Fld} {v : Nat}  :
    Keeps st0 (State.set s f v) := by
  unfold State.set
  repeat' first
    | with_reducible assumption
    | (fail_if_no_progress (with_reducible apply Keeps.lit <;> try exact rfl))

theorem State.satInc_keeps {st0 : Inv} {s : State} (h : Keeps st0 s) {f : Fld} {n : Nat}  :
    Keeps st0 (State.satInc s f n) := by
  unfold State.satInc
  repeat' first
    | with_reducible assumption
    | with_reducible apply State.set_keeps

theorem State.bump_keeps {st0 : Inv} {s : State} (h : Keeps st0 s) {f : Fld} {n : Nat}  :
    Keeps st0 (State.bump s f n) := by
  unfold State.bump
  repeat' first
    | with_reducible assumption
    | with_reducible apply State.set_keeps

theorem State.drop_keeps {st0 : Inv} {s : State} (h : Keeps st0 s) {f : Fld} {n : Nat}  :
    Keeps st0 (State.drop s f n) := by
  unfold State.drop
  repeat' first
    | with_reducible assumption
    | with_reducible apply State.set_keeps

theorem State.setAll_keeps {r : Inv} {l : List (Fld × Nat)} {s : State} (h : Keeps r s) : Keeps r (s.setAll l) := by
  induction l generalizing s with
  | nil => exact h
  | cons q t ih => exact ih (State.set_keeps h)

theorem State.free_keeps {st0 : Inv} {s : State} (h : Keeps st0 s) {w : Nat}  :
    Keeps st0 (State.free s w).2 := by
  unfold State.free
  repeat' first
    | with_reducible assumption
    | (fail_if_no_progress (with_reducible apply Keeps.lit <;> try exact rfl))

theorem State.modHdr_keeps {st0 : Inv} {s : State} (h : Keeps st0 s) {slot : Nat} {f : PageHdr → PageHdr}  :
    Keeps st0 (State.modHdr s slot f) := by
  unfold State.modHdr
  repeat' first
    | with_reducible assumption
    | (fail_if_no_progress (with_reducible apply Keeps.lit <;> try exact rfl))

theorem State.setUnit_keeps {st0 : Inv} {s : State} (h : Keeps st0 s) {key : Nat} {u : BlockUnit}  :
    Keeps st0 (State.setUnit s key u) := by
  unfold State.setUnit
  repeat' first
    | with_reducible assumption
    | (fail_if_no_progress (with_reducible apply Keeps.lit <;> try exact rfl))

theorem State.irq_keeps {st0 : Inv} {s : State} (h : Keeps st0 s) {slot : Nat} {bit : Nat}  :
    Keeps st0 (State.irq s slot bit) := by
  unfold State.irq
  repeat' first
    | with_reducible assumption
    | with_reducible apply State.modHdr_keeps

theorem State.irqOff_keeps {st0 : Inv} {s : State} (h : Keeps st0 s) {slot : Nat} {bit : Nat}  :
    Keeps st0 (State.irqOff s slot bit) := by
  unfold State.irqOff
  repeat' first
    | with_reducible assumption
    | with_reducible apply State.modHdr_keeps

theorem State.irqIs_keeps {st0 : Inv} {s : State} (h : Keeps st0 s) {slot : Nat} {bit : Nat} {b : Bool}  :
    Keeps st0 (State.irqIs s slot bit b) := by
  unfold State.irqIs
  repeat' first
    | with_reducible assumption
    | with_reducible refine ite_keeps ?_ ?_
    | with_reducible apply State.irq_keeps
    | with_reducible apply State.irqOff_keeps

theorem State.sendOut_keeps {st0 : Inv} {s : State} (h : Keeps st0 s) {o : Out} :
    Keeps st0 (State.sendOut s o) := by
  unfold State.sendOut
  repeat' first
    | with_reducible assumption
    | with_reducible refine ite_keeps ?_ ?_
    | split
    | (fail_if_no_progress (with_reducible apply Keeps.lit <;> try exact rfl))
    | with_reducible refine snd_ite_keeps ?_ ?_
    | with_reducible refine snd_mk_keeps ?_
    | with_reducible refine pair_keeps (by assumption) ?_
    | intro _
    | beta_reduce

theorem State.send_keeps {st0 : Inv} {s : State} (h : Keeps st0 s) {d : Dest} {k : Nat} {args : List Nat} :
    Keeps st0 (State.send s d k args) := by
  unfold State.send
  repeat' first
    | with_reducible assumption
    | with_reducible apply State.sendOut_keeps
    | split
    | (fail_if_no_progress (with_reducible apply Keeps.lit <;> try exact rfl))
    | with_reducible refine snd_ite_keeps ?_ ?_
    | with_reducible refine snd_mk_keeps ?_
    | with_reducible refine pair_keeps (by assumption) ?_
    | intro _
    | beta_reduce

theorem State.answer_keeps {st0 : Inv} {s : State} (h : Keeps st0 s) {v : Nat}  :
    Keeps st0 (State.answer s v) := by
  unfold State.answer
  repeat' first
    | with_reducible assumption
    | (fail_if_no_progress (with_reducible apply Keeps.lit <;> try exact rfl))

theorem State.modBundle_keeps {st0 : Inv} {s : State} (h : Keeps st0 s) {b : Nat} {f : Bundle → Bundle}  :
    Keeps st0 (State.modBundle s b f) := by
  unfold State.modBundle
  repeat' first
    | with_reducible assumption
    | (fail_if_no_progress (with_reducible apply Keeps.lit <;> try exact rfl))

theorem State.bundleFlit_keeps {st0 : Inv} {s : State} (h : Keeps st0 s) {b : Nat} {typ : Nat} {start : Nat} {seq : Nat} {credits : Nat} {slots : Nat} :
    Keeps st0 (State.bundleFlit s b typ start seq credits slots) := by
  unfold State.bundleFlit
  repeat' first
    | with_reducible assumption
    | (extract_lets -underBinder -merge +onlyGivenNames x; refine keepCut (r := st0) (x := x) ?_ (fun hx => ?_); (on_goal 1 => (unfold x; clear x)); (on_goal 2 => clear_value x))
    | (extract_lets -underBinder -merge +onlyGivenNames x; guard_hyp x : SecSt)
    | (extract_lets -underBinder -merge +onlyGivenNames x; clear_value x)
    | with_reducible apply State.send_keeps
    | with_reducible apply State.modBundle_keeps
    | split
    | (fail_if_no_progress (with_reducible apply Keeps.lit <;> try exact rfl))
    | with_reducible refine snd_ite_keeps ?_ ?_
    | with_reducible refine snd_mk_keeps ?_
    | with_reducible refine pair_keeps (by assumption) ?_
    | intro _
    | beta_reduce

theorem State.bundleSkip_keeps {st0 : Inv} {s : State} (h : Keeps st0 s) {b : Nat} :
    Keeps st0 (State.bundleSkip s b) := by
  unfold State.bundleSkip
  repeat' first
    | with_reducible assumption
    | with_reducible refine ite_keeps ?_ ?_
    | with_reducible apply State.modBundle_keeps
    | with_reducible apply State.bundleFlit_keeps
    | split
    | (fail_if_no_progress (with_reducible apply Keeps.lit <;> try exact rfl))
    | with_reducible refine snd_ite_keeps ?_ ?_
    | with_reducible refine snd_mk_keeps ?_
    | with_reducible refine pair_keeps (by assumption) ?_
    | intro _
    | beta_reduce

theorem State.putPeer_keeps {st0 : Inv} {s : State} (h : Keeps st0 s) {b : Nat} {typ : Nat} {start : Nat} {seq : Nat} {credits : Nat} {slots : Nat} :
    Keeps st0 (State.putPeer s b typ start seq credits slots) := by
  unfold State.putPeer
  repeat' first
    | with_reducible assumption
    | with_reducible apply State.bundleFlit_keeps
    | with_reducible apply State.bundleSkip_keeps
    | split
    | (fail_if_no_progress (with_reducible apply Keeps.lit <;> try exact rfl))
    | with_reducible refine snd_ite_keeps ?_ ?_
    | with_reducible refine snd_mk_keeps ?_
    | with_reducible refine pair_keeps (by assumption) ?_
    | intro _
    | beta_reduce

theorem State.putPeerData_keeps {st0 : Inv} {s : State} (h : Keeps st0 s) {b : Nat} {start : Nat} {slots : Nat} :
    Keeps st0 (State.putPeerData s b start slots) := by
  unfold State.putPeerData
  repeat' first
    | with_reducible assumption
    | (extract_lets -underBinder -merge +onlyGivenNames x; refine keepCut (r := st0) (x := x) ?_ (fun hx => ?_); (on_goal 1 => (unfold x; clear x)); (on_goal 2 => clear_value x))
    | (extract_lets -underBinder -merge +onlyGivenNames x; guard_hyp x : SecSt)
    | (extract_lets -underBinder -merge +onlyGivenNames x; clear_value x)
    | with_reducible apply State.modBundle_keeps
    | with_reducible apply State.putPeer_keeps
    | split
    | (fail_if_no_progress (with_reducible apply Keeps.lit <;> try exact rfl))
    | with_reducible refine snd_ite_keeps ?_ ?_
    | with_reducible refine snd_mk_keeps ?_
    | with_reducible refine pair_keeps (by assumption) ?_
    | intro _
    | beta_reduce

theorem State.peerReturn_keeps {st0 : Inv} {s : State} (h : Keeps st0 s) {cls : Nat} {n : Nat} :
    Keeps st0 (State.peerReturn s cls n) := by
  unfold State.peerReturn
  repeat' first
    | with_reducible assumption
    | (extract_lets -underBinder -merge +onlyGivenNames x; refine keepCut (r := st0) (x := x) ?_ (fun hx => ?_); (on_goal 1 => (unfold x; clear x)); (on_goal 2 => clear_value x))
    | (extract_lets -underBinder -merge +onlyGivenNames x; guard_hyp x : SecSt)
    | (extract_lets -underBinder -merge +onlyGivenNames x; clear_value x)
    | with_reducible apply State.send_keeps
    | with_reducible apply State.putPeer_keeps
    | with_reducible refine foldl_keeps ?_ (fun _ _ _ => ?_)
    | split
    | (fail_if_no_progress (with_reducible apply Keeps.lit <;> try exact rfl))
    | with_reducible refine snd_ite_keeps ?_ ?_
    | with_reducible refine snd_mk_keeps ?_
    | with_reducible refine pair_keeps (by assumption) ?_
    | intro _
    | beta_reduce

theorem State.peerBegin_keeps {st0 : Inv} {s : State} (h : Keeps st0 s) {b : Nat} {m : PeerMsg} :
    Keeps st0 (State.peerBegin s b m) := by
  unfold State.peerBegin
  repeat' first
    | with_reducible assumption
    | (extract_lets -underBinder -merge +onlyGivenNames x; refine keepCut (r := st0) (x := x) ?_ (fun hx => ?_); (on_goal 1 => (unfold x; clear x)); (on_goal 2 => clear_value x))
    | (extract_lets -underBinder -merge +onlyGivenNames x; guard_hyp x : SecSt)
    | (extract_lets -underBinder -merge +onlyGivenNames x; clear_value x)
    | with_reducible refine ite_keeps ?_ ?_
    | with_reducible apply State.drop_keeps
    | with_reducible apply State.send_keeps
    | with_reducible apply State.modBundle_keeps
    | with_reducible apply State.putPeerData_keeps
    | with_reducible refine foldl_keeps ?_ (fun _ _ _ => ?_)
    | split
    | (fail_if_no_progress (with_reducible apply Keeps.lit <;> try exact rfl))
    | with_reducible refine snd_ite_keeps ?_ ?_
    | with_reducible refine snd_mk_keeps ?_
    | with_reducible refine pair_keeps (by assumption) ?_
    | intro _
    | beta_reduce

theorem State.peerPump_keeps {r : Inv} {s : State} (h : Keeps r s) : Keeps r (State.peerPump s) := by
  unfold State.peerPump
  refine foldl_fst_keeps h (fun a m ha => ?_)
  beta_reduce
  split
  · exact ha
  · split
    · exact ha
    · split
      · exact ha
      · exact State.peerBegin_keeps (Keeps.lit ha rfl rfl rfl)

theorem State.sendPeer_keeps {st0 : Inv} {s : State} (h : Keeps st0 s) {mtype : Nat} {cls : Nat} {args : List Nat}  :
    Keeps st0 (State.sendPeer s mtype cls args) := by
  unfold State.sendPeer
  repeat' first
    | with_reducible assumption
    | with_reducible refine ite_keeps ?_ ?_
    | with_reducible apply State.bump_keeps
    | with_reducible apply State.peerPump_keeps
    | (fail_if_no_progress (with_reducible apply Keeps.lit <;> try exact rfl))

theorem State.sample_keeps {st0 : Inv} {s : State} (h : Keeps st0 s) {m : Nat} {v : Nat}  :
    Keeps st0 (State.sample s m v) := by
  unfold State.sample
  repeat' first
    | with_reducible assumption
    | with_reducible refine ite_keeps ?_ ?_
    | (fail_if_no_progress (with_reducible apply Keeps.lit <;> try exact rfl))

theorem State.setLease_keeps {st0 : Inv} {s : State} (h : Keeps st0 s) {sh : Nat} {v : Nat}  :
    Keeps st0 (State.setLease s sh v) := by
  unfold State.setLease
  repeat' first
    | with_reducible assumption
    | with_reducible refine ite_keeps ?_ ?_
    | with_reducible apply State.set_keeps
    | with_reducible apply State.irq_keeps

theorem State.setFence_keeps {st0 : Inv} {s : State} (h : Keeps st0 s) {sh : Nat} {v : Nat}  :
    Keeps st0 (State.setFence s sh v) := by
  unfold State.setFence
  repeat' first
    | with_reducible assumption
    | with_reducible refine ite_keeps ?_ ?_
    | with_reducible apply State.set_keeps

theorem State.fence_keeps {st0 : Inv} {s : State} (h : Keeps st0 s) {sh : Nat}  :
    Keeps st0 (State.fence s sh) := by
  unfold State.fence
  repeat' first
    | with_reducible assumption
    | with_reducible apply State.setFence_keeps
    | with_reducible apply State.bump_keeps
    | with_reducible apply State.setLease_keeps
    | (fail_if_no_progress (with_reducible apply Keeps.lit <;> try exact rfl))

theorem State.fenceLoss_keeps {st0 : Inv} {s : State} (h : Keeps st0 s) {sh : Nat} {cause : Nat} {deny : Nat}  :
    Keeps st0 (State.fenceLoss s sh cause deny) := by
  unfold State.fenceLoss
  repeat' first
    | with_reducible assumption
    | with_reducible refine ite_keeps ?_ ?_
    | with_reducible apply State.fence_keeps
    | with_reducible apply State.setAll_keeps

theorem State.fenceAll_keeps {st0 : Inv} {s : State} (h : Keeps st0 s) {cause : Nat}  :
    Keeps st0 (State.fenceAll s cause) := by
  unfold State.fenceAll
  repeat' first
    | with_reducible assumption
    | with_reducible apply State.fenceLoss_keeps

theorem State.pageLock_keeps {st0 : Inv} {s : State} (h : Keeps st0 s) {slot : Nat} {writers : Nat} {lock : Bool} :
    Keeps st0 (State.pageLock s slot writers lock) := by
  unfold State.pageLock
  repeat' first
    | with_reducible assumption
    | with_reducible refine ite_keeps ?_ ?_
    | with_reducible apply State.modHdr_keeps
    | split
    | (fail_if_no_progress (with_reducible apply Keeps.lit <;> try exact rfl))
    | with_reducible refine snd_ite_keeps ?_ ?_
    | with_reducible refine snd_mk_keeps ?_
    | with_reducible refine pair_keeps (by assumption) ?_
    | intro _
    | beta_reduce

theorem State.lockAllPages_keeps {st0 : Inv} {s : State} (h : Keeps st0 s)  :
    Keeps st0 (State.lockAllPages s) := by
  unfold State.lockAllPages
  repeat' first
    | with_reducible assumption
    | with_reducible apply State.pageLock_keeps
    | with_reducible refine foldl_keeps ?_ (fun _ _ _ => ?_)
    | split
    | (fail_if_no_progress (with_reducible apply Keeps.lit <;> try exact rfl))
    | with_reducible refine snd_ite_keeps ?_ ?_
    | with_reducible refine snd_mk_keeps ?_
    | with_reducible refine pair_keeps (by assumption) ?_
    | intro _
    | beta_reduce

theorem State.setMode_keeps {st0 : Inv} {s : State} (h : Keeps st0 s) {m : Mode} :
    Keeps st0 (State.setMode s m) := by
  unfold State.setMode
  repeat' first
    | with_reducible assumption
    | (extract_lets -underBinder -merge +onlyGivenNames x; refine keepCut (r := st0) (x := x) ?_ (fun hx => ?_); (on_goal 1 => (unfold x; clear x)); (on_goal 2 => clear_value x))
    | (extract_lets -underBinder -merge +onlyGivenNames x; guard_hyp x : SecSt)
    | (extract_lets -underBinder -merge +onlyGivenNames x; clear_value x)
    | with_reducible refine ite_keeps ?_ ?_
    | with_reducible apply State.set_keeps
    | with_reducible apply State.setAll_keeps
    | with_reducible apply State.irq_keeps
    | with_reducible apply State.lockAllPages_keeps
    | split
    | (fail_if_no_progress (with_reducible apply Keeps.lit <;> try exact rfl))
    | with_reducible refine snd_ite_keeps ?_ ?_
    | with_reducible refine snd_mk_keeps ?_
    | with_reducible refine pair_keeps (by assumption) ?_
    | intro _
    | beta_reduce

theorem State.zeroJobs_keeps {st0 : Inv} {s : State} (h : Keeps st0 s)  :
    Keeps st0 (State.zeroJobs s) := by
  unfold State.zeroJobs
  repeat' first
    | with_reducible assumption
    | (extract_lets -underBinder -merge +onlyGivenNames x; refine keepCut (r := st0) (x := x) ?_ (fun hx => ?_); (on_goal 1 => (unfold x; clear x)); (on_goal 2 => clear_value x))
    | (extract_lets -underBinder -merge +onlyGivenNames x; guard_hyp x : SecSt)
    | (extract_lets -underBinder -merge +onlyGivenNames x; clear_value x)
    | with_reducible refine ite_keeps ?_ ?_
    | with_reducible apply State.bump_keeps
    | with_reducible refine foldl_keeps ?_ (fun _ _ _ => ?_)
    | split
    | (fail_if_no_progress (with_reducible apply Keeps.lit <;> try exact rfl))
    | with_reducible refine snd_ite_keeps ?_ ?_
    | with_reducible refine snd_mk_keeps ?_
    | with_reducible refine pair_keeps (by assumption) ?_
    | intro _
    | beta_reduce

theorem State.ldtSilent_keeps {st0 : Inv} {s : State} (h : Keeps st0 s) :
    Keeps st0 (State.ldtSilent s) := by
  unfold State.ldtSilent
  extract_lets
  refine State.irqIs_keeps (State.irqIs_keeps ?_)
  exact h.same rfl rfl rfl

theorem State.endWork_keeps {st0 : Inv} {s : State} (h : Keeps st0 s)  :
    Keeps st0 (State.endWork s) := by
  unfold State.endWork
  repeat' first
    | with_reducible assumption
    | (extract_lets -underBinder -merge +onlyGivenNames x; refine keepCut (r := st0) (x := x) ?_ (fun hx => ?_); (on_goal 1 => (unfold x; clear x)); (on_goal 2 => clear_value x))
    | (extract_lets -underBinder -merge +onlyGivenNames x; guard_hyp x : SecSt)
    | (extract_lets -underBinder -merge +onlyGivenNames x; clear_value x)
    | with_reducible refine ite_keeps ?_ ?_
    | with_reducible apply State.drop_keeps
    | with_reducible apply State.setAll_keeps
    | with_reducible apply State.irqIs_keeps
    | with_reducible apply State.zeroJobs_keeps
    | with_reducible apply State.ldtSilent_keeps
    | with_reducible refine foldl_keeps ?_ (fun _ _ _ => ?_)
    | split
    | (fail_if_no_progress (with_reducible apply Keeps.lit <;> try exact rfl))
    | with_reducible refine snd_ite_keeps ?_ ?_
    | with_reducible refine snd_mk_keeps ?_
    | with_reducible refine pair_keeps (by assumption) ?_
    | intro _
    | beta_reduce

theorem State.enterFenced_keeps {st0 : Inv} {s : State} (h : Keeps st0 s) {cond : Nat}  :
    Keeps st0 (State.enterFenced s cond) := by
  unfold State.enterFenced
  repeat' first
    | with_reducible assumption
    | with_reducible apply State.setMode_keeps
    | with_reducible apply State.set_keeps
    | with_reducible apply State.endWork_keeps

theorem State.loseLease_keeps {st0 : Inv} {s : State} (h : Keeps st0 s) {sh : Nat} {cause : Nat} {deny : Nat} {cond : Nat}  :
    Keeps st0 (State.loseLease s sh cause deny cond) := by
  unfold State.loseLease
  repeat' first
    | with_reducible assumption
    | with_reducible refine ite_keeps ?_ ?_
    | with_reducible apply State.fenceLoss_keeps
    | with_reducible apply State.enterFenced_keeps

theorem State.fatal_keeps {st0 : Inv} {s : State} (h : Keeps st0 s) {cond : Nat}  :
    Keeps st0 (State.fatal s cond) := by
  unfold State.fatal
  repeat' first
    | with_reducible assumption
    | with_reducible refine ite_keeps ?_ ?_
    | with_reducible apply State.set_keeps
    | with_reducible apply State.irq_keeps
    | with_reducible apply State.fenceAll_keeps
    | with_reducible apply State.enterFenced_keeps
    | (fail_if_no_progress (with_reducible apply Keeps.lit <;> try exact rfl))

theorem State.recoveryRaise_keeps {st0 : Inv} {s : State} (h : Keeps st0 s) {cond : Nat} {sev : Nat}  :
    Keeps st0 (State.recoveryRaise s cond sev) := by
  unfold State.recoveryRaise
  repeat' first
    | with_reducible assumption
    | with_reducible refine ite_keeps ?_ ?_
    | with_reducible apply State.set_keeps
    | with_reducible apply State.fenceAll_keeps
    | with_reducible apply State.enterFenced_keeps
    | (fail_if_no_progress (with_reducible apply Keeps.lit <;> try exact rfl))

theorem State.erqUpdate_keeps {st0 : Inv} {s : State} (h : Keeps st0 s) {before : Nat}  :
    Keeps st0 (State.erqUpdate s before) := by
  unfold State.erqUpdate
  repeat' first
    | with_reducible assumption
    | with_reducible refine ite_keeps ?_ ?_
    | with_reducible apply State.setAll_keeps
    | with_reducible apply State.irq_keeps

theorem State.raiseAt_keeps {st0 : Inv} {s : State} (h : Keeps st0 s) {slot : Nat} {cond : Nat} {info : Nat} {sev0 : Nat}  :
    Keeps st0 (State.raiseAt s slot cond info sev0) := by
  unfold State.raiseAt
  repeat' first
    | with_reducible assumption
    | with_reducible refine ite_keeps ?_ ?_
    | with_reducible apply State.modHdr_keeps
    | with_reducible apply State.satInc_keeps
    | with_reducible apply State.erqUpdate_keeps
    | with_reducible apply State.sample_keeps
    | with_reducible apply State.fatal_keeps
    | with_reducible apply State.recoveryRaise_keeps
    | (fail_if_no_progress (with_reducible apply Keeps.lit <;> try exact rfl))

theorem State.raise_keeps {st0 : Inv} {s : State} (h : Keeps st0 s) {slot : Nat} {cond : Nat} {info : Nat}  :
    Keeps st0 (State.raise s slot cond info) := by
  unfold State.raise
  repeat' first
    | with_reducible assumption
    | with_reducible apply State.raiseAt_keeps

theorem State.domRegsLost_keeps {st0 : Inv} {s : State} (h : Keeps st0 s) {d : Nat} :
    Keeps st0 (State.domRegsLost s d) := by
  unfold State.domRegsLost
  repeat' first
    | with_reducible assumption
    | (extract_lets -underBinder -merge +onlyGivenNames x; refine keepCut (r := st0) (x := x) ?_ (fun hx => ?_); (on_goal 1 => (unfold x; clear x)); (on_goal 2 => clear_value x))
    | (extract_lets -underBinder -merge +onlyGivenNames x; guard_hyp x : SecSt)
    | (extract_lets -underBinder -merge +onlyGivenNames x; clear_value x)
    | with_reducible refine ite_keeps ?_ ?_
    | with_reducible apply State.erqUpdate_keeps
    | split
    | (fail_if_no_progress (with_reducible apply Keeps.lit <;> try exact rfl))
    | with_reducible refine snd_ite_keeps ?_ ?_
    | with_reducible refine snd_mk_keeps ?_
    | with_reducible refine pair_keeps (by assumption) ?_
    | intro _
    | beta_reduce

theorem State.cachesLost_keeps {st0 : Inv} {s : State} (h : Keeps st0 s) {c : Nat} :
    Keeps st0 (State.cachesLost s c) := by
  unfold State.cachesLost
  repeat' first
    | with_reducible assumption
    | with_reducible refine ite_keeps ?_ ?_
    | split
    | (fail_if_no_progress (with_reducible apply Keeps.lit <;> try exact rfl))
    | with_reducible refine snd_ite_keeps ?_ ?_
    | with_reducible refine snd_mk_keeps ?_
    | with_reducible refine pair_keeps (by assumption) ?_
    | intro _
    | beta_reduce

theorem State.slicesWipe_keeps {st0 : Inv} {s : State} (h : Keeps st0 s) {d : Nat} :
    Keeps st0 (State.slicesWipe s d) := by
  unfold State.slicesWipe
  repeat' first
    | with_reducible assumption
    | (extract_lets -underBinder -merge +onlyGivenNames x; refine keepCut (r := st0) (x := x) ?_ (fun hx => ?_); (on_goal 1 => (unfold x; clear x)); (on_goal 2 => clear_value x))
    | (extract_lets -underBinder -merge +onlyGivenNames x; guard_hyp x : SecSt)
    | (extract_lets -underBinder -merge +onlyGivenNames x; clear_value x)
    | with_reducible refine ite_keeps ?_ ?_
    | with_reducible apply State.drop_keeps
    | split
    | (fail_if_no_progress (with_reducible apply Keeps.lit <;> try exact rfl))
    | with_reducible refine snd_ite_keeps ?_ ?_
    | with_reducible refine snd_mk_keeps ?_
    | with_reducible refine pair_keeps (by assumption) ?_
    | intro _
    | beta_reduce

theorem State.domPut_keeps {st0 : Inv} {s : State} (h : Keeps st0 s) {d : Nat} {st : Nat}  :
    Keeps st0 (State.domPut s d st) := by
  unfold State.domPut
  repeat' first
    | with_reducible assumption
    | with_reducible refine ite_keeps ?_ ?_
    | with_reducible apply State.setAll_keeps
    | with_reducible apply State.bump_keeps
    | with_reducible apply State.domRegsLost_keeps
    | (fail_if_no_progress (with_reducible apply Keeps.lit <;> try exact rfl))

theorem State.deny_keeps {st0 : Inv} {s : State} (h : Keeps st0 s) {slot : Nat} {cond : Nat}  :
    Keeps st0 (State.deny s slot cond) := by
  unfold State.deny
  repeat' first
    | with_reducible assumption
    | with_reducible refine ite_keeps ?_ ?_
    | with_reducible apply State.modHdr_keeps
    | with_reducible apply State.raise_keeps

theorem State.judge_keeps {r : Inv} {s : State} (h : Keeps r s) {m slot off : Nat} {a b : Bool} :
    ∀ t, State.judge s m slot off a b = some t → Keeps r t := by
  intro t e
  unfold State.judge at e
  split at e
  · cases e; exact State.answer_keeps h
  · repeat' split at e
    all_goals first
      | (cases e; with_reducible first
          | with_reducible exact State.deny_keeps (State.answer_keeps h)
          | with_reducible exact State.raise_keeps (State.answer_keeps h)
          | with_reducible exact State.deny_keeps h)
      | cases e

theorem State.busWr_keeps {r : Inv} {s : State} (h : Keeps r s) {m slot off : Nat} {f : State → State} (hf : ∀ t, Keeps r t → Keeps r (f t)) :
    Keeps r (State.busWr s m slot off f) := by
  unfold State.busWr
  cases e : s.judge m slot off true true with
  | none => exact hf _ h
  | some t => exact State.judge_keeps h _ e

theorem State.busRd_keeps {r : Inv} {s : State} (h : Keeps r s) {m slot off : Nat} {f : State → State} (hf : ∀ t, Keeps r t → Keeps r (f t)) :
    Keeps r (State.busRd s m slot off f) := by
  unfold State.busRd
  cases e : s.judge m slot off true false with
  | none => exact hf _ h
  | some t => exact State.judge_keeps h _ e

theorem State.wrLE_keeps {r : Inv} [r.Writes] {s : State} (h : Keeps r s) {a n v : Nat} : Keeps r (s.wrLE a n v) := ⟨h.queue, Mem.wrs_inv h.mem, h.fuses⟩

theorem State.wrBytes_keeps {r : Inv} [r.Writes] {s : State} (h : Keeps r s) {a : Nat} {l : List Nat} : Keeps r (s.wrBytes a l) := ⟨h.queue, Mem.wrs_inv h.mem, h.fuses⟩

theorem State.putBytes_keeps {st0 : Inv} [st0.Writes] {s : State} (h : Keeps st0 s) {a : Nat} {l : List Nat} :
    Keeps st0 (State.putBytes s a l) := by
  unfold State.putBytes
  repeat' first
    | with_reducible assumption
    | with_reducible apply State.wrBytes_keeps
    | split
    | (fail_if_no_progress (with_reducible apply Keeps.lit <;> try exact rfl))
    | with_reducible refine snd_ite_keeps ?_ ?_
    | with_reducible refine snd_mk_keeps ?_
    | with_reducible refine pair_keeps (by assumption) ?_
    | intro _
    | beta_reduce

theorem State.modReq_keeps {st0 : Inv} {s : State} (h : Keeps st0 s) {tag : Nat} {f : Req → Req}  :
    Keeps st0 (State.modReq s tag f) := by
  unfold State.modReq
  repeat' first
    | with_reducible assumption
    | split
    | (fail_if_no_progress (with_reducible apply Keeps.lit <;> try exact rfl))

theorem State.poolTake_keeps {st0 : Inv} {s : State} (h : Keeps st0 s) {n : Nat} {k : Nat}  :
    Keeps st0 (State.poolTake s n k) := by
  unfold State.poolTake
  repeat' first
    | with_reducible assumption
    | with_reducible apply State.set_keeps

theorem State.poolGive_keeps {st0 : Inv} {s : State} (h : Keeps st0 s) {n : Nat} {k : Nat}  :
    Keeps st0 (State.poolGive s n k) := by
  unfold State.poolGive
  repeat' first
    | with_reducible assumption
    | with_reducible apply State.drop_keeps

theorem State.reqGive_keeps {st0 : Inv} {s : State} (h : Keeps st0 s) {tag : Nat} {n : Nat}  :
    Keeps st0 (State.reqGive s tag n) := by
  unfold State.reqGive
  repeat' first
    | with_reducible assumption
    | with_reducible apply State.poolGive_keeps
    | with_reducible apply State.modReq_keeps
    | split

theorem State.reqGiveAll_keeps {st0 : Inv} {s : State} (h : Keeps st0 s) {tag : Nat}  :
    Keeps st0 (State.reqGiveAll s tag) := by
  unfold State.reqGiveAll
  repeat' first
    | with_reducible assumption
    | with_reducible apply State.reqGive_keeps
    | with_reducible refine foldl_keeps ?_ (fun _ _ _ => ?_)

end Sys2Proof.Machine
end

