-- ==== Sys2Proof/Laws/KeepsTcp.lean ====
section
/-! SUPPORT. The operations and commands of Machine/Tcp.lean keep what a state is asked (Laws/Keeps.lean). -/

set_option linter.all false

namespace Sys2Proof.Machine

theorem State.modHost_keeps {st0 : Inv} {s : State} (h : Keeps st0 s) {f : HostSt → HostSt}  :
    Keeps st0 (State.modHost s f) := by
  unfold State.modHost
  repeat' first
    | with_reducible assumption
    | (fail_if_no_progress (with_reducible apply Keeps.lit <;> try exact rfl))

theorem State.groupCounts_keeps {st0 : Inv} {s : State} (h : Keeps st0 s) {g : Nat}  :
    Keeps st0 (State.groupCounts s g) := by
  unfold State.groupCounts
  repeat' first
    | with_reducible assumption
    | with_reducible apply State.setAll_keeps

theorem State.setPort_keeps {st0 : Inv} {s : State} (h : Keeps st0 s) {p : Nat} {st : Nat} {width : Nat} :
    Keeps st0 (State.setPort s p st width) := by
  unfold State.setPort
  repeat' first
    | with_reducible assumption
    | (extract_lets -underBinder -merge +onlyGivenNames x; refine keepCut (r := st0) (x := x) ?_ (fun hx => ?_); (on_goal 1 => (unfold x; clear x)); (on_goal 2 => clear_value x))
    | (extract_lets -underBinder -merge +onlyGivenNames x; guard_hyp x : SecSt)
    | (extract_lets -underBinder -merge +onlyGivenNames x; clear_value x)
    | with_reducible refine ite_keeps ?_ ?_
    | with_reducible apply State.set_keeps
    | with_reducible apply State.satInc_keeps
    | with_reducible apply State.setAll_keeps
    | with_reducible apply State.irq_keeps
    | with_reducible apply State.modHost_keeps
    | with_reducible apply State.groupCounts_keeps
    | split
    | (fail_if_no_progress (with_reducible apply Keeps.lit <;> try exact rfl))
    | with_reducible refine snd_ite_keeps ?_ ?_
    | with_reducible refine snd_mk_keeps ?_
    | with_reducible refine pair_keeps (by assumption) ?_
    | intro _
    | beta_reduce

theorem State.quadMode_keeps {st0 : Inv} {s : State} (h : Keeps st0 s) {q : Nat} {mode : Nat}  :
    Keeps st0 (State.quadMode s q mode) := by
  unfold State.quadMode
  repeat' first
    | with_reducible assumption
    | with_reducible refine ite_keeps ?_ ?_
    | with_reducible apply State.set_keeps
    | with_reducible apply State.setPort_keeps
    | with_reducible refine foldl_keeps ?_ (fun _ _ _ => ?_)

theorem State.quadApply_keeps {st0 : Inv} {s : State} (h : Keeps st0 s) {q : Nat}  :
    Keeps st0 (State.quadApply s q) := by
  unfold State.quadApply
  repeat' first
    | with_reducible assumption
    | with_reducible refine ite_keeps ?_ ?_
    | with_reducible apply State.quadMode_keeps
    | with_reducible apply State.set_keeps
    | with_reducible apply State.modHost_keeps

theorem State.countTx_keeps {st0 : Inv} {s : State} (h : Keeps st0 s) {port : Nat} {frames : Nat} {bytes : Nat}  :
    Keeps st0 (State.countTx s port frames bytes) := by
  unfold State.countTx
  repeat' first
    | with_reducible assumption
    | with_reducible apply State.bump_keeps

theorem State.frameOut_keeps {st0 : Inv} {s : State} (h : Keeps st0 s) {port : Nat} {o : Out} {bytes : Nat} :
    Keeps st0 (State.frameOut s port o bytes) := by
  unfold State.frameOut
  repeat' first
    | with_reducible assumption
    | with_reducible refine ite_keeps ?_ ?_
    | with_reducible apply State.sendOut_keeps
    | with_reducible apply State.modHost_keeps
    | with_reducible apply State.countTx_keeps
    | split
    | (fail_if_no_progress (with_reducible apply Keeps.lit <;> try exact rfl))
    | with_reducible refine snd_ite_keeps ?_ ?_
    | with_reducible refine snd_mk_keeps ?_
    | with_reducible refine pair_keeps (by assumption) ?_
    | intro _
    | beta_reduce

theorem State.hfiSend_keeps {st0 : Inv} {s : State} (h : Keeps st0 s) {port : Nat} {prio : Nat} {kind : Nat} {args : List Nat} {bytes : Nat} :
    Keeps st0 (State.hfiSend s port prio kind args bytes) := by
  unfold State.hfiSend
  repeat' first
    | with_reducible assumption
    | with_reducible apply State.frameOut_keeps
    | split
    | (fail_if_no_progress (with_reducible apply Keeps.lit <;> try exact rfl))
    | with_reducible refine snd_ite_keeps ?_ ?_
    | with_reducible refine snd_mk_keeps ?_
    | with_reducible refine pair_keeps (by assumption) ?_
    | intro _
    | beta_reduce

theorem State.modConn_keeps {st0 : Inv} {s : State} (h : Keeps st0 s) {c : Nat} {f : TcpConn → TcpConn}  :
    Keeps st0 (State.modConn s c f) := by
  unfold State.modConn
  repeat' first
    | with_reducible assumption
    | with_reducible apply State.modHost_keeps
    | split

theorem State.heldGo_keeps {st0 : Inv} {s : State} (h : Keeps st0 s) {port : Nat} :
    Keeps st0 (State.heldGo s port) := by
  unfold State.heldGo
  repeat' first
    | with_reducible assumption
    | (extract_lets -underBinder -merge +onlyGivenNames x; refine keepCut (r := st0) (x := x) ?_ (fun hx => ?_); (on_goal 1 => (unfold x; clear x)); (on_goal 2 => clear_value x))
    | (extract_lets -underBinder -merge +onlyGivenNames x; guard_hyp x : SecSt)
    | (extract_lets -underBinder -merge +onlyGivenNames x; clear_value x)
    | with_reducible apply State.modHost_keeps
    | with_reducible apply State.frameOut_keeps
    | with_reducible apply State.modConn_keeps
    | with_reducible refine foldl_keeps ?_ (fun _ _ _ => ?_)
    | split
    | (fail_if_no_progress (with_reducible apply Keeps.lit <;> try exact rfl))
    | with_reducible refine snd_ite_keeps ?_ ?_
    | with_reducible refine snd_mk_keeps ?_
    | with_reducible refine pair_keeps (by assumption) ?_
    | intro _
    | beta_reduce

theorem State.tcpFrame_keeps {st0 : Inv} {s : State} (h : Keeps st0 s) {c : Nat} {kind : Nat} {x : TcpConn} :
    Keeps st0 (State.tcpFrame s c kind x) := by
  unfold State.tcpFrame
  repeat' first
    | with_reducible assumption
    | with_reducible refine ite_keeps ?_ ?_
    | with_reducible apply State.sendOut_keeps
    | with_reducible apply State.frameOut_keeps
    | split
    | (fail_if_no_progress (with_reducible apply Keeps.lit <;> try exact rfl))
    | with_reducible refine snd_ite_keeps ?_ ?_
    | with_reducible refine snd_mk_keeps ?_
    | with_reducible refine pair_keeps (by assumption) ?_
    | intro _
    | beta_reduce

theorem State.tcpEmit_keeps {st0 : Inv} {s : State} (h : Keeps st0 s) {c : Nat} {x : TcpConn} {o : TcpOut} :
    Keeps st0 (State.tcpEmit s c x o) := by
  unfold State.tcpEmit
  repeat' first
    | with_reducible assumption
    | (extract_lets -underBinder -merge +onlyGivenNames x; refine keepCut (r := st0) (x := x) ?_ (fun hx => ?_); (on_goal 1 => (unfold x; clear x)); (on_goal 2 => clear_value x))
    | (extract_lets -underBinder -merge +onlyGivenNames x; guard_hyp x : SecSt)
    | (extract_lets -underBinder -merge +onlyGivenNames x; clear_value x)
    | with_reducible refine ite_keeps ?_ ?_
    | with_reducible apply State.bump_keeps
    | with_reducible apply State.countTx_keeps
    | with_reducible apply State.modConn_keeps
    | with_reducible apply State.sendOut_keeps
    | split
    | (fail_if_no_progress (with_reducible apply Keeps.lit <;> try exact rfl))
    | with_reducible refine snd_ite_keeps ?_ ?_
    | with_reducible refine snd_mk_keeps ?_
    | with_reducible refine pair_keeps (by assumption) ?_
    | intro _
    | beta_reduce

theorem State.dataPends_keeps {st0 : Inv} {s : State} (h : Keeps st0 s) {tag : Nat} :
    Keeps st0 (State.dataPends s tag) := by
  unfold State.dataPends
  repeat' first
    | with_reducible assumption
    | with_reducible refine ite_keeps ?_ ?_
    | with_reducible apply State.modConn_keeps
    | split
    | (fail_if_no_progress (with_reducible apply Keeps.lit <;> try exact rfl))
    | with_reducible refine snd_ite_keeps ?_ ?_
    | with_reducible refine snd_mk_keeps ?_
    | with_reducible refine pair_keeps (by assumption) ?_
    | intro _
    | beta_reduce

theorem State.tcpPump_keeps {st0 : Inv} {s : State} (h : Keeps st0 s) {a0 : Nat} {a1 : Nat} :
    Keeps st0 (State.tcpPump a0 a1 s) := by
  induction a0 generalizing a1 s with
  | zero =>
    unfold State.tcpPump
    repeat' first
      | with_reducible assumption
  | succ n ih =>
    unfold State.tcpPump
    repeat' first
      | with_reducible assumption
      | with_reducible apply State.modConn_keeps
      | with_reducible apply State.tcpEmit_keeps
      | with_reducible apply ih
      | split

theorem State.tcpGo_keeps {st0 : Inv} {s : State} (h : Keeps st0 s) {c : Nat}  :
    Keeps st0 (State.tcpGo s c) := by
  unfold State.tcpGo
  repeat' first
    | with_reducible assumption
    | with_reducible apply State.tcpPump_keeps
    | split

theorem State.tcpSend_keeps {st0 : Inv} {s : State} (h : Keeps st0 s) {c : Nat} {kind : Nat} {args : List Nat} {bytes : Nat}  :
    Keeps st0 (State.tcpSend s c kind args bytes) := by
  unfold State.tcpSend
  repeat' first
    | with_reducible assumption
    | with_reducible apply State.modConn_keeps
    | with_reducible apply State.tcpGo_keeps

theorem State.portGoOn_keeps {st0 : Inv} {s : State} (h : Keeps st0 s) {port : Nat} :
    Keeps st0 (State.portGoOn s port) := by
  unfold State.portGoOn
  repeat' first
    | with_reducible assumption
    | (extract_lets -underBinder -merge +onlyGivenNames x; refine keepCut (r := st0) (x := x) ?_ (fun hx => ?_); (on_goal 1 => (unfold x; clear x)); (on_goal 2 => clear_value x))
    | (extract_lets -underBinder -merge +onlyGivenNames x; guard_hyp x : SecSt)
    | (extract_lets -underBinder -merge +onlyGivenNames x; clear_value x)
    | with_reducible apply State.tcpGo_keeps
    | with_reducible apply State.heldGo_keeps
    | with_reducible refine foldl_keeps ?_ (fun _ _ _ => ?_)
    | split
    | (fail_if_no_progress (with_reducible apply Keeps.lit <;> try exact rfl))
    | with_reducible refine snd_ite_keeps ?_ ?_
    | with_reducible refine snd_mk_keeps ?_
    | with_reducible refine pair_keeps (by assumption) ?_
    | intro _
    | beta_reduce

theorem State.nvmeResp_keeps {st0 : Inv} {s : State} (h : Keeps st0 s) {c : Nat} {cid : Nat} {status : Nat} {dw0 : Nat} {dw1 : Nat}  :
    Keeps st0 (State.nvmeResp s c cid status dw0 dw1) := by
  unfold State.nvmeResp
  repeat' first
    | with_reducible assumption
    | with_reducible apply State.tcpSend_keeps
    | split

theorem State.nvmeData_keeps {st0 : Inv} {s : State} (h : Keeps st0 s) {c : Nat} {cid : Nat} {bytes : List Nat}  :
    Keeps st0 (State.nvmeData s c cid bytes) := by
  unfold State.nvmeData
  repeat' first
    | with_reducible assumption
    | with_reducible apply State.tcpSend_keeps
    | with_reducible apply State.nvmeResp_keeps
    | split

theorem State.sts_keeps {st0 : Inv} {s : State} (h : Keeps st0 s) {c : Nat} {vol : Nat} {f : Nat → Nat → Fld} {n : Nat}  :
    Keeps st0 (State.sts s c vol f n) := by
  unfold State.sts
  repeat' first
    | with_reducible assumption
    | with_reducible apply State.bump_keeps
    | with_reducible refine foldl_keeps ?_ (fun _ _ _ => ?_)

theorem State.modCtrl_keeps {st0 : Inv} {s : State} (h : Keeps st0 s) {k : Nat} {f : Ctrl → Ctrl}  :
    Keeps st0 (State.modCtrl s k f) := by
  unfold State.modCtrl
  repeat' first
    | with_reducible assumption
    | with_reducible apply State.modHost_keeps
    | split

theorem State.eventGo_keeps {st0 : Inv} {s : State} (h : Keeps st0 s) {k : Nat}  :
    Keeps st0 (State.eventGo s k) := by
  unfold State.eventGo
  repeat' first
    | with_reducible assumption
    | with_reducible apply State.modCtrl_keeps
    | with_reducible apply State.bump_keeps
    | with_reducible apply State.nvmeResp_keeps
    | split

theorem State.queueEvent_keeps {st0 : Inv} {s : State} (h : Keeps st0 s) {k : Nat} {e : Nat × Nat × Nat}  :
    Keeps st0 (State.queueEvent s k e) := by
  unfold State.queueEvent
  repeat' first
    | with_reducible assumption
    | with_reducible apply State.modCtrl_keeps
    | with_reducible apply State.eventGo_keeps
    | split

theorem State.anaCheck_keeps {st0 : Inv} {s : State} (h : Keeps st0 s)   :
    Keeps st0 (State.anaCheck s) := by
  unfold State.anaCheck
  repeat' first
    | with_reducible assumption
    | with_reducible refine ite_keeps ?_ ?_
    | with_reducible apply State.modHost_keeps
    | with_reducible apply State.setAll_keeps
    | with_reducible apply State.irq_keeps
    | with_reducible apply State.queueEvent_keeps
    | with_reducible refine foldl_keeps ?_ (fun _ _ _ => ?_)

end Sys2Proof.Machine
end

