-- ==== Sys2Proof/Laws/KeepsPorts.lean ====
section
/-! SUPPORT. The operations and commands of Machine/Ports.lean keep what a state is asked (Laws/Keeps.lean). -/

set_option linter.all false

namespace Sys2Proof.Machine

theorem State.portLink_keeps {st0 : Inv} {s : State} (h : Keeps st0 s) {p : Nat} {up : Bool}  :
    Keeps st0 (State.portLink s p up) := by
  unfold State.portLink
  repeat' first
    | with_reducible assumption
    | with_reducible refine ite_keeps ?_ ?_
    | with_reducible apply State.setPort_keeps
    | with_reducible apply State.portGoOn_keeps

theorem execPortLinkChange_keeps {st0 : Inv} {s : State} (h : Keeps st0 s) {port : Nat} {up : Bool}  :
    ResKeeps st0 (execPortLinkChange port up s) := by
  unfold execPortLinkChange
  try with_reducible refine ResKeeps.next ?_
  repeat' first
    | with_reducible assumption
    | with_reducible refine ite_keeps ?_ ?_
    | with_reducible apply State.portLink_keeps

theorem execHfiDetectStep_keeps {st0 : Inv} {s : State} (h : Keeps st0 s) {q : Nat}  :
    ResKeeps st0 (execHfiDetectStep q s) := by
  unfold execHfiDetectStep
  try with_reducible refine ResKeeps.next ?_
  repeat' first
    | with_reducible assumption
    | with_reducible apply State.set_keeps
    | with_reducible apply State.modHost_keeps
    | with_reducible apply State.quadMode_keeps
    | split

theorem State.frameRx_keeps {st0 : Inv} {s : State} (h : Keeps st0 s) {port : Nat} {f : Frame} :
    Keeps st0 (State.frameRx s port f) := by
  unfold State.frameRx
  repeat' first
    | with_reducible assumption
    | (extract_lets -underBinder -merge +onlyGivenNames x; refine keepCut (r := st0) (x := x) ?_ (fun hx => ?_); (on_goal 1 => (unfold x; clear x)); (on_goal 2 => clear_value x))
    | (extract_lets -underBinder -merge +onlyGivenNames x; guard_hyp x : SecSt)
    | (extract_lets -underBinder -merge +onlyGivenNames x; clear_value x)
    | with_reducible refine ite_keeps ?_ ?_
    | with_reducible apply State.satInc_keeps
    | with_reducible apply State.bump_keeps
    | with_reducible apply State.hfiSend_keeps
    | split
    | (fail_if_no_progress (with_reducible apply Keeps.lit <;> try exact rfl))
    | with_reducible refine snd_ite_keeps ?_ ?_
    | with_reducible refine snd_mk_keeps ?_
    | with_reducible refine pair_keeps (by assumption) ?_
    | intro _
    | beta_reduce

theorem execHfiFrameRx_keeps {st0 : Inv} {s : State} (h : Keeps st0 s) {port : Nat} {f : Frame}  :
    ResKeeps st0 (execHfiFrameRx port f s) := by
  unfold execHfiFrameRx
  try with_reducible refine ResKeeps.next ?_
  repeat' first
    | with_reducible assumption
    | with_reducible refine ite_keeps ?_ ?_
    | with_reducible apply State.frameRx_keeps

theorem State.pfcSend_keeps {st0 : Inv} {s : State} (h : Keeps st0 s) {port : Nat} {prio : Nat} {quanta : Nat} :
    Keeps st0 (State.pfcSend s port prio quanta) := by
  unfold State.pfcSend
  repeat' first
    | with_reducible assumption
    | with_reducible apply State.bump_keeps
    | with_reducible apply State.send_keeps
    | with_reducible apply State.countTx_keeps
    | split
    | (fail_if_no_progress (with_reducible apply Keeps.lit <;> try exact rfl))
    | with_reducible refine snd_ite_keeps ?_ ?_
    | with_reducible refine snd_mk_keeps ?_
    | with_reducible refine pair_keeps (by assumption) ?_
    | intro _
    | beta_reduce

theorem execPfcXoff_keeps {st0 : Inv} {s : State} (h : Keeps st0 s) {port : Nat} {prio : Nat} {bytes : Nat}  :
    ResKeeps st0 (execPfcXoff port prio bytes s) := by
  unfold execPfcXoff
  try with_reducible refine ResKeeps.next ?_
  repeat' first
    | with_reducible assumption
    | with_reducible refine ite_keeps ?_ ?_
    | with_reducible apply State.pfcSend_keeps
    | with_reducible apply State.modHost_keeps

theorem execPfcRefresh_keeps {st0 : Inv} {s : State} (h : Keeps st0 s) {port : Nat} {prio : Nat} {bytes : Nat}  :
    ResKeeps st0 (execPfcRefresh port prio bytes s) := by
  unfold execPfcRefresh
  try with_reducible refine ResKeeps.next ?_
  repeat' first
    | with_reducible assumption
    | with_reducible apply State.pfcSend_keeps
    | with_reducible apply State.modHost_keeps
    | split

theorem execPfcXon_keeps {st0 : Inv} {s : State} (h : Keeps st0 s) {port : Nat} {prio : Nat} {bytes : Nat}  :
    ResKeeps st0 (execPfcXon port prio bytes s) := by
  unfold execPfcXon
  try with_reducible refine ResKeeps.next ?_
  repeat' first
    | with_reducible assumption
    | with_reducible refine ite_keeps ?_ ?_
    | with_reducible apply State.pfcSend_keeps
    | with_reducible apply State.modHost_keeps

theorem State.pauseFor_keeps {st0 : Inv} {s : State} (h : Keeps st0 s) {port : Nat} {prio : Nat} {quanta : Nat}  :
    Keeps st0 (State.pauseFor s port prio quanta) := by
  unfold State.pauseFor
  repeat' first
    | with_reducible assumption
    | with_reducible refine ite_keeps ?_ ?_
    | with_reducible apply State.modHost_keeps
    | with_reducible apply State.portGoOn_keeps

theorem execPfcFrameRx_keeps {st0 : Inv} {s : State} (h : Keeps st0 s) {port : Nat} {quanta : List (Nat × Nat)}  :
    ResKeeps st0 (execPfcFrameRx port quanta s) := by
  unfold execPfcFrameRx
  try with_reducible refine ResKeeps.next ?_
  repeat' first
    | with_reducible assumption
    | with_reducible refine ite_keeps ?_ ?_
    | with_reducible apply State.pauseFor_keeps
    | with_reducible apply State.bump_keeps
    | with_reducible refine foldl_keeps ?_ (fun _ _ _ => ?_)

theorem execPfcPauseExpire_keeps {st0 : Inv} {s : State} (h : Keeps st0 s) {port : Nat} {prio : Nat}  :
    ResKeeps st0 (execPfcPauseExpire port prio s) := by
  unfold execPfcPauseExpire
  try with_reducible refine ResKeeps.next ?_
  repeat' first
    | with_reducible assumption
    | with_reducible apply State.modHost_keeps
    | with_reducible apply State.portGoOn_keeps
    | split

end Sys2Proof.Machine
end

