-- ==== Sys2Proof/Laws/KeepsPages.lean ====
section
/-! SUPPORT. The operations and commands of Machine/Pages.lean keep what a state is asked (Laws/Keeps.lean). -/

set_option linter.all false

namespace Sys2Proof.Machine

theorem State.pageCtl_keeps {st0 : Inv} {s : State} (h : Keeps st0 s) {slot : Nat} {en : Bool} {qu : Bool}  :
    Keeps st0 (State.pageCtl s slot en qu) := by
  unfold State.pageCtl
  repeat' first
    | with_reducible assumption
    | (extract_lets -underBinder -merge +onlyGivenNames x; clear_value x)
    | with_reducible apply State.raise_keeps
    | with_reducible apply State.setUnit_keeps
    | split

theorem execPageEnable_keeps {st0 : Inv} {s : State} (h : Keeps st0 s) {m : Nat} {slot : Nat} {quiesce : Bool}  :
    ResKeeps st0 (execPageEnable m slot quiesce s) := by
  unfold execPageEnable
  try with_reducible refine ResKeeps.next ?_
  repeat' first
    | with_reducible assumption
    | with_reducible refine State.busWr_keeps ?_ (fun _ _ => ?_)
    | with_reducible apply State.pageCtl_keeps

theorem execPageDisable_keeps {st0 : Inv} {s : State} (h : Keeps st0 s) {m : Nat} {slot : Nat}  :
    ResKeeps st0 (execPageDisable m slot s) := by
  unfold execPageDisable
  try with_reducible refine ResKeeps.next ?_
  repeat' first
    | with_reducible assumption
    | with_reducible refine State.busWr_keeps ?_ (fun _ _ => ?_)
    | with_reducible apply State.pageCtl_keeps

theorem execPageQuiesce_keeps {st0 : Inv} {s : State} (h : Keeps st0 s) {m : Nat} {slot : Nat}  :
    ResKeeps st0 (execPageQuiesce m slot s) := by
  unfold execPageQuiesce
  try with_reducible refine ResKeeps.next ?_
  repeat' first
    | with_reducible assumption
    | with_reducible refine State.busWr_keeps ?_ (fun _ _ => ?_)
    | with_reducible apply State.pageCtl_keeps

theorem State.commitAsk_keeps {st0 : Inv} {s : State} (h : Keeps st0 s) {slots : List Nat}  :
    Keeps st0 (State.commitAsk s slots) := by
  unfold State.commitAsk
  repeat' first
    | with_reducible assumption
    | with_reducible apply State.modHdr_keeps
    | with_reducible refine foldl_keeps ?_ (fun _ _ _ => ?_)

theorem State.dropShadows_keeps {st0 : Inv} {s : State} (h : Keeps st0 s) {slots : List Nat}  :
    Keeps st0 (State.dropShadows s slots) := by
  unfold State.dropShadows
  repeat' first
    | with_reducible assumption
    | with_reducible apply State.modHdr_keeps
    | with_reducible refine foldl_keeps ?_ (fun _ _ _ => ?_)
    | (fail_if_no_progress (with_reducible apply Keeps.lit <;> try exact rfl))

theorem execPageCommit_keeps {st0 : Inv} {s : State} (h : Keeps st0 s) {m : Nat} {slot : Nat} {allPages : Bool}  :
    ResKeeps st0 (execPageCommit m slot allPages s) := by
  unfold execPageCommit
  try with_reducible refine ResKeeps.next ?_
  repeat' first
    | with_reducible assumption
    | with_reducible refine State.busWr_keeps ?_ (fun _ _ => ?_)
    | with_reducible apply State.commitAsk_keeps

theorem execPageDiscard_keeps {st0 : Inv} {s : State} (h : Keeps st0 s) {m : Nat} {slot : Nat} {allPages : Bool}  :
    ResKeeps st0 (execPageDiscard m slot allPages s) := by
  unfold execPageDiscard
  try with_reducible refine ResKeeps.next ?_
  repeat' first
    | with_reducible assumption
    | with_reducible refine State.busWr_keeps ?_ (fun _ _ => ?_)
    | with_reducible apply State.dropShadows_keeps

theorem execPageErrqRead_keeps {st0 : Inv} {s : State} (h : Keeps st0 s) {m : Nat} {slot : Nat}  :
    ResKeeps st0 (execPageErrqRead m slot s) := by
  unfold execPageErrqRead
  try with_reducible refine ResKeeps.next ?_
  repeat' first
    | with_reducible assumption
    | with_reducible refine ite_keeps ?_ ?_
    | with_reducible refine State.busRd_keeps ?_ (fun _ _ => ?_)
    | with_reducible apply State.answer_keeps
    | with_reducible apply State.modHdr_keeps
    | with_reducible apply State.erqUpdate_keeps

theorem execPageErrqAck_keeps {st0 : Inv} {s : State} (h : Keeps st0 s) {m : Nat} {slot : Nat}  :
    ResKeeps st0 (execPageErrqAck m slot s) := by
  unfold execPageErrqAck
  try with_reducible refine ResKeeps.next ?_
  repeat' first
    | with_reducible assumption
    | with_reducible refine State.busWr_keeps ?_ (fun _ _ => ?_)
    | with_reducible apply State.modHdr_keeps
    | with_reducible apply State.erqUpdate_keeps

theorem execIrtClaim_keeps {st0 : Inv} {s : State} (h : Keeps st0 s) {m : Nat}  :
    ResKeeps st0 (execIrtClaim m s) := by
  unfold execIrtClaim
  try with_reducible refine ResKeeps.next ?_
  repeat' first
    | with_reducible assumption
    | with_reducible refine State.busRd_keeps ?_ (fun _ _ => ?_)
    | with_reducible apply State.answer_keeps
    | split
    | (fail_if_no_progress (with_reducible apply Keeps.lit <;> try exact rfl))

theorem execIrtDone_keeps {st0 : Inv} {s : State} (h : Keeps st0 s) {m : Nat} {slot : Nat}  :
    ResKeeps st0 (execIrtDone m slot s) := by
  unfold execIrtDone
  try with_reducible refine ResKeeps.next ?_
  repeat' first
    | with_reducible assumption
    | with_reducible refine ite_keeps ?_ ?_
    | with_reducible refine State.busWr_keeps ?_ (fun _ _ => ?_)
    | with_reducible apply State.raise_keeps
    | (fail_if_no_progress (with_reducible apply Keeps.lit <;> try exact rfl))

theorem State.routeWrite_keeps {st0 : Inv} {s : State} (h : Keeps st0 s) {m : Nat} {r : Nat} {v : Word} :
    Keeps st0 (State.routeWrite s m r v) := by
  unfold State.routeWrite
  repeat' first
    | with_reducible assumption
    | (extract_lets -underBinder -merge +onlyGivenNames x; refine keepCut (r := st0) (x := x) ?_ (fun hx => ?_); (on_goal 1 => (unfold x; clear x)); (on_goal 2 => clear_value x))
    | (extract_lets -underBinder -merge +onlyGivenNames x; guard_hyp x : SecSt)
    | (extract_lets -underBinder -merge +onlyGivenNames x; clear_value x)
    | with_reducible refine ite_keeps ?_ ?_
    | with_reducible apply State.setAll_keeps
    | with_reducible apply State.raise_keeps
    | with_reducible apply State.deny_keeps
    | split
    | (fail_if_no_progress (with_reducible apply Keeps.lit <;> try exact rfl))
    | with_reducible refine snd_ite_keeps ?_ ?_
    | with_reducible refine snd_mk_keeps ?_
    | with_reducible refine pair_keeps (by assumption) ?_
    | intro _
    | beta_reduce

theorem execIrtRouteWrite_keeps {st0 : Inv} {s : State} (h : Keeps st0 s) {m : Nat} {r : Nat} {v : Word}  :
    ResKeeps st0 (execIrtRouteWrite m r v s) := by
  unfold execIrtRouteWrite
  try with_reducible refine ResKeeps.next ?_
  repeat' first
    | with_reducible assumption
    | with_reducible refine State.busWr_keeps ?_ (fun _ _ => ?_)
    | with_reducible apply State.routeWrite_keeps

theorem execPageLockSet_keeps {st0 : Inv} {s : State} (h : Keeps st0 s) {m : Nat} {slot : Nat} {writers : Nat}  :
    ResKeeps st0 (execPageLockSet m slot writers s) := by
  unfold execPageLockSet
  try with_reducible refine ResKeeps.next ?_
  repeat' first
    | with_reducible assumption
    | with_reducible refine State.busWr_keeps ?_ (fun _ _ => ?_)
    | with_reducible apply State.pageLock_keeps

end Sys2Proof.Machine
end

