-- ==== Sys2Proof/Laws/KeepsBeat.lean ====
section
/-! SUPPORT. The operations and commands of Machine/Beat.lean keep what a state is asked (Laws/Keeps.lean). -/

set_option linter.all false

namespace Sys2Proof.Machine

theorem State.modTime_keeps {st0 : Inv} {s : State} (h : Keeps st0 s) {f : TimeSt → TimeSt}  :
    Keeps st0 (State.modTime s f) := by
  unfold State.modTime
  repeat' first
    | with_reducible assumption
    | (fail_if_no_progress (with_reducible apply Keeps.lit <;> try exact rfl))

theorem State.rateOut_keeps {st0 : Inv} {s : State} (h : Keeps st0 s)   :
    Keeps st0 (State.rateOut s) := by
  unfold State.rateOut
  repeat' first
    | with_reducible assumption
    | with_reducible apply State.set_keeps

theorem State.stepForward_keeps {st0 : Inv} {s : State} (h : Keeps st0 s) {ns : Nat}  :
    Keeps st0 (State.stepForward s ns) := by
  unfold State.stepForward
  repeat' first
    | with_reducible assumption
    | with_reducible apply State.modTime_keeps

theorem State.clearCoarse_keeps {st0 : Inv} {s : State} (h : Keeps st0 s)   :
    Keeps st0 (State.clearCoarse s) := by
  unfold State.clearCoarse
  repeat' first
    | with_reducible assumption
    | with_reducible apply State.set_keeps

theorem State.endHold_keeps {st0 : Inv} {s : State} (h : Keeps st0 s)   :
    Keeps st0 (State.endHold s) := by
  unfold State.endHold
  repeat' first
    | with_reducible assumption
    | with_reducible apply State.modTime_keeps
    | with_reducible apply State.set_keeps

theorem State.beginHold_keeps {st0 : Inv} {s : State} (h : Keeps st0 s) {ns : Nat}  :
    Keeps st0 (State.beginHold s ns) := by
  unfold State.beginHold
  repeat' first
    | with_reducible assumption
    | with_reducible apply State.modTime_keeps
    | with_reducible apply State.set_keeps

theorem State.correctOffset_keeps {st0 : Inv} {s : State} (h : Keeps st0 s) {ofs : Int}  :
    Keeps st0 (State.correctOffset s ofs) := by
  unfold State.correctOffset
  repeat' first
    | with_reducible assumption
    | with_reducible refine ite_keeps ?_ ?_
    | with_reducible apply State.endHold_keeps
    | with_reducible apply State.stepForward_keeps
    | with_reducible apply State.modTime_keeps
    | with_reducible apply State.beginHold_keeps
    | with_reducible apply State.rateOut_keeps

theorem State.alignCheck_keeps {st0 : Inv} {s : State} (h : Keeps st0 s) {ofs : Int}  :
    Keeps st0 (State.alignCheck s ofs) := by
  unfold State.alignCheck
  repeat' first
    | with_reducible assumption
    | with_reducible refine ite_keeps ?_ ?_
    | with_reducible apply State.set_keeps
    | with_reducible apply State.raise_keeps

theorem execBeatTbRead_keeps {st0 : Inv} {s : State} (h : Keeps st0 s) {m : Nat}  :
    ResKeeps st0 (execBeatTbRead m s) := by
  unfold execBeatTbRead
  try with_reducible refine ResKeeps.next ?_
  repeat' first
    | with_reducible assumption
    | with_reducible refine State.busRd_keeps ?_ (fun _ _ => ?_)
    | with_reducible apply State.answer_keeps
    | with_reducible apply State.set_keeps

theorem execBeatMarkExchange_keeps {st0 : Inv} {s : State} (h : Keeps st0 s)   :
    ResKeeps st0 (execBeatMarkExchange s) := by
  unfold execBeatMarkExchange
  try with_reducible refine ResKeeps.next ?_
  repeat' first
    | with_reducible assumption
    | with_reducible refine ite_keeps ?_ ?_
    | with_reducible apply State.sendPeer_keeps
    | with_reducible apply State.modTime_keeps

theorem execPeerBeatMarkRx_keeps {st0 : Inv} {s : State} (h : Keeps st0 s) {t1 : Nat}  :
    ResKeeps st0 (execPeerBeatMarkRx t1 s) := by
  unfold execPeerBeatMarkRx
  try with_reducible refine ResKeeps.next ?_
  repeat' first
    | with_reducible assumption
    | with_reducible apply State.sendPeer_keeps

theorem execPeerBeatReplyRx_keeps {st0 : Inv} {s : State} (h : Keeps st0 s) {t1 : Nat} {t2 : Nat} {t3 : Nat} {wallOfs : Nat} {coarse : Bool}  :
    ResKeeps st0 (execPeerBeatReplyRx t1 t2 t3 wallOfs coarse s) := by
  unfold execPeerBeatReplyRx
  try with_reducible refine ResKeeps.next ?_
  repeat' first
    | with_reducible assumption
    | with_reducible refine ite_keeps ?_ ?_
    | with_reducible apply State.modTime_keeps
    | with_reducible apply State.sample_keeps
    | with_reducible apply State.set_keeps
    | with_reducible apply State.setAll_keeps
    | with_reducible apply State.correctOffset_keeps
    | with_reducible apply State.clearCoarse_keeps
    | with_reducible apply State.alignCheck_keeps

theorem execStepHoldEnd_keeps {st0 : Inv} {s : State} (h : Keeps st0 s) {k2 : Nat}  :
    ResKeeps st0 (execStepHoldEnd k2 s) := by
  unfold execStepHoldEnd
  try with_reducible refine ResKeeps.next ?_
  repeat' first
    | with_reducible assumption
    | with_reducible apply State.modTime_keeps
    | with_reducible apply State.endHold_keeps
    | split

theorem State.ptpUnlock_keeps {st0 : Inv} {s : State} (h : Keeps st0 s)   :
    Keeps st0 (State.ptpUnlock s) := by
  unfold State.ptpUnlock
  repeat' first
    | with_reducible assumption
    | with_reducible apply State.modTime_keeps
    | with_reducible apply State.set_keeps

theorem State.ptpExchange_keeps {st0 : Inv} {s : State} (h : Keeps st0 s) {port : Nat} {dom : Nat} :
    Keeps st0 (State.ptpExchange s port dom) := by
  unfold State.ptpExchange
  repeat' first
    | with_reducible assumption
    | with_reducible apply State.modTime_keeps
    | with_reducible apply State.hfiSend_keeps
    | split
    | (fail_if_no_progress (with_reducible apply Keeps.lit <;> try exact rfl))
    | with_reducible refine snd_ite_keeps ?_ ?_
    | with_reducible refine snd_mk_keeps ?_
    | with_reducible refine pair_keeps (by assumption) ?_
    | intro _
    | beta_reduce

theorem execPtpSyncRx_keeps {st0 : Inv} {s : State} (h : Keeps st0 s) {port : Nat} {dom : Nat} {accepted : Bool} {t1 : Nat} {t4 : Nat} :
    ResKeeps st0 (execPtpSyncRx port dom accepted t1 t4 s) := by
  unfold execPtpSyncRx
  try with_reducible refine ResKeeps.next ?_
  repeat' first
    | with_reducible assumption
    | (extract_lets -underBinder -merge +onlyGivenNames x; refine keepCut (r := st0) (x := x) ?_ (fun hx => ?_); (on_goal 1 => (unfold x; clear x)); (on_goal 2 => clear_value x))
    | (extract_lets -underBinder -merge +onlyGivenNames x; guard_hyp x : SecSt)
    | (extract_lets -underBinder -merge +onlyGivenNames x; clear_value x)
    | with_reducible refine ite_keeps ?_ ?_
    | with_reducible refine ResKeeps.next ?_
    | with_reducible apply State.modTime_keeps
    | with_reducible apply State.ptpUnlock_keeps
    | with_reducible apply State.set_keeps
    | with_reducible apply State.ptpExchange_keeps
    | split
    | (fail_if_no_progress (with_reducible apply Keeps.lit <;> try exact rfl))
    | with_reducible refine snd_ite_keeps ?_ ?_
    | with_reducible refine snd_mk_keeps ?_
    | with_reducible refine pair_keeps (by assumption) ?_
    | intro _
    | beta_reduce

theorem execPtpSyncTimeout_keeps {st0 : Inv} {s : State} (h : Keeps st0 s)   :
    ResKeeps st0 (execPtpSyncTimeout s) := by
  unfold execPtpSyncTimeout
  try with_reducible refine ResKeeps.next ?_
  repeat' first
    | with_reducible assumption
    | with_reducible refine ite_keeps ?_ ?_
    | with_reducible apply State.ptpUnlock_keeps

theorem State.takeSource_keeps {st0 : Inv} {s : State} (h : Keeps st0 s)  :
    Keeps st0 (State.takeSource s) := by
  unfold State.takeSource
  repeat' first
    | with_reducible assumption
    | (extract_lets -underBinder -merge +onlyGivenNames x; refine keepCut (r := st0) (x := x) ?_ (fun hx => ?_); (on_goal 1 => (unfold x; clear x)); (on_goal 2 => clear_value x))
    | (extract_lets -underBinder -merge +onlyGivenNames x; guard_hyp x : SecSt)
    | (extract_lets -underBinder -merge +onlyGivenNames x; clear_value x)
    | with_reducible refine ite_keeps ?_ ?_
    | with_reducible apply State.modTime_keeps
    | with_reducible apply State.rateOut_keeps
    | with_reducible apply State.clearCoarse_keeps
    | with_reducible apply State.set_keeps
    | split
    | (fail_if_no_progress (with_reducible apply Keeps.lit <;> try exact rfl))
    | with_reducible refine snd_ite_keeps ?_ ?_
    | with_reducible refine snd_mk_keeps ?_
    | with_reducible refine pair_keeps (by assumption) ?_
    | intro _
    | beta_reduce

theorem State.advance_keeps {st0 : Inv} {s : State} (h : Keeps st0 s) {k2 : Nat} :
    Keeps st0 (State.advance s k2) := by
  unfold State.advance
  repeat' first
    | with_reducible assumption
    | with_reducible apply State.modTime_keeps
    | with_reducible apply State.rateOut_keeps
    | split
    | (fail_if_no_progress (with_reducible apply Keeps.lit <;> try exact rfl))
    | with_reducible refine snd_ite_keeps ?_ ?_
    | with_reducible refine snd_mk_keeps ?_
    | with_reducible refine pair_keeps (by assumption) ?_
    | intro _
    | beta_reduce

end Sys2Proof.Machine
end

