-- ==== Sys2Proof/Laws/KeepsMap.lean ====
section
/-! SUPPORT. The operations and commands of Machine/Map.lean keep what a state is asked (Laws/Keeps.lean). -/

set_option linter.all false

namespace Sys2Proof.Machine

theorem State.modRead_keeps {st0 : Inv} {s : State} (h : Keeps st0 s) {f : ReadSt → ReadSt}  :
    Keeps st0 (State.modRead s f) := by
  unfold State.modRead
  repeat' first
    | with_reducible assumption
    | (fail_if_no_progress (with_reducible apply Keeps.lit <;> try exact rfl))

theorem State.modWrite_keeps {st0 : Inv} {s : State} (h : Keeps st0 s) {f : WriteSt → WriteSt}  :
    Keeps st0 (State.modWrite s f) := by
  unfold State.modWrite
  repeat' first
    | with_reducible assumption
    | (fail_if_no_progress (with_reducible apply Keeps.lit <;> try exact rfl))

theorem State.modVat_keeps {st0 : Inv} {s : State} (h : Keeps st0 s) {f : VatSt → VatSt}  :
    Keeps st0 (State.modVat s f) := by
  unfold State.modVat
  repeat' first
    | with_reducible assumption
    | (fail_if_no_progress (with_reducible apply Keeps.lit <;> try exact rfl))

theorem State.modFtl_keeps {st0 : Inv} {s : State} (h : Keeps st0 s) {f : FtlSt → FtlSt}  :
    Keeps st0 (State.modFtl s f) := by
  unfold State.modFtl
  repeat' first
    | with_reducible assumption
    | (fail_if_no_progress (with_reducible apply Keeps.lit <;> try exact rfl))

theorem State.modMedia_keeps {st0 : Inv} {s : State} (h : Keeps st0 s) {f : MediaSt → MediaSt}  :
    Keeps st0 (State.modMedia s f) := by
  unfold State.modMedia
  repeat' first
    | with_reducible assumption
    | (fail_if_no_progress (with_reducible apply Keeps.lit <;> try exact rfl))

theorem State.modPair_keeps {st0 : Inv} {s : State} (h : Keeps st0 s) {f : PairSt → PairSt}  :
    Keeps st0 (State.modPair s f) := by
  unfold State.modPair
  repeat' first
    | with_reducible assumption
    | (fail_if_no_progress (with_reducible apply Keeps.lit <;> try exact rfl))

theorem State.modBand_keeps {st0 : Inv} {s : State} (h : Keeps st0 s) {b : Nat} {f : Band → Band}  :
    Keeps st0 (State.modBand s b f) := by
  unfold State.modBand
  repeat' first
    | with_reducible assumption
    | with_reducible apply State.modFtl_keeps
    | split

theorem State.ctbDelta_keeps {st0 : Inv} {s : State} (h : Keeps st0 s) {cid : Nat} {d : Int}  :
    Keeps st0 (State.ctbDelta s cid d) := by
  unfold State.ctbDelta
  repeat' first
    | with_reducible assumption
    | (extract_lets -underBinder -merge +onlyGivenNames x; refine keepCut (r := st0) (x := x) ?_ (fun hx => ?_); (on_goal 1 => (unfold x; clear x)); (on_goal 2 => clear_value x))
    | (extract_lets -underBinder -merge +onlyGivenNames x; clear_value x)
    | with_reducible apply State.modRead_keeps
    | with_reducible apply State.modFtl_keeps
    | with_reducible apply State.satInc_keeps
    | with_reducible apply State.raise_keeps
    | split

theorem State.zeroScan_keeps {st0 : Inv} {s : State} (h : Keeps st0 s)  :
    Keeps st0 (State.zeroScan s) := by
  unfold State.zeroScan
  repeat' first
    | with_reducible assumption
    | (extract_lets -underBinder -merge +onlyGivenNames x; refine keepCut (r := st0) (x := x) ?_ (fun hx => ?_); (on_goal 1 => (unfold x; clear x)); (on_goal 2 => clear_value x))
    | (extract_lets -underBinder -merge +onlyGivenNames x; guard_hyp x : SecSt)
    | (extract_lets -underBinder -merge +onlyGivenNames x; clear_value x)
    | with_reducible apply State.modFtl_keeps
    | split
    | (fail_if_no_progress (with_reducible apply Keeps.lit <;> try exact rfl))
    | with_reducible refine snd_ite_keeps ?_ ?_
    | with_reducible refine snd_mk_keeps ?_
    | with_reducible refine pair_keeps (by assumption) ?_
    | intro _
    | beta_reduce

theorem State.pageDelta_keeps {st0 : Inv} {s : State} (h : Keeps st0 s) {g : MapPage} {d : Int}  :
    Keeps st0 (State.pageDelta s g d) := by
  unfold State.pageDelta
  repeat' first
    | with_reducible assumption
    | with_reducible refine ite_keeps ?_ ?_
    | with_reducible apply State.ctbDelta_keeps
    | with_reducible refine foldl_keeps ?_ (fun _ _ _ => ?_)

theorem State.touch_keeps {st0 : Inv} {s : State} (h : Keeps st0 s) {key : Nat} {home : Bool} :
    Keeps st0 (State.touch s key home) := by
  unfold State.touch
  repeat' first
    | with_reducible assumption
    | with_reducible apply State.modRead_keeps
    | split
    | (fail_if_no_progress (with_reducible apply Keeps.lit <;> try exact rfl))
    | with_reducible refine snd_ite_keeps ?_ ?_
    | with_reducible refine snd_mk_keeps ?_
    | with_reducible refine pair_keeps (by assumption) ?_
    | intro _
    | beta_reduce

theorem State.touchCtb_keeps {st0 : Inv} {s : State} (h : Keeps st0 s) {key : Nat} {home : Bool} :
    Keeps st0 (State.touchCtb s key home) := by
  unfold State.touchCtb
  repeat' first
    | with_reducible assumption
    | with_reducible apply State.modRead_keeps
    | split
    | (fail_if_no_progress (with_reducible apply Keeps.lit <;> try exact rfl))
    | with_reducible refine snd_ite_keeps ?_ ?_
    | with_reducible refine snd_mk_keeps ?_
    | with_reducible refine pair_keeps (by assumption) ?_
    | intro _
    | beta_reduce

theorem State.modMeta_keeps {st0 : Inv} {s : State} (h : Keeps st0 s) {ctb : Bool} {key : Nat} {f : MetaPage → MetaPage} :
    Keeps st0 (State.modMeta s ctb key f) := by
  unfold State.modMeta
  repeat' first
    | with_reducible assumption
    | with_reducible refine ite_keeps ?_ ?_
    | with_reducible apply State.modRead_keeps
    | split
    | (fail_if_no_progress (with_reducible apply Keeps.lit <;> try exact rfl))
    | with_reducible refine snd_ite_keeps ?_ ?_
    | with_reducible refine snd_mk_keeps ?_
    | with_reducible refine pair_keeps (by assumption) ?_
    | intro _
    | beta_reduce

theorem State.segMark_keeps {st0 : Inv} {s : State} (h : Keeps st0 s) {k : Nat} {mine : Bool} :
    Keeps st0 (State.segMark s k mine) := by
  unfold State.segMark
  repeat' first
    | with_reducible assumption
    | with_reducible refine ite_keeps ?_ ?_
    | with_reducible apply State.modFtl_keeps
    | split
    | (fail_if_no_progress (with_reducible apply Keeps.lit <;> try exact rfl))
    | with_reducible refine snd_ite_keeps ?_ ?_
    | with_reducible refine snd_mk_keeps ?_
    | with_reducible refine pair_keeps (by assumption) ?_
    | intro _
    | beta_reduce

theorem State.leafRoom_keeps {r : Inv} {s : State} (h : Keeps r s) : ∀ t, s.leafRoom = some t → Keeps r t := by
  intro t e
  unfold State.leafRoom at e
  dsimp only at e
  split at e
  · cases e; exact h
  · obtain ⟨q, -, rfl⟩ := Option.map_eq_some_iff.mp e
    exact State.bump_keeps (State.modFtl_keeps h)

theorem State.leafDirty_keeps {st0 : Inv} {s : State} (h : Keeps st0 s) {k : Nat} :
    Keeps st0 (State.leafDirty s k) := by
  unfold State.leafDirty
  refine State.modFtl_keeps ?_
  by_cases hk : s.leafHere k = true
  · simp only [hk, if_true]
    exact h
  · simp only [hk]
    cases e : s.leafRoom with
    | none => exact h
    | some t => exact State.leafRoom_keeps h t e

theorem State.leafUse_keeps {st0 : Inv} {s : State} (h : Keeps st0 s) {k : Nat} :
    Keeps st0 (State.leafUse s k) := by
  unfold State.leafUse
  repeat' first
    | with_reducible assumption
    | with_reducible refine ite_keeps ?_ ?_
    | with_reducible apply State.modFtl_keeps
    | split
    | (fail_if_no_progress (with_reducible apply Keeps.lit <;> try exact rfl))
    | with_reducible refine snd_ite_keeps ?_ ?_
    | with_reducible refine snd_mk_keeps ?_
    | with_reducible refine pair_keeps (by assumption) ?_
    | intro _
    | beta_reduce

theorem State.putEnt_keeps {st0 : Inv} {s : State} (h : Keeps st0 s) {key : Nat} {lba : Nat} {e : MapEnt}  :
    Keeps st0 (State.putEnt s key lba e) := by
  unfold State.putEnt
  repeat' first
    | with_reducible assumption
    | with_reducible apply State.modRead_keeps
    | with_reducible apply State.touch_keeps

theorem State.pageShift_keeps {st0 : Inv} {s : State} (h : Keeps st0 s) {key : Nat} {dst : Nat} :
    Keeps st0 (State.pageShift s key dst) := by
  unfold State.pageShift
  repeat' first
    | with_reducible assumption
    | (extract_lets -underBinder -merge +onlyGivenNames x; refine keepCut (r := st0) (x := x) ?_ (fun hx => ?_); (on_goal 1 => (unfold x; clear x)); (on_goal 2 => clear_value x))
    | (extract_lets -underBinder -merge +onlyGivenNames x; guard_hyp x : SecSt)
    | (extract_lets -underBinder -merge +onlyGivenNames x; clear_value x)
    | with_reducible refine ite_keeps ?_ ?_
    | with_reducible apply State.leafDirty_keeps
    | with_reducible apply State.modRead_keeps
    | split
    | (fail_if_no_progress (with_reducible apply Keeps.lit <;> try exact rfl))
    | with_reducible refine snd_ite_keeps ?_ ?_
    | with_reducible refine snd_mk_keeps ?_
    | with_reducible refine pair_keeps (by assumption) ?_
    | intro _
    | beta_reduce

theorem State.pageGive_keeps {st0 : Inv} {s : State} (h : Keeps st0 s) {key : Nat} {g : MapPage} :
    Keeps st0 (State.pageGive s key g) := by
  unfold State.pageGive
  repeat' first
    | with_reducible assumption
    | with_reducible apply State.modRead_keeps
    | with_reducible apply State.pageDelta_keeps
    | with_reducible apply State.bump_keeps
    | split
    | (fail_if_no_progress (with_reducible apply Keeps.lit <;> try exact rfl))
    | with_reducible refine snd_ite_keeps ?_ ?_
    | with_reducible refine snd_mk_keeps ?_
    | with_reducible refine pair_keeps (by assumption) ?_
    | intro _
    | beta_reduce

theorem State.ownCopy_keeps {st0 : Inv} {s : State} (h : Keeps st0 s) {v : Nat} {p : Nat} {entryBeat : Nat} :
    Keeps st0 (State.ownCopy s v p entryBeat) := by
  unfold State.ownCopy
  repeat' first
    | with_reducible assumption
    | (extract_lets -underBinder -merge +onlyGivenNames x; refine keepCut (r := st0) (x := x) ?_ (fun hx => ?_); (on_goal 1 => (unfold x; clear x)); (on_goal 2 => clear_value x))
    | (extract_lets -underBinder -merge +onlyGivenNames x; guard_hyp x : SecSt)
    | (extract_lets -underBinder -merge +onlyGivenNames x; clear_value x)
    | with_reducible refine ite_keeps ?_ ?_
    | with_reducible apply State.modRead_keeps
    | with_reducible apply State.touch_keeps
    | with_reducible apply State.pageShift_keeps
    | with_reducible apply State.pageGive_keeps
    | split
    | (fail_if_no_progress (with_reducible apply Keeps.lit <;> try exact rfl))
    | with_reducible refine snd_ite_keeps ?_ ?_
    | with_reducible refine snd_mk_keeps ?_
    | with_reducible refine pair_keeps (by assumption) ?_
    | intro _
    | beta_reduce

theorem State.keepOlder_keeps {st0 : Inv} {s : State} (h : Keeps st0 s) {v : Nat} {p : Nat} {entryBeat : Nat} :
    Keeps st0 (State.keepOlder s v p entryBeat) := by
  unfold State.keepOlder
  repeat' first
    | with_reducible assumption
    | (extract_lets -underBinder -merge +onlyGivenNames x; refine keepCut (r := st0) (x := x) ?_ (fun hx => ?_); (on_goal 1 => (unfold x; clear x)); (on_goal 2 => clear_value x))
    | (extract_lets -underBinder -merge +onlyGivenNames x; guard_hyp x : SecSt)
    | (extract_lets -underBinder -merge +onlyGivenNames x; clear_value x)
    | with_reducible apply State.touch_keeps
    | with_reducible apply State.pageGive_keeps
    | split
    | (fail_if_no_progress (with_reducible apply Keeps.lit <;> try exact rfl))
    | with_reducible refine snd_ite_keeps ?_ ?_
    | with_reducible refine snd_mk_keeps ?_
    | with_reducible refine pair_keeps (by assumption) ?_
    | intro _
    | beta_reduce

theorem State.snapChange_keeps {st0 : Inv} {s : State} (h : Keeps st0 s) {sn : Nat} {p : Nat} {lba : Nat} {e : MapEnt}  :
    Keeps st0 (State.snapChange s sn p lba e) := by
  unfold State.snapChange
  repeat' first
    | with_reducible assumption
    | with_reducible refine ite_keeps ?_ ?_
    | with_reducible apply State.putEnt_keeps
    | with_reducible apply State.ctbDelta_keeps

theorem State.changeEnt_keeps {st0 : Inv} {s : State} (h : Keeps st0 s) {v : Nat} {lba : Nat} {e : MapEnt} {entryBeat : Nat}  :
    Keeps st0 (State.changeEnt s v lba e entryBeat) := by
  unfold State.changeEnt
  repeat' first
    | with_reducible assumption
    | with_reducible refine ite_keeps ?_ ?_
    | with_reducible apply State.keepOlder_keeps
    | with_reducible apply State.snapChange_keeps
    | with_reducible apply State.ownCopy_keeps
    | with_reducible apply State.putEnt_keeps
    | with_reducible refine foldl_keeps ?_ (fun _ _ _ => ?_)

theorem State.bandPlaced_keeps {st0 : Inv} {s : State} (h : Keeps st0 s) {cid : Nat} {e : CtbEnt}  :
    Keeps st0 (State.bandPlaced s cid e) := by
  unfold State.bandPlaced
  repeat' first
    | with_reducible assumption
    | (extract_lets -underBinder -merge +onlyGivenNames x; refine keepCut (r := st0) (x := x) ?_ (fun hx => ?_); (on_goal 1 => (unfold x; clear x)); (on_goal 2 => clear_value x))
    | (extract_lets -underBinder -merge +onlyGivenNames x; clear_value x)
    | with_reducible apply State.modBand_keeps
    | with_reducible apply State.bump_keeps
    | with_reducible apply State.modFtl_keeps
    | split

theorem State.bandDead_keeps {st0 : Inv} {s : State} (h : Keeps st0 s) {band : Nat} {len : Nat}  :
    Keeps st0 (State.bandDead s band len) := by
  unfold State.bandDead
  repeat' first
    | with_reducible assumption
    | with_reducible apply State.modBand_keeps

theorem State.countErase_keeps {st0 : Inv} {s : State} (h : Keeps st0 s) {dense : Bool} {word : Nat} :
    Keeps st0 (State.countErase s dense word) := by
  unfold State.countErase
  repeat' first
    | with_reducible assumption
    | with_reducible refine ite_keeps ?_ ?_
    | with_reducible apply State.modFtl_keeps
    | split
    | (fail_if_no_progress (with_reducible apply Keeps.lit <;> try exact rfl))
    | with_reducible refine snd_ite_keeps ?_ ?_
    | with_reducible refine snd_mk_keeps ?_
    | with_reducible refine pair_keeps (by assumption) ?_
    | intro _
    | beta_reduce

theorem State.eachDie_keeps {st0 : Inv} {s : State} (h : Keeps st0 s) {l : List Member} {f : Member → DieSt → DieSt}  :
    Keeps st0 (State.eachDie s l f) := by
  unfold State.eachDie
  repeat' first
    | with_reducible assumption
    | (extract_lets -underBinder -merge +onlyGivenNames x; clear_value x)
    | with_reducible apply State.modFtl_keeps
    | with_reducible refine foldl_keeps ?_ (fun _ _ _ => ?_)
    | split

theorem State.poolsWithout_keeps {st0 : Inv} {s : State} (h : Keeps st0 s) {l : List Member} :
    Keeps st0 (State.poolsWithout s l) := by
  unfold State.poolsWithout
  repeat' first
    | with_reducible assumption
    | with_reducible apply State.eachDie_keeps
    | split
    | (fail_if_no_progress (with_reducible apply Keeps.lit <;> try exact rfl))
    | with_reducible refine snd_ite_keeps ?_ ?_
    | with_reducible refine snd_mk_keeps ?_
    | with_reducible refine pair_keeps (by assumption) ?_
    | intro _
    | beta_reduce

theorem State.poolsWith_keeps {st0 : Inv} {s : State} (h : Keeps st0 s) {dense : Bool} {l : List Member} :
    Keeps st0 (State.poolsWith s dense l) := by
  unfold State.poolsWith
  repeat' first
    | with_reducible assumption
    | (extract_lets -underBinder -merge +onlyGivenNames x; refine keepCut (r := st0) (x := x) ?_ (fun hx => ?_); (on_goal 1 => (unfold x; clear x)); (on_goal 2 => clear_value x))
    | (extract_lets -underBinder -merge +onlyGivenNames x; guard_hyp x : SecSt)
    | (extract_lets -underBinder -merge +onlyGivenNames x; clear_value x)
    | with_reducible refine ite_keeps ?_ ?_
    | with_reducible apply State.eachDie_keeps
    | split
    | (fail_if_no_progress (with_reducible apply Keeps.lit <;> try exact rfl))
    | with_reducible refine snd_ite_keeps ?_ ?_
    | with_reducible refine snd_mk_keeps ?_
    | with_reducible refine pair_keeps (by assumption) ?_
    | intro _
    | beta_reduce

theorem State.applyVal_keeps {r : Inv} [r.Writes] {s : State} (h : Keeps r s) {v : UVal} : Keeps r (s.applyVal v) := by
  unfold State.applyVal
  cases v
  all_goals try dsimp only
  repeat' first
    | with_reducible assumption
    | (extract_lets -underBinder -merge +onlyGivenNames x; refine keepCut (r := r) (x := x) ?_ (fun hx => ?_); (on_goal 1 => (unfold x; clear x)); (on_goal 2 => clear_value x))
    | (extract_lets -underBinder -merge +onlyGivenNames x; guard_hyp x : SecSt)
    | (extract_lets -underBinder -merge +onlyGivenNames x; clear_value x)
    | with_reducible refine ite_keeps ?_ ?_
    | with_reducible apply State.changeEnt_keeps
    | with_reducible apply State.touchCtb_keeps
    | with_reducible apply State.modRead_keeps
    | with_reducible apply State.bandDead_keeps
    | with_reducible apply State.bandPlaced_keeps
    | with_reducible apply State.ctbDelta_keeps
    | with_reducible apply State.release_keeps
    | with_reducible apply State.poolsWith_keeps
    | with_reducible apply State.countErase_keeps
    | with_reducible apply State.modFtl_keeps
    | with_reducible apply State.modBand_keeps
    | with_reducible apply State.poolsWithout_keeps
    | with_reducible refine foldl_keeps ?_ (fun _ _ _ => ?_)
    | split
    | (fail_if_no_progress (with_reducible apply Keeps.lit <;> try exact rfl))
    | with_reducible refine pair_keeps (by assumption) ?_
    | intro _
    | beta_reduce

theorem State.land_keeps {st0 : Inv} {s : State} (h : Keeps st0 s) {v : UVal} {slot : Option Nat} :
    Keeps st0 (State.land s v slot) := by
  unfold State.land
  repeat' first
    | with_reducible assumption
    | (extract_lets -underBinder -merge +onlyGivenNames x; refine keepCut (r := st0) (x := x) ?_ (fun hx => ?_); (on_goal 1 => (unfold x; clear x)); (on_goal 2 => clear_value x))
    | (extract_lets -underBinder -merge +onlyGivenNames x; guard_hyp x : SecSt)
    | (extract_lets -underBinder -merge +onlyGivenNames x; clear_value x)
    | with_reducible refine ite_keeps ?_ ?_
    | with_reducible apply State.modWrite_keeps
    | with_reducible apply State.sendPeer_keeps
    | split
    | (fail_if_no_progress (with_reducible apply Keeps.lit <;> try exact rfl))
    | with_reducible refine snd_ite_keeps ?_ ?_
    | with_reducible refine snd_mk_keeps ?_
    | with_reducible refine pair_keeps (by assumption) ?_
    | intro _
    | beta_reduce

theorem State.groupFrom_keeps {st0 : Inv} {s : State} (h : Keeps st0 s) {useq : Nat} :
    Keeps st0 (State.groupFrom s useq) := by
  unfold State.groupFrom
  repeat' first
    | with_reducible assumption
    | with_reducible refine ite_keeps ?_ ?_
    | with_reducible apply State.modWrite_keeps
    | split
    | (fail_if_no_progress (with_reducible apply Keeps.lit <;> try exact rfl))
    | with_reducible refine snd_ite_keeps ?_ ?_
    | with_reducible refine snd_mk_keeps ?_
    | with_reducible refine pair_keeps (by assumption) ?_
    | intro _
    | beta_reduce

theorem State.topMark_keeps {st0 : Inv} {s : State} (h : Keeps st0 s) {v : UVal} {useq : Nat} :
    Keeps st0 (State.topMark s v useq) := by
  unfold State.topMark
  cases v
  all_goals dsimp only
  repeat' first
    | with_reducible assumption
    | (extract_lets -underBinder -merge +onlyGivenNames x; refine keepCut (r := st0) (x := x) ?_ (fun hx => ?_); (on_goal 1 => (unfold x; clear x)); (on_goal 2 => clear_value x))
    | with_reducible refine ite_keeps ?_ ?_
    | with_reducible apply State.segMark_keeps
    | with_reducible apply State.modMeta_keeps
    | with_reducible apply State.modFtl_keeps
    | split
    | intro _
    | beta_reduce

theorem State.applyRec_keeps {st0 : Inv} [st0.Writes] {s : State} (h : Keeps st0 s) {useq : Nat} :
    Keeps st0 (State.applyRec s useq) := by
  unfold State.applyRec
  repeat' first
    | with_reducible assumption
    | with_reducible apply State.applied_keeps
    | with_reducible apply State.modWrite_keeps
    | with_reducible apply State.applyVal_keeps
    | with_reducible apply State.topMark_keeps
    | split
    | (fail_if_no_progress (with_reducible apply Keeps.lit <;> try exact rfl))
    | with_reducible refine snd_ite_keeps ?_ ?_
    | with_reducible refine snd_mk_keeps ?_
    | with_reducible refine pair_keeps (by assumption) ?_
    | intro _
    | beta_reduce

theorem State.bandTo_keeps {st0 : Inv} {s : State} (h : Keeps st0 s) {b : Nat} {st : Nat}  :
    Keeps st0 (State.bandTo s b st) := by
  unfold State.bandTo
  repeat' first
    | with_reducible assumption
    | with_reducible apply State.land_keeps
    | split

end Sys2Proof.Machine
end

