-- ==== Sys2Proof/Laws/KeepsLink.lean ====
section
/-! SUPPORT. The operations and commands of Machine/Link.lean keep what a state is asked (Laws/Keeps.lean). -/

set_option linter.all false

namespace Sys2Proof.Machine

theorem State.modLink_keeps {st0 : Inv} {s : State} (h : Keeps st0 s) {ln : Nat} {f : LinkSt → LinkSt}  :
    Keeps st0 (State.modLink s ln f) := by
  unfold State.modLink
  repeat' first
    | with_reducible assumption
    | with_reducible apply State.modMedia_keeps

theorem State.modBrick_keeps {st0 : Inv} {s : State} (h : Keeps st0 s) {k : Nat} {f : BrickSt → BrickSt}  :
    Keeps st0 (State.modBrick s k f) := by
  unfold State.modBrick
  repeat' first
    | with_reducible assumption
    | with_reducible apply State.modMedia_keeps

theorem State.linkTo_keeps {st0 : Inv} {s : State} (h : Keeps st0 s) {ln : Nat} {st : Nat} :
    Keeps st0 (State.linkTo s ln st) := by
  unfold State.linkTo
  repeat' first
    | with_reducible assumption
    | (extract_lets -underBinder -merge +onlyGivenNames x; refine keepCut (r := st0) (x := x) ?_ (fun hx => ?_); (on_goal 1 => (unfold x; clear x)); (on_goal 2 => clear_value x))
    | (extract_lets -underBinder -merge +onlyGivenNames x; guard_hyp x : SecSt)
    | (extract_lets -underBinder -merge +onlyGivenNames x; clear_value x)
    | with_reducible refine ite_keeps ?_ ?_
    | with_reducible apply State.modLink_keeps
    | with_reducible apply State.modFtl_keeps
    | with_reducible apply State.set_keeps
    | with_reducible apply State.irq_keeps
    | split
    | (fail_if_no_progress (with_reducible apply Keeps.lit <;> try exact rfl))
    | with_reducible refine snd_ite_keeps ?_ ?_
    | with_reducible refine snd_mk_keeps ?_
    | with_reducible refine pair_keeps (by assumption) ?_
    | intro _
    | beta_reduce

theorem State.brickTo_keeps {st0 : Inv} {s : State} (h : Keeps st0 s) {k : Nat} {st : Nat}  :
    Keeps st0 (State.brickTo s k st) := by
  unfold State.brickTo
  repeat' first
    | with_reducible assumption
    | with_reducible refine ite_keeps ?_ ?_
    | with_reducible apply State.set_keeps
    | with_reducible apply State.irq_keeps

theorem State.joinDie_keeps {st0 : Inv} {s : State} (h : Keeps st0 s) {ln : Nat} {o : MOp} :
    Keeps st0 (State.joinDie s ln o) := by
  unfold State.joinDie
  repeat' first
    | with_reducible assumption
    | (extract_lets -underBinder -merge +onlyGivenNames x; refine keepCut (r := st0) (x := x) ?_ (fun hx => ?_); (on_goal 1 => (unfold x; clear x)); (on_goal 2 => clear_value x))
    | (extract_lets -underBinder -merge +onlyGivenNames x; guard_hyp x : SecSt)
    | (extract_lets -underBinder -merge +onlyGivenNames x; clear_value x)
    | with_reducible refine ite_keeps ?_ ?_
    | with_reducible apply State.modLink_keeps
    | split
    | (fail_if_no_progress (with_reducible apply Keeps.lit <;> try exact rfl))
    | with_reducible refine snd_ite_keeps ?_ ?_
    | with_reducible refine snd_mk_keeps ?_
    | with_reducible refine pair_keeps (by assumption) ?_
    | intro _
    | beta_reduce

theorem State.leaveDie_keeps {st0 : Inv} {s : State} (h : Keeps st0 s) {ln : Nat} {o : MOp} :
    Keeps st0 (State.leaveDie s ln o) := by
  unfold State.leaveDie
  repeat' first
    | with_reducible assumption
    | (extract_lets -underBinder -merge +onlyGivenNames x; refine keepCut (r := st0) (x := x) ?_ (fun hx => ?_); (on_goal 1 => (unfold x; clear x)); (on_goal 2 => clear_value x))
    | (extract_lets -underBinder -merge +onlyGivenNames x; guard_hyp x : SecSt)
    | (extract_lets -underBinder -merge +onlyGivenNames x; clear_value x)
    | with_reducible refine ite_keeps ?_ ?_
    | with_reducible apply State.modLink_keeps
    | split
    | (fail_if_no_progress (with_reducible apply Keeps.lit <;> try exact rfl))
    | with_reducible refine snd_ite_keeps ?_ ?_
    | with_reducible refine snd_mk_keeps ?_
    | with_reducible refine pair_keeps (by assumption) ?_
    | intro _
    | beta_reduce

theorem State.scrambled_keeps {st0 : Inv} {s : State} (h : Keeps st0 s) {ln : Nat} {flit : Nat} :
    Keeps st0 (State.scrambled s ln flit).2 := by
  unfold State.scrambled
  repeat' first
    | with_reducible assumption
    | (extract_lets -underBinder -merge +onlyGivenNames x; refine keepCut (r := st0) (x := x) ?_ (fun hx => ?_); (on_goal 1 => (unfold x; clear x)); (on_goal 2 => clear_value x))
    | (extract_lets -underBinder -merge +onlyGivenNames x; guard_hyp x : SecSt)
    | (extract_lets -underBinder -merge +onlyGivenNames x; clear_value x)
    | with_reducible apply State.modLink_keeps
    | split
    | (fail_if_no_progress (with_reducible apply Keeps.lit <;> try exact rfl))
    | with_reducible refine snd_ite_keeps ?_ ?_
    | with_reducible refine snd_mk_keeps ?_
    | with_reducible refine pair_keeps (by assumption) ?_
    | intro _
    | beta_reduce

theorem State.flitOut_keeps {st0 : Inv} {s : State} (h : Keeps st0 s) {ln : Nat} {typ : Nat} {start : Nat} {seq : Nat} {slots : Nat} :
    Keeps st0 (State.flitOut s ln typ start seq slots) := by
  unfold State.flitOut
  repeat' first
    | with_reducible assumption
    | (extract_lets -underBinder -merge +onlyGivenNames x; refine keepCut (r := st0) (x := x) ?_ (fun hx => ?_); (on_goal 1 => (unfold x; clear x)); (on_goal 2 => clear_value x))
    | (extract_lets -underBinder -merge +onlyGivenNames x; guard_hyp x : SecSt)
    | (extract_lets -underBinder -merge +onlyGivenNames x; clear_value x)
    | with_reducible apply State.modLink_keeps
    | with_reducible apply State.scrambled_keeps
    | with_reducible apply State.mediaFlit_keeps
    | with_reducible apply State.send_keeps
    | split
    | (fail_if_no_progress (with_reducible apply Keeps.lit <;> try exact rfl))
    | with_reducible refine snd_ite_keeps ?_ ?_
    | with_reducible refine snd_mk_keeps ?_
    | with_reducible refine pair_keeps (by assumption) ?_
    | intro _
    | beta_reduce

theorem State.skipGo_keeps {st0 : Inv} {s : State} (h : Keeps st0 s) {ln : Nat} :
    Keeps st0 (State.skipGo s ln) := by
  unfold State.skipGo
  repeat' first
    | with_reducible assumption
    | with_reducible refine ite_keeps ?_ ?_
    | with_reducible apply State.modLink_keeps
    | with_reducible apply State.flitOut_keeps
    | split
    | (fail_if_no_progress (with_reducible apply Keeps.lit <;> try exact rfl))
    | with_reducible refine snd_ite_keeps ?_ ?_
    | with_reducible refine snd_mk_keeps ?_
    | with_reducible refine pair_keeps (by assumption) ?_
    | intro _
    | beta_reduce

theorem State.putFlit_keeps {st0 : Inv} {s : State} (h : Keeps st0 s) {ln : Nat} {typ : Nat} {start : Nat} {seq : Nat} {slots : Nat} :
    Keeps st0 (State.putFlit s ln typ start seq slots) := by
  unfold State.putFlit
  repeat' first
    | with_reducible assumption
    | with_reducible apply State.flitOut_keeps
    | with_reducible apply State.skipGo_keeps
    | split
    | (fail_if_no_progress (with_reducible apply Keeps.lit <;> try exact rfl))
    | with_reducible refine snd_ite_keeps ?_ ?_
    | with_reducible refine snd_mk_keeps ?_
    | with_reducible refine pair_keeps (by assumption) ?_
    | intro _
    | beta_reduce

theorem State.putData_keeps {st0 : Inv} {s : State} (h : Keeps st0 s) {ln : Nat} {start : Nat} {slots : Nat} :
    Keeps st0 (State.putData s ln start slots) := by
  unfold State.putData
  repeat' first
    | with_reducible assumption
    | (extract_lets -underBinder -merge +onlyGivenNames x; refine keepCut (r := st0) (x := x) ?_ (fun hx => ?_); (on_goal 1 => (unfold x; clear x)); (on_goal 2 => clear_value x))
    | (extract_lets -underBinder -merge +onlyGivenNames x; guard_hyp x : SecSt)
    | (extract_lets -underBinder -merge +onlyGivenNames x; clear_value x)
    | with_reducible apply State.modLink_keeps
    | with_reducible apply State.putFlit_keeps
    | split
    | (fail_if_no_progress (with_reducible apply Keeps.lit <;> try exact rfl))
    | with_reducible refine snd_ite_keeps ?_ ?_
    | with_reducible refine snd_mk_keeps ?_
    | with_reducible refine pair_keeps (by assumption) ?_
    | intro _
    | beta_reduce

theorem State.putMsg_keeps {st0 : Inv} {s : State} (h : Keeps st0 s) {ln : Nat} {o : MOp} :
    Keeps st0 (State.putMsg s ln o) := by
  unfold State.putMsg
  repeat' first
    | with_reducible assumption
    | (extract_lets -underBinder -merge +onlyGivenNames x; refine keepCut (r := st0) (x := x) ?_ (fun hx => ?_); (on_goal 1 => (unfold x; clear x)); (on_goal 2 => clear_value x))
    | (extract_lets -underBinder -merge +onlyGivenNames x; guard_hyp x : SecSt)
    | (extract_lets -underBinder -merge +onlyGivenNames x; clear_value x)
    | with_reducible refine ite_keeps ?_ ?_
    | with_reducible apply State.putData_keeps
    | with_reducible refine foldl_keeps ?_ (fun _ _ _ => ?_)
    | split
    | (fail_if_no_progress (with_reducible apply Keeps.lit <;> try exact rfl))
    | with_reducible refine snd_ite_keeps ?_ ?_
    | with_reducible refine snd_mk_keeps ?_
    | with_reducible refine pair_keeps (by assumption) ?_
    | intro _
    | beta_reduce

theorem State.emitOp_keeps {st0 : Inv} {s : State} (h : Keeps st0 s) {ln : Nat} {o : MOp} :
    Keeps st0 (State.emitOp s ln o) := by
  unfold State.emitOp
  repeat' first
    | with_reducible assumption
    | (extract_lets -underBinder -merge +onlyGivenNames x; refine keepCut (r := st0) (x := x) ?_ (fun hx => ?_); (on_goal 1 => (unfold x; clear x)); (on_goal 2 => clear_value x))
    | (extract_lets -underBinder -merge +onlyGivenNames x; guard_hyp x : SecSt)
    | (extract_lets -underBinder -merge +onlyGivenNames x; clear_value x)
    | with_reducible refine ite_keeps ?_ ?_
    | with_reducible apply State.modLink_keeps
    | with_reducible apply State.joinDie_keeps
    | with_reducible apply State.satInc_keeps
    | with_reducible apply State.drop_keeps
    | with_reducible apply State.send_keeps
    | with_reducible apply State.putMsg_keeps
    | split
    | (fail_if_no_progress (with_reducible apply Keeps.lit <;> try exact rfl))
    | with_reducible refine snd_ite_keeps ?_ ?_
    | with_reducible refine snd_mk_keeps ?_
    | with_reducible refine pair_keeps (by assumption) ?_
    | intro _
    | beta_reduce

theorem State.pumpLink_keeps {st0 : Inv} {s : State} (h : Keeps st0 s) {ln : Nat}  :
    Keeps st0 (State.pumpLink s ln) := by
  unfold State.pumpLink
  repeat' first
    | with_reducible assumption
    | with_reducible refine ite_keeps ?_ ?_
    | with_reducible apply State.emitOp_keeps
    | with_reducible apply State.modLink_keeps
    | with_reducible refine foldl_keeps ?_ (fun _ _ _ => ?_)

theorem State.brickSend_keeps {st0 : Inv} {s : State} (h : Keeps st0 s) {ln : Nat} {o : MOp}  :
    Keeps st0 (State.brickSend s ln o) := by
  unfold State.brickSend
  repeat' first
    | with_reducible assumption
    | with_reducible apply State.modLink_keeps
    | with_reducible apply State.pumpLink_keeps

theorem State.takeOp_keeps {r : Inv} {s : State} (h : Keeps r s) {ln tag : Nat} : ∀ o t, s.takeOp ln tag = some (o, t) → Keeps r t := by
  intro o t e
  unfold State.takeOp at e
  cases f : (s.link ln).ops.find? (fun o => o.tag == tag) with
  | none => rw [f] at e; cases e
  | some x => rw [f] at e; cases e; exact State.leaveDie_keeps (State.modLink_keeps h)

theorem State.replyCredit_keeps {st0 : Inv} {s : State} (h : Keeps st0 s) {ln : Nat}  :
    Keeps st0 (State.replyCredit s ln) := by
  unfold State.replyCredit
  repeat' first
    | with_reducible assumption
    | with_reducible apply State.set_keeps

theorem State.strayReply_keeps {st0 : Inv} {s : State} (h : Keeps st0 s) {ln : Nat} {tag : Nat} :
    Keeps st0 (State.strayReply s ln tag) := by
  unfold State.strayReply
  repeat' first
    | with_reducible assumption
    | with_reducible refine ite_keeps ?_ ?_
    | with_reducible apply State.modLink_keeps
    | with_reducible apply State.pumpLink_keeps
    | with_reducible apply State.replyCredit_keeps
    | with_reducible apply State.raise_keeps
    | split
    | (fail_if_no_progress (with_reducible apply Keeps.lit <;> try exact rfl))
    | with_reducible refine snd_ite_keeps ?_ ?_
    | with_reducible refine snd_mk_keeps ?_
    | with_reducible refine pair_keeps (by assumption) ?_
    | intro _
    | beta_reduce

theorem State.sendNak_keeps {st0 : Inv} {s : State} (h : Keeps st0 s) {ln : Nat} :
    Keeps st0 (State.sendNak s ln) := by
  unfold State.sendNak
  repeat' first
    | with_reducible assumption
    | with_reducible refine ite_keeps ?_ ?_
    | with_reducible apply State.modLink_keeps
    | with_reducible apply State.satInc_keeps
    | with_reducible apply State.send_keeps
    | with_reducible apply State.putFlit_keeps
    | split
    | (fail_if_no_progress (with_reducible apply Keeps.lit <;> try exact rfl))
    | with_reducible refine snd_ite_keeps ?_ ?_
    | with_reducible refine snd_mk_keeps ?_
    | with_reducible refine pair_keeps (by assumption) ?_
    | intro _
    | beta_reduce

theorem State.ackFlits_keeps {st0 : Inv} {s : State} (h : Keeps st0 s) {ln : Nat} {ack : Nat} :
    Keeps st0 (State.ackFlits s ln ack) := by
  unfold State.ackFlits
  repeat' first
    | with_reducible assumption
    | (extract_lets -underBinder -merge +onlyGivenNames x; refine keepCut (r := st0) (x := x) ?_ (fun hx => ?_); (on_goal 1 => (unfold x; clear x)); (on_goal 2 => clear_value x))
    | (extract_lets -underBinder -merge +onlyGivenNames x; guard_hyp x : SecSt)
    | (extract_lets -underBinder -merge +onlyGivenNames x; clear_value x)
    | with_reducible refine ite_keeps ?_ ?_
    | with_reducible apply State.modLink_keeps
    | with_reducible apply State.pumpLink_keeps
    | split
    | (fail_if_no_progress (with_reducible apply Keeps.lit <;> try exact rfl))
    | with_reducible refine snd_ite_keeps ?_ ?_
    | with_reducible refine snd_mk_keeps ?_
    | with_reducible refine pair_keeps (by assumption) ?_
    | intro _
    | beta_reduce

theorem State.resendFrom_keeps {st0 : Inv} {s : State} (h : Keeps st0 s) {ln : Nat} {seq : Nat} :
    Keeps st0 (State.resendFrom s ln seq) := by
  unfold State.resendFrom
  repeat' first
    | with_reducible assumption
    | (extract_lets -underBinder -merge +onlyGivenNames x; refine keepCut (r := st0) (x := x) ?_ (fun hx => ?_); (on_goal 1 => (unfold x; clear x)); (on_goal 2 => clear_value x))
    | (extract_lets -underBinder -merge +onlyGivenNames x; guard_hyp x : SecSt)
    | (extract_lets -underBinder -merge +onlyGivenNames x; clear_value x)
    | with_reducible refine ite_keeps ?_ ?_
    | with_reducible apply State.send_keeps
    | with_reducible apply State.putFlit_keeps
    | with_reducible refine foldl_keeps ?_ (fun _ _ _ => ?_)
    | split
    | (fail_if_no_progress (with_reducible apply Keeps.lit <;> try exact rfl))
    | with_reducible refine snd_ite_keeps ?_ ?_
    | with_reducible refine snd_mk_keeps ?_
    | with_reducible refine pair_keeps (by assumption) ?_
    | intro _
    | beta_reduce

theorem State.idleFlit_keeps {st0 : Inv} {s : State} (h : Keeps st0 s) {ln : Nat} :
    Keeps st0 (State.idleFlit s ln) := by
  unfold State.idleFlit
  repeat' first
    | with_reducible assumption
    | with_reducible apply State.putFlit_keeps
    | split
    | (fail_if_no_progress (with_reducible apply Keeps.lit <;> try exact rfl))
    | with_reducible refine snd_ite_keeps ?_ ?_
    | with_reducible refine snd_mk_keeps ?_
    | with_reducible refine pair_keeps (by assumption) ?_
    | intro _
    | beta_reduce

theorem State.flitRx_keeps {st0 : Inv} {s : State} (h : Keeps st0 s) {ln : Nat} {decoded : Bool} {crcOk : Bool} {ackValid : Bool} {corrected : Nat} {typ : Nat} {ack : Nat} {seq : Nat}  :
    Keeps st0 (State.flitRx s ln decoded crcOk ackValid corrected typ ack seq) := by
  unfold State.flitRx
  repeat' first
    | with_reducible assumption
    | with_reducible refine ite_keeps ?_ ?_
    | with_reducible apply State.satInc_keeps
    | with_reducible apply State.modLink_keeps
    | with_reducible apply State.sendNak_keeps
    | with_reducible apply State.linkTo_keeps
    | with_reducible apply State.ackFlits_keeps
    | with_reducible apply State.resendFrom_keeps

theorem State.descrambled_keeps {st0 : Inv} {s : State} (h : Keeps st0 s) {ln : Nat} {flit : Nat} :
    Keeps st0 (State.descrambled s ln flit).2 := by
  unfold State.descrambled
  repeat' first
    | with_reducible assumption
    | (extract_lets -underBinder -merge +onlyGivenNames x; refine keepCut (r := st0) (x := x) ?_ (fun hx => ?_); (on_goal 1 => (unfold x; clear x)); (on_goal 2 => clear_value x))
    | (extract_lets -underBinder -merge +onlyGivenNames x; guard_hyp x : SecSt)
    | (extract_lets -underBinder -merge +onlyGivenNames x; clear_value x)
    | with_reducible apply State.modLink_keeps
    | split
    | (fail_if_no_progress (with_reducible apply Keeps.lit <;> try exact rfl))
    | with_reducible refine snd_ite_keeps ?_ ?_
    | with_reducible refine snd_mk_keeps ?_
    | with_reducible refine pair_keeps (by assumption) ?_
    | intro _
    | beta_reduce

theorem State.mediaFlit_keeps {st0 : Inv} {s : State} (h : Keeps st0 s) {ln : Nat} {flit : Nat} :
    Keeps st0 (State.mediaFlit s ln flit) := by
  unfold State.mediaFlit
  repeat' first
    | with_reducible assumption
    | (extract_lets -underBinder -merge +onlyGivenNames x; refine keepCut (r := st0) (x := x) ?_ (fun hx => ?_); (on_goal 1 => (unfold x; clear x)); (on_goal 2 => clear_value x))
    | (extract_lets -underBinder -merge +onlyGivenNames x; guard_hyp x : SecSt)
    | (extract_lets -underBinder -merge +onlyGivenNames x; clear_value x)
    | with_reducible apply State.flitRx_keeps
    | with_reducible apply State.descrambled_keeps
    | split
    | (fail_if_no_progress (with_reducible apply Keeps.lit <;> try exact rfl))
    | with_reducible refine snd_ite_keeps ?_ ?_
    | with_reducible refine snd_mk_keeps ?_
    | with_reducible refine pair_keeps (by assumption) ?_
    | intro _
    | beta_reduce

theorem execMediaFlitRx_keeps {st0 : Inv} {s : State} (h : Keeps st0 s) {ln : Nat} {flit : Nat} :
    ResKeeps st0 (execMediaFlitRx ln flit s) := by
  unfold execMediaFlitRx
  try with_reducible refine ResKeeps.next ?_
  repeat' first
    | with_reducible assumption
    | with_reducible refine ite_keeps ?_ ?_
    | with_reducible refine ResKeeps.next ?_
    | with_reducible apply State.mediaFlit_keeps
    | split
    | (fail_if_no_progress (with_reducible apply Keeps.lit <;> try exact rfl))
    | with_reducible refine snd_ite_keeps ?_ ?_
    | with_reducible refine snd_mk_keeps ?_
    | with_reducible refine pair_keeps (by assumption) ?_
    | intro _
    | beta_reduce

theorem execMediaNakRx_keeps {st0 : Inv} {s : State} (h : Keeps st0 s) {ln : Nat} {ack : Nat} :
    ResKeeps st0 (execMediaNakRx ln ack s) := by
  unfold execMediaNakRx
  try with_reducible refine ResKeeps.next ?_
  repeat' first
    | with_reducible assumption
    | with_reducible refine ite_keeps ?_ ?_
    | with_reducible refine ResKeeps.next ?_
    | with_reducible apply State.ackFlits_keeps
    | with_reducible apply State.resendFrom_keeps
    | with_reducible apply State.descrambled_keeps
    | split
    | (fail_if_no_progress (with_reducible apply Keeps.lit <;> try exact rfl))
    | with_reducible refine snd_ite_keeps ?_ ?_
    | with_reducible refine snd_mk_keeps ?_
    | with_reducible refine pair_keeps (by assumption) ?_
    | intro _
    | beta_reduce

theorem execMediaReplayTimer_keeps {st0 : Inv} {s : State} (h : Keeps st0 s) {ln : Nat}  :
    ResKeeps st0 (execMediaReplayTimer ln s) := by
  unfold execMediaReplayTimer
  try with_reducible refine ResKeeps.next ?_
  repeat' first
    | with_reducible assumption
    | with_reducible refine ite_keeps ?_ ?_
    | with_reducible apply State.satInc_keeps
    | with_reducible apply State.modLink_keeps
    | with_reducible apply State.resendFrom_keeps
    | with_reducible apply State.linkTo_keeps

theorem State.countRead_keeps {st0 : Inv} {s : State} (h : Keeps st0 s) {m : Member}  :
    Keeps st0 (State.countRead s m) := by
  unfold State.countRead
  repeat' first
    | with_reducible assumption
    | with_reducible apply State.modFtl_keeps

theorem State.readMember_keeps {st0 : Inv} {s : State} (h : Keeps st0 s) {m : Member} {dense : Bool} {spage : Nat} {offset : Nat} {units : Nat} {urgent : Bool} {p : Purpose}  :
    Keeps st0 (State.readMember s m dense spage offset units urgent p) := by
  unfold State.readMember
  repeat' first
    | with_reducible assumption
    | with_reducible apply State.countRead_keeps
    | with_reducible apply State.brickSend_keeps

theorem State.programMember_keeps {st0 : Inv} {s : State} (h : Keeps st0 s) {m : Member} {dense : Bool} {shard : Nat} {spage : Nat} {strip : Nat} {p : Purpose} :
    Keeps st0 (State.programMember s m dense shard spage strip p) := by
  unfold State.programMember
  repeat' first
    | with_reducible assumption
    | with_reducible apply State.brickSend_keeps
    | split
    | (fail_if_no_progress (with_reducible apply Keeps.lit <;> try exact rfl))
    | with_reducible refine snd_ite_keeps ?_ ?_
    | with_reducible refine snd_mk_keeps ?_
    | with_reducible refine pair_keeps (by assumption) ?_
    | intro _
    | beta_reduce

theorem State.eraseMember_keeps {st0 : Inv} {s : State} (h : Keeps st0 s) {m : Member} {dense : Bool} {shard : Nat} {p : Purpose}  :
    Keeps st0 (State.eraseMember s m dense shard p) := by
  unfold State.eraseMember
  repeat' first
    | with_reducible assumption
    | with_reducible apply State.brickSend_keeps

end Sys2Proof.Machine
end

