-- ==== Sys2Proof/Laws/KeepsEngine.lean ====
section
/-! SUPPORT. The operations and commands of Machine/Engine.lean keep what a state is asked (Laws/Keeps.lean). -/

set_option linter.all false

namespace Sys2Proof.Machine

theorem State.modSlice_keeps {st0 : Inv} {s : State} (h : Keeps st0 s) {i : Nat} {f : SliceSt → SliceSt} :
    Keeps st0 (State.modSlice s i f) := by
  unfold State.modSlice
  repeat' first
    | with_reducible assumption
    | split
    | (fail_if_no_progress (with_reducible apply Keeps.lit <;> try exact rfl))
    | with_reducible refine snd_ite_keeps ?_ ?_
    | with_reducible refine snd_mk_keeps ?_
    | with_reducible refine pair_keeps (by assumption) ?_
    | intro _
    | beta_reduce

theorem State.slotShow_keeps {st0 : Inv} {s : State} (h : Keeps st0 s)  :
    Keeps st0 (State.slotShow s) := by
  unfold State.slotShow
  repeat' first
    | with_reducible assumption
    | (extract_lets -underBinder -merge +onlyGivenNames x; refine keepCut (r := st0) (x := x) ?_ (fun hx => ?_); (on_goal 1 => (unfold x; clear x)); (on_goal 2 => clear_value x))
    | (extract_lets -underBinder -merge +onlyGivenNames x; guard_hyp x : SecSt)
    | (extract_lets -underBinder -merge +onlyGivenNames x; clear_value x)
    | with_reducible apply State.setAll_keeps
    | split
    | (fail_if_no_progress (with_reducible apply Keeps.lit <;> try exact rfl))
    | with_reducible refine snd_ite_keeps ?_ ?_
    | with_reducible refine snd_mk_keeps ?_
    | with_reducible refine pair_keeps (by assumption) ?_
    | intro _
    | beta_reduce

theorem State.segCharge_keeps {st0 : Inv} {s : State} (h : Keeps st0 s) {i : Nat} {kinds : List Nat} {n : Nat} :
    Keeps st0 (State.segCharge s i kinds n) := by
  unfold State.segCharge
  repeat' first
    | with_reducible assumption
    | (extract_lets -underBinder -merge +onlyGivenNames x; refine keepCut (r := st0) (x := x) ?_ (fun hx => ?_); (on_goal 1 => (unfold x; clear x)); (on_goal 2 => clear_value x))
    | (extract_lets -underBinder -merge +onlyGivenNames x; guard_hyp x : SecSt)
    | (extract_lets -underBinder -merge +onlyGivenNames x; clear_value x)
    | with_reducible refine ite_keeps ?_ ?_
    | with_reducible apply State.poolTake_keeps
    | with_reducible apply State.modSlice_keeps
    | with_reducible apply State.slotShow_keeps
    | split
    | (fail_if_no_progress (with_reducible apply Keeps.lit <;> try exact rfl))
    | with_reducible refine snd_ite_keeps ?_ ?_
    | with_reducible refine snd_mk_keeps ?_
    | with_reducible refine pair_keeps (by assumption) ?_
    | intro _
    | beta_reduce

theorem State.workNote_keeps {st0 : Inv} {s : State} (h : Keeps st0 s) {work : Bool} {n : Nat} :
    Keeps st0 (State.workNote s work n) := by
  unfold State.workNote
  repeat' first
    | with_reducible assumption
    | with_reducible refine ite_keeps ?_ ?_
    | split
    | (fail_if_no_progress (with_reducible apply Keeps.lit <;> try exact rfl))
    | with_reducible refine snd_ite_keeps ?_ ?_
    | with_reducible refine snd_mk_keeps ?_
    | with_reducible refine pair_keeps (by assumption) ?_
    | intro _
    | beta_reduce

theorem State.book_keeps {st0 : Inv} {s : State} (h : Keeps st0 s) {i : Nat} {tag : Nat} {kinds : List Nat} {n : Nat} {work : Bool} :
    Keeps st0 (State.book s i tag kinds n work) := by
  unfold State.book
  repeat' first
    | with_reducible assumption
    | with_reducible refine ite_keeps ?_ ?_
    | with_reducible apply State.modSlice_keeps
    | with_reducible apply State.segCharge_keeps
    | with_reducible apply State.workNote_keeps
    | split
    | (fail_if_no_progress (with_reducible apply Keeps.lit <;> try exact rfl))
    | with_reducible refine snd_ite_keeps ?_ ?_
    | with_reducible refine snd_mk_keeps ?_
    | with_reducible refine pair_keeps (by assumption) ?_
    | intro _
    | beta_reduce

theorem State.unbook_keeps {st0 : Inv} {s : State} (h : Keeps st0 s) {i : Nat} {tag : Nat} {kinds : List Nat} {b : Nat} :
    Keeps st0 (State.unbook s i tag kinds b) := by
  unfold State.unbook
  repeat' first
    | with_reducible assumption
    | with_reducible refine ite_keeps ?_ ?_
    | with_reducible apply State.modSlice_keeps
    | split
    | (fail_if_no_progress (with_reducible apply Keeps.lit <;> try exact rfl))
    | with_reducible refine snd_ite_keeps ?_ ?_
    | with_reducible refine snd_mk_keeps ?_
    | with_reducible refine pair_keeps (by assumption) ?_
    | intro _
    | beta_reduce

theorem State.segRun_keeps {st0 : Inv} {s : State} (h : Keeps st0 s) {i : Nat} {kinds : List Nat} {k : JobKey} {need : Nat} {tag : Nat} {work : Bool} :
    Keeps st0 (State.segRun s i kinds k need tag work).2 := by
  unfold State.segRun
  repeat' first
    | with_reducible assumption
    | (extract_lets -underBinder -merge +onlyGivenNames x; refine keepCut (r := st0) (x := x) ?_ (fun hx => ?_); (on_goal 1 => (unfold x; clear x)); (on_goal 2 => clear_value x))
    | (extract_lets -underBinder -merge +onlyGivenNames x; guard_hyp x : SecSt)
    | (extract_lets -underBinder -merge +onlyGivenNames x; clear_value x)
    | with_reducible refine ite_keeps ?_ ?_
    | with_reducible apply State.modSlice_keeps
    | with_reducible apply State.segCharge_keeps
    | with_reducible apply State.workNote_keeps
    | with_reducible apply State.unbook_keeps
    | split
    | (fail_if_no_progress (with_reducible apply Keeps.lit <;> try exact rfl))
    | with_reducible refine snd_ite_keeps ?_ ?_
    | with_reducible refine snd_mk_keeps ?_
    | with_reducible refine pair_keeps (by assumption) ?_
    | intro _
    | beta_reduce

theorem State.stage_keeps {st0 : Inv} {s : State} (h : Keeps st0 s) {i : Nat} {k : JobKey} {units : List Nat} :
    Keeps st0 (State.stage s i k units) := by
  unfold State.stage
  repeat' first
    | with_reducible assumption
    | (extract_lets -underBinder -merge +onlyGivenNames x; refine keepCut (r := st0) (x := x) ?_ (fun hx => ?_); (on_goal 1 => (unfold x; clear x)); (on_goal 2 => clear_value x))
    | (extract_lets -underBinder -merge +onlyGivenNames x; guard_hyp x : SecSt)
    | (extract_lets -underBinder -merge +onlyGivenNames x; clear_value x)
    | with_reducible refine ite_keeps ?_ ?_
    | with_reducible apply State.set_keeps
    | with_reducible apply State.modSlice_keeps
    | split
    | (fail_if_no_progress (with_reducible apply Keeps.lit <;> try exact rfl))
    | with_reducible refine snd_ite_keeps ?_ ?_
    | with_reducible refine snd_mk_keeps ?_
    | with_reducible refine pair_keeps (by assumption) ?_
    | intro _
    | beta_reduce

theorem State.unstage_keeps {st0 : Inv} {s : State} (h : Keeps st0 s) {i : Nat} {k : JobKey} :
    Keeps st0 (State.unstage s i k) := by
  unfold State.unstage
  repeat' first
    | with_reducible assumption
    | with_reducible apply State.modSlice_keeps
    | split
    | (fail_if_no_progress (with_reducible apply Keeps.lit <;> try exact rfl))
    | with_reducible refine snd_ite_keeps ?_ ?_
    | with_reducible refine snd_mk_keeps ?_
    | with_reducible refine pair_keeps (by assumption) ?_
    | intro _
    | beta_reduce

theorem State.sliceJobsEnd_keeps {st0 : Inv} {s : State} (h : Keeps st0 s) {i : Nat} {tag : Nat} :
    Keeps st0 (State.sliceJobsEnd s i tag) := by
  unfold State.sliceJobsEnd
  repeat' first
    | with_reducible assumption
    | (extract_lets -underBinder -merge +onlyGivenNames x; refine keepCut (r := st0) (x := x) ?_ (fun hx => ?_); (on_goal 1 => (unfold x; clear x)); (on_goal 2 => clear_value x))
    | (extract_lets -underBinder -merge +onlyGivenNames x; guard_hyp x : SecSt)
    | (extract_lets -underBinder -merge +onlyGivenNames x; clear_value x)
    | with_reducible refine ite_keeps ?_ ?_
    | with_reducible apply State.modSlice_keeps
    | with_reducible apply State.bump_keeps
    | split
    | (fail_if_no_progress (with_reducible apply Keeps.lit <;> try exact rfl))
    | with_reducible refine snd_ite_keeps ?_ ?_
    | with_reducible refine snd_mk_keeps ?_
    | with_reducible refine pair_keeps (by assumption) ?_
    | intro _
    | beta_reduce

theorem State.jobsEnd_keeps {st0 : Inv} {s : State} (h : Keeps st0 s) {tag : Nat} :
    Keeps st0 (State.jobsEnd s tag) := by
  unfold State.jobsEnd
  repeat' first
    | with_reducible assumption
    | with_reducible apply State.sliceJobsEnd_keeps
    | with_reducible refine foldl_keeps ?_ (fun _ _ _ => ?_)
    | split
    | (fail_if_no_progress (with_reducible apply Keeps.lit <;> try exact rfl))
    | with_reducible refine snd_ite_keeps ?_ ?_
    | with_reducible refine snd_mk_keeps ?_
    | with_reducible refine pair_keeps (by assumption) ?_
    | intro _
    | beta_reduce

theorem State.bindInfl_keeps {st0 : Inv} {s : State} (h : Keeps st0 s) {i : Nat} {tag : Nat} {cids : List Nat} :
    Keeps st0 (State.bindInfl s i tag cids) := by
  unfold State.bindInfl
  repeat' first
    | with_reducible assumption
    | with_reducible refine ite_keeps ?_ ?_
    | with_reducible apply State.modSlice_keeps
    | with_reducible refine foldl_keeps ?_ (fun _ _ _ => ?_)
    | split
    | (fail_if_no_progress (with_reducible apply Keeps.lit <;> try exact rfl))
    | with_reducible refine snd_ite_keeps ?_ ?_
    | with_reducible refine snd_mk_keeps ?_
    | with_reducible refine pair_keeps (by assumption) ?_
    | intro _
    | beta_reduce

theorem State.inflTrim_keeps {st0 : Inv} {s : State} (h : Keeps st0 s) {i : Nat} {tag : Nat} {cid : Nat} {n : Nat} :
    Keeps st0 (State.inflTrim s i tag cid n) := by
  unfold State.inflTrim
  repeat' first
    | with_reducible assumption
    | (extract_lets -underBinder -merge +onlyGivenNames x; refine keepCut (r := st0) (x := x) ?_ (fun hx => ?_); (on_goal 1 => (unfold x; clear x)); (on_goal 2 => clear_value x))
    | (extract_lets -underBinder -merge +onlyGivenNames x; guard_hyp x : SecSt)
    | (extract_lets -underBinder -merge +onlyGivenNames x; clear_value x)
    | with_reducible refine ite_keeps ?_ ?_
    | with_reducible apply State.modSlice_keeps
    | split
    | (fail_if_no_progress (with_reducible apply Keeps.lit <;> try exact rfl))
    | with_reducible refine snd_ite_keeps ?_ ?_
    | with_reducible refine snd_mk_keeps ?_
    | with_reducible refine pair_keeps (by assumption) ?_
    | intro _
    | beta_reduce

theorem State.inflDone_keeps {st0 : Inv} {s : State} (h : Keeps st0 s) {i : Nat} {tag : Nat} {cid : Nat} :
    Keeps st0 (State.inflDone s i tag cid) := by
  unfold State.inflDone
  repeat' first
    | with_reducible assumption
    | (extract_lets -underBinder -merge +onlyGivenNames x; refine keepCut (r := st0) (x := x) ?_ (fun hx => ?_); (on_goal 1 => (unfold x; clear x)); (on_goal 2 => clear_value x))
    | (extract_lets -underBinder -merge +onlyGivenNames x; guard_hyp x : SecSt)
    | (extract_lets -underBinder -merge +onlyGivenNames x; clear_value x)
    | with_reducible refine ite_keeps ?_ ?_
    | with_reducible apply State.modSlice_keeps
    | split
    | (fail_if_no_progress (with_reducible apply Keeps.lit <;> try exact rfl))
    | with_reducible refine snd_ite_keeps ?_ ?_
    | with_reducible refine snd_mk_keeps ?_
    | with_reducible refine pair_keeps (by assumption) ?_
    | intro _
    | beta_reduce

theorem State.unitRun_keeps {st0 : Inv} {s : State} (h : Keeps st0 s) {i : Nat} {u : Nat} {cap : Nat} {kind : Nat} {k : JobKey} {need : Nat} {tag : Nat} {work : Bool} :
    Keeps st0 (State.unitRun s i u cap kind k need tag work).2 := by
  unfold State.unitRun
  repeat' first
    | with_reducible assumption
    | (extract_lets -underBinder -merge +onlyGivenNames x; refine keepCut (r := st0) (x := x) ?_ (fun hx => ?_); (on_goal 1 => (unfold x; clear x)); (on_goal 2 => clear_value x))
    | (extract_lets -underBinder -merge +onlyGivenNames x; guard_hyp x : SecSt)
    | (extract_lets -underBinder -merge +onlyGivenNames x; clear_value x)
    | with_reducible refine ite_keeps ?_ ?_
    | with_reducible apply State.modSlice_keeps
    | with_reducible apply State.segCharge_keeps
    | with_reducible apply State.workNote_keeps
    | with_reducible apply State.unbook_keeps
    | split
    | (fail_if_no_progress (with_reducible apply Keeps.lit <;> try exact rfl))
    | with_reducible refine snd_ite_keeps ?_ ?_
    | with_reducible refine snd_mk_keeps ?_
    | with_reducible refine pair_keeps (by assumption) ?_
    | intro _
    | beta_reduce

theorem State.deflDone_keeps {st0 : Inv} {s : State} (h : Keeps st0 s) {i : Nat} {j : Nat} :
    Keeps st0 (State.deflDone s i j) := by
  unfold State.deflDone
  repeat' first
    | with_reducible assumption
    | with_reducible apply State.modSlice_keeps
    | split
    | (fail_if_no_progress (with_reducible apply Keeps.lit <;> try exact rfl))
    | with_reducible refine snd_ite_keeps ?_ ?_
    | with_reducible refine snd_mk_keeps ?_
    | with_reducible refine pair_keeps (by assumption) ?_
    | intro _
    | beta_reduce

theorem State.freshSlots_keeps {st0 : Inv} {s : State} (h : Keeps st0 s)  :
    Keeps st0 (State.freshSlots s) := by
  unfold State.freshSlots
  repeat' first
    | with_reducible assumption
    | with_reducible apply State.set_keeps
    | split
    | (fail_if_no_progress (with_reducible apply Keeps.lit <;> try exact rfl))
    | with_reducible refine snd_ite_keeps ?_ ?_
    | with_reducible refine snd_mk_keeps ?_
    | with_reducible refine pair_keeps (by assumption) ?_
    | intro _
    | beta_reduce

theorem State.bookStaged_keeps {st0 : Inv} {s : State} (h : Keeps st0 s)  :
    Keeps st0 (State.bookStaged s) := by
  unfold State.bookStaged
  repeat' first
    | with_reducible assumption
    | (extract_lets -underBinder -merge +onlyGivenNames x; refine keepCut (r := st0) (x := x) ?_ (fun hx => ?_); (on_goal 1 => (unfold x; clear x)); (on_goal 2 => clear_value x))
    | (extract_lets -underBinder -merge +onlyGivenNames x; guard_hyp x : SecSt)
    | (extract_lets -underBinder -merge +onlyGivenNames x; clear_value x)
    | with_reducible apply State.book_keeps
    | with_reducible refine foldl_keeps ?_ (fun _ _ _ => ?_)
    | split
    | (fail_if_no_progress (with_reducible apply Keeps.lit <;> try exact rfl))
    | with_reducible refine snd_ite_keeps ?_ ?_
    | with_reducible refine snd_mk_keeps ?_
    | with_reducible refine pair_keeps (by assumption) ?_
    | intro _
    | beta_reduce

end Sys2Proof.Machine
end

