-- ==== Sys2Proof/Laws/KeepsAdm.lean ====
section
/-! SUPPORT. The operations and commands of Machine/Adm.lean keep what a state is asked (Laws/Keeps.lean). -/

set_option linter.all false

namespace Sys2Proof.Machine

theorem State.newReq_keeps {st0 : Inv} {s : State} (h : Keeps st0 s) {r : Req} {named : Bool} :
    Keeps st0 (State.newReq s r named).2 := by
  unfold State.newReq
  repeat' first
    | with_reducible assumption
    | (extract_lets -underBinder -merge +onlyGivenNames x; refine keepCut (r := st0) (x := x) ?_ (fun hx => ?_); (on_goal 1 => (unfold x; clear x)); (on_goal 2 => clear_value x))
    | (extract_lets -underBinder -merge +onlyGivenNames x; guard_hyp x : SecSt)
    | (extract_lets -underBinder -merge +onlyGivenNames x; clear_value x)
    | with_reducible refine ite_keeps ?_ ?_
    | split
    | (fail_if_no_progress (with_reducible apply Keeps.lit <;> try exact rfl))
    | with_reducible refine snd_ite_keeps ?_ ?_
    | with_reducible refine snd_mk_keeps ?_
    | with_reducible refine pair_keeps (by assumption) ?_
    | intro _
    | beta_reduce

theorem State.pinNote_keeps {st0 : Inv} {s : State} (h : Keeps st0 s) {mtype : Nat} {r : Req} {l : List (Nat × Source)} :
    Keeps st0 (State.pinNote s mtype r l) := by
  unfold State.pinNote
  repeat' first
    | with_reducible assumption
    | (extract_lets -underBinder -merge +onlyGivenNames x; refine keepCut (r := st0) (x := x) ?_ (fun hx => ?_); (on_goal 1 => (unfold x; clear x)); (on_goal 2 => clear_value x))
    | (extract_lets -underBinder -merge +onlyGivenNames x; guard_hyp x : SecSt)
    | (extract_lets -underBinder -merge +onlyGivenNames x; clear_value x)
    | with_reducible refine ite_keeps ?_ ?_
    | with_reducible apply State.sendPeer_keeps
    | with_reducible refine foldl_keeps ?_ (fun _ _ _ => ?_)
    | split
    | (fail_if_no_progress (with_reducible apply Keeps.lit <;> try exact rfl))
    | with_reducible refine snd_ite_keeps ?_ ?_
    | with_reducible refine snd_mk_keeps ?_
    | with_reducible refine pair_keeps (by assumption) ?_
    | intro _
    | beta_reduce

theorem State.unpin_keeps {st0 : Inv} {s : State} (h : Keeps st0 s) {r : Req} {l : List (Nat × Source)} :
    Keeps st0 (State.unpin s r l) := by
  unfold State.unpin
  repeat' first
    | with_reducible assumption
    | with_reducible apply State.pinNote_keeps
    | split
    | (fail_if_no_progress (with_reducible apply Keeps.lit <;> try exact rfl))
    | with_reducible refine snd_ite_keeps ?_ ?_
    | with_reducible refine snd_mk_keeps ?_
    | with_reducible refine pair_keeps (by assumption) ?_
    | intro _
    | beta_reduce

theorem State.reserveTake_keeps {st0 : Inv} {s : State} (h : Keeps st0 s) {k : Nat} :
    Keeps st0 (State.reserveTake s k) := by
  unfold State.reserveTake
  repeat' first
    | with_reducible assumption
    | split
    | (fail_if_no_progress (with_reducible apply Keeps.lit <;> try exact rfl))
    | with_reducible refine snd_ite_keeps ?_ ?_
    | with_reducible refine snd_mk_keeps ?_
    | with_reducible refine pair_keeps (by assumption) ?_
    | intro _
    | beta_reduce

theorem State.reserveGive_keeps {st0 : Inv} {s : State} (h : Keeps st0 s) {k : Nat} :
    Keeps st0 (State.reserveGive s k) := by
  unfold State.reserveGive
  repeat' first
    | with_reducible assumption
    | split
    | (fail_if_no_progress (with_reducible apply Keeps.lit <;> try exact rfl))
    | with_reducible refine snd_ite_keeps ?_ ?_
    | with_reducible refine snd_mk_keeps ?_
    | with_reducible refine pair_keeps (by assumption) ?_
    | intro _
    | beta_reduce

theorem State.slowIrq_keeps {st0 : Inv} {s : State} (h : Keeps st0 s)  :
    Keeps st0 (State.slowIrq s) := by
  unfold State.slowIrq
  repeat' first
    | with_reducible assumption
    | with_reducible apply State.irqIs_keeps
    | split
    | (fail_if_no_progress (with_reducible apply Keeps.lit <;> try exact rfl))
    | with_reducible refine snd_ite_keeps ?_ ?_
    | with_reducible refine snd_mk_keeps ?_
    | with_reducible refine pair_keeps (by assumption) ?_
    | intro _
    | beta_reduce

theorem State.dropLanded_keeps {st0 : Inv} {s : State} (h : Keeps st0 s) {tag : Nat}  :
    Keeps st0 (State.dropLanded s tag) := by
  unfold State.dropLanded
  repeat' first
    | with_reducible assumption
    | with_reducible apply State.modWrite_keeps

theorem State.dropFetches_keeps {st0 : Inv} {s : State} (h : Keeps st0 s) {tag : Nat} :
    Keeps st0 (State.dropFetches s tag) := by
  unfold State.dropFetches
  repeat' first
    | with_reducible assumption
    | (extract_lets -underBinder -merge +onlyGivenNames x; refine keepCut (r := st0) (x := x) ?_ (fun hx => ?_); (on_goal 1 => (unfold x; clear x)); (on_goal 2 => clear_value x))
    | (extract_lets -underBinder -merge +onlyGivenNames x; guard_hyp x : SecSt)
    | (extract_lets -underBinder -merge +onlyGivenNames x; clear_value x)
    | with_reducible apply State.reserve_keeps
    | with_reducible apply State.reserveGive_keeps
    | with_reducible apply State.modRead_keeps
    | with_reducible apply State.jobsEnd_keeps
    | split
    | (fail_if_no_progress (with_reducible apply Keeps.lit <;> try exact rfl))
    | with_reducible refine snd_ite_keeps ?_ ?_
    | with_reducible refine snd_mk_keeps ?_
    | with_reducible refine pair_keeps (by assumption) ?_
    | intro _
    | beta_reduce

theorem State.unhold_keeps {st0 : Inv} {s : State} (h : Keeps st0 s) {tag : Nat} :
    Keeps st0 (State.unhold s tag) := by
  unfold State.unhold
  repeat' first
    | with_reducible assumption
    | with_reducible refine ite_keeps ?_ ?_
    | with_reducible apply State.unpin_keeps
    | with_reducible apply State.modWrite_keeps
    | with_reducible apply State.drop_keeps
    | split
    | (fail_if_no_progress (with_reducible apply Keeps.lit <;> try exact rfl))
    | with_reducible refine snd_ite_keeps ?_ ?_
    | with_reducible refine snd_mk_keeps ?_
    | with_reducible refine pair_keeps (by assumption) ?_
    | intro _
    | beta_reduce

theorem State.finish_keeps {st0 : Inv} {s : State} (h : Keeps st0 s) {tag : Nat} {cond : Nat} :
    Keeps st0 (State.finish s tag cond) := by
  unfold State.finish
  repeat' first
    | with_reducible assumption
    | (extract_lets -underBinder -merge +onlyGivenNames x; refine keepCut (r := st0) (x := x) ?_ (fun hx => ?_); (on_goal 1 => (unfold x; clear x)); (on_goal 2 => clear_value x))
    | (extract_lets -underBinder -merge +onlyGivenNames x; guard_hyp x : SecSt)
    | (extract_lets -underBinder -merge +onlyGivenNames x; clear_value x)
    | with_reducible apply State.dropLanded_keeps
    | with_reducible apply State.modReq_keeps
    | with_reducible apply State.reqGive_keeps
    | with_reducible apply State.stage_keeps
    | with_reducible apply State.dropFetches_keeps
    | with_reducible apply State.unhold_keeps
    | with_reducible refine foldl_keeps ?_ (fun _ _ _ => ?_)
    | split
    | (fail_if_no_progress (with_reducible apply Keeps.lit <;> try exact rfl))
    | with_reducible refine snd_ite_keeps ?_ ?_
    | with_reducible refine snd_mk_keeps ?_
    | with_reducible refine pair_keeps (by assumption) ?_
    | intro _
    | beta_reduce

theorem State.sampleDone_keeps {st0 : Inv} {s : State} (h : Keeps st0 s) {r : Req} :
    Keeps st0 (State.sampleDone s r) := by
  unfold State.sampleDone
  repeat' first
    | with_reducible assumption
    | (extract_lets -underBinder -merge +onlyGivenNames x; refine keepCut (r := st0) (x := x) ?_ (fun hx => ?_); (on_goal 1 => (unfold x; clear x)); (on_goal 2 => clear_value x))
    | (extract_lets -underBinder -merge +onlyGivenNames x; guard_hyp x : SecSt)
    | (extract_lets -underBinder -merge +onlyGivenNames x; clear_value x)
    | with_reducible refine ite_keeps ?_ ?_
    | with_reducible apply State.sample_keeps
    | split
    | (fail_if_no_progress (with_reducible apply Keeps.lit <;> try exact rfl))
    | with_reducible refine snd_ite_keeps ?_ ?_
    | with_reducible refine snd_mk_keeps ?_
    | with_reducible refine pair_keeps (by assumption) ?_
    | intro _
    | beta_reduce

theorem State.dropReq_keeps {st0 : Inv} {s : State} (h : Keeps st0 s) {tag : Nat} :
    Keeps st0 (State.dropReq s tag) := by
  unfold State.dropReq
  repeat' first
    | with_reducible assumption
    | (extract_lets -underBinder -merge +onlyGivenNames x; refine keepCut (r := st0) (x := x) ?_ (fun hx => ?_); (on_goal 1 => (unfold x; clear x)); (on_goal 2 => clear_value x))
    | (extract_lets -underBinder -merge +onlyGivenNames x; guard_hyp x : SecSt)
    | (extract_lets -underBinder -merge +onlyGivenNames x; clear_value x)
    | with_reducible apply State.dropLanded_keeps
    | with_reducible apply State.modRead_keeps
    | with_reducible apply State.reqGiveAll_keeps
    | with_reducible apply State.slowIrq_keeps
    | with_reducible apply State.dropFetches_keeps
    | with_reducible apply State.unhold_keeps
    | split
    | (fail_if_no_progress (with_reducible apply Keeps.lit <;> try exact rfl))
    | with_reducible refine snd_ite_keeps ?_ ?_
    | with_reducible refine snd_mk_keeps ?_
    | with_reducible refine pair_keeps (by assumption) ?_
    | intro _
    | beta_reduce

theorem execBudgetEscalated_keeps {st0 : Inv} {s : State} (h : Keeps st0 s) {tag : Nat} :
    ResKeeps st0 (execBudgetEscalated tag s) := by
  unfold execBudgetEscalated
  try with_reducible refine ResKeeps.next ?_
  repeat' first
    | with_reducible assumption
    | (extract_lets -underBinder -merge +onlyGivenNames x; refine keepCut (r := st0) (x := x) ?_ (fun hx => ?_); (on_goal 1 => (unfold x; clear x)); (on_goal 2 => clear_value x))
    | (extract_lets -underBinder -merge +onlyGivenNames x; guard_hyp x : SecSt)
    | (extract_lets -underBinder -merge +onlyGivenNames x; clear_value x)
    | with_reducible refine ite_keeps ?_ ?_
    | with_reducible refine ResKeeps.next ?_
    | with_reducible apply State.satInc_keeps
    | with_reducible apply State.irq_keeps
    | with_reducible apply State.raise_keeps
    | with_reducible apply State.modReq_keeps
    | split
    | (fail_if_no_progress (with_reducible apply Keeps.lit <;> try exact rfl))
    | with_reducible refine snd_ite_keeps ?_ ?_
    | with_reducible refine snd_mk_keeps ?_
    | with_reducible refine pair_keeps (by assumption) ?_
    | intro _
    | beta_reduce

theorem execAdmLateQRead_keeps {st0 : Inv} {s : State} (h : Keeps st0 s) {m : Nat}  :
    ResKeeps st0 (execAdmLateQRead m s) := by
  unfold execAdmLateQRead
  try with_reducible refine ResKeeps.next ?_
  repeat' first
    | with_reducible assumption
    | with_reducible refine State.busRd_keeps ?_ (fun _ _ => ?_)
    | with_reducible apply State.answer_keeps
    | with_reducible apply State.irqIs_keeps
    | split
    | (fail_if_no_progress (with_reducible apply Keeps.lit <;> try exact rfl))

end Sys2Proof.Machine
end

