-- ==== Sys2Proof/Laws/KeepsBand.lean ====
section
/-! SUPPORT. The operations and commands of Machine/Band.lean keep what a state is asked (Laws/Keeps.lean). -/

set_option linter.all false

namespace Sys2Proof.Machine

theorem State.modDie_keeps {st0 : Inv} {s : State} (h : Keeps st0 s) {key : Nat} {f : DieSt → DieSt}  :
    Keeps st0 (State.modDie s key f) := by
  unfold State.modDie
  repeat' first
    | with_reducible assumption
    | with_reducible apply State.modFtl_keeps
    | split

theorem State.takeBlock_keeps {st0 : Inv} {s : State} (h : Keeps st0 s) {k : Nat} {sh : Nat} {dense : Bool}  :
    ∀ a t, State.takeBlock s k sh dense = some (a, t) → Keeps st0 t := by
  intro x t e
  unfold State.takeBlock at e
  try dsimp only at e
  repeat' split at e
  all_goals first
    | (cases e
       (repeat' first
         | with_reducible assumption
         | with_reducible apply State.modDie_keeps
         | beta_reduce))

theorem State.takeBlocks_keeps {r : Inv} {s : State} (h : Keeps r s) {sh : Nat} {dense : Bool} {ks : List Nat} :
    Keeps r (s.takeBlocks sh dense ks).2 := by
  unfold State.takeBlocks
  refine foldl_snd_keeps h (fun q a hq => ?_)
  dsimp only
  split
  · exact State.takeBlock_keeps hq _ _ (by assumption)
  · exact hq

theorem State.eraseFirst_keeps {st0 : Inv} {s : State} (h : Keeps st0 s) {id : Nat} {b : Band} :
    Keeps st0 (State.eraseFirst s id b) := by
  unfold State.eraseFirst
  repeat' first
    | with_reducible assumption
    | (extract_lets -underBinder -merge +onlyGivenNames x; refine keepCut (r := st0) (x := x) ?_ (fun hx => ?_); (on_goal 1 => (unfold x; clear x)); (on_goal 2 => clear_value x))
    | (extract_lets -underBinder -merge +onlyGivenNames x; guard_hyp x : SecSt)
    | (extract_lets -underBinder -merge +onlyGivenNames x; clear_value x)
    | with_reducible refine ite_keeps ?_ ?_
    | with_reducible apply State.modDie_keeps
    | with_reducible apply State.eraseMember_keeps
    | with_reducible refine foldl_keeps ?_ (fun _ _ _ => ?_)
    | split
    | (fail_if_no_progress (with_reducible apply Keeps.lit <;> try exact rfl))
    | with_reducible refine snd_ite_keeps ?_ ?_
    | with_reducible refine snd_mk_keeps ?_
    | with_reducible refine pair_keeps (by assumption) ?_
    | intro _
    | beta_reduce

theorem State.bandOpen_keeps {st0 : Inv} {s : State} (h : Keeps st0 s) {id cls : Nat} {b : Band} :
    Keeps st0 (State.bandOpen s id cls b) := by
  unfold State.bandOpen
  dsimp only
  refine State.bump_keeps (foldl_keeps ?_ (fun _ _ _ => ?_))
  · exact State.land_keeps (State.eraseFirst_keeps (State.modFtl_keeps h))
  · exact State.land_keeps (by assumption)

theorem State.formIn_keeps {st0 : Inv} {s : State} (h : Keeps st0 s) {sh : Nat} {cls : Nat} {dense : Bool}  :
    ∀ a t, State.formIn s sh cls dense = some (a, t) → Keeps st0 t := by
  intro x t e
  unfold State.formIn at e
  dsimp only at e
  split at e
  · cases e
  · cases e
    exact State.bandOpen_keeps (State.takeBlocks_keeps h)

theorem State.formFail_keeps {st0 : Inv} {s : State} (h : Keeps st0 s)   :
    Keeps st0 (State.formFail s) := by
  unfold State.formFail
  repeat' first
    | with_reducible assumption
    | with_reducible apply State.raise_keeps
    | with_reducible apply State.irq_keeps
    | with_reducible apply State.bump_keeps

theorem State.formBand_keeps {st0 : Inv} {s : State} (h : Keeps st0 s) {sh : Nat} {cls : Nat} :
    Keeps st0 (State.formBand s sh cls).2 := by
  unfold State.formBand
  repeat' first
    | with_reducible assumption
    | with_reducible refine ite_keeps ?_ ?_
    | with_reducible refine State.formIn_keeps ?_ _ _ (by assumption)
    | with_reducible apply State.formFail_keeps
    | with_reducible apply State.bump_keeps
    | split
    | (fail_if_no_progress (with_reducible apply Keeps.lit <;> try exact rfl))
    | with_reducible refine snd_ite_keeps ?_ ?_
    | with_reducible refine snd_mk_keeps ?_
    | with_reducible refine pair_keeps (by assumption) ?_
    | intro _
    | beta_reduce

theorem State.closeBand_keeps {st0 : Inv} {s : State} (h : Keeps st0 s) {id : Nat}  :
    Keeps st0 (State.closeBand s id) := by
  unfold State.closeBand
  repeat' first
    | with_reducible assumption
    | with_reducible apply State.modFtl_keeps
    | with_reducible apply State.bandTo_keeps

theorem State.parityRun_keeps {st0 : Inv} {n : Nat} {s t : State} (h : Keeps st0 s) (e : s.parityRun n = some t) : Keeps st0 t := by
  induction n generalizing s with
  | zero => cases e; exact h
  | succ n ih =>
    unfold State.parityRun at e
    dsimp only at e
    split at e
    · cases e
    · exact ih (State.bump_keeps (State.bump_keeps (State.workNote_keeps (State.segCharge_keeps (State.free_keeps h))))) e

theorem State.rowsOut_keeps {st0 : Inv} {s : State} (h : Keeps st0 s) {id : Nat} {n : Nat} {b : Band} :
    Keeps st0 (State.rowsOut s id n b) := by
  unfold State.rowsOut
  repeat' first
    | with_reducible assumption
    | (extract_lets -underBinder -merge +onlyGivenNames x; refine keepCut (r := st0) (x := x) ?_ (fun hx => ?_); (on_goal 1 => (unfold x; clear x)); (on_goal 2 => clear_value x))
    | (extract_lets -underBinder -merge +onlyGivenNames x; guard_hyp x : SecSt)
    | (extract_lets -underBinder -merge +onlyGivenNames x; clear_value x)
    | with_reducible apply State.modFtl_keeps
    | with_reducible apply State.modBand_keeps
    | with_reducible apply State.bump_keeps
    | split
    | (fail_if_no_progress (with_reducible apply Keeps.lit <;> try exact rfl))
    | with_reducible refine snd_ite_keeps ?_ ?_
    | with_reducible refine snd_mk_keeps ?_
    | with_reducible refine pair_keeps (by assumption) ?_
    | intro _
    | beta_reduce

theorem State.issueRows_keeps {st0 : Inv} {s : State} (h : Keeps st0 s) {id : Nat} {n : Nat} :
    Keeps st0 (State.issueRows s id n) := by
  unfold State.issueRows
  repeat' first
    | with_reducible assumption
    | (extract_lets -underBinder -merge +onlyGivenNames x; refine keepCut (r := st0) (x := x) ?_ (fun hx => ?_); (on_goal 1 => (unfold x; clear x)); (on_goal 2 => clear_value x))
    | (extract_lets -underBinder -merge +onlyGivenNames x; guard_hyp x : SecSt)
    | (extract_lets -underBinder -merge +onlyGivenNames x; clear_value x)
    | with_reducible apply State.programMember_keeps
    | with_reducible apply State.rowsOut_keeps
    | with_reducible refine foldl_keeps ?_ (fun _ _ _ => ?_)
    | split
    | (fail_if_no_progress (with_reducible apply Keeps.lit <;> try exact rfl))
    | with_reducible refine snd_ite_keeps ?_ ?_
    | with_reducible refine snd_mk_keeps ?_
    | with_reducible refine pair_keeps (by assumption) ?_
    | intro _
    | beta_reduce

theorem State.issueFull_keeps {st0 : Inv} {s : State} (h : Keeps st0 s) {a0 : Nat} {a1 : Nat} :
    Keeps st0 (State.issueFull s a0 a1) := by
  induction a0 generalizing a1 s with
  | zero =>
    unfold State.issueFull
    repeat' first
      | with_reducible assumption
  | succ n ih =>
    unfold State.issueFull
    split
    · exact h
    · split
      · exact h
      · split
        · exact h
        · exact ih (State.issueRows_keeps (State.parityRun_keeps h ‹_›))

theorem State.rowsGoOn_keeps {st0 : Inv} {s : State} (h : Keeps st0 s)  :
    Keeps st0 (State.rowsGoOn s) := by
  unfold State.rowsGoOn
  repeat' first
    | with_reducible assumption
    | with_reducible apply State.issueFull_keeps
    | with_reducible refine foldl_keeps ?_ (fun _ _ _ => ?_)
    | split
    | (fail_if_no_progress (with_reducible apply Keeps.lit <;> try exact rfl))
    | with_reducible refine snd_ite_keeps ?_ ?_
    | with_reducible refine snd_mk_keeps ?_
    | with_reducible refine pair_keeps (by assumption) ?_
    | intro _
    | beta_reduce

theorem State.padRow_keeps {st0 : Inv} {s : State} (h : Keeps st0 s) {id : Nat} :
    Keeps st0 (State.padRow s id) := by
  unfold State.padRow
  repeat' first
    | with_reducible assumption
    | (extract_lets -underBinder -merge +onlyGivenNames x; refine keepCut (r := st0) (x := x) ?_ (fun hx => ?_); (on_goal 1 => (unfold x; clear x)); (on_goal 2 => clear_value x))
    | (extract_lets -underBinder -merge +onlyGivenNames x; guard_hyp x : SecSt)
    | (extract_lets -underBinder -merge +onlyGivenNames x; clear_value x)
    | with_reducible refine ite_keeps ?_ ?_
    | with_reducible apply State.closeBand_keeps
    | with_reducible apply State.issueFull_keeps
    | with_reducible apply State.modBand_keeps
    | with_reducible apply State.bump_keeps
    | split
    | (fail_if_no_progress (with_reducible apply Keeps.lit <;> try exact rfl))
    | with_reducible refine snd_ite_keeps ?_ ?_
    | with_reducible refine snd_mk_keeps ?_
    | with_reducible refine pair_keeps (by assumption) ?_
    | intro _
    | beta_reduce

theorem State.endBand_keeps {st0 : Inv} {s : State} (h : Keeps st0 s) {id : Nat}  :
    Keeps st0 (State.endBand s id) := by
  unfold State.endBand
  repeat' first
    | with_reducible assumption
    | with_reducible apply State.modBand_keeps
    | with_reducible apply State.bump_keeps
    | with_reducible apply State.issueFull_keeps
    | with_reducible apply State.closeBand_keeps
    | split

theorem State.openBandFor_keeps {st0 : Inv} {s : State} (h : Keeps st0 s) {sh : Nat} {cls : Nat}  :
    Keeps st0 (State.openBandFor s sh cls).2 := by
  unfold State.openBandFor
  repeat' first
    | with_reducible assumption
    | with_reducible apply State.formBand_keeps
    | split

theorem State.rowBegin_keeps {st0 : Inv} {s : State} (h : Keeps st0 s) {id : Nat} :
    Keeps st0 (State.rowBegin s id) := by
  unfold State.rowBegin
  repeat' first
    | with_reducible assumption
    | with_reducible refine ite_keeps ?_ ?_
    | with_reducible apply State.modBand_keeps
    | split
    | (fail_if_no_progress (with_reducible apply Keeps.lit <;> try exact rfl))
    | with_reducible refine snd_ite_keeps ?_ ?_
    | with_reducible refine snd_mk_keeps ?_
    | with_reducible refine pair_keeps (by assumption) ?_
    | intro _
    | beta_reduce

theorem State.appendUnits_keeps {st0 : Inv} {s : State} (h : Keeps st0 s) {id : Nat} {len : Nat} {bytes : Nat → Nat} :
    Keeps st0 (State.appendUnits s id len bytes).2 := by
  unfold State.appendUnits
  repeat' first
    | with_reducible assumption
    | (extract_lets -underBinder -merge +onlyGivenNames x; refine keepCut (r := st0) (x := x) ?_ (fun hx => ?_); (on_goal 1 => (unfold x; clear x)); (on_goal 2 => clear_value x))
    | (extract_lets -underBinder -merge +onlyGivenNames x; guard_hyp x : SecSt)
    | (extract_lets -underBinder -merge +onlyGivenNames x; clear_value x)
    | with_reducible refine ite_keeps ?_ ?_
    | with_reducible apply State.closeBand_keeps
    | with_reducible apply State.issueFull_keeps
    | with_reducible apply State.endBand_keeps
    | with_reducible apply State.rowBegin_keeps
    | with_reducible apply State.modBand_keeps
    | split
    | (fail_if_no_progress (with_reducible apply Keeps.lit <;> try exact rfl))
    | with_reducible refine snd_ite_keeps ?_ ?_
    | with_reducible refine snd_mk_keeps ?_
    | with_reducible refine pair_keeps (by assumption) ?_
    | intro _
    | beta_reduce

theorem State.placeUnits_keeps {st0 : Inv} {s : State} (h : Keeps st0 s) {sh : Nat} {cls : Nat} {len : Nat} {bytes : Nat → Nat} :
    Keeps st0 (State.placeUnits s sh cls len bytes).2 := by
  unfold State.placeUnits
  repeat' first
    | with_reducible assumption
    | with_reducible refine ite_keeps ?_ ?_
    | with_reducible apply State.formBand_keeps
    | with_reducible apply State.endBand_keeps
    | with_reducible apply State.openBandFor_keeps
    | with_reducible apply State.appendUnits_keeps
    | split
    | (fail_if_no_progress (with_reducible apply Keeps.lit <;> try exact rfl))
    | with_reducible refine snd_ite_keeps ?_ ?_
    | with_reducible refine snd_mk_keeps ?_
    | with_reducible refine pair_keeps (by assumption) ?_
    | intro _
    | beta_reduce

theorem State.place_keeps {st0 : Inv} {s : State} (h : Keeps st0 s) {kind : Nat} {owner : Nat} {sh : Nat} {cls : Nat} {len : Nat} {bytes : Nat → Nat} :
    Keeps st0 (State.place s kind owner sh cls len bytes).2 := by
  unfold State.place
  repeat' first
    | with_reducible assumption
    | with_reducible apply State.placeUnits_keeps
    | with_reducible apply State.modFtl_keeps
    | split
    | (fail_if_no_progress (with_reducible apply Keeps.lit <;> try exact rfl))
    | with_reducible refine snd_ite_keeps ?_ ?_
    | with_reducible refine snd_mk_keeps ?_
    | with_reducible refine pair_keeps (by assumption) ?_
    | intro _
    | beta_reduce

theorem State.takeProgrammed_keeps {st0 : Inv} {s : State} (h : Keeps st0 s)  :
    Keeps st0 (State.takeProgrammed s).2 := by
  unfold State.takeProgrammed
  repeat' first
    | with_reducible assumption
    | (extract_lets -underBinder -merge +onlyGivenNames x; refine keepCut (r := st0) (x := x) ?_ (fun hx => ?_); (on_goal 1 => (unfold x; clear x)); (on_goal 2 => clear_value x))
    | (extract_lets -underBinder -merge +onlyGivenNames x; guard_hyp x : SecSt)
    | (extract_lets -underBinder -merge +onlyGivenNames x; clear_value x)
    | with_reducible apply State.modFtl_keeps
    | with_reducible apply State.modBand_keeps
    | with_reducible refine foldl_keeps ?_ (fun _ _ _ => ?_)
    | split
    | (fail_if_no_progress (with_reducible apply Keeps.lit <;> try exact rfl))
    | with_reducible refine snd_ite_keeps ?_ ?_
    | with_reducible refine snd_mk_keeps ?_
    | with_reducible refine pair_keeps (by assumption) ?_
    | intro _
    | beta_reduce

theorem execRowWaitExpire_keeps {st0 : Inv} {s : State} (h : Keeps st0 s)   :
    ResKeeps st0 (execRowWaitExpire s) := by
  unfold execRowWaitExpire
  try with_reducible refine ResKeeps.next ?_
  repeat' first
    | with_reducible assumption
    | with_reducible apply State.padRow_keeps
    | with_reducible refine foldl_keeps ?_ (fun _ _ _ => ?_)
    | split

theorem State.queueReloc_keeps {st0 : Inv} {s : State} (h : Keeps st0 s) {b : Nat} {reason : Nat}  :
    Keeps st0 (State.queueReloc s b reason) := by
  unfold State.queueReloc
  repeat' first
    | with_reducible assumption
    | with_reducible refine ite_keeps ?_ ?_
    | with_reducible apply State.modFtl_keeps

theorem State.bandsOn_keeps {st0 : Inv} {s : State} (h : Keeps st0 s) {brick : Nat} {die : Option Nat} :
    Keeps st0 (State.bandsOn s brick die) := by
  unfold State.bandsOn
  repeat' first
    | with_reducible assumption
    | with_reducible apply State.queueReloc_keeps
    | with_reducible refine foldl_keeps ?_ (fun _ _ _ => ?_)
    | split
    | (fail_if_no_progress (with_reducible apply Keeps.lit <;> try exact rfl))
    | with_reducible refine snd_ite_keeps ?_ ?_
    | with_reducible refine snd_mk_keeps ?_
    | with_reducible refine pair_keeps (by assumption) ?_
    | intro _
    | beta_reduce

theorem State.exhaust_keeps {st0 : Inv} {s : State} (h : Keeps st0 s) {k : Nat} :
    Keeps st0 (State.exhaust s k) := by
  unfold State.exhaust
  repeat' first
    | with_reducible assumption
    | with_reducible apply State.bandsOn_keeps
    | with_reducible apply State.raise_keeps
    | split
    | (fail_if_no_progress (with_reducible apply Keeps.lit <;> try exact rfl))
    | with_reducible refine snd_ite_keeps ?_ ?_
    | with_reducible refine snd_mk_keeps ?_
    | with_reducible refine pair_keeps (by assumption) ?_
    | intro _
    | beta_reduce

theorem State.retireBlock_keeps {st0 : Inv} {s : State} (h : Keeps st0 s) {m : Member} {dense : Bool} {cause : Nat} :
    Keeps st0 (State.retireBlock s m dense cause) := by
  unfold State.retireBlock
  repeat' first
    | with_reducible assumption
    | (extract_lets -underBinder -merge +onlyGivenNames x; refine keepCut (r := st0) (x := x) ?_ (fun hx => ?_); (on_goal 1 => (unfold x; clear x)); (on_goal 2 => clear_value x))
    | (extract_lets -underBinder -merge +onlyGivenNames x; guard_hyp x : SecSt)
    | (extract_lets -underBinder -merge +onlyGivenNames x; clear_value x)
    | with_reducible refine ite_keeps ?_ ?_
    | with_reducible apply State.modDie_keeps
    | with_reducible apply State.modFtl_keeps
    | with_reducible apply State.bump_keeps
    | with_reducible apply State.irqIs_keeps
    | with_reducible apply State.raise_keeps
    | with_reducible apply State.exhaust_keeps
    | split
    | (fail_if_no_progress (with_reducible apply Keeps.lit <;> try exact rfl))
    | with_reducible refine snd_ite_keeps ?_ ?_
    | with_reducible refine snd_mk_keeps ?_
    | with_reducible refine pair_keeps (by assumption) ?_
    | intro _
    | beta_reduce

theorem State.moveReads_keeps {r : Inv} {s : State} (h : Keeps r s) {cid : Nat} {rebuild : Bool} :
    ∀ a t, s.moveReads cid rebuild = some (a, t) → Keeps r t := by
  unfold State.moveReads
  dsimp only
  split
  · intro a t e; cases e
  · refine foldl_opt_keeps (r := r) (fun a t e => by cases e; exact h) (fun q x hq a t e => ?_)
    try dsimp only at e
    repeat' split at e
    all_goals first
      | (cases e; done)
      | (cases e
         have hs := hq _ _ rfl
         repeat' first
           | with_reducible assumption
           | with_reducible apply State.readMember_keeps
           | with_reducible refine foldl_keeps ?_ (fun _ _ _ => ?_))

theorem State.redyeFail_keeps {st0 : Inv} {s : State} (h : Keeps st0 s) {cid : Nat} :
    Keeps st0 (State.redyeFail s cid) := by
  unfold State.redyeFail
  repeat' first
    | with_reducible assumption
    | with_reducible apply State.modVat_keeps
    | with_reducible apply State.satInc_keeps
    | with_reducible apply State.raise_keeps
    | split
    | (fail_if_no_progress (with_reducible apply Keeps.lit <;> try exact rfl))
    | with_reducible refine snd_ite_keeps ?_ ?_
    | with_reducible refine snd_mk_keeps ?_
    | with_reducible refine pair_keeps (by assumption) ?_
    | intro _
    | beta_reduce

theorem State.startMove_keeps {st0 : Inv} {s : State} (h : Keeps st0 s) {cid : Nat} {src : Nat} {redye : Bool} :
    Keeps st0 (State.startMove s cid src redye) := by
  unfold State.startMove
  repeat' first
    | with_reducible assumption
    | (extract_lets -underBinder -merge +onlyGivenNames x; refine keepCut (r := st0) (x := x) ?_ (fun hx => ?_); (on_goal 1 => (unfold x; clear x)); (on_goal 2 => clear_value x))
    | (extract_lets -underBinder -merge +onlyGivenNames x; guard_hyp x : SecSt)
    | (extract_lets -underBinder -merge +onlyGivenNames x; clear_value x)
    | with_reducible refine ite_keeps ?_ ?_
    | with_reducible apply State.newReq_keeps
    | with_reducible apply State.modFtl_keeps
    | with_reducible refine State.moveReads_keeps ?_ _ _ (by assumption)
    | split
    | (fail_if_no_progress (with_reducible apply Keeps.lit <;> try exact rfl))
    | with_reducible refine snd_ite_keeps ?_ ?_
    | with_reducible refine snd_mk_keeps ?_
    | with_reducible refine pair_keeps (by assumption) ?_
    | intro _
    | beta_reduce

theorem State.moveOver_keeps {st0 : Inv} {s : State} (h : Keeps st0 s) {cid : Nat} :
    Keeps st0 (State.moveOver s cid) := by
  unfold State.moveOver
  repeat' first
    | with_reducible assumption
    | (extract_lets -underBinder -merge +onlyGivenNames x; refine keepCut (r := st0) (x := x) ?_ (fun hx => ?_); (on_goal 1 => (unfold x; clear x)); (on_goal 2 => clear_value x))
    | (extract_lets -underBinder -merge +onlyGivenNames x; guard_hyp x : SecSt)
    | (extract_lets -underBinder -merge +onlyGivenNames x; clear_value x)
    | with_reducible apply State.sampleDone_keeps
    | with_reducible apply State.dropReq_keeps
    | with_reducible apply State.modFtl_keeps
    | split
    | (fail_if_no_progress (with_reducible apply Keeps.lit <;> try exact rfl))
    | with_reducible refine snd_ite_keeps ?_ ?_
    | with_reducible refine snd_mk_keeps ?_
    | with_reducible refine pair_keeps (by assumption) ?_
    | intro _
    | beta_reduce

theorem State.moveFail_keeps {st0 : Inv} {s : State} (h : Keeps st0 s) {cid : Nat} :
    Keeps st0 (State.moveFail s cid) := by
  unfold State.moveFail
  repeat' first
    | with_reducible assumption
    | (extract_lets -underBinder -merge +onlyGivenNames x; refine keepCut (r := st0) (x := x) ?_ (fun hx => ?_); (on_goal 1 => (unfold x; clear x)); (on_goal 2 => clear_value x))
    | (extract_lets -underBinder -merge +onlyGivenNames x; guard_hyp x : SecSt)
    | (extract_lets -underBinder -merge +onlyGivenNames x; clear_value x)
    | with_reducible refine ite_keeps ?_ ?_
    | with_reducible apply State.redyeFail_keeps
    | with_reducible apply State.modBand_keeps
    | with_reducible apply State.raise_keeps
    | with_reducible apply State.moveOver_keeps
    | split
    | (fail_if_no_progress (with_reducible apply Keeps.lit <;> try exact rfl))
    | with_reducible refine snd_ite_keeps ?_ ?_
    | with_reducible refine snd_mk_keeps ?_
    | with_reducible refine pair_keeps (by assumption) ?_
    | intro _
    | beta_reduce

theorem State.movesOf_keeps {st0 : Inv} {s : State} (h : Keeps st0 s) {b : Nat} :
    Keeps st0 (State.movesOf s b) := by
  unfold State.movesOf
  repeat' first
    | with_reducible assumption
    | with_reducible refine ite_keeps ?_ ?_
    | with_reducible apply State.startMove_keeps
    | with_reducible refine foldl_keeps ?_ (fun _ _ _ => ?_)
    | split
    | (fail_if_no_progress (with_reducible apply Keeps.lit <;> try exact rfl))
    | with_reducible refine snd_ite_keeps ?_ ?_
    | with_reducible refine snd_mk_keeps ?_
    | with_reducible refine pair_keeps (by assumption) ?_
    | intro _
    | beta_reduce

theorem State.victimCheck_keeps {st0 : Inv} {s : State} (h : Keeps st0 s) {b : Nat} :
    Keeps st0 (State.victimCheck s b) := by
  unfold State.victimCheck
  repeat' first
    | with_reducible assumption
    | (extract_lets -underBinder -merge +onlyGivenNames x; refine keepCut (r := st0) (x := x) ?_ (fun hx => ?_); (on_goal 1 => (unfold x; clear x)); (on_goal 2 => clear_value x))
    | (extract_lets -underBinder -merge +onlyGivenNames x; guard_hyp x : SecSt)
    | (extract_lets -underBinder -merge +onlyGivenNames x; clear_value x)
    | with_reducible refine ite_keeps ?_ ?_
    | with_reducible apply State.modFtl_keeps
    | with_reducible apply State.bandTo_keeps
    | split
    | (fail_if_no_progress (with_reducible apply Keeps.lit <;> try exact rfl))
    | with_reducible refine snd_ite_keeps ?_ ?_
    | with_reducible refine snd_mk_keeps ?_
    | with_reducible refine pair_keeps (by assumption) ?_
    | intro _
    | beta_reduce

theorem State.heldCheck_keeps {st0 : Inv} {s : State} (h : Keeps st0 s) {b : Nat} :
    Keeps st0 (State.heldCheck s b) := by
  unfold State.heldCheck
  repeat' first
    | with_reducible assumption
    | with_reducible refine ite_keeps ?_ ?_
    | with_reducible apply State.bandTo_keeps
    | split
    | (fail_if_no_progress (with_reducible apply Keeps.lit <;> try exact rfl))
    | with_reducible refine snd_ite_keeps ?_ ?_
    | with_reducible refine snd_mk_keeps ?_
    | with_reducible refine pair_keeps (by assumption) ?_
    | intro _
    | beta_reduce

theorem State.moveGo_keeps {st0 : Inv} {s : State} (h : Keeps st0 s) {cid : Nat} {rebuild : Bool} :
    Keeps st0 (State.moveGo s cid rebuild) := by
  unfold State.moveGo
  repeat' first
    | with_reducible assumption
    | (extract_lets -underBinder -merge +onlyGivenNames x; refine keepCut (r := st0) (x := x) ?_ (fun hx => ?_); (on_goal 1 => (unfold x; clear x)); (on_goal 2 => clear_value x))
    | (extract_lets -underBinder -merge +onlyGivenNames x; guard_hyp x : SecSt)
    | (extract_lets -underBinder -merge +onlyGivenNames x; clear_value x)
    | with_reducible refine ite_keeps ?_ ?_
    | with_reducible refine State.moveReads_keeps ?_ _ _ (by assumption)
    | with_reducible apply State.victimCheck_keeps
    | with_reducible apply State.modFtl_keeps
    | with_reducible apply State.moveOver_keeps
    | with_reducible apply State.moveFail_keeps
    | split
    | (fail_if_no_progress (with_reducible apply Keeps.lit <;> try exact rfl))
    | with_reducible refine snd_ite_keeps ?_ ?_
    | with_reducible refine snd_mk_keeps ?_
    | with_reducible refine pair_keeps (by assumption) ?_
    | intro _
    | beta_reduce

theorem State.relocMarks_keeps {st0 : Inv} {s : State} (h : Keeps st0 s) {sh : Nat}  :
    Keeps st0 (State.relocMarks s sh) := by
  unfold State.relocMarks
  repeat' first
    | with_reducible assumption
    | with_reducible refine ite_keeps ?_ ?_
    | with_reducible apply State.modFtl_keeps
    | with_reducible apply State.irq_keeps

theorem State.relocStart_keeps {st0 : Inv} {s : State} (h : Keeps st0 s) {sh : Nat}  :
    Keeps st0 (State.relocStart s sh) := by
  unfold State.relocStart
  repeat' first
    | with_reducible assumption
    | (extract_lets -underBinder -merge +onlyGivenNames x; refine keepCut (r := st0) (x := x) ?_ (fun hx => ?_); (on_goal 1 => (unfold x; clear x)); (on_goal 2 => clear_value x))
    | with_reducible apply State.relocMarks_keeps
    | with_reducible apply State.modFtl_keeps
    | with_reducible apply State.modBand_keeps
    | with_reducible apply State.bandTo_keeps
    | with_reducible apply State.bump_keeps
    | split

theorem execRelocationStart_keeps {st0 : Inv} {s : State} (h : Keeps st0 s)   :
    ResKeeps st0 (execRelocationStart s) := by
  unfold execRelocationStart
  try with_reducible refine ResKeeps.next ?_
  repeat' first
    | with_reducible assumption
    | with_reducible apply State.relocStart_keeps

theorem State.memberGone_keeps {st0 : Inv} {s : State} (h : Keeps st0 s) {b : Nat} {i : Nat} :
    Keeps st0 (State.memberGone s b i) := by
  unfold State.memberGone
  repeat' first
    | with_reducible assumption
    | with_reducible apply State.modBand_keeps
    | split
    | (fail_if_no_progress (with_reducible apply Keeps.lit <;> try exact rfl))
    | with_reducible refine snd_ite_keeps ?_ ?_
    | with_reducible refine snd_mk_keeps ?_
    | with_reducible refine pair_keeps (by assumption) ?_
    | intro _
    | beta_reduce

theorem State.eraseEnd_keeps {st0 : Inv} {s : State} (h : Keeps st0 s) {b : Nat} :
    Keeps st0 (State.eraseEnd s b) := by
  unfold State.eraseEnd
  repeat' first
    | with_reducible assumption
    | (extract_lets -underBinder -merge +onlyGivenNames x; refine keepCut (r := st0) (x := x) ?_ (fun hx => ?_); (on_goal 1 => (unfold x; clear x)); (on_goal 2 => clear_value x))
    | (extract_lets -underBinder -merge +onlyGivenNames x; guard_hyp x : SecSt)
    | (extract_lets -underBinder -merge +onlyGivenNames x; clear_value x)
    | with_reducible refine ite_keeps ?_ ?_
    | with_reducible apply State.retireBlock_keeps
    | with_reducible apply State.bandTo_keeps
    | with_reducible apply State.bump_keeps
    | with_reducible apply State.memberGone_keeps
    | with_reducible refine foldl_keeps ?_ (fun _ _ _ => ?_)
    | split
    | (fail_if_no_progress (with_reducible apply Keeps.lit <;> try exact rfl))
    | with_reducible refine snd_ite_keeps ?_ ?_
    | with_reducible refine snd_mk_keeps ?_
    | with_reducible refine pair_keeps (by assumption) ?_
    | intro _
    | beta_reduce

theorem State.eraseBand_keeps {st0 : Inv} {s : State} (h : Keeps st0 s) {b : Nat} {x : Band} :
    Keeps st0 (State.eraseBand s b x) := by
  unfold State.eraseBand
  repeat' first
    | with_reducible assumption
    | with_reducible refine ite_keeps ?_ ?_
    | with_reducible apply State.eraseMember_keeps
    | with_reducible apply State.modBand_keeps
    | with_reducible apply State.eraseEnd_keeps
    | with_reducible refine foldl_keeps ?_ (fun _ _ _ => ?_)
    | split
    | (fail_if_no_progress (with_reducible apply Keeps.lit <;> try exact rfl))
    | with_reducible refine snd_ite_keeps ?_ ?_
    | with_reducible refine snd_mk_keeps ?_
    | with_reducible refine pair_keeps (by assumption) ?_
    | intro _
    | beta_reduce

theorem execBandErase_keeps {st0 : Inv} {s : State} (h : Keeps st0 s) {b : Nat} :
    ResKeeps st0 (execBandErase b s) := by
  unfold execBandErase
  try with_reducible refine ResKeeps.next ?_
  repeat' first
    | with_reducible assumption
    | with_reducible refine ite_keeps ?_ ?_
    | with_reducible refine ResKeeps.next ?_
    | with_reducible apply State.eraseBand_keeps
    | split
    | (fail_if_no_progress (with_reducible apply Keeps.lit <;> try exact rfl))
    | with_reducible refine snd_ite_keeps ?_ ?_
    | with_reducible refine snd_mk_keeps ?_
    | with_reducible refine pair_keeps (by assumption) ?_
    | intro _
    | beta_reduce

theorem State.eraseFail_keeps {st0 : Inv} {s : State} (h : Keeps st0 s) {b : Nat} {i : Nat} {m : Member} {dense : Bool} :
    Keeps st0 (State.eraseFail s b i m dense) := by
  unfold State.eraseFail
  repeat' first
    | with_reducible assumption
    | with_reducible apply State.retireBlock_keeps
    | with_reducible apply State.bump_keeps
    | with_reducible apply State.raise_keeps
    | with_reducible apply State.memberGone_keeps
    | split
    | (fail_if_no_progress (with_reducible apply Keeps.lit <;> try exact rfl))
    | with_reducible refine snd_ite_keeps ?_ ?_
    | with_reducible refine snd_mk_keeps ?_
    | with_reducible refine pair_keeps (by assumption) ?_
    | intro _
    | beta_reduce

theorem State.preEraseFail_keeps {st0 : Inv} {s : State} (h : Keeps st0 s) {b : Nat} {i : Nat} :
    Keeps st0 (State.preEraseFail s b i) := by
  unfold State.preEraseFail
  repeat' first
    | with_reducible assumption
    | (extract_lets -underBinder -merge +onlyGivenNames x; refine keepCut (r := st0) (x := x) ?_ (fun hx => ?_); (on_goal 1 => (unfold x; clear x)); (on_goal 2 => clear_value x))
    | (extract_lets -underBinder -merge +onlyGivenNames x; guard_hyp x : SecSt)
    | (extract_lets -underBinder -merge +onlyGivenNames x; clear_value x)
    | with_reducible refine ite_keeps ?_ ?_
    | with_reducible apply State.closeBand_keeps
    | with_reducible apply State.queueReloc_keeps
    | with_reducible apply State.eraseFail_keeps
    | split
    | (fail_if_no_progress (with_reducible apply Keeps.lit <;> try exact rfl))
    | with_reducible refine snd_ite_keeps ?_ ?_
    | with_reducible refine snd_mk_keeps ?_
    | with_reducible refine pair_keeps (by assumption) ?_
    | intro _
    | beta_reduce

theorem State.eraseDone_keeps {st0 : Inv} {s : State} (h : Keeps st0 s) {b : Nat} {i : Nat} {ok : Bool} :
    Keeps st0 (State.eraseDone s b i ok) := by
  unfold State.eraseDone
  repeat' first
    | with_reducible assumption
    | (extract_lets -underBinder -merge +onlyGivenNames x; refine keepCut (r := st0) (x := x) ?_ (fun hx => ?_); (on_goal 1 => (unfold x; clear x)); (on_goal 2 => clear_value x))
    | (extract_lets -underBinder -merge +onlyGivenNames x; guard_hyp x : SecSt)
    | (extract_lets -underBinder -merge +onlyGivenNames x; clear_value x)
    | with_reducible refine ite_keeps ?_ ?_
    | with_reducible apply State.modBand_keeps
    | with_reducible apply State.countErase_keeps
    | with_reducible apply State.eraseEnd_keeps
    | with_reducible apply State.eraseFail_keeps
    | split
    | (fail_if_no_progress (with_reducible apply Keeps.lit <;> try exact rfl))
    | with_reducible refine snd_ite_keeps ?_ ?_
    | with_reducible refine snd_mk_keeps ?_
    | with_reducible refine pair_keeps (by assumption) ?_
    | intro _
    | beta_reduce

end Sys2Proof.Machine
end

