-- ==== Sys2Proof/Laws/KeepsRecord.lean ====
section
/-! SUPPORT. The operations and commands of Machine/Record.lean keep what a state is asked (Laws/Keeps.lean). -/

set_option linter.all false

namespace Sys2Proof.Machine

theorem State.pfxWrite_keeps {st0 : Inv} [st0.Writes] {s : State} (h : Keeps st0 s) {p : Nat} {vol : Nat} {lba : Nat} {len : Nat} {trig : Nat} {es : List Extent} :
    Keeps st0 (State.pfxWrite s p vol lba len trig es) := by
  unfold State.pfxWrite
  repeat' first
    | with_reducible assumption
    | (extract_lets -underBinder -merge +onlyGivenNames x; refine keepCut (r := st0) (x := x) ?_ (fun hx => ?_); (on_goal 1 => (unfold x; clear x)); (on_goal 2 => clear_value x))
    | (extract_lets -underBinder -merge +onlyGivenNames x; guard_hyp x : SecSt)
    | (extract_lets -underBinder -merge +onlyGivenNames x; clear_value x)
    | with_reducible apply State.wrLE_keeps
    | with_reducible refine foldl_keeps ?_ (fun _ _ _ => ?_)
    | split
    | (fail_if_no_progress (with_reducible apply Keeps.lit <;> try exact rfl))
    | with_reducible refine snd_ite_keeps ?_ ?_
    | with_reducible refine snd_mk_keeps ?_
    | with_reducible refine pair_keeps (by assumption) ?_
    | intro _
    | beta_reduce

theorem State.recEnd_keeps {st0 : Inv} [st0.Writes] {s : State} (h : Keeps st0 s) {why : Nat} :
    Keeps st0 (State.recEnd s why) := by
  unfold State.recEnd
  repeat' first
    | with_reducible assumption
    | (extract_lets -underBinder -merge +onlyGivenNames x; refine keepCut (r := st0) (x := x) ?_ (fun hx => ?_); (on_goal 1 => (unfold x; clear x)); (on_goal 2 => clear_value x))
    | (extract_lets -underBinder -merge +onlyGivenNames x; guard_hyp x : SecSt)
    | (extract_lets -underBinder -merge +onlyGivenNames x; clear_value x)
    | with_reducible refine ite_keeps ?_ ?_
    | with_reducible apply State.setAll_keeps
    | with_reducible apply State.irq_keeps
    | with_reducible apply State.pfxWrite_keeps
    | split
    | (fail_if_no_progress (with_reducible apply Keeps.lit <;> try exact rfl))
    | with_reducible refine snd_ite_keeps ?_ ?_
    | with_reducible refine snd_mk_keeps ?_
    | with_reducible refine pair_keeps (by assumption) ?_
    | intro _
    | beta_reduce

theorem State.recVolumeGone_keeps {st0 : Inv} [st0.Writes] {s : State} (h : Keeps st0 s) {v : Nat} :
    Keeps st0 (State.recVolumeGone s v) := by
  unfold State.recVolumeGone
  repeat' first
    | with_reducible assumption
    | with_reducible refine ite_keeps ?_ ?_
    | with_reducible apply State.recEnd_keeps
    | split
    | (fail_if_no_progress (with_reducible apply Keeps.lit <;> try exact rfl))
    | with_reducible refine snd_ite_keeps ?_ ?_
    | with_reducible refine snd_mk_keeps ?_
    | with_reducible refine pair_keeps (by assumption) ?_
    | intro _
    | beta_reduce

end Sys2Proof.Machine
end

