-- ==== Sys2Proof/Laws/KeepsVat.lean ====
section
/-! SUPPORT. The operations and commands of Machine/Vat.lean keep what a state is asked (Laws/Keeps.lean). -/

set_option linter.all false

namespace Sys2Proof.Machine

theorem State.keyRemove_keeps {st0 : Inv} {s : State} (h : Keeps st0 s) {h : Nat}  :
    Keeps st0 (State.keyRemove s h) := by
  unfold State.keyRemove
  repeat' first
    | with_reducible assumption
    | split
    | (fail_if_no_progress (with_reducible apply Keeps.lit <;> try exact rfl))

theorem State.keyStore_keeps {st0 : Inv} [st0.Writes] {s : State} (h : Keeps st0 s) {h : Nat} :
    Keeps st0 (State.keyStore s h) := by
  unfold State.keyStore
  repeat' first
    | with_reducible assumption
    | with_reducible refine ite_keeps ?_ ?_
    | with_reducible apply State.putBytes_keeps
    | split
    | (fail_if_no_progress (with_reducible apply Keeps.lit <;> try exact rfl))
    | with_reducible refine snd_ite_keeps ?_ ?_
    | with_reducible refine snd_mk_keeps ?_
    | with_reducible refine pair_keeps (by assumption) ?_
    | intro _
    | beta_reduce

theorem State.saltsStore_keeps {st0 : Inv} [st0.Writes] {s : State} (h : Keeps st0 s)  :
    Keeps st0 (State.saltsStore s) := by
  unfold State.saltsStore
  repeat' first
    | with_reducible assumption
    | with_reducible refine ite_keeps ?_ ?_
    | with_reducible apply State.keyStore_keeps
    | with_reducible refine foldl_keeps ?_ (fun _ _ _ => ?_)
    | split
    | (fail_if_no_progress (with_reducible apply Keeps.lit <;> try exact rfl))
    | with_reducible refine snd_ite_keeps ?_ ?_
    | with_reducible refine snd_mk_keeps ?_
    | with_reducible refine pair_keeps (by assumption) ?_
    | intro _
    | beta_reduce

theorem State.keyPut_keeps {st0 : Inv} [st0.Writes] {s : State} (h : Keeps st0 s) {h : Nat} {k : KeyH} :
    Keeps st0 (State.keyPut s h k) := by
  unfold State.keyPut
  repeat' first
    | with_reducible assumption
    | with_reducible apply State.keyStore_keeps
    | split
    | (fail_if_no_progress (with_reducible apply Keeps.lit <;> try exact rfl))
    | with_reducible refine snd_ite_keeps ?_ ?_
    | with_reducible refine snd_mk_keeps ?_
    | with_reducible refine pair_keeps (by assumption) ?_
    | intro _
    | beta_reduce

theorem State.hidMove_keeps {st0 : Inv} [st0.Writes] {s : State} (h : Keeps st0 s) {old : Nat} :
    Keeps st0 (State.hidMove s old) := by
  unfold State.hidMove
  dsimp only
  refine ite_keeps h (foldl_keeps h (fun q g hq => ?_))
  split
  · refine State.keyPut_keeps ?_
    exact hq.same rfl rfl rfl
  · exact hq

theorem State.draw256_keeps {r : Inv} {s : State} (h : Keeps r s) : Keeps r s.draw256.2 := by
  have e : s.draw256.2 = ({ s with sec := { s.sec with drbgCount := s.sec.drbgCount + 1 } } : State).satInc F.SEC_DRBG_STAT_SINCE_RESEED 1 := rfl
  rw [e]
  refine State.satInc_keeps ?_
  exact h.same rfl rfl rfl

theorem State.setVat_keeps {st0 : Inv} {s : State} (h : Keeps st0 s) {v : Nat} {x : Vat}  :
    Keeps st0 (State.setVat s v x) := by
  unfold State.setVat
  repeat' first
    | with_reducible assumption
    | with_reducible apply State.modVat_keeps

theorem State.setVol_keeps {st0 : Inv} {s : State} (h : Keeps st0 s) {v : Nat} {x : Vol}  :
    Keeps st0 (State.setVol s v x) := by
  unfold State.setVol
  repeat' first
    | with_reducible assumption
    | with_reducible apply State.modVat_keeps

theorem State.tblResult_keeps {st0 : Inv} {s : State} (h : Keeps st0 s) {snp : Bool} {result : Nat} {cond : Nat} {beat : Nat}  :
    Keeps st0 (State.tblResult s snp result cond beat) := by
  unfold State.tblResult
  repeat' first
    | with_reducible assumption
    | with_reducible refine ite_keeps ?_ ?_
    | with_reducible apply State.setAll_keeps
    | with_reducible apply State.irq_keeps

theorem State.tblDraw_keeps {st0 : Inv} {s : State} (h : Keeps st0 s) {c : TCmd} :
    Keeps st0 (State.tblDraw s c).2 := by
  unfold State.tblDraw
  repeat' first
    | with_reducible assumption
    | (extract_lets -underBinder -merge +onlyGivenNames x; refine keepCut (r := st0) (x := x) ?_ (fun hx => ?_); (on_goal 1 => (unfold x; clear x)); (on_goal 2 => clear_value x))
    | (extract_lets -underBinder -merge +onlyGivenNames x; guard_hyp x : SecSt)
    | (extract_lets -underBinder -merge +onlyGivenNames x; clear_value x)
    | with_reducible refine ite_keeps ?_ ?_
    | with_reducible apply State.draw256_keeps
    | split
    | (fail_if_no_progress (with_reducible apply Keeps.lit <;> try exact rfl))
    | with_reducible refine snd_ite_keeps ?_ ?_
    | with_reducible refine snd_mk_keeps ?_
    | with_reducible refine pair_keeps (by assumption) ?_
    | intro _
    | beta_reduce

theorem State.tblTell_keeps {st0 : Inv} {s : State} (h : Keeps st0 s) {c : TCmd} :
    Keeps st0 (State.tblTell s c) := by
  unfold State.tblTell
  repeat' first
    | with_reducible assumption
    | with_reducible apply State.sendPeer_keeps
    | split
    | (fail_if_no_progress (with_reducible apply Keeps.lit <;> try exact rfl))
    | with_reducible refine snd_ite_keeps ?_ ?_
    | with_reducible refine snd_mk_keeps ?_
    | with_reducible refine pair_keeps (by assumption) ?_
    | intro _
    | beta_reduce

theorem State.tblAccept_keeps {st0 : Inv} {s : State} (h : Keeps st0 s) {c : TCmd} :
    Keeps st0 (State.tblAccept s c) := by
  unfold State.tblAccept
  repeat' first
    | with_reducible assumption
    | (extract_lets -underBinder -merge +onlyGivenNames x; refine keepCut (r := st0) (x := x) ?_ (fun hx => ?_); (on_goal 1 => (unfold x; clear x)); (on_goal 2 => clear_value x))
    | (extract_lets -underBinder -merge +onlyGivenNames x; guard_hyp x : SecSt)
    | (extract_lets -underBinder -merge +onlyGivenNames x; clear_value x)
    | with_reducible refine ite_keeps ?_ ?_
    | with_reducible apply State.modVat_keeps
    | with_reducible apply State.set_keeps
    | with_reducible apply State.bump_keeps
    | with_reducible apply State.tblDraw_keeps
    | with_reducible apply State.tblTell_keeps
    | split
    | (fail_if_no_progress (with_reducible apply Keeps.lit <;> try exact rfl))
    | with_reducible refine snd_ite_keeps ?_ ?_
    | with_reducible refine snd_mk_keeps ?_
    | with_reducible refine pair_keeps (by assumption) ?_
    | intro _
    | beta_reduce

theorem State.saltsGo_keeps {st0 : Inv} {s : State} (h : Keeps st0 s)  :
    Keeps st0 (State.saltsGo s) := by
  unfold State.saltsGo
  repeat' first
    | with_reducible assumption
    | (extract_lets -underBinder -merge +onlyGivenNames x; refine keepCut (r := st0) (x := x) ?_ (fun hx => ?_); (on_goal 1 => (unfold x; clear x)); (on_goal 2 => clear_value x))
    | (extract_lets -underBinder -merge +onlyGivenNames x; guard_hyp x : SecSt)
    | (extract_lets -underBinder -merge +onlyGivenNames x; clear_value x)
    | with_reducible refine ite_keeps ?_ ?_
    | with_reducible apply State.modVat_keeps
    | with_reducible apply State.tblDraw_keeps
    | with_reducible apply State.tblTell_keeps
    | with_reducible refine foldl_keeps ?_ (fun _ _ _ => ?_)
    | split
    | (fail_if_no_progress (with_reducible apply Keeps.lit <;> try exact rfl))
    | with_reducible refine snd_ite_keeps ?_ ?_
    | with_reducible refine snd_mk_keeps ?_
    | with_reducible refine pair_keeps (by assumption) ?_
    | intro _
    | beta_reduce

theorem State.tblRefuse_keeps {st0 : Inv} {s : State} (h : Keeps st0 s) {snp : Bool} {cond : Nat} {beat : Nat}  :
    Keeps st0 (State.tblRefuse s snp cond beat) := by
  unfold State.tblRefuse
  repeat' first
    | with_reducible assumption
    | with_reducible apply State.tblResult_keeps
    | with_reducible apply State.bump_keeps

theorem State.tblCommand_keeps {st0 : Inv} [st0.Writes] {s : State} (h : Keeps st0 s) {snp : Bool} {op : Nat} {target : Nat} {args : List Nat}  :
    Keeps st0 (State.tblCommand s snp op target args) := by
  unfold State.tblCommand
  repeat' first
    | with_reducible assumption
    | (extract_lets -underBinder -merge +onlyGivenNames x; refine keepCut (r := st0) (x := x) ?_ (fun hx => ?_); (on_goal 1 => (unfold x; clear x)); (on_goal 2 => clear_value x))
    | (extract_lets -underBinder -merge +onlyGivenNames x; clear_value x)
    | with_reducible apply State.raise_keeps
    | with_reducible apply State.tblRefuse_keeps
    | with_reducible apply State.wrLE_keeps
    | with_reducible apply State.tblAccept_keeps
    | with_reducible refine foldl_keeps ?_ (fun _ _ _ => ?_)
    | split

theorem State.vatCmdWrite_keeps {st0 : Inv} [st0.Writes] {s : State} (h : Keeps st0 s) {op : Nat} {target : Nat}  :
    Keeps st0 (State.vatCmdWrite s op target) := by
  unfold State.vatCmdWrite
  repeat' first
    | with_reducible assumption
    | with_reducible apply State.tblCommand_keeps

theorem State.snpCmdWrite_keeps {st0 : Inv} [st0.Writes] {s : State} (h : Keeps st0 s) {op : Nat} {count : Nat} {vol : Nat} {snap : Nat}  :
    Keeps st0 (State.snpCmdWrite s op count vol snap) := by
  unfold State.snpCmdWrite
  repeat' first
    | with_reducible assumption
    | with_reducible apply State.tblCommand_keeps

theorem vatCmdBus_keeps {st0 : Inv} [st0.Writes] {s : State} (h : Keeps st0 s) {m : Nat} {op : Nat} {target : Nat}  :
    ResKeeps st0 (vatCmdBus m op target s) := by
  unfold vatCmdBus
  try with_reducible refine ResKeeps.next ?_
  repeat' first
    | with_reducible assumption
    | with_reducible refine State.busWr_keeps ?_ (fun _ _ => ?_)
    | with_reducible apply State.vatCmdWrite_keeps

theorem execCreateVat_keeps {st0 : Inv} [st0.Writes] {s : State} (h : Keeps st0 s) {m : Nat} {vat : Nat}  :
    ResKeeps st0 (execCreateVat m vat s) := by
  unfold execCreateVat
  try with_reducible refine ResKeeps.next ?_
  repeat' first
    | with_reducible assumption
    | with_reducible apply vatCmdBus_keeps

theorem execSetVatOptions_keeps {st0 : Inv} [st0.Writes] {s : State} (h : Keeps st0 s) {m : Nat} {vat : Nat}  :
    ResKeeps st0 (execSetVatOptions m vat s) := by
  unfold execSetVatOptions
  try with_reducible refine ResKeeps.next ?_
  repeat' first
    | with_reducible assumption
    | with_reducible apply vatCmdBus_keeps

theorem execRekey_keeps {st0 : Inv} [st0.Writes] {s : State} (h : Keeps st0 s) {m : Nat} {vat : Nat}  :
    ResKeeps st0 (execRekey m vat s) := by
  unfold execRekey
  try with_reducible refine ResKeeps.next ?_
  repeat' first
    | with_reducible assumption
    | with_reducible apply vatCmdBus_keeps

theorem execFreeze_keeps {st0 : Inv} [st0.Writes] {s : State} (h : Keeps st0 s) {m : Nat} {vat : Nat}  :
    ResKeeps st0 (execFreeze m vat s) := by
  unfold execFreeze
  try with_reducible refine ResKeeps.next ?_
  repeat' first
    | with_reducible assumption
    | with_reducible apply vatCmdBus_keeps

theorem execDeleteVat_keeps {st0 : Inv} [st0.Writes] {s : State} (h : Keeps st0 s) {m : Nat} {vat : Nat}  :
    ResKeeps st0 (execDeleteVat m vat s) := by
  unfold execDeleteVat
  try with_reducible refine ResKeeps.next ?_
  repeat' first
    | with_reducible assumption
    | with_reducible apply vatCmdBus_keeps

theorem execCreateVolume_keeps {st0 : Inv} [st0.Writes] {s : State} (h : Keeps st0 s) {m : Nat} {vol : Nat}  :
    ResKeeps st0 (execCreateVolume m vol s) := by
  unfold execCreateVolume
  try with_reducible refine ResKeeps.next ?_
  repeat' first
    | with_reducible assumption
    | with_reducible apply vatCmdBus_keeps

theorem execResizeVolume_keeps {st0 : Inv} [st0.Writes] {s : State} (h : Keeps st0 s) {m : Nat} {vol : Nat}  :
    ResKeeps st0 (execResizeVolume m vol s) := by
  unfold execResizeVolume
  try with_reducible refine ResKeeps.next ?_
  repeat' first
    | with_reducible assumption
    | with_reducible apply vatCmdBus_keeps

theorem execSetProfile_keeps {st0 : Inv} [st0.Writes] {s : State} (h : Keeps st0 s) {m : Nat} {vol : Nat}  :
    ResKeeps st0 (execSetProfile m vol s) := by
  unfold execSetProfile
  try with_reducible refine ResKeeps.next ?_
  repeat' first
    | with_reducible assumption
    | with_reducible apply vatCmdBus_keeps

theorem execDeleteVolume_keeps {st0 : Inv} [st0.Writes] {s : State} (h : Keeps st0 s) {m : Nat} {vol : Nat}  :
    ResKeeps st0 (execDeleteVolume m vol s) := by
  unfold execDeleteVolume
  try with_reducible refine ResKeeps.next ?_
  repeat' first
    | with_reducible assumption
    | with_reducible apply vatCmdBus_keeps

theorem execRedyeResume_keeps {st0 : Inv} [st0.Writes] {s : State} (h : Keeps st0 s) {m : Nat} {vat : Nat}  :
    ResKeeps st0 (execRedyeResume m vat s) := by
  unfold execRedyeResume
  try with_reducible refine ResKeeps.next ?_
  repeat' first
    | with_reducible assumption
    | with_reducible apply vatCmdBus_keeps

theorem execSnpCreateGroup_keeps {st0 : Inv} [st0.Writes] {s : State} (h : Keeps st0 s) {m : Nat} {count : Nat}  :
    ResKeeps st0 (execSnpCreateGroup m count s) := by
  unfold execSnpCreateGroup
  try with_reducible refine ResKeeps.next ?_
  repeat' first
    | with_reducible assumption
    | with_reducible refine State.busWr_keeps ?_ (fun _ _ => ?_)
    | with_reducible apply State.snpCmdWrite_keeps

theorem execSnpDelete_keeps {st0 : Inv} [st0.Writes] {s : State} (h : Keeps st0 s) {m : Nat} {snap : Nat}  :
    ResKeeps st0 (execSnpDelete m snap s) := by
  unfold execSnpDelete
  try with_reducible refine ResKeeps.next ?_
  repeat' first
    | with_reducible assumption
    | with_reducible refine State.busWr_keeps ?_ (fun _ _ => ?_)
    | with_reducible apply State.snpCmdWrite_keeps

theorem execSnpClone_keeps {st0 : Inv} [st0.Writes] {s : State} (h : Keeps st0 s) {m : Nat} {snap : Nat} {vol : Nat}  :
    ResKeeps st0 (execSnpClone m snap vol s) := by
  unfold execSnpClone
  try with_reducible refine ResKeeps.next ?_
  repeat' first
    | with_reducible assumption
    | with_reducible refine State.busWr_keeps ?_ (fun _ _ => ?_)
    | with_reducible apply State.snpCmdWrite_keeps

theorem execPeerTableCmdRx_keeps {st0 : Inv} {s : State} (h : Keeps st0 s) {snp : Bool} {op : Nat} {target : Nat} {beat : Nat} {args : List Nat} :
    ResKeeps st0 (execPeerTableCmdRx snp op target beat args s) := by
  unfold execPeerTableCmdRx
  try with_reducible refine ResKeeps.next ?_
  repeat' first
    | with_reducible assumption
    | with_reducible refine ite_keeps ?_ ?_
    | with_reducible refine ResKeeps.next ?_
    | with_reducible apply State.modVat_keeps
    | with_reducible apply State.sendPeer_keeps
    | split
    | (fail_if_no_progress (with_reducible apply Keeps.lit <;> try exact rfl))
    | with_reducible refine snd_ite_keeps ?_ ?_
    | with_reducible refine snd_mk_keeps ?_
    | with_reducible refine pair_keeps (by assumption) ?_
    | intro _
    | beta_reduce

theorem execPeerTableAckRx_keeps {st0 : Inv} {s : State} (h : Keeps st0 s) {snp : Bool}  :
    ResKeeps st0 (execPeerTableAckRx snp s) := by
  unfold execPeerTableAckRx
  try with_reducible refine ResKeeps.next ?_
  repeat' first
    | with_reducible assumption
    | with_reducible apply State.modVat_keeps

theorem execTableCmdAckTimeout_keeps {st0 : Inv} {s : State} (h : Keeps st0 s)  :
    ResKeeps st0 (execTableCmdAckTimeout s) := by
  unfold execTableCmdAckTimeout
  try with_reducible refine ResKeeps.next ?_
  repeat' first
    | with_reducible assumption
    | (extract_lets -underBinder -merge +onlyGivenNames x; refine keepCut (r := st0) (x := x) ?_ (fun hx => ?_); (on_goal 1 => (unfold x; clear x)); (on_goal 2 => clear_value x))
    | (extract_lets -underBinder -merge +onlyGivenNames x; guard_hyp x : SecSt)
    | (extract_lets -underBinder -merge +onlyGivenNames x; clear_value x)
    | with_reducible refine ite_keeps ?_ ?_
    | with_reducible refine ResKeeps.next ?_
    | with_reducible apply State.modVat_keeps
    | with_reducible apply State.sendPeer_keeps
    | with_reducible apply State.tblResult_keeps
    | split
    | (fail_if_no_progress (with_reducible apply Keeps.lit <;> try exact rfl))
    | with_reducible refine snd_ite_keeps ?_ ?_
    | with_reducible refine snd_mk_keeps ?_
    | with_reducible refine pair_keeps (by assumption) ?_
    | intro _
    | beta_reduce

theorem State.vatFreeCheck_keeps {st0 : Inv} {s : State} (h : Keeps st0 s) {v : Nat}  :
    Keeps st0 (State.vatFreeCheck s v) := by
  unfold State.vatFreeCheck
  repeat' first
    | with_reducible assumption
    | with_reducible apply State.modVat_keeps
    | split

theorem State.volumeGone_keeps {st0 : Inv} [st0.Writes] {s : State} (h : Keeps st0 s) {v : Nat} :
    Keeps st0 (State.volumeGone s v) := by
  unfold State.volumeGone
  repeat' first
    | with_reducible assumption
    | (extract_lets -underBinder -merge +onlyGivenNames x; refine keepCut (r := st0) (x := x) ?_ (fun hx => ?_); (on_goal 1 => (unfold x; clear x)); (on_goal 2 => clear_value x))
    | (extract_lets -underBinder -merge +onlyGivenNames x; guard_hyp x : SecSt)
    | (extract_lets -underBinder -merge +onlyGivenNames x; clear_value x)
    | with_reducible refine ite_keeps ?_ ?_
    | with_reducible apply State.finish_keeps
    | with_reducible apply State.modWrite_keeps
    | with_reducible apply State.recVolumeGone_keeps
    | with_reducible apply State.setVol_keeps
    | with_reducible refine foldl_keeps ?_ (fun _ _ _ => ?_)
    | split
    | (fail_if_no_progress (with_reducible apply Keeps.lit <;> try exact rfl))
    | with_reducible refine snd_ite_keeps ?_ ?_
    | with_reducible refine snd_mk_keeps ?_
    | with_reducible refine pair_keeps (by assumption) ?_
    | intro _
    | beta_reduce

theorem State.snapGone_keeps {st0 : Inv} {s : State} (h : Keeps st0 s) {n : Nat}  :
    Keeps st0 (State.snapGone s n) := by
  unfold State.snapGone
  repeat' first
    | with_reducible assumption
    | with_reducible apply State.modVat_keeps
    | with_reducible apply State.bump_keeps
    | split

theorem State.startSweep_keeps {st0 : Inv} {s : State} (h : Keeps st0 s) {v : Nat} {x : Vat} :
    Keeps st0 (State.startSweep s v x) := by
  unfold State.startSweep
  repeat' first
    | with_reducible assumption
    | (extract_lets -underBinder -merge +onlyGivenNames x; refine keepCut (r := st0) (x := x) ?_ (fun hx => ?_); (on_goal 1 => (unfold x; clear x)); (on_goal 2 => clear_value x))
    | (extract_lets -underBinder -merge +onlyGivenNames x; guard_hyp x : SecSt)
    | (extract_lets -underBinder -merge +onlyGivenNames x; clear_value x)
    | with_reducible apply State.modVat_keeps
    | with_reducible apply State.setAll_keeps
    | split
    | (fail_if_no_progress (with_reducible apply Keeps.lit <;> try exact rfl))
    | with_reducible refine snd_ite_keeps ?_ ?_
    | with_reducible refine snd_mk_keeps ?_
    | with_reducible refine pair_keeps (by assumption) ?_
    | intro _
    | beta_reduce

theorem State.vatJudge_keeps {st0 : Inv} {s : State} (h : Keeps st0 s) {v : Nat} :
    Keeps st0 (State.vatJudge s v) := by
  unfold State.vatJudge
  repeat' first
    | with_reducible assumption
    | (extract_lets -underBinder -merge +onlyGivenNames x; refine keepCut (r := st0) (x := x) ?_ (fun hx => ?_); (on_goal 1 => (unfold x; clear x)); (on_goal 2 => clear_value x))
    | (extract_lets -underBinder -merge +onlyGivenNames x; guard_hyp x : SecSt)
    | (extract_lets -underBinder -merge +onlyGivenNames x; clear_value x)
    | with_reducible refine ite_keeps ?_ ?_
    | with_reducible apply State.finish_keeps
    | with_reducible refine foldl_keeps ?_ (fun _ _ _ => ?_)
    | split
    | (fail_if_no_progress (with_reducible apply Keeps.lit <;> try exact rfl))
    | with_reducible refine snd_ite_keeps ?_ ?_
    | with_reducible refine snd_mk_keeps ?_
    | with_reducible refine pair_keeps (by assumption) ?_
    | intro _
    | beta_reduce

theorem State.sweepDrop_keeps {st0 : Inv} {s : State} (h : Keeps st0 s)  :
    Keeps st0 (State.sweepDrop s) := by
  unfold State.sweepDrop
  repeat' first
    | with_reducible assumption
    | (extract_lets -underBinder -merge +onlyGivenNames x; refine keepCut (r := st0) (x := x) ?_ (fun hx => ?_); (on_goal 1 => (unfold x; clear x)); (on_goal 2 => clear_value x))
    | (extract_lets -underBinder -merge +onlyGivenNames x; guard_hyp x : SecSt)
    | (extract_lets -underBinder -merge +onlyGivenNames x; clear_value x)
    | with_reducible apply State.moveOver_keeps
    | with_reducible apply State.modVat_keeps
    | with_reducible apply State.set_keeps
    | with_reducible refine foldl_keeps ?_ (fun _ _ _ => ?_)
    | split
    | (fail_if_no_progress (with_reducible apply Keeps.lit <;> try exact rfl))
    | with_reducible refine snd_ite_keeps ?_ ?_
    | with_reducible refine snd_mk_keeps ?_
    | with_reducible refine pair_keeps (by assumption) ?_
    | intro _
    | beta_reduce

theorem State.applyVat_keeps {st0 : Inv} [st0.Writes] {s : State} (h : Keeps st0 s) {op : Nat} {t : Nat} {args : List Nat} :
    Keeps st0 (State.applyVat s op t args) := by
  unfold State.applyVat
  repeat' first
    | with_reducible assumption
    | (extract_lets -underBinder -merge +onlyGivenNames x; refine keepCut (r := st0) (x := x) ?_ (fun hx => ?_); (on_goal 1 => (unfold x; clear x)); (on_goal 2 => clear_value x))
    | (extract_lets -underBinder -merge +onlyGivenNames x; guard_hyp x : SecSt)
    | (extract_lets -underBinder -merge +onlyGivenNames x; clear_value x)
    | with_reducible refine ite_keeps ?_ ?_
    | with_reducible apply State.modRead_keeps
    | with_reducible apply State.keyRemove_keeps
    | with_reducible apply State.keyStore_keeps
    | with_reducible apply State.setVat_keeps
    | with_reducible apply State.setVol_keeps
    | with_reducible apply State.vatFreeCheck_keeps
    | with_reducible apply State.volumeGone_keeps
    | with_reducible apply State.snapGone_keeps
    | with_reducible apply State.startSweep_keeps
    | with_reducible apply State.vatJudge_keeps
    | with_reducible apply State.sweepDrop_keeps
    | with_reducible refine foldl_keeps ?_ (fun _ _ _ => ?_)
    | split
    | (fail_if_no_progress (with_reducible apply Keeps.lit <;> try exact rfl))
    | with_reducible refine snd_ite_keeps ?_ ?_
    | with_reducible refine snd_mk_keeps ?_
    | with_reducible refine pair_keeps (by assumption) ?_
    | intro _
    | beta_reduce

theorem State.applySnp_keeps {st0 : Inv} {s : State} (h : Keeps st0 s) {op : Nat} {t : Nat} {b : Nat} {args : List Nat} :
    Keeps st0 (State.applySnp s op t b args) := by
  unfold State.applySnp
  repeat' first
    | with_reducible assumption
    | (extract_lets -underBinder -merge +onlyGivenNames x; refine keepCut (r := st0) (x := x) ?_ (fun hx => ?_); (on_goal 1 => (unfold x; clear x)); (on_goal 2 => clear_value x))
    | (extract_lets -underBinder -merge +onlyGivenNames x; guard_hyp x : SecSt)
    | (extract_lets -underBinder -merge +onlyGivenNames x; clear_value x)
    | with_reducible apply State.modVat_keeps
    | with_reducible apply State.bump_keeps
    | with_reducible apply State.setVol_keeps
    | with_reducible apply State.snapGone_keeps
    | with_reducible refine foldl_keeps ?_ (fun _ _ _ => ?_)
    | split
    | (fail_if_no_progress (with_reducible apply Keeps.lit <;> try exact rfl))
    | with_reducible refine snd_ite_keeps ?_ ?_
    | with_reducible refine snd_mk_keeps ?_
    | with_reducible refine pair_keeps (by assumption) ?_
    | intro _
    | beta_reduce

theorem State.applyCmd_keeps {st0 : Inv} [st0.Writes] {s : State} (h : Keeps st0 s) {c : TCmd} :
    Keeps st0 (State.applyCmd s c) := by
  unfold State.applyCmd
  repeat' first
    | with_reducible assumption
    | (extract_lets -underBinder -merge +onlyGivenNames x; refine keepCut (r := st0) (x := x) ?_ (fun hx => ?_); (on_goal 1 => (unfold x; clear x)); (on_goal 2 => clear_value x))
    | (extract_lets -underBinder -merge +onlyGivenNames x; guard_hyp x : SecSt)
    | (extract_lets -underBinder -merge +onlyGivenNames x; clear_value x)
    | with_reducible refine ite_keeps ?_ ?_
    | with_reducible apply State.modVat_keeps
    | with_reducible apply State.tblResult_keeps
    | with_reducible apply State.applyVat_keeps
    | with_reducible apply State.applySnp_keeps
    | split
    | (fail_if_no_progress (with_reducible apply Keeps.lit <;> try exact rfl))
    | with_reducible refine snd_ite_keeps ?_ ?_
    | with_reducible refine snd_mk_keeps ?_
    | with_reducible refine pair_keeps (by assumption) ?_
    | intro _
    | beta_reduce

theorem State.freezeCheck_keeps {st0 : Inv} {s : State} (h : Keeps st0 s)  :
    Keeps st0 (State.freezeCheck s) := by
  unfold State.freezeCheck
  repeat' first
    | with_reducible assumption
    | with_reducible refine ite_keeps ?_ ?_
    | with_reducible apply State.modVat_keeps
    | with_reducible apply State.tblResult_keeps
    | split
    | (fail_if_no_progress (with_reducible apply Keeps.lit <;> try exact rfl))
    | with_reducible refine snd_ite_keeps ?_ ?_
    | with_reducible refine snd_mk_keeps ?_
    | with_reducible refine pair_keeps (by assumption) ?_
    | intro _
    | beta_reduce

theorem execTableCmdApply_keeps {st0 : Inv} [st0.Writes] {s : State} (h : Keeps st0 s)   :
    ResKeeps st0 (execTableCmdApply s) := by
  unfold execTableCmdApply
  try with_reducible refine ResKeeps.next ?_
  repeat' first
    | with_reducible assumption
    | with_reducible apply State.applyCmd_keeps
    | with_reducible apply State.freezeCheck_keeps
    | with_reducible refine foldl_keeps ?_ (fun _ _ _ => ?_)

theorem execPeerTablesRx_keeps {st0 : Inv} [st0.Writes] {s : State} (h : Keeps st0 s) {vats : List (Nat × List Nat)} {vols : List (Nat × List Nat)} {snaps : List (Nat × List Nat)} :
    ResKeeps st0 (execPeerTablesRx vats vols snaps s) := by
  unfold execPeerTablesRx
  try with_reducible refine ResKeeps.next ?_
  repeat' first
    | with_reducible assumption
    | with_reducible refine ite_keeps ?_ ?_
    | with_reducible refine ResKeeps.next ?_
    | with_reducible apply State.modVat_keeps
    | with_reducible apply State.set_keeps
    | with_reducible apply State.drop_keeps
    | with_reducible apply State.saltsStore_keeps
    | with_reducible refine foldl_keeps ?_ (fun _ _ _ => ?_)
    | split
    | (fail_if_no_progress (with_reducible apply Keeps.lit <;> try exact rfl))
    | with_reducible refine snd_ite_keeps ?_ ?_
    | with_reducible refine snd_mk_keeps ?_
    | with_reducible refine pair_keeps (by assumption) ?_
    | intro _
    | beta_reduce

theorem State.releasePage_keeps {st0 : Inv} {s : State} (h : Keeps st0 s) {key : Nat} :
    Keeps st0 (State.releasePage s key) := by
  unfold State.releasePage
  repeat' first
    | with_reducible assumption
    | (extract_lets -underBinder -merge +onlyGivenNames x; refine keepCut (r := st0) (x := x) ?_ (fun hx => ?_); (on_goal 1 => (unfold x; clear x)); (on_goal 2 => clear_value x))
    | (extract_lets -underBinder -merge +onlyGivenNames x; guard_hyp x : SecSt)
    | (extract_lets -underBinder -merge +onlyGivenNames x; clear_value x)
    | with_reducible refine ite_keeps ?_ ?_
    | with_reducible apply State.leafDirty_keeps
    | with_reducible apply State.modRead_keeps
    | with_reducible apply State.bandDead_keeps
    | with_reducible apply State.land_keeps
    | with_reducible apply State.bump_keeps
    | with_reducible refine foldl_keeps ?_ (fun _ _ _ => ?_)
    | split
    | (fail_if_no_progress (with_reducible apply Keeps.lit <;> try exact rfl))
    | with_reducible refine snd_ite_keeps ?_ ?_
    | with_reducible refine snd_mk_keeps ?_
    | with_reducible refine pair_keeps (by assumption) ?_
    | intro _
    | beta_reduce

theorem execVolumeRefRelease_keeps {st0 : Inv} [st0.Writes] {s : State} (h : Keeps st0 s) {vol : Nat} {n : Nat} :
    ResKeeps st0 (execVolumeRefRelease vol n s) := by
  unfold execVolumeRefRelease
  try with_reducible refine ResKeeps.next ?_
  repeat' first
    | with_reducible assumption
    | (extract_lets -underBinder -merge +onlyGivenNames x; refine keepCut (r := st0) (x := x) ?_ (fun hx => ?_); (on_goal 1 => (unfold x; clear x)); (on_goal 2 => clear_value x))
    | (extract_lets -underBinder -merge +onlyGivenNames x; guard_hyp x : SecSt)
    | (extract_lets -underBinder -merge +onlyGivenNames x; clear_value x)
    | with_reducible refine ite_keeps ?_ ?_
    | with_reducible refine ResKeeps.next ?_
    | with_reducible apply State.applied_keeps
    | with_reducible apply State.modVat_keeps
    | with_reducible apply State.vatFreeCheck_keeps
    | with_reducible apply State.releasePage_keeps
    | with_reducible refine foldl_keeps ?_ (fun _ _ _ => ?_)
    | split
    | (fail_if_no_progress (with_reducible apply Keeps.lit <;> try exact rfl))
    | with_reducible refine snd_ite_keeps ?_ ?_
    | with_reducible refine snd_mk_keeps ?_
    | with_reducible refine pair_keeps (by assumption) ?_
    | intro _
    | beta_reduce

theorem State.pagePass_keeps {st0 : Inv} {s : State} (h : Keeps st0 s) {key : Nat} {dst : Nat} :
    Keeps st0 (State.pagePass s key dst) := by
  unfold State.pagePass
  repeat' first
    | with_reducible assumption
    | (extract_lets -underBinder -merge +onlyGivenNames x; refine keepCut (r := st0) (x := x) ?_ (fun hx => ?_); (on_goal 1 => (unfold x; clear x)); (on_goal 2 => clear_value x))
    | (extract_lets -underBinder -merge +onlyGivenNames x; guard_hyp x : SecSt)
    | (extract_lets -underBinder -merge +onlyGivenNames x; clear_value x)
    | with_reducible apply State.leafDirty_keeps
    | with_reducible apply State.modRead_keeps
    | split
    | (fail_if_no_progress (with_reducible apply Keeps.lit <;> try exact rfl))
    | with_reducible refine snd_ite_keeps ?_ ?_
    | with_reducible refine snd_mk_keeps ?_
    | with_reducible refine pair_keeps (by assumption) ?_
    | intro _
    | beta_reduce

theorem State.reclaimPage_keeps {st0 : Inv} {s : State} (h : Keeps st0 s) {n : Nat} {key : Nat} :
    Keeps st0 (State.reclaimPage s n key) := by
  unfold State.reclaimPage
  repeat' first
    | with_reducible assumption
    | (extract_lets -underBinder -merge +onlyGivenNames x; refine keepCut (r := st0) (x := x) ?_ (fun hx => ?_); (on_goal 1 => (unfold x; clear x)); (on_goal 2 => clear_value x))
    | (extract_lets -underBinder -merge +onlyGivenNames x; guard_hyp x : SecSt)
    | (extract_lets -underBinder -merge +onlyGivenNames x; clear_value x)
    | with_reducible refine ite_keeps ?_ ?_
    | with_reducible apply State.releasePage_keeps
    | with_reducible apply State.pagePass_keeps
    | split
    | (fail_if_no_progress (with_reducible apply Keeps.lit <;> try exact rfl))
    | with_reducible refine snd_ite_keeps ?_ ?_
    | with_reducible refine snd_mk_keeps ?_
    | with_reducible refine pair_keeps (by assumption) ?_
    | intro _
    | beta_reduce

theorem execSnapshotRefRelease_keeps {st0 : Inv} {s : State} (h : Keeps st0 s) {snap : Nat} {n : Nat}  :
    ResKeeps st0 (execSnapshotRefRelease snap n s) := by
  unfold execSnapshotRefRelease
  try with_reducible refine ResKeeps.next ?_
  repeat' first
    | with_reducible assumption
    | (extract_lets -underBinder -merge +onlyGivenNames x; refine keepCut (r := st0) (x := x) ?_ (fun hx => ?_); (on_goal 1 => (unfold x; clear x)); (on_goal 2 => clear_value x))
    | with_reducible apply State.reclaimPage_keeps
    | with_reducible apply State.modVat_keeps
    | with_reducible refine foldl_keeps ?_ (fun _ _ _ => ?_)
    | split

end Sys2Proof.Machine
end

