-- ==== Sys2Proof/Laws/KeepsResolve.lean ====
section
/-! SUPPORT. The operations and commands of Machine/Resolve.lean keep what a state is asked (Laws/Keeps.lean). -/

set_option linter.all false

namespace Sys2Proof.Machine

theorem State.readFail_keeps {st0 : Inv} {s : State} (h : Keeps st0 s) {tag : Nat} {cond : Nat} {info : Nat}  :
    Keeps st0 (State.readFail s tag cond info) := by
  unfold State.readFail
  repeat' first
    | with_reducible assumption
    | with_reducible apply State.raise_keeps
    | with_reducible apply State.bump_keeps
    | with_reducible apply State.finish_keeps

theorem State.dropPfx_keeps {st0 : Inv} {s : State} (h : Keeps st0 s) {r : Req} :
    Keeps st0 (State.dropPfx s r) := by
  unfold State.dropPfx
  repeat' first
    | with_reducible assumption
    | with_reducible apply State.dropReq_keeps
    | with_reducible apply State.bump_keeps
    | with_reducible refine foldl_keeps ?_ (fun _ _ _ => ?_)
    | split
    | (fail_if_no_progress (with_reducible apply Keeps.lit <;> try exact rfl))
    | with_reducible refine snd_ite_keeps ?_ ?_
    | with_reducible refine snd_mk_keeps ?_
    | with_reducible refine pair_keeps (by assumption) ?_
    | intro _
    | beta_reduce

theorem State.goSlow_keeps {st0 : Inv} {s : State} (h : Keeps st0 s) {tag : Nat} {reason : Nat} {lba : Nat} :
    Keeps st0 (State.goSlow s tag reason lba) := by
  unfold State.goSlow
  repeat' first
    | with_reducible assumption
    | (extract_lets -underBinder -merge +onlyGivenNames x; refine keepCut (r := st0) (x := x) ?_ (fun hx => ?_); (on_goal 1 => (unfold x; clear x)); (on_goal 2 => clear_value x))
    | (extract_lets -underBinder -merge +onlyGivenNames x; guard_hyp x : SecSt)
    | (extract_lets -underBinder -merge +onlyGivenNames x; clear_value x)
    | with_reducible refine ite_keeps ?_ ?_
    | with_reducible apply State.slowIrq_keeps
    | with_reducible apply State.stage_keeps
    | with_reducible apply State.modRead_keeps
    | with_reducible apply State.modReq_keeps
    | with_reducible apply State.readFail_keeps
    | with_reducible apply State.dropPfx_keeps
    | split
    | (fail_if_no_progress (with_reducible apply Keeps.lit <;> try exact rfl))
    | with_reducible refine snd_ite_keeps ?_ ?_
    | with_reducible refine snd_mk_keeps ?_
    | with_reducible refine pair_keeps (by assumption) ?_
    | intro _
    | beta_reduce

theorem State.pageRaise_keeps {st0 : Inv} {s : State} (h : Keeps st0 s) {ctb : Bool} {key : Nat} :
    Keeps st0 (State.pageRaise s ctb key) := by
  unfold State.pageRaise
  repeat' first
    | with_reducible assumption
    | (extract_lets -underBinder -merge +onlyGivenNames x; refine keepCut (r := st0) (x := x) ?_ (fun hx => ?_); (on_goal 1 => (unfold x; clear x)); (on_goal 2 => clear_value x))
    | (extract_lets -underBinder -merge +onlyGivenNames x; guard_hyp x : SecSt)
    | (extract_lets -underBinder -merge +onlyGivenNames x; clear_value x)
    | with_reducible apply State.modReq_keeps
    | with_reducible refine foldl_keeps ?_ (fun _ _ _ => ?_)
    | split
    | (fail_if_no_progress (with_reducible apply Keeps.lit <;> try exact rfl))
    | with_reducible refine snd_ite_keeps ?_ ?_
    | with_reducible refine snd_mk_keeps ?_
    | with_reducible refine pair_keeps (by assumption) ?_
    | intro _
    | beta_reduce

theorem State.metaRead_keeps {st0 : Inv} {s : State} (h : Keeps st0 s) {ctb : Bool} {key : Nat} {rebuild : Bool} :
    Keeps st0 (State.metaRead s ctb key rebuild) := by
  unfold State.metaRead
  repeat' first
    | with_reducible assumption
    | (extract_lets -underBinder -merge +onlyGivenNames x; refine keepCut (r := st0) (x := x) ?_ (fun hx => ?_); (on_goal 1 => (unfold x; clear x)); (on_goal 2 => clear_value x))
    | (extract_lets -underBinder -merge +onlyGivenNames x; guard_hyp x : SecSt)
    | (extract_lets -underBinder -merge +onlyGivenNames x; clear_value x)
    | with_reducible refine ite_keeps ?_ ?_
    | with_reducible apply State.readMember_keeps
    | with_reducible apply State.modMeta_keeps
    | with_reducible apply State.pageRaise_keeps
    | with_reducible refine foldl_keeps ?_ (fun _ _ _ => ?_)
    | split
    | (fail_if_no_progress (with_reducible apply Keeps.lit <;> try exact rfl))
    | with_reducible refine snd_ite_keeps ?_ ?_
    | with_reducible refine snd_mk_keeps ?_
    | with_reducible refine pair_keeps (by assumption) ?_
    | intro _
    | beta_reduce

theorem State.metaFetch_keeps {st0 : Inv} {s : State} (h : Keeps st0 s) {ctb : Bool} {key : Nat} :
    Keeps st0 (State.metaFetch s ctb key) := by
  unfold State.metaFetch
  repeat' first
    | with_reducible assumption
    | (extract_lets -underBinder -merge +onlyGivenNames x; refine keepCut (r := st0) (x := x) ?_ (fun hx => ?_); (on_goal 1 => (unfold x; clear x)); (on_goal 2 => clear_value x))
    | (extract_lets -underBinder -merge +onlyGivenNames x; guard_hyp x : SecSt)
    | (extract_lets -underBinder -merge +onlyGivenNames x; clear_value x)
    | with_reducible refine ite_keeps ?_ ?_
    | with_reducible apply State.bump_keeps
    | with_reducible apply State.sendPeer_keeps
    | with_reducible apply State.modMeta_keeps
    | with_reducible apply State.metaRead_keeps
    | split
    | (fail_if_no_progress (with_reducible apply Keeps.lit <;> try exact rfl))
    | with_reducible refine snd_ite_keeps ?_ ?_
    | with_reducible refine snd_mk_keeps ?_
    | with_reducible refine pair_keeps (by assumption) ?_
    | intro _
    | beta_reduce

theorem State.metaNeed_keeps {st0 : Inv} {s : State} (h : Keeps st0 s) {ctb : Bool} {key : Nat} :
    Keeps st0 (State.metaNeed s ctb key) := by
  unfold State.metaNeed
  repeat' first
    | with_reducible assumption
    | (extract_lets -underBinder -merge +onlyGivenNames x; refine keepCut (r := st0) (x := x) ?_ (fun hx => ?_); (on_goal 1 => (unfold x; clear x)); (on_goal 2 => clear_value x))
    | (extract_lets -underBinder -merge +onlyGivenNames x; guard_hyp x : SecSt)
    | (extract_lets -underBinder -merge +onlyGivenNames x; clear_value x)
    | with_reducible refine ite_keeps ?_ ?_
    | with_reducible apply State.modRead_keeps
    | with_reducible apply State.bump_keeps
    | with_reducible apply State.metaFetch_keeps
    | with_reducible apply State.pageRaise_keeps
    | with_reducible apply State.leafUse_keeps
    | split
    | (fail_if_no_progress (with_reducible apply Keeps.lit <;> try exact rfl))
    | with_reducible refine snd_ite_keeps ?_ ?_
    | with_reducible refine snd_mk_keeps ?_
    | with_reducible refine pair_keeps (by assumption) ?_
    | intro _
    | beta_reduce

theorem State.refetch_keeps {st0 : Inv} {s : State} (h : Keeps st0 s) {ctb : Bool} {key : Nat} :
    Keeps st0 (State.refetch s ctb key) := by
  unfold State.refetch
  repeat' first
    | with_reducible assumption
    | (extract_lets -underBinder -merge +onlyGivenNames x; refine keepCut (r := st0) (x := x) ?_ (fun hx => ?_); (on_goal 1 => (unfold x; clear x)); (on_goal 2 => clear_value x))
    | (extract_lets -underBinder -merge +onlyGivenNames x; guard_hyp x : SecSt)
    | (extract_lets -underBinder -merge +onlyGivenNames x; clear_value x)
    | with_reducible refine ite_keeps ?_ ?_
    | with_reducible apply State.bump_keeps
    | with_reducible apply State.modMeta_keeps
    | with_reducible apply State.metaFetch_keeps
    | split
    | (fail_if_no_progress (with_reducible apply Keeps.lit <;> try exact rfl))
    | with_reducible refine snd_ite_keeps ?_ ?_
    | with_reducible refine snd_mk_keeps ?_
    | with_reducible refine pair_keeps (by assumption) ?_
    | intro _
    | beta_reduce

theorem State.badCheck_keeps {st0 : Inv} {s : State} (h : Keeps st0 s) {r : Req} {bad : List Nat} {pages : List (Nat × Nat)} :
    OptK st0 (State.badCheck s r bad pages) := by
  unfold State.badCheck
  repeat' first
    | with_reducible assumption
    | (extract_lets -underBinder -merge +onlyGivenNames x; refine keepCut (r := st0) (x := x) ?_ (fun hx => ?_); (on_goal 1 => (unfold x; clear x)); (on_goal 2 => clear_value x))
    | with_reducible exact OptK.none
    | with_reducible refine OptK.some ?_
    | with_reducible refine OptK.ite ?_ ?_
    | with_reducible apply State.raise_keeps
    | with_reducible apply State.bump_keeps
    | with_reducible apply State.modMeta_keeps
    | with_reducible apply State.goSlow_keeps
    | with_reducible apply State.refetch_keeps
    | split
    | beta_reduce

theorem State.resolveChunks_keeps {st0 : Inv} {s : State} (h : Keeps st0 s) {r : Req} {srcs : List (Nat × Source)} :
    Keeps st0 (State.resolveChunks s r srcs) := by
  unfold State.resolveChunks
  repeat' first
    | with_reducible assumption
    | (extract_lets -underBinder -merge +onlyGivenNames x; refine keepCut (r := st0) (x := x) ?_ (fun hx => ?_); (on_goal 1 => (unfold x; clear x)); (on_goal 2 => clear_value x))
    | (extract_lets -underBinder -merge +onlyGivenNames x; guard_hyp x : SecSt)
    | (extract_lets -underBinder -merge +onlyGivenNames x; clear_value x)
    | with_reducible refine ite_keeps ?_ ?_
    | with_reducible apply State.pinNote_keeps
    | with_reducible apply State.bump_keeps
    | with_reducible apply State.raise_keeps
    | with_reducible apply State.modReq_keeps
    | with_reducible apply State.prefetch_keeps
    | with_reducible apply State.metaNeed_keeps
    | with_reducible apply State.readFail_keeps
    | with_reducible apply State.goSlow_keeps
    | with_reducible refine foldl_keeps ?_ (fun _ _ _ => ?_)
    | split
    | (fail_if_no_progress (with_reducible apply Keeps.lit <;> try exact rfl))
    | with_reducible refine snd_ite_keeps ?_ ?_
    | with_reducible refine snd_mk_keeps ?_
    | with_reducible refine pair_keeps (by assumption) ?_
    | intro _
    | beta_reduce

theorem State.resolve_keeps {st0 : Inv} {s : State} (h : Keeps st0 s) {tag : Nat} {bad : List Nat} :
    Keeps st0 (State.resolve s tag bad) := by
  unfold State.resolve
  repeat' first
    | with_reducible assumption
    | (extract_lets -underBinder -merge +onlyGivenNames x; refine keepCut (r := st0) (x := x) ?_ (fun hx => ?_); (on_goal 1 => (unfold x; clear x)); (on_goal 2 => clear_value x))
    | (extract_lets -underBinder -merge +onlyGivenNames x; guard_hyp x : SecSt)
    | (extract_lets -underBinder -merge +onlyGivenNames x; clear_value x)
    | with_reducible refine ite_keeps ?_ ?_
    | with_reducible apply State.bump_keeps
    | with_reducible apply State.modReq_keeps
    | with_reducible apply State.metaNeed_keeps
    | with_reducible apply State.goSlow_keeps
    | refine State.badCheck_keeps ?_ _ (by assumption)
    | with_reducible apply State.resolveChunks_keeps
    | with_reducible refine foldl_keeps ?_ (fun _ _ _ => ?_)
    | split
    | (fail_if_no_progress (with_reducible apply Keeps.lit <;> try exact rfl))
    | with_reducible refine snd_ite_keeps ?_ ?_
    | with_reducible refine snd_mk_keeps ?_
    | with_reducible refine pair_keeps (by assumption) ?_
    | intro _
    | beta_reduce

theorem State.wakeHeld_keeps {st0 : Inv} {s : State} (h : Keeps st0 s)  :
    Keeps st0 (State.wakeHeld s) := by
  unfold State.wakeHeld
  repeat' first
    | with_reducible assumption
    | with_reducible refine ite_keeps ?_ ?_
    | with_reducible apply State.modReq_keeps
    | with_reducible apply State.resolve_keeps
    | with_reducible refine foldl_keeps ?_ (fun _ _ _ => ?_)
    | split
    | (fail_if_no_progress (with_reducible apply Keeps.lit <;> try exact rfl))
    | with_reducible refine snd_ite_keeps ?_ ?_
    | with_reducible refine snd_mk_keeps ?_
    | with_reducible refine pair_keeps (by assumption) ?_
    | intro _
    | beta_reduce

theorem execReadCommand_keeps {st0 : Inv} {s : State} (h : Keeps st0 s) {tag : Nat} {words : List (Nat × Nat)} :
    ResKeeps st0 (execReadCommand tag words s) := by
  unfold execReadCommand
  try with_reducible refine ResKeeps.next ?_
  repeat' first
    | with_reducible assumption
    | with_reducible refine ite_keeps ?_ ?_
    | with_reducible refine ResKeeps.next ?_
    | with_reducible apply State.resolve_keeps
    | with_reducible apply State.wakeHeld_keeps
    | split
    | (fail_if_no_progress (with_reducible apply Keeps.lit <;> try exact rfl))
    | with_reducible refine snd_ite_keeps ?_ ?_
    | with_reducible refine snd_mk_keeps ?_
    | with_reducible refine pair_keeps (by assumption) ?_
    | intro _
    | beta_reduce

theorem State.metaEvict_keeps {st0 : Inv} {s : State} (h : Keeps st0 s) {ctb : Bool} :
    Keeps st0 (State.metaEvict s ctb) := by
  unfold State.metaEvict
  repeat' first
    | with_reducible assumption
    | (extract_lets -underBinder -merge +onlyGivenNames x; refine keepCut (r := st0) (x := x) ?_ (fun hx => ?_); (on_goal 1 => (unfold x; clear x)); (on_goal 2 => clear_value x))
    | (extract_lets -underBinder -merge +onlyGivenNames x; guard_hyp x : SecSt)
    | (extract_lets -underBinder -merge +onlyGivenNames x; clear_value x)
    | with_reducible refine ite_keeps ?_ ?_
    | with_reducible apply State.bump_keeps
    | with_reducible apply State.modMeta_keeps
    | split
    | (fail_if_no_progress (with_reducible apply Keeps.lit <;> try exact rfl))
    | with_reducible refine snd_ite_keeps ?_ ?_
    | with_reducible refine snd_mk_keeps ?_
    | with_reducible refine pair_keeps (by assumption) ?_
    | intro _
    | beta_reduce

theorem State.metaNext_keeps {st0 : Inv} {s : State} (h : Keeps st0 s) {ctb : Bool}  :
    Keeps st0 (State.metaNext s ctb) := by
  unfold State.metaNext
  repeat' first
    | with_reducible assumption
    | with_reducible apply State.metaFetch_keeps
    | split

theorem State.resolveWaiting_keeps {st0 : Inv} {s : State} (h : Keeps st0 s) {bad : List Nat}  :
    Keeps st0 (State.resolveWaiting s bad) := by
  unfold State.resolveWaiting
  repeat' first
    | with_reducible assumption
    | with_reducible apply State.resolve_keeps
    | with_reducible refine foldl_keeps ?_ (fun _ _ _ => ?_)

theorem State.metaHere_keeps {st0 : Inv} {s : State} (h : Keeps st0 s) {ctb : Bool} {key : Nat} {bad : List Nat} :
    Keeps st0 (State.metaHere s ctb key bad) := by
  unfold State.metaHere
  repeat' first
    | with_reducible assumption
    | (extract_lets -underBinder -merge +onlyGivenNames x; refine keepCut (r := st0) (x := x) ?_ (fun hx => ?_); (on_goal 1 => (unfold x; clear x)); (on_goal 2 => clear_value x))
    | (extract_lets -underBinder -merge +onlyGivenNames x; guard_hyp x : SecSt)
    | (extract_lets -underBinder -merge +onlyGivenNames x; clear_value x)
    | with_reducible refine ite_keeps ?_ ?_
    | with_reducible apply State.set_keeps
    | with_reducible apply State.modMeta_keeps
    | with_reducible apply State.metaEvict_keeps
    | with_reducible apply State.metaNext_keeps
    | with_reducible apply State.resolveWaiting_keeps
    | split
    | (fail_if_no_progress (with_reducible apply Keeps.lit <;> try exact rfl))
    | with_reducible refine snd_ite_keeps ?_ ?_
    | with_reducible refine snd_mk_keeps ?_
    | with_reducible refine pair_keeps (by assumption) ?_
    | intro _
    | beta_reduce

theorem State.metaDone_keeps {st0 : Inv} {s : State} (h : Keeps st0 s) {ctb : Bool} {key : Nat} {ok : Bool} {bad : List Nat} :
    Keeps st0 (State.metaDone s ctb key ok bad) := by
  unfold State.metaDone
  repeat' first
    | with_reducible assumption
    | with_reducible refine ite_keeps ?_ ?_
    | with_reducible apply State.raise_keeps
    | with_reducible apply State.modMeta_keeps
    | with_reducible apply State.metaRead_keeps
    | with_reducible apply State.metaNext_keeps
    | with_reducible apply State.resolveWaiting_keeps
    | with_reducible apply State.metaHere_keeps
    | split
    | (fail_if_no_progress (with_reducible apply Keeps.lit <;> try exact rfl))
    | with_reducible refine snd_ite_keeps ?_ ?_
    | with_reducible refine snd_mk_keeps ?_
    | with_reducible refine pair_keeps (by assumption) ?_
    | intro _
    | beta_reduce

theorem execMapPageFetchDone_keeps {st0 : Inv} {s : State} (h : Keeps st0 s) {page : Nat} {ok : Bool} {words : List (Nat × Nat)} :
    ResKeeps st0 (execMapPageFetchDone page ok words s) := by
  unfold execMapPageFetchDone
  try with_reducible refine ResKeeps.next ?_
  repeat' first
    | with_reducible assumption
    | with_reducible refine ResKeeps.next ?_
    | with_reducible apply State.metaDone_keeps
    | split
    | (fail_if_no_progress (with_reducible apply Keeps.lit <;> try exact rfl))
    | with_reducible refine snd_ite_keeps ?_ ?_
    | with_reducible refine snd_mk_keeps ?_
    | with_reducible refine pair_keeps (by assumption) ?_
    | intro _
    | beta_reduce

theorem execCtbPageFetchDone_keeps {st0 : Inv} {s : State} (h : Keeps st0 s) {page : Nat} {ok : Bool}  :
    ResKeeps st0 (execCtbPageFetchDone page ok s) := by
  unfold execCtbPageFetchDone
  try with_reducible refine ResKeeps.next ?_
  repeat' first
    | with_reducible assumption
    | with_reducible apply State.metaDone_keeps

theorem execPeerPageReqRx_keeps {st0 : Inv} {s : State} (h : Keeps st0 s) {ctb : Bool} {key : Nat} :
    ResKeeps st0 (execPeerPageReqRx ctb key s) := by
  unfold execPeerPageReqRx
  try with_reducible refine ResKeeps.next ?_
  repeat' first
    | with_reducible assumption
    | with_reducible refine ite_keeps ?_ ?_
    | with_reducible refine ResKeeps.next ?_
    | with_reducible apply State.sendPeer_keeps
    | split
    | (fail_if_no_progress (with_reducible apply Keeps.lit <;> try exact rfl))
    | with_reducible refine snd_ite_keeps ?_ ?_
    | with_reducible refine snd_mk_keeps ?_
    | with_reducible refine pair_keeps (by assumption) ?_
    | intro _
    | beta_reduce

theorem State.mapCame_keeps {st0 : Inv} {s : State} (h : Keeps st0 s) {key : Nat} {stamp : Nat} {maps : List (Nat × MapEnt)} :
    Keeps st0 (State.mapCame s key stamp maps) := by
  unfold State.mapCame
  repeat' first
    | with_reducible assumption
    | (extract_lets -underBinder -merge +onlyGivenNames x; refine keepCut (r := st0) (x := x) ?_ (fun hx => ?_); (on_goal 1 => (unfold x; clear x)); (on_goal 2 => clear_value x))
    | (extract_lets -underBinder -merge +onlyGivenNames x; guard_hyp x : SecSt)
    | (extract_lets -underBinder -merge +onlyGivenNames x; clear_value x)
    | with_reducible refine ite_keeps ?_ ?_
    | with_reducible apply State.modRead_keeps
    | with_reducible refine foldl_keeps ?_ (fun _ _ _ => ?_)
    | split
    | (fail_if_no_progress (with_reducible apply Keeps.lit <;> try exact rfl))
    | with_reducible refine snd_ite_keeps ?_ ?_
    | with_reducible refine snd_mk_keeps ?_
    | with_reducible refine pair_keeps (by assumption) ?_
    | intro _
    | beta_reduce

theorem State.ctbCame_keeps {st0 : Inv} {s : State} (h : Keeps st0 s) {stamp : Nat} {chunks : List (Nat × CtbEnt)} :
    Keeps st0 (State.ctbCame s stamp chunks) := by
  unfold State.ctbCame
  repeat' first
    | with_reducible assumption
    | (extract_lets -underBinder -merge +onlyGivenNames x; refine keepCut (r := st0) (x := x) ?_ (fun hx => ?_); (on_goal 1 => (unfold x; clear x)); (on_goal 2 => clear_value x))
    | (extract_lets -underBinder -merge +onlyGivenNames x; guard_hyp x : SecSt)
    | (extract_lets -underBinder -merge +onlyGivenNames x; clear_value x)
    | with_reducible refine ite_keeps ?_ ?_
    | with_reducible apply State.modRead_keeps
    | with_reducible refine foldl_keeps ?_ (fun _ _ _ => ?_)
    | split
    | (fail_if_no_progress (with_reducible apply Keeps.lit <;> try exact rfl))
    | with_reducible refine snd_ite_keeps ?_ ?_
    | with_reducible refine snd_mk_keeps ?_
    | with_reducible refine pair_keeps (by assumption) ?_
    | intro _
    | beta_reduce

theorem execPeerPageDataRx_keeps {st0 : Inv} {s : State} (h : Keeps st0 s) {ctb : Bool} {key : Nat} {held : Bool} {stamp : Nat} {maps : List (Nat × MapEnt)} {chunks : List (Nat × CtbEnt)} :
    ResKeeps st0 (execPeerPageDataRx ctb key held stamp maps chunks s) := by
  unfold execPeerPageDataRx
  try with_reducible refine ResKeeps.next ?_
  repeat' first
    | with_reducible assumption
    | (extract_lets -underBinder -merge +onlyGivenNames x; refine keepCut (r := st0) (x := x) ?_ (fun hx => ?_); (on_goal 1 => (unfold x; clear x)); (on_goal 2 => clear_value x))
    | (extract_lets -underBinder -merge +onlyGivenNames x; guard_hyp x : SecSt)
    | (extract_lets -underBinder -merge +onlyGivenNames x; clear_value x)
    | with_reducible refine ite_keeps ?_ ?_
    | with_reducible refine ResKeeps.next ?_
    | with_reducible apply State.modMeta_keeps
    | with_reducible apply State.metaRead_keeps
    | with_reducible apply State.resolveWaiting_keeps
    | with_reducible apply State.metaHere_keeps
    | with_reducible apply State.mapCame_keeps
    | with_reducible apply State.ctbCame_keeps
    | split
    | (fail_if_no_progress (with_reducible apply Keeps.lit <;> try exact rfl))
    | with_reducible refine snd_ite_keeps ?_ ?_
    | with_reducible refine snd_mk_keeps ?_
    | with_reducible refine pair_keeps (by assumption) ?_
    | intro _
    | beta_reduce

theorem execRdpSlowQRead_keeps {st0 : Inv} {s : State} (h : Keeps st0 s) {m : Nat}  :
    ResKeeps st0 (execRdpSlowQRead m s) := by
  unfold execRdpSlowQRead
  try with_reducible refine ResKeeps.next ?_
  repeat' first
    | with_reducible assumption
    | with_reducible refine State.busRd_keeps ?_ (fun _ _ => ?_)
    | with_reducible apply State.answer_keeps
    | with_reducible apply State.modRead_keeps
    | with_reducible apply State.set_keeps
    | with_reducible apply State.slowIrq_keeps
    | split

theorem State.rdpResume_keeps {st0 : Inv} {s : State} (h : Keeps st0 s) {action : Nat} {tag : Nat}  :
    Keeps st0 (State.rdpResume s action tag) := by
  unfold State.rdpResume
  repeat' first
    | with_reducible assumption
    | (extract_lets -underBinder -merge +onlyGivenNames x; refine keepCut (r := st0) (x := x) ?_ (fun hx => ?_); (on_goal 1 => (unfold x; clear x)); (on_goal 2 => clear_value x))
    | (extract_lets -underBinder -merge +onlyGivenNames x; clear_value x)
    | with_reducible apply State.raise_keeps
    | with_reducible apply State.modRead_keeps
    | with_reducible apply State.slowIrq_keeps
    | with_reducible apply State.modReq_keeps
    | with_reducible apply State.resolve_keeps
    | with_reducible apply State.readFail_keeps
    | with_reducible apply State.wakeHeld_keeps
    | split

theorem resumeBus_keeps {st0 : Inv} {s : State} (h : Keeps st0 s) {m : Nat} {action : Nat} {tag : Nat}  :
    ResKeeps st0 (resumeBus m action tag s) := by
  unfold resumeBus
  try with_reducible refine ResKeeps.next ?_
  repeat' first
    | with_reducible assumption
    | with_reducible refine State.busWr_keeps ?_ (fun _ _ => ?_)
    | with_reducible apply State.rdpResume_keeps

theorem execRdpResumeRetry_keeps {st0 : Inv} {s : State} (h : Keeps st0 s) {m : Nat} {tag : Nat}  :
    ResKeeps st0 (execRdpResumeRetry m tag s) := by
  unfold execRdpResumeRetry
  try with_reducible refine ResKeeps.next ?_
  repeat' first
    | with_reducible assumption
    | with_reducible apply resumeBus_keeps

theorem execRdpResumeFailMedia_keeps {st0 : Inv} {s : State} (h : Keeps st0 s) {m : Nat} {tag : Nat}  :
    ResKeeps st0 (execRdpResumeFailMedia m tag s) := by
  unfold execRdpResumeFailMedia
  try with_reducible refine ResKeeps.next ?_
  repeat' first
    | with_reducible assumption
    | with_reducible apply resumeBus_keeps

theorem execRdpResumeFailKey_keeps {st0 : Inv} {s : State} (h : Keeps st0 s) {m : Nat} {tag : Nat}  :
    ResKeeps st0 (execRdpResumeFailKey m tag s) := by
  unfold execRdpResumeFailKey
  try with_reducible refine ResKeeps.next ?_
  repeat' first
    | with_reducible assumption
    | with_reducible apply resumeBus_keeps

theorem execRdpResumeFailInternal_keeps {st0 : Inv} {s : State} (h : Keeps st0 s) {m : Nat} {tag : Nat}  :
    ResKeeps st0 (execRdpResumeFailInternal m tag s) := by
  unfold execRdpResumeFailInternal
  try with_reducible refine ResKeeps.next ?_
  repeat' first
    | with_reducible assumption
    | with_reducible apply resumeBus_keeps

theorem execReadSlowTimeout_keeps {st0 : Inv} {s : State} (h : Keeps st0 s) {tag : Nat}  :
    ResKeeps st0 (execReadSlowTimeout tag s) := by
  unfold execReadSlowTimeout
  try with_reducible refine ResKeeps.next ?_
  repeat' first
    | with_reducible assumption
    | (extract_lets -underBinder -merge +onlyGivenNames x; clear_value x)
    | with_reducible apply State.modRead_keeps
    | with_reducible apply State.slowIrq_keeps
    | with_reducible apply State.readFail_keeps
    | with_reducible apply State.wakeHeld_keeps
    | split

theorem State.mapPass_keeps {st0 : Inv} {s : State} (h : Keeps st0 s) {v : Option Nat} :
    Keeps st0 (State.mapPass s v) := by
  unfold State.mapPass
  repeat' first
    | with_reducible assumption
    | (extract_lets -underBinder -merge +onlyGivenNames x; refine keepCut (r := st0) (x := x) ?_ (fun hx => ?_); (on_goal 1 => (unfold x; clear x)); (on_goal 2 => clear_value x))
    | (extract_lets -underBinder -merge +onlyGivenNames x; guard_hyp x : SecSt)
    | (extract_lets -underBinder -merge +onlyGivenNames x; clear_value x)
    | with_reducible refine ite_keeps ?_ ?_
    | with_reducible apply State.modRead_keeps
    | with_reducible apply State.bump_keeps
    | split
    | (fail_if_no_progress (with_reducible apply Keeps.lit <;> try exact rfl))
    | with_reducible refine snd_ite_keeps ?_ ?_
    | with_reducible refine snd_mk_keeps ?_
    | with_reducible refine pair_keeps (by assumption) ?_
    | intro _
    | beta_reduce

theorem State.mapInvalWrite_keeps {st0 : Inv} {s : State} (h : Keeps st0 s) {vol : Nat} {all : Bool}  :
    Keeps st0 (State.mapInvalWrite s vol all) := by
  unfold State.mapInvalWrite
  repeat' first
    | with_reducible assumption
    | with_reducible refine ite_keeps ?_ ?_
    | with_reducible apply State.raise_keeps
    | with_reducible apply State.modRead_keeps
    | with_reducible apply State.set_keeps
    | with_reducible apply State.mapPass_keeps

theorem execMapInval_keeps {st0 : Inv} {s : State} (h : Keeps st0 s) {m : Nat} {vol : Nat} {all : Bool}  :
    ResKeeps st0 (execMapInval m vol all s) := by
  unfold execMapInval
  try with_reducible refine ResKeeps.next ?_
  repeat' first
    | with_reducible assumption
    | with_reducible refine State.busWr_keeps ?_ (fun _ _ => ?_)
    | with_reducible apply State.mapInvalWrite_keeps

theorem execMapInvalDone_keeps {st0 : Inv} {s : State} (h : Keeps st0 s)  :
    ResKeeps st0 (execMapInvalDone s) := by
  unfold execMapInvalDone
  try with_reducible refine ResKeeps.next ?_
  repeat' first
    | with_reducible assumption
    | (extract_lets -underBinder -merge +onlyGivenNames x; refine keepCut (r := st0) (x := x) ?_ (fun hx => ?_); (on_goal 1 => (unfold x; clear x)); (on_goal 2 => clear_value x))
    | (extract_lets -underBinder -merge +onlyGivenNames x; guard_hyp x : SecSt)
    | (extract_lets -underBinder -merge +onlyGivenNames x; clear_value x)
    | with_reducible refine ite_keeps ?_ ?_
    | with_reducible refine ResKeeps.next ?_
    | with_reducible apply State.modRead_keeps
    | with_reducible apply State.set_keeps
    | with_reducible apply State.irq_keeps
    | with_reducible apply State.mapPass_keeps
    | split
    | (fail_if_no_progress (with_reducible apply Keeps.lit <;> try exact rfl))
    | with_reducible refine snd_ite_keeps ?_ ?_
    | with_reducible refine snd_mk_keeps ?_
    | with_reducible refine pair_keeps (by assumption) ?_
    | intro _
    | beta_reduce

end Sys2Proof.Machine
end

