-- ==== Sys2Proof/Laws/KeepsFetch.lean ====
section
/-! SUPPORT. The operations and commands of Machine/Fetch.lean keep what a state is asked (Laws/Keeps.lean). -/

set_option linter.all false

namespace Sys2Proof.Machine

theorem State.rchSweep_keeps {st0 : Inv} {s : State} (h : Keeps st0 s) {a0 : Nat} :
    Keeps st0 (State.rchSweep a0 s) := by
  induction a0 generalizing s with
  | zero =>
    unfold State.rchSweep
    repeat' first
      | with_reducible assumption
  | succ n ih =>
    unfold State.rchSweep
    repeat' first
      | with_reducible assumption
      | (extract_lets -underBinder -merge +onlyGivenNames x; refine keepCut (r := st0) (x := x) ?_ (fun hx => ?_); (on_goal 1 => (unfold x; clear x)); (on_goal 2 => clear_value x))
      | with_reducible apply State.modRead_keeps
      | with_reducible apply State.bump_keeps
      | with_reducible apply ih
      | split

theorem State.rchRoom_keeps {st0 : Inv} {s : State} (h : Keeps st0 s) {a0 : Nat} {a1 : Nat} :
    Keeps st0 (State.rchRoom a0 a1 s) := by
  induction a0 generalizing a1 s with
  | zero =>
    unfold State.rchRoom
    repeat' first
      | with_reducible assumption
  | succ n ih =>
    unfold State.rchRoom
    repeat' first
      | with_reducible assumption
      | with_reducible refine ite_keeps ?_ ?_
      | with_reducible apply State.rchSweep_keeps
      | with_reducible apply ih

theorem State.rchInsert_keeps {st0 : Inv} {s : State} (h : Keeps st0 s) {cid : Nat} {units : Nat} {vat : Nat} {pfx : Bool}  :
    Keeps st0 (State.rchInsert s cid units vat pfx) := by
  unfold State.rchInsert
  repeat' first
    | with_reducible assumption
    | with_reducible refine ite_keeps ?_ ?_
    | with_reducible apply State.rchRoom_keeps
    | with_reducible apply State.modRead_keeps
    | with_reducible apply State.bump_keeps

theorem State.rchHit_keeps {st0 : Inv} {s : State} (h : Keeps st0 s) {cid : Nat} {e : RchEnt}  :
    Keeps st0 (State.rchHit s cid e) := by
  unfold State.rchHit
  repeat' first
    | with_reducible assumption
    | with_reducible refine ite_keeps ?_ ?_
    | with_reducible apply State.modRead_keeps
    | with_reducible apply State.bump_keeps

theorem State.rchPass_keeps {st0 : Inv} {s : State} (h : Keeps st0 s) {v : Option Nat}  :
    Keeps st0 (State.rchPass s v) := by
  unfold State.rchPass
  repeat' first
    | with_reducible assumption
    | with_reducible apply State.modRead_keeps
    | with_reducible apply State.bump_keeps

theorem State.rchInvalWrite_keeps {st0 : Inv} {s : State} (h : Keeps st0 s) {vat : Nat} {all : Bool}  :
    Keeps st0 (State.rchInvalWrite s vat all) := by
  unfold State.rchInvalWrite
  repeat' first
    | with_reducible assumption
    | with_reducible refine ite_keeps ?_ ?_
    | with_reducible apply State.raise_keeps
    | with_reducible apply State.modRead_keeps
    | with_reducible apply State.set_keeps
    | with_reducible apply State.rchPass_keeps

theorem execRchInval_keeps {st0 : Inv} {s : State} (h : Keeps st0 s) {m : Nat} {vat : Nat} {all : Bool}  :
    ResKeeps st0 (execRchInval m vat all s) := by
  unfold execRchInval
  try with_reducible refine ResKeeps.next ?_
  repeat' first
    | with_reducible assumption
    | with_reducible refine State.busWr_keeps ?_ (fun _ _ => ?_)
    | with_reducible apply State.rchInvalWrite_keeps

theorem execRchInvalDone_keeps {st0 : Inv} {s : State} (h : Keeps st0 s)   :
    ResKeeps st0 (execRchInvalDone s) := by
  unfold execRchInvalDone
  try with_reducible refine ResKeeps.next ?_
  repeat' first
    | with_reducible assumption
    | (extract_lets -underBinder -merge +onlyGivenNames x; refine keepCut (r := st0) (x := x) ?_ (fun hx => ?_); (on_goal 1 => (unfold x; clear x)); (on_goal 2 => clear_value x))
    | with_reducible apply State.rchPass_keeps
    | with_reducible apply State.modRead_keeps
    | with_reducible apply State.set_keeps
    | with_reducible apply State.irq_keeps
    | split

theorem State.givePart_keeps {st0 : Inv} {s : State} (h : Keeps st0 s) {tag : Nat} {n : Nat} {k : Nat}  :
    Keeps st0 (State.givePart s tag n k) := by
  unfold State.givePart
  repeat' first
    | with_reducible assumption
    | with_reducible apply State.poolGive_keeps
    | with_reducible apply State.modReq_keeps
    | split

theorem State.takePart_keeps {st0 : Inv} {s : State} (h : Keeps st0 s) {tag : Nat} {n : Nat} {k : Nat} :
    Keeps st0 (State.takePart s tag n k) := by
  unfold State.takePart
  repeat' first
    | with_reducible assumption
    | with_reducible apply State.modReq_keeps
    | with_reducible apply State.poolTake_keeps
    | split
    | (fail_if_no_progress (with_reducible apply Keeps.lit <;> try exact rfl))
    | with_reducible refine snd_ite_keeps ?_ ?_
    | with_reducible refine snd_mk_keeps ?_
    | with_reducible refine pair_keeps (by assumption) ?_
    | intro _
    | beta_reduce

theorem State.addFetch_keeps {st0 : Inv} {s : State} (h : Keeps st0 s) {f : Fetch}  :
    Keeps st0 (State.addFetch s f).2 := by
  unfold State.addFetch
  repeat' first
    | with_reducible assumption
    | with_reducible apply State.modRead_keeps

theorem State.modFetch_keeps {st0 : Inv} {s : State} (h : Keeps st0 s) {id : Nat} {f : Fetch → Fetch}  :
    Keeps st0 (State.modFetch s id f) := by
  unfold State.modFetch
  repeat' first
    | with_reducible assumption
    | with_reducible apply State.modRead_keeps

theorem State.reconGo_keeps {st0 : Inv} {s : State} (h : Keeps st0 s) {r : Req} {id : Nat} {f : Fetch} :
    Keeps st0 (State.reconGo s r id f) := by
  unfold State.reconGo
  repeat' first
    | with_reducible assumption
    | (extract_lets -underBinder -merge +onlyGivenNames x; refine keepCut (r := st0) (x := x) ?_ (fun hx => ?_); (on_goal 1 => (unfold x; clear x)); (on_goal 2 => clear_value x))
    | (extract_lets -underBinder -merge +onlyGivenNames x; guard_hyp x : SecSt)
    | (extract_lets -underBinder -merge +onlyGivenNames x; clear_value x)
    | with_reducible apply State.reserveTake_keeps
    | with_reducible apply State.reserve_keeps
    | with_reducible apply State.modFetch_keeps
    | with_reducible apply State.readMember_keeps
    | with_reducible refine foldl_keeps ?_ (fun _ _ _ => ?_)
    | split
    | (fail_if_no_progress (with_reducible apply Keeps.lit <;> try exact rfl))
    | with_reducible refine snd_ite_keeps ?_ ?_
    | with_reducible refine snd_mk_keeps ?_
    | with_reducible refine pair_keeps (by assumption) ?_
    | intro _
    | beta_reduce

theorem State.startRecon_keeps {st0 : Inv} {s : State} (h : Keeps st0 s) {r : Req} {cid : Nat} {k : Nat} {row : Nat} {u : Nat} {n : Nat} {mode : FetchMode} {now : Bool} :
    Keeps st0 (State.startRecon s r cid k row u n mode now) := by
  unfold State.startRecon
  repeat' first
    | with_reducible assumption
    | (extract_lets -underBinder -merge +onlyGivenNames x; refine keepCut (r := st0) (x := x) ?_ (fun hx => ?_); (on_goal 1 => (unfold x; clear x)); (on_goal 2 => clear_value x))
    | (extract_lets -underBinder -merge +onlyGivenNames x; guard_hyp x : SecSt)
    | (extract_lets -underBinder -merge +onlyGivenNames x; clear_value x)
    | with_reducible refine ite_keeps ?_ ?_
    | with_reducible apply State.addFetch_keeps
    | with_reducible apply State.reconGo_keeps
    | with_reducible apply State.modReq_keeps
    | split
    | (fail_if_no_progress (with_reducible apply Keeps.lit <;> try exact rfl))
    | with_reducible refine snd_ite_keeps ?_ ?_
    | with_reducible refine snd_mk_keeps ?_
    | with_reducible refine pair_keeps (by assumption) ?_
    | intro _
    | beta_reduce

theorem State.dropChunk_keeps {st0 : Inv} {s : State} (h : Keeps st0 s) {tag : Nat} {cid : Nat} :
    Keeps st0 (State.dropChunk s tag cid) := by
  unfold State.dropChunk
  repeat' first
    | with_reducible assumption
    | with_reducible apply State.unpin_keeps
    | with_reducible apply State.modReq_keeps
    | split
    | (fail_if_no_progress (with_reducible apply Keeps.lit <;> try exact rfl))
    | with_reducible refine snd_ite_keeps ?_ ?_
    | with_reducible refine snd_mk_keeps ?_
    | with_reducible refine pair_keeps (by assumption) ?_
    | intro _
    | beta_reduce

theorem State.pfxChunkDrop_keeps {st0 : Inv} {s : State} (h : Keeps st0 s) {tag : Nat} {cid : Nat} :
    Keeps st0 (State.pfxChunkDrop s tag cid) := by
  unfold State.pfxChunkDrop
  repeat' first
    | with_reducible assumption
    | (extract_lets -underBinder -merge +onlyGivenNames x; refine keepCut (r := st0) (x := x) ?_ (fun hx => ?_); (on_goal 1 => (unfold x; clear x)); (on_goal 2 => clear_value x))
    | (extract_lets -underBinder -merge +onlyGivenNames x; guard_hyp x : SecSt)
    | (extract_lets -underBinder -merge +onlyGivenNames x; clear_value x)
    | with_reducible refine ite_keeps ?_ ?_
    | with_reducible apply State.dropReq_keeps
    | with_reducible apply State.givePart_keeps
    | with_reducible apply State.modRead_keeps
    | with_reducible apply State.bump_keeps
    | with_reducible apply State.dropChunk_keeps
    | split
    | (fail_if_no_progress (with_reducible apply Keeps.lit <;> try exact rfl))
    | with_reducible refine snd_ite_keeps ?_ ?_
    | with_reducible refine snd_mk_keeps ?_
    | with_reducible refine pair_keeps (by assumption) ?_
    | intro _
    | beta_reduce

theorem State.startStrip_keeps {st0 : Inv} {s : State} (h : Keeps st0 s) {tag : Nat} {cid : Nat} {k : Nat} {u : Nat} {n : Nat} :
    Keeps st0 (State.startStrip s tag cid k u n) := by
  unfold State.startStrip
  repeat' first
    | with_reducible assumption
    | (extract_lets -underBinder -merge +onlyGivenNames x; refine keepCut (r := st0) (x := x) ?_ (fun hx => ?_); (on_goal 1 => (unfold x; clear x)); (on_goal 2 => clear_value x))
    | (extract_lets -underBinder -merge +onlyGivenNames x; guard_hyp x : SecSt)
    | (extract_lets -underBinder -merge +onlyGivenNames x; clear_value x)
    | with_reducible refine ite_keeps ?_ ?_
    | with_reducible apply State.addFetch_keeps
    | with_reducible apply State.startRecon_keeps
    | with_reducible apply State.pfxChunkDrop_keeps
    | with_reducible apply State.readMember_keeps
    | with_reducible apply State.modReq_keeps
    | with_reducible apply State.prefetch_keeps
    | with_reducible apply State.readFail_keeps
    | with_reducible apply State.wakeHeld_keeps
    | split
    | (fail_if_no_progress (with_reducible apply Keeps.lit <;> try exact rfl))
    | with_reducible refine snd_ite_keeps ?_ ?_
    | with_reducible refine snd_mk_keeps ?_
    | with_reducible refine pair_keeps (by assumption) ?_
    | intro _
    | beta_reduce

theorem State.startStrips_keeps {st0 : Inv} {s : State} (h : Keeps st0 s) {tag : Nat} {cid : Nat} {l : List (Nat × Nat × Nat)} :
    Keeps st0 (State.startStrips s tag cid l) := by
  unfold State.startStrips
  repeat' first
    | with_reducible assumption
    | with_reducible refine ite_keeps ?_ ?_
    | with_reducible apply State.stage_keeps
    | with_reducible apply State.startStrip_keeps
    | with_reducible refine foldl_keeps ?_ (fun _ _ _ => ?_)
    | split
    | (fail_if_no_progress (with_reducible apply Keeps.lit <;> try exact rfl))
    | with_reducible refine snd_ite_keeps ?_ ?_
    | with_reducible refine snd_mk_keeps ?_
    | with_reducible refine pair_keeps (by assumption) ?_
    | intro _
    | beta_reduce

theorem State.startChunk_keeps {st0 : Inv} {s : State} (h : Keeps st0 s) {tag : Nat} {cid : Nat} {useCache : Bool} :
    Keeps st0 (State.startChunk s tag cid useCache) := by
  unfold State.startChunk
  repeat' first
    | with_reducible assumption
    | (extract_lets -underBinder -merge +onlyGivenNames x; refine keepCut (r := st0) (x := x) ?_ (fun hx => ?_); (on_goal 1 => (unfold x; clear x)); (on_goal 2 => clear_value x))
    | (extract_lets -underBinder -merge +onlyGivenNames x; guard_hyp x : SecSt)
    | (extract_lets -underBinder -merge +onlyGivenNames x; clear_value x)
    | with_reducible refine ite_keeps ?_ ?_
    | with_reducible apply State.rchHit_keeps
    | with_reducible apply State.givePart_keeps
    | with_reducible apply State.addFetch_keeps
    | with_reducible apply State.startStrips_keeps
    | with_reducible apply State.bump_keeps
    | with_reducible apply State.modReq_keeps
    | split
    | (fail_if_no_progress (with_reducible apply Keeps.lit <;> try exact rfl))
    | with_reducible refine snd_ite_keeps ?_ ?_
    | with_reducible refine snd_mk_keeps ?_
    | with_reducible refine pair_keeps (by assumption) ?_
    | intro _
    | beta_reduce

theorem State.startPart_keeps {st0 : Inv} {s : State} (h : Keeps st0 s) {tag : Nat} :
    Keeps st0 (State.startPart s tag) := by
  unfold State.startPart
  repeat' first
    | with_reducible assumption
    | (extract_lets -underBinder -merge +onlyGivenNames x; refine keepCut (r := st0) (x := x) ?_ (fun hx => ?_); (on_goal 1 => (unfold x; clear x)); (on_goal 2 => clear_value x))
    | (extract_lets -underBinder -merge +onlyGivenNames x; guard_hyp x : SecSt)
    | (extract_lets -underBinder -merge +onlyGivenNames x; clear_value x)
    | with_reducible refine ite_keeps ?_ ?_
    | with_reducible apply State.rchHit_keeps
    | with_reducible apply State.givePart_keeps
    | with_reducible apply State.addFetch_keeps
    | with_reducible apply State.startChunk_keeps
    | with_reducible apply State.bump_keeps
    | with_reducible apply State.modReq_keeps
    | with_reducible apply State.dataPends_keeps
    | with_reducible refine foldl_keeps ?_ (fun _ _ _ => ?_)
    | split
    | (fail_if_no_progress (with_reducible apply Keeps.lit <;> try exact rfl))
    | with_reducible refine snd_ite_keeps ?_ ?_
    | with_reducible refine snd_mk_keeps ?_
    | with_reducible refine pair_keeps (by assumption) ?_
    | intro _
    | beta_reduce

theorem State.prefetchDone_keeps {st0 : Inv} {s : State} (h : Keeps st0 s) {tag : Nat} {cid : Nat} :
    Keeps st0 (State.prefetchDone s tag cid) := by
  unfold State.prefetchDone
  repeat' first
    | with_reducible assumption
    | (extract_lets -underBinder -merge +onlyGivenNames x; refine keepCut (r := st0) (x := x) ?_ (fun hx => ?_); (on_goal 1 => (unfold x; clear x)); (on_goal 2 => clear_value x))
    | (extract_lets -underBinder -merge +onlyGivenNames x; guard_hyp x : SecSt)
    | (extract_lets -underBinder -merge +onlyGivenNames x; clear_value x)
    | with_reducible refine ite_keeps ?_ ?_
    | with_reducible apply State.sampleDone_keeps
    | with_reducible apply State.dropReq_keeps
    | with_reducible apply State.rchInsert_keeps
    | with_reducible apply State.givePart_keeps
    | with_reducible apply State.modRead_keeps
    | with_reducible apply State.dropChunk_keeps
    | split
    | (fail_if_no_progress (with_reducible apply Keeps.lit <;> try exact rfl))
    | with_reducible refine snd_ite_keeps ?_ ?_
    | with_reducible refine snd_mk_keeps ?_
    | with_reducible refine pair_keeps (by assumption) ?_
    | intro _
    | beta_reduce

theorem State.fetchUnits_keeps {st0 : Inv} {s : State} (h : Keeps st0 s) {f : Fetch} :
    Keeps st0 (State.fetchUnits s f) := by
  unfold State.fetchUnits
  repeat' first
    | with_reducible assumption
    | with_reducible refine ite_keeps ?_ ?_
    | with_reducible apply State.reserveGive_keeps
    | with_reducible apply State.reserve_keeps
    | with_reducible apply State.givePart_keeps
    | split
    | (fail_if_no_progress (with_reducible apply Keeps.lit <;> try exact rfl))
    | with_reducible refine snd_ite_keeps ?_ ?_
    | with_reducible refine snd_mk_keeps ?_
    | with_reducible refine pair_keeps (by assumption) ?_
    | intro _
    | beta_reduce

theorem State.rangeCame_keeps {st0 : Inv} {s : State} (h : Keeps st0 s) {id : Nat} {f : Fetch} :
    Keeps st0 (State.rangeCame s id f) := by
  unfold State.rangeCame
  repeat' first
    | with_reducible assumption
    | (extract_lets -underBinder -merge +onlyGivenNames x; refine keepCut (r := st0) (x := x) ?_ (fun hx => ?_); (on_goal 1 => (unfold x; clear x)); (on_goal 2 => clear_value x))
    | (extract_lets -underBinder -merge +onlyGivenNames x; guard_hyp x : SecSt)
    | (extract_lets -underBinder -merge +onlyGivenNames x; clear_value x)
    | with_reducible refine ite_keeps ?_ ?_
    | with_reducible apply State.reserve_keeps
    | with_reducible apply State.modFetch_keeps
    | with_reducible apply State.prefetchDone_keeps
    | with_reducible apply State.modRead_keeps
    | with_reducible apply State.bump_keeps
    | with_reducible apply State.fetchUnits_keeps
    | split
    | (fail_if_no_progress (with_reducible apply Keeps.lit <;> try exact rfl))
    | with_reducible refine snd_ite_keeps ?_ ?_
    | with_reducible refine snd_mk_keeps ?_
    | with_reducible refine pair_keeps (by assumption) ?_
    | intro _
    | beta_reduce

theorem State.rebuildGo_keeps {st0 : Inv} {s : State} (h : Keeps st0 s) {id : Nat} :
    Keeps st0 (State.rebuildGo s id) := by
  unfold State.rebuildGo
  repeat' first
    | with_reducible assumption
    | (extract_lets -underBinder -merge +onlyGivenNames x; refine keepCut (r := st0) (x := x) ?_ (fun hx => ?_); (on_goal 1 => (unfold x; clear x)); (on_goal 2 => clear_value x))
    | (extract_lets -underBinder -merge +onlyGivenNames x; guard_hyp x : SecSt)
    | (extract_lets -underBinder -merge +onlyGivenNames x; clear_value x)
    | with_reducible refine ite_keeps ?_ ?_
    | with_reducible apply State.segRun_keeps
    | with_reducible apply State.stage_keeps
    | with_reducible apply State.rangeCame_keeps
    | with_reducible apply State.bump_keeps
    | with_reducible apply State.raise_keeps
    | with_reducible apply State.readFail_keeps
    | with_reducible apply State.wakeHeld_keeps
    | split
    | (fail_if_no_progress (with_reducible apply Keeps.lit <;> try exact rfl))
    | with_reducible refine snd_ite_keeps ?_ ?_
    | with_reducible refine snd_mk_keeps ?_
    | with_reducible refine pair_keeps (by assumption) ?_
    | intro _
    | beta_reduce

theorem State.rebuildsGo_keeps {st0 : Inv} {s : State} (h : Keeps st0 s)  :
    Keeps st0 (State.rebuildsGo s) := by
  unfold State.rebuildsGo
  repeat' first
    | with_reducible assumption
    | with_reducible apply State.rebuildGo_keeps
    | with_reducible refine foldl_keeps ?_ (fun _ _ _ => ?_)
    | split
    | (fail_if_no_progress (with_reducible apply Keeps.lit <;> try exact rfl))
    | with_reducible refine snd_ite_keeps ?_ ?_
    | with_reducible refine snd_mk_keeps ?_
    | with_reducible refine pair_keeps (by assumption) ?_
    | intro _
    | beta_reduce

theorem State.fetchGot_keeps {st0 : Inv} {s : State} (h : Keeps st0 s) {id : Nat} :
    Keeps st0 (State.fetchGot s id) := by
  unfold State.fetchGot
  repeat' first
    | with_reducible assumption
    | with_reducible refine ite_keeps ?_ ?_
    | with_reducible apply State.modFetch_keeps
    | with_reducible apply State.modRead_keeps
    | with_reducible apply State.fetchUnits_keeps
    | with_reducible apply State.rangeCame_keeps
    | with_reducible apply State.rebuildGo_keeps
    | split
    | (fail_if_no_progress (with_reducible apply Keeps.lit <;> try exact rfl))
    | with_reducible refine snd_ite_keeps ?_ ?_
    | with_reducible refine snd_mk_keeps ?_
    | with_reducible refine pair_keeps (by assumption) ?_
    | intro _
    | beta_reduce

theorem State.fetchBad_keeps {st0 : Inv} {s : State} (h : Keeps st0 s) {id : Nat} {m : Member} :
    Keeps st0 (State.fetchBad s id m) := by
  unfold State.fetchBad
  repeat' first
    | with_reducible assumption
    | (extract_lets -underBinder -merge +onlyGivenNames x; refine keepCut (r := st0) (x := x) ?_ (fun hx => ?_); (on_goal 1 => (unfold x; clear x)); (on_goal 2 => clear_value x))
    | (extract_lets -underBinder -merge +onlyGivenNames x; guard_hyp x : SecSt)
    | (extract_lets -underBinder -merge +onlyGivenNames x; clear_value x)
    | with_reducible refine ite_keeps ?_ ?_
    | with_reducible apply State.reserveGive_keeps
    | with_reducible apply State.reserve_keeps
    | with_reducible apply State.startStrip_keeps
    | with_reducible apply State.modRead_keeps
    | with_reducible apply State.modReq_keeps
    | with_reducible apply State.pfxChunkDrop_keeps
    | split
    | (fail_if_no_progress (with_reducible apply Keeps.lit <;> try exact rfl))
    | with_reducible refine snd_ite_keeps ?_ ?_
    | with_reducible refine snd_mk_keeps ?_
    | with_reducible refine pair_keeps (by assumption) ?_
    | intro _
    | beta_reduce

theorem execReconstructStart_keeps {st0 : Inv} {s : State} (h : Keeps st0 s)  :
    ResKeeps st0 (execReconstructStart s) := by
  unfold execReconstructStart
  try with_reducible refine ResKeeps.next ?_
  repeat' first
    | with_reducible assumption
    | (extract_lets -underBinder -merge +onlyGivenNames x; refine keepCut (r := st0) (x := x) ?_ (fun hx => ?_); (on_goal 1 => (unfold x; clear x)); (on_goal 2 => clear_value x))
    | (extract_lets -underBinder -merge +onlyGivenNames x; guard_hyp x : SecSt)
    | (extract_lets -underBinder -merge +onlyGivenNames x; clear_value x)
    | with_reducible refine ite_keeps ?_ ?_
    | with_reducible refine ResKeeps.next ?_
    | with_reducible apply State.reconGo_keeps
    | with_reducible apply State.readFail_keeps
    | with_reducible apply State.wakeHeld_keeps
    | split
    | (fail_if_no_progress (with_reducible apply Keeps.lit <;> try exact rfl))
    | with_reducible refine snd_ite_keeps ?_ ?_
    | with_reducible refine snd_mk_keeps ?_
    | with_reducible refine pair_keeps (by assumption) ?_
    | intro _
    | beta_reduce

theorem execHedgeStart_keeps {st0 : Inv} {s : State} (h : Keeps st0 s) {fetch : Nat} :
    ResKeeps st0 (execHedgeStart fetch s) := by
  unfold execHedgeStart
  try with_reducible refine ResKeeps.next ?_
  repeat' first
    | with_reducible assumption
    | (extract_lets -underBinder -merge +onlyGivenNames x; refine keepCut (r := st0) (x := x) ?_ (fun hx => ?_); (on_goal 1 => (unfold x; clear x)); (on_goal 2 => clear_value x))
    | (extract_lets -underBinder -merge +onlyGivenNames x; guard_hyp x : SecSt)
    | (extract_lets -underBinder -merge +onlyGivenNames x; clear_value x)
    | with_reducible refine ite_keeps ?_ ?_
    | with_reducible refine ResKeeps.next ?_
    | with_reducible apply State.startRecon_keeps
    | with_reducible apply State.bump_keeps
    | split
    | (fail_if_no_progress (with_reducible apply Keeps.lit <;> try exact rfl))
    | with_reducible refine snd_ite_keeps ?_ ?_
    | with_reducible refine snd_mk_keeps ?_
    | with_reducible refine pair_keeps (by assumption) ?_
    | intro _
    | beta_reduce

theorem State.authFail_keeps {st0 : Inv} {s : State} (h : Keeps st0 s) {slice : Nat} {info : Nat}  :
    Keeps st0 (State.authFail s slice info) := by
  unfold State.authFail
  repeat' first
    | with_reducible assumption
    | with_reducible apply State.raise_keeps
    | with_reducible apply State.irq_keeps
    | with_reducible apply State.bump_keeps

theorem State.unstageRebuilt_keeps {st0 : Inv} {s : State} (h : Keeps st0 s) {i : Nat} {tag : Nat} {cid : Nat} :
    Keeps st0 (State.unstageRebuilt s i tag cid) := by
  unfold State.unstageRebuilt
  repeat' first
    | with_reducible assumption
    | with_reducible apply State.unstage_keeps
    | with_reducible refine foldl_keeps ?_ (fun _ _ _ => ?_)
    | split
    | (fail_if_no_progress (with_reducible apply Keeps.lit <;> try exact rfl))
    | with_reducible refine snd_ite_keeps ?_ ?_
    | with_reducible refine snd_mk_keeps ?_
    | with_reducible refine pair_keeps (by assumption) ?_
    | intro _
    | beta_reduce

theorem State.copyUsed_keeps {st0 : Inv} {s : State} (h : Keeps st0 s) {tag : Nat} {cid : Nat} :
    Keeps st0 (State.copyUsed s tag cid) := by
  unfold State.copyUsed
  repeat' first
    | with_reducible assumption
    | (extract_lets -underBinder -merge +onlyGivenNames x; refine keepCut (r := st0) (x := x) ?_ (fun hx => ?_); (on_goal 1 => (unfold x; clear x)); (on_goal 2 => clear_value x))
    | (extract_lets -underBinder -merge +onlyGivenNames x; guard_hyp x : SecSt)
    | (extract_lets -underBinder -merge +onlyGivenNames x; clear_value x)
    | with_reducible refine ite_keeps ?_ ?_
    | with_reducible apply State.givePart_keeps
    | with_reducible apply State.unstageRebuilt_keeps
    | with_reducible apply State.modRead_keeps
    | split
    | (fail_if_no_progress (with_reducible apply Keeps.lit <;> try exact rfl))
    | with_reducible refine snd_ite_keeps ?_ ?_
    | with_reducible refine snd_mk_keeps ?_
    | with_reducible refine pair_keeps (by assumption) ?_
    | intro _
    | beta_reduce

theorem State.cacheCopy_keeps {st0 : Inv} {s : State} (h : Keeps st0 s) {tag : Nat} {cid : Nat} {vat : Nat} :
    Keeps st0 (State.cacheCopy s tag cid vat) := by
  unfold State.cacheCopy
  repeat' first
    | with_reducible assumption
    | (extract_lets -underBinder -merge +onlyGivenNames x; refine keepCut (r := st0) (x := x) ?_ (fun hx => ?_); (on_goal 1 => (unfold x; clear x)); (on_goal 2 => clear_value x))
    | (extract_lets -underBinder -merge +onlyGivenNames x; guard_hyp x : SecSt)
    | (extract_lets -underBinder -merge +onlyGivenNames x; clear_value x)
    | with_reducible refine ite_keeps ?_ ?_
    | with_reducible apply State.rchInsert_keeps
    | split
    | (fail_if_no_progress (with_reducible apply Keeps.lit <;> try exact rfl))
    | with_reducible refine snd_ite_keeps ?_ ?_
    | with_reducible refine snd_mk_keeps ?_
    | with_reducible refine pair_keeps (by assumption) ?_
    | intro _
    | beta_reduce

theorem State.handOn_keeps {st0 : Inv} {s : State} (h : Keeps st0 s) {r : Req} {src : Source} {e : CtbEnt} :
    Keeps st0 (State.handOn s r src e) := by
  unfold State.handOn
  repeat' first
    | with_reducible assumption
    | (extract_lets -underBinder -merge +onlyGivenNames x; refine keepCut (r := st0) (x := x) ?_ (fun hx => ?_); (on_goal 1 => (unfold x; clear x)); (on_goal 2 => clear_value x))
    | (extract_lets -underBinder -merge +onlyGivenNames x; guard_hyp x : SecSt)
    | (extract_lets -underBinder -merge +onlyGivenNames x; clear_value x)
    | with_reducible refine ite_keeps ?_ ?_
    | with_reducible apply State.modReq_keeps
    | with_reducible apply State.readFail_keeps
    | with_reducible apply State.wakeHeld_keeps
    | with_reducible apply State.dataPends_keeps
    | split
    | (fail_if_no_progress (with_reducible apply Keeps.lit <;> try exact rfl))
    | with_reducible refine snd_ite_keeps ?_ ?_
    | with_reducible refine snd_mk_keeps ?_
    | with_reducible refine pair_keeps (by assumption) ?_
    | intro _
    | beta_reduce

theorem State.stageData_keeps {st0 : Inv} {s : State} (h : Keeps st0 s) {r : Req} {cid : Nat} {data : List Nat} :
    Keeps st0 (State.stageData s r cid data) := by
  unfold State.stageData
  repeat' first
    | with_reducible assumption
    | with_reducible apply State.stage_keeps
    | with_reducible apply State.unstage_keeps
    | split
    | (fail_if_no_progress (with_reducible apply Keeps.lit <;> try exact rfl))
    | with_reducible refine snd_ite_keeps ?_ ?_
    | with_reducible refine snd_mk_keeps ?_
    | with_reducible refine pair_keeps (by assumption) ?_
    | intro _
    | beta_reduce

theorem State.copyGood_keeps {st0 : Inv} {s : State} (h : Keeps st0 s) {r : Req} {cid : Nat} {src : Source} {e : CtbEnt} {vat : Nat} :
    Keeps st0 (State.copyGood s r cid src e vat) := by
  unfold State.copyGood
  repeat' first
    | with_reducible assumption
    | (extract_lets -underBinder -merge +onlyGivenNames x; refine keepCut (r := st0) (x := x) ?_ (fun hx => ?_); (on_goal 1 => (unfold x; clear x)); (on_goal 2 => clear_value x))
    | (extract_lets -underBinder -merge +onlyGivenNames x; guard_hyp x : SecSt)
    | (extract_lets -underBinder -merge +onlyGivenNames x; clear_value x)
    | with_reducible refine ite_keeps ?_ ?_
    | with_reducible apply State.unpin_keeps
    | with_reducible apply State.compressed_keeps
    | with_reducible apply State.stage_keeps
    | with_reducible apply State.inflTrim_keeps
    | with_reducible apply State.copyUsed_keeps
    | with_reducible apply State.cacheCopy_keeps
    | with_reducible apply State.handOn_keeps
    | with_reducible apply State.stageData_keeps
    | with_reducible apply State.modReq_keeps
    | split
    | (fail_if_no_progress (with_reducible apply Keeps.lit <;> try exact rfl))
    | with_reducible refine snd_ite_keeps ?_ ?_
    | with_reducible refine snd_mk_keeps ?_
    | with_reducible refine pair_keeps (by assumption) ?_
    | intro _
    | beta_reduce

theorem State.stripUsedBad_keeps {st0 : Inv} {s : State} (h : Keeps st0 s) {r : Req} {cid : Nat} {k : Nat} :
    Keeps st0 (State.stripUsedBad s r cid k) := by
  unfold State.stripUsedBad
  repeat' first
    | with_reducible assumption
    | with_reducible apply State.modRead_keeps
    | split
    | (fail_if_no_progress (with_reducible apply Keeps.lit <;> try exact rfl))
    | with_reducible refine snd_ite_keeps ?_ ?_
    | with_reducible refine snd_mk_keeps ?_
    | with_reducible refine pair_keeps (by assumption) ?_
    | intro _
    | beta_reduce

theorem State.copyBad_keeps {st0 : Inv} {s : State} (h : Keeps st0 s) {r : Req} {cid : Nat} :
    Keeps st0 (State.copyBad s r cid) := by
  unfold State.copyBad
  repeat' first
    | with_reducible assumption
    | (extract_lets -underBinder -merge +onlyGivenNames x; refine keepCut (r := st0) (x := x) ?_ (fun hx => ?_); (on_goal 1 => (unfold x; clear x)); (on_goal 2 => clear_value x))
    | (extract_lets -underBinder -merge +onlyGivenNames x; guard_hyp x : SecSt)
    | (extract_lets -underBinder -merge +onlyGivenNames x; clear_value x)
    | with_reducible refine ite_keeps ?_ ?_
    | with_reducible apply State.takePart_keeps
    | with_reducible apply State.startStrips_keeps
    | with_reducible apply State.startChunk_keeps
    | with_reducible apply State.authFail_keeps
    | with_reducible apply State.unstageRebuilt_keeps
    | with_reducible apply State.stripUsedBad_keeps
    | with_reducible apply State.modRead_keeps
    | with_reducible apply State.bump_keeps
    | with_reducible apply State.modReq_keeps
    | with_reducible apply State.readFail_keeps
    | with_reducible apply State.wakeHeld_keeps
    | with_reducible refine foldl_keeps ?_ (fun _ _ _ => ?_)
    | split
    | (fail_if_no_progress (with_reducible apply Keeps.lit <;> try exact rfl))
    | with_reducible refine snd_ite_keeps ?_ ?_
    | with_reducible refine snd_mk_keeps ?_
    | with_reducible refine pair_keeps (by assumption) ?_
    | intro _
    | beta_reduce

theorem State.recGood_keeps {st0 : Inv} {s : State} (h : Keeps st0 s) {r : Req} {slot : Nat} {data : Nat} :
    Keeps st0 (State.recGood s r slot data) := by
  unfold State.recGood
  repeat' first
    | with_reducible assumption
    | (extract_lets -underBinder -merge +onlyGivenNames x; refine keepCut (r := st0) (x := x) ?_ (fun hx => ?_); (on_goal 1 => (unfold x; clear x)); (on_goal 2 => clear_value x))
    | (extract_lets -underBinder -merge +onlyGivenNames x; guard_hyp x : SecSt)
    | (extract_lets -underBinder -merge +onlyGivenNames x; clear_value x)
    | with_reducible refine ite_keeps ?_ ?_
    | with_reducible apply State.unpin_keeps
    | with_reducible apply State.compressed_keeps
    | with_reducible apply State.stageData_keeps
    | with_reducible apply State.modReq_keeps
    | with_reducible apply State.dataPends_keeps
    | split
    | (fail_if_no_progress (with_reducible apply Keeps.lit <;> try exact rfl))
    | with_reducible refine snd_ite_keeps ?_ ?_
    | with_reducible refine snd_mk_keeps ?_
    | with_reducible refine pair_keeps (by assumption) ?_
    | intro _
    | beta_reduce

theorem State.recChecked_keeps {st0 : Inv} {s : State} (h : Keeps st0 s) {r : Req} {slot : Nat} {ok : Bool} :
    Keeps st0 (State.recChecked s r slot ok) := by
  unfold State.recChecked
  repeat' first
    | with_reducible assumption
    | (extract_lets -underBinder -merge +onlyGivenNames x; refine keepCut (r := st0) (x := x) ?_ (fun hx => ?_); (on_goal 1 => (unfold x; clear x)); (on_goal 2 => clear_value x))
    | (extract_lets -underBinder -merge +onlyGivenNames x; guard_hyp x : SecSt)
    | (extract_lets -underBinder -merge +onlyGivenNames x; clear_value x)
    | with_reducible refine ite_keeps ?_ ?_
    | with_reducible apply State.authFail_keeps
    | with_reducible apply State.recGood_keeps
    | with_reducible apply State.bump_keeps
    | with_reducible apply State.sendPeer_keeps
    | with_reducible apply State.modReq_keeps
    | with_reducible apply State.readFail_keeps
    | with_reducible apply State.wakeHeld_keeps
    | split
    | (fail_if_no_progress (with_reducible apply Keeps.lit <;> try exact rfl))
    | with_reducible refine snd_ite_keeps ?_ ?_
    | with_reducible refine snd_mk_keeps ?_
    | with_reducible refine pair_keeps (by assumption) ?_
    | intro _
    | beta_reduce

theorem State.inflFail_keeps {st0 : Inv} {s : State} (h : Keeps st0 s) {slice : Nat} {cid : Nat} {cond : Nat} {bitOff : Nat} {outBytes : Nat}  :
    Keeps st0 (State.inflFail s slice cid cond bitOff outBytes) := by
  unfold State.inflFail
  repeat' first
    | with_reducible assumption
    | with_reducible apply State.setAll_keeps
    | with_reducible apply State.raise_keeps
    | with_reducible apply State.irq_keeps
    | with_reducible apply State.satInc_keeps

theorem State.readCount_keeps {st0 : Inv} {s : State} (h : Keeps st0 s) {r : Req}  :
    Keeps st0 (State.readCount s r) := by
  unfold State.readCount
  repeat' first
    | with_reducible assumption
    | with_reducible refine ite_keeps ?_ ?_
    | with_reducible apply State.bump_keeps

end Sys2Proof.Machine
end

