-- ==== Sys2Proof/Laws/KeepsPfx.lean ====
section
/-! SUPPORT. The operations and commands of Machine/Pfx.lean keep what a state is asked (Laws/Keeps.lean). -/

set_option linter.all false

namespace Sys2Proof.Machine

theorem State.pfxRecWrite_keeps {st0 : Inv} [st0.Writes] {s : State} (h : Keeps st0 s) {arm : Bool} {filter : Bool} {profile : Nat} {vol : Nat} {window : Nat} :
    Keeps st0 (State.pfxRecWrite s arm filter profile vol window) := by
  unfold State.pfxRecWrite
  repeat' first
    | with_reducible assumption
    | with_reducible refine ite_keeps ?_ ?_
    | with_reducible apply State.modRead_keeps
    | with_reducible apply State.setAll_keeps
    | with_reducible apply State.raise_keeps
    | with_reducible apply State.recEnd_keeps
    | split
    | (fail_if_no_progress (with_reducible apply Keeps.lit <;> try exact rfl))
    | with_reducible refine snd_ite_keeps ?_ ?_
    | with_reducible refine snd_mk_keeps ?_
    | with_reducible refine pair_keeps (by assumption) ?_
    | intro _
    | beta_reduce

theorem execPfxRecArm_keeps {st0 : Inv} [st0.Writes] {s : State} (h : Keeps st0 s) {m : Nat} {profile : Nat} {vol : Nat} {window : Nat} {filter : Bool}  :
    ResKeeps st0 (execPfxRecArm m profile vol window filter s) := by
  unfold execPfxRecArm
  try with_reducible refine ResKeeps.next ?_
  repeat' first
    | with_reducible assumption
    | with_reducible refine State.busWr_keeps ?_ (fun _ _ => ?_)
    | with_reducible apply State.pfxRecWrite_keeps

theorem execPfxRecDisarm_keeps {st0 : Inv} [st0.Writes] {s : State} (h : Keeps st0 s) {m : Nat}  :
    ResKeeps st0 (execPfxRecDisarm m s) := by
  unfold execPfxRecDisarm
  try with_reducible refine ResKeeps.next ?_
  repeat' first
    | with_reducible assumption
    | with_reducible refine State.busWr_keeps ?_ (fun _ _ => ?_)
    | with_reducible apply State.pfxRecWrite_keeps

theorem execPfxRecordWindowEnd_keeps {st0 : Inv} [st0.Writes] {s : State} (h : Keeps st0 s)   :
    ResKeeps st0 (execPfxRecordWindowEnd s) := by
  unfold execPfxRecordWindowEnd
  try with_reducible refine ResKeeps.next ?_
  repeat' first
    | with_reducible assumption
    | with_reducible refine ite_keeps ?_ ?_
    | with_reducible apply State.recEnd_keeps

theorem State.recAdd_keeps {st0 : Inv} [st0.Writes] {s : State} (h : Keeps st0 s) {lba : Nat} {len : Nat}  :
    Keeps st0 (State.recAdd s lba len) := by
  unfold State.recAdd
  repeat' first
    | with_reducible assumption
    | with_reducible refine ite_keeps ?_ ?_
    | with_reducible apply State.modRead_keeps
    | with_reducible apply State.set_keeps
    | with_reducible apply State.recEnd_keeps

theorem State.recRead_keeps {st0 : Inv} [st0.Writes] {s : State} (h : Keeps st0 s) {r : Req}  :
    Keeps st0 (State.recRead s r) := by
  unfold State.recRead
  repeat' first
    | with_reducible assumption
    | with_reducible refine ite_keeps ?_ ?_
    | with_reducible apply State.modRead_keeps
    | with_reducible apply State.setAll_keeps
    | with_reducible apply State.recAdd_keeps

theorem State.pfxLoadWrite_keeps {st0 : Inv} {s : State} (h : Keeps st0 s) {op : Nat} {profile : Nat}  :
    Keeps st0 (State.pfxLoadWrite s op profile) := by
  unfold State.pfxLoadWrite
  repeat' first
    | with_reducible assumption
    | with_reducible refine ite_keeps ?_ ?_
    | with_reducible apply State.raise_keeps
    | with_reducible apply State.modRead_keeps
    | with_reducible apply State.setAll_keeps

theorem execPfxLoad_keeps {st0 : Inv} {s : State} (h : Keeps st0 s) {m : Nat} {profile : Nat}  :
    ResKeeps st0 (execPfxLoad m profile s) := by
  unfold execPfxLoad
  try with_reducible refine ResKeeps.next ?_
  repeat' first
    | with_reducible assumption
    | with_reducible refine State.busWr_keeps ?_ (fun _ _ => ?_)
    | with_reducible apply State.pfxLoadWrite_keeps

theorem execPfxUnload_keeps {st0 : Inv} {s : State} (h : Keeps st0 s) {m : Nat} {profile : Nat}  :
    ResKeeps st0 (execPfxUnload m profile s) := by
  unfold execPfxUnload
  try with_reducible refine ResKeeps.next ?_
  repeat' first
    | with_reducible assumption
    | with_reducible refine State.busWr_keeps ?_ (fun _ _ => ?_)
    | with_reducible apply State.pfxLoadWrite_keeps

theorem State.pfxResult_keeps {st0 : Inv} {s : State} (h : Keeps st0 s) {r : Nat}  :
    Keeps st0 (State.pfxResult s r) := by
  unfold State.pfxResult
  repeat' first
    | with_reducible assumption
    | with_reducible apply State.modRead_keeps
    | with_reducible apply State.setAll_keeps
    | with_reducible apply State.irq_keeps

theorem execPfxLoadDone_keeps {st0 : Inv} {s : State} (h : Keeps st0 s)   :
    ResKeeps st0 (execPfxLoadDone s) := by
  unfold execPfxLoadDone
  try with_reducible refine ResKeeps.next ?_
  repeat' first
    | with_reducible assumption
    | with_reducible apply State.modRead_keeps
    | with_reducible apply State.pfxResult_keeps
    | with_reducible apply State.raise_keeps
    | split

theorem State.trigger_keeps {st0 : Inv} {s : State} (h : Keeps st0 s) {p : Nat} {f : Profile} :
    Keeps st0 (State.trigger s p f) := by
  unfold State.trigger
  repeat' first
    | with_reducible assumption
    | (extract_lets -underBinder -merge +onlyGivenNames x; refine keepCut (r := st0) (x := x) ?_ (fun hx => ?_); (on_goal 1 => (unfold x; clear x)); (on_goal 2 => clear_value x))
    | (extract_lets -underBinder -merge +onlyGivenNames x; guard_hyp x : SecSt)
    | (extract_lets -underBinder -merge +onlyGivenNames x; clear_value x)
    | with_reducible refine ite_keeps ?_ ?_
    | with_reducible apply State.modRead_keeps
    | with_reducible apply State.bump_keeps
    | split
    | (fail_if_no_progress (with_reducible apply Keeps.lit <;> try exact rfl))
    | with_reducible refine snd_ite_keeps ?_ ?_
    | with_reducible refine snd_mk_keeps ?_
    | with_reducible refine pair_keeps (by assumption) ?_
    | intro _
    | beta_reduce

theorem State.pfxRead_keeps {st0 : Inv} [st0.Writes] {s : State} (h : Keeps st0 s) {r : Req}  :
    Keeps st0 (State.pfxRead s r) := by
  unfold State.pfxRead
  repeat' first
    | with_reducible assumption
    | (extract_lets -underBinder -merge +onlyGivenNames x; refine keepCut (r := st0) (x := x) ?_ (fun hx => ?_); (on_goal 1 => (unfold x; clear x)); (on_goal 2 => clear_value x))
    | with_reducible apply State.recRead_keeps
    | with_reducible apply State.trigger_keeps
    | with_reducible apply State.bump_keeps
    | with_reducible refine foldl_keeps ?_ (fun _ _ _ => ?_)
    | split

theorem State.replayNext_keeps {st0 : Inv} {s : State} (h : Keeps st0 s) {i : Nat} :
    Keeps st0 (State.replayNext s i) := by
  unfold State.replayNext
  repeat' first
    | with_reducible assumption
    | with_reducible refine ite_keeps ?_ ?_
    | with_reducible apply State.modRead_keeps
    | split
    | (fail_if_no_progress (with_reducible apply Keeps.lit <;> try exact rfl))
    | with_reducible refine snd_ite_keeps ?_ ?_
    | with_reducible refine snd_mk_keeps ?_
    | with_reducible refine pair_keeps (by assumption) ?_
    | intro _
    | beta_reduce

theorem State.prefetch_keeps {r : Inv} {s : State} (h : Keeps r s) {name vol lba n : Nat} : Keeps r (s.prefetch name vol lba n) := by
  unfold State.prefetch
  refine foldl_snd_keeps h (fun q i hq => ?_)
  obtain ⟨go, t⟩ := q
  dsimp only
  split
  · exact hq
  · exact State.resolve_keeps (State.newReq_keeps hq)

theorem State.prefetchTrim_keeps {st0 : Inv} {s : State} (h : Keeps st0 s) {tag : Nat} :
    Keeps st0 (State.prefetchTrim s tag) := by
  unfold State.prefetchTrim
  repeat' first
    | with_reducible assumption
    | (extract_lets -underBinder -merge +onlyGivenNames x; refine keepCut (r := st0) (x := x) ?_ (fun hx => ?_); (on_goal 1 => (unfold x; clear x)); (on_goal 2 => clear_value x))
    | (extract_lets -underBinder -merge +onlyGivenNames x; guard_hyp x : SecSt)
    | (extract_lets -underBinder -merge +onlyGivenNames x; clear_value x)
    | with_reducible refine ite_keeps ?_ ?_
    | with_reducible apply State.unpin_keeps
    | with_reducible apply State.dropReq_keeps
    | with_reducible apply State.modRead_keeps
    | with_reducible apply State.bump_keeps
    | with_reducible apply State.modReq_keeps
    | with_reducible apply State.prefetch_keeps
    | with_reducible refine foldl_keeps ?_ (fun _ _ _ => ?_)
    | split
    | (fail_if_no_progress (with_reducible apply Keeps.lit <;> try exact rfl))
    | with_reducible refine snd_ite_keeps ?_ ?_
    | with_reducible refine snd_mk_keeps ?_
    | with_reducible refine pair_keeps (by assumption) ?_
    | intro _
    | beta_reduce

theorem execPfxExtentDue_keeps {r : Inv} {s : State} (h : Keeps r s) {replay : Nat} : ResKeeps r (execPfxExtentDue replay s) := by
  unfold execPfxExtentDue
  refine ResKeeps.next ?_
  split
  · exact h
  · dsimp only
    split
    · split
      · exact h
      · refine foldl_keeps ?_ (fun _ _ ht => State.prefetchTrim_keeps ht)
        exact State.replayNext_keeps (State.prefetch_keeps (State.modRead_keeps (State.bump_keeps h)))
    · exact h

theorem execPfxExtentSkip_keeps {st0 : Inv} {s : State} (h : Keeps st0 s) {replay : Nat}  :
    ResKeeps st0 (execPfxExtentSkip replay s) := by
  unfold execPfxExtentSkip
  try with_reducible refine ResKeeps.next ?_
  repeat' first
    | with_reducible assumption
    | with_reducible apply State.bump_keeps
    | with_reducible apply State.replayNext_keeps
    | split

end Sys2Proof.Machine
end

