-- ==== Sys2Proof/Laws/KeepsMailbox.lean ====
section
/-! SUPPORT. The operations and commands of Machine/Mailbox.lean keep what a state is asked (Laws/Keeps.lean). -/

set_option linter.all false

namespace Sys2Proof.Machine

theorem State.modMbx_keeps {st0 : Inv} {s : State} (h : Keeps st0 s) {f : MbxSt → MbxSt}  :
    Keeps st0 (State.modMbx s f) := by
  unfold State.modMbx
  repeat' first
    | with_reducible assumption
    | (fail_if_no_progress (with_reducible apply Keeps.lit <;> try exact rfl))

theorem State.mbxDropped_keeps {st0 : Inv} {s : State} (h : Keeps st0 s) {c : Nat}  :
    Keeps st0 (State.mbxDropped s c) := by
  unfold State.mbxDropped
  repeat' first
    | with_reducible assumption
    | with_reducible apply State.setAll_keeps
    | with_reducible apply State.irq_keeps
    | with_reducible apply State.bump_keeps

theorem State.mbxRefused_keeps {st0 : Inv} {s : State} (h : Keeps st0 s) {c : Nat} {cond : Nat}  :
    Keeps st0 (State.mbxRefused s c cond) := by
  unfold State.mbxRefused
  repeat' first
    | with_reducible assumption
    | with_reducible apply State.set_keeps
    | with_reducible apply State.irq_keeps
    | with_reducible apply State.raise_keeps

theorem State.mbxPlace_keeps {st0 : Inv} {s : State} (h : Keeps st0 s) {c : Nat} {w : Nat} {epoch : Nat}  :
    Keeps st0 (State.mbxPlace s c w epoch) := by
  unfold State.mbxPlace
  repeat' first
    | with_reducible assumption
    | with_reducible apply State.setAll_keeps

theorem State.mbxSend_keeps {st0 : Inv} {s : State} (h : Keeps st0 s) {w : Nat} {kind : Nat} {epoch : Nat} {c : Nat}  :
    Keeps st0 (State.mbxSend s w kind epoch c) := by
  unfold State.mbxSend
  repeat' first
    | with_reducible assumption
    | with_reducible apply State.sendPeer_keeps

theorem State.mbxPost_keeps {st0 : Inv} {s : State} (h : Keeps st0 s) {m : Nat} {c : Nat} {w : Nat}  :
    Keeps st0 (State.mbxPost s m c w) := by
  unfold State.mbxPost
  repeat' first
    | with_reducible assumption
    | with_reducible refine ite_keeps ?_ ?_
    | with_reducible apply State.raise_keeps
    | with_reducible apply State.mbxRefused_keeps
    | with_reducible apply State.mbxPlace_keeps
    | with_reducible apply State.mbxSend_keeps

theorem State.mbxTake_keeps {st0 : Inv} {s : State} (h : Keeps st0 s) {m : Nat} {c : Nat}  :
    Keeps st0 (State.mbxTake s m c).2 := by
  unfold State.mbxTake
  repeat' first
    | with_reducible assumption
    | with_reducible apply State.raise_keeps
    | with_reducible apply State.setAll_keeps
    | with_reducible apply State.mbxSend_keeps
    | split

theorem State.mbxBus_keeps {st0 : Inv} {s : State} (h : Keeps st0 s) {m : Nat} {slot : Nat} {off : Nat} {isWrite : Bool} {f : State → State} (hf : ∀ t, Keeps st0 t → Keeps st0 (f t)) :
    Keeps st0 (State.mbxBus s m slot off isWrite f) := by
  unfold State.mbxBus
  repeat' first
    | with_reducible assumption
    | with_reducible refine ite_keeps ?_ ?_
    | with_reducible refine State.busWr_keeps ?_ (fun _ _ => ?_)
    | with_reducible refine State.busRd_keeps ?_ (fun _ _ => ?_)
    | with_reducible refine hf _ ?_

theorem execMbxPost_keeps {st0 : Inv} {s : State} (h : Keeps st0 s) {m : Nat} {c : Nat} {w : Word}  :
    ResKeeps st0 (execMbxPost m c w s) := by
  unfold execMbxPost
  try with_reducible refine ResKeeps.next ?_
  repeat' first
    | with_reducible assumption
    | with_reducible refine State.mbxBus_keeps ?_ (fun _ _ => ?_)
    | with_reducible apply State.mbxPost_keeps

theorem State.mbxAnswer_keeps {st0 : Inv} {s : State} (h : Keeps st0 s) {m : Nat} {c : Nat} {w : Nat}  :
    Keeps st0 (State.mbxAnswer s m c w) := by
  unfold State.mbxAnswer
  repeat' first
    | with_reducible assumption
    | (extract_lets -underBinder -merge +onlyGivenNames x; clear_value x)
    | with_reducible apply State.mbxPost_keeps
    | split

theorem State.blockCond_keeps {st0 : Inv} [st0.Writes] {s : State} (h : Keeps st0 s) {addr : Nat} {cond : Nat}  :
    Keeps st0 (State.blockCond s addr cond) := by
  unfold State.blockCond
  repeat' first
    | with_reducible assumption
    | with_reducible apply State.wrLE_keeps

theorem State.svcTaken_keeps {st0 : Inv} [st0.Writes] {s : State} (h : Keeps st0 s) {m : Nat} {c : Nat} {w : Nat}  :
    Keeps st0 (State.svcTaken s m c w) := by
  unfold State.svcTaken
  dsimp only
  repeat' first
    | with_reducible assumption
    | with_reducible refine ite_keeps ?_ ?_
    | with_reducible apply State.blockCond_keeps
    | with_reducible apply State.raise_keeps
    | with_reducible apply State.mbxAnswer_keeps
    | with_reducible apply State.modMbx_keeps

theorem execMbxTake_keeps {st0 : Inv} [st0.Writes] {s : State} (h : Keeps st0 s) {m : Nat} {c : Nat}  :
    ResKeeps st0 (execMbxTake m c s) := by
  unfold execMbxTake
  try with_reducible refine ResKeeps.next ?_
  repeat' first
    | with_reducible assumption
    | with_reducible refine ite_keeps ?_ ?_
    | with_reducible refine State.mbxBus_keeps ?_ (fun _ _ => ?_)
    | with_reducible apply State.mbxTake_keeps
    | with_reducible apply State.answer_keeps
    | with_reducible apply State.svcTaken_keeps

theorem State.mbxStat_keeps {st0 : Inv} {s : State} (h : Keeps st0 s) {m : Nat} {c : Nat} {v : Nat}  :
    Keeps st0 (State.mbxStat s m c v) := by
  unfold State.mbxStat
  repeat' first
    | with_reducible assumption
    | with_reducible refine ite_keeps ?_ ?_
    | with_reducible apply State.raise_keeps
    | with_reducible apply State.set_keeps

theorem execMbxStatWrite_keeps {st0 : Inv} {s : State} (h : Keeps st0 s) {m : Nat} {c : Nat} {v : Word}  :
    ResKeeps st0 (execMbxStatWrite m c v s) := by
  unfold execMbxStatWrite
  try with_reducible refine ResKeeps.next ?_
  repeat' first
    | with_reducible assumption
    | with_reducible refine State.mbxBus_keeps ?_ (fun _ _ => ?_)
    | with_reducible apply State.mbxStat_keeps

theorem State.mbxBind_keeps {st0 : Inv} {s : State} (h : Keeps st0 s) {c : Nat} {valid : Bool} {snd : Nat} {rcv : Nat}  :
    Keeps st0 (State.mbxBind s c valid snd rcv) := by
  unfold State.mbxBind
  repeat' first
    | with_reducible assumption
    | with_reducible refine ite_keeps ?_ ?_
    | with_reducible apply State.raise_keeps
    | with_reducible apply State.setAll_keeps

theorem execMbxBindWrite_keeps {st0 : Inv} {s : State} (h : Keeps st0 s) {m : Nat} {c : Nat} {valid : Bool} {snd : Nat} {rcv : Nat}  :
    ResKeeps st0 (execMbxBindWrite m c valid snd rcv s) := by
  unfold execMbxBindWrite
  try with_reducible refine ResKeeps.next ?_
  repeat' first
    | with_reducible assumption
    | with_reducible refine ite_keeps ?_ ?_
    | with_reducible refine State.busWr_keeps ?_ (fun _ _ => ?_)
    | with_reducible apply State.mbxBind_keeps
    | with_reducible apply State.deny_keeps

theorem execMbxBindLock_keeps {st0 : Inv} {s : State} (h : Keeps st0 s) {m : Nat}  :
    ResKeeps st0 (execMbxBindLock m s) := by
  unfold execMbxBindLock
  try with_reducible refine ResKeeps.next ?_
  repeat' first
    | with_reducible assumption
    | with_reducible refine State.busWr_keeps ?_ (fun _ _ => ?_)
    | with_reducible apply State.set_keeps

theorem execMbxLockRead_keeps {st0 : Inv} {s : State} (h : Keeps st0 s) {m : Nat} {k : Nat}  :
    ResKeeps st0 (execMbxLockRead m k s) := by
  unfold execMbxLockRead
  try with_reducible refine ResKeeps.next ?_
  repeat' first
    | with_reducible assumption
    | with_reducible refine ite_keeps ?_ ?_
    | with_reducible refine State.mbxBus_keeps ?_ (fun _ _ => ?_)
    | with_reducible apply State.answer_keeps
    | with_reducible apply State.set_keeps

theorem execMbxUnlock_keeps {st0 : Inv} {s : State} (h : Keeps st0 s) {m : Nat} {k : Nat}  :
    ResKeeps st0 (execMbxUnlock m k s) := by
  unfold execMbxUnlock
  try with_reducible refine ResKeeps.next ?_
  repeat' first
    | with_reducible assumption
    | with_reducible refine ite_keeps ?_ ?_
    | with_reducible refine State.mbxBus_keeps ?_ (fun _ _ => ?_)
    | with_reducible apply State.set_keeps
    | with_reducible apply State.raise_keeps

theorem State.mbxFromPeer_keeps {st0 : Inv} {s : State} (h : Keeps st0 s) {w : Nat} {kind : Nat} {epoch : Nat} {c : Nat} :
    Keeps st0 (State.mbxFromPeer s w kind epoch c) := by
  unfold State.mbxFromPeer
  repeat' first
    | with_reducible assumption
    | with_reducible refine ite_keeps ?_ ?_
    | with_reducible apply State.mbxDropped_keeps
    | with_reducible apply State.mbxRefused_keeps
    | with_reducible apply State.mbxPlace_keeps
    | with_reducible apply State.set_keeps
    | with_reducible apply State.setAll_keeps
    | split
    | (fail_if_no_progress (with_reducible apply Keeps.lit <;> try exact rfl))
    | with_reducible refine snd_ite_keeps ?_ ?_
    | with_reducible refine snd_mk_keeps ?_
    | with_reducible refine pair_keeps (by assumption) ?_
    | intro _
    | beta_reduce

theorem State.mbxFlush_keeps {st0 : Inv} {s : State} (h : Keeps st0 s) {c : Nat}  :
    Keeps st0 (State.mbxFlush s c) := by
  unfold State.mbxFlush
  repeat' first
    | with_reducible assumption
    | with_reducible refine ite_keeps ?_ ?_
    | with_reducible apply State.mbxDropped_keeps
    | with_reducible apply State.mbxSend_keeps

theorem State.masterReset_keeps {st0 : Inv} {s : State} (h : Keeps st0 s) {m : Nat}  :
    Keeps st0 (State.masterReset s m) := by
  unfold State.masterReset
  repeat' first
    | with_reducible assumption
    | with_reducible apply State.modMbx_keeps
    | with_reducible apply State.mbxFlush_keeps
    | with_reducible apply State.set_keeps
    | with_reducible refine foldl_keeps ?_ (fun _ _ _ => ?_)

end Sys2Proof.Machine
end

