-- ==== Sys2Proof/Laws/KeepsSlice.lean ====
section
/-! SUPPORT. The operations and commands of Machine/Slice.lean keep what a state is asked (Laws/Keeps.lean). -/

set_option linter.all false

namespace Sys2Proof.Machine

theorem State.modSec_keeps {r : Inv} {s : State} (h : Keeps r s) {f : SecSt → SecSt} (hf : (f s.sec).fuses = s.sec.fuses) :
    Keeps r (s.modSec f) := h.same rfl rfl hf

theorem State.keyRoom_keeps {st0 : Inv} {s : State} (h : Keeps st0 s) {i : Nat}  :
    Keeps st0 (State.keyRoom s i) := by
  unfold State.keyRoom
  repeat' first
    | with_reducible assumption
    | with_reducible apply State.modSlice_keeps
    | split

theorem State.keyFetch_keeps {st0 : Inv} {s : State} (h : Keeps st0 s) {i : Nat} {h : Nat}  :
    Keeps st0 (State.keyFetch s i h) := by
  unfold State.keyFetch
  repeat' first
    | with_reducible assumption
    | with_reducible refine ite_keeps ?_ ?_
    | with_reducible apply State.modSlice_keeps
    | with_reducible apply State.bump_keeps

theorem State.keyAsk_keeps {st0 : Inv} {s : State} (h : Keeps st0 s) {i : Nat} {tag : Nat} {h : Nat}  :
    Keeps st0 (State.keyAsk s i tag h) := by
  unfold State.keyAsk
  repeat' first
    | with_reducible assumption
    | with_reducible apply State.modSlice_keeps
    | with_reducible apply State.keyRoom_keeps
    | with_reducible apply State.keyFetch_keeps
    | split

theorem State.keyWait_keeps {st0 : Inv} {s : State} (h : Keeps st0 s) {i : Nat} {tag : Nat} {h : Nat} :
    Keeps st0 (State.keyWait s i tag h).2 := by
  unfold State.keyWait
  repeat' first
    | with_reducible assumption
    | with_reducible refine ite_keeps ?_ ?_
    | with_reducible apply State.keyAsk_keeps
    | split
    | (fail_if_no_progress (with_reducible apply Keeps.lit <;> try exact rfl))
    | with_reducible refine snd_ite_keeps ?_ ?_
    | with_reducible refine snd_mk_keeps ?_
    | with_reducible refine pair_keeps (by assumption) ?_
    | intro _
    | beta_reduce

theorem State.useRefused_keeps {st0 : Inv} {s : State} (h : Keeps st0 s) {h : Nat} :
    Keeps st0 (State.useRefused s h) := by
  unfold State.useRefused
  repeat' first
    | with_reducible assumption
    | with_reducible apply State.bump_keeps
    | with_reducible apply State.raise_keeps
    | split
    | (fail_if_no_progress (with_reducible apply Keeps.lit <;> try exact rfl))
    | with_reducible refine snd_ite_keeps ?_ ?_
    | with_reducible refine snd_mk_keeps ?_
    | with_reducible refine pair_keeps (by assumption) ?_
    | intro _
    | beta_reduce

theorem State.keyGone_keeps {st0 : Inv} {s : State} (h : Keeps st0 s) {t : Nat} :
    Keeps st0 (State.keyGone s t) := by
  unfold State.keyGone
  repeat' first
    | with_reducible assumption
    | (extract_lets -underBinder -merge +onlyGivenNames x; refine keepCut (r := st0) (x := x) ?_ (fun hx => ?_); (on_goal 1 => (unfold x; clear x)); (on_goal 2 => clear_value x))
    | (extract_lets -underBinder -merge +onlyGivenNames x; guard_hyp x : SecSt)
    | (extract_lets -underBinder -merge +onlyGivenNames x; clear_value x)
    | with_reducible refine ite_keeps ?_ ?_
    | with_reducible apply State.unpin_keeps
    | with_reducible apply State.dropFetches_keeps
    | with_reducible apply State.modReq_keeps
    | with_reducible apply State.reqGiveAll_keeps
    | with_reducible apply State.goSlow_keeps
    | with_reducible refine foldl_keeps ?_ (fun _ _ _ => ?_)
    | split
    | (fail_if_no_progress (with_reducible apply Keeps.lit <;> try exact rfl))
    | with_reducible refine snd_ite_keeps ?_ ?_
    | with_reducible refine snd_mk_keeps ?_
    | with_reducible refine pair_keeps (by assumption) ?_
    | intro _
    | beta_reduce

theorem State.keyUsed_keeps {st0 : Inv} {s : State} (h : Keeps st0 s) {h : Nat} :
    Keeps st0 (State.keyUsed s h) := by
  unfold State.keyUsed
  repeat' first
    | with_reducible assumption
    | with_reducible refine ite_keeps ?_ ?_
    | with_reducible refine State.modSec_keeps ?_ rfl
    | split
    | (fail_if_no_progress (with_reducible apply Keeps.lit <;> try exact rfl))
    | with_reducible refine snd_ite_keeps ?_ ?_
    | with_reducible refine snd_mk_keeps ?_
    | with_reducible refine pair_keeps (by assumption) ?_
    | intro _
    | beta_reduce

theorem execKeyFetchDone_keeps {st0 : Inv} {s : State} (h : Keeps st0 s) {i : Nat} {h : Nat} :
    ResKeeps st0 (execKeyFetchDone i h s) := by
  unfold execKeyFetchDone
  try with_reducible refine ResKeeps.next ?_
  repeat' first
    | with_reducible assumption
    | (extract_lets -underBinder -merge +onlyGivenNames x; refine keepCut (r := st0) (x := x) ?_ (fun hx => ?_); (on_goal 1 => (unfold x; clear x)); (on_goal 2 => clear_value x))
    | (extract_lets -underBinder -merge +onlyGivenNames x; guard_hyp x : SecSt)
    | (extract_lets -underBinder -merge +onlyGivenNames x; clear_value x)
    | with_reducible refine ite_keeps ?_ ?_
    | with_reducible refine ResKeeps.next ?_
    | with_reducible apply State.modSlice_keeps
    | with_reducible apply State.bump_keeps
    | with_reducible apply State.raise_keeps
    | with_reducible apply State.keyFetch_keeps
    | with_reducible apply State.keyGone_keeps
    | with_reducible apply State.keyRemove_keeps
    | with_reducible apply State.keyUsed_keeps
    | with_reducible refine foldl_keeps ?_ (fun _ _ _ => ?_)
    | split
    | (fail_if_no_progress (with_reducible apply Keeps.lit <;> try exact rfl))
    | with_reducible refine snd_ite_keeps ?_ ?_
    | with_reducible refine snd_mk_keeps ?_
    | with_reducible refine pair_keeps (by assumption) ?_
    | intro _
    | beta_reduce

theorem execKeyHandleRemove_keeps {st0 : Inv} {s : State} (h : Keeps st0 s) {h : Nat}  :
    ResKeeps st0 (execKeyHandleRemove h s) := by
  unfold execKeyHandleRemove
  try with_reducible refine ResKeeps.next ?_
  repeat' first
    | with_reducible assumption
    | with_reducible refine State.modSec_keeps ?_ rfl
    | with_reducible apply State.bump_keeps
    | split
    | (fail_if_no_progress (with_reducible apply Keeps.lit <;> try exact rfl))

theorem execSliceRngReseed_keeps {st0 : Inv} {s : State} (h : Keeps st0 s) {_i : Nat}  :
    ResKeeps st0 (execSliceRngReseed _i s) := by
  unfold execSliceRngReseed
  try with_reducible refine ResKeeps.next ?_
  repeat' first
    | with_reducible assumption
    | with_reducible refine ite_keeps ?_ ?_
    | with_reducible apply State.draw256_keeps

theorem State.hardenAll_keeps {st0 : Inv} {s : State} (h : Keeps st0 s) {dummy : Nat} {shuffle : Nat}  :
    Keeps st0 (State.hardenAll s dummy shuffle) := by
  unfold State.hardenAll
  repeat' first
    | with_reducible assumption
    | with_reducible apply State.setAll_keeps
    | with_reducible refine foldl_keeps ?_ (fun _ _ _ => ?_)

theorem execSecHardenWrite_keeps {st0 : Inv} {s : State} (h : Keeps st0 s) {m : Nat} {dummy : Nat} {shuffle : Bool}  :
    ResKeeps st0 (execSecHardenWrite m dummy shuffle s) := by
  unfold execSecHardenWrite
  try with_reducible refine ResKeeps.next ?_
  repeat' first
    | with_reducible assumption
    | with_reducible refine State.busWr_keeps ?_ (fun _ _ => ?_)
    | with_reducible apply State.hardenAll_keeps

theorem State.msrExtend_keeps {st0 : Inv} {s : State} (h : Keeps st0 s) {k : Nat} {d : Nat}  :
    Keeps st0 (State.msrExtend s k d) := by
  unfold State.msrExtend
  repeat' first
    | with_reducible assumption
    | with_reducible refine ite_keeps ?_ ?_
    | with_reducible refine State.modSec_keeps ?_ rfl
    | with_reducible apply State.bump_keeps

theorem State.msrLock_keeps {st0 : Inv} {s : State} (h : Keeps st0 s) {k : Nat}  :
    Keeps st0 (State.msrLock s k) := by
  unfold State.msrLock
  repeat' first
    | with_reducible assumption
    | with_reducible refine State.modSec_keeps ?_ rfl

theorem State.msrResult_keeps {st0 : Inv} {s : State} (h : Keeps st0 s) {result : Nat} {cond : Nat}  :
    Keeps st0 (State.msrResult s result cond) := by
  unfold State.msrResult
  repeat' first
    | with_reducible assumption
    | with_reducible refine ite_keeps ?_ ?_
    | with_reducible apply State.setAll_keeps
    | with_reducible apply State.irq_keeps

theorem State.msrWrite_keeps {st0 : Inv} {s : State} (h : Keeps st0 s) {m : Nat} {k : Nat} {addr : Nat} {lock : Bool}  :
    Keeps st0 (State.msrWrite s m k addr lock) := by
  unfold State.msrWrite
  repeat' first
    | with_reducible assumption
    | with_reducible refine ite_keeps ?_ ?_
    | with_reducible apply State.raise_keeps
    | with_reducible apply State.msrResult_keeps
    | with_reducible apply State.msrLock_keeps
    | with_reducible apply State.msrExtend_keeps

theorem execMsrExtend_keeps {st0 : Inv} {s : State} (h : Keeps st0 s) {m : Nat} {k : Nat} {addr : Nat}  :
    ResKeeps st0 (execMsrExtend m k addr s) := by
  unfold execMsrExtend
  try with_reducible refine ResKeeps.next ?_
  repeat' first
    | with_reducible assumption
    | with_reducible refine State.busWr_keeps ?_ (fun _ _ => ?_)
    | with_reducible apply State.msrWrite_keeps

theorem execMsrLock_keeps {st0 : Inv} {s : State} (h : Keeps st0 s) {m : Nat} {k : Nat}  :
    ResKeeps st0 (execMsrLock m k s) := by
  unfold execMsrLock
  try with_reducible refine ResKeeps.next ?_
  repeat' first
    | with_reducible assumption
    | with_reducible refine State.busWr_keeps ?_ (fun _ _ => ?_)
    | with_reducible apply State.msrWrite_keeps

theorem State.digestOut_keeps {st0 : Inv} [st0.Writes] {s : State} (h : Keeps st0 s) {a : Nat} {d : Nat}  :
    Keeps st0 (State.digestOut s a d) := by
  unfold State.digestOut
  repeat' first
    | with_reducible assumption
    | with_reducible apply State.msrExtend_keeps
    | with_reducible apply State.putBytes_keeps
    | split

theorem State.digestEnd_keeps {st0 : Inv} {s : State} (h : Keeps st0 s) {r : Req} {cond : Nat} {bytes : Nat}  :
    Keeps st0 (State.digestEnd s r cond bytes) := by
  unfold State.digestEnd
  repeat' first
    | with_reducible assumption
    | with_reducible refine ite_keeps ?_ ?_
    | with_reducible apply State.raise_keeps
    | with_reducible apply State.bump_keeps
    | with_reducible apply State.modSlice_keeps
    | with_reducible apply State.sampleDone_keeps
    | with_reducible apply State.dropReq_keeps
    | with_reducible apply State.irqIs_keeps

theorem State.digestSubmit_keeps {st0 : Inv} {s : State} (h : Keeps st0 s) {m : Nat} {i : Nat} {addr : Nat}  :
    Keeps st0 (State.digestSubmit s m i addr) := by
  unfold State.digestSubmit
  repeat' first
    | with_reducible assumption
    | with_reducible refine ite_keeps ?_ ?_
    | with_reducible apply State.raise_keeps
    | with_reducible apply State.newReq_keeps

theorem execDigestSubmit_keeps {st0 : Inv} {s : State} (h : Keeps st0 s) {m : Nat} {i : Nat} {addr : Nat}  :
    ResKeeps st0 (execDigestSubmit m i addr s) := by
  unfold execDigestSubmit
  try with_reducible refine ResKeeps.next ?_
  repeat' first
    | with_reducible assumption
    | with_reducible refine State.busWr_keeps ?_ (fun _ _ => ?_)
    | with_reducible apply State.digestSubmit_keeps

theorem execDigDoneQRead_keeps {st0 : Inv} {s : State} (h : Keeps st0 s) {m : Nat} {i : Nat}  :
    ResKeeps st0 (execDigDoneQRead m i s) := by
  unfold execDigDoneQRead
  try with_reducible refine ResKeeps.next ?_
  repeat' first
    | with_reducible assumption
    | with_reducible refine State.busRd_keeps ?_ (fun _ _ => ?_)
    | with_reducible apply State.answer_keeps
    | with_reducible apply State.set_keeps
    | with_reducible apply State.modSlice_keeps
    | with_reducible apply State.irqIs_keeps
    | split

end Sys2Proof.Machine
end

