-- ==== Sys2Proof/Laws/KeepsWrite.lean ====
section
/-! SUPPORT. The operations and commands of Machine/Write.lean keep what a state is asked (Laws/Keeps.lean). -/

set_option linter.all false

namespace Sys2Proof.Machine

theorem State.noSpace_keeps {st0 : Inv} {s : State} (h : Keeps st0 s) {tag : Nat}  :
    Keeps st0 (State.noSpace s tag) := by
  unfold State.noSpace
  repeat' first
    | with_reducible assumption
    | with_reducible apply State.bump_keeps
    | with_reducible apply State.irq_keeps
    | with_reducible apply State.finish_keeps

theorem State.reservePart_keeps {st0 : Inv} {s : State} (h : Keeps st0 s) {tag : Nat} :
    Keeps st0 (State.reservePart s tag) := by
  unfold State.reservePart
  repeat' first
    | with_reducible assumption
    | (extract_lets -underBinder -merge +onlyGivenNames x; refine keepCut (r := st0) (x := x) ?_ (fun hx => ?_); (on_goal 1 => (unfold x; clear x)); (on_goal 2 => clear_value x))
    | (extract_lets -underBinder -merge +onlyGivenNames x; guard_hyp x : SecSt)
    | (extract_lets -underBinder -merge +onlyGivenNames x; clear_value x)
    | with_reducible refine ite_keeps ?_ ?_
    | with_reducible apply State.set_keeps
    | with_reducible apply State.bump_keeps
    | with_reducible apply State.modReq_keeps
    | with_reducible apply State.wakeHeld_keeps
    | with_reducible apply State.noSpace_keeps
    | split
    | (fail_if_no_progress (with_reducible apply Keeps.lit <;> try exact rfl))
    | with_reducible refine snd_ite_keeps ?_ ?_
    | with_reducible refine snd_mk_keeps ?_
    | with_reducible refine pair_keeps (by assumption) ?_
    | intro _
    | beta_reduce

theorem State.writeCheck_keeps {st0 : Inv} {s : State} (h : Keeps st0 s) {tag : Nat}  :
    Keeps st0 (State.writeCheck s tag) := by
  unfold State.writeCheck
  repeat' first
    | with_reducible assumption
    | (extract_lets -underBinder -merge +onlyGivenNames x; clear_value x)
    | with_reducible apply State.modReq_keeps
    | with_reducible apply State.finish_keeps
    | with_reducible apply State.wakeHeld_keeps
    | with_reducible apply State.reservePart_keeps
    | with_reducible apply State.modWrite_keeps
    | split

theorem execWriteCommand_keeps {st0 : Inv} {s : State} (h : Keeps st0 s) {tag : Nat}  :
    ResKeeps st0 (execWriteCommand tag s) := by
  unfold execWriteCommand
  try with_reducible refine ResKeeps.next ?_
  repeat' first
    | with_reducible assumption
    | with_reducible apply State.writeCheck_keeps
    | split

theorem State.landRec_keeps {st0 : Inv} {s : State} (h : Keeps st0 s) {r : Req} {typ : Nat} {lba : Nat} {data : Nat} {idx : Nat} {count : Nat} {ranges : List (Nat × Nat)} :
    Keeps st0 (State.landRec s r typ lba data idx count ranges) := by
  unfold State.landRec
  repeat' first
    | with_reducible assumption
    | (extract_lets -underBinder -merge +onlyGivenNames x; refine keepCut (r := st0) (x := x) ?_ (fun hx => ?_); (on_goal 1 => (unfold x; clear x)); (on_goal 2 => clear_value x))
    | (extract_lets -underBinder -merge +onlyGivenNames x; guard_hyp x : SecSt)
    | (extract_lets -underBinder -merge +onlyGivenNames x; clear_value x)
    | with_reducible refine ite_keeps ?_ ?_
    | with_reducible apply State.modWrite_keeps
    | with_reducible apply State.set_keeps
    | with_reducible apply State.bump_keeps
    | with_reducible apply State.sendPeer_keeps
    | with_reducible apply State.modReq_keeps
    | split
    | (fail_if_no_progress (with_reducible apply Keeps.lit <;> try exact rfl))
    | with_reducible refine snd_ite_keeps ?_ ?_
    | with_reducible refine snd_mk_keeps ?_
    | with_reducible refine pair_keeps (by assumption) ?_
    | intro _
    | beta_reduce

theorem State.modRec_keeps {st0 : Inv} {s : State} (h : Keeps st0 s) {k : Nat} {f : JRec → JRec}  :
    Keeps st0 (State.modRec s k f) := by
  unfold State.modRec
  repeat' first
    | with_reducible assumption
    | with_reducible apply State.modWrite_keeps
    | split

theorem State.retireRec_keeps {st0 : Inv} {s : State} (h : Keeps st0 s) {k : Nat}  :
    Keeps st0 (State.retireRec s k) := by
  unfold State.retireRec
  repeat' first
    | with_reducible assumption
    | (extract_lets -underBinder -merge +onlyGivenNames x; refine keepCut (r := st0) (x := x) ?_ (fun hx => ?_); (on_goal 1 => (unfold x; clear x)); (on_goal 2 => clear_value x))
    | with_reducible apply State.modRec_keeps
    | with_reducible apply State.modWrite_keeps
    | with_reducible apply State.poolGive_keeps
    | with_reducible apply State.bump_keeps
    | split

theorem State.retireReady_keeps {st0 : Inv} {s : State} (h : Keeps st0 s)   :
    Keeps st0 (State.retireReady s) := by
  unfold State.retireReady
  repeat' first
    | with_reducible assumption
    | with_reducible apply State.retireRec_keeps
    | with_reducible refine foldl_keeps ?_ (fun _ _ _ => ?_)

theorem State.supersede_keeps {st0 : Inv} {s : State} (h : Keeps st0 s) {k : Nat} {j : JRec} :
    Keeps st0 (State.supersede s k j) := by
  unfold State.supersede
  repeat' first
    | with_reducible assumption
    | (extract_lets -underBinder -merge +onlyGivenNames x; refine keepCut (r := st0) (x := x) ?_ (fun hx => ?_); (on_goal 1 => (unfold x; clear x)); (on_goal 2 => clear_value x))
    | (extract_lets -underBinder -merge +onlyGivenNames x; guard_hyp x : SecSt)
    | (extract_lets -underBinder -merge +onlyGivenNames x; clear_value x)
    | with_reducible refine ite_keeps ?_ ?_
    | with_reducible apply State.bump_keeps
    | with_reducible apply State.modRec_keeps
    | with_reducible refine foldl_keeps ?_ (fun _ _ _ => ?_)
    | split
    | (fail_if_no_progress (with_reducible apply Keeps.lit <;> try exact rfl))
    | with_reducible refine snd_ite_keeps ?_ ?_
    | with_reducible refine snd_mk_keeps ?_
    | with_reducible refine pair_keeps (by assumption) ?_
    | intro _
    | beta_reduce

theorem State.enterRec_keeps {st0 : Inv} {s : State} (h : Keeps st0 s) {k : Nat} :
    Keeps st0 (State.enterRec s k) := by
  unfold State.enterRec
  repeat' first
    | with_reducible assumption
    | (extract_lets -underBinder -merge +onlyGivenNames x; refine keepCut (r := st0) (x := x) ?_ (fun hx => ?_); (on_goal 1 => (unfold x; clear x)); (on_goal 2 => clear_value x))
    | (extract_lets -underBinder -merge +onlyGivenNames x; guard_hyp x : SecSt)
    | (extract_lets -underBinder -merge +onlyGivenNames x; clear_value x)
    | with_reducible refine ite_keeps ?_ ?_
    | with_reducible apply State.modWrite_keeps
    | with_reducible apply State.modRec_keeps
    | with_reducible apply State.supersede_keeps
    | split
    | (fail_if_no_progress (with_reducible apply Keeps.lit <;> try exact rfl))
    | with_reducible refine snd_ite_keeps ?_ ?_
    | with_reducible refine snd_mk_keeps ?_
    | with_reducible refine pair_keeps (by assumption) ?_
    | intro _
    | beta_reduce

theorem State.wrote_keeps {st0 : Inv} {s : State} (h : Keeps st0 s) {assoc : Nat} {vol : Nat}  :
    Keeps st0 (State.wrote s assoc vol) := by
  unfold State.wrote
  repeat' first
    | with_reducible assumption
    | with_reducible apply State.modWrite_keeps

theorem State.enterCmd_keeps {st0 : Inv} {s : State} (h : Keeps st0 s) {tag : Nat} :
    Keeps st0 (State.enterCmd s tag) := by
  unfold State.enterCmd
  split
  · exact h
  · extract_lets s1 s2 s3 s4 s5
    have h1 : Keeps st0 s1 := foldl_keeps h (fun _ _ ht => State.enterRec_keeps ht)
    have h2 : Keeps st0 s2 := State.modWrite_keeps h1
    have h3 : Keeps st0 s3 := ite_keeps h2 (State.reqGive_keeps h2)
    have h4 : Keeps st0 s4 := ite_keeps h3 (State.wrote_keeps h3)
    have h5 : Keeps st0 s5 := State.modReq_keeps h4
    exact State.wakeHeld_keeps (State.retireReady_keeps h5)

theorem State.tryEnter_keeps {st0 : Inv} {s : State} (h : Keeps st0 s) {tag : Nat}  :
    Keeps st0 (State.tryEnter s tag) := by
  unfold State.tryEnter
  repeat' first
    | with_reducible assumption
    | with_reducible apply State.enterCmd_keeps
    | split

theorem State.landWait_keeps {st0 : Inv} {s : State} (h : Keeps st0 s) {tag : Nat} :
    Keeps st0 (State.landWait s tag) := by
  unfold State.landWait
  exact State.modReq_keeps h

theorem State.landRange_keeps {st0 : Inv} {s : State} (h : Keeps st0 s) {tag : Nat} :
    Keeps st0 (State.landRange s tag) := by
  unfold State.landRange
  repeat' first
    | with_reducible assumption
    | (extract_lets -underBinder -merge +onlyGivenNames x; refine keepCut (r := st0) (x := x) ?_ (fun hx => ?_); (on_goal 1 => (unfold x; clear x)); (on_goal 2 => clear_value x))
    | (extract_lets -underBinder -merge +onlyGivenNames x; guard_hyp x : SecSt)
    | (extract_lets -underBinder -merge +onlyGivenNames x; clear_value x)
    | with_reducible refine ite_keeps ?_ ?_
    | with_reducible apply State.landWait_keeps
    | with_reducible apply State.segRun_keeps
    | with_reducible apply State.modReq_keeps
    | with_reducible apply State.reqGive_keeps
    | with_reducible apply State.landRec_keeps
    | with_reducible apply State.tryEnter_keeps
    | split
    | (fail_if_no_progress (with_reducible apply Keeps.lit <;> try exact rfl))
    | with_reducible refine snd_ite_keeps ?_ ?_
    | with_reducible refine snd_mk_keeps ?_
    | with_reducible refine pair_keeps (by assumption) ?_
    | intro _
    | beta_reduce

theorem State.landRun_keeps {st0 : Inv} {s : State} (h : Keeps st0 s) {r : Req} {idx : Nat} {data : Nat} :
    Keeps st0 (State.landRun s r idx data) := by
  unfold State.landRun
  repeat' first
    | with_reducible assumption
    | (extract_lets -underBinder -merge +onlyGivenNames x; refine keepCut (r := st0) (x := x) ?_ (fun hx => ?_); (on_goal 1 => (unfold x; clear x)); (on_goal 2 => clear_value x))
    | (extract_lets -underBinder -merge +onlyGivenNames x; guard_hyp x : SecSt)
    | (extract_lets -underBinder -merge +onlyGivenNames x; clear_value x)
    | with_reducible refine ite_keeps ?_ ?_
    | with_reducible apply State.givePart_keeps
    | with_reducible apply State.bump_keeps
    | with_reducible apply State.modReq_keeps
    | with_reducible apply State.landRec_keeps
    | with_reducible apply State.tryEnter_keeps
    | split
    | (fail_if_no_progress (with_reducible apply Keeps.lit <;> try exact rfl))
    | with_reducible refine snd_ite_keeps ?_ ?_
    | with_reducible refine snd_mk_keeps ?_
    | with_reducible refine pair_keeps (by assumption) ?_
    | intro _
    | beta_reduce

theorem State.landGo_keeps {st0 : Inv} {s : State} (h : Keeps st0 s) {tag : Nat} {idx : Nat} {data : Nat} :
    Keeps st0 (State.landGo s tag idx data) := by
  unfold State.landGo
  repeat' first
    | with_reducible assumption
    | (extract_lets -underBinder -merge +onlyGivenNames x; refine keepCut (r := st0) (x := x) ?_ (fun hx => ?_); (on_goal 1 => (unfold x; clear x)); (on_goal 2 => clear_value x))
    | (extract_lets -underBinder -merge +onlyGivenNames x; guard_hyp x : SecSt)
    | (extract_lets -underBinder -merge +onlyGivenNames x; clear_value x)
    | with_reducible refine ite_keeps ?_ ?_
    | with_reducible apply State.segRun_keeps
    | with_reducible apply State.landRun_keeps
    | split
    | (fail_if_no_progress (with_reducible apply Keeps.lit <;> try exact rfl))
    | with_reducible refine snd_ite_keeps ?_ ?_
    | with_reducible refine snd_mk_keeps ?_
    | with_reducible refine pair_keeps (by assumption) ?_
    | intro _
    | beta_reduce

theorem State.landsGoOn_keeps {st0 : Inv} {s : State} (h : Keeps st0 s)  :
    Keeps st0 (State.landsGoOn s) := by
  unfold State.landsGoOn
  repeat' first
    | with_reducible assumption
    | with_reducible refine ite_keeps ?_ ?_
    | with_reducible apply State.landRange_keeps
    | with_reducible apply State.landGo_keeps
    | with_reducible refine foldl_keeps ?_ (fun _ _ _ => ?_)
    | split
    | (fail_if_no_progress (with_reducible apply Keeps.lit <;> try exact rfl))
    | with_reducible refine snd_ite_keeps ?_ ?_
    | with_reducible refine snd_mk_keeps ?_
    | with_reducible refine pair_keeps (by assumption) ?_
    | intro _
    | beta_reduce

theorem State.landBlock_keeps {st0 : Inv} {s : State} (h : Keeps st0 s) {tag : Nat} {idx : Nat} {data : Nat} :
    Keeps st0 (State.landBlock s tag idx data) := by
  unfold State.landBlock
  repeat' first
    | with_reducible assumption
    | (extract_lets -underBinder -merge +onlyGivenNames x; refine keepCut (r := st0) (x := x) ?_ (fun hx => ?_); (on_goal 1 => (unfold x; clear x)); (on_goal 2 => clear_value x))
    | (extract_lets -underBinder -merge +onlyGivenNames x; guard_hyp x : SecSt)
    | (extract_lets -underBinder -merge +onlyGivenNames x; clear_value x)
    | with_reducible refine ite_keeps ?_ ?_
    | with_reducible apply State.modReq_keeps
    | with_reducible apply State.landGo_keeps
    | split
    | (fail_if_no_progress (with_reducible apply Keeps.lit <;> try exact rfl))
    | with_reducible refine snd_ite_keeps ?_ ?_
    | with_reducible refine snd_mk_keeps ?_
    | with_reducible refine pair_keeps (by assumption) ?_
    | intro _
    | beta_reduce

theorem State.rangesTrim_keeps {st0 : Inv} {s : State} (h : Keeps st0 s)  :
    Keeps st0 (State.rangesTrim s) := by
  unfold State.rangesTrim
  repeat' first
    | with_reducible assumption
    | (extract_lets -underBinder -merge +onlyGivenNames x; refine keepCut (r := st0) (x := x) ?_ (fun hx => ?_); (on_goal 1 => (unfold x; clear x)); (on_goal 2 => clear_value x))
    | (extract_lets -underBinder -merge +onlyGivenNames x; guard_hyp x : SecSt)
    | (extract_lets -underBinder -merge +onlyGivenNames x; clear_value x)
    | with_reducible apply State.modWrite_keeps
    | split
    | (fail_if_no_progress (with_reducible apply Keeps.lit <;> try exact rfl))
    | with_reducible refine snd_ite_keeps ?_ ?_
    | with_reducible refine snd_mk_keeps ?_
    | with_reducible refine pair_keeps (by assumption) ?_
    | intro _
    | beta_reduce

theorem State.enterUpdates_keeps {st0 : Inv} {s : State} (h : Keeps st0 s)  :
    Keeps st0 (State.enterUpdates s) := by
  unfold State.enterUpdates
  repeat' first
    | with_reducible assumption
    | (extract_lets -underBinder -merge +onlyGivenNames x; refine keepCut (r := st0) (x := x) ?_ (fun hx => ?_); (on_goal 1 => (unfold x; clear x)); (on_goal 2 => clear_value x))
    | (extract_lets -underBinder -merge +onlyGivenNames x; guard_hyp x : SecSt)
    | (extract_lets -underBinder -merge +onlyGivenNames x; clear_value x)
    | with_reducible refine ite_keeps ?_ ?_
    | with_reducible apply State.modWrite_keeps
    | with_reducible apply State.rangesTrim_keeps
    | split
    | (fail_if_no_progress (with_reducible apply Keeps.lit <;> try exact rfl))
    | with_reducible refine snd_ite_keeps ?_ ?_
    | with_reducible refine snd_mk_keeps ?_
    | with_reducible refine pair_keeps (by assumption) ?_
    | intro _
    | beta_reduce

theorem State.enterAll_keeps {st0 : Inv} {s : State} (h : Keeps st0 s) :
    Keeps st0 (State.enterAll s) := by
  unfold State.enterAll
  extract_lets s1
  have h1 : Keeps st0 s1 := State.enterUpdates_keeps (State.modWrite_keeps h)
  exact foldl_keeps h1 (fun _ _ ht => State.tryEnter_keeps ht)

theorem execPeerMirrorRx_keeps {st0 : Inv} {s : State} (h : Keeps st0 s) {rec : MirrorRec} {ok : Bool} :
    ResKeeps st0 (execPeerMirrorRx rec ok s) := by
  unfold execPeerMirrorRx
  try with_reducible refine ResKeeps.next ?_
  repeat' first
    | with_reducible assumption
    | with_reducible refine ite_keeps ?_ ?_
    | with_reducible refine ResKeeps.next ?_
    | with_reducible apply State.modWrite_keeps
    | with_reducible apply State.sendPeer_keeps
    | split
    | (fail_if_no_progress (with_reducible apply Keeps.lit <;> try exact rfl))
    | with_reducible refine snd_ite_keeps ?_ ?_
    | with_reducible refine snd_mk_keeps ?_
    | with_reducible refine pair_keeps (by assumption) ?_
    | intro _
    | beta_reduce

theorem State.mirrored_keeps {st0 : Inv} {s : State} (h : Keeps st0 s) {k : Nat}  :
    Keeps st0 (State.mirrored s k) := by
  unfold State.mirrored
  repeat' first
    | with_reducible assumption
    | with_reducible apply State.modRec_keeps
    | with_reducible apply State.bump_keeps
    | with_reducible apply State.modReq_keeps
    | with_reducible apply State.tryEnter_keeps
    | split

theorem execPeerMirrorAckRx_keeps {st0 : Inv} {s : State} (h : Keeps st0 s) {slots : List Nat} {useqs : List Nat} {bad : List Nat} {badUseqs : List Nat} :
    ResKeeps st0 (execPeerMirrorAckRx slots useqs bad badUseqs s) := by
  unfold execPeerMirrorAckRx
  try with_reducible refine ResKeeps.next ?_
  repeat' first
    | with_reducible assumption
    | (extract_lets -underBinder -merge +onlyGivenNames x; refine keepCut (r := st0) (x := x) ?_ (fun hx => ?_); (on_goal 1 => (unfold x; clear x)); (on_goal 2 => clear_value x))
    | (extract_lets -underBinder -merge +onlyGivenNames x; guard_hyp x : SecSt)
    | (extract_lets -underBinder -merge +onlyGivenNames x; clear_value x)
    | with_reducible refine ite_keeps ?_ ?_
    | with_reducible refine ResKeeps.next ?_
    | with_reducible apply State.modWrite_keeps
    | with_reducible apply State.sendPeer_keeps
    | with_reducible apply State.enterUpdates_keeps
    | with_reducible apply State.mirrored_keeps
    | with_reducible refine foldl_keeps ?_ (fun _ _ _ => ?_)
    | split
    | (fail_if_no_progress (with_reducible apply Keeps.lit <;> try exact rfl))
    | with_reducible refine snd_ite_keeps ?_ ?_
    | with_reducible refine snd_mk_keeps ?_
    | with_reducible refine pair_keeps (by assumption) ?_
    | intro _
    | beta_reduce

theorem execJnlMirrorTimeout_keeps {st0 : Inv} {s : State} (h : Keeps st0 s) {tag : Nat}  :
    ResKeeps st0 (execJnlMirrorTimeout tag s) := by
  unfold execJnlMirrorTimeout
  try with_reducible refine ResKeeps.next ?_
  repeat' first
    | with_reducible assumption
    | with_reducible refine ite_keeps ?_ ?_
    | with_reducible apply State.modWrite_keeps
    | with_reducible apply State.raise_keeps
    | with_reducible apply State.irq_keeps

theorem State.entryNote_keeps {st0 : Inv} {s : State} (h : Keeps st0 s) {beat : Nat} :
    Keeps st0 (State.entryNote s beat) := by
  unfold State.entryNote
  repeat' first
    | with_reducible assumption
    | (extract_lets -underBinder -merge +onlyGivenNames x; refine keepCut (r := st0) (x := x) ?_ (fun hx => ?_); (on_goal 1 => (unfold x; clear x)); (on_goal 2 => clear_value x))
    | (extract_lets -underBinder -merge +onlyGivenNames x; guard_hyp x : SecSt)
    | (extract_lets -underBinder -merge +onlyGivenNames x; clear_value x)
    | with_reducible refine ite_keeps ?_ ?_
    | with_reducible apply State.modPair_keeps
    | with_reducible refine foldl_keeps ?_ (fun _ _ _ => ?_)
    | split
    | (fail_if_no_progress (with_reducible apply Keeps.lit <;> try exact rfl))
    | with_reducible refine snd_ite_keeps ?_ ?_
    | with_reducible refine snd_mk_keeps ?_
    | with_reducible refine pair_keeps (by assumption) ?_
    | intro _
    | beta_reduce

theorem execPeerEntryRx_keeps {st0 : Inv} {s : State} (h : Keeps st0 s) {beat : Nat} {slots : List Nat} :
    ResKeeps st0 (execPeerEntryRx beat slots s) := by
  unfold execPeerEntryRx
  try with_reducible refine ResKeeps.next ?_
  repeat' first
    | with_reducible assumption
    | with_reducible refine ite_keeps ?_ ?_
    | with_reducible refine ResKeeps.next ?_
    | with_reducible apply State.retireReady_keeps
    | with_reducible apply State.enterRec_keeps
    | with_reducible apply State.entryNote_keeps
    | with_reducible refine foldl_keeps ?_ (fun _ _ _ => ?_)
    | split
    | (fail_if_no_progress (with_reducible apply Keeps.lit <;> try exact rfl))
    | with_reducible refine snd_ite_keeps ?_ ?_
    | with_reducible refine snd_mk_keeps ?_
    | with_reducible refine pair_keeps (by assumption) ?_
    | intro _
    | beta_reduce

theorem execPeerHorizonRx_keeps {st0 : Inv} {s : State} (h : Keeps st0 s) {beat : Nat}  :
    ResKeeps st0 (execPeerHorizonRx beat s) := by
  unfold execPeerHorizonRx
  try with_reducible refine ResKeeps.next ?_
  repeat' first
    | with_reducible assumption
    | with_reducible apply State.set_keeps
    | with_reducible apply State.modWrite_keeps

theorem execPeerRetireRx_keeps {st0 : Inv} {s : State} (h : Keeps st0 s) {slots : List Nat}  :
    ResKeeps st0 (execPeerRetireRx slots s) := by
  unfold execPeerRetireRx
  try with_reducible refine ResKeeps.next ?_
  repeat' first
    | with_reducible assumption
    | with_reducible apply State.modWrite_keeps

theorem execPeerPinRx_keeps {st0 : Inv} {s : State} (h : Keeps st0 s) {kind : Nat} {id : Nat}  :
    ResKeeps st0 (execPeerPinRx kind id s) := by
  unfold execPeerPinRx
  try with_reducible refine ResKeeps.next ?_
  repeat' first
    | with_reducible assumption
    | with_reducible apply State.modPair_keeps

theorem execPeerUnpinRx_keeps {st0 : Inv} {s : State} (h : Keeps st0 s) {kind : Nat} {id : Nat}  :
    ResKeeps st0 (execPeerUnpinRx kind id s) := by
  unfold execPeerUnpinRx
  try with_reducible refine ResKeeps.next ?_
  repeat' first
    | with_reducible assumption
    | with_reducible apply State.modPair_keeps
    | with_reducible apply State.retireReady_keeps

theorem execPeerRecFetchRx_keeps {st0 : Inv} {s : State} (h : Keeps st0 s) {slot : Nat} :
    ResKeeps st0 (execPeerRecFetchRx slot s) := by
  unfold execPeerRecFetchRx
  try with_reducible refine ResKeeps.next ?_
  repeat' first
    | with_reducible assumption
    | with_reducible refine ResKeeps.next ?_
    | with_reducible apply State.sendPeer_keeps
    | split
    | (fail_if_no_progress (with_reducible apply Keeps.lit <;> try exact rfl))
    | with_reducible refine snd_ite_keeps ?_ ?_
    | with_reducible refine snd_mk_keeps ?_
    | with_reducible refine pair_keeps (by assumption) ?_
    | intro _
    | beta_reduce

theorem State.defIrq_keeps {st0 : Inv} {s : State} (h : Keeps st0 s)   :
    Keeps st0 (State.defIrq s) := by
  unfold State.defIrq
  repeat' first
    | with_reducible assumption
    | with_reducible apply State.irqIs_keeps
    | with_reducible apply State.set_keeps

theorem State.notice_keeps {st0 : Inv} {s : State} (h : Keeps st0 s) {assoc : Nat} {vol : Nat}  :
    Keeps st0 (State.notice s assoc vol) := by
  unfold State.notice
  repeat' first
    | with_reducible assumption
    | with_reducible refine ite_keeps ?_ ?_
    | with_reducible apply State.modWrite_keeps
    | with_reducible apply State.satInc_keeps

theorem State.assocGone_keeps {st0 : Inv} {s : State} (h : Keeps st0 s) {a : Nat} :
    Keeps st0 (State.assocGone s a) := by
  unfold State.assocGone
  repeat' first
    | with_reducible assumption
    | with_reducible apply State.modWrite_keeps
    | split
    | (fail_if_no_progress (with_reducible apply Keeps.lit <;> try exact rfl))
    | with_reducible refine snd_ite_keeps ?_ ?_
    | with_reducible refine snd_mk_keeps ?_
    | with_reducible refine pair_keeps (by assumption) ?_
    | intro _
    | beta_reduce

theorem State.deferError_keeps {st0 : Inv} {s : State} (h : Keeps st0 s) {cause : Nat} {vol : Nat} {lba : Nat} {count : Nat} :
    Keeps st0 (State.deferError s cause vol lba count) := by
  unfold State.deferError
  repeat' first
    | with_reducible assumption
    | (extract_lets -underBinder -merge +onlyGivenNames x; refine keepCut (r := st0) (x := x) ?_ (fun hx => ?_); (on_goal 1 => (unfold x; clear x)); (on_goal 2 => clear_value x))
    | (extract_lets -underBinder -merge +onlyGivenNames x; guard_hyp x : SecSt)
    | (extract_lets -underBinder -merge +onlyGivenNames x; clear_value x)
    | with_reducible refine ite_keeps ?_ ?_
    | with_reducible apply State.modWrite_keeps
    | with_reducible apply State.satInc_keeps
    | with_reducible apply State.bump_keeps
    | with_reducible apply State.sample_keeps
    | with_reducible apply State.queueEvent_keeps
    | with_reducible apply State.defIrq_keeps
    | with_reducible apply State.notice_keeps
    | with_reducible refine foldl_keeps ?_ (fun _ _ _ => ?_)
    | split
    | (fail_if_no_progress (with_reducible apply Keeps.lit <;> try exact rfl))
    | with_reducible refine snd_ite_keeps ?_ ?_
    | with_reducible refine snd_mk_keeps ?_
    | with_reducible refine pair_keeps (by assumption) ?_
    | intro _
    | beta_reduce

theorem State.takeNotice_keeps {st0 : Inv} {s : State} (h : Keeps st0 s) {assoc : Nat} {vol : Nat}  :
    ∀ t, State.takeNotice s assoc vol = some t → Keeps st0 t := by
  intro t e
  unfold State.takeNotice at e
  try dsimp only at e
  repeat' split at e
  all_goals first
    | (cases e
       (repeat' first
         | with_reducible assumption
         | with_reducible apply State.modWrite_keeps
         | beta_reduce))

theorem execJnlDefQRead_keeps {st0 : Inv} {s : State} (h : Keeps st0 s) {m : Nat} :
    ResKeeps st0 (execJnlDefQRead m s) := by
  unfold execJnlDefQRead
  try with_reducible refine ResKeeps.next ?_
  repeat' first
    | with_reducible assumption
    | with_reducible refine ResKeeps.next ?_
    | with_reducible apply State.modWrite_keeps
    | with_reducible apply State.setAll_keeps
    | with_reducible apply State.answer_keeps
    | with_reducible refine State.busRd_keeps ?_ (fun _ _ => ?_)
    | with_reducible apply State.defIrq_keeps
    | split
    | (fail_if_no_progress (with_reducible apply Keeps.lit <;> try exact rfl))
    | with_reducible refine snd_ite_keeps ?_ ?_
    | with_reducible refine snd_mk_keeps ?_
    | with_reducible refine pair_keeps (by assumption) ?_
    | intro _
    | beta_reduce

theorem State.recLost_keeps {st0 : Inv} {s : State} (h : Keeps st0 s) {k : Nat} {cause : Nat} :
    Keeps st0 (State.recLost s k cause) := by
  unfold State.recLost
  repeat' first
    | with_reducible assumption
    | with_reducible apply State.modRec_keeps
    | with_reducible apply State.deferError_keeps
    | with_reducible refine foldl_keeps ?_ (fun _ _ _ => ?_)
    | split
    | (fail_if_no_progress (with_reducible apply Keeps.lit <;> try exact rfl))
    | with_reducible refine snd_ite_keeps ?_ ?_
    | with_reducible refine snd_mk_keeps ?_
    | with_reducible refine pair_keeps (by assumption) ?_
    | intro _
    | beta_reduce

theorem State.recDataCame_keeps {st0 : Inv} {s : State} (h : Keeps st0 s) {slot : Nat} {data : Nat} {ok : Bool} :
    Keeps st0 (State.recDataCame s slot data ok) := by
  unfold State.recDataCame
  repeat' first
    | with_reducible assumption
    | (extract_lets -underBinder -merge +onlyGivenNames x; refine keepCut (r := st0) (x := x) ?_ (fun hx => ?_); (on_goal 1 => (unfold x; clear x)); (on_goal 2 => clear_value x))
    | (extract_lets -underBinder -merge +onlyGivenNames x; guard_hyp x : SecSt)
    | (extract_lets -underBinder -merge +onlyGivenNames x; clear_value x)
    | with_reducible refine ite_keeps ?_ ?_
    | with_reducible apply State.recGood_keeps
    | with_reducible apply State.modReq_keeps
    | with_reducible apply State.readFail_keeps
    | with_reducible apply State.wakeHeld_keeps
    | with_reducible apply State.modRec_keeps
    | with_reducible apply State.recLost_keeps
    | with_reducible refine foldl_keeps ?_ (fun _ _ _ => ?_)
    | split
    | (fail_if_no_progress (with_reducible apply Keeps.lit <;> try exact rfl))
    | with_reducible refine snd_ite_keeps ?_ ?_
    | with_reducible refine snd_mk_keeps ?_
    | with_reducible refine pair_keeps (by assumption) ?_
    | intro _
    | beta_reduce

theorem execPeerRecDataRx_keeps {st0 : Inv} {s : State} (h : Keeps st0 s) {slot : Nat} {data : Nat} {ok : Bool}  :
    ResKeeps st0 (execPeerRecDataRx slot data ok s) := by
  unfold execPeerRecDataRx
  try with_reducible refine ResKeeps.next ?_
  repeat' first
    | with_reducible assumption
    | with_reducible apply State.recDataCame_keeps

end Sys2Proof.Machine
end

