-- ==== Sys2Proof/Laws/KeepsChunk.lean ====
section
/-! SUPPORT. The operations and commands of Machine/Chunk.lean keep what a state is asked (Laws/Keeps.lean). -/

set_option linter.all false

namespace Sys2Proof.Machine

theorem State.closePage_keeps {st0 : Inv} {s : State} (h : Keeps st0 s) {p : Nat} :
    Keeps st0 (State.closePage s p) := by
  unfold State.closePage
  repeat' first
    | with_reducible assumption
    | with_reducible refine ite_keeps ?_ ?_
    | with_reducible apply State.modWrite_keeps
    | with_reducible apply State.bump_keeps
    | split
    | (fail_if_no_progress (with_reducible apply Keeps.lit <;> try exact rfl))
    | with_reducible refine snd_ite_keeps ?_ ?_
    | with_reducible refine snd_mk_keeps ?_
    | with_reducible refine pair_keeps (by assumption) ?_
    | intro _
    | beta_reduce

theorem State.needStream_keeps {st0 : Inv} {s : State} (h : Keeps st0 s) {v : Nat} :
    Keeps st0 (State.needStream s v) := by
  unfold State.needStream
  repeat' first
    | with_reducible assumption
    | (extract_lets -underBinder -merge +onlyGivenNames x; refine keepCut (r := st0) (x := x) ?_ (fun hx => ?_); (on_goal 1 => (unfold x; clear x)); (on_goal 2 => clear_value x))
    | (extract_lets -underBinder -merge +onlyGivenNames x; guard_hyp x : SecSt)
    | (extract_lets -underBinder -merge +onlyGivenNames x; clear_value x)
    | with_reducible refine ite_keeps ?_ ?_
    | with_reducible apply State.closePage_keeps
    | with_reducible apply State.modWrite_keeps
    | with_reducible refine foldl_keeps ?_ (fun _ _ _ => ?_)
    | split
    | (fail_if_no_progress (with_reducible apply Keeps.lit <;> try exact rfl))
    | with_reducible refine snd_ite_keeps ?_ ?_
    | with_reducible refine snd_mk_keeps ?_
    | with_reducible refine pair_keeps (by assumption) ?_
    | intro _
    | beta_reduce

theorem State.pageAdd_keeps {st0 : Inv} {s : State} (h : Keeps st0 s) {e : RcpEnt} {p : Nat} :
    Keeps st0 (State.pageAdd s e p) := by
  unfold State.pageAdd
  repeat' first
    | with_reducible assumption
    | (extract_lets -underBinder -merge +onlyGivenNames x; refine keepCut (r := st0) (x := x) ?_ (fun hx => ?_); (on_goal 1 => (unfold x; clear x)); (on_goal 2 => clear_value x))
    | (extract_lets -underBinder -merge +onlyGivenNames x; guard_hyp x : SecSt)
    | (extract_lets -underBinder -merge +onlyGivenNames x; clear_value x)
    | with_reducible refine ite_keeps ?_ ?_
    | with_reducible apply State.closePage_keeps
    | with_reducible apply State.modWrite_keeps
    | split
    | (fail_if_no_progress (with_reducible apply Keeps.lit <;> try exact rfl))
    | with_reducible refine snd_ite_keeps ?_ ?_
    | with_reducible refine snd_mk_keeps ?_
    | with_reducible refine pair_keeps (by assumption) ?_
    | intro _
    | beta_reduce

theorem State.streamAdd_keeps {st0 : Inv} {s : State} (h : Keeps st0 s) {v : Nat} {e : RcpEnt} :
    Keeps st0 (State.streamAdd s v e) := by
  unfold State.streamAdd
  repeat' first
    | with_reducible assumption
    | (extract_lets -underBinder -merge +onlyGivenNames x; refine keepCut (r := st0) (x := x) ?_ (fun hx => ?_); (on_goal 1 => (unfold x; clear x)); (on_goal 2 => clear_value x))
    | (extract_lets -underBinder -merge +onlyGivenNames x; guard_hyp x : SecSt)
    | (extract_lets -underBinder -merge +onlyGivenNames x; clear_value x)
    | with_reducible apply State.modWrite_keeps
    | with_reducible apply State.pageAdd_keeps
    | with_reducible refine foldl_keeps ?_ (fun _ _ _ => ?_)
    | split
    | (fail_if_no_progress (with_reducible apply Keeps.lit <;> try exact rfl))
    | with_reducible refine snd_ite_keeps ?_ ?_
    | with_reducible refine snd_mk_keeps ?_
    | with_reducible refine pair_keeps (by assumption) ?_
    | intro _
    | beta_reduce

theorem State.joinSet_keeps {st0 : Inv} {s : State} (h : Keeps st0 s) {v : Nat} {p : Nat}  :
    Keeps st0 (State.joinSet s v p) := by
  unfold State.joinSet
  repeat' first
    | with_reducible assumption
    | with_reducible apply State.modWrite_keeps

theorem State.swatchLook_keeps {st0 : Inv} {s : State} (h : Keeps st0 s) {fp : Nat} {vat : Nat}  :
    Keeps st0 (State.swatchLook s fp vat).2 := by
  unfold State.swatchLook
  repeat' first
    | with_reducible assumption
    | (extract_lets -underBinder -merge +onlyGivenNames x; refine keepCut (r := st0) (x := x) ?_ (fun hx => ?_); (on_goal 1 => (unfold x; clear x)); (on_goal 2 => clear_value x))
    | with_reducible apply State.bump_keeps
    | with_reducible apply State.modWrite_keeps
    | split

theorem State.swatchInsert_keeps {st0 : Inv} {s : State} (h : Keeps st0 s) {fp : Nat} {vat : Nat} {vol : Nat} :
    Keeps st0 (State.swatchInsert s fp vat vol) := by
  unfold State.swatchInsert
  repeat' first
    | with_reducible assumption
    | (extract_lets -underBinder -merge +onlyGivenNames x; refine keepCut (r := st0) (x := x) ?_ (fun hx => ?_); (on_goal 1 => (unfold x; clear x)); (on_goal 2 => clear_value x))
    | (extract_lets -underBinder -merge +onlyGivenNames x; guard_hyp x : SecSt)
    | (extract_lets -underBinder -merge +onlyGivenNames x; clear_value x)
    | with_reducible refine ite_keeps ?_ ?_
    | with_reducible apply State.place_keeps
    | with_reducible apply State.modWrite_keeps
    | with_reducible apply State.bump_keeps
    | split
    | (fail_if_no_progress (with_reducible apply Keeps.lit <;> try exact rfl))
    | with_reducible refine snd_ite_keeps ?_ ?_
    | with_reducible refine snd_mk_keeps ?_
    | with_reducible refine pair_keeps (by assumption) ?_
    | intro _
    | beta_reduce

theorem State.modJob_keeps {st0 : Inv} {s : State} (h : Keeps st0 s) {j : Nat} {f : CJob → CJob}  :
    Keeps st0 (State.modJob s j f) := by
  unfold State.modJob
  repeat' first
    | with_reducible assumption
    | with_reducible apply State.modWrite_keeps
    | split

theorem State.takeCid_keeps {st0 : Inv} {s : State} (h : Keeps st0 s)   :
    Keeps st0 (State.takeCid s).2 := by
  unfold State.takeCid
  repeat' first
    | with_reducible assumption
    | (extract_lets -underBinder -merge +onlyGivenNames x; clear_value x)
    | with_reducible apply State.setAll_keeps
    | with_reducible apply State.set_keeps
    | split

theorem State.rsvDone_keeps {st0 : Inv} {s : State} (h : Keeps st0 s) {tag : Nat} {part : Nat} :
    Keeps st0 (State.rsvDone s tag part) := by
  unfold State.rsvDone
  repeat' first
    | with_reducible assumption
    | (extract_lets -underBinder -merge +onlyGivenNames x; refine keepCut (r := st0) (x := x) ?_ (fun hx => ?_); (on_goal 1 => (unfold x; clear x)); (on_goal 2 => clear_value x))
    | (extract_lets -underBinder -merge +onlyGivenNames x; guard_hyp x : SecSt)
    | (extract_lets -underBinder -merge +onlyGivenNames x; clear_value x)
    | with_reducible refine ite_keeps ?_ ?_
    | with_reducible apply State.stage_keeps
    | with_reducible apply State.modWrite_keeps
    | with_reducible apply State.drop_keeps
    | split
    | (fail_if_no_progress (with_reducible apply Keeps.lit <;> try exact rfl))
    | with_reducible refine snd_ite_keeps ?_ ?_
    | with_reducible refine snd_mk_keeps ?_
    | with_reducible refine pair_keeps (by assumption) ?_
    | intro _
    | beta_reduce

theorem State.rsvUse_keeps {st0 : Inv} {s : State} (h : Keeps st0 s) {key : Nat} {n : Nat} :
    Keeps st0 (State.rsvUse s key n) := by
  unfold State.rsvUse
  repeat' first
    | with_reducible assumption
    | (extract_lets -underBinder -merge +onlyGivenNames x; refine keepCut (r := st0) (x := x) ?_ (fun hx => ?_); (on_goal 1 => (unfold x; clear x)); (on_goal 2 => clear_value x))
    | (extract_lets -underBinder -merge +onlyGivenNames x; guard_hyp x : SecSt)
    | (extract_lets -underBinder -merge +onlyGivenNames x; clear_value x)
    | with_reducible refine ite_keeps ?_ ?_
    | with_reducible apply State.modWrite_keeps
    | with_reducible apply State.drop_keeps
    | split
    | (fail_if_no_progress (with_reducible apply Keeps.lit <;> try exact rfl))
    | with_reducible refine snd_ite_keeps ?_ ?_
    | with_reducible refine snd_mk_keeps ?_
    | with_reducible refine pair_keeps (by assumption) ?_
    | intro _
    | beta_reduce

theorem State.encBegin_keeps {st0 : Inv} {s : State} (h : Keeps st0 s) {j : Nat} {x : CJob} :
    Keeps st0 (State.encBegin s j x) := by
  unfold State.encBegin
  repeat' first
    | with_reducible assumption
    | with_reducible refine ite_keeps ?_ ?_
    | with_reducible apply State.modJob_keeps
    | split
    | (fail_if_no_progress (with_reducible apply Keeps.lit <;> try exact rfl))
    | with_reducible refine snd_ite_keeps ?_ ?_
    | with_reducible refine snd_mk_keeps ?_
    | with_reducible refine pair_keeps (by assumption) ?_
    | intro _
    | beta_reduce

theorem State.encPass_keeps {st0 : Inv} {s : State} (h : Keeps st0 s) {j : Nat} {x : CJob} :
    Keeps st0 (State.encPass s j x).2 := by
  unfold State.encPass
  repeat' first
    | with_reducible assumption
    | (extract_lets -underBinder -merge +onlyGivenNames x; refine keepCut (r := st0) (x := x) ?_ (fun hx => ?_); (on_goal 1 => (unfold x; clear x)); (on_goal 2 => clear_value x))
    | (extract_lets -underBinder -merge +onlyGivenNames x; guard_hyp x : SecSt)
    | (extract_lets -underBinder -merge +onlyGivenNames x; clear_value x)
    | with_reducible refine ite_keeps ?_ ?_
    | with_reducible apply State.encBegin_keeps
    | with_reducible apply State.segRun_keeps
    | with_reducible apply State.keyWait_keeps
    | split
    | (fail_if_no_progress (with_reducible apply Keeps.lit <;> try exact rfl))
    | with_reducible refine snd_ite_keeps ?_ ?_
    | with_reducible refine snd_mk_keeps ?_
    | with_reducible refine pair_keeps (by assumption) ?_
    | intro _
    | beta_reduce

theorem State.placeJob_keeps {st0 : Inv} {s : State} (h : Keeps st0 s) {j : Nat} :
    Keeps st0 (State.placeJob s j) := by
  unfold State.placeJob
  repeat' first
    | with_reducible assumption
    | (extract_lets -underBinder -merge +onlyGivenNames x; refine keepCut (r := st0) (x := x) ?_ (fun hx => ?_); (on_goal 1 => (unfold x; clear x)); (on_goal 2 => clear_value x))
    | (extract_lets -underBinder -merge +onlyGivenNames x; guard_hyp x : SecSt)
    | (extract_lets -underBinder -merge +onlyGivenNames x; clear_value x)
    | with_reducible refine ite_keeps ?_ ?_
    | with_reducible apply State.openBandFor_keeps
    | with_reducible apply State.place_keeps
    | with_reducible apply State.modJob_keeps
    | with_reducible apply State.rsvDone_keeps
    | with_reducible apply State.rsvUse_keeps
    | with_reducible apply State.encPass_keeps
    | with_reducible apply State.unstage_keeps
    | with_reducible apply State.bump_keeps
    | split
    | (fail_if_no_progress (with_reducible apply Keeps.lit <;> try exact rfl))
    | with_reducible refine snd_ite_keeps ?_ ?_
    | with_reducible refine snd_mk_keeps ?_
    | with_reducible refine pair_keeps (by assumption) ?_
    | intro _
    | beta_reduce

theorem State.storeRaw_keeps {st0 : Inv} {s : State} (h : Keeps st0 s) {j : Nat} :
    Keeps st0 (State.storeRaw s j) := by
  unfold State.storeRaw
  repeat' first
    | with_reducible assumption
    | with_reducible apply State.modJob_keeps
    | with_reducible apply State.placeJob_keeps
    | with_reducible apply State.bump_keeps
    | split
    | (fail_if_no_progress (with_reducible apply Keeps.lit <;> try exact rfl))
    | with_reducible refine snd_ite_keeps ?_ ?_
    | with_reducible refine snd_mk_keeps ?_
    | with_reducible refine pair_keeps (by assumption) ?_
    | intro _
    | beta_reduce

theorem State.bindDefl_keeps {st0 : Inv} {s : State} (h : Keeps st0 s) {j : Nat} :
    Keeps st0 (State.bindDefl s j) := by
  unfold State.bindDefl
  repeat' first
    | with_reducible assumption
    | (extract_lets -underBinder -merge +onlyGivenNames x; refine keepCut (r := st0) (x := x) ?_ (fun hx => ?_); (on_goal 1 => (unfold x; clear x)); (on_goal 2 => clear_value x))
    | (extract_lets -underBinder -merge +onlyGivenNames x; guard_hyp x : SecSt)
    | (extract_lets -underBinder -merge +onlyGivenNames x; clear_value x)
    | with_reducible refine ite_keeps ?_ ?_
    | with_reducible apply State.modJob_keeps
    | with_reducible apply State.storeRaw_keeps
    | with_reducible apply State.modSlice_keeps
    | split
    | (fail_if_no_progress (with_reducible apply Keeps.lit <;> try exact rfl))
    | with_reducible refine snd_ite_keeps ?_ ?_
    | with_reducible refine snd_mk_keeps ?_
    | with_reducible refine pair_keeps (by assumption) ?_
    | intro _
    | beta_reduce

theorem State.landMap_keeps {st0 : Inv} {s : State} (h : Keeps st0 s) {k : Option Nat} {vol : Nat} {lba : Nat} {e : MapEnt} {entBeat : Nat}  :
    Keeps st0 (State.landMap s k vol lba e entBeat) := by
  unfold State.landMap
  repeat' first
    | with_reducible assumption
    | with_reducible refine ite_keeps ?_ ?_
    | with_reducible apply State.land_keeps

theorem State.landRefs_keeps {st0 : Inv} {s : State} (h : Keeps st0 s) {x : CJob} {e : MapEnt}  :
    Keeps st0 (State.landRefs s x e) := by
  unfold State.landRefs
  repeat' first
    | with_reducible assumption
    | with_reducible apply State.landMap_keeps
    | with_reducible refine foldl_keeps ?_ (fun _ _ _ => ?_)

theorem State.linkKnown_keeps {st0 : Inv} {s : State} (h : Keeps st0 s) {x : CJob} {cid : Nat}  :
    Keeps st0 (State.linkKnown s x cid) := by
  unfold State.linkKnown
  repeat' first
    | with_reducible assumption
    | (fail_if_no_progress (with_reducible apply Keeps.lit <;> try exact rfl))

theorem State.newChunk_keeps {st0 : Inv} {s : State} (h : Keeps st0 s) {j : Nat} {insert : Bool} :
    Keeps st0 (State.newChunk s j insert) := by
  unfold State.newChunk
  repeat' first
    | with_reducible assumption
    | (extract_lets -underBinder -merge +onlyGivenNames x; refine keepCut (r := st0) (x := x) ?_ (fun hx => ?_); (on_goal 1 => (unfold x; clear x)); (on_goal 2 => clear_value x))
    | (extract_lets -underBinder -merge +onlyGivenNames x; guard_hyp x : SecSt)
    | (extract_lets -underBinder -merge +onlyGivenNames x; clear_value x)
    | with_reducible refine ite_keeps ?_ ?_
    | with_reducible apply State.streamAdd_keeps
    | with_reducible apply State.swatchInsert_keeps
    | with_reducible apply State.modJob_keeps
    | with_reducible apply State.takeCid_keeps
    | with_reducible apply State.storeRaw_keeps
    | with_reducible apply State.landRefs_keeps
    | with_reducible apply State.linkKnown_keeps
    | with_reducible apply State.stage_keeps
    | with_reducible apply State.modWrite_keeps
    | with_reducible apply State.bump_keeps
    | with_reducible apply State.bindDefl_keeps
    | split
    | (fail_if_no_progress (with_reducible apply Keeps.lit <;> try exact rfl))
    | with_reducible refine snd_ite_keeps ?_ ?_
    | with_reducible refine snd_mk_keeps ?_
    | with_reducible refine pair_keeps (by assumption) ?_
    | intro _
    | beta_reduce

theorem State.dupChunk_keeps {st0 : Inv} {s : State} (h : Keeps st0 s) {j : Nat} {cid : Nat} :
    Keeps st0 (State.dupChunk s j cid) := by
  unfold State.dupChunk
  repeat' first
    | with_reducible assumption
    | with_reducible apply State.streamAdd_keeps
    | with_reducible apply State.modJob_keeps
    | with_reducible apply State.rsvDone_keeps
    | with_reducible apply State.stage_keeps
    | with_reducible apply State.unstage_keeps
    | with_reducible apply State.bump_keeps
    | split
    | (fail_if_no_progress (with_reducible apply Keeps.lit <;> try exact rfl))
    | with_reducible refine snd_ite_keeps ?_ ?_
    | with_reducible refine snd_mk_keeps ?_
    | with_reducible refine pair_keeps (by assumption) ?_
    | intro _
    | beta_reduce

theorem State.candidate_keeps {st0 : Inv} {s : State} (h : Keeps st0 s) {j : Nat} {x : CJob} {e : RcpEnt}  :
    Keeps st0 (State.candidate s j x e) := by
  unfold State.candidate
  repeat' first
    | with_reducible assumption
    | with_reducible refine ite_keeps ?_ ?_
    | with_reducible apply State.dupChunk_keeps
    | with_reducible apply State.bump_keeps
    | with_reducible apply State.newChunk_keeps

theorem State.loadPage_keeps {st0 : Inv} {s : State} (h : Keeps st0 s) {j : Nat} {p : Nat}  :
    Keeps st0 (State.loadPage s j p) := by
  unfold State.loadPage
  repeat' first
    | with_reducible assumption
    | with_reducible apply State.bump_keeps
    | with_reducible apply State.modJob_keeps

theorem State.decideJob_keeps {st0 : Inv} {s : State} (h : Keeps st0 s) {j : Nat} :
    Keeps st0 (State.decideJob s j) := by
  unfold State.decideJob
  repeat' first
    | with_reducible assumption
    | (extract_lets -underBinder -merge +onlyGivenNames x; refine keepCut (r := st0) (x := x) ?_ (fun hx => ?_); (on_goal 1 => (unfold x; clear x)); (on_goal 2 => clear_value x))
    | (extract_lets -underBinder -merge +onlyGivenNames x; guard_hyp x : SecSt)
    | (extract_lets -underBinder -merge +onlyGivenNames x; clear_value x)
    | with_reducible refine ite_keeps ?_ ?_
    | with_reducible apply State.swatchLook_keeps
    | with_reducible apply State.modJob_keeps
    | with_reducible apply State.newChunk_keeps
    | with_reducible apply State.candidate_keeps
    | with_reducible apply State.loadPage_keeps
    | with_reducible apply State.bump_keeps
    | with_reducible apply State.sendPeer_keeps
    | split
    | (fail_if_no_progress (with_reducible apply Keeps.lit <;> try exact rfl))
    | with_reducible refine snd_ite_keeps ?_ ?_
    | with_reducible refine snd_mk_keeps ?_
    | with_reducible refine pair_keeps (by assumption) ?_
    | intro _
    | beta_reduce

theorem State.startJob_keeps {st0 : Inv} {s : State} (h : Keeps st0 s) {tag : Nat} {part : Nat} {vol : Nat} {vat : Nat} {slice : Nat} {slots : List Nat} :
    Keeps st0 (State.startJob s tag part vol vat slice slots) := by
  unfold State.startJob
  repeat' first
    | with_reducible assumption
    | (extract_lets -underBinder -merge +onlyGivenNames x; refine keepCut (r := st0) (x := x) ?_ (fun hx => ?_); (on_goal 1 => (unfold x; clear x)); (on_goal 2 => clear_value x))
    | (extract_lets -underBinder -merge +onlyGivenNames x; guard_hyp x : SecSt)
    | (extract_lets -underBinder -merge +onlyGivenNames x; clear_value x)
    | with_reducible apply State.needStream_keeps
    | with_reducible apply State.decideJob_keeps
    | with_reducible apply State.stage_keeps
    | with_reducible apply State.modWrite_keeps
    | with_reducible apply State.bump_keeps
    | split
    | (fail_if_no_progress (with_reducible apply Keeps.lit <;> try exact rfl))
    | with_reducible refine snd_ite_keeps ?_ ?_
    | with_reducible refine snd_mk_keeps ?_
    | with_reducible refine pair_keeps (by assumption) ?_
    | intro _
    | beta_reduce

theorem State.startLinkJob_keeps {st0 : Inv} {s : State} (h : Keeps st0 s) {link : Nat} {vol : Nat} {vat : Nat} {fp : Nat} {orig : Nat} {refOnly : Bool} {lbas : List (Nat × Nat)}  :
    Keeps st0 (State.startLinkJob s link vol vat fp orig refOnly lbas) := by
  unfold State.startLinkJob
  repeat' first
    | with_reducible assumption
    | with_reducible apply State.modWrite_keeps
    | with_reducible apply State.needStream_keeps
    | with_reducible apply State.decideJob_keeps

theorem State.abandon_keeps {st0 : Inv} {s : State} (h : Keeps st0 s) {b : Nat} {units : Nat}  :
    Keeps st0 (State.abandon s b units) := by
  unfold State.abandon
  repeat' first
    | with_reducible assumption
    | with_reducible apply State.modBand_keeps
    | with_reducible apply State.bump_keeps

theorem State.commitJob_keeps {st0 : Inv} {s : State} (h : Keeps st0 s) {j : Nat} :
    Keeps st0 (State.commitJob s j) := by
  unfold State.commitJob
  repeat' first
    | with_reducible assumption
    | (extract_lets -underBinder -merge +onlyGivenNames x; refine keepCut (r := st0) (x := x) ?_ (fun hx => ?_); (on_goal 1 => (unfold x; clear x)); (on_goal 2 => clear_value x))
    | (extract_lets -underBinder -merge +onlyGivenNames x; guard_hyp x : SecSt)
    | (extract_lets -underBinder -merge +onlyGivenNames x; clear_value x)
    | with_reducible refine ite_keeps ?_ ?_
    | with_reducible apply State.place_keeps
    | with_reducible apply State.landMap_keeps
    | with_reducible apply State.landRefs_keeps
    | with_reducible apply State.linkKnown_keeps
    | with_reducible apply State.abandon_keeps
    | with_reducible apply State.stage_keeps
    | with_reducible apply State.modWrite_keeps
    | with_reducible apply State.land_keeps
    | with_reducible apply State.groupFrom_keeps
    | with_reducible refine foldl_keeps ?_ (fun _ _ _ => ?_)
    | split
    | (fail_if_no_progress (with_reducible apply Keeps.lit <;> try exact rfl))
    | with_reducible refine snd_ite_keeps ?_ ?_
    | with_reducible refine snd_mk_keeps ?_
    | with_reducible refine pair_keeps (by assumption) ?_
    | intro _
    | beta_reduce

theorem State.releasePageRefs_keeps {st0 : Inv} {s : State} (h : Keeps st0 s) {vol : Nat} {lba : Nat}  :
    Keeps st0 (State.releasePageRefs s vol lba) := by
  unfold State.releasePageRefs
  repeat' first
    | with_reducible assumption
    | with_reducible apply State.land_keeps
    | with_reducible refine foldl_keeps ?_ (fun _ _ _ => ?_)

theorem State.commitRange_keeps {st0 : Inv} {s : State} (h : Keeps st0 s) {k : Nat} {j : JRec} :
    Keeps st0 (State.commitRange s k j) := by
  unfold State.commitRange
  repeat' first
    | with_reducible assumption
    | (extract_lets -underBinder -merge +onlyGivenNames x; refine keepCut (r := st0) (x := x) ?_ (fun hx => ?_); (on_goal 1 => (unfold x; clear x)); (on_goal 2 => clear_value x))
    | (extract_lets -underBinder -merge +onlyGivenNames x; guard_hyp x : SecSt)
    | (extract_lets -underBinder -merge +onlyGivenNames x; clear_value x)
    | with_reducible refine ite_keeps ?_ ?_
    | with_reducible apply State.landMap_keeps
    | with_reducible apply State.releasePageRefs_keeps
    | with_reducible apply State.land_keeps
    | with_reducible apply State.groupFrom_keeps
    | with_reducible apply State.modRec_keeps
    | with_reducible apply State.rangesTrim_keeps
    | with_reducible refine foldl_keeps ?_ (fun _ _ _ => ?_)
    | split
    | (fail_if_no_progress (with_reducible apply Keeps.lit <;> try exact rfl))
    | with_reducible refine snd_ite_keeps ?_ ?_
    | with_reducible refine snd_mk_keeps ?_
    | with_reducible refine pair_keeps (by assumption) ?_
    | intro _
    | beta_reduce

theorem State.retireCommitted_keeps {st0 : Inv} [st0.Writes] {s : State} (h : Keeps st0 s) {k : Nat}  :
    Keeps st0 (State.retireCommitted s k) := by
  unfold State.retireCommitted
  repeat' first
    | with_reducible assumption
    | with_reducible apply State.retireRec_keeps
    | split

theorem State.runChunks_keeps {st0 : Inv} {s : State} (h : Keeps st0 s) {tag : Nat} {part : Nat} {slice : Nat} {j0 : JRec} {failed : List Nat} {run : List (Nat × JRec)} :
    Keeps st0 (State.runChunks s tag part slice j0 failed run) := by
  unfold State.runChunks
  repeat' first
    | with_reducible assumption
    | (extract_lets -underBinder -merge +onlyGivenNames x; refine keepCut (r := st0) (x := x) ?_ (fun hx => ?_); (on_goal 1 => (unfold x; clear x)); (on_goal 2 => clear_value x))
    | (extract_lets -underBinder -merge +onlyGivenNames x; guard_hyp x : SecSt)
    | (extract_lets -underBinder -merge +onlyGivenNames x; clear_value x)
    | with_reducible refine ite_keeps ?_ ?_
    | with_reducible apply State.rsvDone_keeps
    | with_reducible apply State.startJob_keeps
    | with_reducible apply State.authFail_keeps
    | with_reducible apply State.modWrite_keeps
    | with_reducible apply State.bump_keeps
    | with_reducible apply State.sendPeer_keeps
    | with_reducible apply State.poolGive_keeps
    | with_reducible apply State.modRec_keeps
    | with_reducible apply State.recLost_keeps
    | with_reducible refine foldl_keeps ?_ (fun _ _ _ => ?_)
    | split
    | (fail_if_no_progress (with_reducible apply Keeps.lit <;> try exact rfl))
    | with_reducible refine snd_ite_keeps ?_ ?_
    | with_reducible refine snd_mk_keeps ?_
    | with_reducible refine pair_keeps (by assumption) ?_
    | intro _
    | beta_reduce

theorem State.runPass_keeps {st0 : Inv} {s : State} (h : Keeps st0 s) {tag : Nat} {part : Nat} {j0 : JRec} {failed : List Nat} {run : List (Nat × JRec)} :
    Keeps st0 (State.runPass s tag part j0 failed run) := by
  unfold State.runPass
  extract_lets slice s1
  have h1 : Keeps st0 s1 := ite_keeps (State.modWrite_keeps h) h
  clear_value s1
  split
  · exact ite_keeps h1 (State.keyAsk_keeps h1)
  · split
    rename_i ran s2 e
    have h2 : Keeps st0 s2 := pair_keeps e (State.segRun_keeps h1)
    exact ite_keeps (State.runChunks_keeps h2) h2

theorem execChunkRun_keeps {r : Inv} [r.Writes] {s : State} (h : Keeps r s) {tag : Nat} {failed : List Nat} : ResKeeps r (execChunkRun tag failed s) := by
  unfold execChunkRun
  refine ResKeeps.next ?_
  extract_lets -underBinder -merge +onlyGivenNames mine
  clear_value mine
  split
  · exact ite_keeps (State.retireCommitted_keeps (State.commitRange_keeps h)) h
  · split
    · exact h
    · exact State.runPass_keeps h

theorem execPeerSwxQueryRx_keeps {st0 : Inv} {s : State} (h : Keeps st0 s) {qtag : Nat} {fp : Nat} {vat : Nat}  :
    ResKeeps st0 (execPeerSwxQueryRx qtag fp vat s) := by
  unfold execPeerSwxQueryRx
  try with_reducible refine ResKeeps.next ?_
  repeat' first
    | with_reducible assumption
    | with_reducible apply State.swatchLook_keeps
    | with_reducible apply State.sendPeer_keeps
    | split
    | with_reducible refine pair_keeps (by assumption) ?_

theorem execPeerSwxAnswerRx_keeps {st0 : Inv} {s : State} (h : Keeps st0 s) {job : Nat} {hit : Bool} {recipe : Nat} :
    ResKeeps st0 (execPeerSwxAnswerRx job hit recipe s) := by
  unfold execPeerSwxAnswerRx
  try with_reducible refine ResKeeps.next ?_
  repeat' first
    | with_reducible assumption
    | with_reducible refine ite_keeps ?_ ?_
    | with_reducible refine ResKeeps.next ?_
    | with_reducible apply State.newChunk_keeps
    | with_reducible apply State.loadPage_keeps
    | with_reducible apply State.stage_keeps
    | split
    | (fail_if_no_progress (with_reducible apply Keeps.lit <;> try exact rfl))
    | with_reducible refine snd_ite_keeps ?_ ?_
    | with_reducible refine snd_mk_keeps ?_
    | with_reducible refine pair_keeps (by assumption) ?_
    | intro _
    | beta_reduce

theorem execRecipePageLoaded_keeps {st0 : Inv} {s : State} (h : Keeps st0 s) {job : Nat} {ok : Bool} {vat : Nat} {entries : List (Nat × Nat × Nat)} :
    ResKeeps st0 (execRecipePageLoaded job ok vat entries s) := by
  unfold execRecipePageLoaded
  try with_reducible refine ResKeeps.next ?_
  repeat' first
    | with_reducible assumption
    | (extract_lets -underBinder -merge +onlyGivenNames x; refine keepCut (r := st0) (x := x) ?_ (fun hx => ?_); (on_goal 1 => (unfold x; clear x)); (on_goal 2 => clear_value x))
    | (extract_lets -underBinder -merge +onlyGivenNames x; guard_hyp x : SecSt)
    | (extract_lets -underBinder -merge +onlyGivenNames x; clear_value x)
    | with_reducible refine ite_keeps ?_ ?_
    | with_reducible refine ResKeeps.next ?_
    | with_reducible apply State.joinSet_keeps
    | with_reducible apply State.newChunk_keeps
    | with_reducible apply State.candidate_keeps
    | with_reducible apply State.stage_keeps
    | with_reducible apply State.modWrite_keeps
    | with_reducible apply State.bump_keeps
    | split
    | (fail_if_no_progress (with_reducible apply Keeps.lit <;> try exact rfl))
    | with_reducible refine snd_ite_keeps ?_ ?_
    | with_reducible refine snd_mk_keeps ?_
    | with_reducible refine pair_keeps (by assumption) ?_
    | intro _
    | beta_reduce

theorem execRecipePageClose_keeps {st0 : Inv} {s : State} (h : Keeps st0 s) {page : Nat}  :
    ResKeeps st0 (execRecipePageClose page s) := by
  unfold execRecipePageClose
  try with_reducible refine ResKeeps.next ?_
  repeat' first
    | with_reducible assumption
    | with_reducible apply State.closePage_keeps
    | split

theorem State.compressed_keeps {st0 : Inv} {s : State} (h : Keeps st0 s) {j : Nat} {x : CJob} {stream : List Nat} :
    Keeps st0 (State.compressed s j x stream) := by
  unfold State.compressed
  repeat' first
    | with_reducible assumption
    | (extract_lets -underBinder -merge +onlyGivenNames x; refine keepCut (r := st0) (x := x) ?_ (fun hx => ?_); (on_goal 1 => (unfold x; clear x)); (on_goal 2 => clear_value x))
    | (extract_lets -underBinder -merge +onlyGivenNames x; guard_hyp x : SecSt)
    | (extract_lets -underBinder -merge +onlyGivenNames x; clear_value x)
    | with_reducible refine ite_keeps ?_ ?_
    | with_reducible apply State.modJob_keeps
    | with_reducible apply State.placeJob_keeps
    | with_reducible apply State.storeRaw_keeps
    | with_reducible apply State.stage_keeps
    | with_reducible apply State.unstage_keeps
    | with_reducible apply State.deflDone_keeps
    | with_reducible apply State.satInc_keeps
    | split
    | (fail_if_no_progress (with_reducible apply Keeps.lit <;> try exact rfl))
    | with_reducible refine snd_ite_keeps ?_ ?_
    | with_reducible refine snd_mk_keeps ?_
    | with_reducible refine pair_keeps (by assumption) ?_
    | intro _
    | beta_reduce

theorem execCompressJobEnd_keeps {st0 : Inv} {s : State} (h : Keeps st0 s) {job : Nat} {stream : List Nat} :
    ResKeeps st0 (execCompressJobEnd job stream s) := by
  unfold execCompressJobEnd
  try with_reducible refine ResKeeps.next ?_
  repeat' first
    | with_reducible assumption
    | (extract_lets -underBinder -merge +onlyGivenNames x; refine keepCut (r := st0) (x := x) ?_ (fun hx => ?_); (on_goal 1 => (unfold x; clear x)); (on_goal 2 => clear_value x))
    | (extract_lets -underBinder -merge +onlyGivenNames x; guard_hyp x : SecSt)
    | (extract_lets -underBinder -merge +onlyGivenNames x; clear_value x)
    | with_reducible refine ite_keeps ?_ ?_
    | with_reducible refine ResKeeps.next ?_
    | with_reducible apply State.compressed_keeps
    | with_reducible apply State.unitRun_keeps
    | with_reducible apply State.bump_keeps
    | split
    | (fail_if_no_progress (with_reducible apply Keeps.lit <;> try exact rfl))
    | with_reducible refine snd_ite_keeps ?_ ?_
    | with_reducible refine snd_mk_keeps ?_
    | with_reducible refine pair_keeps (by assumption) ?_
    | intro _
    | beta_reduce

theorem State.partsTrim_keeps {st0 : Inv} {s : State} (h : Keeps st0 s)  :
    Keeps st0 (State.partsTrim s) := by
  unfold State.partsTrim
  repeat' first
    | with_reducible assumption
    | with_reducible apply State.rsvDone_keeps
    | with_reducible apply State.modWrite_keeps
    | with_reducible apply State.poolGive_keeps
    | with_reducible refine foldl_keeps ?_ (fun _ _ _ => ?_)
    | split
    | (fail_if_no_progress (with_reducible apply Keeps.lit <;> try exact rfl))
    | with_reducible refine snd_ite_keeps ?_ ?_
    | with_reducible refine snd_mk_keeps ?_
    | with_reducible refine pair_keeps (by assumption) ?_
    | intro _
    | beta_reduce

theorem State.jobsGoOn_keeps {st0 : Inv} {s : State} (h : Keeps st0 s)  :
    Keeps st0 (State.jobsGoOn s) := by
  unfold State.jobsGoOn
  repeat' first
    | with_reducible assumption
    | (extract_lets -underBinder -merge +onlyGivenNames x; refine keepCut (r := st0) (x := x) ?_ (fun hx => ?_); (on_goal 1 => (unfold x; clear x)); (on_goal 2 => clear_value x))
    | (extract_lets -underBinder -merge +onlyGivenNames x; guard_hyp x : SecSt)
    | (extract_lets -underBinder -merge +onlyGivenNames x; clear_value x)
    | with_reducible apply State.placeJob_keeps
    | with_reducible apply State.commitJob_keeps
    | with_reducible apply State.stage_keeps
    | with_reducible apply State.bindDefl_keeps
    | with_reducible apply State.partsTrim_keeps
    | with_reducible refine foldl_keeps ?_ (fun _ _ _ => ?_)
    | split
    | (fail_if_no_progress (with_reducible apply Keeps.lit <;> try exact rfl))
    | with_reducible refine snd_ite_keeps ?_ ?_
    | with_reducible refine snd_mk_keeps ?_
    | with_reducible refine pair_keeps (by assumption) ?_
    | intro _
    | beta_reduce

theorem State.jobProgrammed_keeps {st0 : Inv} {s : State} (h : Keeps st0 s) {j : Nat}  :
    Keeps st0 (State.jobProgrammed s j) := by
  unfold State.jobProgrammed
  repeat' first
    | with_reducible assumption
    | with_reducible apply State.modJob_keeps
    | with_reducible apply State.commitJob_keeps

end Sys2Proof.Machine
end

