-- ==== Sys2Proof/Laws/KeepsFtl.lean ====
section
/-! SUPPORT. The operations and commands of Machine/Ftl.lean keep what a state is asked (Laws/Keeps.lean). -/

set_option linter.all false

namespace Sys2Proof.Machine

theorem State.sealCheck_keeps {st0 : Inv} {s : State} (h : Keeps st0 s) {b : Nat} :
    Keeps st0 (State.sealCheck s b) := by
  unfold State.sealCheck
  repeat' first
    | with_reducible assumption
    | with_reducible refine ite_keeps ?_ ?_
    | with_reducible apply State.bandTo_keeps
    | with_reducible apply State.bump_keeps
    | split
    | (fail_if_no_progress (with_reducible apply Keeps.lit <;> try exact rfl))
    | with_reducible refine snd_ite_keeps ?_ ?_
    | with_reducible refine snd_mk_keeps ?_
    | with_reducible refine pair_keeps (by assumption) ?_
    | intro _
    | beta_reduce

theorem State.moveEnd_keeps {st0 : Inv} {s : State} (h : Keeps st0 s) {cid : Nat} :
    Keeps st0 (State.moveEnd s cid) := by
  unfold State.moveEnd
  repeat' first
    | with_reducible assumption
    | (extract_lets -underBinder -merge +onlyGivenNames x; refine keepCut (r := st0) (x := x) ?_ (fun hx => ?_); (on_goal 1 => (unfold x; clear x)); (on_goal 2 => clear_value x))
    | (extract_lets -underBinder -merge +onlyGivenNames x; guard_hyp x : SecSt)
    | (extract_lets -underBinder -merge +onlyGivenNames x; clear_value x)
    | with_reducible apply State.startMove_keeps
    | with_reducible apply State.movesOf_keeps
    | with_reducible apply State.victimCheck_keeps
    | with_reducible apply State.moveOver_keeps
    | split
    | (fail_if_no_progress (with_reducible apply Keeps.lit <;> try exact rfl))
    | with_reducible refine snd_ite_keeps ?_ ?_
    | with_reducible refine snd_mk_keeps ?_
    | with_reducible refine pair_keeps (by assumption) ?_
    | intro _
    | beta_reduce

theorem State.countChanged_keeps {st0 : Inv} {s : State} (h : Keeps st0 s) {cid : Nat}  :
    Keeps st0 (State.countChanged s cid) := by
  unfold State.countChanged
  repeat' first
    | with_reducible assumption
    | with_reducible apply State.victimCheck_keeps
    | with_reducible apply State.heldCheck_keeps

theorem State.changedPage_keeps {st0 : Inv} {s : State} (h : Keeps st0 s) {v : UVal} :
    Keeps st0 (State.changedPage s v) := by
  unfold State.changedPage
  repeat' first
    | with_reducible assumption
    | with_reducible refine ite_keeps ?_ ?_
    | with_reducible apply State.metaFetch_keeps
    | with_reducible apply State.metaEvict_keeps
    | split
    | (fail_if_no_progress (with_reducible apply Keeps.lit <;> try exact rfl))
    | with_reducible refine snd_ite_keeps ?_ ?_
    | with_reducible refine snd_mk_keeps ?_
    | with_reducible refine pair_keeps (by assumption) ?_
    | intro _
    | beta_reduce

theorem State.applied_keeps {st0 : Inv} [st0.Writes] {s : State} (h : Keeps st0 s) {r : URec} :
    Keeps st0 (State.applied s r) := by
  unfold State.applied
  repeat' first
    | with_reducible assumption
    | (extract_lets -underBinder -merge +onlyGivenNames x; refine keepCut (r := st0) (x := x) ?_ (fun hx => ?_); (on_goal 1 => (unfold x; clear x)); (on_goal 2 => clear_value x))
    | (extract_lets -underBinder -merge +onlyGivenNames x; guard_hyp x : SecSt)
    | (extract_lets -underBinder -merge +onlyGivenNames x; clear_value x)
    | with_reducible refine ite_keeps ?_ ?_
    | with_reducible apply State.movesOf_keeps
    | with_reducible apply State.victimCheck_keeps
    | with_reducible apply State.heldCheck_keeps
    | with_reducible apply State.retireCommitted_keeps
    | with_reducible apply State.sealCheck_keeps
    | with_reducible apply State.moveEnd_keeps
    | with_reducible apply State.countChanged_keeps
    | with_reducible apply State.changedPage_keeps
    | with_reducible apply State.modFtl_keeps
    | with_reducible apply State.bump_keeps
    | with_reducible apply State.release_keeps
    | split
    | (fail_if_no_progress (with_reducible apply Keeps.lit <;> try exact rfl))
    | with_reducible refine snd_ite_keeps ?_ ?_
    | with_reducible refine snd_mk_keeps ?_
    | with_reducible refine pair_keeps (by assumption) ?_
    | intro _
    | beta_reduce

theorem State.groupError_keeps {st0 : Inv} {s : State} (h : Keeps st0 s) {r : URec} :
    Keeps st0 (State.groupError s r) := by
  unfold State.groupError
  repeat' first
    | with_reducible assumption
    | (extract_lets -underBinder -merge +onlyGivenNames x; refine keepCut (r := st0) (x := x) ?_ (fun hx => ?_); (on_goal 1 => (unfold x; clear x)); (on_goal 2 => clear_value x))
    | (extract_lets -underBinder -merge +onlyGivenNames x; guard_hyp x : SecSt)
    | (extract_lets -underBinder -merge +onlyGivenNames x; clear_value x)
    | with_reducible refine ite_keeps ?_ ?_
    | with_reducible apply State.deferError_keeps
    | with_reducible refine foldl_keeps ?_ (fun _ _ _ => ?_)
    | split
    | (fail_if_no_progress (with_reducible apply Keeps.lit <;> try exact rfl))
    | with_reducible refine snd_ite_keeps ?_ ?_
    | with_reducible refine snd_mk_keeps ?_
    | with_reducible refine pair_keeps (by assumption) ?_
    | intro _
    | beta_reduce

theorem execUpdateRecordApply_keeps {st0 : Inv} [st0.Writes] {s : State} (h : Keeps st0 s) {useq : Nat} {bad : Bool} :
    ResKeeps st0 (execUpdateRecordApply useq bad s) := by
  unfold execUpdateRecordApply
  try with_reducible refine ResKeeps.next ?_
  repeat' first
    | with_reducible assumption
    | (extract_lets -underBinder -merge +onlyGivenNames x; refine keepCut (r := st0) (x := x) ?_ (fun hx => ?_); (on_goal 1 => (unfold x; clear x)); (on_goal 2 => clear_value x))
    | (extract_lets -underBinder -merge +onlyGivenNames x; guard_hyp x : SecSt)
    | (extract_lets -underBinder -merge +onlyGivenNames x; clear_value x)
    | with_reducible refine ite_keeps ?_ ?_
    | with_reducible refine ResKeeps.next ?_
    | with_reducible apply State.applied_keeps
    | with_reducible apply State.modWrite_keeps
    | with_reducible apply State.applyRec_keeps
    | with_reducible apply State.deferError_keeps
    | with_reducible apply State.groupError_keeps
    | split
    | (fail_if_no_progress (with_reducible apply Keeps.lit <;> try exact rfl))
    | with_reducible refine snd_ite_keeps ?_ ?_
    | with_reducible refine snd_mk_keeps ?_
    | with_reducible refine pair_keeps (by assumption) ?_
    | intro _
    | beta_reduce

theorem State.dyePass_keeps {st0 : Inv} {s : State} (h : Keeps st0 s) {m : Move} {cid : Nat} {e : CtbEnt} :
    Keeps st0 (State.dyePass s m cid e).2 := by
  unfold State.dyePass
  repeat' first
    | with_reducible assumption
    | (extract_lets -underBinder -merge +onlyGivenNames x; refine keepCut (r := st0) (x := x) ?_ (fun hx => ?_); (on_goal 1 => (unfold x; clear x)); (on_goal 2 => clear_value x))
    | (extract_lets -underBinder -merge +onlyGivenNames x; guard_hyp x : SecSt)
    | (extract_lets -underBinder -merge +onlyGivenNames x; clear_value x)
    | with_reducible refine ite_keeps ?_ ?_
    | with_reducible apply State.segRun_keeps
    | with_reducible apply State.bump_keeps
    | with_reducible apply State.keyWait_keeps
    | split
    | (fail_if_no_progress (with_reducible apply Keeps.lit <;> try exact rfl))
    | with_reducible refine snd_ite_keeps ?_ ?_
    | with_reducible refine snd_mk_keeps ?_
    | with_reducible refine pair_keeps (by assumption) ?_
    | intro _
    | beta_reduce

theorem State.movePlace_keeps {st0 : Inv} {s : State} (h : Keeps st0 s) {cid : Nat} :
    Keeps st0 (State.movePlace s cid) := by
  unfold State.movePlace
  repeat' first
    | with_reducible assumption
    | (extract_lets -underBinder -merge +onlyGivenNames x; refine keepCut (r := st0) (x := x) ?_ (fun hx => ?_); (on_goal 1 => (unfold x; clear x)); (on_goal 2 => clear_value x))
    | (extract_lets -underBinder -merge +onlyGivenNames x; guard_hyp x : SecSt)
    | (extract_lets -underBinder -merge +onlyGivenNames x; clear_value x)
    | with_reducible refine ite_keeps ?_ ?_
    | with_reducible apply State.place_keeps
    | with_reducible apply State.dyePass_keeps
    | with_reducible apply State.modFtl_keeps
    | with_reducible apply State.bump_keeps
    | split
    | (fail_if_no_progress (with_reducible apply Keeps.lit <;> try exact rfl))
    | with_reducible refine snd_ite_keeps ?_ ?_
    | with_reducible refine snd_mk_keeps ?_
    | with_reducible refine pair_keeps (by assumption) ?_
    | intro _
    | beta_reduce

theorem State.moveGot_keeps {st0 : Inv} {s : State} (h : Keeps st0 s) {cid : Nat}  :
    Keeps st0 (State.moveGot s cid) := by
  unfold State.moveGot
  repeat' first
    | with_reducible assumption
    | with_reducible apply State.modFtl_keeps
    | with_reducible apply State.movePlace_keeps
    | split

theorem State.moveBad_keeps {st0 : Inv} {s : State} (h : Keeps st0 s) {cid : Nat} :
    Keeps st0 (State.moveBad s cid) := by
  unfold State.moveBad
  repeat' first
    | with_reducible assumption
    | with_reducible refine ite_keeps ?_ ?_
    | with_reducible apply State.victimCheck_keeps
    | with_reducible apply State.moveFail_keeps
    | with_reducible apply State.moveGo_keeps
    | split
    | (fail_if_no_progress (with_reducible apply Keeps.lit <;> try exact rfl))
    | with_reducible refine snd_ite_keeps ?_ ?_
    | with_reducible refine snd_mk_keeps ?_
    | with_reducible refine pair_keeps (by assumption) ?_
    | intro _
    | beta_reduce

theorem State.moveProgrammed_keeps {st0 : Inv} {s : State} (h : Keeps st0 s) {cid : Nat} {band : Nat} {offset : Nat} {len : Nat} :
    Keeps st0 (State.moveProgrammed s cid band offset len) := by
  unfold State.moveProgrammed
  repeat' first
    | with_reducible assumption
    | (extract_lets -underBinder -merge +onlyGivenNames x; refine keepCut (r := st0) (x := x) ?_ (fun hx => ?_); (on_goal 1 => (unfold x; clear x)); (on_goal 2 => clear_value x))
    | (extract_lets -underBinder -merge +onlyGivenNames x; guard_hyp x : SecSt)
    | (extract_lets -underBinder -merge +onlyGivenNames x; clear_value x)
    | with_reducible refine ite_keeps ?_ ?_
    | with_reducible apply State.abandon_keeps
    | with_reducible apply State.modFtl_keeps
    | with_reducible apply State.land_keeps
    | with_reducible apply State.bump_keeps
    | with_reducible apply State.moveGo_keeps
    | split
    | (fail_if_no_progress (with_reducible apply Keeps.lit <;> try exact rfl))
    | with_reducible refine snd_ite_keeps ?_ ?_
    | with_reducible refine snd_mk_keeps ?_
    | with_reducible refine pair_keeps (by assumption) ?_
    | intro _
    | beta_reduce

theorem State.bandsGoOn_keeps {st0 : Inv} {s : State} (h : Keeps st0 s)  :
    Keeps st0 (State.bandsGoOn s) := by
  unfold State.bandsGoOn
  repeat' first
    | with_reducible assumption
    | with_reducible refine ite_keeps ?_ ?_
    | with_reducible apply State.movesOf_keeps
    | with_reducible apply State.victimCheck_keeps
    | with_reducible apply State.heldCheck_keeps
    | with_reducible apply State.sealCheck_keeps
    | with_reducible refine foldl_keeps ?_ (fun _ _ _ => ?_)
    | split
    | (fail_if_no_progress (with_reducible apply Keeps.lit <;> try exact rfl))
    | with_reducible refine snd_ite_keeps ?_ ?_
    | with_reducible refine snd_mk_keeps ?_
    | with_reducible refine pair_keeps (by assumption) ?_
    | intro _
    | beta_reduce

theorem State.movesGoOn_keeps {st0 : Inv} {s : State} (h : Keeps st0 s)  :
    Keeps st0 (State.movesGoOn s) := by
  unfold State.movesGoOn
  repeat' first
    | with_reducible assumption
    | with_reducible apply State.movePlace_keeps
    | with_reducible apply State.bandsGoOn_keeps
    | with_reducible refine foldl_keeps ?_ (fun _ _ _ => ?_)
    | split
    | (fail_if_no_progress (with_reducible apply Keeps.lit <;> try exact rfl))
    | with_reducible refine snd_ite_keeps ?_ ?_
    | with_reducible refine snd_mk_keeps ?_
    | with_reducible refine pair_keeps (by assumption) ?_
    | intro _
    | beta_reduce

theorem State.redyeEnd_keeps {st0 : Inv} {s : State} (h : Keeps st0 s) {peerFailed : Nat} :
    Keeps st0 (State.redyeEnd s peerFailed) := by
  unfold State.redyeEnd
  repeat' first
    | with_reducible assumption
    | (extract_lets -underBinder -merge +onlyGivenNames x; refine keepCut (r := st0) (x := x) ?_ (fun hx => ?_); (on_goal 1 => (unfold x; clear x)); (on_goal 2 => clear_value x))
    | (extract_lets -underBinder -merge +onlyGivenNames x; guard_hyp x : SecSt)
    | (extract_lets -underBinder -merge +onlyGivenNames x; clear_value x)
    | with_reducible refine ite_keeps ?_ ?_
    | with_reducible apply State.modVat_keeps
    | with_reducible apply State.set_keeps
    | with_reducible apply State.keyRemove_keeps
    | with_reducible apply State.setVat_keeps
    | split
    | (fail_if_no_progress (with_reducible apply Keeps.lit <;> try exact rfl))
    | with_reducible refine snd_ite_keeps ?_ ?_
    | with_reducible refine snd_mk_keeps ?_
    | with_reducible refine pair_keeps (by assumption) ?_
    | intro _
    | beta_reduce

theorem State.sweepTo_keeps {st0 : Inv} {s : State} (h : Keeps st0 s) {l : List Nat}  :
    Keeps st0 (State.sweepTo s l) := by
  unfold State.sweepTo
  repeat' first
    | with_reducible assumption
    | with_reducible apply State.modVat_keeps
    | with_reducible apply State.setAll_keeps

theorem State.sweepResume_keeps {st0 : Inv} {s : State} (h : Keeps st0 s)  :
    Keeps st0 (State.sweepResume s) := by
  unfold State.sweepResume
  repeat' first
    | with_reducible assumption
    | with_reducible refine ite_keeps ?_ ?_
    | with_reducible apply State.setAll_keeps
    | split
    | (fail_if_no_progress (with_reducible apply Keeps.lit <;> try exact rfl))
    | with_reducible refine snd_ite_keeps ?_ ?_
    | with_reducible refine snd_mk_keeps ?_
    | with_reducible refine pair_keeps (by assumption) ?_
    | intro _
    | beta_reduce

theorem State.sweepBegin_keeps {st0 : Inv} {s : State} (h : Keeps st0 s) {b : Nat} {go : List Nat} :
    Keeps st0 (State.sweepBegin s b go) := by
  unfold State.sweepBegin
  repeat' first
    | with_reducible assumption
    | with_reducible refine ite_keeps ?_ ?_
    | with_reducible apply State.startMove_keeps
    | with_reducible apply State.modVat_keeps
    | with_reducible refine foldl_keeps ?_ (fun _ _ _ => ?_)
    | split
    | (fail_if_no_progress (with_reducible apply Keeps.lit <;> try exact rfl))
    | with_reducible refine snd_ite_keeps ?_ ?_
    | with_reducible refine snd_mk_keeps ?_
    | with_reducible refine pair_keeps (by assumption) ?_
    | intro _
    | beta_reduce

theorem State.sweepBand_keeps {st0 : Inv} {s : State} (h : Keeps st0 s) {b : Nat} {failed : List Nat} :
    Keeps st0 (State.sweepBand s b failed) := by
  unfold State.sweepBand
  repeat' first
    | with_reducible assumption
    | (extract_lets -underBinder -merge +onlyGivenNames x; refine keepCut (r := st0) (x := x) ?_ (fun hx => ?_); (on_goal 1 => (unfold x; clear x)); (on_goal 2 => clear_value x))
    | (extract_lets -underBinder -merge +onlyGivenNames x; guard_hyp x : SecSt)
    | (extract_lets -underBinder -merge +onlyGivenNames x; clear_value x)
    | with_reducible refine ite_keeps ?_ ?_
    | with_reducible apply State.redyeFail_keeps
    | with_reducible apply State.sweepTo_keeps
    | with_reducible apply State.sweepBegin_keeps
    | with_reducible refine foldl_keeps ?_ (fun _ _ _ => ?_)
    | split
    | (fail_if_no_progress (with_reducible apply Keeps.lit <;> try exact rfl))
    | with_reducible refine snd_ite_keeps ?_ ?_
    | with_reducible refine snd_mk_keeps ?_
    | with_reducible refine pair_keeps (by assumption) ?_
    | intro _
    | beta_reduce

theorem State.sweepOver_keeps {st0 : Inv} {s : State} (h : Keeps st0 s)  :
    Keeps st0 (State.sweepOver s) := by
  unfold State.sweepOver
  repeat' first
    | with_reducible assumption
    | with_reducible apply State.modVat_keeps
    | with_reducible apply State.set_keeps
    | with_reducible apply State.irq_keeps
    | split
    | (fail_if_no_progress (with_reducible apply Keeps.lit <;> try exact rfl))
    | with_reducible refine snd_ite_keeps ?_ ?_
    | with_reducible refine snd_mk_keeps ?_
    | with_reducible refine pair_keeps (by assumption) ?_
    | intro _
    | beta_reduce

theorem execRedyeSweepStep_keeps {st0 : Inv} {s : State} (h : Keeps st0 s) {failed : List Nat} {peerEnded : Bool} {peerFailed : Nat} :
    ResKeeps st0 (execRedyeSweepStep failed peerEnded peerFailed s) := by
  unfold execRedyeSweepStep
  try with_reducible refine ResKeeps.next ?_
  repeat' first
    | with_reducible assumption
    | (extract_lets -underBinder -merge +onlyGivenNames x; refine keepCut (r := st0) (x := x) ?_ (fun hx => ?_); (on_goal 1 => (unfold x; clear x)); (on_goal 2 => clear_value x))
    | (extract_lets -underBinder -merge +onlyGivenNames x; guard_hyp x : SecSt)
    | (extract_lets -underBinder -merge +onlyGivenNames x; clear_value x)
    | with_reducible refine ite_keeps ?_ ?_
    | with_reducible refine ResKeeps.next ?_
    | with_reducible apply State.redyeEnd_keeps
    | with_reducible apply State.sweepResume_keeps
    | with_reducible apply State.sweepBand_keeps
    | with_reducible apply State.sweepOver_keeps
    | with_reducible apply State.modVat_keeps
    | split
    | (fail_if_no_progress (with_reducible apply Keeps.lit <;> try exact rfl))
    | with_reducible refine snd_ite_keeps ?_ ?_
    | with_reducible refine snd_mk_keeps ?_
    | with_reducible refine pair_keeps (by assumption) ?_
    | intro _
    | beta_reduce

theorem State.dirLoad_keeps {st0 : Inv} {s : State} (h : Keeps st0 s) {kind : Nat} {pin : Bool} {snap : Bool} {space : Nat} {leaf : Nat}  :
    Keeps st0 (State.dirLoad s kind pin snap space leaf) := by
  unfold State.dirLoad
  repeat' first
    | with_reducible assumption
    | with_reducible refine ite_keeps ?_ ?_
    | with_reducible apply State.raise_keeps
    | with_reducible apply State.modFtl_keeps
    | with_reducible apply State.set_keeps

theorem execFtlDirLoad_keeps {st0 : Inv} {s : State} (h : Keeps st0 s) {m : Nat} {kind : Nat} {pin : Bool} {snap : Bool} {space : Nat} {leaf : Nat}  :
    ResKeeps st0 (execFtlDirLoad m kind pin snap space leaf s) := by
  unfold execFtlDirLoad
  try with_reducible refine ResKeeps.next ?_
  repeat' first
    | with_reducible assumption
    | with_reducible refine State.busWr_keeps ?_ (fun _ _ => ?_)
    | with_reducible apply State.dirLoad_keeps

theorem State.dirDone_keeps {st0 : Inv} {s : State} (h : Keeps st0 s) {r : Nat} :
    Keeps st0 (State.dirDone s r) := by
  unfold State.dirDone
  repeat' first
    | with_reducible assumption
    | with_reducible apply State.modFtl_keeps
    | with_reducible apply State.setAll_keeps
    | with_reducible apply State.irq_keeps
    | split
    | (fail_if_no_progress (with_reducible apply Keeps.lit <;> try exact rfl))
    | with_reducible refine snd_ite_keeps ?_ ?_
    | with_reducible refine snd_mk_keeps ?_
    | with_reducible refine pair_keeps (by assumption) ?_
    | intro _
    | beta_reduce

theorem State.leafPut_keeps {st0 : Inv} {s : State} (h : Keeps st0 s) {k : Nat} {pin : Bool} :
    Keeps st0 (State.leafPut s k pin) := by
  unfold State.leafPut
  repeat' first
    | with_reducible assumption
    | with_reducible apply State.modFtl_keeps
    | split
    | (fail_if_no_progress (with_reducible apply Keeps.lit <;> try exact rfl))
    | with_reducible refine snd_ite_keeps ?_ ?_
    | with_reducible refine snd_mk_keeps ?_
    | with_reducible refine pair_keeps (by assumption) ?_
    | intro _
    | beta_reduce

theorem execFtlDirLoadDone_keeps {st0 : Inv} {s : State} (h : Keeps st0 s) {readOk : Bool} :
    ResKeeps st0 (execFtlDirLoadDone readOk s) := by
  unfold execFtlDirLoadDone
  try with_reducible refine ResKeeps.next ?_
  repeat' first
    | with_reducible assumption
    | with_reducible refine ite_keeps ?_ ?_
    | with_reducible refine ResKeeps.next ?_
    | with_reducible apply State.modFtl_keeps
    | refine State.leafRoom_keeps ?_ _ (by assumption)
    | with_reducible apply State.bump_keeps
    | with_reducible apply State.raise_keeps
    | with_reducible apply State.dirDone_keeps
    | with_reducible apply State.leafPut_keeps
    | split
    | (fail_if_no_progress (with_reducible apply Keeps.lit <;> try exact rfl))
    | with_reducible refine snd_ite_keeps ?_ ?_
    | with_reducible refine snd_mk_keeps ?_
    | with_reducible refine pair_keeps (by assumption) ?_
    | intro _
    | beta_reduce

theorem State.metaMoved_keeps {st0 : Inv} {s : State} (h : Keeps st0 s) {old : Option Nat} {band : Nat} {n : Nat} :
    Keeps st0 (State.metaMoved s old band n) := by
  unfold State.metaMoved
  repeat' first
    | with_reducible assumption
    | (extract_lets -underBinder -merge +onlyGivenNames x; refine keepCut (r := st0) (x := x) ?_ (fun hx => ?_); (on_goal 1 => (unfold x; clear x)); (on_goal 2 => clear_value x))
    | (extract_lets -underBinder -merge +onlyGivenNames x; guard_hyp x : SecSt)
    | (extract_lets -underBinder -merge +onlyGivenNames x; clear_value x)
    | with_reducible apply State.victimCheck_keeps
    | with_reducible apply State.sealCheck_keeps
    | with_reducible apply State.modBand_keeps
    | with_reducible apply State.bandDead_keeps
    | split
    | (fail_if_no_progress (with_reducible apply Keeps.lit <;> try exact rfl))
    | with_reducible refine snd_ite_keeps ?_ ?_
    | with_reducible refine snd_mk_keeps ?_
    | with_reducible refine pair_keeps (by assumption) ?_
    | intro _
    | beta_reduce

theorem State.pageFree_keeps {st0 : Inv} {s : State} (h : Keeps st0 s) {key : Nat} {g : MetaPage} :
    Keeps st0 (State.pageFree s key g) := by
  unfold State.pageFree
  repeat' first
    | with_reducible assumption
    | (extract_lets -underBinder -merge +onlyGivenNames x; refine keepCut (r := st0) (x := x) ?_ (fun hx => ?_); (on_goal 1 => (unfold x; clear x)); (on_goal 2 => clear_value x))
    | (extract_lets -underBinder -merge +onlyGivenNames x; guard_hyp x : SecSt)
    | (extract_lets -underBinder -merge +onlyGivenNames x; clear_value x)
    | with_reducible refine ite_keeps ?_ ?_
    | with_reducible apply State.victimCheck_keeps
    | with_reducible apply State.modMeta_keeps
    | with_reducible apply State.leafDirty_keeps
    | with_reducible apply State.bandDead_keeps
    | split
    | (fail_if_no_progress (with_reducible apply Keeps.lit <;> try exact rfl))
    | with_reducible refine snd_ite_keeps ?_ ?_
    | with_reducible refine snd_mk_keeps ?_
    | with_reducible refine pair_keeps (by assumption) ?_
    | intro _
    | beta_reduce

theorem State.pageBack_keeps {st0 : Inv} {s : State} (h : Keeps st0 s) {ctb : Bool} {key : Nat} :
    Keeps st0 (State.pageBack s ctb key) := by
  unfold State.pageBack
  repeat' first
    | with_reducible assumption
    | with_reducible refine ite_keeps ?_ ?_
    | with_reducible apply State.place_keeps
    | with_reducible apply State.pageFree_keeps
    | with_reducible apply State.modMeta_keeps
    | with_reducible apply State.metaFetch_keeps
    | split
    | (fail_if_no_progress (with_reducible apply Keeps.lit <;> try exact rfl))
    | with_reducible refine snd_ite_keeps ?_ ?_
    | with_reducible refine snd_mk_keeps ?_
    | with_reducible refine pair_keeps (by assumption) ?_
    | intro _
    | beta_reduce

theorem State.sumBack_keeps {st0 : Inv} {s : State} (h : Keeps st0 s) {key : Nat} :
    Keeps st0 (State.sumBack s key) := by
  unfold State.sumBack
  repeat' first
    | with_reducible assumption
    | (extract_lets -underBinder -merge +onlyGivenNames x; refine keepCut (r := st0) (x := x) ?_ (fun hx => ?_); (on_goal 1 => (unfold x; clear x)); (on_goal 2 => clear_value x))
    | (extract_lets -underBinder -merge +onlyGivenNames x; guard_hyp x : SecSt)
    | (extract_lets -underBinder -merge +onlyGivenNames x; clear_value x)
    | with_reducible refine ite_keeps ?_ ?_
    | with_reducible apply State.place_keeps
    | with_reducible apply State.modFtl_keeps
    | split
    | (fail_if_no_progress (with_reducible apply Keeps.lit <;> try exact rfl))
    | with_reducible refine snd_ite_keeps ?_ ?_
    | with_reducible refine snd_mk_keeps ?_
    | with_reducible refine pair_keeps (by assumption) ?_
    | intro _
    | beta_reduce

theorem execPageWriteBack_keeps {st0 : Inv} {s : State} (h : Keeps st0 s) {kind : Nat} {key : Nat}  :
    ResKeeps st0 (execPageWriteBack kind key s) := by
  unfold execPageWriteBack
  try with_reducible refine ResKeeps.next ?_
  repeat' first
    | with_reducible assumption
    | with_reducible refine ite_keeps ?_ ?_
    | with_reducible apply State.pageBack_keeps
    | with_reducible apply State.sumBack_keeps

theorem State.sumWritten_keeps {st0 : Inv} {s : State} (h : Keeps st0 s) {key : Nat} {band : Nat} {offset : Nat} :
    Keeps st0 (State.sumWritten s key band offset) := by
  unfold State.sumWritten
  repeat' first
    | with_reducible assumption
    | (extract_lets -underBinder -merge +onlyGivenNames x; refine keepCut (r := st0) (x := x) ?_ (fun hx => ?_); (on_goal 1 => (unfold x; clear x)); (on_goal 2 => clear_value x))
    | (extract_lets -underBinder -merge +onlyGivenNames x; guard_hyp x : SecSt)
    | (extract_lets -underBinder -merge +onlyGivenNames x; clear_value x)
    | with_reducible apply State.metaMoved_keeps
    | with_reducible apply State.modFtl_keeps
    | with_reducible apply State.leafDirty_keeps
    | with_reducible apply State.bump_keeps
    | split
    | (fail_if_no_progress (with_reducible apply Keeps.lit <;> try exact rfl))
    | with_reducible refine snd_ite_keeps ?_ ?_
    | with_reducible refine snd_mk_keeps ?_
    | with_reducible refine pair_keeps (by assumption) ?_
    | intro _
    | beta_reduce

theorem State.pageWritten_keeps {st0 : Inv} {s : State} (h : Keeps st0 s) {ctb : Bool} {key : Nat} {band : Nat} {offset : Nat} :
    Keeps st0 (State.pageWritten s ctb key band offset) := by
  unfold State.pageWritten
  repeat' first
    | with_reducible assumption
    | (extract_lets -underBinder -merge +onlyGivenNames x; refine keepCut (r := st0) (x := x) ?_ (fun hx => ?_); (on_goal 1 => (unfold x; clear x)); (on_goal 2 => clear_value x))
    | (extract_lets -underBinder -merge +onlyGivenNames x; guard_hyp x : SecSt)
    | (extract_lets -underBinder -merge +onlyGivenNames x; clear_value x)
    | with_reducible refine ite_keeps ?_ ?_
    | with_reducible apply State.bump_keeps
    | with_reducible apply State.modMeta_keeps
    | with_reducible apply State.leafDirty_keeps
    | with_reducible apply State.metaMoved_keeps
    | split
    | (fail_if_no_progress (with_reducible apply Keeps.lit <;> try exact rfl))
    | with_reducible refine snd_ite_keeps ?_ ?_
    | with_reducible refine snd_mk_keeps ?_
    | with_reducible refine pair_keeps (by assumption) ?_
    | intro _
    | beta_reduce

theorem State.leafBack_keeps {st0 : Inv} {s : State} (h : Keeps st0 s) {k : Nat} {l : Leaf} :
    Keeps st0 (State.leafBack s k l) := by
  unfold State.leafBack
  repeat' first
    | with_reducible assumption
    | with_reducible refine ite_keeps ?_ ?_
    | with_reducible apply State.place_keeps
    | with_reducible apply State.modFtl_keeps
    | split
    | (fail_if_no_progress (with_reducible apply Keeps.lit <;> try exact rfl))
    | with_reducible refine snd_ite_keeps ?_ ?_
    | with_reducible refine snd_mk_keeps ?_
    | with_reducible refine pair_keeps (by assumption) ?_
    | intro _
    | beta_reduce

theorem State.leafWritten_keeps {st0 : Inv} {s : State} (h : Keeps st0 s) {k : Nat} {band : Nat} {offset : Nat} :
    Keeps st0 (State.leafWritten s k band offset) := by
  unfold State.leafWritten
  repeat' first
    | with_reducible assumption
    | (extract_lets -underBinder -merge +onlyGivenNames x; refine keepCut (r := st0) (x := x) ?_ (fun hx => ?_); (on_goal 1 => (unfold x; clear x)); (on_goal 2 => clear_value x))
    | (extract_lets -underBinder -merge +onlyGivenNames x; guard_hyp x : SecSt)
    | (extract_lets -underBinder -merge +onlyGivenNames x; clear_value x)
    | with_reducible refine ite_keeps ?_ ?_
    | with_reducible apply State.metaMoved_keeps
    | with_reducible apply State.modFtl_keeps
    | with_reducible apply State.segMark_keeps
    | split
    | (fail_if_no_progress (with_reducible apply Keeps.lit <;> try exact rfl))
    | with_reducible refine snd_ite_keeps ?_ ?_
    | with_reducible refine snd_mk_keeps ?_
    | with_reducible refine pair_keeps (by assumption) ?_
    | intro _
    | beta_reduce

theorem State.segBack_keeps {st0 : Inv} {s : State} (h : Keeps st0 s) {k : Nat} :
    Keeps st0 (State.segBack s k) := by
  unfold State.segBack
  repeat' first
    | with_reducible assumption
    | (extract_lets -underBinder -merge +onlyGivenNames x; refine keepCut (r := st0) (x := x) ?_ (fun hx => ?_); (on_goal 1 => (unfold x; clear x)); (on_goal 2 => clear_value x))
    | (extract_lets -underBinder -merge +onlyGivenNames x; guard_hyp x : SecSt)
    | (extract_lets -underBinder -merge +onlyGivenNames x; clear_value x)
    | with_reducible refine ite_keeps ?_ ?_
    | with_reducible apply State.place_keeps
    | with_reducible apply State.modFtl_keeps
    | split
    | (fail_if_no_progress (with_reducible apply Keeps.lit <;> try exact rfl))
    | with_reducible refine snd_ite_keeps ?_ ?_
    | with_reducible refine snd_mk_keeps ?_
    | with_reducible refine pair_keeps (by assumption) ?_
    | intro _
    | beta_reduce

theorem State.segWritten_keeps {st0 : Inv} {s : State} (h : Keeps st0 s) {k : Nat} {band : Nat} {offset : Nat} :
    Keeps st0 (State.segWritten s k band offset) := by
  unfold State.segWritten
  repeat' first
    | with_reducible assumption
    | (extract_lets -underBinder -merge +onlyGivenNames x; refine keepCut (r := st0) (x := x) ?_ (fun hx => ?_); (on_goal 1 => (unfold x; clear x)); (on_goal 2 => clear_value x))
    | (extract_lets -underBinder -merge +onlyGivenNames x; guard_hyp x : SecSt)
    | (extract_lets -underBinder -merge +onlyGivenNames x; clear_value x)
    | with_reducible apply State.metaMoved_keeps
    | with_reducible apply State.modFtl_keeps
    | split
    | (fail_if_no_progress (with_reducible apply Keeps.lit <;> try exact rfl))
    | with_reducible refine snd_ite_keeps ?_ ?_
    | with_reducible refine snd_mk_keeps ?_
    | with_reducible refine pair_keeps (by assumption) ?_
    | intro _
    | beta_reduce

theorem State.sysCopies_keeps {st0 : Inv} {s : State} (h : Keeps st0 s) {n : Nat} {m : Nat} {words : List Nat} :
    Keeps st0 (State.sysCopies s n m words) := by
  unfold State.sysCopies
  repeat' first
    | with_reducible assumption
    | with_reducible apply State.brickSend_keeps
    | with_reducible apply State.drop_keeps
    | with_reducible refine foldl_keeps ?_ (fun _ _ _ => ?_)
    | split
    | (fail_if_no_progress (with_reducible apply Keeps.lit <;> try exact rfl))
    | with_reducible refine snd_ite_keeps ?_ ?_
    | with_reducible refine snd_mk_keeps ?_
    | with_reducible refine pair_keeps (by assumption) ?_
    | intro _
    | beta_reduce

theorem State.sysWrite_keeps {st0 : Inv} {s : State} (h : Keeps st0 s) {n : Nat} {words : List Nat} :
    Keeps st0 (State.sysWrite s n words) := by
  unfold State.sysWrite
  repeat' first
    | with_reducible assumption
    | with_reducible apply State.sysCopies_keeps
    | split
    | (fail_if_no_progress (with_reducible apply Keeps.lit <;> try exact rfl))
    | with_reducible refine snd_ite_keeps ?_ ?_
    | with_reducible refine snd_mk_keeps ?_
    | with_reducible refine pair_keeps (by assumption) ?_
    | intro _
    | beta_reduce

theorem State.ckptBegin_keeps {st0 : Inv} {s : State} (h : Keeps st0 s)  :
    Keeps st0 (State.ckptBegin s) := by
  unfold State.ckptBegin
  repeat' first
    | with_reducible assumption
    | (extract_lets -underBinder -merge +onlyGivenNames x; refine keepCut (r := st0) (x := x) ?_ (fun hx => ?_); (on_goal 1 => (unfold x; clear x)); (on_goal 2 => clear_value x))
    | (extract_lets -underBinder -merge +onlyGivenNames x; guard_hyp x : SecSt)
    | (extract_lets -underBinder -merge +onlyGivenNames x; clear_value x)
    | with_reducible apply State.leafBack_keeps
    | with_reducible apply State.segBack_keeps
    | with_reducible apply State.sysWrite_keeps
    | with_reducible refine foldl_keeps ?_ (fun _ _ _ => ?_)
    | split
    | (fail_if_no_progress (with_reducible apply Keeps.lit <;> try exact rfl))
    | with_reducible refine snd_ite_keeps ?_ ?_
    | with_reducible refine snd_mk_keeps ?_
    | with_reducible refine pair_keeps (by assumption) ?_
    | intro _
    | beta_reduce

theorem State.ckptTake_keeps {st0 : Inv} {s : State} (h : Keeps st0 s) {peerReplay : Nat} :
    Keeps st0 (State.ckptTake s peerReplay) := by
  unfold State.ckptTake
  repeat' first
    | with_reducible assumption
    | (extract_lets -underBinder -merge +onlyGivenNames x; refine keepCut (r := st0) (x := x) ?_ (fun hx => ?_); (on_goal 1 => (unfold x; clear x)); (on_goal 2 => clear_value x))
    | (extract_lets -underBinder -merge +onlyGivenNames x; guard_hyp x : SecSt)
    | (extract_lets -underBinder -merge +onlyGivenNames x; clear_value x)
    | with_reducible apply State.modFtl_keeps
    | with_reducible apply State.setAll_keeps
    | split
    | (fail_if_no_progress (with_reducible apply Keeps.lit <;> try exact rfl))
    | with_reducible refine snd_ite_keeps ?_ ?_
    | with_reducible refine snd_mk_keeps ?_
    | with_reducible refine pair_keeps (by assumption) ?_
    | intro _
    | beta_reduce

theorem State.retireUpdates_keeps {st0 : Inv} [st0.Writes] {s : State} (h : Keeps st0 s) {lim : Nat}  :
    Keeps st0 (State.retireUpdates s lim) := by
  unfold State.retireUpdates
  repeat' first
    | with_reducible assumption
    | with_reducible apply State.modWrite_keeps

theorem execCheckpointWrite_keeps {st0 : Inv} [st0.Writes] {s : State} (h : Keeps st0 s) {ok : Bool} {peerReplay : Nat} :
    ResKeeps st0 (execCheckpointWrite ok peerReplay s) := by
  unfold execCheckpointWrite
  try with_reducible refine ResKeeps.next ?_
  repeat' first
    | with_reducible assumption
    | (extract_lets -underBinder -merge +onlyGivenNames x; refine keepCut (r := st0) (x := x) ?_ (fun hx => ?_); (on_goal 1 => (unfold x; clear x)); (on_goal 2 => clear_value x))
    | (extract_lets -underBinder -merge +onlyGivenNames x; guard_hyp x : SecSt)
    | (extract_lets -underBinder -merge +onlyGivenNames x; clear_value x)
    | with_reducible refine ite_keeps ?_ ?_
    | with_reducible refine ResKeeps.next ?_
    | with_reducible apply State.sysWrite_keeps
    | with_reducible apply State.ckptBegin_keeps
    | with_reducible apply State.ckptTake_keeps
    | with_reducible apply State.retireUpdates_keeps
    | with_reducible apply State.bump_keeps
    | with_reducible apply State.raise_keeps
    | split
    | (fail_if_no_progress (with_reducible apply Keeps.lit <;> try exact rfl))
    | with_reducible refine snd_ite_keeps ?_ ?_
    | with_reducible refine snd_mk_keeps ?_
    | with_reducible refine pair_keeps (by assumption) ?_
    | intro _
    | beta_reduce

theorem State.logCheck_keeps {st0 : Inv} {s : State} (h : Keeps st0 s)   :
    Keeps st0 (State.logCheck s) := by
  unfold State.logCheck
  repeat' first
    | with_reducible assumption
    | with_reducible refine ite_keeps ?_ ?_
    | with_reducible apply State.set_keeps
    | with_reducible apply State.modFtl_keeps
    | with_reducible apply State.raise_keeps
    | with_reducible apply State.bump_keeps

theorem execChunkRelease_keeps {st0 : Inv} [st0.Writes] {s : State} (h : Keeps st0 s) {cid : Nat}  :
    ResKeeps st0 (execChunkRelease cid s) := by
  unfold execChunkRelease
  try with_reducible refine ResKeeps.next ?_
  repeat' first
    | with_reducible assumption
    | (extract_lets -underBinder -merge +onlyGivenNames x; clear_value x)
    | with_reducible apply State.land_keeps
    | with_reducible apply State.modFtl_keeps
    | with_reducible apply State.bump_keeps
    | split

theorem execScanRead_keeps {st0 : Inv} {s : State} (h : Keeps st0 s) {b : Nat} {member : Nat} {row : Nat} :
    ResKeeps st0 (execScanRead b member row s) := by
  unfold execScanRead
  try with_reducible refine ResKeeps.next ?_
  repeat' first
    | with_reducible assumption
    | (extract_lets -underBinder -merge +onlyGivenNames x; refine keepCut (r := st0) (x := x) ?_ (fun hx => ?_); (on_goal 1 => (unfold x; clear x)); (on_goal 2 => clear_value x))
    | (extract_lets -underBinder -merge +onlyGivenNames x; guard_hyp x : SecSt)
    | (extract_lets -underBinder -merge +onlyGivenNames x; clear_value x)
    | with_reducible refine ite_keeps ?_ ?_
    | with_reducible refine ResKeeps.next ?_
    | with_reducible apply State.queueReloc_keeps
    | with_reducible apply State.brickSend_keeps
    | with_reducible apply State.countRead_keeps
    | with_reducible apply State.bump_keeps
    | split
    | (fail_if_no_progress (with_reducible apply Keeps.lit <;> try exact rfl))
    | with_reducible refine snd_ite_keeps ?_ ?_
    | with_reducible refine snd_mk_keeps ?_
    | with_reducible refine pair_keeps (by assumption) ?_
    | intro _
    | beta_reduce

theorem State.scanResult_keeps {st0 : Inv} {s : State} (h : Keeps st0 s) {b : Nat} {brick : Nat} {ok : Bool} {corrected : Nat} {retries : Nat}  :
    Keeps st0 (State.scanResult s b brick ok corrected retries) := by
  unfold State.scanResult
  repeat' first
    | with_reducible assumption
    | with_reducible refine ite_keeps ?_ ?_
    | with_reducible apply State.queueReloc_keeps

theorem State.vaultWrite_keeps {st0 : Inv} {s : State} (h : Keeps st0 s) {ks : List Nat} {words : List Nat} :
    Keeps st0 (State.vaultWrite s ks words) := by
  unfold State.vaultWrite
  repeat' first
    | with_reducible assumption
    | with_reducible apply State.brickSend_keeps
    | with_reducible refine foldl_keeps ?_ (fun _ _ _ => ?_)
    | split
    | (fail_if_no_progress (with_reducible apply Keeps.lit <;> try exact rfl))
    | with_reducible refine snd_ite_keeps ?_ ?_
    | with_reducible refine snd_mk_keeps ?_
    | with_reducible refine pair_keeps (by assumption) ?_
    | intro _
    | beta_reduce

theorem State.holdupCheck_keeps {st0 : Inv} {s : State} (h : Keeps st0 s)  :
    Keeps st0 (State.holdupCheck s) := by
  unfold State.holdupCheck
  repeat' first
    | with_reducible assumption
    | (extract_lets -underBinder -merge +onlyGivenNames x; refine keepCut (r := st0) (x := x) ?_ (fun hx => ?_); (on_goal 1 => (unfold x; clear x)); (on_goal 2 => clear_value x))
    | (extract_lets -underBinder -merge +onlyGivenNames x; guard_hyp x : SecSt)
    | (extract_lets -underBinder -merge +onlyGivenNames x; clear_value x)
    | with_reducible refine ite_keeps ?_ ?_
    | with_reducible apply State.modFtl_keeps
    | with_reducible apply State.set_keeps
    | with_reducible apply State.irq_keeps
    | with_reducible apply State.raise_keeps
    | split
    | (fail_if_no_progress (with_reducible apply Keeps.lit <;> try exact rfl))
    | with_reducible refine snd_ite_keeps ?_ ?_
    | with_reducible refine snd_mk_keeps ?_
    | with_reducible refine pair_keeps (by assumption) ?_
    | intro _
    | beta_reduce

theorem State.vaultClose_keeps {st0 : Inv} {s : State} (h : Keeps st0 s) {phase : Nat} :
    Keeps st0 (State.vaultClose s phase) := by
  unfold State.vaultClose
  repeat' first
    | with_reducible assumption
    | with_reducible apply State.modFtl_keeps
    | with_reducible apply State.set_keeps
    | with_reducible apply State.slicesWipe_keeps
    | with_reducible apply State.domPut_keeps
    | split
    | (fail_if_no_progress (with_reducible apply Keeps.lit <;> try exact rfl))
    | with_reducible refine snd_ite_keeps ?_ ?_
    | with_reducible refine snd_mk_keeps ?_
    | with_reducible refine pair_keeps (by assumption) ?_
    | intro _
    | beta_reduce

theorem State.dumpFail_keeps {st0 : Inv} {s : State} (h : Keeps st0 s)   :
    Keeps st0 (State.dumpFail s) := by
  unfold State.dumpFail
  repeat' first
    | with_reducible assumption
    | with_reducible apply State.modFtl_keeps
    | with_reducible apply State.raise_keeps
    | with_reducible apply State.vaultClose_keeps

theorem State.dumpBegin_keeps {st0 : Inv} {s : State} (h : Keeps st0 s)  :
    Keeps st0 (State.dumpBegin s) := by
  unfold State.dumpBegin
  repeat' first
    | with_reducible assumption
    | (extract_lets -underBinder -merge +onlyGivenNames x; refine keepCut (r := st0) (x := x) ?_ (fun hx => ?_); (on_goal 1 => (unfold x; clear x)); (on_goal 2 => clear_value x))
    | (extract_lets -underBinder -merge +onlyGivenNames x; guard_hyp x : SecSt)
    | (extract_lets -underBinder -merge +onlyGivenNames x; clear_value x)
    | with_reducible refine ite_keeps ?_ ?_
    | with_reducible apply State.vaultWrite_keeps
    | with_reducible apply State.dumpFail_keeps
    | with_reducible apply State.modFtl_keeps
    | split
    | (fail_if_no_progress (with_reducible apply Keeps.lit <;> try exact rfl))
    | with_reducible refine snd_ite_keeps ?_ ?_
    | with_reducible refine snd_mk_keeps ?_
    | with_reducible refine pair_keeps (by assumption) ?_
    | intro _
    | beta_reduce

theorem State.dumpCheck_keeps {st0 : Inv} {s : State} (h : Keeps st0 s)  :
    Keeps st0 (State.dumpCheck s) := by
  unfold State.dumpCheck
  repeat' first
    | with_reducible assumption
    | with_reducible refine ite_keeps ?_ ?_
    | with_reducible apply State.dumpFail_keeps
    | split
    | (fail_if_no_progress (with_reducible apply Keeps.lit <;> try exact rfl))
    | with_reducible refine snd_ite_keeps ?_ ?_
    | with_reducible refine snd_mk_keeps ?_
    | with_reducible refine pair_keeps (by assumption) ?_
    | intro _
    | beta_reduce

theorem execVaultDumpEnd_keeps {st0 : Inv} {s : State} (h : Keeps st0 s) {ok : Bool} {rows : Nat} {rewritten : Nat} :
    ResKeeps st0 (execVaultDumpEnd ok rows rewritten s) := by
  unfold execVaultDumpEnd
  try with_reducible refine ResKeeps.next ?_
  repeat' first
    | with_reducible assumption
    | (extract_lets -underBinder -merge +onlyGivenNames x; refine keepCut (r := st0) (x := x) ?_ (fun hx => ?_); (on_goal 1 => (unfold x; clear x)); (on_goal 2 => clear_value x))
    | (extract_lets -underBinder -merge +onlyGivenNames x; guard_hyp x : SecSt)
    | (extract_lets -underBinder -merge +onlyGivenNames x; clear_value x)
    | with_reducible refine ite_keeps ?_ ?_
    | with_reducible refine ResKeeps.next ?_
    | with_reducible apply State.vaultWrite_keeps
    | with_reducible apply State.vaultClose_keeps
    | with_reducible apply State.dumpFail_keeps
    | with_reducible apply State.modFtl_keeps
    | with_reducible apply State.set_keeps
    | with_reducible apply State.bump_keeps
    | split
    | (fail_if_no_progress (with_reducible apply Keeps.lit <;> try exact rfl))
    | with_reducible refine snd_ite_keeps ?_ ?_
    | with_reducible refine snd_mk_keeps ?_
    | with_reducible refine pair_keeps (by assumption) ?_
    | intro _
    | beta_reduce

theorem State.recoverLoad_keeps {r : Inv} [r.Writes] {s : State} (h : Keeps r s) : Keeps r s.recoverLoad := by
  unfold State.recoverLoad
  extract_lets -underBinder -merge +onlyGivenNames s1
  have h1 : Keeps r s1 := State.setAll_keeps (State.modFtl_keeps h)
  clear_value s1
  split
  · refine ite_keeps (State.set_keeps (State.raise_keeps h1)) (ite_keeps (State.modFtl_keeps (State.set_keeps (State.raise_keeps h1))) ?_)
    exact State.sample_keeps (State.set_keeps (State.modWrite_keeps (ite_keeps
      (foldl_keeps h1 (fun _ _ hx => ite_keeps hx (State.keyPut_keeps hx))) h1)))
  · exact ite_keeps (State.set_keeps (State.raise_keeps h1)) (State.set_keeps h1)

theorem State.recoverReplay_keeps {st0 : Inv} [st0.Writes] {s : State} (h : Keeps st0 s) {lost : List Nat}  :
    Keeps st0 (State.recoverReplay s lost) := by
  unfold State.recoverReplay
  repeat' first
    | with_reducible assumption
    | with_reducible apply State.applied_keeps
    | with_reducible apply State.applyRec_keeps
    | with_reducible apply State.bump_keeps
    | with_reducible apply State.modWrite_keeps
    | with_reducible apply State.recLost_keeps
    | with_reducible apply State.modBand_keeps
    | with_reducible apply State.sealCheck_keeps
    | with_reducible apply State.setAll_keeps
    | with_reducible refine foldl_keeps ?_ (fun _ _ _ => ?_)

theorem State.recoverDone_keeps {st0 : Inv} {s : State} (h : Keeps st0 s)  :
    Keeps st0 (State.recoverDone s) := by
  unfold State.recoverDone
  repeat' first
    | with_reducible assumption
    | (extract_lets -underBinder -merge +onlyGivenNames x; refine keepCut (r := st0) (x := x) ?_ (fun hx => ?_); (on_goal 1 => (unfold x; clear x)); (on_goal 2 => clear_value x))
    | (extract_lets -underBinder -merge +onlyGivenNames x; guard_hyp x : SecSt)
    | (extract_lets -underBinder -merge +onlyGivenNames x; clear_value x)
    | with_reducible apply State.sysWrite_keeps
    | with_reducible apply State.ckptTake_keeps
    | with_reducible apply State.modFtl_keeps
    | with_reducible apply State.zeroScan_keeps
    | with_reducible apply State.setAll_keeps
    | with_reducible apply State.irq_keeps
    | split
    | (fail_if_no_progress (with_reducible apply Keeps.lit <;> try exact rfl))
    | with_reducible refine snd_ite_keeps ?_ ?_
    | with_reducible refine snd_mk_keeps ?_
    | with_reducible refine pair_keeps (by assumption) ?_
    | intro _
    | beta_reduce

theorem execFtlRecover_keeps {st0 : Inv} [st0.Writes] {s : State} (h : Keeps st0 s) {lost : List Nat}  :
    ResKeeps st0 (execFtlRecover lost s) := by
  unfold execFtlRecover
  try with_reducible refine ResKeeps.next ?_
  repeat' first
    | with_reducible assumption
    | with_reducible apply State.recoverLoad_keeps
    | with_reducible apply State.recoverReplay_keeps
    | with_reducible apply State.recoverDone_keeps
    | split

theorem execLiveCountRecompute_keeps {st0 : Inv} {s : State} (h : Keeps st0 s)  :
    ResKeeps st0 (execLiveCountRecompute s) := by
  unfold execLiveCountRecompute
  try with_reducible refine ResKeeps.next ?_
  repeat' first
    | with_reducible assumption
    | with_reducible refine ite_keeps ?_ ?_
    | with_reducible refine ResKeeps.next ?_
    | with_reducible apply State.modFtl_keeps
    | split
    | (fail_if_no_progress (with_reducible apply Keeps.lit <;> try exact rfl))
    | with_reducible refine snd_ite_keeps ?_ ?_
    | with_reducible refine snd_mk_keeps ?_
    | with_reducible refine pair_keeps (by assumption) ?_
    | intro _
    | beta_reduce

end Sys2Proof.Machine
end

