-- ==== Sys2Proof/Laws/KeepsKeys.lean ====
section
/-! SUPPORT. The operations and commands of Machine/Keys.lean keep what a state is asked (Laws/Keeps.lean). -/

set_option linter.all false

namespace Sys2Proof.Machine

theorem State.modFlash_keeps {st0 : Inv} {s : State} (h : Keeps st0 s) {f : FlashSt → FlashSt}  :
    Keeps st0 (State.modFlash s f) := by
  unfold State.modFlash
  repeat' first
    | with_reducible assumption
    | (fail_if_no_progress (with_reducible apply Keeps.lit <;> try exact rfl))

theorem State.putItem_keeps {st0 : Inv} {s : State} (h : Keeps st0 s) {id : Nat} {value : Nat} {len : Nat}  :
    Keeps st0 (State.putItem s id value len) := by
  unfold State.putItem
  repeat' first
    | with_reducible assumption
    | with_reducible apply State.modFlash_keeps

theorem State.keyEnd_keeps {st0 : Inv} [st0.Writes] {s : State} (h : Keeps st0 s) {cond : Nat}  :
    Keeps st0 (State.keyEnd s cond) := by
  unfold State.keyEnd
  repeat' first
    | with_reducible assumption
    | with_reducible apply State.blockCond_keeps
    | with_reducible apply State.setAll_keeps
    | with_reducible apply State.bump_keeps
    | with_reducible apply State.irq_keeps
    | with_reducible apply State.raise_keeps
    | with_reducible apply State.modMbx_keeps
    | with_reducible apply State.mbxAnswer_keeps
    | split

theorem State.keyInvalid_keeps {st0 : Inv} [st0.Writes] {s : State} (h : Keeps st0 s) {a0 : Nat} :
    Keeps st0 (State.keyInvalid a0 s) := by
  induction a0 generalizing s with
  | zero =>
    unfold State.keyInvalid
    repeat' first
      | with_reducible assumption
  | succ n ih =>
    unfold State.keyInvalid
    repeat' first
      | with_reducible assumption
      | with_reducible apply State.keyEnd_keeps
      | with_reducible apply ih
      | split

theorem State.kekUsed_keeps {st0 : Inv} {s : State} (h : Keeps st0 s) {a : Nat} {op : Nat} {c : Nat} :
    Keeps st0 (State.kekUsed s a op c) := by
  unfold State.kekUsed
  repeat' first
    | with_reducible assumption
    | with_reducible refine ite_keeps ?_ ?_
    | with_reducible apply State.keyUsed_keeps
    | split
    | (fail_if_no_progress (with_reducible apply Keeps.lit <;> try exact rfl))
    | with_reducible refine snd_ite_keeps ?_ ?_
    | with_reducible refine snd_mk_keeps ?_
    | with_reducible refine pair_keeps (by assumption) ?_
    | intro _
    | beta_reduce

theorem State.keyRun_keeps {st0 : Inv} [st0.Writes] {s : State} (h : Keeps st0 s) {op : Nat} {f : State → Nat → Nat × State} (hf : ∀ t a1, Keeps st0 t → Keeps st0 (f t a1).2) :
    Keeps st0 (State.keyRun s op f) := by
  unfold State.keyRun
  repeat' first
    | with_reducible assumption
    | (extract_lets -underBinder -merge +onlyGivenNames x; refine keepCut (r := st0) (x := x) ?_ (fun hx => ?_); (on_goal 1 => (unfold x; clear x)); (on_goal 2 => clear_value x))
    | with_reducible refine ite_keeps ?_ ?_
    | with_reducible apply State.keyInvalid_keeps
    | with_reducible apply State.keyEnd_keeps
    | with_reducible apply State.kekUsed_keeps
    | with_reducible apply hf
    | split

theorem execInstallVatKey_keeps {st0 : Inv} [st0.Writes] {s : State} (h : Keeps st0 s)   :
    ResKeeps st0 (execInstallVatKey s) := by
  unfold execInstallVatKey
  try with_reducible refine ResKeeps.next ?_
  repeat' first
    | with_reducible assumption
    | (extract_lets -underBinder -merge +onlyGivenNames x; clear_value x)
    | with_reducible refine State.keyRun_keeps ?_ (fun _ _ _ => ?_)
    | with_reducible apply State.keyPut_keeps
    | split

theorem execRemoveVatKey_keeps {st0 : Inv} [st0.Writes] {s : State} (h : Keeps st0 s)   :
    ResKeeps st0 (execRemoveVatKey s) := by
  unfold execRemoveVatKey
  try with_reducible refine ResKeeps.next ?_
  repeat' first
    | with_reducible assumption
    | (extract_lets -underBinder -merge +onlyGivenNames x; clear_value x)
    | with_reducible refine State.keyRun_keeps ?_ (fun _ _ _ => ?_)
    | with_reducible apply State.keyRemove_keeps
    | split

theorem execInstallSlot_keeps {st0 : Inv} [st0.Writes] {s : State} (h : Keeps st0 s)   :
    ResKeeps st0 (execInstallSlot s) := by
  unfold execInstallSlot
  try with_reducible refine ResKeeps.next ?_
  repeat' first
    | with_reducible assumption
    | (extract_lets -underBinder -merge +onlyGivenNames x; refine keepCut (r := st0) (x := x) ?_ (fun hx => ?_); (on_goal 1 => (unfold x; clear x)); (on_goal 2 => clear_value x))
    | (extract_lets -underBinder -merge +onlyGivenNames x; clear_value x)
    | with_reducible refine State.keyRun_keeps ?_ (fun _ _ _ => ?_)
    | with_reducible apply State.keyPut_keeps
    | with_reducible apply State.putItem_keeps
    | split

theorem execImportKek_keeps {st0 : Inv} [st0.Writes] {s : State} (h : Keeps st0 s) {slot : Nat} {use : Nat} {key : Nat} {authOk : Bool}  :
    ResKeeps st0 (execImportKek slot use key authOk s) := by
  unfold execImportKek
  try with_reducible refine ResKeeps.next ?_
  repeat' first
    | with_reducible assumption
    | with_reducible refine State.keyRun_keeps ?_ (fun _ _ _ => ?_)
    | with_reducible apply State.keyPut_keeps
    | with_reducible apply State.putItem_keeps
    | split

theorem execRemoveSlot_keeps {st0 : Inv} [st0.Writes] {s : State} (h : Keeps st0 s)   :
    ResKeeps st0 (execRemoveSlot s) := by
  unfold execRemoveSlot
  try with_reducible refine ResKeeps.next ?_
  repeat' first
    | with_reducible assumption
    | (extract_lets -underBinder -merge +onlyGivenNames x; refine keepCut (r := st0) (x := x) ?_ (fun hx => ?_); (on_goal 1 => (unfold x; clear x)); (on_goal 2 => clear_value x))
    | (extract_lets -underBinder -merge +onlyGivenNames x; clear_value x)
    | with_reducible refine State.keyRun_keeps ?_ (fun _ _ _ => ?_)
    | with_reducible apply State.keyRemove_keeps
    | with_reducible apply State.modFlash_keeps
    | split

theorem execSaltExport_keeps {st0 : Inv} [st0.Writes] {s : State} (h : Keeps st0 s)   :
    ResKeeps st0 (execSaltExport s) := by
  unfold execSaltExport
  try with_reducible refine ResKeeps.next ?_
  repeat' first
    | with_reducible assumption
    | (extract_lets -underBinder -merge +onlyGivenNames x; clear_value x)
    | with_reducible refine State.keyRun_keeps ?_ (fun _ _ _ => ?_)
    | with_reducible apply State.putBytes_keeps
    | split

theorem execSaltImport_keeps {st0 : Inv} [st0.Writes] {s : State} (h : Keeps st0 s)  :
    ResKeeps st0 (execSaltImport s) := by
  unfold execSaltImport
  try with_reducible refine ResKeeps.next ?_
  repeat' first
    | with_reducible assumption
    | (extract_lets -underBinder -merge +onlyGivenNames x; refine keepCut (r := st0) (x := x) ?_ (fun hx => ?_); (on_goal 1 => (unfold x; clear x)); (on_goal 2 => clear_value x))
    | (extract_lets -underBinder -merge +onlyGivenNames x; guard_hyp x : SecSt)
    | (extract_lets -underBinder -merge +onlyGivenNames x; clear_value x)
    | with_reducible refine ite_keeps ?_ ?_
    | with_reducible refine ResKeeps.next ?_
    | with_reducible refine State.keyRun_keeps ?_ (fun _ _ _ => ?_)
    | with_reducible apply State.setVat_keeps
    | with_reducible apply State.keyStore_keeps
    | split
    | (fail_if_no_progress (with_reducible apply Keeps.lit <;> try exact rfl))
    | with_reducible refine snd_ite_keeps ?_ ?_
    | with_reducible refine snd_mk_keeps ?_
    | with_reducible refine pair_keeps (by assumption) ?_
    | intro _
    | beta_reduce

theorem execInstallFabricSalt_keeps {st0 : Inv} [st0.Writes] {s : State} (h : Keeps st0 s)   :
    ResKeeps st0 (execInstallFabricSalt s) := by
  unfold execInstallFabricSalt
  try with_reducible refine ResKeeps.next ?_
  repeat' first
    | with_reducible assumption
    | with_reducible refine State.keyRun_keeps ?_ (fun _ _ _ => ?_)
    | with_reducible apply State.keyPut_keeps
    | with_reducible apply State.putItem_keeps
    | split

theorem execSetPairKey_keeps {st0 : Inv} [st0.Writes] {s : State} (h : Keeps st0 s)   :
    ResKeeps st0 (execSetPairKey s) := by
  unfold execSetPairKey
  try with_reducible refine ResKeeps.next ?_
  repeat' first
    | with_reducible assumption
    | with_reducible refine State.keyRun_keeps ?_ (fun _ _ _ => ?_)
    | with_reducible refine State.modSec_keeps ?_ rfl
    | with_reducible apply State.putItem_keeps
    | split

theorem execQuote_keeps {st0 : Inv} [st0.Writes] {s : State} (h : Keeps st0 s)   :
    ResKeeps st0 (execQuote s) := by
  unfold execQuote
  try with_reducible refine ResKeeps.next ?_
  repeat' first
    | with_reducible assumption
    | (extract_lets -underBinder -merge +onlyGivenNames x; clear_value x)
    | with_reducible refine State.keyRun_keeps ?_ (fun _ _ _ => ?_)
    | with_reducible apply State.putBytes_keeps
    | split

theorem execIdentity_keeps {st0 : Inv} [st0.Writes] {s : State} (h : Keeps st0 s)   :
    ResKeeps st0 (execIdentity s) := by
  unfold execIdentity
  try with_reducible refine ResKeeps.next ?_
  repeat' first
    | with_reducible assumption
    | with_reducible refine State.keyRun_keeps ?_ (fun _ _ _ => ?_)
    | with_reducible apply State.putBytes_keeps

theorem execRandom_keeps {st0 : Inv} [st0.Writes] {s : State} (h : Keeps st0 s)   :
    ResKeeps st0 (execRandom s) := by
  unfold execRandom
  try with_reducible refine ResKeeps.next ?_
  repeat' first
    | with_reducible assumption
    | (extract_lets -underBinder -merge +onlyGivenNames x; clear_value x)
    | with_reducible refine State.keyRun_keeps ?_ (fun _ _ _ => ?_)
    | with_reducible apply State.draw256_keeps
    | with_reducible apply State.putBytes_keeps
    | split

theorem execHmac_keeps {st0 : Inv} [st0.Writes] {s : State} (h : Keeps st0 s)   :
    ResKeeps st0 (execHmac s) := by
  unfold execHmac
  try with_reducible refine ResKeeps.next ?_
  repeat' first
    | with_reducible assumption
    | (extract_lets -underBinder -merge +onlyGivenNames x; refine keepCut (r := st0) (x := x) ?_ (fun hx => ?_); (on_goal 1 => (unfold x; clear x)); (on_goal 2 => clear_value x))
    | (extract_lets -underBinder -merge +onlyGivenNames x; clear_value x)
    | with_reducible apply State.keyInvalid_keeps
    | with_reducible apply State.keyEnd_keeps
    | with_reducible apply State.newReq_keeps
    | with_reducible apply State.set_keeps
    | with_reducible refine State.modSec_keeps ?_ rfl
    | split

theorem State.hmacEnd_keeps {st0 : Inv} [st0.Writes] {s : State} (h : Keeps st0 s) {r : Req} :
    Keeps st0 (State.hmacEnd s r) := by
  unfold State.hmacEnd
  repeat' first
    | with_reducible assumption
    | (extract_lets -underBinder -merge +onlyGivenNames x; refine keepCut (r := st0) (x := x) ?_ (fun hx => ?_); (on_goal 1 => (unfold x; clear x)); (on_goal 2 => clear_value x))
    | (extract_lets -underBinder -merge +onlyGivenNames x; guard_hyp x : SecSt)
    | (extract_lets -underBinder -merge +onlyGivenNames x; clear_value x)
    | with_reducible refine ite_keeps ?_ ?_
    | with_reducible apply State.sampleDone_keeps
    | with_reducible apply State.dropReq_keeps
    | with_reducible apply State.keyEnd_keeps
    | with_reducible apply State.bump_keeps
    | with_reducible refine State.modSec_keeps ?_ rfl
    | with_reducible apply State.digestOut_keeps
    | split
    | (fail_if_no_progress (with_reducible apply Keeps.lit <;> try exact rfl))
    | with_reducible refine snd_ite_keeps ?_ ?_
    | with_reducible refine snd_mk_keeps ?_
    | with_reducible refine pair_keeps (by assumption) ?_
    | intro _
    | beta_reduce

theorem execDigestJobEnd_keeps {st0 : Inv} [st0.Writes] {s : State} (h : Keeps st0 s) {tag : Nat} :
    ResKeeps st0 (execDigestJobEnd tag s) := by
  unfold execDigestJobEnd
  try with_reducible refine ResKeeps.next ?_
  repeat' first
    | with_reducible assumption
    | (extract_lets -underBinder -merge +onlyGivenNames x; refine keepCut (r := st0) (x := x) ?_ (fun hx => ?_); (on_goal 1 => (unfold x; clear x)); (on_goal 2 => clear_value x))
    | (extract_lets -underBinder -merge +onlyGivenNames x; guard_hyp x : SecSt)
    | (extract_lets -underBinder -merge +onlyGivenNames x; clear_value x)
    | with_reducible refine ite_keeps ?_ ?_
    | with_reducible refine ResKeeps.next ?_
    | with_reducible apply State.dropReq_keeps
    | with_reducible apply State.stage_keeps
    | with_reducible apply State.keyEnd_keeps
    | with_reducible apply State.hmacEnd_keeps
    | with_reducible apply State.raise_keeps
    | with_reducible refine State.modSec_keeps ?_ rfl
    | with_reducible apply State.digestOut_keeps
    | with_reducible apply State.digestEnd_keeps
    | with_reducible apply State.compressed_keeps
    | split
    | (fail_if_no_progress (with_reducible apply Keeps.lit <;> try exact rfl))
    | with_reducible refine snd_ite_keeps ?_ ?_
    | with_reducible refine snd_mk_keeps ?_
    | with_reducible refine pair_keeps (by assumption) ?_
    | intro _
    | beta_reduce

theorem execEntropyStartupTest_keeps {st0 : Inv} {s : State} (h : Keeps st0 s) {samples : List Nat} :
    ResKeeps st0 (execEntropyStartupTest samples s) := by
  unfold execEntropyStartupTest
  try with_reducible refine ResKeeps.next ?_
  repeat' first
    | with_reducible assumption
    | (extract_lets -underBinder -merge +onlyGivenNames x; refine keepCut (r := st0) (x := x) ?_ (fun hx => ?_); (on_goal 1 => (unfold x; clear x)); (on_goal 2 => clear_value x))
    | (extract_lets -underBinder -merge +onlyGivenNames x; guard_hyp x : SecSt)
    | (extract_lets -underBinder -merge +onlyGivenNames x; clear_value x)
    | with_reducible refine ite_keeps ?_ ?_
    | with_reducible refine ResKeeps.next ?_
    | with_reducible apply State.set_keeps
    | with_reducible apply State.bump_keeps
    | with_reducible apply State.raise_keeps
    | with_reducible refine State.modSec_keeps ?_ rfl
    | split
    | (fail_if_no_progress (with_reducible apply Keeps.lit <;> try exact rfl))
    | with_reducible refine snd_ite_keeps ?_ ?_
    | with_reducible refine snd_mk_keeps ?_
    | with_reducible refine pair_keeps (by assumption) ?_
    | intro _
    | beta_reduce

theorem execEntropyTestFail_keeps {st0 : Inv} {s : State} (h : Keeps st0 s) {rct : Bool}  :
    ResKeeps st0 (execEntropyTestFail rct s) := by
  unfold execEntropyTestFail
  try with_reducible refine ResKeeps.next ?_
  repeat' first
    | with_reducible assumption
    | with_reducible refine ite_keeps ?_ ?_
    | with_reducible apply State.bump_keeps
    | with_reducible apply State.setAll_keeps
    | with_reducible apply State.raiseAt_keeps
    | with_reducible apply State.raise_keeps

theorem execEntropyRecovered_keeps {st0 : Inv} {s : State} (h : Keeps st0 s)   :
    ResKeeps st0 (execEntropyRecovered s) := by
  unfold execEntropyRecovered
  try with_reducible refine ResKeeps.next ?_
  repeat' first
    | with_reducible assumption
    | with_reducible refine ite_keeps ?_ ?_
    | with_reducible apply State.set_keeps

theorem execDrbgReseed_keeps {st0 : Inv} {s : State} (h : Keeps st0 s)   :
    ResKeeps st0 (execDrbgReseed s) := by
  unfold execDrbgReseed
  try with_reducible refine ResKeeps.next ?_
  repeat' first
    | with_reducible assumption
    | with_reducible refine ite_keeps ?_ ?_
    | with_reducible apply State.set_keeps
    | with_reducible apply State.bump_keeps
    | with_reducible refine State.modSec_keeps ?_ rfl

theorem State.modFuses_keeps {r : Inv} {s : State} (h : Keeps r s) {f : Fuses → Fuses} (hf : r.fuses (f s.sec.fuses)) :
    Keeps r (s.modFuses f) := ⟨h.queue, h.mem, hf⟩

theorem State.fuseResult_keeps {st0 : Inv} {s : State} (h : Keeps st0 s) {result : Nat} {cond : Nat}  :
    Keeps st0 (State.fuseResult s result cond) := by
  unfold State.fuseResult
  repeat' first
    | with_reducible assumption
    | with_reducible refine ite_keeps ?_ ?_
    | with_reducible apply State.setAll_keeps
    | with_reducible apply State.raise_keeps

theorem State.fuseProg_keeps {r : Inv} [r.Blows] {s : State} (h : Keeps r s) {op value : Nat} {ok : Bool} : Keeps r (s.fuseProg op value ok) := by
  unfold State.fuseProg
  split
  · exact State.fuseResult_keeps h
  · rename_i ha
    have ha : s.fuseAllowed op = true := by simpa using ha
    dsimp only
    refine ite_keeps (State.fuseResult_keeps (State.modFuses_keeps (State.modSec_keeps h rfl) ?_)) (State.fuseResult_keeps (State.modSec_keeps h rfl))
    show r.fuses (s.sec.fuses.blow op value)
    refine Inv.Blows.blow (fun e => ?_) h.fuses
    subst e
    unfold State.fuseAllowed at ha
    have h2 := (Bool.and_eq_true_iff.mp ha).2
    simpa using h2

theorem fuseBus_keeps {st0 : Inv} [st0.Blows] {s : State} (h : Keeps st0 s) {m : Nat} {op : Nat} {addr : Nat} {ok : Bool}  :
    ResKeeps st0 (fuseBus m op addr ok s) := by
  unfold fuseBus
  try with_reducible refine ResKeeps.next ?_
  repeat' first
    | with_reducible assumption
    | with_reducible refine State.busWr_keeps ?_ (fun _ _ => ?_)
    | with_reducible apply State.fuseProg_keeps

theorem execFuseSvnD_keeps {st0 : Inv} [st0.Blows] {s : State} (h : Keeps st0 s) {m : Nat} {ok : Bool}  :
    ResKeeps st0 (execFuseSvnD m ok s) := by
  unfold execFuseSvnD
  try with_reducible refine ResKeeps.next ?_
  repeat' first
    | with_reducible assumption
    | with_reducible apply fuseBus_keeps

theorem execFuseSvnI_keeps {st0 : Inv} [st0.Blows] {s : State} (h : Keeps st0 s) {m : Nat} {ok : Bool}  :
    ResKeeps st0 (execFuseSvnI m ok s) := by
  unfold execFuseSvnI
  try with_reducible refine ResKeeps.next ?_
  repeat' first
    | with_reducible assumption
    | with_reducible apply fuseBus_keeps

theorem execFuseRootI_keeps {st0 : Inv} [st0.Blows] {s : State} (h : Keeps st0 s) {m : Nat} {addr : Nat} {ok : Bool}  :
    ResKeeps st0 (execFuseRootI m addr ok s) := by
  unfold execFuseRootI
  try with_reducible refine ResKeeps.next ?_
  repeat' first
    | with_reducible assumption
    | with_reducible apply fuseBus_keeps

theorem execFuseDebugDisable_keeps {st0 : Inv} [st0.Blows] {s : State} (h : Keeps st0 s) {m : Nat} {ok : Bool}  :
    ResKeeps st0 (execFuseDebugDisable m ok s) := by
  unfold execFuseDebugDisable
  try with_reducible refine ResKeeps.next ?_
  repeat' first
    | with_reducible assumption
    | with_reducible apply fuseBus_keeps

theorem execFuseDebugRoot_keeps {st0 : Inv} [st0.Blows] {s : State} (h : Keeps st0 s) {m : Nat} {ok : Bool}  :
    ResKeeps st0 (execFuseDebugRoot m ok s) := by
  unfold execFuseDebugRoot
  try with_reducible refine ResKeeps.next ?_
  repeat' first
    | with_reducible assumption
    | with_reducible apply fuseBus_keeps

end Sys2Proof.Machine
end

