-- ==== Sys2Proof/Laws/KeepsMedia.lean ====
section
/-! SUPPORT. The operations and commands of Machine/Media.lean keep what a state is asked (Laws/Keeps.lean). -/

set_option linter.all false

namespace Sys2Proof.Machine

theorem State.sendOwner_keeps {st0 : Inv} {s : State} (h : Keeps st0 s) {k : Nat} {sh : Nat}  :
    Keeps st0 (State.sendOwner s k sh) := by
  unfold State.sendOwner
  repeat' first
    | with_reducible assumption
    | with_reducible apply State.modBrick_keeps
    | with_reducible apply State.modLink_keeps
    | with_reducible apply State.pumpLink_keeps

theorem State.sendOwners_keeps {st0 : Inv} {s : State} (h : Keeps st0 s) {k : Nat}  :
    Keeps st0 (State.sendOwners s k) := by
  unfold State.sendOwners
  repeat' first
    | with_reducible assumption
    | with_reducible apply State.sendOwner_keeps
    | with_reducible refine foldl_keeps ?_ (fun _ _ _ => ?_)

theorem State.ownersToAll_keeps {st0 : Inv} {s : State} (h : Keeps st0 s) {sh : Nat} :
    Keeps st0 (State.ownersToAll s sh) := by
  unfold State.ownersToAll
  repeat' first
    | with_reducible assumption
    | (extract_lets -underBinder -merge +onlyGivenNames x; refine keepCut (r := st0) (x := x) ?_ (fun hx => ?_); (on_goal 1 => (unfold x; clear x)); (on_goal 2 => clear_value x))
    | (extract_lets -underBinder -merge +onlyGivenNames x; guard_hyp x : SecSt)
    | (extract_lets -underBinder -merge +onlyGivenNames x; clear_value x)
    | with_reducible apply State.modMedia_keeps
    | with_reducible apply State.modPair_keeps
    | with_reducible apply State.sendOwner_keeps
    | with_reducible refine foldl_keeps ?_ (fun _ _ _ => ?_)
    | split
    | (fail_if_no_progress (with_reducible apply Keeps.lit <;> try exact rfl))
    | with_reducible refine snd_ite_keeps ?_ ?_
    | with_reducible refine snd_mk_keeps ?_
    | with_reducible refine pair_keeps (by assumption) ?_
    | intro _
    | beta_reduce

theorem State.brkResult_keeps {st0 : Inv} {s : State} (h : Keeps st0 s) {k : Nat} {result : Nat} {cond : Nat}  :
    Keeps st0 (State.brkResult s k result cond) := by
  unfold State.brkResult
  repeat' first
    | with_reducible assumption
    | with_reducible refine ite_keeps ?_ ?_
    | with_reducible apply State.setAll_keeps
    | with_reducible apply State.modBrick_keeps
    | with_reducible apply State.irq_keeps

theorem State.placeAgain_keeps {st0 : Inv} {s : State} (h : Keeps st0 s) {p : Placement} :
    Keeps st0 (State.placeAgain s p) := by
  unfold State.placeAgain
  repeat' first
    | with_reducible assumption
    | (extract_lets -underBinder -merge +onlyGivenNames x; refine keepCut (r := st0) (x := x) ?_ (fun hx => ?_); (on_goal 1 => (unfold x; clear x)); (on_goal 2 => clear_value x))
    | (extract_lets -underBinder -merge +onlyGivenNames x; guard_hyp x : SecSt)
    | (extract_lets -underBinder -merge +onlyGivenNames x; clear_value x)
    | with_reducible refine ite_keeps ?_ ?_
    | with_reducible apply State.place_keeps
    | with_reducible apply State.modJob_keeps
    | with_reducible apply State.placeJob_keeps
    | with_reducible apply State.stage_keeps
    | with_reducible apply State.movePlace_keeps
    | with_reducible apply State.modFtl_keeps
    | with_reducible apply State.bump_keeps
    | split
    | (fail_if_no_progress (with_reducible apply Keeps.lit <;> try exact rfl))
    | with_reducible refine snd_ite_keeps ?_ ?_
    | with_reducible refine snd_mk_keeps ?_
    | with_reducible refine pair_keeps (by assumption) ?_
    | intro _
    | beta_reduce

theorem State.programFail_keeps {st0 : Inv} {s : State} (h : Keeps st0 s) {b : Nat} {row : Nat} {i : Nat} {retire : Bool} :
    Keeps st0 (State.programFail s b row i retire) := by
  unfold State.programFail
  repeat' first
    | with_reducible assumption
    | (extract_lets -underBinder -merge +onlyGivenNames x; refine keepCut (r := st0) (x := x) ?_ (fun hx => ?_); (on_goal 1 => (unfold x; clear x)); (on_goal 2 => clear_value x))
    | (extract_lets -underBinder -merge +onlyGivenNames x; guard_hyp x : SecSt)
    | (extract_lets -underBinder -merge +onlyGivenNames x; clear_value x)
    | with_reducible refine ite_keeps ?_ ?_
    | with_reducible apply State.closeBand_keeps
    | with_reducible apply State.queueReloc_keeps
    | with_reducible apply State.sealCheck_keeps
    | with_reducible apply State.modFtl_keeps
    | with_reducible apply State.modBand_keeps
    | with_reducible apply State.placeAgain_keeps
    | with_reducible apply State.bump_keeps
    | with_reducible apply State.raise_keeps
    | with_reducible refine foldl_keeps ?_ (fun _ _ _ => ?_)
    | split
    | (fail_if_no_progress (with_reducible apply Keeps.lit <;> try exact rfl))
    | with_reducible refine snd_ite_keeps ?_ ?_
    | with_reducible refine snd_mk_keeps ?_
    | with_reducible refine pair_keeps (by assumption) ?_
    | intro _
    | beta_reduce

theorem State.rowsProgrammed_keeps {st0 : Inv} {s : State} (h : Keeps st0 s)  :
    Keeps st0 (State.rowsProgrammed s) := by
  unfold State.rowsProgrammed
  repeat' first
    | with_reducible assumption
    | (extract_lets -underBinder -merge +onlyGivenNames x; refine keepCut (r := st0) (x := x) ?_ (fun hx => ?_); (on_goal 1 => (unfold x; clear x)); (on_goal 2 => clear_value x))
    | (extract_lets -underBinder -merge +onlyGivenNames x; guard_hyp x : SecSt)
    | (extract_lets -underBinder -merge +onlyGivenNames x; clear_value x)
    | with_reducible refine ite_keeps ?_ ?_
    | with_reducible apply State.takeProgrammed_keeps
    | with_reducible apply State.jobProgrammed_keeps
    | with_reducible apply State.moveProgrammed_keeps
    | with_reducible apply State.sumWritten_keeps
    | with_reducible apply State.pageWritten_keeps
    | with_reducible apply State.leafWritten_keeps
    | with_reducible apply State.segWritten_keeps
    | with_reducible refine foldl_keeps ?_ (fun _ _ _ => ?_)
    | split
    | (fail_if_no_progress (with_reducible apply Keeps.lit <;> try exact rfl))
    | with_reducible refine snd_ite_keeps ?_ ?_
    | with_reducible refine snd_mk_keeps ?_
    | with_reducible refine pair_keeps (by assumption) ?_
    | intro _
    | beta_reduce

theorem State.stripProgrammed_keeps {st0 : Inv} [st0.Writes] {s : State} (h : Keeps st0 s) {b : Nat} {row : Nat}  :
    Keeps st0 (State.stripProgrammed s b row) := by
  unfold State.stripProgrammed
  repeat' first
    | with_reducible assumption
    | with_reducible apply State.modFtl_keeps
    | with_reducible apply State.rowsProgrammed_keeps

theorem State.orphanOps_keeps {st0 : Inv} {s : State} (h : Keeps st0 s) {p : Purpose}  :
    Keeps st0 (State.orphanOps s p) := by
  unfold State.orphanOps
  repeat' first
    | with_reducible assumption
    | with_reducible apply State.modMedia_keeps

theorem State.opReadBad_keeps {st0 : Inv} {s : State} (h : Keeps st0 s) {ln : Nat} {o : MOp}  :
    Keeps st0 (State.opReadBad s ln o) := by
  unfold State.opReadBad
  repeat' first
    | with_reducible assumption
    | with_reducible apply State.fetchBad_keeps
    | with_reducible apply State.modMeta_keeps
    | with_reducible apply State.orphanOps_keeps
    | with_reducible apply State.moveBad_keeps
    | with_reducible apply State.scanResult_keeps
    | split

theorem State.opReadGot_keeps {st0 : Inv} {s : State} (h : Keeps st0 s) {ln : Nat} {o : MOp} {corrected : Nat} {retries : Nat}  :
    Keeps st0 (State.opReadGot s ln o corrected retries) := by
  unfold State.opReadGot
  repeat' first
    | with_reducible assumption
    | with_reducible apply State.fetchGot_keeps
    | with_reducible apply State.modMeta_keeps
    | with_reducible apply State.moveGot_keeps
    | with_reducible apply State.scanResult_keeps
    | split

theorem State.checkTimeout_keeps {st0 : Inv} {s : State} (h : Keeps st0 s) {k : Nat}  :
    Keeps st0 (State.checkTimeout s k) := by
  unfold State.checkTimeout
  repeat' first
    | with_reducible assumption
    | with_reducible apply State.modBrick_keeps

theorem State.endOp_keeps {st0 : Inv} {s : State} (h : Keeps st0 s) {ln : Nat} {o : MOp} :
    Keeps st0 (State.endOp s ln o) := by
  unfold State.endOp
  repeat' first
    | with_reducible assumption
    | with_reducible apply State.modLink_keeps
    | with_reducible apply State.brkResult_keeps
    | with_reducible apply State.programFail_keeps
    | with_reducible apply State.opReadBad_keeps
    | split
    | (fail_if_no_progress (with_reducible apply Keeps.lit <;> try exact rfl))
    | with_reducible refine snd_ite_keeps ?_ ?_
    | with_reducible refine snd_mk_keeps ?_
    | with_reducible refine pair_keeps (by assumption) ?_
    | intro _
    | beta_reduce

theorem State.brickGone_keeps {st0 : Inv} {s : State} (h : Keeps st0 s) {k : Nat}  :
    Keeps st0 (State.brickGone s k) := by
  unfold State.brickGone
  repeat' first
    | with_reducible assumption
    | with_reducible refine ite_keeps ?_ ?_
    | with_reducible apply State.brickTo_keeps
    | with_reducible apply State.raise_keeps
    | with_reducible apply State.bandsOn_keeps

theorem State.linkDown_keeps {st0 : Inv} {s : State} (h : Keeps st0 s) {ln : Nat} :
    Keeps st0 (State.linkDown s ln) := by
  unfold State.linkDown
  repeat' first
    | with_reducible assumption
    | (extract_lets -underBinder -merge +onlyGivenNames x; refine keepCut (r := st0) (x := x) ?_ (fun hx => ?_); (on_goal 1 => (unfold x; clear x)); (on_goal 2 => clear_value x))
    | (extract_lets -underBinder -merge +onlyGivenNames x; guard_hyp x : SecSt)
    | (extract_lets -underBinder -merge +onlyGivenNames x; clear_value x)
    | with_reducible refine ite_keeps ?_ ?_
    | with_reducible apply State.modLink_keeps
    | with_reducible apply State.modBrick_keeps
    | with_reducible apply State.linkTo_keeps
    | with_reducible apply State.endOp_keeps
    | with_reducible apply State.brickGone_keeps
    | with_reducible apply State.setAll_keeps
    | with_reducible refine foldl_keeps ?_ (fun _ _ _ => ?_)
    | split
    | (fail_if_no_progress (with_reducible apply Keeps.lit <;> try exact rfl))
    | with_reducible refine snd_ite_keeps ?_ ?_
    | with_reducible refine snd_mk_keeps ?_
    | with_reducible refine pair_keeps (by assumption) ?_
    | intro _
    | beta_reduce

theorem State.startIdent_keeps {st0 : Inv} {s : State} (h : Keeps st0 s) {k : Nat}  :
    Keeps st0 (State.startIdent s k) := by
  unfold State.startIdent
  repeat' first
    | with_reducible assumption
    | with_reducible apply State.brickTo_keeps
    | with_reducible apply State.modBrick_keeps
    | with_reducible apply State.brickSend_keeps

theorem State.linkUp_keeps {st0 : Inv} {s : State} (h : Keeps st0 s) {ln : Nat} :
    Keeps st0 (State.linkUp s ln) := by
  unfold State.linkUp
  repeat' first
    | with_reducible assumption
    | with_reducible apply State.linkTo_keeps
    | with_reducible apply State.startIdent_keeps
    | split
    | (fail_if_no_progress (with_reducible apply Keeps.lit <;> try exact rfl))
    | with_reducible refine snd_ite_keeps ?_ ?_
    | with_reducible refine snd_mk_keeps ?_
    | with_reducible refine pair_keeps (by assumption) ?_
    | intro _
    | beta_reduce

theorem State.linkTrain_keeps {st0 : Inv} {s : State} (h : Keeps st0 s) {ln : Nat}  :
    Keeps st0 (State.linkTrain s ln) := by
  unfold State.linkTrain
  repeat' first
    | with_reducible assumption
    | with_reducible refine ite_keeps ?_ ?_
    | with_reducible apply State.linkTo_keeps

theorem State.linkCtl_keeps {st0 : Inv} [st0.Writes] {s : State} (h : Keeps st0 s) {ln : Nat} {v : Nat}  :
    Keeps st0 (State.linkCtl s ln v) := by
  unfold State.linkCtl
  repeat' first
    | with_reducible assumption
    | with_reducible refine ite_keeps ?_ ?_
    | with_reducible apply State.set_keeps
    | with_reducible apply State.linkDown_keeps
    | with_reducible apply State.linkTrain_keeps
    | with_reducible apply State.linkTo_keeps

theorem execMdlLinkEnable_keeps {st0 : Inv} [st0.Writes] {s : State} (h : Keeps st0 s) {m : Nat} {ln : Nat} {en : Bool}  :
    ResKeeps st0 (execMdlLinkEnable m ln en s) := by
  unfold execMdlLinkEnable
  try with_reducible refine ResKeeps.next ?_
  repeat' first
    | with_reducible assumption
    | with_reducible refine State.busWr_keeps ?_ (fun _ _ => ?_)
    | with_reducible apply State.linkCtl_keeps

theorem execMdlLinkRetrain_keeps {st0 : Inv} [st0.Writes] {s : State} (h : Keeps st0 s) {m : Nat} {ln : Nat}  :
    ResKeeps st0 (execMdlLinkRetrain m ln s) := by
  unfold execMdlLinkRetrain
  try with_reducible refine ResKeeps.next ?_
  repeat' first
    | with_reducible assumption
    | with_reducible refine State.busWr_keeps ?_ (fun _ _ => ?_)
    | with_reducible apply State.linkCtl_keeps

theorem execMdlLinkDown_keeps {st0 : Inv} [st0.Writes] {s : State} (h : Keeps st0 s) {m : Nat} {ln : Nat}  :
    ResKeeps st0 (execMdlLinkDown m ln s) := by
  unfold execMdlLinkDown
  try with_reducible refine ResKeeps.next ?_
  repeat' first
    | with_reducible assumption
    | with_reducible refine State.busWr_keeps ?_ (fun _ _ => ?_)
    | with_reducible apply State.linkCtl_keeps

theorem State.taps_keeps {st0 : Inv} {s : State} (h : Keeps st0 s) {ln : Nat} {reqPre : Nat} {reqPost : Nat} {reqPreset : Nat} :
    Keeps st0 (State.taps s ln reqPre reqPost reqPreset) := by
  unfold State.taps
  repeat' first
    | with_reducible assumption
    | (extract_lets -underBinder -merge +onlyGivenNames x; refine keepCut (r := st0) (x := x) ?_ (fun hx => ?_); (on_goal 1 => (unfold x; clear x)); (on_goal 2 => clear_value x))
    | (extract_lets -underBinder -merge +onlyGivenNames x; guard_hyp x : SecSt)
    | (extract_lets -underBinder -merge +onlyGivenNames x; clear_value x)
    | with_reducible refine ite_keeps ?_ ?_
    | with_reducible apply State.modLink_keeps
    | with_reducible apply State.send_keeps
    | split
    | (fail_if_no_progress (with_reducible apply Keeps.lit <;> try exact rfl))
    | with_reducible refine snd_ite_keeps ?_ ?_
    | with_reducible refine snd_mk_keeps ?_
    | with_reducible refine pair_keeps (by assumption) ?_
    | intro _
    | beta_reduce

theorem State.trainOn_keeps {st0 : Inv} {s : State} (h : Keeps st0 s) {ln : Nat} {phase : Nat} {eqDone : Bool} {ownEq : Bool}  :
    Keeps st0 (State.trainOn s ln phase eqDone ownEq) := by
  unfold State.trainOn
  repeat' first
    | with_reducible assumption
    | with_reducible refine ite_keeps ?_ ?_
    | with_reducible apply State.modLink_keeps
    | with_reducible apply State.linkTo_keeps
    | with_reducible apply State.brickTo_keeps
    | with_reducible apply State.linkUp_keeps

theorem execTrainingBlockRx_keeps {st0 : Inv} {s : State} (h : Keeps st0 s) {ln : Nat} {valid : Bool} {phase : Nat} {eqDone : Bool} {ownEq : Bool} {port : Nat} {reqPre : Nat} {reqPost : Nat} {reqPreset : Nat}  :
    ResKeeps st0 (execTrainingBlockRx ln valid phase eqDone ownEq port reqPre reqPost reqPreset s) := by
  unfold execTrainingBlockRx
  try with_reducible refine ResKeeps.next ?_
  repeat' first
    | with_reducible assumption
    | with_reducible refine ite_keeps ?_ ?_
    | with_reducible apply State.modLink_keeps
    | with_reducible apply State.set_keeps
    | with_reducible apply State.taps_keeps
    | with_reducible apply State.trainOn_keeps

theorem execLinkTrainTimeout_keeps {st0 : Inv} {s : State} (h : Keeps st0 s) {ln : Nat}  :
    ResKeeps st0 (execLinkTrainTimeout ln s) := by
  unfold execLinkTrainTimeout
  try with_reducible refine ResKeeps.next ?_
  dsimp only
  repeat' first
    | with_reducible assumption
    | with_reducible refine ite_keeps ?_ ?_
    | with_reducible apply State.linkTo_keeps
    | with_reducible apply State.brickGone_keeps
    | with_reducible apply State.satInc_keeps
    | with_reducible apply State.raise_keeps

theorem execLinkRecoverTimeout_keeps {st0 : Inv} [st0.Writes] {s : State} (h : Keeps st0 s) {ln : Nat}  :
    ResKeeps st0 (execLinkRecoverTimeout ln s) := by
  unfold execLinkRecoverTimeout
  try with_reducible refine ResKeeps.next ?_
  repeat' first
    | with_reducible assumption
    | with_reducible refine ite_keeps ?_ ?_
    | with_reducible apply State.raise_keeps
    | with_reducible apply State.linkDown_keeps

theorem execBrickCreditRx_keeps {st0 : Inv} {s : State} (h : Keeps st0 s) {ln : Nat} {cmd : Nat} {wdata : Nat}  :
    ResKeeps st0 (execBrickCreditRx ln cmd wdata s) := by
  unfold execBrickCreditRx
  try with_reducible refine ResKeeps.next ?_
  repeat' first
    | with_reducible assumption
    | with_reducible refine ite_keeps ?_ ?_
    | with_reducible apply State.set_keeps
    | with_reducible apply State.pumpLink_keeps

theorem State.opLate_keeps {st0 : Inv} {s : State} (h : Keeps st0 s) {ln : Nat} {o : MOp} :
    Keeps st0 (State.opLate s ln o) := by
  unfold State.opLate
  repeat' first
    | with_reducible assumption
    | with_reducible refine ite_keeps ?_ ?_
    | with_reducible apply State.eraseDone_keeps
    | with_reducible apply State.modPair_keeps
    | with_reducible apply State.sendOwner_keeps
    | with_reducible apply State.brkResult_keeps
    | with_reducible apply State.programFail_keeps
    | with_reducible apply State.opReadBad_keeps
    | with_reducible apply State.checkTimeout_keeps
    | with_reducible apply State.preEraseFail_keeps
    | split
    | (fail_if_no_progress (with_reducible apply Keeps.lit <;> try exact rfl))
    | with_reducible refine snd_ite_keeps ?_ ?_
    | with_reducible refine snd_mk_keeps ?_
    | with_reducible refine pair_keeps (by assumption) ?_
    | intro _
    | beta_reduce

theorem execMediaOpTimeout_keeps {st0 : Inv} [st0.Writes] {s : State} (h : Keeps st0 s) {ln : Nat} {tag : Nat}  :
    ResKeeps st0 (execMediaOpTimeout ln tag s) := by
  unfold execMediaOpTimeout
  try with_reducible refine ResKeeps.next ?_
  repeat' first
    | with_reducible assumption
    | with_reducible apply State.modLink_keeps
    | with_reducible apply State.satInc_keeps
    | with_reducible apply State.raise_keeps
    | with_reducible apply State.opLate_keeps
    | split

end Sys2Proof.Machine
end

