-- ==== Sys2Proof/Laws/KeepsBrick.lean ====
section
/-! SUPPORT. The operations and commands of Machine/Brick.lean keep what a state is asked (Laws/Keeps.lean). -/

set_option linter.all false

namespace Sys2Proof.Machine

theorem State.dieInit_keeps {st0 : Inv} {s : State} (h : Keeps st0 s) {k : Nat} :
    Keeps st0 (State.dieInit s k) := by
  unfold State.dieInit
  repeat' first
    | with_reducible assumption
    | (extract_lets -underBinder -merge +onlyGivenNames x; refine keepCut (r := st0) (x := x) ?_ (fun hx => ?_); (on_goal 1 => (unfold x; clear x)); (on_goal 2 => clear_value x))
    | (extract_lets -underBinder -merge +onlyGivenNames x; guard_hyp x : SecSt)
    | (extract_lets -underBinder -merge +onlyGivenNames x; clear_value x)
    | with_reducible refine ite_keeps ?_ ?_
    | with_reducible apply State.modFtl_keeps
    | with_reducible apply State.drop_keeps
    | with_reducible apply State.free_keeps
    | with_reducible refine foldl_keeps ?_ (fun _ _ _ => ?_)
    | split
    | (fail_if_no_progress (with_reducible apply Keeps.lit <;> try exact rfl))
    | with_reducible refine snd_ite_keeps ?_ ?_
    | with_reducible refine snd_mk_keeps ?_
    | with_reducible refine pair_keeps (by assumption) ?_
    | intro _
    | beta_reduce

theorem State.diesIn_keeps {st0 : Inv} {s : State} (h : Keeps st0 s) {k : Nat} :
    Keeps st0 (State.diesIn s k) := by
  unfold State.diesIn
  repeat' first
    | with_reducible assumption
    | (extract_lets -underBinder -merge +onlyGivenNames x; refine keepCut (r := st0) (x := x) ?_ (fun hx => ?_); (on_goal 1 => (unfold x; clear x)); (on_goal 2 => clear_value x))
    | (extract_lets -underBinder -merge +onlyGivenNames x; guard_hyp x : SecSt)
    | (extract_lets -underBinder -merge +onlyGivenNames x; clear_value x)
    | with_reducible refine ite_keeps ?_ ?_
    | with_reducible apply State.dieInit_keeps
    | with_reducible apply State.exhaust_keeps
    | split
    | (fail_if_no_progress (with_reducible apply Keeps.lit <;> try exact rfl))
    | with_reducible refine snd_ite_keeps ?_ ?_
    | with_reducible refine snd_mk_keeps ?_
    | with_reducible refine pair_keeps (by assumption) ?_
    | intro _
    | beta_reduce

theorem State.brickReady_keeps {st0 : Inv} {s : State} (h : Keeps st0 s) {k : Nat} :
    Keeps st0 (State.brickReady s k) := by
  unfold State.brickReady
  repeat' first
    | with_reducible assumption
    | (extract_lets -underBinder -merge +onlyGivenNames x; refine keepCut (r := st0) (x := x) ?_ (fun hx => ?_); (on_goal 1 => (unfold x; clear x)); (on_goal 2 => clear_value x))
    | (extract_lets -underBinder -merge +onlyGivenNames x; guard_hyp x : SecSt)
    | (extract_lets -underBinder -merge +onlyGivenNames x; clear_value x)
    | with_reducible apply State.modBrick_keeps
    | with_reducible apply State.brickTo_keeps
    | with_reducible apply State.sendOwners_keeps
    | with_reducible apply State.diesIn_keeps
    | split
    | (fail_if_no_progress (with_reducible apply Keeps.lit <;> try exact rfl))
    | with_reducible refine snd_ite_keeps ?_ ?_
    | with_reducible refine snd_mk_keeps ?_
    | with_reducible refine pair_keeps (by assumption) ?_
    | intro _
    | beta_reduce

theorem State.checkArray_keeps {st0 : Inv} {s : State} (h : Keeps st0 s) {k : Nat}  :
    Keeps st0 (State.checkArray s k) := by
  unfold State.checkArray
  repeat' first
    | with_reducible assumption
    | with_reducible refine ite_keeps ?_ ?_
    | with_reducible apply State.brickTo_keeps
    | with_reducible apply State.modBrick_keeps
    | with_reducible apply State.raise_keeps
    | with_reducible apply State.brickSend_keeps

theorem State.slotUse_keeps {st0 : Inv} {s : State} (h : Keeps st0 s) {k : Nat} {i : Nat} :
    Keeps st0 (State.slotUse s k i) := by
  unfold State.slotUse
  repeat' first
    | with_reducible assumption
    | with_reducible apply State.modBrick_keeps
    | with_reducible apply State.set_keeps
    | split
    | (fail_if_no_progress (with_reducible apply Keeps.lit <;> try exact rfl))
    | with_reducible refine snd_ite_keeps ?_ ?_
    | with_reducible refine snd_mk_keeps ?_
    | with_reducible refine pair_keeps (by assumption) ?_
    | intro _
    | beta_reduce

theorem State.checkFormula_keeps {st0 : Inv} {s : State} (h : Keeps st0 s) {k : Nat} :
    Keeps st0 (State.checkFormula s k) := by
  unfold State.checkFormula
  repeat' first
    | with_reducible assumption
    | (extract_lets -underBinder -merge +onlyGivenNames x; refine keepCut (r := st0) (x := x) ?_ (fun hx => ?_); (on_goal 1 => (unfold x; clear x)); (on_goal 2 => clear_value x))
    | (extract_lets -underBinder -merge +onlyGivenNames x; guard_hyp x : SecSt)
    | (extract_lets -underBinder -merge +onlyGivenNames x; clear_value x)
    | with_reducible refine ite_keeps ?_ ?_
    | with_reducible apply State.checkArray_keeps
    | with_reducible apply State.modBrick_keeps
    | with_reducible apply State.brickSend_keeps
    | with_reducible apply State.raise_keeps
    | with_reducible apply State.slotUse_keeps
    | split
    | (fail_if_no_progress (with_reducible apply Keeps.lit <;> try exact rfl))
    | with_reducible refine snd_ite_keeps ?_ ?_
    | with_reducible refine snd_mk_keeps ?_
    | with_reducible refine pair_keeps (by assumption) ?_
    | intro _
    | beta_reduce

theorem execBrickIdentRx_keeps {st0 : Inv} {s : State} (h : Keeps st0 s) {ln : Nat} {tag : Nat} {vendor : Nat} {serial : Nat} {arrayId : Nat} {dieMask : Nat} {fid : Nat} {fver : Nat} {fcheck : Nat} {cmdCredits : Nat} {wdataCredits : Nat} {port : Nat} {other : Bool}  :
    ResKeeps st0 (execBrickIdentRx ln tag vendor serial arrayId dieMask fid fver fcheck cmdCredits wdataCredits port other s) := by
  unfold execBrickIdentRx
  try with_reducible refine ResKeeps.next ?_
  repeat' first
    | with_reducible assumption
    | with_reducible refine State.takeOp_keeps ?_ _ _ (by assumption)
    | with_reducible apply State.strayReply_keeps
    | with_reducible apply State.setAll_keeps
    | with_reducible apply State.replyCredit_keeps
    | with_reducible apply State.modBrick_keeps
    | with_reducible apply State.raise_keeps
    | with_reducible apply State.checkFormula_keeps
    | with_reducible apply State.pumpLink_keeps
    | split

theorem execBrickOwnerRx_keeps {st0 : Inv} {s : State} (h : Keeps st0 s) {ln : Nat} {tag : Nat} {epochA : Nat} {epochB : Nat} {sideA : Nat} {sideB : Nat}  :
    ResKeeps st0 (execBrickOwnerRx ln tag epochA epochB sideA sideB s) := by
  unfold execBrickOwnerRx
  try with_reducible refine ResKeeps.next ?_
  repeat' first
    | with_reducible assumption
    | with_reducible refine State.takeOp_keeps ?_ _ _ (by assumption)
    | with_reducible apply State.strayReply_keeps
    | with_reducible apply State.replyCredit_keeps
    | with_reducible apply State.setAll_keeps
    | with_reducible apply State.modPair_keeps
    | with_reducible apply State.brickReady_keeps
    | with_reducible apply State.pumpLink_keeps
    | split

theorem execIdentRetry_keeps {st0 : Inv} {s : State} (h : Keeps st0 s) {k : Nat}  :
    ResKeeps st0 (execIdentRetry k s) := by
  unfold execIdentRetry
  try with_reducible refine ResKeeps.next ?_
  repeat' first
    | with_reducible assumption
    | with_reducible refine ite_keeps ?_ ?_
    | with_reducible apply State.startIdent_keeps

theorem State.dieFailed_keeps {st0 : Inv} {s : State} (h : Keeps st0 s) {k : Nat} {d : Nat}  :
    Keeps st0 (State.dieFailed s k d) := by
  unfold State.dieFailed
  repeat' first
    | with_reducible assumption
    | with_reducible apply State.raise_keeps
    | with_reducible apply State.modDie_keeps
    | with_reducible apply State.bandsOn_keeps

theorem State.statusCond_keeps {st0 : Inv} {s : State} (h : Keeps st0 s) {ln : Nat} {status : Nat} {o : MOp}  :
    Keeps st0 (State.statusCond s ln status o) := by
  unfold State.statusCond
  repeat' first
    | with_reducible assumption
    | with_reducible refine ite_keeps ?_ ?_
    | with_reducible apply State.satInc_keeps
    | with_reducible apply State.raise_keeps
    | with_reducible apply State.modMedia_keeps
    | with_reducible apply State.loseLease_keeps
    | with_reducible apply State.dieFailed_keeps

theorem State.ownerOk_keeps {st0 : Inv} {s : State} (h : Keeps st0 s) {k : Nat} {sh : Nat} {epoch : Nat} :
    Keeps st0 (State.ownerOk s k sh epoch) := by
  unfold State.ownerOk
  repeat' first
    | with_reducible assumption
    | (extract_lets -underBinder -merge +onlyGivenNames x; refine keepCut (r := st0) (x := x) ?_ (fun hx => ?_); (on_goal 1 => (unfold x; clear x)); (on_goal 2 => clear_value x))
    | (extract_lets -underBinder -merge +onlyGivenNames x; guard_hyp x : SecSt)
    | (extract_lets -underBinder -merge +onlyGivenNames x; clear_value x)
    | with_reducible refine ite_keeps ?_ ?_
    | with_reducible apply State.modBrick_keeps
    | with_reducible apply State.brickTo_keeps
    | with_reducible apply State.modPair_keeps
    | with_reducible apply State.sendOwner_keeps
    | with_reducible apply State.brkResult_keeps
    | with_reducible apply State.set_keeps
    | split
    | (fail_if_no_progress (with_reducible apply Keeps.lit <;> try exact rfl))
    | with_reducible refine snd_ite_keeps ?_ ?_
    | with_reducible refine snd_mk_keeps ?_
    | with_reducible refine pair_keeps (by assumption) ?_
    | intro _
    | beta_reduce

theorem State.adoptOn_keeps {st0 : Inv} {s : State} (h : Keeps st0 s) {k : Nat} :
    Keeps st0 (State.adoptOn s k) := by
  unfold State.adoptOn
  repeat' first
    | with_reducible assumption
    | (extract_lets -underBinder -merge +onlyGivenNames x; refine keepCut (r := st0) (x := x) ?_ (fun hx => ?_); (on_goal 1 => (unfold x; clear x)); (on_goal 2 => clear_value x))
    | (extract_lets -underBinder -merge +onlyGivenNames x; guard_hyp x : SecSt)
    | (extract_lets -underBinder -merge +onlyGivenNames x; clear_value x)
    | with_reducible apply State.modBrick_keeps
    | with_reducible apply State.modFtl_keeps
    | with_reducible apply State.sendOwners_keeps
    | with_reducible apply State.setAll_keeps
    | with_reducible apply State.diesIn_keeps
    | split
    | (fail_if_no_progress (with_reducible apply Keeps.lit <;> try exact rfl))
    | with_reducible refine snd_ite_keeps ?_ ?_
    | with_reducible refine snd_mk_keeps ?_
    | with_reducible refine pair_keeps (by assumption) ?_
    | intro _
    | beta_reduce

theorem State.statusEnd_keeps {st0 : Inv} [st0.Writes] {s : State} (h : Keeps st0 s) {ln : Nat} {status : Nat} {o : MOp} :
    Keeps st0 (State.statusEnd s ln status o) := by
  unfold State.statusEnd
  repeat' first
    | with_reducible assumption
    | (extract_lets -underBinder -merge +onlyGivenNames x; refine keepCut (r := st0) (x := x) ?_ (fun hx => ?_); (on_goal 1 => (unfold x; clear x)); (on_goal 2 => clear_value x))
    | (extract_lets -underBinder -merge +onlyGivenNames x; guard_hyp x : SecSt)
    | (extract_lets -underBinder -merge +onlyGivenNames x; clear_value x)
    | with_reducible refine ite_keeps ?_ ?_
    | with_reducible apply State.eraseDone_keeps
    | with_reducible apply State.checkArray_keeps
    | with_reducible apply State.ownerOk_keeps
    | with_reducible apply State.adoptOn_keeps
    | with_reducible apply State.modBrick_keeps
    | with_reducible apply State.modBand_keeps
    | with_reducible apply State.brkResult_keeps
    | with_reducible apply State.programFail_keeps
    | with_reducible apply State.stripProgrammed_keeps
    | with_reducible apply State.raise_keeps
    | with_reducible apply State.preEraseFail_keeps
    | with_reducible apply State.slotUse_keeps
    | split
    | (fail_if_no_progress (with_reducible apply Keeps.lit <;> try exact rfl))
    | with_reducible refine snd_ite_keeps ?_ ?_
    | with_reducible refine snd_mk_keeps ?_
    | with_reducible refine pair_keeps (by assumption) ?_
    | intro _
    | beta_reduce

theorem execBrickStatusRx_keeps {st0 : Inv} [st0.Writes] {s : State} (h : Keeps st0 s) {ln : Nat} {tag : Nat} {status : Nat}  :
    ResKeeps st0 (execBrickStatusRx ln tag status s) := by
  unfold execBrickStatusRx
  try with_reducible refine ResKeeps.next ?_
  repeat' first
    | with_reducible assumption
    | with_reducible refine State.takeOp_keeps ?_ _ _ (by assumption)
    | with_reducible apply State.strayReply_keeps
    | with_reducible apply State.replyCredit_keeps
    | with_reducible apply State.statusCond_keeps
    | with_reducible apply State.statusEnd_keeps
    | with_reducible apply State.pumpLink_keeps
    | split

theorem State.readFailed_keeps {st0 : Inv} {s : State} (h : Keeps st0 s) {m : Member}  :
    Keeps st0 (State.readFailed s m) := by
  unfold State.readFailed
  repeat' first
    | with_reducible assumption
    | with_reducible refine ite_keeps ?_ ?_
    | with_reducible apply State.modBrick_keeps
    | with_reducible apply State.modBand_keeps
    | with_reducible apply State.queueReloc_keeps
    | with_reducible refine foldl_keeps ?_ (fun _ _ _ => ?_)

theorem execBrickReadDataRx_keeps {st0 : Inv} {s : State} (h : Keeps st0 s) {ln : Nat} {tag : Nat} {status : Nat} {corrected : Nat} {retries : Nat}  :
    ResKeeps st0 (execBrickReadDataRx ln tag status corrected retries s) := by
  unfold execBrickReadDataRx
  try with_reducible refine ResKeeps.next ?_
  repeat' first
    | with_reducible assumption
    | with_reducible refine State.takeOp_keeps ?_ _ _ (by assumption)
    | with_reducible apply State.strayReply_keeps
    | with_reducible apply State.replyCredit_keeps
    | with_reducible apply State.sample_keeps
    | with_reducible apply State.statusCond_keeps
    | with_reducible apply State.satInc_keeps
    | with_reducible apply State.readFailed_keeps
    | with_reducible apply State.opReadGot_keeps
    | with_reducible apply State.opReadBad_keeps
    | with_reducible apply State.pumpLink_keeps
    | split

theorem execBrickEventRx_keeps {st0 : Inv} {s : State} (h : Keeps st0 s) {ln : Nat} {code : Nat} {die : Nat}  :
    ResKeeps st0 (execBrickEventRx ln code die s) := by
  unfold execBrickEventRx
  try with_reducible refine ResKeeps.next ?_
  repeat' first
    | with_reducible assumption
    | with_reducible refine ite_keeps ?_ ?_
    | with_reducible apply State.set_keeps
    | with_reducible apply State.modBrick_keeps
    | with_reducible apply State.startIdent_keeps
    | with_reducible apply State.dieFailed_keeps

theorem State.sbFail_keeps {st0 : Inv} {s : State} (h : Keeps st0 s) {k : Nat}  :
    Keeps st0 (State.sbFail s k) := by
  unfold State.sbFail
  repeat' first
    | with_reducible assumption
    | with_reducible refine ite_keeps ?_ ?_
    | with_reducible apply State.satInc_keeps
    | with_reducible apply State.set_keeps
    | with_reducible apply State.raise_keeps
    | with_reducible apply State.brickGone_keeps

theorem State.sbShow_keeps {st0 : Inv} {s : State} (h : Keeps st0 s) {k : Nat} {status : Nat} {temp : Nat}  :
    Keeps st0 (State.sbShow s k status temp) := by
  unfold State.sbShow
  repeat' first
    | with_reducible assumption
    | with_reducible refine ite_keeps ?_ ?_
    | with_reducible apply State.setAll_keeps
    | with_reducible apply State.brickTo_keeps

theorem execSidebandAlert_keeps {st0 : Inv} {s : State} (h : Keeps st0 s) {k : Nat} {answered : Bool} {status : Nat} {temp : Nat}  :
    ResKeeps st0 (execSidebandAlert k answered status temp s) := by
  unfold execSidebandAlert
  try with_reducible refine ResKeeps.next ?_
  repeat' first
    | with_reducible assumption
    | with_reducible refine ite_keeps ?_ ?_
    | with_reducible apply State.sbShow_keeps
    | with_reducible apply State.sbFail_keeps

theorem execSidebandPoll_keeps {st0 : Inv} {s : State} (h : Keeps st0 s) {k : Nat} {answered : Bool} {status : Nat} {temp : Nat}  :
    ResKeeps st0 (execSidebandPoll k answered status temp s) := by
  unfold execSidebandPoll
  try with_reducible refine ResKeeps.next ?_
  repeat' first
    | with_reducible assumption
    | with_reducible refine ite_keeps ?_ ?_
    | with_reducible apply State.modBrick_keeps
    | with_reducible apply State.sbShow_keeps
    | with_reducible apply State.sbFail_keeps

theorem State.brkRun_keeps {st0 : Inv} {s : State} (h : Keeps st0 s) {k : Nat} {op : Nat} {acked : Bool}  :
    Keeps st0 (State.brkRun s k op acked) := by
  unfold State.brkRun
  repeat' first
    | with_reducible assumption
    | with_reducible apply State.set_keeps
    | with_reducible apply State.modBrick_keeps
    | with_reducible apply State.brickSend_keeps
    | with_reducible apply State.brickTo_keeps
    | with_reducible apply State.brkResult_keeps
    | with_reducible apply State.bandsOn_keeps
    | with_reducible apply State.startIdent_keeps
    | with_reducible apply State.sbFail_keeps
    | split

theorem State.brkCmd_keeps {st0 : Inv} {s : State} (h : Keeps st0 s) {k : Nat} {op : Nat} {acked : Bool}  :
    Keeps st0 (State.brkCmd s k op acked) := by
  unfold State.brkCmd
  repeat' first
    | with_reducible assumption
    | with_reducible refine ite_keeps ?_ ?_
    | with_reducible apply State.raise_keeps
    | with_reducible apply State.brkRun_keeps
    | with_reducible apply State.brkResult_keeps

theorem brkBus_keeps {st0 : Inv} {s : State} (h : Keeps st0 s) {m : Nat} {k : Nat} {op : Nat} {acked : Bool}  :
    ResKeeps st0 (brkBus m k op acked s) := by
  unfold brkBus
  try with_reducible refine ResKeeps.next ?_
  repeat' first
    | with_reducible assumption
    | with_reducible refine State.busWr_keeps ?_ (fun _ _ => ?_)
    | with_reducible apply State.brkCmd_keeps

theorem execBrickAdopt_keeps {st0 : Inv} {s : State} (h : Keeps st0 s) {m : Nat} {k : Nat}  :
    ResKeeps st0 (execBrickAdopt m k s) := by
  unfold execBrickAdopt
  try with_reducible refine ResKeeps.next ?_
  repeat' first
    | with_reducible assumption
    | with_reducible apply brkBus_keeps

theorem execBrickRelease_keeps {st0 : Inv} {s : State} (h : Keeps st0 s) {m : Nat} {k : Nat}  :
    ResKeeps st0 (execBrickRelease m k s) := by
  unfold execBrickRelease
  try with_reducible refine ResKeeps.next ?_
  repeat' first
    | with_reducible assumption
    | with_reducible apply brkBus_keeps

theorem execBrickFail_keeps {st0 : Inv} {s : State} (h : Keeps st0 s) {m : Nat} {k : Nat}  :
    ResKeeps st0 (execBrickFail m k s) := by
  unfold execBrickFail
  try with_reducible refine ResKeeps.next ?_
  repeat' first
    | with_reducible assumption
    | with_reducible apply brkBus_keeps

theorem execBrickAttnOn_keeps {st0 : Inv} {s : State} (h : Keeps st0 s) {m : Nat} {k : Nat} {acked : Bool}  :
    ResKeeps st0 (execBrickAttnOn m k acked s) := by
  unfold execBrickAttnOn
  try with_reducible refine ResKeeps.next ?_
  repeat' first
    | with_reducible assumption
    | with_reducible apply brkBus_keeps

theorem execBrickAttnOff_keeps {st0 : Inv} {s : State} (h : Keeps st0 s) {m : Nat} {k : Nat} {acked : Bool}  :
    ResKeeps st0 (execBrickAttnOff m k acked s) := by
  unfold execBrickAttnOff
  try with_reducible refine ResKeeps.next ?_
  repeat' first
    | with_reducible assumption
    | with_reducible apply brkBus_keeps

theorem execBrickRefresh_keeps {st0 : Inv} {s : State} (h : Keeps st0 s) {m : Nat} {k : Nat}  :
    ResKeeps st0 (execBrickRefresh m k s) := by
  unfold execBrickRefresh
  try with_reducible refine ResKeeps.next ?_
  repeat' first
    | with_reducible assumption
    | with_reducible apply brkBus_keeps

theorem State.dfmResult_keeps {st0 : Inv} {s : State} (h : Keeps st0 s) {f : Nat} {result : Nat} {cond : Nat}  :
    Keeps st0 (State.dfmResult s f result cond) := by
  unfold State.dfmResult
  repeat' first
    | with_reducible assumption
    | with_reducible apply State.setAll_keeps
    | with_reducible apply State.irq_keeps

theorem State.dfmCtl_keeps {st0 : Inv} {s : State} (h : Keeps st0 s) {f : Nat} {op : Nat}  :
    Keeps st0 (State.dfmCtl s f op) := by
  unfold State.dfmCtl
  repeat' first
    | with_reducible assumption
    | with_reducible refine ite_keeps ?_ ?_
    | with_reducible apply State.raise_keeps
    | with_reducible apply State.modMedia_keeps
    | with_reducible apply State.setAll_keeps
    | with_reducible apply State.dfmResult_keeps

theorem execDfmLoad_keeps {st0 : Inv} {s : State} (h : Keeps st0 s) {m : Nat} {f : Nat}  :
    ResKeeps st0 (execDfmLoad m f s) := by
  unfold execDfmLoad
  try with_reducible refine ResKeeps.next ?_
  repeat' first
    | with_reducible assumption
    | with_reducible refine State.busWr_keeps ?_ (fun _ _ => ?_)
    | with_reducible apply State.dfmCtl_keeps

theorem execDfmUnload_keeps {st0 : Inv} {s : State} (h : Keeps st0 s) {m : Nat} {f : Nat}  :
    ResKeeps st0 (execDfmUnload m f s) := by
  unfold execDfmUnload
  try with_reducible refine ResKeeps.next ?_
  repeat' first
    | with_reducible assumption
    | with_reducible refine State.busWr_keeps ?_ (fun _ _ => ?_)
    | with_reducible apply State.dfmCtl_keeps

end Sys2Proof.Machine
end

