-- ==== Sys2Proof/Laws/KeepsNvt.lean ====
section
/-! SUPPORT. The operations and commands of Machine/Nvt.lean keep what a state is asked (Laws/Keeps.lean). -/

set_option linter.all false

namespace Sys2Proof.Machine

theorem State.connCmdsEnd_keeps {st0 : Inv} {s : State} (h : Keeps st0 s) {c : Nat}  :
    Keeps st0 (State.connCmdsEnd s c) := by
  unfold State.connCmdsEnd
  repeat' first
    | with_reducible assumption
    | with_reducible apply State.dropReq_keeps
    | with_reducible apply State.wakeHeld_keeps
    | with_reducible refine foldl_keeps ?_ (fun _ _ _ => ?_)

theorem State.connectGone_keeps {st0 : Inv} {s : State} (h : Keeps st0 s) {c : Nat}  :
    Keeps st0 (State.connectGone s c) := by
  unfold State.connectGone
  repeat' first
    | with_reducible assumption
    | with_reducible apply State.modHost_keeps
    | with_reducible apply State.irqIs_keeps
    | with_reducible refine foldl_keeps ?_ (fun _ _ _ => ?_)

theorem State.connFree_keeps {st0 : Inv} {s : State} (h : Keeps st0 s) {c : Nat}  :
    Keeps st0 (State.connFree s c) := by
  unfold State.connFree
  repeat' first
    | with_reducible assumption
    | with_reducible apply State.modHost_keeps

theorem State.connShut_keeps {st0 : Inv} {s : State} (h : Keeps st0 s) {c : Nat} {rst : Bool} {pre : List TcpOut} :
    Keeps st0 (State.connShut s c rst pre) := by
  unfold State.connShut
  repeat' first
    | with_reducible assumption
    | (extract_lets -underBinder -merge +onlyGivenNames x; refine keepCut (r := st0) (x := x) ?_ (fun hx => ?_); (on_goal 1 => (unfold x; clear x)); (on_goal 2 => clear_value x))
    | (extract_lets -underBinder -merge +onlyGivenNames x; guard_hyp x : SecSt)
    | (extract_lets -underBinder -merge +onlyGivenNames x; clear_value x)
    | with_reducible refine ite_keeps ?_ ?_
    | with_reducible apply State.connCmdsEnd_keeps
    | with_reducible apply State.connectGone_keeps
    | with_reducible apply State.connFree_keeps
    | with_reducible apply State.bump_keeps
    | with_reducible apply State.modConn_keeps
    | with_reducible apply State.tcpGo_keeps
    | with_reducible apply State.tcpFrame_keeps
    | split
    | (fail_if_no_progress (with_reducible apply Keeps.lit <;> try exact rfl))
    | with_reducible refine snd_ite_keeps ?_ ?_
    | with_reducible refine snd_mk_keeps ?_
    | with_reducible refine pair_keeps (by assumption) ?_
    | intro _
    | beta_reduce

theorem State.ctrlCheck_keeps {st0 : Inv} {s : State} (h : Keeps st0 s) {k : Nat} :
    Keeps st0 (State.ctrlCheck s k) := by
  unfold State.ctrlCheck
  repeat' first
    | with_reducible assumption
    | (extract_lets -underBinder -merge +onlyGivenNames x; refine keepCut (r := st0) (x := x) ?_ (fun hx => ?_); (on_goal 1 => (unfold x; clear x)); (on_goal 2 => clear_value x))
    | (extract_lets -underBinder -merge +onlyGivenNames x; guard_hyp x : SecSt)
    | (extract_lets -underBinder -merge +onlyGivenNames x; clear_value x)
    | with_reducible refine ite_keeps ?_ ?_
    | with_reducible apply State.setAll_keeps
    | with_reducible apply State.irq_keeps
    | with_reducible apply State.modHost_keeps
    | with_reducible apply State.assocGone_keeps
    | split
    | (fail_if_no_progress (with_reducible apply Keeps.lit <;> try exact rfl))
    | with_reducible refine snd_ite_keeps ?_ ?_
    | with_reducible refine snd_mk_keeps ?_
    | with_reducible refine pair_keeps (by assumption) ?_
    | intro _
    | beta_reduce

theorem State.selftestEnd_keeps {st0 : Inv} {s : State} (h : Keeps st0 s) {result : Nat} :
    Keeps st0 (State.selftestEnd s result) := by
  unfold State.selftestEnd
  repeat' first
    | with_reducible assumption
    | (extract_lets -underBinder -merge +onlyGivenNames x; refine keepCut (r := st0) (x := x) ?_ (fun hx => ?_); (on_goal 1 => (unfold x; clear x)); (on_goal 2 => clear_value x))
    | (extract_lets -underBinder -merge +onlyGivenNames x; guard_hyp x : SecSt)
    | (extract_lets -underBinder -merge +onlyGivenNames x; clear_value x)
    | with_reducible refine ite_keeps ?_ ?_
    | with_reducible apply State.dropReq_keeps
    | with_reducible apply State.setAll_keeps
    | with_reducible apply State.modHost_keeps
    | split
    | (fail_if_no_progress (with_reducible apply Keeps.lit <;> try exact rfl))
    | with_reducible refine snd_ite_keeps ?_ ?_
    | with_reducible refine snd_mk_keeps ?_
    | with_reducible refine pair_keeps (by assumption) ?_
    | intro _
    | beta_reduce

theorem State.teardown_keeps {st0 : Inv} {s : State} (h : Keeps st0 s) {k : Nat} :
    Keeps st0 (State.teardown s k) := by
  unfold State.teardown
  repeat' first
    | with_reducible assumption
    | (extract_lets -underBinder -merge +onlyGivenNames x; refine keepCut (r := st0) (x := x) ?_ (fun hx => ?_); (on_goal 1 => (unfold x; clear x)); (on_goal 2 => clear_value x))
    | (extract_lets -underBinder -merge +onlyGivenNames x; guard_hyp x : SecSt)
    | (extract_lets -underBinder -merge +onlyGivenNames x; clear_value x)
    | with_reducible refine ite_keeps ?_ ?_
    | with_reducible apply State.connShut_keeps
    | with_reducible apply State.ctrlCheck_keeps
    | with_reducible apply State.selftestEnd_keeps
    | with_reducible apply State.bump_keeps
    | with_reducible apply State.modCtrl_keeps
    | with_reducible apply State.assocGone_keeps
    | with_reducible refine foldl_keeps ?_ (fun _ _ _ => ?_)
    | split
    | (fail_if_no_progress (with_reducible apply Keeps.lit <;> try exact rfl))
    | with_reducible refine snd_ite_keeps ?_ ?_
    | with_reducible refine snd_mk_keeps ?_
    | with_reducible refine pair_keeps (by assumption) ?_
    | intro _
    | beta_reduce

theorem State.connEnd_keeps {st0 : Inv} {s : State} (h : Keeps st0 s) {c : Nat} {rst : Bool} {pre : List TcpOut}  :
    Keeps st0 (State.connEnd s c rst pre) := by
  unfold State.connEnd
  repeat' first
    | with_reducible assumption
    | (extract_lets -underBinder -merge +onlyGivenNames x; refine keepCut (r := st0) (x := x) ?_ (fun hx => ?_); (on_goal 1 => (unfold x; clear x)); (on_goal 2 => clear_value x))
    | with_reducible apply State.connShut_keeps
    | with_reducible apply State.teardown_keeps
    | with_reducible apply State.ctrlCheck_keeps
    | split

theorem State.termReq_keeps {st0 : Inv} {s : State} (h : Keeps st0 s) {c : Nat} {fes : Nat}  :
    Keeps st0 (State.termReq s c fes) := by
  unfold State.termReq
  repeat' first
    | with_reducible assumption
    | with_reducible apply State.bump_keeps
    | with_reducible apply State.connEnd_keeps

theorem State.transportFatal_keeps {st0 : Inv} {s : State} (h : Keeps st0 s) {c : Nat} {fes : Nat}  :
    Keeps st0 (State.transportFatal s c fes) := by
  unfold State.transportFatal
  repeat' first
    | with_reducible assumption
    | with_reducible apply State.sts_keeps
    | with_reducible apply State.raise_keeps
    | with_reducible apply State.termReq_keeps

theorem execTcpSynRx_keeps {st0 : Inv} {s : State} (h : Keeps st0 s) {u : Nat} {iface : Nat} {port : Nat} {mac : Nat} {v6 : Bool} {ecn : Bool} {window : Nat} :
    ResKeeps st0 (execTcpSynRx u iface port mac v6 ecn window s) := by
  unfold execTcpSynRx
  try with_reducible refine ResKeeps.next ?_
  repeat' first
    | with_reducible assumption
    | (extract_lets -underBinder -merge +onlyGivenNames x; refine keepCut (r := st0) (x := x) ?_ (fun hx => ?_); (on_goal 1 => (unfold x; clear x)); (on_goal 2 => clear_value x))
    | (extract_lets -underBinder -merge +onlyGivenNames x; guard_hyp x : SecSt)
    | (extract_lets -underBinder -merge +onlyGivenNames x; clear_value x)
    | with_reducible refine ite_keeps ?_ ?_
    | with_reducible refine ResKeeps.next ?_
    | with_reducible apply State.bump_keeps
    | with_reducible apply State.modHost_keeps
    | with_reducible apply State.hfiSend_keeps
    | with_reducible apply State.tcpSend_keeps
    | split
    | (fail_if_no_progress (with_reducible apply Keeps.lit <;> try exact rfl))
    | with_reducible refine snd_ite_keeps ?_ ?_
    | with_reducible refine snd_mk_keeps ?_
    | with_reducible refine pair_keeps (by assumption) ?_
    | intro _
    | beta_reduce

theorem State.tcpAcked_keeps {st0 : Inv} {s : State} (h : Keeps st0 s) {c : Nat} {n : Nat} :
    Keeps st0 (State.tcpAcked s c n) := by
  unfold State.tcpAcked
  repeat' first
    | with_reducible assumption
    | (extract_lets -underBinder -merge +onlyGivenNames x; refine keepCut (r := st0) (x := x) ?_ (fun hx => ?_); (on_goal 1 => (unfold x; clear x)); (on_goal 2 => clear_value x))
    | (extract_lets -underBinder -merge +onlyGivenNames x; guard_hyp x : SecSt)
    | (extract_lets -underBinder -merge +onlyGivenNames x; clear_value x)
    | with_reducible refine ite_keeps ?_ ?_
    | with_reducible apply State.modConn_keeps
    | split
    | (fail_if_no_progress (with_reducible apply Keeps.lit <;> try exact rfl))
    | with_reducible refine snd_ite_keeps ?_ ?_
    | with_reducible refine snd_mk_keeps ?_
    | with_reducible refine pair_keeps (by assumption) ?_
    | intro _
    | beta_reduce

theorem State.tcpAgain_keeps {st0 : Inv} {s : State} (h : Keeps st0 s) {c : Nat} :
    Keeps st0 (State.tcpAgain s c) := by
  unfold State.tcpAgain
  repeat' first
    | with_reducible assumption
    | (extract_lets -underBinder -merge +onlyGivenNames x; refine keepCut (r := st0) (x := x) ?_ (fun hx => ?_); (on_goal 1 => (unfold x; clear x)); (on_goal 2 => clear_value x))
    | (extract_lets -underBinder -merge +onlyGivenNames x; guard_hyp x : SecSt)
    | (extract_lets -underBinder -merge +onlyGivenNames x; clear_value x)
    | with_reducible refine ite_keeps ?_ ?_
    | with_reducible apply State.bump_keeps
    | with_reducible apply State.modConn_keeps
    | with_reducible apply State.tcpFrame_keeps
    | split
    | (fail_if_no_progress (with_reducible apply Keeps.lit <;> try exact rfl))
    | with_reducible refine snd_ite_keeps ?_ ?_
    | with_reducible refine snd_mk_keeps ?_
    | with_reducible refine pair_keeps (by assumption) ?_
    | intro _
    | beta_reduce

theorem State.tcpAck_keeps {st0 : Inv} {s : State} (h : Keeps st0 s) {c : Nat} {n : Nat} :
    Keeps st0 (State.tcpAck s c n) := by
  unfold State.tcpAck
  repeat' first
    | with_reducible assumption
    | (extract_lets -underBinder -merge +onlyGivenNames x; refine keepCut (r := st0) (x := x) ?_ (fun hx => ?_); (on_goal 1 => (unfold x; clear x)); (on_goal 2 => clear_value x))
    | (extract_lets -underBinder -merge +onlyGivenNames x; guard_hyp x : SecSt)
    | (extract_lets -underBinder -merge +onlyGivenNames x; clear_value x)
    | with_reducible refine ite_keeps ?_ ?_
    | with_reducible apply State.tcpAcked_keeps
    | with_reducible apply State.tcpAgain_keeps
    | split
    | (fail_if_no_progress (with_reducible apply Keeps.lit <;> try exact rfl))
    | with_reducible refine snd_ite_keeps ?_ ?_
    | with_reducible refine snd_mk_keeps ?_
    | with_reducible refine pair_keeps (by assumption) ?_
    | intro _
    | beta_reduce

theorem State.tcpDup_keeps {st0 : Inv} {s : State} (h : Keeps st0 s) {c : Nat} :
    Keeps st0 (State.tcpDup s c) := by
  unfold State.tcpDup
  repeat' first
    | with_reducible assumption
    | (extract_lets -underBinder -merge +onlyGivenNames x; refine keepCut (r := st0) (x := x) ?_ (fun hx => ?_); (on_goal 1 => (unfold x; clear x)); (on_goal 2 => clear_value x))
    | (extract_lets -underBinder -merge +onlyGivenNames x; guard_hyp x : SecSt)
    | (extract_lets -underBinder -merge +onlyGivenNames x; clear_value x)
    | with_reducible refine ite_keeps ?_ ?_
    | with_reducible apply State.modConn_keeps
    | with_reducible apply State.tcpAgain_keeps
    | split
    | (fail_if_no_progress (with_reducible apply Keeps.lit <;> try exact rfl))
    | with_reducible refine snd_ite_keeps ?_ ?_
    | with_reducible refine snd_mk_keeps ?_
    | with_reducible refine pair_keeps (by assumption) ?_
    | intro _
    | beta_reduce

theorem State.tcpState_keeps {st0 : Inv} {s : State} (h : Keeps st0 s) {c : Nat} {fin : Bool}  :
    Keeps st0 (State.tcpState s c fin) := by
  unfold State.tcpState
  repeat' first
    | with_reducible assumption
    | (extract_lets -underBinder -merge +onlyGivenNames x; refine keepCut (r := st0) (x := x) ?_ (fun hx => ?_); (on_goal 1 => (unfold x; clear x)); (on_goal 2 => clear_value x))
    | with_reducible apply State.modConn_keeps
    | with_reducible apply State.connEnd_keeps
    | with_reducible apply State.ctrlCheck_keeps
    | with_reducible apply State.connFree_keeps
    | split

theorem State.ctrlDone_keeps {st0 : Inv} {s : State} (h : Keeps st0 s) {id : Nat}  :
    Keeps st0 (State.ctrlDone s id) := by
  unfold State.ctrlDone
  repeat' first
    | with_reducible assumption
    | with_reducible apply State.ctrlCheck_keeps
    | split

theorem execTcpSegmentRx_keeps {st0 : Inv} {s : State} (h : Keeps st0 s) {c : Nat} {ack : Nat} {window : Nat} {dup : Bool} {fin : Bool} {rst : Bool} {ce : Bool} {ece : Bool} {cwr : Bool} :
    ResKeeps st0 (execTcpSegmentRx c ack window dup fin rst ce ece cwr s) := by
  unfold execTcpSegmentRx
  try with_reducible refine ResKeeps.next ?_
  repeat' first
    | with_reducible assumption
    | (extract_lets -underBinder -merge +onlyGivenNames x; refine keepCut (r := st0) (x := x) ?_ (fun hx => ?_); (on_goal 1 => (unfold x; clear x)); (on_goal 2 => clear_value x))
    | (extract_lets -underBinder -merge +onlyGivenNames x; guard_hyp x : SecSt)
    | (extract_lets -underBinder -merge +onlyGivenNames x; clear_value x)
    | with_reducible refine ite_keeps ?_ ?_
    | with_reducible refine ResKeeps.next ?_
    | with_reducible apply State.connFree_keeps
    | with_reducible apply State.connEnd_keeps
    | with_reducible apply State.tcpDup_keeps
    | with_reducible apply State.tcpState_keeps
    | with_reducible apply State.ctrlDone_keeps
    | with_reducible apply State.bump_keeps
    | with_reducible apply State.modConn_keeps
    | with_reducible apply State.tcpGo_keeps
    | with_reducible apply State.tcpAck_keeps
    | split
    | (fail_if_no_progress (with_reducible apply Keeps.lit <;> try exact rfl))
    | with_reducible refine snd_ite_keeps ?_ ?_
    | with_reducible refine snd_mk_keeps ?_
    | with_reducible refine pair_keeps (by assumption) ?_
    | intro _
    | beta_reduce

theorem execTcpRetransmitTimeout_keeps {st0 : Inv} {s : State} (h : Keeps st0 s) {c : Nat} :
    ResKeeps st0 (execTcpRetransmitTimeout c s) := by
  unfold execTcpRetransmitTimeout
  try with_reducible refine ResKeeps.next ?_
  repeat' first
    | with_reducible assumption
    | (extract_lets -underBinder -merge +onlyGivenNames x; refine keepCut (r := st0) (x := x) ?_ (fun hx => ?_); (on_goal 1 => (unfold x; clear x)); (on_goal 2 => clear_value x))
    | (extract_lets -underBinder -merge +onlyGivenNames x; guard_hyp x : SecSt)
    | (extract_lets -underBinder -merge +onlyGivenNames x; clear_value x)
    | with_reducible refine ite_keeps ?_ ?_
    | with_reducible refine ResKeeps.next ?_
    | with_reducible apply State.connEnd_keeps
    | with_reducible apply State.modConn_keeps
    | with_reducible apply State.tcpAgain_keeps
    | split
    | (fail_if_no_progress (with_reducible apply Keeps.lit <;> try exact rfl))
    | with_reducible refine snd_ite_keeps ?_ ?_
    | with_reducible refine snd_mk_keeps ?_
    | with_reducible refine pair_keeps (by assumption) ?_
    | intro _
    | beta_reduce

theorem execTcpTimeWaitExpire_keeps {st0 : Inv} {s : State} (h : Keeps st0 s) {c : Nat}  :
    ResKeeps st0 (execTcpTimeWaitExpire c s) := by
  unfold execTcpTimeWaitExpire
  try with_reducible refine ResKeeps.next ?_
  repeat' first
    | with_reducible assumption
    | with_reducible apply State.connFree_keeps
    | split

theorem execNvtIcreqRx_keeps {st0 : Inv} {s : State} (h : Keeps st0 s) {c : Nat} {pfv : Nat} {hpda : Nat} {hdgst : Bool} {ddgst : Bool}  :
    ResKeeps st0 (execNvtIcreqRx c pfv hpda hdgst ddgst s) := by
  unfold execNvtIcreqRx
  try with_reducible refine ResKeeps.next ?_
  repeat' first
    | with_reducible assumption
    | with_reducible apply State.bump_keeps
    | with_reducible apply State.modConn_keeps
    | with_reducible apply State.tcpSend_keeps
    | with_reducible apply State.termReq_keeps
    | split

theorem execNvtIcreqTimeout_keeps {st0 : Inv} {s : State} (h : Keeps st0 s) {c : Nat}  :
    ResKeeps st0 (execNvtIcreqTimeout c s) := by
  unfold execNvtIcreqTimeout
  try with_reducible refine ResKeeps.next ?_
  repeat' first
    | with_reducible assumption
    | with_reducible apply State.termReq_keeps
    | split

theorem State.connectRefuse_keeps {st0 : Inv} {s : State} (h : Keeps st0 s) {c : Nat} {cid : Nat} {status : Nat}  :
    Keeps st0 (State.connectRefuse s c cid status) := by
  unfold State.connectRefuse
  repeat' first
    | with_reducible assumption
    | with_reducible apply State.modConn_keeps
    | with_reducible apply State.bump_keeps
    | with_reducible apply State.nvmeResp_keeps

theorem State.connectDone_keeps {st0 : Inv} {s : State} (h : Keeps st0 s) {c : Nat} {cid : Nat} {k : Nat} {sqsize : Nat}  :
    Keeps st0 (State.connectDone s c cid k sqsize) := by
  unfold State.connectDone
  repeat' first
    | with_reducible assumption
    | with_reducible apply State.modConn_keeps
    | with_reducible apply State.modCtrl_keeps
    | with_reducible apply State.nvmeResp_keeps

theorem execNvmeConnectAdmin_keeps {st0 : Inv} [st0.Writes] {s : State} (h : Keeps st0 s) {c : Nat} {cid : Nat} {flags : Nat} {sqsize : Nat} {kato : Nat} {data : List Nat}  :
    ResKeeps st0 (execNvmeConnectAdmin c cid flags sqsize kato data s) := by
  unfold execNvmeConnectAdmin
  try with_reducible refine ResKeeps.next ?_
  repeat' first
    | with_reducible assumption
    | (extract_lets -underBinder -merge +onlyGivenNames x; refine keepCut (r := st0) (x := x) ?_ (fun hx => ?_); (on_goal 1 => (unfold x; clear x)); (on_goal 2 => clear_value x))
    | (extract_lets -underBinder -merge +onlyGivenNames x; clear_value x)
    | with_reducible apply State.bump_keeps
    | with_reducible apply State.connectRefuse_keeps
    | with_reducible apply State.modHost_keeps
    | with_reducible apply State.connectDone_keeps
    | with_reducible apply State.modConn_keeps
    | with_reducible apply State.putBytes_keeps
    | with_reducible apply State.irq_keeps
    | split

theorem execNvmeConnectIo_keeps {st0 : Inv} {s : State} (h : Keeps st0 s) {c : Nat} {cid : Nat} {flags : Nat} {qid : Nat} {sqsize : Nat} {data : List Nat}  :
    ResKeeps st0 (execNvmeConnectIo c cid flags qid sqsize data s) := by
  unfold execNvmeConnectIo
  try with_reducible refine ResKeeps.next ?_
  repeat' first
    | with_reducible assumption
    | (extract_lets -underBinder -merge +onlyGivenNames x; refine keepCut (r := st0) (x := x) ?_ (fun hx => ?_); (on_goal 1 => (unfold x; clear x)); (on_goal 2 => clear_value x))
    | (extract_lets -underBinder -merge +onlyGivenNames x; clear_value x)
    | with_reducible apply State.bump_keeps
    | with_reducible apply State.connectRefuse_keeps
    | with_reducible apply State.modConn_keeps
    | with_reducible apply State.modCtrl_keeps
    | with_reducible apply State.nvmeResp_keeps
    | split

theorem State.connectQRead_keeps {st0 : Inv} {s : State} (h : Keeps st0 s) {u : Nat}  :
    Keeps st0 (State.connectQRead s u) := by
  unfold State.connectQRead
  repeat' first
    | with_reducible assumption
    | with_reducible apply State.answer_keeps
    | with_reducible apply State.setAll_keeps
    | with_reducible apply State.modHost_keeps
    | with_reducible apply State.irqIs_keeps
    | split

theorem execNvtConnectQRead_keeps {st0 : Inv} {s : State} (h : Keeps st0 s) {m : Nat} {u : Nat}  :
    ResKeeps st0 (execNvtConnectQRead m u s) := by
  unfold execNvtConnectQRead
  try with_reducible refine ResKeeps.next ?_
  repeat' first
    | with_reducible assumption
    | with_reducible refine State.busRd_keeps ?_ (fun _ _ => ?_)
    | with_reducible apply State.connectQRead_keeps

theorem State.connectAnswer_keeps {st0 : Inv} {s : State} (h : Keeps st0 s) {u : Nat} {slot : Nat} {action : Nat}  :
    Keeps st0 (State.connectAnswer s u slot action) := by
  unfold State.connectAnswer
  repeat' first
    | with_reducible assumption
    | (extract_lets -underBinder -merge +onlyGivenNames x; refine keepCut (r := st0) (x := x) ?_ (fun hx => ?_); (on_goal 1 => (unfold x; clear x)); (on_goal 2 => clear_value x))
    | (extract_lets -underBinder -merge +onlyGivenNames x; clear_value x)
    | with_reducible apply State.raise_keeps
    | with_reducible apply State.modHost_keeps
    | with_reducible apply State.irqIs_keeps
    | with_reducible apply State.modCtrl_keeps
    | with_reducible apply State.connectDone_keeps
    | with_reducible apply State.connectRefuse_keeps
    | split

theorem connectAnsBus_keeps {st0 : Inv} {s : State} (h : Keeps st0 s) {m : Nat} {u : Nat} {slot : Nat} {action : Nat}  :
    ResKeeps st0 (connectAnsBus m u slot action s) := by
  unfold connectAnsBus
  try with_reducible refine ResKeeps.next ?_
  repeat' first
    | with_reducible assumption
    | with_reducible refine State.busWr_keeps ?_ (fun _ _ => ?_)
    | with_reducible apply State.connectAnswer_keeps

theorem execNvtConnectAccept_keeps {st0 : Inv} {s : State} (h : Keeps st0 s) {m : Nat} {u : Nat} {slot : Nat}  :
    ResKeeps st0 (execNvtConnectAccept m u slot s) := by
  unfold execNvtConnectAccept
  try with_reducible refine ResKeeps.next ?_
  repeat' first
    | with_reducible assumption
    | with_reducible apply connectAnsBus_keeps

theorem execNvtConnectRefuseHost_keeps {st0 : Inv} {s : State} (h : Keeps st0 s) {m : Nat} {u : Nat} {slot : Nat}  :
    ResKeeps st0 (execNvtConnectRefuseHost m u slot s) := by
  unfold execNvtConnectRefuseHost
  try with_reducible refine ResKeeps.next ?_
  repeat' first
    | with_reducible assumption
    | with_reducible apply connectAnsBus_keeps

theorem execNvtConnectRefuseBusy_keeps {st0 : Inv} {s : State} (h : Keeps st0 s) {m : Nat} {u : Nat} {slot : Nat}  :
    ResKeeps st0 (execNvtConnectRefuseBusy m u slot s) := by
  unfold execNvtConnectRefuseBusy
  try with_reducible refine ResKeeps.next ?_
  repeat' first
    | with_reducible assumption
    | with_reducible apply connectAnsBus_keeps

theorem execNvtConnectTimeout_keeps {st0 : Inv} {s : State} (h : Keeps st0 s) {u : Nat} {slot : Nat}  :
    ResKeeps st0 (execNvtConnectTimeout u slot s) := by
  unfold execNvtConnectTimeout
  try with_reducible refine ResKeeps.next ?_
  repeat' first
    | with_reducible assumption
    | with_reducible apply State.connectAnswer_keeps
    | with_reducible apply State.raise_keeps
    | split

theorem execKeepAliveExpired_keeps {st0 : Inv} {s : State} (h : Keeps st0 s) {k : Nat}  :
    ResKeeps st0 (execKeepAliveExpired k s) := by
  unfold execKeepAliveExpired
  try with_reducible refine ResKeeps.next ?_
  repeat' first
    | with_reducible assumption
    | with_reducible apply State.raise_keeps
    | with_reducible apply State.bump_keeps
    | with_reducible apply State.teardown_keeps
    | split

theorem State.ctrlCmdEnd_keeps {st0 : Inv} {s : State} (h : Keeps st0 s) {u : Nat} {result : Nat}  :
    Keeps st0 (State.ctrlCmdEnd s u result) := by
  unfold State.ctrlCmdEnd
  repeat' first
    | with_reducible assumption
    | with_reducible apply State.setAll_keeps
    | with_reducible apply State.irq_keeps

theorem State.attachChanged_keeps {st0 : Inv} {s : State} (h : Keeps st0 s) {k : Nat}  :
    Keeps st0 (State.attachChanged s k) := by
  unfold State.attachChanged
  repeat' first
    | with_reducible assumption
    | with_reducible apply State.modCtrl_keeps
    | with_reducible apply State.queueEvent_keeps
    | split

theorem State.ctrlCmd_keeps {st0 : Inv} {s : State} (h : Keeps st0 s) {u : Nat} {op : Nat} {idx : Nat}  :
    Keeps st0 (State.ctrlCmd s u op idx) := by
  unfold State.ctrlCmd
  repeat' first
    | with_reducible assumption
    | (extract_lets -underBinder -merge +onlyGivenNames x; clear_value x)
    | with_reducible apply State.raise_keeps
    | with_reducible apply State.ctrlCmdEnd_keeps
    | with_reducible apply State.modHost_keeps
    | with_reducible apply State.setAll_keeps
    | with_reducible apply State.teardown_keeps
    | with_reducible apply State.attachChanged_keeps
    | split

theorem execNvtCtrlTeardown_keeps {st0 : Inv} {s : State} (h : Keeps st0 s) {m : Nat} {u : Nat} {idx : Nat}  :
    ResKeeps st0 (execNvtCtrlTeardown m u idx s) := by
  unfold execNvtCtrlTeardown
  try with_reducible refine ResKeeps.next ?_
  repeat' first
    | with_reducible assumption
    | with_reducible refine State.busWr_keeps ?_ (fun _ _ => ?_)
    | with_reducible apply State.ctrlCmd_keeps

theorem execNvtAttachChanged_keeps {st0 : Inv} {s : State} (h : Keeps st0 s) {m : Nat} {u : Nat} {idx : Nat}  :
    ResKeeps st0 (execNvtAttachChanged m u idx s) := by
  unfold execNvtAttachChanged
  try with_reducible refine ResKeeps.next ?_
  repeat' first
    | with_reducible assumption
    | with_reducible refine State.busWr_keeps ?_ (fun _ _ => ?_)
    | with_reducible apply State.ctrlCmd_keeps

end Sys2Proof.Machine
end

