-- ==== Sys2Proof/Laws/KeepsNvme.lean ====
section
/-! SUPPORT. The operations and commands of Machine/Nvme.lean keep what a state is asked (Laws/Keeps.lean). -/

set_option linter.all false

namespace Sys2Proof.Machine

theorem State.nvmeTake_keeps {st0 : Inv} {s : State} (h : Keeps st0 s) {c : Nat} {vol : Nat} {f : State → Nat → TcpConn → Ctrl → State} (hf : ∀ t a1 a2 a3, Keeps st0 t → Keeps st0 (f t a1 a2 a3)) :
    Keeps st0 (State.nvmeTake s c vol f) := by
  unfold State.nvmeTake
  repeat' first
    | with_reducible assumption
    | with_reducible apply State.bump_keeps
    | with_reducible apply State.modConn_keeps
    | with_reducible apply State.modCtrl_keeps
    | with_reducible apply State.sts_keeps
    | with_reducible apply hf
    | split

theorem State.nvmeAdmin_keeps {st0 : Inv} {s : State} (h : Keeps st0 s) {c : Nat} {cid : Nat} {flags : Nat} {disc : Bool} {f : State → Nat → Ctrl → State} (hf : ∀ t a1 a2, Keeps st0 t → Keeps st0 (f t a1 a2)) :
    Keeps st0 (State.nvmeAdmin s c cid flags disc f) := by
  unfold State.nvmeAdmin
  repeat' first
    | with_reducible assumption
    | with_reducible refine ite_keeps ?_ ?_
    | with_reducible refine State.nvmeTake_keeps ?_ (fun _ _ _ _ _ => ?_)
    | with_reducible apply State.nvmeResp_keeps
    | with_reducible apply State.bump_keeps
    | with_reducible apply hf

theorem execNvmeIdentify_keeps {st0 : Inv} {s : State} (h : Keeps st0 s) {c : Nat} {cid : Nat} {flags : Nat} {nsid : Nat} {cns : Nat}  :
    ResKeeps st0 (execNvmeIdentify c cid flags nsid cns s) := by
  unfold execNvmeIdentify
  try with_reducible refine ResKeeps.next ?_
  repeat' first
    | with_reducible assumption
    | with_reducible refine ite_keeps ?_ ?_
    | with_reducible refine State.nvmeAdmin_keeps ?_ (fun _ _ _ _ => ?_)
    | with_reducible apply State.nvmeData_keeps
    | with_reducible apply State.nvmeResp_keeps

theorem execNvmeGetFeatures_keeps {st0 : Inv} {s : State} (h : Keeps st0 s) {c : Nat} {cid : Nat} {flags : Nat} {fid : Nat}  :
    ResKeeps st0 (execNvmeGetFeatures c cid flags fid s) := by
  unfold execNvmeGetFeatures
  try with_reducible refine ResKeeps.next ?_
  repeat' first
    | with_reducible assumption
    | with_reducible refine ite_keeps ?_ ?_
    | with_reducible refine State.nvmeAdmin_keeps ?_ (fun _ _ _ _ => ?_)
    | with_reducible apply State.nvmeResp_keeps

theorem execNvmeSetFeatures_keeps {st0 : Inv} {s : State} (h : Keeps st0 s) {c : Nat} {cid : Nat} {flags : Nat} {fid : Nat} {v : Nat}  :
    ResKeeps st0 (execNvmeSetFeatures c cid flags fid v s) := by
  unfold execNvmeSetFeatures
  try with_reducible refine ResKeeps.next ?_
  repeat' first
    | with_reducible assumption
    | with_reducible refine ite_keeps ?_ ?_
    | with_reducible refine State.nvmeAdmin_keeps ?_ (fun _ _ _ _ => ?_)
    | with_reducible apply State.modCtrl_keeps
    | with_reducible apply State.nvmeResp_keeps
    | with_reducible apply State.eventGo_keeps

theorem execNvmeKeepAlive_keeps {st0 : Inv} {s : State} (h : Keeps st0 s) {c : Nat} {cid : Nat} {flags : Nat}  :
    ResKeeps st0 (execNvmeKeepAlive c cid flags s) := by
  unfold execNvmeKeepAlive
  try with_reducible refine ResKeeps.next ?_
  repeat' first
    | with_reducible assumption
    | with_reducible refine State.nvmeAdmin_keeps ?_ (fun _ _ _ _ => ?_)
    | with_reducible apply State.nvmeResp_keeps

theorem execNvmeAsyncEventRequest_keeps {st0 : Inv} {s : State} (h : Keeps st0 s) {c : Nat} {cid : Nat} {flags : Nat}  :
    ResKeeps st0 (execNvmeAsyncEventRequest c cid flags s) := by
  unfold execNvmeAsyncEventRequest
  try with_reducible refine ResKeeps.next ?_
  repeat' first
    | with_reducible assumption
    | with_reducible refine ite_keeps ?_ ?_
    | with_reducible refine State.nvmeAdmin_keeps ?_ (fun _ _ _ _ => ?_)
    | with_reducible apply State.nvmeResp_keeps
    | with_reducible apply State.modCtrl_keeps
    | with_reducible apply State.eventGo_keeps

theorem execNvmePropertyGet_keeps {st0 : Inv} {s : State} (h : Keeps st0 s) {c : Nat} {cid : Nat} {flags : Nat} {ofs : Nat}  :
    ResKeeps st0 (execNvmePropertyGet c cid flags ofs s) := by
  unfold execNvmePropertyGet
  try with_reducible refine ResKeeps.next ?_
  repeat' first
    | with_reducible assumption
    | with_reducible refine ite_keeps ?_ ?_
    | with_reducible refine State.nvmeAdmin_keeps ?_ (fun _ _ _ _ => ?_)
    | with_reducible apply State.nvmeResp_keeps

theorem execNvmePropertySet_keeps {st0 : Inv} {s : State} (h : Keeps st0 s) {c : Nat} {cid : Nat} {flags : Nat} {ofs : Nat} {v : Nat}  :
    ResKeeps st0 (execNvmePropertySet c cid flags ofs v s) := by
  unfold execNvmePropertySet
  try with_reducible refine ResKeeps.next ?_
  repeat' first
    | with_reducible assumption
    | with_reducible refine ite_keeps ?_ ?_
    | with_reducible refine State.nvmeAdmin_keeps ?_ (fun _ _ _ _ => ?_)
    | with_reducible apply State.modCtrl_keeps
    | with_reducible apply State.nvmeResp_keeps

theorem execNvmeDisconnect_keeps {st0 : Inv} {s : State} (h : Keeps st0 s) {c : Nat} {cid : Nat} {flags : Nat} :
    ResKeeps st0 (execNvmeDisconnect c cid flags s) := by
  unfold execNvmeDisconnect
  try with_reducible refine ResKeeps.next ?_
  repeat' first
    | with_reducible assumption
    | with_reducible refine ite_keeps ?_ ?_
    | with_reducible refine ResKeeps.next ?_
    | with_reducible refine State.nvmeTake_keeps ?_ (fun _ _ _ _ _ => ?_)
    | with_reducible apply State.connEnd_keeps
    | with_reducible apply State.nvmeResp_keeps
    | split
    | (fail_if_no_progress (with_reducible apply Keeps.lit <;> try exact rfl))
    | with_reducible refine snd_ite_keeps ?_ ?_
    | with_reducible refine snd_mk_keeps ?_
    | with_reducible refine pair_keeps (by assumption) ?_
    | intro _
    | beta_reduce

theorem execNvmeInvalidOpcode_keeps {st0 : Inv} {s : State} (h : Keeps st0 s) {c : Nat} {cid : Nat} :
    ResKeeps st0 (execNvmeInvalidOpcode c cid s) := by
  unfold execNvmeInvalidOpcode
  try with_reducible refine ResKeeps.next ?_
  repeat' first
    | with_reducible assumption
    | (extract_lets -underBinder -merge +onlyGivenNames x; refine keepCut (r := st0) (x := x) ?_ (fun hx => ?_); (on_goal 1 => (unfold x; clear x)); (on_goal 2 => clear_value x))
    | (extract_lets -underBinder -merge +onlyGivenNames x; guard_hyp x : SecSt)
    | (extract_lets -underBinder -merge +onlyGivenNames x; clear_value x)
    | with_reducible refine ite_keeps ?_ ?_
    | with_reducible refine ResKeeps.next ?_
    | with_reducible apply State.newReq_keeps
    | with_reducible apply State.finish_keeps
    | with_reducible refine State.nvmeTake_keeps ?_ (fun _ _ _ _ _ => ?_)
    | with_reducible apply State.nvmeResp_keeps
    | split
    | (fail_if_no_progress (with_reducible apply Keeps.lit <;> try exact rfl))
    | with_reducible refine snd_ite_keeps ?_ ?_
    | with_reducible refine snd_mk_keeps ?_
    | with_reducible refine pair_keeps (by assumption) ?_
    | intro _
    | beta_reduce

theorem execNvmeGetLogPage_keeps {st0 : Inv} {s : State} (h : Keeps st0 s) {c : Nat} {cid : Nat} {flags : Nat} {nsid : Nat} {lid : Nat} {off : Nat} {len : Nat} {rae : Bool}  :
    ResKeeps st0 (execNvmeGetLogPage c cid flags nsid lid off len rae s) := by
  unfold execNvmeGetLogPage
  try with_reducible refine ResKeeps.next ?_
  dsimp only
  repeat' first
    | with_reducible assumption
    | with_reducible refine ite_keeps ?_ ?_
    | with_reducible refine State.nvmeAdmin_keeps ?_ (fun _ _ _ _ => ?_)
    | with_reducible apply State.modCtrl_keeps
    | with_reducible apply State.nvmeData_keeps
    | with_reducible apply State.eventGo_keeps
    | with_reducible apply State.nvmeResp_keeps
    | with_reducible apply State.free_keeps

theorem State.nvmeIo_keeps {st0 : Inv} {s : State} (h : Keeps st0 s) {c : Nat} {cid : Nat} {flags : Nat} {limit : Nat} {r : Req} {f : State → Nat → Req → State} (hf : ∀ t a1 a2, Keeps st0 t → Keeps st0 (f t a1 a2)) :
    Keeps st0 (State.nvmeIo s c cid flags limit r f) := by
  unfold State.nvmeIo
  repeat' first
    | with_reducible assumption
    | with_reducible refine ite_keeps ?_ ?_
    | with_reducible refine State.nvmeTake_keeps ?_ (fun _ _ _ _ _ => ?_)
    | with_reducible apply State.newReq_keeps
    | with_reducible apply State.finish_keeps
    | refine State.takeNotice_keeps ?_ _ (by assumption)
    | with_reducible apply hf
    | split

theorem execNvmeRead_keeps {st0 : Inv} [st0.Writes] {s : State} (h : Keeps st0 s) {c : Nat} {cid : Nat} {flags : Nat} {nsid : Nat} {lba : Nat} {blocks : Nat} {sgl : Nat}  :
    ResKeeps st0 (execNvmeRead c cid flags nsid lba blocks sgl s) := by
  unfold execNvmeRead
  try with_reducible refine ResKeeps.next ?_
  repeat' first
    | with_reducible assumption
    | with_reducible refine ite_keeps ?_ ?_
    | with_reducible refine State.nvmeIo_keeps ?_ (fun _ _ _ _ => ?_)
    | with_reducible apply State.sts_keeps
    | with_reducible apply State.modHost_keeps
    | with_reducible apply State.finish_keeps
    | with_reducible apply State.pfxRead_keeps

theorem execNvmeWrite_keeps {st0 : Inv} {s : State} (h : Keeps st0 s) {c : Nat} {cid : Nat} {flags : Nat} {nsid : Nat} {lba : Nat} {blocks : Nat} {sgl : Nat} {icd : List Nat}  :
    ResKeeps st0 (execNvmeWrite c cid flags nsid lba blocks sgl icd s) := by
  unfold execNvmeWrite
  try with_reducible refine ResKeeps.next ?_
  repeat' first
    | with_reducible assumption
    | with_reducible refine ite_keeps ?_ ?_
    | with_reducible refine State.nvmeIo_keeps ?_ (fun _ _ _ _ => ?_)
    | with_reducible apply State.sts_keeps
    | with_reducible apply State.modHost_keeps
    | with_reducible apply State.bump_keeps

theorem execNvmeWriteZeroes_keeps {st0 : Inv} {s : State} (h : Keeps st0 s) {c : Nat} {cid : Nat} {flags : Nat} {nsid : Nat} {lba : Nat} {blocks : Nat}  :
    ResKeeps st0 (execNvmeWriteZeroes c cid flags nsid lba blocks s) := by
  unfold execNvmeWriteZeroes
  try with_reducible refine ResKeeps.next ?_
  repeat' first
    | with_reducible assumption
    | with_reducible refine State.nvmeIo_keeps ?_ (fun _ _ _ _ => ?_)

theorem execNvmeDatasetManagement_keeps {st0 : Inv} {s : State} (h : Keeps st0 s) {c : Nat} {cid : Nat} {flags : Nat} {nsid : Nat} {ad : Bool} {ranges : List (Nat × Nat)} :
    ResKeeps st0 (execNvmeDatasetManagement c cid flags nsid ad ranges s) := by
  unfold execNvmeDatasetManagement
  try with_reducible refine ResKeeps.next ?_
  repeat' first
    | with_reducible assumption
    | with_reducible refine ResKeeps.next ?_
    | with_reducible refine State.nvmeIo_keeps ?_ (fun _ _ _ _ => ?_)
    | split
    | (fail_if_no_progress (with_reducible apply Keeps.lit <;> try exact rfl))
    | with_reducible refine snd_ite_keeps ?_ ?_
    | with_reducible refine snd_mk_keeps ?_
    | with_reducible refine pair_keeps (by assumption) ?_
    | intro _
    | beta_reduce

theorem execNvmeFlush_keeps {r : Inv} {s : State} (h : Keeps r s) {c cid flags nsid : Nat} : ResKeeps r (execNvmeFlush c cid flags nsid s) := by
  unfold execNvmeFlush
  refine ResKeeps.next (State.nvmeTake_keeps h (fun t _ x y ht => ?_))
  dsimp only
  refine ite_keeps (State.finish_keeps (State.newReq_keeps ht)) (ite_keeps (State.finish_keeps (State.newReq_keeps ht))
    (ite_keeps (State.finish_keeps (State.newReq_keeps ht)) ?_))
  split
  · rename_i e
    obtain ⟨v, -, e⟩ := List.exists_of_findSome?_eq_some e
    exact State.finish_keeps (State.takeNotice_keeps (State.newReq_keeps ht) _ e)
  · exact ite_keeps (State.finish_keeps (State.newReq_keeps ht)) (State.modReq_keeps (State.newReq_keeps ht))

theorem State.r2tsEnd_keeps {st0 : Inv} {s : State} (h : Keeps st0 s) {tag : Nat} :
    Keeps st0 (State.r2tsEnd s tag) := by
  unfold State.r2tsEnd
  repeat' first
    | with_reducible assumption
    | with_reducible refine ite_keeps ?_ ?_
    | with_reducible apply State.modConn_keeps
    | split
    | (fail_if_no_progress (with_reducible apply Keeps.lit <;> try exact rfl))
    | with_reducible refine snd_ite_keeps ?_ ?_
    | with_reducible refine snd_mk_keeps ?_
    | with_reducible refine pair_keeps (by assumption) ?_
    | intro _
    | beta_reduce

theorem State.abortDone_keeps {st0 : Inv} {s : State} (h : Keeps st0 s) {c : Nat} {cid : Nat} {won : Option Nat} :
    Keeps st0 (State.abortDone s c cid won) := by
  unfold State.abortDone
  repeat' first
    | with_reducible assumption
    | (extract_lets -underBinder -merge +onlyGivenNames x; refine keepCut (r := st0) (x := x) ?_ (fun hx => ?_); (on_goal 1 => (unfold x; clear x)); (on_goal 2 => clear_value x))
    | (extract_lets -underBinder -merge +onlyGivenNames x; guard_hyp x : SecSt)
    | (extract_lets -underBinder -merge +onlyGivenNames x; clear_value x)
    | with_reducible apply State.newReq_keeps
    | with_reducible apply State.finish_keeps
    | with_reducible apply State.modReq_keeps
    | with_reducible apply State.r2tsEnd_keeps
    | split
    | (fail_if_no_progress (with_reducible apply Keeps.lit <;> try exact rfl))
    | with_reducible refine snd_ite_keeps ?_ ?_
    | with_reducible refine snd_mk_keeps ?_
    | with_reducible refine pair_keeps (by assumption) ?_
    | intro _
    | beta_reduce

theorem execNvmeAbort_keeps {st0 : Inv} {s : State} (h : Keeps st0 s) {c : Nat} {cid : Nat} {flags : Nat} {sqid : Nat} {acid : Nat} :
    ResKeeps st0 (execNvmeAbort c cid flags sqid acid s) := by
  unfold execNvmeAbort
  try with_reducible refine ResKeeps.next ?_
  repeat' first
    | with_reducible assumption
    | (extract_lets -underBinder -merge +onlyGivenNames x; refine keepCut (r := st0) (x := x) ?_ (fun hx => ?_); (on_goal 1 => (unfold x; clear x)); (on_goal 2 => clear_value x))
    | (extract_lets -underBinder -merge +onlyGivenNames x; guard_hyp x : SecSt)
    | (extract_lets -underBinder -merge +onlyGivenNames x; clear_value x)
    | with_reducible refine ite_keeps ?_ ?_
    | with_reducible refine ResKeeps.next ?_
    | with_reducible apply State.newReq_keeps
    | with_reducible refine State.nvmeAdmin_keeps ?_ (fun _ _ _ _ => ?_)
    | with_reducible apply State.abortDone_keeps
    | with_reducible apply State.wakeHeld_keeps
    | with_reducible apply State.nvmeResp_keeps
    | with_reducible apply State.modCtrl_keeps
    | split
    | (fail_if_no_progress (with_reducible apply Keeps.lit <;> try exact rfl))
    | with_reducible refine snd_ite_keeps ?_ ?_
    | with_reducible refine snd_mk_keeps ?_
    | with_reducible refine pair_keeps (by assumption) ?_
    | intro _
    | beta_reduce

theorem State.modR2t_keeps {st0 : Inv} {s : State} (h : Keeps st0 s) {c : Nat} {ttag : Nat} {f : R2t → Option R2t}  :
    Keeps st0 (State.modR2t s c ttag f) := by
  unfold State.modR2t
  repeat' first
    | with_reducible assumption
    | with_reducible apply State.modConn_keeps

theorem State.landBytes_keeps {st0 : Inv} {s : State} (h : Keeps st0 s) {tag : Nat} {off : Nat} {n : Nat} {data : Nat}  :
    Keeps st0 (State.landBytes s tag off n data) := by
  unfold State.landBytes
  repeat' first
    | with_reducible assumption
    | with_reducible apply State.landBlock_keeps
    | with_reducible refine foldl_keeps ?_ (fun _ _ _ => ?_)

theorem State.dataFail_keeps {st0 : Inv} {s : State} (h : Keeps st0 s) {c : Nat} {r : R2t} {cond : Nat} {gone : Bool}  :
    Keeps st0 (State.dataFail s c r cond gone) := by
  unfold State.dataFail
  repeat' first
    | with_reducible assumption
    | with_reducible refine ite_keeps ?_ ?_
    | with_reducible apply State.modR2t_keeps
    | with_reducible apply State.finish_keeps
    | with_reducible apply State.wakeHeld_keeps

theorem State.dataTake_keeps {st0 : Inv} {s : State} (h : Keeps st0 s) {c : Nat} {r : R2t} {len : Nat} {data : Nat} {last : Bool}  :
    Keeps st0 (State.dataTake s c r len data last) := by
  unfold State.dataTake
  repeat' first
    | with_reducible assumption
    | with_reducible refine ite_keeps ?_ ?_
    | with_reducible apply State.modR2t_keeps
    | with_reducible apply State.landBytes_keeps
    | with_reducible apply State.dataFail_keeps

theorem execNvtH2cDataRx_keeps {st0 : Inv} {s : State} (h : Keeps st0 s) {c : Nat} {ttag : Nat} {off : Nat} {len : Nat} {data : Nat} {last : Bool} {hdrOk : Bool} {hdgstOk : Bool} {ddgstOk : Bool}  :
    ResKeeps st0 (execNvtH2cDataRx c ttag off len data last hdrOk hdgstOk ddgstOk s) := by
  unfold execNvtH2cDataRx
  try with_reducible refine ResKeeps.next ?_
  repeat' first
    | with_reducible assumption
    | with_reducible apply State.bump_keeps
    | with_reducible apply State.transportFatal_keeps
    | with_reducible apply State.dataTake_keeps
    | with_reducible apply State.dataFail_keeps
    | split

theorem execNvtH2cTermReqRx_keeps {st0 : Inv} {s : State} (h : Keeps st0 s) {c : Nat}  :
    ResKeeps st0 (execNvtH2cTermReqRx c s) := by
  unfold execNvtH2cTermReqRx
  try with_reducible refine ResKeeps.next ?_
  repeat' first
    | with_reducible assumption
    | with_reducible refine ite_keeps ?_ ?_
    | with_reducible apply State.bump_keeps
    | with_reducible apply State.sts_keeps
    | with_reducible apply State.raise_keeps
    | with_reducible apply State.connEnd_keeps

theorem State.selftestShow_keeps {st0 : Inv} {s : State} (h : Keeps st0 s) {t : SelfTest} {paused : Bool}  :
    Keeps st0 (State.selftestShow s t paused) := by
  unfold State.selftestShow
  repeat' first
    | with_reducible assumption
    | with_reducible apply State.setAll_keeps
    | with_reducible refine foldl_keeps ?_ (fun _ _ _ => ?_)

theorem execNvmeDeviceSelfTest_keeps {st0 : Inv} {s : State} (h : Keeps st0 s) {c : Nat} {cid : Nat} {flags : Nat} {nsid : Nat} {code : Nat}  :
    ResKeeps st0 (execNvmeDeviceSelfTest c cid flags nsid code s) := by
  unfold execNvmeDeviceSelfTest
  try with_reducible refine ResKeeps.next ?_
  repeat' first
    | with_reducible assumption
    | with_reducible refine ite_keeps ?_ ?_
    | with_reducible refine State.nvmeAdmin_keeps ?_ (fun _ _ _ _ => ?_)
    | with_reducible apply State.selftestEnd_keeps
    | with_reducible apply State.nvmeResp_keeps
    | with_reducible apply State.modHost_keeps
    | with_reducible apply State.selftestShow_keeps

theorem State.testData_keeps {st0 : Inv} {s : State} (h : Keeps st0 s) {t : SelfTest} :
    Keeps st0 (State.testData s t).2 := by
  unfold State.testData
  repeat' first
    | with_reducible assumption
    | (extract_lets -underBinder -merge +onlyGivenNames x; refine keepCut (r := st0) (x := x) ?_ (fun hx => ?_); (on_goal 1 => (unfold x; clear x)); (on_goal 2 => clear_value x))
    | (extract_lets -underBinder -merge +onlyGivenNames x; guard_hyp x : SecSt)
    | (extract_lets -underBinder -merge +onlyGivenNames x; clear_value x)
    | with_reducible refine ite_keeps ?_ ?_
    | with_reducible apply State.newReq_keeps
    | with_reducible apply State.resolve_keeps
    | with_reducible apply State.modHost_keeps
    | split
    | (fail_if_no_progress (with_reducible apply Keeps.lit <;> try exact rfl))
    | with_reducible refine snd_ite_keeps ?_ ?_
    | with_reducible refine snd_mk_keeps ?_
    | with_reducible refine pair_keeps (by assumption) ?_
    | intro _
    | beta_reduce

theorem State.selftestScope_keeps {st0 : Inv} {s : State} (h : Keeps st0 s)  :
    Keeps st0 (State.selftestScope s) := by
  unfold State.selftestScope
  repeat' first
    | with_reducible assumption
    | with_reducible refine ite_keeps ?_ ?_
    | with_reducible apply State.selftestEnd_keeps
    | split
    | (fail_if_no_progress (with_reducible apply Keeps.lit <;> try exact rfl))
    | with_reducible refine snd_ite_keeps ?_ ?_
    | with_reducible refine snd_mk_keeps ?_
    | with_reducible refine pair_keeps (by assumption) ?_
    | intro _
    | beta_reduce

theorem execSelftestSegment_keeps {st0 : Inv} {s : State} (h : Keeps st0 s) {ok : Bool} :
    ResKeeps st0 (execSelftestSegment ok s) := by
  unfold execSelftestSegment
  try with_reducible refine ResKeeps.next ?_
  repeat' first
    | with_reducible assumption
    | (extract_lets -underBinder -merge +onlyGivenNames x; refine keepCut (r := st0) (x := x) ?_ (fun hx => ?_); (on_goal 1 => (unfold x; clear x)); (on_goal 2 => clear_value x))
    | (extract_lets -underBinder -merge +onlyGivenNames x; guard_hyp x : SecSt)
    | (extract_lets -underBinder -merge +onlyGivenNames x; clear_value x)
    | with_reducible refine ite_keeps ?_ ?_
    | with_reducible refine ResKeeps.next ?_
    | with_reducible apply State.selftestShow_keeps
    | with_reducible apply State.selftestEnd_keeps
    | with_reducible apply State.modHost_keeps
    | with_reducible apply State.testData_keeps
    | split
    | (fail_if_no_progress (with_reducible apply Keeps.lit <;> try exact rfl))
    | with_reducible refine snd_ite_keeps ?_ ?_
    | with_reducible refine snd_mk_keeps ?_
    | with_reducible refine pair_keeps (by assumption) ?_
    | intro _
    | beta_reduce

theorem execSelftestTimeout_keeps {st0 : Inv} {s : State} (h : Keeps st0 s)   :
    ResKeeps st0 (execSelftestTimeout s) := by
  unfold execSelftestTimeout
  try with_reducible refine ResKeeps.next ?_
  repeat' first
    | with_reducible assumption
    | with_reducible apply State.raise_keeps
    | with_reducible apply State.selftestEnd_keeps
    | split

end Sys2Proof.Machine
end

