-- ==== Sys2Proof/Laws/KeepsLdt.lean ====
section
/-! SUPPORT. The operations and commands of Machine/Ldt.lean keep what a state is asked (Laws/Keeps.lean). -/

set_option linter.all false

namespace Sys2Proof.Machine

theorem State.modLdt_keeps {st0 : Inv} {s : State} (h : Keeps st0 s) {f : LdtSt → LdtSt}  :
    Keeps st0 (State.modLdt s f) := by
  unfold State.modLdt
  repeat' first
    | with_reducible assumption
    | (fail_if_no_progress (with_reducible apply Keeps.lit <;> try exact rfl))

theorem State.modLconn_keeps {st0 : Inv} {s : State} (h : Keeps st0 s) {n : Nat} {f : LdtConn → LdtConn}  :
    Keeps st0 (State.modLconn s n f) := by
  unfold State.modLconn
  repeat' first
    | with_reducible assumption
    | with_reducible apply State.modLdt_keeps
    | split

theorem State.lsts_keeps {st0 : Inv} {s : State} (h : Keeps st0 s) {n : Nat} {path : Nat} {f : Nat → Nat → Fld} {k : Nat}  :
    Keeps st0 (State.lsts s n path f k) := by
  unfold State.lsts
  repeat' first
    | with_reducible assumption
    | with_reducible apply State.bump_keeps
    | with_reducible refine foldl_keeps ?_ (fun _ _ _ => ?_)

theorem State.ldtKey_keeps {st0 : Inv} [st0.Writes] {s : State} (h : Keeps st0 s) {n : Nat} {gen : Nat} :
    Keeps st0 (State.ldtKey s n gen) := by
  unfold State.ldtKey
  repeat' first
    | with_reducible assumption
    | (extract_lets -underBinder -merge +onlyGivenNames x; refine keepCut (r := st0) (x := x) ?_ (fun hx => ?_); (on_goal 1 => (unfold x; clear x)); (on_goal 2 => clear_value x))
    | (extract_lets -underBinder -merge +onlyGivenNames x; guard_hyp x : SecSt)
    | (extract_lets -underBinder -merge +onlyGivenNames x; clear_value x)
    | with_reducible refine ite_keeps ?_ ?_
    | with_reducible apply State.keyPut_keeps
    | with_reducible apply State.bump_keeps
    | split
    | (fail_if_no_progress (with_reducible apply Keeps.lit <;> try exact rfl))
    | with_reducible refine snd_ite_keeps ?_ ?_
    | with_reducible refine snd_mk_keeps ?_
    | with_reducible refine pair_keeps (by assumption) ?_
    | intro _
    | beta_reduce

theorem State.ldtKeysGone_keeps {st0 : Inv} {s : State} (h : Keeps st0 s) {n : Nat}  :
    Keeps st0 (State.ldtKeysGone s n) := by
  unfold State.ldtKeysGone
  repeat' first
    | with_reducible assumption
    | with_reducible apply State.keyRemove_keeps

theorem State.ldtGen_keeps {st0 : Inv} [st0.Writes] {s : State} (h : Keeps st0 s) {n : Nat} {gen : Nat} :
    Keeps st0 (State.ldtGen s n gen) := by
  unfold State.ldtGen
  repeat' first
    | with_reducible assumption
    | (extract_lets -underBinder -merge +onlyGivenNames x; refine keepCut (r := st0) (x := x) ?_ (fun hx => ?_); (on_goal 1 => (unfold x; clear x)); (on_goal 2 => clear_value x))
    | (extract_lets -underBinder -merge +onlyGivenNames x; guard_hyp x : SecSt)
    | (extract_lets -underBinder -merge +onlyGivenNames x; clear_value x)
    | with_reducible refine ite_keeps ?_ ?_
    | with_reducible apply State.modLconn_keeps
    | with_reducible apply State.ldtKey_keeps
    | with_reducible apply State.bump_keeps
    | split
    | (fail_if_no_progress (with_reducible apply Keeps.lit <;> try exact rfl))
    | with_reducible refine snd_ite_keeps ?_ ?_
    | with_reducible refine snd_mk_keeps ?_
    | with_reducible refine pair_keeps (by assumption) ?_
    | intro _
    | beta_reduce

theorem State.ldtRekey_keeps {st0 : Inv} [st0.Writes] {s : State} (h : Keeps st0 s) {n : Nat}  :
    Keeps st0 (State.ldtRekey s n) := by
  unfold State.ldtRekey
  repeat' first
    | with_reducible assumption
    | with_reducible apply State.modLconn_keeps
    | with_reducible apply State.ldtKey_keeps
    | split

theorem State.modPath_keeps {st0 : Inv} {s : State} (h : Keeps st0 s) {n : Nat} {k : Nat} {f : LdtPath → LdtPath}  :
    Keeps st0 (State.modPath s n k f) := by
  unfold State.modPath
  repeat' first
    | with_reducible assumption
    | with_reducible apply State.modLconn_keeps

theorem State.pathUse_keeps {st0 : Inv} {s : State} (h : Keeps st0 s) {n : Nat} {k : Nat} {bytes : Nat}  :
    Keeps st0 (State.pathUse s n k bytes) := by
  unfold State.pathUse
  repeat' first
    | with_reducible assumption
    | with_reducible apply State.modPath_keeps
    | with_reducible apply State.modLconn_keeps
    | split

theorem State.pathDown_keeps {st0 : Inv} {s : State} (h : Keeps st0 s) {n : Nat} {k : Nat} {step : Nat}  :
    Keeps st0 (State.pathDown s n k step) := by
  unfold State.pathDown
  repeat' first
    | with_reducible assumption
    | with_reducible apply State.modPath_keeps
    | with_reducible apply State.bump_keeps

theorem State.ldtWire_keeps {st0 : Inv} {s : State} (h : Keeps st0 s) {n : Nat} {path : Nat} {ptype : Nat} {gen : Nat} {psn : Nat} {msn : Nat} {mlen : Nat} {off : Nat} {plen : Nat} {last : Bool} {addr : Nat} {data : Nat} :
    Keeps st0 (State.ldtWire s n path ptype gen psn msn mlen off plen last addr data) := by
  unfold State.ldtWire
  repeat' first
    | with_reducible assumption
    | (extract_lets -underBinder -merge +onlyGivenNames x; refine keepCut (r := st0) (x := x) ?_ (fun hx => ?_); (on_goal 1 => (unfold x; clear x)); (on_goal 2 => clear_value x))
    | (extract_lets -underBinder -merge +onlyGivenNames x; guard_hyp x : SecSt)
    | (extract_lets -underBinder -merge +onlyGivenNames x; clear_value x)
    | with_reducible apply State.lsts_keeps
    | with_reducible apply State.pathUse_keeps
    | with_reducible apply State.countTx_keeps
    | with_reducible apply State.sendOut_keeps
    | split
    | (fail_if_no_progress (with_reducible apply Keeps.lit <;> try exact rfl))
    | with_reducible refine snd_ite_keeps ?_ ?_
    | with_reducible refine snd_mk_keeps ?_
    | with_reducible refine pair_keeps (by assumption) ?_
    | intro _
    | beta_reduce

theorem State.ldtAgain_keeps {st0 : Inv} {s : State} (h : Keeps st0 s) {n : Nat} {psn : Nat} {fast : Bool}  :
    Keeps st0 (State.ldtAgain s n psn fast) := by
  unfold State.ldtAgain
  repeat' first
    | with_reducible assumption
    | with_reducible apply State.modLconn_keeps
    | with_reducible apply State.ldtWire_keeps
    | with_reducible apply State.lsts_keeps
    | split

theorem State.ldtCut_keeps {st0 : Inv} {s : State} (h : Keeps st0 s) {n : Nat} {k : Nat} {x : LdtConn} {m : LdtTx} :
    Keeps st0 (State.ldtCut s n k x m) := by
  unfold State.ldtCut
  repeat' first
    | with_reducible assumption
    | (extract_lets -underBinder -merge +onlyGivenNames x; refine keepCut (r := st0) (x := x) ?_ (fun hx => ?_); (on_goal 1 => (unfold x; clear x)); (on_goal 2 => clear_value x))
    | (extract_lets -underBinder -merge +onlyGivenNames x; guard_hyp x : SecSt)
    | (extract_lets -underBinder -merge +onlyGivenNames x; clear_value x)
    | with_reducible refine ite_keeps ?_ ?_
    | with_reducible apply State.modLconn_keeps
    | with_reducible apply State.ldtWire_keeps
    | split
    | (fail_if_no_progress (with_reducible apply Keeps.lit <;> try exact rfl))
    | with_reducible refine snd_ite_keeps ?_ ?_
    | with_reducible refine snd_mk_keeps ?_
    | with_reducible refine pair_keeps (by assumption) ?_
    | intro _
    | beta_reduce

theorem State.ldtPump_keeps {st0 : Inv} {s : State} (h : Keeps st0 s) {a0 : Nat} {a1 : Nat} :
    Keeps st0 (State.ldtPump a0 a1 s) := by
  induction a0 generalizing a1 s with
  | zero =>
    unfold State.ldtPump
    repeat' first
      | with_reducible assumption
  | succ n ih =>
    unfold State.ldtPump
    repeat' first
      | with_reducible assumption
      | with_reducible apply State.modLconn_keeps
      | with_reducible apply State.bump_keeps
      | with_reducible apply State.ldtCut_keeps
      | with_reducible apply ih
      | split

theorem State.ldtGo_keeps {st0 : Inv} [st0.Writes] {s : State} (h : Keeps st0 s) {n : Nat}  :
    Keeps st0 (State.ldtGo s n) := by
  unfold State.ldtGo
  repeat' first
    | with_reducible assumption
    | with_reducible apply State.ldtRekey_keeps
    | with_reducible apply State.ldtPump_keeps
    | split

theorem State.ldtMsg_keeps {st0 : Inv} [st0.Writes] {s : State} (h : Keeps st0 s) {n : Nat} {ptype : Nat} {mlen : Nat} {addr : Nat} {data : Nat}  :
    Keeps st0 (State.ldtMsg s n ptype mlen addr data) := by
  unfold State.ldtMsg
  repeat' first
    | with_reducible assumption
    | with_reducible apply State.modLconn_keeps
    | with_reducible apply State.ldtGo_keeps

theorem State.ldtResp_keeps {st0 : Inv} [st0.Writes] {s : State} (h : Keeps st0 s) {n : Nat} {msn : Nat} {mlen : Nat} {data : Nat}  :
    Keeps st0 (State.ldtResp s n msn mlen data) := by
  unfold State.ldtResp
  repeat' first
    | with_reducible assumption
    | with_reducible apply State.modLconn_keeps
    | with_reducible apply State.ldtGo_keeps

theorem State.ldtCtrl_keeps {st0 : Inv} [st0.Writes] {s : State} (h : Keeps st0 s) {n : Nat} {sub : Nat} {msn : Nat} {cond : Nat}  :
    Keeps st0 (State.ldtCtrl s n sub msn cond) := by
  unfold State.ldtCtrl
  repeat' first
    | with_reducible assumption
    | with_reducible apply State.ldtMsg_keeps

theorem State.ldtRead_keeps {st0 : Inv} [st0.Writes] {s : State} (h : Keeps st0 s) {n : Nat} {addr : Nat} {len : Nat} {q : LdtReq}  :
    Keeps st0 (State.ldtRead s n addr len q) := by
  unfold State.ldtRead
  repeat' first
    | with_reducible assumption
    | with_reducible apply State.modLconn_keeps
    | with_reducible apply State.ldtMsg_keeps
    | split

theorem State.ldtAck_keeps {st0 : Inv} {s : State} (h : Keeps st0 s) {n : Nat} :
    Keeps st0 (State.ldtAck s n) := by
  unfold State.ldtAck
  repeat' first
    | with_reducible assumption
    | (extract_lets -underBinder -merge +onlyGivenNames x; refine keepCut (r := st0) (x := x) ?_ (fun hx => ?_); (on_goal 1 => (unfold x; clear x)); (on_goal 2 => clear_value x))
    | (extract_lets -underBinder -merge +onlyGivenNames x; guard_hyp x : SecSt)
    | (extract_lets -underBinder -merge +onlyGivenNames x; clear_value x)
    | with_reducible apply State.modLconn_keeps
    | with_reducible apply State.lsts_keeps
    | with_reducible apply State.pathUse_keeps
    | with_reducible apply State.countTx_keeps
    | with_reducible apply State.sendOut_keeps
    | split
    | (fail_if_no_progress (with_reducible apply Keeps.lit <;> try exact rfl))
    | with_reducible refine snd_ite_keeps ?_ ?_
    | with_reducible refine snd_mk_keeps ?_
    | with_reducible refine pair_keeps (by assumption) ?_
    | intro _
    | beta_reduce

theorem State.ldtCmdsEnd_keeps {st0 : Inv} {s : State} (h : Keeps st0 s) {n : Nat}  :
    Keeps st0 (State.ldtCmdsEnd s n) := by
  unfold State.ldtCmdsEnd
  repeat' first
    | with_reducible assumption
    | with_reducible apply State.dropReq_keeps
    | with_reducible apply State.wakeHeld_keeps
    | with_reducible refine foldl_keeps ?_ (fun _ _ _ => ?_)

theorem State.ldtClosed_keeps {st0 : Inv} {s : State} (h : Keeps st0 s) {n : Nat} :
    Keeps st0 (State.ldtClosed s n) := by
  unfold State.ldtClosed
  repeat' first
    | with_reducible assumption
    | with_reducible apply State.modLdt_keeps
    | with_reducible apply State.ldtKeysGone_keeps
    | with_reducible apply State.assocGone_keeps
    | split
    | (fail_if_no_progress (with_reducible apply Keeps.lit <;> try exact rfl))
    | with_reducible refine snd_ite_keeps ?_ ?_
    | with_reducible refine snd_mk_keeps ?_
    | with_reducible refine pair_keeps (by assumption) ?_
    | intro _
    | beta_reduce

theorem State.ldtEnd_keeps {st0 : Inv} {s : State} (h : Keeps st0 s) {n : Nat} {tell : Bool}  :
    Keeps st0 (State.ldtEnd s n tell) := by
  unfold State.ldtEnd
  repeat' first
    | with_reducible assumption
    | with_reducible apply State.ldtCut_keeps
    | with_reducible apply State.ldtCmdsEnd_keeps
    | with_reducible apply State.modLdt_keeps
    | with_reducible apply State.irqIs_keeps
    | with_reducible apply State.ldtClosed_keeps
    | split

end Sys2Proof.Machine
end

