-- ==== Sys2Proof/Laws/KeepsFab.lean ====
section
/-! SUPPORT. The operations and commands of Machine/Fab.lean keep what a state is asked (Laws/Keeps.lean). -/

set_option linter.all false

namespace Sys2Proof.Machine

theorem State.modFab_keeps {st0 : Inv} {s : State} (h : Keeps st0 s) {f : FabSt → FabSt}  :
    Keeps st0 (State.modFab s f) := by
  unfold State.modFab
  repeat' first
    | with_reducible assumption
    | (fail_if_no_progress (with_reducible apply Keeps.lit <;> try exact rfl))

theorem State.slotFor_keeps {st0 : Inv} {s : State} (h : Keeps st0 s) {k : Nat} {useBit : Nat} :
    Keeps st0 (State.slotFor s k useBit).2 := by
  unfold State.slotFor
  repeat' first
    | with_reducible assumption
    | with_reducible refine ite_keeps ?_ ?_
    | with_reducible apply State.raise_keeps
    | with_reducible refine State.modSec_keeps ?_ rfl
    | with_reducible apply State.keyUsed_keeps
    | split
    | (fail_if_no_progress (with_reducible apply Keeps.lit <;> try exact rfl))
    | with_reducible refine snd_ite_keeps ?_ ?_
    | with_reducible refine snd_mk_keeps ?_
    | with_reducible refine pair_keeps (by assumption) ?_
    | intro _
    | beta_reduce

theorem State.helloSend_keeps {st0 : Inv} {s : State} (h : Keeps st0 s) {typ : Nat} :
    Keeps st0 (State.helloSend s typ) := by
  unfold State.helloSend
  repeat' first
    | with_reducible assumption
    | (extract_lets -underBinder -merge +onlyGivenNames x; refine keepCut (r := st0) (x := x) ?_ (fun hx => ?_); (on_goal 1 => (unfold x; clear x)); (on_goal 2 => clear_value x))
    | (extract_lets -underBinder -merge +onlyGivenNames x; guard_hyp x : SecSt)
    | (extract_lets -underBinder -merge +onlyGivenNames x; clear_value x)
    | with_reducible refine ite_keeps ?_ ?_
    | with_reducible apply State.modFab_keeps
    | with_reducible apply State.slotFor_keeps
    | with_reducible apply State.bump_keeps
    | with_reducible apply State.free_keeps
    | with_reducible apply State.hfiSend_keeps
    | with_reducible refine foldl_keeps ?_ (fun _ _ _ => ?_)
    | split
    | (fail_if_no_progress (with_reducible apply Keeps.lit <;> try exact rfl))
    | with_reducible refine snd_ite_keeps ?_ ?_
    | with_reducible refine snd_mk_keeps ?_
    | with_reducible refine pair_keeps (by assumption) ?_
    | intro _
    | beta_reduce

theorem State.readRoutes_keeps {st0 : Inv} {s : State} (h : Keeps st0 s)   :
    Keeps st0 (State.readRoutes s) := by
  unfold State.readRoutes
  repeat' first
    | with_reducible assumption
    | with_reducible apply State.modFab_keeps
    | with_reducible apply State.setAll_keeps

theorem State.fabCount_keeps {st0 : Inv} {s : State} (h : Keeps st0 s)   :
    Keeps st0 (State.fabCount s) := by
  unfold State.fabCount
  repeat' first
    | with_reducible assumption
    | with_reducible apply State.set_keeps

theorem State.homesCheck_keeps {st0 : Inv} {s : State} (h : Keeps st0 s)   :
    Keeps st0 (State.homesCheck s) := by
  unfold State.homesCheck
  repeat' first
    | with_reducible assumption
    | with_reducible refine ite_keeps ?_ ?_
    | with_reducible apply State.set_keeps
    | with_reducible apply State.modFab_keeps

theorem execFabPlaceHoldExpire_keeps {st0 : Inv} {s : State} (h : Keeps st0 s)   :
    ResKeeps st0 (execFabPlaceHoldExpire s) := by
  unfold execFabPlaceHoldExpire
  try with_reducible refine ResKeeps.next ?_
  repeat' first
    | with_reducible assumption
    | with_reducible apply State.modFab_keeps
    | split

theorem State.placeWrite_keeps {st0 : Inv} [st0.Writes] {s : State} (h : Keeps st0 s) {copy : Nat} {seed : Nat} {replicas : Nat} {pairs : List Nat} :
    Keeps st0 (State.placeWrite s copy seed replicas pairs) := by
  unfold State.placeWrite
  repeat' first
    | with_reducible assumption
    | with_reducible apply State.putBytes_keeps
    | split
    | (fail_if_no_progress (with_reducible apply Keeps.lit <;> try exact rfl))
    | with_reducible refine snd_ite_keeps ?_ ?_
    | with_reducible refine snd_mk_keeps ?_
    | with_reducible refine pair_keeps (by assumption) ?_
    | intro _
    | beta_reduce

theorem execFabPlaceSwap_keeps {st0 : Inv} [st0.Writes] {s : State} (h : Keeps st0 s)  :
    ResKeeps st0 (execFabPlaceSwap s) := by
  unfold execFabPlaceSwap
  try with_reducible refine ResKeeps.next ?_
  repeat' first
    | with_reducible assumption
    | (extract_lets -underBinder -merge +onlyGivenNames x; refine keepCut (r := st0) (x := x) ?_ (fun hx => ?_); (on_goal 1 => (unfold x; clear x)); (on_goal 2 => clear_value x))
    | (extract_lets -underBinder -merge +onlyGivenNames x; guard_hyp x : SecSt)
    | (extract_lets -underBinder -merge +onlyGivenNames x; clear_value x)
    | with_reducible refine ite_keeps ?_ ?_
    | with_reducible refine ResKeeps.next ?_
    | with_reducible apply State.modFab_keeps
    | with_reducible apply State.bump_keeps
    | with_reducible apply State.setAll_keeps
    | with_reducible apply State.irq_keeps
    | with_reducible apply State.placeWrite_keeps
    | split
    | (fail_if_no_progress (with_reducible apply Keeps.lit <;> try exact rfl))
    | with_reducible refine snd_ite_keeps ?_ ?_
    | with_reducible refine snd_mk_keeps ?_
    | with_reducible refine pair_keeps (by assumption) ?_
    | intro _
    | beta_reduce

theorem State.noRoute_keeps {st0 : Inv} {s : State} (h : Keeps st0 s) {hid : Nat}  :
    Keeps st0 (State.noRoute s hid) := by
  unfold State.noRoute
  repeat' first
    | with_reducible assumption
    | (extract_lets -underBinder -merge +onlyGivenNames x; refine keepCut (r := st0) (x := x) ?_ (fun hx => ?_); (on_goal 1 => (unfold x; clear x)); (on_goal 2 => clear_value x))
    | with_reducible apply State.bump_keeps
    | with_reducible apply State.modFab_keeps
    | with_reducible apply State.raise_keeps
    | split

theorem State.ldtClear_keeps {st0 : Inv} {s : State} (h : Keeps st0 s) {n : Nat} {kind : Nat} {bytes : List Nat} :
    Keeps st0 (State.ldtClear s n kind bytes) := by
  unfold State.ldtClear
  repeat' first
    | with_reducible assumption
    | with_reducible apply State.modLconn_keeps
    | with_reducible apply State.countTx_keeps
    | with_reducible apply State.sendOut_keeps
    | with_reducible refine foldl_keeps ?_ (fun _ _ _ => ?_)
    | split
    | (fail_if_no_progress (with_reducible apply Keeps.lit <;> try exact rfl))
    | with_reducible refine snd_ite_keeps ?_ ?_
    | with_reducible refine snd_mk_keeps ?_
    | with_reducible refine pair_keeps (by assumption) ?_
    | intro _
    | beta_reduce

theorem State.headOpen_keeps {st0 : Inv} {s : State} (h : Keeps st0 s) {hid : Nat} {r : RouteEnt} :
    Keeps st0 (State.headOpen s hid r).2 := by
  unfold State.headOpen
  repeat' first
    | with_reducible assumption
    | (extract_lets -underBinder -merge +onlyGivenNames x; refine keepCut (r := st0) (x := x) ?_ (fun hx => ?_); (on_goal 1 => (unfold x; clear x)); (on_goal 2 => clear_value x))
    | (extract_lets -underBinder -merge +onlyGivenNames x; guard_hyp x : SecSt)
    | (extract_lets -underBinder -merge +onlyGivenNames x; clear_value x)
    | with_reducible apply State.modFab_keeps
    | with_reducible apply State.ldtClear_keeps
    | with_reducible apply State.modLdt_keeps
    | with_reducible apply State.free_keeps
    | with_reducible apply State.draw256_keeps
    | split
    | (fail_if_no_progress (with_reducible apply Keeps.lit <;> try exact rfl))
    | with_reducible refine snd_ite_keeps ?_ ?_
    | with_reducible refine snd_mk_keeps ?_
    | with_reducible refine pair_keeps (by assumption) ?_
    | intro _
    | beta_reduce

theorem State.headConn_keeps {st0 : Inv} {s : State} (h : Keeps st0 s) {hid : Nat}  :
    Keeps st0 (State.headConn s hid).2 := by
  unfold State.headConn
  repeat' first
    | with_reducible assumption
    | with_reducible apply State.modFab_keeps
    | with_reducible apply State.noRoute_keeps
    | with_reducible apply State.ldtEnd_keeps
    | with_reducible apply State.headOpen_keeps
    | split

theorem State.headsOpen_keeps {st0 : Inv} {s : State} (h : Keeps st0 s)  :
    Keeps st0 (State.headsOpen s) := by
  unfold State.headsOpen
  repeat' first
    | with_reducible assumption
    | with_reducible refine ite_keeps ?_ ?_
    | with_reducible apply State.modFab_keeps
    | with_reducible apply State.headConn_keeps
    | with_reducible refine foldl_keeps ?_ (fun _ _ _ => ?_)
    | split
    | (fail_if_no_progress (with_reducible apply Keeps.lit <;> try exact rfl))
    | with_reducible refine snd_ite_keeps ?_ ?_
    | with_reducible refine snd_mk_keeps ?_
    | with_reducible refine pair_keeps (by assumption) ?_
    | intro _
    | beta_reduce

theorem State.headGo_keeps {st0 : Inv} [st0.Writes] {s : State} (h : Keeps st0 s)   :
    Keeps st0 (State.headGo s) := by
  unfold State.headGo
  repeat' first
    | with_reducible assumption
    | with_reducible apply State.modFab_keeps
    | with_reducible apply State.ldtMsg_keeps
    | with_reducible refine foldl_keeps ?_ (fun _ _ _ => ?_)
    | split

theorem State.headSend_keeps {st0 : Inv} [st0.Writes] {s : State} (h : Keeps st0 s) {hid : Nat} {opc : Nat} {what : HeadWhat} {w1 : Nat} {w2 : Nat} {buf : Option Nat} {len : Nat} {w5 : Nat} {w6 : Nat} {data : Nat} {dataLen : Nat} :
    Keeps st0 (State.headSend s hid opc what w1 w2 buf len w5 w6 data dataLen).2 := by
  unfold State.headSend
  repeat' first
    | with_reducible assumption
    | (extract_lets -underBinder -merge +onlyGivenNames x; refine keepCut (r := st0) (x := x) ?_ (fun hx => ?_); (on_goal 1 => (unfold x; clear x)); (on_goal 2 => clear_value x))
    | (extract_lets -underBinder -merge +onlyGivenNames x; guard_hyp x : SecSt)
    | (extract_lets -underBinder -merge +onlyGivenNames x; clear_value x)
    | with_reducible refine ite_keeps ?_ ?_
    | with_reducible apply State.modFab_keeps
    | with_reducible apply State.headConn_keeps
    | with_reducible apply State.headGo_keeps
    | split
    | (fail_if_no_progress (with_reducible apply Keeps.lit <;> try exact rfl))
    | with_reducible refine snd_ite_keeps ?_ ?_
    | with_reducible refine snd_mk_keeps ?_
    | with_reducible refine pair_keeps (by assumption) ?_
    | intro _
    | beta_reduce

theorem State.headForget_keeps {st0 : Inv} {s : State} (h : Keeps st0 s) {t : Nat}  :
    Keeps st0 (State.headForget s t) := by
  unfold State.headForget
  repeat' first
    | with_reducible assumption
    | with_reducible apply State.modFab_keeps
    | with_reducible apply State.modLconn_keeps
    | split

theorem State.foreignFail_keeps {st0 : Inv} {s : State} (h : Keeps st0 s) {key : Nat}  :
    Keeps st0 (State.foreignFail s key) := by
  unfold State.foreignFail
  repeat' first
    | with_reducible assumption
    | with_reducible apply State.modFab_keeps
    | with_reducible apply State.raise_keeps
    | with_reducible apply State.bump_keeps
    | with_reducible apply State.finish_keeps
    | with_reducible apply State.wakeHeld_keeps
    | with_reducible refine foldl_keeps ?_ (fun _ _ _ => ?_)

theorem State.fabAsk_keeps {st0 : Inv} [st0.Writes] {s : State} (h : Keeps st0 s) {a0 : Nat} {a1 : Nat} :
    Keeps st0 (State.fabAsk a0 a1 s) := by
  induction a0 generalizing a1 s with
  | zero =>
    unfold State.fabAsk
    repeat' first
      | with_reducible assumption
  | succ n ih =>
    unfold State.fabAsk
    repeat' first
      | with_reducible assumption
      | (extract_lets -underBinder -merge +onlyGivenNames x; refine keepCut (r := st0) (x := x) ?_ (fun hx => ?_); (on_goal 1 => (unfold x; clear x)); (on_goal 2 => clear_value x))
      | (extract_lets -underBinder -merge +onlyGivenNames x; clear_value x)
      | with_reducible apply State.foreignFail_keeps
      | with_reducible apply State.modFab_keeps
      | with_reducible apply State.noRoute_keeps
      | with_reducible apply State.headSend_keeps
      | with_reducible apply State.bump_keeps
      | with_reducible apply ih
      | split

theorem State.fabNext_keeps {st0 : Inv} [st0.Writes] {s : State} (h : Keeps st0 s) {key : Nat}  :
    Keeps st0 (State.fabNext s key) := by
  unfold State.fabNext
  repeat' first
    | with_reducible assumption
    | with_reducible apply State.fabAsk_keeps
    | with_reducible apply State.headForget_keeps
    | with_reducible apply State.bump_keeps
    | split

theorem State.fabNeed_keeps {st0 : Inv} [st0.Writes] {s : State} (h : Keeps st0 s)  :
    Keeps st0 (State.fabNeed s) := by
  unfold State.fabNeed
  repeat' first
    | with_reducible assumption
    | (extract_lets -underBinder -merge +onlyGivenNames x; refine keepCut (r := st0) (x := x) ?_ (fun hx => ?_); (on_goal 1 => (unfold x; clear x)); (on_goal 2 => clear_value x))
    | (extract_lets -underBinder -merge +onlyGivenNames x; guard_hyp x : SecSt)
    | (extract_lets -underBinder -merge +onlyGivenNames x; clear_value x)
    | with_reducible refine ite_keeps ?_ ?_
    | with_reducible apply State.modFab_keeps
    | with_reducible apply State.fabAsk_keeps
    | with_reducible refine foldl_keeps ?_ (fun _ _ _ => ?_)
    | split
    | (fail_if_no_progress (with_reducible apply Keeps.lit <;> try exact rfl))
    | with_reducible refine snd_ite_keeps ?_ ?_
    | with_reducible refine snd_mk_keeps ?_
    | with_reducible refine pair_keeps (by assumption) ?_
    | intro _
    | beta_reduce

theorem State.fetchAnswer_keeps {st0 : Inv} {s : State} (h : Keeps st0 s) {key : Nat} {bytes : Nat} {data : Nat} :
    Keeps st0 (State.fetchAnswer s key bytes data) := by
  unfold State.fetchAnswer
  repeat' first
    | with_reducible assumption
    | (extract_lets -underBinder -merge +onlyGivenNames x; refine keepCut (r := st0) (x := x) ?_ (fun hx => ?_); (on_goal 1 => (unfold x; clear x)); (on_goal 2 => clear_value x))
    | (extract_lets -underBinder -merge +onlyGivenNames x; guard_hyp x : SecSt)
    | (extract_lets -underBinder -merge +onlyGivenNames x; clear_value x)
    | with_reducible refine ite_keeps ?_ ?_
    | with_reducible apply State.modFab_keeps
    | with_reducible apply State.modRead_keeps
    | with_reducible apply State.bump_keeps
    | split
    | (fail_if_no_progress (with_reducible apply Keeps.lit <;> try exact rfl))
    | with_reducible refine snd_ite_keeps ?_ ?_
    | with_reducible refine snd_mk_keeps ?_
    | with_reducible refine pair_keeps (by assumption) ?_
    | intro _
    | beta_reduce

theorem State.fetchAbandon_keeps {st0 : Inv} [st0.Writes] {s : State} (h : Keeps st0 s) {key : Nat} :
    Keeps st0 (State.fetchAbandon s key) := by
  unfold State.fetchAbandon
  repeat' first
    | with_reducible assumption
    | with_reducible refine ite_keeps ?_ ?_
    | with_reducible apply State.headSend_keeps
    | with_reducible apply State.fabNext_keeps
    | split
    | (fail_if_no_progress (with_reducible apply Keeps.lit <;> try exact rfl))
    | with_reducible refine snd_ite_keeps ?_ ?_
    | with_reducible refine snd_mk_keeps ?_
    | with_reducible refine pair_keeps (by assumption) ?_
    | intro _
    | beta_reduce

theorem execFabFetchTimeout_keeps {st0 : Inv} [st0.Writes] {s : State} (h : Keeps st0 s) {key : Nat} :
    ResKeeps st0 (execFabFetchTimeout key s) := by
  unfold execFabFetchTimeout
  try with_reducible refine ResKeeps.next ?_
  repeat' first
    | with_reducible assumption
    | with_reducible refine ite_keeps ?_ ?_
    | with_reducible refine ResKeeps.next ?_
    | with_reducible apply State.fetchAbandon_keeps
    | split
    | (fail_if_no_progress (with_reducible apply Keeps.lit <;> try exact rfl))
    | with_reducible refine snd_ite_keeps ?_ ?_
    | with_reducible refine snd_mk_keeps ?_
    | with_reducible refine pair_keeps (by assumption) ?_
    | intro _
    | beta_reduce

theorem State.foreignTrim_keeps {st0 : Inv} {s : State} (h : Keeps st0 s)   :
    Keeps st0 (State.foreignTrim s) := by
  unfold State.foreignTrim
  repeat' first
    | with_reducible assumption
    | with_reducible apply State.modRead_keeps

end Sys2Proof.Machine
end

