-- ==== Sys2Proof/Laws/KeepsRep.lean ====
section
/-! SUPPORT. The operations and commands of Machine/Rep.lean keep what a state is asked (Laws/Keeps.lean). -/

set_option linter.all false

namespace Sys2Proof.Machine

theorem State.modRep_keeps {st0 : Inv} {s : State} (h : Keeps st0 s) {k : Nat} {f : RepLink → RepLink}  :
    Keeps st0 (State.modRep s k f) := by
  unfold State.modRep
  repeat' first
    | with_reducible assumption
    | with_reducible apply State.modFab_keeps
    | split

theorem State.repTo_keeps {st0 : Inv} {s : State} (h : Keeps st0 s) {k : Nat} {st : Nat}  :
    Keeps st0 (State.repTo s k st) := by
  unfold State.repTo
  repeat' first
    | with_reducible assumption
    | with_reducible apply State.modRep_keeps
    | with_reducible apply State.irq_keeps
    | split

theorem State.linkResult_keeps {st0 : Inv} {s : State} (h : Keeps st0 s) {result : Nat} {cond : Nat}  :
    Keeps st0 (State.linkResult s result cond) := by
  unfold State.linkResult
  repeat' first
    | with_reducible assumption
    | with_reducible apply State.setAll_keeps
    | with_reducible apply State.irq_keeps

theorem State.repCount_keeps {st0 : Inv} {s : State} (h : Keeps st0 s)   :
    Keeps st0 (State.repCount s) := by
  unfold State.repCount
  repeat' first
    | with_reducible assumption
    | with_reducible apply State.setAll_keeps

theorem State.linkLoad_keeps {st0 : Inv} {s : State} (h : Keeps st0 s) {k : Nat}  :
    Keeps st0 (State.linkLoad s k) := by
  unfold State.linkLoad
  repeat' first
    | with_reducible assumption
    | with_reducible apply State.raise_keeps
    | with_reducible apply State.linkResult_keeps
    | with_reducible apply State.modFab_keeps
    | with_reducible apply State.irq_keeps
    | with_reducible apply State.repCount_keeps
    | split

theorem State.cursorPut_keeps {st0 : Inv} {s : State} (h : Keeps st0 s) {vol : Nat} {snap : Nat} {page : Nat} :
    Keeps st0 (State.cursorPut s vol snap page) := by
  unfold State.cursorPut
  repeat' first
    | with_reducible assumption
    | (extract_lets -underBinder -merge +onlyGivenNames x; refine keepCut (r := st0) (x := x) ?_ (fun hx => ?_); (on_goal 1 => (unfold x; clear x)); (on_goal 2 => clear_value x))
    | (extract_lets -underBinder -merge +onlyGivenNames x; guard_hyp x : SecSt)
    | (extract_lets -underBinder -merge +onlyGivenNames x; clear_value x)
    | with_reducible refine ite_keeps ?_ ?_
    | with_reducible apply State.modFab_keeps
    | with_reducible apply State.sendPeer_keeps
    | split
    | (fail_if_no_progress (with_reducible apply Keeps.lit <;> try exact rfl))
    | with_reducible refine snd_ite_keeps ?_ ?_
    | with_reducible refine snd_mk_keeps ?_
    | with_reducible refine pair_keeps (by assumption) ?_
    | intro _
    | beta_reduce

theorem State.cycleEnd_keeps {st0 : Inv} {s : State} (h : Keeps st0 s) {k : Nat} :
    Keeps st0 (State.cycleEnd s k) := by
  unfold State.cycleEnd
  repeat' first
    | with_reducible assumption
    | (extract_lets -underBinder -merge +onlyGivenNames x; refine keepCut (r := st0) (x := x) ?_ (fun hx => ?_); (on_goal 1 => (unfold x; clear x)); (on_goal 2 => clear_value x))
    | (extract_lets -underBinder -merge +onlyGivenNames x; guard_hyp x : SecSt)
    | (extract_lets -underBinder -merge +onlyGivenNames x; clear_value x)
    | with_reducible refine ite_keeps ?_ ?_
    | with_reducible apply State.modFab_keeps
    | with_reducible apply State.modWrite_keeps
    | with_reducible apply State.modRep_keeps
    | with_reducible apply State.repTo_keeps
    | with_reducible apply State.repCount_keeps
    | split
    | (fail_if_no_progress (with_reducible apply Keeps.lit <;> try exact rfl))
    | with_reducible refine snd_ite_keeps ?_ ?_
    | with_reducible refine snd_mk_keeps ?_
    | with_reducible refine pair_keeps (by assumption) ?_
    | intro _
    | beta_reduce

theorem State.syncDrop_keeps {st0 : Inv} {s : State} (h : Keeps st0 s) {k : Nat}  :
    Keeps st0 (State.syncDrop s k) := by
  unfold State.syncDrop
  repeat' first
    | with_reducible assumption
    | with_reducible apply State.headForget_keeps
    | with_reducible apply State.modFab_keeps
    | with_reducible apply State.repCount_keeps
    | with_reducible refine foldl_keeps ?_ (fun _ _ _ => ?_)
    | split

theorem State.linkStop_keeps {st0 : Inv} {s : State} (h : Keeps st0 s) {k : Nat}  :
    Keeps st0 (State.linkStop s k) := by
  unfold State.linkStop
  repeat' first
    | with_reducible assumption
    | with_reducible refine ite_keeps ?_ ?_
    | with_reducible apply State.linkResult_keeps
    | with_reducible apply State.cycleEnd_keeps
    | with_reducible apply State.syncDrop_keeps
    | with_reducible apply State.headForget_keeps
    | with_reducible apply State.modFab_keeps
    | with_reducible apply State.irq_keeps
    | with_reducible apply State.repCount_keeps
    | with_reducible refine foldl_keeps ?_ (fun _ _ _ => ?_)

theorem State.linkOffer_keeps {st0 : Inv} {s : State} (h : Keeps st0 s) {k : Nat} {snap : Nat}  :
    Keeps st0 (State.linkOffer s k snap) := by
  unfold State.linkOffer
  repeat' first
    | with_reducible assumption
    | with_reducible apply State.linkResult_keeps
    | with_reducible apply State.modRep_keeps
    | split

theorem State.linkResync_keeps {st0 : Inv} {s : State} (h : Keeps st0 s) {k : Nat}  :
    Keeps st0 (State.linkResync s k) := by
  unfold State.linkResync
  repeat' first
    | with_reducible assumption
    | with_reducible apply State.linkResult_keeps
    | with_reducible apply State.modRep_keeps
    | with_reducible apply State.repTo_keeps
    | split

theorem linkCmdBus_keeps {st0 : Inv} {s : State} (h : Keeps st0 s) {m : Nat} {f : State → State} (hf : ∀ t, Keeps st0 t → Keeps st0 (f t)) :
    ResKeeps st0 (linkCmdBus m f s) := by
  unfold linkCmdBus
  try with_reducible refine ResKeeps.next ?_
  repeat' first
    | with_reducible assumption
    | with_reducible refine ite_keeps ?_ ?_
    | with_reducible refine State.busWr_keeps ?_ (fun _ _ => ?_)
    | with_reducible apply State.raise_keeps
    | with_reducible refine hf _ ?_

theorem execRepLinkLoad_keeps {st0 : Inv} {s : State} (h : Keeps st0 s) {m : Nat} {link : Nat}  :
    ResKeeps st0 (execRepLinkLoad m link s) := by
  unfold execRepLinkLoad
  try with_reducible refine ResKeeps.next ?_
  repeat' first
    | with_reducible assumption
    | with_reducible refine linkCmdBus_keeps ?_ (fun _ _ => ?_)
    | with_reducible apply State.linkLoad_keeps

theorem execRepLinkStop_keeps {st0 : Inv} {s : State} (h : Keeps st0 s) {m : Nat} {link : Nat}  :
    ResKeeps st0 (execRepLinkStop m link s) := by
  unfold execRepLinkStop
  try with_reducible refine ResKeeps.next ?_
  repeat' first
    | with_reducible assumption
    | with_reducible refine linkCmdBus_keeps ?_ (fun _ _ => ?_)
    | with_reducible apply State.linkStop_keeps

theorem execRepLinkOffer_keeps {st0 : Inv} {s : State} (h : Keeps st0 s) {m : Nat} {link : Nat} {snap : Nat}  :
    ResKeeps st0 (execRepLinkOffer m link snap s) := by
  unfold execRepLinkOffer
  try with_reducible refine ResKeeps.next ?_
  repeat' first
    | with_reducible assumption
    | with_reducible refine linkCmdBus_keeps ?_ (fun _ _ => ?_)
    | with_reducible apply State.linkOffer_keeps

theorem execRepLinkResync_keeps {st0 : Inv} {s : State} (h : Keeps st0 s) {m : Nat} {link : Nat}  :
    ResKeeps st0 (execRepLinkResync m link s) := by
  unfold execRepLinkResync
  try with_reducible refine ResKeeps.next ?_
  repeat' first
    | with_reducible assumption
    | with_reducible refine linkCmdBus_keeps ?_ (fun _ _ => ?_)
    | with_reducible apply State.linkResync_keeps

theorem State.repSnap_keeps {st0 : Inv} {s : State} (h : Keeps st0 s) {vol : Nat}  :
    ∀ a t, State.repSnap s vol = some (a, t) → Keeps st0 t := by
  intro x t e
  unfold State.repSnap at e
  try dsimp only at e
  repeat' split at e
  all_goals first
    | (cases e
       (repeat' first
         | with_reducible assumption
         | with_reducible apply State.tblAccept_keeps
         | beta_reduce))

theorem State.askRecipe_keeps {st0 : Inv} [st0.Writes] {s : State} (h : Keeps st0 s) {k : Nat} {page : Nat}  :
    Keeps st0 (State.askRecipe s k page) := by
  unfold State.askRecipe
  repeat' first
    | with_reducible assumption
    | with_reducible apply State.modRep_keeps
    | with_reducible apply State.headSend_keeps
    | split

theorem State.askChunks_keeps {st0 : Inv} [st0.Writes] {s : State} (h : Keeps st0 s) {k : Nat} {js : List (Nat × CJob)}  :
    Keeps st0 (State.askChunks s k js) := by
  unfold State.askChunks
  repeat' first
    | with_reducible assumption
    | with_reducible apply State.modRep_keeps
    | with_reducible apply State.headSend_keeps
    | split

theorem State.recipeChunk_keeps {st0 : Inv} {s : State} (h : Keeps st0 s) {k : Nat} {l : RepLink} {fp : Nat} {orig : Nat} {lbas : List (Nat × Nat)}  :
    Keeps st0 (State.recipeChunk s k l fp orig lbas) := by
  unfold State.recipeChunk
  repeat' first
    | with_reducible assumption
    | (extract_lets -underBinder -merge +onlyGivenNames x; clear_value x)
    | with_reducible apply State.landRefs_keeps
    | with_reducible apply State.land_keeps
    | with_reducible apply State.modJob_keeps
    | with_reducible apply State.startLinkJob_keeps
    | split

theorem State.recipePage_keeps {st0 : Inv} {s : State} (h : Keeps st0 s) {k : Nat} {l : RepLink} {data : Nat} {p : Nat}  :
    Keeps st0 (State.recipePage s k l data p) := by
  unfold State.recipePage
  repeat' first
    | with_reducible assumption
    | with_reducible apply State.bump_keeps
    | with_reducible apply State.landMap_keeps
    | with_reducible apply State.recipeChunk_keeps
    | with_reducible refine foldl_keeps ?_ (fun _ _ _ => ?_)
    | split

theorem State.cycleGo_keeps {st0 : Inv} [st0.Writes] {s : State} (h : Keeps st0 s) {k : Nat}  :
    Keeps st0 (State.cycleGo s k) := by
  unfold State.cycleGo
  dsimp only
  repeat' first
    | with_reducible assumption
    | with_reducible refine State.repSnap_keeps ?_ _ _ (by assumption)
    | with_reducible apply State.modRep_keeps
    | with_reducible apply State.cycleEnd_keeps
    | with_reducible apply State.cursorPut_keeps
    | with_reducible apply State.headSend_keeps
    | with_reducible apply State.askChunks_keeps
    | with_reducible apply State.askRecipe_keeps
    | split
    | (fail_if_no_progress (with_reducible apply Keeps.lit <;> try exact rfl))

theorem State.cycleRetry_keeps {st0 : Inv} [st0.Writes] {s : State} (h : Keeps st0 s) {k : Nat}  :
    Keeps st0 (State.cycleRetry s k) := by
  unfold State.cycleRetry
  repeat' first
    | with_reducible assumption
    | with_reducible apply State.modRep_keeps
    | with_reducible apply State.askRecipe_keeps
    | with_reducible apply State.cycleGo_keeps
    | with_reducible apply State.raise_keeps
    | with_reducible apply State.cycleEnd_keeps
    | split

theorem State.recordTake_keeps {st0 : Inv} {s : State} (h : Keeps st0 s) {j : Nat} {data : Nat} {len : Nat}  :
    Keeps st0 (State.recordTake s j data len) := by
  unfold State.recordTake
  repeat' first
    | with_reducible assumption
    | with_reducible apply State.modJob_keeps
    | with_reducible apply State.bump_keeps
    | with_reducible apply State.placeJob_keeps
    | split

theorem State.pollAnswer_keeps {st0 : Inv} [st0.Writes] {s : State} (h : Keeps st0 s) {k : Nat} {status : Nat} {cond : Nat} {result : Nat} :
    Keeps st0 (State.pollAnswer s k status cond result) := by
  unfold State.pollAnswer
  repeat' first
    | with_reducible assumption
    | (extract_lets -underBinder -merge +onlyGivenNames x; refine keepCut (r := st0) (x := x) ?_ (fun hx => ?_); (on_goal 1 => (unfold x; clear x)); (on_goal 2 => clear_value x))
    | (extract_lets -underBinder -merge +onlyGivenNames x; guard_hyp x : SecSt)
    | (extract_lets -underBinder -merge +onlyGivenNames x; clear_value x)
    | with_reducible refine ite_keeps ?_ ?_
    | with_reducible apply State.applied_keeps
    | with_reducible apply State.bump_keeps
    | with_reducible apply State.modRep_keeps
    | with_reducible apply State.repTo_keeps
    | with_reducible apply State.repCount_keeps
    | with_reducible apply State.askRecipe_keeps
    | split
    | (fail_if_no_progress (with_reducible apply Keeps.lit <;> try exact rfl))
    | with_reducible refine snd_ite_keeps ?_ ?_
    | with_reducible refine snd_mk_keeps ?_
    | with_reducible refine pair_keeps (by assumption) ?_
    | intro _
    | beta_reduce

theorem State.recipeAnswer_keeps {st0 : Inv} [st0.Writes] {s : State} (h : Keeps st0 s) {k : Nat} {status : Nat} {bytes : Nat} {result : Nat} {data : Nat}  :
    Keeps st0 (State.recipeAnswer s k status bytes result data) := by
  unfold State.recipeAnswer
  repeat' first
    | with_reducible assumption
    | with_reducible apply State.cycleRetry_keeps
    | with_reducible apply State.modRep_keeps
    | with_reducible apply State.recipePage_keeps
    | with_reducible apply State.cycleGo_keeps
    | with_reducible refine foldl_keeps ?_ (fun _ _ _ => ?_)
    | split

theorem State.chunksAnswer_keeps {st0 : Inv} [st0.Writes] {s : State} (h : Keeps st0 s) {k : Nat} {status : Nat} {c : HeadCmd}  :
    Keeps st0 (State.chunksAnswer s k status c) := by
  unfold State.chunksAnswer
  repeat' first
    | with_reducible assumption
    | with_reducible refine ite_keeps ?_ ?_
    | with_reducible apply State.cycleRetry_keeps
    | with_reducible apply State.recordTake_keeps
    | with_reducible apply State.modRep_keeps
    | with_reducible apply State.cycleGo_keeps
    | with_reducible refine foldl_keeps ?_ (fun _ _ _ => ?_)

theorem State.doneAnswer_keeps {st0 : Inv} [st0.Writes] {s : State} (h : Keeps st0 s) {k : Nat} {status : Nat}  :
    Keeps st0 (State.doneAnswer s k status) := by
  unfold State.doneAnswer
  repeat' first
    | with_reducible assumption
    | with_reducible apply State.modRep_keeps
    | with_reducible apply State.cycleEnd_keeps
    | with_reducible apply State.raise_keeps
    | split

theorem State.syncTurn_keeps {st0 : Inv} {s : State} (h : Keeps st0 s) {k : Nat} {hid : Nat} :
    Keeps st0 (State.syncTurn s k hid) := by
  unfold State.syncTurn
  repeat' first
    | with_reducible assumption
    | (extract_lets -underBinder -merge +onlyGivenNames x; refine keepCut (r := st0) (x := x) ?_ (fun hx => ?_); (on_goal 1 => (unfold x; clear x)); (on_goal 2 => clear_value x))
    | (extract_lets -underBinder -merge +onlyGivenNames x; guard_hyp x : SecSt)
    | (extract_lets -underBinder -merge +onlyGivenNames x; clear_value x)
    | with_reducible refine ite_keeps ?_ ?_
    | with_reducible apply State.modFab_keeps
    | with_reducible apply State.headForget_keeps
    | with_reducible apply State.modRep_keeps
    | with_reducible refine foldl_keeps ?_ (fun _ _ _ => ?_)
    | split
    | (fail_if_no_progress (with_reducible apply Keeps.lit <;> try exact rfl))
    | with_reducible refine snd_ite_keeps ?_ ?_
    | with_reducible refine snd_mk_keeps ?_
    | with_reducible refine pair_keeps (by assumption) ?_
    | intro _
    | beta_reduce

theorem State.syncAnswer_keeps {st0 : Inv} {s : State} (h : Keeps st0 s) {id : Nat} {hid : Nat} {status : Nat} :
    Keeps st0 (State.syncAnswer s id hid status) := by
  unfold State.syncAnswer
  repeat' first
    | with_reducible assumption
    | (extract_lets -underBinder -merge +onlyGivenNames x; refine keepCut (r := st0) (x := x) ?_ (fun hx => ?_); (on_goal 1 => (unfold x; clear x)); (on_goal 2 => clear_value x))
    | (extract_lets -underBinder -merge +onlyGivenNames x; guard_hyp x : SecSt)
    | (extract_lets -underBinder -merge +onlyGivenNames x; clear_value x)
    | with_reducible refine ite_keeps ?_ ?_
    | with_reducible apply State.modFab_keeps
    | with_reducible apply State.set_keeps
    | with_reducible apply State.repCount_keeps
    | with_reducible apply State.syncTurn_keeps
    | split
    | (fail_if_no_progress (with_reducible apply Keeps.lit <;> try exact rfl))
    | with_reducible refine snd_ite_keeps ?_ ?_
    | with_reducible refine snd_mk_keeps ?_
    | with_reducible refine pair_keeps (by assumption) ?_
    | intro _
    | beta_reduce

theorem State.headDone_keeps {st0 : Inv} [st0.Writes] {s : State} (h : Keeps st0 s) {n : Nat} {data : Nat} :
    Keeps st0 (State.headDone s n data) := by
  unfold State.headDone
  repeat' first
    | with_reducible assumption
    | (extract_lets -underBinder -merge +onlyGivenNames x; refine keepCut (r := st0) (x := x) ?_ (fun hx => ?_); (on_goal 1 => (unfold x; clear x)); (on_goal 2 => clear_value x))
    | (extract_lets -underBinder -merge +onlyGivenNames x; guard_hyp x : SecSt)
    | (extract_lets -underBinder -merge +onlyGivenNames x; clear_value x)
    | with_reducible refine ite_keeps ?_ ?_
    | with_reducible apply State.headForget_keeps
    | with_reducible apply State.fetchAnswer_keeps
    | with_reducible apply State.pollAnswer_keeps
    | with_reducible apply State.recipeAnswer_keeps
    | with_reducible apply State.chunksAnswer_keeps
    | with_reducible apply State.doneAnswer_keeps
    | with_reducible apply State.syncAnswer_keeps
    | with_reducible apply State.fetchAbandon_keeps
    | split
    | (fail_if_no_progress (with_reducible apply Keeps.lit <;> try exact rfl))
    | with_reducible refine snd_ite_keeps ?_ ?_
    | with_reducible refine snd_mk_keeps ?_
    | with_reducible refine pair_keeps (by assumption) ?_
    | intro _
    | beta_reduce

theorem State.headGone_keeps {st0 : Inv} [st0.Writes] {s : State} (h : Keeps st0 s) {l : List (Nat × HeadCmd)} {told : Bool} :
    Keeps st0 (State.headGone s l told) := by
  unfold State.headGone
  repeat' first
    | with_reducible assumption
    | with_reducible refine ite_keeps ?_ ?_
    | with_reducible apply State.headForget_keeps
    | with_reducible apply State.fabNext_keeps
    | with_reducible apply State.modRep_keeps
    | with_reducible apply State.cycleEnd_keeps
    | with_reducible apply State.syncTurn_keeps
    | with_reducible apply State.fetchAbandon_keeps
    | with_reducible refine foldl_keeps ?_ (fun _ _ _ => ?_)
    | split
    | (fail_if_no_progress (with_reducible apply Keeps.lit <;> try exact rfl))
    | with_reducible refine snd_ite_keeps ?_ ?_
    | with_reducible refine snd_mk_keeps ?_
    | with_reducible refine pair_keeps (by assumption) ?_
    | intro _
    | beta_reduce

theorem State.headLost_keeps {st0 : Inv} [st0.Writes] {s : State} (h : Keeps st0 s) {n : Nat} :
    Keeps st0 (State.headLost s n) := by
  unfold State.headLost
  repeat' first
    | with_reducible assumption
    | (extract_lets -underBinder -merge +onlyGivenNames x; refine keepCut (r := st0) (x := x) ?_ (fun hx => ?_); (on_goal 1 => (unfold x; clear x)); (on_goal 2 => clear_value x))
    | (extract_lets -underBinder -merge +onlyGivenNames x; guard_hyp x : SecSt)
    | (extract_lets -underBinder -merge +onlyGivenNames x; clear_value x)
    | with_reducible apply State.modFab_keeps
    | with_reducible apply State.headGone_keeps
    | split
    | (fail_if_no_progress (with_reducible apply Keeps.lit <;> try exact rfl))
    | with_reducible refine snd_ite_keeps ?_ ?_
    | with_reducible refine snd_mk_keeps ?_
    | with_reducible refine pair_keeps (by assumption) ?_
    | intro _
    | beta_reduce

theorem State.orphansGo_keeps {st0 : Inv} [st0.Writes] {s : State} (h : Keeps st0 s)  :
    Keeps st0 (State.orphansGo s) := by
  unfold State.orphansGo
  repeat' first
    | with_reducible assumption
    | with_reducible apply State.headGone_keeps
    | split
    | (fail_if_no_progress (with_reducible apply Keeps.lit <;> try exact rfl))
    | with_reducible refine snd_ite_keeps ?_ ?_
    | with_reducible refine snd_mk_keeps ?_
    | with_reducible refine pair_keeps (by assumption) ?_
    | intro _
    | beta_reduce

theorem State.ldtClose_keeps {st0 : Inv} [st0.Writes] {s : State} (h : Keeps st0 s) {n : Nat} {tell : Bool}  :
    Keeps st0 (State.ldtClose s n tell) := by
  unfold State.ldtClose
  repeat' first
    | with_reducible assumption
    | with_reducible refine ite_keeps ?_ ?_
    | with_reducible apply State.ldtEnd_keeps
    | with_reducible apply State.headLost_keeps

theorem State.fabShut_keeps {st0 : Inv} [st0.Writes] {s : State} (h : Keeps st0 s)  :
    Keeps st0 (State.fabShut s) := by
  unfold State.fabShut
  repeat' first
    | with_reducible assumption
    | (extract_lets -underBinder -merge +onlyGivenNames x; refine keepCut (r := st0) (x := x) ?_ (fun hx => ?_); (on_goal 1 => (unfold x; clear x)); (on_goal 2 => clear_value x))
    | (extract_lets -underBinder -merge +onlyGivenNames x; guard_hyp x : SecSt)
    | (extract_lets -underBinder -merge +onlyGivenNames x; clear_value x)
    | with_reducible apply State.ldtClose_keeps
    | with_reducible refine foldl_keeps ?_ (fun _ _ _ => ?_)
    | split
    | (fail_if_no_progress (with_reducible apply Keeps.lit <;> try exact rfl))
    | with_reducible refine snd_ite_keeps ?_ ?_
    | with_reducible refine snd_mk_keeps ?_
    | with_reducible refine pair_keeps (by assumption) ?_
    | intro _
    | beta_reduce

theorem execRepPollDue_keeps {st0 : Inv} [st0.Writes] {s : State} (h : Keeps st0 s) {link : Nat} :
    ResKeeps st0 (execRepPollDue link s) := by
  unfold execRepPollDue
  try with_reducible refine ResKeeps.next ?_
  repeat' first
    | with_reducible assumption
    | (extract_lets -underBinder -merge +onlyGivenNames x; refine keepCut (r := st0) (x := x) ?_ (fun hx => ?_); (on_goal 1 => (unfold x; clear x)); (on_goal 2 => clear_value x))
    | (extract_lets -underBinder -merge +onlyGivenNames x; guard_hyp x : SecSt)
    | (extract_lets -underBinder -merge +onlyGivenNames x; clear_value x)
    | with_reducible refine ite_keeps ?_ ?_
    | with_reducible refine ResKeeps.next ?_
    | with_reducible apply State.headSend_keeps
    | with_reducible apply State.modRep_keeps
    | split
    | (fail_if_no_progress (with_reducible apply Keeps.lit <;> try exact rfl))
    | with_reducible refine snd_ite_keeps ?_ ?_
    | with_reducible refine snd_mk_keeps ?_
    | with_reducible refine pair_keeps (by assumption) ?_
    | intro _
    | beta_reduce

theorem State.resyncGo_keeps {st0 : Inv} {s : State} (h : Keeps st0 s)   :
    Keeps st0 (State.resyncGo s) := by
  unfold State.resyncGo
  repeat' first
    | with_reducible assumption
    | with_reducible refine State.repSnap_keeps ?_ _ _ (by assumption)
    | with_reducible apply State.modRep_keeps
    | with_reducible refine foldl_keeps ?_ (fun _ _ _ => ?_)
    | split
    | (fail_if_no_progress (with_reducible apply Keeps.lit <;> try exact rfl))

theorem State.syncGo_keeps {st0 : Inv} [st0.Writes] {s : State} (h : Keeps st0 s)   :
    Keeps st0 (State.syncGo s) := by
  unfold State.syncGo
  repeat' first
    | with_reducible assumption
    | with_reducible refine ite_keeps ?_ ?_
    | with_reducible apply State.modReq_keeps
    | with_reducible apply State.modFab_keeps
    | with_reducible apply State.bump_keeps
    | with_reducible apply State.headSend_keeps
    | with_reducible apply State.repCount_keeps
    | with_reducible refine foldl_keeps ?_ (fun _ _ _ => ?_)

theorem execRepSyncTimeout_keeps {st0 : Inv} {s : State} (h : Keeps st0 s) {id : Nat} :
    ResKeeps st0 (execRepSyncTimeout id s) := by
  unfold execRepSyncTimeout
  try with_reducible refine ResKeeps.next ?_
  repeat' first
    | with_reducible assumption
    | with_reducible refine ite_keeps ?_ ?_
    | with_reducible refine ResKeeps.next ?_
    | with_reducible apply State.bump_keeps
    | with_reducible apply State.raise_keeps
    | with_reducible apply State.repTo_keeps
    | with_reducible apply State.syncDrop_keeps
    | split
    | (fail_if_no_progress (with_reducible apply Keeps.lit <;> try exact rfl))
    | with_reducible refine snd_ite_keeps ?_ ?_
    | with_reducible refine snd_mk_keeps ?_
    | with_reducible refine pair_keeps (by assumption) ?_
    | intro _
    | beta_reduce

theorem State.fabLeave_keeps {st0 : Inv} [st0.Writes] {s : State} (h : Keeps st0 s)   :
    Keeps st0 (State.fabLeave s) := by
  unfold State.fabLeave
  repeat' first
    | with_reducible assumption
    | with_reducible refine ite_keeps ?_ ?_
    | with_reducible apply State.helloSend_keeps
    | with_reducible apply State.set_keeps
    | with_reducible apply State.fabShut_keeps

theorem execFabHelloSend_keeps {st0 : Inv} [st0.Writes] {s : State} (h : Keeps st0 s)   :
    ResKeeps st0 (execFabHelloSend s) := by
  unfold execFabHelloSend
  try with_reducible refine ResKeeps.next ?_
  repeat' first
    | with_reducible assumption
    | with_reducible refine ite_keeps ?_ ?_
    | with_reducible apply State.fabLeave_keeps
    | with_reducible apply State.set_keeps
    | with_reducible apply State.modFab_keeps
    | with_reducible apply State.helloSend_keeps
    | with_reducible apply State.homesCheck_keeps

theorem State.memberLost_keeps {st0 : Inv} [st0.Writes] {s : State} (h : Keeps st0 s) {hid : Nat} :
    Keeps st0 (State.memberLost s hid) := by
  unfold State.memberLost
  repeat' first
    | with_reducible assumption
    | (extract_lets -underBinder -merge +onlyGivenNames x; refine keepCut (r := st0) (x := x) ?_ (fun hx => ?_); (on_goal 1 => (unfold x; clear x)); (on_goal 2 => clear_value x))
    | (extract_lets -underBinder -merge +onlyGivenNames x; guard_hyp x : SecSt)
    | (extract_lets -underBinder -merge +onlyGivenNames x; clear_value x)
    | with_reducible refine ite_keeps ?_ ?_
    | with_reducible apply State.modFab_keeps
    | with_reducible apply State.fabCount_keeps
    | with_reducible apply State.homesCheck_keeps
    | with_reducible apply State.bump_keeps
    | with_reducible apply State.irq_keeps
    | with_reducible apply State.headGone_keeps
    | split
    | (fail_if_no_progress (with_reducible apply Keeps.lit <;> try exact rfl))
    | with_reducible refine snd_ite_keeps ?_ ?_
    | with_reducible refine snd_mk_keeps ?_
    | with_reducible refine pair_keeps (by assumption) ?_
    | intro _
    | beta_reduce

theorem State.conflict_keeps {st0 : Inv} [st0.Writes] {s : State} (h : Keeps st0 s) {arrayId : Nat} {chip : Nat} {held : Nat}  :
    Keeps st0 (State.conflict s arrayId chip held) := by
  unfold State.conflict
  repeat' first
    | with_reducible assumption
    | with_reducible refine ite_keeps ?_ ?_
    | with_reducible apply State.raise_keeps
    | with_reducible apply State.irq_keeps
    | with_reducible apply State.setAll_keeps
    | with_reducible apply State.set_keeps
    | with_reducible apply State.modFab_keeps
    | with_reducible apply State.fabShut_keeps

theorem State.helloTake_keeps {st0 : Inv} {s : State} (h : Keeps st0 s) {l : List Nat} {typ : Nat} {f : FabHello → State → State}
    (hf : ∀ x t, Keeps st0 t → Keeps st0 (f x t)) : Keeps st0 (State.helloTake s l typ f) := by
  unfold State.helloTake
  refine ite_keeps h ?_
  have h2 := State.slotFor_keeps h (k := s.get F.FAB_CFG_KEY_SLOT) (useBit := 1)
  revert h2
  generalize s.slotFor (s.get F.FAB_CFG_KEY_SLOT) 1 = q
  intro h2
  exact ite_keeps (State.bump_keeps h2) (hf _ _ (State.bump_keeps (State.modFab_keeps h2)))

theorem State.memberSeen_keeps {st0 : Inv} {s : State} (h : Keeps st0 s) {x : FabHello} :
    Keeps st0 (State.memberSeen s x) := by
  unfold State.memberSeen
  repeat' first
    | with_reducible assumption
    | (extract_lets -underBinder -merge +onlyGivenNames x; refine keepCut (r := st0) (x := x) ?_ (fun hx => ?_); (on_goal 1 => (unfold x; clear x)); (on_goal 2 => clear_value x))
    | (extract_lets -underBinder -merge +onlyGivenNames x; guard_hyp x : SecSt)
    | (extract_lets -underBinder -merge +onlyGivenNames x; clear_value x)
    | with_reducible refine ite_keeps ?_ ?_
    | with_reducible apply State.modFab_keeps
    | with_reducible apply State.fabCount_keeps
    | with_reducible apply State.homesCheck_keeps
    | with_reducible apply State.noRoute_keeps
    | with_reducible apply State.bump_keeps
    | with_reducible apply State.irq_keeps
    | split
    | (fail_if_no_progress (with_reducible apply Keeps.lit <;> try exact rfl))
    | with_reducible refine snd_ite_keeps ?_ ?_
    | with_reducible refine snd_mk_keeps ?_
    | with_reducible refine pair_keeps (by assumption) ?_
    | intro _
    | beta_reduce

theorem execFabHelloRx_keeps {st0 : Inv} [st0.Writes] {s : State} (h : Keeps st0 s) {l : List Nat} :
    ResKeeps st0 (execFabHelloRx l s) := by
  unfold execFabHelloRx
  refine ResKeeps.next (State.helloTake_keeps h (fun x t ht => ?_))
  exact ite_keeps (ite_keeps (State.conflict_keeps ht) ht) (ite_keeps ht (State.memberSeen_keeps ht))

theorem execFabLeaveRx_keeps {st0 : Inv} [st0.Writes] {s : State} (h : Keeps st0 s) {l : List Nat} :
    ResKeeps st0 (execFabLeaveRx l s) := by
  unfold execFabLeaveRx
  exact ResKeeps.next (State.helloTake_keeps h (fun _ _ ht => State.memberLost_keeps ht))

theorem execFabMemberMiss_keeps {st0 : Inv} [st0.Writes] {s : State} (h : Keeps st0 s) {hid : Nat}  :
    ResKeeps st0 (execFabMemberMiss hid s) := by
  unfold execFabMemberMiss
  try with_reducible refine ResKeeps.next ?_
  repeat' first
    | with_reducible assumption
    | with_reducible apply State.memberLost_keeps
    | split

end Sys2Proof.Machine
end

