-- ==== Sys2Proof/Laws/KeepsLdtRx.lean ====
section
/-! SUPPORT. The operations and commands of Machine/LdtRx.lean keep what a state is asked (Laws/Keeps.lean). -/

set_option linter.all false

namespace Sys2Proof.Machine

theorem State.helloRefuse_keeps {st0 : Inv} {s : State} (h : Keeps st0 s) {u : Nat} {iface : Nat} {addr : Nat} {hello : List Nat} {reason : Nat} :
    Keeps st0 (State.helloRefuse s u iface addr hello reason) := by
  unfold State.helloRefuse
  repeat' first
    | with_reducible assumption
    | (extract_lets -underBinder -merge +onlyGivenNames x; refine keepCut (r := st0) (x := x) ?_ (fun hx => ?_); (on_goal 1 => (unfold x; clear x)); (on_goal 2 => clear_value x))
    | (extract_lets -underBinder -merge +onlyGivenNames x; guard_hyp x : SecSt)
    | (extract_lets -underBinder -merge +onlyGivenNames x; clear_value x)
    | with_reducible apply State.bump_keeps
    | with_reducible apply State.free_keeps
    | with_reducible apply State.hfiSend_keeps
    | with_reducible refine foldl_keeps ?_ (fun _ _ _ => ?_)
    | split
    | (fail_if_no_progress (with_reducible apply Keeps.lit <;> try exact rfl))
    | with_reducible refine snd_ite_keeps ?_ ?_
    | with_reducible refine snd_mk_keeps ?_
    | with_reducible refine pair_keeps (by assumption) ?_
    | intro _
    | beta_reduce

theorem State.ctxRoom_keeps {st0 : Inv} {s : State} (h : Keeps st0 s) {u : Nat}  :
    Keeps st0 (State.ctxRoom s u).2 := by
  unfold State.ctxRoom
  repeat' first
    | with_reducible assumption
    | (extract_lets -underBinder -merge +onlyGivenNames x; clear_value x)
    | with_reducible apply State.modLconn_keeps
    | split

theorem State.helloTakeIn_keeps {st0 : Inv} [st0.Writes] {s : State} (h : Keeps st0 s) {u : Nat} {iface : Nat} {addr : Nat} {v6 : Bool} {b : List Nat} {n : Nat} {w : Nat} :
    Keeps st0 (State.helloTakeIn s u iface addr v6 b n w) := by
  unfold State.helloTakeIn
  repeat' first
    | with_reducible assumption
    | (extract_lets -underBinder -merge +onlyGivenNames x; refine keepCut (r := st0) (x := x) ?_ (fun hx => ?_); (on_goal 1 => (unfold x; clear x)); (on_goal 2 => clear_value x))
    | (extract_lets -underBinder -merge +onlyGivenNames x; guard_hyp x : SecSt)
    | (extract_lets -underBinder -merge +onlyGivenNames x; clear_value x)
    | with_reducible apply State.modLdt_keeps
    | with_reducible apply State.ctxRoom_keeps
    | with_reducible apply State.irq_keeps
    | with_reducible apply State.wrBytes_keeps
    | split
    | (fail_if_no_progress (with_reducible apply Keeps.lit <;> try exact rfl))
    | with_reducible refine snd_ite_keeps ?_ ?_
    | with_reducible refine snd_mk_keeps ?_
    | with_reducible refine pair_keeps (by assumption) ?_
    | intro _
    | beta_reduce

theorem execLdtHelloRx_keeps {st0 : Inv} [st0.Writes] {s : State} (h : Keeps st0 s) {u : Nat} {iface : Nat} {addr : Nat} {v6 : Bool} {data : List Nat}  :
    ResKeeps st0 (execLdtHelloRx u iface addr v6 data s) := by
  unfold execLdtHelloRx
  try with_reducible refine ResKeeps.next ?_
  repeat' first
    | with_reducible assumption
    | (extract_lets -underBinder -merge +onlyGivenNames x; clear_value x)
    | with_reducible apply State.bump_keeps
    | with_reducible apply State.ldtClear_keeps
    | with_reducible apply State.helloRefuse_keeps
    | with_reducible apply State.helloTakeIn_keeps
    | split

theorem State.acceptIrq_keeps {st0 : Inv} {s : State} (h : Keeps st0 s) {u : Nat}  :
    Keeps st0 (State.acceptIrq s u) := by
  unfold State.acceptIrq
  repeat' first
    | with_reducible assumption
    | with_reducible apply State.irqIs_keeps

theorem execLdtAcceptQRead_keeps {st0 : Inv} {s : State} (h : Keeps st0 s) {m : Nat} {u : Nat} :
    ResKeeps st0 (execLdtAcceptQRead m u s) := by
  unfold execLdtAcceptQRead
  try with_reducible refine ResKeeps.next ?_
  repeat' first
    | with_reducible assumption
    | (extract_lets -underBinder -merge +onlyGivenNames x; refine keepCut (r := st0) (x := x) ?_ (fun hx => ?_); (on_goal 1 => (unfold x; clear x)); (on_goal 2 => clear_value x))
    | (extract_lets -underBinder -merge +onlyGivenNames x; guard_hyp x : SecSt)
    | (extract_lets -underBinder -merge +onlyGivenNames x; clear_value x)
    | with_reducible refine ResKeeps.next ?_
    | with_reducible apply State.modLdt_keeps
    | with_reducible apply State.acceptIrq_keeps
    | with_reducible apply State.setAll_keeps
    | with_reducible apply State.answer_keeps
    | with_reducible refine State.busRd_keeps ?_ (fun _ _ => ?_)
    | split
    | (fail_if_no_progress (with_reducible apply Keeps.lit <;> try exact rfl))
    | with_reducible refine snd_ite_keeps ?_ ?_
    | with_reducible refine snd_mk_keeps ?_
    | with_reducible refine pair_keeps (by assumption) ?_
    | intro _
    | beta_reduce

theorem State.acceptGone_keeps {st0 : Inv} {s : State} (h : Keeps st0 s) {w : Nat}  :
    Keeps st0 (State.acceptGone s w) := by
  unfold State.acceptGone
  repeat' first
    | with_reducible assumption
    | with_reducible apply State.modLdt_keeps
    | with_reducible apply State.modLconn_keeps
    | with_reducible apply State.acceptIrq_keeps
    | split

theorem State.acceptRefuse_keeps {st0 : Inv} {s : State} (h : Keeps st0 s) {w : Nat} {reason : Nat}  :
    Keeps st0 (State.acceptRefuse s w reason) := by
  unfold State.acceptRefuse
  repeat' first
    | with_reducible assumption
    | with_reducible apply State.helloRefuse_keeps
    | with_reducible apply State.acceptGone_keeps
    | with_reducible apply State.ldtEnd_keeps
    | split

theorem State.acceptYes_keeps {st0 : Inv} [st0.Writes] {s : State} (h : Keeps st0 s) {w : Nat}  :
    Keeps st0 (State.acceptYes s w) := by
  unfold State.acceptYes
  repeat' first
    | with_reducible assumption
    | (extract_lets -underBinder -merge +onlyGivenNames x; clear_value x)
    | with_reducible apply State.raise_keeps
    | with_reducible apply State.acceptRefuse_keeps
    | with_reducible apply State.draw256_keeps
    | with_reducible apply State.free_keeps
    | with_reducible apply State.modLdt_keeps
    | with_reducible apply State.acceptGone_keeps
    | with_reducible apply State.ldtKey_keeps
    | with_reducible apply State.ldtClear_keeps
    | split

theorem State.acceptAnswer_keeps {st0 : Inv} [st0.Writes] {s : State} (h : Keeps st0 s) {u : Nat} {slot : Nat} {action : Nat} :
    Keeps st0 (State.acceptAnswer s u slot action) := by
  unfold State.acceptAnswer
  repeat' first
    | with_reducible assumption
    | (extract_lets -underBinder -merge +onlyGivenNames x; refine keepCut (r := st0) (x := x) ?_ (fun hx => ?_); (on_goal 1 => (unfold x; clear x)); (on_goal 2 => clear_value x))
    | (extract_lets -underBinder -merge +onlyGivenNames x; guard_hyp x : SecSt)
    | (extract_lets -underBinder -merge +onlyGivenNames x; clear_value x)
    | with_reducible refine ite_keeps ?_ ?_
    | with_reducible apply State.modLdt_keeps
    | with_reducible apply State.acceptRefuse_keeps
    | with_reducible apply State.acceptYes_keeps
    | with_reducible apply State.raise_keeps
    | split
    | (fail_if_no_progress (with_reducible apply Keeps.lit <;> try exact rfl))
    | with_reducible refine snd_ite_keeps ?_ ?_
    | with_reducible refine snd_mk_keeps ?_
    | with_reducible refine pair_keeps (by assumption) ?_
    | intro _
    | beta_reduce

theorem State.acceptsGo_keeps {st0 : Inv} [st0.Writes] {s : State} (h : Keeps st0 s)  :
    Keeps st0 (State.acceptsGo s) := by
  unfold State.acceptsGo
  repeat' first
    | with_reducible assumption
    | with_reducible refine ite_keeps ?_ ?_
    | with_reducible apply State.acceptYes_keeps
    | with_reducible refine foldl_keeps ?_ (fun _ _ _ => ?_)
    | split
    | (fail_if_no_progress (with_reducible apply Keeps.lit <;> try exact rfl))
    | with_reducible refine snd_ite_keeps ?_ ?_
    | with_reducible refine snd_mk_keeps ?_
    | with_reducible refine pair_keeps (by assumption) ?_
    | intro _
    | beta_reduce

theorem acceptBus_keeps {st0 : Inv} [st0.Writes] {s : State} (h : Keeps st0 s) {m : Nat} {u : Nat} {slot : Nat} {action : Nat}  :
    ResKeeps st0 (acceptBus m u slot action s) := by
  unfold acceptBus
  try with_reducible refine ResKeeps.next ?_
  repeat' first
    | with_reducible assumption
    | with_reducible refine State.busWr_keeps ?_ (fun _ _ => ?_)
    | with_reducible apply State.acceptAnswer_keeps

theorem execLdtAccept_keeps {st0 : Inv} [st0.Writes] {s : State} (h : Keeps st0 s) {m : Nat} {u : Nat} {slot : Nat}  :
    ResKeeps st0 (execLdtAccept m u slot s) := by
  unfold execLdtAccept
  try with_reducible refine ResKeeps.next ?_
  repeat' first
    | with_reducible assumption
    | with_reducible apply acceptBus_keeps

theorem execLdtRefuse_keeps {st0 : Inv} [st0.Writes] {s : State} (h : Keeps st0 s) {m : Nat} {u : Nat} {slot : Nat}  :
    ResKeeps st0 (execLdtRefuse m u slot s) := by
  unfold execLdtRefuse
  try with_reducible refine ResKeeps.next ?_
  repeat' first
    | with_reducible assumption
    | with_reducible apply acceptBus_keeps

theorem execLdtRefuseBusy_keeps {st0 : Inv} [st0.Writes] {s : State} (h : Keeps st0 s) {m : Nat} {u : Nat} {slot : Nat}  :
    ResKeeps st0 (execLdtRefuseBusy m u slot s) := by
  unfold execLdtRefuseBusy
  try with_reducible refine ResKeeps.next ?_
  repeat' first
    | with_reducible assumption
    | with_reducible apply acceptBus_keeps

theorem execLdtAcceptTimeout_keeps {st0 : Inv} {s : State} (h : Keeps st0 s) {u : Nat} {slot : Nat} :
    ResKeeps st0 (execLdtAcceptTimeout u slot s) := by
  unfold execLdtAcceptTimeout
  try with_reducible refine ResKeeps.next ?_
  repeat' first
    | with_reducible assumption
    | with_reducible refine ite_keeps ?_ ?_
    | with_reducible refine ResKeeps.next ?_
    | with_reducible apply State.acceptRefuse_keeps
    | with_reducible apply State.raise_keeps
    | split
    | (fail_if_no_progress (with_reducible apply Keeps.lit <;> try exact rfl))
    | with_reducible refine snd_ite_keeps ?_ ?_
    | with_reducible refine snd_mk_keeps ?_
    | with_reducible refine pair_keeps (by assumption) ?_
    | intro _
    | beta_reduce

theorem execLdtHelloRespRx_keeps {st0 : Inv} [st0.Writes] {s : State} (h : Keeps st0 s) {u : Nat} {dcid : Nat} {data : List Nat} {ok : Bool}  :
    ResKeeps st0 (execLdtHelloRespRx u dcid data ok s) := by
  unfold execLdtHelloRespRx
  try with_reducible refine ResKeeps.next ?_
  repeat' first
    | with_reducible assumption
    | with_reducible apply State.ldtClose_keeps
    | with_reducible apply State.modLdt_keeps
    | with_reducible apply State.ldtKey_keeps
    | with_reducible apply State.bump_keeps
    | with_reducible apply State.ldtMsg_keeps
    | with_reducible apply State.headGo_keeps
    | split

theorem execLdtFinishRx_keeps {st0 : Inv} {s : State} (h : Keeps st0 s) {u : Nat} {dcid : Nat} {tagOk : Bool} {ok : Bool} :
    ResKeeps st0 (execLdtFinishRx u dcid tagOk ok s) := by
  unfold execLdtFinishRx
  try with_reducible refine ResKeeps.next ?_
  repeat' first
    | with_reducible assumption
    | (extract_lets -underBinder -merge +onlyGivenNames x; refine keepCut (r := st0) (x := x) ?_ (fun hx => ?_); (on_goal 1 => (unfold x; clear x)); (on_goal 2 => clear_value x))
    | (extract_lets -underBinder -merge +onlyGivenNames x; guard_hyp x : SecSt)
    | (extract_lets -underBinder -merge +onlyGivenNames x; clear_value x)
    | with_reducible refine ite_keeps ?_ ?_
    | with_reducible refine ResKeeps.next ?_
    | with_reducible apply State.modLconn_keeps
    | with_reducible apply State.lsts_keeps
    | with_reducible apply State.ldtAck_keeps
    | with_reducible apply State.ldtEnd_keeps
    | with_reducible apply State.bump_keeps
    | with_reducible apply State.raise_keeps
    | split
    | (fail_if_no_progress (with_reducible apply Keeps.lit <;> try exact rfl))
    | with_reducible refine snd_ite_keeps ?_ ?_
    | with_reducible refine snd_mk_keeps ?_
    | with_reducible refine pair_keeps (by assumption) ?_
    | intro _
    | beta_reduce

theorem execLdtSetupTimeout_keeps {st0 : Inv} {s : State} (h : Keeps st0 s) {n : Nat}  :
    ResKeeps st0 (execLdtSetupTimeout n s) := by
  unfold execLdtSetupTimeout
  try with_reducible refine ResKeeps.next ?_
  repeat' first
    | with_reducible assumption
    | with_reducible apply State.raise_keeps
    | with_reducible apply State.ldtEnd_keeps
    | split

theorem State.respFail_keeps {st0 : Inv} {s : State} (h : Keeps st0 s) {n : Nat} {msn : Nat} {cond : Nat}  :
    Keeps st0 (State.respFail s n msn cond) := by
  unfold State.respFail
  repeat' first
    | with_reducible assumption
    | (extract_lets -underBinder -merge +onlyGivenNames x; refine keepCut (r := st0) (x := x) ?_ (fun hx => ?_); (on_goal 1 => (unfold x; clear x)); (on_goal 2 => clear_value x))
    | with_reducible apply State.modLconn_keeps
    | with_reducible apply State.finish_keeps
    | with_reducible apply State.wakeHeld_keeps
    | split

theorem State.rxFail_keeps {st0 : Inv} [st0.Writes] {s : State} (h : Keeps st0 s) {n : Nat} {msn : Nat} {cond : Nat} {resp : Bool}  :
    Keeps st0 (State.rxFail s n msn cond resp) := by
  unfold State.rxFail
  repeat' first
    | with_reducible assumption
    | with_reducible refine ite_keeps ?_ ?_
    | with_reducible apply State.modLconn_keeps
    | with_reducible apply State.bump_keeps
    | with_reducible apply State.lsts_keeps
    | with_reducible apply State.ldtCtrl_keeps
    | with_reducible apply State.respFail_keeps

theorem State.listCame_keeps {st0 : Inv} {s : State} (h : Keeps st0 s) {tag : Nat} {data : Nat}  :
    Keeps st0 (State.listCame s tag data) := by
  unfold State.listCame
  repeat' first
    | with_reducible assumption
    | with_reducible apply State.modReq_keeps
    | with_reducible apply State.resolve_keeps
    | split

theorem State.respTake_keeps {st0 : Inv} {s : State} (h : Keeps st0 s) {n : Nat} {msn : Nat} {m : LdtRx}  :
    Keeps st0 (State.respTake s n msn m) := by
  unfold State.respTake
  repeat' first
    | with_reducible assumption
    | (extract_lets -underBinder -merge +onlyGivenNames x; refine keepCut (r := st0) (x := x) ?_ (fun hx => ?_); (on_goal 1 => (unfold x; clear x)); (on_goal 2 => clear_value x))
    | (extract_lets -underBinder -merge +onlyGivenNames x; clear_value x)
    | with_reducible apply State.landBlock_keeps
    | with_reducible apply State.modLconn_keeps
    | with_reducible apply State.listCame_keeps
    | with_reducible refine foldl_keeps ?_ (fun _ _ _ => ?_)
    | split

theorem State.readAnswer_keeps {st0 : Inv} [st0.Writes] {s : State} (h : Keeps st0 s) {n : Nat} {msn : Nat} {m : LdtRx}  :
    Keeps st0 (State.readAnswer s n msn m) := by
  unfold State.readAnswer
  repeat' first
    | with_reducible assumption
    | (extract_lets -underBinder -merge +onlyGivenNames x; clear_value x)
    | with_reducible apply State.ldtResp_keeps
    | with_reducible apply State.ldtCtrl_keeps
    | split

theorem State.msgReport_keeps {st0 : Inv} [st0.Writes] {s : State} (h : Keeps st0 s) {n : Nat} {msn : Nat} {m : LdtRx}  :
    Keeps st0 (State.msgReport s n msn m) := by
  unfold State.msgReport
  repeat' first
    | with_reducible assumption
    | with_reducible refine ite_keeps ?_ ?_
    | with_reducible apply State.lsts_keeps
    | with_reducible apply State.headDone_keeps
    | with_reducible apply State.modLconn_keeps
    | with_reducible apply State.readAnswer_keeps
    | with_reducible apply State.ldtClose_keeps
    | with_reducible apply State.respFail_keeps

theorem State.msgReports_keeps {st0 : Inv} [st0.Writes] {s : State} (h : Keeps st0 s) {a0 : Nat} {a1 : Nat} :
    Keeps st0 (State.msgReports a0 a1 s) := by
  induction a0 generalizing a1 s with
  | zero =>
    unfold State.msgReports
    repeat' first
      | with_reducible assumption
  | succ n ih =>
    unfold State.msgReports
    repeat' first
      | with_reducible assumption
      | with_reducible apply State.modLconn_keeps
      | with_reducible apply State.msgReport_keeps
      | with_reducible apply ih
      | split

theorem State.msgTake_keeps {st0 : Inv} [st0.Writes] {s : State} (h : Keeps st0 s) {n : Nat} {x : LdtConn} {p : LdtIn} :
    Keeps st0 (State.msgTake s n x p) := by
  unfold State.msgTake
  repeat' first
    | with_reducible assumption
    | (extract_lets -underBinder -merge +onlyGivenNames x; refine keepCut (r := st0) (x := x) ?_ (fun hx => ?_); (on_goal 1 => (unfold x; clear x)); (on_goal 2 => clear_value x))
    | (extract_lets -underBinder -merge +onlyGivenNames x; guard_hyp x : SecSt)
    | (extract_lets -underBinder -merge +onlyGivenNames x; clear_value x)
    | with_reducible refine ite_keeps ?_ ?_
    | with_reducible apply State.modLconn_keeps
    | with_reducible apply State.lsts_keeps
    | with_reducible apply State.rxFail_keeps
    | with_reducible apply State.respTake_keeps
    | with_reducible apply State.wrLE_keeps
    | split
    | (fail_if_no_progress (with_reducible apply Keeps.lit <;> try exact rfl))
    | with_reducible refine snd_ite_keeps ?_ ?_
    | with_reducible refine snd_mk_keeps ?_
    | with_reducible refine pair_keeps (by assumption) ?_
    | intro _
    | beta_reduce

theorem State.dataPacket_keeps {st0 : Inv} [st0.Writes] {s : State} (h : Keeps st0 s) {n : Nat} {x : LdtConn} {p : LdtIn}  :
    Keeps st0 (State.dataPacket s n x p) := by
  unfold State.dataPacket
  repeat' first
    | with_reducible assumption
    | (extract_lets -underBinder -merge +onlyGivenNames x; refine keepCut (r := st0) (x := x) ?_ (fun hx => ?_); (on_goal 1 => (unfold x; clear x)); (on_goal 2 => clear_value x))
    | (extract_lets -underBinder -merge +onlyGivenNames x; clear_value x)
    | with_reducible apply State.lsts_keeps
    | with_reducible apply State.ldtAck_keeps
    | with_reducible apply State.raise_keeps
    | with_reducible apply State.ldtClose_keeps
    | with_reducible apply State.modLconn_keeps
    | with_reducible apply State.msgTake_keeps
    | with_reducible apply State.msgReports_keeps
    | split

theorem State.ackPacket_keeps {st0 : Inv} [st0.Writes] {s : State} (h : Keeps st0 s) {n : Nat} {x : LdtConn} {p : LdtIn}  :
    Keeps st0 (State.ackPacket s n x p) := by
  unfold State.ackPacket
  repeat' first
    | with_reducible assumption
    | with_reducible refine ite_keeps ?_ ?_
    | with_reducible apply State.modLconn_keeps
    | with_reducible apply State.modPath_keeps
    | with_reducible apply State.pathDown_keeps
    | with_reducible apply State.ldtAgain_keeps
    | with_reducible apply State.ldtGo_keeps
    | with_reducible refine foldl_keeps ?_ (fun _ _ _ => ?_)

theorem State.ldtReceive_keeps {st0 : Inv} {s : State} (h : Keeps st0 s) {plen : Nat} :
    Keeps st0 (State.ldtReceive s plen).2 := by
  unfold State.ldtReceive
  repeat' first
    | with_reducible assumption
    | (extract_lets -underBinder -merge +onlyGivenNames x; refine keepCut (r := st0) (x := x) ?_ (fun hx => ?_); (on_goal 1 => (unfold x; clear x)); (on_goal 2 => clear_value x))
    | (extract_lets -underBinder -merge +onlyGivenNames x; guard_hyp x : SecSt)
    | (extract_lets -underBinder -merge +onlyGivenNames x; clear_value x)
    | with_reducible apply State.segCharge_keeps
    | with_reducible apply State.bump_keeps
    | with_reducible apply State.free_keeps
    | split
    | (fail_if_no_progress (with_reducible apply Keeps.lit <;> try exact rfl))
    | with_reducible refine snd_ite_keeps ?_ ?_
    | with_reducible refine snd_mk_keeps ?_
    | with_reducible refine pair_keeps (by assumption) ?_
    | intro _
    | beta_reduce

theorem State.ldtPacket_keeps {st0 : Inv} [st0.Writes] {s : State} (h : Keeps st0 s) {n : Nat} {p : LdtIn} :
    Keeps st0 (State.ldtPacket s n p) := by
  unfold State.ldtPacket
  repeat' first
    | with_reducible assumption
    | (extract_lets -underBinder -merge +onlyGivenNames x; refine keepCut (r := st0) (x := x) ?_ (fun hx => ?_); (on_goal 1 => (unfold x; clear x)); (on_goal 2 => clear_value x))
    | (extract_lets -underBinder -merge +onlyGivenNames x; guard_hyp x : SecSt)
    | (extract_lets -underBinder -merge +onlyGivenNames x; clear_value x)
    | with_reducible refine ite_keeps ?_ ?_
    | with_reducible apply State.modLconn_keeps
    | with_reducible apply State.lsts_keeps
    | with_reducible apply State.ldtGen_keeps
    | with_reducible apply State.modPath_keeps
    | with_reducible apply State.ldtGo_keeps
    | with_reducible apply State.dataPacket_keeps
    | with_reducible apply State.ackPacket_keeps
    | with_reducible apply State.bump_keeps
    | with_reducible apply State.ldtReceive_keeps
    | split
    | (fail_if_no_progress (with_reducible apply Keeps.lit <;> try exact rfl))
    | with_reducible refine snd_ite_keeps ?_ ?_
    | with_reducible refine snd_mk_keeps ?_
    | with_reducible refine pair_keeps (by assumption) ?_
    | intro _
    | beta_reduce

theorem State.ldtIn_keeps {st0 : Inv} [st0.Writes] {s : State} (h : Keeps st0 s) {u : Nat} {p : LdtIn} :
    Keeps st0 (State.ldtIn s u p) := by
  unfold State.ldtIn
  repeat' first
    | with_reducible assumption
    | (extract_lets -underBinder -merge +onlyGivenNames x; refine keepCut (r := st0) (x := x) ?_ (fun hx => ?_); (on_goal 1 => (unfold x; clear x)); (on_goal 2 => clear_value x))
    | (extract_lets -underBinder -merge +onlyGivenNames x; guard_hyp x : SecSt)
    | (extract_lets -underBinder -merge +onlyGivenNames x; clear_value x)
    | with_reducible refine ite_keeps ?_ ?_
    | with_reducible apply State.modLconn_keeps
    | with_reducible apply State.ldtPacket_keeps
    | with_reducible apply State.bump_keeps
    | split
    | (fail_if_no_progress (with_reducible apply Keeps.lit <;> try exact rfl))
    | with_reducible refine snd_ite_keeps ?_ ?_
    | with_reducible refine snd_mk_keeps ?_
    | with_reducible refine pair_keeps (by assumption) ?_
    | intro _
    | beta_reduce

theorem execLdtSendRx_keeps {st0 : Inv} [st0.Writes] {s : State} (h : Keeps st0 s) {u : Nat} {hdr : LdtHdr} {data : Nat}  :
    ResKeeps st0 (execLdtSendRx u hdr data s) := by
  unfold execLdtSendRx
  try with_reducible refine ResKeeps.next ?_
  repeat' first
    | with_reducible assumption
    | with_reducible apply State.ldtIn_keeps

theorem execLdtWriteRx_keeps {st0 : Inv} [st0.Writes] {s : State} (h : Keeps st0 s) {u : Nat} {hdr : LdtHdr} {addr : Nat} {mkey : Nat} {data : Nat}  :
    ResKeeps st0 (execLdtWriteRx u hdr addr mkey data s) := by
  unfold execLdtWriteRx
  try with_reducible refine ResKeeps.next ?_
  repeat' first
    | with_reducible assumption
    | with_reducible apply State.ldtIn_keeps

theorem execLdtReadReqRx_keeps {st0 : Inv} [st0.Writes] {s : State} (h : Keeps st0 s) {u : Nat} {hdr : LdtHdr} {addr : Nat} {mkey : Nat}  :
    ResKeeps st0 (execLdtReadReqRx u hdr addr mkey s) := by
  unfold execLdtReadReqRx
  try with_reducible refine ResKeeps.next ?_
  repeat' first
    | with_reducible assumption
    | with_reducible apply State.ldtIn_keeps

theorem execLdtReadRespRx_keeps {st0 : Inv} [st0.Writes] {s : State} (h : Keeps st0 s) {u : Nat} {hdr : LdtHdr} {data : Nat}  :
    ResKeeps st0 (execLdtReadRespRx u hdr data s) := by
  unfold execLdtReadRespRx
  try with_reducible refine ResKeeps.next ?_
  repeat' first
    | with_reducible assumption
    | with_reducible apply State.ldtIn_keeps

theorem execLdtAckRx_keeps {st0 : Inv} [st0.Writes] {s : State} (h : Keeps st0 s) {u : Nat} {hdr : LdtHdr} {cum : Nat} {sack : List Nat} {ece : List Nat} {limit : Nat}  :
    ResKeeps st0 (execLdtAckRx u hdr cum sack ece limit s) := by
  unfold execLdtAckRx
  try with_reducible refine ResKeeps.next ?_
  repeat' first
    | with_reducible assumption
    | with_reducible apply State.ldtIn_keeps

theorem execLdtCloseRx_keeps {st0 : Inv} [st0.Writes] {s : State} (h : Keeps st0 s) {u : Nat} {hdr : LdtHdr}  :
    ResKeeps st0 (execLdtCloseRx u hdr s) := by
  unfold execLdtCloseRx
  try with_reducible refine ResKeeps.next ?_
  repeat' first
    | with_reducible assumption
    | with_reducible apply State.ldtIn_keeps

theorem execLdtMsgFailRx_keeps {st0 : Inv} [st0.Writes] {s : State} (h : Keeps st0 s) {u : Nat} {hdr : LdtHdr} {msn : Nat} {cond : Nat}  :
    ResKeeps st0 (execLdtMsgFailRx u hdr msn cond s) := by
  unfold execLdtMsgFailRx
  try with_reducible refine ResKeeps.next ?_
  repeat' first
    | with_reducible assumption
    | with_reducible apply State.ldtIn_keeps

theorem execLdtKeepaliveRx_keeps {st0 : Inv} [st0.Writes] {s : State} (h : Keeps st0 s) {u : Nat} {hdr : LdtHdr}  :
    ResKeeps st0 (execLdtKeepaliveRx u hdr s) := by
  unfold execLdtKeepaliveRx
  try with_reducible refine ResKeeps.next ?_
  repeat' first
    | with_reducible assumption
    | with_reducible apply State.ldtIn_keeps

theorem execLdtCtxFetchDone_keeps {st0 : Inv} [st0.Writes] {s : State} (h : Keeps st0 s) {n : Nat}  :
    ResKeeps st0 (execLdtCtxFetchDone n s) := by
  unfold execLdtCtxFetchDone
  try with_reducible refine ResKeeps.next ?_
  repeat' first
    | with_reducible assumption
    | (extract_lets -underBinder -merge +onlyGivenNames x; refine keepCut (r := st0) (x := x) ?_ (fun hx => ?_); (on_goal 1 => (unfold x; clear x)); (on_goal 2 => clear_value x))
    | (extract_lets -underBinder -merge +onlyGivenNames x; clear_value x)
    | with_reducible apply State.ctxRoom_keeps
    | with_reducible apply State.bump_keeps
    | with_reducible apply State.set_keeps
    | with_reducible apply State.modLconn_keeps
    | with_reducible apply State.ldtPacket_keeps
    | with_reducible refine foldl_keeps ?_ (fun _ _ _ => ?_)
    | split
    | with_reducible refine pair_keeps (by assumption) ?_

theorem State.connCmd_keeps {st0 : Inv} [st0.Writes] {s : State} (h : Keeps st0 s) {u : Nat} {n : Nat} {op : Nat}  :
    Keeps st0 (State.connCmd s u n op) := by
  unfold State.connCmd
  repeat' first
    | with_reducible assumption
    | with_reducible refine ite_keeps ?_ ?_
    | with_reducible apply State.raise_keeps
    | with_reducible apply State.ldtClose_keeps
    | with_reducible apply State.modLconn_keeps
    | with_reducible apply State.ldtGo_keeps
    | with_reducible apply State.setAll_keeps
    | with_reducible apply State.irq_keeps

theorem execLdtConnClose_keeps {st0 : Inv} [st0.Writes] {s : State} (h : Keeps st0 s) {m : Nat} {u : Nat} {n : Nat}  :
    ResKeeps st0 (execLdtConnClose m u n s) := by
  unfold execLdtConnClose
  try with_reducible refine ResKeeps.next ?_
  repeat' first
    | with_reducible assumption
    | with_reducible refine State.busWr_keeps ?_ (fun _ _ => ?_)
    | with_reducible apply State.connCmd_keeps

theorem execLdtConnRekey_keeps {st0 : Inv} [st0.Writes] {s : State} (h : Keeps st0 s) {m : Nat} {u : Nat} {n : Nat}  :
    ResKeeps st0 (execLdtConnRekey m u n s) := by
  unfold execLdtConnRekey
  try with_reducible refine ResKeeps.next ?_
  repeat' first
    | with_reducible assumption
    | with_reducible refine State.busWr_keeps ?_ (fun _ _ => ?_)
    | with_reducible apply State.connCmd_keeps

theorem execLdtRekeyDue_keeps {st0 : Inv} [st0.Writes] {s : State} (h : Keeps st0 s) {n : Nat}  :
    ResKeeps st0 (execLdtRekeyDue n s) := by
  unfold execLdtRekeyDue
  try with_reducible refine ResKeeps.next ?_
  repeat' first
    | with_reducible assumption
    | (extract_lets -underBinder -merge +onlyGivenNames x; clear_value x)
    | with_reducible apply State.ldtRekey_keeps
    | split

theorem execLdtKeepaliveSend_keeps {st0 : Inv} [st0.Writes] {s : State} (h : Keeps st0 s) {n : Nat}  :
    ResKeeps st0 (execLdtKeepaliveSend n s) := by
  unfold execLdtKeepaliveSend
  try with_reducible refine ResKeeps.next ?_
  repeat' first
    | with_reducible assumption
    | with_reducible apply State.ldtCtrl_keeps
    | split

theorem execLdtIdleTimeout_keeps {st0 : Inv} [st0.Writes] {s : State} (h : Keeps st0 s) {n : Nat}  :
    ResKeeps st0 (execLdtIdleTimeout n s) := by
  unfold execLdtIdleTimeout
  try with_reducible refine ResKeeps.next ?_
  repeat' first
    | with_reducible assumption
    | with_reducible apply State.raise_keeps
    | with_reducible apply State.ldtClose_keeps
    | split

theorem execLdtAckDelayExpire_keeps {st0 : Inv} {s : State} (h : Keeps st0 s) {n : Nat}  :
    ResKeeps st0 (execLdtAckDelayExpire n s) := by
  unfold execLdtAckDelayExpire
  try with_reducible refine ResKeeps.next ?_
  repeat' first
    | with_reducible assumption
    | with_reducible apply State.ldtAck_keeps
    | split

theorem State.pathOff_keeps {st0 : Inv} {s : State} (h : Keeps st0 s) {n : Nat} {k : Nat}  :
    Keeps st0 (State.pathOff s n k) := by
  unfold State.pathOff
  repeat' first
    | with_reducible assumption
    | (extract_lets -underBinder -merge +onlyGivenNames x; refine keepCut (r := st0) (x := x) ?_ (fun hx => ?_); (on_goal 1 => (unfold x; clear x)); (on_goal 2 => clear_value x))
    | (extract_lets -underBinder -merge +onlyGivenNames x; clear_value x)
    | with_reducible apply State.modPath_keeps
    | with_reducible apply State.bump_keeps
    | split

theorem execLdtRtoExpire_keeps {st0 : Inv} {s : State} (h : Keeps st0 s) {n : Nat} {psn : Nat}  :
    ResKeeps st0 (execLdtRtoExpire n psn s) := by
  unfold execLdtRtoExpire
  try with_reducible refine ResKeeps.next ?_
  repeat' first
    | with_reducible assumption
    | with_reducible apply State.bump_keeps
    | with_reducible apply State.pathDown_keeps
    | with_reducible apply State.modPath_keeps
    | with_reducible apply State.pathOff_keeps
    | with_reducible apply State.ldtAgain_keeps
    | split

theorem execLdtMsgTimeout_keeps {st0 : Inv} [st0.Writes] {s : State} (h : Keeps st0 s) {n : Nat} {ptype : Nat} {msn : Nat}  :
    ResKeeps st0 (execLdtMsgTimeout n ptype msn s) := by
  unfold execLdtMsgTimeout
  try with_reducible refine ResKeeps.next ?_
  repeat' first
    | with_reducible assumption
    | (extract_lets -underBinder -merge +onlyGivenNames x; refine keepCut (r := st0) (x := x) ?_ (fun hx => ?_); (on_goal 1 => (unfold x; clear x)); (on_goal 2 => clear_value x))
    | (extract_lets -underBinder -merge +onlyGivenNames x; clear_value x)
    | with_reducible apply State.raise_keeps
    | with_reducible apply State.ldtClose_keeps
    | with_reducible apply State.modLconn_keeps
    | with_reducible apply State.bump_keeps
    | with_reducible apply State.ldtAgain_keeps
    | with_reducible refine foldl_keeps ?_ (fun _ _ _ => ?_)
    | split

theorem execLdtRxMsgTimeout_keeps {st0 : Inv} [st0.Writes] {s : State} (h : Keeps st0 s) {n : Nat} {msn : Nat} {resp : Bool}  :
    ResKeeps st0 (execLdtRxMsgTimeout n msn resp s) := by
  unfold execLdtRxMsgTimeout
  try with_reducible refine ResKeeps.next ?_
  repeat' first
    | with_reducible assumption
    | with_reducible apply State.msgReports_keeps
    | with_reducible apply State.rxFail_keeps
    | split

theorem execLdtRateIncrease_keeps {st0 : Inv} {s : State} (h : Keeps st0 s) {n : Nat} {k : Nat}  :
    ResKeeps st0 (execLdtRateIncrease n k s) := by
  unfold execLdtRateIncrease
  try with_reducible refine ResKeeps.next ?_
  repeat' first
    | with_reducible assumption
    | (extract_lets -underBinder -merge +onlyGivenNames x; clear_value x)
    | with_reducible apply State.modPath_keeps
    | with_reducible apply State.bump_keeps
    | split

theorem execLdtPathReturn_keeps {st0 : Inv} [st0.Writes] {s : State} (h : Keeps st0 s) {n : Nat} {k : Nat}  :
    ResKeeps st0 (execLdtPathReturn n k s) := by
  unfold execLdtPathReturn
  try with_reducible refine ResKeeps.next ?_
  repeat' first
    | with_reducible assumption
    | with_reducible apply State.modPath_keeps
    | with_reducible apply State.ldtGo_keeps
    | split

end Sys2Proof.Machine
end

