-- ==== Sys2Proof/Laws/KeepsLbc.lean ====
section
/-! SUPPORT. The operations and commands of Machine/Lbc.lean keep what a state is asked (Laws/Keeps.lean). -/

set_option linter.all false

namespace Sys2Proof.Machine

theorem State.lbcTake_keeps {st0 : Inv} {s : State} (h : Keeps st0 s) {n : Nat} {opc : Nat} {f : State → LdtConn → Nat → State} (hf : ∀ t a1 a2, Keeps st0 t → Keeps st0 (f t a1 a2)) :
    Keeps st0 (State.lbcTake s n opc f) := by
  unfold State.lbcTake
  repeat' first
    | with_reducible assumption
    | (extract_lets -underBinder -merge +onlyGivenNames x; refine keepCut (r := st0) (x := x) ?_ (fun hx => ?_); (on_goal 1 => (unfold x; clear x)); (on_goal 2 => clear_value x))
    | (extract_lets -underBinder -merge +onlyGivenNames x; clear_value x)
    | with_reducible apply State.modLconn_keeps
    | with_reducible apply State.bump_keeps
    | with_reducible apply State.newReq_keeps
    | with_reducible apply State.finish_keeps
    | with_reducible apply hf
    | split

theorem State.lbcIn_keeps {o : Inv} {s : State} (h : Keeps o s) {r : Req} {valid named : Bool} {f : State → Nat → Req → State}
    (hf : ∀ t a b, Keeps o t → Keeps o (f t a b)) : Keeps o (State.lbcIn s r valid named f) := by
  unfold State.lbcIn
  dsimp only
  refine ite_keeps (State.finish_keeps (State.newReq_keeps h)) (ite_keeps (State.finish_keeps (State.newReq_keeps h)) ?_)
  split
  · rename_i e
    split at e
    · exact State.finish_keeps (State.takeNotice_keeps (State.newReq_keeps h) _ e)
    · cases e
  · exact hf _ _ _ (State.newReq_keeps h)

theorem State.lbcFlags_keeps {st0 : Inv} {s : State} (h : Keeps st0 s) {d : Nat}  :
    Keeps st0 (State.lbcFlags s d) := by
  unfold State.lbcFlags
  repeat' first
    | with_reducible assumption
    | with_reducible refine ite_keeps ?_ ?_
    | with_reducible apply State.bump_keeps

theorem execLbcRead_keeps {st0 : Inv} [st0.Writes] {s : State} (h : Keeps st0 s) {n : Nat} :
    ResKeeps st0 (execLbcRead n s) := by
  unfold execLbcRead
  try with_reducible refine ResKeeps.next ?_
  repeat' first
    | with_reducible assumption
    | (extract_lets -underBinder -merge +onlyGivenNames x; refine keepCut (r := st0) (x := x) ?_ (fun hx => ?_); (on_goal 1 => (unfold x; clear x)); (on_goal 2 => clear_value x))
    | (extract_lets -underBinder -merge +onlyGivenNames x; guard_hyp x : SecSt)
    | (extract_lets -underBinder -merge +onlyGivenNames x; clear_value x)
    | with_reducible refine ite_keeps ?_ ?_
    | with_reducible refine ResKeeps.next ?_
    | with_reducible apply State.finish_keeps
    | with_reducible apply State.compressed_keeps
    | with_reducible refine State.lbcTake_keeps ?_ (fun _ _ _ _ => ?_)
    | with_reducible refine State.lbcIn_keeps ?_ (fun _ _ _ _ => ?_)
    | with_reducible apply State.lbcFlags_keeps
    | with_reducible apply State.bump_keeps
    | with_reducible apply State.pfxRead_keeps
    | with_reducible apply State.modHost_keeps
    | split
    | (fail_if_no_progress (with_reducible apply Keeps.lit <;> try exact rfl))
    | with_reducible refine snd_ite_keeps ?_ ?_
    | with_reducible refine snd_mk_keeps ?_
    | with_reducible refine pair_keeps (by assumption) ?_
    | intro _
    | beta_reduce

theorem execLbcWrite_keeps {st0 : Inv} {s : State} (h : Keeps st0 s) {n : Nat} :
    ResKeeps st0 (execLbcWrite n s) := by
  unfold execLbcWrite
  try with_reducible refine ResKeeps.next ?_
  repeat' first
    | with_reducible assumption
    | (extract_lets -underBinder -merge +onlyGivenNames x; refine keepCut (r := st0) (x := x) ?_ (fun hx => ?_); (on_goal 1 => (unfold x; clear x)); (on_goal 2 => clear_value x))
    | (extract_lets -underBinder -merge +onlyGivenNames x; guard_hyp x : SecSt)
    | (extract_lets -underBinder -merge +onlyGivenNames x; clear_value x)
    | with_reducible refine ResKeeps.next ?_
    | with_reducible refine State.lbcTake_keeps ?_ (fun _ _ _ _ => ?_)
    | with_reducible refine State.lbcIn_keeps ?_ (fun _ _ _ _ => ?_)
    | with_reducible apply State.lbcFlags_keeps
    | with_reducible apply State.bump_keeps
    | with_reducible apply State.modHost_keeps
    | split
    | (fail_if_no_progress (with_reducible apply Keeps.lit <;> try exact rfl))
    | with_reducible refine snd_ite_keeps ?_ ?_
    | with_reducible refine snd_mk_keeps ?_
    | with_reducible refine pair_keeps (by assumption) ?_
    | intro _
    | beta_reduce

theorem execLbcWriteZeroes_keeps {st0 : Inv} {s : State} (h : Keeps st0 s) {n : Nat} :
    ResKeeps st0 (execLbcWriteZeroes n s) := by
  unfold execLbcWriteZeroes
  try with_reducible refine ResKeeps.next ?_
  repeat' first
    | with_reducible assumption
    | (extract_lets -underBinder -merge +onlyGivenNames x; refine keepCut (r := st0) (x := x) ?_ (fun hx => ?_); (on_goal 1 => (unfold x; clear x)); (on_goal 2 => clear_value x))
    | (extract_lets -underBinder -merge +onlyGivenNames x; guard_hyp x : SecSt)
    | (extract_lets -underBinder -merge +onlyGivenNames x; clear_value x)
    | with_reducible refine ResKeeps.next ?_
    | with_reducible refine State.lbcTake_keeps ?_ (fun _ _ _ _ => ?_)
    | with_reducible refine State.lbcIn_keeps ?_ (fun _ _ _ _ => ?_)
    | with_reducible apply State.lbcFlags_keeps
    | with_reducible apply State.bump_keeps
    | split
    | (fail_if_no_progress (with_reducible apply Keeps.lit <;> try exact rfl))
    | with_reducible refine snd_ite_keeps ?_ ?_
    | with_reducible refine snd_mk_keeps ?_
    | with_reducible refine pair_keeps (by assumption) ?_
    | intro _
    | beta_reduce

theorem execLbcDeallocate_keeps {st0 : Inv} [st0.Writes] {s : State} (h : Keeps st0 s) {n : Nat} :
    ResKeeps st0 (execLbcDeallocate n s) := by
  unfold execLbcDeallocate
  try with_reducible refine ResKeeps.next ?_
  repeat' first
    | with_reducible assumption
    | (extract_lets -underBinder -merge +onlyGivenNames x; refine keepCut (r := st0) (x := x) ?_ (fun hx => ?_); (on_goal 1 => (unfold x; clear x)); (on_goal 2 => clear_value x))
    | (extract_lets -underBinder -merge +onlyGivenNames x; guard_hyp x : SecSt)
    | (extract_lets -underBinder -merge +onlyGivenNames x; clear_value x)
    | with_reducible refine ite_keeps ?_ ?_
    | with_reducible refine ResKeeps.next ?_
    | with_reducible refine State.lbcTake_keeps ?_ (fun _ _ _ _ => ?_)
    | with_reducible refine State.lbcIn_keeps ?_ (fun _ _ _ _ => ?_)
    | with_reducible apply State.lbcFlags_keeps
    | with_reducible apply State.ldtRead_keeps
    | with_reducible apply State.bump_keeps
    | split
    | (fail_if_no_progress (with_reducible apply Keeps.lit <;> try exact rfl))
    | with_reducible refine snd_ite_keeps ?_ ?_
    | with_reducible refine snd_mk_keeps ?_
    | with_reducible refine pair_keeps (by assumption) ?_
    | intro _
    | beta_reduce

theorem execLbcFlush_keeps {r : Inv} {s : State} (h : Keeps r s) {n : Nat} : ResKeeps r (execLbcFlush n s) := by
  unfold execLbcFlush
  refine ResKeeps.next (State.lbcTake_keeps h (fun t _ x ht => ?_))
  dsimp only
  refine State.lbcIn_keeps (State.lbcFlags_keeps ht) (fun u _ _ hu => ?_)
  split
  · rename_i e
    split at e
    · obtain ⟨v, -, e⟩ := List.exists_of_findSome?_eq_some e
      exact State.finish_keeps (State.takeNotice_keeps hu _ e)
    · cases e
  · exact ite_keeps (State.finish_keeps hu) (State.modReq_keeps hu)

theorem State.lbcDone_keeps {st0 : Inv} {s : State} (h : Keeps st0 s) {t : Nat} {result : Nat} {placed : Nat}  :
    Keeps st0 (State.lbcDone s t result placed) := by
  unfold State.lbcDone
  repeat' first
    | with_reducible assumption
    | with_reducible apply State.modReq_keeps

theorem execLbcAbort_keeps {st0 : Inv} {s : State} (h : Keeps st0 s) {n : Nat}  :
    ResKeeps st0 (execLbcAbort n s) := by
  unfold execLbcAbort
  try with_reducible refine ResKeeps.next ?_
  repeat' first
    | with_reducible assumption
    | (extract_lets -underBinder -merge +onlyGivenNames x; clear_value x)
    | with_reducible refine State.lbcTake_keeps ?_ (fun _ _ _ _ => ?_)
    | with_reducible refine State.lbcIn_keeps ?_ (fun _ _ _ _ => ?_)
    | with_reducible apply State.finish_keeps
    | with_reducible apply State.bump_keeps
    | with_reducible apply State.lbcDone_keeps
    | with_reducible apply State.modReq_keeps
    | with_reducible apply State.wakeHeld_keeps
    | split

theorem execLbcGetHealth_keeps {st0 : Inv} {s : State} (h : Keeps st0 s) {n : Nat}  :
    ResKeeps st0 (execLbcGetHealth n s) := by
  unfold execLbcGetHealth
  try with_reducible refine ResKeeps.next ?_
  repeat' first
    | with_reducible assumption
    | with_reducible refine ite_keeps ?_ ?_
    | with_reducible refine State.lbcTake_keeps ?_ (fun _ _ _ _ => ?_)
    | with_reducible apply State.bump_keeps
    | with_reducible refine State.lbcIn_keeps ?_ (fun _ _ _ _ => ?_)
    | with_reducible apply State.finish_keeps
    | with_reducible apply State.lbcDone_keeps

theorem execLbcGetDeferred_keeps {st0 : Inv} [st0.Writes] {s : State} (h : Keeps st0 s) {n : Nat}  :
    ResKeeps st0 (execLbcGetDeferred n s) := by
  unfold execLbcGetDeferred
  try with_reducible refine ResKeeps.next ?_
  repeat' first
    | with_reducible assumption
    | with_reducible refine ite_keeps ?_ ?_
    | with_reducible refine State.lbcTake_keeps ?_ (fun _ _ _ _ => ?_)
    | with_reducible refine State.lbcIn_keeps ?_ (fun _ _ _ _ => ?_)
    | with_reducible apply State.finish_keeps
    | with_reducible apply State.ldtMsg_keeps
    | with_reducible apply State.lbcDone_keeps

theorem execLbcFetch_keeps {st0 : Inv} {s : State} (h : Keeps st0 s) {n : Nat}  :
    ResKeeps st0 (execLbcFetch n s) := by
  unfold execLbcFetch
  try with_reducible refine ResKeeps.next ?_
  repeat' first
    | with_reducible assumption
    | with_reducible refine ite_keeps ?_ ?_
    | with_reducible refine State.lbcTake_keeps ?_ (fun _ _ _ _ => ?_)
    | with_reducible apply State.newReq_keeps
    | with_reducible apply State.finish_keeps
    | with_reducible apply State.resolve_keeps

theorem State.repIn_keeps {st0 : Inv} {s : State} (h : Keeps st0 s) {n : Nat} {opc : Nat} {valid : Nat → Bool} {kind : ReqKind} {f : State → LdtConn → Nat → Nat → Req → Nat → RepLink → State} (hf : ∀ t a1 a2 a3 a4 a5 a6, Keeps st0 t → Keeps st0 (f t a1 a2 a3 a4 a5 a6)) :
    Keeps st0 (State.repIn s n opc valid kind f) := by
  unfold State.repIn
  repeat' first
    | with_reducible assumption
    | with_reducible refine ite_keeps ?_ ?_
    | with_reducible refine State.lbcTake_keeps ?_ (fun _ _ _ _ => ?_)
    | with_reducible apply State.newReq_keeps
    | with_reducible apply State.finish_keeps
    | with_reducible apply hf
    | split

theorem execLbcRepPoll_keeps {st0 : Inv} {s : State} (h : Keeps st0 s) {n : Nat}  :
    ResKeeps st0 (execLbcRepPoll n s) := by
  unfold execLbcRepPoll
  try with_reducible refine ResKeeps.next ?_
  repeat' first
    | with_reducible assumption
    | with_reducible refine ite_keeps ?_ ?_
    | with_reducible refine State.repIn_keeps ?_ (fun _ _ _ _ _ _ _ _ => ?_)
    | with_reducible apply State.raise_keeps
    | with_reducible apply State.finish_keeps
    | with_reducible apply State.bump_keeps
    | with_reducible apply State.lbcDone_keeps

theorem execLbcRepRecipe_keeps {st0 : Inv} [st0.Writes] {s : State} (h : Keeps st0 s) {n : Nat}  :
    ResKeeps st0 (execLbcRepRecipe n s) := by
  unfold execLbcRepRecipe
  try with_reducible refine ResKeeps.next ?_
  repeat' first
    | with_reducible assumption
    | with_reducible refine State.repIn_keeps ?_ (fun _ _ _ _ _ _ _ _ => ?_)
    | with_reducible apply State.finish_keeps
    | with_reducible apply State.ldtMsg_keeps
    | with_reducible apply State.bump_keeps
    | with_reducible apply State.lbcDone_keeps
    | split

theorem execLbcRepChunks_keeps {st0 : Inv} [st0.Writes] {s : State} (h : Keeps st0 s) {n : Nat}  :
    ResKeeps st0 (execLbcRepChunks n s) := by
  unfold execLbcRepChunks
  try with_reducible refine ResKeeps.next ?_
  repeat' first
    | with_reducible assumption
    | with_reducible refine ite_keeps ?_ ?_
    | with_reducible refine State.repIn_keeps ?_ (fun _ _ _ _ _ _ _ _ => ?_)
    | with_reducible apply State.finish_keeps
    | with_reducible apply State.modReq_keeps
    | with_reducible apply State.ldtRead_keeps

theorem execLbcRepDone_keeps {st0 : Inv} {s : State} (h : Keeps st0 s) {n : Nat}  :
    ResKeeps st0 (execLbcRepDone n s) := by
  unfold execLbcRepDone
  try with_reducible refine ResKeeps.next ?_
  repeat' first
    | with_reducible assumption
    | with_reducible refine ite_keeps ?_ ?_
    | with_reducible refine State.repIn_keeps ?_ (fun _ _ _ _ _ _ _ _ => ?_)
    | with_reducible apply State.finish_keeps
    | with_reducible apply State.modRep_keeps
    | with_reducible apply State.repTo_keeps
    | with_reducible apply State.wakeHeld_keeps
    | with_reducible apply State.bump_keeps
    | with_reducible apply State.lbcDone_keeps

theorem State.lbcComplete_keeps {st0 : Inv} [st0.Writes] {s : State} (h : Keeps st0 s) {n : Nat} {ctag : Nat} {r : Req} :
    Keeps st0 (State.lbcComplete s n ctag r) := by
  unfold State.lbcComplete
  repeat' first
    | with_reducible assumption
    | (extract_lets -underBinder -merge +onlyGivenNames x; refine keepCut (r := st0) (x := x) ?_ (fun hx => ?_); (on_goal 1 => (unfold x; clear x)); (on_goal 2 => clear_value x))
    | (extract_lets -underBinder -merge +onlyGivenNames x; guard_hyp x : SecSt)
    | (extract_lets -underBinder -merge +onlyGivenNames x; clear_value x)
    | with_reducible refine ite_keeps ?_ ?_
    | with_reducible apply State.modLconn_keeps
    | with_reducible apply State.ldtMsg_keeps
    | with_reducible apply State.bump_keeps
    | split
    | (fail_if_no_progress (with_reducible apply Keeps.lit <;> try exact rfl))
    | with_reducible refine snd_ite_keeps ?_ ?_
    | with_reducible refine snd_mk_keeps ?_
    | with_reducible refine pair_keeps (by assumption) ?_
    | intro _
    | beta_reduce

end Sys2Proof.Machine
end

