-- ==== Sys2Proof/Laws/KeepsReset.lean ====
section
/-! SUPPORT. The operations and commands of Machine/Reset.lean keep what a state is asked (Laws/Keeps.lean). -/

set_option linter.all false

namespace Sys2Proof.Machine

theorem State.modPwr_keeps {st0 : Inv} {s : State} (h : Keeps st0 s) {f : PwrSt → PwrSt} :
    Keeps st0 (State.modPwr s f) := by
  unfold State.modPwr
  repeat' first
    | with_reducible assumption
    | split
    | (fail_if_no_progress (with_reducible apply Keeps.lit <;> try exact rfl))
    | with_reducible refine snd_ite_keeps ?_ ?_
    | with_reducible refine snd_mk_keeps ?_
    | with_reducible refine pair_keeps (by assumption) ?_
    | intro _
    | beta_reduce

theorem State.clocksStart_keeps {st0 : Inv} {s : State} (h : Keeps st0 s) {ticks : Nat} {startUs : Nat} :
    Keeps st0 (State.clocksStart s ticks startUs) := by
  unfold State.clocksStart
  repeat' first
    | with_reducible assumption
    | (extract_lets -underBinder -merge +onlyGivenNames x; refine keepCut (r := st0) (x := x) ?_ (fun hx => ?_); (on_goal 1 => (unfold x; clear x)); (on_goal 2 => clear_value x))
    | (extract_lets -underBinder -merge +onlyGivenNames x; guard_hyp x : SecSt)
    | (extract_lets -underBinder -merge +onlyGivenNames x; clear_value x)
    | with_reducible apply State.modTime_keeps
    | with_reducible apply State.bump_keeps
    | with_reducible apply State.setAll_keeps
    | with_reducible apply State.modPwr_keeps
    | split
    | (fail_if_no_progress (with_reducible apply Keeps.lit <;> try exact rfl))
    | with_reducible refine snd_ite_keeps ?_ ?_
    | with_reducible refine snd_mk_keeps ?_
    | with_reducible refine pair_keeps (by assumption) ?_
    | intro _
    | beta_reduce

theorem State.sleepEnds_keeps {st0 : Inv} {s : State} (h : Keeps st0 s)  :
    Keeps st0 (State.sleepEnds s) := by
  unfold State.sleepEnds
  repeat' first
    | with_reducible assumption
    | (extract_lets -underBinder -merge +onlyGivenNames x; refine keepCut (r := st0) (x := x) ?_ (fun hx => ?_); (on_goal 1 => (unfold x; clear x)); (on_goal 2 => clear_value x))
    | (extract_lets -underBinder -merge +onlyGivenNames x; guard_hyp x : SecSt)
    | (extract_lets -underBinder -merge +onlyGivenNames x; clear_value x)
    | with_reducible refine ite_keeps ?_ ?_
    | with_reducible apply State.free_keeps
    | with_reducible apply State.clocksStart_keeps
    | split
    | (fail_if_no_progress (with_reducible apply Keeps.lit <;> try exact rfl))
    | with_reducible refine snd_ite_keeps ?_ ?_
    | with_reducible refine snd_mk_keeps ?_
    | with_reducible refine pair_keeps (by assumption) ?_
    | intro _
    | beta_reduce

theorem State.resetHead_keeps {r : Inv} [r.Clears] {s : State} (h : Keeps r s) : Keeps r s.resetHead := by
  unfold State.resetHead
  dsimp only
  have g := foldl_keeps (l := [0, 1]) (g := fun (s : State) sh => if s.leaseHeld sh then s.fence sh else s) (State.sleepEnds_keeps h)
    (fun t sh ht => ite_keeps (State.fence_keeps ht) ht)
  revert g
  generalize List.foldl (fun (s : State) sh => if s.leaseHeld sh then s.fence sh else s) s.sleepEnds [0, 1] = t
  intro g
  exact ⟨g.queue, Inv.Clears.nil, g.fuses⟩

theorem State.holdDomains_keeps {st0 : Inv} {s : State} (h : Keeps st0 s)   :
    Keeps st0 (State.holdDomains s) := by
  unfold State.holdDomains
  repeat' first
    | with_reducible assumption
    | with_reducible apply State.setAll_keeps
    | with_reducible refine foldl_keeps ?_ (fun _ _ _ => ?_)

theorem State.beginReset_keeps {st0 : Inv} [st0.Clears] {s : State} (h : Keeps st0 s) {cause : Nat}  :
    Keeps st0 (State.beginReset s cause) := by
  unfold State.beginReset
  repeat' first
    | with_reducible assumption
    | with_reducible apply State.resetHead_keeps
    | with_reducible apply State.holdDomains_keeps
    | with_reducible apply State.setAll_keeps
    | with_reducible apply State.bump_keeps

theorem State.selfReset_keeps {st0 : Inv} [st0.Clears] {s : State} (h : Keeps st0 s) {cause : Nat}  :
    Keeps st0 (State.selfReset s cause) := by
  unfold State.selfReset
  repeat' first
    | with_reducible assumption
    | with_reducible refine ite_keeps ?_ ?_
    | with_reducible apply State.beginReset_keeps
    | (fail_if_no_progress (with_reducible apply Keeps.lit <;> try exact rfl))

theorem State.fuseCheck_keeps {r : Inv} [r.Blows] {s : State} (h : Keeps r s) {fuse : Nat} : Keeps r (s.fuseCheck fuse) := by
  unfold State.fuseCheck
  split
  · have g := State.raise_keeps (slot := Slot.SEC) (cond := Cond.FUSE_CHECK_FAIL) (info := 0) (State.set_keeps (f := F.SEC_BOOT_STAT_CONDITION) (v := Cond.FUSE_CHECK_FAIL) h)
    exact g.same rfl rfl rfl
  · have g := State.msrExtend_keeps (k := 1) (d := (Config.fuseRows [s.sec.fuses.rootI.getD 0, s.sec.fuses.svnD, s.sec.fuses.svnI, b2n s.sec.fuses.debugDisable, b2n s.sec.fuses.debugRoot]).toNat) h
    exact ⟨g.queue, g.mem, Inv.Blows.corrected _ g.fuses⟩

theorem State.bootFrom_keeps {st0 : Inv} [st0.Blows] {s : State} (h : Keeps st0 s) {fuse : Nat}  :
    Keeps st0 (State.bootFrom s fuse) := by
  unfold State.bootFrom
  repeat' first
    | with_reducible assumption
    | with_reducible refine ite_keeps ?_ ?_
    | with_reducible apply State.setAll_keeps
    | with_reducible apply State.setMode_keeps
    | with_reducible apply State.fuseCheck_keeps
    | with_reducible refine foldl_keeps ?_ (fun _ _ _ => ?_)
    | (fail_if_no_progress (with_reducible apply Keeps.lit <;> try exact rfl))

theorem State.pulseActs_keeps {st0 : Inv} {s : State} (h : Keeps st0 s) {ns : Nat}  :
    Keeps st0 (State.pulseActs s ns).2 := by
  unfold State.pulseActs
  repeat' first
    | with_reducible assumption
    | with_reducible apply State.free_keeps
    | split

theorem State.powerReset_keeps {r : Inv} [r.Clears] {s : State} (h : Keeps r s) : Keeps r s.powerReset := by
  unfold State.powerReset
  have g := State.resetHead_keeps h
  revert g
  generalize s.resetHead = t
  intro g
  refine State.holdDomains_keeps (State.set_keeps ?_)
  exact ⟨g.queue, Inv.Clears.nil, g.fuses⟩

theorem execPorstNAssert_keeps {st0 : Inv} [st0.Clears] {s : State} (h : Keeps st0 s) {ns : Nat}  :
    ResKeeps st0 (execPorstNAssert ns s) := by
  unfold execPorstNAssert
  try with_reducible refine ResKeeps.next ?_
  repeat' first
    | with_reducible assumption
    | with_reducible refine ite_keeps ?_ ?_
    | with_reducible apply State.pulseActs_keeps
    | with_reducible apply State.powerReset_keeps
    | (fail_if_no_progress (with_reducible apply Keeps.lit <;> try exact rfl))

theorem State.evrRestart_keeps {st0 : Inv} {s : State} (h : Keeps st0 s)   :
    Keeps st0 (State.evrRestart s) := by
  unfold State.evrRestart
  repeat' first
    | with_reducible assumption
    | with_reducible refine ite_keeps ?_ ?_
    | with_reducible apply State.setAll_keeps
    | with_reducible apply State.raise_keeps
    | with_reducible apply State.bump_keeps
    | (fail_if_no_progress (with_reducible apply Keeps.lit <;> try exact rfl))

theorem execPorstNRelease_keeps {st0 : Inv} [st0.Blows] {s : State} (h : Keeps st0 s) {fuse : Nat}  :
    ResKeeps st0 (execPorstNRelease fuse s) := by
  unfold execPorstNRelease
  try with_reducible refine ResKeeps.next ?_
  repeat' first
    | with_reducible assumption
    | with_reducible refine ite_keeps ?_ ?_
    | with_reducible apply State.setAll_keeps
    | with_reducible apply State.bump_keeps
    | with_reducible apply State.evrRestart_keeps
    | with_reducible apply State.bootFrom_keeps
    | with_reducible apply State.set_keeps
    | (fail_if_no_progress (with_reducible apply Keeps.lit <;> try exact rfl))

theorem execSrstNAssert_keeps {st0 : Inv} [st0.Clears] {s : State} (h : Keeps st0 s) {ns : Nat}  :
    ResKeeps st0 (execSrstNAssert ns s) := by
  unfold execSrstNAssert
  try with_reducible refine ResKeeps.next ?_
  repeat' first
    | with_reducible assumption
    | with_reducible refine ite_keeps ?_ ?_
    | with_reducible apply State.pulseActs_keeps
    | with_reducible apply State.beginReset_keeps
    | (fail_if_no_progress (with_reducible apply Keeps.lit <;> try exact rfl))

theorem execSrstNRelease_keeps {st0 : Inv} [st0.Blows] {s : State} (h : Keeps st0 s) {fuse : Nat}  :
    ResKeeps st0 (execSrstNRelease fuse s) := by
  unfold execSrstNRelease
  try with_reducible refine ResKeeps.next ?_
  repeat' first
    | with_reducible assumption
    | with_reducible refine ite_keeps ?_ ?_
    | with_reducible apply State.bootFrom_keeps
    | (fail_if_no_progress (with_reducible apply Keeps.lit <;> try exact rfl))

theorem execInternalReset_keeps {st0 : Inv} [st0.Blows] {s : State} (h : Keeps st0 s) {fuse : Nat} :
    ResKeeps st0 (execInternalReset fuse s) := by
  unfold execInternalReset
  try with_reducible refine ResKeeps.next ?_
  repeat' first
    | with_reducible assumption
    | (extract_lets -underBinder -merge +onlyGivenNames x; refine keepCut (r := st0) (x := x) ?_ (fun hx => ?_); (on_goal 1 => (unfold x; clear x)); (on_goal 2 => clear_value x))
    | (extract_lets -underBinder -merge +onlyGivenNames x; guard_hyp x : SecSt)
    | (extract_lets -underBinder -merge +onlyGivenNames x; clear_value x)
    | with_reducible refine ite_keeps ?_ ?_
    | with_reducible refine ResKeeps.next ?_
    | with_reducible apply State.advance_keeps
    | with_reducible apply State.bootFrom_keeps
    | split
    | (fail_if_no_progress (with_reducible apply Keeps.lit <;> try exact rfl))
    | with_reducible refine snd_ite_keeps ?_ ?_
    | with_reducible refine snd_mk_keeps ?_
    | with_reducible refine pair_keeps (by assumption) ?_
    | intro _
    | beta_reduce

theorem execSupplyLoss_keeps {st0 : Inv} [st0.Clears] {s : State} (h : Keeps st0 s) {aonLost : Bool}  :
    ResKeeps st0 (execSupplyLoss aonLost s) := by
  unfold execSupplyLoss
  try with_reducible refine ResKeeps.next ?_
  repeat' first
    | with_reducible assumption
    | with_reducible apply State.powerReset_keeps
    | (fail_if_no_progress (with_reducible apply Keeps.lit <;> try exact rfl))

end Sys2Proof.Machine
end

