-- ==== Sys2Proof/Laws/KeepsPair.lean ====
section
/-! SUPPORT. The operations and commands of Machine/Pair.lean keep what a state is asked (Laws/Keeps.lean). -/

set_option linter.all false

namespace Sys2Proof.Machine

theorem State.pairShow_keeps {st0 : Inv} {s : State} (h : Keeps st0 s)  :
    Keeps st0 (State.pairShow s) := by
  unfold State.pairShow
  repeat' first
    | with_reducible assumption
    | (extract_lets -underBinder -merge +onlyGivenNames x; refine keepCut (r := st0) (x := x) ?_ (fun hx => ?_); (on_goal 1 => (unfold x; clear x)); (on_goal 2 => clear_value x))
    | (extract_lets -underBinder -merge +onlyGivenNames x; guard_hyp x : SecSt)
    | (extract_lets -underBinder -merge +onlyGivenNames x; clear_value x)
    | with_reducible refine ite_keeps ?_ ?_
    | with_reducible apply State.modPair_keeps
    | with_reducible apply State.set_keeps
    | with_reducible apply State.irq_keeps
    | split
    | (fail_if_no_progress (with_reducible apply Keeps.lit <;> try exact rfl))
    | with_reducible refine snd_ite_keeps ?_ ?_
    | with_reducible refine snd_mk_keeps ?_
    | with_reducible refine pair_keeps (by assumption) ?_
    | intro _
    | beta_reduce

theorem State.bundleTo_keeps {st0 : Inv} {s : State} (h : Keeps st0 s) {b : Nat} {st : Nat}  :
    Keeps st0 (State.bundleTo s b st) := by
  unfold State.bundleTo
  repeat' first
    | with_reducible assumption
    | with_reducible apply State.set_keeps
    | with_reducible apply State.modBundle_keeps
    | (fail_if_no_progress (with_reducible apply Keeps.lit <;> try exact rfl))
    | intro _
    | beta_reduce

theorem State.sendHello_keeps {st0 : Inv} {s : State} (h : Keeps st0 s)   :
    Keeps st0 (State.sendHello s) := by
  unfold State.sendHello
  repeat' first
    | with_reducible assumption
    | with_reducible apply State.sendPeer_keeps
    | beta_reduce

theorem State.requeue_keeps {st0 : Inv} {s : State} (h : Keeps st0 s) {b : Nat} :
    Keeps st0 (State.requeue s b) := by
  unfold State.requeue
  repeat' first
    | with_reducible assumption
    | (extract_lets -underBinder -merge +onlyGivenNames x; refine keepCut (r := st0) (x := x) ?_ (fun hx => ?_); (on_goal 1 => (unfold x; clear x)); (on_goal 2 => clear_value x))
    | (extract_lets -underBinder -merge +onlyGivenNames x; guard_hyp x : SecSt)
    | (extract_lets -underBinder -merge +onlyGivenNames x; clear_value x)
    | with_reducible apply State.modPair_keeps
    | with_reducible apply State.bump_keeps
    | with_reducible apply State.modBundle_keeps
    | split
    | (fail_if_no_progress (with_reducible apply Keeps.lit <;> try exact rfl))
    | with_reducible refine snd_ite_keeps ?_ ?_
    | with_reducible refine snd_mk_keeps ?_
    | with_reducible refine pair_keeps (by assumption) ?_
    | intro _
    | beta_reduce

theorem State.flightGone_keeps {st0 : Inv} {s : State} (h : Keeps st0 s) {b : Nat} :
    Keeps st0 (State.flightGone s b) := by
  unfold State.flightGone
  repeat' first
    | with_reducible assumption
    | (extract_lets -underBinder -merge +onlyGivenNames x; refine keepCut (r := st0) (x := x) ?_ (fun hx => ?_); (on_goal 1 => (unfold x; clear x)); (on_goal 2 => clear_value x))
    | (extract_lets -underBinder -merge +onlyGivenNames x; guard_hyp x : SecSt)
    | (extract_lets -underBinder -merge +onlyGivenNames x; clear_value x)
    | with_reducible apply State.modPair_keeps
    | with_reducible apply State.set_keeps
    | with_reducible refine foldl_keeps ?_ (fun _ _ _ => ?_)
    | split
    | (fail_if_no_progress (with_reducible apply Keeps.lit <;> try exact rfl))
    | with_reducible refine snd_ite_keeps ?_ ?_
    | with_reducible refine snd_mk_keeps ?_
    | with_reducible refine pair_keeps (by assumption) ?_
    | intro _
    | beta_reduce

theorem State.bundleLeave_keeps {st0 : Inv} {s : State} (h : Keeps st0 s) {b : Nat} {st : Nat}  :
    Keeps st0 (State.bundleLeave s b st) := by
  unfold State.bundleLeave
  repeat' first
    | with_reducible assumption
    | (extract_lets -underBinder -merge +onlyGivenNames x; refine keepCut (r := st0) (x := x) ?_ (fun hx => ?_); (on_goal 1 => (unfold x; clear x)); (on_goal 2 => clear_value x))
    | (extract_lets -underBinder -merge +onlyGivenNames x; guard_hyp x : SecSt)
    | (extract_lets -underBinder -merge +onlyGivenNames x; clear_value x)
    | with_reducible refine ite_keeps ?_ ?_
    | with_reducible apply State.bundleTo_keeps
    | with_reducible apply State.set_keeps
    | with_reducible apply State.requeue_keeps
    | with_reducible apply State.peerPump_keeps
    | with_reducible apply State.pairShow_keeps
    | split
    | with_reducible refine pair_keeps (by assumption) ?_
    | beta_reduce

theorem State.bundleDown_keeps {st0 : Inv} {s : State} (h : Keeps st0 s) {b : Nat} :
    Keeps st0 (State.bundleDown s b) := by
  unfold State.bundleDown
  repeat' first
    | with_reducible assumption
    | with_reducible apply State.modBundle_keeps
    | with_reducible apply State.flightGone_keeps
    | with_reducible apply State.bundleLeave_keeps
    | split
    | (fail_if_no_progress (with_reducible apply Keeps.lit <;> try exact rfl))
    | with_reducible refine snd_ite_keeps ?_ ?_
    | with_reducible refine snd_mk_keeps ?_
    | with_reducible refine pair_keeps (by assumption) ?_
    | intro _
    | beta_reduce

theorem State.bundleTimers_keeps {st0 : Inv} {s : State} (h : Keeps st0 s)   :
    Keeps st0 (State.bundleTimers s) := by
  unfold State.bundleTimers
  repeat' first
    | with_reducible assumption
    | (extract_lets -underBinder -merge +onlyGivenNames x; refine keepCut (r := st0) (x := x) ?_ (fun hx => ?_); (on_goal 1 => (unfold x; clear x)); (on_goal 2 => clear_value x))
    | (extract_lets -underBinder -merge +onlyGivenNames x; guard_hyp x : SecSt)
    | (extract_lets -underBinder -merge +onlyGivenNames x; clear_value x)
    | with_reducible refine ite_keeps ?_ ?_
    | with_reducible apply State.bundleDown_keeps
    | with_reducible apply State.bundleTo_keeps
    | with_reducible refine foldl_keeps ?_ (fun _ _ _ => ?_)
    | split
    | with_reducible refine pair_keeps (by assumption) ?_
    | intro _
    | beta_reduce

theorem execPeerLinkEnable_keeps {st0 : Inv} {s : State} (h : Keeps st0 s) {m : Nat} {en : Bool}  :
    ResKeeps st0 (execPeerLinkEnable m en s) := by
  unfold execPeerLinkEnable
  try with_reducible refine ResKeeps.next ?_
  repeat' first
    | with_reducible assumption
    | with_reducible refine State.busWr_keeps ?_ (fun _ _ => ?_)
    | with_reducible apply State.set_keeps
    | with_reducible apply State.bundleTimers_keeps
    | with_reducible apply State.pairShow_keeps
    | with_reducible refine ResKeeps.next ?_
    | intro _
    | beta_reduce

theorem execPeerBundleRetrain_keeps {st0 : Inv} {s : State} (h : Keeps st0 s) {m : Nat} {mask : Nat}  :
    ResKeeps st0 (execPeerBundleRetrain m mask s) := by
  unfold execPeerBundleRetrain
  try with_reducible refine ResKeeps.next ?_
  repeat' first
    | with_reducible assumption
    | with_reducible refine ite_keeps ?_ ?_
    | with_reducible refine State.busWr_keeps ?_ (fun _ _ => ?_)
    | with_reducible apply State.bundleDown_keeps
    | with_reducible apply State.bundleTo_keeps
    | with_reducible apply State.pairShow_keeps
    | with_reducible refine ResKeeps.next ?_
    | with_reducible refine foldl_keeps ?_ (fun _ _ _ => ?_)
    | split
    | with_reducible refine pair_keeps (by assumption) ?_
    | intro _
    | beta_reduce

theorem State.advertise_keeps {st0 : Inv} {s : State} (h : Keeps st0 s)  :
    Keeps st0 (State.advertise s) := by
  unfold State.advertise
  repeat' first
    | with_reducible assumption
    | with_reducible refine ite_keeps ?_ ?_
    | with_reducible apply State.modPair_keeps
    | with_reducible apply State.peerReturn_keeps
    | with_reducible refine foldl_keeps ?_ (fun _ _ _ => ?_)
    | split
    | (fail_if_no_progress (with_reducible apply Keeps.lit <;> try exact rfl))
    | with_reducible refine snd_ite_keeps ?_ ?_
    | with_reducible refine snd_mk_keeps ?_
    | with_reducible refine pair_keeps (by assumption) ?_
    | intro _
    | beta_reduce

theorem execPeerBundleActive_keeps {st0 : Inv} {s : State} (h : Keeps st0 s) {b : Nat} {skews : List Nat} :
    ResKeeps st0 (execPeerBundleActive b skews s) := by
  unfold execPeerBundleActive
  try with_reducible refine ResKeeps.next ?_
  repeat' first
    | with_reducible assumption
    | (extract_lets -underBinder -merge +onlyGivenNames x; refine keepCut (r := st0) (x := x) ?_ (fun hx => ?_); (on_goal 1 => (unfold x; clear x)); (on_goal 2 => clear_value x))
    | (extract_lets -underBinder -merge +onlyGivenNames x; guard_hyp x : SecSt)
    | (extract_lets -underBinder -merge +onlyGivenNames x; clear_value x)
    | with_reducible refine ite_keeps ?_ ?_
    | with_reducible refine ResKeeps.next ?_
    | with_reducible apply State.setAll_keeps
    | with_reducible apply State.modBundle_keeps
    | with_reducible apply State.peerPump_keeps
    | with_reducible apply State.pairShow_keeps
    | with_reducible apply State.bundleTo_keeps
    | with_reducible apply State.sendHello_keeps
    | with_reducible apply State.advertise_keeps
    | split
    | (fail_if_no_progress (with_reducible apply Keeps.lit <;> try exact rfl))
    | with_reducible refine snd_ite_keeps ?_ ?_
    | with_reducible refine snd_mk_keeps ?_
    | with_reducible refine pair_keeps (by assumption) ?_
    | intro _
    | beta_reduce

theorem execPeerBundleLeaveActive_keeps {st0 : Inv} {s : State} (h : Keeps st0 s) {b : Nat}  :
    ResKeeps st0 (execPeerBundleLeaveActive b s) := by
  unfold execPeerBundleLeaveActive
  try with_reducible refine ResKeeps.next ?_
  repeat' first
    | with_reducible assumption
    | with_reducible refine ite_keeps ?_ ?_
    | with_reducible apply State.bundleLeave_keeps
    | with_reducible refine ResKeeps.next ?_
    | split
    | with_reducible refine pair_keeps (by assumption) ?_
    | beta_reduce

theorem State.peerCredit_keeps {st0 : Inv} {s : State} (h : Keeps st0 s) {cls : Nat} {cnt : Nat}  :
    Keeps st0 (State.peerCredit s cls cnt) := by
  unfold State.peerCredit
  repeat' first
    | with_reducible assumption
    | (extract_lets -underBinder -merge +onlyGivenNames x; refine keepCut (r := st0) (x := x) ?_ (fun hx => ?_); (on_goal 1 => (unfold x; clear x)); (on_goal 2 => clear_value x))
    | (extract_lets -underBinder -merge +onlyGivenNames x; guard_hyp x : SecSt)
    | (extract_lets -underBinder -merge +onlyGivenNames x; clear_value x)
    | with_reducible refine ite_keeps ?_ ?_
    | with_reducible apply State.modPair_keeps
    | with_reducible apply State.setAll_keeps
    | with_reducible apply State.peerPump_keeps
    | split
    | (fail_if_no_progress (with_reducible apply Keeps.lit <;> try exact rfl))
    | with_reducible refine pair_keeps (by assumption) ?_
    | intro _
    | beta_reduce

theorem State.peerNak_keeps {st0 : Inv} {s : State} (h : Keeps st0 s) {b : Nat} :
    Keeps st0 (State.peerNak s b) := by
  unfold State.peerNak
  repeat' first
    | with_reducible assumption
    | with_reducible refine ite_keeps ?_ ?_
    | with_reducible apply State.satInc_keeps
    | with_reducible apply State.send_keeps
    | with_reducible apply State.modBundle_keeps
    | with_reducible apply State.putPeer_keeps
    | split
    | (fail_if_no_progress (with_reducible apply Keeps.lit <;> try exact rfl))
    | with_reducible refine snd_ite_keeps ?_ ?_
    | with_reducible refine snd_mk_keeps ?_
    | with_reducible refine pair_keeps (by assumption) ?_
    | intro _
    | beta_reduce

theorem State.peerAck_keeps {st0 : Inv} {s : State} (h : Keeps st0 s) {b : Nat} {ack : Nat} :
    Keeps st0 (State.peerAck s b ack) := by
  unfold State.peerAck
  repeat' first
    | with_reducible assumption
    | (extract_lets -underBinder -merge +onlyGivenNames x; refine keepCut (r := st0) (x := x) ?_ (fun hx => ?_); (on_goal 1 => (unfold x; clear x)); (on_goal 2 => clear_value x))
    | (extract_lets -underBinder -merge +onlyGivenNames x; guard_hyp x : SecSt)
    | (extract_lets -underBinder -merge +onlyGivenNames x; clear_value x)
    | with_reducible refine ite_keeps ?_ ?_
    | with_reducible apply State.modBundle_keeps
    | with_reducible apply State.peerPump_keeps
    | split
    | (fail_if_no_progress (with_reducible apply Keeps.lit <;> try exact rfl))
    | with_reducible refine snd_ite_keeps ?_ ?_
    | with_reducible refine snd_mk_keeps ?_
    | with_reducible refine pair_keeps (by assumption) ?_
    | intro _
    | beta_reduce

theorem State.peerResend_keeps {st0 : Inv} {s : State} (h : Keeps st0 s) {b : Nat} {seq : Nat} :
    Keeps st0 (State.peerResend s b seq) := by
  unfold State.peerResend
  repeat' first
    | with_reducible assumption
    | (extract_lets -underBinder -merge +onlyGivenNames x; refine keepCut (r := st0) (x := x) ?_ (fun hx => ?_); (on_goal 1 => (unfold x; clear x)); (on_goal 2 => clear_value x))
    | (extract_lets -underBinder -merge +onlyGivenNames x; guard_hyp x : SecSt)
    | (extract_lets -underBinder -merge +onlyGivenNames x; clear_value x)
    | with_reducible refine ite_keeps ?_ ?_
    | with_reducible apply State.send_keeps
    | with_reducible apply State.putPeer_keeps
    | with_reducible refine foldl_keeps ?_ (fun _ _ _ => ?_)
    | split
    | (fail_if_no_progress (with_reducible apply Keeps.lit <;> try exact rfl))
    | with_reducible refine snd_ite_keeps ?_ ?_
    | with_reducible refine snd_mk_keeps ?_
    | with_reducible refine pair_keeps (by assumption) ?_
    | intro _
    | beta_reduce

theorem State.peerWhole_keeps {st0 : Inv} {s : State} (h : Keeps st0 s) {h : PeerHdr} :
    Keeps st0 (State.peerWhole s h) := by
  unfold State.peerWhole
  repeat' first
    | with_reducible assumption
    | (extract_lets -underBinder -merge +onlyGivenNames x; refine keepCut (r := st0) (x := x) ?_ (fun hx => ?_); (on_goal 1 => (unfold x; clear x)); (on_goal 2 => clear_value x))
    | (extract_lets -underBinder -merge +onlyGivenNames x; guard_hyp x : SecSt)
    | (extract_lets -underBinder -merge +onlyGivenNames x; clear_value x)
    | with_reducible refine ite_keeps ?_ ?_
    | with_reducible apply State.modPair_keeps
    | with_reducible apply State.bump_keeps
    | with_reducible apply State.peerReturn_keeps
    | with_reducible apply State.raise_keeps
    | with_reducible refine foldl_keeps ?_ (fun _ _ _ => ?_)
    | split
    | (fail_if_no_progress (with_reducible apply Keeps.lit <;> try exact rfl))
    | with_reducible refine snd_ite_keeps ?_ ?_
    | with_reducible refine snd_mk_keeps ?_
    | with_reducible refine pair_keeps (by assumption) ?_
    | intro _
    | beta_reduce

theorem State.peerCredits_keeps {st0 : Inv} {s : State} (h : Keeps st0 s) {bytes : List Nat} :
    Keeps st0 (State.peerCredits s bytes) := by
  unfold State.peerCredits
  repeat' first
    | with_reducible assumption
    | (extract_lets -underBinder -merge +onlyGivenNames x; refine keepCut (r := st0) (x := x) ?_ (fun hx => ?_); (on_goal 1 => (unfold x; clear x)); (on_goal 2 => clear_value x))
    | (extract_lets -underBinder -merge +onlyGivenNames x; guard_hyp x : SecSt)
    | (extract_lets -underBinder -merge +onlyGivenNames x; clear_value x)
    | with_reducible apply State.drop_keeps
    | with_reducible apply State.peerCredit_keeps
    | split
    | (fail_if_no_progress (with_reducible apply Keeps.lit <;> try exact rfl))
    | with_reducible refine snd_ite_keeps ?_ ?_
    | with_reducible refine snd_mk_keeps ?_
    | with_reducible refine pair_keeps (by assumption) ?_
    | intro _
    | beta_reduce

theorem State.peerFlitRx_keeps {st0 : Inv} {s : State} (h : Keeps st0 s) {b : Nat} {f : FlitIn} {bytes : List Nat} :
    Keeps st0 (State.peerFlitRx s b f bytes) := by
  unfold State.peerFlitRx
  repeat' first
    | with_reducible assumption
    | (extract_lets -underBinder -merge +onlyGivenNames x; refine keepCut (r := st0) (x := x) ?_ (fun hx => ?_); (on_goal 1 => (unfold x; clear x)); (on_goal 2 => clear_value x))
    | (extract_lets -underBinder -merge +onlyGivenNames x; guard_hyp x : SecSt)
    | (extract_lets -underBinder -merge +onlyGivenNames x; clear_value x)
    | with_reducible refine ite_keeps ?_ ?_
    | with_reducible apply State.satInc_keeps
    | with_reducible apply State.modBundle_keeps
    | with_reducible apply State.bundleLeave_keeps
    | with_reducible apply State.peerNak_keeps
    | with_reducible apply State.peerAck_keeps
    | with_reducible apply State.peerResend_keeps
    | with_reducible apply State.peerWhole_keeps
    | with_reducible apply State.peerCredits_keeps
    | with_reducible refine foldl_keeps ?_ (fun _ _ _ => ?_)
    | split
    | (fail_if_no_progress (with_reducible apply Keeps.lit <;> try exact rfl))
    | with_reducible refine snd_ite_keeps ?_ ?_
    | with_reducible refine snd_mk_keeps ?_
    | with_reducible refine pair_keeps (by assumption) ?_
    | intro _
    | beta_reduce

theorem State.peerFlit_keeps {st0 : Inv} {s : State} (h : Keeps st0 s) {b : Nat} {flit : Nat} :
    Keeps st0 (State.peerFlit s b flit) := by
  unfold State.peerFlit
  repeat' first
    | with_reducible assumption
    | (extract_lets -underBinder -merge +onlyGivenNames x; refine keepCut (r := st0) (x := x) ?_ (fun hx => ?_); (on_goal 1 => (unfold x; clear x)); (on_goal 2 => clear_value x))
    | (extract_lets -underBinder -merge +onlyGivenNames x; guard_hyp x : SecSt)
    | (extract_lets -underBinder -merge +onlyGivenNames x; clear_value x)
    | with_reducible apply State.modBundle_keeps
    | with_reducible apply State.peerFlitRx_keeps
    | split
    | (fail_if_no_progress (with_reducible apply Keeps.lit <;> try exact rfl))
    | with_reducible refine snd_ite_keeps ?_ ?_
    | with_reducible refine snd_mk_keeps ?_
    | with_reducible refine pair_keeps (by assumption) ?_
    | intro _
    | beta_reduce

theorem execPeerFlitRx_keeps {st0 : Inv} {s : State} (h : Keeps st0 s) {b : Nat} {flit : Nat} :
    ResKeeps st0 (execPeerFlitRx b flit s) := by
  unfold execPeerFlitRx
  try with_reducible refine ResKeeps.next ?_
  repeat' first
    | with_reducible assumption
    | with_reducible refine ite_keeps ?_ ?_
    | with_reducible refine ResKeeps.next ?_
    | with_reducible apply State.peerFlit_keeps
    | split
    | (fail_if_no_progress (with_reducible apply Keeps.lit <;> try exact rfl))
    | with_reducible refine snd_ite_keeps ?_ ?_
    | with_reducible refine snd_mk_keeps ?_
    | with_reducible refine pair_keeps (by assumption) ?_
    | intro _
    | beta_reduce

theorem execPeerReplayTimer_keeps {st0 : Inv} {s : State} (h : Keeps st0 s) {b : Nat} :
    ResKeeps st0 (execPeerReplayTimer b s) := by
  unfold execPeerReplayTimer
  try with_reducible refine ResKeeps.next ?_
  repeat' first
    | with_reducible assumption
    | (extract_lets -underBinder -merge +onlyGivenNames x; refine keepCut (r := st0) (x := x) ?_ (fun hx => ?_); (on_goal 1 => (unfold x; clear x)); (on_goal 2 => clear_value x))
    | (extract_lets -underBinder -merge +onlyGivenNames x; guard_hyp x : SecSt)
    | (extract_lets -underBinder -merge +onlyGivenNames x; clear_value x)
    | with_reducible refine ite_keeps ?_ ?_
    | with_reducible refine ResKeeps.next ?_
    | with_reducible apply State.satInc_keeps
    | with_reducible apply State.modBundle_keeps
    | with_reducible apply State.bundleLeave_keeps
    | with_reducible apply State.peerResend_keeps
    | split
    | (fail_if_no_progress (with_reducible apply Keeps.lit <;> try exact rfl))
    | with_reducible refine snd_ite_keeps ?_ ?_
    | with_reducible refine snd_mk_keeps ?_
    | with_reducible refine pair_keeps (by assumption) ?_
    | intro _
    | beta_reduce

theorem State.ringHold_keeps {st0 : Inv} {s : State} (h : Keeps st0 s)   :
    Keeps st0 (State.ringHold s) := by
  unfold State.ringHold
  repeat' first
    | with_reducible assumption
    | with_reducible refine ite_keeps ?_ ?_
    | with_reducible apply State.poolTake_keeps
    | with_reducible apply State.modPair_keeps
    | with_reducible apply State.set_keeps
    | split
    | (fail_if_no_progress (with_reducible apply Keeps.lit <;> try exact rfl))
    | with_reducible refine pair_keeps (by assumption) ?_
    | intro _
    | beta_reduce

theorem State.ringFree_keeps {st0 : Inv} {s : State} (h : Keeps st0 s)   :
    Keeps st0 (State.ringFree s) := by
  unfold State.ringFree
  repeat' first
    | with_reducible assumption
    | (extract_lets -underBinder -merge +onlyGivenNames x; refine keepCut (r := st0) (x := x) ?_ (fun hx => ?_); (on_goal 1 => (unfold x; clear x)); (on_goal 2 => clear_value x))
    | (extract_lets -underBinder -merge +onlyGivenNames x; guard_hyp x : SecSt)
    | (extract_lets -underBinder -merge +onlyGivenNames x; clear_value x)
    | with_reducible refine ite_keeps ?_ ?_
    | with_reducible apply State.poolGive_keeps
    | with_reducible apply State.modPair_keeps
    | with_reducible apply State.set_keeps
    | split
    | (fail_if_no_progress (with_reducible apply Keeps.lit <;> try exact rfl))
    | with_reducible refine pair_keeps (by assumption) ?_
    | intro _
    | beta_reduce

theorem State.modLease_keeps {st0 : Inv} {s : State} (h : Keeps st0 s) {sh : Nat} {f : Lease → Lease}  :
    Keeps st0 (State.modLease s sh f) := by
  unfold State.modLease
  repeat' first
    | with_reducible assumption
    | with_reducible apply State.modPair_keeps
    | (fail_if_no_progress (with_reducible apply Keeps.lit <;> try exact rfl))
    | intro _
    | beta_reduce

theorem State.witMac_keeps {st0 : Inv} {s : State} (h : Keeps st0 s) {l : List Nat} :
    Keeps st0 (State.witMac s l).2 := by
  unfold State.witMac
  repeat' first
    | with_reducible assumption
    | (extract_lets -underBinder -merge +onlyGivenNames x; refine keepCut (r := st0) (x := x) ?_ (fun hx => ?_); (on_goal 1 => (unfold x; clear x)); (on_goal 2 => clear_value x))
    | (extract_lets -underBinder -merge +onlyGivenNames x; guard_hyp x : SecSt)
    | (extract_lets -underBinder -merge +onlyGivenNames x; clear_value x)
    | with_reducible apply State.slotFor_keeps
    | with_reducible apply State.free_keeps
    | split
    | (fail_if_no_progress (with_reducible apply Keeps.lit <;> try exact rfl))
    | with_reducible refine snd_ite_keeps ?_ ?_
    | with_reducible refine snd_mk_keeps ?_
    | with_reducible refine pair_keeps (by assumption) ?_
    | intro _
    | beta_reduce

theorem State.witSend_keeps {st0 : Inv} [st0.Writes] {s : State} (h : Keeps st0 s) {typ : Nat} {reqId : Nat} {body : List Nat}  :
    Keeps st0 (State.witSend s typ reqId body) := by
  unfold State.witSend
  repeat' first
    | with_reducible assumption
    | (extract_lets -underBinder -merge +onlyGivenNames x; refine keepCut (r := st0) (x := x) ?_ (fun hx => ?_); (on_goal 1 => (unfold x; clear x)); (on_goal 2 => clear_value x))
    | (extract_lets -underBinder -merge +onlyGivenNames x; guard_hyp x : SecSt)
    | (extract_lets -underBinder -merge +onlyGivenNames x; clear_value x)
    | with_reducible refine ite_keeps ?_ ?_
    | with_reducible apply State.witMac_keeps
    | with_reducible apply State.bump_keeps
    | with_reducible apply State.send_keeps
    | with_reducible apply State.putBytes_keeps
    | with_reducible apply State.set_keeps
    | with_reducible apply State.irq_keeps
    | split
    | with_reducible refine pair_keeps (by assumption) ?_
    | beta_reduce

theorem State.nextReqId_keeps {st0 : Inv} {s : State} (h : Keeps st0 s)   :
    Keeps st0 (State.nextReqId s).2 := by
  unfold State.nextReqId
  repeat' first
    | with_reducible assumption
    | (extract_lets -underBinder -merge +onlyGivenNames x; refine keepCut (r := st0) (x := x) ?_ (fun hx => ?_); (on_goal 1 => (unfold x; clear x)); (on_goal 2 => clear_value x))
    | (extract_lets -underBinder -merge +onlyGivenNames x; guard_hyp x : SecSt)
    | (extract_lets -underBinder -merge +onlyGivenNames x; clear_value x)
    | with_reducible apply State.modPair_keeps
    | (fail_if_no_progress (with_reducible apply Keeps.lit <;> try exact rfl))
    | intro _
    | beta_reduce

theorem State.witAsk_keeps {st0 : Inv} [st0.Writes] {s : State} (h : Keeps st0 s) {typ : Nat} {sh : Nat} {purpose : Nat}  :
    Keeps st0 (State.witAsk s typ sh purpose) := by
  unfold State.witAsk
  repeat' first
    | with_reducible assumption
    | (extract_lets -underBinder -merge +onlyGivenNames x; refine keepCut (r := st0) (x := x) ?_ (fun hx => ?_); (on_goal 1 => (unfold x; clear x)); (on_goal 2 => clear_value x))
    | (extract_lets -underBinder -merge +onlyGivenNames x; guard_hyp x : SecSt)
    | (extract_lets -underBinder -merge +onlyGivenNames x; clear_value x)
    | with_reducible apply State.nextReqId_keeps
    | with_reducible apply State.modLease_keeps
    | with_reducible apply State.witSend_keeps
    | split
    | (fail_if_no_progress (with_reducible apply Keeps.lit <;> try exact rfl))
    | with_reducible refine pair_keeps (by assumption) ?_
    | intro _
    | beta_reduce

theorem State.release_keeps {st0 : Inv} [st0.Writes] {s : State} (h : Keeps st0 s) {sh : Nat}  :
    Keeps st0 (State.release s sh) := by
  unfold State.release
  repeat' first
    | with_reducible assumption
    | with_reducible refine ite_keeps ?_ ?_
    | with_reducible apply State.fence_keeps
    | with_reducible apply State.setLease_keeps
    | with_reducible apply State.witAsk_keeps
    | with_reducible apply State.modLease_keeps
    | split
    | (fail_if_no_progress (with_reducible apply Keeps.lit <;> try exact rfl))
    | with_reducible refine pair_keeps (by assumption) ?_
    | intro _
    | beta_reduce

theorem State.releaseAll_keeps {st0 : Inv} [st0.Writes] {s : State} (h : Keeps st0 s)   :
    Keeps st0 (State.releaseAll s) := by
  unfold State.releaseAll
  repeat' first
    | with_reducible assumption
    | with_reducible apply State.release_keeps
    | beta_reduce

theorem State.sendMode_keeps {st0 : Inv} {s : State} (h : Keeps st0 s)   :
    Keeps st0 (State.sendMode s) := by
  unfold State.sendMode
  repeat' first
    | with_reducible assumption
    | with_reducible apply State.sendPeer_keeps
    | with_reducible apply State.modPair_keeps
    | (fail_if_no_progress (with_reducible apply Keeps.lit <;> try exact rfl))
    | intro _
    | beta_reduce

theorem execPeerModeSend_keeps {st0 : Inv} {s : State} (h : Keeps st0 s)   :
    ResKeeps st0 (execPeerModeSend s) := by
  unfold execPeerModeSend
  try with_reducible refine ResKeeps.next ?_
  repeat' first
    | with_reducible assumption
    | with_reducible refine ite_keeps ?_ ?_
    | with_reducible apply State.sendMode_keeps
    | with_reducible refine ResKeeps.next ?_
    | split
    | with_reducible refine pair_keeps (by assumption) ?_
    | beta_reduce

theorem State.tkoTo_keeps {st0 : Inv} {s : State} (h : Keeps st0 s) {ph : Nat}  :
    Keeps st0 (State.tkoTo s ph) := by
  unfold State.tkoTo
  repeat' first
    | with_reducible assumption
    | with_reducible refine ite_keeps ?_ ?_
    | with_reducible apply State.set_keeps
    | with_reducible apply State.irq_keeps
    | split
    | with_reducible refine pair_keeps (by assumption) ?_
    | beta_reduce

theorem State.tkoAsk_keeps {st0 : Inv} [st0.Writes] {s : State} (h : Keeps st0 s)   :
    Keeps st0 (State.tkoAsk s) := by
  unfold State.tkoAsk
  repeat' first
    | with_reducible assumption
    | (extract_lets -underBinder -merge +onlyGivenNames x; refine keepCut (r := st0) (x := x) ?_ (fun hx => ?_); (on_goal 1 => (unfold x; clear x)); (on_goal 2 => clear_value x))
    | (extract_lets -underBinder -merge +onlyGivenNames x; guard_hyp x : SecSt)
    | (extract_lets -underBinder -merge +onlyGivenNames x; clear_value x)
    | with_reducible apply State.tkoTo_keeps
    | with_reducible apply State.modPair_keeps
    | with_reducible apply State.setLease_keeps
    | with_reducible apply State.witAsk_keeps
    | (fail_if_no_progress (with_reducible apply Keeps.lit <;> try exact rfl))
    | intro _
    | beta_reduce

theorem State.tkoReplay_keeps {st0 : Inv} {s : State} (h : Keeps st0 s)   :
    Keeps st0 (State.tkoReplay s) := by
  unfold State.tkoReplay
  repeat' first
    | with_reducible assumption
    | (extract_lets -underBinder -merge +onlyGivenNames x; refine keepCut (r := st0) (x := x) ?_ (fun hx => ?_); (on_goal 1 => (unfold x; clear x)); (on_goal 2 => clear_value x))
    | (extract_lets -underBinder -merge +onlyGivenNames x; guard_hyp x : SecSt)
    | (extract_lets -underBinder -merge +onlyGivenNames x; clear_value x)
    | with_reducible refine ite_keeps ?_ ?_
    | with_reducible apply State.enterRec_keeps
    | with_reducible apply State.modWrite_keeps
    | with_reducible apply State.set_keeps
    | with_reducible refine foldl_keeps ?_ (fun _ _ _ => ?_)
    | split
    | (fail_if_no_progress (with_reducible apply Keeps.lit <;> try exact rfl))
    | with_reducible refine pair_keeps (by assumption) ?_
    | intro _
    | beta_reduce

theorem State.tkoSolo_keeps {st0 : Inv} {s : State} (h : Keeps st0 s)  :
    Keeps st0 (State.tkoSolo s) := by
  unfold State.tkoSolo
  repeat' first
    | with_reducible assumption
    | (extract_lets -underBinder -merge +onlyGivenNames x; refine keepCut (r := st0) (x := x) ?_ (fun hx => ?_); (on_goal 1 => (unfold x; clear x)); (on_goal 2 => clear_value x))
    | (extract_lets -underBinder -merge +onlyGivenNames x; guard_hyp x : SecSt)
    | (extract_lets -underBinder -merge +onlyGivenNames x; clear_value x)
    | with_reducible refine ite_keeps ?_ ?_
    | with_reducible apply State.modVat_keeps
    | with_reducible apply State.modPair_keeps
    | with_reducible apply State.bump_keeps
    | with_reducible apply State.setAll_keeps
    | with_reducible apply State.sample_keeps
    | with_reducible apply State.setMode_keeps
    | with_reducible apply State.raise_keeps
    | with_reducible apply State.ringHold_keeps
    | with_reducible apply State.tkoTo_keeps
    | with_reducible apply State.enterAll_keeps
    | with_reducible apply State.zeroScan_keeps
    | split
    | (fail_if_no_progress (with_reducible apply Keeps.lit <;> try exact rfl))
    | with_reducible refine snd_ite_keeps ?_ ?_
    | with_reducible refine snd_mk_keeps ?_
    | with_reducible refine pair_keeps (by assumption) ?_
    | intro _
    | beta_reduce

theorem State.tkoOn_keeps {st0 : Inv} [st0.Writes] {s : State} (h : Keeps st0 s)  :
    Keeps st0 (State.tkoOn s) := by
  unfold State.tkoOn
  repeat' first
    | with_reducible assumption
    | (extract_lets -underBinder -merge +onlyGivenNames x; refine keepCut (r := st0) (x := x) ?_ (fun hx => ?_); (on_goal 1 => (unfold x; clear x)); (on_goal 2 => clear_value x))
    | (extract_lets -underBinder -merge +onlyGivenNames x; guard_hyp x : SecSt)
    | (extract_lets -underBinder -merge +onlyGivenNames x; clear_value x)
    | with_reducible refine ite_keeps ?_ ?_
    | with_reducible apply State.applied_keeps
    | with_reducible apply State.ringFree_keeps
    | with_reducible apply State.tkoTo_keeps
    | with_reducible apply State.tkoReplay_keeps
    | with_reducible apply State.tkoSolo_keeps
    | with_reducible apply State.resolveWaiting_keeps
    | split
    | (fail_if_no_progress (with_reducible apply Keeps.lit <;> try exact rfl))
    | with_reducible refine snd_ite_keeps ?_ ?_
    | with_reducible refine snd_mk_keeps ?_
    | with_reducible refine pair_keeps (by assumption) ?_
    | intro _
    | beta_reduce

theorem State.bootOn_keeps {st0 : Inv} {s : State} (h : Keeps st0 s)   :
    Keeps st0 (State.bootOn s) := by
  unfold State.bootOn
  repeat' first
    | with_reducible assumption
    | (extract_lets -underBinder -merge +onlyGivenNames x; refine keepCut (r := st0) (x := x) ?_ (fun hx => ?_); (on_goal 1 => (unfold x; clear x)); (on_goal 2 => clear_value x))
    | (extract_lets -underBinder -merge +onlyGivenNames x; guard_hyp x : SecSt)
    | (extract_lets -underBinder -merge +onlyGivenNames x; clear_value x)
    | with_reducible refine ite_keeps ?_ ?_
    | with_reducible apply State.ringHold_keeps
    | with_reducible apply State.setMode_keeps
    | with_reducible apply State.sendMode_keeps
    | split
    | with_reducible refine pair_keeps (by assumption) ?_
    | beta_reduce

theorem State.pairOn_keeps {st0 : Inv} [st0.Writes] {s : State} (h : Keeps st0 s)   :
    Keeps st0 (State.pairOn s) := by
  unfold State.pairOn
  repeat' first
    | with_reducible assumption
    | with_reducible apply State.bundleTimers_keeps
    | with_reducible apply State.tkoOn_keeps
    | with_reducible apply State.bootOn_keeps
    | with_reducible apply State.pairShow_keeps
    | beta_reduce

theorem State.pageTurn_keeps {st0 : Inv} {s : State} (h : Keeps st0 s) {ctb : Bool} {key : Nat} :
    Keeps st0 (State.pageTurn s ctb key) := by
  unfold State.pageTurn
  exact ite_keeps (State.modMeta_keeps h) (State.metaRead_keeps h)

theorem State.peerLost_keeps {st0 : Inv} [st0.Writes] {s : State} (h : Keeps st0 s)  :
    Keeps st0 (State.peerLost s) := by
  unfold State.peerLost
  repeat' first
    | with_reducible assumption
    | (extract_lets -underBinder -merge +onlyGivenNames x; refine keepCut (r := st0) (x := x) ?_ (fun hx => ?_); (on_goal 1 => (unfold x; clear x)); (on_goal 2 => clear_value x))
    | (extract_lets -underBinder -merge +onlyGivenNames x; guard_hyp x : SecSt)
    | (extract_lets -underBinder -merge +onlyGivenNames x; clear_value x)
    | with_reducible refine ite_keeps ?_ ?_
    | with_reducible refine left_keeps ?_ ?_
    | with_reducible apply State.newChunk_keeps
    | with_reducible apply State.mbxFlush_keeps
    | with_reducible apply State.masterReset_keeps
    | with_reducible apply State.modPair_keeps
    | with_reducible apply State.set_keeps
    | with_reducible apply State.bump_keeps
    | with_reducible apply State.setAll_keeps
    | with_reducible apply State.raise_keeps
    | with_reducible apply State.pairShow_keeps
    | with_reducible apply State.tkoTo_keeps
    | with_reducible apply State.tkoAsk_keeps
    | with_reducible apply State.pageTurn_keeps
    | with_reducible apply State.recDataCame_keeps
    | with_reducible refine foldl_keeps ?_ (fun _ _ _ => ?_)
    | split
    | (fail_if_no_progress (with_reducible apply Keeps.lit <;> try exact rfl))
    | with_reducible refine snd_ite_keeps ?_ ?_
    | with_reducible refine snd_mk_keeps ?_
    | with_reducible refine pair_keeps (by assumption) ?_
    | intro _
    | beta_reduce

theorem execPeerLossTimeout_keeps {st0 : Inv} [st0.Writes] {s : State} (h : Keeps st0 s)   :
    ResKeeps st0 (execPeerLossTimeout s) := by
  unfold execPeerLossTimeout
  try with_reducible refine ResKeeps.next ?_
  repeat' first
    | with_reducible assumption
    | with_reducible refine ite_keeps ?_ ?_
    | with_reducible apply State.peerLost_keeps
    | with_reducible refine ResKeeps.next ?_
    | split
    | with_reducible refine pair_keeps (by assumption) ?_
    | intro _
    | beta_reduce

theorem execPeerHandoverRx_keeps {st0 : Inv} [st0.Writes] {s : State} (h : Keeps st0 s)   :
    ResKeeps st0 (execPeerHandoverRx s) := by
  unfold execPeerHandoverRx
  try with_reducible refine ResKeeps.next ?_
  repeat' first
    | with_reducible assumption
    | with_reducible refine ite_keeps ?_ ?_
    | with_reducible apply State.peerLost_keeps
    | with_reducible refine ResKeeps.next ?_
    | split
    | with_reducible refine pair_keeps (by assumption) ?_
    | beta_reduce

theorem execPeerModeTimeout_keeps {st0 : Inv} {s : State} (h : Keeps st0 s)   :
    ResKeeps st0 (execPeerModeTimeout s) := by
  unfold execPeerModeTimeout
  try with_reducible refine ResKeeps.next ?_
  repeat' first
    | with_reducible assumption
    | with_reducible apply State.pairShow_keeps
    | with_reducible refine ResKeeps.next ?_
    | beta_reduce

theorem State.sendKeyWrap_keeps {st0 : Inv} {s : State} (h : Keeps st0 s)  :
    Keeps st0 (State.sendKeyWrap s) := by
  unfold State.sendKeyWrap
  repeat' first
    | with_reducible assumption
    | (extract_lets -underBinder -merge +onlyGivenNames x; refine keepCut (r := st0) (x := x) ?_ (fun hx => ?_); (on_goal 1 => (unfold x; clear x)); (on_goal 2 => clear_value x))
    | (extract_lets -underBinder -merge +onlyGivenNames x; guard_hyp x : SecSt)
    | (extract_lets -underBinder -merge +onlyGivenNames x; clear_value x)
    | with_reducible apply State.sendPeer_keeps
    | split
    | (fail_if_no_progress (with_reducible apply Keeps.lit <;> try exact rfl))
    | with_reducible refine snd_ite_keeps ?_ ?_
    | with_reducible refine snd_mk_keeps ?_
    | with_reducible refine pair_keeps (by assumption) ?_
    | intro _
    | beta_reduce

theorem State.sendTables_keeps {st0 : Inv} {s : State} (h : Keeps st0 s)  :
    Keeps st0 (State.sendTables s) := by
  unfold State.sendTables
  repeat' first
    | with_reducible assumption
    | (extract_lets -underBinder -merge +onlyGivenNames x; refine keepCut (r := st0) (x := x) ?_ (fun hx => ?_); (on_goal 1 => (unfold x; clear x)); (on_goal 2 => clear_value x))
    | (extract_lets -underBinder -merge +onlyGivenNames x; guard_hyp x : SecSt)
    | (extract_lets -underBinder -merge +onlyGivenNames x; clear_value x)
    | with_reducible apply State.sendPeer_keeps
    | split
    | (fail_if_no_progress (with_reducible apply Keeps.lit <;> try exact rfl))
    | with_reducible refine snd_ite_keeps ?_ ?_
    | with_reducible refine snd_mk_keeps ?_
    | with_reducible refine pair_keeps (by assumption) ?_
    | intro _
    | beta_reduce

theorem State.resyncStart_keeps {st0 : Inv} {s : State} (h : Keeps st0 s)   :
    Keeps st0 (State.resyncStart s) := by
  unfold State.resyncStart
  repeat' first
    | with_reducible assumption
    | (extract_lets -underBinder -merge +onlyGivenNames x; refine keepCut (r := st0) (x := x) ?_ (fun hx => ?_); (on_goal 1 => (unfold x; clear x)); (on_goal 2 => clear_value x))
    | (extract_lets -underBinder -merge +onlyGivenNames x; guard_hyp x : SecSt)
    | (extract_lets -underBinder -merge +onlyGivenNames x; clear_value x)
    | with_reducible refine ite_keeps ?_ ?_
    | with_reducible apply State.sendKeyWrap_keeps
    | with_reducible apply State.sendTables_keeps
    | with_reducible apply State.set_keeps
    | split
    | with_reducible refine pair_keeps (by assumption) ?_
    | beta_reduce

theorem execPeerHelloRx_keeps {st0 : Inv} {s : State} (h : Keeps st0 s) {hid : Nat} {arrayId : Nat} {layout : Nat} {format : Nat}  :
    ResKeeps st0 (execPeerHelloRx hid arrayId layout format s) := by
  unfold execPeerHelloRx
  try with_reducible refine ResKeeps.next ?_
  repeat' first
    | with_reducible assumption
    | (extract_lets -underBinder -merge +onlyGivenNames x; refine keepCut (r := st0) (x := x) ?_ (fun hx => ?_); (on_goal 1 => (unfold x; clear x)); (on_goal 2 => clear_value x))
    | (extract_lets -underBinder -merge +onlyGivenNames x; guard_hyp x : SecSt)
    | (extract_lets -underBinder -merge +onlyGivenNames x; clear_value x)
    | with_reducible refine ite_keeps ?_ ?_
    | with_reducible apply State.setAll_keeps
    | with_reducible apply State.set_keeps
    | with_reducible apply State.modPair_keeps
    | with_reducible apply State.ringHold_keeps
    | with_reducible apply State.sendMode_keeps
    | with_reducible apply State.pairShow_keeps
    | with_reducible apply State.raise_keeps
    | with_reducible refine ResKeeps.next ?_
    | split
    | (fail_if_no_progress (with_reducible apply Keeps.lit <;> try exact rfl))
    | with_reducible refine pair_keeps (by assumption) ?_
    | with_reducible refine snd_ite_keeps ?_ ?_
    | with_reducible refine snd_mk_keeps ?_
    | intro _
    | beta_reduce

theorem execPeerModeRx_keeps {st0 : Inv} [st0.Writes] {s : State} (h : Keeps st0 s) {mode : Nat} {holdsA : Bool} {holdsB : Bool} {epochA : Nat} {epochB : Nat} {jgen : Nat}  :
    ResKeeps st0 (execPeerModeRx mode holdsA holdsB epochA epochB jgen s) := by
  unfold execPeerModeRx
  try with_reducible refine ResKeeps.next ?_
  repeat' first
    | with_reducible assumption
    | (extract_lets -underBinder -merge +onlyGivenNames x; refine keepCut (r := st0) (x := x) ?_ (fun hx => ?_); (on_goal 1 => (unfold x; clear x)); (on_goal 2 => clear_value x))
    | (extract_lets -underBinder -merge +onlyGivenNames x; guard_hyp x : SecSt)
    | (extract_lets -underBinder -merge +onlyGivenNames x; clear_value x)
    | with_reducible refine ite_keeps ?_ ?_
    | with_reducible apply State.setAll_keeps
    | with_reducible apply State.modPair_keeps
    | with_reducible apply State.pairShow_keeps
    | with_reducible apply State.peerLost_keeps
    | with_reducible apply State.resyncStart_keeps
    | with_reducible apply State.tkoTo_keeps
    | with_reducible apply State.bootOn_keeps
    | with_reducible refine ResKeeps.next ?_
    | split
    | (fail_if_no_progress (with_reducible apply Keeps.lit <;> try exact rfl))
    | with_reducible refine pair_keeps (by assumption) ?_
    | intro _
    | beta_reduce

theorem State.peerKeyOld_keeps {st0 : Inv} {s : State} (h : Keeps st0 s) {jgen : Nat} :
    Keeps st0 (State.peerKeyOld s jgen) := by
  unfold State.peerKeyOld
  repeat' first
    | with_reducible assumption
    | (extract_lets -underBinder -merge +onlyGivenNames x; refine keepCut (r := st0) (x := x) ?_ (fun hx => ?_); (on_goal 1 => (unfold x; clear x)); (on_goal 2 => clear_value x))
    | (extract_lets -underBinder -merge +onlyGivenNames x; guard_hyp x : SecSt)
    | (extract_lets -underBinder -merge +onlyGivenNames x; clear_value x)
    | with_reducible refine ite_keeps ?_ ?_
    | with_reducible refine State.modSec_keeps ?_ rfl
    | split
    | (fail_if_no_progress (with_reducible apply Keeps.lit <;> try exact rfl))
    | with_reducible refine snd_ite_keeps ?_ ?_
    | with_reducible refine snd_mk_keeps ?_
    | with_reducible refine pair_keeps (by assumption) ?_
    | intro _
    | beta_reduce

theorem execPeerKeyWrapRx_keeps {st0 : Inv} [st0.Writes] {s : State} (h : Keeps st0 s) {jgen : Nat} {wrapped : Nat} :
    ResKeeps st0 (execPeerKeyWrapRx jgen wrapped s) := by
  unfold execPeerKeyWrapRx
  try with_reducible refine ResKeeps.next ?_
  repeat' first
    | with_reducible assumption
    | (extract_lets -underBinder -merge +onlyGivenNames x; refine keepCut (r := st0) (x := x) ?_ (fun hx => ?_); (on_goal 1 => (unfold x; clear x)); (on_goal 2 => clear_value x))
    | (extract_lets -underBinder -merge +onlyGivenNames x; guard_hyp x : SecSt)
    | (extract_lets -underBinder -merge +onlyGivenNames x; clear_value x)
    | with_reducible refine ResKeeps.next ?_
    | with_reducible apply State.keyPut_keeps
    | with_reducible apply State.set_keeps
    | with_reducible apply State.setAll_keeps
    | with_reducible apply State.raise_keeps
    | with_reducible apply State.pairShow_keeps
    | with_reducible apply State.bootOn_keeps
    | with_reducible apply State.peerKeyOld_keeps
    | split
    | (fail_if_no_progress (with_reducible apply Keeps.lit <;> try exact rfl))
    | with_reducible refine snd_ite_keeps ?_ ?_
    | with_reducible refine snd_mk_keeps ?_
    | with_reducible refine pair_keeps (by assumption) ?_
    | intro _
    | beta_reduce

theorem execPeerSyncDataRx_keeps {st0 : Inv} {s : State} (h : Keeps st0 s) {rec : MirrorRec} {entered : Bool} :
    ResKeeps st0 (execPeerSyncDataRx rec entered s) := by
  unfold execPeerSyncDataRx
  try with_reducible refine ResKeeps.next ?_
  repeat' first
    | with_reducible assumption
    | (extract_lets -underBinder -merge +onlyGivenNames x; refine keepCut (r := st0) (x := x) ?_ (fun hx => ?_); (on_goal 1 => (unfold x; clear x)); (on_goal 2 => clear_value x))
    | (extract_lets -underBinder -merge +onlyGivenNames x; guard_hyp x : SecSt)
    | (extract_lets -underBinder -merge +onlyGivenNames x; clear_value x)
    | with_reducible refine ite_keeps ?_ ?_
    | with_reducible refine ResKeeps.next ?_
    | with_reducible apply State.modWrite_keeps
    | with_reducible apply State.enterRec_keeps
    | split
    | (fail_if_no_progress (with_reducible apply Keeps.lit <;> try exact rfl))
    | with_reducible refine snd_ite_keeps ?_ ?_
    | with_reducible refine snd_mk_keeps ?_
    | with_reducible refine pair_keeps (by assumption) ?_
    | intro _
    | beta_reduce

theorem execPeerMailboxRx_keeps {st0 : Inv} {s : State} (h : Keeps st0 s) {kind : Nat} {w : Nat} {epoch : Nat} {c : Nat}  :
    ResKeeps st0 (execPeerMailboxRx kind w epoch c s) := by
  unfold execPeerMailboxRx
  try with_reducible refine ResKeeps.next ?_
  repeat' first
    | with_reducible assumption
    | with_reducible apply State.mbxFromPeer_keeps
    | with_reducible refine ResKeeps.next ?_
    | beta_reduce

theorem State.modeResult_keeps {st0 : Inv} {s : State} (h : Keeps st0 s) {result : Nat} {cond : Nat}  :
    Keeps st0 (State.modeResult s result cond) := by
  unfold State.modeResult
  repeat' first
    | with_reducible assumption
    | with_reducible apply State.setAll_keeps
    | beta_reduce

theorem State.handOver_keeps {st0 : Inv} {s : State} (h : Keeps st0 s) {after : Nat}  :
    Keeps st0 (State.handOver s after) := by
  unfold State.handOver
  repeat' first
    | with_reducible assumption
    | with_reducible apply State.modPair_keeps
    | (fail_if_no_progress (with_reducible apply Keeps.lit <;> try exact rfl))
    | intro _
    | beta_reduce

theorem State.modeReq_keeps {st0 : Inv} [st0.Clears] [st0.Writes] {s : State} (h : Keeps st0 s) {op : Nat}  :
    Keeps st0 (State.modeReq s op) := by
  unfold State.modeReq
  repeat' first
    | with_reducible assumption
    | (extract_lets -underBinder -merge +onlyGivenNames x; refine keepCut (r := st0) (x := x) ?_ (fun hx => ?_); (on_goal 1 => (unfold x; clear x)); (on_goal 2 => clear_value x))
    | (extract_lets -underBinder -merge +onlyGivenNames x; guard_hyp x : SecSt)
    | (extract_lets -underBinder -merge +onlyGivenNames x; clear_value x)
    | with_reducible refine ite_keeps ?_ ?_
    | with_reducible apply State.setAll_keeps
    | with_reducible apply State.modeResult_keeps
    | with_reducible apply State.selfReset_keeps
    | with_reducible apply State.set_keeps
    | with_reducible apply State.handOver_keeps
    | with_reducible apply State.releaseAll_keeps
    | with_reducible apply State.setMode_keeps
    | split
    | with_reducible refine pair_keeps (by assumption) ?_
    | with_reducible refine snd_ite_keeps ?_ ?_
    | with_reducible refine snd_mk_keeps ?_
    | beta_reduce

theorem execLseModeReqService_keeps {st0 : Inv} [st0.Clears] [st0.Writes] {s : State} (h : Keeps st0 s) {m : Nat}  :
    ResKeeps st0 (execLseModeReqService m s) := by
  unfold execLseModeReqService
  try with_reducible refine ResKeeps.next ?_
  repeat' first
    | with_reducible assumption
    | with_reducible refine State.busWr_keeps ?_ (fun _ _ => ?_)
    | with_reducible apply State.modeReq_keeps
    | with_reducible refine ResKeeps.next ?_
    | intro _
    | beta_reduce

theorem execLseModeReqServiceRelease_keeps {st0 : Inv} [st0.Clears] [st0.Writes] {s : State} (h : Keeps st0 s) {m : Nat}  :
    ResKeeps st0 (execLseModeReqServiceRelease m s) := by
  unfold execLseModeReqServiceRelease
  try with_reducible refine ResKeeps.next ?_
  repeat' first
    | with_reducible assumption
    | with_reducible refine State.busWr_keeps ?_ (fun _ _ => ?_)
    | with_reducible apply State.modeReq_keeps
    | with_reducible refine ResKeeps.next ?_
    | intro _
    | beta_reduce

theorem execLseModeReqReboot_keeps {st0 : Inv} [st0.Clears] [st0.Writes] {s : State} (h : Keeps st0 s) {m : Nat}  :
    ResKeeps st0 (execLseModeReqReboot m s) := by
  unfold execLseModeReqReboot
  try with_reducible refine ResKeeps.next ?_
  repeat' first
    | with_reducible assumption
    | with_reducible refine State.busWr_keeps ?_ (fun _ _ => ?_)
    | with_reducible apply State.modeReq_keeps
    | with_reducible refine ResKeeps.next ?_
    | intro _
    | beta_reduce

theorem State.putPtr_keeps {st0 : Inv} {s : State} (h : Keeps st0 s) {p : Ptr} :
    Keeps st0 (State.putPtr s p) := by
  unfold State.putPtr
  repeat' first
    | with_reducible assumption
    | (extract_lets -underBinder -merge +onlyGivenNames x; refine keepCut (r := st0) (x := x) ?_ (fun hx => ?_); (on_goal 1 => (unfold x; clear x)); (on_goal 2 => clear_value x))
    | (extract_lets -underBinder -merge +onlyGivenNames x; guard_hyp x : SecSt)
    | (extract_lets -underBinder -merge +onlyGivenNames x; clear_value x)
    | split
    | (fail_if_no_progress (with_reducible apply Keeps.lit <;> try exact rfl))
    | with_reducible refine snd_ite_keeps ?_ ?_
    | with_reducible refine snd_mk_keeps ?_
    | with_reducible refine pair_keeps (by assumption) ?_
    | intro _
    | beta_reduce

theorem State.activate_keeps {st0 : Inv} [st0.Clears] {s : State} (h : Keeps st0 s)   :
    Keeps st0 (State.activate s) := by
  unfold State.activate
  repeat' first
    | with_reducible assumption
    | (extract_lets -underBinder -merge +onlyGivenNames x; refine keepCut (r := st0) (x := x) ?_ (fun hx => ?_); (on_goal 1 => (unfold x; clear x)); (on_goal 2 => clear_value x))
    | (extract_lets -underBinder -merge +onlyGivenNames x; guard_hyp x : SecSt)
    | (extract_lets -underBinder -merge +onlyGivenNames x; clear_value x)
    | with_reducible apply State.putPtr_keeps
    | with_reducible apply State.autoConfirm_keeps
    | with_reducible apply State.selfReset_keeps
    | (fail_if_no_progress (with_reducible apply Keeps.lit <;> try exact rfl))
    | beta_reduce

theorem State.handOverEnd_keeps {st0 : Inv} [st0.Clears] [st0.Writes] {s : State} (h : Keeps st0 s)   :
    Keeps st0 (State.handOverEnd s) := by
  unfold State.handOverEnd
  repeat' first
    | with_reducible assumption
    | (extract_lets -underBinder -merge +onlyGivenNames x; refine keepCut (r := st0) (x := x) ?_ (fun hx => ?_); (on_goal 1 => (unfold x; clear x)); (on_goal 2 => clear_value x))
    | (extract_lets -underBinder -merge +onlyGivenNames x; guard_hyp x : SecSt)
    | (extract_lets -underBinder -merge +onlyGivenNames x; clear_value x)
    | with_reducible refine ite_keeps ?_ ?_
    | with_reducible apply State.sendPeer_keeps
    | with_reducible apply State.releaseAll_keeps
    | with_reducible apply State.setMode_keeps
    | with_reducible apply State.modPair_keeps
    | with_reducible apply State.tkoTo_keeps
    | with_reducible apply State.modeResult_keeps
    | with_reducible apply State.activate_keeps
    | with_reducible apply State.selfReset_keeps
    | split
    | (fail_if_no_progress (with_reducible apply Keeps.lit <;> try exact rfl))
    | with_reducible refine pair_keeps (by assumption) ?_
    | intro _
    | beta_reduce

theorem execHandoverDrained_keeps {st0 : Inv} [st0.Clears] [st0.Writes] {s : State} (h : Keeps st0 s)   :
    ResKeeps st0 (execHandoverDrained s) := by
  unfold execHandoverDrained
  try with_reducible refine ResKeeps.next ?_
  repeat' first
    | with_reducible assumption
    | with_reducible refine ite_keeps ?_ ?_
    | with_reducible apply State.handOverEnd_keeps
    | with_reducible refine ResKeeps.next ?_
    | split
    | with_reducible refine pair_keeps (by assumption) ?_
    | beta_reduce

end Sys2Proof.Machine
end

