-- ==== Sys2Proof/Laws/KeepsLease.lean ====
section
/-! SUPPORT. The operations and commands of Machine/Lease.lean keep what a state is asked (Laws/Keeps.lean). -/

set_option linter.all false

namespace Sys2Proof.Machine

theorem execLeaseFencePoint_keeps {st0 : Inv} {s : State} (h : Keeps st0 s) {sh : Nat}  :
    ResKeeps st0 (execLeaseFencePoint sh s) := by
  unfold execLeaseFencePoint
  try with_reducible refine ResKeeps.next ?_
  repeat' first
    | with_reducible assumption
    | (extract_lets -underBinder -merge +onlyGivenNames x; refine keepCut (r := st0) (x := x) ?_ (fun hx => ?_); (on_goal 1 => (unfold x; clear x)); (on_goal 2 => clear_value x))
    | (extract_lets -underBinder -merge +onlyGivenNames x; guard_hyp x : SecSt)
    | (extract_lets -underBinder -merge +onlyGivenNames x; clear_value x)
    | with_reducible refine ite_keeps ?_ ?_
    | with_reducible apply State.loseLease_keeps
    | with_reducible apply State.raise_keeps
    | with_reducible refine ResKeeps.next ?_
    | split
    | with_reducible refine pair_keeps (by assumption) ?_
    | with_reducible refine snd_ite_keeps ?_ ?_
    | with_reducible refine snd_mk_keeps ?_
    | beta_reduce

theorem execLeaseRenewDue_keeps {st0 : Inv} [st0.Writes] {s : State} (h : Keeps st0 s) {sh : Nat}  :
    ResKeeps st0 (execLeaseRenewDue sh s) := by
  unfold execLeaseRenewDue
  try with_reducible refine ResKeeps.next ?_
  repeat' first
    | with_reducible assumption
    | with_reducible refine ite_keeps ?_ ?_
    | with_reducible apply State.setLease_keeps
    | with_reducible apply State.witAsk_keeps
    | with_reducible refine ResKeeps.next ?_
    | split
    | with_reducible refine pair_keeps (by assumption) ?_
    | beta_reduce

theorem execWitnessRetry_keeps {st0 : Inv} [st0.Writes] {s : State} (h : Keeps st0 s) {sh : Nat}  :
    ResKeeps st0 (execWitnessRetry sh s) := by
  unfold execWitnessRetry
  try with_reducible refine ResKeeps.next ?_
  repeat' first
    | with_reducible assumption
    | (extract_lets -underBinder -merge +onlyGivenNames x; refine keepCut (r := st0) (x := x) ?_ (fun hx => ?_); (on_goal 1 => (unfold x; clear x)); (on_goal 2 => clear_value x))
    | (extract_lets -underBinder -merge +onlyGivenNames x; guard_hyp x : SecSt)
    | (extract_lets -underBinder -merge +onlyGivenNames x; clear_value x)
    | with_reducible refine ite_keeps ?_ ?_
    | with_reducible apply State.modLease_keeps
    | with_reducible apply State.witSend_keeps
    | with_reducible refine ResKeeps.next ?_
    | split
    | (fail_if_no_progress (with_reducible apply Keeps.lit <;> try exact rfl))
    | with_reducible refine pair_keeps (by assumption) ?_
    | intro _
    | beta_reduce

theorem State.handBack_keeps {st0 : Inv} {s : State} (h : Keeps st0 s)  :
    Keeps st0 (State.handBack s) := by
  unfold State.handBack
  repeat' first
    | with_reducible assumption
    | (extract_lets -underBinder -merge +onlyGivenNames x; refine keepCut (r := st0) (x := x) ?_ (fun hx => ?_); (on_goal 1 => (unfold x; clear x)); (on_goal 2 => clear_value x))
    | (extract_lets -underBinder -merge +onlyGivenNames x; guard_hyp x : SecSt)
    | (extract_lets -underBinder -merge +onlyGivenNames x; clear_value x)
    | with_reducible apply State.modPair_keeps
    | with_reducible apply State.sendPeer_keeps
    | with_reducible apply State.tkoTo_keeps
    | with_reducible refine foldl_keeps ?_ (fun _ _ _ => ?_)
    | split
    | (fail_if_no_progress (with_reducible apply Keeps.lit <;> try exact rfl))
    | with_reducible refine snd_ite_keeps ?_ ?_
    | with_reducible refine snd_mk_keeps ?_
    | with_reducible refine pair_keeps (by assumption) ?_
    | intro _
    | beta_reduce

theorem execHandbackRelease_keeps {st0 : Inv} [st0.Writes] {s : State} (h : Keeps st0 s)  :
    ResKeeps st0 (execHandbackRelease s) := by
  unfold execHandbackRelease
  try with_reducible refine ResKeeps.next ?_
  repeat' first
    | with_reducible assumption
    | (extract_lets -underBinder -merge +onlyGivenNames x; refine keepCut (r := st0) (x := x) ?_ (fun hx => ?_); (on_goal 1 => (unfold x; clear x)); (on_goal 2 => clear_value x))
    | (extract_lets -underBinder -merge +onlyGivenNames x; guard_hyp x : SecSt)
    | (extract_lets -underBinder -merge +onlyGivenNames x; clear_value x)
    | with_reducible refine ite_keeps ?_ ?_
    | with_reducible refine ResKeeps.next ?_
    | with_reducible apply State.modPair_keeps
    | with_reducible apply State.bump_keeps
    | with_reducible apply State.sample_keeps
    | with_reducible apply State.setMode_keeps
    | with_reducible apply State.pairShow_keeps
    | with_reducible apply State.ringHold_keeps
    | with_reducible apply State.release_keeps
    | with_reducible apply State.sendMode_keeps
    | with_reducible apply State.tkoTo_keeps
    | split
    | (fail_if_no_progress (with_reducible apply Keeps.lit <;> try exact rfl))
    | with_reducible refine snd_ite_keeps ?_ ?_
    | with_reducible refine snd_mk_keeps ?_
    | with_reducible refine pair_keeps (by assumption) ?_
    | intro _
    | beta_reduce

theorem execHandbackTimeout_keeps {st0 : Inv} {s : State} (h : Keeps st0 s)   :
    ResKeeps st0 (execHandbackTimeout s) := by
  unfold execHandbackTimeout
  try with_reducible refine ResKeeps.next ?_
  repeat' first
    | with_reducible assumption
    | with_reducible refine ite_keeps ?_ ?_
    | with_reducible apply State.modPair_keeps
    | with_reducible apply State.tkoTo_keeps
    | with_reducible apply State.raise_keeps
    | with_reducible apply State.pairShow_keeps
    | with_reducible refine ResKeeps.next ?_
    | split
    | (fail_if_no_progress (with_reducible apply Keeps.lit <;> try exact rfl))
    | with_reducible refine pair_keeps (by assumption) ?_
    | with_reducible refine snd_ite_keeps ?_ ?_
    | with_reducible refine snd_mk_keeps ?_
    | intro _
    | beta_reduce

theorem State.witParse_keeps {r : Inv} {s : State} (h : Keeps r s) {l : List Nat} : Keeps r (s.witParse l).2 := by
  unfold State.witParse
  dsimp only
  refine snd_ite_keeps (State.bump_keeps h) ?_
  have g := State.slotFor_keeps (k := s.get F.LSE_WIT_CFG_KEY_SLOT) (useBit := 2) h
  split
  · rename_i e
    have g := pair_keeps e g
    exact snd_ite_keeps g (State.bump_keeps g)
  · rename_i e
    exact State.bump_keeps (pair_keeps e g)

theorem State.witOk_keeps {st0 : Inv} {s : State} (h : Keeps st0 s) {udp : Bool}  :
    Keeps st0 (State.witOk s udp) := by
  unfold State.witOk
  repeat' first
    | with_reducible assumption
    | with_reducible refine ite_keeps ?_ ?_
    | with_reducible apply State.modPair_keeps
    | split
    | (fail_if_no_progress (with_reducible apply Keeps.lit <;> try exact rfl))
    | with_reducible refine pair_keeps (by assumption) ?_
    | intro _
    | beta_reduce

theorem State.grant_keeps {st0 : Inv} [st0.Writes] {s : State} (h : Keeps st0 s) {f : WitFrame} :
    Keeps st0 (State.grant s f) := by
  unfold State.grant
  repeat' first
    | with_reducible assumption
    | (extract_lets -underBinder -merge +onlyGivenNames x; refine keepCut (r := st0) (x := x) ?_ (fun hx => ?_); (on_goal 1 => (unfold x; clear x)); (on_goal 2 => clear_value x))
    | (extract_lets -underBinder -merge +onlyGivenNames x; guard_hyp x : SecSt)
    | (extract_lets -underBinder -merge +onlyGivenNames x; clear_value x)
    | with_reducible refine ite_keeps ?_ ?_
    | with_reducible apply State.handBack_keeps
    | with_reducible apply State.modPair_keeps
    | with_reducible apply State.ownersToAll_keeps
    | with_reducible apply State.set_keeps
    | with_reducible apply State.bump_keeps
    | with_reducible apply State.sample_keeps
    | with_reducible apply State.setLease_keeps
    | with_reducible apply State.setFence_keeps
    | with_reducible apply State.pairShow_keeps
    | with_reducible apply State.modLease_keeps
    | with_reducible apply State.tkoTo_keeps
    | with_reducible apply State.tkoOn_keeps
    | with_reducible apply State.bootOn_keeps
    | split
    | (fail_if_no_progress (with_reducible apply Keeps.lit <;> try exact rfl))
    | with_reducible refine snd_ite_keeps ?_ ?_
    | with_reducible refine snd_mk_keeps ?_
    | with_reducible refine pair_keeps (by assumption) ?_
    | intro _
    | beta_reduce

theorem State.waitFor_keeps {st0 : Inv} {s : State} (h : Keeps st0 s) {f : WitFrame} :
    Keeps st0 (State.waitFor s f) := by
  unfold State.waitFor
  repeat' first
    | with_reducible assumption
    | (extract_lets -underBinder -merge +onlyGivenNames x; refine keepCut (r := st0) (x := x) ?_ (fun hx => ?_); (on_goal 1 => (unfold x; clear x)); (on_goal 2 => clear_value x))
    | (extract_lets -underBinder -merge +onlyGivenNames x; guard_hyp x : SecSt)
    | (extract_lets -underBinder -merge +onlyGivenNames x; clear_value x)
    | with_reducible refine ite_keeps ?_ ?_
    | with_reducible apply State.modLease_keeps
    | split
    | (fail_if_no_progress (with_reducible apply Keeps.lit <;> try exact rfl))
    | with_reducible refine snd_ite_keeps ?_ ?_
    | with_reducible refine snd_mk_keeps ?_
    | with_reducible refine pair_keeps (by assumption) ?_
    | intro _
    | beta_reduce

theorem State.denied_keeps {st0 : Inv} {s : State} (h : Keeps st0 s) {f : WitFrame}  :
    Keeps st0 (State.denied s f) := by
  unfold State.denied
  repeat' first
    | with_reducible assumption
    | (extract_lets -underBinder -merge +onlyGivenNames x; refine keepCut (r := st0) (x := x) ?_ (fun hx => ?_); (on_goal 1 => (unfold x; clear x)); (on_goal 2 => clear_value x))
    | (extract_lets -underBinder -merge +onlyGivenNames x; guard_hyp x : SecSt)
    | (extract_lets -underBinder -merge +onlyGivenNames x; clear_value x)
    | with_reducible refine ite_keeps ?_ ?_
    | with_reducible apply State.bump_keeps
    | with_reducible apply State.set_keeps
    | with_reducible apply State.loseLease_keeps
    | with_reducible apply State.raise_keeps
    | with_reducible apply State.setLease_keeps
    | with_reducible apply State.modLease_keeps
    | with_reducible apply State.tkoTo_keeps
    | split
    | (fail_if_no_progress (with_reducible apply Keeps.lit <;> try exact rfl))
    | with_reducible refine pair_keeps (by assumption) ?_
    | with_reducible refine snd_ite_keeps ?_ ?_
    | with_reducible refine snd_mk_keeps ?_
    | intro _
    | beta_reduce

theorem State.released_keeps {st0 : Inv} {s : State} (h : Keeps st0 s) {f : WitFrame}  :
    Keeps st0 (State.released s f) := by
  unfold State.released
  repeat' first
    | with_reducible assumption
    | (extract_lets -underBinder -merge +onlyGivenNames x; refine keepCut (r := st0) (x := x) ?_ (fun hx => ?_); (on_goal 1 => (unfold x; clear x)); (on_goal 2 => clear_value x))
    | (extract_lets -underBinder -merge +onlyGivenNames x; guard_hyp x : SecSt)
    | (extract_lets -underBinder -merge +onlyGivenNames x; clear_value x)
    | with_reducible refine ite_keeps ?_ ?_
    | with_reducible apply State.setLease_keeps
    | with_reducible apply State.modLease_keeps
    | split
    | (fail_if_no_progress (with_reducible apply Keeps.lit <;> try exact rfl))
    | with_reducible refine pair_keeps (by assumption) ?_
    | intro _
    | beta_reduce

theorem State.rubEnd_keeps {st0 : Inv} {s : State} (h : Keeps st0 s)   :
    Keeps st0 (State.rubEnd s) := by
  unfold State.rubEnd
  repeat' first
    | with_reducible assumption
    | (extract_lets -underBinder -merge +onlyGivenNames x; refine keepCut (r := st0) (x := x) ?_ (fun hx => ?_); (on_goal 1 => (unfold x; clear x)); (on_goal 2 => clear_value x))
    | (extract_lets -underBinder -merge +onlyGivenNames x; guard_hyp x : SecSt)
    | (extract_lets -underBinder -merge +onlyGivenNames x; clear_value x)
    | with_reducible refine ite_keeps ?_ ?_
    | with_reducible apply State.modPair_keeps
    | with_reducible apply State.setAll_keeps
    | with_reducible apply State.bump_keeps
    | with_reducible apply State.irq_keeps
    | with_reducible apply State.raise_keeps
    | split
    | (fail_if_no_progress (with_reducible apply Keeps.lit <;> try exact rfl))
    | with_reducible refine pair_keeps (by assumption) ?_
    | with_reducible refine snd_ite_keeps ?_ ?_
    | with_reducible refine snd_mk_keeps ?_
    | intro _
    | beta_reduce

theorem State.rubJudge_keeps {st0 : Inv} {s : State} (h : Keeps st0 s) {bit : Nat} {ok : Bool}  :
    Keeps st0 (State.rubJudge s bit ok) := by
  unfold State.rubJudge
  repeat' first
    | with_reducible assumption
    | with_reducible refine ite_keeps ?_ ?_
    | with_reducible apply State.modPair_keeps
    | with_reducible apply State.rubEnd_keeps
    | split
    | (fail_if_no_progress (with_reducible apply Keeps.lit <;> try exact rfl))
    | with_reducible refine pair_keeps (by assumption) ?_
    | intro _
    | beta_reduce

theorem State.witStatus_keeps {st0 : Inv} [st0.Clears] {s : State} (h : Keeps st0 s) {f : WitFrame} {udp : Bool}  :
    Keeps st0 (State.witStatus s f udp) := by
  unfold State.witStatus
  repeat' first
    | with_reducible assumption
    | (extract_lets -underBinder -merge +onlyGivenNames x; refine keepCut (r := st0) (x := x) ?_ (fun hx => ?_); (on_goal 1 => (unfold x; clear x)); (on_goal 2 => clear_value x))
    | (extract_lets -underBinder -merge +onlyGivenNames x; guard_hyp x : SecSt)
    | (extract_lets -underBinder -merge +onlyGivenNames x; clear_value x)
    | with_reducible refine ite_keeps ?_ ?_
    | with_reducible apply State.set_keeps
    | with_reducible apply State.rubJudge_keeps
    | with_reducible apply State.selfReset_keeps
    | split
    | with_reducible refine pair_keeps (by assumption) ?_
    | beta_reduce

theorem State.witRx_keeps {st0 : Inv} [st0.Clears] [st0.Writes] {s : State} (h : Keeps st0 s) {l : List Nat} {udp : Bool} {types : List Nat}  :
    Keeps st0 (State.witRx s l udp types) := by
  unfold State.witRx
  repeat' first
    | with_reducible assumption
    | (extract_lets -underBinder -merge +onlyGivenNames x; refine keepCut (r := st0) (x := x) ?_ (fun hx => ?_); (on_goal 1 => (unfold x; clear x)); (on_goal 2 => clear_value x))
    | (extract_lets -underBinder -merge +onlyGivenNames x; guard_hyp x : SecSt)
    | (extract_lets -underBinder -merge +onlyGivenNames x; clear_value x)
    | with_reducible refine ite_keeps ?_ ?_
    | with_reducible apply State.witParse_keeps
    | with_reducible apply State.witOk_keeps
    | with_reducible apply State.grant_keeps
    | with_reducible apply State.waitFor_keeps
    | with_reducible apply State.denied_keeps
    | with_reducible apply State.witStatus_keeps
    | with_reducible apply State.released_keeps
    | split
    | with_reducible refine pair_keeps (by assumption) ?_
    | beta_reduce

theorem State.witSerial_keeps {st0 : Inv} [st0.Clears] [st0.Writes] {s : State} (h : Keeps st0 s) {l : List Nat} {typ : Nat}  :
    Keeps st0 (State.witSerial s l typ) := by
  unfold State.witSerial
  repeat' first
    | with_reducible assumption
    | with_reducible refine ite_keeps ?_ ?_
    | with_reducible apply State.witRx_keeps
    | split
    | with_reducible refine pair_keeps (by assumption) ?_
    | beta_reduce

theorem execWitnessGrantRx_keeps {st0 : Inv} [st0.Clears] [st0.Writes] {s : State} (h : Keeps st0 s) {frame : List Nat}  :
    ResKeeps st0 (execWitnessGrantRx frame s) := by
  unfold execWitnessGrantRx
  try with_reducible refine ResKeeps.next ?_
  repeat' first
    | with_reducible assumption
    | with_reducible apply State.witSerial_keeps
    | with_reducible refine ResKeeps.next ?_
    | beta_reduce

theorem execWitnessWaitRx_keeps {st0 : Inv} [st0.Clears] [st0.Writes] {s : State} (h : Keeps st0 s) {frame : List Nat}  :
    ResKeeps st0 (execWitnessWaitRx frame s) := by
  unfold execWitnessWaitRx
  try with_reducible refine ResKeeps.next ?_
  repeat' first
    | with_reducible assumption
    | with_reducible apply State.witSerial_keeps
    | with_reducible refine ResKeeps.next ?_
    | beta_reduce

theorem execWitnessDenyRx_keeps {st0 : Inv} [st0.Clears] [st0.Writes] {s : State} (h : Keeps st0 s) {frame : List Nat}  :
    ResKeeps st0 (execWitnessDenyRx frame s) := by
  unfold execWitnessDenyRx
  try with_reducible refine ResKeeps.next ?_
  repeat' first
    | with_reducible assumption
    | with_reducible apply State.witSerial_keeps
    | with_reducible refine ResKeeps.next ?_
    | beta_reduce

theorem execWitnessStatusRx_keeps {st0 : Inv} [st0.Clears] [st0.Writes] {s : State} (h : Keeps st0 s) {frame : List Nat}  :
    ResKeeps st0 (execWitnessStatusRx frame s) := by
  unfold execWitnessStatusRx
  try with_reducible refine ResKeeps.next ?_
  repeat' first
    | with_reducible assumption
    | with_reducible apply State.witSerial_keeps
    | with_reducible refine ResKeeps.next ?_
    | beta_reduce

theorem execWitnessReleasedRx_keeps {st0 : Inv} [st0.Clears] [st0.Writes] {s : State} (h : Keeps st0 s) {frame : List Nat}  :
    ResKeeps st0 (execWitnessReleasedRx frame s) := by
  unfold execWitnessReleasedRx
  try with_reducible refine ResKeeps.next ?_
  repeat' first
    | with_reducible assumption
    | with_reducible apply State.witSerial_keeps
    | with_reducible refine ResKeeps.next ?_
    | beta_reduce

theorem execWitnessWaitExpire_keeps {st0 : Inv} [st0.Writes] {s : State} (h : Keeps st0 s) {sh : Nat}  :
    ResKeeps st0 (execWitnessWaitExpire sh s) := by
  unfold execWitnessWaitExpire
  try with_reducible refine ResKeeps.next ?_
  repeat' first
    | with_reducible assumption
    | (extract_lets -underBinder -merge +onlyGivenNames x; refine keepCut (r := st0) (x := x) ?_ (fun hx => ?_); (on_goal 1 => (unfold x; clear x)); (on_goal 2 => clear_value x))
    | (extract_lets -underBinder -merge +onlyGivenNames x; guard_hyp x : SecSt)
    | (extract_lets -underBinder -merge +onlyGivenNames x; clear_value x)
    | with_reducible refine ite_keeps ?_ ?_
    | with_reducible apply State.witAsk_keeps
    | with_reducible refine ResKeeps.next ?_
    | split
    | with_reducible refine pair_keeps (by assumption) ?_
    | intro _
    | beta_reduce

theorem State.witTell_keeps {st0 : Inv} [st0.Writes] {s : State} (h : Keeps st0 s) {typ : Nat} {body : List Nat}  :
    Keeps st0 (State.witTell s typ body) := by
  unfold State.witTell
  repeat' first
    | with_reducible assumption
    | (extract_lets -underBinder -merge +onlyGivenNames x; refine keepCut (r := st0) (x := x) ?_ (fun hx => ?_); (on_goal 1 => (unfold x; clear x)); (on_goal 2 => clear_value x))
    | (extract_lets -underBinder -merge +onlyGivenNames x; guard_hyp x : SecSt)
    | (extract_lets -underBinder -merge +onlyGivenNames x; clear_value x)
    | with_reducible apply State.nextReqId_keeps
    | with_reducible apply State.modPair_keeps
    | with_reducible apply State.witSend_keeps
    | split
    | (fail_if_no_progress (with_reducible apply Keeps.lit <;> try exact rfl))
    | with_reducible refine pair_keeps (by assumption) ?_
    | intro _
    | beta_reduce

theorem execWitnessReportSend_keeps {st0 : Inv} [st0.Writes] {s : State} (h : Keeps st0 s)   :
    ResKeeps st0 (execWitnessReportSend s) := by
  unfold execWitnessReportSend
  try with_reducible refine ResKeeps.next ?_
  repeat' first
    | with_reducible assumption
    | (extract_lets -underBinder -merge +onlyGivenNames x; refine keepCut (r := st0) (x := x) ?_ (fun hx => ?_); (on_goal 1 => (unfold x; clear x)); (on_goal 2 => clear_value x))
    | (extract_lets -underBinder -merge +onlyGivenNames x; guard_hyp x : SecSt)
    | (extract_lets -underBinder -merge +onlyGivenNames x; clear_value x)
    | with_reducible refine ite_keeps ?_ ?_
    | with_reducible apply State.modPair_keeps
    | with_reducible apply State.witTell_keeps
    | with_reducible refine ResKeeps.next ?_
    | split
    | (fail_if_no_progress (with_reducible apply Keeps.lit <;> try exact rfl))
    | with_reducible refine pair_keeps (by assumption) ?_
    | intro _
    | beta_reduce

theorem execHomeAcquire_keeps {st0 : Inv} [st0.Writes] {s : State} (h : Keeps st0 s)   :
    ResKeeps st0 (execHomeAcquire s) := by
  unfold execHomeAcquire
  try with_reducible refine ResKeeps.next ?_
  repeat' first
    | with_reducible assumption
    | (extract_lets -underBinder -merge +onlyGivenNames x; refine keepCut (r := st0) (x := x) ?_ (fun hx => ?_); (on_goal 1 => (unfold x; clear x)); (on_goal 2 => clear_value x))
    | (extract_lets -underBinder -merge +onlyGivenNames x; guard_hyp x : SecSt)
    | (extract_lets -underBinder -merge +onlyGivenNames x; clear_value x)
    | with_reducible refine ite_keeps ?_ ?_
    | with_reducible apply State.setLease_keeps
    | with_reducible apply State.witAsk_keeps
    | with_reducible refine ResKeeps.next ?_
    | split
    | with_reducible refine pair_keeps (by assumption) ?_
    | beta_reduce

theorem execBootWaitExpire_keeps {st0 : Inv} [st0.Writes] {s : State} (h : Keeps st0 s)  :
    ResKeeps st0 (execBootWaitExpire s) := by
  unfold execBootWaitExpire
  try with_reducible refine ResKeeps.next ?_
  repeat' first
    | with_reducible assumption
    | with_reducible refine ite_keeps ?_ ?_
    | with_reducible refine ResKeeps.next ?_
    | with_reducible apply State.tkoAsk_keeps
    | split
    | (fail_if_no_progress (with_reducible apply Keeps.lit <;> try exact rfl))
    | with_reducible refine snd_ite_keeps ?_ ?_
    | with_reducible refine snd_mk_keeps ?_
    | with_reducible refine pair_keeps (by assumption) ?_
    | intro _
    | beta_reduce

theorem execFencedProbe_keeps {st0 : Inv} [st0.Writes] {s : State} (h : Keeps st0 s)   :
    ResKeeps st0 (execFencedProbe s) := by
  unfold execFencedProbe
  try with_reducible refine ResKeeps.next ?_
  repeat' first
    | with_reducible assumption
    | with_reducible refine ite_keeps ?_ ?_
    | with_reducible apply State.modPair_keeps
    | with_reducible apply State.witTell_keeps
    | with_reducible refine ResKeeps.next ?_
    | split
    | (fail_if_no_progress (with_reducible apply Keeps.lit <;> try exact rfl))
    | with_reducible refine pair_keeps (by assumption) ?_
    | intro _
    | beta_reduce

theorem State.rubSend_keeps {st0 : Inv} {s : State} (h : Keeps st0 s) {b : Nat} {echo : Bool}  :
    Keeps st0 (State.rubSend s b echo) := by
  unfold State.rubSend
  repeat' first
    | with_reducible assumption
    | with_reducible refine ite_keeps ?_ ?_
    | with_reducible apply State.sendPeer_keeps
    | split
    | with_reducible refine pair_keeps (by assumption) ?_
    | beta_reduce

theorem State.rubStart_keeps {st0 : Inv} [st0.Writes] {s : State} (h : Keeps st0 s) {ringOk : Bool} {ckptOk : Bool} :
    Keeps st0 (State.rubStart s ringOk ckptOk) := by
  unfold State.rubStart
  repeat' first
    | with_reducible assumption
    | (extract_lets -underBinder -merge +onlyGivenNames x; refine keepCut (r := st0) (x := x) ?_ (fun hx => ?_); (on_goal 1 => (unfold x; clear x)); (on_goal 2 => clear_value x))
    | (extract_lets -underBinder -merge +onlyGivenNames x; guard_hyp x : SecSt)
    | (extract_lets -underBinder -merge +onlyGivenNames x; clear_value x)
    | with_reducible refine ite_keeps ?_ ?_
    | with_reducible apply State.rubEnd_keeps
    | with_reducible apply State.rubJudge_keeps
    | with_reducible apply State.witTell_keeps
    | with_reducible apply State.rubSend_keeps
    | with_reducible apply State.brickSend_keeps
    | with_reducible apply State.modPair_keeps
    | with_reducible apply State.set_keeps
    | with_reducible apply State.bump_keeps
    | with_reducible refine foldl_keeps ?_ (fun _ _ _ => ?_)
    | split
    | (fail_if_no_progress (with_reducible apply Keeps.lit <;> try exact rfl))
    | with_reducible refine snd_ite_keeps ?_ ?_
    | with_reducible refine snd_mk_keeps ?_
    | with_reducible refine pair_keeps (by assumption) ?_
    | intro _
    | beta_reduce

theorem execRubTest_keeps {st0 : Inv} [st0.Writes] {s : State} (h : Keeps st0 s) {ringOk : Bool} {ckptOk : Bool} :
    ResKeeps st0 (execRubTest ringOk ckptOk s) := by
  unfold execRubTest
  try with_reducible refine ResKeeps.next ?_
  repeat' first
    | with_reducible assumption
    | with_reducible refine ite_keeps ?_ ?_
    | with_reducible refine ResKeeps.next ?_
    | with_reducible apply State.rubStart_keeps
    | split
    | (fail_if_no_progress (with_reducible apply Keeps.lit <;> try exact rfl))
    | with_reducible refine snd_ite_keeps ?_ ?_
    | with_reducible refine snd_mk_keeps ?_
    | with_reducible refine pair_keeps (by assumption) ?_
    | intro _
    | beta_reduce

theorem execPeerRubRx_keeps {st0 : Inv} {s : State} (h : Keeps st0 s) {b : Nat} {echo : Bool}  :
    ResKeeps st0 (execPeerRubRx b echo s) := by
  unfold execPeerRubRx
  try with_reducible refine ResKeeps.next ?_
  repeat' first
    | with_reducible assumption
    | with_reducible refine ite_keeps ?_ ?_
    | with_reducible apply State.rubSend_keeps
    | with_reducible apply State.rubJudge_keeps
    | with_reducible refine ResKeeps.next ?_
    | split
    | with_reducible refine pair_keeps (by assumption) ?_
    | beta_reduce

theorem execRubProbeEnd_keeps {st0 : Inv} {s : State} (h : Keeps st0 s) {probe : Nat}  :
    ResKeeps st0 (execRubProbeEnd probe s) := by
  unfold execRubProbeEnd
  try with_reducible refine ResKeeps.next ?_
  repeat' first
    | with_reducible assumption
    | (extract_lets -underBinder -merge +onlyGivenNames x; refine keepCut (r := st0) (x := x) ?_ (fun hx => ?_); (on_goal 1 => (unfold x; clear x)); (on_goal 2 => clear_value x))
    | (extract_lets -underBinder -merge +onlyGivenNames x; guard_hyp x : SecSt)
    | (extract_lets -underBinder -merge +onlyGivenNames x; clear_value x)
    | with_reducible refine ite_keeps ?_ ?_
    | with_reducible apply State.rubJudge_keeps
    | with_reducible apply State.rubEnd_keeps
    | with_reducible refine ResKeeps.next ?_
    | split
    | with_reducible refine pair_keeps (by assumption) ?_
    | beta_reduce

theorem execLseWitRxWrite_keeps {st0 : Inv} [st0.Clears] [st0.Writes] {s : State} (h : Keeps st0 s) {m : Nat} {len : Nat}  :
    ResKeeps st0 (execLseWitRxWrite m len s) := by
  unfold execLseWitRxWrite
  try with_reducible refine ResKeeps.next ?_
  repeat' first
    | with_reducible assumption
    | with_reducible refine ite_keeps ?_ ?_
    | with_reducible refine State.busWr_keeps ?_ (fun _ _ => ?_)
    | with_reducible apply State.witRx_keeps
    | with_reducible refine ResKeeps.next ?_
    | split
    | with_reducible refine pair_keeps (by assumption) ?_
    | intro _
    | beta_reduce

theorem execLseWitTxRead_keeps {st0 : Inv} {s : State} (h : Keeps st0 s) {m : Nat}  :
    ResKeeps st0 (execLseWitTxRead m s) := by
  unfold execLseWitTxRead
  try with_reducible refine ResKeeps.next ?_
  repeat' first
    | with_reducible assumption
    | with_reducible refine State.busRd_keeps ?_ (fun _ _ => ?_)
    | with_reducible apply State.answer_keeps
    | with_reducible apply State.set_keeps
    | with_reducible apply State.irqOff_keeps
    | with_reducible refine ResKeeps.next ?_
    | intro _
    | beta_reduce

end Sys2Proof.Machine
end

