-- ==== Sys2Proof/Laws/KeepsPower.lean ====
section
/-! SUPPORT. The operations and commands of Machine/Power.lean keep what a state is asked (Laws/Keeps.lean). -/

set_option linter.all false

namespace Sys2Proof.Machine

theorem State.startCore_keeps {st0 : Inv} {s : State} (h : Keeps st0 s) {d : Nat} {m : Nat} :
    Keeps st0 (State.startCore s d m) := by
  unfold State.startCore
  repeat' first
    | with_reducible assumption
    | with_reducible refine ite_keeps ?_ ?_
    | with_reducible apply State.send_keeps
    | split
    | (fail_if_no_progress (with_reducible apply Keeps.lit <;> try exact rfl))
    | with_reducible refine snd_ite_keeps ?_ ?_
    | with_reducible refine snd_mk_keeps ?_
    | with_reducible refine pair_keeps (by assumption) ?_
    | intro _
    | beta_reduce

theorem State.resetCores_keeps {st0 : Inv} {s : State} (h : Keeps st0 s) {d : Nat} {mask : Nat} :
    Keeps st0 (State.resetCores s d mask) := by
  unfold State.resetCores
  repeat' first
    | with_reducible assumption
    | with_reducible apply State.masterReset_keeps
    | with_reducible apply State.startCore_keeps
    | with_reducible refine foldl_keeps ?_ (fun _ _ _ => ?_)
    | split
    | (fail_if_no_progress (with_reducible apply Keeps.lit <;> try exact rfl))
    | with_reducible refine snd_ite_keeps ?_ ?_
    | with_reducible refine snd_mk_keeps ?_
    | with_reducible refine pair_keeps (by assumption) ?_
    | intro _
    | beta_reduce

theorem State.domLogicLost_keeps {st0 : Inv} [st0.Writes] {s : State} (h : Keeps st0 s) {d : Nat} :
    Keeps st0 (State.domLogicLost s d) := by
  unfold State.domLogicLost
  repeat' first
    | with_reducible assumption
    | (extract_lets -underBinder -merge +onlyGivenNames x; refine keepCut (r := st0) (x := x) ?_ (fun hx => ?_); (on_goal 1 => (unfold x; clear x)); (on_goal 2 => clear_value x))
    | (extract_lets -underBinder -merge +onlyGivenNames x; guard_hyp x : SecSt)
    | (extract_lets -underBinder -merge +onlyGivenNames x; clear_value x)
    | with_reducible refine ite_keeps ?_ ?_
    | with_reducible apply State.modFlash_keeps
    | with_reducible apply State.modFtl_keeps
    | with_reducible apply State.linkDown_keeps
    | with_reducible apply State.connCmdsEnd_keeps
    | with_reducible apply State.connectGone_keeps
    | with_reducible apply State.connFree_keeps
    | with_reducible apply State.set_keeps
    | with_reducible apply State.cachesLost_keeps
    | with_reducible apply State.bundleDown_keeps
    | with_reducible apply State.ldtClose_keeps
    | with_reducible apply State.modHost_keeps
    | with_reducible apply State.assocGone_keeps
    | with_reducible refine foldl_keeps ?_ (fun _ _ _ => ?_)
    | split
    | (fail_if_no_progress (with_reducible apply Keeps.lit <;> try exact rfl))
    | with_reducible refine snd_ite_keeps ?_ ?_
    | with_reducible refine snd_mk_keeps ?_
    | with_reducible refine pair_keeps (by assumption) ?_
    | intro _
    | beta_reduce

theorem State.domGo_keeps {st0 : Inv} [st0.Writes] {s : State} (h : Keeps st0 s) {d : Nat} {st : Nat} :
    Keeps st0 (State.domGo s d st) := by
  unfold State.domGo
  repeat' first
    | with_reducible assumption
    | (extract_lets -underBinder -merge +onlyGivenNames x; refine keepCut (r := st0) (x := x) ?_ (fun hx => ?_); (on_goal 1 => (unfold x; clear x)); (on_goal 2 => clear_value x))
    | (extract_lets -underBinder -merge +onlyGivenNames x; guard_hyp x : SecSt)
    | (extract_lets -underBinder -merge +onlyGivenNames x; clear_value x)
    | with_reducible refine ite_keeps ?_ ?_
    | with_reducible apply State.masterReset_keeps
    | with_reducible apply State.set_keeps
    | with_reducible apply State.domPut_keeps
    | with_reducible apply State.pairShow_keeps
    | with_reducible apply State.domLogicLost_keeps
    | with_reducible apply State.slicesWipe_keeps
    | with_reducible apply State.hidMove_keeps
    | with_reducible refine foldl_keeps ?_ (fun _ _ _ => ?_)
    | split
    | (fail_if_no_progress (with_reducible apply Keeps.lit <;> try exact rfl))
    | with_reducible refine snd_ite_keeps ?_ ?_
    | with_reducible refine snd_mk_keeps ?_
    | with_reducible refine pair_keeps (by assumption) ?_
    | intro _
    | beta_reduce

theorem State.pwrResult_keeps {st0 : Inv} {s : State} (h : Keeps st0 s) {d : Nat} {r : Nat}  :
    Keeps st0 (State.pwrResult s d r) := by
  unfold State.pwrResult
  repeat' first
    | with_reducible assumption
    | (extract_lets -underBinder -merge +onlyGivenNames x; refine keepCut (r := st0) (x := x) ?_ (fun hx => ?_); (on_goal 1 => (unfold x; clear x)); (on_goal 2 => clear_value x))
    | (extract_lets -underBinder -merge +onlyGivenNames x; guard_hyp x : SecSt)
    | (extract_lets -underBinder -merge +onlyGivenNames x; clear_value x)
    | with_reducible refine ite_keeps ?_ ?_
    | with_reducible apply State.setAll_keeps
    | with_reducible apply State.irq_keeps
    | with_reducible apply State.bump_keeps
    | with_reducible apply State.raise_keeps
    | split
    | with_reducible refine pair_keeps (by assumption) ?_
    | beta_reduce

theorem State.domQuiesce_keeps {st0 : Inv} {s : State} (h : Keeps st0 s) {d : Nat}  :
    Keeps st0 (State.domQuiesce s d) := by
  unfold State.domQuiesce
  repeat' first
    | with_reducible assumption
    | (extract_lets -underBinder -merge +onlyGivenNames x; refine keepCut (r := st0) (x := x) ?_ (fun hx => ?_); (on_goal 1 => (unfold x; clear x)); (on_goal 2 => clear_value x))
    | (extract_lets -underBinder -merge +onlyGivenNames x; guard_hyp x : SecSt)
    | (extract_lets -underBinder -merge +onlyGivenNames x; clear_value x)
    | with_reducible apply State.setUnit_keeps
    | with_reducible apply State.modPwr_keeps
    | with_reducible refine foldl_keeps ?_ (fun _ _ _ => ?_)
    | (fail_if_no_progress (with_reducible apply Keeps.lit <;> try exact rfl))
    | intro _
    | beta_reduce

theorem State.domUnquiesce_keeps {st0 : Inv} {s : State} (h : Keeps st0 s) {d : Nat}  :
    Keeps st0 (State.domUnquiesce s d) := by
  unfold State.domUnquiesce
  repeat' first
    | with_reducible assumption
    | with_reducible refine ite_keeps ?_ ?_
    | with_reducible apply State.setUnit_keeps
    | with_reducible apply State.modPwr_keeps
    | with_reducible refine foldl_keeps ?_ (fun _ _ _ => ?_)
    | split
    | (fail_if_no_progress (with_reducible apply Keeps.lit <;> try exact rfl))
    | with_reducible refine pair_keeps (by assumption) ?_
    | intro _
    | beta_reduce

theorem State.exitBegin_keeps {st0 : Inv} {s : State} (h : Keeps st0 s) {d : Nat} {asked : Bool}  :
    Keeps st0 (State.exitBegin s d asked) := by
  unfold State.exitBegin
  repeat' first
    | with_reducible assumption
    | with_reducible apply State.setAll_keeps
    | with_reducible apply State.modPwr_keeps
    | (fail_if_no_progress (with_reducible apply Keeps.lit <;> try exact rfl))
    | intro _
    | beta_reduce

theorem State.pwrNext_keeps {st0 : Inv} {s : State} (h : Keeps st0 s)   :
    Keeps st0 (State.pwrNext s) := by
  unfold State.pwrNext
  repeat' first
    | with_reducible assumption
    | (extract_lets -underBinder -merge +onlyGivenNames x; refine keepCut (r := st0) (x := x) ?_ (fun hx => ?_); (on_goal 1 => (unfold x; clear x)); (on_goal 2 => clear_value x))
    | (extract_lets -underBinder -merge +onlyGivenNames x; guard_hyp x : SecSt)
    | (extract_lets -underBinder -merge +onlyGivenNames x; clear_value x)
    | with_reducible refine ite_keeps ?_ ?_
    | with_reducible apply State.modPwr_keeps
    | with_reducible apply State.bump_keeps
    | with_reducible apply State.set_keeps
    | with_reducible apply State.exitBegin_keeps
    | split
    | (fail_if_no_progress (with_reducible apply Keeps.lit <;> try exact rfl))
    | with_reducible refine pair_keeps (by assumption) ?_
    | intro _
    | beta_reduce

theorem State.domReq_keeps {st0 : Inv} [st0.Writes] {s : State} (h : Keeps st0 s) {d : Nat} {op : Nat} {target : Nat} {cores : Nat}  :
    Keeps st0 (State.domReq s d op target cores) := by
  unfold State.domReq
  repeat' first
    | with_reducible assumption
    | (extract_lets -underBinder -merge +onlyGivenNames x; refine keepCut (r := st0) (x := x) ?_ (fun hx => ?_); (on_goal 1 => (unfold x; clear x)); (on_goal 2 => clear_value x))
    | (extract_lets -underBinder -merge +onlyGivenNames x; guard_hyp x : SecSt)
    | (extract_lets -underBinder -merge +onlyGivenNames x; clear_value x)
    | with_reducible refine ite_keeps ?_ ?_
    | with_reducible apply State.pwrResult_keeps
    | with_reducible apply State.resetCores_keeps
    | with_reducible apply State.domGo_keeps
    | with_reducible apply State.set_keeps
    | with_reducible apply State.exitBegin_keeps
    | with_reducible apply State.bump_keeps
    | with_reducible apply State.domQuiesce_keeps
    | with_reducible apply State.modPwr_keeps
    | with_reducible apply State.setAll_keeps
    | split
    | (fail_if_no_progress (with_reducible apply Keeps.lit <;> try exact rfl))
    | with_reducible refine pair_keeps (by assumption) ?_
    | intro _
    | beta_reduce

theorem execPwrDomSetState_keeps {st0 : Inv} [st0.Writes] {s : State} (h : Keeps st0 s) {m : Nat} {d : Nat} {target : Nat}  :
    ResKeeps st0 (execPwrDomSetState m d target s) := by
  unfold execPwrDomSetState
  try with_reducible refine ResKeeps.next ?_
  repeat' first
    | with_reducible assumption
    | with_reducible refine ite_keeps ?_ ?_
    | with_reducible refine State.busWr_keeps ?_ (fun _ _ => ?_)
    | with_reducible apply State.domReq_keeps
    | with_reducible refine ResKeeps.next ?_
    | split
    | with_reducible refine pair_keeps (by assumption) ?_
    | intro _
    | beta_reduce

theorem execPwrDomResetCores_keeps {st0 : Inv} [st0.Writes] {s : State} (h : Keeps st0 s) {m : Nat} {d : Nat} {cores : Nat}  :
    ResKeeps st0 (execPwrDomResetCores m d cores s) := by
  unfold execPwrDomResetCores
  try with_reducible refine ResKeeps.next ?_
  repeat' first
    | with_reducible assumption
    | with_reducible refine ite_keeps ?_ ?_
    | with_reducible refine State.busWr_keeps ?_ (fun _ _ => ?_)
    | with_reducible apply State.domReq_keeps
    | with_reducible refine ResKeeps.next ?_
    | split
    | with_reducible refine pair_keeps (by assumption) ?_
    | intro _
    | beta_reduce

theorem State.clocksStop_keeps {st0 : Inv} {s : State} (h : Keeps st0 s) {wake : Bool}  :
    Keeps st0 (State.clocksStop s wake) := by
  unfold State.clocksStop
  repeat' first
    | with_reducible assumption
    | with_reducible refine ite_keeps ?_ ?_
    | with_reducible apply State.wake_keeps
    | with_reducible apply State.modPwr_keeps
    | with_reducible apply State.setAll_keeps
    | with_reducible apply State.bump_keeps
    | split
    | (fail_if_no_progress (with_reducible apply Keeps.lit <;> try exact rfl))
    | with_reducible refine pair_keeps (by assumption) ?_
    | intro _
    | beta_reduce

theorem State.entryEnd_keeps {st0 : Inv} {s : State} (h : Keeps st0 s) {r : Nat}  :
    Keeps st0 (State.entryEnd s r) := by
  unfold State.entryEnd
  repeat' first
    | with_reducible assumption
    | (extract_lets -underBinder -merge +onlyGivenNames x; refine keepCut (r := st0) (x := x) ?_ (fun hx => ?_); (on_goal 1 => (unfold x; clear x)); (on_goal 2 => clear_value x))
    | (extract_lets -underBinder -merge +onlyGivenNames x; guard_hyp x : SecSt)
    | (extract_lets -underBinder -merge +onlyGivenNames x; clear_value x)
    | with_reducible refine ite_keeps ?_ ?_
    | with_reducible apply State.modPwr_keeps
    | with_reducible apply State.domUnquiesce_keeps
    | with_reducible apply State.set_keeps
    | with_reducible apply State.pwrResult_keeps
    | with_reducible apply State.pwrNext_keeps
    | with_reducible refine foldl_keeps ?_ (fun _ _ _ => ?_)
    | split
    | (fail_if_no_progress (with_reducible apply Keeps.lit <;> try exact rfl))
    | with_reducible refine pair_keeps (by assumption) ?_
    | intro _
    | beta_reduce

theorem State.dozeEnter_keeps {st0 : Inv} [st0.Writes] {s : State} (h : Keeps st0 s) {wake : Option Nat}  :
    Keeps st0 (State.dozeEnter s wake) := by
  unfold State.dozeEnter
  repeat' first
    | with_reducible assumption
    | (extract_lets -underBinder -merge +onlyGivenNames x; refine keepCut (r := st0) (x := x) ?_ (fun hx => ?_); (on_goal 1 => (unfold x; clear x)); (on_goal 2 => clear_value x))
    | (extract_lets -underBinder -merge +onlyGivenNames x; guard_hyp x : SecSt)
    | (extract_lets -underBinder -merge +onlyGivenNames x; clear_value x)
    | with_reducible refine ite_keeps ?_ ?_
    | with_reducible apply State.modPwr_keeps
    | with_reducible apply State.domGo_keeps
    | with_reducible apply State.setMode_keeps
    | with_reducible apply State.set_keeps
    | with_reducible apply State.clocksStop_keeps
    | with_reducible apply State.wake_keeps
    | with_reducible apply State.pwrResult_keeps
    | with_reducible refine foldl_keeps ?_ (fun _ _ _ => ?_)
    | split
    | (fail_if_no_progress (with_reducible apply Keeps.lit <;> try exact rfl))
    | with_reducible refine pair_keeps (by assumption) ?_
    | intro _
    | beta_reduce

theorem execPwrEntryQuiesced_keeps {st0 : Inv} [st0.Writes] {s : State} (h : Keeps st0 s) {wfi : Bool} {wake : Nat} :
    ResKeeps st0 (execPwrEntryQuiesced wfi wake s) := by
  unfold execPwrEntryQuiesced
  try with_reducible refine ResKeeps.next ?_
  repeat' first
    | with_reducible assumption
    | (extract_lets -underBinder -merge +onlyGivenNames x; refine keepCut (r := st0) (x := x) ?_ (fun hx => ?_); (on_goal 1 => (unfold x; clear x)); (on_goal 2 => clear_value x))
    | (extract_lets -underBinder -merge +onlyGivenNames x; guard_hyp x : SecSt)
    | (extract_lets -underBinder -merge +onlyGivenNames x; clear_value x)
    | with_reducible refine ite_keeps ?_ ?_
    | with_reducible refine ResKeeps.next ?_
    | with_reducible apply State.set_keeps
    | with_reducible apply State.bump_keeps
    | with_reducible apply State.domGo_keeps
    | with_reducible apply State.pwrResult_keeps
    | with_reducible apply State.pwrNext_keeps
    | with_reducible apply State.dozeEnter_keeps
    | with_reducible apply State.wake_keeps
    | with_reducible apply State.modPwr_keeps
    | split
    | (fail_if_no_progress (with_reducible apply Keeps.lit <;> try exact rfl))
    | with_reducible refine snd_ite_keeps ?_ ?_
    | with_reducible refine snd_mk_keeps ?_
    | with_reducible refine pair_keeps (by assumption) ?_
    | intro _
    | beta_reduce

theorem execPwrQuiesceTimeout_keeps {st0 : Inv} {s : State} (h : Keeps st0 s)   :
    ResKeeps st0 (execPwrQuiesceTimeout s) := by
  unfold execPwrQuiesceTimeout
  try with_reducible refine ResKeeps.next ?_
  repeat' first
    | with_reducible assumption
    | with_reducible refine ite_keeps ?_ ?_
    | with_reducible apply State.entryEnd_keeps
    | with_reducible refine ResKeeps.next ?_
    | split
    | with_reducible refine pair_keeps (by assumption) ?_
    | beta_reduce

theorem execPwrExitDone_keeps {st0 : Inv} [st0.Writes] {s : State} (h : Keeps st0 s)  :
    ResKeeps st0 (execPwrExitDone s) := by
  unfold execPwrExitDone
  try with_reducible refine ResKeeps.next ?_
  repeat' first
    | with_reducible assumption
    | (extract_lets -underBinder -merge +onlyGivenNames x; refine keepCut (r := st0) (x := x) ?_ (fun hx => ?_); (on_goal 1 => (unfold x; clear x)); (on_goal 2 => clear_value x))
    | (extract_lets -underBinder -merge +onlyGivenNames x; guard_hyp x : SecSt)
    | (extract_lets -underBinder -merge +onlyGivenNames x; clear_value x)
    | with_reducible refine ite_keeps ?_ ?_
    | with_reducible refine ResKeeps.next ?_
    | with_reducible apply State.set_keeps
    | with_reducible apply State.bump_keeps
    | with_reducible apply State.domGo_keeps
    | with_reducible apply State.pwrResult_keeps
    | with_reducible apply State.domUnquiesce_keeps
    | with_reducible apply State.pwrNext_keeps
    | with_reducible apply State.modPwr_keeps
    | with_reducible apply State.startCore_keeps
    | with_reducible refine foldl_keeps ?_ (fun _ _ _ => ?_)
    | split
    | (fail_if_no_progress (with_reducible apply Keeps.lit <;> try exact rfl))
    | with_reducible refine snd_ite_keeps ?_ ?_
    | with_reducible refine snd_mk_keeps ?_
    | with_reducible refine pair_keeps (by assumption) ?_
    | intro _
    | beta_reduce

theorem execAutoIdleEnter_keeps {st0 : Inv} [st0.Writes] {s : State} (h : Keeps st0 s) {d : Nat}  :
    ResKeeps st0 (execAutoIdleEnter d s) := by
  unfold execAutoIdleEnter
  try with_reducible refine ResKeeps.next ?_
  repeat' first
    | with_reducible assumption
    | (extract_lets -underBinder -merge +onlyGivenNames x; refine keepCut (r := st0) (x := x) ?_ (fun hx => ?_); (on_goal 1 => (unfold x; clear x)); (on_goal 2 => clear_value x))
    | (extract_lets -underBinder -merge +onlyGivenNames x; guard_hyp x : SecSt)
    | (extract_lets -underBinder -merge +onlyGivenNames x; clear_value x)
    | with_reducible refine ite_keeps ?_ ?_
    | with_reducible apply State.domGo_keeps
    | with_reducible apply State.set_keeps
    | with_reducible apply State.bump_keeps
    | with_reducible refine ResKeeps.next ?_
    | split
    | with_reducible refine pair_keeps (by assumption) ?_
    | intro _
    | beta_reduce

theorem execAutoIdleExit_keeps {st0 : Inv} [st0.Writes] {s : State} (h : Keeps st0 s) {d : Nat}  :
    ResKeeps st0 (execAutoIdleExit d s) := by
  unfold execAutoIdleExit
  try with_reducible refine ResKeeps.next ?_
  repeat' first
    | with_reducible assumption
    | with_reducible refine ite_keeps ?_ ?_
    | with_reducible apply State.domGo_keeps
    | with_reducible refine ResKeeps.next ?_
    | split
    | with_reducible refine pair_keeps (by assumption) ?_
    | beta_reduce

theorem State.wake_keeps {st0 : Inv} {s : State} (h : Keeps st0 s) {b : Nat} {d : Nat} :
    Keeps st0 (State.wake s b d) := by
  unfold State.wake
  repeat' first
    | with_reducible assumption
    | (extract_lets -underBinder -merge +onlyGivenNames x; refine keepCut (r := st0) (x := x) ?_ (fun hx => ?_); (on_goal 1 => (unfold x; clear x)); (on_goal 2 => clear_value x))
    | (extract_lets -underBinder -merge +onlyGivenNames x; guard_hyp x : SecSt)
    | (extract_lets -underBinder -merge +onlyGivenNames x; clear_value x)
    | with_reducible refine ite_keeps ?_ ?_
    | with_reducible apply State.set_keeps
    | with_reducible apply State.irq_keeps
    | with_reducible apply State.modPwr_keeps
    | with_reducible apply State.pwrNext_keeps
    | with_reducible apply State.entryEnd_keeps
    | split
    | (fail_if_no_progress (with_reducible apply Keeps.lit <;> try exact rfl))
    | with_reducible refine snd_ite_keeps ?_ ?_
    | with_reducible refine snd_mk_keeps ?_
    | with_reducible refine pair_keeps (by assumption) ?_
    | intro _
    | beta_reduce

theorem execWakeSourceAssert_keeps {st0 : Inv} {s : State} (h : Keeps st0 s) {source : Nat} {dom : Nat} :
    ResKeeps st0 (execWakeSourceAssert source dom s) := by
  unfold execWakeSourceAssert
  try with_reducible refine ResKeeps.next ?_
  repeat' first
    | with_reducible assumption
    | with_reducible refine ite_keeps ?_ ?_
    | with_reducible refine ResKeeps.next ?_
    | with_reducible apply State.wake_keeps
    | split
    | (fail_if_no_progress (with_reducible apply Keeps.lit <;> try exact rfl))
    | with_reducible refine snd_ite_keeps ?_ ?_
    | with_reducible refine snd_mk_keeps ?_
    | with_reducible refine pair_keeps (by assumption) ?_
    | intro _
    | beta_reduce

theorem State.dozeReq_keeps {st0 : Inv} {s : State} (h : Keeps st0 s)   :
    Keeps st0 (State.dozeReq s) := by
  unfold State.dozeReq
  repeat' first
    | with_reducible assumption
    | (extract_lets -underBinder -merge +onlyGivenNames x; refine keepCut (r := st0) (x := x) ?_ (fun hx => ?_); (on_goal 1 => (unfold x; clear x)); (on_goal 2 => clear_value x))
    | (extract_lets -underBinder -merge +onlyGivenNames x; guard_hyp x : SecSt)
    | (extract_lets -underBinder -merge +onlyGivenNames x; clear_value x)
    | with_reducible refine ite_keeps ?_ ?_
    | with_reducible apply State.pwrResult_keeps
    | with_reducible apply State.domQuiesce_keeps
    | with_reducible apply State.modPwr_keeps
    | with_reducible apply State.setAll_keeps
    | with_reducible refine foldl_keeps ?_ (fun _ _ _ => ?_)
    | split
    | (fail_if_no_progress (with_reducible apply Keeps.lit <;> try exact rfl))
    | with_reducible refine pair_keeps (by assumption) ?_
    | intro _
    | beta_reduce

theorem execDozeRequest_keeps {st0 : Inv} {s : State} (h : Keeps st0 s) {m : Nat} {oscStop : Bool}  :
    ResKeeps st0 (execDozeRequest m oscStop s) := by
  unfold execDozeRequest
  try with_reducible refine ResKeeps.next ?_
  repeat' first
    | with_reducible assumption
    | with_reducible refine State.busWr_keeps ?_ (fun _ _ => ?_)
    | with_reducible apply State.set_keeps
    | with_reducible apply State.dozeReq_keeps
    | with_reducible refine ResKeeps.next ?_
    | intro _
    | beta_reduce

theorem execDozeWake_keeps {st0 : Inv} {s : State} (h : Keeps st0 s) {ticks : Nat} {startUs : Nat}  :
    ResKeeps st0 (execDozeWake ticks startUs s) := by
  unfold execDozeWake
  try with_reducible refine ResKeeps.next ?_
  repeat' first
    | with_reducible assumption
    | (extract_lets -underBinder -merge +onlyGivenNames x; refine keepCut (r := st0) (x := x) ?_ (fun hx => ?_); (on_goal 1 => (unfold x; clear x)); (on_goal 2 => clear_value x))
    | (extract_lets -underBinder -merge +onlyGivenNames x; guard_hyp x : SecSt)
    | (extract_lets -underBinder -merge +onlyGivenNames x; clear_value x)
    | with_reducible refine ite_keeps ?_ ?_
    | with_reducible apply State.clocksStart_keeps
    | with_reducible apply State.setAll_keeps
    | with_reducible apply State.bump_keeps
    | with_reducible apply State.modPwr_keeps
    | with_reducible refine ResKeeps.next ?_
    | split
    | (fail_if_no_progress (with_reducible apply Keeps.lit <;> try exact rfl))
    | with_reducible refine pair_keeps (by assumption) ?_
    | intro _
    | beta_reduce

theorem State.dozeBack_keeps {st0 : Inv} [st0.Writes] {s : State} (h : Keeps st0 s)   :
    Keeps st0 (State.dozeBack s) := by
  unfold State.dozeBack
  dsimp only
  repeat' first
    | with_reducible assumption
    | (extract_lets -underBinder -merge +onlyGivenNames x; refine keepCut (r := st0) (x := x) ?_ (fun hx => ?_); (on_goal 1 => (unfold x; clear x)); (on_goal 2 => clear_value x))
    | (extract_lets -underBinder -merge +onlyGivenNames x; guard_hyp x : SecSt)
    | (extract_lets -underBinder -merge +onlyGivenNames x; clear_value x)
    | with_reducible refine ite_keeps ?_ ?_
    | with_reducible apply State.domGo_keeps
    | with_reducible apply State.domUnquiesce_keeps
    | with_reducible refine foldl_keeps ?_ (fun _ _ _ => ?_)
    | split
    | with_reducible refine pair_keeps (by assumption) ?_
    | beta_reduce

theorem execDozeExitDone_keeps {st0 : Inv} [st0.Writes] {s : State} (h : Keeps st0 s)   :
    ResKeeps st0 (execDozeExitDone s) := by
  unfold execDozeExitDone
  try with_reducible refine ResKeeps.next ?_
  repeat' first
    | with_reducible assumption
    | (extract_lets -underBinder -merge +onlyGivenNames x; refine keepCut (r := st0) (x := x) ?_ (fun hx => ?_); (on_goal 1 => (unfold x; clear x)); (on_goal 2 => clear_value x))
    | (extract_lets -underBinder -merge +onlyGivenNames x; guard_hyp x : SecSt)
    | (extract_lets -underBinder -merge +onlyGivenNames x; clear_value x)
    | with_reducible refine ite_keeps ?_ ?_
    | with_reducible apply State.raise_keeps
    | with_reducible apply State.dozeBack_keeps
    | with_reducible apply State.setMode_keeps
    | with_reducible apply State.setAll_keeps
    | with_reducible apply State.irq_keeps
    | with_reducible apply State.bump_keeps
    | with_reducible apply State.sample_keeps
    | with_reducible apply State.modPwr_keeps
    | with_reducible apply State.pwrNext_keeps
    | with_reducible refine ResKeeps.next ?_
    | split
    | (fail_if_no_progress (with_reducible apply Keeps.lit <;> try exact rfl))
    | with_reducible refine pair_keeps (by assumption) ?_
    | with_reducible refine snd_ite_keeps ?_ ?_
    | with_reducible refine snd_mk_keeps ?_
    | intro _
    | beta_reduce

theorem execDozeExitSlow_keeps {st0 : Inv} {s : State} (h : Keeps st0 s)   :
    ResKeeps st0 (execDozeExitSlow s) := by
  unfold execDozeExitSlow
  try with_reducible refine ResKeeps.next ?_
  repeat' first
    | with_reducible assumption
    | with_reducible refine ite_keeps ?_ ?_
    | with_reducible apply State.raise_keeps
    | with_reducible apply State.modPwr_keeps
    | with_reducible refine ResKeeps.next ?_
    | split
    | (fail_if_no_progress (with_reducible apply Keeps.lit <;> try exact rfl))
    | with_reducible refine pair_keeps (by assumption) ?_
    | with_reducible refine snd_ite_keeps ?_ ?_
    | with_reducible refine snd_mk_keeps ?_
    | intro _
    | beta_reduce

theorem execPllUnlock_keeps {st0 : Inv} {s : State} (h : Keeps st0 s) {n : Nat}  :
    ResKeeps st0 (execPllUnlock n s) := by
  unfold execPllUnlock
  try with_reducible refine ResKeeps.next ?_
  repeat' first
    | with_reducible assumption
    | (extract_lets -underBinder -merge +onlyGivenNames x; refine keepCut (r := st0) (x := x) ?_ (fun hx => ?_); (on_goal 1 => (unfold x; clear x)); (on_goal 2 => clear_value x))
    | (extract_lets -underBinder -merge +onlyGivenNames x; guard_hyp x : SecSt)
    | (extract_lets -underBinder -merge +onlyGivenNames x; clear_value x)
    | with_reducible refine ite_keeps ?_ ?_
    | with_reducible apply State.modPwr_keeps
    | with_reducible apply State.set_keeps
    | with_reducible apply State.bump_keeps
    | with_reducible apply State.raise_keeps
    | with_reducible refine ResKeeps.next ?_
    | with_reducible refine foldl_keeps ?_ (fun _ _ _ => ?_)
    | split
    | (fail_if_no_progress (with_reducible apply Keeps.lit <;> try exact rfl))
    | with_reducible refine pair_keeps (by assumption) ?_
    | with_reducible refine snd_ite_keeps ?_ ?_
    | with_reducible refine snd_mk_keeps ?_
    | intro _
    | beta_reduce

theorem execClkRefLoss_keeps {st0 : Inv} [st0.Writes] {s : State} (h : Keeps st0 s) {k : Nat}  :
    ResKeeps st0 (execClkRefLoss k s) := by
  unfold execClkRefLoss
  try with_reducible refine ResKeeps.next ?_
  repeat' first
    | with_reducible assumption
    | (extract_lets -underBinder -merge +onlyGivenNames x; refine keepCut (r := st0) (x := x) ?_ (fun hx => ?_); (on_goal 1 => (unfold x; clear x)); (on_goal 2 => clear_value x))
    | (extract_lets -underBinder -merge +onlyGivenNames x; guard_hyp x : SecSt)
    | (extract_lets -underBinder -merge +onlyGivenNames x; clear_value x)
    | with_reducible refine ite_keeps ?_ ?_
    | with_reducible apply State.modPwr_keeps
    | with_reducible apply State.setAll_keeps
    | with_reducible apply State.bump_keeps
    | with_reducible apply State.irq_keeps
    | with_reducible apply State.portLink_keeps
    | with_reducible apply State.linkDown_keeps
    | with_reducible apply State.bundleDown_keeps
    | with_reducible apply State.raiseAt_keeps
    | with_reducible apply State.raise_keeps
    | with_reducible refine ResKeeps.next ?_
    | with_reducible refine foldl_keeps ?_ (fun _ _ _ => ?_)
    | split
    | (fail_if_no_progress (with_reducible apply Keeps.lit <;> try exact rfl))
    | with_reducible refine pair_keeps (by assumption) ?_
    | with_reducible refine snd_ite_keeps ?_ ?_
    | with_reducible refine snd_mk_keeps ?_
    | intro _
    | beta_reduce

theorem execClkRefReturn_keeps {st0 : Inv} {s : State} (h : Keeps st0 s) {k : Nat}  :
    ResKeeps st0 (execClkRefReturn k s) := by
  unfold execClkRefReturn
  try with_reducible refine ResKeeps.next ?_
  repeat' first
    | with_reducible assumption
    | (extract_lets -underBinder -merge +onlyGivenNames x; refine keepCut (r := st0) (x := x) ?_ (fun hx => ?_); (on_goal 1 => (unfold x; clear x)); (on_goal 2 => clear_value x))
    | (extract_lets -underBinder -merge +onlyGivenNames x; guard_hyp x : SecSt)
    | (extract_lets -underBinder -merge +onlyGivenNames x; clear_value x)
    | with_reducible refine ite_keeps ?_ ?_
    | with_reducible apply State.modPwr_keeps
    | with_reducible apply State.set_keeps
    | with_reducible apply State.bump_keeps
    | with_reducible apply State.linkTo_keeps
    | with_reducible apply State.bundleTimers_keeps
    | with_reducible refine ResKeeps.next ?_
    | with_reducible refine foldl_keeps ?_ (fun _ _ _ => ?_)
    | split
    | (fail_if_no_progress (with_reducible apply Keeps.lit <;> try exact rfl))
    | with_reducible refine pair_keeps (by assumption) ?_
    | intro _
    | beta_reduce

theorem State.pwrStop_keeps {st0 : Inv} {s : State} (h : Keeps st0 s)   :
    Keeps st0 (State.pwrStop s) := by
  unfold State.pwrStop
  repeat' first
    | with_reducible assumption
    | (extract_lets -underBinder -merge +onlyGivenNames x; refine keepCut (r := st0) (x := x) ?_ (fun hx => ?_); (on_goal 1 => (unfold x; clear x)); (on_goal 2 => clear_value x))
    | (extract_lets -underBinder -merge +onlyGivenNames x; guard_hyp x : SecSt)
    | (extract_lets -underBinder -merge +onlyGivenNames x; clear_value x)
    | with_reducible refine ite_keeps ?_ ?_
    | with_reducible apply State.modPwr_keeps
    | with_reducible apply State.pwrResult_keeps
    | with_reducible apply State.set_keeps
    | split
    | (fail_if_no_progress (with_reducible apply Keeps.lit <;> try exact rfl))
    | with_reducible refine pair_keeps (by assumption) ?_
    | intro _
    | beta_reduce

theorem State.vaultGo_keeps {st0 : Inv} [st0.Writes] {s : State} (h : Keeps st0 s)   :
    Keeps st0 (State.vaultGo s) := by
  unfold State.vaultGo
  repeat' first
    | with_reducible assumption
    | (extract_lets -underBinder -merge +onlyGivenNames x; refine keepCut (r := st0) (x := x) ?_ (fun hx => ?_); (on_goal 1 => (unfold x; clear x)); (on_goal 2 => clear_value x))
    | (extract_lets -underBinder -merge +onlyGivenNames x; guard_hyp x : SecSt)
    | (extract_lets -underBinder -merge +onlyGivenNames x; clear_value x)
    | with_reducible refine ite_keeps ?_ ?_
    | with_reducible apply State.setMode_keeps
    | with_reducible apply State.endWork_keeps
    | with_reducible apply State.setAll_keeps
    | with_reducible apply State.release_keeps
    | with_reducible apply State.sendMode_keeps
    | with_reducible apply State.domGo_keeps
    | with_reducible apply State.vaultClose_keeps
    | with_reducible apply State.set_keeps
    | with_reducible apply State.dumpBegin_keeps
    | with_reducible refine foldl_keeps ?_ (fun _ _ _ => ?_)
    | split
    | (fail_if_no_progress (with_reducible apply Keeps.lit <;> try exact rfl))
    | with_reducible refine pair_keeps (by assumption) ?_
    | intro _
    | beta_reduce

theorem execPfailRecognised_keeps {st0 : Inv} [st0.Writes] {s : State} (h : Keeps st0 s) {ns : Nat} {ticks : Nat} {startUs : Nat}  :
    ResKeeps st0 (execPfailRecognised ns ticks startUs s) := by
  unfold execPfailRecognised
  try with_reducible refine ResKeeps.next ?_
  repeat' first
    | with_reducible assumption
    | (extract_lets -underBinder -merge +onlyGivenNames x; refine keepCut (r := st0) (x := x) ?_ (fun hx => ?_); (on_goal 1 => (unfold x; clear x)); (on_goal 2 => clear_value x))
    | (extract_lets -underBinder -merge +onlyGivenNames x; guard_hyp x : SecSt)
    | (extract_lets -underBinder -merge +onlyGivenNames x; clear_value x)
    | with_reducible refine ite_keeps ?_ ?_
    | with_reducible apply State.domGo_keeps
    | with_reducible apply State.clocksStart_keeps
    | with_reducible apply State.setAll_keeps
    | with_reducible apply State.raise_keeps
    | with_reducible apply State.bump_keeps
    | with_reducible apply State.pwrStop_keeps
    | with_reducible apply State.vaultGo_keeps
    | with_reducible refine ResKeeps.next ?_
    | with_reducible refine foldl_keeps ?_ (fun _ _ _ => ?_)
    | split
    | with_reducible refine pair_keeps (by assumption) ?_
    | with_reducible refine snd_ite_keeps ?_ ?_
    | with_reducible refine snd_mk_keeps ?_
    | intro _
    | beta_reduce

theorem execAonSrstReq_keeps {st0 : Inv} [st0.Clears] {s : State} (h : Keeps st0 s) {m : Nat}  :
    ResKeeps st0 (execAonSrstReq m s) := by
  unfold execAonSrstReq
  try with_reducible refine ResKeeps.next ?_
  repeat' first
    | with_reducible assumption
    | with_reducible refine State.busWr_keeps ?_ (fun _ _ => ?_)
    | with_reducible apply State.bump_keeps
    | with_reducible apply State.selfReset_keeps
    | with_reducible refine ResKeeps.next ?_
    | intro _
    | beta_reduce

theorem execFatalResetTimer_keeps {r : Inv} [r.Clears] {s : State} (h : Keeps r s) : ResKeeps r (execFatalResetTimer s) := by
  unfold execFatalResetTimer
  refine ResKeeps.next ?_
  split
  · exact h
  · refine ite_keeps (State.selfReset_keeps ?_) ?_
    · exact h.same rfl rfl rfl
    · exact h.same rfl rfl rfl

end Sys2Proof.Machine
end

