-- ==== Sys2Proof/Laws/KeepsHealth.lean ====
section
/-! SUPPORT. The operations and commands of Machine/Health.lean keep what a state is asked (Laws/Keeps.lean). -/

set_option linter.all false

namespace Sys2Proof.Machine

theorem State.modHealth_keeps {st0 : Inv} {s : State} (h : Keeps st0 s) {f : HealthSt → HealthSt}  :
    Keeps st0 (State.modHealth s f) := by
  unfold State.modHealth
  repeat' first
    | with_reducible assumption
    | (fail_if_no_progress (with_reducible apply Keeps.lit <;> try exact rfl))
    | beta_reduce

theorem execErqInject_keeps {st0 : Inv} {s : State} (h : Keeps st0 s) {m : Nat} {slot : Nat} {cond : Nat}  :
    ResKeeps st0 (execErqInject m slot cond s) := by
  unfold execErqInject
  try with_reducible refine ResKeeps.next ?_
  repeat' first
    | with_reducible assumption
    | with_reducible refine ite_keeps ?_ ?_
    | with_reducible refine State.busWr_keeps ?_ (fun _ _ => ?_)
    | with_reducible apply State.raise_keeps
    | with_reducible refine ResKeeps.next ?_
    | split
    | with_reducible refine pair_keeps (by assumption) ?_
    | with_reducible refine snd_ite_keeps ?_ ?_
    | with_reducible refine snd_mk_keeps ?_
    | intro _
    | beta_reduce

theorem State.jobFault_keeps {st0 : Inv} {s : State} (h : Keeps st0 s) {tag : Nat} :
    Keeps st0 (State.jobFault s tag) := by
  unfold State.jobFault
  repeat' first
    | with_reducible assumption
    | (extract_lets -underBinder -merge +onlyGivenNames x; refine keepCut (r := st0) (x := x) ?_ (fun hx => ?_); (on_goal 1 => (unfold x; clear x)); (on_goal 2 => clear_value x))
    | (extract_lets -underBinder -merge +onlyGivenNames x; guard_hyp x : SecSt)
    | (extract_lets -underBinder -merge +onlyGivenNames x; clear_value x)
    | with_reducible refine ite_keeps ?_ ?_
    | with_reducible apply State.dropReq_keeps
    | with_reducible apply State.bump_keeps
    | with_reducible apply State.prefetch_keeps
    | with_reducible apply State.readFail_keeps
    | with_reducible apply State.wakeHeld_keeps
    | split
    | (fail_if_no_progress (with_reducible apply Keeps.lit <;> try exact rfl))
    | with_reducible refine snd_ite_keeps ?_ ?_
    | with_reducible refine snd_mk_keeps ?_
    | with_reducible refine pair_keeps (by assumption) ?_
    | intro _
    | beta_reduce

theorem execMemoryEccError_keeps {st0 : Inv} {s : State} (h : Keeps st0 s) {kind : Nat} {slot : Nat} {addr : Nat} {tag : Nat} {spare : Bool}  :
    ResKeeps st0 (execMemoryEccError kind slot addr tag spare s) := by
  unfold execMemoryEccError
  try with_reducible refine ResKeeps.next ?_
  repeat' first
    | with_reducible assumption
    | (extract_lets -underBinder -merge +onlyGivenNames x; refine keepCut (r := st0) (x := x) ?_ (fun hx => ?_); (on_goal 1 => (unfold x; clear x)); (on_goal 2 => clear_value x))
    | (extract_lets -underBinder -merge +onlyGivenNames x; guard_hyp x : SecSt)
    | (extract_lets -underBinder -merge +onlyGivenNames x; clear_value x)
    | with_reducible refine ite_keeps ?_ ?_
    | with_reducible apply State.raise_keeps
    | with_reducible apply State.jobFault_keeps
    | with_reducible apply State.setUnit_keeps
    | with_reducible apply State.satInc_keeps
    | with_reducible refine ResKeeps.next ?_
    | split
    | (fail_if_no_progress (with_reducible apply Keeps.lit <;> try exact rfl))
    | with_reducible refine pair_keeps (by assumption) ?_
    | with_reducible refine snd_ite_keeps ?_ ?_
    | with_reducible refine snd_mk_keeps ?_
    | beta_reduce

theorem State.evrStore_keeps {st0 : Inv} {s : State} (h : Keeps st0 s) {e : Nat} {x : EvrEpoch}  :
    Keeps st0 (State.evrStore s e x) := by
  unfold State.evrStore
  repeat' first
    | with_reducible assumption
    | with_reducible refine ite_keeps ?_ ?_
    | with_reducible apply State.modHealth_keeps
    | split
    | (fail_if_no_progress (with_reducible apply Keeps.lit <;> try exact rfl))
    | with_reducible refine pair_keeps (by assumption) ?_
    | intro _
    | beta_reduce

theorem State.evrEnd_keeps {st0 : Inv} {s : State} (h : Keeps st0 s) {fails : Nat} {written : Bool} :
    Keeps st0 (State.evrEnd s fails written) := by
  unfold State.evrEnd
  repeat' first
    | with_reducible assumption
    | (extract_lets -underBinder -merge +onlyGivenNames x; refine keepCut (r := st0) (x := x) ?_ (fun hx => ?_); (on_goal 1 => (unfold x; clear x)); (on_goal 2 => clear_value x))
    | (extract_lets -underBinder -merge +onlyGivenNames x; guard_hyp x : SecSt)
    | (extract_lets -underBinder -merge +onlyGivenNames x; clear_value x)
    | with_reducible refine ite_keeps ?_ ?_
    | with_reducible apply State.sysCopies_keeps
    | with_reducible apply State.sysWrite_keeps
    | with_reducible apply State.modHealth_keeps
    | with_reducible apply State.evrStore_keeps
    | with_reducible apply State.bump_keeps
    | with_reducible apply State.setAll_keeps
    | with_reducible apply State.raise_keeps
    | with_reducible refine foldl_keeps ?_ (fun _ _ _ => ?_)
    | split
    | (fail_if_no_progress (with_reducible apply Keeps.lit <;> try exact rfl))
    | with_reducible refine snd_ite_keeps ?_ ?_
    | with_reducible refine snd_mk_keeps ?_
    | with_reducible refine pair_keeps (by assumption) ?_
    | intro _
    | beta_reduce

theorem State.ageShow_keeps {st0 : Inv} {s : State} (h : Keeps st0 s) {n : Nat}  :
    Keeps st0 (State.ageShow s n) := by
  unfold State.ageShow
  repeat' first
    | with_reducible assumption
    | (extract_lets -underBinder -merge +onlyGivenNames x; refine keepCut (r := st0) (x := x) ?_ (fun hx => ?_); (on_goal 1 => (unfold x; clear x)); (on_goal 2 => clear_value x))
    | (extract_lets -underBinder -merge +onlyGivenNames x; guard_hyp x : SecSt)
    | (extract_lets -underBinder -merge +onlyGivenNames x; clear_value x)
    | with_reducible apply State.setAll_keeps
    | beta_reduce

theorem State.agePredict_keeps {st0 : Inv} {s : State} (h : Keeps st0 s) {n : Nat}  :
    Keeps st0 (State.agePredict s n) := by
  unfold State.agePredict
  repeat' first
    | with_reducible assumption
    | (extract_lets -underBinder -merge +onlyGivenNames x; refine keepCut (r := st0) (x := x) ?_ (fun hx => ?_); (on_goal 1 => (unfold x; clear x)); (on_goal 2 => clear_value x))
    | (extract_lets -underBinder -merge +onlyGivenNames x; guard_hyp x : SecSt)
    | (extract_lets -underBinder -merge +onlyGivenNames x; clear_value x)
    | with_reducible refine ite_keeps ?_ ?_
    | with_reducible apply State.ageShow_keeps
    | with_reducible apply State.setAll_keeps
    | with_reducible apply State.raise_keeps
    | with_reducible apply State.irq_keeps
    | split
    | with_reducible refine pair_keeps (by assumption) ?_
    | with_reducible refine snd_ite_keeps ?_ ?_
    | with_reducible refine snd_mk_keeps ?_
    | intro _
    | beta_reduce

theorem execEvrEpochEnd_keeps {st0 : Inv} {s : State} (h : Keeps st0 s) {fails : Nat} {written : Bool}  :
    ResKeeps st0 (execEvrEpochEnd fails written s) := by
  unfold execEvrEpochEnd
  try with_reducible refine ResKeeps.next ?_
  repeat' first
    | with_reducible assumption
    | with_reducible refine ite_keeps ?_ ?_
    | with_reducible apply State.agePredict_keeps
    | with_reducible apply State.evrEnd_keeps
    | with_reducible refine ResKeeps.next ?_
    | with_reducible refine foldl_keeps ?_ (fun _ _ _ => ?_)
    | split
    | with_reducible refine pair_keeps (by assumption) ?_
    | intro _
    | beta_reduce

theorem execAgeSample_keeps {st0 : Inv} {s : State} (h : Keeps st0 s) {n : Nat} {margin : Nat}  :
    ResKeeps st0 (execAgeSample n margin s) := by
  unfold execAgeSample
  try with_reducible refine ResKeeps.next ?_
  repeat' first
    | with_reducible assumption
    | (extract_lets -underBinder -merge +onlyGivenNames x; refine keepCut (r := st0) (x := x) ?_ (fun hx => ?_); (on_goal 1 => (unfold x; clear x)); (on_goal 2 => clear_value x))
    | (extract_lets -underBinder -merge +onlyGivenNames x; guard_hyp x : SecSt)
    | (extract_lets -underBinder -merge +onlyGivenNames x; clear_value x)
    | with_reducible refine ite_keeps ?_ ?_
    | with_reducible apply State.set_keeps
    | with_reducible apply State.bump_keeps
    | with_reducible apply State.ageShow_keeps
    | with_reducible apply State.sample_keeps
    | with_reducible refine ResKeeps.next ?_
    | split
    | with_reducible refine pair_keeps (by assumption) ?_
    | beta_reduce

theorem execEvrSample_keeps {st0 : Inv} {s : State} (h : Keeps st0 s) {m : Nat} {metric : Nat} {value : Nat}  :
    ResKeeps st0 (execEvrSample m metric value s) := by
  unfold execEvrSample
  try with_reducible refine ResKeeps.next ?_
  repeat' first
    | with_reducible assumption
    | with_reducible refine ite_keeps ?_ ?_
    | with_reducible refine State.busWr_keeps ?_ (fun _ _ => ?_)
    | with_reducible apply State.raise_keeps
    | with_reducible apply State.sample_keeps
    | with_reducible refine ResKeeps.next ?_
    | split
    | with_reducible refine pair_keeps (by assumption) ?_
    | with_reducible refine snd_ite_keeps ?_ ?_
    | with_reducible refine snd_mk_keeps ?_
    | intro _
    | beta_reduce

theorem State.cursorTo_keeps {st0 : Inv} {s : State} (h : Keeps st0 s) {area : Nat} {epoch : Nat} {metric : Nat}  :
    Keeps st0 (State.cursorTo s area epoch metric) := by
  unfold State.cursorTo
  repeat' first
    | with_reducible assumption
    | with_reducible apply State.setAll_keeps
    | with_reducible apply State.modHealth_keeps
    | (fail_if_no_progress (with_reducible apply Keeps.lit <;> try exact rfl))
    | intro _
    | beta_reduce

theorem execEvrCursorWrite_keeps {st0 : Inv} {s : State} (h : Keeps st0 s) {m : Nat} {area : Nat} {epoch : Nat} {metric : Nat}  :
    ResKeeps st0 (execEvrCursorWrite m area epoch metric s) := by
  unfold execEvrCursorWrite
  try with_reducible refine ResKeeps.next ?_
  repeat' first
    | with_reducible assumption
    | with_reducible refine State.busWr_keeps ?_ (fun _ _ => ?_)
    | with_reducible apply State.cursorTo_keeps
    | with_reducible refine ResKeeps.next ?_
    | intro _
    | beta_reduce

theorem execEvrWindowLoaded_keeps {st0 : Inv} {s : State} (h : Keeps st0 s)   :
    ResKeeps st0 (execEvrWindowLoaded s) := by
  unfold execEvrWindowLoaded
  try with_reducible refine ResKeeps.next ?_
  repeat' first
    | with_reducible assumption
    | (extract_lets -underBinder -merge +onlyGivenNames x; refine keepCut (r := st0) (x := x) ?_ (fun hx => ?_); (on_goal 1 => (unfold x; clear x)); (on_goal 2 => clear_value x))
    | (extract_lets -underBinder -merge +onlyGivenNames x; guard_hyp x : SecSt)
    | (extract_lets -underBinder -merge +onlyGivenNames x; clear_value x)
    | with_reducible refine ite_keeps ?_ ?_
    | with_reducible apply State.setAll_keeps
    | with_reducible apply State.modHealth_keeps
    | with_reducible refine ResKeeps.next ?_
    | split
    | (fail_if_no_progress (with_reducible apply Keeps.lit <;> try exact rfl))
    | with_reducible refine pair_keeps (by assumption) ?_
    | intro _
    | beta_reduce

theorem execEvrWinRead_keeps {st0 : Inv} {s : State} (h : Keeps st0 s) {m : Nat} {k : Nat}  :
    ResKeeps st0 (execEvrWinRead m k s) := by
  unfold execEvrWinRead
  try with_reducible refine ResKeeps.next ?_
  repeat' first
    | with_reducible assumption
    | (extract_lets -underBinder -merge +onlyGivenNames x; refine keepCut (r := st0) (x := x) ?_ (fun hx => ?_); (on_goal 1 => (unfold x; clear x)); (on_goal 2 => clear_value x))
    | (extract_lets -underBinder -merge +onlyGivenNames x; guard_hyp x : SecSt)
    | (extract_lets -underBinder -merge +onlyGivenNames x; clear_value x)
    | with_reducible refine ite_keeps ?_ ?_
    | with_reducible refine State.busRd_keeps ?_ (fun _ _ => ?_)
    | with_reducible apply State.answer_keeps
    | with_reducible apply State.bump_keeps
    | with_reducible apply State.cursorTo_keeps
    | with_reducible refine ResKeeps.next ?_
    | split
    | with_reducible refine pair_keeps (by assumption) ?_
    | intro _
    | beta_reduce

theorem State.clrChal_keeps {st0 : Inv} {s : State} (h : Keeps st0 s)  :
    Keeps st0 (State.clrChal s) := by
  unfold State.clrChal
  repeat' first
    | with_reducible assumption
    | (extract_lets -underBinder -merge +onlyGivenNames x; refine keepCut (r := st0) (x := x) ?_ (fun hx => ?_); (on_goal 1 => (unfold x; clear x)); (on_goal 2 => clear_value x))
    | (extract_lets -underBinder -merge +onlyGivenNames x; guard_hyp x : SecSt)
    | (extract_lets -underBinder -merge +onlyGivenNames x; clear_value x)
    | with_reducible apply State.modHealth_keeps
    | with_reducible apply State.set_keeps
    | with_reducible apply State.answer_keeps
    | with_reducible apply State.draw256_keeps
    | with_reducible refine foldl_keeps ?_ (fun _ _ _ => ?_)
    | split
    | (fail_if_no_progress (with_reducible apply Keeps.lit <;> try exact rfl))
    | with_reducible refine snd_ite_keeps ?_ ?_
    | with_reducible refine snd_mk_keeps ?_
    | with_reducible refine pair_keeps (by assumption) ?_
    | intro _
    | beta_reduce

theorem execEvrClrChalRead_keeps {st0 : Inv} {s : State} (h : Keeps st0 s) {m : Nat} :
    ResKeeps st0 (execEvrClrChalRead m s) := by
  unfold execEvrClrChalRead
  try with_reducible refine ResKeeps.next ?_
  repeat' first
    | with_reducible assumption
    | with_reducible refine ite_keeps ?_ ?_
    | with_reducible refine ResKeeps.next ?_
    | with_reducible apply State.modHealth_keeps
    | with_reducible refine State.busRd_keeps ?_ (fun _ _ => ?_)
    | with_reducible apply State.clrChal_keeps
    | split
    | (fail_if_no_progress (with_reducible apply Keeps.lit <;> try exact rfl))
    | with_reducible refine snd_ite_keeps ?_ ?_
    | with_reducible refine snd_mk_keeps ?_
    | with_reducible refine pair_keeps (by assumption) ?_
    | intro _
    | beta_reduce

theorem State.clrEnd_keeps {st0 : Inv} {s : State} (h : Keeps st0 s) {result : Nat} {cond : Nat}  :
    Keeps st0 (State.clrEnd s result cond) := by
  unfold State.clrEnd
  repeat' first
    | with_reducible assumption
    | (extract_lets -underBinder -merge +onlyGivenNames x; refine keepCut (r := st0) (x := x) ?_ (fun hx => ?_); (on_goal 1 => (unfold x; clear x)); (on_goal 2 => clear_value x))
    | (extract_lets -underBinder -merge +onlyGivenNames x; guard_hyp x : SecSt)
    | (extract_lets -underBinder -merge +onlyGivenNames x; clear_value x)
    | with_reducible refine ite_keeps ?_ ?_
    | with_reducible apply State.setAll_keeps
    | with_reducible apply State.irq_keeps
    | with_reducible apply State.bump_keeps
    | with_reducible apply State.modHealth_keeps
    | split
    | (fail_if_no_progress (with_reducible apply Keeps.lit <;> try exact rfl))
    | with_reducible refine pair_keeps (by assumption) ?_
    | intro _
    | beta_reduce

theorem execEvrClrReq_keeps {st0 : Inv} {s : State} (h : Keeps st0 s) {m : Nat} {addr : Nat}  :
    ResKeeps st0 (execEvrClrReq m addr s) := by
  unfold execEvrClrReq
  try with_reducible refine ResKeeps.next ?_
  repeat' first
    | with_reducible assumption
    | (extract_lets -underBinder -merge +onlyGivenNames x; refine keepCut (r := st0) (x := x) ?_ (fun hx => ?_); (on_goal 1 => (unfold x; clear x)); (on_goal 2 => clear_value x))
    | (extract_lets -underBinder -merge +onlyGivenNames x; guard_hyp x : SecSt)
    | (extract_lets -underBinder -merge +onlyGivenNames x; clear_value x)
    | with_reducible refine ite_keeps ?_ ?_
    | with_reducible refine State.busWr_keeps ?_ (fun _ _ => ?_)
    | with_reducible apply State.raise_keeps
    | with_reducible apply State.bump_keeps
    | with_reducible apply State.modHealth_keeps
    | with_reducible apply State.clrEnd_keeps
    | with_reducible apply State.setAll_keeps
    | with_reducible apply State.set_keeps
    | with_reducible refine ResKeeps.next ?_
    | with_reducible refine foldl_keeps ?_ (fun _ _ _ => ?_)
    | split
    | (fail_if_no_progress (with_reducible apply Keeps.lit <;> try exact rfl))
    | with_reducible refine pair_keeps (by assumption) ?_
    | with_reducible refine snd_ite_keeps ?_ ?_
    | with_reducible refine snd_mk_keeps ?_
    | intro _
    | beta_reduce

theorem State.secClearEnd_keeps {st0 : Inv} {s : State} (h : Keeps st0 s) {ok : Bool} {cond : Nat}  :
    Keeps st0 (State.secClearEnd s ok cond) := by
  unfold State.secClearEnd
  repeat' first
    | with_reducible assumption
    | (extract_lets -underBinder -merge +onlyGivenNames x; refine keepCut (r := st0) (x := x) ?_ (fun hx => ?_); (on_goal 1 => (unfold x; clear x)); (on_goal 2 => clear_value x))
    | (extract_lets -underBinder -merge +onlyGivenNames x; guard_hyp x : SecSt)
    | (extract_lets -underBinder -merge +onlyGivenNames x; clear_value x)
    | with_reducible refine ite_keeps ?_ ?_
    | with_reducible apply State.set_keeps
    | with_reducible apply State.bump_keeps
    | with_reducible apply State.clrEnd_keeps
    | split
    | with_reducible refine pair_keeps (by assumption) ?_
    | beta_reduce

theorem execEvrSecClear_keeps {st0 : Inv} {s : State} (h : Keeps st0 s) {m : Nat} {written : Bool} :
    ResKeeps st0 (execEvrSecClear m written s) := by
  unfold execEvrSecClear
  try with_reducible refine ResKeeps.next ?_
  repeat' first
    | with_reducible assumption
    | (extract_lets -underBinder -merge +onlyGivenNames x; refine keepCut (r := st0) (x := x) ?_ (fun hx => ?_); (on_goal 1 => (unfold x; clear x)); (on_goal 2 => clear_value x))
    | (extract_lets -underBinder -merge +onlyGivenNames x; guard_hyp x : SecSt)
    | (extract_lets -underBinder -merge +onlyGivenNames x; clear_value x)
    | with_reducible refine ite_keeps ?_ ?_
    | with_reducible refine ResKeeps.next ?_
    | with_reducible apply State.sysWrite_keeps
    | with_reducible apply State.modHealth_keeps
    | with_reducible apply State.secClearEnd_keeps
    | with_reducible apply State.bump_keeps
    | with_reducible apply State.raise_keeps
    | with_reducible refine State.busWr_keeps ?_ (fun _ _ => ?_)
    | split
    | (fail_if_no_progress (with_reducible apply Keeps.lit <;> try exact rfl))
    | with_reducible refine snd_ite_keeps ?_ ?_
    | with_reducible refine snd_mk_keeps ?_
    | with_reducible refine pair_keeps (by assumption) ?_
    | intro _
    | beta_reduce

theorem State.tempIs_keeps {st0 : Inv} {s : State} (h : Keeps st0 s) {k : Nat} {t : Int}  :
    Keeps st0 (State.tempIs s k t) := by
  unfold State.tempIs
  repeat' first
    | with_reducible assumption
    | with_reducible refine ite_keeps ?_ ?_
    | with_reducible apply State.modHealth_keeps
    | split
    | (fail_if_no_progress (with_reducible apply Keeps.lit <;> try exact rfl))
    | with_reducible refine pair_keeps (by assumption) ?_
    | intro _
    | beta_reduce

theorem execThermalWarning_keeps {st0 : Inv} {s : State} (h : Keeps st0 s) {sensor : Nat} {temp : Int}  :
    ResKeeps st0 (execThermalWarning sensor temp s) := by
  unfold execThermalWarning
  try with_reducible refine ResKeeps.next ?_
  repeat' first
    | with_reducible assumption
    | (extract_lets -underBinder -merge +onlyGivenNames x; refine keepCut (r := st0) (x := x) ?_ (fun hx => ?_); (on_goal 1 => (unfold x; clear x)); (on_goal 2 => clear_value x))
    | (extract_lets -underBinder -merge +onlyGivenNames x; guard_hyp x : SecSt)
    | (extract_lets -underBinder -merge +onlyGivenNames x; clear_value x)
    | with_reducible refine ite_keeps ?_ ?_
    | with_reducible apply State.tempIs_keeps
    | with_reducible apply State.modHealth_keeps
    | with_reducible apply State.raise_keeps
    | with_reducible apply State.wake_keeps
    | with_reducible refine ResKeeps.next ?_
    | split
    | (fail_if_no_progress (with_reducible apply Keeps.lit <;> try exact rfl))
    | with_reducible refine pair_keeps (by assumption) ?_
    | with_reducible refine snd_ite_keeps ?_ ?_
    | with_reducible refine snd_mk_keeps ?_
    | intro _
    | beta_reduce

theorem execThermalWarningClear_keeps {st0 : Inv} {s : State} (h : Keeps st0 s) {sensor : Nat} {temp : Int}  :
    ResKeeps st0 (execThermalWarningClear sensor temp s) := by
  unfold execThermalWarningClear
  try with_reducible refine ResKeeps.next ?_
  repeat' first
    | with_reducible assumption
    | (extract_lets -underBinder -merge +onlyGivenNames x; refine keepCut (r := st0) (x := x) ?_ (fun hx => ?_); (on_goal 1 => (unfold x; clear x)); (on_goal 2 => clear_value x))
    | (extract_lets -underBinder -merge +onlyGivenNames x; guard_hyp x : SecSt)
    | (extract_lets -underBinder -merge +onlyGivenNames x; clear_value x)
    | with_reducible refine ite_keeps ?_ ?_
    | with_reducible apply State.tempIs_keeps
    | with_reducible apply State.modHealth_keeps
    | with_reducible apply State.set_keeps
    | with_reducible refine ResKeeps.next ?_
    | split
    | (fail_if_no_progress (with_reducible apply Keeps.lit <;> try exact rfl))
    | with_reducible refine pair_keeps (by assumption) ?_
    | intro _
    | beta_reduce

theorem execThermalShutdown_keeps {st0 : Inv} {s : State} (h : Keeps st0 s) {sensor : Nat} {temp : Int}  :
    ResKeeps st0 (execThermalShutdown sensor temp s) := by
  unfold execThermalShutdown
  try with_reducible refine ResKeeps.next ?_
  repeat' first
    | with_reducible assumption
    | (extract_lets -underBinder -merge +onlyGivenNames x; refine keepCut (r := st0) (x := x) ?_ (fun hx => ?_); (on_goal 1 => (unfold x; clear x)); (on_goal 2 => clear_value x))
    | (extract_lets -underBinder -merge +onlyGivenNames x; guard_hyp x : SecSt)
    | (extract_lets -underBinder -merge +onlyGivenNames x; clear_value x)
    | with_reducible refine ite_keeps ?_ ?_
    | with_reducible apply State.tempIs_keeps
    | with_reducible apply State.raise_keeps
    | with_reducible refine ResKeeps.next ?_
    | split
    | with_reducible refine pair_keeps (by assumption) ?_
    | with_reducible refine snd_ite_keeps ?_ ?_
    | with_reducible refine snd_mk_keeps ?_
    | beta_reduce

theorem execThermalTrip_keeps {st0 : Inv} [st0.Clears] {s : State} (h : Keeps st0 s) {sensor : Nat} {temp : Int} :
    ResKeeps st0 (execThermalTrip sensor temp s) := by
  unfold execThermalTrip
  try with_reducible refine ResKeeps.next ?_
  repeat' first
    | with_reducible assumption
    | (extract_lets -underBinder -merge +onlyGivenNames x; refine keepCut (r := st0) (x := x) ?_ (fun hx => ?_); (on_goal 1 => (unfold x; clear x)); (on_goal 2 => clear_value x))
    | (extract_lets -underBinder -merge +onlyGivenNames x; guard_hyp x : SecSt)
    | (extract_lets -underBinder -merge +onlyGivenNames x; clear_value x)
    | with_reducible refine ite_keeps ?_ ?_
    | with_reducible refine ResKeeps.next ?_
    | with_reducible apply State.tempIs_keeps
    | with_reducible apply State.set_keeps
    | with_reducible apply State.resetHead_keeps
    | with_reducible apply State.holdDomains_keeps
    | split
    | (fail_if_no_progress (with_reducible apply Keeps.lit <;> try exact rfl))
    | with_reducible refine snd_ite_keeps ?_ ?_
    | with_reducible refine snd_mk_keeps ?_
    | with_reducible refine pair_keeps (by assumption) ?_
    | intro _
    | beta_reduce

end Sys2Proof.Machine
end

