-- ==== Sys2Proof/Laws/KeepsTest.lean ====
section
/-! SUPPORT. The operations and commands of Machine/Test.lean keep what a state is asked (Laws/Keeps.lean). -/

set_option linter.all false

namespace Sys2Proof.Machine

theorem State.modTest_keeps {st0 : Inv} {s : State} (h : Keeps st0 s) {q : Nat} {f : TstSt → TstSt}  :
    Keeps st0 (State.modTest s q f) := by
  unfold State.modTest
  repeat' first
    | with_reducible assumption
    | (fail_if_no_progress (with_reducible apply Keeps.lit <;> try exact rfl))
    | beta_reduce

theorem State.testCount_keeps {st0 : Inv} {s : State} (h : Keeps st0 s) {q : Nat} {n : Nat} {errs : Nat}  :
    Keeps st0 (State.testCount s q n errs) := by
  unfold State.testCount
  repeat' first
    | with_reducible assumption
    | (extract_lets -underBinder -merge +onlyGivenNames x; refine keepCut (r := st0) (x := x) ?_ (fun hx => ?_); (on_goal 1 => (unfold x; clear x)); (on_goal 2 => clear_value x))
    | (extract_lets -underBinder -merge +onlyGivenNames x; guard_hyp x : SecSt)
    | (extract_lets -underBinder -merge +onlyGivenNames x; clear_value x)
    | with_reducible apply State.bump_keeps
    | with_reducible apply State.satInc_keeps
    | with_reducible apply State.modTest_keeps
    | split
    | (fail_if_no_progress (with_reducible apply Keeps.lit <;> try exact rfl))
    | with_reducible refine pair_keeps (by assumption) ?_
    | intro _
    | beta_reduce

theorem State.testZero_keeps {st0 : Inv} {s : State} (h : Keeps st0 s) {q : Nat}  :
    Keeps st0 (State.testZero s q) := by
  unfold State.testZero
  repeat' first
    | with_reducible assumption
    | (extract_lets -underBinder -merge +onlyGivenNames x; refine keepCut (r := st0) (x := x) ?_ (fun hx => ?_); (on_goal 1 => (unfold x; clear x)); (on_goal 2 => clear_value x))
    | (extract_lets -underBinder -merge +onlyGivenNames x; guard_hyp x : SecSt)
    | (extract_lets -underBinder -merge +onlyGivenNames x; clear_value x)
    | with_reducible apply State.set_keeps
    | with_reducible apply State.modTest_keeps
    | with_reducible refine foldl_keeps ?_ (fun _ _ _ => ?_)
    | (fail_if_no_progress (with_reducible apply Keeps.lit <;> try exact rfl))
    | intro _
    | beta_reduce

theorem State.testRun_keeps {st0 : Inv} {s : State} (h : Keeps st0 s) {q : Nat}  :
    Keeps st0 (State.testRun s q) := by
  unfold State.testRun
  repeat' first
    | with_reducible assumption
    | (extract_lets -underBinder -merge +onlyGivenNames x; refine keepCut (r := st0) (x := x) ?_ (fun hx => ?_); (on_goal 1 => (unfold x; clear x)); (on_goal 2 => clear_value x))
    | (extract_lets -underBinder -merge +onlyGivenNames x; guard_hyp x : SecSt)
    | (extract_lets -underBinder -merge +onlyGivenNames x; clear_value x)
    | with_reducible refine ite_keeps ?_ ?_
    | with_reducible apply State.raise_keeps
    | with_reducible apply State.setAll_keeps
    | with_reducible apply State.testZero_keeps
    | with_reducible apply State.set_keeps
    | with_reducible apply State.modTest_keeps
    | split
    | (fail_if_no_progress (with_reducible apply Keeps.lit <;> try exact rfl))
    | with_reducible refine pair_keeps (by assumption) ?_
    | with_reducible refine snd_ite_keeps ?_ ?_
    | with_reducible refine snd_mk_keeps ?_
    | intro _
    | beta_reduce

theorem State.testTrain_keeps {st0 : Inv} {s : State} (h : Keeps st0 s) {q : Nat}  :
    Keeps st0 (State.testTrain s q) := by
  unfold State.testTrain
  repeat' first
    | with_reducible assumption
    | (extract_lets -underBinder -merge +onlyGivenNames x; refine keepCut (r := st0) (x := x) ?_ (fun hx => ?_); (on_goal 1 => (unfold x; clear x)); (on_goal 2 => clear_value x))
    | (extract_lets -underBinder -merge +onlyGivenNames x; guard_hyp x : SecSt)
    | (extract_lets -underBinder -merge +onlyGivenNames x; clear_value x)
    | with_reducible refine ite_keeps ?_ ?_
    | with_reducible apply State.setPort_keeps
    | with_reducible apply State.linkTrain_keeps
    | with_reducible apply State.bundleTimers_keeps
    | with_reducible refine foldl_keeps ?_ (fun _ _ _ => ?_)
    | split
    | with_reducible refine pair_keeps (by assumption) ?_
    | intro _
    | beta_reduce

theorem State.testStop_keeps {st0 : Inv} {s : State} (h : Keeps st0 s) {q : Nat} {errs : List Nat}  :
    Keeps st0 (State.testStop s q errs) := by
  unfold State.testStop
  repeat' first
    | with_reducible assumption
    | (extract_lets -underBinder -merge +onlyGivenNames x; refine keepCut (r := st0) (x := x) ?_ (fun hx => ?_); (on_goal 1 => (unfold x; clear x)); (on_goal 2 => clear_value x))
    | (extract_lets -underBinder -merge +onlyGivenNames x; guard_hyp x : SecSt)
    | (extract_lets -underBinder -merge +onlyGivenNames x; clear_value x)
    | with_reducible refine ite_keeps ?_ ?_
    | with_reducible apply State.testCount_keeps
    | with_reducible apply State.setAll_keeps
    | with_reducible apply State.modTest_keeps
    | with_reducible apply State.testTrain_keeps
    | with_reducible refine foldl_keeps ?_ (fun _ _ _ => ?_)
    | split
    | (fail_if_no_progress (with_reducible apply Keeps.lit <;> try exact rfl))
    | with_reducible refine pair_keeps (by assumption) ?_
    | intro _
    | beta_reduce

theorem State.testEye_keeps {st0 : Inv} {s : State} (h : Keeps st0 s) {q : Nat}  :
    Keeps st0 (State.testEye s q) := by
  unfold State.testEye
  repeat' first
    | with_reducible assumption
    | with_reducible refine ite_keeps ?_ ?_
    | with_reducible apply State.raise_keeps
    | with_reducible apply State.setAll_keeps
    | with_reducible apply State.modTest_keeps
    | split
    | (fail_if_no_progress (with_reducible apply Keeps.lit <;> try exact rfl))
    | with_reducible refine pair_keeps (by assumption) ?_
    | with_reducible refine snd_ite_keeps ?_ ?_
    | with_reducible refine snd_mk_keeps ?_
    | intro _
    | beta_reduce

theorem State.testCtl_keeps {st0 : Inv} {s : State} (h : Keeps st0 s) {q : Nat} {run : Bool} {clear : Bool} {eye : Bool} {errs : List Nat}  :
    Keeps st0 (State.testCtl s q run clear eye errs) := by
  unfold State.testCtl
  repeat' first
    | with_reducible assumption
    | (extract_lets -underBinder -merge +onlyGivenNames x; refine keepCut (r := st0) (x := x) ?_ (fun hx => ?_); (on_goal 1 => (unfold x; clear x)); (on_goal 2 => clear_value x))
    | (extract_lets -underBinder -merge +onlyGivenNames x; guard_hyp x : SecSt)
    | (extract_lets -underBinder -merge +onlyGivenNames x; clear_value x)
    | with_reducible refine ite_keeps ?_ ?_
    | with_reducible apply State.testRun_keeps
    | with_reducible apply State.testStop_keeps
    | with_reducible apply State.testZero_keeps
    | with_reducible apply State.testEye_keeps
    | split
    | with_reducible refine pair_keeps (by assumption) ?_
    | beta_reduce

theorem State.testBus_keeps {st0 : Inv} {s : State} (h : Keeps st0 s) {m : Nat} {q : Nat} {f : State → State} (hf : ∀ t, Keeps st0 t → Keeps st0 (f t)) :
    Keeps st0 (State.testBus s m q f) := by
  unfold State.testBus
  repeat' first
    | with_reducible assumption
    | with_reducible refine ite_keeps ?_ ?_
    | with_reducible refine State.busWr_keeps ?_ (fun _ _ => ?_)
    | with_reducible refine hf _ ?_
    | split
    | with_reducible refine pair_keeps (by assumption) ?_
    | beta_reduce

theorem execTstRun_keeps {st0 : Inv} {s : State} (h : Keeps st0 s) {m : Nat} {q : Nat}  :
    ResKeeps st0 (execTstRun m q s) := by
  unfold execTstRun
  try with_reducible refine ResKeeps.next ?_
  repeat' first
    | with_reducible assumption
    | with_reducible refine State.testBus_keeps ?_ (fun _ _ => ?_)
    | with_reducible apply State.testCtl_keeps
    | with_reducible refine ResKeeps.next ?_
    | intro _
    | beta_reduce

theorem execTstStop_keeps {st0 : Inv} {s : State} (h : Keeps st0 s) {m : Nat} {q : Nat} {errs : List Nat}  :
    ResKeeps st0 (execTstStop m q errs s) := by
  unfold execTstStop
  try with_reducible refine ResKeeps.next ?_
  repeat' first
    | with_reducible assumption
    | with_reducible refine State.testBus_keeps ?_ (fun _ _ => ?_)
    | with_reducible apply State.testCtl_keeps
    | with_reducible refine ResKeeps.next ?_
    | intro _
    | beta_reduce

theorem execTstClear_keeps {st0 : Inv} {s : State} (h : Keeps st0 s) {m : Nat} {q : Nat}  :
    ResKeeps st0 (execTstClear m q s) := by
  unfold execTstClear
  try with_reducible refine ResKeeps.next ?_
  repeat' first
    | with_reducible assumption
    | with_reducible refine State.testBus_keeps ?_ (fun _ _ => ?_)
    | with_reducible apply State.testCtl_keeps
    | with_reducible refine ResKeeps.next ?_
    | intro _
    | beta_reduce

theorem execTstEyeScan_keeps {st0 : Inv} {s : State} (h : Keeps st0 s) {m : Nat} {q : Nat}  :
    ResKeeps st0 (execTstEyeScan m q s) := by
  unfold execTstEyeScan
  try with_reducible refine ResKeeps.next ?_
  repeat' first
    | with_reducible assumption
    | with_reducible refine ite_keeps ?_ ?_
    | with_reducible refine State.testBus_keeps ?_ (fun _ _ => ?_)
    | with_reducible apply State.testCtl_keeps
    | with_reducible apply State.testEye_keeps
    | with_reducible refine ResKeeps.next ?_
    | split
    | with_reducible refine pair_keeps (by assumption) ?_
    | intro _
    | beta_reduce

theorem execTstEyeDone_keeps {st0 : Inv} [st0.Writes] {s : State} (h : Keeps st0 s) {q : Nat} {counts : List Nat}  :
    ResKeeps st0 (execTstEyeDone q counts s) := by
  unfold execTstEyeDone
  try with_reducible refine ResKeeps.next ?_
  repeat' first
    | with_reducible assumption
    | (extract_lets -underBinder -merge +onlyGivenNames x; refine keepCut (r := st0) (x := x) ?_ (fun hx => ?_); (on_goal 1 => (unfold x; clear x)); (on_goal 2 => clear_value x))
    | (extract_lets -underBinder -merge +onlyGivenNames x; guard_hyp x : SecSt)
    | (extract_lets -underBinder -merge +onlyGivenNames x; clear_value x)
    | with_reducible refine ite_keeps ?_ ?_
    | with_reducible apply State.putBytes_keeps
    | with_reducible apply State.setAll_keeps
    | with_reducible apply State.modTest_keeps
    | with_reducible apply State.irq_keeps
    | with_reducible refine ResKeeps.next ?_
    | split
    | (fail_if_no_progress (with_reducible apply Keeps.lit <;> try exact rfl))
    | with_reducible refine pair_keeps (by assumption) ?_
    | intro _
    | beta_reduce

theorem execTstCheckerLock_keeps {st0 : Inv} {s : State} (h : Keeps st0 s) {q : Nat} {n : Nat}  :
    ResKeeps st0 (execTstCheckerLock q n s) := by
  unfold execTstCheckerLock
  try with_reducible refine ResKeeps.next ?_
  repeat' first
    | with_reducible assumption
    | with_reducible refine ite_keeps ?_ ?_
    | with_reducible apply State.set_keeps
    | with_reducible apply State.modTest_keeps
    | with_reducible refine ResKeeps.next ?_
    | split
    | (fail_if_no_progress (with_reducible apply Keeps.lit <;> try exact rfl))
    | with_reducible refine pair_keeps (by assumption) ?_
    | intro _
    | beta_reduce

theorem execTstLockLoss_keeps {st0 : Inv} {s : State} (h : Keeps st0 s) {q : Nat} {n : Nat} {errs : Nat}  :
    ResKeeps st0 (execTstLockLoss q n errs s) := by
  unfold execTstLockLoss
  try with_reducible refine ResKeeps.next ?_
  repeat' first
    | with_reducible assumption
    | (extract_lets -underBinder -merge +onlyGivenNames x; refine keepCut (r := st0) (x := x) ?_ (fun hx => ?_); (on_goal 1 => (unfold x; clear x)); (on_goal 2 => clear_value x))
    | (extract_lets -underBinder -merge +onlyGivenNames x; guard_hyp x : SecSt)
    | (extract_lets -underBinder -merge +onlyGivenNames x; clear_value x)
    | with_reducible refine ite_keeps ?_ ?_
    | with_reducible apply State.testCount_keeps
    | with_reducible apply State.modTest_keeps
    | with_reducible apply State.setAll_keeps
    | with_reducible apply State.irq_keeps
    | with_reducible apply State.raise_keeps
    | with_reducible refine ResKeeps.next ?_
    | split
    | (fail_if_no_progress (with_reducible apply Keeps.lit <;> try exact rfl))
    | with_reducible refine pair_keeps (by assumption) ?_
    | with_reducible refine snd_ite_keeps ?_ ?_
    | with_reducible refine snd_mk_keeps ?_
    | intro _
    | beta_reduce

theorem State.tapOut_keeps {st0 : Inv} {s : State} (h : Keeps st0 s) {code : Nat} {args : List Nat}  :
    Keeps st0 (State.tapOut s code args) := by
  unfold State.tapOut
  repeat' first
    | with_reducible assumption
    | with_reducible apply State.send_keeps
    | (fail_if_no_progress (with_reducible apply Keeps.lit <;> try exact rfl))
    | beta_reduce

theorem State.tapScan_keeps {st0 : Inv} {s : State} (h : Keeps st0 s) {code : Nat} {levels : Nat} {value : Nat} {acts : Bool}  :
    Keeps st0 (State.tapScan s code levels value acts) := by
  unfold State.tapScan
  repeat' first
    | with_reducible assumption
    | with_reducible refine ite_keeps ?_ ?_
    | with_reducible apply State.tapOut_keeps
    | split
    | (fail_if_no_progress (with_reducible apply Keeps.lit <;> try exact rfl))
    | with_reducible refine pair_keeps (by assumption) ?_
    | beta_reduce

theorem execIdcode_keeps {st0 : Inv} {s : State} (h : Keeps st0 s)   :
    ResKeeps st0 (execIdcode s) := by
  unfold execIdcode
  try with_reducible refine ResKeeps.next ?_
  repeat' first
    | with_reducible assumption
    | with_reducible apply State.tapOut_keeps
    | with_reducible refine ResKeeps.next ?_
    | beta_reduce

theorem execSamplePreload_keeps {st0 : Inv} {s : State} (h : Keeps st0 s) {levels : Nat} {value : Nat}  :
    ResKeeps st0 (execSamplePreload levels value s) := by
  unfold execSamplePreload
  try with_reducible refine ResKeeps.next ?_
  repeat' first
    | with_reducible assumption
    | with_reducible apply State.tapScan_keeps
    | with_reducible refine ResKeeps.next ?_
    | beta_reduce

theorem execExtest_keeps {st0 : Inv} {s : State} (h : Keeps st0 s) {levels : Nat} {value : Nat}  :
    ResKeeps st0 (execExtest levels value s) := by
  unfold execExtest
  try with_reducible refine ResKeeps.next ?_
  repeat' first
    | with_reducible assumption
    | with_reducible apply State.tapScan_keeps
    | with_reducible refine ResKeeps.next ?_
    | beta_reduce

theorem execExtestPulse_keeps {st0 : Inv} {s : State} (h : Keeps st0 s) {levels : Nat} {value : Nat}  :
    ResKeeps st0 (execExtestPulse levels value s) := by
  unfold execExtestPulse
  try with_reducible refine ResKeeps.next ?_
  repeat' first
    | with_reducible assumption
    | with_reducible apply State.tapScan_keeps
    | with_reducible refine ResKeeps.next ?_
    | beta_reduce

theorem execExtestTrain_keeps {st0 : Inv} {s : State} (h : Keeps st0 s) {levels : Nat} {value : Nat}  :
    ResKeeps st0 (execExtestTrain levels value s) := by
  unfold execExtestTrain
  try with_reducible refine ResKeeps.next ?_
  repeat' first
    | with_reducible assumption
    | with_reducible apply State.tapScan_keeps
    | with_reducible refine ResKeeps.next ?_
    | beta_reduce

theorem execClamp_keeps {st0 : Inv} {s : State} (h : Keeps st0 s)   :
    ResKeeps st0 (execClamp s) := by
  unfold execClamp
  try with_reducible refine ResKeeps.next ?_
  repeat' first
    | with_reducible assumption
    | with_reducible apply State.tapOut_keeps
    | with_reducible refine ResKeeps.next ?_
    | beta_reduce

theorem execHighz_keeps {st0 : Inv} {s : State} (h : Keeps st0 s)   :
    ResKeeps st0 (execHighz s) := by
  unfold execHighz
  try with_reducible refine ResKeeps.next ?_
  repeat' first
    | with_reducible assumption
    | with_reducible apply State.tapOut_keeps
    | with_reducible refine ResKeeps.next ?_
    | beta_reduce

theorem execBypass_keeps {st0 : Inv} {s : State} (h : Keeps st0 s) {code : Nat}  :
    ResKeeps st0 (execBypass code s) := by
  unfold execBypass
  try with_reducible refine ResKeeps.next ?_
  repeat' first
    | with_reducible assumption
    | with_reducible apply State.tapOut_keeps
    | with_reducible refine ResKeeps.next ?_
    | beta_reduce

theorem execTapReset_keeps {st0 : Inv} {s : State} (h : Keeps st0 s)   :
    ResKeeps st0 (execTapReset s) := by
  unfold execTapReset
  try with_reducible refine ResKeeps.next ?_
  repeat' first
    | with_reducible assumption
    | with_reducible apply State.masterReset_keeps
    | with_reducible refine ResKeeps.next ?_
    | (fail_if_no_progress (with_reducible apply Keeps.lit <;> try exact rfl))
    | beta_reduce

theorem execDbgStat_keeps {st0 : Inv} {s : State} (h : Keeps st0 s)   :
    ResKeeps st0 (execDbgStat s) := by
  unfold execDbgStat
  try with_reducible refine ResKeeps.next ?_
  repeat' first
    | with_reducible assumption
    | with_reducible apply State.tapOut_keeps
    | with_reducible refine ResKeeps.next ?_
    | beta_reduce

theorem execDbgChal_keeps {r : Inv} {s : State} (h : Keeps r s) : ResKeeps r (execDbgChal s) := by
  unfold execDbgChal
  refine ResKeeps.next (ite_keeps ?_ ?_)
  · dsimp only
    exact State.tapOut_keeps (foldl_snd_keeps (p := (([] : List Nat), s)) h (fun q _ hq => State.free_keeps (w := 64) hq))
  · dsimp only
    exact State.tapOut_keeps (State.modSec_keeps (State.draw256_keeps h) rfl)

theorem State.keysEnd_keeps {st0 : Inv} [st0.Writes] {s : State} (h : Keeps st0 s) {a0 : Nat} :
    Keeps st0 (State.keysEnd a0 s) := by
  induction a0 generalizing s with
  | zero =>
    unfold State.keysEnd
    repeat' first
      | with_reducible assumption
      | with_reducible apply State.keyEnd_keeps
      | with_reducible apply ih
      | with_reducible refine snd_ite_keeps ?_ ?_
      | with_reducible refine snd_mk_keeps ?_
      | beta_reduce
  | succ n ih =>
    unfold State.keysEnd
    repeat' first
      | with_reducible assumption
      | with_reducible apply State.keyEnd_keeps
      | with_reducible apply ih
      | with_reducible refine snd_ite_keeps ?_ ?_
      | with_reducible refine snd_mk_keeps ?_
      | beta_reduce

theorem State.dbgUnlock_keeps {st0 : Inv} [st0.Writes] {s : State} (h : Keeps st0 s) {t : List Nat} {force : Bool} :
    Keeps st0 (State.dbgUnlock s t force) := by
  unfold State.dbgUnlock
  repeat' first
    | with_reducible assumption
    | (extract_lets -underBinder -merge +onlyGivenNames x; refine keepCut (r := st0) (x := x) ?_ (fun hx => ?_); (on_goal 1 => (unfold x; clear x)); (on_goal 2 => clear_value x))
    | (extract_lets -underBinder -merge +onlyGivenNames x; guard_hyp x : SecSt)
    | (extract_lets -underBinder -merge +onlyGivenNames x; clear_value x)
    | with_reducible apply State.dropReq_keeps
    | with_reducible apply State.setAll_keeps
    | with_reducible refine State.modSec_keeps ?_ rfl
    | with_reducible apply State.msrExtend_keeps
    | with_reducible apply State.msrLock_keeps
    | with_reducible apply State.keysEnd_keeps
    | split
    | (fail_if_no_progress (with_reducible apply Keeps.lit <;> try exact rfl))
    | with_reducible refine snd_ite_keeps ?_ ?_
    | with_reducible refine snd_mk_keeps ?_
    | with_reducible refine pair_keeps (by assumption) ?_
    | intro _
    | beta_reduce

theorem execDbgToken_keeps {st0 : Inv} [st0.Writes] {s : State} (h : Keeps st0 s) {bytes : List Nat}  :
    ResKeeps st0 (execDbgToken bytes s) := by
  unfold execDbgToken
  try with_reducible refine ResKeeps.next ?_
  dsimp only
  repeat' first
    | with_reducible assumption
    | (extract_lets -underBinder -merge +onlyGivenNames x; refine keepCut (r := st0) (x := x) ?_ (fun hx => ?_); (on_goal 1 => (unfold x; clear x)); (on_goal 2 => clear_value x))
    | (extract_lets -underBinder -merge +onlyGivenNames x; guard_hyp x : SecSt)
    | (extract_lets -underBinder -merge +onlyGivenNames x; clear_value x)
    | with_reducible refine ite_keeps ?_ ?_
    | with_reducible apply State.tapOut_keeps
    | with_reducible apply State.satInc_keeps
    | with_reducible apply State.raise_keeps
    | with_reducible apply State.dbgUnlock_keeps
    | with_reducible refine ResKeeps.next ?_
    | split
    | with_reducible refine pair_keeps (by assumption) ?_
    | with_reducible refine snd_ite_keeps ?_ ?_
    | with_reducible refine snd_mk_keeps ?_
    | beta_reduce

end Sys2Proof.Machine
end

