-- ==== Sys2Proof/Laws/KeepsUpdate.lean ====
section
/-! SUPPORT. The operations and commands of Machine/Update.lean keep what a state is asked (Laws/Keeps.lean). -/

set_option linter.all false

namespace Sys2Proof.Machine

theorem State.modBank_keeps {st0 : Inv} {s : State} (h : Keeps st0 s) {b : Nat} {f : Bank → Bank}  :
    Keeps st0 (State.modBank s b f) := by
  unfold State.modBank
  repeat' first
    | with_reducible assumption
    | with_reducible apply State.modFlash_keeps
    | (fail_if_no_progress (with_reducible apply Keeps.lit <;> try exact rfl))
    | intro _
    | beta_reduce

theorem State.updShow_keeps {st0 : Inv} {s : State} (h : Keeps st0 s)   :
    Keeps st0 (State.updShow s) := by
  unfold State.updShow
  repeat' first
    | with_reducible assumption
    | (extract_lets -underBinder -merge +onlyGivenNames x; refine keepCut (r := st0) (x := x) ?_ (fun hx => ?_); (on_goal 1 => (unfold x; clear x)); (on_goal 2 => clear_value x))
    | (extract_lets -underBinder -merge +onlyGivenNames x; guard_hyp x : SecSt)
    | (extract_lets -underBinder -merge +onlyGivenNames x; clear_value x)
    | with_reducible refine ite_keeps ?_ ?_
    | with_reducible apply State.setAll_keeps
    | with_reducible apply State.autoConfirm_keeps
    | with_reducible apply State.irq_keeps
    | with_reducible refine foldl_keeps ?_ (fun _ _ _ => ?_)
    | split
    | with_reducible refine pair_keeps (by assumption) ?_
    | intro _
    | beta_reduce

theorem State.updRaise_keeps {st0 : Inv} {s : State} (h : Keeps st0 s) {cond : Nat} {info : Nat}  :
    Keeps st0 (State.updRaise s cond info) := by
  unfold State.updRaise
  repeat' first
    | with_reducible assumption
    | with_reducible apply State.raise_keeps
    | with_reducible apply State.setAll_keeps
    | beta_reduce

theorem State.kslSend_keeps {st0 : Inv} {s : State} (h : Keeps st0 s) {typ : Nat} {args : List Nat}  :
    Keeps st0 (State.kslSend s typ args) := by
  unfold State.kslSend
  repeat' first
    | with_reducible assumption
    | with_reducible apply State.send_keeps
    | with_reducible apply State.bump_keeps
    | beta_reduce

theorem State.kslReply_keeps {st0 : Inv} {s : State} (h : Keeps st0 s) {typ : Nat} {seq : Nat} {args : List Nat}  :
    Keeps st0 (State.kslReply s typ seq args) := by
  unfold State.kslReply
  repeat' first
    | with_reducible assumption
    | with_reducible apply State.kslSend_keeps
    | with_reducible apply State.modFlash_keeps
    | (fail_if_no_progress (with_reducible apply Keeps.lit <;> try exact rfl))
    | intro _
    | beta_reduce

theorem State.kslResp_keeps {st0 : Inv} {s : State} (h : Keeps st0 s) {seq : Nat} {args : List Nat}  :
    Keeps st0 (State.kslResp s seq args) := by
  unfold State.kslResp
  repeat' first
    | with_reducible assumption
    | with_reducible apply State.kslReply_keeps
    | beta_reduce

theorem State.updEnd_keeps {st0 : Inv} [st0.Writes] {s : State} (h : Keeps st0 s) {cond : Nat} {words : List Nat}  :
    Keeps st0 (State.updEnd s cond words) := by
  unfold State.updEnd
  repeat' first
    | with_reducible assumption
    | (extract_lets -underBinder -merge +onlyGivenNames x; refine keepCut (r := st0) (x := x) ?_ (fun hx => ?_); (on_goal 1 => (unfold x; clear x)); (on_goal 2 => clear_value x))
    | (extract_lets -underBinder -merge +onlyGivenNames x; guard_hyp x : SecSt)
    | (extract_lets -underBinder -merge +onlyGivenNames x; clear_value x)
    | with_reducible refine ite_keeps ?_ ?_
    | with_reducible apply State.modMbx_keeps
    | with_reducible apply State.updRaise_keeps
    | with_reducible apply State.setAll_keeps
    | with_reducible apply State.irq_keeps
    | with_reducible apply State.kslResp_keeps
    | with_reducible apply State.modFlash_keeps
    | with_reducible apply State.blockCond_keeps
    | with_reducible apply State.mbxAnswer_keeps
    | with_reducible apply State.updShow_keeps
    | split
    | (fail_if_no_progress (with_reducible apply Keeps.lit <;> try exact rfl))
    | with_reducible refine pair_keeps (by assumption) ?_
    | intro _
    | beta_reduce

theorem State.updInvalid_keeps {st0 : Inv} [st0.Writes] {s : State} (h : Keeps st0 s) {a0 : Nat} :
    Keeps st0 (State.updInvalid a0 s) := by
  induction a0 generalizing s with
  | zero =>
    unfold State.updInvalid
    repeat' first
      | with_reducible assumption
      | with_reducible refine ite_keeps ?_ ?_
      | with_reducible apply State.updEnd_keeps
      | with_reducible apply ih
      | split
      | with_reducible refine pair_keeps (by assumption) ?_
      | with_reducible refine snd_ite_keeps ?_ ?_
      | with_reducible refine snd_mk_keeps ?_
      | beta_reduce
  | succ n ih =>
    unfold State.updInvalid
    repeat' first
      | with_reducible assumption
      | with_reducible refine ite_keeps ?_ ?_
      | with_reducible apply State.updEnd_keeps
      | with_reducible apply ih
      | split
      | with_reducible refine pair_keeps (by assumption) ?_
      | with_reducible refine snd_ite_keeps ?_ ?_
      | with_reducible refine snd_mk_keeps ?_
      | beta_reduce

theorem State.updRun_keeps {r : Inv} [r.Writes] {s : State} (h : Keeps r s) {op : Nat} {f : State → Nat → Nat → Nat → Option (Nat × List Nat × State)}
    (hf : ∀ t a b c, Keeps r t → UpdKeeps r (f t a b c)) : Keeps r (s.updRun op f) := by
  unfold State.updRun
  have g := State.updInvalid_keeps (a0 := s.mbx.updQ.length) h
  dsimp only
  split
  · refine ite_keeps g ?_
    split
    · exact g
    · rename_i e
      exact State.updEnd_keeps (hf _ _ _ _ g _ _ _ e)
  · exact g

theorem State.kslDrop_keeps {st0 : Inv} {s : State} (h : Keeps st0 s) {n : Nat}  :
    Keeps st0 (State.kslDrop s n) := by
  unfold State.kslDrop
  repeat' first
    | with_reducible assumption
    | with_reducible apply State.modFlash_keeps
    | (fail_if_no_progress (with_reducible apply Keeps.lit <;> try exact rfl))
    | intro _
    | beta_reduce

theorem State.putBlock_keeps {st0 : Inv} {s : State} (h : Keeps st0 s) {b : Nat} {n : Nat} {c : Nat}  :
    Keeps st0 (State.putBlock s b n c) := by
  unfold State.putBlock
  repeat' first
    | with_reducible assumption
    | with_reducible refine ite_keeps ?_ ?_
    | with_reducible apply State.modBank_keeps
    | with_reducible apply State.satInc_keeps
    | split
    | (fail_if_no_progress (with_reducible apply Keeps.lit <;> try exact rfl))
    | with_reducible refine pair_keeps (by assumption) ?_
    | intro _
    | beta_reduce

theorem State.progBlock_keeps {st0 : Inv} {s : State} (h : Keeps st0 s) {b : Nat} {n : Nat} {c : Nat}  :
    Keeps st0 (State.progBlock s b n c).2 := by
  unfold State.progBlock
  repeat' first
    | with_reducible assumption
    | with_reducible refine ite_keeps ?_ ?_
    | with_reducible apply State.putBlock_keeps
    | with_reducible apply State.satInc_keeps
    | split
    | with_reducible refine pair_keeps (by assumption) ?_
    | with_reducible refine snd_ite_keeps ?_ ?_
    | with_reducible refine snd_mk_keeps ?_
    | beta_reduce

theorem State.progBlocks_keeps {st0 : Inv} {s : State} (h : Keeps st0 s) {b : Nat} {addr : Nat} {first : Nat} {a0 : Nat} :
    Keeps st0 (State.progBlocks s b addr first a0).2 := by
  induction a0 generalizing b addr first s with
  | zero =>
    unfold State.progBlocks
    repeat' first
      | with_reducible assumption
      | with_reducible apply State.progBlock_keeps
      | with_reducible apply ih
      | split
      | with_reducible refine pair_keeps (by assumption) ?_
      | with_reducible refine snd_ite_keeps ?_ ?_
      | with_reducible refine snd_mk_keeps ?_
      | beta_reduce
  | succ n ih =>
    unfold State.progBlocks
    repeat' first
      | with_reducible assumption
      | with_reducible apply State.progBlock_keeps
      | with_reducible apply ih
      | split
      | with_reducible refine pair_keeps (by assumption) ?_
      | with_reducible refine snd_ite_keeps ?_ ?_
      | with_reducible refine snd_mk_keeps ?_
      | beta_reduce

theorem execUpdBegin_keeps {st0 : Inv} [st0.Writes] {s : State} (h : Keeps st0 s)   :
    ResKeeps st0 (execUpdBegin s) := by
  unfold execUpdBegin
  try with_reducible refine ResKeeps.next ?_
  repeat' first
    | with_reducible assumption
    | (extract_lets -underBinder -merge +onlyGivenNames x; refine keepCut (r := st0) (x := x) ?_ (fun hx => ?_); (on_goal 1 => (unfold x; clear x)); (on_goal 2 => clear_value x))
    | (extract_lets -underBinder -merge +onlyGivenNames x; guard_hyp x : SecSt)
    | (extract_lets -underBinder -merge +onlyGivenNames x; clear_value x)
    | with_reducible refine ite_keeps ?_ ?_
    | with_reducible refine State.updRun_keeps ?_ (fun _ _ _ _ _ => ?_)
    | with_reducible refine UpdKeeps.ite ?_ ?_
    | with_reducible exact UpdKeeps.none
    | with_reducible refine UpdKeeps.some ?_
    | with_reducible apply State.kslDrop_keeps
    | with_reducible apply State.modFlash_keeps
    | with_reducible apply State.modBank_keeps
    | with_reducible apply State.putBlock_keeps
    | with_reducible refine ResKeeps.next ?_
    | split
    | (fail_if_no_progress (with_reducible apply Keeps.lit <;> try exact rfl))
    | with_reducible refine pair_keeps (by assumption) ?_
    | with_reducible refine snd_ite_keeps ?_ ?_
    | with_reducible refine snd_mk_keeps ?_
    | intro _
    | beta_reduce

theorem execUpdBlocks_keeps {st0 : Inv} [st0.Writes] {s : State} (h : Keeps st0 s)   :
    ResKeeps st0 (execUpdBlocks s) := by
  unfold execUpdBlocks
  try with_reducible refine ResKeeps.next ?_
  repeat' first
    | with_reducible assumption
    | (extract_lets -underBinder -merge +onlyGivenNames x; refine keepCut (r := st0) (x := x) ?_ (fun hx => ?_); (on_goal 1 => (unfold x; clear x)); (on_goal 2 => clear_value x))
    | (extract_lets -underBinder -merge +onlyGivenNames x; guard_hyp x : SecSt)
    | (extract_lets -underBinder -merge +onlyGivenNames x; clear_value x)
    | with_reducible refine ite_keeps ?_ ?_
    | with_reducible refine State.updRun_keeps ?_ (fun _ _ _ _ _ => ?_)
    | with_reducible refine UpdKeeps.ite ?_ ?_
    | with_reducible exact UpdKeeps.none
    | with_reducible refine UpdKeeps.some ?_
    | with_reducible apply State.modFlash_keeps
    | with_reducible apply State.progBlocks_keeps
    | with_reducible refine ResKeeps.next ?_
    | split
    | (fail_if_no_progress (with_reducible apply Keeps.lit <;> try exact rfl))
    | with_reducible refine pair_keeps (by assumption) ?_
    | with_reducible refine snd_ite_keeps ?_ ?_
    | with_reducible refine snd_mk_keeps ?_
    | intro _
    | beta_reduce

theorem execUpdVerify_keeps {st0 : Inv} [st0.Writes] {s : State} (h : Keeps st0 s) {loader : Nat}  :
    ResKeeps st0 (execUpdVerify loader s) := by
  unfold execUpdVerify
  try with_reducible refine ResKeeps.next ?_
  repeat' first
    | with_reducible assumption
    | (extract_lets -underBinder -merge +onlyGivenNames x; refine keepCut (r := st0) (x := x) ?_ (fun hx => ?_); (on_goal 1 => (unfold x; clear x)); (on_goal 2 => clear_value x))
    | (extract_lets -underBinder -merge +onlyGivenNames x; guard_hyp x : SecSt)
    | (extract_lets -underBinder -merge +onlyGivenNames x; clear_value x)
    | with_reducible refine ite_keeps ?_ ?_
    | with_reducible refine State.updRun_keeps ?_ (fun _ _ _ _ _ => ?_)
    | with_reducible refine UpdKeeps.ite ?_ ?_
    | with_reducible exact UpdKeeps.none
    | with_reducible refine UpdKeeps.some ?_
    | with_reducible apply State.modFlash_keeps
    | with_reducible apply State.modBank_keeps
    | with_reducible apply State.satInc_keeps
    | with_reducible refine ResKeeps.next ?_
    | split
    | (fail_if_no_progress (with_reducible apply Keeps.lit <;> try exact rfl))
    | with_reducible refine pair_keeps (by assumption) ?_
    | with_reducible refine snd_ite_keeps ?_ ?_
    | with_reducible refine snd_mk_keeps ?_
    | intro _
    | beta_reduce

theorem execUpdSchedule_keeps {st0 : Inv} [st0.Writes] {s : State} (h : Keeps st0 s)   :
    ResKeeps st0 (execUpdSchedule s) := by
  unfold execUpdSchedule
  try with_reducible refine ResKeeps.next ?_
  repeat' first
    | with_reducible assumption
    | with_reducible refine ite_keeps ?_ ?_
    | with_reducible refine State.updRun_keeps ?_ (fun _ _ _ _ _ => ?_)
    | with_reducible refine UpdKeeps.ite ?_ ?_
    | with_reducible exact UpdKeeps.none
    | with_reducible refine UpdKeeps.some ?_
    | with_reducible apply State.modFlash_keeps
    | with_reducible refine ResKeeps.next ?_
    | split
    | (fail_if_no_progress (with_reducible apply Keeps.lit <;> try exact rfl))
    | with_reducible refine pair_keeps (by assumption) ?_
    | with_reducible refine snd_ite_keeps ?_ ?_
    | with_reducible refine snd_mk_keeps ?_
    | intro _
    | beta_reduce

theorem execUpdCancel_keeps {st0 : Inv} [st0.Writes] {s : State} (h : Keeps st0 s)   :
    ResKeeps st0 (execUpdCancel s) := by
  unfold execUpdCancel
  try with_reducible refine ResKeeps.next ?_
  repeat' first
    | with_reducible assumption
    | with_reducible refine ite_keeps ?_ ?_
    | with_reducible refine State.updRun_keeps ?_ (fun _ _ _ _ _ => ?_)
    | with_reducible refine UpdKeeps.ite ?_ ?_
    | with_reducible exact UpdKeeps.none
    | with_reducible refine UpdKeeps.some ?_
    | with_reducible apply State.modFlash_keeps
    | with_reducible apply State.modBank_keeps
    | with_reducible refine ResKeeps.next ?_
    | split
    | (fail_if_no_progress (with_reducible apply Keeps.lit <;> try exact rfl))
    | with_reducible refine pair_keeps (by assumption) ?_
    | with_reducible refine snd_ite_keeps ?_ ?_
    | with_reducible refine snd_mk_keeps ?_
    | intro _
    | beta_reduce

theorem State.confirm_keeps {st0 : Inv} {s : State} (h : Keeps st0 s)   :
    Keeps st0 (State.confirm s) := by
  unfold State.confirm
  repeat' first
    | with_reducible assumption
    | (extract_lets -underBinder -merge +onlyGivenNames x; refine keepCut (r := st0) (x := x) ?_ (fun hx => ?_); (on_goal 1 => (unfold x; clear x)); (on_goal 2 => clear_value x))
    | (extract_lets -underBinder -merge +onlyGivenNames x; guard_hyp x : SecSt)
    | (extract_lets -underBinder -merge +onlyGivenNames x; clear_value x)
    | with_reducible refine ite_keeps ?_ ?_
    | with_reducible apply State.putPtr_keeps
    | with_reducible apply State.autoConfirm_keeps
    | with_reducible apply State.modFlash_keeps
    | with_reducible apply State.updShow_keeps
    | split
    | (fail_if_no_progress (with_reducible apply Keeps.lit <;> try exact rfl))
    | with_reducible refine pair_keeps (by assumption) ?_
    | intro _
    | beta_reduce

theorem execUpdConfirm_keeps {st0 : Inv} [st0.Writes] {s : State} (h : Keeps st0 s)   :
    ResKeeps st0 (execUpdConfirm s) := by
  unfold execUpdConfirm
  try with_reducible refine ResKeeps.next ?_
  repeat' first
    | with_reducible assumption
    | with_reducible refine ite_keeps ?_ ?_
    | with_reducible refine State.updRun_keeps ?_ (fun _ _ _ _ _ => ?_)
    | with_reducible refine UpdKeeps.ite ?_ ?_
    | with_reducible exact UpdKeeps.none
    | with_reducible refine UpdKeeps.some ?_
    | with_reducible apply State.confirm_keeps
    | with_reducible refine ResKeeps.next ?_
    | split
    | with_reducible refine pair_keeps (by assumption) ?_
    | with_reducible refine snd_ite_keeps ?_ ?_
    | with_reducible refine snd_mk_keeps ?_
    | intro _
    | beta_reduce

theorem State.autoConfirm_keeps {st0 : Inv} {s : State} (h : Keeps st0 s)   :
    Keeps st0 (State.autoConfirm s) := by
  unfold State.autoConfirm
  repeat' first
    | with_reducible assumption
    | with_reducible refine ite_keeps ?_ ?_
    | with_reducible apply State.confirm_keeps
    | split
    | with_reducible refine pair_keeps (by assumption) ?_
    | beta_reduce

theorem execUpdStatus_keeps {st0 : Inv} [st0.Writes] {s : State} (h : Keeps st0 s)   :
    ResKeeps st0 (execUpdStatus s) := by
  unfold execUpdStatus
  try with_reducible refine ResKeeps.next ?_
  repeat' first
    | with_reducible assumption
    | (extract_lets -underBinder -merge +onlyGivenNames x; refine keepCut (r := st0) (x := x) ?_ (fun hx => ?_); (on_goal 1 => (unfold x; clear x)); (on_goal 2 => clear_value x))
    | (extract_lets -underBinder -merge +onlyGivenNames x; guard_hyp x : SecSt)
    | (extract_lets -underBinder -merge +onlyGivenNames x; clear_value x)
    | with_reducible refine ite_keeps ?_ ?_
    | with_reducible refine State.updRun_keeps ?_ (fun _ _ _ _ _ => ?_)
    | with_reducible refine UpdKeeps.ite ?_ ?_
    | with_reducible exact UpdKeeps.none
    | with_reducible refine UpdKeeps.some ?_
    | with_reducible apply State.updShow_keeps
    | with_reducible apply State.putBytes_keeps
    | with_reducible refine ResKeeps.next ?_
    | split
    | with_reducible refine pair_keeps (by assumption) ?_
    | with_reducible refine snd_ite_keeps ?_ ?_
    | with_reducible refine snd_mk_keeps ?_
    | intro _
    | beta_reduce

theorem execUpdSettings_keeps {st0 : Inv} [st0.Writes] {s : State} (h : Keeps st0 s)   :
    ResKeeps st0 (execUpdSettings s) := by
  unfold execUpdSettings
  try with_reducible refine ResKeeps.next ?_
  repeat' first
    | with_reducible assumption
    | (extract_lets -underBinder -merge +onlyGivenNames x; refine keepCut (r := st0) (x := x) ?_ (fun hx => ?_); (on_goal 1 => (unfold x; clear x)); (on_goal 2 => clear_value x))
    | (extract_lets -underBinder -merge +onlyGivenNames x; guard_hyp x : SecSt)
    | (extract_lets -underBinder -merge +onlyGivenNames x; clear_value x)
    | with_reducible refine ite_keeps ?_ ?_
    | with_reducible refine State.updRun_keeps ?_ (fun _ _ _ _ _ => ?_)
    | with_reducible refine UpdKeeps.ite ?_ ?_
    | with_reducible exact UpdKeeps.none
    | with_reducible refine UpdKeeps.some ?_
    | with_reducible apply State.putItem_keeps
    | with_reducible refine ResKeeps.next ?_
    | split
    | with_reducible refine pair_keeps (by assumption) ?_
    | with_reducible refine snd_ite_keeps ?_ ?_
    | with_reducible refine snd_mk_keeps ?_
    | intro _
    | beta_reduce

theorem execUpdFuse_keeps {st0 : Inv} [st0.Writes] {s : State} (h : Keeps st0 s)   :
    ResKeeps st0 (execUpdFuse s) := by
  unfold execUpdFuse
  try with_reducible refine ResKeeps.next ?_
  repeat' first
    | with_reducible assumption
    | (extract_lets -underBinder -merge +onlyGivenNames x; refine keepCut (r := st0) (x := x) ?_ (fun hx => ?_); (on_goal 1 => (unfold x; clear x)); (on_goal 2 => clear_value x))
    | (extract_lets -underBinder -merge +onlyGivenNames x; guard_hyp x : SecSt)
    | (extract_lets -underBinder -merge +onlyGivenNames x; clear_value x)
    | with_reducible refine ite_keeps ?_ ?_
    | with_reducible refine State.updRun_keeps ?_ (fun _ _ _ _ _ => ?_)
    | with_reducible refine UpdKeeps.ite ?_ ?_
    | with_reducible exact UpdKeeps.none
    | with_reducible refine UpdKeeps.some ?_
    | with_reducible refine State.modSec_keeps ?_ rfl
    | with_reducible refine ResKeeps.next ?_
    | split
    | (fail_if_no_progress (with_reducible apply Keeps.lit <;> try exact rfl))
    | with_reducible refine pair_keeps (by assumption) ?_
    | with_reducible refine snd_ite_keeps ?_ ?_
    | with_reducible refine snd_mk_keeps ?_
    | intro _
    | beta_reduce

theorem State.settingsBind_keeps {st0 : Inv} {s : State} (h : Keeps st0 s) {value : Nat} :
    Keeps st0 (State.settingsBind s value) := by
  unfold State.settingsBind
  repeat' first
    | with_reducible assumption
    | (extract_lets -underBinder -merge +onlyGivenNames x; refine keepCut (r := st0) (x := x) ?_ (fun hx => ?_); (on_goal 1 => (unfold x; clear x)); (on_goal 2 => clear_value x))
    | (extract_lets -underBinder -merge +onlyGivenNames x; guard_hyp x : SecSt)
    | (extract_lets -underBinder -merge +onlyGivenNames x; clear_value x)
    | with_reducible refine ite_keeps ?_ ?_
    | with_reducible apply State.mbxBind_keeps
    | with_reducible refine foldl_keeps ?_ (fun _ _ _ => ?_)
    | split
    | (fail_if_no_progress (with_reducible apply Keeps.lit <;> try exact rfl))
    | with_reducible refine snd_ite_keeps ?_ ?_
    | with_reducible refine snd_mk_keeps ?_
    | with_reducible refine pair_keeps (by assumption) ?_
    | intro _
    | beta_reduce

theorem State.loadSettings_keeps {st0 : Inv} [st0.Writes] {s : State} (h : Keeps st0 s)  :
    Keeps st0 (State.loadSettings s) := by
  unfold State.loadSettings
  repeat' first
    | with_reducible assumption
    | (extract_lets -underBinder -merge +onlyGivenNames x; refine keepCut (r := st0) (x := x) ?_ (fun hx => ?_); (on_goal 1 => (unfold x; clear x)); (on_goal 2 => clear_value x))
    | (extract_lets -underBinder -merge +onlyGivenNames x; guard_hyp x : SecSt)
    | (extract_lets -underBinder -merge +onlyGivenNames x; clear_value x)
    | with_reducible refine ite_keeps ?_ ?_
    | with_reducible apply State.keyPut_keeps
    | with_reducible apply State.modPair_keeps
    | with_reducible refine State.modSec_keeps ?_ rfl
    | with_reducible apply State.settingsBind_keeps
    | with_reducible refine foldl_keeps ?_ (fun _ _ _ => ?_)
    | split
    | (fail_if_no_progress (with_reducible apply Keeps.lit <;> try exact rfl))
    | with_reducible refine snd_ite_keeps ?_ ?_
    | with_reducible refine snd_mk_keeps ?_
    | with_reducible refine pair_keeps (by assumption) ?_
    | intro _
    | beta_reduce

theorem State.fallBack_keeps {st0 : Inv} {s : State} (h : Keeps st0 s)   :
    Keeps st0 (State.fallBack s) := by
  unfold State.fallBack
  repeat' first
    | with_reducible assumption
    | (extract_lets -underBinder -merge +onlyGivenNames x; refine keepCut (r := st0) (x := x) ?_ (fun hx => ?_); (on_goal 1 => (unfold x; clear x)); (on_goal 2 => clear_value x))
    | (extract_lets -underBinder -merge +onlyGivenNames x; guard_hyp x : SecSt)
    | (extract_lets -underBinder -merge +onlyGivenNames x; clear_value x)
    | with_reducible apply State.putPtr_keeps
    | with_reducible apply State.autoConfirm_keeps
    | with_reducible apply State.modBank_keeps
    | with_reducible apply State.modFlash_keeps
    | split
    | (fail_if_no_progress (with_reducible apply Keeps.lit <;> try exact rfl))
    | with_reducible refine pair_keeps (by assumption) ?_
    | intro _
    | beta_reduce

theorem execSettingsMigrate_keeps {st0 : Inv} [st0.Writes] [st0.Clears] {s : State} (h : Keeps st0 s) {readable : Bool} {converts : Bool} {writes : Bool}  :
    ResKeeps st0 (execSettingsMigrate readable converts writes s) := by
  unfold execSettingsMigrate
  try with_reducible refine ResKeeps.next ?_
  dsimp only
  repeat' first
    | with_reducible assumption
    | (extract_lets -underBinder -merge +onlyGivenNames x; refine keepCut (r := st0) (x := x) ?_ (fun hx => ?_); (on_goal 1 => (unfold x; clear x)); (on_goal 2 => clear_value x))
    | (extract_lets -underBinder -merge +onlyGivenNames x; guard_hyp x : SecSt)
    | (extract_lets -underBinder -merge +onlyGivenNames x; clear_value x)
    | with_reducible refine ite_keeps ?_ ?_
    | with_reducible apply State.modFlash_keeps
    | with_reducible apply State.loadSettings_keeps
    | with_reducible apply State.updShow_keeps
    | with_reducible apply State.updRaise_keeps
    | with_reducible apply State.fallBack_keeps
    | with_reducible apply State.selfReset_keeps
    | with_reducible refine ResKeeps.next ?_
    | split
    | (fail_if_no_progress (with_reducible apply Keeps.lit <;> try exact rfl))
    | with_reducible refine pair_keeps (by assumption) ?_
    | with_reducible refine snd_ite_keeps ?_ ?_
    | with_reducible refine snd_mk_keeps ?_
    | intro _
    | beta_reduce

theorem execUpdActivateCheck_keeps {st0 : Inv} [st0.Clears] [st0.Writes] {s : State} (h : Keeps st0 s)   :
    ResKeeps st0 (execUpdActivateCheck s) := by
  unfold execUpdActivateCheck
  try with_reducible refine ResKeeps.next ?_
  repeat' first
    | with_reducible assumption
    | (extract_lets -underBinder -merge +onlyGivenNames x; refine keepCut (r := st0) (x := x) ?_ (fun hx => ?_); (on_goal 1 => (unfold x; clear x)); (on_goal 2 => clear_value x))
    | (extract_lets -underBinder -merge +onlyGivenNames x; guard_hyp x : SecSt)
    | (extract_lets -underBinder -merge +onlyGivenNames x; clear_value x)
    | with_reducible refine ite_keeps ?_ ?_
    | with_reducible apply State.updRaise_keeps
    | with_reducible apply State.modFlash_keeps
    | with_reducible apply State.updShow_keeps
    | with_reducible apply State.handOver_keeps
    | with_reducible apply State.modeReq_keeps
    | with_reducible apply State.activate_keeps
    | with_reducible refine ResKeeps.next ?_
    | split
    | (fail_if_no_progress (with_reducible apply Keeps.lit <;> try exact rfl))
    | with_reducible refine pair_keeps (by assumption) ?_
    | with_reducible refine snd_ite_keeps ?_ ?_
    | with_reducible refine snd_mk_keeps ?_
    | intro _
    | beta_reduce

theorem execUpdActivateExpired_keeps {st0 : Inv} {s : State} (h : Keeps st0 s)   :
    ResKeeps st0 (execUpdActivateExpired s) := by
  unfold execUpdActivateExpired
  try with_reducible refine ResKeeps.next ?_
  repeat' first
    | with_reducible assumption
    | with_reducible refine ite_keeps ?_ ?_
    | with_reducible apply State.updRaise_keeps
    | with_reducible apply State.modFlash_keeps
    | with_reducible apply State.updShow_keeps
    | with_reducible refine ResKeeps.next ?_
    | split
    | (fail_if_no_progress (with_reducible apply Keeps.lit <;> try exact rfl))
    | with_reducible refine pair_keeps (by assumption) ?_
    | with_reducible refine snd_ite_keeps ?_ ?_
    | with_reducible refine snd_mk_keeps ?_
    | intro _
    | beta_reduce

theorem execUpdTrialTimeout_keeps {st0 : Inv} [st0.Clears] {s : State} (h : Keeps st0 s)   :
    ResKeeps st0 (execUpdTrialTimeout s) := by
  unfold execUpdTrialTimeout
  try with_reducible refine ResKeeps.next ?_
  repeat' first
    | with_reducible assumption
    | (extract_lets -underBinder -merge +onlyGivenNames x; refine keepCut (r := st0) (x := x) ?_ (fun hx => ?_); (on_goal 1 => (unfold x; clear x)); (on_goal 2 => clear_value x))
    | (extract_lets -underBinder -merge +onlyGivenNames x; guard_hyp x : SecSt)
    | (extract_lets -underBinder -merge +onlyGivenNames x; clear_value x)
    | with_reducible refine ite_keeps ?_ ?_
    | with_reducible apply State.updRaise_keeps
    | with_reducible apply State.handOver_keeps
    | with_reducible apply State.selfReset_keeps
    | with_reducible refine ResKeeps.next ?_
    | split
    | with_reducible refine pair_keeps (by assumption) ?_
    | with_reducible refine snd_ite_keeps ?_ ?_
    | with_reducible refine snd_mk_keeps ?_
    | beta_reduce

theorem State.bootRaise_keeps {st0 : Inv} {s : State} (h : Keeps st0 s) {cond : Nat} {info : Nat}  :
    Keeps st0 (State.bootRaise s cond info) := by
  unfold State.bootRaise
  repeat' first
    | with_reducible assumption
    | with_reducible apply State.set_keeps
    | with_reducible apply State.raise_keeps
    | beta_reduce

theorem State.loaderJudge_keeps {st0 : Inv} {s : State} (h : Keeps st0 s) {copy : Nat} {keysOk : Bool} {sigsOk : Bool} {svn : Nat} {blocksOk : Bool} {digest : Nat}  :
    Keeps st0 (State.loaderJudge s copy keysOk sigsOk svn blocksOk digest) := by
  unfold State.loaderJudge
  repeat' first
    | with_reducible assumption
    | (extract_lets -underBinder -merge +onlyGivenNames x; refine keepCut (r := st0) (x := x) ?_ (fun hx => ?_); (on_goal 1 => (unfold x; clear x)); (on_goal 2 => clear_value x))
    | (extract_lets -underBinder -merge +onlyGivenNames x; guard_hyp x : SecSt)
    | (extract_lets -underBinder -merge +onlyGivenNames x; clear_value x)
    | with_reducible refine ite_keeps ?_ ?_
    | with_reducible apply State.setAll_keeps
    | with_reducible apply State.msrExtend_keeps
    | with_reducible apply State.bootRaise_keeps
    | with_reducible refine State.modSec_keeps ?_ rfl
    | split
    | (fail_if_no_progress (with_reducible apply Keeps.lit <;> try exact rfl))
    | with_reducible refine pair_keeps (by assumption) ?_
    | with_reducible refine snd_ite_keeps ?_ ?_
    | with_reducible refine snd_mk_keeps ?_
    | intro _
    | beta_reduce

theorem execBootLoaderVerify_keeps {st0 : Inv} {s : State} (h : Keeps st0 s) {keysOk : Bool} {sigsOk : Bool} {svn : Nat} {blocksOk : Bool} {digest : Nat}  :
    ResKeeps st0 (execBootLoaderVerify keysOk sigsOk svn blocksOk digest s) := by
  unfold execBootLoaderVerify
  try with_reducible refine ResKeeps.next ?_
  repeat' first
    | with_reducible assumption
    | with_reducible refine ite_keeps ?_ ?_
    | with_reducible apply State.loaderJudge_keeps
    | with_reducible refine ResKeeps.next ?_
    | split
    | with_reducible refine pair_keeps (by assumption) ?_
    | beta_reduce

theorem execBootLoaderTimeout_keeps {st0 : Inv} {s : State} (h : Keeps st0 s)   :
    ResKeeps st0 (execBootLoaderTimeout s) := by
  unfold execBootLoaderTimeout
  try with_reducible refine ResKeeps.next ?_
  repeat' first
    | with_reducible assumption
    | with_reducible refine ite_keeps ?_ ?_
    | with_reducible apply State.bootRaise_keeps
    | with_reducible refine State.modSec_keeps ?_ rfl
    | with_reducible refine ResKeeps.next ?_
    | split
    | (fail_if_no_progress (with_reducible apply Keeps.lit <;> try exact rfl))
    | with_reducible refine pair_keeps (by assumption) ?_
    | with_reducible refine snd_ite_keeps ?_ ?_
    | with_reducible refine snd_mk_keeps ?_
    | intro _
    | beta_reduce

theorem State.runImage_keeps {st0 : Inv} {s : State} (h : Keeps st0 s) {b : Nat} :
    Keeps st0 (State.runImage s b) := by
  unfold State.runImage
  repeat' first
    | with_reducible assumption
    | (extract_lets -underBinder -merge +onlyGivenNames x; refine keepCut (r := st0) (x := x) ?_ (fun hx => ?_); (on_goal 1 => (unfold x; clear x)); (on_goal 2 => clear_value x))
    | (extract_lets -underBinder -merge +onlyGivenNames x; guard_hyp x : SecSt)
    | (extract_lets -underBinder -merge +onlyGivenNames x; clear_value x)
    | with_reducible refine ite_keeps ?_ ?_
    | with_reducible apply State.modFlash_keeps
    | with_reducible apply State.setAll_keeps
    | with_reducible apply State.setMode_keeps
    | with_reducible apply State.msrExtend_keeps
    | with_reducible apply State.modBank_keeps
    | with_reducible apply State.bootRaise_keeps
    | split
    | (fail_if_no_progress (with_reducible apply Keeps.lit <;> try exact rfl))
    | with_reducible refine snd_ite_keeps ?_ ?_
    | with_reducible refine snd_mk_keeps ?_
    | with_reducible refine pair_keeps (by assumption) ?_
    | intro _
    | beta_reduce

theorem execBundleCheck_keeps {st0 : Inv} {s : State} (h : Keeps st0 s)  :
    ResKeeps st0 (execBundleCheck s) := by
  unfold execBundleCheck
  refine ResKeeps.next (ite_keeps h ?_)
  extract_lets cur
  have hcur : ∀ t, Keeps st0 t → Keeps st0 (cur t) := fun t ht =>
    State.updShow_keeps (ite_keeps (State.runImage_keeps (State.modFlash_keeps ht))
      (State.setMode_keeps (State.bootRaise_keeps (State.modFlash_keeps ht))))
  clear_value cur
  split
  · exact hcur _ h
  · exact ite_keeps (State.updShow_keeps (State.runImage_keeps (State.modFlash_keeps (State.putPtr_keeps h))))
      (hcur _ (State.updRaise_keeps (State.fallBack_keeps h)))

theorem State.bootKeys_keeps {st0 : Inv} [st0.Writes] {s : State} (h : Keeps st0 s)  :
    Keeps st0 (State.bootKeys s) := by
  unfold State.bootKeys
  repeat' first
    | with_reducible assumption
    | (extract_lets -underBinder -merge +onlyGivenNames x; refine keepCut (r := st0) (x := x) ?_ (fun hx => ?_); (on_goal 1 => (unfold x; clear x)); (on_goal 2 => clear_value x))
    | (extract_lets -underBinder -merge +onlyGivenNames x; guard_hyp x : SecSt)
    | (extract_lets -underBinder -merge +onlyGivenNames x; clear_value x)
    | with_reducible refine ite_keeps ?_ ?_
    | with_reducible apply State.set_keeps
    | with_reducible apply State.setAll_keeps
    | with_reducible refine State.modSec_keeps ?_ rfl
    | with_reducible apply State.keyPut_keeps
    | with_reducible apply State.draw256_keeps
    | split
    | (fail_if_no_progress (with_reducible apply Keeps.lit <;> try exact rfl))
    | with_reducible refine snd_ite_keeps ?_ ?_
    | with_reducible refine snd_mk_keeps ?_
    | with_reducible refine pair_keeps (by assumption) ?_
    | intro _
    | beta_reduce

theorem State.bootWindows_keeps {st0 : Inv} {s : State} (h : Keeps st0 s)   :
    Keeps st0 (State.bootWindows s) := by
  unfold State.bootWindows
  repeat' first
    | with_reducible assumption
    | with_reducible apply State.setAll_keeps
    | beta_reduce

theorem State.firmwareUp_keeps {st0 : Inv} [st0.Writes] {s : State} (h : Keeps st0 s) {settingsOk : Bool} :
    Keeps st0 (State.firmwareUp s settingsOk) := by
  unfold State.firmwareUp
  repeat' first
    | with_reducible assumption
    | (extract_lets -underBinder -merge +onlyGivenNames x; refine keepCut (r := st0) (x := x) ?_ (fun hx => ?_); (on_goal 1 => (unfold x; clear x)); (on_goal 2 => clear_value x))
    | (extract_lets -underBinder -merge +onlyGivenNames x; guard_hyp x : SecSt)
    | (extract_lets -underBinder -merge +onlyGivenNames x; clear_value x)
    | with_reducible refine ite_keeps ?_ ?_
    | with_reducible apply State.modFlash_keeps
    | with_reducible apply State.modPair_keeps
    | with_reducible apply State.set_keeps
    | with_reducible apply State.sample_keeps
    | with_reducible apply State.setMode_keeps
    | with_reducible apply State.lockAllPages_keeps
    | with_reducible apply State.hardenAll_keeps
    | with_reducible apply State.updShow_keeps
    | with_reducible apply State.updRaise_keeps
    | with_reducible apply State.loadSettings_keeps
    | with_reducible apply State.bootRaise_keeps
    | with_reducible apply State.bootKeys_keeps
    | with_reducible apply State.bootWindows_keeps
    | with_reducible apply State.saltsStore_keeps
    | split
    | (fail_if_no_progress (with_reducible apply Keeps.lit <;> try exact rfl))
    | with_reducible refine snd_ite_keeps ?_ ?_
    | with_reducible refine snd_mk_keeps ?_
    | with_reducible refine pair_keeps (by assumption) ?_
    | intro _
    | beta_reduce

theorem execFirmwareStart_keeps {st0 : Inv} [st0.Writes] {s : State} (h : Keeps st0 s) {countOk : Bool} {settingsOk : Bool} :
    ResKeeps st0 (execFirmwareStart countOk settingsOk s) := by
  unfold execFirmwareStart
  try with_reducible refine ResKeeps.next ?_
  repeat' first
    | with_reducible assumption
    | (extract_lets -underBinder -merge +onlyGivenNames x; refine keepCut (r := st0) (x := x) ?_ (fun hx => ?_); (on_goal 1 => (unfold x; clear x)); (on_goal 2 => clear_value x))
    | (extract_lets -underBinder -merge +onlyGivenNames x; guard_hyp x : SecSt)
    | (extract_lets -underBinder -merge +onlyGivenNames x; clear_value x)
    | with_reducible refine ite_keeps ?_ ?_
    | with_reducible refine ResKeeps.next ?_
    | with_reducible apply State.modFlash_keeps
    | with_reducible apply State.set_keeps
    | with_reducible apply State.setAll_keeps
    | with_reducible apply State.bootRaise_keeps
    | with_reducible apply State.firmwareUp_keeps
    | split
    | (fail_if_no_progress (with_reducible apply Keeps.lit <;> try exact rfl))
    | with_reducible refine snd_ite_keeps ?_ ?_
    | with_reducible refine snd_mk_keeps ?_
    | with_reducible refine pair_keeps (by assumption) ?_
    | intro _
    | beta_reduce

theorem execHbmTrain_keeps {st0 : Inv} {s : State} (h : Keeps st0 s) {stack : Nat} {ok : Nat} {beats : Nat}  :
    ResKeeps st0 (execHbmTrain stack ok beats s) := by
  unfold execHbmTrain
  try with_reducible refine ResKeeps.next ?_
  repeat' first
    | with_reducible assumption
    | (extract_lets -underBinder -merge +onlyGivenNames x; refine keepCut (r := st0) (x := x) ?_ (fun hx => ?_); (on_goal 1 => (unfold x; clear x)); (on_goal 2 => clear_value x))
    | (extract_lets -underBinder -merge +onlyGivenNames x; guard_hyp x : SecSt)
    | (extract_lets -underBinder -merge +onlyGivenNames x; clear_value x)
    | with_reducible refine ite_keeps ?_ ?_
    | with_reducible apply State.setAll_keeps
    | with_reducible apply State.raise_keeps
    | with_reducible refine ResKeeps.next ?_
    | with_reducible refine foldl_keeps ?_ (fun _ _ _ => ?_)
    | split
    | with_reducible refine pair_keeps (by assumption) ?_
    | with_reducible refine snd_ite_keeps ?_ ?_
    | with_reducible refine snd_mk_keeps ?_
    | intro _
    | beta_reduce

theorem State.kslRx_keeps {st0 : Inv} {s : State} (h : Keeps st0 s) {frame : List Nat} {typ : Nat} {f : State → Nat → Bool → List Nat → State} (hf : ∀ t a1 a2 a3, Keeps st0 t → Keeps st0 (f t a1 a2 a3)) :
    Keeps st0 (State.kslRx s frame typ f) := by
  unfold State.kslRx
  repeat' first
    | with_reducible assumption
    | (extract_lets -underBinder -merge +onlyGivenNames x; refine keepCut (r := st0) (x := x) ?_ (fun hx => ?_); (on_goal 1 => (unfold x; clear x)); (on_goal 2 => clear_value x))
    | (extract_lets -underBinder -merge +onlyGivenNames x; guard_hyp x : SecSt)
    | (extract_lets -underBinder -merge +onlyGivenNames x; clear_value x)
    | with_reducible refine ite_keeps ?_ ?_
    | with_reducible apply State.wake_keeps
    | with_reducible apply State.bump_keeps
    | with_reducible apply State.set_keeps
    | with_reducible apply State.drop_keeps
    | with_reducible apply State.modFlash_keeps
    | with_reducible apply hf
    | split
    | (fail_if_no_progress (with_reducible apply Keeps.lit <;> try exact rfl))
    | with_reducible refine pair_keeps (by assumption) ?_
    | intro _
    | beta_reduce

theorem State.kslClose_keeps {st0 : Inv} {s : State} (h : Keeps st0 s) {phase : Nat}  :
    Keeps st0 (State.kslClose s phase) := by
  unfold State.kslClose
  repeat' first
    | with_reducible assumption
    | (extract_lets -underBinder -merge +onlyGivenNames x; refine keepCut (r := st0) (x := x) ?_ (fun hx => ?_); (on_goal 1 => (unfold x; clear x)); (on_goal 2 => clear_value x))
    | (extract_lets -underBinder -merge +onlyGivenNames x; guard_hyp x : SecSt)
    | (extract_lets -underBinder -merge +onlyGivenNames x; clear_value x)
    | with_reducible refine ite_keeps ?_ ?_
    | with_reducible apply State.irq_keeps
    | with_reducible apply State.modFlash_keeps
    | with_reducible apply State.setAll_keeps
    | split
    | (fail_if_no_progress (with_reducible apply Keeps.lit <;> try exact rfl))
    | with_reducible refine pair_keeps (by assumption) ?_
    | intro _
    | beta_reduce

theorem State.kslRaise_keeps {st0 : Inv} {s : State} (h : Keeps st0 s) {cond : Nat}  :
    Keeps st0 (State.kslRaise s cond) := by
  unfold State.kslRaise
  repeat' first
    | with_reducible assumption
    | with_reducible apply State.set_keeps
    | with_reducible apply State.raise_keeps
    | beta_reduce

theorem State.kslChallenge_keeps {st0 : Inv} {s : State} (h : Keeps st0 s) {seq : Nat} :
    Keeps st0 (State.kslChallenge s seq) := by
  unfold State.kslChallenge
  repeat' first
    | with_reducible assumption
    | (extract_lets -underBinder -merge +onlyGivenNames x; refine keepCut (r := st0) (x := x) ?_ (fun hx => ?_); (on_goal 1 => (unfold x; clear x)); (on_goal 2 => clear_value x))
    | (extract_lets -underBinder -merge +onlyGivenNames x; guard_hyp x : SecSt)
    | (extract_lets -underBinder -merge +onlyGivenNames x; clear_value x)
    | with_reducible apply State.modFlash_keeps
    | with_reducible apply State.kslSend_keeps
    | with_reducible apply State.kslClose_keeps
    | with_reducible apply State.draw256_keeps
    | split
    | (fail_if_no_progress (with_reducible apply Keeps.lit <;> try exact rfl))
    | with_reducible refine snd_ite_keeps ?_ ?_
    | with_reducible refine snd_mk_keeps ?_
    | with_reducible refine pair_keeps (by assumption) ?_
    | intro _
    | beta_reduce

theorem execKslChallengeReq_keeps {st0 : Inv} {s : State} (h : Keeps st0 s) {frame : List Nat} :
    ResKeeps st0 (execKslChallengeReq frame s) := by
  unfold execKslChallengeReq
  try with_reducible refine ResKeeps.next ?_
  repeat' first
    | with_reducible assumption
    | with_reducible refine ite_keeps ?_ ?_
    | with_reducible refine ResKeeps.next ?_
    | with_reducible apply State.modFlash_keeps
    | with_reducible refine State.kslRx_keeps ?_ (fun _ _ _ _ _ => ?_)
    | with_reducible apply State.kslChallenge_keeps
    | split
    | (fail_if_no_progress (with_reducible apply Keeps.lit <;> try exact rfl))
    | with_reducible refine snd_ite_keeps ?_ ?_
    | with_reducible refine snd_mk_keeps ?_
    | with_reducible refine pair_keeps (by assumption) ?_
    | intro _
    | beta_reduce

theorem State.kslOnce_keeps {st0 : Inv} {s : State} (h : Keeps st0 s) {seq : Nat} {f : State → State} (hf : ∀ t, Keeps st0 t → Keeps st0 (f t)) :
    Keeps st0 (State.kslOnce s seq f) := by
  unfold State.kslOnce
  repeat' first
    | with_reducible assumption
    | with_reducible apply State.kslSend_keeps
    | with_reducible refine hf _ ?_
    | split
    | with_reducible refine pair_keeps (by assumption) ?_
    | beta_reduce

theorem execKslAuth_keeps {st0 : Inv} {s : State} (h : Keeps st0 s) {frame : List Nat} :
    ResKeeps st0 (execKslAuth frame s) := by
  unfold execKslAuth
  try with_reducible refine ResKeeps.next ?_
  repeat' first
    | with_reducible assumption
    | (extract_lets -underBinder -merge +onlyGivenNames x; refine keepCut (r := st0) (x := x) ?_ (fun hx => ?_); (on_goal 1 => (unfold x; clear x)); (on_goal 2 => clear_value x))
    | (extract_lets -underBinder -merge +onlyGivenNames x; guard_hyp x : SecSt)
    | (extract_lets -underBinder -merge +onlyGivenNames x; clear_value x)
    | with_reducible refine ite_keeps ?_ ?_
    | with_reducible refine ResKeeps.next ?_
    | with_reducible apply State.modFlash_keeps
    | with_reducible apply State.bump_keeps
    | with_reducible apply State.drop_keeps
    | with_reducible apply State.setAll_keeps
    | with_reducible apply State.free_keeps
    | with_reducible apply State.irq_keeps
    | with_reducible apply State.kslResp_keeps
    | with_reducible refine State.kslRx_keeps ?_ (fun _ _ _ _ _ => ?_)
    | with_reducible apply State.kslRaise_keeps
    | with_reducible refine State.kslOnce_keeps ?_ (fun _ _ => ?_)
    | split
    | (fail_if_no_progress (with_reducible apply Keeps.lit <;> try exact rfl))
    | with_reducible refine snd_ite_keeps ?_ ?_
    | with_reducible refine snd_mk_keeps ?_
    | with_reducible refine pair_keeps (by assumption) ?_
    | intro _
    | beta_reduce

theorem execKslReq_keeps {st0 : Inv} {s : State} (h : Keeps st0 s) {frame : List Nat}  :
    ResKeeps st0 (execKslReq frame s) := by
  unfold execKslReq
  try with_reducible refine ResKeeps.next ?_
  repeat' first
    | with_reducible assumption
    | (extract_lets -underBinder -merge +onlyGivenNames x; refine keepCut (r := st0) (x := x) ?_ (fun hx => ?_); (on_goal 1 => (unfold x; clear x)); (on_goal 2 => clear_value x))
    | (extract_lets -underBinder -merge +onlyGivenNames x; guard_hyp x : SecSt)
    | (extract_lets -underBinder -merge +onlyGivenNames x; clear_value x)
    | with_reducible refine ite_keeps ?_ ?_
    | with_reducible refine State.kslRx_keeps ?_ (fun _ _ _ _ _ => ?_)
    | with_reducible refine State.kslOnce_keeps ?_ (fun _ _ => ?_)
    | with_reducible apply State.kslRaise_keeps
    | with_reducible apply State.kslResp_keeps
    | with_reducible apply State.modFlash_keeps
    | with_reducible apply State.modMbx_keeps
    | with_reducible refine ResKeeps.next ?_
    | split
    | (fail_if_no_progress (with_reducible apply Keeps.lit <;> try exact rfl))
    | with_reducible refine pair_keeps (by assumption) ?_
    | with_reducible refine snd_ite_keeps ?_ ?_
    | with_reducible refine snd_mk_keeps ?_
    | intro _
    | beta_reduce

theorem State.kslTake_keeps {st0 : Inv} {s : State} (h : Keeps st0 s) {seq : Nat} {a0 : Nat} :
    Keeps st0 (State.kslTake seq a0 s) := by
  induction a0 generalizing seq s with
  | zero =>
    unfold State.kslTake
    repeat' first
      | with_reducible assumption
      | (extract_lets -underBinder -merge +onlyGivenNames x; refine keepCut (r := st0) (x := x) ?_ (fun hx => ?_); (on_goal 1 => (unfold x; clear x)); (on_goal 2 => clear_value x))
      | (extract_lets -underBinder -merge +onlyGivenNames x; guard_hyp x : SecSt)
      | (extract_lets -underBinder -merge +onlyGivenNames x; clear_value x)
      | with_reducible refine ite_keeps ?_ ?_
      | with_reducible apply Res.left_keeps
      | with_reducible apply State.kslDrop_keeps
      | with_reducible apply State.progBlock_keeps
      | with_reducible apply State.modFlash_keeps
      | with_reducible apply State.updRaise_keeps
      | with_reducible apply State.kslResp_keeps
      | with_reducible apply State.updShow_keeps
      | with_reducible apply ih
      | split
      | (fail_if_no_progress (with_reducible apply Keeps.lit <;> try exact rfl))
      | with_reducible refine pair_keeps (by assumption) ?_
      | intro _
      | beta_reduce
  | succ n ih =>
    unfold State.kslTake
    repeat' first
      | with_reducible assumption
      | (extract_lets -underBinder -merge +onlyGivenNames x; refine keepCut (r := st0) (x := x) ?_ (fun hx => ?_); (on_goal 1 => (unfold x; clear x)); (on_goal 2 => clear_value x))
      | (extract_lets -underBinder -merge +onlyGivenNames x; guard_hyp x : SecSt)
      | (extract_lets -underBinder -merge +onlyGivenNames x; clear_value x)
      | with_reducible refine ite_keeps ?_ ?_
      | with_reducible apply Res.left_keeps
      | with_reducible apply State.kslDrop_keeps
      | with_reducible apply State.progBlock_keeps
      | with_reducible apply State.modFlash_keeps
      | with_reducible apply State.updRaise_keeps
      | with_reducible apply State.kslResp_keeps
      | with_reducible apply State.updShow_keeps
      | with_reducible apply ih
      | split
      | (fail_if_no_progress (with_reducible apply Keeps.lit <;> try exact rfl))
      | with_reducible refine pair_keeps (by assumption) ?_
      | intro _
      | beta_reduce

theorem execKslData_keeps {st0 : Inv} {s : State} (h : Keeps st0 s) {frame : List Nat}  :
    ResKeeps st0 (execKslData frame s) := by
  unfold execKslData
  try with_reducible refine ResKeeps.next ?_
  repeat' first
    | with_reducible assumption
    | (extract_lets -underBinder -merge +onlyGivenNames x; refine keepCut (r := st0) (x := x) ?_ (fun hx => ?_); (on_goal 1 => (unfold x; clear x)); (on_goal 2 => clear_value x))
    | (extract_lets -underBinder -merge +onlyGivenNames x; guard_hyp x : SecSt)
    | (extract_lets -underBinder -merge +onlyGivenNames x; clear_value x)
    | with_reducible refine ite_keeps ?_ ?_
    | with_reducible refine State.kslRx_keeps ?_ (fun _ _ _ _ _ => ?_)
    | with_reducible refine State.kslOnce_keeps ?_ (fun _ _ => ?_)
    | with_reducible apply State.modFlash_keeps
    | with_reducible apply State.drop_keeps
    | with_reducible apply State.kslTake_keeps
    | with_reducible refine ResKeeps.next ?_
    | split
    | (fail_if_no_progress (with_reducible apply Keeps.lit <;> try exact rfl))
    | with_reducible refine pair_keeps (by assumption) ?_
    | intro _
    | beta_reduce

theorem execKslLoader_keeps {st0 : Inv} {s : State} (h : Keeps st0 s) {frame : List Nat} {done : Bool} {keysOk : Bool} {sigsOk : Bool} {svn : Nat} {blocksOk : Bool} {digest : Nat}  :
    ResKeeps st0 (execKslLoader frame done keysOk sigsOk svn blocksOk digest s) := by
  unfold execKslLoader
  try with_reducible refine ResKeeps.next ?_
  repeat' first
    | with_reducible assumption
    | (extract_lets -underBinder -merge +onlyGivenNames x; refine keepCut (r := st0) (x := x) ?_ (fun hx => ?_); (on_goal 1 => (unfold x; clear x)); (on_goal 2 => clear_value x))
    | (extract_lets -underBinder -merge +onlyGivenNames x; guard_hyp x : SecSt)
    | (extract_lets -underBinder -merge +onlyGivenNames x; clear_value x)
    | with_reducible refine ite_keeps ?_ ?_
    | with_reducible refine State.kslRx_keeps ?_ (fun _ _ _ _ _ => ?_)
    | with_reducible refine State.kslOnce_keeps ?_ (fun _ _ => ?_)
    | with_reducible apply State.loaderJudge_keeps
    | with_reducible apply State.kslResp_keeps
    | with_reducible refine ResKeeps.next ?_
    | split
    | with_reducible refine pair_keeps (by assumption) ?_
    | intro _
    | beta_reduce

theorem execKslSessionTimeout_keeps {st0 : Inv} {s : State} (h : Keeps st0 s)   :
    ResKeeps st0 (execKslSessionTimeout s) := by
  unfold execKslSessionTimeout
  try with_reducible refine ResKeeps.next ?_
  repeat' first
    | with_reducible assumption
    | with_reducible refine ite_keeps ?_ ?_
    | with_reducible apply State.kslClose_keeps
    | with_reducible refine ResKeeps.next ?_
    | split
    | with_reducible refine pair_keeps (by assumption) ?_
    | beta_reduce

end Sys2Proof.Machine
end

