-- ==== Sys2Proof/Laws/KeepsDeliver.lean ====
section
/-! SUPPORT. The operations and commands of Machine/Deliver.lean keep what a state is asked (Laws/Keeps.lean). -/

set_option linter.all false

namespace Sys2Proof.Machine

theorem State.nvtStats_keeps {st0 : Inv} {s : State} (h : Keeps st0 s) {c : Nat} {r : Req}  :
    Keeps st0 (State.nvtStats s c r) := by
  unfold State.nvtStats
  repeat' first
    | with_reducible assumption
    | (extract_lets -underBinder -merge +onlyGivenNames x; refine keepCut (r := st0) (x := x) ?_ (fun hx => ?_); (on_goal 1 => (unfold x; clear x)); (on_goal 2 => clear_value x))
    | (extract_lets -underBinder -merge +onlyGivenNames x; guard_hyp x : SecSt)
    | (extract_lets -underBinder -merge +onlyGivenNames x; clear_value x)
    | with_reducible refine ite_keeps ?_ ?_
    | with_reducible apply State.sts_keeps
    | split
    | with_reducible refine pair_keeps (by assumption) ?_
    | with_reducible refine snd_ite_keeps ?_ ?_
    | with_reducible refine snd_mk_keeps ?_
    | beta_reduce

theorem State.healthCounts_keeps {st0 : Inv} {s : State} (h : Keeps st0 s) {r : Req} :
    Keeps st0 (State.healthCounts s r) := by
  unfold State.healthCounts
  repeat' first
    | with_reducible assumption
    | (extract_lets -underBinder -merge +onlyGivenNames x; refine keepCut (r := st0) (x := x) ?_ (fun hx => ?_); (on_goal 1 => (unfold x; clear x)); (on_goal 2 => clear_value x))
    | (extract_lets -underBinder -merge +onlyGivenNames x; guard_hyp x : SecSt)
    | (extract_lets -underBinder -merge +onlyGivenNames x; clear_value x)
    | with_reducible refine ite_keeps ?_ ?_
    | with_reducible apply State.modHost_keeps
    | split
    | (fail_if_no_progress (with_reducible apply Keeps.lit <;> try exact rfl))
    | with_reducible refine snd_ite_keeps ?_ ?_
    | with_reducible refine snd_mk_keeps ?_
    | with_reducible refine pair_keeps (by assumption) ?_
    | intro _
    | beta_reduce

theorem State.egressKeep_keeps {st0 : Inv} {s : State} (h : Keeps st0 s) {r : Req} {nvt : Bool} {conn : Nat} {id : Nat} :
    Keeps st0 (State.egressKeep s r nvt conn id) := by
  unfold State.egressKeep
  repeat' first
    | with_reducible assumption
    | (extract_lets -underBinder -merge +onlyGivenNames x; refine keepCut (r := st0) (x := x) ?_ (fun hx => ?_); (on_goal 1 => (unfold x; clear x)); (on_goal 2 => clear_value x))
    | (extract_lets -underBinder -merge +onlyGivenNames x; guard_hyp x : SecSt)
    | (extract_lets -underBinder -merge +onlyGivenNames x; clear_value x)
    | with_reducible refine ite_keeps ?_ ?_
    | with_reducible apply State.modReq_keeps
    | split
    | (fail_if_no_progress (with_reducible apply Keeps.lit <;> try exact rfl))
    | with_reducible refine snd_ite_keeps ?_ ?_
    | with_reducible refine snd_mk_keeps ?_
    | with_reducible refine pair_keeps (by assumption) ?_
    | intro _
    | beta_reduce

theorem State.leavingTrim_keeps {st0 : Inv} {s : State} (h : Keeps st0 s)  :
    Keeps st0 (State.leavingTrim s) := by
  unfold State.leavingTrim
  repeat' first
    | with_reducible assumption
    | (extract_lets -underBinder -merge +onlyGivenNames x; refine keepCut (r := st0) (x := x) ?_ (fun hx => ?_); (on_goal 1 => (unfold x; clear x)); (on_goal 2 => clear_value x))
    | (extract_lets -underBinder -merge +onlyGivenNames x; guard_hyp x : SecSt)
    | (extract_lets -underBinder -merge +onlyGivenNames x; clear_value x)
    | with_reducible apply State.poolGive_keeps
    | split
    | (fail_if_no_progress (with_reducible apply Keeps.lit <;> try exact rfl))
    | with_reducible refine snd_ite_keeps ?_ ?_
    | with_reducible refine snd_mk_keeps ?_
    | with_reducible refine pair_keeps (by assumption) ?_
    | intro _
    | beta_reduce

theorem State.leave_keeps {st0 : Inv} {s : State} (h : Keeps st0 s) {tag : Nat} {n : Nat} {nvt : Bool} {conn : Nat} {id : Nat} {whole : Bool} :
    Keeps st0 (State.leave s tag n nvt conn id whole) := by
  unfold State.leave
  repeat' first
    | with_reducible assumption
    | (extract_lets -underBinder -merge +onlyGivenNames x; refine keepCut (r := st0) (x := x) ?_ (fun hx => ?_); (on_goal 1 => (unfold x; clear x)); (on_goal 2 => clear_value x))
    | (extract_lets -underBinder -merge +onlyGivenNames x; guard_hyp x : SecSt)
    | (extract_lets -underBinder -merge +onlyGivenNames x; clear_value x)
    | with_reducible refine ite_keeps ?_ ?_
    | with_reducible apply State.modReq_keeps
    | split
    | (fail_if_no_progress (with_reducible apply Keeps.lit <;> try exact rfl))
    | with_reducible refine snd_ite_keeps ?_ ?_
    | with_reducible refine snd_mk_keeps ?_
    | with_reducible refine pair_keeps (by assumption) ?_
    | intro _
    | beta_reduce

theorem State.selftestFailed_keeps {st0 : Inv} {s : State} (h : Keeps st0 s)  :
    Keeps st0 (State.selftestFailed s) := by
  unfold State.selftestFailed
  repeat' first
    | with_reducible assumption
    | with_reducible refine ite_keeps ?_ ?_
    | with_reducible apply State.modHost_keeps
    | split
    | (fail_if_no_progress (with_reducible apply Keeps.lit <;> try exact rfl))
    | with_reducible refine snd_ite_keeps ?_ ?_
    | with_reducible refine snd_mk_keeps ?_
    | with_reducible refine pair_keeps (by assumption) ?_
    | intro _
    | beta_reduce

theorem State.complete_keeps {st0 : Inv} [st0.Writes] {s : State} (h : Keeps st0 s) {tag : Nat} :
    Keeps st0 (State.complete s tag) := by
  unfold State.complete
  repeat' first
    | with_reducible assumption
    | (extract_lets -underBinder -merge +onlyGivenNames x; refine keepCut (r := st0) (x := x) ?_ (fun hx => ?_); (on_goal 1 => (unfold x; clear x)); (on_goal 2 => clear_value x))
    | (extract_lets -underBinder -merge +onlyGivenNames x; guard_hyp x : SecSt)
    | (extract_lets -underBinder -merge +onlyGivenNames x; clear_value x)
    | with_reducible refine ite_keeps ?_ ?_
    | with_reducible apply State.sampleDone_keeps
    | with_reducible apply State.dropReq_keeps
    | with_reducible apply State.nvtStats_keeps
    | with_reducible apply State.healthCounts_keeps
    | with_reducible apply State.egressKeep_keeps
    | with_reducible apply State.readCount_keeps
    | with_reducible apply State.lbcComplete_keeps
    | with_reducible apply State.nvmeResp_keeps
    | with_reducible apply State.selftestFailed_keeps
    | split
    | (fail_if_no_progress (with_reducible apply Keeps.lit <;> try exact rfl))
    | with_reducible refine snd_ite_keeps ?_ ?_
    | with_reducible refine snd_mk_keeps ?_
    | with_reducible refine pair_keeps (by assumption) ?_
    | intro _
    | beta_reduce

theorem State.egressTrim_keeps {st0 : Inv} {s : State} (h : Keeps st0 s)  :
    Keeps st0 (State.egressTrim s) := by
  unfold State.egressTrim
  repeat' first
    | with_reducible assumption
    | (extract_lets -underBinder -merge +onlyGivenNames x; refine keepCut (r := st0) (x := x) ?_ (fun hx => ?_); (on_goal 1 => (unfold x; clear x)); (on_goal 2 => clear_value x))
    | (extract_lets -underBinder -merge +onlyGivenNames x; guard_hyp x : SecSt)
    | (extract_lets -underBinder -merge +onlyGivenNames x; clear_value x)
    | with_reducible apply State.poolGive_keeps
    | with_reducible apply State.leavingTrim_keeps
    | split
    | (fail_if_no_progress (with_reducible apply Keeps.lit <;> try exact rfl))
    | with_reducible refine snd_ite_keeps ?_ ?_
    | with_reducible refine snd_mk_keeps ?_
    | with_reducible refine pair_keeps (by assumption) ?_
    | intro _
    | beta_reduce

theorem State.foreignBad_keeps {st0 : Inv} [st0.Writes] {s : State} (h : Keeps st0 s) {r : Req} {cid : Nat} :
    Keeps st0 (State.foreignBad s r cid) := by
  unfold State.foreignBad
  repeat' first
    | with_reducible assumption
    | (extract_lets -underBinder -merge +onlyGivenNames x; refine keepCut (r := st0) (x := x) ?_ (fun hx => ?_); (on_goal 1 => (unfold x; clear x)); (on_goal 2 => clear_value x))
    | (extract_lets -underBinder -merge +onlyGivenNames x; guard_hyp x : SecSt)
    | (extract_lets -underBinder -merge +onlyGivenNames x; clear_value x)
    | with_reducible refine ite_keeps ?_ ?_
    | with_reducible apply State.modFab_keeps
    | with_reducible apply State.fabNext_keeps
    | with_reducible apply State.fabNeed_keeps
    | with_reducible apply State.takePart_keeps
    | with_reducible apply State.authFail_keeps
    | with_reducible apply State.modRead_keeps
    | with_reducible apply State.bump_keeps
    | split
    | (fail_if_no_progress (with_reducible apply Keeps.lit <;> try exact rfl))
    | with_reducible refine snd_ite_keeps ?_ ?_
    | with_reducible refine snd_mk_keeps ?_
    | with_reducible refine pair_keeps (by assumption) ?_
    | intro _
    | beta_reduce

theorem State.chunkChecked_keeps {st0 : Inv} [st0.Writes] {s : State} (h : Keeps st0 s) {r : Req} {cid : Nat} {ok : Bool} :
    Keeps st0 (State.chunkChecked s r cid ok) := by
  unfold State.chunkChecked
  repeat' first
    | with_reducible assumption
    | (extract_lets -underBinder -merge +onlyGivenNames x; refine keepCut (r := st0) (x := x) ?_ (fun hx => ?_); (on_goal 1 => (unfold x; clear x)); (on_goal 2 => clear_value x))
    | (extract_lets -underBinder -merge +onlyGivenNames x; guard_hyp x : SecSt)
    | (extract_lets -underBinder -merge +onlyGivenNames x; clear_value x)
    | with_reducible refine ite_keeps ?_ ?_
    | with_reducible apply State.foreignBad_keeps
    | with_reducible apply State.modFab_keeps
    | with_reducible apply State.copyGood_keeps
    | with_reducible apply State.copyBad_keeps
    | split
    | (fail_if_no_progress (with_reducible apply Keeps.lit <;> try exact rfl))
    | with_reducible refine snd_ite_keeps ?_ ?_
    | with_reducible refine snd_mk_keeps ?_
    | with_reducible refine pair_keeps (by assumption) ?_
    | intro _
    | beta_reduce

theorem State.sliceDone_keeps {st0 : Inv} {s : State} (h : Keeps st0 s) {tag : Nat} :
    Keeps st0 (State.sliceDone s tag) := by
  unfold State.sliceDone
  repeat' first
    | with_reducible assumption
    | (extract_lets -underBinder -merge +onlyGivenNames x; refine keepCut (r := st0) (x := x) ?_ (fun hx => ?_); (on_goal 1 => (unfold x; clear x)); (on_goal 2 => clear_value x))
    | (extract_lets -underBinder -merge +onlyGivenNames x; guard_hyp x : SecSt)
    | (extract_lets -underBinder -merge +onlyGivenNames x; clear_value x)
    | with_reducible refine ite_keeps ?_ ?_
    | with_reducible apply State.finish_keeps
    | with_reducible apply State.reqGive_keeps
    | split
    | (fail_if_no_progress (with_reducible apply Keeps.lit <;> try exact rfl))
    | with_reducible refine snd_ite_keeps ?_ ?_
    | with_reducible refine snd_mk_keeps ?_
    | with_reducible refine pair_keeps (by assumption) ?_
    | intro _
    | beta_reduce

theorem State.readRefused_keeps {st0 : Inv} {s : State} (h : Keeps st0 s) {tag : Nat} {h : Nat} :
    Keeps st0 (State.readRefused s tag h) := by
  unfold State.readRefused
  repeat' first
    | with_reducible assumption
    | with_reducible apply State.readFail_keeps
    | with_reducible apply State.wakeHeld_keeps
    | with_reducible apply State.useRefused_keeps
    | split
    | (fail_if_no_progress (with_reducible apply Keeps.lit <;> try exact rfl))
    | with_reducible refine snd_ite_keeps ?_ ?_
    | with_reducible refine snd_mk_keeps ?_
    | with_reducible refine pair_keeps (by assumption) ?_
    | intro _
    | beta_reduce

theorem State.copyPass_keeps {st0 : Inv} [st0.Writes] {s : State} (h : Keeps st0 s) {r : Req} {cid : Nat} {vatH : Nat} {genH : Nat} {tagH : Nat} {tagOk : Bool} :
    Keeps st0 (State.copyPass s r cid vatH genH tagH tagOk) := by
  unfold State.copyPass
  repeat' first
    | with_reducible assumption
    | (extract_lets -underBinder -merge +onlyGivenNames x; refine keepCut (r := st0) (x := x) ?_ (fun hx => ?_); (on_goal 1 => (unfold x; clear x)); (on_goal 2 => clear_value x))
    | (extract_lets -underBinder -merge +onlyGivenNames x; guard_hyp x : SecSt)
    | (extract_lets -underBinder -merge +onlyGivenNames x; clear_value x)
    | with_reducible refine ite_keeps ?_ ?_
    | with_reducible apply State.chunkChecked_keeps
    | with_reducible apply State.readRefused_keeps
    | with_reducible apply State.segRun_keeps
    | with_reducible apply State.bump_keeps
    | split
    | (fail_if_no_progress (with_reducible apply Keeps.lit <;> try exact rfl))
    | with_reducible refine snd_ite_keeps ?_ ?_
    | with_reducible refine snd_mk_keeps ?_
    | with_reducible refine pair_keeps (by assumption) ?_
    | intro _
    | beta_reduce

theorem State.recPass_keeps {st0 : Inv} {s : State} (h : Keeps st0 s) {r : Req} {k : Nat} {tagOk : Bool} :
    Keeps st0 (State.recPass s r k tagOk) := by
  unfold State.recPass
  repeat' first
    | with_reducible assumption
    | (extract_lets -underBinder -merge +onlyGivenNames x; refine keepCut (r := st0) (x := x) ?_ (fun hx => ?_); (on_goal 1 => (unfold x; clear x)); (on_goal 2 => clear_value x))
    | (extract_lets -underBinder -merge +onlyGivenNames x; guard_hyp x : SecSt)
    | (extract_lets -underBinder -merge +onlyGivenNames x; clear_value x)
    | with_reducible refine ite_keeps ?_ ?_
    | with_reducible apply State.readRefused_keeps
    | with_reducible apply State.segRun_keeps
    | with_reducible apply State.recChecked_keeps
    | with_reducible apply State.bump_keeps
    | split
    | (fail_if_no_progress (with_reducible apply Keeps.lit <;> try exact rfl))
    | with_reducible refine snd_ite_keeps ?_ ?_
    | with_reducible refine snd_mk_keeps ?_
    | with_reducible refine pair_keeps (by assumption) ?_
    | intro _
    | beta_reduce

theorem execSliceTagCheck_keeps {st0 : Inv} [st0.Writes] {s : State} (h : Keeps st0 s) {tag : Nat} {cid : Nat} {vatH : Nat} {genH : Nat} {tagH : Nat} {tagOk : Bool} :
    ResKeeps st0 (execSliceTagCheck tag cid vatH genH tagH tagOk s) := by
  unfold execSliceTagCheck
  try with_reducible refine ResKeeps.next ?_
  repeat' first
    | with_reducible assumption
    | with_reducible refine ite_keeps ?_ ?_
    | with_reducible refine ResKeeps.next ?_
    | with_reducible apply State.sliceDone_keeps
    | with_reducible apply State.copyPass_keeps
    | with_reducible apply State.recPass_keeps
    | split
    | (fail_if_no_progress (with_reducible apply Keeps.lit <;> try exact rfl))
    | with_reducible refine snd_ite_keeps ?_ ?_
    | with_reducible refine snd_mk_keeps ?_
    | with_reducible refine pair_keeps (by assumption) ?_
    | intro _
    | beta_reduce

theorem execInflateJobEnd_keeps {st0 : Inv} {s : State} (h : Keeps st0 s) {tag : Nat} {cid : Nat} {slow : Bool} {bitOff : Nat} {outBytes : Nat} :
    ResKeeps st0 (execInflateJobEnd tag cid slow bitOff outBytes s) := by
  unfold execInflateJobEnd
  try with_reducible refine ResKeeps.next ?_
  repeat' first
    | with_reducible assumption
    | (extract_lets -underBinder -merge +onlyGivenNames x; refine keepCut (r := st0) (x := x) ?_ (fun hx => ?_); (on_goal 1 => (unfold x; clear x)); (on_goal 2 => clear_value x))
    | (extract_lets -underBinder -merge +onlyGivenNames x; guard_hyp x : SecSt)
    | (extract_lets -underBinder -merge +onlyGivenNames x; clear_value x)
    | with_reducible refine ite_keeps ?_ ?_
    | with_reducible refine ResKeeps.next ?_
    | with_reducible apply State.compressed_keeps
    | with_reducible apply State.sliceDone_keeps
    | with_reducible apply State.inflDone_keeps
    | with_reducible apply State.unitRun_keeps
    | with_reducible apply State.handOn_keeps
    | with_reducible apply State.stageData_keeps
    | with_reducible apply State.inflFail_keeps
    | with_reducible apply State.bump_keeps
    | with_reducible apply State.readFail_keeps
    | with_reducible apply State.wakeHeld_keeps
    | split
    | (fail_if_no_progress (with_reducible apply Keeps.lit <;> try exact rfl))
    | with_reducible refine snd_ite_keeps ?_ ?_
    | with_reducible refine snd_mk_keeps ?_
    | with_reducible refine pair_keeps (by assumption) ?_
    | intro _
    | beta_reduce

theorem State.handed_keeps {st0 : Inv} {s : State} (h : Keeps st0 s) {tag : Nat} {lbas : List Nat} {count : Nat} {bytes : Nat} :
    Keeps st0 (State.handed s tag lbas count bytes) := by
  unfold State.handed
  repeat' first
    | with_reducible assumption
    | with_reducible apply State.modReq_keeps
    | split
    | (fail_if_no_progress (with_reducible apply Keeps.lit <;> try exact rfl))
    | with_reducible refine snd_ite_keeps ?_ ?_
    | with_reducible refine snd_mk_keeps ?_
    | with_reducible refine pair_keeps (by assumption) ?_
    | intro _
    | beta_reduce

theorem State.nvtDeliver_keeps {st0 : Inv} [st0.Writes] {s : State} (h : Keeps st0 s) {c : Nat} {cid : Nat} {r : Req} :
    Keeps st0 (State.nvtDeliver s c cid r) := by
  unfold State.nvtDeliver
  repeat' first
    | with_reducible assumption
    | (extract_lets -underBinder -merge +onlyGivenNames x; refine keepCut (r := st0) (x := x) ?_ (fun hx => ?_); (on_goal 1 => (unfold x; clear x)); (on_goal 2 => clear_value x))
    | (extract_lets -underBinder -merge +onlyGivenNames x; guard_hyp x : SecSt)
    | (extract_lets -underBinder -merge +onlyGivenNames x; clear_value x)
    | with_reducible refine ite_keeps ?_ ?_
    | with_reducible apply State.complete_keeps
    | with_reducible apply State.handed_keeps
    | with_reducible apply State.modConn_keeps
    | with_reducible apply State.tcpSend_keeps
    | with_reducible apply State.leavingTrim_keeps
    | with_reducible apply State.leave_keeps
    | split
    | (fail_if_no_progress (with_reducible apply Keeps.lit <;> try exact rfl))
    | with_reducible refine snd_ite_keeps ?_ ?_
    | with_reducible refine snd_mk_keeps ?_
    | with_reducible refine pair_keeps (by assumption) ?_
    | intro _
    | beta_reduce

theorem State.deliverKey_keeps {st0 : Inv} {s : State} (h : Keeps st0 s) {n : Nat} {r : Req} :
    Keeps st0 (State.deliverKey s n r).2 := by
  unfold State.deliverKey
  repeat' first
    | with_reducible assumption
    | (extract_lets -underBinder -merge +onlyGivenNames x; refine keepCut (r := st0) (x := x) ?_ (fun hx => ?_); (on_goal 1 => (unfold x; clear x)); (on_goal 2 => clear_value x))
    | (extract_lets -underBinder -merge +onlyGivenNames x; guard_hyp x : SecSt)
    | (extract_lets -underBinder -merge +onlyGivenNames x; clear_value x)
    | with_reducible refine ite_keeps ?_ ?_
    | with_reducible apply State.keyAsk_keeps
    | with_reducible apply State.readRefused_keeps
    | split
    | (fail_if_no_progress (with_reducible apply Keeps.lit <;> try exact rfl))
    | with_reducible refine snd_ite_keeps ?_ ?_
    | with_reducible refine snd_mk_keeps ?_
    | with_reducible refine pair_keeps (by assumption) ?_
    | intro _
    | beta_reduce

theorem State.unstageSent_keeps {st0 : Inv} {s : State} (h : Keeps st0 s) {tag : Nat} :
    Keeps st0 (State.unstageSent s tag) := by
  unfold State.unstageSent
  repeat' first
    | with_reducible assumption
    | (extract_lets -underBinder -merge +onlyGivenNames x; refine keepCut (r := st0) (x := x) ?_ (fun hx => ?_); (on_goal 1 => (unfold x; clear x)); (on_goal 2 => clear_value x))
    | (extract_lets -underBinder -merge +onlyGivenNames x; guard_hyp x : SecSt)
    | (extract_lets -underBinder -merge +onlyGivenNames x; clear_value x)
    | with_reducible apply State.unstage_keeps
    | with_reducible refine foldl_keeps ?_ (fun _ _ _ => ?_)
    | split
    | (fail_if_no_progress (with_reducible apply Keeps.lit <;> try exact rfl))
    | with_reducible refine snd_ite_keeps ?_ ?_
    | with_reducible refine snd_mk_keeps ?_
    | with_reducible refine pair_keeps (by assumption) ?_
    | intro _
    | beta_reduce

theorem State.partMsg_keeps {st0 : Inv} {s : State} (h : Keeps st0 s) {n : Nat} {r : Req} {p : Nat} :
    Keeps st0 (State.partMsg s n r p).2 := by
  unfold State.partMsg
  repeat' first
    | with_reducible assumption
    | (extract_lets -underBinder -merge +onlyGivenNames x; refine keepCut (r := st0) (x := x) ?_ (fun hx => ?_); (on_goal 1 => (unfold x; clear x)); (on_goal 2 => clear_value x))
    | (extract_lets -underBinder -merge +onlyGivenNames x; guard_hyp x : SecSt)
    | (extract_lets -underBinder -merge +onlyGivenNames x; clear_value x)
    | with_reducible apply State.modLconn_keeps
    | with_reducible apply State.modReq_keeps
    | split
    | (fail_if_no_progress (with_reducible apply Keeps.lit <;> try exact rfl))
    | with_reducible refine snd_ite_keeps ?_ ?_
    | with_reducible refine snd_mk_keeps ?_
    | with_reducible refine pair_keeps (by assumption) ?_
    | intro _
    | beta_reduce

theorem State.blockIn_keeps {st0 : Inv} {s : State} (h : Keeps st0 s) {n : Nat} {msn : Nat} {b : Nat} {data : Nat} :
    Keeps st0 (State.blockIn s n msn b data) := by
  unfold State.blockIn
  repeat' first
    | with_reducible assumption
    | with_reducible refine ite_keeps ?_ ?_
    | with_reducible apply State.modLconn_keeps
    | split
    | (fail_if_no_progress (with_reducible apply Keeps.lit <;> try exact rfl))
    | with_reducible refine snd_ite_keeps ?_ ?_
    | with_reducible refine snd_mk_keeps ?_
    | with_reducible refine pair_keeps (by assumption) ?_
    | intro _
    | beta_reduce

theorem State.ldtBlock_keeps {st0 : Inv} {s : State} (h : Keeps st0 s) {n : Nat} {tag : Nat} {lba : Nat} :
    Keeps st0 (State.ldtBlock s n tag lba) := by
  unfold State.ldtBlock
  repeat' first
    | with_reducible assumption
    | (extract_lets -underBinder -merge +onlyGivenNames x; refine keepCut (r := st0) (x := x) ?_ (fun hx => ?_); (on_goal 1 => (unfold x; clear x)); (on_goal 2 => clear_value x))
    | (extract_lets -underBinder -merge +onlyGivenNames x; guard_hyp x : SecSt)
    | (extract_lets -underBinder -merge +onlyGivenNames x; clear_value x)
    | with_reducible refine ite_keeps ?_ ?_
    | with_reducible apply State.handed_keeps
    | with_reducible apply State.unstageSent_keeps
    | with_reducible apply State.partMsg_keeps
    | with_reducible apply State.blockIn_keeps
    | with_reducible apply State.segRun_keeps
    | with_reducible apply State.bump_keeps
    | with_reducible apply State.leave_keeps
    | split
    | (fail_if_no_progress (with_reducible apply Keeps.lit <;> try exact rfl))
    | with_reducible refine snd_ite_keeps ?_ ?_
    | with_reducible refine snd_mk_keeps ?_
    | with_reducible refine pair_keeps (by assumption) ?_
    | intro _
    | beta_reduce

theorem State.ldtDeliver_keeps {st0 : Inv} [st0.Writes] {s : State} (h : Keeps st0 s) {n : Nat} {r : Req} :
    Keeps st0 (State.ldtDeliver s n r) := by
  unfold State.ldtDeliver
  repeat' first
    | with_reducible assumption
    | (extract_lets -underBinder -merge +onlyGivenNames x; refine keepCut (r := st0) (x := x) ?_ (fun hx => ?_); (on_goal 1 => (unfold x; clear x)); (on_goal 2 => clear_value x))
    | (extract_lets -underBinder -merge +onlyGivenNames x; guard_hyp x : SecSt)
    | (extract_lets -underBinder -merge +onlyGivenNames x; clear_value x)
    | with_reducible refine ite_keeps ?_ ?_
    | with_reducible apply State.complete_keeps
    | with_reducible apply State.deliverKey_keeps
    | with_reducible apply State.ldtBlock_keeps
    | with_reducible apply State.ldtGo_keeps
    | with_reducible apply State.leavingTrim_keeps
    | with_reducible refine foldl_keeps ?_ (fun _ _ _ => ?_)
    | split
    | (fail_if_no_progress (with_reducible apply Keeps.lit <;> try exact rfl))
    | with_reducible refine snd_ite_keeps ?_ ?_
    | with_reducible refine snd_mk_keeps ?_
    | with_reducible refine pair_keeps (by assumption) ?_
    | intro _
    | beta_reduce

theorem State.cdZero_keeps {st0 : Inv} {s : State} (h : Keeps st0 s) {q : Nat × Nat}  :
    Keeps st0 (State.cdZero s q).2 := by
  unfold State.cdZero
  repeat' first
    | with_reducible assumption
    | (extract_lets -underBinder -merge +onlyGivenNames x; refine keepCut (r := st0) (x := x) ?_ (fun hx => ?_); (on_goal 1 => (unfold x; clear x)); (on_goal 2 => clear_value x))
    | (extract_lets -underBinder -merge +onlyGivenNames x; guard_hyp x : SecSt)
    | (extract_lets -underBinder -merge +onlyGivenNames x; clear_value x)
    | with_reducible apply State.free_keeps
    | split
    | (fail_if_no_progress (with_reducible apply Keeps.lit <;> try exact rfl))
    | with_reducible refine pair_keeps (by assumption) ?_
    | beta_reduce

theorem State.cdPart_keeps {st0 : Inv} {s : State} (h : Keeps st0 s) {r : Req} {p : Nat}  :
    Keeps st0 (State.cdPart s r p).2 := by
  unfold State.cdPart
  repeat' first
    | with_reducible assumption
    | (extract_lets -underBinder -merge +onlyGivenNames x; refine keepCut (r := st0) (x := x) ?_ (fun hx => ?_); (on_goal 1 => (unfold x; clear x)); (on_goal 2 => clear_value x))
    | (extract_lets -underBinder -merge +onlyGivenNames x; guard_hyp x : SecSt)
    | (extract_lets -underBinder -merge +onlyGivenNames x; clear_value x)
    | with_reducible apply State.cdZero_keeps
    | with_reducible refine foldl_snd_keeps ?_ (fun _ _ _ => ?_)
    | with_reducible refine foldl_keeps ?_ (fun _ _ _ => ?_)
    | split
    | with_reducible refine pair_keeps (by assumption) ?_
    | intro _
    | beta_reduce

theorem State.ldtDeliverCd_keeps {st0 : Inv} [st0.Writes] {s : State} (h : Keeps st0 s) {n : Nat} {r : Req} :
    Keeps st0 (State.ldtDeliverCd s n r) := by
  unfold State.ldtDeliverCd
  repeat' first
    | with_reducible assumption
    | (extract_lets -underBinder -merge +onlyGivenNames x; refine keepCut (r := st0) (x := x) ?_ (fun hx => ?_); (on_goal 1 => (unfold x; clear x)); (on_goal 2 => clear_value x))
    | (extract_lets -underBinder -merge +onlyGivenNames x; guard_hyp x : SecSt)
    | (extract_lets -underBinder -merge +onlyGivenNames x; clear_value x)
    | with_reducible refine ite_keeps ?_ ?_
    | with_reducible apply State.complete_keeps
    | with_reducible apply State.handed_keeps
    | with_reducible apply State.deliverKey_keeps
    | with_reducible apply State.unstageSent_keeps
    | with_reducible apply State.cdPart_keeps
    | with_reducible apply State.segRun_keeps
    | with_reducible apply State.ldtMsg_keeps
    | with_reducible apply State.bump_keeps
    | with_reducible apply State.modReq_keeps
    | with_reducible apply State.leavingTrim_keeps
    | with_reducible apply State.leave_keeps
    | split
    | (fail_if_no_progress (with_reducible apply Keeps.lit <;> try exact rfl))
    | with_reducible refine snd_ite_keeps ?_ ?_
    | with_reducible refine snd_mk_keeps ?_
    | with_reducible refine pair_keeps (by assumption) ?_
    | intro _
    | beta_reduce

theorem State.fetchDeliver_keeps {st0 : Inv} [st0.Writes] {s : State} (h : Keeps st0 s) {n : Nat} {r : Req} :
    Keeps st0 (State.fetchDeliver s n r) := by
  unfold State.fetchDeliver
  repeat' first
    | with_reducible assumption
    | (extract_lets -underBinder -merge +onlyGivenNames x; refine keepCut (r := st0) (x := x) ?_ (fun hx => ?_); (on_goal 1 => (unfold x; clear x)); (on_goal 2 => clear_value x))
    | (extract_lets -underBinder -merge +onlyGivenNames x; guard_hyp x : SecSt)
    | (extract_lets -underBinder -merge +onlyGivenNames x; clear_value x)
    | with_reducible refine ite_keeps ?_ ?_
    | with_reducible apply State.complete_keeps
    | with_reducible apply State.deliverKey_keeps
    | with_reducible apply State.segRun_keeps
    | with_reducible apply State.copyUsed_keeps
    | with_reducible apply State.ldtMsg_keeps
    | with_reducible apply State.bump_keeps
    | with_reducible apply State.modReq_keeps
    | with_reducible apply State.leavingTrim_keeps
    | with_reducible apply State.leave_keeps
    | split
    | (fail_if_no_progress (with_reducible apply Keeps.lit <;> try exact rfl))
    | with_reducible refine snd_ite_keeps ?_ ?_
    | with_reducible refine snd_mk_keeps ?_
    | with_reducible refine pair_keeps (by assumption) ?_
    | intro _
    | beta_reduce

theorem State.repDeliver_keeps {st0 : Inv} [st0.Writes] {s : State} (h : Keeps st0 s) {n : Nat} {r : Req} : Keeps st0 (s.repDeliver n r) := by
  unfold State.repDeliver
  extract_lets -underBinder -merge +onlyGivenNames pub cids
  refine ite_keeps h ?_
  split
  · rename_i s1 e1
    exact pair_keeps e1 (State.deliverKey_keeps h)
  rename_i s1 e1
  have h1 : Keeps st0 s1 := pair_keeps e1 (State.deliverKey_keeps h)
  extract_lets -underBinder -merge +onlyGivenNames need
  split
  rename_i ran s2 e2
  have h2 : Keeps st0 s2 := pair_keeps e2 (State.segRun_keeps h1)
  refine ite_keeps h2 ?_
  split
  rename_i len s3 e3
  have h3 : Keeps st0 s3 := by
    refine pair_keeps e3 (foldl_snd_keeps (p := ((0 : Nat), s2)) h2 (fun q _ hq => ?_))
    dsimp only
    split
    · exact State.leave_keeps (State.ldtMsg_keeps (State.bump_keeps hq))
    · exact hq
  exact State.complete_keeps (State.modReq_keeps (State.bump_keeps (foldl_keeps (State.leavingTrim_keeps h3)
    (fun _ _ ht => State.copyUsed_keeps ht))))

theorem execDeliveryEgress_keeps {st0 : Inv} [st0.Writes] {s : State} (h : Keeps st0 s) {tag : Nat}  :
    ResKeeps st0 (execDeliveryEgress tag s) := by
  unfold execDeliveryEgress
  try with_reducible refine ResKeeps.next ?_
  repeat' first
    | with_reducible assumption
    | with_reducible refine ite_keeps ?_ ?_
    | with_reducible apply State.nvtDeliver_keeps
    | with_reducible apply State.ldtDeliverCd_keeps
    | with_reducible apply State.ldtDeliver_keeps
    | with_reducible apply State.fetchDeliver_keeps
    | with_reducible apply State.repDeliver_keeps
    | with_reducible refine ResKeeps.next ?_
    | split
    | with_reducible refine pair_keeps (by assumption) ?_
    | beta_reduce

theorem State.flushGo_keeps {st0 : Inv} [st0.Writes] {s : State} (h : Keeps st0 s)   :
    Keeps st0 (State.flushGo s) := by
  unfold State.flushGo
  repeat' first
    | with_reducible assumption
    | with_reducible refine ite_keeps ?_ ?_
    | with_reducible apply State.complete_keeps
    | with_reducible refine foldl_keeps ?_ (fun _ _ _ => ?_)
    | split
    | with_reducible refine pair_keeps (by assumption) ?_
    | intro _
    | beta_reduce

theorem execWriteAcknowledge_keeps {st0 : Inv} [st0.Writes] {s : State} (h : Keeps st0 s) {tag : Nat}  :
    ResKeeps st0 (execWriteAcknowledge tag s) := by
  unfold execWriteAcknowledge
  try with_reducible refine ResKeeps.next ?_
  repeat' first
    | with_reducible assumption
    | (extract_lets -underBinder -merge +onlyGivenNames x; refine keepCut (r := st0) (x := x) ?_ (fun hx => ?_); (on_goal 1 => (unfold x; clear x)); (on_goal 2 => clear_value x))
    | (extract_lets -underBinder -merge +onlyGivenNames x; guard_hyp x : SecSt)
    | (extract_lets -underBinder -merge +onlyGivenNames x; clear_value x)
    | with_reducible refine ite_keeps ?_ ?_
    | with_reducible apply State.bump_keeps
    | with_reducible apply State.complete_keeps
    | with_reducible apply State.flushGo_keeps
    | with_reducible refine ResKeeps.next ?_
    | split
    | with_reducible refine pair_keeps (by assumption) ?_
    | intro _
    | beta_reduce

theorem execEgressStallReset_keeps {st0 : Inv} [st0.Writes] {s : State} (h : Keeps st0 s) {nvt : Bool} {conn : Nat}  :
    ResKeeps st0 (execEgressStallReset nvt conn s) := by
  unfold execEgressStallReset
  try with_reducible refine ResKeeps.next ?_
  repeat' first
    | with_reducible assumption
    | (extract_lets -underBinder -merge +onlyGivenNames x; refine keepCut (r := st0) (x := x) ?_ (fun hx => ?_); (on_goal 1 => (unfold x; clear x)); (on_goal 2 => clear_value x))
    | (extract_lets -underBinder -merge +onlyGivenNames x; guard_hyp x : SecSt)
    | (extract_lets -underBinder -merge +onlyGivenNames x; clear_value x)
    | with_reducible refine ite_keeps ?_ ?_
    | with_reducible apply State.raise_keeps
    | with_reducible apply State.satInc_keeps
    | with_reducible apply State.sample_keeps
    | with_reducible apply State.connEnd_keeps
    | with_reducible apply State.bump_keeps
    | with_reducible apply State.ldtClose_keeps
    | with_reducible refine ResKeeps.next ?_
    | split
    | with_reducible refine pair_keeps (by assumption) ?_
    | with_reducible refine snd_ite_keeps ?_ ?_
    | with_reducible refine snd_mk_keeps ?_
    | beta_reduce

end Sys2Proof.Machine
end

