-- ==== Sys2Proof/Laws/KeepsCommit.lean ====
section
/-! SUPPORT. The operations and commands of Machine/Commit.lean keep what a state is asked (Laws/Keeps.lean). -/

set_option linter.all false

namespace Sys2Proof.Machine

theorem State.ldtIfGone_keeps {st0 : Inv} [st0.Writes] {s : State} (h : Keeps st0 s) {g : Nat} {n : Nat} :
    Keeps st0 (State.ldtIfGone s g n) := by
  unfold State.ldtIfGone
  repeat' first
    | with_reducible assumption
    | with_reducible refine ite_keeps ?_ ?_
    | with_reducible apply State.ldtClose_keeps
    | with_reducible refine foldl_keeps ?_ (fun _ _ _ => ?_)
    | split
    | (fail_if_no_progress (with_reducible apply Keeps.lit <;> try exact rfl))
    | with_reducible refine snd_ite_keeps ?_ ?_
    | with_reducible refine snd_mk_keeps ?_
    | with_reducible refine pair_keeps (by assumption) ?_
    | intro _
    | beta_reduce

theorem State.hfiLoad_keeps {st0 : Inv} [st0.Writes] {s : State} (h : Keeps st0 s) {g : Nat} :
    Keeps st0 (State.hfiLoad s g) := by
  unfold State.hfiLoad
  repeat' first
    | with_reducible assumption
    | (extract_lets -underBinder -merge +onlyGivenNames x; refine keepCut (r := st0) (x := x) ?_ (fun hx => ?_); (on_goal 1 => (unfold x; clear x)); (on_goal 2 => clear_value x))
    | (extract_lets -underBinder -merge +onlyGivenNames x; guard_hyp x : SecSt)
    | (extract_lets -underBinder -merge +onlyGivenNames x; clear_value x)
    | with_reducible apply State.connEnd_keeps
    | with_reducible apply State.setAll_keeps
    | with_reducible apply State.irq_keeps
    | with_reducible apply State.raise_keeps
    | with_reducible apply State.modHost_keeps
    | with_reducible apply State.ldtIfGone_keeps
    | with_reducible refine foldl_keeps ?_ (fun _ _ _ => ?_)
    | split
    | (fail_if_no_progress (with_reducible apply Keeps.lit <;> try exact rfl))
    | with_reducible refine snd_ite_keeps ?_ ?_
    | with_reducible refine snd_mk_keeps ?_
    | with_reducible refine pair_keeps (by assumption) ?_
    | intro _
    | beta_reduce

theorem State.commitDone_keeps {st0 : Inv} [st0.Writes] {s : State} (h : Keeps st0 s) {old : State} {code : Nat} {i : Nat} {slots : List Nat}  :
    Keeps st0 (State.commitDone s old code i slots) := by
  unfold State.commitDone
  repeat' first
    | with_reducible assumption
    | (extract_lets -underBinder -merge +onlyGivenNames x; refine keepCut (r := st0) (x := x) ?_ (fun hx => ?_); (on_goal 1 => (unfold x; clear x)); (on_goal 2 => clear_value x))
    | (extract_lets -underBinder -merge +onlyGivenNames x; guard_hyp x : SecSt)
    | (extract_lets -underBinder -merge +onlyGivenNames x; clear_value x)
    | with_reducible refine ite_keeps ?_ ?_
    | with_reducible apply State.quadApply_keeps
    | with_reducible apply State.hfiLoad_keeps
    | with_reducible apply State.readRoutes_keeps
    | with_reducible apply State.bump_keeps
    | with_reducible apply State.erqUpdate_keeps
    | with_reducible refine foldl_keeps ?_ (fun _ _ _ => ?_)
    | split
    | with_reducible refine pair_keeps (by assumption) ?_
    | intro _
    | beta_reduce

theorem State.withShadows_keeps {st0 : Inv} {s : State} (h : Keeps st0 s) {slots : List Nat}  :
    Keeps st0 (State.withShadows s slots) := by
  unfold State.withShadows
  repeat' first
    | with_reducible assumption
    | with_reducible refine foldl_keeps ?_ (fun _ _ _ => ?_)
    | (fail_if_no_progress (with_reducible apply Keeps.lit <;> try exact rfl))
    | intro _
    | beta_reduce

theorem State.commitClear_keeps {st0 : Inv} {s : State} (h : Keeps st0 s) {slots : List Nat}  :
    Keeps st0 (State.commitClear s slots) := by
  unfold State.commitClear
  repeat' first
    | with_reducible assumption
    | with_reducible apply State.modHdr_keeps
    | with_reducible refine foldl_keeps ?_ (fun _ _ _ => ?_)
    | (fail_if_no_progress (with_reducible apply Keeps.lit <;> try exact rfl))
    | intro _
    | beta_reduce

theorem State.commitRefused_keeps {st0 : Inv} {s : State} (h : Keeps st0 s) {code : Nat} {cond : Nat} {info : Nat} {slots : List Nat}  :
    Keeps st0 (State.commitRefused s code cond info slots) := by
  unfold State.commitRefused
  repeat' first
    | with_reducible assumption
    | (extract_lets -underBinder -merge +onlyGivenNames x; refine keepCut (r := st0) (x := x) ?_ (fun hx => ?_); (on_goal 1 => (unfold x; clear x)); (on_goal 2 => clear_value x))
    | (extract_lets -underBinder -merge +onlyGivenNames x; guard_hyp x : SecSt)
    | (extract_lets -underBinder -merge +onlyGivenNames x; clear_value x)
    | with_reducible refine ite_keeps ?_ ?_
    | with_reducible apply State.commitClear_keeps
    | with_reducible apply State.raise_keeps
    | with_reducible apply State.satInc_keeps
    | with_reducible apply State.bump_keeps
    | split
    | with_reducible refine pair_keeps (by assumption) ?_
    | beta_reduce

theorem State.commitUnit_keeps {st0 : Inv} [st0.Writes] {s : State} (h : Keeps st0 s) {key : Nat} {slots : List Nat}  :
    Keeps st0 (State.commitUnit s key slots) := by
  unfold State.commitUnit
  repeat' first
    | with_reducible assumption
    | (extract_lets -underBinder -merge +onlyGivenNames x; refine keepCut (r := st0) (x := x) ?_ (fun hx => ?_); (on_goal 1 => (unfold x; clear x)); (on_goal 2 => clear_value x))
    | (extract_lets -underBinder -merge +onlyGivenNames x; guard_hyp x : SecSt)
    | (extract_lets -underBinder -merge +onlyGivenNames x; clear_value x)
    | with_reducible apply State.withShadows_keeps
    | with_reducible apply State.commitRefused_keeps
    | with_reducible apply State.dropShadows_keeps
    | with_reducible apply State.commitDone_keeps
    | split
    | with_reducible refine pair_keeps (by assumption) ?_
    | beta_reduce

theorem State.commitAll_keeps {st0 : Inv} [st0.Writes] {s : State} (h : Keeps st0 s)   :
    Keeps st0 (State.commitAll s) := by
  unfold State.commitAll
  repeat' first
    | with_reducible assumption
    | (extract_lets -underBinder -merge +onlyGivenNames x; refine keepCut (r := st0) (x := x) ?_ (fun hx => ?_); (on_goal 1 => (unfold x; clear x)); (on_goal 2 => clear_value x))
    | (extract_lets -underBinder -merge +onlyGivenNames x; guard_hyp x : SecSt)
    | (extract_lets -underBinder -merge +onlyGivenNames x; clear_value x)
    | with_reducible apply State.commitUnit_keeps
    | with_reducible refine foldl_keeps ?_ (fun _ _ _ => ?_)
    | intro _
    | beta_reduce

end Sys2Proof.Machine
end

