-- ==== Sys2Proof/Laws/KeepsAdmit.lean ====
section
/-! SUPPORT. The operations and commands of Machine/Admit.lean keep what a state is asked (Laws/Keeps.lean). -/

set_option linter.all false

namespace Sys2Proof.Machine

theorem State.askData_keeps {st0 : Inv} [st0.Writes] {s : State} (h : Keeps st0 s) {r : Req} {p : Nat}  :
    Keeps st0 (State.askData s r p) := by
  unfold State.askData
  repeat' first
    | with_reducible assumption
    | (extract_lets -underBinder -merge +onlyGivenNames x; refine keepCut (r := st0) (x := x) ?_ (fun hx => ?_); (on_goal 1 => (unfold x; clear x)); (on_goal 2 => clear_value x))
    | (extract_lets -underBinder -merge +onlyGivenNames x; guard_hyp x : SecSt)
    | (extract_lets -underBinder -merge +onlyGivenNames x; clear_value x)
    | with_reducible refine ite_keeps ?_ ?_
    | with_reducible apply State.landBlock_keeps
    | with_reducible apply State.modConn_keeps
    | with_reducible apply State.bump_keeps
    | with_reducible apply State.tcpSend_keeps
    | with_reducible apply State.ldtRead_keeps
    | with_reducible refine foldl_keeps ?_ (fun _ _ _ => ?_)
    | split
    | (fail_if_no_progress (with_reducible apply Keeps.lit <;> try exact rfl))
    | with_reducible refine pair_keeps (by assumption) ?_
    | intro _
    | beta_reduce

theorem State.askKeys_keeps {st0 : Inv} {s : State} (h : Keeps st0 s) {r : Req} :
    Keeps st0 (State.askKeys s r) := by
  unfold State.askKeys
  repeat' first
    | with_reducible assumption
    | with_reducible apply State.keyAsk_keeps
    | with_reducible refine foldl_keeps ?_ (fun _ _ _ => ?_)
    | split
    | (fail_if_no_progress (with_reducible apply Keeps.lit <;> try exact rfl))
    | with_reducible refine snd_ite_keeps ?_ ?_
    | with_reducible refine snd_mk_keeps ?_
    | with_reducible refine pair_keeps (by assumption) ?_
    | intro _
    | beta_reduce

theorem State.admitWrite_keeps {st0 : Inv} [st0.Writes] {s : State} (h : Keeps st0 s) {r : Req} :
    Keeps st0 (State.admitWrite s r) := by
  unfold State.admitWrite
  repeat' first
    | with_reducible assumption
    | (extract_lets -underBinder -merge +onlyGivenNames x; refine keepCut (r := st0) (x := x) ?_ (fun hx => ?_); (on_goal 1 => (unfold x; clear x)); (on_goal 2 => clear_value x))
    | (extract_lets -underBinder -merge +onlyGivenNames x; guard_hyp x : SecSt)
    | (extract_lets -underBinder -merge +onlyGivenNames x; clear_value x)
    | with_reducible refine ite_keeps ?_ ?_
    | with_reducible apply State.askData_keeps
    | with_reducible apply State.askKeys_keeps
    | with_reducible apply State.modReq_keeps
    | with_reducible apply State.reservePart_keeps
    | split
    | (fail_if_no_progress (with_reducible apply Keeps.lit <;> try exact rfl))
    | with_reducible refine snd_ite_keeps ?_ ?_
    | with_reducible refine snd_mk_keeps ?_
    | with_reducible refine pair_keeps (by assumption) ?_
    | intro _
    | beta_reduce

theorem State.admitted_keeps {st0 : Inv} [st0.Writes] {s : State} (h : Keeps st0 s) {r : Req} :
    Keeps st0 (State.admitted s r) := by
  unfold State.admitted
  repeat' first
    | with_reducible assumption
    | with_reducible apply State.finish_keeps
    | with_reducible apply State.askKeys_keeps
    | with_reducible apply State.admitWrite_keeps
    | with_reducible apply State.moveGo_keeps
    | with_reducible apply State.sliceDone_keeps
    | with_reducible apply State.startPart_keeps
    | with_reducible apply State.modReq_keeps
    | with_reducible apply State.prefetch_keeps
    | with_reducible apply State.landRange_keeps
    | split
    | (fail_if_no_progress (with_reducible apply Keeps.lit <;> try exact rfl))
    | with_reducible refine snd_ite_keeps ?_ ?_
    | with_reducible refine snd_mk_keeps ?_
    | with_reducible refine pair_keeps (by assumption) ?_
    | intro _
    | beta_reduce

theorem State.reserve_keeps {st0 : Inv} {s : State} (h : Keeps st0 s) {r : Req} {need : List (Nat × Nat)} {i : Nat} :
    Keeps st0 (State.reserve s r need i) := by
  unfold State.reserve
  repeat' first
    | with_reducible assumption
    | (extract_lets -underBinder -merge +onlyGivenNames x; refine keepCut (r := st0) (x := x) ?_ (fun hx => ?_); (on_goal 1 => (unfold x; clear x)); (on_goal 2 => clear_value x))
    | (extract_lets -underBinder -merge +onlyGivenNames x; guard_hyp x : SecSt)
    | (extract_lets -underBinder -merge +onlyGivenNames x; clear_value x)
    | with_reducible refine ite_keeps ?_ ?_
    | with_reducible apply State.book_keeps
    | with_reducible apply State.bindInfl_keeps
    | with_reducible apply State.domPut_keeps
    | with_reducible apply State.modReq_keeps
    | with_reducible apply State.poolTake_keeps
    | with_reducible refine foldl_keeps ?_ (fun _ _ _ => ?_)
    | split
    | (fail_if_no_progress (with_reducible apply Keeps.lit <;> try exact rfl))
    | with_reducible refine snd_ite_keeps ?_ ?_
    | with_reducible refine snd_mk_keeps ?_
    | with_reducible refine pair_keeps (by assumption) ?_
    | intro _
    | beta_reduce

theorem State.letIn_keeps {r : Inv} [r.Writes] {s : State} (h : Keeps r s) {tag : Nat} {m : PassRoom} : Keeps r (s.letIn tag m).2 := by
  unfold State.letIn
  split
  · exact h
  · rename_i q _
    extract_lets need
    split
    · exact h
    · split
      · exact h
      · rename_i i _
        extract_lets s1
        have h1 : Keeps r s1 := State.reserve_keeps h
        clear_value s1
        dsimp only
        split
        · exact State.admitted_keeps h1
        · exact h1

theorem State.passGo_keeps {r : Inv} [r.Writes] {s : State} (h : Keeps r s) {l : List Nat} {n : Nat} {m : PassRoom} : Keeps r (State.passGo l n m s) := by
  induction l generalizing n s m with
  | nil => cases n <;> exact h
  | cons a t ih =>
    cases n with
    | zero => exact h
    | succ n =>
      unfold State.passGo
      have hl : Keeps r (s.letIn a m).2 := State.letIn_keeps h
      split
      · rename_i e
        exact ih (pair_keeps e hl)
      · rename_i e
        exact ih (pair_keeps e hl)

theorem State.digestRun_keeps {st0 : Inv} {s : State} (h : Keeps st0 s) {r : Req} :
    Keeps st0 (State.digestRun s r) := by
  unfold State.digestRun
  repeat' first
    | with_reducible assumption
    | (extract_lets -underBinder -merge +onlyGivenNames x; refine keepCut (r := st0) (x := x) ?_ (fun hx => ?_); (on_goal 1 => (unfold x; clear x)); (on_goal 2 => clear_value x))
    | (extract_lets -underBinder -merge +onlyGivenNames x; guard_hyp x : SecSt)
    | (extract_lets -underBinder -merge +onlyGivenNames x; clear_value x)
    | with_reducible refine ite_keeps ?_ ?_
    | with_reducible apply State.modSlice_keeps
    | with_reducible apply State.segCharge_keeps
    | split
    | (fail_if_no_progress (with_reducible apply Keeps.lit <;> try exact rfl))
    | with_reducible refine snd_ite_keeps ?_ ?_
    | with_reducible refine snd_mk_keeps ?_
    | with_reducible refine pair_keeps (by assumption) ?_
    | intro _
    | beta_reduce

theorem State.digestGrants_keeps {st0 : Inv} {s : State} (h : Keeps st0 s) {kind : ReqKind} :
    Keeps st0 (State.digestGrants s kind) := by
  unfold State.digestGrants
  repeat' first
    | with_reducible assumption
    | with_reducible apply State.digestRun_keeps
    | with_reducible refine foldl_keeps ?_ (fun _ _ _ => ?_)
    | split
    | (fail_if_no_progress (with_reducible apply Keeps.lit <;> try exact rfl))
    | with_reducible refine snd_ite_keeps ?_ ?_
    | with_reducible refine snd_mk_keeps ?_
    | with_reducible refine pair_keeps (by assumption) ?_
    | intro _
    | beta_reduce

theorem State.bookSome_keeps {st0 : Inv} {s : State} (h : Keeps st0 s) {r : Req} {n : Nat} :
    Keeps st0 (State.bookSome s r n) := by
  unfold State.bookSome
  repeat' first
    | with_reducible assumption
    | with_reducible apply State.book_keeps
    | split
    | (fail_if_no_progress (with_reducible apply Keeps.lit <;> try exact rfl))
    | with_reducible refine snd_ite_keeps ?_ ?_
    | with_reducible refine snd_mk_keeps ?_
    | with_reducible refine pair_keeps (by assumption) ?_
    | intro _
    | beta_reduce

theorem State.bookReady_keeps {st0 : Inv} {s : State} (h : Keeps st0 s)  :
    Keeps st0 (State.bookReady s) := by
  unfold State.bookReady
  repeat' first
    | with_reducible assumption
    | (extract_lets -underBinder -merge +onlyGivenNames x; refine keepCut (r := st0) (x := x) ?_ (fun hx => ?_); (on_goal 1 => (unfold x; clear x)); (on_goal 2 => clear_value x))
    | (extract_lets -underBinder -merge +onlyGivenNames x; guard_hyp x : SecSt)
    | (extract_lets -underBinder -merge +onlyGivenNames x; clear_value x)
    | with_reducible apply State.bookSome_keeps
    | with_reducible refine foldl_keeps ?_ (fun _ _ _ => ?_)
    | split
    | (fail_if_no_progress (with_reducible apply Keeps.lit <;> try exact rfl))
    | with_reducible refine snd_ite_keeps ?_ ?_
    | with_reducible refine snd_mk_keeps ?_
    | with_reducible refine pair_keeps (by assumption) ?_
    | intro _
    | beta_reduce

theorem State.loadShow_keeps {st0 : Inv} {s : State} (h : Keeps st0 s)  :
    Keeps st0 (State.loadShow s) := by
  unfold State.loadShow
  repeat' first
    | with_reducible assumption
    | with_reducible apply State.slotShow_keeps
    | with_reducible apply State.set_keeps
    | split
    | (fail_if_no_progress (with_reducible apply Keeps.lit <;> try exact rfl))
    | with_reducible refine snd_ite_keeps ?_ ?_
    | with_reducible refine snd_mk_keeps ?_
    | with_reducible refine pair_keeps (by assumption) ?_
    | intro _
    | beta_reduce

theorem State.admissionPass_keeps {st0 : Inv} [st0.Writes] {s : State} (h : Keeps st0 s) {room : PassRoom} :
    Keeps st0 (State.admissionPass s room) := by
  unfold State.admissionPass
  repeat' first
    | with_reducible assumption
    | (extract_lets -underBinder -merge +onlyGivenNames x; refine keepCut (r := st0) (x := x) ?_ (fun hx => ?_); (on_goal 1 => (unfold x; clear x)); (on_goal 2 => clear_value x))
    | (extract_lets -underBinder -merge +onlyGivenNames x; guard_hyp x : SecSt)
    | (extract_lets -underBinder -merge +onlyGivenNames x; clear_value x)
    | with_reducible refine ite_keeps ?_ ?_
    | with_reducible apply State.passGo_keeps
    | with_reducible apply State.digestGrants_keeps
    | with_reducible apply State.bookReady_keeps
    | with_reducible apply State.loadShow_keeps
    | with_reducible apply State.bookStaged_keeps
    | with_reducible apply State.rebuildsGo_keeps
    | with_reducible apply State.prefetchTrim_keeps
    | with_reducible apply State.landsGoOn_keeps
    | with_reducible refine foldl_keeps ?_ (fun _ _ _ => ?_)
    | split
    | (fail_if_no_progress (with_reducible apply Keeps.lit <;> try exact rfl))
    | with_reducible refine snd_ite_keeps ?_ ?_
    | with_reducible refine snd_mk_keeps ?_
    | with_reducible refine pair_keeps (by assumption) ?_
    | intro _
    | beta_reduce

end Sys2Proof.Machine
end

