-- ==== Sys2Proof/Laws/KeepsBoundary.lean ====
section
/-! SUPPORT. The operations and commands of Machine/Boundary.lean keep what a state is asked (Laws/Keeps.lean). -/

set_option linter.all false

namespace Sys2Proof.Machine

theorem State.rtcEdges_keeps {st0 : Inv} {s : State} (h : Keeps st0 s) {k0 : Nat}  :
    Keeps st0 (State.rtcEdges s k0) := by
  unfold State.rtcEdges
  repeat' first
    | with_reducible assumption
    | (extract_lets -underBinder -merge +onlyGivenNames x; refine keepCut (r := st0) (x := x) ?_ (fun hx => ?_); (on_goal 1 => (unfold x; clear x)); (on_goal 2 => clear_value x))
    | (extract_lets -underBinder -merge +onlyGivenNames x; guard_hyp x : SecSt)
    | (extract_lets -underBinder -merge +onlyGivenNames x; clear_value x)
    | with_reducible refine ite_keeps ?_ ?_
    | with_reducible apply State.bump_keeps
    | with_reducible apply State.wake_keeps
    | split
    | with_reducible refine pair_keeps (by assumption) ?_
    | beta_reduce

theorem State.stallTick_keeps {st0 : Inv} {s : State} (h : Keeps st0 s)   :
    Keeps st0 (State.stallTick s) := by
  unfold State.stallTick
  repeat' first
    | with_reducible assumption
    | (extract_lets -underBinder -merge +onlyGivenNames x; refine keepCut (r := st0) (x := x) ?_ (fun hx => ?_); (on_goal 1 => (unfold x; clear x)); (on_goal 2 => clear_value x))
    | (extract_lets -underBinder -merge +onlyGivenNames x; guard_hyp x : SecSt)
    | (extract_lets -underBinder -merge +onlyGivenNames x; clear_value x)
    | with_reducible apply State.modHost_keeps
    | with_reducible apply State.modLdt_keeps
    | (fail_if_no_progress (with_reducible apply Keeps.lit <;> try exact rfl))
    | intro _
    | beta_reduce

theorem State.peerNotes_keeps {st0 : Inv} {s : State} (h : Keeps st0 s)   :
    Keeps st0 (State.peerNotes s) := by
  unfold State.peerNotes
  repeat' first
    | with_reducible assumption
    | (extract_lets -underBinder -merge +onlyGivenNames x; refine keepCut (r := st0) (x := x) ?_ (fun hx => ?_); (on_goal 1 => (unfold x; clear x)); (on_goal 2 => clear_value x))
    | (extract_lets -underBinder -merge +onlyGivenNames x; guard_hyp x : SecSt)
    | (extract_lets -underBinder -merge +onlyGivenNames x; clear_value x)
    | with_reducible refine ite_keeps ?_ ?_
    | with_reducible apply State.sendPeer_keeps
    | with_reducible apply State.modWrite_keeps
    | split
    | (fail_if_no_progress (with_reducible apply Keeps.lit <;> try exact rfl))
    | with_reducible refine pair_keeps (by assumption) ?_
    | intro _
    | beta_reduce

theorem State.completions_keeps {st0 : Inv} [st0.Writes] {s : State} (h : Keeps st0 s)   :
    Keeps st0 (State.completions s) := by
  unfold State.completions
  repeat' first
    | with_reducible assumption
    | with_reducible apply State.complete_keeps
    | with_reducible refine foldl_keeps ?_ (fun _ _ _ => ?_)
    | intro _
    | beta_reduce

theorem State.tcpAll_keeps {st0 : Inv} {s : State} (h : Keeps st0 s)   :
    Keeps st0 (State.tcpAll s) := by
  unfold State.tcpAll
  repeat' first
    | with_reducible assumption
    | with_reducible apply State.tcpGo_keeps
    | with_reducible refine foldl_keeps ?_ (fun _ _ _ => ?_)
    | intro _
    | beta_reduce

theorem State.ldtAll_keeps {st0 : Inv} [st0.Writes] {s : State} (h : Keeps st0 s)   :
    Keeps st0 (State.ldtAll s) := by
  unfold State.ldtAll
  repeat' first
    | with_reducible assumption
    | with_reducible refine ite_keeps ?_ ?_
    | with_reducible apply State.ldtGo_keeps
    | with_reducible apply State.ldtClear_keeps
    | with_reducible refine foldl_keeps ?_ (fun _ _ _ => ?_)
    | split
    | with_reducible refine pair_keeps (by assumption) ?_
    | intro _
    | beta_reduce

theorem State.lanesIdle_keeps {st0 : Inv} {s : State} (h : Keeps st0 s)  :
    Keeps st0 (State.lanesIdle s) := by
  unfold State.lanesIdle
  repeat' first
    | with_reducible assumption
    | (extract_lets -underBinder -merge +onlyGivenNames x; refine keepCut (r := st0) (x := x) ?_ (fun hx => ?_); (on_goal 1 => (unfold x; clear x)); (on_goal 2 => clear_value x))
    | (extract_lets -underBinder -merge +onlyGivenNames x; guard_hyp x : SecSt)
    | (extract_lets -underBinder -merge +onlyGivenNames x; clear_value x)
    | with_reducible refine ite_keeps ?_ ?_
    | with_reducible apply State.idleFlit_keeps
    | with_reducible apply State.putPeer_keeps
    | with_reducible refine foldl_keeps ?_ (fun _ _ _ => ?_)
    | split
    | (fail_if_no_progress (with_reducible apply Keeps.lit <;> try exact rfl))
    | with_reducible refine snd_ite_keeps ?_ ?_
    | with_reducible refine snd_mk_keeps ?_
    | with_reducible refine pair_keeps (by assumption) ?_
    | intro _
    | beta_reduce

theorem State.keysGo_keeps {st0 : Inv} {s : State} (h : Keeps st0 s)   :
    Keeps st0 (State.keysGo s) := by
  unfold State.keysGo
  repeat' first
    | with_reducible assumption
    | with_reducible apply State.keyFetch_keeps
    | with_reducible refine foldl_keeps ?_ (fun _ _ _ => ?_)
    | intro _
    | beta_reduce

theorem State.beatSamples_keeps {st0 : Inv} {s : State} (h : Keeps st0 s)   :
    Keeps st0 (State.beatSamples s) := by
  unfold State.beatSamples
  repeat' first
    | with_reducible assumption
    | (extract_lets -underBinder -merge +onlyGivenNames x; refine keepCut (r := st0) (x := x) ?_ (fun hx => ?_); (on_goal 1 => (unfold x; clear x)); (on_goal 2 => clear_value x))
    | (extract_lets -underBinder -merge +onlyGivenNames x; guard_hyp x : SecSt)
    | (extract_lets -underBinder -merge +onlyGivenNames x; clear_value x)
    | with_reducible refine ite_keeps ?_ ?_
    | with_reducible apply State.sample_keeps
    | with_reducible refine foldl_keeps ?_ (fun _ _ _ => ?_)
    | split
    | with_reducible refine pair_keeps (by assumption) ?_
    | intro _
    | beta_reduce

theorem State.clkShow_keeps {st0 : Inv} {s : State} (h : Keeps st0 s)   :
    Keeps st0 (State.clkShow s) := by
  unfold State.clkShow
  repeat' first
    | with_reducible assumption
    | (extract_lets -underBinder -merge +onlyGivenNames x; refine keepCut (r := st0) (x := x) ?_ (fun hx => ?_); (on_goal 1 => (unfold x; clear x)); (on_goal 2 => clear_value x))
    | (extract_lets -underBinder -merge +onlyGivenNames x; guard_hyp x : SecSt)
    | (extract_lets -underBinder -merge +onlyGivenNames x; clear_value x)
    | with_reducible refine ite_keeps ?_ ?_
    | with_reducible apply State.setAll_keeps
    | with_reducible refine foldl_keeps ?_ (fun _ _ _ => ?_)
    | split
    | with_reducible refine pair_keeps (by assumption) ?_
    | intro _
    | beta_reduce

theorem State.drawsGo_keeps {st0 : Inv} [st0.Writes] {s : State} (h : Keeps st0 s)  :
    Keeps st0 (State.drawsGo s) := by
  unfold State.drawsGo
  repeat' first
    | with_reducible assumption
    | (extract_lets -underBinder -merge +onlyGivenNames x; refine keepCut (r := st0) (x := x) ?_ (fun hx => ?_); (on_goal 1 => (unfold x; clear x)); (on_goal 2 => clear_value x))
    | (extract_lets -underBinder -merge +onlyGivenNames x; guard_hyp x : SecSt)
    | (extract_lets -underBinder -merge +onlyGivenNames x; clear_value x)
    | with_reducible refine ite_keeps ?_ ?_
    | with_reducible apply State.modHealth_keeps
    | with_reducible apply State.modFlash_keeps
    | with_reducible apply State.saltsGo_keeps
    | with_reducible apply State.headsOpen_keeps
    | with_reducible apply State.acceptsGo_keeps
    | with_reducible apply State.clrChal_keeps
    | with_reducible apply State.kslChallenge_keeps
    | split
    | (fail_if_no_progress (with_reducible apply Keeps.lit <;> try exact rfl))
    | with_reducible refine snd_ite_keeps ?_ ?_
    | with_reducible refine snd_mk_keeps ?_
    | with_reducible refine pair_keeps (by assumption) ?_
    | intro _
    | beta_reduce

theorem State.fabBeat_keeps {st0 : Inv} [st0.Writes] {s : State} (h : Keeps st0 s)  :
    Keeps st0 (State.fabBeat s) := by
  unfold State.fabBeat
  repeat' first
    | with_reducible assumption
    | (extract_lets -underBinder -merge +onlyGivenNames x; refine keepCut (r := st0) (x := x) ?_ (fun hx => ?_); (on_goal 1 => (unfold x; clear x)); (on_goal 2 => clear_value x))
    | (extract_lets -underBinder -merge +onlyGivenNames x; guard_hyp x : SecSt)
    | (extract_lets -underBinder -merge +onlyGivenNames x; clear_value x)
    | with_reducible refine ite_keeps ?_ ?_
    | with_reducible apply State.homesCheck_keeps
    | with_reducible apply State.headGo_keeps
    | with_reducible apply State.fabNeed_keeps
    | with_reducible apply State.foreignTrim_keeps
    | with_reducible apply State.cycleGo_keeps
    | with_reducible apply State.orphansGo_keeps
    | with_reducible apply State.resyncGo_keeps
    | with_reducible apply State.syncGo_keeps
    | with_reducible apply State.fabLeave_keeps
    | with_reducible apply State.drawsGo_keeps
    | with_reducible refine foldl_keeps ?_ (fun _ _ _ => ?_)
    | split
    | (fail_if_no_progress (with_reducible apply Keeps.lit <;> try exact rfl))
    | with_reducible refine snd_ite_keeps ?_ ?_
    | with_reducible refine snd_mk_keeps ?_
    | with_reducible refine pair_keeps (by assumption) ?_
    | intro _
    | beta_reduce

theorem State.storeBeat_keeps {st0 : Inv} {s : State} (h : Keeps st0 s)  :
    Keeps st0 (State.storeBeat s) := by
  unfold State.storeBeat
  repeat' first
    | with_reducible assumption
    | with_reducible apply State.jobsGoOn_keeps
    | with_reducible apply State.movesGoOn_keeps
    | with_reducible apply State.logCheck_keeps
    | with_reducible apply State.holdupCheck_keeps
    | with_reducible apply State.freezeCheck_keeps
    | with_reducible apply State.retireReady_keeps
    | with_reducible apply State.dumpCheck_keeps
    | split
    | (fail_if_no_progress (with_reducible apply Keeps.lit <;> try exact rfl))
    | with_reducible refine snd_ite_keeps ?_ ?_
    | with_reducible refine snd_mk_keeps ?_
    | with_reducible refine pair_keeps (by assumption) ?_
    | intro _
    | beta_reduce

theorem State.boundary_keeps {st0 : Inv} [st0.Writes] {s : State} (h : Keeps st0 s)  :
    Keeps st0 (State.boundary s) := by
  unfold State.boundary
  repeat' first
    | with_reducible assumption
    | (extract_lets -underBinder -merge +onlyGivenNames x; refine keepCut (r := st0) (x := x) ?_ (fun hx => ?_); (on_goal 1 => (unfold x; clear x)); (on_goal 2 => clear_value x))
    | (extract_lets -underBinder -merge +onlyGivenNames x; guard_hyp x : SecSt)
    | (extract_lets -underBinder -merge +onlyGivenNames x; clear_value x)
    | with_reducible apply State.digestGrants_keeps
    | with_reducible apply State.admissionPass_keeps
    | with_reducible apply State.rowsGoOn_keeps
    | with_reducible apply State.takeSource_keeps
    | with_reducible apply State.stallTick_keeps
    | with_reducible apply State.peerNotes_keeps
    | with_reducible apply State.completions_keeps
    | with_reducible apply State.tcpAll_keeps
    | with_reducible apply State.ldtAll_keeps
    | with_reducible apply State.lanesIdle_keeps
    | with_reducible apply State.keysGo_keeps
    | with_reducible apply State.beatSamples_keeps
    | with_reducible apply State.clkShow_keeps
    | with_reducible apply State.fabBeat_keeps
    | with_reducible apply State.storeBeat_keeps
    | with_reducible apply State.commitAll_keeps
    | with_reducible apply State.egressTrim_keeps
    | with_reducible apply State.flushGo_keeps
    | with_reducible apply State.freshSlots_keeps
    | with_reducible apply State.rubEnd_keeps
    | with_reducible apply State.selftestScope_keeps
    | with_reducible apply State.pairOn_keeps
    | with_reducible apply State.modPwr_keeps
    | with_reducible apply State.wakeHeld_keeps
    | with_reducible apply State.anaCheck_keeps
    | with_reducible apply State.autoConfirm_keeps
    | split
    | (fail_if_no_progress (with_reducible apply Keeps.lit <;> try exact rfl))
    | with_reducible refine snd_ite_keeps ?_ ?_
    | with_reducible refine snd_mk_keeps ?_
    | with_reducible refine pair_keeps (by assumption) ?_
    | intro _
    | beta_reduce

theorem execBeatBoundary_keeps {st0 : Inv} [st0.Writes] {s : State} (h : Keeps st0 s) {k2 : Nat} {k0 : Nat}  :
    ResKeeps st0 (execBeatBoundary k2 k0 s) := by
  unfold execBeatBoundary
  try with_reducible refine ResKeeps.next ?_
  repeat' first
    | with_reducible assumption
    | (extract_lets -underBinder -merge +onlyGivenNames x; refine keepCut (r := st0) (x := x) ?_ (fun hx => ?_); (on_goal 1 => (unfold x; clear x)); (on_goal 2 => clear_value x))
    | (extract_lets -underBinder -merge +onlyGivenNames x; guard_hyp x : SecSt)
    | (extract_lets -underBinder -merge +onlyGivenNames x; clear_value x)
    | with_reducible refine ite_keeps ?_ ?_
    | with_reducible apply State.advance_keeps
    | with_reducible apply State.rtcEdges_keeps
    | with_reducible apply State.boundary_keeps
    | with_reducible refine ResKeeps.next ?_
    | split
    | with_reducible refine pair_keeps (by assumption) ?_
    | beta_reduce

end Sys2Proof.Machine
end

