-- ==== Sys2Proof/Laws/KeepsBus.lean ====
section
/-! SUPPORT. The operations and commands of Machine/Bus.lean keep what a state is asked (Laws/Keeps.lean). -/

set_option linter.all false

namespace Sys2Proof.Machine

theorem State.fieldWrite_keeps {st0 : Inv} {s : State} (h : Keeps st0 s) {slot : Nat} {off : Nat} {v : Nat} {d : FDef}  :
    Keeps st0 (State.fieldWrite s slot off v d) := by
  unfold State.fieldWrite
  repeat' first
    | with_reducible assumption
    | (extract_lets -underBinder -merge +onlyGivenNames x; refine keepCut (r := st0) (x := x) ?_ (fun hx => ?_); (on_goal 1 => (unfold x; clear x)); (on_goal 2 => clear_value x))
    | (extract_lets -underBinder -merge +onlyGivenNames x; guard_hyp x : SecSt)
    | (extract_lets -underBinder -merge +onlyGivenNames x; clear_value x)
    | with_reducible apply State.modHdr_keeps
    | with_reducible apply State.set_keeps
    | split
    | (fail_if_no_progress (with_reducible apply Keeps.lit <;> try exact rfl))
    | with_reducible refine pair_keeps (by assumption) ?_
    | intro _
    | beta_reduce

theorem State.staticRefuse_keeps {st0 : Inv} {s : State} (h : Keeps st0 s) {slot : Nat}  :
    Keeps st0 (State.staticRefuse s slot) := by
  unfold State.staticRefuse
  repeat' first
    | with_reducible assumption
    | with_reducible apply State.modHdr_keeps
    | with_reducible apply State.raise_keeps
    | (fail_if_no_progress (with_reducible apply Keeps.lit <;> try exact rfl))
    | with_reducible refine snd_ite_keeps ?_ ?_
    | with_reducible refine snd_mk_keeps ?_
    | intro _
    | beta_reduce

theorem State.regPlain_keeps {st0 : Inv} {s : State} (h : Keeps st0 s) {slot : Nat} {off : Nat} {v : Nat}  :
    Keeps st0 (State.regPlain s slot off v) := by
  unfold State.regPlain
  repeat' first
    | with_reducible assumption
    | (extract_lets -underBinder -merge +onlyGivenNames x; refine keepCut (r := st0) (x := x) ?_ (fun hx => ?_); (on_goal 1 => (unfold x; clear x)); (on_goal 2 => clear_value x))
    | (extract_lets -underBinder -merge +onlyGivenNames x; guard_hyp x : SecSt)
    | (extract_lets -underBinder -merge +onlyGivenNames x; clear_value x)
    | with_reducible refine ite_keeps ?_ ?_
    | with_reducible apply State.fieldWrite_keeps
    | with_reducible apply State.staticRefuse_keeps
    | with_reducible refine foldl_keeps ?_ (fun _ _ _ => ?_)
    | split
    | with_reducible refine pair_keeps (by assumption) ?_
    | intro _
    | beta_reduce

theorem State.queuesLost_keeps {st0 : Inv} {s : State} (h : Keeps st0 s) {c : Nat} {i : Nat} :
    Keeps st0 (State.queuesLost s c i) := by
  unfold State.queuesLost
  repeat' first
    | with_reducible assumption
    | with_reducible refine ite_keeps ?_ ?_
    | with_reducible apply State.modSlice_keeps
    | with_reducible apply State.modLdt_keeps
    | with_reducible apply State.modRead_keeps
    | with_reducible apply State.modWrite_keeps
    | with_reducible apply State.modFtl_keeps
    | with_reducible apply State.cachesLost_keeps
    | with_reducible apply State.modPwr_keeps
    | with_reducible apply State.modHost_keeps
    | split
    | (fail_if_no_progress (with_reducible apply Keeps.lit <;> try exact rfl))
    | with_reducible refine snd_ite_keeps ?_ ?_
    | with_reducible refine snd_mk_keeps ?_
    | with_reducible refine pair_keeps (by assumption) ?_
    | intro _
    | beta_reduce

theorem State.unitReset_keeps {st0 : Inv} [st0.Writes] {s : State} (h : Keeps st0 s) {c : Nat} {i : Nat} :
    Keeps st0 (State.unitReset s c i) := by
  unfold State.unitReset
  repeat' first
    | with_reducible assumption
    | (extract_lets -underBinder -merge +onlyGivenNames x; refine keepCut (r := st0) (x := x) ?_ (fun hx => ?_); (on_goal 1 => (unfold x; clear x)); (on_goal 2 => clear_value x))
    | (extract_lets -underBinder -merge +onlyGivenNames x; guard_hyp x : SecSt)
    | (extract_lets -underBinder -merge +onlyGivenNames x; clear_value x)
    | with_reducible refine ite_keeps ?_ ?_
    | with_reducible apply State.queuesLost_keeps
    | with_reducible apply State.masterReset_keeps
    | with_reducible apply State.modHdr_keeps
    | with_reducible apply State.modPwr_keeps
    | with_reducible apply State.hidMove_keeps
    | with_reducible refine foldl_keeps ?_ (fun _ _ _ => ?_)
    | split
    | (fail_if_no_progress (with_reducible apply Keeps.lit <;> try exact rfl))
    | with_reducible refine snd_ite_keeps ?_ ?_
    | with_reducible refine snd_mk_keeps ?_
    | with_reducible refine pair_keeps (by assumption) ?_
    | intro _
    | beta_reduce

theorem State.pageReset_keeps {st0 : Inv} [st0.Writes] {s : State} (h : Keeps st0 s) {slot : Nat} {en : Bool} {qu : Bool}  :
    Keeps st0 (State.pageReset s slot en qu) := by
  unfold State.pageReset
  repeat' first
    | with_reducible assumption
    | with_reducible refine ite_keeps ?_ ?_
    | with_reducible apply State.raise_keeps
    | with_reducible apply State.unitReset_keeps
    | with_reducible apply State.pageCtl_keeps
    | split
    | with_reducible refine pair_keeps (by assumption) ?_
    | with_reducible refine snd_ite_keeps ?_ ?_
    | with_reducible refine snd_mk_keeps ?_
    | beta_reduce

theorem execPageReset_keeps {st0 : Inv} [st0.Writes] {s : State} (h : Keeps st0 s) {m : Nat} {slot : Nat} {enable : Bool} {quiesce : Bool}  :
    ResKeeps st0 (execPageReset m slot enable quiesce s) := by
  unfold execPageReset
  try with_reducible refine ResKeeps.next ?_
  repeat' first
    | with_reducible assumption
    | with_reducible refine State.busWr_keeps ?_ (fun _ _ => ?_)
    | with_reducible apply State.pageReset_keeps
    | with_reducible refine ResKeeps.next ?_
    | intro _
    | beta_reduce

theorem execInstanceQuiesced_keeps {st0 : Inv} {s : State} (h : Keeps st0 s) {code : Nat} {unit : Nat}  :
    ResKeeps st0 (execInstanceQuiesced code unit s) := by
  unfold execInstanceQuiesced
  try with_reducible refine ResKeeps.next ?_
  repeat' first
    | with_reducible assumption
    | (extract_lets -underBinder -merge +onlyGivenNames x; refine keepCut (r := st0) (x := x) ?_ (fun hx => ?_); (on_goal 1 => (unfold x; clear x)); (on_goal 2 => clear_value x))
    | (extract_lets -underBinder -merge +onlyGivenNames x; guard_hyp x : SecSt)
    | (extract_lets -underBinder -merge +onlyGivenNames x; clear_value x)
    | with_reducible refine ite_keeps ?_ ?_
    | with_reducible apply State.setUnit_keeps
    | with_reducible refine ResKeeps.next ?_
    | split
    | (fail_if_no_progress (with_reducible apply Keeps.lit <;> try exact rfl))
    | with_reducible refine pair_keeps (by assumption) ?_
    | beta_reduce

theorem State.hdrWrite_keeps {st0 : Inv} [st0.Writes] {s : State} (h : Keeps st0 s) {slot : Nat} {off : Nat} {v : Nat}  :
    Keeps st0 (State.hdrWrite s slot off v) := by
  unfold State.hdrWrite
  repeat' first
    | with_reducible assumption
    | (extract_lets -underBinder -merge +onlyGivenNames x; refine keepCut (r := st0) (x := x) ?_ (fun hx => ?_); (on_goal 1 => (unfold x; clear x)); (on_goal 2 => clear_value x))
    | (extract_lets -underBinder -merge +onlyGivenNames x; guard_hyp x : SecSt)
    | (extract_lets -underBinder -merge +onlyGivenNames x; clear_value x)
    | with_reducible refine ite_keeps ?_ ?_
    | with_reducible apply State.pageReset_keeps
    | with_reducible apply State.pageCtl_keeps
    | with_reducible apply State.dropShadows_keeps
    | with_reducible apply State.commitAsk_keeps
    | with_reducible apply State.modHdr_keeps
    | with_reducible apply State.erqUpdate_keeps
    | with_reducible apply State.pageLock_keeps
    | split
    | (fail_if_no_progress (with_reducible apply Keeps.lit <;> try exact rfl))
    | with_reducible refine pair_keeps (by assumption) ?_
    | intro _
    | beta_reduce

theorem State.hdrRead_keeps {st0 : Inv} {s : State} (h : Keeps st0 s) {slot : Nat} {off : Nat}  :
    Keeps st0 (State.hdrRead s slot off) := by
  unfold State.hdrRead
  repeat' first
    | with_reducible assumption
    | (extract_lets -underBinder -merge +onlyGivenNames x; refine keepCut (r := st0) (x := x) ?_ (fun hx => ?_); (on_goal 1 => (unfold x; clear x)); (on_goal 2 => clear_value x))
    | (extract_lets -underBinder -merge +onlyGivenNames x; guard_hyp x : SecSt)
    | (extract_lets -underBinder -merge +onlyGivenNames x; clear_value x)
    | with_reducible refine ite_keeps ?_ ?_
    | with_reducible apply State.answer_keeps
    | with_reducible apply State.modHdr_keeps
    | with_reducible apply State.denied_keeps
    | split
    | (fail_if_no_progress (with_reducible apply Keeps.lit <;> try exact rfl))
    | with_reducible refine pair_keeps (by assumption) ?_
    | intro _
    | beta_reduce

theorem left_keeps {r : Inv} {s : State} {o : Res} (h : Keeps r s) (g : ResKeeps r o) : Keeps r (o.left s) := by
  unfold Res.left
  cases o with
  | next t => exact g t rfl
  | fault _ => exact h
  | refused _ => exact h

theorem State.coin_keeps {r : Inv} {s : State} (h : Keeps r s) {f : Bool → State → State} (hf : ∀ b t, Keeps r t → Keeps r (f b t)) : Keeps r (s.coin f) :=
  hf _ _ (State.free_keeps (w := 1) h)

theorem State.ownRead_keeps {st0 : Inv} [st0.Writes] {s : State} (h : Keeps st0 s) {m : Nat} {c : Nat} {p : Nat} {off : Nat} {v : Nat} :
    OptK st0 (State.ownRead s m c p off v) := by
  unfold State.ownRead
  repeat' first
    | with_reducible assumption
    | with_reducible exact OptK.none
    | with_reducible refine OptK.some ?_
    | with_reducible refine OptK.ite ?_ ?_
    | with_reducible refine ite_keeps ?_ ?_
    | with_reducible refine left_keeps ?_ ?_
    | with_reducible apply State.rchInvalWrite_keeps
    | with_reducible apply State.dirLoad_keeps
    | with_reducible apply execIrtDone_keeps
    | with_reducible apply State.routeWrite_keeps
    | with_reducible apply State.pfxRecWrite_keeps
    | with_reducible apply State.pfxLoadWrite_keeps
    | with_reducible apply State.rdpResume_keeps
    | with_reducible apply State.mapInvalWrite_keeps
    | with_reducible apply State.vatCmdWrite_keeps
    | with_reducible apply State.snpCmdWrite_keeps
    | split
    | (fail_if_no_progress (with_reducible apply Keeps.lit <;> try exact rfl))
    | with_reducible refine snd_ite_keeps ?_ ?_
    | with_reducible refine snd_mk_keeps ?_
    | with_reducible refine pair_keeps (by assumption) ?_
    | intro _
    | beta_reduce

theorem State.ownHost_keeps {r : Inv} [r.Writes] {s : State} (h : Keeps r s) {m c i p off v : Nat} : OptK r (s.ownHost m c i p off v) := by
  unfold State.ownHost
  try dsimp only
  repeat' first
    | with_reducible assumption
    | with_reducible refine OptK.ite ?_ ?_
    | with_reducible exact OptK.none
    | with_reducible refine OptK.some ?_
    | with_reducible refine left_keeps ?_ ?_
    | with_reducible refine ite_keeps ?_ ?_
    | with_reducible apply State.linkCtl_keeps
    | with_reducible refine State.coin_keeps ?_ (fun _ _ _ => ?_)
    | with_reducible apply State.brkCmd_keeps
    | with_reducible apply State.dfmCtl_keeps
    | with_reducible apply State.digestSubmit_keeps
    | with_reducible apply State.raise_keeps
    | with_reducible apply State.connectAnswer_keeps
    | with_reducible apply State.ctrlCmd_keeps
    | with_reducible apply State.acceptAnswer_keeps
    | with_reducible apply State.connCmd_keeps
    | split
    | (fail_if_no_progress (with_reducible apply Keeps.lit <;> try exact rfl))
    | dsimp only

theorem State.ownPair_keeps {st0 : Inv} [st0.Blows] [st0.Clears] [st0.Writes] {s : State} (h : Keeps st0 s) {m : Nat} {c : Nat} {p : Nat} {off : Nat} {v : Nat} :
    OptK st0 (State.ownPair s m c p off v) := by
  unfold State.ownPair
  repeat' first
    | with_reducible assumption
    | (extract_lets -underBinder -merge +onlyGivenNames x; refine keepCut (r := st0) (x := x) ?_ (fun hx => ?_); (on_goal 1 => (unfold x; clear x)); (on_goal 2 => clear_value x))
    | (extract_lets -underBinder -merge +onlyGivenNames x; guard_hyp x : SecSt)
    | (extract_lets -underBinder -merge +onlyGivenNames x; clear_value x)
    | with_reducible exact OptK.none
    | with_reducible refine OptK.some ?_
    | with_reducible refine OptK.ite ?_ ?_
    | with_reducible refine ite_keeps ?_ ?_
    | with_reducible refine left_keeps ?_ ?_
    | with_reducible refine State.coin_keeps ?_ (fun _ _ _ => ?_)
    | with_reducible apply State.fuseProg_keeps
    | with_reducible apply execLseWitRxWrite_keeps
    | with_reducible apply State.modMbx_keeps
    | with_reducible apply State.mbxPost_keeps
    | with_reducible apply State.mbxStat_keeps
    | with_reducible apply execMbxBindWrite_keeps
    | with_reducible apply execMbxUnlock_keeps
    | with_reducible apply State.set_keeps
    | with_reducible apply State.raise_keeps
    | with_reducible apply execPeerLinkEnable_keeps
    | with_reducible apply execPeerBundleRetrain_keeps
    | with_reducible apply State.modeReq_keeps
    | with_reducible apply State.linkResult_keeps
    | with_reducible apply State.linkLoad_keeps
    | with_reducible apply State.linkStop_keeps
    | with_reducible apply State.linkOffer_keeps
    | with_reducible apply State.linkResync_keeps
    | with_reducible apply State.hardenAll_keeps
    | with_reducible apply State.msrWrite_keeps
    | split
    | (fail_if_no_progress (with_reducible apply Keeps.lit <;> try exact rfl))
    | with_reducible refine snd_ite_keeps ?_ ?_
    | with_reducible refine snd_mk_keeps ?_
    | with_reducible refine pair_keeps (by assumption) ?_
    | intro _
    | beta_reduce

theorem State.ownPwr_keeps {r : Inv} [r.Clears] [r.Writes] {s : State} (h : Keeps r s) {m c i p off v : Nat} : OptK r (s.ownPwr m c i p off v) := by
  unfold State.ownPwr
  try dsimp only
  repeat' first
    | with_reducible assumption
    | with_reducible refine OptK.ite ?_ ?_
    | with_reducible exact OptK.none
    | with_reducible refine OptK.some ?_
    | with_reducible refine left_keeps ?_ ?_
    | with_reducible refine ite_keeps ?_ ?_
    | with_reducible apply execDozeRequest_keeps
    | with_reducible apply State.set_keeps
    | with_reducible apply State.domReq_keeps
    | with_reducible apply execAonSrstReq_keeps
    | with_reducible apply State.modHealth_keeps
    | with_reducible apply execErqInject_keeps
    | with_reducible apply State.cursorTo_keeps
    | with_reducible apply execEvrSample_keeps
    | with_reducible apply execEvrClrReq_keeps
    | with_reducible refine State.coin_keeps ?_ (fun _ _ _ => ?_)
    | with_reducible apply execEvrSecClear_keeps
    | with_reducible apply State.free_keeps
    | with_reducible apply State.testCtl_keeps
    | with_reducible apply State.raise_keeps
    | split
    | (fail_if_no_progress (with_reducible apply Keeps.lit <;> try exact rfl))
    | dsimp only

theorem State.regAfter_keeps {st0 : Inv} {s : State} (h : Keeps st0 s) {slot : Nat} {c : Nat} {i : Nat} {p : Nat} {off : Nat} {v : Nat}  :
    Keeps st0 (State.regAfter s slot c i p off v) := by
  unfold State.regAfter
  repeat' first
    | with_reducible assumption
    | with_reducible refine ite_keeps ?_ ?_
    | with_reducible apply State.modTime_keeps
    | with_reducible apply State.rateOut_keeps
    | split
    | (fail_if_no_progress (with_reducible apply Keeps.lit <;> try exact rfl))
    | with_reducible refine pair_keeps (by assumption) ?_
    | intro _
    | beta_reduce

theorem State.regWrite_keeps {r : Inv} [r.Blows] [r.Clears] [r.Writes] {s : State} (h : Keeps r s) {m slot off v : Nat} : Keeps r (s.regWrite m slot off v) := by
  unfold State.regWrite
  split
  · exact h
  · split
    · rename_i e
      exact OptK.orElse (State.ownRead_keeps h) (OptK.orElse (State.ownHost_keeps h) (OptK.orElse (State.ownPair_keeps h) (State.ownPwr_keeps h))) _ e
    · exact State.hidMove_keeps (State.regAfter_keeps (State.regPlain_keeps h))

theorem State.regClear_keeps {st0 : Inv} {s : State} (h : Keeps st0 s) {slot : Nat} {off : Nat}  :
    Keeps st0 (State.regClear s slot off) := by
  unfold State.regClear
  repeat' first
    | with_reducible assumption
    | with_reducible apply State.set_keeps
    | with_reducible refine foldl_keeps ?_ (fun _ _ _ => ?_)
    | split
    | with_reducible refine pair_keeps (by assumption) ?_
    | intro _
    | beta_reduce

theorem State.retireRead_keeps {st0 : Inv} {s : State} (h : Keeps st0 s)   :
    Keeps st0 (State.retireRead s) := by
  unfold State.retireRead
  repeat' first
    | with_reducible assumption
    | (extract_lets -underBinder -merge +onlyGivenNames x; refine keepCut (r := st0) (x := x) ?_ (fun hx => ?_); (on_goal 1 => (unfold x; clear x)); (on_goal 2 => clear_value x))
    | (extract_lets -underBinder -merge +onlyGivenNames x; guard_hyp x : SecSt)
    | (extract_lets -underBinder -merge +onlyGivenNames x; clear_value x)
    | with_reducible apply State.answer_keeps
    | with_reducible apply State.setAll_keeps
    | with_reducible apply State.modFtl_keeps
    | with_reducible apply State.irqIs_keeps
    | split
    | (fail_if_no_progress (with_reducible apply Keeps.lit <;> try exact rfl))
    | with_reducible refine pair_keeps (by assumption) ?_
    | intro _
    | beta_reduce

theorem ownRead_ite {r : Inv} {o o' : Option Res} {c : Prop} [Decidable c] (h1 : ∀ x, o = some x → ResKeeps r x)
    (h2 : ∀ x, o' = some x → ResKeeps r x) : ∀ x, (if c then o else o') = some x → ResKeeps r x := by
  split <;> assumption

theorem ownRead_some {r : Inv} {o : Res} (h : ResKeeps r o) : ∀ x, some o = some x → ResKeeps r x := fun _ e => by cases e; exact h

theorem ownReadRes_keeps {r : Inv} [r.Writes] {s : State} (h : Keeps r s) {m c i p off : Nat} : ∀ o, ownReadRes m c i p off s = some o → ResKeeps r o := by
  unfold ownReadRes
  repeat' (with_reducible refine ownRead_ite ?_ ?_)
  · exact ownRead_some (execBeatTbRead_keeps h)
  · exact ownRead_some (execAdmLateQRead_keeps h)
  · exact ownRead_some (execRdpSlowQRead_keeps h)
  · exact ownRead_some (execJnlDefQRead_keeps h)
  · exact ownRead_some (ResKeeps.next (State.retireRead_keeps h))
  · exact ownRead_some (execDigDoneQRead_keeps h)
  · exact ownRead_some (execNvtConnectQRead_keeps h)
  · exact ownRead_some (execLdtAcceptQRead_keeps h)
  · exact ownRead_some (execIrtClaim_keeps h)
  · exact ownRead_some (execMbxTake_keeps h)
  · exact ownRead_some (execMbxLockRead_keeps h)
  · exact ownRead_some (execLseWitTxRead_keeps h)
  · exact ownRead_some (execEvrWinRead_keeps h)
  · exact ownRead_some (execEvrClrChalRead_keeps h)
  · exact fun _ e => nomatch e

theorem State.regRead_keeps {r : Inv} [r.Writes] {s : State} (h : Keeps r s) {m slot off : Nat} : Keeps r (s.regRead m slot off) := by
  unfold State.regRead
  split
  · rename_i e
    obtain ⟨q, -, e⟩ := Option.bind_eq_some_iff.mp e
    exact left_keeps h (ownReadRes_keeps h _ e)
  · have g := State.regClear_keeps (slot := slot) (off := off) (State.answer_keeps (v := s.regVal m slot off) h)
    exact g.same rfl rfl rfl

theorem State.winWrite_keeps {r : Inv} [r.Blows] [r.Clears] [r.Writes] {s : State} (h : Keeps r s) {m addr size v : Nat} : Keeps r (s.winWrite m addr size v) := by
  delta State.winWrite
  generalize slotOf addr = slot
  generalize offOf addr = off
  dsimp only
  cases e : s.judge m slot off (size == 8) true with
  | some t => exact State.judge_keeps h _ e
  | none => exact ite_keeps (State.hdrWrite_keeps h) (State.regWrite_keeps h)

theorem State.winRead_keeps {r : Inv} [r.Writes] {s : State} (h : Keeps r s) {m addr size : Nat} : Keeps r (s.winRead m addr size) := by
  delta State.winRead
  generalize slotOf addr = slot
  generalize offOf addr = off
  dsimp only
  cases e : s.judge m slot off (size == 8) false with
  | some t => exact State.judge_keeps h _ e
  | none => exact ite_keeps (left_keeps h (execPageErrqRead_keeps h)) (ite_keeps (State.hdrRead_keeps h) (State.regRead_keeps h))

theorem State.protRefuse_keeps {st0 : Inv} {s : State} (h : Keeps st0 s) {m : Nat} {a : Nat}  :
    Keeps st0 (State.protRefuse s m a) := by
  unfold State.protRefuse
  repeat' first
    | with_reducible assumption
    | with_reducible apply State.setAll_keeps
    | with_reducible apply State.bump_keeps
    | with_reducible apply State.irq_keeps
    | with_reducible apply State.raise_keeps
    | with_reducible refine snd_ite_keeps ?_ ?_
    | with_reducible refine snd_mk_keeps ?_
    | beta_reduce

theorem State.memWrite_keeps {st0 : Inv} [st0.Writes] {s : State} (h : Keeps st0 s) {a : Nat} {size : Nat} {v : Nat}  :
    Keeps st0 (State.memWrite s a size v) := by
  unfold State.memWrite
  repeat' first
    | with_reducible assumption
    | with_reducible apply State.wrLE_keeps
    | beta_reduce

theorem State.unmapped_keeps {st0 : Inv} {s : State} (h : Keeps st0 s)  :
    Keeps st0 (State.unmapped s) := by
  unfold State.unmapped
  repeat' first
    | with_reducible assumption
    | with_reducible apply State.raise_keeps
    | split
    | (fail_if_no_progress (with_reducible apply Keeps.lit <;> try exact rfl))
    | with_reducible refine snd_ite_keeps ?_ ?_
    | with_reducible refine snd_mk_keeps ?_
    | with_reducible refine pair_keeps (by assumption) ?_
    | intro _
    | beta_reduce

theorem execRegisterWrite_keeps {st0 : Inv} [st0.Blows] [st0.Clears] [st0.Writes] {s : State} (h : Keeps st0 s) {m : Nat} {addr : Nat} {size : Nat} {v : Word} :
    ResKeeps st0 (execRegisterWrite m addr size v s) := by
  unfold execRegisterWrite
  try with_reducible refine ResKeeps.next ?_
  repeat' first
    | with_reducible assumption
    | with_reducible refine ite_keeps ?_ ?_
    | with_reducible refine ResKeeps.next ?_
    | with_reducible apply State.winWrite_keeps
    | with_reducible apply State.protRefuse_keeps
    | with_reducible apply State.memWrite_keeps
    | with_reducible apply State.send_keeps
    | with_reducible apply State.unmapped_keeps
    | split
    | (fail_if_no_progress (with_reducible apply Keeps.lit <;> try exact rfl))
    | with_reducible refine snd_ite_keeps ?_ ?_
    | with_reducible refine snd_mk_keeps ?_
    | with_reducible refine pair_keeps (by assumption) ?_
    | intro _
    | beta_reduce

theorem execDbgMem_keeps {st0 : Inv} [st0.Blows] [st0.Clears] [st0.Writes] {s : State} (h : Keeps st0 s) {write : Bool} {addr : Nat} {data : Word} :
    ResKeeps st0 (execDbgMem write addr data s) := by
  unfold execDbgMem
  try with_reducible refine ResKeeps.next ?_
  repeat' first
    | with_reducible assumption
    | (extract_lets -underBinder -merge +onlyGivenNames x; refine keepCut (r := st0) (x := x) ?_ (fun hx => ?_); (on_goal 1 => (unfold x; clear x)); (on_goal 2 => clear_value x))
    | (extract_lets -underBinder -merge +onlyGivenNames x; guard_hyp x : SecSt)
    | (extract_lets -underBinder -merge +onlyGivenNames x; clear_value x)
    | with_reducible refine ite_keeps ?_ ?_
    | with_reducible refine ResKeeps.next ?_
    | with_reducible apply State.winWrite_keeps
    | with_reducible apply State.winRead_keeps
    | with_reducible apply State.tapOut_keeps
    | with_reducible apply State.unmapped_keeps
    | split
    | (fail_if_no_progress (with_reducible apply Keeps.lit <;> try exact rfl))
    | with_reducible refine snd_ite_keeps ?_ ?_
    | with_reducible refine snd_mk_keeps ?_
    | with_reducible refine pair_keeps (by assumption) ?_
    | intro _
    | beta_reduce

theorem execKslRead_keeps {st0 : Inv} [st0.Writes] {s : State} (h : Keeps st0 s) {frame : List Nat} :
    ResKeeps st0 (execKslRead frame s) := by
  unfold execKslRead
  try with_reducible refine ResKeeps.next ?_
  repeat' first
    | with_reducible assumption
    | (extract_lets -underBinder -merge +onlyGivenNames x; refine keepCut (r := st0) (x := x) ?_ (fun hx => ?_); (on_goal 1 => (unfold x; clear x)); (on_goal 2 => clear_value x))
    | (extract_lets -underBinder -merge +onlyGivenNames x; guard_hyp x : SecSt)
    | (extract_lets -underBinder -merge +onlyGivenNames x; clear_value x)
    | with_reducible refine ite_keeps ?_ ?_
    | with_reducible refine ResKeeps.next ?_
    | with_reducible apply State.winRead_keeps
    | with_reducible apply State.bump_keeps
    | with_reducible apply State.answer_keeps
    | with_reducible apply State.kslReply_keeps
    | with_reducible apply State.kslResp_keeps
    | with_reducible refine State.kslRx_keeps ?_ (fun _ _ _ _ _ => ?_)
    | with_reducible apply State.kslRaise_keeps
    | with_reducible refine State.kslOnce_keeps ?_ (fun _ _ => ?_)
    | with_reducible apply State.unmapped_keeps
    | split
    | (fail_if_no_progress (with_reducible apply Keeps.lit <;> try exact rfl))
    | with_reducible refine snd_ite_keeps ?_ ?_
    | with_reducible refine snd_mk_keeps ?_
    | with_reducible refine pair_keeps (by assumption) ?_
    | intro _
    | beta_reduce

end Sys2Proof.Machine
end

