-- ==== Sys2Proof/Laws/KeepsExec.lean ====
section
/-! SUPPORT. Every command keeps what a state is asked. -/

set_option linter.all false

namespace Sys2Proof.Machine

/-- Every command keeps a property of memory, fuses and queue that a byte write, a reset and a fuse blow keep. -/
theorem exec_keeps {I : Inv} [I.Writes] [I.Clears] [I.Blows] {c : Instr} {s : State} (h : Keeps I s) : ResKeeps I (exec c s) := by
  cases c with
  | beatBoundary => simp only [exec_beatBoundary]; exact execBeatBoundary_keeps h
  | egressStallReset => simp only [exec_egressStallReset]; exact execEgressStallReset_keeps h
  | budgetEscalated => simp only [exec_budgetEscalated]; exact execBudgetEscalated_keeps h
  | admLateQRead => simp only [exec_admLateQRead]; exact execAdmLateQRead_keeps h
  | beatMarkExchange => simp only [exec_beatMarkExchange]; exact execBeatMarkExchange_keeps h
  | peerBeatMarkRx => simp only [exec_peerBeatMarkRx]; exact execPeerBeatMarkRx_keeps h
  | peerBeatReplyRx => simp only [exec_peerBeatReplyRx]; exact execPeerBeatReplyRx_keeps h
  | stepHoldEnd => simp only [exec_stepHoldEnd]; exact execStepHoldEnd_keeps h
  | ptpSyncRx => simp only [exec_ptpSyncRx]; exact execPtpSyncRx_keeps h
  | ptpSyncTimeout => simp only [exec_ptpSyncTimeout]; exact execPtpSyncTimeout_keeps h
  | beatTbRead => simp only [exec_beatTbRead]; exact execBeatTbRead_keeps h
  | registerWrite => simp only [exec_registerWrite]; exact execRegisterWrite_keeps h
  | pageEnable => simp only [exec_pageEnable]; exact execPageEnable_keeps h
  | pageDisable => simp only [exec_pageDisable]; exact execPageDisable_keeps h
  | pageQuiesce => simp only [exec_pageQuiesce]; exact execPageQuiesce_keeps h
  | instanceQuiesced => simp only [exec_instanceQuiesced]; exact execInstanceQuiesced_keeps h
  | pageReset => simp only [exec_pageReset]; exact execPageReset_keeps h
  | pageCommit => simp only [exec_pageCommit]; exact execPageCommit_keeps h
  | pageDiscard => simp only [exec_pageDiscard]; exact execPageDiscard_keeps h
  | pageErrqRead => simp only [exec_pageErrqRead]; exact execPageErrqRead_keeps h
  | pageErrqAck => simp only [exec_pageErrqAck]; exact execPageErrqAck_keeps h
  | irtClaim => simp only [exec_irtClaim]; exact execIrtClaim_keeps h
  | irtDone => simp only [exec_irtDone]; exact execIrtDone_keeps h
  | irtRouteWrite => simp only [exec_irtRouteWrite]; exact execIrtRouteWrite_keeps h
  | pageLockSet => simp only [exec_pageLockSet]; exact execPageLockSet_keeps h
  | readCommand => simp only [exec_readCommand]; exact execReadCommand_keeps h
  | mapPageFetchDone => simp only [exec_mapPageFetchDone]; exact execMapPageFetchDone_keeps h
  | ctbPageFetchDone => simp only [exec_ctbPageFetchDone]; exact execCtbPageFetchDone_keeps h
  | peerPageReqRx => simp only [exec_peerPageReqRx]; exact execPeerPageReqRx_keeps h
  | peerPageDataRx => simp only [exec_peerPageDataRx]; exact execPeerPageDataRx_keeps h
  | rdpSlowQRead => simp only [exec_rdpSlowQRead]; exact execRdpSlowQRead_keeps h
  | rdpResumeRetry => simp only [exec_rdpResumeRetry]; exact execRdpResumeRetry_keeps h
  | rdpResumeFailMedia => simp only [exec_rdpResumeFailMedia]; exact execRdpResumeFailMedia_keeps h
  | rdpResumeFailKey => simp only [exec_rdpResumeFailKey]; exact execRdpResumeFailKey_keeps h
  | rdpResumeFailInternal => simp only [exec_rdpResumeFailInternal]; exact execRdpResumeFailInternal_keeps h
  | readSlowTimeout => simp only [exec_readSlowTimeout]; exact execReadSlowTimeout_keeps h
  | reconstructStart => simp only [exec_reconstructStart]; exact execReconstructStart_keeps h
  | hedgeStart => simp only [exec_hedgeStart]; exact execHedgeStart_keeps h
  | sliceTagCheck => simp only [exec_sliceTagCheck]; exact execSliceTagCheck_keeps h
  | inflateJobEnd => simp only [exec_inflateJobEnd]; exact execInflateJobEnd_keeps h
  | deliveryEgress => simp only [exec_deliveryEgress]; exact execDeliveryEgress_keeps h
  | mapInval => simp only [exec_mapInval]; exact execMapInval_keeps h
  | mapInvalDone => simp only [exec_mapInvalDone]; exact execMapInvalDone_keeps h
  | rchInval => simp only [exec_rchInval]; exact execRchInval_keeps h
  | rchInvalDone => simp only [exec_rchInvalDone]; exact execRchInvalDone_keeps h
  | pfxRecArm => simp only [exec_pfxRecArm]; exact execPfxRecArm_keeps h
  | pfxRecDisarm => simp only [exec_pfxRecDisarm]; exact execPfxRecDisarm_keeps h
  | pfxRecordWindowEnd => simp only [exec_pfxRecordWindowEnd]; exact execPfxRecordWindowEnd_keeps h
  | pfxLoad => simp only [exec_pfxLoad]; exact execPfxLoad_keeps h
  | pfxUnload => simp only [exec_pfxUnload]; exact execPfxUnload_keeps h
  | pfxLoadDone => simp only [exec_pfxLoadDone]; exact execPfxLoadDone_keeps h
  | pfxExtentDue => simp only [exec_pfxExtentDue]; exact execPfxExtentDue_keeps h
  | pfxExtentSkip => simp only [exec_pfxExtentSkip]; exact execPfxExtentSkip_keeps h
  | writeCommand => simp only [exec_writeCommand]; exact execWriteCommand_keeps h
  | peerMirrorRx => simp only [exec_peerMirrorRx]; exact execPeerMirrorRx_keeps h
  | peerMirrorAckRx => simp only [exec_peerMirrorAckRx]; exact execPeerMirrorAckRx_keeps h
  | writeAcknowledge => simp only [exec_writeAcknowledge]; exact execWriteAcknowledge_keeps h
  | jnlMirrorTimeout => simp only [exec_jnlMirrorTimeout]; exact execJnlMirrorTimeout_keeps h
  | chunkRun => simp only [exec_chunkRun]; exact execChunkRun_keeps h
  | peerSwxQueryRx => simp only [exec_peerSwxQueryRx]; exact execPeerSwxQueryRx_keeps h
  | peerSwxAnswerRx => simp only [exec_peerSwxAnswerRx]; exact execPeerSwxAnswerRx_keeps h
  | recipePageLoaded => simp only [exec_recipePageLoaded]; exact execRecipePageLoaded_keeps h
  | recipePageClose => simp only [exec_recipePageClose]; exact execRecipePageClose_keeps h
  | compressJobEnd => simp only [exec_compressJobEnd]; exact execCompressJobEnd_keeps h
  | rowWaitExpire => simp only [exec_rowWaitExpire]; exact execRowWaitExpire_keeps h
  | updateRecordApply => simp only [exec_updateRecordApply]; exact execUpdateRecordApply_keeps h
  | peerEntryRx => simp only [exec_peerEntryRx]; exact execPeerEntryRx_keeps h
  | peerHorizonRx => simp only [exec_peerHorizonRx]; exact execPeerHorizonRx_keeps h
  | peerRetireRx => simp only [exec_peerRetireRx]; exact execPeerRetireRx_keeps h
  | peerPinRx => simp only [exec_peerPinRx]; exact execPeerPinRx_keeps h
  | peerUnpinRx => simp only [exec_peerUnpinRx]; exact execPeerUnpinRx_keeps h
  | peerRecFetchRx => simp only [exec_peerRecFetchRx]; exact execPeerRecFetchRx_keeps h
  | peerRecDataRx => simp only [exec_peerRecDataRx]; exact execPeerRecDataRx_keeps h
  | jnlDefQRead => simp only [exec_jnlDefQRead]; exact execJnlDefQRead_keeps h
  | createVat => simp only [exec_createVat]; exact execCreateVat_keeps h
  | setVatOptions => simp only [exec_setVatOptions]; exact execSetVatOptions_keeps h
  | rekey => simp only [exec_rekey]; exact execRekey_keeps h
  | freeze => simp only [exec_freeze]; exact execFreeze_keeps h
  | deleteVat => simp only [exec_deleteVat]; exact execDeleteVat_keeps h
  | createVolume => simp only [exec_createVolume]; exact execCreateVolume_keeps h
  | resizeVolume => simp only [exec_resizeVolume]; exact execResizeVolume_keeps h
  | setProfile => simp only [exec_setProfile]; exact execSetProfile_keeps h
  | deleteVolume => simp only [exec_deleteVolume]; exact execDeleteVolume_keeps h
  | redyeResume => simp only [exec_redyeResume]; exact execRedyeResume_keeps h
  | snpCreateGroup => simp only [exec_snpCreateGroup]; exact execSnpCreateGroup_keeps h
  | snpDelete => simp only [exec_snpDelete]; exact execSnpDelete_keeps h
  | snpClone => simp only [exec_snpClone]; exact execSnpClone_keeps h
  | peerTableCmdRx => simp only [exec_peerTableCmdRx]; exact execPeerTableCmdRx_keeps h
  | peerTableAckRx => simp only [exec_peerTableAckRx]; exact execPeerTableAckRx_keeps h
  | tableCmdAckTimeout => simp only [exec_tableCmdAckTimeout]; exact execTableCmdAckTimeout_keeps h
  | tableCmdApply => simp only [exec_tableCmdApply]; exact execTableCmdApply_keeps h
  | peerTablesRx => simp only [exec_peerTablesRx]; exact execPeerTablesRx_keeps h
  | redyeSweepStep => simp only [exec_redyeSweepStep]; exact execRedyeSweepStep_keeps h
  | volumeRefRelease => simp only [exec_volumeRefRelease]; exact execVolumeRefRelease_keeps h
  | snapshotRefRelease => simp only [exec_snapshotRefRelease]; exact execSnapshotRefRelease_keeps h
  | ftlDirLoad => simp only [exec_ftlDirLoad]; exact execFtlDirLoad_keeps h
  | ftlDirLoadDone => simp only [exec_ftlDirLoadDone]; exact execFtlDirLoadDone_keeps h
  | pageWriteBack => simp only [exec_pageWriteBack]; exact execPageWriteBack_keeps h
  | checkpointWrite => simp only [exec_checkpointWrite]; exact execCheckpointWrite_keeps h
  | chunkRelease => simp only [exec_chunkRelease]; exact execChunkRelease_keeps h
  | relocationStart => simp only [exec_relocationStart]; exact execRelocationStart_keeps h
  | bandErase => simp only [exec_bandErase]; exact execBandErase_keeps h
  | scanRead => simp only [exec_scanRead]; exact execScanRead_keeps h
  | vaultDumpEnd => simp only [exec_vaultDumpEnd]; exact execVaultDumpEnd_keeps h
  | ftlRecover => simp only [exec_ftlRecover]; exact execFtlRecover_keeps h
  | liveCountRecompute => simp only [exec_liveCountRecompute]; exact execLiveCountRecompute_keeps h
  | mediaFlitRx => simp only [exec_mediaFlitRx]; exact execMediaFlitRx_keeps h
  | mediaNakRx => simp only [exec_mediaNakRx]; exact execMediaNakRx_keeps h
  | mediaReplayTimer => simp only [exec_mediaReplayTimer]; exact execMediaReplayTimer_keeps h
  | mdlLinkEnable => simp only [exec_mdlLinkEnable]; exact execMdlLinkEnable_keeps h
  | mdlLinkRetrain => simp only [exec_mdlLinkRetrain]; exact execMdlLinkRetrain_keeps h
  | mdlLinkDown => simp only [exec_mdlLinkDown]; exact execMdlLinkDown_keeps h
  | trainingBlockRx => simp only [exec_trainingBlockRx]; exact execTrainingBlockRx_keeps h
  | linkTrainTimeout => simp only [exec_linkTrainTimeout]; exact execLinkTrainTimeout_keeps h
  | linkRecoverTimeout => simp only [exec_linkRecoverTimeout]; exact execLinkRecoverTimeout_keeps h
  | brickCreditRx => simp only [exec_brickCreditRx]; exact execBrickCreditRx_keeps h
  | mediaOpTimeout => simp only [exec_mediaOpTimeout]; exact execMediaOpTimeout_keeps h
  | brickIdentRx => simp only [exec_brickIdentRx]; exact execBrickIdentRx_keeps h
  | brickOwnerRx => simp only [exec_brickOwnerRx]; exact execBrickOwnerRx_keeps h
  | identRetry => simp only [exec_identRetry]; exact execIdentRetry_keeps h
  | brickStatusRx => simp only [exec_brickStatusRx]; exact execBrickStatusRx_keeps h
  | brickReadDataRx => simp only [exec_brickReadDataRx]; exact execBrickReadDataRx_keeps h
  | brickEventRx => simp only [exec_brickEventRx]; exact execBrickEventRx_keeps h
  | sidebandAlert => simp only [exec_sidebandAlert]; exact execSidebandAlert_keeps h
  | sidebandPoll => simp only [exec_sidebandPoll]; exact execSidebandPoll_keeps h
  | brickAdopt => simp only [exec_brickAdopt]; exact execBrickAdopt_keeps h
  | brickRelease => simp only [exec_brickRelease]; exact execBrickRelease_keeps h
  | brickFail => simp only [exec_brickFail]; exact execBrickFail_keeps h
  | brickAttnOn => simp only [exec_brickAttnOn]; exact execBrickAttnOn_keeps h
  | brickAttnOff => simp only [exec_brickAttnOff]; exact execBrickAttnOff_keeps h
  | brickRefresh => simp only [exec_brickRefresh]; exact execBrickRefresh_keeps h
  | dfmLoad => simp only [exec_dfmLoad]; exact execDfmLoad_keeps h
  | dfmUnload => simp only [exec_dfmUnload]; exact execDfmUnload_keeps h
  | digestSubmit => simp only [exec_digestSubmit]; exact execDigestSubmit_keeps h
  | digestJobEnd => simp only [exec_digestJobEnd]; exact execDigestJobEnd_keeps h
  | digDoneQRead => simp only [exec_digDoneQRead]; exact execDigDoneQRead_keeps h
  | keyFetchDone => simp only [exec_keyFetchDone]; exact execKeyFetchDone_keeps h
  | keyHandleRemove => simp only [exec_keyHandleRemove]; exact execKeyHandleRemove_keeps h
  | sliceRngReseed => simp only [exec_sliceRngReseed]; exact execSliceRngReseed_keeps h
  | secHardenWrite => simp only [exec_secHardenWrite]; exact execSecHardenWrite_keeps h
  | portLinkChange => simp only [exec_portLinkChange]; exact execPortLinkChange_keeps h
  | hfiDetectStep => simp only [exec_hfiDetectStep]; exact execHfiDetectStep_keeps h
  | hfiFrameRx => simp only [exec_hfiFrameRx]; exact execHfiFrameRx_keeps h
  | pfcXoff => simp only [exec_pfcXoff]; exact execPfcXoff_keeps h
  | pfcRefresh => simp only [exec_pfcRefresh]; exact execPfcRefresh_keeps h
  | pfcXon => simp only [exec_pfcXon]; exact execPfcXon_keeps h
  | pfcFrameRx => simp only [exec_pfcFrameRx]; exact execPfcFrameRx_keeps h
  | pfcPauseExpire => simp only [exec_pfcPauseExpire]; exact execPfcPauseExpire_keeps h
  | tcpSynRx => simp only [exec_tcpSynRx]; exact execTcpSynRx_keeps h
  | tcpRetransmitTimeout => simp only [exec_tcpRetransmitTimeout]; exact execTcpRetransmitTimeout_keeps h
  | tcpTimeWaitExpire => simp only [exec_tcpTimeWaitExpire]; exact execTcpTimeWaitExpire_keeps h
  | nvtIcreqRx => simp only [exec_nvtIcreqRx]; exact execNvtIcreqRx_keeps h
  | nvtIcreqTimeout => simp only [exec_nvtIcreqTimeout]; exact execNvtIcreqTimeout_keeps h
  | nvmeConnectAdmin => simp only [exec_nvmeConnectAdmin]; exact execNvmeConnectAdmin_keeps h
  | nvmeConnectIo => simp only [exec_nvmeConnectIo]; exact execNvmeConnectIo_keeps h
  | nvtConnectQRead => simp only [exec_nvtConnectQRead]; exact execNvtConnectQRead_keeps h
  | nvtConnectAccept => simp only [exec_nvtConnectAccept]; exact execNvtConnectAccept_keeps h
  | nvtConnectRefuseHost => simp only [exec_nvtConnectRefuseHost]; exact execNvtConnectRefuseHost_keeps h
  | nvtConnectRefuseBusy => simp only [exec_nvtConnectRefuseBusy]; exact execNvtConnectRefuseBusy_keeps h
  | nvtConnectTimeout => simp only [exec_nvtConnectTimeout]; exact execNvtConnectTimeout_keeps h
  | keepAliveExpired => simp only [exec_keepAliveExpired]; exact execKeepAliveExpired_keeps h
  | nvtCtrlTeardown => simp only [exec_nvtCtrlTeardown]; exact execNvtCtrlTeardown_keeps h
  | nvtAttachChanged => simp only [exec_nvtAttachChanged]; exact execNvtAttachChanged_keeps h
  | nvmeIdentify => simp only [exec_nvmeIdentify]; exact execNvmeIdentify_keeps h
  | nvmeGetFeatures => simp only [exec_nvmeGetFeatures]; exact execNvmeGetFeatures_keeps h
  | nvmeSetFeatures => simp only [exec_nvmeSetFeatures]; exact execNvmeSetFeatures_keeps h
  | nvmeGetLogPage => simp only [exec_nvmeGetLogPage]; exact execNvmeGetLogPage_keeps h
  | nvmeDeviceSelfTest => simp only [exec_nvmeDeviceSelfTest]; exact execNvmeDeviceSelfTest_keeps h
  | nvmeAbort => simp only [exec_nvmeAbort]; exact execNvmeAbort_keeps h
  | nvmeKeepAlive => simp only [exec_nvmeKeepAlive]; exact execNvmeKeepAlive_keeps h
  | nvmeAsyncEventRequest => simp only [exec_nvmeAsyncEventRequest]; exact execNvmeAsyncEventRequest_keeps h
  | nvmePropertyGet => simp only [exec_nvmePropertyGet]; exact execNvmePropertyGet_keeps h
  | nvmePropertySet => simp only [exec_nvmePropertySet]; exact execNvmePropertySet_keeps h
  | nvmeDisconnect => simp only [exec_nvmeDisconnect]; exact execNvmeDisconnect_keeps h
  | nvmeRead => simp only [exec_nvmeRead]; exact execNvmeRead_keeps h
  | nvmeWrite => simp only [exec_nvmeWrite]; exact execNvmeWrite_keeps h
  | nvmeFlush => simp only [exec_nvmeFlush]; exact execNvmeFlush_keeps h
  | nvmeWriteZeroes => simp only [exec_nvmeWriteZeroes]; exact execNvmeWriteZeroes_keeps h
  | nvmeDatasetManagement => simp only [exec_nvmeDatasetManagement]; exact execNvmeDatasetManagement_keeps h
  | nvmeInvalidOpcode => simp only [exec_nvmeInvalidOpcode]; exact execNvmeInvalidOpcode_keeps h
  | nvtH2cDataRx => simp only [exec_nvtH2cDataRx]; exact execNvtH2cDataRx_keeps h
  | nvtH2cTermReqRx => simp only [exec_nvtH2cTermReqRx]; exact execNvtH2cTermReqRx_keeps h
  | selftestTimeout => simp only [exec_selftestTimeout]; exact execSelftestTimeout_keeps h
  | selftestSegment => simp only [exec_selftestSegment]; exact execSelftestSegment_keeps h
  | tcpSegmentRx => simp only [exec_tcpSegmentRx]; exact execTcpSegmentRx_keeps h
  | ldtHelloRx => simp only [exec_ldtHelloRx]; exact execLdtHelloRx_keeps h
  | ldtAcceptQRead => simp only [exec_ldtAcceptQRead]; exact execLdtAcceptQRead_keeps h
  | ldtAccept => simp only [exec_ldtAccept]; exact execLdtAccept_keeps h
  | ldtRefuse => simp only [exec_ldtRefuse]; exact execLdtRefuse_keeps h
  | ldtRefuseBusy => simp only [exec_ldtRefuseBusy]; exact execLdtRefuseBusy_keeps h
  | ldtAcceptTimeout => simp only [exec_ldtAcceptTimeout]; exact execLdtAcceptTimeout_keeps h
  | ldtHelloRespRx => simp only [exec_ldtHelloRespRx]; exact execLdtHelloRespRx_keeps h
  | ldtFinishRx => simp only [exec_ldtFinishRx]; exact execLdtFinishRx_keeps h
  | ldtSetupTimeout => simp only [exec_ldtSetupTimeout]; exact execLdtSetupTimeout_keeps h
  | ldtSendRx => simp only [exec_ldtSendRx]; exact execLdtSendRx_keeps h
  | ldtWriteRx => simp only [exec_ldtWriteRx]; exact execLdtWriteRx_keeps h
  | ldtReadReqRx => simp only [exec_ldtReadReqRx]; exact execLdtReadReqRx_keeps h
  | ldtReadRespRx => simp only [exec_ldtReadRespRx]; exact execLdtReadRespRx_keeps h
  | ldtAckRx => simp only [exec_ldtAckRx]; exact execLdtAckRx_keeps h
  | ldtCloseRx => simp only [exec_ldtCloseRx]; exact execLdtCloseRx_keeps h
  | ldtMsgFailRx => simp only [exec_ldtMsgFailRx]; exact execLdtMsgFailRx_keeps h
  | ldtKeepaliveRx => simp only [exec_ldtKeepaliveRx]; exact execLdtKeepaliveRx_keeps h
  | ldtConnClose => simp only [exec_ldtConnClose]; exact execLdtConnClose_keeps h
  | ldtConnRekey => simp only [exec_ldtConnRekey]; exact execLdtConnRekey_keeps h
  | ldtRekeyDue => simp only [exec_ldtRekeyDue]; exact execLdtRekeyDue_keeps h
  | ldtKeepaliveSend => simp only [exec_ldtKeepaliveSend]; exact execLdtKeepaliveSend_keeps h
  | ldtIdleTimeout => simp only [exec_ldtIdleTimeout]; exact execLdtIdleTimeout_keeps h
  | ldtAckDelayExpire => simp only [exec_ldtAckDelayExpire]; exact execLdtAckDelayExpire_keeps h
  | ldtRtoExpire => simp only [exec_ldtRtoExpire]; exact execLdtRtoExpire_keeps h
  | ldtMsgTimeout => simp only [exec_ldtMsgTimeout]; exact execLdtMsgTimeout_keeps h
  | ldtRxMsgTimeout => simp only [exec_ldtRxMsgTimeout]; exact execLdtRxMsgTimeout_keeps h
  | ldtRateIncrease => simp only [exec_ldtRateIncrease]; exact execLdtRateIncrease_keeps h
  | ldtPathReturn => simp only [exec_ldtPathReturn]; exact execLdtPathReturn_keeps h
  | ldtCtxFetchDone => simp only [exec_ldtCtxFetchDone]; exact execLdtCtxFetchDone_keeps h
  | lbcRead => simp only [exec_lbcRead]; exact execLbcRead_keeps h
  | lbcWrite => simp only [exec_lbcWrite]; exact execLbcWrite_keeps h
  | lbcWriteZeroes => simp only [exec_lbcWriteZeroes]; exact execLbcWriteZeroes_keeps h
  | lbcDeallocate => simp only [exec_lbcDeallocate]; exact execLbcDeallocate_keeps h
  | lbcFlush => simp only [exec_lbcFlush]; exact execLbcFlush_keeps h
  | lbcAbort => simp only [exec_lbcAbort]; exact execLbcAbort_keeps h
  | lbcGetHealth => simp only [exec_lbcGetHealth]; exact execLbcGetHealth_keeps h
  | lbcGetDeferred => simp only [exec_lbcGetDeferred]; exact execLbcGetDeferred_keeps h
  | lseModeReqService => simp only [exec_lseModeReqService]; exact execLseModeReqService_keeps h
  | handoverDrained => simp only [exec_handoverDrained]; exact execHandoverDrained_keeps h
  | lseModeReqServiceRelease => simp only [exec_lseModeReqServiceRelease]; exact execLseModeReqServiceRelease_keeps h
  | lseModeReqReboot => simp only [exec_lseModeReqReboot]; exact execLseModeReqReboot_keeps h
  | peerBundleActive => simp only [exec_peerBundleActive]; exact execPeerBundleActive_keeps h
  | peerFlitRx => simp only [exec_peerFlitRx]; exact execPeerFlitRx_keeps h
  | peerReplayTimer => simp only [exec_peerReplayTimer]; exact execPeerReplayTimer_keeps h
  | peerBundleLeaveActive => simp only [exec_peerBundleLeaveActive]; exact execPeerBundleLeaveActive_keeps h
  | peerHelloRx => simp only [exec_peerHelloRx]; exact execPeerHelloRx_keeps h
  | peerModeRx => simp only [exec_peerModeRx]; exact execPeerModeRx_keeps h
  | peerModeSend => simp only [exec_peerModeSend]; exact execPeerModeSend_keeps h
  | peerModeTimeout => simp only [exec_peerModeTimeout]; exact execPeerModeTimeout_keeps h
  | peerLossTimeout => simp only [exec_peerLossTimeout]; exact execPeerLossTimeout_keeps h
  | peerKeyWrapRx => simp only [exec_peerKeyWrapRx]; exact execPeerKeyWrapRx_keeps h
  | peerSyncDataRx => simp only [exec_peerSyncDataRx]; exact execPeerSyncDataRx_keeps h
  | peerHandoverRx => simp only [exec_peerHandoverRx]; exact execPeerHandoverRx_keeps h
  | peerMailboxRx => simp only [exec_peerMailboxRx]; exact execPeerMailboxRx_keeps h
  | peerRubRx => simp only [exec_peerRubRx]; exact execPeerRubRx_keeps h
  | leaseFencePoint => simp only [exec_leaseFencePoint]; exact execLeaseFencePoint_keeps h
  | leaseRenewDue => simp only [exec_leaseRenewDue]; exact execLeaseRenewDue_keeps h
  | witnessRetry => simp only [exec_witnessRetry]; exact execWitnessRetry_keeps h
  | witnessGrantRx => simp only [exec_witnessGrantRx]; exact execWitnessGrantRx_keeps h
  | witnessWaitRx => simp only [exec_witnessWaitRx]; exact execWitnessWaitRx_keeps h
  | witnessWaitExpire => simp only [exec_witnessWaitExpire]; exact execWitnessWaitExpire_keeps h
  | witnessDenyRx => simp only [exec_witnessDenyRx]; exact execWitnessDenyRx_keeps h
  | witnessStatusRx => simp only [exec_witnessStatusRx]; exact execWitnessStatusRx_keeps h
  | witnessReleasedRx => simp only [exec_witnessReleasedRx]; exact execWitnessReleasedRx_keeps h
  | witnessReportSend => simp only [exec_witnessReportSend]; exact execWitnessReportSend_keeps h
  | homeAcquire => simp only [exec_homeAcquire]; exact execHomeAcquire_keeps h
  | bootWaitExpire => simp only [exec_bootWaitExpire]; exact execBootWaitExpire_keeps h
  | fencedProbe => simp only [exec_fencedProbe]; exact execFencedProbe_keeps h
  | handbackRelease => simp only [exec_handbackRelease]; exact execHandbackRelease_keeps h
  | handbackTimeout => simp only [exec_handbackTimeout]; exact execHandbackTimeout_keeps h
  | rubTest => simp only [exec_rubTest]; exact execRubTest_keeps h
  | rubProbeEnd => simp only [exec_rubProbeEnd]; exact execRubProbeEnd_keeps h
  | lseWitRxWrite => simp only [exec_lseWitRxWrite]; exact execLseWitRxWrite_keeps h
  | lseWitTxRead => simp only [exec_lseWitTxRead]; exact execLseWitTxRead_keeps h
  | peerLinkEnable => simp only [exec_peerLinkEnable]; exact execPeerLinkEnable_keeps h
  | peerBundleRetrain => simp only [exec_peerBundleRetrain]; exact execPeerBundleRetrain_keeps h
  | lbcFetch => simp only [exec_lbcFetch]; exact execLbcFetch_keeps h
  | lbcRepPoll => simp only [exec_lbcRepPoll]; exact execLbcRepPoll_keeps h
  | lbcRepRecipe => simp only [exec_lbcRepRecipe]; exact execLbcRepRecipe_keeps h
  | lbcRepChunks => simp only [exec_lbcRepChunks]; exact execLbcRepChunks_keeps h
  | lbcRepDone => simp only [exec_lbcRepDone]; exact execLbcRepDone_keeps h
  | fabHelloSend => simp only [exec_fabHelloSend]; exact execFabHelloSend_keeps h
  | fabHelloRx => simp only [exec_fabHelloRx]; exact execFabHelloRx_keeps h
  | fabLeaveRx => simp only [exec_fabLeaveRx]; exact execFabLeaveRx_keeps h
  | fabMemberMiss => simp only [exec_fabMemberMiss]; exact execFabMemberMiss_keeps h
  | fabPlaceHoldExpire => simp only [exec_fabPlaceHoldExpire]; exact execFabPlaceHoldExpire_keeps h
  | fabPlaceSwap => simp only [exec_fabPlaceSwap]; exact execFabPlaceSwap_keeps h
  | fabFetchTimeout => simp only [exec_fabFetchTimeout]; exact execFabFetchTimeout_keeps h
  | repLinkLoad => simp only [exec_repLinkLoad]; exact execRepLinkLoad_keeps h
  | repLinkStop => simp only [exec_repLinkStop]; exact execRepLinkStop_keeps h
  | repLinkOffer => simp only [exec_repLinkOffer]; exact execRepLinkOffer_keeps h
  | repLinkResync => simp only [exec_repLinkResync]; exact execRepLinkResync_keeps h
  | repPollDue => simp only [exec_repPollDue]; exact execRepPollDue_keeps h
  | repSyncTimeout => simp only [exec_repSyncTimeout]; exact execRepSyncTimeout_keeps h
  | msrExtend => simp only [exec_msrExtend]; exact execMsrExtend_keeps h
  | msrLock => simp only [exec_msrLock]; exact execMsrLock_keeps h
  | installVatKey => simp only [exec_installVatKey]; exact execInstallVatKey_keeps h
  | removeVatKey => simp only [exec_removeVatKey]; exact execRemoveVatKey_keeps h
  | installSlot => simp only [exec_installSlot]; exact execInstallSlot_keeps h
  | importKek => simp only [exec_importKek]; exact execImportKek_keeps h
  | removeSlot => simp only [exec_removeSlot]; exact execRemoveSlot_keeps h
  | saltExport => simp only [exec_saltExport]; exact execSaltExport_keeps h
  | saltImport => simp only [exec_saltImport]; exact execSaltImport_keeps h
  | installFabricSalt => simp only [exec_installFabricSalt]; exact execInstallFabricSalt_keeps h
  | setPairKey => simp only [exec_setPairKey]; exact execSetPairKey_keeps h
  | quote => simp only [exec_quote]; exact execQuote_keeps h
  | identity => simp only [exec_identity]; exact execIdentity_keeps h
  | random => simp only [exec_random]; exact execRandom_keeps h
  | hmac => simp only [exec_hmac]; exact execHmac_keeps h
  | entropyStartupTest => simp only [exec_entropyStartupTest]; exact execEntropyStartupTest_keeps h
  | entropyTestFail => simp only [exec_entropyTestFail]; exact execEntropyTestFail_keeps h
  | entropyRecovered => simp only [exec_entropyRecovered]; exact execEntropyRecovered_keeps h
  | drbgReseed => simp only [exec_drbgReseed]; exact execDrbgReseed_keeps h
  | fuseSvnD => simp only [exec_fuseSvnD]; exact execFuseSvnD_keeps h
  | fuseSvnI => simp only [exec_fuseSvnI]; exact execFuseSvnI_keeps h
  | fuseRootI => simp only [exec_fuseRootI]; exact execFuseRootI_keeps h
  | fuseDebugDisable => simp only [exec_fuseDebugDisable]; exact execFuseDebugDisable_keeps h
  | fuseDebugRoot => simp only [exec_fuseDebugRoot]; exact execFuseDebugRoot_keeps h
  | mbxPost => simp only [exec_mbxPost]; exact execMbxPost_keeps h
  | mbxTake => simp only [exec_mbxTake]; exact execMbxTake_keeps h
  | mbxStatWrite => simp only [exec_mbxStatWrite]; exact execMbxStatWrite_keeps h
  | mbxBindWrite => simp only [exec_mbxBindWrite]; exact execMbxBindWrite_keeps h
  | mbxBindLock => simp only [exec_mbxBindLock]; exact execMbxBindLock_keeps h
  | mbxLockRead => simp only [exec_mbxLockRead]; exact execMbxLockRead_keeps h
  | mbxUnlock => simp only [exec_mbxUnlock]; exact execMbxUnlock_keeps h
  | bootLoaderVerify => simp only [exec_bootLoaderVerify]; exact execBootLoaderVerify_keeps h
  | bootLoaderTimeout => simp only [exec_bootLoaderTimeout]; exact execBootLoaderTimeout_keeps h
  | bundleCheck => simp only [exec_bundleCheck]; exact execBundleCheck_keeps h
  | firmwareStart => simp only [exec_firmwareStart]; exact execFirmwareStart_keeps h
  | settingsMigrate => simp only [exec_settingsMigrate]; exact execSettingsMigrate_keeps h
  | hbmTrain => simp only [exec_hbmTrain]; exact execHbmTrain_keeps h
  | updBegin => simp only [exec_updBegin]; exact execUpdBegin_keeps h
  | updBlocks => simp only [exec_updBlocks]; exact execUpdBlocks_keeps h
  | updVerify => simp only [exec_updVerify]; exact execUpdVerify_keeps h
  | updSchedule => simp only [exec_updSchedule]; exact execUpdSchedule_keeps h
  | updCancel => simp only [exec_updCancel]; exact execUpdCancel_keeps h
  | updConfirm => simp only [exec_updConfirm]; exact execUpdConfirm_keeps h
  | updStatus => simp only [exec_updStatus]; exact execUpdStatus_keeps h
  | updSettings => simp only [exec_updSettings]; exact execUpdSettings_keeps h
  | updFuse => simp only [exec_updFuse]; exact execUpdFuse_keeps h
  | updActivateCheck => simp only [exec_updActivateCheck]; exact execUpdActivateCheck_keeps h
  | updActivateExpired => simp only [exec_updActivateExpired]; exact execUpdActivateExpired_keeps h
  | updTrialTimeout => simp only [exec_updTrialTimeout]; exact execUpdTrialTimeout_keeps h
  | kslChallengeReq => simp only [exec_kslChallengeReq]; exact execKslChallengeReq_keeps h
  | kslAuth => simp only [exec_kslAuth]; exact execKslAuth_keeps h
  | kslReq => simp only [exec_kslReq]; exact execKslReq_keeps h
  | kslData => simp only [exec_kslData]; exact execKslData_keeps h
  | kslLoader => simp only [exec_kslLoader]; exact execKslLoader_keeps h
  | kslSessionTimeout => simp only [exec_kslSessionTimeout]; exact execKslSessionTimeout_keeps h
  | kslRead => simp only [exec_kslRead]; exact execKslRead_keeps h
  | pwrDomSetState => simp only [exec_pwrDomSetState]; exact execPwrDomSetState_keeps h
  | pwrDomResetCores => simp only [exec_pwrDomResetCores]; exact execPwrDomResetCores_keeps h
  | pwrEntryQuiesced => simp only [exec_pwrEntryQuiesced]; exact execPwrEntryQuiesced_keeps h
  | pwrQuiesceTimeout => simp only [exec_pwrQuiesceTimeout]; exact execPwrQuiesceTimeout_keeps h
  | pwrExitDone => simp only [exec_pwrExitDone]; exact execPwrExitDone_keeps h
  | autoIdleEnter => simp only [exec_autoIdleEnter]; exact execAutoIdleEnter_keeps h
  | autoIdleExit => simp only [exec_autoIdleExit]; exact execAutoIdleExit_keeps h
  | wakeSourceAssert => simp only [exec_wakeSourceAssert]; exact execWakeSourceAssert_keeps h
  | dozeRequest => simp only [exec_dozeRequest]; exact execDozeRequest_keeps h
  | dozeWake => simp only [exec_dozeWake]; exact execDozeWake_keeps h
  | dozeExitDone => simp only [exec_dozeExitDone]; exact execDozeExitDone_keeps h
  | dozeExitSlow => simp only [exec_dozeExitSlow]; exact execDozeExitSlow_keeps h
  | pllUnlock => simp only [exec_pllUnlock]; exact execPllUnlock_keeps h
  | clkRefLoss => simp only [exec_clkRefLoss]; exact execClkRefLoss_keeps h
  | clkRefReturn => simp only [exec_clkRefReturn]; exact execClkRefReturn_keeps h
  | pfailRecognised => simp only [exec_pfailRecognised]; exact execPfailRecognised_keeps h
  | aonSrstReq => simp only [exec_aonSrstReq]; exact execAonSrstReq_keeps h
  | fatalResetTimer => simp only [exec_fatalResetTimer]; exact execFatalResetTimer_keeps h
  | erqInject => simp only [exec_erqInject]; exact execErqInject_keeps h
  | memoryEccError => simp only [exec_memoryEccError]; exact execMemoryEccError_keeps h
  | evrEpochEnd => simp only [exec_evrEpochEnd]; exact execEvrEpochEnd_keeps h
  | evrSample => simp only [exec_evrSample]; exact execEvrSample_keeps h
  | evrCursorWrite => simp only [exec_evrCursorWrite]; exact execEvrCursorWrite_keeps h
  | evrWindowLoaded => simp only [exec_evrWindowLoaded]; exact execEvrWindowLoaded_keeps h
  | evrWinRead => simp only [exec_evrWinRead]; exact execEvrWinRead_keeps h
  | evrClrChalRead => simp only [exec_evrClrChalRead]; exact execEvrClrChalRead_keeps h
  | evrClrReq => simp only [exec_evrClrReq]; exact execEvrClrReq_keeps h
  | evrSecClear => simp only [exec_evrSecClear]; exact execEvrSecClear_keeps h
  | ageSample => simp only [exec_ageSample]; exact execAgeSample_keeps h
  | thermalWarning => simp only [exec_thermalWarning]; exact execThermalWarning_keeps h
  | thermalWarningClear => simp only [exec_thermalWarningClear]; exact execThermalWarningClear_keeps h
  | thermalShutdown => simp only [exec_thermalShutdown]; exact execThermalShutdown_keeps h
  | thermalTrip => simp only [exec_thermalTrip]; exact execThermalTrip_keeps h
  | idcode => simp only [exec_idcode]; exact execIdcode_keeps h
  | samplePreload => simp only [exec_samplePreload]; exact execSamplePreload_keeps h
  | extest => simp only [exec_extest]; exact execExtest_keeps h
  | extestPulse => simp only [exec_extestPulse]; exact execExtestPulse_keeps h
  | extestTrain => simp only [exec_extestTrain]; exact execExtestTrain_keeps h
  | clamp => simp only [exec_clamp]; exact execClamp_keeps h
  | highz => simp only [exec_highz]; exact execHighz_keeps h
  | bypass => simp only [exec_bypass]; exact execBypass_keeps h
  | tapReset => simp only [exec_tapReset]; exact execTapReset_keeps h
  | dbgChal => simp only [exec_dbgChal]; exact execDbgChal_keeps h
  | dbgToken => simp only [exec_dbgToken]; exact execDbgToken_keeps h
  | dbgStat => simp only [exec_dbgStat]; exact execDbgStat_keeps h
  | dbgMem => simp only [exec_dbgMem]; exact execDbgMem_keeps h
  | tstRun => simp only [exec_tstRun]; exact execTstRun_keeps h
  | tstStop => simp only [exec_tstStop]; exact execTstStop_keeps h
  | tstClear => simp only [exec_tstClear]; exact execTstClear_keeps h
  | tstEyeScan => simp only [exec_tstEyeScan]; exact execTstEyeScan_keeps h
  | tstEyeDone => simp only [exec_tstEyeDone]; exact execTstEyeDone_keeps h
  | tstCheckerLock => simp only [exec_tstCheckerLock]; exact execTstCheckerLock_keeps h
  | tstLockLoss => simp only [exec_tstLockLoss]; exact execTstLockLoss_keeps h
  | porstNAssert => simp only [exec_porstNAssert]; exact execPorstNAssert_keeps h
  | porstNRelease => simp only [exec_porstNRelease]; exact execPorstNRelease_keeps h
  | srstNAssert => simp only [exec_srstNAssert]; exact execSrstNAssert_keeps h
  | srstNRelease => simp only [exec_srstNRelease]; exact execSrstNRelease_keeps h
  | internalReset => simp only [exec_internalReset]; exact execInternalReset_keeps h
  | supplyLoss => simp only [exec_supplyLoss]; exact execSupplyLoss_keeps h

/-- Outside `mayTouchMemory` a command keeps any property of memory. -/
theorem exec_keeps_mem {I : Inv} [I.Blows] {c : Instr} {s : State} (hc : mayTouchMemory c = false) (h : Keeps I s) : ResKeeps I (exec c s) := by
  cases c with
  | beatBoundary => exact absurd (show true = false from hc) Bool.noConfusion
  | egressStallReset => exact absurd (show true = false from hc) Bool.noConfusion
  | budgetEscalated => simp only [exec_budgetEscalated]; exact execBudgetEscalated_keeps h
  | admLateQRead => simp only [exec_admLateQRead]; exact execAdmLateQRead_keeps h
  | beatMarkExchange => simp only [exec_beatMarkExchange]; exact execBeatMarkExchange_keeps h
  | peerBeatMarkRx => simp only [exec_peerBeatMarkRx]; exact execPeerBeatMarkRx_keeps h
  | peerBeatReplyRx => simp only [exec_peerBeatReplyRx]; exact execPeerBeatReplyRx_keeps h
  | stepHoldEnd => simp only [exec_stepHoldEnd]; exact execStepHoldEnd_keeps h
  | ptpSyncRx => simp only [exec_ptpSyncRx]; exact execPtpSyncRx_keeps h
  | ptpSyncTimeout => simp only [exec_ptpSyncTimeout]; exact execPtpSyncTimeout_keeps h
  | beatTbRead => simp only [exec_beatTbRead]; exact execBeatTbRead_keeps h
  | registerWrite => exact absurd (show true = false from hc) Bool.noConfusion
  | pageEnable => simp only [exec_pageEnable]; exact execPageEnable_keeps h
  | pageDisable => simp only [exec_pageDisable]; exact execPageDisable_keeps h
  | pageQuiesce => simp only [exec_pageQuiesce]; exact execPageQuiesce_keeps h
  | instanceQuiesced => simp only [exec_instanceQuiesced]; exact execInstanceQuiesced_keeps h
  | pageReset => exact absurd (show true = false from hc) Bool.noConfusion
  | pageCommit => simp only [exec_pageCommit]; exact execPageCommit_keeps h
  | pageDiscard => simp only [exec_pageDiscard]; exact execPageDiscard_keeps h
  | pageErrqRead => simp only [exec_pageErrqRead]; exact execPageErrqRead_keeps h
  | pageErrqAck => simp only [exec_pageErrqAck]; exact execPageErrqAck_keeps h
  | irtClaim => simp only [exec_irtClaim]; exact execIrtClaim_keeps h
  | irtDone => simp only [exec_irtDone]; exact execIrtDone_keeps h
  | irtRouteWrite => simp only [exec_irtRouteWrite]; exact execIrtRouteWrite_keeps h
  | pageLockSet => simp only [exec_pageLockSet]; exact execPageLockSet_keeps h
  | readCommand => simp only [exec_readCommand]; exact execReadCommand_keeps h
  | mapPageFetchDone => simp only [exec_mapPageFetchDone]; exact execMapPageFetchDone_keeps h
  | ctbPageFetchDone => simp only [exec_ctbPageFetchDone]; exact execCtbPageFetchDone_keeps h
  | peerPageReqRx => simp only [exec_peerPageReqRx]; exact execPeerPageReqRx_keeps h
  | peerPageDataRx => simp only [exec_peerPageDataRx]; exact execPeerPageDataRx_keeps h
  | rdpSlowQRead => simp only [exec_rdpSlowQRead]; exact execRdpSlowQRead_keeps h
  | rdpResumeRetry => simp only [exec_rdpResumeRetry]; exact execRdpResumeRetry_keeps h
  | rdpResumeFailMedia => simp only [exec_rdpResumeFailMedia]; exact execRdpResumeFailMedia_keeps h
  | rdpResumeFailKey => simp only [exec_rdpResumeFailKey]; exact execRdpResumeFailKey_keeps h
  | rdpResumeFailInternal => simp only [exec_rdpResumeFailInternal]; exact execRdpResumeFailInternal_keeps h
  | readSlowTimeout => simp only [exec_readSlowTimeout]; exact execReadSlowTimeout_keeps h
  | reconstructStart => simp only [exec_reconstructStart]; exact execReconstructStart_keeps h
  | hedgeStart => simp only [exec_hedgeStart]; exact execHedgeStart_keeps h
  | sliceTagCheck => exact absurd (show true = false from hc) Bool.noConfusion
  | inflateJobEnd => simp only [exec_inflateJobEnd]; exact execInflateJobEnd_keeps h
  | deliveryEgress => exact absurd (show true = false from hc) Bool.noConfusion
  | mapInval => simp only [exec_mapInval]; exact execMapInval_keeps h
  | mapInvalDone => simp only [exec_mapInvalDone]; exact execMapInvalDone_keeps h
  | rchInval => simp only [exec_rchInval]; exact execRchInval_keeps h
  | rchInvalDone => simp only [exec_rchInvalDone]; exact execRchInvalDone_keeps h
  | pfxRecArm => exact absurd (show true = false from hc) Bool.noConfusion
  | pfxRecDisarm => exact absurd (show true = false from hc) Bool.noConfusion
  | pfxRecordWindowEnd => exact absurd (show true = false from hc) Bool.noConfusion
  | pfxLoad => simp only [exec_pfxLoad]; exact execPfxLoad_keeps h
  | pfxUnload => simp only [exec_pfxUnload]; exact execPfxUnload_keeps h
  | pfxLoadDone => simp only [exec_pfxLoadDone]; exact execPfxLoadDone_keeps h
  | pfxExtentDue => simp only [exec_pfxExtentDue]; exact execPfxExtentDue_keeps h
  | pfxExtentSkip => simp only [exec_pfxExtentSkip]; exact execPfxExtentSkip_keeps h
  | writeCommand => simp only [exec_writeCommand]; exact execWriteCommand_keeps h
  | peerMirrorRx => simp only [exec_peerMirrorRx]; exact execPeerMirrorRx_keeps h
  | peerMirrorAckRx => simp only [exec_peerMirrorAckRx]; exact execPeerMirrorAckRx_keeps h
  | writeAcknowledge => exact absurd (show true = false from hc) Bool.noConfusion
  | jnlMirrorTimeout => simp only [exec_jnlMirrorTimeout]; exact execJnlMirrorTimeout_keeps h
  | chunkRun => exact absurd (show true = false from hc) Bool.noConfusion
  | peerSwxQueryRx => simp only [exec_peerSwxQueryRx]; exact execPeerSwxQueryRx_keeps h
  | peerSwxAnswerRx => simp only [exec_peerSwxAnswerRx]; exact execPeerSwxAnswerRx_keeps h
  | recipePageLoaded => simp only [exec_recipePageLoaded]; exact execRecipePageLoaded_keeps h
  | recipePageClose => simp only [exec_recipePageClose]; exact execRecipePageClose_keeps h
  | compressJobEnd => simp only [exec_compressJobEnd]; exact execCompressJobEnd_keeps h
  | rowWaitExpire => simp only [exec_rowWaitExpire]; exact execRowWaitExpire_keeps h
  | updateRecordApply => exact absurd (show true = false from hc) Bool.noConfusion
  | peerEntryRx => simp only [exec_peerEntryRx]; exact execPeerEntryRx_keeps h
  | peerHorizonRx => simp only [exec_peerHorizonRx]; exact execPeerHorizonRx_keeps h
  | peerRetireRx => simp only [exec_peerRetireRx]; exact execPeerRetireRx_keeps h
  | peerPinRx => simp only [exec_peerPinRx]; exact execPeerPinRx_keeps h
  | peerUnpinRx => simp only [exec_peerUnpinRx]; exact execPeerUnpinRx_keeps h
  | peerRecFetchRx => simp only [exec_peerRecFetchRx]; exact execPeerRecFetchRx_keeps h
  | peerRecDataRx => simp only [exec_peerRecDataRx]; exact execPeerRecDataRx_keeps h
  | jnlDefQRead => simp only [exec_jnlDefQRead]; exact execJnlDefQRead_keeps h
  | createVat => exact absurd (show true = false from hc) Bool.noConfusion
  | setVatOptions => exact absurd (show true = false from hc) Bool.noConfusion
  | rekey => exact absurd (show true = false from hc) Bool.noConfusion
  | freeze => exact absurd (show true = false from hc) Bool.noConfusion
  | deleteVat => exact absurd (show true = false from hc) Bool.noConfusion
  | createVolume => exact absurd (show true = false from hc) Bool.noConfusion
  | resizeVolume => exact absurd (show true = false from hc) Bool.noConfusion
  | setProfile => exact absurd (show true = false from hc) Bool.noConfusion
  | deleteVolume => exact absurd (show true = false from hc) Bool.noConfusion
  | redyeResume => exact absurd (show true = false from hc) Bool.noConfusion
  | snpCreateGroup => exact absurd (show true = false from hc) Bool.noConfusion
  | snpDelete => exact absurd (show true = false from hc) Bool.noConfusion
  | snpClone => exact absurd (show true = false from hc) Bool.noConfusion
  | peerTableCmdRx => simp only [exec_peerTableCmdRx]; exact execPeerTableCmdRx_keeps h
  | peerTableAckRx => simp only [exec_peerTableAckRx]; exact execPeerTableAckRx_keeps h
  | tableCmdAckTimeout => simp only [exec_tableCmdAckTimeout]; exact execTableCmdAckTimeout_keeps h
  | tableCmdApply => exact absurd (show true = false from hc) Bool.noConfusion
  | peerTablesRx => exact absurd (show true = false from hc) Bool.noConfusion
  | redyeSweepStep => simp only [exec_redyeSweepStep]; exact execRedyeSweepStep_keeps h
  | volumeRefRelease => exact absurd (show true = false from hc) Bool.noConfusion
  | snapshotRefRelease => simp only [exec_snapshotRefRelease]; exact execSnapshotRefRelease_keeps h
  | ftlDirLoad => simp only [exec_ftlDirLoad]; exact execFtlDirLoad_keeps h
  | ftlDirLoadDone => simp only [exec_ftlDirLoadDone]; exact execFtlDirLoadDone_keeps h
  | pageWriteBack => simp only [exec_pageWriteBack]; exact execPageWriteBack_keeps h
  | checkpointWrite => exact absurd (show true = false from hc) Bool.noConfusion
  | chunkRelease => exact absurd (show true = false from hc) Bool.noConfusion
  | relocationStart => simp only [exec_relocationStart]; exact execRelocationStart_keeps h
  | bandErase => simp only [exec_bandErase]; exact execBandErase_keeps h
  | scanRead => simp only [exec_scanRead]; exact execScanRead_keeps h
  | vaultDumpEnd => simp only [exec_vaultDumpEnd]; exact execVaultDumpEnd_keeps h
  | ftlRecover => exact absurd (show true = false from hc) Bool.noConfusion
  | liveCountRecompute => simp only [exec_liveCountRecompute]; exact execLiveCountRecompute_keeps h
  | mediaFlitRx => simp only [exec_mediaFlitRx]; exact execMediaFlitRx_keeps h
  | mediaNakRx => simp only [exec_mediaNakRx]; exact execMediaNakRx_keeps h
  | mediaReplayTimer => simp only [exec_mediaReplayTimer]; exact execMediaReplayTimer_keeps h
  | mdlLinkEnable => exact absurd (show true = false from hc) Bool.noConfusion
  | mdlLinkRetrain => exact absurd (show true = false from hc) Bool.noConfusion
  | mdlLinkDown => exact absurd (show true = false from hc) Bool.noConfusion
  | trainingBlockRx => simp only [exec_trainingBlockRx]; exact execTrainingBlockRx_keeps h
  | linkTrainTimeout => simp only [exec_linkTrainTimeout]; exact execLinkTrainTimeout_keeps h
  | linkRecoverTimeout => exact absurd (show true = false from hc) Bool.noConfusion
  | brickCreditRx => simp only [exec_brickCreditRx]; exact execBrickCreditRx_keeps h
  | mediaOpTimeout => exact absurd (show true = false from hc) Bool.noConfusion
  | brickIdentRx => simp only [exec_brickIdentRx]; exact execBrickIdentRx_keeps h
  | brickOwnerRx => simp only [exec_brickOwnerRx]; exact execBrickOwnerRx_keeps h
  | identRetry => simp only [exec_identRetry]; exact execIdentRetry_keeps h
  | brickStatusRx => exact absurd (show true = false from hc) Bool.noConfusion
  | brickReadDataRx => simp only [exec_brickReadDataRx]; exact execBrickReadDataRx_keeps h
  | brickEventRx => simp only [exec_brickEventRx]; exact execBrickEventRx_keeps h
  | sidebandAlert => simp only [exec_sidebandAlert]; exact execSidebandAlert_keeps h
  | sidebandPoll => simp only [exec_sidebandPoll]; exact execSidebandPoll_keeps h
  | brickAdopt => simp only [exec_brickAdopt]; exact execBrickAdopt_keeps h
  | brickRelease => simp only [exec_brickRelease]; exact execBrickRelease_keeps h
  | brickFail => simp only [exec_brickFail]; exact execBrickFail_keeps h
  | brickAttnOn => simp only [exec_brickAttnOn]; exact execBrickAttnOn_keeps h
  | brickAttnOff => simp only [exec_brickAttnOff]; exact execBrickAttnOff_keeps h
  | brickRefresh => simp only [exec_brickRefresh]; exact execBrickRefresh_keeps h
  | dfmLoad => simp only [exec_dfmLoad]; exact execDfmLoad_keeps h
  | dfmUnload => simp only [exec_dfmUnload]; exact execDfmUnload_keeps h
  | digestSubmit => simp only [exec_digestSubmit]; exact execDigestSubmit_keeps h
  | digestJobEnd => exact absurd (show true = false from hc) Bool.noConfusion
  | digDoneQRead => simp only [exec_digDoneQRead]; exact execDigDoneQRead_keeps h
  | keyFetchDone => simp only [exec_keyFetchDone]; exact execKeyFetchDone_keeps h
  | keyHandleRemove => simp only [exec_keyHandleRemove]; exact execKeyHandleRemove_keeps h
  | sliceRngReseed => simp only [exec_sliceRngReseed]; exact execSliceRngReseed_keeps h
  | secHardenWrite => simp only [exec_secHardenWrite]; exact execSecHardenWrite_keeps h
  | portLinkChange => simp only [exec_portLinkChange]; exact execPortLinkChange_keeps h
  | hfiDetectStep => simp only [exec_hfiDetectStep]; exact execHfiDetectStep_keeps h
  | hfiFrameRx => simp only [exec_hfiFrameRx]; exact execHfiFrameRx_keeps h
  | pfcXoff => simp only [exec_pfcXoff]; exact execPfcXoff_keeps h
  | pfcRefresh => simp only [exec_pfcRefresh]; exact execPfcRefresh_keeps h
  | pfcXon => simp only [exec_pfcXon]; exact execPfcXon_keeps h
  | pfcFrameRx => simp only [exec_pfcFrameRx]; exact execPfcFrameRx_keeps h
  | pfcPauseExpire => simp only [exec_pfcPauseExpire]; exact execPfcPauseExpire_keeps h
  | tcpSynRx => simp only [exec_tcpSynRx]; exact execTcpSynRx_keeps h
  | tcpRetransmitTimeout => simp only [exec_tcpRetransmitTimeout]; exact execTcpRetransmitTimeout_keeps h
  | tcpTimeWaitExpire => simp only [exec_tcpTimeWaitExpire]; exact execTcpTimeWaitExpire_keeps h
  | nvtIcreqRx => simp only [exec_nvtIcreqRx]; exact execNvtIcreqRx_keeps h
  | nvtIcreqTimeout => simp only [exec_nvtIcreqTimeout]; exact execNvtIcreqTimeout_keeps h
  | nvmeConnectAdmin => exact absurd (show true = false from hc) Bool.noConfusion
  | nvmeConnectIo => simp only [exec_nvmeConnectIo]; exact execNvmeConnectIo_keeps h
  | nvtConnectQRead => simp only [exec_nvtConnectQRead]; exact execNvtConnectQRead_keeps h
  | nvtConnectAccept => simp only [exec_nvtConnectAccept]; exact execNvtConnectAccept_keeps h
  | nvtConnectRefuseHost => simp only [exec_nvtConnectRefuseHost]; exact execNvtConnectRefuseHost_keeps h
  | nvtConnectRefuseBusy => simp only [exec_nvtConnectRefuseBusy]; exact execNvtConnectRefuseBusy_keeps h
  | nvtConnectTimeout => simp only [exec_nvtConnectTimeout]; exact execNvtConnectTimeout_keeps h
  | keepAliveExpired => simp only [exec_keepAliveExpired]; exact execKeepAliveExpired_keeps h
  | nvtCtrlTeardown => simp only [exec_nvtCtrlTeardown]; exact execNvtCtrlTeardown_keeps h
  | nvtAttachChanged => simp only [exec_nvtAttachChanged]; exact execNvtAttachChanged_keeps h
  | nvmeIdentify => simp only [exec_nvmeIdentify]; exact execNvmeIdentify_keeps h
  | nvmeGetFeatures => simp only [exec_nvmeGetFeatures]; exact execNvmeGetFeatures_keeps h
  | nvmeSetFeatures => simp only [exec_nvmeSetFeatures]; exact execNvmeSetFeatures_keeps h
  | nvmeGetLogPage => simp only [exec_nvmeGetLogPage]; exact execNvmeGetLogPage_keeps h
  | nvmeDeviceSelfTest => simp only [exec_nvmeDeviceSelfTest]; exact execNvmeDeviceSelfTest_keeps h
  | nvmeAbort => simp only [exec_nvmeAbort]; exact execNvmeAbort_keeps h
  | nvmeKeepAlive => simp only [exec_nvmeKeepAlive]; exact execNvmeKeepAlive_keeps h
  | nvmeAsyncEventRequest => simp only [exec_nvmeAsyncEventRequest]; exact execNvmeAsyncEventRequest_keeps h
  | nvmePropertyGet => simp only [exec_nvmePropertyGet]; exact execNvmePropertyGet_keeps h
  | nvmePropertySet => simp only [exec_nvmePropertySet]; exact execNvmePropertySet_keeps h
  | nvmeDisconnect => simp only [exec_nvmeDisconnect]; exact execNvmeDisconnect_keeps h
  | nvmeRead => exact absurd (show true = false from hc) Bool.noConfusion
  | nvmeWrite => simp only [exec_nvmeWrite]; exact execNvmeWrite_keeps h
  | nvmeFlush => simp only [exec_nvmeFlush]; exact execNvmeFlush_keeps h
  | nvmeWriteZeroes => simp only [exec_nvmeWriteZeroes]; exact execNvmeWriteZeroes_keeps h
  | nvmeDatasetManagement => simp only [exec_nvmeDatasetManagement]; exact execNvmeDatasetManagement_keeps h
  | nvmeInvalidOpcode => simp only [exec_nvmeInvalidOpcode]; exact execNvmeInvalidOpcode_keeps h
  | nvtH2cDataRx => simp only [exec_nvtH2cDataRx]; exact execNvtH2cDataRx_keeps h
  | nvtH2cTermReqRx => simp only [exec_nvtH2cTermReqRx]; exact execNvtH2cTermReqRx_keeps h
  | selftestTimeout => simp only [exec_selftestTimeout]; exact execSelftestTimeout_keeps h
  | selftestSegment => simp only [exec_selftestSegment]; exact execSelftestSegment_keeps h
  | tcpSegmentRx => simp only [exec_tcpSegmentRx]; exact execTcpSegmentRx_keeps h
  | ldtHelloRx => exact absurd (show true = false from hc) Bool.noConfusion
  | ldtAcceptQRead => simp only [exec_ldtAcceptQRead]; exact execLdtAcceptQRead_keeps h
  | ldtAccept => exact absurd (show true = false from hc) Bool.noConfusion
  | ldtRefuse => exact absurd (show true = false from hc) Bool.noConfusion
  | ldtRefuseBusy => exact absurd (show true = false from hc) Bool.noConfusion
  | ldtAcceptTimeout => simp only [exec_ldtAcceptTimeout]; exact execLdtAcceptTimeout_keeps h
  | ldtHelloRespRx => exact absurd (show true = false from hc) Bool.noConfusion
  | ldtFinishRx => simp only [exec_ldtFinishRx]; exact execLdtFinishRx_keeps h
  | ldtSetupTimeout => simp only [exec_ldtSetupTimeout]; exact execLdtSetupTimeout_keeps h
  | ldtSendRx => exact absurd (show true = false from hc) Bool.noConfusion
  | ldtWriteRx => exact absurd (show true = false from hc) Bool.noConfusion
  | ldtReadReqRx => exact absurd (show true = false from hc) Bool.noConfusion
  | ldtReadRespRx => exact absurd (show true = false from hc) Bool.noConfusion
  | ldtAckRx => exact absurd (show true = false from hc) Bool.noConfusion
  | ldtCloseRx => exact absurd (show true = false from hc) Bool.noConfusion
  | ldtMsgFailRx => exact absurd (show true = false from hc) Bool.noConfusion
  | ldtKeepaliveRx => exact absurd (show true = false from hc) Bool.noConfusion
  | ldtConnClose => exact absurd (show true = false from hc) Bool.noConfusion
  | ldtConnRekey => exact absurd (show true = false from hc) Bool.noConfusion
  | ldtRekeyDue => exact absurd (show true = false from hc) Bool.noConfusion
  | ldtKeepaliveSend => exact absurd (show true = false from hc) Bool.noConfusion
  | ldtIdleTimeout => exact absurd (show true = false from hc) Bool.noConfusion
  | ldtAckDelayExpire => simp only [exec_ldtAckDelayExpire]; exact execLdtAckDelayExpire_keeps h
  | ldtRtoExpire => simp only [exec_ldtRtoExpire]; exact execLdtRtoExpire_keeps h
  | ldtMsgTimeout => exact absurd (show true = false from hc) Bool.noConfusion
  | ldtRxMsgTimeout => exact absurd (show true = false from hc) Bool.noConfusion
  | ldtRateIncrease => simp only [exec_ldtRateIncrease]; exact execLdtRateIncrease_keeps h
  | ldtPathReturn => exact absurd (show true = false from hc) Bool.noConfusion
  | ldtCtxFetchDone => exact absurd (show true = false from hc) Bool.noConfusion
  | lbcRead => exact absurd (show true = false from hc) Bool.noConfusion
  | lbcWrite => simp only [exec_lbcWrite]; exact execLbcWrite_keeps h
  | lbcWriteZeroes => simp only [exec_lbcWriteZeroes]; exact execLbcWriteZeroes_keeps h
  | lbcDeallocate => exact absurd (show true = false from hc) Bool.noConfusion
  | lbcFlush => simp only [exec_lbcFlush]; exact execLbcFlush_keeps h
  | lbcAbort => simp only [exec_lbcAbort]; exact execLbcAbort_keeps h
  | lbcGetHealth => simp only [exec_lbcGetHealth]; exact execLbcGetHealth_keeps h
  | lbcGetDeferred => exact absurd (show true = false from hc) Bool.noConfusion
  | lseModeReqService => exact absurd (show true = false from hc) Bool.noConfusion
  | handoverDrained => exact absurd (show true = false from hc) Bool.noConfusion
  | lseModeReqServiceRelease => exact absurd (show true = false from hc) Bool.noConfusion
  | lseModeReqReboot => exact absurd (show true = false from hc) Bool.noConfusion
  | peerBundleActive => simp only [exec_peerBundleActive]; exact execPeerBundleActive_keeps h
  | peerFlitRx => simp only [exec_peerFlitRx]; exact execPeerFlitRx_keeps h
  | peerReplayTimer => simp only [exec_peerReplayTimer]; exact execPeerReplayTimer_keeps h
  | peerBundleLeaveActive => simp only [exec_peerBundleLeaveActive]; exact execPeerBundleLeaveActive_keeps h
  | peerHelloRx => simp only [exec_peerHelloRx]; exact execPeerHelloRx_keeps h
  | peerModeRx => exact absurd (show true = false from hc) Bool.noConfusion
  | peerModeSend => simp only [exec_peerModeSend]; exact execPeerModeSend_keeps h
  | peerModeTimeout => simp only [exec_peerModeTimeout]; exact execPeerModeTimeout_keeps h
  | peerLossTimeout => exact absurd (show true = false from hc) Bool.noConfusion
  | peerKeyWrapRx => exact absurd (show true = false from hc) Bool.noConfusion
  | peerSyncDataRx => simp only [exec_peerSyncDataRx]; exact execPeerSyncDataRx_keeps h
  | peerHandoverRx => exact absurd (show true = false from hc) Bool.noConfusion
  | peerMailboxRx => simp only [exec_peerMailboxRx]; exact execPeerMailboxRx_keeps h
  | peerRubRx => simp only [exec_peerRubRx]; exact execPeerRubRx_keeps h
  | leaseFencePoint => simp only [exec_leaseFencePoint]; exact execLeaseFencePoint_keeps h
  | leaseRenewDue => exact absurd (show true = false from hc) Bool.noConfusion
  | witnessRetry => exact absurd (show true = false from hc) Bool.noConfusion
  | witnessGrantRx => exact absurd (show true = false from hc) Bool.noConfusion
  | witnessWaitRx => exact absurd (show true = false from hc) Bool.noConfusion
  | witnessWaitExpire => exact absurd (show true = false from hc) Bool.noConfusion
  | witnessDenyRx => exact absurd (show true = false from hc) Bool.noConfusion
  | witnessStatusRx => exact absurd (show true = false from hc) Bool.noConfusion
  | witnessReleasedRx => exact absurd (show true = false from hc) Bool.noConfusion
  | witnessReportSend => exact absurd (show true = false from hc) Bool.noConfusion
  | homeAcquire => exact absurd (show true = false from hc) Bool.noConfusion
  | bootWaitExpire => exact absurd (show true = false from hc) Bool.noConfusion
  | fencedProbe => exact absurd (show true = false from hc) Bool.noConfusion
  | handbackRelease => exact absurd (show true = false from hc) Bool.noConfusion
  | handbackTimeout => simp only [exec_handbackTimeout]; exact execHandbackTimeout_keeps h
  | rubTest => exact absurd (show true = false from hc) Bool.noConfusion
  | rubProbeEnd => simp only [exec_rubProbeEnd]; exact execRubProbeEnd_keeps h
  | lseWitRxWrite => exact absurd (show true = false from hc) Bool.noConfusion
  | lseWitTxRead => simp only [exec_lseWitTxRead]; exact execLseWitTxRead_keeps h
  | peerLinkEnable => simp only [exec_peerLinkEnable]; exact execPeerLinkEnable_keeps h
  | peerBundleRetrain => simp only [exec_peerBundleRetrain]; exact execPeerBundleRetrain_keeps h
  | lbcFetch => simp only [exec_lbcFetch]; exact execLbcFetch_keeps h
  | lbcRepPoll => simp only [exec_lbcRepPoll]; exact execLbcRepPoll_keeps h
  | lbcRepRecipe => exact absurd (show true = false from hc) Bool.noConfusion
  | lbcRepChunks => exact absurd (show true = false from hc) Bool.noConfusion
  | lbcRepDone => simp only [exec_lbcRepDone]; exact execLbcRepDone_keeps h
  | fabHelloSend => exact absurd (show true = false from hc) Bool.noConfusion
  | fabHelloRx => exact absurd (show true = false from hc) Bool.noConfusion
  | fabLeaveRx => exact absurd (show true = false from hc) Bool.noConfusion
  | fabMemberMiss => exact absurd (show true = false from hc) Bool.noConfusion
  | fabPlaceHoldExpire => simp only [exec_fabPlaceHoldExpire]; exact execFabPlaceHoldExpire_keeps h
  | fabPlaceSwap => exact absurd (show true = false from hc) Bool.noConfusion
  | fabFetchTimeout => exact absurd (show true = false from hc) Bool.noConfusion
  | repLinkLoad => simp only [exec_repLinkLoad]; exact execRepLinkLoad_keeps h
  | repLinkStop => simp only [exec_repLinkStop]; exact execRepLinkStop_keeps h
  | repLinkOffer => simp only [exec_repLinkOffer]; exact execRepLinkOffer_keeps h
  | repLinkResync => simp only [exec_repLinkResync]; exact execRepLinkResync_keeps h
  | repPollDue => exact absurd (show true = false from hc) Bool.noConfusion
  | repSyncTimeout => simp only [exec_repSyncTimeout]; exact execRepSyncTimeout_keeps h
  | msrExtend => simp only [exec_msrExtend]; exact execMsrExtend_keeps h
  | msrLock => simp only [exec_msrLock]; exact execMsrLock_keeps h
  | installVatKey => exact absurd (show true = false from hc) Bool.noConfusion
  | removeVatKey => exact absurd (show true = false from hc) Bool.noConfusion
  | installSlot => exact absurd (show true = false from hc) Bool.noConfusion
  | importKek => exact absurd (show true = false from hc) Bool.noConfusion
  | removeSlot => exact absurd (show true = false from hc) Bool.noConfusion
  | saltExport => exact absurd (show true = false from hc) Bool.noConfusion
  | saltImport => exact absurd (show true = false from hc) Bool.noConfusion
  | installFabricSalt => exact absurd (show true = false from hc) Bool.noConfusion
  | setPairKey => exact absurd (show true = false from hc) Bool.noConfusion
  | quote => exact absurd (show true = false from hc) Bool.noConfusion
  | identity => exact absurd (show true = false from hc) Bool.noConfusion
  | random => exact absurd (show true = false from hc) Bool.noConfusion
  | hmac => exact absurd (show true = false from hc) Bool.noConfusion
  | entropyStartupTest => simp only [exec_entropyStartupTest]; exact execEntropyStartupTest_keeps h
  | entropyTestFail => simp only [exec_entropyTestFail]; exact execEntropyTestFail_keeps h
  | entropyRecovered => simp only [exec_entropyRecovered]; exact execEntropyRecovered_keeps h
  | drbgReseed => simp only [exec_drbgReseed]; exact execDrbgReseed_keeps h
  | fuseSvnD => simp only [exec_fuseSvnD]; exact execFuseSvnD_keeps h
  | fuseSvnI => simp only [exec_fuseSvnI]; exact execFuseSvnI_keeps h
  | fuseRootI => simp only [exec_fuseRootI]; exact execFuseRootI_keeps h
  | fuseDebugDisable => simp only [exec_fuseDebugDisable]; exact execFuseDebugDisable_keeps h
  | fuseDebugRoot => simp only [exec_fuseDebugRoot]; exact execFuseDebugRoot_keeps h
  | mbxPost => simp only [exec_mbxPost]; exact execMbxPost_keeps h
  | mbxTake => exact absurd (show true = false from hc) Bool.noConfusion
  | mbxStatWrite => simp only [exec_mbxStatWrite]; exact execMbxStatWrite_keeps h
  | mbxBindWrite => simp only [exec_mbxBindWrite]; exact execMbxBindWrite_keeps h
  | mbxBindLock => simp only [exec_mbxBindLock]; exact execMbxBindLock_keeps h
  | mbxLockRead => simp only [exec_mbxLockRead]; exact execMbxLockRead_keeps h
  | mbxUnlock => simp only [exec_mbxUnlock]; exact execMbxUnlock_keeps h
  | bootLoaderVerify => simp only [exec_bootLoaderVerify]; exact execBootLoaderVerify_keeps h
  | bootLoaderTimeout => simp only [exec_bootLoaderTimeout]; exact execBootLoaderTimeout_keeps h
  | bundleCheck => simp only [exec_bundleCheck]; exact execBundleCheck_keeps h
  | firmwareStart => exact absurd (show true = false from hc) Bool.noConfusion
  | settingsMigrate => exact absurd (show true = false from hc) Bool.noConfusion
  | hbmTrain => simp only [exec_hbmTrain]; exact execHbmTrain_keeps h
  | updBegin => exact absurd (show true = false from hc) Bool.noConfusion
  | updBlocks => exact absurd (show true = false from hc) Bool.noConfusion
  | updVerify => exact absurd (show true = false from hc) Bool.noConfusion
  | updSchedule => exact absurd (show true = false from hc) Bool.noConfusion
  | updCancel => exact absurd (show true = false from hc) Bool.noConfusion
  | updConfirm => exact absurd (show true = false from hc) Bool.noConfusion
  | updStatus => exact absurd (show true = false from hc) Bool.noConfusion
  | updSettings => exact absurd (show true = false from hc) Bool.noConfusion
  | updFuse => exact absurd (show true = false from hc) Bool.noConfusion
  | updActivateCheck => exact absurd (show true = false from hc) Bool.noConfusion
  | updActivateExpired => simp only [exec_updActivateExpired]; exact execUpdActivateExpired_keeps h
  | updTrialTimeout => exact absurd (show true = false from hc) Bool.noConfusion
  | kslChallengeReq => simp only [exec_kslChallengeReq]; exact execKslChallengeReq_keeps h
  | kslAuth => simp only [exec_kslAuth]; exact execKslAuth_keeps h
  | kslReq => simp only [exec_kslReq]; exact execKslReq_keeps h
  | kslData => simp only [exec_kslData]; exact execKslData_keeps h
  | kslLoader => simp only [exec_kslLoader]; exact execKslLoader_keeps h
  | kslSessionTimeout => simp only [exec_kslSessionTimeout]; exact execKslSessionTimeout_keeps h
  | kslRead => exact absurd (show true = false from hc) Bool.noConfusion
  | pwrDomSetState => exact absurd (show true = false from hc) Bool.noConfusion
  | pwrDomResetCores => exact absurd (show true = false from hc) Bool.noConfusion
  | pwrEntryQuiesced => exact absurd (show true = false from hc) Bool.noConfusion
  | pwrQuiesceTimeout => simp only [exec_pwrQuiesceTimeout]; exact execPwrQuiesceTimeout_keeps h
  | pwrExitDone => exact absurd (show true = false from hc) Bool.noConfusion
  | autoIdleEnter => exact absurd (show true = false from hc) Bool.noConfusion
  | autoIdleExit => exact absurd (show true = false from hc) Bool.noConfusion
  | wakeSourceAssert => simp only [exec_wakeSourceAssert]; exact execWakeSourceAssert_keeps h
  | dozeRequest => simp only [exec_dozeRequest]; exact execDozeRequest_keeps h
  | dozeWake => simp only [exec_dozeWake]; exact execDozeWake_keeps h
  | dozeExitDone => exact absurd (show true = false from hc) Bool.noConfusion
  | dozeExitSlow => simp only [exec_dozeExitSlow]; exact execDozeExitSlow_keeps h
  | pllUnlock => simp only [exec_pllUnlock]; exact execPllUnlock_keeps h
  | clkRefLoss => exact absurd (show true = false from hc) Bool.noConfusion
  | clkRefReturn => simp only [exec_clkRefReturn]; exact execClkRefReturn_keeps h
  | pfailRecognised => exact absurd (show true = false from hc) Bool.noConfusion
  | aonSrstReq => exact absurd (show true = false from hc) Bool.noConfusion
  | fatalResetTimer => exact absurd (show true = false from hc) Bool.noConfusion
  | erqInject => simp only [exec_erqInject]; exact execErqInject_keeps h
  | memoryEccError => simp only [exec_memoryEccError]; exact execMemoryEccError_keeps h
  | evrEpochEnd => simp only [exec_evrEpochEnd]; exact execEvrEpochEnd_keeps h
  | evrSample => simp only [exec_evrSample]; exact execEvrSample_keeps h
  | evrCursorWrite => simp only [exec_evrCursorWrite]; exact execEvrCursorWrite_keeps h
  | evrWindowLoaded => simp only [exec_evrWindowLoaded]; exact execEvrWindowLoaded_keeps h
  | evrWinRead => simp only [exec_evrWinRead]; exact execEvrWinRead_keeps h
  | evrClrChalRead => simp only [exec_evrClrChalRead]; exact execEvrClrChalRead_keeps h
  | evrClrReq => simp only [exec_evrClrReq]; exact execEvrClrReq_keeps h
  | evrSecClear => simp only [exec_evrSecClear]; exact execEvrSecClear_keeps h
  | ageSample => simp only [exec_ageSample]; exact execAgeSample_keeps h
  | thermalWarning => simp only [exec_thermalWarning]; exact execThermalWarning_keeps h
  | thermalWarningClear => simp only [exec_thermalWarningClear]; exact execThermalWarningClear_keeps h
  | thermalShutdown => simp only [exec_thermalShutdown]; exact execThermalShutdown_keeps h
  | thermalTrip => exact absurd (show true = false from hc) Bool.noConfusion
  | idcode => simp only [exec_idcode]; exact execIdcode_keeps h
  | samplePreload => simp only [exec_samplePreload]; exact execSamplePreload_keeps h
  | extest => simp only [exec_extest]; exact execExtest_keeps h
  | extestPulse => simp only [exec_extestPulse]; exact execExtestPulse_keeps h
  | extestTrain => simp only [exec_extestTrain]; exact execExtestTrain_keeps h
  | clamp => simp only [exec_clamp]; exact execClamp_keeps h
  | highz => simp only [exec_highz]; exact execHighz_keeps h
  | bypass => simp only [exec_bypass]; exact execBypass_keeps h
  | tapReset => simp only [exec_tapReset]; exact execTapReset_keeps h
  | dbgChal => simp only [exec_dbgChal]; exact execDbgChal_keeps h
  | dbgToken => exact absurd (show true = false from hc) Bool.noConfusion
  | dbgStat => simp only [exec_dbgStat]; exact execDbgStat_keeps h
  | dbgMem => exact absurd (show true = false from hc) Bool.noConfusion
  | tstRun => simp only [exec_tstRun]; exact execTstRun_keeps h
  | tstStop => simp only [exec_tstStop]; exact execTstStop_keeps h
  | tstClear => simp only [exec_tstClear]; exact execTstClear_keeps h
  | tstEyeScan => simp only [exec_tstEyeScan]; exact execTstEyeScan_keeps h
  | tstEyeDone => exact absurd (show true = false from hc) Bool.noConfusion
  | tstCheckerLock => simp only [exec_tstCheckerLock]; exact execTstCheckerLock_keeps h
  | tstLockLoss => simp only [exec_tstLockLoss]; exact execTstLockLoss_keeps h
  | porstNAssert => exact absurd (show true = false from hc) Bool.noConfusion
  | porstNRelease => simp only [exec_porstNRelease]; exact execPorstNRelease_keeps h
  | srstNAssert => exact absurd (show true = false from hc) Bool.noConfusion
  | srstNRelease => simp only [exec_srstNRelease]; exact execSrstNRelease_keeps h
  | internalReset => simp only [exec_internalReset]; exact execInternalReset_keeps h
  | supplyLoss => exact absurd (show true = false from hc) Bool.noConfusion

/-- Outside `mayTouchFuses` a command keeps a property of the fuses that no blown fuse need keep. -/
theorem exec_keeps_fuses {I : Inv} [I.Writes] [I.Clears] {c : Instr} {s : State} (hc : mayTouchFuses c = false) (h : Keeps I s) : ResKeeps I (exec c s) := by
  cases c with
  | beatBoundary => simp only [exec_beatBoundary]; exact execBeatBoundary_keeps h
  | egressStallReset => simp only [exec_egressStallReset]; exact execEgressStallReset_keeps h
  | budgetEscalated => simp only [exec_budgetEscalated]; exact execBudgetEscalated_keeps h
  | admLateQRead => simp only [exec_admLateQRead]; exact execAdmLateQRead_keeps h
  | beatMarkExchange => simp only [exec_beatMarkExchange]; exact execBeatMarkExchange_keeps h
  | peerBeatMarkRx => simp only [exec_peerBeatMarkRx]; exact execPeerBeatMarkRx_keeps h
  | peerBeatReplyRx => simp only [exec_peerBeatReplyRx]; exact execPeerBeatReplyRx_keeps h
  | stepHoldEnd => simp only [exec_stepHoldEnd]; exact execStepHoldEnd_keeps h
  | ptpSyncRx => simp only [exec_ptpSyncRx]; exact execPtpSyncRx_keeps h
  | ptpSyncTimeout => simp only [exec_ptpSyncTimeout]; exact execPtpSyncTimeout_keeps h
  | beatTbRead => simp only [exec_beatTbRead]; exact execBeatTbRead_keeps h
  | registerWrite => exact absurd (show true = false from hc) Bool.noConfusion
  | pageEnable => simp only [exec_pageEnable]; exact execPageEnable_keeps h
  | pageDisable => simp only [exec_pageDisable]; exact execPageDisable_keeps h
  | pageQuiesce => simp only [exec_pageQuiesce]; exact execPageQuiesce_keeps h
  | instanceQuiesced => simp only [exec_instanceQuiesced]; exact execInstanceQuiesced_keeps h
  | pageReset => simp only [exec_pageReset]; exact execPageReset_keeps h
  | pageCommit => simp only [exec_pageCommit]; exact execPageCommit_keeps h
  | pageDiscard => simp only [exec_pageDiscard]; exact execPageDiscard_keeps h
  | pageErrqRead => simp only [exec_pageErrqRead]; exact execPageErrqRead_keeps h
  | pageErrqAck => simp only [exec_pageErrqAck]; exact execPageErrqAck_keeps h
  | irtClaim => simp only [exec_irtClaim]; exact execIrtClaim_keeps h
  | irtDone => simp only [exec_irtDone]; exact execIrtDone_keeps h
  | irtRouteWrite => simp only [exec_irtRouteWrite]; exact execIrtRouteWrite_keeps h
  | pageLockSet => simp only [exec_pageLockSet]; exact execPageLockSet_keeps h
  | readCommand => simp only [exec_readCommand]; exact execReadCommand_keeps h
  | mapPageFetchDone => simp only [exec_mapPageFetchDone]; exact execMapPageFetchDone_keeps h
  | ctbPageFetchDone => simp only [exec_ctbPageFetchDone]; exact execCtbPageFetchDone_keeps h
  | peerPageReqRx => simp only [exec_peerPageReqRx]; exact execPeerPageReqRx_keeps h
  | peerPageDataRx => simp only [exec_peerPageDataRx]; exact execPeerPageDataRx_keeps h
  | rdpSlowQRead => simp only [exec_rdpSlowQRead]; exact execRdpSlowQRead_keeps h
  | rdpResumeRetry => simp only [exec_rdpResumeRetry]; exact execRdpResumeRetry_keeps h
  | rdpResumeFailMedia => simp only [exec_rdpResumeFailMedia]; exact execRdpResumeFailMedia_keeps h
  | rdpResumeFailKey => simp only [exec_rdpResumeFailKey]; exact execRdpResumeFailKey_keeps h
  | rdpResumeFailInternal => simp only [exec_rdpResumeFailInternal]; exact execRdpResumeFailInternal_keeps h
  | readSlowTimeout => simp only [exec_readSlowTimeout]; exact execReadSlowTimeout_keeps h
  | reconstructStart => simp only [exec_reconstructStart]; exact execReconstructStart_keeps h
  | hedgeStart => simp only [exec_hedgeStart]; exact execHedgeStart_keeps h
  | sliceTagCheck => simp only [exec_sliceTagCheck]; exact execSliceTagCheck_keeps h
  | inflateJobEnd => simp only [exec_inflateJobEnd]; exact execInflateJobEnd_keeps h
  | deliveryEgress => simp only [exec_deliveryEgress]; exact execDeliveryEgress_keeps h
  | mapInval => simp only [exec_mapInval]; exact execMapInval_keeps h
  | mapInvalDone => simp only [exec_mapInvalDone]; exact execMapInvalDone_keeps h
  | rchInval => simp only [exec_rchInval]; exact execRchInval_keeps h
  | rchInvalDone => simp only [exec_rchInvalDone]; exact execRchInvalDone_keeps h
  | pfxRecArm => simp only [exec_pfxRecArm]; exact execPfxRecArm_keeps h
  | pfxRecDisarm => simp only [exec_pfxRecDisarm]; exact execPfxRecDisarm_keeps h
  | pfxRecordWindowEnd => simp only [exec_pfxRecordWindowEnd]; exact execPfxRecordWindowEnd_keeps h
  | pfxLoad => simp only [exec_pfxLoad]; exact execPfxLoad_keeps h
  | pfxUnload => simp only [exec_pfxUnload]; exact execPfxUnload_keeps h
  | pfxLoadDone => simp only [exec_pfxLoadDone]; exact execPfxLoadDone_keeps h
  | pfxExtentDue => simp only [exec_pfxExtentDue]; exact execPfxExtentDue_keeps h
  | pfxExtentSkip => simp only [exec_pfxExtentSkip]; exact execPfxExtentSkip_keeps h
  | writeCommand => simp only [exec_writeCommand]; exact execWriteCommand_keeps h
  | peerMirrorRx => simp only [exec_peerMirrorRx]; exact execPeerMirrorRx_keeps h
  | peerMirrorAckRx => simp only [exec_peerMirrorAckRx]; exact execPeerMirrorAckRx_keeps h
  | writeAcknowledge => simp only [exec_writeAcknowledge]; exact execWriteAcknowledge_keeps h
  | jnlMirrorTimeout => simp only [exec_jnlMirrorTimeout]; exact execJnlMirrorTimeout_keeps h
  | chunkRun => simp only [exec_chunkRun]; exact execChunkRun_keeps h
  | peerSwxQueryRx => simp only [exec_peerSwxQueryRx]; exact execPeerSwxQueryRx_keeps h
  | peerSwxAnswerRx => simp only [exec_peerSwxAnswerRx]; exact execPeerSwxAnswerRx_keeps h
  | recipePageLoaded => simp only [exec_recipePageLoaded]; exact execRecipePageLoaded_keeps h
  | recipePageClose => simp only [exec_recipePageClose]; exact execRecipePageClose_keeps h
  | compressJobEnd => simp only [exec_compressJobEnd]; exact execCompressJobEnd_keeps h
  | rowWaitExpire => simp only [exec_rowWaitExpire]; exact execRowWaitExpire_keeps h
  | updateRecordApply => simp only [exec_updateRecordApply]; exact execUpdateRecordApply_keeps h
  | peerEntryRx => simp only [exec_peerEntryRx]; exact execPeerEntryRx_keeps h
  | peerHorizonRx => simp only [exec_peerHorizonRx]; exact execPeerHorizonRx_keeps h
  | peerRetireRx => simp only [exec_peerRetireRx]; exact execPeerRetireRx_keeps h
  | peerPinRx => simp only [exec_peerPinRx]; exact execPeerPinRx_keeps h
  | peerUnpinRx => simp only [exec_peerUnpinRx]; exact execPeerUnpinRx_keeps h
  | peerRecFetchRx => simp only [exec_peerRecFetchRx]; exact execPeerRecFetchRx_keeps h
  | peerRecDataRx => simp only [exec_peerRecDataRx]; exact execPeerRecDataRx_keeps h
  | jnlDefQRead => simp only [exec_jnlDefQRead]; exact execJnlDefQRead_keeps h
  | createVat => simp only [exec_createVat]; exact execCreateVat_keeps h
  | setVatOptions => simp only [exec_setVatOptions]; exact execSetVatOptions_keeps h
  | rekey => simp only [exec_rekey]; exact execRekey_keeps h
  | freeze => simp only [exec_freeze]; exact execFreeze_keeps h
  | deleteVat => simp only [exec_deleteVat]; exact execDeleteVat_keeps h
  | createVolume => simp only [exec_createVolume]; exact execCreateVolume_keeps h
  | resizeVolume => simp only [exec_resizeVolume]; exact execResizeVolume_keeps h
  | setProfile => simp only [exec_setProfile]; exact execSetProfile_keeps h
  | deleteVolume => simp only [exec_deleteVolume]; exact execDeleteVolume_keeps h
  | redyeResume => simp only [exec_redyeResume]; exact execRedyeResume_keeps h
  | snpCreateGroup => simp only [exec_snpCreateGroup]; exact execSnpCreateGroup_keeps h
  | snpDelete => simp only [exec_snpDelete]; exact execSnpDelete_keeps h
  | snpClone => simp only [exec_snpClone]; exact execSnpClone_keeps h
  | peerTableCmdRx => simp only [exec_peerTableCmdRx]; exact execPeerTableCmdRx_keeps h
  | peerTableAckRx => simp only [exec_peerTableAckRx]; exact execPeerTableAckRx_keeps h
  | tableCmdAckTimeout => simp only [exec_tableCmdAckTimeout]; exact execTableCmdAckTimeout_keeps h
  | tableCmdApply => simp only [exec_tableCmdApply]; exact execTableCmdApply_keeps h
  | peerTablesRx => simp only [exec_peerTablesRx]; exact execPeerTablesRx_keeps h
  | redyeSweepStep => simp only [exec_redyeSweepStep]; exact execRedyeSweepStep_keeps h
  | volumeRefRelease => simp only [exec_volumeRefRelease]; exact execVolumeRefRelease_keeps h
  | snapshotRefRelease => simp only [exec_snapshotRefRelease]; exact execSnapshotRefRelease_keeps h
  | ftlDirLoad => simp only [exec_ftlDirLoad]; exact execFtlDirLoad_keeps h
  | ftlDirLoadDone => simp only [exec_ftlDirLoadDone]; exact execFtlDirLoadDone_keeps h
  | pageWriteBack => simp only [exec_pageWriteBack]; exact execPageWriteBack_keeps h
  | checkpointWrite => simp only [exec_checkpointWrite]; exact execCheckpointWrite_keeps h
  | chunkRelease => simp only [exec_chunkRelease]; exact execChunkRelease_keeps h
  | relocationStart => simp only [exec_relocationStart]; exact execRelocationStart_keeps h
  | bandErase => simp only [exec_bandErase]; exact execBandErase_keeps h
  | scanRead => simp only [exec_scanRead]; exact execScanRead_keeps h
  | vaultDumpEnd => simp only [exec_vaultDumpEnd]; exact execVaultDumpEnd_keeps h
  | ftlRecover => simp only [exec_ftlRecover]; exact execFtlRecover_keeps h
  | liveCountRecompute => simp only [exec_liveCountRecompute]; exact execLiveCountRecompute_keeps h
  | mediaFlitRx => simp only [exec_mediaFlitRx]; exact execMediaFlitRx_keeps h
  | mediaNakRx => simp only [exec_mediaNakRx]; exact execMediaNakRx_keeps h
  | mediaReplayTimer => simp only [exec_mediaReplayTimer]; exact execMediaReplayTimer_keeps h
  | mdlLinkEnable => simp only [exec_mdlLinkEnable]; exact execMdlLinkEnable_keeps h
  | mdlLinkRetrain => simp only [exec_mdlLinkRetrain]; exact execMdlLinkRetrain_keeps h
  | mdlLinkDown => simp only [exec_mdlLinkDown]; exact execMdlLinkDown_keeps h
  | trainingBlockRx => simp only [exec_trainingBlockRx]; exact execTrainingBlockRx_keeps h
  | linkTrainTimeout => simp only [exec_linkTrainTimeout]; exact execLinkTrainTimeout_keeps h
  | linkRecoverTimeout => simp only [exec_linkRecoverTimeout]; exact execLinkRecoverTimeout_keeps h
  | brickCreditRx => simp only [exec_brickCreditRx]; exact execBrickCreditRx_keeps h
  | mediaOpTimeout => simp only [exec_mediaOpTimeout]; exact execMediaOpTimeout_keeps h
  | brickIdentRx => simp only [exec_brickIdentRx]; exact execBrickIdentRx_keeps h
  | brickOwnerRx => simp only [exec_brickOwnerRx]; exact execBrickOwnerRx_keeps h
  | identRetry => simp only [exec_identRetry]; exact execIdentRetry_keeps h
  | brickStatusRx => simp only [exec_brickStatusRx]; exact execBrickStatusRx_keeps h
  | brickReadDataRx => simp only [exec_brickReadDataRx]; exact execBrickReadDataRx_keeps h
  | brickEventRx => simp only [exec_brickEventRx]; exact execBrickEventRx_keeps h
  | sidebandAlert => simp only [exec_sidebandAlert]; exact execSidebandAlert_keeps h
  | sidebandPoll => simp only [exec_sidebandPoll]; exact execSidebandPoll_keeps h
  | brickAdopt => simp only [exec_brickAdopt]; exact execBrickAdopt_keeps h
  | brickRelease => simp only [exec_brickRelease]; exact execBrickRelease_keeps h
  | brickFail => simp only [exec_brickFail]; exact execBrickFail_keeps h
  | brickAttnOn => simp only [exec_brickAttnOn]; exact execBrickAttnOn_keeps h
  | brickAttnOff => simp only [exec_brickAttnOff]; exact execBrickAttnOff_keeps h
  | brickRefresh => simp only [exec_brickRefresh]; exact execBrickRefresh_keeps h
  | dfmLoad => simp only [exec_dfmLoad]; exact execDfmLoad_keeps h
  | dfmUnload => simp only [exec_dfmUnload]; exact execDfmUnload_keeps h
  | digestSubmit => simp only [exec_digestSubmit]; exact execDigestSubmit_keeps h
  | digestJobEnd => simp only [exec_digestJobEnd]; exact execDigestJobEnd_keeps h
  | digDoneQRead => simp only [exec_digDoneQRead]; exact execDigDoneQRead_keeps h
  | keyFetchDone => simp only [exec_keyFetchDone]; exact execKeyFetchDone_keeps h
  | keyHandleRemove => simp only [exec_keyHandleRemove]; exact execKeyHandleRemove_keeps h
  | sliceRngReseed => simp only [exec_sliceRngReseed]; exact execSliceRngReseed_keeps h
  | secHardenWrite => simp only [exec_secHardenWrite]; exact execSecHardenWrite_keeps h
  | portLinkChange => simp only [exec_portLinkChange]; exact execPortLinkChange_keeps h
  | hfiDetectStep => simp only [exec_hfiDetectStep]; exact execHfiDetectStep_keeps h
  | hfiFrameRx => simp only [exec_hfiFrameRx]; exact execHfiFrameRx_keeps h
  | pfcXoff => simp only [exec_pfcXoff]; exact execPfcXoff_keeps h
  | pfcRefresh => simp only [exec_pfcRefresh]; exact execPfcRefresh_keeps h
  | pfcXon => simp only [exec_pfcXon]; exact execPfcXon_keeps h
  | pfcFrameRx => simp only [exec_pfcFrameRx]; exact execPfcFrameRx_keeps h
  | pfcPauseExpire => simp only [exec_pfcPauseExpire]; exact execPfcPauseExpire_keeps h
  | tcpSynRx => simp only [exec_tcpSynRx]; exact execTcpSynRx_keeps h
  | tcpRetransmitTimeout => simp only [exec_tcpRetransmitTimeout]; exact execTcpRetransmitTimeout_keeps h
  | tcpTimeWaitExpire => simp only [exec_tcpTimeWaitExpire]; exact execTcpTimeWaitExpire_keeps h
  | nvtIcreqRx => simp only [exec_nvtIcreqRx]; exact execNvtIcreqRx_keeps h
  | nvtIcreqTimeout => simp only [exec_nvtIcreqTimeout]; exact execNvtIcreqTimeout_keeps h
  | nvmeConnectAdmin => simp only [exec_nvmeConnectAdmin]; exact execNvmeConnectAdmin_keeps h
  | nvmeConnectIo => simp only [exec_nvmeConnectIo]; exact execNvmeConnectIo_keeps h
  | nvtConnectQRead => simp only [exec_nvtConnectQRead]; exact execNvtConnectQRead_keeps h
  | nvtConnectAccept => simp only [exec_nvtConnectAccept]; exact execNvtConnectAccept_keeps h
  | nvtConnectRefuseHost => simp only [exec_nvtConnectRefuseHost]; exact execNvtConnectRefuseHost_keeps h
  | nvtConnectRefuseBusy => simp only [exec_nvtConnectRefuseBusy]; exact execNvtConnectRefuseBusy_keeps h
  | nvtConnectTimeout => simp only [exec_nvtConnectTimeout]; exact execNvtConnectTimeout_keeps h
  | keepAliveExpired => simp only [exec_keepAliveExpired]; exact execKeepAliveExpired_keeps h
  | nvtCtrlTeardown => simp only [exec_nvtCtrlTeardown]; exact execNvtCtrlTeardown_keeps h
  | nvtAttachChanged => simp only [exec_nvtAttachChanged]; exact execNvtAttachChanged_keeps h
  | nvmeIdentify => simp only [exec_nvmeIdentify]; exact execNvmeIdentify_keeps h
  | nvmeGetFeatures => simp only [exec_nvmeGetFeatures]; exact execNvmeGetFeatures_keeps h
  | nvmeSetFeatures => simp only [exec_nvmeSetFeatures]; exact execNvmeSetFeatures_keeps h
  | nvmeGetLogPage => simp only [exec_nvmeGetLogPage]; exact execNvmeGetLogPage_keeps h
  | nvmeDeviceSelfTest => simp only [exec_nvmeDeviceSelfTest]; exact execNvmeDeviceSelfTest_keeps h
  | nvmeAbort => simp only [exec_nvmeAbort]; exact execNvmeAbort_keeps h
  | nvmeKeepAlive => simp only [exec_nvmeKeepAlive]; exact execNvmeKeepAlive_keeps h
  | nvmeAsyncEventRequest => simp only [exec_nvmeAsyncEventRequest]; exact execNvmeAsyncEventRequest_keeps h
  | nvmePropertyGet => simp only [exec_nvmePropertyGet]; exact execNvmePropertyGet_keeps h
  | nvmePropertySet => simp only [exec_nvmePropertySet]; exact execNvmePropertySet_keeps h
  | nvmeDisconnect => simp only [exec_nvmeDisconnect]; exact execNvmeDisconnect_keeps h
  | nvmeRead => simp only [exec_nvmeRead]; exact execNvmeRead_keeps h
  | nvmeWrite => simp only [exec_nvmeWrite]; exact execNvmeWrite_keeps h
  | nvmeFlush => simp only [exec_nvmeFlush]; exact execNvmeFlush_keeps h
  | nvmeWriteZeroes => simp only [exec_nvmeWriteZeroes]; exact execNvmeWriteZeroes_keeps h
  | nvmeDatasetManagement => simp only [exec_nvmeDatasetManagement]; exact execNvmeDatasetManagement_keeps h
  | nvmeInvalidOpcode => simp only [exec_nvmeInvalidOpcode]; exact execNvmeInvalidOpcode_keeps h
  | nvtH2cDataRx => simp only [exec_nvtH2cDataRx]; exact execNvtH2cDataRx_keeps h
  | nvtH2cTermReqRx => simp only [exec_nvtH2cTermReqRx]; exact execNvtH2cTermReqRx_keeps h
  | selftestTimeout => simp only [exec_selftestTimeout]; exact execSelftestTimeout_keeps h
  | selftestSegment => simp only [exec_selftestSegment]; exact execSelftestSegment_keeps h
  | tcpSegmentRx => simp only [exec_tcpSegmentRx]; exact execTcpSegmentRx_keeps h
  | ldtHelloRx => simp only [exec_ldtHelloRx]; exact execLdtHelloRx_keeps h
  | ldtAcceptQRead => simp only [exec_ldtAcceptQRead]; exact execLdtAcceptQRead_keeps h
  | ldtAccept => simp only [exec_ldtAccept]; exact execLdtAccept_keeps h
  | ldtRefuse => simp only [exec_ldtRefuse]; exact execLdtRefuse_keeps h
  | ldtRefuseBusy => simp only [exec_ldtRefuseBusy]; exact execLdtRefuseBusy_keeps h
  | ldtAcceptTimeout => simp only [exec_ldtAcceptTimeout]; exact execLdtAcceptTimeout_keeps h
  | ldtHelloRespRx => simp only [exec_ldtHelloRespRx]; exact execLdtHelloRespRx_keeps h
  | ldtFinishRx => simp only [exec_ldtFinishRx]; exact execLdtFinishRx_keeps h
  | ldtSetupTimeout => simp only [exec_ldtSetupTimeout]; exact execLdtSetupTimeout_keeps h
  | ldtSendRx => simp only [exec_ldtSendRx]; exact execLdtSendRx_keeps h
  | ldtWriteRx => simp only [exec_ldtWriteRx]; exact execLdtWriteRx_keeps h
  | ldtReadReqRx => simp only [exec_ldtReadReqRx]; exact execLdtReadReqRx_keeps h
  | ldtReadRespRx => simp only [exec_ldtReadRespRx]; exact execLdtReadRespRx_keeps h
  | ldtAckRx => simp only [exec_ldtAckRx]; exact execLdtAckRx_keeps h
  | ldtCloseRx => simp only [exec_ldtCloseRx]; exact execLdtCloseRx_keeps h
  | ldtMsgFailRx => simp only [exec_ldtMsgFailRx]; exact execLdtMsgFailRx_keeps h
  | ldtKeepaliveRx => simp only [exec_ldtKeepaliveRx]; exact execLdtKeepaliveRx_keeps h
  | ldtConnClose => simp only [exec_ldtConnClose]; exact execLdtConnClose_keeps h
  | ldtConnRekey => simp only [exec_ldtConnRekey]; exact execLdtConnRekey_keeps h
  | ldtRekeyDue => simp only [exec_ldtRekeyDue]; exact execLdtRekeyDue_keeps h
  | ldtKeepaliveSend => simp only [exec_ldtKeepaliveSend]; exact execLdtKeepaliveSend_keeps h
  | ldtIdleTimeout => simp only [exec_ldtIdleTimeout]; exact execLdtIdleTimeout_keeps h
  | ldtAckDelayExpire => simp only [exec_ldtAckDelayExpire]; exact execLdtAckDelayExpire_keeps h
  | ldtRtoExpire => simp only [exec_ldtRtoExpire]; exact execLdtRtoExpire_keeps h
  | ldtMsgTimeout => simp only [exec_ldtMsgTimeout]; exact execLdtMsgTimeout_keeps h
  | ldtRxMsgTimeout => simp only [exec_ldtRxMsgTimeout]; exact execLdtRxMsgTimeout_keeps h
  | ldtRateIncrease => simp only [exec_ldtRateIncrease]; exact execLdtRateIncrease_keeps h
  | ldtPathReturn => simp only [exec_ldtPathReturn]; exact execLdtPathReturn_keeps h
  | ldtCtxFetchDone => simp only [exec_ldtCtxFetchDone]; exact execLdtCtxFetchDone_keeps h
  | lbcRead => simp only [exec_lbcRead]; exact execLbcRead_keeps h
  | lbcWrite => simp only [exec_lbcWrite]; exact execLbcWrite_keeps h
  | lbcWriteZeroes => simp only [exec_lbcWriteZeroes]; exact execLbcWriteZeroes_keeps h
  | lbcDeallocate => simp only [exec_lbcDeallocate]; exact execLbcDeallocate_keeps h
  | lbcFlush => simp only [exec_lbcFlush]; exact execLbcFlush_keeps h
  | lbcAbort => simp only [exec_lbcAbort]; exact execLbcAbort_keeps h
  | lbcGetHealth => simp only [exec_lbcGetHealth]; exact execLbcGetHealth_keeps h
  | lbcGetDeferred => simp only [exec_lbcGetDeferred]; exact execLbcGetDeferred_keeps h
  | lseModeReqService => simp only [exec_lseModeReqService]; exact execLseModeReqService_keeps h
  | handoverDrained => simp only [exec_handoverDrained]; exact execHandoverDrained_keeps h
  | lseModeReqServiceRelease => simp only [exec_lseModeReqServiceRelease]; exact execLseModeReqServiceRelease_keeps h
  | lseModeReqReboot => simp only [exec_lseModeReqReboot]; exact execLseModeReqReboot_keeps h
  | peerBundleActive => simp only [exec_peerBundleActive]; exact execPeerBundleActive_keeps h
  | peerFlitRx => simp only [exec_peerFlitRx]; exact execPeerFlitRx_keeps h
  | peerReplayTimer => simp only [exec_peerReplayTimer]; exact execPeerReplayTimer_keeps h
  | peerBundleLeaveActive => simp only [exec_peerBundleLeaveActive]; exact execPeerBundleLeaveActive_keeps h
  | peerHelloRx => simp only [exec_peerHelloRx]; exact execPeerHelloRx_keeps h
  | peerModeRx => simp only [exec_peerModeRx]; exact execPeerModeRx_keeps h
  | peerModeSend => simp only [exec_peerModeSend]; exact execPeerModeSend_keeps h
  | peerModeTimeout => simp only [exec_peerModeTimeout]; exact execPeerModeTimeout_keeps h
  | peerLossTimeout => simp only [exec_peerLossTimeout]; exact execPeerLossTimeout_keeps h
  | peerKeyWrapRx => simp only [exec_peerKeyWrapRx]; exact execPeerKeyWrapRx_keeps h
  | peerSyncDataRx => simp only [exec_peerSyncDataRx]; exact execPeerSyncDataRx_keeps h
  | peerHandoverRx => simp only [exec_peerHandoverRx]; exact execPeerHandoverRx_keeps h
  | peerMailboxRx => simp only [exec_peerMailboxRx]; exact execPeerMailboxRx_keeps h
  | peerRubRx => simp only [exec_peerRubRx]; exact execPeerRubRx_keeps h
  | leaseFencePoint => simp only [exec_leaseFencePoint]; exact execLeaseFencePoint_keeps h
  | leaseRenewDue => simp only [exec_leaseRenewDue]; exact execLeaseRenewDue_keeps h
  | witnessRetry => simp only [exec_witnessRetry]; exact execWitnessRetry_keeps h
  | witnessGrantRx => simp only [exec_witnessGrantRx]; exact execWitnessGrantRx_keeps h
  | witnessWaitRx => simp only [exec_witnessWaitRx]; exact execWitnessWaitRx_keeps h
  | witnessWaitExpire => simp only [exec_witnessWaitExpire]; exact execWitnessWaitExpire_keeps h
  | witnessDenyRx => simp only [exec_witnessDenyRx]; exact execWitnessDenyRx_keeps h
  | witnessStatusRx => simp only [exec_witnessStatusRx]; exact execWitnessStatusRx_keeps h
  | witnessReleasedRx => simp only [exec_witnessReleasedRx]; exact execWitnessReleasedRx_keeps h
  | witnessReportSend => simp only [exec_witnessReportSend]; exact execWitnessReportSend_keeps h
  | homeAcquire => simp only [exec_homeAcquire]; exact execHomeAcquire_keeps h
  | bootWaitExpire => simp only [exec_bootWaitExpire]; exact execBootWaitExpire_keeps h
  | fencedProbe => simp only [exec_fencedProbe]; exact execFencedProbe_keeps h
  | handbackRelease => simp only [exec_handbackRelease]; exact execHandbackRelease_keeps h
  | handbackTimeout => simp only [exec_handbackTimeout]; exact execHandbackTimeout_keeps h
  | rubTest => simp only [exec_rubTest]; exact execRubTest_keeps h
  | rubProbeEnd => simp only [exec_rubProbeEnd]; exact execRubProbeEnd_keeps h
  | lseWitRxWrite => simp only [exec_lseWitRxWrite]; exact execLseWitRxWrite_keeps h
  | lseWitTxRead => simp only [exec_lseWitTxRead]; exact execLseWitTxRead_keeps h
  | peerLinkEnable => simp only [exec_peerLinkEnable]; exact execPeerLinkEnable_keeps h
  | peerBundleRetrain => simp only [exec_peerBundleRetrain]; exact execPeerBundleRetrain_keeps h
  | lbcFetch => simp only [exec_lbcFetch]; exact execLbcFetch_keeps h
  | lbcRepPoll => simp only [exec_lbcRepPoll]; exact execLbcRepPoll_keeps h
  | lbcRepRecipe => simp only [exec_lbcRepRecipe]; exact execLbcRepRecipe_keeps h
  | lbcRepChunks => simp only [exec_lbcRepChunks]; exact execLbcRepChunks_keeps h
  | lbcRepDone => simp only [exec_lbcRepDone]; exact execLbcRepDone_keeps h
  | fabHelloSend => simp only [exec_fabHelloSend]; exact execFabHelloSend_keeps h
  | fabHelloRx => simp only [exec_fabHelloRx]; exact execFabHelloRx_keeps h
  | fabLeaveRx => simp only [exec_fabLeaveRx]; exact execFabLeaveRx_keeps h
  | fabMemberMiss => simp only [exec_fabMemberMiss]; exact execFabMemberMiss_keeps h
  | fabPlaceHoldExpire => simp only [exec_fabPlaceHoldExpire]; exact execFabPlaceHoldExpire_keeps h
  | fabPlaceSwap => simp only [exec_fabPlaceSwap]; exact execFabPlaceSwap_keeps h
  | fabFetchTimeout => simp only [exec_fabFetchTimeout]; exact execFabFetchTimeout_keeps h
  | repLinkLoad => simp only [exec_repLinkLoad]; exact execRepLinkLoad_keeps h
  | repLinkStop => simp only [exec_repLinkStop]; exact execRepLinkStop_keeps h
  | repLinkOffer => simp only [exec_repLinkOffer]; exact execRepLinkOffer_keeps h
  | repLinkResync => simp only [exec_repLinkResync]; exact execRepLinkResync_keeps h
  | repPollDue => simp only [exec_repPollDue]; exact execRepPollDue_keeps h
  | repSyncTimeout => simp only [exec_repSyncTimeout]; exact execRepSyncTimeout_keeps h
  | msrExtend => simp only [exec_msrExtend]; exact execMsrExtend_keeps h
  | msrLock => simp only [exec_msrLock]; exact execMsrLock_keeps h
  | installVatKey => simp only [exec_installVatKey]; exact execInstallVatKey_keeps h
  | removeVatKey => simp only [exec_removeVatKey]; exact execRemoveVatKey_keeps h
  | installSlot => simp only [exec_installSlot]; exact execInstallSlot_keeps h
  | importKek => simp only [exec_importKek]; exact execImportKek_keeps h
  | removeSlot => simp only [exec_removeSlot]; exact execRemoveSlot_keeps h
  | saltExport => simp only [exec_saltExport]; exact execSaltExport_keeps h
  | saltImport => simp only [exec_saltImport]; exact execSaltImport_keeps h
  | installFabricSalt => simp only [exec_installFabricSalt]; exact execInstallFabricSalt_keeps h
  | setPairKey => simp only [exec_setPairKey]; exact execSetPairKey_keeps h
  | quote => simp only [exec_quote]; exact execQuote_keeps h
  | identity => simp only [exec_identity]; exact execIdentity_keeps h
  | random => simp only [exec_random]; exact execRandom_keeps h
  | hmac => simp only [exec_hmac]; exact execHmac_keeps h
  | entropyStartupTest => simp only [exec_entropyStartupTest]; exact execEntropyStartupTest_keeps h
  | entropyTestFail => simp only [exec_entropyTestFail]; exact execEntropyTestFail_keeps h
  | entropyRecovered => simp only [exec_entropyRecovered]; exact execEntropyRecovered_keeps h
  | drbgReseed => simp only [exec_drbgReseed]; exact execDrbgReseed_keeps h
  | fuseSvnD => exact absurd (show true = false from hc) Bool.noConfusion
  | fuseSvnI => exact absurd (show true = false from hc) Bool.noConfusion
  | fuseRootI => exact absurd (show true = false from hc) Bool.noConfusion
  | fuseDebugDisable => exact absurd (show true = false from hc) Bool.noConfusion
  | fuseDebugRoot => exact absurd (show true = false from hc) Bool.noConfusion
  | mbxPost => simp only [exec_mbxPost]; exact execMbxPost_keeps h
  | mbxTake => simp only [exec_mbxTake]; exact execMbxTake_keeps h
  | mbxStatWrite => simp only [exec_mbxStatWrite]; exact execMbxStatWrite_keeps h
  | mbxBindWrite => simp only [exec_mbxBindWrite]; exact execMbxBindWrite_keeps h
  | mbxBindLock => simp only [exec_mbxBindLock]; exact execMbxBindLock_keeps h
  | mbxLockRead => simp only [exec_mbxLockRead]; exact execMbxLockRead_keeps h
  | mbxUnlock => simp only [exec_mbxUnlock]; exact execMbxUnlock_keeps h
  | bootLoaderVerify => simp only [exec_bootLoaderVerify]; exact execBootLoaderVerify_keeps h
  | bootLoaderTimeout => simp only [exec_bootLoaderTimeout]; exact execBootLoaderTimeout_keeps h
  | bundleCheck => simp only [exec_bundleCheck]; exact execBundleCheck_keeps h
  | firmwareStart => simp only [exec_firmwareStart]; exact execFirmwareStart_keeps h
  | settingsMigrate => simp only [exec_settingsMigrate]; exact execSettingsMigrate_keeps h
  | hbmTrain => simp only [exec_hbmTrain]; exact execHbmTrain_keeps h
  | updBegin => simp only [exec_updBegin]; exact execUpdBegin_keeps h
  | updBlocks => simp only [exec_updBlocks]; exact execUpdBlocks_keeps h
  | updVerify => simp only [exec_updVerify]; exact execUpdVerify_keeps h
  | updSchedule => simp only [exec_updSchedule]; exact execUpdSchedule_keeps h
  | updCancel => simp only [exec_updCancel]; exact execUpdCancel_keeps h
  | updConfirm => simp only [exec_updConfirm]; exact execUpdConfirm_keeps h
  | updStatus => simp only [exec_updStatus]; exact execUpdStatus_keeps h
  | updSettings => simp only [exec_updSettings]; exact execUpdSettings_keeps h
  | updFuse => simp only [exec_updFuse]; exact execUpdFuse_keeps h
  | updActivateCheck => simp only [exec_updActivateCheck]; exact execUpdActivateCheck_keeps h
  | updActivateExpired => simp only [exec_updActivateExpired]; exact execUpdActivateExpired_keeps h
  | updTrialTimeout => simp only [exec_updTrialTimeout]; exact execUpdTrialTimeout_keeps h
  | kslChallengeReq => simp only [exec_kslChallengeReq]; exact execKslChallengeReq_keeps h
  | kslAuth => simp only [exec_kslAuth]; exact execKslAuth_keeps h
  | kslReq => simp only [exec_kslReq]; exact execKslReq_keeps h
  | kslData => simp only [exec_kslData]; exact execKslData_keeps h
  | kslLoader => simp only [exec_kslLoader]; exact execKslLoader_keeps h
  | kslSessionTimeout => simp only [exec_kslSessionTimeout]; exact execKslSessionTimeout_keeps h
  | kslRead => simp only [exec_kslRead]; exact execKslRead_keeps h
  | pwrDomSetState => simp only [exec_pwrDomSetState]; exact execPwrDomSetState_keeps h
  | pwrDomResetCores => simp only [exec_pwrDomResetCores]; exact execPwrDomResetCores_keeps h
  | pwrEntryQuiesced => simp only [exec_pwrEntryQuiesced]; exact execPwrEntryQuiesced_keeps h
  | pwrQuiesceTimeout => simp only [exec_pwrQuiesceTimeout]; exact execPwrQuiesceTimeout_keeps h
  | pwrExitDone => simp only [exec_pwrExitDone]; exact execPwrExitDone_keeps h
  | autoIdleEnter => simp only [exec_autoIdleEnter]; exact execAutoIdleEnter_keeps h
  | autoIdleExit => simp only [exec_autoIdleExit]; exact execAutoIdleExit_keeps h
  | wakeSourceAssert => simp only [exec_wakeSourceAssert]; exact execWakeSourceAssert_keeps h
  | dozeRequest => simp only [exec_dozeRequest]; exact execDozeRequest_keeps h
  | dozeWake => simp only [exec_dozeWake]; exact execDozeWake_keeps h
  | dozeExitDone => simp only [exec_dozeExitDone]; exact execDozeExitDone_keeps h
  | dozeExitSlow => simp only [exec_dozeExitSlow]; exact execDozeExitSlow_keeps h
  | pllUnlock => simp only [exec_pllUnlock]; exact execPllUnlock_keeps h
  | clkRefLoss => simp only [exec_clkRefLoss]; exact execClkRefLoss_keeps h
  | clkRefReturn => simp only [exec_clkRefReturn]; exact execClkRefReturn_keeps h
  | pfailRecognised => simp only [exec_pfailRecognised]; exact execPfailRecognised_keeps h
  | aonSrstReq => simp only [exec_aonSrstReq]; exact execAonSrstReq_keeps h
  | fatalResetTimer => simp only [exec_fatalResetTimer]; exact execFatalResetTimer_keeps h
  | erqInject => simp only [exec_erqInject]; exact execErqInject_keeps h
  | memoryEccError => simp only [exec_memoryEccError]; exact execMemoryEccError_keeps h
  | evrEpochEnd => simp only [exec_evrEpochEnd]; exact execEvrEpochEnd_keeps h
  | evrSample => simp only [exec_evrSample]; exact execEvrSample_keeps h
  | evrCursorWrite => simp only [exec_evrCursorWrite]; exact execEvrCursorWrite_keeps h
  | evrWindowLoaded => simp only [exec_evrWindowLoaded]; exact execEvrWindowLoaded_keeps h
  | evrWinRead => simp only [exec_evrWinRead]; exact execEvrWinRead_keeps h
  | evrClrChalRead => simp only [exec_evrClrChalRead]; exact execEvrClrChalRead_keeps h
  | evrClrReq => simp only [exec_evrClrReq]; exact execEvrClrReq_keeps h
  | evrSecClear => simp only [exec_evrSecClear]; exact execEvrSecClear_keeps h
  | ageSample => simp only [exec_ageSample]; exact execAgeSample_keeps h
  | thermalWarning => simp only [exec_thermalWarning]; exact execThermalWarning_keeps h
  | thermalWarningClear => simp only [exec_thermalWarningClear]; exact execThermalWarningClear_keeps h
  | thermalShutdown => simp only [exec_thermalShutdown]; exact execThermalShutdown_keeps h
  | thermalTrip => simp only [exec_thermalTrip]; exact execThermalTrip_keeps h
  | idcode => simp only [exec_idcode]; exact execIdcode_keeps h
  | samplePreload => simp only [exec_samplePreload]; exact execSamplePreload_keeps h
  | extest => simp only [exec_extest]; exact execExtest_keeps h
  | extestPulse => simp only [exec_extestPulse]; exact execExtestPulse_keeps h
  | extestTrain => simp only [exec_extestTrain]; exact execExtestTrain_keeps h
  | clamp => simp only [exec_clamp]; exact execClamp_keeps h
  | highz => simp only [exec_highz]; exact execHighz_keeps h
  | bypass => simp only [exec_bypass]; exact execBypass_keeps h
  | tapReset => simp only [exec_tapReset]; exact execTapReset_keeps h
  | dbgChal => simp only [exec_dbgChal]; exact execDbgChal_keeps h
  | dbgToken => simp only [exec_dbgToken]; exact execDbgToken_keeps h
  | dbgStat => simp only [exec_dbgStat]; exact execDbgStat_keeps h
  | dbgMem => exact absurd (show true = false from hc) Bool.noConfusion
  | tstRun => simp only [exec_tstRun]; exact execTstRun_keeps h
  | tstStop => simp only [exec_tstStop]; exact execTstStop_keeps h
  | tstClear => simp only [exec_tstClear]; exact execTstClear_keeps h
  | tstEyeScan => simp only [exec_tstEyeScan]; exact execTstEyeScan_keeps h
  | tstEyeDone => simp only [exec_tstEyeDone]; exact execTstEyeDone_keeps h
  | tstCheckerLock => simp only [exec_tstCheckerLock]; exact execTstCheckerLock_keeps h
  | tstLockLoss => simp only [exec_tstLockLoss]; exact execTstLockLoss_keeps h
  | porstNAssert => simp only [exec_porstNAssert]; exact execPorstNAssert_keeps h
  | porstNRelease => exact absurd (show true = false from hc) Bool.noConfusion
  | srstNAssert => simp only [exec_srstNAssert]; exact execSrstNAssert_keeps h
  | srstNRelease => exact absurd (show true = false from hc) Bool.noConfusion
  | internalReset => exact absurd (show true = false from hc) Bool.noConfusion
  | supplyLoss => simp only [exec_supplyLoss]; exact execSupplyLoss_keeps h

end Sys2Proof.Machine
end

