-- ==== Sys2Proof/Laws/Reg.lean ====
section
/-! SUPPORT. Register fields: what is read after a write, and what a control-window access does that R716 lets through. -/

namespace Sys2Proof.Machine

/-- A written field reads as what was written, within its width. -/
@[simp] theorem State.get_set_same (s : State) (f : Fld) (v : Nat) : (s.set f v).get f = v % 2 ^ f.w := by
  simp [State.get, AL.getD]

/-- A field elsewhere keeps its value. -/
theorem State.get_set_ne (s : State) {f g : Fld} (h : g.key ≠ f.key) (v : Nat) : (s.set f v).get g = s.get g := by
  simp [State.get, AL.getD, AL.get_put_ne h]

/-- A field after a write of any field. -/
theorem State.get_set (s : State) (f g : Fld) (v : Nat) : (s.set f v).get g = if g.key = f.key then v % 2 ^ f.w else s.get g := by
  split
  · rename_i h; simp [State.get, AL.getD, h]
  · rename_i h; exact s.get_set_ne h v

/-- The value of a saturating counter after it counts. -/
theorem State.get_satInc (s : State) (f : Fld) (n : Nat) : (s.satInc f n).get f = satAdd f.w (s.get f) n % 2 ^ f.w := s.get_set_same ..

/-- The value of a 64-bit counter after it counts. -/
theorem State.get_bump (s : State) (f : Fld) (n : Nat) : (s.bump f n).get f = (s.get f + n) % 2 ^ f.w := s.get_set_same ..

/-- An access that R716 lets through has its effect. -/
theorem State.busWr_done {s : State} {m slot off : Nat} (h : s.judge m slot off true true = none) (f : State → State) :
    s.busWr m slot off f = f s := by
  simp [State.busWr, h]

/-- A read that R716 lets through has its effect. -/
theorem State.busRd_done {s : State} {m slot off : Nat} (h : s.judge m slot off true false = none) (f : State → State) :
    s.busRd m slot off f = f s := by
  simp [State.busRd, h]

/-- An access that R716 does not let through leaves what the judging leaves. -/
theorem State.busWr_refused {s t : State} {m slot off : Nat} (h : s.judge m slot off true true = some t) (f : State → State) :
    s.busWr m slot off f = t := by
  simp [State.busWr, h]

end Sys2Proof.Machine
end

