-- ==== Sys2Proof/Laws/Turn.lean ====
section
/-! SUPPORT. What the shared runs of request queues do when it is a request's turn. -/

namespace Sys2Proof.Machine

/-- On its turn a request is first in the queue, and nothing before it is invalid. -/
theorem State.keyTurn_first {s : State} {op a : Nat} (h : s.KeyTurn op a) (h1 : 1 ≤ op) (h2 : op ≤ 13) :
    s.keyInvalid s.mbx.keyQ.length = s ∧ ∃ c t, s.mbx.keyQ = (c, a) :: t := by
  obtain ⟨e1, e2, -⟩ := h
  cases hq : s.mbx.keyQ with
  | nil => rw [hq] at e1; cases e1
  | cons q t =>
    obtain ⟨c, b⟩ := q
    rw [hq] at e1
    obtain rfl : b = a := Option.some.inj e1
    refine ⟨?_, c, t, rfl⟩
    rw [List.length_cons]
    unfold State.keyInvalid
    rw [hq]
    dsimp only
    rw [if_neg (by omega)]

/-- An operation that names no wrapping slot uses none. -/
@[simp] theorem State.kekUsed_none {s : State} {a op c : Nat} (h : kekWord op = none) : s.kekUsed a op c = s := by
  unfold State.kekUsed
  rw [h]

/-- A key-service row whose turn it is runs its operation and ends the request with the condition it gives. -/
theorem State.keyRun_turn {s : State} {op a : Nat} (h : s.KeyTurn op a) (h1 : 1 ≤ op) (h2 : op ≤ 13) (f : State → Nat → Nat × State) :
    s.keyRun op f = if (f s a).1 = 0 then ((f s a).2.kekUsed a op 0).keyEnd 0 else (s.kekUsed a op (f s a).1).keyEnd (f s a).1 := by
  obtain ⟨e5, c, t, hq⟩ := State.keyTurn_first h h1 h2
  obtain ⟨-, e2, e3, e4⟩ := h
  unfold State.keyRun
  rw [e5]
  dsimp only
  rw [hq, e3]
  dsimp only
  rw [if_neg (by simp [e2]), if_neg e4]

/-- A connection that takes commands counts one and runs it. -/
theorem State.nvmeTake_turn {s : State} {c k : Nat} {x : TcpConn} {y : Ctrl} (h : s.NvmeTurn c k x y) (vol : Nat)
    (f : State → Nat → TcpConn → Ctrl → State) : s.nvmeTake c vol f = f (s.nvmeCounted c k vol) k x y := by
  obtain ⟨h1, h2, h3, h4, h5, h6, h7, h8, h9⟩ := h
  have e : ¬ (x.tcp ≠ 2 ∨ (!(x.nvt == 3 || x.nvt == 4)) = true ∨ y.st ≠ 2 ∨ s.admFull = true ∨ (!s.hfiLive) = true ∨
      (s.unit (unitKey Blk.NVT (connUnit c))).quiesce = true) := by
    rcases h5 with h5 | h5 <;> simp [h4, h5, h6, h7, h8, h9]
  unfold State.nvmeTake
  rw [h1, h2]
  dsimp only
  rw [h3]
  dsimp only
  rw [if_neg e]
  rfl

/-- An admin command of an I/O controller, or one that a discovery controller takes, runs. -/
theorem State.nvmeAdmin_turn {s u : State} {c flags k : Nat} {x : TcpConn} {y : Ctrl} (h : s.AdminTurn c flags k x y u) (cid : Nat)
    {disc : Bool} (hd : y.disc = false ∨ disc = true) (f : State → Nat → Ctrl → State) : s.nvmeAdmin c cid flags disc f = f u k y := by
  obtain ⟨h1, h2, h3, rfl⟩ := h
  have e : ¬ (x.nvt ≠ 3 ∨ (y.disc = true ∧ (!disc) = true)) := by
    rcases hd with hd | hd <;> simp [h2, hd]
  unfold State.nvmeAdmin
  rw [State.nvmeTake_turn h1]
  dsimp only
  rw [if_neg e, if_neg (show ¬ (!flagsOk flags) = true by simp [h3])]

/-- An I/O command that is taken becomes its request and runs. -/
theorem State.nvmeIo_turn {s v : State} {c cid flags k t : Nat} {x : TcpConn} {y : Ctrl} {r q : Req}
    (h : s.IoTurn c cid flags k x y r q t v) {limit : Nat} (hl : limit = 0) (f : State → Nat → Req → State) :
    s.nvmeIo c cid flags limit r f = f v t q := by
  obtain ⟨h1, h2, h3, h4, h5, h6, h7, h8⟩ := h
  subst h4
  unfold State.nvmeIo
  rw [State.nvmeTake_turn h1]
  dsimp only
  rw [← h5]
  dsimp only
  rw [if_neg (show ¬ x.nvt ≠ 4 by simp [h2]), if_neg (show ¬ (!flagsOk flags) = true by simp [h3]), if_neg (show ¬ limit ≠ 0 by simp [hl]),
    if_neg (show ¬ ((!y.attach.contains r.vol || (v.liveVol r.vol).isNone) = true) by
      cases hv : v.liveVol r.vol with
      | none => rw [hv] at h7; cases h7
      | some _ => rw [h6]; simp), h8]

/-- Giving a packet to a slice leaves the connections as they are. -/
@[simp] theorem State.ldtReceive_lconn (s : State) (n k : Nat) : (s.ldtReceive n).2.lconn k = s.lconn k := by
  unfold State.lconn
  suffices h : (s.ldtReceive n).2.ldt = s.ldt by rw [h]
  unfold State.ldtReceive State.free State.segCharge State.slotShow State.modSlice State.poolTake State.bump
  dsimp only
  split <;> simp [State.setAll]

/-- Statistics leave the connections as they are. -/
@[simp] theorem State.lsts_ldt (s : State) (n path : Nat) (f : Nat → Nat → Fld) (k : Nat) : (s.lsts n path f k).ldt = s.ldt := by
  unfold State.lsts
  generalize (List.range 5).filter _ = l
  induction l generalizing s with
  | nil => rfl
  | cons p l ih => rw [List.foldl_cons, ih]; exact State.set_ldt _ _ _

/-- A connection that is heard is still there. -/
theorem State.ldtHeard_lconn {s : State} {n : Nat} {x y : LdtConn} (h : LdtHdr) (e : s.lconn n = some y) :
    ((s.ldtHeard n x h).lconn n).isSome = true := by
  rw [← State.ldtReceive_lconn s h.plen] at e
  unfold State.ldtHeard
  dsimp only
  split <;> simp [State.lconn, State.modPath, State.modLconn] <;> simp_all [State.lconn]

/-- A packet that is taken is heard, has its effect, and what may leave then leaves. -/
theorem State.ldtIn_turn {s v : State} {u n : Nat} {p : LdtIn} {x z : LdtConn} (h : s.LdtTurn u p.hdr n x)
    (hv : v = s.ldtHeard n x p.hdr) (hz : v.lconn n = some z) :
    s.ldtIn u p = (if p.kind = 5 then v.ackPacket n z p else v.dataPacket n z p).ldtGo n := by
  obtain ⟨h1, h2, h3, h4, h5, h6, h7, h8, h9, h10⟩ := h
  have e : (p.hdr.kgen % 256 == (x.kgen + 1) % 256) = false := by
    apply beq_eq_false_iff_ne.mpr; omega
  subst hv
  unfold State.ldtHeard at hz ⊢
  dsimp only at hz ⊢
  unfold State.ldtIn State.ldtPacket
  dsimp only
  rw [if_neg (by simp [h1]), if_neg (by simp [h2]), h3]
  dsimp only
  rw [if_neg (by simp [h5, h10]), if_pos ⟨h6, h7⟩, State.ldtReceive_lconn, h4]
  dsimp only
  rw [e, if_neg (by simp [h8, h9]), if_neg (by decide : ¬ false = true), if_neg (by decide : ¬ false = true), hz]

/-- A capsule whose turn it is runs its command. -/
theorem State.lbcTake_turn {s u : State} {n opc d : Nat} {x : LdtConn} {rest : List (Nat × Nat)} (h : s.LbcTurn n opc x d rest u)
    (f : State → LdtConn → Nat → State) : s.lbcTake n opc f = f u x d := by
  obtain ⟨h1, h2, h3, h4, h5, h6, h7, h8, h9, rfl⟩ := h
  unfold State.lbcTake
  rw [h1]
  dsimp only
  rw [h2]
  dsimp only
  rw [if_neg (show ¬ _ by simp [h3, h4, h5, h6, h7, h8, h9]), if_neg (show ¬ _ by simp [h3, h4])]

/-- A valid capsule's request goes on to its own checks. -/
theorem State.lbcIn_turn {s v : State} {r : Req} {valid named : Bool} {t : Nat} (h : s.LbcIn r named t v) (hv : valid = true)
    (f : State → Nat → Req → State) : s.lbcIn r valid named f = f v t r := by
  obtain ⟨h1, h2⟩ := h
  unfold State.lbcIn
  rw [← h1]
  dsimp only
  subst hv
  cases named with
  | false => simp
  | true => obtain ⟨h3, h4⟩ := h2 rfl; simp [h3, h4]

/-- A replication capsule whose turn it is, with a valid form, runs its command on its link. -/
theorem State.repIn_turn {s u v : State} {n opc d t k : Nat} {x : LdtConn} {rest : List (Nat × Nat)} {kind : ReqKind} {r : Req}
    {l : RepLink} (h : s.RepTurn n opc x d rest u kind r t v k l) {valid : Nat → Bool} (hv : valid d = true)
    (f : State → LdtConn → Nat → Nat → Req → Nat → RepLink → State) : s.repIn n opc valid kind f = f v x d t r k l := by
  obtain ⟨h1, rfl, h3, h4, h5, h6, h7⟩ := h
  unfold State.repIn
  rw [State.lbcTake_turn h1]
  dsimp only
  rw [← h3]
  dsimp only
  rw [if_neg (show ¬ _ by simp [h4, h5, hv]), if_neg (show ¬ _ by simp [h6]), h7]

/-- A request of the update service whose turn it is runs. -/
theorem State.updRun_turn {s : State} {op c a : Nat} (h : s.UpdTurn op c a) (h1 : 1 ≤ op) (h2 : op ≤ 9)
    (f : State → Nat → Nat → Nat → Option (Nat × List Nat × State)) :
    s.updRun op f = match f s c a (if c = 129 then 2 else 1) with
      | none => s
      | some (cond, words, t) => t.updEnd cond words := by
  obtain ⟨e1, e2⟩ := h
  cases hq : s.mbx.updQ with
  | nil => rw [hq] at e1; cases e1
  | cons q t =>
    rw [hq] at e1
    obtain rfl : q = (c, a) := Option.some.inj e1
    have e : s.updInvalid s.mbx.updQ.length = s := by
      rw [hq, List.length_cons]
      unfold State.updInvalid
      rw [hq]
      dsimp only
      rw [if_neg (by omega)]
    unfold State.updRun
    rw [e]
    dsimp only
    rw [hq]
    dsimp only
    rw [if_neg (by simp [e2])]
    all_goals (rcases f s c a (if c = 129 then 2 else 1) with _ | ⟨_, _, _⟩ <;> rfl)

/-- A whole frame of a type is handled where its trailer verifies, and else counted as bad. -/
theorem State.kslRx_turn {s : State} {frame : List Nat} {typ len session : Nat} (h : s.KslFrame frame typ len session)
    (f : State → Nat → Bool → List Nat → State) :
    s.kslRx frame typ f =
      if s.kslHeard.kslTrailerOk (frame.take (16 + len)) (frame.drop (16 + len)) session = true
      then f (s.kslHeard.kslSound session) (bytesNat frame 4 4) (session != 0) ((frame.take (16 + len)).drop 16)
      else s.kslHeard.bump F.SVC_CNT_BAD_COUNT := by
  obtain ⟨e1, e2, e3, e4, e5, e6, e7, e8, e9⟩ := h
  unfold State.kslRx
  dsimp only
  have e0 : s.svcWakes = false := by
    unfold State.svcUp at e1
    cases hw : s.svcWakes with
    | false => rfl
    | true => rw [hw] at e1; simp at e1
  rw [if_neg (by simp [e0]), if_neg (fun h => h.elim (fun h => by simp [e1] at h) (fun h => h e2)), e6, e7]
  have e : (frame.take (16 + len)).length = 16 + len := by rw [List.length_take]; omega
  simp only [e3, e4, e5, e8, e, true_and]
  rfl

end Sys2Proof.Machine
end

