-- ==== Sys2Proof/Tests/Slice0.lean ====
section
/-! SUPPORT. Tests: well-formedness refuses an ill-formed term for each check; every statement with hypotheses has a
state and operands that meet them together; and a few single steps with values from the spec. -/

set_option linter.all false
set_option Elab.async false
set_option maxRecDepth 100000

namespace Sys2Proof.Machine

/-- A state with one request. -/
def Wit.withReq (r : Req) : State := { State.reset with adm := { reqs := [(r.tag, r)] } }


/-- A state with a request of the key service whose block stands at address 0: its operation and further words. -/
def Wit.keyReq (op : Nat) (ws : List (Nat × Nat)) : State :=
  ws.foldl (fun s q => s.wrLE (8 * q.1) 8 q.2) (({ mbx := { keyQ := [(0, 0)] } } : State).wrLE 0 8 (op * 2 ^ 56))

/-- A state with a request of the update service whose block stands at address 0: its operation and further words. -/
def Wit.updReq (op : Nat) (ws : List (Nat × Nat)) : State :=
  ws.foldl (fun s q => s.wrLE (8 * q.1) 8 q.2) (({ mbx := { updQ := [(0, 0)] } } : State).wrLE 0 8 (op * 2 ^ 56))

/-- A frame of the service link outside a session, of `SEQ` 5, with a trailer of zeros. -/
def Wit.kslFrame (typ : Nat) (payload : List Nat) : List Nat :=
  [0x4B, 0x53, 1, typ] ++ leNat 4 5 ++ leNat 2 payload.length ++ [0, 0] ++ leNat 4 0 ++ payload ++ [0, 0, 0, 0]

/-- The same frame with its CRC-32C, so that its trailer verifies. -/
def Wit.soundFrame (typ : Nat) (payload : List Nat) : List Nat :=
  (Wit.kslFrame typ payload).take (16 + payload.length) ++ leNat 4 (crc32c ((Wit.kslFrame typ payload).take (16 + payload.length)))

/-- A state whose connection 0 takes commands: of its admin queue (3) or an I/O queue (4) of controller 0. -/
def Wit.nvme (nvt : Nat) (y : Ctrl) : State :=
  ({ host := { conns := [(0, { tcp := 2, nvt := nvt, cntlid := 0x1000 })], ctrls := [(0, y)] } } : State).set F.LSE_MODE_MODE 4

/-- A state whose LDT, LBC, REP and FAB units serve, in SOLO, with one connection: 0. -/
def Wit.ldt (x : LdtConn) : State :=
  ({ units := [(unitKey Blk.LDT 0, { enable := true }), (unitKey Blk.LBC 0, { enable := true }), (unitKey Blk.REP 0, { enable := true })]
     ldt := { conns := [(0, x)] }, vat := { vats := [(0, { state := 1 })], vols := [(0, { vat := 0, sizeM1 := 9 })] }
     host := { ifaces := [(0, {})] } } : State).setAll [(F.LSE_MODE_MODE, 4), (F.LDT_LISTEN_EN 0 0, 1)]

/-- An established connection of the other end's making. -/
def Wit.est : LdtConn := { state := 3, resident := true, paths := 1, seg := 2 }

/-- The same in a fabric of which head 5, at address 7, is a live member. -/
def Wit.fab (x : LdtConn) : State :=
  ({ Wit.ldt x with units := (unitKey Blk.FAB 0, { enable := true }) :: (Wit.ldt x).units,
                    fab := { members := [(5, { st := 2, v4 := some 7 })] } } : State).set F.FAB_STAT_STATE 1

/-- A capsule of an opcode, with further words. -/
def Wit.cap (opc : Nat) (ws : List (Nat × Nat)) : Nat := ws.foldl (fun d q => d + q.2 * 2 ^ (64 * q.1)) (opc * 2 ^ 56)

/-- The bytes of a frame of the witness before its `MAC`. -/
def Wit.witHead (typ : Nat) (body : List Nat) : List Nat := [0xA5, 0x5A, 1, typ] ++ leNat 2 body.length ++ leNat 18 0 ++ body

/-- The frame with its `MAC` under the key 7. -/
def Wit.witFrame (typ : Nat) (body : List Nat) : List Nat := Wit.witHead typ body ++ macBytes 7 (Wit.witHead typ body)

/-- A state whose witness key is 7, with the serial link enabled. -/
def Wit.lease : State := ({ sec := { handles := [(hSlot 0, { use := 4, value := 7 })] } } : State).set F.LSE_WIT_CFG_SERIAL_EN 1

/-- The same once its key has been used. -/
def Wit.leaseUsed : State := Wit.lease.keyUsed (hSlot 0)

/-- A frame whose `MAC` is right is heard. -/
theorem Wit.heard (typ : Nat) (body : List Nat)
    (h : ¬ ((Wit.witFrame typ body).take 3 ≠ [0xA5, 0x5A, 1] ∨ (Wit.witFrame typ body).length ≠ 56 + bytesNat (Wit.witFrame typ body) 4 2 ∨
      !witLen ((Wit.witFrame typ body).getD 3 0) (bytesNat (Wit.witFrame typ body) 4 2)))
    (h2 : ((Wit.witFrame typ body).take (24 + bytesNat (Wit.witFrame typ body) 4 2)).length = (Wit.witHead typ body).length ∧
      24 + bytesNat (Wit.witFrame typ body) 4 2 = (Wit.witHead typ body).length ∧ (Wit.witFrame typ body).getD 3 0 = typ ∧
      bytesNat (Wit.witFrame typ body) 6 2 = 0 ∧ bytesNat (Wit.witFrame typ body) 8 8 = 0 ∧ bytesNat (Wit.witFrame typ body) 16 8 = 0 ∧
      ((Wit.witHead typ body).drop 24) = body) :
    Wit.lease.WitHeard (Wit.witFrame typ body) typ ⟨typ, 0, 0, 0, body⟩ Wit.leaseUsed := by
  obtain ⟨-, h3, h4, h5, h6, h7, h8⟩ := h2
  refine ⟨by decide, ?_, rfl⟩
  have e : Wit.lease.slotFor (Wit.lease.get F.LSE_WIT_CFG_KEY_SLOT) 2 = (some 7, Wit.leaseUsed) := rfl
  unfold State.witParse
  dsimp only
  rw [if_neg h, e]
  dsimp only
  rw [h3, h4, h5, h6, h7]
  have e1 : (Wit.witFrame typ body).drop (Wit.witHead typ body).length = macBytes 7 (Wit.witHead typ body) := by
    simp [Wit.witFrame]
  have e2 : (Wit.witFrame typ body).take (Wit.witHead typ body).length = Wit.witHead typ body := by simp [Wit.witFrame]
  have e3 : ((Wit.witFrame typ body).drop 24).take (bytesNat (Wit.witFrame typ body) 4 2) = body := by
    have : bytesNat (Wit.witFrame typ body) 4 2 = (Wit.witHead typ body).length - 24 := by omega
    rw [this, ← List.drop_take, e2, h8]
  rw [e1, e2, if_pos rfl, e3]

/-- The bytes of a hello (type 1) or LEAVE (type 2) of head 4 before its `MAC`, and the datagram with it under the key 7. -/
def Wit.fabHead (typ : Nat) : List Nat := [0xF4, 0xB1, 1, typ, 4, 0, 0, 0] ++ leNat 16 0 ++ leNat 4 0 ++ leNat 4 9 ++ leNat 24 0
def Wit.fabFrame (typ : Nat) : List Nat := Wit.fabHead typ ++ macBytes 7 (Wit.fabHead typ)

/-- A head in a fabric whose key is 7. -/
def Wit.fabHears : State := { Wit.fab Wit.est with sec := { handles := [(hSlot 0, { use := 2, value := 7 })] } }

/-- The same once it has heard sequence number 9 of chip 0. -/
def Wit.fabHeard : State := ((Wit.fabHears.keyUsed (hSlot 0)).modFab (fun f => { f with seqs := AL.put 0 9 f.seqs })).bump F.FAB_CNT_HELLO_RX_COUNT

/-- A datagram whose `MAC` is right is sound. -/
theorem Wit.fabSound (typ : Nat) (ht : typ = 1 ∨ typ = 2) : Wit.fabHears.HelloSound (Wit.fabFrame typ) typ (helloOf (Wit.fabFrame typ)) Wit.fabHeard := by
  have e : Wit.fabHears.slotFor (Wit.fabHears.get F.FAB_CFG_KEY_SLOT) 1 = (some 7, Wit.fabHears.keyUsed (hSlot 0)) := rfl
  have e1 : (Wit.fabFrame typ).drop 56 = macBytes 7 (Wit.fabHead typ) := rfl
  have e2 : (Wit.fabFrame typ).take 56 = Wit.fabHead typ := rfl
  refine ⟨by decide, by decide, by decide, rfl, rfl, ?_, ?_⟩
  · rw [e]
    unfold State.helloBad
    rw [e1, e2]
    rcases ht with rfl | rfl <;> simp <;> decide
  · rw [e]; rfl

/-- Each command has one operand just outside its range, and is refused: admLateQRead, beatTbRead, registerWrite, registerWrite, pageEnable, pageEnable, pageDisable, pageDisable, pageQuiesce, pageQuiesce, instanceQuiesced, pageReset. -/
theorem test_wf_refuses_0 :
    [Instr.wf (.admLateQRead 64),
     Instr.wf (.beatTbRead 64),
     Instr.wf (.registerWrite 64 0 1 0),
     Instr.wf (.registerWrite 0 17592186044416 1 0),
     Instr.wf (.pageEnable 64 0 false),
     Instr.wf (.pageEnable 0 1024 false),
     Instr.wf (.pageDisable 64 0),
     Instr.wf (.pageDisable 0 1024),
     Instr.wf (.pageQuiesce 64 0),
     Instr.wf (.pageQuiesce 0 1024),
     Instr.wf (.instanceQuiesced 256 0),
     Instr.wf (.pageReset 64 0 false false)].any id = false := by decide

/-- Each command has one operand just outside its range, and is refused: pageReset, pageCommit, pageCommit, pageDiscard, pageDiscard, pageErrqRead, pageErrqRead, pageErrqAck, pageErrqAck, irtClaim, irtDone, irtDone. -/
theorem test_wf_refuses_1 :
    [Instr.wf (.pageReset 0 1024 false false),
     Instr.wf (.pageCommit 64 0 false),
     Instr.wf (.pageCommit 0 1024 false),
     Instr.wf (.pageDiscard 64 0 false),
     Instr.wf (.pageDiscard 0 1024 false),
     Instr.wf (.pageErrqRead 64 0),
     Instr.wf (.pageErrqRead 0 1024),
     Instr.wf (.pageErrqAck 64 0),
     Instr.wf (.pageErrqAck 0 1024),
     Instr.wf (.irtClaim 64),
     Instr.wf (.irtDone 64 0),
     Instr.wf (.irtDone 0 1024)].any id = false := by decide

/-- Each command has one operand just outside its range, and is refused: irtRouteWrite, irtRouteWrite, pageLockSet, pageLockSet, rdpSlowQRead, rdpResumeRetry, rdpResumeFailMedia, rdpResumeFailKey, rdpResumeFailInternal, sliceTagCheck, inflateJobEnd, mapInval. -/
theorem test_wf_refuses_2 :
    [Instr.wf (.irtRouteWrite 64 0 0),
     Instr.wf (.irtRouteWrite 0 1024 0),
     Instr.wf (.pageLockSet 64 0 0),
     Instr.wf (.pageLockSet 0 1024 0),
     Instr.wf (.rdpSlowQRead 64),
     Instr.wf (.rdpResumeRetry 64 0),
     Instr.wf (.rdpResumeFailMedia 64 0),
     Instr.wf (.rdpResumeFailKey 64 0),
     Instr.wf (.rdpResumeFailInternal 64 0),
     Instr.wf (.sliceTagCheck 0 (2 ^ 60) 0 0 0 false),
     Instr.wf (.inflateJobEnd 0 (2 ^ 60) false 0 0),
     Instr.wf (.mapInval 64 0 false)].any id = false := by decide

/-- Each command has one operand just outside its range, and is refused: mapInval, rchInval, rchInval, pfxRecArm, pfxRecArm, pfxRecDisarm, pfxLoad, pfxUnload, peerSwxQueryRx, peerPinRx, peerUnpinRx, jnlDefQRead. -/
theorem test_wf_refuses_3 :
    [Instr.wf (.mapInval 0 65536 false),
     Instr.wf (.rchInval 64 0 false),
     Instr.wf (.rchInval 0 4096 false),
     Instr.wf (.pfxRecArm 64 0 0 0 false),
     Instr.wf (.pfxRecArm 0 0 65536 0 false),
     Instr.wf (.pfxRecDisarm 64),
     Instr.wf (.pfxLoad 64 0),
     Instr.wf (.pfxUnload 64 0),
     Instr.wf (.peerSwxQueryRx 0 0 4096),
     Instr.wf (.peerPinRx 2 0),
     Instr.wf (.peerUnpinRx 2 0),
     Instr.wf (.jnlDefQRead 64)].any id = false := by decide

/-- Each command has one operand just outside its range, and is refused: createVat, createVat, setVatOptions, setVatOptions, rekey, rekey, freeze, freeze, deleteVat, deleteVat, createVolume, createVolume. -/
theorem test_wf_refuses_4 :
    [Instr.wf (.createVat 64 0),
     Instr.wf (.createVat 0 4096),
     Instr.wf (.setVatOptions 64 0),
     Instr.wf (.setVatOptions 0 4096),
     Instr.wf (.rekey 64 0),
     Instr.wf (.rekey 0 4096),
     Instr.wf (.freeze 64 0),
     Instr.wf (.freeze 0 4096),
     Instr.wf (.deleteVat 64 0),
     Instr.wf (.deleteVat 0 4096),
     Instr.wf (.createVolume 64 0),
     Instr.wf (.createVolume 0 65536)].any id = false := by decide

/-- Each command has one operand just outside its range, and is refused: resizeVolume, resizeVolume, setProfile, setProfile, deleteVolume, deleteVolume, redyeResume, redyeResume, snpCreateGroup, snpDelete, snpClone, snpClone. -/
theorem test_wf_refuses_5 :
    [Instr.wf (.resizeVolume 64 0),
     Instr.wf (.resizeVolume 0 65536),
     Instr.wf (.setProfile 64 0),
     Instr.wf (.setProfile 0 65536),
     Instr.wf (.deleteVolume 64 0),
     Instr.wf (.deleteVolume 0 65536),
     Instr.wf (.redyeResume 64 0),
     Instr.wf (.redyeResume 0 4096),
     Instr.wf (.snpCreateGroup 64 0),
     Instr.wf (.snpDelete 64 0),
     Instr.wf (.snpClone 64 0 0),
     Instr.wf (.snpClone 0 0 65536)].any id = false := by decide

/-- Each command has one operand just outside its range, and is refused: volumeRefRelease, ftlDirLoad, mediaFlitRx, mediaNakRx, mediaReplayTimer, mdlLinkEnable, mdlLinkEnable, mdlLinkRetrain, mdlLinkRetrain, mdlLinkDown, mdlLinkDown, trainingBlockRx. -/
theorem test_wf_refuses_6 :
    [Instr.wf (.volumeRefRelease 65536 0),
     Instr.wf (.ftlDirLoad 64 0 false false 0 0),
     Instr.wf (.mediaFlitRx 128 0),
     Instr.wf (.mediaNakRx 128 0),
     Instr.wf (.mediaReplayTimer 128),
     Instr.wf (.mdlLinkEnable 64 0 false),
     Instr.wf (.mdlLinkEnable 0 128 false),
     Instr.wf (.mdlLinkRetrain 64 0),
     Instr.wf (.mdlLinkRetrain 0 128),
     Instr.wf (.mdlLinkDown 64 0),
     Instr.wf (.mdlLinkDown 0 128),
     Instr.wf (.trainingBlockRx 128 false 0 false false 0 0 0 0)].any id = false := by decide

/-- Each command has one operand just outside its range, and is refused: linkTrainTimeout, linkRecoverTimeout, brickCreditRx, mediaOpTimeout, brickIdentRx, brickOwnerRx, identRetry, brickStatusRx, brickReadDataRx, brickEventRx, brickEventRx, sidebandAlert. -/
theorem test_wf_refuses_7 :
    [Instr.wf (.linkTrainTimeout 128),
     Instr.wf (.linkRecoverTimeout 128),
     Instr.wf (.brickCreditRx 128 0 0),
     Instr.wf (.mediaOpTimeout 128 0),
     Instr.wf (.brickIdentRx 128 0 0 0 0 0 0 0 0 0 0 0 false),
     Instr.wf (.brickOwnerRx 128 0 0 0 0 0),
     Instr.wf (.identRetry 128),
     Instr.wf (.brickStatusRx 128 0 0),
     Instr.wf (.brickReadDataRx 128 0 0 0 0),
     Instr.wf (.brickEventRx 128 0 0),
     Instr.wf (.brickEventRx 0 0 64),
     Instr.wf (.sidebandAlert 128 false 0 0)].any id = false := by decide

/-- Each command has one operand just outside its range, and is refused: sidebandPoll, brickAdopt, brickAdopt, brickRelease, brickRelease, brickFail, brickFail, brickAttnOn, brickAttnOn, brickAttnOff, brickAttnOff, brickRefresh. -/
theorem test_wf_refuses_8 :
    [Instr.wf (.sidebandPoll 128 false 0 0),
     Instr.wf (.brickAdopt 64 0),
     Instr.wf (.brickAdopt 0 128),
     Instr.wf (.brickRelease 64 0),
     Instr.wf (.brickRelease 0 128),
     Instr.wf (.brickFail 64 0),
     Instr.wf (.brickFail 0 128),
     Instr.wf (.brickAttnOn 64 0 false),
     Instr.wf (.brickAttnOn 0 128 false),
     Instr.wf (.brickAttnOff 64 0 false),
     Instr.wf (.brickAttnOff 0 128 false),
     Instr.wf (.brickRefresh 64 0)].any id = false := by decide

/-- Each command has one operand just outside its range, and is refused: brickRefresh, dfmLoad, dfmUnload, digestSubmit, digestSubmit, digDoneQRead, digDoneQRead, keyFetchDone, entropyStartupTest, sliceRngReseed, secHardenWrite, portLinkChange, hfiDetectStep. -/
theorem test_wf_refuses_9 :
    [Instr.wf (.brickRefresh 0 128),
     Instr.wf (.dfmLoad 64 0),
     Instr.wf (.dfmUnload 64 0),
     Instr.wf (.digestSubmit 64 0 0),
     Instr.wf (.digestSubmit 0 16 0),
     Instr.wf (.digDoneQRead 64 0),
     Instr.wf (.digDoneQRead 0 16),
     Instr.wf (.keyFetchDone 16 0),
     Instr.wf (.entropyStartupTest [1]),
     Instr.wf (.sliceRngReseed 16),
     Instr.wf (.secHardenWrite 64 0 false),
     Instr.wf (.portLinkChange 96 false),
     Instr.wf (.hfiDetectStep 24)].any id = false := by decide

/-- Each command has one operand just outside its range, and is refused: hfiFrameRx, pfcXoff, pfcXoff, pfcRefresh, pfcRefresh, pfcXon, pfcXon, pfcFrameRx, pfcPauseExpire, pfcPauseExpire, tcpSynRx, nvmeConnectAdmin. -/
theorem test_wf_refuses_10 :
    [Instr.wf (.hfiFrameRx 96 { bytes := 64, dst := 0, kind := 0 }),
     Instr.wf (.pfcXoff 96 0 0),
     Instr.wf (.pfcXoff 0 8 0),
     Instr.wf (.pfcRefresh 96 0 0),
     Instr.wf (.pfcRefresh 0 8 0),
     Instr.wf (.pfcXon 96 0 0),
     Instr.wf (.pfcXon 0 8 0),
     Instr.wf (.pfcFrameRx 96 []),
     Instr.wf (.pfcPauseExpire 96 0),
     Instr.wf (.pfcPauseExpire 0 8),
     Instr.wf (.tcpSynRx 2 0 0 0 false false 0),
     Instr.wf (.nvmeConnectAdmin 0 65536 0 0 0 [])].any id = false := by decide

/-- Each command has one operand just outside its range, and is refused: nvmeConnectAdmin, nvmeConnectAdmin, nvmeConnectAdmin, nvmeConnectIo, nvmeConnectIo, nvmeConnectIo, nvmeConnectIo, nvtConnectQRead, nvtConnectQRead, nvtConnectAccept, nvtConnectAccept, nvtConnectAccept. -/
theorem test_wf_refuses_11 :
    [Instr.wf (.nvmeConnectAdmin 0 0 256 0 0 []),
     Instr.wf (.nvmeConnectAdmin 0 0 0 65536 0 []),
     Instr.wf (.nvmeConnectAdmin 0 0 0 0 4294967296 []),
     Instr.wf (.nvmeConnectIo 0 65536 0 0 0 []),
     Instr.wf (.nvmeConnectIo 0 0 256 0 0 []),
     Instr.wf (.nvmeConnectIo 0 0 0 65536 0 []),
     Instr.wf (.nvmeConnectIo 0 0 0 0 65536 []),
     Instr.wf (.nvtConnectQRead 64 0),
     Instr.wf (.nvtConnectQRead 0 2),
     Instr.wf (.nvtConnectAccept 64 0 0),
     Instr.wf (.nvtConnectAccept 0 2 0),
     Instr.wf (.nvtConnectAccept 0 0 64)].any id = false := by decide

/-- Each command has one operand just outside its range, and is refused: nvtConnectRefuseHost, nvtConnectRefuseHost, nvtConnectRefuseHost, nvtConnectRefuseBusy, nvtConnectRefuseBusy, nvtConnectRefuseBusy, nvtConnectTimeout, nvtConnectTimeout, nvtCtrlTeardown, nvtCtrlTeardown, nvtAttachChanged, nvtAttachChanged. -/
theorem test_wf_refuses_12 :
    [Instr.wf (.nvtConnectRefuseHost 64 0 0),
     Instr.wf (.nvtConnectRefuseHost 0 2 0),
     Instr.wf (.nvtConnectRefuseHost 0 0 64),
     Instr.wf (.nvtConnectRefuseBusy 64 0 0),
     Instr.wf (.nvtConnectRefuseBusy 0 2 0),
     Instr.wf (.nvtConnectRefuseBusy 0 0 64),
     Instr.wf (.nvtConnectTimeout 2 0),
     Instr.wf (.nvtConnectTimeout 0 64),
     Instr.wf (.nvtCtrlTeardown 64 0 0),
     Instr.wf (.nvtCtrlTeardown 0 2 0),
     Instr.wf (.nvtAttachChanged 64 0 0),
     Instr.wf (.nvtAttachChanged 0 2 0)].any id = false := by decide

/-- Each command has one operand just outside its range, and is refused: nvmeIdentify, nvmeIdentify, nvmeIdentify, nvmeIdentify, nvmeGetFeatures, nvmeGetFeatures, nvmeGetFeatures, nvmeSetFeatures, nvmeSetFeatures, nvmeSetFeatures, nvmeGetLogPage, nvmeGetLogPage. -/
theorem test_wf_refuses_13 :
    [Instr.wf (.nvmeIdentify 0 65536 0 0 0),
     Instr.wf (.nvmeIdentify 0 0 256 0 0),
     Instr.wf (.nvmeIdentify 0 0 0 4294967296 0),
     Instr.wf (.nvmeIdentify 0 0 0 0 256),
     Instr.wf (.nvmeGetFeatures 0 65536 0 0),
     Instr.wf (.nvmeGetFeatures 0 0 256 0),
     Instr.wf (.nvmeGetFeatures 0 0 0 256),
     Instr.wf (.nvmeSetFeatures 0 65536 0 0 0),
     Instr.wf (.nvmeSetFeatures 0 0 256 0 0),
     Instr.wf (.nvmeSetFeatures 0 0 0 256 0),
     Instr.wf (.nvmeGetLogPage 0 65536 0 0 0 0 0 false),
     Instr.wf (.nvmeGetLogPage 0 0 256 0 0 0 0 false)].any id = false := by decide

/-- Each command has one operand just outside its range, and is refused: nvmeGetLogPage, nvmeGetLogPage, nvmeGetLogPage, nvmeGetLogPage, nvmeDeviceSelfTest, nvmeDeviceSelfTest, nvmeDeviceSelfTest, nvmeAbort, nvmeAbort, nvmeAbort, nvmeAbort, nvmeKeepAlive. -/
theorem test_wf_refuses_14 :
    [Instr.wf (.nvmeGetLogPage 0 0 0 4294967296 0 0 0 false),
     Instr.wf (.nvmeGetLogPage 0 0 0 0 256 0 0 false),
     Instr.wf (.nvmeGetLogPage 0 0 0 0 0 18446744073709551616 0 false),
     Instr.wf (.nvmeGetLogPage 0 0 0 0 0 0 17179869184 false),
     Instr.wf (.nvmeDeviceSelfTest 0 65536 0 0 0),
     Instr.wf (.nvmeDeviceSelfTest 0 0 256 0 0),
     Instr.wf (.nvmeDeviceSelfTest 0 0 0 4294967296 0),
     Instr.wf (.nvmeAbort 0 65536 0 0 0),
     Instr.wf (.nvmeAbort 0 0 256 0 0),
     Instr.wf (.nvmeAbort 0 0 0 65536 0),
     Instr.wf (.nvmeAbort 0 0 0 0 65536),
     Instr.wf (.nvmeKeepAlive 0 65536 0)].any id = false := by decide

/-- Each command has one operand just outside its range, and is refused: nvmeKeepAlive, nvmeAsyncEventRequest, nvmeAsyncEventRequest, nvmePropertyGet, nvmePropertyGet, nvmePropertyGet, nvmePropertySet, nvmePropertySet, nvmePropertySet, nvmeDisconnect, nvmeDisconnect, nvmeRead. -/
theorem test_wf_refuses_15 :
    [Instr.wf (.nvmeKeepAlive 0 0 256),
     Instr.wf (.nvmeAsyncEventRequest 0 65536 0),
     Instr.wf (.nvmeAsyncEventRequest 0 0 256),
     Instr.wf (.nvmePropertyGet 0 65536 0 0),
     Instr.wf (.nvmePropertyGet 0 0 256 0),
     Instr.wf (.nvmePropertyGet 0 0 0 4294967296),
     Instr.wf (.nvmePropertySet 0 65536 0 0 0),
     Instr.wf (.nvmePropertySet 0 0 256 0 0),
     Instr.wf (.nvmePropertySet 0 0 0 4294967296 0),
     Instr.wf (.nvmeDisconnect 0 65536 0),
     Instr.wf (.nvmeDisconnect 0 0 256),
     Instr.wf (.nvmeRead 0 65536 0 0 0 0 0)].any id = false := by decide

/-- Each command has one operand just outside its range, and is refused: nvmeRead, nvmeRead, nvmeRead, nvmeWrite, nvmeWrite, nvmeWrite, nvmeWrite, nvmeFlush, nvmeFlush, nvmeFlush, nvmeWriteZeroes, nvmeWriteZeroes. -/
theorem test_wf_refuses_16 :
    [Instr.wf (.nvmeRead 0 0 256 0 0 0 0),
     Instr.wf (.nvmeRead 0 0 0 4294967296 0 0 0),
     Instr.wf (.nvmeRead 0 0 0 0 18446744073709551616 0 0),
     Instr.wf (.nvmeWrite 0 65536 0 0 0 0 0 []),
     Instr.wf (.nvmeWrite 0 0 256 0 0 0 0 []),
     Instr.wf (.nvmeWrite 0 0 0 4294967296 0 0 0 []),
     Instr.wf (.nvmeWrite 0 0 0 0 18446744073709551616 0 0 []),
     Instr.wf (.nvmeFlush 0 65536 0 0),
     Instr.wf (.nvmeFlush 0 0 256 0),
     Instr.wf (.nvmeFlush 0 0 0 4294967296),
     Instr.wf (.nvmeWriteZeroes 0 65536 0 0 0 0),
     Instr.wf (.nvmeWriteZeroes 0 0 256 0 0 0)].any id = false := by decide

/-- Each command has one operand just outside its range, and is refused: nvmeWriteZeroes, nvmeWriteZeroes, nvmeDatasetManagement, nvmeDatasetManagement, nvmeDatasetManagement, nvmeInvalidOpcode, nvtH2cDataRx, nvtH2cDataRx, nvtH2cDataRx, ldtHelloRx, ldtAcceptQRead, ldtAcceptQRead. -/
theorem test_wf_refuses_17 :
    [Instr.wf (.nvmeWriteZeroes 0 0 0 4294967296 0 0),
     Instr.wf (.nvmeWriteZeroes 0 0 0 0 18446744073709551616 0),
     Instr.wf (.nvmeDatasetManagement 0 65536 0 0 false []),
     Instr.wf (.nvmeDatasetManagement 0 0 256 0 false []),
     Instr.wf (.nvmeDatasetManagement 0 0 0 4294967296 false []),
     Instr.wf (.nvmeInvalidOpcode 0 65536),
     Instr.wf (.nvtH2cDataRx 0 65536 0 0 0 false false false false),
     Instr.wf (.nvtH2cDataRx 0 0 18446744073709551616 0 0 false false false false),
     Instr.wf (.nvtH2cDataRx 0 0 0 17179869184 0 false false false false),
     Instr.wf (.ldtHelloRx 2 0 0 false []),
     Instr.wf (.ldtAcceptQRead 64 0),
     Instr.wf (.ldtAcceptQRead 0 2)].any id = false := by decide

/-- Each command has one operand just outside its range, and is refused: ldtAccept, ldtAccept, ldtAccept, ldtRefuse, ldtRefuse, ldtRefuse, ldtRefuseBusy, ldtRefuseBusy, ldtRefuseBusy, ldtAcceptTimeout, ldtAcceptTimeout, ldtHelloRespRx. -/
theorem test_wf_refuses_18 :
    [Instr.wf (.ldtAccept 64 0 0),
     Instr.wf (.ldtAccept 0 2 0),
     Instr.wf (.ldtAccept 0 0 64),
     Instr.wf (.ldtRefuse 64 0 0),
     Instr.wf (.ldtRefuse 0 2 0),
     Instr.wf (.ldtRefuse 0 0 64),
     Instr.wf (.ldtRefuseBusy 64 0 0),
     Instr.wf (.ldtRefuseBusy 0 2 0),
     Instr.wf (.ldtRefuseBusy 0 0 64),
     Instr.wf (.ldtAcceptTimeout 2 0),
     Instr.wf (.ldtAcceptTimeout 0 64),
     Instr.wf (.ldtHelloRespRx 2 0 [] false)].any id = false := by decide

/-- Each command has one operand just outside its range, and is refused: ldtHelloRespRx, ldtFinishRx, ldtFinishRx, ldtSendRx, ldtWriteRx, ldtReadReqRx, ldtReadRespRx, ldtAckRx, ldtCloseRx, ldtMsgFailRx, ldtKeepaliveRx, ldtConnClose. -/
theorem test_wf_refuses_19 :
    [Instr.wf (.ldtHelloRespRx 0 4294967296 [] false),
     Instr.wf (.ldtFinishRx 2 0 false false),
     Instr.wf (.ldtFinishRx 0 4294967296 false false),
     Instr.wf (.ldtSendRx 2 { dcid := 0, psn := 0 } 0),
     Instr.wf (.ldtWriteRx 2 { dcid := 0, psn := 0 } 0 0 0),
     Instr.wf (.ldtReadReqRx 2 { dcid := 0, psn := 0 } 0 0),
     Instr.wf (.ldtReadRespRx 2 { dcid := 0, psn := 0 } 0),
     Instr.wf (.ldtAckRx 2 { dcid := 0, psn := 0 } 0 [] [] 0),
     Instr.wf (.ldtCloseRx 2 { dcid := 0, psn := 0 }),
     Instr.wf (.ldtMsgFailRx 2 { dcid := 0, psn := 0 } 0 0),
     Instr.wf (.ldtKeepaliveRx 2 { dcid := 0, psn := 0 }),
     Instr.wf (.ldtConnClose 64 0 0)].any id = false := by decide

/-- Each command has one operand just outside its range, and is refused: ldtConnClose, ldtConnRekey, ldtConnRekey, lseModeReqService, lseModeReqServiceRelease, lseModeReqReboot, peerBundleActive, peerFlitRx, peerReplayTimer, peerBundleLeaveActive, peerHelloRx, peerMailboxRx. -/
theorem test_wf_refuses_20 :
    [Instr.wf (.ldtConnClose 0 2 0),
     Instr.wf (.ldtConnRekey 64 0 0),
     Instr.wf (.ldtConnRekey 0 2 0),
     Instr.wf (.lseModeReqService 64),
     Instr.wf (.lseModeReqServiceRelease 64),
     Instr.wf (.lseModeReqReboot 64),
     Instr.wf (.peerBundleActive 2 []),
     Instr.wf (.peerFlitRx 2 0),
     Instr.wf (.peerReplayTimer 2),
     Instr.wf (.peerBundleLeaveActive 2),
     Instr.wf (.peerHelloRx 65536 0 0 0),
     Instr.wf (.peerMailboxRx 0 0 0 128)].any id = false := by decide

/-- Each command has one operand just outside its range, and is refused: peerRubRx, leaseFencePoint, leaseRenewDue, witnessRetry, witnessWaitExpire, lseWitRxWrite, lseWitTxRead, peerLinkEnable, peerBundleRetrain, fabHelloRx, fabHelloRx, fabLeaveRx. -/
theorem test_wf_refuses_21 :
    [Instr.wf (.peerRubRx 2 false),
     Instr.wf (.leaseFencePoint 2),
     Instr.wf (.leaseRenewDue 2),
     Instr.wf (.witnessRetry 2),
     Instr.wf (.witnessWaitExpire 2),
     Instr.wf (.lseWitRxWrite 64 0),
     Instr.wf (.lseWitTxRead 64),
     Instr.wf (.peerLinkEnable 64 false),
     Instr.wf (.peerBundleRetrain 64 0),
     Instr.wf (.fabHelloRx [256]),
     Instr.wf (.fabLeaveRx [256])].any id = false := by decide

/-- Each command has one operand just outside its range, and is refused: fabLeaveRx, fabMemberMiss, repLinkLoad, repLinkStop, repLinkOffer, repLinkResync, msrExtend, msrLock, fuseSvnD, fuseSvnI, fuseRootI, fuseDebugDisable. -/
theorem test_wf_refuses_22 :
    [Instr.wf (.fabMemberMiss 65536),
     Instr.wf (.repLinkLoad 64 0),
     Instr.wf (.repLinkStop 64 0),
     Instr.wf (.repLinkOffer 64 0 0),
     Instr.wf (.repLinkResync 64 0),
     Instr.wf (.msrExtend 64 0 0),
     Instr.wf (.msrLock 64 0),
     Instr.wf (.fuseSvnD 64 false),
     Instr.wf (.fuseSvnI 64 false),
     Instr.wf (.fuseRootI 64 0 false),
     Instr.wf (.fuseDebugDisable 64 false)].any id = false := by decide

/-- Each command has one operand just outside its range, and is refused: fuseDebugRoot, mbxPost, mbxPost, mbxTake, mbxTake, mbxStatWrite, mbxStatWrite, mbxBindWrite, mbxBindWrite, mbxBindLock, mbxLockRead, mbxUnlock. -/
theorem test_wf_refuses_23 :
    [Instr.wf (.fuseDebugRoot 64 false),
     Instr.wf (.mbxPost 64 0 0),
     Instr.wf (.mbxPost 0 128 0),
     Instr.wf (.mbxTake 64 0),
     Instr.wf (.mbxTake 0 128),
     Instr.wf (.mbxStatWrite 64 0 0),
     Instr.wf (.mbxStatWrite 0 128 0),
     Instr.wf (.mbxBindWrite 64 0 false 0 0),
     Instr.wf (.mbxBindWrite 0 128 false 0 0),
     Instr.wf (.mbxBindLock 64),
     Instr.wf (.mbxLockRead 64 0),
     Instr.wf (.mbxUnlock 64 0)].any id = false := by decide

/-- Each command has one operand just outside its range, and is refused: updVerify, pwrDomSetState, pwrDomSetState, pwrDomResetCores, pwrDomResetCores, autoIdleEnter, autoIdleExit, dozeRequest, clkRefLoss, clkRefReturn, aonSrstReq, erqInject. -/
theorem test_wf_refuses_24 :
    [Instr.wf (.updVerify 4),
     Instr.wf (.pwrDomSetState 64 0 0),
     Instr.wf (.pwrDomSetState 0 20 0),
     Instr.wf (.pwrDomResetCores 64 0 0),
     Instr.wf (.pwrDomResetCores 0 20 0),
     Instr.wf (.autoIdleEnter 20),
     Instr.wf (.autoIdleExit 20),
     Instr.wf (.dozeRequest 64 false),
     Instr.wf (.clkRefLoss 7),
     Instr.wf (.clkRefReturn 7),
     Instr.wf (.aonSrstReq 64),
     Instr.wf (.erqInject 64 0 0)].any id = false := by decide

/-- Each command has one operand just outside its range, and is refused: erqInject, memoryEccError, evrSample, evrCursorWrite, evrWinRead, evrClrChalRead, evrClrReq, evrSecClear, ageSample, thermalWarning, thermalWarningClear, thermalShutdown. -/
theorem test_wf_refuses_25 :
    [Instr.wf (.erqInject 0 1024 0),
     Instr.wf (.memoryEccError 5 0 0 0 false),
     Instr.wf (.evrSample 64 0 0),
     Instr.wf (.evrCursorWrite 64 0 0 0),
     Instr.wf (.evrWinRead 64 0),
     Instr.wf (.evrClrChalRead 64),
     Instr.wf (.evrClrReq 64 0),
     Instr.wf (.evrSecClear 64 false),
     Instr.wf (.ageSample 20 0),
     Instr.wf (.thermalWarning 24 0),
     Instr.wf (.thermalWarningClear 24 0),
     Instr.wf (.thermalShutdown 24 0)].any id = false := by decide

/-- Each command has one operand just outside its range, and is refused: thermalTrip, bypass, tstRun, tstRun, tstStop, tstStop, tstClear, tstClear, tstEyeScan, tstEyeScan, tstEyeDone, tstCheckerLock. -/
theorem test_wf_refuses_26 :
    [Instr.wf (.thermalTrip 24 0),
     Instr.wf (.bypass 256),
     Instr.wf (.tstRun 64 0),
     Instr.wf (.tstRun 0 64),
     Instr.wf (.tstStop 64 0 []),
     Instr.wf (.tstStop 0 64 []),
     Instr.wf (.tstClear 64 0),
     Instr.wf (.tstClear 0 64),
     Instr.wf (.tstEyeScan 64 0),
     Instr.wf (.tstEyeScan 0 64),
     Instr.wf (.tstEyeDone 64 []),
     Instr.wf (.tstCheckerLock 64 0)].any id = false := by decide

/-- Each command has one operand just outside its range, and is refused: tstCheckerLock, tstLockLoss, tstLockLoss, porstNRelease, srstNRelease, internalReset, registerWrite. -/
theorem test_wf_refuses_27 :
    [Instr.wf (.tstCheckerLock 0 4),
     Instr.wf (.tstLockLoss 64 0 0),
     Instr.wf (.tstLockLoss 0 4 0),
     Instr.wf (.porstNRelease 3),
     Instr.wf (.srstNRelease 3),
     Instr.wf (.internalReset 3),
     Instr.wf (.registerWrite 0 0 3 0)].any id = false := by decide

/-- A well-formed command is let through. -/
theorem test_wf_accepts : Instr.wf (.registerWrite 63 (2 ^ 44 - 1) 8 0) = true := by decide

theorem test_meets_StepRunsTheFrontCommand_1 :
    ((State.reset.push .idcode).pending = [.idcode]) := by decide

theorem test_meets_StepRunsTheFrontCommand_2 :
    (State.reset.pending = []) := by decide

theorem test_meets_QueueOnlyShrinksByTheFront_0 :
    ∃ t, exec .idcode State.reset = .next t := ⟨_, rfl⟩

theorem test_meets_QueueOnlyShrinksByTheFront_1 :
    step State.reset = .next State.reset := rfl

theorem test_meets_MemoryKeepsItsForm_0 :
    Mem.wf State.reset.mem = true ∧ step State.reset = .next State.reset := ⟨rfl, rfl⟩

theorem test_meets_MemoryFrame_0 :
    mayTouchMemory .idcode = false ∧ ∃ t, exec .idcode State.reset = .next t := ⟨rfl, _, rfl⟩

theorem test_meets_FusesOnlyAdvance_0 :
    step State.reset = .next State.reset := rfl

theorem test_meets_FusesChangeOnlyByTheirCommands_0 :
    mayTouchFuses .idcode = false ∧ ∃ t, exec .idcode State.reset = .next t := ⟨rfl, _, rfl⟩

theorem test_meets_WindowAccessIsJudgedInOrder_0 :
    (pageOf 1023 = none) := by decide

theorem test_meets_WindowAccessIsJudgedInOrder_1 :
    (pageOf Slot.BEAT = some (2, 0, 0) ∧ 0x104 % 8 ≠ 0) := by decide

theorem test_meets_WindowAccessIsJudgedInOrder_2 :
    (pageOf Slot.SEC = some (8, 0, 0) ∧ State.reset.secureMaster 3 = false ∧ slotSecure Slot.SEC = true) := by decide

theorem test_meets_WindowAccessIsJudgedInOrder_3 :
    (let s := State.reset.set (F.PWR_DOM_STAT_STATE (slotDomain Slot.ADM)) 0; pageOf Slot.ADM = some (Blk.ADM, 0, 0) ∧ slotSecure Slot.ADM = false ∧ s.domUp (slotDomain Slot.ADM) = false) := by decide

theorem test_meets_WindowAccessIsJudgedInOrder_4 :
    (let s := State.reset.modHdr Slot.ADM (fun h => { h with locked := true, writers := 0 }); pageOf Slot.ADM = some (Blk.ADM, 0, 0) ∧ s.secureMaster 3 = false ∧ slotSecure Slot.ADM = false ∧ s.domUp (slotDomain Slot.ADM) = true ∧ (s.hdr Slot.ADM).locked = true ∧ bitOf (s.hdr Slot.ADM).writers (lockGroup 3 - 1) = false) := by decide

theorem test_meets_WindowAccessIsJudgedInOrder_5 :
    (pageOf Slot.ADM = some (Blk.ADM, 0, 0) ∧ State.reset.secureMaster 3 = false ∧ slotSecure Slot.ADM = false ∧ State.reset.domUp (slotDomain Slot.ADM) = true ∧ (State.reset.hdr Slot.ADM).locked = false) := by decide

theorem test_meets_EmptySlotsIgnoreWrites_0 :
    (pageOf 1023 = none ∧ reaches 3 true = true) := by decide

theorem test_meets_EmptySlotsIgnoreWrites_1 :
    (pageOf 1023 = none) := by decide

theorem test_meets_TimeBaseRuns_0 :
    (let s := State.reset; s.pwr.capture = none ∧ s.time.holdLeft = none ∧ s.pins.porstLow = false ∧ (s.advance 3999).beats = s.beats) := by decide

theorem test_meets_TimeBaseRuns_1 :
    (let s := State.reset; s.pwr.capture = none ∧ s.time.holdLeft = none ∧ s.pins.porstLow = false ∧ (s.advance 4000).beats = s.beats + 1 ∧ ((s.advance 4000).rtcEdges 0).blocksRun = true) := by decide

theorem test_meets_TimeBaseRuns_2 :
    (State.reset.time.rate = 0) := by decide

theorem test_meets_TimeBaseRuns_3 :
    ({ State.reset with time := { holdLeft := some 10 } }.time.holdLeft = some 10) := by decide

theorem test_meets_TimeBaseRuns_4 :
    (State.reset.judge 3 Slot.BEAT 0x100 true false = none) := by decide

theorem test_meets_PeerTimeAlignment_0 :
    (State.reset.maySend .peer 3 = true) := by decide

theorem test_meets_PeerTimeAlignment_2 :
    (let s := ({ State.reset with time := { markT1 := some 0 } }.set F.BEAT_STAT_SOURCE 1).setUnit (unitKey Blk.ADM 0) { enable := true }; s.time.markT1 = some 0 ∧ s.get F.BEAT_STAT_SOURCE = 1 ∧ (s.unit (unitKey Blk.ADM 0)).enable = true ∧ (beatOffset 0 0 0 s.tb (sgn 32 (s.get F.BEAT_PEER_ASYM_NS))).natAbs ≤ 200) := by decide

theorem test_meets_PeerTimeAlignment_3 :
    (let s := State.reset.set F.BEAT_CFG_PTP_EN 1; s.get F.BEAT_CFG_PTP_EN = 1 ∧ 0 = s.get F.BEAT_CFG_PTP_PORT ∧ 0 = s.get F.BEAT_CFG_PTP_DOMAIN ∧ (s.ptpOffset 0 0).natAbs ≤ 1000) := by decide

theorem test_meets_PeerTimeAlignment_4 :
    ((State.reset.set F.BEAT_CFG_PTP_EN 1).get F.BEAT_CFG_PTP_EN = 1 ∧ 1000 < ((State.reset.set F.BEAT_CFG_PTP_EN 1).ptpOffset 0 2002).natAbs) := by decide

theorem test_meets_PeerTimeAlignment_5 :
    (State.reset.ptpRecent = false) := by decide

theorem test_meets_LateWorkIsShown_0 :
    (let s : State := { State.reset with adm := { reqs := [(7, { tag := 7, kind := .read, origin := .internal })] }, time := { tbFx := 8000 * 65536 * 257 } }; s.req 7 = some { tag := 7, kind := .read, origin := .internal } ∧ 0 + 256 < s.beat ∧ s.adm.lateQ.length < 256) := by decide

theorem test_meets_LateWorkIsShown_1 :
    (let s : State := { State.reset with adm := { lateQ := [⟨0, 1, 300, 7⟩] } }; s.judge 3 Slot.ADM 0x110 true false = none) := by decide

theorem test_meets_LateWorkIsShown_2 :
    ({ State.reset with host := { conns := [(0, { stall := 4097 })] } }.stallOf true 0 = 4097) := by decide

theorem test_meets_LateWorkIsShown_3 :
    ({ State.reset with ldt := { conns := [(0, { stall := 4097 })] } }.stallOf false 0 = 4097) := by decide

theorem test_meets_RegisterWriteReachesItsPlace_0 :
    (State.reset.protHit 0 = false) := by decide

theorem test_meets_RegisterWriteReachesItsPlace_1 :
    (let s := State.reset.set F.SEC_PROT_WIN0_SIZE 1; s.protHit 0 = true ∧ s.secureMaster 3 = false) := by decide

theorem test_meets_RegisterWriteReachesItsPlace_2 :
    (inWindow windowBase = true ∧ inWindow (windowBase + 1024 * 4096 - 1) = true ∧ reaches 3 true = true) := by decide

theorem test_meets_RegisterWriteReachesItsPlace_3 :
    (inWindow 0x003000000000 = false ∧ inWindow 0x020000800000 = false) := by decide

theorem test_meets_InterruptRouterServes_0 :
    (let s := ((State.reset.set (F.IRT_ROUTE_TARGET 116) 3).set (F.IRT_ROUTE_PRIORITY 116) 7).modHdr 116 (fun h => { h with irqForce := 2, irqMask := 0 }); s.judge 3 Slot.IRT 0x100 true false = none ∧ s.claimable 3 = some 116) := by decide

theorem test_meets_InterruptRouterServes_1 :
    (State.reset.judge 3 Slot.IRT 0x100 true false = none ∧ State.reset.claimable 3 = none) := by decide

theorem test_meets_InterruptRouterServes_2 :
    (let s : State := { State.reset with irt := { inService := [(116, 3)] } }; s.judge 3 Slot.IRT 0x108 true true = none ∧ s.irt.inService.contains (116, 3) = true) := by decide

theorem test_meets_InterruptRouterServes_3 :
    (State.reset.judge 3 Slot.IRT 0x108 true true = none ∧ State.reset.irt.inService.contains (116, 3) = false) := by decide

theorem test_meets_InterruptRouterServes_4 :
    (State.reset.judge 3 (Slot.IRT + routePage 116) (routeOff 116) true true = none ∧ slotSecure 116 = false ∧ 1 ≤ bitsOf (1 : Word).toNat 0 6 ∧ bitsOf (58 : Word).toNat 0 6 ≤ 58) := by decide

theorem test_meets_InterruptRouterServes_5 :
    (State.reset.judge 3 (Slot.IRT + routePage 116) (routeOff 116) true true = none ∧ bitsOf (0 : Word).toNat 0 6 < 1 ∧ 58 < bitsOf (59 : Word).toNat 0 6) := by decide

theorem test_meets_DigestJobsKeysAndHardening_2b :
    let tag : Nat := 0; let r : Req := { tag := 0, kind := .digest, origin := .internal, stage := .slice }; let s : State := ((Wit.withReq r).wrLE 0 8 (2 ^ 60)).wrLE 8 8 (2 ^ 56 + 256); let s : State := { s with slices := [(0, { segs := [(.run 0 0, s.digestSegs r)] })] }; s.req tag = some r ∧ r.stage = .slice ∧ r.kind = .digest ∧ s.digestOver r (s.descCheck r.lba r.compressed) = true ∧ s.descCheck r.lba r.compressed = 0 := by decide

theorem test_meets_HeadResetsActAndRelease_0 :
    let ns : Nat := 1000;
    1000 ≤ ns := by decide

theorem test_meets_HeadResetsActAndRelease_1 :
    let ns : Nat := 0;
    ns < 200 := by decide

theorem test_meets_HeadResetsActAndRelease_2 :
    let s : State := { pins := { porstLow := true } };
    s.pins.porstLow = true ∧ s.powerOn.inReset = false := by decide

theorem test_meets_HeadResetsActAndRelease_3 :
    let s : State := {};
    let ns : Nat := 1000;
    1000 ≤ ns ∧ s.mode ≠ .vault ∧ s.mode ≠ .off ∧ s.pins.porstLow = false ∧ s.pins.tripped = false := by decide

theorem test_meets_HeadResetsActAndRelease_4 :
    let s : State := { pins := { porstLow := true } };
    (s.mode = .vault ∨ s.mode = .off ∨ s.pins.porstLow = true ∨ s.pins.tripped = true) := by decide

theorem test_meets_HeadResetsActAndRelease_5 :
    let s : State := { pins := { srstLow := true } };
    s.pins.srstLow = true ∧ s.pins.porstLow = false ∧ s.pins.internalHeld = false := by decide

theorem test_meets_HeadResetsActAndRelease_6 :
    let s : State := { pins := { internalHeld := true } };
    let u : State := ({ s with pins := { s.pins with internalHeld := false } } : State).advance 500;
    s.pins.internalHeld = true ∧ u = ({ s with pins := { s.pins with internalHeld := false } } : State).advance 500 ∧ u.inReset = false := by decide

theorem test_meets_HeadResetsActAndRelease_8 :
    let s : State := { pins := { porstLow := true, srstLow := true } };
    let u : State := s.powerOn;
    s.pins.porstLow = true ∧ u = s.powerOn ∧ u.inReset = true := by decide

theorem test_meets_HeadResetsActAndRelease_9 :
    let s : State := { pins := { porstLow := true, srstLow := true } };
    let u : State := { s with pins := { s.pins with srstLow := false } };
    s.pins.srstLow = true ∧ u = { s with pins := { s.pins with srstLow := false } } ∧ u.inReset = true := by decide

theorem test_meets_HeadResetsActAndRelease_10 :
    let s : State := { pins := { internalHeld := true, srstLow := true } };
    let u : State := ({ s with pins := { s.pins with internalHeld := false } } : State).advance 500;
    s.pins.internalHeld = true ∧ u = ({ s with pins := { s.pins with internalHeld := false } } : State).advance 500 ∧ u.inReset = true := by decide

theorem test_meets_DirectTransportSetsUp_0 :
    let u : Nat := 0;
    let iface : Nat := 0;
    let w : Nat := 0;
    let s : State := ((({ Wit.ldt Wit.est with host := { ifaces := [(0, { port := 0 })] } } : State).set (F.LDT_LISTEN_EN 0 0) 1).set (F.LDT_LISTEN_IF 0 0) 0);
    let data : List Nat := [1, 0, 0, 0, 0, 0, 0, 0, 1, 2, 1, 0] ++ List.replicate 1707 0;
    let n : Nat := 1;
    u < 2 ∧ s.ldtServing u = true ∧ s.ldtListens u iface = true ∧ helloOk data = true ∧ s.helloHeld u data = none ∧ s.freeConn u = some n ∧ s.freeAccept u = some w := by decide +kernel

theorem test_meets_DirectTransportSetsUp_1 :
    let u : Nat := 0;
    u < 2 := by decide

theorem test_meets_DirectTransportSetsUp_2 :
    let u : Nat := 0;
    let iface : Nat := 0;
    let n : Nat := 0;
    let data : List Nat := [1, 0, 0, 0, 0, 0, 0, 0, 1, 2, 1, 0] ++ List.replicate 1707 0;
    let x : LdtConn := { Wit.est with state := 2, scid := 1 };
    let s : State := ((({ Wit.ldt x with host := { ifaces := [(0, { port := 0 })] } } : State).set (F.LDT_LISTEN_EN 0 0) 1).set (F.LDT_LISTEN_IF 0 0) 0);
    u < 2 ∧ s.accepts Blk.LDT u = true ∧ s.ldtListens u iface = true ∧ helloOk data = true ∧ s.helloHeld u data = some (n, x) := by decide +kernel

theorem test_meets_DirectTransportSetsUp_3 :
    let u : Nat := 0;
    let iface : Nat := 0;
    let s : State := ((({ Wit.ldt Wit.est with host := { ifaces := [(0, { port := 0 })] } } : State).set (F.LDT_LISTEN_EN 0 0) 1).set (F.LDT_LISTEN_IF 0 0) 0);
    let data : List Nat := [1, 0, 0, 0, 0, 0, 0, 0, 1, 2, 1, 0] ++ List.replicate 1707 0;
    u < 2 ∧ s.accepts Blk.LDT u = true ∧ s.ldtListens u iface = true ∧ helloOk data = true ∧ s.helloHeld u data = none := by decide +kernel

theorem test_meets_DirectTransportSetsUp_4 :
    let u : Nat := 0;
    let m : Nat := 3;
    let w : Nat := 3;
    let s : State := { ldt := { acceptQ := [3], slots := [(3, ⟨0, 0, 0, false⟩)] } };
    u < 2 ∧ s.judge m (ldtSlot u 1) 0x100 true false = none ∧ s.ldt.acceptQ.find? (fun w => w / 64 == u) = some w := by decide

theorem test_meets_DirectTransportSetsUp_5 :
    let u : Nat := 0;
    let s : State := {};
    let m : Nat := 3;
    u < 2 ∧ s.judge m (ldtSlot u 1) 0x100 true false = none ∧ s.ldt.acceptQ.find? (fun w => w / 64 == u) = none := by decide

theorem test_meets_DirectTransportSetsUp_6 :
    let u : Nat := 0;
    let m : Nat := 3;
    let slot : Nat := 3;
    let a : AcceptSlot := ⟨0, 0, 0, false⟩;
    let s : State := { ldt := { acceptQ := [3], slots := [(3, ⟨0, 0, 0, false⟩)] } };
    u < 2 ∧ slot < 64 ∧ s.judge m (ldtSlot u 1) 0x110 true true = none ∧ AL.get (64 * u + slot) s.ldt.slots = some a ∧ a.yes = false := by decide

theorem test_meets_DirectTransportSetsUp_7 :
    let u : Nat := 0;
    let slot : Nat := 3;
    let a : AcceptSlot := ⟨0, 0, 0, false⟩;
    let s : State := { ldt := { acceptQ := [3], slots := [(3, ⟨0, 0, 0, false⟩)] }, time := { tbFx := 524288000 * 1024 * 1000000 } };
    u < 2 ∧ slot < 64 ∧ AL.get (64 * u + slot) s.ldt.slots = some a ∧ a.yes = false ∧ a.beat + 1024 * s.get (F.LDT_TMO_CFG_ACCEPT_TMO u) ≤ s.beat := by decide

theorem test_meets_DirectTransportSetsUp_8 :
    let u : Nat := 0;
    let dcid : Nat := 0;
    let n : Nat := 0;
    let data : List Nat := [];
    let x : LdtConn := { state := 1, initiator := true };
    let s : State := Wit.ldt { state := 1, initiator := true };
    u < 2 ∧ s.connNamed u dcid = some (n, x) ∧ x.initiator = true ∧ x.state = 1 ∧ data.getD 10 0 = 0 := by decide

theorem test_meets_DirectTransportSetsUp_9 :
    let u : Nat := 0;
    let dcid : Nat := 0;
    let n : Nat := 0;
    let x : LdtConn := { state := 1, initiator := true };
    let s : State := Wit.ldt { state := 1, initiator := true };
    u < 2 ∧ s.connNamed u dcid = some (n, x) ∧ x.initiator = true ∧ x.state = 1 := by decide

theorem test_meets_DirectTransportSetsUp_10 :
    let u : Nat := 0;
    u < 2 := by decide

theorem test_meets_DirectTransportSetsUp_11 :
    let u : Nat := 0;
    let dcid : Nat := 0;
    let n : Nat := 0;
    let x : LdtConn := { state := 2 };
    let s : State := Wit.ldt { state := 2 };
    u < 2 ∧ s.connNamed u dcid = some (n, x) ∧ x.state = 2 ∧ s.ldtServing u = true ∧ s.ldtListens u x.iface = true := by decide

theorem test_meets_DirectTransportSetsUp_12 :
    let n : Nat := 0;
    let x : LdtConn := { state := 2 };
    let s : State := { Wit.ldt { state := 2 } with time := { tbFx := 524288000 * 1024 * 1000000 } };
    s.lconn n = some x ∧ x.state = 2 ∧ x.stateBeat + 1024 * s.get (F.LDT_TMO_CFG_ACCEPT_TMO (ldtUnit n)) ≤ s.beat := by decide

theorem test_meets_DirectTransportCarriesPackets_0 :
    (let s := Wit.ldt Wit.est; let h : LdtHdr := { dcid := 0, psn := 0 }; s.LdtTurn 0 h 0 Wit.est ∧ ∃ z, (s.ldtHeard 0 Wit.est h).lconn 0 = some z) := ⟨by decide, Option.isSome_iff_exists.mp (State.ldtHeard_lconn _ (y := Wit.est) (by decide))⟩

theorem test_meets_DirectTransportCarriesPackets_1 :
    (let s := Wit.ldt Wit.est; let h : LdtHdr := { dcid := 0, psn := 0 }; s.LdtTurn 0 h 0 Wit.est ∧ ∃ z, (s.ldtHeard 0 Wit.est h).lconn 0 = some z) := ⟨by decide, Option.isSome_iff_exists.mp (State.ldtHeard_lconn _ (y := Wit.est) (by decide))⟩

theorem test_meets_DirectTransportCarriesPackets_2 :
    let u : Nat := 0;
    let s : State := {};
    let h : LdtHdr := { dcid := 0, psn := 0 };
    u < 2 ∧ ((s.ldtServing u = false ∨ (h.hdrOk = true ∧ s.connNamed u h.dcid = none))) := by decide

theorem test_meets_DirectTransportCarriesPackets_3 :
    let u : Nat := 0;
    let h : LdtHdr := { dcid := 0, psn := 0, hdrOk := false };
    let s : State := Wit.ldt Wit.est;
    u < 2 ∧ s.ldtServing u = true ∧ h.hdrOk = false := by decide

theorem test_meets_DirectTransportCarriesPackets_4 :
    let u : Nat := 0;
    let n : Nat := 0;
    let h : LdtHdr := { dcid := 0, psn := 0 };
    let x : LdtConn := { Wit.est with state := 2 };
    let s : State := Wit.ldt { Wit.est with state := 2 };
    u < 2 ∧ s.ldtServing u = true ∧ h.hdrOk = true ∧ s.connNamed u h.dcid = some (n, x) ∧ (((x.state ≠ 3 ∧ x.state ≠ 4) ∨ s.ldtListens u x.iface = false)) := by decide

theorem test_meets_DirectTransportCarriesPackets_5 :
    (let x : LdtConn := { Wit.est with resident := false, missQ := List.replicate 4096 ⟨1, { dcid := 0, psn := 0 }, [], 0⟩ }; (Wit.ldt x).ldtServing 0 = true ∧ (Wit.ldt x).connNamed 0 0 = some (0, x) ∧ x.state = 3 ∧ (Wit.ldt x).ldtListens 0 x.iface = true ∧ x.resident = false ∧ 4096 ≤ (Wit.ldt x).missCount 0) := by decide +kernel

theorem test_meets_DirectTransportCarriesPackets_6 :
    let u : Nat := 0;
    let n : Nat := 0;
    let h : LdtHdr := { dcid := 0, psn := 0 };
    let x : LdtConn := { Wit.est with resident := false };
    let s : State := Wit.ldt { Wit.est with resident := false };
    u < 2 ∧ s.ldtServing u = true ∧ h.hdrOk = true ∧ s.connNamed u h.dcid = some (n, x) ∧ ((x.state = 3 ∨ x.state = 4)) ∧ s.ldtListens u x.iface = true ∧ ((x.resident = false ∨ x.missQ ≠ [])) ∧ s.missCount u < 4096 := by decide

theorem test_meets_DirectTransportCarriesPackets_7 :
    (let s := Wit.ldt Wit.est; s.ldtServing 0 = true ∧ s.connNamed 0 0 = some (0, Wit.est) ∧ s.lconn 0 = some Wit.est ∧ s.ldtListens 0 Wit.est.iface = true ∧ s.ldtReceive 0 = ((s.ldtReceive 0).1, (s.ldtReceive 0).2)) := ⟨by decide, by decide, by decide, by decide, rfl⟩

theorem test_meets_DirectTransportCarriesPackets_8 :
    let n : Nat := 0;
    let x : LdtConn := { state := 3, missQ := [⟨1, { dcid := 0, psn := 0 }, [], 0⟩] };
    let s : State := Wit.ldt { state := 3, missQ := [⟨1, { dcid := 0, psn := 0 }, [], 0⟩] };
    let u : State := s;
    s.lconn n = some x ∧ x.resident = false ∧ x.missQ ≠ [] ∧ s.ctxRoom (ldtUnit n) = (true, u) := by decide

theorem test_meets_DirectTransportCarriesPackets_9 :
    let u : Nat := 0;
    let n : Nat := 0;
    let m : Nat := 3;
    let x : LdtConn := Wit.est;
    let s : State := Wit.ldt Wit.est;
    u < 2 ∧ s.judge m (ldtSlot u 1) 0x130 true true = none ∧ s.get (F.LDT_CONN_CMD_STAT_BUSY u) ≠ 1 ∧ s.lconn (u * 2 ^ 19 + n % 2 ^ 19) = some x ∧ x.state = 3 := by decide

theorem test_meets_DirectTransportCarriesPackets_10 :
    let u : Nat := 0;
    let s : State := {};
    let m : Nat := 3;
    u < 2 ∧ s.judge m (ldtSlot u 1) 0x130 true true = none := by decide

theorem test_meets_DirectTransportCarriesPackets_11 :
    let n : Nat := 0;
    let x : LdtConn := { Wit.est with rekey := true };
    let s : State := Wit.ldt { Wit.est with rekey := true };
    s.lconn n = some x ∧ (x.rekey = true ∨ (s.get (F.LDT_CFG_REKEY_BEATS (ldtUnit n)) ≠ 0 ∧ x.genBeat + 65536 * s.get (F.LDT_CFG_REKEY_BEATS (ldtUnit n)) ≤ s.beat)) := by decide

theorem test_meets_DirectTransportCarriesPackets_12 :
    let n : Nat := 0;
    let x : LdtConn := Wit.est;
    let s : State := { Wit.ldt Wit.est with time := { tbFx := 524288000 * 4096 * 1000000 } };
    s.lconn n = some x ∧ x.state = 3 ∧ x.lastTx + 4096 * s.get (F.LDT_TMO_CFG_IDLE_TMO (ldtUnit n)) ≤ s.beat := by decide

theorem test_meets_DirectTransportCarriesPackets_13 :
    let n : Nat := 0;
    let x : LdtConn := Wit.est;
    let s : State := { Wit.ldt Wit.est with time := { tbFx := 524288000 * 16384 * 1000000 } };
    s.lconn n = some x ∧ x.state = 3 ∧ x.lastRx + 16384 * s.get (F.LDT_TMO_CFG_IDLE_TMO (ldtUnit n)) ≤ s.beat := by decide

theorem test_meets_DirectTransportCarriesPackets_14 :
    let n : Nat := 0;
    let x : LdtConn := { Wit.est with ackCnt := 1 };
    let s : State := { Wit.ldt { Wit.est with ackCnt := 1 } with time := { tbFx := 524288000 * 1000000 } };
    s.lconn n = some x ∧ x.state = 3 ∧ 0 < x.ackCnt ∧ x.ackBeat + s.get (F.LDT_ACK_CFG_ACK_DELAY (ldtUnit n)) ≤ s.beat := by decide

theorem test_meets_DirectTransportCarriesPackets_15 :
    let n : Nat := 0;
    let psn : Nat := 0;
    let p : LdtPkt := { ptype := 1, kgen := 0, psn := 0, msn := 0, mlen := 0, off := 0, len := 0 };
    let x : LdtConn := { Wit.est with pkts := [p] };
    let s : State := { Wit.ldt { Wit.est with pkts := [p] } with time := { tbFx := 524288000 * 1000000 } };
    let u : State := ((s.bump (F.LDT_CNT_RTO_COUNT (ldtUnit n))).pathDown n p.path (s.get (F.LDT_RATE_CFG_RTO_STEP (ldtUnit n)))).modPath n p.path (fun q => { q with rtoRun := q.rtoRun + 1 });
    s.lconn n = some x ∧ x.pkts.find? (fun q => q.psn == psn) = some p ∧ p.sentNs + s.ldtRto n x ≤ s.tb ∧ u = ((s.bump (F.LDT_CNT_RTO_COUNT (ldtUnit n))).pathDown n p.path (s.get (F.LDT_RATE_CFG_RTO_STEP (ldtUnit n)))).modPath n p.path (fun q => { q with rtoRun := q.rtoRun + 1 }) := by decide

theorem test_meets_DirectTransportCarriesPackets_16 :
    let n : Nat := 0;
    let msn : Nat := 0;
    let ptype : Nat := 1;
    let m : LdtTx := { msn := 0, ptype := 1, mlen := 1, data := 0, begun := true };
    let x : LdtConn := { Wit.est with msgs := [m] };
    let s : State := { Wit.ldt { Wit.est with msgs := [m] } with time := { tbFx := 524288000 * 1000000 } };
    s.lconn n = some x ∧ x.msgs.find? (fun m => m.ptype == ptype && m.msn == msn) = some m ∧ m.begun = true ∧ m.beat + s.get (F.LDT_TMO_CFG_MSG_TMO (ldtUnit n)) ≤ s.beat ∧ m.expiries < s.get (F.LDT_TMO_CFG_MSG_RETRIES (ldtUnit n)) := by decide

theorem test_meets_DirectTransportCarriesPackets_17 :
    let n : Nat := 0;
    let msn : Nat := 0;
    let ptype : Nat := 1;
    let m : LdtTx := { msn := 0, ptype := 1, mlen := 1, data := 0, begun := true, expiries := 255 };
    let x : LdtConn := { Wit.est with msgs := [m] };
    let s : State := { Wit.ldt { Wit.est with msgs := [m] } with time := { tbFx := 524288000 * 1000000 } };
    s.lconn n = some x ∧ x.msgs.find? (fun m => m.ptype == ptype && m.msn == msn) = some m ∧ m.begun = true ∧ m.beat + s.get (F.LDT_TMO_CFG_MSG_TMO (ldtUnit n)) ≤ s.beat ∧ s.get (F.LDT_TMO_CFG_MSG_RETRIES (ldtUnit n)) ≤ m.expiries := by decide

theorem test_meets_DirectTransportCarriesPackets_18 :
    let n : Nat := 0;
    let msn : Nat := 0;
    let resp : Bool := false;
    let m : LdtRx := {};
    let x : LdtConn := { Wit.est with rxMsgs := [(0, m)] };
    let s : State := { Wit.ldt { Wit.est with rxMsgs := [(0, m)] } with time := { tbFx := 524288000 * 1000000 } };
    s.lconn n = some x ∧ AL.get msn (if resp then x.rxResps else x.rxMsgs) = some m ∧ m.done = false ∧ m.lastBeat + s.get (F.LDT_TMO_CFG_RX_MSG_TMO (ldtUnit n)) ≤ s.beat := by decide

theorem test_meets_DirectTransportCarriesPackets_19 :
    let n : Nat := 0;
    let k : Nat := 0;
    let x : LdtConn := { Wit.est with pathSt := [(0, { used := true })] };
    let s : State := { Wit.ldt x with time := { tbFx := 524288000 * 1000000 } };
    s.lconn n = some x ∧ k < x.paths ∧ (x.path k).used = true ∧ (x.path k).quietBeat + s.get (F.LDT_RATE_CFG_INC_BEATS (ldtUnit n)) ≤ s.beat := by decide

theorem test_meets_DirectTransportCarriesPackets_20 :
    let n : Nat := 0;
    let k : Nat := 0;
    let b : Nat := 0;
    let x : LdtConn := { Wit.est with pathSt := [(0, { offUntil := some 0 })] };
    let s : State := Wit.ldt x;
    s.lconn n = some x ∧ (x.path k).offUntil = some b ∧ b ≤ s.beat := by decide

theorem test_meets_BlockCommandsBecomeRequests_0 :
    let n : Nat := 0;
    let rest : List (Nat × Nat) := [];
    let d : Nat := Wit.cap 1 [(2, 1), (4, 4096 * 2 ^ 32)];
    let x : LdtConn := { Wit.est with inbox := [(64, d)] };
    let s : State := Wit.ldt x;
    let u : State := (s.modLconn n (fun x => { x with inbox := rest })).bump F.LBC_CNT_CMDS_COUNT;
    let r : Req := { ((u.lbcFlags d).bump F.LBC_CNT_READS_COUNT).capReq n x d .read 0 with compressed := bitOf d 54, pfxName := ((u.lbcFlags d).bump F.LBC_CNT_READS_COUNT).pfxField d };
    let t : Nat := (((u.lbcFlags d).bump F.LBC_CNT_READS_COUNT).newReq r true).1;
    let v : State := (((u.lbcFlags d).bump F.LBC_CNT_READS_COUNT).newReq r true).2;
    s.LbcTurn n 1 x d rest u ∧ r = { ((u.lbcFlags d).bump F.LBC_CNT_READS_COUNT).capReq n x d .read 0 with compressed := bitOf d 54, pfxName := ((u.lbcFlags d).bump F.LBC_CNT_READS_COUNT).pfxField d } ∧ (t, v) = ((u.lbcFlags d).bump F.LBC_CNT_READS_COUNT).newReq r (true && (((u.lbcFlags d).bump F.LBC_CNT_READS_COUNT).liveVol r.vol).isSome) ∧ v.capStops (capClean d 32 0 0 && decide (1 ≤ r.blocks) && decide (r.blocks ≤ 256) && decide ((if r.compressed then 16 else 4096 * r.blocks) ≤ r.bufLen)) true r.vol = 0 ∧ v.takeNotice r.assoc r.vol = none := by decide

theorem test_meets_BlockCommandsBecomeRequests_1 :
    let n : Nat := 0;
    let rest : List (Nat × Nat) := [];
    let d : Nat := Wit.cap 1 [(2, 0)];
    let x : LdtConn := { Wit.est with inbox := [(64, d)] };
    let s : State := Wit.ldt x;
    let u : State := (s.modLconn n (fun x => { x with inbox := rest })).bump F.LBC_CNT_CMDS_COUNT;
    let r : Req := { ((u.lbcFlags d).bump F.LBC_CNT_READS_COUNT).capReq n x d .read 0 with compressed := bitOf d 54, pfxName := ((u.lbcFlags d).bump F.LBC_CNT_READS_COUNT).pfxField d };
    let t : Nat := (((u.lbcFlags d).bump F.LBC_CNT_READS_COUNT).newReq r true).1;
    let v : State := (((u.lbcFlags d).bump F.LBC_CNT_READS_COUNT).newReq r true).2;
    let c : Nat := Cond.LBC_CMD_INVALID;
    s.LbcTurn n 1 x d rest u ∧ r = { ((u.lbcFlags d).bump F.LBC_CNT_READS_COUNT).capReq n x d .read 0 with compressed := bitOf d 54, pfxName := ((u.lbcFlags d).bump F.LBC_CNT_READS_COUNT).pfxField d } ∧ (t, v) = ((u.lbcFlags d).bump F.LBC_CNT_READS_COUNT).newReq r (true && (((u.lbcFlags d).bump F.LBC_CNT_READS_COUNT).liveVol r.vol).isSome) ∧ v.capStops (capClean d 32 0 0 && decide (1 ≤ r.blocks) && decide (r.blocks ≤ 256) && decide ((if r.compressed then 16 else 4096 * r.blocks) ≤ r.bufLen)) true r.vol = c ∧ c ≠ 0 := by decide

theorem test_meets_BlockCommandsBecomeRequests_2 :
    let n : Nat := 0;
    let rest : List (Nat × Nat) := [];
    let d : Nat := Wit.cap 1 [(2, 1), (4, 4096 * 2 ^ 32)];
    let x : LdtConn := { Wit.est with inbox := [(64, d)] };
    let s : State := { Wit.ldt x with write := { notices := [(ldtAssoc 0, some 0)] } };
    let u : State := (s.modLconn n (fun x => { x with inbox := rest })).bump F.LBC_CNT_CMDS_COUNT;
    let r : Req := { ((u.lbcFlags d).bump F.LBC_CNT_READS_COUNT).capReq n x d .read 0 with compressed := bitOf d 54, pfxName := ((u.lbcFlags d).bump F.LBC_CNT_READS_COUNT).pfxField d };
    let t : Nat := (((u.lbcFlags d).bump F.LBC_CNT_READS_COUNT).newReq r true).1;
    let v : State := (((u.lbcFlags d).bump F.LBC_CNT_READS_COUNT).newReq r true).2;
    let w : State := v.modWrite (fun w => { w with notices := [] });
    s.LbcTurn n 1 x d rest u ∧ r = { ((u.lbcFlags d).bump F.LBC_CNT_READS_COUNT).capReq n x d .read 0 with compressed := bitOf d 54, pfxName := ((u.lbcFlags d).bump F.LBC_CNT_READS_COUNT).pfxField d } ∧ (t, v) = ((u.lbcFlags d).bump F.LBC_CNT_READS_COUNT).newReq r (true && (((u.lbcFlags d).bump F.LBC_CNT_READS_COUNT).liveVol r.vol).isSome) ∧ v.capStops (capClean d 32 0 0 && decide (1 ≤ r.blocks) && decide (r.blocks ≤ 256) && decide ((if r.compressed then 16 else 4096 * r.blocks) ≤ r.bufLen)) true r.vol = 0 ∧ v.takeNotice r.assoc r.vol = some w := by decide

theorem test_meets_BlockCommandsBecomeRequests_3 :
    let n : Nat := 0;
    let rest : List (Nat × Nat) := [];
    let d : Nat := Wit.cap 2 [(2, 1), (4, 4096 * 2 ^ 32)];
    let x : LdtConn := { Wit.est with inbox := [(64, d)] };
    let s : State := Wit.ldt x;
    let u : State := (s.modLconn n (fun x => { x with inbox := rest })).bump F.LBC_CNT_CMDS_COUNT;
    let r : Req := ((u.lbcFlags d).bump F.LBC_CNT_WRITES_COUNT).capReq n x d .write 4;
    let t : Nat := (((u.lbcFlags d).bump F.LBC_CNT_WRITES_COUNT).newReq r true).1;
    let v : State := (((u.lbcFlags d).bump F.LBC_CNT_WRITES_COUNT).newReq r true).2;
    s.LbcTurn n 2 x d rest u ∧ r = ((u.lbcFlags d).bump F.LBC_CNT_WRITES_COUNT).capReq n x d .write 4 ∧ (t, v) = ((u.lbcFlags d).bump F.LBC_CNT_WRITES_COUNT).newReq r (true && (((u.lbcFlags d).bump F.LBC_CNT_WRITES_COUNT).liveVol r.vol).isSome) ∧ v.capStops (capClean d 32 0 0 && decide (1 ≤ r.blocks) && decide (r.blocks ≤ 256) && decide (4096 * r.blocks ≤ r.bufLen)) true r.vol = 0 ∧ v.takeNotice r.assoc r.vol = none := by decide

theorem test_meets_BlockCommandsBecomeRequests_4 :
    let n : Nat := 0;
    let rest : List (Nat × Nat) := [];
    let d : Nat := Wit.cap 2 [(2, 1)];
    let x : LdtConn := { Wit.est with inbox := [(64, d)] };
    let s : State := Wit.ldt x;
    let u : State := (s.modLconn n (fun x => { x with inbox := rest })).bump F.LBC_CNT_CMDS_COUNT;
    let r : Req := ((u.lbcFlags d).bump F.LBC_CNT_WRITES_COUNT).capReq n x d .write 4;
    let t : Nat := (((u.lbcFlags d).bump F.LBC_CNT_WRITES_COUNT).newReq r true).1;
    let v : State := (((u.lbcFlags d).bump F.LBC_CNT_WRITES_COUNT).newReq r true).2;
    let c : Nat := Cond.LBC_CMD_INVALID;
    s.LbcTurn n 2 x d rest u ∧ r = ((u.lbcFlags d).bump F.LBC_CNT_WRITES_COUNT).capReq n x d .write 4 ∧ (t, v) = ((u.lbcFlags d).bump F.LBC_CNT_WRITES_COUNT).newReq r (true && (((u.lbcFlags d).bump F.LBC_CNT_WRITES_COUNT).liveVol r.vol).isSome) ∧ v.capStops (capClean d 32 0 0 && decide (1 ≤ r.blocks) && decide (r.blocks ≤ 256) && decide (4096 * r.blocks ≤ r.bufLen)) true r.vol = c ∧ c ≠ 0 := by decide

theorem test_meets_BlockCommandsBecomeRequests_5 :
    let n : Nat := 0;
    let rest : List (Nat × Nat) := [];
    let d : Nat := Wit.cap 2 [(2, 1), (4, 4096 * 2 ^ 32)];
    let x : LdtConn := { Wit.est with inbox := [(64, d)] };
    let s : State := { Wit.ldt x with write := { notices := [(ldtAssoc 0, some 0)] } };
    let u : State := (s.modLconn n (fun x => { x with inbox := rest })).bump F.LBC_CNT_CMDS_COUNT;
    let r : Req := ((u.lbcFlags d).bump F.LBC_CNT_WRITES_COUNT).capReq n x d .write 4;
    let t : Nat := (((u.lbcFlags d).bump F.LBC_CNT_WRITES_COUNT).newReq r true).1;
    let v : State := (((u.lbcFlags d).bump F.LBC_CNT_WRITES_COUNT).newReq r true).2;
    let w : State := v.modWrite (fun w => { w with notices := [] });
    s.LbcTurn n 2 x d rest u ∧ r = ((u.lbcFlags d).bump F.LBC_CNT_WRITES_COUNT).capReq n x d .write 4 ∧ (t, v) = ((u.lbcFlags d).bump F.LBC_CNT_WRITES_COUNT).newReq r (true && (((u.lbcFlags d).bump F.LBC_CNT_WRITES_COUNT).liveVol r.vol).isSome) ∧ v.capStops (capClean d 32 0 0 && decide (1 ≤ r.blocks) && decide (r.blocks ≤ 256) && decide (4096 * r.blocks ≤ r.bufLen)) true r.vol = 0 ∧ v.takeNotice r.assoc r.vol = some w := by decide

theorem test_meets_BlockCommandsBecomeRequests_6 :
    let n : Nat := 0;
    let rest : List (Nat × Nat) := [];
    let d : Nat := Wit.cap 3 [(2, 1)];
    let x : LdtConn := { Wit.est with inbox := [(64, d)] };
    let s : State := Wit.ldt x;
    let u : State := (s.modLconn n (fun x => { x with inbox := rest })).bump F.LBC_CNT_CMDS_COUNT;
    let r : Req := { ((u.lbcFlags d).bump F.LBC_CNT_WRITES_COUNT).capReq n x d .zeroes 4 with ranges := [(bitsOf d 64 38, capWord d 2 % 2 ^ 32)] };
    let t : Nat := (((u.lbcFlags d).bump F.LBC_CNT_WRITES_COUNT).newReq r true).1;
    let v : State := (((u.lbcFlags d).bump F.LBC_CNT_WRITES_COUNT).newReq r true).2;
    s.LbcTurn n 3 x d rest u ∧ r = { ((u.lbcFlags d).bump F.LBC_CNT_WRITES_COUNT).capReq n x d .zeroes 4 with ranges := [(bitsOf d 64 38, capWord d 2 % 2 ^ 32)] } ∧ (t, v) = ((u.lbcFlags d).bump F.LBC_CNT_WRITES_COUNT).newReq r (true && (((u.lbcFlags d).bump F.LBC_CNT_WRITES_COUNT).liveVol r.vol).isSome) ∧ v.capStops (capClean d 32 0 0 && decide (1 ≤ r.blocks) && decide (r.blocks ≤ 65536)) true r.vol = 0 ∧ v.takeNotice r.assoc r.vol = none := by decide

theorem test_meets_BlockCommandsBecomeRequests_7 :
    let n : Nat := 0;
    let rest : List (Nat × Nat) := [];
    let d : Nat := Wit.cap 3 [(2, 65537)];
    let x : LdtConn := { Wit.est with inbox := [(64, d)] };
    let s : State := Wit.ldt x;
    let u : State := (s.modLconn n (fun x => { x with inbox := rest })).bump F.LBC_CNT_CMDS_COUNT;
    let r : Req := { ((u.lbcFlags d).bump F.LBC_CNT_WRITES_COUNT).capReq n x d .zeroes 4 with ranges := [(bitsOf d 64 38, capWord d 2 % 2 ^ 32)] };
    let t : Nat := (((u.lbcFlags d).bump F.LBC_CNT_WRITES_COUNT).newReq r true).1;
    let v : State := (((u.lbcFlags d).bump F.LBC_CNT_WRITES_COUNT).newReq r true).2;
    let c : Nat := Cond.LBC_CMD_INVALID;
    s.LbcTurn n 3 x d rest u ∧ r = { ((u.lbcFlags d).bump F.LBC_CNT_WRITES_COUNT).capReq n x d .zeroes 4 with ranges := [(bitsOf d 64 38, capWord d 2 % 2 ^ 32)] } ∧ (t, v) = ((u.lbcFlags d).bump F.LBC_CNT_WRITES_COUNT).newReq r (true && (((u.lbcFlags d).bump F.LBC_CNT_WRITES_COUNT).liveVol r.vol).isSome) ∧ v.capStops (capClean d 32 0 0 && decide (1 ≤ r.blocks) && decide (r.blocks ≤ 65536)) true r.vol = c ∧ c ≠ 0 := by decide

theorem test_meets_BlockCommandsBecomeRequests_8 :
    let n : Nat := 0;
    let rest : List (Nat × Nat) := [];
    let d : Nat := Wit.cap 3 [(2, 1)];
    let x : LdtConn := { Wit.est with inbox := [(64, d)] };
    let s : State := { Wit.ldt x with write := { notices := [(ldtAssoc 0, some 0)] } };
    let u : State := (s.modLconn n (fun x => { x with inbox := rest })).bump F.LBC_CNT_CMDS_COUNT;
    let r : Req := { ((u.lbcFlags d).bump F.LBC_CNT_WRITES_COUNT).capReq n x d .zeroes 4 with ranges := [(bitsOf d 64 38, capWord d 2 % 2 ^ 32)] };
    let t : Nat := (((u.lbcFlags d).bump F.LBC_CNT_WRITES_COUNT).newReq r true).1;
    let v : State := (((u.lbcFlags d).bump F.LBC_CNT_WRITES_COUNT).newReq r true).2;
    let w : State := v.modWrite (fun w => { w with notices := [] });
    s.LbcTurn n 3 x d rest u ∧ r = { ((u.lbcFlags d).bump F.LBC_CNT_WRITES_COUNT).capReq n x d .zeroes 4 with ranges := [(bitsOf d 64 38, capWord d 2 % 2 ^ 32)] } ∧ (t, v) = ((u.lbcFlags d).bump F.LBC_CNT_WRITES_COUNT).newReq r (true && (((u.lbcFlags d).bump F.LBC_CNT_WRITES_COUNT).liveVol r.vol).isSome) ∧ v.capStops (capClean d 32 0 0 && decide (1 ≤ r.blocks) && decide (r.blocks ≤ 65536)) true r.vol = 0 ∧ v.takeNotice r.assoc r.vol = some w := by decide

theorem test_meets_BlockCommandsBecomeRequests_9 :
    let n : Nat := 0;
    let rest : List (Nat × Nat) := [];
    let d : Nat := Wit.cap 4 [(2, 1), (4, 4096 * 2 ^ 32)];
    let x : LdtConn := { Wit.est with inbox := [(64, d)] };
    let s : State := Wit.ldt x;
    let u : State := (s.modLconn n (fun x => { x with inbox := rest })).bump F.LBC_CNT_CMDS_COUNT;
    let r : Req := { ((u.lbcFlags d).bump F.LBC_CNT_WRITES_COUNT).capReq n x d .dealloc 4 with blocks := 0, bufLen := capWord d 2 % 2 ^ 32, stage := if capClean d 32 0 0 && decide (1 ≤ capWord d 2 % 2 ^ 32) && decide (capWord d 2 % 2 ^ 32 ≤ 256) && decide (16 * (capWord d 2 % 2 ^ 32) ≤ capWord d 4 / 2 ^ 32) then .awaitData else .resolving };
    let t : Nat := (((u.lbcFlags d).bump F.LBC_CNT_WRITES_COUNT).newReq r true).1;
    let v : State := (((u.lbcFlags d).bump F.LBC_CNT_WRITES_COUNT).newReq r true).2;
    s.LbcTurn n 4 x d rest u ∧ r = { ((u.lbcFlags d).bump F.LBC_CNT_WRITES_COUNT).capReq n x d .dealloc 4 with blocks := 0, bufLen := capWord d 2 % 2 ^ 32, stage := if capClean d 32 0 0 && decide (1 ≤ capWord d 2 % 2 ^ 32) && decide (capWord d 2 % 2 ^ 32 ≤ 256) && decide (16 * (capWord d 2 % 2 ^ 32) ≤ capWord d 4 / 2 ^ 32) then .awaitData else .resolving } ∧ (t, v) = ((u.lbcFlags d).bump F.LBC_CNT_WRITES_COUNT).newReq r (true && (((u.lbcFlags d).bump F.LBC_CNT_WRITES_COUNT).liveVol r.vol).isSome) ∧ v.capStops (capClean d 32 0 0 && decide (1 ≤ capWord d 2 % 2 ^ 32) && decide (capWord d 2 % 2 ^ 32 ≤ 256) && decide (16 * (capWord d 2 % 2 ^ 32) ≤ capWord d 4 / 2 ^ 32)) true r.vol = 0 ∧ v.takeNotice r.assoc r.vol = none := by decide

theorem test_meets_BlockCommandsBecomeRequests_10 :
    let n : Nat := 0;
    let rest : List (Nat × Nat) := [];
    let d : Nat := Wit.cap 4 [(2, 257), (4, 4096 * 2 ^ 32)];
    let x : LdtConn := { Wit.est with inbox := [(64, d)] };
    let s : State := Wit.ldt x;
    let u : State := (s.modLconn n (fun x => { x with inbox := rest })).bump F.LBC_CNT_CMDS_COUNT;
    let r : Req := { ((u.lbcFlags d).bump F.LBC_CNT_WRITES_COUNT).capReq n x d .dealloc 4 with blocks := 0, bufLen := capWord d 2 % 2 ^ 32, stage := if capClean d 32 0 0 && decide (1 ≤ capWord d 2 % 2 ^ 32) && decide (capWord d 2 % 2 ^ 32 ≤ 256) && decide (16 * (capWord d 2 % 2 ^ 32) ≤ capWord d 4 / 2 ^ 32) then .awaitData else .resolving };
    let t : Nat := (((u.lbcFlags d).bump F.LBC_CNT_WRITES_COUNT).newReq r true).1;
    let v : State := (((u.lbcFlags d).bump F.LBC_CNT_WRITES_COUNT).newReq r true).2;
    let c : Nat := Cond.LBC_CMD_INVALID;
    s.LbcTurn n 4 x d rest u ∧ r = { ((u.lbcFlags d).bump F.LBC_CNT_WRITES_COUNT).capReq n x d .dealloc 4 with blocks := 0, bufLen := capWord d 2 % 2 ^ 32, stage := if capClean d 32 0 0 && decide (1 ≤ capWord d 2 % 2 ^ 32) && decide (capWord d 2 % 2 ^ 32 ≤ 256) && decide (16 * (capWord d 2 % 2 ^ 32) ≤ capWord d 4 / 2 ^ 32) then .awaitData else .resolving } ∧ (t, v) = ((u.lbcFlags d).bump F.LBC_CNT_WRITES_COUNT).newReq r (true && (((u.lbcFlags d).bump F.LBC_CNT_WRITES_COUNT).liveVol r.vol).isSome) ∧ v.capStops (capClean d 32 0 0 && decide (1 ≤ capWord d 2 % 2 ^ 32) && decide (capWord d 2 % 2 ^ 32 ≤ 256) && decide (16 * (capWord d 2 % 2 ^ 32) ≤ capWord d 4 / 2 ^ 32)) true r.vol = c ∧ c ≠ 0 := by decide

theorem test_meets_BlockCommandsBecomeRequests_11 :
    let n : Nat := 0;
    let rest : List (Nat × Nat) := [];
    let d : Nat := Wit.cap 4 [(2, 1), (4, 4096 * 2 ^ 32)];
    let x : LdtConn := { Wit.est with inbox := [(64, d)] };
    let s : State := { Wit.ldt x with write := { notices := [(ldtAssoc 0, some 0)] } };
    let u : State := (s.modLconn n (fun x => { x with inbox := rest })).bump F.LBC_CNT_CMDS_COUNT;
    let r : Req := { ((u.lbcFlags d).bump F.LBC_CNT_WRITES_COUNT).capReq n x d .dealloc 4 with blocks := 0, bufLen := capWord d 2 % 2 ^ 32, stage := if capClean d 32 0 0 && decide (1 ≤ capWord d 2 % 2 ^ 32) && decide (capWord d 2 % 2 ^ 32 ≤ 256) && decide (16 * (capWord d 2 % 2 ^ 32) ≤ capWord d 4 / 2 ^ 32) then .awaitData else .resolving };
    let t : Nat := (((u.lbcFlags d).bump F.LBC_CNT_WRITES_COUNT).newReq r true).1;
    let v : State := (((u.lbcFlags d).bump F.LBC_CNT_WRITES_COUNT).newReq r true).2;
    let w : State := v.modWrite (fun w => { w with notices := [] });
    s.LbcTurn n 4 x d rest u ∧ r = { ((u.lbcFlags d).bump F.LBC_CNT_WRITES_COUNT).capReq n x d .dealloc 4 with blocks := 0, bufLen := capWord d 2 % 2 ^ 32, stage := if capClean d 32 0 0 && decide (1 ≤ capWord d 2 % 2 ^ 32) && decide (capWord d 2 % 2 ^ 32 ≤ 256) && decide (16 * (capWord d 2 % 2 ^ 32) ≤ capWord d 4 / 2 ^ 32) then .awaitData else .resolving } ∧ (t, v) = ((u.lbcFlags d).bump F.LBC_CNT_WRITES_COUNT).newReq r (true && (((u.lbcFlags d).bump F.LBC_CNT_WRITES_COUNT).liveVol r.vol).isSome) ∧ v.capStops (capClean d 32 0 0 && decide (1 ≤ capWord d 2 % 2 ^ 32) && decide (capWord d 2 % 2 ^ 32 ≤ 256) && decide (16 * (capWord d 2 % 2 ^ 32) ≤ capWord d 4 / 2 ^ 32)) true r.vol = 0 ∧ v.takeNotice r.assoc r.vol = some w := by decide

theorem test_meets_BlockCommandsBecomeRequests_12 :
    let n : Nat := 0;
    let rest : List (Nat × Nat) := [];
    let d : Nat := Wit.cap 5 [];
    let x : LdtConn := { Wit.est with inbox := [(64, d)] };
    let s : State := Wit.ldt x;
    let u : State := (s.modLconn n (fun x => { x with inbox := rest })).bump F.LBC_CNT_CMDS_COUNT;
    let r : Req := { flushReq [bitsOf d 112 16] with origin := .ldt n (d % 2 ^ 32), assoc := ldtAssoc n, vol := bitsOf d 112 16, ordered := bitOf d 55 };
    let t : Nat := ((u.lbcFlags d).newReq r true).1;
    let v : State := ((u.lbcFlags d).newReq r true).2;
    s.LbcTurn n 5 x d rest u ∧ bitOf (capWord d 5) 0 = false ∧ r = { flushReq [bitsOf d 112 16] with origin := .ldt n (d % 2 ^ 32), assoc := ldtAssoc n, vol := bitsOf d 112 16, ordered := bitOf d 55 } ∧ (t, v) = (u.lbcFlags d).newReq r (true && ((u.lbcFlags d).liveVol r.vol).isSome) ∧ v.capStops (capClean d 32 1 0) true r.vol = 0 ∧ v.takeNotice r.assoc r.vol = none := by decide

theorem test_meets_BlockCommandsBecomeRequests_13 :
    let n : Nat := 0;
    let rest : List (Nat × Nat) := [];
    let d : Nat := Wit.cap 5 [(7, 1)];
    let x : LdtConn := { Wit.est with inbox := [(64, d)] };
    let s : State := Wit.ldt x;
    let u : State := (s.modLconn n (fun x => { x with inbox := rest })).bump F.LBC_CNT_CMDS_COUNT;
    let r : Req := { flushReq [bitsOf d 112 16] with origin := .ldt n (d % 2 ^ 32), assoc := ldtAssoc n, vol := bitsOf d 112 16, ordered := bitOf d 55 };
    let t : Nat := ((u.lbcFlags d).newReq r true).1;
    let v : State := ((u.lbcFlags d).newReq r true).2;
    let c : Nat := Cond.LBC_CMD_INVALID;
    s.LbcTurn n 5 x d rest u ∧ bitOf (capWord d 5) 0 = false ∧ r = { flushReq [bitsOf d 112 16] with origin := .ldt n (d % 2 ^ 32), assoc := ldtAssoc n, vol := bitsOf d 112 16, ordered := bitOf d 55 } ∧ (t, v) = (u.lbcFlags d).newReq r (true && ((u.lbcFlags d).liveVol r.vol).isSome) ∧ v.capStops (capClean d 32 1 0) true r.vol = c ∧ c ≠ 0 := by decide

theorem test_meets_BlockCommandsBecomeRequests_14 :
    let n : Nat := 0;
    let rest : List (Nat × Nat) := [];
    let d : Nat := Wit.cap 5 [];
    let x : LdtConn := { Wit.est with inbox := [(64, d)] };
    let s : State := { Wit.ldt x with write := { notices := [(ldtAssoc 0, some 0)] } };
    let u : State := (s.modLconn n (fun x => { x with inbox := rest })).bump F.LBC_CNT_CMDS_COUNT;
    let r : Req := { flushReq [bitsOf d 112 16] with origin := .ldt n (d % 2 ^ 32), assoc := ldtAssoc n, vol := bitsOf d 112 16, ordered := bitOf d 55 };
    let t : Nat := ((u.lbcFlags d).newReq r true).1;
    let v : State := ((u.lbcFlags d).newReq r true).2;
    let w : State := v.modWrite (fun w => { w with notices := [] });
    s.LbcTurn n 5 x d rest u ∧ bitOf (capWord d 5) 0 = false ∧ r = { flushReq [bitsOf d 112 16] with origin := .ldt n (d % 2 ^ 32), assoc := ldtAssoc n, vol := bitsOf d 112 16, ordered := bitOf d 55 } ∧ (t, v) = (u.lbcFlags d).newReq r (true && ((u.lbcFlags d).liveVol r.vol).isSome) ∧ v.capStops (capClean d 32 1 0) true r.vol = 0 ∧ v.takeNotice r.assoc r.vol = some w := by decide

theorem test_meets_BlockCommandsBecomeRequests_15 :
    let n : Nat := 0;
    let rest : List (Nat × Nat) := [];
    let d : Nat := Wit.cap 5 [(5, 1)];
    let x : LdtConn := { Wit.est with inbox := [(64, d)] };
    let s : State := Wit.ldt x;
    let u : State := (s.modLconn n (fun x => { x with inbox := rest })).bump F.LBC_CNT_CMDS_COUNT;
    let r : Req := { flushReq (((u.lbcFlags d).vat.vols.filter (fun v => v.2.state == 1)).map (·.1)) with origin := .ldt n (d % 2 ^ 32), assoc := ldtAssoc n, vol := bitsOf d 112 16, ordered := bitOf d 55 };
    let t : Nat := ((u.lbcFlags d).newReq r false).1;
    let v : State := ((u.lbcFlags d).newReq r false).2;
    s.LbcTurn n 5 x d rest u ∧ bitOf (capWord d 5) 0 = true ∧ r = { flushReq (((u.lbcFlags d).vat.vols.filter (fun v => v.2.state == 1)).map (·.1)) with origin := .ldt n (d % 2 ^ 32), assoc := ldtAssoc n, vol := bitsOf d 112 16, ordered := bitOf d 55 } ∧ (t, v) = (u.lbcFlags d).newReq r (false && ((u.lbcFlags d).liveVol r.vol).isSome) ∧ v.capStops (capClean d 32 1 0) false r.vol = 0 := by decide

theorem test_meets_BlockCommandsBecomeRequests_16 :
    let n : Nat := 0;
    let rest : List (Nat × Nat) := [];
    let d : Nat := Wit.cap 5 [(7, 1), (5, 1)];
    let x : LdtConn := { Wit.est with inbox := [(64, d)] };
    let s : State := Wit.ldt x;
    let u : State := (s.modLconn n (fun x => { x with inbox := rest })).bump F.LBC_CNT_CMDS_COUNT;
    let r : Req := { flushReq (((u.lbcFlags d).vat.vols.filter (fun v => v.2.state == 1)).map (·.1)) with origin := .ldt n (d % 2 ^ 32), assoc := ldtAssoc n, vol := bitsOf d 112 16, ordered := bitOf d 55 };
    let t : Nat := ((u.lbcFlags d).newReq r false).1;
    let v : State := ((u.lbcFlags d).newReq r false).2;
    let c : Nat := Cond.LBC_CMD_INVALID;
    s.LbcTurn n 5 x d rest u ∧ bitOf (capWord d 5) 0 = true ∧ r = { flushReq (((u.lbcFlags d).vat.vols.filter (fun v => v.2.state == 1)).map (·.1)) with origin := .ldt n (d % 2 ^ 32), assoc := ldtAssoc n, vol := bitsOf d 112 16, ordered := bitOf d 55 } ∧ (t, v) = (u.lbcFlags d).newReq r (false && ((u.lbcFlags d).liveVol r.vol).isSome) ∧ v.capStops (capClean d 32 1 0) false r.vol = c ∧ c ≠ 0 := by decide

theorem test_meets_BlockCommandsBecomeRequests_17 :
    let n : Nat := 0;
    let rest : List (Nat × Nat) := [];
    let d : Nat := Wit.cap 6 [(5, 9)];
    let x : LdtConn := { Wit.est with inbox := [(64, d)] };
    let s : State := Wit.ldt x;
    let u : State := (s.modLconn n (fun x => { x with inbox := rest })).bump F.LBC_CNT_CMDS_COUNT;
    let r : Req := { tag := 0, kind := .admin, origin := .ldt n (d % 2 ^ 32), cls := 6, assoc := ldtAssoc n, isAbort := true };
    let t : Nat := (u.newReq r false).1;
    let v : State := (u.newReq r false).2;
    s.LbcTurn n 6 x d rest u ∧ r = { tag := 0, kind := .admin, origin := .ldt n (d % 2 ^ 32), cls := 6, assoc := ldtAssoc n, isAbort := true } ∧ (t, v) = u.newReq r (false && (u.liveVol r.vol).isSome) ∧ v.capStops (capClean d 32 32 0 && decide (u.lbcAborts n < 4)) false r.vol = 0 := by decide

theorem test_meets_BlockCommandsBecomeRequests_18 :
    let n : Nat := 0;
    let rest : List (Nat × Nat) := [];
    let d : Nat := Wit.cap 6 [(7, 1)];
    let x : LdtConn := { Wit.est with inbox := [(64, d)] };
    let s : State := Wit.ldt x;
    let u : State := (s.modLconn n (fun x => { x with inbox := rest })).bump F.LBC_CNT_CMDS_COUNT;
    let r : Req := { tag := 0, kind := .admin, origin := .ldt n (d % 2 ^ 32), cls := 6, assoc := ldtAssoc n, isAbort := true };
    let t : Nat := (u.newReq r false).1;
    let v : State := (u.newReq r false).2;
    let c : Nat := Cond.LBC_CMD_INVALID;
    s.LbcTurn n 6 x d rest u ∧ r = { tag := 0, kind := .admin, origin := .ldt n (d % 2 ^ 32), cls := 6, assoc := ldtAssoc n, isAbort := true } ∧ (t, v) = u.newReq r (false && (u.liveVol r.vol).isSome) ∧ v.capStops (capClean d 32 32 0 && decide (u.lbcAborts n < 4)) false r.vol = c ∧ c ≠ 0 := by decide

theorem test_meets_BlockCommandsBecomeRequests_19 :
    let n : Nat := 0;
    let rest : List (Nat × Nat) := [];
    let d : Nat := Wit.cap 7 [];
    let x : LdtConn := { Wit.est with inbox := [(64, d)] };
    let s : State := Wit.ldt x;
    let u : State := (s.modLconn n (fun x => { x with inbox := rest })).bump F.LBC_CNT_CMDS_COUNT;
    let r : Req := { tag := 0, kind := .admin, origin := .ldt n (d % 2 ^ 32), cls := 6, assoc := ldtAssoc n };
    let t : Nat := ((u.bump F.LBC_CNT_HEALTH_COUNT).newReq r false).1;
    let v : State := ((u.bump F.LBC_CNT_HEALTH_COUNT).newReq r false).2;
    s.LbcTurn n 7 x d rest u ∧ r = { tag := 0, kind := .admin, origin := .ldt n (d % 2 ^ 32), cls := 6, assoc := ldtAssoc n } ∧ (t, v) = (u.bump F.LBC_CNT_HEALTH_COUNT).newReq r (false && ((u.bump F.LBC_CNT_HEALTH_COUNT).liveVol r.vol).isSome) ∧ v.capStops (capClean d 32 0 0) false r.vol = 0 := by decide

theorem test_meets_BlockCommandsBecomeRequests_20 :
    let n : Nat := 0;
    let rest : List (Nat × Nat) := [];
    let d : Nat := Wit.cap 7 [(5, 1)];
    let x : LdtConn := { Wit.est with inbox := [(64, d)] };
    let s : State := Wit.ldt x;
    let u : State := (s.modLconn n (fun x => { x with inbox := rest })).bump F.LBC_CNT_CMDS_COUNT;
    let r : Req := { tag := 0, kind := .admin, origin := .ldt n (d % 2 ^ 32), cls := 6, assoc := ldtAssoc n };
    let t : Nat := ((u.bump F.LBC_CNT_HEALTH_COUNT).newReq r false).1;
    let v : State := ((u.bump F.LBC_CNT_HEALTH_COUNT).newReq r false).2;
    let c : Nat := Cond.LBC_CMD_INVALID;
    s.LbcTurn n 7 x d rest u ∧ r = { tag := 0, kind := .admin, origin := .ldt n (d % 2 ^ 32), cls := 6, assoc := ldtAssoc n } ∧ (t, v) = (u.bump F.LBC_CNT_HEALTH_COUNT).newReq r (false && ((u.bump F.LBC_CNT_HEALTH_COUNT).liveVol r.vol).isSome) ∧ v.capStops (capClean d 32 0 0) false r.vol = c ∧ c ≠ 0 := by decide

theorem test_meets_BlockCommandsBecomeRequests_21 :
    let n : Nat := 0;
    let rest : List (Nat × Nat) := [];
    let d : Nat := Wit.cap 8 [(4, 4096 * 2 ^ 32)];
    let x : LdtConn := { Wit.est with inbox := [(64, d)] };
    let s : State := Wit.ldt x;
    let u : State := (s.modLconn n (fun x => { x with inbox := rest })).bump F.LBC_CNT_CMDS_COUNT;
    let r : Req := { u.capReq n x d .admin 6 with vol := 0, lba := 0, blocks := 0 };
    let t : Nat := (u.newReq r false).1;
    let v : State := (u.newReq r false).2;
    s.LbcTurn n 8 x d rest u ∧ r = { u.capReq n x d .admin 6 with vol := 0, lba := 0, blocks := 0 } ∧ (t, v) = u.newReq r (false && (u.liveVol r.vol).isSome) ∧ v.capStops (capClean d 32 0 0 && decide (16 ≤ r.bufLen)) false r.vol = 0 := by decide

theorem test_meets_BlockCommandsBecomeRequests_22 :
    let n : Nat := 0;
    let rest : List (Nat × Nat) := [];
    let d : Nat := Wit.cap 8 [];
    let x : LdtConn := { Wit.est with inbox := [(64, d)] };
    let s : State := Wit.ldt x;
    let u : State := (s.modLconn n (fun x => { x with inbox := rest })).bump F.LBC_CNT_CMDS_COUNT;
    let r : Req := { u.capReq n x d .admin 6 with vol := 0, lba := 0, blocks := 0 };
    let t : Nat := (u.newReq r false).1;
    let v : State := (u.newReq r false).2;
    let c : Nat := Cond.LBC_CMD_INVALID;
    s.LbcTurn n 8 x d rest u ∧ r = { u.capReq n x d .admin 6 with vol := 0, lba := 0, blocks := 0 } ∧ (t, v) = u.newReq r (false && (u.liveVol r.vol).isSome) ∧ v.capStops (capClean d 32 0 0 && decide (16 ≤ r.bufLen)) false r.vol = c ∧ c ≠ 0 := by decide

theorem test_meets_BlockCommandsBecomeRequests_23 :
    let n : Nat := 0;
    let d : Nat := 0;
    let rest : List (Nat × Nat) := [];
    let len : Nat := 32;
    let x : LdtConn := { Wit.est with inbox := [(32, d)] };
    let s : State := Wit.ldt x;
    let u : State := (s.modLconn n (fun x => { x with inbox := rest })).bump F.LBC_CNT_CMDS_COUNT;
    s.lconn n = some x ∧ x.inbox = (len, d) :: rest ∧ ((len ≠ 64 ∨ lbcKnown (capOpc d) = false)) ∧ x.initiator = false ∧ x.state = 3 ∧ s.admFull = false ∧ (s.unit (unitKey Blk.LDT (ldtUnit n))).quiesce = false ∧ (s.unit (unitKey Blk.LBC 0)).quiesce = false ∧ u = (s.modLconn n (fun x => { x with inbox := rest })).bump F.LBC_CNT_CMDS_COUNT := by decide

theorem test_meets_ReplicationCommandsAreServed_0 :
    let n : Nat := 0;
    let rest : List (Nat × Nat) := [];
    let d : Nat := Wit.cap 0x40 [(2, 0), (4, 66048 * 2 ^ 32), (5, 5)];
    let x : LdtConn := { Wit.est with inbox := [(64, d)], peerAddr := 7, grants := [0] };
    let s : State := { Wit.fab x with vat := { vats := [(0, { state := 2, published := true })], vols := [(0, { vat := 0, sizeM1 := 9 })] }, read := { map := [(0, { ents := [(0, { u := false })] })] } };
    let u : State := (s.modLconn n (fun x => { x with inbox := rest })).bump F.LBC_CNT_CMDS_COUNT;
    let r : Req := { u.capReq n x d .fetch 3 with blocks := 1 };
    let t : Nat := (u.newReq r true).1;
    let v : State := (u.newReq r true).2;
    s.LbcTurn n 0x40 x d rest u ∧ r = { u.capReq n x d .fetch 3 with blocks := 1 } ∧ (t, v) = u.newReq r (u.liveVol r.vol).isSome := by decide

theorem test_meets_ReplicationCommandsAreServed_1 :
    let n : Nat := 0;
    let k : Nat := 0;
    let rest : List (Nat × Nat) := [];
    let d : Nat := Wit.cap 0x41 [(5, 5)];
    let x : LdtConn := { Wit.est with inbox := [(64, d)], peerAddr := 7 };
    let l : RepLink := { target := false, mode := 0, localVol := 0, remoteVol := 0, remoteHid := 5, offered := some 0 };
    let s : State := { Wit.fab x with vat := { (Wit.fab x).vat with snaps := [(0, { vol := 0, beat := 0 })] }, fab := { (Wit.fab x).fab with links := [(0, { target := false, mode := 0, localVol := 0, remoteVol := 0, remoteHid := 5, offered := some 0 })] } };
    let u : State := (s.modLconn n (fun x => { x with inbox := rest })).bump F.LBC_CNT_CMDS_COUNT;
    let r : Req := u.capReq n x d .admin 6;
    let t : Nat := (u.newReq r true).1;
    let v : State := (u.newReq r true).2;
    s.RepTurn n 0x41 x d rest u .admin r t v k l ∧ (capClean d 32 16 64) = true := by decide

theorem test_meets_ReplicationCommandsAreServed_2 :
    let n : Nat := 0;
    let rest : List (Nat × Nat) := [];
    let d : Nat := Wit.cap 0x41 [(5, 6)];
    let x : LdtConn := { Wit.est with inbox := [(64, d)], peerAddr := 7 };
    let c : Nat := Cond.LBC_CMD_INVALID;
    let s : State := { Wit.fab x with vat := { (Wit.fab x).vat with snaps := [(0, { vol := 0, beat := 0 })] }, fab := { (Wit.fab x).fab with links := [(0, { target := false, mode := 0, localVol := 0, remoteVol := 0, remoteHid := 5, offered := some 0 })] } };
    let u : State := (s.modLconn n (fun x => { x with inbox := rest })).bump F.LBC_CNT_CMDS_COUNT;
    let r : Req := u.capReq n x d .admin 6;
    let t : Nat := (u.newReq r true).1;
    let v : State := (u.newReq r true).2;
    s.LbcTurn n 0x41 x d rest u ∧ r = u.capReq n x d .admin 6 ∧ (t, v) = u.newReq r (u.liveVol r.vol).isSome ∧ v.repStops x d r.vol (capClean d 32 16 64) = c ∧ c ≠ 0 := by decide

theorem test_meets_ReplicationCommandsAreServed_3 :
    let n : Nat := 0;
    let k : Nat := 0;
    let rest : List (Nat × Nat) := [];
    let d : Nat := Wit.cap 0x42 [(1, 0), (2, 1), (5, 5)];
    let x : LdtConn := { Wit.est with inbox := [(64, d)], peerAddr := 7 };
    let l : RepLink := { target := false, mode := 0, localVol := 0, remoteVol := 0, remoteHid := 5, offered := some 0 };
    let s : State := { Wit.fab x with vat := { (Wit.fab x).vat with snaps := [(0, { vol := 0, beat := 0 })] }, fab := { (Wit.fab x).fab with links := [(0, { target := false, mode := 0, localVol := 0, remoteVol := 0, remoteHid := 5, offered := some 0 })] } };
    let u : State := (s.modLconn n (fun x => { x with inbox := rest })).bump F.LBC_CNT_CMDS_COUNT;
    let r : Req := u.capReq n x d .admin 6;
    let t : Nat := (u.newReq r true).1;
    let v : State := (u.newReq r true).2;
    s.RepTurn n 0x42 x d rest u .admin r t v k l ∧ (capClean d 32 16 0 && decide (1 ≤ capWord d 2) && decide (capWord d 2 ≤ 8) && bitsOf d 64 9 == 0) = true := by decide

theorem test_meets_ReplicationCommandsAreServed_4 :
    let n : Nat := 0;
    let rest : List (Nat × Nat) := [];
    let d : Nat := Wit.cap 0x42 [(2, 9), (5, 5)];
    let x : LdtConn := { Wit.est with inbox := [(64, d)], peerAddr := 7 };
    let c : Nat := Cond.LBC_CMD_INVALID;
    let s : State := { Wit.fab x with vat := { (Wit.fab x).vat with snaps := [(0, { vol := 0, beat := 0 })] }, fab := { (Wit.fab x).fab with links := [(0, { target := false, mode := 0, localVol := 0, remoteVol := 0, remoteHid := 5, offered := some 0 })] } };
    let u : State := (s.modLconn n (fun x => { x with inbox := rest })).bump F.LBC_CNT_CMDS_COUNT;
    let r : Req := u.capReq n x d .admin 6;
    let t : Nat := (u.newReq r true).1;
    let v : State := (u.newReq r true).2;
    s.LbcTurn n 0x42 x d rest u ∧ r = u.capReq n x d .admin 6 ∧ (t, v) = u.newReq r (u.liveVol r.vol).isSome ∧ v.repStops x d r.vol (capClean d 32 16 0 && decide (1 ≤ capWord d 2) && decide (capWord d 2 ≤ 8) && bitsOf d 64 9 == 0) = c ∧ c ≠ 0 := by decide

theorem test_meets_ReplicationCommandsAreServed_5 :
    let n : Nat := 0;
    let k : Nat := 0;
    let rest : List (Nat × Nat) := [];
    let d : Nat := Wit.cap 0x43 [(2, 1), (5, 5)];
    let x : LdtConn := { Wit.est with inbox := [(64, d)], peerAddr := 7 };
    let l : RepLink := { target := false, mode := 0, localVol := 0, remoteVol := 0, remoteHid := 5, offered := some 0 };
    let s : State := { Wit.fab x with vat := { (Wit.fab x).vat with snaps := [(0, { vol := 0, beat := 0 })] }, fab := { (Wit.fab x).fab with links := [(0, { target := false, mode := 0, localVol := 0, remoteVol := 0, remoteHid := 5, offered := some 0 })] } };
    let u : State := (s.modLconn n (fun x => { x with inbox := rest })).bump F.LBC_CNT_CMDS_COUNT;
    let r : Req := u.capReq n x d .repChunks 6;
    let t : Nat := (u.newReq r true).1;
    let v : State := (u.newReq r true).2;
    s.RepTurn n 0x43 x d rest u .repChunks r t v k l ∧ (capClean d 32 16 0 && decide (1 ≤ capWord d 2)) = true := by decide

theorem test_meets_ReplicationCommandsAreServed_6 :
    let n : Nat := 0;
    let rest : List (Nat × Nat) := [];
    let d : Nat := Wit.cap 0x43 [(5, 5)];
    let x : LdtConn := { Wit.est with inbox := [(64, d)], peerAddr := 7 };
    let c : Nat := Cond.LBC_CMD_INVALID;
    let s : State := { Wit.fab x with vat := { (Wit.fab x).vat with snaps := [(0, { vol := 0, beat := 0 })] }, fab := { (Wit.fab x).fab with links := [(0, { target := false, mode := 0, localVol := 0, remoteVol := 0, remoteHid := 5, offered := some 0 })] } };
    let u : State := (s.modLconn n (fun x => { x with inbox := rest })).bump F.LBC_CNT_CMDS_COUNT;
    let r : Req := u.capReq n x d .repChunks 6;
    let t : Nat := (u.newReq r true).1;
    let v : State := (u.newReq r true).2;
    s.LbcTurn n 0x43 x d rest u ∧ r = u.capReq n x d .repChunks 6 ∧ (t, v) = u.newReq r (u.liveVol r.vol).isSome ∧ v.repStops x d r.vol (capClean d 32 16 0 && decide (1 ≤ capWord d 2)) = c ∧ c ≠ 0 := by decide

theorem test_meets_ReplicationCommandsAreServed_7 :
    let n : Nat := 0;
    let k : Nat := 0;
    let rest : List (Nat × Nat) := [];
    let d : Nat := Wit.cap 0x44 [(5, 5)];
    let x : LdtConn := { Wit.est with inbox := [(64, d)], peerAddr := 7 };
    let l : RepLink := { target := false, mode := 0, localVol := 0, remoteVol := 0, remoteHid := 5, offered := some 0 };
    let s : State := { Wit.fab x with vat := { (Wit.fab x).vat with snaps := [(0, { vol := 0, beat := 0 })] }, fab := { (Wit.fab x).fab with links := [(0, { target := false, mode := 0, localVol := 0, remoteVol := 0, remoteHid := 5, offered := some 0 })] } };
    let u : State := (s.modLconn n (fun x => { x with inbox := rest })).bump F.LBC_CNT_CMDS_COUNT;
    let r : Req := u.capReq n x d .admin 6;
    let t : Nat := (u.newReq r true).1;
    let v : State := (u.newReq r true).2;
    s.RepTurn n 0x44 x d rest u .admin r t v k l ∧ (capClean d 32 16 20) = true := by decide

theorem test_meets_ReplicationCommandsAreServed_8 :
    let n : Nat := 0;
    let rest : List (Nat × Nat) := [];
    let d : Nat := Wit.cap 0x44 [(5, 6)];
    let x : LdtConn := { Wit.est with inbox := [(64, d)], peerAddr := 7 };
    let c : Nat := Cond.LBC_CMD_INVALID;
    let s : State := { Wit.fab x with vat := { (Wit.fab x).vat with snaps := [(0, { vol := 0, beat := 0 })] }, fab := { (Wit.fab x).fab with links := [(0, { target := false, mode := 0, localVol := 0, remoteVol := 0, remoteHid := 5, offered := some 0 })] } };
    let u : State := (s.modLconn n (fun x => { x with inbox := rest })).bump F.LBC_CNT_CMDS_COUNT;
    let r : Req := u.capReq n x d .admin 6;
    let t : Nat := (u.newReq r true).1;
    let v : State := (u.newReq r true).2;
    s.LbcTurn n 0x44 x d rest u ∧ r = u.capReq n x d .admin 6 ∧ (t, v) = u.newReq r (u.liveVol r.vol).isSome ∧ v.repStops x d r.vol (capClean d 32 16 20) = c ∧ c ≠ 0 := by decide

theorem test_meets_ReplicationCommandsAreServed_9 :
    let n : Nat := 0;
    let d : Nat := 0;
    let rest : List (Nat × Nat) := [];
    let len : Nat := 32;
    let x : LdtConn := { Wit.est with inbox := [(32, d)] };
    let s : State := Wit.ldt x;
    let u : State := (s.modLconn n (fun x => { x with inbox := rest })).bump F.LBC_CNT_CMDS_COUNT;
    s.lconn n = some x ∧ x.inbox = (len, d) :: rest ∧ ((len ≠ 64 ∨ lbcKnown (capOpc d) = false)) ∧ x.initiator = false ∧ x.state = 3 ∧ s.admFull = false ∧ (s.unit (unitKey Blk.LDT (ldtUnit n))).quiesce = false ∧ (s.unit (unitKey Blk.LBC 0)).quiesce = false ∧ u = (s.modLconn n (fun x => { x with inbox := rest })).bump F.LBC_CNT_CMDS_COUNT := by decide

theorem test_meets_PeerLinkAndModeMessagesAct_0 :
    let s : State := {};
    let m : Nat := 3;
    s.judge m 270 0x108 true true = none := by decide

theorem test_meets_PeerLinkAndModeMessagesAct_1 :
    let s : State := {};
    let m : Nat := 3;
    s.judge m 270 0x108 true true = none := by decide

theorem test_meets_PeerLinkAndModeMessagesAct_2 :
    let b : Nat := 0;
    let skews : List Nat := List.replicate 16 64;
    let s : State := ((({} : State).set F.PRL_CTL_ENABLE 1).set F.PRL_CFG_BUNDLE_EN 3);
    b < 2 ∧ s.bundleOn b = true ∧ s.bundleActive b = false ∧ skews.length = 16 ∧ skews.any (fun k => 64 < k) = false := by decide

theorem test_meets_PeerLinkAndModeMessagesAct_3 :
    let b : Nat := 0;
    let skews : List Nat := List.replicate 16 65;
    let s : State := ((({} : State).set F.PRL_CTL_ENABLE 1).set F.PRL_CFG_BUNDLE_EN 3);
    b < 2 ∧ s.bundleOn b = true ∧ s.bundleActive b = false ∧ skews.length = 16 ∧ skews.any (fun k => 64 < k) = true := by decide

theorem test_meets_PeerLinkAndModeMessagesAct_4 :
    let b : Nat := 0;
    let s : State := ({} : State).set (F.PRL_BUNDLE_STAT_STATE 0) 4;
    b < 2 ∧ s.bundleActive b = true := by decide

theorem test_meets_PeerLinkAndModeMessagesAct_5 :
    let b : Nat := 0;
    let s : State := ({} : State).set (F.PRL_BUNDLE_STAT_STATE 0) 4;
    b < 2 ∧ s.bundleActive b = true := by decide

theorem test_meets_PeerLinkAndModeMessagesAct_6 :
    let b : Nat := 0;
    let s : State := ({ pair := { bundles := [(0, { txSeq := 1 })] }, time := { tbFx := 524288000 } } : State).set (F.PRL_BUNDLE_STAT_STATE 0) 4;
    b < 2 ∧ s.bundleActive b = true ∧ (s.bundle b).ackedTo < (s.bundle b).txSeq ∧ (s.bundle b).ackBeat + 1 ≤ s.beat ∧ (s.bundle b).timerRun < 7 := by decide

theorem test_meets_PeerLinkAndModeMessagesAct_7 :
    let b : Nat := 0;
    let s : State := ({ pair := { bundles := [(0, { txSeq := 1, timerRun := 7 })] }, time := { tbFx := 524288000 } } : State).set (F.PRL_BUNDLE_STAT_STATE 0) 4;
    b < 2 ∧ s.bundleActive b = true ∧ (s.bundle b).ackedTo < (s.bundle b).txSeq ∧ (s.bundle b).ackBeat + 1 ≤ s.beat ∧ 7 ≤ (s.bundle b).timerRun := by decide

theorem test_meets_PeerLinkAndModeMessagesAct_8 :
    let hid : Nat := 0;
    let format : Nat := 0;
    let s : State := (({} : State).set (F.PRL_BUNDLE_STAT_STATE 0) 4).set F.LSE_MODE_MODE 3;
    let u : State := ((s.setAll [(F.PRL_STAT_PEER_HID, hid), (F.PRL_PEER_INFO_LAYOUT, 1)]).set F.PRL_PAIR_STAT_MISMATCH 0).modPair (fun p => { p with helloMatched := true, peerFormat := format });
    s.ctlBundle.isSome = true ∧ u = ((s.setAll [(F.PRL_STAT_PEER_HID, hid), (F.PRL_PEER_INFO_LAYOUT, 1)]).set F.PRL_PAIR_STAT_MISMATCH 0).modPair (fun p => { p with helloMatched := true, peerFormat := format }) := by decide

theorem test_meets_PeerLinkAndModeMessagesAct_9 :
    let arrayId : Nat := 0;
    let layout : Nat := 2;
    let s : State := ({} : State).set (F.PRL_BUNDLE_STAT_STATE 0) 4;
    s.ctlBundle.isSome = true ∧ (arrayId ≠ s.pair.arrayId ∨ layout ≠ 1) := by decide

theorem test_meets_PeerLinkAndModeMessagesAct_10 :
    let epochA : Nat := 0;
    let epochB : Nat := 0;
    let jgen : Nat := 0;
    let holdsA : Bool := false;
    let holdsB : Bool := false;
    let mode : Nat := 3;
    let s : State := ((({ pair := { helloMatched := true } } : State).set (F.PRL_BUNDLE_STAT_STATE 0) 4).set F.LSE_MODE_MODE 3).set F.PRL_STAT_REACHABLE 1;
    let u : State := ((s.setAll [(F.PRL_PEER_INFO_MODE, mode), (F.PRL_PEER_INFO_HOLDS_A, b2n holdsA), (F.PRL_PEER_INFO_HOLDS_B, b2n holdsB), (F.PRL_PEER_INFO_JGEN, jgen)]).modPair (fun p => { p with lastModeBeat := some s.beat, peerEpochA := epochA, peerEpochB := epochB, peerHolds := (if holdsA then [0] else []) ++ (if holdsB then [1] else []) })).pairShow;
    s.ctlBundle.isSome = true ∧ s.pair.helloMatched = true ∧ u = ((s.setAll [(F.PRL_PEER_INFO_MODE, mode), (F.PRL_PEER_INFO_HOLDS_A, b2n holdsA), (F.PRL_PEER_INFO_HOLDS_B, b2n holdsB), (F.PRL_PEER_INFO_JGEN, jgen)]).modPair (fun p => { p with lastModeBeat := some s.beat, peerEpochA := epochA, peerEpochB := epochB, peerHolds := (if holdsA then [0] else []) ++ (if holdsB then [1] else []) })).pairShow := by decide

theorem test_meets_PeerLinkAndModeMessagesAct_11 :
    let s : State := {};
    (s.pair.lastModeSent + 1024 ≤ s.beat ∨ s.pair.modeSent ≠ some s.modeWords) := by decide

theorem test_meets_PeerLinkAndModeMessagesAct_13 :
    let s : State := { pair := { everReachable := true }, time := { tbFx := 524288000 * 1000000 } };
    s.pair.everReachable = true ∧ (s.bundle 0).lastFlitBeat + s.get F.PRL_CFG_PEER_LOSS_TMO ≤ s.beat ∧ (s.bundle 1).lastFlitBeat + s.get F.PRL_CFG_PEER_LOSS_TMO ≤ s.beat := by decide

theorem test_meets_PeerLinkAndModeMessagesAct_14 :
    let s : State := { pair := { everReachable := true } };
    s.pair.everReachable = true := by decide

theorem test_meets_PeerLinkAndModeMessagesAct_17 :
    let c : Nat := 120;
    let s : State := ({} : State).set (F.MBX_BIND_VALID 120) 1;
    120 ≤ c ∧ c < 128 ∧ s.mbxBound c = true ∧ s.mbxFull c = false := by decide

theorem test_meets_PeerLinkAndModeMessagesAct_18 :
    let s : State := {};
    s.pair.everReachable = false := by decide

theorem test_meets_PeerLinkAndModeMessagesAct_19 :
    let s : State := {};
    s.ctlBundle = none := by decide

theorem test_meets_PeerLinkAndModeMessagesAct_20 :
    let c : Nat := 120;
    let s : State := (({} : State).set (F.MBX_BIND_VALID 120) 1).set (F.MBX_STAT_FULL 120) 1;
    120 ≤ c ∧ c < 128 ∧ s.mbxBound c = true ∧ s.mbxFull c = true := by decide

theorem test_meets_PeerLinkAndModeMessagesAct_21 :
    let c : Nat := 112;
    let kind : Nat := 2;
    let s : State := ({} : State).set (F.MBX_STAT_FULL 112) 1;
    112 ≤ c ∧ c < 120 ∧ s.mbxFull c = true ∧ 2 ≤ kind := by decide

theorem test_meets_ModeRequestsAndHandOverRun_0 :
    let m : Nat := 3;
    let s : State := ({} : State).set F.LSE_MODE_MODE 1;
    s.judge m 274 0x110 true true = none ∧ s.mode = .boot ∧ s.modeRefusal 1 = 0 ∧ s.modeRefusal 2 = 0 := by decide

theorem test_meets_ModeRequestsAndHandOverRun_1 :
    let m : Nat := 3;
    let s : State := ({} : State).set F.LSE_MODE_MODE 4;
    s.judge m 274 0x110 true true = none ∧ s.mode = .solo ∧ s.modeRefusal 2 = 0 := by decide

theorem test_meets_ModeRequestsAndHandOverRun_2 :
    let m : Nat := 3;
    let s : State := ({} : State).setAll [(F.LSE_MODE_MODE, 3), (F.PRL_STAT_REACHABLE, 1), (F.PRL_PEER_INFO_MODE, 3)];
    s.judge m 274 0x110 true true = none ∧ s.mode = .paired ∧ s.modeRefusal 1 = 0 ∧ s.modeRefusal 2 = 0 := by decide

theorem test_meets_ModeRequestsAndHandOverRun_3 :
    let m : Nat := 3;
    let s : State := ({} : State).set F.LSE_MODE_MODE 2;
    s.judge m 274 0x110 true true = none ∧ (s.mode = .service ∨ s.mode = .fenced) ∧ s.get F.LSE_MODE_REQ_STAT_BUSY ≠ 1 := by decide

theorem test_meets_ModeRequestsAndHandOverRun_4 :
    let s : State := {};
    let m : Nat := 3;
    s.judge m 274 0x110 true true = none := by decide

theorem test_meets_ModeRequestsAndHandOverRun_5 :
    let m : Nat := 3;
    let s : State := ({} : State).set F.LSE_MODE_REQ_STAT_BUSY 1;
    let u : State := s.setAll [(F.LSE_MODE_REQ_STAT_RESULT, 2), (F.LSE_MODE_REQ_STAT_CONDITION, Cond.MODE_REQ_BUSY), (F.LSE_MODE_REQ_STAT_BEAT, s.beat32)];
    s.judge m 274 0x110 true true = none ∧ s.get F.LSE_MODE_REQ_STAT_BUSY = 1 ∧ u = s.setAll [(F.LSE_MODE_REQ_STAT_RESULT, 2), (F.LSE_MODE_REQ_STAT_CONDITION, Cond.MODE_REQ_BUSY), (F.LSE_MODE_REQ_STAT_BEAT, s.beat32)] := by decide

theorem test_meets_ModeRequestsAndHandOverRun_6 :
    let s : State := ({ pair := { hand := .handoverDraining } } : State).set F.LSE_MODE_MODE 3;
    s.pair.hand = .handoverDraining ∧ s.mode = .paired ∧ s.writesDrained = true := by decide

theorem test_meets_ModeRequestsAndHandOverRun_7 :
    let s : State := ({ pair := { hand := .handbackDraining } } : State).set F.LSE_MODE_MODE 4;
    s.mode = .solo ∧ s.pair.hand = .handbackDraining ∧ s.peerRing = [] := by decide

theorem test_meets_ModeRequestsAndHandOverRun_8 :
    let s : State := { pair := { hand := .handbackDraining } };
    s.pair.hand = .handbackDraining ∧ s.pair.handDeadline ≤ s.beat := by decide

theorem test_meets_LeasesFollowTheWitness_0 :
    let sh : Nat := 0;
    let s : State := ({} : State).set (F.LSE_SHARD_STATE 0) 2;
    sh < 2 ∧ s.leaseHeld sh = true ∧ s.fenceDue sh = true := by decide

theorem test_meets_LeasesFollowTheWitness_1 :
    let sh : Nat := 0;
    let s : State := ({ pair := { leases := [(0, { len := 4096 })] }, time := { k2 := 4000 * 2048 } } : State).set (F.LSE_SHARD_STATE 0) 2;
    sh < 2 ∧ s.get (F.LSE_SHARD_STATE sh) = 2 ∧ 100 * (s.lease sh).len ≤ s.leaseRun sh ∧ s.fenceDue sh = false := by decide

theorem test_meets_LeasesFollowTheWitness_2 :
    let sh : Nat := 0;
    let s : State := { pair := { leases := [(0, { req := 1 })] }, time := { tbFx := 524288000 * 1000000 } };
    sh < 2 ∧ (s.lease sh).req ≠ 0 ∧ (s.lease sh).waitUntil = none ∧ (s.lease sh).reqBeat + s.get F.LSE_CFG_WIT_RETRY ≤ s.beat := by decide

theorem test_meets_LeasesFollowTheWitness_3 :
    Wit.lease.WitHeard (Wit.witFrame 0x81 (leNat 12 0)) 0x81 ⟨0x81, 0, 0, 0, leNat 12 0⟩ Wit.leaseUsed := Wit.heard _ _ (by decide) (by decide)

theorem test_meets_LeasesFollowTheWitness_4 :
    Wit.lease.WitHeard (Wit.witFrame 0x82 (leNat 8 0)) 0x82 ⟨0x82, 0, 0, 0, leNat 8 0⟩ Wit.leaseUsed := Wit.heard _ _ (by decide) (by decide)

theorem test_meets_LeasesFollowTheWitness_5 :
    Wit.lease.WitHeard (Wit.witFrame 0x83 (leNat 2 0)) 0x83 ⟨0x83, 0, 0, 0, leNat 2 0⟩ Wit.leaseUsed := Wit.heard _ _ (by decide) (by decide)

theorem test_meets_LeasesFollowTheWitness_6 :
    Wit.lease.WitHeard (Wit.witFrame 0x84 (leNat 28 0)) 0x84 ⟨0x84, 0, 0, 0, leNat 28 0⟩ Wit.leaseUsed := Wit.heard _ _ (by decide) (by decide)

theorem test_meets_LeasesFollowTheWitness_7 :
    Wit.lease.WitHeard (Wit.witFrame 0x85 (leNat 8 0)) 0x85 ⟨0x85, 0, 0, 0, leNat 8 0⟩ Wit.leaseUsed := Wit.heard _ _ (by decide) (by decide)

theorem test_meets_LeasesFollowTheWitness_8 :
    let frame : List Nat := [];
    let s : State := ({} : State).set F.LSE_WIT_CFG_SERIAL_EN 1;
    let u : State := s.bump F.LSE_CNT_WIT_BAD_COUNT;
    s.get F.LSE_WIT_CFG_SERIAL_EN = 1 ∧ s.witParse frame = (none, u) := by decide

theorem test_meets_LeasesFollowTheWitness_9 :
    let sh : Nat := 0;
    let b : Nat := 0;
    let s : State := { pair := { leases := [(0, { req := 1, waitUntil := some 0 })] } };
    sh < 2 ∧ (s.lease sh).req = 1 ∧ (s.lease sh).waitUntil = some b ∧ b ≤ s.beat := by decide

theorem test_meets_LeasesFollowTheWitness_10 :
    let s : State := ({} : State).set F.SEC_BOOT_STAT_STAGE 2;
    s.witLive = true ∧ s.mode ≠ .fenced ∧ (s.pair.lastReport + 4096 ≤ s.beat ∨ s.pair.reported ≠ some s.reportWord) := by decide

theorem test_meets_LeasesFollowTheWitness_11 :
    let s : State := (({} : State).set F.SEC_BOOT_STAT_STAGE 2).set F.LSE_MODE_MODE 1;
    s.mode = .boot ∧ s.mayAcquire = true ∧ s.leaseHeld s.side = false ∧ (s.lease s.side).req = 0 := by decide

theorem test_meets_LeasesFollowTheWitness_12 :
    let s : State := ({ time := { tbFx := 524288000 * 1024 * 1000000 } } : State).setAll [(F.SEC_BOOT_STAT_STAGE, 2), (F.LSE_MODE_MODE, 1), (F.LSE_SHARD_STATE 0, 2)];
    s.mode = .boot ∧ s.mayAcquire = true ∧ s.leaseHeld s.side = true ∧ s.get F.PRL_STAT_REACHABLE = 0 ∧ s.get F.PRL_TKO_STAT_PHASE = 0 ∧ max s.pair.bootBeat s.pair.downBeat + 1024 * s.get F.LSE_CFG_BOOT_WAIT ≤ s.beat := by decide

theorem test_meets_LeasesFollowTheWitness_13 :
    let s : State := ({ time := { tbFx := 524288000 * 16384 } } : State).set F.LSE_MODE_MODE 7;
    s.mode = .fenced ∧ s.pair.lastProbe + 16384 ≤ s.beat := by decide

theorem test_meets_LeasesFollowTheWitness_14 :
    let s : State := ({ time := { tbFx := 524288000 * 4096 } } : State).set F.LSE_MODE_MODE 3;
    s.mode = .paired ∧ s.get F.PRL_RUB_RESULT_RUNNING ≠ 1 ∧ s.pair.lastRub + 4096 ≤ s.beat := by decide

theorem test_meets_LeasesFollowTheWitness_15 :
    let b : Nat := 1;
    b < 2 := by decide

theorem test_meets_LeasesFollowTheWitness_16 :
    let probe : Nat := 0;
    let s : State := { time := { tbFx := 524288000 * 4096 } };
    probe < 5 ∧ s.pair.rubSentBeat + (if probe < 2 then 16 else s.get F.LSE_CFG_WIT_RETRY) < s.beat := by decide

theorem test_meets_LeasesFollowTheWitness_17 :
    let m : Nat := 3;
    let s : State := ({} : State).set F.LSE_WIT_CFG_UDP_EN 1;
    s.judge m 275 0x118 true true = none ∧ s.get F.LSE_WIT_CFG_UDP_EN = 1 := by decide

theorem test_meets_LeasesFollowTheWitness_18 :
    let s : State := {};
    let m : Nat := 3;
    s.judge m 275 0x120 true false = none := by decide

theorem test_meets_FabricMembershipAndLinksAct_0 :
    let s : State := Wit.fab Wit.est |>.set F.FAB_STAT_STATE 0;
    s.fabMay = true ∧ s.get F.FAB_STAT_STATE = 0 := by decide

theorem test_meets_FabricMembershipAndLinksAct_1 :
    let s : State := { Wit.fab Wit.est with time := { tbFx := 524288000 * 1024 } };
    s.fabMay = true ∧ s.get F.FAB_STAT_STATE = 1 ∧ s.fab.helloBeat + 1024 ≤ s.beat := by decide

theorem test_meets_FabricMembershipAndLinksAct_2 :
    let s : State := ({ Wit.fab Wit.est with time := { tbFx := 524288000 * 16384 } } : State).set F.FAB_STAT_STATE 2;
    s.fabMay = true ∧ s.get F.FAB_STAT_STATE = 2 ∧ s.fab.helloBeat + 16384 ≤ s.beat := by decide

theorem test_meets_FabricMembershipAndLinksAct_3 :
    let s : State := {};
    s.fabMay = false := by decide

theorem test_meets_FabricMembershipAndLinksAct_4 :
    Wit.fabHears.HelloSound (Wit.fabFrame 1) 1 (helloOf (Wit.fabFrame 1)) Wit.fabHeard ∧ (helloOf (Wit.fabFrame 1)).hid ≠ Wit.fabHeard.get F.FAB_ID_HID ∧ ((helloOf (Wit.fabFrame 1)).hid ≠ peerHid (Wit.fabHeard.get F.FAB_ID_HID) ∨ (helloOf (Wit.fabFrame 1)).arrayId = Wit.fabHeard.pair.arrayId) := ⟨Wit.fabSound 1 (by decide), by decide, by decide⟩

theorem test_meets_FabricMembershipAndLinksAct_5 :
    Wit.fabHears.HelloSound (Wit.fabFrame 1) 1 (helloOf (Wit.fabFrame 1)) Wit.fabHeard := Wit.fabSound 1 (by decide)

theorem test_meets_FabricMembershipAndLinksAct_6 :
    let typ : Nat := 1;
    let l : List Nat := [0, 0, 0, 1];
    let s : State := Wit.fabHears;
    let key : Option Nat := some 7;
    let u : State := s.keyUsed (hSlot 0);
    s.fabMay = true ∧ s.get F.FAB_STAT_STATE ≠ 0 ∧ s.get F.FAB_STAT_STATE ≠ 4 ∧ l.getD 3 0 = typ ∧ (key, u) = s.slotFor (s.get F.FAB_CFG_KEY_SLOT) 1 ∧ u.helloBad key l = true := by decide

theorem test_meets_FabricMembershipAndLinksAct_7 :
    Wit.fabHears.HelloSound (Wit.fabFrame 2) 2 (helloOf (Wit.fabFrame 2)) Wit.fabHeard := Wit.fabSound 2 (by decide)

theorem test_meets_FabricMembershipAndLinksAct_8 :
    let hid : Nat := 5;
    let m : FabMember := { st := 2, v4 := some 7 };
    let s : State := { Wit.fab Wit.est with time := { tbFx := 524288000 * 16384 * 256 } };
    let u : State := ((((s.modFab (fun f => { f with members := AL.put hid { m with st := 3 } f.members, seqs := AL.del m.chip f.seqs })).irq (fabSlot 1) 1).bump F.FAB_CNT_LEAVE_COUNT).fabCount).homesCheck;
    AL.get hid s.fab.members = some m ∧ m.st ≠ 3 ∧ m.beat + 16384 * s.get F.FAB_CFG_MISS_LIMIT ≤ s.beat ∧ u = ((((s.modFab (fun f => { f with members := AL.put hid { m with st := 3 } f.members, seqs := AL.del m.chip f.seqs })).irq (fabSlot 1) 1).bump F.FAB_CNT_LEAVE_COUNT).fabCount).homesCheck := by decide

theorem test_meets_FabricMembershipAndLinksAct_9 :
    let b : Nat := 0;
    let s : State := { fab := { holdSince := some 0 }, time := { tbFx := 524288000 * 1024 * 100000 } };
    s.fab.holdSince = some b ∧ b + 1024 * s.get F.FAB_PLACE_CFG_HOLD ≤ s.beat := by decide

theorem test_meets_FabricMembershipAndLinksAct_10 :
    let s : State := { fab := { computing := some ([3], 0) }, time := { tbFx := 524288000 * 6 } };
    let l : List Nat := [3];
    s.fab.computing = some (l, 0) ∧ 0 + ceilDiv (65536 * l.length) 12800 ≤ s.beat ∧ ∃ u : State, u = (s.placeWrite (1 - s.get F.FAB_PLACE_STAT_COPY) (s.get F.FAB_PLACE_SEED_SEED) (s.get F.FAB_PLACE_CFG_REPLICAS) l).modFab (fun f => { f with computing := none, homes := l, seed := s.get F.FAB_PLACE_SEED_SEED, replicas := s.get F.FAB_PLACE_CFG_REPLICAS }) :=
  ⟨rfl, by decide, _, rfl⟩

theorem test_meets_FabricMembershipAndLinksAct_11 :
    let key : Nat := 0;
    let x : FabFetch := { vol := 0, lba := 0, index := 0 };
    let s : State := { fab := { fetches := [(0, { vol := 0, lba := 0, index := 0 })] }, time := { tbFx := 524288000 * 100000 } };
    AL.get key s.fab.fetches = some x ∧ x.arrived = false ∧ x.beat + s.get F.FAB_FETCH_CFG_FETCH_TMO ≤ s.beat := by decide

theorem test_meets_FabricMembershipAndLinksAct_12 :
    let link : Nat := 0;
    let m : Nat := 3;
    let s : State := (Wit.ldt Wit.est).wrLE 0 8 (2 ^ 63);
    let l : RepLink := { target := false, mode := 0, localVol := 0, remoteVol := 0, remoteHid := 0 };
    s.judge m Slot.REP 0x128 true true = none ∧ s.get F.REP_LINK_CMD_STAT_BUSY ≠ 1 ∧ s.repLink link = none ∧ s.linkEntry link = some l ∧ s.linkBad l = false := by decide

theorem test_meets_FabricMembershipAndLinksAct_13 :
    let link : Nat := 0;
    let m : Nat := 3;
    let l : RepLink := { target := false, mode := 0, localVol := 0, remoteVol := 0, remoteHid := 0 };
    let s : State := { fab := { links := [(0, l)] } };
    s.judge m Slot.REP 0x128 true true = none ∧ s.get F.REP_LINK_CMD_STAT_BUSY ≠ 1 ∧ s.repLink link = some l := by decide

theorem test_meets_FabricMembershipAndLinksAct_14 :
    let link : Nat := 0;
    let snap : Nat := 0;
    let m : Nat := 3;
    let x : Snap := { vol := 0, beat := 0 };
    let l : RepLink := { target := false, mode := 0, localVol := 0, remoteVol := 0, remoteHid := 0 };
    let s : State := { fab := { links := [(0, l)] }, vat := { snaps := [(0, x)] } };
    s.judge m Slot.REP 0x128 true true = none ∧ s.get F.REP_LINK_CMD_STAT_BUSY ≠ 1 ∧ s.repLink link = some l ∧ l.target = false ∧ s.liveSnap snap = some x ∧ x.vol = l.localVol := by decide

theorem test_meets_FabricMembershipAndLinksAct_15 :
    let link : Nat := 0;
    let m : Nat := 3;
    let l : RepLink := { target := false, mode := 1, st := 5, localVol := 0, remoteVol := 0, remoteHid := 0 };
    let s : State := { fab := { links := [(0, l)] } };
    s.judge m Slot.REP 0x128 true true = none ∧ s.get F.REP_LINK_CMD_STAT_BUSY ≠ 1 ∧ s.repLink link = some l ∧ l.target = false ∧ l.mode = 1 ∧ l.st = 5 := by decide

theorem test_meets_FabricMembershipAndLinksAct_16 :
    let m : Nat := 3;
    let s : State := ({} : State).set F.REP_LINK_CMD_STAT_BUSY 1;
    s.judge m Slot.REP 0x128 true true = none ∧ s.get F.REP_LINK_CMD_STAT_BUSY = 1 := by decide

theorem test_meets_FabricMembershipAndLinksAct_17 :
    let link : Nat := 0;
    let s : State := {};
    let m : Nat := 3;
    s.judge m Slot.REP 0x128 true true = none ∧ s.get F.REP_LINK_CMD_STAT_BUSY ≠ 1 ∧ s.repLink link = none := by decide

theorem test_meets_FabricMembershipAndLinksAct_18 :
    let link : Nat := 0;
    let m : Nat := 3;
    let l : RepLink := { target := true, mode := 0, localVol := 0, remoteVol := 0, remoteHid := 0 };
    let s : State := { fab := { links := [(0, l)] } };
    s.judge m Slot.REP 0x128 true true = none ∧ s.get F.REP_LINK_CMD_STAT_BUSY ≠ 1 ∧ s.repLink link = some l := by decide

theorem test_meets_FabricMembershipAndLinksAct_19 :
    let link : Nat := 0;
    let l : RepLink := { target := true, mode := 0, localVol := 0, remoteVol := 0, remoteHid := 5 };
    let s : State := { Wit.fab Wit.est with fab := { (Wit.fab Wit.est).fab with links := [(0, l)] }, time := { tbFx := 524288000 * 1024 } };
    let u : State := s.modRep link (fun l => { l with polling := true, pollBeat := s.beat });
    s.repLink link = some l ∧ l.target = true ∧ l.st ≠ 6 ∧ l.polling = false ∧ l.cycle = none ∧ s.repMay = true ∧ (s.unit (unitKey Blk.REP 0)).quiesce = false ∧ l.pollBeat + max 1024 l.period ≤ s.beat ∧ u = s.modRep link (fun l => { l with polling := true, pollBeat := s.beat }) := by decide

theorem test_meets_FabricMembershipAndLinksAct_20 :
    let id : Nat := 0;
    let c : SyncCmd := { link := 0, tag := 1, vol := 0, op := 1, lba := 0, blocks := 1, ctag := some 3 };
    let s : State := { fab := { sync := [(0, c)] }, time := { tbFx := 524288000 * 1024 * 100000 } };
    AL.get id s.fab.sync = some c ∧ ((c.ctag.isSome = true ∨ c.sentBeat ≠ 0)) ∧ c.sentBeat + 1024 * s.get F.REP_CFG_SYNC_TMO ≤ s.beat := by decide

theorem test_meets_MailboxesAndLocksServe_0 :
    let m : Nat := 3;
    let c : Nat := 40;
    let w : Word := 5;
    let s : State := ({} : State).setAll [(F.MBX_BIND_VALID 40, 1), (F.MBX_BIND_SENDER 40, 3), (F.MBX_BIND_RECEIVER 40, 4)];
    s.MbxMay m (mbxSlot c) (0x100 + 8 * (c % 32)) true ∧ s.mbxBound c = true ∧ s.get (F.MBX_BIND_SENDER c) = m ∧ s.mbxFull c = false ∧ (c < 112 ∨ 120 ≤ c) ∧ m ≠ 59 ∧ m ≠ 60 := by decide

theorem test_meets_MailboxesAndLocksServe_1 :
    let m : Nat := 60;
    let c : Nat := 4;
    let w : Word := 5;
    let s : State := ({} : State).setAll [(F.MBX_BIND_VALID 4, 1), (F.MBX_BIND_SENDER 4, 60), (F.MBX_BIND_RECEIVER 4, 2)];
    s.MbxMay m (mbxSlot c) (0x100 + 8 * (c % 32)) true := by decide

theorem test_meets_MailboxesAndLocksServe_2 :
    let m : Nat := 4;
    let c : Nat := 40;
    let s : State := ({} : State).setAll [(F.MBX_BIND_VALID 40, 1), (F.MBX_BIND_SENDER 40, 3), (F.MBX_BIND_RECEIVER 40, 4), (F.MBX_STAT_FULL 40, 1)];
    let u : State := s.setAll [(F.MBX_TAKE_WORD c, 0), (F.MBX_STAT_FULL c, 0)];
    s.MbxMay m (mbxSlot c) (0x200 + 8 * (c % 32)) false ∧ s.mbxBound c = true ∧ s.get (F.MBX_BIND_RECEIVER c) = m ∧ s.mbxFull c = true ∧ u = s.setAll [(F.MBX_TAKE_WORD c, 0), (F.MBX_STAT_FULL c, 0)] := by decide

theorem test_meets_MailboxesAndLocksServe_3 :
    let s : State := {};
    let m : Nat := 4;
    let c : Nat := 40;
    s.MbxMay m (mbxSlot c) (0x200 + 8 * (c % 32)) false := by decide

theorem test_meets_MailboxesAndLocksServe_4 :
    let m : Nat := 4;
    let c : Nat := 40;
    let v : Word := 0;
    let s : State := ({} : State).setAll [(F.MBX_BIND_VALID 40, 1), (F.MBX_BIND_SENDER 40, 3), (F.MBX_BIND_RECEIVER 40, 4)];
    s.MbxMay m (mbxSlot c) (0x300 + 8 * (c % 32)) true := by decide

theorem test_meets_MailboxesAndLocksServe_5 :
    let m : Nat := 3;
    let c : Nat := 40;
    let v : Word := 0;
    let s : State := ({} : State).setAll [(F.MBX_BIND_VALID 40, 1), (F.MBX_BIND_SENDER 40, 3), (F.MBX_BIND_RECEIVER 40, 4)];
    let u : State := s;
    let w : State := s;
    s.MbxMay m (mbxSlot c) (0x300 + 8 * (c % 32)) true ∧ s.mbxBound c = true ∧ s.get (F.MBX_BIND_SENDER c) = m ∧ u = (if bitOf v.toNat 62 then s.set (F.MBX_STAT_DROPPED c) 0 else s) ∧ w = (if bitOf v.toNat 61 then u.set (F.MBX_STAT_REFUSED c) 0 else u) := by decide

theorem test_meets_MailboxesAndLocksServe_6 :
    let s : State := {};
    let m : Nat := 1;
    let c : Nat := 40;
    let snd : Nat := 3;
    let rcv : Nat := 4;
    let valid : Bool := true;
    s.judge m (mbxSlot c) (0x400 + 8 * (c % 32)) true true = none := by decide

theorem test_meets_MailboxesAndLocksServe_7 :
    let s : State := {};
    let m : Nat := 1;
    s.judge m Slot.MBX 0x510 true true = none := by decide

theorem test_meets_MailboxesAndLocksServe_8 :
    let k : Nat := 0;
    let s : State := {};
    let m : Nat := 3;
    s.MbxMay m (Slot.MBX + 1) (0x510 + 8 * k) false := by decide

theorem test_meets_MailboxesAndLocksServe_9 :
    let m : Nat := 3;
    let s : State := ({} : State).set (F.MBX_LOCK_OWNER 0) 3;
    s.MbxMay m (Slot.MBX + 1) 0x590 true := by decide

theorem test_meets_TapAndLinkTestAct_1 :
    let s : State := { pins := { porstLow := true } };
    s.tapPins = true := by decide

theorem test_meets_TapAndLinkTestAct_2 :
    let s : State := ({} : State).set F.LSE_MODE_MODE 4;
    s.tapPins = false := by decide

theorem test_meets_TapAndLinkTestAct_3 :
    (State.reset.get F.SEC_DRBG_STAT_READY = 0) := by decide

theorem test_meets_TapAndLinkTestAct_4 :
    let s : State := (({} : State).set F.LSE_MODE_MODE 2).set F.SEC_DRBG_STAT_READY 1;
    s.sec.fuses.debugDisable = false ∧ s.inReset = false ∧ s.pins.tripped = false ∧ s.mode ≠ .off ∧ s.get F.SEC_DRBG_STAT_READY ≠ 0 := by decide

theorem test_meets_TapAndLinkTestAct_5 :
    let s : State := {};
    let u : State := (s.tapOut 0x21 []).satInc F.SEC_DBG_CNT_TRIES 1;
    u = (s.tapOut 0x21 []).satInc F.SEC_DBG_CNT_TRIES 1 := by decide

theorem test_meets_TapAndLinkTestAct_6 :
    let s : State := ({} : State).set F.LSE_MODE_MODE 2;
    let u : State := (s.tapOut 0x21 []).satInc F.SEC_DBG_CNT_TRIES 1;
    s.inReset = false ∧ s.pins.tripped = false ∧ s.mode ≠ .off ∧ u = (s.tapOut 0x21 []).satInc F.SEC_DBG_CNT_TRIES 1 ∧ u.sec.fuses.debugDisable = false := by decide

theorem test_meets_TapAndLinkTestAct_7 :
    let s : State := {};
    let addr : Nat := 0x010000000000;
    s.inReset = false ∧ inWindow (addr % 2 ^ 48) = true := by decide

theorem test_meets_TapAndLinkTestAct_9 :
    let m : Nat := 3;
    let q : Nat := 24;
    let s : State := (({} : State).set (F.TST_CFG_GEN_EN 24) 1).set (F.MDL_LINK_CTL_ENABLE 0) 1;
    q < 64 ∧ s.judge m (Slot.TST + q) 0x108 true true = none ∧ (List.range 4).any (fun n => bitOf (s.testLanes q) n && !s.laneFree q n) = true := by decide

theorem test_meets_TapAndLinkTestAct_10 :
    let q : Nat := 0;
    let m : Nat := 3;
    let s : State := ({} : State).set (F.TST_CTL_RUN 0) 1;
    q < 64 ∧ s.judge m (Slot.TST + q) 0x108 true true = none ∧ (List.range 4).any (fun n => bitOf (s.testLanes q) n && !s.laneFree q n) = false ∧ s.get (F.TST_CTL_RUN q) = 1 := by decide

theorem test_meets_TapAndLinkTestAct_11 :
    let q : Nat := 0;
    let s : State := {};
    let m : Nat := 3;
    q < 64 ∧ s.judge m (Slot.TST + q) 0x108 true true = none ∧ (List.range 4).any (fun n => bitOf (s.testLanes q) n && !s.laneFree q n) = false ∧ s.get (F.TST_CTL_RUN q) ≠ 1 := by decide

theorem test_meets_TapAndLinkTestAct_12 :
    let q : Nat := 0;
    let s : State := {};
    let m : Nat := 3;
    q < 64 ∧ s.judge m (Slot.TST + q) 0x108 true true = none := by decide

theorem test_meets_TapAndLinkTestAct_13 :
    let q : Nat := 0;
    let s : State := {};
    let m : Nat := 3;
    q < 64 ∧ s.judge m (Slot.TST + q) 0x108 true true = none ∧ s.get (F.TST_CTL_RUN q) = 0 := by decide

theorem test_meets_TapAndLinkTestAct_14 :
    let q : Nat := 0;
    let m : Nat := 3;
    let s : State := ({} : State).set (F.TST_CTL_RUN 0) 1;
    q < 64 ∧ s.judge m (Slot.TST + q) 0x108 true true = none ∧ s.get (F.TST_CTL_RUN q) = 1 := by decide

theorem test_meets_TapAndLinkTestAct_15 :
    let q : Nat := 0;
    let s : State := {};
    let m : Nat := 3;
    q < 64 ∧ s.judge m (Slot.TST + q) 0x108 true true = none ∧ s.get (F.TST_STAT_EYE_STATE q) ≠ 1 ∧ s.get (F.TST_CTL_RUN q) = 0 := by decide

theorem test_meets_TapAndLinkTestAct_16 :
    let q : Nat := 0;
    let s : State := {};
    let m : Nat := 3;
    q < 64 ∧ s.judge m (Slot.TST + q) 0x108 true true = none := by decide

theorem test_meets_TapAndLinkTestAct_17 :
    let q : Nat := 0;
    let lane : Nat := 0;
    let dwell : Nat := 0;
    let a : Nat := 2 ^ 48;
    let s : State := { pins := { tests := [(0, { eye := some (2 ^ 48, 0, 0) })] } };
    (s.tst q).eye = some (a, lane, dwell) ∧ inHbm a 49152 = false := by decide

theorem test_meets_TapAndLinkTestAct_18 :
    let q : Nat := 0;
    let a : Nat := 0;
    let lane : Nat := 0;
    let dwell : Nat := 0;
    let s : State := { pins := { tests := [(0, { eye := some (0, 0, 0) })] } };
    (s.tst q).eye = some (a, lane, dwell) ∧ inHbm a 49152 = true := by decide

theorem test_meets_TapAndLinkTestAct_19 :
    let q : Nat := 0;
    let n : Nat := 0;
    let s : State := (({} : State).set (F.TST_CTL_RUN 0) 1).set (F.TST_CFG_CHK_EN 0) 1;
    q < 64 ∧ n < 4 ∧ s.get (F.TST_CTL_RUN q) ≠ 0 ∧ bitOf (s.get (F.TST_CFG_CHK_EN q)) n = true ∧ bitOf (s.get (F.TST_STAT_LOCK q)) n = false := by decide

theorem test_meets_TapAndLinkTestAct_20 :
    let q : Nat := 0;
    let n : Nat := 0;
    let errs : Nat := 0;
    let s : State := ({} : State).set (F.TST_STAT_LOCK 0) 1;
    let u : State := (s.testCount q n errs).modTest q (fun x => { x with lockTb := AL.del n x.lockTb });
    q < 64 ∧ n < 4 ∧ bitOf (s.get (F.TST_STAT_LOCK q)) n = true ∧ u = (s.testCount q n errs).modTest q (fun x => { x with lockTb := AL.del n x.lockTb }) := by decide

theorem test_meets_PowerStatesAndDozeMove_0 :
    let m : Nat := 1;
    let d : Nat := 10;
    let target : Nat := 3;
    let s : State := ({} : State).set (F.PWR_DOM_STAT_STATE 10) 2;
    d < 20 ∧ s.judge m Slot.PWR (0x200 + 8 * d) true true = none ∧ s.domRefuser d 1 (target % 4) 0 = 0 ∧ target % 4 = 3 ∧ s.dom d = 2 := by decide

theorem test_meets_PowerStatesAndDozeMove_1 :
    let m : Nat := 1;
    let d : Nat := 10;
    let target : Nat := 0;
    let s : State := ({} : State).set (F.PWR_DOM_STAT_STATE 10) 3;
    d < 20 ∧ s.judge m Slot.PWR (0x200 + 8 * d) true true = none ∧ s.domRefuser d 1 (target % 4) 0 = 0 ∧ s.dom d = 3 ∧ target % 4 < 3 := by decide

theorem test_meets_PowerStatesAndDozeMove_2 :
    let m : Nat := 1;
    let d : Nat := 10;
    let target : Nat := 3;
    let s : State := ({} : State).set (F.PWR_DOM_STAT_STATE 10) 3;
    d < 20 ∧ s.judge m Slot.PWR (0x200 + 8 * d) true true = none ∧ s.domRefuser d 1 (target % 4) 0 = 0 := by decide

theorem test_meets_PowerStatesAndDozeMove_3 :
    let s : State := {};
    let m : Nat := 1;
    let d : Nat := 10;
    let r : Nat := 1;
    d < 20 ∧ s.judge m Slot.PWR (0x200 + 8 * d) true true = none ∧ r ≠ 0 := by decide

theorem test_meets_PowerStatesAndDozeMove_4 :
    let m : Nat := 1;
    let d : Nat := 8;
    let cores : Nat := 2;
    let s : State := ({} : State).set (F.PWR_DOM_STAT_STATE 8) 3;
    d < 20 ∧ s.judge m Slot.PWR (0x200 + 8 * d) true true = none ∧ s.domRefuser d 2 0 (cores % 2 ^ 16) = 0 := by decide

theorem test_meets_PowerStatesAndDozeMove_5 :
    let wfi : Bool := false;
    let q : PwrReq := { dom := 10, target := 1 };
    let s : State := { pwr := { req := some { dom := 10, target := 1 } } };
    let u : State := (((s.modPwr (fun p => { p with req := none })).domGo q.dom q.target).bump F.PWR_CNT_ENTRY_COUNT).pwrResult q.dom 0;
    s.pwr.req = some q ∧ q.dom ≠ 31 ∧ s.domQuiet q.dom = true ∧ (domCores q.dom = 0 ∨ (wfi = true ∧ s.coresPend (coreMasters q.dom (2 ^ 16 - 1)) false = false)) ∧ u = (((s.modPwr (fun p => { p with req := none })).domGo q.dom q.target).bump F.PWR_CNT_ENTRY_COUNT).pwrResult q.dom 0 := by decide

theorem test_meets_PowerStatesAndDozeMove_6 :
    let q : PwrReq := { dom := 31, target := 1 };
    let s : State := { pwr := { req := some { dom := 31, target := 1 } } };
    s.pwr.req = some q ∧ q.dom = 31 ∧ ((List.range 16).map (· + 3)).any (fun d => !s.domQuiet d || (decide (domCores d ≠ 0) && s.coresPend (coreMasters d (2 ^ 16 - 1)) false)) = false := by decide

theorem test_meets_PowerStatesAndDozeMove_7 :
    let q : PwrReq := { dom := 10, target := 1 };
    let s : State := { pwr := { req := some { dom := 10, target := 1 } }, time := { tbFx := 524288000 * 2 ^ 32 } };
    s.pwr.req = some q ∧ q.since + s.get F.PWR_CFG_QUIESCE_TMO ≤ s.beat := by decide

theorem test_meets_PowerStatesAndDozeMove_8 :
    let asked : Bool := false;
    let d : Nat := 10;
    let s : State := ({ pwr := { exit := some (10, false) } } : State).set (F.PWR_DOM_STAT_STATE 10) 1;
    let v : State := (s.modPwr (fun p => { p with exit := none })).domGo d 3;
    s.pwr.exit = some (d, asked) ∧ v = (if s.dom d = 0 then (List.range (domCores d)).foldl (fun (s : State) k => s.startCore d (coreMaster d k)) ((s.modPwr (fun p => { p with exit := none })).domGo d 3) else (s.modPwr (fun p => { p with exit := none })).domGo d 3) := by decide

theorem test_meets_PowerStatesAndDozeMove_9 :
    (let s := (({} : State).set (F.PWR_DOM_STAT_STATE 10) 3).set F.PWR_AUTO_IDLE_EN 256; bitOf (s.get F.PWR_AUTO_IDLE_EN) (10 - 2) = true ∧ s.dom 10 = 3 ∧ s.get (F.PWR_DOM_STAT_MOVING 10) = 0 ∧ s.pwr.req = none ∧ s.get F.PWR_DOZE_STAT_PHASE = 0 ∧ (domUnits 10).any (fun k => s.unitBusy (k / 256) (k % 256)) = false) := by decide

theorem test_meets_PowerStatesAndDozeMove_10 :
    let d : Nat := 10;
    let s : State := (({} : State).set (F.PWR_DOM_STAT_STATE 10) 2).set (F.PWR_DOM_STAT_AUTO 10) 1;
    d < 20 ∧ s.dom d = 2 ∧ s.get (F.PWR_DOM_STAT_AUTO d) = 1 := by decide

theorem test_meets_PowerStatesAndDozeMove_11 :
    let s : State := {};
    let source : Nat := 1;
    let dom : Nat := 31;
    (source ≠ 8 ∨ s.irqWakes dom = true) := by decide

theorem test_meets_PowerStatesAndDozeMove_12 :
    let oscStop : Bool := false;
    let m : Nat := 1;
    let s : State := ({} : State).set F.LSE_MODE_MODE 2;
    let u : State := s.set F.PWR_DOZE_CTL_OSC_STOP (b2n oscStop);
    s.judge m Slot.PWR 0x118 true true = none ∧ u = s.set F.PWR_DOZE_CTL_OSC_STOP (b2n oscStop) ∧ u.pwrRuns = false ∧ u.mode = .service ∧ u.anyLease = false := by decide

theorem test_meets_PowerStatesAndDozeMove_13 :
    let oscStop : Bool := false;
    let s : State := {};
    let m : Nat := 1;
    let u : State := s.set F.PWR_DOZE_CTL_OSC_STOP (b2n oscStop);
    s.judge m Slot.PWR 0x118 true true = none ∧ u = s.set F.PWR_DOZE_CTL_OSC_STOP (b2n oscStop) := by decide

theorem test_meets_PowerStatesAndDozeMove_14 :
    let b : Nat := 0;
    let replayed : Bool := false;
    let s : State := ({ pwr := { woken := some (0, false) } } : State).set F.PWR_DOZE_STAT_PHASE 2;
    s.pwr.woken = some (b, replayed) ∧ s.get F.PWR_DOZE_STAT_PHASE = 2 := by decide

theorem test_meets_PowerStatesAndDozeMove_15 :
    let s : State := ({} : State).set F.PWR_DOZE_STAT_PHASE 3;
    let v : State := s;
    s.get F.PWR_DOZE_STAT_PHASE = 3 ∧ v = (if 2048 < s.exitBeats ∧ s.pwr.slowSaid = false then s.raise Slot.PWR Cond.DOZE_EXIT_SLOW s.exitBeats else s) := by decide

theorem test_meets_PowerStatesAndDozeMove_16 :
    let s : State := ({ time := { tbFx := 524288000 * 4096 } } : State).set F.PWR_DOZE_STAT_PHASE 3;
    s.get F.PWR_DOZE_STAT_PHASE = 3 ∧ 2048 < s.exitBeats ∧ s.pwr.slowSaid = false := by decide

theorem test_meets_PowerStatesAndDozeMove_17 :
    let n : Nat := 3;
    let s : State := ({} : State).set F.LSE_MODE_MODE 2;
    let u : State := s.modPwr (fun p => { p with pllBad := p.pllBad ++ [n] });
    n < 9 ∧ s.get F.PWR_DOZE_STAT_PHASE = 0 ∧ s.mode ≠ .vault ∧ s.mode ≠ .off ∧ s.inReset = false ∧ s.pwr.pllBad.contains n = false ∧ u = s.modPwr (fun p => { p with pllBad := p.pllBad ++ [n] }) := by decide

theorem test_meets_PowerStatesAndDozeMove_18 :
    let k : Nat := 1;
    let s : State := ({} : State).set F.CLK_MON_CFG_EN 127;
    let u : State := s.modPwr (fun p => { p with refBad := p.refBad ++ [k] });
    (k = 0 ∨ k = 1) ∧ bitOf (s.get F.CLK_MON_CFG_EN) k = true ∧ s.refOk k = true ∧ s.inReset = false ∧ u = s.modPwr (fun p => { p with refBad := p.refBad ++ [k] }) := by decide

theorem test_meets_PowerStatesAndDozeMove_19 :
    let k : Nat := 4;
    let s : State := ({} : State).set F.CLK_MON_CFG_EN 127;
    let u : State := s.modPwr (fun p => { p with refBad := p.refBad ++ [k] });
    let v : State := (((u.setAll [(F.CLK_MON_STAT_FAIL, u.get F.CLK_MON_STAT_FAIL ||| 2 ^ k), (F.CLK_REF_STAT_OK, u.refBits)]).bump F.CLK_CNT_REF_LOSS_COUNT).bump F.CLK_CNT_MON_FAIL_COUNT).irq Slot.CLK 1;
    2 ≤ k ∧ k ≤ 5 ∧ bitOf (s.get F.CLK_MON_CFG_EN) k = true ∧ s.refOk k = true ∧ s.inReset = false ∧ u = s.modPwr (fun p => { p with refBad := p.refBad ++ [k] }) ∧ v = (((u.setAll [(F.CLK_MON_STAT_FAIL, u.get F.CLK_MON_STAT_FAIL ||| 2 ^ k), (F.CLK_REF_STAT_OK, u.refBits)]).bump F.CLK_CNT_REF_LOSS_COUNT).bump F.CLK_CNT_MON_FAIL_COUNT).irq Slot.CLK 1 := by decide

theorem test_meets_PowerStatesAndDozeMove_20 :
    let s : State := ({} : State).set F.CLK_MON_CFG_EN 127;
    let u : State := s.modPwr (fun p => { p with refBad := p.refBad ++ [6] });
    let v : State := (((u.setAll [(F.CLK_MON_STAT_FAIL, u.get F.CLK_MON_STAT_FAIL ||| 2 ^ 6), (F.CLK_REF_STAT_OK, u.refBits)]).bump F.CLK_CNT_REF_LOSS_COUNT).bump F.CLK_CNT_MON_FAIL_COUNT).irq Slot.CLK 1;
    bitOf (s.get F.CLK_MON_CFG_EN) 6 = true ∧ s.refOk 6 = true ∧ s.inReset = false ∧ u = s.modPwr (fun p => { p with refBad := p.refBad ++ [6] }) ∧ v = (((u.setAll [(F.CLK_MON_STAT_FAIL, u.get F.CLK_MON_STAT_FAIL ||| 2 ^ 6), (F.CLK_REF_STAT_OK, u.refBits)]).bump F.CLK_CNT_REF_LOSS_COUNT).bump F.CLK_CNT_MON_FAIL_COUNT).irq Slot.CLK 1 := by decide

theorem test_meets_PowerStatesAndDozeMove_21 :
    let k : Nat := 1;
    let s : State := { pwr := { refBad := [1] } };
    let u : State := s.modPwr (fun p => { p with refBad := p.refBad.filter (· != k) });
    s.refOk k = false ∧ u = s.modPwr (fun p => { p with refBad := p.refBad.filter (· != k) }) := by decide

theorem test_meets_PowerStatesAndDozeMove_22 :
    let ticks : Nat := 0;
    let startUs : Nat := 0;
    let ns : Nat := 200;
    let s : State := (({} : State).set F.LSE_MODE_MODE 2).set F.AON_PFAIL_CFG_EN 1;
    let u : State := s;
    200 ≤ ns ∧ s.get F.AON_PFAIL_CFG_EN ≠ 0 ∧ s.mode ≠ .vault ∧ s.mode ≠ .off ∧ s.inReset = false ∧ s.pins.tripped = false ∧ u = (if s.mode = .doze then [19, 3, 8, 10, 16, 17].foldl (fun (s : State) d => if s.domUp d then s else s.domGo d 3) (s.clocksStart ticks startUs) else s) := by decide

theorem test_meets_PowerStatesAndDozeMove_23 :
    let s : State := {};
    let m : Nat := 1;
    s.judge m (Slot.AON + 1) 0x108 true true = none := by decide

theorem test_meets_PowerStatesAndDozeMove_24 :
    let b : Nat := 0;
    let l : List Nat := [];
    let s : State := (({ health := { fatalDue := [0] } } : State).set F.LSE_MODE_MODE 7).set F.ERQ_CFG_FATAL_RESET 1;
    let u : State := { s with health := { s.health with fatalDue := s.health.fatalDue.filter (fun b => decide (s.beat < b)) } };
    s.health.fatalDue.filter (fun b => decide (b ≤ s.beat)) = b :: l ∧ u = { s with health := { s.health with fatalDue := s.health.fatalDue.filter (fun b => decide (s.beat < b)) } } ∧ u.get F.ERQ_CFG_FATAL_RESET = 1 ∧ u.get F.ERQ_STAT_HOLD = 0 ∧ u.mode = .fenced := by decide

theorem test_meets_ErrorsEventsAndHealthAct_0 :
    let s : State := {};
    let m : Nat := 1;
    let slot : Nat := Slot.BEAT;
    let cond : Nat := Cond.BEAT_ALIGN_LOST;
    s.judge m Slot.ERQ 0x158 true true = none ∧ s.injectNo slot cond = false := by decide

theorem test_meets_ErrorsEventsAndHealthAct_1 :
    let cond : Nat := 0;
    let s : State := {};
    let m : Nat := 1;
    let slot : Nat := 1000;
    s.judge m Slot.ERQ 0x158 true true = none ∧ s.injectNo slot cond = true := by decide

theorem test_meets_ErrorsEventsAndHealthAct_2 :
    let i : Nat := 0;
    let p : Nat := 0;
    let s : State := {};
    let slot : Nat := Slot.ADM;
    let c : Nat := Blk.ADM;
    pageOf slot = some (c, i, p) ∧ s.domUp (slotDomain slot) = true := by decide

theorem test_meets_ErrorsEventsAndHealthAct_3 :
    let i : Nat := 0;
    let p : Nat := 0;
    let s : State := {};
    let slot : Nat := Slot.HBM;
    pageOf slot = some (Blk.HBM, i, p) ∧ s.domUp (slotDomain slot) = true := by decide

theorem test_meets_ErrorsEventsAndHealthAct_4 :
    let addr : Nat := 0;
    let tag : Nat := 0;
    let i : Nat := 0;
    let p : Nat := 0;
    let s : State := {};
    let slot : Nat := Slot.ADM;
    let c : Nat := Blk.ADM;
    let u : State := (s.raise slot Cond.SRAM_ECC_FAULT addr).jobFault tag;
    pageOf slot = some (c, i, p) ∧ s.domUp (slotDomain slot) = true ∧ u = (s.raise slot Cond.SRAM_ECC_FAULT addr).jobFault tag := by decide

theorem test_meets_ErrorsEventsAndHealthAct_5 :
    let i : Nat := 0;
    let p : Nat := 0;
    let s : State := {};
    let slot : Nat := Slot.NOC;
    pageOf slot = some (Blk.NOC, i, p) ∧ s.domUp (slotDomain slot) = true := by decide

theorem test_meets_ErrorsEventsAndHealthAct_6 :
    let s : State := { time := { tbFx := 524288000 * 2 ^ 24 } };
    s.domUp 3 = true ∧ s.get F.AON_EVR_START_BEAT + 2 ^ 24 ≤ s.beat := by decide

theorem test_meets_ErrorsEventsAndHealthAct_7 :
    let s : State := {};
    let m : Nat := 3;
    let metric : Nat := 255;
    s.judge m Slot.EVR 0x118 true true = none ∧ 224 ≤ metric ∧ metric ≤ 255 := by decide

theorem test_meets_ErrorsEventsAndHealthAct_8 :
    let s : State := {};
    let m : Nat := 3;
    let metric : Nat := 256;
    s.judge m Slot.EVR 0x118 true true = none ∧ ((metric < 224 ∨ 255 < metric)) := by decide

theorem test_meets_ErrorsEventsAndHealthAct_9 :
    let s : State := {};
    let m : Nat := 3;
    s.judge m Slot.EVR 0x110 true true = none := by decide

theorem test_meets_ErrorsEventsAndHealthAct_10 :
    let s : State := {};
    s.domUp 3 = true ∧ s.get F.EVR_STAT_WIN_READY ≠ 1 := by decide

theorem test_meets_ErrorsEventsAndHealthAct_11 :
    let k : Nat := 0;
    let m : Nat := 3;
    let s : State := ({} : State).set F.EVR_STAT_WIN_READY 1;
    k < 63 ∧ s.judge m Slot.EVR (0x200 + 8 * k) true false = none ∧ s.get F.EVR_STAT_WIN_READY ≠ 0 := by decide

theorem test_meets_ErrorsEventsAndHealthAct_12 :
    let s : State := {};
    let m : Nat := 3;
    let k : Nat := 63;
    let u : State := (s.answer (s.health.win.getD 63 0)).bump F.EVR_CNT_READ_COUNT;
    s.judge m Slot.EVR (0x200 + 8 * k) true false = none ∧ k < 64 ∧ u = (s.answer (s.health.win.getD 63 0)).bump F.EVR_CNT_READ_COUNT := by decide

theorem test_meets_ErrorsEventsAndHealthAct_13 :
    let m : Nat := 1;
    let s : State := ({} : State).set F.SEC_DRBG_STAT_READY 1;
    s.judge m clrSlot 0x100 true false = none ∧ s.mayDraw = true := by decide

theorem test_meets_ErrorsEventsAndHealthAct_14 :
    let s : State := {};
    let m : Nat := 1;
    s.judge m clrSlot 0x100 true false = none ∧ s.mayDraw = false := by decide

theorem test_meets_ErrorsEventsAndHealthAct_15 :
    let s : State := {};
    let m : Nat := 1;
    let u : State := s.modHealth (fun h => { h with nonce := none });
    s.judge m clrSlot 0x120 true true = none ∧ s.health.clearBusy = false ∧ u = s.modHealth (fun h => { h with nonce := none }) := by decide

theorem test_meets_ErrorsEventsAndHealthAct_16 :
    let m : Nat := 1;
    let s : State := { health := { clearBusy := true } };
    s.judge m clrSlot 0x120 true true = none ∧ s.health.clearBusy = true := by decide

theorem test_meets_ErrorsEventsAndHealthAct_17 :
    let s : State := {};
    let m : Nat := 1;
    let u : State := s.bump F.EVR_CNT_SEC_CMD_COUNT;
    let v : State := u.sysWrite 0 u.clearEnt.words;
    s.judge m (Slot.EVR + 3) 0x100 true true = none ∧ u = s.bump F.EVR_CNT_SEC_CMD_COUNT ∧ u.health.clearLog.length < 64 ∧ v = u.sysWrite 0 u.clearEnt.words := by decide

theorem test_meets_ErrorsEventsAndHealthAct_18 :
    let m : Nat := 1;
    let s : State := { health := { clearLog := List.replicate 64 { seq := 1, root := 0, beat := 0, boot := 0, first := 0, last := 0, hash := [] } } };
    let u : State := s.bump F.EVR_CNT_SEC_CMD_COUNT;
    s.judge m (Slot.EVR + 3) 0x100 true true = none ∧ u = s.bump F.EVR_CNT_SEC_CMD_COUNT ∧ 64 ≤ u.health.clearLog.length := by decide

theorem test_meets_ErrorsEventsAndHealthAct_19 :
    let margin : Nat := 0;
    let s : State := {};
    let n : Nat := 3;
    let u : State := (s.set (F.AGE_STAT_MARGIN_PS n) margin).bump (F.AGE_CNT_SAMPLE_COUNT n);
    n < 20 ∧ s.domUp n = true ∧ u = (s.set (F.AGE_STAT_MARGIN_PS n) margin).bump (F.AGE_CNT_SAMPLE_COUNT n) := by decide

theorem test_meets_ErrorsEventsAndHealthAct_20 :
    let s : State := {};
    let sensor : Nat := 3;
    let temp : Int := 101;
    let u : State := s.tempIs sensor temp;
    sensor < 24 ∧ u = s.tempIs sensor temp ∧ warnLimit sensor < temp ∧ u.health.warned.contains sensor = false := by decide

theorem test_meets_ErrorsEventsAndHealthAct_21 :
    let sensor : Nat := 3;
    let temp : Int := 116;
    let s : State := ({} : State).set F.LSE_MODE_MODE 2;
    let u : State := s.tempIs sensor temp;
    sensor < 20 ∧ 115 < temp ∧ u = s.tempIs sensor temp ∧ u.inReset = false ∧ u.pins.tripped = false ∧ u.mode ≠ .off := by decide

theorem test_meets_ErrorsEventsAndHealthAct_22 :
    let s : State := {};
    let sensor : Nat := 3;
    let temp : Int := 126;
    let u : State := s.tempIs sensor temp;
    let v : State := (({ u.resetHead with pages := tripHdrs u.pages } : State).holdDomains).set F.AON_RESET_CAUSE_TRIP 1;
    sensor < 20 ∧ 125 < temp ∧ u = s.tempIs sensor temp ∧ u.pins.tripped = false ∧ u.pins.porstLow = false ∧ v = (({ u.resetHead with pages := tripHdrs u.pages } : State).holdDomains).set F.AON_RESET_CAUSE_TRIP 1 := by decide

theorem test_meets_ErrorsEventsAndHealthAct_23 :
    let s : State := {};
    let sensor : Nat := 3;
    let temp : Int := 95;
    let u : State := s.tempIs sensor temp;
    let v : State := u.modHealth (fun h => { h with warned := h.warned.filter (· != sensor) });
    sensor < 24 ∧ u = s.tempIs sensor temp ∧ temp ≤ warnLimit sensor - 5 ∧ v = u.modHealth (fun h => { h with warned := h.warned.filter (· != sensor) }) := by decide

theorem test_meets_BootChainRuns_0 :
    let s : State := (({} : State).set F.LSE_MODE_MODE 1).set F.SEC_ENT_STAT_STATE 1;
    s.chainAt 0 = true ∧ s.get F.SEC_ENT_STAT_STATE = 1 ∧ s.sec.copiesBad.contains 1 = false := by decide

theorem test_meets_BootChainRuns_1 :
    let s : State := ({ time := { tbFx := 524288000 * 65536 } } : State).set F.LSE_MODE_MODE 1;
    s.chainAt 0 = true ∧ s.sec.copiesBad.contains 1 = false ∧ s.pair.bootBeat + 65536 ≤ s.beat := by decide

theorem test_meets_BootChainRuns_2 :
    let s : State := (({} : State).set F.LSE_MODE_MODE 1).set F.SEC_BOOT_STAT_STAGE 1;
    let u : State := ((({} : State).set F.LSE_MODE_MODE 1).set F.SEC_BOOT_STAT_STAGE 1).modFlash (fun f => { f with slot := f.ptr.curSlot, trial := false });
    s.chainAt 1 = true ∧ s.flash.chosen = none ∧ s.flash.ptr.next = none ∧ u = s.modFlash (fun f => { f with slot := f.ptr.curSlot, trial := false }) := by decide

theorem test_meets_BootChainRuns_3 :
    let k : Nat := 0;
    let b : Nat := 1;
    let s : State := (({ flash := { ptr := { next := some (1, 0) } } } : State).set F.LSE_MODE_MODE 1).set F.SEC_BOOT_STAT_STAGE 1;
    let u : State := (s.fallBack.updRaise Cond.UPD_TRIAL_FALLBACK).modFlash (fun f => { f with slot := f.ptr.curSlot, trial := false });
    s.chainAt 1 = true ∧ s.flash.chosen = none ∧ s.flash.ptr.next = some (b, k) ∧ s.flash.ptr.tries < 3 ∧ u = (s.fallBack.updRaise Cond.UPD_TRIAL_FALLBACK).modFlash (fun f => { f with slot := f.ptr.curSlot, trial := false }) := by decide

theorem test_meets_BootChainRuns_4 :
    let k : Nat := 0;
    let b : Nat := 1;
    let s : State := (({ flash := { ptr := { next := some (1, 0), tries := 3 } } } : State).set F.LSE_MODE_MODE 1).set F.SEC_BOOT_STAT_STAGE 1;
    let u : State := (s.fallBack.updRaise Cond.UPD_TRIAL_FALLBACK).modFlash (fun f => { f with slot := f.ptr.curSlot, trial := false });
    s.chainAt 1 = true ∧ s.flash.chosen = none ∧ s.flash.ptr.next = some (b, k) ∧ 3 ≤ s.flash.ptr.tries ∧ u = (s.fallBack.updRaise Cond.UPD_TRIAL_FALLBACK).modFlash (fun f => { f with slot := f.ptr.curSlot, trial := false }) := by decide

theorem test_meets_BootChainRuns_5 :
    let s : State := ((({ flash := { chosen := some 0 } } : State).set F.LSE_MODE_MODE 1).set F.SEC_BOOT_STAT_STAGE 1).set F.SEC_DRBG_STAT_READY 1;
    let u : State := s.setAll [(F.SEC_BOOT_STAT_STAGE, 2), (F.SEC_BOOT_BEATS_FIRMWARE, s.beat32)];
    s.flash.chosen.isSome = true ∧ s.get F.SEC_BOOT_STAT_STAGE = 1 ∧ s.inReset = false ∧ s.health.bootHalted = false ∧ (s.mode = .boot ∨ s.mode = .service) ∧ (s.sec.udsClosed || s.mayDraw) = true ∧ u = s.setAll [(F.SEC_BOOT_STAT_STAGE, 2), (F.SEC_BOOT_BEATS_FIRMWARE, s.beat32)] := by decide

theorem test_meets_BootChainRuns_6 :
    let beats : Nat := 0;
    let stack : Nat := 3;
    let ok : Nat := 255;
    let s : State := (((State.reset).set F.SEC_BOOT_STAT_STAGE 2).set (F.PWR_DOM_STAT_STATE (slotDomain (Slot.HBM + 12))) 3);
    let u : State := (List.range 4).foldl (fun (t : State) p => t.setAll [(F.HBM_STAT_PC_OK stack p, bitsOf ok (8 * p) 8), (F.HBM_STAT_STATE stack p, if bitsOf ok (8 * p) 8 = 255 then 2 else 3), (F.HBM_STAT_TRAIN_BEATS stack p, beats)]) s;
    stack < 4 ∧ s.inReset = false ∧ 2 ≤ s.get F.SEC_BOOT_STAT_STAGE ∧ s.domUp (slotDomain (Slot.HBM + 4 * stack)) = true ∧ u = (List.range 4).foldl (fun (t : State) p => t.setAll [(F.HBM_STAT_PC_OK stack p, bitsOf ok (8 * p) 8), (F.HBM_STAT_STATE stack p, if bitsOf ok (8 * p) 8 = 255 then 2 else 3), (F.HBM_STAT_TRAIN_BEATS stack p, beats)]) s := by decide

theorem test_meets_BootChainRuns_7 :
    let b : Nat := 1;
    let k : Nat := 1;
    let s : State := ({ flash := { trial := true, slot := 1, slots := [(0, { ok := true })], ptr := { next := some (1, 1) } } } : State).set F.SEC_BOOT_STAT_STAGE 2;
    s.flash.trial = true ∧ s.flash.migrated = false ∧ 2 ≤ s.get F.SEC_BOOT_STAT_STAGE ∧ s.health.bootHalted = false ∧ s.flash.ptr.next = some (b, k) ∧ (AL.getD s.flash.ptr.curSlot {} s.flash.slots).ok = true ∧ AL.has s.flash.slot s.flash.slots = false := by decide

theorem test_meets_BootChainRuns_8 :
    let b : Nat := 1;
    let k : Nat := 1;
    let x : Settings := { ok := true };
    let s : State := ({ flash := { trial := true, slot := 1, slots := [(1, { ok := true })], ptr := { next := some (1, 1) } } } : State).set F.SEC_BOOT_STAT_STAGE 2;
    s.flash.trial = true ∧ s.flash.migrated = false ∧ 2 ≤ s.get F.SEC_BOOT_STAT_STAGE ∧ s.health.bootHalted = false ∧ s.flash.ptr.next = some (b, k) ∧ AL.get s.flash.slot s.flash.slots = some x ∧ x.ok = true ∧ x.sourceSeq = (AL.getD s.flash.ptr.curSlot {} s.flash.slots).seq ∧ x.format = (s.bank b).format := by decide

theorem test_meets_BootChainRuns_9 :
    let readable : Bool := false;
    let converts : Bool := false;
    let writes : Bool := false;
    let s : State := ({ flash := { trial := true, slot := 1, slots := [(0, { ok := true })], ptr := { next := some (1, 1) } } } : State).set F.SEC_BOOT_STAT_STAGE 2;
    s.flash.trial = true ∧ s.flash.migrated = false ∧ 2 ≤ s.get F.SEC_BOOT_STAT_STAGE ∧ s.health.bootHalted = false ∧ AL.has s.flash.slot s.flash.slots = false ∧ (readable && converts && writes) = false := by decide

theorem test_meets_UpdateRequestsRun_0 :
    let c : Nat := 0;
    let a : Nat := 0;
    let b : Nat := 1;
    let s : State := Wit.updReq 1 [];
    let u : State := s.kslDrop 0;
    s.UpdTurn 1 c a ∧ c ≠ 129 ∧ (s.flash.source = 0 ∨ s.flash.source = 1) ∧ s.staging = some b ∧ s.flash.trial = false ∧ inHbm (s.updArg c a 1) 65536 = true ∧ u = s.kslDrop 0 := by decide

theorem test_meets_UpdateRequestsRun_1 :
    let c : Nat := 0;
    let a : Nat := 0;
    let b : Nat := 1;
    let s : State := { Wit.updReq 2 [(1, 1), (2, 64)] with flash := { source := 1, banks := [(1, { state := 1, blocks := 70, done := 1 })] } };
    s.UpdTurn 2 c a ∧ c ≠ 129 ∧ s.staging = some b ∧ (s.bank b).state = 1 ∧ s.flash.source = 1 ∧ 0 < s.updArg c a 2 ∧ s.updArg c a 2 ≤ 64 ∧ inHbm (s.updArg c a 3) (65536 * s.updArg c a 2) = true := by decide

theorem test_meets_UpdateRequestsRun_2 :
    let a : Nat := 5;
    let b : Nat := 1;
    let s : State := { mbx := { updQ := [(129, 5)] }, flash := { source := 2, banks := [(1, { state := 1, blocks := 70, done := 1 })], kslQ := [(5, 2, [0, 0, 0, 0, 0, 0, 0, 2, 1, 0, 0, 0, 0, 0, 0, 0, 64, 0, 0, 0, 0, 0, 0, 0])] } };
    s.UpdTurn 2 129 a ∧ s.staging = some b ∧ (s.bank b).state = 1 ∧ s.flash.source = 2 ∧ 0 < s.updArg 129 a 2 ∧ s.updArg 129 a 2 ≤ 64 := by decide

theorem test_meets_UpdateRequestsRun_3 :
    let c : Nat := 0;
    let a : Nat := 0;
    let b : Nat := 1;
    let s : State := { Wit.updReq 3 [] with flash := { source := 1, banks := [(1, { state := 2 })] } };
    s.UpdTurn 3 c a ∧ s.staging = some b ∧ (s.bank b).state = 2 ∧ s.flash.source = (if c = 129 then 2 else 1) := by decide

theorem test_meets_UpdateRequestsRun_4 :
    let c : Nat := 0;
    let a : Nat := 0;
    let b : Nat := 1;
    let s : State := { Wit.updReq 4 [] with flash := { banks := [(1, { state := 3 })] } };
    s.UpdTurn 4 c a ∧ s.flash.trial = false ∧ s.staging = some b ∧ (s.bank b).state = 3 := by decide

theorem test_meets_UpdateRequestsRun_5 :
    let c : Nat := 0;
    let a : Nat := 0;
    let b : Nat := 1;
    let s : State := Wit.updReq 5 [];
    s.UpdTurn 5 c a ∧ s.flash.ptr.next = none ∧ s.staging = some b := by decide

theorem test_meets_UpdateRequestsRun_6 :
    let c : Nat := 0;
    let a : Nat := 0;
    let s : State := ({ Wit.updReq 6 [] with flash := { trial := true, migrated := true, deadline := 9, ptr := { next := some (1, 1) } } } : State).set F.LSE_MODE_MODE 3;
    s.UpdTurn 6 c a ∧ s.mayConfirm = true := by decide

theorem test_meets_UpdateRequestsRun_7 :
    let c : Nat := 0;
    let a : Nat := 0;
    let s : State := Wit.updReq 7 [];
    s.UpdTurn 7 c a := by decide

theorem test_meets_UpdateRequestsRun_8 :
    let c : Nat := 0;
    let a : Nat := 0;
    let s : State := Wit.updReq 8 [(1, 1), (2, 8), (3, 64)];
    s.UpdTurn 8 c a ∧ itemOk (s.updArg c a 1) (s.updArg c a 2) = true ∧ (c = 129 ∨ inHbm (s.updArg c a 3) (s.updArg c a 2) = true) ∧ (s.flash.trial = false ∨ s.flash.migrated = true) := by decide

theorem test_meets_UpdateRequestsRun_9 :
    let a : Nat := 5;
    let op : Nat := 4;
    let s : State := { mbx := { updQ := [(129, 5)] }, flash := { kslQ := [(5, 9, [0, 0, 0, 0, 0, 0, 0, 9, 4])] } };
    s.UpdTurn 9 129 a ∧ op = s.updArg 129 a 1 ∧ ((op = 3 ∧ s.sec.fuses.rootI = none) ∨ op = 4 ∨ (op = 5 ∧ s.sec.fuses.rootI.isSome = true ∧ s.sec.fuses.debugDisable = false)) := by decide

theorem test_meets_UpdateRequestsRun_10 :
    let c : Nat := 0;
    let a : Nat := 0;
    let s : State := Wit.updReq 1 [];
    let src : Nat := 1;
    s.UpdTurn 1 c a ∧ src = (if c = 129 then 2 else 1) := by decide

theorem test_meets_UpdateRequestsRun_11 :
    let a : Nat := 5;
    let b : Nat := 1;
    let s : State := { mbx := { updQ := [(129, 5)] }, flash := { kslQ := [(5, 1, [0, 0, 0, 0, 0, 0, 0, 1])] } };
    let u : State := s.kslDrop 0;
    s.UpdTurn 1 129 a ∧ (s.flash.source = 0 ∨ s.flash.source = 2) ∧ s.staging = some b ∧ s.flash.trial = false ∧ u = s.kslDrop 0 := by decide

theorem test_meets_UpdateRequestsRun_12 :
    let c : Nat := 0;
    let a : Nat := 0;
    let s : State := Wit.updReq 2 [];
    let src : Nat := 1;
    s.UpdTurn 2 c a ∧ src = (if c = 129 then 2 else 1) := by decide

theorem test_meets_UpdateRequestsRun_13 :
    ((Wit.updReq 3 []).UpdTurn 3 0 0 ∧ (Wit.updReq 3 []).staging = some 1 ∧ ((Wit.updReq 3 []).bank 1).state ≠ 2) := by decide

theorem test_meets_UpdateRequestsRun_14 :
    ((Wit.updReq 4 []).UpdTurn 4 0 0 ∧ (Wit.updReq 4 []).staging = some 1 ∧ ((Wit.updReq 4 []).bank 1).state ≠ 3) := by decide

theorem test_meets_UpdateRequestsRun_15 :
    let c : Nat := 0;
    let a : Nat := 0;
    let s : State := { Wit.updReq 5 [] with flash := { ptr := { next := some (1, 0) } } };
    s.UpdTurn 5 c a ∧ (s.flash.ptr.next ≠ none ∨ s.staging = none) := by decide

theorem test_meets_UpdateRequestsRun_16 :
    let c : Nat := 0;
    let a : Nat := 0;
    let s : State := Wit.updReq 6 [];
    s.UpdTurn 6 c a ∧ s.mayConfirm = false := by decide

theorem test_meets_UpdateRequestsRun_17 :
    let c : Nat := 0;
    let a : Nat := 0;
    let s : State := Wit.updReq 8 [];
    s.UpdTurn 8 c a := by decide

theorem test_meets_UpdateRequestsRun_18 :
    let c : Nat := 0;
    let a : Nat := 0;
    let op : Nat := 0;
    let s : State := Wit.updReq 9 [];
    s.UpdTurn 9 c a ∧ op = s.updArg c a 1 ∧ (c ≠ 129 ∨ (op = 3 ∧ s.sec.fuses.rootI ≠ none) ∨ (op = 5 ∧ (s.sec.fuses.rootI = none ∨ s.sec.fuses.debugDisable = true)) ∨ op < 3 ∨ 5 < op) := by decide

theorem test_meets_ActivationAndTrialMove_0 :
    let n : Nat := 0;
    let t : Nat := 0;
    let said : Bool := false;
    let w : Nat := 1;
    let s : State := ({ flash := { sched := some (0, 1, false), banks := [(1, { state := 3 })] } } : State).setAll [(F.LSE_MODE_MODE, 3), (F.PRL_STAT_REACHABLE, 1), (F.PRL_PEER_INFO_MODE, 3), (F.BEAT_STAT_SOURCE, 1)];
    s.schedAge = some n ∧ s.flash.sched = some (t, w, said) ∧ n < 1024 * w ∧ s.flash.activating = false ∧ s.mayActivate = true ∧ s.mode = .paired ∧ s.pair.hand = .none ∧ s.get F.LSE_MODE_REQ_STAT_BUSY = 0 := by decide

theorem test_meets_ActivationAndTrialMove_1 :
    let n : Nat := 0;
    let t : Nat := 0;
    let said : Bool := false;
    let w : Nat := 1;
    let s : State := ({ flash := { sched := some (0, 1, false), schedSolo := true, banks := [(1, { state := 3 })] } } : State).setAll [(F.LSE_MODE_MODE, 4), (F.BEAT_STAT_SOURCE, 1)];
    s.schedAge = some n ∧ s.flash.sched = some (t, w, said) ∧ n < 1024 * w ∧ s.flash.activating = false ∧ s.mayActivate = true ∧ s.mode = .solo ∧ s.pair.hand = .none ∧ s.modeRefusal 2 = 0 := by decide

theorem test_meets_ActivationAndTrialMove_2 :
    let n : Nat := 0;
    let t : Nat := 0;
    let said : Bool := false;
    let w : Nat := 1;
    let c : Nat := Cond.MODE_REQ_BUSY;
    let s : State := ({ pair := { hand := .handoverDraining }, flash := { sched := some (0, 1, false), banks := [(1, { state := 3 })] } } : State).setAll [(F.LSE_MODE_MODE, 3), (F.PRL_STAT_REACHABLE, 1), (F.PRL_PEER_INFO_MODE, 3), (F.BEAT_STAT_SOURCE, 1)];
    s.schedAge = some n ∧ s.flash.sched = some (t, w, said) ∧ n < 1024 * w ∧ s.flash.activating = false ∧ s.mayActivate = true ∧ c = (if s.pair.hand ≠ .none then Cond.MODE_REQ_BUSY else s.modeRefusal (if s.mode = .paired then 1 else 2)) ∧ c ≠ 0 := by decide

theorem test_meets_ActivationAndTrialMove_3 :
    let n : Nat := 0;
    let t : Nat := 0;
    let w : Nat := 1;
    let s : State := ({ flash := { sched := some (0, 1, true) } } : State).set F.BEAT_STAT_SOURCE 1;
    s.schedAge = some n ∧ s.flash.sched = some (t, w, true) ∧ n < 1024 * w ∧ s.mayActivate = false := by decide

theorem test_meets_ActivationAndTrialMove_4 :
    let n : Nat := 0;
    let t : Nat := 0;
    let w : Nat := 1;
    let s : State := ({ flash := { sched := some (0, 1, false) } } : State).set F.BEAT_STAT_SOURCE 1;
    s.schedAge = some n ∧ s.flash.sched = some (t, w, false) ∧ n < 1024 * w ∧ s.flash.activating = false ∧ s.mayActivate = false := by decide

theorem test_meets_ActivationAndTrialMove_5 :
    let n : Nat := 0;
    let t : Nat := 0;
    let w : Nat := 0;
    let said : Bool := false;
    let s : State := ({ flash := { sched := some (0, 0, false) } } : State).set F.BEAT_STAT_SOURCE 1;
    s.schedAge = some n ∧ s.flash.sched = some (t, w, said) ∧ 1024 * w ≤ n ∧ s.flash.activating = false := by decide

theorem test_meets_ActivationAndTrialMove_6 :
    let s : State := { flash := { trial := true } };
    s.flash.trial = true ∧ s.flash.deadline ≤ s.beat ∧ s.pair.after ≠ 2 := by decide

theorem test_meets_ServiceLinkFramesAct_0 :
    (let s : State := (({} : State).set F.LSE_MODE_MODE 4).set F.SEC_DRBG_STAT_READY 1; s.KslFrame (Wit.kslFrame 1 []) 1 0 0 ∧ (s.kslHeard.kslSound 0).mayDraw = true) := by decide

theorem test_meets_ServiceLinkFramesAct_1 :
    (let s : State := ({} : State).set F.LSE_MODE_MODE 4; s.KslFrame (Wit.kslFrame 1 []) 1 0 0 ∧ (s.kslHeard.kslSound 0).mayDraw = false) := by decide

theorem test_meets_ServiceLinkFramesAct_2 :
    (let s : State := ({ flash := { nonce := some 3 } } : State).set F.LSE_MODE_MODE 4; s.KslFrame (Wit.kslFrame 3 (List.replicate 9078 0)) 3 9078 0 ∧ (s.kslHeard.kslSound 0).flash.nonce = some 3 ∧ AL.get (bytesNat (Wit.kslFrame 3 (List.replicate 9078 0)) 4 4) (s.kslHeard.kslSound 0).flash.resps = none) := by decide +kernel

theorem test_meets_ServiceLinkFramesAct_3 :
    let session : Nat := 0;
    let s : State := (({} : State).set F.LSE_MODE_MODE 4).set F.SVC_CFG_READ_OPEN 1;
    let frame : List Nat := Wit.kslFrame 4 [0, 0, 0, 0, 0, 0, 0, 7];
    let len : Nat := 8;
    let u : State := s.kslHeard.kslSound 0;
    let p : List Nat := (frame.take (16 + len)).drop 16;
    s.KslFrame frame 4 len session ∧ u = s.kslHeard.kslSound session ∧ p = (frame.take (16 + len)).drop 16 ∧ AL.get (bytesNat frame 4 4) u.flash.resps = none ∧ AL.has (bytesNat frame 4 4) u.flash.kslQ = false ∧ ((p.getD 7 0 = 7 ∧ u.get F.SVC_CFG_READ_OPEN = 1) ∨ (session ≠ 0 ∧ bitOf (((u.flash.session).map (·.scope)).getD 0) (kslScope (p.getD 7 0)) = true)) := by decide

theorem test_meets_ServiceLinkFramesAct_4 :
    let s : State := ({ flash := { session := some ⟨9, 1, 0, 0⟩ } } : State).set F.LSE_MODE_MODE 4;
    let session : Nat := 9;
    let frame : List Nat := [0x4B, 0x53, 1, 6, 5, 0, 0, 0, 6, 4, 0, 0, 9, 0, 0, 0] ++ List.replicate 1062 0;
    let u : State := s.kslHeard.kslSound 9;
    let p : List Nat := (frame.take 1046).drop 16;
    s.KslFrame frame 6 1030 session ∧ u = s.kslHeard.kslSound session ∧ p = (frame.take 1046).drop 16 ∧ session ≠ 0 ∧ AL.get (bytesNat frame 4 4) u.flash.resps = none ∧ bitOf (((u.flash.session).map (·.scope)).getD 0) 0 = true ∧ bytesNat p 4 2 < 64 ∧ ((((u.flash.frames.map (·.1)).eraseDups).contains (bytesNat p 0 4) = true ∨ ((u.flash.frames.map (·.1)).eraseDups).length < 8)) := by decide

theorem test_meets_ServiceLinkFramesAct_5 :
    let session : Nat := 0;
    let s : State := ({} : State).set F.LSE_MODE_MODE 1;
    let frame : List Nat := Wit.kslFrame 9 [1, 2];
    let len : Nat := 2;
    let u : State := s.kslHeard.kslSound 0;
    s.KslFrame frame 9 len session ∧ u = s.kslHeard.kslSound session ∧ AL.get (bytesNat frame 4 4) u.flash.resps = none := by decide

theorem test_meets_ServiceLinkFramesAct_6 :
    let session : Nat := 0;
    let s : State := (({} : State).set F.LSE_MODE_MODE 4).set F.SVC_CFG_READ_OPEN 1;
    let a : Nat := windowBase;
    let frame : List Nat := Wit.kslFrame 7 (leNat 8 a);
    let len : Nat := 8;
    let u : State := s.kslHeard.kslSound 0;
    let v : State := (u.winRead 60 a 8).bump F.SVC_CNT_READ_COUNT;
    s.KslFrame frame 7 len session ∧ u = s.kslHeard.kslSound session ∧ AL.get (bytesNat frame 4 4) u.flash.resps = none ∧ (session ≠ 0 ∨ u.get F.SVC_CFG_READ_OPEN = 1) ∧ a = bytesNat ((frame.take (16 + len)).drop 16) 0 8 ∧ inWindow a = true ∧ v = (u.winRead 60 a 8).bump F.SVC_CNT_READ_COUNT := by decide

theorem test_meets_ServiceLinkFramesAct_7 :
    let s : State := ({} : State).set F.LSE_MODE_MODE 4;
    let frame : List Nat := [1];
    s.svcUp = true ∧ ¬ (frame.getD 0 0 = 0x4B ∧ frame.getD 1 0 = 0x53 ∧ frame.getD 2 0 = 1 ∧ kslLenOk (frame.getD 3 0) (bytesNat frame 8 2) = true ∧ 16 + bytesNat frame 8 2 ≤ frame.length) := by decide

theorem test_meets_ServiceLinkFramesAct_8 :
    (let s : State := ({ flash := { resps := [(5, [5, 0])] } } : State).set F.LSE_MODE_MODE 4; let frame := Wit.soundFrame 4 [0, 0, 0, 0, 0, 0, 0, 7]; s.KslFrame frame 4 8 0 ∧ s.kslHeard.kslTrailerOk (frame.take (16 + 8)) (frame.drop (16 + 8)) 0 = true ∧ AL.get (bytesNat frame 4 4) (s.kslHeard.kslSound 0).flash.resps = some [5, 0]) := by decide +kernel

theorem test_meets_ServiceLinkFramesAct_9 :
    (let s : State := ({} : State).set F.LSE_MODE_MODE 4; s.KslFrame (Wit.kslFrame 3 (List.replicate 9078 0)) 3 9078 0 ∧ (s.kslHeard.kslSound 0).flash.nonce = none ∧ AL.get (bytesNat (Wit.kslFrame 3 (List.replicate 9078 0)) 4 4) (s.kslHeard.kslSound 0).flash.resps = none) := by decide +kernel

theorem test_meets_ServiceLinkFramesAct_10 :
    (let s : State := (({} : State).set F.LSE_MODE_MODE 4).set F.SVC_CFG_READ_OPEN 0; let frame := Wit.soundFrame 4 [0, 0, 0, 0, 0, 0, 0, 7]; s.KslFrame frame 4 8 0 ∧ s.kslHeard.kslTrailerOk (frame.take (16 + 8)) (frame.drop (16 + 8)) 0 = true ∧ AL.get (bytesNat frame 4 4) (s.kslHeard.kslSound 0).flash.resps = none ∧ (s.kslHeard.kslSound 0).get F.SVC_CFG_READ_OPEN ≠ 1) := by decide +kernel

theorem test_meets_ServiceLinkFramesAct_11 :
    let session : Nat := 0;
    let s : State := ({} : State).set F.LSE_MODE_MODE 4;
    let frame : List Nat := [0x4B, 0x53, 1, 6, 5, 0, 0, 0, 6, 4, 0, 0, 0, 0, 0, 0] ++ List.replicate 1034 0;
    let u : State := s.kslHeard.kslSound 0;
    let p : List Nat := (frame.take 1046).drop 16;
    s.KslFrame frame 6 1030 session ∧ u = s.kslHeard.kslSound session ∧ p = (frame.take 1046).drop 16 ∧ AL.get (bytesNat frame 4 4) u.flash.resps = none ∧ (session = 0 ∨ bitOf (((u.flash.session).map (·.scope)).getD 0) 0 = false ∨ 64 ≤ bytesNat p 4 2 ∨ (((u.flash.frames.map (·.1)).eraseDups).contains (bytesNat p 0 4) = false ∧ 8 ≤ ((u.flash.frames.map (·.1)).eraseDups).length)) := by decide

theorem test_meets_ServiceLinkFramesAct_12 :
    (let s : State := (({} : State).set F.LSE_MODE_MODE 4).set F.SVC_CFG_READ_OPEN 0; let frame := Wit.soundFrame 7 (leNat 8 0); s.KslFrame frame 7 8 0 ∧ s.kslHeard.kslTrailerOk (frame.take (16 + 8)) (frame.drop (16 + 8)) 0 = true ∧ AL.get (bytesNat frame 4 4) (s.kslHeard.kslSound 0).flash.resps = none ∧ (s.kslHeard.kslSound 0).get F.SVC_CFG_READ_OPEN ≠ 1 ∧ inWindow 0 = false) := by decide +kernel

theorem test_meets_ServiceLinkFramesAct_13 :
    (let s : State := { flash := { session := some ⟨1, 1, 0, 0⟩ }, time := { tbFx := 524288000 * 2 ^ 25 } }; s.flash.session = some ⟨1, 1, 0, 0⟩ ∧ (⟨1, 1, 0, 0⟩ : KslSession).lastBeat + 2 ^ 24 ≤ s.beat) := by decide

theorem test_meets_MetadataPagesArrive_0 :
    let page : Nat := 0;
    let s : State := { read := { mapPages := [(0, { fetching := true })] } };
    let g : MetaPage := { fetching := true };
    s.metaPage false page = some g ∧ g.fetching = true ∧ g.queued = false ∧ g.left = 0 ∧ g.bad = false := by decide

theorem test_meets_MetadataPagesArrive_1 :
    let page : Nat := 0;
    let s : State := { read := { ctbPages := [(0, { fetching := true })] } };
    let g : MetaPage := { fetching := true };
    s.metaPage true page = some g ∧ g.fetching = true ∧ g.queued = false ∧ g.left = 0 ∧ g.bad = false := by decide

theorem test_meets_MetadataPagesArrive_2 :
    let page : Nat := 0;
    let ok : Bool := false;
    let words : List (Nat × Nat) := [];
    let c : Instr := .ctbPageFetchDone 0 false;
    let ctb : Bool := true;
    let s : State := { read := { ctbPages := [(0, { fetching := true })] } };
    let g : MetaPage := { fetching := true };
    (c, ctb) ∈ [(Instr.mapPageFetchDone page ok words, false), (.ctbPageFetchDone page ok, true)] ∧ s.metaPage ctb page = some g ∧ g.fetching = true ∧ g.queued = false ∧ g.left = 0 ∧ (ok = false ∨ g.bad = true) ∧ g.again = false := by decide

theorem test_meets_MetadataPagesArrive_3 :
    let page : Nat := 0;
    let ctb : Bool := false;
    let ok : Bool := false;
    let words : List (Nat × Nat) := [];
    let c : Instr := .mapPageFetchDone 0 false [];
    let s : State := { read := { mapPages := [(0, { fetching := true, again := true })] } };
    let g : MetaPage := { fetching := true, again := true };
    (c, ctb) ∈ [(Instr.mapPageFetchDone page ok words, false), (.ctbPageFetchDone page ok, true)] ∧ s.metaPage ctb page = some g ∧ g.fetching = true ∧ g.queued = false ∧ g.left = 0 ∧ (ok = false ∨ g.bad = true) ∧ g.again = true := by decide

theorem test_meets_MetadataPagesArrive_4 :
    let ctb : Bool := false;
    let key : Nat := 0;
    let s : State := { read := { mapPages := [(0, { resident := true })] } };
    let g : MetaPage := { resident := true };
    s.metaPage ctb key = some g ∧ g.resident = true := by decide

theorem test_meets_MetadataPagesArrive_5 :
    (({} : State).metaPage false 0 = none) ∧ (let s : State := { read := { mapPages := [(0, {})] } }; ∃ g, s.metaPage false 0 = some g ∧ g.resident = false) := ⟨by decide, ⟨{}, by decide, by decide⟩⟩

theorem test_meets_MetadataPagesArrive_6 :
    let key : Nat := 0;
    let s : State := { read := { ctbPages := [(0, { fetching := true })] } };
    let g : MetaPage := { fetching := true };
    s.metaPage true key = some g ∧ g.fetching = true := by decide

theorem test_meets_MetadataPagesArrive_7 :
    let key : Nat := 0;
    let s : State := { read := { mapPages := [(0, { fetching := true })] } };
    let g : MetaPage := { fetching := true };
    s.metaPage false key = some g ∧ g.fetching = true := by decide

theorem test_meets_MetadataPagesArrive_8 :
    let ctb : Bool := false;
    let key : Nat := 0;
    let s : State := { read := { mapPages := [(0, { fetching := true })] }, ftl := { leaves := [(metaLeaf false 0, { resident := true })] } };
    let g : MetaPage := { fetching := true };
    s.metaPage ctb key = some g ∧ g.fetching = true ∧ s.leafHere (metaLeaf ctb key) = true := by decide

theorem test_meets_MetadataPagesArrive_9 :
    let s : State := {};
    let m : Nat := 3;
    s.judge m Slot.MAP 0x130 true true = none ∧ s.read.mapInval = none := by decide

theorem test_meets_MetadataPagesArrive_10 :
    let m : Nat := 3;
    let s : State := { read := { mapInval := some none } };
    s.judge m Slot.MAP 0x130 true true = none ∧ s.read.mapInval.isSome = true := by decide

theorem test_meets_MetadataPagesArrive_11 :
    let v : Option Nat := some 4;
    let s : State := { read := { mapInval := some (some 4) } };
    s.read.mapInval = some v ∧ (s.mapPass v).read.mapPages.any (mapNamed v) = false := by decide

theorem test_meets_MetadataPagesArrive_12 :
    let s : State := {};
    let m : Nat := 3;
    s.judge m Slot.RCH 0x128 true true = none ∧ s.read.rchInval = none := by decide

theorem test_meets_MetadataPagesArrive_13 :
    let m : Nat := 3;
    let s : State := { read := { rchInval := some none } };
    s.judge m Slot.RCH 0x128 true true = none ∧ s.read.rchInval.isSome = true := by decide

theorem test_meets_MetadataPagesArrive_14 :
    let v : Option Nat := some 4;
    let s : State := { read := { rchInval := some (some 4) } };
    s.read.rchInval = some v ∧ (s.rchPass v).read.rch.any (fun q => match v with | none => true | some x => q.2.vat == x) = false := by decide

theorem test_meets_SlicesDeliverReads_0 :
    let v : Nat := 0;
    let g : Nat := 0;
    let h : Nat := 0;
    let tag : Nat := 7;
    let cid : Nat := 3;
    let r : Req := { tag := 7, kind := .read, origin := .internal, stage := .fetching };
    let s0 : State := Wit.withReq r;
    let s : State := { s0 with read := { fetches := [(1, { tag := 7, cid := 3, strip := 0, mode := .cache, done := true })] }, slices := [(0, { keys := [(s0.copyHandle r 3, { resident := true })], booked := [(7, 9)] })] };
    s.req tag = some r ∧ s.decrypts r = true ∧ r.stage ≠ .completing ∧ (cid < 2 ^ 40 ∨ 2 ^ 52 ≤ cid) ∧ s.copyReady r.tag cid = true ∧ s.headerOk r cid v g h = true ∧ KeyPass.chunk.allows (s.copyHandle r cid) = true ∧ s.keyReady r.slice (s.copyHandle r cid) = true ∧ (s.segRun r.slice [0] (.copy r.tag cid) (replyUnits (s.entOf r.tag cid).len) r.tag false).1 = true := by decide

theorem test_meets_SlicesDeliverReads_1 :
    let g : Nat := 0;
    let h : Nat := 0;
    let tag : Nat := 7;
    let cid : Nat := 3;
    let v : Nat := 1;
    let r : Req := { tag := 7, kind := .read, origin := .internal, stage := .fetching };
    let s : State := { Wit.withReq r with read := { fetches := [(1, { tag := 7, cid := 3, strip := 0, mode := .cache, done := true })] } };
    s.req tag = some r ∧ s.decrypts r = true ∧ r.stage ≠ .completing ∧ (cid < 2 ^ 40 ∨ 2 ^ 52 ≤ cid) ∧ s.copyReady r.tag cid = true ∧ s.headerOk r cid v g h = false := by decide

theorem test_meets_SlicesDeliverReads_2 :
    let tag : Nat := 7;
    let k : Nat := 5;
    let j : JRec := { seq := 0, typ := 1, vol := 0, lba := 0, state := 2 };
    let r : Req := { tag := 7, kind := .read, origin := .internal, stage := .fetching, sources := [(0, .journal 5)] };
    let s0 : State := { Wit.withReq r with write := { recs := [(5, j)] } };
    let s : State := { s0 with slices := [(0, { keys := [(s0.recHandle j, { resident := true })], booked := [(7, 9)] })] };
    s.req tag = some r ∧ s.decrypts r = true ∧ r.stage ≠ .completing ∧ k < 2 ^ 52 - 2 ^ 40 ∧ AL.get k s.write.recs = some j ∧ r.sources.any (fun q => q.2 == .journal k || q.2 == .peerJournal k) = true ∧ r.recWait.contains k = false ∧ KeyPass.record.allows (s.recHandle j) = true ∧ s.keyReady r.slice (s.recHandle j) = true ∧ (s.segRun r.slice [0] (.copy r.tag (recCid k)) 1 r.tag false).1 = true := by decide

theorem test_meets_SlicesDeliverReads_3 :
    let bo : Nat := 0;
    let ob : Nat := 0;
    let u : Nat := 0;
    let slow : Bool := false;
    let tag : Nat := 7;
    let cid : Nat := 3;
    let r : Req := { tag := 7, kind := .read, origin := .internal, stage := .fetching, verified := [3], sources := [(0, .chunk 3)] };
    let b : InflBind := { tag := 7 };
    let s : State := { (Wit.withReq r).set (F.CLK_DOM_STAT_MHZ 11) 1800 with read := { ctb := [(3, { raw := false, orig := 1, len := 1, deflated := [99, 24, 5, 163, 96, 20, 140, 130, 81, 48, 10, 70, 193, 40, 24, 5, 163, 96, 20, 140, 130, 81, 48, 10, 70, 193, 176, 7, 0] })] }, slices := [(0, { infl := [(0, { tag := 7 })] })] };
    s.req tag = some r ∧ r.kind = .read ∧ r.stage ≠ .completing ∧ r.compressed = false ∧ (s.entOf r.tag cid).raw = false ∧ r.verified.contains cid = true ∧ r.sources.any (fun q => q.2 == (if 2 ^ 52 ≤ cid then .foreign cid else .chunk cid)) = true ∧ s.inflOf r.slice tag = some (u, b) ∧ ((s.entOf r.tag cid).inflated slow bo ob).cond = 0 ∧ (s.unitRun r.slice u (s.sliceCycles r.slice / 1440) 6 (.copy tag cid) (((s.entOf r.tag cid).inflated slow bo ob).segs (s.entOf r.tag cid).orig) tag false).1 = true := by decide +kernel

theorem test_meets_SlicesDeliverReads_4 :
    let bo : Nat := 0;
    let ob : Nat := 0;
    let u : Nat := 0;
    let slow : Bool := false;
    let tag : Nat := 7;
    let cid : Nat := 3;
    let r : Req := { tag := 7, kind := .read, origin := .internal, stage := .fetching, verified := [3], sources := [(0, .chunk 3)] };
    let b : InflBind := { tag := 7 };
    let s : State := { (Wit.withReq r).set (F.CLK_DOM_STAT_MHZ 11) 1800 with read := { ctb := [(3, { raw := false, orig := 1, len := 1, deflated := [7] })] }, slices := [(0, { infl := [(0, { tag := 7 })] })] };
    s.req tag = some r ∧ r.kind = .read ∧ r.stage ≠ .completing ∧ r.compressed = false ∧ (s.entOf r.tag cid).raw = false ∧ r.verified.contains cid = true ∧ r.sources.any (fun q => q.2 == (if 2 ^ 52 ≤ cid then .foreign cid else .chunk cid)) = true ∧ s.inflOf r.slice tag = some (u, b) ∧ ((s.entOf r.tag cid).inflated slow bo ob).cond ≠ 0 ∧ (s.unitRun r.slice u (s.sliceCycles r.slice / 1440) 6 (.copy tag cid) (((s.entOf r.tag cid).inflated slow bo ob).segs (s.entOf r.tag cid).orig) tag false).1 = true := by decide +kernel

theorem test_meets_SlicesDeliverReads_5 :
    (∀ r ∈ [({ tag := 7, kind := .read, origin := .nvt 0 5, stage := .delivering } : Req), { tag := 7, kind := .read, origin := .ldt 0 5, stage := .delivering }, { tag := 7, kind := .read, origin := .ldt 0 5, stage := .delivering, compressed := true }, { tag := 7, kind := .fetch, origin := .ldt 0 5, stage := .delivering }, { tag := 7, kind := .repChunks, origin := .ldt 0 5, stage := .delivering }], (Wit.withReq r).req 7 = some r ∧ r.stage ≠ .completing) := by decide

theorem test_meets_SlicesDeliverReads_6 :
    let b : Band := { shard := 0, d := 1, p := 1, members := [⟨0, 0, 0⟩, ⟨1, 0, 0⟩] };
    let m : Member := ⟨0, 0, 0⟩;
    let id : Nat := 1;
    let r : Req := { tag := 7, kind := .read, origin := .internal, stage := .fetching };
    let f : Fetch := { tag := 7, cid := 3, strip := 0, mode := .recon, queued := true };
    let s : State := (({ Wit.withReq r with read := { fetches := [(1, f)] }, ftl := { bands := [(0, b)] } }.set (F.MDL_LINK_STAT_STATE 1) 4).set (F.BRK_STAT_STATE 1) 3);
    minBy (fun q : Nat × Fetch => ((s.req q.2.tag).map (·.deadline)).getD 0) (s.read.fetches.filter (fun q => q.2.mode == .recon && q.2.queued)) = some (id, f) ∧ s.req f.tag = some r ∧ s.band (s.entOf f.tag f.cid).band = some b ∧ (b.stripMember f.strip).1 = some m ∧ b.d ≤ (s.survivors r f.cid b m).length ∧ s.reconAllowed b.d f.units = true := by decide

theorem test_meets_SlicesDeliverReads_7 :
    let b : Band := { shard := 0, d := 1, p := 1, members := [⟨0, 0, 0⟩, ⟨1, 0, 0⟩] };
    let m : Member := ⟨0, 0, 0⟩;
    let id : Nat := 1;
    let r : Req := { tag := 7, kind := .read, origin := .internal, stage := .fetching };
    let f : Fetch := { tag := 7, cid := 3, strip := 0, mode := .recon, queued := true };
    let s : State := { Wit.withReq r with read := { fetches := [(1, f)] }, ftl := { bands := [(0, b)] } };
    minBy (fun q : Nat × Fetch => ((s.req q.2.tag).map (·.deadline)).getD 0) (s.read.fetches.filter (fun q => q.2.mode == .recon && q.2.queued)) = some (id, f) ∧ s.req f.tag = some r ∧ s.band (s.entOf f.tag f.cid).band = some b ∧ (b.stripMember f.strip).1 = some m ∧ (s.survivors r f.cid b m).length < b.d := by decide

theorem test_meets_SlicesDeliverReads_8 :
    let b : Band := { shard := 0, d := 1, p := 1, members := [⟨0, 0, 0⟩, ⟨1, 0, 0⟩] };
    let m : Member := ⟨0, 0, 0⟩;
    let k : Nat := 1;
    let r : Req := { tag := 7, kind := .read, origin := .internal, stage := .fetching };
    let f : Fetch := { tag := 7, cid := 3, strip := 0, mode := .direct };
    let s : State := (({ Wit.withReq r with read := { fetches := [(1, f)] }, ftl := { bands := [(0, b)] } }.set (F.MDL_LINK_STAT_STATE 1) 4).set (F.BRK_STAT_STATE 1) 3).set F.RDP_CFG_HEDGE_EN 1;
    AL.get k s.read.fetches = some f ∧ s.req f.tag = some r ∧ s.band (s.entOf f.tag f.cid).band = some b ∧ (b.stripMember f.strip).1 = some m ∧ b.d ≤ (s.survivors r f.cid b m).length ∧ (s.fetchesOf f.tag f.cid).any (fun q => q.2.strip == f.strip && q.2.mode == .hedge) = false ∧ s.get F.RDP_CFG_HEDGE_EN = 1 ∧ f.mode = .direct ∧ f.done = false ∧ f.failed = false ∧ r.kind = .read ∧ f.limit ≤ s.beat + s.get F.RDP_RECON_CFG_HEDGE_MARGIN ∧ s.reconAllowed b.d f.units = true := by decide

theorem test_meets_WritesAreMirroredAndAcknowledged_0 :
    let tag : Nat := 7;
    let r : Req := { tag := 7, kind := .write, origin := .internal };
    let s : State := Wit.withReq r;
    s.req tag = some r ∧ r.changes = true ∧ (r.stage = .resolving ∨ r.stage = .held) := by decide

theorem test_meets_WritesAreMirroredAndAcknowledged_1 :
    descOk [0, 0, 0, 0, 0, 0, crcWords [0, 0, 0, 0, 0, 0]] = true := by decide +kernel

theorem test_meets_WritesAreMirroredAndAcknowledged_2 :
    descOk [0, 0, 0, 0, 0, 0, crcWords [0, 0, 0, 0, 0, 0] + 1] = false := by decide +kernel

theorem test_meets_WritesAreMirroredAndAcknowledged_5 :
    let tag : Nat := 7;
    let r : Req := { tag := 7, kind := .write, origin := .internal, stage := .entered, deadline := 9 };
    let s : State := { Wit.withReq r with time := { tbFx := 524288000 } };
    s.req tag = some r ∧ r.stage = .entered ∧ r.endBeat < s.beat ∧ s.fab.sync.any (fun c => c.2.tag == tag) = false := by decide

theorem test_meets_WritesAreMirroredAndAcknowledged_6 :
    let tag : Nat := 0;
    let k : Nat := 0;
    let j : JRec := { seq := 0, typ := 1, vol := 0, lba := 0 };
    let s : State := ({ write := { recs := [(0, j)] } } : State).set F.JNL_CFG_MIRROR_TMO 0 |>.set F.LSE_MODE_MODE 3;
    s.mode = .paired ∧ (k, j) ∈ s.write.recs ∧ j.own = true ∧ j.tag = tag ∧ j.state = 1 ∧ j.mirrored = false ∧ j.beat + s.get F.JNL_CFG_MIRROR_TMO ≤ s.beat ∧ s.write.recs.all (fun q => !(q.2.own && q.2.tag == tag && q.2.state == 1 && q.2.tmoRaised)) = true := by decide

theorem test_meets_WritesAreMirroredAndAcknowledged_7 :
    let m : Nat := 3;
    let e : DefEnt := ⟨1, 2, 3, 4, 5, true⟩;
    let q : List DefEnt := [];
    let s : State := { write := { defLog := [e] } };
    s.judge m (Slot.JNL + 1) 0x100 true false = none ∧ s.write.defLog = e :: q := by decide

theorem test_meets_ChunksAreMatchedAndStored_0 :
    let tag : Nat := 0;
    let k : Nat := 0;
    let j : JRec := { seq := 0, typ := 2, vol := 0, lba := 0, state := 2 };
    let s : State := { write := { recs := [(0, j)] }, time := { tbFx := 524288000 * 3 } };
    (s.write.recs.filter (fun q => q.2.own && q.2.tag == tag && q.2.state == 2 && !q.2.chunked && !q.2.fetchWait)).find? (fun q => q.2.typ != 1) = some (k, j) ∧ s.mayLand k = true ∧ s.logHold = false := by decide

theorem test_meets_ChunksAreMatchedAndStored_1 :
    let tag : Nat := 0;
    let k : Nat := 0;
    let j : JRec := { seq := 0, typ := 1, vol := 0, lba := 0, state := 2 };
    let s : State := { write := { recs := [(0, j)] } };
    let mine : List (Nat × JRec) := [(0, j)];
    mine = s.write.recs.filter (fun q => q.2.own && q.2.tag == tag && q.2.state == 2 && !q.2.chunked && !q.2.fetchWait) ∧ mine.find? (fun q => q.2.typ != 1) = none ∧ minBy (fun q : Nat × JRec => q.2.cmdIdx) mine = some (k, j) := by decide

theorem test_meets_ChunksAreMatchedAndStored_2 :
    let j : JRec := { seq := 0, typ := 1, vol := 0, lba := 0, state := 2 }; let s0 : State := ({ write := { recs := [(0, j)] } } : State).set (F.CLK_DOM_STAT_MHZ 11) 1800; let s : State := { s0 with slices := [(0, { keys := [(s0.recHandle j, { resident := true }), (hSalt 0, { resident := true })] })] }; AL.has (partKey 0 0) s.write.digests = false ∧ 0 = s.runSlice 0 0 ∧ ([s.recHandle j] ++ [hSalt (((AL.get j.vol s.vat.vols).map (·.vat)).getD 0)]).all (fun h => s.keyReady 0 h) = true ∧ (s.segRun 0 [0, 2, 4] (.run 0 0) (runSegs (s.cut [(0, j.data)] [])) 0 true).1 = true := by
  intro j s0 s
  have e : runSegs (s.cut [(0, j.data)] []) = 2 := by
    unfold State.cut
    dsimp only
    split
    · rfl
    · unfold State.cut; rfl
  rw [e]
  decide +kernel

theorem test_meets_ChunksAreMatchedAndStored_3 :
    let tag : Nat := 0;
    let part : Nat := 0;
    let s : State := {};
    AL.has (partKey tag part) s.write.digests = false := by decide

theorem test_meets_ChunksAreMatchedAndStored_4 :
    ∃ k r t, ({ write := { swatches := [(0, ⟨0, 5, 0, 0⟩)] } } : State).swatchLook 0 0 = (some (k, r), t) := ⟨_, _, _, rfl⟩

theorem test_meets_ChunksAreMatchedAndStored_5 :
    ∃ t, State.reset.swatchLook 0 0 = (none, t) := ⟨_, rfl⟩

theorem test_meets_ChunksAreMatchedAndStored_6 :
    let job : Nat := 0;
    let x : CJob := { vol := 0, slots := [], fp := 0, stage := .peerAsked };
    let s : State := { write := { jobs := [(0, x)] } };
    s.job job = some x ∧ x.stage = .peerAsked := by decide

theorem test_meets_ChunksAreMatchedAndStored_7 :
    let job : Nat := 0;
    let v : Nat := 0;
    let l : List (Nat × Nat × Nat) := [];
    let p : Nat := 2;
    let x : CJob := { vol := 0, slots := [], fp := 9, stage := .recipeLoad 2 };
    let g : RcpPage := { swatchFp := 0, vat := 0, vol := 0, pos := 0, entries := [⟨9, 3, 1⟩] };
    let s : State := { write := { jobs := [(0, x)], recipes := [(2, g)] } };
    s.job job = some x ∧ x.stage = .recipeLoad p ∧ s.loadedPage p v l = some g := by decide

theorem test_meets_ChunksAreMatchedAndStored_8 :
    let job : Nat := 0;
    let p : Nat := 0;
    let x : CJob := { vol := 0, slots := [], fp := 9, stage := .recipeLoad 0 };
    let s : State := { write := { jobs := [(0, x)] } };
    s.job job = some x ∧ x.stage = .recipeLoad p := by decide

theorem test_meets_ChunksAreMatchedAndStored_9 :
    let page : Nat := 0;
    let g : RcpPage := { swatchFp := 0, vat := 0, vol := 0, pos := 0, entries := [], isOpen := true };
    let s : State := ({ write := { recipes := [(0, g)] } } : State).set F.CHK_RECIPE_CFG_CLOSE 0;
    AL.get page s.write.recipes = some g ∧ g.isOpen = true ∧ g.lastBeat + s.get F.CHK_RECIPE_CFG_CLOSE ≤ s.beat := by decide

theorem test_meets_ChunksAreMatchedAndStored_10 :
    let job : Nat := 0;
    let d : Nat := 0;
    let stream : List Nat := List.replicate 3585 0;
    let x : CJob := { vol := 0, slots := [1], fp := 9, stage := .compress, data := [0] };
    let s : State := ({ write := { jobs := [(0, x)] }, slices := [(0, { defl := [(0, 0)] })] } : State).set (F.CLK_DOM_STAT_MHZ 11) 1800;
    s.job job = some x ∧ x.stage = .compress ∧ s.deflOf x.slice job = some d ∧ x.limit < stream.length ∧ (s.unitRun x.slice (24 + d) (s.sliceCycles x.slice / deflCycles x.effort) 7 (.out job) (x.deflSegs stream) x.tag true).1 = true := by decide +kernel

theorem test_meets_ChunksAreMatchedAndStored_11 :
    let job : Nat := 0;
    let d : Nat := 0;
    let stream : List Nat := [99, 24, 5, 163, 96, 20, 140, 130, 81, 48, 10, 70, 193, 40, 24, 5, 163, 96, 20, 140, 130, 81, 48, 10, 70, 193, 176, 7, 0];
    let x : CJob := { vol := 0, slots := [1], fp := 9, stage := .compress, data := [0] };
    let s : State := ({ write := { jobs := [(0, x)] }, slices := [(0, { defl := [(0, 0)] })] } : State).set (F.CLK_DOM_STAT_MHZ 11) 1800;
    s.job job = some x ∧ x.stage = .compress ∧ s.deflOf x.slice job = some d ∧ stream.length ≤ x.limit ∧ x.mayWrite stream = true ∧ (s.unitRun x.slice (24 + d) (s.sliceCycles x.slice / deflCycles x.effort) 7 (.out job) x.blocks x.tag true).1 = true := by decide +kernel

theorem test_meets_ChunksAreMatchedAndStored_13 :
    let useq : Nat := 0;
    let r : URec := { val := .delta 3 1, entered := true };
    let s : State := { write := { upd := [(0, r)] } };
    AL.get useq s.write.upd = some r ∧ s.canApply useq r = true := by decide

theorem test_meets_PeerRecordsFollowThePeer_5 :
    let slot : Nat := 0;
    let j : JRec := { seq := 0, typ := 1, vol := 0, lba := 0 };
    let s : State := { write := { recs := [(0, j)] } };
    AL.get slot s.write.recs = some j := by decide

theorem test_meets_PeerRecordsFollowThePeer_6 :
    let slot : Nat := 0;
    let s : State := {};
    AL.get slot s.write.recs = none := by decide

theorem test_meets_PeerRecordsFollowThePeer_7 :
    let slot : Nat := 0;
    let j : JRec := { seq := 0, typ := 1, vol := 0, lba := 0 };
    let s : State := { write := { recs := [(0, j)] } };
    AL.get slot s.write.recs = some j ∧ s.adm.reqs.all (fun q => !q.2.recWait.contains slot) = true := by decide

theorem test_meets_PeerRecordsFollowThePeer_8 :
    let slot : Nat := 0;
    let j : JRec := { seq := 0, typ := 1, vol := 0, lba := 0 };
    let r : Req := { tag := 7, kind := .read, origin := .internal, recWait := [0] };
    let tag : Nat := 7;
    let s : State := { Wit.withReq r with write := { recs := [(0, j)] } };
    AL.get slot s.write.recs = some j ∧ s.adm.reqs = [(tag, r)] ∧ r.tag = tag ∧ r.recWait = [slot] ∧ j.fetchWait = false := by decide

theorem test_meets_TableCommandsAreHeldForTheirBeat_0 :
    let s : State := {};
    let m : Nat := 3;
    s.judge m Slot.VAT 0x108 true true = none := by decide

theorem test_meets_TableCommandsAreHeldForTheirBeat_1 :
    let s : State := {};
    let m : Nat := 3;
    s.judge m Slot.SNP 0x100 true true = none := by decide

theorem test_meets_TableCommandsAreHeldForTheirBeat_2 :
    (let s : State := ({ vat := { vats := [(0, {})] } } : State).set F.LSE_MODE_MODE 4; s.judge 3 Slot.VAT 0x108 true true = none ∧ s.coordinator = true ∧ s.get F.VAT_CMD_STAT_BUSY ≠ 1 ∧ s.get F.SNP_CMD_STAT_BUSY ≠ 1 ∧ s.applyBeat (s.get F.VAT_CMD_BEAT_BEAT) = some 64 ∧ s.vatRefusal 2 0 s.vatArgs = 0 ∧ s.vatRefusal 5 0 s.vatArgs = 0 ∧ s.vatRefusal 6 0 s.vatArgs = 0) ∧ (let s : State := ({ vat := { vats := [(0, { oldLive := true })], vols := [(1, { vat := 0, sizeM1 := 0 })] } } : State).set F.LSE_MODE_MODE 4 |>.set F.VAT_CMD_ARG1_SIZE_M1 1; s.vatRefusal 10 0 s.vatArgs = 0 ∧ s.vatRefusal 7 1 s.vatArgs = 0 ∧ s.vatRefusal 8 1 s.vatArgs = 0 ∧ s.vatRefusal 9 1 s.vatArgs = 0) ∧ (let s : State := ({ vat := { vats := [(0xF00, { published := true })] } } : State).set F.LSE_MODE_MODE 4; s.vatRefusal 4 0xF00 s.vatArgs = 0) ∧ (let s : State := ({ vat := { vats := [(0, {})] }, sec := { handles := [(hVat 1 0, {}), (hVat 0 1, {})] } } : State).set F.LSE_MODE_MODE 4; s.vatRefusal 1 1 s.vatArgs = 0 ∧ s.vatRefusal 3 0 s.vatArgs = 0) := by decide

theorem test_meets_TableCommandsAreHeldForTheirBeat_4 :
    (let s : State := (({ vat := { vols := [(0, { vat := 0, sizeM1 := 0 })] } } : State).set F.LSE_MODE_MODE 4).set F.VAT_CMD_BEAT_BEAT 3; s.coordinator = true ∧ s.get F.VAT_CMD_STAT_BUSY ≠ 1 ∧ s.get F.SNP_CMD_STAT_BUSY ≠ 1 ∧ s.applyBeat 3 = none ∧ s.applyBeat (s.get F.SNP_CMD_BEAT_BEAT) = some 64 ∧ s.snpRefusal 3 0 [0] ≠ 0 ∧ s.vatRefusal 6 0 [] ≠ 0) := by decide

theorem test_meets_TableCommandsAreHeldForTheirBeat_5 :
    (let s : State := ({ vat := { vats := [(0, {})], vols := [(0, { vat := 0, sizeM1 := 0 })], snaps := [(0, { vol := 0, beat := 0 })] } } : State).set F.LSE_MODE_MODE 4; s.judge 3 Slot.SNP 0x100 true true = none ∧ s.coordinator = true ∧ s.get F.VAT_CMD_STAT_BUSY ≠ 1 ∧ s.get F.SNP_CMD_STAT_BUSY ≠ 1 ∧ s.applyBeat (s.get F.SNP_CMD_BEAT_BEAT) = some 64 ∧ s.snpRefusal 2 0 [0] = 0 ∧ s.snpRefusal 3 0 [5] = 0 ∧ s.snpRefusal 1 0 (1 :: (List.range (min 1 256)).map (fun i => Mem.rdLE (s.get F.SNP_CMD_ARG_ADDR * 8 + 8 * i) 8 s.mem % 65536)) = 0) := by decide

theorem test_meets_TableCommandsApplyInBothHeads_0 :
    let s : State := {};
    let op : Nat := 9;
    let beat : Nat := 99;
    op ≠ 0 ∧ s.beat + 16 < beat := by decide

theorem test_meets_TableCommandsApplyInBothHeads_1 :
    let s : State := {};
    let op : Nat := 9;
    let beat : Nat := 16;
    op ≠ 0 ∧ beat ≤ s.beat + 16 := by decide

theorem test_meets_TableCommandsApplyInBothHeads_4 :
    let c : TCmd := ⟨false, 9, 0, [], 16, true, false⟩;
    let s : State := { vat := { cmds := [c] } };
    s.vat.cmds.find? (fun c => c.own && !c.acked && decide (c.applyBeat ≤ s.beat + 16)) = some c := by decide

theorem test_meets_TableCommandsApplyInBothHeads_5 :
    let c : TCmd := ⟨false, 6, 0, [], 0, true, true⟩;
    let s : State := ({ vat := { cmds := [c] } } : State).set F.LSE_MODE_MODE 4;
    let t : State := ({ s with vat := { s.vat with cmds := [] } } : State).applyVat c.op c.target c.args;
    s.vat.cmds = [c] ∧ c.due s.beat = true ∧ s.serving = true ∧ c.snp = false ∧ c.op ≠ 4 ∧ t = ({ s with vat := { s.vat with cmds := [] } } : State).applyVat c.op c.target c.args ∧ t.vat.freezing = none := by decide

theorem test_meets_TableCommandsApplyInBothHeads_6 :
    let c : TCmd := ⟨true, 2, 0, [], 0, true, true⟩;
    let s : State := ({ vat := { cmds := [c], snaps := [(0, { vol := 0, beat := 0 })] } } : State).set F.LSE_MODE_MODE 4;
    let t : State := ({ s with vat := { s.vat with cmds := [] } } : State).applySnp c.op c.target c.applyBeat c.args;
    s.vat.cmds = [c] ∧ c.due s.beat = true ∧ s.serving = true ∧ c.snp = true ∧ t = ({ s with vat := { s.vat with cmds := [] } } : State).applySnp c.op c.target c.applyBeat c.args ∧ t.vat.freezing = none := by decide

theorem test_meets_TableCommandsApplyInBothHeads_7 :
    let c : TCmd := ⟨false, 4, 0, [], 0, true, true⟩;
    let s : State := ({ vat := { cmds := [c], vats := [(0, { published := true })] } } : State).set F.LSE_MODE_MODE 4;
    let t : State := ({ s with vat := { s.vat with cmds := [] } } : State).applyVat 4 c.target c.args;
    s.vat.cmds = [c] ∧ c.due s.beat = true ∧ s.serving = true ∧ c.snp = false ∧ c.own = true ∧ c.op = 4 ∧ t = ({ s with vat := { s.vat with cmds := [] } } : State).applyVat 4 c.target c.args ∧ t.vat.freezing = none := by decide

theorem test_meets_TableCommandsApplyInBothHeads_8 :
    let c : TCmd := ⟨true, 2, 0, [], 0, true, true⟩;
    let s : State := { vat := { cmds := [c] } };
    s.vat.cmds = [c] ∧ c.due s.beat = true ∧ s.serving = false ∧ s.vat.freezing = none := by decide

theorem test_meets_TableCommandsApplyInBothHeads_9 :
    let s : State := { vat := { cmds := [⟨false, 6, 0, [], 64, true, true⟩] } };
    s.vat.cmds.all (fun c => !c.due s.beat) = true ∧ s.vat.freezing = none := by decide

theorem test_meets_TableCommandsApplyInBothHeads_10 :
    let v : Nat := 0;
    let b : Nat := 0;
    let s : State := { vat := { freezing := some (0, 0) } };
    s.vat.cmds = [] ∧ s.vat.freezing = some (v, b) ∧ s.vatWritesLeft v = false := by decide

theorem test_meets_DeletedThingsAreReleasedAndReDyed_0 :
    let s : State := (({ vat := { ownEnded := true } } : State).set F.LSE_MODE_MODE 3).set F.VAT_REDYE_STAT_ACTIVE 1;
    s.get F.VAT_REDYE_STAT_ACTIVE ≠ 0 ∧ s.mode = .paired ∧ s.vat.sweepLeft = [] ∧ s.vat.ownEnded = true := by decide

theorem test_meets_DeletedThingsAreReleasedAndReDyed_1 :
    let s : State := (({ vat := { ownEnded := true } } : State).set F.LSE_MODE_MODE 4).set F.VAT_REDYE_STAT_ACTIVE 1;
    s.get F.VAT_REDYE_STAT_ACTIVE ≠ 0 ∧ s.mode = .solo ∧ s.vat.sweepLeft = [] ∧ s.vat.ownEnded = true := by decide

theorem test_meets_DeletedThingsAreReleasedAndReDyed_2 :
    let b : Nat := 0;
    let l : List Nat := [1];
    let s : State := (({ vat := { sweepLeft := [0, 1] }, ftl := { bands := [(0, { state := 3, shard := 0, d := 1, p := 1 }), (1, { state := 3, shard := 0, d := 1, p := 1 })] } } : State).set F.LSE_MODE_MODE 3 |>.set (F.LSE_SHARD_STATE 0) 2).set F.VAT_REDYE_STAT_ACTIVE 1;
    s.get F.VAT_REDYE_STAT_ACTIVE ≠ 0 ∧ s.serving = true ∧ s.vat.sweepLeft = b :: l ∧ s.loadAtMost (s.get F.VAT_REDYE_CFG_MAX_LOAD_PCT) = true ∧ s.vat.ownEnded = false ∧ s.oldChunks b = [] ∧ s.sweepAfter b ≠ [] := by decide

theorem test_meets_DeletedThingsAreReleasedAndReDyed_3 :
    let b : Nat := 0;
    let l : List Nat := [1];
    let s : State := ((({ vat := { sweepLeft := [0, 1] } } : State).set F.LSE_MODE_MODE 3).set F.VAT_REDYE_STAT_ACTIVE 1).set (F.ADM_POOL_USED 7) 3000 |>.set F.VAT_REDYE_CFG_MAX_LOAD_PCT 50;
    s.get F.VAT_REDYE_STAT_ACTIVE ≠ 0 ∧ s.serving = true ∧ s.vat.sweepLeft = b :: l ∧ s.loadAtMost (s.get F.VAT_REDYE_CFG_MAX_LOAD_PCT) = false ∧ s.vat.ownEnded = false := by decide

theorem test_meets_DeletedThingsAreReleasedAndReDyed_4 :
    let vol : Nat := 0;
    let n : Nat := 0;
    let x : Vol := { state := 2, vat := 0, sizeM1 := 0 };
    let s : State := { vat := { vols := [(0, x)] } };
    let t : State := s;
    AL.get vol s.vat.vols = some x ∧ x.state = 2 ∧ s.vat.snaps.any (fun q => q.2.vol == vol) = false ∧ t = ((s.spacePages vol).take n).foldl (fun s k => s.releasePage k) s := by decide

theorem test_meets_DeletedThingsAreReleasedAndReDyed_5 :
    let n : Nat := 0;
    let k : Nat := 0;
    let x : Snap := { state := 2, vol := 0, beat := 0 };
    let s : State := { vat := { snaps := [(0, x)] } };
    let t : State := s;
    AL.get n s.vat.snaps = some x ∧ x.state = 2 ∧ t = ((s.spacePages (snapSpace n)).take k).foldl (fun s k => s.reclaimPage n k) s := by decide

theorem test_meets_MetadataIsLoadedWrittenAndChecked_0 :
    let s : State := {};
    let m : Nat := 3;
    s.judge m Slot.FTL 0x128 true true = none ∧ s.get F.FTL_DIR_STAT_BUSY ≠ 1 := by decide

theorem test_meets_MetadataIsLoadedWrittenAndChecked_1 :
    let m : Nat := 3;
    let s : State := State.reset.set F.FTL_DIR_STAT_BUSY 1;
    s.judge m Slot.FTL 0x128 true true = none ∧ s.get F.FTL_DIR_STAT_BUSY = 1 := by decide

theorem test_meets_MetadataIsLoadedWrittenAndChecked_2 :
    let pin : Bool := false;
    let k : Nat := 2 ^ 60;
    let s : State := { ftl := { loadKey := some (2 ^ 60, false) } };
    s.ftl.loadKey = some (k, pin) := by decide

theorem test_meets_MetadataIsLoadedWrittenAndChecked_3 :
    let pin : Bool := false;
    let k : Nat := 2 ^ 60;
    let s : State := { ftl := { loadKey := some (2 ^ 60, false), leaves := [(2 ^ 60, { onFlash := true })] } };
    let t : State := s;
    s.ftl.loadKey = some (k, pin) ∧ k / 2 ^ 60 ≠ 0 ∧ s.leafHere k = false ∧ s.rootHas k = true := by decide

theorem test_meets_MetadataIsLoadedWrittenAndChecked_5 :
    let key : Nat := 0;
    let kind : Nat := 2;
    let ctb : Bool := true;
    let g : MetaPage := { resident := true, dirty := true };
    let s : State := { read := { ctbPages := [(0, g)] } };
    kind = (if ctb = true then 2 else 1) ∧ s.metaPage ctb key = some g ∧ g.resident = true ∧ g.dirty = true ∧ g.pins = 0 ∧ s.homeOf (metaHome ctb key) = true ∧ (ctb = true ∨ s.emptyPage key = false) := by decide

theorem test_meets_MetadataIsLoadedWrittenAndChecked_6 :
    let key : Nat := 0;
    let g : MetaPage := { resident := true, dirty := true };
    let s : State := { read := { mapPages := [(0, g)] } };
    s.metaPage false key = some g ∧ g.resident = true ∧ g.dirty = true ∧ g.pins = 0 ∧ s.homeOf (metaHome false key) = true ∧ s.emptyPage key = true := by decide

theorem test_meets_MetadataIsLoadedWrittenAndChecked_7 :
    let key : Nat := 0;
    let s : State := { ftl := { sums := [0] } };
    s.ftl.sums.contains key = true ∧ AL.has key s.ftl.sumCopies = false ∧ s.homeOf (key / 2048 % 2) = true := by decide

theorem test_meets_MetadataIsLoadedWrittenAndChecked_8 :
    let s : State := (State.reset.set F.LSE_MODE_MODE 4).set F.FTL_CFG_CKPT_BEATS 0;
    s.serving = true ∧ s.ckptDue = true := by decide

theorem test_meets_MetadataIsLoadedWrittenAndChecked_9 :
    let s : State := State.reset;
    (s.serving = false ∨ s.ckptDue = false) := by decide

theorem test_meets_MetadataIsLoadedWrittenAndChecked_10 :
    let s : State := State.reset.set F.FTL_RECOVER_STAT_PHASE 3;
    s.get F.FTL_RECOVER_STAT_PHASE = 3 := by decide

theorem test_meets_BandsRelocateEraseAndRecover_0 :
    let cid : Nat := 0;
    let t : Nat := 0;
    let s : State := { ftl := { zeroed := [(0, 0)] } };
    s.ftl.zeroed.find? (fun q => q.1 == cid) = some (cid, t) ∧ (s.ctbEnt cid).count = 0 ∧ s.write.upd.all (fun q => q.2.applied || decide (t ≤ q.2.beat)) = true ∧ s.ftl.movers.contains cid = false ∧ (s.mode ≠ .paired ∨ t ≤ s.get F.PRL_PEER_HORIZON_BEAT) := by decide

theorem test_meets_BandsRelocateEraseAndRecover_2 :
    let s : State := State.reset;
    s.leaseHeld 0 = false ∧ s.leaseHeld 1 = false := by decide

theorem test_meets_BandsRelocateEraseAndRecover_3 :
    let b : Nat := 0;
    let x : Band := { state := 6, shard := 0, d := 1, p := 1, members := [⟨0, 0, 0⟩] };
    let s : State := ({ ftl := { bands := [(0, x)] } } : State).set (F.LSE_SHARD_STATE 0) 2;
    s.band b = some x ∧ x.state = 6 ∧ x.erasing = 0 ∧ s.leaseHeld x.shard = true ∧ s.eraseWaits b x = false ∧ s.bandSaid b 0 = false ∧ x.toErase ≠ [] := by decide

theorem test_meets_BandsRelocateEraseAndRecover_4 :
    let b : Nat := 0;
    let x : Band := { state := 6, isMeta := true, shard := 0, d := 1, p := 1 };
    let s : State := { ftl := { bands := [(0, x)] } };
    s.band b = some x ∧ s.eraseWaits b x = true := by decide

theorem test_meets_BandsRelocateEraseAndRecover_5 :
    let b : Nat := 0;
    let i : Nat := 0;
    let row : Nat := 0;
    let m : Member := ⟨0, 0, 0⟩;
    let x : Band := { state := 3, shard := 0, d := 1, p := 1, members := [m] };
    let s : State := (({ ftl := { bands := [(0, x)] } } : State).set (F.LSE_SHARD_STATE 0) 2).set F.FTL_MAINT_CFG_SCAN_EN 1;
    let u : State := ((s.countRead m).bump F.FTL_CNT_SCAN_COUNT).brickSend m.brick { s.memberOp m 4 1 x.dense (.scan 0) with spage := 0, len := 65536 };
    s.band b = some x ∧ s.get F.FTL_MAINT_CFG_SCAN_EN ≠ 0 ∧ x.state = 3 ∧ s.leaseHeld x.shard = true ∧ x.members[i]? = some m ∧ u = ((s.countRead m).bump F.FTL_CNT_SCAN_COUNT).brickSend m.brick { s.memberOp m 4 1 x.dense (.scan b) with spage := row, len := 65536 } := by decide

theorem test_meets_BandsRelocateEraseAndRecover_6 :
    let b : Nat := 0;
    let x : Band := { shard := 0, d := 1, p := 1 };
    let s : State := ({ ftl := { bands := [(0, x)] } } : State).set F.FTL_MAINT_CFG_SCAN_EN 0;
    s.band b = some x ∧ s.get F.FTL_MAINT_CFG_SCAN_EN = 0 := by decide

theorem test_meets_BandsRelocateEraseAndRecover_7 :
    let ok : Bool := false;
    let rows : Nat := 0;
    let rw : Nat := 0;
    let s : State := { ftl := { dumpActive := true } };
    let u : State := ((s.bump F.FTL_CNT_VAULT_ROWS_COUNT 0).bump F.FTL_CNT_VAULT_REWRITE_COUNT 0).set F.FTL_VAULT_STAT_LAST_BEATS (((s.bump F.FTL_CNT_VAULT_ROWS_COUNT 0).bump F.FTL_CNT_VAULT_REWRITE_COUNT 0).beat - s.ftl.dumpStart);
    s.ftl.dumpActive = true ∧ u = ((s.bump F.FTL_CNT_VAULT_ROWS_COUNT rows).bump F.FTL_CNT_VAULT_REWRITE_COUNT rw).set F.FTL_VAULT_STAT_LAST_BEATS (((s.bump F.FTL_CNT_VAULT_ROWS_COUNT rows).bump F.FTL_CNT_VAULT_REWRITE_COUNT rw).beat - s.ftl.dumpStart) ∧ (ok = false ∨ u.rowPlaceable = false ∨ u.vaultRoom rows rw = false) := by decide

theorem test_meets_BandsRelocateEraseAndRecover_8 :
    let s : State := State.reset;
    s.ftl.dumpActive = false := by decide

theorem test_meets_BandsRelocateEraseAndRecover_9 :
    let rows : Nat := 0;
    let rw : Nat := 0;
    let s : State := { ftl := { dumpActive := true, dumpDv := 1, dumpBricks := [0, 1, 2] } };
    let u : State := ((s.bump F.FTL_CNT_VAULT_ROWS_COUNT 0).bump F.FTL_CNT_VAULT_REWRITE_COUNT 0).set F.FTL_VAULT_STAT_LAST_BEATS (((s.bump F.FTL_CNT_VAULT_ROWS_COUNT 0).bump F.FTL_CNT_VAULT_REWRITE_COUNT 0).beat - s.ftl.dumpStart);
    s.ftl.dumpActive = true ∧ u = ((s.bump F.FTL_CNT_VAULT_ROWS_COUNT rows).bump F.FTL_CNT_VAULT_REWRITE_COUNT rw).set F.FTL_VAULT_STAT_LAST_BEATS (((s.bump F.FTL_CNT_VAULT_ROWS_COUNT rows).bump F.FTL_CNT_VAULT_REWRITE_COUNT rw).beat - s.ftl.dumpStart) ∧ u.rowPlaceable = true ∧ u.vaultRoom rows rw = true := by decide

theorem test_meets_BandsRelocateEraseAndRecover_10 :
    let s : State := State.reset;
    s.mode = .boot := by decide

theorem test_meets_MediaLinksCarryFlits_0 :
    let ln : Nat := 0;
    let flit : Nat := 0;
    let s : State := State.reset.set (F.MDL_LINK_STAT_STATE 0) 4;
    let f : FlitIn := mediaFlitIn (s.descrambled ln flit).1;
    s.linkActive ln = true ∧ f = mediaFlitIn (s.descrambled ln flit).1 := by decide +kernel

theorem test_meets_MediaLinksCarryFlits_1 :
    let ln : Nat := 0;
    let s : State := {};
    let u : State := ((s.satInc (F.MDL_FEC_CNT_UNCORR ln) 1).modLink ln (fun l => { l with badRun := l.badRun + 1 })).sendNak ln;
    u = ((s.satInc (F.MDL_FEC_CNT_UNCORR ln) 1).modLink ln (fun l => { l with badRun := l.badRun + 1 })).sendNak ln := by decide

theorem test_meets_MediaLinksCarryFlits_2 :
    let ln : Nat := 0;
    let k : Nat := 0;
    let s : State := {};
    let u : State := (s.satInc (F.MDL_FEC_CNT_CORRECTED ln) k).modLink ln (fun l => { l with badRun := 0 });
    u = (s.satInc (F.MDL_FEC_CNT_CORRECTED ln) k).modLink ln (fun l => { l with badRun := 0 }) := by decide

theorem test_meets_MediaLinksCarryFlits_3 :
    let ln : Nat := 0;
    let k : Nat := 0;
    let ack : Nat := 0;
    let v : Bool := false;
    let s : State := {};
    let u : State := (s.satInc (F.MDL_FEC_CNT_CORRECTED ln) k).modLink ln (fun l => { l with badRun := 0 });
    u = (if v then ((s.satInc (F.MDL_FEC_CNT_CORRECTED ln) k).modLink ln (fun l => { l with badRun := 0 })).ackFlits ln ack else (s.satInc (F.MDL_FEC_CNT_CORRECTED ln) k).modLink ln (fun l => { l with badRun := 0 })) := by decide

theorem test_meets_MediaLinksCarryFlits_4 :
    let ln : Nat := 0;
    let s : State := State.reset.set (F.MDL_LINK_STAT_STATE 0) 4;
    s.linkActive ln = true := by decide

theorem test_meets_MediaLinksCarryFlits_5 :
    let ln : Nat := 0;
    let s : State := ({ media := { links := [(0, { txSeq := 1 })] }, time := { tbFx := 524288000 * 2 } } : State).set (F.MDL_LINK_STAT_STATE 0) 4;
    let u : State := ((s.satInc (F.MDL_REPLAY_CNT_TIMER ln) 1).modLink ln (fun l => { l with timerRun := l.timerRun + 1, ackBeat := s.beat })).resendFrom ln (s.link ln).ackedTo;
    s.linkActive ln = true ∧ (s.link ln).txSeq ≠ (s.link ln).ackedTo ∧ (s.link ln).ackBeat + 2 ≤ s.beat ∧ u = ((s.satInc (F.MDL_REPLAY_CNT_TIMER ln) 1).modLink ln (fun l => { l with timerRun := l.timerRun + 1, ackBeat := s.beat })).resendFrom ln (s.link ln).ackedTo := by decide

theorem test_meets_MediaLinksCarryFlits_6 :
    let ln : Nat := 0;
    let s : State := {};
    let m : Nat := 3;
    s.judge m (mdlSlot ln) (0x120 + 8 * (ln % 4)) true true = none := by decide

theorem test_meets_MediaLinksCarryFlits_7 :
    let ln : Nat := 0;
    let v : Nat := 0;
    let s : State := {};
    let u : State := s.set (F.MDL_LINK_CTL_ENABLE ln) (v % 2);
    u = s.set (F.MDL_LINK_CTL_ENABLE ln) (v % 2) := by decide

theorem test_meets_MediaLinksCarryFlits_8 :
    let ln : Nat := 0;
    let s : State := State.reset.set (F.MDL_LINK_STAT_STATE 0) 1;
    s.get (F.MDL_LINK_STAT_STATE ln) ≠ 0 ∧ s.get (F.MDL_LINK_STAT_STATE ln) ≠ 4 := by decide

theorem test_meets_MediaLinksCarryFlits_9 :
    let ln : Nat := 0;
    let s : State := ({ time := { tbFx := 524288000 * 256 } } : State).set (F.MDL_LINK_STAT_STATE 0) 1;
    s.get (F.MDL_LINK_STAT_STATE ln) = 1 ∧ 256 ≤ s.beat - (s.link ln).stateBeat := by decide

theorem test_meets_MediaLinksCarryFlits_10 :
    let ln : Nat := 0;
    let s : State := ({ time := { tbFx := 524288000 * 1024 } } : State).set (F.MDL_LINK_STAT_STATE 0) 2;
    s.get (F.MDL_LINK_STAT_STATE ln) = 2 ∧ 1024 ≤ s.beat - (s.link ln).stateBeat := by decide

theorem test_meets_MediaLinksCarryFlits_11 :
    let ln : Nat := 0;
    let s : State := ({ time := { tbFx := 524288000 * 16 } } : State).set (F.MDL_LINK_STAT_STATE 0) 3;
    s.get (F.MDL_LINK_STAT_STATE ln) = 3 ∧ 16 ≤ s.beat - (s.link ln).stateBeat := by decide

theorem test_meets_MediaLinksCarryFlits_12 :
    let ln : Nat := 0;
    let s : State := (State.reset.set (F.MDL_LINK_STAT_STATE 0) 5).set (F.MDL_LINK_CFG_RECOVER_TMO 0) 0;
    s.get (F.MDL_LINK_STAT_STATE ln) = 5 ∧ s.get (F.MDL_LINK_CFG_RECOVER_TMO ln) * 64 ≤ s.beat - (s.link ln).stateBeat := by decide

theorem test_meets_MediaLinksCarryFlits_13 :
    let ln : Nat := 0;
    let s : State := State.reset.set (F.MDL_LINK_STAT_STATE 0) 4;
    s.linkActive ln = true := by decide

theorem test_meets_MediaLinksCarryFlits_14 :
    let ln : Nat := 0;
    let tag : Nat := 0;
    let o : MOp := { mtype := 1, purpose := .ident };
    let s : State := { media := { links := [(0, { ops := [o] })] }, time := { tbFx := 524288000 } };
    (s.link ln).ops.find? (fun o => o.tag == tag) = some o ∧ o.deadline < s.beat := by decide

theorem test_meets_BricksIdentifyReplyAndObey_0 :
    let ln : Nat := 0;
    let tag : Nat := 0;
    let s : State := State.reset;
    s.takeOp ln tag = none := by decide

theorem test_meets_BricksIdentifyReplyAndObey_1 :
    (let op : MOp := { mtype := 1, purpose := .ident }; let s : State := { media := { links := [(0, { ops := [op] })] } }; (s.takeOp 0 0).isSome = true) := by decide

theorem test_meets_BricksIdentifyReplyAndObey_2 :
    (let op : MOp := { mtype := 1, purpose := .owner }; let s : State := { media := { links := [(0, { ops := [op] })], bricks := [(0, { step := 3 })] } }; (s.takeOp 0 0).isSome = true) ∧ (let op : MOp := { mtype := 1, purpose := .audit }; let s : State := { media := { links := [(0, { ops := [op] })] } }; (s.takeOp 0 0).isSome = true) := by decide

theorem test_meets_BricksIdentifyReplyAndObey_3 :
    (let op : MOp := { mtype := 1, purpose := .sys }; let s : State := { media := { links := [(0, { ops := [op] })] } }; (s.takeOp 0 0).isSome = true) := by decide

theorem test_meets_BricksIdentifyReplyAndObey_4 :
    (let op : MOp := { mtype := 1, purpose := .sys }; let s : State := { media := { links := [(0, { ops := [op] })] } }; (s.takeOp 0 0).isSome = true) := by decide

theorem test_meets_BricksIdentifyReplyAndObey_5 :
    let k : Nat := 0;
    let s : State := (({ media := { bricks := [(0, { step := 4 })] }, time := { tbFx := 524288000 * 1024 } } : State).set (F.BRK_STAT_STATE 0) 2).set (F.MDL_LINK_STAT_STATE 0) 4;
    s.get (F.BRK_STAT_STATE k) = 2 ∧ s.linkActive k = true ∧ (s.brick k).step = 4 ∧ (s.brick k).stepBeat + 1024 ≤ s.beat := by decide

theorem test_meets_BricksIdentifyReplyAndObey_6 :
    let ln : Nat := 0;
    let s : State := State.reset.set (F.MDL_LINK_STAT_STATE 0) 4;
    s.linkActive ln = true := by decide

theorem test_meets_BricksIdentifyReplyAndObey_8 :
    (∀ b, (State.reset.brick 0).sbBeat = some b → b + 16384 ≤ State.reset.beat) := by intro b h; have e : (State.reset.brick 0).sbBeat = none := rfl; rw [e] at h; exact absurd h (by simp)

theorem test_meets_BricksIdentifyReplyAndObey_9 :
    let k : Nat := 0;
    let s : State := {};
    let m : Nat := 3;
    s.judge m (brkSlot k) (0x300 + 8 * (k % 16)) true true = none := by decide

theorem test_meets_BricksIdentifyReplyAndObey_10 :
    (let s := ((State.reset.set (F.BRK_STAT_STATE 0) 3).set (F.BRK_STAT_SB_PRESENT 0) 1).set (F.LSE_SHARD_STATE 0) 2; s.judge 3 (brkSlot 0) 0x300 true true = none ∧ s.get (F.BRK_CMD_STAT_BUSY 0) ≠ 1 ∧ s.get (F.BRK_STAT_STATE 0) = 3 ∧ s.heldShards.isEmpty = false ∧ s.get (F.BRK_STAT_SB_PRESENT 0) = 1) ∧ (let s := State.reset.set (F.BRK_STAT_STATE 0) 4; s.judge 3 (brkSlot 0) 0x300 true true = none ∧ s.get (F.BRK_CMD_STAT_BUSY 0) ≠ 1 ∧ s.get (F.BRK_STAT_STATE 0) = 4) := by decide

theorem test_meets_BricksIdentifyReplyAndObey_12 :
    let f : Nat := 0;
    let s : State := {};
    let m : Nat := 3;
    s.judge m (Slot.DFM + f) 0x108 true true = none := by decide

theorem test_meets_DigestJobsKeysAndHardening_0 :
    let i : Nat := 0;
    let s : State := {};
    let m : Nat := 3;
    s.judge m (digSlot i) 0x108 true true = none ∧ s.admFull = false := by decide

theorem test_meets_DigestJobsKeysAndHardening_1 :
    ∃ s : State, s.judge 3 (digSlot 0) 0x108 true true = none ∧ s.admFull = true := ⟨{ adm := { reqs := List.replicate 32768 (0, { tag := 0, kind := .digest, origin := .internal, cls := 6, stage := .waiting }) } }, by decide, by unfold State.admFull State.waitingCount; rw [List.filter_replicate_of_pos (by decide), List.length_replicate]; decide⟩

theorem test_meets_DigestJobsKeysAndHardening_2 :
    (let r : Req := { tag := 0, kind := .digest, origin := .internal, stage := .slice }; let s : State := { Wit.withReq r with slices := [(0, { segs := [(.run 0 0, 1)] })] }; s.req 0 = some r ∧ r.stage = .slice ∧ r.kind = .digest ∧ s.digestOver r (s.descCheck r.lba r.compressed) = true ∧ s.descCheck r.lba r.compressed ≠ 0) ∧ (let r : Req := { tag := 0, kind := .digest, origin := .internal, stage := .slice }; let s : State := ((Wit.withReq r).wrLE 0 8 (2 ^ 60)).wrLE 8 8 (2 ^ 56 + 256); let s : State := { s with slices := [(0, { segs := [(.run 0 0, s.digestSegs r)] })] }; s.req 0 = some r ∧ r.stage = .slice ∧ r.kind = .digest ∧ s.digestOver r (s.descCheck r.lba r.compressed) = true ∧ s.descCheck r.lba r.compressed = 0) := by decide

theorem test_meets_DigestJobsKeysAndHardening_3 :
    let tag : Nat := 0;
    let r : Req := { tag := 0, kind := .hmac, origin := .internal, stage := .slice };
    let s : State := { adm := { reqs := [(0, r)] }, slices := [(0, { keys := [(hSlot 0, { resident := true })], segs := [(.run 0 0, 1)] })] };
    s.req tag = some r ∧ r.stage = .slice ∧ r.kind = .hmac := by decide

theorem test_meets_DigestJobsKeysAndHardening_4 :
    let i : Nat := 0;
    let m : Nat := 3;
    let d : DigRec := ⟨0, 5, 64⟩;
    let t : List DigRec := [];
    let s : State := { slices := [(0, { doneQ := [d] })] };
    s.judge m (digSlot i) 0x118 true false = none ∧ (s.slice i).doneQ = d :: t := by decide

theorem test_meets_DigestJobsKeysAndHardening_5 :
    let i : Nat := 0;
    let s : State := {};
    let m : Nat := 3;
    s.judge m (digSlot i) 0x118 true false = none ∧ (s.slice i).doneQ = [] := by decide

theorem test_meets_DigestJobsKeysAndHardening_6 :
    (let e : KeyEnt := { fetching := true }; let s : State := { slices := [(0, { keys := [(0, e)] })], sec := { handles := [(0, {})] } }; AL.get 0 (s.slice 0).keys = some e ∧ e.fetching = true) := by decide

theorem test_meets_DigestJobsKeysAndHardening_7 :
    let h : Nat := 0;
    let k : KeyH := { removing := true };
    let s : State := { slices := [(0, { keys := [(0, {})] })], sec := { handles := [(0, k)] } };
    AL.get h s.sec.handles = some k ∧ k.removing = true ∧ s.slices.any (fun q => ((AL.get h q.2.keys).map (fun e => s.keyPinned e)).getD false) = false := by decide

theorem test_meets_DigestJobsKeysAndHardening_8 :
    let s : State := State.reset.set F.SEC_DRBG_STAT_READY 1;
    s.get F.SEC_DRBG_STAT_READY = 1 := by decide

theorem test_meets_DigestJobsKeysAndHardening_9 :
    let s : State := {};
    let m : Nat := 1;
    s.judge m (Slot.SEC + 2) 0x100 true true = none := by decide

theorem test_meets_PortsFramesAndPausesAct_0 :
    let p : Nat := 0;
    let s : State := State.reset.set (F.HFI_PORT_STAT_STATE 0 0 0) 2;
    p < 96 ∧ s.refOk (2 + p / 48) = true ∧ s.portFree p (s.portWidth p) = true ∧ (s.portState p = 2 ∨ (s.portState p = 1 ∧ bitOf (s.get (F.HFI_Q_CFG_PORT_EN (p / 48) (p / 4 % 12))) (p % 4) = true)) := by decide

theorem test_meets_PortsFramesAndPausesAct_1 :
    let p : Nat := 95;
    let s : State := State.reset.set (F.HFI_PORT_STAT_STATE 1 11 3) 3;
    p < 96 ∧ s.portState p = 3 := by decide

theorem test_meets_PortsFramesAndPausesAct_2 :
    let q : Nat := 0;
    let b : Nat := 0;
    let s : State := { host := { detect := [(0, 0)] }, time := { tbFx := 524288000 * 2048 } };
    AL.get q s.host.detect = some b ∧ b + 2048 ≤ s.beat := by decide

theorem test_meets_PortsFramesAndPausesAct_3 :
    let p : Nat := 0;
    let f : Frame := { bytes := 64, dst := 0, kind := 0, err := true };
    let s : State := (State.reset.set F.LSE_MODE_MODE 4).set (F.HFI_PORT_STAT_STATE 0 0 0) 3;
    let u : State := (s.satInc (F.HFI_FEC_CNT_CORRECTED (p / 48) (p / 4 % 12) (p % 4)) f.fecCorr).satInc (F.HFI_FEC_CNT_UNCORR (p / 48) (p / 4 % 12) (p % 4)) f.fecBad;
    s.hfiLive = true ∧ s.portUp p = true ∧ u = (s.satInc (F.HFI_FEC_CNT_CORRECTED (p / 48) (p / 4 % 12) (p % 4)) f.fecCorr).satInc (F.HFI_FEC_CNT_UNCORR (p / 48) (p / 4 % 12) (p % 4)) f.fecBad ∧ f.err = true := by decide

theorem test_meets_PortsFramesAndPausesAct_4 :
    (let f : Frame := { bytes := 64, dst := 0, kind := 2, joined := true }; let s := ({ host := { ifaces := [(0, { v4 := true })] } } : State); let t := (s.set F.LSE_MODE_MODE 4).set (F.HFI_PORT_STAT_STATE 0 0 0) 3; let u := (((t.satInc (F.HFI_FEC_CNT_CORRECTED 0 0 0) 0).satInc (F.HFI_FEC_CNT_UNCORR 0 0 0) 0).bump (F.HFI_CNT_RX_FRAMES_COUNT 0 0 0)).bump (F.HFI_CNT_RX_BYTES_COUNT 0 0 0) 64; t.hfiLive = true ∧ t.portUp 0 = true ∧ u.frameDrop 0 f = none ∧ u.frameDrop 0 { f with kind := 0 } = none ∧ u.frameDrop 0 { f with kind := 3 } = none ∧ u.frameDrop 0 { f with frag := true } = some (F.HFI_CNT_FRAG_DROP_COUNT 0)) := by decide

theorem test_meets_PortsFramesAndPausesAct_5 :
    let p : Nat := 0;
    let prio : Nat := 0;
    let bytes : Nat := 1048576;
    let s : State := ((State.reset.set F.LSE_MODE_MODE 4).set (F.HFI_PORT_STAT_STATE 0 0 0) 3).set (F.HFI_GRP_CFG_PFC_EN 0) 1;
    s.hfiLive = true ∧ s.portUp p = true ∧ s.pfcOn (p / 48) prio = true ∧ s.pfcPct p (s.xoffPct p) bytes = true ∧ AL.has (p * 8 + prio) s.host.xoff = false := by decide

theorem test_meets_PortsFramesAndPausesAct_6 :
    let p : Nat := 0;
    let prio : Nat := 0;
    let b : Nat := 0;
    let bytes : Nat := 1048576;
    let s : State := ({ host := { xoff := [(0, 0)] }, time := { tbFx := 524288000 * 2 } } : State).set (F.HFI_PORT_STAT_STATE 0 0 0) 3;
    AL.get (p * 8 + prio) s.host.xoff = some b ∧ b + 2 ≤ s.beat ∧ s.pfcPart p * s.xonPct p < bytes * 100 ∧ s.portUp p = true := by decide

theorem test_meets_PortsFramesAndPausesAct_7 :
    let p : Nat := 0;
    let prio : Nat := 0;
    let bytes : Nat := 0;
    let s : State := { host := { xoff := [(0, 0)] } };
    AL.has (p * 8 + prio) s.host.xoff = true ∧ bytes * 100 ≤ s.pfcPart p * s.xonPct p := by decide

theorem test_meets_PortsFramesAndPausesAct_8 :
    let p : Nat := 0;
    let s : State := (State.reset.set F.LSE_MODE_MODE 4).set (F.HFI_PORT_STAT_STATE 0 0 0) 3;
    s.hfiLive = true ∧ s.portUp p = true := by decide

theorem test_meets_PortsFramesAndPausesAct_9 :
    let p : Nat := 0;
    let prio : Nat := 0;
    let t : Nat := 0;
    let s : State := { host := { paused := [(0, 0)] } };
    AL.get (p * 8 + prio) s.host.paused = some t ∧ t ≤ s.tb := by decide

theorem test_meets_ConnectionsAndQueuesOpenAndEnd_0 :
    let g : Nat := 0;
    let ifc : Nat := 0;
    let port : Nat := 0;
    let l : Nat := 0;
    let c : Nat := 0;
    let i : Iface := {};
    let s : State := (((({ host := { ifaces := [(0, {})] }, units := [(unitKey Blk.NVT 0, { enable := true })] } : State).set F.LSE_MODE_MODE 4).set (F.HFI_PORT_STAT_STATE 0 0 0) 3).set (F.NVT_LISTEN_EN 0 0) 1).set (F.NVT_LISTEN_TCP_PORT 0 0) 0;
    let v : State := s.bump (F.NVT_CNT_SYN_COUNT g);
    s.hfiLive = true ∧ g < 2 ∧ s.iface g ifc = some i ∧ s.portUp i.port = true ∧ v = s.bump (F.NVT_CNT_SYN_COUNT g) ∧ v.listener g ifc port = some l ∧ freeKey (32768 * g) 32768 v.host.conns = some c := by decide

theorem test_meets_ConnectionsAndQueuesOpenAndEnd_1 :
    let g : Nat := 0;
    let ifc : Nat := 0;
    let i : Iface := {};
    let s : State := ((({ host := { ifaces := [(0, {})] }, units := [(unitKey Blk.NVT 0, { enable := true })] } : State).set F.LSE_MODE_MODE 4).set (F.HFI_PORT_STAT_STATE 0 0 0) 3);
    let v : State := s.bump (F.NVT_CNT_SYN_COUNT g);
    s.hfiLive = true ∧ g < 2 ∧ s.iface g ifc = some i ∧ s.portUp i.port = true ∧ v = s.bump (F.NVT_CNT_SYN_COUNT g) := by decide

theorem test_meets_ConnectionsAndQueuesOpenAndEnd_2 :
    let c : Nat := 0;
    let x : TcpConn := { tcp := 2, nvt := 3, cntlid := 0x1000 };
    let s : State := Wit.nvme 3 {};
    s.conn c = some x ∧ s.hfiLive = true := by decide

theorem test_meets_ConnectionsAndQueuesOpenAndEnd_3 :
    let c : Nat := 0;
    let window : Nat := 0;
    let ce : Bool := false;
    let x : TcpConn := { tcp := 2, nvt := 3, cntlid := 0x1000 };
    let s : State := Wit.nvme 3 {};
    let u : State := s.modConn c (fun x => { x with window := window });
    s.conn c = some x ∧ s.hfiLive = true ∧ u = (if ce = true ∧ x.ecn = true then s.bump (F.NVT_CNT_ECN_CE_COUNT (connUnit c)) else s).modConn c (fun x => { x with window := window }) := by decide

theorem test_meets_ConnectionsAndQueuesOpenAndEnd_4 :
    let c : Nat := 0;
    let b : Nat := 0;
    let x : TcpConn := { inFlight := 1, rtoBeat := some 0 };
    let i : Iface := {};
    let s : State := ({ host := { conns := [(0, x)], ifaces := [(0, i)] } } : State).set (F.HFI_PORT_STAT_STATE 0 0 0) 3;
    s.conn c = some x ∧ s.connIface c = some i ∧ x.inFlight ≠ 0 ∧ x.rtoBeat = some b ∧ b ≤ s.beat ∧ s.mayLeave i (s.get (F.HFI_PRIO_MAP_NVT (connUnit c))) = true := by decide

theorem test_meets_ConnectionsAndQueuesOpenAndEnd_5 :
    let c : Nat := 0;
    let x : TcpConn := { tcp := 4 };
    let s : State := { host := { conns := [(0, x)] }, time := { tbFx := 524288000 * 8192 * 65536 } };
    s.conn c = some x ∧ x.tcp = 4 ∧ x.stateBeat + 8192 * s.get (F.NVT_TCP_CFG_TIME_WAIT (connUnit c)) ≤ s.beat := by decide

theorem test_meets_ConnectionsAndQueuesOpenAndEnd_6 :
    let c : Nat := 0;
    let x : TcpConn := { tcp := 2, nvt := 1 };
    let s : State := { host := { conns := [(0, x)] } };
    let v : State := s.bump (F.NVT_CNT_PDU_RX_COUNT (connUnit c));
    s.conn c = some x ∧ x.nvt = 1 ∧ v = s.bump (F.NVT_CNT_PDU_RX_COUNT (connUnit c)) := by decide

theorem test_meets_ConnectionsAndQueuesOpenAndEnd_7 :
    let c : Nat := 0;
    let x : TcpConn := { tcp := 2, nvt := 1 };
    let s : State := { host := { conns := [(0, x)] }, time := { tbFx := 524288000 * 1024 * 65536 } };
    s.conn c = some x ∧ x.nvt = 1 ∧ x.stateBeat + 1024 * s.get (F.NVT_CFG_ICREQ_TMO (connUnit c)) ≤ s.beat := by decide

theorem test_meets_ConnectionsAndQueuesOpenAndEnd_8 :
    let c : Nat := 0;
    let k : Nat := 0;
    let flags : Nat := 64;
    let x : TcpConn := { tcp := 2, nvt := 2 };
    let s : State := { host := { conns := [(0, x)] } };
    let v : State := (s.bump (F.NVT_CNT_PDU_RX_COUNT (connUnit c))).bump (F.NVT_CNT_CONNECT_COUNT (connUnit c));
    s.conn c = some x ∧ x.mayConnect = true ∧ flagsOk flags = true ∧ v = (s.bump (F.NVT_CNT_PDU_RX_COUNT (connUnit c))).bump (F.NVT_CNT_CONNECT_COUNT (connUnit c)) ∧ freeKey (1024 * connUnit c) 1024 v.host.ctrls = some k := by decide

theorem test_meets_ConnectionsAndQueuesOpenAndEnd_9 :
    let c : Nat := 0;
    let x : TcpConn := { tcp := 2, nvt := 2 };
    let s : State := { host := { conns := [(0, x)] } };
    let v : State := (s.bump (F.NVT_CNT_PDU_RX_COUNT (connUnit c))).bump (F.NVT_CNT_CONNECT_COUNT (connUnit c));
    s.conn c = some x ∧ x.mayConnect = true ∧ v = (s.bump (F.NVT_CNT_PDU_RX_COUNT (connUnit c))).bump (F.NVT_CNT_CONNECT_COUNT (connUnit c)) := by decide

theorem test_meets_ConnectionsAndQueuesOpenAndEnd_10 :
    let c : Nat := 0;
    let sqsize : Nat := 0;
    let k : Nat := 0;
    let flags : Nat := 64;
    let qid : Nat := 1;
    let id : Nat := 0x1000;
    let x : TcpConn := { tcp := 2, nvt := 2 };
    let data : List Nat := List.replicate 16 0 ++ [0, 16];
    let s : State := { host := { conns := [(0, x)], ctrls := [(0, { st := 2, granted := 1, hostId := List.replicate 16 0 })] } };
    let v : State := (s.bump (F.NVT_CNT_PDU_RX_COUNT (connUnit c))).bump (F.NVT_CNT_CONNECT_COUNT (connUnit c));
    s.conn c = some x ∧ x.mayConnect = true ∧ flagsOk flags = true ∧ v = (s.bump (F.NVT_CNT_PDU_RX_COUNT (connUnit c))).bump (F.NVT_CNT_CONNECT_COUNT (connUnit c)) ∧ v.connectIoStatus c qid sqsize data = 0 ∧ id = data.getD 16 0 + 256 * data.getD 17 0 ∧ (v.modConn c (fun x => { x with nvt := 4, cntlid := id, qid := qid, sqsize := sqsize, stateBeat := v.beat })).ctrlOf id = some k := by decide

theorem test_meets_ConnectionsAndQueuesOpenAndEnd_11 :
    let c : Nat := 0;
    let x : TcpConn := { tcp := 2, nvt := 2 };
    let s : State := { host := { conns := [(0, x)] } };
    let v : State := (s.bump (F.NVT_CNT_PDU_RX_COUNT (connUnit c))).bump (F.NVT_CNT_CONNECT_COUNT (connUnit c));
    s.conn c = some x ∧ x.mayConnect = true ∧ v = (s.bump (F.NVT_CNT_PDU_RX_COUNT (connUnit c))).bump (F.NVT_CNT_CONNECT_COUNT (connUnit c)) := by decide

theorem test_meets_ConnectionsAndQueuesOpenAndEnd_12 :
    let g : Nat := 0;
    let w : Nat := 0;
    let m : Nat := 3;
    let x : ConnectSlot := { conn := 0, ctrl := 0, kato := 5, beat := 0 };
    let s : State := { host := { connectQ := [0], slots := [(0, x)] } };
    s.judge m (nvtSlot g 1) 0x100 true false = none ∧ s.host.connectQ.find? (fun w => w / 64 == g) = some w ∧ AL.get w s.host.slots = some x := by decide

theorem test_meets_ConnectionsAndQueuesOpenAndEnd_13 :
    let g : Nat := 0;
    let s : State := {};
    let m : Nat := 3;
    s.judge m (nvtSlot g 1) 0x100 true false = none ∧ s.host.connectQ.find? (fun w => w / 64 == g) = none := by decide

theorem test_meets_ConnectionsAndQueuesOpenAndEnd_14 :
    (let s : State := { host := { connectQ := [0], slots := [(0, { conn := 0, ctrl := 0, kato := 5, beat := 0 })] } }; s.judge 3 (nvtSlot 0 1) 0x110 true true = none ∧ AL.get (64 * 0 + 0) s.host.slots = some { conn := 0, ctrl := 0, kato := 5, beat := 0 }) := by decide

theorem test_meets_ConnectionsAndQueuesOpenAndEnd_15 :
    let g : Nat := 0;
    let slot : Nat := 0;
    let s : State := {};
    let m : Nat := 3;
    s.judge m (nvtSlot g 1) 0x110 true true = none ∧ AL.get (64 * g + slot) s.host.slots = none := by decide

theorem test_meets_ConnectionsAndQueuesOpenAndEnd_16 :
    let g : Nat := 0;
    let slot : Nat := 0;
    let x : ConnectSlot := { conn := 0, ctrl := 0, kato := 5, beat := 0 };
    let s : State := { host := { slots := [(0, x)] }, time := { tbFx := 524288000 * 1024 * 65536 } };
    AL.get (64 * g + slot) s.host.slots = some x ∧ x.beat + 1024 * s.get (F.NVT_CFG_CONNECT_TMO g) ≤ s.beat := by decide

theorem test_meets_ConnectionsAndQueuesOpenAndEnd_17 :
    let k : Nat := 0;
    let x : Ctrl := { st := 2, kato := 1 };
    let s : State := { host := { ctrls := [(0, x)] }, time := { tbFx := 524288000 * 125 } };
    s.ctrl k = some x ∧ x.st = 2 ∧ x.kato ≠ 0 ∧ x.lastBeat + 125 * x.kato ≤ s.beat := by decide

theorem test_meets_ConnectionsAndQueuesOpenAndEnd_18 :
    let g : Nat := 0;
    let idx : Nat := 0;
    let m : Nat := 3;
    let x : Ctrl := { st := 2 };
    let s : State := { host := { ctrls := [(0, x)] } };
    s.judge m (nvtSlot g 1) 0x128 true true = none ∧ s.get (F.NVT_CTRL_CMD_STAT_BUSY g) ≠ 1 ∧ s.ctrl (1024 * g + idx) = some x ∧ x.st = 2 := by decide

theorem test_meets_ConnectionsAndQueuesOpenAndEnd_19 :
    let g : Nat := 0;
    let s : State := {};
    let m : Nat := 3;
    s.judge m (nvtSlot g 1) 0x128 true true = none := by decide

theorem test_meets_ConnectionsAndQueuesOpenAndEnd_20 :
    let c : Nat := 0;
    let ttag : Nat := 0;
    let off : Nat := 0;
    let x : TcpConn := { tcp := 2, nvt := 4, cntlid := 0x1000, r2ts := [⟨0, 0, 0, 4096, 0, 0, false⟩] };
    let r : R2t := ⟨0, 0, 0, 4096, 0, 0, false⟩;
    let len : Nat := 4096;
    let s : State := ({ host := { conns := [(0, x)] } } : State).set F.LSE_MODE_MODE 4;
    let u : State := s.bump (F.NVT_CNT_PDU_RX_COUNT (connUnit c));
    s.conn c = some x ∧ x.tcp = 2 ∧ s.hfiLive = true ∧ x.r2ts.find? (fun r => r.ttag == ttag) = some r ∧ off = r.off + r.got ∧ r.got + len ≤ r.len ∧ len ≤ 65536 ∧ u = s.bump (F.NVT_CNT_PDU_RX_COUNT (connUnit c)) := by decide

theorem test_meets_ConnectionsAndQueuesOpenAndEnd_21 :
    let c : Nat := 0;
    let x : TcpConn := { tcp := 2, nvt := 3, cntlid := 0x1000 };
    let s : State := Wit.nvme 3 {};
    let u : State := s.bump (F.NVT_CNT_PDU_RX_COUNT (connUnit c));
    s.conn c = some x ∧ x.tcp = 2 ∧ s.hfiLive = true ∧ u = s.bump (F.NVT_CNT_PDU_RX_COUNT (connUnit c)) := by decide

theorem test_meets_ConnectionsAndQueuesOpenAndEnd_22 :
    let c : Nat := 0;
    let x : TcpConn := { tcp := 2, nvt := 3, cntlid := 0x1000 };
    let s : State := Wit.nvme 3 {};
    s.conn c = some x ∧ x.tcp = 2 ∧ s.hfiLive = true := by decide

theorem test_meets_AdminCommandsComplete_0 :
    (let y : Ctrl := { st := 2, attach := [0] }; let s : State := { (Wit.nvme 3 y) with vat := { vols := [(0, { vat := 0, sizeM1 := 9 })] } }; let u := (s.nvmeCounted 0 0 (2 ^ 20)).bump (F.NVT_CNT_ADMIN_COUNT (connUnit 0)); s.AdminTurn 0 64 0 { tcp := 2, nvt := 3, cntlid := 0x1000 } y u ∧ y.disc = false ∧ (u.activeNs y).contains 0 = true ∧ (u.activeNs y).contains 1 = false) := by decide

theorem test_meets_AdminCommandsComplete_1 :
    let c : Nat := 0;
    let k : Nat := 0;
    let flags : Nat := 64;
    let x : TcpConn := { tcp := 2, nvt := 3, cntlid := 0x1000 };
    let y : Ctrl := { st := 2 };
    let s : State := Wit.nvme 3 y;
    let u : State := (s.nvmeCounted c k (2 ^ 20)).bump (F.NVT_CNT_ADMIN_COUNT (connUnit c));
    s.AdminTurn c flags k x y u ∧ y.disc = false := by decide

theorem test_meets_AdminCommandsComplete_2 :
    (let y : Ctrl := { st := 2 }; let s : State := Wit.nvme 3 y; s.AdminTurn 0 64 0 { tcp := 2, nvt := 3, cntlid := 0x1000 } y ((s.nvmeCounted 0 0 (2 ^ 20)).bump (F.NVT_CNT_ADMIN_COUNT (connUnit 0))) ∧ y.disc = false) ∧ (let y : Ctrl := { st := 2, disc := true }; let s : State := Wit.nvme 3 y; s.AdminTurn 0 64 0 { tcp := 2, nvt := 3, cntlid := 0x1000 } y ((s.nvmeCounted 0 0 (2 ^ 20)).bump (F.NVT_CNT_ADMIN_COUNT (connUnit 0))) ∧ y.disc = true) := by decide

theorem test_meets_AdminCommandsComplete_3 :
    (let y : Ctrl := { st := 2, attach := [0] }; let s : State := { (Wit.nvme 3 y) with vat := { vols := [(0, { vat := 0, sizeM1 := 9 })] } }; let u := (s.nvmeCounted 0 0 (2 ^ 20)).bump (F.NVT_CNT_ADMIN_COUNT (connUnit 0)); s.AdminTurn 0 64 0 { tcp := 2, nvt := 3, cntlid := 0x1000 } y u ∧ y.disc = false ∧ u.host.selftest = none ∧ (u.activeNs y).contains 0 = true ∧ (u.activeNs y).contains 1 = false) := by decide

theorem test_meets_AdminCommandsComplete_4 :
    let c : Nat := 0;
    let k : Nat := 0;
    let flags : Nat := 64;
    let x : TcpConn := { tcp := 2, nvt := 3, cntlid := 0x1000 };
    let y : Ctrl := { st := 2, aers := [9] };
    let s : State := Wit.nvme 3 y;
    let u : State := (s.nvmeCounted c k (2 ^ 20)).bump (F.NVT_CNT_ADMIN_COUNT (connUnit c));
    s.AdminTurn c flags k x y u ∧ y.disc = false := by decide

theorem test_meets_AdminCommandsComplete_5 :
    let c : Nat := 0;
    let k : Nat := 0;
    let flags : Nat := 64;
    let x : TcpConn := { tcp := 2, nvt := 3, cntlid := 0x1000 };
    let y : Ctrl := { st := 2 };
    let s : State := Wit.nvme 3 y;
    let u : State := (s.nvmeCounted c k (2 ^ 20)).bump (F.NVT_CNT_ADMIN_COUNT (connUnit c));
    s.AdminTurn c flags k x y u := by decide

theorem test_meets_AdminCommandsComplete_6 :
    let c : Nat := 0;
    let k : Nat := 0;
    let flags : Nat := 64;
    let x : TcpConn := { tcp := 2, nvt := 3, cntlid := 0x1000 };
    let y : Ctrl := { st := 2 };
    let s : State := Wit.nvme 3 y;
    let u : State := (s.nvmeCounted c k (2 ^ 20)).bump (F.NVT_CNT_ADMIN_COUNT (connUnit c));
    s.AdminTurn c flags k x y u ∧ y.disc = false := by decide

theorem test_meets_AdminCommandsComplete_7 :
    let c : Nat := 0;
    let k : Nat := 0;
    let flags : Nat := 64;
    let x : TcpConn := { tcp := 2, nvt := 3, cntlid := 0x1000 };
    let y : Ctrl := { st := 2 };
    let s : State := Wit.nvme 3 y;
    let u : State := (s.nvmeCounted c k (2 ^ 20)).bump (F.NVT_CNT_ADMIN_COUNT (connUnit c));
    s.AdminTurn c flags k x y u := by decide

theorem test_meets_AdminCommandsComplete_8 :
    let c : Nat := 0;
    let k : Nat := 0;
    let x : TcpConn := { tcp := 2, nvt := 3, cntlid := 0x1000 };
    let y : Ctrl := { st := 2, disc := true };
    let s : State := Wit.nvme 3 y;
    let u : State := s.nvmeCounted c k (2 ^ 20);
    s.NvmeTurn c k x y ∧ x.nvt = 3 ∧ y.disc = true ∧ u = s.nvmeCounted c k (2 ^ 20) := by decide

theorem test_meets_AdminCommandsComplete_9 :
    let c : Nat := 0;
    let k : Nat := 0;
    let x : TcpConn := { tcp := 2, nvt := 3, cntlid := 0x1000 };
    let y : Ctrl := { st := 2 };
    let s : State := Wit.nvme 3 y;
    let u : State := s.nvmeCounted c k (2 ^ 20);
    s.NvmeTurn c k x y ∧ u = s.nvmeCounted c k (2 ^ 20) := by decide

theorem test_meets_AdminCommandsComplete_10 :
    let t : SelfTest := { code := 1, nsid := 0, scope := [], cntlid := 0x1000, beat := 0 };
    let s : State := { host := { selftest := some t } };
    s.host.selftest = some t := by decide

theorem test_meets_AdminCommandsComplete_11 :
    let ok : Bool := true;
    let t : SelfTest := { code := 1, nsid := 0, scope := [], cntlid := 0x1000, beat := 0 };
    let s : State := { host := { selftest := some t } };
    let z : SelfTest := { t with failed := if (ok && s.segmentKnown t.segment) = true ∨ t.failed ≠ 0 then t.failed else t.segment };
    s.host.selftest = some t ∧ t.scope.any (fun v => (s.liveVol v).isNone) = false ∧ s.loadAtMost 75 = true ∧ (t.segment = 5 → (t.read.bind s.req).isSome = false ∧ t.todo.getD (t.scope.flatMap (fun v => s.testBlocks t.code v)) = []) ∧ (z = { t with failed := if (ok && s.segmentKnown t.segment) = true ∨ t.failed ≠ 0 then t.failed else t.segment }) := by decide

theorem test_meets_AdminCommandsComplete_12 :
    let v : Nat := 0;
    let lba : Nat := 0;
    let t : SelfTest := { code := 1, nsid := 0, scope := [], cntlid := 0x1000, beat := 0, segment := 5, todo := some [(0, 0)] };
    let s : State := { host := { selftest := some t } };
    let q : Req := { tag := 0, kind := .read, origin := .selftest, vol := 0, lba := 0, blocks := 1, cls := 6 };
    let rest : List (Nat × Nat) := [];
    let tag : Nat := (s.newReq q true).1;
    let u : State := (s.newReq q true).2;
    s.host.selftest = some t ∧ t.scope.any (fun v => (s.liveVol v).isNone) = false ∧ s.loadAtMost 75 = true ∧ t.segment = 5 ∧ (t.read.bind s.req).isSome = false ∧ t.todo.getD (t.scope.flatMap (fun v => s.testBlocks t.code v)) = (v, lba) :: rest ∧ (tag, u) = s.newReq { tag := 0, kind := .read, origin := .selftest, vol := v, lba := lba, blocks := 1, cls := 6 } true := by decide

theorem test_meets_AdminCommandsComplete_13 :
    let t : SelfTest := { code := 1, nsid := 0, scope := [], cntlid := 0x1000, beat := 0 };
    let s : State := { host := { selftest := some t }, time := { tbFx := 524288000 * 15000000 } };
    s.host.selftest = some t ∧ t.code = 1 ∧ t.beat + 15000000 ≤ s.beat := by decide

theorem test_meets_UnitsEnableAndQuiesce_0 :
    (State.reset.judge 3 Slot.ADM 0x10 true true = none ∧ (State.reset.unit (unitOfSlot Slot.ADM)).enable = false ∧ State.reset.enableBad (unitOfSlot Slot.ADM / 256) (unitOfSlot Slot.ADM % 256) = none) := by decide

theorem test_meets_UnitsEnableAndQuiesce_1 :
    (let s := State.reset.setUnit (unitOfSlot Slot.ADM) { enable := true }; s.judge 3 Slot.ADM 0x10 true true = none ∧ (s.unit (unitOfSlot Slot.ADM)).enable = true) := by decide

theorem test_meets_UnitsEnableAndQuiesce_2 :
    (let s := State.reset.setUnit (unitOfSlot Slot.ADM) { enable := true }; s.judge 3 Slot.ADM 0x10 true true = none ∧ (s.unit (unitOfSlot Slot.ADM)).enable = true) := by decide

theorem test_meets_UnitsEnableAndQuiesce_3 :
    (let s := State.reset.setUnit (unitOfSlot Slot.ADM) ⟨true, true, true⟩; s.judge 3 Slot.ADM 0x10 true true = none ∧ (s.unit (unitOfSlot Slot.ADM)).enable = true ∧ (s.unit (unitOfSlot Slot.ADM)).quiesced = true) := by decide

theorem test_meets_UnitsEnableAndQuiesce_4 :
    (let s := State.reset.setUnit (unitOfSlot Slot.ADM) ⟨true, true, false⟩; s.judge 3 Slot.ADM 0x10 true true = none ∧ (s.unit (unitOfSlot Slot.ADM)).enable = true ∧ (s.unit (unitOfSlot Slot.ADM)).quiesced = false) := by decide

theorem test_meets_UnitsEnableAndQuiesce_5 :
    (let s := State.reset.setUnit (unitKey Blk.ADM 0) ⟨true, true, false⟩; (s.unit (unitKey Blk.ADM 0)).enable = true ∧ (s.unit (unitKey Blk.ADM 0)).quiesce = true ∧ s.unitBusy Blk.ADM 0 = false) := by decide

theorem test_meets_UnitsEnableAndQuiesce_6 :
    (let s := State.reset.setUnit (unitKey Blk.ADM 0) ⟨true, false, false⟩; s.judge 3 Slot.ADM 0x10 true true = none ∧ pageOf Slot.ADM = some (Blk.ADM, 0, 0) ∧ (s.unit (unitKey Blk.ADM 0)).enable = true) := by decide

theorem test_meets_UnitsEnableAndQuiesce_7 :
    (State.reset.judge 3 Slot.ADM 0x10 true true = none ∧ pageOf Slot.ADM = some (Blk.ADM, 0, 0) ∧ (State.reset.unit (unitKey Blk.ADM 0)).enable = false ∧ unitOfSlot Slot.ADM = unitKey Blk.ADM 0 ∧ ((State.reset.unitReset Blk.ADM 0).unit (unitKey Blk.ADM 0)).enable = false) := by decide

theorem test_meets_UnitsEnableAndQuiesce_8 :
    (let s := State.reset.set F.MAP_SIZE_GIB 0; s.judge 3 Slot.MAP 0x10 true true = none ∧ (s.unit (unitOfSlot Slot.MAP)).enable = false ∧ s.enableBad (unitOfSlot Slot.MAP / 256) (unitOfSlot Slot.MAP % 256) = some Cond.MAP_CFG_INVALID) := by decide

theorem test_meets_UnitsEnableAndQuiesce_9 :
    (State.reset.judge 3 Slot.ADM 0x10 true true = none ∧ pageOf Slot.ADM = some (Blk.ADM, 0, 0) ∧ (State.reset.unit (unitKey Blk.ADM 0)).enable = false) := by decide

theorem test_meets_HeadersCommitAndAcknowledge_0 :
    (State.reset.judge 3 Slot.ADM 0x20 true true = none ∧ pageOf Slot.ADM = some (Blk.ADM, 0, 0)) := by decide

theorem test_meets_HeadersCommitAndAcknowledge_1 :
    (State.reset.judge 3 Slot.ADM 0x20 true true = none ∧ pageOf Slot.ADM = some (Blk.ADM, 0, 0)) := by decide

theorem test_meets_HeadersCommitAndAcknowledge_2 :
    (State.reset.judge 62 Slot.ADM 0x28 true false = none) := by decide

theorem test_meets_HeadersCommitAndAcknowledge_3 :
    (let s := State.reset.modHdr Slot.ADM (fun h => { h with errq := [⟨0x104, 2, false, 0, false⟩] }); s.judge 3 Slot.ADM 0x28 true false = none ∧ (s.hdr Slot.ADM).errq = [⟨0x104, 2, false, 0, false⟩]) := by decide

theorem test_meets_HeadersCommitAndAcknowledge_4 :
    (State.reset.judge 3 Slot.ADM 0x30 true true = none) := by decide

theorem test_meets_HeadersCommitAndAcknowledge_5 :
    (State.reset.judge 1 Slot.ADM 0x50 true true = none) := by decide

theorem test_meets_HeadersCommitAndAcknowledge_6 :
    (State.reset.judge 3 Slot.ADM 0x20 true true = none ∧ pageOf Slot.ADM = some (Blk.ADM, 0, 0)) := by decide

theorem test_meets_ReadsResolveOrEnd_0 :
    (let r : Req := { tag := 7, kind := .read, origin := .internal }; (Wit.withReq r).req 7 = some r ∧ r.readLike = true ∧ r.stage = .resolving) := by decide

theorem test_meets_ReadsResolveOrEnd_1 :
    (let s : State := { State.reset with read := { slowQ := [⟨1, 0, 7, 5⟩] } }; s.judge 3 Slot.RDP 0x120 true false = none) := by decide

theorem test_meets_ReadsResolveOrEnd_2 :
    (let r : Req := { tag := 7, kind := .read, origin := .internal, stage := .slow 1 }; (Wit.withReq r).judge 3 Slot.RDP 0x130 true true = none ∧ (Wit.withReq r).req 7 = some r) := by decide

theorem test_meets_ReadsResolveOrEnd_3 :
    (let r : Req := { tag := 7, kind := .read, origin := .internal, stage := .slow 1 }; (Wit.withReq r).judge 3 Slot.RDP 0x130 true true = none ∧ (Wit.withReq r).req 7 = some r) := by decide

theorem test_meets_ReadsResolveOrEnd_4 :
    (let r : Req := { tag := 7, kind := .read, origin := .internal, stage := .slow 1 }; (Wit.withReq r).judge 3 Slot.RDP 0x130 true true = none ∧ (Wit.withReq r).req 7 = some r) := by decide

theorem test_meets_ReadsResolveOrEnd_5 :
    (let r : Req := { tag := 7, kind := .read, origin := .internal, stage := .slow 1 }; (Wit.withReq r).judge 3 Slot.RDP 0x130 true true = none ∧ (Wit.withReq r).req 7 = some r) := by decide

theorem test_meets_ReadsResolveOrEnd_6 :
    (let r : Req := { tag := 7, kind := .read, origin := .internal, stage := .slow 1 }; let s := { Wit.withReq r with time := { tbFx := 524288000 * 5 } }.set F.RDP_SLOW_TMO_BEATS 4; s.req 7 = some r ∧ 0 < s.get F.RDP_SLOW_TMO_BEATS ∧ r.slowSince + s.get F.RDP_SLOW_TMO_BEATS < s.beat) := by decide

theorem test_meets_ReadsResolveOrEnd_7 :
    (State.reset.judge 3 Slot.RDP 0x120 true false = none ∧ State.reset.read.slowQ = []) := by decide

theorem test_meets_ReadsResolveOrEnd_8 :
    (State.reset.judge 3 Slot.RDP 0x130 true true = none ∧ State.reset.req 7 = none) := by decide

theorem test_meets_PrefetchRecordsAndReplays_0 :
    let p : Nat := 0;
    let m : Nat := 3;
    let v : Nat := 2;
    let w : Nat := 1;
    let s : State := { State.reset with vat := { vols := [(2, { vat := 0, sizeM1 := 0 })] } };
    s.judge m Slot.PFX 0x118 true true = none ∧ s.recState ≠ 1 ∧ s.recState ≠ 2 ∧ AL.has p s.read.loaded = false ∧ 0 < w ∧ (s.liveVol v).isSome = true := by decide

theorem test_meets_PrefetchRecordsAndReplays_1 :
    let m : Nat := 3;
    let s : State := State.reset.set F.PFX_REC_STAT_STATE 1;
    s.judge m Slot.PFX 0x118 true true = none ∧ ((s.recState = 1 ∨ s.recState = 2)) := by decide

theorem test_meets_PrefetchRecordsAndReplays_2 :
    let s : State := {};
    let m : Nat := 3;
    s.judge m Slot.PFX 0x118 true true = none ∧ s.recState ≠ 1 ∧ s.recState ≠ 2 := by decide

theorem test_meets_PrefetchRecordsAndReplays_3 :
    let s : State := {};
    let m : Nat := 3;
    s.judge m Slot.PFX 0x118 true true = none := by decide

theorem test_meets_PrefetchRecordsAndReplays_4 :
    (({ State.reset with time := { tbFx := 524288000 } }.set F.PFX_REC_STAT_STATE 2).recClosed = true) := by decide

theorem test_meets_PrefetchRecordsAndReplays_5 :
    let s : State := {};
    let m : Nat := 3;
    s.judge m Slot.PFX 0x130 true true = none ∧ s.get F.PFX_LOAD_STAT_BUSY ≠ 1 := by decide

theorem test_meets_PrefetchRecordsAndReplays_6 :
    let m : Nat := 3;
    let s : State := State.reset.set F.PFX_LOAD_STAT_BUSY 1;
    s.judge m Slot.PFX 0x130 true true = none ∧ s.get F.PFX_LOAD_STAT_BUSY = 1 := by decide

theorem test_meets_PrefetchRecordsAndReplays_7 :
    let p : Nat := 0;
    let s : State := { read := { loadOp := some (2, 0) } };
    s.read.loadOp = some (2, p) := by decide

theorem test_meets_PrefetchRecordsAndReplays_8 :
    let p : Nat := 0;
    let s : State := { read := { loadOp := some (1, 0) } };
    s.read.loadOp = some (1, p) := by decide

theorem test_meets_PrefetchRecordsAndReplays_9 :
    let i : Nat := 0;
    let x : Replay := { profile := 1, trigBeat := 1 };
    let f : Profile := { vol := 0, trigLba := 0, trigLen := 1, extents := 1 };
    let s : State := { State.reset with read := { replays := [x], loaded := [(1, f)] } };
    let u : State := (s.bump F.PFX_CNT_ISSUED_COUNT).modRead (fun r => { r with issuedNow := if r.issuedBeat = s.beat then r.issuedNow + 1 else 1, issuedBeat := s.beat });
    let t : State := (u.prefetch (u.extentName x) f.vol (s.nextExtent x).lba ((s.nextExtent x).lenM1 + 1)).replayNext i;
    s.read.replays[i]? = some x ∧ s.dueBeat x ≤ s.beat ∧ s.beat < x.trigBeat + 64 * (s.nextExtent x).delay ∧ s.pfxMayIssue = true ∧ s.read.replays.all (fun y => decide (s.dueBeat x ≤ s.dueBeat y)) = true ∧ AL.get x.profile s.read.loaded = some f ∧ u = (s.bump F.PFX_CNT_ISSUED_COUNT).modRead (fun r => { r with issuedNow := if r.issuedBeat = s.beat then r.issuedNow + 1 else 1, issuedBeat := s.beat }) ∧ t = (u.prefetch (u.extentName x) f.vol (s.nextExtent x).lba ((s.nextExtent x).lenM1 + 1)).replayNext i := by decide

theorem test_meets_PrefetchRecordsAndReplays_10 :
    let i : Nat := 0;
    let x : Replay := { profile := 1, trigBeat := 0 };
    let s : State := { State.reset with read := { replays := [x] } };
    s.read.replays[i]? = some x ∧ x.trigBeat + 64 * (s.nextExtent x).delay ≤ s.beat := by decide

theorem test_meets_IoCommandsBecomeRequests_0 :
    let c : Nat := 0;
    let cid : Nat := 0;
    let k : Nat := 0;
    let lba : Nat := 0;
    let blocks : Nat := 1;
    let sgl : Nat := 4096;
    let flags : Nat := 64;
    let nsid : Nat := 1;
    let x : TcpConn := { tcp := 2, nvt := 4, cntlid := 0x1000 };
    let y : Ctrl := { st := 2, attach := [0] };
    let s : State := { (Wit.nvme 4 y) with vat := { vols := [(0, { vat := 0, sizeM1 := 9 })] } };
    let q : Req := { ({ tag := 0, kind := .read, origin := .internal, vol := volOf nsid, lba := lba, blocks := blocks, cls := 0 } : Req) with origin := .nvt c cid, assoc := x.cntlid };
    let t : Nat := ((s.nvmeCounted c k 0).newReq q true).1;
    let v : State := ((s.nvmeCounted c k 0).newReq q true).2;
    s.IoIn c cid k x y { tag := 0, kind := .read, origin := .internal, vol := volOf nsid, lba := lba, blocks := blocks, cls := 0 } q t v ∧ v.ioStops flags (rwLimit blocks sgl) x y (volOf nsid) = 0 ∧ v.takeNotice x.cntlid (volOf nsid) = none := by decide

theorem test_meets_IoCommandsBecomeRequests_1 :
    let c : Nat := 0;
    let cid : Nat := 0;
    let k : Nat := 0;
    let lba : Nat := 0;
    let icd : List Nat := [];
    let blocks : Nat := 1;
    let sgl : Nat := 4096;
    let flags : Nat := 64;
    let nsid : Nat := 1;
    let x : TcpConn := { tcp := 2, nvt := 4, cntlid := 0x1000 };
    let y : Ctrl := { st := 2, attach := [0] };
    let s : State := { (Wit.nvme 4 y) with vat := { vols := [(0, { vat := 0, sizeM1 := 9 })] } };
    let q : Req := { ({ tag := 0, kind := .write, origin := .internal, vol := volOf nsid, lba := lba, blocks := blocks, cls := 4, icd := icd } : Req) with origin := .nvt c cid, assoc := x.cntlid };
    let t : Nat := ((s.nvmeCounted c k 0).newReq q true).1;
    let v : State := ((s.nvmeCounted c k 0).newReq q true).2;
    s.IoIn c cid k x y { tag := 0, kind := .write, origin := .internal, vol := volOf nsid, lba := lba, blocks := blocks, cls := 4, icd := icd } q t v ∧ v.ioStops flags (if icd ≠ [] ∧ 8192 < sgl then outField else rwLimit blocks sgl) x y (volOf nsid) = 0 ∧ v.takeNotice x.cntlid (volOf nsid) = none := by decide

theorem test_meets_IoCommandsBecomeRequests_2 :
    let c : Nat := 0;
    let cid : Nat := 0;
    let k : Nat := 0;
    let lba : Nat := 0;
    let blocks : Nat := 65536;
    let flags : Nat := 64;
    let nsid : Nat := 1;
    let x : TcpConn := { tcp := 2, nvt := 4, cntlid := 0x1000 };
    let y : Ctrl := { st := 2, attach := [0] };
    let s : State := { (Wit.nvme 4 y) with vat := { vols := [(0, { vat := 0, sizeM1 := 9 })] } };
    let q : Req := { ({ tag := 0, kind := .zeroes, origin := .internal, vol := volOf nsid, lba := lba, blocks := blocks, cls := 4, ranges := [(lba, blocks)] } : Req) with origin := .nvt c cid, assoc := x.cntlid };
    let t : Nat := ((s.nvmeCounted c k 0).newReq q true).1;
    let v : State := ((s.nvmeCounted c k 0).newReq q true).2;
    s.IoIn c cid k x y { tag := 0, kind := .zeroes, origin := .internal, vol := volOf nsid, lba := lba, blocks := blocks, cls := 4, ranges := [(lba, blocks)] } q t v ∧ (v.ioStops flags (if blocks = 0 ∨ 65536 < blocks then outField else 0) x y (volOf nsid) = 0) ∧ v.takeNotice x.cntlid (volOf nsid) = none := by decide

theorem test_meets_IoCommandsBecomeRequests_3 :
    let c : Nat := 0;
    let cid : Nat := 0;
    let k : Nat := 0;
    let ad : Bool := true;
    let ranges : List (Nat × Nat) := [(0, 8)];
    let flags : Nat := 64;
    let nsid : Nat := 1;
    let x : TcpConn := { tcp := 2, nvt := 4, cntlid := 0x1000 };
    let y : Ctrl := { st := 2, attach := [0] };
    let s : State := { (Wit.nvme 4 y) with vat := { vols := [(0, { vat := 0, sizeM1 := 9 })] } };
    let q : Req := { ({ tag := 0, kind := .dealloc, origin := .internal, vol := volOf nsid, lba := (ranges.headD (0, 0)).1, blocks := (ranges.map (·.2)).sum, cls := 4, ranges := ranges } : Req) with origin := .nvt c cid, assoc := x.cntlid };
    let t : Nat := ((s.nvmeCounted c k 0).newReq q true).1;
    let v : State := ((s.nvmeCounted c k 0).newReq q true).2;
    s.IoIn c cid k x y { tag := 0, kind := .dealloc, origin := .internal, vol := volOf nsid, lba := (ranges.headD (0, 0)).1, blocks := (ranges.map (·.2)).sum, cls := 4, ranges := ranges } q t v ∧ v.ioStops flags (dsmLimit ad ranges) x y (volOf nsid) = 0 ∧ v.takeNotice x.cntlid (volOf nsid) = none := by decide

theorem test_meets_IoCommandsBecomeRequests_4 :
    let c : Nat := 0;
    let cid : Nat := 0;
    let k : Nat := 0;
    let lba : Nat := 0;
    let blocks : Nat := 1;
    let sgl : Nat := 4096;
    let flags : Nat := 64;
    let nsid : Nat := 1;
    let x : TcpConn := { tcp := 2, nvt := 3, cntlid := 0x1000 };
    let y : Ctrl := { st := 2, attach := [0] };
    let s : State := { (Wit.nvme 3 y) with vat := { vols := [(0, { vat := 0, sizeM1 := 9 })] } };
    let q : Req := { ({ tag := 0, kind := .read, origin := .internal, vol := volOf nsid, lba := lba, blocks := blocks, cls := 0 } : Req) with origin := .nvt c cid, assoc := x.cntlid };
    let t : Nat := ((s.nvmeCounted c k 0).newReq q true).1;
    let v : State := ((s.nvmeCounted c k 0).newReq q true).2;
    let st : Nat := outcome stOpcode;
    s.IoIn c cid k x y { tag := 0, kind := .read, origin := .internal, vol := volOf nsid, lba := lba, blocks := blocks, cls := 0 } q t v ∧ v.ioStops flags (rwLimit blocks sgl) x y (volOf nsid) = st ∧ st ≠ 0 := by decide

theorem test_meets_IoCommandsBecomeRequests_5 :
    let c : Nat := 0;
    let cid : Nat := 0;
    let k : Nat := 0;
    let lba : Nat := 0;
    let icd : List Nat := [];
    let blocks : Nat := 1;
    let sgl : Nat := 4096;
    let flags : Nat := 64;
    let nsid : Nat := 1;
    let x : TcpConn := { tcp := 2, nvt := 3, cntlid := 0x1000 };
    let y : Ctrl := { st := 2, attach := [0] };
    let s : State := { (Wit.nvme 3 y) with vat := { vols := [(0, { vat := 0, sizeM1 := 9 })] } };
    let q : Req := { ({ tag := 0, kind := .write, origin := .internal, vol := volOf nsid, lba := lba, blocks := blocks, cls := 4, icd := icd } : Req) with origin := .nvt c cid, assoc := x.cntlid };
    let t : Nat := ((s.nvmeCounted c k 0).newReq q true).1;
    let v : State := ((s.nvmeCounted c k 0).newReq q true).2;
    let st : Nat := outcome stOpcode;
    s.IoIn c cid k x y { tag := 0, kind := .write, origin := .internal, vol := volOf nsid, lba := lba, blocks := blocks, cls := 4, icd := icd } q t v ∧ v.ioStops flags (if icd ≠ [] ∧ 8192 < sgl then outField else rwLimit blocks sgl) x y (volOf nsid) = st ∧ st ≠ 0 := by decide

theorem test_meets_IoCommandsBecomeRequests_6 :
    let c : Nat := 0;
    let cid : Nat := 0;
    let k : Nat := 0;
    let lba : Nat := 0;
    let blocks : Nat := 65536;
    let flags : Nat := 64;
    let nsid : Nat := 1;
    let x : TcpConn := { tcp := 2, nvt := 3, cntlid := 0x1000 };
    let y : Ctrl := { st := 2, attach := [0] };
    let s : State := { (Wit.nvme 3 y) with vat := { vols := [(0, { vat := 0, sizeM1 := 9 })] } };
    let q : Req := { ({ tag := 0, kind := .zeroes, origin := .internal, vol := volOf nsid, lba := lba, blocks := blocks, cls := 4, ranges := [(lba, blocks)] } : Req) with origin := .nvt c cid, assoc := x.cntlid };
    let t : Nat := ((s.nvmeCounted c k 0).newReq q true).1;
    let v : State := ((s.nvmeCounted c k 0).newReq q true).2;
    let st : Nat := outcome stOpcode;
    s.IoIn c cid k x y { tag := 0, kind := .zeroes, origin := .internal, vol := volOf nsid, lba := lba, blocks := blocks, cls := 4, ranges := [(lba, blocks)] } q t v ∧ (v.ioStops flags (if blocks = 0 ∨ 65536 < blocks then outField else 0) x y (volOf nsid) = st) ∧ st ≠ 0 := by decide

theorem test_meets_IoCommandsBecomeRequests_7 :
    let c : Nat := 0;
    let cid : Nat := 0;
    let k : Nat := 0;
    let ad : Bool := true;
    let ranges : List (Nat × Nat) := [(0, 8)];
    let flags : Nat := 64;
    let nsid : Nat := 1;
    let x : TcpConn := { tcp := 2, nvt := 3, cntlid := 0x1000 };
    let y : Ctrl := { st := 2, attach := [0] };
    let s : State := { (Wit.nvme 3 y) with vat := { vols := [(0, { vat := 0, sizeM1 := 9 })] } };
    let q : Req := { ({ tag := 0, kind := .dealloc, origin := .internal, vol := volOf nsid, lba := (ranges.headD (0, 0)).1, blocks := (ranges.map (·.2)).sum, cls := 4, ranges := ranges } : Req) with origin := .nvt c cid, assoc := x.cntlid };
    let t : Nat := ((s.nvmeCounted c k 0).newReq q true).1;
    let v : State := ((s.nvmeCounted c k 0).newReq q true).2;
    let st : Nat := outcome stOpcode;
    s.IoIn c cid k x y { tag := 0, kind := .dealloc, origin := .internal, vol := volOf nsid, lba := (ranges.headD (0, 0)).1, blocks := (ranges.map (·.2)).sum, cls := 4, ranges := ranges } q t v ∧ v.ioStops flags (dsmLimit ad ranges) x y (volOf nsid) = st ∧ st ≠ 0 := by decide

theorem test_meets_IoCommandsBecomeRequests_8 :
    let c : Nat := 0;
    let cid : Nat := 0;
    let k : Nat := 0;
    let lba : Nat := 0;
    let blocks : Nat := 1;
    let sgl : Nat := 4096;
    let flags : Nat := 64;
    let nsid : Nat := 1;
    let x : TcpConn := { tcp := 2, nvt := 4, cntlid := 0x1000 };
    let y : Ctrl := { st := 2, attach := [0] };
    let s : State := { (Wit.nvme 4 y) with vat := { vols := [(0, { vat := 0, sizeM1 := 9 })] } , write := { notices := [(0x1000, some 0)] } };
    let q : Req := { ({ tag := 0, kind := .read, origin := .internal, vol := volOf nsid, lba := lba, blocks := blocks, cls := 0 } : Req) with origin := .nvt c cid, assoc := x.cntlid };
    let t : Nat := ((s.nvmeCounted c k 0).newReq q true).1;
    let v : State := ((s.nvmeCounted c k 0).newReq q true).2;
    let w : State := v.modWrite (fun w => { w with notices := [] });
    s.IoIn c cid k x y { tag := 0, kind := .read, origin := .internal, vol := volOf nsid, lba := lba, blocks := blocks, cls := 0 } q t v ∧ v.ioStops flags (rwLimit blocks sgl) x y (volOf nsid) = 0 ∧ v.takeNotice x.cntlid (volOf nsid) = some w := by decide

theorem test_meets_IoCommandsBecomeRequests_9 :
    let c : Nat := 0;
    let cid : Nat := 0;
    let k : Nat := 0;
    let lba : Nat := 0;
    let icd : List Nat := [];
    let blocks : Nat := 1;
    let sgl : Nat := 4096;
    let flags : Nat := 64;
    let nsid : Nat := 1;
    let x : TcpConn := { tcp := 2, nvt := 4, cntlid := 0x1000 };
    let y : Ctrl := { st := 2, attach := [0] };
    let s : State := { (Wit.nvme 4 y) with vat := { vols := [(0, { vat := 0, sizeM1 := 9 })] } , write := { notices := [(0x1000, some 0)] } };
    let q : Req := { ({ tag := 0, kind := .write, origin := .internal, vol := volOf nsid, lba := lba, blocks := blocks, cls := 4, icd := icd } : Req) with origin := .nvt c cid, assoc := x.cntlid };
    let t : Nat := ((s.nvmeCounted c k 0).newReq q true).1;
    let v : State := ((s.nvmeCounted c k 0).newReq q true).2;
    let w : State := v.modWrite (fun w => { w with notices := [] });
    s.IoIn c cid k x y { tag := 0, kind := .write, origin := .internal, vol := volOf nsid, lba := lba, blocks := blocks, cls := 4, icd := icd } q t v ∧ v.ioStops flags (if icd ≠ [] ∧ 8192 < sgl then outField else rwLimit blocks sgl) x y (volOf nsid) = 0 ∧ v.takeNotice x.cntlid (volOf nsid) = some w := by decide

theorem test_meets_IoCommandsBecomeRequests_10 :
    let c : Nat := 0;
    let cid : Nat := 0;
    let k : Nat := 0;
    let lba : Nat := 0;
    let blocks : Nat := 65536;
    let flags : Nat := 64;
    let nsid : Nat := 1;
    let x : TcpConn := { tcp := 2, nvt := 4, cntlid := 0x1000 };
    let y : Ctrl := { st := 2, attach := [0] };
    let s : State := { (Wit.nvme 4 y) with vat := { vols := [(0, { vat := 0, sizeM1 := 9 })] } , write := { notices := [(0x1000, some 0)] } };
    let q : Req := { ({ tag := 0, kind := .zeroes, origin := .internal, vol := volOf nsid, lba := lba, blocks := blocks, cls := 4, ranges := [(lba, blocks)] } : Req) with origin := .nvt c cid, assoc := x.cntlid };
    let t : Nat := ((s.nvmeCounted c k 0).newReq q true).1;
    let v : State := ((s.nvmeCounted c k 0).newReq q true).2;
    let w : State := v.modWrite (fun w => { w with notices := [] });
    s.IoIn c cid k x y { tag := 0, kind := .zeroes, origin := .internal, vol := volOf nsid, lba := lba, blocks := blocks, cls := 4, ranges := [(lba, blocks)] } q t v ∧ (v.ioStops flags (if blocks = 0 ∨ 65536 < blocks then outField else 0) x y (volOf nsid) = 0) ∧ v.takeNotice x.cntlid (volOf nsid) = some w := by decide

theorem test_meets_IoCommandsBecomeRequests_11 :
    let c : Nat := 0;
    let cid : Nat := 0;
    let k : Nat := 0;
    let ad : Bool := true;
    let ranges : List (Nat × Nat) := [(0, 8)];
    let flags : Nat := 64;
    let nsid : Nat := 1;
    let x : TcpConn := { tcp := 2, nvt := 4, cntlid := 0x1000 };
    let y : Ctrl := { st := 2, attach := [0] };
    let s : State := { (Wit.nvme 4 y) with vat := { vols := [(0, { vat := 0, sizeM1 := 9 })] } , write := { notices := [(0x1000, some 0)] } };
    let q : Req := { ({ tag := 0, kind := .dealloc, origin := .internal, vol := volOf nsid, lba := (ranges.headD (0, 0)).1, blocks := (ranges.map (·.2)).sum, cls := 4, ranges := ranges } : Req) with origin := .nvt c cid, assoc := x.cntlid };
    let t : Nat := ((s.nvmeCounted c k 0).newReq q true).1;
    let v : State := ((s.nvmeCounted c k 0).newReq q true).2;
    let w : State := v.modWrite (fun w => { w with notices := [] });
    s.IoIn c cid k x y { tag := 0, kind := .dealloc, origin := .internal, vol := volOf nsid, lba := (ranges.headD (0, 0)).1, blocks := (ranges.map (·.2)).sum, cls := 4, ranges := ranges } q t v ∧ v.ioStops flags (dsmLimit ad ranges) x y (volOf nsid) = 0 ∧ v.takeNotice x.cntlid (volOf nsid) = some w := by decide

theorem test_meets_IoCommandsBecomeRequests_12 :
    let c : Nat := 0;
    let cid : Nat := 0;
    let k : Nat := 0;
    let flags : Nat := 64;
    let nsid : Nat := 0xFFFFFFFF;
    let vols : List Nat := [0];
    let x : TcpConn := { tcp := 2, nvt := 4, cntlid := 0x1000 };
    let y : Ctrl := { st := 2, attach := [0] };
    let s : State := { (Wit.nvme 4 y) with vat := { vols := [(0, { vat := 0, sizeM1 := 9 })] } };
    let q : Req := { flushReq vols with origin := .nvt c cid, assoc := x.cntlid };
    let t : Nat := ((s.nvmeCounted c k (volOf nsid)).newReq q (nsid != 0xFFFFFFFF)).1;
    let v : State := ((s.nvmeCounted c k (volOf nsid)).newReq q (nsid != 0xFFFFFFFF)).2;
    s.NvmeTurn c k x y ∧ vols = (if nsid = 0xFFFFFFFF then y.attach else [volOf nsid]) ∧ q = { flushReq vols with origin := .nvt c cid, assoc := x.cntlid } ∧ (t, v) = (s.nvmeCounted c k (volOf nsid)).newReq q (nsid != 0xFFFFFFFF && ((s.nvmeCounted c k (volOf nsid)).liveVol q.vol).isSome) ∧ x.nvt = 4 ∧ flagsOk flags = true ∧ ((nsid = 0xFFFFFFFF ∨ (y.attach.contains (volOf nsid) = true ∧ (v.liveVol (volOf nsid)).isSome = true))) := by decide

theorem test_meets_IoCommandsBecomeRequests_13 :
    let c : Nat := 0;
    let cid : Nat := 0;
    let k : Nat := 0;
    let flags : Nat := 64;
    let nsid : Nat := 1;
    let vols : List Nat := [0];
    let x : TcpConn := { tcp := 2, nvt := 3, cntlid := 0x1000 };
    let y : Ctrl := { st := 2, attach := [0] };
    let s : State := { (Wit.nvme 3 y) with vat := { vols := [(0, { vat := 0, sizeM1 := 9 })] } };
    let q : Req := { flushReq vols with origin := .nvt c cid, assoc := x.cntlid };
    let t : Nat := ((s.nvmeCounted c k (volOf nsid)).newReq q (nsid != 0xFFFFFFFF)).1;
    let v : State := ((s.nvmeCounted c k (volOf nsid)).newReq q (nsid != 0xFFFFFFFF)).2;
    s.NvmeTurn c k x y ∧ vols = (if nsid = 0xFFFFFFFF then y.attach else [volOf nsid]) ∧ q = { flushReq vols with origin := .nvt c cid, assoc := x.cntlid } ∧ (t, v) = (s.nvmeCounted c k (volOf nsid)).newReq q (nsid != 0xFFFFFFFF && ((s.nvmeCounted c k (volOf nsid)).liveVol q.vol).isSome) ∧ ((x.nvt ≠ 4 ∨ flagsOk flags = false)) := by decide

theorem test_meets_IoCommandsBecomeRequests_14 :
    let c : Nat := 0;
    let cid : Nat := 0;
    let k : Nat := 0;
    let flags : Nat := 64;
    let nsid : Nat := 2;
    let vols : List Nat := [1];
    let x : TcpConn := { tcp := 2, nvt := 4, cntlid := 0x1000 };
    let y : Ctrl := { st := 2, attach := [0] };
    let s : State := { (Wit.nvme 4 y) with vat := { vols := [(0, { vat := 0, sizeM1 := 9 })] } };
    let q : Req := { flushReq vols with origin := .nvt c cid, assoc := x.cntlid };
    let t : Nat := ((s.nvmeCounted c k (volOf nsid)).newReq q false).1;
    let v : State := ((s.nvmeCounted c k (volOf nsid)).newReq q false).2;
    s.NvmeTurn c k x y ∧ vols = (if nsid = 0xFFFFFFFF then y.attach else [volOf nsid]) ∧ q = { flushReq vols with origin := .nvt c cid, assoc := x.cntlid } ∧ (t, v) = (s.nvmeCounted c k (volOf nsid)).newReq q (nsid != 0xFFFFFFFF && ((s.nvmeCounted c k (volOf nsid)).liveVol q.vol).isSome) ∧ x.nvt = 4 ∧ flagsOk flags = true ∧ nsid ≠ 0xFFFFFFFF ∧ ((y.attach.contains (volOf nsid) = false ∨ (v.liveVol (volOf nsid)).isNone = true)) := by decide

theorem test_meets_KeyServiceRequestsRun_0 :
    let a : Nat := 0;
    let s : State := Wit.keyReq 1 [(1, 5), (2, 1)];
    s.KeyTurn 1 a ∧ s.blkWord a 1 ≤ 4095 ∧ s.blkWord a 2 ≤ 255 ∧ ((AL.get (s.blkWord a 1) s.vat.vats).map (fun x => x.state == 3)).getD false = false := by decide

theorem test_meets_KeyServiceRequestsRun_1 :
    let a : Nat := 0;
    let s : State := Wit.keyReq 1 [(1, 4096)];
    s.KeyTurn 1 a ∧ ((4095 < s.blkWord a 1 ∨ 255 < s.blkWord a 2 ∨ ((AL.get (s.blkWord a 1) s.vat.vats).map (fun x => x.state == 3)).getD false = true)) := by decide

theorem test_meets_KeyServiceRequestsRun_2 :
    let a : Nat := 0;
    let s : State := { (Wit.keyReq 2 [(1, 5), (2, 1)]) with sec := { handles := [(hVat 5 1, {})] } };
    s.KeyTurn 2 a := by decide

theorem test_meets_KeyServiceRequestsRun_3 :
    let a : Nat := 0;
    let s : State := Wit.keyReq 3 [(1, 5), (2, 1), (3, 64)];
    s.KeyTurn 3 a ∧ s.blkWord a 1 ≠ 0 ∧ s.blkWord a 1 ≤ 4095 ∧ s.blkWord a 2 ≤ 31 ∧ ((s.blkWord a 3 = 32 ∨ s.blkWord a 3 = 64)) := by decide

theorem test_meets_KeyServiceRequestsRun_4 :
    let a : Nat := 0;
    let s : State := Wit.keyReq 3 [(1, 5), (2, 1), (3, 48)];
    s.KeyTurn 3 a ∧ ((s.blkWord a 1 = 0 ∨ 4095 < s.blkWord a 1 ∨ 31 < s.blkWord a 2 ∨ (s.blkWord a 3 ≠ 32 ∧ s.blkWord a 3 ≠ 64))) := by decide

theorem test_meets_KeyServiceRequestsRun_5 :
    let a : Nat := 0;
    let slot : Nat := 5;
    let use : Nat := 1;
    let ok : Bool := true;
    let s : State := { (Wit.keyReq 4 [(2, 100)]) with sec := { fuses := { rootI := some 0 } } };
    s.KeyTurn 4 a := by decide

theorem test_meets_KeyServiceRequestsRun_6 :
    let a : Nat := 0;
    let s : State := { (Wit.keyReq 5 [(1, 5)]) with sec := { handles := [(hSlot 5, {})] } };
    s.KeyTurn 5 a := by decide

theorem test_meets_KeyServiceRequestsRun_7 :
    let a : Nat := 0;
    let s : State := { (Wit.keyReq 6 [(1, 5), (2, 3)]) with sec := { handles := [(hSlot 3, { use := 16, value := 9 })] }, vat := { vats := [(5, {})] } };
    s.KeyTurn 6 a := by decide

theorem test_meets_KeyServiceRequestsRun_8 :
    let a : Nat := 0;
    let x : Vat := {};
    let s : State := { (Wit.keyReq 7 [(1, 5)]) with vat := { vats := [(5, {})] } };
    s.KeyTurn 7 a ∧ AL.get (s.blkWord a 1) s.vat.vats = some x ∧ x.state = 1 ∧ x.published = false ∧ s.vat.vols.any (fun q => q.2.vat == s.blkWord a 1) = false := by decide

theorem test_meets_KeyServiceRequestsRun_9 :
    let a : Nat := 0;
    let s : State := Wit.keyReq 7 [(1, 5)];
    s.KeyTurn 7 a := by decide

theorem test_meets_KeyServiceRequestsRun_10 :
    let a : Nat := 0;
    let s : State := Wit.keyReq 8 [];
    s.KeyTurn 8 a := by decide

theorem test_meets_KeyServiceRequestsRun_11 :
    let a : Nat := 0;
    let s : State := (Wit.keyReq 9 []).set F.LSE_MODE_MODE 2;
    s.KeyTurn 9 a := by decide

theorem test_meets_KeyServiceRequestsRun_12 :
    let a : Nat := 0;
    let s : State := Wit.keyReq 10 [(5, 4096)];
    s.KeyTurn 10 a := by decide

theorem test_meets_KeyServiceRequestsRun_13 :
    let a : Nat := 0;
    let s : State := Wit.keyReq 11 [(1, 4096)];
    s.KeyTurn 11 a := by decide

theorem test_meets_KeyServiceRequestsRun_14 :
    let a : Nat := 0;
    let s : State := (Wit.keyReq 12 [(1, 32), (2, 4096)]).set F.SEC_DRBG_STAT_READY 1;
    s.KeyTurn 12 a ∧ s.get F.SEC_ENT_STAT_STATE ≠ 3 := by decide

theorem test_meets_KeyServiceRequestsRun_15 :
    let s : State := State.reset.set F.SEC_ENT_STAT_STATE 3;
    s.get F.SEC_ENT_STAT_STATE = 3 := by decide

theorem test_meets_KeyServiceRequestsRun_16 :
    let a : Nat := 0;
    let i : Nat := 0;
    let k : KeyH := { use := 8 };
    let s : State := { ((Wit.keyReq 13 [(1, 5), (2, 4096), (512, 2 ^ 60)]).set F.KEY_HMAC_CFG_SLICE_EN 1) with sec := { handles := [(hSlot 5, k)] }, units := [(unitKey Blk.DSL 0, { enable := true })] };
    s.KeyTurn 13 a ∧ AL.get (hSlot (s.blkWord a 1)) s.sec.handles = some k ∧ k.removing = false ∧ bitOf k.use 3 = true ∧ ((bitsOf (s.descWord (s.blkAddr a 2) 0) 60 4 = 1 ∨ bitsOf (s.descWord (s.blkAddr a 2) 0) 60 4 = 2)) ∧ bitsOf (s.descWord (s.blkAddr a 2) 5) 0 8 = 0 ∧ s.hmacSlice = some i := by decide

theorem test_meets_KeyServiceRequestsRun_17 :
    ((Wit.keyReq 13 [(1, 5)]).KeyTurn 13 0 ∧ AL.get (hSlot ((Wit.keyReq 13 [(1, 5)]).blkWord 0 1)) (Wit.keyReq 13 [(1, 5)]).sec.handles = none) := by decide

theorem test_meets_KeyServiceRequestsRun_18 :
    let a : Nat := 0;
    let k : KeyH := {};
    let s : State := { (Wit.keyReq 13 [(1, 5)]) with sec := { handles := [(hSlot 5, {})] } };
    s.KeyTurn 13 a ∧ AL.get (hSlot (s.blkWord a 1)) s.sec.handles = some k ∧ k.removing = false := by decide

theorem test_meets_KeyServiceRequestsRun_19 :
    let a : Nat := 0;
    let k : KeyH := { use := 8 };
    let s : State := { (Wit.keyReq 13 [(1, 5), (2, 4096), (512, 2 ^ 60)]) with sec := { handles := [(hSlot 5, k)] } };
    s.KeyTurn 13 a ∧ AL.get (hSlot (s.blkWord a 1)) s.sec.handles = some k ∧ k.removing = false ∧ bitOf k.use 3 = true ∧ ((bitsOf (s.descWord (s.blkAddr a 2) 0) 60 4 = 1 ∨ bitsOf (s.descWord (s.blkAddr a 2) 0) 60 4 = 2)) ∧ bitsOf (s.descWord (s.blkAddr a 2) 5) 0 8 = 0 ∧ s.hmacSlice = none := by decide

theorem test_meets_EntropyFusesAndMeasurementsAct_0 :
    let samples : List Nat := [1, 2, 2];
    let s : State := State.reset;
    s.get F.SEC_ENT_STAT_STATE = 0 ∧ rctFails (s.get F.SEC_ENT_CFG_RCT_CUTOFF) 0 0 samples = false ∧ aptFails (s.get F.SEC_ENT_CFG_APT_CUTOFF) samples = false := by decide

theorem test_meets_EntropyFusesAndMeasurementsAct_1 :
    let s : State := {};
    let samples : List Nat := List.replicate 40 0;
    let rf : Bool := true;
    let af : Bool := false;
    let u : State := (s.bump F.SEC_ENT_CNT_RCT_COUNT).modSec (fun x => { x with entFails := x.entFails + 1 });
    s.get F.SEC_ENT_STAT_STATE = 0 ∧ rctFails (s.get F.SEC_ENT_CFG_RCT_CUTOFF) 0 0 samples = rf ∧ aptFails (s.get F.SEC_ENT_CFG_APT_CUTOFF) samples = af ∧ ((rf = true ∨ af = true)) ∧ u = (if af then (if rf then s.bump F.SEC_ENT_CNT_RCT_COUNT else s).bump F.SEC_ENT_CNT_APT_COUNT else if rf then s.bump F.SEC_ENT_CNT_RCT_COUNT else s).modSec (fun x => { x with entFails := x.entFails + 1 }) := by decide

theorem test_meets_EntropyFusesAndMeasurementsAct_2 :
    let rct : Bool := false;
    let s : State := State.reset.set F.SEC_ENT_STAT_STATE 1;
    let u : State := s.bump (if rct then F.SEC_ENT_CNT_RCT_COUNT else F.SEC_ENT_CNT_APT_COUNT);
    ((s.get F.SEC_ENT_STAT_STATE = 1 ∨ s.get F.SEC_ENT_STAT_STATE = 3)) ∧ u = s.bump (if rct then F.SEC_ENT_CNT_RCT_COUNT else F.SEC_ENT_CNT_APT_COUNT) := by decide

theorem test_meets_EntropyFusesAndMeasurementsAct_3 :
    let s : State := State.reset.set F.SEC_ENT_STAT_STATE 3;
    s.get F.SEC_ENT_STAT_STATE = 3 := by decide

theorem test_meets_EntropyFusesAndMeasurementsAct_4 :
    let s : State := (State.reset.set F.SEC_ENT_STAT_STATE 1).set F.SEC_DRBG_STAT_SINCE_RESEED 65536;
    s.get F.SEC_ENT_STAT_STATE = 1 ∧ ((65536 ≤ s.get F.SEC_DRBG_STAT_SINCE_RESEED ∨ s.sec.reseedBeat + 16384 ≤ s.beat)) := by decide

theorem test_meets_EntropyFusesAndMeasurementsAct_5 :
    let s : State := {};
    let m : Nat := 1;
    s.judge m (Slot.SEC + 3) 0x110 true true = none := by decide

theorem test_meets_EntropyFusesAndMeasurementsAct_6 :
    let s : State := {};
    let m : Nat := 3;
    let k : Nat := 23;
    s.judge m Slot.MSR 0x118 true true = none ∧ s.get F.MSR_EXTEND_STAT_BUSY ≠ 1 ∧ s.msrRefusal (s.secureMaster m) k = 0 := by decide

theorem test_meets_EntropyFusesAndMeasurementsAct_7 :
    let s : State := {};
    let m : Nat := 3;
    let k : Nat := 24;
    s.judge m Slot.MSR 0x118 true true = none ∧ s.get F.MSR_EXTEND_STAT_BUSY ≠ 1 ∧ ((23 < k ∨ k = 7 ∨ (k < 8 ∧ s.secureMaster m = false))) := by decide

theorem test_meets_EntropyFusesAndMeasurementsAct_8 :
    let m : Nat := 3;
    let k : Nat := 8;
    let s : State := State.reset.msrLock 8;
    s.judge m Slot.MSR 0x118 true true = none ∧ s.get F.MSR_EXTEND_STAT_BUSY ≠ 1 ∧ k ≤ 23 ∧ k ≠ 7 ∧ ((8 ≤ k ∨ s.secureMaster m = true)) ∧ (s.msr k).locked = true := by decide

theorem test_meets_EntropyFusesAndMeasurementsAct_9 :
    let m : Nat := 3;
    let s : State := State.reset.set F.MSR_EXTEND_STAT_BUSY 1;
    s.judge m Slot.MSR 0x118 true true = none ∧ s.get F.MSR_EXTEND_STAT_BUSY = 1 := by decide

end Sys2Proof.Machine
end

section
/-! SUPPORT. The beat count as a division of the time base: beat `b` has begun exactly from 8,000 × b ns on (R5). -/

namespace Sys2Proof.Machine

/-- Beat `b` has begun exactly when the time base has reached `8000 * b` ns (R5; one ns is 65,536 units of the time base). -/
theorem State.le_beats_iff {s : State} {b : Nat} : b ≤ s.beats ↔ 8000 * b * 65536 ≤ s.time.tbFx := by
  have units : b * 524288000 = 8000 * b * 65536 := by omega
  rw [State.beats, Nat.le_div_iff_mul_le (by decide), units]

/-- Settles O10: the count is `b` exactly while beat `b` has begun and beat `b + 1` has not. -/
theorem beatsAreEightMicroseconds : Obligations.BeatsAreEightMicroseconds := by
  intro s b
  rw [← State.le_beats_iff, ← Nat.not_le, ← State.le_beats_iff]
  omega

end Sys2Proof.Machine
end

section
/-! SUPPORT. Control-window accesses: one lemma per check of R716, and where an address of the window leads (R63). -/

namespace Sys2Proof.Machine

/-! ### The checks of R716, in their order -/

section

variable {s : State} {m slot off : Nat} {p : Nat × Nat × Nat}

/-- Check 1 (R63). -/
theorem State.judge_emptySlot (m off : Nat) (z w : Bool) (hp : pageOf slot = none) :
    s.judge m slot off z w = some (s.answer 0) := by
  simp only [State.judge, hp]

/-- Check 2 (R64). -/
theorem State.judge_badSize (m : Nat) {z : Bool} (w : Bool) (hp : pageOf slot = some p) (h : z = false ∨ off % 8 ≠ 0) :
    s.judge m slot off z w = some ((s.answer 0).deny slot Cond.ACCESS_SIZE_REFUSED) := by
  have refused : (z && off % 8 == 0) = false := by
    rcases h with rfl | h
    · rfl
    · simp [h]
  simp [State.judge, hp, refused]

/-- Check 3 (R96). -/
theorem State.judge_nonSecure {w : Bool} (hp : pageOf slot = some p) (hoff : off % 8 = 0) (hm : s.secureMaster m = false)
    (h : slotSecure slot = true ∨ (w = true ∧ off = 0x50)) :
    s.judge m slot off true w = some ((s.answer 0).deny slot Cond.SECURE_ACCESS_DENIED) := by
  have secureTarget : (slotSecure slot || (w && off == 0x50)) = true := by simpa using h
  simp [State.judge, hp, hoff, hm, secureTarget]

/-- An access that check 3 lets through: its master is secure, or it is neither to a secure page nor a write of `PAGE_LOCK` (R96). -/
abbrev State.PassesSecure (s : State) (m slot off : Nat) (w : Bool) : Prop :=
  s.secureMaster m = true ∨ (slotSecure slot = false ∧ ¬ (w = true ∧ off = 0x50))

/-- Check 3 as the judging computes it does not refuse an access that it lets through. -/
theorem State.PassesSecure.not_refused {w : Bool} (h : s.PassesSecure m slot off w) :
    (!s.secureMaster m && (slotSecure slot || (w && off == 0x50))) = false := by
  rcases h with hm | ⟨hslot, hlock⟩
  · simp [hm]
  · simpa [hslot] using fun _ => not_and.mp hlock

/-- Check 4 (R70). -/
theorem State.judge_domainOff {w : Bool} (hp : pageOf slot = some p) (hoff : off % 8 = 0)
    (h3 : s.PassesSecure m slot off w) (hd : s.domUp (slotDomain slot) = false) :
    s.judge m slot off true w =
      some ((s.answer (if w = false ∧ off = 0 then s.pageId slot else 0)).raise Slot.NOC Cond.PAGE_DOMAIN_OFF) := by
  simp [State.judge, hp, hoff, h3.not_refused, hd, Slot.NOC]

/-- Check 5 (R100). -/
theorem State.judge_locked (hp : pageOf slot = some p) (hoff : off % 8 = 0) (hm : s.secureMaster m = false)
    (hslot : slotSecure slot = false) (hlock : off ≠ 0x50) (hd : s.domUp (slotDomain slot) = true) (h10 : 0x10 ≤ off)
    (hl : (s.hdr slot).locked = true) (hw : bitOf (s.hdr slot).writers (lockGroup m - 1) = false) :
    s.judge m slot off true true = some (s.deny slot Cond.PAGE_LOCK_REFUSED) := by
  simp [State.judge, hp, hoff, hm, hslot, hlock, hd, h10, hl, hw]

/-- Check 6: a read, a write below 0x10, and a write the lock lets through are performed (R100). -/
theorem State.judge_performed {w : Bool} (hp : pageOf slot = some p) (hoff : off % 8 = 0)
    (h3 : s.PassesSecure m slot off w) (hd : s.domUp (slotDomain slot) = true)
    (h5 : w = false ∨ off < 0x10 ∨ (s.hdr slot).locked = false ∨ s.secureMaster m = true ∨
      bitOf (s.hdr slot).writers (lockGroup m - 1) = true) :
    s.judge m slot off true w = none := by
  have unlocked : (w && decide (0x10 ≤ off) && (s.hdr slot).locked && !s.secureMaster m
      && !bitOf (s.hdr slot).writers (lockGroup m - 1)) = false := by
    rcases h5 with h | h | h | h | h
    · simp [h]
    · simp [Nat.not_le.mpr h]
    · simp [h]
    · simp [h]
    · simp [h]
  simp [State.judge, hp, hoff, h3.not_refused, hd, unlocked]

end

/-- Settles O9: one lemma per check; an access that no check refuses has its effect. -/
theorem windowAccessIsJudgedInOrder : Obligations.WindowAccessIsJudgedInOrder := by
  refine ⟨fun s m slot off z w hp => State.judge_emptySlot m off z w hp,
    fun s m slot off z w p hp h => State.judge_badSize m w hp h,
    fun s m slot off w p hp hoff hm h => State.judge_nonSecure hp hoff hm h,
    fun s m slot off w p hp hoff h3 hd => State.judge_domainOff hp hoff h3 hd,
    fun s m slot off p hp hoff hm hslot hlock hd h10 hl hw => State.judge_locked hp hoff hm hslot hlock hd h10 hl hw, ?_⟩
  intro s m slot off w p f hp hoff h3 hd h5
  have performed := State.judge_performed hp hoff h3 hd h5
  refine ⟨performed, ?_, ?_⟩
  · rintro rfl
    exact State.busWr_done performed f
  · rintro rfl
    exact State.busRd_done performed f

/-! ### Addresses of the window (R63) -/

section

variable {slot off : Nat}

/-- The address of a register leads back to its slot. -/
theorem slotOf_addrOf (hslot : slot < 1024) (hoff : off < 4096) : slotOf (addrOf slot off) = slot := by
  unfold slotOf addrOf windowBase
  omega

/-- The address of a register leads back to its offset in the page. -/
theorem offOf_addrOf (hoff : off < 4096) : offOf (addrOf slot off) = off := by
  unfold offOf addrOf windowBase
  omega

/-- The 1,024 slots lie in the window. -/
theorem inWindow_addrOf (hslot : slot < 1024) (hoff : off < 4096) : inWindow (addrOf slot off) = true := by
  simp only [inWindow, Bool.and_eq_true, decide_eq_true_eq]
  unfold addrOf windowBase
  omega

end

/-! ### What an access leaves that R716 does not let through -/

section

variable {s t : State} {m : Nat}

/-- A read that R716 does not let through leaves what the judging leaves. -/
theorem State.busRd_refused {slot off : Nat} (h : s.judge m slot off true false = some t) (f : State → State) :
    s.busRd m slot off f = t := by
  simp [State.busRd, h]

/-- A write in the window that R716 does not let through leaves what the judging leaves. -/
theorem State.winWrite_refused {addr size : Nat} (v : Nat)
    (h : s.judge m (slotOf addr) (offOf addr) (size == 8) true = some t) : s.winWrite m addr size v = t := by
  simp only [State.winWrite, h]

/-- A write to an address in the window, by a master that reaches it, is judged there (Table 2.15). -/
theorem execRegisterWrite_inWindow {addr : Nat} (size : Nat) (v : Word) (ha : inWindow addr = true) (hm : reaches m true = true) :
    execRegisterWrite m addr size v s = .next (s.winWrite m addr size v.toNat) := by
  simp only [execRegisterWrite, ha, hm, if_true]

end

/-- Settles O11: the address leads to its slot, and check 1 of R716 ends every access there. -/
theorem emptySlotsIgnoreWrites : Obligations.EmptySlotsIgnoreWrites := by
  refine ⟨?_, ?_, fun s n => ⟨s.answer_fields n, s.answer_pages n, s.answer_mem n, s.answer_sent n, s.answer_busData n⟩⟩
  · intro m addr size slot off v s haddr hslot hoff hp hm
    obtain rfl : addr = addrOf slot off := haddr
    have empty : pageOf (slotOf (addrOf slot off)) = none := by rwa [slotOf_addrOf hslot hoff]
    rw [exec_registerWrite, execRegisterWrite_inWindow size v (inWindow_addrOf hslot hoff) hm,
      State.winWrite_refused v.toNat (State.judge_emptySlot m _ _ true empty)]
  · intro s m slot off f hp
    exact ⟨State.busRd_refused (State.judge_emptySlot m off true false hp) f,
      State.busWr_refused (State.judge_emptySlot m off true true hp) f⟩

end Sys2Proof.Machine
end

section
/-! SUPPORT. What shared updates leave of register fields, the time base and the association lists: frames that several proofs cite. -/

namespace Sys2Proof.Machine

section

variable (s : State) {f g : Fld}

/-- Counting an event leaves every other field. -/
theorem State.get_bump_ne (h : g.key ≠ f.key) (n : Nat) : (s.bump f n).get g = s.get g := s.get_set_ne h _

/-- A saturating count leaves every other field. -/
theorem State.get_satInc_ne (h : g.key ≠ f.key) (n : Nat) : (s.satInc f n).get g = s.get g := s.get_set_ne h _

end

section

variable (s : State) (slot bit m v : Nat) (b : Bool)

@[simp] theorem State.sample_fields : (s.sample m v).fields = s.fields := by unfold State.sample; split <;> rfl
@[simp] theorem State.sample_time : (s.sample m v).time = s.time := by unfold State.sample; split <;> rfl
@[simp] theorem State.sample_units : (s.sample m v).units = s.units := by unfold State.sample; split <;> rfl
@[simp] theorem State.get_sample (g : Fld) : (s.sample m v).get g = s.get g := by unfold State.get; rw [State.sample_fields]
@[simp] theorem State.unit_sample (u : Nat) : (s.sample m v).unit u = s.unit u := by unfold State.unit; rw [State.sample_units]

@[simp] theorem State.irqIs_fields : (s.irqIs slot bit b).fields = s.fields := by cases b <;> rfl
@[simp] theorem State.irqIs_mem : (s.irqIs slot bit b).mem = s.mem := by cases b <;> rfl
@[simp] theorem State.irqIs_adm : (s.irqIs slot bit b).adm = s.adm := by cases b <;> rfl
@[simp] theorem State.irqIs_read : (s.irqIs slot bit b).read = s.read := by cases b <;> rfl
@[simp] theorem State.irqIs_write : (s.irqIs slot bit b).write = s.write := by cases b <;> rfl
@[simp] theorem State.irqIs_busData : (s.irqIs slot bit b).busData = s.busData := by cases b <;> rfl
@[simp] theorem State.get_irqIs (g : Fld) : (s.irqIs slot bit b).get g = s.get g := by cases b <;> rfl

end

end Sys2Proof.Machine
end

section
/-! SUPPORT. What every step keeps: the waiting commands, the form of memory, bytes that a command does not write, and the fuses. -/

namespace Sys2Proof.Machine

/-! ### One step and the queue -/

/-- Taking the front command of a queue that a command was just put on leaves the queue as it was. -/
theorem step_push (c : Instr) (s : State) : step (s.push c) = exec c s := rfl

/-- A step with a command waiting runs the one at the front on the queue's rest. -/
theorem step_of_pending {c : Instr} {q : List Instr} {s : State} (h : s.pending = c :: q) : step s = exec c (s.withQueue q) := by
  simp only [step, h]

/-- With no command waiting the head idles. -/
theorem step_idle {s : State} (h : s.pending = []) : step s = .next s := by
  simp only [step, h]

/-- Settles O1. -/
theorem stepRunsTheFrontCommand : Obligations.StepRunsTheFrontCommand :=
  ⟨step_push, fun _ _ _ h => step_of_pending h, fun _ h => step_idle h⟩

/-- Settles O2: the meaning of each row ends in `.next`, whatever its conditions say. -/
theorem everyCommandCompletes : Obligations.EveryCommandCompletes := by
  intro c s
  cases c <;> exact ⟨_, rfl⟩

/-- Settles O5. -/
theorem resetMemoryHasItsForm : Obligations.ResetMemoryHasItsForm := ⟨rfl, rfl, rfl⟩

/-! ### The properties that commands are shown to keep

Each is an `Inv` that asks of one part only, so that the classes of Laws/Keeps.lean hold of the other parts trivially. -/

/-- The waiting commands are `q`. -/
def Inv.queueIs (q : List Instr) : Inv := ⟨fun _ => True, fun _ => True, fun p => p = q⟩

/-- The memory has its canonical form. -/
def Inv.memWf : Inv := ⟨fun m => Mem.wf m = true, fun _ => True, fun _ => True⟩

/-- Every byte of memory reads as in `m₀`. -/
def Inv.memReads (m₀ : List Host.Cell) : Inv := ⟨fun m => ∀ a, Mem.rd a m = Mem.rd a m₀, fun _ => True, fun _ => True⟩

/-- The fuses are a later state of `f₀`. -/
def Inv.fusesUpto (f₀ : Fuses) : Inv := ⟨fun _ => True, f₀.Upto, fun _ => True⟩

/-- The fuses are `f₀`. -/
def Inv.fusesAre (f₀ : Fuses) : Inv := ⟨fun _ => True, fun f => f = f₀, fun _ => True⟩

theorem Inv.writes_of_mem_trivial {I : Inv} (h : ∀ m, I.mem m) : I.Writes := ⟨fun _ _ _ _ => h _⟩

theorem Inv.clears_of_mem_trivial {I : Inv} (h : ∀ m, I.mem m) : I.Clears := ⟨h _⟩

theorem Inv.blows_of_fuses_trivial {I : Inv} (h : ∀ f, I.fuses f) : I.Blows := ⟨fun _ _ => h _, fun _ _ => h _⟩

/-! ### The queue (log entry 2) -/

/-- A command leaves the waiting commands as they are. -/
theorem exec_pending {c : Instr} {s t : State} (h : exec c s = .next t) : t.pending = s.pending := by
  have := Inv.writes_of_mem_trivial (I := Inv.queueIs s.pending) fun _ => trivial
  have := Inv.clears_of_mem_trivial (I := Inv.queueIs s.pending) fun _ => trivial
  have := Inv.blows_of_fuses_trivial (I := Inv.queueIs s.pending) fun _ => trivial
  exact (exec_keeps (I := Inv.queueIs s.pending) ⟨rfl, trivial, trivial⟩ t h).queue

/-- Settles O3: a step takes the front command off, and the command itself leaves the queue alone. -/
theorem queueOnlyShrinksByTheFront : Obligations.QueueOnlyShrinksByTheFront := by
  refine ⟨fun c s t h => exec_pending h, fun s t h => ?_⟩
  cases hq : s.pending with
  | nil =>
    obtain rfl : s = t := Host.Outcome.next.inj (step_idle hq ▸ h)
    rw [hq, List.tail_nil]
  | cons c q =>
    rw [step_of_pending hq] at h
    exact exec_pending h

/-! ### What a step keeps -/

/-- A property of memory and fuses that every command keeps is kept by every step. -/
theorem step_keeps {I : Inv} [I.Writes] [I.Clears] [I.Blows] (hq : ∀ q, I.queue q) {s t : State} (hm : I.mem s.mem)
    (hf : I.fuses s.sec.fuses) (h : step s = .next t) : Keeps I t := by
  cases hp : s.pending with
  | nil =>
    obtain rfl : s = t := Host.Outcome.next.inj (step_idle hp ▸ h)
    exact ⟨hq _, hm, hf⟩
  | cons c q =>
    rw [step_of_pending hp] at h
    exact exec_keeps (s := s.withQueue q) ⟨hq _, hm, hf⟩ t h

/-- Settles O4: each write of a byte keeps the form, and a reset leaves memory empty. -/
theorem memoryKeepsItsForm : Obligations.MemoryKeepsItsForm := by
  intro s t hs h
  have : Inv.memWf.Writes := ⟨fun a b _ => Mem.wr_wf a b⟩
  have : Inv.memWf.Clears := ⟨rfl⟩
  have := Inv.blows_of_fuses_trivial (I := Inv.memWf) fun _ => trivial
  exact (step_keeps (I := Inv.memWf) (fun _ => trivial) hs trivial h).mem

/-- Settles O6: a command that `mayTouchMemory` does not name writes no byte and does not reset the head, so even a
property that no write keeps is kept. -/
theorem memoryFrame : Obligations.MemoryFrame := by
  intro c s t hc h
  have := Inv.blows_of_fuses_trivial (I := Inv.memReads s.mem) fun _ => trivial
  exact (exec_keeps_mem (I := Inv.memReads s.mem) hc ⟨trivial, fun _ => rfl, trivial⟩ t h).mem

/-! ### The fuses (R571, R598) -/

theorem Fuses.Upto.refl (f : Fuses) : f.Upto f :=
  ⟨Nat.le_refl _, Nat.le_refl _, fun _ => rfl, id, id⟩

/-- Blowing a fuse leads to a later state, where the root is blown only while it is blank. -/
theorem Fuses.Upto.blow {f₀ f : Fuses} {op value : Nat} (hop : op = 3 → f.rootI = none) (h : f₀.Upto f) :
    f₀.Upto (f.blow op value) := by
  obtain ⟨hd, hi, hr, hdis, hdbg⟩ := h
  unfold Fuses.blow
  split
  · exact ⟨Nat.le_succ_of_le hd, hi, hr, hdis, hdbg⟩
  · exact ⟨hd, Nat.le_succ_of_le hi, hr, hdis, hdbg⟩
  · refine ⟨hd, hi, fun hset => ?_, hdis, hdbg⟩
    have blank : f₀.rootI = none := hr hset ▸ hop rfl
    exact absurd blank hset
  · exact ⟨hd, hi, hr, fun _ => rfl, hdbg⟩
  · exact ⟨hd, hi, hr, hdis, fun _ => rfl⟩
  · exact ⟨hd, hi, hr, hdis, hdbg⟩

theorem Fuses.Upto.corrected {f₀ f : Fuses} (b : Bool) (h : f₀.Upto f) : f₀.Upto { f with corrected := b } :=
  ⟨h.svnD, h.svnI, h.rootI, h.debugDisable, h.debugRoot⟩

/-- Settles O7: every operation on the fuses leads to a later state of them. -/
theorem fusesOnlyAdvance : Obligations.FusesOnlyAdvance := by
  intro s t h
  have := Inv.writes_of_mem_trivial (I := Inv.fusesUpto s.sec.fuses) fun _ => trivial
  have := Inv.clears_of_mem_trivial (I := Inv.fusesUpto s.sec.fuses) fun _ => trivial
  have : (Inv.fusesUpto s.sec.fuses).Blows := ⟨Fuses.Upto.blow, Fuses.Upto.corrected⟩
  exact (step_keeps (I := Inv.fusesUpto s.sec.fuses) (fun _ => trivial) trivial (Fuses.Upto.refl _) h).fuses

/-- Settles O8: a command that `mayTouchFuses` does not name blows no fuse and corrects no row. -/
theorem fusesChangeOnlyByTheirCommands : Obligations.FusesChangeOnlyByTheirCommands := by
  intro c s t hc h
  have := Inv.writes_of_mem_trivial (I := Inv.fusesAre s.sec.fuses) fun _ => trivial
  have := Inv.clears_of_mem_trivial (I := Inv.fusesAre s.sec.fuses) fun _ => trivial
  exact (exec_keeps_fuses (I := Inv.fusesAre s.sec.fuses) hc ⟨trivial, trivial, rfl⟩ t h).fuses

end Sys2Proof.Machine
end

section
/-! SUPPORT. The time base (chapter 1): cycles at rate 0, a backward hold and a read of BEAT_TB. -/

namespace Sys2Proof.Machine

/-- In force at rate 0 is no slew. -/
theorem TimeSt.slewLeft_eq_zero {t : TimeSt} (h : t.rate = 0) : t.slewLeft = 0 := by
  unfold TimeSt.rate ratePpm500 at h
  split at h
  · omega
  · split at h <;> omega

/-- At rate 0 a cycle is 2 ns, in units of 2^-16 ns. -/
theorem TimeSt.pass_of_rate_zero {t : TimeSt} (h : t.rate = 0) (k : Nat) :
    (t.pass k).tbFx = t.tbFx + k * 131072 ∧ (t.pass k).k2 = t.k2 + k := by
  rw [TimeSt.pass, if_pos (TimeSt.slewLeft_eq_zero h), TimeSt.run, h]
  refine ⟨?_, rfl⟩
  dsimp only
  omega

/-- Settles O12: a boundary runs where `TimeSt.advance` crosses one, and a hold ends after the time it had left. -/
theorem timeBaseRuns : Obligations.TimeBaseRuns := by
  refine ⟨?_, ?_, ?_, ?_, ?_⟩
  · -- BEAT_BOUNDARY
    intro k2 k0 s hcapture hholdLeft hporstLow hadvance
    simp [execBeatBoundary, hcapture, hholdLeft, hporstLow, hadvance]
  · -- BEAT_BOUNDARY
    intro k2 k0 s hcapture hholdLeft hporstLow hadvance hadvance'
    simp [execBeatBoundary, hcapture, hholdLeft, hporstLow, hadvance, hadvance']
  · intro k2 s hrate
    exact TimeSt.pass_of_rate_zero hrate k2
  · -- STEP_HOLD_END
    intro k2 h s hh
    rw [exec_stepHoldEnd, execStepHoldEnd, hh]
    refine ⟨_, rfl, ?_⟩
    by_cases hle : h ≤ 2 * k2
    · simp [hle, State.endHold]
    · simp [hle]
  · -- BEAT_TB_READ
    intro m s judged
    refine ⟨_, rfl, ?_⟩
    simp [State.busRd_done judged, show F.BEAT_TB_FRAC_FRAC.w = 16 from rfl]

end Sys2Proof.Machine
end

section
/-! SUPPORT. Beat marks and PTP (chapter 1): what an offset that was measured does to the time base and to the lock. -/

namespace Sys2Proof.Machine

section

variable (s : State)

@[simp] theorem State.hfiSend_time (port prio kind : Nat) (args : List Nat) (bytes : Nat) :
    (s.hfiSend port prio kind args bytes).time = s.time := by
  unfold State.hfiSend State.frameOut State.sendOut State.countTx
  repeat' split
  all_goals rfl

/-- A frame that is sent changes no field but the two counts of its port. -/
theorem State.get_hfiSend {g : Fld} (port prio kind : Nat) (args : List Nat) (bytes : Nat) (h : g.slot < 57) (ho : g.off < 4096)
    (hl : g.lo < 64) : (s.hfiSend port prio kind args bytes).get g = s.get g := by
  have key {f : Fld} (hf : 57 ≤ f.slot) : g.key ≠ f.key := by simp only [Fld.key]; omega
  have sent (t : State) (o : Out) : (t.sendOut o).get g = t.get g := by unfold State.sendOut; split <;> rfl
  have counted (t : State) (frames n : Nat) : (t.countTx port frames n).get g = t.get g :=
    ((t.bump _ _).get_bump_ne (key (by simp only [F.HFI_CNT_TX_BYTES_COUNT]; omega)) _).trans
      (t.get_bump_ne (key (by simp only [F.HFI_CNT_TX_FRAMES_COUNT]; omega)) _)
  unfold State.hfiSend State.frameOut
  split
  · rfl
  · split
    · rfl
    · rw [counted, sent]

/-- An accepted Sync is kept with the stamps of its exchange. -/
theorem State.ptpExchange_time (port dom : Nat) : (s.ptpExchange port dom).time = { s.time with
    ptpSyncBeat := some s.beat, ptpSyncPort := port, ptpSyncDom := dom, ptpRx := s.ptpStamp, ptpTx := s.ptpStamp } := by
  simp [State.ptpExchange]

theorem State.get_ptpExchange (port dom : Nat) : (s.ptpExchange port dom).get F.BEAT_STAT_PTP_LOCK = s.get F.BEAT_STAT_PTP_LOCK := by
  unfold State.ptpExchange
  rw [State.get_hfiSend _ _ _ _ _ _ (by decide) (by decide) (by decide), State.get_modTime]

theorem State.ptpUnlock_effect : s.ptpUnlock.time.ptpGood = 0 ∧ s.ptpUnlock.get F.BEAT_STAT_PTP_LOCK = 0 := by
  simp [State.ptpUnlock]

/-- An offset of at most 200 ns is slewed. -/
theorem State.slewed_time {ofs : Int} (he : (s.unit (unitKey Blk.ADM 0)).enable = true) (ho : ofs.natAbs ≤ 200) :
    ((s.correctOffset ofs).clearCoarse.alignCheck ofs).time = { s.time with slewLeft := ofs } := by
  simp [State.correctOffset, State.clearCoarse, State.alignCheck, State.rateOut, he, ho]

/-- After an offset of at most 200 ns the alignment and the time are good. -/
theorem State.aligned_fields {ofs : Int} (ho : ofs.natAbs ≤ 200) :
    (s.clearCoarse.alignCheck ofs).get F.BEAT_STAT_ALIGN_LOST = 0 ∧ (s.clearCoarse.alignCheck ofs).get F.BEAT_STAT_COARSE = 0 ∧
      (s.clearCoarse.alignCheck ofs).get F.BEAT_UNC_NS = 0 := by
  have key1 : F.BEAT_STAT_COARSE.key ≠ F.BEAT_STAT_ALIGN_LOST.key := by decide
  have key2 : F.BEAT_UNC_NS.key ≠ F.BEAT_STAT_ALIGN_LOST.key := by decide
  have key3 : F.BEAT_STAT_COARSE.key ≠ F.BEAT_UNC_NS.key := by decide
  simp [State.clearCoarse, State.alignCheck, ho, State.get_set, key1, key2, key3]

end

/-- Settles O13: each message under the checks it passes; a sampled metric changes no register field. -/
theorem peerTimeAlignment : Obligations.PeerTimeAlignment := by
  refine ⟨?_, ?_, ?_, ?_, ?_, ?_⟩
  · -- BEAT_MARK_EXCHANGE
    intro s hmaySend
    simp [execBeatMarkExchange, hmaySend]
  · -- PEER_BEAT_MARK_RX
    intro t1 s
    simp only [exec_peerBeatMarkRx, execPeerBeatMarkRx]
  · -- PEER_BEAT_REPLY_RX
    intro t1 t2 t3 w coarse s hmark hsource hunit hofs
    rw [exec_peerBeatReplyRx, execPeerBeatReplyRx, if_neg (by simp [hmark])]
    refine ⟨_, rfl, ?_⟩
    have key : F.BEAT_STAT_SOURCE.key ≠ F.PRL_BEAT_MARK_RTT_NS.key := by decide
    dsimp only
    rw [if_pos (by simp [State.get_set, key, hsource]), if_pos hofs]
    simp [State.slewed_time, State.aligned_fields, hunit, hofs, State.setAll]
  · -- PTP_SYNC_RX
    intro port dom t1 t4 s hen hport hdom hofs
    rw [exec_ptpSyncRx, execPtpSyncRx, if_pos ⟨hen, hport, hdom, rfl⟩]
    refine ⟨_, rfl, ?_⟩
    dsimp only
    rw [if_pos hofs]
    by_cases h15 : 15 ≤ s.time.ptpGood
    · simp [State.ptpExchange_time, h15, Nat.not_lt.mpr h15, show F.BEAT_STAT_PTP_LOCK.w = 1 from rfl]
    · simp [State.ptpExchange_time, h15, show min 16 (s.time.ptpGood + 1) ≠ 16 by omega, State.get_ptpExchange]
  · -- PTP_SYNC_RX
    intro t1 t4 s hen hofs
    rw [exec_ptpSyncRx, execPtpSyncRx, if_pos ⟨hen, rfl, rfl, rfl⟩]
    dsimp only
    rw [if_neg (Nat.not_le.mpr hofs)]
    exact ⟨_, rfl, State.ptpUnlock_effect _⟩
  · -- PTP_SYNC_TIMEOUT
    intro s hrecent
    rw [exec_ptpSyncTimeout, execPtpSyncTimeout, hrecent]
    exact ⟨_, rfl, s.ptpUnlock_effect⟩

end Sys2Proof.Machine
end

section
/-! SUPPORT. Late requests and stalled connections (chapter 1). -/

namespace Sys2Proof.Machine

theorem State.overdue_of_req {s : State} {tag : Nat} {r : Req} (hr : s.req tag = some r) (hj : r.judged = true)
    (he : r.escalated = false) (hd : r.deadline + 256 < s.beat) :
    s.overdue tag = some ⟨r.cls, s.lateStage r, min 65535 (s.beat - r.deadline), tag⟩ := by
  unfold State.overdue
  rw [hr]
  simp [hj, he, hd]

/-- Settles O14: what the judging of lateness leaves decides each clause; a read of the queue goes through its register page. -/
theorem lateWorkIsShown : Obligations.LateWorkIsShown := by
  refine ⟨?_, ?_, ?_, ?_⟩
  · -- BUDGET_ESCALATED
    intro tag s r hr hjudged hescalated hdeadline hroom
    rw [exec_budgetEscalated, execBudgetEscalated, State.overdue_of_req hr hjudged hescalated hdeadline]
    simp [State.modReq, hr, hroom]
  · -- ADM_LATE_QREAD
    intro m s r q judged hlateQ
    refine ⟨_, rfl, ?_⟩
    simp [State.busRd_done judged, hlateQ]
  · -- EGRESS_STALL_RESET
    intro c s hle
    simp [execEgressStallReset, Nat.not_le.mpr hle]
  · -- EGRESS_STALL_RESET
    intro c s hle
    simp [execEgressStallReset, Nat.not_le.mpr hle]

end Sys2Proof.Machine
end

section
/-! SUPPORT. Where a write goes (chapter 2): memory, a page of the control window, or nothing. -/

namespace Sys2Proof.Machine

theorem inWindow_of_lt {a : Nat} (h : a < 0x003000000000) : inWindow a = false := by
  have hbase : ¬ windowBase ≤ a := by unfold windowBase; omega
  simp [inWindow, hbase]

/-- Settles O15: a write is decided by where its address lies. -/
theorem registerWriteReachesItsPlace : Obligations.RegisterWriteReachesItsPlace := by
  refine ⟨?_, ?_, ?_, ?_⟩
  · -- REGISTER_WRITE
    intro m addr size v s haddr hprot
    simp [execRegisterWrite, inWindow_of_lt haddr, haddr, hprot, State.memWrite]
  · -- REGISTER_WRITE
    intro m addr size v s haddr hprot hsecure
    simp [execRegisterWrite, inWindow_of_lt haddr, haddr, hprot, hsecure]
  · -- REGISTER_WRITE
    intro m addr size v s hinWindow hreaches
    simp [execRegisterWrite, hinWindow, hreaches]
  · -- REGISTER_WRITE
    intro m addr size v s hlow hwindow hout
    have hmem : ¬ (0x020000000000 ≤ addr ∧ addr < 0x020000800000) := by omega
    rw [exec_registerWrite, execRegisterWrite, hwindow, if_neg (by decide), if_neg (Nat.not_lt.mpr hlow), if_neg hmem]
    rfl

end Sys2Proof.Machine
end

section
/-! SUPPORT. PAGE_CTL (chapter 2): a unit is enabled, quiesced, disabled and reset as its state allows. -/

namespace Sys2Proof.Machine

/-- Settles O16: each write of `PAGE_CTL` is `State.busWr` of its row, decided by the state of its unit. -/
theorem unitsEnableAndQuiesce : Obligations.UnitsEnableAndQuiesce := by
  refine ⟨?_, ?_, ?_, ?_, ?_, ?_, ?_, ?_, ?_, ?_⟩
  · -- PAGE_ENABLE
    intro m slot q s judged hunit henableBad
    simp [execPageEnable, State.pageCtl, State.busWr_done judged, hunit, henableBad]
  · -- PAGE_ENABLE
    intro m slot q s judged hunit
    simp [execPageEnable, State.pageCtl, State.busWr_done judged, hunit]
  · -- PAGE_QUIESCE
    intro m slot s judged hunit
    simp [execPageQuiesce, State.pageCtl, State.busWr_done judged, hunit]
  · -- PAGE_DISABLE
    intro m slot s judged hunit hunit'
    simp [execPageDisable, State.pageCtl, State.busWr_done judged, hunit, hunit']
  · -- PAGE_DISABLE
    intro m slot s judged hunit hunit'
    simp [execPageDisable, State.pageCtl, State.busWr_done judged, hunit, hunit']
  · -- INSTANCE_QUIESCED
    intro code u s hunit hunit' hunitBusy
    simp [execInstanceQuiesced, hunit, hunit', hunitBusy]
  · -- PAGE_RESET
    intro m slot c i p en qu s judged hpageOf hunit
    simp [execPageReset, State.pageCtl, State.pageReset, State.busWr_done judged, hpageOf, hunit]
  · -- PAGE_RESET
    intro m slot c i p qu s judged hpageOf hunit hunitOfSlot hunitReset
    simp [execPageReset, State.pageCtl, State.pageReset, State.busWr_done judged, hpageOf, hunit, hunitOfSlot, hunitReset]
  · -- PAGE_ENABLE, PAGE_QUIESCE
    intro m slot c q s judged hunit hc
    constructor
    · simp [execPageEnable, State.pageCtl, State.busWr_done judged, hunit, hc]
    · simp [execPageQuiesce, State.pageCtl, State.busWr_done judged, hunit, hc]
  · -- PAGE_RESET
    intro m slot c i p en qu s judged hpageOf hunit
    simp [execPageReset, State.pageCtl, State.pageReset, State.busWr_done judged, hpageOf, hunit]

end Sys2Proof.Machine
end

section
/-! SUPPORT. Commit, discard, the error queue and the lock of a page header (chapter 2). -/

namespace Sys2Proof.Machine

section

variable (s : State)

@[simp] theorem State.hdr_modHdr_same (slot : Nat) (f : PageHdr → PageHdr) : (s.modHdr slot f).hdr slot = f (s.hdr slot) := by
  unfold State.hdr State.modHdr AL.getD
  rw [AL.get_upd_same]
  rfl

/-- An interrupt changes no header but its IRQ bits. -/
theorem State.errq_irq (slot bit q : Nat) : ((s.irq slot bit).hdr q).errq = (s.hdr q).errq := by
  by_cases h : q = slot
  · subst h; simp [State.irq]
  · unfold State.irq State.hdr State.modHdr AL.getD
    rw [AL.get_upd_ne h]

/-- The head's summary of the error queues leaves the queues as they are. -/
@[simp] theorem State.errq_erqUpdate (w q : Nat) : ((s.erqUpdate w).hdr q).errq = (s.hdr q).errq := by
  unfold State.erqUpdate
  dsimp only
  split
  · rw [State.errq_irq]; simp [State.setAll]
  · simp [State.setAll]

@[simp] theorem State.erqUpdate_busData (w : Nat) : (s.erqUpdate w).busData = s.busData := by
  unfold State.erqUpdate
  dsimp only
  split <;> rfl

end

theorem commitSlots_one {slot : Nat} {q : Nat × Nat × Nat} (h : pageOf slot = some q) : commitSlots slot false = [slot] := by
  simp [commitSlots, h]

theorem commitSlots_all {slot c i p : Nat} (h : pageOf slot = some (c, i, p)) : commitSlots slot true = unitSlots c i := by
  simp [commitSlots, h]

/-- Settles O17: the header registers are reached through the bus, and each row changes its own page header only. -/
theorem headersCommitAndAcknowledge : Obligations.HeadersCommitAndAcknowledge := by
  refine ⟨?_, ?_, ?_, ?_, ?_, ?_, ?_⟩
  · -- PAGE_COMMIT
    intro m slot q s judged hpage
    rw [exec_pageCommit, execPageCommit, State.busWr_done judged, commitSlots_one hpage]
    rfl
  · -- PAGE_DISCARD
    intro m slot q s judged hpage
    rw [exec_pageDiscard, execPageDiscard, State.busWr_done judged, commitSlots_one hpage]
    refine ⟨_, rfl, rfl, ?_, ?_⟩
    · simp [State.dropShadows, show ∀ a b : Nat, (a != b) = !decide (a = b) from fun _ _ => rfl]
    · simp [State.dropShadows]
  · -- PAGE_ERRQ_READ
    intro m slot s hle judged
    simp [execPageErrqRead, State.busRd_done judged, Nat.not_le.mpr hle]
  · -- PAGE_ERRQ_READ
    intro m slot s e q hm judged hq
    rw [exec_pageErrqRead, execPageErrqRead, State.busRd_done judged]
    refine ⟨_, rfl, ?_⟩
    simp [hm, PageHdr.errqWord, PageHdr.handle, hq]
  · -- PAGE_ERRQ_ACK
    intro m slot s judged
    rw [exec_pageErrqAck, execPageErrqAck, State.busWr_done judged]
    exact ⟨_, rfl, by simp⟩
  · -- PAGE_LOCK_SET
    intro m slot w s judged
    rw [exec_pageLockSet, execPageLockSet, State.busWr_done judged]
    simp [State.pageLock]
  · -- PAGE_COMMIT, PAGE_DISCARD
    intro m slot c i p s judged hpage
    constructor
    · rw [exec_pageCommit, execPageCommit, State.busWr_done judged, commitSlots_all hpage, State.commitAsk]
    · rw [exec_pageDiscard, execPageDiscard, State.busWr_done judged, commitSlots_all hpage]

end Sys2Proof.Machine
end

section
/-! SUPPORT. The interrupt router (chapter 2): a route that R94 keeps for secure masters though its slot is no secure page. -/

namespace Sys2Proof.Machine

/-- Routes 896 to 927, the doorbells of SEC's channels, take no write of a non-secure master (R94). -/
theorem routeWrite_doorbell_denied {s : State} {m r : Nat} (v : Word) (hr : routeSecure r = true) (hm : s.secureMaster m = false) :
    s.routeWrite m r v = s.deny (Slot.IRT + routePage r) Cond.SECURE_ACCESS_DENIED := by
  simp [State.routeWrite, hr, hm]

/-- Refutes O18: after reset master 3, which is not secure, writes target 1 to route 900. Slot 900 is no secure page, so the
fifth clause says that the route is written; but 900 is the route of a doorbell of SEC, the write is denied and the target
stays 0 (R94). -/
theorem not_interruptRouterServes : ¬ Obligations.InterruptRouterServes := by
  intro h
  obtain ⟨-, -, -, -, hwrite, -⟩ := h
  have hset := hwrite 3 900 1 State.reset (by decide) (.inl (by decide)) (by decide) (by decide)
  rw [exec_irtRouteWrite, execIrtRouteWrite, State.busWr_done (by decide)] at hset
  injection hset with hset
  have hdenied : (State.reset.routeWrite 3 900 1).get (F.IRT_ROUTE_TARGET 900) = 0 := by
    rw [routeWrite_doorbell_denied 1 (by decide) (by decide)]
    decide
  rw [hset] at hdenied
  exact absurd hdenied (by decide)

end Sys2Proof.Machine
end

section
/-! SUPPORT. Reads that resolve, wait as slow, and are resumed or ended (chapter 3). -/

namespace Sys2Proof.Machine

/-- An answer for a tag that names no slow read is a mismatch, whatever its action. -/
theorem resumeBus_mismatch {m action tag : Nat} {s : State} (judged : s.judge m Slot.RDP 0x130 true true = none)
    (hr : ∀ r n, s.req tag = some r → r.stage ≠ .slow n) :
    resumeBus m action tag s = .next (s.raise Slot.RDP Cond.RDP_RESUME_MISMATCH tag) := by
  rw [resumeBus, State.busWr_done judged, State.rdpResume]
  cases htag : s.req tag with
  | none => simp
  | some r =>
    cases hstage : r.stage with
    | slow n => exact absurd hstage (hr r n htag)
    | _ => simp [hstage]

/-- Settles O19: a resolving read resolves, and each answer of the firmware ends or retries the read whose tag it names. -/
theorem readsResolveOrEnd : Obligations.ReadsResolveOrEnd := by
  refine ⟨?_, ?_, ?_, ?_, ?_, ?_, ?_, ?_, ?_⟩
  · -- READ_COMMAND
    intro tag words s r hr hreadLike hstage
    simp [execReadCommand, hr, hreadLike, hstage]
  · -- RDP_SLOW_QREAD
    intro m s q l judged hslowQ
    rw [exec_rdpSlowQRead, execRdpSlowQRead, State.busRd_done judged]
    refine ⟨_, rfl, ?_⟩
    simp [hslowQ, State.slowIrq]
  · -- RDP_RESUME_RETRY
    intro m tag n s r judged hr hstage
    simp [execRdpResumeRetry, resumeBus, State.rdpResume, State.slowIrq, State.busWr_done judged, hr, hstage]
  · -- RDP_RESUME_FAIL_MEDIA
    intro m tag n s r judged hr hstage
    simp [execRdpResumeFailMedia, resumeBus, State.rdpResume, State.slowIrq, State.busWr_done judged, hr, hstage]
  · -- RDP_RESUME_FAIL_KEY
    intro m tag n s r judged hr hstage
    simp [execRdpResumeFailKey, resumeBus, State.rdpResume, State.slowIrq, State.busWr_done judged, hr, hstage]
  · -- RDP_RESUME_FAIL_INTERNAL
    intro m tag n s r judged hr hstage
    simp [execRdpResumeFailInternal, resumeBus, State.rdpResume, State.slowIrq, State.busWr_done judged, hr, hstage]
  · -- READ_SLOW_TIMEOUT
    intro tag n s r hr hstage hle hslowSince
    simp [execReadSlowTimeout, State.slowIrq, hr, hstage, hle, hslowSince]
  · -- RDP_SLOW_QREAD
    intro m s judged hslowQ
    simp only [exec_rdpSlowQRead, execRdpSlowQRead, State.slowIrq, State.busRd_done judged, hslowQ]
  · -- RDP_RESUME_RETRY, RDP_RESUME_FAIL_MEDIA, RDP_RESUME_FAIL_KEY, RDP_RESUME_FAIL_INTERNAL
    intro m tag s judged hr
    exact ⟨resumeBus_mismatch judged hr, resumeBus_mismatch judged hr, resumeBus_mismatch judged hr,
        resumeBus_mismatch judged hr⟩

end Sys2Proof.Machine
end

section
/-! SUPPORT. Metadata pages that arrive, come from the peer or are invalidated (chapter 3). -/

namespace Sys2Proof.Machine

section

variable {s : State} {ctb ok : Bool} {key : Nat} {g : MetaPage}

/-- A page that does not check out, or of which a strip failed, is read again once and then given up. -/
theorem State.metaDone_failed (bad : List Nat) (hg : s.metaPage ctb key = some g) (hf : g.fetching = true) (hq : g.queued = false)
    (hl : g.left = 0) (hbad : ok = false ∨ g.bad = true) : s.metaDone ctb key ok bad =
      if g.again then ((s.modMeta ctb key (fun g => { g with fetching := false, broken := true })).metaNext ctb).resolveWaiting []
      else ((s.raise Slot.FTL Cond.META_CHECK_FAIL key).modMeta ctb key (fun g => { g with bad := false, again := true })).metaRead ctb key true := by
  have hsound : (ok && !g.bad) = false := by rcases hbad with h | h <;> simp [h]
  simp [State.metaDone, hg, hf, hq, hl, hsound]

end

/-- Settles O20: a page that arrives is taken, read again or given up by what was read; the rows of maps and chunk tables agree. -/
theorem metadataPagesArrive : Obligations.MetadataPagesArrive := by
  refine ⟨?_, ?_, ?_, ?_, ?_, ?_, ?_, ?_, ?_, ?_, ?_, ?_, ?_, ?_, ?_⟩
  · -- MAP_PAGE_FETCH_DONE
    intro page words s g hg hfetching hqueued hleft hbad
    simp [execMapPageFetchDone, State.metaDone, hg, hfetching, hqueued, hleft, hbad]
  · -- CTB_PAGE_FETCH_DONE
    intro page s g hg hfetching hqueued hleft hbad
    simp [execCtbPageFetchDone, State.metaDone, hg, hfetching, hqueued, hleft, hbad]
  · -- MAP_PAGE_FETCH_DONE
    intro page ctb ok words c s g hc hg hf hq hl hbad hagain
    simp only [List.mem_cons, Prod.mk.injEq, List.not_mem_nil, or_false] at hc
    rcases hc with ⟨rfl, rfl⟩ | ⟨rfl, rfl⟩
    · rw [exec_mapPageFetchDone, execMapPageFetchDone, State.metaDone_failed _ hg hf hq hl hbad, hagain, if_neg (by decide)]
    · rw [exec_ctbPageFetchDone, execCtbPageFetchDone, State.metaDone_failed _ hg hf hq hl hbad, hagain, if_neg (by decide)]
  · -- MAP_PAGE_FETCH_DONE
    intro page ctb ok words c s g hc hg hf hq hl hbad hagain
    simp only [List.mem_cons, Prod.mk.injEq, List.not_mem_nil, or_false] at hc
    rcases hc with ⟨rfl, rfl⟩ | ⟨rfl, rfl⟩
    · rw [exec_mapPageFetchDone, execMapPageFetchDone, State.metaDone_failed _ hg hf hq hl hbad, hagain, if_pos rfl]
    · rw [exec_ctbPageFetchDone, execCtbPageFetchDone, State.metaDone_failed _ hg hf hq hl hbad, hagain, if_pos rfl]
  · -- PEER_PAGE_REQ_RX
    intro ctb key s g hg hresident
    simp [execPeerPageReqRx, hg, hresident]
  · -- PEER_PAGE_REQ_RX
    intro ctb key s habsent
    rcases habsent with hnone | ⟨g, hg, hresident⟩
    · simp [execPeerPageReqRx, hnone]
    · simp [execPeerPageReqRx, hg, hresident]
  · -- PEER_PAGE_DATA_RX
    intro key stamp maps chunks s g hg hfetching
    simp [execPeerPageDataRx, hg, hfetching]
  · -- PEER_PAGE_DATA_RX
    intro key stamp maps chunks s g hg hfetching
    simp [execPeerPageDataRx, hg, hfetching]
  · -- PEER_PAGE_DATA_RX
    intro ctb key stamp maps chunks s g hg hfetching hleafHere
    simp [execPeerPageDataRx, hg, hfetching, hleafHere]
  · -- MAP_INVAL
    intro m vol all s judged hmapInval
    simp [execMapInval, State.mapInvalWrite, State.busWr_done judged, hmapInval]
  · -- MAP_INVAL
    intro m vol all s judged hisSome
    simp [execMapInval, State.mapInvalWrite, State.busWr_done judged, hisSome]
  · -- MAP_INVAL_DONE
    intro v s hv hmapPass
    simp [execMapInvalDone, hv, hmapPass]
  · -- RCH_INVAL
    intro m vat all s judged hrchInval
    simp [execRchInval, State.rchInvalWrite, State.busWr_done judged, hrchInval]
  · -- RCH_INVAL
    intro m vat all s judged hisSome
    simp [execRchInval, State.rchInvalWrite, State.busWr_done judged, hisSome]
  · -- RCH_INVAL_DONE
    intro v s hv hpass
    cases v with
    | none => simp [execRchInvalDone, hv, hpass]
    | some x => simp [execRchInvalDone, hv, hpass]

end Sys2Proof.Machine
end

section
/-! SUPPORT. Copies and records that a slice checks, inflates and delivers, reconstructs and hedges (chapter 3). -/

namespace Sys2Proof.Machine

section

variable {s : State} {r : Req} {tag cid v g h k : Nat} {ok : Bool}

/-- A copy that has come is checked under the chunk's own number; the numbers between are those of journal records. -/
theorem execSliceTagCheck_copy (hr : s.req tag = some r) (hd : s.decrypts r = true) (hs : r.stage ≠ .completing)
    (hc : cid < 2 ^ 40 ∨ 2 ^ 52 ≤ cid) :
    execSliceTagCheck tag cid v g h ok s = .next ((s.copyPass r cid v g h ok).sliceDone tag) := by
  have hout : ¬ (2 ^ 40 ≤ cid ∧ cid < 2 ^ 52) := by omega
  rw [execSliceTagCheck, hr]
  dsimp only
  rw [if_neg (by simp [hd, hs]), if_neg hout]

theorem execSliceTagCheck_record (hr : s.req tag = some r) (hd : s.decrypts r = true) (hs : r.stage ≠ .completing)
    (hk : k < 2 ^ 52 - 2 ^ 40) :
    execSliceTagCheck tag (2 ^ 40 + k) v g h ok s = .next ((s.recPass r k ok).sliceDone tag) := by
  have hin : 2 ^ 40 ≤ 2 ^ 40 + k ∧ 2 ^ 40 + k < 2 ^ 52 := by omega
  rw [execSliceTagCheck, hr]
  dsimp only
  rw [if_neg (by simp [hd, hs]), if_pos hin, Nat.add_sub_cancel_left]

end

/-- Settles O21: each part of a delivery under the checks that its copy passes. -/
theorem slicesDeliverReads : Obligations.SlicesDeliverReads := by
  refine ⟨?_, ?_, ?_, ?_, ?_, ?_, ?_, ?_, ?_⟩
  · -- SLICE_TAG_CHECK
    intro tag cid v g h ok s r hr hd hs hc hready hheader hallows hkey hran
    rw [exec_sliceTagCheck, execSliceTagCheck_copy hr hd hs hc]
    simp [State.copyPass, hready, hheader, hallows, hkey, hran]
  · -- SLICE_TAG_CHECK
    intro tag cid v g h ok s r hr hd hs hc hready hheader
    rw [exec_sliceTagCheck, execSliceTagCheck_copy hr hd hs hc]
    simp [State.copyPass, hready, hheader]
  · -- SLICE_TAG_CHECK
    intro tag k v g h ok j s r hr hd hs hk hj hsource hwait hallows hkey hran
    rw [exec_sliceTagCheck, execSliceTagCheck_record hr hd hs hk, State.recPass, hj]
    dsimp only
    rw [if_neg (by simp only [hsource, hwait]; decide), if_neg (by simp [hallows]), if_neg (by simp [hkey]), if_pos hran]
  · -- INFLATE_JOB_END
    intro tag cid bo ob u slow b s r hr hkind hstage hcompressed hraw hverified hsource hinfl hcond hran
    rw [exec_inflateJobEnd, execInflateJobEnd, hr]
    dsimp only
    rw [if_neg (by simp only [hkind, hstage, hcompressed, hraw, hverified, hsource]; decide), hinfl]
    simp [hran, hcond]
  · -- INFLATE_JOB_END
    intro tag cid bo ob u slow b s r hr hkind hstage hcompressed hraw hverified hsource hinfl hcond hran
    rw [exec_inflateJobEnd, execInflateJobEnd, hr]
    dsimp only
    rw [if_neg (by simp only [hkind, hstage, hcompressed, hraw, hverified, hsource]; decide), hinfl]
    simp [hran, hcond]
  · -- DELIVERY_EGRESS
    intro tag c cid n k s r hr hstage
    refine ⟨?_, ?_, ?_, ?_, ?_⟩
    · intro hkind horigin
      simp [execDeliveryEgress, hr, hstage, hkind, horigin]
    · intro hkind horigin hcompressed
      simp [execDeliveryEgress, hr, hstage, hkind, horigin, hcompressed]
    · intro hkind horigin hcompressed
      simp [execDeliveryEgress, hr, hstage, hkind, horigin, hcompressed]
    · intro hkind horigin
      simp [execDeliveryEgress, hr, hstage, hkind, horigin]
    · intro hkind horigin
      simp [execDeliveryEgress, hr, hstage, hkind, horigin]
  · -- RECONSTRUCT_START
    intro id f r b m s hminBy hr hb hm hd hreconAllowed
    simp [execReconstructStart, hminBy, hr, hb, hm, hd, hreconAllowed]
  · -- RECONSTRUCT_START
    intro id f r b m s hminBy hr hb hm hsurvivors
    simp [execReconstructStart, hminBy, hr, hb, hm, Nat.not_le.mpr hsurvivors]
  · -- HEDGE_START
    intro k f r b m s hf hr hb hm hd hfetchesOf hen hmode hdone hfailed hkind hlimit hreconAllowed
    simp [execHedgeStart, hf, hr, hb, hm, hd, hfetchesOf, hen, hmode, hdone, hfailed, hkind, hlimit, hreconAllowed]

end Sys2Proof.Machine
end

section
/-! SUPPORT. Prefetch recordings, profiles and replays (chapter 3). -/

namespace Sys2Proof.Machine

/-- Settles O22: a recording, a load and an extent are decided by the first check of their row that applies. -/
theorem prefetchRecordsAndReplays : Obligations.PrefetchRecordsAndReplays := by
  refine ⟨?_, ?_, ?_, ?_, ?_, ?_, ?_, ?_, ?_, ?_, ?_⟩
  · -- PFX_REC_ARM
    intro m p v w f s judged harmed hruns hloaded hw hvol
    have hwv : ¬ (w = 0 ∨ (s.liveVol v).isNone = true) := by
      rw [← Option.not_isSome, hvol]
      simp [Nat.ne_of_gt hw]
    simp only [exec_pfxRecArm, execPfxRecArm, State.busWr_done judged, State.pfxRecWrite, harmed, hruns, hloaded, hwv, if_true,
      if_false, or_self, Bool.false_eq_true]
  · -- PFX_REC_ARM
    intro m p v w f s judged hrecState
    simp [execPfxRecArm, State.pfxRecWrite, State.busWr_done judged, hrecState]
  · -- PFX_REC_ARM
    intro m p v w f s judged harmed hruns
    constructor
    · intro hloaded
      simp [execPfxRecArm, State.pfxRecWrite, State.busWr_done judged, harmed, hruns, hloaded]
    · intro hloaded hw
      simp only [exec_pfxRecArm, execPfxRecArm, State.busWr_done judged, State.pfxRecWrite, harmed, hruns, hloaded, hw, if_true,
        if_false, or_self, Bool.false_eq_true]
  · -- PFX_REC_DISARM
    intro m s judged
    simp [execPfxRecDisarm, State.pfxRecWrite, State.busWr_done judged]
  · -- PFX_RECORD_WINDOW_END
    intro s hrecClosed
    simp [execPfxRecordWindowEnd, hrecClosed]
  · -- PFX_LOAD, PFX_UNLOAD
    intro m p s judged hbusy
    refine ⟨?_, ?_⟩
    · simp [execPfxLoad, State.pfxLoadWrite, State.busWr_done judged, hbusy]
    · simp [execPfxUnload, State.pfxLoadWrite, State.busWr_done judged, hbusy]
  · -- PFX_LOAD, PFX_UNLOAD
    intro m p s judged hbusy
    refine ⟨?_, ?_⟩
    · simp [execPfxLoad, State.pfxLoadWrite, State.busWr_done judged, hbusy]
    · simp [execPfxUnload, State.pfxLoadWrite, State.busWr_done judged, hbusy]
  · -- PFX_LOAD_DONE
    intro p s hloadOp
    simp [execPfxLoadDone, hloadOp]
  · -- PFX_LOAD_DONE
    intro p s hloadOp
    simp only [exec_pfxLoadDone, execPfxLoadDone, hloadOp] <;> rfl
  · -- PFX_EXTENT_DUE
    intro i x f s u t hx hdue hlate hissue hfirst hf hu ht
    subst hu ht
    rw [exec_pfxExtentDue, execPfxExtentDue, hx]
    dsimp only
    rw [if_pos ⟨hdue, hlate, hissue, hfirst⟩, hf]
  · -- PFX_EXTENT_SKIP
    intro i x s hx htrigBeat
    simp [execPfxExtentSkip, hx, htrigBeat]

end Sys2Proof.Machine
end

section
/-! SUPPORT. Writes that are checked, mirrored and acknowledged, and the log of deferred errors (chapter 4). -/

namespace Sys2Proof.Machine

/-- Settles O23: a record that its CHECK finds sound is kept and acknowledged, any other is named as bad. -/
theorem writesAreMirroredAndAcknowledged : Obligations.WritesAreMirroredAndAcknowledged := by
  refine ⟨?_, ?_, ?_, ?_, ?_, ?_, ?_, ?_⟩
  · -- WRITE_COMMAND
    intro tag s r hr hchanges hstage
    simp [execWriteCommand, hr, hchanges, hstage]
  · -- PEER_MIRROR_RX
    intro slot gen count idx unit d ok s hdescOk
    simp [execPeerMirrorRx, hdescOk]
  · -- PEER_MIRROR_RX
    intro slot gen count idx unit d ok s hdescOk
    simp [execPeerMirrorRx, hdescOk]
  · -- PEER_MIRROR_RX
    intro useq vol snap page v s
    refine ⟨?_, ?_, ?_, ?_⟩
    · simp [execPeerMirrorRx]
    · simp [execPeerMirrorRx]
    · simp [execPeerMirrorRx]
    · simp [execPeerMirrorRx]
  · -- PEER_MIRROR_ACK_RX
    intro slots useqs bad badU s
    rfl
  · -- WRITE_ACKNOWLEDGE
    intro tag s r hr hstage hendBeat hany
    simp [execWriteAcknowledge, hr, hstage, hany, Nat.not_le.mpr hendBeat]
  · -- JNL_MIRROR_TIMEOUT
    intro tag k j s hmode hk hown htag hstate hmirrored hbeat hraised
    have hlate : (s.write.recs.filter (fun q => q.2.own && q.2.tag == tag && q.2.state == 1)).any
        (fun q => !q.2.mirrored && decide (q.2.beat + s.get F.JNL_CFG_MIRROR_TMO ≤ s.beat)) = true :=
      List.any_eq_true.mpr ⟨(k, j), List.mem_filter.mpr ⟨hk, by simp [hown, htag, hstate]⟩, by simp [hmirrored, hbeat]⟩
    have hfirst : (!(s.write.recs.filter (fun q => q.2.own && q.2.tag == tag && q.2.state == 1)).any (fun q => q.2.tmoRaised)) = true := by
      rw [List.any_filter, List.not_any_eq_all_not]
      exact hraised
    rw [exec_jnlMirrorTimeout, execJnlMirrorTimeout]
    dsimp only
    rw [if_pos ⟨hlate, hfirst, hmode⟩]
  · -- JNL_DEF_QREAD
    intro m s e q judged hdefLog
    rw [exec_jnlDefQRead, execJnlDefQRead, State.busRd_done judged, hdefLog]
    have key1 : F.JNL_DEF_INFO_COUNT.key ≠ F.JNL_DEF_INFO_LBA.key := by decide
    have key2 : F.JNL_DEF_INFO_LBA.key ≠ F.JNL_DEF_STAT_ENTRIES.key := by decide
    have key3 : F.JNL_DEF_INFO_COUNT.key ≠ F.JNL_DEF_STAT_ENTRIES.key := by decide
    refine ⟨_, rfl, ?_⟩
    simp [State.get_set, key1, key2, key3, State.setAll, State.defIrq]

end Sys2Proof.Machine
end

section
/-! SUPPORT. Chunk jobs (chapter 4): passes over entered data, matches, compression, rows that close and update records that apply. -/

namespace Sys2Proof.Machine

@[simp] theorem State.modRec_digests (s : State) (k : Nat) (f : JRec → JRec) : (s.modRec k f).write.digests = s.write.digests := by
  unfold State.modRec
  split <;> rfl

/-- Settles O24: each stage of a chunk job, by what it finds. -/
theorem chunksAreMatchedAndStored : Obligations.ChunksAreMatchedAndStored := by
  refine ⟨?_, ?_, ?_, ?_, ?_, ?_, ?_, ?_, ?_, ?_, ?_, ?_, ?_, ?_⟩
  · -- CHUNK_RUN
    intro tag k failed j s hfilter hmayLand hlogHold
    simp [execChunkRun, hfilter, hmayLand, hlogHold]
  · -- CHUNK_RUN
    intro tag k failed j mine s hmine hnone hmin
    subst hmine
    simp only [exec_chunkRun, execChunkRun, hnone, hmin]
  · intro tag part i failed j run s hdigests hi hkeys hran
    subst hi
    have hready : (run.map (fun q => s.recHandle q.2) ++ [hSalt (((AL.get j.vol s.vat.vols).map (·.vat)).getD 0)]).find?
        (fun h => !s.keyReady (s.runSlice tag part) h) = none := by
      rw [List.find?_eq_none]
      intro h hh
      simp [List.all_eq_true.mp hkeys h hh]
    unfold State.runPass
    simp only [hdigests, Bool.false_eq_true, if_false, hready, hran, if_true]
  · intro tag part i k j s hdigests
    simp [State.runChunks, hdigests]
  · -- PEER_SWX_QUERY_RX
    intro qtag fp vat s t k r hswatchLook
    simp only [exec_peerSwxQueryRx, execPeerSwxQueryRx, hswatchLook]
  · -- PEER_SWX_QUERY_RX
    intro qtag fp vat s t hswatchLook
    simp only [exec_peerSwxQueryRx, execPeerSwxQueryRx, hswatchLook]
  · -- PEER_SWX_ANSWER_RX
    intro job recipe hit x s hx hstage
    simp [execPeerSwxAnswerRx, hx, hstage]
  · -- RECIPE_PAGE_LOADED
    intro job p v l x g s hx hstage hg
    simp only [exec_recipePageLoaded, execRecipePageLoaded, hx, hstage, hg] <;> rfl
  · -- RECIPE_PAGE_LOADED
    intro job p v l x s hx hstage
    simp [execRecipePageLoaded, hx, hstage]
  · -- RECIPE_PAGE_CLOSE
    intro page g s hg hisOpen hlastBeat
    simp [execRecipePageClose, hg, hisOpen, hlastBeat]
  · -- COMPRESS_JOB_END
    intro job d stream x s hx hstage hd hlimit hran
    rw [exec_compressJobEnd, execCompressJobEnd, hx]
    simp [hd, hstage, CJob.mayWrite, hlimit, hran, State.compressed]
  · -- COMPRESS_JOB_END
    intro job d stream x s hx hstage hd hlength hmayWrite hran
    have hlimit : ¬ x.limit < stream.length := Nat.not_lt.mpr hlength
    have hsegs : x.deflSegs stream = x.blocks := if_neg hlimit
    rw [exec_compressJobEnd, execCompressJobEnd, hx]
    simp [hd, hstage, hmayWrite, hlimit, hsegs, hran, State.compressed]
  · -- ROW_WAIT_EXPIRE
    intro s
    rfl
  · -- UPDATE_RECORD_APPLY
    intro useq r s hr hcanApply
    refine ⟨?_, ?_⟩
    · simp only [exec_updateRecordApply, execUpdateRecordApply, hr, hcanApply] <;> rfl
    · simp only [exec_updateRecordApply, execUpdateRecordApply, hr, hcanApply] <;> rfl

end Sys2Proof.Machine
end

section
/-! SUPPORT. Records that follow the peer (chapter 4): entered, retired, pinned and fetched as it says. -/

namespace Sys2Proof.Machine

section

variable {s : State} {slot data tag : Nat} {j : JRec} {r : Req}

/-- Data for a record that no request waits for is the pass's alone. -/
theorem State.recDataCame_unwaited (ok : Bool) (hj : AL.get slot s.write.recs = some j)
    (hnone : s.adm.reqs.all (fun q => !q.2.recWait.contains slot) = true) : s.recDataCame slot data ok =
      if ok then s.modRec slot (fun x => { x with data := s.cipher (s.get F.FAB_ID_HID) j data, fetchWait := false })
      else if j.fetchWait then s.recLost slot 1 else s := by
  have hwaiting : s.adm.reqs.filter (fun q => q.2.recWait.contains slot) = [] :=
    List.filter_eq_nil_iff.mpr fun q hq => by simpa using List.all_eq_true.mp hnone q hq
  simp only [State.recDataCame, hwaiting, List.foldl_nil, hj]

/-- The one request there is, once it waits for no record. -/
theorem State.modReq_recWait_only (hreqs : s.adm.reqs = [(tag, r)]) (hwait : r.recWait = [slot]) :
    s.modReq tag (fun r => { r with recWait := r.recWait.filter (· != slot) }) = s.modReq tag (fun r => { r with recWait := [] }) := by
  simp [State.modReq, State.req, hreqs, AL.get, hwait]

/-- The cipher of a record needs nothing that a request holds. -/
theorem State.cipher_modReq (f : Req → Req) (hid x : Nat) : (s.modReq tag f).cipher hid j x = s.cipher hid j x := by
  unfold State.modReq
  split <;> rfl

theorem State.modReq_frame (f : Req → Req) : (s.modReq tag f).write = s.write ∧ (s.modReq tag f).fields = s.fields := by
  unfold State.modReq
  split <;> exact ⟨rfl, rfl⟩

end

/-- Settles O25: each message changes the mirrored records that it names; the folds over them are the model's own. -/
theorem peerRecordsFollowThePeer : Obligations.PeerRecordsFollowThePeer := by
  refine ⟨?_, ?_, ?_, ?_, ?_, ?_, ?_, ?_, ?_⟩
  · -- PEER_ENTRY_RX
    intro beat slots s
    rfl
  · -- PEER_HORIZON_RX
    intro beat s
    rw [exec_peerHorizonRx, execPeerHorizonRx]
    exact ⟨_, rfl, State.get_set_same _ _ _, rfl, rfl, rfl, rfl, rfl⟩
  · -- PEER_RETIRE_RX
    intro slots s
    rfl
  · -- PEER_PIN_RX
    intro kind id s
    rfl
  · -- PEER_UNPIN_RX
    intro kind id s
    rfl
  · -- PEER_REC_FETCH_RX
    intro slot j s hj
    simp only [exec_peerRecFetchRx, execPeerRecFetchRx, hj]
  · -- PEER_REC_FETCH_RX
    intro slot s hget
    simp only [exec_peerRecFetchRx, execPeerRecFetchRx, hget]
  · -- PEER_REC_DATA_RX
    intro slot data j s hj hnone
    refine ⟨?_, fun hfetch => ?_, fun hfetch => ?_⟩
    · rw [exec_peerRecDataRx, execPeerRecDataRx, State.recDataCame_unwaited _ hj hnone, if_pos rfl]
    · rw [exec_peerRecDataRx, execPeerRecDataRx, State.recDataCame_unwaited _ hj hnone, hfetch, if_neg (by decide), if_pos rfl]
    · rw [exec_peerRecDataRx, execPeerRecDataRx, State.recDataCame_unwaited _ hj hnone, hfetch, if_neg (by decide),
        if_neg (by decide)]
  · -- PEER_REC_DATA_RX
    intro slot data tag j r s hj hreqs htag hwait hfetch u
    have hwaiting : s.adm.reqs.filter (fun q => q.2.recWait.contains slot) = [(tag, r)] := by simp [hreqs, hwait]
    have hu : s.modReq tag (fun r => { r with recWait := r.recWait.filter (· != slot) }) = u := State.modReq_recWait_only hreqs hwait
    obtain ⟨hwrite, hfields⟩ : u.write = s.write ∧ u.fields = s.fields := State.modReq_frame _
    have hhid : u.get F.FAB_ID_HID = s.get F.FAB_ID_HID := congrArg (AL.getD _ _) hfields
    have hcipher : u.cipher (s.get F.FAB_ID_HID) j data = s.cipher (s.get F.FAB_ID_HID) j data := State.cipher_modReq _ _ _
    constructor
    · simp only [exec_peerRecDataRx, execPeerRecDataRx, State.recDataCame, hwaiting, List.foldl_cons, List.foldl_nil,
        hu, hwrite, hj]
      simp [hhid, hcipher]
    · simp only [exec_peerRecDataRx, execPeerRecDataRx, State.recDataCame, hwaiting, List.foldl_cons, List.foldl_nil,
        hu, hwrite, hj]
      simp [hfetch]

end Sys2Proof.Machine
end

section
/-! SUPPORT. Table commands (chapter 5): each is the write of its command register, judged by the coordinator and held for its beat. -/

namespace Sys2Proof.Machine

section

variable {s : State} {snp : Bool} {op t m ab : Nat} {args : List Nat}

theorem vatCmdBus_done (judged : s.judge m Slot.VAT 0x108 true true = none) (op t : Nat) :
    vatCmdBus m op t s = .next (s.tblCommand false op t s.vatArgs) := by
  rw [vatCmdBus, State.busWr_done judged, State.vatCmdWrite]

section

variable (hc : s.coordinator = true) (hv : s.get F.VAT_CMD_STAT_BUSY ≠ 1) (hs : s.get F.SNP_CMD_STAT_BUSY ≠ 1)
include hc hv hs

theorem State.tblCommand_badBeat {b : Nat} (hb : b = if snp = true then s.get F.SNP_CMD_BEAT_BEAT else s.get F.VAT_CMD_BEAT_BEAT)
    (hbeat : s.applyBeat b = none) : s.tblCommand snp op t args = s.tblRefuse snp Cond.TABLE_CMD_BEAT_INVALID b := by
  subst hb
  simp [State.tblCommand, hc, hv, hs, hbeat]

theorem State.tblCommand_refused {b : Nat} (hb : b = if snp = true then s.get F.SNP_CMD_BEAT_BEAT else s.get F.VAT_CMD_BEAT_BEAT)
    (hbeat : s.applyBeat b = some ab) (hr : (if snp = true then s.snpRefusal op t args else s.vatRefusal op t args) ≠ 0) :
    s.tblCommand snp op t args = s.tblRefuse snp (if snp = true then s.snpRefusal op t args else s.vatRefusal op t args) ab := by
  subst hb
  simp [State.tblCommand, hc, hv, hs, hbeat, hr]

/-- A command of the vat table that nothing refuses is held for its beat. -/
theorem vatCmdBus_taken (judged : s.judge m Slot.VAT 0x108 true true = none)
    (hb : s.applyBeat (s.get F.VAT_CMD_BEAT_BEAT) = some ab) (hr : s.vatRefusal op t s.vatArgs = 0) : vatCmdBus m op t s = .next (s.tblAccept ⟨false, op, t, s.vatArgs, ab, true, false⟩) := by
  rw [vatCmdBus_done judged]
  simp [State.tblCommand, hc, hv, hs, hb, hr]

/-- A command of the snapshot table other than CREATE_GROUP that nothing refuses is held for its beat. -/
theorem State.tblCommand_snp_taken (hb : s.applyBeat (s.get F.SNP_CMD_BEAT_BEAT) = some ab) (hop : op ≠ 1) (hr : s.snpRefusal op t args = 0) :
    s.tblCommand true op t args = s.tblAccept ⟨true, op, t, args, ab, true, false⟩ := by
  simp [State.tblCommand, hc, hv, hs, hb, hr, hop]

end

end

/-- CREATE_GROUP is the command with the volumes of its list, the other two those with the volume they name. -/
theorem snpCmd_done {s : State} {m : Nat} (judged : s.judge m Slot.SNP 0x100 true true = none) (t v n : Nat) :
    execSnpCreateGroup m n s = .next (s.tblCommand true 1 0 (n ::
      (List.range (min n 256)).map (fun i => Mem.rdLE (s.get F.SNP_CMD_ARG_ADDR * 8 + 8 * i) 8 s.mem % 65536))) ∧
    execSnpDelete m t s = .next (s.tblCommand true 2 t [0]) ∧ execSnpClone m t v s = .next (s.tblCommand true 3 t [v]) := by
  simp [execSnpCreateGroup, execSnpDelete, execSnpClone, State.busWr_done judged, State.snpCmdWrite]

/-- Settles O26: each row is the write of its command register, and the refusals follow the order of Tables 5.4 and 5.10. -/
theorem tableCommandsAreHeldForTheirBeat : Obligations.TableCommandsAreHeldForTheirBeat := by
  refine ⟨?_, ?_, ?_, ?_, ?_, ?_⟩
  · -- CREATE_VAT, SET_VAT_OPTIONS, REKEY, FREEZE, DELETE_VAT, CREATE_VOLUME, RESIZE_VOLUME, SET_PROFILE and others
    intro m t s judged
    exact ⟨vatCmdBus_done judged 1 t, vatCmdBus_done judged 2 t, vatCmdBus_done judged 3 t, vatCmdBus_done judged 4 t,
        vatCmdBus_done judged 5 t,
      vatCmdBus_done judged 6 t, vatCmdBus_done judged 7 t, vatCmdBus_done judged 8 t, vatCmdBus_done judged 9 t,
          vatCmdBus_done judged 10 t⟩
  · -- SNP_CREATE_GROUP, SNP_DELETE, SNP_CLONE
    intro m t v n s judged
    exact snpCmd_done judged t v n
  · -- CREATE_VAT, SET_VAT_OPTIONS, REKEY, FREEZE, DELETE_VAT, CREATE_VOLUME, RESIZE_VOLUME, SET_PROFILE and others
    intro m t ab s judged hc hv hs hb
    have taken (op : Nat) := vatCmdBus_taken (op := op) (t := t) hc hv hs judged hb
    exact ⟨taken 1, taken 2, taken 3, taken 4, taken 5, taken 6, taken 7, taken 8, taken 9, taken 10⟩
  · intro snp op t args s
    constructor
    · intro hc
      simp [State.tblCommand, hc]
    · intro hc hbusy
      simp only [State.tblCommand, hc, hbusy, Bool.not_true, Bool.false_eq_true, if_false, if_true]
  · intro snp op t b args s hc hv hs hb
    exact ⟨State.tblCommand_badBeat hc hv hs hb, fun ab => State.tblCommand_refused hc hv hs hb⟩
  · -- SNP_DELETE, SNP_CLONE, SNP_CREATE_GROUP
    intro m t v n ab s judged hc hv hs hb
    obtain ⟨hgroup, hdelete, hclone⟩ := snpCmd_done judged t v n
    refine ⟨fun hr => ?_, fun hr => ?_, fun hr => ?_⟩
    · exact hdelete.trans (congrArg _ (State.tblCommand_snp_taken hc hv hs hb (by decide) hr))
    · exact hclone.trans (congrArg _ (State.tblCommand_snp_taken hc hv hs hb (by decide) hr))
    · rw [exec_snpCreateGroup, hgroup]
      simp [State.tblCommand, hc, hv, hs, hb, hr]

end Sys2Proof.Machine
end

section
/-! SUPPORT. Table commands that are not acknowledged (chapter 5): one that still waits for its salt outside PAIRED is not dropped. -/

namespace Sys2Proof.Machine

/-- This head's CREATE_VAT, not acknowledged, whose salt has not been drawn. -/
def unsaltedCreateVat : TCmd := ⟨false, 1, 0, [], 0, true, false⟩

/-- The state after reset, in BOOT, with that command held past its beat. -/
def heldUnsalted : State := { State.reset with vat := { State.reset.vat with cmds := [unsaltedCreateVat] } }

/-- Outside PAIRED a command that waits for its salt stays. -/
theorem heldUnsalted_stays : exec .tableCmdAckTimeout heldUnsalted = .next heldUnsalted := by
  have hnone : heldUnsalted.vat.cmds.find? (fun c => c.own && !c.acked && !(c.unsalted && heldUnsalted.mode != .paired)
      && decide (c.applyBeat ≤ heldUnsalted.beat + 16)) = none := by decide
  rw [exec_tableCmdAckTimeout, execTableCmdAckTimeout, hnone]

/-- Refutes O27: the fifth clause drops every command of this head that is not acknowledged 16 beats before its beat; the model
keeps one that waits for its salt while the head is not in PAIRED, as this CREATE_VAT does. -/
theorem not_tableCommandsApplyInBothHeads : ¬ Obligations.TableCommandsApplyInBothHeads := by
  intro h
  obtain ⟨-, -, -, -, htimeout, -⟩ := h
  have hdropped := htimeout unsaltedCreateVat heldUnsalted (by decide)
  rw [heldUnsalted_stays] at hdropped
  injection hdropped with hdropped
  have hlists : heldUnsalted.vat.cmds = [unsaltedCreateVat] := rfl
  rw [hdropped] at hlists
  exact absurd hlists (by decide)

end Sys2Proof.Machine
end

section
/-! SUPPORT. The sweep of a re-dye, and what deleted volumes and snapshots give back (chapter 5). -/

namespace Sys2Proof.Machine

section

variable {s : State}

/-- A re-dye that is active goes on as it is. -/
theorem State.sweepResume_active (h : s.get F.VAT_REDYE_STAT_ACTIVE ≠ 0) : s.sweepResume = s := by
  unfold State.sweepResume
  split
  · rw [if_neg (fun hc => h hc.1)]
  · rfl

/-- A band of which no chunk has the old generation is passed. -/
theorem State.sweepBand_passed {b : Nat} (failed : List Nat) (h : s.oldChunks b = []) : s.sweepBand b failed = s.sweepTo (s.sweepAfter b) := by
  simp [State.sweepBand, h, State.sweepBegin]

theorem State.sweepTo_vat (l : List Nat) : (s.sweepTo l).vat = { s.vat with sweepLeft := l } := by
  simp [State.sweepTo, State.setAll]

end

/-- Settles O28: what is left to release decides between a further pass and the end. -/
theorem deletedThingsAreReleasedAndReDyed : Obligations.DeletedThingsAreReleasedAndReDyed := by
  refine ⟨?_, ?_, ?_, ?_, ?_, ?_⟩
  · -- REDYE_SWEEP_STEP
    intro n failed s hactive hmode hleft hended
    have hcode : Mode.ofCode (s.get F.LSE_MODE_MODE) = .paired := hmode
    simp [execRedyeSweepStep, State.sweepResume_active hactive, hactive, State.serving, State.mode, hcode, hleft, hended]
  · -- REDYE_SWEEP_STEP
    intro n failed s hactive hmode hleft hended
    simp [execRedyeSweepStep, State.sweepResume_active hactive, hactive, State.serving, hmode, hleft, hended]
  · -- REDYE_SWEEP_STEP
    intro n b l failed s hactive hserving hleft hload hended hold hafter
    simp [execRedyeSweepStep, State.sweepResume_active hactive, hactive, hserving, hleft, hload, hended,
        State.sweepBand_passed failed hold,
      State.sweepTo_vat, hafter]
  · -- REDYE_SWEEP_STEP
    intro n b l failed s hactive hserving hleft hload hended
    simp [execRedyeSweepStep, State.sweepResume_active hactive, hactive, hserving, hleft, hload, hended]
  · -- VOLUME_REF_RELEASE
    intro vol n x s t hx hstate hany ht
    subst ht
    simp [execVolumeRefRelease, hx, hstate, hany]
  · -- SNAPSHOT_REF_RELEASE
    intro n k x s t hx hstate ht
    subst ht
    simp only [exec_snapshotRefRelease, execSnapshotRefRelease, hx, hstate] <;> rfl

end Sys2Proof.Machine
end

section
/-! SUPPORT. Metadata (chapter 6): leaves that load, pages that are written back, checkpoints and live counts. -/

namespace Sys2Proof.Machine

/-- A dirty page is placed as a page of class 1 wherever its copy on flash is. -/
theorem State.metaClass_dirty (s : State) (b : Nat) : s.metaClass true b = 1 := by simp [State.metaClass]

/-- Settles O29: a load, a write-back, a checkpoint and a recount, each by the branches of its own row. -/
theorem metadataIsLoadedWrittenAndChecked : Obligations.MetadataIsLoadedWrittenAndChecked := by
  refine ⟨?_, ?_, ?_, ?_, ?_, ?_, ?_, ?_, ?_, ?_, ?_⟩
  · -- FTL_DIR_LOAD
    intro m kind space leaf pin snap s judged hbusy
    simp [execFtlDirLoad, State.dirLoad, State.busWr_done judged, hbusy]
  · -- FTL_DIR_LOAD
    intro m kind space leaf pin snap s judged hbusy
    simp [execFtlDirLoad, State.dirLoad, State.busWr_done judged, hbusy]
  · -- FTL_DIR_LOAD_DONE
    intro ok k pin s hload
    rw [exec_ftlDirLoadDone, execFtlDirLoadDone, hload]
    dsimp only
    refine ⟨fun hk => ?_, fun hk hhere => ?_, fun hk hhere hroot => ?_⟩
    · rw [if_pos hk]
    · rw [if_neg hk, if_pos hhere]
    · rw [if_neg hk, hhere, hroot, if_neg (by decide), if_pos (by decide)]
  · -- FTL_DIR_LOAD_DONE
    intro k pin s t hload hk hhere hroot
    rw [exec_ftlDirLoadDone, exec_ftlDirLoadDone, execFtlDirLoadDone, execFtlDirLoadDone, hload]
    simp only [hk, hhere, hroot, if_false, if_true, Bool.false_eq_true, Bool.not_true, Bool.not_false]
    refine ⟨fun hagain => ?_, fun hagain => ?_, fun hroom => ?_, fun hroom => ?_⟩
    · rw [if_pos hagain]
    · rw [hagain, if_neg (by decide)]
    · rw [hroom]
    · rw [hroom]
  · intro r s
    have key : F.FTL_DIR_STAT_BUSY.key ≠ F.FTL_DIR_STAT_RESULT.key := by decide
    refine ⟨rfl, ?_, fun hr => ?_⟩
    · exact (State.get_set_ne _ key _).trans (State.get_set_same _ _ _)
    · exact (State.get_set_same _ _ _).trans (Nat.mod_eq_of_lt (by rw [show F.FTL_DIR_STAT_RESULT.w = 3 from rfl]; omega))
  · -- PAGE_WRITE_BACK
    intro key kind ctb g s hkind hg hresident hdirty hpins hhome hused
    subst hkind
    cases ctb with
    | true =>
      simp [execPageWriteBack, State.pageBack, hg, hresident, hdirty, hpins, hhome, State.metaClass_dirty] <;> rfl
    | false =>
      have hempty : s.emptyPage key = false := hused.resolve_left (by decide)
      simp [execPageWriteBack, State.pageBack, hg, hresident, hdirty, hpins, hhome, hempty, State.metaClass_dirty] <;> rfl
  · -- PAGE_WRITE_BACK
    intro key g s hg hresident hdirty hpins hhomeOf hemptyPage
    simp [execPageWriteBack, State.pageBack, hg, hresident, hdirty, hpins, hhomeOf, hemptyPage]
  · -- PAGE_WRITE_BACK
    intro key s hsum hcopy hhome
    rw [exec_pageWriteBack, execPageWriteBack, if_neg (by decide), if_neg (by decide), if_pos rfl, State.sumBack]
    cases AL.get key s.ftl.sumAt with
    | none => simp only [hsum, hcopy, hhome, Bool.true_or, Bool.not_true, Bool.or_false, Bool.false_eq_true, if_false] <;> rfl
    | some l =>
      simp only [hsum, hcopy, hhome, State.metaClass_dirty, Bool.true_or, Bool.not_true, Bool.or_false, Bool.false_eq_true,
          if_false] <;> rfl
  · -- CHECKPOINT_WRITE
    intro rp s hserving hckptDue
    refine ⟨?_, ?_⟩
    · simp [execCheckpointWrite, hserving, hckptDue]
    · simp [execCheckpointWrite, hserving, hckptDue]
  · -- CHECKPOINT_WRITE
    intro ok rp s hserving
    simp [execCheckpointWrite, hserving]
  · -- LIVE_COUNT_RECOMPUTE
    intro s hphase
    simp only [exec_liveCountRecompute, execLiveCountRecompute, hphase] <;> rfl

end Sys2Proof.Machine
end

section
/-! SUPPORT. Chunks that are released, bands that are relocated, erased and scanned, the vault dump and recovery (chapter 6). -/

namespace Sys2Proof.Machine

theorem State.relocStart_unheld {s : State} {sh : Nat} (h : s.leaseHeld sh = false) : s.relocStart sh = s := by
  simp [State.relocStart, h]

/-- Settles O30: each row by its conditions; where one fails nothing changes. -/
theorem bandsRelocateEraseAndRecover : Obligations.BandsRelocateEraseAndRecover := by
  refine ⟨?_, ?_, ?_, ?_, ?_, ?_, ?_, ?_, ?_, ?_, ?_⟩
  · -- CHUNK_RELEASE
    intro cid t s hfind hcount hall hmovers hmode
    have hhorizon : (s.mode != .paired || decide (t ≤ s.get F.PRL_PEER_HORIZON_BEAT)) = true := by simpa using hmode
    rw [exec_chunkRelease, execChunkRelease, hfind]
    dsimp only
    rw [if_pos ⟨hcount, hall, by rw [hmovers] <;> rfl, hhorizon⟩]
  · -- RELOCATION_START
    intro s
    simp only [exec_relocationStart, execRelocationStart]
  · -- RELOCATION_START
    intro s h0 h1
    rw [exec_relocationStart, execRelocationStart, State.relocStart_unheld h0, State.relocStart_unheld h1]
  · -- BAND_ERASE
    intro b x s hx hstate herasing hheld hwaits hsaid herase
    rw [exec_bandErase, execBandErase, hx]
    dsimp only
    rw [if_pos (by simp [hstate, herasing, hheld, hwaits, hsaid]), State.eraseBand, if_neg herase] <;> rfl
  · -- BAND_ERASE
    intro b x s hx heraseWaits
    simp [execBandErase, hx, heraseWaits]
  · -- SCAN_READ
    intro b i row x m s u hx hen hstate hheld hm hu
    subst hu
    rw [exec_scanRead, execScanRead, hx]
    dsimp only
    rw [if_neg (by simp [hen, hstate, hheld]), hm]
  · -- SCAN_READ
    intro b i row x s hx hen
    simp [execScanRead, hx, hen]
  · -- VAULT_DUMP_END
    intro ok rows rw s u hactive hu hfails
    subst hu
    rw [exec_vaultDumpEnd, execVaultDumpEnd, hactive, if_neg (by decide)]
    exact congrArg _ (if_pos (by simpa [State.bump, or_assoc] using hfails))
  · -- VAULT_DUMP_END
    intro ok rows rw s hdumpActive
    simp [execVaultDumpEnd, hdumpActive]
  · -- VAULT_DUMP_END
    intro rows rw s u hactive hu hrows hroom
    subst hu
    rw [exec_vaultDumpEnd, execVaultDumpEnd, hactive, if_neg (by decide)]
    refine congrArg _ (if_neg ?_)
    rw [Bool.not_eq_true, Bool.or_eq_false_iff, Bool.or_eq_false_iff]
    exact ⟨⟨rfl, congrArg (!·) hrows⟩, congrArg (!·) hroom⟩
  · -- FTL_RECOVER
    intro lost s hmode
    refine ⟨?_, ?_, ?_⟩
    · intro hphase
      simp [execFtlRecover, hmode, hphase]
    · intro hphase
      simp [execFtlRecover, hmode, hphase]
    · intro hphase
      simp [execFtlRecover, hmode, hphase]

end Sys2Proof.Machine
end

section
/-! SUPPORT. Media links (chapter 7): flits that are judged, links that train, and the times they are given. -/

namespace Sys2Proof.Machine

/-- Settles O31: a flit is judged by its decoding, CRC and type, and a lane by its state and times. -/
theorem mediaLinksCarryFlits : Obligations.MediaLinksCarryFlits := by
  refine ⟨?_, ?_, ?_, ?_, ?_, ?_, ?_, ?_, ?_, ?_, ?_, ?_, ?_, ?_, ?_⟩
  · -- MEDIA_FLIT_RX
    intro ln flit f s hactive hf
    subst hf
    rw [exec_mediaFlitRx, execMediaFlitRx, if_pos hactive, State.mediaFlit]
  · intro ln k typ ack seq c v s u hu
    subst hu
    rfl
  · intro ln k typ ack seq c v s u hu
    subst hu
    refine ⟨fun hbad => ?_, fun htyp => ?_, ?_⟩
    · have hjudge : (!c || decide (3 < typ)) = true := by simpa using hbad
      exact if_pos hjudge
    · rcases htyp with rfl | rfl <;> rfl
    · rfl
  · intro ln k ack seq v s u hu
    subst hu
    refine ⟨fun hseq => ?_, fun hseq hold => ?_, fun hseq hnew => ?_⟩
    · exact if_pos hseq
    · exact (if_neg hseq).trans (if_pos hold)
    · exact (if_neg hseq).trans (if_neg (Nat.not_le.mpr hnew))
  · -- MEDIA_NAK_RX
    intro ln ack s hlinkActive
    simp [execMediaNakRx, hlinkActive]
  · -- MEDIA_REPLAY_TIMER
    intro ln s u hlinkActive hlink hlink' hu
    subst hu
    simp [execMediaReplayTimer, hlinkActive, hlink, hlink']
  · -- MDL_LINK_ENABLE, MDL_LINK_RETRAIN, MDL_LINK_DOWN
    intro m ln en s judged
    refine ⟨?_, ?_, ?_⟩
    · rw [exec_mdlLinkEnable, execMdlLinkEnable, State.busWr_done judged]
    · rw [exec_mdlLinkRetrain, execMdlLinkRetrain, State.busWr_done judged]
    · rw [exec_mdlLinkDown, execMdlLinkDown, State.busWr_done judged]
  · intro ln v s u hu
    subst hu
    refine ⟨fun hv => ?_, fun hv hst => ?_, fun hv hst hdown => ?_, fun hv hst hdown hretrain => ?_,
        fun hv hst hdown hretrain => ?_⟩
    · simp only [State.linkCtl, hv, if_true]
    · simp [State.linkCtl, hv ▸ hst, hv]
    · simp [State.linkCtl, hv ▸ hst, hv, hdown]
    · simp [State.linkCtl, hv ▸ hst, hv, hdown, hretrain]
    · have hstays : ¬ (bitOf v 2 = true ∧ (s.set (F.MDL_LINK_CTL_ENABLE ln) 1).get (F.MDL_LINK_STAT_STATE ln) = 4) := by
        rw [hv] at hretrain
        rintro ⟨hbit, h4⟩
        rcases hretrain with h | h
        · exact absurd hbit (by rw [h]; decide)
        · exact h h4
      rw [hv] at hst
      simp only [State.linkCtl, hv, hdown, hst, hstays, Nat.one_ne_zero, if_false, Bool.false_eq_true]
  · -- TRAINING_BLOCK_RX
    intro ln phase port a b c x y s hstate hstate'
    refine ⟨?_, ?_⟩
    · simp [execTrainingBlockRx, hstate, hstate']
    · simp [execTrainingBlockRx, hstate, hstate']
  · -- LINK_TRAIN_TIMEOUT
    intro ln s hstate hle
    simp [execLinkTrainTimeout, hstate, hle]
  · -- LINK_TRAIN_TIMEOUT
    intro ln s hstate hle
    simp [execLinkTrainTimeout, hstate, hle]
  · -- LINK_TRAIN_TIMEOUT
    intro ln s hstate hle
    simp [execLinkTrainTimeout, hstate, hle]
  · -- LINK_RECOVER_TIMEOUT
    intro ln s hstate htmo
    simp [execLinkRecoverTimeout, hstate, htmo]
  · -- BRICK_CREDIT_RX
    intro ln cmd wdata s hlinkActive
    simp [execBrickCreditRx, hlinkActive]
  · -- MEDIA_OP_TIMEOUT
    intro ln tag o s ho hdeadline
    simp [execMediaOpTimeout, ho, Nat.not_le.mpr hdeadline]

end Sys2Proof.Machine
end

section
/-! SUPPORT. Bricks (chapter 7): replies that end their request, events, the sideband, and the commands of BRK_CMD and DFM_CTL. -/

namespace Sys2Proof.Machine

section

variable {s : State} {m k op f : Nat} {acked : Bool}

theorem brkBus_done (judged : s.judge m (brkSlot k) (0x300 + 8 * (k % 16)) true true = none) (op : Nat) (acked : Bool) :
    brkBus m k op acked s = .next (s.brkCmd k op acked) := by
  rw [brkBus, State.busWr_done judged]

/-- A brick command that is allowed runs where none is busy. -/
theorem State.brkCmd_allowed (hbusy : s.get (F.BRK_CMD_STAT_BUSY k) ≠ 1) (h : s.brkAllowed k op = true) :
    s.brkCmd k op acked = s.brkRun k op acked := by
  rw [State.brkCmd, if_neg hbusy, if_pos h]

end

/-- Settles O32: a reply whose tag is outstanding ends its request by purpose, any other is judged as stray. -/
theorem bricksIdentifyReplyAndObey : Obligations.BricksIdentifyReplyAndObey := by
  refine ⟨?_, ?_, ?_, ?_, ?_, ?_, ?_, ?_, ?_, ?_, ?_, ?_, ?_⟩
  · -- BRICK_IDENT_RX, BRICK_OWNER_RX, BRICK_STATUS_RX, BRICK_READ_DATA_RX
    intro ln tag s hnone
    refine ⟨fun v sr ar dm fi fv fc cc wc po o => ?_, fun a b c d => ?_, fun a => ?_, fun a b c => ?_, fun hlate => ?_,
        fun hlate => ?_⟩
    · rw [exec_brickIdentRx, execBrickIdentRx, hnone]
    · rw [exec_brickOwnerRx, execBrickOwnerRx, hnone]
    · rw [exec_brickStatusRx, execBrickStatusRx, hnone]
    · rw [exec_brickReadDataRx, execBrickReadDataRx, hnone]
    · rw [State.strayReply, hlate, if_neg (by decide)]
    · rw [State.strayReply, if_pos hlate]
  · -- BRICK_IDENT_RX
    intro ln tag vendor serial arrayId dieMask fid fver fcheck cc wc port other op s u v htakeOp hv
    subst hv
    refine ⟨?_, ?_, ?_⟩
    · intro hbrick
      simp [execBrickIdentRx, htakeOp, hbrick]
    · intro hbrick hport
      simp [execBrickIdentRx, htakeOp, hbrick, hport]
    · intro hbrick hport
      simp [execBrickIdentRx, htakeOp, hbrick, hport]
  · -- BRICK_OWNER_RX
    intro ln tag ea eb sa sb op s u v htakeOp hv
    subst hv
    refine ⟨?_, ?_, ?_, ?_⟩
    · intro hpurpose hbrick
      simp [execBrickOwnerRx, htakeOp, hpurpose, hbrick]
    · intro hpurpose hbrick
      simp [execBrickOwnerRx, htakeOp, hpurpose, hbrick]
    · intro hpurpose hside
      simp [execBrickOwnerRx, htakeOp, hpurpose, hside]
    · intro hpurpose hside
      simp [execBrickOwnerRx, htakeOp, hpurpose, hside]
  · -- BRICK_STATUS_RX
    intro ln tag st op s u htakeOp
    simp only [exec_brickStatusRx, execBrickStatusRx, htakeOp]
  · -- BRICK_READ_DATA_RX
    intro ln tag st corrected retries op s u v w htakeOp hv hw
    subst hv hw
    refine ⟨?_, ?_, ?_⟩
    · intro hst
      simp [execBrickReadDataRx, htakeOp, hst]
    · intro hst
      simp [execBrickReadDataRx, htakeOp, hst]
    · intro hst hst'
      simp [execBrickReadDataRx, htakeOp, hst, hst']
  · -- IDENT_RETRY
    intro k s hstate hlinkActive hbrick hbrick'
    simp [execIdentRetry, hstate, hlinkActive, hbrick, hbrick']
  · -- BRICK_EVENT_RX
    intro ln die s hlinkActive
    refine ⟨?_, ?_, ?_, ?_, ?_⟩
    · simp [execBrickEventRx, hlinkActive]
    · simp [execBrickEventRx, hlinkActive]
    · simp [execBrickEventRx, hlinkActive]
    · simp [execBrickEventRx, hlinkActive]
    · intro code hcode hcode' hcode'' hcode'''
      simp [execBrickEventRx, hlinkActive, hcode, hcode', hcode'', hcode''']
  · -- SIDEBAND_ALERT
    intro k status temp s
    refine ⟨?_, ?_⟩
    · simp [execSidebandAlert]
    · simp [execSidebandAlert]
  · -- SIDEBAND_POLL
    intro k status temp s u b hb hbeat hu
    subst hu
    constructor
    · simp [execSidebandPoll, hb, Nat.not_lt.mpr hbeat]
    · simp [execSidebandPoll, hb, Nat.not_lt.mpr hbeat]
  · -- BRICK_ADOPT, BRICK_RELEASE, BRICK_FAIL, BRICK_ATTN_ON, BRICK_ATTN_OFF, BRICK_REFRESH
    intro m k acked s judged
    exact ⟨brkBus_done judged 1 true, brkBus_done judged 2 true, brkBus_done judged 3 true, brkBus_done judged 4 acked,
      brkBus_done judged 5 acked, brkBus_done judged 6 true⟩
  · -- BRICK_ADOPT, BRICK_RELEASE, BRICK_FAIL, BRICK_REFRESH, BRICK_ATTN_ON, BRICK_ATTN_OFF
    intro m k s judged hbusy
    have run (op : Nat) (acked : Bool) (h : s.brkAllowed k op = true) : brkBus m k op acked s = .next (s.brkRun k op acked) := by
      rw [brkBus_done judged, State.brkCmd_allowed hbusy h]
    refine ⟨fun hst hheld => ?_, fun hst => ?_, fun hst => ?_, fun hst => ?_, fun hst hsb => ⟨?_, ?_, ?_, ?_⟩⟩
    · exact run 1 true (by simp [State.brkAllowed, hst, hheld])
    · exact run 2 true (by simp [State.brkAllowed, hst])
    · exact run 3 true (by simp [State.brkAllowed, hst])
    · exact run 6 true (by simp [State.brkAllowed, hst])
    · exact run 4 true (by simp [State.brkAllowed, hst, hsb])
    · exact run 5 true (by simp [State.brkAllowed, hst, hsb])
    · exact run 4 false (by simp [State.brkAllowed, hst, hsb])
    · exact run 5 false (by simp [State.brkAllowed, hst, hsb])
  · intro k op acked s
    constructor
    · intro hbusy
      rw [State.brkCmd, if_pos hbusy]
    · intro hbusy hallowed
      rw [State.brkCmd, if_neg hbusy, hallowed, if_neg (by decide)]
  · -- DFM_LOAD, DFM_UNLOAD
    intro m f s judged
    constructor
    · intro hbusy
      constructor
      · rw [exec_dfmLoad, execDfmLoad, State.busWr_done judged, State.dfmCtl, if_pos hbusy]
      · rw [exec_dfmUnload, execDfmUnload, State.busWr_done judged, State.dfmCtl, if_pos hbusy]
    · intro hbusy
      constructor
      · rw [exec_dfmLoad, execDfmLoad, State.busWr_done judged, State.dfmCtl, if_neg hbusy, if_pos rfl]
      · rw [exec_dfmUnload, execDfmUnload, State.busWr_done judged, State.dfmCtl, if_neg hbusy, if_neg (by decide), if_pos rfl]

end Sys2Proof.Machine
end

section
/-! SUPPORT. Digest jobs, keys and the hardening of the slices (chapter 8). -/

namespace Sys2Proof.Machine

/-- Settles O33: a job runs in the slice it is bound to, and ends by the first check of its descriptor or key that fails. -/
theorem digestJobsKeysAndHardening : Obligations.DigestJobsKeysAndHardening := by
  refine ⟨?_, ?_, ?_, ?_, ?_, ?_, ?_, ?_, ?_, ?_⟩
  · -- DIGEST_SUBMIT
    intro m i addr s judged hroom
    simp [execDigestSubmit, State.busWr_done judged, State.digestSubmit, hroom]
  · -- DIGEST_SUBMIT
    intro m i addr s judged hfull
    simp [execDigestSubmit, State.busWr_done judged, State.digestSubmit, hfull]
  · -- DIGEST_JOB_END
    intro tag r s hr hstage hkind hover
    have hhmac : r.kind ≠ .hmac := by rw [hkind]; decide
    rw [exec_digestJobEnd, execDigestJobEnd, hr]
    dsimp only
    rw [if_neg (not_not_intro hstage), if_neg hhmac, if_pos hkind, hover, if_neg (by decide)]
    exact ⟨fun hcheck => by rw [if_pos hcheck], fun hcheck => by rw [if_neg (not_not_intro hcheck)]⟩
  · -- DIGEST_JOB_END
    intro tag r s hr hstage hkind
    refine ⟨?_, ?_⟩
    · intro hallows hkeyReady hdigestOver
      simp [execDigestJobEnd, hr, hstage, hkind, hallows, hkeyReady, hdigestOver]
    · intro hallows
      simp [execDigestJobEnd, hr, hstage, hkind, hallows]
  · -- DIG_DONE_QREAD
    intro m i d t s judged hslice
    simp only [exec_digDoneQRead, execDigDoneQRead, State.busRd_done judged, hslice]
  · -- DIG_DONE_QREAD
    intro m i s judged hslice
    simp only [exec_digDoneQRead, execDigDoneQRead, State.busRd_done judged, hslice]
  · -- KEY_FETCH_DONE
    intro i h e s u he hfetching hu
    subst hu
    refine ⟨fun hnone => ?_, fun q hq => ?_⟩
    · rw [exec_keyFetchDone, execKeyFetchDone, he]
      simp only [hfetching, hnone, Bool.not_true, Bool.false_eq_true, if_false]
    · rw [exec_keyFetchDone, execKeyFetchDone, he]
      simp only [hfetching, hq, Bool.not_true, Bool.false_eq_true, if_false]
  · -- KEY_HANDLE_REMOVE
    intro h k s hk hremoving hany
    simp [execKeyHandleRemove, hk, hremoving, hany]
  · -- SLICE_RNG_RESEED
    intro i s hready
    simp [execSliceRngReseed, hready]
  · -- SEC_HARDEN_WRITE
    intro m dummy shuffle s judged
    simp only [exec_secHardenWrite, execSecHardenWrite, State.busWr_done judged]

end Sys2Proof.Machine
end

section
/-! SUPPORT. Host ports (chapter 10): ports that follow their lock, detection, received frames and pauses. -/

namespace Sys2Proof.Machine

section

variable {s : State} {p : Nat} {f : Frame}

/-- A frame that reaches an UP port of a live HFI is judged. -/
theorem execHfiFrameRx_live (hl : s.hfiLive = true) (hp : s.portUp p = true) : execHfiFrameRx p f s = .next (s.frameRx p f) := by
  rw [execHfiFrameRx, if_pos ⟨hl, hp⟩]

end

/-- Settles O34: ports, frames and pauses, each by the state of its port and interface. -/
theorem portsFramesAndPausesAct : Obligations.PortsFramesAndPausesAct := by
  refine ⟨?_, ?_, ?_, ?_, ?_, ?_, ?_, ?_, ?_, ?_⟩
  · -- PORT_LINK_CHANGE
    intro p s hp href hfree hstate
    rw [exec_portLinkChange, execPortLinkChange, if_pos hp, State.portLink]
    rw [if_pos ⟨rfl, href, hfree⟩, if_pos hstate]
  · -- PORT_LINK_CHANGE
    intro p s hp hstate
    rw [exec_portLinkChange, execPortLinkChange, if_pos hp, State.portLink]
    simp [hstate]
  · -- HFI_DETECT_STEP
    intro q b s hb hbeat
    refine ⟨fun hup => ?_, fun hup => ?_⟩
    · simp [execHfiDetectStep, hb, Nat.not_lt.mpr hbeat, hup, quadOf]
    · simp [execHfiDetectStep, hb, Nat.not_lt.mpr hbeat, hup, quadOf]
  · -- HFI_FRAME_RX
    intro p f s u hlive hup hu herr
    subst hu
    rw [exec_hfiFrameRx, execHfiFrameRx_live hlive hup, State.frameRx]
    simp only [herr, if_true]
  · -- HFI_FRAME_RX
    intro p f s u hlive hup herr hu
    subst hu
    rw [exec_hfiFrameRx, execHfiFrameRx_live hlive hup, State.frameRx]
    simp only [herr, Bool.false_eq_true, if_false]
    refine ⟨fun c hc => ?_, fun hnone hkind => ?_, fun hnone hkind => ?_, fun hnone hkind => ?_⟩
    · rw [hc]
    · rw [hnone]
      simp only [hkind, if_true]
    · rw [hnone]
      simp only [hkind, Nat.reduceLeDiff, if_true, if_false]
    · rw [hnone]
      simp only [show ¬ f.kind ≤ 1 by omega, Nat.ne_of_gt hkind, if_false]
  · -- PFC_XOFF
    intro p prio bytes s hhfiLive hportUp hpfcOn hpfcPct hhas
    simp [execPfcXoff, hhfiLive, hportUp, hpfcOn, hpfcPct, hhas]
  · -- PFC_REFRESH
    intro p prio bytes b s hb hb' hpfcPart hportUp
    simp [execPfcRefresh, hb, hb', hpfcPart, hportUp]
  · -- PFC_XON
    intro p prio bytes s hhas hbytes
    simp [execPfcXon, hhas, hbytes]
  · -- PFC_FRAME_RX
    intro p quanta s hhfiLive hportUp
    simp [execPfcFrameRx, hhfiLive, hportUp]
  · -- PFC_PAUSE_EXPIRE
    intro p prio t s ht ht'
    simp [execPfcPauseExpire, ht, ht']

end Sys2Proof.Machine
end

section
/-! SUPPORT. Host connections, queues and controllers (chapter 10): what the answers to a waiting Connect and the controller commands do. -/

namespace Sys2Proof.Machine

section

variable {s : State} {u slot idx : Nat}

/-- The answer to a slot that is free raises the mismatch (R444). -/
theorem State.connectAnswer_free (action : Nat) (h : AL.get (64 * u + slot) s.host.slots = none) :
    s.connectAnswer u slot action = s.raise (nvtSlot u 1) Cond.NVT_CONNECT_MISMATCH slot := by
  simp only [State.connectAnswer, h]

/-- A controller command while one is busy is refused. -/
theorem State.ctrlCmd_busy (op : Nat) (h : s.get (F.NVT_CTRL_CMD_STAT_BUSY u) = 1) :
    s.ctrlCmd u op idx = s.raise (nvtSlot u 1) Cond.NVT_CTRL_CMD_BUSY idx := by
  simp only [State.ctrlCmd, h, if_true]

/-- A controller command on a controller that is not live ends with RESULT 2. -/
theorem State.ctrlCmd_notLive (op : Nat) (hb : s.get (F.NVT_CTRL_CMD_STAT_BUSY u) ≠ 1)
    (h : ∀ x, s.ctrl (1024 * u + idx) = some x → x.st ≠ 2) : s.ctrlCmd u op idx = s.ctrlCmdEnd u 2 := by
  unfold State.ctrlCmd
  rw [if_neg hb]
  cases hx : s.ctrl (1024 * u + idx) with
  | none => rfl
  | some x => exact if_pos (h x hx)

end

/-- Settles O35: each command's effect under the checks it passes or fails. -/
theorem connectionsAndQueuesOpenAndEnd : Obligations.ConnectionsAndQueuesOpenAndEnd := by
  refine ⟨?_, ?_, ?_, ?_, ?_, ?_, ?_, ?_, ?_, ?_, ?_, ?_, ?_, ?_, ?_, ?_, ?_, ?_, ?_, ?_, ?_, ?_, ?_⟩
  · -- TCP_SYN_RX
    intro g ifc port mac window l c v6 ecn i s v hhfiLive hg hi hportUp hv hl hc
    subst hv
    simp [execTcpSynRx, hhfiLive, hg, hi, hportUp, hl, hc]
  · -- TCP_SYN_RX
    intro g ifc port mac window l v6 ecn i s v hlive hg hi hup hv
    subst hv
    refine ⟨fun hl => ?_, fun hl hc => ?_⟩
    · simp [execTcpSynRx, hlive, Nat.not_le.mpr hg, hi, hup, hl]
    · have prio : ((s.bump (F.NVT_CNT_SYN_COUNT g)).bump (F.NVT_CNT_SYN_REFUSED_COUNT g)).get (F.HFI_PRIO_MAP_NVT g) =
          (s.bump (F.NVT_CNT_SYN_COUNT g)).get (F.HFI_PRIO_MAP_NVT g) :=
        State.get_bump_ne _ (by simp only [Fld.key, F.HFI_PRIO_MAP_NVT, F.NVT_CNT_SYN_REFUSED_COUNT]; omega) 1
      simp [execTcpSynRx, hlive, Nat.not_le.mpr hg, hi, hup, hl, hc, prio]
  · -- TCP_SEGMENT_RX
    intro c ack window dup fin ce ece cwr x s hx hhfiLive
    simp [execTcpSegmentRx, hx, hhfiLive]
  · -- TCP_SEGMENT_RX
    intro c ack window dup fin ce ece cwr x s u hx hhfiLive hu
    subst hu
    simp [execTcpSegmentRx, hx, hhfiLive]
  · -- TCP_RETRANSMIT_TIMEOUT
    intro c b x i s hx hi hinFlight hb hb' hmayLeave
    simp [execTcpRetransmitTimeout, hx, hi, hinFlight, hb, hb', hmayLeave]
  · -- TCP_TIME_WAIT_EXPIRE
    intro c x s hx htcp hstateBeat
    simp [execTcpTimeWaitExpire, hx, htcp, hstateBeat]
  · -- NVT_ICREQ_RX
    intro c pfv hpda hd dd x s v hx hnvt hv
    subst hv
    simp [execNvtIcreqRx, hx, hnvt]
  · -- NVT_ICREQ_TIMEOUT
    intro c x s hx hnvt hstateBeat
    simp [execNvtIcreqTimeout, hx, hnvt, hstateBeat]
  · -- NVME_CONNECT_ADMIN
    intro c cid flags sqsize kato k w data x s v hx hmayConnect hflagsOk hv hk
    subst hv
    refine ⟨?_, ?_, ?_⟩
    · intro hdisc hw
      simp [execNvmeConnectAdmin, hx, hmayConnect, hflagsOk, hk, hdisc, hw]
    · intro hdisc hfreeKey
      simp [execNvmeConnectAdmin, hx, hmayConnect, hflagsOk, hk, hdisc, hfreeKey]
    · intro hdisc
      simp [execNvmeConnectAdmin, hx, hmayConnect, hflagsOk, hk, hdisc]
  · -- NVME_CONNECT_ADMIN
    intro c cid flags sqsize kato data x s v hx hmayConnect hv
    subst hv
    refine ⟨?_, ?_⟩
    · intro hflagsOk
      simp [execNvmeConnectAdmin, hx, hmayConnect, hflagsOk]
    · intro hflagsOk hfreeKey
      simp [execNvmeConnectAdmin, hx, hmayConnect, hflagsOk, hfreeKey]
  · -- NVME_CONNECT_IO
    intro c cid flags qid sqsize id k data x s v hx hmayConnect hflagsOk hv hconnectIoStatus hid hk
    subst hv
    simp_all [execNvmeConnectIo]
  · -- NVME_CONNECT_IO
    intro c cid flags qid sqsize data x s v hx hmay hv
    subst hv
    refine ⟨fun hf => ?_, fun hf hst => ?_⟩
    · simp [execNvmeConnectIo, hx, hmay, hf, nvmeStatus]
    · simp [execNvmeConnectIo, hx, hmay, hf, hst]
  · -- NVT_CONNECT_QREAD
    intro m g w x s judged hw hx
    simp only [exec_nvtConnectQRead, execNvtConnectQRead, State.busRd_done judged, State.connectQRead, hw, hx]
  · -- NVT_CONNECT_QREAD
    intro m g s judged hw
    simp only [exec_nvtConnectQRead, execNvtConnectQRead, State.busRd_done judged, State.connectQRead, hw]
  · -- NVT_CONNECT_ACCEPT, NVT_CONNECT_REFUSE_HOST, NVT_CONNECT_REFUSE_BUSY
    intro m g slot x s u v judged hx hu hv
    subst hv hu
    refine ⟨?_, ?_, ?_⟩
    · simp [execNvtConnectAccept, connectAnsBus, State.busWr_done judged, State.connectAnswer, hx]
    · simp [execNvtConnectRefuseHost, connectAnsBus, State.busWr_done judged, State.connectAnswer, hx]
    · simp [execNvtConnectRefuseBusy, connectAnsBus, State.busWr_done judged, State.connectAnswer, hx]
  · -- NVT_CONNECT_ACCEPT, NVT_CONNECT_REFUSE_HOST, NVT_CONNECT_REFUSE_BUSY
    intro m g slot s judged hx
    refine ⟨?_, ?_, ?_⟩
    · rw [exec_nvtConnectAccept, execNvtConnectAccept, connectAnsBus, State.busWr_done judged, State.connectAnswer_free 1 hx]
    · rw [exec_nvtConnectRefuseHost, execNvtConnectRefuseHost, connectAnsBus, State.busWr_done judged,
        State.connectAnswer_free 2 hx]
    · rw [exec_nvtConnectRefuseBusy, execNvtConnectRefuseBusy, connectAnsBus, State.busWr_done judged,
        State.connectAnswer_free 3 hx]
  · -- NVT_CONNECT_TIMEOUT
    intro g slot x s hx hbeat
    simp [execNvtConnectTimeout, hx, hbeat]
  · -- KEEP_ALIVE_EXPIRED
    intro k x s hx hst hkato hlastBeat
    simp [execKeepAliveExpired, hx, hst, hkato, hlastBeat]
  · -- NVT_CTRL_TEARDOWN, NVT_ATTACH_CHANGED
    intro m g idx x s judged hbusy hx hst
    refine ⟨?_, ?_⟩
    · simp [execNvtCtrlTeardown, State.busWr_done judged, State.ctrlCmd, hbusy, hx, hst]
    · simp [execNvtAttachChanged, State.busWr_done judged, State.ctrlCmd, hbusy, hx, hst]
  · -- NVT_CTRL_TEARDOWN, NVT_ATTACH_CHANGED
    intro m g idx s judged
    simp only [exec_nvtCtrlTeardown, execNvtCtrlTeardown, exec_nvtAttachChanged, execNvtAttachChanged, State.busWr_done judged]
    refine ⟨fun hbusy => ?_, fun hbusy hx => ?_⟩
    · exact ⟨congrArg _ (State.ctrlCmd_busy 1 hbusy), congrArg _ (State.ctrlCmd_busy 2 hbusy)⟩
    · exact ⟨congrArg _ (State.ctrlCmd_notLive 1 hbusy hx), congrArg _ (State.ctrlCmd_notLive 2 hbusy hx)⟩
  · -- NVT_H2C_DATA_RX
    intro c ttag off len data last x r s u hx htcp hlive hr hoff hgot hlen hu
    subst hu
    refine ⟨?_, ?_⟩
    · simp [execNvtH2cDataRx, hx, htcp, hlive, hr, hoff, Nat.not_lt.mpr hgot, Nat.not_lt.mpr hlen]
    · simp [execNvtH2cDataRx, hx, htcp, hlive, hr, hoff, Nat.not_lt.mpr hgot, Nat.not_lt.mpr hlen]
  · -- NVT_H2C_DATA_RX
    intro c ttag off len data last dd x s u hx htcp hlive hu
    subst hu
    refine ⟨fun ho => ?_, ?_, fun hr => ?_, fun r hr => ⟨fun hoff => ?_, fun hoff hlen => ?_, fun hoff hgot hlen => ?_⟩⟩
    · simp [execNvtH2cDataRx, hx, htcp, hlive]
    · simp [execNvtH2cDataRx, hx, htcp, hlive]
    · simp [execNvtH2cDataRx, hx, htcp, hlive, hr]
    · simp [execNvtH2cDataRx, hx, htcp, hlive, hr, hoff]
    · simp [execNvtH2cDataRx, hx, htcp, hlive, hr, hoff, hlen]
    · simp [execNvtH2cDataRx, hx, htcp, hlive, hr, hoff, Nat.not_lt.mpr hgot, hlen]
  · -- NVT_H2C_TERM_REQ_RX
    intro c x s hx htcp hhfiLive
    simp [execNvtH2cTermReqRx, hx, htcp, hhfiLive]

end Sys2Proof.Machine
end

section
/-! SUPPORT. Admin commands and the self-test (chapter 10). -/

namespace Sys2Proof.Machine

section

variable {s u : State} {c cid flags k : Nat} {x : TcpConn} {y : Ctrl}

/-- A discovery controller refuses a command that is not of discovery (R432). -/
theorem State.nvmeAdmin_notOfDiscovery (turn : s.NvmeTurn c k x y) (hx : x.nvt = 3) (hy : y.disc = true) (f : State → Nat → Ctrl → State) :
    s.nvmeAdmin c cid flags false f = (s.nvmeCounted c k (2 ^ 20)).nvmeResp c cid stOpcode 0 0 := by
  rw [State.nvmeAdmin, State.nvmeTake_turn turn]
  simp [hx, hy]

/-- An admin command with sound flags on an I/O controller runs. -/
theorem State.nvmeAdmin_ofIo (h : s.AdminTurn c flags k x y u) (hy : y.disc = false) (disc : Bool) (f : State → Nat → Ctrl → State) :
    s.nvmeAdmin c cid flags disc f = f u k y :=
  State.nvmeAdmin_turn h cid (.inl hy) f

/-- A command of discovery with sound flags runs on every controller. -/
theorem State.nvmeAdmin_ofDiscovery (h : s.AdminTurn c flags k x y u) (f : State → Nat → Ctrl → State) :
    s.nvmeAdmin c cid flags true f = f u k y :=
  State.nvmeAdmin_turn h cid (.inr rfl) f

end

section

variable {s : State} {t : SelfTest}

/-- Segment 5 waits for the read it has begun (R453). -/
theorem State.testData_waiting (h : (t.read.bind s.req).isSome = true) : s.testData t = (false, s) := by
  rw [State.testData, if_pos h]

/-- Segment 5 has read every chunk. -/
theorem State.testData_done (h : (t.read.bind s.req).isSome = false)
    (hl : t.todo.getD (t.scope.flatMap (fun v => s.testBlocks t.code v)) = []) : s.testData t = (true, s) := by
  rw [State.testData, if_neg (by simp only [h, Bool.false_eq_true, not_false_eq_true]), hl]

/-- Segment 5 reads its next chunk. -/
theorem State.testData_next {u : State} {v lba tag : Nat} {rest : List (Nat × Nat)} (h : (t.read.bind s.req).isSome = false)
    (hl : t.todo.getD (t.scope.flatMap (fun v => s.testBlocks t.code v)) = (v, lba) :: rest)
    (hu : (tag, u) = s.newReq { tag := 0, kind := .read, origin := .selftest, vol := v, lba := lba, blocks := 1, cls := 6 } true) :
    s.testData t =
      (false, (u.modHost (fun h => { h with selftest := some { t with todo := some rest, read := some tag } })).resolve tag []) := by
  rw [State.testData, if_neg (by simp only [h, Bool.false_eq_true, not_false_eq_true]), hl]
  dsimp only
  rw [← hu]

end

/-- Settles O36: on its turn an admin command runs what `State.nvmeAdmin` is given; the clauses are the branches of each. -/
theorem adminCommandsComplete : Obligations.AdminCommandsComplete := by
  refine ⟨?_, ?_, ?_, ?_, ?_, ?_, ?_, ?_, ?_, ?_, ?_, ?_, ?_, ?_⟩
  · -- NVME_IDENTIFY
    intro c cid flags k nsid cns x y s u h
    simp only [exec_nvmeIdentify, execNvmeIdentify, State.nvmeAdmin_ofDiscovery h]
    refine ⟨fun hc => ?_, fun hd hc => ?_, fun hd hc => ?_, fun hd hn ha => ⟨fun hc => ?_, fun hc => ?_⟩, fun hd hn => ?_,
        fun hd hc => ?_⟩
    · rw [if_pos hc]
    · rw [if_neg hc, if_pos hd]
    · subst hc
      simp [hd]
    · subst hc
      simp [hd, hn, List.contains_iff_mem.mp ha]
    · subst hc
      simp [hd, hn, List.contains_iff_mem.mp ha]
    · have absent : ((u.activeNs y).contains (nsid - 1) && nsid != 0) = false := by
        rcases hn with hn | hn
        · simp [hn]
        · rw [hn, Bool.false_and]
      refine ⟨fun hc => ?_, fun hc => ?_⟩
      · rw [if_neg (by omega), if_neg (by simp [hd]), if_pos hc, absent, if_neg Bool.false_ne_true]
      · rw [if_neg (by omega), if_neg (by simp [hd]), if_neg (by omega), if_neg (by omega), absent,
          if_neg (fun hboth => Bool.false_ne_true hboth.2), if_pos hc]
    · rw [if_neg (by omega), if_neg (by simp [hd]), if_neg (by omega), if_neg (by omega), if_neg (by omega), if_neg (by omega)]
  · -- NVME_GET_FEATURES, NVME_SET_FEATURES
    intro c cid flags k fid v x y s u h hd
    simp only [exec_nvmeGetFeatures, execNvmeGetFeatures, exec_nvmeSetFeatures, execNvmeSetFeatures, State.nvmeAdmin_ofIo h hd]
    refine ⟨trivial, fun hf => ?_, fun hf => ?_, fun hf => ?_, fun h7 hB hF => ?_⟩
    · rw [if_pos hf]
    · subst hf
      rfl
    · subst hf
      rfl
    · rw [if_neg h7, if_neg hB, if_neg hF]
  · -- NVME_GET_LOG_PAGE
    intro c cid flags k nsid lid off len rae x y s u give h hgive
    subst hgive
    simp only [exec_nvmeGetLogPage, execNvmeGetLogPage, State.nvmeAdmin_ofDiscovery h]
    refine ⟨fun hd => ?_, fun hd hl hn => ?_, fun hd hl h0 hall => ?_, fun hd hl => ?_, fun hd hl => ?_, fun hd hl => ?_,
        fun hd hl => ?_,
      fun hd hl => ?_⟩
    · rw [if_pos hd]
    · subst hl
      simp [hd, if_pos hn]
    · subst hl
      simp [hd, h0, hall]
    · subst hl
      simp [hd]
    · subst hl
      simp [hd]
    · subst hl
      simp [hd]
    · subst hl
      simp [hd]
    · simp only [List.mem_cons, List.not_mem_nil, or_false, not_or] at hl
      obtain ⟨h2, h4, h6, hC, hC0⟩ := hl
      simp [hd, h2, h4, h6, hC, hC0]
  · -- NVME_DEVICE_SELF_TEST
    intro c cid flags k nsid code x y s u t h hd ht
    simp only [exec_nvmeDeviceSelfTest, execNvmeDeviceSelfTest, State.nvmeAdmin_ofIo h hd]
    refine ⟨fun hc => ?_, fun hF h1 h2 => ?_, fun hc h0 hall ha => ?_, fun hc hn => ?_⟩
    · rw [if_pos hc]
    · rw [if_neg hF, if_pos ⟨h1, h2⟩]
    · rw [if_neg (by omega), if_neg (by omega), if_pos ⟨h0, hall, by rw [ha]; rfl⟩]
    · have inScope : ¬ (nsid ≠ 0 ∧ nsid ≠ 0xFFFFFFFF ∧ (!(u.activeNs y).contains (nsid - 1)) = true) := by
        rintro ⟨h0, hall, ha⟩
        rw [(hn.resolve_left h0).resolve_left hall] at ha
        exact Bool.false_ne_true ha
      subst ht
      rw [if_neg (by omega), if_neg (by omega), if_neg inScope]
  · -- NVME_ABORT
    intro c cid flags k sqid acid x y s u h hd
    simp only [exec_nvmeAbort, execNvmeAbort, State.nvmeAdmin_ofIo h hd]
    refine ⟨fun h4 => ?_, fun h4 hq ha => ?_, fun h4 hn => ?_⟩
    · rw [if_pos h4]
    · rw [if_neg (Nat.not_le.mpr h4), if_pos ⟨hq, ha⟩]
    · have notAer : ¬ (sqid = 0 ∧ y.aers.contains acid = true) := by
        rintro ⟨hq, ha⟩
        rw [hn.resolve_left (not_not_intro hq)] at ha
        exact Bool.false_ne_true ha
      rcases u.abortTarget k sqid acid with _ | ⟨t, r⟩ <;> rw [if_neg (Nat.not_le.mpr h4), if_neg notAer]
  · -- NVME_KEEP_ALIVE
    intro c cid flags k x y s u h
    rw [exec_nvmeKeepAlive, execNvmeKeepAlive, State.nvmeAdmin_ofDiscovery h]
  · -- NVME_ASYNC_EVENT_REQUEST
    intro c cid flags k x y s u h hd
    simp only [exec_nvmeAsyncEventRequest, execNvmeAsyncEventRequest, State.nvmeAdmin_ofIo h hd]
    exact ⟨fun h8 => by rw [if_neg (Nat.not_le.mpr h8)], fun h8 => by rw [if_pos h8]⟩
  · -- NVME_PROPERTY_GET, NVME_PROPERTY_SET
    intro c cid flags k ofs v x y s u h
    simp only [exec_nvmePropertyGet, execNvmePropertyGet, exec_nvmePropertySet, execNvmePropertySet,
        State.nvmeAdmin_ofDiscovery h, and_self]
  · -- NVME_GET_FEATURES, NVME_SET_FEATURES, NVME_DEVICE_SELF_TEST, NVME_ABORT, NVME_ASYNC_EVENT_REQUEST
    intro c cid flags k a b x y s u turn hx hd hu
    subst hu
    refine ⟨?_, ?_, ?_, ?_, ?_⟩
    · rw [exec_nvmeGetFeatures, execNvmeGetFeatures, State.nvmeAdmin_notOfDiscovery turn hx hd]
    · rw [exec_nvmeSetFeatures, execNvmeSetFeatures, State.nvmeAdmin_notOfDiscovery turn hx hd]
    · rw [exec_nvmeDeviceSelfTest, execNvmeDeviceSelfTest, State.nvmeAdmin_notOfDiscovery turn hx hd]
    · rw [exec_nvmeAbort, execNvmeAbort, State.nvmeAdmin_notOfDiscovery turn hx hd]
    · rw [exec_nvmeAsyncEventRequest, execNvmeAsyncEventRequest, State.nvmeAdmin_notOfDiscovery turn hx hd]
  · -- NVME_DISCONNECT, NVME_INVALID_OPCODE
    intro c cid flags k x y s u turn hu
    subst hu
    simp only [exec_nvmeDisconnect, execNvmeDisconnect, exec_nvmeInvalidOpcode, execNvmeInvalidOpcode, State.nvmeTake_turn turn]
    refine ⟨fun hd => ?_, fun hd hf => ?_, fun hd hf => ?_, trivial⟩
    · rw [if_pos hd]
    · simp [hd, hf]
    · simp [hd, hf]
  · -- SELFTEST_SEGMENT
    intro ok t s ht
    simp only [exec_selftestSegment, execSelftestSegment, ht]
    refine ⟨fun hgone => ?_, fun hlive hload => ?_, fun hlive hload h5 hreq => ?_⟩
    · rw [if_pos hgone]
    · simp [hlive, hload]
    · simp [hlive, hload, h5, State.testData_waiting hreq]
  · -- SELFTEST_SEGMENT
    intro ok t z s ht hlive hload h5 hdone hz
    subst hz
    simp only [exec_selftestSegment, execSelftestSegment, ht, hlive, hload, h5, if_true,
        State.testData_done hdone.1 hdone.2, Bool.not_true,
      Bool.false_eq_true, if_false]
    exact ⟨fun _ => rfl, fun h6 => absurd h6 (by decide)⟩
  · -- SELFTEST_SEGMENT
    intro ok t v lba tag rest s u ht hlive hload h5 hreq hl hu
    simp only [exec_selftestSegment, execSelftestSegment, ht, hlive, hload, h5, if_true, State.testData_next hreq hl hu,
        Bool.not_true,
      Bool.not_false, Bool.false_eq_true, if_false]
  · -- SELFTEST_TIMEOUT
    intro t s ht hcode hbeat
    simp [execSelftestTimeout, ht, hcode, hbeat]

end Sys2Proof.Machine
end

section
/-! SUPPORT. I/O commands of NVMe connections (chapter 10): a command that is taken ends with the first check it fails, or becomes its request. -/

namespace Sys2Proof.Machine

section

variable {s v : State} {c cid flags k t limit : Nat} {x : TcpConn} {y : Ctrl} {r q : Req} {f : State → Nat → Req → State}

/-- An I/O command that is taken stops at its first failed check, then at a notice that is due, and else has its own effect. -/
theorem State.nvmeIo_taken (h : s.IoIn c cid k x y r q t v) :
    s.nvmeIo c cid flags limit r f =
      if v.ioStops flags limit x y r.vol ≠ 0 then v.finish t (v.ioStops flags limit x y r.vol)
      else match v.takeNotice x.cntlid r.vol with
        | some w => w.finish t Cond.DEFERRED_ERROR
        | none => f v t q := by
  obtain ⟨turn, rfl, hnew⟩ := h
  unfold State.nvmeIo
  rw [State.nvmeTake_turn turn]
  dsimp only
  rw [← hnew]
  unfold State.ioStops
  by_cases hq : x.nvt ≠ 4
  · rw [if_pos hq, if_pos hq, if_pos (by decide : outcome stOpcode ≠ 0)]
  rw [if_neg hq, if_neg hq]
  by_cases hf : (!flagsOk flags) = true
  · rw [if_pos hf, if_pos hf, if_pos (by decide : outField ≠ 0)]
  rw [if_neg hf, if_neg hf]
  by_cases hl : limit ≠ 0
  · rw [if_pos hl, if_pos hl, if_pos hl]
  rw [if_neg hl, if_neg hl]
  by_cases ha : (!y.attach.contains r.vol || (v.liveVol r.vol).isNone) = true
  · rw [if_pos ha, if_pos ha, if_pos (by decide : Cond.VOLUME_ABSENT ≠ 0)]
  · rw [if_neg ha, if_neg ha, if_neg (by decide : ¬ 0 ≠ 0)] <;> cases v.takeNotice x.cntlid r.vol <;> rfl

theorem State.nvmeIo_stopped (h : s.IoIn c cid k x y r q t v) (hst : v.ioStops flags limit x y r.vol ≠ 0) :
    s.nvmeIo c cid flags limit r f = v.finish t (v.ioStops flags limit x y r.vol) := by
  rw [State.nvmeIo_taken h, if_pos hst]

theorem State.nvmeIo_noticed {w : State} (h : s.IoIn c cid k x y r q t v) (hst : v.ioStops flags limit x y r.vol = 0)
    (hw : v.takeNotice x.cntlid r.vol = some w) : s.nvmeIo c cid flags limit r f = w.finish t Cond.DEFERRED_ERROR := by
  rw [State.nvmeIo_taken h, if_neg (not_not_intro hst), hw]

theorem State.nvmeIo_runs (h : s.IoIn c cid k x y r q t v) (hst : v.ioStops flags limit x y r.vol = 0)
    (hw : v.takeNotice x.cntlid r.vol = none) : s.nvmeIo c cid flags limit r f = f v t q := by
  rw [State.nvmeIo_taken h, if_neg (not_not_intro hst), hw]

end

/-- A Flush that is taken stops at its first failed check, and else waits for the volumes it names (R443). -/
theorem execNvmeFlush_taken {s v : State} {c cid flags k nsid t : Nat} {vols : List Nat} {x : TcpConn} {y : Ctrl} {q : Req}
    (turn : s.NvmeTurn c k x y) (hvols : vols = if nsid = 0xFFFFFFFF then y.attach else [volOf nsid])
    (hq : q = { flushReq vols with origin := .nvt c cid, assoc := x.cntlid })
    (hnew : (t, v) = (s.nvmeCounted c k (volOf nsid)).newReq q
      (nsid != 0xFFFFFFFF && ((s.nvmeCounted c k (volOf nsid)).liveVol q.vol).isSome)) :
    execNvmeFlush c cid flags nsid s = .next (
      if x.nvt ≠ 4 then v.finish t (outcome stOpcode)
      else if !flagsOk flags then v.finish t outField
      else if nsid ≠ 0xFFFFFFFF ∧ (!y.attach.contains (volOf nsid) ∨ (v.liveVol (volOf nsid)).isNone) then v.finish t Cond.VOLUME_ABSENT
      else match vols.findSome? (fun u => v.takeNotice x.cntlid u) with
        | some w => w.finish t Cond.DEFERRED_ERROR
        | none => if v.anaRefusal ≠ 0 then v.finish t v.anaRefusal else v.modReq t (fun r => { r with stage := .waiting })) := by
  subst hvols hq
  rw [execNvmeFlush, State.nvmeTake_turn turn]
  by_cases hall : nsid = 0xFFFFFFFF
  · subst hall
    simp only [bne, beq_self_eq_true, if_true] at hnew ⊢
    rw [← hnew]
    simp only [Bool.not_true, Bool.false_eq_true, false_and, if_false, ne_eq, not_true_eq_false] <;>
      cases y.attach.findSome? (fun u => v.takeNotice x.cntlid u) <;> rfl
  · have isOne : (nsid == 0xFFFFFFFF) = false := beq_eq_false_iff_ne.mpr hall
    simp only [bne, isOne, hall, Bool.false_eq_true, if_false] at hnew ⊢
    rw [← hnew]
    simp only [Bool.not_false, true_and, ne_eq, hall, not_false_eq_true] <;>
      cases [volOf nsid].findSome? (fun u => v.takeNotice x.cntlid u) <;> rfl

/-- Settles O37: the four commands on blocks go through `State.nvmeIo`; a Flush makes the same checks on the volumes it names. -/
theorem ioCommandsBecomeRequests : Obligations.IoCommandsBecomeRequests := by
  refine ⟨?_, ?_, ?_, ?_, ?_, ?_, ?_, ?_, ?_, ?_, ?_, ?_, ?_, ?_, ?_⟩
  · -- NVME_READ
    intro c cid flags k t nsid lba blocks sgl x y q s v h hst hw
    rw [exec_nvmeRead, execNvmeRead, State.nvmeIo_runs h hst hw]
  · -- NVME_WRITE
    intro c cid flags k t nsid lba blocks sgl icd x y q s v h hst hw
    rw [exec_nvmeWrite, execNvmeWrite, State.nvmeIo_runs h hst hw]
  · -- NVME_WRITE_ZEROES
    intro c cid flags k t nsid lba blocks x y q s v h hst hw
    rw [exec_nvmeWriteZeroes, execNvmeWriteZeroes, State.nvmeIo_runs h hst hw]
  · -- NVME_DATASET_MANAGEMENT
    intro c cid flags k t nsid ad ranges x y q s v h hst hw
    rw [exec_nvmeDatasetManagement, execNvmeDatasetManagement, State.nvmeIo_runs h hst hw]
  · -- NVME_READ
    rintro c cid flags k t _ nsid lba blocks sgl x y q s v h rfl hst
    rw [exec_nvmeRead, execNvmeRead, State.nvmeIo_stopped h hst]
  · -- NVME_WRITE
    rintro c cid flags k t _ nsid lba blocks sgl icd x y q s v h rfl hst
    rw [exec_nvmeWrite, execNvmeWrite, State.nvmeIo_stopped h hst]
  · -- NVME_WRITE_ZEROES
    rintro c cid flags k t _ nsid lba blocks x y q s v h rfl hst
    rw [exec_nvmeWriteZeroes, execNvmeWriteZeroes, State.nvmeIo_stopped h hst]
  · -- NVME_DATASET_MANAGEMENT
    rintro c cid flags k t _ nsid ad ranges x y q s v h rfl hst
    rw [exec_nvmeDatasetManagement, execNvmeDatasetManagement, State.nvmeIo_stopped h hst]
  · -- NVME_READ
    intro c cid flags k t nsid lba blocks sgl x y q s v w h hst hw
    rw [exec_nvmeRead, execNvmeRead, State.nvmeIo_noticed h hst hw]
  · -- NVME_WRITE
    intro c cid flags k t nsid lba blocks sgl icd x y q s v w h hst hw
    rw [exec_nvmeWrite, execNvmeWrite, State.nvmeIo_noticed h hst hw]
  · -- NVME_WRITE_ZEROES
    intro c cid flags k t nsid lba blocks x y q s v w h hst hw
    rw [exec_nvmeWriteZeroes, execNvmeWriteZeroes, State.nvmeIo_noticed h hst hw]
  · -- NVME_DATASET_MANAGEMENT
    intro c cid flags k t nsid ad ranges x y q s v w h hst hw
    rw [exec_nvmeDatasetManagement, execNvmeDatasetManagement, State.nvmeIo_noticed h hst hw]
  · -- NVME_FLUSH
    intro c cid flags k nsid t vols x y q s v turn hvols hq hnew hx hflags hvol
    have attached : ¬ (nsid ≠ 0xFFFFFFFF ∧ ((!y.attach.contains (volOf nsid)) = true ∨ (v.liveVol (volOf nsid)).isNone = true)) := by
      rintro ⟨hall, hgone⟩
      obtain ⟨hatt, hlive⟩ := hvol.resolve_left hall
      rcases hgone with hgone | hgone
      · rw [hatt] at hgone; exact Bool.false_ne_true hgone
      · simp [Option.isNone_iff_eq_none.mp hgone] at hlive
    rw [exec_nvmeFlush, execNvmeFlush_taken turn hvols hq hnew, if_neg (not_not_intro hx), if_neg (by simp [hflags]),
        if_neg attached] <;> rfl
  · -- NVME_FLUSH
    intro c cid flags k nsid t vols x y q s v turn hvols hq hnew hbad
    rw [exec_nvmeFlush, execNvmeFlush_taken turn hvols hq hnew]
    by_cases hx : x.nvt ≠ 4
    · rw [if_pos hx, if_pos hx]
    · have hflags : flagsOk flags = false := hbad.resolve_left hx
      rw [if_neg hx, if_neg hx, if_pos (by simp [hflags])]
  · -- NVME_FLUSH
    intro c cid flags k nsid t vols x y q s v turn hvols hq hnew hx hflags hall hgone
    have absent : nsid ≠ 0xFFFFFFFF ∧ ((!y.attach.contains (volOf nsid)) = true ∨ (v.liveVol (volOf nsid)).isNone = true) :=
      ⟨hall, hgone.imp_left fun h => by rw [h]; rfl⟩
    rw [exec_nvmeFlush, execNvmeFlush_taken turn hvols hq hnew, if_neg (not_not_intro hx), if_neg (by simp [hflags]),
        if_pos absent]

end Sys2Proof.Machine
end

section
/-! SUPPORT. Entropy, fuses and measurement registers (chapter 14). -/

namespace Sys2Proof.Machine

section

variable {s : State} {m k addr : Nat}

/-- A fuse operation that is allowed uses the grant and programs its fuse, or fails to; any other is refused. -/
theorem fuseBus_done (judged : s.judge m (Slot.SEC + 3) 0x110 true true = none) (op addr : Nat) (ok : Bool) :
    fuseBus m op addr ok s = .next (if s.fuseAllowed op = false then s.fuseResult 2 Cond.FUSE_PROG_REFUSED
      else if ok then ((s.modSec (fun x => { x with fuseGrant := none })).modFuses
        (fun f => f.blow op (ofBytes (s.bytesAt addr 48)))).fuseResult 1 0
      else (s.modSec (fun x => { x with fuseGrant := none })).fuseResult 3 Cond.FUSE_PROG_FAIL) := by
  rw [fuseBus, State.busWr_done judged, State.fuseProg]
  cases s.fuseAllowed op <;> rfl

/-- A write of a measurement register that is refused ends with that condition, whether it extends or locks. -/
theorem State.msrWrite_refused {c : Nat} (lock : Bool) (hbusy : s.get F.MSR_EXTEND_STAT_BUSY ≠ 1)
    (h : s.msrRefusal (s.secureMaster m) k = c) (hc : c ≠ 0) : s.msrWrite m k addr lock = (s.raise Slot.MSR c k).msrResult 2 c := by
  subst h
  simp only [State.msrWrite, hbusy, if_false, ne_eq, hc, not_false_eq_true, if_true]

end

/-- Settles O39: tests, fuse operations and extensions, each by its checks in their order. -/
theorem entropyFusesAndMeasurementsAct : Obligations.EntropyFusesAndMeasurementsAct := by
  refine ⟨?_, ?_, ?_, ?_, ?_, ?_, ?_, ?_, ?_, ?_⟩
  · -- ENTROPY_STARTUP_TEST
    intro samples s hstate hrctFails haptFails
    simp [execEntropyStartupTest, hstate, hrctFails, haptFails]
  · -- ENTROPY_STARTUP_TEST
    intro samples rf af s u hstate hrf haf hfails hu
    subst hrf haf hu
    have hbad : ¬ ((!rctFails (s.get F.SEC_ENT_CFG_RCT_CUTOFF) 0 0 samples && !aptFails (s.get F.SEC_ENT_CFG_APT_CUTOFF) samples) = true) := by
      rcases hfails with h | h <;> simp [h]
    rw [exec_entropyStartupTest, execEntropyStartupTest]
    dsimp only
    rw [if_neg (not_not_intro hstate), if_neg hbad]
    exact ⟨fun h5 => by rw [if_neg (Nat.not_le.mpr h5)], fun h5 => by rw [if_pos h5]⟩
  · -- ENTROPY_TEST_FAIL
    intro rct s u hstate hu
    have hruns : ¬ (s.get F.SEC_ENT_STAT_STATE ≠ 1 ∧ s.get F.SEC_ENT_STAT_STATE ≠ 3) := by omega
    rw [exec_entropyTestFail, execEntropyTestFail, if_neg hruns]
    dsimp only
    rw [← hu]
    by_cases h16 : u.get F.SEC_ENT_STAT_FAILS + 1 = 16
    · rw [if_pos h16, if_pos h16, h16]
    · rw [if_neg h16, if_neg h16]
  · -- ENTROPY_RECOVERED
    intro s hstate
    simp [execEntropyRecovered, hstate]
  · -- DRBG_RESEED
    intro s hstate hle
    simp [execDrbgReseed, hstate, hle]
  · -- FUSE_SVN_D, FUSE_SVN_I, FUSE_ROOT_I, FUSE_DEBUG_DISABLE, FUSE_DEBUG_ROOT
    intro m addr ok s judged
    exact ⟨fuseBus_done judged 1 0 ok, fuseBus_done judged 2 0 ok, fuseBus_done judged 3 addr ok, fuseBus_done judged 4 0 ok,
      fuseBus_done judged 5 0 ok⟩
  · -- MSR_EXTEND, MSR_LOCK
    intro m k addr s judged hbusy hallowed
    constructor
    · simp [execMsrExtend, State.busWr_done judged, State.msrWrite, hbusy, hallowed]
    · simp [execMsrLock, State.busWr_done judged, State.msrWrite, hbusy, hallowed]
  · -- MSR_EXTEND, MSR_LOCK
    intro m k addr s judged hbusy hk
    have hrefused : s.msrRefusal (s.secureMaster m) k = Cond.MSR_EXTEND_REFUSED := if_pos (by
      rcases hk with h | h | ⟨h, hm⟩
      · exact .inl h
      · exact .inr (.inr h)
      · exact .inr (.inl ⟨h, by rw [hm] <;> rfl⟩))
    constructor
    · rw [exec_msrExtend, execMsrExtend, State.busWr_done judged, State.msrWrite_refused false hbusy hrefused (by decide)]
    · rw [exec_msrLock, execMsrLock, State.busWr_done judged, State.msrWrite_refused true hbusy hrefused (by decide)]
  · -- MSR_EXTEND, MSR_LOCK
    intro m k addr s judged hbusy h23 h7 hmay hlocked
    have hrefused : s.msrRefusal (s.secureMaster m) k = Cond.MSR_LOCKED := by
      have hreach : ¬ (23 < k ∨ (k < 8 ∧ (!s.secureMaster m) = true) ∨ k = 7) := by
        rintro (h | ⟨h, hm⟩ | h)
        · omega
        · rcases hmay with h8 | hs
          · omega
          · simp [hs] at hm
        · exact h7 h
      rw [State.msrRefusal, if_neg hreach, if_pos hlocked]
    constructor
    · rw [exec_msrExtend, execMsrExtend, State.busWr_done judged, State.msrWrite_refused false hbusy hrefused (by decide)]
    · rw [exec_msrLock, execMsrLock, State.busWr_done judged, State.msrWrite_refused true hbusy hrefused (by decide)]
  · -- MSR_EXTEND, MSR_LOCK
    intro m k addr s judged hbusy
    constructor
    · rw [exec_msrExtend, execMsrExtend, State.busWr_done judged, State.msrWrite, if_pos hbusy]
    · rw [exec_msrLock, execMsrLock, State.busWr_done judged, State.msrWrite, if_pos hbusy]

end Sys2Proof.Machine
end

section
/-! SUPPORT. Resets of the head (chapter 19): pins that are held and released, and the reset the head gives itself. -/

namespace Sys2Proof.Machine

section

variable {s : State} {ns fuse : Nat}

/-- A pulse of 1 us or more acts. -/
theorem State.pulseActs_long (h : 1000 ≤ ns) : s.pulseActs ns = (true, s) := by
  rw [State.pulseActs, if_neg (by omega), if_pos h]

/-- A pulse below 200 ns is ignored. -/
theorem State.pulseActs_short (h : ns < 200) : s.pulseActs ns = (false, s) := by
  rw [State.pulseActs, if_pos h]

/-- The release of PORST_N starts a time base from zero, and boots where no other reset is held. -/
theorem execPorstNRelease_low (h : s.pins.porstLow = true) : execPorstNRelease fuse s =
    .next (if s.powerOn.inReset then s.powerOn else (s.powerOn.bootFrom fuse).set F.LSE_MODE_PREV 0) := by
  rw [execPorstNRelease, h]
  rfl

end

/-- Settles O40: a pin acts by how long it was held, and a release boots the head where no other reset holds it. -/
theorem headResetsActAndRelease : Obligations.HeadResetsActAndRelease := by
  refine ⟨?_, ?_, ?_, ?_, ?_, ?_, ?_, ?_, ?_, ?_, ?_⟩
  · -- PORST_NASSERT
    intro ns s hns
    rw [exec_porstNAssert, execPorstNAssert, State.pulseActs_long hns]
    rfl
  · -- PORST_NASSERT, SRST_NASSERT
    intro ns s hns
    constructor
    · rw [exec_porstNAssert, execPorstNAssert, State.pulseActs_short hns]
      rfl
    · rw [exec_srstNAssert, execSrstNAssert, State.pulseActs_short hns]
      exact congrArg _ (ite_self s)
  · -- PORST_NRELEASE
    intro fuse s hlow hfree
    rw [exec_porstNRelease, execPorstNRelease_low hlow, hfree, if_neg (by decide)]
  · -- SRST_NASSERT
    intro ns s hns hvault hoff hporst htrip
    rw [exec_srstNAssert, execSrstNAssert, State.pulseActs_long hns, if_neg (by simp [hvault, hoff, hporst, htrip])]
    rfl
  · -- SRST_NASSERT
    intro ns s hmode
    simp [execSrstNAssert, hmode]
  · -- SRST_NRELEASE
    intro fuse s hsrstLow hporstLow hinternalHeld
    simp only [exec_srstNRelease, execSrstNRelease, hsrstLow, hporstLow, hinternalHeld] <;> rfl
  · -- INTERNAL_RESET
    intro fuse s u hinternalHeld hu hinReset
    subst hu
    simp [execInternalReset, hinternalHeld, hinReset]
  · -- SUPPLY_LOSS
    intro aonLost s
    simp only [exec_supplyLoss, execSupplyLoss]
  · -- PORST_NRELEASE
    intro fuse s u hlow hu hheld
    subst hu
    rw [exec_porstNRelease, execPorstNRelease_low hlow, if_pos hheld]
  · -- SRST_NRELEASE
    intro fuse s u hsrstLow hu hinReset
    subst hu
    simp [execSrstNRelease, hsrstLow, hinReset]
  · -- INTERNAL_RESET
    intro fuse s u hinternalHeld hu hinReset
    subst hu
    simp [execInternalReset, hinternalHeld, hinReset]

end Sys2Proof.Machine
end

section
/-! SUPPORT. How a connection of the direct transport is set up (chapter 11): HELLO, the accept slots, HELLO_RESP and FINISH. -/

namespace Sys2Proof.Machine

section

variable {s : State} {u iface addr dcid n m slot : Nat} {v6 ok : Bool} {x : LdtConn} {data : List Nat}

/-- A HELLO to a unit that takes work and to a listener, with its bytes in range, is answered again, refused or taken in. -/
theorem execLdtHelloRx_heard (hu : u < 2) (ha : s.accepts Blk.LDT u = true) (hl : s.ldtListens u iface = true) (ho : helloOk data = true) :
    (∀ n x, s.helloHeld u data = some (n, x) → execLdtHelloRx u iface addr v6 data s = .next (if x.state = 2 then s.ldtClear n 0xD x.resp else s)) ∧
    (s.helloHeld u data = none → s.ldtServing u = false → execLdtHelloRx u iface addr v6 data s = .next (s.helloRefuse u iface addr data 3)) ∧
    (s.helloHeld u data = none → s.ldtServing u = true → s.freeConn u = none ∨ s.freeAccept u = none →
      execLdtHelloRx u iface addr v6 data s = .next (s.helloRefuse u iface addr data 2)) ∧
    (∀ n w, s.helloHeld u data = none → s.ldtServing u = true → s.freeConn u = some n → s.freeAccept u = some w →
      execLdtHelloRx u iface addr v6 data s = .next (s.helloTakeIn u iface addr v6 data n w)) := by
  unfold execLdtHelloRx
  simp only [Nat.mod_eq_of_lt hu, ha, hl, ho, Bool.not_true, Bool.or_self, Bool.false_eq_true, if_false]
  refine ⟨fun n x hheld => ?_, fun hheld hs => ?_, fun hheld hs hfull => ?_, fun n w hheld hs hn hw => ?_⟩
  · rw [hheld]
  · simp [hheld, hs]
  · rcases hfull with h | h
    · simp [hheld, hs, h]
    · cases hn : s.freeConn u <;> simp [hheld, hs, h]
  · simp [hheld, hs, hn, hw]

/-- An answer to an accept slot in range acts on it. -/
theorem acceptBus_done (hs : slot < 64) (judged : s.judge m (ldtSlot u 1) 0x110 true true = none) (action : Nat) :
    acceptBus m u slot action s = .next (s.acceptAnswer u slot action) := by
  rw [acceptBus, State.busWr_done judged, Nat.mod_eq_of_lt hs]

/-- A HELLO_RESP to an initiator that waits for one. -/
theorem execLdtHelloRespRx_waited (hu : u < 2) (hx : s.connNamed u dcid = some (n, x)) (hi : x.initiator = true) (hst : x.state = 1) :
    (data.getD 10 0 ≠ 0 → execLdtHelloRespRx u dcid data ok s = .next (s.ldtClose n false)) ∧
    (data.getD 10 0 = 0 → execLdtHelloRespRx u dcid data false s = .next s) := by
  have hwaits : ¬ ((!x.initiator) = true ∨ x.state ≠ 1) := by simp [hi, hst]
  unfold execLdtHelloRespRx
  rw [Nat.mod_eq_of_lt hu, hx]
  dsimp only
  rw [if_neg hwaits, if_neg hwaits]
  exact ⟨fun h => by rw [if_pos h], fun h => by rw [if_neg (not_not_intro h)]; rfl⟩

/-- A FINISH for a connection that takes none is counted. -/
theorem execLdtFinishRx_unknown (hu : u < 2) (tagOk ok : Bool) (h : s.connNamed u dcid = none ∨ (s.connNamed u dcid = some (n, x) ∧
    ((x.state ≠ 2 ∧ x.state ≠ 3) ∨ s.ldtServing u = false ∨ s.ldtListens u x.iface = false))) :
    execLdtFinishRx u dcid tagOk ok s = .next (s.bump (F.LDT_CNT_NO_CONN_COUNT u)) := by
  unfold execLdtFinishRx
  rw [Nat.mod_eq_of_lt hu]
  rcases h with hnone | ⟨hx, hbad⟩
  · rw [hnone]
  · rw [hx]
    dsimp only
    rw [if_pos (by simpa using hbad)]

/-- A connection that takes a FINISH is none of those that do not. -/
theorem finishTaken (hst : x.state = 2 ∨ x.state = 3) (hs : s.ldtServing u = true) (hl : s.ldtListens u x.iface = true) :
    ¬ ((x.state ≠ 2 ∧ x.state ≠ 3) ∨ (!s.ldtServing u) = true ∨ (!s.ldtListens u x.iface) = true) := by
  simp only [hs, hl, Bool.not_true, Bool.false_eq_true, or_false]
  omega

end

/-- Settles O41: a HELLO, an answer and a FINISH are judged by the state of the connection or slot they are for. -/
theorem directTransportSetsUp : Obligations.DirectTransportSetsUp := by
  refine ⟨?_, ?_, ?_, ?_, ?_, ?_, ?_, ?_, ?_, ?_, ?_, ?_, ?_⟩
  · -- LDT_HELLO_RX
    intro u iface addr n w v6 data s hu hserves hlistens hok hheld hn hw
    have haccepts : s.accepts Blk.LDT u = true := (Bool.and_eq_true_iff.mp hserves).1
    exact (execLdtHelloRx_heard hu haccepts hlistens hok).2.2.2 n w hheld hserves hn hw
  · -- LDT_HELLO_RX
    intro u iface addr v6 data s hu
    refine ⟨fun hout => ?_, fun haccepts hlistens hbad => ?_⟩
    · rw [exec_ldtHelloRx, execLdtHelloRx, Nat.mod_eq_of_lt hu]
      dsimp only
      rw [if_pos (by simpa using hout)]
    · simp [execLdtHelloRx, Nat.mod_eq_of_lt hu, haccepts, hlistens, hbad]
  · -- LDT_HELLO_RX
    intro u iface addr n v6 x data s hu haccepts hlistens hok hheld
    exact (execLdtHelloRx_heard hu haccepts hlistens hok).1 n x hheld
  · -- LDT_HELLO_RX
    intro u iface addr v6 data s hu haccepts hlistens hok hheld
    obtain ⟨-, hunserved, hfull, -⟩ := execLdtHelloRx_heard (addr := addr) (v6 := v6) hu haccepts hlistens hok
    exact ⟨hunserved hheld, hfull hheld⟩
  · -- LDT_ACCEPT_QREAD
    intro m u w s hu judged hw
    simp only [exec_ldtAcceptQRead, execLdtAcceptQRead, State.busRd_done judged, hw]
  · -- LDT_ACCEPT_QREAD
    intro m u s hu judged hfind
    simp only [exec_ldtAcceptQRead, execLdtAcceptQRead, State.busRd_done judged, hfind]
  · -- LDT_ACCEPT, LDT_REFUSE, LDT_REFUSE_BUSY
    intro m u slot a s hu hslot judged ha hyes
    have answers (action : Nat) : acceptBus m (u % 2) slot action s = .next (s.acceptAnswer u slot action) := by
      rw [Nat.mod_eq_of_lt hu, acceptBus_done hslot judged]
    refine ⟨(answers 1).trans ?_, (answers 2).trans ?_, (answers 3).trans ?_⟩
    · simp [State.acceptAnswer, ha, hyes]
    · simp [State.acceptAnswer, ha, hyes]
    · simp [State.acceptAnswer, ha, hyes]
  · -- LDT_ACCEPT_TIMEOUT
    intro u slot a s hu hslot ha hyes hbeat
    simp [execLdtAcceptTimeout, Nat.mod_eq_of_lt hu, Nat.mod_eq_of_lt hslot, ha, hyes, hbeat]
  · -- LDT_HELLO_RESP_RX
    intro u dcid n data x s hu hx hinit hstate hresult
    rw [exec_ldtHelloRespRx, execLdtHelloRespRx, Nat.mod_eq_of_lt hu, hx]
    dsimp only
    rw [if_neg (by simp [hinit, hstate]), if_neg (not_not_intro hresult)]
    rfl
  · -- LDT_HELLO_RESP_RX
    intro u dcid n data ok x s hu hx hinit hstate
    exact execLdtHelloRespRx_waited hu hx hinit hstate
  · -- LDT_FINISH_RX
    intro u dcid n ok x s hu
    refine ⟨fun hx hst hs hl => ⟨?_, fun h3 => ?_⟩, fun hnone => ?_⟩
    · rw [exec_ldtFinishRx, execLdtFinishRx, Nat.mod_eq_of_lt hu, hx]
      dsimp only
      rw [if_neg (finishTaken hst hs hl)]
      rfl
    · rw [exec_ldtFinishRx, execLdtFinishRx, Nat.mod_eq_of_lt hu, hx]
      dsimp only
      rw [if_neg (finishTaken hst hs hl), if_neg (by decide), if_pos h3]
    · exact ⟨execLdtFinishRx_unknown hu false ok hnone, execLdtFinishRx_unknown hu true ok hnone⟩
  · -- LDT_FINISH_RX
    intro u dcid n x s hu hx hst hs hl
    have h3 : x.state ≠ 3 := by omega
    constructor
    · rw [exec_ldtFinishRx, execLdtFinishRx, Nat.mod_eq_of_lt hu, hx]
      dsimp only
      rw [if_neg (finishTaken (.inl hst) hs hl), if_neg (by decide), if_neg h3, if_neg (by decide)]
    · rw [exec_ldtFinishRx, execLdtFinishRx, Nat.mod_eq_of_lt hu, hx]
      dsimp only
      rw [if_neg (finishTaken (.inl hst) hs hl), if_neg (by decide), if_neg h3, if_pos (by decide)]
  · -- LDT_SETUP_TIMEOUT
    intro n x s hx hstate hstateBeat
    simp [execLdtSetupTimeout, hx, hstate, hstateBeat]

end Sys2Proof.Machine
end

section
/-! SUPPORT. Packets of the direct transport (chapter 11): what a packet of any kind meets before its own effect, and the commands of a connection. -/

namespace Sys2Proof.Machine

section

variable {s : State} {u n : Nat} {x : LdtConn} {p : LdtIn}

/-- A packet for a unit that does not serve, or for no connection, is counted. -/
theorem State.ldtIn_noConn (hu : u < 2) (h : s.ldtServing u = false ∨ (p.hdr.hdrOk = true ∧ s.connNamed u p.hdr.dcid = none)) :
    s.ldtIn u p = s.bump (F.LDT_CNT_NO_CONN_COUNT u) := by
  rw [State.ldtIn, Nat.mod_eq_of_lt hu]
  rcases h with hs | ⟨hok, hnone⟩
  · simp [hs]
  · simp [hok, hnone]

theorem State.ldtIn_badHdr (hu : u < 2) (hs : s.ldtServing u = true) (hbad : p.hdr.hdrOk = false) :
    s.ldtIn u p = s.bump (F.LDT_CNT_BAD_HDR_COUNT u) := by
  simp [State.ldtIn, Nat.mod_eq_of_lt hu, hs, hbad]

section

variable (hu : u < 2) (hs : s.ldtServing u = true) (hok : p.hdr.hdrOk = true) (hx : s.connNamed u p.hdr.dcid = some (n, x))
include hu hs hok hx

/-- A packet for a connection that takes none, or whose interface no listener names, is counted. -/
theorem State.ldtIn_notOpen (h : (x.state ≠ 3 ∧ x.state ≠ 4) ∨ s.ldtListens u x.iface = false) :
    s.ldtIn u p = s.bump (F.LDT_CNT_NO_CONN_COUNT u) := by
  rw [State.ldtIn, Nat.mod_eq_of_lt hu, hx]
  dsimp only
  rw [hs, hok, if_neg (by decide), if_neg (by decide), if_pos (by simpa using h)]

/-- A packet for a connection whose context is not on chip waits for it, where there is room. -/
theorem State.ldtIn_waits (hst : x.state = 3 ∨ x.state = 4) (hl : s.ldtListens u x.iface = true) (hm : x.resident = false ∨ x.missQ ≠ []) :
    s.ldtIn u p = if 4096 ≤ s.missCount u then s.bump (F.LDT_CNT_MISS_DROP_COUNT u)
      else s.modLconn n (fun x => { x with missQ := x.missQ ++ [p], missNs := if x.missQ = [] then s.tb else x.missNs }) := by
  have hopen : ¬ ((x.state ≠ 3 ∧ x.state ≠ 4) ∨ (!s.ldtListens u x.iface) = true) := by
    simp only [hl, Bool.not_true, Bool.false_eq_true, or_false]
    omega
  have haway : ¬ (x.resident = true ∧ x.missQ = []) := by
    rintro ⟨hr, hq⟩
    rcases hm with h | h
    · simp [hr] at h
    · exact h hq
  rw [State.ldtIn, Nat.mod_eq_of_lt hu, hx]
  dsimp only
  rw [hs, hok, if_neg (by decide), if_neg (by decide), if_neg hopen, if_neg haway]

/-- A packet for an open connection on chip is judged there. -/
theorem State.ldtIn_judged (hst : x.state = 3 ∨ x.state = 4) (hl : s.ldtListens u x.iface = true) (hr : x.resident = true)
    (hq : x.missQ = []) : s.ldtIn u p = s.ldtPacket n p := by
  have hopen : ¬ ((x.state ≠ 3 ∧ x.state ≠ 4) ∨ (!s.ldtListens u x.iface) = true) := by
    simp only [hl, Bool.not_true, Bool.false_eq_true, or_false]
    omega
  rw [State.ldtIn, Nat.mod_eq_of_lt hu, hx]
  dsimp only
  rw [hs, hok, if_neg (by decide), if_neg (by decide), if_neg hopen, if_pos ⟨hr, hq⟩]

end

/-- A packet whose tag fails, or of neither the current nor the next generation, is counted as failed. -/
theorem State.ldtPacket_failed {k : Nat} {v : State} (hx : s.lconn n = some x)
    (hbad : p.hdr.tagOk = false ∨ (p.hdr.kgen % 256 ≠ x.kgen % 256 ∧ p.hdr.kgen % 256 ≠ (x.kgen + 1) % 256))
    (hv : s.ldtReceive p.hdr.plen = (k, v)) :
    s.ldtPacket n p = ((v.bump (F.DSL_CPH_CNT_AUTH_COUNT k)).bump (F.DSL_CPH_CNT_ZERO_COUNT k)).lsts n p.hdr.path F.LDT_STS_AUTH_COUNT := by
  have hkept : v.lconn n = some x := by
    have h := s.ldtReceive_lconn p.hdr.plen n
    rw [hv] at h
    exact h.trans hx
  have hfails : (!p.hdr.tagOk || !(p.hdr.kgen % 256 == x.kgen % 256 || p.hdr.kgen % 256 == (x.kgen + 1) % 256)) = true := by
    simpa using hbad
  unfold State.ldtPacket
  rw [hv]
  dsimp only
  rw [hkept]
  dsimp only
  rw [if_pos hfails]

/-- A command of a connection that is established acts with RESULT 1, on any other it ends with RESULT 2. -/
theorem State.connCmd_free (op : Nat) (hbusy : s.get (F.LDT_CONN_CMD_STAT_BUSY u) ≠ 1) :
    (∀ x, s.lconn (u * 2 ^ 19 + n % 2 ^ 19) = some x → x.state = 3 → s.connCmd u n op =
      ((if op = 1 then s.ldtClose (u * 2 ^ 19 + n % 2 ^ 19) true
        else (s.modLconn (u * 2 ^ 19 + n % 2 ^ 19) (fun x => { x with rekey := true })).ldtGo (u * 2 ^ 19 + n % 2 ^ 19)).setAll
        [(F.LDT_CONN_CMD_STAT_RESULT u, 1), (F.LDT_CONN_CMD_STAT_CONDITION u, 0)]).irq (ldtSlot u 1) 2) ∧
    ((∀ x, s.lconn (u * 2 ^ 19 + n % 2 ^ 19) = some x → x.state ≠ 3) → s.connCmd u n op =
      (s.setAll [(F.LDT_CONN_CMD_STAT_RESULT u, 2), (F.LDT_CONN_CMD_STAT_CONDITION u, 0)]).irq (ldtSlot u 1) 2) := by
  unfold State.connCmd
  refine ⟨fun x hx hst => ?_, fun hnone => ?_⟩
  · simp only [hbusy, hx, hst, if_false, Option.map_some, Option.getD_some, beq_self_eq_true, Bool.not_true, Bool.false_eq_true, if_true]
  · cases hx : s.lconn (u * 2 ^ 19 + n % 2 ^ 19) with
    | none =>
      simp only [hbusy, hx, if_false, Option.map_none, Option.getD_none, Bool.not_false, if_true, Bool.false_eq_true]
    | some x =>
      have h3 : (x.state == 3) = false := beq_eq_false_iff_ne.mpr (hnone x hx)
      simp only [hbusy, hx, h3, if_false, Option.map_some, Option.getD_some, Bool.not_false, if_true, Bool.false_eq_true]

end

/-- Settles O42: a packet goes through the checks of its header, context and tag, and a timer acts where its time has come. -/
theorem directTransportCarriesPackets : Obligations.DirectTransportCarriesPackets := by
  refine ⟨?_, ?_, ?_, ?_, ?_, ?_, ?_, ?_, ?_, ?_, ?_, ?_, ?_, ?_, ?_, ?_, ?_, ?_, ?_, ?_, ?_⟩
  · -- LDT_SEND_RX, LDT_WRITE_RX, LDT_READ_REQ_RX, LDT_READ_RESP_RX, LDT_CLOSE_RX, LDT_MSG_FAIL_RX, LDT_KEEPALIVE_RX
    intro u addr mkey msn cond data n h x z s v turn hv hz
    have taken (p : LdtIn) (hp : p.hdr = h) (hk : (p.kind == 5) = false) :
        (Host.Outcome.next (s.ldtIn u p) : Res) = .next ((v.dataPacket n z p).ldtGo n) := by
      subst hp
      rw [State.ldtIn_turn turn hv hz, if_neg (beq_eq_false_iff_ne.mp hk)]
    exact ⟨taken _ rfl rfl, taken _ rfl rfl, taken _ rfl rfl, taken _ rfl rfl, taken _ rfl rfl,
      taken _ rfl rfl, taken _ rfl rfl⟩
  · -- LDT_ACK_RX
    intro u cum limit n sack ece h x z s v turn hv hz
    rw [exec_ldtAckRx, execLdtAckRx, State.ldtIn_turn turn hv hz, if_pos rfl]
  · -- LDT_SEND_RX, LDT_WRITE_RX, LDT_READ_REQ_RX, LDT_READ_RESP_RX, LDT_CLOSE_RX, LDT_MSG_FAIL_RX, LDT_KEEPALIVE_RX, LDT_ACK_RX
    intro u addr mkey msn cond data cum limit sack ece h s hu hnone
    have taken (p : LdtIn) (hp : p.hdr = h) : (Host.Outcome.next (s.ldtIn u p) : Res) = .next (s.bump (F.LDT_CNT_NO_CONN_COUNT u)) := by
      subst hp
      rw [State.ldtIn_noConn hu hnone]
    exact ⟨taken _ rfl, taken _ rfl, taken _ rfl, taken _ rfl, taken _ rfl, taken _ rfl, taken _ rfl, taken _ rfl⟩
  · -- LDT_SEND_RX, LDT_WRITE_RX, LDT_READ_REQ_RX, LDT_READ_RESP_RX, LDT_CLOSE_RX, LDT_MSG_FAIL_RX, LDT_KEEPALIVE_RX, LDT_ACK_RX
    intro u addr mkey msn cond data cum limit sack ece h s hu hs hbad
    have taken (p : LdtIn) (hp : p.hdr = h) : (Host.Outcome.next (s.ldtIn u p) : Res) = .next (s.bump (F.LDT_CNT_BAD_HDR_COUNT u)) := by
      subst hp
      rw [State.ldtIn_badHdr hu hs hbad]
    exact ⟨taken _ rfl, taken _ rfl, taken _ rfl, taken _ rfl, taken _ rfl, taken _ rfl, taken _ rfl, taken _ rfl⟩
  · -- LDT_SEND_RX, LDT_WRITE_RX, LDT_READ_REQ_RX, LDT_READ_RESP_RX, LDT_CLOSE_RX, LDT_MSG_FAIL_RX, LDT_KEEPALIVE_RX, LDT_ACK_RX
    intro u addr mkey msn cond data cum limit n sack ece h x s hu hs hok hx hclosed
    have taken (p : LdtIn) (hp : p.hdr = h) : (Host.Outcome.next (s.ldtIn u p) : Res) = .next (s.bump (F.LDT_CNT_NO_CONN_COUNT u)) := by
      subst hp
      rw [State.ldtIn_notOpen hu hs hok hx hclosed]
    exact ⟨taken _ rfl, taken _ rfl, taken _ rfl, taken _ rfl, taken _ rfl, taken _ rfl, taken _ rfl, taken _ rfl⟩
  · -- LDT_SEND_RX, LDT_WRITE_RX, LDT_READ_REQ_RX, LDT_READ_RESP_RX, LDT_CLOSE_RX, LDT_MSG_FAIL_RX, LDT_KEEPALIVE_RX, LDT_ACK_RX
    intro u addr mkey msn cond data cum limit n sack ece h x s hu hs hok hx hst hl haway hfull
    have taken (p : LdtIn) (hp : p.hdr = h) : (Host.Outcome.next (s.ldtIn u p) : Res) = .next (s.bump (F.LDT_CNT_MISS_DROP_COUNT u)) := by
      subst hp
      rw [State.ldtIn_waits hu hs hok hx hst hl haway, if_pos hfull]
    exact ⟨taken _ rfl, taken _ rfl, taken _ rfl, taken _ rfl, taken _ rfl, taken _ rfl, taken _ rfl, taken _ rfl⟩
  · -- LDT_SEND_RX, LDT_WRITE_RX, LDT_READ_REQ_RX, LDT_READ_RESP_RX, LDT_CLOSE_RX, LDT_MSG_FAIL_RX, LDT_KEEPALIVE_RX, LDT_ACK_RX
    intro u addr mkey msn cond data cum limit n sack ece h x s hu hs hok hx hst hl haway hroom
    have taken (p : LdtIn) (hp : p.hdr = h) : (Host.Outcome.next (s.ldtIn u p) : Res) = .next (s.modLconn n (fun x => { x with
          missQ := x.missQ ++ [p], missNs := if x.missQ = [] then s.tb else x.missNs })) := by
      subst hp
      rw [State.ldtIn_waits hu hs hok hx hst hl haway, if_neg (Nat.not_le.mpr hroom)]
    exact ⟨taken _ rfl, taken _ rfl, taken _ rfl, taken _ rfl, taken _ rfl, taken _ rfl, taken _ rfl, taken _ rfl⟩
  · -- LDT_SEND_RX, LDT_WRITE_RX, LDT_READ_REQ_RX, LDT_READ_RESP_RX, LDT_CLOSE_RX, LDT_MSG_FAIL_RX, LDT_KEEPALIVE_RX, LDT_ACK_RX
    intro u addr mkey msn cond data cum limit k n sack ece h x s v hu hs hok hx hconn hst hl hr hq hbad hv
    have taken (p : LdtIn) (hp : p.hdr = h) : (Host.Outcome.next (s.ldtIn u p) : Res) = .next (((v.bump (F.DSL_CPH_CNT_AUTH_COUNT k)).bump
          (F.DSL_CPH_CNT_ZERO_COUNT k)).lsts n h.path F.LDT_STS_AUTH_COUNT) := by
      subst hp
      rw [State.ldtIn_judged hu hs hok hx hst hl hr hq, State.ldtPacket_failed hconn hbad hv]
    exact ⟨taken _ rfl, taken _ rfl, taken _ rfl, taken _ rfl, taken _ rfl, taken _ rfl, taken _ rfl, taken _ rfl⟩
  · -- LDT_CTX_FETCH_DONE
    intro n x s u hx hresident hmissQ hctxRoom
    simp [execLdtCtxFetchDone, hx, hresident, hmissQ, hctxRoom]
  · -- LDT_CONN_CLOSE, LDT_CONN_REKEY
    intro m u n x s hu judged hbusy hx hst
    have acts (op : Nat) := (State.connCmd_free (n := n) op hbusy).1 x hx hst
    constructor
    · rw [exec_ldtConnClose, execLdtConnClose, Nat.mod_eq_of_lt hu, State.busWr_done judged, acts 1, if_pos rfl]
    · rw [exec_ldtConnRekey, execLdtConnRekey, Nat.mod_eq_of_lt hu, State.busWr_done judged, acts 2, if_neg (by decide)]
  · -- LDT_CONN_CLOSE, LDT_CONN_REKEY
    intro m u n s hu judged
    refine ⟨fun hbusy => ⟨?_, ?_⟩, fun hbusy hnone => ⟨?_, ?_⟩⟩
    · rw [exec_ldtConnClose, execLdtConnClose, Nat.mod_eq_of_lt hu, State.busWr_done judged, State.connCmd, if_pos hbusy]
    · rw [exec_ldtConnRekey, execLdtConnRekey, Nat.mod_eq_of_lt hu, State.busWr_done judged, State.connCmd, if_pos hbusy]
    · rw [exec_ldtConnClose, execLdtConnClose, Nat.mod_eq_of_lt hu, State.busWr_done judged,
        (State.connCmd_free 1 hbusy).2 hnone]
    · rw [exec_ldtConnRekey, execLdtConnRekey, Nat.mod_eq_of_lt hu, State.busWr_done judged,
        (State.connCmd_free 2 hbusy).2 hnone]
  · -- LDT_REKEY_DUE
    intro n x s hx hrekey
    simp [execLdtRekeyDue, hx, hrekey]
  · -- LDT_KEEPALIVE_SEND
    intro n x s hx hstate hlastTx
    simp [execLdtKeepaliveSend, hx, hstate, hlastTx]
  · -- LDT_IDLE_TIMEOUT
    intro n x s hx hstate hlastRx
    simp [execLdtIdleTimeout, hx, hstate, hlastRx]
  · -- LDT_ACK_DELAY_EXPIRE
    intro n x s hx hstate hle hackBeat
    simp [execLdtAckDelayExpire, hx, hstate, hle, hackBeat]
  · -- LDT_RTO_EXPIRE
    intro n psn x p s u hx hp hsentNs hu
    subst hu
    simp [execLdtRtoExpire, hx, hp, hsentNs]
  · -- LDT_MSG_TIMEOUT
    intro n ptype msn x m s hx hm hbegun hbeat hexpiries
    simp [execLdtMsgTimeout, hx, hm, hbegun, hbeat, Nat.not_le.mpr hexpiries]
  · -- LDT_MSG_TIMEOUT
    intro n ptype msn x m s hx hm hbegun hbeat hretries
    simp [execLdtMsgTimeout, hx, hm, hbegun, hbeat, hretries]
  · -- LDT_RX_MSG_TIMEOUT
    intro n msn resp x m s hx hm hdone hlastBeat
    simp [execLdtRxMsgTimeout, hx, hm, hdone, hlastBeat]
  · -- LDT_RATE_INCREASE
    intro n k x s hx hk hpath hpath'
    simp [execLdtRateIncrease, hx, hk, hpath, hpath']
  · -- LDT_PATH_RETURN
    intro n k b x s hx hb hb'
    simp [execLdtPathReturn, hx, hb, hb']

end Sys2Proof.Machine
end

section
/-! SUPPORT. Block commands of a connection (chapter 11): a capsule that is taken ends with the first check it fails, or becomes its request. -/

namespace Sys2Proof.Machine

section

variable {s v w : State} {r : Req} {valid named : Bool} {t c : Nat} {f : State → Nat → Req → State}

/-- A capsule's request that stops at a check ends with that check's condition. -/
theorem State.lbcIn_stopped (h : (t, v) = s.newReq r (named && (s.liveVol r.vol).isSome)) (hst : v.capStops valid named r.vol = c)
    (hc : c ≠ 0) : s.lbcIn r valid named f = v.finish t c := by
  subst hst
  unfold State.lbcIn State.capStops
  rw [← h]
  dsimp only
  cases valid with
  | false => rw [Bool.not_false, if_pos rfl, if_pos rfl]
  | true =>
    simp only [State.capStops, Bool.not_true, Bool.false_eq_true, if_false] at hc ⊢
    by_cases hv : (named && (v.liveVol r.vol).isNone) = true
    · rw [if_pos hv, if_pos (by simpa using hv)]
    · exact absurd (if_neg hv) hc

/-- Where no check stops it, its own work is left. -/
theorem State.lbcIn_passed (h : (t, v) = s.newReq r (named && (s.liveVol r.vol).isSome)) (hst : v.capStops valid named r.vol = 0) :
    s.lbcIn r valid named f = match (if named then v.takeNotice r.assoc r.vol else none) with
      | some w => w.finish t Cond.DEFERRED_ERROR
      | none => f v t r := by
  have hvalid : (!valid) = false := by
    cases hvalid : valid with
    | false => rw [hvalid] at hst; exact absurd hst (by simp [State.capStops, Cond.LBC_CMD_INVALID])
    | true => rfl
  have hlive : ¬ (named = true ∧ (v.liveVol r.vol).isNone = true) := by
    intro hdead
    unfold State.capStops at hst
    rw [hvalid, if_neg (by decide), if_pos (by simpa using hdead)] at hst
    exact absurd hst (by decide)
  unfold State.lbcIn
  rw [← h]
  dsimp only
  rw [hvalid, if_neg (by decide), if_neg hlive] <;> cases (if named = true then v.takeNotice r.assoc r.vol else none) <;> rfl

/-- A notice that is due for the association and the named volume ends it. -/
theorem State.lbcIn_noticed (h : (t, v) = s.newReq r (true && (s.liveVol r.vol).isSome)) (hst : v.capStops valid true r.vol = 0)
    (hw : v.takeNotice r.assoc r.vol = some w) : s.lbcIn r valid true f = w.finish t Cond.DEFERRED_ERROR := by
  rw [State.lbcIn_passed h hst, if_pos rfl, hw]

theorem State.lbcIn_runs (h : (t, v) = s.newReq r (true && (s.liveVol r.vol).isSome)) (hst : v.capStops valid true r.vol = 0)
    (hw : v.takeNotice r.assoc r.vol = none) : s.lbcIn r valid true f = f v t r := by
  rw [State.lbcIn_passed h hst, if_pos rfl, hw]

/-- A command without a volume waits for no notice. -/
theorem State.lbcIn_unnamed (h : (t, v) = s.newReq r (false && (s.liveVol r.vol).isSome)) (hst : v.capStops valid false r.vol = 0) :
    s.lbcIn r valid false f = f v t r := by
  rw [State.lbcIn_passed h hst, if_neg (by decide)]

/-- A capsule of another length, or of no command, ends with LBC_CMD_INVALID whichever command takes it. -/
theorem State.lbcTake_bad {n d len opc : Nat} {x : LdtConn} {rest : List (Nat × Nat)} {u : State} {g : State → LdtConn → Nat → State}
    (hx : s.lconn n = some x) (hin : x.inbox = (len, d) :: rest) (hbad : len ≠ 64 ∨ lbcKnown (capOpc d) = false) (hi : x.initiator = false)
    (hst : x.state = 3) (hroom : s.admFull = false) (hq : (s.unit (unitKey Blk.LDT (ldtUnit n))).quiesce = false)
    (hq' : (s.unit (unitKey Blk.LBC 0)).quiesce = false) (hu : u = (s.modLconn n (fun x => { x with inbox := rest })).bump F.LBC_CNT_CMDS_COUNT) :
    s.lbcTake n opc g =
      (u.newReq { tag := 0, kind := .admin, origin := .ldt n (d % 2 ^ 32), cls := 6, assoc := ldtAssoc n } false).2.finish
        (u.newReq { tag := 0, kind := .admin, origin := .ldt n (d % 2 ^ 32), cls := 6, assoc := ldtAssoc n } false).1 Cond.LBC_CMD_INVALID := by
  have hform : (len != 64 || !lbcKnown (capOpc d)) = true := by simpa using hbad
  subst hu
  unfold State.lbcTake
  rw [hx]
  dsimp only
  rw [hin]
  dsimp only
  rw [hform, if_neg (by simp [hi, hst, hroom, hq, hq']), if_pos rfl]

end

theorem not_decide_le_eq (a b : Nat) : (!decide (a ≤ b)) = decide (b < a) := by
  rw [← decide_not]
  exact decide_eq_decide.mpr Nat.not_le

/-- Settles O43: on its turn a capsule goes through `State.lbcIn`, which stops it at the first check it fails. -/
theorem blockCommandsBecomeRequests : Obligations.BlockCommandsBecomeRequests := by
  refine ⟨?_, ?_, ?_, ?_, ?_, ?_, ?_, ?_, ?_, ?_, ?_, ?_, ?_, ?_, ?_, ?_, ?_, ?_, ?_, ?_, ?_, ?_, ?_, ?_⟩
  · -- LBC_READ
    intro n d t x rest r s u v turn hr ht hstops hnotice
    subst hr
    rw [exec_lbcRead, execLbcRead, State.lbcTake_turn turn]
    exact congrArg _ (State.lbcIn_runs ht hstops hnotice)
  · -- LBC_READ
    intro n d t c x rest r s u v turn hr ht hstops hc
    subst hr
    rw [exec_lbcRead, execLbcRead, State.lbcTake_turn turn]
    exact congrArg _ (State.lbcIn_stopped ht hstops hc)
  · -- LBC_READ
    intro n d t x rest r s u v w turn hr ht hstops hnotice
    subst hr
    rw [exec_lbcRead, execLbcRead, State.lbcTake_turn turn]
    exact congrArg _ (State.lbcIn_noticed ht hstops hnotice)
  · -- LBC_WRITE
    intro n d t x rest r s u v turn hr ht hstops hnotice
    subst hr
    rw [exec_lbcWrite, execLbcWrite, State.lbcTake_turn turn]
    exact congrArg _ (State.lbcIn_runs ht hstops hnotice)
  · -- LBC_WRITE
    intro n d t c x rest r s u v turn hr ht hstops hc
    subst hr
    rw [exec_lbcWrite, execLbcWrite, State.lbcTake_turn turn]
    exact congrArg _ (State.lbcIn_stopped ht hstops hc)
  · -- LBC_WRITE
    intro n d t x rest r s u v w turn hr ht hstops hnotice
    subst hr
    rw [exec_lbcWrite, execLbcWrite, State.lbcTake_turn turn]
    exact congrArg _ (State.lbcIn_noticed ht hstops hnotice)
  · -- LBC_WRITE_ZEROES
    intro n d t x rest r s u v turn hr ht hstops hnotice
    subst hr
    rw [exec_lbcWriteZeroes, execLbcWriteZeroes, State.lbcTake_turn turn]
    exact congrArg _ (State.lbcIn_runs ht hstops hnotice)
  · -- LBC_WRITE_ZEROES
    intro n d t c x rest r s u v turn hr ht hstops hc
    subst hr
    rw [exec_lbcWriteZeroes, execLbcWriteZeroes, State.lbcTake_turn turn]
    exact congrArg _ (State.lbcIn_stopped ht hstops hc)
  · -- LBC_WRITE_ZEROES
    intro n d t x rest r s u v w turn hr ht hstops hnotice
    subst hr
    rw [exec_lbcWriteZeroes, execLbcWriteZeroes, State.lbcTake_turn turn]
    exact congrArg _ (State.lbcIn_noticed ht hstops hnotice)
  · -- LBC_DEALLOCATE
    intro n d t x rest r s u v turn hr ht hstops hnotice
    subst hr
    rw [exec_lbcDeallocate, execLbcDeallocate, State.lbcTake_turn turn]
    exact congrArg _ (State.lbcIn_runs ht hstops hnotice)
  · -- LBC_DEALLOCATE
    intro n d t c x rest r s u v turn hr ht hstops hc
    subst hr
    rw [exec_lbcDeallocate, execLbcDeallocate, State.lbcTake_turn turn]
    exact congrArg _ (State.lbcIn_stopped ht hstops hc)
  · -- LBC_DEALLOCATE
    intro n d t x rest r s u v w turn hr ht hstops hnotice
    subst hr
    rw [exec_lbcDeallocate, execLbcDeallocate, State.lbcTake_turn turn]
    exact congrArg _ (State.lbcIn_noticed ht hstops hnotice)
  · -- LBC_FLUSH
    intro n d t x rest r s u v turn hall hr ht hstops hnotice
    subst hr
    rw [exec_lbcFlush, execLbcFlush, State.lbcTake_turn turn]
    dsimp only
    rw [hall]
    exact congrArg _ (State.lbcIn_runs ht hstops hnotice)
  · -- LBC_FLUSH
    intro n d t c x rest r s u v turn hall hr ht hstops hc
    subst hr
    rw [exec_lbcFlush, execLbcFlush, State.lbcTake_turn turn]
    dsimp only
    rw [hall]
    exact congrArg _ (State.lbcIn_stopped ht hstops hc)
  · -- LBC_FLUSH
    intro n d t x rest r s u v w turn hall hr ht hstops hnotice
    subst hr
    rw [exec_lbcFlush, execLbcFlush, State.lbcTake_turn turn]
    dsimp only
    rw [hall]
    exact congrArg _ (State.lbcIn_noticed ht hstops hnotice)
  · -- LBC_FLUSH
    intro n d t x rest r s u v turn hall hr ht hstops
    subst hr
    rw [exec_lbcFlush, execLbcFlush, State.lbcTake_turn turn]
    dsimp only
    rw [hall]
    exact congrArg _ (State.lbcIn_unnamed ht hstops)
  · -- LBC_FLUSH
    intro n d t c x rest r s u v turn hall hr ht hstops hc
    subst hr
    rw [exec_lbcFlush, execLbcFlush, State.lbcTake_turn turn]
    dsimp only
    rw [hall]
    exact congrArg _ (State.lbcIn_stopped ht hstops hc)
  · -- LBC_ABORT
    intro n d t x rest r s u v turn hr ht hstops
    subst hr
    rw [exec_lbcAbort, execLbcAbort, State.lbcTake_turn turn]
    dsimp only
    rw [not_decide_le_eq]
    exact congrArg _ (State.lbcIn_unnamed ht hstops)
  · -- LBC_ABORT
    intro n d t c x rest r s u v turn hr ht hstops hc
    subst hr
    rw [exec_lbcAbort, execLbcAbort, State.lbcTake_turn turn]
    dsimp only
    rw [not_decide_le_eq]
    exact congrArg _ (State.lbcIn_stopped ht hstops hc)
  · -- LBC_GET_HEALTH
    intro n d t x rest r s u v turn hr ht hstops
    subst hr
    rw [exec_lbcGetHealth, execLbcGetHealth, State.lbcTake_turn turn]
    exact congrArg _ (State.lbcIn_unnamed ht hstops)
  · -- LBC_GET_HEALTH
    intro n d t c x rest r s u v turn hr ht hstops hc
    subst hr
    rw [exec_lbcGetHealth, execLbcGetHealth, State.lbcTake_turn turn]
    exact congrArg _ (State.lbcIn_stopped ht hstops hc)
  · -- LBC_GET_DEFERRED
    intro n d t x rest r s u v turn hr ht hstops
    subst hr
    rw [exec_lbcGetDeferred, execLbcGetDeferred, State.lbcTake_turn turn]
    exact congrArg _ (State.lbcIn_unnamed ht hstops)
  · -- LBC_GET_DEFERRED
    intro n d t c x rest r s u v turn hr ht hstops hc
    subst hr
    rw [exec_lbcGetDeferred, execLbcGetDeferred, State.lbcTake_turn turn]
    exact congrArg _ (State.lbcIn_stopped ht hstops hc)
  · -- LBC_READ, LBC_WRITE, LBC_WRITE_ZEROES, LBC_DEALLOCATE, LBC_FLUSH, LBC_ABORT, LBC_GET_HEALTH, LBC_GET_DEFERRED
    intro n d len x rest s u hx hin hbad hi hst hroom hq hq' hu
    have bad (opc : Nat) (g : State → LdtConn → Nat → State) := congrArg (Host.Outcome.next : State → Res)
      (State.lbcTake_bad (opc := opc) (g := g) hx hin hbad hi hst hroom hq hq' hu)
    exact ⟨bad 1 _, bad 2 _, bad 3 _, bad 4 _, bad 5 _, bad 6 _, bad 7 _, bad 8 _⟩

end Sys2Proof.Machine
end

section
/-! SUPPORT. Fetch and replication commands of a known head (chapter 13): served, or ended with the condition of the first check that fails. -/

namespace Sys2Proof.Machine

/-- A replication capsule that stops at a check of R493 ends with that check's condition. -/
theorem State.repIn_stopped {s u v : State} {n opc d t c : Nat} {x : LdtConn} {rest : List (Nat × Nat)} {kind : ReqKind} {r : Req}
    {valid : Nat → Bool} {f : State → LdtConn → Nat → Nat → Req → Nat → RepLink → State} (turn : s.LbcTurn n opc x d rest u)
    (hr : r = u.capReq n x d kind 6) (ht : (t, v) = u.newReq r (u.liveVol r.vol).isSome) (hst : v.repStops x d r.vol (valid d) = c)
    (hc : c ≠ 0) : s.repIn n opc valid kind f = v.finish t c := by
  subst hr hst
  unfold State.repIn State.repStops
  unfold State.repStops at hc
  rw [State.lbcTake_turn turn]
  dsimp only
  rw [← ht]
  dsimp only
  split
  · rfl
  · next hform =>
    rw [if_neg hform] at hc
    split
    · rfl
    · next hlive =>
      rw [if_neg hlive] at hc
      cases hlink : v.sourceLink (u.capReq n x d kind 6).vol with
      | none => simp
      | some kl => exact absurd (by simp [hlink]) hc

/-- Settles O44: a capsule of another head goes through `State.repIn`, and the row answers it by what it finds. -/
theorem replicationCommandsAreServed : Obligations.ReplicationCommandsAreServed := by
  refine ⟨?_, ?_, ?_, ?_, ?_, ?_, ?_, ?_, ?_, ?_⟩
  · -- LBC_FETCH
    intro n d t x rest r s u v turn hr ht
    subst hr
    rw [exec_lbcFetch, execLbcFetch, State.lbcTake_turn turn]
    dsimp only at ht ⊢
    rw [← ht]
    simp only [bne_iff_ne, Bool.or_eq_true, Bool.not_eq_true', or_assoc]
  · -- LBC_REP_POLL
    intro n d t k x rest r l s u v turn hform
    rw [exec_lbcRepPoll, execLbcRepPoll, State.repIn_turn turn hform]
  · -- LBC_REP_POLL
    intro n d t c x rest r s u v turn hr ht hstops hc
    rw [exec_lbcRepPoll, execLbcRepPoll, State.repIn_stopped turn hr ht hstops hc]
  · -- LBC_REP_RECIPE
    intro n d t k x rest r l s u v turn hform
    cases hoffered : l.offered.filter (fun o => (v.liveSnap o).isSome) with
    | none => rw [exec_lbcRepRecipe, execLbcRepRecipe, State.repIn_turn turn hform, hoffered]
    | some o => rw [exec_lbcRepRecipe, execLbcRepRecipe, State.repIn_turn turn hform, hoffered]
  · -- LBC_REP_RECIPE
    intro n d t c x rest r s u v turn hr ht hstops hc
    rw [exec_lbcRepRecipe, execLbcRepRecipe, State.repIn_stopped turn hr ht hstops hc]
  · -- LBC_REP_CHUNKS
    intro n d t k x rest r l s u v turn hform
    rw [exec_lbcRepChunks, execLbcRepChunks, State.repIn_turn turn hform]
  · -- LBC_REP_CHUNKS
    intro n d t c x rest r s u v turn hr ht hstops hc
    rw [exec_lbcRepChunks, execLbcRepChunks, State.repIn_stopped turn hr ht hstops hc]
  · -- LBC_REP_DONE
    intro n d t k x rest r l s u v turn hform
    rw [exec_lbcRepDone, execLbcRepDone, State.repIn_turn turn hform]
  · -- LBC_REP_DONE
    intro n d t c x rest r s u v turn hr ht hstops hc
    rw [exec_lbcRepDone, execLbcRepDone, State.repIn_stopped turn hr ht hstops hc]
  · -- LBC_FETCH, LBC_REP_POLL, LBC_REP_RECIPE, LBC_REP_CHUNKS, LBC_REP_DONE
    intro n d len x rest s u hx hin hbad hi hst hroom hq hq' hu
    have bad (opc : Nat) (g : State → LdtConn → Nat → State) := congrArg (Host.Outcome.next : State → Res)
      (State.lbcTake_bad (opc := opc) (g := g) hx hin hbad hi hst hroom hq hq' hu)
    exact ⟨bad 0x40 _, bad 0x41 _, bad 0x42 _, bad 0x43 _, bad 0x44 _⟩

end Sys2Proof.Machine
end

section
/-! SUPPORT. The peer link (chapter 12): its bundles, its messages, and what the pair makes of them. -/

namespace Sys2Proof.Machine

section

variable {s : State} {b w epoch c : Nat}

theorem ctlBundle_not_none (h : s.ctlBundle.isSome = true) : ¬ s.ctlBundle.isNone = true := by
  rw [Option.isNone_iff_eq_none]
  exact Option.isSome_iff_ne_none.mp h

/-- The replay timer counts a run of its bundle. -/
theorem State.timerRun_counted (f : Fld) : (((s.satInc f 1).modBundle b (fun x => { x with
    timerRun := x.timerRun + 1, ackBeat := s.beat })).bundle b).timerRun = (s.bundle b).timerRun + 1 := by
  simp [State.bundle, State.modBundle, State.satInc, AL.getD]

/-- A message for a bound inbound channel fills it, or is refused where it is full. -/
theorem State.mbxFromPeer_post (hlow : 120 ≤ c) (hhigh : c < 128) (hbound : s.mbxBound c = true) :
    s.mbxFromPeer w 0 epoch c = if s.mbxFull c then s.mbxRefused c Cond.MBX_POST_FULL
      else (s.mbxPlace c w (s.mbxEpoch 61)).set (F.MBX_STAT_ORIG_EPOCH c) epoch := by
  rw [State.mbxFromPeer, if_pos rfl, if_pos ⟨hlow, hhigh, hbound⟩]

/-- A message about a full outbound channel clears it, or drops its word. -/
theorem State.mbxFromPeer_outbound {kind : Nat} (hk : kind ≠ 0) (hlow : 112 ≤ c) (hhigh : c < 120) (hfull : s.mbxFull c = true) :
    s.mbxFromPeer w kind epoch c = if kind = 1 then s.setAll [(F.MBX_TAKE_WORD c, 0), (F.MBX_STAT_FULL c, 0)] else s.mbxDropped c := by
  rw [State.mbxFromPeer, if_neg hk, if_pos ⟨hlow, hhigh, hfull⟩]

end

/-- Settles O45: bundles by their states, and messages by what they carry. -/
theorem peerLinkAndModeMessagesAct : Obligations.PeerLinkAndModeMessagesAct := by
  refine ⟨?_, ?_, ?_, ?_, ?_, ?_, ?_, ?_, ?_, ?_, ?_, ?_, ?_, ?_, ?_, ?_, ?_, ?_, ?_, ?_, ?_, ?_⟩
  · -- PEER_LINK_ENABLE
    intro m en s judged
    simp only [exec_peerLinkEnable, execPeerLinkEnable, State.busWr_done judged]
  · -- PEER_BUNDLE_RETRAIN
    intro m mask s judged
    simp only [exec_peerBundleRetrain, execPeerBundleRetrain, State.busWr_done judged]
  · -- PEER_BUNDLE_ACTIVE
    intro b skews s hb hon hactive hlen hskews
    have hruns : ¬ (2 ≤ b ∨ (!s.bundleOn b) = true ∨ s.bundleActive b = true ∨ skews.length ≠ 16) := by
      simp [hon, hactive, hlen, hb]
    have hskews : ¬ skews.any (fun k => 64 < k) = true := by rw [hskews]; decide
    rw [exec_peerBundleActive, execPeerBundleActive, if_neg hruns, if_neg hskews]
    rfl
  · -- PEER_BUNDLE_ACTIVE
    intro b skews s hb hon hactive hlen hskews
    have hruns : ¬ (2 ≤ b ∨ (!s.bundleOn b) = true ∨ s.bundleActive b = true ∨ skews.length ≠ 16) := by
      simp [hon, hactive, hlen, hb]
    rw [exec_peerBundleActive, execPeerBundleActive, if_neg hruns, if_pos hskews]
  · -- PEER_BUNDLE_LEAVE_ACTIVE
    intro b s hb hbundleActive
    simp [execPeerBundleLeaveActive, hb, hbundleActive]
  · -- PEER_FLIT_RX
    intro b flit s hb hbundleActive
    simp [execPeerFlitRx, hb, hbundleActive]
  · -- PEER_REPLAY_TIMER
    intro b s hb hactive hflight hdue hrun
    rw [exec_peerReplayTimer, execPeerReplayTimer]
    dsimp only
    rw [if_pos ⟨hb, hactive, hflight, hdue⟩, State.timerRun_counted, if_neg (by omega)]
  · -- PEER_REPLAY_TIMER
    intro b s hb hactive hflight hdue hrun
    rw [exec_peerReplayTimer, execPeerReplayTimer]
    dsimp only
    rw [if_pos ⟨hb, hactive, hflight, hdue⟩, State.timerRun_counted, if_pos (by omega)]
  · -- PEER_HELLO_RX
    intro hid format s u hctl hu
    subst hu
    rw [exec_peerHelloRx, execPeerHelloRx, if_neg (ctlBundle_not_none hctl)]
    exact congrArg _ (if_pos ⟨rfl, rfl⟩)
  · -- PEER_HELLO_RX
    intro hid arrayId layout format s hctl hother
    have hmismatch : ¬ (arrayId = s.pair.arrayId ∧ layout = 1) := by
      rintro ⟨ha, hl⟩
      rcases hother with h | h
      · exact h ha
      · exact h hl
    rw [exec_peerHelloRx, execPeerHelloRx, if_neg (ctlBundle_not_none hctl)]
    exact congrArg _ (if_neg hmismatch)
  · -- PEER_MODE_RX
    intro mode epochA epochB jgen holdsA holdsB s u hctl hmatched hu
    subst hu
    have hruns : ¬ (s.ctlBundle.isNone = true ∨ (!s.pair.helloMatched) = true) := by
      rintro (h | h)
      · exact ctlBundle_not_none hctl h
      · rw [hmatched] at h
        exact absurd h (by decide)
    rw [exec_peerModeRx, execPeerModeRx, if_neg hruns]
    rfl
  · -- PEER_MODE_SEND
    intro s hlastModeSent
    simp [execPeerModeSend, hlastModeSent]
  · -- PEER_MODE_TIMEOUT
    intro s
    simp only [exec_peerModeTimeout, execPeerModeTimeout]
  · -- PEER_LOSS_TIMEOUT
    intro s heverReachable hbundle hbundle'
    simp [execPeerLossTimeout, heverReachable, hbundle, hbundle']
  · -- PEER_HANDOVER_RX
    intro s heverReachable
    simp [execPeerHandoverRx, heverReachable]
  · -- PEER_KEY_WRAP_RX
    intro jgen wrapped s
    rfl
  · -- PEER_SYNC_DATA_RX
    intro k d gen count idx unit useq vol snap page val e s
    refine ⟨?_, ?_, ?_, ?_⟩
    · simp [execPeerSyncDataRx]
    · simp [execPeerSyncDataRx]
    · simp [execPeerSyncDataRx]
    · simp [execPeerSyncDataRx]
  · -- PEER_MAILBOX_RX
    intro w epoch c s hlow hhigh hbound hfull
    rw [exec_peerMailboxRx, execPeerMailboxRx, State.mbxFromPeer_post hlow hhigh hbound, hfull, if_neg (by decide)]
  · -- PEER_HANDOVER_RX
    intro s heverReachable
    simp [execPeerHandoverRx, heverReachable]
  · -- PEER_HELLO_RX
    intro hid arrayId layout format s hctlBundle
    simp [execPeerHelloRx, hctlBundle]
  · -- PEER_MAILBOX_RX
    intro w epoch c s hlow hhigh hbound hfull
    rw [exec_peerMailboxRx, execPeerMailboxRx, State.mbxFromPeer_post hlow hhigh hbound, if_pos hfull]
  · -- PEER_MAILBOX_RX
    intro kind w epoch c s hlow hhigh hfull hkind
    constructor
    · rw [exec_peerMailboxRx, execPeerMailboxRx, State.mbxFromPeer_outbound (by decide) hlow hhigh hfull, if_pos rfl]
    · rw [exec_peerMailboxRx, execPeerMailboxRx, State.mbxFromPeer_outbound (by omega) hlow hhigh hfull, if_neg (by omega)]

end Sys2Proof.Machine
end

section
/-! SUPPORT. Mode requests (R501): the first case of refusal that applies, and what a request does that none refuses. -/

namespace Sys2Proof.Machine

section

variable {s : State} {op : Nat}

/-- A request that is refused ends with its condition; while one is busy its BUSY stays. -/
theorem State.modeReq_refused {c : Nat} (h : s.modeRefusal op = c) (hc : c ≠ 0) (hbusy : c ≠ Cond.MODE_REQ_BUSY) :
    s.modeReq op = s.modeResult 2 c := by
  subst h
  rw [State.modeReq, if_pos hc, if_neg hbusy]

theorem State.modeReq_busy (h : s.modeRefusal op = Cond.MODE_REQ_BUSY) :
    s.modeReq op = s.setAll [(F.LSE_MODE_REQ_STAT_RESULT, 2), (F.LSE_MODE_REQ_STAT_CONDITION, Cond.MODE_REQ_BUSY),
      (F.LSE_MODE_REQ_STAT_BEAT, s.beat32)] := by
  rw [State.modeReq, h]
  exact (if_pos (by decide)).trans (if_pos rfl)

/-- A request for SERVICE that none refuses enters it, and in PAIRED begins the hand-over. -/
theorem State.modeReq_service (h : s.modeRefusal op = 0) (hop : op ≠ 3) (hmode : s.mode ≠ .paired) :
    s.modeReq op = (s.releaseAll.setMode .service).modeResult 1 0 := by
  rw [State.modeReq, h]
  exact (if_neg (by decide)).trans ((if_neg hop).trans (if_neg hmode))

theorem State.modeReq_handOver (h : s.modeRefusal op = 0) (hop : op ≠ 3) (hmode : s.mode = .paired) :
    s.modeReq op = (s.set F.LSE_MODE_REQ_STAT_BUSY 1).handOver 0 := by
  rw [State.modeReq, h]
  exact (if_neg (by decide)).trans ((if_neg hop).trans (if_pos hmode))

/-- A request that its mode admits is refused only while one is busy. -/
theorem State.modeRefusal_admitted (habsent : ¬ (op = 1 ∧ s.mode = .paired ∧
      (!(s.get F.PRL_STAT_REACHABLE = 1 ∧ s.get F.PRL_PEER_INFO_MODE = 3)) = true))
    (hsolo : ¬ (op = 1 ∧ s.mode = .solo)) (hmode : ((op = 1 ∨ op = 2) ∧ (s.mode = .boot ∨ s.serving = true)) ∨
      (op = 3 ∧ (s.mode = .service ∨ s.mode = .fenced))) :
    s.modeRefusal op = if s.get F.LSE_MODE_REQ_STAT_BUSY = 1 then Cond.MODE_REQ_BUSY else 0 := by
  have hvalid : ¬ (((op = 1 ∨ op = 2) ∧ (!(s.mode = .boot ∨ s.serving)) = true) ∨
      (op = 3 ∧ (!(s.mode = .service ∨ s.mode = .fenced)) = true) ∨ op = 0 ∨ 3 < op) := by
    rcases hmode with ⟨hop, hm⟩ | ⟨hop, hm⟩ <;> simp [hm] <;> omega
  simp only [State.modeRefusal]
  rw [if_neg habsent, if_neg hsolo, if_neg hvalid]

end

/-- Settles O46: the refusals of R501 in their order (`State.modeRefusal_admitted`), then what the request does. -/
theorem modeRequestsAndHandOverRun : Obligations.ModeRequestsAndHandOverRun := by
  refine ⟨?_, ?_, ?_, ?_, ?_, ?_, ?_, ?_, ?_⟩
  · -- LSE_MODE_REQ_SERVICE, LSE_MODE_REQ_SERVICE_RELEASE
    intro m s hjudge hmode hone htwo
    have hpaired : s.mode ≠ .paired := by rw [hmode]; decide
    constructor
    · rw [exec_lseModeReqService, execLseModeReqService, State.busWr_done hjudge, State.modeReq_service hone (by decide) hpaired]
    · rw [exec_lseModeReqServiceRelease, execLseModeReqServiceRelease, State.busWr_done hjudge,
        State.modeReq_service htwo (by decide) hpaired]
  · -- LSE_MODE_REQ_SERVICE_RELEASE
    intro m s hjudge hmode htwo
    have hpaired : s.mode ≠ .paired := by rw [hmode]; decide
    rw [exec_lseModeReqServiceRelease, execLseModeReqServiceRelease, State.busWr_done hjudge,
      State.modeReq_service htwo (by decide) hpaired]
  · -- LSE_MODE_REQ_SERVICE, LSE_MODE_REQ_SERVICE_RELEASE
    intro m s hjudge hmode hone htwo
    constructor
    · rw [exec_lseModeReqService, execLseModeReqService, State.busWr_done hjudge, State.modeReq_handOver hone (by decide) hmode]
    · rw [exec_lseModeReqServiceRelease, execLseModeReqServiceRelease, State.busWr_done hjudge,
        State.modeReq_handOver htwo (by decide) hmode]
  · -- LSE_MODE_REQ_REBOOT
    intro m s hjudge hmode hbusy
    have hadmitted : s.modeRefusal 3 = 0 := by
      rw [State.modeRefusal_admitted (by simp) (by simp) (Or.inr ⟨rfl, hmode⟩), if_neg hbusy]
    rw [exec_lseModeReqReboot, execLseModeReqReboot, State.busWr_done hjudge, State.modeReq, hadmitted]
    rfl
  · -- LSE_MODE_REQ_SERVICE, LSE_MODE_REQ_SERVICE_RELEASE, LSE_MODE_REQ_REBOOT
    intro m s hjudge
    have hservice (c : Nat) (h : s.modeRefusal 1 = c) (hc : c ≠ 0) (hb : c ≠ Cond.MODE_REQ_BUSY) :
        exec (.lseModeReqService m) s = .next (s.modeResult 2 c) := by
      rw [exec_lseModeReqService, execLseModeReqService, State.busWr_done hjudge, State.modeReq_refused h hc hb]
    refine ⟨fun hpaired habsent => hservice _ ?_ (by decide) (by decide), fun hsolo => hservice _ ?_ (by decide) (by decide),
      fun hboot hpaired hsolo => ⟨hservice _ ?_ (by decide) (by decide), ?_⟩, fun hnot hnot' => ?_⟩
    · have : (!(s.get F.PRL_STAT_REACHABLE = 1 ∧ s.get F.PRL_PEER_INFO_MODE = 3)) = true := by
        simp only [Bool.not_eq_true', decide_eq_false_iff_not]
        tauto
      simp only [State.modeRefusal]
      exact if_pos ⟨trivial, hpaired, this⟩
    · simp [State.modeRefusal, hsolo]
    · simp [State.modeRefusal, State.serving, hboot, hpaired, hsolo]
    · rw [exec_lseModeReqServiceRelease, execLseModeReqServiceRelease, State.busWr_done hjudge,
        State.modeReq_refused (c := Cond.MODE_REQ_INVALID) ?_ (by decide) (by decide)]
      simp [State.modeRefusal, State.serving, hboot, hpaired, hsolo]
    · rw [exec_lseModeReqReboot, execLseModeReqReboot, State.busWr_done hjudge,
        State.modeReq_refused (c := Cond.MODE_REQ_INVALID) ?_ (by decide) (by decide)]
      simp [State.modeRefusal, hnot, hnot']
  · -- LSE_MODE_REQ_SERVICE, LSE_MODE_REQ_SERVICE_RELEASE, LSE_MODE_REQ_REBOOT
    intro m s u hjudge hbusy hu
    subst hu
    refine ⟨fun hboot => ?_, fun hmode => ?_, fun hmode => ?_⟩
    · rw [exec_lseModeReqService, execLseModeReqService, State.busWr_done hjudge, State.modeReq_busy]
      rw [State.modeRefusal_admitted (by simp [hboot]) (by simp [hboot]) (Or.inl ⟨Or.inl rfl, Or.inl hboot⟩), if_pos hbusy]
    · have hserves : s.mode = .boot ∨ s.serving = true := by
        rcases hmode with h | h | h <;> simp [State.serving, h]
      rw [exec_lseModeReqServiceRelease, execLseModeReqServiceRelease, State.busWr_done hjudge, State.modeReq_busy]
      rw [State.modeRefusal_admitted (by simp) (by simp) (Or.inl ⟨Or.inr rfl, hserves⟩), if_pos hbusy]
    · rw [exec_lseModeReqReboot, execLseModeReqReboot, State.busWr_done hjudge, State.modeReq_busy]
      rw [State.modeRefusal_admitted (by simp) (by simp) (Or.inr ⟨rfl, hmode⟩), if_pos hbusy]
  · -- HANDOVER_DRAINED
    intro s hhand hmode hwritesDrained
    simp [execHandoverDrained, hhand, hmode, hwritesDrained]
  · -- HANDBACK_RELEASE
    intro s hmode hhand hpeerRing
    simp [execHandbackRelease, hmode, hhand, hpeerRing]
  · -- HANDBACK_TIMEOUT
    intro s hhand hhandDeadline
    simp [execHandbackTimeout, hhand, hhandDeadline]

end Sys2Proof.Machine
end

section
/-! SUPPORT. The lease count and the witness (chapter 12): a sound frame of the serial link has the effect of its type. -/

namespace Sys2Proof.Machine

section

variable {s u : State} {frame : List Nat} {typ : Nat} {f : WitFrame}

/-- A sound frame of the type that its row takes is counted as heard and has the effect of its type. -/
theorem State.witSerial_heard (h : s.WitHeard frame typ f u) :
    s.witSerial frame typ =
      if typ = 0x81 then (u.witOk false).grant f
      else if typ = 0x82 then (u.witOk false).waitFor f
      else if typ = 0x83 then (u.witOk false).denied f
      else if typ = 0x84 then (u.witOk false).witStatus f false
      else if typ = 0x85 then (u.witOk false).released f
      else u.witOk false := by
  obtain ⟨hon, hparse, htyp⟩ := h
  rw [State.witSerial, if_pos hon, State.witRx, hparse]
  simp [htyp]

theorem State.witSerial_unsound (hon : s.get F.LSE_WIT_CFG_SERIAL_EN = 1) (hparse : s.witParse frame = (none, u)) :
    s.witSerial frame typ = u := by
  rw [State.witSerial, if_pos hon, State.witRx, hparse]

end

/-- Settles O47: a frame that R519 finds sound has the effect of its type (`State.witSerial_heard`); timers act when due. -/
theorem leasesFollowTheWitness : Obligations.LeasesFollowTheWitness := by
  refine ⟨?_, ?_, ?_, ?_, ?_, ?_, ?_, ?_, ?_, ?_, ?_, ?_, ?_, ?_, ?_, ?_, ?_, ?_, ?_⟩
  · -- LEASE_FENCE_POINT
    intro sh s hsh hleaseHeld hfenceDue
    simp [execLeaseFencePoint, hsh, hleaseHeld, hfenceDue]
  · -- LEASE_RENEW_DUE
    intro sh s hsh hstate hle hfenceDue
    simp [execLeaseRenewDue, hsh, hstate, hle, hfenceDue]
  · -- WITNESS_RETRY
    intro sh s hsh hreq hwait hdue
    rw [exec_witnessRetry, execWitnessRetry]
    dsimp only
    rw [if_pos ⟨hsh, hreq, hwait, hdue⟩]
    rfl
  · -- WITNESS_GRANT_RX
    intro frame f s u hheard
    rw [exec_witnessGrantRx, execWitnessGrantRx, State.witSerial_heard hheard, if_pos rfl]
  · -- WITNESS_WAIT_RX
    intro frame f s u hheard
    rw [exec_witnessWaitRx, execWitnessWaitRx, State.witSerial_heard hheard, if_neg (by decide), if_pos rfl]
  · -- WITNESS_DENY_RX
    intro frame f s u hheard
    rw [exec_witnessDenyRx, execWitnessDenyRx, State.witSerial_heard hheard, if_neg (by decide), if_neg (by decide), if_pos rfl]
  · -- WITNESS_STATUS_RX
    intro frame f s u hheard
    rw [exec_witnessStatusRx, execWitnessStatusRx, State.witSerial_heard hheard, if_neg (by decide), if_neg (by decide),
      if_neg (by decide), if_pos rfl]
  · -- WITNESS_RELEASED_RX
    intro frame f s u hheard
    rw [exec_witnessReleasedRx, execWitnessReleasedRx, State.witSerial_heard hheard, if_neg (by decide), if_neg (by decide),
      if_neg (by decide), if_neg (by decide), if_pos rfl]
  · -- WITNESS_GRANT_RX, WITNESS_WAIT_RX, WITNESS_DENY_RX, WITNESS_STATUS_RX, WITNESS_RELEASED_RX
    intro frame s u hon hparse
    simp only [exec_witnessGrantRx, execWitnessGrantRx, exec_witnessWaitRx, execWitnessWaitRx, exec_witnessDenyRx,
        execWitnessDenyRx,
      exec_witnessStatusRx, execWitnessStatusRx, exec_witnessReleasedRx, execWitnessReleasedRx,
      State.witSerial_unsound hon hparse, and_self]
  · -- WITNESS_WAIT_EXPIRE
    intro sh b s hsh hlease hb hb'
    simp [execWitnessWaitExpire, hsh, hlease, hb, hb']
  · -- WITNESS_REPORT_SEND
    intro s hwitLive hmode hlastReport
    simp [execWitnessReportSend, hwitLive, hmode, hlastReport]
  · -- HOME_ACQUIRE
    intro s hmode hmayAcquire hleaseHeld hlease
    simp [execHomeAcquire, hmode, hmayAcquire, hleaseHeld, hlease]
  · -- BOOT_WAIT_EXPIRE
    intro s hmode hmayAcquire hleaseHeld hreachable hphase hmax
    simp [execBootWaitExpire, hmode, hmayAcquire, hleaseHeld, hreachable, hphase, hmax]
  · -- FENCED_PROBE
    intro s hmode hlastProbe
    simp [execFencedProbe, hmode, hlastProbe]
  · -- RUB_TEST
    intro ringOk ckptOk s hmode hrunning hlastRub
    simp [execRubTest, hmode, hrunning, Nat.not_lt.mpr hlastRub]
  · -- PEER_RUB_RX
    intro b s hb
    have hb : ¬ 2 ≤ b := by omega
    constructor
    · rw [exec_peerRubRx, execPeerRubRx, if_neg hb]
      rfl
    · rw [exec_peerRubRx, execPeerRubRx, if_neg hb]
      by_cases hin : s.beat ≤ s.pair.rubSentBeat + 16 <;> simp [hin]
  · -- RUB_PROBE_END
    intro probe s hprobe hrubSentBeat
    simp only [exec_rubProbeEnd, execRubProbeEnd, hprobe, hrubSentBeat] <;> rfl
  · -- LSE_WIT_RX_WRITE
    intro m len s judged hen
    simp [execLseWitRxWrite, State.busWr_done judged, hen]
  · -- LSE_WIT_TX_READ
    intro m s judged
    simp only [exec_lseWitTxRead, execLseWitTxRead, State.busRd_done judged]

end Sys2Proof.Machine
end

section
/-! SUPPORT. Membership of the fabric and the commands of replication links (chapter 13). -/

namespace Sys2Proof.Machine

section

variable {s u : State} {l : List Nat} {typ m : Nat} {x : FabHello} {f : FabHello → State → State}

/-- A hello or LEAVE that passes R538 is counted, its sequence number kept, and has the effect of its row. -/
theorem State.helloTake_sound (h : s.HelloSound l typ x u) : s.helloTake l typ f = f x u := by
  obtain ⟨hmay, hon, hlost, htyp, hx, hgood, hu⟩ := h
  have htakes : ¬ ((!s.fabMay) = true ∨ s.get F.FAB_STAT_STATE = 0 ∨ s.get F.FAB_STAT_STATE = 4 ∨ l.getD 3 0 ≠ typ) := by
    simp [hmay, hon, hlost, ← htyp]
  subst hu hx
  rw [State.helloTake, if_neg htakes]
  dsimp only
  rw [hgood]
  rfl

/-- One that fails R538 is counted. -/
theorem State.helloTake_bad {key : Option Nat} (hmay : s.fabMay = true) (hon : s.get F.FAB_STAT_STATE ≠ 0)
    (hlost : s.get F.FAB_STAT_STATE ≠ 4) (htyp : l.getD 3 0 = typ) (hkey : (key, u) = s.slotFor (s.get F.FAB_CFG_KEY_SLOT) 1)
    (hbad : u.helloBad key l = true) : s.helloTake l typ f = u.bump F.FAB_CNT_HELLO_BAD_COUNT := by
  have htakes : ¬ ((!s.fabMay) = true ∨ s.get F.FAB_STAT_STATE = 0 ∨ s.get F.FAB_STAT_STATE = 4 ∨ l.getD 3 0 ≠ typ) := by
    simp [hmay, hon, hlost, ← htyp]
  rw [State.helloTake, if_neg htakes, ← hkey]
  dsimp only
  rw [if_pos hbad]

end

section

variable {s : State} {m : Nat} {f : State → State}

/-- A link command runs, or is refused while one is busy. -/
theorem linkCmdBus_runs (hjudge : s.judge m Slot.REP 0x128 true true = none) (hidle : s.get F.REP_LINK_CMD_STAT_BUSY ≠ 1) :
    linkCmdBus m f s = .next (f s) := by
  rw [linkCmdBus, State.busWr_done hjudge, if_neg hidle]

theorem linkCmdBus_busy (hjudge : s.judge m Slot.REP 0x128 true true = none) (hbusy : s.get F.REP_LINK_CMD_STAT_BUSY = 1) :
    linkCmdBus m f s = .next (s.raise Slot.REP Cond.REP_CMD_BUSY) := by
  rw [linkCmdBus, State.busWr_done hjudge, if_pos hbusy]

end

/-- Settles O48: hellos go through `State.helloTake`, link commands through `linkCmdBus`. -/
theorem fabricMembershipAndLinksAct : Obligations.FabricMembershipAndLinksAct := by
  refine ⟨?_, ?_, ?_, ?_, ?_, ?_, ?_, ?_, ?_, ?_, ?_, ?_, ?_, ?_, ?_, ?_, ?_, ?_, ?_, ?_, ?_⟩
  · -- FAB_HELLO_SEND
    intro s hfabMay hstate
    simp [execFabHelloSend, hfabMay, hstate]
  · -- FAB_HELLO_SEND
    intro s hfabMay hstate hhelloBeat
    simp [execFabHelloSend, hfabMay, hstate, Nat.not_lt.mpr hhelloBeat]
  · -- FAB_HELLO_SEND
    intro s hfabMay hstate hhelloBeat
    simp [execFabHelloSend, hfabMay, hstate, hhelloBeat]
  · -- FAB_HELLO_SEND
    intro s hfabMay
    simp [execFabHelloSend, hfabMay]
  · -- FAB_HELLO_RX
    intro l x s u hsound hother hpeer
    have hforeign : ¬ (x.hid = peerHid (u.get F.FAB_ID_HID) ∧ x.arrayId ≠ u.pair.arrayId) := by
      rintro ⟨hp, ha⟩
      rcases hpeer with h | h
      · exact h hp
      · exact ha h
    rw [exec_fabHelloRx, execFabHelloRx, State.helloTake_sound hsound]
    dsimp only
    rw [if_neg hother, if_neg hforeign]
    rfl
  · -- FAB_HELLO_RX
    intro l x s u hsound
    rw [exec_fabHelloRx, execFabHelloRx, State.helloTake_sound hsound]
    refine ⟨fun hown => ?_, fun hother hpeer harray => ?_⟩
    · exact congrArg _ (if_pos hown)
    · exact congrArg _ ((if_neg hother).trans (if_pos ⟨hpeer, harray⟩))
  · -- FAB_HELLO_RX, FAB_LEAVE_RX
    intro l typ key s u hmay hon hlost htyp hkey hbad
    rw [exec_fabHelloRx, execFabHelloRx, exec_fabLeaveRx, execFabLeaveRx]
    refine ⟨fun h => ?_, fun h => ?_⟩ <;> subst h <;> rw [State.helloTake_bad hmay hon hlost htyp hkey hbad]
  · -- FAB_LEAVE_RX
    intro l x s u hsound
    rw [exec_fabLeaveRx, execFabLeaveRx, State.helloTake_sound hsound]
  · -- FAB_MEMBER_MISS
    intro hid m s u hm hst hdue hu
    subst hu
    rw [exec_fabMemberMiss, execFabMemberMiss, hm]
    dsimp only
    rw [if_pos ⟨hst, hdue⟩, State.memberLost, hm]
    dsimp only
    rw [if_neg hst]
  · -- FAB_PLACE_HOLD_EXPIRE
    intro b s hb hb'
    simp [execFabPlaceHoldExpire, hb, hb']
  · -- FAB_PLACE_SWAP
    intro l b s u hcomputing hb hu
    subst hu
    simp [execFabPlaceSwap, hcomputing, hb]
  · -- FAB_FETCH_TIMEOUT
    intro key x s hx harrived hdue
    rw [exec_fabFetchTimeout, execFabFetchTimeout, hx]
    dsimp only
    rw [if_pos ⟨by simp [harrived], hdue⟩, State.fetchAbandon, hx]
    dsimp only
    cases AL.get x.ctag s.fab.out <;> rfl
  · -- REP_LINK_LOAD
    intro m link l s hjudge hidle hnone hentry hsound
    rw [exec_repLinkLoad, execRepLinkLoad, linkCmdBus_runs hjudge hidle, State.linkLoad, hnone, hentry]
    dsimp only
    rw [hsound]
    rfl
  · -- REP_LINK_STOP
    intro m link l s hjudge hidle _
    rw [exec_repLinkStop, execRepLinkStop, linkCmdBus_runs hjudge hidle]
  · -- REP_LINK_OFFER
    intro m link snap l x s hjudge hidle hl hsource hx hvol
    rw [exec_repLinkOffer, execRepLinkOffer, linkCmdBus_runs hjudge hidle, State.linkOffer, hl]
    simp [hsource, hx, hvol]
  · -- REP_LINK_RESYNC
    intro m link l s hjudge hidle hl hsource hmode hst
    rw [exec_repLinkResync, execRepLinkResync, linkCmdBus_runs hjudge hidle, State.linkResync, hl]
    simp [hsource, hmode, hst]
  · -- REP_LINK_LOAD, REP_LINK_STOP, REP_LINK_OFFER, REP_LINK_RESYNC
    intro m link snap s hjudge hbusy
    exact ⟨linkCmdBus_busy hjudge hbusy, linkCmdBus_busy hjudge hbusy, linkCmdBus_busy hjudge hbusy,
        linkCmdBus_busy hjudge hbusy⟩
  · -- REP_LINK_LOAD, REP_LINK_STOP, REP_LINK_OFFER, REP_LINK_RESYNC
    intro m link snap s hjudge hidle hnone
    rw [exec_repLinkLoad, execRepLinkLoad, exec_repLinkStop, execRepLinkStop, exec_repLinkOffer, execRepLinkOffer,
      exec_repLinkResync, execRepLinkResync, linkCmdBus_runs hjudge hidle, linkCmdBus_runs hjudge hidle,
      linkCmdBus_runs hjudge hidle, linkCmdBus_runs hjudge hidle]
    refine ⟨fun hentry => ?_, fun l hentry hbad => ?_, ?_, ?_, ?_⟩
    · rw [State.linkLoad, hnone, hentry]
    · rw [State.linkLoad, hnone, hentry]
      exact congrArg _ (if_pos hbad)
    · rw [State.linkStop, hnone]
      rfl
    · rw [State.linkOffer, hnone]
    · rw [State.linkResync, hnone]
  · -- REP_LINK_LOAD, REP_LINK_OFFER, REP_LINK_RESYNC
    intro m link snap l s hjudge hidle hl
    rw [exec_repLinkLoad, execRepLinkLoad, exec_repLinkOffer, execRepLinkOffer, exec_repLinkResync, execRepLinkResync,
      linkCmdBus_runs hjudge hidle, linkCmdBus_runs hjudge hidle, linkCmdBus_runs hjudge hidle]
    refine ⟨?_, fun h => ?_, fun h => ?_⟩
    · rw [State.linkLoad, hl]
    · have hrefused : (l.target = true ∨ ((s.liveSnap snap).map (fun x => x.vol != l.localVol)).getD true = true) := by
        refine h.imp_right fun hvol => ?_
        cases hx : s.liveSnap snap with
        | none => rfl
        | some x => simpa using hvol x hx
      rw [State.linkOffer, hl]
      exact congrArg _ (if_pos hrefused)
    · rw [State.linkResync, hl]
      exact congrArg _ (if_pos h)
  · -- REP_POLL_DUE
    intro link l s u hl htarget hst hpolling hcycle hrepMay hunit hpollBeat hu
    subst hu
    simp [execRepPollDue, hl, htarget, hst, hpolling, hcycle, hrepMay, hunit, hpollBeat]
  · -- REP_SYNC_TIMEOUT
    intro id c s hc hisSome hsentBeat
    simp [execRepSyncTimeout, hc, hisSome, hsentBeat]

end Sys2Proof.Machine
end

section
/-! SUPPORT. Mailboxes and locks (chapter 15), through the window and from a master's own port. -/

namespace Sys2Proof.Machine

section

variable {s : State} {m c slot off : Nat} {isWrite : Bool}

/-- An access that its master may make is performed. -/
theorem State.mbxBus_performed (h : s.MbxMay m slot off isWrite) (f : State → State) : s.mbxBus m slot off isWrite f = f s := by
  rw [State.mbxBus]
  rcases h with ⟨hport, hrange⟩ | ⟨hsec, hupd, hjudge⟩
  · rw [if_pos hport, if_pos hrange]
  · rw [if_neg (not_or_intro hsec hupd)]
    cases isWrite with
    | true => exact State.busWr_done hjudge f
    | false => exact State.busRd_done hjudge f

/-- A channel out of which its receiver takes a word. -/
theorem State.mbxTake_full {u : State} (hbound : s.mbxBound c = true) (hreceiver : s.get (F.MBX_BIND_RECEIVER c) = m)
    (hfull : s.mbxFull c = true) (hu : u = s.setAll [(F.MBX_TAKE_WORD c, 0), (F.MBX_STAT_FULL c, 0)]) :
    s.mbxTake m c = (s.get (F.MBX_TAKE_WORD c), if 120 ≤ c then u.mbxSend 0 1 0 (c - 8) else u) := by
  subst hu
  rw [State.mbxTake, hbound, hfull]
  exact (if_neg (by decide)).trans ((if_neg (not_not_intro hreceiver)).trans (if_neg (by decide)))

end

/-- Settles O49: an access that its master may make is performed (`State.mbxBus_performed`); the rest is the order of the checks. -/
theorem mailboxesAndLocksServe : Obligations.MailboxesAndLocksServe := by
  refine ⟨?_, ?_, ?_, ?_, ?_, ?_, ?_, ?_, ?_, ?_⟩
  · -- MBX_POST
    intro m c w s hmay hbound hsender hfull hown _ _
    have houtbound : ¬ (112 ≤ c ∧ c < 120) := by omega
    rw [exec_mbxPost, execMbxPost, State.mbxBus_performed hmay, State.mbxPost, hbound, if_neg (by decide),
      if_neg (not_not_intro hsender), hfull, if_neg (by decide), if_neg houtbound, State.mbxPlace]
  · -- MBX_POST
    intro m c w s hmay
    rw [exec_mbxPost, execMbxPost, State.mbxBus_performed hmay, State.mbxPost]
    cases s.mbxBound c <;> rfl
  · -- MBX_TAKE
    intro m c s u hmay hbound hreceiver hfull hu
    rw [exec_mbxTake, execMbxTake, State.mbxBus_performed hmay, State.mbxTake_full hbound hreceiver hfull hu]
    simp [hbound, hreceiver, hfull]
  · -- MBX_TAKE
    intro m c s hmay
    rw [exec_mbxTake, execMbxTake, State.mbxBus_performed hmay, State.mbxTake]
    refine ⟨fun hfree => ?_, fun hbound hother => ?_, fun hbound hreceiver hempty => ?_⟩
    · simp [hfree]
    · simp [hbound, hother]
    · simp [hbound, hreceiver, hempty]
  · -- MBX_STAT_WRITE
    intro m c v s hmay
    rw [exec_mbxStatWrite, execMbxStatWrite, State.mbxBus_performed hmay, State.mbxStat]
    refine ⟨fun hfree => ?_, fun hbound hsender hreceiver => ?_, fun hbound hsender hreceiver => ?_⟩
    · simp [hfree]
    · simp [hbound, hsender, hreceiver]
    · simp [hbound, hsender, hreceiver]
  · -- MBX_STAT_WRITE
    intro m c v s u w hmay hbound hsender hu hw
    subst hu hw
    rw [exec_mbxStatWrite, execMbxStatWrite, State.mbxBus_performed hmay, State.mbxStat]
    simp [hbound, hsender]
  · -- MBX_BIND_WRITE
    intro m c snd rcv valid s hjudge
    rw [exec_mbxBindWrite, execMbxBindWrite, State.busWr_done hjudge, State.mbxBind]
    cases s.secureMaster m <;> simp
  · -- MBX_BIND_LOCK
    intro m s judged
    simp only [exec_mbxBindLock, execMbxBindLock, State.busWr_done judged]
  · -- MBX_LOCK_READ
    intro m k s hmay
    rw [exec_mbxLockRead, execMbxLockRead, State.mbxBus_performed hmay]
    dsimp only
    by_cases hfree : s.get (F.MBX_LOCK_OWNER k) = 0 ∧ ((1 ≤ m ∧ m ≤ 59) ∨ m = 62)
    · rw [if_pos hfree, if_pos hfree, hfree.1]
    · rw [if_neg hfree, if_neg hfree]
  · -- MBX_UNLOCK
    intro m k s hmay
    rw [exec_mbxUnlock, execMbxUnlock, State.mbxBus_performed hmay]

end Sys2Proof.Machine
end

section
/-! SUPPORT. The TAP's instructions and the link test (chapters 14, 16 and 19). -/

namespace Sys2Proof.Machine

section

variable {s : State} {m q : Nat} {f : State → State}

/-- A write of the test's control page is performed. -/
theorem State.testBus_done (hq : q < 64) (hjudge : s.judge m (Slot.TST + q) 0x108 true true = none) : s.testBus m q f = f s := by
  rw [State.testBus, if_neg (by omega), State.busWr_done hjudge]

/-- A test runs on lanes that are free. -/
theorem State.testRun_free (hfree : (List.range 4).any (fun n => bitOf (s.testLanes q) n && !s.laneFree q n) = false) :
    s.testRun q = if s.get (F.TST_CTL_RUN q) = 1 then
        (s.setAll [(F.TST_CTL_RUN q, 1), (F.TST_STAT_TAKEN q, s.testLanes q)]).testZero q
      else (((s.setAll [(F.TST_CTL_RUN q, 1), (F.TST_STAT_TAKEN q, s.testLanes q)]).testZero q).set (F.TST_STAT_LOCK q) 0).modTest q
        (fun x => { x with runBeat := some s.beat, lockTb := [] }) := by
  rw [State.testRun]
  dsimp only
  rw [hfree]
  rfl

end

/-- Settles O50: the instructions shift out their registers, and a test runs on lanes that are free (`State.testRun_free`). -/
theorem tapAndLinkTestAct : Obligations.TapAndLinkTestAct := by
  refine ⟨?_, ?_, ?_, ?_, ?_, ?_, ?_, ?_, ?_, ?_, ?_, ?_, ?_, ?_, ?_, ?_, ?_, ?_, ?_, ?_, ?_⟩
  · -- IDCODE, CLAMP, HIGHZ, BYPASS, DBG_STAT, TAP_RESET, SAMPLE_PRELOAD
    intro levels value code s
    exact ⟨rfl, rfl, rfl, rfl, rfl, rfl, rfl⟩
  · -- EXTEST, EXTEST_PULSE, EXTEST_TRAIN
    intro levels value s hpins
    simp only [exec_extest, execExtest, exec_extestPulse, execExtestPulse, exec_extestTrain, execExtestTrain, State.tapScan,
        hpins,
      if_true, and_self]
  · -- EXTEST, EXTEST_PULSE, EXTEST_TRAIN
    intro levels value s hpins
    simp only [exec_extest, execExtest, exec_extestPulse, execExtestPulse, exec_extestTrain, execExtestTrain, State.tapScan,
        hpins,
      Bool.false_eq_true, if_false, and_self]
  · -- DBG_CHAL
    intro s u r hno hr
    rw [exec_dbgChal, execDbgChal, if_pos hno]
    exact congrArg (fun x : List Nat × State => Host.Outcome.next (x.2.tapOut 0x20 x.1)) hr.symm
  · -- DBG_CHAL
    intro s hdebugDisable hinReset htripped hmode hready
    simp [execDbgChal, hdebugDisable, hinReset, htripped, hmode, hready]
  · -- DBG_TOKEN
    intro bytes s u hu
    subst hu
    refine ⟨?_, ?_⟩
    · intro hinReset
      simp [execDbgToken, hinReset]
    · intro hinReset htripped hmode hdebugDisable
      simp [execDbgToken, hinReset, htripped, hmode, hdebugDisable]
  · -- DBG_TOKEN
    intro bytes s u hinReset htripped hmode hu hdebugDisable
    subst hu
    simp [execDbgToken, hinReset, htripped, hmode, hdebugDisable]
  · -- DBG_MEM
    intro addr data s hinReset hinWindow
    refine ⟨?_, ?_⟩
    · simp only [exec_dbgMem, execDbgMem, hinReset, hinWindow] <;> rfl
    · simp only [exec_dbgMem, execDbgMem, hinReset, hinWindow] <;> rfl
  · -- DBG_MEM
    intro wr addr data s
    refine ⟨fun hreset => ?_, fun hrun houtside => ?_⟩
    · simp [exec_dbgMem, execDbgMem, hreset]
    · rw [exec_dbgMem, execDbgMem, hrun]
      dsimp only
      rw [houtside]
      rfl
  · -- TST_RUN
    intro m q s hq hjudge hbusy
    rw [exec_tstRun, execTstRun, State.testBus_done hq hjudge]
    exact congrArg _ (if_pos hbusy)
  · -- TST_RUN
    intro m q s hq hjudge hfree hrun
    rw [exec_tstRun, execTstRun, State.testBus_done hq hjudge]
    exact congrArg _ ((State.testRun_free hfree).trans (if_pos hrun))
  · -- TST_RUN
    intro m q s hq hjudge hfree hrun
    rw [exec_tstRun, execTstRun, State.testBus_done hq hjudge]
    exact congrArg _ ((State.testRun_free hfree).trans (if_neg hrun))
  · -- TST_STOP
    intro m q errs s hq hjudge
    rw [exec_tstStop, execTstStop, State.testBus_done hq hjudge]
    rfl
  · -- TST_CLEAR
    intro m q s hq hjudge hrun
    have hstop : s.testStop q [] = s := by rw [State.testStop, if_pos hrun]
    rw [exec_tstClear, execTstClear, State.testBus_done hq hjudge, hrun]
    exact congrArg (fun u : State => Host.Outcome.next (u.testZero q)) hstop
  · -- TST_CLEAR
    intro m q s hq hjudge hrun
    rw [exec_tstClear, execTstClear, State.testBus_done hq hjudge, hrun]
    rfl
  · -- TST_EYE_SCAN
    intro m q s hq hjudge hidle hrun
    rw [exec_tstEyeScan, execTstEyeScan, State.testBus_done hq hjudge, if_neg (by omega), State.testEye, if_neg hidle]
  · -- TST_EYE_SCAN
    intro m q s hq hjudge
    rw [exec_tstEyeScan, execTstEyeScan, State.testBus_done hq hjudge]
    refine ⟨fun hrun => ?_, fun hrun hscans => ?_⟩
    · exact congrArg _ (if_pos hrun)
    · rw [if_neg hrun, State.testEye, if_pos hscans]
  · -- TST_EYE_DONE
    intro q a lane dwell counts s htst hinHbm
    simp [execTstEyeDone, htst, hinHbm]
  · -- TST_EYE_DONE
    intro q a lane dwell counts s htst hinHbm
    simp [execTstEyeDone, htst, hinHbm]
  · -- TST_CHECKER_LOCK
    intro q n s hq hn hrun hbitOf hbitOf'
    simp [execTstCheckerLock, hrun, hbitOf, hbitOf', Nat.not_le.mpr hq, Nat.not_le.mpr hn]
  · -- TST_LOCK_LOSS
    intro q n errs s u hq hn hbitOf hu
    subst hu
    simp [execTstLockLoss, hbitOf, Nat.not_le.mpr hq, Nat.not_le.mpr hn]

end Sys2Proof.Machine
end

section
/-! SUPPORT. Power states of the domains, DOZE, and the loss of a reference (chapter 17). -/

namespace Sys2Proof.Machine

section

variable {s : State} {m d target cores r k : Nat}

/-- Asking the units of a domain to quiesce takes no time. -/
theorem State.beat_foldl_quiesce (units : List Nat) :
    (units.foldl (fun (s : State) k => s.setUnit k { s.unit k with quiesce := true }) s).beat = s.beat := by
  induction units generalizing s with
  | nil => rfl
  | cons k units ih => exact ih.trans rfl

theorem State.beat_domQuiesce : (s.domQuiesce d).beat = s.beat := State.beat_foldl_quiesce _

/-- A write of a domain's control register asks for its operation. -/
theorem pwrDomSetState_asks (hd : d < 20) (hjudge : s.judge m Slot.PWR (0x200 + 8 * d) true true = none) :
    exec (.pwrDomSetState m d target) s = .next (s.domReq d 1 (target % 4) 0) := by
  rw [exec_pwrDomSetState, execPwrDomSetState, if_neg (by omega), State.busWr_done hjudge]

theorem pwrDomResetCores_asks (hd : d < 20) (hjudge : s.judge m Slot.PWR (0x200 + 8 * d) true true = none) :
    exec (.pwrDomResetCores m d cores) s = .next (s.domReq d 2 0 (cores % 2 ^ 16)) := by
  rw [exec_pwrDomResetCores, execPwrDomResetCores, if_neg (by omega), State.busWr_done hjudge]

theorem State.domReq_refused {op : Nat} (hr : r ≠ 0) (hrefused : s.domRefuser d op target cores = r) :
    s.domReq d op target cores = s.pwrResult d r := by
  subst hrefused
  rw [State.domReq]
  exact if_pos hr

/-- A domain that no refuser holds moves to the state asked for. -/
theorem State.domReq_moves (hfree : s.domRefuser d 1 target 0 = 0) :
    s.domReq d 1 target 0 =
      if target = s.dom d then s.pwrResult d 0
      else if target = 3 ∧ s.dom d = 2 then (s.domGo d 3).pwrResult d 0
      else if s.dom d < target then (s.set F.PWR_REQ_STAT_DOMAIN d).exitBegin d true
      else if s.dom d = 1 then ((s.domGo d 0).bump F.PWR_CNT_ENTRY_COUNT).pwrResult d 0
      else ((s.domQuiesce d).modPwr
          (fun p => { p with req := some { dom := d, target := target, since := (s.domQuiesce d).beat } })).setAll
        [(F.PWR_REQ_STAT_BUSY, 1), (F.PWR_REQ_STAT_DOMAIN, d)] := by
  rw [State.domReq, hfree, State.beat_domQuiesce]
  exact (if_neg (by decide)).trans (if_neg (by decide))

/-- The loss of a reference that is monitored is shown and reported, and takes down what it clocks. -/
theorem clkRefLoss_reported (hk : k < 7) (hon : bitOf (s.get F.CLK_MON_CFG_EN) k = true) (hok : s.refOk k = true)
    (hrun : s.inReset = false) :
    exec (.clkRefLoss k) s = .next (
      let s := s.modPwr (fun p => { p with refBad := p.refBad ++ [k] })
      let s := s.setAll [(F.CLK_MON_STAT_FAIL, s.get F.CLK_MON_STAT_FAIL ||| 2 ^ k), (F.CLK_REF_STAT_OK, s.refBits)]
      let s := ((s.bump F.CLK_CNT_REF_LOSS_COUNT).bump F.CLK_CNT_MON_FAIL_COUNT).irq Slot.CLK 1
      let s := if k = 2 ∨ k = 3 then ((List.range 48).map (fun p => 48 * (k - 2) + p)).foldl (fun (s : State) p => s.portLink p false) s
        else if k = 4 ∨ k = 5 then ((List.range 64).map (fun n => 64 * (k - 4) + n)).foldl (fun (s : State) ln =>
          if s.get (F.MDL_LINK_STAT_STATE ln) = 0 then s else s.linkDown ln) s
        else if k = 6 then (s.bundleDown 0).bundleDown 1
        else s
      if k = 0 then s.raiseAt Slot.CLK Cond.CLK_REF_LOSS k 6 else s.raise Slot.CLK Cond.CLK_REF_LOSS k) := by
  rw [exec_clkRefLoss, execClkRefLoss, if_neg (by simp [hon, hok, hrun, hk])]

end

/-- Settles O51: a request that no refuser holds moves its domain (`State.domReq_moves`); the other rows act where their premises hold. -/
theorem powerStatesAndDozeMove : Obligations.PowerStatesAndDozeMove := by
  refine ⟨?_, ?_, ?_, ?_, ?_, ?_, ?_, ?_, ?_, ?_, ?_, ?_, ?_, ?_, ?_, ?_, ?_, ?_, ?_, ?_, ?_, ?_, ?_, ?_, ?_⟩
  · -- PWR_DOM_SET_STATE
    intro m d target s hd hjudge hfree htarget hdom
    rw [pwrDomSetState_asks hd hjudge, State.domReq_moves hfree, if_neg (by omega), if_pos ⟨htarget, hdom⟩]
  · -- PWR_DOM_SET_STATE
    intro m d target s hd hjudge hfree hdom htarget
    rw [pwrDomSetState_asks hd hjudge, State.domReq_moves hfree, if_neg (by omega), if_neg (by omega), if_neg (by omega),
      if_neg (by omega)]
  · -- PWR_DOM_SET_STATE
    intro m d target s hd hjudge hfree
    rw [pwrDomSetState_asks hd hjudge, State.domReq_moves hfree]
    refine ⟨fun hsame => ?_, fun hrise hidle => ?_, fun hret hoff => ?_, fun hidle hlower => ?_⟩
    · rw [if_pos hsame]
    · rw [if_neg (by omega), if_neg (by omega), if_pos hrise]
    · rw [if_neg (by omega), if_neg (by omega), if_neg (by omega), if_pos hret]
    · rw [if_neg (by omega), if_neg (by omega), if_neg (by omega), if_neg (by omega)]
  · -- PWR_DOM_SET_STATE, PWR_DOM_RESET_CORES
    intro m d target cores r s hd hjudge hr
    refine ⟨fun hrefused => ?_, fun hrefused => ?_⟩
    · rw [pwrDomSetState_asks hd hjudge, State.domReq_refused hr hrefused]
    · rw [pwrDomResetCores_asks hd hjudge, State.domReq_refused hr hrefused]
  · -- PWR_DOM_RESET_CORES
    intro m d cores s hd hjudge hfree
    rw [pwrDomResetCores_asks hd hjudge, State.domReq, hfree]
    rfl
  · -- PWR_ENTRY_QUIESCED
    intro wfi wake q s u hq hdom hquiet hcores hu
    subst hu
    have hready : ¬ ([q.dom].any (fun d => !s.domQuiet d || (decide (domCores d ≠ 0) && (!wfi ||
        s.coresPend (coreMasters d (2 ^ 16 - 1)) false)))) = true := by
      rw [List.any_cons, List.any_nil, hquiet]
      rcases hcores with hnone | ⟨hwait, hpend⟩
      · rw [hnone]
        simp
      · rw [hwait, hpend]
        simp
    rw [exec_pwrEntryQuiesced, execPwrEntryQuiesced, hq]
    dsimp only
    rw [if_neg hdom, if_neg hready, if_neg hdom]
    by_cases hwake : 1 ≤ wake ∧ wake ≤ 9
    · rw [if_pos hwake, if_neg (by omega : ¬ (wake = 0 ∨ 9 < wake))]
      rfl
    · rw [if_neg hwake, if_pos (by omega : wake = 0 ∨ 9 < wake)]
      rfl
  · -- PWR_ENTRY_QUIESCED
    intro wake q s hq hdom hready
    rw [exec_pwrEntryQuiesced, execPwrEntryQuiesced, hq]
    dsimp only
    rw [if_pos hdom, if_pos hdom]
    exact congrArg _ (if_neg (Bool.eq_false_iff.mp hready))
  · -- PWR_QUIESCE_TIMEOUT
    intro q s hq hsince
    simp [execPwrQuiesceTimeout, hq, hsince]
  · -- PWR_EXIT_DONE
    intro d asked s v hexit hv
    subst hv
    simp [execPwrExitDone, hexit]
  · -- AUTO_IDLE_ENTER
    intro d s hlow hhigh hon hdom hstill hother hphase hidle
    have hmoved : ((s.pwr.req).map (fun q => q.dom == d || q.dom == 31)).getD false = false := by
      cases hq : s.pwr.req with
      | none => rfl
      | some q => simpa using hother q hq
    rw [exec_autoIdleEnter, execAutoIdleEnter]
    dsimp only
    rw [if_pos ⟨hlow, hhigh, hon, hdom, hstill, by rw [hmoved] <;> rfl, hphase, by rw [hidle] <;> rfl⟩]
  · -- AUTO_IDLE_EXIT
    intro d s hd hdom hauto
    simp [execAutoIdleExit, hd, hdom, hauto]
  · -- WAKE_SOURCE_ASSERT
    intro source dom s hmay
    have hacts : ¬ (source = 8 ∧ (!s.irqWakes dom) = true) := by
      rintro ⟨hsource, hmasked⟩
      rcases hmay with h | h
      · exact h hsource
      · rw [h] at hmasked
        exact absurd hmasked (by decide)
    rw [exec_wakeSourceAssert, execWakeSourceAssert, if_neg hacts]
  · -- DOZE_REQUEST
    intro m oscStop s u hjudge hu hidle hmode hlease
    subst hu
    rw [exec_dozeRequest, execDozeRequest, State.busWr_done hjudge, State.dozeReq, hidle, hlease]
    exact congrArg _ ((if_neg (by decide)).trans ((if_neg (not_not_intro hmode)).trans (if_neg (by decide))))
  · -- DOZE_REQUEST
    intro m oscStop s u hjudge hu
    subst hu
    rw [exec_dozeRequest, execDozeRequest, State.busWr_done hjudge, State.dozeReq]
    refine ⟨fun hruns => ?_, fun hidle hmode => ?_, fun hidle hmode hlease => ?_⟩
    · rw [if_pos hruns]
    · rw [if_neg (Bool.eq_false_iff.mp hidle), if_pos hmode]
    · rw [if_neg (Bool.eq_false_iff.mp hidle), if_neg (not_not_intro hmode), if_pos hlease]
  · -- DOZE_WAKE
    intro ticks startUs b replayed s hwoken hphase
    simp only [exec_dozeWake, execDozeWake, hwoken, hphase] <;> rfl
  · -- DOZE_EXIT_DONE
    intro s v hphase hv
    subst hv
    simp [execDozeExitDone, hphase]
  · -- DOZE_EXIT_SLOW
    intro s hphase hle hslowSaid
    simp [execDozeExitSlow, hphase, hle, hslowSaid]
  · -- PLL_UNLOCK
    intro n s u hn hphase hmode hmode' hinReset hcontains hu
    subst hu
    simp only [exec_pllUnlock, execPllUnlock, hphase, hmode, hmode', hinReset, hcontains, Nat.not_le.mpr hn] <;> rfl
  · -- CLK_REF_LOSS
    intro k s u hk hon hok hrun hu
    subst hu
    rw [clkRefLoss_reported (by omega) hon hok hrun]
    dsimp only
    rw [if_neg (by omega : ¬ (k = 2 ∨ k = 3)), if_neg (by omega : ¬ (k = 4 ∨ k = 5)), if_neg (by omega : ¬ k = 6)]
  · -- CLK_REF_LOSS
    intro k s u v hlow hhigh hon hok hrun hu hv
    subst hu hv
    rw [clkRefLoss_reported (by omega) hon hok hrun]
    dsimp only
    rw [if_neg (by omega : ¬ k = 0)]
    by_cases hports : k ≤ 3
    · rw [if_pos hports, if_pos (by omega)]
    · rw [if_neg hports, if_neg (by omega), if_pos (by omega)]
  · -- CLK_REF_LOSS
    intro s u v hbitOf hrefOk hinReset hu hv
    subst hu hv
    simp [execClkRefLoss, hbitOf, hrefOk, hinReset]
  · -- CLK_REF_RETURN
    intro k s u hrefOk hu
    subst hu
    simp [execClkRefReturn, hrefOk]
  · -- PFAIL_RECOGNISED
    intro ns ticks startUs s u hle hen hmode hmode' hinReset htripped hu
    subst hu
    simp [execPfailRecognised, hen, hmode, hmode', hinReset, htripped, Nat.not_lt.mpr hle]
  · -- AON_SRST_REQ
    intro m s judged
    simp only [exec_aonSrstReq, execAonSrstReq, State.busWr_done judged]
  · -- FATAL_RESET_TIMER
    intro b l s u hdue hu hreset hhold hmode
    subst hu
    rw [exec_fatalResetTimer, execFatalResetTimer, hdue]
    exact congrArg _ (if_pos ⟨hreset, hhold, hmode⟩)

end Sys2Proof.Machine
end

section
/-! SUPPORT. Memory errors, the window of the event recorder and the thermal limits (chapter 18). -/

namespace Sys2Proof.Machine

section

variable {s : State} {m k : Nat}

/-- A read of a word of the loaded window answers it and counts; the last one moves the cursor on. -/
theorem evrWinRead_loaded (hk : k < 64) (hjudge : s.judge m Slot.EVR (0x200 + 8 * k) true false = none)
    (hready : s.get F.EVR_STAT_WIN_READY ≠ 0) :
    exec (.evrWinRead m k) s = .next (
      let u := (s.answer (s.health.win.getD k 0)).bump F.EVR_CNT_READ_COUNT
      if k ≠ 63 then u
      else if u.cursorMetric = 254 then u.cursorTo (u.get F.EVR_CURSOR_AREA) (u.get F.EVR_CURSOR_EPOCH + 1) 0
      else u.cursorTo (u.get F.EVR_CURSOR_AREA) (u.get F.EVR_CURSOR_EPOCH) (u.cursorMetric + 2)) := by
  rw [exec_evrWinRead, execEvrWinRead, if_neg (by omega), State.busRd_done hjudge, if_neg hready]

end

/-- Settles O52: each row by its premises; a read of the loaded window counts and at its end moves the cursor. -/
theorem errorsEventsAndHealthAct : Obligations.ErrorsEventsAndHealthAct := by
  refine ⟨?_, ?_, ?_, ?_, ?_, ?_, ?_, ?_, ?_, ?_, ?_, ?_, ?_, ?_, ?_, ?_, ?_, ?_, ?_, ?_, ?_, ?_, ?_, ?_⟩
  · -- ERQ_INJECT
    intro m slot cond s judged hinjectNo
    simp [execErqInject, State.busWr_done judged, hinjectNo]
  · -- ERQ_INJECT
    intro m slot cond s judged hinjectNo
    simp [execErqInject, State.busWr_done judged, hinjectNo]
  · -- MEMORY_ECC_ERROR
    intro slot addr tag c i p spare s hpageOf hdomUp
    refine ⟨?_, ?_⟩
    · simp [execMemoryEccError, hpageOf, hdomUp]
    · simp [execMemoryEccError, hpageOf, hdomUp]
  · -- MEMORY_ECC_ERROR
    intro slot addr tag i p spare s hpageOf hdomUp
    refine ⟨?_, ?_⟩
    · simp [execMemoryEccError, hpageOf, hdomUp]
    · simp [execMemoryEccError, hpageOf, hdomUp]
  · -- MEMORY_ECC_ERROR
    intro slot addr tag c i p s u hpage hup hu
    subst hu
    rw [exec_memoryEccError, execMemoryEccError, hpage]
    dsimp only
    rw [hup]
    cases (((s.raise slot Cond.SRAM_ECC_FAULT addr).jobFault tag).unit (unitKey c i)).enable <;> simp
  · -- MEMORY_ECC_ERROR
    intro slot addr tag i p spare s hpageOf hdomUp
    simp [execMemoryEccError, hpageOf, hdomUp]
  · -- EVR_EPOCH_END
    intro fails written s hdomUp hbeat
    simp only [exec_evrEpochEnd, execEvrEpochEnd, hdomUp, Nat.not_lt.mpr hbeat] <;> rfl
  · -- EVR_SAMPLE
    intro m metric value s judged hle hmetric
    simp [execEvrSample, State.busWr_done judged, Nat.not_lt.mpr hle, Nat.not_lt.mpr hmetric]
  · -- EVR_SAMPLE
    intro m metric value s judged hmetric
    simp [execEvrSample, State.busWr_done judged, hmetric]
  · -- EVR_CURSOR_WRITE
    intro m area epoch metric s judged
    simp only [exec_evrCursorWrite, execEvrCursorWrite, State.busWr_done judged]
  · -- EVR_WINDOW_LOADED
    intro s hdomUp hready
    simp only [exec_evrWindowLoaded, execEvrWindowLoaded, hdomUp, hready] <;> rfl
  · -- EVR_WIN_READ
    intro m k s hk hjudge hready
    rw [evrWinRead_loaded (by omega) hjudge hready]
    exact congrArg _ (if_pos (by omega))
  · -- EVR_WIN_READ
    intro m k s u hjudge hk hu
    subst hu
    refine ⟨fun hblank => ?_, fun hlast hready => ?_⟩
    · rw [exec_evrWinRead, execEvrWinRead, if_neg (by omega), State.busRd_done hjudge, if_pos hblank]
    · rw [evrWinRead_loaded hk hjudge hready]
      subst hlast
      rfl
  · -- EVR_CLR_CHAL_READ
    intro m s judged hmayDraw
    simp only [exec_evrClrChalRead, execEvrClrChalRead, State.busRd_done judged, hmayDraw] <;> rfl
  · -- EVR_CLR_CHAL_READ
    intro m s judged hmayDraw
    simp [execEvrClrChalRead, State.busRd_done judged, hmayDraw]
  · -- EVR_CLR_REQ
    intro m addr s u judged hclearBusy hu
    subst hu
    simp [execEvrClrReq, State.busWr_done judged, hclearBusy]
  · -- EVR_CLR_REQ
    intro m addr s judged hclearBusy
    simp [execEvrClrReq, State.busWr_done judged, hclearBusy]
  · -- EVR_SEC_CLEAR
    intro m s u v judged hu hlength hv
    subst hu hv
    refine ⟨?_, ?_⟩
    · simp [execEvrSecClear, State.busWr_done judged, Nat.not_le.mpr hlength]
    · simp [execEvrSecClear, State.busWr_done judged, Nat.not_le.mpr hlength]
  · -- EVR_SEC_CLEAR
    intro m written s u judged hu hle
    subst hu
    simp [execEvrSecClear, State.busWr_done judged, hle]
  · -- AGE_SAMPLE
    intro n margin s u hn hdomUp hu
    subst hu
    simp [execAgeSample, hdomUp, Nat.not_le.mpr hn]
  · -- THERMAL_WARNING
    intro sensor temp s u hsensor hu habove hfirst
    subst hu
    rw [exec_thermalWarning, execThermalWarning, if_neg (by omega)]
    dsimp only
    rw [hfirst, if_neg (not_or_intro (by omega) (by decide))]
  · -- THERMAL_SHUTDOWN
    intro sensor temp s u hsensor habove hu hrun htripped hmode
    subst hu
    rw [exec_thermalShutdown, execThermalShutdown]
    simp [hrun, htripped, hmode, Nat.not_le.mpr hsensor, not_le.mpr habove]
  · -- THERMAL_TRIP
    intro sensor temp s u v hsensor habove hu htripped hpin hv
    subst hu hv
    rw [exec_thermalTrip, execThermalTrip]
    simp [htripped, hpin, Nat.not_le.mpr hsensor, not_le.mpr habove]
  · -- THERMAL_WARNING_CLEAR
    intro sensor temp s u v hsensor hu hbelow hv
    subst hu hv
    rw [exec_thermalWarningClear, execThermalWarningClear, if_neg (by omega)]
    dsimp only
    rw [if_neg (by omega)]
    rfl

end Sys2Proof.Machine
end

section
/-! SUPPORT. The chain of BOOT: the bank that is run, the start of the firmware and the settings of a trial (chapters 14 and 16). -/

namespace Sys2Proof.Machine

section

variable {s : State} {readable converts writes : Bool}

/-- The firmware of a trial looks for its settings, which it has not migrated. -/
theorem State.migrates (htrial : s.flash.trial = true) (hnew : s.flash.migrated = false) (hstage : 2 ≤ s.get F.SEC_BOOT_STAT_STAGE)
    (hrun : s.health.bootHalted = false) :
    ¬ ((!s.flash.trial) = true ∨ s.flash.migrated = true ∨ s.get F.SEC_BOOT_STAT_STAGE < 2 ∨ s.health.bootHalted = true) := by
  simp [htrial, hnew, hrun, Nat.not_lt.mpr hstage]

end

/-- Settles O53: each step of the chain runs in its stage, and a trial looks for the settings it migrated. -/
theorem bootChainRuns : Obligations.BootChainRuns := by
  refine ⟨?_, ?_, ?_, ?_, ?_, ?_, ?_, ?_, ?_, ?_⟩
  · -- BOOT_LOADER_VERIFY
    intro keysOk sigsOk blocksOk svn digest s hchainAt hstate hcontains
    simp only [exec_bootLoaderVerify, execBootLoaderVerify, hchainAt, hstate, hcontains] <;> rfl
  · -- BOOT_LOADER_TIMEOUT
    intro s hchainAt hcontains hbootBeat
    simp only [exec_bootLoaderTimeout, execBootLoaderTimeout, hchainAt, hcontains, hbootBeat] <;> rfl
  · -- BUNDLE_CHECK
    intro s u hchainAt hchosen hnext hu
    subst hu
    simp [execBundleCheck, hchainAt, hchosen, hnext]
  · -- BUNDLE_CHECK
    intro b k s u hchain hnone hnext htries hu
    subst hu
    have hruns : ¬ ((!s.chainAt 1) = true ∨ s.flash.chosen.isSome = true) := by simp [hchain, hnone]
    rw [exec_bundleCheck, execBundleCheck, if_neg hruns, hnext]
    dsimp only
    by_cases hpass : s.imagePasses (s.bank b) = true
    · rw [if_pos ⟨htries, hpass⟩, if_pos hpass]
      rfl
    · rw [if_neg (fun h => hpass h.2), if_neg hpass]
  · -- BUNDLE_CHECK
    intro b k s u hchainAt hchosen hnext hle hu
    subst hu
    simp [execBundleCheck, hchainAt, hchosen, hnext, Nat.not_lt.mpr hle]
  · -- FIRMWARE_START
    intro settingsOk s u hchosen hstage hrun hhalted hmode hready hu
    subst hu
    have hstarts : ¬ (s.flash.chosen.isNone = true ∨ s.get F.SEC_BOOT_STAT_STAGE ≠ 1 ∨ s.inReset = true ∨ s.health.bootHalted = true ∨
        (!(s.sec.udsClosed || s.mayDraw)) = true ∨ (!(s.mode == .boot || s.mode == .service)) = true) := by
      have hmode : (s.mode == .boot || s.mode == .service) = true := by
        rcases hmode with h | h <;> rw [h] <;> decide
      simp [Option.isSome_iff_ne_none.mp hchosen, hstage, hrun, hhalted, hmode, hready]
    constructor
    · rw [exec_firmwareStart, execFirmwareStart, if_neg hstarts]
      rfl
    · rw [exec_firmwareStart, execFirmwareStart, if_neg hstarts]
      rfl
  · -- HBM_TRAIN
    intro stack ok beats s u hstack hinReset hle hdomUp hu
    subst hu
    simp [execHbmTrain, hinReset, hdomUp, Nat.not_le.mpr hstack, Nat.not_lt.mpr hle]
  · -- SETTINGS_MIGRATE
    intro b k s htrial hnew hstage hrun hnext hok hblank
    rw [exec_settingsMigrate, execSettingsMigrate, if_neg (State.migrates htrial hnew hstage hrun)]
    dsimp only
    rw [hblank, if_neg (by simp), hok, hnext, if_pos (by decide)]
    simp only [Option.map_some, Option.getD_some, State.modFlash]
  · -- SETTINGS_MIGRATE
    intro readable converts writes b k x s htrial hnew hstage hrun hnext hx hok hsource hformat
    have hkept : AL.getD s.flash.slot {} s.flash.slots = x := by rw [AL.getD, hx, Option.getD_some]
    have hhas : AL.has s.flash.slot s.flash.slots = true := by rw [AL.has, hx, Option.isSome_some]
    rw [exec_settingsMigrate, execSettingsMigrate, if_neg (State.migrates htrial hnew hstage hrun)]
    dsimp only
    rw [hkept, hnext]
    exact congrArg _ (if_pos ⟨hhas, hok, hsource, hformat⟩)
  · -- SETTINGS_MIGRATE
    intro readable converts writes s htrial hnew hstage hrun hblank hfail
    have hfail : ¬ (readable && (AL.getD s.flash.ptr.curSlot {} s.flash.slots).ok && converts && writes) = true := by
      intro h
      simp only [Bool.and_eq_true] at h
      obtain ⟨⟨⟨hreadable, _⟩, hconverts⟩, hwrites⟩ := h
      simp [hreadable, hconverts, hwrites] at hfail
    rw [exec_settingsMigrate, execSettingsMigrate, if_neg (State.migrates htrial hnew hstage hrun)]
    dsimp only
    rw [hblank, if_neg (by simp), if_neg hfail]

end Sys2Proof.Machine
end

section
/-! SUPPORT. The requests of the update service (chapter 16): what each does on its turn, and the condition of the first check it fails. -/

namespace Sys2Proof.Machine

section

variable {s : State} {op c a src : Nat}

/-- A request on its turn that ends, ends with its condition and words. -/
theorem State.updRun_ends {f : State → Nat → Nat → Nat → Option (Nat × List Nat × State)} {cond : Nat} {words : List Nat} {t : State}
    (h : s.UpdTurn op c a) (hlow : 1 ≤ op) (hhigh : op ≤ 9) (hsrc : src = if c = 129 then 2 else 1)
    (hf : f s c a src = some (cond, words, t)) : s.updRun op f = t.updEnd cond words := by
  rw [State.updRun_turn h hlow hhigh, ← hsrc, hf]

/-- What BEGIN makes of the block 0 that it takes. -/
def State.bundleBegun (u : State) (src b x : Nat) : State :=
  if bundleOk x = true then
    (u.contentKey x).elim (u.updEnd Cond.UPD_ENVELOPE_ABSENT)
      (fun k => (((u.modFlash (fun f => { f with source := src, kslBlocks := none })).modBank b
        (fun _ => { state := 1, id := blkNat x 8 8, blocks := blkNat x 16 4, ckey := k })).putBlock b 0 x).updEnd 0)
  else u.updEnd Cond.UPD_BUNDLE_INVALID

/-- BEGIN that passes its checks takes block 0, or waits until it has come. -/
theorem updBegin_admitted {b : Nat} (h : s.UpdTurn 1 c a) (hsrc : src = if c = 129 then 2 else 1)
    (hfree : s.flash.source = 0 ∨ s.flash.source = src) (hb : s.staging = some b) (htrial : s.flash.trial = false)
    (hplace : src = 1 → inHbm (s.updArg c a 1) 65536 = true) :
    exec .updBegin s = .next ((s.updBlock src (s.updArg c a 1) 0 0).elim s (fun x => (s.kslDrop 0).bundleBegun src b x)) := by
  have hidle : ¬ (s.flash.source ≠ 0 ∧ s.flash.source ≠ src) := fun ⟨hz, hs⟩ => hfree.elim hz hs
  have hplaced : ¬ (src = 1 ∧ (!inHbm (s.updArg c a 1) 65536) = true) := by
    rintro ⟨h1, hno⟩
    rw [hplace h1] at hno
    exact absurd hno (by decide)
  rw [exec_updBegin, execUpdBegin, State.updRun_turn h (by decide) (by decide), ← hsrc]
  dsimp only
  rw [if_neg hidle, hb, htrial]
  dsimp only
  rw [if_neg hplaced]
  cases s.updBlock src (s.updArg c a 1) 0 0 with
  | none => rfl
  | some x =>
    dsimp only [Option.elim, State.bundleBegun]
    cases bundleOk x with
    | false => rfl
    | true => cases (s.kslDrop 0).contentKey x <;> rfl

end

/-- Settles O54: on its turn a request ends with its condition and words (`State.updRun_ends`), or waits. -/
theorem updateRequestsRun : Obligations.UpdateRequestsRun := by
  refine ⟨?_, ?_, ?_, ?_, ?_, ?_, ?_, ?_, ?_, ?_, ?_, ?_, ?_, ?_, ?_, ?_, ?_, ?_, ?_⟩
  · -- UPD_BEGIN
    intro c a b s u hturn hc hsource hb htrial hplace hu
    subst hu
    have hblock : s.updBlock 1 (s.updArg c a 1) 0 0 = some (leOf (s.bytesAt (s.updArg c a 1) 65536)) := by
      rw [State.updBlock, if_neg (by decide), Nat.mul_zero, Nat.add_zero]
    rw [updBegin_admitted hturn (if_neg hc).symm hsource hb htrial (fun _ => hplace), hblock, Option.elim_some,
        State.bundleBegun]
    by_cases hok : bundleOk (leOf (s.bytesAt (s.updArg c a 1) 65536)) = true
    · refine congrArg _ ((if_pos hok).trans (Eq.trans ?_ (if_pos hok).symm))
      cases (s.kslDrop 0).contentKey (leOf (s.bytesAt (s.updArg c a 1) 65536)) <;> rfl
    · exact congrArg _ ((if_neg hok).trans (if_neg hok).symm)
  · -- UPD_BLOCKS
    intro c a b s hturn hc hb hbank hsource hsome hmany hplace
    rw [exec_updBlocks, execUpdBlocks]
    refine congrArg _ (State.updRun_ends hturn (by decide) (by decide) (if_neg hc).symm ?_)
    dsimp only
    rw [hb]
    dsimp only
    rw [if_neg (by simp [hbank, hsource]), if_neg (by simp [hplace]; omega), if_neg (by decide)]
  · -- UPD_BLOCKS
    intro a b s hturn hb hbank hsource hsome hmany
    rw [exec_updBlocks, execUpdBlocks]
    refine congrArg _ (State.updRun_ends hturn (by decide) (by decide) (if_pos rfl).symm ?_)
    dsimp only
    rw [hb]
    dsimp only
    rw [if_neg (by simp [hbank, hsource]), if_neg (by omega), if_pos rfl]
  · -- UPD_VERIFY
    intro loader c a b s hturn hb hbank hsource
    rw [exec_updVerify, execUpdVerify]
    by_cases hsound : s.bundleCheck (s.bank b) loader = 0
    · rw [if_pos hsound]
      refine congrArg _ (State.updRun_ends hturn (by decide) (by decide) hsource ?_)
      dsimp only
      rw [hb]
      dsimp only
      rw [if_neg (by simp [hbank]), if_pos hsound]
    · rw [if_neg hsound]
      refine congrArg _ (State.updRun_ends hturn (by decide) (by decide) hsource ?_)
      dsimp only
      rw [hb]
      dsimp only
      rw [if_neg (by simp [hbank]), if_neg hsound]
  · -- UPD_SCHEDULE
    intro c a b s hturn htrial hb hbank
    rw [exec_updSchedule, execUpdSchedule]
    refine congrArg _ (State.updRun_ends hturn (by decide) (by decide) rfl (if_neg ?_))
    simp [htrial, hb, hbank]
  · -- UPD_CANCEL
    intro c a b s hturn hnext hb
    rw [exec_updCancel, execUpdCancel]
    refine congrArg _ (State.updRun_ends hturn (by decide) (by decide) rfl ?_)
    rw [hnext, hb]
  · -- UPD_CONFIRM
    intro c a s hturn hmay
    rw [exec_updConfirm, execUpdConfirm]
    exact congrArg _ (State.updRun_ends hturn (by decide) (by decide) rfl (if_pos hmay))
  · -- UPD_STATUS
    intro c a s hturn
    rw [exec_updStatus, execUpdStatus]
    by_cases hlink : c = 129
    · rw [if_pos hlink]
      exact congrArg _ (State.updRun_ends hturn (by decide) (by decide) (if_pos hlink).symm (if_pos rfl))
    rw [if_neg hlink]
    by_cases hplace : inHbm (s.updShow.updArg c a 1) 40 = true
    · rw [if_pos hplace]
      exact congrArg _ (State.updRun_ends hturn (by decide) (by decide) (if_neg hlink).symm
        ((if_neg (by decide)).trans (if_pos hplace)))
    · rw [if_neg hplace]
      exact congrArg _ (State.updRun_ends hturn (by decide) (by decide) (if_neg hlink).symm
        ((if_neg (by decide)).trans (if_neg hplace)))
  · -- UPD_SETTINGS
    intro c a s hturn hitem hplace htrial
    have hplaced : ¬ ((!itemOk (s.updArg c a 1) (s.updArg c a 2)) = true ∨
        ((if c = 129 then 2 else 1) = 1 ∧ (!inHbm (s.updArg c a 3) (s.updArg c a 2)) = true)) := by
      rw [hitem]
      rcases hplace with h | h <;> simp [h]
    have hmigrated : ¬ (s.flash.trial = true ∧ (!s.flash.migrated) = true) := by
      rcases htrial with h | h <;> simp [h]
    rw [exec_updSettings, execUpdSettings]
    refine congrArg _ (State.updRun_ends hturn (by decide) (by decide) rfl ((if_neg hplaced).trans ((if_neg hmigrated).trans ?_)))
    by_cases hlink : c = 129
    · rw [if_pos hlink, if_pos hlink, if_pos rfl]
    · rw [if_neg hlink, if_neg hlink, if_neg (by decide)]
  · -- UPD_FUSE
    intro a op s hturn hop hmay
    rw [exec_updFuse, execUpdFuse]
    refine congrArg _ (State.updRun_ends hturn (by decide) (by decide) (if_pos rfl).symm ?_)
    dsimp only
    rw [← hop]
    rcases hmay with ⟨h, hroot⟩ | h | ⟨h, hroot, hlocked⟩
    · simp [h, hroot]
    · simp [h]
    · simp [h, hroot, hlocked]
  · -- UPD_BEGIN
    intro c a src s hturn hsrc
    rw [exec_updBegin, execUpdBegin]
    refine ⟨fun hstaging hother => ?_, fun hfree hno => ?_, fun hfree hb htrial hown hplace => ?_⟩
    · exact congrArg _ (State.updRun_ends hturn (by decide) (by decide) hsrc (if_pos ⟨hstaging, hother⟩))
    · refine congrArg _ (State.updRun_ends hturn (by decide) (by decide) hsrc
        ((if_neg fun ⟨hz, hs⟩ => hfree.elim hz hs).trans ?_))
      rcases hno with h | h
      · rw [h]
      · rw [h]
        cases s.staging <;> rfl
    · refine congrArg _ (State.updRun_ends hturn (by decide) (by decide) hsrc
        ((if_neg fun ⟨hz, hs⟩ => hfree.elim hz hs).trans ?_))
      obtain ⟨b, hb⟩ := Option.isSome_iff_exists.mp hb
      rw [hb, htrial]
      exact if_pos ⟨hown, by rw [hplace] <;> rfl⟩
  · -- UPD_BEGIN
    intro a b s u hturn hsource hb htrial hu
    subst hu
    rw [updBegin_admitted hturn (if_pos rfl).symm hsource hb htrial (fun h => absurd h (by decide))]
    cases s.updBlock 2 (s.updArg 129 a 1) 0 0 with
    | none => rfl
    | some x =>
      simp only [Option.elim_some, State.bundleBegun]
      by_cases hok : bundleOk x = true
      · rw [if_pos hok, if_pos hok]
        cases (s.kslDrop 0).contentKey x <;> rfl
      · rw [if_neg hok, if_neg hok]
  · -- UPD_BLOCKS
    intro c a src s hturn hsrc
    rw [exec_updBlocks, execUpdBlocks]
    refine ⟨fun hno => ?_, fun b hb hbank hsource hargs => ?_⟩
    · refine congrArg _ (State.updRun_ends hturn (by decide) (by decide) hsrc ?_)
      dsimp only
      cases hb : s.staging with
      | none => rfl
      | some b =>
        refine if_pos ?_
        rcases hno with h | h | h
        · rw [h] at hb
          cases hb
        · exact Or.inl (h b hb)
        · exact Or.inr h
    · refine congrArg _ (State.updRun_ends hturn (by decide) (by decide) hsrc ?_)
      dsimp only
      rw [hb]
      dsimp only
      rw [if_neg (by simp [hbank, hsource]), if_pos (by simpa using hargs)]
  · -- UPD_VERIFY
    intro c a src loader s hturn hsrc hno
    rw [exec_updVerify, execUpdVerify]
    refine congrArg _ (State.updRun_ends hturn (by decide) (by decide) hsrc ?_)
    dsimp only
    cases hb : s.staging with
    | none => rfl
    | some b => exact if_pos (hno b hb)
  · -- UPD_SCHEDULE
    intro c a s hturn hno
    rw [exec_updSchedule, execUpdSchedule]
    refine congrArg _ (State.updRun_ends hturn (by decide) (by decide) rfl (if_pos (hno.imp_right fun h => ?_)))
    cases hb : s.staging with
    | none => simp
    | some b => exact h b hb
  · -- UPD_CANCEL
    intro c a s hturn hno
    rw [exec_updCancel, execUpdCancel]
    refine congrArg _ (State.updRun_ends hturn (by decide) (by decide) rfl ?_)
    cases hnext : s.flash.ptr.next with
    | some q => rfl
    | none => rw [hno.resolve_left (not_not_intro hnext)]
  · -- UPD_CONFIRM
    intro c a s hturn hno
    rw [exec_updConfirm, execUpdConfirm]
    exact congrArg _ (State.updRun_ends hturn (by decide) (by decide) rfl (if_neg (Bool.eq_false_iff.mp hno)))
  · -- UPD_SETTINGS
    intro c a s hturn
    rw [exec_updSettings, execUpdSettings]
    refine ⟨fun hno => ?_, fun hitem hplace htrial hnew => ?_⟩
    · refine congrArg _ (State.updRun_ends hturn (by decide) (by decide) rfl (if_pos ?_))
      rcases hno with h | ⟨hc, h⟩
      · simp [h]
      · simp [hc, h]
    · refine congrArg _ (State.updRun_ends hturn (by decide) (by decide) rfl ((if_neg ?_).trans (if_pos ?_)))
      · rw [hitem]
        rcases hplace with h | h <;> simp [h]
      · simp [htrial, hnew]
  · -- UPD_FUSE
    intro c a op s hturn hop hno
    rw [exec_updFuse, execUpdFuse]
    refine congrArg _ (State.updRun_ends hturn (by decide) (by decide) rfl ?_)
    dsimp only
    rw [← hop]
    rcases hno with h | ⟨h, hroot⟩ | ⟨h, hroot⟩ | h | h
    · simp [h]
    · simp [h, hroot]
    · rcases hroot with h' | h' <;> simp [h, h']
    · have hcases : op = 0 ∨ op = 1 ∨ op = 2 := by omega
      rcases hcases with h | h | h <;> simp [h]
    · obtain ⟨n, hn⟩ : ∃ n, op = n + 6 := ⟨op - 6, by omega⟩
      simp [hn]

end Sys2Proof.Machine
end

section
/-! SUPPORT. The check of a scheduled activation (chapter 16). -/

namespace Sys2Proof.Machine

/-- Settles O55: in PAIRED the conditions of R627 leave a busy mode request as the only refusal. -/
theorem activationAndTrialMove : Obligations.ActivationAndTrialMove := by
  refine ⟨?_, ?_, ?_, ?_, ?_, ?_, ?_⟩
  · -- UPD_ACTIVATE_CHECK
    intro n t w said s hage hsched hwindow hactivating hmay hmode hhand hbusy
    have hpeer : s.get F.PRL_STAT_REACHABLE = 1 ∧ s.get F.PRL_PEER_INFO_MODE = 3 := by
      simp only [State.mayActivate, hmode, Bool.and_eq_true, Bool.or_eq_true, beq_iff_eq] at hmay
      rcases hmay.2 with ⟨⟨_, hreach⟩, hpaired⟩ | ⟨hsolo, _⟩
      · exact ⟨hreach, hpaired⟩
      · cases hsolo
    have hadmitted : s.modeRefusal 1 = 0 := by
      rw [State.modeRefusal_admitted (by simp [hpeer]) (by simp [hmode]) (Or.inl ⟨Or.inl rfl,
          Or.inr (by simp [State.serving, hmode])⟩),
        if_neg (by omega)]
    rw [exec_updActivateCheck, execUpdActivateCheck, hage, hsched]
    dsimp only
    rw [if_neg (by simp [hactivating]; omega), if_neg (by simp [hmay]), if_neg (not_not_intro hhand), if_pos hmode, hadmitted,
      if_neg (by decide), if_pos hmode]
  · -- UPD_ACTIVATE_CHECK
    intro n t w said s hn hsched hn' hactivating hmayActivate hmode hhand hmodeRefusal
    simp [execUpdActivateCheck, hn, hsched, hactivating, hmayActivate, hmode, hhand, hmodeRefusal, Nat.not_le.mpr hn']
  · -- UPD_ACTIVATE_CHECK
    intro n t w c said s hage hsched hwindow hactivating hmay hc hrefused
    subst hc
    rw [exec_updActivateCheck, execUpdActivateCheck, hage, hsched]
    dsimp only
    rw [if_neg (by simp [hactivating]; omega), if_neg (by simp [hmay]), if_pos hrefused]
  · -- UPD_ACTIVATE_CHECK
    intro n t w s hn hsched hn' hmayActivate
    simp [execUpdActivateCheck, hn, hsched, hmayActivate, Nat.not_le.mpr hn']
  · -- UPD_ACTIVATE_CHECK
    intro n t w s hn hsched hn' hactivating hmayActivate
    simp [execUpdActivateCheck, hn, hsched, hactivating, hmayActivate, Nat.not_le.mpr hn']
  · -- UPD_ACTIVATE_EXPIRED
    intro n t w said s hn hsched hle hactivating
    simp [execUpdActivateExpired, hn, hsched, hle, hactivating]
  · -- UPD_TRIAL_TIMEOUT
    intro s htrial hdeadline hafter
    simp [execUpdTrialTimeout, htrial, hafter, Nat.not_lt.mpr hdeadline]

end Sys2Proof.Machine
end

section
/-! SUPPORT. Frames of the service link (chapter 16): what each type does where its trailer verifies, and the end of an idle session. -/

namespace Sys2Proof.Machine

section

variable {s u t : State} {frame : List Nat} {typ len session seq : Nat} {g : State → Nat → Bool → List Nat → State}

theorem State.kslOnce_first {f : State → State} (h : AL.get seq s.flash.resps = none) : s.kslOnce seq f = f s := by
  rw [State.kslOnce, h]

theorem State.kslOnce_again {f : State → State} {l : List Nat} (h : AL.get seq s.flash.resps = some l) :
    s.kslOnce seq f = s.kslSend (l.headD 5) (seq :: l.tail) := by
  rw [State.kslOnce, h]

/-- A whole frame of a number that was not answered has its effect where its trailer verifies. -/
theorem State.kslRx_first (h : s.KslFrame frame typ len session) (hu : u = s.kslHeard.kslSound session)
    (hnew : AL.get (bytesNat frame 4 4) u.flash.resps = none)
    (hg : g u (bytesNat frame 4 4) (session != 0) ((frame.take (16 + len)).drop 16) = t) :
    s.kslRx frame typ (fun s seq inSession p => s.kslOnce seq (fun s => g s seq inSession p)) =
      if s.kslHeard.kslTrailerOk (frame.take (16 + len)) (frame.drop (16 + len)) session = true then t
      else s.kslHeard.bump F.SVC_CNT_BAD_COUNT := by
  rw [State.kslRx_turn h, ← hu, State.kslOnce_first hnew, hg]

/-- One of a number that was answered is answered again with the same. -/
theorem State.kslRx_again {l : List Nat} (h : s.KslFrame frame typ len session) (hu : u = s.kslHeard.kslSound session)
    (htrailer : s.kslHeard.kslTrailerOk (frame.take (16 + len)) (frame.drop (16 + len)) session = true)
    (hold : AL.get (bytesNat frame 4 4) u.flash.resps = some l) :
    s.kslRx frame typ (fun s seq inSession p => s.kslOnce seq (fun s => g s seq inSession p)) =
      u.kslSend (l.headD 5) (bytesNat frame 4 4 :: l.tail) := by
  rw [State.kslRx_turn h, ← hu, if_pos htrailer, State.kslOnce_again hold]

/-- A frame whose header or length is not as it must be is counted. -/
theorem State.kslRx_bad {f : State → Nat → Bool → List Nat → State} (hup : s.svcUp = true) (htyp : frame.getD 3 0 = typ)
    (hbad : ¬ (frame.getD 0 0 = 0x4B ∧ frame.getD 1 0 = 0x53 ∧ frame.getD 2 0 = 1 ∧
      kslLenOk (frame.getD 3 0) (bytesNat frame 8 2) = true ∧ 16 + bytesNat frame 8 2 ≤ frame.length)) :
    s.kslRx frame typ f = s.kslHeard.bump F.SVC_CNT_BAD_COUNT := by
  have hawake : ¬ s.svcWakes = true := by
    intro hwakes
    rw [State.svcUp, hwakes] at hup
    simp at hup
  subst htyp
  rw [State.kslRx, if_neg hawake, if_neg (by simp [hup])]
  dsimp only
  rw [if_neg, State.kslHeard]
  rintro ⟨h0, h1, h2, hlen, hwhole, _⟩
  refine hbad ⟨h0, h1, h2, hlen, ?_⟩
  rw [List.length_take] at hwhole
  omega

/-- What a DATA frame that its session may send keeps. -/
theorem kslPayload_length (h : s.KslFrame frame typ len session) : ((frame.take (16 + len)).drop 16).length = len := by
  obtain ⟨_, _, _, _, _, _, _, _, hwhole⟩ := h
  rw [List.length_drop, List.length_take]
  omega

/-- A REQ is refused outside its session or scope, but for an open STATUS. -/
theorem kslReq_refused_iff {op readOpen : Nat} {scope : Bool} :
    (!(decide (op = 7) && readOpen == 1) && !(session != 0 && scope)) = true ↔
      (op ≠ 7 ∨ readOpen ≠ 1) ∧ (session = 0 ∨ scope = false) := by
  simp only [Bool.and_eq_true, Bool.not_eq_true', Bool.and_eq_false_iff, decide_eq_false_iff_not, beq_eq_false_iff_ne,
    bne_eq_false_iff_eq, ne_eq]

theorem kslReq_admitted {op readOpen : Nat} {scope : Bool} (h : (op = 7 ∧ readOpen = 1) ∨ (session ≠ 0 ∧ scope = true)) :
    ¬ (!(decide (op = 7) && readOpen == 1) && !(session != 0 && scope)) = true := by
  rw [kslReq_refused_iff]
  rintro ⟨hclosed, hno⟩
  rcases h with ⟨hop, hopen⟩ | ⟨hsession, hscope⟩
  · exact hclosed.elim (fun h => h hop) (fun h => h hopen)
  · exact hno.elim hsession (fun h => Bool.false_ne_true (h.symm.trans hscope))

end

/-- Settles O56: a frame has its effect where its trailer verifies (`State.kslRx_first`), or is answered again (`State.kslRx_again`). -/
theorem serviceLinkFramesAct : Obligations.ServiceLinkFramesAct := by
  refine ⟨?_, ?_, ?_, ?_, ?_, ?_, ?_, ?_, ?_, ?_, ?_, ?_, ?_, ?_⟩
  · -- KSL_CHALLENGE_REQ
    intro frame len session s u hframe hu hdraw
    subst hu
    rw [exec_kslChallengeReq, execKslChallengeReq, State.kslRx_turn hframe, if_pos hdraw]
    rfl
  · -- KSL_CHALLENGE_REQ
    intro frame len session s u hframe hu hdraw
    subst hu
    rw [exec_kslChallengeReq, execKslChallengeReq, State.kslRx_turn hframe, if_neg (Bool.eq_false_iff.mp hdraw)]
  · -- KSL_AUTH
    intro frame p nonce roots msg session v key root r s u w hframe hu hp hnew hv hnonce hroots hmsg hroot hkey hfree
    rw [exec_kslAuth, execKslAuth]
    refine congrArg _ (State.kslRx_first hframe hu hnew ?_)
    dsimp only
    rw [hv]
    dsimp only
    rw [← hp, ← hnonce, ← hroots, ← hmsg, ← hroot, ← hkey, hfree]
  · -- KSL_REQ
    intro frame p len session s u hframe hu hp hnew hwaits hscope
    rw [exec_kslReq, execKslReq]
    refine congrArg _ (State.kslRx_first hframe hu hnew ?_)
    dsimp only
    rw [← hp, if_neg (kslReq_admitted hscope), if_neg (Bool.eq_false_iff.mp hwaits)]
  · -- KSL_DATA
    intro frame p session s u hframe hu hp hsession hnew hscope hplace hroom
    have hlen : p.length = 1030 := hp ▸ kslPayload_length hframe
    rw [exec_kslData, execKslData]
    refine congrArg _ (State.kslRx_first hframe hu hnew ?_)
    dsimp only
    rw [← hp, if_neg]
    rintro (h | h | h | h | ⟨h, h'⟩)
    · simp [hsession] at h
    · rw [hscope] at h
      exact absurd h (by decide)
    · omega
    · exact h hlen
    · rcases hroom with hheld | hfew
      · rw [hheld] at h
        exact absurd h (by decide)
      · omega
  · -- KSL_LOADER
    intro frame done keysOk sigsOk blocksOk len session svn digest s u hframe hu hnew
    rw [exec_kslLoader, execKslLoader]
    exact congrArg _ (State.kslRx_first hframe hu hnew rfl)
  · -- KSL_READ
    intro frame a len session s u v hframe hu hnew hmay ha hwindow hv
    subst hv
    rw [exec_kslRead, execKslRead]
    refine congrArg _ (State.kslRx_first hframe hu hnew ?_)
    dsimp only
    rw [← ha, if_neg, if_pos hwindow]
    rcases hmay with h | h <;> simp [h]
  · -- KSL_CHALLENGE_REQ, KSL_AUTH, KSL_REQ, KSL_DATA, KSL_READ, KSL_LOADER
    intro frame done keysOk sigsOk blocksOk svn digest s hup hbad
    exact ⟨fun h => congrArg _ (State.kslRx_bad hup h hbad), fun h => congrArg _ (State.kslRx_bad hup h hbad),
      fun h => congrArg _ (State.kslRx_bad hup h hbad), fun h => congrArg _ (State.kslRx_bad hup h hbad),
      fun h => congrArg _ (State.kslRx_bad hup h hbad), fun h => congrArg _ (State.kslRx_bad hup h hbad)⟩
  · -- KSL_AUTH, KSL_REQ, KSL_DATA, KSL_READ, KSL_LOADER
    intro frame l done keysOk sigsOk blocksOk typ len session svn digest s u hframe hu htrailer hold
    refine ⟨fun h => ?_, fun h => ?_, fun h => ?_, fun h => ?_, fun h => ?_⟩ <;> subst h <;>
      exact congrArg _ (State.kslRx_again hframe hu htrailer hold)
  · -- KSL_AUTH
    intro frame len session s u hframe hu hnew hnone
    rw [exec_kslAuth, execKslAuth]
    refine congrArg _ (State.kslRx_first hframe hu hnew ?_)
    dsimp only
    rw [hnone]
  · -- KSL_REQ
    intro frame p len session s u hframe hu hp htrailer hnew
    rw [exec_kslReq, execKslReq]
    refine ⟨fun hclosed hno => ?_, fun hscope hwaits => ?_⟩
    · refine congrArg _ ((State.kslRx_first hframe hu hnew ?_).trans (if_pos htrailer))
      dsimp only
      rw [← hp, if_pos (kslReq_refused_iff.mpr ⟨hclosed, hno⟩)]
    · refine congrArg _ ((State.kslRx_first hframe hu hnew ?_).trans (if_pos htrailer))
      dsimp only
      rw [← hp, if_neg (kslReq_admitted hscope), if_pos hwaits]
  · -- KSL_DATA
    intro frame p session s u hframe hu hp hnew hno
    rw [exec_kslData, execKslData]
    refine congrArg _ (State.kslRx_first hframe hu hnew ?_)
    dsimp only
    rw [← hp, if_pos]
    rcases hno with h | h | h | ⟨h, h'⟩
    · exact Or.inl (by simp [h])
    · exact Or.inr (Or.inl (by rw [h] <;> rfl))
    · exact Or.inr (Or.inr (Or.inl h))
    · exact Or.inr (Or.inr (Or.inr (Or.inr ⟨by rw [h] <;> rfl, h'⟩)))
  · -- KSL_READ
    intro frame a len session s u v hframe hu htrailer hnew ha hv
    subst hv
    rw [exec_kslRead, execKslRead]
    refine ⟨fun hsession hclosed => ?_, fun hmay hoff => ?_⟩
    · refine congrArg _ ((State.kslRx_first hframe hu hnew ?_).trans (if_pos htrailer))
      exact if_pos (by simp [hsession, hclosed])
    · refine congrArg _ ((State.kslRx_first hframe hu hnew ?_).trans (if_pos htrailer))
      dsimp only
      rw [← ha, if_neg, if_neg (Bool.eq_false_iff.mp hoff)]
      rcases hmay with h | h <;> simp [h]
  · -- KSL_SESSION_TIMEOUT
    intro x s hx hidle
    rw [exec_kslSessionTimeout, execKslSessionTimeout, hx]
    exact congrArg _ (if_pos hidle)

end Sys2Proof.Machine
end
